-- ==== Sys2Proof/Word.lean ====
section
/-! DEFINITION. The word types of the TZ-GL4 and their plainest arithmetic (R156, R323, R379). -/

namespace Sys2Proof

/-- One byte of storage. -/
abbrev Byte := BitVec 8
/-- A scalar register or a 64-bit device register. -/
abbrev W64 := BitVec 64
/-- An instruction word (R323). -/
abbrev W32 := BitVec 32
/-- One vector register: 2,048 bits (R156). -/
abbrev Vec := BitVec 2048
/-- One poison bit per 32-bit lane of a vector register (R156). -/
abbrev LaneBits := BitVec 64
/-- One mask register (R156). -/
abbrev KMask := BitVec 512
/-- A program counter: a word index into a 16,384-word instruction memory (R167). -/
abbrev Pc := BitVec 14
/-- A number of a scalar register, a vector name, a mask, and so on (R326). -/
abbrev R5 := BitVec 5
abbrev V6 := BitVec 6
abbrev K4 := BitVec 4
abbrev F3 := BitVec 3

end Sys2Proof
end

