-- ==== Sys2Proof/Config.lean ====
section
/-! DEFINITION. What an implementation fixes and the manual leaves open: free values, constants without a body,
so that no proof can see which value they are (log entries 2 and 10). -/

namespace Sys2Proof.Config

/-- The `n`th undefined value of the run, at any width (R6). Free. -/
opaque freeBits : (w n : Nat) → BitVec w

/-- The AES-256-XTS key that a draw of the I/O die's CTR_DRBG gave, by the identity of the draw: data key, then tweak key (R108, R109).
Each device decides. -/
opaque keyValue : (draw : Nat) → BitVec 512

/-- A line that is read under a key slot which holds no key, an access that R109 does not let reach the memory: draw it was written under,
line number, stored ciphertext. Free. -/
opaque emptySlot : (wrote line : Nat) → BitVec 512 → BitVec 512

/-- What the HBM decoder does with the `n`th codeword of 13 or more symbol errors (R16: no promise), as it was received: the line, and
whether it is poisoned. Free. -/
opaque hbmBeyond : (n : Nat) → (received : BitVec 640) → BitVec 512 × Bool

/-- Bytes that another package's memory holds, by package id and address in its own map (R193, R364). Free. -/
opaque peerByte : (pkg addr n : Nat) → Byte

/-- Bytes of a sealed page that another package holds: they are the same at every read (R266). Free. -/
opaque peerSealedByte : (pkg addr : Nat) → Byte

/-- Tile revision and scan map digest of a tile (R299). Each implementation decides. -/
opaque tileRev : BitVec 8 → BitVec 32
opaque scanMap : BitVec 8 → BitVec 256

/-- The device identity key (R96): RSA-3072 modulus, and the private exponent that the fuses hold wrapped. Each device decides. -/
opaque idKey : BitVec 3072
opaque idSecret : BitVec 3072

/-- The X.509 certificate chain that ends in the identity key (R96). Each device decides. -/
opaque certChain : List Byte

/-- Henavik's vendor identifier at PCI-SIG (R103). -/
opaque vendorId : BitVec 16

/-- The bytes of an SPDM message whose content DMTF's protocol fixes, not the manual (R98, R99). Free. -/
opaque spdmBytes : (n : Nat) → List Byte

/-- Readings of the management objects that no state of the model holds: rail currents, by query (R36). Free. -/
opaque railCurrent : (n : Nat) → BitVec 64

/-- The image key that a draw of the CTR_DRBG gave a key slot beside its XTS keys (R109, R300). Each device decides. -/
opaque imageKey : (draw : Nat) → BitVec 256

/-- Byte `off` of a part of image `img` whose layout R299 does not give: the control section, tags, states, log entries. Free. -/
opaque imageFill : (img : BitVec 32) → (part off : Nat) → Byte

end Sys2Proof.Config
end

