-- ==== Sys2Proof/Syntax.lean ====
section
/-! DEFINITION. The syntax of the TZ-GL4: element types, the operands of the steps, and `Instr`, one
constructor per row of the table of operations and events. A row that has an instruction word carries the
fields of that word; a row that is an event of the package carries what the event's outside world supplies. -/

namespace Sys2Proof

/-- The sixteen element type codes of R327. -/
inductive Ty where
  | i8 | i16 | i32 | i64 | n8 | n16 | n32 | oi4 | e2m1 | e4m3 | e5m2 | f16 | bf16 | f32 | f64 | a40
  deriving DecidableEq, Repr

/-- The two streams of a tile (R156). -/
inductive Stream where
  | a | x
  deriving DecidableEq, Repr

/-- The engines of a tile, and the die engines that serve its commands (R165). -/
inductive Eng where
  | copy | gather | matrix | coll | salt
  deriving DecidableEq, Repr

/-- The token fields of word 0 of an E form: produced TP, consumed TA, TB and TC (R331). -/
structure ETok where
  tp : R5
  ta : R5
  tb : R5
  tc : R5
  deriving DecidableEq, Repr

/-- A firmware image of package flash: the 512-byte header, the 384-byte modulus and the body (R92). -/
structure BootImage where
  header : List Byte
  modulus : List Byte
  body : List Byte
  deriving DecidableEq, Repr

/-- A holder slot of a directory message or entry (R49). -/
structure Holder where
  valid : Bool
  tier : BitVec 2
  pkg : BitVec 12
  deriving DecidableEq, Repr

/-- The 48-byte head of a directory message (R49). -/
structure DirMsg where
  op : Byte
  status : Byte
  tag : BitVec 16
  nsid : BitVec 32
  name : BitVec 128
  depth : BitVec 16
  layer0 : BitVec 16
  nlayer : BitVec 16
  offset : BitVec 32
  length : BitVec 32
  holders : List Holder
  excl : Option (BitVec 12)
  /-- A reserved bit of the head was nonzero (R52). -/
  rsvdBad : Bool
  deriving DecidableEq, Repr

/-- What trains on a CXL port (R19). -/
inductive CxlDevice where
  | type3Direct | type3Switched | cacheDevice
  deriving DecidableEq, Repr

/-- The management objects of R36, and the one that raises an SVN floor (R93). -/
inductive MgmtObject where
  | dieTemps | railCurrents | sluiceState | errorCounters | scrubProgress | firmwareVersion | bootStatus
  | timeStatus | timeOffset | raiseFloor (kind : BitVec 16) (svn : BitVec 16)
  deriving DecidableEq, Repr

/-- What firmware supplies when it installs a context on a tile (R160, R193, R207). -/
structure ContextDesc where
  ctx : BitVec 16
  key : BitVec 12
  trootDie : BitVec 2
  trootNext : BitVec 31
  tnsBase : W64
  tnsCount : BitVec 17
  deriving DecidableEq, Repr

/-- The parties of a shootdown (R204). -/
inductive SdParty where
  | rim (tile : BitVec 8) | walkCache (die : BitVec 2) | layoutUnit (tile : BitVec 8)
  | dieController (die : BitVec 2) | copyUnit | residencyUnit
  deriving DecidableEq, Repr

/-- A register of a tile, as the operand log names it (R313). -/
inductive RegName where
  | a (r : R5) | x (r : R5) | v (r : V6)
  deriving DecidableEq, Repr

/-- SPDM requests that are not modelled by a row of their own (R99). -/
inductive SpdmKind where
  | challenge | keyExchange | getCertificate | getDigests
  /-- The rest of a connection and a session, and IDE_KM's start and stop of the function's stream. -/
  | getVersion | finish | endSession | ideGo | ideStop
  deriving DecidableEq, Repr

/-- One constructor per row of the table of operations and events. -/
inductive Instr where
  -- ## Scalar (major 0x01 to 0x07)
  | add (d s t : R5)
  | sub (d s t : R5)
  | and (d s t : R5)
  | or (d s t : R5)
  | xor (d s t : R5)
  | shl (d s t : R5)
  | shr (d s t : R5)
  | sra (d s t : R5)
  | mul (d s t : R5)
  | mulh (d s t : R5)
  | mulhu (d s t : R5)
  | div (d s t : R5)
  | divu (d s t : R5)
  | rem (d s t : R5)
  | remu (d s t : R5)
  | min (d s t : R5)
  | max (d s t : R5)
  | minu (d s t : R5)
  | maxu (d s t : R5)
  | seq (d s t : R5)
  | slt (d s t : R5)
  | sltu (d s t : R5)
  | clz (d s : R5)
  | ctz (d s : R5)
  | popc (d s : R5)
  | sel (d s t c : R5)
  | addi (d s : R5) (i : BitVec 16)
  | andi (d s : R5) (i : BitVec 16)
  | ori (d s : R5) (i : BitVec 16)
  | xori (d s : R5) (i : BitVec 16)
  | shli (d s : R5) (n : BitVec 6)
  | shri (d s : R5) (n : BitVec 6)
  | srai (d s : R5) (n : BitVec 6)
  | movk (d : R5) (i : BitVec 16) (part : BitVec 2)
  -- ## Flags (0x08), branches and jumps (0x0A to 0x0D), tokens (0x0F)
  | cmpEq (f : F3) (s t : R5)
  | cmpNe (f : F3) (s t : R5)
  | cmpLt (f : F3) (s t : R5)
  | cmpGe (f : F3) (s t : R5)
  | cmpLtu (f : F3) (s t : R5)
  | cmpGeu (f : F3) (s t : R5)
  | fand (f a b : F3)
  | for_ (f a b : F3)
  | fxor (f a b : F3)
  | fget (d : R5) (a : F3)
  | fput (f : F3) (s : R5)
  | beq (s t : R5) (disp : BitVec 13)
  | bne (s t : R5) (disp : BitVec 13)
  | blt (s t : R5) (disp : BitVec 13)
  | bge (s t : R5) (disp : BitVec 13)
  | bltu (s t : R5) (disp : BitVec 13)
  | bgeu (s t : R5) (disp : BitVec 13)
  | bfs (f : F3) (disp : BitVec 13)
  | bfc (f : F3) (disp : BitVec 13)
  | bqs (disp : BitVec 13)
  | bqc (disp : BitVec 13)
  | jmp (disp : BitVec 16)
  | call (l : R5) (disp : BitVec 16)
  | jmpr (s : R5) (disp : BitVec 16)
  | callr (l s : R5) (disp : BitVec 16)
  | tkwait (k : R5)
  | tktest (d k : R5)
  | tkcnt (d k : R5)
  -- ## Loads, stores, atomics, queues, fences (0x10 to 0x15)
  | ldb (d b : R5) (p : BitVec 2) (o : BitVec 11)
  | ldh (d b : R5) (p : BitVec 2) (o : BitVec 11)
  | ldw (d b : R5) (p : BitVec 2) (o : BitVec 11)
  | ldd (d b : R5) (p : BitVec 2) (o : BitVec 11)
  | ldbs (d b : R5) (p : BitVec 2) (o : BitVec 11)
  | ldhs (d b : R5) (p : BitVec 2) (o : BitVec 11)
  | ldws (d b : R5) (p : BitVec 2) (o : BitVec 11)
  | stb (s b : R5) (p : BitVec 2) (o : BitVec 11)
  | sth (s b : R5) (p : BitVec 2) (o : BitVec 11)
  | stw (s b : R5) (p : BitVec 2) (o : BitVec 11)
  | std (s b : R5) (p : BitVec 2) (o : BitVec 11)
  | aswap (d a t : R5) (k c : BitVec 2) (z : BitVec 1)
  | acas (d a t : R5) (k c : BitVec 2) (z : BitVec 1)
  | aadd (d a t : R5) (k c : BitVec 2) (z : BitVec 1)
  | aand (d a t : R5) (k c : BitVec 2) (z : BitVec 1)
  | aor (d a t : R5) (k c : BitVec 2) (z : BitVec 1)
  | axor (d a t : R5) (k c : BitVec 2) (z : BitVec 1)
  | amin (d a t : R5) (k c : BitVec 2) (z : BitVec 1)
  | amax (d a t : R5) (k c : BitVec 2) (z : BitVec 1)
  | aminu (d a t : R5) (k c : BitVec 2) (z : BitVec 1)
  | amaxu (d a t : R5) (k c : BitVec 2) (z : BitVec 1)
  | qfill (b : R5) (q : BitVec 4) (p : BitVec 2) (o : BitVec 11)
  | qstore (b : R5) (q : BitVec 4) (p : BitVec 2) (o : BitVec 11)
  | qpopa (d : R5) (q : BitVec 4)
  | qbpush (f : F3)
  | fence (k c : BitVec 2)
  | sqpush (f : F3)
  | enq (f : F3) (s : R5)
  | bar
  -- ## Vector (0x18 to 0x27)
  | vadd (y : Ty) (d a b : V6) (m : K4)
  | vsub (y : Ty) (d a b : V6) (m : K4)
  | vmul (y : Ty) (d a b : V6) (m : K4)
  | vmin (y : Ty) (d a b : V6) (m : K4)
  | vmax (y : Ty) (d a b : V6) (m : K4)
  | vand (y : Ty) (d a b : V6) (m : K4)
  | vor (y : Ty) (d a b : V6) (m : K4)
  | vxor (y : Ty) (d a b : V6) (m : K4)
  | vdiv (y : Ty) (d a b : V6) (m : K4)
  | vsqrt (y : Ty) (d a : V6) (m : K4)
  | vmac (y : Ty) (d a b : V6) (m : K4)
  | vshl (y : Ty) (d a b : V6) (m : K4)
  | vshr (y : Ty) (d a b : V6) (m : K4)
  | vadds (y : Ty) (d a b : V6) (m : K4)
  | vsubs (y : Ty) (d a b : V6) (m : K4)
  | vcmpeq (y : Ty) (k : K4) (a b : V6) (m : K4)
  | vcmplt (y : Ty) (k : K4) (a b : V6) (m : K4)
  | vcmple (y : Ty) (k : K4) (a b : V6) (m : K4)
  | vrsum (y : Ty) (d a : V6) (m : K4)
  | vrmin (y : Ty) (d a : V6) (m : K4)
  | vrmax (y : Ty) (d a : V6) (m : K4)
  | vrsumc (y : Ty) (d a : V6) (m : K4)
  | vfma (d a b c : V6) (f : BitVec 2)
  | vcvt (t s : Ty) (d a b : V6)
  | vperm (y : Ty) (d a b : V6)
  | vbcstx (y : Ty) (d : V6) (x : R5)
  | vbcste (y : Ty) (d a : V6) (x : R5)
  | vcompress (y : Ty) (d a : V6) (k : K4)
  | vexpand (y : Ty) (d a : V6) (k : K4)
  | kand (d a b : K4)
  | kor (d a b : K4)
  | kxor (d a b : K4)
  | kandn (d a b : K4)
  | knot (d a : K4)
  | kmovx (d : K4) (x : R5)
  | xmovk (d : R5) (a : K4)
  | vmov (d a : V6) (m : K4)
  | vld (d : V6) (x : R5) (n : BitVec 3) (m : K4) (o : BitVec 6)
  | vst (d : V6) (x : R5) (n : BitVec 3) (m : K4) (o : BitVec 6)
  | vldc (d : V6) (x : R5) (n : BitVec 3) (m : K4) (o : BitVec 6)
  | vstc (d : V6) (x : R5) (n : BitVec 3) (m : K4) (o : BitVec 6)
  | qpopv (v : V6) (q : BitVec 4)
  | qpopx (x : R5) (q : BitVec 4)
  | qpushv (v : V6) (q : BitVec 4)
  | qpushx (x : R5) (q : BitVec 4)
  -- ## Accumulators and matrix configuration (0x28, 0x29)
  | zclr (z : BitVec 3) (t : BitVec 4)
  | zrd (d : V6) (z : BitVec 3) (r : R5)
  | zwr (d : V6) (z : BitVec 3) (r : R5) (t : BitVec 4)
  | zcvt (z : BitVec 3) (t : BitVec 4)
  | mcfgwr (s : R5)
  | mcfgrd (d : R5)
  -- ## System, recipes, capture (0x2C to 0x2F)
  | csrrd (d : R5) (c : BitVec 10)
  | csrwr (s : R5) (c : BitVec 10)
  | csrset (s : R5) (c : BitVec 10)
  | csrclr (s : R5) (c : BitVec 10)
  | trap (c : BitVec 10)
  | tret
  | step
  | brk (c : BitVec 10)
  | pchks (s : R5)
  | pchkv (v : V6)
  | pchkz (z : BitVec 3)
  | rcpdef (n : BitVec 2) (s : R5)
  | rcpset (d : V6) (s : R5)
  | rcpdrop (d : V6)
  | rcpclr (s : R5)
  | rcpanch (d : V6) (c : BitVec 2)
  | rcpunanch (d : V6) (c : BitVec 2)
  | capture (s : R5)
  | restore (d s : R5)
  | brkx (s : R5)
  -- ## Engine commands (two-word E forms, 0x30 to 0x38)
  | copy (e : ETok) (sa sb sc : R5) (fill : Bool) (ssp dsp : BitVec 3)
  | copyl (e : ETok) (sa sb : R5) (tier : BitVec 2)
  | copyn (e : ETok) (sa sb sc : R5) (nl : BitVec 7) (nt : BitVec 6) (dir : Bool) (sp : BitVec 3)
  | ovla (e : ETok) (sa sb sc : R5)
  | ovlx (e : ETok) (sa sb sc : R5)
  | tgather (e : ETok) (sa sb sc : R5) (lsp : Bool) (sp : BitVec 3)
  | kvgather (e : ETok) (sa sb sc : R5) (lsp : Bool) (sp : BitVec 3)
  | tscatter (e : ETok) (sa sb sc : R5) (lsp : Bool) (sp : BitVec 3)
  | mwld (e : ETok) (sa : R5)
  | mswap (e : ETok)
  | mma (y : Ty) (e : ETok) (sa sb : R5) (nrb : BitVec 9) (epi zero : Bool) (nz z : BitVec 3)
  | mmas (y : Ty) (e : ETok) (sa sb sc : R5) (nrb : BitVec 9) (epi zero : Bool) (nz z : BitVec 3)
  | mepi (y : Ty) (e : ETok) (sa : R5) (nz z : BitVec 3)
  | collred (e : ETok) (sa sb sc : R5)
  | collgath (e : ETok) (sa sb sc : R5)
  | collbcast (e : ETok) (sa sb sc : R5)
  | colla2a (e : ETok) (sa sb sc : R5)
  | collsend (e : ETok) (sb sc : R5)
  | collrecv (e : ETok) (sa sc : R5)
  | pxhash (e : ETok) (sa sb sc : R5) (frm : Bool)
  | pxmatch (e : ETok) (sa sb sc : R5) (lim : BitVec 5)
  | pxpath (e : ETok) (sa sb sc : R5)
  | kvopen (e : ETok) (sa sb sc : R5) (tier : BitVec 2)
  | kvseal (e : ETok) (sa sb sc : R5)
  | kvfork (e : ETok) (sa sb sc : R5)
  | kvlease (e : ETok) (sa sb sc : R5) (prio : BitVec 3)
  | kvrelease (e : ETok) (sa sb : R5)
  | rseal (e : ETok) (sa sb : R5) (sp : Bool)
  | runseal (e : ETok) (sa sb : R5) (sp : Bool)
  | xfnc (e : ETok) (level : BitVec 2)
  | drain (e : ETok) (mask : BitVec 5)
  -- ## Queue programs (R82)
  | qadd (d s t : K4)
  | qsub (d s t : K4)
  | qand (d s t : K4)
  | qor (d s t : K4)
  | qxor (d s t : K4)
  | qshl (d s t : K4)
  | qshr (d s t : K4)
  | qaddi (d s : K4) (i : BitVec 18)
  | qandi (d s : K4) (i : BitVec 18)
  | qori (d s : K4) (i : BitVec 18)
  | qshli (d s : K4) (n : BitVec 6)
  | qshri (d s : K4) (n : BitVec 6)
  | qmovi (d : K4) (i : BitVec 18)
  | qld (d s : K4) (w : BitVec 3) (z : BitVec 2) (o : BitVec 13)
  | qst (d s : K4) (w : BitVec 3) (z : BitVec 2) (o : BitVec 13)
  | qbeq (s t : K4) (disp : BitVec 18)
  | qbne (s t : K4) (disp : BitVec 18)
  | qbltu (s t : K4) (disp : BitVec 18)
  | qloop (c : BitVec 6) (b : BitVec 9)
  | qdisp
  | qdrop (c : BitVec 16)
  -- ## The remaining events
  /-- ILLEGAL_INSTRUCTION (R333): the word a stream issues, and the word after it. -/
  | illegalInstruction (w0 w1 : W32)
  /-- DEBUG_HALT_REQUEST (R290). -/
  | debugHaltRequest (tile : BitVec 8) (stream : Stream)
  /-- DEBUG_PORT_ENABLE (R97). -/
  | debugPortEnable
  /-- CONTEXT_INSTALL (R160). -/
  | contextInstall (tile : BitVec 8) (c : ContextDesc)
  /-- POWER_RETURN (R290). -/
  | powerReturn
  -- ## Events of the package, the links, time, power
  /-- PACKAGE_RESET (R93). -/
  | packageReset
  /-- DIE_ROM_IMAGE_CHECK (R93): the image the I/O die firmware delivers to a die. -/
  | dieRomImageCheck (die : BitVec 2) (img : BootImage)
  /-- REGISTER_WRITE (R4): function, BAR0 offset, access size in bytes, value. -/
  | registerWrite (fn : BitVec 8) (off : BitVec 26) (size : Nat) (val : W64)
  /-- HBM_LINE_READ (R16): physical line, and the errors in its codeword as it is read: in the 64 data symbols and in the 16 check
  symbols, symbol i in bits [8i+7:8i]. -/
  | hbmLineRead (pa : BitVec 48) (dataErr : BitVec 512) (checkErr : BitVec 128)
  /-- PARTIAL_LINE_MERGE (R480): byte mask, data, whether the written data is poisoned, the stored codeword's errors as in HBM_LINE_READ. -/
  | partialLineMerge (pa : BitVec 48) (mask : BitVec 64) (data : BitVec 512) (pois : Bool) (dataErr : BitVec 512) (checkErr : BitVec 128)
  /-- CXL_READ_COMPLETE (R20). -/
  | cxlReadComplete (pa : BitVec 48) (pois err : Bool)
  /-- PATROL_SCRUB (R17). -/
  | patrolScrub (stack : BitVec 3) (dataErr : BitVec 512) (checkErr : BitVec 128)
  /-- CXL_PORT_TRAIN (R19): lanes (16, 8, 4) and rate in GT/s. -/
  | cxlPortTrain (port : BitVec 2) (dev : CxlDevice) (width rate : Nat)
  /-- CXL_EXTENT_ADDED (R19). -/
  | cxlExtentAdded (port : BitVec 2) (base size : Nat)
  /-- BAR2_WINDOW_READ (R23). -/
  | bar2WindowRead (fn : BitVec 8) (off : BitVec 30) (n : Nat)
  /-- BAR2_WINDOW_WRITE (R23). -/
  | bar2WindowWrite (fn : BitVec 8) (off : BitVec 30) (data : List Byte)
  /-- MSIX_VECTOR_UNMASK (R90). -/
  | msixVectorUnmask (fn : BitVec 8) (vec : BitVec 11)
  /-- PEER_PORT_TRAINED (R30). -/
  | peerPortTrained (port : BitVec 4)
  /-- FLIT_RECEIVE (R28): the 256 bytes of the flit, bit 0 being bit 0 of byte 0. -/
  | flitReceive (port : BitVec 4) (flit : BitVec 2048)
  /-- REPLAY_TIMEOUT (R28). -/
  | replayTimeout (port : BitVec 4)
  /-- CREDIT_RETURN_TIMEOUT (R63). -/
  | creditReturnTimeout (port : BitVec 4)
  /-- LOOKUP (R56): the requester's package id and its message. -/
  | lookup (src : BitVec 12) (m : DirMsg)
  /-- LOOKUP_R (R60). -/
  | lookupR (m : DirMsg)
  /-- ANNOUNCE (R54). -/
  | announce (src : BitVec 12) (m : DirMsg)
  /-- WITHDRAW (R54). -/
  | withdraw (src : BitVec 12) (m : DirMsg)
  /-- FETCH (R57). -/
  | fetch (src : BitVec 12) (m : DirMsg)
  /-- FETCH_R (R60): the answer and its data bytes. -/
  | fetchR (m : DirMsg) (data : List Byte)
  /-- REPLICATE (R58): parent name, the block's 64 token ids, its data. -/
  | replicate (src : BitVec 12) (m : DirMsg) (parent : BitVec 128) (tokens : List (BitVec 32)) (data : List Byte)
  /-- REPLICATE_R (R59). -/
  | replicateR (m : DirMsg)
  /-- DIRECTORY_REQUEST_TIMEOUT (R61). -/
  | directoryRequestTimeout (tag : BitVec 16)
  /-- REPLICATION_RUN (R59). -/
  | replicationRun
  /-- PTP_MESSAGE (R31): the master's time and its PTP domain. -/
  | ptpMessage (time : W64) (domain : Byte)
  /-- TICK (R32). -/
  | tick
  /-- HOLDOVER_ENTRY (R33). -/
  | holdoverEntry
  /-- TIME_RELOCK (R33): the master's time. -/
  | timeRelock (time : W64)
  /-- TIME_FIRST_LOCK (R35). -/
  | timeFirstLock (time : W64)
  /-- GANG_ARM (R146). -/
  | gangArm
  /-- GANG_SWITCH (R147). -/
  | gangSwitch
  /-- SLUICE_WINDOW (R39). -/
  | sluiceWindow
  /-- SLUICE_REQUEST_HELD (R40). -/
  | sluiceRequestHeld
  /-- SLUICE_BUDGET_WRITE (R43). -/
  | sluiceBudgetWrite (val : W64)
  /-- HELD_REQUEST_PREEMPT (R134). -/
  | heldRequestPreempt
  /-- TEMPERATURE_SAMPLE (R44): the four die temperatures in °C. -/
  | temperatureSample (t0 t1 t2 t3 : Nat)
  /-- MANAGEMENT_REQUEST (R36): `i3c` tells the path. -/
  | managementRequest (i3c : Bool) (obj : MgmtObject)
  -- ## Host queues
  /-- Q_CTL_WRITE (R67). -/
  | qCtlWrite (fn : BitVec 8) (q : BitVec 10) (val : W64)
  /-- DOORBELL_WRITE (R69). -/
  | doorbellWrite (fn : BitVec 8) (q : BitVec 10) (tail : BitVec 32)
  /-- QUEUE_RESUME (R91). -/
  | queueResume (fn : BitVec 8) (q : BitVec 10)
  /-- Q_HEAD_WRITE (R91). -/
  | qHeadWrite (fn : BitVec 8) (q : BitVec 10) (head : BitVec 32)
  /-- CR_CTL_WRITE (R86). -/
  | crCtlWrite (fn : BitVec 8) (c : BitVec 10) (val : W64)
  /-- CR_HEAD_WRITE (R89). -/
  | crHeadWrite (fn : BitVec 8) (c : BitVec 10) (head : BitVec 32)
  /-- PACKET_TAKE (R72) by an interpreter unit. -/
  | packetTake (unit : BitVec 4)
  /-- QUEUE_PROGRAM_RUN (R84). -/
  | queueProgramRun (unit : BitVec 4)
  /-- PAD_PACKET (R73). -/
  | padPacket (unit : BitVec 4)
  /-- LAUNCH_PACKET (R76). -/
  | launchPacket (unit : BitVec 4)
  /-- COPY_PACKET (R77): `hostErr` tells after how many bytes the host side ends with a completion error. -/
  | copyPacket (unit : BitVec 4) (hostErr : Option Nat)
  /-- CONFIDENTIAL_COPY (R105): whether the packet came under an active IDE stream, and a host completion error. -/
  | confidentialCopy (unit : BitVec 4) (ide : Bool) (hostErr : Bool)
  /-- SIGNAL_WRITE (R78). -/
  | signalWrite (unit : BitVec 4) (hostErr : Bool)
  /-- SIGNAL_ADD (R78): `atomicOk` tells whether the PCIe path takes the AtomicOp. -/
  | signalAdd (unit : BitVec 4) (atomicOk hostErr : Bool)
  /-- SIGNAL_WAITGE (R78). -/
  | signalWaitge (unit : BitVec 4) (hostErr : Bool)
  /-- SIGNAL_WAITGE_TICK (R78). -/
  | signalWaitgeTick (q : BitVec 10) (hostErr : Bool)
  /-- FENCE_PACKET (R75). -/
  | fencePacket (q : BitVec 10)
  /-- COMPLETION_RECORD_WRITE (R89). -/
  | completionRecordWrite (c : BitVec 10)
  /-- HOLD_TIMER_EXPIRY (R90): ring 1,024 stands for the error ring (R316). -/
  | holdTimerExpiry (c : BitVec 11)
  /-- PROG_LOAD (R83). -/
  | progLoad
  /-- ENQ_ARRIVAL (R85): the oldest ENQ of a tile's rim reaches the I/O die. -/
  | enqArrival (tile : BitVec 8)
  -- ## Root of trust
  /-- MEXT_GO (R95). -/
  | mextGo
  /-- GET_MEASUREMENTS (R98): nonce, and whether SPDM's own signature is asked for. -/
  | getMeasurements (fn : BitVec 8) (nonce : BitVec 256) (sign : Bool)
  /-- SPDM_REQUEST (R99). -/
  | spdmRequest (fn : BitVec 8) (kind : SpdmKind)
  /-- CHAN_SET (R103): whether it came inside a secured session, and the payload bytes. -/
  | chanSet (fn : BitVec 8) (secured : Bool) (payload : List Byte)
  /-- CHAN_CLEAR (R103). -/
  | chanClear (fn : BitVec 8) (secured : Bool) (payload : List Byte)
  /-- LOCK_INTERFACE (R100). -/
  | lockInterface (fn : BitVec 8)
  /-- START_INTERFACE (R100). -/
  | startInterface (fn : BitVec 8)
  /-- STOP_INTERFACE (R101). -/
  | stopInterface (fn : BitVec 8)
  /-- IDE_INTEGRITY_FAILURE (R100): the function whose traffic the stream carries. -/
  | ideIntegrityFailure (fn : BitVec 8)
  -- ## Launches and tenants
  /-- STAGE_CHOICE (R132). -/
  | stageChoice (tile : BitVec 8)
  /-- ITEM_START (R125). -/
  | itemStart (tile : BitVec 8)
  /-- STAGE_ENTRY_AVAILABLE (R124): the oldest unavailable entry of a launch's stage queue on a die. -/
  | stageEntryAvailable (launch : Nat) (die : BitVec 2) (stage : BitVec 3)
  /-- ITEM_RETIRE (R126). -/
  | itemRetire (tile : BitVec 8)
  /-- COHORT_BARRIER_COMPLETE (R128). -/
  | cohortBarrierComplete (launch : Nat) (group : Nat)
  /-- LAUNCH_RETIRE (R137). -/
  | launchRetire (launch : Nat)
  /-- STARVATION_CAPTURE (R133). -/
  | starvationCapture (launch : Nat) (die : BitVec 2)
  /-- DIE_LEAVE (R130). -/
  | dieLeave (launch : Nat) (die : BitVec 2)
  /-- TERM_END (R141). -/
  | termEnd (tile : BitVec 8)
  /-- WAIT_OFFER (R141). -/
  | waitOffer (tile : BitVec 8)
  /-- UNHELD_TILE_OFFER (R141). -/
  | unheldTileOffer (tile : BitVec 8)
  /-- PRIORITY_PREEMPTION (R143). -/
  | priorityPreemption (die : BitVec 2)
  /-- RESIDENCY_SCAN (R152). -/
  | residencyScan (cls : BitVec 6)
  /-- RESIDENCY_MOVE_COMPLETE (R151). -/
  | residencyMoveComplete (h : BitVec 14) (frames : List (BitVec 32))
  /-- VALIDATE, PROMOTE, DEMOTE, EVICT, INVALIDATE (R149): the command in RES_CMD. -/
  | validate
  | promote
  | demote
  | evict
  | invalidate
  -- ## Translation, coherence, engines, tiles
  /-- SHOOTDOWN_PAGE, SHOOTDOWN_CONTEXT, SHOOTDOWN_ALL (R204): the request in SD_CMD. -/
  | shootdownPage
  | shootdownContext
  | shootdownAll
  /-- SHOOTDOWN_ACK (R205). -/
  | shootdownAck (party : SdParty)
  /-- TRANSLATION_WALK_COMPLETE (R198): the tile's oldest walk. -/
  | translationWalkComplete (tile : BitVec 8)
  /-- THAW (R200): the table entries that service wrote (PA of the entry, its 128 bits), and whether it succeeded. -/
  | thaw (tile : BitVec 8) (entries : List (BitVec 48 × BitVec 128)) (ok : Bool)
  /-- CA_STORE_CLAIM_ANSWER (R487): the tile's oldest claim. -/
  | caStoreClaimAnswer (tile : BitVec 8)
  /-- CLOSE_APPLIED (R256): the oldest marker of a die's channel to a home. -/
  | closeApplied (die : BitVec 2) (home : BitVec 3)
  /-- ENGINE_COMMAND_ACCEPT (R166). -/
  | engineCommandAccept (tile : BitVec 8) (eng : Eng)
  /-- TOKEN_COMPLETE (R166): the command in progress with this accept number, `none` for XFNC and DRAIN. -/
  | tokenComplete (tile : BitVec 8) (eng : Option Eng) (seq : BitVec 32)
  /-- QUEUE_DEADLOCK (R164). -/
  | queueDeadlock (tile : BitVec 8)
  /-- CHECKER_MISMATCH_REPLAY (R312): `none` for the array; `again` tells a second mismatch. -/
  | checkerMismatchReplay (tile : BitVec 8) (stream : Option Stream) (again : Bool)
  /-- REGISTER_REGENERATION (R313): the register, and whether the regenerated value fails again. -/
  | registerRegeneration (tile : BitVec 8) (reg : RegName) (again : Bool)
  /-- CAPTURE_COMPLETE (R297). -/
  | captureComplete (tile : BitVec 8)
  /-- TILE_RESTORE (R301): the image handle and the target tile. -/
  | tileRestore (img : BitVec 32) (tile : BitVec 8)
  /-- LOGGED_ARRIVAL_DELIVERY (R301). -/
  | loggedArrivalDelivery (tile : BitVec 8)
  /-- CONTEXT_END (R295): the context, and the function whose driver ends it. -/
  | contextEnd (ctx : BitVec 16) (fn : BitVec 8)
  /-- ERROR_RECORD_WRITE (R317). -/
  | errorRecordWrite
  /-- ERR_LOST_CLEAR (R317). -/
  | errLostClear
  /-- CKPT_CFG_GO (R319). -/
  | ckptCfgGo
  /-- CHECKPOINT (R320). -/
  | checkpoint (ctx : BitVec 16)
  /-- ROLLBACK (R321). -/
  | rollback (ctx : BitVec 16)
  /-- PERFORMANCE_COUNTER_WRAP (R456). -/
  | performanceCounterWrap (tile : BitVec 8) (j : BitVec 3)
  -- ## Saltern
  /-- REGISTER, UNREGISTER (R213): the request in NS_CMD. -/
  | register
  | unregister
  /-- NAMESPACE_CLOSED (R213). -/
  | namespaceClosed (nsid : BitVec 32)
  /-- HARVEST_SELECT (R234). -/
  | harvestSelect (pool : BitVec 4)
  /-- HARVEST_DEMOTION_DONE (R219). -/
  | harvestDemotionDone (h : BitVec 32)
  /-- HARVEST_REMOVAL_DONE (R235). -/
  | harvestRemovalDone (h : BitVec 32)
  /-- RAKE_SEARCH (R229): the oldest waiting search of a die's rake. -/
  | rakeSearch (die : BitVec 2)
  -- ## Collectives and breakpoints
  /-- COLLECTIVE_READY (R443): READY of a member for a group and sequence number, and for a `COLLRECV` its TAG. -/
  | collectiveReady (src : BitVec 12) (group seq tag : BitVec 16)
  /-- COLLECTIVE_DATA (R444): one member's block. -/
  | collectiveData (src : BitVec 12) (group seq : BitVec 16) (tag : BitVec 16) (matching : Bool) (data : List Byte)
  /-- COLLECTIVE_TIMEOUT (R445): the command of a tile, by accept number. -/
  | collectiveTimeout (tile : BitVec 8) (seq : BitVec 32)
  /-- BRKX_SET, BRKX_CLEAR, BRKX_RESUME, BRKX_QUERY (R475): the request of the issuing tile. -/
  | brkxSet (tile : BitVec 8)
  | brkxClear (tile : BitVec 8)
  | brkxResume (tile : BitVec 8)
  | brkxQuery (tile : BitVec 8)
  deriving DecidableEq, Repr

end Sys2Proof
end

