-- ==== Sys2Proof/Machine/State.lean ====
section
/-! DEFINITION. The state of the TZ-GL4 package as plain data: everything the manual gives the machine, the
model's own schedule and free-value counter, the reasons a step can stop, and the state after package reset.
Each field's docstring gives its width, the rule that names it and its reset value. -/

namespace Sys2Proof.Machine

/-- A sparse table: key and value pairs with strictly rising keys. -/
abbrev Tab (α : Type) := List (Nat × α)

/-- Bytes of storage by address: strictly rising addresses, no entry equal to 0, which is what an unlisted address reads as. -/
abbrev Mem := List Host.Cell

/-- A trap cause: a 7-bit code (R290). -/
abbrev Cause := BitVec 7

/-! ## The tile -/

/-- A vector name's state (R161). -/
inductive NameState where
  | empty | live | dropped
  deriving DecidableEq, Repr

/-- One of the 64 vector names (R156, R161): state, value, lane poison, recipe tag, cycle of the last read. -/
structure VName where
  st : NameState
  val : Vec
  pois : LaneBits
  tag : Option R5
  lastRead : Nat
  deriving DecidableEq, Repr

/-- The format tag of an accumulator tile (R156). -/
inductive ZTag where
  | a40 | i40 | f64
  deriving DecidableEq, Repr

/-- One accumulator tile (R156): 1,024 containers of 64 bits, a poison bit each, format tag, VALID. -/
structure ZTile where
  data : BitVec 65536
  pois : BitVec 1024
  tag : ZTag
  valid : Bool
  deriving DecidableEq, Repr

/-- An entry of an inter-stream queue with its lane poison (R156, R162). -/
structure QEntry where
  data : Vec
  pois : LaneBits
  deriving DecidableEq, Repr

/-- A token: pending or complete, and its completion count (R156, R166). -/
structure Token where
  pending : Bool
  count : BitVec 16
  deriving DecidableEq, Repr

/-- A recipe slot: its micro-op words and the rounding mode and FTZ recorded at the attach (R304). -/
structure Recipe where
  words : List W32
  rm : BitVec 2
  ftz : Bool
  deriving DecidableEq, Repr

/-- The status registers one stream has for itself (R453, R454); `trec` is TREC0 to TREC7. -/
structure StreamCsr where
  tvec : Pc
  tepc : Pc
  tin : Bool
  skip : Bool
  code : BitVec 10
  trec : BitVec 512
  deriving DecidableEq, Repr

/-- A breakpoint slot (R473). -/
structure BrkSlot where
  valid : Bool
  stream : Stream
  word : Pc
  halt : Bool
  disp : W32
  deriving DecidableEq, Repr

/-- What an X-stream write in flight lands in (R171). -/
inductive XDst where
  | x (r : R5) | v (r : V6) | k (r : K4) | z (r : BitVec 3) | fstat | mcfg
  deriving DecidableEq, Repr

/-- An X-stream write in flight (R171): the bits it writes, their values, the poison bits it writes, and the
X-cycle from which its value is read. -/
structure XPend where
  dst : XDst
  mask : Nat
  val : Nat
  pmask : Nat
  pval : Nat
  close : Nat
  deriving DecidableEq, Repr

/-- For each X-stream unit, the first X-cycle in which it takes its next instruction (R173, R176). -/
structure XUnits where
  div : Nat
  vdiv : Nat
  vred : Nat
  vperm : Nat
  valu : Nat
  ls1 : Nat
  ls2 : Nat
  acc : Nat
  deriving DecidableEq, Repr

/-- A line of the L1D (R190, the masks before R248): line address, data, poison, VMASK, CMASK, DMASK, least recent first by `lru`. -/
structure L1Line where
  line : Nat
  data : BitVec 512
  pois : Bool
  vmask : BitVec 64
  cmask : BitVec 64
  dmask : BitVec 64
  /-- Owner key index and coherence class of the page it was filled under (R195). -/
  key : BitVec 12
  coh : BitVec 2
  /-- Time of its last use in its set, greater is later; 0 once an ST load has left it least recently used (R190, R191). -/
  lru : Nat
  deriving DecidableEq, Repr

/-- What a write at a home is (R191, R250): an ordinary store performed at the home, a WT store, whose writer's own
copy stays valid, a write-back of DMASK bytes whose line stays valid, or the write-back of an evicted or
invalidated line, with which the holder record goes. -/
inductive WriteKind where
  | store | wt | wb | evict
  deriving DecidableEq, Repr

/-- A write on its way to a home, in its die's channel (R255, R256): the line's number, the bytes written, the
data, its poison, the page's key and class, the writing context and tile, its kind, and the VCLK it carries. -/
structure HomeWrite where
  line : Nat
  mask : BitVec 64
  data : BitVec 512
  pois : Bool
  key : BitVec 12
  coh : BitVec 2
  ctx : BitVec 16
  tile : BitVec 8
  kind : WriteKind
  vclk : Vector W64 4
  deriving DecidableEq, Repr

/-- What a die's channel to a home carries (R255, R256): a posted write or a CLOSE marker with its epoch. -/
inductive ChanEnt where
  | write (w : HomeWrite) | close (e : W64)
  deriving DecidableEq, Repr

/-- The permission an access needs (R197). -/
inductive Acc where
  | read | write | atomic
  deriving DecidableEq, Repr

/-- A leaf entry held by a rim's translation cache (R198): context, first virtual address, log2 of the page size, the raw entry. -/
structure TlbEntry where
  ctx : BitVec 16
  va : Nat
  log2 : Nat
  leaf : BitVec 128
  deriving DecidableEq, Repr

/-- Who waits for a walk (R198): the A-stream, or an engine command by its accept number. -/
inductive Waiter where
  | stream | engine (e : Eng) (seq : BitVec 32)
  deriving DecidableEq, Repr

/-- A walk a rim has asked for (R198). -/
structure Walk where
  ctx : BitVec 16
  va : W64
  acc : Acc
  waiter : Waiter
  half : Bool
  deriving DecidableEq, Repr

/-- The engine commands (R341, R165). -/
inductive CmdOp where
  | copy | copyl | copyn | ovla | ovlx | tgather | kvgather | tscatter
  | mwld | mswap | mma | mmas | mepi
  | collred | collgath | collbcast | colla2a | collsend | collrecv
  | pxhash | pxmatch | pxpath | kvopen | kvseal | kvfork | kvlease | kvrelease | rseal | runseal
  | xfnc | drain
  deriving DecidableEq, Repr

/-- A layer group of a node (R218). -/
structure Group where
  pkg : BitVec 12
  tier : BitVec 2
  layer0 : Nat
  nlay : Nat
  addr : Nat
  deriving DecidableEq, Repr

/-- An engine command that has been issued: its operation, issuing stream, tokens, the register values and
the IMM17 it took at issue, its snapshot of matrix blocks (R403), and how far it has run. -/
structure Cmd where
  op : CmdOp
  stream : Stream
  tp : R5
  cons : List R5
  a : W64
  b : W64
  c : W64
  imm : BitVec 17
  /-- Element type code of word 0 of the matrix forms. -/
  ty : Ty
  /-- Accept number: ENGSEQ after its acceptance (R165); 0 while not accepted. -/
  seq : BitVec 32
  /-- Beats or units done so far. -/
  prog : Nat
  /-- The blocks read at issue: descriptor or command block, epilogue block, segment table (R403). -/
  blk0 : BitVec 512
  blk1 : BitVec 512
  blk2 : BitVec 4224
  /-- RM and FTZ of the issuing stream, and LEAK and ADTY of the tile, as they were at its issue (R274, R403). -/
  rm : BitVec 2
  ftz : Bool
  leak : BitVec 16
  adty : Bool
  /-- Nodes on which it holds an in-flight reference (R227). -/
  refs : List (BitVec 32)
  /-- VCLK of the die at its acceptance (R256). -/
  vclk : Vector W64 4
  /-- For DRAIN, the commands it waits for: engine and accept number (R435). -/
  waits : List (Eng × BitVec 32)
  /-- The checkpoint interval in which it was accepted (R450). -/
  interval : BitVec 16
  /-- Flags it gathered for FSTAT (R274). -/
  flags : BitVec 6
  /-- Collective: packages to which it has sent its data; blocks received (rank, bytes). -/
  sent : List (BitVec 12)
  blocks : List (Nat × List Byte)
  /-- A block of a collective does not match the command (R443), or a fetched block is not cached by its holder (R60). -/
  mismatch : Bool
  /-- Tensor descriptors it has read, by handle, and the tile-table entry it read last (R211). -/
  tns : List (BitVec 16 × BitVec 512)
  ttile : Option (BitVec 16 × Nat × W64)
  /-- Accumulator tiles that an X-stream write has spoiled while this command uses them, 8 bits (R175). -/
  zspoil : BitVec 8
  /-- Extents that a `COPYL` has allocated and not yet pointed its node at (R437). -/
  ext : List Group
  /-- Row progress of a compute command (R421): RB, its row blocks committed, and EB, those released. -/
  rb : Nat
  eb : Nat
  /-- An `MSWAP` accepted after it has taken effect (R406, R411). -/
  swapped : Bool
  /-- The cycle of its acceptance (R445). -/
  since : Nat
  deriving DecidableEq, Repr

/-- The commands of one engine that a tile has issued (R165): not yet accepted, in progress, the accepted
count ENGSEQ, and the halt of R423 and R431. -/
structure EngQ where
  waiting : List Cmd
  running : List Cmd
  seq : BitVec 32
  halted : Bool
  deriving DecidableEq, Repr

/-- The state of a weight plane (R402). -/
inductive PlaneState where
  | empty | loaded | invalid
  deriving DecidableEq, Repr

/-- A weight plane (R402, R409): state, type, reduction length, sparsity, the `MWLD` snapshot, and what it
latched: 32 rows of element codes at their dense indices (`none` where absent), the scale code of each
block, and poison per element. -/
structure Plane where
  st : PlaneState
  ty : Ty
  k : Nat
  sparse : Bool
  snap : BitVec 512
  rows : List (List (Option Nat))
  scales : List (List Nat)
  pois : List (List Bool)
  deriving DecidableEq, Repr

/-- The X-stream's view of a plane at issue (R404). -/
structure PlaneView where
  st : PlaneState
  ty : Ty
  sparse : Bool
  deriving DecidableEq, Repr

/-- An arrival that a rim logs while its tile is stopped (R296, R378). -/
inductive Arrival where
  | token (k : R5) | flag (f : F3) (v : Bool)
  deriving DecidableEq, Repr

/-- A capture in progress (R296, R303, R472): the handle of its image, the drop option, whether firmware's `CAPTURE` decided it. -/
structure Capturing where
  handle : BitVec 32
  drop : Bool
  firmware : Bool
  deriving DecidableEq, Repr

/-- What a stopped tile waits for (R12, R199, R477), or the end of its context's checkpoint (R320). -/
inductive StopWhy where
  | notPresent | breakpoint (slot : BitVec 3) | checkpoint
  deriving DecidableEq, Repr

/-- The life of a tile's item: none; given and waiting for its Sluice grant or T_in; running; ended by both
streams; stopped by a contained or ending cause (R126, R294, R488). -/
inductive ItemSt where
  | none | given | running | stopped
  deriving DecidableEq, Repr

/-- An item (R118, R122, R125): its launch, stage, item number for stage 0, the entry for later stages,
its cohort group and rank. -/
structure Item where
  launch : Nat
  stage : BitVec 3
  num : Nat
  wid : W64
  entry : List W64
  group : Option Nat
  rank : BitVec 3
  start : Nat
  deriving DecidableEq, Repr

/-- An instruction noted in a stream's operand log (R313): registers read and registers written. -/
structure LogEntry where
  reads : List RegName
  writes : List RegName
  deriving DecidableEq, Repr

/-- A request a privileged instruction has made to a die controller (R470, R475). -/
inductive DcReq where
  | capture (desc : W64) | brkx (desc : W64)
  deriving DecidableEq, Repr

/-- A CA store's claim that waits for the home's answer (R487): line, claimed bytes, and the vector it carries, taken at issue (R256). -/
structure Claim where
  line : Nat
  bytes : BitVec 64
  vclk : Vector W64 4
  deriving DecidableEq, Repr

/-- An ENQ in the rim (R376): flag, queue, the packet's eight words. -/
structure EnqReq where
  flag : F3
  queue : BitVec 10
  words : List W64
  deriving DecidableEq, Repr

/-- A tile (R156 and the rules its fields name). -/
structure Tile where
  /-- Installed context, 16 bits; R160 (07); reset: none. -/
  ctx : Option (BitVec 16)
  /-- Tenant class that holds the tile, 6 bits; R141 (06); reset: none (unheld, R141). -/
  holder : Option (BitVec 6)
  /-- Sluice current class the tile is in, 0 to 7; R37 (01); reset: 0. -/
  sclass : Nat
  /-- Class asked of the Sluice while a request is pending; R39 (01); reset: none. -/
  sreq : Option Nat
  /-- Windows in which the pending request was refused; R40 (01); reset: 0. -/
  srefused : Nat
  /-- Cycle of the pending Sluice request; R40 (01); reset: 0. -/
  sreqAt : Nat
  /-- Launch the tile serves; R132 (05); reset: none. -/
  launch : Option Nat
  /-- Current stage of the tile, `none` for NONE; R132 (05); reset: none. -/
  cur : Option (BitVec 3)
  /-- Cycle of the last stage change (t.switched); R131 (05); reset: 0. -/
  switched : Nat
  /-- Whether a term runs; R141 (06); reset: false. -/
  term : Bool
  /-- Item state; R126, R488 (05); reset: none. -/
  ist : ItemSt
  /-- The item given to the tile; R125 (05); reset: none. -/
  item : Option Item
  /-- Clock stopped, and why; R12 (01), R199, R296, R477; reset: none. -/
  stop : Option StopWhy
  /-- A capture is streaming this tile's image; R296 (12); reset: none. -/
  capturing : Option Capturing
  /-- The capture image that the tile has been given to restore; R133 (05); reset: none. -/
  resume : Option (BitVec 32)
  /-- The image of the last item here, while no other item has begun on the tile since its capture; R127 (05); reset: none. -/
  lastImg : Option (BitVec 32)
  /-- Faulting accesses to present again at the thaw; R200 (08); reset: empty. -/
  faults : List Walk
  /-- `a0`–`a31`, 32 × 64 bits; R156 (07); reset: DESIGN CHOICE 0 [3]. -/
  areg : Vector W64 32
  /-- Poison bits of `a0`–`a31`; R156 (07); reset: DESIGN CHOICE 0 [3]. -/
  apois : BitVec 32
  /-- `x0`–`x31`, 32 × 64 bits; R156 (07); reset: DESIGN CHOICE 0 [3]. -/
  xreg : Vector W64 32
  /-- Poison bits of `x0`–`x31`; R156 (07); reset: DESIGN CHOICE 0 [3]. -/
  xpois : BitVec 32
  /-- Flags `f0`–`f7`; R156 (07); reset: DESIGN CHOICE 0 [3]. -/
  flags : BitVec 8
  /-- Flags whose `SQPUSH` or `ENQ` has not yet produced its result; R358 (14); reset: 0. -/
  fpend : BitVec 8
  /-- A-stream program counter, 14 bits; R156 (07); reset: DESIGN CHOICE 0 [3]. -/
  apc : Pc
  /-- X-stream program counter, 14 bits; R156 (07); reset: DESIGN CHOICE 0 [3]. -/
  xpc : Pc
  /-- The A-stream has executed STEP; R126 (05); reset: false. -/
  astep : Bool
  /-- The X-stream has executed STEP; R126 (05); reset: false. -/
  xstep : Bool
  /-- Vector names `v0`–`v63`: 64 × (2,048 + 64 poison bits, state, tag, last-read order); R156, R161 (07); reset: every name EMPTY, DESIGN CHOICE value 0 [3]. -/
  v : Vector VName 64
  /-- Masks `k0`–`k15`, 16 × 512 bits; R156 (07); reset: DESIGN CHOICE 0 [3]. -/
  k : Vector KMask 16
  /-- Accumulator tiles `z0`–`z7`; R156 (07), R125 (05); reset: VALID 0, tag A40, DESIGN CHOICE elements 0 [3]. -/
  z : Vector ZTile 8
  /-- Queues `q0`–`q7`, at most 16 entries each; R156 (07); reset: empty. -/
  q : Vector (List QEntry) 8
  /-- Queue `qb`, at most 64 bits; R156 (07); reset: empty. -/
  qb : List Bool
  /-- Tokens `tk0`–`tk31`: state and 16-bit count; R156 (07), R125 (05); reset: complete, DESIGN CHOICE count 0 [3]. -/
  tk : Vector Token 32
  /-- Recipe slots `rcp0`–`rcp31`; R156 (07), R304 (12); reset: empty (cleared at item start). -/
  rcp : Vector Recipe 32
  /-- Anchored `x` registers; R466 (18); reset: none. -/
  ax : BitVec 32
  /-- Anchored `v` names; R466 (18); reset: none. -/
  av : BitVec 64
  /-- Anchored `k` masks; R466 (18); reset: none. -/
  ak : BitVec 16
  /-- FCTL.RM and FCTL.FTZ, 3 bits; R274 (11); reset: 0 (its field map). -/
  fctl : BitVec 3
  /-- FSTAT: SAT NV DZ OF UF NX, 6 bits; R274 (11); reset: 0 (its field map). -/
  fstat : BitVec 6
  /-- MCFG.LEAK, 16 bits; R426 (16); reset: DESIGN CHOICE 0 [3]. -/
  leak : BitVec 16
  /-- MCFG.ADTY, 1 bit; R426 (16); reset: DESIGN CHOICE 0 [3]. -/
  adty : Bool
  /-- A-stream TVEC, TEPC, TSTAT, TREC0–TREC7; R453, R454 (18); reset: 0. -/
  acsr : StreamCsr
  /-- X-stream TVEC, TEPC, TSTAT, TREC0–TREC7; R453, R454 (18); reset: 0. -/
  xcsr : StreamCsr
  /-- CYCLE: tile cycles since item start, 64 bits; R453 (18); reset: 0. -/
  cyc : W64
  /-- PMC0–PMC7, 8 × 64 bits; R453 (18); reset: 0 (zero at installation). -/
  pmc : Vector W64 8
  /-- PMSEL0–PMSEL7, 8 × 10 bits; R455 (18); reset: 0. -/
  pmsel : Vector (BitVec 10) 8
  /-- PMOVF, 8 bits; R453 (18); reset: 0 (zero at installation). -/
  pmovf : BitVec 8
  /-- Counters whose wraps have not yet delivered their cause 0x71, in order; R456 (18); reset: none. -/
  pmwrap : List (BitVec 3)
  /-- Breakpoint slots, 8; R473 (18); reset: not VALID. -/
  brk : Vector BrkSlot 8
  /-- Written-since-install bits of the scratchpad's 4 KiB granules, 512 bits; R111 (04); reset: 0. -/
  wgran : BitVec 512
  /-- The item has written cluster memory (CLU); R299 (12); reset: false. -/
  wroteClu : Bool
  /-- Scratchpad seal bits, 512 bits; R224 (09); reset: 0. -/
  sealb : BitVec 512
  /-- X-cycles since item start; R170 (07); reset: 0. -/
  xcyc : Nat
  /-- X-stream writes in flight, by closing X-cycle and then issue order; R171, R172 (07); reset: empty. -/
  pend : List XPend
  /-- Issue intervals of the X-stream's units; R173 (07); reset: 0. -/
  units : XUnits
  /-- Last X-cycle at which an X-stream load window closes, for X-stream fences; R252 (10); reset: 0. -/
  ldClose : Nat
  /-- Last X-cycle at which the window of an X-stream scratchpad store closes, and of a cluster-memory store, for X-stream fences and XFNC;
  R252, R262 (10); reset: 0. -/
  stClose : Nat
  stCloseC : Nat
  /-- An X-stream release holds later stores until this X-cycle; R252 (10); reset: 0. -/
  holdSt : Nat
  /-- An X-stream acquire holds later loads and stores until this X-cycle; R252 (10); reset: 0. -/
  holdLd : Nat
  /-- Copy engine commands and ENGSEQ; R165 (07); reset: empty, 0. -/
  ecopy : EngQ
  /-- Gather engine commands and ENGSEQ; R165 (07); reset: empty, 0. -/
  egath : EngQ
  /-- Matrix engine commands and ENGSEQ; R165 (07); reset: empty, 0. -/
  emat : EngQ
  /-- Commands of the tile at its die's collective engine and ENGSEQ; R165 (07); reset: empty, 0. -/
  ecoll : EngQ
  /-- Commands of the tile at its die's rake and Saltern units and ENGSEQ; R165 (07); reset: empty, 0. -/
  esalt : EngQ
  /-- XFNC and DRAIN commands, which wait in no engine queue; R434, R435 (17); reset: empty. -/
  loose : List Cmd
  /-- The rim's arrival log while the tile is stopped; R296 (12), R430 (17); reset: empty. -/
  alog : List Arrival
  /-- ACTIVE weight plane; R402 (16); reset: EMPTY. -/
  active : Plane
  /-- SHADOW weight plane; R402 (16); reset: EMPTY. -/
  shadow : Plane
  /-- X-stream's views of the two planes, active then shadow; R404 (16); reset: EMPTY. -/
  viewA : PlaneView
  viewS : PlaneView
  /-- L1D: 1,024 lines in 256 sets of 4 ways; R190 (08); reset: empty. -/
  l1 : List L1Line
  /-- L1D use counter from which least recently used order is taken; R190 (08); reset: 0. -/
  l1use : Nat
  /-- CA store claims waiting for their answer; R487 (10); reset: empty. -/
  claims : List Claim
  /-- Rim translation cache, at most 128 leaf entries, most recently used first; R198 (08); reset: empty. -/
  tlb : List TlbEntry
  /-- Leaf entries that have left the translation cache while the L1D holds lines of their frames, which a shootdown still has to
  find; R205 (08); reset: empty. -/
  past : List TlbEntry
  /-- Walks the rim has asked for; R198 (08); reset: empty. -/
  walks : List Walk
  /-- Rim request-flit credits, 32; R182 (07); reset: 32. -/
  reqCred : Nat
  /-- Rim response-flit credits, 32; R182 (07); reset: 32. -/
  rspCred : Nat
  /-- ENQs in the rim's send queue, oldest first; R376, R378 (14); reset: empty. -/
  enqs : List EnqReq
  /-- OV[0..3] of the A-stream, 4 × 64 bits; R255 (10); reset: 0. -/
  ov : Vector W64 4
  /-- Scopes of the releases of cluster, die or package scope whose write-backs wait for the tile's claims, oldest first; R252, R487 (10);
  reset: empty. -/
  relPend : List (BitVec 2)
  /-- The vector that the A-stream's read in wait at its home carries, taken at issue; R256 (10); reset: none. -/
  rdV : Option (Vector W64 4)
  /-- A `BAR` in progress; R377 (14); reset: false. -/
  inBar : Bool
  /-- `BAR`s the item has executed; R128 (05); reset: 0. -/
  bars : Nat
  /-- Request to a die controller that stalls the A-stream; R470, R475 (18); reset: none. -/
  dcReq : Option DcReq
  /-- Operand logs of the two streams, 32 entries each; R313 (12); reset: empty. -/
  alogOps : List LogEntry
  xlogOps : List LogEntry
  /-- Entry overlay blocks resident in the instruction memories: launch and stage whose overlays each memory holds; R127 (05); reset: none. -/
  resA : Option (Nat × BitVec 3)
  resX : Option (Nat × BitVec 3)
  deriving DecidableEq, Repr

/-! ## Contexts, launches, queues -/

/-- A context reference on a node (R222). -/
inductive RefKind where
  | owner | lease | rake | fork
  deriving DecidableEq, Repr

/-- An entry of a context's reference list (R222). -/
structure RefEntry where
  handle : BitVec 32
  interval : BitVec 16
  behind : Bool
  defer : Bool
  kind : RefKind
  deriving DecidableEq, Repr

/-- A seal record (R225): base, size, and for scratchpad bytes the holder number of the tile, or of the capture image, that has them. -/
structure SealRec where
  base : W64
  size : W64
  spad : Option Nat
  deriving DecidableEq, Repr

/-- A capture image held by a die controller (R298, R299): the whole tile, its scratchpad cells and line poison, and
the header's fields. `Image.stored` gives its bytes (R300, log entry 24). -/
structure Image where
  handle : BitVec 32
  /-- The staging granules that hold its bytes, in order, or the HBM address that firmware has moved it to (R298). -/
  grans : List Nat
  hbm : Option Nat
  /-- KIND, TILEREV and SCANMAP of the header (R299, R300). -/
  kind : BitVec 8
  tilerev : BitVec 32
  scanmap : BitVec 256
  /-- CONTEXT and KEY of the header (R299). -/
  ctx : BitVec 16
  key : BitVec 12
  /-- Identity of the key that encrypts the image (R300); a restore needs the slot to hold it still. -/
  keyId : Nat
  /-- SEQ, DEVTIME and source tile of the header (R299). -/
  seq : W64
  devtime : W64
  srctile : BitVec 8
  /-- CLU, DROPPED and FROZEN of the header (R299). -/
  clu : Bool
  dropped : Bool
  frozen : Bool
  /-- GEN and VCLK of the header (R299). -/
  gen : BitVec 16
  vclk : Vector W64 4
  /-- The captured tile, whose fields the other sections hold, and the cells of its written granules and instruction memories, with line poison (R299). -/
  tile : Tile
  cells : Mem
  poison : List Nat
  /-- The cluster section that goes with this image: CMA, cells and line poison of each granule (R302). -/
  clus : Option (List (Nat × Mem × List Nat))
  /-- Members of the cohort group, this one included, as image handles (R302). -/
  members : List (BitVec 32)
  /-- Who may resume it: its stage scheduler, or the firmware that captured it (R472). -/
  firmware : Bool
  /-- No byte of the image has been changed where it stands: its tags agree (R300). -/
  tagOk : Bool
  deriving DecidableEq, Repr

/-- A line the undo log holds (R320): address, its 64 bytes, poison, key identity. -/
structure UndoLine where
  line : Nat
  cells : List Byte
  pois : Bool
  key : Option Nat
  deriving DecidableEq, Repr

/-- A packet as taken from a ring (R71): queue, count at which it stood, units it held there, its words. -/
structure Packet where
  /-- The model's own name of the packet, never reused. -/
  id : Nat
  /-- Queue, count of its ring unit, units, and the 8-byte words of all of them (R70, R71). -/
  queue : BitVec 10
  count : BitVec 32
  len : Nat
  words : List W64
  deriving DecidableEq, Repr

/-- A stage of a launch (R115). -/
structure StageDesc where
  acode : W64
  xcode : W64
  asize : Nat
  xsize : Nat
  aentry : Pc
  xentry : Pc
  cls : Nat
  log2depth : Nat
  qslice : Nat
  qoff : Nat
  deriving DecidableEq, Repr

/-- An entry of a stage queue instance (R122): the slot of the instance's bytes that holds it, whether it is available,
and the holder number of the tile that pushed it, or of the image its item is in; none once that item has retired (R124). -/
structure SqEntry where
  slot : Nat
  avail : Bool
  pusher : Option Nat
  deriving DecidableEq, Repr

/-- A stage queue instance (R121): the slot of the next entry, and the entries in order of their append. -/
structure SqInst where
  next : Nat
  entries : List SqEntry
  deriving DecidableEq, Repr

/-- A captured item that awaits resumption (R133). -/
structure Captured where
  img : BitVec 32
  stage : BitVec 3
  group : Option Nat
  deriving DecidableEq, Repr

/-- An item that returned to its stage before it began (R488), with the image it would have resumed from. -/
structure Returned where
  item : Item
  img : Option (BitVec 32)
  deriving DecidableEq, Repr

/-- since() of a starving stage (R131), and the cycle from which its next starvation capture is counted (R133). -/
structure Since where
  stage : Nat
  since : Nat
  from_ : Nat
  deriving DecidableEq, Repr

/-- A launch on one die (R119, R121, R131, R133, R488): claims, stage queue instances, captured items (oldest first) and
returned items (first returned first), since() of each starving stage. -/
structure LaunchDie where
  /-- The launch is admitted to the die, or has withdrawn from it (R129). -/
  admitted : Bool
  withdrawn : Bool
  /-- DIELEV groups the die has claimed that have an unclaimed CLULEV group, and how many of its CLULEV groups clusters have claimed. -/
  groups : List (Nat × Nat)
  /-- CLULEV groups that clusters have claimed and that have an unstarted item: cluster, group, items started. -/
  clu : List (Nat × Nat × Nat)
  /-- Stage queue instances of the launch on the die (R121). -/
  queues : List SqInst
  /-- Captured items, oldest first (R133). -/
  captured : List Captured
  /-- Items that returned before they began, first returned first (R488). -/
  returned : List Returned
  /-- since() of each starving stage (R131). -/
  since : List Since
  deriving DecidableEq, Repr

/-- A launch (R114 to R137). -/
structure Launch where
  id : Nat
  ctx : BitVec 16
  tclass : BitVec 6
  nstage : Nat
  nfield : Nat
  dielev : Nat
  clulev : Nat
  cohort : Bool
  mindie : Nat
  maxdie : Nat
  widths : List Nat
  counts : List Nat
  stages : List StageDesc
  args : List W64
  /-- Dies' shares, four. -/
  dies : Vector LaunchDie 4
  /-- Next DIELEV group not yet claimed by any die. -/
  nextGroup : Nat
  /-- MINDIE dies have been admitted, so that items may start (R129). -/
  started : Bool
  /-- Items of the launch that have retired (R137). -/
  retired : Nat
  /-- Generation counts of cohort groups and items retired per group (R128). -/
  gens : List (Nat × Nat)
  gretired : List (Nat × Nat)
  /-- The LAUNCH packet's header, queue and count, for its completion (R137). -/
  packet : Packet
  header : List W64
  /-- Checkpoint interval in which it was dispatched (R321). -/
  interval : BitVec 16
  /-- Residency handles it references, and whether it has received its first tile (R150). -/
  handles : List (BitVec 14)
  counted : Bool
  deriving DecidableEq, Repr

/-- A context that firmware has installed (R160, R193, R207, R222, R225, R319). -/
structure Ctx where
  id : BitVec 16
  /-- Owner key index, 12 bits; R108 (04). -/
  key : BitVec 12
  /-- TROOT: HBM die and PA[47:17] of the level 1 table; R193 (08). -/
  trootDie : BitVec 2
  trootNext : BitVec 31
  /-- TNSBASE and TNSCOUNT; R207 (08). -/
  tnsBase : W64
  tnsCount : BitVec 17
  /-- Reference list, at most 4,096 entries, most recent first; R222 (09). -/
  refs : List RefEntry
  /-- Seal records, at most 256; R225 (09). -/
  seals : List SealRec
  /-- SEQ of the next capture image; R300 (12). -/
  capSeq : W64
  /-- Checkpoint interval in ms and undo capacity in GiB in force, and those that take effect at the next checkpoint; R319 (12). -/
  ckInterval : BitVec 10
  ckUndo : BitVec 4
  ckNext : Option (BitVec 10 × BitVec 4)
  /-- TICKCNT of the last checkpoint; R320 (12). -/
  ckLast : W64
  /-- Number of the current checkpoint interval; R222 (09). -/
  interval : BitVec 16
  /-- A checkpoint exists: its images by handle, granules and tier 0 brine frames; R320 (12). -/
  ckImages : List (BitVec 32 × Image)
  ckCells : Mem
  ckPoison : List Nat
  /-- Byte ranges that `ckCells` copies, the launches as they stood, and the extents of device memory the Saltern has freed since; R320, R321 (12), R240 (09). -/
  ckRanges : List (Nat × Nat)
  ckLaunches : List Launch
  ckFreed : List (Nat × Nat)
  hasCk : Bool
  /-- Undo log, newest first; R320 (12). -/
  undo : List UndoLine
  /-- Packets of the interval that completed and wrote device memory, or were dispatched: for R321 step 6. -/
  ivPackets : List (Packet × Byte)
  /-- A rollback is in progress; R322 (12). -/
  rolling : Bool
  /-- No new packet of the context starts (R321). -/
  hold : Bool
  /-- Cause of disposition E that asks for a rollback, until the rollback runs; R289 (12). -/
  pendE : Option (Cause × BitVec 512)
  deriving DecidableEq, Repr

/-- A host queue's registers and front-end state (R66 to R69, R80, R84). -/
structure Queue where
  base : W64
  en : Bool
  src : Bool
  loc : Bool
  log2n : BitVec 5
  prog : Byte
  cring : BitVec 10
  tclass : BitVec 6
  head : BitVec 32
  tail : BitVec 32
  err : Byte
  halted : Bool
  dbign : Bool
  ctx : BitVec 16
  /-- Packets taken and not yet completed, in ring order; IDLE is this list being empty (R68, R74). -/
  inflight : List Nat
  /-- Units as they were when the tail that publishes them was accepted, by slot (R70). -/
  published : List (Nat × List (Byte × Bool))
  /-- A FENCE that has been taken and not completed (R75). -/
  fence : Option Packet
  /-- A WAITGE in progress, its ticks waited, and whether the look of the last tick is still to come (R78). -/
  waitge : Option (Packet × Nat × Bool)
  /-- The program's 256 scratch bytes (R80). -/
  scratch : Mem
  deriving DecidableEq, Repr

/-- A completion record not yet written (R87, R89); error records use the same list with 64-byte contents. -/
structure PendRec where
  bits : BitVec 512
  irq : Bool
  urgent : Bool
  deriving DecidableEq, Repr

/-- A completion ring's registers and state (R86, R89, R90). -/
structure Ring where
  base : W64
  en : Bool
  loc : Bool
  log2n : BitVec 4
  vec : BitVec 11
  thresh : Byte
  hold : BitVec 7
  head : BitVec 32
  tail : BitVec 32
  cfgerr : Bool
  ctx : BitVec 16
  /-- Records waiting to be written, at most 64, oldest first. -/
  waiting : List PendRec
  /-- Records of packets that end while 64 wait: they stay where the packets ended, oldest first (R89). -/
  behind : List PendRec
  /-- Written records that count toward the interrupt. -/
  pendingIrq : Nat
  /-- Ticks until the hold timer expires, when it runs. -/
  timer : Option Nat
  deriving DecidableEq, Repr

/-- A window of a queue program (R80). -/
structure Window where
  base : W64
  log2size : Nat
  kind : BitVec 2
  wr : Bool
  rd : Bool
  deriving DecidableEq, Repr

/-- A loaded queue program (R80). -/
structure Program where
  words : List W32
  windows : List Window
  deriving DecidableEq, Repr

/-- A piece of a confidential copy's destination that step 7 has translated (R105): virtual address, bytes, physical address, page entry. -/
structure ConfPiece where
  va : Nat
  n : Nat
  pa : Nat
  leaf : BitVec 128
  deriving DecidableEq, Repr

/-- A confidential copy that has begun and not reached step 9 (R105, R107): its channel, the context whose pages it writes, the
plaintext and where it goes; or one that CHAN_CLEAR or a TDI transition has ended. -/
structure ConfCopy where
  ended : Bool
  fn : BitVec 8
  chan : BitVec 32
  ctx : BitVec 16
  ctr : W64
  plain : List Byte
  dst : List ConfPiece
  deriving DecidableEq, Repr

/-- An interpreter unit (R81, R84): the packet in its buffer and the run of its program. -/
structure Interp where
  packet : Option Packet
  /-- The program the packet runs, and the queue's ring size, as they were when the packet was taken (R67). -/
  prog : Option Program
  ringN : Nat
  /-- Packet buffer, 8 KiB at most, as cells. -/
  buf : Mem
  /-- It runs a program: the sixteen registers, the pc and the steps counted (R81, R84). -/
  running : Bool
  g : Vector W64 16
  pc : Nat
  steps : Nat
  /-- Enclosing loops, innermost first: first word, word after the body, trips left. -/
  loops : List (Nat × Nat × Nat)
  /-- The packet has passed to dispatch. -/
  ready : Bool
  /-- A confidential copy in progress, or ended. -/
  conf : Option ConfCopy
  deriving DecidableEq, Repr

/-! ## Trust, links, store -/

/-- TDI states (R97, R100). -/
inductive Tdi where
  | unlocked | locked | run | error
  deriving DecidableEq, Repr

/-- A channel slot (R102). -/
structure Chan where
  chan : BitVec 32
  key : BitVec 256
  fn : BitVec 8
  ctx : BitVec 16
  lastCtr : W64
  deriving DecidableEq, Repr

/-- An answer whose last flit has not left its port: flits of its VC still to leave, the node whose in-flight reference it keeps (R57), the port
whose VC 0 buffer still holds the request (R62). -/
structure AnswerHold where
  vc : BitVec 2
  left : Nat
  node : Option (BitVec 32)
  src : Option (BitVec 4)
  deriving DecidableEq, Repr

/-- A peer port (R25 to R30, R63). -/
structure Port where
  en : Bool
  up : Bool
  down : Bool
  /-- Next SEQ expected from the peer, and SEQ of the next flit sent. -/
  rxSeq : BitVec 16
  txSeq : BitVec 16
  /-- ACKSEQ to send: last good flit received. -/
  ackSeq : BitVec 16
  /-- Replay buffer: flits sent and not covered, oldest first, at most 512. -/
  replay : List (BitVec 2048)
  /-- Consecutive replays of the oldest flit. -/
  nreplay : Nat
  /-- Transmit credits per VC; receive entries occupied per VC; credits owed per VC. -/
  cred : Vector Nat 4
  occ : Vector Nat 4
  owed : Vector Nat 4
  /-- VC whose credit the next returning flit names (rotation of R63). -/
  nextVc : BitVec 2
  /-- Receive buffer: flits buffered, oldest first. -/
  rxbuf : List (BitVec 2048)
  /-- Flits that wait for a credit of their VC, oldest first; SEQ, ACKSEQ, credits and CRC are filled as they leave. -/
  txq : List (BitVec 2048)
  /-- VC to which the next flit slot is offered first (rotation of R64). -/
  slot : BitVec 2
  /-- What answers that have not left whole keep in place (R57, R62). -/
  holds : List AnswerHold
  deriving DecidableEq, Repr

/-- An outstanding directory request (R61). -/
structure DirReq where
  tag : BitVec 16
  op : Byte
  nsid : BitVec 32
  name : BitVec 128
  msg : DirMsg
  /-- The holder it fetches from, and whether the one retry of R60 is spent. -/
  holder : Option (BitVec 12)
  retried : Bool
  /-- The command that waits for it: tile and accept number of its Saltern command or copy command. -/
  tile : BitVec 8
  eng : Eng
  seq : BitVec 32
  /-- The port that carried it (R28), the cycle of its send and the bytes of receive space reserved for its answer (R61). -/
  port : Option (BitVec 4)
  sentAt : Nat
  space : Nat
  deriving DecidableEq, Repr

/-- The replication unit (R59). -/
structure Repl where
  desc : W64
  count : BitVec 32
  go : Bool
  code : Byte
  last : Byte
  /-- Nodes still to send, and the request in flight. -/
  todo : List (BitVec 32)
  /-- Package and tier it sends to (R59). -/
  target : BitVec 12
  tier : BitVec 2
  /-- The request in flight (R59). -/
  inflight : Option (BitVec 32)
  deriving DecidableEq, Repr

/-- A namespace (R212). -/
structure Namespace where
  salt : BitVec 256
  nsid : BitVec 32
  key : BitVec 12
  nlayer : Nat
  log2lb : Nat
  ty : BitVec 4
  shared : Bool
  cxlport : BitVec 3
  priodef : BitVec 3
  model : BitVec 32
  adapt : BitVec 32
  closing : Bool
  deriving DecidableEq, Repr

/-- States of a node record (R217). -/
inductive NodeSt where
  | free | open_ | sealed | harvesting
  deriving DecidableEq, Repr

/-- A node record (R217) with its token block (R216). -/
structure Node where
  name : BitVec 128
  parent : BitVec 32
  nsid : BitVec 32
  depth : BitVec 16
  owner : BitVec 16
  lease : BitVec 48
  touch : BitVec 48
  refcnt : Nat
  gen : BitVec 8
  prio : BitVec 3
  st : NodeSt
  ann : Bool
  groups : List Group
  tokens : List (BitVec 32)
  /-- Checkpoint interval of its owner in which it was opened; context that sealed it and its interval (R240). -/
  interval : BitVec 16
  sealer : BitVec 16
  sealIv : BitVec 16
  deriving DecidableEq, Repr

/-- A pool of the Saltern (R232): registers and the extents in use, by address and units. -/
structure Pool where
  base : W64
  size : BitVec 32
  high : BitVec 32
  low : BitVec 32
  /-- Extents allocated: first unit and units. -/
  used : List (Nat × Nat)
  /-- Moves and removals in flight, at most 4: node handles. -/
  moves : List (BitVec 32)
  /-- Harvest runs on the pool (R234); selections that it may still make (R235). -/
  harvesting : Bool
  picks : Nat
  deriving DecidableEq, Repr

/-- A search waiting for or running in a die's rake (R229): tile and accept number. -/
structure RakeReq where
  tile : BitVec 8
  seq : BitVec 32
  deriving DecidableEq, Repr

/-- A residency move in progress (R151): the handle, the tiers it leaves and goes to, the die and port of its entry, and
whether RES_CMD waits for it. -/
structure ResMove where
  h : BitVec 14
  fromTier : BitVec 2
  toTier : BitVec 2
  die : BitVec 2
  port : BitVec 2
  cmd : Bool
  deriving DecidableEq, Repr

/-- A measurement block of SPDM (R98): index, whether its value is of the DMTF vendor-defined type, value. -/
structure MeasBlock where
  index : Nat
  vendorDefined : Bool
  value : List Byte
  deriving DecidableEq, Repr

/-- What the package puts out at its boundary: a message on a link, an MSI-X message, an answer. -/
inductive Output where
  | msix (fn : BitVec 8) (vec : BitVec 11)
  | flit (port : BitVec 4) (flit : BitVec 2048)
  | ready (dst : BitVec 12) (group seq tag : BitVec 16)
  | block (dst : BitVec 12) (group seq tag : BitVec 16) (data : List Byte)
  | bar2 (fn : BitVec 8) (data : List Byte)
  | spdm (fn : BitVec 8) (payload : List Byte)
  /-- A VENDOR_DEFINED_RESPONSE: StandardID, VendorID, payload (R103). -/
  | vendor (fn : BitVec 8) (standard vendor : BitVec 16) (payload : List Byte)
  /-- A MEASUREMENTS response: its blocks, and SPDM's signature when it was asked for (R98). -/
  | measurements (fn : BitVec 8) (blocks : List MeasBlock) (signature : List Byte)
  | mgmt (i3c : Bool) (data : List W64)
  | extent (port : BitVec 2) (base size : Nat)
  | failed (dst : BitVec 12) (status : Byte)
  deriving DecidableEq, Repr

/-- The home directory's record of a line (R248, R249): mode P or S, and for each holder its number and CMASK.
A tile is holder 0 to 255; the L1D in capture image `h` is holder 256 + `h` (R205). -/
structure HomeLine where
  modeS : Bool
  holders : List (Nat × BitVec 64)
  deriving DecidableEq, Repr

/-- A table entry that a die's walk cache holds (R194, R198): context, level of its table, the virtual address bits that index it
and those above, the raw entry. -/
structure WalkEntry where
  ctx : BitVec 16
  level : Nat
  tag : Nat
  entry : BitVec 128
  deriving DecidableEq, Repr

/-- A die (R131, R140, R93, R255). -/
structure Die where
  /-- Tenant scheduler's pointer, 6 bits; R140 (06); reset: DESIGN CHOICE 0 [4]. -/
  ptr : BitVec 6
  /-- Deficits D[c], 64 × 32 bits (TEN_DEF01, TEN_DEF23); R138 (06); reset: 0. -/
  def_ : Vector (BitVec 32) 64
  /-- VCLK[0..3], 4 × 64 bits; R255 (10); reset: 1. -/
  vclk : Vector W64 4
  /-- Writes of the die's A-streams that have been posted and have not left their tiles' rims, oldest first; R181, R182 (07), R252 (10);
  reset: empty. -/
  rim : List HomeWrite
  /-- The die's channels to the eight homes, posted writes and CLOSE markers, oldest first; R255, R256 (10); reset: empty. -/
  chan : Vector (List ChanEnt) 8
  /-- Rake searches waiting or running, at most 16 running; R229 (09); reset: empty. -/
  rake : List RakeReq
  /-- Walk cache, at most 2,048 table entries, most recent first; R198 (08); reset: empty. -/
  wcache : List WalkEntry
  /-- The die controller runs a verified image; R93 (04); reset: false. -/
  fw : Bool
  /-- Die temperature at the last sample, °C; R44 (01); reset: DESIGN CHOICE 0 [4]. -/
  temp : Nat
  deriving DecidableEq, Repr

/-- A home (4 HBM dies, then 4 CXL ports): CLOSED and RV (R255). -/
structure Home where
  closed : Vector W64 4
  rv : Vector W64 4
  deriving DecidableEq, Repr

/-- A tenant class's TEN_CFG (R138). -/
structure Tenant where
  en : Bool
  active : Bool
  maxtile : Nat
  resref : Bool
  prio : BitVec 3
  weight : Nat
  deriving DecidableEq, Repr

/-- Registers of one function's BAR0 (R23, R24). -/
structure Fn where
  /-- W2_VA[63:30], 34 bits; R23 (01); reset: 0. -/
  w2va : BitVec 34
  /-- W2_CTX.EN and CTX; R23 (01); reset: 0. -/
  w2en : Bool
  w2ctx : BitVec 16
  /-- MSI-X vectors that are unmasked; R24 (01); reset: empty (PCIe: every vector masked, PRESUMED [5]). -/
  unmasked : List Nat
  /-- MSI-X table entries, 16 bytes each, and the pending-bit array; R24 (01); reset: 0. -/
  msixTab : Mem
  pba : List Nat
  /-- TDI state; R100 (04); reset: CONFIG_UNLOCKED (PRESUMED [5]). -/
  tdi : Tdi
  /-- Base addresses of BAR0 and BAR2, which make the BAR layout with their fixed sizes; R22 (01), R100 (04); reset: 0 (PCIe, PRESUMED [5]). -/
  bar0 : W64
  bar2 : W64
  /-- SPDM messages received and sent since the last GET_VERSION; R96 (04); reset: empty. -/
  transcript : List Byte
  /-- A KEY_EXCHANGE has been answered, and the secured session is open; R99 (04); reset: false. -/
  handshake : Bool
  session : Bool
  /-- An IDE stream carries the function's traffic; R99, R105 (04); reset: false. -/
  ide : Bool
  deriving DecidableEq, Repr

/-- A CXL port (R19). -/
structure Cxl where
  trained : Bool
  switched : Bool
  width : Nat
  rate : Nat
  /-- Dynamic-capacity extents offered: base and size. -/
  extents : List (Nat × Nat)
  deriving DecidableEq, Repr

/-- An error in a tile's storage, where R311's protection finds it: one that is corrected; an instruction word's parity; an L1D line's; and,
beyond correction, a queue entry's lane, an accumulator element, and a line of the scratchpad, or of cluster or staging memory. -/
inductive ArrayError where
  | corrected (tile : BitVec 8)
  | imem (tile : BitVec 8) (st : Stream)
  | l1d (tile : BitVec 8) (line : Nat)
  | queue (tile : BitVec 8) (q : BitVec 4) (entry : Nat) (lane : BitVec 6)
  | acc (tile : BitVec 8) (z : BitVec 3) (elem : BitVec 10)
  | line (addr : Nat)
  deriving DecidableEq, Repr

/-- Which agent acts (the model's schedule). -/
inductive Agent where
  | stream (tile : BitVec 8) (st : Stream)
  | interp (unit : BitVec 4)
  | event (i : Instr)
  /-- The oldest entry of a die's channel to a home, when it is a write, is applied at the home (R255). -/
  | deliver (die : BitVec 2) (home : BitVec 3)
  /-- The oldest write that a tile has posted leaves its rim for the die's channel (R181, R256). -/
  | leave (tile : BitVec 8)
  /-- The next access to host memory by an interpreter unit fails at the host (R84, R88). -/
  | hostError
  /-- Firmware moves a completed image to HBM whole, or back into the image area (R298). -/
  | imageOut (img : BitVec 32) (pa : Nat)
  | imageIn (img : BitVec 32)
  /-- The reference oscillator counts nanoseconds (R31, R35). -/
  | nanoseconds (n : Nat)
  /-- An expander asks to take an extent back (R19). -/
  | releaseExtent (port : BitVec 2) (base size : Nat)
  /-- The copy unit runs steps 1 to 8 of a confidential copy; step 9 is CONFIDENTIAL_COPY's (R105, R107). -/
  | confBegin (unit : BitVec 4) (ide hostErr : Bool)
  /-- The I/O die's firmware extends MREG3 to MREG7 (R94). -/
  | fwExtend (j : BitVec 4) (digest : BitVec 256)
  /-- Firmware gives a key slot to a new owner (R109). -/
  | giveSlot (slot : BitVec 12)
  /-- A configuration write of a function's BAR0 or BAR2 address (R100). -/
  | barWrite (fn : BitVec 8) (second : Bool) (addr : W64)
  /-- The host writes bytes of a function's memory (R66, R70). -/
  | hostStore (fn : BitVec 8) (iova : W64) (bytes : List Byte)
  /-- An error in a tile's storage (R311). -/
  | arrayError (e : ArrayError)
  /-- A command in progress performs its next `n` beats, without completing (R178); a compute command's, `ahead`, its row blocks before the
  epilogues that they need not wait for (R406). -/
  | beats (tile : BitVec 8) (eng : Eng) (seq : BitVec 32) (n : Nat) (ahead : Bool)
  deriving DecidableEq, Repr

/-- The agent that issues the present instruction. -/
inductive Cur where
  | none
  | stream (tile : BitVec 8) (st : Stream)
  | interp (unit : BitVec 4)
  deriving DecidableEq, Repr

/-- A shootdown in progress (R204). -/
structure Shootdown where
  scope : BitVec 2
  ctx : BitVec 16
  va : W64
  /-- Parties still to acknowledge. -/
  wait : List SdParty
  /-- Started by SD_CMD (else by a range seal or unseal or a residency move). -/
  host : Bool
  /-- The command that waits for its end (RSEAL, RUNSEAL): holder number of the tile or image that has it, and accept number. -/
  cmd : Option (Nat × BitVec 32)
  deriving DecidableEq, Repr

/-- CKPT_CFG (R319). -/
structure CkCfg where
  ctx : BitVec 16
  interval : BitVec 10
  undo : BitVec 4
  code : Byte
  go : Bool
  deriving DecidableEq, Repr

set_option maxRecDepth 4096 in
/-- The package. -/
structure State where
  -- the model's own fields
  /-- MODEL: the schedule, the agents that act next, oldest first [1]; reset: DESIGN CHOICE empty. -/
  agenda : List Agent
  /-- MODEL: the agent that acts when the schedule is empty [1]; reset: DESIGN CHOICE tile 0, A-stream. -/
  focus : Agent
  /-- MODEL: the agent that issues the present instruction, none once it has issued [1]; reset: DESIGN CHOICE none. -/
  cur : Cur
  /-- MODEL: counter from which each free value is taken [2]; reset: DESIGN CHOICE 0. -/
  fresh : Nat
  /-- MODEL: number of the next identity (launches, key draws) [2]; reset: DESIGN CHOICE 0. -/
  nextId : Nat
  /-- MODEL: what the package has put out at its boundary, newest first [6]; reset: empty. -/
  out : List Output
  -- storage
  /-- Bytes of every storage of the package and of host memory; R193 (08), R183 (08), R156 (07); reset: nothing listed [7]. -/
  mem : Mem
  /-- Poisoned 64-byte lines, by line number; R314 (12); reset: none. -/
  poison : List Nat
  /-- Identity of the key under which each HBM or CXL line was last written; R108, R110 (04); reset: none. -/
  lineKey : Tab Nat
  /-- Key slots in use: slot and identity of the key drawn for it, 4,096 slots; R108, R109 (04); reset: slot 0 holds a key. -/
  keys : Tab Nat
  /-- Written bit and context tag of each 4 KiB granule of cluster and staging memory, by granule number; R112 (04); reset: clear. -/
  gran : Tab (BitVec 16)
  /-- Home directory records by line; R248 (10); reset: empty. -/
  homeDir : Tab HomeLine
  -- tiles and dies
  /-- The 256 tiles; R10 (01); reset: every tile as `Tile.reset`. -/
  tiles : Tab Tile
  /-- The four compute dies; R10 (01); reset: Die.reset each. -/
  dies : Vector Die 4
  /-- The eight homes; R255 (10); reset: 0. -/
  homes : Vector Home 8
  /-- Contexts that firmware has installed; R160 (07), R193 (08); reset: firmware context 0 only [8]. -/
  ctxs : Tab Ctx
  /-- Capture images by handle; R298 (12); reset: none. -/
  images : Tab Image
  -- time
  /-- Core cycles since package reset, at the model's pace [9]; R1 (00); reset: 0. -/
  cy : Nat
  /-- DEVTIME, 64 bits; R31 (01); reset: 0 (R35). -/
  devtime : W64
  /-- TICKCNT, 64 bits; R32 (01); reset: 0. -/
  tickcnt : W64
  /-- TIME_CTL.DOMAIN, DELAY, EN; R34 (01); reset: 0. -/
  tDomain : Byte
  tDelay : Bool
  tEn : Bool
  /-- TIME_STATUS.VALID, LOCKED, HOLDOVER, STEPPED; R34 (01); reset: 0. -/
  tValid : Bool
  tLocked : Bool
  tHoldover : Bool
  tStepped : Bool
  /-- TIME_OFFSET, 64 bits signed; R34 (01); reset: 0. -/
  tOffset : W64
  /-- Offset still to be slewed, in ns, signed; R33 (01); reset: DESIGN CHOICE 0 [4]. -/
  tSlew : Int
  /-- What the slew owes to the count of nanoseconds, signed; R33 (01); reset: DESIGN CHOICE 0 [4]. -/
  tOwe : Int
  -- power
  /-- SLU_BUDGET.BUDGET, 16 bits; R43 (01); reset: 0x2300. -/
  budget : BitVec 16
  /-- SLU_BUDGET.LOCK; R43 (01); reset: 0. -/
  budgetLock : Bool
  /-- The held Sluice request (SLU_STATUS.HELD, HELD_TILE); R40, R43 (01); reset: none. -/
  held : Option (BitVec 8)
  /-- The cycle at which the held request became so; R134 (05); reset: DESIGN CHOICE 0 [4]. -/
  heldAt : Nat
  /-- A 100 °C sample is in force: no grant that raises RESERVED; R44 (01); reset: false. -/
  hot : Bool
  /-- Thermal pre-emption by firmware is in force (110 °C until below 100 °C); R44 (01); reset: false. -/
  hot110 : Bool
  /-- Core rails removed at 115 °C; R44 (01); reset: false. -/
  railsOff : Bool
  /-- Warning bit of the error counters; R44 (01); reset: false. -/
  warn : Bool
  /-- Corrected errors per HBM stack: counted since reset, and not yet in an error record; R16 (01), R316 (12); reset: 0. -/
  corrected : Vector (Nat × Nat) 8
  /-- Corrected errors of a tile's arrays that are not yet in an error record, by tile; R311, R316 (12); reset: none. -/
  tileCorrected : Tab Nat
  -- HBM, CXL
  /-- SCRUB_STATUSk.PASSES, 8 × 32 bits; R18 (01); reset: 0. -/
  scrubPass : Vector (BitVec 32) 8
  /-- SCRUB_STATUSk.POS, 8 × 20 bits; R18 (01); reset: 0. -/
  scrubPos : Vector (BitVec 20) 8
  /-- Line within the current 64 KiB unit of each stack's scrub, 10 bits; R17 (01); reset: 0. -/
  scrubLine : Vector (BitVec 10) 8
  /-- The four CXL ports; R19 (01); reset: untrained. -/
  cxl : Vector Cxl 4
  -- functions, queues, rings, programs
  /-- Per-function registers of functions 0 to 255; R22 to R24 (01); reset: 0. -/
  fns : Tab Fn
  /-- QFUNC[q], 1,024 × 8 bits; R66 (03); reset: 0. -/
  qfunc : Tab (BitVec 8)
  /-- The 1,024 host queues; R66 (03); reset: `Queue.reset`. -/
  queues : Tab Queue
  /-- The 1,024 completion rings, and the error ring as number 1,024; R86 (03), R316 (12); reset: `Ring.reset`. -/
  rings : Tab Ring
  /-- Program slots 1–255; R79 (03); reset: empty. -/
  progs : Tab Program
  /-- PROG_ADDR, 64 bits; R79 (03); reset: DESIGN CHOICE 0 [4]. -/
  progAddr : W64
  /-- PROG_CMD.SLOT; R79 (03); reset: DESIGN CHOICE 0 [4]. -/
  progSlot : Byte
  /-- PROG_STAT.WORD, BUSY, CODE; R79 (03); reset: 0. -/
  progWord : BitVec 16
  progBusy : Bool
  /-- The next access to host memory by an interpreter unit fails; R84, R88 (03); reset: DESIGN CHOICE false [4]. -/
  hostFails : Bool
  /-- PROG_STAT.CODE, 8 bits; R79 (03); reset: 0. -/
  progCode : Byte
  /-- The 16 interpreter units; R79 (03); reset: idle. -/
  interps : Vector Interp 16
  /-- Rotation of R139: the class that is visited and the packets it has given in this visit; R139 (06); reset: DESIGN CHOICE 0 [4]. -/
  rotClass : BitVec 6
  rotGiven : Nat
  /-- Rotation of R139: the first queue that each class's next turn may take; R139 (06); reset: DESIGN CHOICE 0 [4]. -/
  rotQueue : Tab Nat
  -- root of trust
  /-- Bundle copies A and B of the flash: each one's I/O die image; R92 (04); reset: kept over package reset; at first DESIGN CHOICE none [10]. -/
  flashA : Option BootImage
  flashB : Option BootImage
  /-- The die controller images of copies A and B; R92 (04); reset: kept; at first DESIGN CHOICE none [10]. -/
  flashDcA : Option BootImage
  flashDcB : Option BootImage
  /-- The X.509 certificate chain in flash that ends in the identity key; R96 (04); reset: kept; at first the device's (Config.certChain). -/
  certChain : List Byte
  /-- Fused key hashes 0 and 1, 256 bits each; R93 (04); reset: kept; at first DESIGN CHOICE 0 [10]. -/
  keyHash0 : BitVec 256
  keyHash1 : BitVec 256
  /-- Fuse 0 revoked; R93 (04); reset: kept. -/
  revoked0 : Bool
  /-- SVN floors for KIND 1 and 2, 16 bits each; R93 (04); reset: kept; at first DESIGN CHOICE 0 [10]. -/
  floorIo : BitVec 16
  floorDc : BitVec 16
  /-- BOOT_STATUS[7:0] and bit 8; R93 (04); reset: as the boot leaves them, at first 0. -/
  bootCode : Byte
  bootB : Bool
  /-- The package stays in recovery; R93 (04); reset: as the boot leaves it. -/
  recovery : Bool
  /-- SVN of the running I/O die firmware; R97 (04); reset: DESIGN CHOICE 0 [4]. -/
  svnIo : BitVec 16
  /-- MREG0–MREG15, 16 × 256 bits; R94 (04); reset: 0. -/
  mreg : Vector (BitVec 256) 16
  /-- MEXT_DATA, 256 bits; R94 (04); reset: DESIGN CHOICE 0 [4]. -/
  mextData : BitVec 256
  /-- MEXT_CMD.CODE, GO, IDX; R95 (04); reset: 0. -/
  mextCode : Byte
  mextGo : Bool
  mextIdx : BitVec 4
  /-- DEBUG: the debug port has been enabled since package reset; R97 (04); reset: 0. -/
  debug : Bool
  /-- The 256 channel slots in use; R102 (04); reset: none. -/
  chans : List Chan
  -- peer links and directory
  /-- PKGID.ID, 12 bits; R30 (01); reset: 0. -/
  pkgid : BitVec 12
  /-- The 16 peer ports; R25, R30 (01); reset: disabled, credits of R27. -/
  ports : Vector Port 16
  /-- ROUTEj.MASK, 4,096 × 16 bits; R30 (01); reset: 0. -/
  route : Tab (BitVec 16)
  /-- HOMEMAP, 4,096 × (VALID, PKG); R48 (02); reset: 0. -/
  homemap : Tab (BitVec 16)
  /-- DIR_CFG.LOG2SETS, BASE, EN; R55 (02); reset: 0. -/
  dirSets : BitVec 5
  dirBase : BitVec 39
  dirEn : Bool
  /-- Outstanding directory requests; R61 (02); reset: none. -/
  dirReqs : List DirReq
  /-- Next TAG; R61 (02); reset: DESIGN CHOICE 0 [4]. -/
  dirTag : BitVec 16
  /-- The replication unit; R59 (02); reset: 0. -/
  repl : Repl
  /-- READY messages received and not yet used: sender, GROUP, SEQ, TAG; R443 (17); reset: none. -/
  collReady : List (BitVec 12 × BitVec 16 × BitVec 16 × BitVec 16)
  -- launches and tenants
  /-- Launches dispatched and not retired, in order of dispatch; R116 (05); reset: none. -/
  launches : Tab Launch
  /-- TEN_CFG of the 64 classes; R138 (06); reset: EN 0, ACTIVE 1, WEIGHT 1. -/
  tenants : Vector Tenant 64
  /-- GANG_TIME, GANG_SET, GANG_CTL.DONE and ARM; R146 (06); reset: 0 (GANG_TIME, GANG_SET: DESIGN CHOICE 0 [4]). -/
  gangTime : W64
  gangSet : W64
  gangDone : Bool
  gangArmed : Bool
  /-- RES_BASE, 64 bits; R148 (06); reset: DESIGN CHOICE 0 [4]. -/
  resBase : W64
  /-- RES_CMD.HANDLE, GO, CODE, OP; R149 (06); reset: 0. -/
  resHandle : BitVec 16
  resGo : Bool
  resCode : Byte
  resOp : BitVec 3
  /-- HANDLE and OP of the write that set GO, on which the command acts; R149 (06); reset: DESIGN CHOICE 0 [4]. -/
  resRunHandle : BitVec 16
  resRunOp : BitVec 3
  /-- RES_POOL0–3, 32 bits each; RES_CXLPOOL, 4 × 16 bits; R149 (06); reset: DESIGN CHOICE 0 [4]. -/
  resPool : Vector (BitVec 32) 4
  resCxl : W64
  /-- Residency moves in progress; R151 (06); reset: none. -/
  resMoves : List ResMove
  /-- Latency classes that the driver last gave the pages of a residency handle, by handle; R151 (06); reset: none. -/
  resLat : Tab (List (BitVec 2))
  -- shootdowns
  /-- SD_ADDR, 64 bits; R204 (08); reset: DESIGN CHOICE 0 [4]. -/
  sdAddr : W64
  /-- SD_CMD.CTX, GO, CODE, SCOPE; R204 (08); reset: 0. -/
  sdCtx : BitVec 16
  sdGo : Bool
  sdCode : Byte
  sdScope : BitVec 2
  /-- Shootdowns in progress, oldest first; R204 (08); reset: none. -/
  sds : List Shootdown
  -- Saltern
  /-- NS_ADDR, 64 bits; R213 (09); reset: DESIGN CHOICE 0 [4]. -/
  nsAddr : W64
  /-- NS_CMD.NSID, GO, CODE, OP; R213 (09); reset: 0. -/
  nsNsid : BitVec 32
  nsGo : Bool
  nsCode : Byte
  nsOp : BitVec 2
  /-- NSID and OP of the write that set GO, on which the command acts; R213 (09); reset: DESIGN CHOICE 0 [4]. -/
  nsRunNsid : BitVec 32
  nsRunOp : BitVec 2
  /-- Registered namespaces, at most 4,096; R213 (09); reset: none. -/
  nss : Tab Namespace
  /-- SALT_IDX0–3: LOG2NB and BASE; R228 (09); reset: 0. -/
  idxLog : Vector (BitVec 5) 4
  idxBase : Vector (BitVec 40) 4
  /-- The 16 pools; R232 (09); reset: 0. -/
  pools : Vector Pool 16
  /-- Node records that are or have been allocated, by handle bits [23:0]; R216, R217 (09); reset: every record FREE, GEN 0. -/
  nodes : Tab Node
  /-- What the hash index holds: 8 × bucket + entry, name, nsid, handle; its four copies in HBM hold the same as bytes; R228 (09); reset: none. -/
  index : List (Nat × BitVec 128 × BitVec 32 × BitVec 32)
  -- errors and checkpoints
  /-- ERR_LOST.OVF and LOST; R317 (12); reset: 0. -/
  errOvf : Bool
  errLost : BitVec 32
  /-- CKPT_CFG.CTX, INTERVAL, UNDOCAP, CODE, GO; R319 (12); reset: 0. -/
  ckCfg : CkCfg
  deriving DecidableEq, Repr

/-! ## Reset values -/

def VName.reset : VName := { st := .empty, val := 0, pois := 0, tag := none, lastRead := 0 }
def ZTile.reset : ZTile := { data := 0, pois := 0, tag := .a40, valid := false }
def Recipe.reset : Recipe := { words := [], rm := 0, ftz := false }
def StreamCsr.reset : StreamCsr :=
  { tvec := 0, tepc := 0, tin := false, skip := false, code := 0, trec := 0 }
def BrkSlot.reset : BrkSlot := { valid := false, stream := .a, word := 0, halt := false, disp := 0 }
def XUnits.reset : XUnits :=
  { div := 0, vdiv := 0, vred := 0, vperm := 0, valu := 0, ls1 := 0, ls2 := 0, acc := 0 }
def EngQ.reset : EngQ := { waiting := [], running := [], seq := 0, halted := false }
def Plane.reset : Plane :=
  { st := .empty, ty := .i8, k := 0, sparse := false, snap := 0, rows := [], scales := [], pois := [] }
def PlaneView.reset : PlaneView := { st := .empty, ty := .i8, sparse := false }

/-- A tile at package reset: it runs no context and no class holds it (R141). -/
def Tile.reset : Tile where
  ctx := none
  holder := none
  sclass := 0
  sreq := none
  srefused := 0
  sreqAt := 0
  launch := none
  cur := none
  switched := 0
  term := false
  ist := .none
  item := none
  stop := none
  capturing := none
  resume := none
  lastImg := none
  faults := []
  areg := Vector.replicate 32 0
  apois := 0
  xreg := Vector.replicate 32 0
  xpois := 0
  flags := 0
  fpend := 0
  apc := 0
  xpc := 0
  astep := false
  xstep := false
  v := Vector.replicate 64 VName.reset
  k := Vector.replicate 16 0
  z := Vector.replicate 8 ZTile.reset
  q := Vector.replicate 8 []
  qb := []
  tk := Vector.replicate 32 { pending := false, count := 0 }
  rcp := Vector.replicate 32 Recipe.reset
  ax := 0
  av := 0
  ak := 0
  fctl := 0
  fstat := 0
  leak := 0
  adty := false
  acsr := StreamCsr.reset
  xcsr := StreamCsr.reset
  cyc := 0
  pmc := Vector.replicate 8 0
  pmsel := Vector.replicate 8 0
  pmovf := 0
  pmwrap := []
  brk := Vector.replicate 8 BrkSlot.reset
  wgran := 0
  wroteClu := false
  sealb := 0
  xcyc := 0
  pend := []
  units := XUnits.reset
  ldClose := 0
  stClose := 0
  stCloseC := 0
  holdSt := 0
  holdLd := 0
  ecopy := EngQ.reset
  egath := EngQ.reset
  emat := EngQ.reset
  ecoll := EngQ.reset
  esalt := EngQ.reset
  loose := []
  alog := []
  active := Plane.reset
  shadow := Plane.reset
  viewA := PlaneView.reset
  viewS := PlaneView.reset
  l1 := []
  l1use := 0
  claims := []
  tlb := []
  past := []
  walks := []
  reqCred := 32
  rspCred := 32
  enqs := []
  ov := Vector.replicate 4 0
  relPend := []
  rdV := none
  inBar := false
  bars := 0
  dcReq := none
  alogOps := []
  xlogOps := []
  resA := none
  resX := none

/-- A queue at reset: LOG2N 6, IDLE (R67, R68). -/
def Queue.reset : Queue where
  base := 0
  en := false
  src := false
  loc := false
  log2n := 6
  prog := 0
  cring := 0
  tclass := 0
  head := 0
  tail := 0
  err := 0
  halted := false
  dbign := false
  ctx := 0
  inflight := []
  published := []
  fence := none
  waitge := none
  scratch := []

/-- A completion ring at reset: LOG2N 6, THRESH 1, HOLD 1 (R86). -/
def Ring.reset : Ring where
  base := 0
  en := false
  loc := false
  log2n := 6
  vec := 0
  thresh := 1
  hold := 1
  head := 0
  tail := 0
  cfgerr := false
  ctx := 0
  waiting := []
  behind := []
  pendingIrq := 0
  timer := none

def Interp.reset : Interp where
  packet := none
  prog := none
  ringN := 0
  buf := []
  running := false
  g := Vector.replicate 16 0
  pc := 0
  steps := 0
  loops := []
  ready := false
  conf := none

/-- Initial credits of the four virtual channels (R27). -/
def initCredits : Vector Nat 4 := #v[32, 32, 96, 96]

/-- A peer port that has not trained. DESIGN CHOICE (log entry 52): its ACKSEQ is 0 before the first good flit, a value that the manual
leaves open and that covers a sent flit of SEQ 0. -/
def Port.reset : Port where
  en := false
  up := false
  down := false
  rxSeq := 0
  txSeq := 0
  ackSeq := 0
  replay := []
  nreplay := 0
  cred := initCredits
  occ := Vector.replicate 4 0
  owed := Vector.replicate 4 0
  nextVc := 0
  rxbuf := []
  txq := []
  slot := 0
  holds := []

def Repl.reset : Repl where
  desc := 0
  count := 0
  go := false
  code := 0
  last := 0
  todo := []
  target := 0
  tier := 0
  inflight := none

def Pool.reset : Pool :=
  { base := 0, size := 0, high := 0, low := 0, used := [], moves := [], harvesting := false, picks := 0 }

def Die.reset : Die where
  ptr := 0
  def_ := Vector.replicate 64 0
  vclk := Vector.replicate 4 1
  rim := []
  chan := Vector.replicate 8 []
  rake := []
  wcache := []
  fw := false
  temp := 0

def Home.reset : Home := { closed := Vector.replicate 4 0, rv := Vector.replicate 4 0 }

def Tenant.reset : Tenant :=
  { en := false, active := true, maxtile := 0, resref := false, prio := 0, weight := 1 }

def Fn.reset : Fn where
  w2va := 0
  w2en := false
  w2ctx := 0
  unmasked := []
  msixTab := []
  pba := []
  tdi := .unlocked
  bar0 := 0
  bar2 := 0
  transcript := []
  handshake := false
  session := false
  ide := false

def Cxl.reset : Cxl := { trained := false, switched := false, width := 0, rate := 0, extents := [] }

/-- A node record that was never allocated: FREE with GEN 0 (R217). -/
def Node.reset : Node where
  name := 0
  parent := 0
  nsid := 0
  depth := 0
  owner := 0
  lease := 0
  touch := 0
  refcnt := 0
  gen := 0
  prio := 0
  st := .free
  ann := false
  groups := []
  tokens := []
  interval := 0
  sealer := 0
  sealIv := 0

/-- A context as firmware installs it: no references, no seals, no checkpoint. -/
def Ctx.fresh (d : ContextDesc) : Ctx where
  id := d.ctx
  key := d.key
  trootDie := d.trootDie
  trootNext := d.trootNext
  tnsBase := d.tnsBase
  tnsCount := d.tnsCount
  refs := []
  seals := []
  capSeq := 0
  ckInterval := 0
  ckUndo := 0
  ckNext := none
  ckLast := 0
  interval := 0
  ckImages := []
  ckCells := []
  ckPoison := []
  ckRanges := []
  ckLaunches := []
  ckFreed := []
  hasCk := false
  undo := []
  ivPackets := []
  rolling := false
  hold := false
  pendE := none

/-- Firmware context 0 at package reset (log entry 8). -/
def Ctx.firmware : Ctx :=
  Ctx.fresh { ctx := 0, key := 0, trootDie := 0, trootNext := 0, tnsBase := 0, tnsCount := 0 }

/-- The package right after package reset, before its boot ROM has judged an image (R93 is `packageReset`). -/
def State.reset : State where
  agenda := []
  focus := .stream 0 .a
  cur := .none
  fresh := 0
  nextId := 1
  out := []
  mem := []
  poison := []
  lineKey := []
  keys := [(0, 0)]
  gran := []
  homeDir := []
  tiles := []
  dies := Vector.replicate 4 Die.reset
  homes := Vector.replicate 8 Home.reset
  ctxs := [(0, Ctx.firmware)]
  images := []
  cy := 0
  devtime := 0
  tickcnt := 0
  tDomain := 0
  tDelay := false
  tEn := false
  tValid := false
  tLocked := false
  tHoldover := false
  tStepped := false
  tOffset := 0
  tSlew := 0
  tOwe := 0
  budget := 0x2300
  budgetLock := false
  held := none
  heldAt := 0
  hot := false
  hot110 := false
  railsOff := false
  warn := false
  corrected := Vector.replicate 8 (0, 0)
  tileCorrected := []
  scrubPass := Vector.replicate 8 0
  scrubPos := Vector.replicate 8 0
  scrubLine := Vector.replicate 8 0
  cxl := Vector.replicate 4 Cxl.reset
  fns := []
  qfunc := []
  queues := []
  rings := []
  progs := []
  progAddr := 0
  progSlot := 0
  progWord := 0
  progBusy := false
  hostFails := false
  progCode := 0
  interps := Vector.replicate 16 Interp.reset
  rotClass := 0
  rotGiven := 0
  rotQueue := []
  flashA := none
  flashB := none
  flashDcA := none
  flashDcB := none
  certChain := Config.certChain
  keyHash0 := 0
  keyHash1 := 0
  revoked0 := false
  floorIo := 0
  floorDc := 0
  bootCode := 0
  bootB := false
  recovery := false
  svnIo := 0
  mreg := Vector.replicate 16 0
  mextData := 0
  mextCode := 0
  mextGo := false
  mextIdx := 0
  debug := false
  chans := []
  pkgid := 0
  ports := Vector.replicate 16 Port.reset
  route := []
  homemap := []
  dirSets := 0
  dirBase := 0
  dirEn := false
  dirReqs := []
  dirTag := 0
  repl := Repl.reset
  collReady := []
  launches := []
  tenants := Vector.replicate 64 Tenant.reset
  gangTime := 0
  gangSet := 0
  gangDone := false
  gangArmed := false
  resBase := 0
  resHandle := 0
  resGo := false
  resCode := 0
  resOp := 0
  resRunHandle := 0
  resRunOp := 0
  resPool := Vector.replicate 4 0
  resCxl := 0
  resMoves := []
  resLat := []
  sdAddr := 0
  sdCtx := 0
  sdGo := false
  sdCode := 0
  sdScope := 0
  sds := []
  nsAddr := 0
  nsNsid := 0
  nsGo := false
  nsCode := 0
  nsOp := 0
  nsRunNsid := 0
  nsRunOp := 0
  nss := []
  idxLog := Vector.replicate 4 0
  idxBase := Vector.replicate 4 0
  pools := Vector.replicate 16 Pool.reset
  nodes := []
  index := []
  errOvf := false
  errLost := 0
  ckCfg := { ctx := 0, interval := 0, undo := 0, code := 0, go := false }

/-- Why a step stops the machine. No instruction of the manual ends in one. -/
inductive Fault where
  /-- Raised by every stream instruction and queue-program instruction when no stream or interpreter unit is issuing, which is no state of
  the machine: an instruction has an issuer. Safe: `step` always names one. -/
  | noIssuer
  deriving DecidableEq, Repr

/-- Why an instruction has no meaning. -/
inductive Refusal where
  /-- Raised by an arm of `exec` whose meaning has not been written. Safe: nothing can be proved of it. -/
  | notModelled (mnemonic : String)
  deriving DecidableEq, Repr

end Sys2Proof.Machine
end

