-- ==== Sys2Proof/Machine/Tab.lean ====
section
/-! DEFINITION. Sparse tables, byte storage and sorted sets: their reads and updates, and the canonical form. -/

namespace Sys2Proof.Machine

/-- The value stored at a key. -/
def Tab.get? {α : Type} : Tab α → Nat → Option α
  | [], _ => none
  | (k, v) :: r, n => if k = n then some v else Tab.get? r n

/-- The value stored at a key, or a default. -/
def Tab.get {α : Type} (d : α) (t : Tab α) (n : Nat) : α := (Tab.get? t n).getD d

/-- Store a value at a key, in key order. -/
def Tab.set {α : Type} : Tab α → Nat → α → Tab α
  | [], n, v => [(n, v)]
  | (k, u) :: r, n, v =>
    if n < k then (n, v) :: (k, u) :: r
    else if k = n then (n, v) :: r
    else (k, u) :: Tab.set r n v

/-- Remove a key. -/
def Tab.erase {α : Type} : Tab α → Nat → Tab α
  | [], _ => []
  | (k, u) :: r, n => if k = n then Tab.erase r n else (k, u) :: Tab.erase r n

/-- The keys rise strictly, from above `lo` when it is given. -/
def Tab.rising {α : Type} : Option Nat → Tab α → Bool
  | _, [] => true
  | lo, (k, _) :: r => (match lo with | none => true | some l => decide (l < k)) && Tab.rising (some k) r

/-- Strictly rising keys. -/
def Tab.wf {α : Type} (t : Tab α) : Bool := Tab.rising none t

/-- The byte at an address; an unlisted address reads as 0 (log entry 7). -/
def Mem.get (m : Mem) (a : Nat) : Byte := Tab.get (0 : Byte) m a

/-- Store a byte, keeping the canonical form: a 0 is not listed. -/
def Mem.put (m : Mem) (a : Nat) (b : Byte) : Mem := if b = 0 then Tab.erase m a else Tab.set m a b

/-- `n` bytes from an address upward. -/
def Mem.gets (m : Mem) (a n : Nat) : List Byte := (List.range n).map fun i => Mem.get m (a + i)

/-- Store bytes from an address upward. -/
def Mem.puts (m : Mem) (a : Nat) : List Byte → Mem
  | [] => m
  | b :: r => Mem.puts (Mem.put m a b) (a + 1) r

/-- Remove every byte of a range. -/
def Mem.clear (m : Mem) (a n : Nat) : Mem := m.filter fun c => decide (c.1 < a) || decide (a + n ≤ c.1)

/-- The cells of a range, at their own addresses. -/
def Mem.slice (m : Mem) (a n : Nat) : Mem := m.filter fun c => decide (a ≤ c.1) && decide (c.1 < a + n)

/-- Store cells, each moved up by an offset `dst − frm`. -/
def Mem.paste (m : Mem) (frm dst : Nat) (cells : Mem) : Mem :=
  cells.foldl (fun m c => Mem.put m (c.1 - frm + dst) c.2) m

/-- The canonical form of storage: strictly rising addresses, no listed 0. -/
def Mem.wf (m : Mem) : Bool := Tab.wf m && m.all fun c => c.2 != 0

/-- The little-endian number of some bytes (R3). -/
def leNat : List Byte → Nat
  | [] => 0
  | b :: r => b.toNat + 256 * leNat r

/-- The `n` little-endian bytes of a number (R3). -/
def leBytes : (n : Nat) → Nat → List Byte
  | 0, _ => []
  | n + 1, v => BitVec.ofNat 8 v :: leBytes n (v / 256)

/-- The big-endian number of some bytes. -/
def beNat (l : List Byte) : Nat := l.foldl (fun n b => 256 * n + b.toNat) 0

/-- The `n` big-endian bytes of a number. -/
def beBytes (n v : Nat) : List Byte := (leBytes n v).reverse

/-- Bits [hi : lo] of a number. -/
def bitsOf (v hi lo : Nat) : Nat := (v / 2 ^ lo) % 2 ^ (hi + 1 - lo)

/-- Bit `i` of a number. -/
def bitOf (v i : Nat) : Bool := v / 2 ^ i % 2 == 1

/-- A sorted set of numbers: insert. -/
def insNat : List Nat → Nat → List Nat
  | [], n => [n]
  | k :: r, n => if n < k then n :: k :: r else if k = n then k :: r else k :: insNat r n

/-- A sorted set of numbers: remove. -/
def delNat (l : List Nat) (n : Nat) : List Nat := l.filter fun k => k != n

/-- Element of a vector by a bit-vector index of the same reach. -/
def vget {α : Type} {n w : Nat} (v : Vector α n) (d : α) (i : BitVec w) : α := v.toList.getD i.toNat d

/-- Update of a vector by a bit-vector index. -/
def vset {α : Type} {n w : Nat} (v : Vector α n) (i : BitVec w) (x : α) : Vector α n := v.setIfInBounds i.toNat x

/-- Update the elements of a list that meet a condition. -/
def updIf {α : Type} (l : List α) (p : α → Bool) (f : α → α) : List α := l.map fun x => if p x then f x else x

/-- Remove the first element that meets a condition. -/
def delFirst {α : Type} (p : α → Bool) : List α → List α
  | [] => []
  | x :: r => if p x then r else x :: delFirst p r

/-- Set or clear one bit of a bit vector. -/
def setBit {w : Nat} (v : BitVec w) (i : Nat) (b : Bool) : BitVec w :=
  if b then v ||| BitVec.ofNat w (2 ^ i) else v &&& ~~~ BitVec.ofNat w (2 ^ i)

end Sys2Proof.Machine
end

