-- ==== Sys2Proof/Machine/Crypto.lean ====
section
/-! DEFINITION. The cryptography the manual names: SHA-256 (R92, R95, R215), RSASSA-PKCS1-v1_5 verification with 3,072
bits (R92), AES-256-XTS (R108) and AES-256-GCM (R102, R105). -/

namespace Sys2Proof.Machine

/-! ## SHA-256 -/

/-- The eight 32-bit words of a 256-bit number, from the top. -/
def words8 (b : BitVec 256) : List W32 := (List.range 8).map fun i => b.extractLsb' (224 - 32 * i) 32

/-- The initial chaining value, as the eight words' concatenation. -/
def shaStart : BitVec 256 := 0x6a09e667bb67ae853c6ef372a54ff53a510e527f9b05688c1f83d9ab5be0cd19

/-- The round constants, eight to a number. -/
def shaConsts : List (BitVec 256) :=
  [0x428a2f9871374491b5c0fbcfe9b5dba53956c25b59f111f1923f82a4ab1c5ed5,
   0xd807aa9812835b01243185be550c7dc372be5d7480deb1fe9bdc06a7c19bf174,
   0xe49b69c1efbe47860fc19dc6240ca1cc2de92c6f4a7484aa5cb0a9dc76f988da,
   0x983e5152a831c66db00327c8bf597fc7c6e00bf3d5a7914706ca635114292967,
   0x27b70a852e1b21384d2c6dfc53380d13650a7354766a0abb81c2c92e92722c85,
   0xa2bfe8a1a81a664bc24b8b70c76c51a3d192e819d6990624f40e3585106aa070,
   0x19a4c1161e376c082748774c34b0bcb5391c0cb34ed8aa4a5b9cca4f682e6ff3,
   0x748f82ee78a5636f84c878148cc7020890befffaa4506cebbef9a3f7c67178f2]

/-- The exclusive or of a word's rotations to the right. -/
def xorRot (rs : List Nat) (x : W32) : W32 := rs.foldl (fun t r => t ^^^ x.rotateRight r) 0

/-- The message schedule beyond the block's own sixteen words: `n` further words after a window of sixteen, oldest first. -/
def shaMore : (n : Nat) → List W32 → List W32
  | 0, _ => []
  | n + 1, win =>
    let w (i : Nat) : W32 := win.getD i 0
    let next := w 0 + w 9 + (xorRot [7, 18] (w 1) ^^^ (w 1 >>> 3)) + (xorRot [17, 19] (w 14) ^^^ (w 14 >>> 10))
    next :: shaMore n (win.drop 1 ++ [next])

/-- One round on the eight working words, given the sum of its constant and its schedule word. -/
def shaStep (st : List W32) (kw : W32) : List W32 :=
  let w (i : Nat) : W32 := st.getD i 0
  let pick := (w 4 &&& (w 5 ^^^ w 6)) ^^^ w 6
  let vote := (w 0 &&& (w 1 ||| w 2)) ||| (w 1 &&& w 2)
  let mixed := w 7 + kw + xorRot [6, 11, 25] (w 4) + pick
  [mixed + xorRot [2, 13, 22] (w 0) + vote] ++ (st.take 3) ++ [w 3 + mixed] ++ (st.drop 4).take 3

/-- Cut a list into pieces of `k`. -/
def pieces {α : Type} (k : Nat) : (fuel : Nat) → List α → List (List α)
  | 0, _ => []
  | n + 1, l => if l.isEmpty then [] else l.take k :: pieces k n (l.drop k)

/-- The chaining value after a 64-byte block. -/
def shaChain (h : List W32) (block : List Byte) : List W32 :=
  let m := (pieces 4 16 block).map fun q => BitVec.ofNat 32 (beNat q)
  let sums := List.zipWith (· + ·) (shaConsts.flatMap words8) (m ++ shaMore 48 m)
  List.zipWith (· + ·) h (sums.foldl shaStep h)

/-- SHA-256 of some bytes: 32 bytes. -/
def sha256 (m : List Byte) : List Byte :=
  let fill := (119 - m.length % 64) % 64
  let whole := m ++ [(0x80 : Byte)] ++ List.replicate fill 0 ++ beBytes 8 (8 * m.length)
  ((pieces 64 (whole.length / 64) whole).foldl shaChain (words8 shaStart)).flatMap fun x => beBytes 4 x.toNat

/-! ## RSA -/

/-- Modular power, by squaring, for `fuel` bits of the exponent. -/
def powMod (n : Nat) : (fuel : Nat) → (b e : Nat) → Nat
  | 0, _, _ => 1 % n
  | k + 1, b, e =>
    let r := powMod n k (b * b % n) (e / 2)
    if e % 2 = 1 then b * r % n else r

/-- The encoded message of RSASSA-PKCS1-v1_5 with SHA-256, 384 bytes (R92). -/
def pkcs1 (digest : List Byte) : List Byte :=
  let info : List Byte := [0x30, 0x31, 0x30, 0x0D, 0x06, 0x09, 0x60, 0x86, 0x48, 0x01, 0x65, 0x03, 0x04, 0x02, 0x01, 0x05, 0x00, 0x04, 0x20]
  let t := info ++ digest
  [0x00, 0x01] ++ List.replicate (384 - 3 - t.length) 0xFF ++ [0x00] ++ t

/-- A signature verifies under a modulus, with exponent 65,537. -/
def rsaVerify (modulus signature message : List Byte) : Bool :=
  let n := beNat modulus
  let s := beNat signature
  decide (1 < n) && decide (s < n) && beBytes 384 (powMod n 17 s 65537) == pkcs1 (sha256 message)

/-- The RSASSA-PKCS1-v1_5 signature, 384 bytes, with SHA-256 and a private exponent (R96, R97). -/
def rsaSign (modulus secret : BitVec 3072) (message : List Byte) : List Byte :=
  beBytes 384 (powMod modulus.toNat 3072 (beNat (pkcs1 (sha256 message))) secret.toNat)

/-! ## AES-256 -/

/-- Product in GF(2^8) whose field polynomial has the low byte `low`, over `fuel` bits of the second factor. -/
def gmul (low : Byte) : (fuel : Nat) → (a b : Byte) → Byte
  | 0, _, _ => 0
  | k + 1, a, b =>
    let r := gmul low k (if a.getLsbD 7 then (a <<< 1) ^^^ low else a <<< 1) (b >>> 1)
    if b.getLsbD 0 then a ^^^ r else r

/-- Product in the field of AES. -/
def gm (a b : Byte) : Byte := gmul 0x1B 8 a b

/-- Inverse in the field: the 254th power. -/
def ginv (a : Byte) : Byte :=
  let p2 := gm a a
  let p4 := gm p2 p2
  let p8 := gm p4 p4
  let p16 := gm p8 p8
  let p32 := gm p16 p16
  let p64 := gm p32 p32
  let p128 := gm p64 p64
  gm p2 (gm p4 (gm p8 (gm p16 (gm p32 (gm p64 p128)))))

def sbox (a : Byte) : Byte :=
  let x := ginv a
  x ^^^ x.rotateLeft 1 ^^^ x.rotateLeft 2 ^^^ x.rotateLeft 3 ^^^ x.rotateLeft 4 ^^^ 0x63

def xorL (a b : List Byte) : List Byte := (a.zip b).map fun x => x.1 ^^^ x.2

/-- The round-key words from a 32-byte key, newest first: `n` more from index `i`. -/
def aesKeys : (n i : Nat) → (rc : Byte) → List (List Byte) → List (List Byte)
  | 0, _, _, w => w
  | n + 1, i, rc, w =>
    let t := w.headD []
    let t := if i % 8 = 0 then xorL ((t.drop 1 ++ t.take 1).map sbox) [rc, 0, 0, 0]
      else if i % 8 = 4 then t.map sbox else t
    aesKeys n (i + 1) (if i % 8 = 0 then gm rc 2 else rc) (xorL (w.getD 7 []) t :: w)

/-- The fifteen round keys of 16 bytes. -/
def aesRoundKeys (key : List Byte) : List (List Byte) :=
  pieces 16 15 ((aesKeys 52 8 1 (pieces 4 8 key).reverse).reverse.flatten)

def shiftRows (s : List Byte) : List Byte := (List.range 16).map fun i => s.getD ((i + 4 * (i % 4)) % 16) 0

def mixCol (c : List Byte) : List Byte :=
  (List.range 4).map fun i =>
    let g (k : Nat) : Byte := c.getD ((i + k) % 4) 0
    gm 2 (g 0) ^^^ gm 3 (g 1) ^^^ g 2 ^^^ g 3

/-- AES-256 encryption of one block under its round keys. -/
def aesBlock (rk : List (List Byte)) (b : List Byte) : List Byte :=
  let s := xorL b (rk.headD [])
  let s := ((rk.drop 1).take 13).foldl (fun s k =>
    xorL ((pieces 4 4 (shiftRows (s.map sbox))).flatMap mixCol) k) s
  xorL (shiftRows (s.map sbox)) (rk.getD 14 [])

/-! ### The inverse cipher -/

/-- The inverse of `sbox`. -/
def unsbox (b : Byte) : Byte := ginv (b.rotateLeft 1 ^^^ b.rotateLeft 3 ^^^ b.rotateLeft 6 ^^^ 0x05)

def unshiftRows (s : List Byte) : List Byte := (List.range 16).map fun i => s.getD ((i + 12 * (i % 4)) % 16) 0

def unmixCol (c : List Byte) : List Byte :=
  (List.range 4).map fun i =>
    let g (k : Nat) : Byte := c.getD ((i + k) % 4) 0
    gm 14 (g 0) ^^^ gm 11 (g 1) ^^^ gm 13 (g 2) ^^^ gm 9 (g 3)

/-- AES-256 decryption of one block under its round keys. -/
def aesUnblock (rk : List (List Byte)) (b : List Byte) : List Byte :=
  let s := (unshiftRows (xorL b (rk.getD 14 []))).map unsbox
  let s := ((rk.drop 1).take 13).reverse.foldl (fun s k =>
    (unshiftRows ((pieces 4 4 (xorL s k)).flatMap unmixCol)).map unsbox) s
  xorL s (rk.headD [])

/-! ## XTS -/

/-- A tweak times the primitive element of IEEE 1619, as a little-endian number. -/
def xtsNext (t : BitVec 128) : BitVec 128 := if t.getLsbD 127 then (t <<< 1) ^^^ 0x87 else t <<< 1

/-- The blocks of a data unit under a block cipher, each whitened before and after by its tweak. -/
def xtsBlocks (cipher : List Byte → List Byte) : BitVec 128 → List (List Byte) → List Byte
  | _, [] => []
  | t, b :: bs =>
    let w := leBytes 16 t.toNat
    xorL (cipher (xorL b w)) w ++ xtsBlocks cipher (xtsNext t) bs

/-- The first tweak of a data unit: its number as 16 little-endian bytes, enciphered under the second key. -/
def xtsTweak (key : BitVec 512) (unit : Nat) : BitVec 128 :=
  BitVec.ofNat 128 (leNat (aesBlock (aesRoundKeys ((leBytes 64 key.toNat).drop 32)) (leBytes 16 unit)))

/-- AES-256-XTS of IEEE 1619 on a data unit of whole blocks (R108): the key's first 32 bytes are the data key, the last 32 the tweak
key. -/
def xtsEncrypt (key : BitVec 512) (unit : Nat) (plain : List Byte) : List Byte :=
  xtsBlocks (aesBlock (aesRoundKeys ((leBytes 64 key.toNat).take 32))) (xtsTweak key unit)
    (pieces 16 (plain.length / 16) plain)

def xtsDecrypt (key : BitVec 512) (unit : Nat) (cipher : List Byte) : List Byte :=
  xtsBlocks (aesUnblock (aesRoundKeys ((leBytes 64 key.toNat).take 32))) (xtsTweak key unit)
    (pieces 16 (cipher.length / 16) cipher)

/-! ## GCM -/

/-- Product in GF(2^128), bit 0 being the most significant: `x` bits from the top. -/
def ghMul : (fuel : Nat) → (x v z : BitVec 128) → BitVec 128
  | 0, _, _, z => z
  | k + 1, x, v, z =>
    let z := if x.getLsbD k then z ^^^ v else z
    let v := if v.getLsbD 0 then (v >>> 1) ^^^ 0xE1000000000000000000000000000000 else v >>> 1
    ghMul k x v z

def gblock (b : List Byte) : BitVec 128 := BitVec.ofNat 128 (beNat (b ++ List.replicate (16 - b.length) 0))

/-- GHASH of some bytes, padded to whole blocks, from a running value. -/
def ghash (h y : BitVec 128) (m : List Byte) : BitVec 128 :=
  (pieces 16 (m.length / 16 + 1) m).foldl (fun y b => ghMul 128 (y ^^^ gblock b) h 0) y

/-- Counter-mode key stream over data, from a counter block. -/
def gctr (rk : List (List Byte)) (iv : List Byte) : (fuel ctr : Nat) → List Byte → List Byte
  | 0, _, _ => []
  | k + 1, ctr, m =>
    if m.isEmpty then []
    else xorL (m.take 16) (aesBlock rk (iv ++ beBytes 4 ctr)) ++ gctr rk iv k (ctr + 1) (m.drop 16)

/-- AES-256-GCM with a 12-byte IV: the other text, and the tag over the associated data and the ciphertext. -/
def gcmTag (rk : List (List Byte)) (iv aad cipher : List Byte) : List Byte :=
  let h := gblock (aesBlock rk (List.replicate 16 0))
  let y := ghash h (ghash h 0 aad) cipher
  let y := ghMul 128 (y ^^^ BitVec.ofNat 128 (8 * aad.length * 2 ^ 64 + 8 * cipher.length)) h 0
  xorL (beBytes 16 y.toNat) (aesBlock rk (iv ++ beBytes 4 1))

def gcmEncrypt (key iv aad plain : List Byte) : List Byte × List Byte :=
  let rk := aesRoundKeys key
  let c := gctr rk iv (plain.length / 16 + 1) 2 plain
  (c, gcmTag rk iv aad c)

/-- Decryption: the plaintext, when the tag agrees. -/
def gcmDecrypt (key iv aad cipher tag : List Byte) : Option (List Byte) :=
  let rk := aesRoundKeys key
  if gcmTag rk iv aad cipher == tag then some (gctr rk iv (cipher.length / 16 + 1) 2 cipher) else none

/-! ## The Reed-Solomon code of HBM lines (R15) -/

/-- Product in GF(2^8) with the field polynomial x^8 + x^4 + x^3 + x^2 + 1. -/
def rsMul (a b : Byte) : Byte := gmul 0x1D 8 a b

/-- α^`k`, α being x. -/
def rsAlpha : Nat → Byte
  | 0 => 1
  | k + 1 => rsMul 2 (rsAlpha k)

/-- A polynomial, highest coefficient first, times x + `r`. -/
def rsTimes (p : List Byte) (r : Byte) : List Byte :=
  (p ++ [0]).zipWith (fun x y => x ^^^ rsMul r y) (0 :: p)

/-- The generator polynomial with roots α^0 to α^15, highest coefficient first. -/
def rsGen : List Byte := (List.range 16).foldl (fun p k => rsTimes p (rsAlpha k)) [1]

/-- The 16 check bytes of a line's bytes: the remainder of their polynomial times x^16 by the generator. -/
def rsCheck (data : List Byte) : List Byte :=
  data.foldl (fun r d =>
    let f := d ^^^ r.headD 0
    (r.drop 1 ++ [0]).zipWith (fun x g => x ^^^ rsMul f g) (rsGen.drop 1)) (List.replicate 16 0)

/-- The 80-symbol codeword of a line: its 64 bytes, then the check bytes. -/
def rsWord (line : List Byte) : BitVec 640 := BitVec.ofNat 640 (leNat (line ++ rsCheck line))

/-- The symbols of an error pattern that are in error. -/
def rsErrors (err : BitVec 640) : List Nat := (List.range 80).filter fun i => err.extractLsb' (8 * i) 8 != 0

/-- The pin groups that hold a symbol in error. DESIGN CHOICE (log entry 61): symbol i travels on pin group i mod 20, four symbols each. -/
def rsGroups (err : BitVec 640) : BitVec 20 :=
  (rsErrors err).foldl (fun g i => g ||| (1 : BitVec 20) <<< (i % 20)) 0

end Sys2Proof.Machine
end

