-- ==== Sys2Proof/Machine/Storage.lean ====
section
/-! DEFINITION. The storage of the package: where each level lies in the one byte table, reads and writes with
line poison, lines of device memory under their owner keys, and the undo log. -/

namespace Sys2Proof.Machine

/-! ## Places (R183, R193) -/

/-- First byte of a tile's scratchpad. -/
def spadBase (g : Nat) : Nat := 2 ^ 50 + g * 2 ^ 21
/-- First byte of a cluster's memory, by global cluster number. -/
def cluBase (c : Nat) : Nat := 2 ^ 51 + c * 2 ^ 23
/-- Byte of staging memory by SSA. -/
def stgBase : Nat := 2 ^ 52
/-- First byte of a stream's instruction memory. -/
def imemBase (g : Nat) (st : Stream) : Nat :=
  2 ^ 53 + (2 * g + match st with | .a => 0 | .x => 1) * 2 ^ 16
/-- First byte of host memory: IOVA 0 of the physical function. The IOVAs of function `f` follow those of function `f - 1` (R66). -/
def hostBase : Nat := 2 ^ 64
def hostOf (fn : BitVec 8) : Nat := hostBase + 2 ^ 64 * fn.toNat

/-- Cluster and die of a tile (R10). -/
def cluOf (g : BitVec 8) : Nat := g.toNat / 8
def dieOf (g : BitVec 8) : BitVec 2 := g.extractLsb' 6 2

/-- Whether a physical address lies in the map of R193: HBM of the four dies, or at most 4 TiB of a CXL port. -/
def paMapped (pa : Nat) : Bool := pa < 2 ^ 39 || (2 ^ 47 ≤ pa && pa < 2 ^ 47 + 2 ^ 46 && pa % 2 ^ 44 < 2 ^ 42)

/-- The home of a physical address: 0–3 HBM die, 4–7 CXL port (R193, R255). -/
def homeOf (pa : Nat) : BitVec 3 :=
  if pa < 2 ^ 39 then BitVec.ofNat 3 (pa / 2 ^ 37) else BitVec.ofNat 3 (4 + (pa - 2 ^ 47) / 2 ^ 44)

/-! ## Bytes and line poison -/

/-- A free value of width `w`, and the counter's advance. -/
def State.free (s : State) (w : Nat) : BitVec w × State :=
  (Config.freeBits w s.fresh, { s with fresh := s.fresh + 1 })

def State.rdByte (s : State) (a : Nat) : Byte := Mem.get s.mem a
def State.rdBytes (s : State) (a n : Nat) : List Byte := Mem.gets s.mem a n
def State.rdNat (s : State) (a n : Nat) : Nat := leNat (s.rdBytes a n)

/-- Whether some line of a byte range is poisoned. -/
def State.poisoned (s : State) (a n : Nat) : Bool :=
  s.poison.any fun l => decide (a / 64 ≤ l) && decide (64 * l < a + n)

/-- The lines that a byte range touches. -/
def linesOf (a n : Nat) : List Nat :=
  if n = 0 then [] else (List.range ((a + n - 1) / 64 + 1 - a / 64)).map fun i => a / 64 + i

/-- The poison of the lines after a store of `n` bytes at `a` (R314): a poisoned store poisons each line, a clean
store of a whole line cleans it, a partial clean store leaves it. -/
def markPoison (l : List Nat) (a n : Nat) (p : Bool) : List Nat :=
  (linesOf a n).foldl (fun l k =>
    if p then insNat l k
    else if a ≤ 64 * k && 64 * k + 64 ≤ a + n then delNat l k
    else l) l

/-- Store bytes at a level or in host memory, with their poison (R314). -/
def State.wrBytes (s : State) (a : Nat) (bs : List Byte) (p : Bool) : State :=
  { s with mem := Mem.puts s.mem a bs, poison := markPoison s.poison a bs.length p }

/-- Zero a range and clean its lines. -/
def State.zero (s : State) (a n : Nat) : State :=
  { s with mem := Mem.clear s.mem a n,
           poison := s.poison.filter fun l => decide (64 * l < a) || decide (a + n ≤ 64 * l) }

/-! ## Lines of device memory -/

/-- The 64 bytes of a line as one number. -/
def lineVal (bs : List Byte) : BitVec 512 := BitVec.ofNat 512 (leNat bs)
def lineBytes (v : BitVec 512) : List Byte := leBytes 64 v.toNat

/-- Bytes `i` of a line whose mask bit is set. -/
def byteMask (off n : Nat) : BitVec 64 := BitVec.ofNat 64 ((2 ^ n - 1) * 2 ^ off)

/-- The 512-bit mask of a byte mask. -/
def spread (m : BitVec 64) : BitVec 512 :=
  BitVec.ofNat 512 ((List.range 64).foldl (fun v i => if m.getLsbD i then v + 255 * 2 ^ (8 * i) else v) 0)

/-- The new bytes where the mask is set, the old bytes elsewhere. -/
def mergeLine (m : BitVec 64) (new old : BitVec 512) : BitVec 512 :=
  (new &&& spread m) ||| (old &&& ~~~ spread m)

/-- The identity of the key a slot holds, if it holds one (R108, R109). -/
def State.keyId (s : State) (key : BitVec 12) : Option Nat := Tab.get? s.keys key.toNat

/-- The ciphertext of a line (R108): AES-256-XTS under the key of a draw; the tweak is the line's device physical address. -/
def cipherText (draw line : Nat) (plain : BitVec 512) : BitVec 512 :=
  lineVal (xtsEncrypt (Config.keyValue draw) (64 * line) (lineBytes plain))

/-- A line that was written under the key of one draw and is read under that of another (R110): what its ciphertext decrypts to. -/
def underKey (wrote reads line : Nat) (plain : BitVec 512) : BitVec 512 :=
  lineVal (xtsDecrypt (Config.keyValue reads) (64 * line) (lineBytes (cipherText wrote line plain)))

/-- The home of a line answers: an untrained CXL port does not, and an access there completes with an error (R19, R20, log entry 62). -/
def State.answers (s : State) (line : Nat) : Bool :=
  let h := homeOf (64 * line)
  decide (h.toNat < 4) || (vget s.cxl Cxl.reset (BitVec.ofNat 2 h.toNat)).trained

/-- A line of device memory as its home reads it under a key (R108, R110): data and poison, which an error is delivered as (R20). The storage table holds the plaintext, which
is what the key of the line's last write makes of the stored ciphertext. -/
def State.rdLine (s : State) (key : BitVec 12) (line : Nat) : BitVec 512 × Bool :=
  let v := lineVal (s.rdBytes (64 * line) 64)
  let p := s.poison.contains line || !s.answers line
  match Tab.get? s.lineKey line, s.keyId key with
  | some w, some r => if w = r then (v, p) else (underKey w r line v, p)
  | some w, none => (Config.emptySlot w line (cipherText w line v), p)
  | none, _ => (v, p)

/-- The undo log's entry for a line before its first write in the context's interval (R320). -/
def Ctx.noteUndo (c : Ctx) (u : UndoLine) : Ctx :=
  if c.hasCk && !c.undo.any (fun e => e.line == u.line) then { c with undo := u :: c.undo } else c

/-- Record a line in the undo log of the context that writes it (R320). -/
def State.noteUndo (s : State) (ctx : BitVec 16) (line : Nat) : State :=
  match Tab.get? s.ctxs ctx.toNat with
  | none => s
  | some c =>
    let u : UndoLine := { line := line, cells := s.rdBytes (64 * line) 64, pois := s.poison.contains line,
                          key := Tab.get? s.lineKey line }
    { s with ctxs := Tab.set s.ctxs ctx.toNat (c.noteUndo u) }

/-- Write bytes of a line of device memory at its home under a key, for a context (R108, R314, R320); at a home that does not answer they are lost. -/
def State.wrLine (s : State) (ctx : BitVec 16) (key : BitVec 12) (line : Nat) (m : BitVec 64) (v : BitVec 512)
    (p : Bool) : State :=
  if m = 0 || !s.answers line then s
  else
    let s := s.noteUndo ctx line
    let new := mergeLine m v (s.rdLine key line).1
    let pois := if p then insNat s.poison line else if m = BitVec.allOnes 64 then delNat s.poison line else s.poison
    { s with
      mem := Mem.puts s.mem (64 * line) (lineBytes new)
      poison := pois
      lineKey := match s.keyId key with
        | some k => Tab.set s.lineKey line k
        | none => s.lineKey }

/-- Bytes of device memory at their home under a key, over one or more lines, and whether a line is poisoned. -/
def State.rdDev (s : State) (key : BitVec 12) (pa n : Nat) : List Byte × Bool :=
  let ls := linesOf pa n
  let all := ls.flatMap fun l => lineBytes (s.rdLine key l).1
  ((all.drop (pa % 64)).take n, ls.any fun l => (s.rdLine key l).2)

/-- Write bytes of device memory at their home under a key, line by line. -/
def State.wrDev (s : State) (ctx : BitVec 16) (key : BitVec 12) (pa : Nat) (bs : List Byte) (p : Bool) : State :=
  (linesOf pa bs.length).foldl (fun s l =>
    let lo := Nat.max pa (64 * l)
    let hi := Nat.min (pa + bs.length) (64 * l + 64)
    let part := (bs.drop (lo - pa)).take (hi - lo)
    let v := BitVec.ofNat 512 (leNat part * 2 ^ (8 * (lo - 64 * l)))
    s.wrLine ctx key l (byteMask (lo - 64 * l) (hi - lo)) v p) s

end Sys2Proof.Machine
end

