-- ==== Sys2Proof/Machine/Images.lean ====
section
/-! DEFINITION. Capture images as bytes (R299, R300, R302): the header, the sections in their order, and AES-256-GCM over them. -/

namespace Sys2Proof.Machine

/-! ## Sizes (R299, R302) -/

/-- The written scratchpad granules of an image, ascending. -/
def Image.written (i : Image) : List Nat := (List.range 512).filter fun k => i.tile.wgran.getLsbD k

/-- The LIVE names of an image, ascending. -/
def Image.slots (i : Image) : List VName := i.tile.v.toList.filter fun n => n.st == .live

/-- Bytes of an image before its log, and of the image (R299). -/
def Image.preBytes (i : Image) : Nat := 348672 + 272 * i.slots.length + 4104 * i.written.length
def Image.ownBytes (i : Image) : Nat := i.preBytes + 80 * i.tile.alog.length
/-- Bytes of a cluster section (R302). -/
def Image.cluBytes (i : Image) : Nat :=
  match i.clus with
  | some l => 512 + 4112 * l.length
  | none => 0
def Image.bytes (i : Image) : Nat := i.ownBytes + i.cluBytes

/-! ## Headers (R299, R302) -/

/-- A header with its kind, SEQ, counts, maps and tag. -/
def Image.headerOf (i : Image) (kind : BitVec 8) (seq : W64) (ngran nslot nlog : Nat) (granmap sealmap : BitVec 512) (tag : BitVec 128) :
    BitVec 4096 :=
  let four (v : Vector W64 4) : BitVec 256 := v[3] ++ v[2] ++ v[1] ++ v[0]
  (0x454B4143 : BitVec 32) ++ (1 : BitVec 16) ++ kind ++ i.tilerev ++ i.scanmap ++ i.ctx ++ i.key ++ (0 : BitVec 12) ++ tag
    ++ seq ++ i.devtime ++ i.tile.cyc ++ BitVec.ofNat 16 ngran ++ BitVec.ofNat 8 nslot ++ BitVec.ofNat 10 nlog ++ i.srctile
    ++ BitVec.ofBool i.clu ++ BitVec.ofBool i.dropped ++ BitVec.ofBool i.frozen ++ (0 : BitVec 3) ++ i.gen
    ++ four i.vclk ++ four i.tile.ov ++ granmap ++ sealmap ++ (0 : BitVec 1792)

/-- The header of a tile's image. -/
def Image.header (i : Image) (tag : BitVec 128) : BitVec 4096 :=
  i.headerOf i.kind i.seq i.written.length i.slots.length i.tile.alog.length i.tile.wgran i.tile.sealb tag

/-- The header of its cluster section, the next image of the context (R302). -/
def Image.cluHeader (i : Image) (ngran : Nat) (tag : BitVec 128) : BitVec 4096 :=
  i.headerOf 2 (i.seq + 1) ngran 0 0 0 0 tag

/-! ## Sections (R299, R302) -/

/-- Bytes of an image whose place within their section no rule gives: free. -/
def Image.fill (i : Image) (part n : Nat) : List Byte := (List.range n).map fun o => Config.imageFill i.handle part o

/-- Poison of the 64 lines of a granule at line `l`, a bit a line. -/
def granPois (poison : List Nat) (l : Nat) : List Byte :=
  leBytes 8 ((poison.filter fun k => decide (l ≤ k) && decide (k < l + 64)).foldl (fun n k => n ||| 2 ^ (k - l)) 0)

/-- The sections of a tile's image, in their order. -/
def Image.sections (i : Image) : List Byte :=
  let t := i.tile
  let sp (k : Nat) : Nat := spadBase i.srctile.toNat + 4096 * k
  i.fill 0 16384
    ++ ((List.range 8).flatMap fun z =>
      let x := t.z.toList.getD z ZTile.reset
      leBytes 8192 x.data.toNat ++ leBytes 128 x.pois.toNat ++ i.fill (1 + z) 128)
    ++ ((List.range 8).flatMap fun q => (List.range 16).flatMap fun k =>
      (match (t.q.toList.getD q [])[k]? with
        | some e => leBytes 256 e.data.toNat ++ leBytes 8 e.pois.toNat
        | none => i.fill (1024 + 16 * q + k) 264) ++ i.fill (2048 + 16 * q + k) 8)
    ++ Mem.gets i.cells (imemBase i.srctile.toNat .a) 65536 ++ Mem.gets i.cells (imemBase i.srctile.toNat .x) 65536
    ++ ((List.range 1024).flatMap fun k =>
      (match t.l1[k]? with
        | some l => leBytes 64 l.data.toNat
        | none => i.fill (4096 + k) 64) ++ i.fill (8192 + k) 32)
    ++ (i.slots.mapIdx fun k n => leBytes 256 n.val.toNat ++ leBytes 8 n.pois.toNat ++ i.fill (16384 + k) 8).flatten
    ++ (i.written.flatMap fun k => granPois i.poison (sp k / 64))
    ++ (i.written.flatMap fun k => Mem.gets i.cells (sp k) 4096)
    ++ (t.alog.mapIdx fun k _ => i.fill (32768 + k) 80).flatten

/-- The entries of a cluster section: CMA, line poison, data. -/
def Image.cluEntries (i : Image) : List Byte :=
  (i.clus.getD []).flatMap fun e =>
    let a := cluBase (i.srctile.toNat / 8) + e.1
    leBytes 8 e.1 ++ granPois e.2.2 (a / 64) ++ Mem.gets e.2.1 a 4096

/-! ## Encryption (R300) -/

/-- A header as bytes, and an image's IV: 16 zero bits, CONTEXT, SEQ, most significant byte first. -/
def headerBytes (h : BitVec 4096) : List Byte := leBytes 512 h.toNat
def imageIv (h : BitVec 4096) : List Byte := beBytes 2 0 ++ beBytes 2 (h.extractLsb' 3736 16).toNat ++ beBytes 8 (h.extractLsb' 3520 64).toNat

/-- A section under AES-256-GCM with its header, whose TAG the header's bytes with TAG 0 and the ciphertext give. -/
def Image.wrap (i : Image) (header : BitVec 128 → BitVec 4096) (body : List Byte) : List Byte :=
  let h := header 0
  let r := gcmEncrypt (leBytes 32 (Config.imageKey i.keyId).toNat) (imageIv h) (headerBytes h) body
  headerBytes (header (BitVec.ofNat 128 (leNat r.2))) ++ r.1

/-- The bytes of an image as they are stored, its cluster section after it. -/
def Image.stored (i : Image) : List Byte :=
  i.wrap i.header i.sections ++ (match i.clus with
    | some l => i.wrap (i.cluHeader l.length) i.cluEntries
    | none => [])

/-- The tag of an image that stands as some bytes agrees (R300). -/
def tagAgrees (draw : Nat) (b : List Byte) : Bool :=
  let h := BitVec.ofNat 4096 (leNat (b.take 512))
  let aad : BitVec 4096 := h &&& ~~~ ((2 ^ 128 - 1 : BitVec 4096) <<< 3584)
  gcmTag (aesRoundKeys (leBytes 32 (Config.imageKey draw).toNat)) (imageIv h) (headerBytes aad) (b.drop 512)
    == leBytes 16 (h.extractLsb' 3584 128).toNat

end Sys2Proof.Machine
end

