-- ==== Sys2Proof/Machine/Records.lean ====
section
/-! DEFINITION. Records that the package writes: error records and the error ring (R316 to R318), completion
records and queue halts (R86 to R91), and access to queues, rings, functions and contexts. -/

namespace Sys2Proof.Machine

/-! ## Access to the tables of the state -/

def State.tile (s : State) (g : BitVec 8) : Tile := Tab.get Tile.reset s.tiles g.toNat
def State.setTile (s : State) (g : BitVec 8) (t : Tile) : State := { s with tiles := Tab.set s.tiles g.toNat t }
def State.modTile (s : State) (g : BitVec 8) (f : Tile → Tile) : State := s.setTile g (f (s.tile g))

def State.queue (s : State) (q : BitVec 10) : Queue := Tab.get Queue.reset s.queues q.toNat
def State.setQueue (s : State) (q : BitVec 10) (x : Queue) : State := { s with queues := Tab.set s.queues q.toNat x }
def State.modQueue (s : State) (q : BitVec 10) (f : Queue → Queue) : State := s.setQueue q (f (s.queue q))

def State.ring (s : State) (c : Nat) : Ring := Tab.get Ring.reset s.rings c
def State.setRing (s : State) (c : Nat) (x : Ring) : State := { s with rings := Tab.set s.rings c x }
def State.modRing (s : State) (c : Nat) (f : Ring → Ring) : State := s.setRing c (f (s.ring c))

def State.fn (s : State) (f : BitVec 8) : Fn := Tab.get Fn.reset s.fns f.toNat
def State.setFn (s : State) (f : BitVec 8) (x : Fn) : State := { s with fns := Tab.set s.fns f.toNat x }

def State.die (s : State) (d : BitVec 2) : Die := vget s.dies Die.reset d
def State.setDie (s : State) (d : BitVec 2) (x : Die) : State := { s with dies := vset s.dies d x }
def State.home (s : State) (h : BitVec 3) : Home := vget s.homes Home.reset h
def State.setHome (s : State) (h : BitVec 3) (x : Home) : State := { s with homes := vset s.homes h x }

def State.ctx? (s : State) (c : BitVec 16) : Option Ctx := Tab.get? s.ctxs c.toNat
def State.setCtx (s : State) (x : Ctx) : State := { s with ctxs := Tab.set s.ctxs x.id.toNat x }
def State.modCtx (s : State) (c : BitVec 16) (f : Ctx → Ctx) : State :=
  match s.ctx? c with
  | some x => { s with ctxs := Tab.set s.ctxs c.toNat (f x) }
  | none => s

def State.launch? (s : State) (l : Nat) : Option Launch := Tab.get? s.launches l
def State.setLaunch (s : State) (l : Launch) : State := { s with launches := Tab.set s.launches l.id l }

/-- Put something out at the package's boundary. -/
def State.emit (s : State) (o : Output) : State := { s with out := o :: s.out }

/-- Number of the error ring among the rings (R316). -/
def errRing : Nat := 1024

/-! ## Error records (R316 to R318) -/

/-- The fields of an error record before it is written (R318). -/
structure ErrRec where
  addr : W64 := 0
  info : W64 := 0
  count : BitVec 32 := 1
  ctx : BitVec 16 := 0
  srcId : BitVec 16 := 0
  srcKind : BitVec 4 := 0
  sev : BitVec 2 := 0
  aKind : BitVec 2 := 0
  cause : Option Cause := none
  rb : Bool := false
  ended : Bool := false
  apc : Pc := 0
  xpc : Pc := 0
  engSeq : BitVec 32 := 0
  engine : BitVec 3 := 0

/-- The 512 bits of an error record with PHASE 0; PHASE is set where it is written (R318). -/
def ErrRec.bits (e : ErrRec) (time : W64) : BitVec 512 :=
  time ++ e.addr ++ e.info ++ e.count ++ e.ctx ++ e.srcId ++ e.srcKind ++ e.sev ++ e.aKind
    ++ e.cause.getD 0 ++ BitVec.ofBool e.cause.isSome ++ BitVec.ofBool e.rb ++ BitVec.ofBool e.ended
    ++ e.apc ++ e.xpc ++ e.engSeq ++ e.engine ++ (0 : BitVec 175)

/-- Whether two error records merge: equal SRCKIND, SRCID, SEV, CV and CAUSE (R317). -/
def errMerges (a b : BitVec 512) : Bool :=
  a.extractLsb' 256 16 == b.extractLsb' 256 16 && a.extractLsb' 250 6 == b.extractLsb' 250 6
    && a.extractLsb' 240 8 == b.extractLsb' 240 8

/-- A record with another's COUNT added to its own (R317). -/
def errAddCount (a b : BitVec 512) : BitVec 512 :=
  let n : BitVec 32 := a.extractLsb' 288 32 + b.extractLsb' 288 32
  (a &&& ~~~ (BitVec.ofNat 512 (0xFFFFFFFF * 2 ^ 288))) ||| BitVec.ofNat 512 (n.toNat * 2 ^ 288)

/-- Add `n` to ERR_LOST.LOST, which saturates, and set OVF (R317). -/
def State.loseErr (s : State) : State :=
  { s with errOvf := true, errLost := if s.errLost = BitVec.allOnes 32 then s.errLost else s.errLost + 1 }

/-- Raise an error record (R316, R317): it waits in the error ring's block; while 64 records wait, it merges into a
waiting record of its own kind or is dropped and counted. -/
def State.raiseErr (s : State) (e : ErrRec) : State :=
  let b := e.bits s.devtime
  let r := s.ring errRing
  if r.waiting.length < 64 then
    s.setRing errRing { r with waiting := r.waiting ++ [{ bits := b, irq := true, urgent := e.sev == 3 || e.ended || e.rb }] }
  else if r.waiting.any (fun w => errMerges w.bits b) then
    let i := r.waiting.findIdx (fun w => errMerges w.bits b)
    s.setRing errRing { r with waiting := r.waiting.modify i fun w => { w with bits := errAddCount w.bits b } }
  else s.loseErr

/-! ## Packets and completion records (R71, R87, R88) -/

/-- Word 0 of a packet: its header (R71). -/
def Packet.header (p : Packet) : W64 := p.words.headD 0
def hdrType (h : W64) : Byte := h.extractLsb' 0 8
def hdrLen (h : W64) : Nat := (h.extractLsb' 8 8).toNat
def hdrIrq (h : W64) : Bool := h.getLsbD 33
def hdrCmpl (h : W64) : Bool := h.getLsbD 34
def hdrBarrier (h : W64) : Bool := h.getLsbD 35
def hdrTag (h : W64) : BitVec 16 := h.extractLsb' 48 16

/-- The 256 bits of a completion record with PHASE 0, in the low half of a pending record (R87). -/
def complBits (time result : W64) (headCnt : BitVec 32) (tag : BitVec 16) (status type : Byte) (q : BitVec 10) :
    BitVec 512 :=
  (time ++ result ++ headCnt ++ (0 : BitVec 32) ++ tag ++ status ++ type ++ q ++ (0 : BitVec 22)).setWidth 512

/-- Queue a completion record on a queue's ring (R89): the I/O die holds 64; one more stays behind, where its packet ended. -/
def State.pushCompl (s : State) (q : BitVec 10) (bits : BitVec 512) (irq urgent : Bool) : State :=
  let w : PendRec := { bits := bits, irq := irq, urgent := urgent }
  s.modRing (s.queue q).cring.toNat fun r =>
    if r.waiting.length < 64 then { r with waiting := r.waiting ++ [w] } else { r with behind := r.behind ++ [w] }

/-- A packet completes (R87 to R89): it leaves the queue's packets in flight, and with CMPL set it writes a record;
a packet that wrote device memory is remembered for R321 step 6. -/
def State.complete (s : State) (p : Packet) (status : Byte) (result : W64) (wroteDev : Bool := false) : State :=
  let h := p.header
  let q := s.queue p.queue
  let s := s.setQueue p.queue { q with inflight := q.inflight.filter (· != p.id) }
  let s := if wroteDev then
      s.modCtx q.ctx fun c => { c with ivPackets := c.ivPackets ++ [(p, hdrType h)] }
    else s
  if hdrCmpl h then
    s.pushCompl p.queue
      (complBits s.devtime result (p.count + BitVec.ofNat 32 p.len) (hdrTag h) status (hdrType h) p.queue)
      (hdrIrq h) false
  else s

/-- A queue halts (R91): HALTED and ERR are set, the halt record is written, and an error record with the queue as
its source. `pois` tells that poison was consumed (R314). -/
def State.haltQueue (s : State) (q : BitVec 10) (status : Byte) (count : BitVec 32) (hdr : Option W64)
    (pois : Bool) : State :=
  let s := s.modQueue q fun x => { x with halted := true, err := status }
  let tag := (hdr.map hdrTag).getD 0
  let type := (hdr.map hdrType).getD 0
  let s := s.pushCompl q (complBits s.devtime 0 count tag status type q) false true
  s.raiseErr { info := status.setWidth 64, ctx := (s.queue q).ctx, srcId := q.setWidth 16, srcKind := 4,
               sev := if pois then 2 else 3 }

/-- A message of a ring's vector (R90): held in the pending-bit array while the vector is masked. -/
def State.sendMsix (s : State) (fn : BitVec 8) (vec : BitVec 11) : State :=
  let f := s.fn fn
  if f.unmasked.contains vec.toNat then s.emit (.msix fn vec)
  else s.setFn fn { f with pba := insNat f.pba vec.toNat }

/-- The function that owns a ring (R66, R316). -/
def State.ringFn (s : State) (c : Nat) : BitVec 8 := if c = errRing then 0 else Tab.get 0 s.qfunc c

/-- The ring's interrupt is sent and its pending count returns to 0 (R90). -/
def State.ringInterrupt (s : State) (c : Nat) : State :=
  let s := s.sendMsix (s.ringFn c) (s.ring c).vec
  s.modRing c fun r => { r with pendingIrq := 0, timer := none }

end Sys2Proof.Machine
end

