-- ==== Sys2Proof/Machine/Nodes.lean ====
section
/-! DEFINITION. Node records (R216 to R218) with their bytes in the record quarters, the pools' registers (R232, R234, R235), the hash index
and its four copies (R228), and the counts on a node (R220). -/

namespace Sys2Proof.Machine

/-! ## Handles (R216) -/

def hKey (h : BitVec 32) : Nat := (h.extractLsb' 0 24).toNat
def hGen (h : BitVec 32) : BitVec 8 := h.extractLsb' 24 8
def hDie (h : BitVec 32) : BitVec 2 := h.extractLsb' 22 2
def hIndex (h : BitVec 32) : Nat := (h.extractLsb' 0 22).toNat

/-! ## Pools (R232, R234, R235) -/

/-- Units of a pool that are free; index 0 of a record quarter is never allocated (R216). -/
def poolFree (j : BitVec 4) (p : Pool) : Nat :=
  p.size.toNat - (p.used.foldl (fun n e => n + e.2) 0) - (if j.toNat ≥ 12 then 1 else 0)

/-- Whether harvest runs on a pool: from FREE below LOW until FREE reaches HIGH (R234). -/
def poolRuns (j : BitVec 4) (p : Pool) : Bool :=
  if poolFree j p < p.low.toNat then true else if p.high.toNat ≤ poolFree j p then false else p.harvesting

/-- A pool as its FREE has changed: harvest starts with its first selection, or ends (R234, R235). -/
def Pool.settle (j : BitVec 4) (p : Pool) : Pool :=
  let run := poolRuns j p
  { p with harvesting := run, picks := if !run then 0 else if p.harvesting then p.picks else 1 }

def State.pool (s : State) (j : BitVec 4) : Pool := vget s.pools Pool.reset j
def State.setPool (s : State) (j : BitVec 4) (p : Pool) : State := { s with pools := vset s.pools j (p.settle j) }
def State.modPool (s : State) (j : BitVec 4) (f : Pool → Pool) : State := s.setPool j (f (s.pool j))

/-- Record pool of a handle's die. -/
def recPool (d : BitVec 2) : BitVec 4 := 12 + d.setWidth 4

/-! ## Records as bytes (R216 to R218) -/

/-- STATE of a record. -/
def NodeSt.bits : NodeSt → BitVec 2
  | .free => 0
  | .open_ => 1
  | .sealed => 2
  | .harvesting => 3

/-- The 128 bits of a layer group (R218). -/
def Group.bits (g : Group) : BitVec 128 :=
  g.pkg ++ g.tier ++ (0 : BitVec 2) ++ BitVec.ofNat 16 g.layer0 ++ BitVec.ofNat 16 g.nlay ++ (0 : BitVec 16) ++ BitVec.ofNat 64 g.addr

/-- The 512 bits of a record above its groups (R217). -/
def Node.headBits (n : Node) : BitVec 512 :=
  n.name ++ n.parent ++ n.nsid ++ n.depth ++ n.owner ++ n.lease ++ n.touch ++ BitVec.ofNat 24 n.refcnt ++ n.gen ++ n.prio ++ n.st.bits
    ++ BitVec.ofNat 4 n.groups.length ++ BitVec.ofBool n.ann ++ (0 : BitVec 150)

/-- The 256 bytes of a record (R217): its twelve groups, those at or beyond NGRP zero, then its head. -/
def Node.bytes (n : Node) : List Byte :=
  ((List.range 12).flatMap fun i => leBytes 16 (((n.groups[i]?).map Group.bits).getD 0).toNat) ++ leBytes 64 n.headBits.toNat

/-- The 256 bytes of a token block (R216): zero while the node is OPEN. -/
def Node.tokenBytes (n : Node) : List Byte := (List.range 64).flatMap fun i => leBytes 4 (n.tokens.getD i 0).toNat

/-- Addresses of a record and of its token block in their quarter (R216). -/
def State.recAddr (s : State) (h : BitVec 32) : Nat := (s.pool (recPool (hDie h))).base.toNat + 256 * hIndex h
def State.tokAddr (s : State) (h : BitVec 32) : Nat :=
  let p := s.pool (recPool (hDie h))
  p.base.toNat + 256 * p.size.toNat + 256 * hIndex h

def State.node (s : State) (h : BitVec 32) : Node := Tab.get Node.reset s.nodes (hKey h)

/-- A Saltern unit writes a record, and its token block where that changes (R216, R217), under firmware's key. -/
def State.setNode (s : State) (h : BitVec 32) (n : Node) : State :=
  let old := s.node h
  let s := { s with nodes := Tab.set s.nodes (hKey h) n }
  let s := s.wrDev 0 0 (s.recAddr h) n.bytes false
  if n.tokens = old.tokens then s else s.wrDev 0 0 (s.tokAddr h) n.tokenBytes false

def State.modNode (s : State) (h : BitVec 32) (f : Node → Node) : State := s.setNode h (f (s.node h))

/-- A line of the record, or of the token block, is poisoned (cause 0x6A, R242). -/
def State.recBad (s : State) (h : BitVec 32) : Bool := s.poisoned (s.recAddr h) 256
def State.tokBad (s : State) (h : BitVec 32) : Bool := s.poisoned (s.tokAddr h) 256

/-- The index is at or beyond the quarter's SIZE (R216). -/
def State.hRange (s : State) (h : BitVec 32) : Bool := !decide (hIndex h < (s.pool (recPool (hDie h))).size.toNat)

/-- The GEN differs or the record is FREE (R216). -/
def State.hStale (s : State) (h : BitVec 32) : Bool :=
  let n := s.node h
  n.gen != hGen h || n.st == .free

/-! ## The hash index (R228) -/

/-- The index is configured: one LOG2NB in 10–26 in all four registers, and each BASE aligned (R228). -/
def State.indexReady (s : State) : Bool :=
  let l := (vget s.idxLog 0 (0 : BitVec 2)).toNat
  decide (10 ≤ l) && decide (l ≤ 26) && s.idxLog.toList.all (fun x => x.toNat == l)
    && s.idxBase.toList.all (fun b => (256 * b.toNat) % (256 * 2 ^ l) == 0)

def State.bucketOf (s : State) (name : BitVec 128) : Nat :=
  (name.extractLsb' 32 32).toNat % 2 ^ (vget s.idxLog 0 (0 : BitVec 2)).toNat

/-- The bucket of a name as a die's copy holds it is poisoned (cause 0x6A, R242). -/
def State.bucketBad (s : State) (d : BitVec 2) (name : BitVec 128) : Bool :=
  s.poisoned (256 * ((vget s.idxBase 0 d).toNat + s.bucketOf name)) 256

/-- The handle indexed under a name in a namespace (R228). -/
def State.probe (s : State) (nsid : BitVec 32) (name : BitVec 128) : Option (BitVec 32) :=
  (s.index.find? fun e => e.2.1 == name && e.2.2.1 == nsid).map (·.2.2.2)

/-- Entries of a name's bucket that are in use. -/
def State.bucketUsed (s : State) (name : BitVec 128) : List Nat :=
  let b := s.bucketOf name
  (s.index.filter fun e => e.1 / 8 == b).map fun e => e.1 % 8

def State.bucketFull (s : State) (name : BitVec 128) : Bool := 8 ≤ (s.bucketUsed name).length

/-- The 256 bits of an entry (R228). -/
def entryBits (name : BitVec 128) (nsid h : BitVec 32) : BitVec 256 := name ++ nsid ++ h ++ (0 : BitVec 64)

/-- An entry is written in all four copies (R228). -/
def State.putIndex (s : State) (place : Nat) (b : BitVec 256) : State :=
  [(0 : BitVec 2), 1, 2, 3].foldl (fun s d => s.wrDev 0 0 (256 * (vget s.idxBase 0 d).toNat + 32 * place) (leBytes 32 b.toNat) false) s

/-- A name enters its bucket, in its first empty entry (log entry 51). -/
def State.indexAdd (s : State) (nsid : BitVec 32) (name : BitVec 128) (h : BitVec 32) : State :=
  let k := ((List.range 8).find? fun i => !(s.bucketUsed name).contains i).getD 0
  let place := 8 * s.bucketOf name + k
  { s with index := s.index ++ [(place, name, nsid, h)] }.putIndex place (entryBits name nsid h)

/-- A node's entry is cleared in all four copies (R228). -/
def State.indexDel (s : State) (h : BitVec 32) : State :=
  (s.index.filter fun e => e.2.2.2 == h).foldl (fun s e => s.putIndex e.1 0) { s with index := s.index.filter fun e => e.2.2.2 != h }

/-! ## Counts on a node (R219, R220) -/

/-- The largest REFCNT (R220). -/
def refMax : Nat := 2 ^ 24 - 1

/-- Take one reference on a node: TOUCH becomes TICKCNT (R220, R221). -/
def State.incRef (s : State) (h : BitVec 32) : State :=
  s.modNode h fun n => { n with refcnt := n.refcnt + 1, touch := s.tickcnt.setWidth 48 }

/-- A removal of a closing namespace's node begins when its REFCNT is 0 (R213): it becomes HARVESTING. -/
def State.closingRemoval (s : State) (h : BitVec 32) : State :=
  let n := s.node h
  let closing := match Tab.get? s.nss n.nsid.toNat with | some ns => ns.closing | none => false
  if closing && n.st = .sealed && n.refcnt = 0 then (s.indexDel h).setNode h { n with st := .harvesting } else s

/-- An in-flight reference on a crystal ends (R57, R220). -/
def State.unref (s : State) (h : BitVec 32) : State :=
  if s.hStale h then s else (s.modNode h fun n => { n with refcnt := n.refcnt - 1 }).closingRemoval h

end Sys2Proof.Machine
end

