-- ==== Sys2Proof/Machine/Links.lean ====
section
/-! DEFINITION. Peer links and the directory at its home: flits, their CRC and credits (R26 to R29, R63), directory
messages (R49 to R51), and what a home does with ANNOUNCE, WITHDRAW and LOOKUP (R54 to R56). -/

namespace Sys2Proof.Machine

/-! ## Flits (R26) -/

/-- One step of the CRC-64 of R26, for one bit, most significant first. -/
def crcBit (c : BitVec 64) : BitVec 64 :=
  if c.getLsbD 63 then (c <<< 1) ^^^ 0x42F0E1EBA9EA3693 else c <<< 1

/-- The CRC-64 of R26 taken over one more byte. -/
def crcByte (c : BitVec 64) (b : Byte) : BitVec 64 :=
  let c := c ^^^ (b.setWidth 64 <<< 56)
  crcBit (crcBit (crcBit (crcBit (crcBit (crcBit (crcBit (crcBit c)))))))

/-- CRC-64 over some bytes, initial value 0, no final inversion (R26). -/
def crc64 (bs : List Byte) : BitVec 64 := bs.foldl crcByte 0

abbrev Flit := BitVec 2048

def Flit.dst (f : Flit) : BitVec 12 := f.extractLsb' 116 12
def Flit.src (f : Flit) : BitVec 12 := f.extractLsb' 104 12
def Flit.vc (f : Flit) : BitVec 2 := f.extractLsb' 102 2
def Flit.kind (f : Flit) : BitVec 6 := f.extractLsb' 96 6
def Flit.seqNo (f : Flit) : BitVec 16 := f.extractLsb' 48 16
def Flit.ackSeq (f : Flit) : BitVec 16 := f.extractLsb' 32 16
def Flit.cvc (f : Flit) : BitVec 2 := f.extractLsb' 30 2
def Flit.cred (f : Flit) : BitVec 6 := f.extractLsb' 24 6
/-- Bytes 0 to 247, over which the CRC runs. -/
def Flit.body (f : Flit) : List Byte := leBytes 248 f.toNat
def Flit.crc (f : Flit) : BitVec 64 := f.extractLsb' 1984 64
/-- A flit of KIND idle or link control takes no credit and no buffer (R27). -/
def Flit.isControl (f : Flit) : Bool := f.kind == 0x00 || f.kind == 0x3F
/-- The KIND codes that are not reserved (R26). -/
def Flit.kindOk (f : Flit) : Bool := f.kind.toNat ≤ 4 || f.kind == 0x3F

/-- A flit before it leaves: header without SEQ, ACKSEQ and credits, payload, no CRC (R26). -/
def mkFlit (dst src : BitVec 12) (vc : BitVec 2) (kind : BitVec 6) (flow : BitVec 24) (payload : List Byte) : Flit :=
  let h : BitVec 128 := dst ++ src ++ vc ++ kind ++ BitVec.ofNat 8 payload.length ++ flow ++ (0 : BitVec 64)
  (0 : BitVec 64) ++ BitVec.ofNat 1856 (leNat payload) ++ h

/-- The flit as it leaves: SEQ, ACKSEQ, the credits returned, and the CRC (R26, R63). -/
def Flit.sealFor (f : Flit) (seq ack : BitVec 16) (cvc : BitVec 2) (cred : BitVec 6) : Flit :=
  let low : BitVec 64 := seq ++ ack ++ cvc ++ cred ++ (0 : BitVec 24)
  let f := f ||| low.setWidth 2048
  f ||| ((crc64 (Flit.body f)).setWidth 2048 <<< 1984)

/-! ## Sending (R27 to R29, R63, R64) -/

def State.port (s : State) (p : BitVec 4) : Port := vget s.ports Port.reset p
def State.setPort (s : State) (p : BitVec 4) (x : Port) : State := { s with ports := vset s.ports p x }

/-- The VC whose credits the next flit returns: in rotation among those with credits owed (R63). -/
def Port.creditVc (p : Port) : BitVec 2 :=
  let c := [0, 1, 2, 3].map fun (i : Nat) => p.nextVc + BitVec.ofNat 2 i
  (c.find? fun v => 0 < vget p.owed 0 v).getD p.nextVc

/-- What an answer kept in place is let go, its last flit having left: the node's in-flight reference (R57), the entry of the request, whose
credit is owed (R62). -/
def State.letGo (s : State) (h : AnswerHold) : State :=
  let s := match h.node with
    | some k => s.unref k
    | none => s
  match h.src with
  | none => s
  | some pn =>
    let p := s.port pn
    s.setPort pn { p with occ := vset p.occ (0 : BitVec 2) (vget p.occ 0 (0 : BitVec 2) - 1), owed := vset p.owed (0 : BitVec 2) (vget p.owed 0 (0 : BitVec 2) + 1) }

/-- A flit leaves the port: numbered, carrying ACKSEQ and the credits owed of one VC, kept for replay, and spending a
credit unless it is link control (R26 to R28, R63). -/
def State.sendFlit (s : State) (pn : BitVec 4) (f : Flit) : State :=
  let p := s.port pn
  let vc := p.creditVc
  let n := Nat.min 63 (vget p.owed 0 vc)
  let out := Flit.sealFor f p.txSeq p.ackSeq vc (BitVec.ofNat 6 n)
  let holds := if Flit.isControl f then p.holds else updIf p.holds (fun h => h.vc == Flit.vc f) fun h => { h with left := h.left - 1 }
  let p := { p with
    txSeq := p.txSeq + 1
    owed := vset p.owed vc (vget p.owed 0 vc - n)
    nextVc := vc + 1
    cred := if Flit.isControl f then p.cred else vset p.cred (Flit.vc f) (vget p.cred 0 (Flit.vc f) - 1)
    replay := p.replay ++ [out]
    holds := holds.filter fun h => h.left != 0 }
  (holds.filter fun h => h.left == 0).foldl State.letGo ((s.setPort pn p).emit (.flit pn out))

/-- Whether a waiting flit can leave: a credit of its VC, and room in the replay buffer (R27, R28). -/
def Port.canSend (p : Port) (f : Flit) : Bool :=
  p.up && p.replay.length < 512 && (Flit.isControl f || 0 < vget p.cred 0 (Flit.vc f))

/-- The VC that takes the next flit slot, with its oldest flit: the first in the rotation that has a flit ready and a credit (R64). -/
def Port.offer (p : Port) : Option (BitVec 2 × Flit) :=
  ([0, 1, 2, 3].map fun (i : Nat) => p.slot + BitVec.ofNat 2 i).findSome? fun v =>
    match p.txq.find? fun (f : Flit) => Flit.vc f == v with
    | some f => if p.canSend f then some (v, f) else none
    | none => none

/-- Fill at most `n` flit slots of a port (R64). -/
def State.pumpGo (pn : BitVec 4) : (n : Nat) → State → State
  | 0, s => s
  | n + 1, s =>
    let p := s.port pn
    match p.offer with
    | none => s
    | some (v, f) =>
      State.pumpGo pn n ((s.setPort pn { p with slot := v + 1, txq := delFirst (fun (x : Flit) => Flit.vc x == v) p.txq }).sendFlit pn f)

/-- Every flit that can leave leaves. -/
def State.pump (s : State) (pn : BitVec 4) : State := State.pumpGo pn (s.port pn).txq.length s

/-- The port that a message takes (R29): `FLOW mod popcount(mask)` counted over the mask's bits, `none` when empty. -/
def State.routeTo (s : State) (dst : BitVec 12) (flow : BitVec 24) : Option (BitVec 4) :=
  let m := Tab.get 0 s.route dst.toNat
  let ps := (List.range 16).filter fun i => m.getLsbD i
  if ps.isEmpty then none else (ps[flow.toNat % ps.length]?).map (BitVec.ofNat 4)

/-- The KIND of flit `i` of `n` flits of a message (R50). -/
def flitKind (i n : Nat) : BitVec 6 := if n = 1 then 0x04 else if i = 0 then 0x01 else if i + 1 = n then 0x03 else 0x02

/-- Send a message of one payload per flit (R29, R50); `none` when the destination is unreachable. -/
def State.sendMsg (s : State) (dst : BitVec 12) (vc : BitVec 2) (flow : BitVec 24) (payloads : List (List Byte)) :
    Option State :=
  match s.routeTo dst flow with
  | none => none
  | some pn =>
    let fl := payloads.mapIdx fun i b => mkFlit dst s.pkgid vc (flitKind i payloads.length) flow b
    let p := s.port pn
    some ((s.setPort pn { p with txq := p.txq ++ fl }).pump pn)

/-- Data as payloads of 232 bytes (R50). -/
def chunks232 : (fuel : Nat) → List Byte → List (List Byte)
  | 0, _ => []
  | n + 1, l => if l.isEmpty then [] else l.take 232 :: chunks232 n (l.drop 232)

/-! ## Directory messages (R49 to R51) -/

/-- A holder slot's 16 bits (R49). -/
def holderBits (h : Holder) : BitVec 16 := BitVec.ofBool h.valid ++ h.tier ++ (0 : BitVec 1) ++ h.pkg
def noHolder : Holder := { valid := false, tier := 0, pkg := 0 }

/-- The 384 bits of a message's head (R49). -/
def dirBits (m : DirMsg) : BitVec 384 :=
  let h (i : Nat) : BitVec 16 := holderBits (m.holders.getD i noHolder)
  m.op ++ m.status ++ m.tag ++ m.nsid ++ m.name ++ m.depth ++ m.layer0 ++ m.nlayer ++ m.offset ++ m.length
    ++ h 3 ++ h 2 ++ h 1 ++ h 0
    ++ (match m.excl with | some p => (8 : BitVec 4) ++ p | Option.none => (0 : BitVec 16))

/-- The payload of a head flit (R49): the 48 bytes, and zeroes to 232. DESIGN CHOICE (log entry 52): all 232 bytes count in LEN. -/
def dirPayload (m : DirMsg) : List Byte := leBytes 232 (dirBits m).toNat

/-- A message with every field zero but its code, namespace and name. -/
def mkDir (op : Byte) (nsid : BitVec 32) (name : BitVec 128) : DirMsg :=
  { op := op, status := 0, tag := 0, nsid := nsid, name := name, depth := 0, layer0 := 0, nlayer := 0, offset := 0,
    length := 0, holders := [], excl := Option.none, rsvdBad := false }

/-- FLOW of a message about a node, or of a namespace-wide WITHDRAW (R51). -/
def dirFlow (m : DirMsg) : BitVec 24 :=
  if m.depth = 0 && m.op = 4 then m.nsid.setWidth 24 else m.name.extractLsb' 12 24

/-- The virtual channel of a message code (R50). -/
def dirVc (op : Byte) : BitVec 2 :=
  match op.toNat with
  | 1 | 3 | 4 | 5 => 0
  | 2 | 8 => 1
  | _ => 2

/-- The home package of a name, when HOMEMAP gives one (R47, R48). -/
def State.homePkg (s : State) (name : BitVec 128) : Option (BitVec 12) :=
  let e := Tab.get 0 s.homemap (name.extractLsb' 0 12).toNat
  if e.getLsbD 15 then some (e.extractLsb' 0 12) else Option.none

/-- Send a directory message with its data flits to another package; `none` when it is unreachable (R29). -/
def State.sendDir (s : State) (dst : BitVec 12) (m : DirMsg) (extra : List (List Byte)) (data : List Byte) : Option State :=
  s.sendMsg dst (dirVc m.op) (dirFlow m) (dirPayload m :: extra ++ chunks232 (data.length + 1) data)

/-! ## The directory at its home (R54 to R56) -/

/-- A holder slot from its 16 bits (R49). -/
def holderOf (b : BitVec 16) : Holder := { valid := b.getLsbD 15, tier := b.extractLsb' 13 2, pkg := b.extractLsb' 0 12 }

/-- An entry of the directory region (R55): its holders with their slots, in announce order, oldest first (AORD). -/
structure DirEntry where
  name : BitVec 128
  nsid : BitVec 32
  depth : BitVec 16
  holders : List (Nat × Holder)
  atime : W64
  deriving DecidableEq, Repr

/-- An entry from its 512 bits. -/
def DirEntry.ofBits (b : BitVec 512) : DirEntry :=
  let rank (i : Nat) : Nat := (b.extractLsb' (200 + 2 * i) 2).toNat
  let hs := (List.range 4).map fun i => (i, holderOf (b.extractLsb' (272 + 16 * i) 16))
  { name := b.extractLsb' 384 128, nsid := b.extractLsb' 352 32, depth := b.extractLsb' 336 16
    holders := (hs.filter fun h => h.2.valid).mergeSort fun a c => rank a.1 ≤ rank c.1, atime := b.extractLsb' 208 64 }

/-- The 512 bits of an entry; one without holders is empty, all zero. -/
def DirEntry.bits (e : DirEntry) : BitVec 512 :=
  if e.holders.isEmpty then 0
  else
    let slot (i : Nat) : BitVec 16 := ((e.holders.find? fun h => h.1 == i).map fun h => holderBits h.2).getD 0
    let rank (i : Nat) : BitVec 2 := BitVec.ofNat 2 ((e.holders.findIdx? fun h => h.1 == i).getD 0)
    e.name ++ e.nsid ++ e.depth ++ slot 3 ++ slot 2 ++ slot 1 ++ slot 0 ++ e.atime ++ rank 3 ++ rank 2 ++ rank 1 ++ rank 0 ++ (0 : BitVec 200)

/-- Address of entry `i` of a set (R55). -/
def State.dirAddr (s : State) (set i : Nat) : Nat := 512 * s.dirBase.toNat + 512 * set + 64 * i

/-- Read and write an entry at its address, under firmware's key. -/
def State.dirGet (s : State) (a : Nat) : DirEntry := DirEntry.ofBits (BitVec.ofNat 512 (leNat (s.rdDev 0 a 64).1))
def State.dirPut (s : State) (a : Nat) (e : DirEntry) : State := s.wrDev 0 0 a (leBytes 64 e.bits.toNat) false

def dirSet (s : State) (name : BitVec 128) : Nat := (name.extractLsb' 64 32).toNat % 2 ^ s.dirSets.toNat

/-- The addresses of a name's set, with their entries. -/
def State.dirSetOf (s : State) (name : BitVec 128) : List (Nat × DirEntry) :=
  (List.range 8).map fun i => (s.dirAddr (dirSet s name) i, s.dirGet (s.dirAddr (dirSet s name) i))

/-- The entry of a name in a namespace; NSID 0 marks an empty entry. -/
def State.dirFind (s : State) (nsid : BitVec 32) (name : BitVec 128) : Option (Nat × DirEntry) :=
  (s.dirSetOf name).find? fun e => e.2.nsid != 0 && e.2.nsid == nsid && e.2.name == name

/-- The announce of R54 from a holder of an entry: a listed holder keeps its slot, a new one takes a free slot while there is one; else it
replaces the holder with the highest tier, the oldest announce among those that tie. -/
def addHolder (hs : List (Nat × Holder)) (h : Holder) : List (Nat × Holder) :=
  match hs.find? fun x => x.2.pkg == h.pkg with
  | some x => hs.filter (fun y => y.1 != x.1) ++ [(x.1, h)]
  | none =>
    match (List.range 4).find? fun i => !hs.any fun x => x.1 == i with
    | some i => hs ++ [(i, h)]
    | none =>
      let top := hs.foldl (fun n x => Nat.max n x.2.tier.toNat) 0
      match hs.find? fun x => x.2.tier.toNat == top with
      | some x => hs.filter (fun y => y.1 != x.1) ++ [(x.1, h)]
      | none => hs

/-- ANNOUNCE at the home (R54): where the set is full, the entry with the oldest last ANNOUNCE goes. -/
def State.dirAnnounce (s : State) (nsid : BitVec 32) (name : BitVec 128) (depth : BitVec 16) (h : Holder) : State :=
  if nsid = 0 then s
  else match s.dirFind nsid name with
    | some (a, e) => s.dirPut a { e with holders := addHolder e.holders h, atime := s.devtime }
    | none =>
      let new : DirEntry := { name := name, nsid := nsid, depth := depth, holders := [(0, h)], atime := s.devtime }
      let set := s.dirSetOf name
      let old := (set.filter fun e => e.2.nsid == 0).head?.or (set.foldl (fun b e => match b with
        | none => some e
        | some x => if e.2.atime.toNat < x.2.atime.toNat then some e else some x) none)
      match old with
      | some (a, _) => s.dirPut a new
      | none => s

/-- An entry without a holder. -/
def State.dirDrop (s : State) (pkg : BitVec 12) (x : Nat × DirEntry) : State :=
  if x.2.holders.any fun h => h.2.pkg == pkg then s.dirPut x.1 { x.2 with holders := x.2.holders.filter fun h => h.2.pkg != pkg } else s

/-- Every entry of the region that is not empty: those with a byte other than zero. -/
def State.dirAll (s : State) : List (Nat × DirEntry) :=
  let b := 512 * s.dirBase.toNat
  let as := (Mem.slice s.mem b (512 * 2 ^ s.dirSets.toNat)).foldl (fun l c => insNat l (c.1 / 64)) []
  as.map fun a => (64 * a, s.dirGet (64 * a))

/-- WITHDRAW at the home (R53, R54): one holder of one entry, or with DEPTH 0 of every entry of the namespace. -/
def State.dirWithdraw (s : State) (nsid : BitVec 32) (name : BitVec 128) (depth : BitVec 16) (pkg : BitVec 12) : State :=
  if depth = 0 then (s.dirAll.filter fun e => e.2.nsid != 0 && e.2.nsid == nsid).foldl (State.dirDrop · pkg) s
  else match s.dirFind nsid name with
    | some e => s.dirDrop pkg e
    | none => s

/-- Holders in ascending tier, with ties in ascending package id (R56). -/
def insHolder : List Holder → Holder → List Holder
  | [], h => [h]
  | x :: r, h =>
    if h.tier.toNat < x.tier.toNat || (h.tier == x.tier && h.pkg.toNat < x.pkg.toNat) then h :: x :: r
    else x :: insHolder r h

/-- The answer to a LOOKUP at the home (R55, R56): depth and holders on a HIT. -/
def State.dirLookup (s : State) (nsid : BitVec 32) (name : BitVec 128) (excl : Option (BitVec 12)) :
    Option (BitVec 16 × List Holder) :=
  if !s.dirEn then Option.none
  else match s.dirFind nsid name with
    | Option.none => Option.none
    | some (_, e) =>
      let hs := ((e.holders.map (·.2)).filter fun h => h.valid && some h.pkg != excl).foldl insHolder []
      if hs.isEmpty then Option.none else some (e.depth, hs)

/-- Tell the home of a name that this package holds, or no longer holds, a node (R48, R53, R55). -/
def State.tellHome (s : State) (op : Byte) (nsid : BitVec 32) (name : BitVec 128) (depth : BitVec 16) (tier : BitVec 2) : State :=
  if !s.dirEn then s
  else match s.homePkg name with
    | Option.none => s
    | some h =>
      let me : Holder := { valid := true, tier := tier, pkg := s.pkgid }
      if h = s.pkgid then
        if op = 3 then s.dirAnnounce nsid name depth me else s.dirWithdraw nsid name depth s.pkgid
      else
        let m : DirMsg := { mkDir op nsid name with depth := depth, holders := [me] }
        (s.sendDir h m [] []).getD (s.emit (.failed h 0x08))

/-- The namespace-wide WITHDRAW of R53: DEPTH 0 and NAME 0, to the home that R47 gives NAME 0. -/
def State.withdrawAll (s : State) (nsid : BitVec 32) : State := s.tellHome 4 nsid 0 0 0

end Sys2Proof.Machine
end

