-- ==== Sys2Proof/Machine/SaltOps.lean ====
section
/-! DEFINITION. The Saltern's shared operations: extents in its pools (R232, R233), reference counts and freeing (R219 to R222). -/

namespace Sys2Proof.Machine

/-! ## Extents (R232, R233) -/

/-- The free runs of a pool from its extents in use, sorted by first unit. -/
def freeRuns (lo size : Nat) : List (Nat × Nat) → List (Nat × Nat)
  | [] => if lo < size then [(lo, size - lo)] else []
  | (f, n) :: r => (if lo < f then [(lo, Nat.min f size - lo)] else []) ++ freeRuns (f + n) size r

def insUsed : List (Nat × Nat) → Nat × Nat → List (Nat × Nat)
  | [], e => [e]
  | x :: r, e => if e.1 < x.1 then e :: x :: r else x :: insUsed r e

/-- The longest run, the lowest among those that tie. -/
def longestRun (l : List (Nat × Nat)) : Option (Nat × Nat) :=
  l.foldl (fun b e => match b with
    | none => some e
    | some x => if x.2 < e.2 then some e else some x) none

/-- Split `left` layers of `u` units each over at most `fuel` runs, longest first (R233); first unit and layers each. -/
def splitRuns (u : Nat) : (fuel left : Nat) → List (Nat × Nat) → Option (List (Nat × Nat))
  | _, 0, _ => some []
  | 0, _, _ => none
  | k + 1, left, runs =>
    match longestRun runs with
    | none => none
    | some r =>
      let c := Nat.min (r.2 / u) left
      if c = 0 then none
      else (splitRuns u k (left - c) (runs.filter (· != r))).map ((r.1, c) :: ·)

/-- The pool of a tier on a die or port (R232). -/
def poolOf (tier : BitVec 2) (die : BitVec 2) (port : BitVec 2) : BitVec 4 :=
  match tier.toNat with
  | 0 => die.setWidth 4
  | 1 => 4 + die.setWidth 4
  | _ => 8 + port.setWidth 4

/-- ADDR of a unit of a pool (R218): SSA at tier 0, physical address at tiers 1 and 2. -/
def poolAddr (p : Pool) (unit : Nat) : Nat := p.base.toNat + 4096 * unit

/-- Allocate `nl` layers of 2^log2lb bytes in a pool: the groups, from layer 0 upward, and the pool's new extents (R233). -/
def State.allocGroups (s : State) (tier : BitVec 2) (j : BitVec 4) (nl log2lb : Nat) : Option (List Group × State) :=
  let p := s.pool j
  let u := 2 ^ (log2lb - 12)
  let runs := freeRuns 0 p.size.toNat p.used
  let parts := match runs.find? fun r => nl * u ≤ r.2 with
    | some r => some [(r.1, nl)]
    | none => splitRuns u 12 nl runs
  parts.map fun l =>
    let gs := (l.foldl (fun (a : Nat × List Group) e =>
      (a.1 + e.2, a.2 ++ [({ pkg := 0, tier := tier, layer0 := a.1, nlay := e.2, addr := poolAddr p e.1 } : Group)]))
      (0, [])).2
    let used := l.foldl (fun us e => insUsed us (e.1, e.2 * u)) p.used
    (gs, s.setPool j { p with used := used })

/-- The pool that a local group's extent lies in (R232). -/
def groupPool (g : Group) : BitVec 4 :=
  match g.tier.toNat with
  | 0 => BitVec.ofNat 4 (g.addr / 2 ^ 27 % 4)
  | 1 => BitVec.ofNat 4 (4 + g.addr / 2 ^ 37 % 4)
  | _ => BitVec.ofNat 4 (8 + (g.addr - 2 ^ 47) / 2 ^ 44 % 4)

/-- First byte of a local group's frames in the package's storage: staging memory at tier 0, else a physical address. -/
def groupBase (g : Group) : Nat := if g.tier = 0 then stgBase + g.addr else g.addr

/-- Give back the extents of a node's local groups (R219); a context with a checkpoint remembers them (R321). -/
def State.freeGroups (s : State) (gs : List Group) : State :=
  gs.foldl (fun s g =>
    if g.tier = 3 then s
    else
      let p := s.pool (groupPool g)
      let freed := (p.used.filter fun e => e.1 == (g.addr - p.base.toNat) / 4096).map fun e => (groupBase g, 4096 * e.2)
      let s := { s with ctxs := s.ctxs.map fun (e : Nat × Ctx) =>
        (e.1, if e.2.hasCk then { e.2 with ckFreed := e.2.ckFreed ++ freed } else e.2) }
      s.modPool (groupPool g) fun p =>
      { p with used := p.used.filter fun e => e.1 != (g.addr - p.base.toNat) / 4096 }) s

/-- A record that is FREE in the quarter of a die, or of the next dies modulo 4 (R216): its handle. -/
def State.findRecord (s : State) (d : BitVec 2) : Option (BitVec 32) :=
  ([0, 1, 2, 3].map fun (k : Nat) => d + BitVec.ofNat 2 k).findSome? fun e =>
    let size := (s.pool (recPool e)).size.toNat
    let key (i : Nat) : Nat := e.toNat * 2 ^ 22 + i
    let used := (s.nodes.filter fun x => x.2.st != .free && x.1 / 2 ^ 22 == e.toNat).map fun x => x.1 % 2 ^ 22
    ((List.range (used.length + 1)).map (· + 1)).findSome? fun i =>
      if i < size && !used.contains i then
        some ((Tab.get Node.reset s.nodes (key i)).gen ++ e ++ BitVec.ofNat 22 i)
      else none

/-- Note in the record pool that a record is in use, or no longer in use. -/
def State.takeRecord (s : State) (h : BitVec 32) : State :=
  s.modPool (recPool (hDie h)) fun p => { p with used := insUsed p.used (hIndex h, 1) }
def State.giveRecord (s : State) (h : BitVec 32) : State :=
  s.modPool (recPool (hDie h)) fun p => { p with used := p.used.filter fun e => e.1 != hIndex h }

/-! ## Reference counts (R219 to R222) -/

/-- UNREGISTER's GO falls, with the namespace-wide WITHDRAW, when the closing namespace's last node has gone (R213). -/
def State.nsGone (s : State) (nsid : BitVec 32) : State :=
  match Tab.get? s.nss nsid.toNat with
  | none => s
  | some ns =>
    if ns.closing && !s.nodes.any (fun x => x.2.st != .free && x.2.nsid == nsid) then
      let s := if ns.shared then s.withdrawAll nsid else s
      { s with nss := Tab.erase s.nss nsid.toNat, nsGo := false, nsCode := 0 }
    else s

/-- Free a node, with the parents that its freeing frees (R219, R235): index entries, WITHDRAW when announced, the
parent's count, frames, then the record, whose GEN rises. `fuel` bounds the chain. -/
def State.freeNode : (fuel : Nat) → State → BitVec 32 → State
  | 0, s, _ => s
  | k + 1, s, h =>
    let n := s.node h
    let s := if n.st = .open_ then s else s.indexDel h
    let s := if n.ann then s.tellHome 4 n.nsid n.name n.depth 0 else s
    let s := if n.parent = 0 then s else
      let p := s.node n.parent
      let s := s.setNode n.parent { p with refcnt := p.refcnt - 1 }
      if p.refcnt = 1 && p.st = .open_ then State.freeNode k s n.parent else s.closingRemoval n.parent
    let s := s.freeGroups n.groups
    let s := (s.giveRecord h).setNode h { Node.reset with gen := n.gen + 1 }
    s.nsGone n.nsid

/-- Depth bound of a chain (R215). -/
def chainFuel : Nat := 65536

/-- Drop one reference on a node (R219, R220): an OPEN node whose REFCNT reaches 0 becomes FREE. A handle that has
become stale holds nothing. -/
def State.decRef (s : State) (h : BitVec 32) : State :=
  if s.hStale h then s
  else
    let n := s.node h
    let s := s.setNode h { n with refcnt := n.refcnt - 1 }
    if n.refcnt = 1 && n.st = .open_ then s.freeNode chainFuel h else s.closingRemoval h

/-- Drop every reference of a context, as at its end (R222). -/
def State.dropAllRefs (s : State) (c : BitVec 16) : State :=
  match s.ctx? c with
  | none => s
  | some x => x.refs.foldl (fun s e => s.decRef e.handle) (s.modCtx c fun x => { x with refs := [] })

end Sys2Proof.Machine
end

