-- ==== Sys2Proof/Machine/Homes.lean ====
section
/-! DEFINITION. Memory below the tiles: levels 1 to 3 (R111, R112, R183), page translation (R193 to R197), the homes and the
dies' channels to them (R245 to R256), accesses of units outside the tiles (R23, R77), and the residency table (R148). -/

namespace Sys2Proof.Machine

/-! ## Levels 1 to 3 -/

/-- Set the written-since-install bits of the scratchpad granules that a range touches (R111). -/
def markGran (m : BitVec 512) (off n : Nat) : BitVec 512 :=
  if n = 0 then m else
    (List.range ((off + n - 1) / 4096 + 1 - off / 4096)).foldl (fun m i => setBit m (off / 4096 + i) true) m

/-- Write scratchpad bytes of a tile (R111, R314). -/
def State.wrSpad (s : State) (g : BitVec 8) (off : Nat) (bs : List Byte) (p : Bool) : State :=
  let s := s.wrBytes (spadBase g.toNat + off) bs p
  s.modTile g fun t => { t with wgran := markGran t.wgran off bs.length }

/-- Some granule of a scratchpad range is sealed (R224). -/
def Tile.spadSealed (t : Tile) (off n : Nat) : Bool :=
  n != 0 && (List.range ((off + n - 1) / 4096 + 1 - off / 4096)).any fun i => t.sealb.getLsbD (off / 4096 + i)

/-- Every granule of a scratchpad range is sealed (R305). -/
def Tile.spadAllSealed (t : Tile) (off n : Nat) : Bool :=
  (List.range ((off + n - 1) / 4096 + 1 - off / 4096)).all fun i => t.sealb.getLsbD (off / 4096 + i)

/-- The image that a granule belongs to, and the granule's place in it (R298). -/
def State.imageAt (s : State) (n : Nat) : Option (Image × Nat) :=
  s.images.findSome? fun (e : Nat × Image) => if e.2.grans.contains n then some (e.2, e.2.grans.findIdx (· == n)) else none

/-- A byte of cluster or staging memory: an image's in its granules. -/
def State.granByte (s : State) (a : Nat) : Byte :=
  match s.imageAt (a / 4096) with
  | some (i, k) => i.stored.getD (4096 * k + a % 4096) 0
  | none => s.rdByte a

/-- A granule of an image is written: its bytes stand as they were but for the write, the granule is the image's no more, and the
image's tag will fail (R300). -/
def State.breakImage (s : State) (n : Nat) : State :=
  match s.imageAt n with
  | none => s
  | some (i, k) =>
    { s with
      mem := Mem.puts s.mem (4096 * n) ((i.stored.drop (4096 * k)).take 4096)
      images := Tab.set s.images i.handle.toNat
        { i with tagOk := false, grans := i.grans.map fun m => if m = n then 0 else m } }

/-- Claim the cluster or staging granule at a byte address for a context (R112): a granule whose written bit is clear or
whose tag differs becomes zero, clean and the context's. -/
def State.claimGran (s : State) (ctx : BitVec 16) (n : Nat) : State :=
  let s := s.breakImage n
  if Tab.get? s.gran n = some ctx then s
  else { s.zero (4096 * n) 4096 with gran := Tab.set s.gran n ctx }

/-- Write bytes of cluster or staging memory for a context (R112). -/
def State.wrGran (s : State) (ctx : BitVec 16) (a : Nat) (bs : List Byte) (p : Bool) : State :=
  if bs.isEmpty then s
  else
    let s := (List.range ((a + bs.length - 1) / 4096 + 1 - a / 4096)).foldl (fun s i => s.claimGran ctx (a / 4096 + i)) s
    s.wrBytes a bs p

/-- Read bytes of cluster or staging memory for a context: zeros from granules that are not its own (R112). -/
def State.rdGran (s : State) (ctx : BitVec 16) (a n : Nat) : List Byte × Bool :=
  let own (x : Nat) : Bool := Tab.get? s.gran (x / 4096) == some ctx
  ((List.range n).map fun i => if own (a + i) then s.granByte (a + i) else 0,
   (linesOf a n).any fun l => own (64 * l) && s.poison.contains l)

/-! ## The image area (R186, R298) -/

/-- The latency from a tile to a slice of its die (R186), both by their numbers on the die. -/
def sliceLat (i s : Nat) : Nat :=
  let col (n : Nat) : Nat := 2 * (n / 8 % 4) + n % 2
  let row (n : Nat) : Nat := 4 * (n / 32) + n % 8 / 2
  let dist (a b : Nat) : Nat := Nat.max a b - Nat.min a b
  20 + 2 * (dist (col i) (col s) + dist (row i) (row s)) + (if i / 8 = s / 8 then 0 else 4)

/-- The slices of a die in ascending L(i, s), the tile's own first; the lower number first among equals (log entry 65). -/
def slicesFrom (i : Nat) : List Nat :=
  (List.range 17).flatMap fun k => (List.range 64).filter fun s => sliceLat i s == 20 + 2 * k

/-- The first granule of a slice. -/
def sliceGran (d s : Nat) : Nat := stgBase / 4096 + (64 * d + s) * 512

/-- Granules of a slice that hold no context's data, from the slice's top down. DESIGN CHOICE (log entry 65): these are its part of the
image area, whose place the manual does not give. -/
def State.freeGrans (s : State) (d k : Nat) : List Nat :=
  ((List.range 512).map fun i => sliceGran d k + (511 - i)).filter fun n => (Tab.get? s.gran n).isNone

/-- Granules of a die's staging memory that hold no context's data. -/
def State.imageRoom (s : State) (d : BitVec 2) : Nat :=
  32768 - (s.gran.filter fun e => decide (sliceGran d.toNat 0 ≤ e.1) && decide (e.1 < sliceGran d.toNat 64)).length

/-- The run of `n` granules of an image of a tile (R298), as many as there are. -/
def State.imageRun (s : State) (g : BitVec 8) (n : Nat) : List Nat :=
  (slicesFrom (g.toNat % 64)).foldl (fun l k =>
    if n ≤ l.length then l else l ++ (s.freeGrans (g.toNat / 64) k).take (n - l.length)) []

/-- An image's granules are claimed under its context's tag (R112, R298). -/
def State.tagRun (s : State) (c : BitVec 16) (l : List Nat) : State := l.foldl (fun s n => s.claimGran c n) s

/-- An image's granules are unwritten again. -/
def State.freeRun (s : State) (l : List Nat) : State := { s with gran := s.gran.filter fun e => !l.contains e.1 }

/-! ## Leaf entries (R195, R196) -/

def leafKey (l : BitVec 128) : BitVec 12 := l.extractLsb' 104 12
def leafPkg (l : BitVec 128) : BitVec 12 := l.extractLsb' 116 12
def leafLat (l : BitVec 128) : BitVec 2 := l.extractLsb' 70 2
def leafCoh (l : BitVec 128) : BitVec 2 := l.extractLsb' 68 2
def leafHome (l : BitVec 128) : BitVec 4 := l.extractLsb' 64 4
def leafFrame (l : BitVec 128) : Nat := (l.extractLsb' 16 32).toNat * 2 ^ 16
def leafSeal (l : BitVec 128) : Bool := l.getLsbD 4
def leafR (l : BitVec 128) : Bool := l.getLsbD 3
def leafW (l : BitVec 128) : Bool := l.getLsbD 2
def leafPeer (l : BitVec 128) : Bool := leafHome l == 8

/-- FRAME lies in its home's part of the map (R193, R196). -/
def frameInHome (l : BitVec 128) : Bool :=
  let h := (leafHome l).toNat
  let f := leafFrame l
  if h < 4 then f / 2 ^ 37 == h
  else if h < 8 then f / 2 ^ 44 == 8 + (h - 4) && f % 2 ^ 44 < 2 ^ 42
  else true

/-- A class that the home may not carry (R188, R189). -/
def latBad (s : State) (l : BitVec 128) : Bool :=
  let h := (leafHome l).toNat
  match (leafLat l).toNat with
  | 0 => false
  | 1 => !decide (h < 4)
  | 2 => !(decide (h < 4) || (decide (h < 8) && !(vget s.cxl Cxl.reset (BitVec.ofNat 2 (h - 4))).switched))
  | _ => !decide (h < 8)

/-- A leaf entry with P = 1 is ill-formed at its level (R196). -/
def leafBad (s : State) (level : Nat) (l : BitVec 128) : Bool :=
  level == 1
    || l.extractLsb' 72 32 != 0 || l.extractLsb' 48 16 != 0 || l.extractLsb' 8 8 != 0 || l.extractLsb' 5 2 != 0
    || l.extractLsb' 1 1 != 0
    || decide (8 < (leafHome l).toNat)
    || !frameInHome l
    || (level == 2 && l.extractLsb' 16 13 != 0)
    || (if leafPeer l then leafPkg l == s.pkgid else leafPkg l != 0)
    || leafCoh l == 3 || (leafCoh l == 1 && leafW l)
    || (leafPeer l && (leafW l || leafCoh l != 1 || leafLat l != 0))
    || latBad s l

/-- A table entry with P = 1 is ill-formed (R194, R196). -/
def tableBad (level : Nat) (e : BitVec 128) : Bool :=
  level == 3 || e.extractLsb' 68 60 != 0 || decide (3 < (e.extractLsb' 64 4).toNat) || e.extractLsb' 48 16 != 0
    || e.extractLsb' 8 9 != 0 || e.extractLsb' 1 6 != 0

/-! ## Walks (R193, R197, R198) -/

inductive WalkOut where
  | leaf (log2 : Nat) (raw : BitVec 128)
  | absent
  | cause (c : Cause)
  deriving DecidableEq, Repr

/-- A table entry as it is performed at its home, under key slot 0, and its poison. -/
def State.tableEntry (s : State) (pa : Nat) : BitVec 128 × Bool :=
  let r := s.rdDev 0 pa 16
  (BitVec.ofNat 128 (leNat r.1), r.2)

/-- A walk from the table at `base`, for the levels that are left (R193, R197 orders 2 to 4). -/
def walkFrom (s : State) (va : Nat) : (left : Nat) → (base : Nat) → WalkOut
  | 0, _ => .cause 0x24
  | k + 1, base =>
    let level := 3 - k
    let idx := va / 2 ^ (16 + 13 * k) % 2 ^ 13
    let e := s.tableEntry (base + 16 * idx)
    if e.2 then .cause 0x2A
    else if !e.1.getLsbD 0 then .absent
    else if e.1.getLsbD 7 then
      if leafBad s level e.1 then
        (if (s.keyId (leafKey e.1)).isNone then .absent else .cause 0x24)
      else .leaf (16 + 13 * k) e.1
    else if tableBad level e.1 then .cause 0x24
    else walkFrom s va k ((e.1.extractLsb' 17 31).toNat * 2 ^ 17)

/-- The walk of a virtual address in a context. -/
def State.walk (s : State) (c : Ctx) (va : Nat) : WalkOut := walkFrom s va 3 (c.trootNext.toNat * 2 ^ 17)

/-- Orders 3 and 5 to 7 of R197 on a well-formed leaf entry. -/
inductive LeafOut where
  | ok | absent | cause (c : Cause)
  deriving DecidableEq, Repr

def checkLeaf (s : State) (l : BitVec 128) (a : Acc) : LeafOut :=
  let w := a != .read
  let r := a != .write
  if (s.keyId (leafKey l)).isNone then .absent
  else if w && leafSeal l then .cause 0x23
  else if w && !leafW l then .cause 0x21
  else if r && !leafR l then .cause 0x22
  else .ok

/-- The physical address of a virtual address under a leaf entry. -/
def leafPa (log2 : Nat) (l : BitVec 128) (va : Nat) : Nat := leafFrame l / 2 ^ log2 * 2 ^ log2 + va % 2 ^ log2

/-- What an access of a rim meets (R197): a place and its leaf entry, a cause, a not-present translation, or a miss of
the translation cache, which needs a walk. -/
inductive Xl where
  | ok (pa : Nat) (leaf : BitVec 128)
  | cause (c : Cause)
  | absent
  | miss
  deriving DecidableEq, Repr

/-- Translate through a rim's translation cache (R197, R198). -/
def State.xlate (s : State) (t : Tile) (ctx : BitVec 16) (va : W64) (a : Acc) : Xl :=
  if va.extractLsb' 55 9 != 0 then .cause 0x25
  else match t.tlb.find? fun e => e.ctx == ctx && va.toNat / 2 ^ e.log2 == e.va / 2 ^ e.log2 with
    | none => .miss
    | some e =>
      match checkLeaf s e.leaf a with
      | .ok => .ok (leafPa e.log2 e.leaf va.toNat) e.leaf
      | .absent => .absent
      | .cause c => .cause c

/-- Translate for a unit that belongs to no tile (R23, R77, R84): a walk at once; it never freezes. -/
def State.xlateNow (s : State) (ctx : BitVec 16) (va : W64) (a : Acc) : Xl :=
  if va.extractLsb' 55 9 != 0 then .cause 0x25
  else match s.ctx? ctx with
    | none => .absent
    | some c =>
      match s.walk c va.toNat with
      | .cause e => .cause e
      | .absent => .absent
      | .leaf n l =>
        match checkLeaf s l a with
        | .ok => .ok (leafPa n l va.toNat) l
        | .absent => .absent
        | .cause e => .cause e

/-- Number by which a line of a page is known: device memory by address, a peer page's line beyond it. -/
def lineNo (leaf : BitVec 128) (pa : Nat) : Nat :=
  if leafPeer leaf then 2 ^ 58 + (leafPkg leaf).toNat * 2 ^ 44 + pa / 64 else pa / 64

/-- A line lies in the frame that an entry maps. -/
def TlbEntry.maps (e : TlbEntry) (line : Nat) : Bool :=
  let lo := lineNo e.leaf (leafFrame e.leaf / 2 ^ e.log2 * 2 ^ e.log2)
  decide (lo ≤ line) && decide (line < lo + 2 ^ (e.log2 - 6))

/-- Make a leaf entry the most recently used of a rim's 128 (R198); an entry that leaves while the L1D holds lines of its frame is
remembered for a shootdown (R205). -/
def Tile.tlbFill (t : Tile) (e : TlbEntry) : Tile :=
  let l := e :: t.tlb.filter (· != e)
  { t with tlb := l.take 128, past := ((t.past ++ l.drop 128).filter fun x => t.l1.any fun c => x.maps c.line).eraseDups }

/-- Touch the entry that a virtual address hits (R198: least recently used). -/
def Tile.tlbTouch (t : Tile) (ctx : BitVec 16) (va : W64) : Tile :=
  match t.tlb.find? fun e => e.ctx == ctx && va.toNat / 2 ^ e.log2 == e.va / 2 ^ e.log2 with
  | some e => t.tlbFill e
  | none => t

/-- Ask for a walk, once (R198). -/
def Tile.askWalk (t : Tile) (w : Walk) : Tile := if t.walks.contains w then t else { t with walks := t.walks ++ [w] }

/-! ## Homes and channels (R245, R249, R250, R255, R256) -/

def maxV (a b : Vector W64 4) : Vector W64 4 :=
  Vector.ofFn fun i : Fin 4 => if a[i].toNat < b[i].toNat then b[i] else a[i]

/-- A write is applied to its line, and RV rises to the vector it carries (R256). -/
def State.landWrite (s : State) (ctx : BitVec 16) (key : BitVec 12) (line : Nat) (m : BitVec 64) (v : BitVec 512)
    (p : Bool) (vc : Vector W64 4) : State :=
  let s := s.wrLine ctx key line m v p
  let h := homeOf (64 * line)
  let x := s.home h
  s.setHome h { x with rv := maxV x.rv vc }

/-- The copy of a line in a tile's L1D. -/
def Tile.l1Get (t : Tile) (line : Nat) : Option L1Line := t.l1.find? fun l => l.line == line

/-- Replace the copy of a line, or remove it. -/
def Tile.l1Set (t : Tile) (l : L1Line) : Tile :=
  { t with l1 := if t.l1.any (fun x => x.line == l.line) then updIf t.l1 (fun x => x.line == l.line) (fun _ => l) else t.l1 ++ [l] }
def Tile.l1Del (t : Tile) (line : Nat) : Tile := { t with l1 := t.l1.filter fun x => x.line != line }

/-- The L1D that a holder record names: a tile's, or the one in a capture image (R205). -/
def State.holder (s : State) (u : Nat) : Tile :=
  if u < 256 then s.tile (BitVec.ofNat 8 u)
  else match Tab.get? s.images (u - 256) with
    | some i => i.tile
    | none => Tile.reset

def State.modHolder (s : State) (u : Nat) (f : Tile → Tile) : State :=
  if u < 256 then s.modTile (BitVec.ofNat 8 u) f
  else match Tab.get? s.images (u - 256) with
    | some i => { s with images := Tab.set s.images (u - 256) { i with tile := f i.tile } }
    | none => s

/-- The die of a holder: its tile's, or the die that holds the image. -/
def holderDie (u : Nat) : BitVec 2 := if u < 256 then dieOf (BitVec.ofNat 8 u) else BitVec.ofNat 2 ((u - 256) / 2 ^ 30)

/-- A holder writes back at the home the bytes that it has written under its CMASK (R249, R250). Bytes stored under a claim that is not
answered are no part of what the home granted (R487). -/
def State.mergeBack (s : State) (u : Nat) (l : L1Line) : State :=
  s.landWrite ((s.holder u).ctx.getD 0) l.key l.line (l.dmask &&& l.cmask) l.data l.pois (s.die (holderDie u)).vclk

/-- A copy that a CA store made in place of one that left silently, its claim unanswered: nothing but what was stored is valid (R251, R487). -/
def L1Line.isNew (l : L1Line) : Bool := l.cmask == 0 && l.vmask &&& ~~~ l.dmask == 0

def State.holders (s : State) (line : Nat) : HomeLine := Tab.get { modeS := false, holders := [] } s.homeDir line
def State.setHolders (s : State) (line : Nat) (r : HomeLine) : State := { s with homeDir := Tab.set s.homeDir line r }

/-- Remove one holder's record; the last removal ends mode S (R249, R250). -/
def State.unhold (s : State) (line u : Nat) : State :=
  let r := s.holders line
  let hs := r.holders.filter fun h => h.1 != u
  if hs.isEmpty then { s with homeDir := Tab.erase s.homeDir line } else s.setHolders line { r with holders := hs }

def State.chan (s : State) (d : BitVec 2) (h : BitVec 3) : List ChanEnt := vget (s.die d).chan [] h
def State.setChan (s : State) (d : BitVec 2) (h : BitVec 3) (l : List ChanEnt) : State :=
  s.setDie d { s.die d with chan := vset (s.die d).chan h l }

/-- The entry is a write of tile `g` to the line. -/
def ChanEnt.ofTile (g : BitVec 8) (line : Nat) : ChanEnt → Option HomeWrite
  | .write w => if w.tile = g && w.line = line then some w else none
  | .close _ => none

def HomeWrite.land (w : HomeWrite) (s : State) : State := s.landWrite w.ctx w.key w.line w.mask w.data w.pois w.vclk

/-- Holder `u` gives up its validity of bytes (R250), but for those it has stored itself and not written back. A holder that has no copy, or
whose copy is new, acknowledges at once, and its stale record goes (R251). -/
def State.invalidate (s : State) (line u : Nat) (m : BitVec 64) : State :=
  match (s.holder u).l1Get line with
  | none => s.unhold line u
  | some l =>
    if l.isNew then s.unhold line u
    else s.modHolder u fun t => t.l1Set { l with vmask := (l.vmask &&& ~~~ m) ||| l.dmask }

/-- Every holder but `g` clears bytes from its VMASK (R250). -/
def State.clearValid (s : State) (line : Nat) (g : Option (BitVec 8)) (m : BitVec 64) : State :=
  (s.holders line).holders.foldl (fun s h => if some h.1 = g.map BitVec.toNat then s else s.invalidate line h.1 m) s

/-- What a recalled tile has sent for the line and its home has not applied yet is applied first, in the order sent, so that one agent's
writes to a location keep their order (R245). -/
def State.pullOwn (s : State) (line u : Nat) : State :=
  let g := BitVec.ofNat 8 u
  let d := dieOf g
  let h := homeOf (64 * line)
  let sent := (s.chan d h).filterMap (ChanEnt.ofTile g line)
  let kept := (s.die d).rim.filter fun w => w.tile == g && w.line == line
  if 256 ≤ u || (sent.isEmpty && kept.isEmpty) then s
  else
    let v := (s.die d).vclk
    let s := s.setChan d h ((s.chan d h).filter fun e => (e.ofTile g line).isNone)
    let s := s.setDie d { s.die d with rim := (s.die d).rim.filter fun w => !(w.tile == g && w.line == line) }
    (sent ++ kept.map fun (w : HomeWrite) => { w with vclk := v }).foldl (fun s (w : HomeWrite) =>
      match w.kind with
      | .wb => w.land s
      | .evict => (w.land s).unhold line u
      | _ => (w.land s).clearValid line (some g) w.mask) s

/-- The first conflicting access to a line in mode P (R249): the holder writes back, its copy becomes invalid, and the
line moves to mode S with no holders. A copy whose claim is unanswered is none that the home has granted (R251, R487). -/
def State.reclassify (s : State) (line : Nat) : State :=
  let r := s.holders line
  let s := r.holders.foldl (fun s h =>
    let s := s.pullOwn line h.1
    match (s.holder h.1).l1Get line with
    | none => s
    | some l =>
      if l.isNew then s
      else (s.mergeBack h.1 l).modHolder h.1 fun t => t.l1Del line) s
  s.setHolders line { modeS := true, holders := [] }

/-- A holder is recalled (R250): its DMASK bytes are written back, and its CMASK becomes 0; a stale record goes (R251). -/
def State.recallOne (s : State) (line u : Nat) : State :=
  match (s.holder u).l1Get line with
  | none => s.unhold line u
  | some l =>
    let s := if l.dmask &&& l.cmask = 0 then s else s.mergeBack u l
    let s := s.modHolder u fun t => t.l1Set { l with cmask := 0, dmask := l.dmask &&& ~~~ l.cmask }
    if l.isNew then s.unhold line u
    else
      let r := s.holders line
      if r.holders.any (fun x => x.1 == u) then
        s.setHolders line { r with holders := updIf r.holders (fun x => x.1 == u) fun x => (x.1, 0) }
      else s

/-- Holders other than `g` whose CMASK overlaps `m` are recalled (R250). -/
def State.recall (s : State) (line : Nat) (g : Option (BitVec 8)) (m : BitVec 64) : State :=
  (s.holders line).holders.foldl (fun s h =>
    if some h.1 = g.map BitVec.toNat || h.2 &&& m = 0 then s
    else (s.pullOwn line h.1).recallOne line h.1) s

/-- The home makes a request for a line conflict-free on a private page (R249). `g` is the requesting tile. -/
def State.homeConflict (s : State) (coh : BitVec 2) (line : Nat) (g : BitVec 8) : State :=
  let r := s.holders line
  if coh = 0 && !r.modeS && r.holders.any (fun h => h.1 != g.toNat) then s.reclassify line else s

/-- The same for a request of the I/O die, which holds no copy (R23). -/
def State.ioConflict (s : State) (coh : BitVec 2) (line : Nat) : State :=
  let r := s.holders line
  if coh = 0 && !r.modeS && !r.holders.isEmpty then s.reclassify line else s

/-- The writer's own copy, where its CMASK overlaps the bytes of its write, is recalled too (R250). What it has stored since is newer than
the write, so it is merged after the write (R245). -/
def State.recallSelf (s : State) (w : HomeWrite) : State :=
  let u := w.tile.toNat
  if (s.holders w.line).holders.any fun h => h.1 == u && h.2 &&& w.mask != 0 then (s.pullOwn w.line u).recallOne w.line u else s

/-- A write arrives at the home (R250, third row): holders that may hold the bytes are recalled, the write is applied,
and the holders' copies of the bytes become invalid, except a WT store's own. On a line in mode P nobody else holds it (R249). -/
def State.applyWrite (s : State) (w : HomeWrite) : State :=
  match w.kind with
  | .wb => w.land s
  | .evict => (w.land s).unhold w.line w.tile.toNat
  | k =>
    if w.coh = 1 then w.land s
    else
      let s := s.homeConflict w.coh w.line w.tile
      if (s.holders w.line).modeS then
        let s := (w.land (s.recall w.line (some w.tile) w.mask)).recallSelf w
        s.clearValid w.line (if k = .wt then some w.tile else none) w.mask
      else w.land s

/-- One entry of a channel is applied at the home (R255, R256). -/
def State.applyEnt (s : State) (d : BitVec 2) (h : BitVec 3) (e : ChanEnt) : State :=
  match e with
  | .write w => s.applyWrite w
  | .close v =>
    let x := s.home h
    s.setHome h { x with closed := vset x.closed d v }

/-- The oldest `n` entries of a die's channel to a home arrive, in the order sent (R255). -/
def State.deliverN (d : BitVec 2) (h : BitVec 3) : (n : Nat) → State → State
  | 0, s => s
  | n + 1, s =>
    match s.chan d h with
    | [] => s
    | e :: r => State.deliverN d h n ((s.setChan d h r).applyEnt d h e)

/-- Everything sent on a die's channel to a home arrives (R255). -/
def State.drainChan (s : State) (d : BitVec 2) (h : BitVec 3) : State := State.deliverN d h (s.chan d h).length s

/-- Everything sent on every channel of a die arrives. -/
def State.drainSent (s : State) (d : BitVec 2) : State :=
  (List.range 8).foldl (fun s h => s.drainChan d (BitVec.ofNat 3 h)) s

/-! ## The request table (R181) -/

/-- Request entries that each tile has, and how many of them its engines may hold together. -/
def reqEntries : Nat := 512
def reqEngines : Nat := 480

/-- The 64-byte lines for which a tile's engines hold an entry: a peer read in flight holds its lines until its answer (R57, R61). A beat that
waits for nothing holds its entries within its step. -/
def State.engHeld (s : State) (g : BitVec 8) : Nat :=
  ((s.dirReqs.filter fun r => r.tile == g && r.op == 5 && r.eng != .salt).map fun r =>
    Nat.max 1 (Nat.min reqEngines ((r.msg.length.toNat + 63) / 64))).sum

/-- The entries of a tile's request table in use: a posted write from leaving the rim until it is performed at its home, a claim until its
answer, and its engines' lines. -/
def State.reqHeld (s : State) (g : BitVec 8) : Nat :=
  ((s.die (dieOf g)).chan.toList.map fun l => (l.filter fun e => match e with | .write w => w.tile == g | .close _ => false).length).sum
    + (s.tile g).claims.length + s.engHeld g

/-- The entries in use and those that the A-stream's posted writes are about to take. -/
def State.reqWanted (s : State) (g : BitVec 8) : Nat :=
  ((s.die (dieOf g)).rim.filter fun w => w.tile == g).length + s.reqHeld g

/-- The A-stream finds no entry for a further line. -/
def State.reqFull (s : State) (g : BitVec 8) : Bool := decide (reqEntries ≤ s.reqWanted g)

/-- An engine finds no entry for `n` further lines. -/
def State.engFull (s : State) (g : BitVec 8) (n : Nat) : Bool :=
  decide (reqEngines < s.engHeld g + n) || decide (reqEntries < s.reqHeld g + n)

/-! ## From a tile to the homes (R252, R256) -/

/-- A write is posted: it waits in its tile's rim (R181). -/
def State.post (s : State) (d : BitVec 2) (w : HomeWrite) : State :=
  s.setDie d { s.die d with rim := (s.die d).rim ++ [w] }

/-- A write leaves its tile for its line's home and carries its die's vector (R256). A tile whose request table is full first waits until
what its die has sent is performed (R181). -/
def State.send (s : State) (d : BitVec 2) (w : HomeWrite) : State :=
  let s := if reqEntries ≤ s.reqHeld w.tile then s.drainSent d else s
  let h := homeOf (64 * w.line)
  s.setChan d h (s.chan d h ++ [.write { w with vclk := (s.die d).vclk }])

/-- The first entry of a list that meets a condition, and the list without it. -/
def takeFirst {α : Type} (p : α → Bool) : List α → Option (α × List α)
  | [] => none
  | x :: r => if p x then some (x, r) else (takeFirst p r).map fun y => (y.1, x :: y.2)

/-- The oldest `n` posted writes of some tiles of a die leave their rims. -/
def State.leaveN (d : BitVec 2) (p : HomeWrite → Bool) : (n : Nat) → State → State
  | 0, s => s
  | n + 1, s =>
    match takeFirst p (s.die d).rim with
    | none => s
    | some (w, r) => State.leaveN d p n ((s.setDie d { s.die d with rim := r }).send d w)

/-- Every posted write of a tile leaves its rim (R252: a release of tile scope). -/
def State.leave (s : State) (g : BitVec 8) : State :=
  State.leaveN (dieOf g) (fun w => w.tile == g) (s.die (dieOf g)).rim.length s

/-- Every write of a die leaves its rim and arrives: every write acknowledged, every CLOSE applied (R252, R262). -/
def State.drainDie (s : State) (d : BitVec 2) : State :=
  (State.leaveN d (fun _ => true) (s.die d).rim.length s).drainSent d

/-- A read that carries vector `v` is served at home `h` (R256): `CLOSED_h[j] ≥ v[j] − 1` for every j. -/
def State.served (s : State) (h : BitVec 3) (v : Vector W64 4) : Bool :=
  (List.range 4).all fun j => decide ((vget v 0 (BitVec.ofNat 2 j)).toNat ≤ (vget (s.home h).closed 0 (BitVec.ofNat 2 j)).toNat + 1)

/-- A line request of tile `g` arrives at its home behind everything its die sent there before it (R255). -/
def State.arrive (s : State) (g : BitVec 8) (line : Nat) : State :=
  (s.leave g).drainChan (dieOf g) (homeOf (64 * line))

/-- OV rises to RV when a read or atomic returns from a home (R256). -/
def State.noteOv (s : State) (g : BitVec 8) (line : Nat) : State :=
  let rv := (s.home (homeOf (64 * line))).rv
  s.modTile g fun t => { t with ov := maxV t.ov rv }

/-! ## Accesses of units outside the tiles -/

/-- The pieces of a byte range that lie in one 64-byte line each: first byte and length. -/
def linePieces (a n : Nat) : List (Nat × Nat) :=
  (linesOf a n).map fun l =>
    let lo := Nat.max a (64 * l)
    (lo, Nat.min (a + n) (64 * l + 64) - lo)

/-- A byte and whether its line is poisoned. -/
abbrev PByte := Byte × Bool

/-- The little-endian number of some bytes, and whether one is poisoned. -/
def pNat (l : List PByte) : Nat × Bool := (leNat (l.map (·.1)), l.any (·.2))

/-- Clean bytes. -/
def clean (l : List Byte) : List PByte := l.map fun b => (b, false)

/-- A byte of a peer page as its package holds it at this read (R364); a sealed page's never changes (R266). Free. -/
def peerByteAt (s : State) (leaf : BitVec 128) (a : Nat) : Byte :=
  if leafSeal leaf then Config.peerSealedByte (leafPkg leaf).toNat a else Config.peerByte (leafPkg leaf).toNat a s.fresh

/-- An access of a unit that belongs to no tile, performed at the home (R23, R77, R84): reads under a leaf entry. -/
def State.readHome (s : State) (leaf : BitVec 128) (pa n : Nat) : List Byte × Bool :=
  if leafPeer leaf then
    ((List.range n).map fun i => peerByteAt s leaf (pa + i), false)
  else s.rdDev (leafKey leaf) pa n

/-- A write of an engine or of an I/O die unit, performed at the home: on a shared page it acts under the third row of
R250, on another page it touches no L1D (R192). Writes of other agents still on their way to the home come later (R260). -/
def State.writeHome (s : State) (ctx : BitVec 16) (leaf : BitVec 128) (pa : Nat) (bs : List Byte) (p : Bool) : State :=
  let s := if leafCoh leaf = 2 then
      (linesOf pa bs.length).foldl (fun s l =>
        let lo := Nat.max pa (64 * l)
        let hi := Nat.min (pa + bs.length) (64 * l + 64)
        let m := byteMask (lo - 64 * l) (hi - lo)
        (s.recall l none m).clearValid l none m) s
    else s
  s.wrDev ctx (leafKey leaf) pa bs p

/-! ## Device addresses in a context -/

/-- Read `n` bytes at a virtual address of a context, at their homes; `none` where a page is not readable. -/
def State.devRead (s : State) (ctx : BitVec 16) (va : W64) (n : Nat) : Option (List PByte) :=
  (linePieces va.toNat n).foldr (fun p acc =>
    match acc, s.xlateNow ctx (BitVec.ofNat 64 p.1) .read with
    | some l, .ok pa leaf =>
      let r := s.readHome leaf pa p.2
      some (r.1.map (fun b => (b, r.2)) ++ l)
    | _, _ => none) (some [])

/-- Every page of a range may be written. -/
def State.devWritable (s : State) (ctx : BitVec 16) (va : W64) (n : Nat) : Bool :=
  (linePieces va.toNat n).all fun p => match s.xlateNow ctx (BitVec.ofNat 64 p.1) .write with | .ok _ _ => true | _ => false

/-- Write bytes at a virtual address of a context, at their homes; a page that is not writable leaves its bytes. -/
def State.devWrite (s : State) (ctx : BitVec 16) (va : W64) (bs : List PByte) : State :=
  (linePieces va.toNat bs.length).foldl (fun s p =>
    match s.xlateNow ctx (BitVec.ofNat 64 p.1) .write with
    | .ok pa leaf =>
      let l := (bs.drop (p.1 - va.toNat)).take p.2
      s.writeHome ctx leaf pa (l.map (·.1)) (l.any (·.2))
    | _ => s) s

/-- Every page of a range may be read. -/
def State.devReadable (s : State) (ctx : BitVec 16) (va : W64) (n : Nat) : Bool :=
  (linePieces va.toNat n).all fun p => match s.xlateNow ctx (BitVec.ofNat 64 p.1) .read with | .ok _ _ => true | _ => false

/-- Read a range at its homes as the NC loads of an A-stream are performed (R23, R191, R249); `none` where a page is not readable. -/
def State.ncRead (s : State) (ctx : BitVec 16) (va : W64) (n : Nat) : Option (List PByte × State) :=
  if !s.devReadable ctx va n then none
  else some ((linePieces va.toNat n).foldl (fun acc p => match acc.2.xlateNow ctx (BitVec.ofNat 64 p.1) .read with
    | .ok pa leaf =>
      let s := if leafPeer leaf then acc.2 else acc.2.ioConflict (leafCoh leaf) (pa / 64)
      let r := s.readHome leaf pa p.2
      (acc.1 ++ r.1.map (fun b => (b, r.2)), s)
    | _ => acc) ([], s))

/-- Write a range at its homes as the NC stores of an A-stream are performed (R23, R191, R249, R250); `none` where a page is not writable. -/
def State.ncWrite (s : State) (ctx : BitVec 16) (va : W64) (bs : List Byte) : Option State :=
  if !s.devWritable ctx va bs.length then none
  else some ((linePieces va.toNat bs.length).foldl (fun s p => match s.xlateNow ctx (BitVec.ofNat 64 p.1) .write with
    | .ok pa leaf =>
      let m := byteMask (pa % 64) p.2
      let s := s.ioConflict (leafCoh leaf) (pa / 64)
      let held := (s.holders (pa / 64)).modeS
      let s := if held then s.recall (pa / 64) none m else s
      let s := s.wrDev ctx (leafKey leaf) pa ((bs.drop (p.1 - va.toNat)).take p.2) false
      if held then s.clearValid (pa / 64) none m else s
    | _ => s) s)

/-! ## The residency table (R148) -/

/-- Entry `h` of the residency table, when it can be read. -/
def State.resEntry (s : State) (h : Nat) : Option (BitVec 512) :=
  (s.devRead 0 (s.resBase + BitVec.ofNat 64 (64 * h)) 64).bind fun l =>
    let v := pNat l
    if v.2 then none else some (BitVec.ofNat 512 v.1)

def resHost (e : BitVec 512) : W64 := e.extractLsb' 448 64
def resVaBase (e : BitVec 512) : W64 := e.extractLsb' 384 64
def resPages (e : BitVec 512) : Nat := (e.extractLsb' 352 32).toNat
def resCtx (e : BitVec 512) : BitVec 16 := e.extractLsb' 336 16
def resClass (e : BitVec 512) : BitVec 6 := e.extractLsb' 330 6
def resKind (e : BitVec 512) : Bool := e.getLsbD 327
def resValid (e : BitVec 512) : Bool := e.getLsbD 326
def resPrio (e : BitVec 512) : BitVec 2 := e.extractLsb' 328 2
def resTier (e : BitVec 512) : BitVec 2 := e.extractLsb' 324 2
def resDie (e : BitVec 512) : BitVec 2 := e.extractLsb' 322 2
def resPort (e : BitVec 512) : BitVec 2 := e.extractLsb' 320 2
def resNext (e : BitVec 512) : BitVec 16 := e.extractLsb' 304 16
def resUsers (e : BitVec 512) : BitVec 16 := e.extractLsb' 288 16

/-- An entry with a field of `w` bits at bit `lo` replaced. -/
def withField (e : BitVec 512) (lo w v : Nat) : BitVec 512 :=
  (e &&& ~~~ BitVec.ofNat 512 ((2 ^ w - 1) * 2 ^ lo)) ||| BitVec.ofNat 512 (v % 2 ^ w * 2 ^ lo)

/-- The device writes fields of entry `h`; an entry that cannot be read stays. -/
def State.modRes (s : State) (h : Nat) (f : BitVec 512 → BitVec 512) : State :=
  match s.resEntry h with
  | none => s
  | some e => s.devWrite 0 (s.resBase + BitVec.ofNat 64 (64 * h)) (clean (leBytes 64 (f e).toNat))

/-- USERS of a launch's handles rises or falls (R150). -/
def State.countUsers (s : State) (hs : List (BitVec 14)) (up : Bool) : State :=
  hs.foldl (fun s h => s.modRes h.toNat fun e =>
    withField e 288 16 (if up then (resUsers e).toNat + 1 else (resUsers e).toNat - 1)) s

end Sys2Proof.Machine
end

