-- ==== Sys2Proof/Machine/Ops.lean ====
section
/-! DEFINITION. The named operations over a tile: registers, program counters, tokens and engine queues; causes,
trap records, delivery and return (R289 to R295); what an issued instruction does to its stream. -/

namespace Sys2Proof.Machine

/-! ## Tile registers -/

/-- An `a` register and its poison; `a0` reads as zero (R156, R157). -/
def Tile.rdA (t : Tile) (r : R5) : W64 × Bool := if r = 0 then (0, false) else (vget t.areg 0 r, t.apois.getLsbD r.toNat)

/-- Write an `a` register and its poison; a write of `a0` is discarded (R157). -/
def Tile.wrA (t : Tile) (r : R5) (v : W64) (p : Bool) : Tile :=
  if r = 0 then t else { t with areg := vset t.areg r v, apois := setBit t.apois r.toNat p }

def Tile.pc (t : Tile) : Stream → Pc
  | .a => t.apc
  | .x => t.xpc
/-- A stream goes on at a word: the A-stream has no read in wait from the word before (R256). -/
def Tile.setPc (t : Tile) (st : Stream) (p : Pc) : Tile :=
  match st with
  | .a => { t with apc := p, rdV := none }
  | .x => { t with xpc := p }
def Tile.csr (t : Tile) : Stream → StreamCsr
  | .a => t.acsr
  | .x => t.xcsr
def Tile.setCsr (t : Tile) (st : Stream) (c : StreamCsr) : Tile :=
  match st with
  | .a => { t with acsr := c }
  | .x => { t with xcsr := c }
def Tile.stepped (t : Tile) : Stream → Bool
  | .a => t.astep
  | .x => t.xstep
def Tile.setStepped (t : Tile) (st : Stream) : Tile :=
  match st with
  | .a => { t with astep := true }
  | .x => { t with xstep := true }

/-- The tile has cycles: it runs an item and its clock is not stopped (R170). -/
def Tile.live (t : Tile) : Bool := t.ist == .running && t.stop == none && t.capturing == none

/-! ## Engine queues and tokens (R165, R166) -/

def Tile.eng (t : Tile) : Eng → EngQ
  | .copy => t.ecopy
  | .gather => t.egath
  | .matrix => t.emat
  | .coll => t.ecoll
  | .salt => t.esalt
def Tile.setEng (t : Tile) (e : Eng) (q : EngQ) : Tile :=
  match e with
  | .copy => { t with ecopy := q }
  | .gather => { t with egath := q }
  | .matrix => { t with emat := q }
  | .coll => { t with ecoll := q }
  | .salt => { t with esalt := q }

/-- Every engine of a tile. -/
def allEngs : List Eng := [.copy, .gather, .matrix, .coll, .salt]

/-- The stream that issues an engine's commands (R165). -/
def Eng.stream : Eng → Stream
  | .matrix => .x
  | _ => .a

/-- ENGINE field of the trap record (R291). -/
def Eng.code : Eng → BitVec 3
  | .copy => 1
  | .gather => 2
  | .matrix => 3
  | .coll => 4
  | .salt => 5

def Tile.token (t : Tile) (k : R5) : Token := vget t.tk { pending := false, count := 0 } k

/-- A token is pending; `tk0` is always complete (R156). -/
def Tile.tkPending (t : Tile) (k : R5) : Bool := k != 0 && (t.token k).pending

/-- A token becomes pending (R166); `tk0` never does (R157). -/
def Tile.tkProduce (t : Tile) (k : R5) : Tile :=
  if k = 0 then t else { t with tk := vset t.tk k { t.token k with pending := true } }

/-- Every command that waits for token `k` stops waiting for it (R166). -/
def EngQ.strike (q : EngQ) (k : R5) : EngQ :=
  { q with waiting := q.waiting.map fun c => { c with cons := c.cons.filter (· != k) } }

/-- Whether bit `i` of a DRAIN's mask names an engine (R435). -/
def Eng.inMask (e : Eng) (imm : BitVec 17) : Bool :=
  match e with
  | .copy => imm.getLsbD 0
  | .gather => imm.getLsbD 1
  | .matrix => imm.getLsbD 2
  | .coll => imm.getLsbD 3
  | .salt => imm.getLsbD 4

/-- `XFNC` and `DRAIN` commands whose consumed tokens are complete are accepted (R434, R435): `prog` becomes 1, and a
`DRAIN` notes the commands that the masked engines have accepted. -/
def Tile.acceptLoose (t : Tile) : Tile :=
  { t with loose := t.loose.map fun c =>
      if c.prog = 0 && c.cons.isEmpty then
        { c with
          prog := 1
          waits := if c.op = .drain then
              allEngs.flatMap fun e => if Eng.inMask e c.imm then (t.eng e).running.map fun x => (e, x.seq) else []
            else [] }
      else c }

/-- A token completes and its count rises by 1 modulo 2^16 (R166); no token records an untracked command (R157). -/
def Tile.tkComplete (t : Tile) (k : R5) : Tile :=
  if k = 0 then t
  else
    Tile.acceptLoose { t with
      tk := vset t.tk k { pending := false, count := (t.token k).count + 1 }
      ecopy := t.ecopy.strike k
      egath := t.egath.strike k
      emat := t.emat.strike k
      ecoll := t.ecoll.strike k
      esalt := t.esalt.strike k
      loose := t.loose.map fun c => { c with cons := c.cons.filter (· != k) } }

/-- A command's token completes: at once, or in the arrival log of a tile that is stopped or being captured (R296, R430). -/
def Tile.tkDone (t : Tile) (k : R5) : Tile :=
  if t.stop.isSome || t.capturing.isSome then
    (if k = 0 then t else { t with alog := t.alog ++ [.token k] })
  else t.tkComplete k

/-- TKPEND (R291). -/
def Tile.tkMask (t : Tile) : BitVec 32 :=
  (List.range 32).foldl (fun (m : BitVec 32) i => setBit m i (t.tkPending (BitVec.ofNat 5 i))) 0

/-! ## Performance counters (R453 to R456) -/

/-- Counter `j` adds 1; a wrap sets PMOVF and, with IE, leaves a cause 0x71 to be delivered (R456). -/
def Tile.bump (t : Tile) (j : BitVec 3) : Tile :=
  let v := vget t.pmc 0 j + 1
  let t := { t with pmc := vset t.pmc j v }
  if v = 0 then
    { t with pmovf := setBit t.pmovf j.toNat true
             pmwrap := if (vget t.pmsel 0 j).getLsbD 8 then t.pmwrap ++ [j] else t.pmwrap }
  else t

/-- Event `ev` happens, to a stream where its row of R455 names one: each counter that selects it counts. -/
def Tile.count (t : Tile) (ev : Nat) (st : Option Stream) : Tile :=
  [(0 : BitVec 3), 1, 2, 3, 4, 5, 6, 7].foldl (fun t j =>
    let sel := vget t.pmsel 0 j
    let mine := match st with
      | none => true
      | some st => sel.getLsbD 9 == (st == .x)
    if (sel.extractLsb' 0 8).toNat == ev && ev != 0 && mine then t.bump j else t) t

/-! ## Causes (R289, R290) -/

inductive Disp where
  | d | c | e
  deriving DecidableEq, Repr

/-- The disposition of a cause code (R290); 0x53 takes its inner cause's, which the caller supplies. -/
def dispOf (c : Cause) : Disp :=
  match c.toNat with
  | 0x2A | 0x2B | 0x2C | 0x2D | 0x2E | 0x30 | 0x31 | 0x40 | 0x41 | 0x42 | 0x43 | 0x44 | 0x6A => .e
  | 0x73 | 0x75 | 0x77 => .c
  | _ => .d

/-- A cause as it is raised: code, faulting address and its kind (R318), the half of a two-page access (R202), the
engine and command of an engine cause, and the slot and inner cause of 0x53. -/
structure Raise where
  code : Cause
  tval : W64 := 0
  aKind : BitVec 2 := 0
  half : Bool := false
  engine : Option Eng := none
  seq : BitVec 32 := 0
  rslot : R5 := 0
  inner : Cause := 0
  /-- IMM10 of a TRAP or BRK (R459). -/
  imm : BitVec 10 := 0
  /-- The word that takes the trap is a breakpoint slot's patch word: SKIP is set at delivery (R477). -/
  skip : Bool := false

/-- The disposition of a cause as raised (R289, R309): an engine's D is treated as C, except 0x50. -/
def Raise.disp (r : Raise) : Disp :=
  let own := if r.code = 0x53 then dispOf r.inner else dispOf r.code
  if own = .d && r.engine.isSome && r.code != 0x50 then .c else own

/-- TVAL (R291). -/
def Raise.tvalBits (r : Raise) : W64 :=
  if r.code = 0x53 then
    (r.tval &&& ~~~ (0x7FFF : W64)) ||| (r.inner.setWidth 64 <<< 8) ||| r.rslot.setWidth 64
  else if r.code = 0x50 then r.seq.setWidth 64
  else r.tval

/-- The 512-bit trap record, a consistent cut of the tile (R291). -/
def trapRecord (s : State) (g : BitVec 8) (st : Stream) (r : Raise) : BitVec 512 :=
  let t := s.tile g
  s.devtime ++ t.cyc ++ t.ecopy.seq ++ t.egath.seq ++ t.emat.seq ++ t.ecoll.seq ++ t.esalt.seq ++ t.tkMask
    ++ r.tvalBits ++ t.apc ++ t.xpc ++ r.rslot ++ g ++ t.ctx.getD 0
    ++ ((r.engine.map Eng.code).getD 0) ++ BitVec.ofBool (st == .x) ++ BitVec.ofBool r.half ++ (0 : BitVec 59) ++ r.code

/-- The causes that are consuming uses of poison (R314). -/
def consumesPoison (c : Cause) : Bool := (0x2A ≤ c.toNat && c.toNat ≤ 0x31) || c == 0x6A

/-- The error record of a cause (R318). -/
def causeRec (s : State) (g : BitVec 8) (st : Stream) (r : Raise) (ended : Bool) : ErrRec :=
  let t := s.tile g
  { addr := if r.aKind = 0 then 0 else r.tvalBits, info := r.tvalBits, ctx := t.ctx.getD 0, srcId := g.setWidth 16
    srcKind := match r.engine with
      | none => (match st with | .a => 0 | .x => 1)
      | some .coll | some .salt => 3
      | some _ => 2
    sev := if consumesPoison r.code then 2 else 3
    aKind := r.aKind, cause := some r.code, ended := ended, apc := t.apc, xpc := t.xpc, engSeq := r.seq
    engine := (r.engine.map Eng.code).getD 0 }

/-! ## Ending a context (R295) -/

/-- STATUS of the LAUNCH packets of an ended context (R295). -/
def endStatus (c : Cause) : Byte :=
  if (0x2A ≤ c.toNat && c.toNat ≤ 0x2E) || c == 0x30 || c == 0x31 || (0x40 ≤ c.toNat && c.toNat ≤ 0x44) || c == 0x6A
  then 0x04 else 0x05

/-- Every command of a tile, waiting or in progress. -/
def Tile.cmds (t : Tile) : List Cmd := (allEngs.flatMap fun e => (t.eng e).waiting ++ (t.eng e).running) ++ t.loose

/-- What a command holds is given up: its in-flight references (R227), and extents it has allocated in vain (R437). -/
def State.dropHolds (s : State) (c : Cmd) : State := c.refs.foldl State.decRef (s.freeGroups c.ext)

/-- Requests that a tile's commands have outstanding outside it are dropped: a late answer is discarded (R61, R296). -/
def State.forgetAsks (s : State) (g : BitVec 8) : State :=
  let d := s.die (dieOf g)
  let s := s.setDie (dieOf g) { d with rake := d.rake.filter fun r => r.tile != g }
  { s with dirReqs := s.dirReqs.filter fun r => r.tile != g || r.op == 0x07 }

/-- A tile is captured and discarded, or leaves its context: it is free, in class 0, and its commands drop their
in-flight references (R227, R295, R39). -/
def State.discardTile (s : State) (g : BitVec 8) : State :=
  let t := s.tile g
  let s := t.cmds.foldl State.dropHolds (s.forgetAsks g)
  let s := { s with held := if s.held = some g then none else s.held }
  s.setTile g Tile.reset

/-- The numbers of the tiles that meet a condition, ascending. -/
def State.tilesWith (s : State) (p : Tile → Bool) : List (BitVec 8) :=
  (s.tiles.filter fun e => p e.2).map fun e => BitVec.ofNat 8 e.1

/-- A capture image is discarded: its commands drop what they hold, and its granules are free (R227, R295, R298). -/
def State.dropImage (s : State) (h : Nat) : State :=
  match Tab.get? s.images h with
  | none => s
  | some i =>
    let s := i.tile.cmds.foldl State.dropHolds s
    { s.freeRun i.grans with images := Tab.erase s.images h }

/-- An image stands in the image area of its die (R298): its granules carry its context's tag. -/
def State.placeImage (s : State) (i : Image) : State :=
  let run := s.imageRun i.srctile ((i.bytes + 4095) / 4096)
  let s := s.tagRun i.ctx run
  { s with images := Tab.set s.images i.handle.toNat { i with grans := run, hbm := none } }

/-- Firmware moves a completed image to HBM whole (R298): its granules are free again. -/
def State.imageOut (s : State) (h : BitVec 32) (pa : Nat) : State :=
  match Tab.get? s.images h.toNat with
  | none => s
  | some i =>
    if i.hbm.isSome || 2 ^ 39 < pa + i.bytes then s
    else
      let s := (s.wrDev 0 0 pa i.stored false).freeRun i.grans
      { s with images := Tab.set s.images h.toNat { i with grans := [], hbm := some pa } }

/-- An image in HBM is taken back into the image area, where it has room (R298); its tags are checked over the bytes that stand there (R300). -/
def State.imageIn (s : State) (h : BitVec 32) : State :=
  match Tab.get? s.images h.toNat with
  | none => s
  | some i => match i.hbm with
    | none => s
    | some pa =>
      if s.imageRoom (BitVec.ofNat 2 (h.toNat / 2 ^ 30)) < (i.bytes + 4095) / 4096 then s
      else
        let b := s.rdDev 0 pa i.bytes
        let ok := !b.2 && tagAgrees i.keyId (b.1.take i.ownBytes) && (i.clus.isNone || tagAgrees i.keyId (b.1.drop i.ownBytes))
        s.placeImage { i with tagOk := i.tagOk && ok }

/-- A held request that has gone is held no more (R40, R43). -/
def State.settleHeld (s : State) : State :=
  { s with held := s.held.filter fun g => (s.tile g).sreq.isSome }

/-- The pushers of a launch's stage queue entries, renamed (R124). -/
def Launch.mapPushers (l : Launch) (f : Option Nat → Option Nat) : Launch :=
  { l with dies := l.dies.map fun (x : LaunchDie) => { x with queues := x.queues.map fun (q : SqInst) =>
    { q with entries := q.entries.map fun (e : SqEntry) => { e with pusher := f e.pusher } } } }

/-- A launch's packet completes and the launch leaves the package (R137, R150, R295): tiles that were given to it are not
its any more. -/
def State.finishLaunch (s : State) (l : Launch) (status : Byte) : State :=
  let s := if l.counted then s.countUsers l.handles false else s
  let s := (s.tilesWith fun t => t.launch == some l.id).foldl (fun s g => s.modTile g fun t =>
    { t with launch := none, cur := none, ist := .none, item := none, resume := none, sclass := 0, sreq := none }) s
  let s := s.settleHeld
  let s := s.complete l.packet status (BitVec.ofNat 64 l.retired) (status = 0x00)
  { s with launches := Tab.erase s.launches l.id }

/-- Ending a context (R295): its tiles are discarded, its Saltern references released, its queues disabled, its
launches completed, its images discarded, and its granules unwritten again (R113). Firmware context 0 keeps its translation (log entry 8). -/
def State.endContext (s : State) (c : BitVec 16) (cause : Cause) : State :=
  let s := (s.tilesWith fun t => t.ctx == some c).foldl State.discardTile s
  let s := s.dropAllRefs c
  let s := { s with queues := s.queues.map fun (e : Nat × Queue) => (e.1, if e.2.ctx == c then { e.2 with en := false } else e.2) }
  let s := (s.launches.filter fun e => e.2.ctx == c).foldl (fun s e => s.finishLaunch e.2 (endStatus cause)) s
  let s := ((s.images.filter fun e => e.2.ctx == c).map (·.1)).foldl State.dropImage s
  let s := { s with gran := s.gran.filter fun e => e.2 != c }
  if c = 0 then s.modCtx 0 fun x => { x with seals := [], hasCk := false, undo := [], pendE := none, rolling := false }
  else { s with ctxs := Tab.erase s.ctxs c.toNat }

/-! ## Taking an exception (R291 to R294) -/

/-- Stop a tile and, with a cohort, its whole group (R294). -/
def State.stopGroup (s : State) (g : BitVec 8) : State :=
  let t := s.tile g
  let same (u : Tile) : Bool := match t.item, u.item with
    | some i, some j => i.group.isSome && i.group == j.group && i.launch == j.launch && i.stage == j.stage
    | _, _ => false
  let s := s.modTile g fun t => { t with ist := .stopped }
  (s.tilesWith fun u => same u && u.ist == .running).foldl (fun s h => s.modTile h fun t => { t with ist := .stopped }) s

/-- Deliver a cause to the charged stream's handler (R292, R459, R477). -/
def Tile.deliver (t : Tile) (st : Stream) (tr : BitVec 512) (r : Raise) : Tile :=
  let c := t.csr st
  let c := { c with trec := tr, tepc := t.pc st, tin := true, code := r.imm, skip := c.skip || r.skip }
  (t.setCsr st c).setPc st c.tvec

/-- The tile's handler takes the cause: disposition D, TVEC nonzero, TSTAT.IN 0 (R289, R292, R293). -/
def Tile.handles (t : Tile) (st : Stream) (r : Raise) : Bool :=
  r.disp == .d && (t.csr st).tvec != 0 && !(t.csr st).tin

/-- A context without checkpoints is ended under C; with them it is rolled back (R289, R319, R321). -/
def State.rollsBack (s : State) (c : BitVec 16) : Bool :=
  match s.ctx? c with
  | some x => x.hasCk && !x.rolling && x.pendE.isNone
  | none => false

/-- A cause is raised on a tile, charged to a stream (R289 to R295): delivered to the stream's handler, or it stops the
tile and ends the context, or it stops the tile until the context is rolled back. A cause that consumes poison
writes an error record even when it is delivered (R314). -/
def State.takeCause (s : State) (g : BitVec 8) (st : Stream) (r : Raise) : State :=
  let t := s.tile g
  let rec_ := trapRecord s g st r
  if t.handles st r then
    let s := if consumesPoison r.code then s.raiseErr (causeRec s g st r false) else s
    s.setTile g ((t.deliver st rec_ r).count 0x0D (some st))
  else
    let c := t.ctx.getD 0
    let back := r.disp == .e && s.rollsBack c
    let s := s.raiseErr (causeRec s g st r (!back))
    let s := s.setTile g (t.setCsr st { t.csr st with trec := rec_ })
    if back then
      (s.stopGroup g).modCtx c fun x => { x with pendE := some (r.code, rec_) }
    else (s.stopGroup g).endContext c r.code

/-- The return from a trap (R293, R460): IN becomes 0 and the PC becomes TEPC; engine queues that a halt holds for the
stream resume (R423, R431). -/
def Tile.resumeEngines (t : Tile) (st : Stream) : Tile :=
  allEngs.foldl (fun t e => if Eng.stream e = st then t.setEng e { t.eng e with halted := false } else t) t

def Tile.trapReturn (t : Tile) (st : Stream) : Tile :=
  let c := t.csr st
  let t := if c.tin then t.resumeEngines st else t
  (t.setCsr st { c with tin := false }).setPc st c.tepc

/-! ## Issue -/

/-- What a stalled stream waits for (R455): a queue, a token, or anything else. -/
inductive WaitWhy where
  | queue | token | other
  deriving DecidableEq, Repr

/-- Why an instruction does not complete: it waits, in a state that may hold a request it has made, or it raises a
cause, with what it has done before the cause where its entry says so (R8). -/
inductive Stop where
  | wait (s : State) (why : WaitWhy)
  | trap (s : State) (r : Raise)

abbrev Res (α : Type) := Except Stop α

def waitIn {α : Type} (s : State) (why : WaitWhy := .other) : Res α := .error (.wait s why)
def trapIn {α : Type} (s : State) (r : Raise) : Res α := .error (.trap s r)

/-- Raise a cause with no address. -/
def raiseIf (b : Bool) (s : State) (c : Cause) : Res Unit := if b then trapIn s { code := c } else .ok ()

/-- Wait while a condition holds. -/
def waitIf (b : Bool) (s : State) : Res Unit := if b then waitIn s else .ok ()

/-- The words of the issuing stream that a program counter moves past. -/
def Tile.advance (t : Tile) (st : Stream) (n : Nat) : Tile := t.setPc st (t.pc st + BitVec.ofNat 14 n)

/-- X-cycles that pass in the X-stream at an issue (R170); none in the A-stream. -/
def Tile.passX (t : Tile) (st : Stream) (n : Nat) : Tile :=
  match st with
  | .a => t
  | .x => { t with xcyc := t.xcyc + n }

/-- The current class of the Sluice that a tile is in permits a unit (R37, R38): else cause 0x74. -/
def needClass (s : State) (g : BitVec 8) (n : Nat) : Res Unit := raiseIf ((s.tile g).sclass < n) s 0x74

end Sys2Proof.Machine
end

