-- ==== Sys2Proof/Machine/Memory.lean ====
section
/-! DEFINITION. The L1D (R190, R191) and the A-stream's accesses (R364). -/

namespace Sys2Proof.Machine

/-! ## The L1D (R190, R191, R250, R487) -/

def isPeerLine (line : Nat) : Bool := decide (2 ^ 58 ≤ line)

/-- A write-back of a copy's DMASK bytes leaves for the home. -/
def wbOf (s : State) (g : BitVec 8) (l : L1Line) (k : WriteKind) : HomeWrite :=
  { line := l.line, mask := l.dmask, data := l.data, pois := l.pois, key := l.key, coh := l.coh
    ctx := (s.tile g).ctx.getD 0, tile := g, kind := k, vclk := (s.die (dieOf g)).vclk }

/-- A copy leaves the L1D: written back if dirty, else without notice (R190, R250, R251). -/
def State.l1Drop (s : State) (g : BitVec 8) (l : L1Line) : State :=
  let s := if l.dmask = 0 then s else s.post (dieOf g) (wbOf s g l .evict)
  s.modTile g fun t => t.l1Del l.line

/-- The copy that the next fill of a set replaces (R190, R191): one that an ST load has left least recently used, else, when the set is full,
the least recently used. -/
def Tile.l1Victim (t : Tile) (line : Nat) : Option L1Line :=
  let w := t.l1.filter fun l => l.line % 256 == line % 256
  let least := w.foldl (fun b l => match b with
    | none => some l
    | some x => if l.lru < x.lru then some l else some x) none
  if w.length < 4 then least.filter fun l => l.lru == 0 else least

/-- Make a copy the most recently used. -/
def Tile.l1Touch (t : Tile) (line : Nat) : Tile :=
  { t with l1use := t.l1use + 1, l1 := updIf t.l1 (fun l => l.line == line) fun l => { l with lru := t.l1use + 1 } }

/-- Room for a line in its set: the victim leaves; a victim whose claim is unanswered holds the set (R487). -/
def State.l1Room (s : State) (g : BitVec 8) (line : Nat) : Res State :=
  let t := s.tile g
  if (t.l1Get line).isSome then .ok s
  else match t.l1Victim line with
    | none => .ok s
    | some v => if t.claims.any (fun c => c.line == v.line) then waitIn s else .ok (s.l1Drop g v)

/-- The bytes outside every CMASK that holders other than `g` have. -/
def othersFree (r : HomeLine) (g : BitVec 8) : BitVec 64 :=
  ~~~ (r.holders.foldl (fun m h => if h.1 = g.toNat then m else m ||| h.2) (0 : BitVec 64))

/-- A CA load's fill at the home (R248 to R250): the bytes of the line that become valid, and the CMASK. -/
def State.homeFill (s : State) (coh : BitVec 2) (line : Nat) (g : BitVec 8) (m : BitVec 64) :
    State × BitVec 64 × BitVec 64 :=
  if coh = 1 then (s, BitVec.allOnes 64, 0)
  else
    let s := s.homeConflict coh line g
    let r := s.holders line
    if coh = 0 && !r.modeS then
      (s.setHolders line { modeS := false, holders := [(g.toNat, BitVec.allOnes 64)] }, BitVec.allOnes 64, BitVec.allOnes 64)
    else
      let s := s.recall line (some g) m
      let r := s.holders line
      let cm := ((r.holders.find? fun h => h.1 == g.toNat).map (·.2)).getD 0
      let hs := if r.holders.any (fun h => h.1 == g.toNat) then r.holders else r.holders ++ [(g.toNat, 0)]
      (s.setHolders line { modeS := true, holders := hs }, othersFree r g, cm)

/-- A CA store's claim at the home (R249, R250, R487): the bytes that the answer makes valid, and the CMASK granted. -/
def State.homeClaim (s : State) (coh : BitVec 2) (line : Nat) (g : BitVec 8) (m : BitVec 64) :
    State × BitVec 64 × BitVec 64 :=
  let s := s.homeConflict coh line g
  let r := s.holders line
  if coh = 0 && !r.modeS then
    (s.setHolders line { modeS := false, holders := [(g.toNat, BitVec.allOnes 64)] }, BitVec.allOnes 64, BitVec.allOnes 64)
  else
    let s := (s.recall line (some g) m).clearValid line (some g) m
    let r := s.holders line
    let cm := ((r.holders.find? fun h => h.1 == g.toNat).map (·.2)).getD 0 ||| m
    let hs := r.holders.filter (fun h => h.1 != g.toNat) ++ [(g.toNat, cm)]
    (s.setHolders line { modeS := true, holders := hs }, othersFree r g, cm)

/-- A copy of a line refreshed from the home: bytes outside DMASK come from there (R250, R487). -/
def State.l1Refresh (s : State) (g : BitVec 8) (key : BitVec 12) (coh : BitVec 2) (line : Nat)
    (valid cm : BitVec 64) (lruNew : Option Nat) : State :=
  let d := s.rdLine key line
  s.modTile g fun t =>
    let old := t.l1Get line
    let dm := (old.map (·.dmask)).getD 0
    let base := (old.map (·.data)).getD 0
    let l : L1Line :=
      { line := line, data := mergeLine dm base d.1, pois := d.2 || ((old.map (·.pois)).getD false)
        vmask := valid ||| dm, cmask := cm, dmask := dm, key := key, coh := coh
        lru := lruNew.getD ((old.map (·.lru)).getD 0) }
    t.l1Set l

/-! ## A-stream accesses (R191, R364) -/

/-- Wait for the walk of an address that misses. -/
def State.waitWalk (s : State) (g : BitVec 8) (va : W64) (a : Acc) (half : Bool) : Stop :=
  .wait (s.modTile g fun t => t.askWalk
    { ctx := t.ctx.getD 0, va := va, acc := a, waiter := .stream, half := half }) .other

/-- A request of the tile needs an entry of its rim's table: with none free it waits, a counted cycle (R181, R455). -/
def State.needEntry (s : State) (g : BitVec 8) : Res Unit :=
  if s.reqFull g then waitIn (s.modTile g fun t => t.count 0x0A none) else .ok ()

/-- A not-present translation of the A-stream: the tile freezes and the access is presented again (R199, R200). -/
def State.freeze (s : State) (g : BitVec 8) (ws : List Walk) : State :=
  s.modTile g fun t => { t with stop := some .notPresent, faults := t.faults ++ ws, reqCred := 0 }.count 0x0B none

/-- Translate an access of the A-stream that lies in one page (R197): place and leaf. -/
def State.xlA (s : State) (g : BitVec 8) (va : W64) (a : Acc) : Res (Nat × BitVec 128) :=
  let t := s.tile g
  match s.xlate t (t.ctx.getD 0) va a with
  | .ok pa l => .ok (pa, l)
  | .cause c => trapIn s { code := c, tval := va, aKind := 2 }
  | .absent => waitIn (s.freeze g [{ ctx := t.ctx.getD 0, va := va, acc := a, waiter := .stream, half := false }])
  | .miss => .error (s.waitWalk g va a false)

/-- Translate an access whose bytes may span two pages: both halves pass before anything is performed (R202). -/
def State.xlA2 (s : State) (g : BitVec 8) (va : W64) (n : Nat) (a : Acc) : Res Unit :=
  let t := s.tile g
  let ctx := t.ctx.getD 0
  let last := va + BitVec.ofNat 64 (n - 1)
  if va.toNat / 2 ^ 16 = last.toNat / 2 ^ 16 then (s.xlA g va a).map fun _ => ()
  else
    let hi : W64 := (last >>> 16) <<< 16
    let w (v : W64) (h : Bool) : Walk := { ctx := ctx, va := v, acc := a, waiter := .stream, half := h }
    match s.xlate t ctx va a, s.xlate t ctx hi a with
    | .cause c, _ => trapIn s { code := c, tval := va, aKind := 2 }
    | .absent, .absent => waitIn (s.freeze g [w va false, w hi true])
    | .absent, _ => waitIn (s.freeze g [w va false])
    | .miss, .miss => waitIn (s.modTile g fun t => (t.askWalk (w va false)).askWalk (w hi true))
    | .miss, _ => waitIn (s.modTile g fun t => t.askWalk (w va false))
    | .ok _ _, .cause c => trapIn s { code := c, tval := hi, aKind := 2, half := true }
    | .ok _ _, .absent => waitIn (s.freeze g [w hi true])
    | .ok _ _, .miss => waitIn (s.modTile g fun t => t.askWalk (w hi true))
    | .ok _ _, .ok _ _ => .ok ()

/-- Every dirty copy of a tile is written back, and stays valid and clean (R252, R262). -/
def State.dirtyBack (s : State) (g : BitVec 8) : State :=
  let ls := (s.tile g).l1.filter fun l => l.dmask != 0
  let s := ls.foldl (fun s l => s.post (dieOf g) (wbOf s g l .wb)) s
  s.modTile g fun t => { t with l1 := t.l1.map fun l => { l with dmask := 0 } }

/-- The epoch step of a package-scope release (R256). -/
def State.epochStep (s : State) (d : BitVec 2) : State :=
  let x := s.die d
  let e := vget x.vclk 0 d
  s.setDie d { x with vclk := vset x.vclk d (e + 1), chan := x.chan.map fun l => l ++ [.close e] }

/-- The release effects of cluster scope and wider, performed (R252). -/
def State.releaseNow (s : State) (g : BitVec 8) (scope : BitVec 2) : State :=
  let d := dieOf g
  let s := ((s.dirtyBack g).leave g).drainChan d (BitVec.ofNat 3 d.toNat)
  if scope = 3 then s.epochStep d else s

/-- The tile's pending releases, performed in their order. -/
def State.performReleases (s : State) (g : BitVec 8) : State :=
  ((s.tile g).relPend.foldl (fun s sc => s.releaseNow g sc) s).modTile g fun t => { t with relPend := [] }

/-- Pending releases complete when the tile's claims are answered; the stores and atomics that they hold back wait for them (R252). -/
def State.settleRelease (s : State) (g : BitVec 8) : Res State :=
  let t := s.tile g
  if t.relPend.isEmpty then .ok s
  else if t.claims.isEmpty then .ok (s.performReleases g)
  else waitIn s

/-- The release part of a fence or atomic in the A-stream (R252): at tile scope earlier stores leave the rim; a wider one whose tile has
claims unanswered is pending until they are answered. -/
def State.release (s : State) (g : BitVec 8) (scope : BitVec 2) : State :=
  if scope = 0 then s.leave g
  else if (s.tile g).claims.isEmpty then (s.performReleases g).releaseNow g scope
  else s.modTile g fun t => { t with relPend := t.relPend ++ [scope] }

/-- Whether a line's home is on a die (R252); peer, CXL and other dies' lines are off-die. -/
def ownDie (d : BitVec 2) (line : Nat) : Bool := !isPeerLine line && homeOf (64 * line) == BitVec.ofNat 3 d.toNat

/-- The acquire part of a fence or atomic in the A-stream (R252, R256). -/
def State.acquire (s : State) (g : BitVec 8) (scope : BitVec 2) : State :=
  let d := dieOf g
  let keep (l : L1Line) : L1Line := { l with vmask := l.vmask &&& l.dmask }
  match scope.toNat with
  | 0 => s
  | 3 =>
    let x := s.die d
    let s := s.setDie d { x with vclk := maxV x.vclk (s.tile g).ov }
    s.modTile g fun t => { t with l1 := t.l1.map keep }
  | _ => s.modTile g fun t => { t with l1 := t.l1.map fun l => if ownDie d l.line then l else keep l }

/-- Bytes of a line as an access of `n` bytes at offset `off` reads them. -/
def lineSlice (v : BitVec 512) (off n : Nat) : Nat := v.toNat / 2 ^ (8 * off) % 2 ^ (8 * n)

/-- A peer page's line: what another package's memory holds (R364). Free. -/
def peerLine (s : State) (leaf : BitVec 128) (pa : Nat) : BitVec 512 :=
  lineVal ((List.range 64).map fun i => peerByteAt s leaf (pa / 64 * 64 + i))

/-- A read or atomic of the A-stream reaches its line's home, and is held there until every epoch that its vector names is closed. It takes
the vector when it issues and keeps it while it waits (R256). -/
def State.reachHome (s : State) (g : BitVec 8) (line : Nat) : Res State :=
  let s := s.arrive g line
  let v := (s.tile g).rdV.getD (s.die (dieOf g)).vclk
  if s.served (homeOf (64 * line)) v then .ok s else waitIn (s.modTile g fun t => { t with rdV := some v })

/-- A load of `n` bytes that lie in one line, at a translated place, under a POL (R191, R364): value, poison, state. -/
def State.loadAt (s : State) (g : BitVec 8) (pa : Nat) (leaf : BitVec 128) (n : Nat) (pol : BitVec 2) :
    Res (Nat × Bool × State) :=
  let line := lineNo leaf pa
  let off := pa % 64
  let m := byteMask off n
  let coh := leafCoh leaf
  let key := leafKey leaf
  let t := s.tile g
  if leafPeer leaf then
    match t.l1Get line, pol.toNat with
    | some l, p =>
      if p = 2 then
        let v := peerLine s leaf pa
        .ok (lineSlice v off n, false, { (s.modTile g fun t => t.l1Del line) with fresh := s.fresh + 1 })
      else .ok (lineSlice l.data off n, l.pois, s.modTile g fun t => if p = 3 then t else t.l1Touch line)
    | none, p => do
      let v := peerLine s leaf pa
      let s1 := { s with fresh := s.fresh + 1 }
      if p = 2 then .ok (lineSlice v off n, false, s1)
      else
        let s1 ← s1.l1Room g line
        let lru := if p = 3 then 0 else (s1.tile g).l1use + 1
        let l : L1Line := { line := line, data := v, pois := false, vmask := BitVec.allOnes 64, cmask := 0, dmask := 0
                            key := key, coh := 1, lru := lru }
        .ok (lineSlice v off n, false, s1.modTile g fun t => { t.l1Set l with l1use := t.l1use + 1 })
  else if pol = 2 then do
    waitIf (t.claims.any fun c => c.line == line) s
    s.needEntry g
    let s := match t.l1Get line with | some l => s.l1Drop g l | none => s
    let s ← s.reachHome g line
    let s := if coh = 1 then s else s.homeConflict coh line g
    let d := s.rdLine key line
    .ok (lineSlice d.1 off n, d.2, s.noteOv g line)
  else
    match t.l1Get line with
    | some l =>
      if l.vmask &&& m = m && !(pol == 1 && coh != 2) then
        .ok (lineSlice l.data off n, l.pois, s.modTile g fun t => if pol = 3 then t else t.l1Touch line)
      else do
        waitIf (t.claims.any fun c => c.line == line) s
        s.needEntry g
        let s ← s.reachHome g line
        let (s, v, cm) := s.homeFill coh line g m
        let s := s.l1Refresh g key coh line v cm none
        let s := s.modTile g fun t => if pol = 3 then t.count 0x09 none else (t.l1Touch line).count 0x09 none
        let l := (s.tile g).l1Get line
        .ok (lineSlice ((l.map (·.data)).getD 0) off n, (l.map (·.pois)).getD false, s.noteOv g line)
    | none => do
      s.needEntry g
      let s ← s.l1Room g line
      let s ← s.reachHome g line
      let (s, v, cm) := s.homeFill coh line g m
      let s := s.l1Refresh g key coh line v cm (some (if pol = 3 then 0 else (s.tile g).l1use + 1))
      let s := s.modTile g fun t => { t with l1use := t.l1use + 1 }.count 0x09 none
      let l := (s.tile g).l1Get line
      .ok (lineSlice ((l.map (·.data)).getD 0) off n, (l.map (·.pois)).getD false, s.noteOv g line)

/-- A copy with bytes stored in it (R314). -/
def L1Line.store (l : L1Line) (m : BitVec 64) (v : BitVec 512) (p dirty : Bool) : L1Line :=
  { l with
    data := mergeLine m v l.data
    vmask := l.vmask ||| m
    dmask := if dirty then l.dmask ||| m else l.dmask
    pois := if p then true else if m = BitVec.allOnes 64 then false else l.pois }

/-- A store of bytes that lie in one line, at a translated place, under a POL (R191, R364, R487). -/
def State.storeAt (s : State) (g : BitVec 8) (pa : Nat) (leaf : BitVec 128) (m : BitVec 64) (v : BitVec 512)
    (p : Bool) (pol : BitVec 2) : Res State :=
  let line := lineNo leaf pa
  let coh := leafCoh leaf
  let key := leafKey leaf
  let t := s.tile g
  let out (k : WriteKind) : HomeWrite :=
    { line := line, mask := m, data := v, pois := p, key := key, coh := coh, ctx := t.ctx.getD 0, tile := g, kind := k
      vclk := (s.die (dieOf g)).vclk }
  let claim : Claim := { line := line, bytes := m, vclk := (s.die (dieOf g)).vclk }
  match pol.toNat with
  | 1 =>
    (s.needEntry g).map fun _ =>
      let s := s.modTile g fun t => match t.l1Get line with
        | some l => (t.l1Set (l.store m v p false)).l1Touch line
        | none => t
      s.post (dieOf g) (out .wt)
  | 0 =>
    match t.l1Get line with
    | some l =>
      let own := m &&& ~~~ l.cmask = 0
      (if own then .ok () else s.needEntry g).map fun _ =>
        let s := s.modTile g fun t => (t.l1Set (l.store m v p true)).l1Touch line
        if own then s else s.modTile g fun t => { t with claims := t.claims ++ [claim] }
    | none => do
      s.needEntry g
      let s ← s.l1Room g line
      let l : L1Line := { line := line, data := 0, pois := false, vmask := 0, cmask := 0, dmask := 0, key := key, coh := coh
                          lru := (s.tile g).l1use + 1 }
      .ok (s.modTile g fun t => { t.l1Set (l.store m v p true) with
        l1use := t.l1use + 1, claims := t.claims ++ [claim] })
  | _ => do
    waitIf (t.claims.any fun c => c.line == line) s
    s.needEntry g
    let s := match t.l1Get line with | some l => s.l1Drop g l | none => s
    .ok (s.post (dieOf g) (out .store))

/-- A store of a line's bytes under a POL would not wait for a claim's answer (R191, R487). -/
def Tile.storeReady (t : Tile) (line : Nat) (pol : BitVec 2) : Bool :=
  match pol.toNat with
  | 1 => true
  | 0 => (t.l1Get line).isSome || match t.l1Victim line with
    | some v => !t.claims.any fun c => c.line == v.line
    | none => true
  | _ => !t.claims.any fun c => c.line == line

/-- The home answers a claim (R487): CMASK is granted, and the bytes outside DMASK are refreshed as by a fill, so that OV rises as at a
fill (R256). -/
def State.answerClaim (s : State) (g : BitVec 8) (c : Claim) : State :=
  match (s.tile g).l1Get c.line with
  | none => s
  | some l =>
    let s := s.arrive g c.line
    let (s, v, cm) := s.homeClaim l.coh c.line g c.bytes
    (s.l1Refresh g l.key l.coh c.line v cm none).noteOv g c.line

/-- A claim's answer brings bytes of the line, so it is held at the home like a read, under the vector the claim carries (R256, R487). -/
def State.claimServed (s : State) (g : BitVec 8) (c : Claim) : Bool := (s.arrive g c.line).served (homeOf (64 * c.line)) c.vclk

/-- The claims of a tile that are unanswered are answered, each after the CLOSE markers it waits for have been applied at its home (R297). -/
def State.answerAll (s : State) (g : BitVec 8) : State :=
  ((s.tile g).claims.foldl (fun s c =>
    let s := [(0 : BitVec 2), 1, 2, 3].foldl (fun s d => s.drainChan d (homeOf (64 * c.line))) s
    s.answerClaim g c) s).modTile g fun t => { t with claims := [] }

end Sys2Proof.Machine
end

