-- ==== Sys2Proof/Machine/Operands.lean ====
section
/-! DEFINITION. Operands: scalar registers of both streams, vector names, masks and accumulator tiles with the
X-stream's latency windows (R171, R172), the units' issue intervals (R173), and inter-stream queues (R162). -/

namespace Sys2Proof.Machine

/-! ## Windows of the X-stream (R171, R172) -/

/-- The bits of a register after a write in flight has landed. -/
def landBits {w : Nat} (old : BitVec w) (mask val : Nat) : BitVec w :=
  let m := BitVec.ofNat w mask
  (old &&& ~~~ m) ||| (BitVec.ofNat w val &&& m)

/-- A write in flight lands. -/
def Tile.land (t : Tile) (p : XPend) : Tile :=
  match p.dst with
  | .x r => { t with xreg := vset t.xreg r (landBits (vget t.xreg 0 r) p.mask p.val)
                     xpois := setBit t.xpois r.toNat (if p.pmask = 0 then t.xpois.getLsbD r.toNat else p.pval != 0) }
  | .v r =>
    let n := vget t.v VName.reset r
    { t with v := vset t.v r { n with val := landBits n.val p.mask p.val, pois := landBits n.pois p.pmask p.pval } }
  | .k r => { t with k := vset t.k r (landBits (vget t.k 0 r) p.mask p.val) }
  | .z r =>
    let z := vget t.z ZTile.reset r
    { t with z := vset t.z r { z with data := landBits z.data p.mask p.val, pois := landBits z.pois p.pmask p.pval } }
  | .fstat => { t with fstat := t.fstat ||| BitVec.ofNat 6 p.val }
  | .mcfg => { t with leak := BitVec.ofNat 16 p.val, adty := bitOf p.val 16 }

/-- Insert a write in flight by its closing X-cycle, after the earlier issued ones that close with it (R172). -/
def insPend : List XPend → XPend → List XPend
  | [], p => [p]
  | q :: r, p => if p.close < q.close then p :: q :: r else q :: insPend r p

/-- The writes whose windows have closed land, in closing order (R172). -/
def landAll : List XPend → Tile → Tile
  | [], t => t
  | p :: r, t => if p.close ≤ t.xcyc then landAll r (t.land p) else { t with pend := p :: r }

/-- Land every write in flight whose window has closed. -/
def Tile.commit (t : Tile) : Tile := landAll t.pend { t with pend := [] }

/-- A write that lands by the end of `L` X-cycles (R171). -/
def Tile.pendAt (t : Tile) (d : XDst) (mask val pmask pval L : Nat) : Tile :=
  { t with pend := insPend t.pend { dst := d, mask := mask, val := val, pmask := pmask, pval := pval, close := t.xcyc + L } }

/-- Bits of a register that some open window covers, and its poison bits. -/
def Tile.openBits (t : Tile) (d : XDst) : Nat × Nat :=
  t.pend.foldl (fun m p => if p.dst = d then (m.1 ||| p.mask, m.2 ||| p.pmask) else m) (0, 0)

/-- A register value read while windows are open: the bits they cover are undefined (R171). -/
def State.readOpen {w : Nat} (s : State) (m : Nat) (v : BitVec w) : BitVec w × State :=
  if m = 0 then (v, s)
  else
    let f := s.free w
    (landBits v m f.1.toNat, f.2)

/-- Flags that an X-stream instruction sets, visible to a read one cycle after its window (R274). -/
def Tile.pendFlags (t : Tile) (f : BitVec 6) (L : Nat) : Tile :=
  if f = 0 then t else t.pendAt .fstat 0 f.toNat 0 0 (L + 1)

/-! ## Scalar operands (R156, R157, R351) -/

/-- A scalar register of the issuing stream: value and poison; `a0` and `x0` read as zero. -/
def State.rdS (s : State) (g : BitVec 8) (st : Stream) (r : R5) : (W64 × Bool) × State :=
  match st with
  | .a => ((s.tile g).rdA r, s)
  | .x =>
    if r = 0 then ((0, false), s)
    else
      let t := s.tile g
      let m := t.openBits (.x r)
      let v := s.readOpen m.1 (vget t.xreg 0 r)
      ((v.1, t.xpois.getLsbD r.toNat && m.1 == 0), v.2)

/-- Write a scalar register of the issuing stream with latency `L`; a write of `a0` or `x0` is discarded. -/
def State.wrS (s : State) (g : BitVec 8) (st : Stream) (r : R5) (v : W64) (p : Bool) (L : Nat) : State :=
  match st with
  | .a => s.modTile g fun t => t.wrA r v p
  | .x =>
    if r = 0 then s
    else s.modTile g fun t => t.pendAt (.x r) (2 ^ 64 - 1) v.toNat 1 (if p then 1 else 0) L

/-! ## Masks (R157, R158) -/

/-- A mask; `k0` reads as all ones. -/
def State.rdK (s : State) (g : BitVec 8) (r : K4) : KMask × State :=
  if r = 0 then (BitVec.allOnes 512, s)
  else
    let t := s.tile g
    s.readOpen (t.openBits (.k r)).1 (vget t.k 0 r)

/-- Write bits of a mask with latency `L`; a write of `k0` is discarded. -/
def State.wrK (s : State) (g : BitVec 8) (r : K4) (mask val L : Nat) : State :=
  if r = 0 then s else s.modTile g fun t => t.pendAt (.k r) mask val 0 0 L

/-! ## Vector names (R156, R161) -/

def Tile.vname (t : Tile) (r : V6) : VName := vget t.v VName.reset r
def Tile.setVname (t : Tile) (r : V6) (n : VName) : Tile := { t with v := vset t.v r n }

/-- A LIVE or EMPTY name as read: an EMPTY name reads as an undefined value; the read is noted (R306). -/
def State.rdV (s : State) (g : BitVec 8) (r : V6) : (Vec × LaneBits) × State :=
  let t := s.tile g
  let n := t.vname r
  let s := s.setTile g (t.setVname r { n with lastRead := t.xcyc })
  match n.st with
  | .empty =>
    let f := s.free 2048
    ((f.1, 0), f.2)
  | _ =>
    let m := t.openBits (.v r)
    let v := s.readOpen m.1 n.val
    ((v.1, n.pois &&& ~~~ (BitVec.ofNat 64 m.2)), v.2)

/-- Names that hold one of the 48 slots (R161). -/
def Tile.liveCount (t : Tile) : Nat := (t.v.toList.filter fun n => n.st == .live).length

/-- The LIVE tagged name whose last read is oldest, the lowest among those that tie, outside `ex` (R306). -/
def Tile.dropVictim (t : Tile) (ex : List Nat) : Option Nat :=
  (List.range 64).foldl (fun b i =>
    let n := t.vname (BitVec.ofNat 6 i)
    if n.st == .live && n.tag.isSome && !ex.contains i then
      match b with
      | none => some i
      | some j => if n.lastRead < (t.vname (BitVec.ofNat 6 j)).lastRead then some i else some j
    else b) none

/-- Take a slot for a name that holds none (R161, R306): a free one, else one of a LIVE tagged name, which is dropped;
`none` when every LIVE name is untagged. Names in `ex` are exempt. -/
def Tile.takeSlot (t : Tile) (r : V6) (ex : List Nat) : Option Tile :=
  if (t.vname r).st = .live then some t
  else
    let live (t : Tile) : Tile := t.setVname r { t.vname r with st := .live }
    if t.liveCount < 48 then some (live t)
    else match t.dropVictim ex with
      | none => none
      | some i =>
        let j := BitVec.ofNat 6 i
        some (live (t.setVname j { t.vname j with st := .dropped }))

/-- The lanes of 32 bits that a bit mask of a vector touches. -/
def lanesOf (mask : Nat) : Nat :=
  (List.range 64).foldl (fun m i => if bitsOf mask (32 * i + 31) (32 * i) = 0 then m else m + 2 ^ i) 0

/-- An ordinary write of bits of a vector name with latency `L` (R161, R171): the name is LIVE and untagged. The caller
has taken its slot. A name that was EMPTY or DROPPED holds undefined bits outside the mask. -/
def State.wrV (s : State) (g : BitVec 8) (r : V6) (mask val pmask pval L : Nat) : State :=
  s.modTile g fun t =>
    let n := t.vname r
    (t.setVname r { n with tag := none, lastRead := t.xcyc }).pendAt (.v r) mask val pmask pval L

/-! ## Accumulator tiles (R156, R159, R175) -/

def Tile.ztile (t : Tile) (z : BitVec 3) : ZTile := vget t.z ZTile.reset z
def Tile.setZtile (t : Tile) (z : BitVec 3) (x : ZTile) : Tile := { t with z := vset t.z z x }

/-- The container tag of a `ty` code of major 0x28 (R339): A40, F64, I40. -/
def zTagOf (t : BitVec 4) : ZTag := if t = 0xE then .f64 else if t = 0x3 then .i40 else .a40

/-- A 64-bit element as an accumulator container of a tag (R270). -/
def contain (tag : ZTag) (v : W64) : W64 :=
  match tag with
  | .f64 => v
  | .a40 => v &&& 0xFFFFFFFFFF
  | .i40 => (v.extractLsb' 0 40).signExtend 64

/-! ## Issue intervals (R173, R176) -/

inductive XUnit where
  | div | vdiv | vred | vperm | valu | ls1 | ls2 | acc
  deriving DecidableEq, Repr

def XUnits.at (u : XUnits) : XUnit → Nat
  | .div => u.div
  | .vdiv => u.vdiv
  | .vred => u.vred
  | .vperm => u.vperm
  | .valu => u.valu
  | .ls1 => u.ls1
  | .ls2 => u.ls2
  | .acc => u.acc

def XUnits.put (u : XUnits) (k : XUnit) (n : Nat) : XUnits :=
  match k with
  | .div => { u with div := n }
  | .vdiv => { u with vdiv := n }
  | .vred => { u with vred := n }
  | .vperm => { u with vperm := n }
  | .valu => { u with valu := n }
  | .ls1 => { u with ls1 := n }
  | .ls2 => { u with ls2 := n }
  | .acc => { u with acc := n }

/-- An X-stream unit takes an instruction with an issue interval; too early, it receives cause 0x1B (R173). In the
A-stream a busy unit only delays (R354, R177). -/
def State.useUnit (s : State) (g : BitVec 8) (st : Stream) (u : XUnit) (interval : Nat) : Res State :=
  match st with
  | .a => .ok s
  | .x =>
    let t := s.tile g
    if t.xcyc < t.units.at u then trapIn s { code := 0x1B }
    else .ok (s.setTile g { t with units := t.units.put u (t.xcyc + interval) })

/-! ## Inter-stream queues (R162) -/

def Tile.queue (t : Tile) (q : BitVec 4) : List QEntry := vget t.q [] q
def Tile.setQueue (t : Tile) (q : BitVec 4) (l : List QEntry) : Tile := { t with q := vset t.q q l }

/-- The other end of a queue that a stream waits on (R164). -/
def otherStream : Stream → Stream
  | .a => .x
  | .x => .a

/-- Pop the head of a queue; an empty queue stalls the popping stream (R162). -/
def State.popQ (s : State) (g : BitVec 8) (q : BitVec 4) : Res (QEntry × State) :=
  match (s.tile g).queue q with
  | [] => waitIn s .queue
  | e :: r => .ok (e, s.modTile g fun t => t.setQueue q r)

/-- Push at the tail of a queue; a full queue stalls the pushing stream (R162). -/
def State.pushQ (s : State) (g : BitVec 8) (q : BitVec 4) (e : QEntry) : Res State :=
  let l := (s.tile g).queue q
  if 16 ≤ l.length then waitIn s .queue else .ok (s.modTile g fun t => t.setQueue q (l ++ [e]))

end Sys2Proof.Machine
end

