-- ==== Sys2Proof/Machine/Issue.lean ====
section
/-! DEFINITION. What an issued instruction does to its stream: the streams a form belongs to (R334), completion, jump,
wait and trap (R8, R170, R332). -/

namespace Sys2Proof.Machine

/-- A word has issued (R455): counted, and the issuer is done. -/
def State.issued (s : State) (g : BitVec 8) (st : Stream) : State :=
  { s.modTile g (fun t => t.count 0x02 (some st)) with cur := .none }

/-- A stream is stalled (R455): counted by what it waits for. -/
def State.stalled (s : State) (g : BitVec 8) (st : Stream) (why : WaitWhy) : State :=
  s.modTile g fun t =>
    let t := t.count 0x03 (some st)
    match why with
    | .queue => t.count 0x04 (some st)
    | .token => t.count 0x05 (some st)
    | .other => t

/-- How an attempt to issue ends: the instruction is done and the PC has moved past `words` words; or it was a jump to
`some` target (R359: the next issue is one cycle later); or it waits, which in the X-stream is no X-cycle; or the
cause is taken. -/
def settle (g : BitVec 8) (st : Stream) (words : Nat) (r : Res (State × Option Pc)) : State :=
  match r with
  | .ok (s, none) => (s.modTile g fun t => (t.advance st words).passX st 1).issued g st
  | .ok (s, some p) => (s.modTile g fun t => (t.setPc st p).passX st 2).issued g st
  | .error (.wait s why) => s.stalled g st why
  | .error (.trap s r) => (s.modTile g fun t => t.passX st 2).takeCause g st r

/-- The streams a form belongs to (R334). -/
inductive Issuer where
  | both | a | x
  deriving DecidableEq, Repr

def Issuer.allows : Issuer → Stream → Bool
  | .both, _ => true
  | .a, st => st == .a
  | .x, st => st == .x

/-- The state in which a stream issues: X-stream writes whose windows have closed have landed (R171, R172). -/
def State.openIssue (s : State) (g : BitVec 8) (st : Stream) : State :=
  match st with
  | .a => s
  | .x => s.modTile g Tile.commit

/-- Issue an instruction from the stream that is issuing (R332 order 3): outside its set the stream receives cause
0x02. With no issuing stream there is no machine state to act on. -/
def issueJ (w : Issuer) (words : Nat) (body : BitVec 8 → Stream → State → Res (State × Option Pc)) (s : State) :
    Host.Outcome State Fault Refusal :=
  match s.cur with
  | .stream g st =>
    let s := s.openIssue g st
    if w.allows st then .next (settle g st words (body g st s))
    else .next (settle g st words (trapIn s { code := 0x02 }))
  | _ => .fault .noIssuer

/-- An instruction that is no jump. -/
def issue (w : Issuer) (words : Nat) (body : BitVec 8 → Stream → State → Res State) (s : State) :
    Host.Outcome State Fault Refusal :=
  issueJ w words (fun g st s => (body g st s).map fun s => (s, none)) s

/-- A cause leaves the units' intervals as they were (R8): a unit that the instruction had reserved is free again. -/
def keepUnits {α : Type} (g : BitVec 8) (u : XUnits) (r : Res α) : Res α :=
  match r with
  | .error (.trap s c) => .error (.trap (if (s.tile g).units = u then s else s.modTile g fun t => { t with units := u }) c)
  | r => r

/-- An event of the package: the next state. -/
def event (f : State → State) (s : State) : Host.Outcome State Fault Refusal := .next (f s)

/-- An event at a tile, which does nothing while the core rails are removed (R44). -/
def powered (f : State → State) : State → Host.Outcome State Fault Refusal := event fun s => if s.railsOff then s else f s

end Sys2Proof.Machine
end

