-- ==== Sys2Proof/Machine/Flags.lean ====
section
/-! DEFINITION. Flags: the six relations (R357, R359), the A-stream's flag registers (R357, R358), the FSTAT bits and
the scalar results of division (R274, R280). -/

namespace Sys2Proof.Machine

/-- The relations of compares and branches (R357, R359). -/
inductive Rel where
  | eq | ne | lt | ge | ltu | geu
  deriving DecidableEq, Repr

def Rel.holds (r : Rel) (a b : W64) : Bool :=
  match r with
  | .eq => a == b
  | .ne => a != b
  | .lt => decide (a.toInt < b.toInt)
  | .ge => decide (b.toInt ≤ a.toInt)
  | .ltu => decide (a.toNat < b.toNat)
  | .geu => decide (b.toNat ≤ a.toNat)

/-- A flag register is read once its `SQPUSH` or `ENQ` has produced its result (R358). -/
def State.rdF (s : State) (g : BitVec 8) (f : F3) : Res Bool :=
  let t := s.tile g
  if t.fpend.getLsbD f.toNat then waitIn s else .ok (t.flags.getLsbD f.toNat)

/-- Write a flag: this writer is its last (R357, R358). -/
def Tile.wrF (t : Tile) (f : F3) (v : Bool) : Tile :=
  { t with flags := setBit t.flags f.toNat v, fpend := setBit t.fpend f.toNat false }

/-- The bits of FSTAT (R274). -/
def fNX : BitVec 6 := 1
def fUF : BitVec 6 := 2
def fOF : BitVec 6 := 4
def fDZ : BitVec 6 := 8
def fNV : BitVec 6 := 16
def fSAT : BitVec 6 := 32

/-! ## Scalar division (R280, R353) -/

def divS (a b : W64) : W64 := if b = 0 then BitVec.allOnes 64 else BitVec.ofInt 64 (Int.tdiv a.toInt b.toInt)
def divU (a b : W64) : W64 := if b = 0 then BitVec.allOnes 64 else BitVec.ofNat 64 (a.toNat / b.toNat)
def remS (a b : W64) : W64 := if b = 0 then a else BitVec.ofInt 64 (Int.tmod a.toInt b.toInt)
def remU (a b : W64) : W64 := if b = 0 then a else BitVec.ofNat 64 (a.toNat % b.toNat)

end Sys2Proof.Machine
end

