-- ==== Sys2Proof/Machine/MemOps.lean ====
section
/-! DEFINITION. The A-stream's memory instructions: loads and stores (R363 to R365), atomics (R366 to R368), queue
transfers (R369 to R371), and the fences of both streams (R252, R372). -/

namespace Sys2Proof.Machine

/-- Cause 0x07 for an address that is not a multiple of `n`. -/
def alignTo (s : State) (ea : W64) (n : Nat) : Res Unit :=
  if ea.toNat % n = 0 then .ok () else trapIn s { code := 0x07, tval := ea, aKind := 2 }

/-- `b + sext(OFF)`; a poisoned base receives cause 0x2B (R364). -/
def State.eaOf (s : State) (g : BitVec 8) (b : R5) (o : BitVec 11) : Res W64 :=
  let x := (s.tile g).rdA b
  if x.2 then trapIn s { code := 0x2B } else .ok (x.1 + o.signExtend 64)

/-- The page of an access that passes becomes the most recently used (R198). -/
def State.touchTlb (s : State) (g : BitVec 8) (va : W64) : State :=
  s.modTile g fun t => t.tlbTouch (t.ctx.getD 0) va

/-- The value of `n` loaded bytes as a register holds it (R364). -/
def extLoad (n : Nat) (sgn : Bool) (v : Nat) : W64 :=
  if sgn then (BitVec.ofNat (8 * n) v).signExtend 64 else BitVec.ofNat 64 v

/-- A scalar load (R364). -/
def scalarLoad (n : Nat) (sgn : Bool) (d b : R5) (p : BitVec 2) (o : BitVec 11) (s : State) :
    Host.Outcome State Fault Refusal :=
  issue .a 1 (fun g st s => do
    let ea ← s.eaOf g b o
    alignTo s ea n
    let x ← s.xlA g ea .read
    let r ← (s.touchTlb g ea).loadAt g x.1 x.2 n p
    .ok (r.2.2.wrS g st d (extLoad n sgn r.1) r.2.1 1)) s

/-- The `n` low bytes of a register, placed at their offset in a line. -/
def placeIn (pa n : Nat) (v : W64) : BitVec 512 := BitVec.ofNat 512 (v.toNat % 2 ^ (8 * n) * 2 ^ (8 * (pa % 64)))

/-- A scalar store (R364). -/
def scalarStore (n : Nat) (d b : R5) (p : BitVec 2) (o : BitVec 11) (s : State) : Host.Outcome State Fault Refusal :=
  issue .a 1 (fun g _ s => do
    let ea ← s.eaOf g b o
    alignTo s ea n
    let s ← s.settleRelease g
    let x ← s.xlA g ea .write
    let v := (s.tile g).rdA d
    (s.touchTlb g ea).storeAt g x.1 x.2 (byteMask (x.1 % 64) n) (placeIn x.1 n v.1) v.2 p) s

/-- LDB (R363, R364). -/
def execLdb (d b : R5) (p : BitVec 2) (o : BitVec 11) (s : State) : Host.Outcome State Fault Refusal := scalarLoad 1 false d b p o s
/-- LDH (R363, R364). -/
def execLdh (d b : R5) (p : BitVec 2) (o : BitVec 11) (s : State) : Host.Outcome State Fault Refusal := scalarLoad 2 false d b p o s
/-- LDW (R363, R364). -/
def execLdw (d b : R5) (p : BitVec 2) (o : BitVec 11) (s : State) : Host.Outcome State Fault Refusal := scalarLoad 4 false d b p o s
/-- LDD (R363, R364). -/
def execLdd (d b : R5) (p : BitVec 2) (o : BitVec 11) (s : State) : Host.Outcome State Fault Refusal := scalarLoad 8 false d b p o s
/-- LDBS (R363, R364). -/
def execLdbs (d b : R5) (p : BitVec 2) (o : BitVec 11) (s : State) : Host.Outcome State Fault Refusal := scalarLoad 1 true d b p o s
/-- LDHS (R363, R364). -/
def execLdhs (d b : R5) (p : BitVec 2) (o : BitVec 11) (s : State) : Host.Outcome State Fault Refusal := scalarLoad 2 true d b p o s
/-- LDWS (R363, R364). -/
def execLdws (d b : R5) (p : BitVec 2) (o : BitVec 11) (s : State) : Host.Outcome State Fault Refusal := scalarLoad 4 true d b p o s
/-- STB (R363, R364). -/
def execStb (d b : R5) (p : BitVec 2) (o : BitVec 11) (s : State) : Host.Outcome State Fault Refusal := scalarStore 1 d b p o s
/-- STH (R363, R364). -/
def execSth (d b : R5) (p : BitVec 2) (o : BitVec 11) (s : State) : Host.Outcome State Fault Refusal := scalarStore 2 d b p o s
/-- STW (R363, R364). -/
def execStw (d b : R5) (p : BitVec 2) (o : BitVec 11) (s : State) : Host.Outcome State Fault Refusal := scalarStore 4 d b p o s
/-- STD (R363, R364). -/
def execStd (d b : R5) (p : BitVec 2) (o : BitVec 11) (s : State) : Host.Outcome State Fault Refusal := scalarStore 8 d b p o s

/-! ## Atomics (R366 to R368) -/

/-- The functions of R367. -/
inductive AOp where
  | swap | cas | add | and | or | xor | min | max | minu | maxu
  deriving DecidableEq, Repr

/-- The new value for an old one, at a width of 8n bits (R367); of the operands the low bits count. -/
def AOp.new (f : AOp) (w old t : Nat) : Nat :=
  let o := BitVec.ofNat w old
  let x := BitVec.ofNat w t
  match f with
  | .swap | .cas => x.toNat
  | .add => (o + x).toNat
  | .and => (o &&& x).toNat
  | .or => (o ||| x).toNat
  | .xor => (o ^^^ x).toNat
  | .min => if o.toInt ≤ x.toInt then o.toNat else x.toNat
  | .max => if o.toInt ≤ x.toInt then x.toNat else o.toNat
  | .minu => if o.toNat ≤ x.toNat then o.toNat else x.toNat
  | .maxu => if o.toNat ≤ x.toNat then x.toNat else o.toNat

/-- The line of an atomic at its home, after the tile's copy has left and overlapping holders have been recalled
(R191, R247, R250, R256). -/
def State.atomicLine (s : State) (g : BitVec 8) (pa : Nat) (leaf : BitVec 128) (m : BitVec 64) :
    Res (BitVec 512 × Bool × State) := do
  let line := lineNo leaf pa
  waitIf ((s.tile g).claims.any fun c => c.line == line) s
  let s := match (s.tile g).l1Get line with
    | some l => s.l1Drop g l
    | none => s
  let s ← s.reachHome g line
  let s := s.homeConflict (leafCoh leaf) line g
  let s := s.recall line none m
  let d := s.rdLine (leafKey leaf) line
  .ok (d.1, d.2, s)

/-- A release effect before an atomic: it waits until the tile's claims are answered (R252, R366). It takes place once: an atomic that is held
at its home has released already (R256). -/
def State.releaseFirst (s : State) (g : BitVec 8) (scope : BitVec 2) : Res State :=
  if (s.tile g).rdV.isSome then .ok s
  else if scope != 0 && !(s.tile g).claims.isEmpty then waitIn s else .ok (s.release g scope)

/-- An atomic (R366). Kinds: 1 acquire, 2 release, 3 both. -/
def atomic (f : AOp) (d a t : R5) (k c : BitVec 2) (z : BitVec 1) (s : State) : Host.Outcome State Fault Refusal :=
  issue .a 1 (fun g _ s => do
    let n := if z = 0 then 4 else 8
    let s0 := s.tile g
    let ea ← s.eaOf g a 0
    alignTo s ea n
    let s ← s.settleRelease g
    let x ← s.xlA g ea .atomic
    let s := s.touchTlb g ea
    s.needEntry g
    let s ← if k.getLsbD 1 then s.releaseFirst g c else .ok s
    let m := byteMask (x.1 % 64) n
    let l ← s.atomicLine g x.1 x.2 m
    let s := l.2.2
    let tv := s0.rdA t
    let dv := s0.rdA d
    let old := lineSlice l.1 (x.1 % 64) n
    if l.2.1 || tv.2 || (f = .cas && dv.2) then
      trapIn (s.modTile g fun u => u.wrA d 0 true) { code := 0x2C }
    else
      let line := lineNo x.2 x.1
      let same := decide (old = dv.1.toNat % 2 ^ (8 * n))
      let s := if f != .cas || same then
          (s.landWrite (s0.ctx.getD 0) (leafKey x.2) line m
            (placeIn x.1 n (BitVec.ofNat 64 (f.new (8 * n) old tv.1.toNat))) false (s.die (dieOf g)).vclk).clearValid line none m
        else s
      let s := (s.noteOv g line).modTile g fun u => u.wrA d (BitVec.ofNat 64 old) false
      .ok (if k.getLsbD 0 then s.acquire g c else s)) s

/-- ASWAP (R366, R367). -/
def execAswap (d a t : R5) (k c : BitVec 2) (z : BitVec 1) (s : State) : Host.Outcome State Fault Refusal := atomic .swap d a t k c z s
/-- ACAS (R366, R367). -/
def execAcas (d a t : R5) (k c : BitVec 2) (z : BitVec 1) (s : State) : Host.Outcome State Fault Refusal := atomic .cas d a t k c z s
/-- AADD (R366, R367). -/
def execAadd (d a t : R5) (k c : BitVec 2) (z : BitVec 1) (s : State) : Host.Outcome State Fault Refusal := atomic .add d a t k c z s
/-- AAND (R366, R367). -/
def execAand (d a t : R5) (k c : BitVec 2) (z : BitVec 1) (s : State) : Host.Outcome State Fault Refusal := atomic .and d a t k c z s
/-- AOR (R366, R367). -/
def execAor (d a t : R5) (k c : BitVec 2) (z : BitVec 1) (s : State) : Host.Outcome State Fault Refusal := atomic .or d a t k c z s
/-- AXOR (R366, R367). -/
def execAxor (d a t : R5) (k c : BitVec 2) (z : BitVec 1) (s : State) : Host.Outcome State Fault Refusal := atomic .xor d a t k c z s
/-- AMIN (R366, R367). -/
def execAmin (d a t : R5) (k c : BitVec 2) (z : BitVec 1) (s : State) : Host.Outcome State Fault Refusal := atomic .min d a t k c z s
/-- AMAX (R366, R367). -/
def execAmax (d a t : R5) (k c : BitVec 2) (z : BitVec 1) (s : State) : Host.Outcome State Fault Refusal := atomic .max d a t k c z s
/-- AMINU (R366, R367). -/
def execAminu (d a t : R5) (k c : BitVec 2) (z : BitVec 1) (s : State) : Host.Outcome State Fault Refusal := atomic .minu d a t k c z s
/-- AMAXU (R366, R367). -/
def execAmaxu (d a t : R5) (k c : BitVec 2) (z : BitVec 1) (s : State) : Host.Outcome State Fault Refusal := atomic .maxu d a t k c z s

/-! ## Queue transfers (R369 to R371) -/

/-- The four lines of a queue entry read under POL, from line `i` on: data, lane poison. -/
def fillLines (g : BitVec 8) (ea : W64) (p : BitVec 2) : (n i : Nat) → State → Res (Nat × Nat × State)
  | 0, _, s => .ok (0, 0, s)
  | n + 1, i, s => do
    let va := ea + BitVec.ofNat 64 (64 * i)
    let x ← s.xlA g va .read
    let r ← (s.touchTlb g va).loadAt g x.1 x.2 64 p
    let q ← fillLines g ea p n (i + 1) r.2.2
    .ok (r.1 + 2 ^ 512 * q.1, (if r.2.1 then 0xFFFF else 0) + 2 ^ 16 * q.2.1, q.2.2)

/-- QFILL (R369): it stalls while the queue is full; no entry is placed unless all four lines pass translation. -/
def execQfill (b : R5) (q : BitVec 4) (p : BitVec 2) (o : BitVec 11) (s : State) : Host.Outcome State Fault Refusal :=
  issue .a 1 (fun g _ s => do
    if 16 ≤ ((s.tile g).queue q).length then waitIn s .queue
    else
      let ea ← s.eaOf g b o
      alignTo s ea 64
      s.xlA2 g ea 256 .read
      let r ← fillLines g ea p 4 0 s
      r.2.2.pushQ g q { data := BitVec.ofNat 2048 r.1, pois := BitVec.ofNat 64 r.2.1 }) s

/-- The four lines of a queue entry written under POL, from line `i` on. -/
def storeLines (g : BitVec 8) (ea : W64) (p : BitVec 2) (e : QEntry) : (n i : Nat) → State → Res State
  | 0, _, s => .ok s
  | n + 1, i, s => do
    let va := ea + BitVec.ofNat 64 (64 * i)
    let x ← s.xlA g va .write
    let s ← (s.touchTlb g va).storeAt g x.1 x.2 (BitVec.allOnes 64) (e.data.extractLsb' (512 * i) 512)
      (e.pois.extractLsb' (16 * i) 16 != 0) p
    storeLines g ea p e n (i + 1) s

/-- Whether none of the lines of a queue store would wait. -/
def linesReady (s : State) (g : BitVec 8) (ea : W64) (p : BitVec 2) : Bool :=
  (List.range 4).all fun i =>
    match s.xlA g (ea + BitVec.ofNat 64 (64 * i)) .write with
    | .ok x => (s.tile g).storeReady (lineNo x.2 x.1) p
    | .error _ => false

/-- QSTORE (R370): it stalls while the queue is empty; a fault or a freeze leaves the entry at the head. -/
def execQstore (b : R5) (q : BitVec 4) (p : BitVec 2) (o : BitVec 11) (s : State) : Host.Outcome State Fault Refusal :=
  issue .a 1 (fun g _ s => do
    let r ← s.popQ g q
    let ea ← s.eaOf g b o
    alignTo s ea 64
    let s ← s.settleRelease g
    s.xlA2 g ea 256 .write
    waitIf (!linesReady s g ea p) s
    let s ← storeLines g ea p r.1 4 0 s
    .ok (s.modTile g fun t => t.setQueue q (t.queue q).tail)) s

/-- QPOPA (R371). -/
def execQpopa (d : R5) (q : BitVec 4) (s : State) : Host.Outcome State Fault Refusal :=
  issue .a 1 (fun g st s => do
    let r ← s.popQ g q
    .ok (r.2.wrS g st d (r.1.data.setWidth 64) (r.1.pois.extractLsb' 0 2 != 0) 1)) s

/-- QBPUSH (R371). -/
def execQbpush (f : F3) (s : State) : Host.Outcome State Fault Refusal :=
  issue .a 1 (fun g _ s => do
    let v ← s.rdF g f
    if 64 ≤ (s.tile g).qb.length then waitIn s .queue
    else .ok (s.modTile g fun t => { t with qb := t.qb ++ [v] })) s

/-! ## Fences (R252, R372) -/

/-- A fence of the A-stream. -/
def State.fenceA (s : State) (g : BitVec 8) (k c : BitVec 2) : Res State :=
  match k.toNat with
  | 0 => .ok (s.release g c)
  | 1 => .ok (s.acquire g c)
  | 2 => .ok ((s.release g c).acquire g c)
  | _ => do
    let s ← s.releaseFirst g 3
    .ok ((s.acquire g 3).drainDie (dieOf g))

/-- A fence of the X-stream: from the X-cycle at which the windows it names have closed, what it names may issue. -/
def Tile.fenceX (t : Tile) (k : BitVec 2) : Tile :=
  let t := if k = 1 then t else { t with holdSt := Nat.max t.holdSt (Nat.max t.stClose t.stCloseC) }
  if k = 0 then t else { t with holdLd := Nat.max t.holdLd t.ldClose }

/-- An X-stream load or store that a fence holds back waits in X-cycles (R252): windows close meanwhile. -/
def Tile.xHold (t : Tile) (store : Bool) : Tile :=
  { t with xcyc := Nat.max t.xcyc (Nat.max t.holdLd (if store then t.holdSt else 0)) }.commit

/-- FENCE (R252, R372, R373). -/
def execFence (k c : BitVec 2) (s : State) : Host.Outcome State Fault Refusal :=
  issue .both 1 (fun g st s =>
    match st with
    | .a => s.fenceA g k c
    | .x => .ok (s.modTile g fun t => t.fenceX k)) s

end Sys2Proof.Machine
end

