-- ==== Sys2Proof/WellFormed.lean ====
section
/-! DEFINITION. The operand checks of R332 that an instruction's fields can still fail once they are read
(orders 6 to 9), and the well-formed instructions: those that fail none. -/

namespace Sys2Proof

/-- Width of an element type in bits, with A40 in its 64-bit container (R327, R379). -/
def Ty.bits : Ty → Nat
  | .i8 | .n8 | .e4m3 | .e5m2 => 8
  | .i16 | .n16 | .f16 | .bf16 => 16
  | .i32 | .n32 | .f32 => 32
  | .i64 | .f64 | .a40 => 64
  | .oi4 | .e2m1 => 4

/-- The integer types of the arithmetic majors (R338). -/
def Ty.isInt : Ty → Bool
  | .i8 | .i16 | .i32 | .i64 | .n8 | .n16 | .n32 => true
  | _ => false

def Ty.isSigned : Ty → Bool
  | .i8 | .i16 | .i32 | .i64 => true
  | _ => false

/-- The floating types of the arithmetic majors (R338). -/
def Ty.isVFloat : Ty → Bool
  | .f16 | .bf16 | .f32 | .f64 => true
  | _ => false

/-- The types that carry S8 block scales in a conversion (R391). -/
def Ty.isScaled : Ty → Bool
  | .e2m1 | .e4m3 | .e5m2 | .oi4 => true
  | _ => false

/-- The activation and weight types of the matrix engine (R410, R412). -/
def Ty.isMatrix : Ty → Bool
  | .i8 | .oi4 | .e2m1 | .e4m3 | .e5m2 | .f16 | .bf16 | .f32 | .f64 => true
  | _ => false

/-- Registers in the wider group of a conversion: max(ws, wd) / min(ws, wd) (R390). -/
def cvtGroup (dst src : Ty) : Nat :=
  Nat.max dst.bits src.bits / Nat.min dst.bits src.bits

/-- Whether VB of a conversion names the register of S8 codes (R339, R392). -/
def cvtScaled (dst src : Ty) : Bool := dst.isScaled || src.isScaled

/-- The SAT bit of a conversion that has no scaled side (R339). -/
def cvtSat (dst src : Ty) (b : BitVec 6) : Bool := !cvtScaled dst src && b.getLsbD 0

/-- The first of the listed checks that fails, with its cause. -/
def firstCause : List (Bool × BitVec 7) → Option (BitVec 7)
  | [] => none
  | (bad, c) :: r => if bad then some c else firstCause r

/-- Accumulator tags of major 0x28: A40, F64, I40 (R339). -/
def tagOk (t : BitVec 4) : Bool := t == 0xF || t == 0xE || t == 0x3

/-- The operand checks of R332, orders 6 to 9, that apply to an instruction's fields: group ranges and queue
numbers (0x04), types (0x05), immediates (0x06), codes (0x0B); and the two field rules that make one word one
instruction (R336: `CALL`, `JMPR` and `CALLR` name nonzero registers). -/
def operandCause : Instr → Option (BitVec 7)
  | .vadd y .. | .vsub y .. | .vmul y .. | .vmin y .. | .vmax y .. => firstCause [(!(y.isInt || y.isVFloat), 0x05)]
  | .vand y .. | .vor y .. | .vxor y .. | .vshl y .. | .vshr y .. | .vadds y .. | .vsubs y .. =>
    firstCause [(!y.isInt, 0x05)]
  | .vdiv y .. | .vsqrt y .. | .vmac y .. => firstCause [(!y.isVFloat, 0x05)]
  | .vcmpeq y .. | .vcmplt y .. | .vcmple y .. => firstCause [(!(y.isInt || y.isVFloat), 0x05)]
  | .vrsum y .. | .vrmin y .. | .vrmax y .. | .vrsumc y .. => firstCause [(!(y.isInt || y.isVFloat), 0x05)]
  | .vcvt t s d a b =>
    firstCause [
      (!cvtScaled t s && b.extractLsb' 1 5 != 0, 0x01),
      (t.bits > s.bits && d.toNat + cvtGroup t s > 64, 0x04),
      (t.bits < s.bits && a.toNat + cvtGroup t s > 64, 0x04),
      (t == .a40 || t == s || (t.isScaled && s.isScaled) || cvtGroup t s > 8, 0x05),
      (cvtSat t s b && !(t.isInt && s.isInt && t.bits < s.bits), 0x05)]
  | .vperm y .. => firstCause [(y == .a40 || y.bits == 4, 0x05)]
  | .vbcstx y .. | .vbcste y .. | .vcompress y .. | .vexpand y .. => firstCause [(y == .a40, 0x05)]
  | .vld d _ n .. | .vst d _ n .. | .vldc d _ n .. | .vstc d _ n .. => firstCause [(d.toNat + n.toNat > 63, 0x04)]
  | .qfill _ q .. | .qpopv _ q | .qpopx _ q => firstCause [(q.toNat > 5, 0x04)]
  | .qstore _ q .. | .qpopa _ q | .qpushv _ q | .qpushx _ q => firstCause [(q.toNat != 6 && q.toNat != 7, 0x04)]
  | .aswap _ _ _ k c _ | .acas _ _ _ k c _ | .aadd _ _ _ k c _ | .aand _ _ _ k c _ | .aor _ _ _ k c _
  | .axor _ _ _ k c _ | .amin _ _ _ k c _ | .amax _ _ _ k c _ | .aminu _ _ _ k c _ | .amaxu _ _ _ k c _ =>
    firstCause [(k == 0 && c != 0, 0x01)]
  | .fence k c => firstCause [(k == 3 && c != 3, 0x0B)]
  | .call l _ => firstCause [(l == 0, 0x00)]
  | .jmpr s _ => firstCause [(s == 0, 0x00)]
  | .callr l s _ => firstCause [(l == 0 || s == 0, 0x00)]
  | .zclr _ t | .zcvt _ t | .zwr _ _ _ t => firstCause [(!tagOk t, 0x05)]
  | .rcpanch d c | .rcpunanch d c =>
    firstCause [(c == 0 && d.toNat > 31, 0x04), (c == 2 && d.toNat > 15, 0x04), (c == 3, 0x0B)]
  | .copy _ _ _ _ fill ssp dsp => firstCause [(fill && ssp != 0, 0x01), (ssp.toNat > 3 || dsp.toNat > 3, 0x0B)]
  | .copyl _ _ _ tier | .kvopen _ _ _ _ tier => firstCause [(tier == 3, 0x0B)]
  | .copyn _ _ _ _ _ _ _ sp => firstCause [(sp.toNat > 3, 0x0B)]
  | .tgather _ _ _ _ _ sp | .kvgather _ _ _ _ _ sp | .tscatter _ _ _ _ _ sp => firstCause [(sp.toNat > 3, 0x0B)]
  | .mma y _ _ sb nrb epi _ nz z =>
    firstCause [(!epi && sb != 0, 0x01), (z.toNat + nz.toNat > 7, 0x04), (!y.isMatrix, 0x05),
      (!epi && nrb.toNat > nz.toNat, 0x06)]
  | .mmas y _ _ sb _ nrb epi _ nz z =>
    firstCause [(!epi && sb != 0, 0x01), (z.toNat + nz.toNat > 7, 0x04), (!y.isMatrix, 0x05),
      (!epi && nrb.toNat > nz.toNat, 0x06)]
  | .mepi y _ _ nz z => firstCause [(z.toNat + nz.toNat > 7, 0x04), (y == .a40, 0x05)]
  | .pxmatch _ _ _ _ lim => firstCause [(lim.toNat > 16, 0x06)]
  | .xfnc _ level => firstCause [(level == 0, 0x0B)]
  | .drain _ mask => firstCause [(mask == 0, 0x06)]
  | .qbeq _ _ d | .qbne _ _ d | .qbltu _ _ d => firstCause [(d.toNat == 0 || d.toNat > 511, 0x01)]
  | .qloop _ b => firstCause [(b == 0, 0x01)]
  | _ => none

/-- The well-formed instructions: no operand check fails. An event is well formed when its access size is one the port makes. -/
def Instr.wf : Instr → Bool
  | .registerWrite _ off size _ => (size == 1 || size == 2 || size == 4 || size == 8) && off.toNat % size == 0
  | .bar2WindowRead _ _ n => n == 1 || n == 2 || n == 4 || n == 8
  | i => operandCause i == none

/-- `Instr.wf` as a proposition. -/
abbrev Instr.Wf (i : Instr) : Prop := i.wf = true

end Sys2Proof
end

