-- ==== Sys2Proof/Decode.lean ====
section
/-! DEFINITION. Decoding: total functions from the words of a stream (R323 to R341) and of a queue program
(R81, R82) to an instruction or the cause that refuses them, and after them the encoder, written from the same
encoding tables. -/

namespace Sys2Proof

/-- Bits [lo + n − 1 : lo] of a word. -/
abbrev fld (w : W32) (lo n : Nat) : BitVec n := w.extractLsb' lo n

/-- The element type of a `ty` code (R327). -/
def tyOfCode (c : BitVec 4) : Ty :=
  match c.toNat with
  | 0 => .i8 | 1 => .i16 | 2 => .i32 | 3 => .i64 | 4 => .n8 | 5 => .n16 | 6 => .n32 | 7 => .oi4
  | 8 => .e2m1 | 9 => .e4m3 | 10 => .e5m2 | 11 => .f16 | 12 => .bf16 | 13 => .f32 | 14 => .f64 | _ => .a40

/-- The `ty` code of an element type (R327). -/
def Ty.code : Ty → BitVec 4
  | .i8 => 0 | .i16 => 1 | .i32 => 2 | .i64 => 3 | .n8 => 4 | .n16 => 5 | .n32 => 6 | .oi4 => 7
  | .e2m1 => 8 | .e4m3 => 9 | .e5m2 => 10 | .f16 => 11 | .bf16 => 12 | .f32 => 13 | .f64 => 14 | .a40 => 15

/-- The element type of an arithmetic major 0x18 to 0x22 (R338). -/
def tyOfMajor (op : BitVec 6) : Ty :=
  match op.toNat with
  | 0x18 => .i8 | 0x19 => .i16 | 0x1A => .i32 | 0x1B => .i64 | 0x1C => .n8 | 0x1D => .n16 | 0x1E => .n32
  | 0x1F => .f16 | 0x20 => .bf16 | 0x21 => .f32 | _ => .f64

/-- The arithmetic major of an element type (R338). -/
def Ty.major : Ty → BitVec 6
  | .i8 => 0x18 | .i16 => 0x19 | .i32 => 0x1A | .i64 => 0x1B | .n8 => 0x1C | .n16 => 0x1D | .n32 => 0x1E
  | .f16 => 0x1F | .bf16 => 0x20 | .f32 => 0x21 | .f64 => 0x22 | _ => 0

/-- The outcome of decoding: an instruction, or the cause of the first check of R332 that fails. -/
abbrev Dec := Except (BitVec 7) Instr

/-- Orders 5 and 6 on the word's fields, then orders 6 to 9 on the operands of the instruction built from them. -/
def build (zero wide : Bool) (i : Instr) : Dec :=
  if zero then .error 0x01
  else if wide then .error 0x04
  else match operandCause i with
    | some c => .error c
    | none => .ok i

/-- A check of order 2: the minor map does not define this encoding (R333). -/
def undef : Dec := .error 0x00

/-- Majors 0x01 to 0x07 (R335, R336). -/
def decodeScalar (w : W32) : Dec :=
  let d := fld w 21 5; let s := fld w 16 5; let t := fld w 11 5; let c := fld w 6 5; let fn := fld w 0 6
  let zc := c != 0; let zbc := c != 0 || t != 0
  match (fld w 26 6).toNat with
  | 0x01 =>
    match fn.toNat with
    | 0 => build zc false (.add d s t)
    | 1 => build zc false (.sub d s t)
    | 2 => build zc false (.and d s t)
    | 3 => build zc false (.or d s t)
    | 4 => build zc false (.xor d s t)
    | 5 => build zc false (.shl d s t)
    | 6 => build zc false (.shr d s t)
    | 7 => build zc false (.sra d s t)
    | 8 => build zc false (.mul d s t)
    | 9 => build zc false (.mulh d s t)
    | 10 => build zc false (.mulhu d s t)
    | 11 => build zc false (.div d s t)
    | 12 => build zc false (.divu d s t)
    | 13 => build zc false (.rem d s t)
    | 14 => build zc false (.remu d s t)
    | 15 => build zc false (.min d s t)
    | 16 => build zc false (.max d s t)
    | 17 => build zc false (.minu d s t)
    | 18 => build zc false (.maxu d s t)
    | 19 => build zc false (.seq d s t)
    | 20 => build zc false (.slt d s t)
    | 21 => build zc false (.sltu d s t)
    | 22 => build zbc false (.clz d s)
    | 23 => build zbc false (.ctz d s)
    | 24 => build zbc false (.popc d s)
    | 25 => build false false (.sel d s t c)
    | _ => undef
  | 0x02 => .ok (.addi d s (fld w 0 16))
  | 0x03 => .ok (.andi d s (fld w 0 16))
  | 0x04 => .ok (.ori d s (fld w 0 16))
  | 0x05 => .ok (.xori d s (fld w 0 16))
  | 0x06 =>
    let z := fld w 6 6 != 0
    match (fld w 12 4).toNat with
    | 0 => build z false (.shli d s (fld w 0 6))
    | 1 => build z false (.shri d s (fld w 0 6))
    | 2 => build z false (.srai d s (fld w 0 6))
    | _ => undef
  | 0x07 => build (fld w 18 3 != 0) false (.movk d (fld w 0 16) (fld w 16 2))
  | _ => undef

/-- Major 0x08 (R335, R357): a flag lies in the low three bits of its field, and the bits above are fixed at zero. -/
def decodeFlag (w : W32) : Dec :=
  let d := fld w 21 5; let s := fld w 16 5; let t := fld w 11 5; let c := fld w 6 5
  let fd := fld w 21 3; let fa := fld w 16 3; let fb := fld w 11 3
  let zd := fld w 24 2 != 0 || c != 0
  let zf := zd || fld w 19 2 != 0 || fld w 14 2 != 0
  match (fld w 0 6).toNat with
  | 0 => build zd false (.cmpEq fd s t)
  | 1 => build zd false (.cmpNe fd s t)
  | 2 => build zd false (.cmpLt fd s t)
  | 3 => build zd false (.cmpGe fd s t)
  | 4 => build zd false (.cmpLtu fd s t)
  | 5 => build zd false (.cmpGeu fd s t)
  | 6 => build zf false (.fand fd fa fb)
  | 7 => build zf false (.for_ fd fa fb)
  | 8 => build zf false (.fxor fd fa fb)
  | 9 => build (c != 0 || t != 0 || fld w 19 2 != 0) false (.fget d fa)
  | 10 => build (zd || t != 0) false (.fput fd s)
  | _ => undef

/-- Majors 0x0A to 0x0D and 0x0F (R335, R336). -/
def decodeControl (w : W32) : Dec :=
  let s := fld w 21 5; let t := fld w 16 5; let disp := fld w 0 13; let cc := (fld w 13 3).toNat
  match (fld w 26 6).toNat with
  | 0x0A =>
    match cc with
    | 0 => .ok (.beq s t disp)
    | 1 => .ok (.bne s t disp)
    | 2 => .ok (.blt s t disp)
    | 3 => .ok (.bge s t disp)
    | 4 => .ok (.bltu s t disp)
    | 5 => .ok (.bgeu s t disp)
    | _ => undef
  | 0x0B =>
    let z := fld w 24 2 != 0 || t != 0
    match cc with
    | 0 => build z false (.bfs (fld w 21 3) disp)
    | 1 => build z false (.bfc (fld w 21 3) disp)
    | _ => undef
  | 0x0C =>
    let z := s != 0 || t != 0
    match cc with
    | 0 => build z false (.bqs disp)
    | 1 => build z false (.bqc disp)
    | _ => undef
  | 0x0D =>
    let j := fld w 0 16
    if s == 0 then (if t == 0 then .ok (.jmp j) else .ok (.jmpr t j))
    else if t == 0 then .ok (.call s j) else .ok (.callr s t j)
  | 0x0F =>
    let z := fld w 6 10 != 0
    match (fld w 0 6).toNat with
    | 0 => build (z || s != 0) false (.tkwait t)
    | 1 => build z false (.tktest s t)
    | 2 => build z false (.tkcnt s t)
    | _ => undef
  | _ => undef

/-- Majors 0x10 to 0x15 (R335, R337). -/
def decodeMemory (w : W32) : Dec :=
  let d := fld w 21 5; let b := fld w 16 5; let t := fld w 11 5; let p := fld w 14 2; let o := fld w 0 11
  let sgn := fld w 11 1 == 1
  match (fld w 26 6).toNat with
  | 0x10 =>
    match (fld w 12 2).toNat, sgn with
    | 0, false => .ok (.ldb d b p o)
    | 1, false => .ok (.ldh d b p o)
    | 2, false => .ok (.ldw d b p o)
    | 3, false => .ok (.ldd d b p o)
    | 0, true => .ok (.ldbs d b p o)
    | 1, true => .ok (.ldhs d b p o)
    | 2, true => .ok (.ldws d b p o)
    | _, _ => undef
  | 0x11 =>
    match (fld w 12 2).toNat with
    | 0 => build sgn false (.stb d b p o)
    | 1 => build sgn false (.sth d b p o)
    | 2 => build sgn false (.stw d b p o)
    | _ => build sgn false (.std d b p o)
  | 0x12 =>
    let k := fld w 9 2; let c := fld w 7 2; let z := fld w 6 1
    match (fld w 0 6).toNat with
    | 0 => build false false (.aswap d b t k c z)
    | 1 => build false false (.acas d b t k c z)
    | 2 => build false false (.aadd d b t k c z)
    | 3 => build false false (.aand d b t k c z)
    | 4 => build false false (.aor d b t k c z)
    | 5 => build false false (.axor d b t k c z)
    | 6 => build false false (.amin d b t k c z)
    | 7 => build false false (.amax d b t k c z)
    | 8 => build false false (.aminu d b t k c z)
    | 9 => build false false (.amaxu d b t k c z)
    | _ => undef
  | 0x13 =>
    let q := fld w 16 4; let r := fld w 20 5; let wide := fld w 25 1 != 0
    let zpo := p != 0 || o != 0
    match (fld w 11 3).toNat with
    | 0 => build false wide (.qfill r q p o)
    | 1 => build false wide (.qstore r q p o)
    | 2 => build zpo wide (.qpopa r q)
    | 3 => build (zpo || fld w 23 3 != 0) (q != 8) (.qbpush (fld w 20 3))
    | _ => undef
  | 0x14 =>
    if fld w 0 6 != 0 then undef
    else build (fld w 6 1 != 0 || fld w 11 15 != 0) false (.fence (fld w 9 2) (fld w 7 2))
  | 0x15 =>
    let zl := fld w 6 10 != 0
    match (fld w 0 6).toNat with
    | 0 => build (zl || fld w 24 2 != 0 || b != 0) false (.sqpush (fld w 21 3))
    | 1 => build (zl || fld w 24 2 != 0) false (.enq (fld w 21 3) b)
    | 2 => build (zl || d != 0 || b != 0) false .bar
    | _ => undef
  | _ => undef

/-- Majors 0x18 to 0x22 (R338). -/
def decodeVArith (w : W32) : Dec :=
  let y := tyOfMajor (fld w 26 6)
  let d := fld w 20 6; let a := fld w 14 6; let b := fld w 8 6; let m := fld w 4 4
  let int := y.isInt
  let kw := fld w 24 2 != 0
  match (fld w 0 4).toNat with
  | 0 => .ok (.vadd y d a b m)
  | 1 => .ok (.vsub y d a b m)
  | 2 => .ok (.vmul y d a b m)
  | 3 => .ok (.vmin y d a b m)
  | 4 => .ok (.vmax y d a b m)
  | 5 => if int then .ok (.vand y d a b m) else .ok (.vdiv y d a b m)
  | 6 => if int then .ok (.vor y d a b m) else build (b != 0) false (.vsqrt y d a m)
  | 7 => if int then .ok (.vxor y d a b m) else .ok (.vmac y d a b m)
  | 8 => if int then .ok (.vshl y d a b m) else undef
  | 9 => if int then .ok (.vshr y d a b m) else undef
  | 10 => if int then .ok (.vadds y d a b m) else undef
  | 11 => if int then .ok (.vsubs y d a b m) else undef
  | 12 => build false kw (.vcmpeq y (fld w 20 4) a b m)
  | 13 => build false kw (.vcmplt y (fld w 20 4) a b m)
  | 14 => build false kw (.vcmple y (fld w 20 4) a b m)
  | _ =>
    match b.toNat with
    | 0 => .ok (.vrsum y d a m)
    | 1 => .ok (.vrmin y d a m)
    | 2 => .ok (.vrmax y d a m)
    | 3 => .ok (.vrsumc y d a m)
    | _ => undef

/-- Majors 0x23 to 0x29 (R339, R330, R337). -/
def decodeVector (w : W32) : Dec :=
  let d := fld w 20 6; let a := fld w 14 6; let b := fld w 8 6; let m := fld w 4 4
  let y := tyOfCode m
  let d4 := fld w 20 4; let a4 := fld w 14 4; let b4 := fld w 8 4
  let dw := fld w 24 2 != 0; let aw := fld w 18 2 != 0; let bw := fld w 12 2 != 0
  match (fld w 26 6).toNat with
  | 0x23 => .ok (.vfma d a b (fld w 2 6) (fld w 0 2))
  | 0x24 =>
    let t := tyOfCode (fld w 0 4)
    build false false (.vcvt t y d a b)
  | 0x25 =>
    match (fld w 0 4).toNat with
    | 0 => build false false (.vperm y d a b)
    | 1 => build (b != 0) (fld w 19 1 != 0) (.vbcstx y d (fld w 14 5))
    | 2 => build false (fld w 13 1 != 0) (.vbcste y d a (fld w 8 5))
    | 3 => build false bw (.vcompress y d a b4)
    | 4 => build false bw (.vexpand y d a b4)
    | 5 => build (m != 0) (dw || aw || bw) (.kand d4 a4 b4)
    | 6 => build (m != 0) (dw || aw || bw) (.kor d4 a4 b4)
    | 7 => build (m != 0) (dw || aw || bw) (.kxor d4 a4 b4)
    | 8 => build (m != 0) (dw || aw || bw) (.kandn d4 a4 b4)
    | 9 => build (m != 0 || b != 0) (dw || aw) (.knot d4 a4)
    | 10 => build (m != 0 || b != 0) (dw || fld w 19 1 != 0) (.kmovx d4 (fld w 14 5))
    | 11 => build (m != 0 || b != 0) (fld w 25 1 != 0 || aw) (.xmovk (fld w 20 5) a4)
    | 12 => build (b != 0) false (.vmov d a m)
    | _ => undef
  | 0x26 =>
    let x := fld w 15 5; let n := fld w 12 3; let k := fld w 6 4; let o := fld w 0 6
    match (fld w 10 2).toNat with
    | 0 => build false false (.vld d x n k o)
    | 1 => build false false (.vst d x n k o)
    | 2 => build false false (.vldc d x n k o)
    | _ => build false false (.vstc d x n k o)
  | 0x27 =>
    let q := fld w 16 4; let z := fld w 0 11 != 0 || fld w 14 2 != 0; let xw := fld w 25 1 != 0
    match (fld w 11 3).toNat with
    | 0 => build z false (.qpopv d q)
    | 1 => build z xw (.qpopx (fld w 20 5) q)
    | 2 => build z false (.qpushv d q)
    | 3 => build z xw (.qpushx (fld w 20 5) q)
    | _ => undef
  | 0x28 =>
    let z := fld w 14 3; let zw := fld w 17 3 != 0; let r := fld w 8 5; let rowBad := fld w 13 1 != 0
    match (fld w 0 4).toNat with
    | 0 => build (d != 0 || b != 0) zw (.zclr z m)
    | 1 => if m != 0 then .error 0x01 else if zw then .error 0x04 else if rowBad then .error 0x06 else .ok (.zrd d z r)
    | 2 =>
      if zw then .error 0x04 else if !tagOk m then .error 0x05 else if rowBad then .error 0x06 else .ok (.zwr d z r m)
    | 3 => build (d != 0 || b != 0) zw (.zcvt z m)
    | _ => undef
  | 0x29 =>
    match (fld w 0 6).toNat with
    | 0 => build (fld w 21 5 != 0 || fld w 6 10 != 0) false (.mcfgwr (fld w 16 5))
    | 1 => build (fld w 6 15 != 0) false (.mcfgrd (fld w 21 5))
    | _ => undef
  | _ => undef

/-- Majors 0x2C to 0x2F (R340, R452). -/
def decodeSystem (w : W32) : Dec :=
  let d := fld w 20 6; let s := fld w 14 6; let c := fld w 4 10
  let d5 := fld w 20 5; let s5 := fld w 14 5; let dw := fld w 25 1 != 0; let sw := fld w 19 1 != 0
  match (fld w 26 6).toNat with
  | 0x2C =>
    match (fld w 0 4).toNat with
    | 0 => build (s != 0) dw (.csrrd d5 c)
    | 1 => build (d != 0) sw (.csrwr s5 c)
    | 2 => build (d != 0) sw (.csrset s5 c)
    | 3 => build (d != 0) sw (.csrclr s5 c)
    | _ => undef
  | 0x2D =>
    match (fld w 0 4).toNat with
    | 0 => build (d != 0 || s != 0) false (.trap c)
    | 1 => build (d != 0 || s != 0 || c != 0) false .tret
    | 2 => build (d != 0 || s != 0 || c != 0) false .step
    | 3 => build (d != 0 || s != 0) false (.brk c)
    | 4 => build (d != 0 || c != 0) sw (.pchks s5)
    | 5 => build (d != 0 || c != 0) false (.pchkv s)
    | 6 => build (d != 0 || c != 0) (fld w 17 3 != 0) (.pchkz (fld w 14 3))
    | _ => undef
  | 0x2E =>
    let slot := fld w 4 5
    match (fld w 0 4).toNat with
    | 0 => build (d != 0 || s != 0 || fld w 11 3 != 0) false (.rcpdef (fld w 9 2) slot)
    | 1 => build (s != 0 || fld w 9 5 != 0) false (.rcpset d slot)
    | 2 => build (s != 0 || c != 0) false (.rcpdrop d)
    | 3 => build (d != 0 || s != 0 || fld w 9 5 != 0) false (.rcpclr slot)
    | 4 => build (s != 0 || fld w 6 8 != 0) false (.rcpanch d (fld w 4 2))
    | 5 => build (s != 0 || fld w 6 8 != 0) false (.rcpunanch d (fld w 4 2))
    | _ => undef
  | 0x2F =>
    match (fld w 0 4).toNat with
    | 0 => build (d != 0 || c != 0) sw (.capture s5)
    | 1 => build (c != 0) (dw || sw) (.restore d5 s5)
    | 2 => build (d != 0 || c != 0) sw (.brkx s5)
    | _ => undef
  | _ => undef

/-- Majors 0x30 to 0x38, from word 0 and word 1 (R331, R341 and the entries' IMM17 maps). -/
def decodeEngine (w w1 : W32) : Dec :=
  let e : ETok := { tp := fld w 21 5, ta := fld w 16 5, tb := fld w 11 5, tc := fld w 6 5 }
  let sa := fld w1 27 5; let sb := fld w1 22 5; let sc := fld w1 17 5; let imm := fld w1 0 17
  let fn := (fld w 0 6).toNat
  match (fld w 26 6).toNat with
  | 0x30 =>
    match fn with
    | 0 => build (fld w1 7 10 != 0) false (.copy e sa sb sc (fld w1 6 1 != 0) (fld w1 3 3) (fld w1 0 3))
    | 1 => build (sc != 0 || fld w1 2 15 != 0) false (.copyl e sa sb (fld w1 0 2))
    | 2 => build false false (.copyn e sa sb sc (fld w1 10 7) (fld w1 4 6) (fld w1 3 1 != 0) (fld w1 0 3))
    | 3 => build (imm != 0) false (.ovla e sa sb sc)
    | 4 => build (imm != 0) false (.ovlx e sa sb sc)
    | _ => undef
  | 0x31 =>
    let z := fld w1 4 13 != 0; let lsp := fld w1 3 1 != 0; let sp := fld w1 0 3
    match fn with
    | 0 => build z false (.tgather e sa sb sc lsp sp)
    | 1 => build z false (.kvgather e sa sb sc lsp sp)
    | 2 => build z false (.tscatter e sa sb sc lsp sp)
    | _ => undef
  | 0x32 =>
    match fn with
    | 0 => build (sb != 0 || sc != 0 || imm != 0) false (.mwld e sa)
    | 1 => build (w1 != 0) false (.mswap e)
    | _ => undef
  | 0x33 =>
    let y := tyOfCode (fld w 0 4); let nz := fld w1 3 3; let z := fld w1 0 3
    match (fld w 4 2).toNat with
    | 0 => build (sc != 0) false (.mma y e sa sb (fld w1 8 9) (fld w1 7 1 != 0) (fld w1 6 1 != 0) nz z)
    | 1 => build false false (.mmas y e sa sb sc (fld w1 8 9) (fld w1 7 1 != 0) (fld w1 6 1 != 0) nz z)
    | 2 => build (sb != 0 || sc != 0 || fld w1 6 11 != 0) false (.mepi y e sa nz z)
    | _ => undef
  | 0x34 =>
    match fn with
    | 0 => build (imm != 0) false (.collred e sa sb sc)
    | 1 => build (imm != 0) false (.collgath e sa sb sc)
    | 2 => build (imm != 0) false (.collbcast e sa sb sc)
    | 3 => build (imm != 0) false (.colla2a e sa sb sc)
    | 4 => build (sa != 0 || imm != 0) false (.collsend e sb sc)
    | 5 => build (sb != 0 || imm != 0) false (.collrecv e sa sc)
    | _ => undef
  | 0x35 =>
    match fn with
    | 0 => build (fld w1 1 16 != 0) false (.pxhash e sa sb sc (fld w1 0 1 != 0))
    | 1 => build (fld w1 5 12 != 0) false (.pxmatch e sa sb sc (fld w1 0 5))
    | 2 => build (imm != 0) false (.pxpath e sa sb sc)
    | _ => undef
  | 0x36 =>
    match fn with
    | 0 => build (fld w1 2 15 != 0) false (.kvopen e sa sb sc (fld w1 0 2))
    | 1 => build (imm != 0) false (.kvseal e sa sb sc)
    | 2 => build (imm != 0) false (.kvfork e sa sb sc)
    | 3 => build (fld w1 3 14 != 0) false (.kvlease e sa sb sc (fld w1 0 3))
    | 4 => build (sc != 0 || imm != 0) false (.kvrelease e sa sb)
    | _ => undef
  | 0x37 =>
    match fn with
    | 0 => build (sc != 0 || fld w1 1 16 != 0) false (.rseal e sa sb (fld w1 0 1 != 0))
    | 1 => build (sc != 0 || fld w1 1 16 != 0) false (.runseal e sa sb (fld w1 0 1 != 0))
    | _ => undef
  | 0x38 =>
    let z := sa != 0 || sb != 0 || sc != 0
    match fn with
    | 0 => build (z || fld w1 2 15 != 0) false (.xfnc e (fld w1 0 2))
    | 1 => build (z || fld w1 5 12 != 0) false (.drain e (fld w1 0 5))
    | _ => undef
  | _ => undef

/-- A stream's word, and for a two-word form the word after it, as an instruction; else the cause of the first
check of R332 that fails, the stream and privilege checks (orders 3 and 4) left to `streamCause`. Cause 0x00
comes from orders 1 and 2 alone. -/
def decodeStream (w w1 : W32) : Dec :=
  let op := (fld w 26 6).toNat
  if op == 0 then undef
  else if op ≤ 0x07 then decodeScalar w
  else if op == 0x08 then decodeFlag w
  else if op ≤ 0x0F then decodeControl w
  else if op ≤ 0x15 then decodeMemory w
  else if op < 0x18 then undef
  else if op ≤ 0x22 then decodeVArith w
  else if op ≤ 0x29 then decodeVector w
  else if op < 0x2C then undef
  else if op ≤ 0x2F then decodeSystem w
  else decodeEngine w w1

/-- The streams that may issue a word, by its major and, in major 0x2D, its minor (R334). -/
def streamMay (w : W32) (st : Stream) : Bool :=
  let op := (fld w 26 6).toNat
  let both := op ≤ 0x07 || op == 0x0A || op == 0x0D || op == 0x0F || op == 0x14 || op == 0x2C || op == 0x38
  let aOnly := op == 0x08 || op == 0x0B || op == 0x10 || op == 0x11 || op == 0x12 || op == 0x13 || op == 0x15
    || op == 0x2F || op == 0x30 || op == 0x31 || op == 0x34 || op == 0x35 || op == 0x36 || op == 0x37
  if op == 0x2D then (st == .x || !(fld w 0 4 == 5 || fld w 0 4 == 6))
  else if both then true
  else match st with
    | .a => aOnly
    | .x => !aOnly

/-- Orders 3 and 4 of R332: the issuing stream's set, and the privileged major outside firmware context 0. -/
def streamCause (w : W32) (st : Stream) (fw : Bool) : Option (BitVec 7) :=
  if !streamMay w st then some 0x02
  else if fld w 26 6 == 0x2F && !fw then some 0x03
  else none

/-- Every check of R332 in its order, for a word issued by a stream: the instruction, or the first cause. -/
def decodeIssue (w w1 : W32) (st : Stream) (fw : Bool) : Dec :=
  match decodeStream w w1 with
  | .error c =>
    if c == 0x00 then .error c
    else match streamCause w st fw with
      | some c' => .error c'
      | none => .error c
  | .ok i =>
    match streamCause w st fw with
    | some c' => .error c'
    | none => .ok i

/-- Words a stream form takes: two for a defined or undefined major 0x30 to 0x38, one otherwise (R324, R333). -/
def wordsOf (w : W32) : Nat :=
  let op := (fld w 26 6).toNat
  if 0x30 ≤ op && op ≤ 0x38 then 2 else 1

/-- A queue-program word as an instruction, or the CODE of the rule of R83 that it breaks: a branch by 512 words or more has its target
beyond the last word of any program. -/
def decodeQ (w : W32) : Except Nat Instr :=
  let d := fld w 22 4; let s := fld w 18 4; let t := fld w 14 4
  let alu (i : Instr) : Except Nat Instr := if fld w 0 14 != 0 then .error 1 else .ok i
  let lp (i : Instr) : Except Nat Instr := if operandCause i != none then .error 1 else .ok i
  let br (i : Instr) : Except Nat Instr := if 512 ≤ (fld w 0 18 : BitVec 18).toNat then .error 4 else lp i
  match (fld w 26 6).toNat with
  | 0x01 => alu (.qadd d s t)
  | 0x02 => alu (.qsub d s t)
  | 0x03 => alu (.qand d s t)
  | 0x04 => alu (.qor d s t)
  | 0x05 => alu (.qxor d s t)
  | 0x06 => alu (.qshl d s t)
  | 0x07 => alu (.qshr d s t)
  | 0x08 => .ok (.qaddi d s (fld w 0 18))
  | 0x09 => .ok (.qandi d s (fld w 0 18))
  | 0x0A => .ok (.qori d s (fld w 0 18))
  | 0x0B => if fld w 6 12 != 0 then .error 1 else .ok (.qshli d s (fld w 0 6))
  | 0x0C => if fld w 6 12 != 0 then .error 1 else .ok (.qshri d s (fld w 0 6))
  | 0x0D => if s != 0 then .error 1 else .ok (.qmovi d (fld w 0 18))
  | 0x10 => .ok (.qld d s (fld w 15 3) (fld w 13 2) (fld w 0 13))
  | 0x11 => .ok (.qst d s (fld w 15 3) (fld w 13 2) (fld w 0 13))
  | 0x18 => br (.qbeq d s (fld w 0 18))
  | 0x19 => br (.qbne d s (fld w 0 18))
  | 0x1A => br (.qbltu d s (fld w 0 18))
  | 0x1C => if fld w 9 11 != 0 then .error 1 else lp (.qloop (fld w 20 6) (fld w 0 9))
  | 0x20 => if fld w 0 26 != 0 then .error 1 else .ok .qdisp
  | 0x21 => if fld w 16 10 != 0 then .error 1 else .ok (.qdrop (fld w 0 16))
  | _ => .error 1

/-! ## The encoder -/

/-- Format R (R328). -/
def encR (op : Nat) (d s t c : BitVec 5) (fn : Nat) : W32 :=
  BitVec.ofNat 6 op ++ d ++ s ++ t ++ c ++ BitVec.ofNat 6 fn
/-- Format I (R328). -/
def encI (op : Nat) (d s : BitVec 5) (i : BitVec 16) : W32 := BitVec.ofNat 6 op ++ d ++ s ++ i
/-- Format B (R328). -/
def encB (op : Nat) (s t : BitVec 5) (cc : Nat) (disp : BitVec 13) : W32 :=
  BitVec.ofNat 6 op ++ s ++ t ++ BitVec.ofNat 3 cc ++ disp
/-- Format M (R329). -/
def encM (op : Nat) (d b : BitVec 5) (p : BitVec 2) (sz sgn : Nat) (o : BitVec 11) : W32 :=
  BitVec.ofNat 6 op ++ d ++ b ++ p ++ BitVec.ofNat 2 sz ++ BitVec.ofNat 1 sgn ++ o
/-- Format Q (R329). -/
def encQ (op : Nat) (r : BitVec 6) (q : BitVec 4) (p : BitVec 2) (fn : Nat) (o : BitVec 11) : W32 :=
  BitVec.ofNat 6 op ++ r ++ q ++ p ++ BitVec.ofNat 3 fn ++ o
/-- Format V (R330). -/
def encV (op : BitVec 6) (d a b : BitVec 6) (m : BitVec 4) (fn : Nat) : W32 := op ++ d ++ a ++ b ++ m ++ BitVec.ofNat 4 fn
/-- Format VF of `VFMA` (R330). -/
def encVF (d a b c : BitVec 6) (f : BitVec 2) : W32 := (0x23 : BitVec 6) ++ d ++ a ++ b ++ c ++ f
/-- Format VM (R330). -/
def encVM (d : BitVec 6) (x : BitVec 5) (n : BitVec 3) (sel : Nat) (m : BitVec 4) (o : BitVec 6) : W32 :=
  (0x26 : BitVec 6) ++ d ++ x ++ n ++ BitVec.ofNat 2 sel ++ m ++ o
/-- Format S (R331). -/
def encS (op : Nat) (d s : BitVec 6) (c : BitVec 10) (fn : Nat) : W32 :=
  BitVec.ofNat 6 op ++ d ++ s ++ c ++ BitVec.ofNat 4 fn
/-- Format E, word 0 (R331). -/
def encE0 (op : Nat) (e : ETok) (fn : BitVec 6) : W32 := BitVec.ofNat 6 op ++ e.tp ++ e.ta ++ e.tb ++ e.tc ++ fn
/-- Format E, word 1 (R331). -/
def encE1 (sa sb sc : BitVec 5) (imm : BitVec 17) : W32 := sa ++ sb ++ sc ++ imm
/-- Formats A, B, J of queue programs (R81). -/
def encQA (op : Nat) (d s t : BitVec 4) : W32 := BitVec.ofNat 6 op ++ d ++ s ++ t ++ (0 : BitVec 14)
def encQB (op : Nat) (d s : BitVec 4) (i : BitVec 18) : W32 := BitVec.ofNat 6 op ++ d ++ s ++ i
/-- Format W of queue programs (R81). -/
def encQW (op : Nat) (d s : BitVec 4) (w : BitVec 3) (z : BitVec 2) (o : BitVec 13) : W32 :=
  BitVec.ofNat 6 op ++ d ++ s ++ w ++ z ++ o

/-- Format L of queue programs (R81). -/
def encQL (c : BitVec 6) (b : BitVec 9) : W32 := (0x1C : BitVec 6) ++ c ++ (0 : BitVec 11) ++ b

/-- One bit as a field. -/
def bit1 (b : Bool) : BitVec 1 := if b then 1 else 0

/-- Five bits of a scalar register in a six-bit field. -/
def r6 (r : BitVec 5) : BitVec 6 := (0 : BitVec 1) ++ r
/-- Three bits of a flag in a five-bit field. -/
def f5 (f : BitVec 3) : BitVec 5 := (0 : BitVec 2) ++ f
/-- Four bits of a mask in a six-bit field. -/
def k6 (k : BitVec 4) : BitVec 6 := (0 : BitVec 2) ++ k
/-- Three bits of an accumulator tile in a six-bit field. -/
def z6 (z : BitVec 3) : BitVec 6 := (0 : BitVec 3) ++ z

/-- The words of an instruction, first word first, from the encoding tables of R328 to R341 and R81, R82; an event has none. -/
def encode : Instr → List W32
  | .add d s t => [encR 0x01 d s t 0 0]
  | .sub d s t => [encR 0x01 d s t 0 1]
  | .and d s t => [encR 0x01 d s t 0 2]
  | .or d s t => [encR 0x01 d s t 0 3]
  | .xor d s t => [encR 0x01 d s t 0 4]
  | .shl d s t => [encR 0x01 d s t 0 5]
  | .shr d s t => [encR 0x01 d s t 0 6]
  | .sra d s t => [encR 0x01 d s t 0 7]
  | .mul d s t => [encR 0x01 d s t 0 8]
  | .mulh d s t => [encR 0x01 d s t 0 9]
  | .mulhu d s t => [encR 0x01 d s t 0 10]
  | .div d s t => [encR 0x01 d s t 0 11]
  | .divu d s t => [encR 0x01 d s t 0 12]
  | .rem d s t => [encR 0x01 d s t 0 13]
  | .remu d s t => [encR 0x01 d s t 0 14]
  | .min d s t => [encR 0x01 d s t 0 15]
  | .max d s t => [encR 0x01 d s t 0 16]
  | .minu d s t => [encR 0x01 d s t 0 17]
  | .maxu d s t => [encR 0x01 d s t 0 18]
  | .seq d s t => [encR 0x01 d s t 0 19]
  | .slt d s t => [encR 0x01 d s t 0 20]
  | .sltu d s t => [encR 0x01 d s t 0 21]
  | .clz d s => [encR 0x01 d s 0 0 22]
  | .ctz d s => [encR 0x01 d s 0 0 23]
  | .popc d s => [encR 0x01 d s 0 0 24]
  | .sel d s t c => [encR 0x01 d s t c 25]
  | .addi d s i => [encI 0x02 d s i]
  | .andi d s i => [encI 0x03 d s i]
  | .ori d s i => [encI 0x04 d s i]
  | .xori d s i => [encI 0x05 d s i]
  | .shli d s n => [encI 0x06 d s ((0 : BitVec 10) ++ n)]
  | .shri d s n => [encI 0x06 d s ((0x40 : BitVec 10) ++ n)]
  | .srai d s n => [encI 0x06 d s ((0x80 : BitVec 10) ++ n)]
  | .movk d i h => [encI 0x07 d ((0 : BitVec 3) ++ h) i]
  | .cmpEq f s t => [encR 0x08 (f5 f) s t 0 0]
  | .cmpNe f s t => [encR 0x08 (f5 f) s t 0 1]
  | .cmpLt f s t => [encR 0x08 (f5 f) s t 0 2]
  | .cmpGe f s t => [encR 0x08 (f5 f) s t 0 3]
  | .cmpLtu f s t => [encR 0x08 (f5 f) s t 0 4]
  | .cmpGeu f s t => [encR 0x08 (f5 f) s t 0 5]
  | .fand f a b => [encR 0x08 (f5 f) (f5 a) (f5 b) 0 6]
  | .for_ f a b => [encR 0x08 (f5 f) (f5 a) (f5 b) 0 7]
  | .fxor f a b => [encR 0x08 (f5 f) (f5 a) (f5 b) 0 8]
  | .fget d a => [encR 0x08 d (f5 a) 0 0 9]
  | .fput f s => [encR 0x08 (f5 f) s 0 0 10]
  | .beq s t d => [encB 0x0A s t 0 d]
  | .bne s t d => [encB 0x0A s t 1 d]
  | .blt s t d => [encB 0x0A s t 2 d]
  | .bge s t d => [encB 0x0A s t 3 d]
  | .bltu s t d => [encB 0x0A s t 4 d]
  | .bgeu s t d => [encB 0x0A s t 5 d]
  | .bfs f d => [encB 0x0B (f5 f) 0 0 d]
  | .bfc f d => [encB 0x0B (f5 f) 0 1 d]
  | .bqs d => [encB 0x0C 0 0 0 d]
  | .bqc d => [encB 0x0C 0 0 1 d]
  | .jmp j => [encI 0x0D 0 0 j]
  | .call l j => [encI 0x0D l 0 j]
  | .jmpr s j => [encI 0x0D 0 s j]
  | .callr l s j => [encI 0x0D l s j]
  | .tkwait k => [encR 0x0F 0 k 0 0 0]
  | .tktest d k => [encR 0x0F d k 0 0 1]
  | .tkcnt d k => [encR 0x0F d k 0 0 2]
  | .ldb d b p o => [encM 0x10 d b p 0 0 o]
  | .ldh d b p o => [encM 0x10 d b p 1 0 o]
  | .ldw d b p o => [encM 0x10 d b p 2 0 o]
  | .ldd d b p o => [encM 0x10 d b p 3 0 o]
  | .ldbs d b p o => [encM 0x10 d b p 0 1 o]
  | .ldhs d b p o => [encM 0x10 d b p 1 1 o]
  | .ldws d b p o => [encM 0x10 d b p 2 1 o]
  | .stb s b p o => [encM 0x11 s b p 0 0 o]
  | .sth s b p o => [encM 0x11 s b p 1 0 o]
  | .stw s b p o => [encM 0x11 s b p 2 0 o]
  | .std s b p o => [encM 0x11 s b p 3 0 o]
  | .aswap d a t k c z => [encR 0x12 d a t (k ++ c ++ z) 0]
  | .acas d a t k c z => [encR 0x12 d a t (k ++ c ++ z) 1]
  | .aadd d a t k c z => [encR 0x12 d a t (k ++ c ++ z) 2]
  | .aand d a t k c z => [encR 0x12 d a t (k ++ c ++ z) 3]
  | .aor d a t k c z => [encR 0x12 d a t (k ++ c ++ z) 4]
  | .axor d a t k c z => [encR 0x12 d a t (k ++ c ++ z) 5]
  | .amin d a t k c z => [encR 0x12 d a t (k ++ c ++ z) 6]
  | .amax d a t k c z => [encR 0x12 d a t (k ++ c ++ z) 7]
  | .aminu d a t k c z => [encR 0x12 d a t (k ++ c ++ z) 8]
  | .amaxu d a t k c z => [encR 0x12 d a t (k ++ c ++ z) 9]
  | .qfill b q p o => [encQ 0x13 (r6 b) q p 0 o]
  | .qstore b q p o => [encQ 0x13 (r6 b) q p 1 o]
  | .qpopa d q => [encQ 0x13 (r6 d) q 0 2 0]
  | .qbpush f => [encQ 0x13 (z6 f) 8 0 3 0]
  | .fence k c => [encR 0x14 0 0 0 (k ++ c ++ (0 : BitVec 1)) 0]
  | .sqpush f => [encR 0x15 (f5 f) 0 0 0 0]
  | .enq f s => [encR 0x15 (f5 f) s 0 0 1]
  | .bar => [encR 0x15 0 0 0 0 2]
  | .vadd y d a b m => [encV y.major d a b m 0]
  | .vsub y d a b m => [encV y.major d a b m 1]
  | .vmul y d a b m => [encV y.major d a b m 2]
  | .vmin y d a b m => [encV y.major d a b m 3]
  | .vmax y d a b m => [encV y.major d a b m 4]
  | .vand y d a b m => [encV y.major d a b m 5]
  | .vor y d a b m => [encV y.major d a b m 6]
  | .vxor y d a b m => [encV y.major d a b m 7]
  | .vdiv y d a b m => [encV y.major d a b m 5]
  | .vsqrt y d a m => [encV y.major d a 0 m 6]
  | .vmac y d a b m => [encV y.major d a b m 7]
  | .vshl y d a b m => [encV y.major d a b m 8]
  | .vshr y d a b m => [encV y.major d a b m 9]
  | .vadds y d a b m => [encV y.major d a b m 10]
  | .vsubs y d a b m => [encV y.major d a b m 11]
  | .vcmpeq y k a b m => [encV y.major (k6 k) a b m 12]
  | .vcmplt y k a b m => [encV y.major (k6 k) a b m 13]
  | .vcmple y k a b m => [encV y.major (k6 k) a b m 14]
  | .vrsum y d a m => [encV y.major d a 0 m 15]
  | .vrmin y d a m => [encV y.major d a 1 m 15]
  | .vrmax y d a m => [encV y.major d a 2 m 15]
  | .vrsumc y d a m => [encV y.major d a 3 m 15]
  | .vfma d a b c f => [encVF d a b c f]
  | .vcvt t s d a b => [encV 0x24 d a b s.code t.code.toNat]
  | .vperm y d a b => [encV 0x25 d a b y.code 0]
  | .vbcstx y d x => [encV 0x25 d (r6 x) 0 y.code 1]
  | .vbcste y d a x => [encV 0x25 d a (r6 x) y.code 2]
  | .vcompress y d a k => [encV 0x25 d a (k6 k) y.code 3]
  | .vexpand y d a k => [encV 0x25 d a (k6 k) y.code 4]
  | .kand d a b => [encV 0x25 (k6 d) (k6 a) (k6 b) 0 5]
  | .kor d a b => [encV 0x25 (k6 d) (k6 a) (k6 b) 0 6]
  | .kxor d a b => [encV 0x25 (k6 d) (k6 a) (k6 b) 0 7]
  | .kandn d a b => [encV 0x25 (k6 d) (k6 a) (k6 b) 0 8]
  | .knot d a => [encV 0x25 (k6 d) (k6 a) 0 0 9]
  | .kmovx d x => [encV 0x25 (k6 d) (r6 x) 0 0 10]
  | .xmovk d a => [encV 0x25 (r6 d) (k6 a) 0 0 11]
  | .vmov d a m => [encV 0x25 d a 0 m 12]
  | .vld d x n m o => [encVM d x n 0 m o]
  | .vst d x n m o => [encVM d x n 1 m o]
  | .vldc d x n m o => [encVM d x n 2 m o]
  | .vstc d x n m o => [encVM d x n 3 m o]
  | .qpopv v q => [encQ 0x27 v q 0 0 0]
  | .qpopx x q => [encQ 0x27 (r6 x) q 0 1 0]
  | .qpushv v q => [encQ 0x27 v q 0 2 0]
  | .qpushx x q => [encQ 0x27 (r6 x) q 0 3 0]
  | .zclr z t => [encV 0x28 0 (z6 z) 0 t 0]
  | .zrd d z r => [encV 0x28 d (z6 z) (r6 r) 0 1]
  | .zwr d z r t => [encV 0x28 d (z6 z) (r6 r) t 2]
  | .zcvt z t => [encV 0x28 0 (z6 z) 0 t 3]
  | .mcfgwr s => [encR 0x29 0 s 0 0 0]
  | .mcfgrd d => [encR 0x29 d 0 0 0 1]
  | .csrrd d c => [encS 0x2C (r6 d) 0 c 0]
  | .csrwr s c => [encS 0x2C 0 (r6 s) c 1]
  | .csrset s c => [encS 0x2C 0 (r6 s) c 2]
  | .csrclr s c => [encS 0x2C 0 (r6 s) c 3]
  | .trap c => [encS 0x2D 0 0 c 0]
  | .tret => [encS 0x2D 0 0 0 1]
  | .step => [encS 0x2D 0 0 0 2]
  | .brk c => [encS 0x2D 0 0 c 3]
  | .pchks s => [encS 0x2D 0 (r6 s) 0 4]
  | .pchkv v => [encS 0x2D 0 v 0 5]
  | .pchkz z => [encS 0x2D 0 (z6 z) 0 6]
  | .rcpdef n s => [encS 0x2E 0 0 ((0 : BitVec 3) ++ n ++ s) 0]
  | .rcpset d s => [encS 0x2E d 0 ((0 : BitVec 5) ++ s) 1]
  | .rcpdrop d => [encS 0x2E d 0 0 2]
  | .rcpclr s => [encS 0x2E 0 0 ((0 : BitVec 5) ++ s) 3]
  | .rcpanch d c => [encS 0x2E d 0 ((0 : BitVec 8) ++ c) 4]
  | .rcpunanch d c => [encS 0x2E d 0 ((0 : BitVec 8) ++ c) 5]
  | .capture s => [encS 0x2F 0 (r6 s) 0 0]
  | .restore d s => [encS 0x2F (r6 d) (r6 s) 0 1]
  | .brkx s => [encS 0x2F 0 (r6 s) 0 2]
  | .copy e sa sb sc fill ssp dsp =>
    [encE0 0x30 e 0, encE1 sa sb sc ((0 : BitVec 10) ++ bit1 fill ++ ssp ++ dsp)]
  | .copyl e sa sb tier => [encE0 0x30 e 1, encE1 sa sb 0 ((0 : BitVec 15) ++ tier)]
  | .copyn e sa sb sc nl nt dir sp => [encE0 0x30 e 2, encE1 sa sb sc (nl ++ nt ++ bit1 dir ++ sp)]
  | .ovla e sa sb sc => [encE0 0x30 e 3, encE1 sa sb sc 0]
  | .ovlx e sa sb sc => [encE0 0x30 e 4, encE1 sa sb sc 0]
  | .tgather e sa sb sc l sp => [encE0 0x31 e 0, encE1 sa sb sc ((0 : BitVec 13) ++ bit1 l ++ sp)]
  | .kvgather e sa sb sc l sp => [encE0 0x31 e 1, encE1 sa sb sc ((0 : BitVec 13) ++ bit1 l ++ sp)]
  | .tscatter e sa sb sc l sp => [encE0 0x31 e 2, encE1 sa sb sc ((0 : BitVec 13) ++ bit1 l ++ sp)]
  | .mwld e sa => [encE0 0x32 e 0, encE1 sa 0 0 0]
  | .mswap e => [encE0 0x32 e 1, encE1 0 0 0 0]
  | .mma y e sa sb nrb epi zero nz z =>
    [encE0 0x33 e ((0 : BitVec 2) ++ y.code), encE1 sa sb 0 (nrb ++ bit1 epi ++ bit1 zero ++ nz ++ z)]
  | .mmas y e sa sb sc nrb epi zero nz z =>
    [encE0 0x33 e ((1 : BitVec 2) ++ y.code), encE1 sa sb sc (nrb ++ bit1 epi ++ bit1 zero ++ nz ++ z)]
  | .mepi y e sa nz z => [encE0 0x33 e ((2 : BitVec 2) ++ y.code), encE1 sa 0 0 ((0 : BitVec 11) ++ nz ++ z)]
  | .collred e sa sb sc => [encE0 0x34 e 0, encE1 sa sb sc 0]
  | .collgath e sa sb sc => [encE0 0x34 e 1, encE1 sa sb sc 0]
  | .collbcast e sa sb sc => [encE0 0x34 e 2, encE1 sa sb sc 0]
  | .colla2a e sa sb sc => [encE0 0x34 e 3, encE1 sa sb sc 0]
  | .collsend e sb sc => [encE0 0x34 e 4, encE1 0 sb sc 0]
  | .collrecv e sa sc => [encE0 0x34 e 5, encE1 sa 0 sc 0]
  | .pxhash e sa sb sc f => [encE0 0x35 e 0, encE1 sa sb sc ((0 : BitVec 16) ++ bit1 f)]
  | .pxmatch e sa sb sc l => [encE0 0x35 e 1, encE1 sa sb sc ((0 : BitVec 12) ++ l)]
  | .pxpath e sa sb sc => [encE0 0x35 e 2, encE1 sa sb sc 0]
  | .kvopen e sa sb sc t => [encE0 0x36 e 0, encE1 sa sb sc ((0 : BitVec 15) ++ t)]
  | .kvseal e sa sb sc => [encE0 0x36 e 1, encE1 sa sb sc 0]
  | .kvfork e sa sb sc => [encE0 0x36 e 2, encE1 sa sb sc 0]
  | .kvlease e sa sb sc p => [encE0 0x36 e 3, encE1 sa sb sc ((0 : BitVec 14) ++ p)]
  | .kvrelease e sa sb => [encE0 0x36 e 4, encE1 sa sb 0 0]
  | .rseal e sa sb sp => [encE0 0x37 e 0, encE1 sa sb 0 ((0 : BitVec 16) ++ bit1 sp)]
  | .runseal e sa sb sp => [encE0 0x37 e 1, encE1 sa sb 0 ((0 : BitVec 16) ++ bit1 sp)]
  | .xfnc e l => [encE0 0x38 e 0, encE1 0 0 0 ((0 : BitVec 15) ++ l)]
  | .drain e m => [encE0 0x38 e 1, encE1 0 0 0 ((0 : BitVec 12) ++ m)]
  | .qadd d s t => [encQA 0x01 d s t]
  | .qsub d s t => [encQA 0x02 d s t]
  | .qand d s t => [encQA 0x03 d s t]
  | .qor d s t => [encQA 0x04 d s t]
  | .qxor d s t => [encQA 0x05 d s t]
  | .qshl d s t => [encQA 0x06 d s t]
  | .qshr d s t => [encQA 0x07 d s t]
  | .qaddi d s i => [encQB 0x08 d s i]
  | .qandi d s i => [encQB 0x09 d s i]
  | .qori d s i => [encQB 0x0A d s i]
  | .qshli d s n => [encQB 0x0B d s ((0 : BitVec 12) ++ n)]
  | .qshri d s n => [encQB 0x0C d s ((0 : BitVec 12) ++ n)]
  | .qmovi d i => [encQB 0x0D d 0 i]
  | .qld d s w z o => [encQW 0x10 d s w z o]
  | .qst d s w z o => [encQW 0x11 d s w z o]
  | .qbeq s t d => [encQB 0x18 s t d]
  | .qbne s t d => [encQB 0x19 s t d]
  | .qbltu s t d => [encQB 0x1A s t d]
  | .qloop c b => [encQL c b]
  | .qdisp => [encQB 0x20 0 0 0]
  | .qdrop c => [encQB 0x21 0 0 ((0 : BitVec 2) ++ c)]
  | _ => []

/-- Whether an instruction belongs to queue programs (R82). -/
def isQueueInstr : Instr → Bool
  | .qadd .. | .qsub .. | .qand .. | .qor .. | .qxor .. | .qshl .. | .qshr .. | .qaddi .. | .qandi .. | .qori ..
  | .qshli .. | .qshri .. | .qmovi .. | .qld .. | .qst .. | .qbeq .. | .qbne .. | .qbltu .. | .qloop .. | .qdisp
  | .qdrop .. => true
  | _ => false

/-- The instruction read from a table word whose first word is bits [31:0] and second word bits [63:32]: a word of a
stream where the stream's map defines it, else a word of a queue program. -/
def decodeTableWord (nbits w : Nat) : Option Instr :=
  let w := w % 2 ^ nbits
  let w0 : W32 := BitVec.ofNat 32 w
  let w1 : W32 := BitVec.ofNat 32 (w / 2 ^ 32)
  match decodeStream w0 w1 with
  | .ok i => some i
  | .error _ =>
    match decodeQ w0 with
    | .ok i => some i
    | .error _ => none

end Sys2Proof
end

