-- ==== Sys2Proof/Machine/Fp.lean ====
section
/-! DEFINITION. Numbers: the floating formats (R268, R269), exact values and their rounding (R275 to R279), the OI4 blocks
(R272, R282), block scales (R273), conversions (R281), and the element operations of the vector unit (R286). -/

namespace Sys2Proof.Machine

/-! ## Formats (R268) -/

/-- How a format treats its top exponent: infinities and NaNs; E4M3's two NaN codes; E2M1's none. -/
inductive FKind where
  | ieee | e4m3 | e2m1
  deriving DecidableEq, Repr

/-- A floating format: exponent and fraction widths, bias. -/
structure Fmt where
  eb : Nat
  mb : Nat
  bias : Nat
  kind : FKind
  deriving DecidableEq, Repr

def fF64 : Fmt := { eb := 11, mb := 52, bias := 1023, kind := .ieee }
def fF32 : Fmt := { eb := 8, mb := 23, bias := 127, kind := .ieee }
def fF16 : Fmt := { eb := 5, mb := 10, bias := 15, kind := .ieee }
def fBF16 : Fmt := { eb := 8, mb := 7, bias := 127, kind := .ieee }
def fE5M2 : Fmt := { eb := 5, mb := 2, bias := 15, kind := .ieee }
def fE4M3 : Fmt := { eb := 4, mb := 3, bias := 7, kind := .e4m3 }
def fE2M1 : Fmt := { eb := 2, mb := 1, bias := 1, kind := .e2m1 }
def fA40 : Fmt := { eb := 9, mb := 30, bias := 255, kind := .ieee }

/-- The format of a floating element type. -/
def fmtOf : Ty → Option Fmt
  | .f64 => some fF64
  | .f32 => some fF32
  | .f16 => some fF16
  | .bf16 => some fBF16
  | .e5m2 => some fE5M2
  | .e4m3 => some fE4M3
  | .e2m1 => some fE2M1
  | .a40 => some fA40
  | _ => none

/-! ## Values -/

/-- A value: a NaN, signalling or not; an infinity; or (−1)^neg × m × 2^e. -/
inductive FV where
  | nan (sig : Bool)
  | inf (neg : Bool)
  | fin (neg : Bool) (m : Nat) (e : Int)
  deriving DecidableEq, Repr

def FV.isNan : FV → Bool
  | .nan _ => true
  | _ => false
def FV.isSnan : FV → Bool
  | .nan b => b
  | _ => false
def FV.isZero : FV → Bool
  | .fin _ m _ => m == 0
  | _ => false
def FV.neg : FV → Bool
  | .nan _ => false
  | .inf n => n
  | .fin n _ _ => n

/-- The value of a code (R269). -/
def Fmt.unpack (f : Fmt) (c : Nat) : FV :=
  let s := bitOf c (f.eb + f.mb)
  let e := bitsOf c (f.eb + f.mb - 1) f.mb
  let m := c % 2 ^ f.mb
  let top := 2 ^ f.eb - 1
  if f.kind = .ieee && e = top then (if m = 0 then .inf s else .nan (!bitOf m (f.mb - 1)))
  else if f.kind = .e4m3 && e = top && m = 2 ^ f.mb - 1 then .nan false
  else if e = 0 then .fin s m (1 - (f.bias : Int) - f.mb)
  else .fin s (2 ^ f.mb + m) (e - (f.bias : Int) - f.mb)

/-- Number of significant bits. -/
def bitLen (m : Nat) : Nat := if m = 0 then 0 else Nat.log2 m + 1

/-- The largest significand of a format, in units of its last place. -/
def Fmt.maxM (f : Fmt) : Nat := if f.kind = .e4m3 then 2 ^ (f.mb + 1) - 2 else 2 ^ (f.mb + 1) - 1
/-- The exponent of the leading bit of the largest finite value. -/
def Fmt.emax (f : Fmt) : Int := (2 ^ f.eb - 1 : Nat) - (f.bias : Int) - (if f.kind = .ieee then 1 else 0)

/-- The code of a sign, a significand below 2^(mb+1), and the exponent of its last place. -/
def Fmt.codeOf (f : Fmt) (neg : Bool) (m : Nat) (q : Int) : Nat :=
  let s := if neg then 2 ^ (f.eb + f.mb) else 0
  if m < 2 ^ f.mb then s + m
  else s + (q + f.mb + f.bias).toNat * 2 ^ f.mb + (m - 2 ^ f.mb)

/-- The code of an infinity or canonical NaN, or of the largest finite value (R269, R276). -/
def Fmt.infCode (f : Fmt) (neg : Bool) : Nat := (if neg then 2 ^ (f.eb + f.mb) else 0) + (2 ^ f.eb - 1) * 2 ^ f.mb
def Fmt.maxCode (f : Fmt) (neg : Bool) : Nat := f.codeOf neg f.maxM (f.emax - f.mb)
def Fmt.nanCode (f : Fmt) : Nat :=
  match f.kind with
  | .ieee => (2 ^ f.eb - 1) * 2 ^ f.mb + 2 ^ (f.mb - 1)
  | .e4m3 => 0x7F
  | .e2m1 => 0x7

/-! ## Rounding (R275, R276, R279) -/

/-- `m × 2^e` in units of 2^q under a rounding mode, `sticky` telling that a little more follows: the integer, and whether
it is inexact. -/
def roundTo (rm : BitVec 2) (neg : Bool) (m : Nat) (e : Int) (sticky : Bool) (q : Int) : Nat × Bool :=
  if q ≤ e then (m * 2 ^ (e - q).toNat, sticky)
  else
    let d := (q - e).toNat
    let quo := m / 2 ^ d
    let rem := m % 2 ^ d
    let half := 2 ^ (d - 1)
    let more := rem != 0 || sticky
    let up := match rm.toNat with
      | 0 => decide (half < rem) || (rem == half && (sticky || quo % 2 == 1))
      | 1 => false
      | 2 => neg && more
      | _ => !neg && more
    (if up then quo + 1 else quo, more)

/-- Whether an overflow of this sign delivers infinity rather than the largest value (R276). -/
def overInf (rm : BitVec 2) (neg : Bool) : Bool :=
  match rm.toNat with
  | 0 => true
  | 1 => false
  | 2 => neg
  | _ => !neg

/-- Round a nonzero exact value to a format: code and flags (R275, R276, R279). -/
def Fmt.round (f : Fmt) (rm : BitVec 2) (ftz neg : Bool) (m : Nat) (e : Int) (sticky : Bool) : Nat × BitVec 6 :=
  let E : Int := e + bitLen m - 1
  let emin : Int := 1 - (f.bias : Int)
  let q : Int := max E emin - f.mb
  let r := roundTo rm neg m e sticky q
  -- magnitude above the largest finite value
  let big := decide (f.emax < E) ||
    (E == f.emax && decide (f.maxM < r.1))
  if big then
    (if f.kind = .ieee && overInf rm neg then f.infCode neg else f.maxCode neg, fOF ||| fNX)
  else
    let tiny := decide (E < emin - 1) ||
      (E == emin - 1 && decide ((roundTo rm neg m e sticky (E - f.mb)).1 < 2 ^ (f.mb + 1)))
    let sub := decide (r.1 < 2 ^ f.mb)
    let z0 := if neg then 2 ^ (f.eb + f.mb) else 0
    if sub && ftz && r.1 != 0 then (z0, fUF ||| fNX)
    else
      let fl := (if r.2 then fNX else 0) ||| (if tiny && r.2 then fUF else 0)
      -- a carry out of the significand
      if r.1 = 2 ^ (f.mb + 1) then (f.codeOf neg (2 ^ f.mb) (q + 1), fl)
      else (f.codeOf neg r.1 q, fl)

/-- The exact result of an operation, before its one rounding; a NaN result says whether it sets NV. -/
inductive XR where
  | nan (nv : Bool)
  | inf (neg : Bool)
  | num (neg : Bool) (m : Nat) (e : Int) (sticky : Bool)
  deriving DecidableEq, Repr

/-- Deliver an exact result in a format (R275, R276, R278). -/
def Fmt.pack (f : Fmt) (rm : BitVec 2) (ftz : Bool) : XR → Nat × BitVec 6
  | .nan nv => (f.nanCode, if nv || f.kind = .e2m1 then fNV else 0)
  | .inf n => if f.kind = .ieee then (f.infCode n, 0) else (f.maxCode n, fOF)
  | .num n m e st =>
    if m = 0 then (if n then 2 ^ (f.eb + f.mb) else 0, 0) else f.round rm ftz n m e st

/-- A value as an exact result. -/
def FV.exact : FV → XR
  | .nan s => .nan s
  | .inf n => .inf n
  | .fin n m e => .num n m e false

/-- An input that is subnormal in the computation format is read as a zero of its sign under FTZ (R279). -/
def Fmt.flushIn (f : Fmt) (ftz : Bool) (v : FV) : FV :=
  match v with
  | .fin n m e => if ftz && decide ((e + bitLen m - 1 : Int) < 1 - (f.bias : Int)) then .fin n 0 0 else v
  | _ => v

/-! ## Exact operations (R275, R278) -/

/-- Signed significand at exponent `e0 ≤ e`. -/
def sigAt (neg : Bool) (m : Nat) (e e0 : Int) : Int := (if neg then -1 else 1) * ((m * 2 ^ (e - e0).toNat : Nat) : Int)

/-- The exact sum of two finite values. A zero sum of unlike zeros or of opposite values is +0, and −0 when
rounding toward −∞ (log entry 30). -/
def addFin (rm : BitVec 2) (na : Bool) (ma : Nat) (ea : Int) (nb : Bool) (mb : Nat) (eb : Int) : XR :=
  if ma = 0 && mb = 0 then .num (if na = nb then na else rm == 2) 0 0 false
  else if ma = 0 then .num nb mb eb false
  else if mb = 0 then .num na ma ea false
  else
    let e0 := min ea eb
    let v := sigAt na ma ea e0 + sigAt nb mb eb e0
    if v = 0 then .num (rm == 2) 0 0 false else .num (decide (v < 0)) v.natAbs e0 false

/-- a + b, exactly. -/
def fAdd (rm : BitVec 2) (a b : FV) : XR :=
  match a, b with
  | .nan s, x => .nan (s || x.isSnan)
  | _, .nan s => .nan s
  | .inf n, .inf k => if n = k then .inf n else .nan true
  | .inf n, _ => .inf n
  | _, .inf n => .inf n
  | .fin na ma ea, .fin nb mb eb => addFin rm na ma ea nb mb eb

/-- The value negated. -/
def FV.negate : FV → FV
  | .nan s => .nan s
  | .inf n => .inf (!n)
  | .fin n m e => .fin (!n) m e

/-- a × b, exactly. -/
def fMul (a b : FV) : XR :=
  match a, b with
  | .nan s, x => .nan (s || x.isSnan)
  | _, .nan s => .nan s
  | .inf n, x => if x.isZero then .nan true else .inf (n != x.neg)
  | x, .inf n => if x.isZero then .nan true else .inf (x.neg != n)
  | .fin na ma ea, .fin nb mb eb => .num (na != nb) (ma * mb) (ea + eb) false

/-- a × b + c, exactly. -/
def fFma (rm : BitVec 2) (a b c : FV) : XR :=
  match fMul a b, c with
  | .nan v, x => .nan (v || x.isSnan)
  | _, .nan s => .nan s
  | .inf n, .inf k => if n = k then .inf n else .nan true
  | .inf n, _ => .inf n
  | .num _ _ _ _, .inf n => .inf n
  | .num n m e _, .fin k x y => addFin rm n m e k x y

/-- a / b for a destination of `mb` fraction bits, and whether it divides a finite nonzero value by zero (R278). -/
def fDiv (mb : Nat) (a b : FV) : XR × Bool :=
  match a, b with
  | .nan s, x => (.nan (s || x.isSnan), false)
  | _, .nan s => (.nan s, false)
  | .inf _, .inf _ => (.nan true, false)
  | .inf n, x => (.inf (n != x.neg), false)
  | x, .inf n => (.num (x.neg != n) 0 0 false, false)
  | .fin na ma ea, .fin nb mb' eb =>
    let n := na != nb
    if mb' = 0 then (if ma = 0 then (.nan true, false) else (.inf n, true))
    else if ma = 0 then (.num n 0 0 false, false)
    else
      let k := mb + 4 + bitLen mb'
      let num := ma * 2 ^ k
      (.num n (num / mb') (ea - eb - k) (num % mb' != 0), false)

/-- The integer square root, from bit `i − 1` down. -/
def isqrtGo (n : Nat) : (i r : Nat) → Nat
  | 0, r => r
  | i + 1, r => if (r + 2 ^ i) * (r + 2 ^ i) ≤ n then isqrtGo n i (r + 2 ^ i) else isqrtGo n i r

/-- The square root for a destination of `mb` fraction bits. -/
def fSqrt (mb : Nat) (a : FV) : XR :=
  match a with
  | .nan s => .nan s
  | .inf n => if n then .nan true else .inf false
  | .fin n m e =>
    if m = 0 then .num n 0 0 false
    else if n then .nan true
    else
      let k := mb + 4 + (e % 2).toNat
      let k := if (e - k) % 2 = 0 then k else k + 1
      -- m × 2^e = (m × 2^k) × 2^(e − k), with e − k even; widened once more by 2(mb + 4)
      let w := m * 2 ^ (k + 2 * (mb + 4))
      let r := isqrtGo w ((bitLen w + 1) / 2 + 1) 0
      .num false r ((e - k - 2 * (mb + 4)) / 2) (r * r != w)

/-- Compare: `none` when either is a NaN, else the order, with −0 equal to +0. -/
def fCmp (a b : FV) : Option Ordering :=
  match a, b with
  | .nan _, _ => none
  | _, .nan _ => none
  | .inf n, .inf k => some (if n = k then .eq else if n then .lt else .gt)
  | .inf n, _ => some (if n then .lt else .gt)
  | _, .inf n => some (if n then .gt else .lt)
  | .fin na ma ea, .fin nb mb eb =>
    let e0 := min ea eb
    some (compare (sigAt na ma ea e0) (sigAt nb mb eb e0))

/-- Minimum or maximum (R278): −0 orders below +0. -/
def fMinMax (wantMax : Bool) (a b : FV) : XR :=
  if a.isNan || b.isNan then .nan (a.isSnan || b.isSnan)
  else
    let aLow := match fCmp a b with
      | some .lt => true
      | some .gt => false
      | _ => a.neg || !b.neg
    (if aLow != wantMax then a else b).exact

/-! ## Integers (R270, R280) -/

/-- The integer that a code of an integer type stands for. -/
def intOf (t : Ty) (c : Nat) : Int :=
  if t.isSigned then (BitVec.ofNat t.bits c).toInt else ((c % 2 ^ t.bits : Nat) : Int)

/-- Least and greatest integer of a width. -/
def intRange (signed : Bool) (w : Nat) : Int × Int :=
  if signed then (-(2 ^ (w - 1) : Int), 2 ^ (w - 1) - 1) else (0, 2 ^ w - 1)

/-- The code of an integer, modulo 2^w. -/
def wrapInt (w : Nat) (v : Int) : Nat := (BitVec.ofInt w v).toNat

/-- The code of an integer clamped to a range, and SAT when it clamps (R280). -/
def satInt (signed : Bool) (w : Nat) (v : Int) : Nat × BitVec 6 :=
  let r := intRange signed w
  if v < r.1 then (wrapInt w r.1, fSAT) else if r.2 < v then (wrapInt w r.2, fSAT) else (wrapInt w v, 0)

/-- A value rounded to an integer (R281): code and flags. -/
def toInt (rm : BitVec 2) (signed : Bool) (w : Nat) (v : FV) : Nat × BitVec 6 :=
  let r := intRange signed w
  match v with
  | .nan _ => (0, fNV)
  | .inf n => (wrapInt w (if n then r.1 else r.2), fNV)
  | .fin n m e =>
    let x := roundTo rm n m e false 0
    let i : Int := if n then -(x.1 : Int) else x.1
    let nx : BitVec 6 := if x.2 then fNX else 0
    if i < r.1 then (wrapInt w r.1, fNV ||| nx) else if r.2 < i then (wrapInt w r.2, fNV ||| nx)
    else (wrapInt w i, nx)

/-- An integer as a value. -/
def FV.ofInt (i : Int) : FV := .fin (decide (i < 0)) i.natAbs 0

/-- The value of an element code of any type outside OI4. -/
def valOf (t : Ty) (c : Nat) : FV :=
  match fmtOf t with
  | some f => f.unpack c
  | none => .ofInt (intOf t c)

/-! ## Block scales and OI4 (R271 to R273, R277, R282) -/

/-- A value times the factor of a scale code. -/
def FV.scale (v : FV) (s : Nat) : FV :=
  if s = 0xFF then .nan false
  else match v with
    | .fin n m e => .fin n m (e + s - 127)
    | x => x
/-- A value divided by the factor of a scale code. -/
def FV.unscale (v : FV) (s : Nat) : FV :=
  if s = 0xFF then .nan false
  else match v with
    | .fin n m e => .fin n m (e - (s - 127))
    | x => x

/-- The 32 values of an OI4 block, `none` where reserved (R272); `skip` nibbles are payload of the last lead. -/
def oi4Go : (i : Nat) → (skip : Nat) → List Nat → List (Option FV)
  | _, _, [] => []
  | i, k + 1, _ :: r => some (.fin false 0 0) :: oi4Go (i + 1) k r
  | i, 0, c :: r =>
    if c != 8 then some (.ofInt (BitVec.ofNat 4 c).toInt) :: oi4Go (i + 1) 0 r
    else if 30 ≤ i then none :: oi4Go (i + 1) 0 r
    else some (fE4M3.unpack (r.headD 0 * 16 + (r.getD 1 0))) :: oi4Go (i + 1) 2 r
def oi4Decode (c : List Nat) : List (Option FV) := oi4Go 0 0 c

/-- Encode 32 scaled values as OI4 (R282): nibbles and flags. `pay` holds nibbles of an outlier not yet written. -/
def oi4EncGo (rm : BitVec 2) : (i : Nat) → (pay : List Nat) → List FV → List Nat × BitVec 6
  | _, _, [] => ([], 0)
  | i, p :: ps, w :: r =>
    let q := oi4EncGo rm (i + 1) ps r
    (p :: q.1, q.2 ||| if w.isZero then 0 else fNX)
  | i, [], w :: r =>
    let lead (e : Nat) (fl : BitVec 6) : List Nat × BitVec 6 :=
      let q := oi4EncGo rm (i + 1) [e / 16, e % 16] r
      (8 :: q.1, q.2 ||| fl)
    let plain (c : Nat) (fl : BitVec 6) : List Nat × BitVec 6 :=
      let q := oi4EncGo rm (i + 1) [] r
      (c :: q.1, q.2 ||| fl)
    match w with
    | .nan sg => if i ≤ 29 then lead 0x7F (if sg then fNV else 0) else plain 0 fNV
    | .inf n => if i ≤ 29 then (let e := fE4M3.pack rm false w.exact; lead e.1 e.2)
                else plain (wrapInt 4 (if n then -7 else 7)) (fOF ||| fNX)
    | .fin n m e =>
      let x := roundTo rm n m e false 0
      let v : Int := if n then -(x.1 : Int) else x.1
      if -7 ≤ v && v ≤ 7 then plain (wrapInt 4 v) (if x.2 then fNX else 0)
      else if i ≤ 29 then (let e := fE4M3.pack rm false w.exact; lead e.1 e.2)
      else plain (wrapInt 4 (if n then -7 else 7)) (fOF ||| fNX)
def oi4Encode (rm : BitVec 2) (w : List FV) : List Nat × BitVec 6 := oi4EncGo rm 0 [] w

end Sys2Proof.Machine
end

