-- ==== Sys2Proof/Machine/VecCore.lean ====
section
/-! DEFINITION. What the vector unit computes, as functions of register contents: element arithmetic (R385), compares
(R386), reductions (R287, R387), fused multiply-add (R389), conversions (R390 to R393), and data movements (R394, R396). -/

namespace Sys2Proof.Machine

/-! ## Elements (R379, R380, R382) -/

/-- A vector register's contents with its lane poison. -/
abbrev VVal := Vec × LaneBits

/-- Element `j` of width `w`. -/
def elem (w : Nat) (v : Vec) (j : Nat) : Nat := v.toNat / 2 ^ (w * j) % 2 ^ w

/-- An element is poisoned when a lane it occupies is. -/
def elemPois (w : Nat) (p : LaneBits) (j : Nat) : Bool :=
  if w = 64 then p.getLsbD (2 * j) || p.getLsbD (2 * j + 1) else p.getLsbD (w * j / 32)

/-- The codes of a register's elements. -/
def elems (w : Nat) (v : Vec) : List Nat := (List.range (2048 / w)).map (elem w v)

/-- One result element: whether it is written, its code, its poison. -/
structure EOut where
  on : Bool
  val : Nat
  pois : Bool
  deriving DecidableEq, Repr

/-- What an instruction writes in one name: bits, values, and poison bits of lanes. -/
structure VW where
  mask : Nat
  val : Nat
  pmask : Nat
  pval : Nat
  deriving DecidableEq, Repr

/-- The write of a list of elements of width `w` from position `j` on: bits and values. -/
def packVal (w : Nat) : Nat → List EOut → Nat × Nat
  | _, [] => (0, 0)
  | j, e :: r =>
    let q := packVal w (j + 1) r
    if e.on then (q.1 + (2 ^ w - 1) * 2 ^ (w * j), q.2 + e.val % 2 ^ w * 2 ^ (w * j)) else q

/-- The poison write of lane `l` (R382): the OR of the elements written in it; with an element of the lane not
written, the lane's previous bit stays in the OR. -/
def packLane (w : Nat) (es : List EOut) (l : Nat) : Nat × Nat :=
  let mine := if w = 64 then (es.drop (l / 2)).take 1 else (es.drop (l * (32 / w))).take (32 / w)
  let p := mine.any fun e => e.on && e.pois
  let all := mine.all fun e => e.on
  if p then (2 ^ l, 2 ^ l) else if all then (2 ^ l, 0) else (0, 0)

/-- The write of all elements of a register. -/
def packElems (w : Nat) (es : List EOut) : VW :=
  let v := packVal w 0 es
  let p := (List.range 64).foldl (fun (a : Nat × Nat) l =>
    let x := packLane w es l
    (a.1 + x.1, a.2 + x.2)) (0, 0)
  { mask := v.1, val := v.2, pmask := p.1, pval := p.2 }

/-- A write of a whole name. -/
def VW.whole (v : Vec) (p : LaneBits) : VW :=
  { mask := 2 ^ 2048 - 1, val := v.toNat, pmask := 2 ^ 64 - 1, pval := p.toNat }

/-! ## Element arithmetic (R385, R386) -/

inductive VOp where
  | add | sub | mul | min | max | and | or | xor | div | sqrt | mac | shl | shr | adds | subs
  deriving DecidableEq, Repr

/-- An integer element operation: code and flags. -/
def intOp (op : VOp) (y : Ty) (a b : Nat) : Nat × BitVec 6 :=
  let w := y.bits
  let x := intOf y a
  let z := intOf y b
  match op with
  | .add => (wrapInt w (x + z), 0)
  | .sub => (wrapInt w (x - z), 0)
  | .mul => (wrapInt w (x * z), 0)
  | .min => (if x ≤ z then a else b, 0)
  | .max => (if x ≤ z then b else a, 0)
  | .and => (a &&& b, 0)
  | .or => (a ||| b, 0)
  | .xor => (a ^^^ b, 0)
  | .shl => (a * 2 ^ (b % w) % 2 ^ w, 0)
  | .shr => (wrapInt w (Int.fdiv x (2 ^ (b % w))), 0)
  | .adds => satInt y.isSigned w (x + z)
  | .subs => satInt y.isSigned w (x - z)
  | _ => (a, 0)

/-- A floating element operation: code and flags (R275 to R279, R286). -/
def floatOp (op : VOp) (f : Fmt) (rm : BitVec 2) (ftz : Bool) (a b d : Nat) : Nat × BitVec 6 :=
  let x := f.flushIn ftz (f.unpack a)
  let z := f.flushIn ftz (f.unpack b)
  let u := f.flushIn ftz (f.unpack d)
  match op with
  | .add => f.pack rm ftz (fAdd rm x z)
  | .sub => f.pack rm ftz (fAdd rm x z.negate)
  | .mul => f.pack rm ftz (fMul x z)
  | .min => f.pack rm ftz (fMinMax false x z)
  | .max => f.pack rm ftz (fMinMax true x z)
  | .div =>
    let q := fDiv f.mb x z
    let p := f.pack rm ftz q.1
    (p.1, if q.2 then p.2 ||| fDZ else p.2)
  | .sqrt => f.pack rm ftz (fSqrt f.mb x)
  | .mac => f.pack rm ftz (fFma rm x z u)
  | _ => (a, 0)

/-- One element of an arithmetic instruction. -/
def elemOp (op : VOp) (y : Ty) (rm : BitVec 2) (ftz : Bool) (a b d : Nat) : Nat × BitVec 6 :=
  match fmtOf y with
  | some f => floatOp op f rm ftz a b d
  | none => intOp op y a b

/-- An arithmetic instruction: a result element is poisoned when a source element it reads is; `nsrc` is how many of a, b, d
it reads. Flags come from the active, clean elements. -/
def evArith (op : VOp) (y : Ty) (rm : BitVec 2) (ftz : Bool) (a b d : VVal) (m : KMask) : VW × BitVec 6 :=
  let w := y.bits
  let rs := (List.range (2048 / w)).map fun j =>
    let r := elemOp op y rm ftz (elem w a.1 j) (elem w b.1 j) (elem w d.1 j)
    let p := elemPois w a.2 j || (op != .sqrt && elemPois w b.2 j) || (op == .mac && elemPois w d.2 j)
    (({ on := m.getLsbD j, val := r.1, pois := p } : EOut), r.2)
  (packElems w (rs.map (·.1)),
    rs.foldl (fun f r => if r.1.on && !r.1.pois then f ||| r.2 else f) 0)

inductive VCmp where
  | eq | lt | le
  deriving DecidableEq, Repr

/-- One element compared (R386). -/
def elemCmp (c : VCmp) (y : Ty) (ftz : Bool) (a b : Nat) : Bool × BitVec 6 :=
  match fmtOf y with
  | some f =>
    let x := f.flushIn ftz (f.unpack a)
    let z := f.flushIn ftz (f.unpack b)
    match fCmp x z with
    | none => (false, if c != .eq || x.isSnan || z.isSnan then fNV else 0)
    | some o => (match c with
        | .eq => o == .eq
        | .lt => o == .lt
        | .le => o != .gt, 0)
  | none =>
    let x := intOf y a
    let z := intOf y b
    (match c with
      | .eq => decide (x = z)
      | .lt => decide (x < z)
      | .le => decide (x ≤ z), 0)

/-- A compare into a mask; `none` when an active element is poisoned (cause 0x2D). -/
def evCmp (c : VCmp) (y : Ty) (ftz : Bool) (a b : VVal) (m : KMask) : Option (KMask × BitVec 6) :=
  let w := y.bits
  let js := (List.range (2048 / w)).filter fun j => m.getLsbD j
  if js.any fun j => elemPois w a.2 j || elemPois w b.2 j then none
  else some (js.foldl (fun (r : KMask × BitVec 6) j =>
    let x := elemCmp c y ftz (elem w a.1 j) (elem w b.1 j)
    (setBit r.1 j x.1, r.2 ||| x.2)) (0, 0))

/-! ## Reductions (R287, R387) -/

inductive VRed where
  | sum | min | max
  deriving DecidableEq, Repr

/-- The reduction format of a type: F32, F64, or 64-bit integers. -/
def redFmt (y : Ty) : Option Fmt :=
  match y with
  | .f64 => some fF64
  | .f16 | .bf16 | .f32 => some fF32
  | _ => none

/-- Width of the reduction's result. -/
def redBits (y : Ty) : Nat := if y == .f16 || y == .bf16 || y == .f32 then 32 else 64

/-- An element in the reduction format, with the flags of its conversion. -/
def redIn (y : Ty) (c : Nat) : Nat × BitVec 6 :=
  match y with
  | .f16 => fF32.pack 0 false (fF16.unpack c).exact
  | .bf16 => fF32.pack 0 false (fBF16.unpack c).exact
  | .f32 | .f64 => (c, 0)
  | _ => (wrapInt 64 (intOf y c), 0)

/-- One node of the tree. -/
def redOp (o : VRed) (y : Ty) (a b : Nat) : Nat × BitVec 6 :=
  match redFmt y with
  | some f =>
    let x := f.unpack a
    let z := f.unpack b
    f.pack 0 false (match o with
      | .sum => fAdd 0 x z
      | .min => fMinMax false x z
      | .max => fMinMax true x z)
  | none =>
    let s : Bool := y.isSigned
    let x : Int := if s then (BitVec.ofNat 64 a).toInt else a
    let z : Int := if s then (BitVec.ofNat 64 b).toInt else b
    (match o with
      | .sum => (a + b) % 2 ^ 64
      | .min => if x ≤ z then a else b
      | .max => if x ≤ z then b else a, 0)

/-- The identity of a reduction over no element (R287, R387). -/
def redIdentity (o : VRed) (y : Ty) : Nat :=
  match o, redFmt y with
  | .sum, _ => 0
  | .min, some f => f.infCode false
  | .max, some f => f.infCode true
  | .min, none => wrapInt 64 (intRange y.isSigned y.bits).2
  | .max, none => wrapInt 64 (intRange y.isSigned y.bits).1

/-- One level of the tree over neighbours. -/
def redLevel (o : VRed) (y : Ty) : List (Option Nat) → List (Option Nat) × BitVec 6
  | some a :: some b :: r =>
    let x := redOp o y a b
    let q := redLevel o y r
    (some x.1 :: q.1, x.2 ||| q.2)
  | some a :: none :: r => let q := redLevel o y r; (some a :: q.1, q.2)
  | none :: some b :: r => let q := redLevel o y r; (some b :: q.1, q.2)
  | none :: none :: r => let q := redLevel o y r; (none :: q.1, q.2)
  | [a] => ([a], 0)
  | [] => ([], 0)

def redTree (o : VRed) (y : Ty) : (levels : Nat) → List (Option Nat) → Option Nat × BitVec 6
  | 0, l => (l.headD none, 0)
  | n + 1, l =>
    let x := redLevel o y l
    let q := redTree o y n x.1
    (q.1, x.2 ||| q.2)

/-- A reduction, with the initial operand `c` of `VRSUMC` when given. -/
def evReduce (o : VRed) (y : Ty) (a : VVal) (m : KMask) (c : Option VVal) : VW × BitVec 6 :=
  let w := y.bits
  let wr := redBits y
  let n := 2048 / w
  let ins := (List.range n).map fun j => if m.getLsbD j then some (redIn y (elem w a.1 j)) else none
  let t := redTree o y (Nat.log2 n) (ins.map fun x => x.map (·.1))
  let fl := ins.foldl (fun f x => match x with | some e => f ||| e.2 | none => f) t.2
  let r := t.1.getD (redIdentity o y)
  let pa := (List.range n).any fun j => m.getLsbD j && elemPois w a.2 j
  let cv : Option (Nat × Bool) := c.map fun v => (elem wr v.1 0, elemPois wr v.2 0)
  let res : Nat × BitVec 6 := match cv with
    | some x => let q := redOp o y x.1 r; (q.1, fl ||| q.2)
    | none => (r, fl)
  let pois := pa || (match cv with | some x => x.2 | none => false)
  let p : Nat := if pois then (if wr = 64 then 3 else 1) else 0
  ({ mask := 2 ^ 2048 - 1, val := res.1 % 2 ^ wr, pmask := 2 ^ 64 - 1, pval := p }, if pois then 0 else res.2)

/-! ## Conversions (R281, R390 to R393) -/

/-- Bits of the code of a conversion's side: A40 reads bits [39:0] of its container. -/
def cvtCode (t : Ty) (c : Nat) : Nat := if t = .a40 then c % 2 ^ 40 else c

/-- Split a list into blocks of 32. -/
def blocks32 {α : Type} : (fuel : Nat) → List α → List (List α)
  | 0, _ => []
  | n + 1, l => if l.isEmpty then [] else l.take 32 :: blocks32 n (l.drop 32)

/-- One clean element of a conversion outside OI4 destinations: code and flags. `sc` is the block's scale code when a side is
scaled and VB is not 0; a reserved OI4 element is `none`. -/
def cvtElem (dst src : Ty) (rm : BitVec 2) (ftz sat : Bool) (sc : Option Nat) (v : Option FV) (code : Nat) :
    Nat × BitVec 6 :=
  let v1 : Option FV := match sc, v with
    | some s, some x => if src.isScaled then some (x.scale s) else some (x.unscale s)
    | _, x => x
  let nanScale : BitVec 6 := if sc = some 0xFF then fNV else 0
  match fmtOf dst with
  | some f =>
    match v1 with
    | none => (f.nanCode, fNV)
    | some x => let r := f.pack rm ftz x.exact; (r.1, r.2 ||| nanScale)
  | none =>
    if src.isInt then
      let i := intOf src code
      if sat then satInt dst.isSigned dst.bits i else (wrapInt dst.bits i, 0)
    else match v1 with
      | none => (0, fNV)
      | some x => let r := toInt rm dst.isSigned dst.bits x; (r.1, r.2 ||| nanScale)

/-- The value that a source element has before any scale. -/
def cvtVals (src : Ty) (codes : List Nat) : List (Option FV) :=
  if src = .oi4 then oi4Decode codes else codes.map fun c => some (valOf src (cvtCode src c))

/-- One block of 32 elements of a conversion: codes with poison, and flags. -/
def cvtBlock (dst src : Ty) (rm : BitVec 2) (ftz sat : Bool) (sc : Option Nat) (scPois : Bool)
    (codes : List Nat) (pois : List Bool) : List (Nat × Bool) × BitVec 6 :=
  let seqn := dst = .oi4 || src = .oi4
  let bad := pois.any id
  let ps := pois.map fun p => p || scPois || (seqn && bad)
  let vals := cvtVals src codes
  if dst = .oi4 then
    let ws : List FV := vals.map fun v => match sc with
      | some s => (v.getD (.nan false)).unscale s
      | none => v.getD (.nan false)
    let r := oi4Encode rm ws
    let nv : BitVec 6 := if sc = some 0xFF then fNV else 0
    (r.1.zip ps, if bad || scPois then 0 else r.2 ||| nv)
  else
    let rs := (vals.zip codes).map fun x => cvtElem dst src rm ftz sat sc x.1 x.2
    ((rs.map (·.1)).zip ps,
      (rs.zip ps).foldl (fun f x => if x.2 then f else f ||| x.1.2) 0)

/-- Element codes and poison of a group of names. -/
def groupElems (w : Nat) (vs : List VVal) : List Nat × List Bool :=
  (vs.flatMap fun v => elems w v.1,
   vs.flatMap fun v => (List.range (2048 / w)).map (elemPois w v.2))

/-- Whole names from element codes and poison. -/
def packNames (w : Nat) : (n : Nat) → List (Nat × Bool) → List VW
  | 0, _ => []
  | n + 1, l =>
    packElems w ((l.take (2048 / w)).map fun x => { on := true, val := x.1, pois := x.2 }) :: packNames w n (l.drop (2048 / w))

/-- A conversion: the destination names' writes, and flags. `vs` is the register of S8 codes when VB is not 0. -/
def evCvt (dst src : Ty) (rm : BitVec 2) (ftz sat : Bool) (a : List VVal) (vs : Option VVal) : List VW × BitVec 6 :=
  let g := groupElems src.bits a
  let n := 2048 / Nat.min src.bits dst.bits
  let codes := blocks32 (n / 32) (g.1.take n)
  let pois := blocks32 (n / 32) (g.2.take n)
  let rs := (codes.zip pois).mapIdx fun k x =>
    let sc := vs.map fun v => elem 8 v.1 k
    let sp := match vs with
      | some v => elemPois 8 v.2 k
      | none => false
    cvtBlock dst src rm ftz sat sc sp x.1 x.2
  (packNames dst.bits (n * dst.bits / 2048) (rs.flatMap (·.1)), rs.foldl (fun f r => f ||| r.2) 0)

/-! ## Data movements (R394, R396) -/

/-- Whole-register write of element codes with poison. -/
def wholeElems (w : Nat) (l : List (Nat × Bool)) : VW :=
  packElems w (l.map fun x => { on := true, val := x.1, pois := x.2 })

def evPerm (y : Ty) (a b : VVal) : VW :=
  let w := y.bits
  let e := 2048 / w
  wholeElems w ((List.range e).map fun j =>
    let i := elem w b.1 j % e
    (elem w a.1 i, elemPois w a.2 i || elemPois w b.2 j))

def evBcst (y : Ty) (v : Nat) (p : Bool) : VW :=
  wholeElems y.bits ((List.range (2048 / y.bits)).map fun _ => (v % 2 ^ y.bits, p))

def evBcste (y : Ty) (a : VVal) (x : W64 × Bool) : VW :=
  let i := x.1.toNat % (2048 / y.bits)
  evBcst y (elem y.bits a.1 i) (elemPois y.bits a.2 i || x.2)

def evCompress (y : Ty) (a : VVal) (k : KMask) : VW :=
  let w := y.bits
  let e := 2048 / w
  let l := ((List.range e).filter fun j => k.getLsbD j).map fun j => (elem w a.1 j, elemPois w a.2 j)
  wholeElems w (l ++ List.replicate (e - l.length) (0, false))

/-- Elements taken in order where the mask has a one. -/
def expandGo (k : KMask) : (n j : Nat) → List (Nat × Bool) → List (Nat × Bool)
  | 0, _, _ => []
  | n + 1, j, l =>
    if k.getLsbD j then l.headD (0, false) :: expandGo k n (j + 1) l.tail
    else (0, false) :: expandGo k n (j + 1) l

def evExpand (y : Ty) (a : VVal) (k : KMask) : VW :=
  let w := y.bits
  let e := 2048 / w
  wholeElems w (expandGo k e 0 ((List.range e).map fun j => (elem w a.1 j, elemPois w a.2 j)))

/-- `VMOV`: each active 32-bit lane with its poison bit. -/
def evMov (a : VVal) (m : KMask) : VW :=
  packElems 32 ((List.range 64).map fun l => { on := m.getLsbD l, val := elem 32 a.1 l, pois := a.2.getLsbD l })

/-! ## Latencies (R176, R385) -/

/-- The unit whose interval an arithmetic operation must keep, that interval, and its latency: VALU, VDIV, or the
VFMA unit, which takes an instruction in every X-cycle. -/
def arithTime (op : VOp) (y : Ty) : Option (XUnit × Nat) × Nat :=
  match fmtOf y with
  | none => (some (.valu, 1), if op = .mul then 4 else 2)
  | some _ =>
    if op = .div || op = .sqrt then (some (.vdiv, if y = .f64 then 8 else 4), if y = .f64 then 22 else 14)
    else (none, if y = .f64 then 6 else 4)

def redTime (y : Ty) : Nat := if y = .f64 then 10 else 9
def cvtTime (dst src : Ty) : Nat := if cvtScaled dst src then 5 else 3

end Sys2Proof.Machine
end

