-- ==== Sys2Proof/Machine/Recipes.lean ====
section
/-! DEFINITION. Recompute recipes: micro-ops (R304, R463), what makes an attach legal (R305), replay (R307, R309),
materialisation (R308), and the slots that writes of vector names take (R161, R306, R381). -/

namespace Sys2Proof.Machine

/-! ## Micro-ops (R463) -/

/-- A register that a micro-op reads. -/
inductive Src where
  | v (r : V6) | k (r : K4) | x (r : R5)
  deriving DecidableEq, Repr

/-- A micro-op's destination label. -/
inductive Label where
  | v (r : V6) | k (r : K4)
  deriving DecidableEq, Repr

/-- The label and the sources, in operand order, of a word that is a micro-op; `none` for any other (R463). -/
def microOf (i : Instr) : Option (Label × List Src) :=
  match i with
  | .vadd _ d a b m | .vsub _ d a b m | .vmul _ d a b m | .vmin _ d a b m | .vmax _ d a b m | .vand _ d a b m
  | .vor _ d a b m | .vxor _ d a b m | .vdiv _ d a b m | .vshl _ d a b m | .vshr _ d a b m | .vadds _ d a b m
  | .vsubs _ d a b m | .vmac _ d a b m => some (.v d, [.v a, .v b, .k m])
  | .vsqrt _ d a m | .vrsum _ d a m | .vrmin _ d a m | .vrmax _ d a m | .vrsumc _ d a m => some (.v d, [.v a, .k m])
  | .vcmpeq _ k a b m | .vcmplt _ k a b m | .vcmple _ k a b m => some (.k k, [.v a, .v b, .k m])
  | .vfma d a b c _ => some (.v d, [.v a, .v b, .v c])
  | .vcvt t s d a b =>
    if cvtGroup t s = 1 then some (.v d, if cvtScaled t s && b != 0 then [.v a, .v b] else [.v a]) else none
  | .vperm _ d a b => some (.v d, [.v a, .v b])
  | .vbcstx _ d x => some (.v d, [.x x])
  | .vbcste _ d a x => some (.v d, [.v a, .x x])
  | .vld d x n m _ => if n = 0 then some (.v d, [.x x, .k m]) else none
  | _ => none

/-- The latency of a micro-op (R176). -/
def microTime (i : Instr) : Nat :=
  match i with
  | .vadd y .. => (arithTime .add y).2
  | .vsub y .. => (arithTime .sub y).2
  | .vmul y .. => (arithTime .mul y).2
  | .vmin y .. => (arithTime .min y).2
  | .vmax y .. => (arithTime .max y).2
  | .vdiv y .. => (arithTime .div y).2
  | .vsqrt y .. => (arithTime .sqrt y).2
  | .vmac y .. => (arithTime .mac y).2
  | .vrsum y .. | .vrmin y .. | .vrmax y .. | .vrsumc y .. => redTime y
  | .vfma _ _ _ _ f => if f = 3 then 6 else 4
  | .vcvt t s .. => cvtTime t s
  | .vperm .. | .vbcstx .. | .vbcste .. => 3
  | .vld .. => 6
  | _ => 2

/-- The instruction of a body word. -/
def microInstr (w : W32) : Option Instr :=
  match decodeStream w 0 with
  | .ok i => some i
  | .error _ => none

/-- The micro-ops of a slot with their labels and sources. -/
def Recipe.micros (r : Recipe) : List (Instr × Label × List Src) :=
  r.words.filterMap fun w => (microInstr w).bind fun i => (microOf i).map fun m => (i, m)

/-- The sources of a slot that are registers and not labels of earlier micro-ops. -/
def outerSrcs : List Label → List (Instr × Label × List Src) → List Src
  | _, [] => []
  | ls, (_, l, ss) :: r =>
    (ss.filter fun x => match x with
      | .v a => !ls.contains (.v a)
      | .k a => a != 0 && !ls.contains (.k a)
      | .x a => a != 0) ++ outerSrcs (l :: ls) r

def Recipe.srcs (r : Recipe) : List Src := outerSrcs [] r.micros

def Tile.slot (t : Tile) (n : R5) : Recipe := vget t.rcp Recipe.reset n

/-- The registers that a tagged name's recipe reads; none for an untagged name. -/
def Tile.nameSrcs (t : Tile) (r : V6) : List Src :=
  match (t.vname r).tag with
  | some n => (t.slot n).srcs
  | none => []

/-- The tagged names that a tagged name's recipe reads. -/
def Tile.taggedSrcs (t : Tile) (r : V6) : List V6 :=
  (t.nameSrcs r).filterMap fun x => match x with
    | .v a => if (t.vname a).tag.isSome then some a else none
    | _ => none

/-- The name that a slot tags (R463: at most one). -/
def Tile.slotUser (t : Tile) (n : R5) : Option V6 :=
  ((List.range 64).map (BitVec.ofNat 6)).find? fun r => (t.vname r).tag == some n

/-- The tagged names that depend on a register, directly or through a tagged operand, deepest first, then by number (R308). -/
def Tile.dependants (t : Tile) (x : Src) : List V6 :=
  let names := ((List.range 64).map (BitVec.ofNat 6)).filter fun r => (t.vname r).tag.isSome
  let dep (r : V6) : Bool := (t.nameSrcs r).contains x || (t.taggedSrcs r).any fun u => (t.nameSrcs u).contains x
  let ds := names.filter dep
  (ds.filter fun r => !(t.taggedSrcs r).isEmpty) ++ ds.filter fun r => (t.taggedSrcs r).isEmpty

/-! ## Level 1 as the X-stream reads it (R397, R398) -/

/-- An address of 256·n bytes that a level of `size` bytes does not hold (R185). -/
def levelOut (ea : W64) (bytes size : Nat) : Bool := size < ea.toNat + bytes

/-- Lane poison of 256 bytes at an address: each lane takes its line's (R398). -/
def lanePoison (f : Nat → Bool) : Nat := (List.range 64).foldl (fun p l => if f l then p + 2 ^ l else p) 0

/-- 256 bytes of a tile's scratchpad with their lane poison. -/
def State.spadEntry (s : State) (g : BitVec 8) (ea : Nat) : VVal :=
  let a := spadBase g.toNat + ea
  (BitVec.ofNat 2048 (leNat (s.rdBytes a 256)),
   BitVec.ofNat 64 (lanePoison fun l => s.poison.contains ((a + 4 * l) / 64)))

/-- The address of an `VLD` (R397). -/
def vAddr (x : W64) (o : BitVec 6) : W64 := x + 256 * o.signExtend 64

/-! ## Replay (R307, R309) -/

/-- Temporaries of a replay: labels and values, newest first. -/
structure Temps where
  v : List (V6 × VVal)
  k : List (K4 × KMask)

def Temps.getV (e : Temps) (r : V6) : Option VVal := (e.v.find? fun x => x.1 == r).map (·.2)

/-- A vector operand of a micro-op: a temporary, or the register. -/
def microV (s : State) (g : BitVec 8) (e : Temps) (r : V6) : VVal × State :=
  match e.getV r with
  | some v => (v, s)
  | none => s.rdV g r

def microK (s : State) (g : BitVec 8) (e : Temps) (r : K4) : KMask × State :=
  match e.k.find? fun x => x.1 == r && r != 0 with
  | some v => (v.2, s)
  | none => s.rdK g r

/-- The value that a label holds before its micro-op (R463). -/
def microOld (e : Temps) (r : V6) : VVal := (e.getV r).getD (0, 0)

/-- A write taken over zeroes: the temporary's value. -/
def VW.fresh (w : VW) : VVal := (BitVec.ofNat 2048 w.val, BitVec.ofNat 64 w.pval)

/-- One micro-op of a replay, under the slot's recorded rounding mode and FTZ (R304): the temporaries after it. -/
def microEval (s : State) (g : BitVec 8) (rm : BitVec 2) (ftz : Bool) (e : Temps) (i : Instr) : Res (Temps × State) :=
  let arith (op : VOp) (y : Ty) (d a b : V6) (m : K4) : Res (Temps × State) :=
    let x := microV s g e a
    let z := microV x.2 g e b
    let k := microK z.2 g e m
    .ok ({ e with v := (d, (evArith op y rm ftz x.1 z.1 (microOld e d) k.1).1.fresh) :: e.v }, k.2)
  let cmp (c : VCmp) (y : Ty) (d : K4) (a b : V6) (m : K4) : Res (Temps × State) :=
    let x := microV s g e a
    let z := microV x.2 g e b
    let k := microK z.2 g e m
    match evCmp c y ftz x.1 z.1 k.1 with
    | some r => .ok ({ e with k := (d, r.1) :: e.k }, k.2)
    | none => trapIn s { code := 0x2D }
  let red (o : VRed) (y : Ty) (d a : V6) (m : K4) (c : Option VVal) : Res (Temps × State) :=
    let x := microV s g e a
    let k := microK x.2 g e m
    .ok ({ e with v := (d, (evReduce o y x.1 k.1 c).1.fresh) :: e.v }, k.2)
  let put (d : V6) (w : VW) (s : State) : Res (Temps × State) := .ok ({ e with v := (d, w.fresh) :: e.v }, s)
  match i with
  | .vadd y d a b m => arith .add y d a b m
  | .vsub y d a b m => arith .sub y d a b m
  | .vmul y d a b m => arith .mul y d a b m
  | .vmin y d a b m => arith .min y d a b m
  | .vmax y d a b m => arith .max y d a b m
  | .vand y d a b m => arith .and y d a b m
  | .vor y d a b m => arith .or y d a b m
  | .vxor y d a b m => arith .xor y d a b m
  | .vdiv y d a b m => arith .div y d a b m
  | .vsqrt y d a m => arith .sqrt y d a a m
  | .vmac y d a b m => arith .mac y d a b m
  | .vshl y d a b m => arith .shl y d a b m
  | .vshr y d a b m => arith .shr y d a b m
  | .vadds y d a b m => arith .adds y d a b m
  | .vsubs y d a b m => arith .subs y d a b m
  | .vcmpeq y k a b m => cmp .eq y k a b m
  | .vcmplt y k a b m => cmp .lt y k a b m
  | .vcmple y k a b m => cmp .le y k a b m
  | .vrsum y d a m => red .sum y d a m none
  | .vrmin y d a m => red .min y d a m none
  | .vrmax y d a m => red .max y d a m none
  | .vrsumc y d a m => red .sum y d a m (some (microOld e d))
  | .vfma d a b c f =>
    let y : Ty := match f.toNat with | 0 => .f16 | 1 => .bf16 | 2 => .f32 | _ => .f64
    let x := microV s g e a
    let z := microV x.2 g e b
    let u := microV z.2 g e c
    put d (evArith .mac y rm ftz x.1 z.1 u.1 (BitVec.allOnes 512)).1 u.2
  | .vcvt t y d a b =>
    let x := microV s g e a
    let z := microV x.2 g e b
    let scaled := cvtScaled t y && b != 0
    let r := evCvt t y rm ftz (cvtSat t y b) [x.1] (if scaled then some z.1 else none)
    match r.1 with
    | w :: _ => put d w (if scaled then z.2 else x.2)
    | [] => .ok (e, s)
  | .vperm y d a b =>
    let x := microV s g e a
    let z := microV x.2 g e b
    put d (evPerm y x.1 z.1) z.2
  | .vbcstx y d x =>
    let r := s.rdS g .x x
    put d (evBcst y r.1.1.toNat r.1.2) r.2
  | .vbcste y d a x =>
    let z := microV s g e a
    let r := z.2.rdS g .x x
    put d (evBcste y z.1 r.1) r.2
  | .vld d x _ m o =>
    let r := s.rdS g .x x
    let k := microK r.2 g e m
    let ea := vAddr r.1.1 o
    if r.1.2 then trapIn s { code := 0x2B }
    else if ea.toNat % 64 != 0 then trapIn s { code := 0x07, tval := ea, aKind := 3 }
    else if levelOut ea 256 (2 ^ 21) then trapIn s { code := 0x29, tval := ea, aKind := 3 }
    else put d (evMov (s.spadEntry g ea.toNat) k.1) k.2
  | _ => .ok (e, s)

/-- The micro-ops of a slot in order. -/
def microRun (g : BitVec 8) (rm : BitVec 2) (ftz : Bool) : List Instr → Temps → State → Res (Temps × State)
  | [], e, s => .ok (e, s)
  | i :: r, e, s => do
    let x ← microEval s g rm ftz e i
    microRun g rm ftz r x.1 x.2

/-- An inner cause as the reading instruction receives it (R309). -/
def replayCause (n : R5) (r : Raise) : Raise :=
  if r.code = 0x53 || r.code = 0x5C then r
  else { code := 0x53, tval := r.tval, aKind := r.aKind, rslot := n, inner := r.code }

/-- The tile `t'` after a name took a slot, with the drop it caused counted (R306, R455). -/
def Tile.noteDrop (t : Tile) (r : V6) (t' : Tile) : Tile :=
  if (t.vname r).st != .live && 48 ≤ t.liveCount then t'.count 0x08 (some .x) else t'

/-- Replay a DROPPED name (R307): its DROPPED tagged operands first, then a slot, then its micro-ops. `fuel` is the depth of
R305. Names in `ex` are in use and are not dropped. -/
def replay (g : BitVec 8) (ex : List Nat) : (fuel : Nat) → V6 → State → Res State
  | 0, _, s => .ok s
  | n + 1, r, s =>
    let t := s.tile g
    match (t.vname r).st, (t.vname r).tag with
    | .dropped, some k => do
      let ops := t.taggedSrcs r
      let ex := r.toNat :: ops.map (·.toNat) ++ ex
      let s ← ops.foldl (fun (a : Res State) u => a.bind (replay g ex n u)) (.ok s)
      let rc := (s.tile g).slot k
      match (s.tile g).takeSlot r ex with
      | none => trapIn s { code := 0x5C }
      | some t' =>
        let is := rc.micros.map (·.1)
        let begun (t : Tile) : Tile := t.count 0x06 (some .x)
        match microRun g rc.rm rc.ftz is { v := [], k := [] } (s.setTile g (begun ((s.tile g).noteDrop r t'))) with
        | .error (.trap _ c) => trapIn (s.modTile g begun) (replayCause k c)
        | .error (.wait s' w) => .error (.wait s' w)
        | .ok (e, s') =>
          let v := ((e.v.head?).map (·.2)).getD (0, 0)
          .ok (s'.modTile g fun t =>
            let t := t.setVname r { t.vname r with st := .live, val := v.1, pois := v.2, lastRead := t.xcyc }
            let t := { t with pend := t.pend.filter fun p => p.dst != XDst.v r }
            let cost := 1 + is.foldl (fun n i => n + microTime i) 0
            (List.range cost).foldl (fun t _ => (t.count 0x07 (some .x)).count 0x03 (some .x)) t)
    | _, _ => .ok s

/-- Replay every DROPPED name of a list before an instruction issues (R307, R381). -/
def State.needV (s : State) (g : BitVec 8) (rs : List V6) : Res State :=
  rs.foldl (fun (a : Res State) r => a.bind (replay g (rs.map (·.toNat)) 3 r)) (.ok s)

/-! ## Materialisation (R308) -/

/-- A dependant is materialised: replayed when DROPPED, and its tag goes. -/
def materialise (g : BitVec 8) (r : V6) (s : State) : Res State := do
  let s ← replay g [] 3 r s
  .ok (s.modTile g fun t => t.setVname r { t.vname r with tag := none })

/-- A cause leaves the vector names as the instruction found them (R8, R309), but for 0x5C: the names materialised before it stay
materialised (R308). -/
def keepNames {α : Type} (s : State) (g : BitVec 8) (r : Res α) : Res α :=
  match r with
  | .error (.trap s' c) =>
    if c.code = 0x5C then r
    else .error (.trap (s'.modTile g fun t => { t with v := (s.tile g).v, pend := (s.tile g).pend }) c)
  | r => r

/-- Before an ordinary write of a register of the X-stream: every tagged name that depends on it is materialised (R308). -/
def State.freeReg (s : State) (g : BitVec 8) (x : Src) : Res State :=
  keepNames s g (((s.tile g).dependants x).foldl (fun (a : Res State) r => a.bind (materialise g r)) (.ok s))

/-- Before a scalar register of a stream is written: nothing in the A-stream; in the X-stream R308. -/
def State.freeS (s : State) (g : BitVec 8) (st : Stream) (r : R5) : Res State :=
  match st with
  | .a => .ok s
  | .x => if r = 0 then .ok s else s.freeReg g (.x r)

/-- Before a mask is written (R308). -/
def State.freeK (s : State) (g : BitVec 8) (r : K4) : Res State := if r = 0 then .ok s else s.freeReg g (.k r)

/-! ## Writing vector names (R161, R381) -/

/-- A name takes its slot for a write; an EMPTY name holds undefined bits until they are written (R161). -/
def State.takeV (s : State) (g : BitVec 8) (ex : List Nat) (r : V6) : Res State :=
  match (s.tile g).takeSlot r ex with
  | none => trapIn s { code := 0x5C }
  | some t =>
    let t := (s.tile g).noteDrop r t
    if ((s.tile g).vname r).st = .empty then
      let f := s.free 2048
      .ok (f.2.setTile g (t.setVname r { t.vname r with val := f.1, pois := 0 }))
    else .ok (s.setTile g t)

/-- All the slots of a group write, or cause 0x5C with no effect (R381). -/
def State.takeSlots (s : State) (g : BitVec 8) (rs : List V6) : Res State :=
  match rs.foldl (fun (a : Res State) r => a.bind fun s => s.takeV g (rs.map (·.toNat)) r) (.ok s) with
  | .ok s' => .ok s'
  | .error _ => trapIn s { code := 0x5C }

/-- Before the destinations of a vector write: dependants are materialised, and a destination that may keep elements is
read, so it is replayed when DROPPED (R381). -/
def State.openDst (s : State) (g : BitVec 8) (ds : List V6) (keeps : Bool) : Res State := do
  let s ← ds.foldl (fun (a : Res State) r => a.bind fun s => s.freeReg g (.v r)) (.ok s)
  if keeps then s.needV g ds else .ok s

end Sys2Proof.Machine
end

