-- ==== Sys2Proof/Machine/Vector.lean ====
section
/-! DEFINITION. The vector instructions of the X-stream: element arithmetic, compares and reductions (R385 to R388), VFMA
(R389), conversions (R390 to R393), data movements (R394, R396), masks (R395), level 1 and 2 loads and stores (R397 to
R400), and queue transfers (R401). -/

namespace Sys2Proof.Machine

/-! ## Shared steps -/

/-- A unit with an interval, when the operation reaches one (R173). -/
def State.useUnit? (s : State) (g : BitVec 8) (u : Option (XUnit × Nat)) : Res State :=
  match u with
  | none => .ok s
  | some (k, n) => s.useUnit g .x k n

/-- An instruction of majors 0x18 to 0x26 issues: the tile's class permits the vector unit, else cause 0x74 before any effect
(R37, R38; DEDUCED [49]: these majors are the vector unit's). -/
def issueV (body : BitVec 8 → Stream → State → Res State) (s : State) : Host.Outcome State Fault Refusal :=
  issue .x 1 (fun g st s => do
    needClass s g 2
    keepNames s g (keepUnits g (s.tile g).units (body g st s))) s

/-- FCTL as an instruction reads it at issue: rounding mode and FTZ (R274, R383). -/
def State.rdFctl (s : State) (g : BitVec 8) : BitVec 2 × Bool :=
  let f := (s.tile g).fctl
  (f.extractLsb' 0 2, f.getLsbD 2)

/-- Write one name with latency `L` and set flags: its slot is taken here (R161, R381, R383). -/
def State.putV (s : State) (g : BitVec 8) (d : V6) (w : VW) (fl : BitVec 6) (L : Nat) : Res State := do
  let s ← s.takeSlots g [d]
  .ok ((s.wrV g d w.mask w.val w.pmask w.pval L).modTile g fun t => t.pendFlags fl L)

/-- An arithmetic instruction with sources `srcs`, of which a and b are the first two (R385). -/
def vArith (op : VOp) (y : Ty) (d a b : V6) (m : K4) (s : State) : Host.Outcome State Fault Refusal :=
  issueV (fun g _ s => do
    let u := arithTime op y
    let s ← s.useUnit? g u.1
    let s ← s.openDst g [d] (m != 0)
    let s ← s.needV g (if op = .sqrt then [a] else if op = .mac then [a, b, d] else [a, b])
    let x := s.rdV g a
    let z := if op = .sqrt then x else x.2.rdV g b
    let o := if op = .mac then z.2.rdV g d else z
    let k := o.2.rdK g m
    let f := s.rdFctl g
    let r := evArith op y f.1 f.2 x.1 z.1 o.1 k.1
    k.2.putV g d r.1 r.2 u.2) s

/-- A compare into a mask (R386). -/
def vCompare (c : VCmp) (y : Ty) (d : K4) (a b : V6) (m : K4) (s : State) : Host.Outcome State Fault Refusal :=
  issueV (fun g _ s => do
    let s ← s.useUnit? g (some (.valu, 1))
    let s ← s.needV g [a, b]
    let x := s.rdV g a
    let z := x.2.rdV g b
    let k := z.2.rdK g m
    match evCmp c y (s.rdFctl g).2 x.1 z.1 k.1 with
    | none => trapIn s { code := 0x2D }
    | some r => do
      let s ← k.2.freeK g d
      .ok ((s.wrK g d (2 ^ 512 - 1) r.1.toNat 2).modTile g fun t => t.pendFlags r.2 2)) s

/-- A reduction (R387); `withC` for `VRSUMC`. -/
def vReduce (o : VRed) (withC : Bool) (y : Ty) (d a : V6) (m : K4) (s : State) : Host.Outcome State Fault Refusal :=
  issueV (fun g _ s => do
    let s ← s.useUnit? g (some (.vred, 2))
    let s ← s.openDst g [d] (m != 0)
    let s ← s.needV g (if withC then [a, d] else [a])
    let x := s.rdV g a
    let c := if withC then x.2.rdV g d else x
    let k := c.2.rdK g m
    let r := evReduce o y x.1 k.1 (if withC then some c.1 else none)
    k.2.putV g d r.1 r.2 (redTime y)) s

/-! ## Majors 0x18 to 0x22 -/

/-- VADD (R385). -/
def execVadd (y : Ty) (d a b : V6) (m : K4) (s : State) : Host.Outcome State Fault Refusal := vArith .add y d a b m s
/-- VSUB (R385). -/
def execVsub (y : Ty) (d a b : V6) (m : K4) (s : State) : Host.Outcome State Fault Refusal := vArith .sub y d a b m s
/-- VMUL (R385). -/
def execVmul (y : Ty) (d a b : V6) (m : K4) (s : State) : Host.Outcome State Fault Refusal := vArith .mul y d a b m s
/-- VMIN (R278, R385). -/
def execVmin (y : Ty) (d a b : V6) (m : K4) (s : State) : Host.Outcome State Fault Refusal := vArith .min y d a b m s
/-- VMAX (R278, R385). -/
def execVmax (y : Ty) (d a b : V6) (m : K4) (s : State) : Host.Outcome State Fault Refusal := vArith .max y d a b m s
/-- VAND (R385). -/
def execVand (y : Ty) (d a b : V6) (m : K4) (s : State) : Host.Outcome State Fault Refusal := vArith .and y d a b m s
/-- VOR (R385). -/
def execVor (y : Ty) (d a b : V6) (m : K4) (s : State) : Host.Outcome State Fault Refusal := vArith .or y d a b m s
/-- VXOR (R385). -/
def execVxor (y : Ty) (d a b : V6) (m : K4) (s : State) : Host.Outcome State Fault Refusal := vArith .xor y d a b m s
/-- VDIV (R278, R385). -/
def execVdiv (y : Ty) (d a b : V6) (m : K4) (s : State) : Host.Outcome State Fault Refusal := vArith .div y d a b m s
/-- VSQRT (R278, R385). -/
def execVsqrt (y : Ty) (d a : V6) (m : K4) (s : State) : Host.Outcome State Fault Refusal := vArith .sqrt y d a a m s
/-- VMAC (R385). -/
def execVmac (y : Ty) (d a b : V6) (m : K4) (s : State) : Host.Outcome State Fault Refusal := vArith .mac y d a b m s
/-- VSHL (R385). -/
def execVshl (y : Ty) (d a b : V6) (m : K4) (s : State) : Host.Outcome State Fault Refusal := vArith .shl y d a b m s
/-- VSHR (R385). -/
def execVshr (y : Ty) (d a b : V6) (m : K4) (s : State) : Host.Outcome State Fault Refusal := vArith .shr y d a b m s
/-- VADDS (R280, R385). -/
def execVadds (y : Ty) (d a b : V6) (m : K4) (s : State) : Host.Outcome State Fault Refusal := vArith .adds y d a b m s
/-- VSUBS (R280, R385). -/
def execVsubs (y : Ty) (d a b : V6) (m : K4) (s : State) : Host.Outcome State Fault Refusal := vArith .subs y d a b m s
/-- VCMPEQ (R386). -/
def execVcmpeq (y : Ty) (k : K4) (a b : V6) (m : K4) (s : State) : Host.Outcome State Fault Refusal := vCompare .eq y k a b m s
/-- VCMPLT (R386). -/
def execVcmplt (y : Ty) (k : K4) (a b : V6) (m : K4) (s : State) : Host.Outcome State Fault Refusal := vCompare .lt y k a b m s
/-- VCMPLE (R386). -/
def execVcmple (y : Ty) (k : K4) (a b : V6) (m : K4) (s : State) : Host.Outcome State Fault Refusal := vCompare .le y k a b m s
/-- VRSUM (R387). -/
def execVrsum (y : Ty) (d a : V6) (m : K4) (s : State) : Host.Outcome State Fault Refusal := vReduce .sum false y d a m s
/-- VRMIN (R387). -/
def execVrmin (y : Ty) (d a : V6) (m : K4) (s : State) : Host.Outcome State Fault Refusal := vReduce .min false y d a m s
/-- VRMAX (R387). -/
def execVrmax (y : Ty) (d a : V6) (m : K4) (s : State) : Host.Outcome State Fault Refusal := vReduce .max false y d a m s
/-- VRSUMC (R387). -/
def execVrsumc (y : Ty) (d a : V6) (m : K4) (s : State) : Host.Outcome State Fault Refusal := vReduce .sum true y d a m s

/-! ## VFMA and VCVT -/

/-- The type of an FT code (R389). -/
def fmaTy (f : BitVec 2) : Ty :=
  match f.toNat with
  | 0 => .f16
  | 1 => .bf16
  | 2 => .f32
  | _ => .f64

/-- VFMA (R389): one rounding; all sources are read at issue. -/
def execVfma (d a b c : V6) (f : BitVec 2) (s : State) : Host.Outcome State Fault Refusal :=
  issueV (fun g _ s => do
    let s ← s.openDst g [d] false
    let s ← s.needV g [a, b, c]
    let x := s.rdV g a
    let z := x.2.rdV g b
    let u := z.2.rdV g c
    let fc := s.rdFctl g
    let r := evArith .mac (fmaTy f) fc.1 fc.2 x.1 z.1 u.1 (BitVec.allOnes 512)
    u.2.putV g d r.1 r.2 (if f = 3 then 6 else 4)) s

/-- The names of a group (R379). -/
def groupOf (b : V6) (n : Nat) : List V6 := (List.range n).map fun k => b + BitVec.ofNat 6 k

/-- Read a group of names in order. -/
def State.rdGroup (g : BitVec 8) : List V6 → State → List VVal × State
  | [], s => ([], s)
  | r :: rs, s =>
    let x := s.rdV g r
    let q := State.rdGroup g rs x.2
    (x.1 :: q.1, q.2)

/-- Write names one after another, the `k`th closing `k` X-cycles later when `step` is 1. -/
def State.wrGroup (g : BitVec 8) (step : Nat) : (L : Nat) → List (V6 × VW) → State → State
  | _, [], s => s
  | L, (r, w) :: rs, s => State.wrGroup g step (L + step) rs (s.wrV g r w.mask w.val w.pmask w.pval L)

/-- VCVT (R390 to R393). -/
def execVcvt (t y : Ty) (d a b : V6) (s : State) : Host.Outcome State Fault Refusal :=
  issueV (fun g _ s => do
    let n := cvtGroup t y
    let widen := decide (y.bits < t.bits)
    let src := groupOf a (if widen then 1 else n)
    let dst := groupOf d (if widen then n else 1)
    let scaled := cvtScaled t y && b != 0
    let s ← s.useUnit? g (some (.valu, n))
    let s ← s.openDst g dst false
    let s ← s.needV g (if scaled then src ++ [b] else src)
    let x := State.rdGroup g src s
    let vs := if scaled then State.rdGroup g [b] x.2 else ([], x.2)
    let fc := s.rdFctl g
    let r := evCvt t y fc.1 fc.2 (cvtSat t y b) x.1 vs.1.head?
    let s ← vs.2.takeSlots g dst
    let L := cvtTime t y
    let s := State.wrGroup g 1 (if widen then L else L + n - 1) (dst.zip r.1) s
    .ok (s.modTile g fun u => u.pendFlags r.2 (L + n - 1))) s

/-! ## Data movements and masks (R394 to R396) -/

/-- VPERM (R394). -/
def execVperm (y : Ty) (d a b : V6) (s : State) : Host.Outcome State Fault Refusal :=
  issueV (fun g _ s => do
    let s ← s.useUnit? g (some (.vperm, 1))
    let s ← s.openDst g [d] false
    let s ← s.needV g [a, b]
    let x := s.rdV g a
    let z := x.2.rdV g b
    z.2.putV g d (evPerm y x.1 z.1) 0 3) s

/-- VBCSTX (R394). -/
def execVbcstx (y : Ty) (d : V6) (x : R5) (s : State) : Host.Outcome State Fault Refusal :=
  issueV (fun g st s => do
    let s ← s.useUnit? g (some (.vperm, 1))
    let s ← s.openDst g [d] false
    let r := s.rdS g st x
    r.2.putV g d (evBcst y r.1.1.toNat r.1.2) 0 3) s

/-- VBCSTE (R394). -/
def execVbcste (y : Ty) (d a : V6) (x : R5) (s : State) : Host.Outcome State Fault Refusal :=
  issueV (fun g st s => do
    let s ← s.useUnit? g (some (.vperm, 1))
    let s ← s.openDst g [d] false
    let s ← s.needV g [a]
    let z := s.rdV g a
    let r := z.2.rdS g st x
    r.2.putV g d (evBcste y z.1 r.1) 0 3) s

/-- Compress and expand under a mask. -/
def vPack (f : VVal → KMask → VW) (d a : V6) (k : K4) (s : State) : Host.Outcome State Fault Refusal :=
  issueV (fun g _ s => do
    let s ← s.useUnit? g (some (.vperm, 2))
    let s ← s.openDst g [d] false
    let s ← s.needV g [a]
    let z := s.rdV g a
    let m := z.2.rdK g k
    m.2.putV g d (f z.1 m.1) 0 5) s

/-- VCOMPRESS (R394). -/
def execVcompress (y : Ty) (d a : V6) (k : K4) (s : State) : Host.Outcome State Fault Refusal := vPack (evCompress y) d a k s
/-- VEXPAND (R394). -/
def execVexpand (y : Ty) (d a : V6) (k : K4) (s : State) : Host.Outcome State Fault Refusal := vPack (evExpand y) d a k s

/-- A mask operation over 512 bits (R395). -/
def maskOp (f : KMask → KMask → KMask) (d a b : K4) (s : State) : Host.Outcome State Fault Refusal :=
  issueV (fun g _ s => do
    let s ← s.useUnit? g (some (.valu, 1))
    let s ← s.freeK g d
    let x := s.rdK g a
    let z := x.2.rdK g b
    .ok (z.2.wrK g d (2 ^ 512 - 1) (f x.1 z.1).toNat 1)) s

/-- KAND (R395). -/
def execKand (d a b : K4) (s : State) : Host.Outcome State Fault Refusal := maskOp (fun x z => x &&& z) d a b s
/-- KOR (R395). -/
def execKor (d a b : K4) (s : State) : Host.Outcome State Fault Refusal := maskOp (fun x z => x ||| z) d a b s
/-- KXOR (R395). -/
def execKxor (d a b : K4) (s : State) : Host.Outcome State Fault Refusal := maskOp (fun x z => x ^^^ z) d a b s
/-- KANDN (R395). -/
def execKandn (d a b : K4) (s : State) : Host.Outcome State Fault Refusal := maskOp (fun x z => x &&& ~~~ z) d a b s
/-- KNOT (R395). -/
def execKnot (d a : K4) (s : State) : Host.Outcome State Fault Refusal := maskOp (fun x _ => ~~~ x) d a a s

/-- KMOVX (R395): a poisoned source receives cause 0x2D. -/
def execKmovx (d : K4) (x : R5) (s : State) : Host.Outcome State Fault Refusal :=
  issueV (fun g st s => do
    let r := s.rdS g st x
    raiseIf r.1.2 s 0x2D
    let s ← r.2.useUnit? g (some (.valu, 1))
    let s ← s.freeK g d
    .ok (s.wrK g d (2 ^ 512 - 1) r.1.1.toNat 1)) s

/-- XMOVK (R395): clean. -/
def execXmovk (d : R5) (a : K4) (s : State) : Host.Outcome State Fault Refusal :=
  issueV (fun g st s => do
    let s ← s.useUnit? g (some (.valu, 1))
    let s ← s.freeS g st d
    let x := s.rdK g a
    .ok (x.2.wrS g st d (x.1.setWidth 64) false 1)) s

/-- VMOV (R396). -/
def execVmov (d a : V6) (m : K4) (s : State) : Host.Outcome State Fault Refusal :=
  issueV (fun g _ s => do
    let s ← s.useUnit? g (some (.valu, 1))
    let s ← s.openDst g [d] (m != 0)
    let s ← s.needV g [a]
    let x := s.rdV g a
    let k := x.2.rdK g m
    k.2.putV g d (evMov x.1 k.1) 0 2) s

/-! ## Level 1 and level 2 loads and stores (R397 to R400) -/

/-- The two levels that the X-stream reaches: size, unit, latency. -/
structure XLevel where
  clu : Bool
  size : Nat
  unit : XUnit
  lat : Nat

def xSpad : XLevel := { clu := false, size := 2 ^ 21, unit := .ls1, lat := 6 }
def xClu : XLevel := { clu := true, size := 2 ^ 23, unit := .ls2, lat := 14 }

/-- The address of a form after its checks, orders 1 to 4 (R397). -/
def xAddr (l : XLevel) (x : W64 × Bool) (o : BitVec 6) (n : Nat) (s : State) : Res Nat :=
  let ea := vAddr x.1 o
  if x.2 then trapIn s { code := 0x2B }
  else if ea.toNat % 64 != 0 then trapIn s { code := 0x07, tval := ea, aKind := 3 }
  else if levelOut ea (256 * n) l.size then trapIn s { code := 0x29, tval := ea, aKind := 3 }
  else .ok ea.toNat

/-- 256 bytes of a level with their lane poison. -/
def xEntry (l : XLevel) (s : State) (g : BitVec 8) (ea : Nat) : VVal :=
  if l.clu then
    let a := cluBase (cluOf g) + ea
    let c := (s.tile g).ctx.getD 0
    (BitVec.ofNat 2048 (leNat (s.rdGran c a 256).1),
     BitVec.ofNat 64 (lanePoison fun i => (s.rdGran c (a + 4 * i) 4).2))
  else s.spadEntry g ea

/-- Lanes `[64k, 64k + 63]` of a mask. -/
def laneMask (m : KMask) (k : Nat) : KMask := (m.extractLsb' (64 * k) 64).setWidth 512

/-- A vector load of `n` names (R397 to R399). -/
def vLoad (l : XLevel) (d : V6) (x : R5) (n3 : BitVec 3) (m : K4) (o : BitVec 6) (s : State) :
    Host.Outcome State Fault Refusal :=
  issueV (fun g st s => do
    let n := n3.toNat + 1
    let s := s.modTile g fun t => t.xHold false
    let r := s.rdS g st x
    let ea ← xAddr l r.1 o n s
    let dst := groupOf d n
    let s ← r.2.useUnit g st l.unit n
    let s ← s.openDst g dst (m != 0)
    let k := s.rdK g m
    let s ← k.2.takeSlots g dst
    let ws := dst.mapIdx fun i q => (q, evMov (xEntry l s g (ea + 256 * i)) (laneMask k.1 i))
    let s := State.wrGroup g 1 l.lat ws s
    .ok (s.modTile g fun t => { t with ldClose := Nat.max t.ldClose (t.xcyc + l.lat + n - 1) })) s

/-- The runs of active lanes of one 64-byte line of a name that is stored: bytes and whether a lane is poisoned. -/
def xStoreLane (l : XLevel) (g : BitVec 8) (ea : Nat) (v : VVal) (k : KMask) (s : State) (i : Nat) : State :=
  let lanes := (List.range 16).filter fun j => k.getLsbD (16 * i + j)
  let pois := lanes.any fun j => v.2.getLsbD (16 * i + j)
  if lanes.isEmpty then s
  else
    let put (s : State) (off : Nat) (bs : List Byte) (p : Bool) : State :=
      if l.clu then
        (s.wrGran ((s.tile g).ctx.getD 0) (cluBase (cluOf g) + off) bs p).modTile g fun t => { t with wroteClu := true }
      else s.wrSpad g off bs p
    if lanes.length = 16 then put s (ea + 64 * i) (leBytes 64 (v.1.toNat / 2 ^ (512 * i))) pois
    else lanes.foldl (fun s j => put s (ea + 64 * i + 4 * j) (leBytes 4 (elem 32 v.1 (16 * i + j))) pois) s

/-- Some granule that the bytes of a store touch is sealed (R224, R397 order 5). -/
def xSealed (l : XLevel) (s : State) (g : BitVec 8) (ea n : Nat) : Bool := !l.clu && (s.tile g).spadSealed ea n

/-- A vector store of `n` names, performed at its level (R397 to R399). -/
def vStore (l : XLevel) (d : V6) (x : R5) (n3 : BitVec 3) (m : K4) (o : BitVec 6) (s : State) :
    Host.Outcome State Fault Refusal :=
  issueV (fun g st s => do
    let n := n3.toNat + 1
    let s := s.modTile g fun t => t.xHold true
    let r := s.rdS g st x
    let ea ← xAddr l r.1 o n s
    if xSealed l s g ea (256 * n) then trapIn s { code := 0x23, tval := BitVec.ofNat 64 ea, aKind := 3 }
    else
      let src := groupOf d n
      let s ← r.2.useUnit g st l.unit n
      let s ← s.needV g src
      let v := State.rdGroup g src s
      let k := v.2.rdK g m
      let s := (v.1.zip (List.range n)).foldl (fun s (e : VVal × Nat) =>
        (List.range 4).foldl (fun s i => xStoreLane l g (ea + 256 * e.2) e.1 (laneMask k.1 e.2) s i) s) k.2
      .ok (s.modTile g fun t =>
        let close := t.xcyc + l.lat + n - 1
        if l.clu then { t with stCloseC := Nat.max t.stCloseC close } else { t with stClose := Nat.max t.stClose close })) s

/-- VLD (R397 to R399). -/
def execVld (d : V6) (x : R5) (n : BitVec 3) (m : K4) (o : BitVec 6) (s : State) : Host.Outcome State Fault Refusal :=
  vLoad xSpad d x n m o s
/-- VST (R397 to R399). -/
def execVst (d : V6) (x : R5) (n : BitVec 3) (m : K4) (o : BitVec 6) (s : State) : Host.Outcome State Fault Refusal :=
  vStore xSpad d x n m o s
/-- VLDC (R397 to R399). -/
def execVldc (d : V6) (x : R5) (n : BitVec 3) (m : K4) (o : BitVec 6) (s : State) : Host.Outcome State Fault Refusal :=
  vLoad xClu d x n m o s
/-- VSTC (R397 to R399). -/
def execVstc (d : V6) (x : R5) (n : BitVec 3) (m : K4) (o : BitVec 6) (s : State) : Host.Outcome State Fault Refusal :=
  vStore xClu d x n m o s

/-! ## Queue transfers (R401) -/

/-- QPOPV (R401). -/
def execQpopv (v : V6) (q : BitVec 4) (s : State) : Host.Outcome State Fault Refusal :=
  issue .x 1 (fun g _ s => do
    let _ ← s.popQ g q
    let s ← s.openDst g [v] false
    let r ← s.popQ g q
    let w := VW.whole r.1.data r.1.pois
    let s ← s.takeSlots g [v]
    .ok ((s.modTile g fun t => t.setQueue q (t.queue q).tail).wrV g v w.mask w.val w.pmask w.pval 2)) s

/-- QPOPX (R401). -/
def execQpopx (x : R5) (q : BitVec 4) (s : State) : Host.Outcome State Fault Refusal :=
  issue .x 1 (fun g st s => do
    let _ ← s.popQ g q
    let s ← s.freeS g st x
    let r ← s.popQ g q
    .ok (r.2.wrS g st x (r.1.data.setWidth 64) (r.1.pois.extractLsb' 0 2 != 0) 2)) s

/-- QPUSHV (R401). -/
def execQpushv (v : V6) (q : BitVec 4) (s : State) : Host.Outcome State Fault Refusal :=
  issue .x 1 (fun g _ s => do
    if 16 ≤ ((s.tile g).queue q).length then waitIn s .queue
    else
      let s ← s.needV g [v]
      let r := s.rdV g v
      r.2.pushQ g q { data := r.1.1, pois := r.1.2 }) s

/-- QPUSHX (R401): every other bit zero and clean. -/
def execQpushx (x : R5) (q : BitVec 4) (s : State) : Host.Outcome State Fault Refusal :=
  issue .x 1 (fun g st s => do
    if 16 ≤ ((s.tile g).queue q).length then waitIn s .queue
    else
      let r := s.rdS g st x
      r.2.pushQ g q { data := r.1.1.setWidth 2048, pois := if r.1.2 then 3 else 0 }) s

end Sys2Proof.Machine
end

