-- ==== Sys2Proof/Machine/Engines.lean ====
section
/-! DEFINITION. Engine commands: their issue (R165, R166, R429), acceptance, beats and their translation (R197, R198,
R202, R430), the spaces of a copy or gather (R432), completion, and the ill-formed command (R423, R431). -/

namespace Sys2Proof.Machine

/-! ## Queues (R165, R406) -/

/-- Command queue depth (R165). -/
def engDepth : Eng → Nat
  | .matrix => 8
  | _ => 16

/-- The row blocks of a compute command (R412, R420). -/
def Cmd.rowBlocks (c : Cmd) : Nat :=
  if c.op = .mepi then (c.imm.extractLsb' 3 3).toNat + 1 else (c.imm.extractLsb' 8 9).toNat + 1

/-- The last row of a compute command has entered the array, or the last beat of an `MEPI` has issued (R406). -/
def Cmd.entered (c : Cmd) : Bool := c.prog != 0 && decide (c.rowBlocks ≤ (if c.op = .mepi then c.eb else c.rb))

/-- An earlier matrix command holds a later one back (R406, R411): an `MWLD` a later `MWLD`, an `MSWAP` every later command, a compute command
a later compute command or `MSWAP` until its last row has entered the array, and a later `MWLD` until it is complete, once an `MSWAP`
accepted between them has taken effect. -/
def matrixHolds (earlier c : Cmd) : Bool :=
  match earlier.op with
  | .mswap => true
  | .mwld => c.op == .mwld || c.op == .mswap
  | _ => if c.op = .mwld then earlier.swapped else !earlier.entered

def matrixActive : List Cmd → List Cmd → List Cmd
  | _, [] => []
  | seen, c :: r => (if seen.any fun o => matrixHolds o c then [] else [c]) ++ matrixActive (c :: seen) r

/-- The accepted commands that are in progress (R165). -/
def EngQ.active (q : EngQ) (e : Eng) : List Cmd :=
  match e with
  | .copy => q.running.take 4
  | .gather => q.running.take 2
  | .matrix => matrixActive [] q.running
  | _ => q.running

/-- The command queue is full: it holds the issued commands that are not in progress. -/
def EngQ.full (q : EngQ) (e : Eng) : Bool := engDepth e ≤ q.waiting.length + (q.running.length - (q.active e).length)

/-- A command has started (R423, R431). -/
def EngQ.started (q : EngQ) (e : Eng) (c : Cmd) : Bool :=
  if e = .matrix then decide (0 < c.prog) else (q.active e).any fun x => x.seq == c.seq

/-! ## Issue -/

/-- A command as it issues (R429): the consumed tokens that are pending, and its register values. -/
def mkCmd (t : Tile) (op : CmdOp) (st : Stream) (k : ETok) (a b c : W64) (imm : BitVec 17) : Cmd where
  op := op
  stream := st
  tp := k.tp
  cons := [k.ta, k.tb, k.tc].filter t.tkPending
  a := a
  b := b
  c := c
  imm := imm
  ty := .i8
  seq := 0
  prog := 0
  blk0 := 0
  blk1 := 0
  blk2 := 0
  rm := 0
  ftz := false
  leak := 0
  adty := false
  refs := []
  vclk := Vector.replicate 4 0
  waits := []
  interval := 0
  flags := 0
  sent := []
  blocks := []
  mismatch := false
  tns := []
  ttile := none
  zspoil := 0
  ext := []
  rb := 0
  eb := 0
  swapped := false
  since := 0

/-- The accumulator tiles that a compute command targets (R412, R420). -/
def Cmd.zTargets (c : Cmd) : List (BitVec 3) :=
  match c.op with
  | .mma | .mmas | .mepi =>
    (List.range ((c.imm.extractLsb' 3 3).toNat + 1)).map fun i => c.imm.extractLsb' 0 3 + BitVec.ofNat 3 i
  | _ => []

/-- What a discarded command leaves (R423 step 3): a compute command's tiles lose VALID; the destination plane of an `MWLD`
becomes INVALID. -/
def Tile.discard (t : Tile) (c : Cmd) : Tile :=
  let t := c.zTargets.foldl (fun t z => t.setZtile z { t.ztile z with valid := false }) t
  if c.op = .mwld then { t with shadow := { Plane.reset with st := .invalid } } else t

def Plane.view (p : Plane) : PlaneView := { st := p.st, ty := p.ty, sparse := p.sparse }

/-- Put an issued command in its engine's queue, or discard it while the queue is halted (R423, R431). -/
def State.pushCmd (s : State) (g : BitVec 8) (e : Eng) (c : Cmd) : State :=
  s.modTile g fun t =>
    let q := t.eng e
    if q.halted then ((t.discard c).tkProduce c.tp).tkComplete c.tp
    else (t.setEng e { q with waiting := q.waiting ++ [c] }).tkProduce c.tp

/-- A command waits to issue: its produced token is still pending, or its engine's queue is full (R165, R166). -/
def State.waitCmd (s : State) (g : BitVec 8) (e : Option Eng) (k : ETok) : Res Unit :=
  let t := s.tile g
  if t.tkPending k.tp then waitIn s .token
  else match e with
    | some e => waitIf (!(t.eng e).halted && (t.eng e).full e) s
    | none => .ok ()

/-- The three scalar registers of word 1; a poisoned one receives cause 0x2B (R429). -/
def State.rd3 (s : State) (g : BitVec 8) (st : Stream) (sa sb sc : R5) : Res (W64 × W64 × W64 × State) :=
  let x := s.rdS g st sa
  let y := x.2.rdS g st sb
  let z := y.2.rdS g st sc
  if x.1.2 || y.1.2 || z.1.2 then trapIn s { code := 0x2B } else .ok (x.1.1, y.1.1, z.1.1, z.2)

/-- An engine command of the A-stream (R428, R429). -/
def engIssue (e : Eng) (op : CmdOp) (k : ETok) (sa sb sc : R5) (imm : BitVec 17) (s : State) :
    Host.Outcome State Fault Refusal :=
  issue .a 2 (fun g st s => do
    s.waitCmd g (some e) k
    let r ← s.rd3 g st sa sb sc
    .ok (r.2.2.2.pushCmd g e (mkCmd (s.tile g) op st k r.1 r.2.1 r.2.2.1 imm))) s

/-! ## Acceptance and completion (R166) -/

/-- The oldest waiting command of an engine is accepted when its consumed tokens are complete: the engine counts it, and
it takes its die's vector (R256) and its context's checkpoint interval (R450). -/
def State.acceptCmd (s : State) (g : BitVec 8) (e : Eng) : State :=
  let t := s.tile g
  let q := t.eng e
  match q.waiting with
  | [] => s
  | c :: r =>
    if t.stop.isSome || t.capturing.isSome || !c.cons.isEmpty then s
    else
      let iv := ((t.ctx.bind s.ctx?).map (·.interval)).getD 0
      let c := { c with seq := q.seq + 1, vclk := (s.die (dieOf g)).vclk, interval := iv, since := s.cy }
      s.setTile g (t.setEng e { q with waiting := r, running := q.running ++ [c], seq := q.seq + 1 })

/-- A command in progress, by its accept number. -/
def State.cmdOf (s : State) (g : BitVec 8) (e : Eng) (seq : BitVec 32) : Option Cmd :=
  (((s.tile g).eng e).active e).find? fun c => c.seq == seq

/-- Store a command's progress. -/
def State.putCmd (s : State) (g : BitVec 8) (e : Eng) (c : Cmd) : State :=
  s.modTile g fun t =>
    let q := t.eng e
    t.setEng e { q with running := updIf q.running (fun x => x.seq == c.seq) fun _ => c }

/-- A tile that an incomplete matrix command uses (R175). -/
def Tile.zBusy (t : Tile) (z : BitVec 3) : Bool :=
  (t.emat.waiting ++ t.emat.running).any fun c => c.zTargets.contains z

/-- The tiles that an X-stream write has spoiled while a command used them hold undefined content when that command completes (R175). -/
def State.settleSpoil (s : State) (g : BitVec 8) (c : Cmd) : State :=
  [(0 : BitVec 3), 1, 2, 3, 4, 5, 6, 7].foldl (fun s z =>
    if c.zspoil.getLsbD z.toNat then
      let f := s.free 65536
      f.2.modTile g fun t => t.setZtile z { t.ztile z with data := f.1, pois := 0 }
    else s) s

/-- A command completes (R166, R227, R274): its references drop, its flags are set, its token completes. -/
def State.finishCmd (s : State) (g : BitVec 8) (e : Eng) (c : Cmd) : State :=
  let s := s.dropHolds c
  let s := s.modTile g fun t =>
    let q := t.eng e
    Tile.tkDone { t.setEng e { q with running := q.running.filter fun x => x.seq != c.seq } with fstat := t.fstat ||| c.flags } c.tp
  s.settleSpoil g c

/-- The engine finds a command ill-formed (R423, R431): the queue halts, the command and the later ones that have not started
are discarded and their tokens complete, an error record is written, and cause 0x50 is raised. R431 gives the reasons of the other engines; the
record of a matrix command has none (R423). -/
def State.haltEngine (s : State) (g : BitVec 8) (e : Eng) (c : Cmd) (reason : Byte) : State :=
  let q := (s.tile g).eng e
  let keep := q.running.filter fun x => x.seq != c.seq && q.started e x
  let gone := (q.running.filter fun x => x.seq == c.seq || !q.started e x) ++ q.waiting
  let s := gone.foldl State.dropHolds s
  let s := s.modTile g fun t =>
    let t := gone.foldl Tile.discard t
    let t := t.setEng e { q with waiting := [], running := keep, halted := true }
    let t := gone.foldl (fun t x => t.tkDone x.tp) t
    if e = .matrix then { t with viewA := t.active.view, viewS := t.shadow.view } else t
  let s := gone.foldl (fun s x => s.settleSpoil g x) s
  let t := s.tile g
  let s := s.raiseErr
    { info := if e = .matrix then 0 else reason.setWidth 64, ctx := t.ctx.getD 0, srcId := g.setWidth 16
      srcKind := match e with | .coll | .salt => 3 | _ => 2
      sev := 3, cause := some 0x50, apc := t.apc, xpc := t.xpc, engSeq := c.seq, engine := Eng.code e }
  s.takeCause g (Eng.stream e) { code := 0x50, engine := some e, seq := c.seq }

/-- A cause of an engine beat (R227, R289, R430): the command stops, its references drop and its token completes; the
cause is charged to the stream that issued it. -/
def State.engineCause (s : State) (g : BitVec 8) (e : Eng) (c : Cmd) (r : Raise) : State :=
  (s.finishCmd g e { c with flags := 0 }).takeCause g (Eng.stream e) { r with engine := some e, seq := c.seq }

/-! ## Beats -/

/-- Why a command does no more now: it waits; a beat raises a cause; it is ill-formed. -/
inductive BStop where
  | wait (s : State)
  | cause (s : State) (r : Raise)
  | ill (s : State) (reason : Byte)

abbrev BRes (α : Type) := Except BStop α

def bWait {α : Type} (s : State) : BRes α := .error (.wait s)
def bCause {α : Type} (s : State) (r : Raise) : BRes α := .error (.cause s r)
def bIll {α : Type} (s : State) (n : Byte) : BRes α := .error (.ill s n)
def illIf (b : Bool) (s : State) (n : Byte) : BRes Unit := if b then bIll s n else .ok ()
def causeIf (b : Bool) (s : State) (c : Cause) : BRes Unit := if b then bCause s { code := c } else .ok ()

/-- The engines inside the tile's frozen domain (R430). -/
def tileEngine : Eng → Bool
  | .coll | .salt => false
  | _ => true

/-- An access of a command: tile engines translate through the rim, die engines by a walk (R197, R430). -/
def State.xlEng (s : State) (g : BitVec 8) (e : Eng) (va : W64) (a : Acc) : Xl :=
  let t := s.tile g
  let ctx := t.ctx.getD 0
  if tileEngine e then s.xlate t ctx va a else s.xlateNow ctx va a

/-- The translations of a beat, source first: the first that does not pass gives the outcome; walks start together and
not-present translations are reported together (R198, R199, R202). -/
def State.beatXl (s : State) (g : BitVec 8) (e : Eng) (seq : BitVec 32) (l : List (W64 × Acc)) :
    BRes (List (Nat × BitVec 128) × State) :=
  let ctx := (s.tile g).ctx.getD 0
  let w (x : W64 × Acc) : Walk := { ctx := ctx, va := x.1, acc := x.2, waiter := .engine e seq, half := false }
  let isMiss (x : W64 × Acc) : Bool := s.xlEng g e x.1 x.2 == .miss
  let isAbsent (x : W64 × Acc) : Bool := s.xlEng g e x.1 x.2 == .absent
  let bad := l.find? fun x => match s.xlEng g e x.1 x.2 with | .ok _ _ => false | _ => true
  match bad with
  | none =>
    .ok (l.filterMap (fun x => match s.xlEng g e x.1 x.2 with | .ok pa leaf => some (pa, leaf) | _ => none),
      if tileEngine e then l.foldl (fun s x => s.modTile g fun t => t.tlbTouch ctx x.1) s else s)
  | some x =>
    match s.xlEng g e x.1 x.2 with
    | .cause c => bCause s { code := c, tval := x.1, aKind := 2 }
    | .miss => bWait (s.modTile g fun t => (l.filter isMiss).foldl (fun t x => t.askWalk (w x)) t)
    | _ => bWait (s.freeze g ((l.filter isAbsent).map w))

/-- The spaces of R432. -/
inductive Space where
  | va | spa | cma | ssa
  deriving DecidableEq, Repr

def Space.of (c : BitVec 3) : Space :=
  match c.toNat with
  | 0 => .va
  | 1 => .spa
  | 2 => .cma
  | _ => .ssa

/-- Bytes of a level (R183); a virtual address has its own check. -/
def Space.size : Space → Nat
  | .va => 2 ^ 64
  | .spa => 2 ^ 21
  | .cma => 2 ^ 23
  | .ssa => 2 ^ 29

/-- Where a level lies in the storage table. -/
def Space.base (sp : Space) (g : BitVec 8) : Nat :=
  match sp with
  | .spa => spadBase g.toNat
  | .cma => cluBase (cluOf g)
  | _ => stgBase

/-- The translations that an access of `n` bytes at an address needs: one for each line of a virtual range. -/
def Space.needs (sp : Space) (addr n : Nat) (a : Acc) : List (W64 × Acc) :=
  match sp with
  | .va => (linePieces addr n).map fun p => (BitVec.ofNat 64 p.1, a)
  | _ => []

/-- A beat's requests arrive at their homes behind everything that the tile's die sent there before them (R255). -/
def State.engArrive (s : State) (g : BitVec 8) (pl : List (Nat × BitVec 128)) : State :=
  pl.foldl (fun s p => if leafPeer p.2 then s else s.drainChan (dieOf g) (homeOf p.1)) s

/-- The request entries that a beat of an engine takes for a range: none for the scratchpad, which no line leaves the tile for, and none of
the tile's for the collective engine (R181). -/
def Space.entries (sp : Space) (e : Eng) (addr n : Nat) : Nat :=
  if sp == .spa || e == .coll then 0 else Nat.min 2 (linesOf addr n).length

/-- A read at a place waits for the markers it must follow (R256). -/
def State.engServed (s : State) (c : Cmd) (pl : List (Nat × BitVec 128)) : Bool :=
  pl.all fun p => leafPeer p.2 || s.served (homeOf p.1) c.vclk

/-- Read `n` bytes at an address of a space whose translations have passed (R192, R432). -/
def State.engRead (s : State) (g : BitVec 8) (sp : Space) (addr n : Nat) (pl : List (Nat × BitVec 128)) : List PByte × State :=
  match sp with
  | .va =>
    let bs := ((linePieces addr n).zip pl).flatMap fun x =>
      let r := s.readHome x.2.2 x.2.1 x.1.2
      r.1.map fun b => (b, r.2)
    (bs, if pl.any (fun p => leafPeer p.2) then { s with fresh := s.fresh + 1 } else s)
  | .spa =>
    ((List.range n).map fun i =>
      let a := spadBase g.toNat + addr + i
      (s.rdByte a, s.poison.contains (a / 64)), s)
  | _ =>
    let ctx := (s.tile g).ctx.getD 0
    ((List.range n).map fun i =>
      let a := sp.base g + addr + i
      if Tab.get? s.gran (a / 4096) = some ctx then (s.granByte a, s.poison.contains (a / 64)) else (0, false), s)

/-- Write bytes at an address of a space whose translations have passed, line by line: a line that receives a poisoned
byte becomes poisoned (R111, R112, R192, R314). -/
def State.engWrite (s : State) (g : BitVec 8) (sp : Space) (addr : Nat) (bs : List PByte) (pl : List (Nat × BitVec 128)) : State :=
  let ctx := (s.tile g).ctx.getD 0
  let part (p : Nat × Nat) : List Byte × Bool :=
    let l := (bs.drop (p.1 - addr)).take p.2
    (l.map (·.1), l.any (·.2))
  match sp with
  | .va =>
    ((linePieces addr bs.length).zip pl).foldl (fun s x =>
      (s.engArrive g [x.2]).writeHome ctx x.2.2 x.2.1 (part x.1).1 (part x.1).2) s
  | .spa => (linePieces addr bs.length).foldl (fun s p => s.wrSpad g p.1 (part p).1 (part p).2) s
  | _ =>
    let s := (linePieces addr bs.length).foldl (fun s p => s.wrGran ctx (sp.base g + p.1) (part p).1 (part p).2) s
    if sp == .cma then s.modTile g fun t => { t with wroteClu := true } else s

/-- An engine write to a sealed scratchpad granule receives cause 0x23 (R224). -/
def State.engSealed (s : State) (g : BitVec 8) (sp : Space) (addr n : Nat) : BRes Unit :=
  if sp == .spa && (s.tile g).spadSealed addr n then
    bCause s { code := 0x23, tval := BitVec.ofNat 64 addr, aKind := 3 }
  else .ok ()

/-- A beat whose translations have passed has its request entries, and its reads are served (R181, R256); else it waits. -/
def State.beatGo (s : State) (g : BitVec 8) (c : Cmd) (entries : Nat) (reads : List (Nat × BitVec 128)) : BRes State :=
  let s1 := s.engArrive g reads
  if (entries != 0 && s.engFull g entries) || !s1.engServed c reads then bWait s1 else .ok s1

/-- Read a range through a command, in one beat: translated, held for its markers, read. -/
def State.beatRead (s : State) (g : BitVec 8) (e : Eng) (c : Cmd) (sp : Space) (addr n : Nat) : BRes (List PByte × State) := do
  let x ← s.beatXl g e c.seq (sp.needs addr n .read)
  let s ← x.2.beatGo g c (sp.entries e addr n) x.1
  .ok (s.engRead g sp addr n x.1)

/-- Write a range through a command, in one beat. -/
def State.beatWrite (s : State) (g : BitVec 8) (e : Eng) (c : Cmd) (sp : Space) (addr : Nat) (bs : List PByte) : BRes State := do
  let x ← s.beatXl g e c.seq (sp.needs addr bs.length .write)
  x.2.engSealed g sp addr bs.length
  let s ← x.2.beatGo g c (sp.entries e addr bs.length) []
  .ok (s.engWrite g sp addr bs x.1)

/-- A beat that reads a range and writes as many bytes, made of them, at another: both are translated before either is performed, the source
first, and one request entry serves for a line's read and write (R178, R181, R198, R202). -/
def State.beatMove (s : State) (g : BitVec 8) (e : Eng) (c : Cmd) (sp : Space) (src : Nat) (dp : Space) (dst n : Nat)
    (f : List PByte → List PByte) : BRes State := do
  let rd := sp.needs src n .read
  let x ← s.beatXl g e c.seq (rd ++ dp.needs dst n .write)
  x.2.engSealed g dp dst n
  let s ← x.2.beatGo g c (Nat.max (sp.entries e src n) (dp.entries e dst n)) (x.1.take rd.length)
  let r := s.engRead g sp src n (x.1.take rd.length)
  .ok (r.2.engWrite g dp dst (f r.1) (x.1.drop rd.length))

end Sys2Proof.Machine
end

