-- ==== Sys2Proof/Machine/DirReqs.lean ====
section
/-! DEFINITION. Frames of a node (R218, R223), how a holder answers a FETCH (R57), and the requests a unit has outstanding
in the crystal directory (R60, R61). -/

namespace Sys2Proof.Machine

/-! ## Frames (R212, R218) -/

def State.ns? (s : State) (n : BitVec 32) : Option Namespace := Tab.get? s.nss n.toNat

/-- The layer group of a node that holds a layer. -/
def Node.groupAt (n : Node) (layer : Nat) : Option Group :=
  n.groups.find? fun g => decide (g.layer0 ≤ layer) && decide (layer < g.layer0 + g.nlay)

/-- Read bytes of a local group's extent at an address (R218): tier 0 in staging memory, tiers 1 and 2 under the namespace's key. -/
def State.frameRead (s : State) (ns : Namespace) (tier : BitVec 2) (addr n : Nat) : List PByte :=
  if tier = 0 then
    (List.range n).map fun i => (s.rdByte (stgBase + addr + i), s.poison.contains ((stgBase + addr + i) / 64))
  else
    (linePieces addr n).flatMap fun p =>
      let r := s.rdDev ns.key p.1 p.2
      r.1.map fun b => (b, r.2)

/-- Write bytes of a local group's extent for a context, line by line (R218, R314). -/
def State.frameWrite (s : State) (ctx : BitVec 16) (ns : Namespace) (tier : BitVec 2) (addr : Nat) (bs : List PByte) : State :=
  (linePieces addr bs.length).foldl (fun s p =>
    let l := (bs.drop (p.1 - addr)).take p.2
    let v := l.map (·.1)
    let q := l.any (·.2)
    if tier = 0 then s.wrGran 0 (stgBase + p.1) v q else s.wrDev ctx ns.key p.1 v q) s

/-- Bytes `off` to `off + n − 1` of the frames of layers from `lay`, in layer order; `none` where a layer lies in a peer. -/
def State.blockBytes (s : State) (ns : Namespace) (nd : Node) (lay off n : Nat) : Option (List PByte) :=
  let lb := 2 ^ ns.log2lb
  let first := off / lb
  let last := (off + n - 1) / lb
  ((List.range (last + 1 - first)).map fun i => first + i).foldl (fun acc k =>
    match acc, nd.groupAt (lay + k) with
    | some l, some g =>
      if g.tier = 3 then none
      else
        let lo := Nat.max off (k * lb)
        let hi := Nat.min (off + n) (k * lb + lb)
        some (l ++ s.frameRead ns g.tier (g.addr + (lay + k - g.layer0) * lb + (lo - k * lb)) (hi - lo))
    | _, _ => none) (some [])

/-! ## A holder's answer to a FETCH (R57) -/

/-- STATUS and data of the answer to a FETCH, and the node whose in-flight reference the answer takes (R221). Every layer of the range is in the
holder's own tiers. -/
def State.answerFetch (s : State) (m : DirMsg) : Byte × List Byte × Option (BitVec 32) :=
  match s.probe m.nsid m.name, s.ns? m.nsid with
  | some h, some ns =>
    let nd := s.node h
    if nd.st != .sealed then (0x01, [], none)
    else
      let lb := 2 ^ ns.log2lb
      let lay := m.layer0.toNat
      let nl := m.nlayer.toNat
      let off := m.offset.toNat
      let len := m.length.toNat
      let held (i : Nat) : Bool := match nd.groupAt (lay + i) with
        | some g => g.tier != 3
        | none => false
      if nl = 0 || ns.nlayer < lay + nl || len = 0 || 1048576 < len || nl * lb < off + len || !(List.range nl).all held then (0x06, [], none)
      else match s.blockBytes ns nd lay off len with
        | none => (0x06, [], none)
        | some l => (0x00, l.map (·.1), some h)
  | _, _ => (0x01, [], none)

/-! ## Outstanding requests (R60, R61) -/

/-- The first TAG from the counter on that no outstanding request bears (R61). -/
def State.newTag (s : State) : BitVec 16 × State :=
  let c := (List.range (s.dirReqs.length + 1)).map fun i => s.dirTag + BitVec.ofNat 16 i
  let t := (c.find? fun t => !s.dirReqs.any fun r => r.tag == t).getD s.dirTag
  (t, { s with dirTag := t + 1 })

/-- Bytes of receive space that the whole answer to a request needs (R50, R61). -/
def answerSpace (m : DirMsg) : Nat := if m.op = 5 then 48 + m.length.toNat else 48

/-- Send a request with its receive space reserved, and hold it outstanding (R61); `none` when its destination is unreachable. The manual sets
no size for a requester's receive space, so there is always room (log entry 53). -/
def State.ask (s : State) (pkg : BitVec 12) (m : DirMsg) (r : DirReq) (extra : List (List Byte)) (data : List Byte) : Option State :=
  (s.sendDir pkg m extra data).map fun t =>
    { t with dirReqs := t.dirReqs ++ [{ r with tag := m.tag, op := m.op, port := s.routeTo pkg (dirFlow m), sentAt := s.cy, space := answerSpace m }] }

/-- Update an engine command of a tile by its accept number. -/
def State.modCmd (s : State) (g : BitVec 8) (e : Eng) (seq : BitVec 32) (f : Cmd → Cmd) : State :=
  s.modTile g fun t =>
    let q := t.eng e
    t.setEng e { q with running := updIf q.running (fun c => c.seq == seq) f }

/-- Key under which a command keeps the bytes of a part of a block that it has fetched. -/
def fetchKey (layer off : Nat) : Nat := layer * 2 ^ 32 + off

/-- A FETCH of a command ends: with its data, or with the block not cached (R60). -/
def State.fetchEnd (s : State) (r : DirReq) (data : Option (List Byte)) : State :=
  s.modCmd r.tile r.eng r.seq fun c =>
    match data with
    | some d => { c with blocks := c.blocks ++ [(fetchKey r.msg.layer0.toNat r.msg.offset.toNat, d)] }
    | none => { c with mismatch := true }

/-- The groups of a block that point at a failed holder point at another (R227). -/
def State.repoint (s : State) (nsid : BitVec 32) (name : BitVec 128) (frm dst : BitVec 12) : State :=
  match s.probe nsid name with
  | some h => s.modNode h fun n => { n with groups := updIf n.groups (fun g => g.tier == 3 && g.pkg == frm) fun g => { g with pkg := dst } }
  | none => s

/-- Send the FETCH of a request to a holder for the second time: a failure ends it (R60). -/
def State.sendFetchAgain (s : State) (r : DirReq) (pkg : BitVec 12) : State :=
  let s := match r.holder with
    | some old => s.repoint r.nsid r.name old pkg
    | none => s
  if pkg = s.pkgid then
    let a := s.answerFetch r.msg
    let s := match a.2.2 with
      | some h => (s.incRef h).unref h
      | none => s
    s.fetchEnd r (if a.1 = 0 then some a.2.1 else none)
  else
    let t := s.newTag
    let m := { r.msg with tag := t.1 }
    (t.2.ask pkg m { r with msg := m, holder := some pkg, retried := true } [] []).getD (s.fetchEnd r none)

/-- A FETCH has failed (R60): once, a LOOKUP that excludes the holder that failed; then the block is not cached. -/
def State.fetchFailed (s : State) (r : DirReq) : State :=
  if r.retried || !s.dirEn then s.fetchEnd r none
  else match s.homePkg r.name with
    | none => s.fetchEnd r none
    | some home =>
      let r := { r with retried := true }
      if home = s.pkgid then
        match s.dirLookup r.nsid r.name r.holder with
        | some (_, h :: _) => s.sendFetchAgain r h.pkg
        | _ => s.fetchEnd r none
      else
        let t := s.newTag
        (t.2.ask home { mkDir 1 r.nsid r.name with tag := t.1, excl := r.holder } r [] []).getD (s.fetchEnd r none)

/-- A command's first FETCH of a part of a block from the holder its group names (R60, R227). -/
def State.startFetch (s : State) (g : BitVec 8) (e : Eng) (seq : BitVec 32) (nd : Node) (pkg : BitVec 12)
    (layer nlay off len : Nat) : State :=
  let m := { mkDir 5 nd.nsid nd.name with
    layer0 := BitVec.ofNat 16 layer, nlayer := BitVec.ofNat 16 nlay, offset := BitVec.ofNat 32 off, length := BitVec.ofNat 32 len }
  let t := s.newTag
  let m := { m with tag := t.1 }
  let r : DirReq := { tag := t.1, op := 5, nsid := nd.nsid, name := nd.name, msg := m, holder := some pkg, retried := false
                      tile := g, eng := e, seq := seq, port := none, sentAt := 0, space := 0 }
  (t.2.ask pkg m r [] []).getD (s.fetchFailed r)

/-- A command has a request outstanding. -/
def State.asking (s : State) (g : BitVec 8) (e : Eng) (seq : BitVec 32) : Bool :=
  s.dirReqs.any fun r => r.tile == g && r.eng == e && r.seq == seq

/-- Bytes of a part of a block in a peer's hands, as a command obtains them: already fetched, on their way, or asked for
now; a block that is not cached anywhere receives cause 0x6B (R60, R227). -/
def State.peerBytes (s : State) (g : BitVec 8) (e : Eng) (c : Cmd) (nd : Node) (gr : Group) (layer nlay off len : Nat) :
    BRes (List PByte) :=
  match c.blocks.find? fun b => b.1 == fetchKey layer off with
  | some b => .ok (clean b.2)
  | none =>
    if c.mismatch then bCause s { code := 0x6B }
    else if s.asking g e c.seq then bWait s
    else bWait (s.startFetch g e c.seq nd gr.pkg layer nlay off len)

end Sys2Proof.Machine
end

