-- ==== Sys2Proof/Machine/Salt.lean ====
section
/-! DEFINITION. The Saltern's operations on nodes: chain names (R215), prefix-node names (R227), opening, sealing and forking
(R236 to R238), leases and releases (R221, R222), path tables (R226), the rake (R229, R230), and the parts of a shootdown
that a range seal starts (R224, R225). -/

namespace Sys2Proof.Machine

/-! ## Names (R47, R215) -/

def nameBytes (n : BitVec 128) : List Byte := leBytes 16 n.toNat

/-- The first 128 bits of a digest as a NAME (R47). -/
def nameOf (digest : List Byte) : BitVec 128 := BitVec.ofNat 128 (leNat (digest.take 16))

/-- H(0) of a namespace. -/
def chainRoot (ns : Namespace) : BitVec 128 := nameOf (sha256 (leBytes 32 ns.salt.toNat ++ leBytes 4 ns.nsid.toNat))

/-- H(i) from H(i−1) and the 256 bytes of 64 token ids. -/
def chainNext (h : BitVec 128) (toks : List Byte) : BitVec 128 := nameOf (sha256 (nameBytes h ++ toks))

/-! ## Contexts and references (R214, R220, R222) -/

def Tile.ctxId (t : Tile) : BitVec 16 := t.ctx.getD 0

/-- The namespace an access names, when it is registered and the context's key is its own; else cause 0x61 (R214). -/
def State.needNs (s : State) (g : BitVec 8) (nsid : BitVec 32) : BRes Namespace :=
  match s.ns? nsid, s.ctx? (s.tile g).ctxId with
  | some ns, some x => if x.key = ns.key then .ok ns else bCause s { code := 0x61 }
  | _, _ => bCause s { code := 0x61 }

/-- A node named by its handle: out of range is cause 0x60, a poisoned record 0x6A; `none` when the handle is stale; a node that
is HARVESTING is waited for (R216, R219, R242). -/
def State.needNode (s : State) (h : BitVec 32) : BRes (Option Node) :=
  if s.hRange h then bCause s { code := 0x60 }
  else if s.recBad h then bCause s { code := 0x6A }
  else if s.hStale h then .ok none
  else if (s.node h).st = .harvesting then bWait s
  else .ok (some (s.node h))

/-- Room for one more entry in the context's list and one more reference on a node; else cause 0x67 (R220, R222). -/
def State.needRoom (s : State) (ctx : BitVec 16) (counts : List Nat) : BRes Unit :=
  let full := match s.ctx? ctx with
    | some x => decide (4096 ≤ x.refs.length)
    | none => false
  causeIf (full || counts.any fun n => decide (refMax ≤ n)) s 0x67

/-- Add an entry to the context's reference list (R222). -/
def State.addEntry (s : State) (ctx : BitVec 16) (h : BitVec 32) (interval : BitVec 16) (k : RefKind) : State :=
  s.modCtx ctx fun x =>
    { x with refs := { handle := h, interval := interval, behind := false, defer := false, kind := k } :: x.refs }

/-- The context has an entry for a node that carries BEHIND (R240). -/
def State.isBehind (s : State) (ctx : BitVec 16) (h : BitVec 32) : Bool :=
  match s.ctx? ctx with
  | some x => x.refs.any fun e => e.handle == h && e.behind
  | none => false

/-- The tier of a node: that of its local groups (R218). -/
def Node.tier (n : Node) : BitVec 2 := ((n.groups.find? fun g => g.tier != 3).map (·.tier)).getD 3

/-! ## Result records (R241) -/

/-- The 128 bits of a result record. -/
def resultBits (h : BitVec 32) (depth : BitVec 16) (probes remote status : Byte) : BitVec 128 :=
  h ++ depth ++ probes ++ remote ++ (0 : BitVec 56) ++ status

/-- A place for the 16 bytes of a result record, translated before the command has any effect. -/
structure ResultAt where
  va : W64
  pl : List (Nat × BitVec 128)

/-- Translate a result record's address (R241): misaligned it is ill-formed with the reason of its engine. -/
def State.resultAt (s : State) (g : BitVec 8) (e : Eng) (c : Cmd) (va : W64) (reason : Byte) : BRes (ResultAt × State) := do
  illIf (va.toNat % 16 != 0) s reason
  let x ← s.beatXl g e c.seq (Space.va.needs va.toNat 16 .write)
  .ok ({ va := va, pl := x.1 }, x.2)

def State.putResult (s : State) (g : BitVec 8) (r : ResultAt) (b : BitVec 128) : State :=
  s.engWrite g .va r.va.toNat (clean (leBytes 16 b.toNat)) r.pl

/-- A command's result record with a status that changes nothing else. -/
def State.putStatus (s : State) (g : BitVec 8) (r : ResultAt) (status : Byte) : State := s.putResult g r (resultBits 0 0 0 0 status)

/-! ## Prefix-node names (R227) -/

/-- Where a prefix-node name leads: node and handle, group, layer, offset in the layer; `skip` for a write that R240 discards. -/
structure NodePlace where
  h : BitVec 32
  nd : Node
  ns : Namespace
  gr : Group
  layer : Nat
  off : Nat
  skip : Bool

/-- The address of a place in its local extent. -/
def NodePlace.addr (p : NodePlace) : Nat := p.gr.addr + (p.layer - p.gr.layer0) * 2 ^ p.ns.log2lb + p.off

/-- The in-flight reference that a command holds on a node it resolves (R227): once per node. -/
def State.holdNode (s : State) (g : BitVec 8) (e : Eng) (c : Cmd) (h : BitVec 32) : BRes (Cmd × State) :=
  if c.refs.contains h then .ok (c, s)
  else if refMax ≤ (s.node h).refcnt then bCause s { code := 0x67 }
  else
    let c := { c with refs := c.refs ++ [h] }
    .ok (c, (s.incRef h).putCmd g e c)

/-- Resolve a prefix-node name (R227). -/
def State.resolve (s : State) (g : BitVec 8) (e : Eng) (c : Cmd) (nsid : BitVec 32) (pt : W64) (p layer : Nat) (write : Bool) :
    BRes (NodePlace × Cmd × State) := do
  let ctx := (s.tile g).ctxId
  let i := p / 64
  let va := pt + BitVec.ofNat 64 (8 * i)
  let r ← s.beatRead g e c .va va.toNat 8
  let s := r.2
  let v := pNat r.1
  causeIf v.2 s 0x6A
  let w := BitVec.ofNat 64 v.1
  let h : BitVec 32 := w.extractLsb' 0 32
  match ← s.needNode h with
  | none => bCause s { code := 0x60 }
  | some nd =>
    causeIf (nd.nsid != nsid) s 0x61
    let ns ← s.needNs g nsid
    causeIf ((w.extractLsb' 48 16).toNat != i + 1 || nd.depth.toNat != i + 1 || w.extractLsb' 32 16 != 0) s 0x65
    causeIf (decide (ns.nlayer ≤ layer)) s 0x63
    let behind := write && nd.st == .sealed && s.isBehind ctx h
    causeIf (write && !behind && (nd.st != .open_ || nd.owner != ctx)) s 0x62
    match nd.groupAt layer with
    | none => bCause s { code := 0x63 }
    | some gr => do
      let x ← s.holdNode g e c h
      .ok ({ h := h, nd := nd, ns := ns, gr := gr, layer := layer, off := p % 64 * (2 ^ ns.log2lb / 64), skip := behind }, x.1, x.2)

/-- Read `n` bytes from a resolved place, `d` bytes on. -/
def State.readNode (s : State) (g : BitVec 8) (e : Eng) (c : Cmd) (p : NodePlace) (d n : Nat) : BRes (List PByte) :=
  if p.gr.tier = 3 then s.peerBytes g e c p.nd p.gr p.layer 1 (p.off + d) n
  else .ok (s.frameRead p.ns p.gr.tier (p.addr + d) n)

/-- Write bytes at a resolved place, `d` bytes on. -/
def State.writeNode (s : State) (g : BitVec 8) (p : NodePlace) (d : Nat) (bs : List PByte) : State :=
  if p.skip then s else s.frameWrite (s.tile g).ctxId p.ns p.gr.tier (p.addr + d) bs

/-! ## Opening and forking (R233, R236, R238) -/

/-- Zero a node's local frames. -/
def State.zeroFrames (s : State) (ctx : BitVec 16) (ns : Namespace) (gs : List Group) : State :=
  gs.foldl (fun s gr =>
    (List.range (gr.nlay * 2 ^ ns.log2lb / 64)).foldl (fun s i =>
      s.frameWrite ctx ns gr.tier (gr.addr + 64 * i) (clean (List.replicate 64 0))) s) s

/-- Frames of a new node in a local tier of an issuing die (R233): `none` where it has no room or no such tier. -/
def State.allocTier (s : State) (ns : Namespace) (die : BitVec 2) (tier : BitVec 2) : Option (List Group × State) :=
  if tier = 3 || (tier = 2 && !decide (ns.cxlport.toNat < 4)) then none
  else s.allocGroups tier (poolOf tier die (ns.cxlport.setWidth 2)) ns.nlayer ns.log2lb

/-- Try a tier, then each higher local tier (R233). -/
def State.allocUp (s : State) (ns : Namespace) (die : BitVec 2) (tier : BitVec 2) : Option (List Group × State) :=
  ([0, 1, 2].filter fun k => tier.toNat ≤ k).findSome? fun k => s.allocTier ns die (BitVec.ofNat 2 k)

/-- An OPEN node in new frames (R219, R236): its handle and the state; the parent counts it. -/
def State.openNode (s : State) (g : BitVec 8) (ns : Namespace) (parent : BitVec 32) (depth : BitVec 16) (gs : List Group)
    (h : BitVec 32) (iv : BitVec 16) (k : RefKind) : State :=
  let ctx := (s.tile g).ctxId
  let tick := s.tickcnt.setWidth 48
  let n : Node := { Node.reset with
    parent := parent, nsid := ns.nsid, depth := depth, owner := ctx, lease := tick, touch := tick, refcnt := 1
    gen := hGen h, prio := ns.priodef, st := .open_, groups := gs, interval := iv }
  let s := (s.takeRecord h).setNode h n
  let s := if parent = 0 then s else s.modNode parent fun p => { p with refcnt := p.refcnt + 1 }
  (s.zeroFrames ctx ns gs).addEntry ctx h iv k

/-- KVOPEN (R236). -/
def State.kvOpen (s : State) (g : BitVec 8) (c : Cmd) : BRes State := do
  let t := s.tile g
  let r ← s.resultAt g .salt c c.a 0x08
  let s := r.2
  let ns ← s.needNs g (c.c.extractLsb' 32 32)
  let parent : BitVec 32 := c.b.extractLsb' 0 32
  if ns.closing then .ok (s.putStatus g r.1 0x05)
  else
    let up ← if parent = 0 then (.ok (some Node.reset) : BRes (Option Node)) else s.needNode parent
    match up with
    | none => .ok (s.putStatus g r.1 0x04)
    | some p => do
      causeIf (parent != 0 && p.nsid != ns.nsid) s 0x61
      causeIf (parent != 0 && (p.st != .sealed || p.depth == 65535)) s 0x64
      s.needRoom t.ctxId [p.refcnt]
      match s.allocUp ns (dieOf g) (c.imm.extractLsb' 0 2), s.findRecord (dieOf g) with
      | some (gs, s1), some h =>
        .ok ((s1.openNode g ns parent (p.depth + 1) gs h c.interval .owner).putResult g r.1 (resultBits h (p.depth + 1) 0 0 0x00))
      | _, _ => .ok (s.putStatus g r.1 0x01)

/-- Copy positions 0 to `n` − 1 of every layer from one node's frames to another's (R238). -/
def State.copyPositions (s : State) (ctx : BitVec 16) (ns : Namespace) (src dst : Node) (n : Nat) : State :=
  let lb := 2 ^ ns.log2lb
  (List.range ns.nlayer).foldl (fun s l =>
    match src.groupAt l, dst.groupAt l with
    | some a, some b =>
      (List.range n).foldl (fun s k =>
        let o := k * (lb / 64)
        s.frameWrite ctx ns b.tier (b.addr + (l - b.layer0) * lb + o)
          (s.frameRead ns a.tier (a.addr + (l - a.layer0) * lb + o) (lb / 64))) s
    | _, _ => s) s

/-- KVFORK (R238). -/
def State.kvFork (s : State) (g : BitVec 8) (c : Cmd) : BRes State := do
  let ctx := (s.tile g).ctxId
  let r ← s.resultAt g .salt c c.a 0x08
  let s := r.2
  illIf (decide (64 < c.c.toNat)) s 0x08
  let h : BitVec 32 := c.b.extractLsb' 0 32
  match ← s.needNode h with
  | none => .ok (s.putStatus g r.1 0x04)
  | some n => do
    let ns ← s.needNs g n.nsid
    if n.st = .sealed then do
      s.needRoom ctx [n.refcnt]
      .ok (((s.incRef h).addEntry ctx h c.interval .fork).putResult g r.1 (resultBits h n.depth 0 0 0x00))
    else do
      causeIf (n.owner != ctx) s 0x62
      let pc := if n.parent = 0 then 0 else (s.node n.parent).refcnt
      s.needRoom ctx [pc]
      match s.allocTier ns (dieOf g) n.tier, s.findRecord (dieOf g) with
      | some (gs, s1), some k =>
        let s := s1.openNode g ns n.parent n.depth gs k c.interval .fork
        let s := s.copyPositions ctx ns n (s.node k) c.c.toNat
        .ok (s.putResult g r.1 (resultBits k n.depth 0 0 0x00))
      | _, _ => .ok (s.putStatus g r.1 0x01)

/-! ## Sealing (R219, R237) -/

/-- The entry that `KVOPEN` or `KVFORK` made for a brine (R222). -/
def RefEntry.opens (e : RefEntry) : Bool := e.kind == .owner || e.kind == .fork

/-- The owner's reference of a brine moves to an indexed node, and the brine becomes FREE (R219). -/
def State.sealDuplicate (s : State) (ctx : BitVec 16) (h k : BitVec 32) : State :=
  let s := (s.incRef k).modCtx ctx fun x =>
    { x with refs := updIf x.refs (fun e => e.handle == h && e.opens) fun e => { e with handle := k } }
  s.freeNode chainFuel h

/-- KVSEAL (R237). -/
def State.kvSeal (s : State) (g : BitVec 8) (c : Cmd) : BRes State := do
  let ctx := (s.tile g).ctxId
  let r ← s.resultAt g .salt c c.a 0x08
  let s := r.2
  illIf (c.c.toNat % 64 != 0) s 0x08
  let h : BitVec 32 := c.b.extractLsb' 0 32
  match ← s.needNode h with
  | none => .ok (s.putStatus g r.1 0x04)
  | some n => do
    let ns ← s.needNs g n.nsid
    if n.st == .sealed && s.isBehind ctx h then .ok (s.putResult g r.1 (resultBits h n.depth 0 0 0x00))
    else do
      causeIf (n.st != .open_ || n.owner != ctx) s 0x64
      let x ← s.beatRead g .salt c .va c.c.toNat 256
      let s := x.2
      causeIf (x.1.any (·.2)) s 0x2B
      causeIf (n.parent != 0 && s.recBad n.parent) s 0x6A
      let toks := x.1.map (·.1)
      let name := chainNext (if n.parent = 0 then chainRoot ns else (s.node n.parent).name) toks
      causeIf (s.bucketBad (dieOf g) name) s 0x6A
      match s.probe n.nsid name with
      | some k => do
        match ← s.needNode k with
        | none => bWait s
        | some m => do
          causeIf (decide (refMax ≤ m.refcnt)) s 0x67
          .ok ((s.sealDuplicate ctx h k).putResult g r.1 (resultBits k m.depth 0 0 0x02))
      | none =>
        if s.bucketFull name then .ok (s.putStatus g r.1 0x03)
        else
          let tell := ns.shared && s.dirEn
          let m := { n with
            name := name, owner := 0, st := .sealed, ann := tell, sealer := ctx, sealIv := c.interval
            tokens := (pieces 4 64 toks).map fun b => BitVec.ofNat 32 (leNat b) }
          let s := (s.setNode h m).indexAdd n.nsid name h
          let s := if tell then s.tellHome 3 n.nsid name n.depth n.tier else s
          .ok (s.putResult g r.1 (resultBits h n.depth 0 0 0x00))

/-! ## Leases and releases (R221, R222) -/

/-- KVLEASE (R221). -/
def State.kvLease (s : State) (g : BitVec 8) (c : Cmd) : BRes State := do
  let ctx := (s.tile g).ctxId
  let r ← s.resultAt g .salt c c.a 0x08
  let s := r.2
  illIf (c.c.toNat == 0 || decide (2 ^ 32 ≤ c.c.toNat)) s 0x08
  let h : BitVec 32 := c.b.extractLsb' 0 32
  match ← s.needNode h with
  | none => .ok (s.putStatus g r.1 0x04)
  | some n => do
    let _ ← s.needNs g n.nsid
    s.needRoom ctx [n.refcnt]
    let upto : BitVec 48 := (s.tickcnt + c.c).setWidth 48
    let p : BitVec 3 := c.imm.extractLsb' 0 3
    let s := (s.incRef h).modNode h fun n =>
      { n with lease := if n.lease.toNat < upto.toNat then upto else n.lease, prio := if n.prio.toNat < p.toNat then p else n.prio }
    .ok ((s.addEntry ctx h c.interval .lease).putResult g r.1 (resultBits h n.depth 0 0 0x00))

/-- The context's most recent entry for a handle that no earlier release has deferred is marked or removed. -/
def releaseEntry (defer : Bool) (h : BitVec 32) : List RefEntry → List RefEntry
  | [] => []
  | e :: r =>
    if e.handle = h && !e.defer then (if defer then { e with defer := true } :: r else r)
    else e :: releaseEntry defer h r

/-- KVRELEASE (R214, R222): a handle that the context does not hold receives cause 0x66, stale or not; the namespace is judged first. -/
def State.kvRelease (s : State) (g : BitVec 8) (c : Cmd) : BRes State := do
  let ctx := (s.tile g).ctxId
  let r ← s.resultAt g .salt c c.a 0x08
  let s := r.2
  let h : BitVec 32 := c.b.extractLsb' 0 32
  let held := match s.ctx? ctx with
    | none => false
    | some x => x.refs.any fun e => e.handle == h && !e.defer
  match ← s.needNode h with
  | none => if held then .ok (s.putStatus g r.1 0x04) else bCause s { code := 0x66 }
  | some n => do
    let _ ← s.needNs g n.nsid
    causeIf (!held) s 0x66
    let defer := match s.ctx? ctx with
      | none => false
      | some x => x.ckInterval != 0
    let s := s.modCtx ctx fun x => { x with refs := releaseEntry defer h x.refs }
    let s := if defer then s else s.decRef h
    .ok (s.putResult g r.1 (resultBits h n.depth 0 0 0x00))

/-! ## Path tables and names (R226, R448) -/

/-- The handles of a chain from a node down to depth 1, deepest first. -/
def State.chainUp (s : State) : (fuel : Nat) → BitVec 32 → List (BitVec 32)
  | 0, _ => []
  | k + 1, h => if h = 0 then [] else h :: s.chainUp k (s.node h).parent

/-- PXPATH (R226). -/
def State.pxPath (s : State) (g : BitVec 8) (c : Cmd) : BRes State := do
  let r ← s.resultAt g .salt c c.b 0x08
  let s := r.2
  let h : BitVec 32 := c.c.extractLsb' 0 32
  match ← s.needNode h with
  | none => .ok (s.putStatus g r.1 0x04)
  | some n => do
    let _ ← s.needNs g n.nsid
    let hs := (s.chainUp n.depth.toNat h).reverse
    causeIf (hs.any s.recBad) s 0x6A
    let bs := (hs.mapIdx fun i (k : BitVec 32) => leBytes 8 ((BitVec.ofNat 16 (i + 1) ++ (0 : BitVec 16) ++ k).toNat)).flatten
    let s ← s.beatWrite g .salt c .va c.a.toNat (clean bs)
    .ok (s.putResult g r.1 (resultBits h n.depth 0 0 0x00))

/-- The names H(i), H(i+1), … from H(i−1) and token blocks. -/
def chainNames : BitVec 128 → List (List Byte) → List (BitVec 128)
  | _, [] => []
  | h, b :: r => chainNext h b :: chainNames (chainNext h b) r

/-- PXHASH (R448). -/
def State.pxHash (s : State) (g : BitVec 8) (c : Cmd) : BRes State := do
  let n := (c.c.extractLsb' 0 16).toNat
  illIf (c.a.toNat % 64 != 0 || c.b.toNat % 64 != 0 || n == 0 || decide (4096 < n)) s 0x08
  let ns ← s.needNs g (c.c.extractLsb' 32 32)
  let x ← s.beatRead g .salt c .va c.b.toNat (256 * n)
  causeIf (x.1.any (·.2)) x.2 0x2B
  let toks := pieces 256 n (x.1.map (·.1))
  if c.imm.getLsbD 0 then do
    let y ← x.2.beatRead g .salt c .va (c.a - 16).toNat 16
    causeIf (y.1.any (·.2)) y.2 0x2B
    y.2.beatWrite g .salt c .va c.a.toNat
      (clean ((chainNames (BitVec.ofNat 128 (pNat y.1).1) toks).flatMap nameBytes))
  else x.2.beatWrite g .salt c .va c.a.toNat (clean ((chainNames (chainRoot ns) toks).flatMap nameBytes))

/-! ## The rake (R229, R230) -/

/-- What a search has come to, kept in its command between events: the depth and handle it holds, probes, adoptions, the
upper bound of a restart, and the depth whose reference it waits for. -/
structure Search where
  d : Nat
  h : BitVec 32
  probes : Nat
  remote : Nat
  hi : Nat
  wait : Nat

def Search.bits (x : Search) : BitVec 512 :=
  (BitVec.ofNat 16 x.d ++ x.h ++ BitVec.ofNat 8 x.probes ++ BitVec.ofNat 8 x.remote ++ BitVec.ofNat 16 x.hi ++ BitVec.ofNat 16 x.wait).setWidth 512

def Cmd.search (c : Cmd) : Search where
  d := (c.blk0.extractLsb' 80 16).toNat
  h := c.blk0.extractLsb' 48 32
  probes := (c.blk0.extractLsb' 40 8).toNat
  remote := (c.blk0.extractLsb' 32 8).toNat
  hi := (c.blk0.extractLsb' 16 16).toNat
  wait := (c.blk0.extractLsb' 0 16).toNat

/-- The binary search of R229: from `lo` and `hi`, the depth found and the probes made; `none` where a probe reads a poisoned bucket. -/
def rakeGo (present : Nat → Option Bool) : (fuel lo hi probes : Nat) → Option (Nat × Nat)
  | 0, lo, _, p => some (lo, p)
  | k + 1, lo, hi, p =>
    if lo < hi then
      let mid := (lo + hi + 1) / 2
      match present mid with
      | none => none
      | some true => rakeGo present k mid hi (p + 1)
      | some false => rakeGo present k lo (mid - 1) (p + 1)
    else some (lo, p)

/-- The names of a search's array. -/
def namesOf (bs : List PByte) : List (BitVec 128) := (pieces 16 4096 (bs.map (·.1))).map fun b => BitVec.ofNat 128 (leNat b)

/-- PXMATCH before and after its search (R229, R230, R447): it checks its operands and enters the rake; when the search is
over it writes its result. `true` when it is done. -/
def State.pxMatch (s : State) (g : BitVec 8) (c : Cmd) : BRes (State × Bool) := do
  let n := (c.c.extractLsb' 0 16).toNat
  illIf (c.a.toNat % 64 != 0 || n == 0 || decide (4096 < n)) s 0x08
  let r ← s.resultAt g .salt c c.b 0x08
  let s := r.2
  let ns ← s.needNs g (c.c.extractLsb' 32 32)
  match c.prog with
  | 0 =>
    if ns.closing then .ok (s.putStatus g r.1 0x05, true)
    else
      let d := dieOf g
      let x := s.die d
      .ok ((s.setDie d { x with rake := x.rake ++ [{ tile := g, seq := c.seq }] }).putCmd g .salt
        { c with prog := 1, blk0 := Search.bits { d := 0, h := 0, probes := 0, remote := 0, hi := n, wait := 0 } }, false)
  | 1 => bWait s
  | 2 => bWait s
  | 4 => .ok (s.putStatus g r.1 0x05, true)
  | _ =>
    let x := c.search
    .ok (s.putResult g r.1
      (resultBits x.h (BitVec.ofNat 16 x.d) (BitVec.ofNat 8 x.probes) (BitVec.ofNat 8 x.remote) 0x00), true)

/-- The rake reference of a search moves to the node at depth `d` (R229, R230). -/
def State.rakeRef (s : State) (g : BitVec 8) (c : Cmd) (old new : BitVec 32) : State :=
  let ctx := (s.tile g).ctxId
  let s := s.incRef new
  if old = 0 then s.addEntry ctx new c.interval .rake
  else
    (s.modCtx ctx fun x =>
      { x with refs := match x.refs.findIdx? fun e => e.handle == old && e.kind == .rake with
          | some i => x.refs.modify i fun e => { e with handle := new }
          | none => x.refs }).decRef old

/-- A die's rake adopts node `j` of a chain under a parent (R230): `none` where no record is free, or the bucket is full or poisoned. -/
def State.adopt (s : State) (die : BitVec 2) (ns : Namespace) (name : BitVec 128) (j : Nat) (parent : BitVec 32) (pkg : BitVec 12)
    (iv : BitVec 16) : Option (BitVec 32 × State) :=
  if s.bucketFull name || s.bucketBad die name then none
  else match s.findRecord (name.extractLsb' 0 2) with
    | none => none
    | some h =>
      let n : Node := { Node.reset with
        name := name, parent := parent, nsid := ns.nsid, depth := BitVec.ofNat 16 j, gen := hGen h, prio := ns.priodef
        st := .sealed, groups := [{ pkg := pkg, tier := 3, layer0 := 0, nlay := ns.nlayer, addr := 0 }]
        interval := iv }
      let s := (s.takeRecord h).setNode h n
      let s := if parent = 0 then s else s.modNode parent fun p => { p with refcnt := p.refcnt + 1 }
      some (h, s.indexAdd ns.nsid name h)

/-- A search's remote steps (R230) for depths from `d + 1` up: at most `left` more; a LOOKUP to another package leaves the search
waiting for its answer. -/
def State.rakeRemote (g : BitVec 8) (c : Cmd) (ns : Namespace) (names : List (BitVec 128)) :
    (left : Nat) → Search → State → State
  | 0, x, s => s.putCmd g .salt { c with prog := 3, blk0 := x.bits }
  | k + 1, x, s =>
    let j := x.d + 1
    let fin := s.putCmd g .salt { c with prog := 3, blk0 := x.bits }
    match names[x.d]? with
    | none => fin
    | some name =>
      if !s.dirEn then fin
      else match s.homePkg name with
        | none => fin
        | some home =>
          if home = s.pkgid then
            match s.dirLookup ns.nsid name none with
            | some (depth, hd :: _) =>
              if depth.toNat = j then
                match s.adopt (dieOf g) ns name j x.h hd.pkg c.interval with
                | some (h, s) =>
                  State.rakeRemote g c ns names k { x with d := j, h := h, remote := x.remote + 1 } (s.rakeRef g c x.h h)
                | none => fin
              else fin
            | _ => fin
          else
            let t := s.newTag
            let m := { mkDir 1 ns.nsid name with tag := t.1 }
            let r : DirReq := { tag := t.1, op := 1, nsid := ns.nsid, name := name, msg := m, holder := none, retried := false
                                tile := g, eng := .salt, seq := c.seq, port := none, sentAt := 0, space := 0 }
            match t.2.ask home m r [] [] with
            | none => fin
            | some s => s.putCmd g .salt { c with prog := 2, blk0 := x.bits }

/-- Remote steps that a search may still make (R230). -/
def remoteLeft (c : Cmd) (ns : Namespace) (n : Nat) (x : Search) : Nat :=
  if ns.shared then Nat.min (n - x.d) ((c.imm.extractLsb' 0 5).toNat - x.remote) else 0

/-- One run of a search in the rake (R229): it waits while a node whose reference it needs is HARVESTING, and a node that has become FREE
restarts the search below it. A search that the closing of its namespace meets before it holds a reference ends CLOSING (R213). -/
def State.rakeRun (s : State) (g : BitVec 8) (c : Cmd) : BRes State := do
  let ctx := (s.tile g).ctxId
  let n := (c.c.extractLsb' 0 16).toNat
  let ns ← s.needNs g (c.c.extractLsb' 32 32)
  let x := c.search
  if ns.closing && x.h = 0 then .ok (s.putCmd g .salt { c with prog := 4 })
  else do
    let r ← s.beatRead g .salt c .va c.a.toNat (16 * n)
    let s := r.2
    causeIf (r.1.any (·.2)) s 0x2B
    let names := namesOf r.1
    let present (k : Nat) : Option Bool := match names[k - 1]? with
      | some nm => if s.bucketBad (dieOf g) nm then none else some (s.probe ns.nsid nm).isSome
      | none => some false
    if x.h != 0 then .ok (State.rakeRemote g c ns names (remoteLeft c ns n x) x s)
    else do
      let gone := x.wait != 0 && present x.wait != some true
      let hi := if gone then x.wait - 1 else x.hi
      match (if x.wait != 0 && !gone then some (x.wait, x.probes) else rakeGo present 16 0 hi x.probes) with
      | none => bCause s { code := 0x6A }
      | some f =>
        let x := { x with d := f.1, probes := f.2, hi := hi, wait := 0 }
        if x.d = 0 then .ok (State.rakeRemote g c ns names (remoteLeft c ns n x) x s)
        else match names[x.d - 1]?.bind (s.probe ns.nsid) with
          | none => bWait s
          | some h =>
            let nd := s.node h
            if nd.st = .harvesting then bWait (s.putCmd g .salt { c with blk0 := Search.bits { x with wait := x.d } })
            else do
              causeIf (s.recBad h) s 0x6A
              s.needRoom ctx [nd.refcnt]
              let s := s.rakeRef g c 0 h
              let x := { x with h := h }
              .ok (State.rakeRemote g c ns names (remoteLeft c ns n x) x s)

end Sys2Proof.Machine
end

