-- ==== Sys2Proof/Machine/Directory.lean ====
section
/-! DEFINITION. The crystal directory's messages as they are received (R49 to R52), what a home, a holder and a requester do with them
(R53 to R58, R60, R61), and the replication unit (R59). -/

namespace Sys2Proof.Machine

/-! ## Messages in the receive buffers (R26, R49, R50) -/

/-- The valid payload bytes of a flit (R26). -/
def Flit.payload (f : Flit) : List Byte := ((leBytes 248 f.toNat).drop 16).take (f.extractLsb' 88 8).toNat

/-- A header's rsvd bits (R26). -/
def Flit.rsvd (f : Flit) : BitVec 24 := f.extractLsb' 0 24

/-- The directory message whose head a flit carries (R49). DESIGN CHOICE (log entry 52): bits [14:12] of EXCL, to which R49 gives no name,
count as rsvd bits. -/
def dirMsgOf (f : Flit) : DirMsg :=
  let b : BitVec 384 := f.extractLsb' 128 384
  let slot (i : Nat) : BitVec 16 := b.extractLsb' (16 + 16 * i) 16
  { op := b.extractLsb' 376 8, status := b.extractLsb' 368 8, tag := b.extractLsb' 352 16, nsid := b.extractLsb' 320 32
    name := b.extractLsb' 192 128, depth := b.extractLsb' 176 16, layer0 := b.extractLsb' 160 16, nlayer := b.extractLsb' 144 16
    offset := b.extractLsb' 112 32, length := b.extractLsb' 80 32
    holders := [holderOf (slot 0), holderOf (slot 1), holderOf (slot 2), holderOf (slot 3)]
    excl := if b.getLsbD 15 then some (b.extractLsb' 0 12) else none
    rsvdBad := Flit.rsvd f != 0 || (b.extractLsb' 12 3 != 0) || (List.range 4).any fun i => (slot i).getLsbD 12 }

/-- A message that R52 discards: a reserved OP or STATUS, or a nonzero rsvd bit. -/
def DirMsg.bad (m : DirMsg) : Bool := m.op == 0 || decide (8 < m.op.toNat) || decide (9 < m.status.toNat) || m.rsvdBad

/-- The flits of the message that a list of one channel's flits begins with, when its last flit is there (R50). -/
def messageFlits : List Flit → Option (List Flit)
  | [] => none
  | f :: r =>
    if Flit.kind f = 0x04 then some [f]
    else match r.findIdx? fun x => Flit.kind x == 0x03 with
      | some i => some (f :: r.take (i + 1))
      | none => none

/-- A buffer without the first `n` flits of a channel. -/
def dropVc (v : BitVec 2) : (n : Nat) → List Flit → List Flit
  | 0, l => l
  | _, [] => []
  | n + 1, f :: r => if Flit.vc f = v then dropVc v n r else f :: dropVc v (n + 1) r

/-- A single-flit message's buffer entry is freed and becomes a credit owed (R63); those of a longer message were freed as it arrived. -/
def State.freeEntry (s : State) (pn : BitVec 4) (v : BitVec 2) (n : Nat) : State :=
  let p := s.port pn
  if n = 1 then s.setPort pn { p with occ := vset p.occ v (vget p.occ 0 v - 1), owed := vset p.owed v (vget p.owed 0 v + 1) } else s

/-- A message leaves a port's buffer for its unit; a request that is answered keeps its entry until the answer has left (R62). -/
def State.takeMsg (s : State) (pn : BitVec 4) (v : BitVec 2) (n : Nat) : State :=
  let p := s.port pn
  s.setPort pn { p with rxbuf := dropVc v n p.rxbuf }

/-- A message is consumed. -/
def State.consume (s : State) (pn : BitVec 4) (v : BitVec 2) (n : Nat) : State := (s.takeMsg pn v n).freeEntry pn v n

/-- A message with some head and body that stands first on its channel at some port: port, sender, channel, flits, and whether a flit of its
body carries a rsvd bit. -/
def State.findMsg (s : State) (src : Option (BitVec 12)) (m : DirMsg) (body : List Byte) : Option (BitVec 4 × BitVec 12 × BitVec 2 × Nat × Bool) :=
  (List.range 64).findSome? fun i =>
    let pn := BitVec.ofNat 4 (i / 4)
    let v := BitVec.ofNat 2 i
    match messageFlits ((s.port pn).rxbuf.filter fun (f : Flit) => Flit.vc f == v) with
    | some (f :: r) =>
      if Flit.dst f == s.pkgid && (src == none || src == some (Flit.src f)) && dirMsgOf f == m && r.flatMap Flit.payload == body
      then some (pn, Flit.src f, v, r.length + 1, r.any fun x => Flit.rsvd x != 0) else none
    | _ => none

/-- A directory message reaches its unit: one that R52 discards leaves an error record, whose SEV 3 is a DESIGN CHOICE (log entry 52); one whose
unit holds it (R62) stays. A request keeps its buffer entry, which its answer frees. -/
def State.onMessage (s : State) (op : Byte) (src : Option (BitVec 12)) (m : DirMsg) (body : List Byte)
    (f : BitVec 12 → Option (BitVec 4) → State → Option State) : State :=
  match s.findMsg src m body with
  | none => s
  | some (pn, who, v, n, bad) =>
    if DirMsg.bad m || bad then (s.consume pn v n).raiseErr { srcId := pn.setWidth 16, srcKind := 7, sev := 3 }
    else if m.op != op then s
    else
      let keep := m.op == 0x01 || m.op == 0x05
      ((f who (if keep then some pn else none) (if keep then s.takeMsg pn v n else s.consume pn v n)).map fun s => s.pump pn).getD s

/-- Send an answer that keeps a node's reference and its request's entry until it has left; `none` while its port has no credit for it
(R62). An unreachable requester fails back (R29). -/
def State.answerTo (s : State) (dst : BitVec 12) (m : DirMsg) (data : List Byte) (node : Option (BitVec 32)) (src : Option (BitVec 4)) :
    Option State :=
  let vc := dirVc m.op
  match s.routeTo dst (dirFlow m) with
  | none => some ((s.letGo { vc := vc, left := 0, node := node, src := src }).emit (.failed dst 0x08))
  | some pn =>
    let p := s.port pn
    if vget p.cred 0 vc = 0 || p.txq.any (fun (f : Flit) => Flit.vc f == vc) then none
    else
      let hold : AnswerHold := { vc := vc, left := 1 + (chunks232 (data.length + 1) data).length, node := node, src := src }
      (s.setPort pn { p with holds := p.holds ++ [hold] }).sendDir dst m [] data

/-- The head of an answer: OP, STATUS, and the request's TAG, NSID and NAME (R50). -/
def answerHead (op status : Byte) (m : DirMsg) : DirMsg := { mkDir op m.nsid m.name with status := status, tag := m.tag }

/-! ## At the home (R54 to R56) -/

/-- LOOKUP (R55, R56). -/
def execLookup (src : BitVec 12) (m : DirMsg) (s : State) : Host.Outcome State Fault Refusal :=
  event (fun s => s.onMessage 0x01 (some src) m [] fun who pn s =>
    s.answerTo who (match s.dirLookup m.nsid m.name m.excl with
      | some (d, hs) => { answerHead 0x02 0x00 m with depth := d, holders := hs }
      | none => answerHead 0x02 0x01 m) [] none pn) s

/-- ANNOUNCE (R54, R55): ignored while directory traffic is disabled. -/
def execAnnounce (src : BitVec 12) (m : DirMsg) (s : State) : Host.Outcome State Fault Refusal :=
  event (fun s => s.onMessage 0x03 (some src) m [] fun _ _ s =>
    match m.holders.head? with
    | some h => some (if s.dirEn && h.valid then s.dirAnnounce m.nsid m.name m.depth h else s)
    | none => some s) s

/-- WITHDRAW (R53, R54, R55). -/
def execWithdraw (src : BitVec 12) (m : DirMsg) (s : State) : Host.Outcome State Fault Refusal :=
  event (fun s => s.onMessage 0x04 (some src) m [] fun _ _ s =>
    match m.holders.head? with
    | some h => some (if s.dirEn && h.valid then s.dirWithdraw m.nsid m.name m.depth h.pkg else s)
    | none => some s) s

/-! ## At a holder (R57, R58) -/

/-- FETCH (R57): the in-flight reference ends when the tail flit has left. DESIGN CHOICE (log entry 52): an answer other than OK carries OFFSET
and LENGTH zero. -/
def execFetch (src : BitVec 12) (m : DirMsg) (s : State) : Host.Outcome State Fault Refusal :=
  event (fun s => s.onMessage 0x05 (some src) m [] fun who pn s =>
    let a := s.answerFetch m
    let head := answerHead 0x06 a.1 m
    let s := match a.2.2 with
      | some h => s.incRef h
      | none => s
    s.answerTo who (if a.1 = 0 then { head with offset := m.offset, length := m.length } else head) a.2.1 a.2.2 pn) s

/-- A replicated block becomes a SEALED node with no reference (R58, R219). -/
def State.placeBlock (s : State) (ns : Namespace) (m : DirMsg) (parent h : BitVec 32) (gs : List Group) (toks : List (BitVec 32))
    (data : List Byte) : State :=
  let tell := ns.shared && s.dirEn
  let tier := ((gs.head?).map (·.tier)).getD 0
  let n : Node := { Node.reset with
    name := m.name, parent := parent, nsid := m.nsid, depth := m.depth, gen := hGen h, prio := ns.priodef, st := .sealed, ann := tell
    groups := gs, tokens := toks }
  let s := (s.takeRecord h).setNode h n
  let s := if parent = 0 then s else s.modNode parent fun p => { p with refcnt := p.refcnt + 1 }
  let lb := 2 ^ ns.log2lb
  let s := gs.foldl (fun s gr =>
    s.frameWrite 0 ns gr.tier gr.addr (clean ((data.drop (gr.layer0 * lb)).take (gr.nlay * lb)))) s
  let s := s.indexAdd m.nsid m.name h
  let s := if tell then s.tellHome 3 m.nsid m.name m.depth tier else s
  s.closingRemoval h

/-- What a target does with a REPLICATE (R58): its status; `none` while a node it meets is HARVESTING. DESIGN CHOICE (log entry 52): a block that is
not whole gets BADRANGE once it is known that the target does not hold it; tier 0 and 1 frames go to die NAME[1:0], as its record does (R216). -/
def State.takeBlock (s : State) (m : DirMsg) (parent : BitVec 128) (toks : List (BitVec 32)) (data : List Byte) : Option (Byte × State) :=
  let up := s.probe m.nsid parent
  let harvesting (h : Option (BitVec 32)) : Bool := match h with | some h => (s.node h).st == .harvesting | none => false
  match s.ns? m.nsid with
  | none => some (0x03, s)
  | some ns =>
    if m.depth != 1 && up.isNone then some (0x05, s)
    else if m.depth != 1 && harvesting up then none
    else if chainNext parent (toks.flatMap fun t => leBytes 4 t.toNat) != m.name then some (0x04, s)
    else if harvesting (s.probe m.nsid m.name) then none
    else if (s.probe m.nsid m.name).isSome then some (0x00, s)
    else if m.layer0 != 0 || m.nlayer.toNat != ns.nlayer || m.length.toNat != ns.nlayer * 2 ^ ns.log2lb || data.length != m.length.toNat then
      some (0x06, s)
    else if s.bucketFull m.name then some (0x02, s)
    else
      let die := m.name.extractLsb' 0 2
      match s.allocTier ns die ((m.holders.head?.map (·.tier)).getD 0), s.findRecord die with
      | some (gs, s), some h => some (0x00, s.placeBlock ns m (if m.depth = 1 then 0 else up.getD 0) h gs toks data)
      | _, _ => some (0x02, s)

/-- REPLICATE (R58). -/
def execReplicate (src : BitVec 12) (m : DirMsg) (parent : BitVec 128) (toks : List (BitVec 32)) (data : List Byte) (s : State) :
    Host.Outcome State Fault Refusal :=
  event (fun s => s.onMessage 0x07 (some src) m (nameBytes parent ++ (toks.flatMap fun t => leBytes 4 t.toNat) ++ data) fun who pn s =>
    (s.takeBlock m parent toks data).bind fun a => a.2.answerTo who (answerHead 0x08 a.1 m) [] none pn) s

/-! ## At a requester (R60, R61, R230) -/

/-- The outstanding request that bears a tag, and the requests without it: an answer to a released tag is discarded (R61). -/
def State.takeReq (s : State) (tag : BitVec 16) (op : Byte) : Option (DirReq × State) :=
  (s.dirReqs.find? fun r => r.tag == tag && r.op == op).map fun r =>
    (r, { s with dirReqs := s.dirReqs.filter fun x => x.tag != tag })

/-- A search's LOOKUP is answered other than HIT with the depth it asked for: the search is over (R230). -/
def State.searchStops (s : State) (r : DirReq) : State := s.modCmd r.tile .salt r.seq fun c => { c with prog := 3 }

/-- A search adopts the node it asked for and enters its rake again to go on (R230). -/
def State.searchGoesOn (s : State) (r : DirReq) (c : Cmd) (ns : Namespace) (pkg : BitVec 12) : State :=
  let x := c.search
  match s.adopt (dieOf r.tile) ns r.name (x.d + 1) x.h pkg c.interval with
  | none => s.searchStops r
  | some (h, s) =>
    let s := s.rakeRef r.tile c x.h h
    let s := s.modCmd r.tile .salt r.seq fun c =>
      { c with prog := 1, blk0 := Search.bits { x with d := x.d + 1, h := h, remote := x.remote + 1 } }
    let d := dieOf r.tile
    s.setDie d { s.die d with rake := { tile := r.tile, seq := r.seq } :: (s.die d).rake }

/-- The answer to a LOOKUP: the holders it lists, none for a MISS (R56, R60, R230). -/
def State.lookupAnswered (s : State) (r : DirReq) (depth : BitVec 16) (hs : List Holder) : State :=
  if r.msg.op = 0x05 then
    match hs with
    | h :: _ => s.sendFetchAgain r h.pkg
    | [] => s.fetchEnd r none
  else
    match hs, s.cmdOf r.tile .salt r.seq, s.ns? r.nsid with
    | h :: _, some c, some ns => if depth.toNat = c.search.d + 1 then s.searchGoesOn r c ns h.pkg else s.searchStops r
    | _, _, _ => s.searchStops r

/-- LOOKUP_R (R60, R230). -/
def execLookupR (m : DirMsg) (s : State) : Host.Outcome State Fault Refusal :=
  event (fun s => s.onMessage 0x02 none m [] fun _ _ s =>
    some (match s.takeReq m.tag 0x01 with
      | none => s
      | some (r, s) => s.lookupAnswered r m.depth (if m.status = 0 then m.holders.filter (·.valid) else []))) s

/-- FETCH_R (R60): after a MISS another holder is asked for, once. -/
def execFetchR (m : DirMsg) (data : List Byte) (s : State) : Host.Outcome State Fault Refusal :=
  event (fun s => s.onMessage 0x06 none m data fun _ _ s =>
    some (match s.takeReq m.tag 0x05 with
      | none => s
      | some (r, s) =>
        if m.status = 0x00 && m.length == r.msg.length && data.length == m.length.toNat then s.fetchEnd r (some data)
        else if m.status = 0x01 || m.status = 0x07 || m.status = 0x09 then s.fetchFailed r
        else s.fetchEnd r none)) s

/-! ## The replication unit (R59) -/

/-- A run of the replication unit ends. -/
def State.replDone (s : State) (code : Byte) : State :=
  { s with repl := { s.repl with go := false, code := code, todo := [], inflight := none } }

/-- The REPLICATE of a node; DESIGN CHOICE (log entry 52): HOLDERS slot 0 is valid and names package 0 beside the target tier: head, the two flits of its parent's name and its tokens, its data (R50, R59). -/
def replicateMsg (n : Node) (tier : BitVec 2) (ns : Namespace) (tag : BitVec 16) : DirMsg :=
  { mkDir 0x07 n.nsid n.name with
    tag := tag, depth := n.depth, nlayer := BitVec.ofNat 16 ns.nlayer, length := BitVec.ofNat 32 (ns.nlayer * 2 ^ ns.log2lb)
    holders := [{ valid := true, tier := tier, pkg := 0 }] }

/-- The next node of the list is sent; a run whose list is empty is done (R59). A node that has become stale or is not SEALED ends it with
CODE 3; so does a poisoned record or token block (DESIGN CHOICE, log entry 52). -/
def State.replNext (s : State) : State :=
  match s.repl.todo with
  | [] => s.replDone 0
  | h :: rest =>
    let n := s.node h
    match s.ns? n.nsid with
    | none => s.replDone 4
    | some ns =>
      if s.hStale h || n.st != .sealed || s.recBad h || s.tokBad h then s.replDone 3
      else match s.blockBytes ns n 0 0 (ns.nlayer * 2 ^ ns.log2lb) with
      | none => s.replDone 5
      | some bs =>
        let t := s.newTag
        let m := replicateMsg n s.repl.tier ns t.1
        let side := nameBytes (if n.parent = 0 then chainRoot ns else (s.node n.parent).name) ++ n.tokens.flatMap fun x => leBytes 4 x.toNat
        let r : DirReq := { tag := t.1, op := 0x07, nsid := n.nsid, name := n.name, msg := m, holder := some s.repl.target, retried := false
                            tile := 0, eng := .copy, seq := 0, port := none, sentAt := 0, space := 0 }
        match (t.2.incRef h).ask s.repl.target m r [side.take 232, side.drop 232] (bs.map (·.1)) with
        | none => { s.replDone 6 with repl := { (s.replDone 6).repl with last := 0x08 } }
        | some s => { s with repl := { s.repl with todo := rest, inflight := some h } }

/-- A REPLICATE is answered, or has failed locally, with a status (R59): its reference goes; the run goes on after OK. -/
def State.replAnswered (s : State) (status : Byte) : State :=
  match s.repl.inflight with
  | none => s
  | some h =>
    let s := (s.decRef h)
    let s := { s with repl := { s.repl with inflight := none, last := status } }
    if status = 0 then ({ s with repl := { s.repl with count := s.repl.count + 1 } }).replNext else s.replDone 6

/-- REPLICATION_RUN (R59): the unit reads the descriptor at REPL_DESC and sends the first node of its list. -/
def execReplicationRun (s : State) : Host.Outcome State Fault Refusal :=
  event (fun s =>
    if !s.repl.go || s.repl.inflight.isSome then s
    else
    let s := { s with repl := { s.repl with count := 0 } }
    match s.devRead 0 s.repl.desc 32 with
      | none => s.replDone 2
      | some bs =>
        let v := pNat bs
        let d : BitVec 256 := BitVec.ofNat 256 v.1
        let h : BitVec 32 := d.extractLsb' 224 32
        let n := s.node h
        let nsid : BitVec 32 := d.extractLsb' 192 32
        let pkg : BitVec 12 := d.extractLsb' 180 12
        if v.2 || d.extractLsb' 0 177 != 0 || d.extractLsb' 178 2 == 3 || pkg == s.pkgid then s.replDone 2
        else if s.hRange h || s.hStale h || n.st != .sealed then s.replDone 3
        else if !((s.ns? nsid).map (·.shared)).getD false then s.replDone 4
        else if n.nsid != nsid then s.replDone 2
        else
          let todo := if d.getLsbD 177 then (s.chainUp n.depth.toNat h).reverse else [h]
          ({ s with repl := { s.repl with todo := todo, target := pkg, tier := d.extractLsb' 178 2 } }).replNext) s

/-- REPLICATE_R (R59). -/
def execReplicateR (m : DirMsg) (s : State) : Host.Outcome State Fault Refusal :=
  event (fun s => s.onMessage 0x08 none m [] fun _ _ s =>
    some (match s.takeReq m.tag 0x07 with
      | none => s
      | some (_, s) => s.replAnswered m.status)) s

/-! ## Requests that fail locally (R28, R60, R61) -/

/-- An outstanding request fails with a local status: LINKDOWN or TIMEOUT. -/
def State.askFailed (s : State) (r : DirReq) (status : Byte) : State :=
  if r.op = 0x07 then s.replAnswered status
  else if r.op = 0x05 then s.fetchFailed r
  else s.lookupAnswered r 0 []

/-- DIRECTORY_REQUEST_TIMEOUT (R61): 1,300,000 cy after its send a request without an answer ends; its tag and space are released. -/
def execDirectoryRequestTimeout (tag : BitVec 16) (s : State) : Host.Outcome State Fault Refusal :=
  event (fun s =>
    match s.dirReqs.find? fun r => r.tag == tag with
    | none => s
    | some r => if s.cy < r.sentAt + 1300000 then s else State.askFailed { s with dirReqs := s.dirReqs.filter fun x => x.tag != tag } r 0x09) s

end Sys2Proof.Machine
end

