-- ==== Sys2Proof/Machine/Fetch.lean ====
section
/-! DEFINITION. Fetching: the word a stream is about to issue from its instruction memory (R167), locked blocks
(R169), breakpoint slots (R477), the word of a queue program, the operand log (R313), and how a word is placed
where the next step fetches it. -/

namespace Sys2Proof.Machine

/-! ## Instruction memory (R167 to R169) -/

/-- The word at an index of a stream's instruction memory. -/
def State.imemWord (s : State) (g : BitVec 8) (st : Stream) (pc : Pc) : W32 :=
  BitVec.ofNat 32 (s.rdNat (imemBase g.toNat st + 4 * pc.toNat) 4)

/-- Write one word of a stream's instruction memory. -/
def State.setImemWord (s : State) (g : BitVec 8) (st : Stream) (pc : Pc) (w : W32) : State :=
  s.wrBytes (imemBase g.toNat st + 4 * pc.toNat) (leBytes 4 w.toNat) false

/-- Destination offset and length of an overlay command, or of a copy, as registers `b` and `c` give them (R168, R438). -/
def Cmd.locks (c : Cmd) (st : Stream) (byte : Nat) : Bool :=
  (match c.op, st with
    | .ovla, .a => true
    | .ovlx, .x => true
    | _, _ => false) && c.b.toNat / 256 * 256 ≤ byte && byte < c.b.toNat + c.c.toNat

/-- A word lies in a block that an incomplete overlay load targets (R169). -/
def Tile.locked (t : Tile) (st : Stream) (pc : Pc) : Bool :=
  (t.ecopy.waiting ++ t.ecopy.running).any fun c => c.locks st (4 * pc.toNat)

/-! ## Breakpoint slots (R473, R477) -/

/-- The patch word of a slot: `BRK 0x3F8 + j` (R473). -/
def patchWord (j : Nat) : W32 := encS 0x2D 0 0 (BitVec.ofNat 10 (0x3F8 + j)) 3

/-- The VALID slot of a stream whose word is at the PC and whose patch word stands there. -/
def Tile.brkAt (t : Tile) (st : Stream) (w : W32) : Option (Nat × BrkSlot) :=
  (List.range 8).findSome? fun j =>
    let b := vget t.brk BrkSlot.reset (BitVec.ofNat 3 j)
    if b.valid && b.stream == st && b.word == t.pc st && w == patchWord j then some (j, b) else none

/-- What a stream meets at its PC before it checks a word (R169, R477). -/
inductive Fetched where
  | word (w0 w1 : W32) (displaced : Bool)
  | locked
  | halt (slot : Nat)
  | brk (slot : Nat)
  deriving DecidableEq, Repr

/-- A word that a stream would issue waits for its word 1, which lies in a locked block (R169, R324): every major from 0x30 to 0x3E has one. -/
def Tile.waitsWord1 (t : Tile) (st : Stream) (w : W32) : Bool :=
  let op := (fld w 26 6).toNat
  0x30 ≤ op && op ≤ 0x3E && t.locked st (t.pc st + 1)

/-- Fetch for a stream. -/
def State.fetch (s : State) (g : BitVec 8) (st : Stream) : Fetched :=
  let t := s.tile g
  let pc := t.pc st
  let w := s.imemWord g st pc
  let w1 := s.imemWord g st (pc + 1)
  if t.locked st pc then .locked
  else match t.brkAt st w with
    | none => if t.waitsWord1 st w then .locked else .word w w1 false
    | some (j, b) =>
      if (t.csr st).skip then (if t.waitsWord1 st b.disp then .locked else .word b.disp w1 true)
      else if b.halt then .halt j
      else .brk j

/-- The word at a stream's PC, decoded. -/
def State.nextInstr (s : State) (g : BitVec 8) (st : Stream) : Option Instr :=
  match s.fetch g st with
  | .word w0 w1 _ => match decodeIssue w0 w1 st ((s.tile g).ctx == some 0) with
    | .ok i => some i
    | .error _ => none
  | _ => none

/-- The queue operation that a word names: a queue between the streams, or `qb`. -/
inductive QueueOp where
  | push (q : BitVec 4) | pop (q : BitVec 4) | pushB | popB
  deriving DecidableEq, Repr

def queueOp : Instr → Option QueueOp
  | .qfill _ q _ _ | .qpushv _ q | .qpushx _ q => some (.push q)
  | .qstore _ q _ _ | .qpopa _ q | .qpopv _ q | .qpopx _ q => some (.pop q)
  | .qbpush _ => some .pushB
  | .bqs _ | .bqc _ => some .popB
  | _ => none

/-- A stream is stalled on a queue operation that only the other stream can satisfy. -/
def State.queueStalled (s : State) (g : BitVec 8) (st : Stream) : Bool :=
  let t := s.tile g
  !t.stepped st && match (s.nextInstr g st).bind queueOp with
    | some (.push q) => 16 ≤ (t.queue q).length
    | some (.pop q) => (t.queue q).isEmpty
    | some .pushB => 64 ≤ t.qb.length
    | some .popB => t.qb.isEmpty
    | none => false

/-- SKIP clears when the displaced word issues, or a word issues outside the handler (R477): a `TRET` issues inside it. -/
def Tile.clearSkip (t : Tile) (st : Stream) (displaced inHandler : Bool) : Tile :=
  if displaced || !inHandler then t.setCsr st { t.csr st with skip := false } else t

/-! ## Counter wraps (R456) -/

/-- The stream that is charged with a counter's wraps (R455). -/
def Tile.wrapStream (t : Tile) (j : BitVec 3) : Stream := if (vget t.pmsel 0 j).getLsbD 9 then .x else .a

/-- At the end of a cycle of a stream that is outside its handler and raised no other cause, the oldest wrap that it is charged with
raises cause 0x71. -/
def State.deliverWrap (s : State) (g : BitVec 8) (st : Stream) : State :=
  let t := s.tile g
  if !t.live || (t.csr st).tin then s
  else match t.pmwrap.find? fun j => t.wrapStream j == st with
    | none => s
    | some j => (s.setTile g { t with pmwrap := t.pmwrap.erase j }).takeCause g st { code := 0x71 }

/-! ## The operand log (R313) -/

/-- A scalar register as a stream names it. -/
def sReg (st : Stream) (r : R5) : RegName :=
  match st with
  | .a => .a r
  | .x => .x r

/-- The names of a group from a vector register on. -/
def vRegs (b : V6) (n : Nat) : List RegName := (List.range n).map fun k => .v (b + BitVec.ofNat 6 k)

/-- The registers with parity that an instruction reads and writes (R313); a destination that may keep elements is read too (R381). -/
def regsOf (st : Stream) (i : Instr) : LogEntry :=
  let r3 (d s t : R5) : LogEntry := { reads := [sReg st s, sReg st t], writes := [sReg st d] }
  let r2 (d s : R5) : LogEntry := { reads := [sReg st s], writes := [sReg st d] }
  let rr (l : List R5) : LogEntry := { reads := l.map (sReg st), writes := [] }
  let rd (l : List R5) : LogEntry := { reads := [], writes := l.map (sReg st) }
  let kept (m : K4) (d : V6) (n : Nat) : List RegName := if m = 0 then [] else vRegs d n
  let vm (m : K4) (d : V6) (l : List V6) : LogEntry := { reads := l.map .v ++ kept m d 1, writes := [.v d] }
  let vw (d : V6) (l : List V6) : LogEntry := { reads := l.map .v, writes := [.v d] }
  match i with
  | .add d s t | .sub d s t | .and d s t | .or d s t | .xor d s t | .shl d s t | .shr d s t | .sra d s t
  | .mul d s t | .mulh d s t | .mulhu d s t | .div d s t | .divu d s t | .rem d s t | .remu d s t | .min d s t
  | .max d s t | .minu d s t | .maxu d s t | .seq d s t | .slt d s t | .sltu d s t => r3 d s t
  | .clz d s | .ctz d s | .popc d s => r2 d s
  | .sel d s t c => { reads := [sReg st s, sReg st t, sReg st c], writes := [sReg st d] }
  | .addi d s _ | .andi d s _ | .ori d s _ | .xori d s _ | .shli d s _ | .shri d s _ | .srai d s _ => r2 d s
  | .movk d _ _ => r2 d d
  | .cmpEq _ s t | .cmpNe _ s t | .cmpLt _ s t | .cmpGe _ s t | .cmpLtu _ s t | .cmpGeu _ s t => rr [s, t]
  | .fput _ s | .jmpr s _ | .mcfgwr s | .csrwr s _ | .csrset s _ | .csrclr s _ | .pchks s | .capture s | .brkx s => rr [s]
  | .sqpush _ => rr [8, 9, 10, 11, 12, 13, 14, 15]
  | .enq _ s => rr [s, 8, 9, 10, 11, 12, 13, 14, 15]
  | .beq s t _ | .bne s t _ | .blt s t _ | .bge s t _ | .bltu s t _ | .bgeu s t _ => rr [s, t]
  | .callr l s _ | .restore l s => r2 l s
  | .call d _ | .fget d _ | .tktest d _ | .tkcnt d _ | .qpopa d _ | .mcfgrd d | .csrrd d _ | .xmovk d _ | .qpopx d _ => rd [d]
  | .ldb d b _ _ | .ldh d b _ _ | .ldw d b _ _ | .ldd d b _ _ | .ldbs d b _ _ | .ldhs d b _ _ | .ldws d b _ _ => r2 d b
  | .stb s b _ _ | .sth s b _ _ | .stw s b _ _ | .std s b _ _ => rr [s, b]
  | .acas d a t _ _ _ => { reads := [sReg st a, sReg st t, sReg st d], writes := [sReg st d] }
  | .aswap d a t _ _ _ | .aadd d a t _ _ _ | .aand d a t _ _ _ | .aor d a t _ _ _
  | .axor d a t _ _ _ | .amin d a t _ _ _ | .amax d a t _ _ _ | .aminu d a t _ _ _ | .amaxu d a t _ _ _ => r3 d a t
  | .qfill b _ _ _ | .qstore b _ _ _ => rr [b]
  | .vadd _ d a b m | .vsub _ d a b m | .vmul _ d a b m | .vmin _ d a b m | .vmax _ d a b m | .vand _ d a b m
  | .vor _ d a b m | .vxor _ d a b m | .vdiv _ d a b m | .vshl _ d a b m | .vshr _ d a b m | .vadds _ d a b m
  | .vsubs _ d a b m => vm m d [a, b]
  | .vmac _ d a b m => vm m d [d, a, b]
  | .vsqrt _ d a m | .vrsum _ d a m | .vrmin _ d a m | .vrmax _ d a m | .vmov d a m => vm m d [a]
  | .vrsumc _ d a m => vm m d [d, a]
  | .vperm _ d a b => vw d [a, b]
  | .vcompress _ d a _ | .vexpand _ d a _ => vw d [a]
  | .vcvt t s d a b =>
    let n := cvtGroup t s
    let wide := decide (s.bits < t.bits)
    { reads := vRegs a (if wide then 1 else n) ++ (if cvtScaled t s && b != 0 then [.v b] else []), writes := vRegs d (if wide then n else 1) }
  | .vcmpeq _ _ a b _ | .vcmplt _ _ a b _ | .vcmple _ _ a b _ => { reads := [.v a, .v b], writes := [] }
  | .vfma d a b c _ => vw d [a, b, c]
  | .vbcstx _ d x => { reads := [.x x], writes := [.v d] }
  | .vbcste _ d a x => { reads := [.v a, .x x], writes := [.v d] }
  | .kmovx _ x | .qpushx x _ => rr [x]
  | .vld d x n m _ | .vldc d x n m _ => { reads := .x x :: kept m d (n.toNat + 1), writes := vRegs d (n.toNat + 1) }
  | .vst d x n _ _ | .vstc d x n _ _ => { reads := .x x :: vRegs d (n.toNat + 1), writes := [] }
  | .qpopv v _ | .zrd v _ _ | .rcpset v _ | .rcpdrop v => vw v []
  | .qpushv v _ | .pchkv v | .zwr v _ _ _ => { reads := [.v v], writes := [] }
  | .copy _ a b c .. | .copyn _ a b c .. | .ovla _ a b c | .ovlx _ a b c | .tgather _ a b c .. | .kvgather _ a b c ..
  | .tscatter _ a b c .. | .mmas _ _ a b c .. | .collred _ a b c | .collgath _ a b c | .collbcast _ a b c | .colla2a _ a b c
  | .pxhash _ a b c _ | .pxmatch _ a b c _ | .pxpath _ a b c | .kvopen _ a b c _
  | .kvseal _ a b c | .kvfork _ a b c | .kvlease _ a b c _ => rr [a, b, c]
  | .collsend _ a b | .collrecv _ a b | .copyl _ a b _ | .mma _ _ a b .. | .kvrelease _ a b | .rseal _ a b _ | .runseal _ a b _ => rr [a, b]
  | .mwld _ a | .mepi _ _ a .. => rr [a]
  | _ => { reads := [], writes := [] }

/-- Note an issued instruction in its stream's operand log: the last 32, newest first. -/
def Tile.noteRegs (t : Tile) (st : Stream) (e : LogEntry) : Tile :=
  match st with
  | .a => { t with alogOps := (e :: t.alogOps).take 32 }
  | .x => { t with xlogOps := (e :: t.xlogOps).take 32 }

/-! ## Queue programs (R79 to R84) -/

/-- The next word of the program that a unit's packet runs (R67). -/
def Interp.word (u : Interp) : Option W32 := u.prog.bind fun p => p.words[u.pc]?

/-! ## Placing a word where the next step fetches it -/

/-- Tile 0 runs in class 7, in firmware context 0 if it has none, and the next step is its stream's; the words stand at the PC. -/
def State.placeStream (s : State) (st : Stream) (w0 w1 : W32) : State :=
  let t := s.tile 0
  let t := { t with ctx := some (t.ctx.getD 0), ist := .running, sclass := 7, stop := none, capturing := none, astep := false
                    xstep := false }
  let s := s.setTile 0 t
  let pc := t.pc st
  let s := s.setImemWord 0 st pc w0
  let s := if wordsOf w0 = 2 then s.setImemWord 0 st (pc + 1) w1 else s
  { s with agenda := [.stream 0 st] }

/-- Interpreter unit 0 holds a packet of queue 0 whose one-word program is about to run, with the four windows of a
packet buffer, scratch, device memory and host memory. -/
def State.placeProgram (s : State) (w : W32) : State :=
  let slot : Byte := if (s.queue 0).prog = 0 then 1 else (s.queue 0).prog
  let s := s.modQueue 0 fun q => { q with prog := slot }
  let win (k : BitVec 2) (n : Nat) : Window := { base := 0, log2size := n, kind := k, wr := true, rd := true }
  let p : Program := { words := [w], windows := [win 0 13, win 1 8, win 2 24, win 3 24] }
  let u : Interp := { Interp.reset with packet := some { id := 0, queue := 0, count := 0, len := 1, words := List.replicate 8 0 }, prog := p, running := true }
  { s with progs := Tab.set s.progs slot.toNat p, interps := vset s.interps (0 : BitVec 4) u, agenda := [.interp 0] }

/-- Place an instruction's words for the next step: a stream's word for the A-stream where it may issue there, else for the X-stream; a
queue-program word where the stream's map defines none. -/
def State.place (s : State) (w0 w1 : W32) : State :=
  match decodeStream w0 w1 with
  | .ok _ => s.placeStream (if streamMay w0 .a then .a else .x) w0 w1
  | .error _ =>
    match decodeQ w0 with
    | .ok _ => s.placeProgram w0
    | .error _ => s.placeStream (if streamMay w0 .a then .a else .x) w0 w1

end Sys2Proof.Machine
end

