-- ==== Sys2Proof/Machine/Copy.lean ====
section
/-! DEFINITION. The copy and gather engines (R436 to R441): `COPY`, `COPYL`, `COPYN`, overlay loads, and gathers and
scatters over tensors (R207 to R211) and prefix nodes. -/

namespace Sys2Proof.Machine

/-! ## COPY (R436) -/

/-- A side of a command that runs past its level is ill-formed with reason 0x01 (R431, R432). -/
def levelIll (s : State) (sp : Space) (addr n : Nat) : BRes Unit := illIf (sp != .va && decide (sp.size < addr + n)) s 0x01

def Cmd.fill (c : Cmd) : Bool := c.imm.getLsbD 6
def Cmd.ssp (c : Cmd) : Space := Space.of (c.imm.extractLsb' 3 3)
def Cmd.dsp (c : Cmd) : Space := Space.of (c.imm.extractLsb' 0 3)

/-- The address of line `i` of a range as its tile's context maps it. -/
def State.vaLine (s : State) (g : BitVec 8) (va : Nat) : Option Nat :=
  match s.xlateNow ((s.tile g).ctx.getD 0) (BitVec.ofNat 64 va) .read with
  | .ok pa l => some (lineNo l pa)
  | _ => none

/-- A destination line of a `COPY` is also one of its source lines (R436): by address in one space, or, in virtual
memory, by a page that maps to the same frame. -/
def State.copyOverlap (s : State) (g : BitVec 8) (c : Cmd) (line : Nat) : Bool :=
  if c.fill || c.ssp != c.dsp then false
  else
    let src := c.b.toNat
    let n := c.c.toNat
    (decide (src ≤ line) && decide (line < src + n)) ||
      (c.ssp == .va && match s.vaLine g line with
        | none => false
        | some p => (List.range ((src + n - 1) / 65536 + 1 - src / 65536)).any fun i =>
            let page := (src / 65536 + i) * 65536
            let va := page + line % 65536
            decide (src ≤ va) && decide (va < src + n) && s.vaLine g va == some p)

/-- The checks of a `COPY` on its operands (R436). -/
def copyCheck (s : State) (c : Cmd) : BRes Unit := do
  let n := c.c.toNat
  illIf (c.a.toNat % 64 != 0 || (!c.fill && c.b.toNat % 64 != 0) || n % 64 != 0) s 0x02
  illIf (n == 0 || decide (2 ^ 32 < n)) s 0x03
  levelIll s c.dsp c.a.toNat n
  if c.fill then .ok () else levelIll s c.ssp c.b.toNat n

/-- Beat `k` of a `COPY`: both sides translated before either is performed; lines that are also source lines keep
their bytes until the command ends. -/
def State.copyBeat (s : State) (g : BitVec 8) (c : Cmd) (k : Nat) : BRes State := do
  let off := 128 * k
  let n := Nat.min 128 (c.c.toNat - off)
  let src := c.b.toNat + off
  let dst := c.a.toNat + off
  let rd := if c.fill then [] else c.ssp.needs src n .read
  let x ← s.beatXl g .copy c.seq (rd ++ c.dsp.needs dst n .write)
  let s := x.2
  let ps := x.1.take rd.length
  let pd := x.1.drop rd.length
  s.engSealed g c.dsp dst n
  let s ← s.beatGo g c (Nat.max (if c.fill then 0 else c.ssp.entries .copy src n) (c.dsp.entries .copy dst n)) ps
  let r := if c.fill then (clean ((List.range n).map fun i => c.b.extractLsb' (8 * (i % 8)) 8), s) else s.engRead g c.ssp src n ps
  let s := r.2
  .ok ((linePieces dst n).mapIdx (fun i p => (i, p)) |>.foldl (fun s x =>
    if s.copyOverlap g c x.2.1 then s
    else s.engWrite g c.dsp x.2.1 ((r.1.drop (x.2.1 - dst)).take x.2.2) ((pd.drop x.1).take 1)) s)

/-- The lines of a `COPY` that are both source and destination hold undefined bytes at its end (R436). -/
def State.copyUndefined (s : State) (g : BitVec 8) (c : Cmd) : State :=
  ((linesOf c.a.toNat c.c.toNat).filter fun l => s.copyOverlap g c (64 * l)).foldl (fun s l =>
    let f := s.free 512
    match c.dsp with
    | .va => match f.2.xlateNow ((s.tile g).ctx.getD 0) (BitVec.ofNat 64 (64 * l)) .write with
      | .ok pa leaf => f.2.engWrite g .va (64 * l) (clean (lineBytes f.1)) [(pa, leaf)]
      | _ => f.2
    | sp => f.2.engWrite g sp (64 * l) (clean (lineBytes f.1)) []) s

/-! ## Overlay loads (R168, R439) -/

/-- The stream whose memory an overlay load writes. -/
def CmdOp.ovlStream (o : CmdOp) : Stream := if o = .ovlx then .x else .a

/-- R168 and the alignment of R439. -/
def ovlIll (c : Cmd) : Bool :=
  c.a.toNat % 256 != 0 || c.b.toNat % 256 != 0 || c.c.toNat % 256 != 0 || c.c.toNat == 0 || decide (65536 < c.c.toNat)
    || decide (65536 < c.b.toNat + c.c.toNat)

/-- Words `lo` to `lo + n − 1` of a stream's instruction memory have been loaded: a breakpoint slot on one of them becomes invalid
(R476), and an entry overlay that a touched block belongs to is no longer resident (R127). -/
def State.noteLoad (s : State) (g : BitVec 8) (st : Stream) (lo n : Nat) : State :=
  let hit (b : BrkSlot) : Bool := b.valid && b.stream == st && decide (lo ≤ b.word.toNat) && decide (b.word.toNat < lo + n)
  let kept (r : Option (Nat × BitVec 3)) : Option (Nat × BitVec 3) := r.bind fun e =>
    match (s.launch? e.1).bind fun l => l.stages[e.2.toNat]? with
    | some d => if lo < 64 * (match st with | .a => d.asize | .x => d.xsize) then none else some e
    | none => none
  s.modTile g fun t =>
    { t with
      brk := t.brk.map fun b => if hit b then { b with valid := false } else b
      resA := if st = .a then kept t.resA else t.resA
      resX := if st = .x then kept t.resX else t.resX }

/-- Beat `k` of an overlay load: a poisoned source line raises cause 0x31 before any word is written. -/
def State.ovlBeat (s : State) (g : BitVec 8) (c : Cmd) (k : Nat) : BRes State := do
  let x ← s.beatRead g .copy c .va (c.a.toNat + 128 * k) 128
  if x.1.any (·.2) then bCause x.2 { code := 0x31, tval := c.a + BitVec.ofNat 64 (128 * k), aKind := 2 }
  else
    let lo := c.b.toNat + 128 * k
    .ok ((x.2.wrBytes (imemBase g.toNat c.op.ovlStream + lo) (x.1.map (·.1)) false).noteLoad g c.op.ovlStream (lo / 4) 32)

/-! ## COPYN (R438) -/

/-- Bytes of a token in a layer, layers, tokens, and the address side's space of a `COPYN`. -/
def Cmd.nLayers (c : Cmd) : Nat := (c.imm.extractLsb' 10 7).toNat + 1
def Cmd.nTokens (c : Cmd) : Nat := (c.imm.extractLsb' 4 6).toNat + 1
def Cmd.toNode (c : Cmd) : Bool := c.imm.getLsbD 3
def tokBytes (ns : Namespace) : Nat := 2 ^ ns.log2lb / 64

/-- The pieces of beat `k` of a `COPYN`: bytes of the address side from an offset, all of one token. -/
def copynPieces (tb : Nat) (k total : Nat) : List (Nat × Nat) :=
  let lo := 128 * k
  let hi := Nat.min (lo + 128) total
  if tb < 128 then (if lo + tb < hi then [(lo, tb), (lo + tb, hi - lo - tb)] else [(lo, hi - lo)]) else [(lo, hi - lo)]

/-- The frames of the pieces of a beat, in order (R438): the command may take references. -/
def State.copynPlaces (g : BitVec 8) (tb : Nat) : List (Nat × Nat) → Cmd → State → BRes (List (NodePlace × Nat × Nat) × Cmd × State)
  | [], c, s => .ok ([], c, s)
  | p :: r, c, s => do
    let tok := p.1 / tb
    let layer := (c.c.extractLsb' 54 10).toNat + tok / c.nTokens
    let pos := (c.c.extractLsb' 32 22).toNat + tok % c.nTokens
    let x ← s.resolve g .copy c (c.c.extractLsb' 0 32) c.b pos layer c.toNode
    let y ← State.copynPlaces g tb r x.2.1 x.2.2
    .ok ((x.1, p.1 % tb, p.2) :: y.1, y.2)

/-- The bytes of the pieces of a beat, read from their frames. -/
def State.copynRead (s : State) (g : BitVec 8) (c : Cmd) : List (NodePlace × Nat × Nat) → BRes (List PByte)
  | [] => .ok []
  | (p, d, n) :: r => do
    let v ← s.readNode g .copy c p d n
    let w ← s.copynRead g c r
    .ok (v ++ w)

/-- Bytes written at the frames of the pieces of a beat. -/
def State.copynWrite (g : BitVec 8) : List (NodePlace × Nat × Nat) → List PByte → State → State
  | [], _, s => s
  | (p, d, n) :: r, bs, s => State.copynWrite g r (bs.drop n) (s.writeNode g p d (bs.take n))

/-- Beat `k` of a `COPYN` (R438): every piece is resolved and both sides are translated before anything is performed (R197, R202). -/
def State.copynGo (g : BitVec 8) (ns : Namespace) (k : Nat) (c : Cmd) (s : State) : BRes (Cmd × State) := do
  let tb := tokBytes ns
  let total := c.nLayers * c.nTokens * tb
  let lo := 128 * k
  let n := Nat.min (lo + 128) total - lo
  let addr := c.a.toNat + lo
  if c.toNode then do
    let x ← s.beatXl g .copy c.seq (c.dsp.needs addr n .read)
    let p ← State.copynPlaces g tb (copynPieces tb k total) c x.2
    let s ← p.2.2.beatGo g p.2.1 2 x.1
    let v := s.engRead g c.dsp addr n x.1
    .ok (p.2.1, State.copynWrite g p.1 v.1 v.2)
  else do
    let p ← State.copynPlaces g tb (copynPieces tb k total) c s
    let v ← p.2.2.copynRead g p.2.1 p.1
    let s ← p.2.2.beatWrite g .copy p.2.1 c.dsp addr v
    .ok (p.2.1, s)

/-! ## COPYL (R437) -/

/-- The parts of at most 1 MiB in which a group is fetched (R57): layer, layers, offset, bytes. -/
def fetchParts (lb : Nat) (gr : Group) : List (Nat × Nat × Nat × Nat) :=
  let total := gr.nlay * lb
  (List.range ((total + 1048575) / 1048576)).map fun i => (gr.layer0, gr.nlay, 1048576 * i, Nat.min 1048576 (total - 1048576 * i))

/-- Every part of a list of groups, fetched from the peers (R437 step 2). -/
def State.fetchAll (s : State) (g : BitVec 8) (c : Cmd) (nd : Node) : List (Group × Nat × Nat × Nat × Nat) → BRes (List PByte)
  | [] => .ok []
  | (gr, la, nl, off, len) :: r => do
    let b ← s.peerBytes g .copy c nd gr la nl off len
    let q ← s.fetchAll g c nd r
    .ok (b ++ q)

/-- Extents for the layers of tier 3 groups, one group after another (R233). -/
def State.allocAll (ns : Namespace) (die tier : BitVec 2) : List Group → State → Option (List Group × State)
  | [], s => some ([], s)
  | gr :: r, s =>
    match s.allocTier { ns with nlayer := gr.nlay } die tier with
    | none => none
    | some (gs, s) =>
      (State.allocAll ns die tier r s).map fun x =>
        (gs.map (fun (q : Group) => { q with layer0 := q.layer0 + gr.layer0 }) ++ x.1, x.2)

/-- Groups in ascending layers. -/
def insGroup : List Group → Group → List Group
  | [], x => [x]
  | y :: r, x => if x.layer0 < y.layer0 then x :: y :: r else y :: insGroup r x

/-- COPYL: `true` when it is done. -/
def State.copyL (s : State) (g : BitVec 8) (c : Cmd) : BRes (State × Bool) := do
  let r ← s.resultAt g .copy c c.b 0x02
  let s := r.2
  let h : BitVec 32 := c.a.extractLsb' 0 32
  match ← s.needNode h with
  | none => .ok (s.putStatus g r.1 0x04, true)
  | some nd => do
    let ns ← s.needNs g nd.nsid
    let far := nd.groups.filter fun q => q.tier == 3
    let ok : BitVec 128 := resultBits h nd.depth 0 0 0x00
    if nd.st = .open_ || far.isEmpty then .ok (s.putResult g r.1 ok, true)
    else if c.prog = 0 then do
      causeIf (decide (refMax ≤ nd.refcnt)) s 0x67
      let tier := if nd.tier = 3 then c.imm.extractLsb' 0 2 else nd.tier
      let no : BRes (State × Bool) := .ok (s.putResult g r.1 (resultBits h nd.depth 0 0 0x01), true)
      match State.allocAll ns (dieOf g) tier far s with
      | none => no
      | some (gs, s1) =>
        if 12 < (nd.groups.length - far.length) + gs.length then no
        else do
          let x ← s1.holdNode g .copy c h
          .ok (x.2.putCmd g .copy { x.1 with prog := 1, ext := gs }, false)
    else do
      let bs ← s.fetchAll g c nd (far.flatMap fun gr => (fetchParts (2 ^ ns.log2lb) gr).map fun p => (gr, p))
      let lb := 2 ^ ns.log2lb
      let s := (c.ext.foldl (fun (x : State × List PByte) gr =>
        (x.1.frameWrite (s.tile g).ctxId ns gr.tier gr.addr (x.2.take (gr.nlay * lb)), x.2.drop (gr.nlay * lb))) (s, bs)).1
      let s := s.modNode h fun n => { n with groups := c.ext.foldl insGroup (n.groups.filter fun q => q.tier != 3) }
      .ok ((s.putCmd g .copy { c with ext := [], blocks := [] }).putResult g r.1 ok, true)

/-! ## Tensors (R207 to R211) -/

/-- A tensor descriptor (R207). -/
structure Tns where
  ttbl : W64
  dim : List Nat
  tl : List Nat
  order : List Nat
  ty : BitVec 4
  rank : Nat
  oob : Bool
  valid : Bool
  rsvd : Bool

def Tns.of (v : BitVec 512) : Tns where
  ttbl := v.extractLsb' 448 64
  dim := [0, 1, 2, 3].map fun i => (v.extractLsb' (320 + 32 * i) 32).toNat
  tl := [0, 1, 2, 3].map fun i => (v.extractLsb' (300 + 5 * i) 5).toNat
  order := [3, 2, 1, 0].map fun i => (v.extractLsb' (292 + 2 * i) 2).toNat
  ty := v.extractLsb' 288 4
  rank := (v.extractLsb' 285 3).toNat
  oob := v.getLsbD 284
  valid := v.getLsbD 283
  rsvd := v.extractLsb' 0 283 != 0

def Tns.bits (t : Tns) : Nat := (tyOfCode t.ty).bits
/-- Elements of one tile, and its bytes. -/
def Tns.tileElems (t : Tns) : Nat := 2 ^ (t.tl.foldl (· + ·) 0)
def Tns.tileBytes (t : Tns) : Nat := t.tileElems * t.bits / 8

/-- The descriptor breaks R208. -/
def Tns.bad (t : Tns) : Bool :=
  !t.valid || t.rsvd || t.rank == 0 || decide (4 < t.rank)
    || ((List.range 4).any fun i =>
      if i < t.rank then t.dim.getD i 0 == 0 else (t.dim.getD i 0 != 1 || t.tl.getD i 0 != 0))
    || !([0, 1, 2, 3].all fun i => t.order.contains i)
    || t.ty == 0xF || decide (65536 < t.tileBytes) || t.ttbl.toNat % 8 != 0

/-- Coordinates beyond RANK are 0 (R209). -/
def Tns.known (t : Tns) (c : List Nat) : List Nat := (List.range 4).map fun i => if i < t.rank then c.getD i 0 else 0

/-- Tile number and element index in the tile of coordinates (R209). -/
def Tns.place (t : Tns) (c : List Nat) : Nat × Nat :=
  let g (i : Nat) : Nat := (t.dim.getD i 0 + 2 ^ t.tl.getD i 0 - 1) / 2 ^ t.tl.getD i 0
  let ti (i : Nat) : Nat := c.getD i 0 / 2 ^ t.tl.getD i 0
  let e (i : Nat) : Nat := c.getD i 0 % 2 ^ t.tl.getD i 0
  (t.order.foldl (fun n d => n * g d + ti d) 0,
    e 0 + 2 ^ t.tl.getD 0 0 * (e 1 + 2 ^ t.tl.getD 1 0 * (e 2 + 2 ^ t.tl.getD 2 0 * e 3)))

/-- Coordinates from `i` on are in bounds, but for dimension 0 (R210). -/
def Tns.inside (t : Tns) (c : List Nat) : Bool := [1, 2, 3].all fun i => c.getD i 0 < t.dim.getD i 0

/-- The descriptor that a command's tensor operand names, read once (R208, R211). -/
def State.tensor (s : State) (g : BitVec 8) (e : Eng) (c : Cmd) (h : BitVec 16) : BRes (Tns × Cmd × State) :=
  match c.tns.find? fun x => x.1 == h with
  | some x => .ok (Tns.of x.2, c, s)
  | none =>
    match s.ctx? (s.tile g).ctxId with
    | none => bCause s { code := 0x27 }
    | some x =>
      if h = 0 || x.tnsCount.toNat ≤ h.toNat then bCause s { code := 0x27 }
      else do
        let r ← s.beatRead g e c .va (x.tnsBase + BitVec.ofNat 64 (64 * h.toNat)).toNat 64
        let v := pNat r.1
        causeIf v.2 r.2 0x2B
        let t := Tns.of (BitVec.ofNat 512 v.1)
        causeIf t.bad r.2 0x27
        let c := { c with tns := c.tns ++ [(h, BitVec.ofNat 512 v.1)] }
        .ok (t, c, r.2.putCmd g e c)

/-- The virtual address of a tile of a tensor, read from its table unless it is the tile of the read before (R211). -/
def State.tileAt (s : State) (g : BitVec 8) (e : Eng) (c : Cmd) (h : BitVec 16) (t : Tns) (tile : Nat) :
    BRes (W64 × Cmd × State) :=
  match c.ttile with
  | some (k, n, va) => if k = h && n = tile then .ok (va, c, s) else tileRead
  | none => tileRead
where
  tileRead : BRes (W64 × Cmd × State) := do
    let r ← s.beatRead g e c .va (t.ttbl + BitVec.ofNat 64 (8 * tile)).toNat 8
    let v := pNat r.1
    causeIf v.2 r.2 0x2B
    causeIf (t.tileBytes != 0 && v.1 % t.tileBytes != 0) r.2 0x27
    let c := { c with ttile := some (h, tile, BitVec.ofNat 64 v.1) }
    .ok (BitVec.ofNat 64 v.1, c, r.2.putCmd g e c)

/-! ## Gathers and scatters (R440, R441) -/

def Cmd.count (c : Cmd) : Nat := (c.c.extractLsb' 0 32).toNat
def Cmd.listSpace (c : Cmd) : Space := if c.imm.getLsbD 3 then .spa else .va

/-- Keys under which a gather keeps its list and which entries are poisoned. -/
def listKey : Nat := 2 ^ 60
def listPoisKey : Nat := 2 ^ 60 + 1

def Cmd.block (c : Cmd) (k : Nat) : List Byte := ((c.blocks.find? fun b => b.1 == k).map (·.2)).getD []

/-- Entry `j` of a gather's list. -/
def Cmd.entry (c : Cmd) (j : Nat) : BitVec 128 := BitVec.ofNat 128 (leNat (((c.block listKey).drop (16 * j)).take 16))

/-- Elements in one 64-byte unit of a tensor. -/
def Tns.unit (t : Tns) : Nat := 512 / t.bits

/-- A tensor entry breaks R440. -/
def tnsEntryIll (t : Tns) (v : BitVec 128) : Bool :=
  decide (2 ^ t.tl.getD 0 0 * t.bits < 512) || (v.extractLsb' 0 32).toNat % t.unit != 0

/-- The reason for which a prefix entry is ill-formed (R440). -/
def nodeEntryIll (ns : Namespace) (v : BitVec 128) : Option Byte :=
  if v.extractLsb' 0 16 != 0 then some 0x04
  else if (v.extractLsb' 16 16).toNat % 64 != 0 then some 0x02
  else if tokBytes ns < (v.extractLsb' 16 16).toNat + 64 then some 0x05
  else none

/-- The start of a gather or scatter: its operands are checked, its list is read, and its entries are checked, so that
an ill-formed one writes nothing (R431, R441). -/
def State.gatherStart (s : State) (g : BitVec 8) (c : Cmd) : BRes (Cmd × State) := do
  let n := c.count
  illIf (c.a.toNat % 64 != 0 || c.b.toNat % 16 != 0) s 0x02
  illIf (n == 0 || decide (65536 < n)) s 0x03
  illIf (c.op != .kvgather && c.c.extractLsb' 48 16 != 0) s 0x04
  levelIll s c.dsp c.a.toNat (64 * n)
  levelIll s c.listSpace c.b.toNat (16 * n)
  let r ← s.beatRead g .gather c c.listSpace c.b.toNat (16 * n)
  let bad := (List.range n).map fun j => ((r.1.drop (16 * j)).take 16).any (·.2)
  let c := { c with blocks := [(listKey, r.1.map (·.1)), (listPoisKey, bad.map fun b => if b then 1 else 0)] }
  if c.op = .kvgather then do
    let ns ← r.2.needNs g (c.c.extractLsb' 32 32)
    match (List.range n).findSome? fun j => if bad.getD j false then none else nodeEntryIll ns (c.entry j) with
    | some k => bIll r.2 k
    | none => .ok (c, r.2)
  else do
    let t ← r.2.tensor g .gather c (c.c.extractLsb' 32 16)
    illIf ((List.range n).any fun j => !bad.getD j false && tnsEntryIll t.1 (c.entry j)) t.2.2 0x05
    .ok t.2

/-- The unit of a tensor entry: elements in bounds, and where the unit lies when it has any. -/
def State.tnsUnit (s : State) (g : BitVec 8) (c : Cmd) (j : Nat) (t : Tns) : BRes (Nat × Nat × Cmd × State) := do
  let v := c.entry j
  let co := t.known ([0, 1, 2, 3].map fun i => (v.extractLsb' (32 * i) 32).toNat)
  let m := if t.inside co then Nat.min t.unit (t.dim.getD 0 0 - co.getD 0 0) else 0
  if m < t.unit && t.oob then bCause s { code := 0x28 }
  else if m = 0 then .ok (0, 0, c, s)
  else do
    let p := t.place co
    let x ← s.tileAt g .gather c (c.c.extractLsb' 32 16) t p.1
    .ok (m, x.1.toNat + p.2 * t.bits / 8, x.2.1, x.2.2)

/-- A list of bytes of which only the first `bits` bits come from `new` and the others from `old`. -/
def bitsPrefix (bits : Nat) (new old : List PByte) : List PByte :=
  (List.range new.length).map fun i =>
    let a := new.getD i (0, false)
    let b := old.getD i (0, false)
    if 8 * i + 8 ≤ bits then a else if bits ≤ 8 * i then b
    else ((a.1 &&& 0x0F) ||| (b.1 &&& 0xF0), a.2 || b.2)

/-- Where a unit of a gather comes from: nowhere, since no element of it is in bounds; a node's frame, at an offset; or `bits` bits at a
virtual address. -/
inductive UnitAt where
  | none
  | node (p : NodePlace) (off : Nat)
  | va (bits addr : Nat)

/-- Unit `j` of a gather or scatter is found (R440, R441). -/
def State.unitAt (s : State) (g : BitVec 8) (c : Cmd) (j : Nat) : BRes (UnitAt × Cmd × State) := do
  causeIf ((c.block listPoisKey).getD j 0 != 0) s 0x2B
  if c.op = .kvgather then do
    let v := c.entry j
    let r ← s.resolve g .gather c (c.c.extractLsb' 32 32) (v.extractLsb' 64 64) (v.extractLsb' 42 22).toNat (v.extractLsb' 32 10).toNat false
    .ok (.node r.1 (v.extractLsb' 16 16).toNat, r.2)
  else do
    let t ← s.tensor g .gather c (c.c.extractLsb' 32 16)
    let u ← t.2.2.tnsUnit g t.2.1 j t.1
    .ok (if u.1 = 0 then .none else .va (u.1 * t.1.bits) u.2.1, u.2.2)

/-- Beat `j` of a gather or scatter: both sides are translated before either is performed (R198, R202). -/
def State.gatherBeat (s : State) (g : BitVec 8) (c : Cmd) (j : Nat) : BRes (Cmd × State) := do
  let addr := c.a.toNat + 64 * j
  let u ← s.unitAt g c j
  let c := u.2.1
  let s := u.2.2
  match u.1 with
  | .none =>
    if c.op = .tscatter then .ok (c, s)
    else do
      let s ← s.beatWrite g .gather c c.dsp addr (clean (List.replicate 64 0))
      .ok (c, s)
  | .node p off => do
    let b ← s.readNode g .gather c p off 64
    let s ← s.beatWrite g .gather c c.dsp addr b
    .ok ({ c with blocks := c.blocks.filter fun b => listKey ≤ b.1 }, s)
  | .va bits va =>
    let zero := clean (List.replicate 64 0)
    if c.op = .tscatter then do
      let n := (bits + 7) / 8
      let rd := c.dsp.needs addr 64 .read
      let x ← s.beatXl g .gather c.seq (rd ++ Space.va.needs va n .write)
      let s ← x.2.beatGo g c (Nat.max (c.dsp.entries .gather addr 64) 1) (x.1.take rd.length)
      let v := s.engRead g c.dsp addr 64 (x.1.take rd.length)
      let old := v.2.engRead g .va va n (x.1.drop rd.length)
      .ok (c, old.2.engWrite g .va va (bitsPrefix bits (v.1.take n) old.1) (x.1.drop rd.length))
    else do
      let s ← s.beatMove g .gather c .va va c.dsp addr 64 fun b => bitsPrefix bits b zero
      .ok (c, s)

/-! ## Running the two engines -/

/-- Beats of a copy or gather command (R178); `COPYL` counts none. -/
def State.beatsOf (s : State) (c : Cmd) : Nat :=
  match c.op with
  | .copy => (c.c.toNat + 127) / 128
  | .ovla | .ovlx => c.c.toNat / 128
  | .copyn =>
    match s.ns? (c.c.extractLsb' 0 32) with
    | some ns => (c.nLayers * c.nTokens * tokBytes ns + 127) / 128
    | none => 0
  | _ => c.count

/-- The checks that a copy or gather command passes before its first beat. -/
def State.copyStart (s : State) (g : BitVec 8) (c : Cmd) : BRes (Cmd × State) :=
  match c.op with
  | .copy => do
    copyCheck s c
    .ok (c, s)
  | .ovla | .ovlx => do
    illIf (ovlIll c) s 0x06
    .ok (c, s)
  | .copyn => do
    illIf (c.a.toNat % 64 != 0) s 0x02
    let ns ← s.needNs g (c.c.extractLsb' 0 32)
    levelIll s c.dsp c.a.toNat (c.nLayers * c.nTokens * tokBytes ns)
    .ok (c, s)
  | _ => s.gatherStart g c

/-- Beat `k` of a copy or gather command. -/
def State.moveBeat (s : State) (g : BitVec 8) (c : Cmd) (k : Nat) : BRes (Cmd × State) :=
  match c.op with
  | .copy => do
    let s ← s.copyBeat g c k
    .ok (c, s)
  | .ovla | .ovlx => do
    let s ← s.ovlBeat g c k
    .ok (c, s)
  | .copyn => do
    let ns ← s.needNs g (c.c.extractLsb' 0 32)
    let x ← State.copynGo g ns k c s
    .ok ({ x.1 with blocks := [] }, x.2)
  | _ => s.gatherBeat g c k

/-- `prog` of a copy or gather command is 0 before its start, then one more than the beats it has done. At most `n` beats are
made; `true` when every beat is done. -/
def State.moveGo (g : BitVec 8) (e : Eng) : (n : Nat) → Cmd → State → BRes (State × Bool)
  | 0, c, s => .ok (s, decide (s.beatsOf c + 1 ≤ c.prog))
  | n + 1, c, s =>
    if c.prog = 0 then do
      let x ← s.copyStart g c
      let c := { x.1 with prog := 1 }
      State.moveGo g e n c (x.2.putCmd g e c)
    else if s.beatsOf c + 1 ≤ c.prog then .ok (s, true)
    else do
      let x ← s.moveBeat g c (c.prog - 1)
      let c := { x.1 with prog := c.prog + 1 }
      State.moveGo g e n c (x.2.putCmd g e c)

end Sys2Proof.Machine
end

