-- ==== Sys2Proof/Machine/Reads.lean ====
section
/-! DEFINITION. What the engine commands in progress read (R225): the ranges in virtual memory and in the scratchpad that a range seal's
count asks about, those an operand leads to among them (a tensor's descriptor, table and elements, path tables, adapters). -/

namespace Sys2Proof.Machine

/-- Bytes that something reads: in the scratchpad of its tile, or at virtual addresses of its context. -/
structure ReadRange where
  spad : Bool
  base : Nat
  size : Nat

def spaceRange (sp : Space) (base size : Nat) : List ReadRange :=
  match sp with
  | .va => [{ spad := false, base := base, size := size }]
  | .spa => [{ spad := true, base := base, size := size }]
  | _ => []

/-- The number that stands at a virtual address of a context; 0 where nothing is mapped. -/
def State.peek (s : State) (ctx : BitVec 16) (va n : Nat) : Nat :=
  (((s.devRead ctx (BitVec.ofNat 64 va) n).map fun bs => leNat (bs.map (·.1)))).getD 0

/-- A path table's entry for a token position (R226). -/
def pathRange (pt p : Nat) : List ReadRange := spaceRange .va (pt + 8 * (p / 64)) 8

/-! ## Tensors (R207 to R211) -/

/-- The descriptor of a tensor and, for each run of elements along dimension 0 that begins in bounds, its tile's table entry and its bytes. -/
def State.tnsReads (s : State) (ctx : BitVec 16) (h : BitVec 16) (els : List (List Nat × Nat)) : List ReadRange :=
  match s.ctx? ctx with
  | none => []
  | some x =>
    let at_ := x.tnsBase.toNat + 64 * h.toNat
    let t := Tns.of (BitVec.ofNat 512 (s.peek ctx at_ 64))
    spaceRange .va at_ 64 ++ els.flatMap fun e =>
      let co := t.known e.1
      if !t.inside co || t.dim.getD 0 0 ≤ co.getD 0 0 then []
      else
        let p := t.place co
        let ent := t.ttbl.toNat + 8 * p.1
        let n := Nat.min e.2 (t.dim.getD 0 0 - co.getD 0 0)
        spaceRange .va ent 8 ++ spaceRange .va (s.peek ctx ent 8 + p.2 * t.bits / 8) ((n * t.bits + 7) / 8)

/-! ## Matrix operands (R407 to R410, R415 to R418) -/

/-- Rows of a matrix operand of `k` elements (R407, R408), with their scale codes. -/
def State.operandReads (s : State) (ctx : BitVec 16) (d : BitVec 256) (k rows : Nat) : List ReadRange :=
  let bytes := k * (tyOfCode (d.extractLsb' 23 4)).bits / 8
  let addr := (d.extractLsb' 192 64).toNat
  let p0 := (d.extractLsb' 160 32).toNat
  let q0 := (d.extractLsb' 128 32).toNat
  let at_ (sp : Space) : List ReadRange := (List.range rows).flatMap fun q => spaceRange sp (addr + q * q0) bytes
  let scale (sp : Space) : List ReadRange :=
    (List.range rows).flatMap fun q => spaceRange sp ((d.extractLsb' 64 64).toNat + q * (d.extractLsb' 48 16).toNat) (k / 32)
  (match (d.extractLsb' 27 3).toNat with
    | 0 => at_ .spa
    | 3 => at_ .va
    | 4 => s.tnsReads ctx (BitVec.ofNat 16 addr) ((List.range rows).flatMap fun q => (List.range k).map fun i =>
        ([q0 + i, p0 + q, (d.extractLsb' 32 16).toNat, 0], 1))
    | 5 => (List.range rows).flatMap fun q => pathRange addr (p0 + q)
    | _ => [])
    ++ (match (d.extractLsb' 30 2).toNat with | 1 => scale .spa | 2 => scale .va | _ => [])

/-- K of a weight block, and whether it is sparse (R409, R410). -/
def blockK (b : BitVec 512) : Nat := (b.extractLsb' 416 16).toNat
def blockSparse (b : BitVec 512) : Bool := b.extractLsb' 414 2 != 0

/-- The source ranges of a weight block (R409). -/
def State.weightReads (s : State) (ctx : BitVec 16) (b : BitVec 512) : List ReadRange :=
  let k := blockK b
  let meta_ (sp : Space) : List ReadRange :=
    (List.range 32).flatMap fun n => spaceRange sp ((b.extractLsb' 448 64).toNat + n * (b.extractLsb' 432 16).toNat) (k / 8)
  s.operandReads ctx (b.extractLsb' 0 256) (if blockSparse b then k / 2 else k) 32
    ++ (match (b.extractLsb' 414 2).toNat with | 1 => meta_ .spa | 2 => meta_ .va | _ => [])

/-- What a segment's adapter is read from (R415, R416): its header, its slice of Dᵀ and its slice of Uᵀ. -/
def State.adapterReads (s : State) (ctx : BitVec 16) (h k k0 n0 : Nat) : List ReadRange :=
  match (if h = 0 || 16384 ≤ h then none else s.resEntry h) with
  | none => []
  | some e =>
    let base := (resVaBase e).toNat
    let x : BitVec 512 := BitVec.ofNat 512 (s.peek ctx base 64)
    let rank := (x.extractLsb' 496 16).toNat
    let wd := (tyOfCode (x.extractLsb' 492 4)).bits
    let wu := (tyOfCode (x.extractLsb' 488 4)).bits
    spaceRange .va base 64
      ++ ((List.range rank).flatMap fun i =>
        spaceRange .va (base + (x.extractLsb' 320 64).toNat + i * (x.extractLsb' 288 32).toNat + k0 * wd / 8) (k * wd / 8))
      ++ (List.range 32).flatMap fun i =>
        spaceRange .va (base + (x.extractLsb' 192 64).toNat + (n0 + i) * (x.extractLsb' 256 32).toNat) (rank * wu / 8)

/-- What a compute command reads: its rows of `k` elements, the bias of its epilogue, the adapters of its segments. -/
def State.computeReads (s : State) (ctx : BitVec 16) (c : Cmd) (k : Nat) : List ReadRange :=
  let epi := c.op == .mepi || c.imm.getLsbD 7
  (if c.op = .mepi then [] else s.operandReads ctx (c.blk0.extractLsb' 0 256) k (32 * ((c.imm.extractLsb' 8 9).toNat + 1)))
    ++ (if epi && c.blk1.getLsbD 405 then spaceRange .spa (c.blk1.extractLsb' 448 64).toNat 128 else [])
    ++ (if c.op = .mmas then (List.range (Nat.min 32 (c.blk2.extractLsb' 112 16).toNat)).flatMap fun i =>
          s.adapterReads ctx ((c.blk2.extractLsb' (128 * (i + 1) + 48) 16).toNat) k
            (c.blk2.extractLsb' 64 32).toNat (c.blk2.extractLsb' 32 32).toNat
        else [])

/-- What the accepted matrix commands read, in order: a compute command has the K of the plane that is active as it runs. -/
def State.matrixReads (s : State) (ctx : BitVec 16) : (active shadow : Nat) → List Cmd → List ReadRange
  | _, _, [] => []
  | a, b, c :: r =>
    match c.op with
    | .mwld => s.weightReads ctx c.blk0 ++ s.matrixReads ctx a (blockK c.blk0) r
    | .mswap => s.matrixReads ctx b a r
    | _ => s.computeReads ctx c (if c.swapped then b else a) ++ s.matrixReads ctx a b r

/-! ## The other engines -/

/-- NRANK and the bytes of one block, from a collective descriptor (R442). -/
def collRanks (d : BitVec 512) : Nat := (d.extractLsb' 307 13).toNat
def collBlock (d : BitVec 512) : Nat := (d.extractLsb' 352 32).toNat * (tyOfCode (d.extractLsb' 277 4)).bits / 8

/-- The entries of a gather's or scatter's list: as its command has read them, or as they stand. -/
def State.listNow (s : State) (ctx : BitVec 16) (u : Nat) (c : Cmd) : List (BitVec 128) :=
  (List.range c.count).map fun j =>
    if c.blocks.any fun b => b.1 == listKey then c.entry j
    else BitVec.ofNat 128 (match c.listSpace with
      | .va => s.peek ctx (c.b.toNat + 16 * j) 16
      | _ => if u < 256 then s.rdNat (spadBase u + c.b.toNat + 16 * j) 16 else 0)

/-- Elements along dimension 0 from an entry's coordinates on, one 64-byte unit of them. -/
def State.unitReads (s : State) (ctx : BitVec 16) (c : Cmd) (es : List (BitVec 128)) : List ReadRange :=
  let h : BitVec 16 := c.c.extractLsb' 32 16
  let unit := match s.ctx? ctx with
    | none => 0
    | some x => (Tns.of (BitVec.ofNat 512 (s.peek ctx (x.tnsBase.toNat + 64 * h.toNat) 64))).unit
  s.tnsReads ctx h (es.map fun v => ([0, 1, 2, 3].map fun i => (v.extractLsb' (32 * i) 32).toNat, unit))

/-- The ranges that a command of holder `u` reads, but for a matrix command's. -/
def State.cmdReads (s : State) (ctx : BitVec 16) (u : Nat) (c : Cmd) : List ReadRange :=
  let n16 := (c.c.extractLsb' 0 16).toNat
  let coll (n : Nat) : List ReadRange :=
    spaceRange .va c.b.toNat n ++ spaceRange .va c.c.toNat 64 ++ spaceRange .va (c.blk0.extractLsb' 448 64).toNat (2 * collRanks c.blk0)
  match c.op with
  | .copy => if c.fill then [] else spaceRange c.ssp c.b.toNat c.c.toNat
  | .ovla | .ovlx => spaceRange .va c.a.toNat c.c.toNat
  | .copyn =>
    let p := (c.c.extractLsb' 32 22).toNat
    let tb := ((s.ns? (c.c.extractLsb' 0 32)).map tokBytes).getD 0
    ((List.range c.nTokens).flatMap fun i => pathRange c.b.toNat (p + i))
      ++ (if c.toNode then spaceRange c.dsp c.a.toNat (c.nLayers * c.nTokens * tb) else [])
  | .tgather =>
    let es := s.listNow ctx u c
    spaceRange c.listSpace c.b.toNat (16 * c.count) ++ s.unitReads ctx c es
  | .kvgather =>
    spaceRange c.listSpace c.b.toNat (16 * c.count)
      ++ (s.listNow ctx u c).flatMap fun v => pathRange (v.extractLsb' 64 64).toNat (v.extractLsb' 42 22).toNat
  | .tscatter =>
    let h : BitVec 16 := c.c.extractLsb' 32 16
    let els := (s.listNow ctx u c).map fun v => ([0, 1, 2, 3].map fun i => (v.extractLsb' (32 * i) 32).toNat, 0)
    spaceRange c.listSpace c.b.toNat (16 * c.count) ++ spaceRange c.dsp c.a.toNat (64 * c.count) ++ s.tnsReads ctx h els
  | .collred | .collgath | .collbcast | .collsend => coll (collBlock c.blk0)
  | .colla2a => coll (collRanks c.blk0 * collBlock c.blk0)
  | .collrecv => coll 0
  | .pxhash => spaceRange .va c.b.toNat (256 * n16) ++ (if c.imm.getLsbD 0 then spaceRange .va (c.a.toNat - 16) 16 else [])
  | .pxmatch => spaceRange .va c.a.toNat (16 * n16)
  | .kvseal => spaceRange .va c.c.toNat 256
  | _ => []

/-- Everything that the accepted commands and the LOADED planes of a holder's tile read (R225, R409). -/
def State.tileReads (s : State) (ctx : BitVec 16) (u : Nat) (t : Tile) : List ReadRange :=
  ((allEngs.filter (· != .matrix)).flatMap fun e => (t.eng e).running.flatMap (s.cmdReads ctx u))
    ++ s.matrixReads ctx t.active.k t.shadow.k t.emat.running
    ++ [t.active, t.shadow].flatMap fun p => if p.st == .loaded then s.weightReads ctx p.snap else []

end Sys2Proof.Machine
end

