-- ==== Sys2Proof/Machine/Seals.lean ====
section
/-! DEFINITION. Range seals and unseals, what keeps a range sealed (R224, R225, R409), and the start of a shootdown (R204). -/

namespace Sys2Proof.Machine

/-! ## What keeps a range sealed (R225, R409) -/

def rangesMeet (a n b m : Nat) : Bool := decide (a < b + m) && decide (b < a + n)

/-- A range read by a tile's command or plane lies in a seal record. -/
def SealRec.readBy (r : SealRec) (u : Nat) (x : ReadRange) : Bool :=
  (match r.spad with | some t => x.spad && t == u | none => !x.spad) && rangesMeet r.base.toNat r.size.toNat x.base x.size

/-- The scratchpad bytes that the recipes in use on a tile load (R225, R305). -/
def Tile.recipeReads (t : Tile) : List ReadRange :=
  (List.range 32).flatMap fun i =>
    let n : R5 := BitVec.ofNat 5 i
    if (t.slotUser n).isNone then []
    else (t.slot n).micros.filterMap fun m =>
      match m.1 with
      | .vld _ x _ _ o => some { spad := true, base := (vAddr (if x = 0 then 0 else vget t.xreg 0 x) o).toNat, size := 256 }
      | _ => none

/-- The count of a seal record is above 0 (R225): a VALID residency handle lies in it, or a recipe, an accepted command or a
LOADED plane reads it. -/
def State.sealHeld (s : State) (ctx : BitVec 16) (r : SealRec) : Bool :=
  let at_ : List (Nat × Tile) := (s.tiles.filter fun e => e.2.ctx == some ctx)
    ++ (s.images.filter fun e => e.2.ctx == ctx).map fun e => (256 + e.1, e.2.tile)
  (at_.any fun e =>
    (s.tileReads ctx e.1 e.2).any (r.readBy e.1) || e.2.recipeReads.any (r.readBy e.1))
  || (r.spad.isNone && (List.range 16383).any fun i =>
      match s.resEntry (i + 1) with
      | some e => resValid e && resCtx e == ctx && decide (r.base.toNat ≤ (resVaBase e).toNat)
          && decide ((resVaBase e).toNat + 65536 * resPages e ≤ r.base.toNat + r.size.toNat)
      | none => false)

/-! ## Leaf entries and shootdowns -/

/-- The leaf entry that maps a virtual address: where it lies, log2 of its page, its bits. Bits [63:55] of an address that is mapped are 0. -/
def leafAtGo (s : State) (va : Nat) : (left base : Nat) → Option (Nat × Nat × BitVec 128)
  | 0, _ => none
  | k + 1, base =>
    let pa := base + 16 * (va / 2 ^ (16 + 13 * k) % 2 ^ 13)
    let e := (s.tableEntry pa).1
    if 2 ^ 55 ≤ va || !e.getLsbD 0 then none
    else if e.getLsbD 7 then (if leafBad s (3 - k) e then none else some (pa, 16 + 13 * k, e))
    else if tableBad (3 - k) e then none
    else leafAtGo s va k ((e.extractLsb' 17 31).toNat * 2 ^ 17)

def State.leafAt (s : State) (ctx : BitVec 16) (va : Nat) : Option (Nat × Nat × BitVec 128) :=
  match s.ctx? ctx with
  | some c => leafAtGo s va 3 (c.trootNext.toNat * 2 ^ 17)
  | none => none

/-- Store a table entry at its home (R194, R195). -/
def State.putEntry (s : State) (pa : Nat) (e : BitVec 128) : State := s.wrDev 0 0 pa (leBytes 16 e.toNat) false

/-- The leaf entries of a range of whole pages, each once; `none` where a page is missing or reaches out of the range. -/
def State.rangeLeaves (s : State) (ctx : BitVec 16) (base size : Nat) : (fuel va : Nat) → Option (List (Nat × Nat × BitVec 128))
  | 0, _ => none
  | k + 1, va =>
    if base + size ≤ va then some []
    else match s.leafAt ctx va with
      | none => none
      | some (pa, n, e) =>
        let lo := va / 2 ^ n * 2 ^ n
        if lo < base || base + size < lo + 2 ^ n then none
        else (s.rangeLeaves ctx base size k (lo + 2 ^ n)).map ((pa, n, e) :: ·)

/-- Every party of a shootdown (R204). -/
def sdParties : List SdParty :=
  ((List.range 256).map fun i => SdParty.rim (BitVec.ofNat 8 i)) ++ ((List.range 4).map fun i => SdParty.walkCache (BitVec.ofNat 2 i))
    ++ ((List.range 256).map fun i => SdParty.layoutUnit (BitVec.ofNat 8 i))
    ++ ((List.range 4).map fun i => SdParty.dieController (BitVec.ofNat 2 i)) ++ [SdParty.copyUnit, SdParty.residencyUnit]

/-- A shootdown starts (R204). -/
def State.startShootdown (s : State) (scope : BitVec 2) (ctx : BitVec 16) (va : W64) (host : Bool)
    (cmd : Option (Nat × BitVec 32)) : State :=
  { s with sds := s.sds ++ [{ scope := scope, ctx := ctx, va := va, wait := sdParties, host := host, cmd := cmd }] }

/-! ## RSEAL and RUNSEAL (R224, R225) -/

/-- Every store of a context's tiles is performed at its home; `none` while a claim is unanswered (R224 step 1). -/
def State.settleStores (s : State) (ctx : BitVec 16) : Option State :=
  let ts := s.tilesWith fun t => t.ctx == some ctx
  if ts.any fun g => !(s.tile g).claims.isEmpty then none
  else some (ts.foldl (fun s g => (s.dirtyBack g).drainDie (dieOf g)) s)

/-- Set or clear the seal bits of a scratchpad range. -/
def Tile.putSeals (t : Tile) (off n : Nat) (b : Bool) : Tile :=
  { t with sealb := (List.range (n / 4096)).foldl (fun m i => setBit m (off / 4096 + i) b) t.sealb }

/-- A seal's or unseal's range is ill-formed for the scratchpad. -/
def spadRangeBad (base size : Nat) : Bool := base % 4096 != 0 || size % 4096 != 0 || size == 0 || decide (2 ^ 21 < base + size)

/-- RSEAL (R224): `true` when it is done; of a virtual range, when the shootdown has been acknowledged. -/
def State.rseal (s : State) (g : BitVec 8) (c : Cmd) : BRes (State × Bool) := do
  let ctx := (s.tile g).ctxId
  let base := c.a.toNat
  let size := c.b.toNat
  let bad : BRes (State × Bool) := bCause s { code := 0x69 }
  if c.prog != 0 then
    if s.sds.any fun d => d.cmd == some (g.toNat, c.seq) then bWait s else .ok (s, true)
  else match s.ctx? ctx with
    | none => bad
    | some x =>
      if 256 ≤ x.seals.length then bad
      else if c.imm.getLsbD 0 then
        if spadRangeBad base size || (s.tile g).spadSealed base size then bad
        else
          .ok ((s.modTile g fun t => t.putSeals base size true).modCtx ctx fun x =>
            { x with seals := x.seals ++ [{ base := c.a, size := c.b, spad := some g.toNat }] }, true)
      else if base % 65536 != 0 || size % 65536 != 0 || size == 0 then bad
      else match s.rangeLeaves ctx base size (size / 65536 + 1) base with
        | none => bad
        | some ls =>
          if ls.any fun l => leafSeal l.2.2 then bad
          else match s.settleStores ctx with
            | none => bWait s
            | some s =>
              let s := ls.foldl (fun s l => s.putEntry l.1 (l.2.2 ||| 0x10)) s
              let s := s.modCtx ctx fun x => { x with seals := x.seals ++ [{ base := c.a, size := c.b, spad := none }] }
              .ok ((s.startShootdown 1 ctx c.a false (some (g.toNat, c.seq))).putCmd g .salt { c with prog := 1 }, false)

/-- RUNSEAL (R225). -/
def State.runseal (s : State) (g : BitVec 8) (c : Cmd) : BRes (State × Bool) := do
  let ctx := (s.tile g).ctxId
  let base := c.a.toNat
  let size := c.b.toNat
  let bad : BRes (State × Bool) := bCause s { code := 0x69 }
  if c.prog != 0 then
    if s.sds.any fun d => d.cmd == some (g.toNat, c.seq) then bWait s else .ok (s, true)
  else
    let r : SealRec := { base := c.a, size := c.b, spad := if c.imm.getLsbD 0 then some g.toNat else none }
    match s.ctx? ctx with
    | none => bad
    | some x =>
      if !x.seals.contains r then bad
      else if s.sealHeld ctx r then bCause s { code := 0x68 }
      else
        let s := s.modCtx ctx fun x => { x with seals := x.seals.filter (· != r) }
        if c.imm.getLsbD 0 then .ok (s.modTile g fun t => t.putSeals base size false, true)
        else match s.rangeLeaves ctx base size (size / 65536 + 1) base with
          | none => bad
          | some ls =>
            let s := ls.foldl (fun s l => s.putEntry l.1 (l.2.2 &&& ~~~ (0x10 : BitVec 128))) s
            .ok ((s.startShootdown 1 ctx c.a false (some (g.toNat, c.seq))).putCmd g .salt { c with prog := 1 }, false)

end Sys2Proof.Machine
end

