-- ==== Sys2Proof/Machine/Tokens.lean ====
section
/-! DEFINITION. The token instructions, XFNC and DRAIN (R433 to R435), stage pushes, ENQ and BAR (R374 to R377), and the
issue of the copy, gather, collective and Saltern commands (R428, R429, R436 to R447). -/

namespace Sys2Proof.Machine

/-! ## Tokens (R433) -/

/-- TKWAIT (R433). -/
def execTkwait (k : R5) (s : State) : Host.Outcome State Fault Refusal :=
  issue .both 1 (fun g _ s => if (s.tile g).tkPending k then waitIn s .token else .ok s) s

/-- TKTEST (R433). -/
def execTktest (d k : R5) (s : State) : Host.Outcome State Fault Refusal :=
  issue .both 1 (fun g st s => do
    let s ← s.freeS g st d
    .ok (s.wrS g st d (if (s.tile g).tkPending k then 0 else 1) false 1)) s

/-- The completion count of a token; that of `tk0` is 0 (R433). -/
def Tile.tkCount (t : Tile) (k : R5) : BitVec 16 := if k = 0 then 0 else (t.token k).count

/-- TKCNT (R433). -/
def execTkcnt (d k : R5) (s : State) : Host.Outcome State Fault Refusal :=
  issue .both 1 (fun g st s => do
    let s ← s.freeS g st d
    .ok (s.wrS g st d (((s.tile g).tkCount k).setWidth 64) false 1)) s

/-! ## XFNC and DRAIN (R434, R435) -/

/-- Put a command that waits in no engine queue among the tile's loose commands (R434). -/
def State.pushLoose (s : State) (g : BitVec 8) (c : Cmd) : State :=
  s.modTile g fun t => Tile.acceptLoose { t.tkProduce c.tp with loose := t.loose ++ [c] }

/-- A LEVEL that the issuing stream reaches (R262). -/
def levelReached (st : Stream) (level : BitVec 2) : Bool :=
  match st with
  | .a => level == 3
  | .x => level == 1 || level == 2

/-- The X-cycle by which the windows of the X-stream stores that an XFNC of a level covers have closed (R262, R263). -/
def xfncCloses (t : Tile) (level : BitVec 2) : W64 :=
  match level.toNat with
  | 1 => BitVec.ofNat 64 t.stClose
  | 2 => BitVec.ofNat 64 t.stCloseC
  | _ => 0

/-- XFNC (R262, R434). -/
def execXfnc (k : ETok) (level : BitVec 2) (s : State) : Host.Outcome State Fault Refusal :=
  issue .both 2 (fun g st s => do
    raiseIf (!levelReached st level) s 0x0B
    s.waitCmd g none k
    let t := s.tile g
    .ok (s.pushLoose g (mkCmd t .xfnc st k (xfncCloses t level) 0 0 (level.setWidth 17)))) s

/-- DRAIN (R435). -/
def execDrain (k : ETok) (mask : BitVec 5) (s : State) : Host.Outcome State Fault Refusal :=
  issue .both 2 (fun g st s => do
    s.waitCmd g none k
    .ok (s.pushLoose g (mkCmd (s.tile g) .drain st k 0 0 0 (mask.setWidth 17)))) s

/-! ## Stage pushes (R121 to R124, R374) -/

/-- The eight words that `SQPUSH` and `ENQ` take from `a8` to `a15`, and whether one is poisoned. -/
def Tile.words8 (t : Tile) : List W64 × Bool :=
  let l := (List.range 8).map fun k => t.rdA (BitVec.ofNat 5 (8 + k))
  (l.map (·.1), l.any (·.2))

/-- First byte of the stage queue instance of stage `n` on a die (R121). -/
def sqBase (d : StageDesc) (die : BitVec 2) : Nat := stgBase + die.toNat * 2 ^ 27 + d.qslice * 2 ^ 21 + d.qoff

def Launch.stage? (l : Launch) (n : Nat) : Option StageDesc := l.stages[n]?
def Launch.die (l : Launch) (d : BitVec 2) : LaunchDie :=
  vget l.dies { admitted := false, withdrawn := false, groups := [], clu := [], queues := [], captured := [],
                returned := [], since := [] } d
def Launch.setDie (l : Launch) (d : BitVec 2) (x : LaunchDie) : Launch := { l with dies := vset l.dies d x }
def LaunchDie.inst (x : LaunchDie) (n : Nat) : SqInst := x.queues.getD n { next := 0, entries := [] }
def LaunchDie.setInst (x : LaunchDie) (n : Nat) (q : SqInst) : LaunchDie :=
  { x with queues := (List.range (Nat.max x.queues.length (n + 1))).map fun i => if i = n then q else x.inst i }

/-- The launch and the stage whose output queue the item of a tile pushes to; `none` for an item of the last stage, and
for a tile without an item. -/
def State.pushTo (s : State) (g : BitVec 8) : Option (Launch × Nat × StageDesc) :=
  match (s.tile g).item with
  | none => none
  | some i =>
    match s.launch? i.launch with
    | none => none
    | some l =>
      if i.stage.toNat + 1 < l.nstage then (l.stage? i.stage.toNat).map fun d => (l, i.stage.toNat, d) else none

/-- Append an entry to a stage queue instance: its bytes are the launch's context's (R121). -/
def State.pushEntry (s : State) (g : BitVec 8) (l : Launch) (n : Nat) (d : StageDesc) (words : List W64) : State :=
  let die := dieOf g
  let x := l.die die
  let q := x.inst n
  let s := s.wrGran l.ctx (sqBase d die + 64 * q.next) (words.flatMap fun w => leBytes 8 w.toNat) false
  s.setLaunch (l.setDie die (x.setInst n
    { next := (q.next + 1) % 2 ^ d.log2depth
      entries := q.entries ++ [{ slot := q.next, avail := false, pusher := some g.toNat }] }))

/-- SQPUSH (R123, R374). -/
def execSqpush (f : F3) (s : State) : Host.Outcome State Fault Refusal :=
  issue .a 1 (fun g _ s => do
    let w := (s.tile g).words8
    raiseIf w.2 s 0x2E
    match s.pushTo g with
    | none => trapIn s { code := 0x5A }
    | some (l, n, d) =>
      if 2 ^ d.log2depth ≤ ((l.die (dieOf g)).inst n).entries.length then
        .ok (s.modTile g fun t => t.wrF f true)
      else .ok ((s.pushEntry g l n d w.1).modTile g fun t => t.wrF f false)) s

/-- The dirty bytes of the copies that an image holds are written back at their homes; its claims were answered by its drain. -/
def State.imageBack (s : State) (u : Nat) : State :=
  let s := (s.holder u).l1.foldl (fun s l => s.mergeBack u l) s
  s.modHolder u fun t => { t with l1 := t.l1.map fun (l : L1Line) => { l with dmask := 0 } }

/-- The stores that a pusher has issued are performed at die scope (R124). -/
def State.pushPerformed (s : State) : Option Nat → State
  | none => s
  | some u => if u < 256 then s.releaseNow (BitVec.ofNat 8 u) 2 else s.imageBack u

/-- STAGE_ENTRY_AVAILABLE (R124): the oldest unavailable entry becomes available once the stores that its A-stream issued
before are performed at die scope; while a claim of that tile is unanswered they are not. They lie in the item's image once it
has been captured. -/
def execStageEntryAvailable (id : Nat) (die : BitVec 2) (stage : BitVec 3) (s : State) : Host.Outcome State Fault Refusal :=
  event (fun s =>
    match s.launch? id with
    | none => s
    | some l =>
      let x := l.die die
      let q := x.inst stage.toNat
      match q.entries.find? fun e => !e.avail with
      | none => s
      | some e =>
        if !((e.pusher.map s.holder).map (·.claims.isEmpty)).getD true then s
        else
          let n := q.entries.findIdx fun e => !e.avail
          let l := l.setDie die (x.setInst stage.toNat
            { q with entries := q.entries.modify n fun e => { e with avail := true } })
          (s.pushPerformed e.pusher).setLaunch l) s

/-! ## ENQ (R375, R376) -/

/-- Queue `q` takes packets from tiles of a context: enabled, device-fed, bound to it (R375). -/
def State.enqTaker (s : State) (ctx : BitVec 16) (q : W64) : Bool :=
  decide (q.toNat < 1024) && (let x := s.queue (q.setWidth 10); x.en && x.src && x.ctx == ctx)

/-- ENQ (R375, R376): the packet waits in the rim's send queue; the flag has no value until it is answered. -/
def execEnq (f : F3) (r : R5) (s : State) : Host.Outcome State Fault Refusal :=
  issue .a 1 (fun g _ s => do
    let t := s.tile g
    let q := t.rdA r
    raiseIf q.2 s 0x2B
    raiseIf (!s.enqTaker (t.ctx.getD 0) q.1) s 0x06
    raiseIf t.words8.2 s 0x2E
    .ok (s.setTile g { t with
      fpend := setBit t.fpend f.toNat true
      enqs := t.enqs ++ [{ flag := f, queue := q.1.setWidth 10, words := t.words8.1 }] })) s

/-! ## BAR (R128, R377) -/

/-- The cohort group of a tile's item: its launch and number. -/
def Tile.cohort (t : Tile) : Option (Nat × Nat) := t.item.bind fun i => i.group.map fun n => (i.launch, n)

/-- Generations that a cohort group has completed (R128). -/
def Launch.gen (l : Launch) (n : Nat) : Nat := ((l.gens.find? fun e => e.1 == n).map (·.2)).getD 0

/-- BAR (R128, R377): the arrival is a release at cluster scope; the stream stalls until its generation completes, which is
an acquire. -/
def execBar (s : State) : Host.Outcome State Fault Refusal :=
  issue .a 1 (fun g _ s =>
    match (s.tile g).cohort with
    | none => trapIn s { code := 0x59 }
    | some (l, n) => do
      let s ← s.settleRelease g
      if !(s.tile g).inBar then
        waitIn ((s.release g 1).modTile g fun t => { t with inBar := true, bars := t.bars + 1 })
      else
        let gen := ((s.launch? l).map fun x => x.gen n).getD 0
        if gen < (s.tile g).bars then waitIn s
        else .ok ((s.acquire g 1).modTile g fun t => { t with inBar := false })) s

/-- Items of a cohort group (R120): the product of the counts below the cluster level. -/
def Launch.groupSize (l : Launch) : Nat := (l.counts.drop l.clulev).foldl (· * ·) 1

/-- Items of a cohort group that have retired (R128). -/
def Launch.retiredOf (l : Launch) (n : Nat) : Nat := ((l.gretired.find? fun e => e.1 == n).map (·.2)).getD 0

/-- Store a count for a key of a list of pairs. -/
def setPair (l : List (Nat × Nat)) (k v : Nat) : List (Nat × Nat) := (k, v) :: l.filter fun e => e.1 != k

/-- COHORT_BARRIER_COMPLETE (R128, R377): every item of the group has executed its next `BAR` or retired. -/
def execCohortBarrierComplete (id group : Nat) (s : State) : Host.Outcome State Fault Refusal :=
  event (fun s =>
    match s.launch? id with
    | none => s
    | some l =>
      let gen := l.gen group
      let ts := s.tilesWith fun t => t.cohort == some (id, group) && t.ist == .running
      let arrived := ts.filter fun g => gen < (s.tile g).bars && (s.tile g).relPend.isEmpty
      if arrived.isEmpty || arrived.length + l.retiredOf group != l.groupSize then s
      else s.setLaunch { l with gens := setPair l.gens group (gen + 1) }) s

/-! ## Engine commands of the A-stream (R428, R436 to R447) -/

/-- COPY (R436). -/
def execCopy (e : ETok) (sa sb sc : R5) (fill : Bool) (ssp dsp : BitVec 3) (s : State) : Host.Outcome State Fault Refusal :=
  engIssue .copy .copy e sa sb sc (((0 : BitVec 10) ++ BitVec.ofBool fill ++ ssp ++ dsp).setWidth 17) s

/-- COPYL (R437). -/
def execCopyl (e : ETok) (sa sb : R5) (tier : BitVec 2) (s : State) : Host.Outcome State Fault Refusal :=
  engIssue .copy .copyl e sa sb 0 (tier.setWidth 17) s

/-- COPYN (R438). -/
def execCopyn (e : ETok) (sa sb sc : R5) (nl : BitVec 7) (nt : BitVec 6) (dir : Bool) (sp : BitVec 3) (s : State) :
    Host.Outcome State Fault Refusal :=
  engIssue .copy .copyn e sa sb sc ((nl ++ nt ++ BitVec.ofBool dir ++ sp).setWidth 17) s

/-- OVLA (R168, R439). -/
def execOvla (e : ETok) (sa sb sc : R5) (s : State) : Host.Outcome State Fault Refusal := engIssue .copy .ovla e sa sb sc 0 s
/-- OVLX (R168, R439). -/
def execOvlx (e : ETok) (sa sb sc : R5) (s : State) : Host.Outcome State Fault Refusal := engIssue .copy .ovlx e sa sb sc 0 s

/-- IMM17 of the gather engine (before R440). -/
def gatherImm (lsp : Bool) (sp : BitVec 3) : BitVec 17 := (BitVec.ofBool lsp ++ sp).setWidth 17

/-- TGATHER (R440, R441). -/
def execTgather (e : ETok) (sa sb sc : R5) (lsp : Bool) (sp : BitVec 3) (s : State) : Host.Outcome State Fault Refusal :=
  engIssue .gather .tgather e sa sb sc (gatherImm lsp sp) s
/-- KVGATHER (R440, R441). -/
def execKvgather (e : ETok) (sa sb sc : R5) (lsp : Bool) (sp : BitVec 3) (s : State) : Host.Outcome State Fault Refusal :=
  engIssue .gather .kvgather e sa sb sc (gatherImm lsp sp) s
/-- TSCATTER (R440, R441). -/
def execTscatter (e : ETok) (sa sb sc : R5) (lsp : Bool) (sp : BitVec 3) (s : State) : Host.Outcome State Fault Refusal :=
  engIssue .gather .tscatter e sa sb sc (gatherImm lsp sp) s

/-- COLLRED (R442 to R444). -/
def execCollred (e : ETok) (sa sb sc : R5) (s : State) : Host.Outcome State Fault Refusal := engIssue .coll .collred e sa sb sc 0 s
/-- COLLGATH (R442 to R444). -/
def execCollgath (e : ETok) (sa sb sc : R5) (s : State) : Host.Outcome State Fault Refusal := engIssue .coll .collgath e sa sb sc 0 s
/-- COLLBCAST (R442 to R444). -/
def execCollbcast (e : ETok) (sa sb sc : R5) (s : State) : Host.Outcome State Fault Refusal := engIssue .coll .collbcast e sa sb sc 0 s
/-- COLLA2A (R442 to R444). -/
def execColla2a (e : ETok) (sa sb sc : R5) (s : State) : Host.Outcome State Fault Refusal := engIssue .coll .colla2a e sa sb sc 0 s
/-- COLLSEND (R442 to R444): its SA field is fixed at zero (R428, R444; log entry 45, DEDUCED). -/
def execCollsend (e : ETok) (sb sc : R5) (s : State) : Host.Outcome State Fault Refusal := engIssue .coll .collsend e 0 sb sc 0 s
/-- COLLRECV (R442 to R444): its SB field is fixed at zero (R428, R444; log entry 45, DEDUCED). -/
def execCollrecv (e : ETok) (sa sc : R5) (s : State) : Host.Outcome State Fault Refusal := engIssue .coll .collrecv e sa 0 sc 0 s

/-- PXHASH (R447, R448). -/
def execPxhash (e : ETok) (sa sb sc : R5) (frm : Bool) (s : State) : Host.Outcome State Fault Refusal :=
  engIssue .salt .pxhash e sa sb sc ((BitVec.ofBool frm).setWidth 17) s
/-- PXMATCH (R229, R230, R447). -/
def execPxmatch (e : ETok) (sa sb sc : R5) (lim : BitVec 5) (s : State) : Host.Outcome State Fault Refusal :=
  engIssue .salt .pxmatch e sa sb sc (lim.setWidth 17) s
/-- PXPATH (R226, R447). -/
def execPxpath (e : ETok) (sa sb sc : R5) (s : State) : Host.Outcome State Fault Refusal := engIssue .salt .pxpath e sa sb sc 0 s
/-- KVOPEN (R236, R447). -/
def execKvopen (e : ETok) (sa sb sc : R5) (tier : BitVec 2) (s : State) : Host.Outcome State Fault Refusal :=
  engIssue .salt .kvopen e sa sb sc (tier.setWidth 17) s
/-- KVSEAL (R237, R447). -/
def execKvseal (e : ETok) (sa sb sc : R5) (s : State) : Host.Outcome State Fault Refusal := engIssue .salt .kvseal e sa sb sc 0 s
/-- KVFORK (R238, R447). -/
def execKvfork (e : ETok) (sa sb sc : R5) (s : State) : Host.Outcome State Fault Refusal := engIssue .salt .kvfork e sa sb sc 0 s
/-- KVLEASE (R221, R447). -/
def execKvlease (e : ETok) (sa sb sc : R5) (prio : BitVec 3) (s : State) : Host.Outcome State Fault Refusal :=
  engIssue .salt .kvlease e sa sb sc (prio.setWidth 17) s
/-- KVRELEASE (R222, R447). -/
def execKvrelease (e : ETok) (sa sb : R5) (s : State) : Host.Outcome State Fault Refusal := engIssue .salt .kvrelease e sa sb 0 0 s
/-- RSEAL (R224, R447). -/
def execRseal (e : ETok) (sa sb : R5) (sp : Bool) (s : State) : Host.Outcome State Fault Refusal :=
  engIssue .salt .rseal e sa sb 0 ((BitVec.ofBool sp).setWidth 17) s
/-- RUNSEAL (R225, R447). -/
def execRunseal (e : ETok) (sa sb : R5) (sp : Bool) (s : State) : Host.Outcome State Fault Refusal :=
  engIssue .salt .runseal e sa sb 0 ((BitVec.ofBool sp).setWidth 17) s

end Sys2Proof.Machine
end

