-- ==== Sys2Proof/Machine/Collective.lean ====
section
/-! DEFINITION. The collective engine (R442 to R446): its descriptor, READY and data, the fold of a reduction, the result
record, and the events that carry the other members' messages. -/

namespace Sys2Proof.Machine

/-! ## The descriptor (R442) -/

def cMembers (d : BitVec 512) : W64 := d.extractLsb' 448 64
def cResult (d : BitVec 512) : W64 := d.extractLsb' 384 64
def cCount (d : BitVec 512) : Nat := (d.extractLsb' 352 32).toNat
def cGroup (d : BitVec 512) : BitVec 16 := d.extractLsb' 336 16
def cSeq (d : BitVec 512) : BitVec 16 := d.extractLsb' 320 16
def cMyRank (d : BitVec 512) : Nat := (d.extractLsb' 294 13).toNat
def cPeer (d : BitVec 512) : Nat := (d.extractLsb' 281 13).toNat
def cTy (d : BitVec 512) : Ty := tyOfCode (d.extractLsb' 277 4)
def cOp (d : BitVec 512) : Nat := (d.extractLsb' 275 2).toNat
def cTag (d : BitVec 512) : BitVec 16 := d.extractLsb' 259 16

/-- The types that `COLLRED` accepts (R442). -/
def redTy (t : Ty) : Bool := t == .i32 || t == .i64 || t == .f16 || t == .bf16 || t == .f32 || t == .f64

/-- Whether PEER and TAG have a meaning for an operation. -/
def CmdOp.hasPeer (o : CmdOp) : Bool := o == .collbcast || o == .collsend || o == .collrecv
def CmdOp.hasTag (o : CmdOp) : Bool := o == .collsend || o == .collrecv

/-- The reason for which a descriptor is ill-formed as it stands (R431, R442). -/
def collIll (o : CmdOp) (d : BitVec 512) : Option Byte :=
  let ty := cTy d
  if d.extractLsb' 0 259 != 0 then some 0x04
  else if (cResult d).toNat % 16 != 0 || (cMembers d).toNat % 2 != 0 then some 0x02
  else if cCount d == 0 || decide (2 ^ 26 < cCount d) || decide (4096 < collRanks d) then some 0x03
  else if collBlock d % 64 != 0 || decide (collRanks d ≤ cMyRank d) || decide (collRanks d ≤ cPeer d)
      || ty == .a40 || ty.bits == 4 || cOp d == 3 || (o == .collred && !redTy ty) || (o != .collred && cOp d != 0)
      || (!o.hasPeer && cPeer d != 0) || (!o.hasTag && cTag d != 0) then some 0x07
  else none

/-- Key under which a command keeps its member list. -/
def memberKey : Nat := 2 ^ 60

/-- Key under which a command keeps the poison of a rank's block, where there is any: only a block that has not left the package has. -/
def poisKey (r : Nat) : Nat := 2 ^ 61 + r

/-- Package id of a rank. -/
def Cmd.member (c : Cmd) (r : Nat) : BitVec 12 :=
  BitVec.ofNat 12 (leNat ((((c.blocks.find? fun b => b.1 == memberKey).map (·.2)).getD []).drop (2 * r) |>.take 2))

def Cmd.others (c : Cmd) : List Nat := (List.range (collRanks c.blk0)).filter (· != cMyRank c.blk0)

/-- The ranks that a command receives data from, and those it sends data to (R444). -/
def Cmd.frmRanks (c : Cmd) : List Nat :=
  match c.op with
  | .collred | .collgath | .colla2a => c.others
  | .collbcast => if cPeer c.blk0 = cMyRank c.blk0 then [] else [cPeer c.blk0]
  | .collrecv => [cPeer c.blk0]
  | _ => []
def Cmd.toRanks (c : Cmd) : List Nat :=
  match c.op with
  | .collred | .collgath | .colla2a => c.others
  | .collbcast => if cPeer c.blk0 = cMyRank c.blk0 then c.others else []
  | .collsend => [cPeer c.blk0]
  | _ => []

/-- Bytes of a command's source and of its destination (R444). -/
def Cmd.srcBytes (c : Cmd) : Nat :=
  let b := collBlock c.blk0
  match c.op with
  | .colla2a => collRanks c.blk0 * b
  | .collrecv => 0
  | .collbcast => if cPeer c.blk0 = cMyRank c.blk0 then b else 0
  | _ => b
def Cmd.dstBytes (c : Cmd) : Nat :=
  let b := collBlock c.blk0
  match c.op with
  | .collgath | .colla2a => collRanks c.blk0 * b
  | .collsend => 0
  | _ => b

/-! ## Messages (R443) -/

/-- The flow of an operation's messages (R443). -/
def collFlow (group seq : BitVec 16) : BitVec 24 := group ++ seq.extractLsb' 0 8

/-- Change every collective command in progress, on tiles and in images. -/
def State.mapColl (s : State) (f : BitVec 8 → Cmd → Cmd) : State :=
  let q (g : BitVec 8) (t : Tile) : Tile := { t with ecoll := { t.ecoll with running := t.ecoll.running.map (f g) } }
  { s with
    tiles := s.tiles.map fun (e : Nat × Tile) => (e.1, q (BitVec.ofNat 8 e.1) e.2)
    images := s.images.map fun (e : Nat × Image) => (e.1, { e.2 with tile := q e.2.srctile e.2.tile }) }

/-- A command takes a block that arrives from a package: its group and sequence number, or for `COLLRECV` its group,
sequence number and TAG. -/
def Cmd.takes (c : Cmd) (src : BitVec 12) (group seq tag : BitVec 16) : Option Nat :=
  if c.prog != 1 || cGroup c.blk0 != group || cSeq c.blk0 != seq || cTag c.blk0 != tag then none
  else c.frmRanks.find? fun r => c.member r == src && !c.blocks.any fun b => b.1 == r

/-- Data of a member arrives (R443, R444); a header that does not match makes the operation end with MISMATCH. -/
def State.collData (s : State) (src : BitVec 12) (group seq tag : BitVec 16) (matching : Bool) (data : List PByte) : State :=
  s.mapColl fun _ c =>
    match c.takes src group seq tag with
    | none => c
    | some r =>
      if matching && data.length == collBlock c.blk0 then
        { c with blocks := c.blocks ++ [(r, data.map (·.1))]
            ++ (if data.any (·.2) then [(poisKey r, data.map fun b => if b.2 then 1 else 0)] else []) }
      else { c with mismatch := true }

/-- Send READY to a package; this package's own commands meet within it. -/
def State.collSendReady (s : State) (dst : BitVec 12) (group seq tag : BitVec 16) : State :=
  if dst = s.pkgid then { s with collReady := s.collReady ++ [(dst, group, seq, tag)] } else s.emit (.ready dst group seq tag)

/-- Send a block to a package. -/
def State.collSendData (s : State) (dst : BitVec 12) (group seq tag : BitVec 16) (data : List PByte) : State :=
  if dst = s.pkgid then s.collData dst group seq tag true data else s.emit (.block dst group seq tag (data.map (·.1)))

/-- COLLECTIVE_READY (R443). -/
def execCollectiveReady (src : BitVec 12) (group seq tag : BitVec 16) (s : State) : Host.Outcome State Fault Refusal :=
  event (fun s => { s with collReady := s.collReady ++ [(src, group, seq, tag)] }) s

/-- COLLECTIVE_DATA (R443, R444). -/
def execCollectiveData (src : BitVec 12) (group seq tag : BitVec 16) (matching : Bool) (data : List Byte) (s : State) :
    Host.Outcome State Fault Refusal :=
  event (fun s => s.collData src group seq tag matching (clean data)) s

/-! ## Start (R442, R443, R445) -/

/-- `prog` of a collective command: 0 before its start, 1 in progress, 16 + STATUS once its outcome is another one than OK. -/
def endsWith (status : Nat) : Nat := 16 + status

/-- A member's route mask is empty (R29, R445). -/
def State.collUnreachable (s : State) (c : Cmd) : Bool :=
  (c.frmRanks ++ c.toRanks).any fun r =>
    c.member r != s.pkgid && (s.routeTo (c.member r) (collFlow (cGroup c.blk0) (cSeq c.blk0))).isNone

/-- The engine reads the descriptor and the member list, checks them, and sends READY to the members it receives from. -/
def State.collStart (s : State) (g : BitVec 8) (c : Cmd) : BRes State := do
  illIf (c.a.toNat % 64 != 0 || c.b.toNat % 64 != 0 || c.c.toNat % 64 != 0) s 0x02
  let r ← s.beatRead g .coll c .va c.c.toNat 64
  let v := pNat r.1
  causeIf v.2 r.2 0x2B
  let d : BitVec 512 := BitVec.ofNat 512 v.1
  match collIll c.op d with
  | some n => bIll r.2 n
  | none => do
    let m ← r.2.beatRead g .coll c .va (cMembers d).toNat (2 * collRanks d)
    causeIf (m.1.any (·.2)) m.2 0x2B
    let es := (List.range (collRanks d)).map fun i => leNat (((m.1.map (·.1)).drop (2 * i)).take 2)
    illIf (es.any fun e => decide (4096 ≤ e)) m.2 0x04
    illIf (es.getD (cMyRank d) 0 != s.pkgid.toNat || !decide es.Nodup) m.2 0x07
    let c := { c with blk0 := d, prog := 1, blocks := [(memberKey, m.1.map (·.1))] }
    let s := m.2
    if s.collUnreachable c then .ok (s.putCmd g .coll { c with prog := endsWith 4 })
    else
      let s := c.frmRanks.foldl (fun s r => s.collSendReady (c.member r) (cGroup d) (cSeq d) (cTag d)) s
      .ok (s.putCmd g .coll c)

/-! ## Sending (R443, R444) -/

/-- The READY that lets a command send to a rank: of its own group and sequence number, or for `COLLSEND` the oldest with
its group and TAG. -/
def State.readyFor (s : State) (c : Cmd) (r : Nat) : Option (BitVec 12 × BitVec 16 × BitVec 16 × BitVec 16) :=
  s.collReady.find? fun x => x.1 == c.member r && x.2.1 == cGroup c.blk0
    && (if c.op = .collsend then x.2.2.2 == cTag c.blk0 else x.2.2.1 == cSeq c.blk0)

/-- Send the data that READY messages allow. A poisoned source line raises cause 0x30 before anything leaves the package; within it, the block
carries its poison. -/
def State.collSend (s : State) (g : BitVec 8) (c : Cmd) (src : List PByte) : List Nat → BRes (Cmd × State)
  | [] => .ok (c, s)
  | r :: rs =>
    if c.sent.contains (c.member r) then State.collSend s g c src rs
    else match s.readyFor c r with
      | none => State.collSend s g c src rs
      | some x =>
        if c.member r != s.pkgid && src.any (·.2) then bCause s { code := 0x30 }
        else
          let b := collBlock c.blk0
          let part := if c.op = .colla2a then (src.drop (r * b)).take b else src
          let s := { s with collReady := delFirst (· == x) s.collReady }
          let c := { c with sent := c.sent ++ [c.member r] }
          State.collSend ((s.putCmd g .coll c).collSendData (c.member r) (cGroup c.blk0) x.2.2.1 (cTag c.blk0) part)
            g c src rs

/-! ## Completion (R444, R445) -/

/-- One element of a fold (R444): rounded RNE, no flags, no FTZ. -/
def redElem (ty : Ty) (op : Nat) (a b : Nat) : Nat :=
  match fmtOf ty with
  | some f =>
    let x := f.unpack a
    let y := f.unpack b
    (f.pack 0 false (if op = 0 then fAdd 0 x y else fMinMax (op == 2) x y)).1
  | none =>
    let x := intOf ty a
    let y := intOf ty b
    wrapInt ty.bits (if op = 0 then x + y else if op = 1 then min x y else max x y)

/-- Two blocks folded. -/
def redBlock (ty : Ty) (op : Nat) (a b : List PByte) : List PByte :=
  let k := ty.bits / 8
  (List.range (a.length / k)).flatMap fun i =>
    let x := pNat ((a.drop (k * i)).take k)
    let y := pNat ((b.drop (k * i)).take k)
    (leBytes k (redElem ty op x.1 y.1)).map fun z => (z, x.2 || y.2)

/-- The block of a rank: its own from the source, another's as received, which is clean when it came from another package. -/
def Cmd.blockOf (c : Cmd) (src : List PByte) (r : Nat) : List PByte :=
  let b := collBlock c.blk0
  if r = cMyRank c.blk0 && c.op != .collrecv then (if c.op = .colla2a then (src.drop (r * b)).take b else src)
  else
    let of (k : Nat) : List Byte := ((c.blocks.find? fun x => x.1 == k).map (·.2)).getD []
    (of r).mapIdx fun i x => (x, (of (poisKey r)).getD i 0 != 0)

/-- The bytes of the destination (R444). -/
def Cmd.outcome (c : Cmd) (src : List PByte) : List PByte :=
  let all := (List.range (collRanks c.blk0)).map (c.blockOf src)
  match c.op with
  | .collred =>
    match all with
    | [] => []
    | b :: r => r.foldl (redBlock (cTy c.blk0) (cOp c.blk0)) b
  | .collgath | .colla2a => all.flatten
  | .collbcast | .collrecv => c.blockOf src (cPeer c.blk0)
  | _ => []

/-- Write the destination and the result record. -/
def State.collFinish (s : State) (g : BitVec 8) (c : Cmd) (out : List PByte) (n : W64) (status : Byte) : BRes State := do
  let s ← if out.isEmpty then .ok s else s.beatWrite g .coll c .va c.a.toNat out
  let bits : BitVec 128 := n ++ (0 : BitVec 56) ++ status
  s.beatWrite g .coll c .va (cResult c.blk0).toNat (clean (leBytes 16 bits.toNat))

/-- A collective command runs: `true` when it is done. With another status than OK the destination, and the count of bytes
written, are free values. -/
def State.collGo (s : State) (g : BitVec 8) (c : Cmd) : BRes (State × Bool) := do
  if c.prog = 0 then do
    let s ← s.collStart g c
    .ok (s, false)
  else if c.prog != 1 || c.mismatch then
    let status : Nat := if c.prog != 1 then c.prog - 16 else 3
    let f := s.free (8 * c.dstBytes)
    let k := f.2.free 64
    let s ← k.2.collFinish g c (clean (leBytes c.dstBytes f.1.toNat)) k.1 (BitVec.ofNat 8 status)
    .ok (s, true)
  else do
    let r ← if c.srcBytes = 0 then .ok ([], s) else s.beatRead g .coll c .va c.b.toNat c.srcBytes
    let x ← State.collSend r.2 g c r.1 c.toRanks
    let c := (x.2.cmdOf g .coll c.seq).getD x.1
    if (c.toRanks.all fun r => c.sent.contains (c.member r)) && (c.frmRanks.all fun r => c.blocks.any fun b => b.1 == r) then do
      let s ← x.2.collFinish g c (c.outcome r.1) (BitVec.ofNat 64 c.dstBytes) 0
      .ok (s, true)
    else .ok (x.2, false)

/-- COLLECTIVE_TIMEOUT (R445): 13,000,000 cy after its acceptance the command ends with TIMEOUT, and what it has not used of its operation's READY messages goes. -/
def execCollectiveTimeout (g : BitVec 8) (seq : BitVec 32) (s : State) : Host.Outcome State Fault Refusal :=
  powered (fun s =>
    match s.cmdOf g .coll seq with
    | none => s
    | some c => if c.prog = 1 && decide (c.since + 13000000 ≤ s.cy) then s.putCmd g .coll { c with prog := endsWith 2 } else s) s

/-- A port has gone down (R28, R445): collective messages routed to it fail, and their commands end with LINKDOWN. -/
def State.collLinkDown (s : State) (p : BitVec 4) : State :=
  s.mapColl fun _ c =>
    let through (r : Nat) : Bool :=
      c.member r != s.pkgid && s.routeTo (c.member r) (collFlow (cGroup c.blk0) (cSeq c.blk0)) == some p
    if c.prog = 1 && (c.frmRanks ++ c.toRanks).any through then { c with prog := endsWith 1 } else c

end Sys2Proof.Machine
end

