-- ==== Sys2Proof/Machine/MatrixCore.lean ====
section
/-! DEFINITION. What the matrix engine computes and reads: modes and rates (R283, R405), operand descriptors and their rows
(R407, R408), the sums of the array (R284, R285), adapters (R415, R416), and the arithmetic of the epilogue (R418). -/

namespace Sys2Proof.Machine

/-! ## Modes and rates (R283, R405) -/

inductive MMode where
  | f64 | per | g16 | g32 | int
  deriving DecidableEq, Repr

/-- The mode of an operand pair, `none` where R283 lists none. -/
def pairMode (a b : Ty) : Option MMode :=
  let wide (t : Ty) : Bool := t == .f32 || t == .f16 || t == .bf16
  let e8 (t : Ty) : Bool := t == .e4m3 || t == .e5m2
  let four (t : Ty) : Bool := t == .e2m1 || t == .oi4
  let eight (t : Ty) : Bool := e8 t || t == .i8
  if a = .f64 && b = .f64 then some .f64
  else if wide a || wide b then some .per
  else if a = .i8 && b = .i8 then some .int
  else if eight a && eight b then some .g16
  else if (four a && eight b) || (eight a && four b) then some .g16
  else if four a && four b then some .g32
  else none

/-- The format tag of a mode's accumulator. -/
def MMode.tag : MMode → ZTag
  | .f64 => .f64
  | .int => .i40
  | _ => .a40

/-- KMAX of a weight type's width (R405). -/
def kMax (bits : Nat) (sparse : Bool) : Nat :=
  let d := match bits with
    | 64 => 32
    | 32 => 64
    | 16 => 256
    | 8 => 512
    | _ => 1024
  if sparse then 2 * d else d

/-- The class that a pair needs (R405). -/
def pairClass (bits : Nat) (sparse : Bool) : Nat :=
  (match bits with
    | 64 | 32 => 3
    | 16 => 4
    | 8 => 5
    | _ => 6) + (if sparse then 1 else 0)

/-! ## Operand descriptors (R407) -/

abbrev Desc := BitVec 256

def Desc.addr (d : Desc) : W64 := d.extractLsb' 192 64
def Desc.p0 (d : Desc) : Nat := (d.extractLsb' 160 32).toNat
def Desc.q (d : Desc) : BitVec 32 := d.extractLsb' 128 32
def Desc.saddr (d : Desc) : Nat := (d.extractLsb' 64 64).toNat
def Desc.sstride (d : Desc) : Nat := (d.extractLsb' 48 16).toNat
def Desc.layer (d : Desc) : Nat := (d.extractLsb' 32 16).toNat
def Desc.skind (d : Desc) : Nat := (d.extractLsb' 30 2).toNat
def Desc.kind (d : Desc) : Nat := (d.extractLsb' 27 3).toNat
def Desc.ty (d : Desc) : Ty := tyOfCode (d.extractLsb' 23 4)
def Desc.col0 (d : Desc) : Nat := (d.extractLsb' 7 16).toNat

/-- A descriptor is ill-formed as it stands (R407, R423). -/
def Desc.ill (d : Desc) : Bool :=
  d.extractLsb' 0 7 != 0 || decide (5 < d.kind) || d.skind == 3
    || (d.skind != 0 && !(Desc.ty d).isScaled)
    || (if d.kind ≤ 3 then
          (Desc.addr d).toNat % 16 != 0 || (Desc.q d).toNat % 16 != 0 || d.p0 != 0 || d.layer != 0 || d.col0 != 0
        else if d.kind = 4 then (Desc.addr d).extractLsb' 16 48 != 0 || d.col0 != 0
        else false)

/-! ## A weight block (R409, R410) -/

def wDesc (b : BitVec 512) : Desc := b.extractLsb' 0 256
def wMaddr (b : BitVec 512) : Nat := (b.extractLsb' 448 64).toNat
def wMstride (b : BitVec 512) : Nat := (b.extractLsb' 432 16).toNat
def wK (b : BitVec 512) : Nat := (b.extractLsb' 416 16).toNat
def wMkind (b : BitVec 512) : Nat := (b.extractLsb' 414 2).toNat
def wSparse (b : BitVec 512) : Bool := wMkind b != 0

/-- A weight block is ill-formed as it stands (R409, R410, R423). -/
def weightIll (b : BitVec 512) : Bool :=
  let d := wDesc b
  let ty := Desc.ty d
  Desc.ill d || b.extractLsb' 256 158 != 0 || wMkind b == 3 || !ty.isMatrix || d.kind == 1 || d.kind == 2
    || (wSparse b && (decide (16 < ty.bits) || ty == .oi4))
    || wK b % 32 != 0 || wK b == 0 || decide (kMax ty.bits (wSparse b) < wK b)

/-- The plane that a weight block leads to, as the X-stream views it (R404). -/
def weightView (b : BitVec 512) : PlaneView :=
  { st := if weightIll b then .invalid else .loaded, ty := Desc.ty (wDesc b), sparse := wSparse b }

/-! ## Elements -/

/-- An operand element: its scaled value, whether its use sets NV (a NaN scale, a reserved code), and its poison. -/
structure MEl where
  v : FV
  nv : Bool
  pois : Bool

/-- Codes of `n` elements of width `w` from element `off` of some bytes, with poison. -/
def codesOf (w off n : Nat) (l : List PByte) : List (Nat × Bool) :=
  let v := leNat (l.map (·.1))
  (List.range n).map fun i =>
    let b := (off + i) * w
    (v / 2 ^ b % 2 ^ w, ((l.drop (b / 8)).take ((b + w - 1) / 8 + 1 - b / 8)).any (·.2))

/-- A value under a scale code. -/
def scaled (v : Option FV) (s : Nat × Bool) (pois : Bool) : MEl :=
  match v with
  | none => { v := .nan false, nv := true, pois := pois || s.2 }
  | some x => { v := x.scale s.1, nv := s.1 == 0xFF, pois := pois || s.2 }

/-- The elements of a row: 32 codes to a block scale (R271 to R273); in OI4 a poisoned nibble poisons its block. -/
def rowVals (ty : Ty) (codes : List (Nat × Bool)) (scales : List (Nat × Bool)) : List MEl :=
  (blocks32 (codes.length / 32 + 1) codes).mapIdx (fun i b =>
    let s := scales.getD i (0x7F, false)
    let vs := if ty = .oi4 then oi4Decode (b.map (·.1)) else b.map fun c => some (valOf ty c.1)
    let bad := ty == .oi4 && b.any (·.2)
    (vs.zip b).map fun x => scaled x.1 s (x.2.2 || bad)) |>.flatten

/-! ## The array (R284, R285) -/

/-- An accumulator element while its terms are added: container code, flags, poison. -/
structure ZEl where
  c : Nat
  fl : BitVec 6
  pois : Bool

/-- An exact result as a value; a NaN that sets NV keeps doing so. -/
def XR.toFV : XR → FV
  | .nan v => .nan v
  | .inf n => .inf n
  | .num n m e _ => .fin n m e

/-- The starting value of a floating accumulator: a subnormal is read as a zero under FTZ (R279). -/
def zStart (f : Fmt) (ftz : Bool) (c : Nat) : Nat :=
  let v := f.unpack c
  let w := f.flushIn ftz v
  if w = v then c else (f.pack 0 false w.exact).1

/-- One rounding into a floating accumulator. -/
def zRound (f : Fmt) (ftz : Bool) (z : ZEl) (x : XR) (nv pois : Bool) : ZEl :=
  let r := f.pack 0 ftz x
  { c := r.1, fl := z.fl ||| r.2 ||| (if nv then fNV else 0), pois := z.pois || pois }

/-- A term: a pair of elements, `none` where the weight is absent. -/
abbrev Term := Option (MEl × MEl)

/-- The terms added one by one, each product rounded into the accumulator. -/
def perTerms (f : Fmt) (ftz : Bool) (z : ZEl) (ts : List Term) : ZEl :=
  ts.foldl (fun z t => match t with
    | none => z
    | some (a, w) =>
      let av := if f == fF64 then f.flushIn ftz a.v else a.v
      let wv := if f == fF64 then f.flushIn ftz w.v else w.v
      zRound f ftz z (fFma 0 av wv (f.unpack z.c)) (a.nv || w.nv) (a.pois || w.pois)) z

/-- The exact sum of a group's products; `none` for a group without present terms. -/
def groupSum (ts : List Term) : Option FV :=
  ts.foldl (fun acc t => match t with
    | none => acc
    | some (a, w) =>
      let p := (fMul a.v w.v).toFV
      match acc with
      | none => some p
      | some s => some (fAdd 0 s p).toFV) none

/-- The terms added group by group of `n` dense indices. -/
def groupTerms (n : Nat) (ftz : Bool) : (fuel : Nat) → ZEl → List Term → ZEl
  | 0, z, _ => z
  | k + 1, z, ts =>
    if ts.isEmpty then z
    else
      let g := ts.take n
      let nv := g.any fun t => match t with | some (a, w) => a.nv || w.nv | none => false
      let po := g.any fun t => match t with | some (a, w) => a.pois || w.pois | none => false
      let z := match groupSum g with
        | none => z
        | some s => zRound fA40 ftz z (fAdd 0 (fA40.unpack z.c) s) nv po
      groupTerms n ftz k z (ts.drop n)

/-- An element's value as an integer; every element of an integer pair is one. -/
def FV.int : FV → Int
  | .fin n m e => (if n then -1 else 1) * ((m * 2 ^ e.toNat : Nat) : Int)
  | _ => 0

/-- What an accumulator container holds as an I40: bits [39:0], whatever the upper bits are (R270). -/
def i40Of (c : Nat) : Int := intOf .i64 (contain .i40 (BitVec.ofNat 64 c)).toNat

/-- The terms of the integer mode: each sum saturates at 40 bits. -/
def intTerms (z : ZEl) (ts : List Term) : ZEl :=
  ts.foldl (fun z t => match t with
    | none => z
    | some (a, w) =>
      let r := satInt true 40 (i40Of z.c + a.v.int * w.v.int)
      { c := (contain .i40 (BitVec.ofNat 64 r.1)).toNat, fl := z.fl ||| r.2, pois := z.pois || a.pois || w.pois }) z

/-- The base terms of one element (R284). -/
def addTerms (m : MMode) (ftz : Bool) (z : ZEl) (ts : List Term) : ZEl :=
  match m with
  | .f64 => perTerms fF64 ftz { z with c := zStart fF64 ftz z.c } ts
  | .per => perTerms fA40 ftz { z with c := zStart fA40 ftz (z.c % 2 ^ 40) } ts
  | .g16 => groupTerms 16 ftz ts.length { z with c := zStart fA40 ftz (z.c % 2 ^ 40) } ts
  | .g32 => groupTerms 32 ftz ts.length { z with c := zStart fA40 ftz (z.c % 2 ^ 40) } ts
  | .int => intTerms z ts

/-! ## Reading rows (R408) -/

/-- Read a range in one beat; with `must`, bytes that are not sealed make the command ill-formed (R410). -/
def State.matRead (s : State) (g : BitVec 8) (c : Cmd) (sp : Space) (addr n : Nat) (must : Bool) :
    BRes (List PByte × State) := do
  levelIll s sp addr n
  let x ← s.beatXl g .matrix c.seq (sp.needs addr n .read)
  illIf (must && (match sp with
    | .va => x.1.any fun p => !leafSeal p.2
    | .spa => !(s.tile g).spadAllSealed addr n
    | _ => true)) x.2 0
  let s ← x.2.beatGo g c (sp.entries .matrix addr n) x.1
  .ok (s.engRead g sp addr n x.1)

/-- The scale codes of row `q`: `n` of them; a factor of 1 where the operand has none. -/
def State.scaleRow (s : State) (g : BitVec 8) (c : Cmd) (d : Desc) (q n : Nat) (must : Bool) :
    BRes (List (Nat × Bool) × State) :=
  if d.skind = 0 then .ok ([], s)
  else do
    let r ← s.matRead g c (if d.skind = 1 then .spa else .va) (d.saddr + q * d.sstride) n must
    .ok (r.1.map fun b => (b.1.toNat, b.2), r.2)

/-- The space of a descriptor of KIND 0 to 3. -/
def Desc.space (d : Desc) : Space :=
  match d.kind with
  | 0 => .spa
  | 1 => .cma
  | 2 => .ssa
  | _ => .va

/-- The coordinates of element `k` of row `q` of a tensor operand (R209, R407). -/
def Desc.coords (d : Desc) (t : Tns) (q k : Nat) : List Nat := t.known [(Desc.q d).toNat + k, d.p0 + q, d.layer, 0]

/-- Whether every coordinate is in bounds (R210). -/
def Tns.within (t : Tns) (co : List Nat) : Bool := t.inside co && decide (co.getD 0 0 < t.dim.getD 0 0)

/-- A tensor operand's element type must be the one its descriptor names (log entry 44). -/
def State.matTensor (s : State) (g : BitVec 8) (c : Cmd) (d : Desc) : BRes (Tns × Cmd × State) := do
  let t ← s.tensor g .matrix c ((Desc.addr d).setWidth 16)
  illIf (tyOfCode t.1.ty != Desc.ty d) t.2.2 0
  .ok t

/-- Where an element of a tensor lies: byte address, and which nibble of a 4-bit type; `none` out of bounds. -/
def State.tnsElem (s : State) (g : BitVec 8) (c : Cmd) (h : BitVec 16) (t : Tns) (co : List Nat) :
    BRes (Option (Nat × Nat) × Cmd × State) :=
  if !t.within co then (if t.oob then bCause s { code := 0x28 } else .ok (none, c, s))
  else do
    let p := t.place co
    let x ← s.tileAt g .matrix c h t p.1
    .ok (some (x.1.toNat + p.2 * t.bits / 8, p.2 * t.bits / 4 % 2), x.2)

/-- Elements of row `q` of a tensor operand, from the `k`th on. -/
def State.tnsRow (g : BitVec 8) (d : Desc) (t : Tns) (q : Nat) (must : Bool) :
    (n k : Nat) → Cmd → State → BRes (List (Nat × Bool) × Cmd × State)
  | 0, _, c, s => .ok ([], c, s)
  | n + 1, k, c, s => do
    let x ← s.tnsElem g c ((Desc.addr d).setWidth 16) t (Desc.coords d t q k)
    match x.1 with
    | none =>
      let r ← State.tnsRow g d t q must n (k + 1) x.2.1 x.2.2
      .ok ((0, false) :: r.1, r.2)
    | some (a, nib) =>
      let b ← x.2.2.matRead g x.2.1 .va a ((t.bits + 7) / 8) must
      let e := codesOf t.bits (if t.bits = 4 then nib else 0) 1 b.1
      let r ← State.tnsRow g d t q must n (k + 1) x.2.1 b.2
      .ok (e ++ r.1, r.2)

/-- The codes of `n` elements of row `q` of an operand. -/
def State.matRow (s : State) (g : BitVec 8) (c : Cmd) (d : Desc) (q n : Nat) (must : Bool) :
    BRes (List (Nat × Bool) × Cmd × State) := do
  let w := (Desc.ty d).bits
  if d.kind ≤ 3 then
    let r ← s.matRead g c d.space ((Desc.addr d).toNat + q * (Desc.q d).toNat) (n * w / 8) must
    .ok (codesOf w 0 n r.1, c, r.2)
  else if d.kind = 4 then
    let t ← s.matTensor g c d
    State.tnsRow g d t.1 q must n 0 t.2.1 t.2.2
  else
    let r ← s.resolve g .matrix c (Desc.q d) (Desc.addr d) (d.p0 + q) d.layer false
    let p := r.1
    illIf (decide (8 * (2 ^ p.ns.log2lb / 64) < (d.col0 + n) * w) || (must && p.nd.st != .sealed)) r.2.2 0
    let first := d.col0 * w / 8
    let b ← r.2.2.readNode g .matrix r.2.1 p first (((d.col0 + n) * w + 7) / 8 - first)
    .ok (codesOf w (d.col0 - 8 * first / w) n b, r.2.1, r.2.2)

/-- The scaled elements of row `q` of an operand. -/
def State.matVals (s : State) (g : BitVec 8) (c : Cmd) (d : Desc) (q n : Nat) : BRes (List MEl × Cmd × State) := do
  let r ← s.matRow g c d q n false
  let k ← r.2.2.scaleRow g r.2.1 d q (n / 32) false
  .ok (rowVals (Desc.ty d) r.1 k.1, r.2.1, k.2)

/-- Rows `q` to `q + rows − 1` of an operand. -/
def State.matRows (g : BitVec 8) (d : Desc) (n : Nat) : (rows q : Nat) → Cmd → State → BRes (List (List MEl) × Cmd × State)
  | 0, _, c, s => .ok ([], c, s)
  | k + 1, q, c, s => do
    let r ← s.matVals g c d q n
    let t ← State.matRows g d n k (q + 1) r.2.1 r.2.2
    .ok (r.1 :: t.1, t.2)

/-! ## Loading a plane (R409, R410) -/

/-- The dense indices that a row's metadata marks, and whether each nibble has exactly two bits set. -/
def metaRow (k : Nat) (l : List PByte) : List (Bool × Bool) × Bool :=
  let bits := codesOf 1 0 k l
  (bits.map fun b => (b.1 == 1, b.2),
   (List.range (k / 4)).all fun g => ((bits.drop (4 * g)).take 4).foldl (fun n b => n + b.1) 0 == 2)

/-- Lay present codes at the dense indices that the metadata marks; the metadata's poison goes with what it selects. -/
def spreadRow : List (Bool × Bool) → List (Nat × Bool) → List (Option (Nat × Bool))
  | [], _ => []
  | (true, p) :: r, c :: cs => some (c.1, c.2 || p) :: spreadRow r cs
  | (true, p) :: r, [] => some (0, p) :: spreadRow r []
  | (false, _) :: r, cs => none :: spreadRow r cs

/-- What one weight row latches: its codes at dense indices, its scale codes, its poison. -/
structure WRow where
  codes : List (Option Nat)
  scales : List Nat
  pois : List Bool

/-- Read one weight row. -/
def State.weightRow (s : State) (g : BitVec 8) (c : Cmd) (b : BitVec 512) (n : Nat) : BRes (WRow × Cmd × State) := do
  let d := wDesc b
  let k := wK b
  let r ← s.matRow g c d n (if wSparse b then k / 2 else k) true
  let sc ← r.2.2.scaleRow g r.2.1 d n (k / 32) true
  if wSparse b then do
    let m ← sc.2.matRead g r.2.1 (if wMkind b = 1 then .spa else .va) (wMaddr b + n * wMstride b) (k / 8) true
    let mr := metaRow k m.1
    illIf (!mr.2) m.2 0
    let es := spreadRow mr.1 r.1
    .ok ({ codes := es.map fun e => e.map (·.1), scales := sc.1.map (·.1),
           pois := es.mapIdx fun i e => (e.map (·.2)).getD false || (sc.1.getD (i / 32) (0x7F, false)).2 }, r.2.1, m.2)
  else
    .ok ({ codes := r.1.map fun e => some e.1, scales := sc.1.map (·.1),
           pois := r.1.mapIdx fun i e => e.2 || (sc.1.getD (i / 32) (0x7F, false)).2 }, r.2.1, sc.2)

def State.weightRows (g : BitVec 8) (b : BitVec 512) : (rows n : Nat) → Cmd → State → BRes (List WRow × Cmd × State)
  | 0, _, c, s => .ok ([], c, s)
  | k + 1, n, c, s => do
    let r ← s.weightRow g c b n
    let t ← State.weightRows g b k (n + 1) r.2.1 r.2.2
    .ok (r.1 :: t.1, t.2)

/-- The elements of weight row `n` of a plane at their dense indices. -/
def Plane.row (p : Plane) (n : Nat) : List (Option MEl) :=
  let cs := p.rows.getD n []
  let po := p.pois.getD n []
  let vs := rowVals p.ty ((cs.zip po).map fun x => (x.1.getD 0, x.2)) ((p.scales.getD n []).map fun s => (s, false))
  (cs.zip vs).map fun x => x.1.map fun _ => x.2

/-! ## Adapters (R415, R416) -/

/-- A segment of an `MMAS` (R415). -/
structure Seg where
  row0 : Nat
  nrows : Nat
  handle : Nat
  rsvd : Bool

def segHdr (t : BitVec 4224) : BitVec 128 := t.extractLsb' 0 128
def segNseg (t : BitVec 4224) : Nat := ((segHdr t).extractLsb' 112 16).toNat
def segK0 (t : BitVec 4224) : Nat := ((segHdr t).extractLsb' 64 32).toNat
def segN0 (t : BitVec 4224) : Nat := ((segHdr t).extractLsb' 32 32).toNat
def segs (t : BitVec 4224) : List Seg :=
  (List.range (Nat.min 32 (segNseg t))).map fun i =>
    let e : BitVec 128 := t.extractLsb' (128 * (i + 1)) 128
    { row0 := (e.extractLsb' 96 32).toNat, nrows := (e.extractLsb' 64 32).toNat, handle := (e.extractLsb' 48 16).toNat
      rsvd := e.extractLsb' 0 48 != 0 }

/-- The entries cover rows from `lo` up to `hi` once, in ascending order, without gaps. -/
def segsCover : (lo hi : Nat) → List Seg → Bool
  | lo, hi, [] => lo == hi
  | lo, hi, e :: r => e.row0 == lo && e.nrows != 0 && !e.rsvd && segsCover (lo + e.nrows) hi r

/-- The residency entry of an adapter handle that a tile's context may use (R415). -/
def State.adapterEntry (s : State) (g : BitVec 8) (h : Nat) : Option (BitVec 512) :=
  if 16384 ≤ h then none
  else (s.resEntry h).bind fun e =>
    if resValid e && resKind e && some (resClass e) == (s.tile g).holder then some e else none

/-- A segment table breaks R415 for a command of some row blocks. -/
def State.segsIll (s : State) (g : BitVec 8) (t : BitVec 4224) (rows : Nat) : Bool :=
  segNseg t == 0 || decide (32 < segNseg t) || (segHdr t).extractLsb' 96 16 != 0 || (segHdr t).extractLsb' 0 32 != 0
    || !segsCover 0 rows (segs t) || (segs t).any fun e => e.handle != 0 && (s.adapterEntry g e.handle).isNone

/-- An adapter as fetched: Dᵀ's slice, row by row, and Uᵀ's slice, row by row. -/
structure Adapter where
  d : List (List MEl)
  u : List (List MEl)

/-- Rows of an adapter's matrix: `n` elements of type `ty` from `first` of rows `i` on. -/
def State.adapterRows (g : BitVec 8) (ty : Ty) (base stride first n : Nat) :
    (rows i : Nat) → Cmd → State → BRes (List (List MEl) × State)
  | 0, _, _, s => .ok ([], s)
  | k + 1, i, c, s => do
    let w := ty.bits
    let b ← s.matRead g c .va ((base + i * stride + first * w / 8) % 2 ^ 64) (n * w / 8) true
    let t ← State.adapterRows g ty base stride first n k (i + 1) c b.2
    .ok (rowVals ty (codesOf w 0 n b.1) [] :: t.1, t.2)

def adapterTy (t : Ty) : Bool := t == .f16 || t == .bf16 || t == .f32

/-- Fetch the slice of a segment's adapter that a command uses (R416). -/
def State.adapter (s : State) (g : BitVec 8) (c : Cmd) (h k : Nat) : BRes (Adapter × State) :=
  match s.adapterEntry g h with
  | none => bIll s 0
  | some e => do
    let base := (resVaBase e).toNat
    let b ← s.matRead g c .va base 64 true
    let v := pNat b.1
    causeIf v.2 b.2 0x2B
    let x : BitVec 512 := BitVec.ofNat 512 v.1
    let rank := (x.extractLsb' 496 16).toNat
    let tyd := tyOfCode (x.extractLsb' 492 4)
    let tyu := tyOfCode (x.extractLsb' 488 4)
    let dstr := (x.extractLsb' 288 32).toNat
    let ustr := (x.extractLsb' 256 32).toNat
    illIf (rank == 0 || decide (32 < rank) || !adapterTy tyd || !adapterTy tyu || x.extractLsb' 480 8 != 0
      || x.extractLsb' 384 32 != 0 || x.extractLsb' 0 192 != 0
      || decide ((x.extractLsb' 448 32).toNat < segK0 c.blk2 + k) || decide ((x.extractLsb' 416 32).toNat < segN0 c.blk2 + 32)
      || dstr % 64 != 0 || ustr % 64 != 0) b.2 0
    let d ← State.adapterRows g tyd (base + (x.extractLsb' 320 64).toNat) dstr (segK0 c.blk2) k rank 0 c b.2
    let u ← State.adapterRows g tyu (base + (x.extractLsb' 192 64).toNat + segN0 c.blk2 * ustr) ustr 0 rank 32 0 c d.2
    .ok ({ d := d.1, u := u.1 }, u.2)

/-- The adapter's intermediate h of one activation row: one element per rank, with the flags of its roundings. -/
def adapterH (a : Adapter) (adty ftz : Bool) (row : List MEl) : List MEl × BitVec 6 :=
  let f := if adty then fBF16 else fF32
  let hs := a.d.map fun dr =>
    let u := perTerms fA40 ftz { c := 0, fl := 0, pois := false } ((row.zip dr).map some)
    let h := f.pack 0 ftz (fA40.unpack u.c).exact
    (({ v := f.unpack h.1, nv := false, pois := u.pois } : MEl), if u.pois then 0 else u.fl ||| h.2)
  (hs.map (·.1), hs.foldl (fun x h => x ||| h.2) 0)

/-! ## The epilogue's arithmetic (R417, R418) -/

abbrev Epi := BitVec 512

def Epi.desc (b : Epi) : Desc := b.extractLsb' 0 256
def Epi.bias (b : Epi) : Nat := (b.extractLsb' 448 64).toNat
def Epi.alpha (b : Epi) : Nat := (b.extractLsb' 416 32).toNat
def Epi.os8 (b : Epi) : Nat := (b.extractLsb' 408 8).toNat
def Epi.actK (b : Epi) : Nat := (b.extractLsb' 406 2).toNat
def Epi.ben (b : Epi) : Bool := b.getLsbD 405
def Epi.sat (b : Epi) : Bool := b.getLsbD 404

/-- An epilogue block is ill-formed for a stored type (R417, R420, R423). -/
def Epi.ill (b : Epi) (want : Option Ty) : Bool :=
  let d := Epi.desc b
  Desc.ill d || b.extractLsb' 256 148 != 0 || Epi.actK b == 3 || Desc.ty d == .a40
    || (match want with | some t => Desc.ty d != t | none => false)
    || (Epi.ben b && (Epi.bias b % 16 != 0 || decide (2 ^ 21 < Epi.bias b + 128)))

/-- The value that the epilogue starts from: the container of a tag converted to F32 or F64. -/
def epiIn (tag : ZTag) (f64 : Bool) (rm : BitVec 2) (ftz : Bool) (c : Nat) : Nat × BitVec 6 :=
  let dst : Ty := if f64 then .f64 else .f32
  match tag with
  | .f64 => (c, 0)
  | .a40 => cvtElem dst .a40 rm ftz false none (some (fA40.unpack (c % 2 ^ 40))) c
  | .i40 => cvtElem dst .i64 rm ftz false none (some (.ofInt (i40Of c))) c

/-- One element after scale, bias and activation, in the format `f`: code and flags. -/
def epiElem (f : Fmt) (b : Epi) (leak : BitVec 16) (rm : BitVec 2) (ftz : Bool) (e : Nat) (bias : Nat) : Nat × BitVec 6 :=
  let al := f.flushIn ftz (fF32.unpack (Epi.alpha b))
  let bi : FV := if Epi.ben b then f.flushIn ftz (fF32.unpack bias) else .fin false 0 0
  let x := f.pack rm ftz (fFma rm (f.flushIn ftz (f.unpack e)) al bi)
  if Epi.actK b = 1 then
    let y := f.pack rm ftz (fMinMax true (f.unpack x.1) (.fin false 0 0))
    (y.1, x.2 ||| y.2)
  else if Epi.actK b = 2 && fCmp (f.unpack x.1) (.fin false 0 0) == some .lt then
    let y := f.pack rm ftz (fMul (f.unpack x.1) (f.flushIn ftz (fBF16.unpack leak.toNat)))
    (y.1, x.2 ||| y.2)
  else x

/-- One output row from 32 containers of a tag with poison: codes with poison, and flags. -/
def epiRow (tag : ZTag) (b : Epi) (leak : BitVec 16) (rm : BitVec 2) (ftz : Bool) (bias : List (Nat × Bool))
    (z : List (Nat × Bool)) : List (Nat × Bool) × BitVec 6 :=
  let sty := Desc.ty (Epi.desc b)
  if tag = .i40 && sty.isInt && Epi.alpha b = 0x3F800000 && !Epi.ben b && Epi.actK b = 0 then
    cvtBlock sty .i64 rm ftz (Epi.sat b) none false (z.map fun e => (contain .i40 (BitVec.ofNat 64 e.1)).toNat) (z.map (·.2))
  else
    let f64 := tag == .f64 || sty == .f64
    let f := if f64 then fF64 else fF32
    let es := z.mapIdx fun n e =>
      let bi := if Epi.ben b then bias.getD n (0, false) else (0, false)
      let i := epiIn tag f64 rm ftz e.1
      let o := epiElem f b leak rm ftz i.1 bi.1
      let p := e.2 || bi.2
      (o.1, p, if p then (0 : BitVec 6) else i.2 ||| o.2)
    let fl := es.foldl (fun x e => x ||| e.2.2) 0
    let src : Ty := if f64 then .f64 else .f32
    let sc := if sty.isScaled then some (Epi.os8 b) else none
    if sty = src then (es.map fun e => (e.1, e.2.1), fl)
    else
      let r := cvtBlock sty src rm ftz false sc false (es.map (·.1)) (es.map (·.2.1))
      (r.1, fl ||| r.2)

end Sys2Proof.Machine
end

