-- ==== Sys2Proof/Machine/Matrix.lean ====
section
/-! DEFINITION. The matrix engine: the issue of its commands and their snapshot (R403, R404), what they do (R409 to R423), and
the accumulator and configuration instructions (R424 to R426). -/

namespace Sys2Proof.Machine

/-! ## Issue (R403, R404) -/

/-- A block that a command names: its address, alignment and size. -/
structure Blk where
  addr : W64
  align : Nat
  size : Nat

/-- Bytes of a segment table: its header and its entries, at most 32 (R415). -/
def segBytes (s : State) (g : BitVec 8) (a : W64) : Nat :=
  16 + 16 * Nat.min 32 (s.rdNat (spadBase g.toNat + a.toNat % 2 ^ 21 + 14) 2)

/-- IMM17 of the compute commands (R412, R420). -/
def Cmd.nrb (c : Cmd) : Nat := (c.imm.extractLsb' 8 9).toNat + 1
def Cmd.epi (c : Cmd) : Bool := c.op == .mepi || c.imm.getLsbD 7
def Cmd.zeroed (c : Cmd) : Bool := c.imm.getLsbD 6
def Cmd.nz (c : Cmd) : Nat := (c.imm.extractLsb' 3 3).toNat + 1
def Cmd.zAt (c : Cmd) (b : Nat) : BitVec 3 := c.imm.extractLsb' 0 3 + BitVec.ofNat 3 (b % c.nz)

/-- The blocks of a command: first, epilogue, segment table. -/
def Cmd.blks (c : Cmd) (s : State) (g : BitVec 8) : List Blk :=
  match c.op with
  | .mwld | .mepi => [{ addr := c.a, align := 64, size := 64 }]
  | .mma | .mmas =>
    [({ addr := c.a, align := 32, size := 32 } : Blk)] ++ (if c.epi then [{ addr := c.b, align := 64, size := 64 }] else [])
      ++ (if c.op = .mmas then [{ addr := c.c, align := 16, size := segBytes s g c.c }] else [])
  | _ => []

def blkOut (b : Blk) : Bool := decide (2 ^ 21 < b.addr.toNat + b.size)

/-- Order 5 of R403: the pair against the active view (cause 0x05), the class (cause 0x74). With no LOADED plane there is no pair; every pair
needs class 3 at least (R38, R405). -/
def matrixCheck (s : State) (g : BitVec 8) (c : Cmd) : Res Unit :=
  match c.op with
  | .mma | .mmas =>
    let v := (s.tile g).viewA
    if v.st != .loaded then needClass s g 3
    else
      match pairMode c.ty v.ty with
      | none => trapIn s { code := 0x05 }
      | some m => do
        raiseIf (v.sparse && decide (16 < c.ty.bits)) s 0x05
        raiseIf (c.op == .mmas && (m == .f64 || m == .int)) s 0x05
        needClass s g (pairClass (Nat.max c.ty.bits v.ty.bits) v.sparse)
  | _ => needClass s g 3

/-- The X-stream's views after a command has issued (R404). -/
def Tile.viewAfter (t : Tile) (c : Cmd) : Tile :=
  if t.emat.halted then (if c.op = .mwld then { t with viewS := { st := .invalid, ty := .i8, sparse := false } } else t)
  else match c.op with
    | .mwld => { t with viewS := weightView c.blk0 }
    | .mswap => { t with viewA := t.viewS, viewS := t.viewA }
    | .mmas => { t with viewS := PlaneView.reset }
    | _ => t

/-- A command with its snapshot: its blocks, FCTL and MCFG (R403). -/
def Cmd.snapped (c : Cmd) (s : State) (g : BitVec 8) : Cmd :=
  let at_ (a : W64) (n : Nat) : Nat := s.rdNat (spadBase g.toNat + a.toNat) n
  let f := s.rdFctl g
  let t := s.tile g
  let c := { c with rm := f.1, ftz := f.2, leak := t.leak, adty := t.adty }
  match c.op with
  | .mwld => { c with blk0 := BitVec.ofNat 512 (at_ c.a 64) }
  | .mepi => { c with blk1 := BitVec.ofNat 512 (at_ c.a 64) }
  | .mma | .mmas =>
    { c with
      blk0 := BitVec.ofNat 512 (at_ c.a 32)
      blk1 := if c.epi then BitVec.ofNat 512 (at_ c.b 64) else 0
      blk2 := if c.op = .mmas then BitVec.ofNat 4224 (at_ c.c (segBytes s g c.c)) else 0 }
  | _ => c

/-- A matrix command of the X-stream. -/
def matrixIssue (op : CmdOp) (y : Ty) (k : ETok) (sa sb sc : R5) (imm : BitVec 17) (s : State) :
    Host.Outcome State Fault Refusal :=
  issue .x 2 (fun g st s => do
    s.waitCmd g (some .matrix) k
    let r ← s.rd3 g st sa sb sc
    let s := r.2.2.2
    let c := { mkCmd (s.tile g) op st k r.1 r.2.1 r.2.2.1 imm with ty := y }
    let bs := c.blks s g
    match bs.find? fun b => b.addr.toNat % b.align != 0, bs.find? blkOut with
    | some b, _ => trapIn s { code := 0x07, tval := b.addr, aKind := 3 }
    | none, some b => trapIn s { code := 0x29, tval := b.addr, aKind := 3 }
    | none, none => do
      raiseIf (bs.any fun b => s.poisoned (spadBase g.toNat + b.addr.toNat) b.size) s 0x2B
      matrixCheck s g c
      let s ← if bs.isEmpty then .ok s else s.useUnit g .x .ls1 1
      let c := c.snapped s g
      .ok ((s.modTile g fun t => t.viewAfter c).pushCmd g .matrix c)) s

/-- MWLD (R403, R404, R409). -/
def execMwld (e : ETok) (sa : R5) (s : State) : Host.Outcome State Fault Refusal := matrixIssue .mwld .i8 e sa 0 0 0 s
/-- MSWAP (R404, R411). -/
def execMswap (e : ETok) (s : State) : Host.Outcome State Fault Refusal := matrixIssue .mswap .i8 e 0 0 0 0 s
/-- MMA (R403, R404, R412). -/
def execMma (y : Ty) (e : ETok) (sa sb : R5) (nrb : BitVec 9) (epi zero : Bool) (nz z : BitVec 3) (s : State) :
    Host.Outcome State Fault Refusal :=
  matrixIssue .mma y e sa sb 0 (nrb ++ BitVec.ofBool epi ++ BitVec.ofBool zero ++ nz ++ z) s
/-- MMAS (R403, R404, R412, R415). -/
def execMmas (y : Ty) (e : ETok) (sa sb sc : R5) (nrb : BitVec 9) (epi zero : Bool) (nz z : BitVec 3) (s : State) :
    Host.Outcome State Fault Refusal :=
  matrixIssue .mmas y e sa sb sc (nrb ++ BitVec.ofBool epi ++ BitVec.ofBool zero ++ nz ++ z) s
/-- MEPI (R403, R404, R420). -/
def execMepi (y : Ty) (e : ETok) (sa : R5) (nz z : BitVec 3) (s : State) : Host.Outcome State Fault Refusal :=
  matrixIssue .mepi y e sa 0 0 ((0 : BitVec 11) ++ nz ++ z) s

/-! ## Starting a compute command (R413, R415, R421, R423) -/

/-- The checks of a compute command as it starts; its row progress begins. -/
def State.computeStart (s : State) (g : BitVec 8) (c : Cmd) : BRes (Cmd × State) := do
  let t := s.tile g
  illIf (c.epi && Epi.ill c.blk1 (if c.op = .mepi then some c.ty else none)) s 0
  if c.op = .mepi then
    .ok ({ c with prog := 1, rb := c.nz, eb := 0 }, s)
  else do
    let d : Desc := c.blk0.extractLsb' 0 256
    illIf (t.active.st != .loaded || Desc.ill d || Desc.ty d != c.ty) s 0
    match pairMode c.ty t.active.ty with
    | none => bIll s 0
    | some m => do
      illIf (t.active.sparse && decide (16 < c.ty.bits)) s 0
      illIf (c.op == .mmas && (m == .f64 || m == .int || t.shadow.st == .loaded || s.segsIll g c.blk2 (32 * c.nrb))) s 0
      .ok ({ c with prog := 1, rb := 0, eb := 0 }, s)

/-! ## A row block (R413, R416) -/

/-- Element `i` of a tile as its tag reads the container (R270), with poison. -/
def ZTile.at (z : ZTile) (i : Nat) : Nat × Bool :=
  ((contain z.tag (BitVec.ofNat 64 (z.data.toNat / 2 ^ (64 * i)))).toNat, z.pois.getLsbD i)

/-- A tile written whole. -/
def ZTile.whole (tag : ZTag) (l : List (Nat × Bool)) : ZTile where
  data := BitVec.ofNat 65536 (l.foldr (fun e n => e.1 % 2 ^ 64 + 2 ^ 64 * n) 0)
  pois := BitVec.ofNat 1024 (l.foldr (fun e n => (if e.2 then 1 else 0) + 2 * n) 0)
  tag := tag
  valid := true

/-- The adapters of the segments that meet rows `lo` to `lo + 31`, by segment. -/
def State.adapters (g : BitVec 8) (c : Cmd) (k lo : Nat) : List Seg → State → BRes (List (Seg × Adapter) × State)
  | [], s => .ok ([], s)
  | e :: r, s =>
    if e.handle != 0 && decide (e.row0 < lo + 32) && decide (lo < e.row0 + e.nrows) then do
      let a ← s.adapter g c e.handle k
      let t ← State.adapters g c k lo r a.2
      .ok ((e, a.1) :: t.1, t.2)
    else State.adapters g c k lo r s

/-- One row of a block: 32 elements from their starting values. -/
def rowBlockRow (m : MMode) (ftz : Bool) (cols : List (List (Option MEl))) (row : List MEl)
    (low : Option (List MEl × Adapter)) (z : List ZEl) : List ZEl :=
  (z.zip cols).mapIdx fun n x =>
    let ts := (row.zip x.2).map fun p => p.2.map fun w => (p.1, w)
    let acc := addTerms m ftz x.1 ts
    match low with
    | none => acc
    | some (h, a) => perTerms fA40 ftz acc ((h.zip (a.u.getD n [])).map some)

/-- A row block does not commit to a tile that a block before it has committed to under an epilogue and not released, whichever command that
block is of (R406, R414, R419). -/
def State.zHeld (s : State) (g : BitVec 8) (z : BitVec 3) : Bool :=
  (s.tile g).emat.running.any fun x =>
    x.prog != 0 && x.epi && x.op != .mepi && (List.range x.rb).any fun b => decide (x.eb ≤ b) && x.zAt b == z

/-- Row block `b` of `MMA` or `MMAS`: computed from its starting value and committed (R413). -/
def State.rowBlock (s : State) (g : BitVec 8) (c : Cmd) (b : Nat) : BRes (Cmd × State) := do
  let t := s.tile g
  let p := t.active
  let zi := c.zAt b
  let z := t.ztile zi
  match pairMode c.ty p.ty with
  | none => bIll s 0
  | some m => do
    if s.zHeld g zi then bWait s else .ok ()
    let fresh := c.zeroed || decide (c.nz ≤ b)
    if !fresh && !z.valid then bCause s { code := 0x5D }
    else do
      illIf (!fresh && z.tag != m.tag) s 0
      let r ← State.matRows g (c.blk0.extractLsb' 0 256) p.k 32 (32 * b) c s
      let c := r.2.1
      let ad ← State.adapters g c p.k (32 * b) (if c.op = .mmas then segs c.blk2 else []) r.2.2
      let cols := (List.range 32).map p.row
      let rows := r.1.mapIdx fun i row =>
        let low := (ad.1.find? fun e => e.1.row0 ≤ 32 * b + i && 32 * b + i < e.1.row0 + e.1.nrows).map fun e =>
          (adapterH e.2 c.adty c.ftz row, e.2)
        let z0 := (List.range 32).map fun n =>
          let x := if fresh then (0, false) else z.at (32 * i + n)
          ({ c := x.1, fl := 0, pois := x.2 } : ZEl)
        (rowBlockRow m c.ftz cols row (low.map fun x => (x.1.1, x.2)) z0, ((low.map fun x => x.1.2).getD 0))
      let fl := rows.foldl (fun x q => x ||| q.2 ||| q.1.foldl (fun x e => if e.pois then x else x ||| e.fl) 0) 0
      let zt := ZTile.whole m.tag (rows.flatMap fun q => q.1.map fun e => (e.c, e.pois))
      let s := ad.2.modTile g fun t => (t.setZtile zi zt).count 0x0C none
      .ok ({ c with flags := c.flags ||| fl, rb := b + 1 }, s)

/-! ## An epilogue (R418, R419) -/

/-- The bytes of a row of codes of width `w`. -/
def rowBytes (w : Nat) (l : List (Nat × Bool)) : List PByte :=
  let v := l.foldr (fun e n => e.1 % 2 ^ w + 2 ^ w * n) 0
  (leBytes (l.length * w / 8) v).mapIdx fun i b =>
    (b, ((l.drop (8 * i / w)).take ((8 * i + 7) / w + 1 - 8 * i / w)).any (·.2))

/-- Store bytes at pieces of a virtual range, one beat for each line. -/
def State.lineBeats (g : BitVec 8) (c : Cmd) : List (Nat × Nat) → List PByte → State → BRes State
  | [], _, s => .ok s
  | p :: r, bs, s => do
    let s ← s.beatWrite g .matrix c .va p.1 (bs.take p.2)
    State.lineBeats g c r (bs.drop p.2) s

/-- Store an epilogue's bytes at a range of a space (R419): a level takes one beat, virtual memory one beat for each line. -/
def State.matWrite (s : State) (g : BitVec 8) (c : Cmd) (sp : Space) (addr : Nat) (bs : List PByte) : BRes State := do
  levelIll s sp addr bs.length
  if sp == .va then State.lineBeats g c (linePieces addr bs.length) bs s else s.beatWrite g .matrix c sp addr bs

/-- What decides the line that an element of a tensor lies in: its tile and the line in the tile. -/
def Tns.lineKey (t : Tns) (co : List Nat) : Nat × Nat := ((t.place co).1, (t.place co).2 * t.bits / 512)

/-- Elements of an output row with their coordinates, cut where the line changes. -/
def Tns.cut (t : Tns) : List (List Nat × Nat × Bool) → List (List (List Nat × Nat × Bool))
  | [] => []
  | e :: r =>
    match Tns.cut t r with
    | [] => [[e]]
    | b :: bs => if (b.head?.map fun x => t.lineKey x.1) == some (t.lineKey e.1) then (e :: b) :: bs else [e] :: b :: bs

/-- The addresses of a beat's elements that are in bounds, with their codes and poison; one out of bounds may raise a cause (R210). -/
def State.tnsPlaces (g : BitVec 8) (h : BitVec 16) (t : Tns) :
    List (List Nat × Nat × Bool) → Cmd → State → BRes (List (Nat × Nat × Nat × Bool) × Cmd × State)
  | [], c, s => .ok ([], c, s)
  | e :: r, c, s => do
    let x ← s.tnsElem g c h t e.1
    let y ← State.tnsPlaces g h t r x.2.1 x.2.2
    .ok ((x.1.map fun (p : Nat × Nat) => (p.1, p.2, e.2)).toList ++ y.1, y.2)

/-- One element stored at its place, a 4-bit one in its nibble. -/
def State.tnsPut (s : State) (g : BitVec 8) (bits : Nat) (p : Nat × Nat × Nat × Bool) (pl : List (Nat × BitVec 128)) : State :=
  if bits = 4 then
    let old := s.engRead g .va p.1 1 pl
    let b := old.1.getD 0 (0, false)
    let v := if p.2.1 = 0 then b.1.toNat / 16 * 16 + p.2.2.1 % 16 else p.2.2.1 % 16 * 16 + b.1.toNat % 16
    old.2.engWrite g .va p.1 [(BitVec.ofNat 8 v, p.2.2.2 || b.2)] pl
  else s.engWrite g .va p.1 (rowBytes bits [p.2.2]) pl

/-- A row of elements stored in a tensor, one beat for each line (R210, R419): a beat's elements are checked and translated before any of
them is stored. -/
def State.tnsStore (g : BitVec 8) (h : BitVec 16) (t : Tns) : List (List (List Nat × Nat × Bool)) → Cmd → State → BRes (Cmd × State)
  | [], c, s => .ok (c, s)
  | b :: r, c, s => do
    let p ← State.tnsPlaces g h t b c s
    let x ← p.2.2.beatXl g .matrix c.seq (p.1.map fun e => (BitVec.ofNat 64 e.1, .write))
    let s ← x.2.beatGo g p.2.1 1 []
    State.tnsStore g h t r p.2.1 ((p.1.zip x.1).foldl (fun s e => s.tnsPut g t.bits e.1 [e.2]) s)

/-- Store row `q` of the result (R408, R418, R419). -/
def State.storeRow (s : State) (g : BitVec 8) (c : Cmd) (d : Desc) (q : Nat) (row : List (Nat × Bool)) : BRes (Cmd × State) := do
  let w := (Desc.ty d).bits
  if d.kind ≤ 3 then
    let s ← s.matWrite g c d.space ((Desc.addr d).toNat + q * (Desc.q d).toNat) (rowBytes w row)
    .ok (c, s)
  else if d.kind = 4 then
    let t ← s.matTensor g c d
    State.tnsStore g ((Desc.addr d).setWidth 16) t.1 (t.1.cut (row.mapIdx fun k e => (d.coords t.1 q k, e))) t.2.1 t.2.2
  else
    let r ← s.resolve g .matrix c (Desc.q d) (Desc.addr d) (d.p0 + q) d.layer true
    let p := r.1
    illIf (decide (8 * (2 ^ p.ns.log2lb / 64) < (d.col0 + row.length) * w) || d.col0 * w % 8 != 0) r.2.2 0
    if p.gr.tier = 3 then bCause r.2.2 { code := 0x62 }
    else .ok (r.2.1, r.2.2.writeNode g p (d.col0 * w / 8) (rowBytes w row))

/-- The rows of an epilogue, from row `m` of block `b` on. -/
def State.epiRows (g : BitVec 8) (b : Nat) (tag : ZTag) (bias : List (Nat × Bool)) :
    List (List (Nat × Bool)) → (m : Nat) → Cmd → State → BRes (Cmd × State)
  | [], _, c, s => .ok (c, s)
  | z :: r, m, c, s => do
    let d := Epi.desc c.blk1
    let y := epiRow tag c.blk1 c.leak c.rm c.ftz bias z
    let x ← s.storeRow g c d (32 * b + m) y.1
    let c := { x.1 with flags := x.1.flags ||| y.2 }
    let s ← if (Desc.ty d).isScaled && d.skind != 0 then
        x.2.matWrite g c (if d.skind = 1 then .spa else .va) (d.saddr + (32 * b + m) * d.sstride)
          [(BitVec.ofNat 8 (Epi.os8 c.blk1), false)]
      else .ok x.2
    State.epiRows g b tag bias r (m + 1) c s

/-- The epilogue of row block `b` (R418): every store performed, then the tile is released (R419). -/
def State.epilogue (s : State) (g : BitVec 8) (c : Cmd) (b : Nat) : BRes (Cmd × State) := do
  let z := (s.tile g).ztile (c.zAt b)
  causeIf (!z.valid) s 0x5D
  let ba ← if Epi.ben c.blk1 then s.matRead g c .spa (Epi.bias c.blk1) 128 false else .ok ([], s)
  let rows := (List.range 32).map fun m => (List.range 32).map fun n => z.at (32 * m + n)
  let r ← State.epiRows g b z.tag (codesOf 32 0 32 ba.1) rows 0 c ba.2
  .ok ({ r.1 with eb := b + 1 }, r.2)

/-! ## Running the engine -/

/-- Fill the shadow plane (R409): it is LOADED at the command's completion. -/
def State.loadPlane (s : State) (g : BitVec 8) (c : Cmd) : BRes (Cmd × State) := do
  let b := c.blk0
  illIf (weightIll b) s 0
  let s := s.modTile g fun t => { t with shadow := { Plane.reset with st := .invalid } }
  let r ← State.weightRows g b 32 0 c s
  let p : Plane := { st := .loaded, ty := Desc.ty (wDesc b), k := wK b, sparse := wSparse b, snap := b
                     rows := r.1.map (·.codes), scales := r.1.map (·.scales), pois := r.1.map (·.pois) }
  .ok (r.2.1, r.2.2.modTile g fun t => { t with shadow := p })

/-- A compute command has nothing left to do (R413, R420). -/
def computeDone (c : Cmd) : Bool := c.prog != 0 && decide (c.rowBlocks ≤ c.rb) && (!c.epi || decide (c.rowBlocks ≤ c.eb))

/-- At most `n` units of a compute command: its start, a row block, an epilogue; `ahead`, a row block goes before an epilogue where its tile
is released. `true` when every unit is done. -/
def State.computeGo (g : BitVec 8) (ahead : Bool) : (n : Nat) → Cmd → State → BRes (Cmd × State × Bool)
  | 0, c, s => .ok (c, s, computeDone c)
  | k + 1, c, s =>
    if computeDone c then .ok (c, s, true)
    else do
      let rows := ahead && decide (c.rb < c.rowBlocks) && !s.zHeld g (c.zAt c.rb)
      let x ← if c.prog = 0 then s.computeStart g c
        else if c.epi && decide (c.eb < c.rb) && !rows then s.epilogue g c c.eb
        else s.rowBlock g c c.rb
      State.computeGo g ahead k x.1 (x.2.putCmd g .matrix x.1)

/-- `MSWAP` exchanges the planes; the compute commands that it passes have done with the plane that was active (R411). -/
def Tile.swapPlanes (t : Tile) : Tile :=
  { t with
    active := t.shadow
    shadow := t.active
    emat := { t.emat with running := t.emat.running.map fun (c : Cmd) => { c with swapped := c.swapped || c.entered } } }

/-- A matrix command runs to its end: `true` when it is done. -/
def State.matrixGo (s : State) (g : BitVec 8) (c : Cmd) : BRes (Cmd × State × Bool) :=
  match c.op with
  | .mwld => do
    let c := { c with prog := 1 }
    let x ← (s.putCmd g .matrix c).loadPlane g c
    .ok (x.1, x.2, true)
  | .mswap => .ok (c, s.modTile g Tile.swapPlanes, true)
  | _ => do
    let x ← State.computeGo g false (2 * c.nrb + 2) c s
    let s := if x.2.2 && c.op == .mmas then x.2.1.modTile g fun t => { t with shadow := Plane.reset } else x.2.1
    .ok (x.1, s, x.2.2)

/-! ## Accumulator instructions (R424, R425) -/

/-- An X-stream write of an accumulator tile spoils it for every incomplete command that uses it (R175). -/
def Tile.spoilZ (t : Tile) (z : BitVec 3) : Tile :=
  let mark (c : Cmd) : Cmd := if c.zTargets.contains z then { c with zspoil := setBit c.zspoil z.toNat true } else c
  if t.zBusy z then { t with emat := { t.emat with waiting := t.emat.waiting.map mark, running := t.emat.running.map mark } } else t

/-- ZCLR (R424). -/
def execZclr (z : BitVec 3) (k : BitVec 4) (s : State) : Host.Outcome State Fault Refusal :=
  issue .x 1 (fun g st s => do
    needClass s g 2
    let s ← s.useUnit g st .acc 1
    .ok (s.modTile g fun t =>
      ((t.setZtile z { t.ztile z with tag := zTagOf k, valid := true }).spoilZ z).pendAt
        (.z z) (2 ^ 65536 - 1) 0 (2 ^ 1024 - 1) 0 4)) s

/-- The 32 containers of a row as they read: a tile that a command uses reads as undefined elements (R175). -/
def State.rdZRow (s : State) (g : BitVec 8) (z : BitVec 3) (row : R5) : (Vec × LaneBits) × State :=
  let t := s.tile g
  let m := t.openBits (.z z)
  let x := t.ztile z
  let open_ := if t.zBusy z then 2 ^ 2048 - 1 else m.1 / 2 ^ (2048 * row.toNat) % 2 ^ 2048
  let v := s.readOpen open_ (x.data.extractLsb' (2048 * row.toNat) 2048)
  let p := if t.zBusy z then 0 else x.pois.toNat / 2 ^ (32 * row.toNat) % 2 ^ 32 - (x.pois.toNat &&& m.2) / 2 ^ (32 * row.toNat) % 2 ^ 32
  ((v.1, BitVec.ofNat 64 ((List.range 32).foldl (fun n j => if bitOf p j then n + 3 * 2 ^ (2 * j) else n) 0)), v.2)

/-- ZRD (R424): the row is a field of the word. -/
def execZrd (d : V6) (z : BitVec 3) (row : R5) (s : State) : Host.Outcome State Fault Refusal :=
  issue .x 1 (fun g st s => do
    needClass s g 2
    raiseIf (!((s.tile g).ztile z).valid) s 0x5D
    let s ← s.useUnit g st .acc 1
    let s ← s.openDst g [d] false
    let v := s.rdZRow g z row
    v.2.putV g d (VW.whole v.1.1 v.1.2) 0 4) s

/-- ZWR (R270, R424). -/
def execZwr (d : V6) (z : BitVec 3) (row : R5) (k : BitVec 4) (s : State) : Host.Outcome State Fault Refusal :=
  issue .x 1 (fun g st s => do
    needClass s g 2
    let s ← s.useUnit g st .acc 1
    let s ← s.needV g [d]
    let v := s.rdV g d
    let tag := zTagOf k
    let es := (List.range 32).map fun j => ((contain tag (BitVec.ofNat 64 (elem 64 v.1.1 j))).toNat, elemPois 64 v.1.2 j)
    let val := es.foldr (fun e n => e.1 + 2 ^ 64 * n) 0
    let pv := es.foldr (fun e n => (if e.2 then 1 else 0) + 2 * n) 0
    .ok (v.2.modTile g fun t =>
      ((t.setZtile z { t.ztile z with tag := tag }).spoilZ z).pendAt (.z z)
        ((2 ^ 2048 - 1) * 2 ^ (2048 * row.toNat)) (val * 2 ^ (2048 * row.toNat))
        ((2 ^ 32 - 1) * 2 ^ (32 * row.toNat)) (pv * 2 ^ (32 * row.toNat)) 4)) s

/-- A container converted to another tag (R425): code and flags. -/
def zConvert (frm dst : ZTag) (rm : BitVec 2) (ftz : Bool) (c : Nat) : Nat × BitVec 6 :=
  let v : FV := match frm with
    | .f64 => fF64.unpack c
    | .a40 => fA40.unpack (c % 2 ^ 40)
    | .i40 => .ofInt (i40Of c)
  match dst with
  | .f64 => fF64.pack rm ftz v.exact
  | .a40 => fA40.pack rm ftz v.exact
  | .i40 =>
    let r := toInt rm true 40 v
    ((contain .i40 (BitVec.ofNat 64 r.1)).toNat, r.2)

/-- ZCVT (R425): a tag equal to the current tag leaves the bits. Elements that are undefined as it reads them carry no poison, and until its
window closes no element does (R6, R171). -/
def execZcvt (z : BitVec 3) (k : BitVec 4) (s : State) : Host.Outcome State Fault Refusal :=
  issue .x 1 (fun g st s => do
    needClass s g 2
    let x := (s.tile g).ztile z
    raiseIf (!x.valid) s 0x5D
    let s ← s.useUnit g st .acc 32
    let t := s.tile g
    let o := t.openBits (.z z)
    let v := s.readOpen (if t.zBusy z then 2 ^ 65536 - 1 else o.1) x.data
    let po := if t.zBusy z then 0 else x.pois.toNat - (x.pois.toNat &&& o.2)
    let tag := zTagOf k
    let f := s.rdFctl g
    let es := (List.range 1024).map fun i =>
      let c := v.1.toNat / 2 ^ (64 * i) % 2 ^ 64
      if tag = x.tag then (c, (0 : BitVec 6))
      else
        let r := zConvert x.tag tag f.1 f.2 c
        (r.1, if bitOf po i then 0 else r.2)
    let val := es.foldr (fun e n => e.1 + 2 ^ 64 * n) 0
    let fl := es.foldl (fun a e => a ||| e.2) 0
    .ok (v.2.modTile g fun t =>
      (((t.setZtile z { t.ztile z with tag := tag }).spoilZ z).pendAt (.z z) (2 ^ 65536 - 1) val (2 ^ 1024 - 1) po 35).pendFlags fl 35)) s

/-! ## MCFG (R426) -/

/-- MCFGWR (R426). -/
def execMcfgwr (r : R5) (s : State) : Host.Outcome State Fault Refusal :=
  issue .x 1 (fun g st s => do
    let x := s.rdS g st r
    raiseIf x.1.2 s 0x2B
    .ok (x.2.modTile g fun t =>
      t.pendAt .mcfg 0 ((x.1.1.extractLsb' 32 16).toNat + (if x.1.1.getLsbD 0 then 2 ^ 16 else 0)) 0 0 1)) s

/-- MCFGRD (R426). -/
def execMcfgrd (d : R5) (s : State) : Host.Outcome State Fault Refusal :=
  issue .x 1 (fun g st s => do
    let s ← s.freeS g st d
    let t := s.tile g
    .ok (s.wrS g st d ((t.leak.setWidth 64 <<< 32) ||| (BitVec.ofBool t.adty).setWidth 64) false 1)) s

end Sys2Proof.Machine
end

