-- ==== Sys2Proof/Machine/EngRun.lean ====
section
/-! DEFINITION. The engines at work (R165, R166, R178, R430, R431): acceptance, the work of a command in progress, its
completion, and the answers that end its waits. -/

namespace Sys2Proof.Machine

/-- A Saltern command's work: `true` when it is done (R447). -/
def State.saltGo (s : State) (g : BitVec 8) (c : Cmd) : BRes (State × Bool) :=
  let one (r : BRes State) : BRes (State × Bool) := r.map fun s => (s, true)
  match c.op with
  | .pxhash => one (s.pxHash g c)
  | .pxmatch => s.pxMatch g c
  | .pxpath => one (s.pxPath g c)
  | .kvopen => one (s.kvOpen g c)
  | .kvseal => one (s.kvSeal g c)
  | .kvfork => one (s.kvFork g c)
  | .kvlease => one (s.kvLease g c)
  | .kvrelease => one (s.kvRelease g c)
  | .rseal => s.rseal g c
  | .runseal => s.runseal g c
  | _ => bWait s

/-- All the work that a command in progress has left: `true` when it is done. -/
def State.workCmd (s : State) (g : BitVec 8) (e : Eng) (c : Cmd) : BRes (State × Bool) :=
  match e with
  | .copy => if c.op = .copyl then s.copyL g c else State.moveGo g e (s.beatsOf c + 2) c s
  | .gather => State.moveGo g e (s.beatsOf c + 2) c s
  | .matrix => (s.matrixGo g c).map fun r => (r.2.1.putCmd g e r.1, r.2.2)
  | .coll => s.collGo g c
  | .salt => s.saltGo g c

/-- How a command's work ends (R430, R431): it waits, it completes, a beat's cause is charged, it is ill-formed. -/
def State.endWork (g : BitVec 8) (e : Eng) (c : Cmd) (finish : Bool) (r : BRes (State × Bool)) : State :=
  match r with
  | .ok (s, true) =>
    let c := (s.cmdOf g e c.seq).getD c
    if finish then (if c.op = .copy then s.copyUndefined g c else s).finishCmd g e c else s
  | .ok (s, false) => s
  | .error (.wait s) => s
  | .error (.cause s r) => s.engineCause g e ((s.cmdOf g e c.seq).getD c) r
  | .error (.ill s n) => s.haltEngine g e ((s.cmdOf g e c.seq).getD c) n

/-- A tile engine makes no beat while its tile's clock is stopped; a die engine goes on (R430). -/
def State.engineRuns (s : State) (g : BitVec 8) (e : Eng) : Bool :=
  let t := s.tile g
  t.ctx.isSome && (!tileEngine e || (t.stop.isNone && t.capturing.isNone))

/-- A command in progress does what it has left and, when that is done, completes. -/
def State.runCmd (s : State) (g : BitVec 8) (e : Eng) (seq : BitVec 32) : State :=
  match s.cmdOf g e seq with
  | none => s
  | some c => if s.engineRuns g e then State.endWork g e c true (s.workCmd g e c) else s

/-- A command in progress makes its next `n` beats, or row blocks, without completing (R178, R413). -/
def State.runBeats (s : State) (g : BitVec 8) (e : Eng) (seq : BitVec 32) (n : Nat) (ahead : Bool) : State :=
  match s.cmdOf g e seq with
  | none => s
  | some c =>
    if !s.engineRuns g e then s
    else
      let skip : BRes (State × Bool) := .ok (s, false)
      State.endWork g e c false (match e, c.op with
        | .copy, .copyl => skip
        | .copy, _ | .gather, _ => State.moveGo g e n c s
        | .matrix, .mwld | .matrix, .mswap => skip
        | .matrix, _ => (State.computeGo g ahead n c s).map fun r => (r.2.1.putCmd g e r.1, false)
        | _, _ => skip)

/-- The tokens that an X-stream instruction waits for at issue (R165, R166). -/
def xTokens : Instr → List R5
  | .tkwait k => [k]
  | .mwld e _ | .mswap e | .mma _ e _ _ _ _ _ _ _ | .mmas _ e _ _ _ _ _ _ _ _ | .mepi _ e _ _ _ | .xfnc e _ | .drain e _ => [e.tp]
  | _ => []

/-- No X-cycle passes (R170): the X-stream has executed STEP, or it is stalled on a queue or a token. No window would close meanwhile. -/
def State.xStalled (s : State) (g : BitVec 8) : Bool :=
  let t := s.tile g
  t.xstep || s.queueStalled g .x || ((s.nextInstr g .x).map xTokens).any fun l => l.any t.tkPending

/-- A loose command completes (R262, R263, R434, R435). An `XFNC` of LEVEL 1 or 2 keeps in `a` the X-cycle by which the windows of the stores
before it have closed; a stalled stream keeps none of its stores back (log entry 50). -/
def State.runLoose (s : State) (g : BitVec 8) (i : Nat) : State :=
  let t := s.tile g
  match t.loose[i]? with
  | none => s
  | some c =>
    let done (s : State) : State := s.modTile g fun t => Tile.tkDone { t with loose := t.loose.eraseIdx i } c.tp
    if c.prog = 0 || t.stop.isSome || t.capturing.isSome then s
    else if c.op = .drain then
      if c.waits.any fun w => (t.eng w.1).running.any fun x => x.seq == w.2 then s else done s
    else if c.imm != 3 then (if c.a.toNat ≤ t.xcyc || s.xStalled g then done s else s)
    else if !t.claims.isEmpty then s
    else done ((s.dirtyBack g).drainDie (dieOf g))

/-- ENGINE_COMMAND_ACCEPT (R165, R166): the engine takes its oldest waiting command; the collective engine reads its descriptor at once (R442). -/
def execEngineCommandAccept (g : BitVec 8) (e : Eng) (s : State) : Host.Outcome State Fault Refusal :=
  powered (fun s =>
    let n := ((s.tile g).eng e).seq
    let s := s.acceptCmd g e
    if e = .coll && ((s.tile g).eng e).seq != n then
      match s.cmdOf g e (n + 1) with
      | some c => State.endWork g e c false (s.collGo g c)
      | none => s
    else s) s

/-- TOKEN_COMPLETE (R166, R262, R430, R435). -/
def execTokenComplete (g : BitVec 8) (e : Option Eng) (seq : BitVec 32) (s : State) : Host.Outcome State Fault Refusal :=
  powered (fun s => match e with
    | some e => s.runCmd g e seq
    | none => s.runLoose g seq.toNat) s

/-! ## The rake (R229, R230) -/

/-- Of the searches that run in a die's rake, the oldest that need not wait goes as far as it can, and leaves the rake when its own search is
over; one that waits for a HARVESTING node keeps its place and holds back no other. -/
def State.rakeTurn (d : BitVec 2) : List RakeReq → State → State
  | [], s => s
  | r :: rest, s =>
    let drop (s : State) : State := s.setDie d { s.die d with rake := (s.die d).rake.filter (· != r) }
    match s.cmdOf r.tile .salt r.seq with
    | none => drop s
    | some c =>
      match s.rakeRun r.tile c with
      | .ok s => drop s
      | .error (.wait s) => State.rakeTurn d rest s
      | .error (.cause s x) => (drop s).engineCause r.tile .salt c x
      | .error (.ill s n) => (drop s).haltEngine r.tile .salt c n

/-- Searches of a die's tiles that wait for a LOOKUP's answer: they keep their place in the rake. -/
def State.rakeAway (s : State) (d : BitVec 2) : Nat :=
  ((s.tilesWith fun t => t.esalt.running.any fun c => c.op == .pxmatch && c.prog == 2).filter fun g => dieOf g == d).length

/-- RAKE_SEARCH (R229): the rake runs up to 16 searches at once; those after them wait in arrival order. -/
def execRakeSearch (d : BitVec 2) (s : State) : Host.Outcome State Fault Refusal :=
  event (fun s => State.rakeTurn d ((s.die d).rake.take (16 - s.rakeAway d)) s) s

end Sys2Proof.Machine
end

