-- ==== Sys2Proof/Machine/Capture.lean ====
section
/-! DEFINITION. Installing a context on a tile (R160), captures and restores (R296 to R303), the privileged instructions
CAPTURE, RESTORE and BRKX with their descriptors (R469 to R478), and the end of a context by its driver (R295). -/

namespace Sys2Proof.Machine

/-! ## Installing a context (R160) -/

/-- The cells of a tile: its scratchpad and both instruction memories, zeroed. -/
def State.zeroTile (s : State) (g : BitVec 8) : State :=
  ((s.zero (spadBase g.toNat) (2 ^ 21)).zero (imemBase g.toNat .a) (2 ^ 16)).zero (imemBase g.toNat .x) (2 ^ 16)

/-- A tile's L1D is written back and emptied. -/
def State.flushL1 (s : State) (g : BitVec 8) : State :=
  let s := (s.dirtyBack g).drainDie (dieOf g)
  s.modTile g fun t => { t with l1 := [], claims := [] }

/-- Install a context on a tile (R111, R160, R224, R453, R473). -/
def State.installCtx (s : State) (g : BitVec 8) (c : BitVec 16) : State :=
  let s := (s.flushL1 g).zeroTile g
  s.modTile g fun t =>
    { t with
      ctx := some c, wgran := 0, sealb := 0, wroteClu := false, tlb := [], past := []
      brk := Vector.replicate 8 BrkSlot.reset, pmc := Vector.replicate 8 0, pmsel := Vector.replicate 8 0, pmovf := 0, pmwrap := []
      resA := none, resX := none }

/-- A free tile: no item, no stop, no capture. -/
def Tile.isFree (t : Tile) : Bool := t.ist == .none && t.stop.isNone && t.capturing.isNone

/-- A key slot belongs to an owner whose context or namespace is still in the package (R109, log entry 59); slot 0 is the firmware's. -/
def State.slotOwned (s : State) (k : BitVec 12) : Bool :=
  k == 0 || s.ctxs.any (fun (e : Nat × Ctx) => e.2.key == k) || s.nss.any fun (e : Nat × Namespace) => e.2.key == k

/-- A key slot receives a new key from the DRBG (R109). -/
def State.drawKey (s : State) (k : BitVec 12) : State := { s with keys := Tab.set s.keys k.toNat s.nextId, nextId := s.nextId + 1 }

/-- The package knows a context from its first installation; its key slot, when it is empty or has no owner, receives a new key (R108, R109). -/
def State.knowCtx (s : State) (d : ContextDesc) : State :=
  let s := if (s.keyId d.key).isSome && s.slotOwned d.key then s else s.drawKey d.key
  if (s.ctx? d.ctx).isSome then s else s.setCtx (Ctx.fresh d)

/-- CONTEXT_INSTALL (R160, R193, R207). -/
def execContextInstall (g : BitVec 8) (d : ContextDesc) (s : State) : Host.Outcome State Fault Refusal :=
  powered (fun s => if (s.tile g).isFree then (s.knowCtx d).installCtx g d.ctx else s) s

/-! ## Who is captured (R296, R302) -/

/-- The tile runs an item that a capture can take (R488). -/
def Tile.capturable (t : Tile) : Bool := t.ist == .running && t.capturing.isNone

/-- The same cohort group of the same launch. -/
def sameGroup (t u : Tile) : Bool := t.cohort.isSome && t.cohort == u.cohort

/-- The tiles that a capture of a tile takes: with a cohort group all its members, and every other tile of the cluster that
runs an item of the same context (R302). -/
def State.captureSet (s : State) (g : BitVec 8) : List (BitVec 8) :=
  let t := s.tile g
  if t.cohort.isNone then [g]
  else (s.tiles.filter fun e =>
    e.2.capturable && (sameGroup t e.2 || (e.2.ctx == t.ctx && e.1 / 8 == g.toNat / 8))).map fun e => BitVec.ofNat 8 e.1

/-- A capture is decided (R39, R296), while the rails are up (R44): the clocks stop, the tiles return to Sluice class 0, and each image has its handle. -/
def State.beginCapture (s : State) (g : BitVec 8) (drop firmware : Bool) : State :=
  if s.railsOff || !(s.tile g).capturable then s
  else (s.captureSet g).foldl (fun s u =>
    let h : BitVec 32 := dieOf u ++ BitVec.ofNat 30 s.nextId
    let s := { s with nextId := s.nextId + 1, held := if s.held = some u then none else s.held }
    s.modTile u fun t => { t with capturing := some { handle := h, drop := drop, firmware := firmware }, sclass := 0, sreq := none, reqCred := 0 }) s

/-! ## Renaming what belongs to a tile or an image -/

/-- Home records, scratchpad seal records, waiting shootdowns and stage queue entries of holder `a` become those of holder `b`. -/
def State.rehold (s : State) (a b : Nat) : State :=
  let new (u : Nat) : Nat := if u = a then b else u
  { s with
    homeDir := s.homeDir.map fun (e : Nat × HomeLine) => (e.1, { e.2 with holders := e.2.holders.map fun h => (new h.1, h.2) })
    ctxs := s.ctxs.map fun (e : Nat × Ctx) => (e.1, { e.2 with seals := e.2.seals.map fun r => { r with spad := r.spad.map new } })
    sds := s.sds.map fun d => { d with cmd := d.cmd.map fun c => (new c.1, c.2) }
    launches := s.launches.map fun (e : Nat × Launch) => (e.1, e.2.mapPushers fun p => p.map new) }

/-- The holder number of a capture image. -/
def imgHolder (h : BitVec 32) : Nat := 256 + h.toNat

/-! ## The end of a capture (R296, R299, R300) -/

/-- The tagged LIVE names of a tile become DROPPED (R303). -/
def Tile.dropTagged (t : Tile) : Tile :=
  { t with v := t.v.map fun n => if n.st == .live && n.tag.isSome then { n with st := .dropped } else n }

/-- A search that waited for a LOOKUP's answer asks again (R61, R230, R296). -/
def Cmd.reask (c : Cmd) : Cmd := if c.op == .pxmatch && c.prog == 2 then { c with prog := 1 } else c

/-- What a tile is when its capture has ended: free, with its context, instruction memories and counters as they stand. -/
def Tile.freed (t : Tile) : Tile :=
  { Tile.reset with
    ctx := t.ctx, holder := t.holder, launch := t.launch, cur := t.cur, switched := t.switched
    tlb := t.tlb, past := t.past, brk := t.brk, pmc := t.pmc, pmsel := t.pmsel, pmovf := t.pmovf, wgran := t.wgran, resA := t.resA, resX := t.resX
    lastImg := t.capturing.map (·.handle) }

/-- The drain of a tile that is being captured (R296): claims are answered, writes acknowledged, requests to other packages dropped. -/
def State.drainTile (s : State) (g : BitVec 8) : State :=
  (((s.answerAll g).performReleases g).drainDie (dieOf g)).forgetAsks g

/-- Cells and line poison of a tile that an image holds: written scratchpad granules and both instruction memories. -/
def State.tileCells (s : State) (g : BitVec 8) : Mem × List Nat :=
  let t := s.tile g
  let b := spadBase g.toNat
  let kept (a : Nat) : Bool := t.wgran.getLsbD ((a - b) / 4096)
  ((Mem.slice s.mem b (2 ^ 21)).filter (fun c => kept c.1) ++ Mem.slice s.mem (imemBase g.toNat .a) (2 ^ 16)
      ++ Mem.slice s.mem (imemBase g.toNat .x) (2 ^ 16),
   s.poison.filter fun l => decide (b ≤ 64 * l) && decide (64 * l < b + 2 ^ 21) && kept (64 * l))

/-- The granules of a cluster's memory that carry a context's tag (R302). -/
def State.cluSection (s : State) (clu : Nat) (ctx : BitVec 16) : List (Nat × Mem × List Nat) :=
  let b := cluBase clu
  (s.gran.filter fun e => e.2 == ctx && decide (b ≤ 4096 * e.1) && decide (4096 * e.1 < b + 2 ^ 23)).map fun e =>
    (4096 * e.1 - b, Mem.slice s.mem (4096 * e.1) 4096, s.poison.filter fun l => l / 64 == e.1)

/-- The image of a drained tile (R299, R300, R302). -/
def State.imageOf (s : State) (g : BitVec 8) (x : Capturing) (members : List (BitVec 32)) (sect : Bool) : Image :=
  let t := s.tile g
  let c := (s.ctx? (t.ctx.getD 0)).getD Ctx.firmware
  let cells := s.tileCells g
  let cmds (q : EngQ) : EngQ := { q with running := q.running.map Cmd.reask }
  { handle := x.handle, grans := [], hbm := none, kind := if t.cohort.isSome then 1 else 0
    tilerev := Config.tileRev g, scanmap := Config.scanMap g, ctx := c.id, key := c.key, keyId := (s.keyId c.key).getD 0
    seq := c.capSeq, devtime := s.devtime, srctile := g, clu := t.wroteClu, dropped := x.drop, frozen := t.stop == some .notPresent
    gen := match t.cohort with
      | some (l, n) => BitVec.ofNat 16 (((s.launch? l).map fun l => l.gen n).getD 0)
      | none => 0
    vclk := (s.die (dieOf g)).vclk
    tile := { (if x.drop then t.dropTagged else t) with capturing := none, esalt := cmds t.esalt }
    cells := cells.1, poison := cells.2, clus := if sect then some (s.cluSection (cluOf g) c.id) else none
    members := members, firmware := x.firmware, tagOk := true }

/-- Granules that a capture of a tile finds room for: its image as it stands with a full arrival log, and its cluster section. DESIGN CHOICE
(log entry 65): R471 does not say at which size NOSPACE judges. -/
def State.imageNeed (s : State) (g : BitVec 8) (sect : Bool) : Nat :=
  let i := s.imageOf g { handle := 0, drop := false, firmware := true } [] sect
  (i.preBytes + 80 * 512 + i.cluBytes + 4095) / 4096

/-- A captured item awaits its resumption on its die, in its stage (R133). -/
def State.noteCaptured (s : State) (d : BitVec 2) (h : BitVec 32) (i : Item) : State :=
  match s.launch? i.launch with
  | none => s
  | some l =>
    let x := l.die d
    s.setLaunch (l.setDie d { x with captured := x.captured ++ [{ img := h, stage := i.stage, group := i.group }] })

/-- One tile's capture ends: its image stands in the image area, and it is free. -/
def State.endCapture (s : State) (g : BitVec 8) (members : List (BitVec 32)) (sect : Bool) : State :=
  match (s.tile g).capturing with
  | none => s
  | some x =>
    let s := s.drainTile g
    let i := s.imageOf g x members sect
    let s := s.modCtx i.ctx fun c => { c with capSeq := c.capSeq + (if sect then 2 else 1) }
    let d := dieOf g
    let s := s.placeImage i
    let s := (s.rehold g.toNat (imgHolder x.handle)).modTile g Tile.freed
    match i.tile.item with
    | some it => if x.firmware then s else s.noteCaptured d x.handle it
    | none => s

/-- The tiles whose captures end together with a tile's: its cohort group's members. -/
def State.endSet (s : State) (g : BitVec 8) : List (BitVec 8) :=
  let t := s.tile g
  if t.cohort.isNone then [g] else s.tilesWith fun u => u.capturing.isSome && sameGroup t u

/-- End the captures of a tile and of its cohort group (R297, R302). -/
def State.endCaptures (s : State) (g : BitVec 8) : State :=
  let set := s.endSet g
  let hs := set.filterMap fun u => (s.tile u).capturing.map (·.handle)
  match set with
  | [] => s
  | first :: _ =>
    set.foldl (fun s u => s.endCapture u (if set.length = 1 then [] else hs) ((s.tile g).cohort.isSome && u == first)) s

/-! ## Restores (R300 to R302) -/

/-- The checks of R300 on an image and a target tile. -/
inductive RestoreBad where
  | mismatch | tag | key
  deriving DecidableEq, Repr

def State.restoreBad (s : State) (i : Image) (g : BitVec 8) : Option RestoreBad :=
  if i.tilerev ≠ Config.tileRev g || i.scanmap ≠ Config.scanMap g then some .mismatch
  else if !i.tagOk then some .tag
  else if s.keyId i.key != some i.keyId || ((s.ctx? i.ctx).map (·.key)) != some i.key then some .key
  else if i.clu && cluOf i.srctile ≠ cluOf g then some .mismatch
  else none

/-- A refused restore leaves its target zeroed and free (R300). -/
def State.zeroFree (s : State) (g : BitVec 8) : State :=
  ((s.flushL1 g).zeroTile g).modTile g fun t => { Tile.reset with holder := t.holder, launch := t.launch, cur := t.cur, switched := t.switched }

/-- The granules of a cluster section are written at their own CMA (R302). -/
def State.pasteClu (s : State) (clu : Nat) (ctx : BitVec 16) (l : List (Nat × Mem × List Nat)) : State :=
  l.foldl (fun s e =>
    let a := cluBase clu + e.1
    let s := s.zero a 4096
    { s with
      gran := Tab.set s.gran (a / 4096) ctx
      mem := e.2.1.foldl (fun m c => Mem.put m (a + c.1 % 4096) c.2) s.mem
      poison := e.2.2.foldl (fun l k => insNat l (a / 64 + k % 64)) s.poison }) s

/-- The cells of an image are written into a tile. -/
def State.pasteTile (s : State) (g : BitVec 8) (i : Image) : State :=
  let src := i.srctile.toNat
  let move (a : Nat) : Nat :=
    if a < 2 ^ 51 then a - spadBase src + spadBase g.toNat else a - imemBase src .a + imemBase g.toNat .a
  let s := s.zeroTile g
  { s with
    mem := i.cells.foldl (fun m c => Mem.put m (move c.1) c.2) s.mem
    poison := i.poison.foldl (fun l k => insNat l (move (64 * k) / 64)) s.poison }

/-- A search that is in its rake: it enters the rake of the tile's die. -/
def State.reenterRake (s : State) (g : BitVec 8) : State :=
  let d := dieOf g
  ((s.tile g).esalt.running.filter fun c => c.op == .pxmatch && c.prog == 1).foldl (fun s c =>
    s.setDie d { s.die d with rake := (s.die d).rake ++ [{ tile := g, seq := c.seq }] }) s

/-- An image that is kept after a restore: it holds no L1D copies, and its commands' references are counted again. -/
def State.keepCopy (s : State) (h : BitVec 32) (i : Image) : State :=
  let s := i.tile.cmds.foldl (fun s c => c.refs.foldl State.incRef s) s
  let s := { s with ctxs := s.ctxs.map fun (e : Nat × Ctx) =>
    (e.1, { e.2 with seals := e.2.seals ++ e.2.seals.filter fun (r : SealRec) => r.spad == some (imgHolder h) }) }
  { s with images := Tab.set s.images h.toNat { i with tile := { i.tile with l1 := [] } } }

/-- An image is restored onto a tile (R258, R301): everything of the tile is the image's, but which class and launch hold the
tile and its Sluice class. A not-present access is presented again. Entry overlays stay resident only where the item returns to the
tile it was captured from and no other item has begun there since (R127, log entry 55). -/
def State.restoreOne (s : State) (h : BitVec 32) (g : BitVec 8) (keep : Bool) : State :=
  match Tab.get? s.images h.toNat with
  | none => s
  | some i =>
    let s := (s.flushL1 g).pasteTile g i
    let s := match i.clus with
      | some l => s.pasteClu (cluOf g) i.ctx l
      | none => s
    let d := dieOf g
    let s := s.setDie d { s.die d with vclk := maxV (s.die d).vclk i.vclk }
    let old := s.tile g
    let s := s.setTile g { i.tile with
      holder := old.holder, launch := old.launch, cur := (i.tile.item.map (·.stage)).orElse (fun _ => old.cur)
      sclass := old.sclass, sreq := none, srefused := 0, switched := old.switched, term := true, resume := none
      stop := i.tile.stop.filter fun w => w != .notPresent && w != .checkpoint
      faults := [], reqCred := 32, lastImg := none
      resA := if old.lastImg == some h then old.resA else none
      resX := if old.lastImg == some h then old.resX else none }
    let s := s.settleHeld
    let s := if keep then s.keepCopy h i else { s.freeRun i.grans with images := Tab.erase s.images h.toNat }
    (s.rehold (imgHolder h) g.toNat).reenterRake g

/-- The images that are restored with one, each with its tile: a cohort group goes onto the target's cluster, each member onto the
tile with its source's place (R302, R470). -/
def State.restoreSet (s : State) (h : BitVec 32) (g : BitVec 8) : List (BitVec 32 × BitVec 8) :=
  match Tab.get? s.images h.toNat with
  | none => []
  | some i =>
    if i.members.isEmpty then [(h, g)]
    else i.members.map fun m =>
      let src := ((Tab.get? s.images m.toNat).map (·.srctile)).getD 0
      (m, g.extractLsb' 3 5 ++ src.extractLsb' 0 3)

/-! ## Times that results report (R297, R301, R302) -/

def ceil512 (n : Nat) : Nat := (n + 511) / 512

/-- Granules of a section in its fullest slice (R302). -/
def fullest (l : List (Nat × Mem × List Nat)) : Nat :=
  (List.range 8).foldl (fun n k => Nat.max n (l.filter fun e => e.1 / 2 ^ 20 == k).length) 0

/-- P_cap of a set of images whose drains took `d` cycles. -/
def pCap (d : Nat) (is : List Image) : Nat :=
  is.foldl (fun n i =>
    let own := 1 + Nat.max (ceil512 i.preBytes) d + ceil512 (80 * i.tile.alog.length) + 32
    let sec := match i.clus with
      | some l => 1 + ceil512 (512 + 4112 * fullest l) + 32
      | none => 0
    Nat.max n (Nat.max own sec)) 0

/-- P_rst of a set of images. -/
def pRst (is : List Image) : Nat :=
  is.foldl (fun n i =>
    let sec := match i.clus with
      | some l => 4 + ceil512 (512 + 4112 * fullest l) + 32
      | none => 0
    Nat.max n (Nat.max (4 + ceil512 i.ownBytes + 32) sec)) 0

def sumBytes (is : List Image) : Nat := is.foldl (fun n i => n + i.bytes) 0

/-! ## Descriptors of privileged requests (R469, R470, R474) -/

/-- Read a descriptor of `n` bytes at its home once the A-stream's earlier stores are performed (R470 step 1). -/
def State.dcDesc (s : State) (g : BitVec 8) (r : R5) (n : Nat) : Res (W64 × Nat × State) := do
  let x := (s.tile g).rdA r
  alignTo s x.1 n
  raiseIf x.2 s 0x2B
  waitIf (!(s.tile g).claims.isEmpty) s
  let s := (s.dirtyBack g).drainDie (dieOf g)
  let p ← s.xlA g x.1 .read
  let _ ← s.xlA g x.1 .write
  .ok (x.1, leNat (s.readHome p.2 p.1 n).1, s)

/-- The result of a CAPTURE or RESTORE in its descriptor. -/
def capResult (d : BitVec 512) (img bytes cyc : Nat) (status : Byte) : BitVec 512 :=
  withField (withField (withField (withField d 480 32 img) 448 32 bytes) 416 32 cyc) 408 8 status.toNat

/-- A request's result is written at its home (R470 step 3). -/
def State.putDesc (s : State) (va : W64) (n v : Nat) : State := s.devWrite 0 va (clean (leBytes n v))

/-- A result whose numbers no rule states (log entry 2). -/
def State.putRefused (s : State) (va : W64) (d : BitVec 512) (status : Byte) (img : Option Nat) : State :=
  let a := s.free 32
  let b := a.2.free 32
  let c := b.2.free 32
  c.2.putDesc va 64 (capResult d (img.getD a.1.toNat) b.1.toNat c.1.toNat status).toNat

/-- The stream whose request is done issues its next word, after a die-scope acquire (R470 step 4). A stream whose tile is in an
image goes on there when it is restored (R478). -/
def State.dcDone (s : State) (u : Nat) : State :=
  let go (t : Tile) : Tile := ({ t with dcReq := none }.advance .a 1).count 0x02 (some .a)
  if u < 256 then (s.modHolder u go).acquire (BitVec.ofNat 8 u) 2
  else s.modHolder u fun t => { go t with l1 := t.l1.map fun l => { l with vmask := l.vmask &&& l.dmask } }

/-- Tiles and images with a request, by holder number. -/
def State.requests (s : State) : List (Nat × DcReq) :=
  (s.tiles.filterMap fun (e : Nat × Tile) => e.2.dcReq.map fun r => (e.1, r))
    ++ s.images.filterMap fun (e : Nat × Image) => e.2.tile.dcReq.map fun r => (256 + e.1, r)

/-- A descriptor as it stands at its home now. -/
def State.descNow (s : State) (va : W64) (n : Nat) : Nat := (((s.devRead 0 va n).map pNat).map (·.1)).getD 0

/-! ## CAPTURE -/

def capTile (d : BitVec 512) : BitVec 8 := d.extractLsb' 0 8

/-- CAPTURE (R469 to R472, R478). -/
def execCapture (r : R5) (s : State) : Host.Outcome State Fault Refusal :=
  issue .a 1 (fun g _ s => do
    waitIf (s.tile g).dcReq.isSome s
    let x ← s.dcDesc g r 64
    let s := x.2.2
    let d := BitVec.ofNat 512 x.2.1
    let u := capTile d
    let t := s.tile u
    let no (st : Byte) : Res State := .ok ((s.putRefused x.1 d st none).acquire g 2)
    let need := ((s.captureSet u).map fun v => s.imageNeed v (t.cohort.isSome && v == (s.captureSet u).headD u)).sum
    if d.extractLsb' 384 24 != 0 || d.extractLsb' 9 375 != 0 then no 0x08
    else if t.ctx.isNone || t.ist == .none || t.ist == .given then no 0x01
    else if u = g || !t.capturable || (s.captureSet u).contains g then no 0x02
    else if s.imageRoom (dieOf u) < need then no 0x03
    else waitIn ((s.beginCapture u (d.getLsbD 8) true).modTile g fun t => { t with dcReq := some (.capture x.1) })) s

/-- The results of the CAPTUREs whose captures have ended. -/
def State.captureResults (s : State) (set : List (BitVec 8)) (hs : List (BitVec 32)) : State :=
  let is := hs.filterMap fun h => Tab.get? s.images h.toNat
  s.requests.foldl (fun s q =>
    match q.2 with
    | .brkx _ => s
    | .capture va =>
      let d := BitVec.ofNat 512 (s.descNow va 64)
      if !set.contains (capTile d) then s
      else
        let f := s.free 32
        let n := pCap (f.1.toNat % 19585) is
        (f.2.putDesc va 64 (capResult d ((hs.head?.map BitVec.toNat).getD 0) (sumBytes is) n 0).toNat).dcDone q.1) s

/-- CAPTURE_COMPLETE (R297, R302, R470). -/
def execCaptureComplete (g : BitVec 8) (s : State) : Host.Outcome State Fault Refusal :=
  powered (fun s =>
    if (s.tile g).capturing.isNone then s
    else
      let set := s.endSet g
      let hs := set.filterMap fun u => (s.tile u).capturing.map (·.handle)
      (s.endCaptures g).captureResults set hs) s

/-! ## RESTORE -/

/-- Pass the images of a group to their stage scheduler (R472 HAND). -/
def State.handOver (s : State) (hs : List (BitVec 32)) : State :=
  hs.foldl (fun s h =>
    match Tab.get? s.images h.toNat with
    | none => s
    | some i =>
      let s := { s with images := Tab.set s.images h.toNat { i with firmware := false } }
      match i.tile.item with
      | some it => if i.firmware then s.noteCaptured (BitVec.ofNat 2 (h.toNat / 2 ^ 30)) h it else s
      | none => s) s

/-- The restored tile belongs to the item's class and launch, in the item's stage (R472). DESIGN CHOICE (log entry 56): it is in that
stage's current class at once, without a Sluice request, even where RESERVED then exceeds BUDGET; R39 and R472 state no request. -/
def State.giveTile (s : State) (g : BitVec 8) (it : Option Item) : State :=
  match it.bind fun i => (s.launch? i.launch).map fun l => (i, l) with
  | none => s
  | some (i, l) => s.modTile g fun t =>
    { t with holder := some l.tclass, launch := some l.id, cur := some i.stage, switched := s.cy
             sclass := ((l.stages[i.stage.toNat]?).map (·.cls)).getD 0 }

/-- The images that an image is restored with are taken back from HBM first (R298). -/
def State.takeBack (s : State) (h : BitVec 32) : State :=
  ((Tab.get? s.images h.toNat).map fun i => if i.members.isEmpty then [h] else i.members).getD [] |>.foldl State.imageIn s

/-- Some of those images are still in HBM, since the image area has no room. -/
def State.stillOut (s : State) (h : BitVec 32) : Bool :=
  (((Tab.get? s.images h.toNat).map fun i => if i.members.isEmpty then [h] else i.members).getD []).any fun m =>
    ((Tab.get? s.images m.toNat).map (·.hbm.isSome)).getD false

/-- STATUS of a RESTORE, and its state (R471, R472). -/
def State.restoreBy (s : State) (g : BitVec 8) (d : BitVec 512) : Byte × Nat × Nat × State :=
  let h : BitVec 32 := d.extractLsb' 480 32
  let tgt : BitVec 8 := d.extractLsb' 0 8
  let s := s.takeBack h
  let set := s.restoreSet h tgt
  let is := set.filterMap fun e => Tab.get? s.images e.1.toNat
  let bytes := sumBytes is
  if d.extractLsb' 384 24 != 0 || d.extractLsb' 10 374 != 0 then (0x08, 0, 0, s)
  else if set.isEmpty || is.length < set.length then (0x04, 0, 0, s)
  else if d.getLsbD 9 then (0, bytes, pRst is, s.handOver (set.map (·.1)))
  else if set.any fun e => e.2 == g || !(s.tile e.2).isFree then (0x02, 0, 0, s)
  else
    match (set.zip is).findSome? fun e => s.restoreBad e.2 e.1.2 with
    | some b =>
      (match b with
        | .mismatch => 0x05
        | .tag => 0x06
        | .key => 0x07, 0, 0, set.foldl (fun s e => s.zeroFree e.2) s)
    | none =>
      (0, bytes, pRst is, set.foldl (fun s e =>
        let it := (Tab.get? s.images e.1.toNat).bind fun i => i.tile.item
        (s.giveTile e.2 it).restoreOne e.1 e.2 (d.getLsbD 8)) s)

/-- RESTORE (R469 to R472). -/
def execRestore (dst r : R5) (s : State) : Host.Outcome State Fault Refusal :=
  issue .a 1 (fun g _ s => do
    waitIf (s.tile g).dcReq.isSome s
    let x ← s.dcDesc g r 64
    let d := BitVec.ofNat 512 x.2.1
    waitIf ((x.2.2.takeBack (d.extractLsb' 480 32)).stillOut (d.extractLsb' 480 32)) s
    let y := x.2.2.restoreBy g d
    let s := if y.1 = 0 then
        y.2.2.2.putDesc x.1 64 (capResult d (d.extractLsb' 480 32).toNat y.2.1 y.2.2.1 0).toNat
      else y.2.2.2.putRefused x.1 d y.1 (some (d.extractLsb' 480 32).toNat)
    .ok ((s.acquire g 2).modTile g fun t => t.wrA dst (y.1.setWidth 64) false)) s

/-- Raise cause 0x77 for an image whose resumption the die controller has refused (R300). -/
def State.restoreFail (s : State) (g : BitVec 8) (ctx : BitVec 16) : State :=
  ((s.zeroFree g).modTile g fun t => { t with ctx := some ctx }).takeCause g .a { code := 0x77 }

/-- TILE_RESTORE (R133, R301, R302): the tiles that have been given a captured item, or a cohort group's, resume it once the
Sluice has granted their classes. -/
def execTileRestore (h : BitVec 32) (g : BitVec 8) (s : State) : Host.Outcome State Fault Refusal :=
  powered (fun s =>
    let waits (u : BitVec 8) (m : BitVec 32) : Bool :=
      let t := s.tile u
      t.ist == .given && t.resume == some m && t.sreq.isNone && t.sclass != 0 && t.capturing.isNone
    let s := s.takeBack h
    match if s.stillOut h then none else Tab.get? s.images h.toNat with
    | none => s
    | some i =>
      let ms := if i.members.isEmpty then [h] else i.members
      let tiles := ms.filterMap fun m =>
        (s.tilesWith fun t => t.resume == some m).head?.map fun u => (m, u)
      if !waits g h || tiles.length < ms.length || tiles.any (fun e => !waits e.2 e.1) then s
      else
        let bad := tiles.any fun e => match Tab.get? s.images e.1.toNat with
          | some i => (s.restoreBad i e.2).isSome
          | none => true
        if bad then s.restoreFail g i.ctx
        else tiles.foldl (fun s e => s.restoreOne e.1 e.2 false) s) s

/-- LOGGED_ARRIVAL_DELIVERY (R296, R301): the oldest logged arrival of a tile that runs again. -/
def execLoggedArrivalDelivery (g : BitVec 8) (s : State) : Host.Outcome State Fault Refusal :=
  powered (fun s =>
    let t := s.tile g
    if t.stop.isSome || t.capturing.isSome then s
    else match t.alog with
      | [] => s
      | .token k :: r => s.setTile g (Tile.tkComplete { t with alog := r } k)
      | .flag f v :: r => s.setTile g (Tile.wrF { t with alog := r } f v)) s

/-! ## BRKX (R473 to R477) -/

def brkTile (d : BitVec 256) : BitVec 8 := d.extractLsb' 41 8
def brkOp (d : BitVec 256) : BitVec 2 := d.extractLsb' 36 2
def brkStream (d : BitVec 256) : Stream := if d.getLsbD 49 then .x else .a

/-- A BRKX's operation on its target (R475): STATUS, OLD, the state. -/
def State.brkDo (s : State) (d : BitVec 256) : Byte × W32 × State :=
  let u := brkTile d
  let t := s.tile u
  let j : BitVec 3 := d.extractLsb' 38 3
  let b := vget t.brk BrkSlot.reset j
  let w : Pc := d.extractLsb' 50 14
  let st := brkStream d
  let here := s.imemWord u st w
  let put (b : BrkSlot) (s : State) : State := s.modTile u fun t => { t with brk := vset t.brk j b }
  let atSlot := t.stop == some (.breakpoint j)
  if d.extractLsb' 160 64 != 0 || d.extractLsb' 64 88 != 0 || d.extractLsb' 0 35 != 0 then (0x06, here, s)
  else if t.ctx.isNone then (0x01, here, s)
  else match (brkOp d).toNat with
    | 0 =>
      if b.valid then (0x02, here, s)
      else (0, here, (put { valid := true, stream := st, word := w, halt := d.getLsbD 35, disp := here } s).setImemWord u st w (patchWord j.toNat))
    | 1 =>
      if !b.valid then (0x03, here, s)
      else
        let found := s.imemWord u b.stream b.word
        let s := if found = patchWord j.toNat then s.setImemWord u b.stream b.word b.disp else s
        (0, found, put { b with valid := false } s)
    | 2 =>
      if !atSlot then (0x05, here, s)
      else (0, here, s.modTile u fun t =>
        { t with stop := none, reqCred := 32 }.setCsr b.stream { t.csr b.stream with skip := true })
    | _ => (if atSlot then 0x04 else if b.valid then 0 else 0x03, b.disp, s)

/-- A SET or CLEAR whose word lies in a locked block waits (R169, R475). -/
def State.brkLocked (s : State) (d : BitVec 256) : Bool :=
  let t := s.tile (brkTile d)
  let b := vget t.brk BrkSlot.reset (d.extractLsb' 38 3)
  match (brkOp d).toNat with
  | 0 => t.locked (brkStream d) (d.extractLsb' 50 14)
  | 1 => t.locked b.stream b.word
  | _ => false

/-- The result of a BRKX in its descriptor (R474). -/
def State.brkPut (s : State) (va : W64) (d : BitVec 256) : State :=
  let r := s.brkDo d
  r.2.2.putDesc va 32 (withField (withField (d.setWidth 512) 224 32 r.2.1.toNat) 152 8 r.1.toNat).toNat

/-- Another request for the same tile waits at its die controller (log entry 31). -/
def State.brkBusy (s : State) (g u : BitVec 8) : Bool :=
  s.requests.any fun q => match q.2 with
    | .brkx va => q.1 != g.toNat && brkTile (BitVec.ofNat 256 (s.descNow va 32)) == u
    | .capture _ => false

/-- BRKX (R474, R475). -/
def execBrkx (r : R5) (s : State) : Host.Outcome State Fault Refusal :=
  issue .a 1 (fun g _ s => do
    waitIf (s.tile g).dcReq.isSome s
    let x ← s.dcDesc g r 32
    let s := x.2.2
    let d := BitVec.ofNat 256 x.2.1
    if s.brkLocked d || s.brkBusy g (brkTile d) then waitIn (s.modTile g fun t => { t with dcReq := some (.brkx x.1) })
    else .ok ((s.brkPut x.1 d).acquire g 2)) s

/-- The die controller performs a waiting BRKX of an operation (R475). -/
def State.brkEvent (s : State) (g : BitVec 8) (op : Nat) : State :=
  match (s.tile g).dcReq with
  | some (.brkx va) =>
    let d := BitVec.ofNat 256 (s.descNow va 32)
    if (brkOp d).toNat ≠ op || s.brkLocked d then s else (s.brkPut va d).dcDone g.toNat
  | _ => s

/-- BRKX_SET (R475). -/
def execBrkxSet (g : BitVec 8) (s : State) : Host.Outcome State Fault Refusal := event (fun s => s.brkEvent g 0) s
/-- BRKX_CLEAR (R475). -/
def execBrkxClear (g : BitVec 8) (s : State) : Host.Outcome State Fault Refusal := event (fun s => s.brkEvent g 1) s
/-- BRKX_RESUME (R475). -/
def execBrkxResume (g : BitVec 8) (s : State) : Host.Outcome State Fault Refusal := event (fun s => s.brkEvent g 2) s
/-- BRKX_QUERY (R475). -/
def execBrkxQuery (g : BitVec 8) (s : State) : Host.Outcome State Fault Refusal := event (fun s => s.brkEvent g 3) s

/-! ## The end of a context by its driver (R295) -/

/-- The error record and the end of a context that no tile's cause ends (R295). -/
def State.driverEnd (s : State) (c : BitVec 16) (fn : BitVec 8) : State :=
  if (s.ctx? c).isNone then s
  else
    (s.raiseErr { ctx := c, srcId := fn.setWidth 16, srcKind := 9, sev := 3, cause := some 0x73, ended := true }).endContext c 0x73

/-- CONTEXT_END (R295). -/
def execContextEnd (c : BitVec 16) (fn : BitVec 8) (s : State) : Host.Outcome State Fault Refusal :=
  event (fun s => s.driverEnd c fn) s

end Sys2Proof.Machine
end

