-- ==== Sys2Proof/Machine/Rings.lean ====
section
/-! DEFINITION. Host queues: rings in host or device memory, the checks of a packet header (R72), the choice of the next
packet (R74, R139) and how an interpreter unit takes it (R70). -/

namespace Sys2Proof.Machine

/-! ## Memory of the host, words -/

/-- Bytes of host memory by function and IOVA (R66); IOVAs are 64 bits wide. -/
def State.hostRead (s : State) (fn : BitVec 8) (a : W64) (n : Nat) : List Byte :=
  let m := Nat.min n (2 ^ 64 - a.toNat)
  s.rdBytes (hostOf fn + a.toNat) m ++ s.rdBytes (hostOf fn) (n - m)
def State.hostWrite (s : State) (fn : BitVec 8) (a : W64) (bs : List Byte) : State :=
  let m := 2 ^ 64 - a.toNat
  (s.wrBytes (hostOf fn + a.toNat) (bs.take m) false).wrBytes (hostOf fn) (bs.drop m) false

/-- Bytes as little-endian 64-bit words. -/
def toWords (bs : List Byte) : List W64 := (pieces 8 bs.length bs).map fun b => BitVec.ofNat 64 (leNat b)

/-- Words as bytes. -/
def wordBytes (ws : List W64) : List Byte := ws.flatMap fun w => leBytes 8 w.toNat

/-- The 512 bits of unit `i` of a packet. -/
def Packet.unit (p : Packet) (i : Nat) : BitVec 512 := BitVec.ofNat 512 (leNat (wordBytes ((p.words.drop (8 * i)).take 8)))

/-- Every page of a range of a context is present, lets an access pass and has a latency class other than 0 (R67, R86, R117). -/
def State.pinned (s : State) (ctx : BitVec 16) (va : W64) (n : Nat) (a : Acc) : Bool :=
  (List.range ((va.toNat + n - 1) / 2 ^ 16 + 1 - va.toNat / 2 ^ 16)).all fun i =>
    match s.xlateNow ctx (BitVec.ofNat 64 (Nat.max va.toNat ((va.toNat / 2 ^ 16 + i) * 2 ^ 16))) a with
    | .ok _ l => leafLat l != 0
    | _ => false

/-! ## Rings (R66, R69) -/

/-- The function that owns a queue (R66). -/
def State.queueFn (s : State) (q : BitVec 10) : BitVec 8 := Tab.get 0 s.qfunc q.toNat

def State.tenant (s : State) (c : BitVec 6) : Tenant := vget s.tenants Tenant.reset c

def Queue.size (q : Queue) : Nat := 2 ^ q.log2n.toNat

/-- Byte address of the unit at a count (R69). -/
def Queue.unitAt (q : Queue) (count : BitVec 32) : W64 := q.base + BitVec.ofNat 64 (64 * (count.toNat % q.size))

/-- Units of a queue's ring from a count on, as they stand (R66); `none` when a page cannot be read, or the host's read fails. -/
def State.ringNow (s : State) (n : BitVec 10) (count : BitVec 32) (units : Nat) : Option (List PByte) :=
  let q := s.queue n
  if q.loc then s.devRead q.ctx (q.unitAt count) (64 * units)
  else if s.hostFails then none
  else some (clean (s.hostRead (s.queueFn n) (q.unitAt count) (64 * units)))

/-- Units that a tail publishes: their contents are kept, by slot (R70). -/
def State.publish (s : State) (n : BitVec 10) (first : BitVec 32) (units : Nat) : State :=
  let q := s.queue n
  let new := (List.range units).filterMap fun i =>
    let c := first + BitVec.ofNat 32 i
    ({ s with hostFails := false }.ringNow n c 1).map fun bs => (c.toNat % q.size, bs)
  s.modQueue n fun q => { q with published := q.published.filter (fun e => !new.any fun f => f.1 == e.1) ++ new }

/-- Units as the front end reads them (R70): each 8-byte word with the content at its publication or the present one, where they
differ, by a free choice. -/
def State.ringRead (s : State) (n : BitVec 10) (count : BitVec 32) (units : Nat) : Option (List PByte) :=
  let q := s.queue n
  (s.ringNow n count units).map fun now =>
    let pick : BitVec 1024 := (s.free 1024).1
    (List.range units).flatMap fun i =>
      let cur := (now.drop (64 * i)).take 64
      match q.published.find? fun e => e.1 == (count + BitVec.ofNat 32 i).toNat % q.size with
      | none => cur
      | some old => (List.range 64).map fun j =>
        if pick.getLsbD (8 * i + j / 8) then old.2.getD j (0, false) else cur.getD j (0, false)

/-! ## Header checks (R71 to R73, R77, R78) -/

/-- LEN values that a TYPE allows (R71). -/
def lenOk (type : Byte) (n : Nat) : Bool :=
  match type.toNat with
  | 2 => n == 9 || n == 1
  | 3 | 4 | 5 => n == 1
  | _ => 1 ≤ n && n ≤ 128

/-- Reserved and body fields of unit 0 are in range (R71, R73, R76 to R78, R105). -/
def bodyOk (v : BitVec 512) : Bool :=
  let h : W64 := v.extractLsb' 0 64
  h.extractLsb' 36 12 == 0 && h.extractLsb' 16 17 == 0 &&
  match (hdrType h).toNat with
  | 1 => h.extractLsb' 16 48 == 0
  | 2 => if hdrLen h = 9 then v.extractLsb' 64 448 == 0 else v.extractLsb' 128 384 == 0 && v.extractLsb' 64 9 == 0
  | 3 =>
    let conf := v.getLsbD 258
    let n : W64 := v.extractLsb' 192 64
    v.extractLsb' 259 29 == 0 && n != 0 && decide (n.toNat ≤ if conf then 2 ^ 22 else 2 ^ 32)
      && (if conf then !v.getLsbD 256 && v.getLsbD 257 else v.extractLsb' 288 224 == 0)
  | 4 => v.extractLsb' 224 288 == 0 && v.extractLsb' 201 7 == 0 && decide ((v.extractLsb' 192 8 : Byte).toNat ≤ 2)
      && v.extractLsb' 64 3 == 0
  | _ => true

/-- The first check of R72 that unit 0 fails at a count of a ring of `n` units; 0 when it passes. On a device-fed queue no LEN but 1 is
allowed (R85). -/
def headerCheck (prog src : Bool) (n : Nat) (count : BitVec 32) (v : BitVec 512) : Byte :=
  let h : W64 := v.extractLsb' 0 64
  let ty := hdrType h
  let len := hdrLen h
  if ty = 0 || (6 ≤ ty.toNat && ty.toNat ≤ 0x7F) || (0x80 ≤ ty.toNat && !prog) then 0x10
  else if !lenOk ty len || (src && len != 1) then 0x11
  else if n < len then 0x12
  else if n < count.toNat % n + len then 0x13
  else if !bodyOk v then 0x15
  else 0

/-! ## Halts of a packet that a unit has taken (R70, R72, R91) -/

/-- A packet in a unit halts its queue: it is not consumed, so Q_HEAD stands at it and a resumed queue checks it again
from the start. -/
def State.haltPacket (s : State) (p : Packet) (status : Byte) (hdr : W64) (pois : Bool) : State :=
  (s.modQueue p.queue fun q => { q with head := p.count, inflight := q.inflight.filter (· != p.id) }).haltQueue
    p.queue status p.count (some hdr) pois

/-! ## Interpreter units (R81, R139) -/

def State.unit (s : State) (u : BitVec 4) : Interp := vget s.interps Interp.reset u
def State.setUnit (s : State) (u : BitVec 4) (x : Interp) : State := { s with interps := vset s.interps u x }

/-- The packet passes to dispatch: a FENCE waits in its queue (R75), any other packet in its unit for its event. -/
def State.passPacket (s : State) (u : BitVec 4) (p : Packet) : State :=
  if hdrType p.header = 5 then (s.modQueue p.queue fun q => { q with fence := some p }).setUnit u Interp.reset
  else s.setUnit u { Interp.reset with packet := some p, ready := true }

/-- The packet that a unit has passed to dispatch. One with BARRIER, which its program may have set, starts only after every earlier
packet of its queue has completed (R74). -/
def State.readyPacket (s : State) (u : BitVec 4) : Option Packet :=
  let x := s.unit u
  if !x.ready then none
  else x.packet.filter fun p => !hdrBarrier p.header || (s.queue p.queue).inflight.head? == some p.id

/-- Some unit serves the queue. -/
def State.served? (s : State) (n : BitVec 10) : Bool :=
  s.interps.toList.any fun x => match x.packet with
    | some p => p.queue == n
    | none => false

/-- A unit can take a packet of queue `n` now (R72, R74, R75, R78, R89, R100, R139, R321): a packet whose header passes waits
until the tail covers it, and with BARRIER until the earlier packets have completed. -/
def State.takeable (s : State) (n : BitVec 10) : Bool :=
  let q := s.queue n
  q.en && !q.halted && q.fence.isNone && q.waitge.isNone && q.head != q.tail
    && decide ((s.ring q.cring.toNat).waiting.length < 64)
    && !(match s.ctx? q.ctx with | some c => c.hold | none => false)
    && (s.fn (s.queueFn n)).tdi != .error && !s.served? n
    && (match s.ringRead n q.head 1 with
      | none => true
      | some bs =>
        let v := pNat bs
        let b := BitVec.ofNat 512 v.1
        let h : W64 := b.extractLsb' 0 64
        v.2 || headerCheck (q.prog != 0) q.src q.size q.head b != 0
          || (decide (hdrLen h ≤ (q.tail - q.head).toNat) && !(hdrBarrier h && !q.inflight.isEmpty)))

/-- The queue from which the next packet is taken (R139): classes in ascending rotation, up to WEIGHT packets at a visit, a class's
queues in ascending rotation. -/
def State.nextQueue (s : State) : Option (BitVec 10 × State) :=
  let qs := (s.queues.map fun (e : Nat × Queue) => BitVec.ofNat 10 e.1).filter s.takeable
  let has (c : BitVec 6) : Bool := qs.any fun n => (s.queue n).tclass == c
  let stay := has s.rotClass && decide (s.rotGiven < (s.tenant s.rotClass).weight)
  let turn := (List.range 64).map fun i => s.rotClass + BitVec.ofNat 6 (i + 1)
  match (if stay then some s.rotClass else turn.find? has) with
  | none => none
  | some c =>
    let mine := qs.filter fun n => (s.queue n).tclass == c
    match (mine.find? fun n => decide (Tab.get 0 s.rotQueue c.toNat ≤ n.toNat)).orElse (fun _ => mine.head?) with
    | none => none
    | some n =>
      some (n, { s with rotClass := c, rotGiven := if stay then s.rotGiven + 1 else 1
                        rotQueue := Tab.set s.rotQueue c.toNat (n.toNat + 1) })

/-- A unit takes the packet at the head of a queue (R70, R72, R81). A PAD runs no program (R73); any other packet runs the queue's,
which stays what it is now while the packet runs (R67). A read of host memory that fails, fails once (R88). -/
def State.takeFrom (s : State) (u : BitVec 4) (n : BitVec 10) : State :=
  let q := s.queue n
  let one := s.ringRead n q.head 1
  let h : W64 := BitVec.ofNat 64 ((one.map pNat).getD (0, false)).1
  let all := s.ringRead n q.head (hdrLen h)
  let s := { s with hostFails := s.hostFails && q.loc, fresh := s.fresh + 1 }
  match one with
  | none => s.haltQueue n 0x17 q.head none false
  | some bs =>
    let v := pNat bs
    let st := headerCheck (q.prog != 0) q.src q.size q.head (BitVec.ofNat 512 v.1)
    if v.2 then s.haltQueue n 0x17 q.head none true
    else if st ≠ 0 then s.haltQueue n st q.head (some h) false
    else match all with
      | none => s.haltQueue n 0x17 q.head (some h) false
      | some all =>
        if (pNat all).2 then s.haltQueue n 0x17 q.head (some h) true
        else
          let bytes := all.map (·.1)
          let p : Packet := { id := s.nextId, queue := n, count := q.head, len := hdrLen h, words := toWords bytes }
          let s := { s with nextId := s.nextId + 1 }.setQueue n
            { q with head := q.head + BitVec.ofNat 32 (hdrLen h), inflight := q.inflight ++ [p.id] }
          if q.prog = 0 || hdrType h = 1 then s.passPacket u p
          else s.setUnit u { Interp.reset with
            packet := some p, prog := Tab.get? s.progs q.prog.toNat, ringN := q.size, buf := Mem.puts [] 0 bytes, running := true
            g := vset (vset Interp.reset.g (1 : BitVec 4) (n.setWidth 64)) (2 : BitVec 4) (q.head.setWidth 64) }

/-- PACKET_TAKE (R72, R139). -/
def execPacketTake (u : BitVec 4) (s : State) : Host.Outcome State Fault Refusal :=
  event (fun s =>
    if (s.unit u).packet.isSome then s
    else match s.nextQueue with
      | none => s
      | some (n, s) => s.takeFrom u n) s

/-! ## TDI states and frozen fields (R100) -/

/-- The channel and the counter of a confidential copy (R77). -/
def Packet.conf (p : Packet) : Bool := hdrType p.header == 3 && (p.unit 0).getLsbD 258
def Packet.chan (p : Packet) : BitVec 32 := (p.unit 0).extractLsb' 288 32

/-- Confidential copies that have started and not reached step 9 end with reason 3 (R101, R103, R107): their plaintext is zeroed. -/
def State.endCopies (s : State) (hit : BitVec 8 → BitVec 32 → Bool) : State :=
  { s with interps := s.interps.mapIdx fun i x => match s.readyPacket (BitVec.ofNat 4 i) with
    | some p =>
      let fn := s.queueFn p.queue
      if p.conf && hit fn p.chan then
        { x with conf := some { ended := true, fn := fn, chan := p.chan, ctx := 0, ctr := 0, plain := [], dst := [] } }
      else x
    | none => x }

/-- A function's TDI moves to ERROR (R100): its queues are disabled and its channel slots zeroed. Its copies that have not reached step 9
end too (R107 states it for R101's transitions; log entry 58). -/
def State.tdiError (s : State) (fn : BitVec 8) : State :=
  let s := s.endCopies fun f _ => f == fn
  let s := s.setFn fn { s.fn fn with tdi := .error }
  { s with
    queues := s.queues.map fun (e : Nat × Queue) => (e.1, if s.queueFn (BitVec.ofNat 10 e.1) == fn then { e.2 with en := false } else e.2)
    chans := s.chans.filter fun c => c.fn != fn }

/-- The fields of a function that CONFIG_LOCKED freezes are frozen (R100). -/
def State.frozen (s : State) (fn : BitVec 8) : Bool := (s.fn fn).tdi != .unlocked

/-- A write to fields of function `owner` that R100 freezes, from function `fn`: one that reaches a frozen field is ignored, and from
the physical function it moves the TDI to ERROR, whatever its value; any other write has its effect. -/
def State.frozenWrite (s : State) (fn owner : BitVec 8) (reaches : Bool) (f : State → State) : State :=
  if s.frozen owner && reaches then (if fn = 0 then s.tdiError owner else s) else f s

end Sys2Proof.Machine
end

