-- ==== Sys2Proof/Machine/Packets.lean ====
section
/-! DEFINITION. Queue and completion-ring registers (R66 to R69, R86, R91), the packets that the I/O die itself performs (R73,
R75, R77, R78, R105), ENQs at the I/O die (R85), and completion records with their interrupts (R87 to R90). -/

namespace Sys2Proof.Machine

/-! ## Q_CTL, doorbells, halted queues -/

/-- A function's BAR0 shows the registers of this number (R66): the physical function's shows all, and none is decoded in recovery (R93). -/
def State.reaches (s : State) (fn : BitVec 8) (q : BitVec 10) : Bool := !s.recovery && (fn == 0 || s.queueFn q == fn)

/-- Q_CTL as it reads (R67). -/
def Queue.ctl (q : Queue) : W64 :=
  BitVec.ofBool q.en ++ BitVec.ofBool q.src ++ BitVec.ofBool q.loc ++ q.log2n ++ q.prog ++ q.cring ++ q.tclass ++ (0 : BitVec 32)

/-- The fields of Q_CTL other than EN. -/
def Queue.withCtl (q : Queue) (v : W64) : Queue :=
  { q with
    src := v.getLsbD 62, loc := v.getLsbD 61, log2n := v.extractLsb' 56 5, prog := v.extractLsb' 48 8
    cring := v.extractLsb' 38 10, tclass := v.extractLsb' 32 6 }

/-- A queue may be enabled (R67). -/
def State.queueOk (s : State) (n : BitVec 10) (q : Queue) : Bool :=
  6 ≤ q.log2n.toNat && q.log2n.toNat ≤ 20 && !(q.src && !q.loc)
    && (q.prog == 0 || (Tab.get? s.progs q.prog.toNat).isSome)
    && s.queueFn q.cring == s.queueFn n
    && (!q.loc || s.pinned q.ctx q.base (64 * q.size) .read)

/-- A write of Q_CTL from a function (R67, R80, R100): where the other fields are written as they stand, it writes EN only. -/
def State.qCtl (s : State) (fn : BitVec 8) (n : BitVec 10) (val : W64) : State :=
  if !s.reaches fn n then s
  else
    let q := s.queue n
    let en := val.getLsbD 63
    let changes := (val ^^^ q.ctl).extractLsb' 32 31 != 0
    s.frozenWrite fn (s.queueFn n) changes fun s =>
      if q.en then s.setQueue n { q with en := en }
      else
        let q := q.withCtl val
        if !en then s.setQueue n q
        else if s.queueOk n q then s.setQueue n { q with en := true, head := 0, tail := 0, scratch := [], published := [] }
        else s.setQueue n { q with err := 0x1F }

/-- Q_CTL_WRITE (R67, R80, R100). -/
def execQCtlWrite (fn : BitVec 8) (n : BitVec 10) (val : W64) (s : State) : Host.Outcome State Fault Refusal :=
  event (fun s => s.qCtl fn n val) s

/-- A doorbell write (R69). -/
def State.doorbell (s : State) (fn : BitVec 8) (n : BitVec 10) (tail : BitVec 32) : State :=
  if !s.reaches fn n then s
  else
    let q := s.queue n
    let new := (tail - q.head).toNat
    let old := (q.tail - q.head).toNat
    if !q.en || q.src then s.setQueue n { q with dbign := true }
    else if q.size < new then s.haltQueue n 0x14 q.head none false
    else if new < old then s.setQueue n { q with dbign := true }
    else (s.setQueue n { q with tail := tail }).publish n q.tail (tail - q.tail).toNat

/-- DOORBELL_WRITE (R69). -/
def execDoorbellWrite (fn : BitVec 8) (n : BitVec 10) (tail : BitVec 32) (s : State) : Host.Outcome State Fault Refusal :=
  event (fun s => s.doorbell fn n tail) s

/-- Q_STATUS.HALTED is cleared (R68, R91). The units from the head on are read as they are now: they may have been corrected (log entry 57). -/
def State.qResume (s : State) (fn : BitVec 8) (n : BitVec 10) : State :=
  let q := s.queue n
  if !s.reaches fn n then s
  else if !q.halted then s
  else (s.setQueue n { q with halted := false }).publish n q.head (q.tail - q.head).toNat

/-- QUEUE_RESUME (R68, R91). -/
def execQueueResume (fn : BitVec 8) (n : BitVec 10) (s : State) : Host.Outcome State Fault Refusal :=
  event (fun s => s.qResume fn n) s

/-- A write of Q_HEAD (R91): beyond Q_TAIL is ahead of it in the order of the free-running counts. -/
def State.qHead (s : State) (fn : BitVec 8) (n : BitVec 10) (head : BitVec 32) : State :=
  let q := s.queue n
  let ahead := (head - q.tail).toNat
  if !s.reaches fn n || !q.halted || (0 < ahead && ahead < 2 ^ 31) then s else s.setQueue n { q with head := head }

/-- Q_HEAD_WRITE (R91). -/
def execQHeadWrite (fn : BitVec 8) (n : BitVec 10) (head : BitVec 32) (s : State) : Host.Outcome State Fault Refusal :=
  event (fun s => s.qHead fn n head) s

/-! ## Completion rings (R86, R316) -/

/-- CR_CTL as it reads (R86). -/
def Ring.ctl (r : Ring) : W64 :=
  BitVec.ofBool r.en ++ BitVec.ofBool r.loc ++ r.log2n ++ r.vec ++ r.thresh ++ r.hold ++ (0 : BitVec 32)

/-- The fields of CR_CTL other than EN, as they are stored (R86). -/
def Ring.withCtl (r : Ring) (v : W64) : Ring :=
  let n : BitVec 4 := v.extractLsb' 58 4
  let t : Byte := v.extractLsb' 39 8
  let h : BitVec 7 := v.extractLsb' 32 7
  { r with
    loc := v.getLsbD 62, log2n := if n.toNat < 6 then 6 else n, vec := v.extractLsb' 47 11
    thresh := if t = 0 then 1 else t, hold := if h = 0 then 1 else if 100 < h.toNat then 100 else h }

/-- Bytes of a ring's records: 64 in the error ring (R316). -/
def recBytes (c : Nat) : Nat := if c = errRing then 64 else 32

/-- Records that fit in the ring. -/
def Ring.size (r : Ring) : Nat := 2 ^ r.log2n.toNat

/-- CR_STATUS.FULL (R89). -/
def Ring.full (r : Ring) : Bool := (r.tail - r.head).toNat == r.size

/-- A write of a ring's control register (R86, R100, R316): where the other fields are written as they stand, it writes EN only. -/
def State.ringCtl (s : State) (fn : BitVec 8) (c : Nat) (val : W64) : State :=
  let r := s.ring c
  let en := val.getLsbD 63
  let new := r.withCtl val
  let changes := { new with en := r.en }.ctl != r.ctl
  s.frozenWrite fn (s.ringFn c) changes fun s =>
    if !en then s.setRing c { new with en := false }
    else if r.en then s.setRing c new
    else if new.loc && !s.pinned new.ctx new.base (recBytes c * new.size) .write then s.setRing c { new with cfgerr := true }
    else s.setRing c { new with en := true, head := 0, tail := 0, cfgerr := false }

/-- CR_CTL_WRITE (R86). -/
def execCrCtlWrite (fn : BitVec 8) (c : BitVec 10) (val : W64) (s : State) : Host.Outcome State Fault Refusal :=
  event (fun s => if s.reaches fn c then s.ringCtl fn c.toNat val else s) s

/-- CR_HEAD_WRITE (R86, R89). -/
def execCrHeadWrite (fn : BitVec 8) (c : BitVec 10) (head : BitVec 32) (s : State) : Host.Outcome State Fault Refusal :=
  event (fun s => if s.reaches fn c then s.modRing c.toNat fun r => { r with head := head } else s) s

/-- The oldest waiting record of a ring is written (R87, R89, R90, R316, R318). -/
def State.writeRecord (s : State) (c : Nat) : State :=
  let r := s.ring c
  match r.waiting with
  | [] => s
  | w :: rest =>
    if !r.en || r.full then s
    else
      let phase := !r.tail.getLsbD r.log2n.toNat
      let bits : BitVec 512 := if phase then w.bits ||| 1 else w.bits
      let bytes := leBytes (recBytes c) bits.toNat
      let at_ := r.base + BitVec.ofNat 64 (recBytes c * (r.tail.toNat % r.size))
      let s := if r.loc then s.devWrite r.ctx at_ (clean bytes) else s.hostWrite (s.ringFn c) at_ bytes
      let n := if w.irq then r.pendingIrq + 1 else r.pendingIrq
      let s := s.setRing c { r with
        waiting := rest ++ r.behind.take 1, behind := r.behind.drop 1, tail := r.tail + 1, pendingIrq := n
        timer := if w.irq && r.timer.isNone then some (r.hold.toNat + 1) else r.timer }
      if w.urgent || (w.irq && r.thresh.toNat ≤ n) then s.ringInterrupt c else s

/-- COMPLETION_RECORD_WRITE (R89, R90). -/
def execCompletionRecordWrite (c : BitVec 10) (s : State) : Host.Outcome State Fault Refusal :=
  event (fun s => s.writeRecord c.toNat) s

/-- HOLD_TIMER_EXPIRY (R90). -/
def execHoldTimerExpiry (c : BitVec 11) (s : State) : Host.Outcome State Fault Refusal :=
  event (fun s => if (s.ring c.toNat).timer = some 0 then s.ringInterrupt c.toNat else s) s

/-! ## Packets that the I/O die performs -/

/-- A packet's event: the unit's packet of a TYPE, after which the unit is free; nothing where there is none. -/
def onPacket (u : BitVec 4) (type : Byte) (f : Packet → State → State) : State → State := fun s =>
  match s.readyPacket u with
  | some p => if hdrType p.header = type then f p (s.setUnit u Interp.reset) else s
  | none => s

/-- A packet completes with a RESULT that the manual does not state (log entry 2). -/
def State.completeFree (s : State) (p : Packet) (status : Byte) (wroteDev : Bool := false) : State :=
  let r := s.free 64
  r.2.complete p status r.1 wroteDev

/-- PAD_PACKET (R73): no record. -/
def execPadPacket (u : BitVec 4) (s : State) : Host.Outcome State Fault Refusal :=
  event (onPacket u 1 fun p s => s.modQueue p.queue fun q => { q with inflight := q.inflight.filter (· != p.id) }) s

/-- The error record of a unit of the I/O die that consumes poison for a queue (R314). -/
def State.unitPoison (s : State) (q : BitVec 10) (va : W64) : State :=
  s.raiseErr { addr := va, ctx := (s.queue q).ctx, srcId := q.setWidth 16, srcKind := 9, sev := 2, aKind := 2 }

/-- Bytes of a range that can be accessed before the first fault, line by line (R77). -/
def State.reach (s : State) (ctx : BitVec 16) (a : Acc) : List (Nat × Nat) → Nat
  | [] => 0
  | p :: r => match s.xlateNow ctx (BitVec.ofNat 64 p.1) a with
    | .ok _ _ => p.2 + s.reach ctx a r
    | _ => 0

/-- The offset of the first poisoned line of a source, when one of its first `n` bytes is poisoned. -/
def firstPoison (va : Nat) (bs : List PByte) : Nat :=
  let i := bs.findIdx (·.2)
  if i = bs.length then i else i - Nat.min i ((va + i) % 64)

/-- The first stop of a copy, if any comes before `n` bytes: offset and status. -/
def firstStop (n : Nat) (l : List (Nat × Byte)) : Nat × Byte :=
  l.foldl (fun b x => if x.1 < b.1 then x else b) (n, 0)

/-- COPY_PACKET (R77): the whole source is read first; the copy stops at the first poison, device fault or host error. -/
def execCopyPacket (u : BitVec 4) (hostErr : Option Nat) (s : State) : Host.Outcome State Fault Refusal :=
  event (onPacket u 3 fun p s =>
    let v := p.unit 0
    if v.getLsbD 258 then s.setUnit u { Interp.reset with packet := some p, ready := true }
    else
      let src : W64 := v.extractLsb' 64 64
      let dst : W64 := v.extractLsb' 128 64
      let n := (v.extractLsb' 192 64 : W64).toNat
      let sdev := v.getLsbD 256
      let ddev := v.getLsbD 257
      let ctx := (s.queue p.queue).ctx
      let fn := s.queueFn p.queue
      let host := hostErr.getD n
      let sReach := if sdev then s.reach ctx .read (linePieces src.toNat n) else n
      let data := if sdev then (s.devRead ctx src (Nat.min n sReach)).getD [] else clean (s.hostRead fn src n)
      let stop := firstStop n [
        (sReach, 0x05), (if sdev && !ddev then firstPoison src.toNat data else n, 0x04), (if sdev then n else host, 0x06),
        (if ddev then s.reach ctx .write (linePieces dst.toNat n) else n, 0x05), (if ddev then n else host, 0x06)]
      let bs := data.take stop.1
      let s := if ddev then s.devWrite ctx dst bs else s.hostWrite fn dst (bs.map (·.1))
      if stop.2 = 0 then s.completeFree p 0 ddev
      else
        let s := if stop.2 = 0x04 then s.unitPoison p.queue (src + BitVec.ofNat 64 stop.1) else s
        s.complete p stop.2 (BitVec.ofNat 64 stop.1) (ddev && 0 < stop.1)) s

/-- The pieces of a range with their pages, all of which may be written (R105 step 7); `none` when one may not. -/
def State.confPieces (s : State) (ctx : BitVec 16) (va : W64) (n : Nat) : Option (List ConfPiece) :=
  (linePieces va.toNat n).foldr (fun p acc =>
    match acc, s.xlateNow ctx (BitVec.ofNat 64 p.1) .write with
    | some l, .ok pa leaf => some ({ va := p.1, n := p.2, pa := pa, leaf := leaf } :: l)
    | _, _ => none) (some [])

/-- The most significant byte first. -/
def be8 (v : W64) : List Byte := beBytes 8 v.toNat

/-- Steps 1 to 8 of a confidential copy (R104, R105): the status and RESULT of the first that fails, or what step 9 writes. -/
def State.confCheck (s : State) (p : Packet) (ide hostErr : Bool) : Except (Byte × W64) ConfCopy :=
  let v := p.unit 0
  let src : W64 := v.extractLsb' 64 64
  let dst : W64 := v.extractLsb' 128 64
  let len : W64 := v.extractLsb' 192 64
  let ctr : W64 := v.extractLsb' 320 64
  let tag := leBytes 16 (v.extractLsb' 384 128 : BitVec 128).toNat
  let fn := s.queueFn p.queue
  let ctx := (s.queue p.queue).ctx
  if (s.fn fn).tdi != .run || !ide || !(s.fn fn).ide then .error (0x03, 3)
  else match s.chans.find? fun c => c.fn == fn && c.chan == p.chan with
    | none => .error (0x03, 4)
    | some sl =>
      if sl.ctx ≠ ctx then .error (0x03, 4)
      else if ctr.toNat ≤ sl.lastCtr.toNat then .error (0x03, 2)
      else if hostErr then .error (0x06, 0)
      else
        let iv := beBytes 4 p.chan.toNat ++ be8 ctr
        match gcmDecrypt (leBytes 32 sl.key.toNat) iv (be8 dst ++ be8 len) (s.hostRead fn src len.toNat) tag with
        | none => .error (0x03, 1)
        | some plain =>
          match s.confPieces ctx dst len.toNat, s.ctx? ctx with
          | some ds, some c =>
            if ds.any fun d => leafKey d.leaf != c.key then .error (0x03, 5)
            else .ok { ended := false, fn := fn, chan := p.chan, ctx := ctx, ctr := ctr, plain := plain, dst := ds }
          | _, _ => .error (0x05, 0)

/-- Step 9 (R105): LAST_CTR, and the plaintext under the translations of step 7. -/
def State.confWrite (s : State) (p : Packet) (c : ConfCopy) : State :=
  let s := { s with chans := updIf s.chans (fun x => x.fn == c.fn && x.chan == c.chan) fun x => { x with lastCtr := c.ctr } }
  let va0 := ((p.unit 0).extractLsb' 128 64 : W64).toNat
  let s := c.dst.foldl (fun s d => s.writeHome c.ctx d.leaf d.pa ((c.plain.drop (d.va - va0)).take d.n) false) s
  s.complete p 0 (BitVec.ofNat 64 c.plain.length) true

/-- Another copy of a packet's channel is in progress (R106). -/
def State.confBusy (s : State) (u : BitVec 4) (p : Packet) : Bool :=
  (List.range 16).any fun i => i != u.toNat && match (vget s.interps Interp.reset (BitVec.ofNat 4 i)).conf with
    | some c => !c.ended && c.fn == s.queueFn p.queue && c.chan == p.chan
    | none => false

/-- The copy unit begins a confidential copy: steps 1 to 8. -/
def State.confBegin (s : State) (u : BitVec 4) (ide hostErr : Bool) : State :=
  match s.readyPacket u with
  | none => s
  | some p =>
    let x := s.unit u
    if !p.conf || x.conf.isSome || s.confBusy u p then s
    else match s.confCheck p ide hostErr with
      | .error e => (s.setUnit u Interp.reset).complete p e.1 e.2
      | .ok c => s.setUnit u { x with conf := some c }

/-- CONFIDENTIAL_COPY (R105 to R107): the nine steps, or step 9 of a copy that has begun; one that was ended has reason 3. -/
def execConfidentialCopy (u : BitVec 4) (ide hostErr : Bool) (s : State) : Host.Outcome State Fault Refusal :=
  event (fun s =>
    match s.readyPacket u with
    | none => s
    | some p =>
      if !p.conf then s
      else
        let free := s.setUnit u Interp.reset
        match (s.unit u).conf with
        | some c => if c.ended then free.complete p 0x03 3 else free.confWrite p c
        | none =>
          if s.confBusy u p then s
          else match s.confCheck p ide hostErr with
            | .error e => free.complete p e.1 e.2
            | .ok c => free.confWrite p c) s

/-! ## SIGNAL (R78) -/

def Packet.sigAddr (p : Packet) : W64 := (p.unit 0).extractLsb' 64 64
def Packet.sigVal (p : Packet) : W64 := (p.unit 0).extractLsb' 128 64
def Packet.sigOp (p : Packet) : Byte := (p.unit 0).extractLsb' 192 8
def Packet.sigDev (p : Packet) : Bool := (p.unit 0).getLsbD 200
def Packet.sigLimit (p : Packet) : Nat := ((p.unit 0).extractLsb' 208 16 : BitVec 16).toNat

/-- A SIGNAL of an operation; another packet stays where it is. -/
def onSignal (u : BitVec 4) (op : Byte) (f : Packet → State → State) : State → State :=
  onPacket u 4 fun p s => if p.sigOp = op then f p s else s.setUnit u { Interp.reset with packet := some p, ready := true }

/-- SIGNAL_WRITE (R78). -/
def execSignalWrite (u : BitVec 4) (hostErr : Bool) (s : State) : Host.Outcome State Fault Refusal :=
  event (onSignal u 0 fun p s =>
    let ctx := (s.queue p.queue).ctx
    let bs := leBytes 8 p.sigVal.toNat
    if p.sigDev then
      if s.devWritable ctx p.sigAddr 8 then (s.devWrite ctx p.sigAddr (clean bs)).complete p 0 p.sigVal true
      else s.completeFree p 0x05
    else if hostErr then s.completeFree p 0x06
    else (s.hostWrite (s.queueFn p.queue) p.sigAddr bs).complete p 0 p.sigVal) s

/-- The value of a device word as its home performs an atomic on it (R78, R250, R315); `none` where its line is poisoned. -/
def State.devAdd (s : State) (ctx : BitVec 16) (pa : Nat) (leaf : BitVec 128) (v : W64) : Option (W64 × State) :=
  let s := if leafCoh leaf = 2 then s.recall (pa / 64) none (byteMask (pa % 64) 8) else s
  let r := s.readHome leaf pa 8
  if r.2 then none
  else
    let old : W64 := BitVec.ofNat 64 (leNat r.1)
    some (old, s.writeHome ctx leaf pa (leBytes 8 (old + v).toNat) false)

/-- SIGNAL_ADD (R78). -/
def execSignalAdd (u : BitVec 4) (atomicOk hostErr : Bool) (s : State) : Host.Outcome State Fault Refusal :=
  event (onSignal u 1 fun p s =>
    let ctx := (s.queue p.queue).ctx
    if p.sigDev then
      match s.xlateNow ctx p.sigAddr .atomic with
      | .ok pa leaf =>
        match s.devAdd ctx pa leaf p.sigVal with
        | some (old, s) => s.complete p 0 old true
        | none => (s.unitPoison p.queue p.sigAddr).completeFree p 0x04
      | _ => s.completeFree p 0x05
    else if !atomicOk then s.completeFree p 0x07
    else if hostErr then s.completeFree p 0x06
    else
      let old : W64 := BitVec.ofNat 64 (leNat (s.hostRead (s.queueFn p.queue) p.sigAddr 8))
      (s.hostWrite (s.queueFn p.queue) p.sigAddr (leBytes 8 (old + p.sigVal).toNat)).complete p 0 old) s

/-- The word that a WAITGE waits on; a status where it cannot be read. -/
def State.waitWord (s : State) (p : Packet) (hostErr : Bool) : Except Byte W64 :=
  if p.sigDev then
    match s.devRead (s.queue p.queue).ctx p.sigAddr 8 with
    | some l => .ok (BitVec.ofNat 64 (pNat l).1)
    | none => .error 0x05
  else if hostErr then .error 0x06
  else .ok (BitVec.ofNat 64 (leNat (s.hostRead (s.queueFn p.queue) p.sigAddr 8)))

/-- One reading of a WAITGE after `n` ticks (R78). -/
def State.waitgeLook (s : State) (p : Packet) (n : Nat) (hostErr : Bool) : State :=
  let done := s.modQueue p.queue fun q => { q with waitge := none }
  match s.waitWord p hostErr with
  | .error st => done.completeFree p st
  | .ok v =>
    if p.sigVal.toNat ≤ v.toNat then done.complete p 0 v
    else if p.sigLimit ≠ 0 && n = p.sigLimit then done.complete p 0x02 v
    else s.modQueue p.queue fun q => { q with waitge := some (p, n, false) }

/-- SIGNAL_WAITGE (R78): the wait begins, and holds up only its own queue. -/
def execSignalWaitge (u : BitVec 4) (hostErr : Bool) (s : State) : Host.Outcome State Fault Refusal :=
  event (onSignal u 2 fun p s => s.waitgeLook p 0 hostErr) s

/-- The look that the last tick asked for. -/
def State.waitgeDue (s : State) (n : BitVec 10) (hostErr : Bool) : State :=
  match (s.queue n).waitge with
  | some (p, k, true) => s.waitgeLook p k hostErr
  | _ => s

/-- A 1 µs tick comes for every wait (R78): one more tick waited, and a look due. A look still due at the tick before is taken first. -/
def State.waitgeTicks (s : State) : State :=
  let s := (s.queues.map fun (e : Nat × Queue) => BitVec.ofNat 10 e.1).foldl (fun s n => s.waitgeDue n false) s
  { s with queues := s.queues.map fun (e : Nat × Queue) =>
    (e.1, { e.2 with waitge := e.2.waitge.map fun w => (w.1, w.2.1 + 1, true) }) }

/-- SIGNAL_WAITGE_TICK (R78): the word is read again, once at each 1 µs tick. -/
def execSignalWaitgeTick (n : BitVec 10) (hostErr : Bool) (s : State) : Host.Outcome State Fault Refusal :=
  event (fun s => s.waitgeDue n hostErr) s

/-! ## FENCE (R75) -/

/-- FENCE_PACKET (R75): it completes when it is the only packet of its queue in flight, and every write on its way to a home is performed. -/
def execFencePacket (n : BitVec 10) (s : State) : Host.Outcome State Fault Refusal :=
  event (fun s =>
    match (s.queue n).fence with
    | none => s
    | some p =>
      if (s.queue n).inflight != [p.id] then s
      else
        let s := [(0 : BitVec 2), 1, 2, 3].foldl State.drainDie s
        (s.modQueue n fun q => { q with fence := none }).completeFree p 0) s

/-! ## ENQ at the I/O die (R85, R376) -/

/-- ENQ_ARRIVAL (R85, R376, R378): the oldest ENQ of a tile has left the rim, its earlier stores performed at their homes; the
packet is written at the tail, or the flag reports full. The answer to a stopped tile goes to its arrival log. -/
def execEnqArrival (g : BitVec 8) (s : State) : Host.Outcome State Fault Refusal :=
  powered (fun s =>
    let t := s.tile g
    match t.enqs with
    | [] => s
    | e :: r =>
      if !t.claims.isEmpty then s
      else
        let s := (s.dirtyBack g).drainDie (dieOf g)
        let q := s.queue e.queue
        let full := (q.tail - q.head).toNat == q.size
        let ok := !full && q.en && q.src && s.devWritable q.ctx (q.unitAt q.tail) 64
        let s := if ok then
            ((s.devWrite q.ctx (q.unitAt q.tail) (clean (wordBytes e.words))).setQueue e.queue { q with tail := q.tail + 1 }).publish e.queue q.tail 1
          else s
        s.modTile g fun t =>
          let t := { t with enqs := r }
          if !t.fpend.getLsbD e.flag.toNat || r.any (fun x => x.flag == e.flag) then t
          else if t.stop.isSome || t.capturing.isSome then { t with alog := t.alog ++ [.flag e.flag (!ok)] }
          else t.wrF e.flag (!ok)) s

end Sys2Proof.Machine
end

