-- ==== Sys2Proof/Machine/Launches.lean ====
section
/-! DEFINITION. Launches (R114 to R137, R488): the launch header and its checks, dispatch, the choice of a stage for a tile, how
items are claimed and given, start and retire, and how a tile passes between classes (R140, R141). -/

namespace Sys2Proof.Machine

/-! ## The launch header (R114 to R116) -/

/-- The 384 bits of stage descriptor `k`. -/
def hdrDesc (h k : Nat) : Nat := bitsOf h (895 + 384 * k) (512 + 384 * k)

/-- Width and count of work-identifier field `j`, from 0. -/
def hdrWidth (h j : Nat) : Nat := bitsOf h (475 - 7 * j) (469 - 7 * j)
def hdrCount (h j : Nat) : Nat := bitsOf h (383 - 32 * j) (352 - 32 * j)

/-- A stage descriptor (R115). -/
def stageOf (d : Nat) : StageDesc where
  acode := BitVec.ofNat 64 (bitsOf d 383 320)
  xcode := BitVec.ofNat 64 (bitsOf d 319 256)
  asize := bitsOf d 255 247
  xsize := bitsOf d 246 238
  aentry := BitVec.ofNat 14 (bitsOf d 237 224)
  xentry := BitVec.ofNat 14 (bitsOf d 223 210)
  cls := bitsOf d 209 207
  log2depth := bitsOf d 206 202
  qslice := bitsOf d 201 196
  qoff := bitsOf d 191 171

def LaunchDie.empty : LaunchDie :=
  { admitted := false, withdrawn := false, groups := [], clu := [], queues := [], captured := [], returned := [], since := [] }

/-- The launch that a header describes (R114, R115). -/
def launchOf (h id : Nat) (ctx : BitVec 16) (cls : BitVec 6) (p : Packet) (interval : BitVec 16) : Launch where
  id := id
  ctx := ctx
  tclass := cls
  nstage := bitsOf h 495 492
  nfield := bitsOf h 491 489
  dielev := bitsOf h 488 486
  clulev := bitsOf h 485 483
  cohort := bitOf h 482
  mindie := bitsOf h 481 479
  maxdie := bitsOf h 478 476
  widths := (List.range (bitsOf h 491 489)).map (hdrWidth h)
  counts := (List.range (bitsOf h 491 489)).map (hdrCount h)
  stages := (List.range (bitsOf h 495 492)).map fun k => stageOf (hdrDesc h k)
  args := (List.range 8).map fun k => BitVec.ofNat 64 (bitsOf h (3647 + 64 * k) (3584 + 64 * k))
  dies := Vector.replicate 4 LaunchDie.empty
  nextGroup := 0
  started := false
  retired := 0
  gens := []
  gretired := []
  packet := p
  header := (List.range 64).map fun k => BitVec.ofNat 64 (bitsOf h (64 * k + 63) (64 * k))
  interval := interval
  handles := []
  counted := false

def sumList (l : List Nat) : Nat := l.foldl (· + ·) 0
def prodList (l : List Nat) : Nat := l.foldl (· * ·) 1

/-- A used descriptor fails R116; `last` tells the last stage. -/
def stageBad (d : StageDesc) (last : Bool) : Bool :=
  d.cls == 0 || decide (64 * d.asize ≤ d.aentry.toNat) || decide (64 * d.xsize ≤ d.xentry.toNat)
    || (if last then d.log2depth != 0 else decide (d.log2depth < 4) || decide (15 < d.log2depth))
    || decide (2 ^ 21 < d.qoff + 64 * 2 ^ d.log2depth)

/-- Two output queues overlap in one slice. -/
def queuesClash (a b : StageDesc) : Bool :=
  a.qslice == b.qslice && decide (a.qoff < b.qoff + 64 * 2 ^ b.log2depth) && decide (b.qoff < a.qoff + 64 * 2 ^ a.log2depth)

def anyClash : List StageDesc → Bool
  | [] => false
  | d :: r => r.any (queuesClash d) || anyClash r

/-- A header fails a check of R116. -/
def headerBad (h : Nat) : Bool :=
  let l := launchOf h 0 0 0 { id := 0, queue := 0, count := 0, len := 0, words := [] } 0
  bitsOf h 511 496 != 1 || bitsOf h 433 384 != 0 || bitsOf h 191 0 != 0
    || decide (l.nstage < 1) || decide (8 < l.nstage) || decide (l.nfield < 1) || decide (6 < l.nfield)
    || ((List.range 8).any fun k => if k < l.nstage then bitsOf (hdrDesc h k) 195 192 != 0 || bitsOf (hdrDesc h k) 170 0 != 0
          else hdrDesc h k != 0)
    || ((List.range 6).any fun j =>
          if j < l.nfield then hdrWidth h j == 0 || hdrCount h j == 0 || decide (2 ^ hdrWidth h j < hdrCount h j)
          else hdrWidth h j != 0 || hdrCount h j != 0)
    || decide (64 < sumList l.widths) || decide (2 ^ 48 < prodList l.counts)
    || decide (l.clulev < l.dielev) || decide (l.nfield < l.clulev)
    || (l.cohort && decide (8 < l.groupSize))
    || decide (l.mindie < 1) || decide (4 < l.mindie) || decide (l.maxdie < l.mindie) || decide (4 < l.maxdie)
    || ((List.range l.nstage).any fun k => match l.stages[k]? with
          | some d => stageBad d (k + 1 == l.nstage)
          | none => true)
    || anyClash (l.stages.take (l.nstage - 1))

/-- Every page of every used overlay range is present with a latency class (R117). -/
def State.overlaysPinned (s : State) (l : Launch) : Bool :=
  l.stages.all fun d => s.pinned l.ctx d.acode (256 * d.asize) .read && s.pinned l.ctx d.xcode (256 * d.xsize) .read

/-- The residency handles that a launch references (R150): each once. -/
def State.handlesOf (s : State) (l : Launch) : List (BitVec 14) :=
  if !(s.tenant l.tclass).resref then []
  else
    let w := l.args.getD 7 0
    let hs := (List.range 4).filterMap fun i =>
      let n : BitVec 16 := w.extractLsb' (16 * i) 16
      if n = 0 || 16384 ≤ n.toNat then none
      else match s.resEntry n.toNat with
        | some e => if resValid e && resClass e == l.tclass then some (n.setWidth 14) else none
        | none => none
    hs.eraseDups

/-! ## Dispatch (R76, R116, R117) -/

/-- The packet leaves its interpreter unit. -/
def State.clearUnit (s : State) (u : BitVec 4) : State := s.setUnit u Interp.reset

/-- A header is judged and dispatched (R116, R117). -/
def State.dispatchLaunch (s : State) (p : Packet) (h : Nat) : State :=
  let q := s.queue p.queue
  if headerBad h then s.haltPacket p 0x15 p.header false
  else
    let iv := ((s.ctx? q.ctx).map (·.interval)).getD 0
    let l := launchOf h s.nextId q.ctx q.tclass p iv
    if !s.overlaysPinned l then s.complete p 0x05 0
    else { s with nextId := s.nextId + 1 }.setLaunch { l with handles := s.handlesOf l }

/-- LAUNCH_PACKET (R76, R116, R117). -/
def execLaunchPacket (u : BitVec 4) (s : State) : Host.Outcome State Fault Refusal :=
  event (fun s =>
    match s.readyPacket u with
    | none => s
    | some p =>
      if hdrType p.header ≠ 2 then s
      else
        let s := s.clearUnit u
        if hdrLen p.header = 9 then s.dispatchLaunch p (leNat (wordBytes (p.words.drop 8)))
        else
          let va := p.words.getD 1 0
          match s.devRead (s.queue p.queue).ctx va 512 with
          | none => s.complete p 0x05 0
          | some bs =>
            let v := pNat bs
            if v.2 then (s.unitPoison p.queue va).complete p 0x04 0 else s.dispatchLaunch p v.1) s

/-! ## Groups and items (R118, R119) -/

/-- Items, and CLULEV groups in one DIELEV group, and DIELEV groups. -/
def Launch.items (l : Launch) : Nat := prodList l.counts
def Launch.cluPerDie (l : Launch) : Nat := prodList ((l.counts.take l.clulev).drop l.dielev)
def Launch.dieGroups (l : Launch) : Nat := prodList (l.counts.take l.dielev)

/-- The work identifier of an item number (R118), from the last field back: counts and widths, last first. -/
def widOf : List (Nat × Nat) → Nat → Nat
  | [], _ => 0
  | (c, w) :: r, n => n % c + 2 ^ w * widOf r (n / c)

def Launch.wid (l : Launch) (n : Nat) : W64 := BitVec.ofNat 64 (widOf (l.counts.zip l.widths).reverse n)

/-- Unstarted items of stage 0 in the groups a die has claimed. -/
def Launch.unstarted (l : Launch) (x : LaunchDie) : Nat :=
  sumList (x.groups.map fun e => (l.cluPerDie - e.2) * l.groupSize) + sumList (x.clu.map fun e => l.groupSize - e.2.2)

/-- Items of the groups that a die could still claim (R130, R131). -/
def Launch.claimable (l : Launch) (x : LaunchDie) : Nat :=
  if x.withdrawn then 0 else (l.dieGroups - l.nextGroup) * l.cluPerDie * l.groupSize

/-- occ(k) of a die (R131). -/
def Launch.occ (l : Launch) (x : LaunchDie) (k : Nat) : Nat :=
  (if k = 0 then Nat.min 64 (l.unstarted x + l.claimable x) else (x.inst (k - 1)).entries.length)
    + (x.captured.filter fun c => c.stage.toNat == k).length + (x.returned.filter fun i => i.item.stage.toNat == k).length

/-- The launch's tiles on a die whose current stage is k: n(k) (R131). -/
def State.stageTiles (s : State) (l : Nat) (d : BitVec 2) (k : Nat) : Nat :=
  (s.tiles.filter fun e => e.1 / 64 == d.toNat && e.2.launch == some l && (e.2.cur.map BitVec.toNat) == some k).length

/-- The launch's tiles of a cluster that meet a condition, ascending. -/
def State.clusterTiles (s : State) (l clu : Nat) (p : Tile → Bool) : List (BitVec 8) :=
  (s.tiles.filter fun e => e.1 / 8 == clu && e.2.launch == some l && p e.2).map fun e => BitVec.ofNat 8 e.1

/-- The stages of a die that have input and no tile (R131). -/
def State.unserved (s : State) (l : Launch) (d : BitVec 2) : List Nat :=
  (List.range l.nstage).filter fun k => 0 < l.occ (l.die d) k && s.stageTiles l.id d k == 0

/-- Stage 0 of a cohort launch starves on a cluster (R131): items remain, and fewer than G of its tiles serve it. Only a cluster in
which the launch holds G tiles counts, since no other can ever be assigned stage 0 (R120, log entry 55). -/
def State.cohortStarves (s : State) (l : Launch) (clu : Nat) : Bool :=
  l.cohort && decide (0 < l.occ (l.die (BitVec.ofNat 2 (clu / 8))) 0)
    && decide (l.groupSize ≤ (s.clusterTiles l.id clu fun _ => true).length)
    && decide ((s.clusterTiles l.id clu fun t => t.cur == some 0).length < l.groupSize)

/-- The stages that starve on a die (R131): one without a tile, and stage 0 where it starves on one of the die's clusters. -/
def State.starving (s : State) (l : Launch) (d : BitVec 2) : List Nat :=
  let zero := (List.range 8).any fun c => s.cohortStarves l (8 * d.toNat + c)
  (List.range l.nstage).filter fun k => (s.unserved l d).contains k || (k == 0 && zero)

/-- since() of a launch's die is brought up to date (R131). -/
def State.noteDie (s : State) (l : Launch) (d : BitVec 2) : Launch :=
  let x := l.die d
  if !x.admitted then l
  else l.setDie d { x with since := (s.starving l d).map fun k =>
    (x.since.find? fun e => e.stage == k).getD { stage := k, since := s.cy, from_ := s.cy } }

/-- since() of every launch is brought up to date at the end of each step (R131). -/
def State.noteStarving (s : State) : State :=
  { s with launches := s.launches.map fun (e : Nat × Launch) =>
    (e.1, ([0, 1, 2, 3] : List (BitVec 2)).foldl (fun l d => s.noteDie l d) e.2) }

/-- The time that a step takes (log entry 9), after since() has taken in what the step before did (R131). -/
def State.elapse (s : State) : State := { s.noteStarving with cy := s.cy + 1 }

/-! ## The choice rule (R131, R132) -/

/-- The element with the largest key, the later one among equals. -/
def bestBy (f : Nat → Nat) : List Nat → Option Nat
  | [] => none
  | k :: r => match bestBy f r with
    | none => some k
    | some b => if f b < f k then some k else some b

/-- The stage that R132 chooses for a tile of a die, `none` for WAIT. -/
def State.chooseStage (s : State) (l : Launch) (g : BitVec 8) (cur : Option (BitVec 3)) (switched : Nat) : Option Nat :=
  let d := dieOf g
  let x := l.die d
  let clu := cluOf g
  let occ := l.occ x
  let mine := (s.clusterTiles l.id clu fun _ => true).length + (if (s.tile g).launch == some l.id then 0 else 1)
  let atZero := (s.clusterTiles l.id clu fun t => t.cur == some 0).length
  let barred (k : Nat) : Bool := l.cohort && k == 0 && decide (mine < l.groupSize)
  if l.cohort && !barred 0 && 0 < occ 0 && atZero < l.groupSize then some 0
  else
    let starving := (s.unserved l d).filter fun k => !barred k
    let since (k : Nat) : Nat := ((x.since.find? fun e => e.stage == k).map (·.since)).getD s.cy
    match bestBy (fun k => s.cy - since k) starving with
    | some k => some k
    | none =>
      let cand := (List.range l.nstage).filter fun k => 0 < occ k && !barred k
      let press (k : Nat) : Nat := 16 * occ k / s.stageTiles l.id d k
      match bestBy press cand with
      | none => none
      | some best =>
        match cur with
        | none => some best
        | some c =>
          let c := c.toNat
          if occ c = 0 || barred c then some best
          else if best ≠ c && 2 * press c + 32 ≤ press best && 2048 ≤ s.cy - switched then some best
          else some c

/-! ## Claiming and giving items (R119, R120, R125, R133, R488) -/

/-- The next unstarted item of stage 0 that a cluster may take (R119): its number, and the launch with it taken. -/
def Launch.takeNew (l : Launch) (d : BitVec 2) (clu : Nat) : Option (Nat × Launch) :=
  let x := l.die d
  let x' : Option (LaunchDie × Nat) :=
    if x.clu.any fun e => e.1 == clu then some (x, l.nextGroup)
    else
      let claimed : Option (LaunchDie × Nat) :=
        if !x.groups.isEmpty then some (x, l.nextGroup)
        else if x.clu.isEmpty && !x.withdrawn && l.nextGroup < l.dieGroups then
          some ({ x with groups := [(l.nextGroup, 0)] }, l.nextGroup + 1)
        else none
      claimed.bind fun y => match y.1.groups with
        | [] => none
        | (dg, m) :: r =>
          some ({ y.1 with groups := if m + 1 = l.cluPerDie then r else (dg, m + 1) :: r
                           clu := y.1.clu ++ [(clu, dg * l.cluPerDie + m, 0)] }, y.2)
  x'.bind fun y => (y.1.clu.find? fun e => e.1 == clu).map fun e =>
    let n := e.2.2 + 1
    let rest := y.1.clu.filter fun f => f.1 != clu
    (e.2.1 * l.groupSize + e.2.2,
     { (l.setDie d { y.1 with clu := if n = l.groupSize then rest else rest ++ [(clu, e.2.1, n)] }) with nextGroup := y.2 })

/-- `n` items of stage 0 in a row. -/
def Launch.takeMany (d : BitVec 2) (clu : Nat) : Nat → Launch → List Nat → Option (List Nat × Launch)
  | 0, l, acc => some (acc, l)
  | n + 1, l, acc => (l.takeNew d clu).bind fun r => Launch.takeMany d clu n r.2 (acc ++ [r.1])

/-- A stage 0 item. -/
def Launch.newItem (l : Launch) (n : Nat) : Item :=
  { launch := l.id, stage := 0, num := n, wid := l.wid n, entry := []
    group := if l.cohort then some (n / l.groupSize) else none
    rank := if l.cohort then BitVec.ofNat 3 (n % l.groupSize) else 0, start := 0 }

/-- An item is given to a tile (R125, R488). -/
def State.giveItem (s : State) (g : BitVec 8) (i : Item) (resume : Option (BitVec 32)) : State :=
  s.modTile g fun t => { t with ist := .given, item := some i, resume := resume }

/-- Free tiles of a cluster that are assigned to a stage of a launch. -/
def State.readyTiles (s : State) (l clu : Nat) (k : BitVec 3) : List (BitVec 8) :=
  s.clusterTiles l clu fun t => t.isFree && t.cur == some k

/-- Where an item of an image can resume when tile `g` is free for it: the tile itself, or a tile of its cluster for each member of
the cohort group (R302); an image with cluster bytes stays on its cluster (R300). -/
def State.placement (s : State) (g : BitVec 8) (l : Launch) (h : BitVec 32) (k : BitVec 3) : Option (List (BitVec 32 × BitVec 8)) :=
  match Tab.get? s.images h.toNat with
  | none => none
  | some i =>
    let set := s.restoreSet h g
    let ok (e : BitVec 32 × BitVec 8) : Bool :=
      let t := s.tile e.2
      e.2 == g || (t.isFree && t.launch == some l.id && t.cur == some k)
    if i.clu && cluOf i.srctile ≠ cluOf g then none
    else if set.any (fun e => e.2 == g) && set.all ok then some set else none

/-- The items of a set of images are given to their tiles. -/
def State.giveImages (s : State) (set : List (BitVec 32 × BitVec 8)) : State :=
  set.foldl (fun s e => match Tab.get? s.images e.1.toNat with
    | some i => match i.tile.item with
      | some it => s.giveItem e.2 it (some e.1)
      | none => s
    | none => s) s

/-- The first item that returned to a stage goes out before any other (R488): a cohort group's together, an image's where it can
resume. While it cannot go on this tile nothing else of the stage does; `none` where no item has returned. -/
def State.giveReturned (s : State) (g : BitVec 8) (l : Launch) (k : BitVec 3) : Option State :=
  let d := dieOf g
  let x := l.die d
  (x.returned.find? fun i => i.item.stage == k).map fun i =>
    match i.img with
    | some h => match s.placement g l h k with
      | none => s
      | some set =>
        let gone (r : Returned) : Bool := set.any fun e => r.img == some e.1
        (s.setLaunch (l.setDie d { x with returned := x.returned.filter fun r => !gone r })).giveImages set
    | none =>
      match i.item.group with
      | none => (s.setLaunch (l.setDie d { x with returned := x.returned.erase i })).giveItem g i.item none
      | some n =>
        let is := x.returned.filter fun j => j.item.group == some n && j.img.isNone
        let ts := s.readyTiles l.id (cluOf g) 0
        if ts.length < is.length then s
        else
          let s := s.setLaunch (l.setDie d { x with returned := x.returned.filter fun j => !(j.item.group == some n && j.img.isNone) })
          (ts.zip is).foldl (fun s e => s.giveItem e.1 e.2.item none) s

/-- The oldest captured item of a stage goes to its tiles (R133, R136); while it cannot go on this tile, nothing of the stage that
comes after it does (log entry 55). `none` where none awaits. -/
def State.giveCaptured (s : State) (g : BitVec 8) (l : Launch) (k : BitVec 3) : Option State :=
  let d := dieOf g
  let x := l.die d
  (x.captured.find? fun c => c.stage == k).map fun c => match s.placement g l c.img k with
    | none => s
    | some set =>
      (s.setLaunch (l.setDie d { x with captured := x.captured.filter fun c => !set.any fun e => e.1 == c.img })).giveImages set

/-- A new item (R119, R120, R125): of stage 0 from the cluster's group, of a later stage the oldest entry once it is available. -/
def State.giveNew (s : State) (g : BitVec 8) (l : Launch) (k : BitVec 3) : State :=
  let d := dieOf g
  if k = 0 then
    if l.cohort then
      let ts := (s.readyTiles l.id (cluOf g) 0).take l.groupSize
      if ts.length < l.groupSize then s
      else match Launch.takeMany d (cluOf g) l.groupSize l [] with
        | none => s
        | some (ns, l) => (ts.zip ns).foldl (fun s e => s.giveItem e.1 (l.newItem e.2) none) (s.setLaunch l)
    else match l.takeNew d (cluOf g) with
      | none => s
      | some (n, l) => (s.setLaunch l).giveItem g (l.newItem n) none
  else
    let n := k.toNat - 1
    let x := l.die d
    let q := x.inst n
    match q.entries, l.stages[n]? with
    | e :: r, some sd =>
      if !e.avail then s
      else
        let ws := toWords (s.rdBytes (sqBase sd d + 64 * e.slot) 64)
        (s.setLaunch (l.setDie d (x.setInst n { q with entries := r }))).giveItem g
          { launch := l.id, stage := k, num := 0, wid := ws.headD 0, entry := ws, group := none, rank := 0, start := 0 } none
    | _, _ => s

/-- A free tile takes an item of its stage once the launch has started (R129). -/
def State.giveWork (s : State) (g : BitVec 8) : State :=
  let t := s.tile g
  match t.launch.bind s.launch?, t.cur with
  | some l, some k =>
    if !l.started || !t.isFree then s
    else match s.giveReturned g l k with
      | some s => s
      | none => match s.giveCaptured g l k with
        | some s => s
        | none => s.giveNew g l k
  | _, _ => s

/-- Current class of a stage (R37). -/
def Launch.clsOf (l : Launch) (k : Nat) : Nat := ((l.stages[k]?).map (·.cls)).getD 0

/-- A tile is assigned to a stage (R132, R39): when it leaves another one it returns to class 0 and asks the Sluice. -/
def State.assignStage (s : State) (g : BitVec 8) (l : Launch) (k : Nat) : State :=
  let t := s.tile g
  let same := t.launch == some l.id && t.cur == some (BitVec.ofNat 3 k)
  let t := if same then t
    else { t with launch := some l.id, cur := some (BitVec.ofNat 3 k), switched := s.cy, sclass := 0, sreq := none }
  let t := if t.sclass = l.clsOf k || t.sreq.isSome then t else { t with sreq := some (l.clsOf k), srefused := 0, sreqAt := s.cy }
  let s := if (s.tile g).sreq.isSome && t.sreq.isNone && s.held = some g then { s with held := none } else s
  s.setTile g t

/-! ## Which launch wants a tile (R140) -/

/-- Dies that a launch runs on. -/
def Launch.nDies (l : Launch) : Nat := (l.dies.toList.filter fun x => x.admitted).length

/-- Every residency handle of a launch is at tier 1 (R150). -/
def State.resident (s : State) (l : Launch) : Bool :=
  l.handles.all fun h => match s.resEntry h.toNat with
    | some e => resTier e == 1
    | none => false

/-- A launch wants a tile on a die (R140, R150). -/
def State.wants (s : State) (l : Launch) (d : BitVec 2) : Bool :=
  let x := l.die d
  s.resident l &&
    (if x.admitted then (List.range l.nstage).any fun k => 0 < l.occ x k
     else l.nDies < l.maxdie && l.nextGroup < l.dieGroups)

/-- The launches of a class that want a tile on a die, in order of dispatch. -/
def State.wanting (s : State) (c : BitVec 6) (d : BitVec 2) : List Launch :=
  (s.launches.filter fun e => e.2.tclass == c && s.wants e.2 d).map (·.2)

/-- A tile is given to a launch (R129, R150): the die joins it, it starts with its MINDIE-th die, and its first tile
counts its handles' users. -/
def State.joinLaunch (s : State) (g : BitVec 8) (id : Nat) : State :=
  match s.launch? id with
  | none => s
  | some l =>
    let d := dieOf g
    let x := l.die d
    let l' := l.setDie d (if x.admitted then x else { LaunchDie.empty with admitted := true })
    let s := if l.counted then s else s.countUsers l.handles true
    s.setLaunch { l' with counted := true, started := l.started || decide (l.mindie ≤ l'.nDies) }

/-- A free tile of a class looks for work (R132, R141): its own launch's rule, then those of the class's other launches that want
a tile on the die; the stage it is assigned to, if any. -/
def State.seekStage (s : State) (g : BitVec 8) : Option State :=
  let t := s.tile g
  let d := dieOf g
  let own := (t.launch.bind s.launch?).bind fun l => (s.chooseStage l g t.cur t.switched).map fun k => (l, k)
  match own with
  | some (l, k) => some (s.assignStage g l k)
  | none =>
    match t.holder with
    | none => none
    | some c =>
      ((s.wanting c d).filter fun l => some l.id != t.launch).findSome? fun l =>
        (s.chooseStage l g none 0).map fun k =>
          let s := s.joinLaunch g l.id
          s.assignStage g ((s.launch? l.id).getD l) k

/-- STAGE_CHOICE (R132). -/
def execStageChoice (g : BitVec 8) (s : State) : Host.Outcome State Fault Refusal :=
  powered (fun s =>
    let t := s.tile g
    if !t.isFree || t.holder.isNone then s
    else
      match s.seekStage g with
      | some s => s.giveWork g
      | none => s) s

/-! ## Item start (R125, R127) -/

/-- Load an entry overlay into a stream's instruction memory, from byte 0 (R127); the bytes as they are read at their homes. -/
def State.loadEntry (s : State) (g : BitVec 8) (st : Stream) (bs : List PByte) : State :=
  let bs := (bs.take 65536).map (·.1)
  (s.wrBytes (imemBase g.toNat st) bs false).noteLoad g st 0 (bs.length / 4)

/-- What the start of an item finds of an overlay: resident, the bytes to load, or a page that cannot be read. -/
inductive Overlay where
  | resident | load (bs : List PByte) | absent
  deriving DecidableEq, Repr

def State.overlay (s : State) (g : BitVec 8) (l : Launch) (k : BitVec 3) (st : Stream) : Overlay :=
  let t := s.tile g
  let r := match st with
    | .a => t.resA
    | .x => t.resX
  if r == some (l.id, k) && t.ctx == some l.ctx then .resident
  else match l.stages[k.toNat]? with
    | none => .absent
    | some d =>
      match s.devRead l.ctx (match st with | .a => d.acode | .x => d.xcode)
          (256 * Nat.min 256 (match st with | .a => d.asize | .x => d.xsize)) with
      | none => .absent
      | some bs => .load bs

/-- Words 1, 2 and 8 to 15 of R125. -/
def Item.word1 (i : Item) : W64 := if i.stage = 0 then i.wid else i.entry.headD 0
def Item.word2 (i : Item) : W64 := (i.rank ++ (0 : BitVec 5) ++ i.stage).setWidth 64
def Item.words8 (i : Item) (l : Launch) : List W64 := if i.stage = 0 then l.args else i.entry

/-- A vector of undefined 64-bit registers, with `r0` reading as zero (R6, R125). -/
def freeRegs (v : BitVec 2048) : Vector W64 32 := Vector.ofFn fun i => v.extractLsb' (64 * i.val) 64

/-- The item-start state of a tile (R125, R156, R453): registers from the item, the rest undefined or empty. -/
def Tile.begin_ (t : Tile) (i : Item) (l : Launch) (d : StageDesc) (fa fx fk fz fc : BitVec 524288) (now : Nat) : Tile :=
  let a := freeRegs (fa.setWidth 2048)
  let a := vset (vset a (1 : R5) i.word1) (2 : R5) i.word2
  let a := ((i.words8 l).zip (List.range 8)).foldl (fun a e => vset a (BitVec.ofNat 5 (8 + e.2)) e.1) a
  let x := vset (vset (freeRegs (fx.setWidth 2048)) (1 : R5) i.word1) (2 : R5) i.word2
  { Tile.reset with
    ctx := t.ctx, holder := t.holder, sclass := t.sclass, sreq := t.sreq, srefused := t.srefused, sreqAt := t.sreqAt
    launch := t.launch, cur := t.cur, switched := t.switched, term := true, ist := .running
    item := some { i with start := now }
    areg := vset a (0 : R5) 0, xreg := vset x (0 : R5) 0
    flags := fc.extractLsb' 0 8, apc := d.aentry, xpc := d.xentry
    k := Vector.ofFn fun j => fk.extractLsb' (512 * j.val) 512
    z := Vector.ofFn fun j => { ZTile.reset with data := fz.extractLsb' (65536 * j.val) 65536 }
    tk := Vector.ofFn fun j => { pending := false, count := fc.extractLsb' (64 + 16 * j.val) 16 }
    fctl := fc.extractLsb' 8 3, fstat := fc.extractLsb' 16 6, leak := fc.extractLsb' 24 16, adty := fc.getLsbD 40
    pmc := t.pmc, pmsel := t.pmsel, pmovf := t.pmovf, brk := t.brk, wgran := t.wgran, sealb := t.sealb
    l1 := t.l1, l1use := t.l1use, tlb := t.tlb, past := t.past, reqCred := t.reqCred, rspCred := t.rspCred
    resA := t.resA, resX := t.resX }

/-- An item begins fetching on its tile (R125, R127): its launch's context is installed where another one is, entry overlays
that are not resident are loaded, and an item of a later stage acquires at die scope (R124). A poisoned overlay line raises cause 0x31. -/
def State.beginItem (s : State) (g : BitVec 8) (i : Item) (l : Launch) (d : StageDesc) : State :=
  let oa := s.overlay g l i.stage .a
  let ox := s.overlay g l i.stage .x
  let s := if (s.tile g).ctx == some l.ctx then s else s.installCtx g l.ctx
  let bytes (o : Overlay) : List PByte := match o with
    | .load bs => bs
    | _ => []
  let s := if oa == .resident then s else (s.loadEntry g .a (bytes oa)).modTile g fun t => { t with resA := some (l.id, i.stage) }
  let s := if ox == .resident then s else (s.loadEntry g .x (bytes ox)).modTile g fun t => { t with resX := some (l.id, i.stage) }
  let fa := s.free 524288
  let fx := fa.2.free 524288
  let fk := fx.2.free 524288
  let fz := fk.2.free 524288
  let fc := fz.2.free 524288
  let s := fc.2.modTile g fun t => t.begin_ i l d fa.1 fx.1 fk.1 fz.1 fc.1 s.cy
  let s := if i.stage = 0 then s else s.acquire g 2
  if (bytes oa).any (·.2) then s.takeCause g .a { code := 0x31 }
  else if (bytes ox).any (·.2) then s.takeCause g .x { code := 0x31 }
  else s

/-- A tile's given item can begin: the Sluice has granted its stage's class (R132), and its overlays can be read. -/
def State.canBegin (s : State) (g : BitVec 8) : Option (Item × Launch × StageDesc) :=
  let t := s.tile g
  match t.item with
  | none => none
  | some i =>
    match s.launch? i.launch with
    | none => none
    | some l =>
      match l.stages[i.stage.toNat]? with
      | none => none
      | some d =>
        if t.ist == .given && t.resume.isNone && t.sreq.isNone && t.sclass == d.cls && t.capturing.isNone
            && s.overlay g l i.stage .a != .absent && s.overlay g l i.stage .x != .absent
        then some (i, l, d) else none

/-- The tiles whose items begin in the same cycle (R120): a cohort group's, or the tile alone. -/
def State.startSet (s : State) (g : BitVec 8) : List (BitVec 8) :=
  match (s.tile g).cohort with
  | none => [g]
  | some c => s.tilesWith fun t => t.cohort == some c && t.ist == .given && t.resume.isNone

/-- ITEM_START (R120, R125, R127). -/
def execItemStart (g : BitVec 8) (s : State) : Host.Outcome State Fault Refusal :=
  powered (fun s =>
    let set := s.startSet g
    let go := set.filterMap fun u => (s.canBegin u).map fun e => (u, e)
    if !set.contains g || go.length < set.length then s
    else go.foldl (fun s e => s.beginItem e.1 e.2.1 e.2.2.1 e.2.2.2) s) s

/-! ## Retirement (R126, R137) -/

/-- Every condition of R126 but the stores, which are performed at the retirement. -/
def Tile.done (t : Tile) : Bool :=
  t.ist == .running && t.stop.isNone && t.capturing.isNone && t.astep && t.xstep && t.cmds.isEmpty && t.claims.isEmpty
    && t.enqs.isEmpty && t.alog.isEmpty

/-- The tile is free, in its stage (R126). -/
def Tile.retireItem (t : Tile) : Tile :=
  { Tile.reset with
    ctx := t.ctx, holder := t.holder, sclass := t.sclass, launch := t.launch, cur := t.cur, switched := t.switched, term := t.term
    pmc := t.pmc, pmsel := t.pmsel, pmovf := t.pmovf, brk := t.brk, wgran := t.wgran, sealb := t.sealb
    l1 := t.l1, l1use := t.l1use, tlb := t.tlb, past := t.past, reqCred := t.reqCred, rspCred := t.rspCred, resA := t.resA, resX := t.resX }

/-- The stores of a retired item are performed: its entries wait for nothing (R124). -/
def State.pusherGone (s : State) (g : BitVec 8) : State :=
  { s with launches := s.launches.map fun (e : Nat × Launch) =>
    (e.1, e.2.mapPushers fun p => if p == some g.toNat then none else p) }

/-- ITEM_RETIRE (R126, R128). -/
def execItemRetire (g : BitVec 8) (s : State) : Host.Outcome State Fault Refusal :=
  powered (fun s =>
    let t := s.tile g
    if !t.done then s
    else
      let s := ((s.performReleases g).dirtyBack g).drainDie (dieOf g)
      let s := s.pusherGone g
      let s := match t.item.bind fun i => (s.launch? i.launch).map fun l => (i, l) with
        | none => s
        | some (i, l) =>
          s.setLaunch { l with
            retired := l.retired + 1
            gretired := match i.group with
              | some n => setPair l.gretired n (l.retiredOf n + 1)
              | none => l.gretired }
      s.modTile g Tile.retireItem) s

/-! ## Items that return, tiles that pass (R141, R488) -/

/-- A given item that has not begun returns to its stage (R488); a cohort group's items return together. -/
def State.returnItem (s : State) (g : BitVec 8) : State :=
  let t := s.tile g
  match t.ist, t.item with
  | .given, some i =>
    let set := match t.cohort with
      | none => [g]
      | some c => s.tilesWith fun u => u.cohort == some c && u.ist == ItemSt.given
    let s := set.foldl (fun s u =>
      let t := s.tile u
      match t.item, s.launch? i.launch with
      | some j, some l =>
        let d := dieOf u
        let x := l.die d
        let x := { x with returned := x.returned ++ [{ item := j, img := t.resume }] }
        (s.setLaunch (l.setDie d x)).modTile u fun t => { t with ist := .none, item := none, resume := none }
      | _, _ => s.modTile u fun t => { t with ist := .none, item := none, resume := none }) s
    s
  | _, _ => s

/-- A tile leaves its launch and class: class 0 of the Sluice, no request. -/
def State.leaveLaunch (s : State) (g : BitVec 8) (c : Option (BitVec 6)) : State :=
  let s := { s with held := if s.held = some g then none else s.held }
  s.modTile g fun t =>
    { t with holder := c, launch := none, cur := none, switched := s.cy, sclass := 0, sreq := none, term := false }

/-- A tile passes to a class (R141, R145): a running item is captured, a given one returns, and a tile that runs nothing goes to the
class's first launch that wants it. A tile whose item is being captured joins a launch at its item boundary (R129), when it
looks for a stage. -/
def State.passTile (s : State) (g : BitVec 8) (c : BitVec 6) : State :=
  let s := ((s.beginCapture g true false).returnItem g).leaveLaunch g (some c)
  match if (s.tile g).capturing.isSome then none else (s.wanting c (dieOf g)).head? with
  | none => s
  | some l => (s.joinLaunch g l.id).modTile g fun t => { t with launch := some l.id }

/-! ## The tenant scheduler's offers (R140, R141) -/

def qg : Nat := 65536

/-- Tiles of a die that a class holds: HELD (R138). -/
def State.heldTiles (s : State) (c : BitVec 6) (d : BitVec 2) : Nat :=
  (s.tiles.filter fun e => e.1 / 64 == d.toNat && e.2.holder == some c).length

/-- Eligible (R140). -/
def State.eligible (s : State) (c : BitVec 6) (d : BitVec 2) : Bool :=
  let t := s.tenant c
  t.en && t.active && (t.maxtile == 0 || decide (s.heldTiles c d < t.maxtile)) && !(s.wanting c d).isEmpty

def State.deficit (s : State) (c : BitVec 6) (d : BitVec 2) : Nat := (vget (s.die d).def_ 0 c).toNat
def State.setDeficit (s : State) (c : BitVec 6) (d : BitVec 2) (v : Nat) : State :=
  let x := s.die d
  s.setDie d { x with def_ := vset x.def_ c (BitVec.ofNat 32 v) }

/-- Grant() of R141, with the visits that are left. -/
def State.grant (d : BitVec 2) : Nat → State → Option (BitVec 6) × State
  | 0, s => (none, s)
  | n + 1, s =>
    let c := (s.die d).ptr
    if s.eligible c d && qg ≤ s.deficit c d then (some c, s.setDeficit c d (s.deficit c d - qg))
    else
      let p := c + 1
      let x := s.die d
      let s := s.setDie d { x with ptr := p }
      State.grant d n (s.setDeficit p d (if s.eligible p d then (s.tenant p).weight * qg else 0))

/-- A tile is offered (R141). -/
def State.offer (s : State) (g : BitVec 8) : State :=
  let t := s.tile g
  let r := State.grant (dieOf g) 65 s
  match r.1 with
  | none => r.2.modTile g fun t => { t with term := t.ist == .running && t.holder.isSome }
  | some c =>
    if t.holder = some c then r.2.modTile g fun t => { t with term := t.ist == .running }
    else r.2.passTile g c

/-- A tile that can be offered: it is not stopped by a cause, and no capture of it is under way. -/
def Tile.offerable (t : Tile) : Bool := t.ist != .stopped && t.capturing.isNone

/-- TERM_END (R141). -/
def execTermEnd (g : BitVec 8) (s : State) : Host.Outcome State Fault Refusal :=
  event (fun s =>
    let t := s.tile g
    if t.term && t.holder.isSome && t.offerable then s.offer g else s) s

/-- WAIT_OFFER (R141): a free tile for which every launch of its class returns WAIT. -/
def execWaitOffer (g : BitVec 8) (s : State) : Host.Outcome State Fault Refusal :=
  event (fun s =>
    let t := s.tile g
    if t.isFree && t.holder.isSome && (s.seekStage g).isNone then s.offer g else s) s

/-- UNHELD_TILE_OFFER (R141). -/
def execUnheldTileOffer (g : BitVec 8) (s : State) : Host.Outcome State Fault Refusal :=
  event (fun s => if (s.tile g).holder.isNone && (s.tile g).offerable then s.offer g else s) s

/-! ## The launch's end (R137), starvation (R133), dies (R130) -/

/-- An item of the launch is on a tile, or in an image. -/
def State.hasItems (s : State) (l : Nat) : Bool :=
  (s.tiles.any fun e => match e.2.item with | some i => i.launch == l | none => false)
    || s.images.any fun e => match e.2.tile.item with | some i => i.launch == l | none => false

/-- A die's share of a launch is empty: no unstarted item, entry, captured or returned item. -/
def LaunchDie.isEmpty (x : LaunchDie) : Bool :=
  x.groups.isEmpty && x.clu.isEmpty && x.captured.isEmpty && x.returned.isEmpty && x.queues.all fun q => q.entries.isEmpty

/-- A tile that a launch's retirement releases (R137, R141): another launch of its class may take it; else it is offered. -/
def State.releaseTile (s : State) (g : BitVec 8) : State :=
  match s.seekStage g with
  | some s => s.giveWork g
  | none => (s.leaveLaunch g none).offer g

/-- LAUNCH_RETIRE (R137). -/
def execLaunchRetire (id : Nat) (s : State) : Host.Outcome State Fault Refusal :=
  event (fun s =>
    match s.launch? id with
    | none => s
    | some l =>
      if !l.started || l.nextGroup != l.dieGroups || s.hasItems id || !(l.dies.toList.all LaunchDie.isEmpty) then s
      else
        let ts := s.tilesWith fun t => t.launch == some id
        ts.foldl State.releaseTile (s.finishLaunch l 0x00)) s

/-- The running items of a launch on a die, with their start cycles. -/
def State.runningOn (s : State) (id : Nat) (d : BitVec 2) : List (BitVec 8) :=
  (s.tilesWith fun t => t.capturable && (match t.item with | some i => i.launch == id | none => false)).filter
    fun g => dieOf g == d

/-- The tile whose item started last, the highest number among equals. -/
def State.latest (s : State) (gs : List (BitVec 8)) : Option (BitVec 8) :=
  (bestBy (fun g => (((s.tile (BitVec.ofNat 8 g)).item.map (·.start)).getD 0)) (gs.map BitVec.toNat)).map (BitVec.ofNat 8)

/-- STARVATION_CAPTURE (R133): one item for a stage that has been starving for 4,096 cy, and the next one for it 4,096 cy later; none
while another capture of the launch on the die is under way (log entry 55). -/
def execStarvationCapture (id : Nat) (d : BitVec 2) (s : State) : Host.Outcome State Fault Refusal :=
  event (fun s =>
    match s.launch? id with
    | none => s
    | some l =>
      let x := l.die d
      let due (e : Since) : Bool := decide (e.from_ + 4096 ≤ s.cy)
      let busy := s.tiles.any fun e => e.1 / 64 == d.toNat && e.2.launch == some id && e.2.capturing.isSome
      if busy || !x.since.any due then s
      else
        let run := s.runningOn id d
        let lone := run.filter fun g => (s.tile g).cohort.isNone
        match s.latest (if lone.isEmpty then run else lone) with
        | none => s
        | some g =>
          let first := bestBy (fun k => s.cy - ((x.since.find? fun e => e.stage == k).map (·.since)).getD s.cy)
            ((x.since.filter due).map (·.stage))
          let since := x.since.map fun e => if some e.stage = first then { e with from_ := s.cy } else e
          (s.setLaunch (l.setDie d { x with since := since })).beginCapture g true false) s

/-- DIE_LEAVE (R130): the tenant scheduler withdraws a die of a launch that has more than MINDIE; a withdrawn die leaves once it
has no item and no entry. -/
def execDieLeave (id : Nat) (d : BitVec 2) (s : State) : Host.Outcome State Fault Refusal :=
  event (fun s =>
    match s.launch? id with
    | none => s
    | some l =>
      let x := l.die d
      if !x.admitted then s
      else if !x.withdrawn then
        (if l.mindie < (l.dies.toList.filter fun y => y.admitted && !y.withdrawn).length then
          s.setLaunch (l.setDie d { x with withdrawn := true }) else s)
      else
        let mine := s.tilesWith fun t => t.launch == some id
        if !x.isEmpty || mine.any (fun g => dieOf g == d && (s.tile g).ist != .none)
            || (s.images.any fun e => e.1 / 2 ^ 30 == d.toNat && (match e.2.tile.item with | some i => i.launch == id | none => false))
        then s
        else
          let s := s.setLaunch (l.setDie d LaunchDie.empty)
          ((mine.filter fun g => dieOf g == d).foldl (fun s g =>
            s.modTile g fun t => { t with launch := none, cur := none, sclass := 0, sreq := none }) s).settleHeld) s

end Sys2Proof.Machine
end

