-- ==== Sys2Proof/Machine/Tenancy.lean ====
section
/-! DEFINITION. Pre-emption by priority (R143 to R145), gang slices (R146, R147), and the Sluice: its windows, the held request,
its budget, and what a temperature does (R37 to R44, R134). -/

namespace Sys2Proof.Machine

/-! ## The pre-emption order (R144) -/

/-- The order of R144 as one number, smallest first: PRIO, the holder's deficit, the start of its item (none counts as later than
every start), the tile number, the last two descending. -/
def State.rank (s : State) (g : BitVec 8) : Nat :=
  let t := s.tile g
  let c := t.holder.getD 0
  let late : Nat := if t.ist == .running then s.cy - ((t.item.map (·.start)).getD 0) else 0
  let item := if t.ist == .running then 1 else 0
  ((((s.tenant c).prio.toNat * 2 ^ 32 + s.deficit c (dieOf g)) * 2 + item) * 2 ^ 128 + Nat.min late (2 ^ 128 - 1)) * 256 + (255 - g.toNat)

/-- The tile that the order ranks first. -/
def State.firstRanked (s : State) (gs : List (BitVec 8)) : Option (BitVec 8) :=
  gs.foldl (fun b g => match b with
    | none => some g
    | some b => if s.rank g < s.rank b then some g else some b) none

/-! ## Priority (R143, R145) -/

/-- The tiles of a die that a class may take: held by a class of lower PRIO. -/
def State.victims (s : State) (d : BitVec 2) (c : BitVec 6) : List (BitVec 8) :=
  (s.tilesWith fun t => t.offerable && (match t.holder with
    | some h => (s.tenant h).prio.toNat < (s.tenant c).prio.toNat
    | none => false)).filter fun g => dieOf g == d

/-- One victim, while the conditions of R143 hold: its tile passes to the class, and the group's other tiles are offered. -/
def State.preempt (d : BitVec 2) : Nat → State → State
  | 0, s => s
  | n + 1, s =>
    let c := (s.die d).ptr
    if !(s.eligible c d && qg ≤ s.deficit c d) then s
    else match s.firstRanked (s.victims d c) with
      | none => s
      | some g =>
        let others := if (s.tile g).capturable then (s.captureSet g).filter (· != g) else []
        let s := (s.setDeficit c d (s.deficit c d - qg)).passTile g c
        State.preempt d n (others.foldl State.offer s)

/-- Where ptr comes to rest while no tile is offered (R143): it moves as Grant() moves it, and stops without a charge on an eligible
class whose deficit pays a term; `none` where no class is one (log entry 48). -/
def State.restPtr (d : BitVec 2) : Nat → State → Option State
  | 0, _ => none
  | n + 1, s =>
    let c := (s.die d).ptr
    if s.eligible c d && qg ≤ s.deficit c d then some s
    else
      let p := c + 1
      let x := s.die d
      let s := s.setDie d { x with ptr := p }
      State.restPtr d n (s.setDeficit p d (if s.eligible p d then (s.tenant p).weight * qg else 0))

/-- PRIORITY_PREEMPTION (R143 to R145). -/
def execPriorityPreemption (d : BitVec 2) (s : State) : Host.Outcome State Fault Refusal :=
  event (fun s => match State.restPtr d 65 s with
    | none => s
    | some r => if (r.victims d (r.die d).ptr).isEmpty then s else State.preempt d 64 r) s

/-! ## Gang slices (R146, R147) -/

/-- GANG_ARM (R146): GANG_CTL.ARM is written 1. -/
def execGangArm (s : State) : Host.Outcome State Fault Refusal := event (fun s => { s with gangArmed := true }) s

/-- Every class takes ACTIVE from GANG_SET; the deficits of the leaving classes become 0. -/
def State.switchActive (s : State) : State :=
  let leaves (i : Nat) : Bool := (vget s.tenants Tenant.reset (BitVec.ofNat 6 i)).active && !s.gangSet.getLsbD i
  { s with
    tenants := s.tenants.mapIdx fun i t => { t with active := s.gangSet.getLsbD i }
    dies := s.dies.map fun (x : Die) => { x with def_ := x.def_.mapIdx fun i v => if leaves i then 0 else v } }

/-- The switch tick (R147): every tile of a leaving class is captured or returns its item, and then each is offered. -/
def State.gangSwitch (s : State) : State :=
  let ts := s.tilesWith fun t => match t.holder with
    | some c => (s.tenant c).active && !s.gangSet.getLsbD c.toNat && t.ist != .stopped
    | none => false
  let s := { s.switchActive with gangArmed := false, gangDone := true }
  let s := ts.foldl (fun s g => ((s.beginCapture g true false).returnItem g).leaveLaunch g none) s
  ts.foldl State.offer s

/-! ## The Sluice (R37 to R43) -/

/-- Reserved current of a class, in units of 0.25 A (R37). -/
def classUnits (c : Nat) : Nat := 6 * c + 2

/-- RESERVED (R39): the sum over all 256 tiles. -/
def State.reserved (s : State) : Nat := s.tiles.foldl (fun n (e : Nat × Tile) => n + 6 * e.2.sclass) 512

/-- The Sluice judges one pending request of a window (R39, R40, R42, R44). -/
def State.judge (s : State) (g : BitVec 8) : State :=
  let t := s.tile g
  match t.sreq with
  | none => s
  | some b =>
    let raises := t.sclass < b
    let fits := s.reserved + classUnits b ≤ s.budget.toNat + classUnits t.sclass
    let barred := raises && (s.hot || (s.held.isSome && s.held != some g))
    if fits && !barred then
      { s.setTile g { t with sclass := b, sreq := none, srefused := 0 } with held := if s.held = some g then none else s.held }
    else s.setTile g { t with srefused := t.srefused + 1 }

/-- SLUICE_WINDOW (R39, R40). -/
def execSluiceWindow (s : State) : Host.Outcome State Fault Refusal :=
  event (fun s => (s.tilesWith fun t => t.sreq.isSome).foldl State.judge s) s

/-- SLUICE_REQUEST_HELD (R40): the oldest request that 64 windows have refused. -/
def execSluiceRequestHeld (s : State) : Host.Outcome State Fault Refusal :=
  event (fun s =>
    let old := s.tilesWith fun t => t.sreq.isSome && 64 ≤ t.srefused
    if s.held.isSome then s
    else { s with heldAt := s.cy, held := old.foldl (fun b g => match b with
      | none => some g
      | some b => if (s.tile g).sreqAt < (s.tile b).sreqAt then some g else some b) none }) s

/-- BUDGET as a write stores it (R43). -/
def clampBudget (v : BitVec 16) : BitVec 16 := if v.toNat < 512 then 512 else if 11264 < v.toNat then 11264 else v

/-- A write of SLU_BUDGET (R43). -/
def State.putBudget (s : State) (val : W64) : State :=
  { s with
    budget := if s.budgetLock then s.budget else clampBudget (val.extractLsb' 0 16)
    budgetLock := s.budgetLock || val.getLsbD 31 }

/-- SLUICE_BUDGET_WRITE (R42, R43). -/
def execSluiceBudgetWrite (val : W64) (s : State) : Host.Outcome State Fault Refusal := event (fun s => s.putBudget val) s

/-- The held request fits (R40). -/
def State.heldFits (s : State) (h : BitVec 8) : Bool :=
  let t := s.tile h
  match t.sreq with
  | some b => s.reserved + classUnits b ≤ s.budget.toNat + classUnits t.sclass
  | none => true

/-- Captures in descending class until the held request fits (R134). -/
def State.makeRoom (h : BitVec 8) : Nat → State → State
  | 0, s => s
  | n + 1, s =>
    if s.heldFits h then s
    else
      let run := s.tilesWith fun t => t.capturable && 0 < t.sclass
      let top := run.foldl (fun m g => Nat.max m (s.tile g).sclass) 0
      match s.firstRanked (run.filter fun g => (s.tile g).sclass == top) with
      | none => s
      | some g => State.makeRoom h n (s.beginCapture g true false)

/-- HELD_REQUEST_PREEMPT (R134): the request has been held for 4,096 cy. -/
def execHeldRequestPreempt (s : State) : Host.Outcome State Fault Refusal :=
  event (fun s => match s.held with
    | none => s
    | some h => if s.cy < s.heldAt + 4096 then s else State.makeRoom h 256 s) s

/-! ## Temperature (R44) -/

/-- While the 110 °C response is in force, firmware captures the first running tile in the order of R144. -/
def State.coolDown (s : State) : State :=
  match s.firstRanked (s.tilesWith Tile.capturable) with
  | none => s
  | some g => s.beginCapture g true false

/-- TEMPERATURE_SAMPLE (R44): the four dies' junction temperatures in °C. At 115 °C the core rails are removed, without capture. -/
def execTemperatureSample (t0 t1 t2 t3 : Nat) (s : State) : Host.Outcome State Fault Refusal :=
  event (fun s =>
    let ts := [t0, t1, t2, t3]
    let s := { s with
      dies := s.dies.mapIdx fun i (x : Die) => { x with temp := ts.getD i 0 }
      hot := ts.any fun t => 100 ≤ t
      warn := s.warn || ts.any fun t => 100 ≤ t
      hot110 := (s.hot110 || ts.any fun t => 110 ≤ t) && ts.any fun t => 100 ≤ t }
    if ts.any fun t => 115 ≤ t then { s with railsOff := true }.emit (.mgmt true [])
    else if s.hot110 then s.coolDown else s) s

end Sys2Proof.Machine
end

