-- ==== Sys2Proof/Machine/Residency.lean ====
section
/-! DEFINITION. Residency handles (R148 to R155): their moves between tiers, the victims of a promotion, the scan of queued launches
with its prefetches, and the commands of RES_CMD. -/

namespace Sys2Proof.Machine

/-! ## The entries of a handle's range -/

/-- The entry that maps a virtual address, or would map it when it were present: where it lies, log2 of its page, its bits. -/
def slotGo (s : State) (va : Nat) : (left base : Nat) → Option (Nat × Nat × BitVec 128)
  | 0, _ => none
  | k + 1, base =>
    let pa := base + 16 * (va / 2 ^ (16 + 13 * k) % 2 ^ 13)
    let e := (s.tableEntry pa).1
    if k = 0 then some (pa, 16, e)
    else if e.getLsbD 7 then (if k = 1 then some (pa, 29, e) else none)
    else if !e.getLsbD 0 || tableBad (3 - k) e then none
    else slotGo s va k ((e.extractLsb' 17 31).toNat * 2 ^ 17)

/-- The entries of a range of whole pages, each once; `none` where one is missing or reaches out of the range. -/
def State.rangeSlots (s : State) (c : Ctx) (base size : Nat) : (fuel va : Nat) → Option (List (Nat × Nat × BitVec 128))
  | 0, _ => none
  | k + 1, va =>
    if base + size ≤ va then some []
    else match slotGo s va 3 (c.trootNext.toNat * 2 ^ 17) with
      | none => none
      | some (pa, n, e) =>
        let lo := va / 2 ^ n * 2 ^ n
        if lo < base || base + size < lo + 2 ^ n then none
        else (s.rangeSlots c base size k (lo + 2 ^ n)).map ((pa, n, e) :: ·)

/-- The entries of a handle's range. -/
def State.resSlots (s : State) (e : BitVec 512) : Option (List (Nat × Nat × BitVec 128)) :=
  match s.ctx? (resCtx e) with
  | none => none
  | some c => s.rangeSlots c (resVaBase e).toNat (65536 * resPages e) (resPages e + 1) (resVaBase e).toNat

/-- Every VALID handle with its entry. -/
def State.resAll (s : State) : List (Nat × BitVec 512) :=
  (List.range 16383).filterMap fun i => match s.resEntry (i + 1) with
    | some e => if resValid e then some (i + 1, e) else none
    | none => none

def State.moveOf (s : State) (h : Nat) : Option ResMove := s.resMoves.find? fun m => m.h.toNat == h

/-- The tier a handle is at or moving to. -/
def State.nextTier (s : State) (h : Nat) (e : BitVec 512) : BitVec 2 := ((s.moveOf h).map (·.toTier)).getD (resTier e)
/-- The tier whose frames a handle has. -/
def State.nowTier (s : State) (h : Nat) (e : BitVec 512) : BitVec 2 := ((s.moveOf h).map (·.fromTier)).getD (resTier e)

/-- Whether a handle's frames at a tier lie on a die (tier 1) or a port (tier 2). -/
def onPlace (e : BitVec 512) (tier : BitVec 2) (x : BitVec 2) : Bool := if tier = 1 then resDie e == x else resPort e == x

/-- Pages open to a tier on a die or port (R149). -/
def State.resCap (s : State) (tier x : BitVec 2) : Nat :=
  if tier = 1 then 16 * (vget s.resPool 0 x).toNat else 16384 * (s.resCxl.extractLsb' (16 * x.toNat) 16).toNat

/-- Pages that handles have, or will have once the moves in progress end. -/
def State.pagesThen (s : State) (tier x : BitVec 2) : Nat :=
  sumList (s.resAll.map fun e => if s.nextTier e.1 e.2 == tier && onPlace e.2 tier x then resPages e.2 else 0)
def State.pagesNow (s : State) (tier x : BitVec 2) : Nat :=
  sumList (s.resAll.map fun e => if s.nowTier e.1 e.2 == tier && onPlace e.2 tier x then resPages e.2 else 0)

/-! ## Moves (R151) -/

/-- The number under which a move's shootdown is known among those that commands wait for. -/
def moveTag (h : Nat) : Nat := 2 ^ 40 + h

/-- Entries as step 2 of a move leaves them: LAT 0 and P 0. -/
def unmapped (e : BitVec 128) : BitVec 128 := e &&& ~~~ ((3 : BitVec 128) <<< 70) &&& ~~~ (1 : BitVec 128)

/-- A move starts (R151 steps 1 to 3); the classes that the driver last gave the pages are kept for its end. -/
def State.startMove (s : State) (h : Nat) (e : BitVec 512) (tier : BitVec 2) (cmd : Bool) : State :=
  let slots := (s.resSlots e).getD []
  let lat := slots.map fun x => leafLat x.2.2
  let s := if resTier e = 1 || (Tab.get? s.resLat h).isNone then { s with resLat := Tab.set s.resLat h lat } else s
  let s := s.modRes h fun e => withField e 324 2 3
  let s := slots.foldl (fun s x => s.putEntry x.1 (unmapped x.2.2)) s
  { s.startShootdown 1 (resCtx e) (resVaBase e) false (some (moveTag h, 0)) with
    resMoves := s.resMoves ++ [{ h := BitVec.ofNat 14 h, fromTier := resTier e, toTier := tier, die := resDie e, port := resPort e, cmd := cmd }] }

/-- RES_CMD is done with a CODE (R149). -/
def State.resDone (s : State) (code : Byte) : State := { s with resGo := false, resCode := code }

/-! ## Victims (R153) -/

/-- The ranking of R153 as one number, smallest first. -/
def victimKey (h : Nat) (e : BitVec 512) : Nat :=
  (((resPrio e).toNat * 65536 + (65535 - (resNext e).toNat)) * 2 ^ 32 + (2 ^ 32 - 1 - resPages e)) * 16384 + (16383 - h)

/-- The handles that may be moved out of a tier on a die or port, in the order of R153. A promotion of `h` never takes `h`; a prefetch
takes only handles with a NEXTUSE beyond its own (R154). -/
def State.resVictims (s : State) (tier x : BitVec 2) (h : Nat) (limit : Option Nat) : List (Nat × BitVec 512) :=
  (s.resAll.filter fun e => e.1 != h && resTier e.2 == tier && onPlace e.2 tier x && resUsers e.2 == 0 && resPrio e.2 != 3
    && (match limit with | some n => decide (n < (resNext e.2).toNat) | none => true)).mergeSort
      fun a b => victimKey a.1 a.2 ≤ victimKey b.1 b.2

/-- The first victims whose pages reach a number; `none` when all of them do not. -/
def enough : Nat → List (Nat × BitVec 512) → Option (List (Nat × BitVec 512))
  | 0, _ => some []
  | _ + 1, [] => none
  | n + 1, e :: r => (enough (n + 1 - resPages e.2) r).map (e :: ·)

/-- Room for pages on a port: its tier 2 handles are evicted in the ranking until they fit. -/
def State.portRoom (s : State) (p : BitVec 2) (pages h : Nat) (limit : Option Nat) : Option State :=
  match enough (s.pagesThen 2 p + pages - s.resCap 2 p) (s.resVictims 2 p h limit) with
  | none => none
  | some vs => some (vs.foldl (fun s v => s.startMove v.1 v.2 0 false) s)

/-- A victim of tier 1 leaves: to tier 2 where its port's pool has room, else to tier 0. -/
def State.displace (h : Nat) (limit : Option Nat) (s : State) (v : Nat × BitVec 512) : State :=
  match s.portRoom (resPort v.2) (resPages v.2) h limit with
  | some s => s.startMove v.1 v.2 2 false
  | none => s.startMove v.1 v.2 0 false

/-- A promotion to tier 1 on HDIE, with victims where it needs room (R153); `none` when it does not fit. -/
def State.promoteTo (s : State) (h : Nat) (e : BitVec 512) (limit : Option Nat) (cmd : Bool) : Option State :=
  let d := resDie e
  match enough (s.pagesThen 1 d + resPages e - s.resCap 1 d) (s.resVictims 1 d h limit) with
  | none => none
  | some vs => some ((vs.foldl (State.displace h limit) s).startMove h e 1 cmd)

/-- Moves in progress of a die's handles (R154). -/
def State.movesOn (s : State) (d : Nat) : Nat := (s.resMoves.filter fun m => m.die.toNat == d).length

/-- Promotions that waiting launches need (R150, R154). -/
def State.serveWaiting (s : State) : State :=
  let hs := (s.launches.flatMap fun (e : Nat × Launch) => if e.2.counted then [] else e.2.handles).eraseDups
  hs.foldl (fun s h => match s.resEntry h.toNat with
    | none => s
    | some e =>
      if !resValid e || resTier e = 1 || resTier e = 3 then s
      else (s.promoteTo h.toNat e none false).getD s) s

/-! ## The end of a move (R151 step 4) -/

/-- Copy one page of a handle into its new frame, line by line with its poison: from the host copy, or from its old frame. -/
def State.copyPage (s : State) (src : Option W64) (leaf : BitVec 128) (old new n : Nat) : State :=
  (List.range (n / 64)).foldl (fun s i =>
    match src with
    | some a => s.wrDev 0 (leafKey leaf) (new + 64 * i) (s.hostRead 0 (a + BitVec.ofNat 64 (64 * i)) 64) false
    | none =>
      let v := s.rdDev (leafKey leaf) (old + 64 * i) 64
      s.wrDev 0 (leafKey leaf) (new + 64 * i) v.1 v.2) s

/-- A frame for a page lies in the home that a move goes to, aligned to its page. -/
def frameFits (m : ResMove) (log2 : Nat) (pa : Nat) : Bool :=
  pa % 2 ^ log2 == 0 &&
  (if m.toTier = 1 then pa / 2 ^ 37 == m.die.toNat else pa / 2 ^ 44 == 8 + m.port.toNat && decide (pa % 2 ^ 44 < 2 ^ 42))

/-- The entry of a page at its new frame. -/
def remapped (m : ResMove) (leaf : BitVec 128) (lat : BitVec 2) (pa : Nat) : BitVec 128 :=
  let home : Nat := if m.toTier = 1 then m.die.toNat else 4 + m.port.toNat
  let keep : BitVec 128 := (leaf.extractLsb' 72 56).setWidth 128 <<< 72 ||| ((leaf.extractLsb' 68 2).setWidth 128 <<< 68)
    ||| (leaf.extractLsb' 0 16).setWidth 128
  keep ||| BitVec.ofNat 128 (lat.toNat * 2 ^ 70 + home * 2 ^ 64 + pa % 2 ^ 48 / 2 ^ 16 * 2 ^ 16 + 1)

/-- Place the pages of a range in frames. -/
def State.placePages (m : ResMove) (host : Option W64) (base : Nat) :
    List (Nat × Nat × BitVec 128) → List (BitVec 2) → List (BitVec 32) → State → State
  | [], _, _, s => s
  | (pa, n, leaf) :: r, lats, fs, s =>
    let new := ((fs.head?.map BitVec.toNat).getD 0) * 65536
    let s := s.copyPage (host.map fun a => a + BitVec.ofNat 64 base) leaf (leafFrame leaf) new (2 ^ n)
    let s := s.putEntry pa (remapped m leaf (if m.toTier = 1 then lats.headD 0 else 0) new)
    State.placePages m host (base + 2 ^ n) r (lats.drop 1) (fs.drop (2 ^ (n - 16))) s

/-- The first frame of each page of a range, from the frames that the residency unit gives 64 KiB by 64 KiB. -/
def framesOk (m : ResMove) : List (Nat × Nat × BitVec 128) → List (BitVec 32) → Bool
  | [], fs => fs.isEmpty
  | (_, n, _) :: r, fs =>
    let k := 2 ^ (n - 16)
    match fs with
    | [] => false
    | f :: _ =>
      frameFits m n (f.toNat * 65536) && (fs.take k) == (List.range k).map (fun i => f + BitVec.ofNat 32 i) && framesOk m r (fs.drop k)

/-- RESIDENCY_MOVE_COMPLETE (R151): the shootdown has been acknowledged, and the unit has frames for every page of the range. -/
def execResidencyMoveComplete (h : BitVec 14) (frames : List (BitVec 32)) (s : State) : Host.Outcome State Fault Refusal :=
  event (fun s =>
    match s.moveOf h.toNat, s.resEntry h.toNat with
    | some m, some e =>
      if s.sds.any fun d => d.cmd == some (moveTag h.toNat, 0) then s
      else
        let slots := (s.resSlots e).getD []
        let place := if m.toTier = 1 then m.die else m.port
        let fits := m.toTier == 0
          || (framesOk m slots frames && decide (s.pagesNow m.toTier place + resPages e ≤ s.resCap m.toTier place))
        if !fits then s
        else
          let s := if m.toTier = 0 then s
            else State.placePages m (if m.fromTier = 0 then some (resHost e) else none) 0 slots
              ((Tab.get? s.resLat h.toNat).getD []) frames s
          let s := { s with resMoves := s.resMoves.filter fun x => x.h != h }
          let s := s.modRes h.toNat fun e => withField e 324 2 m.toTier.toNat
          (if m.cmd then s.resDone 0 else s).serveWaiting
    | _, _ => s) s

/-! ## The scan and prefetch (R152, R154) -/

/-- The header of a LAUNCH packet that stands in a ring, where it can be read clean. -/
def State.queuedHeader (s : State) (n : BitVec 10) (count : BitVec 32) (h : W64) (word1 : W64) : Option Nat :=
  let bs := if hdrLen h = 9 then (s.ringRead n count 9).map (·.drop 64) else s.devRead (s.queue n).ctx word1 512
  match bs with
  | none => none
  | some bs => if (pNat bs).2 then none else some (pNat bs).1

/-- The handles of the LAUNCH packets of a queue, each with its packet's position. -/
def State.scanQueue (s : State) (qn : BitVec 10) : (left : Nat) → BitVec 32 → Nat → List (Nat × Nat) × Nat
  | 0, _, idx => ([], idx)
  | n + 1, count, idx =>
    if count = (s.queue qn).tail || 256 ≤ idx then ([], idx)
    else match s.ringRead qn count 1 with
      | none => ([], idx)
      | some bs =>
        let v := BitVec.ofNat 512 (pNat bs).1
        let h : W64 := v.extractLsb' 0 64
        if (pNat bs).2 || hdrLen h = 0 || ((s.queue qn).tail - count).toNat < hdrLen h then ([], idx)
        else
          let here := if hdrType h ≠ 2 then []
            else match s.queuedHeader qn count h (v.extractLsb' 64 64) with
              | some x => (List.range 4).map fun i => (bitsOf x (4047 + 16 * i) (4032 + 16 * i), idx)
              | none => []
          let r := s.scanQueue qn n (count + BitVec.ofNat 32 (hdrLen h)) (idx + 1)
          (here ++ r.1, r.2)

/-- The positions of the handles that a class's queued launches name. -/
def State.scanClass (s : State) (c : BitVec 6) : List (Nat × Nat) :=
  ((s.queues.filter fun e => e.2.tclass == c).foldl (fun (acc : List (Nat × Nat) × Nat) e =>
    let r := s.scanQueue (BitVec.ofNat 10 e.1) 256 e.2.head acc.2
    (acc.1 ++ r.1, r.2)) ([], 0)).1

/-- One prefetch (R154): with its victims' moves at most 8 moves in flight per die, victims of a later use only. -/
def State.prefetch (s : State) (h : Nat) : State :=
  match s.resEntry h with
  | none => s
  | some e =>
    if resTier e != 0 && resTier e != 2 then s
    else match s.promoteTo h e (some (resNext e).toNat) false with
      | none => s
      | some r => if (List.range 4).all fun d => r.movesOn d == s.movesOn d || decide (r.movesOn d ≤ 8) then r else s

/-- RESIDENCY_SCAN (R152, R154). -/
def execResidencyScan (c : BitVec 6) (s : State) : Host.Outcome State Fault Refusal :=
  event (fun s =>
    let t := s.tenant c
    if !(t.en && t.active) then s
    else
      let found := if t.resref then s.scanClass c else []
      let mine := s.resAll.filter fun e => resClass e.2 == c
      let pos (h : Nat) : Nat := ((found.find? fun f => f.1 == h).map (·.2)).getD 0xFFFF
      let s := mine.foldl (fun s e => s.modRes e.1 fun x => withField x 304 16 (pos e.1)) s
      let s := s.serveWaiting
      let next := (mine.filter fun e => resKind e.2 && pos e.1 != 0xFFFF).mergeSort fun a b => pos a.1 ≤ pos b.1
      next.foldl (fun s e => s.prefetch e.1) s) s

/-! ## RES_CMD (R149) -/

/-- A command of RES_CMD on its handle: CODE 4 for a handle out of range or without an entry; a handle that is moving waits (R155). -/
def State.resCommand (s : State) (op : BitVec 3) (f : Nat → BitVec 512 → State → State) : State :=
  if !s.resGo || s.resRunOp != op then s
  else
    let h := s.resRunHandle.toNat
    if h = 0 || 16384 ≤ h then s.resDone 4
    else match s.resEntry h with
      | none => s.resDone 4
      | some e => if (s.moveOf h).isSome then s else f h e s

/-- The tier at which the device finds a range (R149): every page in HBM of HDIE, or on CXLPORT, or none present. -/
def tierFound (e : BitVec 512) (slots : List (Nat × Nat × BitVec 128)) : Option Nat :=
  if slots.all fun x => !x.2.2.getLsbD 0 then some 0
  else if slots.all fun x => x.2.2.getLsbD 0 && leafHome x.2.2 == (resDie e).setWidth 4 then some 1
  else if slots.all fun x => x.2.2.getLsbD 0 && leafHome x.2.2 == 4 + (resPort e).setWidth 4 then some 2
  else none

/-- VALIDATE (R149). A nonzero `rsvd` field makes the entry ill-formed (R5): a field out of range, CODE 4 (DEDUCED). -/
def execValidate (s : State) : Host.Outcome State Fault Refusal :=
  event (fun s => s.resCommand 1 fun h e s =>
    let inSeal := match s.ctx? (resCtx e) with
      | some c => c.seals.any fun r => r.spad.isNone && decide (r.base.toNat ≤ (resVaBase e).toNat)
          && decide ((resVaBase e).toNat + 65536 * resPages e ≤ r.base.toNat + r.size.toNat)
      | none => false
    if resPages e = 0 || (resVaBase e).toNat % 65536 ≠ 0 || e.extractLsb' 0 288 ≠ 0 then s.resDone 4
    else match s.resSlots e with
      | none => s.resDone 3
      | some slots =>
        if !inSeal then s.resDone 3
        else match tierFound e slots with
          | none => s.resDone 4
          | some t =>
            if resValid e then s.resDone 0
            else (s.modRes h fun e => withField (withField (withField (withField e 326 1 1) 324 2 t) 304 16 0xFFFF) 288 16 0).resDone 0) s

/-- PROMOTE (R149, R153). -/
def execPromote (s : State) : Host.Outcome State Fault Refusal :=
  event (fun s => s.resCommand 2 fun h e s =>
    if !resValid e then s.resDone 4
    else if resTier e = 1 then s.resDone 0
    else match s.promoteTo h e none true with
      | none => s.resDone 5
      | some s => s) s

/-- DEMOTE (R149, R153): to tier 2. -/
def execDemote (s : State) : Host.Outcome State Fault Refusal :=
  event (fun s => s.resCommand 3 fun h e s =>
    if !resValid e then s.resDone 4
    else if resUsers e ≠ 0 then s.resDone 2
    else if resTier e = 2 then s.resDone 0
    else match s.portRoom (resPort e) (resPages e) h none with
      | none => s.resDone 5
      | some s => s.startMove h e 2 true) s

/-- EVICT (R149): to tier 0. -/
def execEvict (s : State) : Host.Outcome State Fault Refusal :=
  event (fun s => s.resCommand 4 fun h e s =>
    if !resValid e then s.resDone 4
    else if resUsers e ≠ 0 then s.resDone 2
    else if resTier e = 0 then s.resDone 0
    else s.startMove h e 0 true) s

/-- INVALIDATE (R149). -/
def execInvalidate (s : State) : Host.Outcome State Fault Refusal :=
  event (fun s => s.resCommand 5 fun h e s =>
    if resUsers e ≠ 0 then s.resDone 2
    else { (s.modRes h fun e => withField e 326 1 0) with resLat := Tab.erase s.resLat h }.resDone 0) s

end Sys2Proof.Machine
end

