-- ==== Sys2Proof/Machine/Errors.lean ====
section
/-! DEFINITION. Checker mismatches and register regeneration (R312, R313), queue deadlock (R164), counter wraps (R456), the error
ring (R316, R317), the debug port (R97, R290), and the return of power (R44, R290). -/

namespace Sys2Proof.Machine

/-! ## Replay and regeneration -/

/-- CHECKER_MISMATCH_REPLAY (R312): of a stream or vector unit, or, with no stream, of the matrix array. A replay takes no tile cycle and
changes nothing; a second mismatch raises 0x40, or 0x42 for the command in progress. -/
def execCheckerMismatchReplay (g : BitVec 8) (st : Option Stream) (again : Bool) (s : State) : Host.Outcome State Fault Refusal :=
  powered (fun s =>
    let t := s.tile g
    if !t.live || !again then s
    else match st with
      | some st => s.takeCause g st { code := 0x40 }
      | none => match t.emat.running with
        | [] => s
        | c :: _ => s.takeCause g .x { code := 0x42, engine := some .matrix, seq := c.seq }) s

def RegName.stream : RegName → Stream
  | .a _ => .a
  | _ => .x

def Tile.opLog (t : Tile) : Stream → List LogEntry
  | .a => t.alogOps
  | .x => t.xlogOps

/-- A register can be regenerated from the operand log, newest entry first (R313): a copy was read after its last write, or the
instruction that last wrote it is logged. -/
def regenerable (r : RegName) : List LogEntry → Bool
  | [] => false
  | e :: rest => e.writes.contains r || e.reads.contains r || regenerable r rest

/-- REGISTER_REGENERATION (R313): a register fails parity on a read; with `again` the regenerated value fails too. -/
def execRegisterRegeneration (g : BitVec 8) (r : RegName) (again : Bool) (s : State) : Host.Outcome State Fault Refusal :=
  powered (fun s =>
    let t := s.tile g
    let st := RegName.stream r
    if !t.live || (!again && regenerable r (t.opLog st)) then s
    else s.takeCause g st { code := 0x41 }) s

/-! ## Queue deadlock (R164) -/

/-- QUEUE_DEADLOCK (R164): both streams stall on queues, which is charged to the X-stream, or one stalls on a queue whose other end
has executed STEP. -/
def execQueueDeadlock (g : BitVec 8) (s : State) : Host.Outcome State Fault Refusal :=
  powered (fun s =>
    let t := s.tile g
    let a := s.queueStalled g .a
    let x := s.queueStalled g .x
    if !t.live then s
    else if x && (a || t.astep) then s.takeCause g .x { code := 0x5E }
    else if a && t.xstep then s.takeCause g .a { code := 0x5E }
    else s) s

/-! ## Counters (R456) -/

/-- PERFORMANCE_COUNTER_WRAP (R456): a stream's cycle ends without a cause of its own, outside its handler; a wrap's cause is delivered. -/
def execPerformanceCounterWrap (g : BitVec 8) (j : BitVec 3) (s : State) : Host.Outcome State Fault Refusal :=
  powered (fun s =>
    let st := (s.tile g).wrapStream j
    if (s.tile g).pmwrap.contains j then s.deliverWrap g st else s) s

/-! ## The error ring (R316, R317) -/

/-- ERROR_RECORD_WRITE (R316, R317). -/
def execErrorRecordWrite (s : State) : Host.Outcome State Fault Refusal := event (fun s => s.writeRecord errRing) s

/-- ERR_LOST_CLEAR (R317). -/
def execErrLostClear (s : State) : Host.Outcome State Fault Refusal := event (fun s => { s with errOvf := false, errLost := 0 }) s

/-! ## Debug port, power -/

/-- DEBUG_PORT_ENABLE (R97). -/
def execDebugPortEnable (s : State) : Host.Outcome State Fault Refusal := event (fun s => { s with debug := true }) s

/-- DEBUG_HALT_REQUEST (R290): cause 0x70 on a stream, from a debug port that has been enabled. -/
def execDebugHaltRequest (g : BitVec 8) (st : Stream) (s : State) : Host.Outcome State Fault Refusal :=
  powered (fun s => if s.debug && (s.tile g).live then s.takeCause g st { code := 0x70 } else s) s

/-- POWER_RETURN (R44, R290): cause 0x75 is recorded for each context that had a tile, and the context ends; the tiles have
lost their state. -/
def execPowerReturn (s : State) : Host.Outcome State Fault Refusal :=
  event (fun s =>
    if !s.railsOff then s
    else
      let ctxs := (s.tiles.filterMap fun e => e.2.ctx).eraseDups
      let s := { s with railsOff := false }
      let s := ctxs.foldl (fun s c =>
        (s.raiseErr { ctx := c, srcKind := 8, sev := 3, cause := some 0x75, ended := true }).endContext c 0x75) s
      let kept (a : Nat) : Bool := decide (a < 2 ^ 50) || (decide (2 ^ 51 ≤ a) && decide (a < 2 ^ 53)) || decide (hostBase ≤ a)
      { s with
        tiles := [], mem := s.mem.filter fun c => kept c.1, poison := s.poison.filter fun l => kept (64 * l)
        homeDir := s.homeDir.map fun (e : Nat × HomeLine) => (e.1, { e.2 with holders := e.2.holders.filter fun h => 256 ≤ h.1 }) }) s

end Sys2Proof.Machine
end

