-- ==== Sys2Proof/Machine/Checkpoint.lean ====
section
/-! DEFINITION. Checkpoints and rollback (R222, R240, R319 to R322). -/

namespace Sys2Proof.Machine

/-! ## CKPT_CFG (R319) -/

/-- CKPT_CFG_GO (R319): the fields apply from the context's next checkpoint; to a context without checkpoints they apply at once. -/
def execCkptCfgGo (s : State) : Host.Outcome State Fault Refusal :=
  event (fun s =>
    let k := s.ckCfg
    if !k.go then s
    else match s.ctx? k.ctx with
      | none => { s with ckCfg := { k with go := false, code := 2 } }
      | some c =>
        let c := if c.ckInterval = 0 then { c with ckInterval := k.interval, ckUndo := k.undo, ckLast := s.tickcnt }
          else { c with ckNext := some (k.interval, k.undo) }
        { s.setCtx c with ckCfg := { k with go := false, code := 0 } }) s

/-! ## CHECKPOINT (R320) -/

/-- A checkpoint of a context is due: its interval has elapsed, or its undo log has reached UNDOCAP. -/
def State.ckDue (s : State) (c : Ctx) : Bool :=
  c.ckInterval != 0 && !c.rolling && c.pendE.isNone
    && (decide (1000 * c.ckInterval.toNat ≤ s.tickcnt.toNat - c.ckLast.toNat)
      || (c.hasCk && decide (c.ckUndo.toNat * 2 ^ 30 ≤ 64 * c.undo.length)))

/-- The packets of a context that are in progress on the I/O die: in an interpreter unit, a FENCE or a WAITGE. -/
def State.ioPackets (s : State) (c : BitVec 16) : List Packet :=
  (s.interps.toList.filterMap fun x => x.packet.bind fun p => if (s.queue p.queue).ctx == c then some p else none)
    ++ (s.queues.filter fun e => e.2.ctx == c).flatMap fun e =>
      e.2.fence.toList ++ (e.2.waitge.map (·.1)).toList

/-- The tiles of a context that run an item. -/
def State.ctxTiles (s : State) (c : BitVec 16) : List (BitVec 8) :=
  s.tilesWith fun t => t.ctx == some c && t.ist == .running && t.capturing.isNone

/-- Every tile of a context is drained, with its stores performed, and goes on in unchanged state. -/
def State.quiesce (s : State) (c : BitVec 16) : State :=
  (s.ctxTiles c).foldl (fun s g =>
    let s := ((s.drainTile g).dirtyBack g).drainDie (dieOf g)
    (s.modTile g fun t => { t with esalt := { t.esalt with running := t.esalt.running.map Cmd.reask } }).reenterRake g) s

/-- The images of a checkpoint: those that are held already, then one of each running tile under a new handle. -/
def State.ckImagesOf (s : State) (c : BitVec 16) : List (BitVec 32 × Image) :=
  let held := (s.images.filter fun e => e.2.ctx == c).map fun e => (BitVec.ofNat 32 e.1, e.2)
  let ts := s.ctxTiles c
  let handle (g : BitVec 8) : BitVec 32 := dieOf g ++ BitVec.ofNat 30 (s.nextId + ts.idxOf g)
  held ++ ts.map fun g =>
    let t := s.tile g
    let set := if t.cohort.isNone then [g] else ts.filter fun u => sameGroup t (s.tile u)
    let i := s.imageOf g { handle := handle g, drop := false, firmware := false }
      (if set.length = 1 then [] else set.map handle) (t.cohort.isSome && set.head? == some g)
    (handle g, { i with tile := { i.tile with l1 := [], claims := [] } })

/-- The extent of a group's frames (R218), as its pool holds it. -/
def State.groupRange (s : State) (g : Group) : List (Nat × Nat) :=
  let p := s.pool (groupPool g)
  (p.used.filter fun e => e.1 == (g.addr - p.base.toNat) / 4096).map fun e => (groupBase g, 4096 * e.2)

/-- The tier 0 frames of the brines that a context owns (R240, R320). -/
def State.brineRanges (s : State) (c : BitVec 16) : List (Nat × Nat) :=
  (s.nodes.filter fun e => e.2.st == .open_ && e.2.owner == c).flatMap fun e =>
    (e.2.groups.filter fun g => g.tier == 0).flatMap s.groupRange

/-- Perform the drops that a checkpoint owes (R222). -/
def State.performDefers (s : State) (c : BitVec 16) : State :=
  match s.ctx? c with
  | none => s
  | some x =>
    let s := s.modCtx c fun x => { x with refs := x.refs.filter fun r => !r.defer }
    ((x.refs.filter fun r => r.defer).map (·.handle)).foldl State.decRef s

/-- The launches of a context as a checkpoint keeps them: given items are back in their stages, and every entry is available. -/
def State.ckLaunchesOf (s : State) (c : BitVec 16) : List Launch :=
  let s := (s.tilesWith fun t => t.ist == .given).foldl State.returnItem s
  (s.launches.filter fun e => e.2.ctx == c).map fun e =>
    { e.2 with dies := e.2.dies.map fun (x : LaunchDie) =>
        { x with queues := x.queues.map fun (q : SqInst) => { q with entries := q.entries.map fun n => { n with avail := true } } } }

/-- Step 1 and step 2's halt: the context's tiles stop as for a capture, and none of its packets starts. -/
def State.ckBegin (s : State) (c : BitVec 16) : State :=
  let s := s.modCtx c fun x => { x with hold := true }
  (s.ctxTiles c).foldl (fun s g => s.modTile g fun t =>
    if t.stop.isNone then { t with stop := some .checkpoint } else t) s

/-- Step 5: the tiles resume on their unchanged state. -/
def State.ckResume (s : State) (c : BitVec 16) : State :=
  (s.tilesWith fun t => t.ctx == some c && t.stop == some .checkpoint).foldl (fun s g => s.modTile g fun t => { t with stop := none }) s

/-- A checkpoint that is due, or has begun (R320, R322), while no rollback is owed (R321): it ends once the context's packets in progress have completed. -/
def State.checkpoint (s : State) (c : BitVec 16) : State :=
    match s.ctx? c with
    | none => s
    | some x =>
      if (!s.ckDue x && !x.hold) || x.rolling || x.pendE.isSome then s
      else
        let s := s.ckBegin c
        if !(s.ioPackets c).isEmpty || s.tiles.any (fun e => e.2.ctx == some c && e.2.capturing.isSome) then s
        else
        let s := s.quiesce c
        let imgs := s.ckImagesOf c
        let grans := (s.gran.filter fun e => e.2 == c && (s.imageAt e.1).isNone).map fun e => (4096 * e.1, 4096)
        let ranges := grans ++ s.brineRanges c
        let inRange (a : Nat) : Bool := ranges.any fun r => decide (r.1 ≤ a) && decide (a < r.1 + r.2)
        let s := { s.performDefers c with nextId := s.nextId + (s.ctxTiles c).length }
        let iv := x.ckNext.getD (x.ckInterval, x.ckUndo)
        (s.ckResume c).modCtx c fun x => { x with
          ckInterval := iv.1, ckUndo := iv.2, ckNext := none, ckLast := s.tickcnt, interval := x.interval + 1
          ckImages := if iv.1 = 0 then [] else imgs
          ckCells := if iv.1 = 0 then [] else s.mem.filter fun k => inRange k.1
          ckPoison := if iv.1 = 0 then [] else s.poison.filter fun l => inRange (64 * l)
          ckRanges := if iv.1 = 0 then [] else ranges
          ckLaunches := if iv.1 = 0 then [] else s.ckLaunchesOf c
          ckFreed := [], undo := [], ivPackets := [], hasCk := iv.1 != 0, hold := false }

/-- The checkpoints that a tick selects: each context's interval has elapsed (R320). -/
def State.ckTick (s : State) : State := s.ctxs.foldl (fun s e => if s.ckDue e.2 then s.checkpoint e.2.id else s) s

/-- CHECKPOINT (R320, R322). -/
def execCheckpoint (c : BitVec 16) (s : State) : Host.Outcome State Fault Refusal := event (fun s => s.checkpoint c) s

/-! ## ROLLBACK (R240, R321) -/

/-- Byte ranges of the frames of a node's local groups. -/
def State.nodeRanges (s : State) (n : Node) : List (Nat × Nat) :=
  (n.groups.filter fun g => g.tier != 3).flatMap s.groupRange

def inAny (rs : List (Nat × Nat)) (a : Nat) : Bool := rs.any fun r => decide (r.1 ≤ a) && decide (a < r.1 + r.2)

/-- Frames that the undo log leaves alone (R240): of nodes that are SEALED or HARVESTING, and freed since the checkpoint. -/
def State.exempt (s : State) (c : Ctx) : List (Nat × Nat) :=
  c.ckFreed ++ (s.nodes.filter fun e => e.2.st == .sealed || e.2.st == .harvesting).flatMap fun e => s.nodeRanges e.2

/-- Step 2: the undo log is written back, newest first. -/
def State.writeUndo (s : State) (c : Ctx) : State :=
  let skip := s.exempt c
  c.undo.foldl (fun s u =>
    if inAny skip (64 * u.line) then s
    else { s with
      mem := Mem.puts s.mem (64 * u.line) u.cells
      poison := if u.pois then insNat s.poison u.line else delNat s.poison u.line
      lineKey := match u.key with
        | some k => Tab.set s.lineKey u.line k
        | none => Tab.erase s.lineKey u.line }) s

/-- Step 3, memory: the granules of the context and its brines' tier 0 frames are as the checkpoint found them. -/
def State.restoreCells (s : State) (c : Ctx) : State :=
  let mine := (s.nodes.filter fun e => e.2.st == .open_ && e.2.owner == c.id && e.2.interval != c.interval).flatMap fun e => s.nodeRanges e.2
  let other := (s.nodes.filter fun e => e.2.st != .free).flatMap fun e => s.nodeRanges e.2
  let keep (r : Nat × Nat) : Bool := inAny mine r.1 || !(inAny other r.1 || inAny c.ckFreed r.1)
  let rs := c.ckRanges.filter keep
  let s := { s with gran := s.gran.filter fun e => e.2 != c.id }
  let s := rs.foldl (fun s r =>
    let s := s.zero r.1 r.2
    if r.2 = 4096 && !inAny mine r.1 then { s with gran := Tab.set s.gran (r.1 / 4096) c.id } else s) s
  { s with
    mem := (c.ckCells.filter fun k => inAny rs k.1).foldl (fun m k => Mem.put m k.1 k.2) s.mem
    poison := (c.ckPoison.filter fun l => inAny rs (64 * l)).foldl insNat s.poison }

/-- Step 4 (R240): references of the interval, DEFER, brines and crystals of the interval. -/
def State.saltBack (s : State) (c : Ctx) : State :=
  let taken := (c.refs.filter fun r => r.interval == c.interval).map (·.handle)
  let behind (h : BitVec 32) : Bool :=
    let n := s.node h
    !s.hStale h && n.st != .open_ && n.sealer == c.id && n.sealIv == c.interval
  let s := s.modCtx c.id fun x => { x with
    refs := (x.refs.filter fun r => r.interval != c.interval).map fun r =>
      { r with defer := false, behind := r.behind || (r.opens && behind r.handle) } }
  let s := taken.foldl State.decRef s
  let brines := (s.nodes.filter fun e => e.2.st == .open_ && e.2.owner == c.id && e.2.interval == c.interval).map fun e =>
    e.2.gen ++ BitVec.ofNat 24 e.1
  brines.foldl (fun s h => s.freeNode chainFuel h) s

/-- A launch as it is dispatched again from its saved header (R321 step 5). -/
def State.freshLaunch (s : State) (l : Launch) : Launch :=
  let h := leNat (wordBytes l.header)
  let n := launchOf h l.id l.ctx l.tclass l.packet l.interval
  { n with handles := s.handlesOf n }

/-- Step 5: launches of the interval begin again; earlier ones stand as they stood at the checkpoint. -/
def State.launchesBack (s : State) (c : Ctx) : State :=
  (s.launches.filter fun e => e.2.ctx == c.id).foldl (fun s (e : Nat × Launch) =>
    let l := e.2
    let s := if l.counted then s.countUsers l.handles false else s
    match c.ckLaunches.find? fun k => k.id == l.id with
    | some k =>
      let k := { k.mapPushers (fun _ => none) with dies := k.dies.map fun (x : LaunchDie) => { x with captured := [] } }
      (if k.counted then s.countUsers k.handles true else s).setLaunch k
    | none => s.setLaunch (s.freshLaunch l)) s

/-- Step 3, images: each is in the image area again, and its item awaits resumption where its launch has not retired. -/
def State.imagesBack (s : State) (c : Ctx) : State :=
  c.ckImages.foldl (fun s e =>
    let live := match e.2.tile.item with
      | some i => (s.launch? i.launch).isSome
      | none => true
    if !live then s
    else
      let d : BitVec 2 := BitVec.ofNat 2 (e.1.toNat / 2 ^ 30)
      let s := (e.2.tile.cmds.flatMap fun k => k.refs).foldl (fun s h => if s.hStale h then s else s.incRef h) s
      let s := s.placeImage e.2
      match e.2.tile.item with
      | some i => if e.2.firmware then s else s.noteCaptured d e.1 i
      | none => s) s

/-- A completion record of a packet that a rollback stopped or undid (R321 step 6). -/
def State.rolledRecord (s : State) (p : Packet) : State :=
  let h := p.header
  s.pushCompl p.queue
    (complBits s.devtime 0 (p.count + BitVec.ofNat 32 p.len) (hdrTag h) 0x08 (hdrType h) p.queue) (hdrIrq h) false

/-- Step 1: the context's tiles, images and packets on the I/O die stop. -/
def State.stopContext (s : State) (c : BitVec 16) : State :=
  let s := (s.tilesWith fun t => t.ctx == some c).foldl State.discardTile s
  let s := ((s.images.filter fun e => e.2.ctx == c).map (·.1)).foldl State.dropImage s
  let mine (q : BitVec 10) : Bool := (s.queue q).ctx == c
  let gone := (s.ioPackets c).map (·.id)
  { s with
    interps := s.interps.map fun x => if (x.packet.map fun p => mine p.queue) == some true then Interp.reset else x
    queues := s.queues.map fun (e : Nat × Queue) =>
      if e.2.ctx == c then
        (e.1, { e.2 with fence := none, waitge := none
                         inflight := e.2.inflight.filter fun n => !gone.contains n })
      else e }

/-- ROLLBACK (R240, R321, R322). -/
def execRollback (c : BitVec 16) (s : State) : Host.Outcome State Fault Refusal :=
  event (fun s =>
    match s.ctx? c with
    | none => s
    | some x =>
      match x.pendE with
      | none => s
      | some (cause, tr) =>
        let stopped := s.ioPackets c
        let s := s.stopContext c
        let x := (s.ctx? c).getD x
        let s := (s.writeUndo x).restoreCells x
        let s := ((s.saltBack x).launchesBack x).imagesBack x
        let s := (stopped ++ x.ivPackets.map (·.1)).foldl State.rolledRecord s
        let eng : BitVec 3 := tr.extractLsb' 68 3
        let s := s.raiseErr { ctx := c, srcId := (tr.extractLsb' 87 8).setWidth 16
                              srcKind := if eng = 0 then (if tr.getLsbD 67 then 1 else 0) else if 4 ≤ eng.toNat then 3 else 2
                              sev := if consumesPoison cause then 2 else 3, cause := some cause, rb := true
                              info := tr.extractLsb' 128 64, apc := tr.extractLsb' 114 14, xpc := tr.extractLsb' 100 14, engine := eng }
        s.modCtx c fun x => { x with
          pendE := none, rolling := false, hold := false, undo := [], ckFreed := [], ivPackets := [] }) s

end Sys2Proof.Machine
end

