-- ==== Sys2Proof/Machine/QueueProgs.lean ====
section
/-! DEFINITION. Queue programs: the interpreter's instructions (R81, R82, R84), the run of a program on a packet, and loading a
program into a slot (R79, R80, R83). -/

namespace Sys2Proof.Machine

/-! ## Registers, loops, windows -/

/-- `g0` reads as zero (R81). -/
def Interp.rd (x : Interp) (r : K4) : W64 := if r = 0 then 0 else vget x.g 0 r
/-- A write of `g0` is discarded (R81). -/
def Interp.wr (x : Interp) (r : K4) (v : W64) : Interp := if r = 0 then x else { x with g := vset x.g r v }

/-- At the end of a loop's body the next trip begins, or the loop is left (R82, R83). -/
def endLoops (pc : Nat) : List (Nat × Nat × Nat) → Nat × List (Nat × Nat × Nat)
  | [] => (pc, [])
  | (first, last, left) :: r =>
    if pc = last then
      match left with
      | 0 => endLoops pc r
      | n + 1 => (first, (first, last, n) :: r)
    else (pc, (first, last, left) :: r)

/-- The program goes on at a word. -/
def Interp.goto (x : Interp) (pc : Nat) : Interp :=
  let r := endLoops pc x.loops
  { x with pc := r.1, loops := r.2 }

/-- The effective offset in a window of 2^`n` bytes (R82). -/
def winOff (n : Nat) (gs : W64) (off : BitVec 13) (sz : Nat) : Nat := (gs.toNat + off.toNat) % 2 ^ n / sz * sz

/-- The window that an access names, its effective offset and its size. -/
def Interp.winAt (x : Interp) (gs : W64) (w : BitVec 3) (z : BitVec 2) (off : BitVec 13) : Option (Window × Nat × Nat) :=
  x.prog.bind fun p => (p.windows[w.toNat]?).map fun d => (d, winOff d.log2size gs off (2 ^ z.toNat), 2 ^ z.toNat)

/-- The queue whose packet a unit runs. -/
def Interp.qn (x : Interp) : BitVec 10 := (x.packet.map (·.queue)).getD 0

/-- What a word of a program does: the next word, a branch by a distance, a halt with its status, QDISP, QDROP. -/
inductive QEff where
  | next (s : State) (x : Interp)
  | jump (x : Interp) (d : Nat)
  | halt (status : Byte) (pois : Bool)
  | disp
  | drop (c : BitVec 16)

/-- A load (R82, R84): the packet buffer, the queue's scratch, device memory of the queue's context, host memory. -/
def qLoad (x : Interp) (s : State) (d : K4) (gs : W64) (w : BitVec 3) (z : BitVec 2) (off : BitVec 13) : QEff :=
  match x.winAt gs w z off with
  | none => .halt 0x18 false
  | some (win, ea, n) =>
    let put (bs : List Byte) : QEff := .next s (x.wr d (BitVec.ofNat 64 (leNat bs)))
    match win.kind.toNat with
    | 0 => put (Mem.gets x.buf ea n)
    | 1 => put (Mem.gets (s.queue x.qn).scratch ea n)
    | 2 =>
      match s.devRead (s.queue x.qn).ctx (win.base + BitVec.ofNat 64 ea) n with
      | none => .halt 0x18 false
      | some l => if (pNat l).2 then .halt 0x18 true else put (l.map (·.1))
    | _ => if s.hostFails then .halt 0x18 false else put (s.hostRead (s.queueFn x.qn) (win.base + BitVec.ofNat 64 ea) n)

/-- A store (R80, R82, R84): bytes beyond the packet are discarded. -/
def qStore (x : Interp) (s : State) (v gs : W64) (w : BitVec 3) (z : BitVec 2) (off : BitVec 13) : QEff :=
  match x.winAt gs w z off with
  | none => .halt 0x18 false
  | some (win, ea, n) =>
    let bs := leBytes n v.toNat
    let ctx := (s.queue x.qn).ctx
    let va := win.base + BitVec.ofNat 64 ea
    match win.kind.toNat with
    | 0 => .next s (if ea + n ≤ 64 * (x.packet.map (·.len)).getD 0 then { x with buf := Mem.puts x.buf ea bs } else x)
    | 1 => .next (s.modQueue x.qn fun q => { q with scratch := Mem.puts q.scratch ea bs }) x
    | 2 => if s.devWritable ctx va n then .next (s.devWrite ctx va (clean bs)) x else .halt 0x18 false
    | _ => if s.hostFails then .halt 0x18 false else .next (s.hostWrite (s.queueFn x.qn) va bs) x

/-- What each instruction of R82 does. -/
def qEff (i : Instr) (x : Interp) (s : State) : QEff :=
  let alu (d a b : K4) (f : W64 → W64 → W64) : QEff := .next s (x.wr d (f (x.rd a) (x.rd b)))
  let imm (d a : K4) (v : BitVec 18) (f : W64 → W64 → W64) : QEff := .next s (x.wr d (f (x.rd a) (v.signExtend 64)))
  let br (c : Bool) (d : BitVec 18) : QEff := if c then .jump x d.toNat else .next s x
  match i with
  | .qadd d a b => alu d a b (· + ·)
  | .qsub d a b => alu d a b (· - ·)
  | .qand d a b => alu d a b (· &&& ·)
  | .qor d a b => alu d a b (· ||| ·)
  | .qxor d a b => alu d a b (· ^^^ ·)
  | .qshl d a b => alu d a b fun u v => u <<< (v.extractLsb' 0 6).toNat
  | .qshr d a b => alu d a b fun u v => u >>> (v.extractLsb' 0 6).toNat
  | .qaddi d a v => imm d a v (· + ·)
  | .qandi d a v => imm d a v (· &&& ·)
  | .qori d a v => imm d a v (· ||| ·)
  | .qshli d a n => .next s (x.wr d (x.rd a <<< n.toNat))
  | .qshri d a n => .next s (x.wr d (x.rd a >>> n.toNat))
  | .qmovi d v => .next s (x.wr d (v.signExtend 64))
  | .qld d a w z o => qLoad x s d (x.rd a) w z o
  | .qst d a w z o => qStore x s (x.rd d) (x.rd a) w z o
  | .qbeq a b d => br (x.rd a == x.rd b) d
  | .qbne a b d => br (x.rd a != x.rd b) d
  | .qbltu a b d => br (decide ((x.rd a).toNat < (x.rd b).toNat)) d
  | .qloop c b => .next s { x with loops := (x.pc + 1, x.pc + 1 + b.toNat, c.toNat) :: x.loops }
  | .qdisp => .disp
  | .qdrop c => .drop c
  | _ => .halt 0x18 false

/-! ## A step of a run (R84) -/

/-- The header as the program leaves it in the buffer. -/
def Interp.header (x : Interp) : W64 := BitVec.ofNat 64 (leNat (Mem.gets x.buf 0 8))

/-- The queue halts in a run. -/
def State.qHalt (s : State) (u : BitVec 4) (status : Byte) (pois : Bool) : State :=
  let x := s.unit u
  match x.packet with
  | none => s
  | some p => (s.setUnit u Interp.reset).haltPacket p status x.header pois

/-- QDISP (R82, R84): the buffer is dispatched, or its header halts the queue. LEN is held against the ring in which the packet stood. -/
def State.qDispatch (s : State) (u : BitVec 4) (x : Interp) : State :=
  match x.packet with
  | none => s
  | some p =>
    let s := s.setUnit u x
    let q := s.queue p.queue
    let v : BitVec 512 := BitVec.ofNat 512 (leNat (Mem.gets x.buf 0 64))
    let st := headerCheck x.prog.isSome q.src x.ringN p.count v
    if st ≠ 0 then s.qHalt u st false
    else if 0x80 ≤ (hdrType x.header).toNat || hdrType x.header = 1 then s.qHalt u 0x19 false
    else s.passPacket u { p with words := toWords (Mem.gets x.buf 0 (64 * hdrLen x.header)) }

/-- QDROP (R82): the packet completes with status 0x01 and RESULT CODE. -/
def State.qDrop (s : State) (u : BitVec 4) (x : Interp) (c : BitVec 16) : State :=
  match x.packet with
  | none => s
  | some p =>
    (s.setUnit u Interp.reset).complete { p with words := toWords (Mem.gets x.buf 0 (64 * p.len)) } 0x01 (c.setWidth 64)

/-- A word of a unit's program executes (R84): the 257th step halts the queue instead. -/
def State.qStep (s : State) (u : BitVec 4) (f : Interp → State → QEff) : State :=
  let x := s.unit u
  if !x.running then s
  else if 256 ≤ x.steps then s.qHalt u 0x16 false
  else
    let x := { x with steps := x.steps + 1 }
    match f x s with
    | .next s x => s.setUnit u (x.goto (x.pc + 1))
    | .jump x d => s.setUnit u (x.goto (x.pc + d))
    | .halt st p => { s with hostFails := false }.qHalt u st p
    | .disp => s.qDispatch u x
    | .drop c => s.qDrop u x c

/-- An instruction of a queue program, executed by the unit that issues it. -/
def qInstr (f : Interp → State → QEff) (s : State) : Host.Outcome State Fault Refusal :=
  match s.cur with
  | .interp u => .next (s.qStep u f)
  | _ => .fault .noIssuer

/-- QADD (R82). -/
def execQadd (d s t : K4) (st : State) : Host.Outcome State Fault Refusal := qInstr (qEff (.qadd d s t)) st
/-- QSUB (R82). -/
def execQsub (d s t : K4) (st : State) : Host.Outcome State Fault Refusal := qInstr (qEff (.qsub d s t)) st
/-- QAND (R82). -/
def execQand (d s t : K4) (st : State) : Host.Outcome State Fault Refusal := qInstr (qEff (.qand d s t)) st
/-- QOR (R82). -/
def execQor (d s t : K4) (st : State) : Host.Outcome State Fault Refusal := qInstr (qEff (.qor d s t)) st
/-- QXOR (R82). -/
def execQxor (d s t : K4) (st : State) : Host.Outcome State Fault Refusal := qInstr (qEff (.qxor d s t)) st
/-- QSHL (R82). -/
def execQshl (d s t : K4) (st : State) : Host.Outcome State Fault Refusal := qInstr (qEff (.qshl d s t)) st
/-- QSHR (R82). -/
def execQshr (d s t : K4) (st : State) : Host.Outcome State Fault Refusal := qInstr (qEff (.qshr d s t)) st
/-- QADDI (R82). -/
def execQaddi (d s : K4) (i : BitVec 18) (st : State) : Host.Outcome State Fault Refusal := qInstr (qEff (.qaddi d s i)) st
/-- QANDI (R82). -/
def execQandi (d s : K4) (i : BitVec 18) (st : State) : Host.Outcome State Fault Refusal := qInstr (qEff (.qandi d s i)) st
/-- QORI (R82). -/
def execQori (d s : K4) (i : BitVec 18) (st : State) : Host.Outcome State Fault Refusal := qInstr (qEff (.qori d s i)) st
/-- QSHLI (R82). -/
def execQshli (d s : K4) (n : BitVec 6) (st : State) : Host.Outcome State Fault Refusal := qInstr (qEff (.qshli d s n)) st
/-- QSHRI (R82). -/
def execQshri (d s : K4) (n : BitVec 6) (st : State) : Host.Outcome State Fault Refusal := qInstr (qEff (.qshri d s n)) st
/-- QMOVI (R82). -/
def execQmovi (d : K4) (i : BitVec 18) (st : State) : Host.Outcome State Fault Refusal := qInstr (qEff (.qmovi d i)) st
/-- QLD (R82, R84). -/
def execQld (d s : K4) (w : BitVec 3) (z : BitVec 2) (o : BitVec 13) (st : State) : Host.Outcome State Fault Refusal :=
  qInstr (qEff (.qld d s w z o)) st
/-- QST (R82, R84). -/
def execQst (d s : K4) (w : BitVec 3) (z : BitVec 2) (o : BitVec 13) (st : State) : Host.Outcome State Fault Refusal :=
  qInstr (qEff (.qst d s w z o)) st
/-- QBEQ (R82). -/
def execQbeq (s t : K4) (disp : BitVec 18) (st : State) : Host.Outcome State Fault Refusal := qInstr (qEff (.qbeq s t disp)) st
/-- QBNE (R82). -/
def execQbne (s t : K4) (disp : BitVec 18) (st : State) : Host.Outcome State Fault Refusal := qInstr (qEff (.qbne s t disp)) st
/-- QBLTU (R82). -/
def execQbltu (s t : K4) (disp : BitVec 18) (st : State) : Host.Outcome State Fault Refusal := qInstr (qEff (.qbltu s t disp)) st
/-- QLOOP (R82). -/
def execQloop (c : BitVec 6) (b : BitVec 9) (st : State) : Host.Outcome State Fault Refusal := qInstr (qEff (.qloop c b)) st
/-- QDISP (R82, R84). -/
def execQdisp (st : State) : Host.Outcome State Fault Refusal := qInstr (qEff .qdisp) st
/-- QDROP (R82). -/
def execQdrop (c : BitVec 16) (st : State) : Host.Outcome State Fault Refusal := qInstr (qEff (.qdrop c)) st

/-- A unit's program runs until it ends (R84). -/
def runProgram (u : BitVec 4) : (fuel : Nat) → State → State
  | 0, s => s
  | n + 1, s =>
    if !(s.unit u).running then s
    else match (s.unit u).word with
      | none => s
      | some w =>
        match decodeQ w with
        | .ok i => runProgram u n (s.qStep u (qEff i))
        | .error _ => s

/-- QUEUE_PROGRAM_RUN (R84): at most 256 steps and the halt of the 257th. -/
def execQueueProgramRun (u : BitVec 4) (s : State) : Host.Outcome State Fault Refusal := event (runProgram u 257) s

/-! ## Loading a program (R79, R80, R83) -/

/-- Extend a measurement register with a digest (R94). -/
def State.extendMreg (s : State) (j : BitVec 4) (digest : List Byte) : State :=
  let old := vget s.mreg 0 j
  { s with mreg := vset s.mreg j (BitVec.ofNat 256 (leNat (sha256 (leBytes 32 old.toNat ++ digest)))) }

/-- A window descriptor's fields (R80). -/
def windowOf (d : BitVec 128) : Window where
  base := d.extractLsb' 64 64
  log2size := (d.extractLsb' 58 6 : BitVec 6).toNat
  kind := d.extractLsb' 56 2
  wr := d.getLsbD 55
  rd := d.getLsbD 54

/-- A descriptor below NWIN is valid (R80). -/
def windowOk (d : BitVec 128) : Bool :=
  let w := windowOf d
  d.extractLsb' 0 54 == 0 &&
  match w.kind.toNat with
  | 0 => w.log2size == 13 && w.base == 0
  | 1 => w.log2size == 8 && w.base == 0
  | _ => 6 ≤ w.log2size && w.log2size ≤ 24 && w.base.toNat % 2 ^ w.log2size == 0

/-- The loops of a program: word of the `QLOOP` and length of its body. -/
def loopsOf (ws : List W32) : List (Nat × Nat) :=
  (List.range ws.length).filterMap fun i =>
    match decodeQ (ws.getD i 0) with
    | .ok (.qloop _ b) => some (i, b.toNat)
    | _ => none

/-- Word `j` lies in the body of a loop. -/
def inBody (l : Nat × Nat) (j : Nat) : Bool := decide (l.1 < j) && decide (j ≤ l.1 + l.2)

/-- The rule of R83 that word `j` breaks; 0 for none. -/
def wordRule (ws : List W32) (wins : List Window) (loops : List (Nat × Nat)) (j : Nat) : Nat :=
  let n := ws.length
  let win (w : BitVec 3) (ok : Window → Bool) : Nat := match wins[w.toNat]? with
    | some d => if ok d then 0 else 3
    | none => 3
  let br (d : BitVec 18) : Nat :=
    let t := j + d.toNat
    if n ≤ t || loops.any (fun l => if inBody l j then !inBody l t && t != l.1 + l.2 + 1 else inBody l t) then 4 else 0
  let first := match decodeQ (ws.getD j 0) with
    | .error c => c
    | .ok (.qld _ _ w _ _) => win w (·.rd)
    | .ok (.qst _ _ w _ _) => win w (·.wr)
    | .ok (.qbeq _ _ d) => br d
    | .ok (.qbne _ _ d) => br d
    | .ok (.qbltu _ _ d) => br d
    | .ok (.qloop _ b) =>
      let around := loops.filter fun l => inBody l j
      if n < j + 1 + b.toNat || around.any (fun l => l.1 + l.2 < j + b.toNat) || 4 ≤ around.length then 5 else 0
    | .ok _ => 0
  if first ≠ 0 then first
  else if j + 1 = n then
    match decodeQ (ws.getD j 0) with
    | .ok .qdisp => 0
    | .ok (.qdrop _) => 0
    | _ => 6
  else 0

/-- The check of a program image (R80, R83): the program, or CODE and WORD. -/
def checkImage (head : List Byte) (words : List W32) : Except (Nat × Nat) Program :=
  let n := leNat (head.take 2)
  let nwin := (head.getD 2 0).toNat
  let descs := (pieces 16 8 ((head.drop 64).take 128)).map fun b => BitVec.ofNat 128 (leNat b)
  if n < 1 || 512 < n || nwin < 1 || 8 < nwin || ((head.drop 3).take 61).any (· != 0) then .error (2, 0)
  else if (descs.take nwin).any (fun d => !windowOk d) || (descs.drop nwin).any (· != 0) then .error (3, 0)
  else
    let wins := (descs.take nwin).map windowOf
    let loops := loopsOf words
    match (List.range n).find? fun j => wordRule words wins loops j != 0 with
    | some j => .error (wordRule words wins loops j, j)
    | none => .ok { words := words, windows := wins }

/-- PROG_LOAD (R79, R80, R83, R94): the load that PROG_CMD.GO asked for. -/
def execProgLoad (s : State) : Host.Outcome State Fault Refusal :=
  event (fun s =>
    if !s.progBusy then s
    else
      let s := { s with progBusy := false, progWord := 0 }
      if s.queues.any fun (e : Nat × Queue) => e.2.en && e.2.prog == s.progSlot then { s with progCode := 7 }
      else
        let head := s.hostRead 0 s.progAddr 192
        let n := Nat.min 512 (leNat (head.take 2))
        let body := s.hostRead 0 (s.progAddr + 192) (4 * n)
        let words := (pieces 4 n body).map fun b => BitVec.ofNat 32 (leNat b)
        match checkImage head words with
        | .ok p =>
          { s with progs := Tab.set s.progs s.progSlot.toNat p, progCode := 0 }.extendMreg 2 (sha256 (head ++ body))
        | .error (c, w) =>
          { s with progs := Tab.erase s.progs s.progSlot.toNat, progCode := BitVec.ofNat 8 c, progWord := BitVec.ofNat 16 w }) s

end Sys2Proof.Machine
end

