-- ==== Sys2Proof/Machine/Trust.lean ====
section
/-! DEFINITION. The root of trust (R92 to R98), TDISP and the channel slots (R99 to R103), package reset, and the management
paths (R36). -/

namespace Sys2Proof.Machine

/-! ## Firmware images (R92, R93) -/

/-- A little-endian field of an image's header. -/
def BootImage.field (i : BootImage) (at_ n : Nat) : Nat := leNat ((i.header.drop at_).take n)

/-- BOOT_STATUS code of an image (R93): the first check that fails, or 0. -/
def State.bootCheck (s : State) (kind : Nat) (i : BootImage) : Byte :=
  let f := BootImage.field i
  let len := f 8 4
  let sel := f 12 4
  let hash := if sel = 0 then s.keyHash0 else s.keyHash1
  let floor := if kind = 1 then s.floorIo else s.floorDc
  if i.header.length ≠ 512 || i.modulus.length ≠ 384 || f 0 4 ≠ 0x4B465648 || f 4 2 ≠ kind || len < 1 || 8388608 < len
      || i.body.length ≠ len || ((i.header.drop 48).take 80).any (· != 0) then 0x01
  else if 1 < sel || (sel = 0 && s.revoked0) || sha256 i.modulus ≠ leBytes 32 hash.toNat then 0x02
  else if sha256 i.body ≠ (i.header.drop 16).take 32 then 0x03
  else if !rsaVerify i.modulus ((i.header.drop 128).take 384) (i.header.take 128) then 0x04
  else if f 6 2 < floor.toNat then 0x05
  else 0x00

/-- The code of one flash copy; a copy that flash does not hold fails the first check. -/
def State.copyCode (s : State) (c : Option BootImage) : Byte :=
  match c with
  | some i => s.bootCheck 1 i
  | none => 0x01

/-- The boot ROM runs a copy that passes (R93, R94). -/
def State.bootRun (s : State) (c : Option BootImage) (b : Bool) : State :=
  match c with
  | some i => { s with bootCode := 0, bootB := b, recovery := false, svnIo := BitVec.ofNat 16 (BootImage.field i 6 2) }.extendMreg 0
      (sha256 (i.header.take 128))
  | none => s

/-- The I/O die's boot: copy A, then copy B, or recovery (R93). -/
def State.boot (s : State) : State :=
  if s.copyCode s.flashA = 0 then s.bootRun s.flashA false
  else
    let code := s.copyCode s.flashB
    if code = 0 then s.bootRun s.flashB true
    else { s with bootCode := code, bootB := false, recovery := true }

/-- What package reset keeps: flash and fuses, host memory, the lines of HBM and CXL as they are stored, and the model's own
counters and schedule; slot 0 receives a new key. -/
def State.afterReset (s : State) : State :=
  let kept (a : Nat) : Bool := decide (a < 2 ^ 50) || decide (hostBase ≤ a)
  { State.reset with
    agenda := s.agenda, focus := s.focus, cur := s.cur, fresh := s.fresh, nextId := s.nextId + 1, out := s.out, cy := s.cy
    mem := s.mem.filter fun c => kept c.1, poison := s.poison.filter fun l => kept (64 * l), lineKey := s.lineKey
    keys := [(0, s.nextId)]
    flashA := s.flashA, flashB := s.flashB, flashDcA := s.flashDcA, flashDcB := s.flashDcB, certChain := s.certChain, keyHash0 := s.keyHash0, keyHash1 := s.keyHash1, revoked0 := s.revoked0
    floorIo := s.floorIo, floorDc := s.floorDc }

/-- PACKAGE_RESET (R93, R94). -/
def execPackageReset (s : State) : Host.Outcome State Fault Refusal := event (fun s => s.afterReset.boot) s

/-- The die controller image of the running bundle, which the I/O die's firmware delivers (R92, R93). -/
def State.dcImage (s : State) : Option BootImage := if s.bootB then s.flashDcB else s.flashDcA

/-- DIE_ROM_IMAGE_CHECK (R93, R94): a die controller image of the running bundle is judged; it runs when it passes. The dies come in order,
die 0 first. -/
def execDieRomImageCheck (d : BitVec 2) (img : BootImage) (s : State) : Host.Outcome State Fault Refusal :=
  event (fun s =>
    let before := (List.range d.toNat).all fun k => (s.die (BitVec.ofNat 2 k)).fw
    if s.recovery || s.dcImage != some img || !before || (s.die d).fw || s.bootCheck 2 img != 0 then s
    else (s.setDie d { s.die d with fw := true }).extendMreg 1 (sha256 (img.header.take 128))) s

/-- MEXT_GO (R95): the extension that MEXT_CMD.GO asked for. -/
def execMextGo (s : State) : Host.Outcome State Fault Refusal :=
  event (fun s =>
    if !s.mextGo then s
    else
      let s := { s with mextGo := false }
      if s.mextIdx.toNat < 8 then { s with mextCode := 1 }
      else { s with mextCode := 0 }.extendMreg s.mextIdx (leBytes 32 s.mextData.toNat)) s

/-! ## Attestation (R96 to R99) -/

def tdiCode : Tdi → Byte
  | .unlocked => 0
  | .locked => 1
  | .run => 2
  | .error => 3

/-- The identity key's public modulus, 384 bytes big-endian (R96). -/
def idModulus : List Byte := beBytes 384 Config.idKey.toNat

/-- The body of an attestation report (R97). -/
def State.reportBody (s : State) (fn : BitVec 8) (nonce : BitVec 256) : List Byte :=
  leBytes 2 1 ++ leBytes 2 (if s.debug then 1 else 0) ++ leBytes 4 (Config.tileRev 0).toNat
    ++ [fn, 0, 0, tdiCode (s.fn fn).tdi] ++ leBytes 2 s.svnIo.toNat ++ leBytes 2 s.floorIo.toNat ++ leBytes 2 s.floorDc.toNat
    ++ leBytes 14 0 ++ leBytes 32 nonce.toNat ++ (s.mreg.toList.flatMap fun m => leBytes 32 m.toNat)
    ++ leBytes 32 (Config.scanMap 0).toNat ++ sha256 idModulus

/-- The report with its signature (R97). -/
def State.report (s : State) (fn : BitVec 8) (nonce : BitVec 256) : List Byte :=
  let b := s.reportBody fn nonce
  b ++ rsaSign Config.idKey Config.idSecret b

/-- A virtual function answers only outside recovery (R93). -/
def State.present (s : State) (fn : BitVec 8) : Bool := fn == 0 || !s.recovery

/-- Bytes of a message that DMTF's protocols fix, not the manual. -/
def State.protocolBytes (s : State) : List Byte × State := (Config.spdmBytes s.fresh, { s with fresh := s.fresh + 1 })

/-- SPDM 1.2's signature input (R96): its prefix text four times, zeros, the context text, and the digest of the transcript. PRESUMED
from DMTF's SPDM 1.2 (log entry 60). -/
def spdmInput (context : String) (transcript : List Byte) : List Byte :=
  let text (t : String) : List Byte := t.toList.map fun c => BitVec.ofNat 8 c.toNat
  let p := text "dmtf-spdm-v1.2.*"
  let c := text context
  p ++ p ++ p ++ p ++ List.replicate (36 - c.length) 0 ++ c ++ sha256 transcript

/-- A message of the function's connection (R96). -/
def State.noteSpdm (s : State) (fn : BitVec 8) (b : List Byte) : State :=
  s.setFn fn { s.fn fn with transcript := (s.fn fn).transcript ++ b }

/-- The signature over the transcript as it stands (R96). -/
def State.spdmSign (s : State) (fn : BitVec 8) (context : String) : List Byte :=
  rsaSign Config.idKey Config.idSecret (spdmInput context (s.fn fn).transcript)

/-- The 17 measurement blocks (R98). -/
def State.measBlocks (s : State) (fn : BitVec 8) (nonce : BitVec 256) : List MeasBlock :=
  ((List.range 16).map fun j => { index := j + 1, vendorDefined := false, value := leBytes 32 (vget s.mreg 0 (BitVec.ofNat 4 j)).toNat })
    ++ [{ index := 17, vendorDefined := true, value := s.report fn nonce }]

/-- GET_MEASUREMENTS (R96, R98): the blocks, and SPDM's own signature when it is asked for. -/
def execGetMeasurements (fn : BitVec 8) (nonce : BitVec 256) (sign : Bool) (s : State) : Host.Outcome State Fault Refusal :=
  event (fun s =>
    if !s.present fn then s
    else
      let blocks := s.measBlocks fn nonce
      let req := s.protocolBytes
      let s := (req.2.noteSpdm fn req.1).noteSpdm fn (blocks.flatMap (·.value))
      s.emit (.measurements fn blocks (if sign then s.spdmSign fn "responder-measurements signing" else []))) s

/-- What a request leaves of the function's connection, session and IDE stream (R99); a KEY_EXCHANGE and a FINISH open the session, which
IDE_KM needs. -/
def spdmAct (k : SpdmKind) (f : Fn) : Fn :=
  match k with
  | .getVersion => { f with transcript := [], handshake := false, session := false }
  | .keyExchange => { f with handshake := true }
  | .finish => { f with session := f.session || f.handshake, handshake := false }
  | .endSession => { f with session := false, handshake := false }
  | .ideGo => { f with ide := f.ide || f.session }
  | .ideStop => { f with ide := f.ide && !f.session }
  | .challenge | .getCertificate | .getDigests => f

/-- SPDM_REQUEST (R96, R99): an answer of the hardware responder: DMTF's bytes, with the certificate chain or its digest, or with a
signature over the transcript, where the request asks for it. -/
def execSpdmRequest (fn : BitVec 8) (kind : SpdmKind) (s : State) : Host.Outcome State Fault Refusal :=
  event (fun s =>
    if !s.present fn then s
    else
      let s := s.setFn fn (spdmAct kind (s.fn fn))
      let req := s.protocolBytes
      let rsp := req.2.protocolBytes
      let body := rsp.1 ++ match kind with
        | .getCertificate => s.certChain
        | .getDigests => sha256 s.certChain
        | _ => []
      let s := (rsp.2.noteSpdm fn req.1).noteSpdm fn body
      let sig := match kind with
        | .challenge => s.spdmSign fn "responder-challenge_auth signing"
        | .keyExchange => s.spdmSign fn "responder-key_exchange_rsp signing"
        | _ => []
      (s.noteSpdm fn sig).emit (.spdm fn (body ++ sig))) s

/-! ## Channel slots (R102, R103) -/

/-- Some queue of the function names a context in Q_CTX (R23, R66). -/
def State.fnNames (s : State) (fn : BitVec 8) (c : BitVec 16) : Bool :=
  (List.range 1024).any fun n =>
    let q := BitVec.ofNat 10 n
    s.queueFn q == fn && (s.queue q).ctx == c

/-- Fields of a channel request (R103). -/
def reqChan (p : List Byte) : BitVec 32 := BitVec.ofNat 32 (leNat ((p.drop 4).take 4))
def reqCtx (p : List Byte) : BitVec 16 := BitVec.ofNat 16 (leNat ((p.drop 8).take 2))

/-- A request is malformed: OP, PLEN or a rsvd byte (R103). -/
def chanMalformed (p : List Byte) : Bool :=
  let op := p.getD 0 0
  let n := leNat ((p.drop 2).take 2)
  p.getD 1 0 != 0 || p.length != n + 4 ||
    (if op = 1 then n != 52 || ((p.drop 10).take 6).any (· != 0) else if op = 2 then n != 4 else true)

/-- RESULT of a channel request, in the order of R103. -/
def State.chanResult (s : State) (fn : BitVec 8) (secured : Bool) (p : List Byte) : Byte :=
  let has := s.chans.any fun c => c.fn == fn && c.chan == reqChan p
  let tdi := (s.fn fn).tdi
  if !secured || !(s.fn fn).session then 0x07
  else if chanMalformed p then 0x06
  else if tdi != .locked && tdi != .run then 0x03
  else if p.getD 0 0 = 1 then
    (if !s.fnNames fn (reqCtx p) then 0x04 else if has then 0x01 else if 256 ≤ s.chans.length then 0x02 else 0x00)
  else if has then 0x00 else 0x05

/-- A channel slot is zeroed. -/
def State.dropChan (s : State) (fn : BitVec 8) (chan : BitVec 32) : State :=
  { s with chans := s.chans.filter fun c => !(c.fn == fn && c.chan == chan) }

/-- A VENDOR_DEFINED_REQUEST with StandardID 3 and Henavik's VendorID for a channel slot, with its answer, which carries the same two. -/
def State.chanRequest (s : State) (fn : BitVec 8) (secured : Bool) (p : List Byte) : State :=
  let r := s.chanResult fn secured p
  let s :=
    if r ≠ 0 then s
    else if p.getD 0 0 = 1 then
      { s with chans := s.chans ++ [{ chan := reqChan p, key := BitVec.ofNat 256 (leNat ((p.drop 24).take 32)), fn := fn
                                      ctx := reqCtx p, lastCtr := BitVec.ofNat 64 (leNat ((p.drop 16).take 8)) }] }
    else (s.endCopies fun f c => f == fn && c == reqChan p).dropChan fn (reqChan p)
  s.emit (.vendor fn 3 Config.vendorId [p.getD 0 0, r, 0, 0])

/-- CHAN_SET (R102, R103). -/
def execChanSet (fn : BitVec 8) (secured : Bool) (payload : List Byte) (s : State) : Host.Outcome State Fault Refusal :=
  event (fun s => if s.present fn then s.chanRequest fn secured payload else s) s

/-- CHAN_CLEAR (R102, R103). -/
def execChanClear (fn : BitVec 8) (secured : Bool) (payload : List Byte) (s : State) : Host.Outcome State Fault Refusal :=
  event (fun s => if s.present fn then s.chanRequest fn secured payload else s) s

/-! ## TDISP (R99 to R101) -/

/-- A TDISP request of a virtual function's interface (R21), with its answer. -/
def State.tdisp (s : State) (fn : BitVec 8) (f : State → State) : State :=
  if fn = 0 || !s.present fn then s
  else
    let s := f s
    s.protocolBytes.2.emit (.spdm fn s.protocolBytes.1)

def State.setTdi (s : State) (fn : BitVec 8) (t : Tdi) : State := s.setFn fn { s.fn fn with tdi := t }

/-- LOCK_INTERFACE (R100). -/
def execLockInterface (fn : BitVec 8) (s : State) : Host.Outcome State Fault Refusal :=
  event (fun s => s.tdisp fn fun s => if (s.fn fn).tdi = .unlocked then s.setTdi fn .locked else s) s

/-- START_INTERFACE (R100). -/
def execStartInterface (fn : BitVec 8) (s : State) : Host.Outcome State Fault Refusal :=
  event (fun s => s.tdisp fn fun s => if (s.fn fn).tdi = .locked then s.setTdi fn .run else s) s

/-- What a TDI does when it leaves RUN or CONFIG_LOCKED (R101): its copies that have not written end with reason 3, its channel slots are zeroed, its contexts end, and their key slots
receive new keys. -/
def State.leaveTdi (s : State) (fn : BitVec 8) : State :=
  let ctxs := (((List.range 1024).filter fun n => s.queueFn (BitVec.ofNat 10 n) == fn).map fun n => (s.queue (BitVec.ofNat 10 n)).ctx).eraseDups
  let s := s.endCopies fun f _ => f == fn
  let s := { s with chans := s.chans.filter fun c => c.fn != fn }
  (ctxs.filter (· != 0)).foldl (fun s c =>
    match s.ctx? c with
    | none => s
    | some x =>
      let s := s.driverEnd c fn
      if x.key = 0 then s else s.drawKey x.key) s

/-- STOP_INTERFACE (R100, R101). -/
def execStopInterface (fn : BitVec 8) (s : State) : Host.Outcome State Fault Refusal :=
  event (fun s => s.tdisp fn fun s =>
    let t := (s.fn fn).tdi
    (if t = .locked || t = .run then s.leaveTdi fn else s).setTdi fn .unlocked) s

/-- IDE_INTEGRITY_FAILURE (R100). -/
def execIdeIntegrityFailure (fn : BitVec 8) (s : State) : Host.Outcome State Fault Refusal :=
  event (fun s => if fn = 0 then s else (s.setFn fn { s.fn fn with ide := false }).tdiError fn) s

/-! ## Management (R36, R93) -/

/-- TIME_STATUS (R34). -/
def State.timeStatus (s : State) : W64 :=
  (BitVec.ofBool s.tValid ++ BitVec.ofBool s.tLocked ++ BitVec.ofBool s.tHoldover ++ BitVec.ofBool s.tStepped).setWidth 64

/-- SLU_STATUS and SLU_BUDGET (R43). -/
def State.sluStatus (s : State) : W64 :=
  let h : BitVec 8 := s.held.getD 0
  let pend := (s.tilesWith fun t => t.sreq.isSome).length
  (0 : BitVec 16) ++ h ++ BitVec.ofBool s.held.isSome ++ (0 : BitVec 7) ++ BitVec.ofNat 16 pend ++ BitVec.ofNat 16 s.reserved
def State.sluBudget (s : State) : W64 := (0 : BitVec 32) ++ BitVec.ofBool s.budgetLock ++ (0 : BitVec 15) ++ s.budget

/-- BOOT_STATUS (R93). -/
def State.bootStatus (s : State) : BitVec 32 := (0 : BitVec 23) ++ BitVec.ofBool s.bootB ++ s.bootCode

/-- SCRUB_STATUS of a stack (R18). -/
def State.scrubStatus (s : State) (k : BitVec 3) : W64 := vget s.scrubPass 0 k ++ (0 : BitVec 12) ++ vget s.scrubPos 0 k

/-- A management object's words (R36); which words an object has is the model's choice. -/
def State.mgmtWords (s : State) : MgmtObject → List W64
  | .dieTemps => s.dies.toList.map fun d => BitVec.ofNat 64 d.temp
  | .railCurrents => [Config.railCurrent s.fresh]
  | .sluiceState => [s.sluBudget, s.sluStatus]
  | .errorCounters => (s.corrected.toList.map fun c => BitVec.ofNat 64 c.1) ++ [if s.warn then 1 else 0]
  | .scrubProgress => [(0 : BitVec 3), 1, 2, 3, 4, 5, 6, 7].map s.scrubStatus
  | .firmwareVersion => [s.svnIo.setWidth 64]
  | .bootStatus => [s.bootStatus.setWidth 64]
  | .timeStatus => [s.timeStatus]
  | .timeOffset => [s.tOffset]
  | .raiseFloor _ _ => []

/-- MANAGEMENT_REQUEST (R36, R93): an answer; a floor is raised by verified firmware and never lowered. -/
def execManagementRequest (i3c : Bool) (obj : MgmtObject) (s : State) : Host.Outcome State Fault Refusal :=
  event (fun s =>
    if s.recovery && !i3c then s
    else
      let up (old new : BitVec 16) : BitVec 16 := if old.toNat < new.toNat then new else old
      let out := s.mgmtWords obj
      let s := match obj with
        | .raiseFloor kind svn =>
          if s.recovery then s
          else if kind = 1 then { s with floorIo := up s.floorIo svn }
          else if kind = 2 then { s with floorDc := up s.floorDc svn } else s
        | .railCurrents => { s with fresh := s.fresh + 1 }
        | _ => s
      s.emit (.mgmt i3c out)) s

end Sys2Proof.Machine
end

