-- ==== Sys2Proof/Machine/Board.lean ====
section
/-! DEFINITION. The board around the dies: time (R31 to R35), HBM decoding and scrub (R15 to R18, R479, R480), CXL ports (R19,
R20), the BAR2 window (R23), MSI-X (R24, R90), and the peer ports (R25 to R30, R63). -/

namespace Sys2Proof.Machine

/-! ## Time -/

/-- A corrected-error record of each stack that has new ones (R316: at most one per millisecond and source). -/
def State.reportCorrected (s : State) : State :=
  [(0 : BitVec 3), 1, 2, 3, 4, 5, 6, 7].foldl (fun s k =>
    let c := vget s.corrected (0, 0) k
    if c.2 = 0 then s
    else { s with corrected := vset s.corrected k (c.1, 0) }.raiseErr
      { srcId := k.setWidth 16, srcKind := 5, sev := 0, count := BitVec.ofNat 32 c.2 }) s

/-- A corrected-error record of each tile whose arrays have new ones (R311, R316). -/
def State.reportTiles (s : State) : State :=
  s.tileCorrected.foldl (fun s (e : Nat × Nat) =>
    s.raiseErr { srcId := BitVec.ofNat 16 e.1, srcKind := 8, sev := 0, count := BitVec.ofNat 32 e.2 }) { s with tileCorrected := [] }

/-- Part of the offset is slewed away (R33): at most 20 µs in a second, which is 1 ns in 50 ticks. What the slew adds to the count, or
takes from it, `tOwe`, goes in as the count goes on. -/
def State.slew (s : State) : State :=
  if s.tickcnt.toNat % 50 ≠ 0 then s
  else if 0 < s.tSlew then { s with tSlew := s.tSlew - 1, tOwe := s.tOwe + 1 }
  else if s.tSlew < 0 then { s with tSlew := s.tSlew + 1, tOwe := s.tOwe - 1 }
  else s

/-- The oscillator counts `n` ns (R31, R35): DEVTIME goes on, with what the slew owes it, up to the next tick, which is TICK's. -/
def State.nanoseconds (s : State) (n : Nat) : State :=
  let want : Int := n + s.tOwe
  let go := Nat.min want.toNat (999 - s.devtime.toNat % 1000)
  { s with devtime := s.devtime + BitVec.ofNat 64 go, tOwe := if want < 0 then want else 0 }

/-- A tick (R32, R33, R78, R90): DEVTIME reaches its next multiple of 1,000, TICKCNT follows, the rings' hold timers run, every WAITGE
waits one tick more, an armed gang switch whose time has come takes effect, and the checkpoints that are due begin. -/
def State.tick (s : State) : State :=
  let n := s.devtime.toNat / 1000 + 1
  let s := { s with
    devtime := BitVec.ofNat 64 (1000 * n), tickcnt := BitVec.ofNat 64 n
    rings := s.rings.map fun (e : Nat × Ring) => (e.1, { e.2 with timer := e.2.timer.map (· - 1) }) }
  let s := s.slew.waitgeTicks
  let s := if s.gangArmed && decide (s.gangTime.toNat ≤ s.devtime.toNat) then s.gangSwitch else s
  let s := s.ckTick
  if n % 1000 = 0 then s.reportCorrected.reportTiles else s

/-- TICK (R32). -/
def execTick (s : State) : Host.Outcome State Fault Refusal := event State.tick s

/-- GANG_SWITCH (R33, R147): the tick that R33 selects for GANG_TIME; nothing while the coming tick is not that one. -/
def execGangSwitch (s : State) : Host.Outcome State Fault Refusal :=
  event (fun s =>
    if s.gangArmed && decide (s.gangTime.toNat ≤ 1000 * (s.devtime.toNat / 1000 + 1)) then s.tick else s) s

/-- The signed difference of two times. -/
def timeDiff (a b : W64) : Int := (a - b).toInt

/-- PTP_MESSAGE (R31, R34): the port of the domain it follows measures the offset and, while locked, disciplines DEVTIME. DESIGN CHOICE
(log entry 63): an offset measured while locked is slewed whatever its size; R33 speaks of a step only at re-lock. -/
def execPtpMessage (time : W64) (domain : Byte) (s : State) : Host.Outcome State Fault Refusal :=
  event (fun s =>
    if !s.tEn || domain != s.tDomain || !s.tLocked then s
    else { s with tOffset := s.devtime - time, tSlew := timeDiff time s.devtime }) s

/-- HOLDOVER_ENTRY (R33). -/
def execHoldoverEntry (s : State) : Host.Outcome State Fault Refusal :=
  event (fun s => if s.tEn && s.tValid then { s with tHoldover := true, tLocked := false } else s) s

/-- DEVTIME is stepped at a tick (R33, R35): what is due by then fires at the next tick. -/
def State.stepTime (s : State) (time : W64) : State :=
  { s.tick with devtime := time, tickcnt := BitVec.ofNat 64 (time.toNat / 1000), tSlew := 0, tOwe := 0, tStepped := true }

/-- TIME_RELOCK (R33): an offset below 1 ms is slewed, a larger one is stepped at a tick. -/
def execTimeRelock (time : W64) (s : State) : Host.Outcome State Fault Refusal :=
  event (fun s =>
    if !s.tEn || !s.tValid || s.tLocked then s
    else
      let off := timeDiff time s.devtime
      let s := { s with tHoldover := false, tLocked := true, tOffset := s.devtime - time }
      if off.natAbs < 1000000 then { s with tSlew := off } else s.stepTime time) s

/-- TIME_FIRST_LOCK (R35). -/
def execTimeFirstLock (time : W64) (s : State) : Host.Outcome State Fault Refusal :=
  event (fun s =>
    if !s.tEn || s.tValid then s
    else { s with tValid := true, tLocked := true, tHoldover := false, tOffset := s.devtime - time }.stepTime time) s

/-! ## HBM -/

/-- The global stack of a physical address (R14, R18): 256-byte units of a die alternate between its two. -/
def stackOf (pa : Nat) : BitVec 3 := BitVec.ofNat 3 (2 * (pa / 2 ^ 37) + pa / 256 % 2)

/-- The physical address of byte `o` of a stack. -/
def stackPa (k : BitVec 3) (o : Nat) : Nat := k.toNat / 2 * 2 ^ 37 + o / 256 * 512 + k.toNat % 2 * 256 + o % 256

/-- The error record of a line found uncorrectable (R479, R480). -/
def deferredRec (pa : Nat) (nsym : Nat) (groups : BitVec 20) : ErrRec :=
  { addr := BitVec.ofNat 64 pa, info := ((BitVec.ofNat 7 (if 12 < nsym then 127 else nsym)) ++ groups).setWidth 64
    srcId := (stackOf pa).setWidth 16, srcKind := 5, sev := 1, aKind := 1 }

/-- The line is delivered poisoned from now on. -/
def State.poisonLine (s : State) (line : Nat) : State := { s with poison := insNat s.poison line }

/-- The codeword that a line of HBM is stored as: its ciphertext with the check bytes (R15, R108). -/
def State.codeword (s : State) (line : Nat) : BitVec 640 :=
  let v := lineVal (s.rdBytes (64 * line) 64)
  rsWord (lineBytes (match Tab.get? s.lineKey line with
    | some k => cipherText k line v
    | none => v))

/-- The decoder's outcome on a line's codeword that is read with symbol errors (R16): the code's distance of 17 lets it correct 4, and
see up to 12 that it cannot correct. -/
def State.decodeLine (s : State) (pa : Nat) (err : BitVec 640) : State :=
  let line := pa / 64
  let k := stackOf pa
  let nsym := (rsErrors err).length
  if nsym = 0 then s
  else if nsym ≤ 4 then
    let c := vget s.corrected (0, 0) k
    { s with corrected := vset s.corrected k (c.1 + 1, c.2 + 1) }
  else if nsym ≤ 12 then (s.poisonLine line).raiseErr (deferredRec pa nsym (rsGroups err))
  else
    let v := Config.hbmBeyond s.fresh (s.codeword line ^^^ err)
    let s := { s with fresh := s.fresh + 1, mem := Mem.puts s.mem (64 * line) (lineBytes v.1) }
    if v.2 then (s.poisonLine line).raiseErr (deferredRec pa nsym (rsGroups err)) else s

/-- HBM_LINE_READ (R16, R480). -/
def execHbmLineRead (pa : BitVec 48) (dataErr : BitVec 512) (checkErr : BitVec 128) (s : State) : Host.Outcome State Fault Refusal :=
  event (fun s => if pa.toNat < 2 ^ 39 then s.decodeLine (pa.toNat / 64 * 64) (checkErr ++ dataErr) else s) s

/-- PARTIAL_LINE_MERGE (R314, R480): the codeword is read, and the bytes are merged into it; a line found uncorrectable stays poisoned. -/
def execPartialLineMerge (pa : BitVec 48) (mask : BitVec 64) (data : BitVec 512) (pois : Bool)
    (dataErr : BitVec 512) (checkErr : BitVec 128) (s : State) : Host.Outcome State Fault Refusal :=
  event (fun s =>
    let line := pa.toNat / 64
    if !paMapped pa.toNat || mask = 0 || mask = BitVec.allOnes 64 then s
    else
      let s := if pa.toNat < 2 ^ 39 then s.decodeLine (64 * line) (checkErr ++ dataErr)
        else if dataErr = 0 ∧ checkErr = 0 then s
        else (s.poisonLine line).raiseErr { addr := BitVec.ofNat 64 (64 * line), srcId := BitVec.ofNat 16 ((pa.toNat - 2 ^ 47) / 2 ^ 44)
                                            srcKind := 6, sev := 1, aKind := 1 }
      let old := lineVal (s.rdBytes (64 * line) 64)
      let s := { s with mem := Mem.puts s.mem (64 * line) (lineBytes (mergeLine mask data old)) }
      if pois then s.poisonLine line else s) s

/-- PATROL_SCRUB (R17, R18): the next line of a stack is read; corrected or poisoned it is written back, and the scrub moves on. -/
def execPatrolScrub (k : BitVec 3) (dataErr : BitVec 512) (checkErr : BitVec 128) (s : State) : Host.Outcome State Fault Refusal :=
  event (fun s =>
    let pos := vget s.scrubPos 0 k
    let line := vget s.scrubLine 0 k
    let s := s.decodeLine (stackPa k (65536 * pos.toNat + 64 * line.toNat)) (checkErr ++ dataErr)
    if line.toNat + 1 < 1024 then { s with scrubLine := vset s.scrubLine k (line + 1) }
    else
      let s := { s with scrubLine := vset s.scrubLine k 0, scrubPos := vset s.scrubPos k (pos + 1) }
      if pos = BitVec.allOnes 20 then { s with scrubPass := vset s.scrubPass k (vget s.scrubPass 0 k + 1) } else s) s

/-! ## The tiles' storage (R311) -/

/-- The record of poison that an array error has created. DESIGN CHOICE (log entry 66): its source is the die controller, its number the tile,
and its address the line's in its level; R316 and R318 give no fields for it. -/
def arrayRec (src : Nat) (addr : W64) : ErrRec :=
  { addr := addr, srcId := BitVec.ofNat 16 src, srcKind := 8, sev := 1, aKind := if addr = 0 then 0 else 3 }

/-- An error in a tile's storage (R311, R316): a corrected one is counted; an instruction word's raises 0x43 when it is fetched; in an L1D
line it raises 0x44 where the line is dirty, else the line is invalidated; elsewhere the element or line becomes poisoned. -/
def State.arrayError (s : State) (e : ArrayError) : State :=
  match e with
  | .corrected g => { s with tileCorrected := Tab.set s.tileCorrected g.toNat (Tab.get 0 s.tileCorrected g.toNat + 1) }
  | .imem g st => if (s.tile g).live && !(s.tile g).stepped st then s.takeCause g st { code := 0x43 } else s
  | .l1d g line =>
    match (s.tile g).l1Get line with
    | none => s
    | some l => if l.dmask = 0 then s.l1Drop g l else s.takeCause g .a { code := 0x44 }
  | .queue g q k lane =>
    let l := (s.tile g).queue q
    if l.length ≤ k then s
    else (s.modTile g fun t => t.setQueue q (l.modify k fun x => { x with pois := setBit x.pois lane.toNat true })).raiseErr (arrayRec g.toNat 0)
  | .acc g z i =>
    (s.modTile g fun t => t.setZtile z { t.ztile z with pois := setBit (t.ztile z).pois i.toNat true }).raiseErr (arrayRec g.toNat 0)
  | .line a =>
    if a < 2 ^ 50 || 2 ^ 53 ≤ a then s
    else
      let at_ : Nat := if a < 2 ^ 51 then a % 2 ^ 21 else if a < 2 ^ 52 then a % 2 ^ 23 else a - 2 ^ 52
      (s.poisonLine (a / 64)).raiseErr (arrayRec (if a < 2 ^ 51 then (a - 2 ^ 50) / 2 ^ 21 else 0) (BitVec.ofNat 64 (at_ / 64 * 64)))

/-! ## CXL (R19, R20) -/

def State.cxlPort (s : State) (p : BitVec 2) : Cxl := vget s.cxl Cxl.reset p

/-- CXL_READ_COMPLETE (R20): a poison indication or an error delivers a poisoned line. -/
def execCxlReadComplete (pa : BitVec 48) (pois err : Bool) (s : State) : Host.Outcome State Fault Refusal :=
  event (fun s =>
    let port := (pa.toNat - 2 ^ 47) / 2 ^ 44
    if pa.toNat < 2 ^ 47 || !paMapped pa.toNat || !(pois || err) then s
    else (s.poisonLine (pa.toNat / 64)).raiseErr
      { addr := BitVec.ofNat 64 (pa.toNat / 64 * 64), srcId := BitVec.ofNat 16 port, srcKind := 6, sev := 1, aKind := 1 }) s

/-- CXL_PORT_TRAIN (R19): a CXL.cache device is left untrained. -/
def execCxlPortTrain (p : BitVec 2) (dev : CxlDevice) (width rate : Nat) (s : State) : Host.Outcome State Fault Refusal :=
  event (fun s =>
    match dev with
    | .cacheDevice =>
      { s with cxl := vset s.cxl p { s.cxlPort p with trained := false } }.raiseErr
        { srcId := p.setWidth 16, srcKind := 6, sev := 0 }
    | _ =>
      if !([16, 8, 4].contains width && [64, 32].contains rate) then s
      else { s with cxl := vset s.cxl p { s.cxlPort p with
               trained := true, switched := dev == .type3Switched, width := width, rate := rate } }) s

/-- Capacity that the extents of one port, and of all, hold. -/
def Cxl.capacity (x : Cxl) : Nat := x.extents.foldl (fun n e => n + e.2) 0
def State.cxlCapacity (s : State) : Nat := s.cxl.toList.foldl (fun n x => n + x.capacity) 0

/-- CXL_EXTENT_ADDED (R19): a port decodes at most 4 TiB, and the ports hold at most 8 TiB. -/
def execCxlExtentAdded (p : BitVec 2) (base size : Nat) (s : State) : Host.Outcome State Fault Refusal :=
  event (fun s =>
    let x := s.cxlPort p
    if !x.trained || 2 ^ 42 < base + size || 2 ^ 42 < x.capacity + size || 2 ^ 43 < s.cxlCapacity + size then s
    else { s with cxl := vset s.cxl p { x with extents := x.extents ++ [(base, size)] } }.emit (.extent p base size)) s

/-- The frames that the leaf entries under a table map: first byte and size. -/
def State.tableFrames (s : State) : (left : Nat) → (base : Nat) → List (Nat × Nat)
  | 0, _ => []
  | k + 1, base => (List.range 8192).flatMap fun i =>
    let e := s.tableEntry (base + 16 * i)
    if e.2 || !e.1.getLsbD 0 then []
    else if e.1.getLsbD 7 then (if leafPeer e.1 then [] else [(leafPa (16 + 13 * k) e.1 0, 2 ^ (16 + 13 * k))])
    else if tableBad (3 - k) e.1 then []
    else State.tableFrames s k ((e.1.extractLsb' 17 31).toNat * 2 ^ 17)

/-- An expander takes an extent back, only when no page entry maps it (R19). -/
def State.releaseExtent (s : State) (p : BitVec 2) (base size : Nat) : State :=
  let x := s.cxlPort p
  let lo := 2 ^ 47 + 2 ^ 44 * p.toNat + base
  let maps (f : Nat × Nat) : Bool := decide (f.1 < lo + size) && decide (lo < f.1 + f.2)
  if !x.extents.contains (base, size)
      || s.ctxs.any fun (e : Nat × Ctx) => (s.tableFrames 3 (e.2.trootNext.toNat * 2 ^ 17)).any maps then s
  else { s with cxl := vset s.cxl p { x with extents := x.extents.erase (base, size) } }

/-! ## BAR2 (R23) -/

/-- What a window reaches: context and virtual address, when it is open and may reach them. -/
def State.windowAt (s : State) (fn : BitVec 8) (off : BitVec 30) : Option (BitVec 16 × W64) :=
  let f := s.fn fn
  let va : W64 := f.w2va ++ off
  if !f.w2en || s.recovery || va.extractLsb' 55 9 != 0 then none
  else if (if fn = 0 then f.w2ctx == 0 else s.fnNames fn f.w2ctx) then some (f.w2ctx, va) else none

/-- The error record of a BAR2 access. DESIGN CHOICE (log entry 64): of its fields the manual gives SRCKIND 9 and, for poison, SEV 2; the
model's SEV 3 in the other cases, SRCID the function's number, AKIND 2, CONTEXT from W2_CTX and ADDR are its own. -/
def windowRec (fn : BitVec 8) (ctx : BitVec 16) (va : W64) (sev : BitVec 2) : ErrRec :=
  { addr := va, ctx := ctx, srcId := fn.setWidth 16, srcKind := 9, sev := sev, aKind := 2 }

/-- The record of an access that fails. -/
def State.windowFail (s : State) (fn : BitVec 8) (off : BitVec 30) (sev : BitVec 2) : State :=
  let f := s.fn fn
  s.raiseErr (windowRec fn f.w2ctx (f.w2va ++ off) sev)

/-- BAR2_WINDOW_READ (R23): all ones where the access reaches nothing, fails a check or meets poison. -/
def execBar2WindowRead (fn : BitVec 8) (off : BitVec 30) (n : Nat) (s : State) : Host.Outcome State Fault Refusal :=
  event (fun s =>
    let ones : List Byte := List.replicate n 0xFF
    match (s.windowAt fn off).bind fun x => s.ncRead x.1 x.2 n with
    | none => (s.windowFail fn off 3).emit (.bar2 fn ones)
    | some (bs, s) =>
      if bs.any (·.2) then (s.windowFail fn off 2).emit (.bar2 fn ones) else s.emit (.bar2 fn (bs.map (·.1)))) s

/-- BAR2_WINDOW_WRITE (R23). -/
def execBar2WindowWrite (fn : BitVec 8) (off : BitVec 30) (data : List Byte) (s : State) : Host.Outcome State Fault Refusal :=
  event (fun s =>
    match s.windowAt fn off with
    | none => s.windowFail fn off 3
    | some (c, va) => (s.ncWrite c va data).getD (s.windowFail fn off 3)) s

/-! ## MSI-X (R24, R90, R100) -/

/-- A vector is unmasked (R90): a held message is sent. -/
def State.unmask (s : State) (fn : BitVec 8) (vec : BitVec 11) : State :=
  let f := s.fn fn
  let s := s.setFn fn { f with unmasked := insNat f.unmasked vec.toNat, pba := delNat f.pba vec.toNat }
  if f.pba.contains vec.toNat then s.emit (.msix fn vec) else s

/-- MSIX_VECTOR_UNMASK (R90): a table that R100 freezes stays as it is. -/
def execMsixVectorUnmask (fn : BitVec 8) (vec : BitVec 11) (s : State) : Host.Outcome State Fault Refusal :=
  event (fun s => if s.recovery || s.frozen fn then s else s.unmask fn vec) s

/-! ## Peer ports (R26 to R30, R63) -/

/-- PEER_PORT_TRAINED (R30, R63): the credits are set again, and the sequence numbers start anew. -/
def execPeerPortTrained (pn : BitVec 4) (s : State) : Host.Outcome State Fault Refusal :=
  event (fun s =>
    let p := s.port pn
    if !p.en || p.up then s
    else (s.setPort pn { Port.reset with en := true, up := true, down := p.down, txq := p.txq }).pump pn) s

/-- What ACKSEQ covers leaves the replay buffer (R28). -/
def ackFlits (ack : BitVec 16) (l : List Flit) : List Flit :=
  if l.any fun f => Flit.seqNo f == ack then (l.dropWhile fun f => Flit.seqNo f != ack).drop 1 else l

/-- FLIT_RECEIVE (R26 to R28): a flit that fails its CRC, KIND or SEQ is dropped; else its ACKSEQ and credits are taken, and it is buffered. The flits of a message of several, and of VC 3, go on at once
to their units, and their entries are free again (R62, R63): a FETCH-R into the space its requester reserved (R61); what a collective's flits
bring is COLLECTIVE_READY's and COLLECTIVE_DATA's. No flit comes without a credit (R63), so none finds its buffer full. -/
def execFlitReceive (pn : BitVec 4) (f : BitVec 2048) (s : State) : Host.Outcome State Fault Refusal :=
  event (fun s =>
    let p := s.port pn
    let v := Flit.vc f
    if !p.up || Flit.crc f != crc64 (Flit.body f) || !Flit.kindOk f || Flit.seqNo f != p.rxSeq
        || (!Flit.isControl f && vget initCredits 0 v ≤ vget p.occ 0 v + vget p.owed 0 v) then s
    else
      let left := ackFlits (Flit.ackSeq f) p.replay
      let p := { p with
        rxSeq := p.rxSeq + 1, ackSeq := Flit.seqNo f, replay := left, nreplay := if left.length < p.replay.length then 0 else p.nreplay
        cred := vset p.cred (Flit.cvc f) (vget p.cred 0 (Flit.cvc f) + (Flit.cred f).toNat) }
      let p := if Flit.isControl f then p
        else if v = 3 then { p with owed := vset p.owed v (vget p.owed 0 v + 1) }
        else if Flit.kind f = 0x04 then { p with rxbuf := p.rxbuf ++ [f], occ := vset p.occ v (vget p.occ 0 v + 1) }
        else { p with rxbuf := p.rxbuf ++ [f], owed := vset p.owed v (vget p.owed 0 v + 1) }
      (s.setPort pn p).pump pn) s

/-- A port carries flits no more: messages in flight on it fail back to the units that sent them (R28), and what its answers kept is let go. -/
def State.portOff (s : State) (pn : BitVec 4) (en down : Bool) : State :=
  let s := s.collLinkDown pn
  let p := s.port pn
  let s := (p.holds.map fun h => { h with src := if h.src == some pn then none else h.src }).foldl State.letGo (s.setPort pn { Port.reset with en := en, down := down })
  let sent := (p.replay ++ p.txq).filter fun f => Flit.kind f == 1 || Flit.kind f == 4
  sent.foldl (fun s f => s.emit (.failed (Flit.dst f) 0x07)) s

/-- A port goes down (R28, R30). DESIGN CHOICE (log entry 52): its error record has SEV 3, for which the manual gives no value. -/
def State.portDown (s : State) (pn : BitVec 4) : State :=
  (s.portOff pn (s.port pn).en true).raiseErr { srcId := pn.setWidth 16, srcKind := 7, sev := 3 }

/-- Outstanding directory requests that a port carried fail with LINKDOWN as it goes down (R28, R60). -/
def State.requestsDown (s : State) (pn : BitVec 4) : State :=
  let hit (r : DirReq) : Bool := r.port == some pn
  (s.dirReqs.filter hit).foldl (fun s r => s.askFailed r 0x07) { s with dirReqs := s.dirReqs.filter fun r => !hit r }

/-- REPLAY_TIMEOUT (R28): every flit not covered is sent again; the eighth replay in a row of a flit takes the port down. -/
def execReplayTimeout (pn : BitVec 4) (s : State) : Host.Outcome State Fault Refusal :=
  event (fun s =>
    let p := s.port pn
    if !p.up || p.replay.isEmpty then s
    else
      let s := p.replay.foldl (fun s f => s.emit (.flit pn f)) (s.setPort pn { p with nreplay := p.nreplay + 1 })
      if p.nreplay + 1 < 8 then s else (s.requestsDown pn).portDown pn) s

/-- CREDIT_RETURN_TIMEOUT (R63): a link-control flit carries the credits owed, where the replay buffer has room (R28). -/
def execCreditReturnTimeout (pn : BitVec 4) (s : State) : Host.Outcome State Fault Refusal :=
  event (fun s =>
    let p := s.port pn
    let f := mkFlit 0 s.pkgid 0 0x3F 0 []
    if p.owed.toList.all (· == 0) || !p.canSend f then s else s.sendFlit pn f) s

end Sys2Proof.Machine
end

