-- ==== Sys2Proof/Machine/Scalar.lean ====
section
/-! DEFINITION. The scalar instructions of both streams (R351 to R356) and the A-stream's flag instructions (R357, R358). -/

namespace Sys2Proof.Machine

/-- Read two scalar registers in order. -/
def State.rdS2 (s : State) (g : BitVec 8) (st : Stream) (a b : R5) : (W64 × Bool) × (W64 × Bool) × State :=
  let x := s.rdS g st a
  let y := x.2.rdS g st b
  (x.1, y.1, y.2)

/-- Two sources, one result after `L` X-cycles (R351, R353). -/
def scalar3 (L : Nat) (f : W64 → W64 → W64) (d a b : R5) (s : State) : Host.Outcome State Fault Refusal :=
  issue .both 1 (fun g st s => do
    let s ← s.freeS g st d
    let r := s.rdS2 g st a b
    .ok (r.2.2.wrS g st d (f r.1.1 r.2.1.1) (r.1.2 || r.2.1.2) L)) s

/-- One source, one result after one X-cycle. -/
def scalar2 (f : W64 → W64) (d a : R5) (s : State) : Host.Outcome State Fault Refusal :=
  issue .both 1 (fun g st s => do
    let s ← s.freeS g st d
    let r := s.rdS g st a
    .ok (r.2.wrS g st d (f r.1.1) r.1.2 1)) s

/-- Division and remainder (R353, R354): the DIV unit, and DZ in the X-stream when a clean result divides by zero. -/
def scalarDiv (f : W64 → W64 → W64) (d a b : R5) (s : State) : Host.Outcome State Fault Refusal :=
  issue .both 1 (fun g st s => keepUnits g (s.tile g).units (do
    let s ← s.useUnit g st .div 36
    let s ← s.freeS g st d
    let r := s.rdS2 g st a b
    let p := r.1.2 || r.2.1.2
    let s := r.2.2.wrS g st d (f r.1.1 r.2.1.1) p 36
    .ok (if st = .x && r.2.1.1 = 0 && !p then s.modTile g fun t => t.pendFlags fDZ 36 else s))) s

/-- 1 or 0 as a register value. -/
def bool64 (b : Bool) : W64 := if b then 1 else 0

def clz64 (v : W64) : W64 := BitVec.ofNat 64 ((List.range 64).takeWhile fun i => !v.getLsbD (63 - i)).length
def ctz64 (v : W64) : W64 := BitVec.ofNat 64 ((List.range 64).takeWhile fun i => !v.getLsbD i).length
def popc64 (v : W64) : W64 := BitVec.ofNat 64 ((List.range 64).filter fun i => v.getLsbD i).length

def sh (t : W64) : Nat := t.toNat % 64

/-- ADD (R353). -/
def execAdd (d a b : R5) (s : State) : Host.Outcome State Fault Refusal := scalar3 1 (fun x y => x + y) d a b s
/-- SUB (R353). -/
def execSub (d a b : R5) (s : State) : Host.Outcome State Fault Refusal := scalar3 1 (fun x y => x - y) d a b s
/-- AND (R353). -/
def execAnd (d a b : R5) (s : State) : Host.Outcome State Fault Refusal := scalar3 1 (fun x y => x &&& y) d a b s
/-- OR (R353). -/
def execOr (d a b : R5) (s : State) : Host.Outcome State Fault Refusal := scalar3 1 (fun x y => x ||| y) d a b s
/-- XOR (R353). -/
def execXor (d a b : R5) (s : State) : Host.Outcome State Fault Refusal := scalar3 1 (fun x y => x ^^^ y) d a b s
/-- SHL (R353). -/
def execShl (d a b : R5) (s : State) : Host.Outcome State Fault Refusal := scalar3 1 (fun x y => x <<< sh y) d a b s
/-- SHR (R353). -/
def execShr (d a b : R5) (s : State) : Host.Outcome State Fault Refusal := scalar3 1 (fun x y => x >>> sh y) d a b s
/-- SRA (R353). -/
def execSra (d a b : R5) (s : State) : Host.Outcome State Fault Refusal := scalar3 1 (fun x y => x.sshiftRight (sh y)) d a b s
/-- MUL (R353). -/
def execMul (d a b : R5) (s : State) : Host.Outcome State Fault Refusal := scalar3 3 (fun x y => x * y) d a b s
/-- MULH (R353). -/
def execMulh (d a b : R5) (s : State) : Host.Outcome State Fault Refusal :=
  scalar3 3 (fun x y => BitVec.ofInt 64 (Int.fdiv (x.toInt * y.toInt) (2 ^ 64))) d a b s
/-- MULHU (R353). -/
def execMulhu (d a b : R5) (s : State) : Host.Outcome State Fault Refusal :=
  scalar3 3 (fun x y => BitVec.ofNat 64 (x.toNat * y.toNat / 2 ^ 64)) d a b s
/-- DIV (R280, R353, R354). -/
def execDiv (d a b : R5) (s : State) : Host.Outcome State Fault Refusal := scalarDiv divS d a b s
/-- DIVU (R280, R353, R354). -/
def execDivu (d a b : R5) (s : State) : Host.Outcome State Fault Refusal := scalarDiv divU d a b s
/-- REM (R280, R353, R354). -/
def execRem (d a b : R5) (s : State) : Host.Outcome State Fault Refusal := scalarDiv remS d a b s
/-- REMU (R280, R353, R354). -/
def execRemu (d a b : R5) (s : State) : Host.Outcome State Fault Refusal := scalarDiv remU d a b s
/-- MIN (R353). -/
def execMin (d a b : R5) (s : State) : Host.Outcome State Fault Refusal :=
  scalar3 1 (fun x y => if x.toInt ≤ y.toInt then x else y) d a b s
/-- MAX (R353). -/
def execMax (d a b : R5) (s : State) : Host.Outcome State Fault Refusal :=
  scalar3 1 (fun x y => if x.toInt ≤ y.toInt then y else x) d a b s
/-- MINU (R353). -/
def execMinu (d a b : R5) (s : State) : Host.Outcome State Fault Refusal :=
  scalar3 1 (fun x y => if x.toNat ≤ y.toNat then x else y) d a b s
/-- MAXU (R353). -/
def execMaxu (d a b : R5) (s : State) : Host.Outcome State Fault Refusal :=
  scalar3 1 (fun x y => if x.toNat ≤ y.toNat then y else x) d a b s
/-- SEQ (R353). -/
def execSeq (d a b : R5) (s : State) : Host.Outcome State Fault Refusal :=
  scalar3 1 (fun x y => bool64 (Rel.eq.holds x y)) d a b s
/-- SLT (R353). -/
def execSlt (d a b : R5) (s : State) : Host.Outcome State Fault Refusal :=
  scalar3 1 (fun x y => bool64 (Rel.lt.holds x y)) d a b s
/-- SLTU (R353). -/
def execSltu (d a b : R5) (s : State) : Host.Outcome State Fault Refusal :=
  scalar3 1 (fun x y => bool64 (Rel.ltu.holds x y)) d a b s
/-- CLZ (R353). -/
def execClz (d a : R5) (s : State) : Host.Outcome State Fault Refusal := scalar2 clz64 d a s
/-- CTZ (R353). -/
def execCtz (d a : R5) (s : State) : Host.Outcome State Fault Refusal := scalar2 ctz64 d a s
/-- POPC (R353). -/
def execPopc (d a : R5) (s : State) : Host.Outcome State Fault Refusal := scalar2 popc64 d a s

/-- SEL (R353): it reads c and only the source it selects. -/
def execSel (d a b c : R5) (s : State) : Host.Outcome State Fault Refusal :=
  issue .both 1 (fun g st s => do
    let s ← s.freeS g st d
    let k := s.rdS g st c
    let r := k.2.rdS g st (if k.1.1 = 0 then b else a)
    .ok (r.2.wrS g st d r.1.1 (k.1.2 || r.1.2) 1)) s

/-- ADDI (R355). -/
def execAddi (d a : R5) (i : BitVec 16) (s : State) : Host.Outcome State Fault Refusal :=
  scalar2 (fun x => x + i.signExtend 64) d a s
/-- ANDI (R355). -/
def execAndi (d a : R5) (i : BitVec 16) (s : State) : Host.Outcome State Fault Refusal :=
  scalar2 (fun x => x &&& i.signExtend 64) d a s
/-- ORI (R355). -/
def execOri (d a : R5) (i : BitVec 16) (s : State) : Host.Outcome State Fault Refusal :=
  scalar2 (fun x => x ||| i.setWidth 64) d a s
/-- XORI (R355). -/
def execXori (d a : R5) (i : BitVec 16) (s : State) : Host.Outcome State Fault Refusal :=
  scalar2 (fun x => x ^^^ i.setWidth 64) d a s
/-- SHLI (R355). -/
def execShli (d a : R5) (n : BitVec 6) (s : State) : Host.Outcome State Fault Refusal :=
  scalar2 (fun x => x <<< n.toNat) d a s
/-- SHRI (R355). -/
def execShri (d a : R5) (n : BitVec 6) (s : State) : Host.Outcome State Fault Refusal :=
  scalar2 (fun x => x >>> n.toNat) d a s
/-- SRAI (R355). -/
def execSrai (d a : R5) (n : BitVec 6) (s : State) : Host.Outcome State Fault Refusal :=
  scalar2 (fun x => x.sshiftRight n.toNat) d a s

/-- 16 bits inserted at part `h` of a register (R356). -/
def insert16 (v : W64) (i : BitVec 16) (h : BitVec 2) : W64 :=
  (v &&& ~~~ ((0xFFFF : W64) <<< (16 * h.toNat))) ||| (i.setWidth 64 <<< (16 * h.toNat))

/-- MOVK (R356): it reads the old d. -/
def execMovk (d : R5) (i : BitVec 16) (h : BitVec 2) (s : State) : Host.Outcome State Fault Refusal :=
  scalar2 (fun x => insert16 x i h) d d s

/-! ## Flags (R357, R358) -/

/-- A compare into a flag. -/
def flagCmp (r : Rel) (f : F3) (a b : R5) (s : State) : Host.Outcome State Fault Refusal :=
  issue .a 1 (fun g st s => do
    let x := s.rdS2 g st a b
    raiseIf (x.1.2 || x.2.1.2) s 0x2D
    .ok (x.2.2.modTile g fun t => t.wrF f (r.holds x.1.1 x.2.1.1))) s

/-- Flag logic. -/
def flagOp (op : Bool → Bool → Bool) (f a b : F3) (s : State) : Host.Outcome State Fault Refusal :=
  issue .a 1 (fun g _ s => do
    let x ← s.rdF g a
    let y ← s.rdF g b
    .ok (s.modTile g fun t => t.wrF f (op x y))) s

/-- CMP.EQ (R357). -/
def execCmpEq (f : F3) (a b : R5) (s : State) : Host.Outcome State Fault Refusal := flagCmp .eq f a b s
/-- CMP.NE (R357). -/
def execCmpNe (f : F3) (a b : R5) (s : State) : Host.Outcome State Fault Refusal := flagCmp .ne f a b s
/-- CMP.LT (R357). -/
def execCmpLt (f : F3) (a b : R5) (s : State) : Host.Outcome State Fault Refusal := flagCmp .lt f a b s
/-- CMP.GE (R357). -/
def execCmpGe (f : F3) (a b : R5) (s : State) : Host.Outcome State Fault Refusal := flagCmp .ge f a b s
/-- CMP.LTU (R357). -/
def execCmpLtu (f : F3) (a b : R5) (s : State) : Host.Outcome State Fault Refusal := flagCmp .ltu f a b s
/-- CMP.GEU (R357). -/
def execCmpGeu (f : F3) (a b : R5) (s : State) : Host.Outcome State Fault Refusal := flagCmp .geu f a b s
/-- FAND (R357). -/
def execFand (f a b : F3) (s : State) : Host.Outcome State Fault Refusal := flagOp (fun x y => x && y) f a b s
/-- FOR (R357). -/
def execFor (f a b : F3) (s : State) : Host.Outcome State Fault Refusal := flagOp (fun x y => x || y) f a b s
/-- FXOR (R357). -/
def execFxor (f a b : F3) (s : State) : Host.Outcome State Fault Refusal := flagOp (fun x y => x != y) f a b s
/-- FGET (R357): never poisoned. -/
def execFget (d : R5) (a : F3) (s : State) : Host.Outcome State Fault Refusal :=
  issue .a 1 (fun g st s => do
    let x ← s.rdF g a
    .ok (s.wrS g st d (bool64 x) false 1)) s
/-- FPUT (R357). -/
def execFput (f : F3) (a : R5) (s : State) : Host.Outcome State Fault Refusal :=
  issue .a 1 (fun g st s => do
    let x := s.rdS g st a
    raiseIf x.1.2 s 0x2D
    .ok (x.2.modTile g fun t => t.wrF f (x.1.1 != 0))) s

end Sys2Proof.Machine
end

