-- ==== Sys2Proof/Machine/Control.lean ====
section
/-! DEFINITION. Branches and jumps (R359 to R362). -/

namespace Sys2Proof.Machine

/-- A target relative to the PC (R325, R359). -/
def relTarget {w : Nat} (pc : Pc) (disp : BitVec w) : Pc := pc + disp.signExtend 14

/-- Compare and branch (R359). -/
def branchCmp (r : Rel) (a b : R5) (disp : BitVec 13) (s : State) : Host.Outcome State Fault Refusal :=
  issueJ .both 1 (fun g st s => do
    let x := s.rdS2 g st a b
    raiseIf (x.1.2 || x.2.1.2) s 0x2D
    .ok (x.2.2, if r.holds x.1.1 x.2.1.1 then some (relTarget ((s.tile g).pc st) disp) else none)) s

/-- BEQ (R359). -/
def execBeq (a b : R5) (disp : BitVec 13) (s : State) : Host.Outcome State Fault Refusal := branchCmp .eq a b disp s
/-- BNE (R359). -/
def execBne (a b : R5) (disp : BitVec 13) (s : State) : Host.Outcome State Fault Refusal := branchCmp .ne a b disp s
/-- BLT (R359). -/
def execBlt (a b : R5) (disp : BitVec 13) (s : State) : Host.Outcome State Fault Refusal := branchCmp .lt a b disp s
/-- BGE (R359). -/
def execBge (a b : R5) (disp : BitVec 13) (s : State) : Host.Outcome State Fault Refusal := branchCmp .ge a b disp s
/-- BLTU (R359). -/
def execBltu (a b : R5) (disp : BitVec 13) (s : State) : Host.Outcome State Fault Refusal := branchCmp .ltu a b disp s
/-- BGEU (R359). -/
def execBgeu (a b : R5) (disp : BitVec 13) (s : State) : Host.Outcome State Fault Refusal := branchCmp .geu a b disp s

/-- Branch on a flag of value `v` (R360). -/
def branchFlag (v : Bool) (f : F3) (disp : BitVec 13) (s : State) : Host.Outcome State Fault Refusal :=
  issueJ .a 1 (fun g st s => do
    let x ← s.rdF g f
    .ok (s, if x = v then some (relTarget ((s.tile g).pc st) disp) else none)) s

/-- BFS (R360). -/
def execBfs (f : F3) (disp : BitVec 13) (s : State) : Host.Outcome State Fault Refusal := branchFlag true f disp s
/-- BFC (R360). -/
def execBfc (f : F3) (disp : BitVec 13) (s : State) : Host.Outcome State Fault Refusal := branchFlag false f disp s

/-- Branch on an outcome of value `v` popped from `qb`; an empty `qb` stalls (R361). -/
def branchQ (v : Bool) (disp : BitVec 13) (s : State) : Host.Outcome State Fault Refusal :=
  issueJ .x 1 (fun g st s =>
    match (s.tile g).qb with
    | [] => waitIn s .queue
    | b :: r =>
      .ok (s.modTile g (fun t => { t with qb := r }),
        if b = v then some (relTarget ((s.tile g).pc st) disp) else none)) s

/-- BQS (R361). -/
def execBqs (disp : BitVec 13) (s : State) : Host.Outcome State Fault Refusal := branchQ true disp s
/-- BQC (R361). -/
def execBqc (disp : BitVec 13) (s : State) : Host.Outcome State Fault Refusal := branchQ false disp s

/-- The jumps (R362): s is read before d is written. -/
def jump (d b : R5) (disp : BitVec 16) (s : State) : Host.Outcome State Fault Refusal :=
  issueJ .both 1 (fun g st s => do
    let pc := (s.tile g).pc st
    let x := s.rdS g st b
    raiseIf (b != 0 && x.1.2) s 0x2D
    let target := if b = 0 then pc + disp.setWidth 14 else x.1.1.setWidth 14 + disp.setWidth 14
    let s ← if d = 0 then .ok x.2 else do
      let s ← x.2.freeS g st d
      .ok (s.wrS g st d ((pc + 1).setWidth 64) false 1)
    .ok (s, some target)) s

/-- JMP (R362). -/
def execJmp (disp : BitVec 16) (s : State) : Host.Outcome State Fault Refusal := jump 0 0 disp s
/-- CALL (R362). -/
def execCall (l : R5) (disp : BitVec 16) (s : State) : Host.Outcome State Fault Refusal := jump l 0 disp s
/-- JMPR (R362). -/
def execJmpr (b : R5) (disp : BitVec 16) (s : State) : Host.Outcome State Fault Refusal := jump 0 b disp s
/-- CALLR (R362). -/
def execCallr (l b : R5) (disp : BitVec 16) (s : State) : Host.Outcome State Fault Refusal := jump l b disp s

/-- ILLEGAL_INSTRUCTION (R332, R333): a word that the checks refuse gives its stream the cause of the first check that
fails, before any effect; on another word the event does not occur. -/
def execIllegalInstruction (w0 w1 : W32) (s : State) : Host.Outcome State Fault Refusal :=
  match s.cur with
  | .stream g st =>
    match decodeIssue w0 w1 st ((s.tile g).ctx == some 0) with
    | .error c => .next (settle g st 1 (trapIn (s.openIssue g st) { code := c }))
    | .ok _ => .next s
  | _ => .fault .noIssuer

end Sys2Proof.Machine
end

