-- ==== Sys2Proof/Machine/Namespaces.lean ====
section
/-! DEFINITION. Registering and closing namespaces (R212, R213), and harvest (R234, R235) with the demotions and removals it starts (R219). -/

namespace Sys2Proof.Machine

/-! ## NS_CMD (R212, R213) -/

def State.nsDone (s : State) (code : Byte) : State := { s with nsGo := false, nsCode := code }

/-- The namespace of a record (R212). -/
def namespaceOf (d : BitVec 512) : Namespace :=
  { salt := d.extractLsb' 256 256, model := d.extractLsb' 224 32, adapt := d.extractLsb' 192 32, nsid := d.extractLsb' 160 32
    key := d.extractLsb' 148 12, nlayer := (d.extractLsb' 138 10).toNat, log2lb := (d.extractLsb' 133 5).toNat
    ty := d.extractLsb' 129 4, shared := d.getLsbD 128, cxlport := d.extractLsb' 125 3, priodef := d.extractLsb' 122 3, closing := false }

/-- A record that is ill-formed (R212). -/
def namespaceBad (d : BitVec 512) : Bool :=
  let n := namespaceOf d
  n.nsid == 0 || n.nlayer == 0 || decide (512 < n.nlayer) || decide (n.log2lb < 12) || decide (20 < n.log2lb) || n.ty == 0xF
    || (decide (4 ≤ n.cxlport.toNat) && decide (n.cxlport.toNat ≤ 6)) || d.extractLsb' 0 122 != 0

/-- REGISTER (R213). -/
def execRegister (s : State) : Host.Outcome State Fault Refusal :=
  event (fun s =>
    if !s.nsGo || s.nsRunOp != 1 then s
    else if !s.indexReady then s.nsDone 6
    else match s.devRead 0 s.nsAddr 64 with
      | none => s.nsDone 3
      | some bs =>
        let v := pNat bs
        let d : BitVec 512 := BitVec.ofNat 512 v.1
        let n := namespaceOf d
        if v.2 || namespaceBad d then s.nsDone 3
        else if (s.ns? n.nsid).isSome then s.nsDone 2
        else if 4096 ≤ s.nss.length then s.nsDone 4
        else { s.nsDone 0 with nss := Tab.set s.nss n.nsid.toNat n }) s

/-- A node leaves the index and is being removed (R219, R228). -/
def State.startRemoval (s : State) (h : BitVec 32) : State := (s.indexDel h).modNode h fun n => { n with st := .harvesting }

/-- The handle of a record by its number. -/
def State.handleOf (s : State) (key : Nat) : BitVec 32 := (Tab.get Node.reset s.nodes key).gen ++ BitVec.ofNat 24 key

/-- UNREGISTER (R213): the namespace closes, and its nodes without references begin to be removed. -/
def execUnregister (s : State) : Host.Outcome State Fault Refusal :=
  event (fun s =>
    if !s.nsGo || s.nsRunOp != 2 then s
    else match s.ns? s.nsRunNsid with
      | none => s.nsDone 5
      | some n =>
        if n.closing then s
        else
          let hs := (s.nodes.filter fun (e : Nat × Node) => e.2.nsid == n.nsid && e.2.st == .sealed && e.2.refcnt == 0).map (·.1)
          hs.foldl (fun s k => s.startRemoval (s.handleOf k)) { s with nss := Tab.set s.nss n.nsid.toNat { n with closing := true } }) s

/-- NAMESPACE_CLOSED (R213, R53): a closing namespace whose last node has gone. -/
def execNamespaceClosed (nsid : BitVec 32) (s : State) : Host.Outcome State Fault Refusal := event (fun s => s.nsGone nsid) s

/-! ## Harvest (R234, R235) -/

/-- A pool's candidate (R234). -/
def Node.candidate (n : Node) (key : Nat) (j : BitVec 4) : Bool :=
  n.st == .sealed && n.refcnt == 0 &&
    (if j.toNat < 12 then n.groups.any fun g => g.tier != 3 && groupPool g == j else key / 2 ^ 22 == j.toNat - 12)

/-- The key of R234 as one number, smallest first. -/
def harvestKey (n : Node) (key : Nat) : Nat :=
  ((n.prio.toNat * 2 ^ 48 + Nat.max n.lease.toNat n.touch.toNat) * 65536 + (65535 - n.depth.toNat)) * 2 ^ 24 + key

/-- New extents for a node's local groups in another tier (R233, R235): `none` where the pool has no room for them all. -/
def State.groupsIn (ns : Namespace) (tier : BitVec 2) (j : BitVec 4) : List Group → State → Option (List Group × State)
  | [], s => some ([], s)
  | g :: r, s =>
    if g.tier = 3 then State.groupsIn ns tier j r s
    else match s.allocGroups tier j g.nlay ns.log2lb with
      | none => none
      | some (gs, s) =>
        (State.groupsIn ns tier j r s).map fun x => (gs.map (fun a => { a with layer0 := a.layer0 + g.layer0 }) ++ x.1, x.2)

/-- Groups in ascending order of their first layer (R218). -/
def sortGroups (l : List Group) : List Group := l.mergeSort fun a b => a.layer0 ≤ b.layer0

/-- A node that is moving has local groups in two tiers: the frames it leaves, and those it goes to. -/
def Node.moving (n : Node) : Bool := n.groups.any fun a => n.groups.any fun b => a.tier != 3 && b.tier != 3 && a.tier.toNat < b.tier.toNat

/-- Harvest acts on a candidate (R235): it begins to move or to be removed; `none` where its destination has no room. -/
def State.harvestOne (s : State) (j : BitVec 4) (key : Nat) (n : Node) : Option State :=
  let h := s.handleOf key
  let note (s : State) : State := s.modPool j fun p => { p with moves := p.moves ++ [h] }
  match s.ns? n.nsid with
  | none => none
  | some ns =>
    let move (tier : BitVec 2) (k : BitVec 4) : Option State :=
      match State.groupsIn ns tier k n.groups s with
      | none => none
      | some (gs, s) =>
        if 12 < gs.length + (n.groups.filter fun g => g.tier == 3).length then none
        else some (note (s.setNode h { n with st := .harvesting, groups := n.groups ++ gs }))
    if j.toNat < 4 then move 1 (j + 4)
    else if j.toNat < 8 && ns.cxlport.toNat < 4 then move 2 (8 + ns.cxlport.setWidth 4)
    else some (note (s.startRemoval h))

/-- HARVEST_SELECT (R234, R235): one node, the first of the order whose destination has room, for one of the selections that the pool may make: the
first as harvest starts, and one as each move or removal of the pool ends. A selection that finds no node is still open (log entry 54). -/
def execHarvestSelect (j : BitVec 4) (s : State) : Host.Outcome State Fault Refusal :=
  event (fun s =>
    let p := s.pool j
    if !p.harvesting || p.picks = 0 || 4 ≤ p.moves.length then s
    else
      let c := (s.nodes.filter fun (e : Nat × Node) => e.2.candidate e.1 j).mergeSort fun a b => harvestKey a.2 a.1 ≤ harvestKey b.2 b.1
      ((c.findSome? fun (e : Nat × Node) => s.harvestOne j e.1 e.2).map fun s => s.modPool j fun p => { p with picks := p.picks - 1 }).getD s) s

/-- A move or removal of a node has ended: each pool that selected it may select again while harvest runs on it (R235). -/
def State.moveEnds (s : State) (h : BitVec 32) : State :=
  { s with pools := s.pools.map fun (p : Pool) =>
      if p.moves.contains h then { p with moves := p.moves.filter (· != h), picks := if p.harvesting then p.picks + 1 else 0 } else p }

/-- HARVEST_DEMOTION_DONE (R219): the frames stand in the new tier, and the old ones are free. -/
def execHarvestDemotionDone (h : BitVec 32) (s : State) : Host.Outcome State Fault Refusal :=
  event (fun s =>
    let n := s.node h
    if n.gen != hGen h || n.st != .harvesting || !n.moving then s
    else match s.ns? n.nsid with
      | none => s
      | some ns =>
        let top := n.groups.foldl (fun m g => if g.tier = 3 then m else Nat.max m g.tier.toNat) 0
        let old := n.groups.filter fun g => g.tier != 3 && g.tier.toNat != top
        let new := n.groups.filter fun g => g.tier != 3 && g.tier.toNat == top
        let lb := 2 ^ ns.log2lb
        let s := new.foldl (fun s g =>
          (List.range g.nlay).foldl (fun s i =>
            match old.find? fun a => decide (a.layer0 ≤ g.layer0 + i) && decide (g.layer0 + i < a.layer0 + a.nlay) with
            | some a => s.frameWrite 0 ns g.tier (g.addr + i * lb) (s.frameRead ns a.tier (a.addr + (g.layer0 + i - a.layer0) * lb) lb)
            | none => s) s) s
        let s := (s.freeGroups old).setNode h { n with
          st := .sealed, groups := sortGroups (n.groups.filter fun g => g.tier == 3 || g.tier.toNat == top) }
        (s.moveEnds h).closingRemoval h) s

/-- HARVEST_REMOVAL_DONE (R235): WITHDRAW, the parent's count, the frames, then the record. -/
def execHarvestRemovalDone (h : BitVec 32) (s : State) : Host.Outcome State Fault Refusal :=
  event (fun s =>
    let n := s.node h
    if n.gen != hGen h || n.st != .harvesting || n.moving then s else (s.freeNode chainFuel h).moveEnds h) s

end Sys2Proof.Machine
end

