-- ==== Sys2Proof/Machine/Translation.lean ====
section
/-! DEFINITION. The events of translation and coherence: walks through a die's walk cache (R198), the freeze and thaw of a tile (R199,
R200, R202), shootdowns (R204 to R206), a claim's answer (R487), a CLOSE marker at its home (R256). -/

namespace Sys2Proof.Machine

/-! ## Walks (R193, R197, R198) -/

/-- A shootdown covers an entry of a context that maps, or leads to, 2^`log2` bytes around `va` (R204). -/
def Shootdown.covers (d : Shootdown) (ctx : BitVec 16) (va log2 : Nat) : Bool :=
  match d.scope.toNat with
  | 0 => d.ctx == ctx && d.va.toNat / 2 ^ log2 == va / 2 ^ log2
  | 1 => d.ctx == ctx
  | _ => true

/-- A table entry of level 1 or 2 as a walk reads it: from the die's walk cache, or from its home, and then the cache holds it, most
recent first, unless a shootdown in progress covers it (R198, R206). -/
def State.walkEntry (s : State) (d : BitVec 2) (ctx : BitVec 16) (va level pa : Nat) : BitVec 128 × Bool × State :=
  let x := s.die d
  let log2 := 55 - 13 * level
  let covered := s.sds.any fun k => k.covers ctx va log2
  let old := if covered then none else x.wcache.find? fun w => w.ctx == ctx && w.level == level && w.tag == va / 2 ^ log2
  match old with
  | some w => (w.entry, false, s.setDie d { x with wcache := w :: x.wcache.filter (· != w) })
  | none =>
    let e := s.tableEntry pa
    if covered || e.2 || !e.1.getLsbD 0 || e.1.getLsbD 7 || tableBad level e.1 then (e.1, e.2, s)
    else
      let w : WalkEntry := { ctx := ctx, level := level, tag := va / 2 ^ log2, entry := e.1 }
      (e.1, false, s.setDie d { x with wcache := (w :: x.wcache).take 2048 })

/-- A walk from the table at `base`, for the levels that are left. -/
def State.walkVia (d : BitVec 2) (ctx : BitVec 16) (va : Nat) : (left : Nat) → (base : Nat) → State → WalkOut × State
  | 0, _, s => (.cause 0x24, s)
  | k + 1, base, s =>
    let level := 3 - k
    let pa := base + 16 * (va / 2 ^ (16 + 13 * k) % 2 ^ 13)
    let r : BitVec 128 × Bool × State := if k = 0 then ((s.tableEntry pa).1, (s.tableEntry pa).2, s) else s.walkEntry d ctx va level pa
    let e := r.1
    if r.2.1 then (.cause 0x2A, r.2.2)
    else if !e.getLsbD 0 then (.absent, r.2.2)
    else if e.getLsbD 7 then
      if leafBad r.2.2 level e then ((if (r.2.2.keyId (leafKey e)).isNone then .absent else .cause 0x24), r.2.2)
      else (.leaf (16 + 13 * k) e, r.2.2)
    else if tableBad level e then (.cause 0x24, r.2.2)
    else State.walkVia d ctx va k ((e.extractLsb' 17 31).toNat * 2 ^ 17) r.2.2

/-- What a walk comes to, the permission the access needs among it. -/
inductive Met where
  | ok | hit (c : Cause) | bad (c : Cause) | absent
  deriving DecidableEq, Repr

/-- One walk of tile `g`: its outcome; a leaf enters the rim's translation cache. -/
def State.doWalk (s : State) (g : BitVec 8) (w : Walk) : Met × State :=
  match s.ctx? w.ctx with
  | none => (.absent, s)
  | some c =>
    match State.walkVia (dieOf g) w.ctx w.va.toNat 3 (c.trootNext.toNat * 2 ^ 17) s with
    | (.cause x, s) => (.bad x, s)
    | (.absent, s) => (.absent, s)
    | (.leaf n l, s) =>
      match checkLeaf s l w.acc with
      | .absent => (.absent, s)
      | .cause x => (.hit x, s.modTile g fun t => t.tlbFill { ctx := w.ctx, va := w.va.toNat / 2 ^ n * 2 ^ n, log2 := n, leaf := l })
      | .ok => (.ok, s.modTile g fun t => t.tlbFill { ctx := w.ctx, va := w.va.toNat / 2 ^ n * 2 ^ n, log2 := n, leaf := l })

/-- The walks of one waiter, in the order asked, with their outcomes. -/
def State.doWalks (g : BitVec 8) : List Walk → State → List (Walk × Met) × State
  | [], s => ([], s)
  | w :: r, s =>
    let x := s.doWalk g w
    let y := State.doWalks g r x.2
    ((w, x.1) :: y.1, y.2)

/-- The first outcome that does not pass: that of the lower half, of a beat's source (R198, R202). -/
def firstBad (l : List (Walk × Met)) : Option (Walk × Met) := l.find? fun x => x.2 != .ok

/-- A walk's cause, charged to the A-stream or to the command that asked (R197, R289). -/
def State.walkCause (s : State) (g : BitVec 8) (w : Walk) (c : Cause) : State :=
  let r : Raise := { code := c, tval := w.va, aKind := 2, half := w.half }
  match w.waiter with
  | .stream => s.takeCause g .a r
  | .engine e seq =>
    match s.cmdOf g e seq with
    | some x => s.engineCause g e x r
    | none => s

/-- The walks of the tile's oldest waiter return together (R198, R202): all pass and the access is presented again, or the first that
does not gives the outcome. A permission that fails is found when the access is presented again. -/
def State.walksReturn (s : State) (g : BitVec 8) (who : Waiter) : State :=
  let mine := (s.tile g).walks.filter fun w => w.waiter == who
  let r := State.doWalks g mine s
  let s1 := r.2.modTile g fun t => { t with walks := t.walks.filter fun w => w.waiter != who }
  match firstBad r.1 with
  | some (w, .bad c) => s1.walkCause g w c
  | some (_, .absent) => s1.freeze g ((r.1.filter fun x => x.2 == .absent).map (·.1))
  | _ => s1

/-- TRANSLATION_WALK_COMPLETE (R197 to R200): at a stopped tile only a not-present result is taken, since service ends before the thaw;
any other is delivered after it. -/
def execTranslationWalkComplete (g : BitVec 8) (s : State) : Host.Outcome State Fault Refusal :=
  powered (fun s =>
    let t := s.tile g
    if t.capturing.isSome then s
    else if t.stop.isNone then
      match t.walks with
      | [] => s
      | w :: _ => s.walksReturn g w.waiter
    else if t.stop != some .notPresent then s
    else
      let absent (w : Walk) : Bool := match firstBad (State.doWalks g (t.walks.filter fun x => x.waiter == w.waiter) s).1 with
        | some (_, .absent) => true
        | _ => false
      match t.walks.find? absent with
      | none => s
      | some w => s.walksReturn g w.waiter) s

/-! ## The thaw (R200) -/

/-- A page is still not present. -/
def State.stillAbsent (s : State) (w : Walk) : Bool :=
  match s.ctx? w.ctx with
  | none => true
  | some c => match s.walk c w.va.toNat with
    | .absent => true
    | .leaf _ l => checkLeaf s l w.acc == .absent
    | .cause _ => false

/-- A page belongs to a residency handle that is moving: its access is serviced when the move completes (R151). -/
def State.pageMoves (s : State) (w : Walk) : Bool :=
  s.resMoves.any fun m => match s.resEntry m.h.toNat with
    | some e => resCtx e == w.ctx && decide ((resVaBase e).toNat ≤ w.va.toNat)
        && decide (w.va.toNat < (resVaBase e).toNat + 65536 * resPages e)
    | none => false

/-- Service goes on for a tile that is captured while frozen, and for its image (R201): the entries are written. -/
def State.serviced (s : State) (g : BitVec 8) : Bool :=
  ((s.tile g).capturing.isSome && (s.tile g).stop == some .notPresent) || s.images.any fun (e : Nat × Image) => e.2.frozen && e.2.srctile == g

/-- THAW (R200): the entries that service wrote stand in their tables; the accesses are presented again, or receive cause 0x20 where the
controller could not make their page present. The rim takes its request credits again (R182). -/
def execThaw (g : BitVec 8) (entries : List (BitVec 48 × BitVec 128)) (ok : Bool) (s : State) : Host.Outcome State Fault Refusal :=
  powered (fun s =>
    let t := s.tile g
    let served := entries.foldl (fun s e => s.putEntry (e.1.toNat / 16 * 16) e.2) s
    if t.stop != some .notPresent || t.capturing.isSome then (if s.serviced g then served else s)
    else if t.faults.any s.pageMoves then s
    else
      let s := served.modTile g fun t => { t with stop := none, faults := [], reqCred := 32 }
      if ok then s
      else
        let bad := t.faults.filter s.stillAbsent
        let one := bad.foldl (fun l (w : Walk) => if l.any (fun (x : Walk) => x.waiter == w.waiter) then l else l ++ [w]) ([] : List Walk)
        one.foldl (fun s w => s.walkCause g w 0x20) s) s

/-! ## Shootdowns (R204 to R206) -/

/-- A request in SD_CMD starts (R204). -/
def State.sdStart (s : State) (scope : BitVec 2) : State :=
  if !s.sdGo || s.sdScope != scope || s.sds.any (fun d => d.host) then s
  else s.startShootdown scope s.sdCtx s.sdAddr true none

/-- SHOOTDOWN_PAGE, SHOOTDOWN_CONTEXT, SHOOTDOWN_ALL (R204). -/
def execShootdownPage (s : State) : Host.Outcome State Fault Refusal := event (fun s => s.sdStart 0) s
def execShootdownContext (s : State) : Host.Outcome State Fault Refusal := event (fun s => s.sdStart 1) s
def execShootdownAll (s : State) : Host.Outcome State Fault Refusal := event (fun s => s.sdStart 2) s

def TlbEntry.under (e : TlbEntry) (d : Shootdown) : Bool := d.covers e.ctx e.va e.log2

/-- The lines of an L1D that lie in a frame that a covered entry mapped (R205). -/
def Tile.covered (t : Tile) (d : Shootdown) : List L1Line :=
  t.l1.filter fun l => (t.tlb ++ t.past).any fun e => e.under d && e.maps l.line

/-- A translation cache without what a shootdown covers. -/
def Tile.uncache (t : Tile) (d : Shootdown) : Tile :=
  { t with tlb := t.tlb.filter fun e => !e.under d, past := t.past.filter fun e => !e.under d }

/-- Step 1 of R205 in a capture image: the lines leave it, and what was dirty is written back. -/
def State.imageShoot (s : State) (d : Shootdown) (h : Nat) : State :=
  let u := 256 + h
  let s := ((s.holder u).covered d).foldl (fun s l =>
    let s := if l.dmask = 0 then s else (s.mergeBack u l).unhold l.line u
    s.modHolder u fun t => t.l1Del l.line) s
  s.modHolder u fun t => t.uncache d

/-- A confidential copy between its steps 7 and 9 uses a translation that a shootdown covers (R107). -/
def State.confHolds (s : State) (d : Shootdown) : Bool :=
  s.interps.toList.any fun x => match x.conf with
    | some c => !c.ended && c.dst.any fun p => d.covers c.ctx p.va 42
    | none => false

/-- What a party does before it acknowledges (R205); `none` while it cannot. -/
def State.sdAct (s : State) (d : Shootdown) (p : SdParty) : Option State :=
  match p with
  | .rim g =>
    let t := s.tile g
    let ls := t.covered d
    if ls.any fun l => t.claims.any fun c => c.line == l.line then none
    else some (((ls.foldl (fun s l => s.l1Drop g l) s).drainDie (dieOf g)).modTile g fun t => t.uncache d)
  | .walkCache k =>
    let x := s.die k
    some (s.setDie k { x with wcache := x.wcache.filter fun w => !d.covers w.ctx (w.tag * 2 ^ (55 - 13 * w.level)) (55 - 13 * w.level) })
  | .dieController k =>
    let hs := (s.images.filter fun e => holderDie (256 + e.1) == k && (d.scope == 2 || e.2.ctx == d.ctx)).map (·.1)
    some (hs.foldl (fun s h => s.imageShoot d h) s)
  | .copyUnit => if s.confHolds d then none else some s
  | .layoutUnit _ | .residencyUnit => some s

/-- The last acknowledgement ends a shootdown; GO falls for one that SD_CMD started (R204). -/
def State.sdEnds (s : State) (d : Shootdown) : State :=
  if d.host then { s with sdGo := false, sdCode := 0 } else s

/-- The acknowledgement of one party of the first shootdown that still waits for it. -/
def sdAckGo (p : SdParty) : List Shootdown → Option (Shootdown × List Shootdown)
  | [] => none
  | d :: r =>
    if d.wait.contains p then
      let d1 := { d with wait := d.wait.filter (· != p) }
      some (d1, if d1.wait.isEmpty then r else d1 :: r)
    else (sdAckGo p r).map fun x => (x.1, d :: x.2)

/-- SHOOTDOWN_ACK (R205). -/
def execShootdownAck (p : SdParty) (s : State) : Host.Outcome State Fault Refusal :=
  event (fun s =>
    match sdAckGo p s.sds with
    | none => s
    | some (d, rest) =>
      match s.sdAct d p with
      | none => s
      | some s =>
        let s := { s with sds := rest }
        if d.wait.isEmpty then s.sdEnds d else s) s

/-! ## At the homes (R256, R487) -/

/-- CA_STORE_CLAIM_ANSWER (R487): the tile's oldest claim is answered, once its home serves it (R256). -/
def execCaStoreClaimAnswer (g : BitVec 8) (s : State) : Host.Outcome State Fault Refusal :=
  powered (fun s =>
    match (s.tile g).claims with
    | [] => s
    | c :: r => if s.claimServed g c then (s.answerClaim g c).modTile g fun t => { t with claims := r } else s) s

/-- CLOSE_APPLIED (R256): a CLOSE marker that is the oldest entry of its channel is applied at the home. -/
def execCloseApplied (d : BitVec 2) (h : BitVec 3) (s : State) : Host.Outcome State Fault Refusal :=
  event (fun s =>
    match s.chan d h with
    | .close v :: r => (s.setChan d h r).applyEnt d h (.close v)
    | _ => s) s

end Sys2Proof.Machine
end

