-- ==== Sys2Proof/Machine/Registers.lean ====
section
/-! DEFINITION. Writes to the registers of BAR0 (R4, R5, R22): each register's word with its access codes, by chapter. -/

namespace Sys2Proof.Machine

/-! ## Writes (R4) -/

/-- A write as one aligned 64-bit word of BAR0 sees it: the bits written, and their values. -/
structure RegW where
  m : W64
  v : W64

/-- An RW image after the write. -/
def RegW.upon (w : RegW) (old : W64) : W64 := (old &&& ~~~ w.m) ||| w.v
/-- A 1 is written to a bit (W1S, W1C). -/
def RegW.hit (w : RegW) (i : Nat) : Bool := w.v.getLsbD i
/-- Some bit of a field is written. -/
def RegW.at (w : RegW) (lo n : Nat) : Bool := w.m.extractLsb' lo n != 0

/-- The entries of `n` bits that a word holds and a write reaches: position in the word, and its new value over an old one. -/
def RegW.entries (w : RegW) (n : Nat) : List (Nat × (W64 → Nat)) :=
  ((List.range (64 / n)).filter fun i => w.m.extractLsb' (n * i) n != 0).map fun i =>
    (i, fun old => ((w.upon (old <<< (n * i))).extractLsb' (n * i) n).toNat)

/-! ## Sluice, directory, programs -/

/-- SLU_BUDGET (R43). -/
def State.regSluice (s : State) (a : Nat) (w : RegW) : State :=
  if a = 0x100000 then s.putBudget (((w.upon (s.budget.setWidth 64)) &&& 0xFFFF) ||| (w.v &&& 0x80000000)) else s

/-- HOMEMAP (R48). -/
def State.regHomemap (s : State) (a : Nat) (w : RegW) : State :=
  (w.entries 16).foldl (fun s e =>
    let j := (a - 0x110000) / 2 + e.1
    { s with homemap := Tab.set s.homemap j (BitVec.ofNat 16 (e.2 ((Tab.get 0 s.homemap j).setWidth 64)) &&& 0x8FFF) }) s

/-- DIR_CFG (R55). -/
def State.regDirCfg (s : State) (w : RegW) : State :=
  let x := w.upon (s.dirSets ++ (0 : BitVec 11) ++ s.dirBase ++ (0 : BitVec 8) ++ BitVec.ofBool s.dirEn)
  { s with
    dirSets := if s.dirEn then s.dirSets else x.extractLsb' 59 5
    dirBase := if s.dirEn then s.dirBase else x.extractLsb' 9 39
    dirEn := x.getLsbD 0 }

/-- PROG_ADDR and PROG_CMD (R79): a GO while BUSY, or for slot 0, changes nothing. -/
def State.regProg (s : State) (a : Nat) (w : RegW) : State :=
  if a = 0x120000 then { s with progAddr := w.upon s.progAddr }
  else if a = 0x120008 then
    let slot : Byte := (w.upon (s.progSlot.setWidth 64 <<< 8)).extractLsb' 8 8
    if !w.hit 0 then { s with progSlot := slot }
    else if s.progBusy || slot = 0 then s
    else { s with progSlot := slot, progBusy := true }
  else s

/-- QFUNC (R66, R100): ignored while the queue or the ring has EN set. -/
def State.regQfunc (s : State) (a : Nat) (w : RegW) : State :=
  (w.entries 8).foldl (fun s e =>
    let n : BitVec 10 := BitVec.ofNat 10 (a - 0x121000 + e.1)
    let old := s.queueFn n
    let new : BitVec 8 := BitVec.ofNat 8 (e.2 0)
    s.frozenWrite 0 old true fun s => s.frozenWrite 0 new true fun s =>
      if (s.queue n).en || (s.ring n.toNat).en then s else { s with qfunc := Tab.set s.qfunc n.toNat new }) s

/-! ## Measurements (R94, R95) -/

/-- MEXT_DATA and MEXT_CMD. -/
def State.regMext (s : State) (a : Nat) (w : RegW) : State :=
  if a < 0x130020 then
    let lo := 8 * (a - 0x130000)
    let x := w.upon (s.mextData.extractLsb' lo 64)
    { s with mextData := (s.mextData &&& ~~~ (((BitVec.allOnes 64).setWidth 256) <<< lo)) ||| (x.setWidth 256 <<< lo) }
  else if a = 0x130020 then
    if w.hit 8 && s.mextGo then { s with mextCode := 2 }
    else { s with mextIdx := (w.upon (s.mextIdx.setWidth 64)).extractLsb' 0 4, mextGo := s.mextGo || w.hit 8 }
  else s

/-! ## Tenants, gangs, residency -/

/-- TEN_CFG as it reads (R138). -/
def Tenant.cfg (t : Tenant) : W64 :=
  BitVec.ofBool t.en ++ BitVec.ofBool t.active ++ (0 : BitVec 35) ++ BitVec.ofNat 7 t.maxtile ++ BitVec.ofBool t.resref ++ t.prio
    ++ BitVec.ofNat 8 t.weight ++ (0 : BitVec 8)

/-- TEN_CFG (R138). -/
def State.regTenant (s : State) (a : Nat) (w : RegW) : State :=
  if (a - 0x140000) % 32 ≠ 0 then s
  else
    let c : BitVec 6 := BitVec.ofNat 6 ((a - 0x140000) / 32)
    let t := s.tenant c
    let x := w.upon t.cfg
    let n := (x.extractLsb' 20 7).toNat
    let k := (x.extractLsb' 8 8).toNat
    { s with tenants := vset s.tenants c { t with
        en := x.getLsbD 63, maxtile := if 64 < n then 64 else n, resref := x.getLsbD 19, prio := x.extractLsb' 16 3
        weight := if k = 0 then 1 else k } }

/-- GANG_TIME, GANG_SET and GANG_CTL (R146). -/
def State.regGang (s : State) (a : Nat) (w : RegW) : State :=
  if a = 0x140800 then (if s.gangArmed then s else { s with gangTime := w.upon s.gangTime })
  else if a = 0x140808 then (if s.gangArmed then s else { s with gangSet := w.upon s.gangSet })
  else if a = 0x140810 then { s with gangDone := s.gangDone && !w.hit 1, gangArmed := s.gangArmed || w.hit 0 }
  else s

/-- RES_BASE, RES_CMD, RES_POOL and RES_CXLPOOL (R148, R149). -/
def State.regRes (s : State) (a : Nat) (w : RegW) : State :=
  if a = 0x141000 then { s with resBase := w.upon s.resBase }
  else if a = 0x141008 then
    let x := w.upon ((s.resHandle.setWidth 64 <<< 48) ||| (s.resOp.setWidth 64 <<< 11))
    if w.hit 31 && s.resGo then { s with resCode := 1 }
    else
      let op : BitVec 3 := x.extractLsb' 11 3
      let s := { s with resHandle := x.extractLsb' 48 16, resOp := op }
      if !w.hit 31 then s
      else if op = 0 || 6 ≤ op.toNat then { s with resCode := 4 } else { s with resGo := true, resRunHandle := s.resHandle, resRunOp := op }
  else if a < 0x141030 then
    let d : BitVec 2 := BitVec.ofNat 2 ((a - 0x141010) / 8)
    { s with resPool := vset s.resPool d ((w.upon ((vget s.resPool 0 d).setWidth 64)).extractLsb' 0 32) }
  else if a = 0x141030 then { s with resCxl := w.upon s.resCxl }
  else s

/-! ## Shootdowns, the Saltern -/

/-- SD_ADDR and SD_CMD (R204). -/
def State.regSd (s : State) (a : Nat) (w : RegW) : State :=
  if a = 0x150000 then { s with sdAddr := w.upon s.sdAddr }
  else if a = 0x150008 then
    if w.hit 31 && s.sdGo then { s with sdCode := 1 }
    else
      let x := w.upon ((s.sdCtx.setWidth 64 <<< 48) ||| (s.sdScope.setWidth 64 <<< 2))
      let s := { s with sdCtx := x.extractLsb' 48 16, sdScope := x.extractLsb' 2 2 }
      if !w.hit 31 then s else if s.sdScope = 3 then { s with sdCode := 2 } else { s with sdGo := true }
  else s

/-- NS_ADDR and NS_CMD (R213). -/
def State.regNs (s : State) (a : Nat) (w : RegW) : State :=
  if a = 0x160000 then { s with nsAddr := w.upon s.nsAddr }
  else if a = 0x160008 then
    if w.hit 31 && s.nsGo then { s with nsCode := 1 }
    else
      let x := w.upon ((s.nsNsid.setWidth 64 <<< 32) ||| s.nsOp.setWidth 64)
      let s := { s with nsNsid := x.extractLsb' 32 32, nsOp := x.extractLsb' 0 2 }
      if !w.hit 31 then s
      else if s.nsOp = 0 || s.nsOp = 3 then { s with nsCode := 3 }
      else { s with nsGo := true, nsRunNsid := s.nsNsid, nsRunOp := s.nsOp }
  else s

/-- REPL_DESC and REPL_CMD (R59). -/
def State.regRepl (s : State) (a : Nat) (w : RegW) : State :=
  if a = 0x160020 then { s with repl := { s.repl with desc := w.upon s.repl.desc } }
  else if a = 0x160028 && w.hit 31 then { s with repl := if s.repl.go then { s.repl with code := 1 } else { s.repl with go := true } }
  else s

/-- SALT_IDX (R228): ignored while a namespace is registered. -/
def State.regIdx (s : State) (a : Nat) (w : RegW) : State :=
  if !s.nss.isEmpty then s
  else
    let d : BitVec 2 := BitVec.ofNat 2 ((a - 0x160100) / 8)
    let x := w.upon (vget s.idxLog 0 d ++ (0 : BitVec 11) ++ vget s.idxBase 0 d ++ (0 : BitVec 8))
    { s with idxLog := vset s.idxLog d (x.extractLsb' 59 5), idxBase := vset s.idxBase d (x.extractLsb' 8 40) }

/-- The pools' blocks (R232). -/
def State.regPool (s : State) (a : Nat) (w : RegW) : State :=
  let j : BitVec 4 := BitVec.ofNat 4 ((a - 0x161000) / 32)
  match (a - 0x161000) % 32 with
  | 0 => if s.nss.isEmpty then s.modPool j fun p => { p with base := w.upon p.base } else s
  | 8 => if s.nss.isEmpty then s.modPool j fun p => { p with size := (w.upon (p.size.setWidth 64)).extractLsb' 0 32 } else s
  | 16 => s.modPool j fun p =>
    let x := w.upon (p.high ++ p.low)
    let high : BitVec 32 := x.extractLsb' 32 32
    let low : BitVec 32 := x.extractLsb' 0 32
    if high.toNat < low.toNat then p else { p with high := high, low := low }
  | _ => s

/-! ## Errors, checkpoints -/

/-- CKPT_CFG as a write stores it (R319). -/
def clampCk (k : CkCfg) : CkCfg :=
  let n := k.interval.toNat
  let n := if n = 0 then 0 else if n < 10 then 10 else if 1000 < n then 1000 else n
  let u := k.undo.toNat
  { k with interval := BitVec.ofNat 10 n, undo := if u = 0 && n != 0 then 1 else if 8 < u then 8 else k.undo }

/-- ERR_LOST and CKPT_CFG (R317, R319). -/
def State.regErr (s : State) (a : Nat) (w : RegW) : State :=
  if a = 0x170040 then (if w.hit 32 then { s with errOvf := false, errLost := 0 } else s)
  else if a = 0x170100 then
    let k := s.ckCfg
    if w.hit 0 && k.go then { s with ckCfg := { k with code := 1 } }
    else
      let x := w.upon ((k.ctx.setWidth 64 <<< 48) ||| (k.interval.setWidth 64 <<< 38) ||| (k.undo.setWidth 64 <<< 31))
      { s with ckCfg := clampCk { k with
          ctx := x.extractLsb' 48 16, interval := x.extractLsb' 38 10, undo := x.extractLsb' 31 4, go := k.go || w.hit 0 } }
  else s

/-! ## Time, peer ports -/

/-- TIME_STATUS.STEPPED and TIME_CTL (R34). -/
def State.regTime (s : State) (a : Nat) (w : RegW) : State :=
  if a = 0x181000 then { s with tStepped := s.tStepped && !w.hit 0 }
  else if a = 0x181020 then
    let x := w.upon (s.tDomain.setWidth 64 <<< 8 ||| (BitVec.ofBool s.tDelay ++ BitVec.ofBool s.tEn).setWidth 64)
    { s with
      tDomain := if s.tEn then s.tDomain else x.extractLsb' 8 8, tDelay := if s.tEn then s.tDelay else x.getLsbD 1
      tEn := x.getLsbD 0, tLocked := s.tLocked && x.getLsbD 0 }
  else s

/-- PL_CTL of a port (R30): EN starts training, and ends it; DOWN is cleared. -/
def State.regPort (s : State) (a : Nat) (w : RegW) : State :=
  let pn : BitVec 4 := BitVec.ofNat 4 ((a - 0x188000) / 8)
  let p := s.port pn
  let en := (w.upon ((BitVec.ofBool p.en).setWidth 64)).getLsbD 0
  let down := p.down && !w.hit 2
  if p.en && !en then (s.requestsDown pn).portOff pn false down else s.setPort pn { p with en := en, down := down }

/-- PKGID, ROUTE and PL_CTL (R30). -/
def State.regPeer (s : State) (a : Nat) (w : RegW) : State :=
  if a = 0x180000 then
    if s.ports.toList.any (·.en) then s else { s with pkgid := (w.upon (s.pkgid.setWidth 64)).extractLsb' 0 12 }
  else if 0x184000 ≤ a && a < 0x188000 then
    (w.entries 32).foldl (fun s e =>
      let j := (a - 0x184000) / 4 + e.1
      { s with route := Tab.set s.route j (BitVec.ofNat 16 (e.2 ((Tab.get 0 s.route j).setWidth 64))) }) s
  else if 0x188000 ≤ a && a < 0x188080 then s.regPort a w
  else s

/-- A word of the registers that only the physical function's BAR0 has. -/
def State.regPf (s : State) (a : Nat) (w : RegW) : State :=
  if a < 0x110000 then s.regSluice a w
  else if a < 0x112000 then s.regHomemap a w
  else if a = 0x112000 then s.regDirCfg w
  else if a < 0x120000 then s
  else if a < 0x120010 then s.regProg a w
  else if a < 0x121000 then s
  else if a < 0x121400 then s.regQfunc a w
  else if a < 0x130000 then s
  else if a < 0x131000 then s.regMext a w
  else if a < 0x140000 then s
  else if a < 0x140800 then s.regTenant a w
  else if a < 0x141000 then s.regGang a w
  else if a < 0x150000 then s.regRes a w
  else if a < 0x160000 then s.regSd a w
  else if a < 0x160010 then s.regNs a w
  else if a < 0x160100 then s.regRepl a w
  else if a < 0x160120 then s.regIdx a w
  else if a < 0x161000 then s
  else if a < 0x161200 then s.regPool a w
  else if a < 0x170000 then s
  else if a < 0x180000 then s.regErr a w
  else if a < 0x182000 && a ≠ 0x180000 then s.regTime a w
  else s.regPeer a w

/-! ## Queues, rings, the window, MSI-X (R23, R24, R66, R86) -/

/-- A word of a queue's block (R66, R68, R91, R100). -/
def State.regQueue (s : State) (fn : BitVec 8) (n : BitVec 10) (o : Nat) (w : RegW) : State :=
  let q := s.queue n
  let owner := s.queueFn n
  if !s.reaches fn n then s
  else match o with
    | 0x00 =>
      let x := w.upon q.base &&& ~~~ (63 : W64)
      s.frozenWrite fn owner (w.at 0 64) fun s => s.modQueue n fun q => { q with base := x }
    | 0x08 => s.qCtl fn n (w.upon q.ctl)
    | 0x10 => if w.at 0 32 then s.qHead fn n ((w.upon (q.head.setWidth 64)).extractLsb' 0 32) else s
    | 0x20 =>
      let s := if w.hit 1 then s.qResume fn n else s
      if w.hit 0 then s.modQueue n fun q => { q with dbign := false } else s
    | 0x28 =>
      let x : BitVec 16 := (w.upon (q.ctx.setWidth 64)).extractLsb' 0 16
      s.frozenWrite fn owner (w.at 0 16) fun s => s.modQueue n fun q => { q with ctx := x }
    | _ => s

/-- A word of a completion ring's block, or of the error ring's (R86, R100, R316). -/
def State.regRing (s : State) (fn : BitVec 8) (c : Nat) (o : Nat) (w : RegW) : State :=
  let r := s.ring c
  match o with
  | 0x00 =>
    let x := w.upon r.base
    s.frozenWrite fn (s.ringFn c) (w.at 0 64) fun s => s.modRing c fun r => { r with base := x }
  | 0x08 => s.ringCtl fn c (w.upon r.ctl)
  | 0x10 => s.modRing c fun r => { r with head := (w.upon (r.head.setWidth 64)).extractLsb' 0 32 }
  | 0x28 =>
    let x : BitVec 16 := (w.upon (r.ctx.setWidth 64)).extractLsb' 0 16
    s.frozenWrite fn (s.ringFn c) (w.at 0 16) fun s => s.modRing c fun r => { r with ctx := x }
  | _ => s

/-- W2_VA and W2_CTX of a function (R23). -/
def State.regWindow (s : State) (fn : BitVec 8) (a : Nat) (w : RegW) : State :=
  let f := s.fn fn
  if a = 0x190000 then s.setFn fn { f with w2va := (w.upon (f.w2va ++ (0 : BitVec 30))).extractLsb' 30 34 }
  else
    let x := w.upon ((BitVec.ofBool f.w2en ++ f.w2ctx).setWidth 64)
    s.setFn fn { f with w2en := x.getLsbD 16, w2ctx := x.extractLsb' 0 16 }

/-- A word of a function's MSI-X table (R24): 16 bytes an entry, the mask bit in bit 0 of its last four. -/
def State.regMsix (s : State) (fn : BitVec 8) (o : Nat) (w : RegW) : State :=
  s.frozenWrite fn fn true fun s =>
    let s := (List.range 8).foldl (fun s i =>
      if w.at (8 * i) 8 then
        s.setFn fn { s.fn fn with msixTab := Mem.put (s.fn fn).msixTab (o + i) (w.v.extractLsb' (8 * i) 8) }
      else s) s
    let vec : BitVec 11 := BitVec.ofNat 11 (o / 16)
    if o % 16 = 0 || !w.at 32 8 then s
    else if w.hit 32 then s.setFn fn { s.fn fn with unmasked := delNat (s.fn fn).unmasked vec.toNat }
    else s.unmask fn vec

/-- One aligned word of a function's BAR0 (R22, R66). -/
def State.regWord (s : State) (fn : BitVec 8) (a : Nat) (w : RegW) : State :=
  if s.recovery && !(0x130000 ≤ a && a < 0x131000) then s
  else if a = 0x190000 || a = 0x190008 then s.regWindow fn a w
  else if 0x1000000 ≤ a && a < 0x1010000 then
    s.regQueue fn (BitVec.ofNat 10 ((a - 0x1000000) / 64)) (a % 64) w
  else if 0x1800000 ≤ a && a < 0x1810000 then
    let c : BitVec 10 := BitVec.ofNat 10 ((a - 0x1800000) / 64)
    if s.reaches fn c then s.regRing fn c.toNat (a % 64) w else s
  else if 0x2000000 ≤ a && a < 0x2400000 then
    if a % 0x1000 = 0 && w.at 0 32 then s.doorbell fn (BitVec.ofNat 10 ((a - 0x2000000) / 0x1000)) (w.v.extractLsb' 0 32) else s
  else if 0x3000000 ≤ a && a < 0x3008000 then s.regMsix fn (a - 0x3000000) w
  else if fn ≠ 0 then s
  else if 0x170000 ≤ a && a < 0x170040 then s.regRing 0 errRing (a - 0x170000) w
  else s.regPf a w

/-- The bits of a write of `n` bytes at `off` that fall in the word at `a`. -/
def wordPart (off n : Nat) (val : W64) (a : Nat) : RegW :=
  let bits := 2 ^ (8 * n) - 1
  let m := if a ≤ off then bits * 2 ^ (8 * (off - a)) else bits / 2 ^ (8 * (a - off))
  let v := if a ≤ off then (val.toNat &&& bits) * 2 ^ (8 * (off - a)) else (val.toNat &&& bits) / 2 ^ (8 * (a - off))
  { m := BitVec.ofNat 64 m, v := BitVec.ofNat 64 v }

/-- REGISTER_WRITE (R4, R5, R22): a write of up to 8 bytes reaches the one or two words that hold its bytes. -/
def execRegisterWrite (fn : BitVec 8) (off : BitVec 26) (size : Nat) (val : W64) (s : State) : Host.Outcome State Fault Refusal :=
  event (fun s =>
    if size = 0 || 8 < size then s
    else
      let a := off.toNat / 8 * 8
      let s := s.regWord fn a (wordPart off.toNat size val a)
      if a + 8 < off.toNat + size then s.regWord fn (a + 8) (wordPart off.toNat size val (a + 8)) else s) s

end Sys2Proof.Machine
end

