-- ==== Sys2Proof/Machine/System.lean ====
section
/-! DEFINITION. Status registers (R453 to R458), traps, item end and poison checks (R459 to R462), and the recipe
instructions (R463 to R467). -/

namespace Sys2Proof.Machine

/-! ## Status registers (R453, R454) -/

/-- A status register by its number, for the stream that may name it. -/
inductive Csr where
  | fctl | fstat | tvec | tepc | tstat | trec (k : Nat) | cycle | devtime | tickcnt | tileinfo
  | pmc (j : BitVec 3) | pmsel (j : BitVec 3) | pmovf
  deriving DecidableEq, Repr

/-- The register of a number; `none` where the number is unassigned for the stream (R453). -/
def csrOf (st : Stream) (c : BitVec 10) : Option Csr :=
  match c.toNat with
  | 0x000 => if st = .x then some .fctl else none
  | 0x001 => if st = .x then some .fstat else none
  | 0x008 => some .tvec
  | 0x009 => some .tepc
  | 0x00A => some .tstat
  | 0x020 => some .cycle
  | 0x021 => some .devtime
  | 0x022 => some .tickcnt
  | 0x023 => some .tileinfo
  | 0x040 => some .pmovf
  | n =>
    if 0x010 ≤ n && n ≤ 0x017 then some (.trec (n - 0x010))
    else if 0x030 ≤ n && n ≤ 0x037 then some (.pmc (BitVec.ofNat 3 (n - 0x030)))
    else if 0x038 ≤ n && n ≤ 0x03F then some (.pmsel (BitVec.ofNat 3 (n - 0x038)))
    else none

/-- How a register's fields are written: RW bits, or W1C bits, or none (R4, R453 to R455). -/
inductive CsrAcc where
  | rw (mask : W64) | w1c | ro
  deriving DecidableEq, Repr

def Csr.acc : Csr → CsrAcc
  | .fctl => .rw 7
  | .fstat | .pmovf => .w1c
  | .tvec | .tepc => .rw 0x3FFF
  | .tstat => .rw 1
  | .pmc _ => .rw (BitVec.allOnes 64)
  | .pmsel _ => .rw 0x3FF
  | _ => .ro

/-- The value of a status register (R453 to R455). -/
def State.csrGet (s : State) (g : BitVec 8) (st : Stream) (c : Csr) : W64 :=
  let t := s.tile g
  let k := t.csr st
  match c with
  | .fctl => t.fctl.setWidth 64
  | .fstat => t.fstat.setWidth 64
  | .tvec => k.tvec.setWidth 64
  | .tepc => k.tepc.setWidth 64
  | .tstat => (k.code ++ BitVec.ofBool k.skip ++ BitVec.ofBool k.tin).setWidth 64
  | .trec n => k.trec.extractLsb' (64 * n) 64
  | .cycle => t.cyc
  | .devtime => s.devtime
  | .tickcnt => s.tickcnt
  | .tileinfo => Config.tileRev g ++ (0 : BitVec 2) ++ t.holder.getD 0 ++ t.ctx.getD 0 ++ g
  | .pmc j => vget t.pmc 0 j
  | .pmsel j => (vget t.pmsel 0 j).setWidth 64
  | .pmovf => t.pmovf.setWidth 64

/-- Store a value whose RW bits are final, or clear the W1C bits that are 1 in it. A fall of TSTAT.IN resumes the
stream's halted engine queues (R431, R460). -/
def Tile.csrPut (t : Tile) (st : Stream) (c : Csr) (v : W64) : Tile :=
  let k := t.csr st
  match c with
  | .fctl => { t with fctl := v.setWidth 3 }
  | .fstat => { t with fstat := t.fstat &&& ~~~ v.setWidth 6 }
  | .tvec => t.setCsr st { k with tvec := v.setWidth 14 }
  | .tepc => t.setCsr st { k with tepc := v.setWidth 14 }
  | .tstat =>
    let t := if k.tin && !v.getLsbD 0 then t.resumeEngines st else t
    t.setCsr st { k with tin := v.getLsbD 0 }
  | .pmc j => { t with pmc := vset t.pmc j v }
  | .pmsel j => { t with pmsel := vset t.pmsel j (v.setWidth 10) }
  | .pmovf => { t with pmovf := t.pmovf &&& ~~~ v.setWidth 8 }
  | _ => t

/-- CSRRD (R457, R458). -/
def execCsrrd (d : R5) (c : BitVec 10) (s : State) : Host.Outcome State Fault Refusal :=
  issue .both 1 (fun g st s =>
    match csrOf st c with
    | none => trapIn s { code := 0x0A }
    | some r => do
      let s ← s.freeS g st d
      .ok (s.wrS g st d (s.csrGet g st r) false 3)) s

/-- A write form of R457; `f old s` is the new value of the RW bits, `none` where a register without RW bits receives cause 0x0A. -/
def csrWrite (w1c : Bool) (f : W64 → W64 → W64) (a : R5) (c : BitVec 10) (s : State) : Host.Outcome State Fault Refusal :=
  issue .both 1 (fun g st s =>
    match csrOf st c with
    | none => trapIn s { code := 0x0A }
    | some r =>
      let x := s.rdS g st a
      match r.acc with
      | .ro => trapIn s { code := 0x0A }
      | .w1c =>
        if !w1c then trapIn s { code := 0x0A }
        else if x.1.2 then trapIn s { code := 0x2B }
        else .ok (x.2.modTile g fun t => t.csrPut st r x.1.1)
      | .rw m =>
        if x.1.2 then trapIn s { code := 0x2B }
        else .ok (x.2.modTile g fun t => t.csrPut st r (f (s.csrGet g st r) x.1.1 &&& m))) s

/-- CSRWR (R457, R458). -/
def execCsrwr (a : R5) (c : BitVec 10) (s : State) : Host.Outcome State Fault Refusal := csrWrite true (fun _ v => v) a c s
/-- CSRSET (R457, R458). -/
def execCsrset (a : R5) (c : BitVec 10) (s : State) : Host.Outcome State Fault Refusal := csrWrite false (fun o v => o ||| v) a c s
/-- CSRCLR (R457, R458). -/
def execCsrclr (a : R5) (c : BitVec 10) (s : State) : Host.Outcome State Fault Refusal := csrWrite false (fun o v => o &&& ~~~ v) a c s

/-! ## Traps, item end, poison checks (R459 to R462) -/

/-- TRAP (R459): cause 0x09 with CODE. -/
def execTrap (c : BitVec 10) (s : State) : Host.Outcome State Fault Refusal :=
  issue .both 1 (fun _ _ s => trapIn s { code := 0x09, imm := c }) s

/-- BRK (R459, R477 order 3): cause 0x08 with CODE. -/
def execBrk (c : BitVec 10) (s : State) : Host.Outcome State Fault Refusal :=
  issue .both 1 (fun _ _ s => trapIn s { code := 0x08, imm := c }) s

/-- TRET (R293, R460). -/
def execTret (s : State) : Host.Outcome State Fault Refusal :=
  issueJ .both 1 (fun g st s =>
    .ok (s.modTile g (fun t => t.trapReturn st), some ((s.tile g).csr st).tepc)) s

/-- STEP (R126, R461): the stream stops fetching; its PC stays at the STEP word (R481). -/
def execStep (s : State) : Host.Outcome State Fault Refusal :=
  issue .both 0 (fun g st s => .ok (s.modTile g fun t => t.setStepped st)) s

/-- PCHKS (R462). -/
def execPchks (a : R5) (s : State) : Host.Outcome State Fault Refusal :=
  issue .both 1 (fun g st s => do
    let x := s.rdS g st a
    raiseIf x.1.2 s 0x2F
    .ok s) s

/-- PCHKV (R462): a DROPPED name is replayed first. -/
def execPchkv (v : V6) (s : State) : Host.Outcome State Fault Refusal :=
  issue .x 1 (fun g _ s => do
    let s ← s.needV g [v]
    let x := s.rdV g v
    raiseIf (x.1.2 != 0) s 0x2F
    .ok x.2) s

/-- PCHKZ (R462): bits inside an open window, and elements of a tile that a command uses, are undefined and carry no poison (R6, R175). -/
def execPchkz (z : BitVec 3) (s : State) : Host.Outcome State Fault Refusal :=
  issue .x 1 (fun g _ s => do
    let t := s.tile g
    raiseIf (!(t.ztile z).valid) s 0x5D
    raiseIf (!t.zBusy z && (t.ztile z).pois &&& ~~~ BitVec.ofNat 1024 (t.openBits (.z z)).2 != 0) s 0x2F
    .ok s) s

/-! ## Recipe instructions (R464 to R467) -/

/-- The body words that stand after an `RCPDEF`. -/
def State.bodyWords (s : State) (g : BitVec 8) (n : Nat) : List W32 :=
  (List.range n).map fun i => s.imemWord g .x ((s.tile g).xpc + BitVec.ofNat 14 (i + 1))

/-- The first cause of a body, whose last word is followed by `after`: what R332 gives a word, or 0x52 for a word that is no micro-op
(R464). -/
def bodyCause (fw : Bool) (after : W32) : List W32 → Option Cause
  | [] => none
  | w :: r =>
    match decodeIssue w (r.headD after) .x fw with
    | .error c => some c
    | .ok i => if (microOf i).isNone then some 0x52 else bodyCause fw after r

/-- The last micro-op of a body writes a mask. -/
def lastIsMask (ws : List W32) : Bool :=
  match (ws.getLast?).bind microInstr with
  | some i => match microOf i with
    | some (.k _, _) => true
    | _ => false
  | none => false

/-- RCPDEF (R464): `n` + 1 body words, which it steps over. -/
def execRcpdef (n : BitVec 2) (r : R5) (s : State) : Host.Outcome State Fault Refusal :=
  issue .x (n.toNat + 2) (fun g _ s =>
    let t := s.tile g
    let k := n.toNat + 1
    if (List.range k).any fun i => t.locked .x (t.xpc + BitVec.ofNat 14 (i + 1)) then waitIn s
    else
      let ws := s.bodyWords g k
      match bodyCause (t.ctx == some 0) ((s.bodyWords g (k + 1)).getD k 0) ws with
      | some c => trapIn s { code := c }
      | none =>
        if lastIsMask ws || (t.slotUser r).isSome then trapIn s { code := 0x52 }
        else .ok (s.setTile g { t with rcp := vset t.rcp r { words := ws, rm := 0, ftz := false } })) s

/-- A source register of a slot is one that R305 allows: an anchor, or a tagged name of depth 1. -/
def Tile.srcLegal (t : Tile) (d : V6) : Src → Bool
  | .x r => t.ax.getLsbD r.toNat
  | .k r => t.ak.getLsbD r.toNat
  | .v r => t.av.getLsbD r.toNat || (r != d && (t.vname r).tag.isSome && (t.taggedSrcs r).isEmpty)

/-- The scratchpad bytes of an `VLD` micro-op lie wholly in sealed granules, with its base as it is (R305, R465). -/
def microSealed (s : State) (g : BitVec 8) (i : Instr) : Bool :=
  match i with
  | .vld _ x _ _ o =>
    let b := (s.rdS g .x x).1
    let ea := vAddr b.1 o
    !b.2 && ea.toNat % 64 == 0 && !levelOut ea 256 (2 ^ 21) && (s.tile g).spadAllSealed ea.toNat 256
  | _ => true

/-- RCPSET (R465). -/
def execRcpset (d : V6) (r : R5) (s : State) : Host.Outcome State Fault Refusal :=
  issue .x 1 (fun g _ s => do
    let t := s.tile g
    let rc := t.slot r
    raiseIf (!(rc.srcs.all (t.srcLegal d) && rc.micros.all fun m => microSealed s g m.1)) s 0x52
    raiseIf (rc.words.isEmpty || (t.slotUser r).isSome || t.av.getLsbD d.toNat) s 0x52
    let s ← s.freeReg g (.v d)
    let f := s.rdFctl g
    .ok (s.modTile g fun t =>
      let t := { t with rcp := vset t.rcp r { rc with rm := f.1, ftz := f.2 } }
      let n := t.vname d
      t.setVname d { n with tag := some r, st := if n.st = .live then .live else .dropped })) s

/-- RCPDROP (R466). -/
def execRcpdrop (d : V6) (s : State) : Host.Outcome State Fault Refusal :=
  issue .x 1 (fun g _ s => do
    let n := (s.tile g).vname d
    raiseIf n.tag.isNone s 0x52
    .ok (if n.st = .live then s.modTile g fun t => t.setVname d { n with st := .dropped } else s)) s

/-- RCPCLR (R466). -/
def execRcpclr (r : R5) (s : State) : Host.Outcome State Fault Refusal :=
  issue .x 1 (fun g _ s => do
    let s ← match (s.tile g).slotUser r with
      | none => .ok s
      | some u => do
        let s ← s.freeReg g (.v u)
        materialise g u s
    .ok (s.modTile g fun t => { t with rcp := vset t.rcp r Recipe.reset })) s

/-- Mark or unmark an anchor of a class: 0 `x`, 1 `v`, 2 `k` (R466). -/
def Tile.anchor (t : Tile) (d : V6) (c : BitVec 2) (b : Bool) : Tile :=
  match c.toNat with
  | 0 => { t with ax := setBit t.ax d.toNat b }
  | 1 => { t with av := setBit t.av d.toNat b }
  | _ => { t with ak := setBit t.ak d.toNat b }

/-- RCPANCH (R466). -/
def execRcpanch (d : V6) (c : BitVec 2) (s : State) : Host.Outcome State Fault Refusal :=
  issue .x 1 (fun g _ s => do
    raiseIf (c == 1 && ((s.tile g).vname d).tag.isSome) s 0x52
    .ok (s.modTile g fun t => t.anchor d c true)) s

/-- The register that an anchor form names. -/
def anchorSrc (d : V6) (c : BitVec 2) : Src :=
  match c.toNat with
  | 0 => .x (d.setWidth 5)
  | 1 => .v d
  | _ => .k (d.setWidth 4)

/-- RCPUNANCH (R466). -/
def execRcpunanch (d : V6) (c : BitVec 2) (s : State) : Host.Outcome State Fault Refusal :=
  issue .x 1 (fun g _ s => do
    let s ← s.freeReg g (anchorSrc d c)
    .ok (s.modTile g fun t => t.anchor d c false)) s

end Sys2Proof.Machine
end

