-- ==== Sys2Proof/Machine/Dispatch.lean ====
section
/-! DEFINITION. The dispatch of every instruction and event to its meaning. -/

namespace Sys2Proof.Machine

def exec (i : Instr) (s : State) : Host.Outcome State Fault Refusal :=
  match i with
  | .add d s1 t => Sys2Proof.Machine.execAdd d s1 t s
  | .sub d s1 t => Sys2Proof.Machine.execSub d s1 t s
  | .and d s1 t => Sys2Proof.Machine.execAnd d s1 t s
  | .or d s1 t => Sys2Proof.Machine.execOr d s1 t s
  | .xor d s1 t => Sys2Proof.Machine.execXor d s1 t s
  | .shl d s1 t => Sys2Proof.Machine.execShl d s1 t s
  | .shr d s1 t => Sys2Proof.Machine.execShr d s1 t s
  | .sra d s1 t => Sys2Proof.Machine.execSra d s1 t s
  | .mul d s1 t => Sys2Proof.Machine.execMul d s1 t s
  | .mulh d s1 t => Sys2Proof.Machine.execMulh d s1 t s
  | .mulhu d s1 t => Sys2Proof.Machine.execMulhu d s1 t s
  | .div d s1 t => Sys2Proof.Machine.execDiv d s1 t s
  | .divu d s1 t => Sys2Proof.Machine.execDivu d s1 t s
  | .rem d s1 t => Sys2Proof.Machine.execRem d s1 t s
  | .remu d s1 t => Sys2Proof.Machine.execRemu d s1 t s
  | .min d s1 t => Sys2Proof.Machine.execMin d s1 t s
  | .max d s1 t => Sys2Proof.Machine.execMax d s1 t s
  | .minu d s1 t => Sys2Proof.Machine.execMinu d s1 t s
  | .maxu d s1 t => Sys2Proof.Machine.execMaxu d s1 t s
  | .seq d s1 t => Sys2Proof.Machine.execSeq d s1 t s
  | .slt d s1 t => Sys2Proof.Machine.execSlt d s1 t s
  | .sltu d s1 t => Sys2Proof.Machine.execSltu d s1 t s
  | .clz d s1 => Sys2Proof.Machine.execClz d s1 s
  | .ctz d s1 => Sys2Proof.Machine.execCtz d s1 s
  | .popc d s1 => Sys2Proof.Machine.execPopc d s1 s
  | .sel d s1 t c => Sys2Proof.Machine.execSel d s1 t c s
  | .addi d s1 i1 => Sys2Proof.Machine.execAddi d s1 i1 s
  | .andi d s1 i1 => Sys2Proof.Machine.execAndi d s1 i1 s
  | .ori d s1 i1 => Sys2Proof.Machine.execOri d s1 i1 s
  | .xori d s1 i1 => Sys2Proof.Machine.execXori d s1 i1 s
  | .shli d s1 n => Sys2Proof.Machine.execShli d s1 n s
  | .shri d s1 n => Sys2Proof.Machine.execShri d s1 n s
  | .srai d s1 n => Sys2Proof.Machine.execSrai d s1 n s
  | .movk d i1 part => Sys2Proof.Machine.execMovk d i1 part s
  | .cmpEq f s1 t => Sys2Proof.Machine.execCmpEq f s1 t s
  | .cmpNe f s1 t => Sys2Proof.Machine.execCmpNe f s1 t s
  | .cmpLt f s1 t => Sys2Proof.Machine.execCmpLt f s1 t s
  | .cmpGe f s1 t => Sys2Proof.Machine.execCmpGe f s1 t s
  | .cmpLtu f s1 t => Sys2Proof.Machine.execCmpLtu f s1 t s
  | .cmpGeu f s1 t => Sys2Proof.Machine.execCmpGeu f s1 t s
  | .fand f a b => Sys2Proof.Machine.execFand f a b s
  | .for_ f a b => Sys2Proof.Machine.execFor f a b s
  | .fxor f a b => Sys2Proof.Machine.execFxor f a b s
  | .fget d a => Sys2Proof.Machine.execFget d a s
  | .fput f s1 => Sys2Proof.Machine.execFput f s1 s
  | .beq s1 t disp => Sys2Proof.Machine.execBeq s1 t disp s
  | .bne s1 t disp => Sys2Proof.Machine.execBne s1 t disp s
  | .blt s1 t disp => Sys2Proof.Machine.execBlt s1 t disp s
  | .bge s1 t disp => Sys2Proof.Machine.execBge s1 t disp s
  | .bltu s1 t disp => Sys2Proof.Machine.execBltu s1 t disp s
  | .bgeu s1 t disp => Sys2Proof.Machine.execBgeu s1 t disp s
  | .bfs f disp => Sys2Proof.Machine.execBfs f disp s
  | .bfc f disp => Sys2Proof.Machine.execBfc f disp s
  | .bqs disp => Sys2Proof.Machine.execBqs disp s
  | .bqc disp => Sys2Proof.Machine.execBqc disp s
  | .jmp disp => Sys2Proof.Machine.execJmp disp s
  | .call l disp => Sys2Proof.Machine.execCall l disp s
  | .jmpr s1 disp => Sys2Proof.Machine.execJmpr s1 disp s
  | .callr l s1 disp => Sys2Proof.Machine.execCallr l s1 disp s
  | .tkwait k => Sys2Proof.Machine.execTkwait k s
  | .tktest d k => Sys2Proof.Machine.execTktest d k s
  | .tkcnt d k => Sys2Proof.Machine.execTkcnt d k s
  | .ldb d b p o => Sys2Proof.Machine.execLdb d b p o s
  | .ldh d b p o => Sys2Proof.Machine.execLdh d b p o s
  | .ldw d b p o => Sys2Proof.Machine.execLdw d b p o s
  | .ldd d b p o => Sys2Proof.Machine.execLdd d b p o s
  | .ldbs d b p o => Sys2Proof.Machine.execLdbs d b p o s
  | .ldhs d b p o => Sys2Proof.Machine.execLdhs d b p o s
  | .ldws d b p o => Sys2Proof.Machine.execLdws d b p o s
  | .stb s1 b p o => Sys2Proof.Machine.execStb s1 b p o s
  | .sth s1 b p o => Sys2Proof.Machine.execSth s1 b p o s
  | .stw s1 b p o => Sys2Proof.Machine.execStw s1 b p o s
  | .std s1 b p o => Sys2Proof.Machine.execStd s1 b p o s
  | .aswap d a t k c z => Sys2Proof.Machine.execAswap d a t k c z s
  | .acas d a t k c z => Sys2Proof.Machine.execAcas d a t k c z s
  | .aadd d a t k c z => Sys2Proof.Machine.execAadd d a t k c z s
  | .aand d a t k c z => Sys2Proof.Machine.execAand d a t k c z s
  | .aor d a t k c z => Sys2Proof.Machine.execAor d a t k c z s
  | .axor d a t k c z => Sys2Proof.Machine.execAxor d a t k c z s
  | .amin d a t k c z => Sys2Proof.Machine.execAmin d a t k c z s
  | .amax d a t k c z => Sys2Proof.Machine.execAmax d a t k c z s
  | .aminu d a t k c z => Sys2Proof.Machine.execAminu d a t k c z s
  | .amaxu d a t k c z => Sys2Proof.Machine.execAmaxu d a t k c z s
  | .qfill b q p o => Sys2Proof.Machine.execQfill b q p o s
  | .qstore b q p o => Sys2Proof.Machine.execQstore b q p o s
  | .qpopa d q => Sys2Proof.Machine.execQpopa d q s
  | .qbpush f => Sys2Proof.Machine.execQbpush f s
  | .fence k c => Sys2Proof.Machine.execFence k c s
  | .sqpush f => Sys2Proof.Machine.execSqpush f s
  | .enq f s1 => Sys2Proof.Machine.execEnq f s1 s
  | .bar => Sys2Proof.Machine.execBar s
  | .vadd y d a b m => Sys2Proof.Machine.execVadd y d a b m s
  | .vsub y d a b m => Sys2Proof.Machine.execVsub y d a b m s
  | .vmul y d a b m => Sys2Proof.Machine.execVmul y d a b m s
  | .vmin y d a b m => Sys2Proof.Machine.execVmin y d a b m s
  | .vmax y d a b m => Sys2Proof.Machine.execVmax y d a b m s
  | .vand y d a b m => Sys2Proof.Machine.execVand y d a b m s
  | .vor y d a b m => Sys2Proof.Machine.execVor y d a b m s
  | .vxor y d a b m => Sys2Proof.Machine.execVxor y d a b m s
  | .vdiv y d a b m => Sys2Proof.Machine.execVdiv y d a b m s
  | .vsqrt y d a m => Sys2Proof.Machine.execVsqrt y d a m s
  | .vmac y d a b m => Sys2Proof.Machine.execVmac y d a b m s
  | .vshl y d a b m => Sys2Proof.Machine.execVshl y d a b m s
  | .vshr y d a b m => Sys2Proof.Machine.execVshr y d a b m s
  | .vadds y d a b m => Sys2Proof.Machine.execVadds y d a b m s
  | .vsubs y d a b m => Sys2Proof.Machine.execVsubs y d a b m s
  | .vcmpeq y k a b m => Sys2Proof.Machine.execVcmpeq y k a b m s
  | .vcmplt y k a b m => Sys2Proof.Machine.execVcmplt y k a b m s
  | .vcmple y k a b m => Sys2Proof.Machine.execVcmple y k a b m s
  | .vrsum y d a m => Sys2Proof.Machine.execVrsum y d a m s
  | .vrmin y d a m => Sys2Proof.Machine.execVrmin y d a m s
  | .vrmax y d a m => Sys2Proof.Machine.execVrmax y d a m s
  | .vrsumc y d a m => Sys2Proof.Machine.execVrsumc y d a m s
  | .vfma d a b c f => Sys2Proof.Machine.execVfma d a b c f s
  | .vcvt t s1 d a b => Sys2Proof.Machine.execVcvt t s1 d a b s
  | .vperm y d a b => Sys2Proof.Machine.execVperm y d a b s
  | .vbcstx y d x => Sys2Proof.Machine.execVbcstx y d x s
  | .vbcste y d a x => Sys2Proof.Machine.execVbcste y d a x s
  | .vcompress y d a k => Sys2Proof.Machine.execVcompress y d a k s
  | .vexpand y d a k => Sys2Proof.Machine.execVexpand y d a k s
  | .kand d a b => Sys2Proof.Machine.execKand d a b s
  | .kor d a b => Sys2Proof.Machine.execKor d a b s
  | .kxor d a b => Sys2Proof.Machine.execKxor d a b s
  | .kandn d a b => Sys2Proof.Machine.execKandn d a b s
  | .knot d a => Sys2Proof.Machine.execKnot d a s
  | .kmovx d x => Sys2Proof.Machine.execKmovx d x s
  | .xmovk d a => Sys2Proof.Machine.execXmovk d a s
  | .vmov d a m => Sys2Proof.Machine.execVmov d a m s
  | .vld d x n m o => Sys2Proof.Machine.execVld d x n m o s
  | .vst d x n m o => Sys2Proof.Machine.execVst d x n m o s
  | .vldc d x n m o => Sys2Proof.Machine.execVldc d x n m o s
  | .vstc d x n m o => Sys2Proof.Machine.execVstc d x n m o s
  | .qpopv v q => Sys2Proof.Machine.execQpopv v q s
  | .qpopx x q => Sys2Proof.Machine.execQpopx x q s
  | .qpushv v q => Sys2Proof.Machine.execQpushv v q s
  | .qpushx x q => Sys2Proof.Machine.execQpushx x q s
  | .zclr z t => Sys2Proof.Machine.execZclr z t s
  | .zrd d z r => Sys2Proof.Machine.execZrd d z r s
  | .zwr d z r t => Sys2Proof.Machine.execZwr d z r t s
  | .zcvt z t => Sys2Proof.Machine.execZcvt z t s
  | .mcfgwr s1 => Sys2Proof.Machine.execMcfgwr s1 s
  | .mcfgrd d => Sys2Proof.Machine.execMcfgrd d s
  | .csrrd d c => Sys2Proof.Machine.execCsrrd d c s
  | .csrwr s1 c => Sys2Proof.Machine.execCsrwr s1 c s
  | .csrset s1 c => Sys2Proof.Machine.execCsrset s1 c s
  | .csrclr s1 c => Sys2Proof.Machine.execCsrclr s1 c s
  | .trap c => Sys2Proof.Machine.execTrap c s
  | .tret => Sys2Proof.Machine.execTret s
  | .step => Sys2Proof.Machine.execStep s
  | .brk c => Sys2Proof.Machine.execBrk c s
  | .pchks s1 => Sys2Proof.Machine.execPchks s1 s
  | .pchkv v => Sys2Proof.Machine.execPchkv v s
  | .pchkz z => Sys2Proof.Machine.execPchkz z s
  | .rcpdef n s1 => Sys2Proof.Machine.execRcpdef n s1 s
  | .rcpset d s1 => Sys2Proof.Machine.execRcpset d s1 s
  | .rcpdrop d => Sys2Proof.Machine.execRcpdrop d s
  | .rcpclr s1 => Sys2Proof.Machine.execRcpclr s1 s
  | .rcpanch d c => Sys2Proof.Machine.execRcpanch d c s
  | .rcpunanch d c => Sys2Proof.Machine.execRcpunanch d c s
  | .capture s1 => Sys2Proof.Machine.execCapture s1 s
  | .restore d s1 => Sys2Proof.Machine.execRestore d s1 s
  | .brkx s1 => Sys2Proof.Machine.execBrkx s1 s
  | .copy e sa sb sc fill ssp dsp => Sys2Proof.Machine.execCopy e sa sb sc fill ssp dsp s
  | .copyl e sa sb tier => Sys2Proof.Machine.execCopyl e sa sb tier s
  | .copyn e sa sb sc nl nt dir sp => Sys2Proof.Machine.execCopyn e sa sb sc nl nt dir sp s
  | .ovla e sa sb sc => Sys2Proof.Machine.execOvla e sa sb sc s
  | .ovlx e sa sb sc => Sys2Proof.Machine.execOvlx e sa sb sc s
  | .tgather e sa sb sc lsp sp => Sys2Proof.Machine.execTgather e sa sb sc lsp sp s
  | .kvgather e sa sb sc lsp sp => Sys2Proof.Machine.execKvgather e sa sb sc lsp sp s
  | .tscatter e sa sb sc lsp sp => Sys2Proof.Machine.execTscatter e sa sb sc lsp sp s
  | .mwld e sa => Sys2Proof.Machine.execMwld e sa s
  | .mswap e => Sys2Proof.Machine.execMswap e s
  | .mma y e sa sb nrb epi zero nz z => Sys2Proof.Machine.execMma y e sa sb nrb epi zero nz z s
  | .mmas y e sa sb sc nrb epi zero nz z => Sys2Proof.Machine.execMmas y e sa sb sc nrb epi zero nz z s
  | .mepi y e sa nz z => Sys2Proof.Machine.execMepi y e sa nz z s
  | .collred e sa sb sc => Sys2Proof.Machine.execCollred e sa sb sc s
  | .collgath e sa sb sc => Sys2Proof.Machine.execCollgath e sa sb sc s
  | .collbcast e sa sb sc => Sys2Proof.Machine.execCollbcast e sa sb sc s
  | .colla2a e sa sb sc => Sys2Proof.Machine.execColla2a e sa sb sc s
  | .collsend e sb sc => Sys2Proof.Machine.execCollsend e sb sc s
  | .collrecv e sa sc => Sys2Proof.Machine.execCollrecv e sa sc s
  | .pxhash e sa sb sc frm => Sys2Proof.Machine.execPxhash e sa sb sc frm s
  | .pxmatch e sa sb sc lim => Sys2Proof.Machine.execPxmatch e sa sb sc lim s
  | .pxpath e sa sb sc => Sys2Proof.Machine.execPxpath e sa sb sc s
  | .kvopen e sa sb sc tier => Sys2Proof.Machine.execKvopen e sa sb sc tier s
  | .kvseal e sa sb sc => Sys2Proof.Machine.execKvseal e sa sb sc s
  | .kvfork e sa sb sc => Sys2Proof.Machine.execKvfork e sa sb sc s
  | .kvlease e sa sb sc prio => Sys2Proof.Machine.execKvlease e sa sb sc prio s
  | .kvrelease e sa sb => Sys2Proof.Machine.execKvrelease e sa sb s
  | .rseal e sa sb sp => Sys2Proof.Machine.execRseal e sa sb sp s
  | .runseal e sa sb sp => Sys2Proof.Machine.execRunseal e sa sb sp s
  | .xfnc e level => Sys2Proof.Machine.execXfnc e level s
  | .drain e mask => Sys2Proof.Machine.execDrain e mask s
  | .qadd d s1 t => Sys2Proof.Machine.execQadd d s1 t s
  | .qsub d s1 t => Sys2Proof.Machine.execQsub d s1 t s
  | .qand d s1 t => Sys2Proof.Machine.execQand d s1 t s
  | .qor d s1 t => Sys2Proof.Machine.execQor d s1 t s
  | .qxor d s1 t => Sys2Proof.Machine.execQxor d s1 t s
  | .qshl d s1 t => Sys2Proof.Machine.execQshl d s1 t s
  | .qshr d s1 t => Sys2Proof.Machine.execQshr d s1 t s
  | .qaddi d s1 i1 => Sys2Proof.Machine.execQaddi d s1 i1 s
  | .qandi d s1 i1 => Sys2Proof.Machine.execQandi d s1 i1 s
  | .qori d s1 i1 => Sys2Proof.Machine.execQori d s1 i1 s
  | .qshli d s1 n => Sys2Proof.Machine.execQshli d s1 n s
  | .qshri d s1 n => Sys2Proof.Machine.execQshri d s1 n s
  | .qmovi d i1 => Sys2Proof.Machine.execQmovi d i1 s
  | .qld d s1 w z o => Sys2Proof.Machine.execQld d s1 w z o s
  | .qst d s1 w z o => Sys2Proof.Machine.execQst d s1 w z o s
  | .qbeq s1 t disp => Sys2Proof.Machine.execQbeq s1 t disp s
  | .qbne s1 t disp => Sys2Proof.Machine.execQbne s1 t disp s
  | .qbltu s1 t disp => Sys2Proof.Machine.execQbltu s1 t disp s
  | .qloop c b => Sys2Proof.Machine.execQloop c b s
  | .qdisp => Sys2Proof.Machine.execQdisp s
  | .qdrop c => Sys2Proof.Machine.execQdrop c s
  | .illegalInstruction w0 w1 => Sys2Proof.Machine.execIllegalInstruction w0 w1 s
  | .debugHaltRequest tile stream => Sys2Proof.Machine.execDebugHaltRequest tile stream s
  | .debugPortEnable => Sys2Proof.Machine.execDebugPortEnable s
  | .contextInstall tile c => Sys2Proof.Machine.execContextInstall tile c s
  | .powerReturn => Sys2Proof.Machine.execPowerReturn s
  | .packageReset => Sys2Proof.Machine.execPackageReset s
  | .dieRomImageCheck die img => Sys2Proof.Machine.execDieRomImageCheck die img s
  | .registerWrite fn off size val => Sys2Proof.Machine.execRegisterWrite fn off size val s
  | .hbmLineRead pa dataErr checkErr => Sys2Proof.Machine.execHbmLineRead pa dataErr checkErr s
  | .partialLineMerge pa mask data pois dataErr checkErr => Sys2Proof.Machine.execPartialLineMerge pa mask data pois dataErr checkErr s
  | .cxlReadComplete pa pois err => Sys2Proof.Machine.execCxlReadComplete pa pois err s
  | .patrolScrub stack dataErr checkErr => Sys2Proof.Machine.execPatrolScrub stack dataErr checkErr s
  | .cxlPortTrain port dev width rate => Sys2Proof.Machine.execCxlPortTrain port dev width rate s
  | .cxlExtentAdded port base size => Sys2Proof.Machine.execCxlExtentAdded port base size s
  | .bar2WindowRead fn off n => Sys2Proof.Machine.execBar2WindowRead fn off n s
  | .bar2WindowWrite fn off data => Sys2Proof.Machine.execBar2WindowWrite fn off data s
  | .msixVectorUnmask fn vec => Sys2Proof.Machine.execMsixVectorUnmask fn vec s
  | .peerPortTrained port => Sys2Proof.Machine.execPeerPortTrained port s
  | .flitReceive port flit => Sys2Proof.Machine.execFlitReceive port flit s
  | .replayTimeout port => Sys2Proof.Machine.execReplayTimeout port s
  | .creditReturnTimeout port => Sys2Proof.Machine.execCreditReturnTimeout port s
  | .lookup src m => Sys2Proof.Machine.execLookup src m s
  | .lookupR m => Sys2Proof.Machine.execLookupR m s
  | .announce src m => Sys2Proof.Machine.execAnnounce src m s
  | .withdraw src m => Sys2Proof.Machine.execWithdraw src m s
  | .fetch src m => Sys2Proof.Machine.execFetch src m s
  | .fetchR m data => Sys2Proof.Machine.execFetchR m data s
  | .replicate src m parent tokens data => Sys2Proof.Machine.execReplicate src m parent tokens data s
  | .replicateR m => Sys2Proof.Machine.execReplicateR m s
  | .directoryRequestTimeout tag => Sys2Proof.Machine.execDirectoryRequestTimeout tag s
  | .replicationRun => Sys2Proof.Machine.execReplicationRun s
  | .ptpMessage time domain => Sys2Proof.Machine.execPtpMessage time domain s
  | .tick => Sys2Proof.Machine.execTick s
  | .holdoverEntry => Sys2Proof.Machine.execHoldoverEntry s
  | .timeRelock time => Sys2Proof.Machine.execTimeRelock time s
  | .timeFirstLock time => Sys2Proof.Machine.execTimeFirstLock time s
  | .gangArm => Sys2Proof.Machine.execGangArm s
  | .gangSwitch => Sys2Proof.Machine.execGangSwitch s
  | .sluiceWindow => Sys2Proof.Machine.execSluiceWindow s
  | .sluiceRequestHeld => Sys2Proof.Machine.execSluiceRequestHeld s
  | .sluiceBudgetWrite val => Sys2Proof.Machine.execSluiceBudgetWrite val s
  | .heldRequestPreempt => Sys2Proof.Machine.execHeldRequestPreempt s
  | .temperatureSample t0 t1 t2 t3 => Sys2Proof.Machine.execTemperatureSample t0 t1 t2 t3 s
  | .managementRequest i3c obj => Sys2Proof.Machine.execManagementRequest i3c obj s
  | .qCtlWrite fn q val => Sys2Proof.Machine.execQCtlWrite fn q val s
  | .doorbellWrite fn q tail => Sys2Proof.Machine.execDoorbellWrite fn q tail s
  | .queueResume fn q => Sys2Proof.Machine.execQueueResume fn q s
  | .qHeadWrite fn q head => Sys2Proof.Machine.execQHeadWrite fn q head s
  | .crCtlWrite fn c val => Sys2Proof.Machine.execCrCtlWrite fn c val s
  | .crHeadWrite fn c head => Sys2Proof.Machine.execCrHeadWrite fn c head s
  | .packetTake unit => Sys2Proof.Machine.execPacketTake unit s
  | .queueProgramRun unit => Sys2Proof.Machine.execQueueProgramRun unit s
  | .padPacket unit => Sys2Proof.Machine.execPadPacket unit s
  | .launchPacket unit => Sys2Proof.Machine.execLaunchPacket unit s
  | .copyPacket unit hostErr => Sys2Proof.Machine.execCopyPacket unit hostErr s
  | .confidentialCopy unit ide hostErr => Sys2Proof.Machine.execConfidentialCopy unit ide hostErr s
  | .signalWrite unit hostErr => Sys2Proof.Machine.execSignalWrite unit hostErr s
  | .signalAdd unit atomicOk hostErr => Sys2Proof.Machine.execSignalAdd unit atomicOk hostErr s
  | .signalWaitge unit hostErr => Sys2Proof.Machine.execSignalWaitge unit hostErr s
  | .signalWaitgeTick q hostErr => Sys2Proof.Machine.execSignalWaitgeTick q hostErr s
  | .fencePacket q => Sys2Proof.Machine.execFencePacket q s
  | .completionRecordWrite c => Sys2Proof.Machine.execCompletionRecordWrite c s
  | .holdTimerExpiry c => Sys2Proof.Machine.execHoldTimerExpiry c s
  | .progLoad => Sys2Proof.Machine.execProgLoad s
  | .enqArrival tile => Sys2Proof.Machine.execEnqArrival tile s
  | .mextGo => Sys2Proof.Machine.execMextGo s
  | .getMeasurements fn nonce sign => Sys2Proof.Machine.execGetMeasurements fn nonce sign s
  | .spdmRequest fn kind => Sys2Proof.Machine.execSpdmRequest fn kind s
  | .chanSet fn secured payload => Sys2Proof.Machine.execChanSet fn secured payload s
  | .chanClear fn secured payload => Sys2Proof.Machine.execChanClear fn secured payload s
  | .lockInterface fn => Sys2Proof.Machine.execLockInterface fn s
  | .startInterface fn => Sys2Proof.Machine.execStartInterface fn s
  | .stopInterface fn => Sys2Proof.Machine.execStopInterface fn s
  | .ideIntegrityFailure fn => Sys2Proof.Machine.execIdeIntegrityFailure fn s
  | .stageChoice tile => Sys2Proof.Machine.execStageChoice tile s
  | .itemStart tile => Sys2Proof.Machine.execItemStart tile s
  | .stageEntryAvailable launch die stage => Sys2Proof.Machine.execStageEntryAvailable launch die stage s
  | .itemRetire tile => Sys2Proof.Machine.execItemRetire tile s
  | .cohortBarrierComplete launch group => Sys2Proof.Machine.execCohortBarrierComplete launch group s
  | .launchRetire launch => Sys2Proof.Machine.execLaunchRetire launch s
  | .starvationCapture launch die => Sys2Proof.Machine.execStarvationCapture launch die s
  | .dieLeave launch die => Sys2Proof.Machine.execDieLeave launch die s
  | .termEnd tile => Sys2Proof.Machine.execTermEnd tile s
  | .waitOffer tile => Sys2Proof.Machine.execWaitOffer tile s
  | .unheldTileOffer tile => Sys2Proof.Machine.execUnheldTileOffer tile s
  | .priorityPreemption die => Sys2Proof.Machine.execPriorityPreemption die s
  | .residencyScan cls => Sys2Proof.Machine.execResidencyScan cls s
  | .residencyMoveComplete h frames => Sys2Proof.Machine.execResidencyMoveComplete h frames s
  | .validate => Sys2Proof.Machine.execValidate s
  | .promote => Sys2Proof.Machine.execPromote s
  | .demote => Sys2Proof.Machine.execDemote s
  | .evict => Sys2Proof.Machine.execEvict s
  | .invalidate => Sys2Proof.Machine.execInvalidate s
  | .shootdownPage => Sys2Proof.Machine.execShootdownPage s
  | .shootdownContext => Sys2Proof.Machine.execShootdownContext s
  | .shootdownAll => Sys2Proof.Machine.execShootdownAll s
  | .shootdownAck party => Sys2Proof.Machine.execShootdownAck party s
  | .translationWalkComplete tile => Sys2Proof.Machine.execTranslationWalkComplete tile s
  | .thaw tile entries ok => Sys2Proof.Machine.execThaw tile entries ok s
  | .caStoreClaimAnswer tile => Sys2Proof.Machine.execCaStoreClaimAnswer tile s
  | .closeApplied die home => Sys2Proof.Machine.execCloseApplied die home s
  | .engineCommandAccept tile eng => Sys2Proof.Machine.execEngineCommandAccept tile eng s
  | .tokenComplete tile eng seq => Sys2Proof.Machine.execTokenComplete tile eng seq s
  | .queueDeadlock tile => Sys2Proof.Machine.execQueueDeadlock tile s
  | .checkerMismatchReplay tile stream again => Sys2Proof.Machine.execCheckerMismatchReplay tile stream again s
  | .registerRegeneration tile reg again => Sys2Proof.Machine.execRegisterRegeneration tile reg again s
  | .captureComplete tile => Sys2Proof.Machine.execCaptureComplete tile s
  | .tileRestore img tile => Sys2Proof.Machine.execTileRestore img tile s
  | .loggedArrivalDelivery tile => Sys2Proof.Machine.execLoggedArrivalDelivery tile s
  | .contextEnd ctx fn => Sys2Proof.Machine.execContextEnd ctx fn s
  | .errorRecordWrite => Sys2Proof.Machine.execErrorRecordWrite s
  | .errLostClear => Sys2Proof.Machine.execErrLostClear s
  | .ckptCfgGo => Sys2Proof.Machine.execCkptCfgGo s
  | .checkpoint ctx => Sys2Proof.Machine.execCheckpoint ctx s
  | .rollback ctx => Sys2Proof.Machine.execRollback ctx s
  | .performanceCounterWrap tile j => Sys2Proof.Machine.execPerformanceCounterWrap tile j s
  | .register => Sys2Proof.Machine.execRegister s
  | .unregister => Sys2Proof.Machine.execUnregister s
  | .namespaceClosed nsid => Sys2Proof.Machine.execNamespaceClosed nsid s
  | .harvestSelect pool => Sys2Proof.Machine.execHarvestSelect pool s
  | .harvestDemotionDone h => Sys2Proof.Machine.execHarvestDemotionDone h s
  | .harvestRemovalDone h => Sys2Proof.Machine.execHarvestRemovalDone h s
  | .rakeSearch die => Sys2Proof.Machine.execRakeSearch die s
  | .collectiveReady src group seq tag => Sys2Proof.Machine.execCollectiveReady src group seq tag s
  | .collectiveData src group seq tag matching data => Sys2Proof.Machine.execCollectiveData src group seq tag matching data s
  | .collectiveTimeout tile seq => Sys2Proof.Machine.execCollectiveTimeout tile seq s
  | .brkxSet tile => Sys2Proof.Machine.execBrkxSet tile s
  | .brkxClear tile => Sys2Proof.Machine.execBrkxClear tile s
  | .brkxResume tile => Sys2Proof.Machine.execBrkxResume tile s
  | .brkxQuery tile => Sys2Proof.Machine.execBrkxQuery tile s

end Sys2Proof.Machine
end

