-- ==== Sys2Proof/Machine/Step.lean ====
section
/-! DEFINITION. One step of the package: the agent whose turn the schedule says it is acts once. -/

namespace Sys2Proof.Machine

/-- Add to an outcome that is a next state. -/
def Outcome.after (o : Host.Outcome State Fault Refusal) (f : State → State) : Host.Outcome State Fault Refusal :=
  match o with
  | .next s => .next (f s)
  | .fault r => .fault r
  | .refused r => .refused r

/-- A cycle of a live tile passes (R453, R455): CYCLE and the counters of tile cycles. -/
def State.tileCycle (s : State) (g : BitVec 8) : State :=
  s.modTile g fun t => { t with cyc := t.cyc + 1 }.count 0x01 none

/-- What a word that has issued leaves beside its own effect (R313, R477): its operands in the log, SKIP. -/
def State.afterWord (s : State) (g : BitVec 8) (st : Stream) (i : Instr) (displaced inHandler : Bool) : State :=
  match s.cur with
  | .none => s.modTile g fun t => (t.noteRegs st (regsOf st i)).clearSkip st displaced inHandler
  | _ => { s with cur := .none }

/-- A stream acts: it issues the word at its PC, or the exception that the word receives, or stops at a breakpoint. -/
def issueWord (s : State) (g : BitVec 8) (st : Stream) : Host.Outcome State Fault Refusal :=
  let t := s.tile g
  if !t.live || t.stepped st || s.railsOff then .next s
  else
    let s := s.tileCycle g
    let on (s : State) : State := { s with cur := .stream g st }
    match s.fetch g st with
    | .locked => .next (s.stalled g st .other)
    | .halt j => .next (s.modTile g fun t => { t with stop := some (.breakpoint (BitVec.ofNat 3 j)), reqCred := 0 })
    | .brk j => .next (s.takeCause g st { code := 0x08, imm := BitVec.ofNat 10 (0x3F8 + j), skip := true })
    | .word w0 w1 displaced =>
      match decodeIssue w0 w1 st (t.ctx == some 0) with
      | .ok i => Outcome.after (exec i (on s)) fun s => s.afterWord g st i displaced (t.csr st).tin
      | .error _ => Outcome.after (exec (.illegalInstruction w0 w1) (on s)) fun s => { s with cur := .none }

/-- A cycle of a stream: the word at its PC, then a counter's wrap (R456). -/
def stepStream (s : State) (g : BitVec 8) (st : Stream) : Host.Outcome State Fault Refusal :=
  Outcome.after (issueWord s g st) fun t => if s.railsOff || (s.tile g).stepped st then t else t.deliverWrap g st

/-- An interpreter unit acts: it executes the word at its program's pc (R81 to R84). -/
def stepInterp (s : State) (u : BitVec 4) : Host.Outcome State Fault Refusal :=
  let x := vget s.interps Interp.reset u
  if !x.running then .next s
  else match x.word with
    | none => .next s
    | some w =>
      match decodeQ w with
      | .ok i => Outcome.after (exec i { s with cur := .interp u }) fun s => { s with cur := .none }
      | .error _ => .next s

/-- An agent acts. -/
def act (s : State) (a : Agent) : Host.Outcome State Fault Refusal :=
  match a with
  | .stream g st => stepStream s g st
  | .interp u => stepInterp s u
  | .event i => exec i s
  | .deliver d h =>
    match s.chan d h with
    | .write w :: r => .next ((s.setChan d h r).applyWrite w)
    | _ => .next s
  | .leave g => .next (State.leaveN (dieOf g) (fun w => w.tile == g) 1 s)
  | .imageOut h pa => .next (s.imageOut h pa)
  | .imageIn h => .next (s.imageIn h)
  | .nanoseconds n => .next (s.nanoseconds n)
  | .releaseExtent p base size => .next (s.releaseExtent p base size)
  | .confBegin u ide err => .next (s.confBegin u ide err)
  | .fwExtend j d => .next (if s.recovery || j.toNat < 3 || 7 < j.toNat then s else s.extendMreg j (leBytes 32 d.toNat))
  | .giveSlot k => .next (if k = 0 then s else s.drawKey k)
  | .barWrite fn two a => .next (s.frozenWrite 0 fn true fun s =>
      s.setFn fn (if two then { s.fn fn with bar2 := a } else { s.fn fn with bar0 := a }))
  | .hostError => .next { s with hostFails := true }
  | .hostStore fn a bs => .next (s.hostWrite fn a bs)
  | .arrayError e => .next (if s.railsOff then s else s.arrayError e)
  | .beats g e seq n ahead => .next (if s.railsOff then s else s.runBeats g e seq n ahead)

/-- One step (log entries 1 and 9): the head of the schedule acts, or `focus` when the schedule is empty. -/
def step (s : State) : Host.Outcome State Fault Refusal :=
  let s := s.elapse
  match s.agenda with
  | [] => act s s.focus
  | a :: r => act { s with agenda := r } a

/-- `s` with an instruction stored where its next step fetches it. -/
def State.withFetchWord (s : State) (nbits w : Nat) : State :=
  let w := w % 2 ^ nbits
  s.place (BitVec.ofNat 32 w) (BitVec.ofNat 32 (w / 2 ^ 32))

end Sys2Proof.Machine
end

