-- ==== Sys2Proof/Safety.lean ====
section
/-! DEFINITION. What counts as a safe run: storage in canonical form, and the fields that the manual fixes for good. -/

namespace Sys2Proof.Machine

/-- The storage of the package is in its canonical form. -/
abbrev State.MemWf (s : State) : Prop := Mem.wf s.mem = true

/-- A run of `n` steps never stops: every step has a next state. -/
def SafeRun : Nat → State → Prop
  | 0, _ => True
  | n + 1, s => ∃ t, step s = .next t ∧ SafeRun n t

end Sys2Proof.Machine
end

