-- ==== Sys2Proof/Certificates/Slice0/Obligations.lean ====
section
/-! DEFINITION. The statements for the provers: what each family of instructions and events does, where it traps and where it
completes, and what every step keeps. A statement gives the state after an instruction as the state before it with the named updates, so it states
its frame too. -/

namespace Sys2Proof.Says
open Sys2Proof.Machine

/-! ## Words of the statements -/

/-- What is left when an instruction of `n` words that is no jump has issued from a stream, its own effect having made
`s` (R170, R455): the PC is past the words, an X-cycle has passed in the X-stream, the issue is counted. -/
def finished (s : State) (g : BitVec 8) (st : Stream) (n : Nat) : State :=
  { s.modTile g (fun t => ((t.setPc st (t.pc st + BitVec.ofNat 14 n)).passX st 1).count 0x02 (some st)) with cur := .none }

/-- What is left when a taken branch or a jump to `p` has issued (R359, R362): two cycles to the next issue. -/
def jumped (s : State) (g : BitVec 8) (st : Stream) (p : Pc) : State :=
  { s.modTile g (fun t => ((t.setPc st p).passX st 2).count 0x02 (some st)) with cur := .none }

/-- The state in which a stream of tile `g` issues: X-stream writes whose windows have closed have landed (R171, R172). -/
def opened (s : State) (g : BitVec 8) (st : Stream) : State :=
  match st with
  | .a => s
  | .x => s.modTile g Tile.commit

/-- A stream of tile `g` issues; when it is the X-stream, no open window covers a register of `srcs` (R171), and no
recipe's name depends on the register `dst` that it is to write (R308). -/
def Ready (s : State) (g : BitVec 8) (st : Stream) (srcs : List XDst) (dst : Src) : Prop :=
  s.cur = .stream g st ∧
    (st = .x → (∀ p ∈ ((opened s g .x).tile g).pend, ∀ d ∈ srcs, p.dst ≠ d) ∧ ((opened s g .x).tile g).dependants dst = [])

/-- A scalar register of a stream as an instruction reads it: value and poison (R156, R157). -/
def scalar (t : Tile) (st : Stream) (r : R5) : W64 × Bool :=
  match st with
  | .a => if r = 0 then (0, false) else (vget t.areg 0 r, t.apois.getLsbD r.toNat)
  | .x => if r = 0 then (0, false) else (vget t.xreg 0 r, t.xpois.getLsbD r.toNat)

/-- A tile whose stream `st` has written register `d`: at once in the A-stream; in the X-stream the write is on its way, to be
read after `L` X-cycles; a write of `a0` or `x0` is discarded (R157, R171, R351). -/
def wrote (st : Stream) (L : Nat) (d : R5) (v : W64) (p : Bool) (t : Tile) : Tile :=
  if d = 0 then t
  else match st with
    | .a => { t with areg := vset t.areg d v, apois := setBit t.apois d.toNat p }
    | .x => t.pendAt (.x d) (2 ^ 64 - 1) v.toNat 1 (if p then 1 else 0) L

/-- What is left when an instruction of a stream raises a cause before it has any effect but those of `s` (R8, R170): in the
X-stream two X-cycles pass; the cause is taken. -/
def trapped (s : State) (g : BitVec 8) (st : Stream) (r : Raise) : State := (s.modTile g fun t => t.passX st 2).takeCause g st r

end Sys2Proof.Says

open Sys2Proof Sys2Proof.Machine Sys2Proof.Says

namespace Sys2Proof.Says
open Sys2Proof.Machine

/-- R353, the rows of two sources but for division: mnemonic's constructor, value, latency (R354). -/
def twoSource : List ((R5 → R5 → R5 → Instr) × (W64 → W64 → W64) × Nat) :=
  [(.add, fun x y => x + y, 1), (.sub, fun x y => x - y, 1), (.and, fun x y => x &&& y, 1), (.or, fun x y => x ||| y, 1),
   (.xor, fun x y => x ^^^ y, 1),
   (.shl, fun x y => x <<< (y.toNat % 64), 1), (.shr, fun x y => BitVec.ofNat 64 (x.toNat / 2 ^ (y.toNat % 64)), 1),
   (.sra, fun x y => BitVec.ofInt 64 (x.toInt / 2 ^ (y.toNat % 64)), 1),
   (.mul, fun x y => BitVec.ofNat 64 (x.toNat * y.toNat), 3),
   (.mulh, fun x y => ((x.signExtend 128 * y.signExtend 128) >>> 64).setWidth 64, 3),
   (.mulhu, fun x y => ((x.setWidth 128 * y.setWidth 128) >>> 64).setWidth 64, 3),
   (.min, fun x y => if x.slt y then x else y, 1), (.max, fun x y => if x.slt y then y else x, 1),
   (.minu, fun x y => if x < y then x else y, 1), (.maxu, fun x y => if x < y then y else x, 1),
   (.seq, fun x y => if x = y then 1 else 0, 1), (.slt, fun x y => if x.slt y then 1 else 0, 1),
   (.sltu, fun x y => if x < y then 1 else 0, 1)]

/-- R353 and R280, the rows of division: the signed forms round toward zero, a division by zero gives all ones and the
dividend, and the quotient −2^63 / −1 is −2^63 with remainder 0. -/
def divisions : List ((R5 → R5 → R5 → Instr) × (W64 → W64 → W64)) :=
  [(.div, fun x y => if y = 0 then BitVec.allOnes 64 else BitVec.ofInt 64 (x.toInt.tdiv y.toInt)),
   (.divu, fun x y => if y = 0 then BitVec.allOnes 64 else x / y),
   (.rem, fun x y => if y = 0 then x else BitVec.ofInt 64 (x.toInt - y.toInt * x.toInt.tdiv y.toInt)),
   (.remu, fun x y => if y = 0 then x else x - y * (x / y))]

/-- R353, the rows of one source: what its result is of `x`. -/
def oneSource : List ((R5 → R5 → Instr) × (W64 → Nat → Prop)) :=
  [(.clz, fun x n => n ≤ 64 ∧ (∀ i < n, x.getLsbD (63 - i) = false) ∧ (n < 64 → x.getLsbD (63 - n) = true)),
   (.ctz, fun x n => n ≤ 64 ∧ (∀ i < n, x.getLsbD i = false) ∧ (n < 64 → x.getLsbD n = true)),
   (.popc, fun x n => n = ((List.range 64).filter fun i => x.getLsbD i).length)]

end Sys2Proof.Says

/-- R353, with R351 (poison, discarded writes), R354 (latencies, the DIV unit) and R280 (division): the three-register operations
in both streams. -/
def Obligations.ThreeRegisterOperationsWriteD : Prop :=
  ∀ (s : State) (g : BitVec 8) (st : Stream) (d a b c : R5), Ready s g st [.x a, .x b, .x c] (.x d) →
    let u := opened s g st
    let x := scalar (u.tile g) st a
    let y := scalar (u.tile g) st b
    let k := scalar (u.tile g) st c
    (∀ e ∈ twoSource,
      exec (e.1 d a b) s = .next (finished (u.modTile g (wrote st e.2.2 d (e.2.1 x.1 y.1) (x.2 || y.2))) g st 1)) ∧
    (∀ e ∈ divisions, st = .a →
      exec (e.1 d a b) s = .next (finished (u.modTile g (wrote .a 36 d (e.2 x.1 y.1) (x.2 || y.2))) g .a 1)) ∧
    (∀ e ∈ divisions, st = .x → (u.tile g).units.div ≤ (u.tile g).xcyc →
      exec (e.1 d a b) s = .next (finished (u.modTile g (fun t =>
        let t := { t with units := { t.units with div := t.xcyc + 36 } }
        let t := wrote .x 36 d (e.2 x.1 y.1) (x.2 || y.2) t
        if y.1 = 0 ∧ x.2 = false ∧ y.2 = false then t.pendAt .fstat 0 8 0 0 37 else t)) g .x 1)) ∧
    (∀ e ∈ oneSource, ∃ n, e.2 x.1 n ∧
      exec (e.1 d a) s = .next (finished (u.modTile g (wrote st 1 d (BitVec.ofNat 64 n) x.2)) g st 1)) ∧
    exec (.sel d a b c) s = .next (finished
      (u.modTile g (wrote st 1 d (if k.1 ≠ 0 then x.1 else y.1) (k.2 || (if k.1 ≠ 0 then x.2 else y.2)))) g st 1)

namespace Sys2Proof.Says
open Sys2Proof.Machine

/-- R355: the forms with a 16-bit immediate. -/
def immediates : List ((R5 → R5 → BitVec 16 → Instr) × (W64 → BitVec 16 → W64)) :=
  [(.addi, fun x i => BitVec.ofInt 64 (x.toInt + i.toInt)), (.andi, fun x i => x &&& BitVec.ofInt 64 i.toInt),
   (.ori, fun x i => x ||| BitVec.ofNat 64 i.toNat), (.xori, fun x i => x ^^^ BitVec.ofNat 64 i.toNat)]

/-- R355: the forms with a shift count. -/
def shifts : List ((R5 → R5 → BitVec 6 → Instr) × (W64 → Nat → W64)) :=
  [(.shli, fun x n => x <<< n), (.shri, fun x n => BitVec.ofNat 64 (x.toNat / 2 ^ n)),
   (.srai, fun x n => BitVec.ofInt 64 (x.toInt / 2 ^ n))]

/-- R357: the compares, by the relation that they test. -/
def compares : List ((F3 → R5 → R5 → Instr) × (W64 → W64 → Bool)) :=
  [(.cmpEq, fun x y => x == y), (.cmpNe, fun x y => x != y), (.cmpLt, fun x y => x.slt y), (.cmpGe, fun x y => y.sle x),
   (.cmpLtu, fun x y => x.ult y), (.cmpGeu, fun x y => y.ule x)]

/-- R357: the operations on two flags. -/
def flagLogic : List ((F3 → F3 → F3 → Instr) × (Bool → Bool → Bool)) := [(.fand, (· && ·)), (.for_, (· || ·)), (.fxor, Bool.xor)]

/-- A flag of a tile, and whether its last writer has produced its result (R358). -/
def flag (t : Tile) (f : F3) : Bool := t.flags.getLsbD f.toNat
def known (t : Tile) (f : F3) : Prop := t.fpend.getLsbD f.toNat = false

/-- A tile whose flag `f` has been written: its last writer has produced its result (R357, R358). -/
def wroteFlag (f : F3) (v : Bool) (t : Tile) : Tile := { t with flags := setBit t.flags f.toNat v, fpend := setBit t.fpend f.toNat false }

end Sys2Proof.Says

/-- R355, R356, with R351: the immediate operations and `MOVK` in both streams, and the words of their majors that are refused. -/
def Obligations.ImmediateOperationsWriteD : Prop :=
  ∀ (s : State) (g : BitVec 8) (st : Stream) (d a : R5) (i : BitVec 16) (n : BitVec 6) (hw : BitVec 2),
    Ready s g st [.x a, .x d] (.x d) →
    let u := opened s g st
    let x := scalar (u.tile g) st a
    let old := scalar (u.tile g) st d
    (∀ e ∈ immediates, exec (e.1 d a i) s = .next (finished (u.modTile g (wrote st 1 d (e.2 x.1 i) x.2)) g st 1)) ∧
    (∀ e ∈ shifts, exec (e.1 d a n) s = .next (finished (u.modTile g (wrote st 1 d (e.2 x.1 n.toNat) x.2)) g st 1)) ∧
    (∃ v : W64, (∀ k < 64, v.getLsbD k =
        if k / 16 = hw.toNat then i.getLsbD (k % 16) else old.1.getLsbD k) ∧
      exec (.movk d i hw) s = .next (finished (u.modTile g (wrote st 1 d v old.2)) g st 1)) ∧
    (∀ w next : W32, fld w 26 6 = 0x07 → fld w 18 3 ≠ 0 → decodeStream w next = .error 0x01) ∧
    (∀ w next : W32, fld w 26 6 = 0x06 → 3 ≤ (fld w 12 4).toNat → decodeStream w next = .error 0x00) ∧
    (∀ w next : W32, fld w 26 6 = 0x06 → (fld w 12 4).toNat < 3 → fld w 6 6 ≠ 0 → decodeStream w next = .error 0x01)

/-- R357, R358: the flag operations. A poisoned source of a compare or of `FPUT` is cause 0x2D, and the flag is unchanged; a flag without a result yet
stalls its readers; the bits above a flag field are fixed at zero. -/
def Obligations.FlagOperations : Prop :=
  ∀ (s : State) (g : BitVec 8) (d a b : R5) (f p q : F3), s.cur = .stream g .a →
    let t := s.tile g
    let x := scalar t .a a
    let y := scalar t .a b
    (∀ e ∈ compares, x.2 = false → y.2 = false →
      exec (e.1 f a b) s = .next (finished (s.modTile g (wroteFlag f (e.2 x.1 y.1))) g .a 1)) ∧
    (∀ e ∈ compares, x.2 = true ∨ y.2 = true → exec (e.1 f a b) s = .next (trapped s g .a { code := 0x2D })) ∧
    (∀ e ∈ flagLogic, known t p → known t q →
      exec (e.1 f p q) s = .next (finished (s.modTile g (wroteFlag f (e.2 (flag t p) (flag t q)))) g .a 1)) ∧
    (known t p → exec (.fget d p) s =
      .next (finished (s.modTile g (wrote .a 1 d (if flag t p then 1 else 0) false)) g .a 1)) ∧
    (x.2 = false → exec (.fput f a) s = .next (finished (s.modTile g (wroteFlag f (x.1 != 0))) g .a 1)) ∧
    (x.2 = true → exec (.fput f a) s = .next (trapped s g .a { code := 0x2D })) ∧
    (∀ i ∈ [Instr.fget d p, .fand f p q, .for_ f p q, .fxor f p q], ¬ known t p →
      ∃ v, exec i s = .next v ∧ v.cur = .stream g .a ∧ (v.tile g).apc = t.apc ∧ (v.tile g).flags = t.flags ∧ (v.tile g).areg = t.areg) ∧
    (∀ i ∈ [Instr.fand f p q, .for_ f p q, .fxor f p q], ¬ known t q →
      ∃ v, exec i s = .next v ∧ v.cur = .stream g .a ∧ (v.tile g).apc = t.apc ∧ (v.tile g).flags = t.flags) ∧
    (∀ w next : W32, fld w 26 6 = 0x08 → (fld w 0 6).toNat ≤ 8 ∨ fld w 0 6 = 10 → fld w 24 2 ≠ 0 → decodeStream w next = .error 0x01) ∧
    (∀ w next : W32, fld w 26 6 = 0x08 → 6 ≤ (fld w 0 6).toNat → (fld w 0 6).toNat ≤ 9 → fld w 19 2 ≠ 0 → decodeStream w next = .error 0x01) ∧
    (∀ w next : W32, fld w 26 6 = 0x08 → 6 ≤ (fld w 0 6).toNat → (fld w 0 6).toNat ≤ 8 → fld w 14 2 ≠ 0 → decodeStream w next = .error 0x01) ∧
    (∀ w next : W32, fld w 26 6 = 0x08 → 11 ≤ (fld w 0 6).toNat → decodeStream w next = .error 0x00)

namespace Sys2Proof.Says
open Sys2Proof.Machine

/-- R359: the compare-and-branch forms, by the relation that they test (R357). -/
def branches : List ((R5 → R5 → BitVec 13 → Instr) × (W64 → W64 → Bool)) :=
  [(.beq, fun x y => x == y), (.bne, fun x y => x != y), (.blt, fun x y => x.slt y), (.bge, fun x y => y.sle x),
   (.bltu, fun x y => x.ult y), (.bgeu, fun x y => y.ule x)]

/-- PC + sext(DISP), modulo 16,384 (R325). -/
def target {w : Nat} (pc : Pc) (disp : BitVec w) : Pc := BitVec.ofInt 14 (pc.toNat + disp.toInt)

/-- A branch that is taken or not (R359). -/
def branched (s : State) (g : BitVec 8) (st : Stream) (taken : Bool) (disp : BitVec 13) : State :=
  if taken then jumped s g st (target ((s.tile g).pc st) disp) else finished s g st 1

end Sys2Proof.Says

/-- R359, R360, R361: the branches of both streams, on a relation, on a flag of the A-stream and on an entry popped from `qb`
of the X-stream; a poisoned source of a compare and branch is cause 0x2D. -/
def Obligations.BranchesGoWhereTheirConditionSays : Prop :=
  ∀ (s : State) (g : BitVec 8) (st : Stream) (a b : R5) (f : F3) (disp : BitVec 13),
    let u := opened s g st
    let x := scalar (u.tile g) st a
    let y := scalar (u.tile g) st b
    (∀ e ∈ branches, Ready s g st [.x a, .x b] (.x 0) → x.2 = false → y.2 = false →
      exec (e.1 a b disp) s = .next (branched u g st (e.2 x.1 y.1) disp)) ∧
    (∀ e ∈ branches, Ready s g st [.x a, .x b] (.x 0) → x.2 = true ∨ y.2 = true →
      exec (e.1 a b disp) s = .next (trapped u g st { code := 0x2D })) ∧
    (s.cur = .stream g .a → known (s.tile g) f →
      exec (.bfs f disp) s = .next (branched s g .a (flag (s.tile g) f) disp) ∧
      exec (.bfc f disp) s = .next (branched s g .a (!flag (s.tile g) f) disp)) ∧
    (∀ v r, s.cur = .stream g .x → (s.tile g).qb = v :: r →
      let w := (opened s g .x).modTile g fun t => { t with qb := r }
      exec (.bqs disp) s = .next (branched w g .x v disp) ∧ exec (.bqc disp) s = .next (branched w g .x (!v) disp))

/-- R362: the jumps of both streams, and the link, PC + 1 zero-extended and not poisoned; a poisoned source is cause 0x2D with
neither the link nor the PC changed. -/
def Obligations.JumpsAndLinks : Prop :=
  ∀ (s : State) (g : BitVec 8) (st : Stream) (d b : R5) (disp : BitVec 16), Ready s g st [.x b] (.x d) →
    let u := opened s g st
    let pc := (u.tile g).pc st
    let x := scalar (u.tile g) st b
    let link (u : State) := u.modTile g (wrote st 1 d (BitVec.ofNat 64 ((pc.toNat + 1) % 16384)) false)
    exec (.jmp disp) s = .next (jumped u g st (target pc disp)) ∧
    exec (.call d disp) s = .next (jumped (link u) g st (target pc disp)) ∧
    (b ≠ 0 → x.2 = false →
      exec (.jmpr b disp) s = .next (jumped u g st (BitVec.ofInt 14 (x.1.toNat + disp.toInt))) ∧
      exec (.callr d b disp) s = .next (jumped (link u) g st (BitVec.ofInt 14 (x.1.toNat + disp.toInt)))) ∧
    (b ≠ 0 → x.2 = true →
      exec (.jmpr b disp) s = .next (trapped u g st { code := 0x2D }) ∧
      exec (.callr d b disp) s = .next (trapped u g st { code := 0x2D }))

namespace Sys2Proof.Says
open Sys2Proof.Machine

/-- A vector name as an instruction of the X-stream reads it: a LIVE name that no open window covers gives its value and lane
poison; any other value is not defined (R161, R171). -/
def ReadsV (t : Tile) (r : V6) (x : VVal) : Prop :=
  (t.vname r).st = .live → (∀ p ∈ t.pend, p.dst ≠ .v r) → x = ((t.vname r).val, (t.vname r).pois)

/-- A mask as an instruction of the X-stream reads it: `k0` is all ones (R157, R171). -/
def ReadsK (t : Tile) (r : K4) (x : KMask) : Prop :=
  (r = 0 → x = BitVec.allOnes 512) ∧ (r ≠ 0 → (∀ p ∈ t.pend, p.dst ≠ .k r) → x = vget t.k 0 r)

/-- An `x` register as an instruction reads it (R157, R171). -/
def ReadsX (t : Tile) (r : R5) (x : W64 × Bool) : Prop :=
  (r = 0 → x = (0, false)) ∧ ((∀ p ∈ t.pend, p.dst ≠ .x r) → x = scalar t .x r)

/-- In the state `u` tile `g` has what an instruction needs that reads the vector names `srcs` and writes the names `dsts`: no read or
written name is DROPPED, every written name has a slot or there are slots for all, no unit of `units` is too early
(R173), and no recipe's name depends on a name that is written (R308). -/
def NamesReady (u : State) (g : BitVec 8) (srcs dsts : List V6) (units : List XUnit) : Prop :=
  let t := u.tile g
  (∀ r ∈ srcs ++ dsts, (t.vname r).st ≠ .dropped) ∧
    ((∀ r ∈ dsts, (t.vname r).st = .live) ∨ t.liveCount + dsts.length ≤ 48) ∧
    (∀ r ∈ dsts, t.dependants (.v r) = []) ∧ ∀ k ∈ units, t.units.at k ≤ t.xcyc

/-- The X-stream of tile `g` issues such an instruction. -/
def VReady (s : State) (g : BitVec 8) (srcs dsts : List V6) (units : List XUnit) : Prop :=
  s.cur = .stream g .x ∧ NamesReady (opened s g .x) g srcs dsts units

/-- The X-stream of tile `g` issues such an instruction of the vector unit, which the tile's class permits (R37, R38; that majors 0x18 to
0x26 are the vector unit's is log entry 49). -/
def UReady (s : State) (g : BitVec 8) (srcs dsts : List V6) (units : List XUnit) : Prop :=
  VReady s g srcs dsts units ∧ 2 ≤ ((opened s g .x).tile g).sclass

/-- What an instruction of the X-stream that writes vector names leaves, from the state `u` in which it issued to `t`: the writes
`w`, each of one name with its bits, poison bits and latency, and the flags `fl` after `L` X-cycles, are on their way,
the written names are LIVE and untagged, and all else is as it was but for the last reads of names, the units' next
X-cycles, the PC, the X-cycle, the counters and the model's counter of free values. -/
def VEffect (u t : State) (g : BitVec 8) (w : List (V6 × VW × Nat)) (fl : BitVec 6) (L : Nat) : Prop :=
  let a := u.tile g
  let b := t.tile g
  t = { u with tiles := t.tiles, fresh := t.fresh, cur := .none } ∧ (∀ h, h ≠ g → t.tile h = u.tile h) ∧
  b = { a with v := b.v, units := b.units, pend := b.pend, xpc := a.xpc + 1, xcyc := a.xcyc + 1
               pmc := b.pmc, pmovf := b.pmovf, pmwrap := b.pmwrap } ∧
  b.pend = ((w.foldl (fun (x : Tile) e => x.pendAt (.v e.1) e.2.1.mask e.2.1.val e.2.1.pmask e.2.1.pval e.2.2) a).pendFlags fl L).pend ∧
  (∀ r, r ∈ w.map (·.1) → (b.vname r).st = .live ∧ (b.vname r).tag = none ∧
    ((a.vname r).st = .live → (b.vname r).val = (a.vname r).val ∧ (b.vname r).pois = (a.vname r).pois)) ∧
  ∀ r, r ∉ w.map (·.1) → b.vname r = { a.vname r with lastRead := (b.vname r).lastRead }

end Sys2Proof.Says

/-- R433: the token instructions in both streams. A pending token stalls `TKWAIT`; `tk0` is always complete with count 0. -/
def Obligations.TokenInstructions : Prop :=
  ∀ (s : State) (g : BitVec 8) (st : Stream) (d k : R5), Ready s g st [] (.x d) →
    let u := opened s g st
    let t := u.tile g
    let pending := k ≠ 0 ∧ (vget t.tk { pending := false, count := 0 } k).pending = true
    let count : BitVec 16 := if k = 0 then 0 else (vget t.tk { pending := false, count := 0 } k).count
    (¬ pending → exec (.tkwait k) s = .next (finished u g st 1)) ∧
    (¬ pending → exec (.tktest d k) s = .next (finished (u.modTile g (wrote st 1 d 1 false)) g st 1)) ∧
    (pending → exec (.tktest d k) s = .next (finished (u.modTile g (wrote st 1 d 0 false)) g st 1)) ∧
    exec (.tkcnt d k) s = .next (finished (u.modTile g (wrote st 1 d (BitVec.ofNat 64 count.toNat) false)) g st 1) ∧
    (pending → ∃ t, exec (.tkwait k) s = .next t ∧ t.cur = .stream g st ∧ (t.tile g).pc st = (u.tile g).pc st)

/-- R371, R401: the transfers between the streams' queues and registers. A pop takes the head of the queue; a push appends at
the tail of a queue of fewer than 16 entries (64 for `qb`). -/
def Obligations.QueueTransfersBetweenTheStreams : Prop :=
  ∀ (s : State) (g : BitVec 8) (q : BitVec 4) (d x : R5) (v : V6) (f : F3) (e : QEntry) (r : List QEntry), q < 8 →
    let lanes01 (p : LaneBits) : Bool := p.getLsbD 0 || p.getLsbD 1
    let u := opened s g .x
    let take (t : Tile) : Tile := { t with q := vset t.q q r }
    (s.cur = .stream g .a → vget (s.tile g).q [] q = e :: r →
      exec (.qpopa d q) s = .next (finished (s.modTile g fun t => wrote .a 1 d (e.data.setWidth 64) (lanes01 e.pois) (take t)) g .a 1)) ∧
    (s.cur = .stream g .a → known (s.tile g) f → (s.tile g).qb.length < 64 →
      exec (.qbpush f) s = .next (finished (s.modTile g fun t => { t with qb := t.qb ++ [flag t f] }) g .a 1)) ∧
    (Ready s g .x [] (.x d) → vget (s.tile g).q [] q = e :: r →
      exec (.qpopx d q) s = .next (finished (u.modTile g fun t => wrote .x 2 d (e.data.setWidth 64) (lanes01 e.pois) (take t)) g .x 1)) ∧
    (Ready s g .x [.x x] (.x 0) → (vget (s.tile g).q [] q).length < 16 →
      let y := scalar (u.tile g) .x x
      exec (.qpushx x q) s = .next (finished (u.modTile g fun t => { t with q := vset t.q q (vget t.q [] q ++
        [{ data := y.1.setWidth 2048, pois := if y.2 then 3 else 0 }]) }) g .x 1)) ∧
    (VReady s g [] [v] [] → vget (s.tile g).q [] q = e :: r →
      ∃ t, exec (.qpopv v q) s = .next t ∧
        VEffect (u.modTile g take) t g [(v, { mask := 2 ^ 2048 - 1, val := e.data.toNat, pmask := 2 ^ 64 - 1, pval := e.pois.toNat }, 2)] 0 0) ∧
    (VReady s g [v] [] [] → (vget (s.tile g).q [] q).length < 16 →
      ∃ t y, exec (.qpushv v q) s = .next t ∧ ReadsV (u.tile g) v y ∧
        VEffect (u.modTile g fun t => { t with q := vset t.q q (vget t.q [] q ++ [{ data := y.1, pois := y.2 }]) }) t g [] 0 0)

namespace Sys2Proof.Says
open Sys2Proof.Machine

/-- R385: the forms of two sources and a mask, with the operation that the model's `evArith` computes. -/
def arithForms : List ((Ty → V6 → V6 → V6 → K4 → Instr) × VOp) :=
  [(.vadd, .add), (.vsub, .sub), (.vmul, .mul), (.vmin, .min), (.vmax, .max), (.vand, .and), (.vor, .or), (.vxor, .xor),
   (.vdiv, .div), (.vmac, .mac), (.vshl, .shl), (.vshr, .shr), (.vadds, .adds), (.vsubs, .subs)]

/-- R386: the compares. -/
def compareForms : List ((Ty → K4 → V6 → V6 → K4 → Instr) × VCmp) := [(.vcmpeq, .eq), (.vcmplt, .lt), (.vcmple, .le)]

/-- R387: the reductions, and whether the form reads an initial operand from its destination. -/
def reduceForms : List ((Ty → V6 → V6 → K4 → Instr) × VRed × Bool) :=
  [(.vrsum, .sum, false), (.vrmin, .min, false), (.vrmax, .max, false), (.vrsumc, .sum, true)]

/-- R385: the unit that an operation keeps to an interval, if one, and the latency. -/
def unitOf (op : VOp) (y : Ty) : List XUnit :=
  if y.isInt then [.valu] else if op = .div ∨ op = .sqrt then [.vdiv] else []
def latOf (op : VOp) (y : Ty) : Nat :=
  if y.isInt then (if op = .mul then 4 else 2)
  else if op = .div ∨ op = .sqrt then (if y = .f64 then 22 else 14) else (if y = .f64 then 6 else 4)

/-- FCTL.RM and FCTL.FTZ (R274). -/
def roundingMode (t : Tile) : BitVec 2 := t.fctl.extractLsb' 0 2
def ftz (t : Tile) : Bool := t.fctl.getLsbD 2

/-- Element j of an integer operation, of elements read as signed or unsigned (R385, R280). -/
def intElem (op : VOp) (y : Ty) (a b : Nat) : Option Nat :=
  let w := y.bits
  let n (c : Nat) : Int := if y.isSigned then (BitVec.ofNat w c).toInt else c
  let clamp (x : Int) : Int := if y.isSigned then max (-(2 ^ (w - 1))) (min (2 ^ (w - 1) - 1) x) else max 0 (min (2 ^ w - 1) x)
  let r : Option Int := match op with
    | .add => some (n a + n b)
    | .sub => some (n a - n b)
    | .mul => some (n a * n b)
    | .min => some (min (n a) (n b))
    | .max => some (max (n a) (n b))
    | .and => some ((BitVec.ofNat w a &&& BitVec.ofNat w b).toNat)
    | .or => some ((BitVec.ofNat w a ||| BitVec.ofNat w b).toNat)
    | .xor => some ((BitVec.ofNat w a ^^^ BitVec.ofNat w b).toNat)
    | .shl => some (n a * 2 ^ (b % w))
    | .shr => some (n a / 2 ^ (b % w))
    | .adds => some (clamp (n a + n b))
    | .subs => some (clamp (n a - n b))
    | _ => none
  r.map fun x => (BitVec.ofInt w x).toNat

end Sys2Proof.Says

/-- R385, R389, with R380 to R383: element arithmetic and `VFMA`. The bits, the poison and the flags written are those of the
model's element functions, of the sources as they are read at issue; they are read after the latency of R385. -/
def Obligations.VectorArithmeticWritesItsDestination : Prop :=
  ∀ (s : State) (g : BitVec 8) (y : Ty) (d a b c : V6) (m : K4) (f : BitVec 2),
    let u := opened s g .x
    let t0 := u.tile g
    (∀ e ∈ arithForms, (e.1 y d a b m).Wf → UReady s g [a, b] [d] (unitOf e.2 y) →
      ∃ t xa xb xd xm, exec (e.1 y d a b m) s = .next t ∧ ReadsV t0 a xa ∧ ReadsV t0 b xb ∧ ReadsV t0 d xd ∧ ReadsK t0 m xm ∧
        let r := evArith e.2 y (roundingMode t0) (ftz t0) xa xb xd xm
        VEffect u t g [(d, r.1, latOf e.2 y)] r.2 (latOf e.2 y)) ∧
    ((Instr.vsqrt y d a m).Wf → UReady s g [a] [d] [.vdiv] →
      ∃ t xa xm, exec (.vsqrt y d a m) s = .next t ∧ ReadsV t0 a xa ∧ ReadsK t0 m xm ∧
        let r := evArith .sqrt y (roundingMode t0) (ftz t0) xa xa xa xm
        VEffect u t g [(d, r.1, latOf .sqrt y)] r.2 (latOf .sqrt y)) ∧
    (UReady s g [a, b, c] [d] [] →
      ∃ t xa xb xc, exec (.vfma d a b c f) s = .next t ∧ ReadsV t0 a xa ∧ ReadsV t0 b xb ∧ ReadsV t0 c xc ∧
        let y : Ty := match f.toNat with | 0 => .f16 | 1 => .bf16 | 2 => .f32 | _ => .f64
        let r := evArith .mac y (roundingMode t0) (ftz t0) xa xb xc (BitVec.allOnes 512)
        VEffect u t g [(d, r.1, latOf .mac y)] r.2 (latOf .mac y))

/-- R385, R280, R379, R380: element by element, what an integer operation writes: an active element is the result of the two source
elements, modulo 2^w or clamped; an inactive element keeps its bits. -/
def Obligations.IntegerElementsAreComputedElementByElement : Prop :=
  ∀ (op : VOp) (y : Ty) (rm : BitVec 2) (z : Bool) (a b d : VVal) (m : KMask) (old : Vec) (j : Nat),
    y.isInt → j < 2048 / y.bits →
    ∀ v, intElem op y (elem y.bits a.1 j) (elem y.bits b.1 j) = some v →
    let w := (evArith op y rm z a b d m).1
    elem y.bits (landBits old w.mask w.val) j = if m.getLsbD j then v else elem y.bits old j

/-- R386, R387: compares write a mask, reductions write their destination, after 2 X-cycles and after 9 or 10. A compare of names that hold no poison
completes; an active poisoned element of a compare is cause 0x2D, and the mask is unchanged. -/
def Obligations.VectorComparesAndReductions : Prop :=
  ∀ (s : State) (g : BitVec 8) (y : Ty) (k m : K4) (d a b : V6),
    let u := opened s g .x
    let t0 := u.tile g
    (∀ e ∈ compareForms, (e.1 y k a b m).Wf → UReady s g [a, b] [] [.valu] → (k ≠ 0 → t0.dependants (.k k) = []) →
      (t0.vname a).pois = 0 → (t0.vname b).pois = 0 →
      ∃ t xa xb xm r, exec (e.1 y k a b m) s = .next t ∧ ReadsV t0 a xa ∧ ReadsV t0 b xb ∧ ReadsK t0 m xm ∧
        evCmp e.2 y (ftz t0) xa xb xm = some r ∧
        VEffect (if k = 0 then u else u.modTile g fun t => t.pendAt (.k k) (2 ^ 512 - 1) r.1.toNat 0 0 2) t g [] r.2 2) ∧
    (∀ e ∈ reduceForms, (e.1 y d a m).Wf → UReady s g [a] [d] [.vred] →
      ∃ t xa xd xm, exec (e.1 y d a m) s = .next t ∧ ReadsV t0 a xa ∧ ReadsV t0 d xd ∧ ReadsK t0 m xm ∧
        let r := evReduce e.2.1 y xa xm (if e.2.2 then some xd else none)
        let L := if y = .f64 then 10 else 9
        VEffect u t g [(d, r.1, L)] r.2 L) ∧
    (∀ e ∈ compareForms, (e.1 y k a b m).Wf → UReady s g [a, b] [] [.valu] →
      ∃ t xa xb xm, exec (e.1 y k a b m) s = .next t ∧ ReadsV t0 a xa ∧ ReadsV t0 b xb ∧ ReadsK t0 m xm ∧
        (evCmp e.2 y (ftz t0) xa xb xm = none →
          ∃ w : State, t = trapped w g .x { code := 0x2D } ∧ w.mem = s.mem ∧ (w.tile g).k = t0.k ∧ (w.tile g).pend = t0.pend))

namespace Sys2Proof.Says
open Sys2Proof.Machine

/-- R395: the operations on two masks. -/
def maskForms : List ((K4 → K4 → K4 → Instr) × (KMask → KMask → KMask)) :=
  [(.kand, fun x y => x &&& y), (.kor, fun x y => x ||| y), (.kxor, fun x y => x ^^^ y), (.kandn, fun x y => x &&& ~~~ y)]

/-- The instructions of majors 0x18 to 0x26: the vector unit's (R37, R334; log entry 49). -/
def vectorUnit : Instr → Bool
  | .vadd .. | .vsub .. | .vmul .. | .vmin .. | .vmax .. | .vand .. | .vor .. | .vxor .. | .vdiv .. | .vsqrt .. | .vmac .. | .vshl ..
  | .vshr .. | .vadds .. | .vsubs .. | .vcmpeq .. | .vcmplt .. | .vcmple .. | .vrsum .. | .vrmin .. | .vrmax .. | .vrsumc .. | .vfma ..
  | .vcvt .. | .vperm .. | .vbcstx .. | .vbcste .. | .vcompress .. | .vexpand .. | .kand .. | .kor .. | .kxor .. | .kandn .. | .knot ..
  | .kmovx .. | .xmovk .. | .vmov .. | .vld .. | .vst .. | .vldc .. | .vstc .. => true
  | _ => false

/-- A tile in which a write of mask `d` is on its way; a write of `k0` is discarded (R157, R395). -/
def wroteK (d : K4) (v : KMask) (t : Tile) : Tile := if d = 0 then t else t.pendAt (.k d) (2 ^ 512 - 1) v.toNat 0 0 1

end Sys2Proof.Says

/-- R394, R396, R381: permutes, broadcasts, compress, expand and the masked move. Below class 2 every instruction of the vector unit
receives cause 0x74 (R37, R38; that these are the instructions of majors 0x18 to 0x26 is the model's reading, log entry 49). -/
def Obligations.VectorMovementsWriteTheirDestination : Prop :=
  ∀ (s : State) (g : BitVec 8) (y : Ty) (d a b : V6) (x : R5) (k : K4),
    let u := opened s g .x
    let t0 := u.tile g
    (UReady s g [a, b] [d] [.vperm] →
      ∃ t xa xb, exec (.vperm y d a b) s = .next t ∧ ReadsV t0 a xa ∧ ReadsV t0 b xb ∧ VEffect u t g [(d, evPerm y xa xb, 3)] 0 0) ∧
    (UReady s g [] [d] [.vperm] →
      ∃ t v, exec (.vbcstx y d x) s = .next t ∧ ReadsX t0 x v ∧ VEffect u t g [(d, evBcst y v.1.toNat v.2, 3)] 0 0) ∧
    (UReady s g [a] [d] [.vperm] →
      ∃ t xa v, exec (.vbcste y d a x) s = .next t ∧ ReadsV t0 a xa ∧ ReadsX t0 x v ∧ VEffect u t g [(d, evBcste y xa v, 3)] 0 0) ∧
    (UReady s g [a] [d] [.vperm] →
      ∃ t xa m, exec (.vcompress y d a k) s = .next t ∧ ReadsV t0 a xa ∧ ReadsK t0 k m ∧ VEffect u t g [(d, evCompress y xa m, 5)] 0 0) ∧
    (UReady s g [a] [d] [.vperm] →
      ∃ t xa m, exec (.vexpand y d a k) s = .next t ∧ ReadsV t0 a xa ∧ ReadsK t0 k m ∧ VEffect u t g [(d, evExpand y xa m, 5)] 0 0) ∧
    (UReady s g [a] [d] [.valu] →
      ∃ t xa m, exec (.vmov d a k) s = .next t ∧ ReadsV t0 a xa ∧ ReadsK t0 k m ∧ VEffect u t g [(d, evMov xa m, 2)] 0 0) ∧
    (s.cur = .stream g .x → t0.sclass < 2 → ∀ i, vectorUnit i = true → exec i s = .next (trapped u g .x { code := 0x74 }))

/-- R395: the mask operations; a poisoned source of `KMOVX` is cause 0x2D; `XMOVK` writes a clean value. -/
def Obligations.MaskOperations : Prop :=
  ∀ (s : State) (g : BitVec 8) (d a b : K4) (x : R5),
    let u := opened s g .x
    let t0 := u.tile g
    UReady s g [] [] [.valu] → (d ≠ 0 → t0.dependants (.k d) = []) →
    (∀ e ∈ maskForms, ∃ t xa xb, exec (e.1 d a b) s = .next t ∧ ReadsK t0 a xa ∧ ReadsK t0 b xb ∧
      VEffect (u.modTile g (wroteK d (e.2 xa xb))) t g [] 0 0) ∧
    (∃ t xa, exec (.knot d a) s = .next t ∧ ReadsK t0 a xa ∧ VEffect (u.modTile g (wroteK d (~~~ xa))) t g [] 0 0) ∧
    ((∀ p ∈ t0.pend, p.dst ≠ .x x) → (scalar t0 .x x).2 = false →
      ∃ t, exec (.kmovx d x) s = .next t ∧ VEffect (u.modTile g (wroteK d ((scalar t0 .x x).1.setWidth 512))) t g [] 0 0) ∧
    ((∀ p ∈ t0.pend, p.dst ≠ .x x) → (scalar t0 .x x).2 = true → exec (.kmovx d x) s = .next (trapped u g .x { code := 0x2D })) ∧
    (t0.dependants (.x x) = [] →
      ∃ t xa, exec (.xmovk x a) s = .next t ∧ ReadsK t0 a xa ∧ VEffect (u.modTile g (wrote .x 1 x (xa.setWidth 64) false)) t g [] 0 0)

/-- R390 to R393: a conversion reads its source name or group and the register of block scales, and writes its destination name or
group: name k of a widening conversion after L + k X-cycles, the one name of another after L + n − 1. -/
def Obligations.ConversionsWriteTheirGroup : Prop :=
  ∀ (s : State) (g : BitVec 8) (dt st : Ty) (d a b : V6),
    let u := opened s g .x
    let t0 := u.tile g
    let n := max st.bits dt.bits / min st.bits dt.bits
    let widen : Bool := st.bits < dt.bits
    let names (r : V6) (n : Nat) : List V6 := (List.range n).map fun k => r + BitVec.ofNat 6 k
    let src := names a (if widen then 1 else n)
    let dst := names d (if widen then n else 1)
    let scaled : Bool := (st.isScaled || dt.isScaled) && b != 0
    let L := if st.isScaled || dt.isScaled then 5 else 3
    (Instr.vcvt dt st d a b).Wf → UReady s g (if scaled then src ++ [b] else src) dst [.valu] →
    ∃ t xs xb, exec (.vcvt dt st d a b) s = .next t ∧ xs.length = src.length ∧ (∀ k < src.length, ReadsV t0 (src.getD k 0) (xs.getD k (0, 0))) ∧
      ReadsV t0 b xb ∧
      let sat : Bool := !(st.isScaled || dt.isScaled) && b.getLsbD 0
      let r := evCvt dt st (roundingMode t0) (ftz t0) sat xs (if scaled then some xb else none)
      VEffect u t g ((dst.zip r.1).mapIdx fun k e => (e.1, e.2, if widen then L + k else L + n - 1)) r.2 (L + n - 1)

namespace Sys2Proof.Says
open Sys2Proof.Machine

/-- A level that the X-stream reaches with loads and stores: level 2 or level 1 (R397, R399). -/
structure Level where
  clu : Bool
  size : Nat
  unit : XUnit
  lat : Nat

def level1 : Level := { clu := false, size := 2097152, unit := .ls1, lat := 6 }
def level2 : Level := { clu := true, size := 8388608, unit := .ls2, lat := 14 }

/-- First byte of the level that the tile sees, in the model's byte table. -/
def Level.base (l : Level) (g : BitVec 8) : Nat := if l.clu then cluBase (g.toNat / 8) else spadBase g.toNat

/-- The state in which an X-stream access issues: what a fence holds back has waited, in X-cycles (R252). -/
def held (s : State) (g : BitVec 8) (store : Bool) : State :=
  (opened s g .x).modTile g fun t =>
    { t with xcyc := Nat.max t.xcyc (Nat.max t.holdLd (if store then t.holdSt else 0)) }.commit

/-- The n names from `d` on. -/
def names (d : V6) (n : Nat) : List V6 := (List.range n).map fun k => d + BitVec.ofNat 6 k

/-- 256 bytes of a level as a tile reads them, with the poison of each lane's line (R112, R398). -/
def entryAt (l : Level) (s : State) (g : BitVec 8) (ea : Nat) : VVal :=
  let a := l.base g + ea
  let own (a : Nat) : Bool := !l.clu || Tab.get? s.gran (a / 4096) == some ((s.tile g).ctx.getD 0)
  (BitVec.ofNat 2048 (leNat ((List.range 256).map fun i => if own (a + i) then s.rdByte (a + i) else 0)),
   BitVec.ofNat 64 ((List.range 64).foldl (fun p i => if own (a + 4 * i) && s.poison.contains ((a + 4 * i) / 64) then p + 2 ^ i else p) 0))

/-- The address of an X-stream access of `n` names: aligned, inside the level, its register clean (R397). -/
def XAddress (l : Level) (v : W64 × Bool) (o : BitVec 6) (n ea : Nat) : Prop :=
  v.2 = false ∧ ea = (v.1 + 256 * o.signExtend 64).toNat ∧ ea % 64 = 0 ∧ ea + 256 * n ≤ l.size

/-- R397, R398, the loads and stores of the two levels. -/
def xLoads : List ((V6 → R5 → BitVec 3 → K4 → BitVec 6 → Instr) × Level) := [(.vld, level1), (.vldc, level2)]
def xStores : List ((V6 → R5 → BitVec 3 → K4 → BitVec 6 → Instr) × Level) := [(.vst, level1), (.vstc, level2)]

end Sys2Proof.Says

/-- R397 to R399, R112: a load of n names at level 1 or 2: each active lane of name VD + k is bytes ea + 256k + 4ℓ to ea + 256k + 4ℓ + 3,
with its line's poison, after the level's latency and k X-cycles more. -/
def Obligations.VectorLoadsReadTheirLevel : Prop :=
  ∀ e ∈ xLoads, ∀ (s : State) (g : BitVec 8) (d : V6) (x : R5) (nm : BitVec 3) (m : K4) (o : BitVec 6) (ea : Nat),
    let u := held s g false
    let t0 := u.tile g
    let n := nm.toNat + 1
    s.cur = .stream g .x → 2 ≤ t0.sclass → NamesReady u g [] (names d n) [e.2.unit] → (∀ p ∈ t0.pend, p.dst ≠ .x x) →
    XAddress e.2 (scalar t0 .x x) o n ea →
    ∃ t xm, exec (e.1 d x nm m o) s = .next t ∧ ReadsK t0 m xm ∧
      VEffect (u.modTile g fun t => { t with ldClose := Nat.max t.ldClose (t.xcyc + e.2.lat + n - 1) }) t g
        ((List.range n).map fun k =>
          (d + BitVec.ofNat 6 k, evMov (entryAt e.2 u g (ea + 256 * k)) ((xm >>> (64 * k)) &&& BitVec.ofNat 512 (2 ^ 64 - 1)), e.2.lat + k)) 0 0

/-- R397 to R399, R112, R111: a store of n names at level 1 or 2, performed at its level: each active lane's four bytes are written,
and every other byte of memory is unchanged, but for a granule of cluster memory that the store claims, which becomes zero
first. All else is unchanged but the poison of lines, the granules' owners, the written-since-install bits, the X-stream's
store window, the last reads of names, the PC, the X-cycle and the counters. -/
def Obligations.VectorStoresWriteTheirLevel : Prop :=
  ∀ e ∈ xStores, ∀ (s : State) (g : BitVec 8) (d : V6) (x : R5) (nm : BitVec 3) (m : K4) (o : BitVec 6) (ea : Nat),
    let u := held s g true
    let t0 := u.tile g
    let n := nm.toNat + 1
    let base := e.2.base g + ea
    let c := t0.ctx.getD 0
    s.cur = .stream g .x → 2 ≤ t0.sclass → NamesReady u g (names d n) [] [e.2.unit] → (∀ p ∈ t0.pend, p.dst ≠ .x x) →
    XAddress e.2 (scalar t0 .x x) o n ea → (e.2.clu = false → ∀ i < 256 * n, t0.sealb.getLsbD ((ea + i) / 4096) = false) →
    ∃ (t : State) (xs : Nat → VVal) (xm : KMask), exec (e.1 d x nm m o) s = .next t ∧ (∀ k < n, ReadsV t0 (d + BitVec.ofNat 6 k) (xs k)) ∧ ReadsK t0 m xm ∧
      (∀ a, t.rdByte a =
        if base ≤ a ∧ a < base + 256 * n ∧ xm.getLsbD ((a - base) / 4) = true then
          ((xs ((a - base) / 256)).1 >>> (8 * ((a - base) % 256))).setWidth 8
        else if e.2.clu = true ∧ Tab.get? u.gran (a / 4096) ≠ some c ∧
            ∃ i < 64 * n, xm.getLsbD i = true ∧ (base + 4 * i) / 4096 = a / 4096 then 0
        else u.rdByte a) ∧
      t = { u with tiles := t.tiles, mem := t.mem, poison := t.poison, gran := t.gran, fresh := t.fresh, cur := .none } ∧
      (∀ h, h ≠ g → t.tile h = u.tile h) ∧
      (∀ r, (t.tile g).vname r = { t0.vname r with lastRead := ((t.tile g).vname r).lastRead }) ∧
      t.tile g = { t0 with v := (t.tile g).v, units := (t.tile g).units, wgran := (t.tile g).wgran, wroteClu := (t.tile g).wroteClu
                           stClose := if e.2.clu then t0.stClose else Nat.max t0.stClose (t0.xcyc + e.2.lat + n - 1)
                           stCloseC := if e.2.clu then Nat.max t0.stCloseC (t0.xcyc + e.2.lat + n - 1) else t0.stCloseC, xpc := t0.xpc + 1, xcyc := t0.xcyc + 1
                           pmc := (t.tile g).pmc, pmovf := (t.tile g).pmovf, pmwrap := (t.tile g).pmwrap }

namespace Sys2Proof.Says
open Sys2Proof.Machine

/-- R363: the loads, with their bytes and whether they sign-extend; the stores, with their bytes. -/
def loads : List ((R5 → R5 → BitVec 2 → BitVec 11 → Instr) × Nat × Bool) :=
  [(.ldb, 1, false), (.ldh, 2, false), (.ldw, 4, false), (.ldd, 8, false), (.ldbs, 1, true), (.ldhs, 2, true), (.ldws, 4, true)]
def stores : List ((R5 → R5 → BitVec 2 → BitVec 11 → Instr) × Nat) := [(.stb, 1), (.sth, 2), (.stw, 4), (.std, 8)]

/-- The A-stream's access of tile `g` to a virtual address passes translation (R197): place and leaf entry. -/
def Reaches (s : State) (g : BitVec 8) (va : W64) (a : Acc) (pa : Nat) (leaf : BitVec 128) : Prop :=
  s.xlate (s.tile g) ((s.tile g).ctx.getD 0) va a = .ok pa leaf

/-- The address of a load or store (R364): the base register is clean, and the address is a multiple of `n`. -/
def Address (t : Tile) (b : R5) (o : BitVec 11) (n : Nat) (ea : W64) : Prop :=
  (scalar t .a b).2 = false ∧ ea = (scalar t .a b).1 + o.signExtend 64 ∧ ea.toNat % n = 0

/-- The tile after its translation cache has served an address: its leaf entry is the most recently used (R198). -/
def served (va : W64) (t : Tile) : Tile := t.tlbTouch (t.ctx.getD 0) va

/-- `n` loaded bytes at offset `off` of a line, as a register holds them (R364). -/
def loaded (n : Nat) (sgn : Bool) (line : BitVec 512) (off : Nat) : W64 :=
  let v := line.toNat / 2 ^ (8 * off) % 2 ^ (8 * n)
  if sgn = true ∧ 2 ^ (8 * n - 1) ≤ v then BitVec.ofInt 64 (v - 2 ^ (8 * n)) else BitVec.ofNat 64 v

/-- Bytes `off` to `off + n − 1` of a line, as a mask; and the `n` low bytes of a register in their place. -/
def bytesAt (off n : Nat) : BitVec 64 := BitVec.ofNat 64 (2 ^ (off + n) - 2 ^ off)
def placed (off n : Nat) (v : W64) : BitVec 512 := BitVec.ofNat 512 (v.toNat % 2 ^ (8 * n)) <<< (8 * off)

/-- A copy in the L1D after bytes `m` of `v` are stored in it (R191, R314). -/
def storedIn (l : L1Line) (m : BitVec 64) (v : BitVec 512) (p dirty : Bool) : L1Line :=
  { l with data := mergeLine m v l.data, vmask := l.vmask ||| m, dmask := if dirty then l.dmask ||| m else l.dmask
           pois := p || (l.pois && m != BitVec.allOnes 64) }

/-- The write that a store sends to its line's home (R191, R256). -/
def writeOf (s : State) (g : BitVec 8) (leaf : BitVec 128) (line : Nat) (m : BitVec 64) (v : BitVec 512) (p : Bool) (k : WriteKind) :
    HomeWrite :=
  { line := line, mask := m, data := v, pois := p, key := leafKey leaf, coh := leafCoh leaf, ctx := (s.tile g).ctx.getD 0
    tile := g, kind := k, vclk := (s.die (dieOf g)).vclk }

/-- A line is written at its home, and the home holds no record of it (R248): no L1D has to be recalled or to lose bytes. -/
def Unheld (s : State) (line : Nat) : Prop := (s.holders line).holders = []

end Sys2Proof.Says

/-- R363, R364, R191: a load that hits the L1D under CA or ST, or under WT on a shared page, delivers its bytes and the line's poison; nothing but the
destination, the order of use, the PC and the counters changes. -/
def Obligations.LoadsThatHitTheL1D : Prop :=
  ∀ e ∈ loads, ∀ (s : State) (g : BitVec 8) (d b : R5) (p : BitVec 2) (o : BitVec 11) (ea : W64) (pa : Nat) (leaf : BitVec 128) (l : L1Line),
    s.cur = .stream g .a → Address (s.tile g) b o e.2.1 ea → Reaches s g ea .read pa leaf → leafPeer leaf = false → p ≠ 2 →
    (p = 1 → leafCoh leaf = 2) → (s.tile g).l1Get (pa / 64) = some l → l.vmask &&& bytesAt (pa % 64) e.2.1 = bytesAt (pa % 64) e.2.1 →
    exec (e.1 d b p o) s = .next (finished (s.modTile g fun t =>
      let t := served ea t
      wrote .a 1 d (loaded e.2.1 e.2.2 l.data (pa % 64)) l.pois (if p = 3 then t else t.l1Touch (pa / 64))) g .a 1)

/-- R364, R191, R250: a load whose bytes the L1D does not hold valid, of POL NC, or of POL WT on a page that is not shared, delivers the bytes that
the line has at its home once the tile's die's earlier writes to that home have arrived and the holders in its way have been recalled; under
another POL than NC the bytes that the tile's own copy holds dirty stay its own. Under NC a copy leaves the L1D first. The read has an entry of the
tile's request table (R181), and every epoch that its vector names is closed at the home (R256). -/
def Obligations.LoadsThatReadTheHome : Prop :=
  ∀ e ∈ loads, ∀ (s : State) (g : BitVec 8) (d b : R5) (p : BitVec 2) (o : BitVec 11) (ea : W64) (pa : Nat) (leaf : BitVec 128),
    let line := pa / 64
    let m := bytesAt (pa % 64) e.2.1
    let u := s.modTile g (served ea)
    let copy := (s.tile g).l1Get line
    let s1 := (match copy with
      | some l => if p = 2 then u.l1Drop g l else u
      | none => u).arrive g line
    let h := if p = 2 then (if leafCoh leaf = 1 then s1 else s1.homeConflict (leafCoh leaf) line g)
      else (s1.homeFill (leafCoh leaf) line g m).1
    let home := h.rdLine (leafKey leaf) line
    let r : BitVec 512 × Bool := match (h.tile g).l1Get line with
      | some l => if p = 2 then home else (mergeLine l.dmask l.data home.1, home.2 || l.pois)
      | none => home
    s.cur = .stream g .a → Address (s.tile g) b o e.2.1 ea → Reaches s g ea .read pa leaf → leafPeer leaf = false →
    (s.tile g).claims = [] → (p ≠ 2 → copy = none → (s.tile g).l1Victim line = none) →
    (∀ l, copy = some l → p = 2 ∨ l.vmask &&& m ≠ m ∨ (p = 1 ∧ leafCoh leaf ≠ 2)) →
    u.reqFull g = false → s1.served (homeOf pa) ((s.tile g).rdV.getD (s1.die (dieOf g)).vclk) = true →
    ∃ t, exec (e.1 d b p o) s = .next t ∧ t.mem = h.mem ∧ t.cur = .none ∧ (t.tile g).apc = (h.tile g).apc + 1 ∧
      (t.tile g).rdA d = (if d = 0 then (0, false) else (loaded e.2.1 e.2.2 r.1 (pa % 64), r.2)) ∧
      ∀ r, r ≠ d → (t.tile g).rdA r = (h.tile g).rdA r

/-- R363, R364, R191: a store changes no byte of memory until its line's home performs it. Under WT it goes to the home, and a copy in
the L1D is updated; under CA it makes its bytes dirty in the L1D, claiming the line where the copy's CMASK lacks them
(R250); under NC and ST any copy leaves the L1D and the write goes to the home. What leaves the tile has an entry of its request table (R181). -/
def Obligations.StoresGoWhereTheirPolicySays : Prop :=
  ∀ e ∈ stores, ∀ (s : State) (g : BitVec 8) (d b : R5) (p : BitVec 2) (o : BitVec 11) (ea : W64) (pa : Nat) (leaf : BitVec 128),
    let line := lineNo leaf pa
    let v := scalar (s.tile g) .a d
    let m := bytesAt (pa % 64) e.2
    let w := placed (pa % 64) e.2 v.1
    let u := s.modTile g (served ea)
    let out (k : WriteKind) := writeOf s g leaf line m w v.2 k
    let now := (s.die (dieOf g)).vclk
    s.cur = .stream g .a → Address (s.tile g) b o e.2 ea → Reaches s g ea .write pa leaf → (s.tile g).relPend = [] →
    (p = 1 → u.reqFull g = false → exec (e.1 d b p o) s = .next (finished ((u.modTile g fun t => match t.l1Get line with
        | some l => (t.l1Set (storedIn l m w v.2 false)).l1Touch line
        | none => t).post (dieOf g) (out .wt)) g .a 1)) ∧
    (∀ l, p = 0 → (s.tile g).l1Get line = some l → (m &&& ~~~ l.cmask = 0 ∨ u.reqFull g = false) →
      exec (e.1 d b p o) s = .next (finished (u.modTile g fun t =>
        let t := (t.l1Set (storedIn l m w v.2 true)).l1Touch line
        if m &&& ~~~ l.cmask = 0 then t else { t with claims := t.claims ++ [{ line := line, bytes := m, vclk := now }] }) g .a 1)) ∧
    (p = 0 → (s.tile g).l1Get line = none → (s.tile g).l1Victim line = none → u.reqFull g = false →
      exec (e.1 d b p o) s = .next (finished (u.modTile g fun t =>
        let l : L1Line := { line := line, data := 0, pois := false, vmask := 0, cmask := 0, dmask := 0, key := leafKey leaf
                            coh := leafCoh leaf, lru := t.l1use + 1 }
        { t.l1Set (storedIn l m w v.2 true) with l1use := t.l1use + 1, claims := t.claims ++ [{ line := line, bytes := m, vclk := now }] }) g .a 1)) ∧
    (2 ≤ p → (∀ c ∈ (s.tile g).claims, c.line ≠ line) → u.reqFull g = false →
      exec (e.1 d b p o) s = .next (finished ((match (u.tile g).l1Get line with
        | some l => u.l1Drop g l
        | none => u).post (dieOf g) (out .store)) g .a 1))

/-- R255, R256, R314: a posted write that reaches its home writes the bytes of its mask, each byte of memory outside them unchanged,
and raises RV of the home to the vector that it carries. -/
def Obligations.PostedWritesLandAtTheirHome : Prop :=
  ∀ (s : State) (d : BitVec 2) (h : BitVec 3) (w : HomeWrite) (r : List ChanEnt) (q : List Agent),
    s.agenda = .deliver d h :: q → s.chan d h = .write w :: r → Unheld s w.line →
    (Tab.get? s.lineKey w.line = none ∨ Tab.get? s.lineKey w.line = s.keyId w.key) → h = homeOf (64 * w.line) →
    ∃ t, step s = .next t ∧ t.chan d h = r ∧ t.agenda = q ∧
      (∀ a, t.rdByte a = if a / 64 = w.line ∧ w.mask.getLsbD (a % 64) = true then (w.data >>> (8 * (a % 64))).setWidth 8 else s.rdByte a) ∧
      (∀ j : BitVec 2, vget (t.home h).rv 0 j = if (vget (s.home h).rv 0 j).toNat < (vget w.vclk 0 j).toNat then vget w.vclk 0 j else vget (s.home h).rv 0 j) ∧
      (∀ g, (t.tile g).areg = (s.tile g).areg ∧ (t.tile g).apc = (s.tile g).apc ∧ (t.tile g).flags = (s.tile g).flags)

namespace Sys2Proof.Says
open Sys2Proof.Machine

/-- R367: the atomics, with the new value of a word of `w` bits from the old one and the operand. -/
def atomics : List ((R5 → R5 → R5 → BitVec 2 → BitVec 2 → BitVec 1 → Instr) × ((w : Nat) → BitVec w → BitVec w → BitVec w)) :=
  [(.aswap, fun _ _ t => t), (.acas, fun _ _ t => t), (.aadd, fun _ x t => x + t), (.aand, fun _ x t => x &&& t),
   (.aor, fun _ x t => x ||| t), (.axor, fun _ x t => x ^^^ t), (.amin, fun _ x t => if t.slt x then t else x),
   (.amax, fun _ x t => if x.slt t then t else x), (.aminu, fun _ x t => if t < x then t else x), (.amaxu, fun _ x t => if x < t then t else x)]

/-- The state in which an atomic finds its line at the home: its release part is done when it has one, the tile's own copy has left, what
its die sent to that home has arrived, and the holders of the bytes have been recalled (R252, R366, R250). -/
def atHome (s : State) (g : BitVec 8) (ea : W64) (leaf : BitVec 128) (pa : Nat) (k c : BitVec 2) (m : BitVec 64) : State :=
  let u := s.modTile g (served ea)
  let r := if k.getLsbD 1 then u.release g c else u
  let line := lineNo leaf pa
  let r := match (r.tile g).l1Get line with
    | some l => r.l1Drop g l
    | none => r
  ((r.arrive g line).homeConflict (leafCoh leaf) line g).recall line none m

/-- The eight registers `a8` to `a15` (R374, R375). -/
def eight (t : Tile) : List (W64 × Bool) := (List.range 8).map fun k => scalar t .a (BitVec.ofNat 5 (8 + k))

end Sys2Proof.Says

/-- R366, R367, R315: an atomic reads the old value at the home and writes the new one there, indivisibly; `ACAS` writes only when the old
value equals d. Poison of the line or of an operand makes d zero and poisoned, raises cause 0x2C and leaves memory unchanged. The atomic has just come to issue, with an entry of the request table (R181), and every epoch that
its vector names is closed at the home (R256). -/
def Obligations.AtomicsReadAndWriteAtTheHome : Prop :=
  ∀ e ∈ atomics, ∀ (s : State) (g : BitVec 8) (d a b : R5) (k c : BitVec 2) (z : BitVec 1) (ea : W64) (pa : Nat) (leaf : BitVec 128),
    let n := if z = 0 then 4 else 8
    let off := pa % 64
    let line := lineNo leaf pa
    let m := bytesAt off n
    let h := atHome s g ea leaf pa k c m
    let at_ := h.rdLine (leafKey leaf) line
    let old := BitVec.ofNat (8 * n) (at_.1.toNat / 2 ^ (8 * off))
    let x := scalar (s.tile g) .a b
    let y := scalar (s.tile g) .a d
    let cas : Bool := e.1 0 0 0 0 0 0 == .acas 0 0 0 0 0 0
    let new := e.2 (8 * n) old (x.1.setWidth (8 * n))
    s.cur = .stream g .a → Address (s.tile g) a 0 n ea → Reaches s g ea .atomic pa leaf → leafPeer leaf = false →
    (s.tile g).relPend = [] → (s.tile g).claims = [] → (s.tile g).rdV = none → (s.modTile g (served ea)).reqFull g = false →
    h.served (homeOf pa) (h.die (dieOf g)).vclk = true →
    (at_.2 = false → x.2 = false → (cas = true → y.2 = false) →
      ∃ t, exec (e.1 d a b k c z) s = .next t ∧ t.cur = .none ∧ (t.tile g).apc = (h.tile g).apc + 1 ∧
        (t.tile g).rdA d = (if d = 0 then (0, false) else (BitVec.ofNat 64 old.toNat, false)) ∧
        (∀ r, r ≠ d → (t.tile g).rdA r = (h.tile g).rdA r) ∧
        (t.rdLine (leafKey leaf) line).1 =
          (if cas = true ∧ old ≠ y.1.setWidth (8 * n) then at_.1 else mergeLine m (placed off n (BitVec.ofNat 64 new.toNat)) at_.1) ∧
        ∀ p, p / 64 ≠ line → t.rdByte p = h.rdByte p) ∧
    (at_.2 = true ∨ x.2 = true ∨ (cas = true ∧ y.2 = true) →
      exec (e.1 d a b k c z) s = .next (trapped (h.modTile g (wrote .a 1 d 0 true)) g .a { code := 0x2C }))

/-- R369, R370: `QFILL` places the 256 bytes of four lines that the L1D holds whole, with their poison, at the tail of a queue; `QSTORE`
takes the head of a queue and posts its 2,048 bits as four stores of a line (shown for WT, and for NC and ST, with no copy in the L1D). -/
def Obligations.QueueFillsAndStores : Prop :=
  ∀ (s : State) (g : BitVec 8) (b : R5) (q : BitVec 4) (p : BitVec 2) (o : BitVec 11) (ea : W64) (pa : Nat) (leaf : BitVec 128) (l : Nat → L1Line)
    (e : QEntry) (r : List QEntry),
    s.cur = .stream g .a → Address (s.tile g) b o 64 ea → q < 8 → pa % 64 = 0 → leafPeer leaf = false →
    ea.toNat / 65536 = (ea + 255).toNat / 65536 →
    ((vget (s.tile g).q [] q).length < 16 → p ≠ 2 → (p = 1 → leafCoh leaf = 2) → (∀ i < 4, Reaches s g (ea + BitVec.ofNat 64 (64 * i)) .read (pa + 64 * i) leaf ∧
        (s.tile g).l1Get (pa / 64 + i) = some (l i) ∧ (l i).vmask = BitVec.allOnes 64) →
      ∃ t, exec (.qfill b q p o) s = .next t ∧ t = { s with tiles := t.tiles, cur := .none } ∧ (t.tile g).apc = (s.tile g).apc + 1 ∧
        (t.tile g).q = vset (s.tile g).q q (vget (s.tile g).q [] q ++
          [{ data := (l 3).data ++ (l 2).data ++ (l 1).data ++ (l 0).data
             pois := BitVec.ofNat 64 ((List.range 4).foldl (fun v i => if (l i).pois then v + 0xFFFF * 2 ^ (16 * i) else v) 0) }]) ∧
        (t.tile g).areg = (s.tile g).areg) ∧
    (vget (s.tile g).q [] q = e :: r → (s.tile g).relPend = [] → p ≠ 0 → s.reqWanted g + 4 ≤ 512 → (∀ c ∈ (s.tile g).claims, c.line < pa / 64 ∨ pa / 64 + 4 ≤ c.line) →
      (∀ i < 4, Reaches s g (ea + BitVec.ofNat 64 (64 * i)) .write (pa + 64 * i) leaf ∧ (s.tile g).l1Get (pa / 64 + i) = none) →
      ∃ t, exec (.qstore b q p o) s = .next t ∧ t.mem = s.mem ∧ (t.tile g).q = vset (s.tile g).q q r ∧ (t.tile g).apc = (s.tile g).apc + 1 ∧
        (t.die (dieOf g)).rim = (s.die (dieOf g)).rim ++ (List.range 4).map fun i =>
          writeOf s g leaf (pa / 64 + i) (BitVec.allOnes 64) (e.data.extractLsb' (512 * i) 512)
            (e.pois.extractLsb' (16 * i) 16 != 0) (if p = 1 then .wt else .store))

/-- R252, R372: a fence of the A-stream with no claim outstanding, and of the X-stream. A release of tile scope sends the tile's posted writes out of its rim; one of cluster scope or wider writes the
dirty bytes of the L1D back, its own die's home receives what was sent to it, and at package scope the die's epoch steps;
an acquire drops clean bytes that another die or package may have written; `SEQ` does both and waits for all of the die's
writes. -/
def Obligations.Fences : Prop :=
  ∀ (s : State) (g : BitVec 8) (k c : BitVec 2),
    let rel (s : State) : State := if c = 0 then s.leave g else
      let s := ((s.dirtyBack g).leave g).drainChan (dieOf g) (BitVec.ofNat 3 (dieOf g).toNat)
      if c = 3 then s.epochStep (dieOf g) else s
    let acq (s : State) : State := if c = 0 then s else if c = 3 then
        (s.setDie (dieOf g) { s.die (dieOf g) with vclk := maxV (s.die (dieOf g)).vclk (s.tile g).ov }).modTile g fun t =>
          { t with l1 := t.l1.map fun l => { l with vmask := l.vmask &&& l.dmask } }
      else s.modTile g fun t => { t with l1 := t.l1.map fun l => if ownDie (dieOf g) l.line then l else { l with vmask := l.vmask &&& l.dmask } }
    (s.cur = .stream g .a → (s.tile g).relPend = [] → (s.tile g).claims = [] → (s.tile g).rdV = none → (k = 3 → c = 3) →
      exec (.fence k c) s = .next (finished (if k = 0 then rel s else if k = 1 then acq s else if k = 2 then acq (rel s)
        else (acq (rel s)).drainDie (dieOf g)) g .a 1)) ∧
    (s.cur = .stream g .x →
      exec (.fence k c) s = .next (finished ((opened s g .x).modTile g fun t =>
        { t with holdSt := if k = 1 then t.holdSt else Nat.max t.holdSt (Nat.max t.stClose t.stCloseC)
                 holdLd := if k = 0 then t.holdLd else Nat.max t.holdLd t.ldClose }) g .x 1))

/-- R123, R374 to R377, R128: `SQPUSH` appends `a8` to `a15` to the stage's output queue and clears its flag, or sets the flag when the queue is
full; `ENQ` hands the packet to the rim and its flag waits for the answer; `BAR` waits from its arrival until its generation
completes. -/
def Obligations.StagePushesEnqueuesAndBarriers : Prop :=
  ∀ (s : State) (g : BitVec 8) (f : F3) (r : R5) (l : Launch) (i : Item) (d : StageDesc) (n : Nat),
    let t := s.tile g
    let ws := (eight t).map (·.1)
    let clean := ∀ w ∈ eight t, w.2 = false
    s.cur = .stream g .a →
    (clean → t.item = some i → s.launch? i.launch = some l → i.stage.toNat + 1 < l.nstage → l.stages[i.stage.toNat]? = some d →
      exec (.sqpush f) s = .next (finished
        (if ((l.die (dieOf g)).inst i.stage.toNat).entries.length < 2 ^ d.log2depth then
          (s.pushEntry g l i.stage.toNat d ws).modTile g (wroteFlag f false)
        else s.modTile g (wroteFlag f true)) g .a 1)) ∧
    (clean → t.item = some i → s.launch? i.launch = some l → ¬ i.stage.toNat + 1 < l.nstage →
      exec (.sqpush f) s = .next (trapped s g .a { code := 0x5A })) ∧
    (¬ clean → exec (.sqpush f) s = .next (trapped s g .a { code := 0x2E })) ∧
    (let q := scalar t .a r
     let taker := q.1.toNat < 1024 ∧ (s.queue (q.1.setWidth 10)).en = true ∧ (s.queue (q.1.setWidth 10)).src = true ∧
       (s.queue (q.1.setWidth 10)).ctx = t.ctx.getD 0
     (q.2 = false → taker → clean →
       exec (.enq f r) s = .next (finished (s.modTile g fun t => { t with
         fpend := setBit t.fpend f.toNat true, enqs := t.enqs ++ [{ flag := f, queue := q.1.setWidth 10, words := ws }] }) g .a 1)) ∧
     (q.2 = true → exec (.enq f r) s = .next (trapped s g .a { code := 0x2B })) ∧
     (q.2 = false → ¬ taker → exec (.enq f r) s = .next (trapped s g .a { code := 0x06 }))) ∧
    (t.item = some i → i.group = some n → t.relPend = [] → t.claims = [] →
      (t.inBar = false → ∃ w, exec .bar s = .next w ∧ w.cur = .stream g .a ∧ (w.tile g).inBar = true ∧ (w.tile g).bars = t.bars + 1 ∧
        (w.tile g).apc = t.apc) ∧
      (t.inBar = true → s.launch? i.launch = some l → t.bars ≤ l.gen n →
        exec .bar s = .next (finished ((s.acquire g 1).modTile g fun t => { t with inBar := false }) g .a 1))) ∧
    (t.item = none → exec .bar s = .next (trapped s g .a { code := 0x59 }))

namespace Sys2Proof.Says
open Sys2Proof.Machine

/-- The tag that a type code of major 0x28 names (R339, R424). -/
def tagOf (k : BitVec 4) : ZTag := if k = 0xE then .f64 else if k = 0x3 then .i40 else .a40

/-- An accumulator tile is not used by a command and no open window covers it (R171, R175). -/
def ZQuiet (t : Tile) (z : BitVec 3) : Prop := t.zBusy z = false ∧ ∀ p ∈ t.pend, p.dst ≠ .z z

/-- The 32 poison bits of a row, two lanes each (R424). -/
def rowPoison (p : Nat) : LaneBits := BitVec.ofNat 64 ((List.range 64).foldl (fun v l => if p.testBit (l / 2) then v + 2 ^ l else v) 0)

end Sys2Proof.Says

/-- R424, R425, R426, R37: the accumulator instructions in class 2 or above, and `MCFGWR` and `MCFGRD`. In a lower class the accumulator
instructions receive cause 0x74. -/
def Obligations.AccumulatorInstructions : Prop :=
  ∀ (s : State) (g : BitVec 8) (z : BitVec 3) (k : BitVec 4) (row r : R5) (d : V6),
    let u := opened s g .x
    let t0 := u.tile g
    let x := vget t0.z ZTile.reset z
    s.cur = .stream g .x →
    (2 ≤ t0.sclass → ZQuiet t0 z →
      (t0.units.acc ≤ t0.xcyc →
        exec (.zclr z k) s = .next (finished (u.modTile g fun t =>
          ({ t with units := { t.units with acc := t.xcyc + 1 }, z := vset t.z z { x with tag := tagOf k, valid := true } }).pendAt
            (.z z) (2 ^ 65536 - 1) 0 (2 ^ 1024 - 1) 0 4) g .x 1)) ∧
      (x.valid = true → NamesReady u g [] [d] [.acc] →
        ∃ t, exec (.zrd d z row) s = .next t ∧ VEffect u t g
          [(d, { mask := 2 ^ 2048 - 1, val := x.data.toNat / 2 ^ (2048 * row.toNat) % 2 ^ 2048, pmask := 2 ^ 64 - 1
                 pval := (rowPoison (x.pois.toNat / 2 ^ (32 * row.toNat))).toNat }, 4)] 0 0) ∧
      (NamesReady u g [d] [] [.acc] →
        ∃ t v, exec (.zwr d z row k) s = .next t ∧ ReadsV t0 d v ∧
          let e (j : Nat) : W64 := v.1.extractLsb' (64 * j) 64
          let c (j : Nat) : W64 := match tagOf k with
            | .f64 => e j
            | .a40 => (e j).setWidth 40 |>.setWidth 64
            | .i40 => (e j).setWidth 40 |>.signExtend 64
          let val := (List.range 32).foldl (fun n j => n + (c j).toNat * 2 ^ (64 * j)) 0
          let pv := (List.range 32).foldl (fun n j => if v.2.getLsbD (2 * j) || v.2.getLsbD (2 * j + 1) then n + 2 ^ j else n) 0
          VEffect (u.modTile g fun t => ({ t with z := vset t.z z { x with tag := tagOf k } }).pendAt (.z z)
            ((2 ^ 2048 - 1) * 2 ^ (2048 * row.toNat)) (val * 2 ^ (2048 * row.toNat))
            ((2 ^ 32 - 1) * 2 ^ (32 * row.toNat)) (pv * 2 ^ (32 * row.toNat)) 4) t g [] 0 0) ∧
      (x.valid = true → t0.units.acc ≤ t0.xcyc →
        let r (i : Nat) : Nat × BitVec 6 :=
          let c := (x.data.extractLsb' (64 * i) 64).toNat
          if tagOf k = x.tag then (c, 0) else zConvert x.tag (tagOf k) (roundingMode t0) (ftz t0) c
        let val := (List.range 1024).foldl (fun n i => n + (r i).1 * 2 ^ (64 * i)) 0
        let fl := (List.range 1024).foldl (fun f i => if x.pois.getLsbD i then f else f ||| (r i).2) 0
        exec (.zcvt z k) s = .next (finished (u.modTile g fun t =>
          (({ t with units := { t.units with acc := t.xcyc + 32 }, z := vset t.z z { x with tag := tagOf k } }).pendAt
            (.z z) (2 ^ 65536 - 1) val (2 ^ 1024 - 1) x.pois.toNat 35).pendFlags fl 35) g .x 1))) ∧
    (t0.sclass < 2 → ∀ i ∈ [Instr.zclr z k, .zrd d z row, .zwr d z row k, .zcvt z k], exec i s = .next (trapped u g .x { code := 0x74 })) ∧
    (2 ≤ t0.sclass → x.valid = false → ∀ i ∈ [Instr.zrd d z row, .zcvt z k], exec i s = .next (trapped u g .x { code := 0x5D })) ∧
    ((∀ p ∈ t0.pend, p.dst ≠ .x r) → (scalar t0 .x r).2 = false →
      exec (.mcfgwr r) s = .next (finished (u.modTile g fun t => t.pendAt .mcfg 0
        ((scalar t0 .x r).1.toNat / 2 ^ 32 % 2 ^ 16 + 2 ^ 16 * ((scalar t0 .x r).1.toNat % 2)) 0 0 1) g .x 1)) ∧
    (t0.dependants (.x r) = [] →
      exec (.mcfgrd r) s = .next (finished (u.modTile g
        (wrote .x 1 r (BitVec.ofNat 64 (t0.leak.toNat * 2 ^ 32 + if t0.adty then 1 else 0)) false)) g .x 1))

namespace Sys2Proof.Says
open Sys2Proof.Machine

/-- R453 to R455: the value of status register `n` as a stream reads it; none where the number is unassigned for the stream. -/
def csrValue (s : State) (g : BitVec 8) (st : Stream) (n : Nat) : Option W64 :=
  let t := s.tile g
  let own := match st with | .a => t.acsr | .x => t.xcsr
  if n = 0x000 then (if st = .x then some (BitVec.ofNat 64 t.fctl.toNat) else none)
  else if n = 0x001 then (if st = .x then some (BitVec.ofNat 64 t.fstat.toNat) else none)
  else if n = 0x008 then some (BitVec.ofNat 64 own.tvec.toNat)
  else if n = 0x009 then some (BitVec.ofNat 64 own.tepc.toNat)
  else if n = 0x00A then some (BitVec.ofNat 64 ((if own.tin then 1 else 0) + (if own.skip then 2 else 0) + 4 * own.code.toNat))
  else if 0x010 ≤ n ∧ n ≤ 0x017 then some (BitVec.ofNat 64 (own.trec.toNat / 2 ^ (64 * (n - 0x010))))
  else if n = 0x020 then some t.cyc
  else if n = 0x021 then some s.devtime
  else if n = 0x022 then some s.tickcnt
  else if n = 0x023 then some (BitVec.ofNat 64
    (g.toNat + 2 ^ 8 * (t.ctx.getD 0).toNat + 2 ^ 24 * (t.holder.getD 0).toNat + 2 ^ 32 * (Config.tileRev g).toNat))
  else if 0x030 ≤ n ∧ n ≤ 0x037 then some (t.pmc.toList.getD (n - 0x030) 0)
  else if 0x038 ≤ n ∧ n ≤ 0x03F then some (BitVec.ofNat 64 (t.pmsel.toList.getD (n - 0x038) 0).toNat)
  else if n = 0x040 then some (BitVec.ofNat 64 t.pmovf.toNat)
  else none

/-- R453 to R455: the registers with RW fields, the mask of those fields, and a tile with `v` stored in them. -/
def rwCsr (st : Stream) (n : Nat) (v : W64) (t : Tile) : Option (W64 × Tile) :=
  let own (f : StreamCsr → StreamCsr) : Tile := match st with | .a => { t with acsr := f t.acsr } | .x => { t with xcsr := f t.xcsr }
  if n = 0x000 ∧ st = .x then some (0x7, { t with fctl := v.setWidth 3 })
  else if n = 0x008 then some (0x3FFF, own fun c => { c with tvec := v.setWidth 14 })
  else if n = 0x009 then some (0x3FFF, own fun c => { c with tepc := v.setWidth 14 })
  else if 0x030 ≤ n ∧ n ≤ 0x037 then some (BitVec.allOnes 64, { t with pmc := t.pmc.setIfInBounds (n - 0x030) v })
  else if 0x038 ≤ n ∧ n ≤ 0x03F then some (0x3FF, { t with pmsel := t.pmsel.setIfInBounds (n - 0x038) (v.setWidth 10) })
  else none

end Sys2Proof.Says

/-- R453 to R455, R457, R458: `CSRRD` of every assigned register writes its value, clean; every form on an unassigned number receives
cause 0x0A. -/
def Obligations.StatusRegisterReads : Prop :=
  ∀ (s : State) (g : BitVec 8) (st : Stream) (d : R5) (c : BitVec 10), Ready s g st [] (.x d) →
    let u := opened s g st
    match csrValue u g st c.toNat with
    | some v => exec (.csrrd d c) s = .next (finished (u.modTile g (wrote st 3 d v false)) g st 1)
    | none => ∀ i ∈ [Instr.csrrd d c, .csrwr d c, .csrset d c, .csrclr d c], exec i s = .next (trapped u g st { code := 0x0A })

/-- R457, R458, R4: `CSRWR` stores the RW fields, `CSRSET` and `CSRCLR` set and clear bits of them; a write of TSTAT writes IN, and its fall resumes the
engine queues that a halt holds for the stream; `CSRWR` clears the W1C bits that are 1 in the source, and the other two forms
receive cause 0x0A there; a register of RO fields receives cause 0x0A, a poisoned source cause 0x2B. -/
def Obligations.StatusRegisterWrites : Prop :=
  ∀ (s : State) (g : BitVec 8) (st : Stream) (r : R5) (c : BitVec 10) (old : W64), Ready s g st [.x r] (.x 0) →
    let u := opened s g st
    let t := u.tile g
    let x := scalar t st r
    let n := c.toNat
    csrValue u g st n = some old → 
    (x.2 = false → ∀ e ∈ [(Instr.csrwr r c, x.1), (Instr.csrset r c, old ||| x.1), (Instr.csrclr r c, old &&& ~~~ x.1)],
      ((rwCsr st n 0 t).isSome = true → ∃ m t', rwCsr st n (e.2 &&& m) t = some (m, t') ∧
        exec e.1 s = .next (finished (u.modTile g fun _ => t') g st 1)) ∧
      (n = 0x00A →
        let own := match st with | .a => t.acsr | .x => t.xcsr
        exec e.1 s = .next (finished (u.modTile g fun t =>
          let t := if own.tin = true ∧ e.2.getLsbD 0 = false then t.resumeEngines st else t
          match st with
          | .a => { t with acsr := { t.acsr with tin := e.2.getLsbD 0 } }
          | .x => { t with xcsr := { t.xcsr with tin := e.2.getLsbD 0 } }) g st 1))) ∧
    (x.2 = false → n = 0x001 → exec (.csrwr r c) s = .next (finished (u.modTile g fun t => { t with fstat := t.fstat &&& ~~~ x.1.setWidth 6 }) g st 1)) ∧
    (x.2 = false → n = 0x040 → exec (.csrwr r c) s = .next (finished (u.modTile g fun t => { t with pmovf := t.pmovf &&& ~~~ x.1.setWidth 8 }) g st 1)) ∧
    (n = 0x001 ∨ n = 0x040 → ∀ i ∈ [Instr.csrset r c, .csrclr r c], exec i s = .next (trapped u g st { code := 0x0A })) ∧
    (0x010 ≤ n ∧ n ≤ 0x023 → ∀ i ∈ [Instr.csrwr r c, .csrset r c, .csrclr r c], exec i s = .next (trapped u g st { code := 0x0A })) ∧
    (x.2 = true → (rwCsr st n 0 t).isSome = true ∨ n = 0x00A →
      ∀ i ∈ [Instr.csrwr r c, .csrset r c, .csrclr r c], exec i s = .next (trapped u g st { code := 0x2B }))

/-- R459 to R462, R126, R293: `TRAP` and `BRK` raise their causes with their code; `TRET` clears IN and goes to TEPC; `STEP` ends the stream at its
word; a poison check has no effect on clean values and raises cause 0x2F on poison. -/
def Obligations.TrapsReturnsStepsAndPoisonChecks : Prop :=
  ∀ (s : State) (g : BitVec 8) (st : Stream) (c : BitVec 10) (r : R5) (v : V6) (z : BitVec 3),
    Ready s g st [.x r] (.x 0) →
    let u := opened s g st
    let t := u.tile g
    exec (.trap c) s = .next (trapped u g st { code := 0x09, imm := c }) ∧
    exec (.brk c) s = .next (trapped u g st { code := 0x08, imm := c }) ∧
    exec .tret s = .next (jumped (u.modTile g fun t =>
      let t := if (t.csr st).tin then t.resumeEngines st else t
      match st with
      | .a => { t with acsr := { t.acsr with tin := false } }
      | .x => { t with xcsr := { t.xcsr with tin := false } }) g st (match st with | .a => t.acsr.tepc | .x => t.xcsr.tepc)) ∧
    exec .step s = .next (finished (u.modTile g fun t => match st with | .a => { t with astep := true } | .x => { t with xstep := true }) g st 0) ∧
    exec (.pchks r) s = .next (if (scalar t st r).2 then trapped u g st { code := 0x2F } else finished u g st 1) ∧
    (st = .x → NamesReady u g [v] [] [] →
      ∃ w x, exec (.pchkv v) s = .next w ∧ ReadsV t v x ∧ (x.2 = 0 → VEffect u w g [] 0 0) ∧
        (x.2 ≠ 0 → ∃ u', w = trapped u' g .x { code := 0x2F } ∧ u'.mem = u.mem ∧ (u'.tile g).pend = t.pend ∧ (u'.tile g).xpc = t.xpc)) ∧
    (st = .x → (∀ p ∈ t.pend, p.dst ≠ .z z) →
      let x := vget t.z ZTile.reset z
      exec (.pchkz z) s = .next (if x.valid = false then trapped u g .x { code := 0x5D }
        else if x.pois ≠ 0 then trapped u g .x { code := 0x2F } else finished u g .x 1))

namespace Sys2Proof.Says
open Sys2Proof.Machine

/-- The word of the X-stream's instruction memory `k` words past the PC (R464). -/
def bodyWord (s : State) (g : BitVec 8) (k : Nat) : W32 := s.imemWord g .x ((s.tile g).xpc + BitVec.ofNat 14 k)

/-- The instruction that a body word is, when it is a micro-op (R463). -/
def micro (w : W32) : Option Instr :=
  match decodeStream w 0 with
  | .ok i => if (microOf i).isSome then some i else none
  | .error _ => none

/-- A micro-op that writes a vector (R463). -/
def writesVector (i : Instr) : Bool := match microOf i with | some (.v _, _) => true | _ => false

end Sys2Proof.Says

/-- R463 to R466, R304, R305: the recipe instructions in the X-stream. -/
def Obligations.RecipeInstructions : Prop :=
  ∀ (s : State) (g : BitVec 8) (n c : BitVec 2) (r : R5) (d : V6),
    let u := opened s g .x
    let t := u.tile g
    let unused (r : R5) : Prop := ∀ v : V6, (t.vname v).tag ≠ some r
    s.cur = .stream g .x →
    (let ws := (List.range (n.toNat + 1)).map fun k => bodyWord u g (k + 1)
     (∀ k ≤ n.toNat, t.locked .x (t.xpc + BitVec.ofNat 14 (k + 1)) = false) → (∀ w ∈ ws, (micro w).isSome = true ∧ (decodeIssue w 0 .x true).isOk = true) →
     (∀ i, micro (bodyWord u g (n.toNat + 1)) = some i → writesVector i = true) → unused r →
       exec (.rcpdef n r) s = .next (finished (u.modTile g fun t => { t with rcp := vset t.rcp r { words := ws, rm := 0, ftz := false } }) g .x (n.toNat + 2))) ∧
    (let rc := vget t.rcp Recipe.reset r
     rc.words ≠ [] → unused r → t.av.getLsbD d.toNat = false → t.dependants (.v d) = [] →
     (∀ x ∈ rc.srcs, match x with
       | .x a => t.ax.getLsbD a.toNat = true
       | .k a => t.ak.getLsbD a.toNat = true
       | .v a => t.av.getLsbD a.toNat = true ∨ (a ≠ d ∧ (t.vname a).tag.isSome = true ∧ t.taggedSrcs a = [])) →
     (∀ m ∈ rc.micros, microSealed u g m.1 = true) →
       exec (.rcpset d r) s = .next (finished (u.modTile g fun t =>
         let v := t.vname d
         { t with rcp := vset t.rcp r { rc with rm := roundingMode t, ftz := ftz t }
                  v := vset t.v d { v with tag := some r, st := if v.st = .live then .live else .dropped } }) g .x 1)) ∧
    ((t.vname d).tag.isSome = true → exec (.rcpdrop d) s = .next (finished
      (if (t.vname d).st = .live then u.modTile g fun t => { t with v := vset t.v d { t.vname d with st := .dropped } } else u) g .x 1)) ∧
    ((t.vname d).tag = none → exec (.rcpdrop d) s = .next (trapped u g .x { code := 0x52 })) ∧
    (unused r → exec (.rcpclr r) s = .next (finished (u.modTile g fun t => { t with rcp := vset t.rcp r { words := [], rm := 0, ftz := false } }) g .x 1)) ∧
    (∀ v : V6, (t.vname v).tag = some r → (∀ w : V6, (t.vname w).tag = some r → w = v) → (t.vname v).st = .live → t.dependants (.v v) = [] →
      exec (.rcpclr r) s = .next (finished (u.modTile g fun t =>
        { t with v := vset t.v v { t.vname v with tag := none }, rcp := vset t.rcp r { words := [], rm := 0, ftz := false } }) g .x 1)) ∧
    (exec (.rcpanch d 0) s = .next (finished (u.modTile g fun t => { t with ax := setBit t.ax d.toNat true }) g .x 1)) ∧
    (exec (.rcpanch d 2) s = .next (finished (u.modTile g fun t => { t with ak := setBit t.ak d.toNat true }) g .x 1)) ∧
    ((t.vname d).tag = none → exec (.rcpanch d 1) s = .next (finished (u.modTile g fun t => { t with av := setBit t.av d.toNat true }) g .x 1)) ∧
    ((t.vname d).tag.isSome = true → exec (.rcpanch d 1) s = .next (trapped u g .x { code := 0x52 })) ∧
    (t.dependants (if c = 0 then .x (d.setWidth 5) else if c = 1 then .v d else .k (d.setWidth 4)) = [] →
      exec (.rcpunanch d c) s = .next (finished (u.modTile g fun t =>
        if c = 0 then { t with ax := setBit t.ax d.toNat false }
        else if c = 1 then { t with av := setBit t.av d.toNat false }
        else { t with ak := setBit t.ak d.toNat false }) g .x 1))

namespace Sys2Proof.Says
open Sys2Proof.Machine

/-- The engine commands of the A-stream (R428, R436 to R447): the engine, the operation, the tokens, the registers SA, SB and SC,
and IMM17 with its fields in their places. -/
def engineForm (i : Instr) : Option (Eng × CmdOp × ETok × (R5 × R5 × R5) × Nat) :=
  match i with
  | .copy e a b c fill ssp dsp => some (.copy, .copy, e, (a, b, c), (if fill then 64 else 0) + 8 * ssp.toNat + dsp.toNat)
  | .copyl e a b tier => some (.copy, .copyl, e, (a, b, 0), tier.toNat)
  | .copyn e a b c nl nt dir sp =>
    some (.copy, .copyn, e, (a, b, c), 1024 * nl.toNat + 16 * nt.toNat + (if dir then 8 else 0) + sp.toNat)
  | .ovla e a b c => some (.copy, .ovla, e, (a, b, c), 0)
  | .ovlx e a b c => some (.copy, .ovlx, e, (a, b, c), 0)
  | .tgather e a b c lsp sp => some (.gather, .tgather, e, (a, b, c), (if lsp then 8 else 0) + sp.toNat)
  | .kvgather e a b c lsp sp => some (.gather, .kvgather, e, (a, b, c), (if lsp then 8 else 0) + sp.toNat)
  | .tscatter e a b c lsp sp => some (.gather, .tscatter, e, (a, b, c), (if lsp then 8 else 0) + sp.toNat)
  | .collred e a b c => some (.coll, .collred, e, (a, b, c), 0)
  | .collgath e a b c => some (.coll, .collgath, e, (a, b, c), 0)
  | .collbcast e a b c => some (.coll, .collbcast, e, (a, b, c), 0)
  | .colla2a e a b c => some (.coll, .colla2a, e, (a, b, c), 0)
  | .collsend e b c => some (.coll, .collsend, e, (0, b, c), 0)
  | .collrecv e a c => some (.coll, .collrecv, e, (a, 0, c), 0)
  | .pxhash e a b c frm => some (.salt, .pxhash, e, (a, b, c), if frm then 1 else 0)
  | .pxmatch e a b c lim => some (.salt, .pxmatch, e, (a, b, c), lim.toNat)
  | .pxpath e a b c => some (.salt, .pxpath, e, (a, b, c), 0)
  | .kvopen e a b c tier => some (.salt, .kvopen, e, (a, b, c), tier.toNat)
  | .kvseal e a b c => some (.salt, .kvseal, e, (a, b, c), 0)
  | .kvfork e a b c => some (.salt, .kvfork, e, (a, b, c), 0)
  | .kvlease e a b c prio => some (.salt, .kvlease, e, (a, b, c), prio.toNat)
  | .kvrelease e a b => some (.salt, .kvrelease, e, (a, b, 0), 0)
  | .rseal e a b sp => some (.salt, .rseal, e, (a, b, 0), if sp then 1 else 0)
  | .runseal e a b sp => some (.salt, .runseal, e, (a, b, 0), if sp then 1 else 0)
  | _ => none

/-- Token `k` of a tile is pending; `tk0` is always complete (R156, R157). -/
def waits (t : Tile) (k : R5) : Bool := k != 0 && (vget t.tk { pending := false, count := 0 } k).pending

/-- A tile whose token `k` an instruction has produced: pending; `tk0` stays complete (R157, R166). -/
def produced (k : R5) (t : Tile) : Tile :=
  if k = 0 then t else { t with tk := vset t.tk k { vget t.tk { pending := false, count := 0 } k with pending := true } }

/-- A command that has just issued, with what its words and registers give it, unaccepted (R166, R429). -/
def Fresh (c : Cmd) (t : Tile) (st : Stream) (op : CmdOp) (k : ETok) (a b d : W64) (imm : Nat) : Prop :=
  c.op = op ∧ c.stream = st ∧ c.tp = k.tp ∧ c.cons = [k.ta, k.tb, k.tc].filter (waits t) ∧ c.a = a ∧ c.b = b ∧ c.c = d ∧
    c.imm.toNat = imm ∧ c.prog = 0 ∧ c.sent = [] ∧ c.refs = []

/-- The room of an engine's command queue (R165): 8 commands for the matrix engine, 16 for the others, not counting
those in progress. -/
def HasRoom (t : Tile) (e : Eng) : Prop :=
  (t.eng e).waiting.length + ((t.eng e).running.length - ((t.eng e).active e).length) < if e = .matrix then 8 else 16

/-- A word of two has waited: the stream stands where it was, and only counters have moved (R170, R455). -/
def Stalled (s t : State) (g : BitVec 8) : Prop :=
  ∃ b : Tile, t = s.setTile g b ∧ b = { s.tile g with pmc := b.pmc, pmovf := b.pmovf, pmwrap := b.pmwrap }

/-- The matrix commands (R409 to R420): operation, type, tokens, registers, IMM17. -/
def matrixForm (i : Instr) : Option (CmdOp × Ty × ETok × (R5 × R5 × R5) × Nat) :=
  let m (nrb : BitVec 9) (epi zero : Bool) (nz z : BitVec 3) : Nat :=
    256 * nrb.toNat + (if epi then 128 else 0) + (if zero then 64 else 0) + 8 * nz.toNat + z.toNat
  match i with
  | .mwld e a => some (.mwld, .i8, e, (a, 0, 0), 0)
  | .mswap e => some (.mswap, .i8, e, (0, 0, 0), 0)
  | .mma y e a b nrb epi zero nz z => some (.mma, y, e, (a, b, 0), m nrb epi zero nz z)
  | .mmas y e a b c nrb epi zero nz z => some (.mmas, y, e, (a, b, c), m nrb epi zero nz z)
  | .mepi y e a nz z => some (.mepi, y, e, (a, 0, 0), m 0 false false nz z)
  | _ => none

/-- The blocks that a matrix command names: address, alignment, size (R403): a block or table lies in the scratchpad; the
segment table has a header and up to 32 entries of 16 bytes each (R415). -/
def namedBlocks (s : State) (g : BitVec 8) (op : CmdOp) (a b c : W64) (imm : Nat) : List (W64 × Nat × Nat) :=
  let seg := 16 + 16 * min 32 (s.rdNat (spadBase g.toNat + c.toNat % 2 ^ 21 + 14) 2)
  match op with
  | .mwld | .mepi => [(a, 64, 64)]
  | .mma => (a, 32, 32) :: if imm.testBit 7 then [(b, 64, 64)] else []
  | .mmas => ((a, 32, 32) :: if imm.testBit 7 then [(b, 64, 64)] else []) ++ [(c, 16, seg)]
  | _ => []

/-- Each of those blocks is aligned, lies in the scratchpad and is clean (R403). -/
def BlocksGood (s : State) (g : BitVec 8) (l : List (W64 × Nat × Nat)) : Prop :=
  ∀ x ∈ l, x.1.toNat % x.2.1 = 0 ∧ x.1.toNat + x.2.2 ≤ 2 ^ 21 ∧ s.poisoned (spadBase g.toNat + x.1.toNat) x.2.2 = false

/-- The checks of R404 against the tile's view of the active plane and against its class pass: every pair needs class 3 at least (R38, R405). -/
def ViewAllows (t : Tile) (op : CmdOp) (y : Ty) : Prop :=
  (op = .mwld ∨ op = .mswap ∨ op = .mepi → 3 ≤ t.sclass) ∧
  (op = .mma ∨ op = .mmas → t.viewA.st ≠ .loaded → 3 ≤ t.sclass) ∧
  (op = .mma ∨ op = .mmas → t.viewA.st = .loaded →
    ∃ m, pairMode y t.viewA.ty = some m ∧ ¬(t.viewA.sparse = true ∧ 16 < y.bits) ∧ ¬(op = .mmas ∧ (m = .f64 ∨ m = .int)) ∧
      pairClass (max y.bits t.viewA.ty.bits) t.viewA.sparse ≤ t.sclass)

/-- The X-stream's views of the planes after a matrix command has issued to a queue that is not halted (R404). -/
def viewsAfter (op : CmdOp) (blk : BitVec 512) (t : Tile) : Tile :=
  match op with
  | .mwld => { t with viewS := weightView blk }
  | .mswap => { t with viewA := t.viewS, viewS := t.viewA }
  | .mmas => { t with viewS := { st := .empty, ty := .i8, sparse := false } }
  | _ => t

end Sys2Proof.Says

/-- R165, R166, R423, R429, R431: every command of the copy, gather, collective and Saltern engines, at its issue by the A-stream. -/
def Obligations.EngineCommandsIssue : Prop :=
  ∀ (s : State) (g : BitVec 8) (i : Instr) (e : Eng) (op : CmdOp) (k : ETok) (r : R5 × R5 × R5) (imm : Nat),
    let t := s.tile g
    let good := (scalar t .a r.1).2 = false ∧ (scalar t .a r.2.1).2 = false ∧ (scalar t .a r.2.2).2 = false
    s.cur = .stream g .a → engineForm i = some (e, op, k, r, imm) →
    (waits t k.tp = false → (t.eng e).halted = false → HasRoom t e → good →
      ∃ c, Fresh c t .a op k (scalar t .a r.1).1 (scalar t .a r.2.1).1 (scalar t .a r.2.2).1 imm ∧
        exec i s = .next (finished (s.modTile g fun t =>
          produced k.tp (t.setEng e { t.eng e with waiting := (t.eng e).waiting ++ [c] })) g .a 2)) ∧
    (waits t k.tp = false → (t.eng e).halted = true → good →
      exec i s = .next (finished (s.modTile g fun t => (produced k.tp t).tkComplete k.tp) g .a 2)) ∧
    (waits t k.tp = false → (t.eng e).halted = true ∨ HasRoom t e → ¬ good → exec i s = .next (trapped s g .a { code := 0x2B })) ∧
    (waits t k.tp = true ∨ ((t.eng e).halted = false ∧ ¬ HasRoom t e) → ∃ u, exec i s = .next u ∧ Stalled s u g)

/-- R173, R403, R404: every matrix command at its issue by the X-stream. -/
def Obligations.MatrixCommandsIssue : Prop :=
  ∀ (s : State) (g : BitVec 8) (i : Instr) (op : CmdOp) (y : Ty) (k : ETok) (r : R5 × R5 × R5) (imm : Nat),
    let u := opened s g .x
    let t := u.tile g
    let a := (scalar t .x r.1).1
    let b := (scalar t .x r.2.1).1
    let c := (scalar t .x r.2.2).1
    let blocks := namedBlocks u g op a b c imm
    let bytes (x : W64) (n : Nat) := u.rdNat (spadBase g.toNat + x.toNat) n
    s.cur = .stream g .x → (∀ p ∈ t.pend, p.dst ≠ .x r.1 ∧ p.dst ≠ .x r.2.1 ∧ p.dst ≠ .x r.2.2) → matrixForm i = some (op, y, k, r, imm) →
    waits t k.tp = false → t.emat.halted = false → HasRoom t .matrix →
    ((scalar t .x r.1).2 = true ∨ (scalar t .x r.2.1).2 = true ∨ (scalar t .x r.2.2).2 = true →
      exec i s = .next (trapped u g .x { code := 0x2B })) ∧
    ((scalar t .x r.1).2 = false → (scalar t .x r.2.1).2 = false → (scalar t .x r.2.2).2 = false →
      (∀ x, blocks.find? (fun x => decide (x.1.toNat % x.2.1 ≠ 0)) = some x →
        exec i s = .next (trapped u g .x { code := 0x07, tval := x.1, aKind := 3 })) ∧
      (BlocksGood u g blocks → ViewAllows t op y → (blocks ≠ [] → t.xcyc < t.units.ls1) →
        blocks ≠ [] → exec i s = .next (trapped u g .x { code := 0x1B })) ∧
      (BlocksGood u g blocks → ViewAllows t op y → (blocks ≠ [] → t.units.ls1 ≤ t.xcyc) →
        ∃ q : Cmd, Fresh q t .x op k a b c imm ∧ q.ty = y ∧ q.rm = roundingMode t ∧ q.ftz = ftz t ∧ q.leak = t.leak ∧ q.adty = t.adty ∧
          (op = .mwld → q.blk0.toNat = bytes a 64) ∧ (op = .mma ∨ op = .mmas → q.blk0.toNat = bytes a 32) ∧
          (op = .mepi → q.blk1.toNat = bytes a 64) ∧ (op = .mma ∨ op = .mmas → imm.testBit 7 = true → q.blk1.toNat = bytes b 64) ∧
          exec i s = .next (finished (u.modTile g fun t =>
            let t := viewsAfter op q.blk0 (if blocks = [] then t else { t with units := { t.units with ls1 := t.xcyc + 1 } })
            produced k.tp { t with emat := { t.emat with waiting := t.emat.waiting ++ [q] } }) g .x 2)))

/-- R262, R434, R435: `XFNC` and `DRAIN` wait in no engine queue. An `XFNC` level that its stream does not reach receives cause 0x0B. An `XFNC` of
LEVEL 1 or 2 takes with it the X-cycle by which the windows of its level's earlier stores close (R263). -/
def Obligations.FenceAndDrainCommandsIssue : Prop :=
  ∀ (s : State) (g : BitVec 8) (st : Stream) (k : ETok) (level : BitVec 2) (mask : BitVec 5),
    let u := opened s g st
    let t := u.tile g
    let reaches := (st = .a ∧ level = 3) ∨ (st = .x ∧ (level = 1 ∨ level = 2))
    s.cur = .stream g st →
    (¬ reaches → exec (.xfnc k level) s = .next (trapped u g st { code := 0x0B })) ∧
    (waits t k.tp = true → ∃ v, exec (.drain k mask) s = .next v ∧ Stalled u v g) ∧
    (waits t k.tp = false →
      (reaches → ∃ c, Fresh c t st .xfnc k (match level.toNat with
          | 1 => BitVec.ofNat 64 t.stClose
          | 2 => BitVec.ofNat 64 t.stCloseC
          | _ => 0) 0 0 level.toNat ∧
        exec (.xfnc k level) s = .next (finished (u.modTile g fun t => Tile.acceptLoose { produced k.tp t with loose := t.loose ++ [c] }) g st 2)) ∧
      ∃ c, Fresh c t st .drain k 0 0 0 mask.toNat ∧
        exec (.drain k mask) s = .next (finished (u.modTile g fun t => Tile.acceptLoose { produced k.tp t with loose := t.loose ++ [c] }) g st 2))

namespace Sys2Proof.Says
open Sys2Proof.Machine

/-- A request instruction of the firmware finds its descriptor of `n` bytes: its register is clean and aligned, no request of the
tile is under way, no claim is outstanding; `u` is the state in which the A-stream's earlier stores are performed, `d` the
descriptor at its home then (R470 step 1). -/
def Descriptor (s : State) (g : BitVec 8) (r : R5) (n : Nat) (u : State) (va : W64) (pa : Nat) (leaf : BitVec 128) (d : Nat) : Prop :=
  s.cur = .stream g .a ∧ scalar (s.tile g) .a r = (va, false) ∧ va.toNat % n = 0 ∧ (s.tile g).dcReq = none ∧ (s.tile g).claims = [] ∧
    u = (s.dirtyBack g).drainDie (dieOf g) ∧ Reaches u g va .read pa leaf ∧ Reaches u g va .write pa leaf ∧
    leNat (u.readHome leaf pa n).1 = d

/-- The result of a request stands in the descriptor at its home, as the fields from bit `lo` on. -/
def Answered (t : State) (pa : Nat) (leaf : BitVec 128) (n lo w v : Nat) : Prop :=
  leNat (t.readHome leaf pa n).1 / 2 ^ lo % 2 ^ w = v

/-- The results of a die controller are written through translations of context 0 that pass, onto a page with no L1D copies. -/
def Writable (u : State) (va : W64) (pa : Nat) (leaf : BitVec 128) : Prop :=
  u.xlateNow 0 va .write = .ok pa leaf ∧ leafPeer leaf = false ∧ leafCoh leaf ≠ 2 ∧
    (Tab.get? u.lineKey (pa / 64) = none ∨ Tab.get? u.lineKey (pa / 64) = u.keyId (leafKey leaf))

/-- What a `BRKX` does to slot `j` of tile `u` (R475), with its STATUS and OLD; `w`, `st` and `halt` come from the descriptor. -/
def brkxDoes (s t : State) (u : BitVec 8) (op : BitVec 2) (j : BitVec 3) (st : Stream) (w : Pc) (halt : Bool) (status : Nat) (old : W32) : Prop :=
  let b := vget (s.tile u).brk BrkSlot.reset j
  let c := vget (t.tile u).brk BrkSlot.reset j
  let here := s.imemWord u st w
  let mine := (s.tile u).stop = some (.breakpoint j)
  (op = 0 → b.valid = false → c = { valid := true, stream := st, word := w, halt := halt, disp := here } ∧
    t.imemWord u st w = patchWord j.toNat ∧ status = 0 ∧ old = here) ∧
  (op = 0 → b.valid = true → c = b ∧ t.imemWord u st w = here ∧ status = 2) ∧
  (op = 1 → b.valid = true → c = { b with valid := false } ∧ status = 0 ∧ old = s.imemWord u b.stream b.word ∧
    t.imemWord u b.stream b.word = if old = patchWord j.toNat then b.disp else old) ∧
  (op = 1 → b.valid = false → c = b ∧ status = 3) ∧
  (op = 2 → mine → (t.tile u).stop = none ∧ ((t.tile u).csr b.stream).skip = true ∧ status = 0) ∧
  (op = 2 → ¬ mine → (t.tile u).stop = (s.tile u).stop ∧ status = 5) ∧
  (op = 3 → c = b ∧ old = b.disp ∧ status = if mine then 4 else if b.valid = true then 0 else 3)

end Sys2Proof.Says

/-- R296, R297, R470, R471: a `CAPTURE` of a tile that runs an item, is no cohort member and has room in the image area decides the
capture: the target's clock stops and it returns to class 0, and the A-stream waits. A target without a context, the
issuing tile and a reserved bit are answered at once. -/
def Obligations.CaptureDecidesOrAnswers : Prop :=
  ∀ (s u : State) (g : BitVec 8) (r : R5) (va : W64) (pa : Nat) (leaf : BitVec 128) (d : BitVec 512),
    let tgt : BitVec 8 := d.extractLsb' 0 8
    let x := u.tile tgt
    let rsvd := d.extractLsb' 384 24 ≠ 0 ∨ d.extractLsb' 9 375 ≠ 0
    Descriptor s g r 64 u va pa leaf d.toNat →
    (¬ rsvd → x.ctx ≠ none → x.ist = .running → x.capturing = none → x.cohort = none → tgt ≠ g →
      u.imageNeed tgt false ≤ u.imageRoom (dieOf tgt) → u.railsOff = false →
      ∃ t, exec (.capture r) s = .next t ∧
        (t.tile tgt).capturing = some { handle := dieOf tgt ++ BitVec.ofNat 30 u.nextId, drop := d.getLsbD 8, firmware := true } ∧
        (t.tile tgt).sclass = 0 ∧ (t.tile tgt).areg = x.areg ∧ t.mem = u.mem ∧
        (t.tile g).dcReq = some (.capture va) ∧ (t.tile g).apc = (u.tile g).apc ∧ t.cur = .stream g .a) ∧
    (Writable u va pa leaf → ∀ status : Nat,
      (if rsvd then status = 8 else if x.ctx = none ∨ x.ist = .none ∨ x.ist = .given then status = 1 else tgt = g ∧ status = 2) →
      ∃ t, exec (.capture r) s = .next t ∧ Answered t pa leaf 64 408 8 status ∧ (t.tile g).dcReq = none ∧ t.cur = .none ∧
        (t.tile g).apc = (u.tile g).apc + 1 ∧ (t.tile g).areg = (u.tile g).areg)

/-- R296, R297, R299, R470: CAPTURE_COMPLETE of a tile without a cohort group: its image stands in the image area with the tile's registers,
the tile is free, and the A-stream that waits for it issues its next word. -/
def Obligations.CaptureCompletes : Prop :=
  ∀ (s : State) (u : BitVec 8) (x : Capturing),
    let c := (s.tile u).ctx.getD 0
    s.railsOff = false → (s.tile u).capturing = some x → (s.tile u).cohort = none → (s.ctx? c).isSome = true →
    ∃ (t : State) (i : Image), exec (.captureComplete u) s = .next t ∧ Tab.get? t.images x.handle.toNat = some i ∧
      i.srctile = u ∧ i.ctx = c ∧ i.dropped = x.drop ∧ i.firmware = x.firmware ∧ i.tilerev = Config.tileRev u ∧ i.scanmap = Config.scanMap u ∧
      i.tile.areg = (s.tile u).areg ∧ i.tile.xreg = (s.tile u).xreg ∧ i.tile.k = (s.tile u).k ∧ i.tile.apc = (s.tile u).apc ∧
      i.tile.xpc = (s.tile u).xpc ∧ i.tile.z = (s.tile u).z ∧ (x.drop = false → i.tile.v = (s.tile u).v) ∧
      (t.tile u).ist = .none ∧ (t.tile u).capturing = none ∧ (t.tile u).stop = none ∧
      ∀ (g : BitVec 8) (va : W64), g ≠ u → s.requests = [(g.toNat, .capture va)] → (s.tile u).claims = [] → (s.tile u).relPend = [] →
        (∀ h, s.chan (dieOf u) h = []) → BitVec.ofNat 8 (s.descNow va 64) = u →
        (t.tile g).dcReq = none ∧ (t.tile g).apc = (s.tile g).apc + 1 ∧ (t.tile g).areg = (s.tile g).areg

/-- R300, R301, R470, R471: a `RESTORE` of an image without a cohort group onto a free tile of the same revision, with its key still in
its slot, gives the tile the image's registers and instruction streams, erases the image unless DROP keeps it, and gives d the
status 0; an unknown handle gives d the status 4. -/
def Obligations.RestoreResumesAnImage : Prop :=
  ∀ (s u : State) (g : BitVec 8) (dst r : R5) (va : W64) (pa : Nat) (leaf : BitVec 128) (d : BitVec 512),
    let tgt : BitVec 8 := d.extractLsb' 0 8
    let h : BitVec 32 := d.extractLsb' 480 32
    let ok := d.extractLsb' 384 24 = 0 ∧ d.extractLsb' 9 375 = 0
    Descriptor s g r 64 u va pa leaf d.toNat → ok →
    (∀ i, Tab.get? u.images h.toNat = some i → i.members = [] → i.hbm = none → tgt ≠ g → (u.tile tgt).ist = .none → (u.tile tgt).stop = none →
      (u.tile tgt).capturing = none → i.tilerev = Config.tileRev tgt → i.scanmap = Config.scanMap tgt → i.tagOk = true →
      u.keyId i.key = some i.keyId → (u.ctx? i.ctx).map (·.key) = some i.key → i.clu = false →
      ∃ t, exec (.restore dst r) s = .next t ∧ (t.tile g).rdA dst = (0, false) ∧ (t.tile g).apc = (u.tile g).apc + 1 ∧ t.cur = .none ∧
        (t.tile tgt).ctx = i.tile.ctx ∧ (t.tile tgt).areg = i.tile.areg ∧ (t.tile tgt).xreg = i.tile.xreg ∧ (t.tile tgt).v = i.tile.v ∧
        (t.tile tgt).apc = i.tile.apc ∧ (t.tile tgt).xpc = i.tile.xpc ∧ (t.tile tgt).ist = i.tile.ist ∧
        (d.getLsbD 8 = false → Tab.get? t.images h.toNat = none)) ∧
    (Tab.get? u.images h.toNat = none →
      ∃ t, exec (.restore dst r) s = .next t ∧ (t.tile g).rdA dst = (if dst = 0 then 0 else 4, false) ∧ (t.tile g).apc = (u.tile g).apc + 1)

/-- R473 to R475: `BRKX` on a tile that runs a context performs its operation, with STATUS and OLD in the descriptor; BRKX_SET, BRKX_CLEAR,
BRKX_RESUME and BRKX_QUERY perform one that waited, and the A-stream that issued it goes on. -/
def Obligations.BreakpointOperations : Prop :=
  ∀ (s u : State) (g : BitVec 8) (r : R5) (va : W64) (pa : Nat) (leaf : BitVec 128) (d : BitVec 256),
    let tgt : BitVec 8 := d.extractLsb' 41 8
    let op : BitVec 2 := d.extractLsb' 36 2
    let j : BitVec 3 := d.extractLsb' 38 3
    let st : Stream := if d.getLsbD 49 then .x else .a
    let w : Pc := d.extractLsb' 50 14
    let b := vget (u.tile tgt).brk BrkSlot.reset j
    let free (op : BitVec 2) := (op = 0 → (u.tile tgt).locked st w = false) ∧ (op = 1 → (u.tile tgt).locked b.stream b.word = false)
    tgt ≠ g → (u.tile tgt).ctx.isSome = true → d.extractLsb' 160 64 = 0 → d.extractLsb' 64 88 = 0 → d.extractLsb' 0 35 = 0 →
    Writable u va pa leaf → free op → spadBase 0 > pa + 32 →
    (Descriptor s g r 32 u va pa leaf d.toNat → u.requests = [] →
      ∃ t status old, exec (.brkx r) s = .next t ∧ brkxDoes u t tgt op j st w (d.getLsbD 35) status old ∧
        Answered t pa leaf 32 152 8 status ∧ Answered t pa leaf 32 224 32 old.toNat ∧
        (t.tile g).apc = (u.tile g).apc + 1 ∧ t.cur = .none) ∧
    ((u.tile g).dcReq = some (.brkx va) → u.descNow va 32 = d.toNat →
      ∃ t status old, exec (if op = 0 then .brkxSet g else if op = 1 then .brkxClear g else if op = 2 then .brkxResume g else .brkxQuery g) u = .next t ∧
        brkxDoes u t tgt op j st w (d.getLsbD 35) status old ∧ Answered t pa leaf 32 152 8 status ∧ Answered t pa leaf 32 224 32 old.toNat ∧
        (t.tile g).apc = (u.tile g).apc + 1 ∧ (t.tile g).dcReq = none)

namespace Sys2Proof.Says
open Sys2Proof.Machine

/-- A register of an interpreter: `g0` reads as zero and discards writes (R81). -/
def greg (x : Interp) (r : K4) : W64 := if r = 0 then 0 else vget x.g 0 r
def gput (x : Interp) (r : K4) (v : W64) : Interp := if r = 0 then x else { x with g := vset x.g r v }

/-- The state in which unit `k` has executed a word that leaves the interpreter `x` and goes on `d` words further; at the end of a
loop's body the next trip begins (R82, R84). -/
def ran (s : State) (k : BitVec 4) (x : Interp) (d : Nat) : State :=
  s.setUnit k ({ x with steps := x.steps + 1 }.goto (x.pc + d))

/-- R82: register operations, and operations with a sign-extended immediate. -/
def queueOps : List ((K4 → K4 → K4 → Instr) × (W64 → W64 → W64)) :=
  [(.qadd, fun a b => a + b), (.qsub, fun a b => a - b), (.qand, fun a b => a &&& b), (.qor, fun a b => a ||| b), (.qxor, fun a b => a ^^^ b),
   (.qshl, fun a b => BitVec.ofNat 64 (a.toNat * 2 ^ (b.toNat % 64))), (.qshr, fun a b => BitVec.ofNat 64 (a.toNat / 2 ^ (b.toNat % 64)))]
def queueImms : List ((K4 → K4 → BitVec 18 → Instr) × (W64 → W64 → W64)) :=
  [(.qaddi, fun a b => a + b), (.qandi, fun a b => a &&& b), (.qori, fun a b => a ||| b)]

/-- R82: the forward branches. -/
def queueBranches : List ((K4 → K4 → BitVec 18 → Instr) × (W64 → W64 → Bool)) :=
  [(.qbeq, fun a b => a == b), (.qbne, fun a b => a != b), (.qbltu, fun a b => decide (a.toNat < b.toNat))]

/-- The place that a window access names (R82): the offset wraps in the window and is aligned to the access. -/
def placeIn (w : Window) (v : W64) (o : BitVec 13) (n : Nat) : Nat :=
  let e := (v.toNat + o.toNat) % 2 ^ w.log2size
  e - e % n

end Sys2Proof.Says

/-- R81, R82, R84: a word of a queue program computes, branches forward or enters a loop, and counts one step; the 257th step is not
executed and halts the queue with status 0x16. -/
def Obligations.QueueProgramWordsCompute : Prop :=
  ∀ (s : State) (k : BitVec 4) (d a b : K4) (v : BitVec 18) (n c : BitVec 6) (body : BitVec 9),
    let x := s.unit k
    s.cur = .interp k → x.running = true →
    (x.steps < 256 →
      (∀ e ∈ queueOps, exec (e.1 d a b) s = .next (ran s k (gput x d (e.2 (greg x a) (greg x b))) 1)) ∧
      (∀ e ∈ queueImms, exec (e.1 d a v) s = .next (ran s k (gput x d (e.2 (greg x a) (v.signExtend 64))) 1)) ∧
      exec (.qshli d a n) s = .next (ran s k (gput x d (BitVec.ofNat 64 ((greg x a).toNat * 2 ^ n.toNat))) 1) ∧
      exec (.qshri d a n) s = .next (ran s k (gput x d (BitVec.ofNat 64 ((greg x a).toNat / 2 ^ n.toNat))) 1) ∧
      exec (.qmovi d v) s = .next (ran s k (gput x d (v.signExtend 64)) 1) ∧
      (∀ e ∈ queueBranches, exec (e.1 a b v) s = .next (ran s k x (if e.2 (greg x a) (greg x b) = true then v.toNat else 1))) ∧
      exec (.qloop c body) s = .next (ran s k { x with loops := (x.pc + 1, x.pc + 1 + body.toNat, c.toNat) :: x.loops } 1)) ∧
    (∀ p, x.packet = some p → 256 ≤ x.steps → ∀ i ∈ [Instr.qadd d a b, .qld d a 0 0 0, .qst d a 0 0 0, .qloop c body, .qdisp, .qdrop 0],
      exec i s = .next ((s.setUnit k Interp.reset).haltPacket p 0x16 x.header false))

/-- R80, R82, R84: loads and stores through a window of a queue program: the packet buffer, the queue's scratch, device memory in the
queue's context and host memory of the queue's function (a fault, poison or an error of the host halts the queue with status 0x18).
Stores beyond the packet are discarded. -/
def Obligations.QueueProgramWindows : Prop :=
  ∀ (s : State) (k : BitVec 4) (d a : K4) (wn : BitVec 3) (z : BitVec 2) (o : BitVec 13) (p : Packet) (prog : Program) (w : Window),
    let x := s.unit k
    let n := 2 ^ z.toNat
    let e := placeIn w (greg x a) o n
    let va := w.base + BitVec.ofNat 64 e
    let q := s.queue p.queue
    let bytes := leBytes n (greg x d).toNat
    let value (l : List Byte) := BitVec.ofNat 64 (leNat l)
    s.cur = .interp k → x.running = true → x.steps < 256 → x.packet = some p → x.prog = some prog →
    prog.windows[wn.toNat]? = some w →
    (w.kind = 0 →
      exec (.qld d a wn z o) s = .next (ran s k (gput x d (value (Mem.gets x.buf e n))) 1) ∧
      exec (.qst d a wn z o) s = .next (ran s k (if e + n ≤ 64 * p.len then { x with buf := Mem.puts x.buf e bytes } else x) 1)) ∧
    (w.kind = 1 →
      exec (.qld d a wn z o) s = .next (ran s k (gput x d (value (Mem.gets q.scratch e n))) 1) ∧
      exec (.qst d a wn z o) s = .next (ran (s.modQueue p.queue fun q => { q with scratch := Mem.puts q.scratch e bytes }) k x 1)) ∧
    (w.kind = 2 →
      (∀ l, s.devRead q.ctx va n = some l → (∀ b ∈ l, b.2 = false) →
        exec (.qld d a wn z o) s = .next (ran s k (gput x d (value (l.map (·.1)))) 1)) ∧
      (s.devRead q.ctx va n = none → exec (.qld d a wn z o) s = .next ((s.setUnit k Interp.reset).haltPacket p 0x18 x.header false)) ∧
      (∀ l, s.devRead q.ctx va n = some l → (∃ b ∈ l, b.2 = true) →
        exec (.qld d a wn z o) s = .next ((s.setUnit k Interp.reset).haltPacket p 0x18 x.header true)) ∧
      (s.devWritable q.ctx va n = true →
        exec (.qst d a wn z o) s = .next (ran (s.devWrite q.ctx va (bytes.map fun b => (b, false))) k x 1)) ∧
      (s.devWritable q.ctx va n = false →
        exec (.qst d a wn z o) s = .next ((s.setUnit k Interp.reset).haltPacket p 0x18 x.header false))) ∧
    (w.kind = 3 → s.hostFails = false →
      exec (.qld d a wn z o) s = .next (ran s k (gput x d (value (s.hostRead (s.queueFn p.queue) va n))) 1) ∧
      exec (.qst d a wn z o) s = .next (ran (s.hostWrite (s.queueFn p.queue) va bytes) k x 1)) ∧
    (w.kind = 3 → s.hostFails = true → ∀ i ∈ [Instr.qld d a wn z o, .qst d a wn z o],
      exec i s = .next (({ s with hostFails := false }.setUnit k Interp.reset).haltPacket p 0x18 x.header false))

/-- R72, R82, R84: `QDISP` dispatches the buffer as the program leaves it, or halts the queue with the status of its header's first
failed check, or with 0x19 for a PAD or a type from 0x80; `QDROP` completes the packet with status 1 and its code. -/
def Obligations.QueueProgramsEnd : Prop :=
  ∀ (s : State) (k : BitVec 4) (c : BitVec 16) (p : Packet),
    let x := s.unit k
    let q := s.queue p.queue
    let head : W64 := BitVec.ofNat 64 (leNat (Mem.gets x.buf 0 8))
    let check := headerCheck x.prog.isSome q.src x.ringN p.count (BitVec.ofNat 512 (leNat (Mem.gets x.buf 0 64)))
    let odd := 0x80 ≤ (hdrType head).toNat ∨ hdrType head = 1
    let sent (len : Nat) : Packet := { p with words := toWords (Mem.gets x.buf 0 (64 * len)) }
    let s1 := s.setUnit k { x with steps := x.steps + 1 }
    s.cur = .interp k → x.running = true → x.steps < 256 → x.packet = some p →
    (check ≠ 0 → exec .qdisp s = .next ((s1.setUnit k Interp.reset).haltPacket p check head false)) ∧
    (check = 0 → odd → exec .qdisp s = .next ((s1.setUnit k Interp.reset).haltPacket p 0x19 head false)) ∧
    (check = 0 → ¬ odd → (sent (hdrLen head)).header = head → hdrType head ≠ 5 →
      exec .qdisp s = .next (s1.setUnit k { Interp.reset with packet := some (sent (hdrLen head)), ready := true })) ∧
    exec (.qdrop c) s = .next ((s.setUnit k Interp.reset).complete (sent p.len) 1 (c.setWidth 64))

/-- R332 to R334, R173: a word that a check of R332 refuses raises the cause of the first check that fails, and has no other effect. An
all-zero word is illegal. The commands of the copy, gather, collective and Saltern engines in the X-stream, and those of
the matrix engine in the A-stream, receive cause 0x02. -/
def Obligations.RefusedWordsRaiseTheirCause : Prop :=
  ∀ (s : State) (g : BitVec 8) (st : Stream) (w0 w1 : W32) (c : Cause) (i : Instr),
    s.cur = .stream g st →
    (decodeIssue w0 w1 st ((s.tile g).ctx == some 0) = .error c →
      exec (.illegalInstruction w0 w1) s = .next (trapped (opened s g st) g st { code := c })) ∧
    exec (.illegalInstruction 0 w1) s = .next (trapped (opened s g st) g st { code := 0x00 }) ∧
    (st = .x → (engineForm i).isSome = true → exec i s = .next (trapped (opened s g .x) g .x { code := 0x02 })) ∧
    (st = .a → (matrixForm i).isSome = true → exec i s = .next (trapped s g .a { code := 0x02 }))

/-- R290 to R292, R173: a cause of disposition D that a stream's word raises with its handler set and not running goes to the handler: TREC holds
the trap record, TEPC the faulting word's PC, TSTAT.IN is 1, and the PC is TVEC. Registers, memory and the other stream
are unchanged. -/
def Obligations.TakingACauseEntersTheHandler : Prop :=
  ∀ (s : State) (g : BitVec 8) (st : Stream) (c : Cause),
    let other : Stream := if st = .a then .x else .a
    let a := s.tile g
    let t := trapped s g st { code := c }
    let b := t.tile g
    let r := (b.csr st).trec
    dispOf c = .d → consumesPoison c = false → (a.csr st).tvec ≠ 0 → (a.csr st).tin = false →
    (b.csr st).tepc = a.pc st ∧ (b.csr st).tin = true ∧ b.pc st = (a.csr st).tvec ∧ (b.csr st).tvec = (a.csr st).tvec ∧
    r.extractLsb' 0 7 = c ∧ r.extractLsb' 67 1 = (if st = .a then 0 else 1) ∧ r.extractLsb' 68 3 = 0 ∧ r.extractLsb' 71 16 = a.ctx.getD 0 ∧
    r.extractLsb' 87 8 = g ∧ r.extractLsb' 100 14 = a.xpc ∧ r.extractLsb' 114 14 = a.apc ∧ r.extractLsb' 128 64 = (0 : W64) ∧
    r.extractLsb' 192 32 = a.tkMask ∧ r.extractLsb' 224 32 = a.esalt.seq ∧ r.extractLsb' 256 32 = a.ecoll.seq ∧
    r.extractLsb' 288 32 = a.emat.seq ∧ r.extractLsb' 320 32 = a.egath.seq ∧ r.extractLsb' 352 32 = a.ecopy.seq ∧
    r.extractLsb' 384 64 = a.cyc ∧ r.extractLsb' 448 64 = s.devtime ∧ r.extractLsb' 7 59 = (0 : BitVec 59) ∧
    t = { s with tiles := t.tiles } ∧ (∀ h, h ≠ g → t.tile h = s.tile h) ∧ b.csr other = a.csr other ∧ b.pc other = a.pc other ∧
    b.areg = a.areg ∧ b.xreg = a.xreg ∧ b.apois = a.apois ∧ b.xpois = a.xpois ∧ b.v = a.v ∧ b.k = a.k ∧ b.z = a.z ∧ b.flags = a.flags ∧
    b.fctl = a.fctl ∧ b.fstat = a.fstat ∧ b.q = a.q ∧ b.tk = a.tk ∧ b.l1 = a.l1 ∧ b.pend = a.pend ∧
    b.xcyc = a.xcyc + (if st = .x then 2 else 0)

/-- R289, R293 to R295: a cause that the handler does not take (TVEC is 0, the handler is running, or its disposition is C or E) with no
checkpoint to return to ends the context: its tiles are free, its queues are disabled, it leaves the package (but for firmware
context 0), and an error record of the cause waits. -/
def Obligations.CausesThatEndTheContext : Prop :=
  ∀ (s : State) (g : BitVec 8) (st : Stream) (c : Cause),
    let a := s.tile g
    let x := a.ctx.getD 0
    let t := trapped s g st { code := c }
    c ≠ 0x53 → (dispOf c ≠ .d ∨ (a.csr st).tvec = 0 ∨ (a.csr st).tin = true) → (dispOf c = .e → s.rollsBack x = false) → a.ctx.isSome = true →
    (s.ring errRing).waiting.length < 64 →
    (∀ h, (s.tile h).ctx = some x → (t.tile h).ctx = none ∧ (t.tile h).ist = .none ∧ (t.tile h).sclass = 0) ∧
    (∀ q, (s.queue q).ctx = x → (t.queue q).en = false) ∧ (x ≠ 0 → t.ctx? x = none) ∧
    (∃ w, w ∈ (t.ring errRing).waiting ∧ ∃ e : ErrRec, e.cause = some c ∧ e.ended = true ∧ e.ctx = x ∧ e.apc = a.apc ∧ e.xpc = a.xpc ∧
      w.bits = e.bits s.devtime)

/-- R97, R164, R290, R295, R312, R313, R316, R317, R456: what the events of errors, checkers, counters and debug do, each where its rule says that
it happens. -/
def Obligations.ErrorAndDebugEvents : Prop :=
  ∀ (s : State) (g : BitVec 8) (st : Stream) (j : BitVec 3) (r : RegName) (c : Ctx) (fn : BitVec 8),
    let t := s.tile g
    let wrapped : Stream := if (vget t.pmsel 0 j).getLsbD 9 = true then .x else .a
    let up := s.railsOff = false ∧ t.live = true
    exec .debugPortEnable s = .next { s with debug := true } ∧
    (s.debug = true → up → exec (.debugHaltRequest g st) s = .next (s.takeCause g st { code := 0x70 })) ∧
    (s.debug = false → exec (.debugHaltRequest g st) s = .next s) ∧
    exec (.checkerMismatchReplay g (some st) false) s = .next s ∧
    (up → exec (.checkerMismatchReplay g (some st) true) s = .next (s.takeCause g st { code := 0x40 })) ∧
    (∀ m l, up → t.emat.running = m :: l →
      exec (.checkerMismatchReplay g none true) s = .next (s.takeCause g .x { code := 0x42, engine := some .matrix, seq := m.seq })) ∧
    (∀ b : R5, (∃ e l, t.alogOps = e :: l ∧ RegName.a b ∈ e.reads) → exec (.registerRegeneration g (.a b) false) s = .next s) ∧
    (up → exec (.registerRegeneration g r true) s = .next (s.takeCause g (match r with | .a _ => .a | _ => .x) { code := 0x41 })) ∧
    (up → s.queueStalled g .x = true → s.queueStalled g .a = true ∨ t.astep = true →
      exec (.queueDeadlock g) s = .next (s.takeCause g .x { code := 0x5E })) ∧
    (up → s.queueStalled g .x = false → s.queueStalled g .a = true → t.xstep = true →
      exec (.queueDeadlock g) s = .next (s.takeCause g .a { code := 0x5E })) ∧
    (up → (t.pmwrap.find? fun k => t.wrapStream k == wrapped) = some j → (t.csr wrapped).tin = false →
      exec (.performanceCounterWrap g j) s = .next ((s.setTile g { t with pmwrap := t.pmwrap.erase j }).takeCause g wrapped { code := 0x71 })) ∧
    exec .errorRecordWrite s = .next (s.writeRecord 1024) ∧
    exec .errLostClear s = .next { s with errOvf := false, errLost := 0 } ∧
    (∀ d, s.ctx? d = some c →
      exec (.contextEnd d fn) s = .next ((s.raiseErr { ctx := d, srcId := fn.setWidth 16, srcKind := 9, sev := 3, cause := some 0x73, ended := true }).endContext d 0x73)) ∧
    (s.railsOff = true → ∃ t, exec .powerReturn s = .next t ∧ t.railsOff = false ∧ t.tiles = [] ∧
      (∀ a, 2 ^ 50 ≤ a → a < 2 ^ 51 → ∀ x, (a, x) ∉ t.mem) ∧
      ∀ h d, (s.tile h).ctx = some d → d ≠ 0 → t.ctx? d = none)

/-- R4, R16 to R20, R22 to R24, R30, R90, R314, R479, R480: what the events of device memory, of the CXL ports and of the board's registers do.
A line with 1 to 4 symbol errors is corrected; with 5 to 12 it is poisoned and recorded; a patrol scrub moves to the
next line of its stack. -/
def Obligations.DeviceMemoryAndBoardEvents : Prop :=
  ∀ (s : State) (pa : BitVec 48) (de : BitVec 512) (ce : BitVec 128) (m : BitVec 64) (v : BitVec 512) (k : BitVec 3) (p : BitVec 2) (fn : BitVec 8)
    (off : BitVec 30) (vec : BitVec 11) (val : W64),
    let err : BitVec 640 := ce ++ de
    let line := pa.toNat / 64
    let n := (rsErrors err).length
    let x := vget s.cxl Cxl.reset p
    let f := s.fn fn
    let va : W64 := f.w2va ++ off
    let mine := s.recovery = false ∧ f.w2en = true ∧ va.extractLsb' 55 9 = 0 ∧ (if fn = 0 then f.w2ctx = 0 else s.fnNames fn f.w2ctx = true)
    let fails (sev : BitVec 2) := s.raiseErr { addr := va, ctx := f.w2ctx, srcId := fn.setWidth 16, srcKind := 9, sev := sev, aKind := 2 }
    let bad := { s with poison := insNat s.poison line }
    exec (.hbmLineRead pa 0 0) s = .next s ∧
    (pa.toNat < 2 ^ 39 → 1 ≤ n → n ≤ 4 → let c := vget s.corrected (0, 0) (stackOf (64 * line))
      exec (.hbmLineRead pa de ce) s = .next { s with corrected := vset s.corrected (stackOf (64 * line)) (c.1 + 1, c.2 + 1) }) ∧
    (pa.toNat < 2 ^ 39 → 5 ≤ n → n ≤ 12 → exec (.hbmLineRead pa de ce) s = .next (bad.raiseErr
      { addr := BitVec.ofNat 64 (64 * line), info := BitVec.ofNat 64 (n * 2 ^ 20 + (rsGroups err).toNat), srcId := (stackOf (64 * line)).setWidth 16
        srcKind := 5, sev := 1, aKind := 1 })) ∧
    (pa.toNat < 2 ^ 39 → m ≠ 0 → m ≠ BitVec.allOnes 64 →
      exec (.partialLineMerge pa m v false 0 0) s = .next { s with
        mem := Mem.puts s.mem (64 * line) (lineBytes (mergeLine m v (lineVal (s.rdBytes (64 * line) 64)))) }) ∧
    ((vget s.scrubLine 0 k).toNat < 1023 → exec (.patrolScrub k 0 0) s = .next { s with scrubLine := vset s.scrubLine k (vget s.scrubLine 0 k + 1) }) ∧
    ((vget s.scrubLine 0 k).toNat = 1023 → vget s.scrubPos 0 k = BitVec.allOnes 20 → exec (.patrolScrub k 0 0) s = .next { s with
      scrubLine := vset s.scrubLine k 0, scrubPos := vset s.scrubPos k 0, scrubPass := vset s.scrubPass k (vget s.scrubPass 0 k + 1) }) ∧
    exec (.cxlReadComplete pa false false) s = .next s ∧
    (∀ a b, a = true ∨ b = true → 2 ^ 47 ≤ pa.toNat → paMapped pa.toNat = true → exec (.cxlReadComplete pa a b) s = .next (bad.raiseErr
      { addr := BitVec.ofNat 64 (64 * line), srcId := BitVec.ofNat 16 ((pa.toNat - 2 ^ 47) / 2 ^ 44), srcKind := 6, sev := 1, aKind := 1 })) ∧
    (∀ w ∈ [16, 8, 4], ∀ r ∈ [64, 32], exec (.cxlPortTrain p .type3Direct w r) s = .next { s with
      cxl := vset s.cxl p { x with trained := true, switched := false, width := w, rate := r } }) ∧
    (x.trained = true → ∀ b z, b + z ≤ 2 ^ 42 → x.capacity + z ≤ 2 ^ 42 → s.cxlCapacity + z ≤ 2 ^ 43 → exec (.cxlExtentAdded p b z) s = .next { s with
      cxl := vset s.cxl p { x with extents := x.extents ++ [(b, z)] }, out := .extent p b z :: s.out }) ∧
    (∀ z, ¬ mine ∨ s.ncRead f.w2ctx va z = none →
      exec (.bar2WindowRead fn off z) s = .next ((fails 3).emit (.bar2 fn (List.replicate z 0xFF)))) ∧
    (∀ z l u, mine → s.ncRead f.w2ctx va z = some (l, u) → (∀ b ∈ l, b.2 = false) →
      exec (.bar2WindowRead fn off z) s = .next (u.emit (.bar2 fn (l.map (·.1))))) ∧
    (∀ d, ¬ mine ∨ s.ncWrite f.w2ctx va d = none → exec (.bar2WindowWrite fn off d) s = .next (fails 3)) ∧
    (∀ d u, mine → s.ncWrite f.w2ctx va d = some u → exec (.bar2WindowWrite fn off d) s = .next u) ∧
    (s.recovery = false → s.frozen fn = false → exec (.msixVectorUnmask fn vec) s = .next
      (let t := s.setFn fn { f with unmasked := insNat f.unmasked vec.toNat, pba := delNat f.pba vec.toNat }
       if vec.toNat ∈ f.pba then { t with out := .msix fn vec :: t.out } else t)) ∧
    (s.recovery = false → (∀ q ∈ s.ports.toList, q.en = false) →
      exec (.registerWrite 0 0x180000 8 val) s = .next { s with pkgid := val.setWidth 12 }) ∧
    (fn ≠ 0 → exec (.registerWrite fn 0x180000 8 val) s = .next s)

/-- R31 to R44, R93, R134, R146, R147: what the events of time, of the Sluice, of gang slices, of a temperature sample and of management do. -/
def Obligations.TimeAndPowerEvents : Prop :=
  ∀ (s : State) (time val : W64) (dom : Byte) (g : BitVec 8) (b : Nat) (t0 t1 t2 t3 : Nat) (svn : BitVec 16),
    let n := s.devtime.toNat / 1000 + 1
    let t := s.tile g
    let off := (time - s.devtime).toInt
    let temps (d : BitVec 2) : Nat := if d = 0 then t0 else if d = 1 then t1 else if d = 2 then t2 else t3
    let hotter (x : Nat) : Prop := x ≤ t0 ∨ x ≤ t1 ∨ x ≤ t2 ∨ x ≤ t3
    let units (c : Nat) : Nat := 6 * c + 2
    let ask (f : Tile → Tile) : State := s.modTile g f
    let ticked : State := { s with devtime := BitVec.ofNat 64 (1000 * n), tickcnt := BitVec.ofNat 64 n
                                   rings := s.rings.map fun e => (e.1, { e.2 with timer := e.2.timer.map (· - 1) }) }
    let quiet := n % 1000 ≠ 0 ∧ (∀ e ∈ s.queues, e.2.waitge = none) ∧ ∀ e ∈ s.ctxs, ticked.ckDue e.2 = false
    let due := s.gangArmed = true ∧ s.gangTime.toNat ≤ ticked.devtime.toNat
    (quiet → ¬ due → (n % 50 ≠ 0 → exec .tick s = .next ticked) ∧ (n % 50 = 0 → exec .tick s = .next { ticked with
      tSlew := s.tSlew - s.tSlew.sign, tOwe := s.tOwe + s.tSlew.sign })) ∧
    let stepped (u : State) : State := { u.tick with
      devtime := time, tickcnt := BitVec.ofNat 64 (time.toNat / 1000), tSlew := 0, tOwe := 0, tStepped := true }
    (s.tEn = true → dom = s.tDomain → s.tLocked = true →
      exec (.ptpMessage time dom) s = .next { s with tOffset := s.devtime - time, tSlew := off }) ∧
    (s.tEn = false ∨ dom ≠ s.tDomain ∨ s.tLocked = false → exec (.ptpMessage time dom) s = .next s) ∧
    (s.tEn = true → s.tValid = true → exec .holdoverEntry s = .next { s with tHoldover := true, tLocked := false }) ∧
    (s.tEn = true → s.tValid = true → s.tLocked = false →
      let u := { s with tHoldover := false, tLocked := true, tOffset := s.devtime - time }
      exec (.timeRelock time) s = .next (if -1000000 < off ∧ off < 1000000 then { u with tSlew := off } else
        stepped u)) ∧
    (s.tEn = true → s.tValid = false → exec (.timeFirstLock time) s = .next (stepped { s with
      tValid := true, tLocked := true, tHoldover := false, tOffset := s.devtime - time })) ∧
    exec .gangArm s = .next { s with gangArmed := true } ∧
    (s.gangArmed = false ∨ 1000 * n < s.gangTime.toNat → exec .gangSwitch s = .next s) ∧
    (quiet → due → n % 50 ≠ 0 → s.tiles = [] → ∀ i ∈ [Instr.tick, .gangSwitch], exec i s = .next { ticked.switchActive with
      gangArmed := false, gangDone := true }) ∧
    (∀ c : BitVec 6, (vget s.switchActive.tenants Tenant.reset c).active = s.gangSet.getLsbD c.toNat) ∧
    (s.tilesWith (fun t => t.sreq.isSome) = [g] → t.sreq = some b → s.held = none →
      (t.sclass < b → s.hot = false → s.reserved + units b ≤ s.budget.toNat + units t.sclass →
        exec .sluiceWindow s = .next (ask fun t => { t with sclass := b, sreq := none, srefused := 0 })) ∧
      (s.hot = true ∨ s.budget.toNat + units t.sclass < s.reserved + units b → t.sclass < b →
        exec .sluiceWindow s = .next (ask fun t => { t with srefused := t.srefused + 1 }))) ∧
    (s.held = none → s.tilesWith (fun t => t.sreq.isSome && decide (64 ≤ t.srefused)) = [g] →
      exec .sluiceRequestHeld s = .next { s with held := some g, heldAt := s.cy }) ∧
    (exec (.sluiceBudgetWrite val) s = .next { s with
      budget := if s.budgetLock = true then s.budget else BitVec.ofNat 16 (max 512 (min 11264 (val.toNat % 2 ^ 16)))
      budgetLock := s.budgetLock || val.getLsbD 31 }) ∧
    (s.held = none ∨ s.cy < s.heldAt + 4096 → exec .heldRequestPreempt s = .next s) ∧
    (∀ v : BitVec 8, s.railsOff = false → s.held = some g → s.heldAt + 4096 ≤ s.cy → t.sreq = some b → s.budget.toNat + units t.sclass < s.reserved + units b →
      s.tilesWith (fun t => t.capturable && decide (0 < t.sclass)) = [v] → (s.tile v).cohort = none → v ≠ g →
      ∃ u, exec .heldRequestPreempt s = .next u ∧ (u.tile v).sclass = 0 ∧ (u.tile v).capturing.isSome = true ∧ (u.tile v).areg = (s.tile v).areg) ∧
    (∃ u, exec (.temperatureSample t0 t1 t2 t3) s = .next u ∧ (∀ d, (u.die d).temp = temps d) ∧ (u.hot = true ↔ hotter 100) ∧
      (hotter 100 → u.warn = true) ∧ (u.hot110 = true ↔ (s.hot110 = true ∨ hotter 110) ∧ hotter 100) ∧
      (hotter 115 → u.railsOff = true ∧ u.tiles = s.tiles) ∧ (¬ hotter 115 → u.railsOff = s.railsOff) ∧ u.mem = s.mem) ∧
    (s.recovery = false → exec (.managementRequest true .dieTemps) s = .next { s with
      out := .mgmt true (s.dies.toList.map fun d => BitVec.ofNat 64 d.temp) :: s.out }) ∧
    (s.recovery = false → exec (.managementRequest true (.raiseFloor 1 svn)) s = .next { s with
      floorIo := BitVec.ofNat 16 (max s.floorIo.toNat svn.toNat), out := .mgmt true [] :: s.out })

namespace Sys2Proof.Says
open Sys2Proof.Machine

/-- A directory message of code `op` that R52 does not discard stands first on channel `v` of port `pn`, sent by package `who`, in `n` flits; `u` is
the state in which its unit has taken it (R49, R50, R63): a request that is answered keeps its buffer entry (R62). -/
def Arrived (s u : State) (op : Byte) (src : Option (BitVec 12)) (m : DirMsg) (body : List Byte) (pn : BitVec 4) (who : BitVec 12) : Prop :=
  m.op = op ∧ 0 < op.toNat ∧ op.toNat ≤ 8 ∧ m.status.toNat ≤ 9 ∧ m.rsvdBad = false ∧
    ∃ v n, s.findMsg src m body = some (pn, who, v, n, false) ∧ u = if op = 1 ∨ op = 5 then s.takeMsg pn v n else s.consume pn v n

/-- The head of an answer to a message: its code and status, and the request's tag, namespace and name (R50). -/
def reply (op status : Byte) (m : DirMsg) : DirMsg := { mkDir op m.nsid m.name with status := status, tag := m.tag }

/-- An answer can leave towards a package: there is a route, a credit of its channel, and no flit of the channel before it (R62). -/
def CanAnswer (u : State) (who : BitVec 12) (a : DirMsg) : Prop :=
  ∃ po, u.routeTo who (dirFlow a) = some po ∧ 0 < vget (u.port po).cred 0 (dirVc a.op) ∧ ∀ f ∈ (u.port po).txq, Flit.vc f ≠ dirVc a.op

/-- The directory region lies in HBM, and firmware's key slot holds a key (R55, R108). -/
def DirRegion (u : State) : Prop := 512 * u.dirBase.toNat + 512 * 2 ^ u.dirSets.toNat ≤ 2 ^ 39 ∧ (u.keyId 0).isSome = true

end Sys2Proof.Says

/-- R26 to R30, R63: what the events of a peer port do. -/
def Obligations.PeerPortEvents : Prop :=
  ∀ (s : State) (pn : BitVec 4) (f : BitVec 2048),
    let p := s.port pn
    let v := Flit.vc f
    let control := mkFlit 0 s.pkgid 0 0x3F 0 []
    (p.en = true → p.up = false → exec (.peerPortTrained pn) s =
      .next ((s.setPort pn { Port.reset with en := true, up := true, down := p.down, txq := p.txq }).pump pn)) ∧
    (p.en = false ∨ p.up = true → exec (.peerPortTrained pn) s = .next s) ∧
    (p.up = true → Flit.crc f = crc64 (Flit.body f) → Flit.kindOk f = true → Flit.seqNo f = p.rxSeq →
      (Flit.isControl f = true ∨ vget p.occ 0 v + vget p.owed 0 v < vget initCredits 0 v) →
      (∀ x ∈ p.replay, Flit.seqNo x ≠ Flit.ackSeq f) → p.txq = [] → ∃ t, exec (.flitReceive pn f) s = .next t ∧
        (t.port pn).rxbuf = (if Flit.isControl f = true ∨ v = 3 then p.rxbuf else p.rxbuf ++ [f]) ∧
        (t.port pn).rxSeq = p.rxSeq + 1 ∧ (t.port pn).ackSeq = Flit.seqNo f ∧ (t.port pn).replay = p.replay ∧ t.mem = s.mem ∧ t.tiles = s.tiles ∧
        vget (t.port pn).cred 0 (Flit.cvc f) = vget p.cred 0 (Flit.cvc f) + (Flit.cred f).toNat) ∧
    (Flit.crc f ≠ crc64 (Flit.body f) ∨ Flit.seqNo f ≠ p.rxSeq ∨ p.up = false → exec (.flitReceive pn f) s = .next s) ∧
    (p.up = true → p.replay ≠ [] → p.nreplay < 7 → exec (.replayTimeout pn) s = .next { s.setPort pn { p with nreplay := p.nreplay + 1 } with
      out := (p.replay.map fun f => Output.flit pn f).reverse ++ s.out }) ∧
    (p.up = true → p.replay ≠ [] → 7 ≤ p.nreplay → s.dirReqs = [] → p.holds = [] → ∃ t, exec (.replayTimeout pn) s = .next t ∧ (t.port pn).up = false ∧
      (t.port pn).down = true ∧ (t.port pn).en = p.en ∧ (t.port pn).replay = []) ∧
    (p.canSend control = true → (∃ x ∈ p.owed.toList, x ≠ 0) → exec (.creditReturnTimeout pn) s = .next (s.sendFlit pn control)) ∧
    (p.canSend control = false ∨ (∀ x ∈ p.owed.toList, x = 0) → exec (.creditReturnTimeout pn) s = .next s)

/-- R54 to R62: what a home, a holder, a requester and the replication unit of the crystal directory do with a message that has arrived, with a
request that is not answered in time, and with a run that is asked for. -/
def Obligations.DirectoryEvents : Prop :=
  ∀ (s u : State) (src : BitVec 12) (m : DirMsg) (pn : BitVec 4) (who : BitVec 12) (h : Holder) (l : List Holder) (r : DirReq) (data : List Byte) (tag : BitVec 16)
    (parent : BitVec 128) (toks : List (BitVec 32)) (c : BitVec 32),
    (Arrived s u 3 (some src) m [] pn who → m.holders = h :: l → h.valid = true → u.dirEn = true →
      exec (.announce src m) s = .next ((u.dirAnnounce m.nsid m.name m.depth h).pump pn)) ∧
    (DirRegion u → m.nsid ≠ 0 → h.valid = true → u.dirEn = true → (∀ e ∈ u.dirSetOf m.name, e.2.nsid = 0) →
      (u.dirAnnounce m.nsid m.name m.depth h).dirLookup m.nsid m.name none = some (m.depth, [h])) ∧
    (Arrived s u 4 (some src) m [] pn who → m.holders = h :: l → h.valid = true → u.dirEn = true →
      exec (.withdraw src m) s = .next ((u.dirWithdraw m.nsid m.name m.depth h.pkg).pump pn)) ∧
    (∀ a e, DirRegion u → m.depth ≠ 0 → u.dirFind m.nsid m.name = some (a, e) → (∀ x ∈ e.holders, x.2.pkg = h.pkg) → e.holders ≠ [] →
      ((u.dirWithdraw m.nsid m.name m.depth h.pkg).dirGet a).nsid = 0) ∧
    (Arrived s u 4 (some src) m [] pn who → u.dirEn = false → exec (.withdraw src m) s = .next (u.pump pn)) ∧
    (∀ w, Arrived s u 1 (some src) m [] pn who →
      let a := match u.dirLookup m.nsid m.name m.excl with
        | some x => { reply 2 0 m with depth := x.1, holders := x.2 }
        | none => reply 2 1 m
      (∀ x, u.dirLookup m.nsid m.name m.excl = some x → ∀ y ∈ x.2, y.valid = true ∧ some y.pkg ≠ m.excl) ∧
      (CanAnswer u who a → (u.answerTo who a [] none (some pn)).isSome = true) ∧
      (u.answerTo who a [] none (some pn) = some w → exec (.lookup src m) s = .next (w.pump pn))) ∧
    (∀ w, Arrived s u 5 (some src) m [] pn who → u.probe m.nsid m.name = none → u.answerTo who (reply 6 1 m) [] none (some pn) = some w →
      exec (.fetch src m) s = .next (w.pump pn)) ∧
    (∀ b n w, Arrived s u 5 (some src) m [] pn who → u.answerFetch m = (0, b, some n) →
      (u.incRef n).answerTo who { reply 6 0 m with offset := m.offset, length := m.length } b (some n) (some pn) = some w →
      exec (.fetch src m) s = .next (w.pump pn)) ∧
    (Arrived s u 6 none m data pn who → (∀ x ∈ u.dirReqs, x.tag ≠ m.tag) → exec (.fetchR m data) s = .next (u.pump pn)) ∧
    (Arrived s u 6 none m data pn who → u.dirReqs = [r] → r.tag = m.tag → r.op = 5 → m.status = 0 → m.length = r.msg.length → data.length = m.length.toNat →
      exec (.fetchR m data) s = .next ((State.fetchEnd { u with dirReqs := [] } r (some data)).pump pn)) ∧
    (Arrived s u 2 none m [] pn who → u.dirReqs = [r] → r.tag = m.tag → r.op = 1 → r.msg.op = 1 → m.status = 1 →
      exec (.lookupR m) s = .next ((State.modCmd { u with dirReqs := [] } r.tile .salt r.seq fun c => { c with prog := 3 }).pump pn)) ∧
    (∀ w, Arrived s u 7 (some src) m (nameBytes parent ++ (toks.flatMap fun t => leBytes 4 t.toNat) ++ data) pn who → u.ns? m.nsid = none →
      u.answerTo who (reply 8 3 m) [] none none = some w → exec (.replicate src m parent toks data) s = .next (w.pump pn)) ∧
    (∀ a w, Arrived s u 7 (some src) m (nameBytes parent ++ (toks.flatMap fun t => leBytes 4 t.toNat) ++ data) pn who →
      u.takeBlock m parent toks data = some a → a.2.answerTo who (reply 8 a.1 m) [] none none = some w →
      exec (.replicate src m parent toks data) s = .next (w.pump pn)) ∧
    (Arrived s u 8 none m [] pn who → u.dirReqs = [r] → r.tag = m.tag → r.op = 7 → m.status = 0 → u.repl.inflight = some c → u.repl.todo = [] →
      ∃ t, exec (.replicateR m) s = .next t ∧ t.repl.go = false ∧ t.repl.code = 0 ∧ t.repl.count = u.repl.count + 1 ∧ t.repl.inflight = none) ∧
    ((∀ x ∈ s.dirReqs, x.tag ≠ tag) → exec (.directoryRequestTimeout tag) s = .next s) ∧
    (s.dirReqs = [r] → r.tag = tag → s.cy < r.sentAt + 1300000 → exec (.directoryRequestTimeout tag) s = .next s) ∧
    (s.dirReqs = [r] → r.tag = tag → r.sentAt + 1300000 ≤ s.cy → r.op = 1 → r.msg.op = 1 → exec (.directoryRequestTimeout tag) s =
      .next (State.modCmd { s with dirReqs := [] } r.tile .salt r.seq fun c => { c with prog := 3 })) ∧
    (s.repl.go = false → exec .replicationRun s = .next s) ∧
    (∀ bs, let z : State := { s with repl := { s.repl with count := 0 } }
      s.repl.go = true → s.repl.inflight = none → z.devRead 0 s.repl.desc 32 = some bs →
      let d : BitVec 256 := BitVec.ofNat 256 (pNat bs).1
      let g : BitVec 32 := d.extractLsb' 224 32
      (pNat bs).2 = false → d.extractLsb' 0 177 = 0 → d.getLsbD 177 = false → d.extractLsb' 178 2 ≠ 3 → d.extractLsb' 180 12 ≠ s.pkgid →
      z.hRange g = false → z.hStale g = false → (z.node g).st = .sealed → (z.node g).nsid = d.extractLsb' 192 32 →
      (z.ns? (d.extractLsb' 192 32)).map (·.shared) = some true →
      exec .replicationRun s = .next (State.replNext { z with repl := { z.repl with
        todo := [g], target := d.extractLsb' 180 12, tier := d.extractLsb' 178 2 } }))

/-- R93 to R103: what package reset, an image check, an extension of a measurement register, SPDM requests, channel requests and TDISP
requests do. -/
def Obligations.TrustEvents : Prop :=
  ∀ (s : State) (d : BitVec 2) (img : BootImage) (fn : BitVec 8) (nonce : BitVec 256) (kind : SpdmKind) (p : List Byte),
    let num (o n : Nat) : Nat := leNat ((p.drop o).take n)
    let extended (j : BitVec 4) (b : List Byte) : Vector (BitVec 256) 16 :=
      vset s.mreg j (BitVec.ofNat 256 (leNat (sha256 (leBytes 32 (vget s.mreg 0 j).toNat ++ b))))
    let told (t : State) (b : List Byte) : State := { t with out := .spdm fn b :: t.out }
    let vendor (t : State) (b : List Byte) : State := { t with out := .vendor fn 3 Config.vendorId b :: t.out }
    let here := fn = 0 ∨ s.recovery = false
    let noise : State := { s with fresh := s.fresh + 1 }
    let slot : Chan := { chan := BitVec.ofNat 32 (num 4 4), key := BitVec.ofNat 256 (num 24 32), fn := fn, ctx := BitVec.ofNat 16 (num 8 2), lastCtr := BitVec.ofNat 64 (num 16 8) }
    (∃ t, exec .packageReset s = .next t ∧ t.tiles = [] ∧ t.queues = State.reset.queues ∧ t.chans = [] ∧ t.flashA = s.flashA ∧ t.flashB = s.flashB ∧
      t.keyHash0 = s.keyHash0 ∧ t.keyHash1 = s.keyHash1 ∧ t.floorIo = s.floorIo ∧ t.floorDc = s.floorDc ∧ t.debug = false ∧
      (s.copyCode s.flashA = 0 → t.bootB = false ∧ t.recovery = false ∧ t.bootCode = 0) ∧
      (s.copyCode s.flashA ≠ 0 → s.copyCode s.flashB = 0 → t.bootB = true ∧ t.recovery = false ∧ t.bootCode = 0) ∧
      (s.copyCode s.flashA ≠ 0 → s.copyCode s.flashB ≠ 0 → t.recovery = true ∧ t.bootCode = s.copyCode s.flashB)) ∧
    (s.recovery = false → s.dcImage = some img → (∀ k : BitVec 2, k.toNat < d.toNat → (s.die k).fw = true) → (s.die d).fw = false → s.bootCheck 2 img = 0 → exec (.dieRomImageCheck d img) s =
      .next { s.setDie d { s.die d with fw := true } with mreg := extended 1 (sha256 (img.header.take 128)) }) ∧
    (s.bootCheck 2 img ≠ 0 → exec (.dieRomImageCheck d img) s = .next s) ∧
    (s.mextGo = true → 8 ≤ s.mextIdx.toNat → exec .mextGo s = .next { s with mextGo := false, mextCode := 0, mreg := extended s.mextIdx (leBytes 32 s.mextData.toNat) }) ∧
    (s.mextGo = true → s.mextIdx.toNat < 8 → exec .mextGo s = .next { s with mextGo := false, mextCode := 1 }) ∧
    (∀ sign, here → ∃ t sig, exec (.getMeasurements fn nonce sign) s = .next t ∧ t.out = .measurements fn (s.measBlocks fn nonce) sig :: s.out ∧ t.mreg = s.mreg ∧
      (sign = false → sig = [])) ∧
    (∀ j : BitVec 4, (s.measBlocks fn nonce)[j.toNat]? = some { index := j.toNat + 1, vendorDefined := false, value := leBytes 32 (vget s.mreg 0 j).toNat }) ∧
    (∃ v, (s.measBlocks fn nonce)[16]? = some { index := 17, vendorDefined := true, value := v } ∧ (v.drop 32).take 32 = leBytes 32 nonce.toNat) ∧
    (here → ∃ t b, exec (.spdmRequest fn kind) s = .next t ∧ t.out = .spdm fn b :: s.out ∧ (t.fn fn).session = (spdmAct kind (s.fn fn)).session ∧
      (t.fn fn).tdi = (s.fn fn).tdi ∧ (kind = .getCertificate → ∃ pre, b = pre ++ s.certChain)) ∧
    (here → (s.fn fn).session = true → p.length = 56 → num 0 1 = 1 → num 1 1 = 0 → num 2 2 = 52 → (∀ b ∈ (p.drop 10).take 6, b = 0) → (s.fn fn).tdi = .locked ∨ (s.fn fn).tdi = .run →
      s.fnNames fn (BitVec.ofNat 16 (num 8 2)) = true → (∀ c ∈ s.chans, c.fn = fn → c.chan.toNat ≠ num 4 4) → s.chans.length < 256 →
      exec (.chanSet fn true p) s = .next (vendor { s with chans := s.chans ++ [slot] } [1, 0, 0, 0])) ∧
    (here → (s.fn fn).session = true → p.length = 8 → num 0 1 = 2 → num 1 1 = 0 → num 2 2 = 4 → (s.fn fn).tdi = .locked ∨ (s.fn fn).tdi = .run →
      (∃ c ∈ s.chans, c.fn = fn ∧ c.chan.toNat = num 4 4) →
      exec (.chanClear fn true p) s = .next (vendor { s.endCopies (fun f c => f == fn && c == BitVec.ofNat 32 (num 4 4)) with chans := s.chans.filter fun c => !(c.fn == fn && c.chan == BitVec.ofNat 32 (num 4 4)) } [2, 0, 0, 0])) ∧
    (∀ secured, here → secured = false ∨ (s.fn fn).session = false → exec (.chanSet fn secured p) s = .next (vendor s [p.getD 0 0, 0x07, 0, 0])) ∧
    (fn ≠ 0 → here → (s.fn fn).tdi = .unlocked → ∃ b, exec (.lockInterface fn) s = .next (told (noise.setFn fn { s.fn fn with tdi := .locked }) b)) ∧
    (fn ≠ 0 → here → (s.fn fn).tdi = .locked → ∃ b, exec (.startInterface fn) s = .next (told (noise.setFn fn { s.fn fn with tdi := .run }) b)) ∧
    (fn ≠ 0 → here → (s.fn fn).tdi ≠ .locked → ∃ b, exec (.startInterface fn) s = .next (told noise b)) ∧
    (fn ≠ 0 → here → (s.fn fn).tdi = .run → ∃ t, exec (.stopInterface fn) s = .next t ∧ (t.fn fn).tdi = .unlocked ∧ ∀ c ∈ t.chans, c.fn ≠ fn) ∧
    (fn ≠ 0 → (s.fn fn).tdi = .run → ∃ t, exec (.ideIntegrityFailure fn) s = .next t ∧ (t.fn fn).tdi = .error)

namespace Sys2Proof.Says
open Sys2Proof.Machine

/-- The packet of a TYPE that unit `u` has passed to dispatch, and that may start now (R73, R74). -/
def Dispatched (s : State) (u : BitVec 4) (type : Byte) (p : Packet) : Prop :=
  s.readyPacket u = some p ∧ hdrType p.header = type

end Sys2Proof.Says

/-- R66 to R69, R79, R80, R83, R84, R86 to R91, R139: what writes of a queue's and a ring's registers do, how a unit takes a packet, runs a program
and loads one, and how a completion record and its interrupt leave. -/
def Obligations.QueueAndRingEvents : Prop :=
  ∀ (s : State) (fn : BitVec 8) (n c : BitVec 10) (val : W64) (v : BitVec 32) (k : BitVec 4) (u : State) (p : Program),
    let q := s.queue n
    let r := s.ring c.toNat
    let mine := s.recovery = false ∧ (fn = 0 ∨ s.queueFn n = fn)
    let mineC := s.recovery = false ∧ (fn = 0 ∨ s.queueFn c = fn)
    let open_ (f : BitVec 8) := (s.fn f).tdi = .unlocked
    let fields : Queue := { q with
      src := val.getLsbD 62, loc := val.getLsbD 61, log2n := val.extractLsb' 56 5, prog := val.extractLsb' 48 8
      cring := val.extractLsb' 38 10, tclass := val.extractLsb' 32 6 }
    (mine → open_ (s.queueFn n) → q.en = false → val.getLsbD 63 = true → s.queueOk n fields = true →
      exec (.qCtlWrite fn n val) s = .next (s.setQueue n { fields with en := true, head := 0, tail := 0, scratch := [], published := [] })) ∧
    (mine → open_ (s.queueFn n) → q.en = false → val.getLsbD 63 = true → s.queueOk n fields = false →
      exec (.qCtlWrite fn n val) s = .next (s.setQueue n { fields with err := 0x1F })) ∧
    (mine → open_ (s.queueFn n) → q.en = true → exec (.qCtlWrite fn n val) s = .next (s.setQueue n { q with en := val.getLsbD 63 })) ∧
    (¬ mine → exec (.qCtlWrite fn n val) s = .next s ∧ exec (.doorbellWrite fn n v) s = .next s) ∧
    (mine → q.en = true → q.src = false → (q.tail - q.head).toNat ≤ (v - q.head).toNat → (v - q.head).toNat ≤ 2 ^ q.log2n.toNat →
      exec (.doorbellWrite fn n v) s = .next ((s.setQueue n { q with tail := v }).publish n q.tail (v - q.tail).toNat)) ∧
    (mine → q.en = true → q.src = false → (v - q.head).toNat ≤ 2 ^ q.log2n.toNat → (v - q.head).toNat < (q.tail - q.head).toNat →
      exec (.doorbellWrite fn n v) s = .next (s.setQueue n { q with dbign := true })) ∧
    (mine → q.en = true → q.src = false → 2 ^ q.log2n.toNat < (v - q.head).toNat →
      exec (.doorbellWrite fn n v) s = .next (s.haltQueue n 0x14 q.head none false)) ∧
    (mine → q.en = false ∨ q.src = true → exec (.doorbellWrite fn n v) s = .next (s.setQueue n { q with dbign := true })) ∧
    (mine → q.halted = true → exec (.queueResume fn n) s = .next ((s.setQueue n { q with halted := false }).publish n q.head (q.tail - q.head).toNat)) ∧
    (q.halted = false → exec (.queueResume fn n) s = .next s) ∧
    (mine → q.halted = true → (v - q.tail).toNat = 0 ∨ 2 ^ 31 ≤ (v - q.tail).toNat → exec (.qHeadWrite fn n v) s = .next (s.setQueue n { q with head := v })) ∧
    (q.halted = false → exec (.qHeadWrite fn n v) s = .next s) ∧
    (mineC → open_ (s.ringFn c.toNat) → r.en = false → val.getLsbD 63 = true → val.getLsbD 62 = false →
      exec (.crCtlWrite fn c val) s = .next (s.setRing c.toNat { r.withCtl val with en := true, head := 0, tail := 0, cfgerr := false })) ∧
    (mineC → exec (.crHeadWrite fn c v) s = .next (s.setRing c.toNat { r with head := v })) ∧
    (∀ one all : List PByte, (s.unit k).packet = none → s.nextQueue = some (n, u) →
      let x := u.queue n
      let b : BitVec 512 := BitVec.ofNat 512 (pNat one).1
      let len := (b.extractLsb' 8 8).toNat
      let pk : Packet := { id := u.nextId, queue := n, count := x.head, len := len, words := toWords (all.map fun (y : PByte) => y.1) }
      let t := State.setQueue { u with hostFails := u.hostFails && x.loc, fresh := u.fresh + 1, nextId := u.nextId + 1 } n
        { x with head := x.head + BitVec.ofNat 32 len, inflight := x.inflight ++ [u.nextId] }
      u.ringRead n x.head 1 = some one → u.ringRead n x.head len = some all → (∀ y ∈ one ++ all, y.2 = false) →
      headerCheck (x.prog != 0) x.src x.size x.head b = 0 →
      (x.prog = 0 ∨ b.extractLsb' 0 8 = 1 → b.extractLsb' 0 8 ≠ 5 → pk.header = b.extractLsb' 0 64 → exec (.packetTake k) s = .next
        (t.setUnit k { Interp.reset with packet := some pk, ready := true })) ∧
      (x.prog ≠ 0 → b.extractLsb' 0 8 ≠ 1 → ∃ i, exec (.packetTake k) s = .next (t.setUnit k i) ∧ i.packet = some pk ∧ i.running = true ∧
        i.prog = Tab.get? u.progs x.prog.toNat ∧ i.pc = 0 ∧ i.steps = 0 ∧ i.buf = Mem.puts [] 0 (all.map (·.1)) ∧
        vget i.g 0 (1 : BitVec 4) = n.setWidth 64 ∧ vget i.g 0 (2 : BitVec 4) = x.head.setWidth 64)) ∧
    ((s.unit k).packet.isSome = true → exec (.packetTake k) s = .next s) ∧
    ((s.unit k).running = false → exec (.queueProgramRun k) s = .next s) ∧
    (∀ pk, (s.unit k).running = true → (s.unit k).steps < 256 → (s.unit k).packet = some pk → (s.unit k).word = some 0x84000001 →
      exec (.queueProgramRun k) s =
        .next ((s.setUnit k Interp.reset).complete { pk with words := toWords (Mem.gets (s.unit k).buf 0 (64 * pk.len)) } 1 1)) ∧
    (∀ w, r.waiting = [w] → r.en = true → r.full = false → r.loc = false → w.irq = false → w.urgent = false →
      let bits : BitVec 512 := if r.tail.getLsbD r.log2n.toNat = true then w.bits else w.bits ||| 1
      exec (.completionRecordWrite c) s = .next ((s.hostWrite (s.ringFn c.toNat) (r.base + BitVec.ofNat 64 (32 * (r.tail.toNat % 2 ^ r.log2n.toNat)))
        (leBytes 32 bits.toNat)).setRing c.toNat { r with waiting := r.behind.take 1, behind := r.behind.drop 1, tail := r.tail + 1 })) ∧
    (r.timer = some 0 → exec (.holdTimerExpiry (c.setWidth 11)) s = .next (s.ringInterrupt c.toNat)) ∧
    (r.timer ≠ some 0 → exec (.holdTimerExpiry (c.setWidth 11)) s = .next s) ∧
    (s.progBusy = true → (∀ e ∈ s.queues, e.2.en = true → e.2.prog ≠ s.progSlot) →
      let head := s.hostRead 0 s.progAddr 192
      let body := s.hostRead 0 (s.progAddr + 192) (4 * min 512 (leNat (head.take 2)))
      checkImage head ((pieces 4 (min 512 (leNat (head.take 2))) body).map fun b => BitVec.ofNat 32 (leNat b)) = .ok p →
      exec .progLoad s = .next (State.extendMreg { s with progBusy := false, progWord := 0, progs := Tab.set s.progs s.progSlot.toNat p, progCode := 0 } 2
        (sha256 (head ++ body)))) ∧
    (s.progBusy = true → s.queues = [(5, q)] → q.en = true → q.prog = s.progSlot →
      exec .progLoad s = .next { s with progBusy := false, progWord := 0, progCode := 7 })

/-- R73, R75, R77, R78, R85, R104 to R107, R376: what the I/O die does with a PAD, a COPY, a confidential COPY, a SIGNAL or a FENCE that a unit has
passed to dispatch, and with an ENQ that has arrived. -/
def Obligations.PacketEvents : Prop :=
  ∀ (s : State) (u : BitVec 4) (p : Packet) (n : BitVec 10) (g : BitVec 8) (k : Nat),
    let v := p.unit 0
    let src : W64 := v.extractLsb' 64 64
    let dst : W64 := v.extractLsb' 128 64
    let len := (v.extractLsb' 192 64 : W64).toNat
    let addr := src
    let value := dst
    let op : BitVec 8 := v.extractLsb' 192 8
    let dev := v.getLsbD 200
    let limit := (v.extractLsb' 208 16 : BitVec 16).toNat
    let f := s.setUnit u Interp.reset
    let q := f.queue p.queue
    let fn := s.queueFn p.queue
    let word := BitVec.ofNat 64 (leNat (f.hostRead fn addr 8))
    (Dispatched s u 1 p → exec (.padPacket u) s = .next (f.setQueue p.queue { q with inflight := q.inflight.filter (· != p.id) })) ∧
    (Dispatched s u 3 p → v.getLsbD 258 = false → v.getLsbD 256 = false → v.getLsbD 257 = false →
      ∃ r, exec (.copyPacket u none) s = .next (State.complete { f.hostWrite fn dst (f.hostRead fn src len) with fresh := f.fresh + 1 } p 0 r)) ∧
    (∀ h, Dispatched s u 3 p → v.getLsbD 258 = false → v.getLsbD 256 = false → v.getLsbD 257 = false → h < len →
      exec (.copyPacket u (some h)) s = .next ((f.hostWrite fn dst ((f.hostRead fn src len).take h)).complete p 0x06 (BitVec.ofNat 64 h))) ∧
    (Dispatched s u 3 p → v.getLsbD 258 = true → (s.unit u).conf = none → s.confBusy u p = false → (s.fn fn).tdi ≠ .run →
      exec (.confidentialCopy u true false) s = .next (f.complete p 0x03 3)) ∧
    (∀ (sl : Chan) (plain : List Byte) (ds : List ConfPiece) (c : Ctx),
      let chan : BitVec 32 := v.extractLsb' 288 32
      let ctr : W64 := v.extractLsb' 320 64
      Dispatched s u 3 p → v.getLsbD 258 = true → (s.unit u).conf = none → s.confBusy u p = false → (s.fn fn).tdi = .run → (s.fn fn).ide = true →
      s.chans = [sl] → sl.fn = fn → sl.chan = chan → sl.ctx = q.ctx → sl.lastCtr.toNat < ctr.toNat →
      gcmDecrypt (leBytes 32 sl.key.toNat) (beBytes 4 chan.toNat ++ beBytes 8 ctr.toNat) (beBytes 8 dst.toNat ++ beBytes 8 len)
        (s.hostRead fn src len) (leBytes 16 (v.extractLsb' 384 128 : BitVec 128).toNat) = some plain →
      s.confPieces q.ctx dst len = some ds → s.ctx? q.ctx = some c → (∀ x ∈ ds, leafKey x.leaf = c.key) →
      exec (.confidentialCopy u true false) s = .next ((ds.foldl (fun (t : State) x => t.writeHome q.ctx x.leaf x.pa ((plain.drop (x.va - dst.toNat)).take x.n) false)
        { f with chans := [{ sl with lastCtr := ctr }] }).complete p 0 (BitVec.ofNat 64 plain.length) true)) ∧
    (∀ c ide err, Dispatched s u 3 p → v.getLsbD 258 = true → (s.unit u).conf = some c →
      exec (.confidentialCopy u ide err) s = .next (if c.ended = true then f.complete p 0x03 3 else f.confWrite p c)) ∧
    (Dispatched s u 4 p → op = 0 → dev = false →
      exec (.signalWrite u false) s = .next ((f.hostWrite fn addr (leBytes 8 value.toNat)).complete p 0 value)) ∧
    (Dispatched s u 4 p → op = 0 → dev = true → f.devWritable q.ctx addr 8 = true →
      exec (.signalWrite u false) s = .next ((f.devWrite q.ctx addr ((leBytes 8 value.toNat).map fun b => (b, false))).complete p 0 value true)) ∧
    (Dispatched s u 4 p → op = 1 → dev = false →
      exec (.signalAdd u true false) s = .next ((f.hostWrite fn addr (leBytes 8 (word + value).toNat)).complete p 0 word)) ∧
    (Dispatched s u 4 p → op = 2 → dev = false →
      (value.toNat ≤ word.toNat → exec (.signalWaitge u false) s = .next ((f.setQueue p.queue { q with waitge := none }).complete p 0 word)) ∧
      (word.toNat < value.toNat → exec (.signalWaitge u false) s = .next (f.setQueue p.queue { q with waitge := some (p, 0, false) }))) ∧
    (∀ j, (s.queue n).waitge = some (p, j, false) → exec (.signalWaitgeTick n false) s = .next s) ∧
    ((s.queue n).waitge = some (p, k, true) → p.queue = n → dev = false →
      let w := BitVec.ofNat 64 (leNat (s.hostRead (s.queueFn n) addr 8))
      (value.toNat ≤ w.toNat → exec (.signalWaitgeTick n false) s = .next ((s.setQueue n { s.queue n with waitge := none }).complete p 0 w)) ∧
      (w.toNat < value.toNat → limit ≠ 0 → k = limit →
        exec (.signalWaitgeTick n false) s = .next ((s.setQueue n { s.queue n with waitge := none }).complete p 0x02 w)) ∧
      (w.toNat < value.toNat → limit = 0 ∨ k ≠ limit →
        exec (.signalWaitgeTick n false) s = .next (s.setQueue n { s.queue n with waitge := some (p, k, false) }))) ∧
    ((s.queue n).fence = some p → (s.queue n).inflight ≠ [p.id] → exec (.fencePacket n) s = .next s) ∧
    ((s.queue n).fence = some p → (s.queue n).inflight = [p.id] → p.queue = n →
      ∃ t, exec (.fencePacket n) s = .next t ∧ (t.queue n).fence = none ∧ (t.queue n).inflight = [] ∧ t.tiles = ([0, 1, 2, 3].foldl State.drainDie s).tiles ∧
        t.mem = ([0, 1, 2, 3].foldl State.drainDie s).mem) ∧
    (∀ e l, s.railsOff = false → (s.tile g).enqs = e :: l → (s.tile g).claims = [] → (s.tile g).stop = none → (s.tile g).capturing = none → (s.tile g).fpend.getLsbD e.flag.toNat = true →
      (∀ x ∈ l, x.flag ≠ e.flag) →
      let d := (s.dirtyBack g).drainDie (dieOf g)
      let q := d.queue e.queue
      ((q.tail - q.head).toNat = 2 ^ q.log2n.toNat → exec (.enqArrival g) s = .next (d.modTile g fun t => Tile.wrF { t with enqs := l } e.flag true)) ∧
      ((q.tail - q.head).toNat ≠ 2 ^ q.log2n.toNat → q.en = true → q.src = true → d.devWritable q.ctx (q.unitAt q.tail) 64 = true →
        exec (.enqArrival g) s = .next ((((d.devWrite q.ctx (q.unitAt q.tail) (clean (wordBytes e.words))).setQueue e.queue { q with tail := q.tail + 1 }).publish e.queue q.tail 1).modTile g
          fun t => Tile.wrF { t with enqs := l } e.flag false)))

/-- R76, R114 to R117, R124 to R128, R137, R160, R377: what a LAUNCH packet does, how a context comes to a tile, how an item starts and
retires, when a stage entry becomes available, when a cohort barrier completes and when a launch retires. -/
def Obligations.LaunchEvents : Prop :=
  ∀ (s : State) (u : BitVec 4) (p : Packet) (g : BitVec 8) (cd : ContextDesc) (id n : Nat) (l : Launch),
    let hd := leNat (wordBytes (p.words.drop 8))
    let f := s.setUnit u Interp.reset
    let q := f.queue p.queue
    let made : Launch := { launchOf hd f.nextId q.ctx q.tclass p (((f.ctx? q.ctx).map (·.interval)).getD 0) with
      handles := f.handlesOf (launchOf hd f.nextId q.ctx q.tclass p (((f.ctx? q.ctx).map (·.interval)).getD 0)) }
    (Dispatched s u 2 p → hdrLen p.header = 9 → bitsOf hd 511 496 ≠ 1 ∨ bitsOf hd 191 0 ≠ 0 ∨ bitsOf hd 495 492 = 0 ∨ 8 < bitsOf hd 495 492 →
      exec (.launchPacket u) s = .next (f.haltPacket p 0x15 p.header false)) ∧
    (Dispatched s u 2 p → hdrLen p.header = 9 → headerBad hd = false → f.overlaysPinned made = false →
      exec (.launchPacket u) s = .next (f.complete p 0x05 0)) ∧
    (Dispatched s u 2 p → hdrLen p.header = 9 → headerBad hd = false → f.overlaysPinned made = true →
      exec (.launchPacket u) s = .next (State.setLaunch { f with nextId := f.nextId + 1 } made)) ∧
    (s.railsOff = false → (s.tile g).ist = .none → (s.tile g).stop = none → (s.tile g).capturing = none → (∃ c, s.ctx? cd.ctx = some c) → (∃ k, s.keyId cd.key = some k) →
      ∃ t, exec (.contextInstall g cd) s = .next t ∧ (t.tile g).ctx = some cd.ctx ∧ (t.tile g).l1 = [] ∧ (t.tile g).tlb = [] ∧
        (t.tile g).brk = Vector.replicate 8 BrkSlot.reset ∧ (t.tile g).pmsel = Vector.replicate 8 0 ∧
        (∀ a, a < 2 ^ 21 → t.rdByte (spadBase g.toNat + a) = 0) ∧ ∀ v w, t.imemWord g v w = 0) ∧
    (∀ (i : Item) (d : StageDesc), s.railsOff = false → (s.tile g).ist = .given → (s.tile g).item = some i → (s.tile g).resume = none → (s.tile g).sreq = none →
      (s.tile g).capturing = none → i.group = none → s.launch? i.launch = some l → l.stages[i.stage.toNat]? = some d → (s.tile g).sclass = d.cls →
      (s.tile g).ctx = some l.ctx → (s.tile g).resA = some (l.id, i.stage) → (s.tile g).resX = some (l.id, i.stage) →
      ∃ t, exec (.itemStart g) s = .next t ∧ (t.tile g).ist = .running ∧ (t.tile g).apc = d.aentry ∧ (t.tile g).xpc = d.xentry ∧
        vget (t.tile g).areg 0 (1 : R5) = (if i.stage = 0 then i.wid else i.entry.headD 0) ∧ vget (t.tile g).areg 0 (2 : R5) = i.word2 ∧
        vget (t.tile g).xreg 0 (1 : R5) = vget (t.tile g).areg 0 (1 : R5) ∧ vget (t.tile g).xreg 0 (2 : R5) = i.word2 ∧
        (∀ j : Fin 8, ∀ w, (if i.stage = 0 then l.args else i.entry)[j.val]? = some w → vget (t.tile g).areg 0 (BitVec.ofNat 5 (8 + j.val)) = w) ∧
        (t.tile g).apois = 0 ∧ (t.tile g).xpois = 0 ∧ (t.tile g).q = Vector.replicate 8 [] ∧ (t.tile g).cmds = []) ∧
    (∀ (d : BitVec 2) (st : BitVec 3) (h : BitVec 8) (e : SqEntry) (r : List SqEntry), s.launch? id = some l → l.id = id →
      ((l.die d).inst st.toNat).entries = e :: r → e.avail = false → e.pusher = some h.toNat → (s.tile h).claims = [] →
      exec (.stageEntryAvailable id d st) s = .next ((s.pushPerformed (some h.toNat)).setLaunch
        (l.setDie d ((l.die d).setInst st.toNat { (l.die d).inst st.toNat with entries := { e with avail := true } :: r })))) ∧
    ((s.tile g).done = false → exec (.itemRetire g) s = .next s) ∧
    (∀ i, s.railsOff = false → (s.tile g).done = true → (s.tile g).item = some i → s.launch? i.launch = some l → l.id = i.launch →
      ∃ t k, exec (.itemRetire g) s = .next t ∧ t.launch? i.launch = some k ∧ k.retired = l.retired + 1 ∧ (t.tile g).ist = .none ∧
        (t.tile g).item = none ∧ (t.tile g).cur = (s.tile g).cur ∧ (t.tile g).ctx = (s.tile g).ctx ∧ ∀ x ∈ (t.tile g).l1, x.dmask = 0) ∧
    (s.launch? id = some l → l.id = id →
      let all := s.tilesWith fun t => t.cohort == some (id, n) && t.ist == .running
      let came := all.filter fun h => l.gen n < (s.tile h).bars && (s.tile h).relPend.isEmpty
      (came.length + l.retiredOf n ≠ l.groupSize → exec (.cohortBarrierComplete id n) s = .next s) ∧
      (came ≠ [] → came.length + l.retiredOf n = l.groupSize → ∃ t k, exec (.cohortBarrierComplete id n) s = .next t ∧
        t.launch? id = some k ∧ k.gen n = l.gen n + 1 ∧ t.tiles = s.tiles)) ∧
    (s.launch? id = some l → l.id = id → l.started = false ∨ l.nextGroup ≠ l.dieGroups → exec (.launchRetire id) s = .next s) ∧
    (s.launch? id = some l → l.id = id → l.started = true → l.nextGroup = l.dieGroups → s.hasItems id = false → (∀ x ∈ l.dies.toList, x.isEmpty = true) →
      (∀ e ∈ s.tiles, e.2.launch ≠ some id) → l.counted = false →
      exec (.launchRetire id) s = .next (let t := s.settleHeld.complete l.packet 0 (BitVec.ofNat 64 l.retired) true
        { t with launches := Tab.erase t.launches id }))

/-- R130 to R133, R138 to R145, R301: what a stage choice, a starvation capture and the leaving of a die do, to whom a tile that is offered goes,
what a pre-emption by priority takes, and how a given captured item resumes. -/
def Obligations.SchedulingEvents : Prop :=
  ∀ (s : State) (g : BitVec 8) (d : BitVec 2) (id : Nat) (l : Launch) (c : BitVec 6),
    let t := s.tile g
    let turn (c : BitVec 6) (d : BitVec 2) : Prop := (s.die d).ptr = c ∧ s.eligible c d = true ∧ qg ≤ s.deficit c d
    let paid (c : BitVec 6) (d : BitVec 2) : State := s.setDeficit c d (s.deficit c d - qg)
    let up := s.railsOff = false
    let idle := t.ist = .none ∧ t.stop = none ∧ t.capturing = none
    (∀ cur sw k, s.chooseStage l g cur sw = some k → 0 < l.occ (l.die (dieOf g)) k) ∧
    (∀ k, t.launch = some id → s.launch? id = some l → s.chooseStage l g t.cur t.switched = some k → s.seekStage g = some (s.assignStage g l k)) ∧
    (∀ u, up → idle → t.holder = some c → s.seekStage g = some u → exec (.stageChoice g) s = .next (u.giveWork g)) ∧
    (idle → t.holder = some c → s.seekStage g = none → exec (.stageChoice g) s = .next s) ∧
    (s.launch? id = some l → (∀ e ∈ (l.die d).since, s.cy < e.from_ + 4096) → exec (.starvationCapture id d) s = .next s) ∧
    (∀ e h, up → s.launch? id = some l → e ∈ (l.die d).since → e.from_ + 4096 ≤ s.cy → s.runningOn id d = [h] →
      (∀ x ∈ s.tiles, x.1 / 64 = d.toNat → x.2.launch = some id → x.2.capturing = none) →
      ∃ u, exec (.starvationCapture id d) s = .next u ∧ (u.tile h).capturing.isSome = true ∧ (u.tile h).sclass = 0 ∧ (u.tile h).areg = (s.tile h).areg) ∧
    (s.launch? id = some l → (l.die d).admitted = true → (l.die d).withdrawn = false →
      l.mindie < (l.dies.toList.filter fun y => y.admitted && !y.withdrawn).length →
      exec (.dieLeave id d) s = .next (s.setLaunch (l.setDie d { l.die d with withdrawn := true }))) ∧
    (s.launch? id = some l → (l.die d).admitted = true → (l.die d).withdrawn = true → (l.die d).isEmpty = true → (∀ e ∈ s.tiles, e.2.launch ≠ some id) →
      s.images = [] → exec (.dieLeave id d) s = .next (s.setLaunch (l.setDie d LaunchDie.empty)).settleHeld) ∧
    (t.term = true → t.holder = some c → t.ist = .running → t.capturing = none → turn c (dieOf g) →
      exec (.termEnd g) s = .next ((paid c (dieOf g)).modTile g fun x => { x with term := true })) ∧
    (∀ h, t.term = true → t.holder = some h → t.ist = .running → t.capturing = none → turn c (dieOf g) → c ≠ h →
      exec (.termEnd g) s = .next ((paid c (dieOf g)).passTile g c)) ∧
    (∀ h, idle → t.holder = some h → s.seekStage g = none → turn c (dieOf g) → c ≠ h →
      exec (.waitOffer g) s = .next ((paid c (dieOf g)).passTile g c)) ∧
    (t.holder = none → t.ist ≠ .stopped → t.capturing = none → turn c (dieOf g) →
      exec (.unheldTileOffer g) s = .next ((paid c (dieOf g)).passTile g c)) ∧
    (∀ m, idle → t.holder = none → t.launch = none → (paid c (dieOf g)).wanting c (dieOf g) = [] → (paid c (dieOf g)).passTile g c = m →
      (m.tile g).holder = some c ∧ (m.tile g).launch = none ∧ (m.tile g).sclass = 0 ∧ (m.tile g).term = false) ∧
    ((∀ k, s.eligible k d = false) → exec (.priorityPreemption d) s = .next s) ∧
    (turn c d → (∀ e ∈ s.tiles, ∀ h, e.2.holder = some h → (s.tenant c).prio.toNat ≤ (s.tenant h).prio.toNat) →
      exec (.priorityPreemption d) s = .next s) ∧
    (turn c d → s.victims d c = [g] → t.capturable = false →
      exec (.priorityPreemption d) s = .next (State.preempt d 63 ((paid c d).passTile g c))) ∧
    (∀ (h : BitVec 32) (i : Image), up → Tab.get? s.images h.toNat = some i → i.members = [] → i.hbm = none → t.ist = .given → t.resume = some h → t.sreq = none → t.sclass ≠ 0 →
      t.capturing = none → (s.tilesWith fun x => x.resume == some h) = [g] → s.restoreBad i g = none →
      exec (.tileRestore h g) s = .next (s.restoreOne h g false)) ∧
    (∀ (h : BitVec 32) (i : Image), up → Tab.get? s.images h.toNat = some i → i.members = [] → i.hbm = none → t.ist = .given → t.resume = some h → t.sreq = none → t.sclass ≠ 0 →
      t.capturing = none → (s.tilesWith fun x => x.resume == some h) = [g] → s.restoreBad i g ≠ none →
      exec (.tileRestore h g) s = .next (((s.zeroFree g).modTile g fun x => { x with ctx := some i.ctx }).takeCause g .a { code := 0x77 }))

/-- R148 to R155: what the commands of RES_CMD, the end of a move between tiers, and a residency scan do. -/
def Obligations.ResidencyEvents : Prop :=
  ∀ (s : State) (h : BitVec 14) (e : BitVec 512) (frames : List (BitVec 32)),
    let go (op : BitVec 3) : Prop := s.resGo = true ∧ s.resRunOp = op ∧ s.resRunHandle.toNat = h.toNat ∧ h ≠ 0 ∧ s.resEntry h.toNat = some e ∧ s.moveOf h.toNat = none
    let bad (op : BitVec 3) : Prop := s.resGo = true ∧ s.resRunOp = op ∧ (s.resRunHandle.toNat = 0 ∨ 16384 ≤ s.resRunHandle.toNat)
    let code (t : State) (c : Byte) : State := { t with resGo := false, resCode := c }
    let begun (tier : BitVec 2) (t : State) : Prop :=
      t.resGo = true ∧ t.resMoves = s.resMoves ++ [{ h := h, fromTier := resTier e, toTier := tier, die := resDie e, port := resPort e, cmd := true }] ∧
        ∃ d, t.sds = s.sds ++ [d] ∧ d.scope = 1 ∧ d.ctx = resCtx e ∧ d.wait = sdParties
    (bad 1 → exec .validate s = .next (code s 4)) ∧ (bad 2 → exec .promote s = .next (code s 4)) ∧ (bad 3 → exec .demote s = .next (code s 4)) ∧
    (bad 4 → exec .evict s = .next (code s 4)) ∧ (bad 5 → exec .invalidate s = .next (code s 4)) ∧
    (∀ c slots tier r, go 1 → resPages e ≠ 0 → (resVaBase e).toNat % 65536 = 0 → e.extractLsb' 0 288 = 0 → s.resSlots e = some slots → s.ctx? (resCtx e) = some c →
      r ∈ c.seals → r.spad = none → r.base.toNat ≤ (resVaBase e).toNat → (resVaBase e).toNat + 65536 * resPages e ≤ r.base.toNat + r.size.toNat →
      tierFound e slots = some tier → resValid e = false →
      exec .validate s = .next (code (s.modRes h.toNat fun x => withField (withField (withField (withField x 326 1 1) 324 2 tier) 304 16 0xFFFF) 288 16 0) 0)) ∧
    (∀ c, go 1 → resPages e ≠ 0 → (resVaBase e).toNat % 65536 = 0 → e.extractLsb' 0 288 = 0 → s.ctx? (resCtx e) = some c → c.seals = [] → exec .validate s = .next (code s 3)) ∧
    (go 1 → resPages e = 0 ∨ (resVaBase e).toNat % 65536 ≠ 0 ∨ e.extractLsb' 0 288 ≠ 0 → exec .validate s = .next (code s 4)) ∧
    (go 2 → resValid e = false → exec .promote s = .next (code s 4)) ∧
    (go 2 → resValid e = true → resTier e = 1 → exec .promote s = .next (code s 0)) ∧
    (go 2 → resValid e = true → resTier e ≠ 1 → s.pagesThen 1 (resDie e) + resPages e ≤ s.resCap 1 (resDie e) → ∃ t, exec .promote s = .next t ∧ begun 1 t) ∧
    (go 3 → resValid e = true → resUsers e ≠ 0 → exec .demote s = .next (code s 2)) ∧
    (go 3 → resValid e = true → resUsers e = 0 → resTier e ≠ 2 → s.pagesThen 2 (resPort e) + resPages e ≤ s.resCap 2 (resPort e) →
      ∃ t, exec .demote s = .next t ∧ begun 2 t) ∧
    (go 4 → resValid e = true → resUsers e ≠ 0 → exec .evict s = .next (code s 2)) ∧
    (go 4 → resValid e = true → resUsers e = 0 → resTier e ≠ 0 → ∃ t, exec .evict s = .next t ∧ begun 0 t) ∧
    (go 5 → resUsers e ≠ 0 → exec .invalidate s = .next (code s 2)) ∧
    (go 5 → resUsers e = 0 → ∃ t, exec .invalidate s = .next t ∧ t.resGo = false ∧ t.resCode = 0 ∧ t.resMoves = s.resMoves ∧ t.resLat = Tab.erase s.resLat h.toNat ∧
      t.mem = (s.modRes h.toNat fun x => withField x 326 1 0).mem) ∧
    (∀ m, s.moveOf h.toNat = some m → s.resEntry h.toNat = some e → (∃ d ∈ s.sds, d.cmd = some (moveTag h.toNat, 0)) →
      exec (.residencyMoveComplete h frames) s = .next s) ∧
    (∀ m, s.moveOf h.toNat = some m → s.resEntry h.toNat = some e → (∀ d ∈ s.sds, d.cmd ≠ some (moveTag h.toNat, 0)) → m.toTier = 0 → s.launches = [] →
      let t := State.modRes { s with resMoves := s.resMoves.filter fun x => x.h != h } h.toNat fun x => withField x 324 2 0
      exec (.residencyMoveComplete h frames) s = .next (if m.cmd = true then code t 0 else t)) ∧
    (∀ m slots, s.moveOf h.toNat = some m → s.resEntry h.toNat = some e → (∀ d ∈ s.sds, d.cmd ≠ some (moveTag h.toNat, 0)) → m.toTier = 1 → m.fromTier = 0 →
      s.launches = [] → s.resSlots e = some slots → framesOk m slots frames = true → s.pagesNow 1 m.die + resPages e ≤ s.resCap 1 m.die →
      let p := State.placePages m (some (resHost e)) 0 slots ((Tab.get? s.resLat h.toNat).getD []) frames s
      let t := State.modRes { p with resMoves := p.resMoves.filter fun x => x.h != h } h.toNat fun x => withField x 324 2 1
      exec (.residencyMoveComplete h frames) s = .next (if m.cmd = true then code t 0 else t)) ∧
    (∀ c, (s.tenant c).en = false ∨ (s.tenant c).active = false → exec (.residencyScan c) s = .next s) ∧
    (∀ c, (s.tenant c).en = true → (s.tenant c).active = true → (s.tenant c).resref = false → s.launches = [] →
      exec (.residencyScan c) s = .next ((s.resAll.filter fun x => resClass x.2 == c).foldl (fun u x => u.modRes x.1 fun y => withField y 304 16 0xFFFF) s))

/-- R166, R178, R197 to R206, R229, R256, R262, R296, R301, R430, R431, R443 to R445, R487: what walks, thaws, shootdowns and answers at the homes
do, how engine commands are accepted and end, and what collective messages and the rake do. -/
def Obligations.TranslationAndEngineEvents : Prop :=
  ∀ (s : State) (g : BitVec 8) (d : BitVec 2) (h : BitVec 3) (e : Eng) (seq : BitVec 32) (src : BitVec 12) (group sq tag : BitVec 16) (data : List Byte),
    let t := s.tile g
    let up : Prop := s.railsOff = false
    let asked (k : BitVec 2) : Prop := s.sdGo = true ∧ s.sdScope = k ∧ ∀ x ∈ s.sds, x.host = false
    let told (k : BitVec 2) : State :=
      { s with sds := s.sds ++ [{ scope := k, ctx := s.sdCtx, va := s.sdAddr, wait := sdParties, host := true, cmd := none }] }
    (asked 0 → exec .shootdownPage s = .next (told 0)) ∧ (asked 1 → exec .shootdownContext s = .next (told 1)) ∧
    (asked 2 → exec .shootdownAll s = .next (told 2)) ∧
    (∀ k, s.sds = [k] → k.wait = [.copyUnit] → s.confHolds { k with wait := [] } = false →
      exec (.shootdownAck .copyUnit) s = .next (if k.host = true then { s with sds := [], sdGo := false, sdCode := 0 } else { s with sds := [] })) ∧
    (∀ k, s.sds = [k] → k.wait = [.copyUnit, .residencyUnit] → s.confHolds { k with wait := [.residencyUnit] } = false →
      exec (.shootdownAck .copyUnit) s = .next { s with sds := [{ k with wait := [.residencyUnit] }] }) ∧
    (∀ k, s.sds = [k] → k.wait = [.copyUnit] → s.confHolds { k with wait := [] } = true → exec (.shootdownAck .copyUnit) s = .next s) ∧
    (∀ k r, s.sds = [k] → k.wait = .rim g :: r → (∀ x ∈ r, x ≠ .rim g) → t.l1 = [] →
      ∃ u, exec (.shootdownAck (.rim g)) s = .next u ∧ (∀ x ∈ (u.tile g).tlb, k.covers x.ctx x.va x.log2 = false) ∧
        (∀ x ∈ t.tlb, k.covers x.ctx x.va x.log2 = false → x ∈ (u.tile g).tlb)) ∧
    (∀ w u m, up → t.capturing = none → t.stop = none → t.walks = [w] → s.doWalk g w = (m, u) →
      let v := u.modTile g fun x => { x with walks := x.walks.filter fun y => y.waiter != w.waiter }
      (m = .ok ∨ (∃ c, m = .hit c) → exec (.translationWalkComplete g) s = .next v) ∧
      (∀ c, m = .bad c → exec (.translationWalkComplete g) s = .next (v.walkCause g w c)) ∧
      (m = .absent → exec (.translationWalkComplete g) s = .next (v.freeze g [w]))) ∧
    (∀ es, up → t.stop = some .notPresent → t.capturing = none → (∀ w ∈ t.faults, s.pageMoves w = false) →
      exec (.thaw g es true) s =
        .next ((es.foldl (fun z e => z.putEntry (e.1.toNat / 16 * 16) e.2) s).modTile g fun x => { x with stop := none, faults := [], reqCred := 32 })) ∧
    (∀ es ok, up → t.stop = some .notPresent → t.capturing = none → (∃ w ∈ t.faults, s.pageMoves w = true) → exec (.thaw g es ok) s = .next s) ∧
    (∀ es ok, up → t.stop = some .notPresent → t.capturing ≠ none →
      exec (.thaw g es ok) s = .next (es.foldl (fun z e => z.putEntry (e.1.toNat / 16 * 16) e.2) s)) ∧
    (∀ c r, up → t.claims = c :: r → s.claimServed g c = false → exec (.caStoreClaimAnswer g) s = .next s) ∧
    (∀ c r, up → t.claims = c :: r → s.claimServed g c = true →
      exec (.caStoreClaimAnswer g) s = .next ((s.answerClaim g c).modTile g fun x => { x with claims := r })) ∧
    (∀ v r, s.chan d h = .close v :: r → ∃ u, exec (.closeApplied d h) s = .next u ∧ vget (u.home h).closed 0 d = v ∧ u.chan d h = r ∧ u.mem = s.mem) ∧
    (up → e ≠ .coll → exec (.engineCommandAccept g e) s = .next (s.acceptCmd g e)) ∧
    (∀ c u, up → s.cmdOf g e seq = some c → s.engineRuns g e = true → s.workCmd g e c = .ok (u, true) → ((u.cmdOf g e c.seq).getD c).op ≠ .copy →
      exec (.tokenComplete g (some e) seq) s = .next (u.finishCmd g e ((u.cmdOf g e c.seq).getD c))) ∧
    (∀ c u r, up → s.cmdOf g e seq = some c → s.engineRuns g e = true → s.workCmd g e c = .error (.cause u r) →
      exec (.tokenComplete g (some e) seq) s = .next (u.engineCause g e ((u.cmdOf g e c.seq).getD c) r)) ∧
    (∀ c u n, up → s.cmdOf g e seq = some c → s.engineRuns g e = true → s.workCmd g e c = .error (.ill u n) →
      exec (.tokenComplete g (some e) seq) s = .next (u.haltEngine g e ((u.cmdOf g e c.seq).getD c) n)) ∧
    (∀ c, up → t.loose = [c] → c.prog ≠ 0 → t.stop = none → t.capturing = none → (c.op = .drain ∧ c.waits = [] ∨ c.op ≠ .drain ∧ c.imm ≠ 3 ∧ c.a.toNat ≤ t.xcyc) →
      exec (.tokenComplete g none 0) s = .next (s.modTile g fun x => Tile.tkDone { x with loose := x.loose.eraseIdx 0 } c.tp)) ∧
    (∀ k r, up → t.stop = none → t.capturing = none → t.alog = .token k :: r → exec (.loggedArrivalDelivery g) s = .next (s.setTile g (Tile.tkComplete { t with alog := r } k))) ∧
    (∀ f v r, up → t.stop = none → t.capturing = none → t.alog = .flag f v :: r → exec (.loggedArrivalDelivery g) s = .next (s.setTile g (Tile.wrF { t with alog := r } f v))) ∧
    (exec (.collectiveReady src group sq tag) s = .next { s with collReady := s.collReady ++ [(src, group, sq, tag)] }) ∧
    (∀ c r ok, t.ecoll.running = [c] → c.takes src group sq tag = some r → ∃ u, exec (.collectiveData src group sq tag ok data) s = .next u ∧
      (u.tile g).ecoll.running = [if ok = true ∧ data.length = collBlock c.blk0 then { c with blocks := c.blocks ++ [(r, data)] } else { c with mismatch := true }]) ∧
    (∀ c, up → s.cmdOf g .coll seq = some c → c.prog = 1 → s.cy < c.since + 13000000 → exec (.collectiveTimeout g seq) s = .next s) ∧
    (∀ c, up → s.cmdOf g .coll seq = some c → c.prog = 1 → c.since + 13000000 ≤ s.cy →
      exec (.collectiveTimeout g seq) s = .next (s.putCmd g .coll { c with prog := 18 })) ∧
    ((s.die d).rake = [] → exec (.rakeSearch d) s = .next s) ∧
    (∀ r rest c u, (s.die d).rake = r :: rest → s.rakeAway d < 16 → s.cmdOf r.tile .salt r.seq = some c → s.rakeRun r.tile c = .ok u →
      exec (.rakeSearch d) s = .next (u.setDie d { u.die d with rake := (u.die d).rake.filter (· != r) })) ∧
    (∀ r c u, (s.die d).rake = [r] → s.rakeAway d < 16 → s.cmdOf r.tile .salt r.seq = some c → s.rakeRun r.tile c = .error (.wait u) →
      exec (.rakeSearch d) s = .next u) ∧
    (∀ r q rest c x u v, (s.die d).rake = r :: q :: rest → s.rakeAway d < 15 → s.cmdOf r.tile .salt r.seq = some c → s.rakeRun r.tile c = .error (.wait u) →
      u.cmdOf q.tile .salt q.seq = some x → u.rakeRun q.tile x = .ok v →
      exec (.rakeSearch d) s = .next (v.setDie d { v.die d with rake := (v.die d).rake.filter (· != q) }))

/-- R212, R213, R219, R222, R234, R235, R240, R319 to R322: what the driver's namespace commands, harvest, CKPT_CFG, a checkpoint and a rollback
do. -/
def Obligations.StoreAndCheckpointEvents : Prop :=
  ∀ (s : State) (j : BitVec 4) (nd : BitVec 32) (c : BitVec 16) (x : Ctx) (bs : List PByte),
    let d : BitVec 512 := BitVec.ofNat 512 (pNat bs).1
    let ns := namespaceOf d
    let code (t : State) (k : Byte) : State := { t with nsGo := false, nsCode := k }
    let reg : Prop := s.nsGo = true ∧ s.nsRunOp = 1
    let found : Prop := reg ∧ s.indexReady = true ∧ s.devRead 0 s.nsAddr 64 = some bs ∧ (pNat bs).2 = false
    let k := s.ckCfg
    (reg → s.indexReady = false → exec .register s = .next (code s 6)) ∧
    (found → ns.nsid = 0 ∨ ns.nlayer = 0 ∨ 512 < ns.nlayer ∨ ns.log2lb < 12 ∨ 20 < ns.log2lb ∨ d.extractLsb' 0 122 ≠ 0 → exec .register s = .next (code s 3)) ∧
    (found → namespaceBad d = false → (∃ m, s.ns? ns.nsid = some m) → exec .register s = .next (code s 2)) ∧
    (found → namespaceBad d = false → s.ns? ns.nsid = none → 4096 ≤ s.nss.length → exec .register s = .next (code s 4)) ∧
    (found → namespaceBad d = false → s.ns? ns.nsid = none → s.nss.length < 4096 →
      exec .register s = .next { code s 0 with nss := Tab.set s.nss ns.nsid.toNat ns }) ∧
    (s.nsGo = true → s.nsRunOp = 2 → s.ns? s.nsRunNsid = none → exec .unregister s = .next (code s 5)) ∧
    (∀ m, s.nsGo = true → s.nsRunOp = 2 → s.ns? s.nsRunNsid = some m → m.closing = false → (∀ e ∈ s.nodes, e.2.nsid ≠ m.nsid) →
      exec .unregister s = .next { s with nss := Tab.set s.nss m.nsid.toNat { m with closing := true } }) ∧
    (∀ m, Tab.get? s.nss nd.toNat = some m → m.closing = true → m.shared = false → (∀ e ∈ s.nodes, e.2.st = .free ∨ e.2.nsid ≠ nd) →
      exec (.namespaceClosed nd) s = .next { s with nss := Tab.erase s.nss nd.toNat, nsGo := false, nsCode := 0 }) ∧
    (∀ e ∈ s.nodes, e.2.st ≠ .free → e.2.nsid = nd → exec (.namespaceClosed nd) s = .next s) ∧
    (∀ p : Pool, let q := (s.setPool j p).pool j
      (poolFree j p < p.low.toNat → q.harvesting = true ∧ q.picks = if p.harvesting = true then p.picks else 1) ∧
      (p.low.toNat ≤ poolFree j p → p.high.toNat ≤ poolFree j p → q.harvesting = false ∧ q.picks = 0) ∧
      (p.low.toNat ≤ poolFree j p → poolFree j p < p.high.toNat → q.harvesting = p.harvesting)) ∧
    ((s.pool j).harvesting = false ∨ (s.pool j).picks = 0 ∨ 4 ≤ (s.pool j).moves.length → exec (.harvestSelect j) s = .next s) ∧
    (∀ key n m, (s.pool j).harvesting = true → (s.pool j).picks ≠ 0 → 8 ≤ j.toNat → (s.pool j).moves = [] → s.nodes = [(key, n)] → n.candidate key j = true →
      s.ns? n.nsid = some m →
      let h := n.gen ++ BitVec.ofNat 24 key
      exec (.harvestSelect j) s = .next (((s.startRemoval h).modPool j fun p => { p with moves := p.moves ++ [h] }).modPool j fun p => { p with picks := p.picks - 1 })) ∧
    ((s.node nd).gen = hGen nd → (s.node nd).st = .harvesting → (s.node nd).moving = false →
      ∃ t, exec (.harvestRemovalDone nd) s = .next t ∧ (t.node nd).st = .free ∧ (t.node nd).gen = (s.node nd).gen + 1 ∧
        (∀ e ∈ t.index, e.2.2.2 ≠ nd) ∧ ∀ i, nd ∉ (t.pool i).moves) ∧
    (∀ m, (s.node nd).gen = hGen nd → (s.node nd).st = .harvesting → (s.node nd).moving = true → s.ns? (s.node nd).nsid = some m → m.closing = false →
      ∃ t, exec (.harvestDemotionDone nd) s = .next t ∧ (t.node nd).st = .sealed ∧ (t.node nd).refcnt = (s.node nd).refcnt ∧
        (t.node nd).moving = false ∧ ∀ i, nd ∉ (t.pool i).moves) ∧
    (k.go = true → s.ctx? k.ctx = none → exec .ckptCfgGo s = .next { s with ckCfg := { k with go := false, code := 2 } }) ∧
    (k.go = true → s.ctx? k.ctx = some x → x.ckInterval = 0 → exec .ckptCfgGo s =
      .next { s.setCtx { x with ckInterval := k.interval, ckUndo := k.undo, ckLast := s.tickcnt } with ckCfg := { k with go := false, code := 0 } }) ∧
    (k.go = true → s.ctx? k.ctx = some x → x.ckInterval ≠ 0 → exec .ckptCfgGo s =
      .next { s.setCtx { x with ckNext := some (k.interval, k.undo) } with ckCfg := { k with go := false, code := 0 } }) ∧
    (s.ctx? c = some x → x.ckInterval = 0 ∧ x.hold = false ∨ x.rolling = true ∨ x.pendE ≠ none → exec (.checkpoint c) s = .next s) ∧
    (s.ctx? c = some x → x.id = c → x.ckInterval ≠ 0 → x.rolling = false → x.pendE = none → 1000 * x.ckInterval.toNat ≤ s.tickcnt.toNat - x.ckLast.toNat →
      s.ioPackets c ≠ [] → exec (.checkpoint c) s = .next (s.ckBegin c)) ∧
    (s.ctx? c = some x → x.id = c → x.ckInterval ≠ 0 → x.rolling = false → x.pendE = none → 1000 * x.ckInterval.toNat ≤ s.tickcnt.toNat - x.ckLast.toNat →
      s.ioPackets c = [] → (∀ e ∈ s.tiles, e.2.ctx ≠ some c) → x.refs = [] → x.ckNext = none →
      ∃ t y, exec (.checkpoint c) s = .next t ∧ t.ctx? c = some y ∧ y.interval = x.interval + 1 ∧ y.ckLast = s.tickcnt ∧ y.undo = [] ∧ y.hasCk = true ∧
        y.hold = false ∧ y.ckRanges = ((s.gran.filter fun e => e.2 == c && (s.imageAt e.1).isNone).map fun e => (4096 * e.1, 4096)) ++ s.brineRanges c ∧ t.mem = s.mem) ∧
    (s.ctx? c = some x → x.pendE = none → exec (.rollback c) s = .next s) ∧
    (∀ e, s.ctx? c = some x → x.id = c → x.pendE = some e →
      ∃ t y, exec (.rollback c) s = .next t ∧ t.ctx? c = some y ∧ y.pendE = none ∧ y.rolling = false ∧ y.hold = false ∧ y.undo = [] ∧ y.ivPackets = [])

namespace Sys2Proof.Says
open Sys2Proof.Machine

/-- The instructions of majors 0x01 to 0x07, with the register that each writes. -/
def writesD : Instr → Option R5
  | .add d _ _ | .sub d _ _ | .and d _ _ | .or d _ _ | .xor d _ _ | .shl d _ _ | .shr d _ _ | .sra d _ _ | .mul d _ _ | .mulh d _ _
  | .mulhu d _ _ | .div d _ _ | .divu d _ _ | .rem d _ _ | .remu d _ _ | .min d _ _ | .max d _ _ | .minu d _ _ | .maxu d _ _ | .seq d _ _
  | .slt d _ _ | .sltu d _ _ | .clz d _ | .ctz d _ | .popc d _ | .sel d _ _ _ | .addi d _ _ | .andi d _ _ | .ori d _ _ | .xori d _ _
  | .shli d _ _ | .shri d _ _ | .srai d _ _ | .movk d _ _ => some d
  | _ => none

/-- The instructions of the A-stream that write a flag and no register, with the flag. -/
def writesF : Instr → Option F3
  | .cmpEq f _ _ | .cmpNe f _ _ | .cmpLt f _ _ | .cmpGe f _ _ | .cmpLtu f _ _ | .cmpGeu f _ _ | .fand f _ _ | .for_ f _ _ | .fxor f _ _
  | .fput f _ => some f
  | _ => none

/-- What neither a register form nor a flag form of the A-stream touches: memory, every other tile, and of its own tile every
register file but the `a` registers, the flags and the performance counters, and, without a trap, the status registers. -/
def keepsRest (s t : State) (g : BitVec 8) : Prop :=
  (∀ a, t.rdByte a = s.rdByte a) ∧ t.poison = s.poison ∧ (∀ h, h ≠ g → t.tile h = s.tile h) ∧ t.dies = s.dies ∧ t.homes = s.homes ∧
    t.queues = s.queues ∧ t.ctxs = s.ctxs ∧ t.out = s.out ∧
    (let x := s.tile g
     let y := t.tile g
     y.xreg = x.xreg ∧ y.xpois = x.xpois ∧ y.v = x.v ∧ y.k = x.k ∧ y.z = x.z ∧ y.q = x.q ∧ y.qb = x.qb ∧ y.tk = x.tk ∧ y.rcp = x.rcp ∧
       y.xpc = x.xpc ∧ y.fctl = x.fctl ∧ y.fstat = x.fstat ∧ y.xcsr = x.xcsr ∧ y.ctx = x.ctx ∧ y.l1 = x.l1 ∧ y.claims = x.claims)

end Sys2Proof.Says

/-- R323, R324, R332, log entry 1: the words at the PC of the stream whose turn it is are decoded, and the step is what `exec` does with
the instruction, in the tile's next cycle, with the bookkeeping of R313 and R477 after it; a refused word is `illegalInstruction`; an event of the
schedule is its own `exec`; a unit runs the word at its program's pc. -/
def Obligations.StepRunsTheDecodedInstruction : Prop :=
  ∀ (s : State) (a : Agent) (r : List Agent), (s.agenda = a :: r ∨ s.agenda = [] ∧ s.focus = a ∧ r = []) →
    let u : State := { s.elapse with agenda := r }
    (∀ (g : BitVec 8) (st : Stream),
      let x := u.tile g
      let w0 := u.imemWord g st (x.pc st)
      let w1 := u.imemWord g st (x.pc st + 1)
      let on : State := { u.tileCycle g with cur := .stream g st }
      a = .stream g st → x.live = true → x.stepped st = false → u.railsOff = false → x.locked st (x.pc st) = false →
      (0x30 ≤ (w0.extractLsb' 26 6).toNat → (w0.extractLsb' 26 6).toNat ≤ 0x3E → x.locked st (x.pc st + 1) = false) → (∀ j : BitVec 3, (vget x.brk BrkSlot.reset j).valid = false) →
      (∀ i, decodeIssue w0 w1 st (x.ctx == some 0) = .ok i → 
        step s = Outcome.after (exec i on) fun t => (t.afterWord g st i false (x.csr st).tin).deliverWrap g st) ∧
      (∀ c, decodeIssue w0 w1 st (x.ctx == some 0) = .error c →
        step s = Outcome.after (exec (.illegalInstruction w0 w1) on) fun t => State.deliverWrap { t with cur := .none } g st)) ∧
    (∀ (k : BitVec 4) w i, a = .interp k → (vget u.interps Interp.reset k).running = true → (vget u.interps Interp.reset k).word = some w →
      decodeQ w = .ok i → step s = Outcome.after (exec i { u with cur := .interp k }) fun t => { t with cur := .none }) ∧
    (∀ i, a = .event i → step s = exec i u)

/-- R341's worked example, R345's `NOP`, and words written out from the maps of R81, R335 to R341: each decodes to its instruction. -/
def Obligations.WordsOfTheSpecDecode : Prop :=
  decodeStream 0x40E5B040 0 = .ok (.ldd 7 5 2 64) ∧ decodeStream 0x28221FFD 0 = .ok (.beq 1 2 0x1FFD) ∧
  decodeStream 0x8C50420E 0 = .ok (.vfma 5 1 2 3 2) ∧
  decodeStream 0xC0610000 0x214C0000 = .ok (.copy { tp := 3, ta := 1, tb := 0, tc := 0 } 4 5 6 false 0 0) ∧
  decodeStream 0x08000000 0 = .ok (.addi 0 0 0) ∧
  decodeStream 0b000001_00011_00001_00010_00000_000001#32 0 = .ok (.sub 3 1 2) ∧
  decodeStream 0b001000_00101_00001_00010_00000_000010#32 0 = .ok (.cmpLt 5 1 2) ∧
  decodeStream 0b010010_00011_00001_00010_00110_000010#32 0 = .error 0x01 ∧
  decodeStream 0b101100_000011_000000_0000000101_0000#32 0 = .ok (.csrrd 3 5) ∧
  decodeQ 0b000001_0001_0010_0011_00000000000000#32 = .ok (.qadd 1 2 3) ∧
  decodeStream 0 0 = .error 0x00

/-- R323 to R341, R81, R82: the words of a well-formed instruction decode to it, with every operand at every value that the encoding
admits, whatever word follows a one-word form; a queue-program word is read by the map of R82. -/
def Obligations.EncodedInstructionsDecodeToThemselves : Prop :=
  ∀ (i : Instr) (next : W32), i.Wf →
    (∀ w, encode i = [w] → isQueueInstr i = true → decodeQ w = .ok i) ∧
    (∀ w, encode i = [w] → isQueueInstr i = false → decodeStream w next = .ok i) ∧
    (∀ w0 w1, encode i = [w0, w1] → decodeStream w0 w1 = .ok i) ∧ (encode i).length ≤ 2

/-- Every step keeps the storage of the package in its canonical form: strictly rising addresses, and no listed byte that is what an
unlisted address reads as. -/
def Obligations.EveryStepKeepsStorageCanonical : Prop :=
  ∀ s t : State, s.MemWf → step s = .next t → t.MemWf

/-- R43, R66, R146, R228: values that the manual gives for reset, and an empty storage in canonical form (what its bytes then read as is the
model's choice, log entry 7). -/
def Obligations.ResetLeavesTheStatedValues : Prop :=
  State.reset.MemWf ∧ State.reset.budget = 0x2300 ∧ State.reset.budgetLock = false ∧
  (∀ f : BitVec 10, State.reset.queueFn f = 0) ∧
  (∀ q : BitVec 10, let x := State.reset.queue q
    x.base = 0 ∧ x.en = false ∧ x.head = 0 ∧ x.tail = 0 ∧ x.ctx = 0 ∧ x.err = 0 ∧ x.halted = false) ∧
  (∀ c : BitVec 6, (State.reset.tenant c).active = true) ∧ (∀ d : BitVec 2, vget State.reset.idxLog 0 d = 0) ∧ State.reset.indexReady = false ∧
  State.reset.gangArmed = false ∧ State.reset.debug = false

/-- R353, R355 to R358: the frame of the register and flag forms of the A-stream: what they leave unchanged. -/
def Obligations.RegisterAndFlagFormsChangeNothingElse : Prop :=
  ∀ (s t : State) (g : BitVec 8) (i : Instr), s.cur = .stream g .a → exec i s = .next t →
    (∀ d, writesD i = some d → keepsRest s t g ∧ (∀ r, r ≠ d → scalar (t.tile g) .a r = scalar (s.tile g) .a r) ∧ scalar (t.tile g) .a 0 = (0, false) ∧
      (t.tile g).flags = (s.tile g).flags ∧ (t.tile g).fpend = (s.tile g).fpend ∧ (t.tile g).acsr = (s.tile g).acsr) ∧
    (∀ f : F3, writesF i = some f → keepsRest s t g ∨ ∃ c, t = trapped s g .a { code := c }) ∧
    (∀ f : F3, writesF i = some f → keepsRest s t g → (t.tile g).areg = (s.tile g).areg ∧ (t.tile g).apois = (s.tile g).apois ∧
      ∀ e : F3, e ≠ f → (t.tile g).flags.getLsbD e.toNat = (s.tile g).flags.getLsbD e.toNat)
end

