-- ==== Sys2Proof/Laws/Fields.lean ====
section
/-! SUPPORT. The fields of an encoded word: what each extraction of the decoder reads from each format of the encoder. -/

namespace Sys2Proof

@[simp] theorem fld_encR_0_6 (op : Nat) (d s t c : BitVec 5) (fn : Nat) : fld (encR op d s t c fn) 0 6 = BitVec.ofNat 6 fn := by
  refine BitVec.eq_of_getLsbD_eq fun i hi => ?_
  simp only [fld, encR, BitVec.getLsbD_extractLsb', BitVec.getLsbD_append]
  interval_cases i <;> simp

@[simp] theorem fld_encR_6_1 (op : Nat) (d s t c : BitVec 5) (fn : Nat) : fld (encR op d s t c fn) 6 1 = c.extractLsb' 0 1 := by
  refine BitVec.eq_of_getLsbD_eq fun i hi => ?_
  simp only [fld, encR, BitVec.getLsbD_extractLsb', BitVec.getLsbD_append]
  interval_cases i <;> simp

@[simp] theorem fld_encR_6_5 (op : Nat) (d s t c : BitVec 5) (fn : Nat) : fld (encR op d s t c fn) 6 5 = c := by
  refine BitVec.eq_of_getLsbD_eq fun i hi => ?_
  simp only [fld, encR, BitVec.getLsbD_extractLsb', BitVec.getLsbD_append]
  interval_cases i <;> simp

@[simp] theorem fld_encR_6_10 (op : Nat) (d s t c : BitVec 5) (fn : Nat) : fld (encR op d s t c fn) 6 10 = t ++ c := by
  refine BitVec.eq_of_getLsbD_eq fun i hi => ?_
  simp only [fld, encR, BitVec.getLsbD_extractLsb', BitVec.getLsbD_append]
  interval_cases i <;> simp

@[simp] theorem fld_encR_6_15 (op : Nat) (d s t c : BitVec 5) (fn : Nat) : fld (encR op d s t c fn) 6 15 = s ++ t ++ c := by
  refine BitVec.eq_of_getLsbD_eq fun i hi => ?_
  simp only [fld, encR, BitVec.getLsbD_extractLsb', BitVec.getLsbD_append]
  interval_cases i <;> simp

@[simp] theorem fld_encR_7_2 (op : Nat) (d s t c : BitVec 5) (fn : Nat) : fld (encR op d s t c fn) 7 2 = c.extractLsb' 1 2 := by
  refine BitVec.eq_of_getLsbD_eq fun i hi => ?_
  simp only [fld, encR, BitVec.getLsbD_extractLsb', BitVec.getLsbD_append]
  interval_cases i <;> simp

@[simp] theorem fld_encR_9_2 (op : Nat) (d s t c : BitVec 5) (fn : Nat) : fld (encR op d s t c fn) 9 2 = c.extractLsb' 3 2 := by
  refine BitVec.eq_of_getLsbD_eq fun i hi => ?_
  simp only [fld, encR, BitVec.getLsbD_extractLsb', BitVec.getLsbD_append]
  interval_cases i <;> simp

@[simp] theorem fld_encR_11_3 (op : Nat) (d s t c : BitVec 5) (fn : Nat) : fld (encR op d s t c fn) 11 3 = t.extractLsb' 0 3 := by
  refine BitVec.eq_of_getLsbD_eq fun i hi => ?_
  simp only [fld, encR, BitVec.getLsbD_extractLsb', BitVec.getLsbD_append]
  interval_cases i <;> simp

@[simp] theorem fld_encR_11_5 (op : Nat) (d s t c : BitVec 5) (fn : Nat) : fld (encR op d s t c fn) 11 5 = t := by
  refine BitVec.eq_of_getLsbD_eq fun i hi => ?_
  simp only [fld, encR, BitVec.getLsbD_extractLsb', BitVec.getLsbD_append]
  interval_cases i <;> simp

@[simp] theorem fld_encR_11_15 (op : Nat) (d s t c : BitVec 5) (fn : Nat) : fld (encR op d s t c fn) 11 15 = d ++ s ++ t := by
  refine BitVec.eq_of_getLsbD_eq fun i hi => ?_
  simp only [fld, encR, BitVec.getLsbD_extractLsb', BitVec.getLsbD_append]
  interval_cases i <;> simp

@[simp] theorem fld_encR_14_2 (op : Nat) (d s t c : BitVec 5) (fn : Nat) : fld (encR op d s t c fn) 14 2 = t.extractLsb' 3 2 := by
  refine BitVec.eq_of_getLsbD_eq fun i hi => ?_
  simp only [fld, encR, BitVec.getLsbD_extractLsb', BitVec.getLsbD_append]
  interval_cases i <;> simp

@[simp] theorem fld_encR_16_3 (op : Nat) (d s t c : BitVec 5) (fn : Nat) : fld (encR op d s t c fn) 16 3 = s.extractLsb' 0 3 := by
  refine BitVec.eq_of_getLsbD_eq fun i hi => ?_
  simp only [fld, encR, BitVec.getLsbD_extractLsb', BitVec.getLsbD_append]
  interval_cases i <;> simp

@[simp] theorem fld_encR_16_5 (op : Nat) (d s t c : BitVec 5) (fn : Nat) : fld (encR op d s t c fn) 16 5 = s := by
  refine BitVec.eq_of_getLsbD_eq fun i hi => ?_
  simp only [fld, encR, BitVec.getLsbD_extractLsb', BitVec.getLsbD_append]
  interval_cases i <;> simp

@[simp] theorem fld_encR_19_2 (op : Nat) (d s t c : BitVec 5) (fn : Nat) : fld (encR op d s t c fn) 19 2 = s.extractLsb' 3 2 := by
  refine BitVec.eq_of_getLsbD_eq fun i hi => ?_
  simp only [fld, encR, BitVec.getLsbD_extractLsb', BitVec.getLsbD_append]
  interval_cases i <;> simp

@[simp] theorem fld_encR_21_3 (op : Nat) (d s t c : BitVec 5) (fn : Nat) : fld (encR op d s t c fn) 21 3 = d.extractLsb' 0 3 := by
  refine BitVec.eq_of_getLsbD_eq fun i hi => ?_
  simp only [fld, encR, BitVec.getLsbD_extractLsb', BitVec.getLsbD_append]
  interval_cases i <;> simp

@[simp] theorem fld_encR_21_5 (op : Nat) (d s t c : BitVec 5) (fn : Nat) : fld (encR op d s t c fn) 21 5 = d := by
  refine BitVec.eq_of_getLsbD_eq fun i hi => ?_
  simp only [fld, encR, BitVec.getLsbD_extractLsb', BitVec.getLsbD_append]
  interval_cases i <;> simp

@[simp] theorem fld_encR_24_2 (op : Nat) (d s t c : BitVec 5) (fn : Nat) : fld (encR op d s t c fn) 24 2 = d.extractLsb' 3 2 := by
  refine BitVec.eq_of_getLsbD_eq fun i hi => ?_
  simp only [fld, encR, BitVec.getLsbD_extractLsb', BitVec.getLsbD_append]
  interval_cases i <;> simp

@[simp] theorem fld_encR_26_6 (op : Nat) (d s t c : BitVec 5) (fn : Nat) : fld (encR op d s t c fn) 26 6 = BitVec.ofNat 6 op := by
  refine BitVec.eq_of_getLsbD_eq fun i hi => ?_
  simp only [fld, encR, BitVec.getLsbD_extractLsb', BitVec.getLsbD_append]
  interval_cases i <;> simp

@[simp] theorem fld_encI_0_6 (op : Nat) (d s : BitVec 5) (i : BitVec 16) : fld (encI op d s i) 0 6 = i.extractLsb' 0 6 := by
  refine BitVec.eq_of_getLsbD_eq fun i hi => ?_
  simp only [fld, encI, BitVec.getLsbD_extractLsb', BitVec.getLsbD_append]
  interval_cases i <;> simp

@[simp] theorem fld_encI_0_16 (op : Nat) (d s : BitVec 5) (i : BitVec 16) : fld (encI op d s i) 0 16 = i := by
  refine BitVec.eq_of_getLsbD_eq fun i hi => ?_
  simp only [fld, encI, BitVec.getLsbD_extractLsb', BitVec.getLsbD_append]
  interval_cases i <;> simp

@[simp] theorem fld_encI_6_6 (op : Nat) (d s : BitVec 5) (i : BitVec 16) : fld (encI op d s i) 6 6 = i.extractLsb' 6 6 := by
  refine BitVec.eq_of_getLsbD_eq fun i hi => ?_
  simp only [fld, encI, BitVec.getLsbD_extractLsb', BitVec.getLsbD_append]
  interval_cases i <;> simp

@[simp] theorem fld_encI_12_4 (op : Nat) (d s : BitVec 5) (i : BitVec 16) : fld (encI op d s i) 12 4 = i.extractLsb' 12 4 := by
  refine BitVec.eq_of_getLsbD_eq fun i hi => ?_
  simp only [fld, encI, BitVec.getLsbD_extractLsb', BitVec.getLsbD_append]
  interval_cases i <;> simp

@[simp] theorem fld_encI_16_2 (op : Nat) (d s : BitVec 5) (i : BitVec 16) : fld (encI op d s i) 16 2 = s.extractLsb' 0 2 := by
  refine BitVec.eq_of_getLsbD_eq fun i hi => ?_
  simp only [fld, encI, BitVec.getLsbD_extractLsb', BitVec.getLsbD_append]
  interval_cases i <;> simp

@[simp] theorem fld_encI_16_5 (op : Nat) (d s : BitVec 5) (i : BitVec 16) : fld (encI op d s i) 16 5 = s := by
  refine BitVec.eq_of_getLsbD_eq fun i hi => ?_
  simp only [fld, encI, BitVec.getLsbD_extractLsb', BitVec.getLsbD_append]
  interval_cases i <;> simp

@[simp] theorem fld_encI_18_3 (op : Nat) (d s : BitVec 5) (i : BitVec 16) : fld (encI op d s i) 18 3 = s.extractLsb' 2 3 := by
  refine BitVec.eq_of_getLsbD_eq fun i hi => ?_
  simp only [fld, encI, BitVec.getLsbD_extractLsb', BitVec.getLsbD_append]
  interval_cases i <;> simp

@[simp] theorem fld_encI_21_5 (op : Nat) (d s : BitVec 5) (i : BitVec 16) : fld (encI op d s i) 21 5 = d := by
  refine BitVec.eq_of_getLsbD_eq fun i hi => ?_
  simp only [fld, encI, BitVec.getLsbD_extractLsb', BitVec.getLsbD_append]
  interval_cases i <;> simp

@[simp] theorem fld_encI_26_6 (op : Nat) (d s : BitVec 5) (i : BitVec 16) : fld (encI op d s i) 26 6 = BitVec.ofNat 6 op := by
  refine BitVec.eq_of_getLsbD_eq fun i hi => ?_
  simp only [fld, encI, BitVec.getLsbD_extractLsb', BitVec.getLsbD_append]
  interval_cases i <;> simp

@[simp] theorem fld_encB_0_13 (op : Nat) (s t : BitVec 5) (cc : Nat) (disp : BitVec 13) : fld (encB op s t cc disp) 0 13 = disp := by
  refine BitVec.eq_of_getLsbD_eq fun i hi => ?_
  simp only [fld, encB, BitVec.getLsbD_extractLsb', BitVec.getLsbD_append]
  interval_cases i <;> simp

@[simp] theorem fld_encB_13_3 (op : Nat) (s t : BitVec 5) (cc : Nat) (disp : BitVec 13) : fld (encB op s t cc disp) 13 3 = BitVec.ofNat 3 cc := by
  refine BitVec.eq_of_getLsbD_eq fun i hi => ?_
  simp only [fld, encB, BitVec.getLsbD_extractLsb', BitVec.getLsbD_append]
  interval_cases i <;> simp

@[simp] theorem fld_encB_16_5 (op : Nat) (s t : BitVec 5) (cc : Nat) (disp : BitVec 13) : fld (encB op s t cc disp) 16 5 = t := by
  refine BitVec.eq_of_getLsbD_eq fun i hi => ?_
  simp only [fld, encB, BitVec.getLsbD_extractLsb', BitVec.getLsbD_append]
  interval_cases i <;> simp

@[simp] theorem fld_encB_21_3 (op : Nat) (s t : BitVec 5) (cc : Nat) (disp : BitVec 13) : fld (encB op s t cc disp) 21 3 = s.extractLsb' 0 3 := by
  refine BitVec.eq_of_getLsbD_eq fun i hi => ?_
  simp only [fld, encB, BitVec.getLsbD_extractLsb', BitVec.getLsbD_append]
  interval_cases i <;> simp

@[simp] theorem fld_encB_21_5 (op : Nat) (s t : BitVec 5) (cc : Nat) (disp : BitVec 13) : fld (encB op s t cc disp) 21 5 = s := by
  refine BitVec.eq_of_getLsbD_eq fun i hi => ?_
  simp only [fld, encB, BitVec.getLsbD_extractLsb', BitVec.getLsbD_append]
  interval_cases i <;> simp

@[simp] theorem fld_encB_24_2 (op : Nat) (s t : BitVec 5) (cc : Nat) (disp : BitVec 13) : fld (encB op s t cc disp) 24 2 = s.extractLsb' 3 2 := by
  refine BitVec.eq_of_getLsbD_eq fun i hi => ?_
  simp only [fld, encB, BitVec.getLsbD_extractLsb', BitVec.getLsbD_append]
  interval_cases i <;> simp

@[simp] theorem fld_encB_26_6 (op : Nat) (s t : BitVec 5) (cc : Nat) (disp : BitVec 13) : fld (encB op s t cc disp) 26 6 = BitVec.ofNat 6 op := by
  refine BitVec.eq_of_getLsbD_eq fun i hi => ?_
  simp only [fld, encB, BitVec.getLsbD_extractLsb', BitVec.getLsbD_append]
  interval_cases i <;> simp

@[simp] theorem fld_encM_0_11 (op : Nat) (d b : BitVec 5) (p : BitVec 2) (sz sgn : Nat) (o : BitVec 11) : fld (encM op d b p sz sgn o) 0 11 = o := by
  refine BitVec.eq_of_getLsbD_eq fun i hi => ?_
  simp only [fld, encM, BitVec.getLsbD_extractLsb', BitVec.getLsbD_append]
  interval_cases i <;> simp

@[simp] theorem fld_encM_11_1 (op : Nat) (d b : BitVec 5) (p : BitVec 2) (sz sgn : Nat) (o : BitVec 11) : fld (encM op d b p sz sgn o) 11 1 = BitVec.ofNat 1 sgn := by
  refine BitVec.eq_of_getLsbD_eq fun i hi => ?_
  simp only [fld, encM, BitVec.getLsbD_extractLsb', BitVec.getLsbD_append]
  interval_cases i <;> simp

@[simp] theorem fld_encM_12_2 (op : Nat) (d b : BitVec 5) (p : BitVec 2) (sz sgn : Nat) (o : BitVec 11) : fld (encM op d b p sz sgn o) 12 2 = BitVec.ofNat 2 sz := by
  refine BitVec.eq_of_getLsbD_eq fun i hi => ?_
  simp only [fld, encM, BitVec.getLsbD_extractLsb', BitVec.getLsbD_append]
  interval_cases i <;> simp

@[simp] theorem fld_encM_14_2 (op : Nat) (d b : BitVec 5) (p : BitVec 2) (sz sgn : Nat) (o : BitVec 11) : fld (encM op d b p sz sgn o) 14 2 = p := by
  refine BitVec.eq_of_getLsbD_eq fun i hi => ?_
  simp only [fld, encM, BitVec.getLsbD_extractLsb', BitVec.getLsbD_append]
  interval_cases i <;> simp

@[simp] theorem fld_encM_16_5 (op : Nat) (d b : BitVec 5) (p : BitVec 2) (sz sgn : Nat) (o : BitVec 11) : fld (encM op d b p sz sgn o) 16 5 = b := by
  refine BitVec.eq_of_getLsbD_eq fun i hi => ?_
  simp only [fld, encM, BitVec.getLsbD_extractLsb', BitVec.getLsbD_append]
  interval_cases i <;> simp

@[simp] theorem fld_encM_21_5 (op : Nat) (d b : BitVec 5) (p : BitVec 2) (sz sgn : Nat) (o : BitVec 11) : fld (encM op d b p sz sgn o) 21 5 = d := by
  refine BitVec.eq_of_getLsbD_eq fun i hi => ?_
  simp only [fld, encM, BitVec.getLsbD_extractLsb', BitVec.getLsbD_append]
  interval_cases i <;> simp

@[simp] theorem fld_encM_26_6 (op : Nat) (d b : BitVec 5) (p : BitVec 2) (sz sgn : Nat) (o : BitVec 11) : fld (encM op d b p sz sgn o) 26 6 = BitVec.ofNat 6 op := by
  refine BitVec.eq_of_getLsbD_eq fun i hi => ?_
  simp only [fld, encM, BitVec.getLsbD_extractLsb', BitVec.getLsbD_append]
  interval_cases i <;> simp

@[simp] theorem fld_encQ_0_11 (op : Nat) (r : BitVec 6) (q : BitVec 4) (p : BitVec 2) (fn : Nat) (o : BitVec 11) : fld (encQ op r q p fn o) 0 11 = o := by
  refine BitVec.eq_of_getLsbD_eq fun i hi => ?_
  simp only [fld, encQ, BitVec.getLsbD_extractLsb', BitVec.getLsbD_append]
  interval_cases i <;> simp

@[simp] theorem fld_encQ_11_3 (op : Nat) (r : BitVec 6) (q : BitVec 4) (p : BitVec 2) (fn : Nat) (o : BitVec 11) : fld (encQ op r q p fn o) 11 3 = BitVec.ofNat 3 fn := by
  refine BitVec.eq_of_getLsbD_eq fun i hi => ?_
  simp only [fld, encQ, BitVec.getLsbD_extractLsb', BitVec.getLsbD_append]
  interval_cases i <;> simp

@[simp] theorem fld_encQ_14_2 (op : Nat) (r : BitVec 6) (q : BitVec 4) (p : BitVec 2) (fn : Nat) (o : BitVec 11) : fld (encQ op r q p fn o) 14 2 = p := by
  refine BitVec.eq_of_getLsbD_eq fun i hi => ?_
  simp only [fld, encQ, BitVec.getLsbD_extractLsb', BitVec.getLsbD_append]
  interval_cases i <;> simp

@[simp] theorem fld_encQ_16_4 (op : Nat) (r : BitVec 6) (q : BitVec 4) (p : BitVec 2) (fn : Nat) (o : BitVec 11) : fld (encQ op r q p fn o) 16 4 = q := by
  refine BitVec.eq_of_getLsbD_eq fun i hi => ?_
  simp only [fld, encQ, BitVec.getLsbD_extractLsb', BitVec.getLsbD_append]
  interval_cases i <;> simp

@[simp] theorem fld_encQ_20_3 (op : Nat) (r : BitVec 6) (q : BitVec 4) (p : BitVec 2) (fn : Nat) (o : BitVec 11) : fld (encQ op r q p fn o) 20 3 = r.extractLsb' 0 3 := by
  refine BitVec.eq_of_getLsbD_eq fun i hi => ?_
  simp only [fld, encQ, BitVec.getLsbD_extractLsb', BitVec.getLsbD_append]
  interval_cases i <;> simp

@[simp] theorem fld_encQ_20_5 (op : Nat) (r : BitVec 6) (q : BitVec 4) (p : BitVec 2) (fn : Nat) (o : BitVec 11) : fld (encQ op r q p fn o) 20 5 = r.extractLsb' 0 5 := by
  refine BitVec.eq_of_getLsbD_eq fun i hi => ?_
  simp only [fld, encQ, BitVec.getLsbD_extractLsb', BitVec.getLsbD_append]
  interval_cases i <;> simp

@[simp] theorem fld_encQ_20_6 (op : Nat) (r : BitVec 6) (q : BitVec 4) (p : BitVec 2) (fn : Nat) (o : BitVec 11) : fld (encQ op r q p fn o) 20 6 = r := by
  refine BitVec.eq_of_getLsbD_eq fun i hi => ?_
  simp only [fld, encQ, BitVec.getLsbD_extractLsb', BitVec.getLsbD_append]
  interval_cases i <;> simp

@[simp] theorem fld_encQ_23_3 (op : Nat) (r : BitVec 6) (q : BitVec 4) (p : BitVec 2) (fn : Nat) (o : BitVec 11) : fld (encQ op r q p fn o) 23 3 = r.extractLsb' 3 3 := by
  refine BitVec.eq_of_getLsbD_eq fun i hi => ?_
  simp only [fld, encQ, BitVec.getLsbD_extractLsb', BitVec.getLsbD_append]
  interval_cases i <;> simp

@[simp] theorem fld_encQ_25_1 (op : Nat) (r : BitVec 6) (q : BitVec 4) (p : BitVec 2) (fn : Nat) (o : BitVec 11) : fld (encQ op r q p fn o) 25 1 = r.extractLsb' 5 1 := by
  refine BitVec.eq_of_getLsbD_eq fun i hi => ?_
  simp only [fld, encQ, BitVec.getLsbD_extractLsb', BitVec.getLsbD_append]
  interval_cases i <;> simp

@[simp] theorem fld_encQ_26_6 (op : Nat) (r : BitVec 6) (q : BitVec 4) (p : BitVec 2) (fn : Nat) (o : BitVec 11) : fld (encQ op r q p fn o) 26 6 = BitVec.ofNat 6 op := by
  refine BitVec.eq_of_getLsbD_eq fun i hi => ?_
  simp only [fld, encQ, BitVec.getLsbD_extractLsb', BitVec.getLsbD_append]
  interval_cases i <;> simp

@[simp] theorem fld_encV_0_4 (op d a b : BitVec 6) (m : BitVec 4) (fn : Nat) : fld (encV op d a b m fn) 0 4 = BitVec.ofNat 4 fn := by
  refine BitVec.eq_of_getLsbD_eq fun i hi => ?_
  simp only [fld, encV, BitVec.getLsbD_extractLsb', BitVec.getLsbD_append]
  interval_cases i <;> simp

@[simp] theorem fld_encV_4_4 (op d a b : BitVec 6) (m : BitVec 4) (fn : Nat) : fld (encV op d a b m fn) 4 4 = m := by
  refine BitVec.eq_of_getLsbD_eq fun i hi => ?_
  simp only [fld, encV, BitVec.getLsbD_extractLsb', BitVec.getLsbD_append]
  interval_cases i <;> simp

@[simp] theorem fld_encV_8_4 (op d a b : BitVec 6) (m : BitVec 4) (fn : Nat) : fld (encV op d a b m fn) 8 4 = b.extractLsb' 0 4 := by
  refine BitVec.eq_of_getLsbD_eq fun i hi => ?_
  simp only [fld, encV, BitVec.getLsbD_extractLsb', BitVec.getLsbD_append]
  interval_cases i <;> simp

@[simp] theorem fld_encV_8_5 (op d a b : BitVec 6) (m : BitVec 4) (fn : Nat) : fld (encV op d a b m fn) 8 5 = b.extractLsb' 0 5 := by
  refine BitVec.eq_of_getLsbD_eq fun i hi => ?_
  simp only [fld, encV, BitVec.getLsbD_extractLsb', BitVec.getLsbD_append]
  interval_cases i <;> simp

@[simp] theorem fld_encV_8_6 (op d a b : BitVec 6) (m : BitVec 4) (fn : Nat) : fld (encV op d a b m fn) 8 6 = b := by
  refine BitVec.eq_of_getLsbD_eq fun i hi => ?_
  simp only [fld, encV, BitVec.getLsbD_extractLsb', BitVec.getLsbD_append]
  interval_cases i <;> simp

@[simp] theorem fld_encV_12_2 (op d a b : BitVec 6) (m : BitVec 4) (fn : Nat) : fld (encV op d a b m fn) 12 2 = b.extractLsb' 4 2 := by
  refine BitVec.eq_of_getLsbD_eq fun i hi => ?_
  simp only [fld, encV, BitVec.getLsbD_extractLsb', BitVec.getLsbD_append]
  interval_cases i <;> simp

@[simp] theorem fld_encV_13_1 (op d a b : BitVec 6) (m : BitVec 4) (fn : Nat) : fld (encV op d a b m fn) 13 1 = b.extractLsb' 5 1 := by
  refine BitVec.eq_of_getLsbD_eq fun i hi => ?_
  simp only [fld, encV, BitVec.getLsbD_extractLsb', BitVec.getLsbD_append]
  interval_cases i <;> simp

@[simp] theorem fld_encV_14_3 (op d a b : BitVec 6) (m : BitVec 4) (fn : Nat) : fld (encV op d a b m fn) 14 3 = a.extractLsb' 0 3 := by
  refine BitVec.eq_of_getLsbD_eq fun i hi => ?_
  simp only [fld, encV, BitVec.getLsbD_extractLsb', BitVec.getLsbD_append]
  interval_cases i <;> simp

@[simp] theorem fld_encV_14_4 (op d a b : BitVec 6) (m : BitVec 4) (fn : Nat) : fld (encV op d a b m fn) 14 4 = a.extractLsb' 0 4 := by
  refine BitVec.eq_of_getLsbD_eq fun i hi => ?_
  simp only [fld, encV, BitVec.getLsbD_extractLsb', BitVec.getLsbD_append]
  interval_cases i <;> simp

@[simp] theorem fld_encV_14_5 (op d a b : BitVec 6) (m : BitVec 4) (fn : Nat) : fld (encV op d a b m fn) 14 5 = a.extractLsb' 0 5 := by
  refine BitVec.eq_of_getLsbD_eq fun i hi => ?_
  simp only [fld, encV, BitVec.getLsbD_extractLsb', BitVec.getLsbD_append]
  interval_cases i <;> simp

@[simp] theorem fld_encV_14_6 (op d a b : BitVec 6) (m : BitVec 4) (fn : Nat) : fld (encV op d a b m fn) 14 6 = a := by
  refine BitVec.eq_of_getLsbD_eq fun i hi => ?_
  simp only [fld, encV, BitVec.getLsbD_extractLsb', BitVec.getLsbD_append]
  interval_cases i <;> simp

@[simp] theorem fld_encV_17_3 (op d a b : BitVec 6) (m : BitVec 4) (fn : Nat) : fld (encV op d a b m fn) 17 3 = a.extractLsb' 3 3 := by
  refine BitVec.eq_of_getLsbD_eq fun i hi => ?_
  simp only [fld, encV, BitVec.getLsbD_extractLsb', BitVec.getLsbD_append]
  interval_cases i <;> simp

@[simp] theorem fld_encV_18_2 (op d a b : BitVec 6) (m : BitVec 4) (fn : Nat) : fld (encV op d a b m fn) 18 2 = a.extractLsb' 4 2 := by
  refine BitVec.eq_of_getLsbD_eq fun i hi => ?_
  simp only [fld, encV, BitVec.getLsbD_extractLsb', BitVec.getLsbD_append]
  interval_cases i <;> simp

@[simp] theorem fld_encV_19_1 (op d a b : BitVec 6) (m : BitVec 4) (fn : Nat) : fld (encV op d a b m fn) 19 1 = a.extractLsb' 5 1 := by
  refine BitVec.eq_of_getLsbD_eq fun i hi => ?_
  simp only [fld, encV, BitVec.getLsbD_extractLsb', BitVec.getLsbD_append]
  interval_cases i <;> simp

@[simp] theorem fld_encV_20_4 (op d a b : BitVec 6) (m : BitVec 4) (fn : Nat) : fld (encV op d a b m fn) 20 4 = d.extractLsb' 0 4 := by
  refine BitVec.eq_of_getLsbD_eq fun i hi => ?_
  simp only [fld, encV, BitVec.getLsbD_extractLsb', BitVec.getLsbD_append]
  interval_cases i <;> simp

@[simp] theorem fld_encV_20_5 (op d a b : BitVec 6) (m : BitVec 4) (fn : Nat) : fld (encV op d a b m fn) 20 5 = d.extractLsb' 0 5 := by
  refine BitVec.eq_of_getLsbD_eq fun i hi => ?_
  simp only [fld, encV, BitVec.getLsbD_extractLsb', BitVec.getLsbD_append]
  interval_cases i <;> simp

@[simp] theorem fld_encV_20_6 (op d a b : BitVec 6) (m : BitVec 4) (fn : Nat) : fld (encV op d a b m fn) 20 6 = d := by
  refine BitVec.eq_of_getLsbD_eq fun i hi => ?_
  simp only [fld, encV, BitVec.getLsbD_extractLsb', BitVec.getLsbD_append]
  interval_cases i <;> simp

@[simp] theorem fld_encV_24_2 (op d a b : BitVec 6) (m : BitVec 4) (fn : Nat) : fld (encV op d a b m fn) 24 2 = d.extractLsb' 4 2 := by
  refine BitVec.eq_of_getLsbD_eq fun i hi => ?_
  simp only [fld, encV, BitVec.getLsbD_extractLsb', BitVec.getLsbD_append]
  interval_cases i <;> simp

@[simp] theorem fld_encV_25_1 (op d a b : BitVec 6) (m : BitVec 4) (fn : Nat) : fld (encV op d a b m fn) 25 1 = d.extractLsb' 5 1 := by
  refine BitVec.eq_of_getLsbD_eq fun i hi => ?_
  simp only [fld, encV, BitVec.getLsbD_extractLsb', BitVec.getLsbD_append]
  interval_cases i <;> simp

@[simp] theorem fld_encV_26_6 (op d a b : BitVec 6) (m : BitVec 4) (fn : Nat) : fld (encV op d a b m fn) 26 6 = op := by
  refine BitVec.eq_of_getLsbD_eq fun i hi => ?_
  simp only [fld, encV, BitVec.getLsbD_extractLsb', BitVec.getLsbD_append]
  interval_cases i <;> simp

@[simp] theorem fld_encVM_0_6 (d : BitVec 6) (x : BitVec 5) (n : BitVec 3) (sel : Nat) (m : BitVec 4) (o : BitVec 6) : fld (encVM d x n sel m o) 0 6 = o := by
  refine BitVec.eq_of_getLsbD_eq fun i hi => ?_
  simp only [fld, encVM, BitVec.getLsbD_extractLsb', BitVec.getLsbD_append]
  interval_cases i <;> simp

@[simp] theorem fld_encVM_6_4 (d : BitVec 6) (x : BitVec 5) (n : BitVec 3) (sel : Nat) (m : BitVec 4) (o : BitVec 6) : fld (encVM d x n sel m o) 6 4 = m := by
  refine BitVec.eq_of_getLsbD_eq fun i hi => ?_
  simp only [fld, encVM, BitVec.getLsbD_extractLsb', BitVec.getLsbD_append]
  interval_cases i <;> simp

@[simp] theorem fld_encVM_10_2 (d : BitVec 6) (x : BitVec 5) (n : BitVec 3) (sel : Nat) (m : BitVec 4) (o : BitVec 6) : fld (encVM d x n sel m o) 10 2 = BitVec.ofNat 2 sel := by
  refine BitVec.eq_of_getLsbD_eq fun i hi => ?_
  simp only [fld, encVM, BitVec.getLsbD_extractLsb', BitVec.getLsbD_append]
  interval_cases i <;> simp

@[simp] theorem fld_encVM_12_3 (d : BitVec 6) (x : BitVec 5) (n : BitVec 3) (sel : Nat) (m : BitVec 4) (o : BitVec 6) : fld (encVM d x n sel m o) 12 3 = n := by
  refine BitVec.eq_of_getLsbD_eq fun i hi => ?_
  simp only [fld, encVM, BitVec.getLsbD_extractLsb', BitVec.getLsbD_append]
  interval_cases i <;> simp

@[simp] theorem fld_encVM_15_5 (d : BitVec 6) (x : BitVec 5) (n : BitVec 3) (sel : Nat) (m : BitVec 4) (o : BitVec 6) : fld (encVM d x n sel m o) 15 5 = x := by
  refine BitVec.eq_of_getLsbD_eq fun i hi => ?_
  simp only [fld, encVM, BitVec.getLsbD_extractLsb', BitVec.getLsbD_append]
  interval_cases i <;> simp

@[simp] theorem fld_encVM_20_6 (d : BitVec 6) (x : BitVec 5) (n : BitVec 3) (sel : Nat) (m : BitVec 4) (o : BitVec 6) : fld (encVM d x n sel m o) 20 6 = d := by
  refine BitVec.eq_of_getLsbD_eq fun i hi => ?_
  simp only [fld, encVM, BitVec.getLsbD_extractLsb', BitVec.getLsbD_append]
  interval_cases i <;> simp

@[simp] theorem fld_encVM_26_6 (d : BitVec 6) (x : BitVec 5) (n : BitVec 3) (sel : Nat) (m : BitVec 4) (o : BitVec 6) : fld (encVM d x n sel m o) 26 6 = (0x26 : BitVec 6) := by
  refine BitVec.eq_of_getLsbD_eq fun i hi => ?_
  simp only [fld, encVM, BitVec.getLsbD_extractLsb', BitVec.getLsbD_append]
  interval_cases i <;> simp

@[simp] theorem fld_encVF_0_2 (d a b c : BitVec 6) (f : BitVec 2) : fld (encVF d a b c f) 0 2 = f := by
  refine BitVec.eq_of_getLsbD_eq fun i hi => ?_
  simp only [fld, encVF, BitVec.getLsbD_extractLsb', BitVec.getLsbD_append]
  interval_cases i <;> simp

@[simp] theorem fld_encVF_2_6 (d a b c : BitVec 6) (f : BitVec 2) : fld (encVF d a b c f) 2 6 = c := by
  refine BitVec.eq_of_getLsbD_eq fun i hi => ?_
  simp only [fld, encVF, BitVec.getLsbD_extractLsb', BitVec.getLsbD_append]
  interval_cases i <;> simp

@[simp] theorem fld_encVF_8_6 (d a b c : BitVec 6) (f : BitVec 2) : fld (encVF d a b c f) 8 6 = b := by
  refine BitVec.eq_of_getLsbD_eq fun i hi => ?_
  simp only [fld, encVF, BitVec.getLsbD_extractLsb', BitVec.getLsbD_append]
  interval_cases i <;> simp

@[simp] theorem fld_encVF_14_6 (d a b c : BitVec 6) (f : BitVec 2) : fld (encVF d a b c f) 14 6 = a := by
  refine BitVec.eq_of_getLsbD_eq fun i hi => ?_
  simp only [fld, encVF, BitVec.getLsbD_extractLsb', BitVec.getLsbD_append]
  interval_cases i <;> simp

@[simp] theorem fld_encVF_20_6 (d a b c : BitVec 6) (f : BitVec 2) : fld (encVF d a b c f) 20 6 = d := by
  refine BitVec.eq_of_getLsbD_eq fun i hi => ?_
  simp only [fld, encVF, BitVec.getLsbD_extractLsb', BitVec.getLsbD_append]
  interval_cases i <;> simp

@[simp] theorem fld_encVF_26_6 (d a b c : BitVec 6) (f : BitVec 2) : fld (encVF d a b c f) 26 6 = (0x23 : BitVec 6) := by
  refine BitVec.eq_of_getLsbD_eq fun i hi => ?_
  simp only [fld, encVF, BitVec.getLsbD_extractLsb', BitVec.getLsbD_append]
  interval_cases i <;> simp

@[simp] theorem fld_encQL_0_9 (c : BitVec 6) (b : BitVec 9) : fld (encQL c b) 0 9 = b := by
  refine BitVec.eq_of_getLsbD_eq fun i hi => ?_
  simp only [fld, encQL, BitVec.getLsbD_extractLsb', BitVec.getLsbD_append]
  interval_cases i <;> simp

@[simp] theorem fld_encQL_9_11 (c : BitVec 6) (b : BitVec 9) : fld (encQL c b) 9 11 = (0 : BitVec 11) := by
  refine BitVec.eq_of_getLsbD_eq fun i hi => ?_
  simp only [fld, encQL, BitVec.getLsbD_extractLsb', BitVec.getLsbD_append]
  interval_cases i <;> simp

@[simp] theorem fld_encQL_20_6 (c : BitVec 6) (b : BitVec 9) : fld (encQL c b) 20 6 = c := by
  refine BitVec.eq_of_getLsbD_eq fun i hi => ?_
  simp only [fld, encQL, BitVec.getLsbD_extractLsb', BitVec.getLsbD_append]
  interval_cases i <;> simp

@[simp] theorem fld_encQL_26_6 (c : BitVec 6) (b : BitVec 9) : fld (encQL c b) 26 6 = (0x1C : BitVec 6) := by
  refine BitVec.eq_of_getLsbD_eq fun i hi => ?_
  simp only [fld, encQL, BitVec.getLsbD_extractLsb', BitVec.getLsbD_append]
  interval_cases i <;> simp

@[simp] theorem fld_encS_0_4 (op : Nat) (d s : BitVec 6) (c : BitVec 10) (fn : Nat) : fld (encS op d s c fn) 0 4 = BitVec.ofNat 4 fn := by
  refine BitVec.eq_of_getLsbD_eq fun i hi => ?_
  simp only [fld, encS, BitVec.getLsbD_extractLsb', BitVec.getLsbD_append]
  interval_cases i <;> simp

@[simp] theorem fld_encS_4_2 (op : Nat) (d s : BitVec 6) (c : BitVec 10) (fn : Nat) : fld (encS op d s c fn) 4 2 = c.extractLsb' 0 2 := by
  refine BitVec.eq_of_getLsbD_eq fun i hi => ?_
  simp only [fld, encS, BitVec.getLsbD_extractLsb', BitVec.getLsbD_append]
  interval_cases i <;> simp

@[simp] theorem fld_encS_4_5 (op : Nat) (d s : BitVec 6) (c : BitVec 10) (fn : Nat) : fld (encS op d s c fn) 4 5 = c.extractLsb' 0 5 := by
  refine BitVec.eq_of_getLsbD_eq fun i hi => ?_
  simp only [fld, encS, BitVec.getLsbD_extractLsb', BitVec.getLsbD_append]
  interval_cases i <;> simp

@[simp] theorem fld_encS_4_10 (op : Nat) (d s : BitVec 6) (c : BitVec 10) (fn : Nat) : fld (encS op d s c fn) 4 10 = c := by
  refine BitVec.eq_of_getLsbD_eq fun i hi => ?_
  simp only [fld, encS, BitVec.getLsbD_extractLsb', BitVec.getLsbD_append]
  interval_cases i <;> simp

@[simp] theorem fld_encS_6_8 (op : Nat) (d s : BitVec 6) (c : BitVec 10) (fn : Nat) : fld (encS op d s c fn) 6 8 = c.extractLsb' 2 8 := by
  refine BitVec.eq_of_getLsbD_eq fun i hi => ?_
  simp only [fld, encS, BitVec.getLsbD_extractLsb', BitVec.getLsbD_append]
  interval_cases i <;> simp

@[simp] theorem fld_encS_9_2 (op : Nat) (d s : BitVec 6) (c : BitVec 10) (fn : Nat) : fld (encS op d s c fn) 9 2 = c.extractLsb' 5 2 := by
  refine BitVec.eq_of_getLsbD_eq fun i hi => ?_
  simp only [fld, encS, BitVec.getLsbD_extractLsb', BitVec.getLsbD_append]
  interval_cases i <;> simp

@[simp] theorem fld_encS_9_5 (op : Nat) (d s : BitVec 6) (c : BitVec 10) (fn : Nat) : fld (encS op d s c fn) 9 5 = c.extractLsb' 5 5 := by
  refine BitVec.eq_of_getLsbD_eq fun i hi => ?_
  simp only [fld, encS, BitVec.getLsbD_extractLsb', BitVec.getLsbD_append]
  interval_cases i <;> simp

@[simp] theorem fld_encS_11_3 (op : Nat) (d s : BitVec 6) (c : BitVec 10) (fn : Nat) : fld (encS op d s c fn) 11 3 = c.extractLsb' 7 3 := by
  refine BitVec.eq_of_getLsbD_eq fun i hi => ?_
  simp only [fld, encS, BitVec.getLsbD_extractLsb', BitVec.getLsbD_append]
  interval_cases i <;> simp

@[simp] theorem fld_encS_14_3 (op : Nat) (d s : BitVec 6) (c : BitVec 10) (fn : Nat) : fld (encS op d s c fn) 14 3 = s.extractLsb' 0 3 := by
  refine BitVec.eq_of_getLsbD_eq fun i hi => ?_
  simp only [fld, encS, BitVec.getLsbD_extractLsb', BitVec.getLsbD_append]
  interval_cases i <;> simp

@[simp] theorem fld_encS_14_5 (op : Nat) (d s : BitVec 6) (c : BitVec 10) (fn : Nat) : fld (encS op d s c fn) 14 5 = s.extractLsb' 0 5 := by
  refine BitVec.eq_of_getLsbD_eq fun i hi => ?_
  simp only [fld, encS, BitVec.getLsbD_extractLsb', BitVec.getLsbD_append]
  interval_cases i <;> simp

@[simp] theorem fld_encS_14_6 (op : Nat) (d s : BitVec 6) (c : BitVec 10) (fn : Nat) : fld (encS op d s c fn) 14 6 = s := by
  refine BitVec.eq_of_getLsbD_eq fun i hi => ?_
  simp only [fld, encS, BitVec.getLsbD_extractLsb', BitVec.getLsbD_append]
  interval_cases i <;> simp

@[simp] theorem fld_encS_17_3 (op : Nat) (d s : BitVec 6) (c : BitVec 10) (fn : Nat) : fld (encS op d s c fn) 17 3 = s.extractLsb' 3 3 := by
  refine BitVec.eq_of_getLsbD_eq fun i hi => ?_
  simp only [fld, encS, BitVec.getLsbD_extractLsb', BitVec.getLsbD_append]
  interval_cases i <;> simp

@[simp] theorem fld_encS_19_1 (op : Nat) (d s : BitVec 6) (c : BitVec 10) (fn : Nat) : fld (encS op d s c fn) 19 1 = s.extractLsb' 5 1 := by
  refine BitVec.eq_of_getLsbD_eq fun i hi => ?_
  simp only [fld, encS, BitVec.getLsbD_extractLsb', BitVec.getLsbD_append]
  interval_cases i <;> simp

@[simp] theorem fld_encS_20_5 (op : Nat) (d s : BitVec 6) (c : BitVec 10) (fn : Nat) : fld (encS op d s c fn) 20 5 = d.extractLsb' 0 5 := by
  refine BitVec.eq_of_getLsbD_eq fun i hi => ?_
  simp only [fld, encS, BitVec.getLsbD_extractLsb', BitVec.getLsbD_append]
  interval_cases i <;> simp

@[simp] theorem fld_encS_20_6 (op : Nat) (d s : BitVec 6) (c : BitVec 10) (fn : Nat) : fld (encS op d s c fn) 20 6 = d := by
  refine BitVec.eq_of_getLsbD_eq fun i hi => ?_
  simp only [fld, encS, BitVec.getLsbD_extractLsb', BitVec.getLsbD_append]
  interval_cases i <;> simp

@[simp] theorem fld_encS_25_1 (op : Nat) (d s : BitVec 6) (c : BitVec 10) (fn : Nat) : fld (encS op d s c fn) 25 1 = d.extractLsb' 5 1 := by
  refine BitVec.eq_of_getLsbD_eq fun i hi => ?_
  simp only [fld, encS, BitVec.getLsbD_extractLsb', BitVec.getLsbD_append]
  interval_cases i <;> simp

@[simp] theorem fld_encS_26_6 (op : Nat) (d s : BitVec 6) (c : BitVec 10) (fn : Nat) : fld (encS op d s c fn) 26 6 = BitVec.ofNat 6 op := by
  refine BitVec.eq_of_getLsbD_eq fun i hi => ?_
  simp only [fld, encS, BitVec.getLsbD_extractLsb', BitVec.getLsbD_append]
  interval_cases i <;> simp

@[simp] theorem fld_encE0_0_4 (op : Nat) (e : ETok) (fn : BitVec 6) : fld (encE0 op e fn) 0 4 = fn.extractLsb' 0 4 := by
  refine BitVec.eq_of_getLsbD_eq fun i hi => ?_
  simp only [fld, encE0, BitVec.getLsbD_extractLsb', BitVec.getLsbD_append]
  interval_cases i <;> simp

@[simp] theorem fld_encE0_0_6 (op : Nat) (e : ETok) (fn : BitVec 6) : fld (encE0 op e fn) 0 6 = fn := by
  refine BitVec.eq_of_getLsbD_eq fun i hi => ?_
  simp only [fld, encE0, BitVec.getLsbD_extractLsb', BitVec.getLsbD_append]
  interval_cases i <;> simp

@[simp] theorem fld_encE0_4_2 (op : Nat) (e : ETok) (fn : BitVec 6) : fld (encE0 op e fn) 4 2 = fn.extractLsb' 4 2 := by
  refine BitVec.eq_of_getLsbD_eq fun i hi => ?_
  simp only [fld, encE0, BitVec.getLsbD_extractLsb', BitVec.getLsbD_append]
  interval_cases i <;> simp

@[simp] theorem fld_encE0_6_5 (op : Nat) (e : ETok) (fn : BitVec 6) : fld (encE0 op e fn) 6 5 = e.tc := by
  refine BitVec.eq_of_getLsbD_eq fun i hi => ?_
  simp only [fld, encE0, BitVec.getLsbD_extractLsb', BitVec.getLsbD_append]
  interval_cases i <;> simp

@[simp] theorem fld_encE0_11_5 (op : Nat) (e : ETok) (fn : BitVec 6) : fld (encE0 op e fn) 11 5 = e.tb := by
  refine BitVec.eq_of_getLsbD_eq fun i hi => ?_
  simp only [fld, encE0, BitVec.getLsbD_extractLsb', BitVec.getLsbD_append]
  interval_cases i <;> simp

@[simp] theorem fld_encE0_16_5 (op : Nat) (e : ETok) (fn : BitVec 6) : fld (encE0 op e fn) 16 5 = e.ta := by
  refine BitVec.eq_of_getLsbD_eq fun i hi => ?_
  simp only [fld, encE0, BitVec.getLsbD_extractLsb', BitVec.getLsbD_append]
  interval_cases i <;> simp

@[simp] theorem fld_encE0_21_5 (op : Nat) (e : ETok) (fn : BitVec 6) : fld (encE0 op e fn) 21 5 = e.tp := by
  refine BitVec.eq_of_getLsbD_eq fun i hi => ?_
  simp only [fld, encE0, BitVec.getLsbD_extractLsb', BitVec.getLsbD_append]
  interval_cases i <;> simp

@[simp] theorem fld_encE0_26_6 (op : Nat) (e : ETok) (fn : BitVec 6) : fld (encE0 op e fn) 26 6 = BitVec.ofNat 6 op := by
  refine BitVec.eq_of_getLsbD_eq fun i hi => ?_
  simp only [fld, encE0, BitVec.getLsbD_extractLsb', BitVec.getLsbD_append]
  interval_cases i <;> simp

@[simp] theorem fld_encE1_0_1 (sa sb sc : BitVec 5) (imm : BitVec 17) : fld (encE1 sa sb sc imm) 0 1 = imm.extractLsb' 0 1 := by
  refine BitVec.eq_of_getLsbD_eq fun i hi => ?_
  simp only [fld, encE1, BitVec.getLsbD_extractLsb', BitVec.getLsbD_append]
  interval_cases i <;> simp

@[simp] theorem fld_encE1_0_2 (sa sb sc : BitVec 5) (imm : BitVec 17) : fld (encE1 sa sb sc imm) 0 2 = imm.extractLsb' 0 2 := by
  refine BitVec.eq_of_getLsbD_eq fun i hi => ?_
  simp only [fld, encE1, BitVec.getLsbD_extractLsb', BitVec.getLsbD_append]
  interval_cases i <;> simp

@[simp] theorem fld_encE1_0_3 (sa sb sc : BitVec 5) (imm : BitVec 17) : fld (encE1 sa sb sc imm) 0 3 = imm.extractLsb' 0 3 := by
  refine BitVec.eq_of_getLsbD_eq fun i hi => ?_
  simp only [fld, encE1, BitVec.getLsbD_extractLsb', BitVec.getLsbD_append]
  interval_cases i <;> simp

@[simp] theorem fld_encE1_0_5 (sa sb sc : BitVec 5) (imm : BitVec 17) : fld (encE1 sa sb sc imm) 0 5 = imm.extractLsb' 0 5 := by
  refine BitVec.eq_of_getLsbD_eq fun i hi => ?_
  simp only [fld, encE1, BitVec.getLsbD_extractLsb', BitVec.getLsbD_append]
  interval_cases i <;> simp

@[simp] theorem fld_encE1_0_17 (sa sb sc : BitVec 5) (imm : BitVec 17) : fld (encE1 sa sb sc imm) 0 17 = imm := by
  refine BitVec.eq_of_getLsbD_eq fun i hi => ?_
  simp only [fld, encE1, BitVec.getLsbD_extractLsb', BitVec.getLsbD_append]
  interval_cases i <;> simp

@[simp] theorem fld_encE1_1_16 (sa sb sc : BitVec 5) (imm : BitVec 17) : fld (encE1 sa sb sc imm) 1 16 = imm.extractLsb' 1 16 := by
  refine BitVec.eq_of_getLsbD_eq fun i hi => ?_
  simp only [fld, encE1, BitVec.getLsbD_extractLsb', BitVec.getLsbD_append]
  interval_cases i <;> simp

@[simp] theorem fld_encE1_2_15 (sa sb sc : BitVec 5) (imm : BitVec 17) : fld (encE1 sa sb sc imm) 2 15 = imm.extractLsb' 2 15 := by
  refine BitVec.eq_of_getLsbD_eq fun i hi => ?_
  simp only [fld, encE1, BitVec.getLsbD_extractLsb', BitVec.getLsbD_append]
  interval_cases i <;> simp

@[simp] theorem fld_encE1_3_1 (sa sb sc : BitVec 5) (imm : BitVec 17) : fld (encE1 sa sb sc imm) 3 1 = imm.extractLsb' 3 1 := by
  refine BitVec.eq_of_getLsbD_eq fun i hi => ?_
  simp only [fld, encE1, BitVec.getLsbD_extractLsb', BitVec.getLsbD_append]
  interval_cases i <;> simp

@[simp] theorem fld_encE1_3_3 (sa sb sc : BitVec 5) (imm : BitVec 17) : fld (encE1 sa sb sc imm) 3 3 = imm.extractLsb' 3 3 := by
  refine BitVec.eq_of_getLsbD_eq fun i hi => ?_
  simp only [fld, encE1, BitVec.getLsbD_extractLsb', BitVec.getLsbD_append]
  interval_cases i <;> simp

@[simp] theorem fld_encE1_3_14 (sa sb sc : BitVec 5) (imm : BitVec 17) : fld (encE1 sa sb sc imm) 3 14 = imm.extractLsb' 3 14 := by
  refine BitVec.eq_of_getLsbD_eq fun i hi => ?_
  simp only [fld, encE1, BitVec.getLsbD_extractLsb', BitVec.getLsbD_append]
  interval_cases i <;> simp

@[simp] theorem fld_encE1_4_6 (sa sb sc : BitVec 5) (imm : BitVec 17) : fld (encE1 sa sb sc imm) 4 6 = imm.extractLsb' 4 6 := by
  refine BitVec.eq_of_getLsbD_eq fun i hi => ?_
  simp only [fld, encE1, BitVec.getLsbD_extractLsb', BitVec.getLsbD_append]
  interval_cases i <;> simp

@[simp] theorem fld_encE1_4_13 (sa sb sc : BitVec 5) (imm : BitVec 17) : fld (encE1 sa sb sc imm) 4 13 = imm.extractLsb' 4 13 := by
  refine BitVec.eq_of_getLsbD_eq fun i hi => ?_
  simp only [fld, encE1, BitVec.getLsbD_extractLsb', BitVec.getLsbD_append]
  interval_cases i <;> simp

@[simp] theorem fld_encE1_5_12 (sa sb sc : BitVec 5) (imm : BitVec 17) : fld (encE1 sa sb sc imm) 5 12 = imm.extractLsb' 5 12 := by
  refine BitVec.eq_of_getLsbD_eq fun i hi => ?_
  simp only [fld, encE1, BitVec.getLsbD_extractLsb', BitVec.getLsbD_append]
  interval_cases i <;> simp

@[simp] theorem fld_encE1_6_1 (sa sb sc : BitVec 5) (imm : BitVec 17) : fld (encE1 sa sb sc imm) 6 1 = imm.extractLsb' 6 1 := by
  refine BitVec.eq_of_getLsbD_eq fun i hi => ?_
  simp only [fld, encE1, BitVec.getLsbD_extractLsb', BitVec.getLsbD_append]
  interval_cases i <;> simp

@[simp] theorem fld_encE1_6_11 (sa sb sc : BitVec 5) (imm : BitVec 17) : fld (encE1 sa sb sc imm) 6 11 = imm.extractLsb' 6 11 := by
  refine BitVec.eq_of_getLsbD_eq fun i hi => ?_
  simp only [fld, encE1, BitVec.getLsbD_extractLsb', BitVec.getLsbD_append]
  interval_cases i <;> simp

@[simp] theorem fld_encE1_7_1 (sa sb sc : BitVec 5) (imm : BitVec 17) : fld (encE1 sa sb sc imm) 7 1 = imm.extractLsb' 7 1 := by
  refine BitVec.eq_of_getLsbD_eq fun i hi => ?_
  simp only [fld, encE1, BitVec.getLsbD_extractLsb', BitVec.getLsbD_append]
  interval_cases i <;> simp

@[simp] theorem fld_encE1_7_10 (sa sb sc : BitVec 5) (imm : BitVec 17) : fld (encE1 sa sb sc imm) 7 10 = imm.extractLsb' 7 10 := by
  refine BitVec.eq_of_getLsbD_eq fun i hi => ?_
  simp only [fld, encE1, BitVec.getLsbD_extractLsb', BitVec.getLsbD_append]
  interval_cases i <;> simp

@[simp] theorem fld_encE1_8_9 (sa sb sc : BitVec 5) (imm : BitVec 17) : fld (encE1 sa sb sc imm) 8 9 = imm.extractLsb' 8 9 := by
  refine BitVec.eq_of_getLsbD_eq fun i hi => ?_
  simp only [fld, encE1, BitVec.getLsbD_extractLsb', BitVec.getLsbD_append]
  interval_cases i <;> simp

@[simp] theorem fld_encE1_10_7 (sa sb sc : BitVec 5) (imm : BitVec 17) : fld (encE1 sa sb sc imm) 10 7 = imm.extractLsb' 10 7 := by
  refine BitVec.eq_of_getLsbD_eq fun i hi => ?_
  simp only [fld, encE1, BitVec.getLsbD_extractLsb', BitVec.getLsbD_append]
  interval_cases i <;> simp

@[simp] theorem fld_encE1_17_5 (sa sb sc : BitVec 5) (imm : BitVec 17) : fld (encE1 sa sb sc imm) 17 5 = sc := by
  refine BitVec.eq_of_getLsbD_eq fun i hi => ?_
  simp only [fld, encE1, BitVec.getLsbD_extractLsb', BitVec.getLsbD_append]
  interval_cases i <;> simp

@[simp] theorem fld_encE1_22_5 (sa sb sc : BitVec 5) (imm : BitVec 17) : fld (encE1 sa sb sc imm) 22 5 = sb := by
  refine BitVec.eq_of_getLsbD_eq fun i hi => ?_
  simp only [fld, encE1, BitVec.getLsbD_extractLsb', BitVec.getLsbD_append]
  interval_cases i <;> simp

@[simp] theorem fld_encE1_27_5 (sa sb sc : BitVec 5) (imm : BitVec 17) : fld (encE1 sa sb sc imm) 27 5 = sa := by
  refine BitVec.eq_of_getLsbD_eq fun i hi => ?_
  simp only [fld, encE1, BitVec.getLsbD_extractLsb', BitVec.getLsbD_append]
  interval_cases i <;> simp

@[simp] theorem fld_encQA_0_14 (op : Nat) (d s t : BitVec 4) : fld (encQA op d s t) 0 14 = (0 : BitVec 14) := by
  refine BitVec.eq_of_getLsbD_eq fun i hi => ?_
  simp only [fld, encQA, BitVec.getLsbD_extractLsb', BitVec.getLsbD_append]
  interval_cases i <;> simp

@[simp] theorem fld_encQA_14_4 (op : Nat) (d s t : BitVec 4) : fld (encQA op d s t) 14 4 = t := by
  refine BitVec.eq_of_getLsbD_eq fun i hi => ?_
  simp only [fld, encQA, BitVec.getLsbD_extractLsb', BitVec.getLsbD_append]
  interval_cases i <;> simp

@[simp] theorem fld_encQA_18_4 (op : Nat) (d s t : BitVec 4) : fld (encQA op d s t) 18 4 = s := by
  refine BitVec.eq_of_getLsbD_eq fun i hi => ?_
  simp only [fld, encQA, BitVec.getLsbD_extractLsb', BitVec.getLsbD_append]
  interval_cases i <;> simp

@[simp] theorem fld_encQA_22_4 (op : Nat) (d s t : BitVec 4) : fld (encQA op d s t) 22 4 = d := by
  refine BitVec.eq_of_getLsbD_eq fun i hi => ?_
  simp only [fld, encQA, BitVec.getLsbD_extractLsb', BitVec.getLsbD_append]
  interval_cases i <;> simp

@[simp] theorem fld_encQA_26_6 (op : Nat) (d s t : BitVec 4) : fld (encQA op d s t) 26 6 = BitVec.ofNat 6 op := by
  refine BitVec.eq_of_getLsbD_eq fun i hi => ?_
  simp only [fld, encQA, BitVec.getLsbD_extractLsb', BitVec.getLsbD_append]
  interval_cases i <;> simp

@[simp] theorem fld_encQB_0_6 (op : Nat) (d s : BitVec 4) (i : BitVec 18) : fld (encQB op d s i) 0 6 = i.extractLsb' 0 6 := by
  refine BitVec.eq_of_getLsbD_eq fun i hi => ?_
  simp only [fld, encQB, BitVec.getLsbD_extractLsb', BitVec.getLsbD_append]
  interval_cases i <;> simp

@[simp] theorem fld_encQB_0_16 (op : Nat) (d s : BitVec 4) (i : BitVec 18) : fld (encQB op d s i) 0 16 = i.extractLsb' 0 16 := by
  refine BitVec.eq_of_getLsbD_eq fun i hi => ?_
  simp only [fld, encQB, BitVec.getLsbD_extractLsb', BitVec.getLsbD_append]
  interval_cases i <;> simp

@[simp] theorem fld_encQB_0_18 (op : Nat) (d s : BitVec 4) (i : BitVec 18) : fld (encQB op d s i) 0 18 = i := by
  refine BitVec.eq_of_getLsbD_eq fun i hi => ?_
  simp only [fld, encQB, BitVec.getLsbD_extractLsb', BitVec.getLsbD_append]
  interval_cases i <;> simp

@[simp] theorem fld_encQB_0_26 (op : Nat) (d s : BitVec 4) (i : BitVec 18) : fld (encQB op d s i) 0 26 = d ++ s ++ i := by
  refine BitVec.eq_of_getLsbD_eq fun i hi => ?_
  simp only [fld, encQB, BitVec.getLsbD_extractLsb', BitVec.getLsbD_append]
  interval_cases i <;> simp

@[simp] theorem fld_encQB_6_12 (op : Nat) (d s : BitVec 4) (i : BitVec 18) : fld (encQB op d s i) 6 12 = i.extractLsb' 6 12 := by
  refine BitVec.eq_of_getLsbD_eq fun i hi => ?_
  simp only [fld, encQB, BitVec.getLsbD_extractLsb', BitVec.getLsbD_append]
  interval_cases i <;> simp

@[simp] theorem fld_encQB_16_10 (op : Nat) (d s : BitVec 4) (i : BitVec 18) : fld (encQB op d s i) 16 10 = d ++ s ++ i.extractLsb' 16 2 := by
  refine BitVec.eq_of_getLsbD_eq fun i hi => ?_
  simp only [fld, encQB, BitVec.getLsbD_extractLsb', BitVec.getLsbD_append]
  interval_cases i <;> simp

@[simp] theorem fld_encQB_18_4 (op : Nat) (d s : BitVec 4) (i : BitVec 18) : fld (encQB op d s i) 18 4 = s := by
  refine BitVec.eq_of_getLsbD_eq fun i hi => ?_
  simp only [fld, encQB, BitVec.getLsbD_extractLsb', BitVec.getLsbD_append]
  interval_cases i <;> simp

@[simp] theorem fld_encQB_22_4 (op : Nat) (d s : BitVec 4) (i : BitVec 18) : fld (encQB op d s i) 22 4 = d := by
  refine BitVec.eq_of_getLsbD_eq fun i hi => ?_
  simp only [fld, encQB, BitVec.getLsbD_extractLsb', BitVec.getLsbD_append]
  interval_cases i <;> simp

@[simp] theorem fld_encQB_26_6 (op : Nat) (d s : BitVec 4) (i : BitVec 18) : fld (encQB op d s i) 26 6 = BitVec.ofNat 6 op := by
  refine BitVec.eq_of_getLsbD_eq fun i hi => ?_
  simp only [fld, encQB, BitVec.getLsbD_extractLsb', BitVec.getLsbD_append]
  interval_cases i <;> simp

@[simp] theorem fld_encQW_0_13 (op : Nat) (d s : BitVec 4) (w : BitVec 3) (z : BitVec 2) (o : BitVec 13) : fld (encQW op d s w z o) 0 13 = o := by
  refine BitVec.eq_of_getLsbD_eq fun i hi => ?_
  simp only [fld, encQW, BitVec.getLsbD_extractLsb', BitVec.getLsbD_append]
  interval_cases i <;> simp

@[simp] theorem fld_encQW_13_2 (op : Nat) (d s : BitVec 4) (w : BitVec 3) (z : BitVec 2) (o : BitVec 13) : fld (encQW op d s w z o) 13 2 = z := by
  refine BitVec.eq_of_getLsbD_eq fun i hi => ?_
  simp only [fld, encQW, BitVec.getLsbD_extractLsb', BitVec.getLsbD_append]
  interval_cases i <;> simp

@[simp] theorem fld_encQW_15_3 (op : Nat) (d s : BitVec 4) (w : BitVec 3) (z : BitVec 2) (o : BitVec 13) : fld (encQW op d s w z o) 15 3 = w := by
  refine BitVec.eq_of_getLsbD_eq fun i hi => ?_
  simp only [fld, encQW, BitVec.getLsbD_extractLsb', BitVec.getLsbD_append]
  interval_cases i <;> simp

@[simp] theorem fld_encQW_18_4 (op : Nat) (d s : BitVec 4) (w : BitVec 3) (z : BitVec 2) (o : BitVec 13) : fld (encQW op d s w z o) 18 4 = s := by
  refine BitVec.eq_of_getLsbD_eq fun i hi => ?_
  simp only [fld, encQW, BitVec.getLsbD_extractLsb', BitVec.getLsbD_append]
  interval_cases i <;> simp

@[simp] theorem fld_encQW_22_4 (op : Nat) (d s : BitVec 4) (w : BitVec 3) (z : BitVec 2) (o : BitVec 13) : fld (encQW op d s w z o) 22 4 = d := by
  refine BitVec.eq_of_getLsbD_eq fun i hi => ?_
  simp only [fld, encQW, BitVec.getLsbD_extractLsb', BitVec.getLsbD_append]
  interval_cases i <;> simp

@[simp] theorem fld_encQW_26_6 (op : Nat) (d s : BitVec 4) (w : BitVec 3) (z : BitVec 2) (o : BitVec 13) : fld (encQW op d s w z o) 26 6 = BitVec.ofNat 6 op := by
  refine BitVec.eq_of_getLsbD_eq fun i hi => ?_
  simp only [fld, encQW, BitVec.getLsbD_extractLsb', BitVec.getLsbD_append]
  interval_cases i <;> simp

@[simp] theorem f5_0_3 (r : BitVec 3) : (f5 r).extractLsb' 0 3 = r := by
  refine BitVec.eq_of_getLsbD_eq fun i hi => ?_
  simp only [f5, BitVec.getLsbD_extractLsb', BitVec.getLsbD_append]
  interval_cases i <;> simp

@[simp] theorem f5_3_2 (r : BitVec 3) : (f5 r).extractLsb' 3 2 = 0#2 := by
  refine BitVec.eq_of_getLsbD_eq fun i hi => ?_
  simp only [f5, BitVec.getLsbD_extractLsb', BitVec.getLsbD_append]
  interval_cases i <;> simp

@[simp] theorem r6_0_5 (r : BitVec 5) : (r6 r).extractLsb' 0 5 = r := by
  refine BitVec.eq_of_getLsbD_eq fun i hi => ?_
  simp only [r6, BitVec.getLsbD_extractLsb', BitVec.getLsbD_append]
  interval_cases i <;> simp

@[simp] theorem r6_5_1 (r : BitVec 5) : (r6 r).extractLsb' 5 1 = 0#1 := by
  refine BitVec.eq_of_getLsbD_eq fun i hi => ?_
  simp only [r6, BitVec.getLsbD_extractLsb', BitVec.getLsbD_append]
  interval_cases i <;> simp

@[simp] theorem k6_0_4 (r : BitVec 4) : (k6 r).extractLsb' 0 4 = r := by
  refine BitVec.eq_of_getLsbD_eq fun i hi => ?_
  simp only [k6, BitVec.getLsbD_extractLsb', BitVec.getLsbD_append]
  interval_cases i <;> simp

@[simp] theorem k6_4_2 (r : BitVec 4) : (k6 r).extractLsb' 4 2 = 0#2 := by
  refine BitVec.eq_of_getLsbD_eq fun i hi => ?_
  simp only [k6, BitVec.getLsbD_extractLsb', BitVec.getLsbD_append]
  interval_cases i <;> simp

@[simp] theorem z6_0_3 (r : BitVec 3) : (z6 r).extractLsb' 0 3 = r := by
  refine BitVec.eq_of_getLsbD_eq fun i hi => ?_
  simp only [z6, BitVec.getLsbD_extractLsb', BitVec.getLsbD_append]
  interval_cases i <;> simp

@[simp] theorem z6_3_3 (r : BitVec 3) : (z6 r).extractLsb' 3 3 = 0#3 := by
  refine BitVec.eq_of_getLsbD_eq fun i hi => ?_
  simp only [z6, BitVec.getLsbD_extractLsb', BitVec.getLsbD_append]
  interval_cases i <;> simp

@[simp] theorem fld_shr_6_6 (n : BitVec 6) : BitVec.extractLsb' 6 6 (64#10 ++ n) = (64#10).extractLsb' 0 6 := by
  refine BitVec.eq_of_getLsbD_eq fun i hi => ?_
  simp only [BitVec.getLsbD_extractLsb', BitVec.getLsbD_append]
  interval_cases i <;> simp

@[simp] theorem fld_shr_0_6 (n : BitVec 6) : BitVec.extractLsb' 0 6 (64#10 ++ n) = n := by
  refine BitVec.eq_of_getLsbD_eq fun i hi => ?_
  simp only [BitVec.getLsbD_extractLsb', BitVec.getLsbD_append]
  interval_cases i <;> simp

@[simp] theorem fld_sra_6_6 (n : BitVec 6) : BitVec.extractLsb' 6 6 (128#10 ++ n) = (128#10).extractLsb' 0 6 := by
  refine BitVec.eq_of_getLsbD_eq fun i hi => ?_
  simp only [BitVec.getLsbD_extractLsb', BitVec.getLsbD_append]
  interval_cases i <;> simp

@[simp] theorem fld_sra_0_6 (n : BitVec 6) : BitVec.extractLsb' 0 6 (128#10 ++ n) = n := by
  refine BitVec.eq_of_getLsbD_eq fun i hi => ?_
  simp only [BitVec.getLsbD_extractLsb', BitVec.getLsbD_append]
  interval_cases i <;> simp

@[simp] theorem fld_shl_12_4 (n : BitVec 6) : BitVec.extractLsb' 12 4 (0#10 ++ n) = (0#10).extractLsb' 6 4 := by
  refine BitVec.eq_of_getLsbD_eq fun i hi => ?_
  simp only [BitVec.getLsbD_extractLsb', BitVec.getLsbD_append]
  interval_cases i <;> simp

@[simp] theorem fld_shl_6_6 (n : BitVec 6) : BitVec.extractLsb' 6 6 (0#10 ++ n) = (0#10).extractLsb' 0 6 := by
  refine BitVec.eq_of_getLsbD_eq fun i hi => ?_
  simp only [BitVec.getLsbD_extractLsb', BitVec.getLsbD_append]
  interval_cases i <;> simp

@[simp] theorem fld_shl_0_6 (n : BitVec 6) : BitVec.extractLsb' 0 6 (0#10 ++ n) = n := by
  refine BitVec.eq_of_getLsbD_eq fun i hi => ?_
  simp only [BitVec.getLsbD_extractLsb', BitVec.getLsbD_append]
  interval_cases i <;> simp

@[simp] theorem fld_half_2_3 (h : BitVec 2) : BitVec.extractLsb' 2 3 (0#3 ++ h) = 0#3 := by
  refine BitVec.eq_of_getLsbD_eq fun i hi => ?_
  simp only [BitVec.getLsbD_extractLsb', BitVec.getLsbD_append]
  interval_cases i <;> simp

@[simp] theorem fld_half_0_2 (h : BitVec 2) : BitVec.extractLsb' 0 2 (0#3 ++ h) = h := by
  refine BitVec.eq_of_getLsbD_eq fun i hi => ?_
  simp only [BitVec.getLsbD_extractLsb', BitVec.getLsbD_append]
  interval_cases i <;> simp

@[simp] theorem fld_scope_3_2 (k c : BitVec 2) (z : BitVec 1) : BitVec.extractLsb' 3 2 (k ++ c ++ z) = k := by
  refine BitVec.eq_of_getLsbD_eq fun i hi => ?_
  simp only [BitVec.getLsbD_extractLsb', BitVec.getLsbD_append]
  interval_cases i <;> simp

@[simp] theorem fld_scope_1_2 (k c : BitVec 2) (z : BitVec 1) : BitVec.extractLsb' 1 2 (k ++ c ++ z) = c := by
  refine BitVec.eq_of_getLsbD_eq fun i hi => ?_
  simp only [BitVec.getLsbD_extractLsb', BitVec.getLsbD_append]
  interval_cases i <;> simp

@[simp] theorem fld_scope_0_1 (k c : BitVec 2) (z : BitVec 1) : BitVec.extractLsb' 0 1 (k ++ c ++ z) = z := by
  refine BitVec.eq_of_getLsbD_eq fun i hi => ?_
  simp only [BitVec.getLsbD_extractLsb', BitVec.getLsbD_append]
  interval_cases i <;> simp

@[simp] theorem fld_rcpdef_0_5 (n : BitVec 2) (r : BitVec 5) : BitVec.extractLsb' 0 5 (0#3 ++ n ++ r) = r := by
  refine BitVec.eq_of_getLsbD_eq fun i hi => ?_
  simp only [BitVec.getLsbD_extractLsb', BitVec.getLsbD_append]
  interval_cases i <;> simp

@[simp] theorem fld_rcpdef_5_2 (n : BitVec 2) (r : BitVec 5) : BitVec.extractLsb' 5 2 (0#3 ++ n ++ r) = n := by
  refine BitVec.eq_of_getLsbD_eq fun i hi => ?_
  simp only [BitVec.getLsbD_extractLsb', BitVec.getLsbD_append]
  interval_cases i <;> simp

@[simp] theorem fld_rcpdef_7_3 (n : BitVec 2) (r : BitVec 5) : BitVec.extractLsb' 7 3 (0#3 ++ n ++ r) = 0#3 := by
  refine BitVec.eq_of_getLsbD_eq fun i hi => ?_
  simp only [BitVec.getLsbD_extractLsb', BitVec.getLsbD_append]
  interval_cases i <;> simp

@[simp] theorem fld_slot_0_5 (r : BitVec 5) : BitVec.extractLsb' 0 5 (0#5 ++ r) = r := by
  refine BitVec.eq_of_getLsbD_eq fun i hi => ?_
  simp only [BitVec.getLsbD_extractLsb', BitVec.getLsbD_append]
  interval_cases i <;> simp

@[simp] theorem fld_slot_5_5 (r : BitVec 5) : BitVec.extractLsb' 5 5 (0#5 ++ r) = 0#5 := by
  refine BitVec.eq_of_getLsbD_eq fun i hi => ?_
  simp only [BitVec.getLsbD_extractLsb', BitVec.getLsbD_append]
  interval_cases i <;> simp

@[simp] theorem fld_class_0_2 (c : BitVec 2) : BitVec.extractLsb' 0 2 (0#8 ++ c) = c := by
  refine BitVec.eq_of_getLsbD_eq fun i hi => ?_
  simp only [BitVec.getLsbD_extractLsb', BitVec.getLsbD_append]
  interval_cases i <;> simp

@[simp] theorem fld_class_2_8 (c : BitVec 2) : BitVec.extractLsb' 2 8 (0#8 ++ c) = 0#8 := by
  refine BitVec.eq_of_getLsbD_eq fun i hi => ?_
  simp only [BitVec.getLsbD_extractLsb', BitVec.getLsbD_append]
  interval_cases i <;> simp

@[simp] theorem fld_copy_6_1 (f : BitVec 1) (x y : BitVec 3) : BitVec.extractLsb' 6 1 (0#10 ++ f ++ x ++ y) = f := by
  refine BitVec.eq_of_getLsbD_eq fun i hi => ?_
  simp only [BitVec.getLsbD_extractLsb', BitVec.getLsbD_append]
  interval_cases i <;> simp

@[simp] theorem fld_copy_3_3 (f : BitVec 1) (x y : BitVec 3) : BitVec.extractLsb' 3 3 (0#10 ++ f ++ x ++ y) = x := by
  refine BitVec.eq_of_getLsbD_eq fun i hi => ?_
  simp only [BitVec.getLsbD_extractLsb', BitVec.getLsbD_append]
  interval_cases i <;> simp

@[simp] theorem fld_copy_0_3 (f : BitVec 1) (x y : BitVec 3) : BitVec.extractLsb' 0 3 (0#10 ++ f ++ x ++ y) = y := by
  refine BitVec.eq_of_getLsbD_eq fun i hi => ?_
  simp only [BitVec.getLsbD_extractLsb', BitVec.getLsbD_append]
  interval_cases i <;> simp

@[simp] theorem fld_copy_7_10 (f : BitVec 1) (x y : BitVec 3) : BitVec.extractLsb' 7 10 (0#10 ++ f ++ x ++ y) = 0#10 := by
  refine BitVec.eq_of_getLsbD_eq fun i hi => ?_
  simp only [BitVec.getLsbD_extractLsb', BitVec.getLsbD_append]
  interval_cases i <;> simp

@[simp] theorem fld_two_0_2 (x : BitVec 2) : BitVec.extractLsb' 0 2 (0#15 ++ x) = x := by
  refine BitVec.eq_of_getLsbD_eq fun i hi => ?_
  simp only [BitVec.getLsbD_extractLsb', BitVec.getLsbD_append]
  interval_cases i <;> simp

@[simp] theorem fld_two_2_15 (x : BitVec 2) : BitVec.extractLsb' 2 15 (0#15 ++ x) = 0#15 := by
  refine BitVec.eq_of_getLsbD_eq fun i hi => ?_
  simp only [BitVec.getLsbD_extractLsb', BitVec.getLsbD_append]
  interval_cases i <;> simp

@[simp] theorem fld_copyn_10_7 (x : BitVec 7) (y : BitVec 6) (d : BitVec 1) (p : BitVec 3) : BitVec.extractLsb' 10 7 (x ++ y ++ d ++ p) = x := by
  refine BitVec.eq_of_getLsbD_eq fun i hi => ?_
  simp only [BitVec.getLsbD_extractLsb', BitVec.getLsbD_append]
  interval_cases i <;> simp

@[simp] theorem fld_copyn_4_6 (x : BitVec 7) (y : BitVec 6) (d : BitVec 1) (p : BitVec 3) : BitVec.extractLsb' 4 6 (x ++ y ++ d ++ p) = y := by
  refine BitVec.eq_of_getLsbD_eq fun i hi => ?_
  simp only [BitVec.getLsbD_extractLsb', BitVec.getLsbD_append]
  interval_cases i <;> simp

@[simp] theorem fld_copyn_3_1 (x : BitVec 7) (y : BitVec 6) (d : BitVec 1) (p : BitVec 3) : BitVec.extractLsb' 3 1 (x ++ y ++ d ++ p) = d := by
  refine BitVec.eq_of_getLsbD_eq fun i hi => ?_
  simp only [BitVec.getLsbD_extractLsb', BitVec.getLsbD_append]
  interval_cases i <;> simp

@[simp] theorem fld_copyn_0_3 (x : BitVec 7) (y : BitVec 6) (d : BitVec 1) (p : BitVec 3) : BitVec.extractLsb' 0 3 (x ++ y ++ d ++ p) = p := by
  refine BitVec.eq_of_getLsbD_eq fun i hi => ?_
  simp only [BitVec.getLsbD_extractLsb', BitVec.getLsbD_append]
  interval_cases i <;> simp

@[simp] theorem fld_gather_3_1 (l : BitVec 1) (p : BitVec 3) : BitVec.extractLsb' 3 1 (0#13 ++ l ++ p) = l := by
  refine BitVec.eq_of_getLsbD_eq fun i hi => ?_
  simp only [BitVec.getLsbD_extractLsb', BitVec.getLsbD_append]
  interval_cases i <;> simp

@[simp] theorem fld_gather_0_3 (l : BitVec 1) (p : BitVec 3) : BitVec.extractLsb' 0 3 (0#13 ++ l ++ p) = p := by
  refine BitVec.eq_of_getLsbD_eq fun i hi => ?_
  simp only [BitVec.getLsbD_extractLsb', BitVec.getLsbD_append]
  interval_cases i <;> simp

@[simp] theorem fld_gather_4_13 (l : BitVec 1) (p : BitVec 3) : BitVec.extractLsb' 4 13 (0#13 ++ l ++ p) = 0#13 := by
  refine BitVec.eq_of_getLsbD_eq fun i hi => ?_
  simp only [BitVec.getLsbD_extractLsb', BitVec.getLsbD_append]
  interval_cases i <;> simp

@[simp] theorem fld_mma_8_9 (n : BitVec 9) (e o : BitVec 1) (k z : BitVec 3) : BitVec.extractLsb' 8 9 (n ++ e ++ o ++ k ++ z) = n := by
  refine BitVec.eq_of_getLsbD_eq fun i hi => ?_
  simp only [BitVec.getLsbD_extractLsb', BitVec.getLsbD_append]
  interval_cases i <;> simp

@[simp] theorem fld_mma_7_1 (n : BitVec 9) (e o : BitVec 1) (k z : BitVec 3) : BitVec.extractLsb' 7 1 (n ++ e ++ o ++ k ++ z) = e := by
  refine BitVec.eq_of_getLsbD_eq fun i hi => ?_
  simp only [BitVec.getLsbD_extractLsb', BitVec.getLsbD_append]
  interval_cases i <;> simp

@[simp] theorem fld_mma_6_1 (n : BitVec 9) (e o : BitVec 1) (k z : BitVec 3) : BitVec.extractLsb' 6 1 (n ++ e ++ o ++ k ++ z) = o := by
  refine BitVec.eq_of_getLsbD_eq fun i hi => ?_
  simp only [BitVec.getLsbD_extractLsb', BitVec.getLsbD_append]
  interval_cases i <;> simp

@[simp] theorem fld_mma_3_3 (n : BitVec 9) (e o : BitVec 1) (k z : BitVec 3) : BitVec.extractLsb' 3 3 (n ++ e ++ o ++ k ++ z) = k := by
  refine BitVec.eq_of_getLsbD_eq fun i hi => ?_
  simp only [BitVec.getLsbD_extractLsb', BitVec.getLsbD_append]
  interval_cases i <;> simp

@[simp] theorem fld_mma_0_3 (n : BitVec 9) (e o : BitVec 1) (k z : BitVec 3) : BitVec.extractLsb' 0 3 (n ++ e ++ o ++ k ++ z) = z := by
  refine BitVec.eq_of_getLsbD_eq fun i hi => ?_
  simp only [BitVec.getLsbD_extractLsb', BitVec.getLsbD_append]
  interval_cases i <;> simp

@[simp] theorem fld_mepi_3_3 (k z : BitVec 3) : BitVec.extractLsb' 3 3 (0#11 ++ k ++ z) = k := by
  refine BitVec.eq_of_getLsbD_eq fun i hi => ?_
  simp only [BitVec.getLsbD_extractLsb', BitVec.getLsbD_append]
  interval_cases i <;> simp

@[simp] theorem fld_mepi_0_3 (k z : BitVec 3) : BitVec.extractLsb' 0 3 (0#11 ++ k ++ z) = z := by
  refine BitVec.eq_of_getLsbD_eq fun i hi => ?_
  simp only [BitVec.getLsbD_extractLsb', BitVec.getLsbD_append]
  interval_cases i <;> simp

@[simp] theorem fld_mepi_6_11 (k z : BitVec 3) : BitVec.extractLsb' 6 11 (0#11 ++ k ++ z) = 0#11 := by
  refine BitVec.eq_of_getLsbD_eq fun i hi => ?_
  simp only [BitVec.getLsbD_extractLsb', BitVec.getLsbD_append]
  interval_cases i <;> simp

@[simp] theorem fld_one_0_1 (x : BitVec 1) : BitVec.extractLsb' 0 1 (0#16 ++ x) = x := by
  refine BitVec.eq_of_getLsbD_eq fun i hi => ?_
  simp only [BitVec.getLsbD_extractLsb', BitVec.getLsbD_append]
  interval_cases i <;> simp

@[simp] theorem fld_one_1_16 (x : BitVec 1) : BitVec.extractLsb' 1 16 (0#16 ++ x) = 0#16 := by
  refine BitVec.eq_of_getLsbD_eq fun i hi => ?_
  simp only [BitVec.getLsbD_extractLsb', BitVec.getLsbD_append]
  interval_cases i <;> simp

@[simp] theorem fld_five_0_5 (x : BitVec 5) : BitVec.extractLsb' 0 5 (0#12 ++ x) = x := by
  refine BitVec.eq_of_getLsbD_eq fun i hi => ?_
  simp only [BitVec.getLsbD_extractLsb', BitVec.getLsbD_append]
  interval_cases i <;> simp

@[simp] theorem fld_five_5_12 (x : BitVec 5) : BitVec.extractLsb' 5 12 (0#12 ++ x) = 0#12 := by
  refine BitVec.eq_of_getLsbD_eq fun i hi => ?_
  simp only [BitVec.getLsbD_extractLsb', BitVec.getLsbD_append]
  interval_cases i <;> simp

@[simp] theorem fld_three_0_3 (x : BitVec 3) : BitVec.extractLsb' 0 3 (0#14 ++ x) = x := by
  refine BitVec.eq_of_getLsbD_eq fun i hi => ?_
  simp only [BitVec.getLsbD_extractLsb', BitVec.getLsbD_append]
  interval_cases i <;> simp

@[simp] theorem fld_three_3_14 (x : BitVec 3) : BitVec.extractLsb' 3 14 (0#14 ++ x) = 0#14 := by
  refine BitVec.eq_of_getLsbD_eq fun i hi => ?_
  simp only [BitVec.getLsbD_extractLsb', BitVec.getLsbD_append]
  interval_cases i <;> simp

@[simp] theorem fld_form_0_4 (f : BitVec 2) (y : BitVec 4) : BitVec.extractLsb' 0 4 (f ++ y) = y := by
  refine BitVec.eq_of_getLsbD_eq fun i hi => ?_
  simp only [BitVec.getLsbD_extractLsb', BitVec.getLsbD_append]
  interval_cases i <;> simp

@[simp] theorem fld_form_4_2 (f : BitVec 2) (y : BitVec 4) : BitVec.extractLsb' 4 2 (f ++ y) = f := by
  refine BitVec.eq_of_getLsbD_eq fun i hi => ?_
  simp only [BitVec.getLsbD_extractLsb', BitVec.getLsbD_append]
  interval_cases i <;> simp

@[simp] theorem fld_qsh_0_6 (n : BitVec 6) : BitVec.extractLsb' 0 6 (0#12 ++ n) = n := by
  refine BitVec.eq_of_getLsbD_eq fun i hi => ?_
  simp only [BitVec.getLsbD_extractLsb', BitVec.getLsbD_append]
  interval_cases i <;> simp

@[simp] theorem fld_qsh_6_12 (n : BitVec 6) : BitVec.extractLsb' 6 12 (0#12 ++ n) = 0#12 := by
  refine BitVec.eq_of_getLsbD_eq fun i hi => ?_
  simp only [BitVec.getLsbD_extractLsb', BitVec.getLsbD_append]
  interval_cases i <;> simp

@[simp] theorem fld_qdrop_0_16 (c : BitVec 16) : BitVec.extractLsb' 0 16 (0#2 ++ c) = c := by
  refine BitVec.eq_of_getLsbD_eq fun i hi => ?_
  simp only [BitVec.getLsbD_extractLsb', BitVec.getLsbD_append]
  interval_cases i <;> simp

@[simp] theorem fld_qdrop_16_2 (c : BitVec 16) : BitVec.extractLsb' 16 2 (0#2 ++ c) = 0#2 := by
  refine BitVec.eq_of_getLsbD_eq fun i hi => ?_
  simp only [BitVec.getLsbD_extractLsb', BitVec.getLsbD_append]
  interval_cases i <;> simp

@[simp] theorem fld_kind1 (n : BitVec 6) : BitVec.extractLsb' 12 4 (64#10 ++ n) = 1#4 := by
  refine BitVec.eq_of_getLsbD_eq fun i hi => ?_
  simp only [BitVec.getLsbD_extractLsb', BitVec.getLsbD_append]
  interval_cases i <;> simp

@[simp] theorem fld_kind2 (n : BitVec 6) : BitVec.extractLsb' 12 4 (128#10 ++ n) = 2#4 := by
  refine BitVec.eq_of_getLsbD_eq fun i hi => ?_
  simp only [BitVec.getLsbD_extractLsb', BitVec.getLsbD_append]
  interval_cases i <;> simp

@[simp] theorem bit1_ne (b : Bool) : (bit1 b != 0#1) = b := by cases b <;> rfl

@[simp] theorem tyOfCode_code (y : Ty) : tyOfCode y.code = y := by cases y <;> rfl

@[simp] theorem ofNat_code (y : Ty) : BitVec.ofNat 4 y.code.toNat = y.code := by cases y <;> rfl

end Sys2Proof
end

