-- ==== Sys2Proof/Laws/Tab.lean ====
section
/-! SUPPORT. Sparse tables and byte storage: a read after an update, and the canonical form, which every update of storage keeps. -/

namespace Sys2Proof.Machine

variable {α : Type}

/-! ## Tables -/

@[simp] theorem Tab.get?_set_self (t : Tab α) (n : Nat) (v : α) : Tab.get? (Tab.set t n v) n = some v := by
  induction t with
  | nil => simp [Tab.set, Tab.get?]
  | cons e r ih =>
    obtain ⟨k, u⟩ := e
    by_cases h1 : n < k
    · simp [Tab.set, h1, Tab.get?]
    · by_cases h2 : k = n
      · simp [Tab.set, h2, Tab.get?]
      · simp [Tab.set, h1, h2, Tab.get?, ih]

theorem Tab.get?_set_of_ne (t : Tab α) {n m : Nat} (v : α) (h : m ≠ n) : Tab.get? (Tab.set t n v) m = Tab.get? t m := by
  induction t with
  | nil => simp [Tab.set, Tab.get?, Ne.symm h]
  | cons e r ih =>
    obtain ⟨k, u⟩ := e
    by_cases h1 : n < k
    · simp [Tab.set, h1, Tab.get?, Ne.symm h]
    · by_cases h2 : k = n
      · subst h2; simp [Tab.set, Tab.get?, Ne.symm h]
      · simp [Tab.set, h1, h2, Tab.get?, ih]

@[simp] theorem Tab.get_set_self (d : α) (t : Tab α) (n : Nat) (v : α) : Tab.get d (Tab.set t n v) n = v := by
  simp [Tab.get]

theorem Tab.get_set_of_ne (d : α) (t : Tab α) {n m : Nat} (v : α) (h : m ≠ n) :
    Tab.get d (Tab.set t n v) m = Tab.get d t m := by
  simp [Tab.get, Tab.get?_set_of_ne t v h]

/-- Of two values stored at a key the later stands. -/
@[simp] theorem Tab.set_set (t : Tab α) (n : Nat) (u v : α) : Tab.set (Tab.set t n u) n v = Tab.set t n v := by
  induction t with
  | nil => simp [Tab.set]
  | cons e r ih =>
    obtain ⟨k, w⟩ := e
    by_cases h1 : n < k
    · simp [Tab.set, h1]
    · by_cases h2 : k = n
      · simp [Tab.set, h2]
      · simp [Tab.set, h1, h2, ih]

@[simp] theorem Tab.get?_erase_self (t : Tab α) (n : Nat) : Tab.get? (Tab.erase t n) n = none := by
  induction t with
  | nil => rfl
  | cons e r ih =>
    obtain ⟨k, u⟩ := e
    by_cases h : k = n
    · simp [Tab.erase, h, ih]
    · simp [Tab.erase, h, Tab.get?, ih]

theorem Tab.get?_erase_of_ne (t : Tab α) {n m : Nat} (h : m ≠ n) : Tab.get? (Tab.erase t n) m = Tab.get? t m := by
  induction t with
  | nil => rfl
  | cons e r ih =>
    obtain ⟨k, u⟩ := e
    by_cases h1 : k = n
    · subst h1; simp [Tab.erase, Tab.get?, Ne.symm h, ih]
    · simp [Tab.erase, h1, Tab.get?, ih]

/-! ## Rising keys -/

/-- A table that rises from above a key rises from above every lower bound. -/
theorem Tab.rising_none_of_some {lo : Nat} {t : Tab α} (h : Tab.rising (some lo) t = true) : Tab.rising none t = true := by
  cases t with
  | nil => rfl
  | cons e r => simp_all [Tab.rising]

theorem Tab.rising_mono {lo lo' : Nat} {t : Tab α} (hl : lo' ≤ lo) (h : Tab.rising (some lo) t = true) :
    Tab.rising (some lo') t = true := by
  cases t with
  | nil => rfl
  | cons e r =>
    simp only [Tab.rising, Bool.and_eq_true, decide_eq_true_eq] at h ⊢
    exact ⟨by omega, h.2⟩

/-- The bound of a rising table: none, or above a key. -/
def above (lo : Option Nat) (n : Nat) : Prop := ∀ l, lo = some l → l < n

theorem Tab.rising_cons {lo : Option Nat} {k : Nat} {v : α} {r : Tab α} :
    Tab.rising lo ((k, v) :: r) = true ↔ above lo k ∧ Tab.rising (some k) r = true := by
  cases lo <;> simp [Tab.rising, above]

theorem Tab.rising_set {lo : Option Nat} {t : Tab α} {n : Nat} (v : α) (h : Tab.rising lo t = true) (hn : above lo n) :
    Tab.rising lo (Tab.set t n v) = true := by
  induction t generalizing lo with
  | nil => rw [Tab.set, Tab.rising_cons]; exact ⟨hn, rfl⟩
  | cons e r ih =>
    obtain ⟨k, u⟩ := e
    rw [Tab.rising_cons] at h
    by_cases h1 : n < k
    · rw [Tab.set, if_pos h1, Tab.rising_cons, Tab.rising_cons]
      exact ⟨hn, fun l hl => by cases hl; exact h1, h.2⟩
    · by_cases h2 : k = n
      · subst h2; rw [Tab.set, if_neg h1, if_pos rfl, Tab.rising_cons]; exact h
      · rw [Tab.set, if_neg h1, if_neg h2, Tab.rising_cons]
        exact ⟨h.1, ih h.2 fun l hl => by cases hl; omega⟩

theorem Tab.rising_filter {lo : Option Nat} {t : Tab α} (p : Nat × α → Bool) (h : Tab.rising lo t = true) :
    Tab.rising lo (t.filter p) = true := by
  induction t generalizing lo with
  | nil => rfl
  | cons e r ih =>
    obtain ⟨k, u⟩ := e
    rw [Tab.rising_cons] at h
    by_cases hp : p (k, u) = true
    · rw [List.filter_cons_of_pos hp, Tab.rising_cons]; exact ⟨h.1, ih h.2⟩
    · rw [List.filter_cons_of_neg hp]
      refine ih ?_
      cases lo with
      | none => exact Tab.rising_none_of_some h.2
      | some l => exact Tab.rising_mono (Nat.le_of_lt (h.1 l rfl)) h.2

theorem Tab.erase_eq_filter (t : Tab α) (n : Nat) : Tab.erase t n = t.filter fun e => e.1 != n := by
  induction t with
  | nil => rfl
  | cons e r ih =>
    obtain ⟨k, u⟩ := e
    by_cases h : k = n <;> simp [Tab.erase, h, ih]

theorem Tab.wf_set {t : Tab α} (n : Nat) (v : α) (h : Tab.wf t = true) : Tab.wf (Tab.set t n v) = true :=
  Tab.rising_set v h fun _ hl => by cases hl

theorem Tab.wf_filter {t : Tab α} (p : Nat × α → Bool) (h : Tab.wf t = true) : Tab.wf (t.filter p) = true :=
  Tab.rising_filter p h

theorem Tab.wf_erase {t : Tab α} (n : Nat) (h : Tab.wf t = true) : Tab.wf (Tab.erase t n) = true := by
  rw [Tab.erase_eq_filter]; exact Tab.wf_filter _ h

theorem Tab.all_set {t : Tab α} {n : Nat} {v : α} {p : Nat × α → Bool} (h : t.all p = true) (hv : p (n, v) = true) :
    (Tab.set t n v).all p = true := by
  induction t with
  | nil => simp [Tab.set, hv]
  | cons e r ih =>
    obtain ⟨k, u⟩ := e
    simp only [List.all_cons, Bool.and_eq_true] at h
    by_cases h1 : n < k
    · simp [Tab.set, h1, hv, h.1, h.2]
    · by_cases h2 : k = n
      · simp [Tab.set, h2, hv, h.2]
      · simp [Tab.set, h1, h2, h.1, ih h.2]

/-! ## Byte storage -/

theorem Mem.wf_iff (m : Mem) : Mem.wf m = true ↔ Tab.wf m = true ∧ m.all (fun c => c.2 != 0) = true := by
  simp [Mem.wf]

theorem Mem.wf_filter {m : Mem} (p : Host.Cell → Bool) (h : Mem.wf m = true) : Mem.wf (m.filter p) = true := by
  rw [Mem.wf_iff] at h ⊢
  refine ⟨Tab.wf_filter p h.1, ?_⟩
  rw [List.all_eq_true] at h ⊢
  exact fun c hc => h.2 c (List.mem_of_mem_filter hc)

/-- Storing a byte keeps the canonical form. -/
theorem Mem.wf_put {m : Mem} (a : Nat) (b : Byte) (h : Mem.wf m = true) : Mem.wf (Mem.put m a b) = true := by
  by_cases hb : b = 0
  · simp only [Mem.put, hb, if_true, Tab.erase_eq_filter]; exact Mem.wf_filter _ h
  · rw [Mem.wf_iff] at h ⊢
    simp only [Mem.put, hb, if_false]
    exact ⟨Tab.wf_set a b h.1, Tab.all_set h.2 (by simpa using hb)⟩

/-- Storing bytes keeps the canonical form. -/
theorem Mem.wf_puts {m : Mem} (a : Nat) (bs : List Byte) (h : Mem.wf m = true) : Mem.wf (Mem.puts m a bs) = true := by
  induction bs generalizing m a with
  | nil => exact h
  | cons b r ih => exact ih (a + 1) (Mem.wf_put a b h)

/-- Clearing a range keeps the canonical form. -/
theorem Mem.wf_clear {m : Mem} (a n : Nat) (h : Mem.wf m = true) : Mem.wf (Mem.clear m a n) = true := Mem.wf_filter _ h

/-- The cells of a range are in canonical form. -/
theorem Mem.wf_slice {m : Mem} (a n : Nat) (h : Mem.wf m = true) : Mem.wf (Mem.slice m a n) = true := Mem.wf_filter _ h

/-- Storing cells one after another keeps the canonical form, wherever each goes. -/
theorem Mem.wf_foldl_put {β : Type} (addr : β → Nat) (byte : β → Byte) (l : List β) {m : Mem} (h : Mem.wf m = true) :
    Mem.wf (l.foldl (fun m c => Mem.put m (addr c) (byte c)) m) = true := by
  induction l generalizing m with
  | nil => exact h
  | cons c r ih => exact ih (Mem.wf_put _ _ h)

/-- Pasting cells keeps the canonical form. -/
theorem Mem.wf_paste {m : Mem} (frm dst : Nat) (cells : Mem) (h : Mem.wf m = true) : Mem.wf (Mem.paste m frm dst cells) = true :=
  Mem.wf_foldl_put _ _ cells h

/-- A byte reads as it was last stored. -/
@[simp] theorem Mem.get_put_self (m : Mem) (a : Nat) (b : Byte) : Mem.get (Mem.put m a b) a = b := by
  by_cases hb : b = 0
  · simp [Mem.get, Mem.put, hb, Tab.get]
  · rw [Mem.get, Mem.put, if_neg hb, Tab.get_set_self]

/-- A store of a byte leaves every other byte. -/
theorem Mem.get_put_of_ne (m : Mem) {a x : Nat} (b : Byte) (h : x ≠ a) : Mem.get (Mem.put m a b) x = Mem.get m x := by
  by_cases hb : b = 0
  · simp [Mem.get, Mem.put, hb, Tab.get, Tab.get?_erase_of_ne m h]
  · rw [Mem.get, Mem.put, if_neg hb, Tab.get_set_of_ne _ _ _ h, Mem.get]

/-- A store of bytes leaves every byte outside its range. -/
theorem Mem.get_puts_outside (bs : List Byte) (m : Mem) {a x : Nat} (h : x < a ∨ a + bs.length ≤ x) :
    Mem.get (Mem.puts m a bs) x = Mem.get m x := by
  induction bs generalizing m a with
  | nil => rfl
  | cons b r ih =>
    simp only [List.length_cons] at h
    rw [Mem.puts, ih _ (by omega), Mem.get_put_of_ne _ _ (by omega)]

/-- A byte inside the range of a store reads as the byte stored there. -/
theorem Mem.get_puts_inside (bs : List Byte) (m : Mem) (a i : Nat) (h : i < bs.length) :
    Mem.get (Mem.puts m a bs) (a + i) = bs[i] := by
  induction bs generalizing m a i with
  | nil => simp at h
  | cons b r ih =>
    cases i with
    | zero => rw [Mem.puts, Mem.get_puts_outside _ _ (by omega)]; simp
    | succ j =>
      have := ih (Mem.put m a b) (a + 1) j (by simpa using h)
      rw [Mem.puts, show a + (j + 1) = a + 1 + j from by omega, this]; rfl

/-! ## Vectors by a bit-vector index -/

theorem vget_vset_self {n w : Nat} (v : Vector α n) (d x : α) (i : BitVec w) (h : i.toNat < n) : vget (vset v i x) d i = x := by
  simp [vget, vset, h]

theorem vget_vset_of_ne {n w : Nat} (v : Vector α n) (d x : α) {i j : BitVec w} (h : j ≠ i) :
    vget (vset v i x) d j = vget v d j := by
  have hne : i.toNat ≠ j.toNat := fun e => h (BitVec.eq_of_toNat_eq e.symm)
  simp [vget, vset, List.getD, hne]

end Sys2Proof.Machine
end

