-- ==== Sys2Proof/Laws/State.lean ====
section
/-! SUPPORT. The named updates of the package's state: what each changes reads back, and every other field is unchanged. -/

namespace Sys2Proof.Machine

/-! ## What an update stores is what is read -/

@[simp] theorem State.tile_setTile (s : State) (g : BitVec 8) (t : Tile) : (s.setTile g t).tile g = t := Tab.get_set_self ..
theorem State.tile_setTile_of_ne (s : State) {g h : BitVec 8} (t : Tile) (hne : h ≠ g) : (s.setTile g t).tile h = s.tile h :=
  Tab.get_set_of_ne _ _ _ fun e => hne (BitVec.eq_of_toNat_eq e)
@[simp] theorem State.tile_modTile (s : State) (g : BitVec 8) (f : Tile → Tile) : (s.modTile g f).tile g = f (s.tile g) :=
  State.tile_setTile ..
theorem State.tile_modTile_of_ne (s : State) {g h : BitVec 8} (f : Tile → Tile) (hne : h ≠ g) :
    (s.modTile g f).tile h = s.tile h := State.tile_setTile_of_ne s _ hne
@[simp] theorem State.setTile_setTile (s : State) (g : BitVec 8) (t u : Tile) : (s.setTile g t).setTile g u = s.setTile g u := by
  simp [State.setTile]
@[simp] theorem State.modTile_modTile (s : State) (g : BitVec 8) (f h : Tile → Tile) :
    (s.modTile g f).modTile g h = s.modTile g fun t => h (f t) := by
  simp [State.modTile]
@[simp] theorem State.setTile_modTile (s : State) (g : BitVec 8) (t : Tile) (f : Tile → Tile) :
    (s.setTile g t).modTile g f = s.setTile g (f t) := by
  simp [State.modTile]

@[simp] theorem State.queue_setQueue (s : State) (q : BitVec 10) (x : Queue) : (s.setQueue q x).queue q = x := Tab.get_set_self ..
theorem State.queue_setQueue_of_ne (s : State) {q r : BitVec 10} (x : Queue) (hne : r ≠ q) : (s.setQueue q x).queue r = s.queue r :=
  Tab.get_set_of_ne _ _ _ fun e => hne (BitVec.eq_of_toNat_eq e)
@[simp] theorem State.queue_modQueue (s : State) (q : BitVec 10) (f : Queue → Queue) : (s.modQueue q f).queue q = f (s.queue q) :=
  State.queue_setQueue ..
@[simp] theorem State.ring_setRing (s : State) (c : Nat) (x : Ring) : (s.setRing c x).ring c = x := Tab.get_set_self ..
theorem State.ring_setRing_of_ne (s : State) {c d : Nat} (x : Ring) (hne : d ≠ c) : (s.setRing c x).ring d = s.ring d :=
  Tab.get_set_of_ne _ _ _ hne
@[simp] theorem State.ring_modRing (s : State) (c : Nat) (f : Ring → Ring) : (s.modRing c f).ring c = f (s.ring c) :=
  State.ring_setRing ..
@[simp] theorem State.fn_setFn (s : State) (f : BitVec 8) (x : Fn) : (s.setFn f x).fn f = x := Tab.get_set_self ..
theorem State.fn_setFn_of_ne (s : State) {f k : BitVec 8} (x : Fn) (hne : k ≠ f) : (s.setFn f x).fn k = s.fn k :=
  Tab.get_set_of_ne _ _ _ fun e => hne (BitVec.eq_of_toNat_eq e)
@[simp] theorem State.die_setDie (s : State) (d : BitVec 2) (x : Die) : (s.setDie d x).die d = x := vget_vset_self _ _ _ _ d.isLt
theorem State.die_setDie_of_ne (s : State) {d e : BitVec 2} (x : Die) (hne : e ≠ d) : (s.setDie d x).die e = s.die e :=
  vget_vset_of_ne _ _ _ hne
@[simp] theorem State.home_setHome (s : State) (h : BitVec 3) (x : Home) : (s.setHome h x).home h = x := vget_vset_self _ _ _ _ h.isLt
@[simp] theorem State.ctx?_setCtx (s : State) (x : Ctx) : (s.setCtx x).ctx? x.id = some x := Tab.get?_set_self ..
@[simp] theorem State.launch?_setLaunch (s : State) (l : Launch) : (s.setLaunch l).launch? l.id = some l := Tab.get?_set_self ..
@[simp] theorem State.emit_out (s : State) (o : Output) : (s.emit o).out = o :: s.out := rfl
@[simp] theorem State.free_fresh (s : State) (w : Nat) : (s.free w).2.fresh = s.fresh + 1 := rfl
@[simp] theorem State.wrBytes_mem (s : State) (a : Nat) (bs : List Byte) (p : Bool) : (s.wrBytes a bs p).mem = Mem.puts s.mem a bs := rfl
@[simp] theorem State.zero_mem (s : State) (a n : Nat) : (s.zero a n).mem = Mem.clear s.mem a n := rfl

/-! ## Fields that an update leaves -/

@[simp] theorem State.setTile_agenda (s : State) (g : BitVec 8) (t : Tile) : (s.setTile g t).agenda = s.agenda := rfl
@[simp] theorem State.setTile_focus (s : State) (g : BitVec 8) (t : Tile) : (s.setTile g t).focus = s.focus := rfl
@[simp] theorem State.setTile_cur (s : State) (g : BitVec 8) (t : Tile) : (s.setTile g t).cur = s.cur := rfl
@[simp] theorem State.setTile_fresh (s : State) (g : BitVec 8) (t : Tile) : (s.setTile g t).fresh = s.fresh := rfl
@[simp] theorem State.setTile_nextId (s : State) (g : BitVec 8) (t : Tile) : (s.setTile g t).nextId = s.nextId := rfl
@[simp] theorem State.setTile_out (s : State) (g : BitVec 8) (t : Tile) : (s.setTile g t).out = s.out := rfl
@[simp] theorem State.setTile_mem (s : State) (g : BitVec 8) (t : Tile) : (s.setTile g t).mem = s.mem := rfl
@[simp] theorem State.setTile_poison (s : State) (g : BitVec 8) (t : Tile) : (s.setTile g t).poison = s.poison := rfl
@[simp] theorem State.setTile_lineKey (s : State) (g : BitVec 8) (t : Tile) : (s.setTile g t).lineKey = s.lineKey := rfl
@[simp] theorem State.setTile_keys (s : State) (g : BitVec 8) (t : Tile) : (s.setTile g t).keys = s.keys := rfl
@[simp] theorem State.setTile_gran (s : State) (g : BitVec 8) (t : Tile) : (s.setTile g t).gran = s.gran := rfl
@[simp] theorem State.setTile_homeDir (s : State) (g : BitVec 8) (t : Tile) : (s.setTile g t).homeDir = s.homeDir := rfl
@[simp] theorem State.setTile_dies (s : State) (g : BitVec 8) (t : Tile) : (s.setTile g t).dies = s.dies := rfl
@[simp] theorem State.setTile_homes (s : State) (g : BitVec 8) (t : Tile) : (s.setTile g t).homes = s.homes := rfl
@[simp] theorem State.setTile_ctxs (s : State) (g : BitVec 8) (t : Tile) : (s.setTile g t).ctxs = s.ctxs := rfl
@[simp] theorem State.setTile_images (s : State) (g : BitVec 8) (t : Tile) : (s.setTile g t).images = s.images := rfl
@[simp] theorem State.setTile_cy (s : State) (g : BitVec 8) (t : Tile) : (s.setTile g t).cy = s.cy := rfl
@[simp] theorem State.setTile_devtime (s : State) (g : BitVec 8) (t : Tile) : (s.setTile g t).devtime = s.devtime := rfl
@[simp] theorem State.setTile_tickcnt (s : State) (g : BitVec 8) (t : Tile) : (s.setTile g t).tickcnt = s.tickcnt := rfl
@[simp] theorem State.setTile_tDomain (s : State) (g : BitVec 8) (t : Tile) : (s.setTile g t).tDomain = s.tDomain := rfl
@[simp] theorem State.setTile_tDelay (s : State) (g : BitVec 8) (t : Tile) : (s.setTile g t).tDelay = s.tDelay := rfl
@[simp] theorem State.setTile_tEn (s : State) (g : BitVec 8) (t : Tile) : (s.setTile g t).tEn = s.tEn := rfl
@[simp] theorem State.setTile_tValid (s : State) (g : BitVec 8) (t : Tile) : (s.setTile g t).tValid = s.tValid := rfl
@[simp] theorem State.setTile_tLocked (s : State) (g : BitVec 8) (t : Tile) : (s.setTile g t).tLocked = s.tLocked := rfl
@[simp] theorem State.setTile_tHoldover (s : State) (g : BitVec 8) (t : Tile) : (s.setTile g t).tHoldover = s.tHoldover := rfl
@[simp] theorem State.setTile_tStepped (s : State) (g : BitVec 8) (t : Tile) : (s.setTile g t).tStepped = s.tStepped := rfl
@[simp] theorem State.setTile_tOffset (s : State) (g : BitVec 8) (t : Tile) : (s.setTile g t).tOffset = s.tOffset := rfl
@[simp] theorem State.setTile_tSlew (s : State) (g : BitVec 8) (t : Tile) : (s.setTile g t).tSlew = s.tSlew := rfl
@[simp] theorem State.setTile_tOwe (s : State) (g : BitVec 8) (t : Tile) : (s.setTile g t).tOwe = s.tOwe := rfl
@[simp] theorem State.setTile_budget (s : State) (g : BitVec 8) (t : Tile) : (s.setTile g t).budget = s.budget := rfl
@[simp] theorem State.setTile_budgetLock (s : State) (g : BitVec 8) (t : Tile) : (s.setTile g t).budgetLock = s.budgetLock := rfl
@[simp] theorem State.setTile_held (s : State) (g : BitVec 8) (t : Tile) : (s.setTile g t).held = s.held := rfl
@[simp] theorem State.setTile_heldAt (s : State) (g : BitVec 8) (t : Tile) : (s.setTile g t).heldAt = s.heldAt := rfl
@[simp] theorem State.setTile_hot (s : State) (g : BitVec 8) (t : Tile) : (s.setTile g t).hot = s.hot := rfl
@[simp] theorem State.setTile_hot110 (s : State) (g : BitVec 8) (t : Tile) : (s.setTile g t).hot110 = s.hot110 := rfl
@[simp] theorem State.setTile_railsOff (s : State) (g : BitVec 8) (t : Tile) : (s.setTile g t).railsOff = s.railsOff := rfl
@[simp] theorem State.setTile_warn (s : State) (g : BitVec 8) (t : Tile) : (s.setTile g t).warn = s.warn := rfl
@[simp] theorem State.setTile_corrected (s : State) (g : BitVec 8) (t : Tile) : (s.setTile g t).corrected = s.corrected := rfl
@[simp] theorem State.setTile_tileCorrected (s : State) (g : BitVec 8) (t : Tile) : (s.setTile g t).tileCorrected = s.tileCorrected := rfl
@[simp] theorem State.setTile_scrubPass (s : State) (g : BitVec 8) (t : Tile) : (s.setTile g t).scrubPass = s.scrubPass := rfl
@[simp] theorem State.setTile_scrubPos (s : State) (g : BitVec 8) (t : Tile) : (s.setTile g t).scrubPos = s.scrubPos := rfl
@[simp] theorem State.setTile_scrubLine (s : State) (g : BitVec 8) (t : Tile) : (s.setTile g t).scrubLine = s.scrubLine := rfl
@[simp] theorem State.setTile_cxl (s : State) (g : BitVec 8) (t : Tile) : (s.setTile g t).cxl = s.cxl := rfl
@[simp] theorem State.setTile_fns (s : State) (g : BitVec 8) (t : Tile) : (s.setTile g t).fns = s.fns := rfl
@[simp] theorem State.setTile_qfunc (s : State) (g : BitVec 8) (t : Tile) : (s.setTile g t).qfunc = s.qfunc := rfl
@[simp] theorem State.setTile_queues (s : State) (g : BitVec 8) (t : Tile) : (s.setTile g t).queues = s.queues := rfl
@[simp] theorem State.setTile_rings (s : State) (g : BitVec 8) (t : Tile) : (s.setTile g t).rings = s.rings := rfl
@[simp] theorem State.setTile_progs (s : State) (g : BitVec 8) (t : Tile) : (s.setTile g t).progs = s.progs := rfl
@[simp] theorem State.setTile_progAddr (s : State) (g : BitVec 8) (t : Tile) : (s.setTile g t).progAddr = s.progAddr := rfl
@[simp] theorem State.setTile_progSlot (s : State) (g : BitVec 8) (t : Tile) : (s.setTile g t).progSlot = s.progSlot := rfl
@[simp] theorem State.setTile_progWord (s : State) (g : BitVec 8) (t : Tile) : (s.setTile g t).progWord = s.progWord := rfl
@[simp] theorem State.setTile_progBusy (s : State) (g : BitVec 8) (t : Tile) : (s.setTile g t).progBusy = s.progBusy := rfl
@[simp] theorem State.setTile_hostFails (s : State) (g : BitVec 8) (t : Tile) : (s.setTile g t).hostFails = s.hostFails := rfl
@[simp] theorem State.setTile_progCode (s : State) (g : BitVec 8) (t : Tile) : (s.setTile g t).progCode = s.progCode := rfl
@[simp] theorem State.setTile_interps (s : State) (g : BitVec 8) (t : Tile) : (s.setTile g t).interps = s.interps := rfl
@[simp] theorem State.setTile_rotClass (s : State) (g : BitVec 8) (t : Tile) : (s.setTile g t).rotClass = s.rotClass := rfl
@[simp] theorem State.setTile_rotGiven (s : State) (g : BitVec 8) (t : Tile) : (s.setTile g t).rotGiven = s.rotGiven := rfl
@[simp] theorem State.setTile_rotQueue (s : State) (g : BitVec 8) (t : Tile) : (s.setTile g t).rotQueue = s.rotQueue := rfl
@[simp] theorem State.setTile_flashA (s : State) (g : BitVec 8) (t : Tile) : (s.setTile g t).flashA = s.flashA := rfl
@[simp] theorem State.setTile_flashB (s : State) (g : BitVec 8) (t : Tile) : (s.setTile g t).flashB = s.flashB := rfl
@[simp] theorem State.setTile_flashDcA (s : State) (g : BitVec 8) (t : Tile) : (s.setTile g t).flashDcA = s.flashDcA := rfl
@[simp] theorem State.setTile_flashDcB (s : State) (g : BitVec 8) (t : Tile) : (s.setTile g t).flashDcB = s.flashDcB := rfl
@[simp] theorem State.setTile_certChain (s : State) (g : BitVec 8) (t : Tile) : (s.setTile g t).certChain = s.certChain := rfl
@[simp] theorem State.setTile_keyHash0 (s : State) (g : BitVec 8) (t : Tile) : (s.setTile g t).keyHash0 = s.keyHash0 := rfl
@[simp] theorem State.setTile_keyHash1 (s : State) (g : BitVec 8) (t : Tile) : (s.setTile g t).keyHash1 = s.keyHash1 := rfl
@[simp] theorem State.setTile_revoked0 (s : State) (g : BitVec 8) (t : Tile) : (s.setTile g t).revoked0 = s.revoked0 := rfl
@[simp] theorem State.setTile_floorIo (s : State) (g : BitVec 8) (t : Tile) : (s.setTile g t).floorIo = s.floorIo := rfl
@[simp] theorem State.setTile_floorDc (s : State) (g : BitVec 8) (t : Tile) : (s.setTile g t).floorDc = s.floorDc := rfl
@[simp] theorem State.setTile_bootCode (s : State) (g : BitVec 8) (t : Tile) : (s.setTile g t).bootCode = s.bootCode := rfl
@[simp] theorem State.setTile_bootB (s : State) (g : BitVec 8) (t : Tile) : (s.setTile g t).bootB = s.bootB := rfl
@[simp] theorem State.setTile_recovery (s : State) (g : BitVec 8) (t : Tile) : (s.setTile g t).recovery = s.recovery := rfl
@[simp] theorem State.setTile_svnIo (s : State) (g : BitVec 8) (t : Tile) : (s.setTile g t).svnIo = s.svnIo := rfl
@[simp] theorem State.setTile_mreg (s : State) (g : BitVec 8) (t : Tile) : (s.setTile g t).mreg = s.mreg := rfl
@[simp] theorem State.setTile_mextData (s : State) (g : BitVec 8) (t : Tile) : (s.setTile g t).mextData = s.mextData := rfl
@[simp] theorem State.setTile_mextCode (s : State) (g : BitVec 8) (t : Tile) : (s.setTile g t).mextCode = s.mextCode := rfl
@[simp] theorem State.setTile_mextGo (s : State) (g : BitVec 8) (t : Tile) : (s.setTile g t).mextGo = s.mextGo := rfl
@[simp] theorem State.setTile_mextIdx (s : State) (g : BitVec 8) (t : Tile) : (s.setTile g t).mextIdx = s.mextIdx := rfl
@[simp] theorem State.setTile_debug (s : State) (g : BitVec 8) (t : Tile) : (s.setTile g t).debug = s.debug := rfl
@[simp] theorem State.setTile_chans (s : State) (g : BitVec 8) (t : Tile) : (s.setTile g t).chans = s.chans := rfl
@[simp] theorem State.setTile_pkgid (s : State) (g : BitVec 8) (t : Tile) : (s.setTile g t).pkgid = s.pkgid := rfl
@[simp] theorem State.setTile_ports (s : State) (g : BitVec 8) (t : Tile) : (s.setTile g t).ports = s.ports := rfl
@[simp] theorem State.setTile_route (s : State) (g : BitVec 8) (t : Tile) : (s.setTile g t).route = s.route := rfl
@[simp] theorem State.setTile_homemap (s : State) (g : BitVec 8) (t : Tile) : (s.setTile g t).homemap = s.homemap := rfl
@[simp] theorem State.setTile_dirSets (s : State) (g : BitVec 8) (t : Tile) : (s.setTile g t).dirSets = s.dirSets := rfl
@[simp] theorem State.setTile_dirBase (s : State) (g : BitVec 8) (t : Tile) : (s.setTile g t).dirBase = s.dirBase := rfl
@[simp] theorem State.setTile_dirEn (s : State) (g : BitVec 8) (t : Tile) : (s.setTile g t).dirEn = s.dirEn := rfl
@[simp] theorem State.setTile_dirReqs (s : State) (g : BitVec 8) (t : Tile) : (s.setTile g t).dirReqs = s.dirReqs := rfl
@[simp] theorem State.setTile_dirTag (s : State) (g : BitVec 8) (t : Tile) : (s.setTile g t).dirTag = s.dirTag := rfl
@[simp] theorem State.setTile_repl (s : State) (g : BitVec 8) (t : Tile) : (s.setTile g t).repl = s.repl := rfl
@[simp] theorem State.setTile_collReady (s : State) (g : BitVec 8) (t : Tile) : (s.setTile g t).collReady = s.collReady := rfl
@[simp] theorem State.setTile_launches (s : State) (g : BitVec 8) (t : Tile) : (s.setTile g t).launches = s.launches := rfl
@[simp] theorem State.setTile_tenants (s : State) (g : BitVec 8) (t : Tile) : (s.setTile g t).tenants = s.tenants := rfl
@[simp] theorem State.setTile_gangTime (s : State) (g : BitVec 8) (t : Tile) : (s.setTile g t).gangTime = s.gangTime := rfl
@[simp] theorem State.setTile_gangSet (s : State) (g : BitVec 8) (t : Tile) : (s.setTile g t).gangSet = s.gangSet := rfl
@[simp] theorem State.setTile_gangDone (s : State) (g : BitVec 8) (t : Tile) : (s.setTile g t).gangDone = s.gangDone := rfl
@[simp] theorem State.setTile_gangArmed (s : State) (g : BitVec 8) (t : Tile) : (s.setTile g t).gangArmed = s.gangArmed := rfl
@[simp] theorem State.setTile_resBase (s : State) (g : BitVec 8) (t : Tile) : (s.setTile g t).resBase = s.resBase := rfl
@[simp] theorem State.setTile_resHandle (s : State) (g : BitVec 8) (t : Tile) : (s.setTile g t).resHandle = s.resHandle := rfl
@[simp] theorem State.setTile_resGo (s : State) (g : BitVec 8) (t : Tile) : (s.setTile g t).resGo = s.resGo := rfl
@[simp] theorem State.setTile_resCode (s : State) (g : BitVec 8) (t : Tile) : (s.setTile g t).resCode = s.resCode := rfl
@[simp] theorem State.setTile_resOp (s : State) (g : BitVec 8) (t : Tile) : (s.setTile g t).resOp = s.resOp := rfl
@[simp] theorem State.setTile_resRunHandle (s : State) (g : BitVec 8) (t : Tile) : (s.setTile g t).resRunHandle = s.resRunHandle := rfl
@[simp] theorem State.setTile_resRunOp (s : State) (g : BitVec 8) (t : Tile) : (s.setTile g t).resRunOp = s.resRunOp := rfl
@[simp] theorem State.setTile_resPool (s : State) (g : BitVec 8) (t : Tile) : (s.setTile g t).resPool = s.resPool := rfl
@[simp] theorem State.setTile_resCxl (s : State) (g : BitVec 8) (t : Tile) : (s.setTile g t).resCxl = s.resCxl := rfl
@[simp] theorem State.setTile_resMoves (s : State) (g : BitVec 8) (t : Tile) : (s.setTile g t).resMoves = s.resMoves := rfl
@[simp] theorem State.setTile_resLat (s : State) (g : BitVec 8) (t : Tile) : (s.setTile g t).resLat = s.resLat := rfl
@[simp] theorem State.setTile_sdAddr (s : State) (g : BitVec 8) (t : Tile) : (s.setTile g t).sdAddr = s.sdAddr := rfl
@[simp] theorem State.setTile_sdCtx (s : State) (g : BitVec 8) (t : Tile) : (s.setTile g t).sdCtx = s.sdCtx := rfl
@[simp] theorem State.setTile_sdGo (s : State) (g : BitVec 8) (t : Tile) : (s.setTile g t).sdGo = s.sdGo := rfl
@[simp] theorem State.setTile_sdCode (s : State) (g : BitVec 8) (t : Tile) : (s.setTile g t).sdCode = s.sdCode := rfl
@[simp] theorem State.setTile_sdScope (s : State) (g : BitVec 8) (t : Tile) : (s.setTile g t).sdScope = s.sdScope := rfl
@[simp] theorem State.setTile_sds (s : State) (g : BitVec 8) (t : Tile) : (s.setTile g t).sds = s.sds := rfl
@[simp] theorem State.setTile_nsAddr (s : State) (g : BitVec 8) (t : Tile) : (s.setTile g t).nsAddr = s.nsAddr := rfl
@[simp] theorem State.setTile_nsNsid (s : State) (g : BitVec 8) (t : Tile) : (s.setTile g t).nsNsid = s.nsNsid := rfl
@[simp] theorem State.setTile_nsGo (s : State) (g : BitVec 8) (t : Tile) : (s.setTile g t).nsGo = s.nsGo := rfl
@[simp] theorem State.setTile_nsCode (s : State) (g : BitVec 8) (t : Tile) : (s.setTile g t).nsCode = s.nsCode := rfl
@[simp] theorem State.setTile_nsOp (s : State) (g : BitVec 8) (t : Tile) : (s.setTile g t).nsOp = s.nsOp := rfl
@[simp] theorem State.setTile_nsRunNsid (s : State) (g : BitVec 8) (t : Tile) : (s.setTile g t).nsRunNsid = s.nsRunNsid := rfl
@[simp] theorem State.setTile_nsRunOp (s : State) (g : BitVec 8) (t : Tile) : (s.setTile g t).nsRunOp = s.nsRunOp := rfl
@[simp] theorem State.setTile_nss (s : State) (g : BitVec 8) (t : Tile) : (s.setTile g t).nss = s.nss := rfl
@[simp] theorem State.setTile_idxLog (s : State) (g : BitVec 8) (t : Tile) : (s.setTile g t).idxLog = s.idxLog := rfl
@[simp] theorem State.setTile_idxBase (s : State) (g : BitVec 8) (t : Tile) : (s.setTile g t).idxBase = s.idxBase := rfl
@[simp] theorem State.setTile_pools (s : State) (g : BitVec 8) (t : Tile) : (s.setTile g t).pools = s.pools := rfl
@[simp] theorem State.setTile_nodes (s : State) (g : BitVec 8) (t : Tile) : (s.setTile g t).nodes = s.nodes := rfl
@[simp] theorem State.setTile_index (s : State) (g : BitVec 8) (t : Tile) : (s.setTile g t).index = s.index := rfl
@[simp] theorem State.setTile_errOvf (s : State) (g : BitVec 8) (t : Tile) : (s.setTile g t).errOvf = s.errOvf := rfl
@[simp] theorem State.setTile_errLost (s : State) (g : BitVec 8) (t : Tile) : (s.setTile g t).errLost = s.errLost := rfl
@[simp] theorem State.setTile_ckCfg (s : State) (g : BitVec 8) (t : Tile) : (s.setTile g t).ckCfg = s.ckCfg := rfl

@[simp] theorem State.modTile_agenda (s : State) (g : BitVec 8) (f : Tile → Tile) : (s.modTile g f).agenda = s.agenda := rfl
@[simp] theorem State.modTile_focus (s : State) (g : BitVec 8) (f : Tile → Tile) : (s.modTile g f).focus = s.focus := rfl
@[simp] theorem State.modTile_cur (s : State) (g : BitVec 8) (f : Tile → Tile) : (s.modTile g f).cur = s.cur := rfl
@[simp] theorem State.modTile_fresh (s : State) (g : BitVec 8) (f : Tile → Tile) : (s.modTile g f).fresh = s.fresh := rfl
@[simp] theorem State.modTile_nextId (s : State) (g : BitVec 8) (f : Tile → Tile) : (s.modTile g f).nextId = s.nextId := rfl
@[simp] theorem State.modTile_out (s : State) (g : BitVec 8) (f : Tile → Tile) : (s.modTile g f).out = s.out := rfl
@[simp] theorem State.modTile_mem (s : State) (g : BitVec 8) (f : Tile → Tile) : (s.modTile g f).mem = s.mem := rfl
@[simp] theorem State.modTile_poison (s : State) (g : BitVec 8) (f : Tile → Tile) : (s.modTile g f).poison = s.poison := rfl
@[simp] theorem State.modTile_lineKey (s : State) (g : BitVec 8) (f : Tile → Tile) : (s.modTile g f).lineKey = s.lineKey := rfl
@[simp] theorem State.modTile_keys (s : State) (g : BitVec 8) (f : Tile → Tile) : (s.modTile g f).keys = s.keys := rfl
@[simp] theorem State.modTile_gran (s : State) (g : BitVec 8) (f : Tile → Tile) : (s.modTile g f).gran = s.gran := rfl
@[simp] theorem State.modTile_homeDir (s : State) (g : BitVec 8) (f : Tile → Tile) : (s.modTile g f).homeDir = s.homeDir := rfl
@[simp] theorem State.modTile_dies (s : State) (g : BitVec 8) (f : Tile → Tile) : (s.modTile g f).dies = s.dies := rfl
@[simp] theorem State.modTile_homes (s : State) (g : BitVec 8) (f : Tile → Tile) : (s.modTile g f).homes = s.homes := rfl
@[simp] theorem State.modTile_ctxs (s : State) (g : BitVec 8) (f : Tile → Tile) : (s.modTile g f).ctxs = s.ctxs := rfl
@[simp] theorem State.modTile_images (s : State) (g : BitVec 8) (f : Tile → Tile) : (s.modTile g f).images = s.images := rfl
@[simp] theorem State.modTile_cy (s : State) (g : BitVec 8) (f : Tile → Tile) : (s.modTile g f).cy = s.cy := rfl
@[simp] theorem State.modTile_devtime (s : State) (g : BitVec 8) (f : Tile → Tile) : (s.modTile g f).devtime = s.devtime := rfl
@[simp] theorem State.modTile_tickcnt (s : State) (g : BitVec 8) (f : Tile → Tile) : (s.modTile g f).tickcnt = s.tickcnt := rfl
@[simp] theorem State.modTile_tDomain (s : State) (g : BitVec 8) (f : Tile → Tile) : (s.modTile g f).tDomain = s.tDomain := rfl
@[simp] theorem State.modTile_tDelay (s : State) (g : BitVec 8) (f : Tile → Tile) : (s.modTile g f).tDelay = s.tDelay := rfl
@[simp] theorem State.modTile_tEn (s : State) (g : BitVec 8) (f : Tile → Tile) : (s.modTile g f).tEn = s.tEn := rfl
@[simp] theorem State.modTile_tValid (s : State) (g : BitVec 8) (f : Tile → Tile) : (s.modTile g f).tValid = s.tValid := rfl
@[simp] theorem State.modTile_tLocked (s : State) (g : BitVec 8) (f : Tile → Tile) : (s.modTile g f).tLocked = s.tLocked := rfl
@[simp] theorem State.modTile_tHoldover (s : State) (g : BitVec 8) (f : Tile → Tile) : (s.modTile g f).tHoldover = s.tHoldover := rfl
@[simp] theorem State.modTile_tStepped (s : State) (g : BitVec 8) (f : Tile → Tile) : (s.modTile g f).tStepped = s.tStepped := rfl
@[simp] theorem State.modTile_tOffset (s : State) (g : BitVec 8) (f : Tile → Tile) : (s.modTile g f).tOffset = s.tOffset := rfl
@[simp] theorem State.modTile_tSlew (s : State) (g : BitVec 8) (f : Tile → Tile) : (s.modTile g f).tSlew = s.tSlew := rfl
@[simp] theorem State.modTile_tOwe (s : State) (g : BitVec 8) (f : Tile → Tile) : (s.modTile g f).tOwe = s.tOwe := rfl
@[simp] theorem State.modTile_budget (s : State) (g : BitVec 8) (f : Tile → Tile) : (s.modTile g f).budget = s.budget := rfl
@[simp] theorem State.modTile_budgetLock (s : State) (g : BitVec 8) (f : Tile → Tile) : (s.modTile g f).budgetLock = s.budgetLock := rfl
@[simp] theorem State.modTile_held (s : State) (g : BitVec 8) (f : Tile → Tile) : (s.modTile g f).held = s.held := rfl
@[simp] theorem State.modTile_heldAt (s : State) (g : BitVec 8) (f : Tile → Tile) : (s.modTile g f).heldAt = s.heldAt := rfl
@[simp] theorem State.modTile_hot (s : State) (g : BitVec 8) (f : Tile → Tile) : (s.modTile g f).hot = s.hot := rfl
@[simp] theorem State.modTile_hot110 (s : State) (g : BitVec 8) (f : Tile → Tile) : (s.modTile g f).hot110 = s.hot110 := rfl
@[simp] theorem State.modTile_railsOff (s : State) (g : BitVec 8) (f : Tile → Tile) : (s.modTile g f).railsOff = s.railsOff := rfl
@[simp] theorem State.modTile_warn (s : State) (g : BitVec 8) (f : Tile → Tile) : (s.modTile g f).warn = s.warn := rfl
@[simp] theorem State.modTile_corrected (s : State) (g : BitVec 8) (f : Tile → Tile) : (s.modTile g f).corrected = s.corrected := rfl
@[simp] theorem State.modTile_tileCorrected (s : State) (g : BitVec 8) (f : Tile → Tile) : (s.modTile g f).tileCorrected = s.tileCorrected := rfl
@[simp] theorem State.modTile_scrubPass (s : State) (g : BitVec 8) (f : Tile → Tile) : (s.modTile g f).scrubPass = s.scrubPass := rfl
@[simp] theorem State.modTile_scrubPos (s : State) (g : BitVec 8) (f : Tile → Tile) : (s.modTile g f).scrubPos = s.scrubPos := rfl
@[simp] theorem State.modTile_scrubLine (s : State) (g : BitVec 8) (f : Tile → Tile) : (s.modTile g f).scrubLine = s.scrubLine := rfl
@[simp] theorem State.modTile_cxl (s : State) (g : BitVec 8) (f : Tile → Tile) : (s.modTile g f).cxl = s.cxl := rfl
@[simp] theorem State.modTile_fns (s : State) (g : BitVec 8) (f : Tile → Tile) : (s.modTile g f).fns = s.fns := rfl
@[simp] theorem State.modTile_qfunc (s : State) (g : BitVec 8) (f : Tile → Tile) : (s.modTile g f).qfunc = s.qfunc := rfl
@[simp] theorem State.modTile_queues (s : State) (g : BitVec 8) (f : Tile → Tile) : (s.modTile g f).queues = s.queues := rfl
@[simp] theorem State.modTile_rings (s : State) (g : BitVec 8) (f : Tile → Tile) : (s.modTile g f).rings = s.rings := rfl
@[simp] theorem State.modTile_progs (s : State) (g : BitVec 8) (f : Tile → Tile) : (s.modTile g f).progs = s.progs := rfl
@[simp] theorem State.modTile_progAddr (s : State) (g : BitVec 8) (f : Tile → Tile) : (s.modTile g f).progAddr = s.progAddr := rfl
@[simp] theorem State.modTile_progSlot (s : State) (g : BitVec 8) (f : Tile → Tile) : (s.modTile g f).progSlot = s.progSlot := rfl
@[simp] theorem State.modTile_progWord (s : State) (g : BitVec 8) (f : Tile → Tile) : (s.modTile g f).progWord = s.progWord := rfl
@[simp] theorem State.modTile_progBusy (s : State) (g : BitVec 8) (f : Tile → Tile) : (s.modTile g f).progBusy = s.progBusy := rfl
@[simp] theorem State.modTile_hostFails (s : State) (g : BitVec 8) (f : Tile → Tile) : (s.modTile g f).hostFails = s.hostFails := rfl
@[simp] theorem State.modTile_progCode (s : State) (g : BitVec 8) (f : Tile → Tile) : (s.modTile g f).progCode = s.progCode := rfl
@[simp] theorem State.modTile_interps (s : State) (g : BitVec 8) (f : Tile → Tile) : (s.modTile g f).interps = s.interps := rfl
@[simp] theorem State.modTile_rotClass (s : State) (g : BitVec 8) (f : Tile → Tile) : (s.modTile g f).rotClass = s.rotClass := rfl
@[simp] theorem State.modTile_rotGiven (s : State) (g : BitVec 8) (f : Tile → Tile) : (s.modTile g f).rotGiven = s.rotGiven := rfl
@[simp] theorem State.modTile_rotQueue (s : State) (g : BitVec 8) (f : Tile → Tile) : (s.modTile g f).rotQueue = s.rotQueue := rfl
@[simp] theorem State.modTile_flashA (s : State) (g : BitVec 8) (f : Tile → Tile) : (s.modTile g f).flashA = s.flashA := rfl
@[simp] theorem State.modTile_flashB (s : State) (g : BitVec 8) (f : Tile → Tile) : (s.modTile g f).flashB = s.flashB := rfl
@[simp] theorem State.modTile_flashDcA (s : State) (g : BitVec 8) (f : Tile → Tile) : (s.modTile g f).flashDcA = s.flashDcA := rfl
@[simp] theorem State.modTile_flashDcB (s : State) (g : BitVec 8) (f : Tile → Tile) : (s.modTile g f).flashDcB = s.flashDcB := rfl
@[simp] theorem State.modTile_certChain (s : State) (g : BitVec 8) (f : Tile → Tile) : (s.modTile g f).certChain = s.certChain := rfl
@[simp] theorem State.modTile_keyHash0 (s : State) (g : BitVec 8) (f : Tile → Tile) : (s.modTile g f).keyHash0 = s.keyHash0 := rfl
@[simp] theorem State.modTile_keyHash1 (s : State) (g : BitVec 8) (f : Tile → Tile) : (s.modTile g f).keyHash1 = s.keyHash1 := rfl
@[simp] theorem State.modTile_revoked0 (s : State) (g : BitVec 8) (f : Tile → Tile) : (s.modTile g f).revoked0 = s.revoked0 := rfl
@[simp] theorem State.modTile_floorIo (s : State) (g : BitVec 8) (f : Tile → Tile) : (s.modTile g f).floorIo = s.floorIo := rfl
@[simp] theorem State.modTile_floorDc (s : State) (g : BitVec 8) (f : Tile → Tile) : (s.modTile g f).floorDc = s.floorDc := rfl
@[simp] theorem State.modTile_bootCode (s : State) (g : BitVec 8) (f : Tile → Tile) : (s.modTile g f).bootCode = s.bootCode := rfl
@[simp] theorem State.modTile_bootB (s : State) (g : BitVec 8) (f : Tile → Tile) : (s.modTile g f).bootB = s.bootB := rfl
@[simp] theorem State.modTile_recovery (s : State) (g : BitVec 8) (f : Tile → Tile) : (s.modTile g f).recovery = s.recovery := rfl
@[simp] theorem State.modTile_svnIo (s : State) (g : BitVec 8) (f : Tile → Tile) : (s.modTile g f).svnIo = s.svnIo := rfl
@[simp] theorem State.modTile_mreg (s : State) (g : BitVec 8) (f : Tile → Tile) : (s.modTile g f).mreg = s.mreg := rfl
@[simp] theorem State.modTile_mextData (s : State) (g : BitVec 8) (f : Tile → Tile) : (s.modTile g f).mextData = s.mextData := rfl
@[simp] theorem State.modTile_mextCode (s : State) (g : BitVec 8) (f : Tile → Tile) : (s.modTile g f).mextCode = s.mextCode := rfl
@[simp] theorem State.modTile_mextGo (s : State) (g : BitVec 8) (f : Tile → Tile) : (s.modTile g f).mextGo = s.mextGo := rfl
@[simp] theorem State.modTile_mextIdx (s : State) (g : BitVec 8) (f : Tile → Tile) : (s.modTile g f).mextIdx = s.mextIdx := rfl
@[simp] theorem State.modTile_debug (s : State) (g : BitVec 8) (f : Tile → Tile) : (s.modTile g f).debug = s.debug := rfl
@[simp] theorem State.modTile_chans (s : State) (g : BitVec 8) (f : Tile → Tile) : (s.modTile g f).chans = s.chans := rfl
@[simp] theorem State.modTile_pkgid (s : State) (g : BitVec 8) (f : Tile → Tile) : (s.modTile g f).pkgid = s.pkgid := rfl
@[simp] theorem State.modTile_ports (s : State) (g : BitVec 8) (f : Tile → Tile) : (s.modTile g f).ports = s.ports := rfl
@[simp] theorem State.modTile_route (s : State) (g : BitVec 8) (f : Tile → Tile) : (s.modTile g f).route = s.route := rfl
@[simp] theorem State.modTile_homemap (s : State) (g : BitVec 8) (f : Tile → Tile) : (s.modTile g f).homemap = s.homemap := rfl
@[simp] theorem State.modTile_dirSets (s : State) (g : BitVec 8) (f : Tile → Tile) : (s.modTile g f).dirSets = s.dirSets := rfl
@[simp] theorem State.modTile_dirBase (s : State) (g : BitVec 8) (f : Tile → Tile) : (s.modTile g f).dirBase = s.dirBase := rfl
@[simp] theorem State.modTile_dirEn (s : State) (g : BitVec 8) (f : Tile → Tile) : (s.modTile g f).dirEn = s.dirEn := rfl
@[simp] theorem State.modTile_dirReqs (s : State) (g : BitVec 8) (f : Tile → Tile) : (s.modTile g f).dirReqs = s.dirReqs := rfl
@[simp] theorem State.modTile_dirTag (s : State) (g : BitVec 8) (f : Tile → Tile) : (s.modTile g f).dirTag = s.dirTag := rfl
@[simp] theorem State.modTile_repl (s : State) (g : BitVec 8) (f : Tile → Tile) : (s.modTile g f).repl = s.repl := rfl
@[simp] theorem State.modTile_collReady (s : State) (g : BitVec 8) (f : Tile → Tile) : (s.modTile g f).collReady = s.collReady := rfl
@[simp] theorem State.modTile_launches (s : State) (g : BitVec 8) (f : Tile → Tile) : (s.modTile g f).launches = s.launches := rfl
@[simp] theorem State.modTile_tenants (s : State) (g : BitVec 8) (f : Tile → Tile) : (s.modTile g f).tenants = s.tenants := rfl
@[simp] theorem State.modTile_gangTime (s : State) (g : BitVec 8) (f : Tile → Tile) : (s.modTile g f).gangTime = s.gangTime := rfl
@[simp] theorem State.modTile_gangSet (s : State) (g : BitVec 8) (f : Tile → Tile) : (s.modTile g f).gangSet = s.gangSet := rfl
@[simp] theorem State.modTile_gangDone (s : State) (g : BitVec 8) (f : Tile → Tile) : (s.modTile g f).gangDone = s.gangDone := rfl
@[simp] theorem State.modTile_gangArmed (s : State) (g : BitVec 8) (f : Tile → Tile) : (s.modTile g f).gangArmed = s.gangArmed := rfl
@[simp] theorem State.modTile_resBase (s : State) (g : BitVec 8) (f : Tile → Tile) : (s.modTile g f).resBase = s.resBase := rfl
@[simp] theorem State.modTile_resHandle (s : State) (g : BitVec 8) (f : Tile → Tile) : (s.modTile g f).resHandle = s.resHandle := rfl
@[simp] theorem State.modTile_resGo (s : State) (g : BitVec 8) (f : Tile → Tile) : (s.modTile g f).resGo = s.resGo := rfl
@[simp] theorem State.modTile_resCode (s : State) (g : BitVec 8) (f : Tile → Tile) : (s.modTile g f).resCode = s.resCode := rfl
@[simp] theorem State.modTile_resOp (s : State) (g : BitVec 8) (f : Tile → Tile) : (s.modTile g f).resOp = s.resOp := rfl
@[simp] theorem State.modTile_resRunHandle (s : State) (g : BitVec 8) (f : Tile → Tile) : (s.modTile g f).resRunHandle = s.resRunHandle := rfl
@[simp] theorem State.modTile_resRunOp (s : State) (g : BitVec 8) (f : Tile → Tile) : (s.modTile g f).resRunOp = s.resRunOp := rfl
@[simp] theorem State.modTile_resPool (s : State) (g : BitVec 8) (f : Tile → Tile) : (s.modTile g f).resPool = s.resPool := rfl
@[simp] theorem State.modTile_resCxl (s : State) (g : BitVec 8) (f : Tile → Tile) : (s.modTile g f).resCxl = s.resCxl := rfl
@[simp] theorem State.modTile_resMoves (s : State) (g : BitVec 8) (f : Tile → Tile) : (s.modTile g f).resMoves = s.resMoves := rfl
@[simp] theorem State.modTile_resLat (s : State) (g : BitVec 8) (f : Tile → Tile) : (s.modTile g f).resLat = s.resLat := rfl
@[simp] theorem State.modTile_sdAddr (s : State) (g : BitVec 8) (f : Tile → Tile) : (s.modTile g f).sdAddr = s.sdAddr := rfl
@[simp] theorem State.modTile_sdCtx (s : State) (g : BitVec 8) (f : Tile → Tile) : (s.modTile g f).sdCtx = s.sdCtx := rfl
@[simp] theorem State.modTile_sdGo (s : State) (g : BitVec 8) (f : Tile → Tile) : (s.modTile g f).sdGo = s.sdGo := rfl
@[simp] theorem State.modTile_sdCode (s : State) (g : BitVec 8) (f : Tile → Tile) : (s.modTile g f).sdCode = s.sdCode := rfl
@[simp] theorem State.modTile_sdScope (s : State) (g : BitVec 8) (f : Tile → Tile) : (s.modTile g f).sdScope = s.sdScope := rfl
@[simp] theorem State.modTile_sds (s : State) (g : BitVec 8) (f : Tile → Tile) : (s.modTile g f).sds = s.sds := rfl
@[simp] theorem State.modTile_nsAddr (s : State) (g : BitVec 8) (f : Tile → Tile) : (s.modTile g f).nsAddr = s.nsAddr := rfl
@[simp] theorem State.modTile_nsNsid (s : State) (g : BitVec 8) (f : Tile → Tile) : (s.modTile g f).nsNsid = s.nsNsid := rfl
@[simp] theorem State.modTile_nsGo (s : State) (g : BitVec 8) (f : Tile → Tile) : (s.modTile g f).nsGo = s.nsGo := rfl
@[simp] theorem State.modTile_nsCode (s : State) (g : BitVec 8) (f : Tile → Tile) : (s.modTile g f).nsCode = s.nsCode := rfl
@[simp] theorem State.modTile_nsOp (s : State) (g : BitVec 8) (f : Tile → Tile) : (s.modTile g f).nsOp = s.nsOp := rfl
@[simp] theorem State.modTile_nsRunNsid (s : State) (g : BitVec 8) (f : Tile → Tile) : (s.modTile g f).nsRunNsid = s.nsRunNsid := rfl
@[simp] theorem State.modTile_nsRunOp (s : State) (g : BitVec 8) (f : Tile → Tile) : (s.modTile g f).nsRunOp = s.nsRunOp := rfl
@[simp] theorem State.modTile_nss (s : State) (g : BitVec 8) (f : Tile → Tile) : (s.modTile g f).nss = s.nss := rfl
@[simp] theorem State.modTile_idxLog (s : State) (g : BitVec 8) (f : Tile → Tile) : (s.modTile g f).idxLog = s.idxLog := rfl
@[simp] theorem State.modTile_idxBase (s : State) (g : BitVec 8) (f : Tile → Tile) : (s.modTile g f).idxBase = s.idxBase := rfl
@[simp] theorem State.modTile_pools (s : State) (g : BitVec 8) (f : Tile → Tile) : (s.modTile g f).pools = s.pools := rfl
@[simp] theorem State.modTile_nodes (s : State) (g : BitVec 8) (f : Tile → Tile) : (s.modTile g f).nodes = s.nodes := rfl
@[simp] theorem State.modTile_index (s : State) (g : BitVec 8) (f : Tile → Tile) : (s.modTile g f).index = s.index := rfl
@[simp] theorem State.modTile_errOvf (s : State) (g : BitVec 8) (f : Tile → Tile) : (s.modTile g f).errOvf = s.errOvf := rfl
@[simp] theorem State.modTile_errLost (s : State) (g : BitVec 8) (f : Tile → Tile) : (s.modTile g f).errLost = s.errLost := rfl
@[simp] theorem State.modTile_ckCfg (s : State) (g : BitVec 8) (f : Tile → Tile) : (s.modTile g f).ckCfg = s.ckCfg := rfl

@[simp] theorem State.setQueue_agenda (s : State) (q : BitVec 10) (x : Queue) : (s.setQueue q x).agenda = s.agenda := rfl
@[simp] theorem State.setQueue_focus (s : State) (q : BitVec 10) (x : Queue) : (s.setQueue q x).focus = s.focus := rfl
@[simp] theorem State.setQueue_cur (s : State) (q : BitVec 10) (x : Queue) : (s.setQueue q x).cur = s.cur := rfl
@[simp] theorem State.setQueue_fresh (s : State) (q : BitVec 10) (x : Queue) : (s.setQueue q x).fresh = s.fresh := rfl
@[simp] theorem State.setQueue_nextId (s : State) (q : BitVec 10) (x : Queue) : (s.setQueue q x).nextId = s.nextId := rfl
@[simp] theorem State.setQueue_out (s : State) (q : BitVec 10) (x : Queue) : (s.setQueue q x).out = s.out := rfl
@[simp] theorem State.setQueue_mem (s : State) (q : BitVec 10) (x : Queue) : (s.setQueue q x).mem = s.mem := rfl
@[simp] theorem State.setQueue_poison (s : State) (q : BitVec 10) (x : Queue) : (s.setQueue q x).poison = s.poison := rfl
@[simp] theorem State.setQueue_lineKey (s : State) (q : BitVec 10) (x : Queue) : (s.setQueue q x).lineKey = s.lineKey := rfl
@[simp] theorem State.setQueue_keys (s : State) (q : BitVec 10) (x : Queue) : (s.setQueue q x).keys = s.keys := rfl
@[simp] theorem State.setQueue_gran (s : State) (q : BitVec 10) (x : Queue) : (s.setQueue q x).gran = s.gran := rfl
@[simp] theorem State.setQueue_homeDir (s : State) (q : BitVec 10) (x : Queue) : (s.setQueue q x).homeDir = s.homeDir := rfl
@[simp] theorem State.setQueue_tiles (s : State) (q : BitVec 10) (x : Queue) : (s.setQueue q x).tiles = s.tiles := rfl
@[simp] theorem State.setQueue_dies (s : State) (q : BitVec 10) (x : Queue) : (s.setQueue q x).dies = s.dies := rfl
@[simp] theorem State.setQueue_homes (s : State) (q : BitVec 10) (x : Queue) : (s.setQueue q x).homes = s.homes := rfl
@[simp] theorem State.setQueue_ctxs (s : State) (q : BitVec 10) (x : Queue) : (s.setQueue q x).ctxs = s.ctxs := rfl
@[simp] theorem State.setQueue_images (s : State) (q : BitVec 10) (x : Queue) : (s.setQueue q x).images = s.images := rfl
@[simp] theorem State.setQueue_cy (s : State) (q : BitVec 10) (x : Queue) : (s.setQueue q x).cy = s.cy := rfl
@[simp] theorem State.setQueue_devtime (s : State) (q : BitVec 10) (x : Queue) : (s.setQueue q x).devtime = s.devtime := rfl
@[simp] theorem State.setQueue_tickcnt (s : State) (q : BitVec 10) (x : Queue) : (s.setQueue q x).tickcnt = s.tickcnt := rfl
@[simp] theorem State.setQueue_tDomain (s : State) (q : BitVec 10) (x : Queue) : (s.setQueue q x).tDomain = s.tDomain := rfl
@[simp] theorem State.setQueue_tDelay (s : State) (q : BitVec 10) (x : Queue) : (s.setQueue q x).tDelay = s.tDelay := rfl
@[simp] theorem State.setQueue_tEn (s : State) (q : BitVec 10) (x : Queue) : (s.setQueue q x).tEn = s.tEn := rfl
@[simp] theorem State.setQueue_tValid (s : State) (q : BitVec 10) (x : Queue) : (s.setQueue q x).tValid = s.tValid := rfl
@[simp] theorem State.setQueue_tLocked (s : State) (q : BitVec 10) (x : Queue) : (s.setQueue q x).tLocked = s.tLocked := rfl
@[simp] theorem State.setQueue_tHoldover (s : State) (q : BitVec 10) (x : Queue) : (s.setQueue q x).tHoldover = s.tHoldover := rfl
@[simp] theorem State.setQueue_tStepped (s : State) (q : BitVec 10) (x : Queue) : (s.setQueue q x).tStepped = s.tStepped := rfl
@[simp] theorem State.setQueue_tOffset (s : State) (q : BitVec 10) (x : Queue) : (s.setQueue q x).tOffset = s.tOffset := rfl
@[simp] theorem State.setQueue_tSlew (s : State) (q : BitVec 10) (x : Queue) : (s.setQueue q x).tSlew = s.tSlew := rfl
@[simp] theorem State.setQueue_tOwe (s : State) (q : BitVec 10) (x : Queue) : (s.setQueue q x).tOwe = s.tOwe := rfl
@[simp] theorem State.setQueue_budget (s : State) (q : BitVec 10) (x : Queue) : (s.setQueue q x).budget = s.budget := rfl
@[simp] theorem State.setQueue_budgetLock (s : State) (q : BitVec 10) (x : Queue) : (s.setQueue q x).budgetLock = s.budgetLock := rfl
@[simp] theorem State.setQueue_held (s : State) (q : BitVec 10) (x : Queue) : (s.setQueue q x).held = s.held := rfl
@[simp] theorem State.setQueue_heldAt (s : State) (q : BitVec 10) (x : Queue) : (s.setQueue q x).heldAt = s.heldAt := rfl
@[simp] theorem State.setQueue_hot (s : State) (q : BitVec 10) (x : Queue) : (s.setQueue q x).hot = s.hot := rfl
@[simp] theorem State.setQueue_hot110 (s : State) (q : BitVec 10) (x : Queue) : (s.setQueue q x).hot110 = s.hot110 := rfl
@[simp] theorem State.setQueue_railsOff (s : State) (q : BitVec 10) (x : Queue) : (s.setQueue q x).railsOff = s.railsOff := rfl
@[simp] theorem State.setQueue_warn (s : State) (q : BitVec 10) (x : Queue) : (s.setQueue q x).warn = s.warn := rfl
@[simp] theorem State.setQueue_corrected (s : State) (q : BitVec 10) (x : Queue) : (s.setQueue q x).corrected = s.corrected := rfl
@[simp] theorem State.setQueue_tileCorrected (s : State) (q : BitVec 10) (x : Queue) : (s.setQueue q x).tileCorrected = s.tileCorrected := rfl
@[simp] theorem State.setQueue_scrubPass (s : State) (q : BitVec 10) (x : Queue) : (s.setQueue q x).scrubPass = s.scrubPass := rfl
@[simp] theorem State.setQueue_scrubPos (s : State) (q : BitVec 10) (x : Queue) : (s.setQueue q x).scrubPos = s.scrubPos := rfl
@[simp] theorem State.setQueue_scrubLine (s : State) (q : BitVec 10) (x : Queue) : (s.setQueue q x).scrubLine = s.scrubLine := rfl
@[simp] theorem State.setQueue_cxl (s : State) (q : BitVec 10) (x : Queue) : (s.setQueue q x).cxl = s.cxl := rfl
@[simp] theorem State.setQueue_fns (s : State) (q : BitVec 10) (x : Queue) : (s.setQueue q x).fns = s.fns := rfl
@[simp] theorem State.setQueue_qfunc (s : State) (q : BitVec 10) (x : Queue) : (s.setQueue q x).qfunc = s.qfunc := rfl
@[simp] theorem State.setQueue_rings (s : State) (q : BitVec 10) (x : Queue) : (s.setQueue q x).rings = s.rings := rfl
@[simp] theorem State.setQueue_progs (s : State) (q : BitVec 10) (x : Queue) : (s.setQueue q x).progs = s.progs := rfl
@[simp] theorem State.setQueue_progAddr (s : State) (q : BitVec 10) (x : Queue) : (s.setQueue q x).progAddr = s.progAddr := rfl
@[simp] theorem State.setQueue_progSlot (s : State) (q : BitVec 10) (x : Queue) : (s.setQueue q x).progSlot = s.progSlot := rfl
@[simp] theorem State.setQueue_progWord (s : State) (q : BitVec 10) (x : Queue) : (s.setQueue q x).progWord = s.progWord := rfl
@[simp] theorem State.setQueue_progBusy (s : State) (q : BitVec 10) (x : Queue) : (s.setQueue q x).progBusy = s.progBusy := rfl
@[simp] theorem State.setQueue_hostFails (s : State) (q : BitVec 10) (x : Queue) : (s.setQueue q x).hostFails = s.hostFails := rfl
@[simp] theorem State.setQueue_progCode (s : State) (q : BitVec 10) (x : Queue) : (s.setQueue q x).progCode = s.progCode := rfl
@[simp] theorem State.setQueue_interps (s : State) (q : BitVec 10) (x : Queue) : (s.setQueue q x).interps = s.interps := rfl
@[simp] theorem State.setQueue_rotClass (s : State) (q : BitVec 10) (x : Queue) : (s.setQueue q x).rotClass = s.rotClass := rfl
@[simp] theorem State.setQueue_rotGiven (s : State) (q : BitVec 10) (x : Queue) : (s.setQueue q x).rotGiven = s.rotGiven := rfl
@[simp] theorem State.setQueue_rotQueue (s : State) (q : BitVec 10) (x : Queue) : (s.setQueue q x).rotQueue = s.rotQueue := rfl
@[simp] theorem State.setQueue_flashA (s : State) (q : BitVec 10) (x : Queue) : (s.setQueue q x).flashA = s.flashA := rfl
@[simp] theorem State.setQueue_flashB (s : State) (q : BitVec 10) (x : Queue) : (s.setQueue q x).flashB = s.flashB := rfl
@[simp] theorem State.setQueue_flashDcA (s : State) (q : BitVec 10) (x : Queue) : (s.setQueue q x).flashDcA = s.flashDcA := rfl
@[simp] theorem State.setQueue_flashDcB (s : State) (q : BitVec 10) (x : Queue) : (s.setQueue q x).flashDcB = s.flashDcB := rfl
@[simp] theorem State.setQueue_certChain (s : State) (q : BitVec 10) (x : Queue) : (s.setQueue q x).certChain = s.certChain := rfl
@[simp] theorem State.setQueue_keyHash0 (s : State) (q : BitVec 10) (x : Queue) : (s.setQueue q x).keyHash0 = s.keyHash0 := rfl
@[simp] theorem State.setQueue_keyHash1 (s : State) (q : BitVec 10) (x : Queue) : (s.setQueue q x).keyHash1 = s.keyHash1 := rfl
@[simp] theorem State.setQueue_revoked0 (s : State) (q : BitVec 10) (x : Queue) : (s.setQueue q x).revoked0 = s.revoked0 := rfl
@[simp] theorem State.setQueue_floorIo (s : State) (q : BitVec 10) (x : Queue) : (s.setQueue q x).floorIo = s.floorIo := rfl
@[simp] theorem State.setQueue_floorDc (s : State) (q : BitVec 10) (x : Queue) : (s.setQueue q x).floorDc = s.floorDc := rfl
@[simp] theorem State.setQueue_bootCode (s : State) (q : BitVec 10) (x : Queue) : (s.setQueue q x).bootCode = s.bootCode := rfl
@[simp] theorem State.setQueue_bootB (s : State) (q : BitVec 10) (x : Queue) : (s.setQueue q x).bootB = s.bootB := rfl
@[simp] theorem State.setQueue_recovery (s : State) (q : BitVec 10) (x : Queue) : (s.setQueue q x).recovery = s.recovery := rfl
@[simp] theorem State.setQueue_svnIo (s : State) (q : BitVec 10) (x : Queue) : (s.setQueue q x).svnIo = s.svnIo := rfl
@[simp] theorem State.setQueue_mreg (s : State) (q : BitVec 10) (x : Queue) : (s.setQueue q x).mreg = s.mreg := rfl
@[simp] theorem State.setQueue_mextData (s : State) (q : BitVec 10) (x : Queue) : (s.setQueue q x).mextData = s.mextData := rfl
@[simp] theorem State.setQueue_mextCode (s : State) (q : BitVec 10) (x : Queue) : (s.setQueue q x).mextCode = s.mextCode := rfl
@[simp] theorem State.setQueue_mextGo (s : State) (q : BitVec 10) (x : Queue) : (s.setQueue q x).mextGo = s.mextGo := rfl
@[simp] theorem State.setQueue_mextIdx (s : State) (q : BitVec 10) (x : Queue) : (s.setQueue q x).mextIdx = s.mextIdx := rfl
@[simp] theorem State.setQueue_debug (s : State) (q : BitVec 10) (x : Queue) : (s.setQueue q x).debug = s.debug := rfl
@[simp] theorem State.setQueue_chans (s : State) (q : BitVec 10) (x : Queue) : (s.setQueue q x).chans = s.chans := rfl
@[simp] theorem State.setQueue_pkgid (s : State) (q : BitVec 10) (x : Queue) : (s.setQueue q x).pkgid = s.pkgid := rfl
@[simp] theorem State.setQueue_ports (s : State) (q : BitVec 10) (x : Queue) : (s.setQueue q x).ports = s.ports := rfl
@[simp] theorem State.setQueue_route (s : State) (q : BitVec 10) (x : Queue) : (s.setQueue q x).route = s.route := rfl
@[simp] theorem State.setQueue_homemap (s : State) (q : BitVec 10) (x : Queue) : (s.setQueue q x).homemap = s.homemap := rfl
@[simp] theorem State.setQueue_dirSets (s : State) (q : BitVec 10) (x : Queue) : (s.setQueue q x).dirSets = s.dirSets := rfl
@[simp] theorem State.setQueue_dirBase (s : State) (q : BitVec 10) (x : Queue) : (s.setQueue q x).dirBase = s.dirBase := rfl
@[simp] theorem State.setQueue_dirEn (s : State) (q : BitVec 10) (x : Queue) : (s.setQueue q x).dirEn = s.dirEn := rfl
@[simp] theorem State.setQueue_dirReqs (s : State) (q : BitVec 10) (x : Queue) : (s.setQueue q x).dirReqs = s.dirReqs := rfl
@[simp] theorem State.setQueue_dirTag (s : State) (q : BitVec 10) (x : Queue) : (s.setQueue q x).dirTag = s.dirTag := rfl
@[simp] theorem State.setQueue_repl (s : State) (q : BitVec 10) (x : Queue) : (s.setQueue q x).repl = s.repl := rfl
@[simp] theorem State.setQueue_collReady (s : State) (q : BitVec 10) (x : Queue) : (s.setQueue q x).collReady = s.collReady := rfl
@[simp] theorem State.setQueue_launches (s : State) (q : BitVec 10) (x : Queue) : (s.setQueue q x).launches = s.launches := rfl
@[simp] theorem State.setQueue_tenants (s : State) (q : BitVec 10) (x : Queue) : (s.setQueue q x).tenants = s.tenants := rfl
@[simp] theorem State.setQueue_gangTime (s : State) (q : BitVec 10) (x : Queue) : (s.setQueue q x).gangTime = s.gangTime := rfl
@[simp] theorem State.setQueue_gangSet (s : State) (q : BitVec 10) (x : Queue) : (s.setQueue q x).gangSet = s.gangSet := rfl
@[simp] theorem State.setQueue_gangDone (s : State) (q : BitVec 10) (x : Queue) : (s.setQueue q x).gangDone = s.gangDone := rfl
@[simp] theorem State.setQueue_gangArmed (s : State) (q : BitVec 10) (x : Queue) : (s.setQueue q x).gangArmed = s.gangArmed := rfl
@[simp] theorem State.setQueue_resBase (s : State) (q : BitVec 10) (x : Queue) : (s.setQueue q x).resBase = s.resBase := rfl
@[simp] theorem State.setQueue_resHandle (s : State) (q : BitVec 10) (x : Queue) : (s.setQueue q x).resHandle = s.resHandle := rfl
@[simp] theorem State.setQueue_resGo (s : State) (q : BitVec 10) (x : Queue) : (s.setQueue q x).resGo = s.resGo := rfl
@[simp] theorem State.setQueue_resCode (s : State) (q : BitVec 10) (x : Queue) : (s.setQueue q x).resCode = s.resCode := rfl
@[simp] theorem State.setQueue_resOp (s : State) (q : BitVec 10) (x : Queue) : (s.setQueue q x).resOp = s.resOp := rfl
@[simp] theorem State.setQueue_resRunHandle (s : State) (q : BitVec 10) (x : Queue) : (s.setQueue q x).resRunHandle = s.resRunHandle := rfl
@[simp] theorem State.setQueue_resRunOp (s : State) (q : BitVec 10) (x : Queue) : (s.setQueue q x).resRunOp = s.resRunOp := rfl
@[simp] theorem State.setQueue_resPool (s : State) (q : BitVec 10) (x : Queue) : (s.setQueue q x).resPool = s.resPool := rfl
@[simp] theorem State.setQueue_resCxl (s : State) (q : BitVec 10) (x : Queue) : (s.setQueue q x).resCxl = s.resCxl := rfl
@[simp] theorem State.setQueue_resMoves (s : State) (q : BitVec 10) (x : Queue) : (s.setQueue q x).resMoves = s.resMoves := rfl
@[simp] theorem State.setQueue_resLat (s : State) (q : BitVec 10) (x : Queue) : (s.setQueue q x).resLat = s.resLat := rfl
@[simp] theorem State.setQueue_sdAddr (s : State) (q : BitVec 10) (x : Queue) : (s.setQueue q x).sdAddr = s.sdAddr := rfl
@[simp] theorem State.setQueue_sdCtx (s : State) (q : BitVec 10) (x : Queue) : (s.setQueue q x).sdCtx = s.sdCtx := rfl
@[simp] theorem State.setQueue_sdGo (s : State) (q : BitVec 10) (x : Queue) : (s.setQueue q x).sdGo = s.sdGo := rfl
@[simp] theorem State.setQueue_sdCode (s : State) (q : BitVec 10) (x : Queue) : (s.setQueue q x).sdCode = s.sdCode := rfl
@[simp] theorem State.setQueue_sdScope (s : State) (q : BitVec 10) (x : Queue) : (s.setQueue q x).sdScope = s.sdScope := rfl
@[simp] theorem State.setQueue_sds (s : State) (q : BitVec 10) (x : Queue) : (s.setQueue q x).sds = s.sds := rfl
@[simp] theorem State.setQueue_nsAddr (s : State) (q : BitVec 10) (x : Queue) : (s.setQueue q x).nsAddr = s.nsAddr := rfl
@[simp] theorem State.setQueue_nsNsid (s : State) (q : BitVec 10) (x : Queue) : (s.setQueue q x).nsNsid = s.nsNsid := rfl
@[simp] theorem State.setQueue_nsGo (s : State) (q : BitVec 10) (x : Queue) : (s.setQueue q x).nsGo = s.nsGo := rfl
@[simp] theorem State.setQueue_nsCode (s : State) (q : BitVec 10) (x : Queue) : (s.setQueue q x).nsCode = s.nsCode := rfl
@[simp] theorem State.setQueue_nsOp (s : State) (q : BitVec 10) (x : Queue) : (s.setQueue q x).nsOp = s.nsOp := rfl
@[simp] theorem State.setQueue_nsRunNsid (s : State) (q : BitVec 10) (x : Queue) : (s.setQueue q x).nsRunNsid = s.nsRunNsid := rfl
@[simp] theorem State.setQueue_nsRunOp (s : State) (q : BitVec 10) (x : Queue) : (s.setQueue q x).nsRunOp = s.nsRunOp := rfl
@[simp] theorem State.setQueue_nss (s : State) (q : BitVec 10) (x : Queue) : (s.setQueue q x).nss = s.nss := rfl
@[simp] theorem State.setQueue_idxLog (s : State) (q : BitVec 10) (x : Queue) : (s.setQueue q x).idxLog = s.idxLog := rfl
@[simp] theorem State.setQueue_idxBase (s : State) (q : BitVec 10) (x : Queue) : (s.setQueue q x).idxBase = s.idxBase := rfl
@[simp] theorem State.setQueue_pools (s : State) (q : BitVec 10) (x : Queue) : (s.setQueue q x).pools = s.pools := rfl
@[simp] theorem State.setQueue_nodes (s : State) (q : BitVec 10) (x : Queue) : (s.setQueue q x).nodes = s.nodes := rfl
@[simp] theorem State.setQueue_index (s : State) (q : BitVec 10) (x : Queue) : (s.setQueue q x).index = s.index := rfl
@[simp] theorem State.setQueue_errOvf (s : State) (q : BitVec 10) (x : Queue) : (s.setQueue q x).errOvf = s.errOvf := rfl
@[simp] theorem State.setQueue_errLost (s : State) (q : BitVec 10) (x : Queue) : (s.setQueue q x).errLost = s.errLost := rfl
@[simp] theorem State.setQueue_ckCfg (s : State) (q : BitVec 10) (x : Queue) : (s.setQueue q x).ckCfg = s.ckCfg := rfl

@[simp] theorem State.modQueue_agenda (s : State) (q : BitVec 10) (f : Queue → Queue) : (s.modQueue q f).agenda = s.agenda := rfl
@[simp] theorem State.modQueue_focus (s : State) (q : BitVec 10) (f : Queue → Queue) : (s.modQueue q f).focus = s.focus := rfl
@[simp] theorem State.modQueue_cur (s : State) (q : BitVec 10) (f : Queue → Queue) : (s.modQueue q f).cur = s.cur := rfl
@[simp] theorem State.modQueue_fresh (s : State) (q : BitVec 10) (f : Queue → Queue) : (s.modQueue q f).fresh = s.fresh := rfl
@[simp] theorem State.modQueue_nextId (s : State) (q : BitVec 10) (f : Queue → Queue) : (s.modQueue q f).nextId = s.nextId := rfl
@[simp] theorem State.modQueue_out (s : State) (q : BitVec 10) (f : Queue → Queue) : (s.modQueue q f).out = s.out := rfl
@[simp] theorem State.modQueue_mem (s : State) (q : BitVec 10) (f : Queue → Queue) : (s.modQueue q f).mem = s.mem := rfl
@[simp] theorem State.modQueue_poison (s : State) (q : BitVec 10) (f : Queue → Queue) : (s.modQueue q f).poison = s.poison := rfl
@[simp] theorem State.modQueue_lineKey (s : State) (q : BitVec 10) (f : Queue → Queue) : (s.modQueue q f).lineKey = s.lineKey := rfl
@[simp] theorem State.modQueue_keys (s : State) (q : BitVec 10) (f : Queue → Queue) : (s.modQueue q f).keys = s.keys := rfl
@[simp] theorem State.modQueue_gran (s : State) (q : BitVec 10) (f : Queue → Queue) : (s.modQueue q f).gran = s.gran := rfl
@[simp] theorem State.modQueue_homeDir (s : State) (q : BitVec 10) (f : Queue → Queue) : (s.modQueue q f).homeDir = s.homeDir := rfl
@[simp] theorem State.modQueue_tiles (s : State) (q : BitVec 10) (f : Queue → Queue) : (s.modQueue q f).tiles = s.tiles := rfl
@[simp] theorem State.modQueue_dies (s : State) (q : BitVec 10) (f : Queue → Queue) : (s.modQueue q f).dies = s.dies := rfl
@[simp] theorem State.modQueue_homes (s : State) (q : BitVec 10) (f : Queue → Queue) : (s.modQueue q f).homes = s.homes := rfl
@[simp] theorem State.modQueue_ctxs (s : State) (q : BitVec 10) (f : Queue → Queue) : (s.modQueue q f).ctxs = s.ctxs := rfl
@[simp] theorem State.modQueue_images (s : State) (q : BitVec 10) (f : Queue → Queue) : (s.modQueue q f).images = s.images := rfl
@[simp] theorem State.modQueue_cy (s : State) (q : BitVec 10) (f : Queue → Queue) : (s.modQueue q f).cy = s.cy := rfl
@[simp] theorem State.modQueue_devtime (s : State) (q : BitVec 10) (f : Queue → Queue) : (s.modQueue q f).devtime = s.devtime := rfl
@[simp] theorem State.modQueue_tickcnt (s : State) (q : BitVec 10) (f : Queue → Queue) : (s.modQueue q f).tickcnt = s.tickcnt := rfl
@[simp] theorem State.modQueue_tDomain (s : State) (q : BitVec 10) (f : Queue → Queue) : (s.modQueue q f).tDomain = s.tDomain := rfl
@[simp] theorem State.modQueue_tDelay (s : State) (q : BitVec 10) (f : Queue → Queue) : (s.modQueue q f).tDelay = s.tDelay := rfl
@[simp] theorem State.modQueue_tEn (s : State) (q : BitVec 10) (f : Queue → Queue) : (s.modQueue q f).tEn = s.tEn := rfl
@[simp] theorem State.modQueue_tValid (s : State) (q : BitVec 10) (f : Queue → Queue) : (s.modQueue q f).tValid = s.tValid := rfl
@[simp] theorem State.modQueue_tLocked (s : State) (q : BitVec 10) (f : Queue → Queue) : (s.modQueue q f).tLocked = s.tLocked := rfl
@[simp] theorem State.modQueue_tHoldover (s : State) (q : BitVec 10) (f : Queue → Queue) : (s.modQueue q f).tHoldover = s.tHoldover := rfl
@[simp] theorem State.modQueue_tStepped (s : State) (q : BitVec 10) (f : Queue → Queue) : (s.modQueue q f).tStepped = s.tStepped := rfl
@[simp] theorem State.modQueue_tOffset (s : State) (q : BitVec 10) (f : Queue → Queue) : (s.modQueue q f).tOffset = s.tOffset := rfl
@[simp] theorem State.modQueue_tSlew (s : State) (q : BitVec 10) (f : Queue → Queue) : (s.modQueue q f).tSlew = s.tSlew := rfl
@[simp] theorem State.modQueue_tOwe (s : State) (q : BitVec 10) (f : Queue → Queue) : (s.modQueue q f).tOwe = s.tOwe := rfl
@[simp] theorem State.modQueue_budget (s : State) (q : BitVec 10) (f : Queue → Queue) : (s.modQueue q f).budget = s.budget := rfl
@[simp] theorem State.modQueue_budgetLock (s : State) (q : BitVec 10) (f : Queue → Queue) : (s.modQueue q f).budgetLock = s.budgetLock := rfl
@[simp] theorem State.modQueue_held (s : State) (q : BitVec 10) (f : Queue → Queue) : (s.modQueue q f).held = s.held := rfl
@[simp] theorem State.modQueue_heldAt (s : State) (q : BitVec 10) (f : Queue → Queue) : (s.modQueue q f).heldAt = s.heldAt := rfl
@[simp] theorem State.modQueue_hot (s : State) (q : BitVec 10) (f : Queue → Queue) : (s.modQueue q f).hot = s.hot := rfl
@[simp] theorem State.modQueue_hot110 (s : State) (q : BitVec 10) (f : Queue → Queue) : (s.modQueue q f).hot110 = s.hot110 := rfl
@[simp] theorem State.modQueue_railsOff (s : State) (q : BitVec 10) (f : Queue → Queue) : (s.modQueue q f).railsOff = s.railsOff := rfl
@[simp] theorem State.modQueue_warn (s : State) (q : BitVec 10) (f : Queue → Queue) : (s.modQueue q f).warn = s.warn := rfl
@[simp] theorem State.modQueue_corrected (s : State) (q : BitVec 10) (f : Queue → Queue) : (s.modQueue q f).corrected = s.corrected := rfl
@[simp] theorem State.modQueue_tileCorrected (s : State) (q : BitVec 10) (f : Queue → Queue) : (s.modQueue q f).tileCorrected = s.tileCorrected := rfl
@[simp] theorem State.modQueue_scrubPass (s : State) (q : BitVec 10) (f : Queue → Queue) : (s.modQueue q f).scrubPass = s.scrubPass := rfl
@[simp] theorem State.modQueue_scrubPos (s : State) (q : BitVec 10) (f : Queue → Queue) : (s.modQueue q f).scrubPos = s.scrubPos := rfl
@[simp] theorem State.modQueue_scrubLine (s : State) (q : BitVec 10) (f : Queue → Queue) : (s.modQueue q f).scrubLine = s.scrubLine := rfl
@[simp] theorem State.modQueue_cxl (s : State) (q : BitVec 10) (f : Queue → Queue) : (s.modQueue q f).cxl = s.cxl := rfl
@[simp] theorem State.modQueue_fns (s : State) (q : BitVec 10) (f : Queue → Queue) : (s.modQueue q f).fns = s.fns := rfl
@[simp] theorem State.modQueue_qfunc (s : State) (q : BitVec 10) (f : Queue → Queue) : (s.modQueue q f).qfunc = s.qfunc := rfl
@[simp] theorem State.modQueue_rings (s : State) (q : BitVec 10) (f : Queue → Queue) : (s.modQueue q f).rings = s.rings := rfl
@[simp] theorem State.modQueue_progs (s : State) (q : BitVec 10) (f : Queue → Queue) : (s.modQueue q f).progs = s.progs := rfl
@[simp] theorem State.modQueue_progAddr (s : State) (q : BitVec 10) (f : Queue → Queue) : (s.modQueue q f).progAddr = s.progAddr := rfl
@[simp] theorem State.modQueue_progSlot (s : State) (q : BitVec 10) (f : Queue → Queue) : (s.modQueue q f).progSlot = s.progSlot := rfl
@[simp] theorem State.modQueue_progWord (s : State) (q : BitVec 10) (f : Queue → Queue) : (s.modQueue q f).progWord = s.progWord := rfl
@[simp] theorem State.modQueue_progBusy (s : State) (q : BitVec 10) (f : Queue → Queue) : (s.modQueue q f).progBusy = s.progBusy := rfl
@[simp] theorem State.modQueue_hostFails (s : State) (q : BitVec 10) (f : Queue → Queue) : (s.modQueue q f).hostFails = s.hostFails := rfl
@[simp] theorem State.modQueue_progCode (s : State) (q : BitVec 10) (f : Queue → Queue) : (s.modQueue q f).progCode = s.progCode := rfl
@[simp] theorem State.modQueue_interps (s : State) (q : BitVec 10) (f : Queue → Queue) : (s.modQueue q f).interps = s.interps := rfl
@[simp] theorem State.modQueue_rotClass (s : State) (q : BitVec 10) (f : Queue → Queue) : (s.modQueue q f).rotClass = s.rotClass := rfl
@[simp] theorem State.modQueue_rotGiven (s : State) (q : BitVec 10) (f : Queue → Queue) : (s.modQueue q f).rotGiven = s.rotGiven := rfl
@[simp] theorem State.modQueue_rotQueue (s : State) (q : BitVec 10) (f : Queue → Queue) : (s.modQueue q f).rotQueue = s.rotQueue := rfl
@[simp] theorem State.modQueue_flashA (s : State) (q : BitVec 10) (f : Queue → Queue) : (s.modQueue q f).flashA = s.flashA := rfl
@[simp] theorem State.modQueue_flashB (s : State) (q : BitVec 10) (f : Queue → Queue) : (s.modQueue q f).flashB = s.flashB := rfl
@[simp] theorem State.modQueue_flashDcA (s : State) (q : BitVec 10) (f : Queue → Queue) : (s.modQueue q f).flashDcA = s.flashDcA := rfl
@[simp] theorem State.modQueue_flashDcB (s : State) (q : BitVec 10) (f : Queue → Queue) : (s.modQueue q f).flashDcB = s.flashDcB := rfl
@[simp] theorem State.modQueue_certChain (s : State) (q : BitVec 10) (f : Queue → Queue) : (s.modQueue q f).certChain = s.certChain := rfl
@[simp] theorem State.modQueue_keyHash0 (s : State) (q : BitVec 10) (f : Queue → Queue) : (s.modQueue q f).keyHash0 = s.keyHash0 := rfl
@[simp] theorem State.modQueue_keyHash1 (s : State) (q : BitVec 10) (f : Queue → Queue) : (s.modQueue q f).keyHash1 = s.keyHash1 := rfl
@[simp] theorem State.modQueue_revoked0 (s : State) (q : BitVec 10) (f : Queue → Queue) : (s.modQueue q f).revoked0 = s.revoked0 := rfl
@[simp] theorem State.modQueue_floorIo (s : State) (q : BitVec 10) (f : Queue → Queue) : (s.modQueue q f).floorIo = s.floorIo := rfl
@[simp] theorem State.modQueue_floorDc (s : State) (q : BitVec 10) (f : Queue → Queue) : (s.modQueue q f).floorDc = s.floorDc := rfl
@[simp] theorem State.modQueue_bootCode (s : State) (q : BitVec 10) (f : Queue → Queue) : (s.modQueue q f).bootCode = s.bootCode := rfl
@[simp] theorem State.modQueue_bootB (s : State) (q : BitVec 10) (f : Queue → Queue) : (s.modQueue q f).bootB = s.bootB := rfl
@[simp] theorem State.modQueue_recovery (s : State) (q : BitVec 10) (f : Queue → Queue) : (s.modQueue q f).recovery = s.recovery := rfl
@[simp] theorem State.modQueue_svnIo (s : State) (q : BitVec 10) (f : Queue → Queue) : (s.modQueue q f).svnIo = s.svnIo := rfl
@[simp] theorem State.modQueue_mreg (s : State) (q : BitVec 10) (f : Queue → Queue) : (s.modQueue q f).mreg = s.mreg := rfl
@[simp] theorem State.modQueue_mextData (s : State) (q : BitVec 10) (f : Queue → Queue) : (s.modQueue q f).mextData = s.mextData := rfl
@[simp] theorem State.modQueue_mextCode (s : State) (q : BitVec 10) (f : Queue → Queue) : (s.modQueue q f).mextCode = s.mextCode := rfl
@[simp] theorem State.modQueue_mextGo (s : State) (q : BitVec 10) (f : Queue → Queue) : (s.modQueue q f).mextGo = s.mextGo := rfl
@[simp] theorem State.modQueue_mextIdx (s : State) (q : BitVec 10) (f : Queue → Queue) : (s.modQueue q f).mextIdx = s.mextIdx := rfl
@[simp] theorem State.modQueue_debug (s : State) (q : BitVec 10) (f : Queue → Queue) : (s.modQueue q f).debug = s.debug := rfl
@[simp] theorem State.modQueue_chans (s : State) (q : BitVec 10) (f : Queue → Queue) : (s.modQueue q f).chans = s.chans := rfl
@[simp] theorem State.modQueue_pkgid (s : State) (q : BitVec 10) (f : Queue → Queue) : (s.modQueue q f).pkgid = s.pkgid := rfl
@[simp] theorem State.modQueue_ports (s : State) (q : BitVec 10) (f : Queue → Queue) : (s.modQueue q f).ports = s.ports := rfl
@[simp] theorem State.modQueue_route (s : State) (q : BitVec 10) (f : Queue → Queue) : (s.modQueue q f).route = s.route := rfl
@[simp] theorem State.modQueue_homemap (s : State) (q : BitVec 10) (f : Queue → Queue) : (s.modQueue q f).homemap = s.homemap := rfl
@[simp] theorem State.modQueue_dirSets (s : State) (q : BitVec 10) (f : Queue → Queue) : (s.modQueue q f).dirSets = s.dirSets := rfl
@[simp] theorem State.modQueue_dirBase (s : State) (q : BitVec 10) (f : Queue → Queue) : (s.modQueue q f).dirBase = s.dirBase := rfl
@[simp] theorem State.modQueue_dirEn (s : State) (q : BitVec 10) (f : Queue → Queue) : (s.modQueue q f).dirEn = s.dirEn := rfl
@[simp] theorem State.modQueue_dirReqs (s : State) (q : BitVec 10) (f : Queue → Queue) : (s.modQueue q f).dirReqs = s.dirReqs := rfl
@[simp] theorem State.modQueue_dirTag (s : State) (q : BitVec 10) (f : Queue → Queue) : (s.modQueue q f).dirTag = s.dirTag := rfl
@[simp] theorem State.modQueue_repl (s : State) (q : BitVec 10) (f : Queue → Queue) : (s.modQueue q f).repl = s.repl := rfl
@[simp] theorem State.modQueue_collReady (s : State) (q : BitVec 10) (f : Queue → Queue) : (s.modQueue q f).collReady = s.collReady := rfl
@[simp] theorem State.modQueue_launches (s : State) (q : BitVec 10) (f : Queue → Queue) : (s.modQueue q f).launches = s.launches := rfl
@[simp] theorem State.modQueue_tenants (s : State) (q : BitVec 10) (f : Queue → Queue) : (s.modQueue q f).tenants = s.tenants := rfl
@[simp] theorem State.modQueue_gangTime (s : State) (q : BitVec 10) (f : Queue → Queue) : (s.modQueue q f).gangTime = s.gangTime := rfl
@[simp] theorem State.modQueue_gangSet (s : State) (q : BitVec 10) (f : Queue → Queue) : (s.modQueue q f).gangSet = s.gangSet := rfl
@[simp] theorem State.modQueue_gangDone (s : State) (q : BitVec 10) (f : Queue → Queue) : (s.modQueue q f).gangDone = s.gangDone := rfl
@[simp] theorem State.modQueue_gangArmed (s : State) (q : BitVec 10) (f : Queue → Queue) : (s.modQueue q f).gangArmed = s.gangArmed := rfl
@[simp] theorem State.modQueue_resBase (s : State) (q : BitVec 10) (f : Queue → Queue) : (s.modQueue q f).resBase = s.resBase := rfl
@[simp] theorem State.modQueue_resHandle (s : State) (q : BitVec 10) (f : Queue → Queue) : (s.modQueue q f).resHandle = s.resHandle := rfl
@[simp] theorem State.modQueue_resGo (s : State) (q : BitVec 10) (f : Queue → Queue) : (s.modQueue q f).resGo = s.resGo := rfl
@[simp] theorem State.modQueue_resCode (s : State) (q : BitVec 10) (f : Queue → Queue) : (s.modQueue q f).resCode = s.resCode := rfl
@[simp] theorem State.modQueue_resOp (s : State) (q : BitVec 10) (f : Queue → Queue) : (s.modQueue q f).resOp = s.resOp := rfl
@[simp] theorem State.modQueue_resRunHandle (s : State) (q : BitVec 10) (f : Queue → Queue) : (s.modQueue q f).resRunHandle = s.resRunHandle := rfl
@[simp] theorem State.modQueue_resRunOp (s : State) (q : BitVec 10) (f : Queue → Queue) : (s.modQueue q f).resRunOp = s.resRunOp := rfl
@[simp] theorem State.modQueue_resPool (s : State) (q : BitVec 10) (f : Queue → Queue) : (s.modQueue q f).resPool = s.resPool := rfl
@[simp] theorem State.modQueue_resCxl (s : State) (q : BitVec 10) (f : Queue → Queue) : (s.modQueue q f).resCxl = s.resCxl := rfl
@[simp] theorem State.modQueue_resMoves (s : State) (q : BitVec 10) (f : Queue → Queue) : (s.modQueue q f).resMoves = s.resMoves := rfl
@[simp] theorem State.modQueue_resLat (s : State) (q : BitVec 10) (f : Queue → Queue) : (s.modQueue q f).resLat = s.resLat := rfl
@[simp] theorem State.modQueue_sdAddr (s : State) (q : BitVec 10) (f : Queue → Queue) : (s.modQueue q f).sdAddr = s.sdAddr := rfl
@[simp] theorem State.modQueue_sdCtx (s : State) (q : BitVec 10) (f : Queue → Queue) : (s.modQueue q f).sdCtx = s.sdCtx := rfl
@[simp] theorem State.modQueue_sdGo (s : State) (q : BitVec 10) (f : Queue → Queue) : (s.modQueue q f).sdGo = s.sdGo := rfl
@[simp] theorem State.modQueue_sdCode (s : State) (q : BitVec 10) (f : Queue → Queue) : (s.modQueue q f).sdCode = s.sdCode := rfl
@[simp] theorem State.modQueue_sdScope (s : State) (q : BitVec 10) (f : Queue → Queue) : (s.modQueue q f).sdScope = s.sdScope := rfl
@[simp] theorem State.modQueue_sds (s : State) (q : BitVec 10) (f : Queue → Queue) : (s.modQueue q f).sds = s.sds := rfl
@[simp] theorem State.modQueue_nsAddr (s : State) (q : BitVec 10) (f : Queue → Queue) : (s.modQueue q f).nsAddr = s.nsAddr := rfl
@[simp] theorem State.modQueue_nsNsid (s : State) (q : BitVec 10) (f : Queue → Queue) : (s.modQueue q f).nsNsid = s.nsNsid := rfl
@[simp] theorem State.modQueue_nsGo (s : State) (q : BitVec 10) (f : Queue → Queue) : (s.modQueue q f).nsGo = s.nsGo := rfl
@[simp] theorem State.modQueue_nsCode (s : State) (q : BitVec 10) (f : Queue → Queue) : (s.modQueue q f).nsCode = s.nsCode := rfl
@[simp] theorem State.modQueue_nsOp (s : State) (q : BitVec 10) (f : Queue → Queue) : (s.modQueue q f).nsOp = s.nsOp := rfl
@[simp] theorem State.modQueue_nsRunNsid (s : State) (q : BitVec 10) (f : Queue → Queue) : (s.modQueue q f).nsRunNsid = s.nsRunNsid := rfl
@[simp] theorem State.modQueue_nsRunOp (s : State) (q : BitVec 10) (f : Queue → Queue) : (s.modQueue q f).nsRunOp = s.nsRunOp := rfl
@[simp] theorem State.modQueue_nss (s : State) (q : BitVec 10) (f : Queue → Queue) : (s.modQueue q f).nss = s.nss := rfl
@[simp] theorem State.modQueue_idxLog (s : State) (q : BitVec 10) (f : Queue → Queue) : (s.modQueue q f).idxLog = s.idxLog := rfl
@[simp] theorem State.modQueue_idxBase (s : State) (q : BitVec 10) (f : Queue → Queue) : (s.modQueue q f).idxBase = s.idxBase := rfl
@[simp] theorem State.modQueue_pools (s : State) (q : BitVec 10) (f : Queue → Queue) : (s.modQueue q f).pools = s.pools := rfl
@[simp] theorem State.modQueue_nodes (s : State) (q : BitVec 10) (f : Queue → Queue) : (s.modQueue q f).nodes = s.nodes := rfl
@[simp] theorem State.modQueue_index (s : State) (q : BitVec 10) (f : Queue → Queue) : (s.modQueue q f).index = s.index := rfl
@[simp] theorem State.modQueue_errOvf (s : State) (q : BitVec 10) (f : Queue → Queue) : (s.modQueue q f).errOvf = s.errOvf := rfl
@[simp] theorem State.modQueue_errLost (s : State) (q : BitVec 10) (f : Queue → Queue) : (s.modQueue q f).errLost = s.errLost := rfl
@[simp] theorem State.modQueue_ckCfg (s : State) (q : BitVec 10) (f : Queue → Queue) : (s.modQueue q f).ckCfg = s.ckCfg := rfl

@[simp] theorem State.setRing_agenda (s : State) (c : Nat) (x : Ring) : (s.setRing c x).agenda = s.agenda := rfl
@[simp] theorem State.setRing_focus (s : State) (c : Nat) (x : Ring) : (s.setRing c x).focus = s.focus := rfl
@[simp] theorem State.setRing_cur (s : State) (c : Nat) (x : Ring) : (s.setRing c x).cur = s.cur := rfl
@[simp] theorem State.setRing_fresh (s : State) (c : Nat) (x : Ring) : (s.setRing c x).fresh = s.fresh := rfl
@[simp] theorem State.setRing_nextId (s : State) (c : Nat) (x : Ring) : (s.setRing c x).nextId = s.nextId := rfl
@[simp] theorem State.setRing_out (s : State) (c : Nat) (x : Ring) : (s.setRing c x).out = s.out := rfl
@[simp] theorem State.setRing_mem (s : State) (c : Nat) (x : Ring) : (s.setRing c x).mem = s.mem := rfl
@[simp] theorem State.setRing_poison (s : State) (c : Nat) (x : Ring) : (s.setRing c x).poison = s.poison := rfl
@[simp] theorem State.setRing_lineKey (s : State) (c : Nat) (x : Ring) : (s.setRing c x).lineKey = s.lineKey := rfl
@[simp] theorem State.setRing_keys (s : State) (c : Nat) (x : Ring) : (s.setRing c x).keys = s.keys := rfl
@[simp] theorem State.setRing_gran (s : State) (c : Nat) (x : Ring) : (s.setRing c x).gran = s.gran := rfl
@[simp] theorem State.setRing_homeDir (s : State) (c : Nat) (x : Ring) : (s.setRing c x).homeDir = s.homeDir := rfl
@[simp] theorem State.setRing_tiles (s : State) (c : Nat) (x : Ring) : (s.setRing c x).tiles = s.tiles := rfl
@[simp] theorem State.setRing_dies (s : State) (c : Nat) (x : Ring) : (s.setRing c x).dies = s.dies := rfl
@[simp] theorem State.setRing_homes (s : State) (c : Nat) (x : Ring) : (s.setRing c x).homes = s.homes := rfl
@[simp] theorem State.setRing_ctxs (s : State) (c : Nat) (x : Ring) : (s.setRing c x).ctxs = s.ctxs := rfl
@[simp] theorem State.setRing_images (s : State) (c : Nat) (x : Ring) : (s.setRing c x).images = s.images := rfl
@[simp] theorem State.setRing_cy (s : State) (c : Nat) (x : Ring) : (s.setRing c x).cy = s.cy := rfl
@[simp] theorem State.setRing_devtime (s : State) (c : Nat) (x : Ring) : (s.setRing c x).devtime = s.devtime := rfl
@[simp] theorem State.setRing_tickcnt (s : State) (c : Nat) (x : Ring) : (s.setRing c x).tickcnt = s.tickcnt := rfl
@[simp] theorem State.setRing_tDomain (s : State) (c : Nat) (x : Ring) : (s.setRing c x).tDomain = s.tDomain := rfl
@[simp] theorem State.setRing_tDelay (s : State) (c : Nat) (x : Ring) : (s.setRing c x).tDelay = s.tDelay := rfl
@[simp] theorem State.setRing_tEn (s : State) (c : Nat) (x : Ring) : (s.setRing c x).tEn = s.tEn := rfl
@[simp] theorem State.setRing_tValid (s : State) (c : Nat) (x : Ring) : (s.setRing c x).tValid = s.tValid := rfl
@[simp] theorem State.setRing_tLocked (s : State) (c : Nat) (x : Ring) : (s.setRing c x).tLocked = s.tLocked := rfl
@[simp] theorem State.setRing_tHoldover (s : State) (c : Nat) (x : Ring) : (s.setRing c x).tHoldover = s.tHoldover := rfl
@[simp] theorem State.setRing_tStepped (s : State) (c : Nat) (x : Ring) : (s.setRing c x).tStepped = s.tStepped := rfl
@[simp] theorem State.setRing_tOffset (s : State) (c : Nat) (x : Ring) : (s.setRing c x).tOffset = s.tOffset := rfl
@[simp] theorem State.setRing_tSlew (s : State) (c : Nat) (x : Ring) : (s.setRing c x).tSlew = s.tSlew := rfl
@[simp] theorem State.setRing_tOwe (s : State) (c : Nat) (x : Ring) : (s.setRing c x).tOwe = s.tOwe := rfl
@[simp] theorem State.setRing_budget (s : State) (c : Nat) (x : Ring) : (s.setRing c x).budget = s.budget := rfl
@[simp] theorem State.setRing_budgetLock (s : State) (c : Nat) (x : Ring) : (s.setRing c x).budgetLock = s.budgetLock := rfl
@[simp] theorem State.setRing_held (s : State) (c : Nat) (x : Ring) : (s.setRing c x).held = s.held := rfl
@[simp] theorem State.setRing_heldAt (s : State) (c : Nat) (x : Ring) : (s.setRing c x).heldAt = s.heldAt := rfl
@[simp] theorem State.setRing_hot (s : State) (c : Nat) (x : Ring) : (s.setRing c x).hot = s.hot := rfl
@[simp] theorem State.setRing_hot110 (s : State) (c : Nat) (x : Ring) : (s.setRing c x).hot110 = s.hot110 := rfl
@[simp] theorem State.setRing_railsOff (s : State) (c : Nat) (x : Ring) : (s.setRing c x).railsOff = s.railsOff := rfl
@[simp] theorem State.setRing_warn (s : State) (c : Nat) (x : Ring) : (s.setRing c x).warn = s.warn := rfl
@[simp] theorem State.setRing_corrected (s : State) (c : Nat) (x : Ring) : (s.setRing c x).corrected = s.corrected := rfl
@[simp] theorem State.setRing_tileCorrected (s : State) (c : Nat) (x : Ring) : (s.setRing c x).tileCorrected = s.tileCorrected := rfl
@[simp] theorem State.setRing_scrubPass (s : State) (c : Nat) (x : Ring) : (s.setRing c x).scrubPass = s.scrubPass := rfl
@[simp] theorem State.setRing_scrubPos (s : State) (c : Nat) (x : Ring) : (s.setRing c x).scrubPos = s.scrubPos := rfl
@[simp] theorem State.setRing_scrubLine (s : State) (c : Nat) (x : Ring) : (s.setRing c x).scrubLine = s.scrubLine := rfl
@[simp] theorem State.setRing_cxl (s : State) (c : Nat) (x : Ring) : (s.setRing c x).cxl = s.cxl := rfl
@[simp] theorem State.setRing_fns (s : State) (c : Nat) (x : Ring) : (s.setRing c x).fns = s.fns := rfl
@[simp] theorem State.setRing_qfunc (s : State) (c : Nat) (x : Ring) : (s.setRing c x).qfunc = s.qfunc := rfl
@[simp] theorem State.setRing_queues (s : State) (c : Nat) (x : Ring) : (s.setRing c x).queues = s.queues := rfl
@[simp] theorem State.setRing_progs (s : State) (c : Nat) (x : Ring) : (s.setRing c x).progs = s.progs := rfl
@[simp] theorem State.setRing_progAddr (s : State) (c : Nat) (x : Ring) : (s.setRing c x).progAddr = s.progAddr := rfl
@[simp] theorem State.setRing_progSlot (s : State) (c : Nat) (x : Ring) : (s.setRing c x).progSlot = s.progSlot := rfl
@[simp] theorem State.setRing_progWord (s : State) (c : Nat) (x : Ring) : (s.setRing c x).progWord = s.progWord := rfl
@[simp] theorem State.setRing_progBusy (s : State) (c : Nat) (x : Ring) : (s.setRing c x).progBusy = s.progBusy := rfl
@[simp] theorem State.setRing_hostFails (s : State) (c : Nat) (x : Ring) : (s.setRing c x).hostFails = s.hostFails := rfl
@[simp] theorem State.setRing_progCode (s : State) (c : Nat) (x : Ring) : (s.setRing c x).progCode = s.progCode := rfl
@[simp] theorem State.setRing_interps (s : State) (c : Nat) (x : Ring) : (s.setRing c x).interps = s.interps := rfl
@[simp] theorem State.setRing_rotClass (s : State) (c : Nat) (x : Ring) : (s.setRing c x).rotClass = s.rotClass := rfl
@[simp] theorem State.setRing_rotGiven (s : State) (c : Nat) (x : Ring) : (s.setRing c x).rotGiven = s.rotGiven := rfl
@[simp] theorem State.setRing_rotQueue (s : State) (c : Nat) (x : Ring) : (s.setRing c x).rotQueue = s.rotQueue := rfl
@[simp] theorem State.setRing_flashA (s : State) (c : Nat) (x : Ring) : (s.setRing c x).flashA = s.flashA := rfl
@[simp] theorem State.setRing_flashB (s : State) (c : Nat) (x : Ring) : (s.setRing c x).flashB = s.flashB := rfl
@[simp] theorem State.setRing_flashDcA (s : State) (c : Nat) (x : Ring) : (s.setRing c x).flashDcA = s.flashDcA := rfl
@[simp] theorem State.setRing_flashDcB (s : State) (c : Nat) (x : Ring) : (s.setRing c x).flashDcB = s.flashDcB := rfl
@[simp] theorem State.setRing_certChain (s : State) (c : Nat) (x : Ring) : (s.setRing c x).certChain = s.certChain := rfl
@[simp] theorem State.setRing_keyHash0 (s : State) (c : Nat) (x : Ring) : (s.setRing c x).keyHash0 = s.keyHash0 := rfl
@[simp] theorem State.setRing_keyHash1 (s : State) (c : Nat) (x : Ring) : (s.setRing c x).keyHash1 = s.keyHash1 := rfl
@[simp] theorem State.setRing_revoked0 (s : State) (c : Nat) (x : Ring) : (s.setRing c x).revoked0 = s.revoked0 := rfl
@[simp] theorem State.setRing_floorIo (s : State) (c : Nat) (x : Ring) : (s.setRing c x).floorIo = s.floorIo := rfl
@[simp] theorem State.setRing_floorDc (s : State) (c : Nat) (x : Ring) : (s.setRing c x).floorDc = s.floorDc := rfl
@[simp] theorem State.setRing_bootCode (s : State) (c : Nat) (x : Ring) : (s.setRing c x).bootCode = s.bootCode := rfl
@[simp] theorem State.setRing_bootB (s : State) (c : Nat) (x : Ring) : (s.setRing c x).bootB = s.bootB := rfl
@[simp] theorem State.setRing_recovery (s : State) (c : Nat) (x : Ring) : (s.setRing c x).recovery = s.recovery := rfl
@[simp] theorem State.setRing_svnIo (s : State) (c : Nat) (x : Ring) : (s.setRing c x).svnIo = s.svnIo := rfl
@[simp] theorem State.setRing_mreg (s : State) (c : Nat) (x : Ring) : (s.setRing c x).mreg = s.mreg := rfl
@[simp] theorem State.setRing_mextData (s : State) (c : Nat) (x : Ring) : (s.setRing c x).mextData = s.mextData := rfl
@[simp] theorem State.setRing_mextCode (s : State) (c : Nat) (x : Ring) : (s.setRing c x).mextCode = s.mextCode := rfl
@[simp] theorem State.setRing_mextGo (s : State) (c : Nat) (x : Ring) : (s.setRing c x).mextGo = s.mextGo := rfl
@[simp] theorem State.setRing_mextIdx (s : State) (c : Nat) (x : Ring) : (s.setRing c x).mextIdx = s.mextIdx := rfl
@[simp] theorem State.setRing_debug (s : State) (c : Nat) (x : Ring) : (s.setRing c x).debug = s.debug := rfl
@[simp] theorem State.setRing_chans (s : State) (c : Nat) (x : Ring) : (s.setRing c x).chans = s.chans := rfl
@[simp] theorem State.setRing_pkgid (s : State) (c : Nat) (x : Ring) : (s.setRing c x).pkgid = s.pkgid := rfl
@[simp] theorem State.setRing_ports (s : State) (c : Nat) (x : Ring) : (s.setRing c x).ports = s.ports := rfl
@[simp] theorem State.setRing_route (s : State) (c : Nat) (x : Ring) : (s.setRing c x).route = s.route := rfl
@[simp] theorem State.setRing_homemap (s : State) (c : Nat) (x : Ring) : (s.setRing c x).homemap = s.homemap := rfl
@[simp] theorem State.setRing_dirSets (s : State) (c : Nat) (x : Ring) : (s.setRing c x).dirSets = s.dirSets := rfl
@[simp] theorem State.setRing_dirBase (s : State) (c : Nat) (x : Ring) : (s.setRing c x).dirBase = s.dirBase := rfl
@[simp] theorem State.setRing_dirEn (s : State) (c : Nat) (x : Ring) : (s.setRing c x).dirEn = s.dirEn := rfl
@[simp] theorem State.setRing_dirReqs (s : State) (c : Nat) (x : Ring) : (s.setRing c x).dirReqs = s.dirReqs := rfl
@[simp] theorem State.setRing_dirTag (s : State) (c : Nat) (x : Ring) : (s.setRing c x).dirTag = s.dirTag := rfl
@[simp] theorem State.setRing_repl (s : State) (c : Nat) (x : Ring) : (s.setRing c x).repl = s.repl := rfl
@[simp] theorem State.setRing_collReady (s : State) (c : Nat) (x : Ring) : (s.setRing c x).collReady = s.collReady := rfl
@[simp] theorem State.setRing_launches (s : State) (c : Nat) (x : Ring) : (s.setRing c x).launches = s.launches := rfl
@[simp] theorem State.setRing_tenants (s : State) (c : Nat) (x : Ring) : (s.setRing c x).tenants = s.tenants := rfl
@[simp] theorem State.setRing_gangTime (s : State) (c : Nat) (x : Ring) : (s.setRing c x).gangTime = s.gangTime := rfl
@[simp] theorem State.setRing_gangSet (s : State) (c : Nat) (x : Ring) : (s.setRing c x).gangSet = s.gangSet := rfl
@[simp] theorem State.setRing_gangDone (s : State) (c : Nat) (x : Ring) : (s.setRing c x).gangDone = s.gangDone := rfl
@[simp] theorem State.setRing_gangArmed (s : State) (c : Nat) (x : Ring) : (s.setRing c x).gangArmed = s.gangArmed := rfl
@[simp] theorem State.setRing_resBase (s : State) (c : Nat) (x : Ring) : (s.setRing c x).resBase = s.resBase := rfl
@[simp] theorem State.setRing_resHandle (s : State) (c : Nat) (x : Ring) : (s.setRing c x).resHandle = s.resHandle := rfl
@[simp] theorem State.setRing_resGo (s : State) (c : Nat) (x : Ring) : (s.setRing c x).resGo = s.resGo := rfl
@[simp] theorem State.setRing_resCode (s : State) (c : Nat) (x : Ring) : (s.setRing c x).resCode = s.resCode := rfl
@[simp] theorem State.setRing_resOp (s : State) (c : Nat) (x : Ring) : (s.setRing c x).resOp = s.resOp := rfl
@[simp] theorem State.setRing_resRunHandle (s : State) (c : Nat) (x : Ring) : (s.setRing c x).resRunHandle = s.resRunHandle := rfl
@[simp] theorem State.setRing_resRunOp (s : State) (c : Nat) (x : Ring) : (s.setRing c x).resRunOp = s.resRunOp := rfl
@[simp] theorem State.setRing_resPool (s : State) (c : Nat) (x : Ring) : (s.setRing c x).resPool = s.resPool := rfl
@[simp] theorem State.setRing_resCxl (s : State) (c : Nat) (x : Ring) : (s.setRing c x).resCxl = s.resCxl := rfl
@[simp] theorem State.setRing_resMoves (s : State) (c : Nat) (x : Ring) : (s.setRing c x).resMoves = s.resMoves := rfl
@[simp] theorem State.setRing_resLat (s : State) (c : Nat) (x : Ring) : (s.setRing c x).resLat = s.resLat := rfl
@[simp] theorem State.setRing_sdAddr (s : State) (c : Nat) (x : Ring) : (s.setRing c x).sdAddr = s.sdAddr := rfl
@[simp] theorem State.setRing_sdCtx (s : State) (c : Nat) (x : Ring) : (s.setRing c x).sdCtx = s.sdCtx := rfl
@[simp] theorem State.setRing_sdGo (s : State) (c : Nat) (x : Ring) : (s.setRing c x).sdGo = s.sdGo := rfl
@[simp] theorem State.setRing_sdCode (s : State) (c : Nat) (x : Ring) : (s.setRing c x).sdCode = s.sdCode := rfl
@[simp] theorem State.setRing_sdScope (s : State) (c : Nat) (x : Ring) : (s.setRing c x).sdScope = s.sdScope := rfl
@[simp] theorem State.setRing_sds (s : State) (c : Nat) (x : Ring) : (s.setRing c x).sds = s.sds := rfl
@[simp] theorem State.setRing_nsAddr (s : State) (c : Nat) (x : Ring) : (s.setRing c x).nsAddr = s.nsAddr := rfl
@[simp] theorem State.setRing_nsNsid (s : State) (c : Nat) (x : Ring) : (s.setRing c x).nsNsid = s.nsNsid := rfl
@[simp] theorem State.setRing_nsGo (s : State) (c : Nat) (x : Ring) : (s.setRing c x).nsGo = s.nsGo := rfl
@[simp] theorem State.setRing_nsCode (s : State) (c : Nat) (x : Ring) : (s.setRing c x).nsCode = s.nsCode := rfl
@[simp] theorem State.setRing_nsOp (s : State) (c : Nat) (x : Ring) : (s.setRing c x).nsOp = s.nsOp := rfl
@[simp] theorem State.setRing_nsRunNsid (s : State) (c : Nat) (x : Ring) : (s.setRing c x).nsRunNsid = s.nsRunNsid := rfl
@[simp] theorem State.setRing_nsRunOp (s : State) (c : Nat) (x : Ring) : (s.setRing c x).nsRunOp = s.nsRunOp := rfl
@[simp] theorem State.setRing_nss (s : State) (c : Nat) (x : Ring) : (s.setRing c x).nss = s.nss := rfl
@[simp] theorem State.setRing_idxLog (s : State) (c : Nat) (x : Ring) : (s.setRing c x).idxLog = s.idxLog := rfl
@[simp] theorem State.setRing_idxBase (s : State) (c : Nat) (x : Ring) : (s.setRing c x).idxBase = s.idxBase := rfl
@[simp] theorem State.setRing_pools (s : State) (c : Nat) (x : Ring) : (s.setRing c x).pools = s.pools := rfl
@[simp] theorem State.setRing_nodes (s : State) (c : Nat) (x : Ring) : (s.setRing c x).nodes = s.nodes := rfl
@[simp] theorem State.setRing_index (s : State) (c : Nat) (x : Ring) : (s.setRing c x).index = s.index := rfl
@[simp] theorem State.setRing_errOvf (s : State) (c : Nat) (x : Ring) : (s.setRing c x).errOvf = s.errOvf := rfl
@[simp] theorem State.setRing_errLost (s : State) (c : Nat) (x : Ring) : (s.setRing c x).errLost = s.errLost := rfl
@[simp] theorem State.setRing_ckCfg (s : State) (c : Nat) (x : Ring) : (s.setRing c x).ckCfg = s.ckCfg := rfl

@[simp] theorem State.modRing_agenda (s : State) (c : Nat) (f : Ring → Ring) : (s.modRing c f).agenda = s.agenda := rfl
@[simp] theorem State.modRing_focus (s : State) (c : Nat) (f : Ring → Ring) : (s.modRing c f).focus = s.focus := rfl
@[simp] theorem State.modRing_cur (s : State) (c : Nat) (f : Ring → Ring) : (s.modRing c f).cur = s.cur := rfl
@[simp] theorem State.modRing_fresh (s : State) (c : Nat) (f : Ring → Ring) : (s.modRing c f).fresh = s.fresh := rfl
@[simp] theorem State.modRing_nextId (s : State) (c : Nat) (f : Ring → Ring) : (s.modRing c f).nextId = s.nextId := rfl
@[simp] theorem State.modRing_out (s : State) (c : Nat) (f : Ring → Ring) : (s.modRing c f).out = s.out := rfl
@[simp] theorem State.modRing_mem (s : State) (c : Nat) (f : Ring → Ring) : (s.modRing c f).mem = s.mem := rfl
@[simp] theorem State.modRing_poison (s : State) (c : Nat) (f : Ring → Ring) : (s.modRing c f).poison = s.poison := rfl
@[simp] theorem State.modRing_lineKey (s : State) (c : Nat) (f : Ring → Ring) : (s.modRing c f).lineKey = s.lineKey := rfl
@[simp] theorem State.modRing_keys (s : State) (c : Nat) (f : Ring → Ring) : (s.modRing c f).keys = s.keys := rfl
@[simp] theorem State.modRing_gran (s : State) (c : Nat) (f : Ring → Ring) : (s.modRing c f).gran = s.gran := rfl
@[simp] theorem State.modRing_homeDir (s : State) (c : Nat) (f : Ring → Ring) : (s.modRing c f).homeDir = s.homeDir := rfl
@[simp] theorem State.modRing_tiles (s : State) (c : Nat) (f : Ring → Ring) : (s.modRing c f).tiles = s.tiles := rfl
@[simp] theorem State.modRing_dies (s : State) (c : Nat) (f : Ring → Ring) : (s.modRing c f).dies = s.dies := rfl
@[simp] theorem State.modRing_homes (s : State) (c : Nat) (f : Ring → Ring) : (s.modRing c f).homes = s.homes := rfl
@[simp] theorem State.modRing_ctxs (s : State) (c : Nat) (f : Ring → Ring) : (s.modRing c f).ctxs = s.ctxs := rfl
@[simp] theorem State.modRing_images (s : State) (c : Nat) (f : Ring → Ring) : (s.modRing c f).images = s.images := rfl
@[simp] theorem State.modRing_cy (s : State) (c : Nat) (f : Ring → Ring) : (s.modRing c f).cy = s.cy := rfl
@[simp] theorem State.modRing_devtime (s : State) (c : Nat) (f : Ring → Ring) : (s.modRing c f).devtime = s.devtime := rfl
@[simp] theorem State.modRing_tickcnt (s : State) (c : Nat) (f : Ring → Ring) : (s.modRing c f).tickcnt = s.tickcnt := rfl
@[simp] theorem State.modRing_tDomain (s : State) (c : Nat) (f : Ring → Ring) : (s.modRing c f).tDomain = s.tDomain := rfl
@[simp] theorem State.modRing_tDelay (s : State) (c : Nat) (f : Ring → Ring) : (s.modRing c f).tDelay = s.tDelay := rfl
@[simp] theorem State.modRing_tEn (s : State) (c : Nat) (f : Ring → Ring) : (s.modRing c f).tEn = s.tEn := rfl
@[simp] theorem State.modRing_tValid (s : State) (c : Nat) (f : Ring → Ring) : (s.modRing c f).tValid = s.tValid := rfl
@[simp] theorem State.modRing_tLocked (s : State) (c : Nat) (f : Ring → Ring) : (s.modRing c f).tLocked = s.tLocked := rfl
@[simp] theorem State.modRing_tHoldover (s : State) (c : Nat) (f : Ring → Ring) : (s.modRing c f).tHoldover = s.tHoldover := rfl
@[simp] theorem State.modRing_tStepped (s : State) (c : Nat) (f : Ring → Ring) : (s.modRing c f).tStepped = s.tStepped := rfl
@[simp] theorem State.modRing_tOffset (s : State) (c : Nat) (f : Ring → Ring) : (s.modRing c f).tOffset = s.tOffset := rfl
@[simp] theorem State.modRing_tSlew (s : State) (c : Nat) (f : Ring → Ring) : (s.modRing c f).tSlew = s.tSlew := rfl
@[simp] theorem State.modRing_tOwe (s : State) (c : Nat) (f : Ring → Ring) : (s.modRing c f).tOwe = s.tOwe := rfl
@[simp] theorem State.modRing_budget (s : State) (c : Nat) (f : Ring → Ring) : (s.modRing c f).budget = s.budget := rfl
@[simp] theorem State.modRing_budgetLock (s : State) (c : Nat) (f : Ring → Ring) : (s.modRing c f).budgetLock = s.budgetLock := rfl
@[simp] theorem State.modRing_held (s : State) (c : Nat) (f : Ring → Ring) : (s.modRing c f).held = s.held := rfl
@[simp] theorem State.modRing_heldAt (s : State) (c : Nat) (f : Ring → Ring) : (s.modRing c f).heldAt = s.heldAt := rfl
@[simp] theorem State.modRing_hot (s : State) (c : Nat) (f : Ring → Ring) : (s.modRing c f).hot = s.hot := rfl
@[simp] theorem State.modRing_hot110 (s : State) (c : Nat) (f : Ring → Ring) : (s.modRing c f).hot110 = s.hot110 := rfl
@[simp] theorem State.modRing_railsOff (s : State) (c : Nat) (f : Ring → Ring) : (s.modRing c f).railsOff = s.railsOff := rfl
@[simp] theorem State.modRing_warn (s : State) (c : Nat) (f : Ring → Ring) : (s.modRing c f).warn = s.warn := rfl
@[simp] theorem State.modRing_corrected (s : State) (c : Nat) (f : Ring → Ring) : (s.modRing c f).corrected = s.corrected := rfl
@[simp] theorem State.modRing_tileCorrected (s : State) (c : Nat) (f : Ring → Ring) : (s.modRing c f).tileCorrected = s.tileCorrected := rfl
@[simp] theorem State.modRing_scrubPass (s : State) (c : Nat) (f : Ring → Ring) : (s.modRing c f).scrubPass = s.scrubPass := rfl
@[simp] theorem State.modRing_scrubPos (s : State) (c : Nat) (f : Ring → Ring) : (s.modRing c f).scrubPos = s.scrubPos := rfl
@[simp] theorem State.modRing_scrubLine (s : State) (c : Nat) (f : Ring → Ring) : (s.modRing c f).scrubLine = s.scrubLine := rfl
@[simp] theorem State.modRing_cxl (s : State) (c : Nat) (f : Ring → Ring) : (s.modRing c f).cxl = s.cxl := rfl
@[simp] theorem State.modRing_fns (s : State) (c : Nat) (f : Ring → Ring) : (s.modRing c f).fns = s.fns := rfl
@[simp] theorem State.modRing_qfunc (s : State) (c : Nat) (f : Ring → Ring) : (s.modRing c f).qfunc = s.qfunc := rfl
@[simp] theorem State.modRing_queues (s : State) (c : Nat) (f : Ring → Ring) : (s.modRing c f).queues = s.queues := rfl
@[simp] theorem State.modRing_progs (s : State) (c : Nat) (f : Ring → Ring) : (s.modRing c f).progs = s.progs := rfl
@[simp] theorem State.modRing_progAddr (s : State) (c : Nat) (f : Ring → Ring) : (s.modRing c f).progAddr = s.progAddr := rfl
@[simp] theorem State.modRing_progSlot (s : State) (c : Nat) (f : Ring → Ring) : (s.modRing c f).progSlot = s.progSlot := rfl
@[simp] theorem State.modRing_progWord (s : State) (c : Nat) (f : Ring → Ring) : (s.modRing c f).progWord = s.progWord := rfl
@[simp] theorem State.modRing_progBusy (s : State) (c : Nat) (f : Ring → Ring) : (s.modRing c f).progBusy = s.progBusy := rfl
@[simp] theorem State.modRing_hostFails (s : State) (c : Nat) (f : Ring → Ring) : (s.modRing c f).hostFails = s.hostFails := rfl
@[simp] theorem State.modRing_progCode (s : State) (c : Nat) (f : Ring → Ring) : (s.modRing c f).progCode = s.progCode := rfl
@[simp] theorem State.modRing_interps (s : State) (c : Nat) (f : Ring → Ring) : (s.modRing c f).interps = s.interps := rfl
@[simp] theorem State.modRing_rotClass (s : State) (c : Nat) (f : Ring → Ring) : (s.modRing c f).rotClass = s.rotClass := rfl
@[simp] theorem State.modRing_rotGiven (s : State) (c : Nat) (f : Ring → Ring) : (s.modRing c f).rotGiven = s.rotGiven := rfl
@[simp] theorem State.modRing_rotQueue (s : State) (c : Nat) (f : Ring → Ring) : (s.modRing c f).rotQueue = s.rotQueue := rfl
@[simp] theorem State.modRing_flashA (s : State) (c : Nat) (f : Ring → Ring) : (s.modRing c f).flashA = s.flashA := rfl
@[simp] theorem State.modRing_flashB (s : State) (c : Nat) (f : Ring → Ring) : (s.modRing c f).flashB = s.flashB := rfl
@[simp] theorem State.modRing_flashDcA (s : State) (c : Nat) (f : Ring → Ring) : (s.modRing c f).flashDcA = s.flashDcA := rfl
@[simp] theorem State.modRing_flashDcB (s : State) (c : Nat) (f : Ring → Ring) : (s.modRing c f).flashDcB = s.flashDcB := rfl
@[simp] theorem State.modRing_certChain (s : State) (c : Nat) (f : Ring → Ring) : (s.modRing c f).certChain = s.certChain := rfl
@[simp] theorem State.modRing_keyHash0 (s : State) (c : Nat) (f : Ring → Ring) : (s.modRing c f).keyHash0 = s.keyHash0 := rfl
@[simp] theorem State.modRing_keyHash1 (s : State) (c : Nat) (f : Ring → Ring) : (s.modRing c f).keyHash1 = s.keyHash1 := rfl
@[simp] theorem State.modRing_revoked0 (s : State) (c : Nat) (f : Ring → Ring) : (s.modRing c f).revoked0 = s.revoked0 := rfl
@[simp] theorem State.modRing_floorIo (s : State) (c : Nat) (f : Ring → Ring) : (s.modRing c f).floorIo = s.floorIo := rfl
@[simp] theorem State.modRing_floorDc (s : State) (c : Nat) (f : Ring → Ring) : (s.modRing c f).floorDc = s.floorDc := rfl
@[simp] theorem State.modRing_bootCode (s : State) (c : Nat) (f : Ring → Ring) : (s.modRing c f).bootCode = s.bootCode := rfl
@[simp] theorem State.modRing_bootB (s : State) (c : Nat) (f : Ring → Ring) : (s.modRing c f).bootB = s.bootB := rfl
@[simp] theorem State.modRing_recovery (s : State) (c : Nat) (f : Ring → Ring) : (s.modRing c f).recovery = s.recovery := rfl
@[simp] theorem State.modRing_svnIo (s : State) (c : Nat) (f : Ring → Ring) : (s.modRing c f).svnIo = s.svnIo := rfl
@[simp] theorem State.modRing_mreg (s : State) (c : Nat) (f : Ring → Ring) : (s.modRing c f).mreg = s.mreg := rfl
@[simp] theorem State.modRing_mextData (s : State) (c : Nat) (f : Ring → Ring) : (s.modRing c f).mextData = s.mextData := rfl
@[simp] theorem State.modRing_mextCode (s : State) (c : Nat) (f : Ring → Ring) : (s.modRing c f).mextCode = s.mextCode := rfl
@[simp] theorem State.modRing_mextGo (s : State) (c : Nat) (f : Ring → Ring) : (s.modRing c f).mextGo = s.mextGo := rfl
@[simp] theorem State.modRing_mextIdx (s : State) (c : Nat) (f : Ring → Ring) : (s.modRing c f).mextIdx = s.mextIdx := rfl
@[simp] theorem State.modRing_debug (s : State) (c : Nat) (f : Ring → Ring) : (s.modRing c f).debug = s.debug := rfl
@[simp] theorem State.modRing_chans (s : State) (c : Nat) (f : Ring → Ring) : (s.modRing c f).chans = s.chans := rfl
@[simp] theorem State.modRing_pkgid (s : State) (c : Nat) (f : Ring → Ring) : (s.modRing c f).pkgid = s.pkgid := rfl
@[simp] theorem State.modRing_ports (s : State) (c : Nat) (f : Ring → Ring) : (s.modRing c f).ports = s.ports := rfl
@[simp] theorem State.modRing_route (s : State) (c : Nat) (f : Ring → Ring) : (s.modRing c f).route = s.route := rfl
@[simp] theorem State.modRing_homemap (s : State) (c : Nat) (f : Ring → Ring) : (s.modRing c f).homemap = s.homemap := rfl
@[simp] theorem State.modRing_dirSets (s : State) (c : Nat) (f : Ring → Ring) : (s.modRing c f).dirSets = s.dirSets := rfl
@[simp] theorem State.modRing_dirBase (s : State) (c : Nat) (f : Ring → Ring) : (s.modRing c f).dirBase = s.dirBase := rfl
@[simp] theorem State.modRing_dirEn (s : State) (c : Nat) (f : Ring → Ring) : (s.modRing c f).dirEn = s.dirEn := rfl
@[simp] theorem State.modRing_dirReqs (s : State) (c : Nat) (f : Ring → Ring) : (s.modRing c f).dirReqs = s.dirReqs := rfl
@[simp] theorem State.modRing_dirTag (s : State) (c : Nat) (f : Ring → Ring) : (s.modRing c f).dirTag = s.dirTag := rfl
@[simp] theorem State.modRing_repl (s : State) (c : Nat) (f : Ring → Ring) : (s.modRing c f).repl = s.repl := rfl
@[simp] theorem State.modRing_collReady (s : State) (c : Nat) (f : Ring → Ring) : (s.modRing c f).collReady = s.collReady := rfl
@[simp] theorem State.modRing_launches (s : State) (c : Nat) (f : Ring → Ring) : (s.modRing c f).launches = s.launches := rfl
@[simp] theorem State.modRing_tenants (s : State) (c : Nat) (f : Ring → Ring) : (s.modRing c f).tenants = s.tenants := rfl
@[simp] theorem State.modRing_gangTime (s : State) (c : Nat) (f : Ring → Ring) : (s.modRing c f).gangTime = s.gangTime := rfl
@[simp] theorem State.modRing_gangSet (s : State) (c : Nat) (f : Ring → Ring) : (s.modRing c f).gangSet = s.gangSet := rfl
@[simp] theorem State.modRing_gangDone (s : State) (c : Nat) (f : Ring → Ring) : (s.modRing c f).gangDone = s.gangDone := rfl
@[simp] theorem State.modRing_gangArmed (s : State) (c : Nat) (f : Ring → Ring) : (s.modRing c f).gangArmed = s.gangArmed := rfl
@[simp] theorem State.modRing_resBase (s : State) (c : Nat) (f : Ring → Ring) : (s.modRing c f).resBase = s.resBase := rfl
@[simp] theorem State.modRing_resHandle (s : State) (c : Nat) (f : Ring → Ring) : (s.modRing c f).resHandle = s.resHandle := rfl
@[simp] theorem State.modRing_resGo (s : State) (c : Nat) (f : Ring → Ring) : (s.modRing c f).resGo = s.resGo := rfl
@[simp] theorem State.modRing_resCode (s : State) (c : Nat) (f : Ring → Ring) : (s.modRing c f).resCode = s.resCode := rfl
@[simp] theorem State.modRing_resOp (s : State) (c : Nat) (f : Ring → Ring) : (s.modRing c f).resOp = s.resOp := rfl
@[simp] theorem State.modRing_resRunHandle (s : State) (c : Nat) (f : Ring → Ring) : (s.modRing c f).resRunHandle = s.resRunHandle := rfl
@[simp] theorem State.modRing_resRunOp (s : State) (c : Nat) (f : Ring → Ring) : (s.modRing c f).resRunOp = s.resRunOp := rfl
@[simp] theorem State.modRing_resPool (s : State) (c : Nat) (f : Ring → Ring) : (s.modRing c f).resPool = s.resPool := rfl
@[simp] theorem State.modRing_resCxl (s : State) (c : Nat) (f : Ring → Ring) : (s.modRing c f).resCxl = s.resCxl := rfl
@[simp] theorem State.modRing_resMoves (s : State) (c : Nat) (f : Ring → Ring) : (s.modRing c f).resMoves = s.resMoves := rfl
@[simp] theorem State.modRing_resLat (s : State) (c : Nat) (f : Ring → Ring) : (s.modRing c f).resLat = s.resLat := rfl
@[simp] theorem State.modRing_sdAddr (s : State) (c : Nat) (f : Ring → Ring) : (s.modRing c f).sdAddr = s.sdAddr := rfl
@[simp] theorem State.modRing_sdCtx (s : State) (c : Nat) (f : Ring → Ring) : (s.modRing c f).sdCtx = s.sdCtx := rfl
@[simp] theorem State.modRing_sdGo (s : State) (c : Nat) (f : Ring → Ring) : (s.modRing c f).sdGo = s.sdGo := rfl
@[simp] theorem State.modRing_sdCode (s : State) (c : Nat) (f : Ring → Ring) : (s.modRing c f).sdCode = s.sdCode := rfl
@[simp] theorem State.modRing_sdScope (s : State) (c : Nat) (f : Ring → Ring) : (s.modRing c f).sdScope = s.sdScope := rfl
@[simp] theorem State.modRing_sds (s : State) (c : Nat) (f : Ring → Ring) : (s.modRing c f).sds = s.sds := rfl
@[simp] theorem State.modRing_nsAddr (s : State) (c : Nat) (f : Ring → Ring) : (s.modRing c f).nsAddr = s.nsAddr := rfl
@[simp] theorem State.modRing_nsNsid (s : State) (c : Nat) (f : Ring → Ring) : (s.modRing c f).nsNsid = s.nsNsid := rfl
@[simp] theorem State.modRing_nsGo (s : State) (c : Nat) (f : Ring → Ring) : (s.modRing c f).nsGo = s.nsGo := rfl
@[simp] theorem State.modRing_nsCode (s : State) (c : Nat) (f : Ring → Ring) : (s.modRing c f).nsCode = s.nsCode := rfl
@[simp] theorem State.modRing_nsOp (s : State) (c : Nat) (f : Ring → Ring) : (s.modRing c f).nsOp = s.nsOp := rfl
@[simp] theorem State.modRing_nsRunNsid (s : State) (c : Nat) (f : Ring → Ring) : (s.modRing c f).nsRunNsid = s.nsRunNsid := rfl
@[simp] theorem State.modRing_nsRunOp (s : State) (c : Nat) (f : Ring → Ring) : (s.modRing c f).nsRunOp = s.nsRunOp := rfl
@[simp] theorem State.modRing_nss (s : State) (c : Nat) (f : Ring → Ring) : (s.modRing c f).nss = s.nss := rfl
@[simp] theorem State.modRing_idxLog (s : State) (c : Nat) (f : Ring → Ring) : (s.modRing c f).idxLog = s.idxLog := rfl
@[simp] theorem State.modRing_idxBase (s : State) (c : Nat) (f : Ring → Ring) : (s.modRing c f).idxBase = s.idxBase := rfl
@[simp] theorem State.modRing_pools (s : State) (c : Nat) (f : Ring → Ring) : (s.modRing c f).pools = s.pools := rfl
@[simp] theorem State.modRing_nodes (s : State) (c : Nat) (f : Ring → Ring) : (s.modRing c f).nodes = s.nodes := rfl
@[simp] theorem State.modRing_index (s : State) (c : Nat) (f : Ring → Ring) : (s.modRing c f).index = s.index := rfl
@[simp] theorem State.modRing_errOvf (s : State) (c : Nat) (f : Ring → Ring) : (s.modRing c f).errOvf = s.errOvf := rfl
@[simp] theorem State.modRing_errLost (s : State) (c : Nat) (f : Ring → Ring) : (s.modRing c f).errLost = s.errLost := rfl
@[simp] theorem State.modRing_ckCfg (s : State) (c : Nat) (f : Ring → Ring) : (s.modRing c f).ckCfg = s.ckCfg := rfl

@[simp] theorem State.setFn_agenda (s : State) (f : BitVec 8) (x : Fn) : (s.setFn f x).agenda = s.agenda := rfl
@[simp] theorem State.setFn_focus (s : State) (f : BitVec 8) (x : Fn) : (s.setFn f x).focus = s.focus := rfl
@[simp] theorem State.setFn_cur (s : State) (f : BitVec 8) (x : Fn) : (s.setFn f x).cur = s.cur := rfl
@[simp] theorem State.setFn_fresh (s : State) (f : BitVec 8) (x : Fn) : (s.setFn f x).fresh = s.fresh := rfl
@[simp] theorem State.setFn_nextId (s : State) (f : BitVec 8) (x : Fn) : (s.setFn f x).nextId = s.nextId := rfl
@[simp] theorem State.setFn_out (s : State) (f : BitVec 8) (x : Fn) : (s.setFn f x).out = s.out := rfl
@[simp] theorem State.setFn_mem (s : State) (f : BitVec 8) (x : Fn) : (s.setFn f x).mem = s.mem := rfl
@[simp] theorem State.setFn_poison (s : State) (f : BitVec 8) (x : Fn) : (s.setFn f x).poison = s.poison := rfl
@[simp] theorem State.setFn_lineKey (s : State) (f : BitVec 8) (x : Fn) : (s.setFn f x).lineKey = s.lineKey := rfl
@[simp] theorem State.setFn_keys (s : State) (f : BitVec 8) (x : Fn) : (s.setFn f x).keys = s.keys := rfl
@[simp] theorem State.setFn_gran (s : State) (f : BitVec 8) (x : Fn) : (s.setFn f x).gran = s.gran := rfl
@[simp] theorem State.setFn_homeDir (s : State) (f : BitVec 8) (x : Fn) : (s.setFn f x).homeDir = s.homeDir := rfl
@[simp] theorem State.setFn_tiles (s : State) (f : BitVec 8) (x : Fn) : (s.setFn f x).tiles = s.tiles := rfl
@[simp] theorem State.setFn_dies (s : State) (f : BitVec 8) (x : Fn) : (s.setFn f x).dies = s.dies := rfl
@[simp] theorem State.setFn_homes (s : State) (f : BitVec 8) (x : Fn) : (s.setFn f x).homes = s.homes := rfl
@[simp] theorem State.setFn_ctxs (s : State) (f : BitVec 8) (x : Fn) : (s.setFn f x).ctxs = s.ctxs := rfl
@[simp] theorem State.setFn_images (s : State) (f : BitVec 8) (x : Fn) : (s.setFn f x).images = s.images := rfl
@[simp] theorem State.setFn_cy (s : State) (f : BitVec 8) (x : Fn) : (s.setFn f x).cy = s.cy := rfl
@[simp] theorem State.setFn_devtime (s : State) (f : BitVec 8) (x : Fn) : (s.setFn f x).devtime = s.devtime := rfl
@[simp] theorem State.setFn_tickcnt (s : State) (f : BitVec 8) (x : Fn) : (s.setFn f x).tickcnt = s.tickcnt := rfl
@[simp] theorem State.setFn_tDomain (s : State) (f : BitVec 8) (x : Fn) : (s.setFn f x).tDomain = s.tDomain := rfl
@[simp] theorem State.setFn_tDelay (s : State) (f : BitVec 8) (x : Fn) : (s.setFn f x).tDelay = s.tDelay := rfl
@[simp] theorem State.setFn_tEn (s : State) (f : BitVec 8) (x : Fn) : (s.setFn f x).tEn = s.tEn := rfl
@[simp] theorem State.setFn_tValid (s : State) (f : BitVec 8) (x : Fn) : (s.setFn f x).tValid = s.tValid := rfl
@[simp] theorem State.setFn_tLocked (s : State) (f : BitVec 8) (x : Fn) : (s.setFn f x).tLocked = s.tLocked := rfl
@[simp] theorem State.setFn_tHoldover (s : State) (f : BitVec 8) (x : Fn) : (s.setFn f x).tHoldover = s.tHoldover := rfl
@[simp] theorem State.setFn_tStepped (s : State) (f : BitVec 8) (x : Fn) : (s.setFn f x).tStepped = s.tStepped := rfl
@[simp] theorem State.setFn_tOffset (s : State) (f : BitVec 8) (x : Fn) : (s.setFn f x).tOffset = s.tOffset := rfl
@[simp] theorem State.setFn_tSlew (s : State) (f : BitVec 8) (x : Fn) : (s.setFn f x).tSlew = s.tSlew := rfl
@[simp] theorem State.setFn_tOwe (s : State) (f : BitVec 8) (x : Fn) : (s.setFn f x).tOwe = s.tOwe := rfl
@[simp] theorem State.setFn_budget (s : State) (f : BitVec 8) (x : Fn) : (s.setFn f x).budget = s.budget := rfl
@[simp] theorem State.setFn_budgetLock (s : State) (f : BitVec 8) (x : Fn) : (s.setFn f x).budgetLock = s.budgetLock := rfl
@[simp] theorem State.setFn_held (s : State) (f : BitVec 8) (x : Fn) : (s.setFn f x).held = s.held := rfl
@[simp] theorem State.setFn_heldAt (s : State) (f : BitVec 8) (x : Fn) : (s.setFn f x).heldAt = s.heldAt := rfl
@[simp] theorem State.setFn_hot (s : State) (f : BitVec 8) (x : Fn) : (s.setFn f x).hot = s.hot := rfl
@[simp] theorem State.setFn_hot110 (s : State) (f : BitVec 8) (x : Fn) : (s.setFn f x).hot110 = s.hot110 := rfl
@[simp] theorem State.setFn_railsOff (s : State) (f : BitVec 8) (x : Fn) : (s.setFn f x).railsOff = s.railsOff := rfl
@[simp] theorem State.setFn_warn (s : State) (f : BitVec 8) (x : Fn) : (s.setFn f x).warn = s.warn := rfl
@[simp] theorem State.setFn_corrected (s : State) (f : BitVec 8) (x : Fn) : (s.setFn f x).corrected = s.corrected := rfl
@[simp] theorem State.setFn_tileCorrected (s : State) (f : BitVec 8) (x : Fn) : (s.setFn f x).tileCorrected = s.tileCorrected := rfl
@[simp] theorem State.setFn_scrubPass (s : State) (f : BitVec 8) (x : Fn) : (s.setFn f x).scrubPass = s.scrubPass := rfl
@[simp] theorem State.setFn_scrubPos (s : State) (f : BitVec 8) (x : Fn) : (s.setFn f x).scrubPos = s.scrubPos := rfl
@[simp] theorem State.setFn_scrubLine (s : State) (f : BitVec 8) (x : Fn) : (s.setFn f x).scrubLine = s.scrubLine := rfl
@[simp] theorem State.setFn_cxl (s : State) (f : BitVec 8) (x : Fn) : (s.setFn f x).cxl = s.cxl := rfl
@[simp] theorem State.setFn_qfunc (s : State) (f : BitVec 8) (x : Fn) : (s.setFn f x).qfunc = s.qfunc := rfl
@[simp] theorem State.setFn_queues (s : State) (f : BitVec 8) (x : Fn) : (s.setFn f x).queues = s.queues := rfl
@[simp] theorem State.setFn_rings (s : State) (f : BitVec 8) (x : Fn) : (s.setFn f x).rings = s.rings := rfl
@[simp] theorem State.setFn_progs (s : State) (f : BitVec 8) (x : Fn) : (s.setFn f x).progs = s.progs := rfl
@[simp] theorem State.setFn_progAddr (s : State) (f : BitVec 8) (x : Fn) : (s.setFn f x).progAddr = s.progAddr := rfl
@[simp] theorem State.setFn_progSlot (s : State) (f : BitVec 8) (x : Fn) : (s.setFn f x).progSlot = s.progSlot := rfl
@[simp] theorem State.setFn_progWord (s : State) (f : BitVec 8) (x : Fn) : (s.setFn f x).progWord = s.progWord := rfl
@[simp] theorem State.setFn_progBusy (s : State) (f : BitVec 8) (x : Fn) : (s.setFn f x).progBusy = s.progBusy := rfl
@[simp] theorem State.setFn_hostFails (s : State) (f : BitVec 8) (x : Fn) : (s.setFn f x).hostFails = s.hostFails := rfl
@[simp] theorem State.setFn_progCode (s : State) (f : BitVec 8) (x : Fn) : (s.setFn f x).progCode = s.progCode := rfl
@[simp] theorem State.setFn_interps (s : State) (f : BitVec 8) (x : Fn) : (s.setFn f x).interps = s.interps := rfl
@[simp] theorem State.setFn_rotClass (s : State) (f : BitVec 8) (x : Fn) : (s.setFn f x).rotClass = s.rotClass := rfl
@[simp] theorem State.setFn_rotGiven (s : State) (f : BitVec 8) (x : Fn) : (s.setFn f x).rotGiven = s.rotGiven := rfl
@[simp] theorem State.setFn_rotQueue (s : State) (f : BitVec 8) (x : Fn) : (s.setFn f x).rotQueue = s.rotQueue := rfl
@[simp] theorem State.setFn_flashA (s : State) (f : BitVec 8) (x : Fn) : (s.setFn f x).flashA = s.flashA := rfl
@[simp] theorem State.setFn_flashB (s : State) (f : BitVec 8) (x : Fn) : (s.setFn f x).flashB = s.flashB := rfl
@[simp] theorem State.setFn_flashDcA (s : State) (f : BitVec 8) (x : Fn) : (s.setFn f x).flashDcA = s.flashDcA := rfl
@[simp] theorem State.setFn_flashDcB (s : State) (f : BitVec 8) (x : Fn) : (s.setFn f x).flashDcB = s.flashDcB := rfl
@[simp] theorem State.setFn_certChain (s : State) (f : BitVec 8) (x : Fn) : (s.setFn f x).certChain = s.certChain := rfl
@[simp] theorem State.setFn_keyHash0 (s : State) (f : BitVec 8) (x : Fn) : (s.setFn f x).keyHash0 = s.keyHash0 := rfl
@[simp] theorem State.setFn_keyHash1 (s : State) (f : BitVec 8) (x : Fn) : (s.setFn f x).keyHash1 = s.keyHash1 := rfl
@[simp] theorem State.setFn_revoked0 (s : State) (f : BitVec 8) (x : Fn) : (s.setFn f x).revoked0 = s.revoked0 := rfl
@[simp] theorem State.setFn_floorIo (s : State) (f : BitVec 8) (x : Fn) : (s.setFn f x).floorIo = s.floorIo := rfl
@[simp] theorem State.setFn_floorDc (s : State) (f : BitVec 8) (x : Fn) : (s.setFn f x).floorDc = s.floorDc := rfl
@[simp] theorem State.setFn_bootCode (s : State) (f : BitVec 8) (x : Fn) : (s.setFn f x).bootCode = s.bootCode := rfl
@[simp] theorem State.setFn_bootB (s : State) (f : BitVec 8) (x : Fn) : (s.setFn f x).bootB = s.bootB := rfl
@[simp] theorem State.setFn_recovery (s : State) (f : BitVec 8) (x : Fn) : (s.setFn f x).recovery = s.recovery := rfl
@[simp] theorem State.setFn_svnIo (s : State) (f : BitVec 8) (x : Fn) : (s.setFn f x).svnIo = s.svnIo := rfl
@[simp] theorem State.setFn_mreg (s : State) (f : BitVec 8) (x : Fn) : (s.setFn f x).mreg = s.mreg := rfl
@[simp] theorem State.setFn_mextData (s : State) (f : BitVec 8) (x : Fn) : (s.setFn f x).mextData = s.mextData := rfl
@[simp] theorem State.setFn_mextCode (s : State) (f : BitVec 8) (x : Fn) : (s.setFn f x).mextCode = s.mextCode := rfl
@[simp] theorem State.setFn_mextGo (s : State) (f : BitVec 8) (x : Fn) : (s.setFn f x).mextGo = s.mextGo := rfl
@[simp] theorem State.setFn_mextIdx (s : State) (f : BitVec 8) (x : Fn) : (s.setFn f x).mextIdx = s.mextIdx := rfl
@[simp] theorem State.setFn_debug (s : State) (f : BitVec 8) (x : Fn) : (s.setFn f x).debug = s.debug := rfl
@[simp] theorem State.setFn_chans (s : State) (f : BitVec 8) (x : Fn) : (s.setFn f x).chans = s.chans := rfl
@[simp] theorem State.setFn_pkgid (s : State) (f : BitVec 8) (x : Fn) : (s.setFn f x).pkgid = s.pkgid := rfl
@[simp] theorem State.setFn_ports (s : State) (f : BitVec 8) (x : Fn) : (s.setFn f x).ports = s.ports := rfl
@[simp] theorem State.setFn_route (s : State) (f : BitVec 8) (x : Fn) : (s.setFn f x).route = s.route := rfl
@[simp] theorem State.setFn_homemap (s : State) (f : BitVec 8) (x : Fn) : (s.setFn f x).homemap = s.homemap := rfl
@[simp] theorem State.setFn_dirSets (s : State) (f : BitVec 8) (x : Fn) : (s.setFn f x).dirSets = s.dirSets := rfl
@[simp] theorem State.setFn_dirBase (s : State) (f : BitVec 8) (x : Fn) : (s.setFn f x).dirBase = s.dirBase := rfl
@[simp] theorem State.setFn_dirEn (s : State) (f : BitVec 8) (x : Fn) : (s.setFn f x).dirEn = s.dirEn := rfl
@[simp] theorem State.setFn_dirReqs (s : State) (f : BitVec 8) (x : Fn) : (s.setFn f x).dirReqs = s.dirReqs := rfl
@[simp] theorem State.setFn_dirTag (s : State) (f : BitVec 8) (x : Fn) : (s.setFn f x).dirTag = s.dirTag := rfl
@[simp] theorem State.setFn_repl (s : State) (f : BitVec 8) (x : Fn) : (s.setFn f x).repl = s.repl := rfl
@[simp] theorem State.setFn_collReady (s : State) (f : BitVec 8) (x : Fn) : (s.setFn f x).collReady = s.collReady := rfl
@[simp] theorem State.setFn_launches (s : State) (f : BitVec 8) (x : Fn) : (s.setFn f x).launches = s.launches := rfl
@[simp] theorem State.setFn_tenants (s : State) (f : BitVec 8) (x : Fn) : (s.setFn f x).tenants = s.tenants := rfl
@[simp] theorem State.setFn_gangTime (s : State) (f : BitVec 8) (x : Fn) : (s.setFn f x).gangTime = s.gangTime := rfl
@[simp] theorem State.setFn_gangSet (s : State) (f : BitVec 8) (x : Fn) : (s.setFn f x).gangSet = s.gangSet := rfl
@[simp] theorem State.setFn_gangDone (s : State) (f : BitVec 8) (x : Fn) : (s.setFn f x).gangDone = s.gangDone := rfl
@[simp] theorem State.setFn_gangArmed (s : State) (f : BitVec 8) (x : Fn) : (s.setFn f x).gangArmed = s.gangArmed := rfl
@[simp] theorem State.setFn_resBase (s : State) (f : BitVec 8) (x : Fn) : (s.setFn f x).resBase = s.resBase := rfl
@[simp] theorem State.setFn_resHandle (s : State) (f : BitVec 8) (x : Fn) : (s.setFn f x).resHandle = s.resHandle := rfl
@[simp] theorem State.setFn_resGo (s : State) (f : BitVec 8) (x : Fn) : (s.setFn f x).resGo = s.resGo := rfl
@[simp] theorem State.setFn_resCode (s : State) (f : BitVec 8) (x : Fn) : (s.setFn f x).resCode = s.resCode := rfl
@[simp] theorem State.setFn_resOp (s : State) (f : BitVec 8) (x : Fn) : (s.setFn f x).resOp = s.resOp := rfl
@[simp] theorem State.setFn_resRunHandle (s : State) (f : BitVec 8) (x : Fn) : (s.setFn f x).resRunHandle = s.resRunHandle := rfl
@[simp] theorem State.setFn_resRunOp (s : State) (f : BitVec 8) (x : Fn) : (s.setFn f x).resRunOp = s.resRunOp := rfl
@[simp] theorem State.setFn_resPool (s : State) (f : BitVec 8) (x : Fn) : (s.setFn f x).resPool = s.resPool := rfl
@[simp] theorem State.setFn_resCxl (s : State) (f : BitVec 8) (x : Fn) : (s.setFn f x).resCxl = s.resCxl := rfl
@[simp] theorem State.setFn_resMoves (s : State) (f : BitVec 8) (x : Fn) : (s.setFn f x).resMoves = s.resMoves := rfl
@[simp] theorem State.setFn_resLat (s : State) (f : BitVec 8) (x : Fn) : (s.setFn f x).resLat = s.resLat := rfl
@[simp] theorem State.setFn_sdAddr (s : State) (f : BitVec 8) (x : Fn) : (s.setFn f x).sdAddr = s.sdAddr := rfl
@[simp] theorem State.setFn_sdCtx (s : State) (f : BitVec 8) (x : Fn) : (s.setFn f x).sdCtx = s.sdCtx := rfl
@[simp] theorem State.setFn_sdGo (s : State) (f : BitVec 8) (x : Fn) : (s.setFn f x).sdGo = s.sdGo := rfl
@[simp] theorem State.setFn_sdCode (s : State) (f : BitVec 8) (x : Fn) : (s.setFn f x).sdCode = s.sdCode := rfl
@[simp] theorem State.setFn_sdScope (s : State) (f : BitVec 8) (x : Fn) : (s.setFn f x).sdScope = s.sdScope := rfl
@[simp] theorem State.setFn_sds (s : State) (f : BitVec 8) (x : Fn) : (s.setFn f x).sds = s.sds := rfl
@[simp] theorem State.setFn_nsAddr (s : State) (f : BitVec 8) (x : Fn) : (s.setFn f x).nsAddr = s.nsAddr := rfl
@[simp] theorem State.setFn_nsNsid (s : State) (f : BitVec 8) (x : Fn) : (s.setFn f x).nsNsid = s.nsNsid := rfl
@[simp] theorem State.setFn_nsGo (s : State) (f : BitVec 8) (x : Fn) : (s.setFn f x).nsGo = s.nsGo := rfl
@[simp] theorem State.setFn_nsCode (s : State) (f : BitVec 8) (x : Fn) : (s.setFn f x).nsCode = s.nsCode := rfl
@[simp] theorem State.setFn_nsOp (s : State) (f : BitVec 8) (x : Fn) : (s.setFn f x).nsOp = s.nsOp := rfl
@[simp] theorem State.setFn_nsRunNsid (s : State) (f : BitVec 8) (x : Fn) : (s.setFn f x).nsRunNsid = s.nsRunNsid := rfl
@[simp] theorem State.setFn_nsRunOp (s : State) (f : BitVec 8) (x : Fn) : (s.setFn f x).nsRunOp = s.nsRunOp := rfl
@[simp] theorem State.setFn_nss (s : State) (f : BitVec 8) (x : Fn) : (s.setFn f x).nss = s.nss := rfl
@[simp] theorem State.setFn_idxLog (s : State) (f : BitVec 8) (x : Fn) : (s.setFn f x).idxLog = s.idxLog := rfl
@[simp] theorem State.setFn_idxBase (s : State) (f : BitVec 8) (x : Fn) : (s.setFn f x).idxBase = s.idxBase := rfl
@[simp] theorem State.setFn_pools (s : State) (f : BitVec 8) (x : Fn) : (s.setFn f x).pools = s.pools := rfl
@[simp] theorem State.setFn_nodes (s : State) (f : BitVec 8) (x : Fn) : (s.setFn f x).nodes = s.nodes := rfl
@[simp] theorem State.setFn_index (s : State) (f : BitVec 8) (x : Fn) : (s.setFn f x).index = s.index := rfl
@[simp] theorem State.setFn_errOvf (s : State) (f : BitVec 8) (x : Fn) : (s.setFn f x).errOvf = s.errOvf := rfl
@[simp] theorem State.setFn_errLost (s : State) (f : BitVec 8) (x : Fn) : (s.setFn f x).errLost = s.errLost := rfl
@[simp] theorem State.setFn_ckCfg (s : State) (f : BitVec 8) (x : Fn) : (s.setFn f x).ckCfg = s.ckCfg := rfl

@[simp] theorem State.setDie_agenda (s : State) (d : BitVec 2) (x : Die) : (s.setDie d x).agenda = s.agenda := rfl
@[simp] theorem State.setDie_focus (s : State) (d : BitVec 2) (x : Die) : (s.setDie d x).focus = s.focus := rfl
@[simp] theorem State.setDie_cur (s : State) (d : BitVec 2) (x : Die) : (s.setDie d x).cur = s.cur := rfl
@[simp] theorem State.setDie_fresh (s : State) (d : BitVec 2) (x : Die) : (s.setDie d x).fresh = s.fresh := rfl
@[simp] theorem State.setDie_nextId (s : State) (d : BitVec 2) (x : Die) : (s.setDie d x).nextId = s.nextId := rfl
@[simp] theorem State.setDie_out (s : State) (d : BitVec 2) (x : Die) : (s.setDie d x).out = s.out := rfl
@[simp] theorem State.setDie_mem (s : State) (d : BitVec 2) (x : Die) : (s.setDie d x).mem = s.mem := rfl
@[simp] theorem State.setDie_poison (s : State) (d : BitVec 2) (x : Die) : (s.setDie d x).poison = s.poison := rfl
@[simp] theorem State.setDie_lineKey (s : State) (d : BitVec 2) (x : Die) : (s.setDie d x).lineKey = s.lineKey := rfl
@[simp] theorem State.setDie_keys (s : State) (d : BitVec 2) (x : Die) : (s.setDie d x).keys = s.keys := rfl
@[simp] theorem State.setDie_gran (s : State) (d : BitVec 2) (x : Die) : (s.setDie d x).gran = s.gran := rfl
@[simp] theorem State.setDie_homeDir (s : State) (d : BitVec 2) (x : Die) : (s.setDie d x).homeDir = s.homeDir := rfl
@[simp] theorem State.setDie_tiles (s : State) (d : BitVec 2) (x : Die) : (s.setDie d x).tiles = s.tiles := rfl
@[simp] theorem State.setDie_homes (s : State) (d : BitVec 2) (x : Die) : (s.setDie d x).homes = s.homes := rfl
@[simp] theorem State.setDie_ctxs (s : State) (d : BitVec 2) (x : Die) : (s.setDie d x).ctxs = s.ctxs := rfl
@[simp] theorem State.setDie_images (s : State) (d : BitVec 2) (x : Die) : (s.setDie d x).images = s.images := rfl
@[simp] theorem State.setDie_cy (s : State) (d : BitVec 2) (x : Die) : (s.setDie d x).cy = s.cy := rfl
@[simp] theorem State.setDie_devtime (s : State) (d : BitVec 2) (x : Die) : (s.setDie d x).devtime = s.devtime := rfl
@[simp] theorem State.setDie_tickcnt (s : State) (d : BitVec 2) (x : Die) : (s.setDie d x).tickcnt = s.tickcnt := rfl
@[simp] theorem State.setDie_tDomain (s : State) (d : BitVec 2) (x : Die) : (s.setDie d x).tDomain = s.tDomain := rfl
@[simp] theorem State.setDie_tDelay (s : State) (d : BitVec 2) (x : Die) : (s.setDie d x).tDelay = s.tDelay := rfl
@[simp] theorem State.setDie_tEn (s : State) (d : BitVec 2) (x : Die) : (s.setDie d x).tEn = s.tEn := rfl
@[simp] theorem State.setDie_tValid (s : State) (d : BitVec 2) (x : Die) : (s.setDie d x).tValid = s.tValid := rfl
@[simp] theorem State.setDie_tLocked (s : State) (d : BitVec 2) (x : Die) : (s.setDie d x).tLocked = s.tLocked := rfl
@[simp] theorem State.setDie_tHoldover (s : State) (d : BitVec 2) (x : Die) : (s.setDie d x).tHoldover = s.tHoldover := rfl
@[simp] theorem State.setDie_tStepped (s : State) (d : BitVec 2) (x : Die) : (s.setDie d x).tStepped = s.tStepped := rfl
@[simp] theorem State.setDie_tOffset (s : State) (d : BitVec 2) (x : Die) : (s.setDie d x).tOffset = s.tOffset := rfl
@[simp] theorem State.setDie_tSlew (s : State) (d : BitVec 2) (x : Die) : (s.setDie d x).tSlew = s.tSlew := rfl
@[simp] theorem State.setDie_tOwe (s : State) (d : BitVec 2) (x : Die) : (s.setDie d x).tOwe = s.tOwe := rfl
@[simp] theorem State.setDie_budget (s : State) (d : BitVec 2) (x : Die) : (s.setDie d x).budget = s.budget := rfl
@[simp] theorem State.setDie_budgetLock (s : State) (d : BitVec 2) (x : Die) : (s.setDie d x).budgetLock = s.budgetLock := rfl
@[simp] theorem State.setDie_held (s : State) (d : BitVec 2) (x : Die) : (s.setDie d x).held = s.held := rfl
@[simp] theorem State.setDie_heldAt (s : State) (d : BitVec 2) (x : Die) : (s.setDie d x).heldAt = s.heldAt := rfl
@[simp] theorem State.setDie_hot (s : State) (d : BitVec 2) (x : Die) : (s.setDie d x).hot = s.hot := rfl
@[simp] theorem State.setDie_hot110 (s : State) (d : BitVec 2) (x : Die) : (s.setDie d x).hot110 = s.hot110 := rfl
@[simp] theorem State.setDie_railsOff (s : State) (d : BitVec 2) (x : Die) : (s.setDie d x).railsOff = s.railsOff := rfl
@[simp] theorem State.setDie_warn (s : State) (d : BitVec 2) (x : Die) : (s.setDie d x).warn = s.warn := rfl
@[simp] theorem State.setDie_corrected (s : State) (d : BitVec 2) (x : Die) : (s.setDie d x).corrected = s.corrected := rfl
@[simp] theorem State.setDie_tileCorrected (s : State) (d : BitVec 2) (x : Die) : (s.setDie d x).tileCorrected = s.tileCorrected := rfl
@[simp] theorem State.setDie_scrubPass (s : State) (d : BitVec 2) (x : Die) : (s.setDie d x).scrubPass = s.scrubPass := rfl
@[simp] theorem State.setDie_scrubPos (s : State) (d : BitVec 2) (x : Die) : (s.setDie d x).scrubPos = s.scrubPos := rfl
@[simp] theorem State.setDie_scrubLine (s : State) (d : BitVec 2) (x : Die) : (s.setDie d x).scrubLine = s.scrubLine := rfl
@[simp] theorem State.setDie_cxl (s : State) (d : BitVec 2) (x : Die) : (s.setDie d x).cxl = s.cxl := rfl
@[simp] theorem State.setDie_fns (s : State) (d : BitVec 2) (x : Die) : (s.setDie d x).fns = s.fns := rfl
@[simp] theorem State.setDie_qfunc (s : State) (d : BitVec 2) (x : Die) : (s.setDie d x).qfunc = s.qfunc := rfl
@[simp] theorem State.setDie_queues (s : State) (d : BitVec 2) (x : Die) : (s.setDie d x).queues = s.queues := rfl
@[simp] theorem State.setDie_rings (s : State) (d : BitVec 2) (x : Die) : (s.setDie d x).rings = s.rings := rfl
@[simp] theorem State.setDie_progs (s : State) (d : BitVec 2) (x : Die) : (s.setDie d x).progs = s.progs := rfl
@[simp] theorem State.setDie_progAddr (s : State) (d : BitVec 2) (x : Die) : (s.setDie d x).progAddr = s.progAddr := rfl
@[simp] theorem State.setDie_progSlot (s : State) (d : BitVec 2) (x : Die) : (s.setDie d x).progSlot = s.progSlot := rfl
@[simp] theorem State.setDie_progWord (s : State) (d : BitVec 2) (x : Die) : (s.setDie d x).progWord = s.progWord := rfl
@[simp] theorem State.setDie_progBusy (s : State) (d : BitVec 2) (x : Die) : (s.setDie d x).progBusy = s.progBusy := rfl
@[simp] theorem State.setDie_hostFails (s : State) (d : BitVec 2) (x : Die) : (s.setDie d x).hostFails = s.hostFails := rfl
@[simp] theorem State.setDie_progCode (s : State) (d : BitVec 2) (x : Die) : (s.setDie d x).progCode = s.progCode := rfl
@[simp] theorem State.setDie_interps (s : State) (d : BitVec 2) (x : Die) : (s.setDie d x).interps = s.interps := rfl
@[simp] theorem State.setDie_rotClass (s : State) (d : BitVec 2) (x : Die) : (s.setDie d x).rotClass = s.rotClass := rfl
@[simp] theorem State.setDie_rotGiven (s : State) (d : BitVec 2) (x : Die) : (s.setDie d x).rotGiven = s.rotGiven := rfl
@[simp] theorem State.setDie_rotQueue (s : State) (d : BitVec 2) (x : Die) : (s.setDie d x).rotQueue = s.rotQueue := rfl
@[simp] theorem State.setDie_flashA (s : State) (d : BitVec 2) (x : Die) : (s.setDie d x).flashA = s.flashA := rfl
@[simp] theorem State.setDie_flashB (s : State) (d : BitVec 2) (x : Die) : (s.setDie d x).flashB = s.flashB := rfl
@[simp] theorem State.setDie_flashDcA (s : State) (d : BitVec 2) (x : Die) : (s.setDie d x).flashDcA = s.flashDcA := rfl
@[simp] theorem State.setDie_flashDcB (s : State) (d : BitVec 2) (x : Die) : (s.setDie d x).flashDcB = s.flashDcB := rfl
@[simp] theorem State.setDie_certChain (s : State) (d : BitVec 2) (x : Die) : (s.setDie d x).certChain = s.certChain := rfl
@[simp] theorem State.setDie_keyHash0 (s : State) (d : BitVec 2) (x : Die) : (s.setDie d x).keyHash0 = s.keyHash0 := rfl
@[simp] theorem State.setDie_keyHash1 (s : State) (d : BitVec 2) (x : Die) : (s.setDie d x).keyHash1 = s.keyHash1 := rfl
@[simp] theorem State.setDie_revoked0 (s : State) (d : BitVec 2) (x : Die) : (s.setDie d x).revoked0 = s.revoked0 := rfl
@[simp] theorem State.setDie_floorIo (s : State) (d : BitVec 2) (x : Die) : (s.setDie d x).floorIo = s.floorIo := rfl
@[simp] theorem State.setDie_floorDc (s : State) (d : BitVec 2) (x : Die) : (s.setDie d x).floorDc = s.floorDc := rfl
@[simp] theorem State.setDie_bootCode (s : State) (d : BitVec 2) (x : Die) : (s.setDie d x).bootCode = s.bootCode := rfl
@[simp] theorem State.setDie_bootB (s : State) (d : BitVec 2) (x : Die) : (s.setDie d x).bootB = s.bootB := rfl
@[simp] theorem State.setDie_recovery (s : State) (d : BitVec 2) (x : Die) : (s.setDie d x).recovery = s.recovery := rfl
@[simp] theorem State.setDie_svnIo (s : State) (d : BitVec 2) (x : Die) : (s.setDie d x).svnIo = s.svnIo := rfl
@[simp] theorem State.setDie_mreg (s : State) (d : BitVec 2) (x : Die) : (s.setDie d x).mreg = s.mreg := rfl
@[simp] theorem State.setDie_mextData (s : State) (d : BitVec 2) (x : Die) : (s.setDie d x).mextData = s.mextData := rfl
@[simp] theorem State.setDie_mextCode (s : State) (d : BitVec 2) (x : Die) : (s.setDie d x).mextCode = s.mextCode := rfl
@[simp] theorem State.setDie_mextGo (s : State) (d : BitVec 2) (x : Die) : (s.setDie d x).mextGo = s.mextGo := rfl
@[simp] theorem State.setDie_mextIdx (s : State) (d : BitVec 2) (x : Die) : (s.setDie d x).mextIdx = s.mextIdx := rfl
@[simp] theorem State.setDie_debug (s : State) (d : BitVec 2) (x : Die) : (s.setDie d x).debug = s.debug := rfl
@[simp] theorem State.setDie_chans (s : State) (d : BitVec 2) (x : Die) : (s.setDie d x).chans = s.chans := rfl
@[simp] theorem State.setDie_pkgid (s : State) (d : BitVec 2) (x : Die) : (s.setDie d x).pkgid = s.pkgid := rfl
@[simp] theorem State.setDie_ports (s : State) (d : BitVec 2) (x : Die) : (s.setDie d x).ports = s.ports := rfl
@[simp] theorem State.setDie_route (s : State) (d : BitVec 2) (x : Die) : (s.setDie d x).route = s.route := rfl
@[simp] theorem State.setDie_homemap (s : State) (d : BitVec 2) (x : Die) : (s.setDie d x).homemap = s.homemap := rfl
@[simp] theorem State.setDie_dirSets (s : State) (d : BitVec 2) (x : Die) : (s.setDie d x).dirSets = s.dirSets := rfl
@[simp] theorem State.setDie_dirBase (s : State) (d : BitVec 2) (x : Die) : (s.setDie d x).dirBase = s.dirBase := rfl
@[simp] theorem State.setDie_dirEn (s : State) (d : BitVec 2) (x : Die) : (s.setDie d x).dirEn = s.dirEn := rfl
@[simp] theorem State.setDie_dirReqs (s : State) (d : BitVec 2) (x : Die) : (s.setDie d x).dirReqs = s.dirReqs := rfl
@[simp] theorem State.setDie_dirTag (s : State) (d : BitVec 2) (x : Die) : (s.setDie d x).dirTag = s.dirTag := rfl
@[simp] theorem State.setDie_repl (s : State) (d : BitVec 2) (x : Die) : (s.setDie d x).repl = s.repl := rfl
@[simp] theorem State.setDie_collReady (s : State) (d : BitVec 2) (x : Die) : (s.setDie d x).collReady = s.collReady := rfl
@[simp] theorem State.setDie_launches (s : State) (d : BitVec 2) (x : Die) : (s.setDie d x).launches = s.launches := rfl
@[simp] theorem State.setDie_tenants (s : State) (d : BitVec 2) (x : Die) : (s.setDie d x).tenants = s.tenants := rfl
@[simp] theorem State.setDie_gangTime (s : State) (d : BitVec 2) (x : Die) : (s.setDie d x).gangTime = s.gangTime := rfl
@[simp] theorem State.setDie_gangSet (s : State) (d : BitVec 2) (x : Die) : (s.setDie d x).gangSet = s.gangSet := rfl
@[simp] theorem State.setDie_gangDone (s : State) (d : BitVec 2) (x : Die) : (s.setDie d x).gangDone = s.gangDone := rfl
@[simp] theorem State.setDie_gangArmed (s : State) (d : BitVec 2) (x : Die) : (s.setDie d x).gangArmed = s.gangArmed := rfl
@[simp] theorem State.setDie_resBase (s : State) (d : BitVec 2) (x : Die) : (s.setDie d x).resBase = s.resBase := rfl
@[simp] theorem State.setDie_resHandle (s : State) (d : BitVec 2) (x : Die) : (s.setDie d x).resHandle = s.resHandle := rfl
@[simp] theorem State.setDie_resGo (s : State) (d : BitVec 2) (x : Die) : (s.setDie d x).resGo = s.resGo := rfl
@[simp] theorem State.setDie_resCode (s : State) (d : BitVec 2) (x : Die) : (s.setDie d x).resCode = s.resCode := rfl
@[simp] theorem State.setDie_resOp (s : State) (d : BitVec 2) (x : Die) : (s.setDie d x).resOp = s.resOp := rfl
@[simp] theorem State.setDie_resRunHandle (s : State) (d : BitVec 2) (x : Die) : (s.setDie d x).resRunHandle = s.resRunHandle := rfl
@[simp] theorem State.setDie_resRunOp (s : State) (d : BitVec 2) (x : Die) : (s.setDie d x).resRunOp = s.resRunOp := rfl
@[simp] theorem State.setDie_resPool (s : State) (d : BitVec 2) (x : Die) : (s.setDie d x).resPool = s.resPool := rfl
@[simp] theorem State.setDie_resCxl (s : State) (d : BitVec 2) (x : Die) : (s.setDie d x).resCxl = s.resCxl := rfl
@[simp] theorem State.setDie_resMoves (s : State) (d : BitVec 2) (x : Die) : (s.setDie d x).resMoves = s.resMoves := rfl
@[simp] theorem State.setDie_resLat (s : State) (d : BitVec 2) (x : Die) : (s.setDie d x).resLat = s.resLat := rfl
@[simp] theorem State.setDie_sdAddr (s : State) (d : BitVec 2) (x : Die) : (s.setDie d x).sdAddr = s.sdAddr := rfl
@[simp] theorem State.setDie_sdCtx (s : State) (d : BitVec 2) (x : Die) : (s.setDie d x).sdCtx = s.sdCtx := rfl
@[simp] theorem State.setDie_sdGo (s : State) (d : BitVec 2) (x : Die) : (s.setDie d x).sdGo = s.sdGo := rfl
@[simp] theorem State.setDie_sdCode (s : State) (d : BitVec 2) (x : Die) : (s.setDie d x).sdCode = s.sdCode := rfl
@[simp] theorem State.setDie_sdScope (s : State) (d : BitVec 2) (x : Die) : (s.setDie d x).sdScope = s.sdScope := rfl
@[simp] theorem State.setDie_sds (s : State) (d : BitVec 2) (x : Die) : (s.setDie d x).sds = s.sds := rfl
@[simp] theorem State.setDie_nsAddr (s : State) (d : BitVec 2) (x : Die) : (s.setDie d x).nsAddr = s.nsAddr := rfl
@[simp] theorem State.setDie_nsNsid (s : State) (d : BitVec 2) (x : Die) : (s.setDie d x).nsNsid = s.nsNsid := rfl
@[simp] theorem State.setDie_nsGo (s : State) (d : BitVec 2) (x : Die) : (s.setDie d x).nsGo = s.nsGo := rfl
@[simp] theorem State.setDie_nsCode (s : State) (d : BitVec 2) (x : Die) : (s.setDie d x).nsCode = s.nsCode := rfl
@[simp] theorem State.setDie_nsOp (s : State) (d : BitVec 2) (x : Die) : (s.setDie d x).nsOp = s.nsOp := rfl
@[simp] theorem State.setDie_nsRunNsid (s : State) (d : BitVec 2) (x : Die) : (s.setDie d x).nsRunNsid = s.nsRunNsid := rfl
@[simp] theorem State.setDie_nsRunOp (s : State) (d : BitVec 2) (x : Die) : (s.setDie d x).nsRunOp = s.nsRunOp := rfl
@[simp] theorem State.setDie_nss (s : State) (d : BitVec 2) (x : Die) : (s.setDie d x).nss = s.nss := rfl
@[simp] theorem State.setDie_idxLog (s : State) (d : BitVec 2) (x : Die) : (s.setDie d x).idxLog = s.idxLog := rfl
@[simp] theorem State.setDie_idxBase (s : State) (d : BitVec 2) (x : Die) : (s.setDie d x).idxBase = s.idxBase := rfl
@[simp] theorem State.setDie_pools (s : State) (d : BitVec 2) (x : Die) : (s.setDie d x).pools = s.pools := rfl
@[simp] theorem State.setDie_nodes (s : State) (d : BitVec 2) (x : Die) : (s.setDie d x).nodes = s.nodes := rfl
@[simp] theorem State.setDie_index (s : State) (d : BitVec 2) (x : Die) : (s.setDie d x).index = s.index := rfl
@[simp] theorem State.setDie_errOvf (s : State) (d : BitVec 2) (x : Die) : (s.setDie d x).errOvf = s.errOvf := rfl
@[simp] theorem State.setDie_errLost (s : State) (d : BitVec 2) (x : Die) : (s.setDie d x).errLost = s.errLost := rfl
@[simp] theorem State.setDie_ckCfg (s : State) (d : BitVec 2) (x : Die) : (s.setDie d x).ckCfg = s.ckCfg := rfl

@[simp] theorem State.setHome_agenda (s : State) (h : BitVec 3) (x : Home) : (s.setHome h x).agenda = s.agenda := rfl
@[simp] theorem State.setHome_focus (s : State) (h : BitVec 3) (x : Home) : (s.setHome h x).focus = s.focus := rfl
@[simp] theorem State.setHome_cur (s : State) (h : BitVec 3) (x : Home) : (s.setHome h x).cur = s.cur := rfl
@[simp] theorem State.setHome_fresh (s : State) (h : BitVec 3) (x : Home) : (s.setHome h x).fresh = s.fresh := rfl
@[simp] theorem State.setHome_nextId (s : State) (h : BitVec 3) (x : Home) : (s.setHome h x).nextId = s.nextId := rfl
@[simp] theorem State.setHome_out (s : State) (h : BitVec 3) (x : Home) : (s.setHome h x).out = s.out := rfl
@[simp] theorem State.setHome_mem (s : State) (h : BitVec 3) (x : Home) : (s.setHome h x).mem = s.mem := rfl
@[simp] theorem State.setHome_poison (s : State) (h : BitVec 3) (x : Home) : (s.setHome h x).poison = s.poison := rfl
@[simp] theorem State.setHome_lineKey (s : State) (h : BitVec 3) (x : Home) : (s.setHome h x).lineKey = s.lineKey := rfl
@[simp] theorem State.setHome_keys (s : State) (h : BitVec 3) (x : Home) : (s.setHome h x).keys = s.keys := rfl
@[simp] theorem State.setHome_gran (s : State) (h : BitVec 3) (x : Home) : (s.setHome h x).gran = s.gran := rfl
@[simp] theorem State.setHome_homeDir (s : State) (h : BitVec 3) (x : Home) : (s.setHome h x).homeDir = s.homeDir := rfl
@[simp] theorem State.setHome_tiles (s : State) (h : BitVec 3) (x : Home) : (s.setHome h x).tiles = s.tiles := rfl
@[simp] theorem State.setHome_dies (s : State) (h : BitVec 3) (x : Home) : (s.setHome h x).dies = s.dies := rfl
@[simp] theorem State.setHome_ctxs (s : State) (h : BitVec 3) (x : Home) : (s.setHome h x).ctxs = s.ctxs := rfl
@[simp] theorem State.setHome_images (s : State) (h : BitVec 3) (x : Home) : (s.setHome h x).images = s.images := rfl
@[simp] theorem State.setHome_cy (s : State) (h : BitVec 3) (x : Home) : (s.setHome h x).cy = s.cy := rfl
@[simp] theorem State.setHome_devtime (s : State) (h : BitVec 3) (x : Home) : (s.setHome h x).devtime = s.devtime := rfl
@[simp] theorem State.setHome_tickcnt (s : State) (h : BitVec 3) (x : Home) : (s.setHome h x).tickcnt = s.tickcnt := rfl
@[simp] theorem State.setHome_tDomain (s : State) (h : BitVec 3) (x : Home) : (s.setHome h x).tDomain = s.tDomain := rfl
@[simp] theorem State.setHome_tDelay (s : State) (h : BitVec 3) (x : Home) : (s.setHome h x).tDelay = s.tDelay := rfl
@[simp] theorem State.setHome_tEn (s : State) (h : BitVec 3) (x : Home) : (s.setHome h x).tEn = s.tEn := rfl
@[simp] theorem State.setHome_tValid (s : State) (h : BitVec 3) (x : Home) : (s.setHome h x).tValid = s.tValid := rfl
@[simp] theorem State.setHome_tLocked (s : State) (h : BitVec 3) (x : Home) : (s.setHome h x).tLocked = s.tLocked := rfl
@[simp] theorem State.setHome_tHoldover (s : State) (h : BitVec 3) (x : Home) : (s.setHome h x).tHoldover = s.tHoldover := rfl
@[simp] theorem State.setHome_tStepped (s : State) (h : BitVec 3) (x : Home) : (s.setHome h x).tStepped = s.tStepped := rfl
@[simp] theorem State.setHome_tOffset (s : State) (h : BitVec 3) (x : Home) : (s.setHome h x).tOffset = s.tOffset := rfl
@[simp] theorem State.setHome_tSlew (s : State) (h : BitVec 3) (x : Home) : (s.setHome h x).tSlew = s.tSlew := rfl
@[simp] theorem State.setHome_tOwe (s : State) (h : BitVec 3) (x : Home) : (s.setHome h x).tOwe = s.tOwe := rfl
@[simp] theorem State.setHome_budget (s : State) (h : BitVec 3) (x : Home) : (s.setHome h x).budget = s.budget := rfl
@[simp] theorem State.setHome_budgetLock (s : State) (h : BitVec 3) (x : Home) : (s.setHome h x).budgetLock = s.budgetLock := rfl
@[simp] theorem State.setHome_held (s : State) (h : BitVec 3) (x : Home) : (s.setHome h x).held = s.held := rfl
@[simp] theorem State.setHome_heldAt (s : State) (h : BitVec 3) (x : Home) : (s.setHome h x).heldAt = s.heldAt := rfl
@[simp] theorem State.setHome_hot (s : State) (h : BitVec 3) (x : Home) : (s.setHome h x).hot = s.hot := rfl
@[simp] theorem State.setHome_hot110 (s : State) (h : BitVec 3) (x : Home) : (s.setHome h x).hot110 = s.hot110 := rfl
@[simp] theorem State.setHome_railsOff (s : State) (h : BitVec 3) (x : Home) : (s.setHome h x).railsOff = s.railsOff := rfl
@[simp] theorem State.setHome_warn (s : State) (h : BitVec 3) (x : Home) : (s.setHome h x).warn = s.warn := rfl
@[simp] theorem State.setHome_corrected (s : State) (h : BitVec 3) (x : Home) : (s.setHome h x).corrected = s.corrected := rfl
@[simp] theorem State.setHome_tileCorrected (s : State) (h : BitVec 3) (x : Home) : (s.setHome h x).tileCorrected = s.tileCorrected := rfl
@[simp] theorem State.setHome_scrubPass (s : State) (h : BitVec 3) (x : Home) : (s.setHome h x).scrubPass = s.scrubPass := rfl
@[simp] theorem State.setHome_scrubPos (s : State) (h : BitVec 3) (x : Home) : (s.setHome h x).scrubPos = s.scrubPos := rfl
@[simp] theorem State.setHome_scrubLine (s : State) (h : BitVec 3) (x : Home) : (s.setHome h x).scrubLine = s.scrubLine := rfl
@[simp] theorem State.setHome_cxl (s : State) (h : BitVec 3) (x : Home) : (s.setHome h x).cxl = s.cxl := rfl
@[simp] theorem State.setHome_fns (s : State) (h : BitVec 3) (x : Home) : (s.setHome h x).fns = s.fns := rfl
@[simp] theorem State.setHome_qfunc (s : State) (h : BitVec 3) (x : Home) : (s.setHome h x).qfunc = s.qfunc := rfl
@[simp] theorem State.setHome_queues (s : State) (h : BitVec 3) (x : Home) : (s.setHome h x).queues = s.queues := rfl
@[simp] theorem State.setHome_rings (s : State) (h : BitVec 3) (x : Home) : (s.setHome h x).rings = s.rings := rfl
@[simp] theorem State.setHome_progs (s : State) (h : BitVec 3) (x : Home) : (s.setHome h x).progs = s.progs := rfl
@[simp] theorem State.setHome_progAddr (s : State) (h : BitVec 3) (x : Home) : (s.setHome h x).progAddr = s.progAddr := rfl
@[simp] theorem State.setHome_progSlot (s : State) (h : BitVec 3) (x : Home) : (s.setHome h x).progSlot = s.progSlot := rfl
@[simp] theorem State.setHome_progWord (s : State) (h : BitVec 3) (x : Home) : (s.setHome h x).progWord = s.progWord := rfl
@[simp] theorem State.setHome_progBusy (s : State) (h : BitVec 3) (x : Home) : (s.setHome h x).progBusy = s.progBusy := rfl
@[simp] theorem State.setHome_hostFails (s : State) (h : BitVec 3) (x : Home) : (s.setHome h x).hostFails = s.hostFails := rfl
@[simp] theorem State.setHome_progCode (s : State) (h : BitVec 3) (x : Home) : (s.setHome h x).progCode = s.progCode := rfl
@[simp] theorem State.setHome_interps (s : State) (h : BitVec 3) (x : Home) : (s.setHome h x).interps = s.interps := rfl
@[simp] theorem State.setHome_rotClass (s : State) (h : BitVec 3) (x : Home) : (s.setHome h x).rotClass = s.rotClass := rfl
@[simp] theorem State.setHome_rotGiven (s : State) (h : BitVec 3) (x : Home) : (s.setHome h x).rotGiven = s.rotGiven := rfl
@[simp] theorem State.setHome_rotQueue (s : State) (h : BitVec 3) (x : Home) : (s.setHome h x).rotQueue = s.rotQueue := rfl
@[simp] theorem State.setHome_flashA (s : State) (h : BitVec 3) (x : Home) : (s.setHome h x).flashA = s.flashA := rfl
@[simp] theorem State.setHome_flashB (s : State) (h : BitVec 3) (x : Home) : (s.setHome h x).flashB = s.flashB := rfl
@[simp] theorem State.setHome_flashDcA (s : State) (h : BitVec 3) (x : Home) : (s.setHome h x).flashDcA = s.flashDcA := rfl
@[simp] theorem State.setHome_flashDcB (s : State) (h : BitVec 3) (x : Home) : (s.setHome h x).flashDcB = s.flashDcB := rfl
@[simp] theorem State.setHome_certChain (s : State) (h : BitVec 3) (x : Home) : (s.setHome h x).certChain = s.certChain := rfl
@[simp] theorem State.setHome_keyHash0 (s : State) (h : BitVec 3) (x : Home) : (s.setHome h x).keyHash0 = s.keyHash0 := rfl
@[simp] theorem State.setHome_keyHash1 (s : State) (h : BitVec 3) (x : Home) : (s.setHome h x).keyHash1 = s.keyHash1 := rfl
@[simp] theorem State.setHome_revoked0 (s : State) (h : BitVec 3) (x : Home) : (s.setHome h x).revoked0 = s.revoked0 := rfl
@[simp] theorem State.setHome_floorIo (s : State) (h : BitVec 3) (x : Home) : (s.setHome h x).floorIo = s.floorIo := rfl
@[simp] theorem State.setHome_floorDc (s : State) (h : BitVec 3) (x : Home) : (s.setHome h x).floorDc = s.floorDc := rfl
@[simp] theorem State.setHome_bootCode (s : State) (h : BitVec 3) (x : Home) : (s.setHome h x).bootCode = s.bootCode := rfl
@[simp] theorem State.setHome_bootB (s : State) (h : BitVec 3) (x : Home) : (s.setHome h x).bootB = s.bootB := rfl
@[simp] theorem State.setHome_recovery (s : State) (h : BitVec 3) (x : Home) : (s.setHome h x).recovery = s.recovery := rfl
@[simp] theorem State.setHome_svnIo (s : State) (h : BitVec 3) (x : Home) : (s.setHome h x).svnIo = s.svnIo := rfl
@[simp] theorem State.setHome_mreg (s : State) (h : BitVec 3) (x : Home) : (s.setHome h x).mreg = s.mreg := rfl
@[simp] theorem State.setHome_mextData (s : State) (h : BitVec 3) (x : Home) : (s.setHome h x).mextData = s.mextData := rfl
@[simp] theorem State.setHome_mextCode (s : State) (h : BitVec 3) (x : Home) : (s.setHome h x).mextCode = s.mextCode := rfl
@[simp] theorem State.setHome_mextGo (s : State) (h : BitVec 3) (x : Home) : (s.setHome h x).mextGo = s.mextGo := rfl
@[simp] theorem State.setHome_mextIdx (s : State) (h : BitVec 3) (x : Home) : (s.setHome h x).mextIdx = s.mextIdx := rfl
@[simp] theorem State.setHome_debug (s : State) (h : BitVec 3) (x : Home) : (s.setHome h x).debug = s.debug := rfl
@[simp] theorem State.setHome_chans (s : State) (h : BitVec 3) (x : Home) : (s.setHome h x).chans = s.chans := rfl
@[simp] theorem State.setHome_pkgid (s : State) (h : BitVec 3) (x : Home) : (s.setHome h x).pkgid = s.pkgid := rfl
@[simp] theorem State.setHome_ports (s : State) (h : BitVec 3) (x : Home) : (s.setHome h x).ports = s.ports := rfl
@[simp] theorem State.setHome_route (s : State) (h : BitVec 3) (x : Home) : (s.setHome h x).route = s.route := rfl
@[simp] theorem State.setHome_homemap (s : State) (h : BitVec 3) (x : Home) : (s.setHome h x).homemap = s.homemap := rfl
@[simp] theorem State.setHome_dirSets (s : State) (h : BitVec 3) (x : Home) : (s.setHome h x).dirSets = s.dirSets := rfl
@[simp] theorem State.setHome_dirBase (s : State) (h : BitVec 3) (x : Home) : (s.setHome h x).dirBase = s.dirBase := rfl
@[simp] theorem State.setHome_dirEn (s : State) (h : BitVec 3) (x : Home) : (s.setHome h x).dirEn = s.dirEn := rfl
@[simp] theorem State.setHome_dirReqs (s : State) (h : BitVec 3) (x : Home) : (s.setHome h x).dirReqs = s.dirReqs := rfl
@[simp] theorem State.setHome_dirTag (s : State) (h : BitVec 3) (x : Home) : (s.setHome h x).dirTag = s.dirTag := rfl
@[simp] theorem State.setHome_repl (s : State) (h : BitVec 3) (x : Home) : (s.setHome h x).repl = s.repl := rfl
@[simp] theorem State.setHome_collReady (s : State) (h : BitVec 3) (x : Home) : (s.setHome h x).collReady = s.collReady := rfl
@[simp] theorem State.setHome_launches (s : State) (h : BitVec 3) (x : Home) : (s.setHome h x).launches = s.launches := rfl
@[simp] theorem State.setHome_tenants (s : State) (h : BitVec 3) (x : Home) : (s.setHome h x).tenants = s.tenants := rfl
@[simp] theorem State.setHome_gangTime (s : State) (h : BitVec 3) (x : Home) : (s.setHome h x).gangTime = s.gangTime := rfl
@[simp] theorem State.setHome_gangSet (s : State) (h : BitVec 3) (x : Home) : (s.setHome h x).gangSet = s.gangSet := rfl
@[simp] theorem State.setHome_gangDone (s : State) (h : BitVec 3) (x : Home) : (s.setHome h x).gangDone = s.gangDone := rfl
@[simp] theorem State.setHome_gangArmed (s : State) (h : BitVec 3) (x : Home) : (s.setHome h x).gangArmed = s.gangArmed := rfl
@[simp] theorem State.setHome_resBase (s : State) (h : BitVec 3) (x : Home) : (s.setHome h x).resBase = s.resBase := rfl
@[simp] theorem State.setHome_resHandle (s : State) (h : BitVec 3) (x : Home) : (s.setHome h x).resHandle = s.resHandle := rfl
@[simp] theorem State.setHome_resGo (s : State) (h : BitVec 3) (x : Home) : (s.setHome h x).resGo = s.resGo := rfl
@[simp] theorem State.setHome_resCode (s : State) (h : BitVec 3) (x : Home) : (s.setHome h x).resCode = s.resCode := rfl
@[simp] theorem State.setHome_resOp (s : State) (h : BitVec 3) (x : Home) : (s.setHome h x).resOp = s.resOp := rfl
@[simp] theorem State.setHome_resRunHandle (s : State) (h : BitVec 3) (x : Home) : (s.setHome h x).resRunHandle = s.resRunHandle := rfl
@[simp] theorem State.setHome_resRunOp (s : State) (h : BitVec 3) (x : Home) : (s.setHome h x).resRunOp = s.resRunOp := rfl
@[simp] theorem State.setHome_resPool (s : State) (h : BitVec 3) (x : Home) : (s.setHome h x).resPool = s.resPool := rfl
@[simp] theorem State.setHome_resCxl (s : State) (h : BitVec 3) (x : Home) : (s.setHome h x).resCxl = s.resCxl := rfl
@[simp] theorem State.setHome_resMoves (s : State) (h : BitVec 3) (x : Home) : (s.setHome h x).resMoves = s.resMoves := rfl
@[simp] theorem State.setHome_resLat (s : State) (h : BitVec 3) (x : Home) : (s.setHome h x).resLat = s.resLat := rfl
@[simp] theorem State.setHome_sdAddr (s : State) (h : BitVec 3) (x : Home) : (s.setHome h x).sdAddr = s.sdAddr := rfl
@[simp] theorem State.setHome_sdCtx (s : State) (h : BitVec 3) (x : Home) : (s.setHome h x).sdCtx = s.sdCtx := rfl
@[simp] theorem State.setHome_sdGo (s : State) (h : BitVec 3) (x : Home) : (s.setHome h x).sdGo = s.sdGo := rfl
@[simp] theorem State.setHome_sdCode (s : State) (h : BitVec 3) (x : Home) : (s.setHome h x).sdCode = s.sdCode := rfl
@[simp] theorem State.setHome_sdScope (s : State) (h : BitVec 3) (x : Home) : (s.setHome h x).sdScope = s.sdScope := rfl
@[simp] theorem State.setHome_sds (s : State) (h : BitVec 3) (x : Home) : (s.setHome h x).sds = s.sds := rfl
@[simp] theorem State.setHome_nsAddr (s : State) (h : BitVec 3) (x : Home) : (s.setHome h x).nsAddr = s.nsAddr := rfl
@[simp] theorem State.setHome_nsNsid (s : State) (h : BitVec 3) (x : Home) : (s.setHome h x).nsNsid = s.nsNsid := rfl
@[simp] theorem State.setHome_nsGo (s : State) (h : BitVec 3) (x : Home) : (s.setHome h x).nsGo = s.nsGo := rfl
@[simp] theorem State.setHome_nsCode (s : State) (h : BitVec 3) (x : Home) : (s.setHome h x).nsCode = s.nsCode := rfl
@[simp] theorem State.setHome_nsOp (s : State) (h : BitVec 3) (x : Home) : (s.setHome h x).nsOp = s.nsOp := rfl
@[simp] theorem State.setHome_nsRunNsid (s : State) (h : BitVec 3) (x : Home) : (s.setHome h x).nsRunNsid = s.nsRunNsid := rfl
@[simp] theorem State.setHome_nsRunOp (s : State) (h : BitVec 3) (x : Home) : (s.setHome h x).nsRunOp = s.nsRunOp := rfl
@[simp] theorem State.setHome_nss (s : State) (h : BitVec 3) (x : Home) : (s.setHome h x).nss = s.nss := rfl
@[simp] theorem State.setHome_idxLog (s : State) (h : BitVec 3) (x : Home) : (s.setHome h x).idxLog = s.idxLog := rfl
@[simp] theorem State.setHome_idxBase (s : State) (h : BitVec 3) (x : Home) : (s.setHome h x).idxBase = s.idxBase := rfl
@[simp] theorem State.setHome_pools (s : State) (h : BitVec 3) (x : Home) : (s.setHome h x).pools = s.pools := rfl
@[simp] theorem State.setHome_nodes (s : State) (h : BitVec 3) (x : Home) : (s.setHome h x).nodes = s.nodes := rfl
@[simp] theorem State.setHome_index (s : State) (h : BitVec 3) (x : Home) : (s.setHome h x).index = s.index := rfl
@[simp] theorem State.setHome_errOvf (s : State) (h : BitVec 3) (x : Home) : (s.setHome h x).errOvf = s.errOvf := rfl
@[simp] theorem State.setHome_errLost (s : State) (h : BitVec 3) (x : Home) : (s.setHome h x).errLost = s.errLost := rfl
@[simp] theorem State.setHome_ckCfg (s : State) (h : BitVec 3) (x : Home) : (s.setHome h x).ckCfg = s.ckCfg := rfl

@[simp] theorem State.setCtx_agenda (s : State) (x : Ctx) : (s.setCtx x).agenda = s.agenda := rfl
@[simp] theorem State.setCtx_focus (s : State) (x : Ctx) : (s.setCtx x).focus = s.focus := rfl
@[simp] theorem State.setCtx_cur (s : State) (x : Ctx) : (s.setCtx x).cur = s.cur := rfl
@[simp] theorem State.setCtx_fresh (s : State) (x : Ctx) : (s.setCtx x).fresh = s.fresh := rfl
@[simp] theorem State.setCtx_nextId (s : State) (x : Ctx) : (s.setCtx x).nextId = s.nextId := rfl
@[simp] theorem State.setCtx_out (s : State) (x : Ctx) : (s.setCtx x).out = s.out := rfl
@[simp] theorem State.setCtx_mem (s : State) (x : Ctx) : (s.setCtx x).mem = s.mem := rfl
@[simp] theorem State.setCtx_poison (s : State) (x : Ctx) : (s.setCtx x).poison = s.poison := rfl
@[simp] theorem State.setCtx_lineKey (s : State) (x : Ctx) : (s.setCtx x).lineKey = s.lineKey := rfl
@[simp] theorem State.setCtx_keys (s : State) (x : Ctx) : (s.setCtx x).keys = s.keys := rfl
@[simp] theorem State.setCtx_gran (s : State) (x : Ctx) : (s.setCtx x).gran = s.gran := rfl
@[simp] theorem State.setCtx_homeDir (s : State) (x : Ctx) : (s.setCtx x).homeDir = s.homeDir := rfl
@[simp] theorem State.setCtx_tiles (s : State) (x : Ctx) : (s.setCtx x).tiles = s.tiles := rfl
@[simp] theorem State.setCtx_dies (s : State) (x : Ctx) : (s.setCtx x).dies = s.dies := rfl
@[simp] theorem State.setCtx_homes (s : State) (x : Ctx) : (s.setCtx x).homes = s.homes := rfl
@[simp] theorem State.setCtx_images (s : State) (x : Ctx) : (s.setCtx x).images = s.images := rfl
@[simp] theorem State.setCtx_cy (s : State) (x : Ctx) : (s.setCtx x).cy = s.cy := rfl
@[simp] theorem State.setCtx_devtime (s : State) (x : Ctx) : (s.setCtx x).devtime = s.devtime := rfl
@[simp] theorem State.setCtx_tickcnt (s : State) (x : Ctx) : (s.setCtx x).tickcnt = s.tickcnt := rfl
@[simp] theorem State.setCtx_tDomain (s : State) (x : Ctx) : (s.setCtx x).tDomain = s.tDomain := rfl
@[simp] theorem State.setCtx_tDelay (s : State) (x : Ctx) : (s.setCtx x).tDelay = s.tDelay := rfl
@[simp] theorem State.setCtx_tEn (s : State) (x : Ctx) : (s.setCtx x).tEn = s.tEn := rfl
@[simp] theorem State.setCtx_tValid (s : State) (x : Ctx) : (s.setCtx x).tValid = s.tValid := rfl
@[simp] theorem State.setCtx_tLocked (s : State) (x : Ctx) : (s.setCtx x).tLocked = s.tLocked := rfl
@[simp] theorem State.setCtx_tHoldover (s : State) (x : Ctx) : (s.setCtx x).tHoldover = s.tHoldover := rfl
@[simp] theorem State.setCtx_tStepped (s : State) (x : Ctx) : (s.setCtx x).tStepped = s.tStepped := rfl
@[simp] theorem State.setCtx_tOffset (s : State) (x : Ctx) : (s.setCtx x).tOffset = s.tOffset := rfl
@[simp] theorem State.setCtx_tSlew (s : State) (x : Ctx) : (s.setCtx x).tSlew = s.tSlew := rfl
@[simp] theorem State.setCtx_tOwe (s : State) (x : Ctx) : (s.setCtx x).tOwe = s.tOwe := rfl
@[simp] theorem State.setCtx_budget (s : State) (x : Ctx) : (s.setCtx x).budget = s.budget := rfl
@[simp] theorem State.setCtx_budgetLock (s : State) (x : Ctx) : (s.setCtx x).budgetLock = s.budgetLock := rfl
@[simp] theorem State.setCtx_held (s : State) (x : Ctx) : (s.setCtx x).held = s.held := rfl
@[simp] theorem State.setCtx_heldAt (s : State) (x : Ctx) : (s.setCtx x).heldAt = s.heldAt := rfl
@[simp] theorem State.setCtx_hot (s : State) (x : Ctx) : (s.setCtx x).hot = s.hot := rfl
@[simp] theorem State.setCtx_hot110 (s : State) (x : Ctx) : (s.setCtx x).hot110 = s.hot110 := rfl
@[simp] theorem State.setCtx_railsOff (s : State) (x : Ctx) : (s.setCtx x).railsOff = s.railsOff := rfl
@[simp] theorem State.setCtx_warn (s : State) (x : Ctx) : (s.setCtx x).warn = s.warn := rfl
@[simp] theorem State.setCtx_corrected (s : State) (x : Ctx) : (s.setCtx x).corrected = s.corrected := rfl
@[simp] theorem State.setCtx_tileCorrected (s : State) (x : Ctx) : (s.setCtx x).tileCorrected = s.tileCorrected := rfl
@[simp] theorem State.setCtx_scrubPass (s : State) (x : Ctx) : (s.setCtx x).scrubPass = s.scrubPass := rfl
@[simp] theorem State.setCtx_scrubPos (s : State) (x : Ctx) : (s.setCtx x).scrubPos = s.scrubPos := rfl
@[simp] theorem State.setCtx_scrubLine (s : State) (x : Ctx) : (s.setCtx x).scrubLine = s.scrubLine := rfl
@[simp] theorem State.setCtx_cxl (s : State) (x : Ctx) : (s.setCtx x).cxl = s.cxl := rfl
@[simp] theorem State.setCtx_fns (s : State) (x : Ctx) : (s.setCtx x).fns = s.fns := rfl
@[simp] theorem State.setCtx_qfunc (s : State) (x : Ctx) : (s.setCtx x).qfunc = s.qfunc := rfl
@[simp] theorem State.setCtx_queues (s : State) (x : Ctx) : (s.setCtx x).queues = s.queues := rfl
@[simp] theorem State.setCtx_rings (s : State) (x : Ctx) : (s.setCtx x).rings = s.rings := rfl
@[simp] theorem State.setCtx_progs (s : State) (x : Ctx) : (s.setCtx x).progs = s.progs := rfl
@[simp] theorem State.setCtx_progAddr (s : State) (x : Ctx) : (s.setCtx x).progAddr = s.progAddr := rfl
@[simp] theorem State.setCtx_progSlot (s : State) (x : Ctx) : (s.setCtx x).progSlot = s.progSlot := rfl
@[simp] theorem State.setCtx_progWord (s : State) (x : Ctx) : (s.setCtx x).progWord = s.progWord := rfl
@[simp] theorem State.setCtx_progBusy (s : State) (x : Ctx) : (s.setCtx x).progBusy = s.progBusy := rfl
@[simp] theorem State.setCtx_hostFails (s : State) (x : Ctx) : (s.setCtx x).hostFails = s.hostFails := rfl
@[simp] theorem State.setCtx_progCode (s : State) (x : Ctx) : (s.setCtx x).progCode = s.progCode := rfl
@[simp] theorem State.setCtx_interps (s : State) (x : Ctx) : (s.setCtx x).interps = s.interps := rfl
@[simp] theorem State.setCtx_rotClass (s : State) (x : Ctx) : (s.setCtx x).rotClass = s.rotClass := rfl
@[simp] theorem State.setCtx_rotGiven (s : State) (x : Ctx) : (s.setCtx x).rotGiven = s.rotGiven := rfl
@[simp] theorem State.setCtx_rotQueue (s : State) (x : Ctx) : (s.setCtx x).rotQueue = s.rotQueue := rfl
@[simp] theorem State.setCtx_flashA (s : State) (x : Ctx) : (s.setCtx x).flashA = s.flashA := rfl
@[simp] theorem State.setCtx_flashB (s : State) (x : Ctx) : (s.setCtx x).flashB = s.flashB := rfl
@[simp] theorem State.setCtx_flashDcA (s : State) (x : Ctx) : (s.setCtx x).flashDcA = s.flashDcA := rfl
@[simp] theorem State.setCtx_flashDcB (s : State) (x : Ctx) : (s.setCtx x).flashDcB = s.flashDcB := rfl
@[simp] theorem State.setCtx_certChain (s : State) (x : Ctx) : (s.setCtx x).certChain = s.certChain := rfl
@[simp] theorem State.setCtx_keyHash0 (s : State) (x : Ctx) : (s.setCtx x).keyHash0 = s.keyHash0 := rfl
@[simp] theorem State.setCtx_keyHash1 (s : State) (x : Ctx) : (s.setCtx x).keyHash1 = s.keyHash1 := rfl
@[simp] theorem State.setCtx_revoked0 (s : State) (x : Ctx) : (s.setCtx x).revoked0 = s.revoked0 := rfl
@[simp] theorem State.setCtx_floorIo (s : State) (x : Ctx) : (s.setCtx x).floorIo = s.floorIo := rfl
@[simp] theorem State.setCtx_floorDc (s : State) (x : Ctx) : (s.setCtx x).floorDc = s.floorDc := rfl
@[simp] theorem State.setCtx_bootCode (s : State) (x : Ctx) : (s.setCtx x).bootCode = s.bootCode := rfl
@[simp] theorem State.setCtx_bootB (s : State) (x : Ctx) : (s.setCtx x).bootB = s.bootB := rfl
@[simp] theorem State.setCtx_recovery (s : State) (x : Ctx) : (s.setCtx x).recovery = s.recovery := rfl
@[simp] theorem State.setCtx_svnIo (s : State) (x : Ctx) : (s.setCtx x).svnIo = s.svnIo := rfl
@[simp] theorem State.setCtx_mreg (s : State) (x : Ctx) : (s.setCtx x).mreg = s.mreg := rfl
@[simp] theorem State.setCtx_mextData (s : State) (x : Ctx) : (s.setCtx x).mextData = s.mextData := rfl
@[simp] theorem State.setCtx_mextCode (s : State) (x : Ctx) : (s.setCtx x).mextCode = s.mextCode := rfl
@[simp] theorem State.setCtx_mextGo (s : State) (x : Ctx) : (s.setCtx x).mextGo = s.mextGo := rfl
@[simp] theorem State.setCtx_mextIdx (s : State) (x : Ctx) : (s.setCtx x).mextIdx = s.mextIdx := rfl
@[simp] theorem State.setCtx_debug (s : State) (x : Ctx) : (s.setCtx x).debug = s.debug := rfl
@[simp] theorem State.setCtx_chans (s : State) (x : Ctx) : (s.setCtx x).chans = s.chans := rfl
@[simp] theorem State.setCtx_pkgid (s : State) (x : Ctx) : (s.setCtx x).pkgid = s.pkgid := rfl
@[simp] theorem State.setCtx_ports (s : State) (x : Ctx) : (s.setCtx x).ports = s.ports := rfl
@[simp] theorem State.setCtx_route (s : State) (x : Ctx) : (s.setCtx x).route = s.route := rfl
@[simp] theorem State.setCtx_homemap (s : State) (x : Ctx) : (s.setCtx x).homemap = s.homemap := rfl
@[simp] theorem State.setCtx_dirSets (s : State) (x : Ctx) : (s.setCtx x).dirSets = s.dirSets := rfl
@[simp] theorem State.setCtx_dirBase (s : State) (x : Ctx) : (s.setCtx x).dirBase = s.dirBase := rfl
@[simp] theorem State.setCtx_dirEn (s : State) (x : Ctx) : (s.setCtx x).dirEn = s.dirEn := rfl
@[simp] theorem State.setCtx_dirReqs (s : State) (x : Ctx) : (s.setCtx x).dirReqs = s.dirReqs := rfl
@[simp] theorem State.setCtx_dirTag (s : State) (x : Ctx) : (s.setCtx x).dirTag = s.dirTag := rfl
@[simp] theorem State.setCtx_repl (s : State) (x : Ctx) : (s.setCtx x).repl = s.repl := rfl
@[simp] theorem State.setCtx_collReady (s : State) (x : Ctx) : (s.setCtx x).collReady = s.collReady := rfl
@[simp] theorem State.setCtx_launches (s : State) (x : Ctx) : (s.setCtx x).launches = s.launches := rfl
@[simp] theorem State.setCtx_tenants (s : State) (x : Ctx) : (s.setCtx x).tenants = s.tenants := rfl
@[simp] theorem State.setCtx_gangTime (s : State) (x : Ctx) : (s.setCtx x).gangTime = s.gangTime := rfl
@[simp] theorem State.setCtx_gangSet (s : State) (x : Ctx) : (s.setCtx x).gangSet = s.gangSet := rfl
@[simp] theorem State.setCtx_gangDone (s : State) (x : Ctx) : (s.setCtx x).gangDone = s.gangDone := rfl
@[simp] theorem State.setCtx_gangArmed (s : State) (x : Ctx) : (s.setCtx x).gangArmed = s.gangArmed := rfl
@[simp] theorem State.setCtx_resBase (s : State) (x : Ctx) : (s.setCtx x).resBase = s.resBase := rfl
@[simp] theorem State.setCtx_resHandle (s : State) (x : Ctx) : (s.setCtx x).resHandle = s.resHandle := rfl
@[simp] theorem State.setCtx_resGo (s : State) (x : Ctx) : (s.setCtx x).resGo = s.resGo := rfl
@[simp] theorem State.setCtx_resCode (s : State) (x : Ctx) : (s.setCtx x).resCode = s.resCode := rfl
@[simp] theorem State.setCtx_resOp (s : State) (x : Ctx) : (s.setCtx x).resOp = s.resOp := rfl
@[simp] theorem State.setCtx_resRunHandle (s : State) (x : Ctx) : (s.setCtx x).resRunHandle = s.resRunHandle := rfl
@[simp] theorem State.setCtx_resRunOp (s : State) (x : Ctx) : (s.setCtx x).resRunOp = s.resRunOp := rfl
@[simp] theorem State.setCtx_resPool (s : State) (x : Ctx) : (s.setCtx x).resPool = s.resPool := rfl
@[simp] theorem State.setCtx_resCxl (s : State) (x : Ctx) : (s.setCtx x).resCxl = s.resCxl := rfl
@[simp] theorem State.setCtx_resMoves (s : State) (x : Ctx) : (s.setCtx x).resMoves = s.resMoves := rfl
@[simp] theorem State.setCtx_resLat (s : State) (x : Ctx) : (s.setCtx x).resLat = s.resLat := rfl
@[simp] theorem State.setCtx_sdAddr (s : State) (x : Ctx) : (s.setCtx x).sdAddr = s.sdAddr := rfl
@[simp] theorem State.setCtx_sdCtx (s : State) (x : Ctx) : (s.setCtx x).sdCtx = s.sdCtx := rfl
@[simp] theorem State.setCtx_sdGo (s : State) (x : Ctx) : (s.setCtx x).sdGo = s.sdGo := rfl
@[simp] theorem State.setCtx_sdCode (s : State) (x : Ctx) : (s.setCtx x).sdCode = s.sdCode := rfl
@[simp] theorem State.setCtx_sdScope (s : State) (x : Ctx) : (s.setCtx x).sdScope = s.sdScope := rfl
@[simp] theorem State.setCtx_sds (s : State) (x : Ctx) : (s.setCtx x).sds = s.sds := rfl
@[simp] theorem State.setCtx_nsAddr (s : State) (x : Ctx) : (s.setCtx x).nsAddr = s.nsAddr := rfl
@[simp] theorem State.setCtx_nsNsid (s : State) (x : Ctx) : (s.setCtx x).nsNsid = s.nsNsid := rfl
@[simp] theorem State.setCtx_nsGo (s : State) (x : Ctx) : (s.setCtx x).nsGo = s.nsGo := rfl
@[simp] theorem State.setCtx_nsCode (s : State) (x : Ctx) : (s.setCtx x).nsCode = s.nsCode := rfl
@[simp] theorem State.setCtx_nsOp (s : State) (x : Ctx) : (s.setCtx x).nsOp = s.nsOp := rfl
@[simp] theorem State.setCtx_nsRunNsid (s : State) (x : Ctx) : (s.setCtx x).nsRunNsid = s.nsRunNsid := rfl
@[simp] theorem State.setCtx_nsRunOp (s : State) (x : Ctx) : (s.setCtx x).nsRunOp = s.nsRunOp := rfl
@[simp] theorem State.setCtx_nss (s : State) (x : Ctx) : (s.setCtx x).nss = s.nss := rfl
@[simp] theorem State.setCtx_idxLog (s : State) (x : Ctx) : (s.setCtx x).idxLog = s.idxLog := rfl
@[simp] theorem State.setCtx_idxBase (s : State) (x : Ctx) : (s.setCtx x).idxBase = s.idxBase := rfl
@[simp] theorem State.setCtx_pools (s : State) (x : Ctx) : (s.setCtx x).pools = s.pools := rfl
@[simp] theorem State.setCtx_nodes (s : State) (x : Ctx) : (s.setCtx x).nodes = s.nodes := rfl
@[simp] theorem State.setCtx_index (s : State) (x : Ctx) : (s.setCtx x).index = s.index := rfl
@[simp] theorem State.setCtx_errOvf (s : State) (x : Ctx) : (s.setCtx x).errOvf = s.errOvf := rfl
@[simp] theorem State.setCtx_errLost (s : State) (x : Ctx) : (s.setCtx x).errLost = s.errLost := rfl
@[simp] theorem State.setCtx_ckCfg (s : State) (x : Ctx) : (s.setCtx x).ckCfg = s.ckCfg := rfl

@[simp] theorem State.modCtx_agenda (s : State) (c : BitVec 16) (f : Ctx → Ctx) : (s.modCtx c f).agenda = s.agenda := by unfold State.modCtx; split <;> rfl
@[simp] theorem State.modCtx_focus (s : State) (c : BitVec 16) (f : Ctx → Ctx) : (s.modCtx c f).focus = s.focus := by unfold State.modCtx; split <;> rfl
@[simp] theorem State.modCtx_cur (s : State) (c : BitVec 16) (f : Ctx → Ctx) : (s.modCtx c f).cur = s.cur := by unfold State.modCtx; split <;> rfl
@[simp] theorem State.modCtx_fresh (s : State) (c : BitVec 16) (f : Ctx → Ctx) : (s.modCtx c f).fresh = s.fresh := by unfold State.modCtx; split <;> rfl
@[simp] theorem State.modCtx_nextId (s : State) (c : BitVec 16) (f : Ctx → Ctx) : (s.modCtx c f).nextId = s.nextId := by unfold State.modCtx; split <;> rfl
@[simp] theorem State.modCtx_out (s : State) (c : BitVec 16) (f : Ctx → Ctx) : (s.modCtx c f).out = s.out := by unfold State.modCtx; split <;> rfl
@[simp] theorem State.modCtx_mem (s : State) (c : BitVec 16) (f : Ctx → Ctx) : (s.modCtx c f).mem = s.mem := by unfold State.modCtx; split <;> rfl
@[simp] theorem State.modCtx_poison (s : State) (c : BitVec 16) (f : Ctx → Ctx) : (s.modCtx c f).poison = s.poison := by unfold State.modCtx; split <;> rfl
@[simp] theorem State.modCtx_lineKey (s : State) (c : BitVec 16) (f : Ctx → Ctx) : (s.modCtx c f).lineKey = s.lineKey := by unfold State.modCtx; split <;> rfl
@[simp] theorem State.modCtx_keys (s : State) (c : BitVec 16) (f : Ctx → Ctx) : (s.modCtx c f).keys = s.keys := by unfold State.modCtx; split <;> rfl
@[simp] theorem State.modCtx_gran (s : State) (c : BitVec 16) (f : Ctx → Ctx) : (s.modCtx c f).gran = s.gran := by unfold State.modCtx; split <;> rfl
@[simp] theorem State.modCtx_homeDir (s : State) (c : BitVec 16) (f : Ctx → Ctx) : (s.modCtx c f).homeDir = s.homeDir := by unfold State.modCtx; split <;> rfl
@[simp] theorem State.modCtx_tiles (s : State) (c : BitVec 16) (f : Ctx → Ctx) : (s.modCtx c f).tiles = s.tiles := by unfold State.modCtx; split <;> rfl
@[simp] theorem State.modCtx_dies (s : State) (c : BitVec 16) (f : Ctx → Ctx) : (s.modCtx c f).dies = s.dies := by unfold State.modCtx; split <;> rfl
@[simp] theorem State.modCtx_homes (s : State) (c : BitVec 16) (f : Ctx → Ctx) : (s.modCtx c f).homes = s.homes := by unfold State.modCtx; split <;> rfl
@[simp] theorem State.modCtx_images (s : State) (c : BitVec 16) (f : Ctx → Ctx) : (s.modCtx c f).images = s.images := by unfold State.modCtx; split <;> rfl
@[simp] theorem State.modCtx_cy (s : State) (c : BitVec 16) (f : Ctx → Ctx) : (s.modCtx c f).cy = s.cy := by unfold State.modCtx; split <;> rfl
@[simp] theorem State.modCtx_devtime (s : State) (c : BitVec 16) (f : Ctx → Ctx) : (s.modCtx c f).devtime = s.devtime := by unfold State.modCtx; split <;> rfl
@[simp] theorem State.modCtx_tickcnt (s : State) (c : BitVec 16) (f : Ctx → Ctx) : (s.modCtx c f).tickcnt = s.tickcnt := by unfold State.modCtx; split <;> rfl
@[simp] theorem State.modCtx_tDomain (s : State) (c : BitVec 16) (f : Ctx → Ctx) : (s.modCtx c f).tDomain = s.tDomain := by unfold State.modCtx; split <;> rfl
@[simp] theorem State.modCtx_tDelay (s : State) (c : BitVec 16) (f : Ctx → Ctx) : (s.modCtx c f).tDelay = s.tDelay := by unfold State.modCtx; split <;> rfl
@[simp] theorem State.modCtx_tEn (s : State) (c : BitVec 16) (f : Ctx → Ctx) : (s.modCtx c f).tEn = s.tEn := by unfold State.modCtx; split <;> rfl
@[simp] theorem State.modCtx_tValid (s : State) (c : BitVec 16) (f : Ctx → Ctx) : (s.modCtx c f).tValid = s.tValid := by unfold State.modCtx; split <;> rfl
@[simp] theorem State.modCtx_tLocked (s : State) (c : BitVec 16) (f : Ctx → Ctx) : (s.modCtx c f).tLocked = s.tLocked := by unfold State.modCtx; split <;> rfl
@[simp] theorem State.modCtx_tHoldover (s : State) (c : BitVec 16) (f : Ctx → Ctx) : (s.modCtx c f).tHoldover = s.tHoldover := by unfold State.modCtx; split <;> rfl
@[simp] theorem State.modCtx_tStepped (s : State) (c : BitVec 16) (f : Ctx → Ctx) : (s.modCtx c f).tStepped = s.tStepped := by unfold State.modCtx; split <;> rfl
@[simp] theorem State.modCtx_tOffset (s : State) (c : BitVec 16) (f : Ctx → Ctx) : (s.modCtx c f).tOffset = s.tOffset := by unfold State.modCtx; split <;> rfl
@[simp] theorem State.modCtx_tSlew (s : State) (c : BitVec 16) (f : Ctx → Ctx) : (s.modCtx c f).tSlew = s.tSlew := by unfold State.modCtx; split <;> rfl
@[simp] theorem State.modCtx_tOwe (s : State) (c : BitVec 16) (f : Ctx → Ctx) : (s.modCtx c f).tOwe = s.tOwe := by unfold State.modCtx; split <;> rfl
@[simp] theorem State.modCtx_budget (s : State) (c : BitVec 16) (f : Ctx → Ctx) : (s.modCtx c f).budget = s.budget := by unfold State.modCtx; split <;> rfl
@[simp] theorem State.modCtx_budgetLock (s : State) (c : BitVec 16) (f : Ctx → Ctx) : (s.modCtx c f).budgetLock = s.budgetLock := by unfold State.modCtx; split <;> rfl
@[simp] theorem State.modCtx_held (s : State) (c : BitVec 16) (f : Ctx → Ctx) : (s.modCtx c f).held = s.held := by unfold State.modCtx; split <;> rfl
@[simp] theorem State.modCtx_heldAt (s : State) (c : BitVec 16) (f : Ctx → Ctx) : (s.modCtx c f).heldAt = s.heldAt := by unfold State.modCtx; split <;> rfl
@[simp] theorem State.modCtx_hot (s : State) (c : BitVec 16) (f : Ctx → Ctx) : (s.modCtx c f).hot = s.hot := by unfold State.modCtx; split <;> rfl
@[simp] theorem State.modCtx_hot110 (s : State) (c : BitVec 16) (f : Ctx → Ctx) : (s.modCtx c f).hot110 = s.hot110 := by unfold State.modCtx; split <;> rfl
@[simp] theorem State.modCtx_railsOff (s : State) (c : BitVec 16) (f : Ctx → Ctx) : (s.modCtx c f).railsOff = s.railsOff := by unfold State.modCtx; split <;> rfl
@[simp] theorem State.modCtx_warn (s : State) (c : BitVec 16) (f : Ctx → Ctx) : (s.modCtx c f).warn = s.warn := by unfold State.modCtx; split <;> rfl
@[simp] theorem State.modCtx_corrected (s : State) (c : BitVec 16) (f : Ctx → Ctx) : (s.modCtx c f).corrected = s.corrected := by unfold State.modCtx; split <;> rfl
@[simp] theorem State.modCtx_tileCorrected (s : State) (c : BitVec 16) (f : Ctx → Ctx) : (s.modCtx c f).tileCorrected = s.tileCorrected := by unfold State.modCtx; split <;> rfl
@[simp] theorem State.modCtx_scrubPass (s : State) (c : BitVec 16) (f : Ctx → Ctx) : (s.modCtx c f).scrubPass = s.scrubPass := by unfold State.modCtx; split <;> rfl
@[simp] theorem State.modCtx_scrubPos (s : State) (c : BitVec 16) (f : Ctx → Ctx) : (s.modCtx c f).scrubPos = s.scrubPos := by unfold State.modCtx; split <;> rfl
@[simp] theorem State.modCtx_scrubLine (s : State) (c : BitVec 16) (f : Ctx → Ctx) : (s.modCtx c f).scrubLine = s.scrubLine := by unfold State.modCtx; split <;> rfl
@[simp] theorem State.modCtx_cxl (s : State) (c : BitVec 16) (f : Ctx → Ctx) : (s.modCtx c f).cxl = s.cxl := by unfold State.modCtx; split <;> rfl
@[simp] theorem State.modCtx_fns (s : State) (c : BitVec 16) (f : Ctx → Ctx) : (s.modCtx c f).fns = s.fns := by unfold State.modCtx; split <;> rfl
@[simp] theorem State.modCtx_qfunc (s : State) (c : BitVec 16) (f : Ctx → Ctx) : (s.modCtx c f).qfunc = s.qfunc := by unfold State.modCtx; split <;> rfl
@[simp] theorem State.modCtx_queues (s : State) (c : BitVec 16) (f : Ctx → Ctx) : (s.modCtx c f).queues = s.queues := by unfold State.modCtx; split <;> rfl
@[simp] theorem State.modCtx_rings (s : State) (c : BitVec 16) (f : Ctx → Ctx) : (s.modCtx c f).rings = s.rings := by unfold State.modCtx; split <;> rfl
@[simp] theorem State.modCtx_progs (s : State) (c : BitVec 16) (f : Ctx → Ctx) : (s.modCtx c f).progs = s.progs := by unfold State.modCtx; split <;> rfl
@[simp] theorem State.modCtx_progAddr (s : State) (c : BitVec 16) (f : Ctx → Ctx) : (s.modCtx c f).progAddr = s.progAddr := by unfold State.modCtx; split <;> rfl
@[simp] theorem State.modCtx_progSlot (s : State) (c : BitVec 16) (f : Ctx → Ctx) : (s.modCtx c f).progSlot = s.progSlot := by unfold State.modCtx; split <;> rfl
@[simp] theorem State.modCtx_progWord (s : State) (c : BitVec 16) (f : Ctx → Ctx) : (s.modCtx c f).progWord = s.progWord := by unfold State.modCtx; split <;> rfl
@[simp] theorem State.modCtx_progBusy (s : State) (c : BitVec 16) (f : Ctx → Ctx) : (s.modCtx c f).progBusy = s.progBusy := by unfold State.modCtx; split <;> rfl
@[simp] theorem State.modCtx_hostFails (s : State) (c : BitVec 16) (f : Ctx → Ctx) : (s.modCtx c f).hostFails = s.hostFails := by unfold State.modCtx; split <;> rfl
@[simp] theorem State.modCtx_progCode (s : State) (c : BitVec 16) (f : Ctx → Ctx) : (s.modCtx c f).progCode = s.progCode := by unfold State.modCtx; split <;> rfl
@[simp] theorem State.modCtx_interps (s : State) (c : BitVec 16) (f : Ctx → Ctx) : (s.modCtx c f).interps = s.interps := by unfold State.modCtx; split <;> rfl
@[simp] theorem State.modCtx_rotClass (s : State) (c : BitVec 16) (f : Ctx → Ctx) : (s.modCtx c f).rotClass = s.rotClass := by unfold State.modCtx; split <;> rfl
@[simp] theorem State.modCtx_rotGiven (s : State) (c : BitVec 16) (f : Ctx → Ctx) : (s.modCtx c f).rotGiven = s.rotGiven := by unfold State.modCtx; split <;> rfl
@[simp] theorem State.modCtx_rotQueue (s : State) (c : BitVec 16) (f : Ctx → Ctx) : (s.modCtx c f).rotQueue = s.rotQueue := by unfold State.modCtx; split <;> rfl
@[simp] theorem State.modCtx_flashA (s : State) (c : BitVec 16) (f : Ctx → Ctx) : (s.modCtx c f).flashA = s.flashA := by unfold State.modCtx; split <;> rfl
@[simp] theorem State.modCtx_flashB (s : State) (c : BitVec 16) (f : Ctx → Ctx) : (s.modCtx c f).flashB = s.flashB := by unfold State.modCtx; split <;> rfl
@[simp] theorem State.modCtx_flashDcA (s : State) (c : BitVec 16) (f : Ctx → Ctx) : (s.modCtx c f).flashDcA = s.flashDcA := by unfold State.modCtx; split <;> rfl
@[simp] theorem State.modCtx_flashDcB (s : State) (c : BitVec 16) (f : Ctx → Ctx) : (s.modCtx c f).flashDcB = s.flashDcB := by unfold State.modCtx; split <;> rfl
@[simp] theorem State.modCtx_certChain (s : State) (c : BitVec 16) (f : Ctx → Ctx) : (s.modCtx c f).certChain = s.certChain := by unfold State.modCtx; split <;> rfl
@[simp] theorem State.modCtx_keyHash0 (s : State) (c : BitVec 16) (f : Ctx → Ctx) : (s.modCtx c f).keyHash0 = s.keyHash0 := by unfold State.modCtx; split <;> rfl
@[simp] theorem State.modCtx_keyHash1 (s : State) (c : BitVec 16) (f : Ctx → Ctx) : (s.modCtx c f).keyHash1 = s.keyHash1 := by unfold State.modCtx; split <;> rfl
@[simp] theorem State.modCtx_revoked0 (s : State) (c : BitVec 16) (f : Ctx → Ctx) : (s.modCtx c f).revoked0 = s.revoked0 := by unfold State.modCtx; split <;> rfl
@[simp] theorem State.modCtx_floorIo (s : State) (c : BitVec 16) (f : Ctx → Ctx) : (s.modCtx c f).floorIo = s.floorIo := by unfold State.modCtx; split <;> rfl
@[simp] theorem State.modCtx_floorDc (s : State) (c : BitVec 16) (f : Ctx → Ctx) : (s.modCtx c f).floorDc = s.floorDc := by unfold State.modCtx; split <;> rfl
@[simp] theorem State.modCtx_bootCode (s : State) (c : BitVec 16) (f : Ctx → Ctx) : (s.modCtx c f).bootCode = s.bootCode := by unfold State.modCtx; split <;> rfl
@[simp] theorem State.modCtx_bootB (s : State) (c : BitVec 16) (f : Ctx → Ctx) : (s.modCtx c f).bootB = s.bootB := by unfold State.modCtx; split <;> rfl
@[simp] theorem State.modCtx_recovery (s : State) (c : BitVec 16) (f : Ctx → Ctx) : (s.modCtx c f).recovery = s.recovery := by unfold State.modCtx; split <;> rfl
@[simp] theorem State.modCtx_svnIo (s : State) (c : BitVec 16) (f : Ctx → Ctx) : (s.modCtx c f).svnIo = s.svnIo := by unfold State.modCtx; split <;> rfl
@[simp] theorem State.modCtx_mreg (s : State) (c : BitVec 16) (f : Ctx → Ctx) : (s.modCtx c f).mreg = s.mreg := by unfold State.modCtx; split <;> rfl
@[simp] theorem State.modCtx_mextData (s : State) (c : BitVec 16) (f : Ctx → Ctx) : (s.modCtx c f).mextData = s.mextData := by unfold State.modCtx; split <;> rfl
@[simp] theorem State.modCtx_mextCode (s : State) (c : BitVec 16) (f : Ctx → Ctx) : (s.modCtx c f).mextCode = s.mextCode := by unfold State.modCtx; split <;> rfl
@[simp] theorem State.modCtx_mextGo (s : State) (c : BitVec 16) (f : Ctx → Ctx) : (s.modCtx c f).mextGo = s.mextGo := by unfold State.modCtx; split <;> rfl
@[simp] theorem State.modCtx_mextIdx (s : State) (c : BitVec 16) (f : Ctx → Ctx) : (s.modCtx c f).mextIdx = s.mextIdx := by unfold State.modCtx; split <;> rfl
@[simp] theorem State.modCtx_debug (s : State) (c : BitVec 16) (f : Ctx → Ctx) : (s.modCtx c f).debug = s.debug := by unfold State.modCtx; split <;> rfl
@[simp] theorem State.modCtx_chans (s : State) (c : BitVec 16) (f : Ctx → Ctx) : (s.modCtx c f).chans = s.chans := by unfold State.modCtx; split <;> rfl
@[simp] theorem State.modCtx_pkgid (s : State) (c : BitVec 16) (f : Ctx → Ctx) : (s.modCtx c f).pkgid = s.pkgid := by unfold State.modCtx; split <;> rfl
@[simp] theorem State.modCtx_ports (s : State) (c : BitVec 16) (f : Ctx → Ctx) : (s.modCtx c f).ports = s.ports := by unfold State.modCtx; split <;> rfl
@[simp] theorem State.modCtx_route (s : State) (c : BitVec 16) (f : Ctx → Ctx) : (s.modCtx c f).route = s.route := by unfold State.modCtx; split <;> rfl
@[simp] theorem State.modCtx_homemap (s : State) (c : BitVec 16) (f : Ctx → Ctx) : (s.modCtx c f).homemap = s.homemap := by unfold State.modCtx; split <;> rfl
@[simp] theorem State.modCtx_dirSets (s : State) (c : BitVec 16) (f : Ctx → Ctx) : (s.modCtx c f).dirSets = s.dirSets := by unfold State.modCtx; split <;> rfl
@[simp] theorem State.modCtx_dirBase (s : State) (c : BitVec 16) (f : Ctx → Ctx) : (s.modCtx c f).dirBase = s.dirBase := by unfold State.modCtx; split <;> rfl
@[simp] theorem State.modCtx_dirEn (s : State) (c : BitVec 16) (f : Ctx → Ctx) : (s.modCtx c f).dirEn = s.dirEn := by unfold State.modCtx; split <;> rfl
@[simp] theorem State.modCtx_dirReqs (s : State) (c : BitVec 16) (f : Ctx → Ctx) : (s.modCtx c f).dirReqs = s.dirReqs := by unfold State.modCtx; split <;> rfl
@[simp] theorem State.modCtx_dirTag (s : State) (c : BitVec 16) (f : Ctx → Ctx) : (s.modCtx c f).dirTag = s.dirTag := by unfold State.modCtx; split <;> rfl
@[simp] theorem State.modCtx_repl (s : State) (c : BitVec 16) (f : Ctx → Ctx) : (s.modCtx c f).repl = s.repl := by unfold State.modCtx; split <;> rfl
@[simp] theorem State.modCtx_collReady (s : State) (c : BitVec 16) (f : Ctx → Ctx) : (s.modCtx c f).collReady = s.collReady := by unfold State.modCtx; split <;> rfl
@[simp] theorem State.modCtx_launches (s : State) (c : BitVec 16) (f : Ctx → Ctx) : (s.modCtx c f).launches = s.launches := by unfold State.modCtx; split <;> rfl
@[simp] theorem State.modCtx_tenants (s : State) (c : BitVec 16) (f : Ctx → Ctx) : (s.modCtx c f).tenants = s.tenants := by unfold State.modCtx; split <;> rfl
@[simp] theorem State.modCtx_gangTime (s : State) (c : BitVec 16) (f : Ctx → Ctx) : (s.modCtx c f).gangTime = s.gangTime := by unfold State.modCtx; split <;> rfl
@[simp] theorem State.modCtx_gangSet (s : State) (c : BitVec 16) (f : Ctx → Ctx) : (s.modCtx c f).gangSet = s.gangSet := by unfold State.modCtx; split <;> rfl
@[simp] theorem State.modCtx_gangDone (s : State) (c : BitVec 16) (f : Ctx → Ctx) : (s.modCtx c f).gangDone = s.gangDone := by unfold State.modCtx; split <;> rfl
@[simp] theorem State.modCtx_gangArmed (s : State) (c : BitVec 16) (f : Ctx → Ctx) : (s.modCtx c f).gangArmed = s.gangArmed := by unfold State.modCtx; split <;> rfl
@[simp] theorem State.modCtx_resBase (s : State) (c : BitVec 16) (f : Ctx → Ctx) : (s.modCtx c f).resBase = s.resBase := by unfold State.modCtx; split <;> rfl
@[simp] theorem State.modCtx_resHandle (s : State) (c : BitVec 16) (f : Ctx → Ctx) : (s.modCtx c f).resHandle = s.resHandle := by unfold State.modCtx; split <;> rfl
@[simp] theorem State.modCtx_resGo (s : State) (c : BitVec 16) (f : Ctx → Ctx) : (s.modCtx c f).resGo = s.resGo := by unfold State.modCtx; split <;> rfl
@[simp] theorem State.modCtx_resCode (s : State) (c : BitVec 16) (f : Ctx → Ctx) : (s.modCtx c f).resCode = s.resCode := by unfold State.modCtx; split <;> rfl
@[simp] theorem State.modCtx_resOp (s : State) (c : BitVec 16) (f : Ctx → Ctx) : (s.modCtx c f).resOp = s.resOp := by unfold State.modCtx; split <;> rfl
@[simp] theorem State.modCtx_resRunHandle (s : State) (c : BitVec 16) (f : Ctx → Ctx) : (s.modCtx c f).resRunHandle = s.resRunHandle := by unfold State.modCtx; split <;> rfl
@[simp] theorem State.modCtx_resRunOp (s : State) (c : BitVec 16) (f : Ctx → Ctx) : (s.modCtx c f).resRunOp = s.resRunOp := by unfold State.modCtx; split <;> rfl
@[simp] theorem State.modCtx_resPool (s : State) (c : BitVec 16) (f : Ctx → Ctx) : (s.modCtx c f).resPool = s.resPool := by unfold State.modCtx; split <;> rfl
@[simp] theorem State.modCtx_resCxl (s : State) (c : BitVec 16) (f : Ctx → Ctx) : (s.modCtx c f).resCxl = s.resCxl := by unfold State.modCtx; split <;> rfl
@[simp] theorem State.modCtx_resMoves (s : State) (c : BitVec 16) (f : Ctx → Ctx) : (s.modCtx c f).resMoves = s.resMoves := by unfold State.modCtx; split <;> rfl
@[simp] theorem State.modCtx_resLat (s : State) (c : BitVec 16) (f : Ctx → Ctx) : (s.modCtx c f).resLat = s.resLat := by unfold State.modCtx; split <;> rfl
@[simp] theorem State.modCtx_sdAddr (s : State) (c : BitVec 16) (f : Ctx → Ctx) : (s.modCtx c f).sdAddr = s.sdAddr := by unfold State.modCtx; split <;> rfl
@[simp] theorem State.modCtx_sdCtx (s : State) (c : BitVec 16) (f : Ctx → Ctx) : (s.modCtx c f).sdCtx = s.sdCtx := by unfold State.modCtx; split <;> rfl
@[simp] theorem State.modCtx_sdGo (s : State) (c : BitVec 16) (f : Ctx → Ctx) : (s.modCtx c f).sdGo = s.sdGo := by unfold State.modCtx; split <;> rfl
@[simp] theorem State.modCtx_sdCode (s : State) (c : BitVec 16) (f : Ctx → Ctx) : (s.modCtx c f).sdCode = s.sdCode := by unfold State.modCtx; split <;> rfl
@[simp] theorem State.modCtx_sdScope (s : State) (c : BitVec 16) (f : Ctx → Ctx) : (s.modCtx c f).sdScope = s.sdScope := by unfold State.modCtx; split <;> rfl
@[simp] theorem State.modCtx_sds (s : State) (c : BitVec 16) (f : Ctx → Ctx) : (s.modCtx c f).sds = s.sds := by unfold State.modCtx; split <;> rfl
@[simp] theorem State.modCtx_nsAddr (s : State) (c : BitVec 16) (f : Ctx → Ctx) : (s.modCtx c f).nsAddr = s.nsAddr := by unfold State.modCtx; split <;> rfl
@[simp] theorem State.modCtx_nsNsid (s : State) (c : BitVec 16) (f : Ctx → Ctx) : (s.modCtx c f).nsNsid = s.nsNsid := by unfold State.modCtx; split <;> rfl
@[simp] theorem State.modCtx_nsGo (s : State) (c : BitVec 16) (f : Ctx → Ctx) : (s.modCtx c f).nsGo = s.nsGo := by unfold State.modCtx; split <;> rfl
@[simp] theorem State.modCtx_nsCode (s : State) (c : BitVec 16) (f : Ctx → Ctx) : (s.modCtx c f).nsCode = s.nsCode := by unfold State.modCtx; split <;> rfl
@[simp] theorem State.modCtx_nsOp (s : State) (c : BitVec 16) (f : Ctx → Ctx) : (s.modCtx c f).nsOp = s.nsOp := by unfold State.modCtx; split <;> rfl
@[simp] theorem State.modCtx_nsRunNsid (s : State) (c : BitVec 16) (f : Ctx → Ctx) : (s.modCtx c f).nsRunNsid = s.nsRunNsid := by unfold State.modCtx; split <;> rfl
@[simp] theorem State.modCtx_nsRunOp (s : State) (c : BitVec 16) (f : Ctx → Ctx) : (s.modCtx c f).nsRunOp = s.nsRunOp := by unfold State.modCtx; split <;> rfl
@[simp] theorem State.modCtx_nss (s : State) (c : BitVec 16) (f : Ctx → Ctx) : (s.modCtx c f).nss = s.nss := by unfold State.modCtx; split <;> rfl
@[simp] theorem State.modCtx_idxLog (s : State) (c : BitVec 16) (f : Ctx → Ctx) : (s.modCtx c f).idxLog = s.idxLog := by unfold State.modCtx; split <;> rfl
@[simp] theorem State.modCtx_idxBase (s : State) (c : BitVec 16) (f : Ctx → Ctx) : (s.modCtx c f).idxBase = s.idxBase := by unfold State.modCtx; split <;> rfl
@[simp] theorem State.modCtx_pools (s : State) (c : BitVec 16) (f : Ctx → Ctx) : (s.modCtx c f).pools = s.pools := by unfold State.modCtx; split <;> rfl
@[simp] theorem State.modCtx_nodes (s : State) (c : BitVec 16) (f : Ctx → Ctx) : (s.modCtx c f).nodes = s.nodes := by unfold State.modCtx; split <;> rfl
@[simp] theorem State.modCtx_index (s : State) (c : BitVec 16) (f : Ctx → Ctx) : (s.modCtx c f).index = s.index := by unfold State.modCtx; split <;> rfl
@[simp] theorem State.modCtx_errOvf (s : State) (c : BitVec 16) (f : Ctx → Ctx) : (s.modCtx c f).errOvf = s.errOvf := by unfold State.modCtx; split <;> rfl
@[simp] theorem State.modCtx_errLost (s : State) (c : BitVec 16) (f : Ctx → Ctx) : (s.modCtx c f).errLost = s.errLost := by unfold State.modCtx; split <;> rfl
@[simp] theorem State.modCtx_ckCfg (s : State) (c : BitVec 16) (f : Ctx → Ctx) : (s.modCtx c f).ckCfg = s.ckCfg := by unfold State.modCtx; split <;> rfl

@[simp] theorem State.setLaunch_agenda (s : State) (l : Launch) : (s.setLaunch l).agenda = s.agenda := rfl
@[simp] theorem State.setLaunch_focus (s : State) (l : Launch) : (s.setLaunch l).focus = s.focus := rfl
@[simp] theorem State.setLaunch_cur (s : State) (l : Launch) : (s.setLaunch l).cur = s.cur := rfl
@[simp] theorem State.setLaunch_fresh (s : State) (l : Launch) : (s.setLaunch l).fresh = s.fresh := rfl
@[simp] theorem State.setLaunch_nextId (s : State) (l : Launch) : (s.setLaunch l).nextId = s.nextId := rfl
@[simp] theorem State.setLaunch_out (s : State) (l : Launch) : (s.setLaunch l).out = s.out := rfl
@[simp] theorem State.setLaunch_mem (s : State) (l : Launch) : (s.setLaunch l).mem = s.mem := rfl
@[simp] theorem State.setLaunch_poison (s : State) (l : Launch) : (s.setLaunch l).poison = s.poison := rfl
@[simp] theorem State.setLaunch_lineKey (s : State) (l : Launch) : (s.setLaunch l).lineKey = s.lineKey := rfl
@[simp] theorem State.setLaunch_keys (s : State) (l : Launch) : (s.setLaunch l).keys = s.keys := rfl
@[simp] theorem State.setLaunch_gran (s : State) (l : Launch) : (s.setLaunch l).gran = s.gran := rfl
@[simp] theorem State.setLaunch_homeDir (s : State) (l : Launch) : (s.setLaunch l).homeDir = s.homeDir := rfl
@[simp] theorem State.setLaunch_tiles (s : State) (l : Launch) : (s.setLaunch l).tiles = s.tiles := rfl
@[simp] theorem State.setLaunch_dies (s : State) (l : Launch) : (s.setLaunch l).dies = s.dies := rfl
@[simp] theorem State.setLaunch_homes (s : State) (l : Launch) : (s.setLaunch l).homes = s.homes := rfl
@[simp] theorem State.setLaunch_ctxs (s : State) (l : Launch) : (s.setLaunch l).ctxs = s.ctxs := rfl
@[simp] theorem State.setLaunch_images (s : State) (l : Launch) : (s.setLaunch l).images = s.images := rfl
@[simp] theorem State.setLaunch_cy (s : State) (l : Launch) : (s.setLaunch l).cy = s.cy := rfl
@[simp] theorem State.setLaunch_devtime (s : State) (l : Launch) : (s.setLaunch l).devtime = s.devtime := rfl
@[simp] theorem State.setLaunch_tickcnt (s : State) (l : Launch) : (s.setLaunch l).tickcnt = s.tickcnt := rfl
@[simp] theorem State.setLaunch_tDomain (s : State) (l : Launch) : (s.setLaunch l).tDomain = s.tDomain := rfl
@[simp] theorem State.setLaunch_tDelay (s : State) (l : Launch) : (s.setLaunch l).tDelay = s.tDelay := rfl
@[simp] theorem State.setLaunch_tEn (s : State) (l : Launch) : (s.setLaunch l).tEn = s.tEn := rfl
@[simp] theorem State.setLaunch_tValid (s : State) (l : Launch) : (s.setLaunch l).tValid = s.tValid := rfl
@[simp] theorem State.setLaunch_tLocked (s : State) (l : Launch) : (s.setLaunch l).tLocked = s.tLocked := rfl
@[simp] theorem State.setLaunch_tHoldover (s : State) (l : Launch) : (s.setLaunch l).tHoldover = s.tHoldover := rfl
@[simp] theorem State.setLaunch_tStepped (s : State) (l : Launch) : (s.setLaunch l).tStepped = s.tStepped := rfl
@[simp] theorem State.setLaunch_tOffset (s : State) (l : Launch) : (s.setLaunch l).tOffset = s.tOffset := rfl
@[simp] theorem State.setLaunch_tSlew (s : State) (l : Launch) : (s.setLaunch l).tSlew = s.tSlew := rfl
@[simp] theorem State.setLaunch_tOwe (s : State) (l : Launch) : (s.setLaunch l).tOwe = s.tOwe := rfl
@[simp] theorem State.setLaunch_budget (s : State) (l : Launch) : (s.setLaunch l).budget = s.budget := rfl
@[simp] theorem State.setLaunch_budgetLock (s : State) (l : Launch) : (s.setLaunch l).budgetLock = s.budgetLock := rfl
@[simp] theorem State.setLaunch_held (s : State) (l : Launch) : (s.setLaunch l).held = s.held := rfl
@[simp] theorem State.setLaunch_heldAt (s : State) (l : Launch) : (s.setLaunch l).heldAt = s.heldAt := rfl
@[simp] theorem State.setLaunch_hot (s : State) (l : Launch) : (s.setLaunch l).hot = s.hot := rfl
@[simp] theorem State.setLaunch_hot110 (s : State) (l : Launch) : (s.setLaunch l).hot110 = s.hot110 := rfl
@[simp] theorem State.setLaunch_railsOff (s : State) (l : Launch) : (s.setLaunch l).railsOff = s.railsOff := rfl
@[simp] theorem State.setLaunch_warn (s : State) (l : Launch) : (s.setLaunch l).warn = s.warn := rfl
@[simp] theorem State.setLaunch_corrected (s : State) (l : Launch) : (s.setLaunch l).corrected = s.corrected := rfl
@[simp] theorem State.setLaunch_tileCorrected (s : State) (l : Launch) : (s.setLaunch l).tileCorrected = s.tileCorrected := rfl
@[simp] theorem State.setLaunch_scrubPass (s : State) (l : Launch) : (s.setLaunch l).scrubPass = s.scrubPass := rfl
@[simp] theorem State.setLaunch_scrubPos (s : State) (l : Launch) : (s.setLaunch l).scrubPos = s.scrubPos := rfl
@[simp] theorem State.setLaunch_scrubLine (s : State) (l : Launch) : (s.setLaunch l).scrubLine = s.scrubLine := rfl
@[simp] theorem State.setLaunch_cxl (s : State) (l : Launch) : (s.setLaunch l).cxl = s.cxl := rfl
@[simp] theorem State.setLaunch_fns (s : State) (l : Launch) : (s.setLaunch l).fns = s.fns := rfl
@[simp] theorem State.setLaunch_qfunc (s : State) (l : Launch) : (s.setLaunch l).qfunc = s.qfunc := rfl
@[simp] theorem State.setLaunch_queues (s : State) (l : Launch) : (s.setLaunch l).queues = s.queues := rfl
@[simp] theorem State.setLaunch_rings (s : State) (l : Launch) : (s.setLaunch l).rings = s.rings := rfl
@[simp] theorem State.setLaunch_progs (s : State) (l : Launch) : (s.setLaunch l).progs = s.progs := rfl
@[simp] theorem State.setLaunch_progAddr (s : State) (l : Launch) : (s.setLaunch l).progAddr = s.progAddr := rfl
@[simp] theorem State.setLaunch_progSlot (s : State) (l : Launch) : (s.setLaunch l).progSlot = s.progSlot := rfl
@[simp] theorem State.setLaunch_progWord (s : State) (l : Launch) : (s.setLaunch l).progWord = s.progWord := rfl
@[simp] theorem State.setLaunch_progBusy (s : State) (l : Launch) : (s.setLaunch l).progBusy = s.progBusy := rfl
@[simp] theorem State.setLaunch_hostFails (s : State) (l : Launch) : (s.setLaunch l).hostFails = s.hostFails := rfl
@[simp] theorem State.setLaunch_progCode (s : State) (l : Launch) : (s.setLaunch l).progCode = s.progCode := rfl
@[simp] theorem State.setLaunch_interps (s : State) (l : Launch) : (s.setLaunch l).interps = s.interps := rfl
@[simp] theorem State.setLaunch_rotClass (s : State) (l : Launch) : (s.setLaunch l).rotClass = s.rotClass := rfl
@[simp] theorem State.setLaunch_rotGiven (s : State) (l : Launch) : (s.setLaunch l).rotGiven = s.rotGiven := rfl
@[simp] theorem State.setLaunch_rotQueue (s : State) (l : Launch) : (s.setLaunch l).rotQueue = s.rotQueue := rfl
@[simp] theorem State.setLaunch_flashA (s : State) (l : Launch) : (s.setLaunch l).flashA = s.flashA := rfl
@[simp] theorem State.setLaunch_flashB (s : State) (l : Launch) : (s.setLaunch l).flashB = s.flashB := rfl
@[simp] theorem State.setLaunch_flashDcA (s : State) (l : Launch) : (s.setLaunch l).flashDcA = s.flashDcA := rfl
@[simp] theorem State.setLaunch_flashDcB (s : State) (l : Launch) : (s.setLaunch l).flashDcB = s.flashDcB := rfl
@[simp] theorem State.setLaunch_certChain (s : State) (l : Launch) : (s.setLaunch l).certChain = s.certChain := rfl
@[simp] theorem State.setLaunch_keyHash0 (s : State) (l : Launch) : (s.setLaunch l).keyHash0 = s.keyHash0 := rfl
@[simp] theorem State.setLaunch_keyHash1 (s : State) (l : Launch) : (s.setLaunch l).keyHash1 = s.keyHash1 := rfl
@[simp] theorem State.setLaunch_revoked0 (s : State) (l : Launch) : (s.setLaunch l).revoked0 = s.revoked0 := rfl
@[simp] theorem State.setLaunch_floorIo (s : State) (l : Launch) : (s.setLaunch l).floorIo = s.floorIo := rfl
@[simp] theorem State.setLaunch_floorDc (s : State) (l : Launch) : (s.setLaunch l).floorDc = s.floorDc := rfl
@[simp] theorem State.setLaunch_bootCode (s : State) (l : Launch) : (s.setLaunch l).bootCode = s.bootCode := rfl
@[simp] theorem State.setLaunch_bootB (s : State) (l : Launch) : (s.setLaunch l).bootB = s.bootB := rfl
@[simp] theorem State.setLaunch_recovery (s : State) (l : Launch) : (s.setLaunch l).recovery = s.recovery := rfl
@[simp] theorem State.setLaunch_svnIo (s : State) (l : Launch) : (s.setLaunch l).svnIo = s.svnIo := rfl
@[simp] theorem State.setLaunch_mreg (s : State) (l : Launch) : (s.setLaunch l).mreg = s.mreg := rfl
@[simp] theorem State.setLaunch_mextData (s : State) (l : Launch) : (s.setLaunch l).mextData = s.mextData := rfl
@[simp] theorem State.setLaunch_mextCode (s : State) (l : Launch) : (s.setLaunch l).mextCode = s.mextCode := rfl
@[simp] theorem State.setLaunch_mextGo (s : State) (l : Launch) : (s.setLaunch l).mextGo = s.mextGo := rfl
@[simp] theorem State.setLaunch_mextIdx (s : State) (l : Launch) : (s.setLaunch l).mextIdx = s.mextIdx := rfl
@[simp] theorem State.setLaunch_debug (s : State) (l : Launch) : (s.setLaunch l).debug = s.debug := rfl
@[simp] theorem State.setLaunch_chans (s : State) (l : Launch) : (s.setLaunch l).chans = s.chans := rfl
@[simp] theorem State.setLaunch_pkgid (s : State) (l : Launch) : (s.setLaunch l).pkgid = s.pkgid := rfl
@[simp] theorem State.setLaunch_ports (s : State) (l : Launch) : (s.setLaunch l).ports = s.ports := rfl
@[simp] theorem State.setLaunch_route (s : State) (l : Launch) : (s.setLaunch l).route = s.route := rfl
@[simp] theorem State.setLaunch_homemap (s : State) (l : Launch) : (s.setLaunch l).homemap = s.homemap := rfl
@[simp] theorem State.setLaunch_dirSets (s : State) (l : Launch) : (s.setLaunch l).dirSets = s.dirSets := rfl
@[simp] theorem State.setLaunch_dirBase (s : State) (l : Launch) : (s.setLaunch l).dirBase = s.dirBase := rfl
@[simp] theorem State.setLaunch_dirEn (s : State) (l : Launch) : (s.setLaunch l).dirEn = s.dirEn := rfl
@[simp] theorem State.setLaunch_dirReqs (s : State) (l : Launch) : (s.setLaunch l).dirReqs = s.dirReqs := rfl
@[simp] theorem State.setLaunch_dirTag (s : State) (l : Launch) : (s.setLaunch l).dirTag = s.dirTag := rfl
@[simp] theorem State.setLaunch_repl (s : State) (l : Launch) : (s.setLaunch l).repl = s.repl := rfl
@[simp] theorem State.setLaunch_collReady (s : State) (l : Launch) : (s.setLaunch l).collReady = s.collReady := rfl
@[simp] theorem State.setLaunch_tenants (s : State) (l : Launch) : (s.setLaunch l).tenants = s.tenants := rfl
@[simp] theorem State.setLaunch_gangTime (s : State) (l : Launch) : (s.setLaunch l).gangTime = s.gangTime := rfl
@[simp] theorem State.setLaunch_gangSet (s : State) (l : Launch) : (s.setLaunch l).gangSet = s.gangSet := rfl
@[simp] theorem State.setLaunch_gangDone (s : State) (l : Launch) : (s.setLaunch l).gangDone = s.gangDone := rfl
@[simp] theorem State.setLaunch_gangArmed (s : State) (l : Launch) : (s.setLaunch l).gangArmed = s.gangArmed := rfl
@[simp] theorem State.setLaunch_resBase (s : State) (l : Launch) : (s.setLaunch l).resBase = s.resBase := rfl
@[simp] theorem State.setLaunch_resHandle (s : State) (l : Launch) : (s.setLaunch l).resHandle = s.resHandle := rfl
@[simp] theorem State.setLaunch_resGo (s : State) (l : Launch) : (s.setLaunch l).resGo = s.resGo := rfl
@[simp] theorem State.setLaunch_resCode (s : State) (l : Launch) : (s.setLaunch l).resCode = s.resCode := rfl
@[simp] theorem State.setLaunch_resOp (s : State) (l : Launch) : (s.setLaunch l).resOp = s.resOp := rfl
@[simp] theorem State.setLaunch_resRunHandle (s : State) (l : Launch) : (s.setLaunch l).resRunHandle = s.resRunHandle := rfl
@[simp] theorem State.setLaunch_resRunOp (s : State) (l : Launch) : (s.setLaunch l).resRunOp = s.resRunOp := rfl
@[simp] theorem State.setLaunch_resPool (s : State) (l : Launch) : (s.setLaunch l).resPool = s.resPool := rfl
@[simp] theorem State.setLaunch_resCxl (s : State) (l : Launch) : (s.setLaunch l).resCxl = s.resCxl := rfl
@[simp] theorem State.setLaunch_resMoves (s : State) (l : Launch) : (s.setLaunch l).resMoves = s.resMoves := rfl
@[simp] theorem State.setLaunch_resLat (s : State) (l : Launch) : (s.setLaunch l).resLat = s.resLat := rfl
@[simp] theorem State.setLaunch_sdAddr (s : State) (l : Launch) : (s.setLaunch l).sdAddr = s.sdAddr := rfl
@[simp] theorem State.setLaunch_sdCtx (s : State) (l : Launch) : (s.setLaunch l).sdCtx = s.sdCtx := rfl
@[simp] theorem State.setLaunch_sdGo (s : State) (l : Launch) : (s.setLaunch l).sdGo = s.sdGo := rfl
@[simp] theorem State.setLaunch_sdCode (s : State) (l : Launch) : (s.setLaunch l).sdCode = s.sdCode := rfl
@[simp] theorem State.setLaunch_sdScope (s : State) (l : Launch) : (s.setLaunch l).sdScope = s.sdScope := rfl
@[simp] theorem State.setLaunch_sds (s : State) (l : Launch) : (s.setLaunch l).sds = s.sds := rfl
@[simp] theorem State.setLaunch_nsAddr (s : State) (l : Launch) : (s.setLaunch l).nsAddr = s.nsAddr := rfl
@[simp] theorem State.setLaunch_nsNsid (s : State) (l : Launch) : (s.setLaunch l).nsNsid = s.nsNsid := rfl
@[simp] theorem State.setLaunch_nsGo (s : State) (l : Launch) : (s.setLaunch l).nsGo = s.nsGo := rfl
@[simp] theorem State.setLaunch_nsCode (s : State) (l : Launch) : (s.setLaunch l).nsCode = s.nsCode := rfl
@[simp] theorem State.setLaunch_nsOp (s : State) (l : Launch) : (s.setLaunch l).nsOp = s.nsOp := rfl
@[simp] theorem State.setLaunch_nsRunNsid (s : State) (l : Launch) : (s.setLaunch l).nsRunNsid = s.nsRunNsid := rfl
@[simp] theorem State.setLaunch_nsRunOp (s : State) (l : Launch) : (s.setLaunch l).nsRunOp = s.nsRunOp := rfl
@[simp] theorem State.setLaunch_nss (s : State) (l : Launch) : (s.setLaunch l).nss = s.nss := rfl
@[simp] theorem State.setLaunch_idxLog (s : State) (l : Launch) : (s.setLaunch l).idxLog = s.idxLog := rfl
@[simp] theorem State.setLaunch_idxBase (s : State) (l : Launch) : (s.setLaunch l).idxBase = s.idxBase := rfl
@[simp] theorem State.setLaunch_pools (s : State) (l : Launch) : (s.setLaunch l).pools = s.pools := rfl
@[simp] theorem State.setLaunch_nodes (s : State) (l : Launch) : (s.setLaunch l).nodes = s.nodes := rfl
@[simp] theorem State.setLaunch_index (s : State) (l : Launch) : (s.setLaunch l).index = s.index := rfl
@[simp] theorem State.setLaunch_errOvf (s : State) (l : Launch) : (s.setLaunch l).errOvf = s.errOvf := rfl
@[simp] theorem State.setLaunch_errLost (s : State) (l : Launch) : (s.setLaunch l).errLost = s.errLost := rfl
@[simp] theorem State.setLaunch_ckCfg (s : State) (l : Launch) : (s.setLaunch l).ckCfg = s.ckCfg := rfl

@[simp] theorem State.emit_agenda (s : State) (o : Output) : (s.emit o).agenda = s.agenda := rfl
@[simp] theorem State.emit_focus (s : State) (o : Output) : (s.emit o).focus = s.focus := rfl
@[simp] theorem State.emit_cur (s : State) (o : Output) : (s.emit o).cur = s.cur := rfl
@[simp] theorem State.emit_fresh (s : State) (o : Output) : (s.emit o).fresh = s.fresh := rfl
@[simp] theorem State.emit_nextId (s : State) (o : Output) : (s.emit o).nextId = s.nextId := rfl
@[simp] theorem State.emit_mem (s : State) (o : Output) : (s.emit o).mem = s.mem := rfl
@[simp] theorem State.emit_poison (s : State) (o : Output) : (s.emit o).poison = s.poison := rfl
@[simp] theorem State.emit_lineKey (s : State) (o : Output) : (s.emit o).lineKey = s.lineKey := rfl
@[simp] theorem State.emit_keys (s : State) (o : Output) : (s.emit o).keys = s.keys := rfl
@[simp] theorem State.emit_gran (s : State) (o : Output) : (s.emit o).gran = s.gran := rfl
@[simp] theorem State.emit_homeDir (s : State) (o : Output) : (s.emit o).homeDir = s.homeDir := rfl
@[simp] theorem State.emit_tiles (s : State) (o : Output) : (s.emit o).tiles = s.tiles := rfl
@[simp] theorem State.emit_dies (s : State) (o : Output) : (s.emit o).dies = s.dies := rfl
@[simp] theorem State.emit_homes (s : State) (o : Output) : (s.emit o).homes = s.homes := rfl
@[simp] theorem State.emit_ctxs (s : State) (o : Output) : (s.emit o).ctxs = s.ctxs := rfl
@[simp] theorem State.emit_images (s : State) (o : Output) : (s.emit o).images = s.images := rfl
@[simp] theorem State.emit_cy (s : State) (o : Output) : (s.emit o).cy = s.cy := rfl
@[simp] theorem State.emit_devtime (s : State) (o : Output) : (s.emit o).devtime = s.devtime := rfl
@[simp] theorem State.emit_tickcnt (s : State) (o : Output) : (s.emit o).tickcnt = s.tickcnt := rfl
@[simp] theorem State.emit_tDomain (s : State) (o : Output) : (s.emit o).tDomain = s.tDomain := rfl
@[simp] theorem State.emit_tDelay (s : State) (o : Output) : (s.emit o).tDelay = s.tDelay := rfl
@[simp] theorem State.emit_tEn (s : State) (o : Output) : (s.emit o).tEn = s.tEn := rfl
@[simp] theorem State.emit_tValid (s : State) (o : Output) : (s.emit o).tValid = s.tValid := rfl
@[simp] theorem State.emit_tLocked (s : State) (o : Output) : (s.emit o).tLocked = s.tLocked := rfl
@[simp] theorem State.emit_tHoldover (s : State) (o : Output) : (s.emit o).tHoldover = s.tHoldover := rfl
@[simp] theorem State.emit_tStepped (s : State) (o : Output) : (s.emit o).tStepped = s.tStepped := rfl
@[simp] theorem State.emit_tOffset (s : State) (o : Output) : (s.emit o).tOffset = s.tOffset := rfl
@[simp] theorem State.emit_tSlew (s : State) (o : Output) : (s.emit o).tSlew = s.tSlew := rfl
@[simp] theorem State.emit_tOwe (s : State) (o : Output) : (s.emit o).tOwe = s.tOwe := rfl
@[simp] theorem State.emit_budget (s : State) (o : Output) : (s.emit o).budget = s.budget := rfl
@[simp] theorem State.emit_budgetLock (s : State) (o : Output) : (s.emit o).budgetLock = s.budgetLock := rfl
@[simp] theorem State.emit_held (s : State) (o : Output) : (s.emit o).held = s.held := rfl
@[simp] theorem State.emit_heldAt (s : State) (o : Output) : (s.emit o).heldAt = s.heldAt := rfl
@[simp] theorem State.emit_hot (s : State) (o : Output) : (s.emit o).hot = s.hot := rfl
@[simp] theorem State.emit_hot110 (s : State) (o : Output) : (s.emit o).hot110 = s.hot110 := rfl
@[simp] theorem State.emit_railsOff (s : State) (o : Output) : (s.emit o).railsOff = s.railsOff := rfl
@[simp] theorem State.emit_warn (s : State) (o : Output) : (s.emit o).warn = s.warn := rfl
@[simp] theorem State.emit_corrected (s : State) (o : Output) : (s.emit o).corrected = s.corrected := rfl
@[simp] theorem State.emit_tileCorrected (s : State) (o : Output) : (s.emit o).tileCorrected = s.tileCorrected := rfl
@[simp] theorem State.emit_scrubPass (s : State) (o : Output) : (s.emit o).scrubPass = s.scrubPass := rfl
@[simp] theorem State.emit_scrubPos (s : State) (o : Output) : (s.emit o).scrubPos = s.scrubPos := rfl
@[simp] theorem State.emit_scrubLine (s : State) (o : Output) : (s.emit o).scrubLine = s.scrubLine := rfl
@[simp] theorem State.emit_cxl (s : State) (o : Output) : (s.emit o).cxl = s.cxl := rfl
@[simp] theorem State.emit_fns (s : State) (o : Output) : (s.emit o).fns = s.fns := rfl
@[simp] theorem State.emit_qfunc (s : State) (o : Output) : (s.emit o).qfunc = s.qfunc := rfl
@[simp] theorem State.emit_queues (s : State) (o : Output) : (s.emit o).queues = s.queues := rfl
@[simp] theorem State.emit_rings (s : State) (o : Output) : (s.emit o).rings = s.rings := rfl
@[simp] theorem State.emit_progs (s : State) (o : Output) : (s.emit o).progs = s.progs := rfl
@[simp] theorem State.emit_progAddr (s : State) (o : Output) : (s.emit o).progAddr = s.progAddr := rfl
@[simp] theorem State.emit_progSlot (s : State) (o : Output) : (s.emit o).progSlot = s.progSlot := rfl
@[simp] theorem State.emit_progWord (s : State) (o : Output) : (s.emit o).progWord = s.progWord := rfl
@[simp] theorem State.emit_progBusy (s : State) (o : Output) : (s.emit o).progBusy = s.progBusy := rfl
@[simp] theorem State.emit_hostFails (s : State) (o : Output) : (s.emit o).hostFails = s.hostFails := rfl
@[simp] theorem State.emit_progCode (s : State) (o : Output) : (s.emit o).progCode = s.progCode := rfl
@[simp] theorem State.emit_interps (s : State) (o : Output) : (s.emit o).interps = s.interps := rfl
@[simp] theorem State.emit_rotClass (s : State) (o : Output) : (s.emit o).rotClass = s.rotClass := rfl
@[simp] theorem State.emit_rotGiven (s : State) (o : Output) : (s.emit o).rotGiven = s.rotGiven := rfl
@[simp] theorem State.emit_rotQueue (s : State) (o : Output) : (s.emit o).rotQueue = s.rotQueue := rfl
@[simp] theorem State.emit_flashA (s : State) (o : Output) : (s.emit o).flashA = s.flashA := rfl
@[simp] theorem State.emit_flashB (s : State) (o : Output) : (s.emit o).flashB = s.flashB := rfl
@[simp] theorem State.emit_flashDcA (s : State) (o : Output) : (s.emit o).flashDcA = s.flashDcA := rfl
@[simp] theorem State.emit_flashDcB (s : State) (o : Output) : (s.emit o).flashDcB = s.flashDcB := rfl
@[simp] theorem State.emit_certChain (s : State) (o : Output) : (s.emit o).certChain = s.certChain := rfl
@[simp] theorem State.emit_keyHash0 (s : State) (o : Output) : (s.emit o).keyHash0 = s.keyHash0 := rfl
@[simp] theorem State.emit_keyHash1 (s : State) (o : Output) : (s.emit o).keyHash1 = s.keyHash1 := rfl
@[simp] theorem State.emit_revoked0 (s : State) (o : Output) : (s.emit o).revoked0 = s.revoked0 := rfl
@[simp] theorem State.emit_floorIo (s : State) (o : Output) : (s.emit o).floorIo = s.floorIo := rfl
@[simp] theorem State.emit_floorDc (s : State) (o : Output) : (s.emit o).floorDc = s.floorDc := rfl
@[simp] theorem State.emit_bootCode (s : State) (o : Output) : (s.emit o).bootCode = s.bootCode := rfl
@[simp] theorem State.emit_bootB (s : State) (o : Output) : (s.emit o).bootB = s.bootB := rfl
@[simp] theorem State.emit_recovery (s : State) (o : Output) : (s.emit o).recovery = s.recovery := rfl
@[simp] theorem State.emit_svnIo (s : State) (o : Output) : (s.emit o).svnIo = s.svnIo := rfl
@[simp] theorem State.emit_mreg (s : State) (o : Output) : (s.emit o).mreg = s.mreg := rfl
@[simp] theorem State.emit_mextData (s : State) (o : Output) : (s.emit o).mextData = s.mextData := rfl
@[simp] theorem State.emit_mextCode (s : State) (o : Output) : (s.emit o).mextCode = s.mextCode := rfl
@[simp] theorem State.emit_mextGo (s : State) (o : Output) : (s.emit o).mextGo = s.mextGo := rfl
@[simp] theorem State.emit_mextIdx (s : State) (o : Output) : (s.emit o).mextIdx = s.mextIdx := rfl
@[simp] theorem State.emit_debug (s : State) (o : Output) : (s.emit o).debug = s.debug := rfl
@[simp] theorem State.emit_chans (s : State) (o : Output) : (s.emit o).chans = s.chans := rfl
@[simp] theorem State.emit_pkgid (s : State) (o : Output) : (s.emit o).pkgid = s.pkgid := rfl
@[simp] theorem State.emit_ports (s : State) (o : Output) : (s.emit o).ports = s.ports := rfl
@[simp] theorem State.emit_route (s : State) (o : Output) : (s.emit o).route = s.route := rfl
@[simp] theorem State.emit_homemap (s : State) (o : Output) : (s.emit o).homemap = s.homemap := rfl
@[simp] theorem State.emit_dirSets (s : State) (o : Output) : (s.emit o).dirSets = s.dirSets := rfl
@[simp] theorem State.emit_dirBase (s : State) (o : Output) : (s.emit o).dirBase = s.dirBase := rfl
@[simp] theorem State.emit_dirEn (s : State) (o : Output) : (s.emit o).dirEn = s.dirEn := rfl
@[simp] theorem State.emit_dirReqs (s : State) (o : Output) : (s.emit o).dirReqs = s.dirReqs := rfl
@[simp] theorem State.emit_dirTag (s : State) (o : Output) : (s.emit o).dirTag = s.dirTag := rfl
@[simp] theorem State.emit_repl (s : State) (o : Output) : (s.emit o).repl = s.repl := rfl
@[simp] theorem State.emit_collReady (s : State) (o : Output) : (s.emit o).collReady = s.collReady := rfl
@[simp] theorem State.emit_launches (s : State) (o : Output) : (s.emit o).launches = s.launches := rfl
@[simp] theorem State.emit_tenants (s : State) (o : Output) : (s.emit o).tenants = s.tenants := rfl
@[simp] theorem State.emit_gangTime (s : State) (o : Output) : (s.emit o).gangTime = s.gangTime := rfl
@[simp] theorem State.emit_gangSet (s : State) (o : Output) : (s.emit o).gangSet = s.gangSet := rfl
@[simp] theorem State.emit_gangDone (s : State) (o : Output) : (s.emit o).gangDone = s.gangDone := rfl
@[simp] theorem State.emit_gangArmed (s : State) (o : Output) : (s.emit o).gangArmed = s.gangArmed := rfl
@[simp] theorem State.emit_resBase (s : State) (o : Output) : (s.emit o).resBase = s.resBase := rfl
@[simp] theorem State.emit_resHandle (s : State) (o : Output) : (s.emit o).resHandle = s.resHandle := rfl
@[simp] theorem State.emit_resGo (s : State) (o : Output) : (s.emit o).resGo = s.resGo := rfl
@[simp] theorem State.emit_resCode (s : State) (o : Output) : (s.emit o).resCode = s.resCode := rfl
@[simp] theorem State.emit_resOp (s : State) (o : Output) : (s.emit o).resOp = s.resOp := rfl
@[simp] theorem State.emit_resRunHandle (s : State) (o : Output) : (s.emit o).resRunHandle = s.resRunHandle := rfl
@[simp] theorem State.emit_resRunOp (s : State) (o : Output) : (s.emit o).resRunOp = s.resRunOp := rfl
@[simp] theorem State.emit_resPool (s : State) (o : Output) : (s.emit o).resPool = s.resPool := rfl
@[simp] theorem State.emit_resCxl (s : State) (o : Output) : (s.emit o).resCxl = s.resCxl := rfl
@[simp] theorem State.emit_resMoves (s : State) (o : Output) : (s.emit o).resMoves = s.resMoves := rfl
@[simp] theorem State.emit_resLat (s : State) (o : Output) : (s.emit o).resLat = s.resLat := rfl
@[simp] theorem State.emit_sdAddr (s : State) (o : Output) : (s.emit o).sdAddr = s.sdAddr := rfl
@[simp] theorem State.emit_sdCtx (s : State) (o : Output) : (s.emit o).sdCtx = s.sdCtx := rfl
@[simp] theorem State.emit_sdGo (s : State) (o : Output) : (s.emit o).sdGo = s.sdGo := rfl
@[simp] theorem State.emit_sdCode (s : State) (o : Output) : (s.emit o).sdCode = s.sdCode := rfl
@[simp] theorem State.emit_sdScope (s : State) (o : Output) : (s.emit o).sdScope = s.sdScope := rfl
@[simp] theorem State.emit_sds (s : State) (o : Output) : (s.emit o).sds = s.sds := rfl
@[simp] theorem State.emit_nsAddr (s : State) (o : Output) : (s.emit o).nsAddr = s.nsAddr := rfl
@[simp] theorem State.emit_nsNsid (s : State) (o : Output) : (s.emit o).nsNsid = s.nsNsid := rfl
@[simp] theorem State.emit_nsGo (s : State) (o : Output) : (s.emit o).nsGo = s.nsGo := rfl
@[simp] theorem State.emit_nsCode (s : State) (o : Output) : (s.emit o).nsCode = s.nsCode := rfl
@[simp] theorem State.emit_nsOp (s : State) (o : Output) : (s.emit o).nsOp = s.nsOp := rfl
@[simp] theorem State.emit_nsRunNsid (s : State) (o : Output) : (s.emit o).nsRunNsid = s.nsRunNsid := rfl
@[simp] theorem State.emit_nsRunOp (s : State) (o : Output) : (s.emit o).nsRunOp = s.nsRunOp := rfl
@[simp] theorem State.emit_nss (s : State) (o : Output) : (s.emit o).nss = s.nss := rfl
@[simp] theorem State.emit_idxLog (s : State) (o : Output) : (s.emit o).idxLog = s.idxLog := rfl
@[simp] theorem State.emit_idxBase (s : State) (o : Output) : (s.emit o).idxBase = s.idxBase := rfl
@[simp] theorem State.emit_pools (s : State) (o : Output) : (s.emit o).pools = s.pools := rfl
@[simp] theorem State.emit_nodes (s : State) (o : Output) : (s.emit o).nodes = s.nodes := rfl
@[simp] theorem State.emit_index (s : State) (o : Output) : (s.emit o).index = s.index := rfl
@[simp] theorem State.emit_errOvf (s : State) (o : Output) : (s.emit o).errOvf = s.errOvf := rfl
@[simp] theorem State.emit_errLost (s : State) (o : Output) : (s.emit o).errLost = s.errLost := rfl
@[simp] theorem State.emit_ckCfg (s : State) (o : Output) : (s.emit o).ckCfg = s.ckCfg := rfl

@[simp] theorem State.free_agenda (s : State) (w : Nat) : ((s.free w).2).agenda = s.agenda := rfl
@[simp] theorem State.free_focus (s : State) (w : Nat) : ((s.free w).2).focus = s.focus := rfl
@[simp] theorem State.free_cur (s : State) (w : Nat) : ((s.free w).2).cur = s.cur := rfl
@[simp] theorem State.free_nextId (s : State) (w : Nat) : ((s.free w).2).nextId = s.nextId := rfl
@[simp] theorem State.free_out (s : State) (w : Nat) : ((s.free w).2).out = s.out := rfl
@[simp] theorem State.free_mem (s : State) (w : Nat) : ((s.free w).2).mem = s.mem := rfl
@[simp] theorem State.free_poison (s : State) (w : Nat) : ((s.free w).2).poison = s.poison := rfl
@[simp] theorem State.free_lineKey (s : State) (w : Nat) : ((s.free w).2).lineKey = s.lineKey := rfl
@[simp] theorem State.free_keys (s : State) (w : Nat) : ((s.free w).2).keys = s.keys := rfl
@[simp] theorem State.free_gran (s : State) (w : Nat) : ((s.free w).2).gran = s.gran := rfl
@[simp] theorem State.free_homeDir (s : State) (w : Nat) : ((s.free w).2).homeDir = s.homeDir := rfl
@[simp] theorem State.free_tiles (s : State) (w : Nat) : ((s.free w).2).tiles = s.tiles := rfl
@[simp] theorem State.free_dies (s : State) (w : Nat) : ((s.free w).2).dies = s.dies := rfl
@[simp] theorem State.free_homes (s : State) (w : Nat) : ((s.free w).2).homes = s.homes := rfl
@[simp] theorem State.free_ctxs (s : State) (w : Nat) : ((s.free w).2).ctxs = s.ctxs := rfl
@[simp] theorem State.free_images (s : State) (w : Nat) : ((s.free w).2).images = s.images := rfl
@[simp] theorem State.free_cy (s : State) (w : Nat) : ((s.free w).2).cy = s.cy := rfl
@[simp] theorem State.free_devtime (s : State) (w : Nat) : ((s.free w).2).devtime = s.devtime := rfl
@[simp] theorem State.free_tickcnt (s : State) (w : Nat) : ((s.free w).2).tickcnt = s.tickcnt := rfl
@[simp] theorem State.free_tDomain (s : State) (w : Nat) : ((s.free w).2).tDomain = s.tDomain := rfl
@[simp] theorem State.free_tDelay (s : State) (w : Nat) : ((s.free w).2).tDelay = s.tDelay := rfl
@[simp] theorem State.free_tEn (s : State) (w : Nat) : ((s.free w).2).tEn = s.tEn := rfl
@[simp] theorem State.free_tValid (s : State) (w : Nat) : ((s.free w).2).tValid = s.tValid := rfl
@[simp] theorem State.free_tLocked (s : State) (w : Nat) : ((s.free w).2).tLocked = s.tLocked := rfl
@[simp] theorem State.free_tHoldover (s : State) (w : Nat) : ((s.free w).2).tHoldover = s.tHoldover := rfl
@[simp] theorem State.free_tStepped (s : State) (w : Nat) : ((s.free w).2).tStepped = s.tStepped := rfl
@[simp] theorem State.free_tOffset (s : State) (w : Nat) : ((s.free w).2).tOffset = s.tOffset := rfl
@[simp] theorem State.free_tSlew (s : State) (w : Nat) : ((s.free w).2).tSlew = s.tSlew := rfl
@[simp] theorem State.free_tOwe (s : State) (w : Nat) : ((s.free w).2).tOwe = s.tOwe := rfl
@[simp] theorem State.free_budget (s : State) (w : Nat) : ((s.free w).2).budget = s.budget := rfl
@[simp] theorem State.free_budgetLock (s : State) (w : Nat) : ((s.free w).2).budgetLock = s.budgetLock := rfl
@[simp] theorem State.free_held (s : State) (w : Nat) : ((s.free w).2).held = s.held := rfl
@[simp] theorem State.free_heldAt (s : State) (w : Nat) : ((s.free w).2).heldAt = s.heldAt := rfl
@[simp] theorem State.free_hot (s : State) (w : Nat) : ((s.free w).2).hot = s.hot := rfl
@[simp] theorem State.free_hot110 (s : State) (w : Nat) : ((s.free w).2).hot110 = s.hot110 := rfl
@[simp] theorem State.free_railsOff (s : State) (w : Nat) : ((s.free w).2).railsOff = s.railsOff := rfl
@[simp] theorem State.free_warn (s : State) (w : Nat) : ((s.free w).2).warn = s.warn := rfl
@[simp] theorem State.free_corrected (s : State) (w : Nat) : ((s.free w).2).corrected = s.corrected := rfl
@[simp] theorem State.free_tileCorrected (s : State) (w : Nat) : ((s.free w).2).tileCorrected = s.tileCorrected := rfl
@[simp] theorem State.free_scrubPass (s : State) (w : Nat) : ((s.free w).2).scrubPass = s.scrubPass := rfl
@[simp] theorem State.free_scrubPos (s : State) (w : Nat) : ((s.free w).2).scrubPos = s.scrubPos := rfl
@[simp] theorem State.free_scrubLine (s : State) (w : Nat) : ((s.free w).2).scrubLine = s.scrubLine := rfl
@[simp] theorem State.free_cxl (s : State) (w : Nat) : ((s.free w).2).cxl = s.cxl := rfl
@[simp] theorem State.free_fns (s : State) (w : Nat) : ((s.free w).2).fns = s.fns := rfl
@[simp] theorem State.free_qfunc (s : State) (w : Nat) : ((s.free w).2).qfunc = s.qfunc := rfl
@[simp] theorem State.free_queues (s : State) (w : Nat) : ((s.free w).2).queues = s.queues := rfl
@[simp] theorem State.free_rings (s : State) (w : Nat) : ((s.free w).2).rings = s.rings := rfl
@[simp] theorem State.free_progs (s : State) (w : Nat) : ((s.free w).2).progs = s.progs := rfl
@[simp] theorem State.free_progAddr (s : State) (w : Nat) : ((s.free w).2).progAddr = s.progAddr := rfl
@[simp] theorem State.free_progSlot (s : State) (w : Nat) : ((s.free w).2).progSlot = s.progSlot := rfl
@[simp] theorem State.free_progWord (s : State) (w : Nat) : ((s.free w).2).progWord = s.progWord := rfl
@[simp] theorem State.free_progBusy (s : State) (w : Nat) : ((s.free w).2).progBusy = s.progBusy := rfl
@[simp] theorem State.free_hostFails (s : State) (w : Nat) : ((s.free w).2).hostFails = s.hostFails := rfl
@[simp] theorem State.free_progCode (s : State) (w : Nat) : ((s.free w).2).progCode = s.progCode := rfl
@[simp] theorem State.free_interps (s : State) (w : Nat) : ((s.free w).2).interps = s.interps := rfl
@[simp] theorem State.free_rotClass (s : State) (w : Nat) : ((s.free w).2).rotClass = s.rotClass := rfl
@[simp] theorem State.free_rotGiven (s : State) (w : Nat) : ((s.free w).2).rotGiven = s.rotGiven := rfl
@[simp] theorem State.free_rotQueue (s : State) (w : Nat) : ((s.free w).2).rotQueue = s.rotQueue := rfl
@[simp] theorem State.free_flashA (s : State) (w : Nat) : ((s.free w).2).flashA = s.flashA := rfl
@[simp] theorem State.free_flashB (s : State) (w : Nat) : ((s.free w).2).flashB = s.flashB := rfl
@[simp] theorem State.free_flashDcA (s : State) (w : Nat) : ((s.free w).2).flashDcA = s.flashDcA := rfl
@[simp] theorem State.free_flashDcB (s : State) (w : Nat) : ((s.free w).2).flashDcB = s.flashDcB := rfl
@[simp] theorem State.free_certChain (s : State) (w : Nat) : ((s.free w).2).certChain = s.certChain := rfl
@[simp] theorem State.free_keyHash0 (s : State) (w : Nat) : ((s.free w).2).keyHash0 = s.keyHash0 := rfl
@[simp] theorem State.free_keyHash1 (s : State) (w : Nat) : ((s.free w).2).keyHash1 = s.keyHash1 := rfl
@[simp] theorem State.free_revoked0 (s : State) (w : Nat) : ((s.free w).2).revoked0 = s.revoked0 := rfl
@[simp] theorem State.free_floorIo (s : State) (w : Nat) : ((s.free w).2).floorIo = s.floorIo := rfl
@[simp] theorem State.free_floorDc (s : State) (w : Nat) : ((s.free w).2).floorDc = s.floorDc := rfl
@[simp] theorem State.free_bootCode (s : State) (w : Nat) : ((s.free w).2).bootCode = s.bootCode := rfl
@[simp] theorem State.free_bootB (s : State) (w : Nat) : ((s.free w).2).bootB = s.bootB := rfl
@[simp] theorem State.free_recovery (s : State) (w : Nat) : ((s.free w).2).recovery = s.recovery := rfl
@[simp] theorem State.free_svnIo (s : State) (w : Nat) : ((s.free w).2).svnIo = s.svnIo := rfl
@[simp] theorem State.free_mreg (s : State) (w : Nat) : ((s.free w).2).mreg = s.mreg := rfl
@[simp] theorem State.free_mextData (s : State) (w : Nat) : ((s.free w).2).mextData = s.mextData := rfl
@[simp] theorem State.free_mextCode (s : State) (w : Nat) : ((s.free w).2).mextCode = s.mextCode := rfl
@[simp] theorem State.free_mextGo (s : State) (w : Nat) : ((s.free w).2).mextGo = s.mextGo := rfl
@[simp] theorem State.free_mextIdx (s : State) (w : Nat) : ((s.free w).2).mextIdx = s.mextIdx := rfl
@[simp] theorem State.free_debug (s : State) (w : Nat) : ((s.free w).2).debug = s.debug := rfl
@[simp] theorem State.free_chans (s : State) (w : Nat) : ((s.free w).2).chans = s.chans := rfl
@[simp] theorem State.free_pkgid (s : State) (w : Nat) : ((s.free w).2).pkgid = s.pkgid := rfl
@[simp] theorem State.free_ports (s : State) (w : Nat) : ((s.free w).2).ports = s.ports := rfl
@[simp] theorem State.free_route (s : State) (w : Nat) : ((s.free w).2).route = s.route := rfl
@[simp] theorem State.free_homemap (s : State) (w : Nat) : ((s.free w).2).homemap = s.homemap := rfl
@[simp] theorem State.free_dirSets (s : State) (w : Nat) : ((s.free w).2).dirSets = s.dirSets := rfl
@[simp] theorem State.free_dirBase (s : State) (w : Nat) : ((s.free w).2).dirBase = s.dirBase := rfl
@[simp] theorem State.free_dirEn (s : State) (w : Nat) : ((s.free w).2).dirEn = s.dirEn := rfl
@[simp] theorem State.free_dirReqs (s : State) (w : Nat) : ((s.free w).2).dirReqs = s.dirReqs := rfl
@[simp] theorem State.free_dirTag (s : State) (w : Nat) : ((s.free w).2).dirTag = s.dirTag := rfl
@[simp] theorem State.free_repl (s : State) (w : Nat) : ((s.free w).2).repl = s.repl := rfl
@[simp] theorem State.free_collReady (s : State) (w : Nat) : ((s.free w).2).collReady = s.collReady := rfl
@[simp] theorem State.free_launches (s : State) (w : Nat) : ((s.free w).2).launches = s.launches := rfl
@[simp] theorem State.free_tenants (s : State) (w : Nat) : ((s.free w).2).tenants = s.tenants := rfl
@[simp] theorem State.free_gangTime (s : State) (w : Nat) : ((s.free w).2).gangTime = s.gangTime := rfl
@[simp] theorem State.free_gangSet (s : State) (w : Nat) : ((s.free w).2).gangSet = s.gangSet := rfl
@[simp] theorem State.free_gangDone (s : State) (w : Nat) : ((s.free w).2).gangDone = s.gangDone := rfl
@[simp] theorem State.free_gangArmed (s : State) (w : Nat) : ((s.free w).2).gangArmed = s.gangArmed := rfl
@[simp] theorem State.free_resBase (s : State) (w : Nat) : ((s.free w).2).resBase = s.resBase := rfl
@[simp] theorem State.free_resHandle (s : State) (w : Nat) : ((s.free w).2).resHandle = s.resHandle := rfl
@[simp] theorem State.free_resGo (s : State) (w : Nat) : ((s.free w).2).resGo = s.resGo := rfl
@[simp] theorem State.free_resCode (s : State) (w : Nat) : ((s.free w).2).resCode = s.resCode := rfl
@[simp] theorem State.free_resOp (s : State) (w : Nat) : ((s.free w).2).resOp = s.resOp := rfl
@[simp] theorem State.free_resRunHandle (s : State) (w : Nat) : ((s.free w).2).resRunHandle = s.resRunHandle := rfl
@[simp] theorem State.free_resRunOp (s : State) (w : Nat) : ((s.free w).2).resRunOp = s.resRunOp := rfl
@[simp] theorem State.free_resPool (s : State) (w : Nat) : ((s.free w).2).resPool = s.resPool := rfl
@[simp] theorem State.free_resCxl (s : State) (w : Nat) : ((s.free w).2).resCxl = s.resCxl := rfl
@[simp] theorem State.free_resMoves (s : State) (w : Nat) : ((s.free w).2).resMoves = s.resMoves := rfl
@[simp] theorem State.free_resLat (s : State) (w : Nat) : ((s.free w).2).resLat = s.resLat := rfl
@[simp] theorem State.free_sdAddr (s : State) (w : Nat) : ((s.free w).2).sdAddr = s.sdAddr := rfl
@[simp] theorem State.free_sdCtx (s : State) (w : Nat) : ((s.free w).2).sdCtx = s.sdCtx := rfl
@[simp] theorem State.free_sdGo (s : State) (w : Nat) : ((s.free w).2).sdGo = s.sdGo := rfl
@[simp] theorem State.free_sdCode (s : State) (w : Nat) : ((s.free w).2).sdCode = s.sdCode := rfl
@[simp] theorem State.free_sdScope (s : State) (w : Nat) : ((s.free w).2).sdScope = s.sdScope := rfl
@[simp] theorem State.free_sds (s : State) (w : Nat) : ((s.free w).2).sds = s.sds := rfl
@[simp] theorem State.free_nsAddr (s : State) (w : Nat) : ((s.free w).2).nsAddr = s.nsAddr := rfl
@[simp] theorem State.free_nsNsid (s : State) (w : Nat) : ((s.free w).2).nsNsid = s.nsNsid := rfl
@[simp] theorem State.free_nsGo (s : State) (w : Nat) : ((s.free w).2).nsGo = s.nsGo := rfl
@[simp] theorem State.free_nsCode (s : State) (w : Nat) : ((s.free w).2).nsCode = s.nsCode := rfl
@[simp] theorem State.free_nsOp (s : State) (w : Nat) : ((s.free w).2).nsOp = s.nsOp := rfl
@[simp] theorem State.free_nsRunNsid (s : State) (w : Nat) : ((s.free w).2).nsRunNsid = s.nsRunNsid := rfl
@[simp] theorem State.free_nsRunOp (s : State) (w : Nat) : ((s.free w).2).nsRunOp = s.nsRunOp := rfl
@[simp] theorem State.free_nss (s : State) (w : Nat) : ((s.free w).2).nss = s.nss := rfl
@[simp] theorem State.free_idxLog (s : State) (w : Nat) : ((s.free w).2).idxLog = s.idxLog := rfl
@[simp] theorem State.free_idxBase (s : State) (w : Nat) : ((s.free w).2).idxBase = s.idxBase := rfl
@[simp] theorem State.free_pools (s : State) (w : Nat) : ((s.free w).2).pools = s.pools := rfl
@[simp] theorem State.free_nodes (s : State) (w : Nat) : ((s.free w).2).nodes = s.nodes := rfl
@[simp] theorem State.free_index (s : State) (w : Nat) : ((s.free w).2).index = s.index := rfl
@[simp] theorem State.free_errOvf (s : State) (w : Nat) : ((s.free w).2).errOvf = s.errOvf := rfl
@[simp] theorem State.free_errLost (s : State) (w : Nat) : ((s.free w).2).errLost = s.errLost := rfl
@[simp] theorem State.free_ckCfg (s : State) (w : Nat) : ((s.free w).2).ckCfg = s.ckCfg := rfl

@[simp] theorem State.wrBytes_agenda (s : State) (a : Nat) (bs : List Byte) (p : Bool) : (s.wrBytes a bs p).agenda = s.agenda := rfl
@[simp] theorem State.wrBytes_focus (s : State) (a : Nat) (bs : List Byte) (p : Bool) : (s.wrBytes a bs p).focus = s.focus := rfl
@[simp] theorem State.wrBytes_cur (s : State) (a : Nat) (bs : List Byte) (p : Bool) : (s.wrBytes a bs p).cur = s.cur := rfl
@[simp] theorem State.wrBytes_fresh (s : State) (a : Nat) (bs : List Byte) (p : Bool) : (s.wrBytes a bs p).fresh = s.fresh := rfl
@[simp] theorem State.wrBytes_nextId (s : State) (a : Nat) (bs : List Byte) (p : Bool) : (s.wrBytes a bs p).nextId = s.nextId := rfl
@[simp] theorem State.wrBytes_out (s : State) (a : Nat) (bs : List Byte) (p : Bool) : (s.wrBytes a bs p).out = s.out := rfl
@[simp] theorem State.wrBytes_lineKey (s : State) (a : Nat) (bs : List Byte) (p : Bool) : (s.wrBytes a bs p).lineKey = s.lineKey := rfl
@[simp] theorem State.wrBytes_keys (s : State) (a : Nat) (bs : List Byte) (p : Bool) : (s.wrBytes a bs p).keys = s.keys := rfl
@[simp] theorem State.wrBytes_gran (s : State) (a : Nat) (bs : List Byte) (p : Bool) : (s.wrBytes a bs p).gran = s.gran := rfl
@[simp] theorem State.wrBytes_homeDir (s : State) (a : Nat) (bs : List Byte) (p : Bool) : (s.wrBytes a bs p).homeDir = s.homeDir := rfl
@[simp] theorem State.wrBytes_tiles (s : State) (a : Nat) (bs : List Byte) (p : Bool) : (s.wrBytes a bs p).tiles = s.tiles := rfl
@[simp] theorem State.wrBytes_dies (s : State) (a : Nat) (bs : List Byte) (p : Bool) : (s.wrBytes a bs p).dies = s.dies := rfl
@[simp] theorem State.wrBytes_homes (s : State) (a : Nat) (bs : List Byte) (p : Bool) : (s.wrBytes a bs p).homes = s.homes := rfl
@[simp] theorem State.wrBytes_ctxs (s : State) (a : Nat) (bs : List Byte) (p : Bool) : (s.wrBytes a bs p).ctxs = s.ctxs := rfl
@[simp] theorem State.wrBytes_images (s : State) (a : Nat) (bs : List Byte) (p : Bool) : (s.wrBytes a bs p).images = s.images := rfl
@[simp] theorem State.wrBytes_cy (s : State) (a : Nat) (bs : List Byte) (p : Bool) : (s.wrBytes a bs p).cy = s.cy := rfl
@[simp] theorem State.wrBytes_devtime (s : State) (a : Nat) (bs : List Byte) (p : Bool) : (s.wrBytes a bs p).devtime = s.devtime := rfl
@[simp] theorem State.wrBytes_tickcnt (s : State) (a : Nat) (bs : List Byte) (p : Bool) : (s.wrBytes a bs p).tickcnt = s.tickcnt := rfl
@[simp] theorem State.wrBytes_tDomain (s : State) (a : Nat) (bs : List Byte) (p : Bool) : (s.wrBytes a bs p).tDomain = s.tDomain := rfl
@[simp] theorem State.wrBytes_tDelay (s : State) (a : Nat) (bs : List Byte) (p : Bool) : (s.wrBytes a bs p).tDelay = s.tDelay := rfl
@[simp] theorem State.wrBytes_tEn (s : State) (a : Nat) (bs : List Byte) (p : Bool) : (s.wrBytes a bs p).tEn = s.tEn := rfl
@[simp] theorem State.wrBytes_tValid (s : State) (a : Nat) (bs : List Byte) (p : Bool) : (s.wrBytes a bs p).tValid = s.tValid := rfl
@[simp] theorem State.wrBytes_tLocked (s : State) (a : Nat) (bs : List Byte) (p : Bool) : (s.wrBytes a bs p).tLocked = s.tLocked := rfl
@[simp] theorem State.wrBytes_tHoldover (s : State) (a : Nat) (bs : List Byte) (p : Bool) : (s.wrBytes a bs p).tHoldover = s.tHoldover := rfl
@[simp] theorem State.wrBytes_tStepped (s : State) (a : Nat) (bs : List Byte) (p : Bool) : (s.wrBytes a bs p).tStepped = s.tStepped := rfl
@[simp] theorem State.wrBytes_tOffset (s : State) (a : Nat) (bs : List Byte) (p : Bool) : (s.wrBytes a bs p).tOffset = s.tOffset := rfl
@[simp] theorem State.wrBytes_tSlew (s : State) (a : Nat) (bs : List Byte) (p : Bool) : (s.wrBytes a bs p).tSlew = s.tSlew := rfl
@[simp] theorem State.wrBytes_tOwe (s : State) (a : Nat) (bs : List Byte) (p : Bool) : (s.wrBytes a bs p).tOwe = s.tOwe := rfl
@[simp] theorem State.wrBytes_budget (s : State) (a : Nat) (bs : List Byte) (p : Bool) : (s.wrBytes a bs p).budget = s.budget := rfl
@[simp] theorem State.wrBytes_budgetLock (s : State) (a : Nat) (bs : List Byte) (p : Bool) : (s.wrBytes a bs p).budgetLock = s.budgetLock := rfl
@[simp] theorem State.wrBytes_held (s : State) (a : Nat) (bs : List Byte) (p : Bool) : (s.wrBytes a bs p).held = s.held := rfl
@[simp] theorem State.wrBytes_heldAt (s : State) (a : Nat) (bs : List Byte) (p : Bool) : (s.wrBytes a bs p).heldAt = s.heldAt := rfl
@[simp] theorem State.wrBytes_hot (s : State) (a : Nat) (bs : List Byte) (p : Bool) : (s.wrBytes a bs p).hot = s.hot := rfl
@[simp] theorem State.wrBytes_hot110 (s : State) (a : Nat) (bs : List Byte) (p : Bool) : (s.wrBytes a bs p).hot110 = s.hot110 := rfl
@[simp] theorem State.wrBytes_railsOff (s : State) (a : Nat) (bs : List Byte) (p : Bool) : (s.wrBytes a bs p).railsOff = s.railsOff := rfl
@[simp] theorem State.wrBytes_warn (s : State) (a : Nat) (bs : List Byte) (p : Bool) : (s.wrBytes a bs p).warn = s.warn := rfl
@[simp] theorem State.wrBytes_corrected (s : State) (a : Nat) (bs : List Byte) (p : Bool) : (s.wrBytes a bs p).corrected = s.corrected := rfl
@[simp] theorem State.wrBytes_tileCorrected (s : State) (a : Nat) (bs : List Byte) (p : Bool) : (s.wrBytes a bs p).tileCorrected = s.tileCorrected := rfl
@[simp] theorem State.wrBytes_scrubPass (s : State) (a : Nat) (bs : List Byte) (p : Bool) : (s.wrBytes a bs p).scrubPass = s.scrubPass := rfl
@[simp] theorem State.wrBytes_scrubPos (s : State) (a : Nat) (bs : List Byte) (p : Bool) : (s.wrBytes a bs p).scrubPos = s.scrubPos := rfl
@[simp] theorem State.wrBytes_scrubLine (s : State) (a : Nat) (bs : List Byte) (p : Bool) : (s.wrBytes a bs p).scrubLine = s.scrubLine := rfl
@[simp] theorem State.wrBytes_cxl (s : State) (a : Nat) (bs : List Byte) (p : Bool) : (s.wrBytes a bs p).cxl = s.cxl := rfl
@[simp] theorem State.wrBytes_fns (s : State) (a : Nat) (bs : List Byte) (p : Bool) : (s.wrBytes a bs p).fns = s.fns := rfl
@[simp] theorem State.wrBytes_qfunc (s : State) (a : Nat) (bs : List Byte) (p : Bool) : (s.wrBytes a bs p).qfunc = s.qfunc := rfl
@[simp] theorem State.wrBytes_queues (s : State) (a : Nat) (bs : List Byte) (p : Bool) : (s.wrBytes a bs p).queues = s.queues := rfl
@[simp] theorem State.wrBytes_rings (s : State) (a : Nat) (bs : List Byte) (p : Bool) : (s.wrBytes a bs p).rings = s.rings := rfl
@[simp] theorem State.wrBytes_progs (s : State) (a : Nat) (bs : List Byte) (p : Bool) : (s.wrBytes a bs p).progs = s.progs := rfl
@[simp] theorem State.wrBytes_progAddr (s : State) (a : Nat) (bs : List Byte) (p : Bool) : (s.wrBytes a bs p).progAddr = s.progAddr := rfl
@[simp] theorem State.wrBytes_progSlot (s : State) (a : Nat) (bs : List Byte) (p : Bool) : (s.wrBytes a bs p).progSlot = s.progSlot := rfl
@[simp] theorem State.wrBytes_progWord (s : State) (a : Nat) (bs : List Byte) (p : Bool) : (s.wrBytes a bs p).progWord = s.progWord := rfl
@[simp] theorem State.wrBytes_progBusy (s : State) (a : Nat) (bs : List Byte) (p : Bool) : (s.wrBytes a bs p).progBusy = s.progBusy := rfl
@[simp] theorem State.wrBytes_hostFails (s : State) (a : Nat) (bs : List Byte) (p : Bool) : (s.wrBytes a bs p).hostFails = s.hostFails := rfl
@[simp] theorem State.wrBytes_progCode (s : State) (a : Nat) (bs : List Byte) (p : Bool) : (s.wrBytes a bs p).progCode = s.progCode := rfl
@[simp] theorem State.wrBytes_interps (s : State) (a : Nat) (bs : List Byte) (p : Bool) : (s.wrBytes a bs p).interps = s.interps := rfl
@[simp] theorem State.wrBytes_rotClass (s : State) (a : Nat) (bs : List Byte) (p : Bool) : (s.wrBytes a bs p).rotClass = s.rotClass := rfl
@[simp] theorem State.wrBytes_rotGiven (s : State) (a : Nat) (bs : List Byte) (p : Bool) : (s.wrBytes a bs p).rotGiven = s.rotGiven := rfl
@[simp] theorem State.wrBytes_rotQueue (s : State) (a : Nat) (bs : List Byte) (p : Bool) : (s.wrBytes a bs p).rotQueue = s.rotQueue := rfl
@[simp] theorem State.wrBytes_flashA (s : State) (a : Nat) (bs : List Byte) (p : Bool) : (s.wrBytes a bs p).flashA = s.flashA := rfl
@[simp] theorem State.wrBytes_flashB (s : State) (a : Nat) (bs : List Byte) (p : Bool) : (s.wrBytes a bs p).flashB = s.flashB := rfl
@[simp] theorem State.wrBytes_flashDcA (s : State) (a : Nat) (bs : List Byte) (p : Bool) : (s.wrBytes a bs p).flashDcA = s.flashDcA := rfl
@[simp] theorem State.wrBytes_flashDcB (s : State) (a : Nat) (bs : List Byte) (p : Bool) : (s.wrBytes a bs p).flashDcB = s.flashDcB := rfl
@[simp] theorem State.wrBytes_certChain (s : State) (a : Nat) (bs : List Byte) (p : Bool) : (s.wrBytes a bs p).certChain = s.certChain := rfl
@[simp] theorem State.wrBytes_keyHash0 (s : State) (a : Nat) (bs : List Byte) (p : Bool) : (s.wrBytes a bs p).keyHash0 = s.keyHash0 := rfl
@[simp] theorem State.wrBytes_keyHash1 (s : State) (a : Nat) (bs : List Byte) (p : Bool) : (s.wrBytes a bs p).keyHash1 = s.keyHash1 := rfl
@[simp] theorem State.wrBytes_revoked0 (s : State) (a : Nat) (bs : List Byte) (p : Bool) : (s.wrBytes a bs p).revoked0 = s.revoked0 := rfl
@[simp] theorem State.wrBytes_floorIo (s : State) (a : Nat) (bs : List Byte) (p : Bool) : (s.wrBytes a bs p).floorIo = s.floorIo := rfl
@[simp] theorem State.wrBytes_floorDc (s : State) (a : Nat) (bs : List Byte) (p : Bool) : (s.wrBytes a bs p).floorDc = s.floorDc := rfl
@[simp] theorem State.wrBytes_bootCode (s : State) (a : Nat) (bs : List Byte) (p : Bool) : (s.wrBytes a bs p).bootCode = s.bootCode := rfl
@[simp] theorem State.wrBytes_bootB (s : State) (a : Nat) (bs : List Byte) (p : Bool) : (s.wrBytes a bs p).bootB = s.bootB := rfl
@[simp] theorem State.wrBytes_recovery (s : State) (a : Nat) (bs : List Byte) (p : Bool) : (s.wrBytes a bs p).recovery = s.recovery := rfl
@[simp] theorem State.wrBytes_svnIo (s : State) (a : Nat) (bs : List Byte) (p : Bool) : (s.wrBytes a bs p).svnIo = s.svnIo := rfl
@[simp] theorem State.wrBytes_mreg (s : State) (a : Nat) (bs : List Byte) (p : Bool) : (s.wrBytes a bs p).mreg = s.mreg := rfl
@[simp] theorem State.wrBytes_mextData (s : State) (a : Nat) (bs : List Byte) (p : Bool) : (s.wrBytes a bs p).mextData = s.mextData := rfl
@[simp] theorem State.wrBytes_mextCode (s : State) (a : Nat) (bs : List Byte) (p : Bool) : (s.wrBytes a bs p).mextCode = s.mextCode := rfl
@[simp] theorem State.wrBytes_mextGo (s : State) (a : Nat) (bs : List Byte) (p : Bool) : (s.wrBytes a bs p).mextGo = s.mextGo := rfl
@[simp] theorem State.wrBytes_mextIdx (s : State) (a : Nat) (bs : List Byte) (p : Bool) : (s.wrBytes a bs p).mextIdx = s.mextIdx := rfl
@[simp] theorem State.wrBytes_debug (s : State) (a : Nat) (bs : List Byte) (p : Bool) : (s.wrBytes a bs p).debug = s.debug := rfl
@[simp] theorem State.wrBytes_chans (s : State) (a : Nat) (bs : List Byte) (p : Bool) : (s.wrBytes a bs p).chans = s.chans := rfl
@[simp] theorem State.wrBytes_pkgid (s : State) (a : Nat) (bs : List Byte) (p : Bool) : (s.wrBytes a bs p).pkgid = s.pkgid := rfl
@[simp] theorem State.wrBytes_ports (s : State) (a : Nat) (bs : List Byte) (p : Bool) : (s.wrBytes a bs p).ports = s.ports := rfl
@[simp] theorem State.wrBytes_route (s : State) (a : Nat) (bs : List Byte) (p : Bool) : (s.wrBytes a bs p).route = s.route := rfl
@[simp] theorem State.wrBytes_homemap (s : State) (a : Nat) (bs : List Byte) (p : Bool) : (s.wrBytes a bs p).homemap = s.homemap := rfl
@[simp] theorem State.wrBytes_dirSets (s : State) (a : Nat) (bs : List Byte) (p : Bool) : (s.wrBytes a bs p).dirSets = s.dirSets := rfl
@[simp] theorem State.wrBytes_dirBase (s : State) (a : Nat) (bs : List Byte) (p : Bool) : (s.wrBytes a bs p).dirBase = s.dirBase := rfl
@[simp] theorem State.wrBytes_dirEn (s : State) (a : Nat) (bs : List Byte) (p : Bool) : (s.wrBytes a bs p).dirEn = s.dirEn := rfl
@[simp] theorem State.wrBytes_dirReqs (s : State) (a : Nat) (bs : List Byte) (p : Bool) : (s.wrBytes a bs p).dirReqs = s.dirReqs := rfl
@[simp] theorem State.wrBytes_dirTag (s : State) (a : Nat) (bs : List Byte) (p : Bool) : (s.wrBytes a bs p).dirTag = s.dirTag := rfl
@[simp] theorem State.wrBytes_repl (s : State) (a : Nat) (bs : List Byte) (p : Bool) : (s.wrBytes a bs p).repl = s.repl := rfl
@[simp] theorem State.wrBytes_collReady (s : State) (a : Nat) (bs : List Byte) (p : Bool) : (s.wrBytes a bs p).collReady = s.collReady := rfl
@[simp] theorem State.wrBytes_launches (s : State) (a : Nat) (bs : List Byte) (p : Bool) : (s.wrBytes a bs p).launches = s.launches := rfl
@[simp] theorem State.wrBytes_tenants (s : State) (a : Nat) (bs : List Byte) (p : Bool) : (s.wrBytes a bs p).tenants = s.tenants := rfl
@[simp] theorem State.wrBytes_gangTime (s : State) (a : Nat) (bs : List Byte) (p : Bool) : (s.wrBytes a bs p).gangTime = s.gangTime := rfl
@[simp] theorem State.wrBytes_gangSet (s : State) (a : Nat) (bs : List Byte) (p : Bool) : (s.wrBytes a bs p).gangSet = s.gangSet := rfl
@[simp] theorem State.wrBytes_gangDone (s : State) (a : Nat) (bs : List Byte) (p : Bool) : (s.wrBytes a bs p).gangDone = s.gangDone := rfl
@[simp] theorem State.wrBytes_gangArmed (s : State) (a : Nat) (bs : List Byte) (p : Bool) : (s.wrBytes a bs p).gangArmed = s.gangArmed := rfl
@[simp] theorem State.wrBytes_resBase (s : State) (a : Nat) (bs : List Byte) (p : Bool) : (s.wrBytes a bs p).resBase = s.resBase := rfl
@[simp] theorem State.wrBytes_resHandle (s : State) (a : Nat) (bs : List Byte) (p : Bool) : (s.wrBytes a bs p).resHandle = s.resHandle := rfl
@[simp] theorem State.wrBytes_resGo (s : State) (a : Nat) (bs : List Byte) (p : Bool) : (s.wrBytes a bs p).resGo = s.resGo := rfl
@[simp] theorem State.wrBytes_resCode (s : State) (a : Nat) (bs : List Byte) (p : Bool) : (s.wrBytes a bs p).resCode = s.resCode := rfl
@[simp] theorem State.wrBytes_resOp (s : State) (a : Nat) (bs : List Byte) (p : Bool) : (s.wrBytes a bs p).resOp = s.resOp := rfl
@[simp] theorem State.wrBytes_resRunHandle (s : State) (a : Nat) (bs : List Byte) (p : Bool) : (s.wrBytes a bs p).resRunHandle = s.resRunHandle := rfl
@[simp] theorem State.wrBytes_resRunOp (s : State) (a : Nat) (bs : List Byte) (p : Bool) : (s.wrBytes a bs p).resRunOp = s.resRunOp := rfl
@[simp] theorem State.wrBytes_resPool (s : State) (a : Nat) (bs : List Byte) (p : Bool) : (s.wrBytes a bs p).resPool = s.resPool := rfl
@[simp] theorem State.wrBytes_resCxl (s : State) (a : Nat) (bs : List Byte) (p : Bool) : (s.wrBytes a bs p).resCxl = s.resCxl := rfl
@[simp] theorem State.wrBytes_resMoves (s : State) (a : Nat) (bs : List Byte) (p : Bool) : (s.wrBytes a bs p).resMoves = s.resMoves := rfl
@[simp] theorem State.wrBytes_resLat (s : State) (a : Nat) (bs : List Byte) (p : Bool) : (s.wrBytes a bs p).resLat = s.resLat := rfl
@[simp] theorem State.wrBytes_sdAddr (s : State) (a : Nat) (bs : List Byte) (p : Bool) : (s.wrBytes a bs p).sdAddr = s.sdAddr := rfl
@[simp] theorem State.wrBytes_sdCtx (s : State) (a : Nat) (bs : List Byte) (p : Bool) : (s.wrBytes a bs p).sdCtx = s.sdCtx := rfl
@[simp] theorem State.wrBytes_sdGo (s : State) (a : Nat) (bs : List Byte) (p : Bool) : (s.wrBytes a bs p).sdGo = s.sdGo := rfl
@[simp] theorem State.wrBytes_sdCode (s : State) (a : Nat) (bs : List Byte) (p : Bool) : (s.wrBytes a bs p).sdCode = s.sdCode := rfl
@[simp] theorem State.wrBytes_sdScope (s : State) (a : Nat) (bs : List Byte) (p : Bool) : (s.wrBytes a bs p).sdScope = s.sdScope := rfl
@[simp] theorem State.wrBytes_sds (s : State) (a : Nat) (bs : List Byte) (p : Bool) : (s.wrBytes a bs p).sds = s.sds := rfl
@[simp] theorem State.wrBytes_nsAddr (s : State) (a : Nat) (bs : List Byte) (p : Bool) : (s.wrBytes a bs p).nsAddr = s.nsAddr := rfl
@[simp] theorem State.wrBytes_nsNsid (s : State) (a : Nat) (bs : List Byte) (p : Bool) : (s.wrBytes a bs p).nsNsid = s.nsNsid := rfl
@[simp] theorem State.wrBytes_nsGo (s : State) (a : Nat) (bs : List Byte) (p : Bool) : (s.wrBytes a bs p).nsGo = s.nsGo := rfl
@[simp] theorem State.wrBytes_nsCode (s : State) (a : Nat) (bs : List Byte) (p : Bool) : (s.wrBytes a bs p).nsCode = s.nsCode := rfl
@[simp] theorem State.wrBytes_nsOp (s : State) (a : Nat) (bs : List Byte) (p : Bool) : (s.wrBytes a bs p).nsOp = s.nsOp := rfl
@[simp] theorem State.wrBytes_nsRunNsid (s : State) (a : Nat) (bs : List Byte) (p : Bool) : (s.wrBytes a bs p).nsRunNsid = s.nsRunNsid := rfl
@[simp] theorem State.wrBytes_nsRunOp (s : State) (a : Nat) (bs : List Byte) (p : Bool) : (s.wrBytes a bs p).nsRunOp = s.nsRunOp := rfl
@[simp] theorem State.wrBytes_nss (s : State) (a : Nat) (bs : List Byte) (p : Bool) : (s.wrBytes a bs p).nss = s.nss := rfl
@[simp] theorem State.wrBytes_idxLog (s : State) (a : Nat) (bs : List Byte) (p : Bool) : (s.wrBytes a bs p).idxLog = s.idxLog := rfl
@[simp] theorem State.wrBytes_idxBase (s : State) (a : Nat) (bs : List Byte) (p : Bool) : (s.wrBytes a bs p).idxBase = s.idxBase := rfl
@[simp] theorem State.wrBytes_pools (s : State) (a : Nat) (bs : List Byte) (p : Bool) : (s.wrBytes a bs p).pools = s.pools := rfl
@[simp] theorem State.wrBytes_nodes (s : State) (a : Nat) (bs : List Byte) (p : Bool) : (s.wrBytes a bs p).nodes = s.nodes := rfl
@[simp] theorem State.wrBytes_index (s : State) (a : Nat) (bs : List Byte) (p : Bool) : (s.wrBytes a bs p).index = s.index := rfl
@[simp] theorem State.wrBytes_errOvf (s : State) (a : Nat) (bs : List Byte) (p : Bool) : (s.wrBytes a bs p).errOvf = s.errOvf := rfl
@[simp] theorem State.wrBytes_errLost (s : State) (a : Nat) (bs : List Byte) (p : Bool) : (s.wrBytes a bs p).errLost = s.errLost := rfl
@[simp] theorem State.wrBytes_ckCfg (s : State) (a : Nat) (bs : List Byte) (p : Bool) : (s.wrBytes a bs p).ckCfg = s.ckCfg := rfl

@[simp] theorem State.zero_agenda (s : State) (a n : Nat) : (s.zero a n).agenda = s.agenda := rfl
@[simp] theorem State.zero_focus (s : State) (a n : Nat) : (s.zero a n).focus = s.focus := rfl
@[simp] theorem State.zero_cur (s : State) (a n : Nat) : (s.zero a n).cur = s.cur := rfl
@[simp] theorem State.zero_fresh (s : State) (a n : Nat) : (s.zero a n).fresh = s.fresh := rfl
@[simp] theorem State.zero_nextId (s : State) (a n : Nat) : (s.zero a n).nextId = s.nextId := rfl
@[simp] theorem State.zero_out (s : State) (a n : Nat) : (s.zero a n).out = s.out := rfl
@[simp] theorem State.zero_lineKey (s : State) (a n : Nat) : (s.zero a n).lineKey = s.lineKey := rfl
@[simp] theorem State.zero_keys (s : State) (a n : Nat) : (s.zero a n).keys = s.keys := rfl
@[simp] theorem State.zero_gran (s : State) (a n : Nat) : (s.zero a n).gran = s.gran := rfl
@[simp] theorem State.zero_homeDir (s : State) (a n : Nat) : (s.zero a n).homeDir = s.homeDir := rfl
@[simp] theorem State.zero_tiles (s : State) (a n : Nat) : (s.zero a n).tiles = s.tiles := rfl
@[simp] theorem State.zero_dies (s : State) (a n : Nat) : (s.zero a n).dies = s.dies := rfl
@[simp] theorem State.zero_homes (s : State) (a n : Nat) : (s.zero a n).homes = s.homes := rfl
@[simp] theorem State.zero_ctxs (s : State) (a n : Nat) : (s.zero a n).ctxs = s.ctxs := rfl
@[simp] theorem State.zero_images (s : State) (a n : Nat) : (s.zero a n).images = s.images := rfl
@[simp] theorem State.zero_cy (s : State) (a n : Nat) : (s.zero a n).cy = s.cy := rfl
@[simp] theorem State.zero_devtime (s : State) (a n : Nat) : (s.zero a n).devtime = s.devtime := rfl
@[simp] theorem State.zero_tickcnt (s : State) (a n : Nat) : (s.zero a n).tickcnt = s.tickcnt := rfl
@[simp] theorem State.zero_tDomain (s : State) (a n : Nat) : (s.zero a n).tDomain = s.tDomain := rfl
@[simp] theorem State.zero_tDelay (s : State) (a n : Nat) : (s.zero a n).tDelay = s.tDelay := rfl
@[simp] theorem State.zero_tEn (s : State) (a n : Nat) : (s.zero a n).tEn = s.tEn := rfl
@[simp] theorem State.zero_tValid (s : State) (a n : Nat) : (s.zero a n).tValid = s.tValid := rfl
@[simp] theorem State.zero_tLocked (s : State) (a n : Nat) : (s.zero a n).tLocked = s.tLocked := rfl
@[simp] theorem State.zero_tHoldover (s : State) (a n : Nat) : (s.zero a n).tHoldover = s.tHoldover := rfl
@[simp] theorem State.zero_tStepped (s : State) (a n : Nat) : (s.zero a n).tStepped = s.tStepped := rfl
@[simp] theorem State.zero_tOffset (s : State) (a n : Nat) : (s.zero a n).tOffset = s.tOffset := rfl
@[simp] theorem State.zero_tSlew (s : State) (a n : Nat) : (s.zero a n).tSlew = s.tSlew := rfl
@[simp] theorem State.zero_tOwe (s : State) (a n : Nat) : (s.zero a n).tOwe = s.tOwe := rfl
@[simp] theorem State.zero_budget (s : State) (a n : Nat) : (s.zero a n).budget = s.budget := rfl
@[simp] theorem State.zero_budgetLock (s : State) (a n : Nat) : (s.zero a n).budgetLock = s.budgetLock := rfl
@[simp] theorem State.zero_held (s : State) (a n : Nat) : (s.zero a n).held = s.held := rfl
@[simp] theorem State.zero_heldAt (s : State) (a n : Nat) : (s.zero a n).heldAt = s.heldAt := rfl
@[simp] theorem State.zero_hot (s : State) (a n : Nat) : (s.zero a n).hot = s.hot := rfl
@[simp] theorem State.zero_hot110 (s : State) (a n : Nat) : (s.zero a n).hot110 = s.hot110 := rfl
@[simp] theorem State.zero_railsOff (s : State) (a n : Nat) : (s.zero a n).railsOff = s.railsOff := rfl
@[simp] theorem State.zero_warn (s : State) (a n : Nat) : (s.zero a n).warn = s.warn := rfl
@[simp] theorem State.zero_corrected (s : State) (a n : Nat) : (s.zero a n).corrected = s.corrected := rfl
@[simp] theorem State.zero_tileCorrected (s : State) (a n : Nat) : (s.zero a n).tileCorrected = s.tileCorrected := rfl
@[simp] theorem State.zero_scrubPass (s : State) (a n : Nat) : (s.zero a n).scrubPass = s.scrubPass := rfl
@[simp] theorem State.zero_scrubPos (s : State) (a n : Nat) : (s.zero a n).scrubPos = s.scrubPos := rfl
@[simp] theorem State.zero_scrubLine (s : State) (a n : Nat) : (s.zero a n).scrubLine = s.scrubLine := rfl
@[simp] theorem State.zero_cxl (s : State) (a n : Nat) : (s.zero a n).cxl = s.cxl := rfl
@[simp] theorem State.zero_fns (s : State) (a n : Nat) : (s.zero a n).fns = s.fns := rfl
@[simp] theorem State.zero_qfunc (s : State) (a n : Nat) : (s.zero a n).qfunc = s.qfunc := rfl
@[simp] theorem State.zero_queues (s : State) (a n : Nat) : (s.zero a n).queues = s.queues := rfl
@[simp] theorem State.zero_rings (s : State) (a n : Nat) : (s.zero a n).rings = s.rings := rfl
@[simp] theorem State.zero_progs (s : State) (a n : Nat) : (s.zero a n).progs = s.progs := rfl
@[simp] theorem State.zero_progAddr (s : State) (a n : Nat) : (s.zero a n).progAddr = s.progAddr := rfl
@[simp] theorem State.zero_progSlot (s : State) (a n : Nat) : (s.zero a n).progSlot = s.progSlot := rfl
@[simp] theorem State.zero_progWord (s : State) (a n : Nat) : (s.zero a n).progWord = s.progWord := rfl
@[simp] theorem State.zero_progBusy (s : State) (a n : Nat) : (s.zero a n).progBusy = s.progBusy := rfl
@[simp] theorem State.zero_hostFails (s : State) (a n : Nat) : (s.zero a n).hostFails = s.hostFails := rfl
@[simp] theorem State.zero_progCode (s : State) (a n : Nat) : (s.zero a n).progCode = s.progCode := rfl
@[simp] theorem State.zero_interps (s : State) (a n : Nat) : (s.zero a n).interps = s.interps := rfl
@[simp] theorem State.zero_rotClass (s : State) (a n : Nat) : (s.zero a n).rotClass = s.rotClass := rfl
@[simp] theorem State.zero_rotGiven (s : State) (a n : Nat) : (s.zero a n).rotGiven = s.rotGiven := rfl
@[simp] theorem State.zero_rotQueue (s : State) (a n : Nat) : (s.zero a n).rotQueue = s.rotQueue := rfl
@[simp] theorem State.zero_flashA (s : State) (a n : Nat) : (s.zero a n).flashA = s.flashA := rfl
@[simp] theorem State.zero_flashB (s : State) (a n : Nat) : (s.zero a n).flashB = s.flashB := rfl
@[simp] theorem State.zero_flashDcA (s : State) (a n : Nat) : (s.zero a n).flashDcA = s.flashDcA := rfl
@[simp] theorem State.zero_flashDcB (s : State) (a n : Nat) : (s.zero a n).flashDcB = s.flashDcB := rfl
@[simp] theorem State.zero_certChain (s : State) (a n : Nat) : (s.zero a n).certChain = s.certChain := rfl
@[simp] theorem State.zero_keyHash0 (s : State) (a n : Nat) : (s.zero a n).keyHash0 = s.keyHash0 := rfl
@[simp] theorem State.zero_keyHash1 (s : State) (a n : Nat) : (s.zero a n).keyHash1 = s.keyHash1 := rfl
@[simp] theorem State.zero_revoked0 (s : State) (a n : Nat) : (s.zero a n).revoked0 = s.revoked0 := rfl
@[simp] theorem State.zero_floorIo (s : State) (a n : Nat) : (s.zero a n).floorIo = s.floorIo := rfl
@[simp] theorem State.zero_floorDc (s : State) (a n : Nat) : (s.zero a n).floorDc = s.floorDc := rfl
@[simp] theorem State.zero_bootCode (s : State) (a n : Nat) : (s.zero a n).bootCode = s.bootCode := rfl
@[simp] theorem State.zero_bootB (s : State) (a n : Nat) : (s.zero a n).bootB = s.bootB := rfl
@[simp] theorem State.zero_recovery (s : State) (a n : Nat) : (s.zero a n).recovery = s.recovery := rfl
@[simp] theorem State.zero_svnIo (s : State) (a n : Nat) : (s.zero a n).svnIo = s.svnIo := rfl
@[simp] theorem State.zero_mreg (s : State) (a n : Nat) : (s.zero a n).mreg = s.mreg := rfl
@[simp] theorem State.zero_mextData (s : State) (a n : Nat) : (s.zero a n).mextData = s.mextData := rfl
@[simp] theorem State.zero_mextCode (s : State) (a n : Nat) : (s.zero a n).mextCode = s.mextCode := rfl
@[simp] theorem State.zero_mextGo (s : State) (a n : Nat) : (s.zero a n).mextGo = s.mextGo := rfl
@[simp] theorem State.zero_mextIdx (s : State) (a n : Nat) : (s.zero a n).mextIdx = s.mextIdx := rfl
@[simp] theorem State.zero_debug (s : State) (a n : Nat) : (s.zero a n).debug = s.debug := rfl
@[simp] theorem State.zero_chans (s : State) (a n : Nat) : (s.zero a n).chans = s.chans := rfl
@[simp] theorem State.zero_pkgid (s : State) (a n : Nat) : (s.zero a n).pkgid = s.pkgid := rfl
@[simp] theorem State.zero_ports (s : State) (a n : Nat) : (s.zero a n).ports = s.ports := rfl
@[simp] theorem State.zero_route (s : State) (a n : Nat) : (s.zero a n).route = s.route := rfl
@[simp] theorem State.zero_homemap (s : State) (a n : Nat) : (s.zero a n).homemap = s.homemap := rfl
@[simp] theorem State.zero_dirSets (s : State) (a n : Nat) : (s.zero a n).dirSets = s.dirSets := rfl
@[simp] theorem State.zero_dirBase (s : State) (a n : Nat) : (s.zero a n).dirBase = s.dirBase := rfl
@[simp] theorem State.zero_dirEn (s : State) (a n : Nat) : (s.zero a n).dirEn = s.dirEn := rfl
@[simp] theorem State.zero_dirReqs (s : State) (a n : Nat) : (s.zero a n).dirReqs = s.dirReqs := rfl
@[simp] theorem State.zero_dirTag (s : State) (a n : Nat) : (s.zero a n).dirTag = s.dirTag := rfl
@[simp] theorem State.zero_repl (s : State) (a n : Nat) : (s.zero a n).repl = s.repl := rfl
@[simp] theorem State.zero_collReady (s : State) (a n : Nat) : (s.zero a n).collReady = s.collReady := rfl
@[simp] theorem State.zero_launches (s : State) (a n : Nat) : (s.zero a n).launches = s.launches := rfl
@[simp] theorem State.zero_tenants (s : State) (a n : Nat) : (s.zero a n).tenants = s.tenants := rfl
@[simp] theorem State.zero_gangTime (s : State) (a n : Nat) : (s.zero a n).gangTime = s.gangTime := rfl
@[simp] theorem State.zero_gangSet (s : State) (a n : Nat) : (s.zero a n).gangSet = s.gangSet := rfl
@[simp] theorem State.zero_gangDone (s : State) (a n : Nat) : (s.zero a n).gangDone = s.gangDone := rfl
@[simp] theorem State.zero_gangArmed (s : State) (a n : Nat) : (s.zero a n).gangArmed = s.gangArmed := rfl
@[simp] theorem State.zero_resBase (s : State) (a n : Nat) : (s.zero a n).resBase = s.resBase := rfl
@[simp] theorem State.zero_resHandle (s : State) (a n : Nat) : (s.zero a n).resHandle = s.resHandle := rfl
@[simp] theorem State.zero_resGo (s : State) (a n : Nat) : (s.zero a n).resGo = s.resGo := rfl
@[simp] theorem State.zero_resCode (s : State) (a n : Nat) : (s.zero a n).resCode = s.resCode := rfl
@[simp] theorem State.zero_resOp (s : State) (a n : Nat) : (s.zero a n).resOp = s.resOp := rfl
@[simp] theorem State.zero_resRunHandle (s : State) (a n : Nat) : (s.zero a n).resRunHandle = s.resRunHandle := rfl
@[simp] theorem State.zero_resRunOp (s : State) (a n : Nat) : (s.zero a n).resRunOp = s.resRunOp := rfl
@[simp] theorem State.zero_resPool (s : State) (a n : Nat) : (s.zero a n).resPool = s.resPool := rfl
@[simp] theorem State.zero_resCxl (s : State) (a n : Nat) : (s.zero a n).resCxl = s.resCxl := rfl
@[simp] theorem State.zero_resMoves (s : State) (a n : Nat) : (s.zero a n).resMoves = s.resMoves := rfl
@[simp] theorem State.zero_resLat (s : State) (a n : Nat) : (s.zero a n).resLat = s.resLat := rfl
@[simp] theorem State.zero_sdAddr (s : State) (a n : Nat) : (s.zero a n).sdAddr = s.sdAddr := rfl
@[simp] theorem State.zero_sdCtx (s : State) (a n : Nat) : (s.zero a n).sdCtx = s.sdCtx := rfl
@[simp] theorem State.zero_sdGo (s : State) (a n : Nat) : (s.zero a n).sdGo = s.sdGo := rfl
@[simp] theorem State.zero_sdCode (s : State) (a n : Nat) : (s.zero a n).sdCode = s.sdCode := rfl
@[simp] theorem State.zero_sdScope (s : State) (a n : Nat) : (s.zero a n).sdScope = s.sdScope := rfl
@[simp] theorem State.zero_sds (s : State) (a n : Nat) : (s.zero a n).sds = s.sds := rfl
@[simp] theorem State.zero_nsAddr (s : State) (a n : Nat) : (s.zero a n).nsAddr = s.nsAddr := rfl
@[simp] theorem State.zero_nsNsid (s : State) (a n : Nat) : (s.zero a n).nsNsid = s.nsNsid := rfl
@[simp] theorem State.zero_nsGo (s : State) (a n : Nat) : (s.zero a n).nsGo = s.nsGo := rfl
@[simp] theorem State.zero_nsCode (s : State) (a n : Nat) : (s.zero a n).nsCode = s.nsCode := rfl
@[simp] theorem State.zero_nsOp (s : State) (a n : Nat) : (s.zero a n).nsOp = s.nsOp := rfl
@[simp] theorem State.zero_nsRunNsid (s : State) (a n : Nat) : (s.zero a n).nsRunNsid = s.nsRunNsid := rfl
@[simp] theorem State.zero_nsRunOp (s : State) (a n : Nat) : (s.zero a n).nsRunOp = s.nsRunOp := rfl
@[simp] theorem State.zero_nss (s : State) (a n : Nat) : (s.zero a n).nss = s.nss := rfl
@[simp] theorem State.zero_idxLog (s : State) (a n : Nat) : (s.zero a n).idxLog = s.idxLog := rfl
@[simp] theorem State.zero_idxBase (s : State) (a n : Nat) : (s.zero a n).idxBase = s.idxBase := rfl
@[simp] theorem State.zero_pools (s : State) (a n : Nat) : (s.zero a n).pools = s.pools := rfl
@[simp] theorem State.zero_nodes (s : State) (a n : Nat) : (s.zero a n).nodes = s.nodes := rfl
@[simp] theorem State.zero_index (s : State) (a n : Nat) : (s.zero a n).index = s.index := rfl
@[simp] theorem State.zero_errOvf (s : State) (a n : Nat) : (s.zero a n).errOvf = s.errOvf := rfl
@[simp] theorem State.zero_errLost (s : State) (a n : Nat) : (s.zero a n).errLost = s.errLost := rfl
@[simp] theorem State.zero_ckCfg (s : State) (a n : Nat) : (s.zero a n).ckCfg = s.ckCfg := rfl

/-! ## Reads that an update of another table leaves -/

@[simp] theorem State.setTile_queue (s : State) (g : BitVec 8) (t : Tile) (k : BitVec 10) : (s.setTile g t).queue k = s.queue k := rfl
@[simp] theorem State.setTile_ring (s : State) (g : BitVec 8) (t : Tile) (k : Nat) : (s.setTile g t).ring k = s.ring k := rfl
@[simp] theorem State.setTile_fn (s : State) (g : BitVec 8) (t : Tile) (k : BitVec 8) : (s.setTile g t).fn k = s.fn k := rfl
@[simp] theorem State.setTile_die (s : State) (g : BitVec 8) (t : Tile) (k : BitVec 2) : (s.setTile g t).die k = s.die k := rfl
@[simp] theorem State.setTile_home (s : State) (g : BitVec 8) (t : Tile) (k : BitVec 3) : (s.setTile g t).home k = s.home k := rfl
@[simp] theorem State.setTile_ctxq (s : State) (g : BitVec 8) (t : Tile) (k : BitVec 16) : (s.setTile g t).ctx? k = s.ctx? k := rfl
@[simp] theorem State.setTile_launchq (s : State) (g : BitVec 8) (t : Tile) (k : Nat) : (s.setTile g t).launch? k = s.launch? k := rfl
@[simp] theorem State.modTile_queue (s : State) (g : BitVec 8) (f : Tile → Tile) (k : BitVec 10) : (s.modTile g f).queue k = s.queue k := rfl
@[simp] theorem State.modTile_ring (s : State) (g : BitVec 8) (f : Tile → Tile) (k : Nat) : (s.modTile g f).ring k = s.ring k := rfl
@[simp] theorem State.modTile_fn (s : State) (g : BitVec 8) (f : Tile → Tile) (k : BitVec 8) : (s.modTile g f).fn k = s.fn k := rfl
@[simp] theorem State.modTile_die (s : State) (g : BitVec 8) (f : Tile → Tile) (k : BitVec 2) : (s.modTile g f).die k = s.die k := rfl
@[simp] theorem State.modTile_home (s : State) (g : BitVec 8) (f : Tile → Tile) (k : BitVec 3) : (s.modTile g f).home k = s.home k := rfl
@[simp] theorem State.modTile_ctxq (s : State) (g : BitVec 8) (f : Tile → Tile) (k : BitVec 16) : (s.modTile g f).ctx? k = s.ctx? k := rfl
@[simp] theorem State.modTile_launchq (s : State) (g : BitVec 8) (f : Tile → Tile) (k : Nat) : (s.modTile g f).launch? k = s.launch? k := rfl
@[simp] theorem State.setQueue_tile (s : State) (q : BitVec 10) (x : Queue) (h : BitVec 8) : (s.setQueue q x).tile h = s.tile h := rfl
@[simp] theorem State.setQueue_ring (s : State) (q : BitVec 10) (x : Queue) (k : Nat) : (s.setQueue q x).ring k = s.ring k := rfl
@[simp] theorem State.setQueue_fn (s : State) (q : BitVec 10) (x : Queue) (k : BitVec 8) : (s.setQueue q x).fn k = s.fn k := rfl
@[simp] theorem State.setQueue_die (s : State) (q : BitVec 10) (x : Queue) (k : BitVec 2) : (s.setQueue q x).die k = s.die k := rfl
@[simp] theorem State.setQueue_home (s : State) (q : BitVec 10) (x : Queue) (k : BitVec 3) : (s.setQueue q x).home k = s.home k := rfl
@[simp] theorem State.setQueue_ctxq (s : State) (q : BitVec 10) (x : Queue) (k : BitVec 16) : (s.setQueue q x).ctx? k = s.ctx? k := rfl
@[simp] theorem State.setQueue_launchq (s : State) (q : BitVec 10) (x : Queue) (k : Nat) : (s.setQueue q x).launch? k = s.launch? k := rfl
@[simp] theorem State.modQueue_tile (s : State) (q : BitVec 10) (f : Queue → Queue) (h : BitVec 8) : (s.modQueue q f).tile h = s.tile h := rfl
@[simp] theorem State.modQueue_ring (s : State) (q : BitVec 10) (f : Queue → Queue) (k : Nat) : (s.modQueue q f).ring k = s.ring k := rfl
@[simp] theorem State.modQueue_fn (s : State) (q : BitVec 10) (f : Queue → Queue) (k : BitVec 8) : (s.modQueue q f).fn k = s.fn k := rfl
@[simp] theorem State.modQueue_die (s : State) (q : BitVec 10) (f : Queue → Queue) (k : BitVec 2) : (s.modQueue q f).die k = s.die k := rfl
@[simp] theorem State.modQueue_home (s : State) (q : BitVec 10) (f : Queue → Queue) (k : BitVec 3) : (s.modQueue q f).home k = s.home k := rfl
@[simp] theorem State.modQueue_ctxq (s : State) (q : BitVec 10) (f : Queue → Queue) (k : BitVec 16) : (s.modQueue q f).ctx? k = s.ctx? k := rfl
@[simp] theorem State.modQueue_launchq (s : State) (q : BitVec 10) (f : Queue → Queue) (k : Nat) : (s.modQueue q f).launch? k = s.launch? k := rfl
@[simp] theorem State.setRing_tile (s : State) (c : Nat) (x : Ring) (h : BitVec 8) : (s.setRing c x).tile h = s.tile h := rfl
@[simp] theorem State.setRing_queue (s : State) (c : Nat) (x : Ring) (k : BitVec 10) : (s.setRing c x).queue k = s.queue k := rfl
@[simp] theorem State.setRing_fn (s : State) (c : Nat) (x : Ring) (k : BitVec 8) : (s.setRing c x).fn k = s.fn k := rfl
@[simp] theorem State.setRing_die (s : State) (c : Nat) (x : Ring) (k : BitVec 2) : (s.setRing c x).die k = s.die k := rfl
@[simp] theorem State.setRing_home (s : State) (c : Nat) (x : Ring) (k : BitVec 3) : (s.setRing c x).home k = s.home k := rfl
@[simp] theorem State.setRing_ctxq (s : State) (c : Nat) (x : Ring) (k : BitVec 16) : (s.setRing c x).ctx? k = s.ctx? k := rfl
@[simp] theorem State.setRing_launchq (s : State) (c : Nat) (x : Ring) (k : Nat) : (s.setRing c x).launch? k = s.launch? k := rfl
@[simp] theorem State.modRing_tile (s : State) (c : Nat) (f : Ring → Ring) (h : BitVec 8) : (s.modRing c f).tile h = s.tile h := rfl
@[simp] theorem State.modRing_queue (s : State) (c : Nat) (f : Ring → Ring) (k : BitVec 10) : (s.modRing c f).queue k = s.queue k := rfl
@[simp] theorem State.modRing_fn (s : State) (c : Nat) (f : Ring → Ring) (k : BitVec 8) : (s.modRing c f).fn k = s.fn k := rfl
@[simp] theorem State.modRing_die (s : State) (c : Nat) (f : Ring → Ring) (k : BitVec 2) : (s.modRing c f).die k = s.die k := rfl
@[simp] theorem State.modRing_home (s : State) (c : Nat) (f : Ring → Ring) (k : BitVec 3) : (s.modRing c f).home k = s.home k := rfl
@[simp] theorem State.modRing_ctxq (s : State) (c : Nat) (f : Ring → Ring) (k : BitVec 16) : (s.modRing c f).ctx? k = s.ctx? k := rfl
@[simp] theorem State.modRing_launchq (s : State) (c : Nat) (f : Ring → Ring) (k : Nat) : (s.modRing c f).launch? k = s.launch? k := rfl
@[simp] theorem State.setFn_tile (s : State) (f : BitVec 8) (x : Fn) (h : BitVec 8) : (s.setFn f x).tile h = s.tile h := rfl
@[simp] theorem State.setFn_queue (s : State) (f : BitVec 8) (x : Fn) (k : BitVec 10) : (s.setFn f x).queue k = s.queue k := rfl
@[simp] theorem State.setFn_ring (s : State) (f : BitVec 8) (x : Fn) (k : Nat) : (s.setFn f x).ring k = s.ring k := rfl
@[simp] theorem State.setFn_die (s : State) (f : BitVec 8) (x : Fn) (k : BitVec 2) : (s.setFn f x).die k = s.die k := rfl
@[simp] theorem State.setFn_home (s : State) (f : BitVec 8) (x : Fn) (k : BitVec 3) : (s.setFn f x).home k = s.home k := rfl
@[simp] theorem State.setFn_ctxq (s : State) (f : BitVec 8) (x : Fn) (k : BitVec 16) : (s.setFn f x).ctx? k = s.ctx? k := rfl
@[simp] theorem State.setFn_launchq (s : State) (f : BitVec 8) (x : Fn) (k : Nat) : (s.setFn f x).launch? k = s.launch? k := rfl
@[simp] theorem State.setDie_tile (s : State) (d : BitVec 2) (x : Die) (h : BitVec 8) : (s.setDie d x).tile h = s.tile h := rfl
@[simp] theorem State.setDie_queue (s : State) (d : BitVec 2) (x : Die) (k : BitVec 10) : (s.setDie d x).queue k = s.queue k := rfl
@[simp] theorem State.setDie_ring (s : State) (d : BitVec 2) (x : Die) (k : Nat) : (s.setDie d x).ring k = s.ring k := rfl
@[simp] theorem State.setDie_fn (s : State) (d : BitVec 2) (x : Die) (k : BitVec 8) : (s.setDie d x).fn k = s.fn k := rfl
@[simp] theorem State.setDie_home (s : State) (d : BitVec 2) (x : Die) (k : BitVec 3) : (s.setDie d x).home k = s.home k := rfl
@[simp] theorem State.setDie_ctxq (s : State) (d : BitVec 2) (x : Die) (k : BitVec 16) : (s.setDie d x).ctx? k = s.ctx? k := rfl
@[simp] theorem State.setDie_launchq (s : State) (d : BitVec 2) (x : Die) (k : Nat) : (s.setDie d x).launch? k = s.launch? k := rfl
@[simp] theorem State.setHome_tile (s : State) (h : BitVec 3) (x : Home) (g : BitVec 8) : (s.setHome h x).tile g = s.tile g := rfl
@[simp] theorem State.setHome_queue (s : State) (h : BitVec 3) (x : Home) (k : BitVec 10) : (s.setHome h x).queue k = s.queue k := rfl
@[simp] theorem State.setHome_ring (s : State) (h : BitVec 3) (x : Home) (k : Nat) : (s.setHome h x).ring k = s.ring k := rfl
@[simp] theorem State.setHome_fn (s : State) (h : BitVec 3) (x : Home) (k : BitVec 8) : (s.setHome h x).fn k = s.fn k := rfl
@[simp] theorem State.setHome_die (s : State) (h : BitVec 3) (x : Home) (k : BitVec 2) : (s.setHome h x).die k = s.die k := rfl
@[simp] theorem State.setHome_ctxq (s : State) (h : BitVec 3) (x : Home) (k : BitVec 16) : (s.setHome h x).ctx? k = s.ctx? k := rfl
@[simp] theorem State.setHome_launchq (s : State) (h : BitVec 3) (x : Home) (k : Nat) : (s.setHome h x).launch? k = s.launch? k := rfl
@[simp] theorem State.setCtx_tile (s : State) (x : Ctx) (h : BitVec 8) : (s.setCtx x).tile h = s.tile h := rfl
@[simp] theorem State.setCtx_queue (s : State) (x : Ctx) (k : BitVec 10) : (s.setCtx x).queue k = s.queue k := rfl
@[simp] theorem State.setCtx_ring (s : State) (x : Ctx) (k : Nat) : (s.setCtx x).ring k = s.ring k := rfl
@[simp] theorem State.setCtx_fn (s : State) (x : Ctx) (k : BitVec 8) : (s.setCtx x).fn k = s.fn k := rfl
@[simp] theorem State.setCtx_die (s : State) (x : Ctx) (k : BitVec 2) : (s.setCtx x).die k = s.die k := rfl
@[simp] theorem State.setCtx_home (s : State) (x : Ctx) (k : BitVec 3) : (s.setCtx x).home k = s.home k := rfl
@[simp] theorem State.setCtx_launchq (s : State) (x : Ctx) (k : Nat) : (s.setCtx x).launch? k = s.launch? k := rfl
@[simp] theorem State.modCtx_tile (s : State) (c : BitVec 16) (f : Ctx → Ctx) (h : BitVec 8) : (s.modCtx c f).tile h = s.tile h := by simp [State.tile]
@[simp] theorem State.modCtx_queue (s : State) (c : BitVec 16) (f : Ctx → Ctx) (k : BitVec 10) : (s.modCtx c f).queue k = s.queue k := by simp [State.queue]
@[simp] theorem State.modCtx_ring (s : State) (c : BitVec 16) (f : Ctx → Ctx) (k : Nat) : (s.modCtx c f).ring k = s.ring k := by simp [State.ring]
@[simp] theorem State.modCtx_fn (s : State) (c : BitVec 16) (f : Ctx → Ctx) (k : BitVec 8) : (s.modCtx c f).fn k = s.fn k := by simp [State.fn]
@[simp] theorem State.modCtx_die (s : State) (c : BitVec 16) (f : Ctx → Ctx) (k : BitVec 2) : (s.modCtx c f).die k = s.die k := by simp [State.die]
@[simp] theorem State.modCtx_home (s : State) (c : BitVec 16) (f : Ctx → Ctx) (k : BitVec 3) : (s.modCtx c f).home k = s.home k := by simp [State.home]
@[simp] theorem State.modCtx_launchq (s : State) (c : BitVec 16) (f : Ctx → Ctx) (k : Nat) : (s.modCtx c f).launch? k = s.launch? k := by simp [State.launch?]
@[simp] theorem State.setLaunch_tile (s : State) (l : Launch) (h : BitVec 8) : (s.setLaunch l).tile h = s.tile h := rfl
@[simp] theorem State.setLaunch_queue (s : State) (l : Launch) (k : BitVec 10) : (s.setLaunch l).queue k = s.queue k := rfl
@[simp] theorem State.setLaunch_ring (s : State) (l : Launch) (k : Nat) : (s.setLaunch l).ring k = s.ring k := rfl
@[simp] theorem State.setLaunch_fn (s : State) (l : Launch) (k : BitVec 8) : (s.setLaunch l).fn k = s.fn k := rfl
@[simp] theorem State.setLaunch_die (s : State) (l : Launch) (k : BitVec 2) : (s.setLaunch l).die k = s.die k := rfl
@[simp] theorem State.setLaunch_home (s : State) (l : Launch) (k : BitVec 3) : (s.setLaunch l).home k = s.home k := rfl
@[simp] theorem State.setLaunch_ctxq (s : State) (l : Launch) (k : BitVec 16) : (s.setLaunch l).ctx? k = s.ctx? k := rfl
@[simp] theorem State.emit_tile (s : State) (o : Output) (h : BitVec 8) : (s.emit o).tile h = s.tile h := rfl
@[simp] theorem State.emit_queue (s : State) (o : Output) (k : BitVec 10) : (s.emit o).queue k = s.queue k := rfl
@[simp] theorem State.emit_ring (s : State) (o : Output) (k : Nat) : (s.emit o).ring k = s.ring k := rfl
@[simp] theorem State.emit_fn (s : State) (o : Output) (k : BitVec 8) : (s.emit o).fn k = s.fn k := rfl
@[simp] theorem State.emit_die (s : State) (o : Output) (k : BitVec 2) : (s.emit o).die k = s.die k := rfl
@[simp] theorem State.emit_home (s : State) (o : Output) (k : BitVec 3) : (s.emit o).home k = s.home k := rfl
@[simp] theorem State.emit_ctxq (s : State) (o : Output) (k : BitVec 16) : (s.emit o).ctx? k = s.ctx? k := rfl
@[simp] theorem State.emit_launchq (s : State) (o : Output) (k : Nat) : (s.emit o).launch? k = s.launch? k := rfl
@[simp] theorem State.free_tile (s : State) (w : Nat) (h : BitVec 8) : ((s.free w).2).tile h = s.tile h := rfl
@[simp] theorem State.free_queue (s : State) (w : Nat) (k : BitVec 10) : ((s.free w).2).queue k = s.queue k := rfl
@[simp] theorem State.free_ring (s : State) (w : Nat) (k : Nat) : ((s.free w).2).ring k = s.ring k := rfl
@[simp] theorem State.free_fn (s : State) (w : Nat) (k : BitVec 8) : ((s.free w).2).fn k = s.fn k := rfl
@[simp] theorem State.free_die (s : State) (w : Nat) (k : BitVec 2) : ((s.free w).2).die k = s.die k := rfl
@[simp] theorem State.free_home (s : State) (w : Nat) (k : BitVec 3) : ((s.free w).2).home k = s.home k := rfl
@[simp] theorem State.free_ctxq (s : State) (w : Nat) (k : BitVec 16) : ((s.free w).2).ctx? k = s.ctx? k := rfl
@[simp] theorem State.free_launchq (s : State) (w : Nat) (k : Nat) : ((s.free w).2).launch? k = s.launch? k := rfl
@[simp] theorem State.wrBytes_tile (s : State) (a : Nat) (bs : List Byte) (p : Bool) (h : BitVec 8) : (s.wrBytes a bs p).tile h = s.tile h := rfl
@[simp] theorem State.wrBytes_queue (s : State) (a : Nat) (bs : List Byte) (p : Bool) (k : BitVec 10) : (s.wrBytes a bs p).queue k = s.queue k := rfl
@[simp] theorem State.wrBytes_ring (s : State) (a : Nat) (bs : List Byte) (p : Bool) (k : Nat) : (s.wrBytes a bs p).ring k = s.ring k := rfl
@[simp] theorem State.wrBytes_fn (s : State) (a : Nat) (bs : List Byte) (p : Bool) (k : BitVec 8) : (s.wrBytes a bs p).fn k = s.fn k := rfl
@[simp] theorem State.wrBytes_die (s : State) (a : Nat) (bs : List Byte) (p : Bool) (k : BitVec 2) : (s.wrBytes a bs p).die k = s.die k := rfl
@[simp] theorem State.wrBytes_home (s : State) (a : Nat) (bs : List Byte) (p : Bool) (k : BitVec 3) : (s.wrBytes a bs p).home k = s.home k := rfl
@[simp] theorem State.wrBytes_ctxq (s : State) (a : Nat) (bs : List Byte) (p : Bool) (k : BitVec 16) : (s.wrBytes a bs p).ctx? k = s.ctx? k := rfl
@[simp] theorem State.wrBytes_launchq (s : State) (a : Nat) (bs : List Byte) (p : Bool) (k : Nat) : (s.wrBytes a bs p).launch? k = s.launch? k := rfl
@[simp] theorem State.zero_tile (s : State) (a n : Nat) (h : BitVec 8) : (s.zero a n).tile h = s.tile h := rfl
@[simp] theorem State.zero_queue (s : State) (a n : Nat) (k : BitVec 10) : (s.zero a n).queue k = s.queue k := rfl
@[simp] theorem State.zero_ring (s : State) (a n : Nat) (k : Nat) : (s.zero a n).ring k = s.ring k := rfl
@[simp] theorem State.zero_fn (s : State) (a n : Nat) (k : BitVec 8) : (s.zero a n).fn k = s.fn k := rfl
@[simp] theorem State.zero_die (s : State) (a n : Nat) (k : BitVec 2) : (s.zero a n).die k = s.die k := rfl
@[simp] theorem State.zero_home (s : State) (a n : Nat) (k : BitVec 3) : (s.zero a n).home k = s.home k := rfl
@[simp] theorem State.zero_ctxq (s : State) (a n : Nat) (k : BitVec 16) : (s.zero a n).ctx? k = s.ctx? k := rfl
@[simp] theorem State.zero_launchq (s : State) (a n : Nat) (k : Nat) : (s.zero a n).launch? k = s.launch? k := rfl

end Sys2Proof.Machine
end

