-- ==== Sys2Proof/Laws/Tile.lean ====
section
/-! SUPPORT. The named updates of a tile: what each changes reads back, and every other field is unchanged; and what an
issue of an instruction makes of its body's answer. -/

namespace Sys2Proof.Machine

/-! ## Registers, program counters, flags -/

/-- `a0` reads as zero, never poisoned. -/
@[simp] theorem Tile.rdA_zero (t : Tile) : t.rdA 0 = (0, false) := rfl

theorem setBit_getLsbD {w : Nat} (v : BitVec w) (i j : Nat) (b : Bool) (hi : i < w) :
    (setBit v i b).getLsbD j = if j = i then b else v.getLsbD j := by
  have h2 : (BitVec.ofNat w (2 ^ i)).getLsbD j = decide (j = i) := by
    simp only [BitVec.getLsbD_ofNat, Nat.testBit_two_pow]
    by_cases hj : i = j
    · subst hj; simp [hi]
    · simp [hj, Ne.symm hj]
  have h3 : (if b then v ||| BitVec.ofNat w (2 ^ i) else v &&& ~~~ (BitVec.ofNat w (2 ^ i))).getLsbD j =
      if j = i then b else v.getLsbD j := by
    generalize BitVec.ofNat w (2 ^ i) = m at h2
    by_cases hw : j < w
    · have h4 : (v ||| m).getLsbD j = (v.getLsbD j || decide (j = i)) := by rw [BitVec.getLsbD_or, h2]
      have h5 : (v &&& ~~~ m).getLsbD j = (v.getLsbD j && !decide (j = i)) := by
        rw [BitVec.getLsbD_and, BitVec.getLsbD_not, h2]; simp [hw]
      cases b
      · rw [if_neg (by decide), h5]; by_cases hj : j = i <;> simp [hj]
      · rw [if_pos rfl, h4]; by_cases hj : j = i <;> simp [hj]
    · have : j ≠ i := by omega
      simp [this, BitVec.getLsbD_of_ge _ _ (Nat.le_of_not_lt hw)]
  exact h3

/-- A written `a` register reads as written. -/
theorem Tile.rdA_wrA_self (t : Tile) {r : R5} (v : W64) (p : Bool) (h : r ≠ 0) : (t.wrA r v p).rdA r = (v, p) := by
  unfold Tile.wrA Tile.rdA
  rw [if_neg h, if_neg h]
  dsimp only
  rw [vget_vset_self _ _ _ _ r.isLt, setBit_getLsbD _ _ _ _ r.isLt, if_pos rfl]

/-- A write of `a0` is discarded. -/
@[simp] theorem Tile.wrA_zero (t : Tile) (v : W64) (p : Bool) : t.wrA 0 v p = t := rfl

/-- A write of one `a` register leaves the others. -/
theorem Tile.rdA_wrA_of_ne (t : Tile) {r k : R5} (v : W64) (p : Bool) (h : k ≠ r) : (t.wrA r v p).rdA k = t.rdA k := by
  have hn : k.toNat ≠ r.toNat := fun e => h (BitVec.eq_of_toNat_eq e)
  by_cases h0 : r = 0
  · subst h0; rfl
  · unfold Tile.wrA Tile.rdA
    rw [if_neg h0]
    dsimp only
    rw [vget_vset_of_ne _ _ _ h, setBit_getLsbD _ _ _ _ r.isLt, if_neg hn]

@[simp] theorem Tile.pc_setPc (t : Tile) (st : Stream) (p : Pc) : (t.setPc st p).pc st = p := by cases st <;> rfl
@[simp] theorem Tile.pc_advance (t : Tile) (st : Stream) (n : Nat) : (t.advance st n).pc st = t.pc st + BitVec.ofNat 14 n := by
  cases st <;> rfl
@[simp] theorem Tile.csr_setCsr (t : Tile) (st : Stream) (c : StreamCsr) : (t.setCsr st c).csr st = c := by cases st <;> rfl
@[simp] theorem Tile.eng_setEng (t : Tile) (e : Eng) (q : EngQ) : (t.setEng e q).eng e = q := by cases e <;> rfl
theorem Tile.eng_setEng_of_ne (t : Tile) {e k : Eng} (q : EngQ) (h : k ≠ e) : (t.setEng e q).eng k = t.eng k := by
  cases e <;> cases k <;> first | rfl | exact absurd rfl h
@[simp] theorem Tile.vname_setVname (t : Tile) (r : V6) (n : VName) : (t.setVname r n).vname r = n := vget_vset_self _ _ _ _ r.isLt
theorem Tile.vname_setVname_of_ne (t : Tile) {r k : V6} (n : VName) (h : k ≠ r) : (t.setVname r n).vname k = t.vname k :=
  vget_vset_of_ne _ _ _ h
@[simp] theorem Tile.passX_a (t : Tile) (n : Nat) : t.passX .a n = t := rfl

/-! ## Counters -/

theorem Tile.bump_eq (t : Tile) (j : BitVec 3) :
    ∃ a b c, t.bump j = { t with pmc := a, pmovf := b, pmwrap := c } := by
  unfold Tile.bump; dsimp only
  split
  · exact ⟨_, _, _, rfl⟩
  · exact ⟨_, t.pmovf, t.pmwrap, rfl⟩

/-- Two states of a tile that differ in its performance counters alone. -/
def Tile.SameButPmc (t u : Tile) : Prop := ∃ a b c, u = { t with pmc := a, pmovf := b, pmwrap := c }

theorem Tile.SameButPmc.bump {t u : Tile} (h : t.SameButPmc u) (j : BitVec 3) : t.SameButPmc (u.bump j) := by
  obtain ⟨a, b, c, rfl⟩ := h
  obtain ⟨a', b', c', h'⟩ := Tile.bump_eq { t with pmc := a, pmovf := b, pmwrap := c } j
  rw [h']
  exact ⟨a', b', c', rfl⟩

/-- Counting an event changes the performance counters alone. -/
theorem Tile.count_eq (t : Tile) (ev : Nat) (st : Option Stream) :
    ∃ a b c, t.count ev st = { t with pmc := a, pmovf := b, pmwrap := c } := by
  unfold Tile.count
  generalize [(0 : BitVec 3), 1, 2, 3, 4, 5, 6, 7] = l
  suffices h : ∀ u : Tile, t.SameButPmc u → t.SameButPmc (List.foldl (fun (t : Tile) (j : BitVec 3) =>
        let sel := vget t.pmsel 0 j
        let mine := match st with
          | none => true
          | some st => sel.getLsbD 9 == (st == .x)
        if (sel.extractLsb' 0 8).toNat == ev && ev != 0 && mine then t.bump j else t) u l) from
    h t ⟨t.pmc, t.pmovf, t.pmwrap, rfl⟩
  induction l with
  | nil => exact fun u hu => hu
  | cons j r ih =>
    intro u hu
    rw [List.foldl_cons]
    apply ih
    cases st <;> (dsimp only; split <;> first | exact hu.bump j | exact hu)

/-! ## Fields that an update leaves -/

@[simp] theorem Tile.setPc_ctx (t : Tile) (st : Stream) (p : Pc) : (t.setPc st p).ctx = t.ctx := by cases st <;> rfl
@[simp] theorem Tile.setPc_holder (t : Tile) (st : Stream) (p : Pc) : (t.setPc st p).holder = t.holder := by cases st <;> rfl
@[simp] theorem Tile.setPc_sclass (t : Tile) (st : Stream) (p : Pc) : (t.setPc st p).sclass = t.sclass := by cases st <;> rfl
@[simp] theorem Tile.setPc_sreq (t : Tile) (st : Stream) (p : Pc) : (t.setPc st p).sreq = t.sreq := by cases st <;> rfl
@[simp] theorem Tile.setPc_srefused (t : Tile) (st : Stream) (p : Pc) : (t.setPc st p).srefused = t.srefused := by cases st <;> rfl
@[simp] theorem Tile.setPc_sreqAt (t : Tile) (st : Stream) (p : Pc) : (t.setPc st p).sreqAt = t.sreqAt := by cases st <;> rfl
@[simp] theorem Tile.setPc_launch (t : Tile) (st : Stream) (p : Pc) : (t.setPc st p).launch = t.launch := by cases st <;> rfl
@[simp] theorem Tile.setPc_cur (t : Tile) (st : Stream) (p : Pc) : (t.setPc st p).cur = t.cur := by cases st <;> rfl
@[simp] theorem Tile.setPc_switched (t : Tile) (st : Stream) (p : Pc) : (t.setPc st p).switched = t.switched := by cases st <;> rfl
@[simp] theorem Tile.setPc_term (t : Tile) (st : Stream) (p : Pc) : (t.setPc st p).term = t.term := by cases st <;> rfl
@[simp] theorem Tile.setPc_ist (t : Tile) (st : Stream) (p : Pc) : (t.setPc st p).ist = t.ist := by cases st <;> rfl
@[simp] theorem Tile.setPc_item (t : Tile) (st : Stream) (p : Pc) : (t.setPc st p).item = t.item := by cases st <;> rfl
@[simp] theorem Tile.setPc_stop (t : Tile) (st : Stream) (p : Pc) : (t.setPc st p).stop = t.stop := by cases st <;> rfl
@[simp] theorem Tile.setPc_capturing (t : Tile) (st : Stream) (p : Pc) : (t.setPc st p).capturing = t.capturing := by cases st <;> rfl
@[simp] theorem Tile.setPc_resume (t : Tile) (st : Stream) (p : Pc) : (t.setPc st p).resume = t.resume := by cases st <;> rfl
@[simp] theorem Tile.setPc_lastImg (t : Tile) (st : Stream) (p : Pc) : (t.setPc st p).lastImg = t.lastImg := by cases st <;> rfl
@[simp] theorem Tile.setPc_faults (t : Tile) (st : Stream) (p : Pc) : (t.setPc st p).faults = t.faults := by cases st <;> rfl
@[simp] theorem Tile.setPc_areg (t : Tile) (st : Stream) (p : Pc) : (t.setPc st p).areg = t.areg := by cases st <;> rfl
@[simp] theorem Tile.setPc_apois (t : Tile) (st : Stream) (p : Pc) : (t.setPc st p).apois = t.apois := by cases st <;> rfl
@[simp] theorem Tile.setPc_xreg (t : Tile) (st : Stream) (p : Pc) : (t.setPc st p).xreg = t.xreg := by cases st <;> rfl
@[simp] theorem Tile.setPc_xpois (t : Tile) (st : Stream) (p : Pc) : (t.setPc st p).xpois = t.xpois := by cases st <;> rfl
@[simp] theorem Tile.setPc_flags (t : Tile) (st : Stream) (p : Pc) : (t.setPc st p).flags = t.flags := by cases st <;> rfl
@[simp] theorem Tile.setPc_fpend (t : Tile) (st : Stream) (p : Pc) : (t.setPc st p).fpend = t.fpend := by cases st <;> rfl
@[simp] theorem Tile.setPc_astep (t : Tile) (st : Stream) (p : Pc) : (t.setPc st p).astep = t.astep := by cases st <;> rfl
@[simp] theorem Tile.setPc_xstep (t : Tile) (st : Stream) (p : Pc) : (t.setPc st p).xstep = t.xstep := by cases st <;> rfl
@[simp] theorem Tile.setPc_v (t : Tile) (st : Stream) (p : Pc) : (t.setPc st p).v = t.v := by cases st <;> rfl
@[simp] theorem Tile.setPc_k (t : Tile) (st : Stream) (p : Pc) : (t.setPc st p).k = t.k := by cases st <;> rfl
@[simp] theorem Tile.setPc_z (t : Tile) (st : Stream) (p : Pc) : (t.setPc st p).z = t.z := by cases st <;> rfl
@[simp] theorem Tile.setPc_q (t : Tile) (st : Stream) (p : Pc) : (t.setPc st p).q = t.q := by cases st <;> rfl
@[simp] theorem Tile.setPc_qb (t : Tile) (st : Stream) (p : Pc) : (t.setPc st p).qb = t.qb := by cases st <;> rfl
@[simp] theorem Tile.setPc_tk (t : Tile) (st : Stream) (p : Pc) : (t.setPc st p).tk = t.tk := by cases st <;> rfl
@[simp] theorem Tile.setPc_rcp (t : Tile) (st : Stream) (p : Pc) : (t.setPc st p).rcp = t.rcp := by cases st <;> rfl
@[simp] theorem Tile.setPc_ax (t : Tile) (st : Stream) (p : Pc) : (t.setPc st p).ax = t.ax := by cases st <;> rfl
@[simp] theorem Tile.setPc_av (t : Tile) (st : Stream) (p : Pc) : (t.setPc st p).av = t.av := by cases st <;> rfl
@[simp] theorem Tile.setPc_ak (t : Tile) (st : Stream) (p : Pc) : (t.setPc st p).ak = t.ak := by cases st <;> rfl
@[simp] theorem Tile.setPc_fctl (t : Tile) (st : Stream) (p : Pc) : (t.setPc st p).fctl = t.fctl := by cases st <;> rfl
@[simp] theorem Tile.setPc_fstat (t : Tile) (st : Stream) (p : Pc) : (t.setPc st p).fstat = t.fstat := by cases st <;> rfl
@[simp] theorem Tile.setPc_leak (t : Tile) (st : Stream) (p : Pc) : (t.setPc st p).leak = t.leak := by cases st <;> rfl
@[simp] theorem Tile.setPc_adty (t : Tile) (st : Stream) (p : Pc) : (t.setPc st p).adty = t.adty := by cases st <;> rfl
@[simp] theorem Tile.setPc_acsr (t : Tile) (st : Stream) (p : Pc) : (t.setPc st p).acsr = t.acsr := by cases st <;> rfl
@[simp] theorem Tile.setPc_xcsr (t : Tile) (st : Stream) (p : Pc) : (t.setPc st p).xcsr = t.xcsr := by cases st <;> rfl
@[simp] theorem Tile.setPc_cyc (t : Tile) (st : Stream) (p : Pc) : (t.setPc st p).cyc = t.cyc := by cases st <;> rfl
@[simp] theorem Tile.setPc_pmc (t : Tile) (st : Stream) (p : Pc) : (t.setPc st p).pmc = t.pmc := by cases st <;> rfl
@[simp] theorem Tile.setPc_pmsel (t : Tile) (st : Stream) (p : Pc) : (t.setPc st p).pmsel = t.pmsel := by cases st <;> rfl
@[simp] theorem Tile.setPc_pmovf (t : Tile) (st : Stream) (p : Pc) : (t.setPc st p).pmovf = t.pmovf := by cases st <;> rfl
@[simp] theorem Tile.setPc_pmwrap (t : Tile) (st : Stream) (p : Pc) : (t.setPc st p).pmwrap = t.pmwrap := by cases st <;> rfl
@[simp] theorem Tile.setPc_brk (t : Tile) (st : Stream) (p : Pc) : (t.setPc st p).brk = t.brk := by cases st <;> rfl
@[simp] theorem Tile.setPc_wgran (t : Tile) (st : Stream) (p : Pc) : (t.setPc st p).wgran = t.wgran := by cases st <;> rfl
@[simp] theorem Tile.setPc_wroteClu (t : Tile) (st : Stream) (p : Pc) : (t.setPc st p).wroteClu = t.wroteClu := by cases st <;> rfl
@[simp] theorem Tile.setPc_sealb (t : Tile) (st : Stream) (p : Pc) : (t.setPc st p).sealb = t.sealb := by cases st <;> rfl
@[simp] theorem Tile.setPc_xcyc (t : Tile) (st : Stream) (p : Pc) : (t.setPc st p).xcyc = t.xcyc := by cases st <;> rfl
@[simp] theorem Tile.setPc_pend (t : Tile) (st : Stream) (p : Pc) : (t.setPc st p).pend = t.pend := by cases st <;> rfl
@[simp] theorem Tile.setPc_units (t : Tile) (st : Stream) (p : Pc) : (t.setPc st p).units = t.units := by cases st <;> rfl
@[simp] theorem Tile.setPc_ldClose (t : Tile) (st : Stream) (p : Pc) : (t.setPc st p).ldClose = t.ldClose := by cases st <;> rfl
@[simp] theorem Tile.setPc_stClose (t : Tile) (st : Stream) (p : Pc) : (t.setPc st p).stClose = t.stClose := by cases st <;> rfl
@[simp] theorem Tile.setPc_stCloseC (t : Tile) (st : Stream) (p : Pc) : (t.setPc st p).stCloseC = t.stCloseC := by cases st <;> rfl
@[simp] theorem Tile.setPc_holdSt (t : Tile) (st : Stream) (p : Pc) : (t.setPc st p).holdSt = t.holdSt := by cases st <;> rfl
@[simp] theorem Tile.setPc_holdLd (t : Tile) (st : Stream) (p : Pc) : (t.setPc st p).holdLd = t.holdLd := by cases st <;> rfl
@[simp] theorem Tile.setPc_ecopy (t : Tile) (st : Stream) (p : Pc) : (t.setPc st p).ecopy = t.ecopy := by cases st <;> rfl
@[simp] theorem Tile.setPc_egath (t : Tile) (st : Stream) (p : Pc) : (t.setPc st p).egath = t.egath := by cases st <;> rfl
@[simp] theorem Tile.setPc_emat (t : Tile) (st : Stream) (p : Pc) : (t.setPc st p).emat = t.emat := by cases st <;> rfl
@[simp] theorem Tile.setPc_ecoll (t : Tile) (st : Stream) (p : Pc) : (t.setPc st p).ecoll = t.ecoll := by cases st <;> rfl
@[simp] theorem Tile.setPc_esalt (t : Tile) (st : Stream) (p : Pc) : (t.setPc st p).esalt = t.esalt := by cases st <;> rfl
@[simp] theorem Tile.setPc_loose (t : Tile) (st : Stream) (p : Pc) : (t.setPc st p).loose = t.loose := by cases st <;> rfl
@[simp] theorem Tile.setPc_alog (t : Tile) (st : Stream) (p : Pc) : (t.setPc st p).alog = t.alog := by cases st <;> rfl
@[simp] theorem Tile.setPc_active (t : Tile) (st : Stream) (p : Pc) : (t.setPc st p).active = t.active := by cases st <;> rfl
@[simp] theorem Tile.setPc_shadow (t : Tile) (st : Stream) (p : Pc) : (t.setPc st p).shadow = t.shadow := by cases st <;> rfl
@[simp] theorem Tile.setPc_viewA (t : Tile) (st : Stream) (p : Pc) : (t.setPc st p).viewA = t.viewA := by cases st <;> rfl
@[simp] theorem Tile.setPc_viewS (t : Tile) (st : Stream) (p : Pc) : (t.setPc st p).viewS = t.viewS := by cases st <;> rfl
@[simp] theorem Tile.setPc_l1 (t : Tile) (st : Stream) (p : Pc) : (t.setPc st p).l1 = t.l1 := by cases st <;> rfl
@[simp] theorem Tile.setPc_l1use (t : Tile) (st : Stream) (p : Pc) : (t.setPc st p).l1use = t.l1use := by cases st <;> rfl
@[simp] theorem Tile.setPc_claims (t : Tile) (st : Stream) (p : Pc) : (t.setPc st p).claims = t.claims := by cases st <;> rfl
@[simp] theorem Tile.setPc_tlb (t : Tile) (st : Stream) (p : Pc) : (t.setPc st p).tlb = t.tlb := by cases st <;> rfl
@[simp] theorem Tile.setPc_past (t : Tile) (st : Stream) (p : Pc) : (t.setPc st p).past = t.past := by cases st <;> rfl
@[simp] theorem Tile.setPc_walks (t : Tile) (st : Stream) (p : Pc) : (t.setPc st p).walks = t.walks := by cases st <;> rfl
@[simp] theorem Tile.setPc_reqCred (t : Tile) (st : Stream) (p : Pc) : (t.setPc st p).reqCred = t.reqCred := by cases st <;> rfl
@[simp] theorem Tile.setPc_rspCred (t : Tile) (st : Stream) (p : Pc) : (t.setPc st p).rspCred = t.rspCred := by cases st <;> rfl
@[simp] theorem Tile.setPc_enqs (t : Tile) (st : Stream) (p : Pc) : (t.setPc st p).enqs = t.enqs := by cases st <;> rfl
@[simp] theorem Tile.setPc_ov (t : Tile) (st : Stream) (p : Pc) : (t.setPc st p).ov = t.ov := by cases st <;> rfl
@[simp] theorem Tile.setPc_relPend (t : Tile) (st : Stream) (p : Pc) : (t.setPc st p).relPend = t.relPend := by cases st <;> rfl
@[simp] theorem Tile.setPc_inBar (t : Tile) (st : Stream) (p : Pc) : (t.setPc st p).inBar = t.inBar := by cases st <;> rfl
@[simp] theorem Tile.setPc_bars (t : Tile) (st : Stream) (p : Pc) : (t.setPc st p).bars = t.bars := by cases st <;> rfl
@[simp] theorem Tile.setPc_dcReq (t : Tile) (st : Stream) (p : Pc) : (t.setPc st p).dcReq = t.dcReq := by cases st <;> rfl
@[simp] theorem Tile.setPc_alogOps (t : Tile) (st : Stream) (p : Pc) : (t.setPc st p).alogOps = t.alogOps := by cases st <;> rfl
@[simp] theorem Tile.setPc_xlogOps (t : Tile) (st : Stream) (p : Pc) : (t.setPc st p).xlogOps = t.xlogOps := by cases st <;> rfl
@[simp] theorem Tile.setPc_resA (t : Tile) (st : Stream) (p : Pc) : (t.setPc st p).resA = t.resA := by cases st <;> rfl
@[simp] theorem Tile.setPc_resX (t : Tile) (st : Stream) (p : Pc) : (t.setPc st p).resX = t.resX := by cases st <;> rfl

@[simp] theorem Tile.advance_ctx (t : Tile) (st : Stream) (n : Nat) : (t.advance st n).ctx = t.ctx := by cases st <;> rfl
@[simp] theorem Tile.advance_holder (t : Tile) (st : Stream) (n : Nat) : (t.advance st n).holder = t.holder := by cases st <;> rfl
@[simp] theorem Tile.advance_sclass (t : Tile) (st : Stream) (n : Nat) : (t.advance st n).sclass = t.sclass := by cases st <;> rfl
@[simp] theorem Tile.advance_sreq (t : Tile) (st : Stream) (n : Nat) : (t.advance st n).sreq = t.sreq := by cases st <;> rfl
@[simp] theorem Tile.advance_srefused (t : Tile) (st : Stream) (n : Nat) : (t.advance st n).srefused = t.srefused := by cases st <;> rfl
@[simp] theorem Tile.advance_sreqAt (t : Tile) (st : Stream) (n : Nat) : (t.advance st n).sreqAt = t.sreqAt := by cases st <;> rfl
@[simp] theorem Tile.advance_launch (t : Tile) (st : Stream) (n : Nat) : (t.advance st n).launch = t.launch := by cases st <;> rfl
@[simp] theorem Tile.advance_cur (t : Tile) (st : Stream) (n : Nat) : (t.advance st n).cur = t.cur := by cases st <;> rfl
@[simp] theorem Tile.advance_switched (t : Tile) (st : Stream) (n : Nat) : (t.advance st n).switched = t.switched := by cases st <;> rfl
@[simp] theorem Tile.advance_term (t : Tile) (st : Stream) (n : Nat) : (t.advance st n).term = t.term := by cases st <;> rfl
@[simp] theorem Tile.advance_ist (t : Tile) (st : Stream) (n : Nat) : (t.advance st n).ist = t.ist := by cases st <;> rfl
@[simp] theorem Tile.advance_item (t : Tile) (st : Stream) (n : Nat) : (t.advance st n).item = t.item := by cases st <;> rfl
@[simp] theorem Tile.advance_stop (t : Tile) (st : Stream) (n : Nat) : (t.advance st n).stop = t.stop := by cases st <;> rfl
@[simp] theorem Tile.advance_capturing (t : Tile) (st : Stream) (n : Nat) : (t.advance st n).capturing = t.capturing := by cases st <;> rfl
@[simp] theorem Tile.advance_resume (t : Tile) (st : Stream) (n : Nat) : (t.advance st n).resume = t.resume := by cases st <;> rfl
@[simp] theorem Tile.advance_lastImg (t : Tile) (st : Stream) (n : Nat) : (t.advance st n).lastImg = t.lastImg := by cases st <;> rfl
@[simp] theorem Tile.advance_faults (t : Tile) (st : Stream) (n : Nat) : (t.advance st n).faults = t.faults := by cases st <;> rfl
@[simp] theorem Tile.advance_areg (t : Tile) (st : Stream) (n : Nat) : (t.advance st n).areg = t.areg := by cases st <;> rfl
@[simp] theorem Tile.advance_apois (t : Tile) (st : Stream) (n : Nat) : (t.advance st n).apois = t.apois := by cases st <;> rfl
@[simp] theorem Tile.advance_xreg (t : Tile) (st : Stream) (n : Nat) : (t.advance st n).xreg = t.xreg := by cases st <;> rfl
@[simp] theorem Tile.advance_xpois (t : Tile) (st : Stream) (n : Nat) : (t.advance st n).xpois = t.xpois := by cases st <;> rfl
@[simp] theorem Tile.advance_flags (t : Tile) (st : Stream) (n : Nat) : (t.advance st n).flags = t.flags := by cases st <;> rfl
@[simp] theorem Tile.advance_fpend (t : Tile) (st : Stream) (n : Nat) : (t.advance st n).fpend = t.fpend := by cases st <;> rfl
@[simp] theorem Tile.advance_astep (t : Tile) (st : Stream) (n : Nat) : (t.advance st n).astep = t.astep := by cases st <;> rfl
@[simp] theorem Tile.advance_xstep (t : Tile) (st : Stream) (n : Nat) : (t.advance st n).xstep = t.xstep := by cases st <;> rfl
@[simp] theorem Tile.advance_v (t : Tile) (st : Stream) (n : Nat) : (t.advance st n).v = t.v := by cases st <;> rfl
@[simp] theorem Tile.advance_k (t : Tile) (st : Stream) (n : Nat) : (t.advance st n).k = t.k := by cases st <;> rfl
@[simp] theorem Tile.advance_z (t : Tile) (st : Stream) (n : Nat) : (t.advance st n).z = t.z := by cases st <;> rfl
@[simp] theorem Tile.advance_q (t : Tile) (st : Stream) (n : Nat) : (t.advance st n).q = t.q := by cases st <;> rfl
@[simp] theorem Tile.advance_qb (t : Tile) (st : Stream) (n : Nat) : (t.advance st n).qb = t.qb := by cases st <;> rfl
@[simp] theorem Tile.advance_tk (t : Tile) (st : Stream) (n : Nat) : (t.advance st n).tk = t.tk := by cases st <;> rfl
@[simp] theorem Tile.advance_rcp (t : Tile) (st : Stream) (n : Nat) : (t.advance st n).rcp = t.rcp := by cases st <;> rfl
@[simp] theorem Tile.advance_ax (t : Tile) (st : Stream) (n : Nat) : (t.advance st n).ax = t.ax := by cases st <;> rfl
@[simp] theorem Tile.advance_av (t : Tile) (st : Stream) (n : Nat) : (t.advance st n).av = t.av := by cases st <;> rfl
@[simp] theorem Tile.advance_ak (t : Tile) (st : Stream) (n : Nat) : (t.advance st n).ak = t.ak := by cases st <;> rfl
@[simp] theorem Tile.advance_fctl (t : Tile) (st : Stream) (n : Nat) : (t.advance st n).fctl = t.fctl := by cases st <;> rfl
@[simp] theorem Tile.advance_fstat (t : Tile) (st : Stream) (n : Nat) : (t.advance st n).fstat = t.fstat := by cases st <;> rfl
@[simp] theorem Tile.advance_leak (t : Tile) (st : Stream) (n : Nat) : (t.advance st n).leak = t.leak := by cases st <;> rfl
@[simp] theorem Tile.advance_adty (t : Tile) (st : Stream) (n : Nat) : (t.advance st n).adty = t.adty := by cases st <;> rfl
@[simp] theorem Tile.advance_acsr (t : Tile) (st : Stream) (n : Nat) : (t.advance st n).acsr = t.acsr := by cases st <;> rfl
@[simp] theorem Tile.advance_xcsr (t : Tile) (st : Stream) (n : Nat) : (t.advance st n).xcsr = t.xcsr := by cases st <;> rfl
@[simp] theorem Tile.advance_cyc (t : Tile) (st : Stream) (n : Nat) : (t.advance st n).cyc = t.cyc := by cases st <;> rfl
@[simp] theorem Tile.advance_pmc (t : Tile) (st : Stream) (n : Nat) : (t.advance st n).pmc = t.pmc := by cases st <;> rfl
@[simp] theorem Tile.advance_pmsel (t : Tile) (st : Stream) (n : Nat) : (t.advance st n).pmsel = t.pmsel := by cases st <;> rfl
@[simp] theorem Tile.advance_pmovf (t : Tile) (st : Stream) (n : Nat) : (t.advance st n).pmovf = t.pmovf := by cases st <;> rfl
@[simp] theorem Tile.advance_pmwrap (t : Tile) (st : Stream) (n : Nat) : (t.advance st n).pmwrap = t.pmwrap := by cases st <;> rfl
@[simp] theorem Tile.advance_brk (t : Tile) (st : Stream) (n : Nat) : (t.advance st n).brk = t.brk := by cases st <;> rfl
@[simp] theorem Tile.advance_wgran (t : Tile) (st : Stream) (n : Nat) : (t.advance st n).wgran = t.wgran := by cases st <;> rfl
@[simp] theorem Tile.advance_wroteClu (t : Tile) (st : Stream) (n : Nat) : (t.advance st n).wroteClu = t.wroteClu := by cases st <;> rfl
@[simp] theorem Tile.advance_sealb (t : Tile) (st : Stream) (n : Nat) : (t.advance st n).sealb = t.sealb := by cases st <;> rfl
@[simp] theorem Tile.advance_xcyc (t : Tile) (st : Stream) (n : Nat) : (t.advance st n).xcyc = t.xcyc := by cases st <;> rfl
@[simp] theorem Tile.advance_pend (t : Tile) (st : Stream) (n : Nat) : (t.advance st n).pend = t.pend := by cases st <;> rfl
@[simp] theorem Tile.advance_units (t : Tile) (st : Stream) (n : Nat) : (t.advance st n).units = t.units := by cases st <;> rfl
@[simp] theorem Tile.advance_ldClose (t : Tile) (st : Stream) (n : Nat) : (t.advance st n).ldClose = t.ldClose := by cases st <;> rfl
@[simp] theorem Tile.advance_stClose (t : Tile) (st : Stream) (n : Nat) : (t.advance st n).stClose = t.stClose := by cases st <;> rfl
@[simp] theorem Tile.advance_stCloseC (t : Tile) (st : Stream) (n : Nat) : (t.advance st n).stCloseC = t.stCloseC := by cases st <;> rfl
@[simp] theorem Tile.advance_holdSt (t : Tile) (st : Stream) (n : Nat) : (t.advance st n).holdSt = t.holdSt := by cases st <;> rfl
@[simp] theorem Tile.advance_holdLd (t : Tile) (st : Stream) (n : Nat) : (t.advance st n).holdLd = t.holdLd := by cases st <;> rfl
@[simp] theorem Tile.advance_ecopy (t : Tile) (st : Stream) (n : Nat) : (t.advance st n).ecopy = t.ecopy := by cases st <;> rfl
@[simp] theorem Tile.advance_egath (t : Tile) (st : Stream) (n : Nat) : (t.advance st n).egath = t.egath := by cases st <;> rfl
@[simp] theorem Tile.advance_emat (t : Tile) (st : Stream) (n : Nat) : (t.advance st n).emat = t.emat := by cases st <;> rfl
@[simp] theorem Tile.advance_ecoll (t : Tile) (st : Stream) (n : Nat) : (t.advance st n).ecoll = t.ecoll := by cases st <;> rfl
@[simp] theorem Tile.advance_esalt (t : Tile) (st : Stream) (n : Nat) : (t.advance st n).esalt = t.esalt := by cases st <;> rfl
@[simp] theorem Tile.advance_loose (t : Tile) (st : Stream) (n : Nat) : (t.advance st n).loose = t.loose := by cases st <;> rfl
@[simp] theorem Tile.advance_alog (t : Tile) (st : Stream) (n : Nat) : (t.advance st n).alog = t.alog := by cases st <;> rfl
@[simp] theorem Tile.advance_active (t : Tile) (st : Stream) (n : Nat) : (t.advance st n).active = t.active := by cases st <;> rfl
@[simp] theorem Tile.advance_shadow (t : Tile) (st : Stream) (n : Nat) : (t.advance st n).shadow = t.shadow := by cases st <;> rfl
@[simp] theorem Tile.advance_viewA (t : Tile) (st : Stream) (n : Nat) : (t.advance st n).viewA = t.viewA := by cases st <;> rfl
@[simp] theorem Tile.advance_viewS (t : Tile) (st : Stream) (n : Nat) : (t.advance st n).viewS = t.viewS := by cases st <;> rfl
@[simp] theorem Tile.advance_l1 (t : Tile) (st : Stream) (n : Nat) : (t.advance st n).l1 = t.l1 := by cases st <;> rfl
@[simp] theorem Tile.advance_l1use (t : Tile) (st : Stream) (n : Nat) : (t.advance st n).l1use = t.l1use := by cases st <;> rfl
@[simp] theorem Tile.advance_claims (t : Tile) (st : Stream) (n : Nat) : (t.advance st n).claims = t.claims := by cases st <;> rfl
@[simp] theorem Tile.advance_tlb (t : Tile) (st : Stream) (n : Nat) : (t.advance st n).tlb = t.tlb := by cases st <;> rfl
@[simp] theorem Tile.advance_past (t : Tile) (st : Stream) (n : Nat) : (t.advance st n).past = t.past := by cases st <;> rfl
@[simp] theorem Tile.advance_walks (t : Tile) (st : Stream) (n : Nat) : (t.advance st n).walks = t.walks := by cases st <;> rfl
@[simp] theorem Tile.advance_reqCred (t : Tile) (st : Stream) (n : Nat) : (t.advance st n).reqCred = t.reqCred := by cases st <;> rfl
@[simp] theorem Tile.advance_rspCred (t : Tile) (st : Stream) (n : Nat) : (t.advance st n).rspCred = t.rspCred := by cases st <;> rfl
@[simp] theorem Tile.advance_enqs (t : Tile) (st : Stream) (n : Nat) : (t.advance st n).enqs = t.enqs := by cases st <;> rfl
@[simp] theorem Tile.advance_ov (t : Tile) (st : Stream) (n : Nat) : (t.advance st n).ov = t.ov := by cases st <;> rfl
@[simp] theorem Tile.advance_relPend (t : Tile) (st : Stream) (n : Nat) : (t.advance st n).relPend = t.relPend := by cases st <;> rfl
@[simp] theorem Tile.advance_inBar (t : Tile) (st : Stream) (n : Nat) : (t.advance st n).inBar = t.inBar := by cases st <;> rfl
@[simp] theorem Tile.advance_bars (t : Tile) (st : Stream) (n : Nat) : (t.advance st n).bars = t.bars := by cases st <;> rfl
@[simp] theorem Tile.advance_dcReq (t : Tile) (st : Stream) (n : Nat) : (t.advance st n).dcReq = t.dcReq := by cases st <;> rfl
@[simp] theorem Tile.advance_alogOps (t : Tile) (st : Stream) (n : Nat) : (t.advance st n).alogOps = t.alogOps := by cases st <;> rfl
@[simp] theorem Tile.advance_xlogOps (t : Tile) (st : Stream) (n : Nat) : (t.advance st n).xlogOps = t.xlogOps := by cases st <;> rfl
@[simp] theorem Tile.advance_resA (t : Tile) (st : Stream) (n : Nat) : (t.advance st n).resA = t.resA := by cases st <;> rfl
@[simp] theorem Tile.advance_resX (t : Tile) (st : Stream) (n : Nat) : (t.advance st n).resX = t.resX := by cases st <;> rfl

@[simp] theorem Tile.passX_ctx (t : Tile) (st : Stream) (n : Nat) : (t.passX st n).ctx = t.ctx := by cases st <;> rfl
@[simp] theorem Tile.passX_holder (t : Tile) (st : Stream) (n : Nat) : (t.passX st n).holder = t.holder := by cases st <;> rfl
@[simp] theorem Tile.passX_sclass (t : Tile) (st : Stream) (n : Nat) : (t.passX st n).sclass = t.sclass := by cases st <;> rfl
@[simp] theorem Tile.passX_sreq (t : Tile) (st : Stream) (n : Nat) : (t.passX st n).sreq = t.sreq := by cases st <;> rfl
@[simp] theorem Tile.passX_srefused (t : Tile) (st : Stream) (n : Nat) : (t.passX st n).srefused = t.srefused := by cases st <;> rfl
@[simp] theorem Tile.passX_sreqAt (t : Tile) (st : Stream) (n : Nat) : (t.passX st n).sreqAt = t.sreqAt := by cases st <;> rfl
@[simp] theorem Tile.passX_launch (t : Tile) (st : Stream) (n : Nat) : (t.passX st n).launch = t.launch := by cases st <;> rfl
@[simp] theorem Tile.passX_cur (t : Tile) (st : Stream) (n : Nat) : (t.passX st n).cur = t.cur := by cases st <;> rfl
@[simp] theorem Tile.passX_switched (t : Tile) (st : Stream) (n : Nat) : (t.passX st n).switched = t.switched := by cases st <;> rfl
@[simp] theorem Tile.passX_term (t : Tile) (st : Stream) (n : Nat) : (t.passX st n).term = t.term := by cases st <;> rfl
@[simp] theorem Tile.passX_ist (t : Tile) (st : Stream) (n : Nat) : (t.passX st n).ist = t.ist := by cases st <;> rfl
@[simp] theorem Tile.passX_item (t : Tile) (st : Stream) (n : Nat) : (t.passX st n).item = t.item := by cases st <;> rfl
@[simp] theorem Tile.passX_stop (t : Tile) (st : Stream) (n : Nat) : (t.passX st n).stop = t.stop := by cases st <;> rfl
@[simp] theorem Tile.passX_capturing (t : Tile) (st : Stream) (n : Nat) : (t.passX st n).capturing = t.capturing := by cases st <;> rfl
@[simp] theorem Tile.passX_resume (t : Tile) (st : Stream) (n : Nat) : (t.passX st n).resume = t.resume := by cases st <;> rfl
@[simp] theorem Tile.passX_lastImg (t : Tile) (st : Stream) (n : Nat) : (t.passX st n).lastImg = t.lastImg := by cases st <;> rfl
@[simp] theorem Tile.passX_faults (t : Tile) (st : Stream) (n : Nat) : (t.passX st n).faults = t.faults := by cases st <;> rfl
@[simp] theorem Tile.passX_areg (t : Tile) (st : Stream) (n : Nat) : (t.passX st n).areg = t.areg := by cases st <;> rfl
@[simp] theorem Tile.passX_apois (t : Tile) (st : Stream) (n : Nat) : (t.passX st n).apois = t.apois := by cases st <;> rfl
@[simp] theorem Tile.passX_xreg (t : Tile) (st : Stream) (n : Nat) : (t.passX st n).xreg = t.xreg := by cases st <;> rfl
@[simp] theorem Tile.passX_xpois (t : Tile) (st : Stream) (n : Nat) : (t.passX st n).xpois = t.xpois := by cases st <;> rfl
@[simp] theorem Tile.passX_flags (t : Tile) (st : Stream) (n : Nat) : (t.passX st n).flags = t.flags := by cases st <;> rfl
@[simp] theorem Tile.passX_fpend (t : Tile) (st : Stream) (n : Nat) : (t.passX st n).fpend = t.fpend := by cases st <;> rfl
@[simp] theorem Tile.passX_apc (t : Tile) (st : Stream) (n : Nat) : (t.passX st n).apc = t.apc := by cases st <;> rfl
@[simp] theorem Tile.passX_xpc (t : Tile) (st : Stream) (n : Nat) : (t.passX st n).xpc = t.xpc := by cases st <;> rfl
@[simp] theorem Tile.passX_astep (t : Tile) (st : Stream) (n : Nat) : (t.passX st n).astep = t.astep := by cases st <;> rfl
@[simp] theorem Tile.passX_xstep (t : Tile) (st : Stream) (n : Nat) : (t.passX st n).xstep = t.xstep := by cases st <;> rfl
@[simp] theorem Tile.passX_v (t : Tile) (st : Stream) (n : Nat) : (t.passX st n).v = t.v := by cases st <;> rfl
@[simp] theorem Tile.passX_k (t : Tile) (st : Stream) (n : Nat) : (t.passX st n).k = t.k := by cases st <;> rfl
@[simp] theorem Tile.passX_z (t : Tile) (st : Stream) (n : Nat) : (t.passX st n).z = t.z := by cases st <;> rfl
@[simp] theorem Tile.passX_q (t : Tile) (st : Stream) (n : Nat) : (t.passX st n).q = t.q := by cases st <;> rfl
@[simp] theorem Tile.passX_qb (t : Tile) (st : Stream) (n : Nat) : (t.passX st n).qb = t.qb := by cases st <;> rfl
@[simp] theorem Tile.passX_tk (t : Tile) (st : Stream) (n : Nat) : (t.passX st n).tk = t.tk := by cases st <;> rfl
@[simp] theorem Tile.passX_rcp (t : Tile) (st : Stream) (n : Nat) : (t.passX st n).rcp = t.rcp := by cases st <;> rfl
@[simp] theorem Tile.passX_ax (t : Tile) (st : Stream) (n : Nat) : (t.passX st n).ax = t.ax := by cases st <;> rfl
@[simp] theorem Tile.passX_av (t : Tile) (st : Stream) (n : Nat) : (t.passX st n).av = t.av := by cases st <;> rfl
@[simp] theorem Tile.passX_ak (t : Tile) (st : Stream) (n : Nat) : (t.passX st n).ak = t.ak := by cases st <;> rfl
@[simp] theorem Tile.passX_fctl (t : Tile) (st : Stream) (n : Nat) : (t.passX st n).fctl = t.fctl := by cases st <;> rfl
@[simp] theorem Tile.passX_fstat (t : Tile) (st : Stream) (n : Nat) : (t.passX st n).fstat = t.fstat := by cases st <;> rfl
@[simp] theorem Tile.passX_leak (t : Tile) (st : Stream) (n : Nat) : (t.passX st n).leak = t.leak := by cases st <;> rfl
@[simp] theorem Tile.passX_adty (t : Tile) (st : Stream) (n : Nat) : (t.passX st n).adty = t.adty := by cases st <;> rfl
@[simp] theorem Tile.passX_acsr (t : Tile) (st : Stream) (n : Nat) : (t.passX st n).acsr = t.acsr := by cases st <;> rfl
@[simp] theorem Tile.passX_xcsr (t : Tile) (st : Stream) (n : Nat) : (t.passX st n).xcsr = t.xcsr := by cases st <;> rfl
@[simp] theorem Tile.passX_cyc (t : Tile) (st : Stream) (n : Nat) : (t.passX st n).cyc = t.cyc := by cases st <;> rfl
@[simp] theorem Tile.passX_pmc (t : Tile) (st : Stream) (n : Nat) : (t.passX st n).pmc = t.pmc := by cases st <;> rfl
@[simp] theorem Tile.passX_pmsel (t : Tile) (st : Stream) (n : Nat) : (t.passX st n).pmsel = t.pmsel := by cases st <;> rfl
@[simp] theorem Tile.passX_pmovf (t : Tile) (st : Stream) (n : Nat) : (t.passX st n).pmovf = t.pmovf := by cases st <;> rfl
@[simp] theorem Tile.passX_pmwrap (t : Tile) (st : Stream) (n : Nat) : (t.passX st n).pmwrap = t.pmwrap := by cases st <;> rfl
@[simp] theorem Tile.passX_brk (t : Tile) (st : Stream) (n : Nat) : (t.passX st n).brk = t.brk := by cases st <;> rfl
@[simp] theorem Tile.passX_wgran (t : Tile) (st : Stream) (n : Nat) : (t.passX st n).wgran = t.wgran := by cases st <;> rfl
@[simp] theorem Tile.passX_wroteClu (t : Tile) (st : Stream) (n : Nat) : (t.passX st n).wroteClu = t.wroteClu := by cases st <;> rfl
@[simp] theorem Tile.passX_sealb (t : Tile) (st : Stream) (n : Nat) : (t.passX st n).sealb = t.sealb := by cases st <;> rfl
@[simp] theorem Tile.passX_pend (t : Tile) (st : Stream) (n : Nat) : (t.passX st n).pend = t.pend := by cases st <;> rfl
@[simp] theorem Tile.passX_units (t : Tile) (st : Stream) (n : Nat) : (t.passX st n).units = t.units := by cases st <;> rfl
@[simp] theorem Tile.passX_ldClose (t : Tile) (st : Stream) (n : Nat) : (t.passX st n).ldClose = t.ldClose := by cases st <;> rfl
@[simp] theorem Tile.passX_stClose (t : Tile) (st : Stream) (n : Nat) : (t.passX st n).stClose = t.stClose := by cases st <;> rfl
@[simp] theorem Tile.passX_stCloseC (t : Tile) (st : Stream) (n : Nat) : (t.passX st n).stCloseC = t.stCloseC := by cases st <;> rfl
@[simp] theorem Tile.passX_holdSt (t : Tile) (st : Stream) (n : Nat) : (t.passX st n).holdSt = t.holdSt := by cases st <;> rfl
@[simp] theorem Tile.passX_holdLd (t : Tile) (st : Stream) (n : Nat) : (t.passX st n).holdLd = t.holdLd := by cases st <;> rfl
@[simp] theorem Tile.passX_ecopy (t : Tile) (st : Stream) (n : Nat) : (t.passX st n).ecopy = t.ecopy := by cases st <;> rfl
@[simp] theorem Tile.passX_egath (t : Tile) (st : Stream) (n : Nat) : (t.passX st n).egath = t.egath := by cases st <;> rfl
@[simp] theorem Tile.passX_emat (t : Tile) (st : Stream) (n : Nat) : (t.passX st n).emat = t.emat := by cases st <;> rfl
@[simp] theorem Tile.passX_ecoll (t : Tile) (st : Stream) (n : Nat) : (t.passX st n).ecoll = t.ecoll := by cases st <;> rfl
@[simp] theorem Tile.passX_esalt (t : Tile) (st : Stream) (n : Nat) : (t.passX st n).esalt = t.esalt := by cases st <;> rfl
@[simp] theorem Tile.passX_loose (t : Tile) (st : Stream) (n : Nat) : (t.passX st n).loose = t.loose := by cases st <;> rfl
@[simp] theorem Tile.passX_alog (t : Tile) (st : Stream) (n : Nat) : (t.passX st n).alog = t.alog := by cases st <;> rfl
@[simp] theorem Tile.passX_active (t : Tile) (st : Stream) (n : Nat) : (t.passX st n).active = t.active := by cases st <;> rfl
@[simp] theorem Tile.passX_shadow (t : Tile) (st : Stream) (n : Nat) : (t.passX st n).shadow = t.shadow := by cases st <;> rfl
@[simp] theorem Tile.passX_viewA (t : Tile) (st : Stream) (n : Nat) : (t.passX st n).viewA = t.viewA := by cases st <;> rfl
@[simp] theorem Tile.passX_viewS (t : Tile) (st : Stream) (n : Nat) : (t.passX st n).viewS = t.viewS := by cases st <;> rfl
@[simp] theorem Tile.passX_l1 (t : Tile) (st : Stream) (n : Nat) : (t.passX st n).l1 = t.l1 := by cases st <;> rfl
@[simp] theorem Tile.passX_l1use (t : Tile) (st : Stream) (n : Nat) : (t.passX st n).l1use = t.l1use := by cases st <;> rfl
@[simp] theorem Tile.passX_claims (t : Tile) (st : Stream) (n : Nat) : (t.passX st n).claims = t.claims := by cases st <;> rfl
@[simp] theorem Tile.passX_tlb (t : Tile) (st : Stream) (n : Nat) : (t.passX st n).tlb = t.tlb := by cases st <;> rfl
@[simp] theorem Tile.passX_past (t : Tile) (st : Stream) (n : Nat) : (t.passX st n).past = t.past := by cases st <;> rfl
@[simp] theorem Tile.passX_walks (t : Tile) (st : Stream) (n : Nat) : (t.passX st n).walks = t.walks := by cases st <;> rfl
@[simp] theorem Tile.passX_reqCred (t : Tile) (st : Stream) (n : Nat) : (t.passX st n).reqCred = t.reqCred := by cases st <;> rfl
@[simp] theorem Tile.passX_rspCred (t : Tile) (st : Stream) (n : Nat) : (t.passX st n).rspCred = t.rspCred := by cases st <;> rfl
@[simp] theorem Tile.passX_enqs (t : Tile) (st : Stream) (n : Nat) : (t.passX st n).enqs = t.enqs := by cases st <;> rfl
@[simp] theorem Tile.passX_ov (t : Tile) (st : Stream) (n : Nat) : (t.passX st n).ov = t.ov := by cases st <;> rfl
@[simp] theorem Tile.passX_relPend (t : Tile) (st : Stream) (n : Nat) : (t.passX st n).relPend = t.relPend := by cases st <;> rfl
@[simp] theorem Tile.passX_rdV (t : Tile) (st : Stream) (n : Nat) : (t.passX st n).rdV = t.rdV := by cases st <;> rfl
@[simp] theorem Tile.passX_inBar (t : Tile) (st : Stream) (n : Nat) : (t.passX st n).inBar = t.inBar := by cases st <;> rfl
@[simp] theorem Tile.passX_bars (t : Tile) (st : Stream) (n : Nat) : (t.passX st n).bars = t.bars := by cases st <;> rfl
@[simp] theorem Tile.passX_dcReq (t : Tile) (st : Stream) (n : Nat) : (t.passX st n).dcReq = t.dcReq := by cases st <;> rfl
@[simp] theorem Tile.passX_alogOps (t : Tile) (st : Stream) (n : Nat) : (t.passX st n).alogOps = t.alogOps := by cases st <;> rfl
@[simp] theorem Tile.passX_xlogOps (t : Tile) (st : Stream) (n : Nat) : (t.passX st n).xlogOps = t.xlogOps := by cases st <;> rfl
@[simp] theorem Tile.passX_resA (t : Tile) (st : Stream) (n : Nat) : (t.passX st n).resA = t.resA := by cases st <;> rfl
@[simp] theorem Tile.passX_resX (t : Tile) (st : Stream) (n : Nat) : (t.passX st n).resX = t.resX := by cases st <;> rfl

@[simp] theorem Tile.setCsr_ctx (t : Tile) (st : Stream) (c : StreamCsr) : (t.setCsr st c).ctx = t.ctx := by cases st <;> rfl
@[simp] theorem Tile.setCsr_holder (t : Tile) (st : Stream) (c : StreamCsr) : (t.setCsr st c).holder = t.holder := by cases st <;> rfl
@[simp] theorem Tile.setCsr_sclass (t : Tile) (st : Stream) (c : StreamCsr) : (t.setCsr st c).sclass = t.sclass := by cases st <;> rfl
@[simp] theorem Tile.setCsr_sreq (t : Tile) (st : Stream) (c : StreamCsr) : (t.setCsr st c).sreq = t.sreq := by cases st <;> rfl
@[simp] theorem Tile.setCsr_srefused (t : Tile) (st : Stream) (c : StreamCsr) : (t.setCsr st c).srefused = t.srefused := by cases st <;> rfl
@[simp] theorem Tile.setCsr_sreqAt (t : Tile) (st : Stream) (c : StreamCsr) : (t.setCsr st c).sreqAt = t.sreqAt := by cases st <;> rfl
@[simp] theorem Tile.setCsr_launch (t : Tile) (st : Stream) (c : StreamCsr) : (t.setCsr st c).launch = t.launch := by cases st <;> rfl
@[simp] theorem Tile.setCsr_cur (t : Tile) (st : Stream) (c : StreamCsr) : (t.setCsr st c).cur = t.cur := by cases st <;> rfl
@[simp] theorem Tile.setCsr_switched (t : Tile) (st : Stream) (c : StreamCsr) : (t.setCsr st c).switched = t.switched := by cases st <;> rfl
@[simp] theorem Tile.setCsr_term (t : Tile) (st : Stream) (c : StreamCsr) : (t.setCsr st c).term = t.term := by cases st <;> rfl
@[simp] theorem Tile.setCsr_ist (t : Tile) (st : Stream) (c : StreamCsr) : (t.setCsr st c).ist = t.ist := by cases st <;> rfl
@[simp] theorem Tile.setCsr_item (t : Tile) (st : Stream) (c : StreamCsr) : (t.setCsr st c).item = t.item := by cases st <;> rfl
@[simp] theorem Tile.setCsr_stop (t : Tile) (st : Stream) (c : StreamCsr) : (t.setCsr st c).stop = t.stop := by cases st <;> rfl
@[simp] theorem Tile.setCsr_capturing (t : Tile) (st : Stream) (c : StreamCsr) : (t.setCsr st c).capturing = t.capturing := by cases st <;> rfl
@[simp] theorem Tile.setCsr_resume (t : Tile) (st : Stream) (c : StreamCsr) : (t.setCsr st c).resume = t.resume := by cases st <;> rfl
@[simp] theorem Tile.setCsr_lastImg (t : Tile) (st : Stream) (c : StreamCsr) : (t.setCsr st c).lastImg = t.lastImg := by cases st <;> rfl
@[simp] theorem Tile.setCsr_faults (t : Tile) (st : Stream) (c : StreamCsr) : (t.setCsr st c).faults = t.faults := by cases st <;> rfl
@[simp] theorem Tile.setCsr_areg (t : Tile) (st : Stream) (c : StreamCsr) : (t.setCsr st c).areg = t.areg := by cases st <;> rfl
@[simp] theorem Tile.setCsr_apois (t : Tile) (st : Stream) (c : StreamCsr) : (t.setCsr st c).apois = t.apois := by cases st <;> rfl
@[simp] theorem Tile.setCsr_xreg (t : Tile) (st : Stream) (c : StreamCsr) : (t.setCsr st c).xreg = t.xreg := by cases st <;> rfl
@[simp] theorem Tile.setCsr_xpois (t : Tile) (st : Stream) (c : StreamCsr) : (t.setCsr st c).xpois = t.xpois := by cases st <;> rfl
@[simp] theorem Tile.setCsr_flags (t : Tile) (st : Stream) (c : StreamCsr) : (t.setCsr st c).flags = t.flags := by cases st <;> rfl
@[simp] theorem Tile.setCsr_fpend (t : Tile) (st : Stream) (c : StreamCsr) : (t.setCsr st c).fpend = t.fpend := by cases st <;> rfl
@[simp] theorem Tile.setCsr_apc (t : Tile) (st : Stream) (c : StreamCsr) : (t.setCsr st c).apc = t.apc := by cases st <;> rfl
@[simp] theorem Tile.setCsr_xpc (t : Tile) (st : Stream) (c : StreamCsr) : (t.setCsr st c).xpc = t.xpc := by cases st <;> rfl
@[simp] theorem Tile.setCsr_astep (t : Tile) (st : Stream) (c : StreamCsr) : (t.setCsr st c).astep = t.astep := by cases st <;> rfl
@[simp] theorem Tile.setCsr_xstep (t : Tile) (st : Stream) (c : StreamCsr) : (t.setCsr st c).xstep = t.xstep := by cases st <;> rfl
@[simp] theorem Tile.setCsr_v (t : Tile) (st : Stream) (c : StreamCsr) : (t.setCsr st c).v = t.v := by cases st <;> rfl
@[simp] theorem Tile.setCsr_k (t : Tile) (st : Stream) (c : StreamCsr) : (t.setCsr st c).k = t.k := by cases st <;> rfl
@[simp] theorem Tile.setCsr_z (t : Tile) (st : Stream) (c : StreamCsr) : (t.setCsr st c).z = t.z := by cases st <;> rfl
@[simp] theorem Tile.setCsr_q (t : Tile) (st : Stream) (c : StreamCsr) : (t.setCsr st c).q = t.q := by cases st <;> rfl
@[simp] theorem Tile.setCsr_qb (t : Tile) (st : Stream) (c : StreamCsr) : (t.setCsr st c).qb = t.qb := by cases st <;> rfl
@[simp] theorem Tile.setCsr_tk (t : Tile) (st : Stream) (c : StreamCsr) : (t.setCsr st c).tk = t.tk := by cases st <;> rfl
@[simp] theorem Tile.setCsr_rcp (t : Tile) (st : Stream) (c : StreamCsr) : (t.setCsr st c).rcp = t.rcp := by cases st <;> rfl
@[simp] theorem Tile.setCsr_ax (t : Tile) (st : Stream) (c : StreamCsr) : (t.setCsr st c).ax = t.ax := by cases st <;> rfl
@[simp] theorem Tile.setCsr_av (t : Tile) (st : Stream) (c : StreamCsr) : (t.setCsr st c).av = t.av := by cases st <;> rfl
@[simp] theorem Tile.setCsr_ak (t : Tile) (st : Stream) (c : StreamCsr) : (t.setCsr st c).ak = t.ak := by cases st <;> rfl
@[simp] theorem Tile.setCsr_fctl (t : Tile) (st : Stream) (c : StreamCsr) : (t.setCsr st c).fctl = t.fctl := by cases st <;> rfl
@[simp] theorem Tile.setCsr_fstat (t : Tile) (st : Stream) (c : StreamCsr) : (t.setCsr st c).fstat = t.fstat := by cases st <;> rfl
@[simp] theorem Tile.setCsr_leak (t : Tile) (st : Stream) (c : StreamCsr) : (t.setCsr st c).leak = t.leak := by cases st <;> rfl
@[simp] theorem Tile.setCsr_adty (t : Tile) (st : Stream) (c : StreamCsr) : (t.setCsr st c).adty = t.adty := by cases st <;> rfl
@[simp] theorem Tile.setCsr_cyc (t : Tile) (st : Stream) (c : StreamCsr) : (t.setCsr st c).cyc = t.cyc := by cases st <;> rfl
@[simp] theorem Tile.setCsr_pmc (t : Tile) (st : Stream) (c : StreamCsr) : (t.setCsr st c).pmc = t.pmc := by cases st <;> rfl
@[simp] theorem Tile.setCsr_pmsel (t : Tile) (st : Stream) (c : StreamCsr) : (t.setCsr st c).pmsel = t.pmsel := by cases st <;> rfl
@[simp] theorem Tile.setCsr_pmovf (t : Tile) (st : Stream) (c : StreamCsr) : (t.setCsr st c).pmovf = t.pmovf := by cases st <;> rfl
@[simp] theorem Tile.setCsr_pmwrap (t : Tile) (st : Stream) (c : StreamCsr) : (t.setCsr st c).pmwrap = t.pmwrap := by cases st <;> rfl
@[simp] theorem Tile.setCsr_brk (t : Tile) (st : Stream) (c : StreamCsr) : (t.setCsr st c).brk = t.brk := by cases st <;> rfl
@[simp] theorem Tile.setCsr_wgran (t : Tile) (st : Stream) (c : StreamCsr) : (t.setCsr st c).wgran = t.wgran := by cases st <;> rfl
@[simp] theorem Tile.setCsr_wroteClu (t : Tile) (st : Stream) (c : StreamCsr) : (t.setCsr st c).wroteClu = t.wroteClu := by cases st <;> rfl
@[simp] theorem Tile.setCsr_sealb (t : Tile) (st : Stream) (c : StreamCsr) : (t.setCsr st c).sealb = t.sealb := by cases st <;> rfl
@[simp] theorem Tile.setCsr_xcyc (t : Tile) (st : Stream) (c : StreamCsr) : (t.setCsr st c).xcyc = t.xcyc := by cases st <;> rfl
@[simp] theorem Tile.setCsr_pend (t : Tile) (st : Stream) (c : StreamCsr) : (t.setCsr st c).pend = t.pend := by cases st <;> rfl
@[simp] theorem Tile.setCsr_units (t : Tile) (st : Stream) (c : StreamCsr) : (t.setCsr st c).units = t.units := by cases st <;> rfl
@[simp] theorem Tile.setCsr_ldClose (t : Tile) (st : Stream) (c : StreamCsr) : (t.setCsr st c).ldClose = t.ldClose := by cases st <;> rfl
@[simp] theorem Tile.setCsr_stClose (t : Tile) (st : Stream) (c : StreamCsr) : (t.setCsr st c).stClose = t.stClose := by cases st <;> rfl
@[simp] theorem Tile.setCsr_stCloseC (t : Tile) (st : Stream) (c : StreamCsr) : (t.setCsr st c).stCloseC = t.stCloseC := by cases st <;> rfl
@[simp] theorem Tile.setCsr_holdSt (t : Tile) (st : Stream) (c : StreamCsr) : (t.setCsr st c).holdSt = t.holdSt := by cases st <;> rfl
@[simp] theorem Tile.setCsr_holdLd (t : Tile) (st : Stream) (c : StreamCsr) : (t.setCsr st c).holdLd = t.holdLd := by cases st <;> rfl
@[simp] theorem Tile.setCsr_ecopy (t : Tile) (st : Stream) (c : StreamCsr) : (t.setCsr st c).ecopy = t.ecopy := by cases st <;> rfl
@[simp] theorem Tile.setCsr_egath (t : Tile) (st : Stream) (c : StreamCsr) : (t.setCsr st c).egath = t.egath := by cases st <;> rfl
@[simp] theorem Tile.setCsr_emat (t : Tile) (st : Stream) (c : StreamCsr) : (t.setCsr st c).emat = t.emat := by cases st <;> rfl
@[simp] theorem Tile.setCsr_ecoll (t : Tile) (st : Stream) (c : StreamCsr) : (t.setCsr st c).ecoll = t.ecoll := by cases st <;> rfl
@[simp] theorem Tile.setCsr_esalt (t : Tile) (st : Stream) (c : StreamCsr) : (t.setCsr st c).esalt = t.esalt := by cases st <;> rfl
@[simp] theorem Tile.setCsr_loose (t : Tile) (st : Stream) (c : StreamCsr) : (t.setCsr st c).loose = t.loose := by cases st <;> rfl
@[simp] theorem Tile.setCsr_alog (t : Tile) (st : Stream) (c : StreamCsr) : (t.setCsr st c).alog = t.alog := by cases st <;> rfl
@[simp] theorem Tile.setCsr_active (t : Tile) (st : Stream) (c : StreamCsr) : (t.setCsr st c).active = t.active := by cases st <;> rfl
@[simp] theorem Tile.setCsr_shadow (t : Tile) (st : Stream) (c : StreamCsr) : (t.setCsr st c).shadow = t.shadow := by cases st <;> rfl
@[simp] theorem Tile.setCsr_viewA (t : Tile) (st : Stream) (c : StreamCsr) : (t.setCsr st c).viewA = t.viewA := by cases st <;> rfl
@[simp] theorem Tile.setCsr_viewS (t : Tile) (st : Stream) (c : StreamCsr) : (t.setCsr st c).viewS = t.viewS := by cases st <;> rfl
@[simp] theorem Tile.setCsr_l1 (t : Tile) (st : Stream) (c : StreamCsr) : (t.setCsr st c).l1 = t.l1 := by cases st <;> rfl
@[simp] theorem Tile.setCsr_l1use (t : Tile) (st : Stream) (c : StreamCsr) : (t.setCsr st c).l1use = t.l1use := by cases st <;> rfl
@[simp] theorem Tile.setCsr_claims (t : Tile) (st : Stream) (c : StreamCsr) : (t.setCsr st c).claims = t.claims := by cases st <;> rfl
@[simp] theorem Tile.setCsr_tlb (t : Tile) (st : Stream) (c : StreamCsr) : (t.setCsr st c).tlb = t.tlb := by cases st <;> rfl
@[simp] theorem Tile.setCsr_past (t : Tile) (st : Stream) (c : StreamCsr) : (t.setCsr st c).past = t.past := by cases st <;> rfl
@[simp] theorem Tile.setCsr_walks (t : Tile) (st : Stream) (c : StreamCsr) : (t.setCsr st c).walks = t.walks := by cases st <;> rfl
@[simp] theorem Tile.setCsr_reqCred (t : Tile) (st : Stream) (c : StreamCsr) : (t.setCsr st c).reqCred = t.reqCred := by cases st <;> rfl
@[simp] theorem Tile.setCsr_rspCred (t : Tile) (st : Stream) (c : StreamCsr) : (t.setCsr st c).rspCred = t.rspCred := by cases st <;> rfl
@[simp] theorem Tile.setCsr_enqs (t : Tile) (st : Stream) (c : StreamCsr) : (t.setCsr st c).enqs = t.enqs := by cases st <;> rfl
@[simp] theorem Tile.setCsr_ov (t : Tile) (st : Stream) (c : StreamCsr) : (t.setCsr st c).ov = t.ov := by cases st <;> rfl
@[simp] theorem Tile.setCsr_relPend (t : Tile) (st : Stream) (c : StreamCsr) : (t.setCsr st c).relPend = t.relPend := by cases st <;> rfl
@[simp] theorem Tile.setCsr_rdV (t : Tile) (st : Stream) (c : StreamCsr) : (t.setCsr st c).rdV = t.rdV := by cases st <;> rfl
@[simp] theorem Tile.setCsr_inBar (t : Tile) (st : Stream) (c : StreamCsr) : (t.setCsr st c).inBar = t.inBar := by cases st <;> rfl
@[simp] theorem Tile.setCsr_bars (t : Tile) (st : Stream) (c : StreamCsr) : (t.setCsr st c).bars = t.bars := by cases st <;> rfl
@[simp] theorem Tile.setCsr_dcReq (t : Tile) (st : Stream) (c : StreamCsr) : (t.setCsr st c).dcReq = t.dcReq := by cases st <;> rfl
@[simp] theorem Tile.setCsr_alogOps (t : Tile) (st : Stream) (c : StreamCsr) : (t.setCsr st c).alogOps = t.alogOps := by cases st <;> rfl
@[simp] theorem Tile.setCsr_xlogOps (t : Tile) (st : Stream) (c : StreamCsr) : (t.setCsr st c).xlogOps = t.xlogOps := by cases st <;> rfl
@[simp] theorem Tile.setCsr_resA (t : Tile) (st : Stream) (c : StreamCsr) : (t.setCsr st c).resA = t.resA := by cases st <;> rfl
@[simp] theorem Tile.setCsr_resX (t : Tile) (st : Stream) (c : StreamCsr) : (t.setCsr st c).resX = t.resX := by cases st <;> rfl

@[simp] theorem Tile.setEng_ctx (t : Tile) (e : Eng) (q : EngQ) : (t.setEng e q).ctx = t.ctx := by cases e <;> rfl
@[simp] theorem Tile.setEng_holder (t : Tile) (e : Eng) (q : EngQ) : (t.setEng e q).holder = t.holder := by cases e <;> rfl
@[simp] theorem Tile.setEng_sclass (t : Tile) (e : Eng) (q : EngQ) : (t.setEng e q).sclass = t.sclass := by cases e <;> rfl
@[simp] theorem Tile.setEng_sreq (t : Tile) (e : Eng) (q : EngQ) : (t.setEng e q).sreq = t.sreq := by cases e <;> rfl
@[simp] theorem Tile.setEng_srefused (t : Tile) (e : Eng) (q : EngQ) : (t.setEng e q).srefused = t.srefused := by cases e <;> rfl
@[simp] theorem Tile.setEng_sreqAt (t : Tile) (e : Eng) (q : EngQ) : (t.setEng e q).sreqAt = t.sreqAt := by cases e <;> rfl
@[simp] theorem Tile.setEng_launch (t : Tile) (e : Eng) (q : EngQ) : (t.setEng e q).launch = t.launch := by cases e <;> rfl
@[simp] theorem Tile.setEng_cur (t : Tile) (e : Eng) (q : EngQ) : (t.setEng e q).cur = t.cur := by cases e <;> rfl
@[simp] theorem Tile.setEng_switched (t : Tile) (e : Eng) (q : EngQ) : (t.setEng e q).switched = t.switched := by cases e <;> rfl
@[simp] theorem Tile.setEng_term (t : Tile) (e : Eng) (q : EngQ) : (t.setEng e q).term = t.term := by cases e <;> rfl
@[simp] theorem Tile.setEng_ist (t : Tile) (e : Eng) (q : EngQ) : (t.setEng e q).ist = t.ist := by cases e <;> rfl
@[simp] theorem Tile.setEng_item (t : Tile) (e : Eng) (q : EngQ) : (t.setEng e q).item = t.item := by cases e <;> rfl
@[simp] theorem Tile.setEng_stop (t : Tile) (e : Eng) (q : EngQ) : (t.setEng e q).stop = t.stop := by cases e <;> rfl
@[simp] theorem Tile.setEng_capturing (t : Tile) (e : Eng) (q : EngQ) : (t.setEng e q).capturing = t.capturing := by cases e <;> rfl
@[simp] theorem Tile.setEng_resume (t : Tile) (e : Eng) (q : EngQ) : (t.setEng e q).resume = t.resume := by cases e <;> rfl
@[simp] theorem Tile.setEng_lastImg (t : Tile) (e : Eng) (q : EngQ) : (t.setEng e q).lastImg = t.lastImg := by cases e <;> rfl
@[simp] theorem Tile.setEng_faults (t : Tile) (e : Eng) (q : EngQ) : (t.setEng e q).faults = t.faults := by cases e <;> rfl
@[simp] theorem Tile.setEng_areg (t : Tile) (e : Eng) (q : EngQ) : (t.setEng e q).areg = t.areg := by cases e <;> rfl
@[simp] theorem Tile.setEng_apois (t : Tile) (e : Eng) (q : EngQ) : (t.setEng e q).apois = t.apois := by cases e <;> rfl
@[simp] theorem Tile.setEng_xreg (t : Tile) (e : Eng) (q : EngQ) : (t.setEng e q).xreg = t.xreg := by cases e <;> rfl
@[simp] theorem Tile.setEng_xpois (t : Tile) (e : Eng) (q : EngQ) : (t.setEng e q).xpois = t.xpois := by cases e <;> rfl
@[simp] theorem Tile.setEng_flags (t : Tile) (e : Eng) (q : EngQ) : (t.setEng e q).flags = t.flags := by cases e <;> rfl
@[simp] theorem Tile.setEng_fpend (t : Tile) (e : Eng) (q : EngQ) : (t.setEng e q).fpend = t.fpend := by cases e <;> rfl
@[simp] theorem Tile.setEng_apc (t : Tile) (e : Eng) (q : EngQ) : (t.setEng e q).apc = t.apc := by cases e <;> rfl
@[simp] theorem Tile.setEng_xpc (t : Tile) (e : Eng) (q : EngQ) : (t.setEng e q).xpc = t.xpc := by cases e <;> rfl
@[simp] theorem Tile.setEng_astep (t : Tile) (e : Eng) (q : EngQ) : (t.setEng e q).astep = t.astep := by cases e <;> rfl
@[simp] theorem Tile.setEng_xstep (t : Tile) (e : Eng) (q : EngQ) : (t.setEng e q).xstep = t.xstep := by cases e <;> rfl
@[simp] theorem Tile.setEng_v (t : Tile) (e : Eng) (q : EngQ) : (t.setEng e q).v = t.v := by cases e <;> rfl
@[simp] theorem Tile.setEng_k (t : Tile) (e : Eng) (q : EngQ) : (t.setEng e q).k = t.k := by cases e <;> rfl
@[simp] theorem Tile.setEng_z (t : Tile) (e : Eng) (q : EngQ) : (t.setEng e q).z = t.z := by cases e <;> rfl
@[simp] theorem Tile.setEng_q (t : Tile) (e : Eng) (q : EngQ) : (t.setEng e q).q = t.q := by cases e <;> rfl
@[simp] theorem Tile.setEng_qb (t : Tile) (e : Eng) (q : EngQ) : (t.setEng e q).qb = t.qb := by cases e <;> rfl
@[simp] theorem Tile.setEng_tk (t : Tile) (e : Eng) (q : EngQ) : (t.setEng e q).tk = t.tk := by cases e <;> rfl
@[simp] theorem Tile.setEng_rcp (t : Tile) (e : Eng) (q : EngQ) : (t.setEng e q).rcp = t.rcp := by cases e <;> rfl
@[simp] theorem Tile.setEng_ax (t : Tile) (e : Eng) (q : EngQ) : (t.setEng e q).ax = t.ax := by cases e <;> rfl
@[simp] theorem Tile.setEng_av (t : Tile) (e : Eng) (q : EngQ) : (t.setEng e q).av = t.av := by cases e <;> rfl
@[simp] theorem Tile.setEng_ak (t : Tile) (e : Eng) (q : EngQ) : (t.setEng e q).ak = t.ak := by cases e <;> rfl
@[simp] theorem Tile.setEng_fctl (t : Tile) (e : Eng) (q : EngQ) : (t.setEng e q).fctl = t.fctl := by cases e <;> rfl
@[simp] theorem Tile.setEng_fstat (t : Tile) (e : Eng) (q : EngQ) : (t.setEng e q).fstat = t.fstat := by cases e <;> rfl
@[simp] theorem Tile.setEng_leak (t : Tile) (e : Eng) (q : EngQ) : (t.setEng e q).leak = t.leak := by cases e <;> rfl
@[simp] theorem Tile.setEng_adty (t : Tile) (e : Eng) (q : EngQ) : (t.setEng e q).adty = t.adty := by cases e <;> rfl
@[simp] theorem Tile.setEng_acsr (t : Tile) (e : Eng) (q : EngQ) : (t.setEng e q).acsr = t.acsr := by cases e <;> rfl
@[simp] theorem Tile.setEng_xcsr (t : Tile) (e : Eng) (q : EngQ) : (t.setEng e q).xcsr = t.xcsr := by cases e <;> rfl
@[simp] theorem Tile.setEng_cyc (t : Tile) (e : Eng) (q : EngQ) : (t.setEng e q).cyc = t.cyc := by cases e <;> rfl
@[simp] theorem Tile.setEng_pmc (t : Tile) (e : Eng) (q : EngQ) : (t.setEng e q).pmc = t.pmc := by cases e <;> rfl
@[simp] theorem Tile.setEng_pmsel (t : Tile) (e : Eng) (q : EngQ) : (t.setEng e q).pmsel = t.pmsel := by cases e <;> rfl
@[simp] theorem Tile.setEng_pmovf (t : Tile) (e : Eng) (q : EngQ) : (t.setEng e q).pmovf = t.pmovf := by cases e <;> rfl
@[simp] theorem Tile.setEng_pmwrap (t : Tile) (e : Eng) (q : EngQ) : (t.setEng e q).pmwrap = t.pmwrap := by cases e <;> rfl
@[simp] theorem Tile.setEng_brk (t : Tile) (e : Eng) (q : EngQ) : (t.setEng e q).brk = t.brk := by cases e <;> rfl
@[simp] theorem Tile.setEng_wgran (t : Tile) (e : Eng) (q : EngQ) : (t.setEng e q).wgran = t.wgran := by cases e <;> rfl
@[simp] theorem Tile.setEng_wroteClu (t : Tile) (e : Eng) (q : EngQ) : (t.setEng e q).wroteClu = t.wroteClu := by cases e <;> rfl
@[simp] theorem Tile.setEng_sealb (t : Tile) (e : Eng) (q : EngQ) : (t.setEng e q).sealb = t.sealb := by cases e <;> rfl
@[simp] theorem Tile.setEng_xcyc (t : Tile) (e : Eng) (q : EngQ) : (t.setEng e q).xcyc = t.xcyc := by cases e <;> rfl
@[simp] theorem Tile.setEng_pend (t : Tile) (e : Eng) (q : EngQ) : (t.setEng e q).pend = t.pend := by cases e <;> rfl
@[simp] theorem Tile.setEng_units (t : Tile) (e : Eng) (q : EngQ) : (t.setEng e q).units = t.units := by cases e <;> rfl
@[simp] theorem Tile.setEng_ldClose (t : Tile) (e : Eng) (q : EngQ) : (t.setEng e q).ldClose = t.ldClose := by cases e <;> rfl
@[simp] theorem Tile.setEng_stClose (t : Tile) (e : Eng) (q : EngQ) : (t.setEng e q).stClose = t.stClose := by cases e <;> rfl
@[simp] theorem Tile.setEng_stCloseC (t : Tile) (e : Eng) (q : EngQ) : (t.setEng e q).stCloseC = t.stCloseC := by cases e <;> rfl
@[simp] theorem Tile.setEng_holdSt (t : Tile) (e : Eng) (q : EngQ) : (t.setEng e q).holdSt = t.holdSt := by cases e <;> rfl
@[simp] theorem Tile.setEng_holdLd (t : Tile) (e : Eng) (q : EngQ) : (t.setEng e q).holdLd = t.holdLd := by cases e <;> rfl
@[simp] theorem Tile.setEng_loose (t : Tile) (e : Eng) (q : EngQ) : (t.setEng e q).loose = t.loose := by cases e <;> rfl
@[simp] theorem Tile.setEng_alog (t : Tile) (e : Eng) (q : EngQ) : (t.setEng e q).alog = t.alog := by cases e <;> rfl
@[simp] theorem Tile.setEng_active (t : Tile) (e : Eng) (q : EngQ) : (t.setEng e q).active = t.active := by cases e <;> rfl
@[simp] theorem Tile.setEng_shadow (t : Tile) (e : Eng) (q : EngQ) : (t.setEng e q).shadow = t.shadow := by cases e <;> rfl
@[simp] theorem Tile.setEng_viewA (t : Tile) (e : Eng) (q : EngQ) : (t.setEng e q).viewA = t.viewA := by cases e <;> rfl
@[simp] theorem Tile.setEng_viewS (t : Tile) (e : Eng) (q : EngQ) : (t.setEng e q).viewS = t.viewS := by cases e <;> rfl
@[simp] theorem Tile.setEng_l1 (t : Tile) (e : Eng) (q : EngQ) : (t.setEng e q).l1 = t.l1 := by cases e <;> rfl
@[simp] theorem Tile.setEng_l1use (t : Tile) (e : Eng) (q : EngQ) : (t.setEng e q).l1use = t.l1use := by cases e <;> rfl
@[simp] theorem Tile.setEng_claims (t : Tile) (e : Eng) (q : EngQ) : (t.setEng e q).claims = t.claims := by cases e <;> rfl
@[simp] theorem Tile.setEng_tlb (t : Tile) (e : Eng) (q : EngQ) : (t.setEng e q).tlb = t.tlb := by cases e <;> rfl
@[simp] theorem Tile.setEng_past (t : Tile) (e : Eng) (q : EngQ) : (t.setEng e q).past = t.past := by cases e <;> rfl
@[simp] theorem Tile.setEng_walks (t : Tile) (e : Eng) (q : EngQ) : (t.setEng e q).walks = t.walks := by cases e <;> rfl
@[simp] theorem Tile.setEng_reqCred (t : Tile) (e : Eng) (q : EngQ) : (t.setEng e q).reqCred = t.reqCred := by cases e <;> rfl
@[simp] theorem Tile.setEng_rspCred (t : Tile) (e : Eng) (q : EngQ) : (t.setEng e q).rspCred = t.rspCred := by cases e <;> rfl
@[simp] theorem Tile.setEng_enqs (t : Tile) (e : Eng) (q : EngQ) : (t.setEng e q).enqs = t.enqs := by cases e <;> rfl
@[simp] theorem Tile.setEng_ov (t : Tile) (e : Eng) (q : EngQ) : (t.setEng e q).ov = t.ov := by cases e <;> rfl
@[simp] theorem Tile.setEng_relPend (t : Tile) (e : Eng) (q : EngQ) : (t.setEng e q).relPend = t.relPend := by cases e <;> rfl
@[simp] theorem Tile.setEng_rdV (t : Tile) (e : Eng) (q : EngQ) : (t.setEng e q).rdV = t.rdV := by cases e <;> rfl
@[simp] theorem Tile.setEng_inBar (t : Tile) (e : Eng) (q : EngQ) : (t.setEng e q).inBar = t.inBar := by cases e <;> rfl
@[simp] theorem Tile.setEng_bars (t : Tile) (e : Eng) (q : EngQ) : (t.setEng e q).bars = t.bars := by cases e <;> rfl
@[simp] theorem Tile.setEng_dcReq (t : Tile) (e : Eng) (q : EngQ) : (t.setEng e q).dcReq = t.dcReq := by cases e <;> rfl
@[simp] theorem Tile.setEng_alogOps (t : Tile) (e : Eng) (q : EngQ) : (t.setEng e q).alogOps = t.alogOps := by cases e <;> rfl
@[simp] theorem Tile.setEng_xlogOps (t : Tile) (e : Eng) (q : EngQ) : (t.setEng e q).xlogOps = t.xlogOps := by cases e <;> rfl
@[simp] theorem Tile.setEng_resA (t : Tile) (e : Eng) (q : EngQ) : (t.setEng e q).resA = t.resA := by cases e <;> rfl
@[simp] theorem Tile.setEng_resX (t : Tile) (e : Eng) (q : EngQ) : (t.setEng e q).resX = t.resX := by cases e <;> rfl

@[simp] theorem Tile.wrA_ctx (t : Tile) (r : R5) (v : W64) (p : Bool) : (t.wrA r v p).ctx = t.ctx := by unfold Tile.wrA; split <;> rfl
@[simp] theorem Tile.wrA_holder (t : Tile) (r : R5) (v : W64) (p : Bool) : (t.wrA r v p).holder = t.holder := by unfold Tile.wrA; split <;> rfl
@[simp] theorem Tile.wrA_sclass (t : Tile) (r : R5) (v : W64) (p : Bool) : (t.wrA r v p).sclass = t.sclass := by unfold Tile.wrA; split <;> rfl
@[simp] theorem Tile.wrA_sreq (t : Tile) (r : R5) (v : W64) (p : Bool) : (t.wrA r v p).sreq = t.sreq := by unfold Tile.wrA; split <;> rfl
@[simp] theorem Tile.wrA_srefused (t : Tile) (r : R5) (v : W64) (p : Bool) : (t.wrA r v p).srefused = t.srefused := by unfold Tile.wrA; split <;> rfl
@[simp] theorem Tile.wrA_sreqAt (t : Tile) (r : R5) (v : W64) (p : Bool) : (t.wrA r v p).sreqAt = t.sreqAt := by unfold Tile.wrA; split <;> rfl
@[simp] theorem Tile.wrA_launch (t : Tile) (r : R5) (v : W64) (p : Bool) : (t.wrA r v p).launch = t.launch := by unfold Tile.wrA; split <;> rfl
@[simp] theorem Tile.wrA_cur (t : Tile) (r : R5) (v : W64) (p : Bool) : (t.wrA r v p).cur = t.cur := by unfold Tile.wrA; split <;> rfl
@[simp] theorem Tile.wrA_switched (t : Tile) (r : R5) (v : W64) (p : Bool) : (t.wrA r v p).switched = t.switched := by unfold Tile.wrA; split <;> rfl
@[simp] theorem Tile.wrA_term (t : Tile) (r : R5) (v : W64) (p : Bool) : (t.wrA r v p).term = t.term := by unfold Tile.wrA; split <;> rfl
@[simp] theorem Tile.wrA_ist (t : Tile) (r : R5) (v : W64) (p : Bool) : (t.wrA r v p).ist = t.ist := by unfold Tile.wrA; split <;> rfl
@[simp] theorem Tile.wrA_item (t : Tile) (r : R5) (v : W64) (p : Bool) : (t.wrA r v p).item = t.item := by unfold Tile.wrA; split <;> rfl
@[simp] theorem Tile.wrA_stop (t : Tile) (r : R5) (v : W64) (p : Bool) : (t.wrA r v p).stop = t.stop := by unfold Tile.wrA; split <;> rfl
@[simp] theorem Tile.wrA_capturing (t : Tile) (r : R5) (v : W64) (p : Bool) : (t.wrA r v p).capturing = t.capturing := by unfold Tile.wrA; split <;> rfl
@[simp] theorem Tile.wrA_resume (t : Tile) (r : R5) (v : W64) (p : Bool) : (t.wrA r v p).resume = t.resume := by unfold Tile.wrA; split <;> rfl
@[simp] theorem Tile.wrA_lastImg (t : Tile) (r : R5) (v : W64) (p : Bool) : (t.wrA r v p).lastImg = t.lastImg := by unfold Tile.wrA; split <;> rfl
@[simp] theorem Tile.wrA_faults (t : Tile) (r : R5) (v : W64) (p : Bool) : (t.wrA r v p).faults = t.faults := by unfold Tile.wrA; split <;> rfl
@[simp] theorem Tile.wrA_xreg (t : Tile) (r : R5) (v : W64) (p : Bool) : (t.wrA r v p).xreg = t.xreg := by unfold Tile.wrA; split <;> rfl
@[simp] theorem Tile.wrA_xpois (t : Tile) (r : R5) (v : W64) (p : Bool) : (t.wrA r v p).xpois = t.xpois := by unfold Tile.wrA; split <;> rfl
@[simp] theorem Tile.wrA_flags (t : Tile) (r : R5) (v : W64) (p : Bool) : (t.wrA r v p).flags = t.flags := by unfold Tile.wrA; split <;> rfl
@[simp] theorem Tile.wrA_fpend (t : Tile) (r : R5) (v : W64) (p : Bool) : (t.wrA r v p).fpend = t.fpend := by unfold Tile.wrA; split <;> rfl
@[simp] theorem Tile.wrA_apc (t : Tile) (r : R5) (v : W64) (p : Bool) : (t.wrA r v p).apc = t.apc := by unfold Tile.wrA; split <;> rfl
@[simp] theorem Tile.wrA_xpc (t : Tile) (r : R5) (v : W64) (p : Bool) : (t.wrA r v p).xpc = t.xpc := by unfold Tile.wrA; split <;> rfl
@[simp] theorem Tile.wrA_astep (t : Tile) (r : R5) (v : W64) (p : Bool) : (t.wrA r v p).astep = t.astep := by unfold Tile.wrA; split <;> rfl
@[simp] theorem Tile.wrA_xstep (t : Tile) (r : R5) (v : W64) (p : Bool) : (t.wrA r v p).xstep = t.xstep := by unfold Tile.wrA; split <;> rfl
@[simp] theorem Tile.wrA_v (t : Tile) (r : R5) (v : W64) (p : Bool) : (t.wrA r v p).v = t.v := by unfold Tile.wrA; split <;> rfl
@[simp] theorem Tile.wrA_k (t : Tile) (r : R5) (v : W64) (p : Bool) : (t.wrA r v p).k = t.k := by unfold Tile.wrA; split <;> rfl
@[simp] theorem Tile.wrA_z (t : Tile) (r : R5) (v : W64) (p : Bool) : (t.wrA r v p).z = t.z := by unfold Tile.wrA; split <;> rfl
@[simp] theorem Tile.wrA_q (t : Tile) (r : R5) (v : W64) (p : Bool) : (t.wrA r v p).q = t.q := by unfold Tile.wrA; split <;> rfl
@[simp] theorem Tile.wrA_qb (t : Tile) (r : R5) (v : W64) (p : Bool) : (t.wrA r v p).qb = t.qb := by unfold Tile.wrA; split <;> rfl
@[simp] theorem Tile.wrA_tk (t : Tile) (r : R5) (v : W64) (p : Bool) : (t.wrA r v p).tk = t.tk := by unfold Tile.wrA; split <;> rfl
@[simp] theorem Tile.wrA_rcp (t : Tile) (r : R5) (v : W64) (p : Bool) : (t.wrA r v p).rcp = t.rcp := by unfold Tile.wrA; split <;> rfl
@[simp] theorem Tile.wrA_ax (t : Tile) (r : R5) (v : W64) (p : Bool) : (t.wrA r v p).ax = t.ax := by unfold Tile.wrA; split <;> rfl
@[simp] theorem Tile.wrA_av (t : Tile) (r : R5) (v : W64) (p : Bool) : (t.wrA r v p).av = t.av := by unfold Tile.wrA; split <;> rfl
@[simp] theorem Tile.wrA_ak (t : Tile) (r : R5) (v : W64) (p : Bool) : (t.wrA r v p).ak = t.ak := by unfold Tile.wrA; split <;> rfl
@[simp] theorem Tile.wrA_fctl (t : Tile) (r : R5) (v : W64) (p : Bool) : (t.wrA r v p).fctl = t.fctl := by unfold Tile.wrA; split <;> rfl
@[simp] theorem Tile.wrA_fstat (t : Tile) (r : R5) (v : W64) (p : Bool) : (t.wrA r v p).fstat = t.fstat := by unfold Tile.wrA; split <;> rfl
@[simp] theorem Tile.wrA_leak (t : Tile) (r : R5) (v : W64) (p : Bool) : (t.wrA r v p).leak = t.leak := by unfold Tile.wrA; split <;> rfl
@[simp] theorem Tile.wrA_adty (t : Tile) (r : R5) (v : W64) (p : Bool) : (t.wrA r v p).adty = t.adty := by unfold Tile.wrA; split <;> rfl
@[simp] theorem Tile.wrA_acsr (t : Tile) (r : R5) (v : W64) (p : Bool) : (t.wrA r v p).acsr = t.acsr := by unfold Tile.wrA; split <;> rfl
@[simp] theorem Tile.wrA_xcsr (t : Tile) (r : R5) (v : W64) (p : Bool) : (t.wrA r v p).xcsr = t.xcsr := by unfold Tile.wrA; split <;> rfl
@[simp] theorem Tile.wrA_cyc (t : Tile) (r : R5) (v : W64) (p : Bool) : (t.wrA r v p).cyc = t.cyc := by unfold Tile.wrA; split <;> rfl
@[simp] theorem Tile.wrA_pmc (t : Tile) (r : R5) (v : W64) (p : Bool) : (t.wrA r v p).pmc = t.pmc := by unfold Tile.wrA; split <;> rfl
@[simp] theorem Tile.wrA_pmsel (t : Tile) (r : R5) (v : W64) (p : Bool) : (t.wrA r v p).pmsel = t.pmsel := by unfold Tile.wrA; split <;> rfl
@[simp] theorem Tile.wrA_pmovf (t : Tile) (r : R5) (v : W64) (p : Bool) : (t.wrA r v p).pmovf = t.pmovf := by unfold Tile.wrA; split <;> rfl
@[simp] theorem Tile.wrA_pmwrap (t : Tile) (r : R5) (v : W64) (p : Bool) : (t.wrA r v p).pmwrap = t.pmwrap := by unfold Tile.wrA; split <;> rfl
@[simp] theorem Tile.wrA_brk (t : Tile) (r : R5) (v : W64) (p : Bool) : (t.wrA r v p).brk = t.brk := by unfold Tile.wrA; split <;> rfl
@[simp] theorem Tile.wrA_wgran (t : Tile) (r : R5) (v : W64) (p : Bool) : (t.wrA r v p).wgran = t.wgran := by unfold Tile.wrA; split <;> rfl
@[simp] theorem Tile.wrA_wroteClu (t : Tile) (r : R5) (v : W64) (p : Bool) : (t.wrA r v p).wroteClu = t.wroteClu := by unfold Tile.wrA; split <;> rfl
@[simp] theorem Tile.wrA_sealb (t : Tile) (r : R5) (v : W64) (p : Bool) : (t.wrA r v p).sealb = t.sealb := by unfold Tile.wrA; split <;> rfl
@[simp] theorem Tile.wrA_xcyc (t : Tile) (r : R5) (v : W64) (p : Bool) : (t.wrA r v p).xcyc = t.xcyc := by unfold Tile.wrA; split <;> rfl
@[simp] theorem Tile.wrA_pend (t : Tile) (r : R5) (v : W64) (p : Bool) : (t.wrA r v p).pend = t.pend := by unfold Tile.wrA; split <;> rfl
@[simp] theorem Tile.wrA_units (t : Tile) (r : R5) (v : W64) (p : Bool) : (t.wrA r v p).units = t.units := by unfold Tile.wrA; split <;> rfl
@[simp] theorem Tile.wrA_ldClose (t : Tile) (r : R5) (v : W64) (p : Bool) : (t.wrA r v p).ldClose = t.ldClose := by unfold Tile.wrA; split <;> rfl
@[simp] theorem Tile.wrA_stClose (t : Tile) (r : R5) (v : W64) (p : Bool) : (t.wrA r v p).stClose = t.stClose := by unfold Tile.wrA; split <;> rfl
@[simp] theorem Tile.wrA_stCloseC (t : Tile) (r : R5) (v : W64) (p : Bool) : (t.wrA r v p).stCloseC = t.stCloseC := by unfold Tile.wrA; split <;> rfl
@[simp] theorem Tile.wrA_holdSt (t : Tile) (r : R5) (v : W64) (p : Bool) : (t.wrA r v p).holdSt = t.holdSt := by unfold Tile.wrA; split <;> rfl
@[simp] theorem Tile.wrA_holdLd (t : Tile) (r : R5) (v : W64) (p : Bool) : (t.wrA r v p).holdLd = t.holdLd := by unfold Tile.wrA; split <;> rfl
@[simp] theorem Tile.wrA_ecopy (t : Tile) (r : R5) (v : W64) (p : Bool) : (t.wrA r v p).ecopy = t.ecopy := by unfold Tile.wrA; split <;> rfl
@[simp] theorem Tile.wrA_egath (t : Tile) (r : R5) (v : W64) (p : Bool) : (t.wrA r v p).egath = t.egath := by unfold Tile.wrA; split <;> rfl
@[simp] theorem Tile.wrA_emat (t : Tile) (r : R5) (v : W64) (p : Bool) : (t.wrA r v p).emat = t.emat := by unfold Tile.wrA; split <;> rfl
@[simp] theorem Tile.wrA_ecoll (t : Tile) (r : R5) (v : W64) (p : Bool) : (t.wrA r v p).ecoll = t.ecoll := by unfold Tile.wrA; split <;> rfl
@[simp] theorem Tile.wrA_esalt (t : Tile) (r : R5) (v : W64) (p : Bool) : (t.wrA r v p).esalt = t.esalt := by unfold Tile.wrA; split <;> rfl
@[simp] theorem Tile.wrA_loose (t : Tile) (r : R5) (v : W64) (p : Bool) : (t.wrA r v p).loose = t.loose := by unfold Tile.wrA; split <;> rfl
@[simp] theorem Tile.wrA_alog (t : Tile) (r : R5) (v : W64) (p : Bool) : (t.wrA r v p).alog = t.alog := by unfold Tile.wrA; split <;> rfl
@[simp] theorem Tile.wrA_active (t : Tile) (r : R5) (v : W64) (p : Bool) : (t.wrA r v p).active = t.active := by unfold Tile.wrA; split <;> rfl
@[simp] theorem Tile.wrA_shadow (t : Tile) (r : R5) (v : W64) (p : Bool) : (t.wrA r v p).shadow = t.shadow := by unfold Tile.wrA; split <;> rfl
@[simp] theorem Tile.wrA_viewA (t : Tile) (r : R5) (v : W64) (p : Bool) : (t.wrA r v p).viewA = t.viewA := by unfold Tile.wrA; split <;> rfl
@[simp] theorem Tile.wrA_viewS (t : Tile) (r : R5) (v : W64) (p : Bool) : (t.wrA r v p).viewS = t.viewS := by unfold Tile.wrA; split <;> rfl
@[simp] theorem Tile.wrA_l1 (t : Tile) (r : R5) (v : W64) (p : Bool) : (t.wrA r v p).l1 = t.l1 := by unfold Tile.wrA; split <;> rfl
@[simp] theorem Tile.wrA_l1use (t : Tile) (r : R5) (v : W64) (p : Bool) : (t.wrA r v p).l1use = t.l1use := by unfold Tile.wrA; split <;> rfl
@[simp] theorem Tile.wrA_claims (t : Tile) (r : R5) (v : W64) (p : Bool) : (t.wrA r v p).claims = t.claims := by unfold Tile.wrA; split <;> rfl
@[simp] theorem Tile.wrA_tlb (t : Tile) (r : R5) (v : W64) (p : Bool) : (t.wrA r v p).tlb = t.tlb := by unfold Tile.wrA; split <;> rfl
@[simp] theorem Tile.wrA_past (t : Tile) (r : R5) (v : W64) (p : Bool) : (t.wrA r v p).past = t.past := by unfold Tile.wrA; split <;> rfl
@[simp] theorem Tile.wrA_walks (t : Tile) (r : R5) (v : W64) (p : Bool) : (t.wrA r v p).walks = t.walks := by unfold Tile.wrA; split <;> rfl
@[simp] theorem Tile.wrA_reqCred (t : Tile) (r : R5) (v : W64) (p : Bool) : (t.wrA r v p).reqCred = t.reqCred := by unfold Tile.wrA; split <;> rfl
@[simp] theorem Tile.wrA_rspCred (t : Tile) (r : R5) (v : W64) (p : Bool) : (t.wrA r v p).rspCred = t.rspCred := by unfold Tile.wrA; split <;> rfl
@[simp] theorem Tile.wrA_enqs (t : Tile) (r : R5) (v : W64) (p : Bool) : (t.wrA r v p).enqs = t.enqs := by unfold Tile.wrA; split <;> rfl
@[simp] theorem Tile.wrA_ov (t : Tile) (r : R5) (v : W64) (p : Bool) : (t.wrA r v p).ov = t.ov := by unfold Tile.wrA; split <;> rfl
@[simp] theorem Tile.wrA_relPend (t : Tile) (r : R5) (v : W64) (p : Bool) : (t.wrA r v p).relPend = t.relPend := by unfold Tile.wrA; split <;> rfl
@[simp] theorem Tile.wrA_rdV (t : Tile) (r : R5) (v : W64) (p : Bool) : (t.wrA r v p).rdV = t.rdV := by unfold Tile.wrA; split <;> rfl
@[simp] theorem Tile.wrA_inBar (t : Tile) (r : R5) (v : W64) (p : Bool) : (t.wrA r v p).inBar = t.inBar := by unfold Tile.wrA; split <;> rfl
@[simp] theorem Tile.wrA_bars (t : Tile) (r : R5) (v : W64) (p : Bool) : (t.wrA r v p).bars = t.bars := by unfold Tile.wrA; split <;> rfl
@[simp] theorem Tile.wrA_dcReq (t : Tile) (r : R5) (v : W64) (p : Bool) : (t.wrA r v p).dcReq = t.dcReq := by unfold Tile.wrA; split <;> rfl
@[simp] theorem Tile.wrA_alogOps (t : Tile) (r : R5) (v : W64) (p : Bool) : (t.wrA r v p).alogOps = t.alogOps := by unfold Tile.wrA; split <;> rfl
@[simp] theorem Tile.wrA_xlogOps (t : Tile) (r : R5) (v : W64) (p : Bool) : (t.wrA r v p).xlogOps = t.xlogOps := by unfold Tile.wrA; split <;> rfl
@[simp] theorem Tile.wrA_resA (t : Tile) (r : R5) (v : W64) (p : Bool) : (t.wrA r v p).resA = t.resA := by unfold Tile.wrA; split <;> rfl
@[simp] theorem Tile.wrA_resX (t : Tile) (r : R5) (v : W64) (p : Bool) : (t.wrA r v p).resX = t.resX := by unfold Tile.wrA; split <;> rfl

@[simp] theorem Tile.pendAt_ctx (t : Tile) (d : XDst) (m v pm pv L : Nat) : (t.pendAt d m v pm pv L).ctx = t.ctx := rfl
@[simp] theorem Tile.pendAt_holder (t : Tile) (d : XDst) (m v pm pv L : Nat) : (t.pendAt d m v pm pv L).holder = t.holder := rfl
@[simp] theorem Tile.pendAt_sclass (t : Tile) (d : XDst) (m v pm pv L : Nat) : (t.pendAt d m v pm pv L).sclass = t.sclass := rfl
@[simp] theorem Tile.pendAt_sreq (t : Tile) (d : XDst) (m v pm pv L : Nat) : (t.pendAt d m v pm pv L).sreq = t.sreq := rfl
@[simp] theorem Tile.pendAt_srefused (t : Tile) (d : XDst) (m v pm pv L : Nat) : (t.pendAt d m v pm pv L).srefused = t.srefused := rfl
@[simp] theorem Tile.pendAt_sreqAt (t : Tile) (d : XDst) (m v pm pv L : Nat) : (t.pendAt d m v pm pv L).sreqAt = t.sreqAt := rfl
@[simp] theorem Tile.pendAt_launch (t : Tile) (d : XDst) (m v pm pv L : Nat) : (t.pendAt d m v pm pv L).launch = t.launch := rfl
@[simp] theorem Tile.pendAt_cur (t : Tile) (d : XDst) (m v pm pv L : Nat) : (t.pendAt d m v pm pv L).cur = t.cur := rfl
@[simp] theorem Tile.pendAt_switched (t : Tile) (d : XDst) (m v pm pv L : Nat) : (t.pendAt d m v pm pv L).switched = t.switched := rfl
@[simp] theorem Tile.pendAt_term (t : Tile) (d : XDst) (m v pm pv L : Nat) : (t.pendAt d m v pm pv L).term = t.term := rfl
@[simp] theorem Tile.pendAt_ist (t : Tile) (d : XDst) (m v pm pv L : Nat) : (t.pendAt d m v pm pv L).ist = t.ist := rfl
@[simp] theorem Tile.pendAt_item (t : Tile) (d : XDst) (m v pm pv L : Nat) : (t.pendAt d m v pm pv L).item = t.item := rfl
@[simp] theorem Tile.pendAt_stop (t : Tile) (d : XDst) (m v pm pv L : Nat) : (t.pendAt d m v pm pv L).stop = t.stop := rfl
@[simp] theorem Tile.pendAt_capturing (t : Tile) (d : XDst) (m v pm pv L : Nat) : (t.pendAt d m v pm pv L).capturing = t.capturing := rfl
@[simp] theorem Tile.pendAt_resume (t : Tile) (d : XDst) (m v pm pv L : Nat) : (t.pendAt d m v pm pv L).resume = t.resume := rfl
@[simp] theorem Tile.pendAt_lastImg (t : Tile) (d : XDst) (m v pm pv L : Nat) : (t.pendAt d m v pm pv L).lastImg = t.lastImg := rfl
@[simp] theorem Tile.pendAt_faults (t : Tile) (d : XDst) (m v pm pv L : Nat) : (t.pendAt d m v pm pv L).faults = t.faults := rfl
@[simp] theorem Tile.pendAt_areg (t : Tile) (d : XDst) (m v pm pv L : Nat) : (t.pendAt d m v pm pv L).areg = t.areg := rfl
@[simp] theorem Tile.pendAt_apois (t : Tile) (d : XDst) (m v pm pv L : Nat) : (t.pendAt d m v pm pv L).apois = t.apois := rfl
@[simp] theorem Tile.pendAt_xreg (t : Tile) (d : XDst) (m v pm pv L : Nat) : (t.pendAt d m v pm pv L).xreg = t.xreg := rfl
@[simp] theorem Tile.pendAt_xpois (t : Tile) (d : XDst) (m v pm pv L : Nat) : (t.pendAt d m v pm pv L).xpois = t.xpois := rfl
@[simp] theorem Tile.pendAt_flags (t : Tile) (d : XDst) (m v pm pv L : Nat) : (t.pendAt d m v pm pv L).flags = t.flags := rfl
@[simp] theorem Tile.pendAt_fpend (t : Tile) (d : XDst) (m v pm pv L : Nat) : (t.pendAt d m v pm pv L).fpend = t.fpend := rfl
@[simp] theorem Tile.pendAt_apc (t : Tile) (d : XDst) (m v pm pv L : Nat) : (t.pendAt d m v pm pv L).apc = t.apc := rfl
@[simp] theorem Tile.pendAt_xpc (t : Tile) (d : XDst) (m v pm pv L : Nat) : (t.pendAt d m v pm pv L).xpc = t.xpc := rfl
@[simp] theorem Tile.pendAt_astep (t : Tile) (d : XDst) (m v pm pv L : Nat) : (t.pendAt d m v pm pv L).astep = t.astep := rfl
@[simp] theorem Tile.pendAt_xstep (t : Tile) (d : XDst) (m v pm pv L : Nat) : (t.pendAt d m v pm pv L).xstep = t.xstep := rfl
@[simp] theorem Tile.pendAt_v (t : Tile) (d : XDst) (m v pm pv L : Nat) : (t.pendAt d m v pm pv L).v = t.v := rfl
@[simp] theorem Tile.pendAt_k (t : Tile) (d : XDst) (m v pm pv L : Nat) : (t.pendAt d m v pm pv L).k = t.k := rfl
@[simp] theorem Tile.pendAt_z (t : Tile) (d : XDst) (m v pm pv L : Nat) : (t.pendAt d m v pm pv L).z = t.z := rfl
@[simp] theorem Tile.pendAt_q (t : Tile) (d : XDst) (m v pm pv L : Nat) : (t.pendAt d m v pm pv L).q = t.q := rfl
@[simp] theorem Tile.pendAt_qb (t : Tile) (d : XDst) (m v pm pv L : Nat) : (t.pendAt d m v pm pv L).qb = t.qb := rfl
@[simp] theorem Tile.pendAt_tk (t : Tile) (d : XDst) (m v pm pv L : Nat) : (t.pendAt d m v pm pv L).tk = t.tk := rfl
@[simp] theorem Tile.pendAt_rcp (t : Tile) (d : XDst) (m v pm pv L : Nat) : (t.pendAt d m v pm pv L).rcp = t.rcp := rfl
@[simp] theorem Tile.pendAt_ax (t : Tile) (d : XDst) (m v pm pv L : Nat) : (t.pendAt d m v pm pv L).ax = t.ax := rfl
@[simp] theorem Tile.pendAt_av (t : Tile) (d : XDst) (m v pm pv L : Nat) : (t.pendAt d m v pm pv L).av = t.av := rfl
@[simp] theorem Tile.pendAt_ak (t : Tile) (d : XDst) (m v pm pv L : Nat) : (t.pendAt d m v pm pv L).ak = t.ak := rfl
@[simp] theorem Tile.pendAt_fctl (t : Tile) (d : XDst) (m v pm pv L : Nat) : (t.pendAt d m v pm pv L).fctl = t.fctl := rfl
@[simp] theorem Tile.pendAt_fstat (t : Tile) (d : XDst) (m v pm pv L : Nat) : (t.pendAt d m v pm pv L).fstat = t.fstat := rfl
@[simp] theorem Tile.pendAt_leak (t : Tile) (d : XDst) (m v pm pv L : Nat) : (t.pendAt d m v pm pv L).leak = t.leak := rfl
@[simp] theorem Tile.pendAt_adty (t : Tile) (d : XDst) (m v pm pv L : Nat) : (t.pendAt d m v pm pv L).adty = t.adty := rfl
@[simp] theorem Tile.pendAt_acsr (t : Tile) (d : XDst) (m v pm pv L : Nat) : (t.pendAt d m v pm pv L).acsr = t.acsr := rfl
@[simp] theorem Tile.pendAt_xcsr (t : Tile) (d : XDst) (m v pm pv L : Nat) : (t.pendAt d m v pm pv L).xcsr = t.xcsr := rfl
@[simp] theorem Tile.pendAt_cyc (t : Tile) (d : XDst) (m v pm pv L : Nat) : (t.pendAt d m v pm pv L).cyc = t.cyc := rfl
@[simp] theorem Tile.pendAt_pmc (t : Tile) (d : XDst) (m v pm pv L : Nat) : (t.pendAt d m v pm pv L).pmc = t.pmc := rfl
@[simp] theorem Tile.pendAt_pmsel (t : Tile) (d : XDst) (m v pm pv L : Nat) : (t.pendAt d m v pm pv L).pmsel = t.pmsel := rfl
@[simp] theorem Tile.pendAt_pmovf (t : Tile) (d : XDst) (m v pm pv L : Nat) : (t.pendAt d m v pm pv L).pmovf = t.pmovf := rfl
@[simp] theorem Tile.pendAt_pmwrap (t : Tile) (d : XDst) (m v pm pv L : Nat) : (t.pendAt d m v pm pv L).pmwrap = t.pmwrap := rfl
@[simp] theorem Tile.pendAt_brk (t : Tile) (d : XDst) (m v pm pv L : Nat) : (t.pendAt d m v pm pv L).brk = t.brk := rfl
@[simp] theorem Tile.pendAt_wgran (t : Tile) (d : XDst) (m v pm pv L : Nat) : (t.pendAt d m v pm pv L).wgran = t.wgran := rfl
@[simp] theorem Tile.pendAt_wroteClu (t : Tile) (d : XDst) (m v pm pv L : Nat) : (t.pendAt d m v pm pv L).wroteClu = t.wroteClu := rfl
@[simp] theorem Tile.pendAt_sealb (t : Tile) (d : XDst) (m v pm pv L : Nat) : (t.pendAt d m v pm pv L).sealb = t.sealb := rfl
@[simp] theorem Tile.pendAt_xcyc (t : Tile) (d : XDst) (m v pm pv L : Nat) : (t.pendAt d m v pm pv L).xcyc = t.xcyc := rfl
@[simp] theorem Tile.pendAt_units (t : Tile) (d : XDst) (m v pm pv L : Nat) : (t.pendAt d m v pm pv L).units = t.units := rfl
@[simp] theorem Tile.pendAt_ldClose (t : Tile) (d : XDst) (m v pm pv L : Nat) : (t.pendAt d m v pm pv L).ldClose = t.ldClose := rfl
@[simp] theorem Tile.pendAt_stClose (t : Tile) (d : XDst) (m v pm pv L : Nat) : (t.pendAt d m v pm pv L).stClose = t.stClose := rfl
@[simp] theorem Tile.pendAt_stCloseC (t : Tile) (d : XDst) (m v pm pv L : Nat) : (t.pendAt d m v pm pv L).stCloseC = t.stCloseC := rfl
@[simp] theorem Tile.pendAt_holdSt (t : Tile) (d : XDst) (m v pm pv L : Nat) : (t.pendAt d m v pm pv L).holdSt = t.holdSt := rfl
@[simp] theorem Tile.pendAt_holdLd (t : Tile) (d : XDst) (m v pm pv L : Nat) : (t.pendAt d m v pm pv L).holdLd = t.holdLd := rfl
@[simp] theorem Tile.pendAt_ecopy (t : Tile) (d : XDst) (m v pm pv L : Nat) : (t.pendAt d m v pm pv L).ecopy = t.ecopy := rfl
@[simp] theorem Tile.pendAt_egath (t : Tile) (d : XDst) (m v pm pv L : Nat) : (t.pendAt d m v pm pv L).egath = t.egath := rfl
@[simp] theorem Tile.pendAt_emat (t : Tile) (d : XDst) (m v pm pv L : Nat) : (t.pendAt d m v pm pv L).emat = t.emat := rfl
@[simp] theorem Tile.pendAt_ecoll (t : Tile) (d : XDst) (m v pm pv L : Nat) : (t.pendAt d m v pm pv L).ecoll = t.ecoll := rfl
@[simp] theorem Tile.pendAt_esalt (t : Tile) (d : XDst) (m v pm pv L : Nat) : (t.pendAt d m v pm pv L).esalt = t.esalt := rfl
@[simp] theorem Tile.pendAt_loose (t : Tile) (d : XDst) (m v pm pv L : Nat) : (t.pendAt d m v pm pv L).loose = t.loose := rfl
@[simp] theorem Tile.pendAt_alog (t : Tile) (d : XDst) (m v pm pv L : Nat) : (t.pendAt d m v pm pv L).alog = t.alog := rfl
@[simp] theorem Tile.pendAt_active (t : Tile) (d : XDst) (m v pm pv L : Nat) : (t.pendAt d m v pm pv L).active = t.active := rfl
@[simp] theorem Tile.pendAt_shadow (t : Tile) (d : XDst) (m v pm pv L : Nat) : (t.pendAt d m v pm pv L).shadow = t.shadow := rfl
@[simp] theorem Tile.pendAt_viewA (t : Tile) (d : XDst) (m v pm pv L : Nat) : (t.pendAt d m v pm pv L).viewA = t.viewA := rfl
@[simp] theorem Tile.pendAt_viewS (t : Tile) (d : XDst) (m v pm pv L : Nat) : (t.pendAt d m v pm pv L).viewS = t.viewS := rfl
@[simp] theorem Tile.pendAt_l1 (t : Tile) (d : XDst) (m v pm pv L : Nat) : (t.pendAt d m v pm pv L).l1 = t.l1 := rfl
@[simp] theorem Tile.pendAt_l1use (t : Tile) (d : XDst) (m v pm pv L : Nat) : (t.pendAt d m v pm pv L).l1use = t.l1use := rfl
@[simp] theorem Tile.pendAt_claims (t : Tile) (d : XDst) (m v pm pv L : Nat) : (t.pendAt d m v pm pv L).claims = t.claims := rfl
@[simp] theorem Tile.pendAt_tlb (t : Tile) (d : XDst) (m v pm pv L : Nat) : (t.pendAt d m v pm pv L).tlb = t.tlb := rfl
@[simp] theorem Tile.pendAt_past (t : Tile) (d : XDst) (m v pm pv L : Nat) : (t.pendAt d m v pm pv L).past = t.past := rfl
@[simp] theorem Tile.pendAt_walks (t : Tile) (d : XDst) (m v pm pv L : Nat) : (t.pendAt d m v pm pv L).walks = t.walks := rfl
@[simp] theorem Tile.pendAt_reqCred (t : Tile) (d : XDst) (m v pm pv L : Nat) : (t.pendAt d m v pm pv L).reqCred = t.reqCred := rfl
@[simp] theorem Tile.pendAt_rspCred (t : Tile) (d : XDst) (m v pm pv L : Nat) : (t.pendAt d m v pm pv L).rspCred = t.rspCred := rfl
@[simp] theorem Tile.pendAt_enqs (t : Tile) (d : XDst) (m v pm pv L : Nat) : (t.pendAt d m v pm pv L).enqs = t.enqs := rfl
@[simp] theorem Tile.pendAt_ov (t : Tile) (d : XDst) (m v pm pv L : Nat) : (t.pendAt d m v pm pv L).ov = t.ov := rfl
@[simp] theorem Tile.pendAt_relPend (t : Tile) (d : XDst) (m v pm pv L : Nat) : (t.pendAt d m v pm pv L).relPend = t.relPend := rfl
@[simp] theorem Tile.pendAt_rdV (t : Tile) (d : XDst) (m v pm pv L : Nat) : (t.pendAt d m v pm pv L).rdV = t.rdV := rfl
@[simp] theorem Tile.pendAt_inBar (t : Tile) (d : XDst) (m v pm pv L : Nat) : (t.pendAt d m v pm pv L).inBar = t.inBar := rfl
@[simp] theorem Tile.pendAt_bars (t : Tile) (d : XDst) (m v pm pv L : Nat) : (t.pendAt d m v pm pv L).bars = t.bars := rfl
@[simp] theorem Tile.pendAt_dcReq (t : Tile) (d : XDst) (m v pm pv L : Nat) : (t.pendAt d m v pm pv L).dcReq = t.dcReq := rfl
@[simp] theorem Tile.pendAt_alogOps (t : Tile) (d : XDst) (m v pm pv L : Nat) : (t.pendAt d m v pm pv L).alogOps = t.alogOps := rfl
@[simp] theorem Tile.pendAt_xlogOps (t : Tile) (d : XDst) (m v pm pv L : Nat) : (t.pendAt d m v pm pv L).xlogOps = t.xlogOps := rfl
@[simp] theorem Tile.pendAt_resA (t : Tile) (d : XDst) (m v pm pv L : Nat) : (t.pendAt d m v pm pv L).resA = t.resA := rfl
@[simp] theorem Tile.pendAt_resX (t : Tile) (d : XDst) (m v pm pv L : Nat) : (t.pendAt d m v pm pv L).resX = t.resX := rfl

@[simp] theorem Tile.setVname_ctx (t : Tile) (r : V6) (n : VName) : (t.setVname r n).ctx = t.ctx := rfl
@[simp] theorem Tile.setVname_holder (t : Tile) (r : V6) (n : VName) : (t.setVname r n).holder = t.holder := rfl
@[simp] theorem Tile.setVname_sclass (t : Tile) (r : V6) (n : VName) : (t.setVname r n).sclass = t.sclass := rfl
@[simp] theorem Tile.setVname_sreq (t : Tile) (r : V6) (n : VName) : (t.setVname r n).sreq = t.sreq := rfl
@[simp] theorem Tile.setVname_srefused (t : Tile) (r : V6) (n : VName) : (t.setVname r n).srefused = t.srefused := rfl
@[simp] theorem Tile.setVname_sreqAt (t : Tile) (r : V6) (n : VName) : (t.setVname r n).sreqAt = t.sreqAt := rfl
@[simp] theorem Tile.setVname_launch (t : Tile) (r : V6) (n : VName) : (t.setVname r n).launch = t.launch := rfl
@[simp] theorem Tile.setVname_cur (t : Tile) (r : V6) (n : VName) : (t.setVname r n).cur = t.cur := rfl
@[simp] theorem Tile.setVname_switched (t : Tile) (r : V6) (n : VName) : (t.setVname r n).switched = t.switched := rfl
@[simp] theorem Tile.setVname_term (t : Tile) (r : V6) (n : VName) : (t.setVname r n).term = t.term := rfl
@[simp] theorem Tile.setVname_ist (t : Tile) (r : V6) (n : VName) : (t.setVname r n).ist = t.ist := rfl
@[simp] theorem Tile.setVname_item (t : Tile) (r : V6) (n : VName) : (t.setVname r n).item = t.item := rfl
@[simp] theorem Tile.setVname_stop (t : Tile) (r : V6) (n : VName) : (t.setVname r n).stop = t.stop := rfl
@[simp] theorem Tile.setVname_capturing (t : Tile) (r : V6) (n : VName) : (t.setVname r n).capturing = t.capturing := rfl
@[simp] theorem Tile.setVname_resume (t : Tile) (r : V6) (n : VName) : (t.setVname r n).resume = t.resume := rfl
@[simp] theorem Tile.setVname_lastImg (t : Tile) (r : V6) (n : VName) : (t.setVname r n).lastImg = t.lastImg := rfl
@[simp] theorem Tile.setVname_faults (t : Tile) (r : V6) (n : VName) : (t.setVname r n).faults = t.faults := rfl
@[simp] theorem Tile.setVname_areg (t : Tile) (r : V6) (n : VName) : (t.setVname r n).areg = t.areg := rfl
@[simp] theorem Tile.setVname_apois (t : Tile) (r : V6) (n : VName) : (t.setVname r n).apois = t.apois := rfl
@[simp] theorem Tile.setVname_xreg (t : Tile) (r : V6) (n : VName) : (t.setVname r n).xreg = t.xreg := rfl
@[simp] theorem Tile.setVname_xpois (t : Tile) (r : V6) (n : VName) : (t.setVname r n).xpois = t.xpois := rfl
@[simp] theorem Tile.setVname_flags (t : Tile) (r : V6) (n : VName) : (t.setVname r n).flags = t.flags := rfl
@[simp] theorem Tile.setVname_fpend (t : Tile) (r : V6) (n : VName) : (t.setVname r n).fpend = t.fpend := rfl
@[simp] theorem Tile.setVname_apc (t : Tile) (r : V6) (n : VName) : (t.setVname r n).apc = t.apc := rfl
@[simp] theorem Tile.setVname_xpc (t : Tile) (r : V6) (n : VName) : (t.setVname r n).xpc = t.xpc := rfl
@[simp] theorem Tile.setVname_astep (t : Tile) (r : V6) (n : VName) : (t.setVname r n).astep = t.astep := rfl
@[simp] theorem Tile.setVname_xstep (t : Tile) (r : V6) (n : VName) : (t.setVname r n).xstep = t.xstep := rfl
@[simp] theorem Tile.setVname_k (t : Tile) (r : V6) (n : VName) : (t.setVname r n).k = t.k := rfl
@[simp] theorem Tile.setVname_z (t : Tile) (r : V6) (n : VName) : (t.setVname r n).z = t.z := rfl
@[simp] theorem Tile.setVname_q (t : Tile) (r : V6) (n : VName) : (t.setVname r n).q = t.q := rfl
@[simp] theorem Tile.setVname_qb (t : Tile) (r : V6) (n : VName) : (t.setVname r n).qb = t.qb := rfl
@[simp] theorem Tile.setVname_tk (t : Tile) (r : V6) (n : VName) : (t.setVname r n).tk = t.tk := rfl
@[simp] theorem Tile.setVname_rcp (t : Tile) (r : V6) (n : VName) : (t.setVname r n).rcp = t.rcp := rfl
@[simp] theorem Tile.setVname_ax (t : Tile) (r : V6) (n : VName) : (t.setVname r n).ax = t.ax := rfl
@[simp] theorem Tile.setVname_av (t : Tile) (r : V6) (n : VName) : (t.setVname r n).av = t.av := rfl
@[simp] theorem Tile.setVname_ak (t : Tile) (r : V6) (n : VName) : (t.setVname r n).ak = t.ak := rfl
@[simp] theorem Tile.setVname_fctl (t : Tile) (r : V6) (n : VName) : (t.setVname r n).fctl = t.fctl := rfl
@[simp] theorem Tile.setVname_fstat (t : Tile) (r : V6) (n : VName) : (t.setVname r n).fstat = t.fstat := rfl
@[simp] theorem Tile.setVname_leak (t : Tile) (r : V6) (n : VName) : (t.setVname r n).leak = t.leak := rfl
@[simp] theorem Tile.setVname_adty (t : Tile) (r : V6) (n : VName) : (t.setVname r n).adty = t.adty := rfl
@[simp] theorem Tile.setVname_acsr (t : Tile) (r : V6) (n : VName) : (t.setVname r n).acsr = t.acsr := rfl
@[simp] theorem Tile.setVname_xcsr (t : Tile) (r : V6) (n : VName) : (t.setVname r n).xcsr = t.xcsr := rfl
@[simp] theorem Tile.setVname_cyc (t : Tile) (r : V6) (n : VName) : (t.setVname r n).cyc = t.cyc := rfl
@[simp] theorem Tile.setVname_pmc (t : Tile) (r : V6) (n : VName) : (t.setVname r n).pmc = t.pmc := rfl
@[simp] theorem Tile.setVname_pmsel (t : Tile) (r : V6) (n : VName) : (t.setVname r n).pmsel = t.pmsel := rfl
@[simp] theorem Tile.setVname_pmovf (t : Tile) (r : V6) (n : VName) : (t.setVname r n).pmovf = t.pmovf := rfl
@[simp] theorem Tile.setVname_pmwrap (t : Tile) (r : V6) (n : VName) : (t.setVname r n).pmwrap = t.pmwrap := rfl
@[simp] theorem Tile.setVname_brk (t : Tile) (r : V6) (n : VName) : (t.setVname r n).brk = t.brk := rfl
@[simp] theorem Tile.setVname_wgran (t : Tile) (r : V6) (n : VName) : (t.setVname r n).wgran = t.wgran := rfl
@[simp] theorem Tile.setVname_wroteClu (t : Tile) (r : V6) (n : VName) : (t.setVname r n).wroteClu = t.wroteClu := rfl
@[simp] theorem Tile.setVname_sealb (t : Tile) (r : V6) (n : VName) : (t.setVname r n).sealb = t.sealb := rfl
@[simp] theorem Tile.setVname_xcyc (t : Tile) (r : V6) (n : VName) : (t.setVname r n).xcyc = t.xcyc := rfl
@[simp] theorem Tile.setVname_pend (t : Tile) (r : V6) (n : VName) : (t.setVname r n).pend = t.pend := rfl
@[simp] theorem Tile.setVname_units (t : Tile) (r : V6) (n : VName) : (t.setVname r n).units = t.units := rfl
@[simp] theorem Tile.setVname_ldClose (t : Tile) (r : V6) (n : VName) : (t.setVname r n).ldClose = t.ldClose := rfl
@[simp] theorem Tile.setVname_stClose (t : Tile) (r : V6) (n : VName) : (t.setVname r n).stClose = t.stClose := rfl
@[simp] theorem Tile.setVname_stCloseC (t : Tile) (r : V6) (n : VName) : (t.setVname r n).stCloseC = t.stCloseC := rfl
@[simp] theorem Tile.setVname_holdSt (t : Tile) (r : V6) (n : VName) : (t.setVname r n).holdSt = t.holdSt := rfl
@[simp] theorem Tile.setVname_holdLd (t : Tile) (r : V6) (n : VName) : (t.setVname r n).holdLd = t.holdLd := rfl
@[simp] theorem Tile.setVname_ecopy (t : Tile) (r : V6) (n : VName) : (t.setVname r n).ecopy = t.ecopy := rfl
@[simp] theorem Tile.setVname_egath (t : Tile) (r : V6) (n : VName) : (t.setVname r n).egath = t.egath := rfl
@[simp] theorem Tile.setVname_emat (t : Tile) (r : V6) (n : VName) : (t.setVname r n).emat = t.emat := rfl
@[simp] theorem Tile.setVname_ecoll (t : Tile) (r : V6) (n : VName) : (t.setVname r n).ecoll = t.ecoll := rfl
@[simp] theorem Tile.setVname_esalt (t : Tile) (r : V6) (n : VName) : (t.setVname r n).esalt = t.esalt := rfl
@[simp] theorem Tile.setVname_loose (t : Tile) (r : V6) (n : VName) : (t.setVname r n).loose = t.loose := rfl
@[simp] theorem Tile.setVname_alog (t : Tile) (r : V6) (n : VName) : (t.setVname r n).alog = t.alog := rfl
@[simp] theorem Tile.setVname_active (t : Tile) (r : V6) (n : VName) : (t.setVname r n).active = t.active := rfl
@[simp] theorem Tile.setVname_shadow (t : Tile) (r : V6) (n : VName) : (t.setVname r n).shadow = t.shadow := rfl
@[simp] theorem Tile.setVname_viewA (t : Tile) (r : V6) (n : VName) : (t.setVname r n).viewA = t.viewA := rfl
@[simp] theorem Tile.setVname_viewS (t : Tile) (r : V6) (n : VName) : (t.setVname r n).viewS = t.viewS := rfl
@[simp] theorem Tile.setVname_l1 (t : Tile) (r : V6) (n : VName) : (t.setVname r n).l1 = t.l1 := rfl
@[simp] theorem Tile.setVname_l1use (t : Tile) (r : V6) (n : VName) : (t.setVname r n).l1use = t.l1use := rfl
@[simp] theorem Tile.setVname_claims (t : Tile) (r : V6) (n : VName) : (t.setVname r n).claims = t.claims := rfl
@[simp] theorem Tile.setVname_tlb (t : Tile) (r : V6) (n : VName) : (t.setVname r n).tlb = t.tlb := rfl
@[simp] theorem Tile.setVname_past (t : Tile) (r : V6) (n : VName) : (t.setVname r n).past = t.past := rfl
@[simp] theorem Tile.setVname_walks (t : Tile) (r : V6) (n : VName) : (t.setVname r n).walks = t.walks := rfl
@[simp] theorem Tile.setVname_reqCred (t : Tile) (r : V6) (n : VName) : (t.setVname r n).reqCred = t.reqCred := rfl
@[simp] theorem Tile.setVname_rspCred (t : Tile) (r : V6) (n : VName) : (t.setVname r n).rspCred = t.rspCred := rfl
@[simp] theorem Tile.setVname_enqs (t : Tile) (r : V6) (n : VName) : (t.setVname r n).enqs = t.enqs := rfl
@[simp] theorem Tile.setVname_ov (t : Tile) (r : V6) (n : VName) : (t.setVname r n).ov = t.ov := rfl
@[simp] theorem Tile.setVname_relPend (t : Tile) (r : V6) (n : VName) : (t.setVname r n).relPend = t.relPend := rfl
@[simp] theorem Tile.setVname_rdV (t : Tile) (r : V6) (n : VName) : (t.setVname r n).rdV = t.rdV := rfl
@[simp] theorem Tile.setVname_inBar (t : Tile) (r : V6) (n : VName) : (t.setVname r n).inBar = t.inBar := rfl
@[simp] theorem Tile.setVname_bars (t : Tile) (r : V6) (n : VName) : (t.setVname r n).bars = t.bars := rfl
@[simp] theorem Tile.setVname_dcReq (t : Tile) (r : V6) (n : VName) : (t.setVname r n).dcReq = t.dcReq := rfl
@[simp] theorem Tile.setVname_alogOps (t : Tile) (r : V6) (n : VName) : (t.setVname r n).alogOps = t.alogOps := rfl
@[simp] theorem Tile.setVname_xlogOps (t : Tile) (r : V6) (n : VName) : (t.setVname r n).xlogOps = t.xlogOps := rfl
@[simp] theorem Tile.setVname_resA (t : Tile) (r : V6) (n : VName) : (t.setVname r n).resA = t.resA := rfl
@[simp] theorem Tile.setVname_resX (t : Tile) (r : V6) (n : VName) : (t.setVname r n).resX = t.resX := rfl

@[simp] theorem Tile.wrF_ctx (t : Tile) (f : F3) (v : Bool) : (t.wrF f v).ctx = t.ctx := rfl
@[simp] theorem Tile.wrF_holder (t : Tile) (f : F3) (v : Bool) : (t.wrF f v).holder = t.holder := rfl
@[simp] theorem Tile.wrF_sclass (t : Tile) (f : F3) (v : Bool) : (t.wrF f v).sclass = t.sclass := rfl
@[simp] theorem Tile.wrF_sreq (t : Tile) (f : F3) (v : Bool) : (t.wrF f v).sreq = t.sreq := rfl
@[simp] theorem Tile.wrF_srefused (t : Tile) (f : F3) (v : Bool) : (t.wrF f v).srefused = t.srefused := rfl
@[simp] theorem Tile.wrF_sreqAt (t : Tile) (f : F3) (v : Bool) : (t.wrF f v).sreqAt = t.sreqAt := rfl
@[simp] theorem Tile.wrF_launch (t : Tile) (f : F3) (v : Bool) : (t.wrF f v).launch = t.launch := rfl
@[simp] theorem Tile.wrF_cur (t : Tile) (f : F3) (v : Bool) : (t.wrF f v).cur = t.cur := rfl
@[simp] theorem Tile.wrF_switched (t : Tile) (f : F3) (v : Bool) : (t.wrF f v).switched = t.switched := rfl
@[simp] theorem Tile.wrF_term (t : Tile) (f : F3) (v : Bool) : (t.wrF f v).term = t.term := rfl
@[simp] theorem Tile.wrF_ist (t : Tile) (f : F3) (v : Bool) : (t.wrF f v).ist = t.ist := rfl
@[simp] theorem Tile.wrF_item (t : Tile) (f : F3) (v : Bool) : (t.wrF f v).item = t.item := rfl
@[simp] theorem Tile.wrF_stop (t : Tile) (f : F3) (v : Bool) : (t.wrF f v).stop = t.stop := rfl
@[simp] theorem Tile.wrF_capturing (t : Tile) (f : F3) (v : Bool) : (t.wrF f v).capturing = t.capturing := rfl
@[simp] theorem Tile.wrF_resume (t : Tile) (f : F3) (v : Bool) : (t.wrF f v).resume = t.resume := rfl
@[simp] theorem Tile.wrF_lastImg (t : Tile) (f : F3) (v : Bool) : (t.wrF f v).lastImg = t.lastImg := rfl
@[simp] theorem Tile.wrF_faults (t : Tile) (f : F3) (v : Bool) : (t.wrF f v).faults = t.faults := rfl
@[simp] theorem Tile.wrF_areg (t : Tile) (f : F3) (v : Bool) : (t.wrF f v).areg = t.areg := rfl
@[simp] theorem Tile.wrF_apois (t : Tile) (f : F3) (v : Bool) : (t.wrF f v).apois = t.apois := rfl
@[simp] theorem Tile.wrF_xreg (t : Tile) (f : F3) (v : Bool) : (t.wrF f v).xreg = t.xreg := rfl
@[simp] theorem Tile.wrF_xpois (t : Tile) (f : F3) (v : Bool) : (t.wrF f v).xpois = t.xpois := rfl
@[simp] theorem Tile.wrF_apc (t : Tile) (f : F3) (v : Bool) : (t.wrF f v).apc = t.apc := rfl
@[simp] theorem Tile.wrF_xpc (t : Tile) (f : F3) (v : Bool) : (t.wrF f v).xpc = t.xpc := rfl
@[simp] theorem Tile.wrF_astep (t : Tile) (f : F3) (v : Bool) : (t.wrF f v).astep = t.astep := rfl
@[simp] theorem Tile.wrF_xstep (t : Tile) (f : F3) (v : Bool) : (t.wrF f v).xstep = t.xstep := rfl
@[simp] theorem Tile.wrF_v (t : Tile) (f : F3) (v : Bool) : (t.wrF f v).v = t.v := rfl
@[simp] theorem Tile.wrF_k (t : Tile) (f : F3) (v : Bool) : (t.wrF f v).k = t.k := rfl
@[simp] theorem Tile.wrF_z (t : Tile) (f : F3) (v : Bool) : (t.wrF f v).z = t.z := rfl
@[simp] theorem Tile.wrF_q (t : Tile) (f : F3) (v : Bool) : (t.wrF f v).q = t.q := rfl
@[simp] theorem Tile.wrF_qb (t : Tile) (f : F3) (v : Bool) : (t.wrF f v).qb = t.qb := rfl
@[simp] theorem Tile.wrF_tk (t : Tile) (f : F3) (v : Bool) : (t.wrF f v).tk = t.tk := rfl
@[simp] theorem Tile.wrF_rcp (t : Tile) (f : F3) (v : Bool) : (t.wrF f v).rcp = t.rcp := rfl
@[simp] theorem Tile.wrF_ax (t : Tile) (f : F3) (v : Bool) : (t.wrF f v).ax = t.ax := rfl
@[simp] theorem Tile.wrF_av (t : Tile) (f : F3) (v : Bool) : (t.wrF f v).av = t.av := rfl
@[simp] theorem Tile.wrF_ak (t : Tile) (f : F3) (v : Bool) : (t.wrF f v).ak = t.ak := rfl
@[simp] theorem Tile.wrF_fctl (t : Tile) (f : F3) (v : Bool) : (t.wrF f v).fctl = t.fctl := rfl
@[simp] theorem Tile.wrF_fstat (t : Tile) (f : F3) (v : Bool) : (t.wrF f v).fstat = t.fstat := rfl
@[simp] theorem Tile.wrF_leak (t : Tile) (f : F3) (v : Bool) : (t.wrF f v).leak = t.leak := rfl
@[simp] theorem Tile.wrF_adty (t : Tile) (f : F3) (v : Bool) : (t.wrF f v).adty = t.adty := rfl
@[simp] theorem Tile.wrF_acsr (t : Tile) (f : F3) (v : Bool) : (t.wrF f v).acsr = t.acsr := rfl
@[simp] theorem Tile.wrF_xcsr (t : Tile) (f : F3) (v : Bool) : (t.wrF f v).xcsr = t.xcsr := rfl
@[simp] theorem Tile.wrF_cyc (t : Tile) (f : F3) (v : Bool) : (t.wrF f v).cyc = t.cyc := rfl
@[simp] theorem Tile.wrF_pmc (t : Tile) (f : F3) (v : Bool) : (t.wrF f v).pmc = t.pmc := rfl
@[simp] theorem Tile.wrF_pmsel (t : Tile) (f : F3) (v : Bool) : (t.wrF f v).pmsel = t.pmsel := rfl
@[simp] theorem Tile.wrF_pmovf (t : Tile) (f : F3) (v : Bool) : (t.wrF f v).pmovf = t.pmovf := rfl
@[simp] theorem Tile.wrF_pmwrap (t : Tile) (f : F3) (v : Bool) : (t.wrF f v).pmwrap = t.pmwrap := rfl
@[simp] theorem Tile.wrF_brk (t : Tile) (f : F3) (v : Bool) : (t.wrF f v).brk = t.brk := rfl
@[simp] theorem Tile.wrF_wgran (t : Tile) (f : F3) (v : Bool) : (t.wrF f v).wgran = t.wgran := rfl
@[simp] theorem Tile.wrF_wroteClu (t : Tile) (f : F3) (v : Bool) : (t.wrF f v).wroteClu = t.wroteClu := rfl
@[simp] theorem Tile.wrF_sealb (t : Tile) (f : F3) (v : Bool) : (t.wrF f v).sealb = t.sealb := rfl
@[simp] theorem Tile.wrF_xcyc (t : Tile) (f : F3) (v : Bool) : (t.wrF f v).xcyc = t.xcyc := rfl
@[simp] theorem Tile.wrF_pend (t : Tile) (f : F3) (v : Bool) : (t.wrF f v).pend = t.pend := rfl
@[simp] theorem Tile.wrF_units (t : Tile) (f : F3) (v : Bool) : (t.wrF f v).units = t.units := rfl
@[simp] theorem Tile.wrF_ldClose (t : Tile) (f : F3) (v : Bool) : (t.wrF f v).ldClose = t.ldClose := rfl
@[simp] theorem Tile.wrF_stClose (t : Tile) (f : F3) (v : Bool) : (t.wrF f v).stClose = t.stClose := rfl
@[simp] theorem Tile.wrF_stCloseC (t : Tile) (f : F3) (v : Bool) : (t.wrF f v).stCloseC = t.stCloseC := rfl
@[simp] theorem Tile.wrF_holdSt (t : Tile) (f : F3) (v : Bool) : (t.wrF f v).holdSt = t.holdSt := rfl
@[simp] theorem Tile.wrF_holdLd (t : Tile) (f : F3) (v : Bool) : (t.wrF f v).holdLd = t.holdLd := rfl
@[simp] theorem Tile.wrF_ecopy (t : Tile) (f : F3) (v : Bool) : (t.wrF f v).ecopy = t.ecopy := rfl
@[simp] theorem Tile.wrF_egath (t : Tile) (f : F3) (v : Bool) : (t.wrF f v).egath = t.egath := rfl
@[simp] theorem Tile.wrF_emat (t : Tile) (f : F3) (v : Bool) : (t.wrF f v).emat = t.emat := rfl
@[simp] theorem Tile.wrF_ecoll (t : Tile) (f : F3) (v : Bool) : (t.wrF f v).ecoll = t.ecoll := rfl
@[simp] theorem Tile.wrF_esalt (t : Tile) (f : F3) (v : Bool) : (t.wrF f v).esalt = t.esalt := rfl
@[simp] theorem Tile.wrF_loose (t : Tile) (f : F3) (v : Bool) : (t.wrF f v).loose = t.loose := rfl
@[simp] theorem Tile.wrF_alog (t : Tile) (f : F3) (v : Bool) : (t.wrF f v).alog = t.alog := rfl
@[simp] theorem Tile.wrF_active (t : Tile) (f : F3) (v : Bool) : (t.wrF f v).active = t.active := rfl
@[simp] theorem Tile.wrF_shadow (t : Tile) (f : F3) (v : Bool) : (t.wrF f v).shadow = t.shadow := rfl
@[simp] theorem Tile.wrF_viewA (t : Tile) (f : F3) (v : Bool) : (t.wrF f v).viewA = t.viewA := rfl
@[simp] theorem Tile.wrF_viewS (t : Tile) (f : F3) (v : Bool) : (t.wrF f v).viewS = t.viewS := rfl
@[simp] theorem Tile.wrF_l1 (t : Tile) (f : F3) (v : Bool) : (t.wrF f v).l1 = t.l1 := rfl
@[simp] theorem Tile.wrF_l1use (t : Tile) (f : F3) (v : Bool) : (t.wrF f v).l1use = t.l1use := rfl
@[simp] theorem Tile.wrF_claims (t : Tile) (f : F3) (v : Bool) : (t.wrF f v).claims = t.claims := rfl
@[simp] theorem Tile.wrF_tlb (t : Tile) (f : F3) (v : Bool) : (t.wrF f v).tlb = t.tlb := rfl
@[simp] theorem Tile.wrF_past (t : Tile) (f : F3) (v : Bool) : (t.wrF f v).past = t.past := rfl
@[simp] theorem Tile.wrF_walks (t : Tile) (f : F3) (v : Bool) : (t.wrF f v).walks = t.walks := rfl
@[simp] theorem Tile.wrF_reqCred (t : Tile) (f : F3) (v : Bool) : (t.wrF f v).reqCred = t.reqCred := rfl
@[simp] theorem Tile.wrF_rspCred (t : Tile) (f : F3) (v : Bool) : (t.wrF f v).rspCred = t.rspCred := rfl
@[simp] theorem Tile.wrF_enqs (t : Tile) (f : F3) (v : Bool) : (t.wrF f v).enqs = t.enqs := rfl
@[simp] theorem Tile.wrF_ov (t : Tile) (f : F3) (v : Bool) : (t.wrF f v).ov = t.ov := rfl
@[simp] theorem Tile.wrF_relPend (t : Tile) (f : F3) (v : Bool) : (t.wrF f v).relPend = t.relPend := rfl
@[simp] theorem Tile.wrF_rdV (t : Tile) (f : F3) (v : Bool) : (t.wrF f v).rdV = t.rdV := rfl
@[simp] theorem Tile.wrF_inBar (t : Tile) (f : F3) (v : Bool) : (t.wrF f v).inBar = t.inBar := rfl
@[simp] theorem Tile.wrF_bars (t : Tile) (f : F3) (v : Bool) : (t.wrF f v).bars = t.bars := rfl
@[simp] theorem Tile.wrF_dcReq (t : Tile) (f : F3) (v : Bool) : (t.wrF f v).dcReq = t.dcReq := rfl
@[simp] theorem Tile.wrF_alogOps (t : Tile) (f : F3) (v : Bool) : (t.wrF f v).alogOps = t.alogOps := rfl
@[simp] theorem Tile.wrF_xlogOps (t : Tile) (f : F3) (v : Bool) : (t.wrF f v).xlogOps = t.xlogOps := rfl
@[simp] theorem Tile.wrF_resA (t : Tile) (f : F3) (v : Bool) : (t.wrF f v).resA = t.resA := rfl
@[simp] theorem Tile.wrF_resX (t : Tile) (f : F3) (v : Bool) : (t.wrF f v).resX = t.resX := rfl

@[simp] theorem Tile.count_ctx (t : Tile) (ev : Nat) (st : Option Stream) : (t.count ev st).ctx = t.ctx := by obtain ⟨a, b, c, h⟩ := Tile.count_eq t ev st; rw [h]
@[simp] theorem Tile.count_holder (t : Tile) (ev : Nat) (st : Option Stream) : (t.count ev st).holder = t.holder := by obtain ⟨a, b, c, h⟩ := Tile.count_eq t ev st; rw [h]
@[simp] theorem Tile.count_sclass (t : Tile) (ev : Nat) (st : Option Stream) : (t.count ev st).sclass = t.sclass := by obtain ⟨a, b, c, h⟩ := Tile.count_eq t ev st; rw [h]
@[simp] theorem Tile.count_sreq (t : Tile) (ev : Nat) (st : Option Stream) : (t.count ev st).sreq = t.sreq := by obtain ⟨a, b, c, h⟩ := Tile.count_eq t ev st; rw [h]
@[simp] theorem Tile.count_srefused (t : Tile) (ev : Nat) (st : Option Stream) : (t.count ev st).srefused = t.srefused := by obtain ⟨a, b, c, h⟩ := Tile.count_eq t ev st; rw [h]
@[simp] theorem Tile.count_sreqAt (t : Tile) (ev : Nat) (st : Option Stream) : (t.count ev st).sreqAt = t.sreqAt := by obtain ⟨a, b, c, h⟩ := Tile.count_eq t ev st; rw [h]
@[simp] theorem Tile.count_launch (t : Tile) (ev : Nat) (st : Option Stream) : (t.count ev st).launch = t.launch := by obtain ⟨a, b, c, h⟩ := Tile.count_eq t ev st; rw [h]
@[simp] theorem Tile.count_cur (t : Tile) (ev : Nat) (st : Option Stream) : (t.count ev st).cur = t.cur := by obtain ⟨a, b, c, h⟩ := Tile.count_eq t ev st; rw [h]
@[simp] theorem Tile.count_switched (t : Tile) (ev : Nat) (st : Option Stream) : (t.count ev st).switched = t.switched := by obtain ⟨a, b, c, h⟩ := Tile.count_eq t ev st; rw [h]
@[simp] theorem Tile.count_term (t : Tile) (ev : Nat) (st : Option Stream) : (t.count ev st).term = t.term := by obtain ⟨a, b, c, h⟩ := Tile.count_eq t ev st; rw [h]
@[simp] theorem Tile.count_ist (t : Tile) (ev : Nat) (st : Option Stream) : (t.count ev st).ist = t.ist := by obtain ⟨a, b, c, h⟩ := Tile.count_eq t ev st; rw [h]
@[simp] theorem Tile.count_item (t : Tile) (ev : Nat) (st : Option Stream) : (t.count ev st).item = t.item := by obtain ⟨a, b, c, h⟩ := Tile.count_eq t ev st; rw [h]
@[simp] theorem Tile.count_stop (t : Tile) (ev : Nat) (st : Option Stream) : (t.count ev st).stop = t.stop := by obtain ⟨a, b, c, h⟩ := Tile.count_eq t ev st; rw [h]
@[simp] theorem Tile.count_capturing (t : Tile) (ev : Nat) (st : Option Stream) : (t.count ev st).capturing = t.capturing := by obtain ⟨a, b, c, h⟩ := Tile.count_eq t ev st; rw [h]
@[simp] theorem Tile.count_resume (t : Tile) (ev : Nat) (st : Option Stream) : (t.count ev st).resume = t.resume := by obtain ⟨a, b, c, h⟩ := Tile.count_eq t ev st; rw [h]
@[simp] theorem Tile.count_lastImg (t : Tile) (ev : Nat) (st : Option Stream) : (t.count ev st).lastImg = t.lastImg := by obtain ⟨a, b, c, h⟩ := Tile.count_eq t ev st; rw [h]
@[simp] theorem Tile.count_faults (t : Tile) (ev : Nat) (st : Option Stream) : (t.count ev st).faults = t.faults := by obtain ⟨a, b, c, h⟩ := Tile.count_eq t ev st; rw [h]
@[simp] theorem Tile.count_areg (t : Tile) (ev : Nat) (st : Option Stream) : (t.count ev st).areg = t.areg := by obtain ⟨a, b, c, h⟩ := Tile.count_eq t ev st; rw [h]
@[simp] theorem Tile.count_apois (t : Tile) (ev : Nat) (st : Option Stream) : (t.count ev st).apois = t.apois := by obtain ⟨a, b, c, h⟩ := Tile.count_eq t ev st; rw [h]
@[simp] theorem Tile.count_xreg (t : Tile) (ev : Nat) (st : Option Stream) : (t.count ev st).xreg = t.xreg := by obtain ⟨a, b, c, h⟩ := Tile.count_eq t ev st; rw [h]
@[simp] theorem Tile.count_xpois (t : Tile) (ev : Nat) (st : Option Stream) : (t.count ev st).xpois = t.xpois := by obtain ⟨a, b, c, h⟩ := Tile.count_eq t ev st; rw [h]
@[simp] theorem Tile.count_flags (t : Tile) (ev : Nat) (st : Option Stream) : (t.count ev st).flags = t.flags := by obtain ⟨a, b, c, h⟩ := Tile.count_eq t ev st; rw [h]
@[simp] theorem Tile.count_fpend (t : Tile) (ev : Nat) (st : Option Stream) : (t.count ev st).fpend = t.fpend := by obtain ⟨a, b, c, h⟩ := Tile.count_eq t ev st; rw [h]
@[simp] theorem Tile.count_apc (t : Tile) (ev : Nat) (st : Option Stream) : (t.count ev st).apc = t.apc := by obtain ⟨a, b, c, h⟩ := Tile.count_eq t ev st; rw [h]
@[simp] theorem Tile.count_xpc (t : Tile) (ev : Nat) (st : Option Stream) : (t.count ev st).xpc = t.xpc := by obtain ⟨a, b, c, h⟩ := Tile.count_eq t ev st; rw [h]
@[simp] theorem Tile.count_astep (t : Tile) (ev : Nat) (st : Option Stream) : (t.count ev st).astep = t.astep := by obtain ⟨a, b, c, h⟩ := Tile.count_eq t ev st; rw [h]
@[simp] theorem Tile.count_xstep (t : Tile) (ev : Nat) (st : Option Stream) : (t.count ev st).xstep = t.xstep := by obtain ⟨a, b, c, h⟩ := Tile.count_eq t ev st; rw [h]
@[simp] theorem Tile.count_v (t : Tile) (ev : Nat) (st : Option Stream) : (t.count ev st).v = t.v := by obtain ⟨a, b, c, h⟩ := Tile.count_eq t ev st; rw [h]
@[simp] theorem Tile.count_k (t : Tile) (ev : Nat) (st : Option Stream) : (t.count ev st).k = t.k := by obtain ⟨a, b, c, h⟩ := Tile.count_eq t ev st; rw [h]
@[simp] theorem Tile.count_z (t : Tile) (ev : Nat) (st : Option Stream) : (t.count ev st).z = t.z := by obtain ⟨a, b, c, h⟩ := Tile.count_eq t ev st; rw [h]
@[simp] theorem Tile.count_q (t : Tile) (ev : Nat) (st : Option Stream) : (t.count ev st).q = t.q := by obtain ⟨a, b, c, h⟩ := Tile.count_eq t ev st; rw [h]
@[simp] theorem Tile.count_qb (t : Tile) (ev : Nat) (st : Option Stream) : (t.count ev st).qb = t.qb := by obtain ⟨a, b, c, h⟩ := Tile.count_eq t ev st; rw [h]
@[simp] theorem Tile.count_tk (t : Tile) (ev : Nat) (st : Option Stream) : (t.count ev st).tk = t.tk := by obtain ⟨a, b, c, h⟩ := Tile.count_eq t ev st; rw [h]
@[simp] theorem Tile.count_rcp (t : Tile) (ev : Nat) (st : Option Stream) : (t.count ev st).rcp = t.rcp := by obtain ⟨a, b, c, h⟩ := Tile.count_eq t ev st; rw [h]
@[simp] theorem Tile.count_ax (t : Tile) (ev : Nat) (st : Option Stream) : (t.count ev st).ax = t.ax := by obtain ⟨a, b, c, h⟩ := Tile.count_eq t ev st; rw [h]
@[simp] theorem Tile.count_av (t : Tile) (ev : Nat) (st : Option Stream) : (t.count ev st).av = t.av := by obtain ⟨a, b, c, h⟩ := Tile.count_eq t ev st; rw [h]
@[simp] theorem Tile.count_ak (t : Tile) (ev : Nat) (st : Option Stream) : (t.count ev st).ak = t.ak := by obtain ⟨a, b, c, h⟩ := Tile.count_eq t ev st; rw [h]
@[simp] theorem Tile.count_fctl (t : Tile) (ev : Nat) (st : Option Stream) : (t.count ev st).fctl = t.fctl := by obtain ⟨a, b, c, h⟩ := Tile.count_eq t ev st; rw [h]
@[simp] theorem Tile.count_fstat (t : Tile) (ev : Nat) (st : Option Stream) : (t.count ev st).fstat = t.fstat := by obtain ⟨a, b, c, h⟩ := Tile.count_eq t ev st; rw [h]
@[simp] theorem Tile.count_leak (t : Tile) (ev : Nat) (st : Option Stream) : (t.count ev st).leak = t.leak := by obtain ⟨a, b, c, h⟩ := Tile.count_eq t ev st; rw [h]
@[simp] theorem Tile.count_adty (t : Tile) (ev : Nat) (st : Option Stream) : (t.count ev st).adty = t.adty := by obtain ⟨a, b, c, h⟩ := Tile.count_eq t ev st; rw [h]
@[simp] theorem Tile.count_acsr (t : Tile) (ev : Nat) (st : Option Stream) : (t.count ev st).acsr = t.acsr := by obtain ⟨a, b, c, h⟩ := Tile.count_eq t ev st; rw [h]
@[simp] theorem Tile.count_xcsr (t : Tile) (ev : Nat) (st : Option Stream) : (t.count ev st).xcsr = t.xcsr := by obtain ⟨a, b, c, h⟩ := Tile.count_eq t ev st; rw [h]
@[simp] theorem Tile.count_cyc (t : Tile) (ev : Nat) (st : Option Stream) : (t.count ev st).cyc = t.cyc := by obtain ⟨a, b, c, h⟩ := Tile.count_eq t ev st; rw [h]
@[simp] theorem Tile.count_pmsel (t : Tile) (ev : Nat) (st : Option Stream) : (t.count ev st).pmsel = t.pmsel := by obtain ⟨a, b, c, h⟩ := Tile.count_eq t ev st; rw [h]
@[simp] theorem Tile.count_brk (t : Tile) (ev : Nat) (st : Option Stream) : (t.count ev st).brk = t.brk := by obtain ⟨a, b, c, h⟩ := Tile.count_eq t ev st; rw [h]
@[simp] theorem Tile.count_wgran (t : Tile) (ev : Nat) (st : Option Stream) : (t.count ev st).wgran = t.wgran := by obtain ⟨a, b, c, h⟩ := Tile.count_eq t ev st; rw [h]
@[simp] theorem Tile.count_wroteClu (t : Tile) (ev : Nat) (st : Option Stream) : (t.count ev st).wroteClu = t.wroteClu := by obtain ⟨a, b, c, h⟩ := Tile.count_eq t ev st; rw [h]
@[simp] theorem Tile.count_sealb (t : Tile) (ev : Nat) (st : Option Stream) : (t.count ev st).sealb = t.sealb := by obtain ⟨a, b, c, h⟩ := Tile.count_eq t ev st; rw [h]
@[simp] theorem Tile.count_xcyc (t : Tile) (ev : Nat) (st : Option Stream) : (t.count ev st).xcyc = t.xcyc := by obtain ⟨a, b, c, h⟩ := Tile.count_eq t ev st; rw [h]
@[simp] theorem Tile.count_pend (t : Tile) (ev : Nat) (st : Option Stream) : (t.count ev st).pend = t.pend := by obtain ⟨a, b, c, h⟩ := Tile.count_eq t ev st; rw [h]
@[simp] theorem Tile.count_units (t : Tile) (ev : Nat) (st : Option Stream) : (t.count ev st).units = t.units := by obtain ⟨a, b, c, h⟩ := Tile.count_eq t ev st; rw [h]
@[simp] theorem Tile.count_ldClose (t : Tile) (ev : Nat) (st : Option Stream) : (t.count ev st).ldClose = t.ldClose := by obtain ⟨a, b, c, h⟩ := Tile.count_eq t ev st; rw [h]
@[simp] theorem Tile.count_stClose (t : Tile) (ev : Nat) (st : Option Stream) : (t.count ev st).stClose = t.stClose := by obtain ⟨a, b, c, h⟩ := Tile.count_eq t ev st; rw [h]
@[simp] theorem Tile.count_stCloseC (t : Tile) (ev : Nat) (st : Option Stream) : (t.count ev st).stCloseC = t.stCloseC := by obtain ⟨a, b, c, h⟩ := Tile.count_eq t ev st; rw [h]
@[simp] theorem Tile.count_holdSt (t : Tile) (ev : Nat) (st : Option Stream) : (t.count ev st).holdSt = t.holdSt := by obtain ⟨a, b, c, h⟩ := Tile.count_eq t ev st; rw [h]
@[simp] theorem Tile.count_holdLd (t : Tile) (ev : Nat) (st : Option Stream) : (t.count ev st).holdLd = t.holdLd := by obtain ⟨a, b, c, h⟩ := Tile.count_eq t ev st; rw [h]
@[simp] theorem Tile.count_ecopy (t : Tile) (ev : Nat) (st : Option Stream) : (t.count ev st).ecopy = t.ecopy := by obtain ⟨a, b, c, h⟩ := Tile.count_eq t ev st; rw [h]
@[simp] theorem Tile.count_egath (t : Tile) (ev : Nat) (st : Option Stream) : (t.count ev st).egath = t.egath := by obtain ⟨a, b, c, h⟩ := Tile.count_eq t ev st; rw [h]
@[simp] theorem Tile.count_emat (t : Tile) (ev : Nat) (st : Option Stream) : (t.count ev st).emat = t.emat := by obtain ⟨a, b, c, h⟩ := Tile.count_eq t ev st; rw [h]
@[simp] theorem Tile.count_ecoll (t : Tile) (ev : Nat) (st : Option Stream) : (t.count ev st).ecoll = t.ecoll := by obtain ⟨a, b, c, h⟩ := Tile.count_eq t ev st; rw [h]
@[simp] theorem Tile.count_esalt (t : Tile) (ev : Nat) (st : Option Stream) : (t.count ev st).esalt = t.esalt := by obtain ⟨a, b, c, h⟩ := Tile.count_eq t ev st; rw [h]
@[simp] theorem Tile.count_loose (t : Tile) (ev : Nat) (st : Option Stream) : (t.count ev st).loose = t.loose := by obtain ⟨a, b, c, h⟩ := Tile.count_eq t ev st; rw [h]
@[simp] theorem Tile.count_alog (t : Tile) (ev : Nat) (st : Option Stream) : (t.count ev st).alog = t.alog := by obtain ⟨a, b, c, h⟩ := Tile.count_eq t ev st; rw [h]
@[simp] theorem Tile.count_active (t : Tile) (ev : Nat) (st : Option Stream) : (t.count ev st).active = t.active := by obtain ⟨a, b, c, h⟩ := Tile.count_eq t ev st; rw [h]
@[simp] theorem Tile.count_shadow (t : Tile) (ev : Nat) (st : Option Stream) : (t.count ev st).shadow = t.shadow := by obtain ⟨a, b, c, h⟩ := Tile.count_eq t ev st; rw [h]
@[simp] theorem Tile.count_viewA (t : Tile) (ev : Nat) (st : Option Stream) : (t.count ev st).viewA = t.viewA := by obtain ⟨a, b, c, h⟩ := Tile.count_eq t ev st; rw [h]
@[simp] theorem Tile.count_viewS (t : Tile) (ev : Nat) (st : Option Stream) : (t.count ev st).viewS = t.viewS := by obtain ⟨a, b, c, h⟩ := Tile.count_eq t ev st; rw [h]
@[simp] theorem Tile.count_l1 (t : Tile) (ev : Nat) (st : Option Stream) : (t.count ev st).l1 = t.l1 := by obtain ⟨a, b, c, h⟩ := Tile.count_eq t ev st; rw [h]
@[simp] theorem Tile.count_l1use (t : Tile) (ev : Nat) (st : Option Stream) : (t.count ev st).l1use = t.l1use := by obtain ⟨a, b, c, h⟩ := Tile.count_eq t ev st; rw [h]
@[simp] theorem Tile.count_claims (t : Tile) (ev : Nat) (st : Option Stream) : (t.count ev st).claims = t.claims := by obtain ⟨a, b, c, h⟩ := Tile.count_eq t ev st; rw [h]
@[simp] theorem Tile.count_tlb (t : Tile) (ev : Nat) (st : Option Stream) : (t.count ev st).tlb = t.tlb := by obtain ⟨a, b, c, h⟩ := Tile.count_eq t ev st; rw [h]
@[simp] theorem Tile.count_past (t : Tile) (ev : Nat) (st : Option Stream) : (t.count ev st).past = t.past := by obtain ⟨a, b, c, h⟩ := Tile.count_eq t ev st; rw [h]
@[simp] theorem Tile.count_walks (t : Tile) (ev : Nat) (st : Option Stream) : (t.count ev st).walks = t.walks := by obtain ⟨a, b, c, h⟩ := Tile.count_eq t ev st; rw [h]
@[simp] theorem Tile.count_reqCred (t : Tile) (ev : Nat) (st : Option Stream) : (t.count ev st).reqCred = t.reqCred := by obtain ⟨a, b, c, h⟩ := Tile.count_eq t ev st; rw [h]
@[simp] theorem Tile.count_rspCred (t : Tile) (ev : Nat) (st : Option Stream) : (t.count ev st).rspCred = t.rspCred := by obtain ⟨a, b, c, h⟩ := Tile.count_eq t ev st; rw [h]
@[simp] theorem Tile.count_enqs (t : Tile) (ev : Nat) (st : Option Stream) : (t.count ev st).enqs = t.enqs := by obtain ⟨a, b, c, h⟩ := Tile.count_eq t ev st; rw [h]
@[simp] theorem Tile.count_ov (t : Tile) (ev : Nat) (st : Option Stream) : (t.count ev st).ov = t.ov := by obtain ⟨a, b, c, h⟩ := Tile.count_eq t ev st; rw [h]
@[simp] theorem Tile.count_relPend (t : Tile) (ev : Nat) (st : Option Stream) : (t.count ev st).relPend = t.relPend := by obtain ⟨a, b, c, h⟩ := Tile.count_eq t ev st; rw [h]
@[simp] theorem Tile.count_rdV (t : Tile) (ev : Nat) (st : Option Stream) : (t.count ev st).rdV = t.rdV := by obtain ⟨a, b, c, h⟩ := Tile.count_eq t ev st; rw [h]
@[simp] theorem Tile.count_inBar (t : Tile) (ev : Nat) (st : Option Stream) : (t.count ev st).inBar = t.inBar := by obtain ⟨a, b, c, h⟩ := Tile.count_eq t ev st; rw [h]
@[simp] theorem Tile.count_bars (t : Tile) (ev : Nat) (st : Option Stream) : (t.count ev st).bars = t.bars := by obtain ⟨a, b, c, h⟩ := Tile.count_eq t ev st; rw [h]
@[simp] theorem Tile.count_dcReq (t : Tile) (ev : Nat) (st : Option Stream) : (t.count ev st).dcReq = t.dcReq := by obtain ⟨a, b, c, h⟩ := Tile.count_eq t ev st; rw [h]
@[simp] theorem Tile.count_alogOps (t : Tile) (ev : Nat) (st : Option Stream) : (t.count ev st).alogOps = t.alogOps := by obtain ⟨a, b, c, h⟩ := Tile.count_eq t ev st; rw [h]
@[simp] theorem Tile.count_xlogOps (t : Tile) (ev : Nat) (st : Option Stream) : (t.count ev st).xlogOps = t.xlogOps := by obtain ⟨a, b, c, h⟩ := Tile.count_eq t ev st; rw [h]
@[simp] theorem Tile.count_resA (t : Tile) (ev : Nat) (st : Option Stream) : (t.count ev st).resA = t.resA := by obtain ⟨a, b, c, h⟩ := Tile.count_eq t ev st; rw [h]
@[simp] theorem Tile.count_resX (t : Tile) (ev : Nat) (st : Option Stream) : (t.count ev st).resX = t.resX := by obtain ⟨a, b, c, h⟩ := Tile.count_eq t ev st; rw [h]

/-! ## Reads that an update of other fields leaves -/

@[simp] theorem Tile.rdA_setPc (t : Tile) (st : Stream) (p : Pc) (r : R5) : (t.setPc st p).rdA r = t.rdA r := by cases st <;> rfl
@[simp] theorem Tile.rdA_advance (t : Tile) (st : Stream) (n : Nat) (r : R5) : (t.advance st n).rdA r = t.rdA r := by cases st <;> rfl
@[simp] theorem Tile.rdA_count (t : Tile) (ev : Nat) (st : Option Stream) (r : R5) : (t.count ev st).rdA r = t.rdA r := by
  simp [Tile.rdA]
@[simp] theorem Tile.rdA_setCsr (t : Tile) (st : Stream) (c : StreamCsr) (r : R5) : (t.setCsr st c).rdA r = t.rdA r := by
  cases st <;> rfl
@[simp] theorem Tile.rdA_wrF (t : Tile) (f : F3) (v : Bool) (r : R5) : (t.wrF f v).rdA r = t.rdA r := rfl
@[simp] theorem Tile.csr_advance (t : Tile) (st : Stream) (n : Nat) (k : Stream) : (t.advance st n).csr k = t.csr k := by
  cases st <;> cases k <;> rfl
@[simp] theorem Tile.csr_count (t : Tile) (ev : Nat) (st : Option Stream) (k : Stream) : (t.count ev st).csr k = t.csr k := by
  cases k <;> simp [Tile.csr]
@[simp] theorem Tile.pc_count (t : Tile) (ev : Nat) (st : Option Stream) (k : Stream) : (t.count ev st).pc k = t.pc k := by
  cases k <;> simp [Tile.pc]
@[simp] theorem Tile.pc_wrA (t : Tile) (r : R5) (v : W64) (p : Bool) (k : Stream) : (t.wrA r v p).pc k = t.pc k := by
  cases k <;> simp [Tile.pc]
@[simp] theorem Tile.csr_wrA (t : Tile) (r : R5) (v : W64) (p : Bool) (k : Stream) : (t.wrA r v p).csr k = t.csr k := by
  cases k <;> simp [Tile.csr]
@[simp] theorem Tile.pc_wrF (t : Tile) (f : F3) (v : Bool) (k : Stream) : (t.wrF f v).pc k = t.pc k := by cases k <;> rfl
@[simp] theorem Tile.eng_count (t : Tile) (ev : Nat) (st : Option Stream) (e : Eng) : (t.count ev st).eng e = t.eng e := by
  cases e <;> simp [Tile.eng]
@[simp] theorem Tile.eng_advance (t : Tile) (st : Stream) (n : Nat) (e : Eng) : (t.advance st n).eng e = t.eng e := by
  cases st <;> cases e <;> rfl

/-! ## Issue -/

/-- What the A-stream's issue of a body leaves when the body is done and is no jump. -/
theorem settle_a_ok (g : BitVec 8) (n : Nat) (s : State) :
    settle g .a n (.ok (s, none)) =
      { s.modTile g (fun t => (t.advance .a n).count 0x02 (some .a)) with cur := .none } := by
  simp [settle, State.issued]

/-- What the X-stream's issue of a body leaves when the body is done and is no jump. -/
theorem settle_x_ok (g : BitVec 8) (n : Nat) (s : State) :
    settle g .x n (.ok (s, none)) =
      { s.modTile g (fun t => ((t.advance .x n).passX .x 1).count 0x02 (some .x)) with cur := .none } := by
  simp [settle, State.issued]

/-- What an issue leaves when the body jumps. -/
theorem settle_jump (g : BitVec 8) (st : Stream) (n : Nat) (s : State) (p : Pc) :
    settle g st n (.ok (s, some p)) =
      { s.modTile g (fun t => ((t.setPc st p).passX st 2).count 0x02 (some st)) with cur := .none } := by
  simp [settle, State.issued]

/-- An instruction of both streams, issued by the A-stream. -/
theorem issue_both_a {s : State} {g : BitVec 8} (h : s.cur = .stream g .a) (n : Nat)
    (body : BitVec 8 → Stream → State → Res State) :
    issue .both n body s = .next (settle g .a n ((body g .a s).map fun s => (s, none))) := by
  simp [issue, issueJ, h, Issuer.allows, State.openIssue]

/-- An instruction of the A-stream, issued by it. -/
theorem issue_a {s : State} {g : BitVec 8} (h : s.cur = .stream g .a) (n : Nat)
    (body : BitVec 8 → Stream → State → Res State) :
    issue .a n body s = .next (settle g .a n ((body g .a s).map fun s => (s, none))) := by
  simp [issue, issueJ, h, Issuer.allows, State.openIssue]

/-- An instruction that the X-stream may issue, issued by it: writes whose windows have closed have landed. -/
theorem issue_x {s : State} {g : BitVec 8} (h : s.cur = .stream g .x) {w : Issuer} (hw : w.allows .x = true) (n : Nat)
    (body : BitVec 8 → Stream → State → Res State) :
    issue w n body s =
      .next (settle g .x n ((body g .x (s.modTile g Tile.commit)).map fun s => (s, none))) := by
  simp [issue, issueJ, h, hw, State.openIssue]

end Sys2Proof.Machine
end

