-- ==== Sys2Proof/Laws/Ops.lean ====
section
/-! SUPPORT. What each shared operation can do, said once: reads and writes of operands, queues, units, engine queues, traps
and their return. -/

namespace Sys2Proof.Machine

/-! ## Operands -/

theorem rdS_a (s : State) (g : BitVec 8) (r : R5) : s.rdS g .a r = ((s.tile g).rdA r, s) := rfl
theorem rdS_x0 (s : State) (g : BitVec 8) : s.rdS g .x 0 = ((0, false), s) := rfl

/-- A read of an X register whose window is closed is its value and poison, and changes nothing. -/
theorem rdS_x_closed {s : State} {g : BitVec 8} {r : R5} (h : ((s.tile g).openBits (.x r)).1 = 0) :
    s.rdS g .x r = (if r = 0 then (0, false) else (vget (s.tile g).xreg 0 r, (s.tile g).xpois.getLsbD r.toNat), s) := by
  unfold State.rdS
  dsimp only
  split
  · rfl
  · simp [h, State.readOpen]

/-- Reading under an open window changes the free-value counter and nothing else. -/
theorem readOpen_state {w : Nat} (s : State) (m : Nat) (v : BitVec w) : ∃ n, (s.readOpen m v).2 = { s with fresh := n } := by
  unfold State.readOpen
  split
  · exact ⟨s.fresh, rfl⟩
  · exact ⟨_, rfl⟩

theorem rdS_state (s : State) (g : BitVec 8) (st : Stream) (r : R5) : ∃ n, (s.rdS g st r).2 = { s with fresh := n } := by
  cases st with
  | a => exact ⟨s.fresh, rfl⟩
  | x =>
    unfold State.rdS
    dsimp only
    split
    · exact ⟨s.fresh, rfl⟩
    · exact readOpen_state _ _ _

theorem rdK_state (s : State) (g : BitVec 8) (r : K4) : ∃ n, (s.rdK g r).2 = { s with fresh := n } := by
  unfold State.rdK
  dsimp only
  split
  · exact ⟨s.fresh, rfl⟩
  · exact readOpen_state _ _ _

@[simp] theorem rdK_zero (s : State) (g : BitVec 8) : s.rdK g 0 = (BitVec.allOnes 512, s) := rfl

/-- A read of a vector name notes the read and may take one free value. -/
theorem rdV_state (s : State) (g : BitVec 8) (r : V6) : ∃ n, (s.rdV g r).2 =
    { s.setTile g ((s.tile g).setVname r { (s.tile g).vname r with lastRead := (s.tile g).xcyc }) with fresh := n } := by
  unfold State.rdV
  dsimp only
  split
  · exact ⟨_, rfl⟩
  · exact readOpen_state _ _ _

theorem wrS_a (s : State) (g : BitVec 8) (r : R5) (v : W64) (p : Bool) (L : Nat) :
    s.wrS g .a r v p L = s.modTile g fun t => t.wrA r v p := rfl
theorem wrS_x0 (s : State) (g : BitVec 8) (v : W64) (p : Bool) (L : Nat) : s.wrS g .x 0 v p L = s := rfl
theorem wrS_x {r : R5} (h : r ≠ 0) (s : State) (g : BitVec 8) (v : W64) (p : Bool) (L : Nat) :
    s.wrS g .x r v p L = s.modTile g fun t => t.pendAt (.x r) (2 ^ 64 - 1) v.toNat 1 (if p then 1 else 0) L := by
  unfold State.wrS
  exact if_neg h

@[simp] theorem wrK_zero (s : State) (g : BitVec 8) (m v L : Nat) : s.wrK g 0 m v L = s := rfl

/-- An event at a tile leaves the state as it is while the core rails are removed, and is its body otherwise. -/
theorem powered_off {s : State} (f : State → State) (h : s.railsOff = true) : powered f s = .next s := by simp [powered, event, h]
theorem powered_on {s : State} (f : State → State) (h : s.railsOff = false) : powered f s = .next (f s) := by simp [powered, event, h]

/-! ## Units and queues -/

@[simp] theorem useUnit_a (s : State) (g : BitVec 8) (u : XUnit) (n : Nat) : s.useUnit g .a u n = .ok s := rfl

theorem useUnit_x (s : State) (g : BitVec 8) (u : XUnit) (n : Nat) : s.useUnit g .x u n =
    if (s.tile g).xcyc < (s.tile g).units.at u then trapIn s { code := 0x1B }
    else .ok (s.setTile g { s.tile g with units := (s.tile g).units.put u ((s.tile g).xcyc + n) }) := rfl

/-- A cause gives back the units that the instruction had reserved; what completes or waits keeps them. -/
@[simp] theorem keepUnits_ok {α : Type} (g : BitVec 8) (u : XUnits) (x : α) : keepUnits g u (.ok x) = .ok x := rfl
@[simp] theorem keepUnits_wait {α : Type} (g : BitVec 8) (u : XUnits) (s : State) (w : WaitWhy) :
    keepUnits g u (.error (.wait s w) : Res α) = .error (.wait s w) := rfl
theorem keepUnits_same {α : Type} {g : BitVec 8} {u : XUnits} {s : State} {c : Raise} (h : (s.tile g).units = u) :
    keepUnits g u (.error (.trap s c) : Res α) = .error (.trap s c) := by
  simp [keepUnits, h]

/-- A cause other than 0x5C gives the vector names back as the instruction found them; 0x5C, what completes and what waits leave them. -/
@[simp] theorem keepNames_ok {α : Type} (s : State) (g : BitVec 8) (x : α) : keepNames s g (.ok x) = .ok x := rfl
@[simp] theorem keepNames_wait {α : Type} (s u : State) (g : BitVec 8) (w : WaitWhy) :
    keepNames s g (.error (.wait u w) : Res α) = .error (.wait u w) := rfl
theorem keepNames_recipe {α : Type} (s u : State) (g : BitVec 8) {c : Raise} (h : c.code = 0x5C) :
    keepNames s g (.error (.trap u c) : Res α) = .error (.trap u c) := if_pos h
theorem keepNames_trap {α : Type} (s u : State) (g : BitVec 8) {c : Raise} (h : c.code ≠ 0x5C) :
    keepNames s g (.error (.trap u c) : Res α) =
      .error (.trap (u.modTile g fun t => { t with v := (s.tile g).v, pend := (s.tile g).pend }) c) := if_neg h

/-- An instruction of the vector unit in a class that does not permit it: cause 0x74, and nothing else. -/
theorem issueV_low (s : State) (g : BitVec 8) (b : BitVec 8 → Stream → State → Res State) (hc : s.cur = .stream g .x)
    (h : ((s.openIssue g .x).tile g).sclass < 2) :
    issueV b s = .next (settle g .x 1 (.error (.trap (s.openIssue g .x) { code := 0x74 }))) := by
  unfold issueV issue issueJ
  rw [hc]
  simp only [Issuer.allows, needClass, raiseIf, h, decide_true, if_true, trapIn]
  rfl

/-- In class 2 and above such an instruction is its body, whose causes leave the units as they were. -/
theorem issueV_high (s : State) (g : BitVec 8) (b : BitVec 8 → Stream → State → Res State) (hc : s.cur = .stream g .x)
    (h : 2 ≤ ((s.openIssue g .x).tile g).sclass) :
    issueV b s = .next (settle g .x 1 ((keepNames (s.openIssue g .x) g
      (keepUnits g ((s.openIssue g .x).tile g).units (b g .x (s.openIssue g .x)))).map fun s => (s, none))) := by
  unfold issueV issue issueJ
  rw [hc]
  simp only [Issuer.allows, needClass, raiseIf, Nat.not_lt.mpr h, decide_false]
  rfl

theorem popQ_empty {s : State} {g : BitVec 8} {q : BitVec 4} (h : (s.tile g).queue q = []) : s.popQ g q = waitIn s .queue := by
  simp [State.popQ, h]
theorem popQ_cons {s : State} {g : BitVec 8} {q : BitVec 4} {e : QEntry} {r : List QEntry} (h : (s.tile g).queue q = e :: r) :
    s.popQ g q = .ok (e, s.modTile g fun t => t.setQueue q r) := by
  simp [State.popQ, h]
theorem pushQ_full {s : State} {g : BitVec 8} {q : BitVec 4} {e : QEntry} (h : 16 ≤ ((s.tile g).queue q).length) :
    s.pushQ g q e = waitIn s .queue := by
  simp [State.pushQ, h]
theorem pushQ_room {s : State} {g : BitVec 8} {q : BitVec 4} {e : QEntry} (h : ((s.tile g).queue q).length < 16) :
    s.pushQ g q e = .ok (s.modTile g fun t => t.setQueue q ((s.tile g).queue q ++ [e])) := by
  simp [State.pushQ, Nat.not_le.mpr h]

/-! ## Engine commands -/

/-- An engine command whose token is free, whose queue has room and whose registers are unpoisoned joins its queue. -/
theorem engIssue_ready {s : State} {g : BitVec 8} {e : Eng} {op : CmdOp} {k : ETok} {sa sb sc : R5} {imm : BitVec 17}
    (hc : s.cur = .stream g .a) (hk : (s.tile g).tkPending k.tp = false)
    (hq : (!((s.tile g).eng e).halted && ((s.tile g).eng e).full e) = false)
    (ha : ((s.tile g).rdA sa).2 = false) (hb : ((s.tile g).rdA sb).2 = false) (hd : ((s.tile g).rdA sc).2 = false) :
    engIssue e op k sa sb sc imm s =
      .next (settle g .a 2 (.ok (s.pushCmd g e (mkCmd (s.tile g) op .a k ((s.tile g).rdA sa).1 ((s.tile g).rdA sb).1
        ((s.tile g).rdA sc).1 imm), none))) := by
  rw [engIssue, issue_a hc]
  simp [State.waitCmd, hk, hq, waitIf, State.rd3, State.rdS, ha, hb, hd, Bind.bind, Except.bind, Except.map]

/-! ## Traps -/

/-- Delivery of a cause: the record, the program counter, IN, the code and SKIP of the charged stream, and its program
counter at the handler; nothing else. -/
theorem Tile.deliver_a (t : Tile) (tr : BitVec 512) (r : Raise) : t.deliver .a tr r =
    { t with acsr := { t.acsr with trec := tr, tepc := t.apc, tin := true, code := r.imm, skip := t.acsr.skip || r.skip }
             apc := t.acsr.tvec
             rdV := none } := rfl
theorem Tile.deliver_x (t : Tile) (tr : BitVec 512) (r : Raise) : t.deliver .x tr r =
    { t with xcsr := { t.xcsr with trec := tr, tepc := t.xpc, tin := true, code := r.imm, skip := t.xcsr.skip || r.skip }
             xpc := t.xcsr.tvec } := rfl

/-- A cause that the stream's handler takes. -/
theorem takeCause_handled {s : State} {g : BitVec 8} {st : Stream} {r : Raise} (h : (s.tile g).handles st r = true) :
    s.takeCause g st r = (if consumesPoison r.code then s.raiseErr (causeRec s g st r false) else s).setTile g
      (((s.tile g).deliver st (trapRecord s g st r) r).count 0x0D (some st)) := by
  simp [State.takeCause, h]

/-- A cause that the stream's handler does not take, of a context that is not rolled back. -/
theorem takeCause_ends {s : State} {g : BitVec 8} {st : Stream} {r : Raise} (h : (s.tile g).handles st r = false)
    (hb : (r.disp == .e && s.rollsBack ((s.tile g).ctx.getD 0)) = false) :
    s.takeCause g st r =
      (((s.raiseErr (causeRec s g st r true)).setTile g
        ((s.tile g).setCsr st { (s.tile g).csr st with trec := trapRecord s g st r })).stopGroup g).endContext
        ((s.tile g).ctx.getD 0) r.code := by
  unfold State.takeCause
  simp only [h, hb, Bool.false_eq_true, if_false, Bool.not_false]

/-- A cause that rolls its context back. -/
theorem takeCause_back {s : State} {g : BitVec 8} {st : Stream} {r : Raise} (h : (s.tile g).handles st r = false)
    (hb : (r.disp == .e && s.rollsBack ((s.tile g).ctx.getD 0)) = true) :
    s.takeCause g st r =
      (((s.raiseErr (causeRec s g st r false)).setTile g
        ((s.tile g).setCsr st { (s.tile g).csr st with trec := trapRecord s g st r })).stopGroup g).modCtx
        ((s.tile g).ctx.getD 0) fun x => { x with pendE := some (r.code, trapRecord s g st r) } := by
  unfold State.takeCause
  simp only [h, hb, Bool.false_eq_true, if_false, if_true, Bool.not_true]

/-- The return of a stream that is in no trap: the program counter only. -/
theorem Tile.trapReturn_outside {t : Tile} {st : Stream} (h : (t.csr st).tin = false) :
    t.trapReturn st = (t.setCsr st { t.csr st with tin := false }).setPc st (t.csr st).tepc := by
  simp [Tile.trapReturn, h]

/-- The return from a trap: halted engine queues of the stream resume. -/
theorem Tile.trapReturn_inside {t : Tile} {st : Stream} (h : (t.csr st).tin = true) :
    t.trapReturn st = ((t.resumeEngines st).setCsr st { t.csr st with tin := false }).setPc st (t.csr st).tepc := by
  simp [Tile.trapReturn, h]

/-! ## Error records -/

/-- An error record changes the error ring or the count of lost records. -/
theorem raiseErr_eq (s : State) (e : ErrRec) : ∃ rings o n, s.raiseErr e = { s with rings := rings, errOvf := o, errLost := n } := by
  unfold State.raiseErr State.loseErr State.setRing
  dsimp only
  split_ifs <;> exact ⟨_, _, _, rfl⟩

@[simp] theorem raiseErr_mem (s : State) (e : ErrRec) : (s.raiseErr e).mem = s.mem := by
  obtain ⟨_, _, _, h⟩ := raiseErr_eq s e; rw [h]
@[simp] theorem raiseErr_poison (s : State) (e : ErrRec) : (s.raiseErr e).poison = s.poison := by
  obtain ⟨_, _, _, h⟩ := raiseErr_eq s e; rw [h]
@[simp] theorem raiseErr_tile (s : State) (e : ErrRec) (g : BitVec 8) : (s.raiseErr e).tile g = s.tile g := by
  obtain ⟨_, _, _, h⟩ := raiseErr_eq s e; rw [h]; rfl
@[simp] theorem raiseErr_ctxs (s : State) (e : ErrRec) : (s.raiseErr e).ctxs = s.ctxs := by
  obtain ⟨_, _, _, h⟩ := raiseErr_eq s e; rw [h]
@[simp] theorem raiseErr_launches (s : State) (e : ErrRec) : (s.raiseErr e).launches = s.launches := by
  obtain ⟨_, _, _, h⟩ := raiseErr_eq s e; rw [h]

/-! ## Storage -/

/-- A store of bytes: they read back, every other byte reads as before, and the canonical form stays. -/
theorem wrBytes_inside (s : State) (a i : Nat) (bs : List Byte) (p : Bool) (h : i < bs.length) :
    (s.wrBytes a bs p).rdByte (a + i) = bs[i] := Mem.get_puts_inside bs s.mem a i h
theorem wrBytes_outside (s : State) {a x : Nat} (bs : List Byte) (p : Bool) (h : x < a ∨ a + bs.length ≤ x) :
    (s.wrBytes a bs p).rdByte x = s.rdByte x := Mem.get_puts_outside bs s.mem h
theorem wrBytes_wf {s : State} (a : Nat) (bs : List Byte) (p : Bool) (h : Mem.wf s.mem = true) :
    Mem.wf (s.wrBytes a bs p).mem = true := Mem.wf_puts a bs h
theorem zero_wf {s : State} (a n : Nat) (h : Mem.wf s.mem = true) : Mem.wf (s.zero a n).mem = true := Mem.wf_clear a n h

end Sys2Proof.Machine
end

