-- ==== Sys2Proof/Laws/PerInstr.lean ====
section
/-! SUPPORT. Statements about the instructions as syntax, one lemma per constructor: an encoded instruction decodes to itself. -/

namespace Sys2Proof

theorem build_wf {i : Instr} (h : i.Wf) (hi : i.wf = (operandCause i == none)) : build false false i = .ok i := by
  have h' : operandCause i = none := by
    have h2 : (operandCause i == none) = true := hi ▸ h
    simpa using h2
  simp [build, h']

/-! Which function reads a major. -/

theorem stream_scalar {w : W32} (n : W32) (h : 1 ≤ (fld w 26 6).toNat ∧ (fld w 26 6).toNat ≤ 7) :
    decodeStream w n = decodeScalar w := by
  unfold decodeStream; generalize (fld w 26 6).toNat = op at h ⊢
  obtain ⟨h1, h2⟩ := h; interval_cases op <;> rfl
theorem stream_flag {w : W32} (n : W32) (h : (fld w 26 6).toNat = 8) : decodeStream w n = decodeFlag w := by
  unfold decodeStream; rw [h]; rfl
theorem stream_control {w : W32} (n : W32) (h : 10 ≤ (fld w 26 6).toNat ∧ (fld w 26 6).toNat ≤ 15) :
    decodeStream w n = decodeControl w := by
  unfold decodeStream; generalize (fld w 26 6).toNat = op at h ⊢
  obtain ⟨h1, h2⟩ := h; interval_cases op <;> rfl
theorem stream_memory {w : W32} (n : W32) (h : 16 ≤ (fld w 26 6).toNat ∧ (fld w 26 6).toNat ≤ 21) :
    decodeStream w n = decodeMemory w := by
  unfold decodeStream; generalize (fld w 26 6).toNat = op at h ⊢
  obtain ⟨h1, h2⟩ := h; interval_cases op <;> rfl
theorem stream_varith {w : W32} (n : W32) (h : 24 ≤ (fld w 26 6).toNat ∧ (fld w 26 6).toNat ≤ 34) :
    decodeStream w n = decodeVArith w := by
  unfold decodeStream; generalize (fld w 26 6).toNat = op at h ⊢
  obtain ⟨h1, h2⟩ := h; interval_cases op <;> rfl
theorem stream_vector {w : W32} (n : W32) (h : 35 ≤ (fld w 26 6).toNat ∧ (fld w 26 6).toNat ≤ 41) :
    decodeStream w n = decodeVector w := by
  unfold decodeStream; generalize (fld w 26 6).toNat = op at h ⊢
  obtain ⟨h1, h2⟩ := h; interval_cases op <;> rfl
theorem stream_system {w : W32} (n : W32) (h : 44 ≤ (fld w 26 6).toNat ∧ (fld w 26 6).toNat ≤ 47) :
    decodeStream w n = decodeSystem w := by
  unfold decodeStream; generalize (fld w 26 6).toNat = op at h ⊢
  obtain ⟨h1, h2⟩ := h; interval_cases op <;> rfl
theorem stream_engine {w : W32} (n : W32) (h : 48 ≤ (fld w 26 6).toNat ∧ (fld w 26 6).toNat ≤ 56) :
    decodeStream w n = decodeEngine w n := by
  unfold decodeStream; generalize (fld w 26 6).toNat = op at h ⊢
  obtain ⟨h1, h2⟩ := h; interval_cases op <;> rfl

/-- A well-formed instruction that has words decodes from its own words to itself, whatever word follows a one-word form. -/
def Laws.RoundTrip.Statement (i : Instr) : Prop := i.Wf → ∀ next : W32,
  match encode i with
  | [] => True
  | [w] => if isQueueInstr i then decodeQ w = .ok i else decodeStream w next = .ok i
  | w0 :: w1 :: _ => decodeStream w0 w1 = .ok i

namespace Laws.RoundTrip

theorem add (d s t : R5) : Statement (.add d s t) := by
  intro hw next
  show decodeStream (encR 0x01 d s t 0 0) next = .ok (.add d s t)
  have hb := build_wf hw rfl
  rw [stream_scalar _ (by simp)]
  have h26 : (fld (encR 0x01 d s t 0 0) 26 6).toNat = 1 := by simp
  have h0 : (fld (encR 0x01 d s t 0 0) 0 6).toNat = 0 := by simp
  dsimp only [decodeScalar]; rw [h26, h0]
  show build _ _ _ = _
  simp [hb]
theorem sub (d s t : R5) : Statement (.sub d s t) := by
  intro hw next
  show decodeStream (encR 0x01 d s t 0 1) next = .ok (.sub d s t)
  have hb := build_wf hw rfl
  rw [stream_scalar _ (by simp)]
  have h26 : (fld (encR 0x01 d s t 0 1) 26 6).toNat = 1 := by simp
  have h0 : (fld (encR 0x01 d s t 0 1) 0 6).toNat = 1 := by simp
  dsimp only [decodeScalar]; rw [h26, h0]
  show build _ _ _ = _
  simp [hb]
theorem and (d s t : R5) : Statement (.and d s t) := by
  intro hw next
  show decodeStream (encR 0x01 d s t 0 2) next = .ok (.and d s t)
  have hb := build_wf hw rfl
  rw [stream_scalar _ (by simp)]
  have h26 : (fld (encR 0x01 d s t 0 2) 26 6).toNat = 1 := by simp
  have h0 : (fld (encR 0x01 d s t 0 2) 0 6).toNat = 2 := by simp
  dsimp only [decodeScalar]; rw [h26, h0]
  show build _ _ _ = _
  simp [hb]
theorem or (d s t : R5) : Statement (.or d s t) := by
  intro hw next
  show decodeStream (encR 0x01 d s t 0 3) next = .ok (.or d s t)
  have hb := build_wf hw rfl
  rw [stream_scalar _ (by simp)]
  have h26 : (fld (encR 0x01 d s t 0 3) 26 6).toNat = 1 := by simp
  have h0 : (fld (encR 0x01 d s t 0 3) 0 6).toNat = 3 := by simp
  dsimp only [decodeScalar]; rw [h26, h0]
  show build _ _ _ = _
  simp [hb]
theorem xor (d s t : R5) : Statement (.xor d s t) := by
  intro hw next
  show decodeStream (encR 0x01 d s t 0 4) next = .ok (.xor d s t)
  have hb := build_wf hw rfl
  rw [stream_scalar _ (by simp)]
  have h26 : (fld (encR 0x01 d s t 0 4) 26 6).toNat = 1 := by simp
  have h0 : (fld (encR 0x01 d s t 0 4) 0 6).toNat = 4 := by simp
  dsimp only [decodeScalar]; rw [h26, h0]
  show build _ _ _ = _
  simp [hb]
theorem shl (d s t : R5) : Statement (.shl d s t) := by
  intro hw next
  show decodeStream (encR 0x01 d s t 0 5) next = .ok (.shl d s t)
  have hb := build_wf hw rfl
  rw [stream_scalar _ (by simp)]
  have h26 : (fld (encR 0x01 d s t 0 5) 26 6).toNat = 1 := by simp
  have h0 : (fld (encR 0x01 d s t 0 5) 0 6).toNat = 5 := by simp
  dsimp only [decodeScalar]; rw [h26, h0]
  show build _ _ _ = _
  simp [hb]
theorem shr (d s t : R5) : Statement (.shr d s t) := by
  intro hw next
  show decodeStream (encR 0x01 d s t 0 6) next = .ok (.shr d s t)
  have hb := build_wf hw rfl
  rw [stream_scalar _ (by simp)]
  have h26 : (fld (encR 0x01 d s t 0 6) 26 6).toNat = 1 := by simp
  have h0 : (fld (encR 0x01 d s t 0 6) 0 6).toNat = 6 := by simp
  dsimp only [decodeScalar]; rw [h26, h0]
  show build _ _ _ = _
  simp [hb]
theorem sra (d s t : R5) : Statement (.sra d s t) := by
  intro hw next
  show decodeStream (encR 0x01 d s t 0 7) next = .ok (.sra d s t)
  have hb := build_wf hw rfl
  rw [stream_scalar _ (by simp)]
  have h26 : (fld (encR 0x01 d s t 0 7) 26 6).toNat = 1 := by simp
  have h0 : (fld (encR 0x01 d s t 0 7) 0 6).toNat = 7 := by simp
  dsimp only [decodeScalar]; rw [h26, h0]
  show build _ _ _ = _
  simp [hb]
theorem mul (d s t : R5) : Statement (.mul d s t) := by
  intro hw next
  show decodeStream (encR 0x01 d s t 0 8) next = .ok (.mul d s t)
  have hb := build_wf hw rfl
  rw [stream_scalar _ (by simp)]
  have h26 : (fld (encR 0x01 d s t 0 8) 26 6).toNat = 1 := by simp
  have h0 : (fld (encR 0x01 d s t 0 8) 0 6).toNat = 8 := by simp
  dsimp only [decodeScalar]; rw [h26, h0]
  show build _ _ _ = _
  simp [hb]
theorem mulh (d s t : R5) : Statement (.mulh d s t) := by
  intro hw next
  show decodeStream (encR 0x01 d s t 0 9) next = .ok (.mulh d s t)
  have hb := build_wf hw rfl
  rw [stream_scalar _ (by simp)]
  have h26 : (fld (encR 0x01 d s t 0 9) 26 6).toNat = 1 := by simp
  have h0 : (fld (encR 0x01 d s t 0 9) 0 6).toNat = 9 := by simp
  dsimp only [decodeScalar]; rw [h26, h0]
  show build _ _ _ = _
  simp [hb]
theorem mulhu (d s t : R5) : Statement (.mulhu d s t) := by
  intro hw next
  show decodeStream (encR 0x01 d s t 0 10) next = .ok (.mulhu d s t)
  have hb := build_wf hw rfl
  rw [stream_scalar _ (by simp)]
  have h26 : (fld (encR 0x01 d s t 0 10) 26 6).toNat = 1 := by simp
  have h0 : (fld (encR 0x01 d s t 0 10) 0 6).toNat = 10 := by simp
  dsimp only [decodeScalar]; rw [h26, h0]
  show build _ _ _ = _
  simp [hb]
theorem div (d s t : R5) : Statement (.div d s t) := by
  intro hw next
  show decodeStream (encR 0x01 d s t 0 11) next = .ok (.div d s t)
  have hb := build_wf hw rfl
  rw [stream_scalar _ (by simp)]
  have h26 : (fld (encR 0x01 d s t 0 11) 26 6).toNat = 1 := by simp
  have h0 : (fld (encR 0x01 d s t 0 11) 0 6).toNat = 11 := by simp
  dsimp only [decodeScalar]; rw [h26, h0]
  show build _ _ _ = _
  simp [hb]
theorem divu (d s t : R5) : Statement (.divu d s t) := by
  intro hw next
  show decodeStream (encR 0x01 d s t 0 12) next = .ok (.divu d s t)
  have hb := build_wf hw rfl
  rw [stream_scalar _ (by simp)]
  have h26 : (fld (encR 0x01 d s t 0 12) 26 6).toNat = 1 := by simp
  have h0 : (fld (encR 0x01 d s t 0 12) 0 6).toNat = 12 := by simp
  dsimp only [decodeScalar]; rw [h26, h0]
  show build _ _ _ = _
  simp [hb]
theorem rem (d s t : R5) : Statement (.rem d s t) := by
  intro hw next
  show decodeStream (encR 0x01 d s t 0 13) next = .ok (.rem d s t)
  have hb := build_wf hw rfl
  rw [stream_scalar _ (by simp)]
  have h26 : (fld (encR 0x01 d s t 0 13) 26 6).toNat = 1 := by simp
  have h0 : (fld (encR 0x01 d s t 0 13) 0 6).toNat = 13 := by simp
  dsimp only [decodeScalar]; rw [h26, h0]
  show build _ _ _ = _
  simp [hb]
theorem remu (d s t : R5) : Statement (.remu d s t) := by
  intro hw next
  show decodeStream (encR 0x01 d s t 0 14) next = .ok (.remu d s t)
  have hb := build_wf hw rfl
  rw [stream_scalar _ (by simp)]
  have h26 : (fld (encR 0x01 d s t 0 14) 26 6).toNat = 1 := by simp
  have h0 : (fld (encR 0x01 d s t 0 14) 0 6).toNat = 14 := by simp
  dsimp only [decodeScalar]; rw [h26, h0]
  show build _ _ _ = _
  simp [hb]
theorem min (d s t : R5) : Statement (.min d s t) := by
  intro hw next
  show decodeStream (encR 0x01 d s t 0 15) next = .ok (.min d s t)
  have hb := build_wf hw rfl
  rw [stream_scalar _ (by simp)]
  have h26 : (fld (encR 0x01 d s t 0 15) 26 6).toNat = 1 := by simp
  have h0 : (fld (encR 0x01 d s t 0 15) 0 6).toNat = 15 := by simp
  dsimp only [decodeScalar]; rw [h26, h0]
  show build _ _ _ = _
  simp [hb]
theorem max (d s t : R5) : Statement (.max d s t) := by
  intro hw next
  show decodeStream (encR 0x01 d s t 0 16) next = .ok (.max d s t)
  have hb := build_wf hw rfl
  rw [stream_scalar _ (by simp)]
  have h26 : (fld (encR 0x01 d s t 0 16) 26 6).toNat = 1 := by simp
  have h0 : (fld (encR 0x01 d s t 0 16) 0 6).toNat = 16 := by simp
  dsimp only [decodeScalar]; rw [h26, h0]
  show build _ _ _ = _
  simp [hb]
theorem minu (d s t : R5) : Statement (.minu d s t) := by
  intro hw next
  show decodeStream (encR 0x01 d s t 0 17) next = .ok (.minu d s t)
  have hb := build_wf hw rfl
  rw [stream_scalar _ (by simp)]
  have h26 : (fld (encR 0x01 d s t 0 17) 26 6).toNat = 1 := by simp
  have h0 : (fld (encR 0x01 d s t 0 17) 0 6).toNat = 17 := by simp
  dsimp only [decodeScalar]; rw [h26, h0]
  show build _ _ _ = _
  simp [hb]
theorem maxu (d s t : R5) : Statement (.maxu d s t) := by
  intro hw next
  show decodeStream (encR 0x01 d s t 0 18) next = .ok (.maxu d s t)
  have hb := build_wf hw rfl
  rw [stream_scalar _ (by simp)]
  have h26 : (fld (encR 0x01 d s t 0 18) 26 6).toNat = 1 := by simp
  have h0 : (fld (encR 0x01 d s t 0 18) 0 6).toNat = 18 := by simp
  dsimp only [decodeScalar]; rw [h26, h0]
  show build _ _ _ = _
  simp [hb]
theorem seq (d s t : R5) : Statement (.seq d s t) := by
  intro hw next
  show decodeStream (encR 0x01 d s t 0 19) next = .ok (.seq d s t)
  have hb := build_wf hw rfl
  rw [stream_scalar _ (by simp)]
  have h26 : (fld (encR 0x01 d s t 0 19) 26 6).toNat = 1 := by simp
  have h0 : (fld (encR 0x01 d s t 0 19) 0 6).toNat = 19 := by simp
  dsimp only [decodeScalar]; rw [h26, h0]
  show build _ _ _ = _
  simp [hb]
theorem slt (d s t : R5) : Statement (.slt d s t) := by
  intro hw next
  show decodeStream (encR 0x01 d s t 0 20) next = .ok (.slt d s t)
  have hb := build_wf hw rfl
  rw [stream_scalar _ (by simp)]
  have h26 : (fld (encR 0x01 d s t 0 20) 26 6).toNat = 1 := by simp
  have h0 : (fld (encR 0x01 d s t 0 20) 0 6).toNat = 20 := by simp
  dsimp only [decodeScalar]; rw [h26, h0]
  show build _ _ _ = _
  simp [hb]
theorem sltu (d s t : R5) : Statement (.sltu d s t) := by
  intro hw next
  show decodeStream (encR 0x01 d s t 0 21) next = .ok (.sltu d s t)
  have hb := build_wf hw rfl
  rw [stream_scalar _ (by simp)]
  have h26 : (fld (encR 0x01 d s t 0 21) 26 6).toNat = 1 := by simp
  have h0 : (fld (encR 0x01 d s t 0 21) 0 6).toNat = 21 := by simp
  dsimp only [decodeScalar]; rw [h26, h0]
  show build _ _ _ = _
  simp [hb]
theorem clz (d s : R5) : Statement (.clz d s) := by
  intro hw next
  show decodeStream (encR 0x01 d s 0 0 22) next = .ok (.clz d s)
  have hb := build_wf hw rfl
  rw [stream_scalar _ (by simp)]
  have h26 : (fld (encR 0x01 d s 0 0 22) 26 6).toNat = 1 := by simp
  have h0 : (fld (encR 0x01 d s 0 0 22) 0 6).toNat = 22 := by simp
  dsimp only [decodeScalar]; rw [h26, h0]
  show build _ _ _ = _
  simp [hb]
theorem ctz (d s : R5) : Statement (.ctz d s) := by
  intro hw next
  show decodeStream (encR 0x01 d s 0 0 23) next = .ok (.ctz d s)
  have hb := build_wf hw rfl
  rw [stream_scalar _ (by simp)]
  have h26 : (fld (encR 0x01 d s 0 0 23) 26 6).toNat = 1 := by simp
  have h0 : (fld (encR 0x01 d s 0 0 23) 0 6).toNat = 23 := by simp
  dsimp only [decodeScalar]; rw [h26, h0]
  show build _ _ _ = _
  simp [hb]
theorem popc (d s : R5) : Statement (.popc d s) := by
  intro hw next
  show decodeStream (encR 0x01 d s 0 0 24) next = .ok (.popc d s)
  have hb := build_wf hw rfl
  rw [stream_scalar _ (by simp)]
  have h26 : (fld (encR 0x01 d s 0 0 24) 26 6).toNat = 1 := by simp
  have h0 : (fld (encR 0x01 d s 0 0 24) 0 6).toNat = 24 := by simp
  dsimp only [decodeScalar]; rw [h26, h0]
  show build _ _ _ = _
  simp [hb]
theorem sel (d s t c : R5) : Statement (.sel d s t c) := by
  intro hw next
  show decodeStream (encR 0x01 d s t c 25) next = .ok (.sel d s t c)
  have hb := build_wf hw rfl
  rw [stream_scalar _ (by simp)]
  have h26 : (fld (encR 0x01 d s t c 25) 26 6).toNat = 1 := by simp
  have h0 : (fld (encR 0x01 d s t c 25) 0 6).toNat = 25 := by simp
  dsimp only [decodeScalar]; rw [h26, h0]
  show build _ _ _ = _
  simp [hb]
theorem addi (d s : R5) (i : BitVec 16) : Statement (.addi d s i) := by
  intro hw next
  show decodeStream (encI 0x02 d s i) next = .ok (.addi d s i)
  rw [stream_scalar _ (by simp)]
  have h26 : (fld (encI 0x02 d s i) 26 6).toNat = 2 := by simp
  dsimp only [decodeScalar]; rw [h26]
  show Except.ok _ = _
  simp
theorem andi (d s : R5) (i : BitVec 16) : Statement (.andi d s i) := by
  intro hw next
  show decodeStream (encI 0x03 d s i) next = .ok (.andi d s i)
  rw [stream_scalar _ (by simp)]
  have h26 : (fld (encI 0x03 d s i) 26 6).toNat = 3 := by simp
  dsimp only [decodeScalar]; rw [h26]
  show Except.ok _ = _
  simp
theorem ori (d s : R5) (i : BitVec 16) : Statement (.ori d s i) := by
  intro hw next
  show decodeStream (encI 0x04 d s i) next = .ok (.ori d s i)
  rw [stream_scalar _ (by simp)]
  have h26 : (fld (encI 0x04 d s i) 26 6).toNat = 4 := by simp
  dsimp only [decodeScalar]; rw [h26]
  show Except.ok _ = _
  simp
theorem xori (d s : R5) (i : BitVec 16) : Statement (.xori d s i) := by
  intro hw next
  show decodeStream (encI 0x05 d s i) next = .ok (.xori d s i)
  rw [stream_scalar _ (by simp)]
  have h26 : (fld (encI 0x05 d s i) 26 6).toNat = 5 := by simp
  dsimp only [decodeScalar]; rw [h26]
  show Except.ok _ = _
  simp
theorem shli (d s : R5) (n : BitVec 6) : Statement (.shli d s n) := by
  intro hw next
  show decodeStream (encI 0x06 d s ((0 : BitVec 10) ++ n)) next = .ok (.shli d s n)
  have hb := build_wf hw rfl
  rw [stream_scalar _ (by simp)]
  have h26 : (fld (encI 0x06 d s ((0 : BitVec 10) ++ n)) 26 6).toNat = 6 := by simp
  have h12 : (fld (encI 0x06 d s ((0 : BitVec 10) ++ n)) 12 4).toNat = 0 := by simp
  dsimp only [decodeScalar]; rw [h26, h12]
  show build _ _ _ = _
  simp [hb]
theorem shri (d s : R5) (n : BitVec 6) : Statement (.shri d s n) := by
  intro hw next
  show decodeStream (encI 0x06 d s ((0x40 : BitVec 10) ++ n)) next = .ok (.shri d s n)
  have hb := build_wf hw rfl
  rw [stream_scalar _ (by simp)]
  have h26 : (fld (encI 0x06 d s ((0x40 : BitVec 10) ++ n)) 26 6).toNat = 6 := by simp
  have h12 : (fld (encI 0x06 d s ((0x40 : BitVec 10) ++ n)) 12 4).toNat = 1 := by simp
  dsimp only [decodeScalar]; rw [h26, h12]
  show build _ _ _ = _
  simp [hb]
theorem srai (d s : R5) (n : BitVec 6) : Statement (.srai d s n) := by
  intro hw next
  show decodeStream (encI 0x06 d s ((0x80 : BitVec 10) ++ n)) next = .ok (.srai d s n)
  have hb := build_wf hw rfl
  rw [stream_scalar _ (by simp)]
  have h26 : (fld (encI 0x06 d s ((0x80 : BitVec 10) ++ n)) 26 6).toNat = 6 := by simp
  have h12 : (fld (encI 0x06 d s ((0x80 : BitVec 10) ++ n)) 12 4).toNat = 2 := by simp
  dsimp only [decodeScalar]; rw [h26, h12]
  show build _ _ _ = _
  simp [hb]
theorem movk (d : R5) (i : BitVec 16) (part : BitVec 2) : Statement (.movk d i part) := by
  intro hw next
  show decodeStream (encI 0x07 d ((0 : BitVec 3) ++ part) i) next = .ok (.movk d i part)
  have hb := build_wf hw rfl
  rw [stream_scalar _ (by simp)]
  have h26 : (fld (encI 0x07 d ((0 : BitVec 3) ++ part) i) 26 6).toNat = 7 := by simp
  dsimp only [decodeScalar]; rw [h26]
  show build _ _ _ = _
  simp [hb]
theorem cmpEq (f : F3) (s t : R5) : Statement (.cmpEq f s t) := by
  intro hw next
  show decodeStream (encR 0x08 (f5 f) s t 0 0) next = .ok (.cmpEq f s t)
  have hb := build_wf hw rfl
  rw [stream_flag _ (by simp)]
  have h0 : (fld (encR 0x08 (f5 f) s t 0 0) 0 6).toNat = 0 := by simp
  dsimp only [decodeFlag]; rw [h0]
  show build _ _ _ = _
  simp [hb]
theorem cmpNe (f : F3) (s t : R5) : Statement (.cmpNe f s t) := by
  intro hw next
  show decodeStream (encR 0x08 (f5 f) s t 0 1) next = .ok (.cmpNe f s t)
  have hb := build_wf hw rfl
  rw [stream_flag _ (by simp)]
  have h0 : (fld (encR 0x08 (f5 f) s t 0 1) 0 6).toNat = 1 := by simp
  dsimp only [decodeFlag]; rw [h0]
  show build _ _ _ = _
  simp [hb]
theorem cmpLt (f : F3) (s t : R5) : Statement (.cmpLt f s t) := by
  intro hw next
  show decodeStream (encR 0x08 (f5 f) s t 0 2) next = .ok (.cmpLt f s t)
  have hb := build_wf hw rfl
  rw [stream_flag _ (by simp)]
  have h0 : (fld (encR 0x08 (f5 f) s t 0 2) 0 6).toNat = 2 := by simp
  dsimp only [decodeFlag]; rw [h0]
  show build _ _ _ = _
  simp [hb]
theorem cmpGe (f : F3) (s t : R5) : Statement (.cmpGe f s t) := by
  intro hw next
  show decodeStream (encR 0x08 (f5 f) s t 0 3) next = .ok (.cmpGe f s t)
  have hb := build_wf hw rfl
  rw [stream_flag _ (by simp)]
  have h0 : (fld (encR 0x08 (f5 f) s t 0 3) 0 6).toNat = 3 := by simp
  dsimp only [decodeFlag]; rw [h0]
  show build _ _ _ = _
  simp [hb]
theorem cmpLtu (f : F3) (s t : R5) : Statement (.cmpLtu f s t) := by
  intro hw next
  show decodeStream (encR 0x08 (f5 f) s t 0 4) next = .ok (.cmpLtu f s t)
  have hb := build_wf hw rfl
  rw [stream_flag _ (by simp)]
  have h0 : (fld (encR 0x08 (f5 f) s t 0 4) 0 6).toNat = 4 := by simp
  dsimp only [decodeFlag]; rw [h0]
  show build _ _ _ = _
  simp [hb]
theorem cmpGeu (f : F3) (s t : R5) : Statement (.cmpGeu f s t) := by
  intro hw next
  show decodeStream (encR 0x08 (f5 f) s t 0 5) next = .ok (.cmpGeu f s t)
  have hb := build_wf hw rfl
  rw [stream_flag _ (by simp)]
  have h0 : (fld (encR 0x08 (f5 f) s t 0 5) 0 6).toNat = 5 := by simp
  dsimp only [decodeFlag]; rw [h0]
  show build _ _ _ = _
  simp [hb]
theorem fand (f a b : F3) : Statement (.fand f a b) := by
  intro hw next
  show decodeStream (encR 0x08 (f5 f) (f5 a) (f5 b) 0 6) next = .ok (.fand f a b)
  have hb := build_wf hw rfl
  rw [stream_flag _ (by simp)]
  have h0 : (fld (encR 0x08 (f5 f) (f5 a) (f5 b) 0 6) 0 6).toNat = 6 := by simp
  dsimp only [decodeFlag]; rw [h0]
  show build _ _ _ = _
  simp [hb]
theorem for_ (f a b : F3) : Statement (.for_ f a b) := by
  intro hw next
  show decodeStream (encR 0x08 (f5 f) (f5 a) (f5 b) 0 7) next = .ok (.for_ f a b)
  have hb := build_wf hw rfl
  rw [stream_flag _ (by simp)]
  have h0 : (fld (encR 0x08 (f5 f) (f5 a) (f5 b) 0 7) 0 6).toNat = 7 := by simp
  dsimp only [decodeFlag]; rw [h0]
  show build _ _ _ = _
  simp [hb]
theorem fxor (f a b : F3) : Statement (.fxor f a b) := by
  intro hw next
  show decodeStream (encR 0x08 (f5 f) (f5 a) (f5 b) 0 8) next = .ok (.fxor f a b)
  have hb := build_wf hw rfl
  rw [stream_flag _ (by simp)]
  have h0 : (fld (encR 0x08 (f5 f) (f5 a) (f5 b) 0 8) 0 6).toNat = 8 := by simp
  dsimp only [decodeFlag]; rw [h0]
  show build _ _ _ = _
  simp [hb]
theorem fget (d : R5) (a : F3) : Statement (.fget d a) := by
  intro hw next
  show decodeStream (encR 0x08 d (f5 a) 0 0 9) next = .ok (.fget d a)
  have hb := build_wf hw rfl
  rw [stream_flag _ (by simp)]
  have h0 : (fld (encR 0x08 d (f5 a) 0 0 9) 0 6).toNat = 9 := by simp
  dsimp only [decodeFlag]; rw [h0]
  show build _ _ _ = _
  simp [hb]
theorem fput (f : F3) (s : R5) : Statement (.fput f s) := by
  intro hw next
  show decodeStream (encR 0x08 (f5 f) s 0 0 10) next = .ok (.fput f s)
  have hb := build_wf hw rfl
  rw [stream_flag _ (by simp)]
  have h0 : (fld (encR 0x08 (f5 f) s 0 0 10) 0 6).toNat = 10 := by simp
  dsimp only [decodeFlag]; rw [h0]
  show build _ _ _ = _
  simp [hb]
theorem beq (s t : R5) (disp : BitVec 13) : Statement (.beq s t disp) := by
  intro hw next
  show decodeStream (encB 0x0A s t 0 disp) next = .ok (.beq s t disp)
  rw [stream_control _ (by simp)]
  have h26 : (fld (encB 0x0A s t 0 disp) 26 6).toNat = 10 := by simp
  have h13 : (fld (encB 0x0A s t 0 disp) 13 3).toNat = 0 := by simp
  dsimp only [decodeControl]; rw [h26, h13]
  show Except.ok _ = _
  simp
theorem bne (s t : R5) (disp : BitVec 13) : Statement (.bne s t disp) := by
  intro hw next
  show decodeStream (encB 0x0A s t 1 disp) next = .ok (.bne s t disp)
  rw [stream_control _ (by simp)]
  have h26 : (fld (encB 0x0A s t 1 disp) 26 6).toNat = 10 := by simp
  have h13 : (fld (encB 0x0A s t 1 disp) 13 3).toNat = 1 := by simp
  dsimp only [decodeControl]; rw [h26, h13]
  show Except.ok _ = _
  simp
theorem blt (s t : R5) (disp : BitVec 13) : Statement (.blt s t disp) := by
  intro hw next
  show decodeStream (encB 0x0A s t 2 disp) next = .ok (.blt s t disp)
  rw [stream_control _ (by simp)]
  have h26 : (fld (encB 0x0A s t 2 disp) 26 6).toNat = 10 := by simp
  have h13 : (fld (encB 0x0A s t 2 disp) 13 3).toNat = 2 := by simp
  dsimp only [decodeControl]; rw [h26, h13]
  show Except.ok _ = _
  simp
theorem bge (s t : R5) (disp : BitVec 13) : Statement (.bge s t disp) := by
  intro hw next
  show decodeStream (encB 0x0A s t 3 disp) next = .ok (.bge s t disp)
  rw [stream_control _ (by simp)]
  have h26 : (fld (encB 0x0A s t 3 disp) 26 6).toNat = 10 := by simp
  have h13 : (fld (encB 0x0A s t 3 disp) 13 3).toNat = 3 := by simp
  dsimp only [decodeControl]; rw [h26, h13]
  show Except.ok _ = _
  simp
theorem bltu (s t : R5) (disp : BitVec 13) : Statement (.bltu s t disp) := by
  intro hw next
  show decodeStream (encB 0x0A s t 4 disp) next = .ok (.bltu s t disp)
  rw [stream_control _ (by simp)]
  have h26 : (fld (encB 0x0A s t 4 disp) 26 6).toNat = 10 := by simp
  have h13 : (fld (encB 0x0A s t 4 disp) 13 3).toNat = 4 := by simp
  dsimp only [decodeControl]; rw [h26, h13]
  show Except.ok _ = _
  simp
theorem bgeu (s t : R5) (disp : BitVec 13) : Statement (.bgeu s t disp) := by
  intro hw next
  show decodeStream (encB 0x0A s t 5 disp) next = .ok (.bgeu s t disp)
  rw [stream_control _ (by simp)]
  have h26 : (fld (encB 0x0A s t 5 disp) 26 6).toNat = 10 := by simp
  have h13 : (fld (encB 0x0A s t 5 disp) 13 3).toNat = 5 := by simp
  dsimp only [decodeControl]; rw [h26, h13]
  show Except.ok _ = _
  simp
theorem bfs (f : F3) (disp : BitVec 13) : Statement (.bfs f disp) := by
  intro hw next
  show decodeStream (encB 0x0B (f5 f) 0 0 disp) next = .ok (.bfs f disp)
  have hb := build_wf hw rfl
  rw [stream_control _ (by simp)]
  have h26 : (fld (encB 0x0B (f5 f) 0 0 disp) 26 6).toNat = 11 := by simp
  have h13 : (fld (encB 0x0B (f5 f) 0 0 disp) 13 3).toNat = 0 := by simp
  dsimp only [decodeControl]; rw [h26, h13]
  show build _ _ _ = _
  simp [hb]
theorem bfc (f : F3) (disp : BitVec 13) : Statement (.bfc f disp) := by
  intro hw next
  show decodeStream (encB 0x0B (f5 f) 0 1 disp) next = .ok (.bfc f disp)
  have hb := build_wf hw rfl
  rw [stream_control _ (by simp)]
  have h26 : (fld (encB 0x0B (f5 f) 0 1 disp) 26 6).toNat = 11 := by simp
  have h13 : (fld (encB 0x0B (f5 f) 0 1 disp) 13 3).toNat = 1 := by simp
  dsimp only [decodeControl]; rw [h26, h13]
  show build _ _ _ = _
  simp [hb]
theorem bqs (disp : BitVec 13) : Statement (.bqs disp) := by
  intro hw next
  show decodeStream (encB 0x0C 0 0 0 disp) next = .ok (.bqs disp)
  have hb := build_wf hw rfl
  rw [stream_control _ (by simp)]
  have h26 : (fld (encB 0x0C 0 0 0 disp) 26 6).toNat = 12 := by simp
  have h13 : (fld (encB 0x0C 0 0 0 disp) 13 3).toNat = 0 := by simp
  dsimp only [decodeControl]; rw [h26, h13]
  show build _ _ _ = _
  simp [hb]
theorem bqc (disp : BitVec 13) : Statement (.bqc disp) := by
  intro hw next
  show decodeStream (encB 0x0C 0 0 1 disp) next = .ok (.bqc disp)
  have hb := build_wf hw rfl
  rw [stream_control _ (by simp)]
  have h26 : (fld (encB 0x0C 0 0 1 disp) 26 6).toNat = 12 := by simp
  have h13 : (fld (encB 0x0C 0 0 1 disp) 13 3).toNat = 1 := by simp
  dsimp only [decodeControl]; rw [h26, h13]
  show build _ _ _ = _
  simp [hb]
theorem jmp (disp : BitVec 16) : Statement (.jmp disp) := by
  intro hw next
  show decodeStream (encI 0x0D 0 0 disp) next = .ok (.jmp disp)
  rw [stream_control _ (by simp)]
  have h26 : (fld (encI 0x0D 0 0 disp) 26 6).toNat = 13 := by simp
  dsimp only [decodeControl]; rw [h26]
  simp
theorem call (l : R5) (disp : BitVec 16) : Statement (.call l disp) := by
  intro hw next
  show decodeStream (encI 0x0D l 0 disp) next = .ok (.call l disp)
  rw [stream_control _ (by simp)]
  have h26 : (fld (encI 0x0D l 0 disp) 26 6).toNat = 13 := by simp
  have hw2 : (operandCause (.call l disp) == none) = true := hw
  simp [operandCause, firstCause] at hw2
  dsimp only [decodeControl]; rw [h26]
  simp [hw2]
theorem jmpr (s : R5) (disp : BitVec 16) : Statement (.jmpr s disp) := by
  intro hw next
  show decodeStream (encI 0x0D 0 s disp) next = .ok (.jmpr s disp)
  rw [stream_control _ (by simp)]
  have h26 : (fld (encI 0x0D 0 s disp) 26 6).toNat = 13 := by simp
  have hw2 : (operandCause (.jmpr s disp) == none) = true := hw
  simp [operandCause, firstCause] at hw2
  dsimp only [decodeControl]; rw [h26]
  simp [hw2]
theorem callr (l s : R5) (disp : BitVec 16) : Statement (.callr l s disp) := by
  intro hw next
  show decodeStream (encI 0x0D l s disp) next = .ok (.callr l s disp)
  rw [stream_control _ (by simp)]
  have h26 : (fld (encI 0x0D l s disp) 26 6).toNat = 13 := by simp
  have hw2 : (operandCause (.callr l s disp) == none) = true := hw
  simp [operandCause, firstCause] at hw2
  dsimp only [decodeControl]; rw [h26]
  simp [hw2]
theorem tkwait (k : R5) : Statement (.tkwait k) := by
  intro hw next
  show decodeStream (encR 0x0F 0 k 0 0 0) next = .ok (.tkwait k)
  have hb := build_wf hw rfl
  rw [stream_control _ (by simp)]
  have h26 : (fld (encR 0x0F 0 k 0 0 0) 26 6).toNat = 15 := by simp
  have h0 : (fld (encR 0x0F 0 k 0 0 0) 0 6).toNat = 0 := by simp
  dsimp only [decodeControl]; rw [h26, h0]
  show build _ _ _ = _
  simp [hb]
theorem tktest (d k : R5) : Statement (.tktest d k) := by
  intro hw next
  show decodeStream (encR 0x0F d k 0 0 1) next = .ok (.tktest d k)
  have hb := build_wf hw rfl
  rw [stream_control _ (by simp)]
  have h26 : (fld (encR 0x0F d k 0 0 1) 26 6).toNat = 15 := by simp
  have h0 : (fld (encR 0x0F d k 0 0 1) 0 6).toNat = 1 := by simp
  dsimp only [decodeControl]; rw [h26, h0]
  show build _ _ _ = _
  simp [hb]
theorem tkcnt (d k : R5) : Statement (.tkcnt d k) := by
  intro hw next
  show decodeStream (encR 0x0F d k 0 0 2) next = .ok (.tkcnt d k)
  have hb := build_wf hw rfl
  rw [stream_control _ (by simp)]
  have h26 : (fld (encR 0x0F d k 0 0 2) 26 6).toNat = 15 := by simp
  have h0 : (fld (encR 0x0F d k 0 0 2) 0 6).toNat = 2 := by simp
  dsimp only [decodeControl]; rw [h26, h0]
  show build _ _ _ = _
  simp [hb]
theorem ldb (d b : R5) (p : BitVec 2) (o : BitVec 11) : Statement (.ldb d b p o) := by
  intro hw next
  show decodeStream (encM 0x10 d b p 0 0 o) next = .ok (.ldb d b p o)
  rw [stream_memory _ (by simp)]
  have h26 : (fld (encM 0x10 d b p 0 0 o) 26 6).toNat = 16 := by simp
  have h12 : (fld (encM 0x10 d b p 0 0 o) 12 2).toNat = 0 := by simp
  have hs : (fld (encM 0x10 d b p 0 0 o) 11 1 == 1) = false := by simp
  dsimp only [decodeMemory]; rw [h26, h12, hs]
  show Except.ok _ = _
  simp
theorem ldh (d b : R5) (p : BitVec 2) (o : BitVec 11) : Statement (.ldh d b p o) := by
  intro hw next
  show decodeStream (encM 0x10 d b p 1 0 o) next = .ok (.ldh d b p o)
  rw [stream_memory _ (by simp)]
  have h26 : (fld (encM 0x10 d b p 1 0 o) 26 6).toNat = 16 := by simp
  have h12 : (fld (encM 0x10 d b p 1 0 o) 12 2).toNat = 1 := by simp
  have hs : (fld (encM 0x10 d b p 1 0 o) 11 1 == 1) = false := by simp
  dsimp only [decodeMemory]; rw [h26, h12, hs]
  show Except.ok _ = _
  simp
theorem ldw (d b : R5) (p : BitVec 2) (o : BitVec 11) : Statement (.ldw d b p o) := by
  intro hw next
  show decodeStream (encM 0x10 d b p 2 0 o) next = .ok (.ldw d b p o)
  rw [stream_memory _ (by simp)]
  have h26 : (fld (encM 0x10 d b p 2 0 o) 26 6).toNat = 16 := by simp
  have h12 : (fld (encM 0x10 d b p 2 0 o) 12 2).toNat = 2 := by simp
  have hs : (fld (encM 0x10 d b p 2 0 o) 11 1 == 1) = false := by simp
  dsimp only [decodeMemory]; rw [h26, h12, hs]
  show Except.ok _ = _
  simp
theorem ldd (d b : R5) (p : BitVec 2) (o : BitVec 11) : Statement (.ldd d b p o) := by
  intro hw next
  show decodeStream (encM 0x10 d b p 3 0 o) next = .ok (.ldd d b p o)
  rw [stream_memory _ (by simp)]
  have h26 : (fld (encM 0x10 d b p 3 0 o) 26 6).toNat = 16 := by simp
  have h12 : (fld (encM 0x10 d b p 3 0 o) 12 2).toNat = 3 := by simp
  have hs : (fld (encM 0x10 d b p 3 0 o) 11 1 == 1) = false := by simp
  dsimp only [decodeMemory]; rw [h26, h12, hs]
  show Except.ok _ = _
  simp
theorem ldbs (d b : R5) (p : BitVec 2) (o : BitVec 11) : Statement (.ldbs d b p o) := by
  intro hw next
  show decodeStream (encM 0x10 d b p 0 1 o) next = .ok (.ldbs d b p o)
  rw [stream_memory _ (by simp)]
  have h26 : (fld (encM 0x10 d b p 0 1 o) 26 6).toNat = 16 := by simp
  have h12 : (fld (encM 0x10 d b p 0 1 o) 12 2).toNat = 0 := by simp
  have hs : (fld (encM 0x10 d b p 0 1 o) 11 1 == 1) = true := by simp
  dsimp only [decodeMemory]; rw [h26, h12, hs]
  show Except.ok _ = _
  simp
theorem ldhs (d b : R5) (p : BitVec 2) (o : BitVec 11) : Statement (.ldhs d b p o) := by
  intro hw next
  show decodeStream (encM 0x10 d b p 1 1 o) next = .ok (.ldhs d b p o)
  rw [stream_memory _ (by simp)]
  have h26 : (fld (encM 0x10 d b p 1 1 o) 26 6).toNat = 16 := by simp
  have h12 : (fld (encM 0x10 d b p 1 1 o) 12 2).toNat = 1 := by simp
  have hs : (fld (encM 0x10 d b p 1 1 o) 11 1 == 1) = true := by simp
  dsimp only [decodeMemory]; rw [h26, h12, hs]
  show Except.ok _ = _
  simp
theorem ldws (d b : R5) (p : BitVec 2) (o : BitVec 11) : Statement (.ldws d b p o) := by
  intro hw next
  show decodeStream (encM 0x10 d b p 2 1 o) next = .ok (.ldws d b p o)
  rw [stream_memory _ (by simp)]
  have h26 : (fld (encM 0x10 d b p 2 1 o) 26 6).toNat = 16 := by simp
  have h12 : (fld (encM 0x10 d b p 2 1 o) 12 2).toNat = 2 := by simp
  have hs : (fld (encM 0x10 d b p 2 1 o) 11 1 == 1) = true := by simp
  dsimp only [decodeMemory]; rw [h26, h12, hs]
  show Except.ok _ = _
  simp
theorem stb (s b : R5) (p : BitVec 2) (o : BitVec 11) : Statement (.stb s b p o) := by
  intro hw next
  show decodeStream (encM 0x11 s b p 0 0 o) next = .ok (.stb s b p o)
  have hb := build_wf hw rfl
  rw [stream_memory _ (by simp)]
  have h26 : (fld (encM 0x11 s b p 0 0 o) 26 6).toNat = 17 := by simp
  have h12 : (fld (encM 0x11 s b p 0 0 o) 12 2).toNat = 0 := by simp
  dsimp only [decodeMemory]; rw [h26, h12]
  show build _ _ _ = _
  simp [hb]
theorem sth (s b : R5) (p : BitVec 2) (o : BitVec 11) : Statement (.sth s b p o) := by
  intro hw next
  show decodeStream (encM 0x11 s b p 1 0 o) next = .ok (.sth s b p o)
  have hb := build_wf hw rfl
  rw [stream_memory _ (by simp)]
  have h26 : (fld (encM 0x11 s b p 1 0 o) 26 6).toNat = 17 := by simp
  have h12 : (fld (encM 0x11 s b p 1 0 o) 12 2).toNat = 1 := by simp
  dsimp only [decodeMemory]; rw [h26, h12]
  show build _ _ _ = _
  simp [hb]
theorem stw (s b : R5) (p : BitVec 2) (o : BitVec 11) : Statement (.stw s b p o) := by
  intro hw next
  show decodeStream (encM 0x11 s b p 2 0 o) next = .ok (.stw s b p o)
  have hb := build_wf hw rfl
  rw [stream_memory _ (by simp)]
  have h26 : (fld (encM 0x11 s b p 2 0 o) 26 6).toNat = 17 := by simp
  have h12 : (fld (encM 0x11 s b p 2 0 o) 12 2).toNat = 2 := by simp
  dsimp only [decodeMemory]; rw [h26, h12]
  show build _ _ _ = _
  simp [hb]
theorem std (s b : R5) (p : BitVec 2) (o : BitVec 11) : Statement (.std s b p o) := by
  intro hw next
  show decodeStream (encM 0x11 s b p 3 0 o) next = .ok (.std s b p o)
  have hb := build_wf hw rfl
  rw [stream_memory _ (by simp)]
  have h26 : (fld (encM 0x11 s b p 3 0 o) 26 6).toNat = 17 := by simp
  have h12 : (fld (encM 0x11 s b p 3 0 o) 12 2).toNat = 3 := by simp
  dsimp only [decodeMemory]; rw [h26, h12]
  show build _ _ _ = _
  simp [hb]
theorem aswap (d a t : R5) (k c : BitVec 2) (z : BitVec 1) : Statement (.aswap d a t k c z) := by
  intro hw next
  show decodeStream (encR 0x12 d a t (k ++ c ++ z) 0) next = .ok (.aswap d a t k c z)
  have hb := build_wf hw rfl
  rw [stream_memory _ (by simp)]
  have h26 : (fld (encR 0x12 d a t (k ++ c ++ z) 0) 26 6).toNat = 18 := by simp
  have h0 : (fld (encR 0x12 d a t (k ++ c ++ z) 0) 0 6).toNat = 0 := by simp
  dsimp only [decodeMemory]; rw [h26, h0]
  show build _ _ _ = _
  simp [hb]
theorem acas (d a t : R5) (k c : BitVec 2) (z : BitVec 1) : Statement (.acas d a t k c z) := by
  intro hw next
  show decodeStream (encR 0x12 d a t (k ++ c ++ z) 1) next = .ok (.acas d a t k c z)
  have hb := build_wf hw rfl
  rw [stream_memory _ (by simp)]
  have h26 : (fld (encR 0x12 d a t (k ++ c ++ z) 1) 26 6).toNat = 18 := by simp
  have h0 : (fld (encR 0x12 d a t (k ++ c ++ z) 1) 0 6).toNat = 1 := by simp
  dsimp only [decodeMemory]; rw [h26, h0]
  show build _ _ _ = _
  simp [hb]
theorem aadd (d a t : R5) (k c : BitVec 2) (z : BitVec 1) : Statement (.aadd d a t k c z) := by
  intro hw next
  show decodeStream (encR 0x12 d a t (k ++ c ++ z) 2) next = .ok (.aadd d a t k c z)
  have hb := build_wf hw rfl
  rw [stream_memory _ (by simp)]
  have h26 : (fld (encR 0x12 d a t (k ++ c ++ z) 2) 26 6).toNat = 18 := by simp
  have h0 : (fld (encR 0x12 d a t (k ++ c ++ z) 2) 0 6).toNat = 2 := by simp
  dsimp only [decodeMemory]; rw [h26, h0]
  show build _ _ _ = _
  simp [hb]
theorem aand (d a t : R5) (k c : BitVec 2) (z : BitVec 1) : Statement (.aand d a t k c z) := by
  intro hw next
  show decodeStream (encR 0x12 d a t (k ++ c ++ z) 3) next = .ok (.aand d a t k c z)
  have hb := build_wf hw rfl
  rw [stream_memory _ (by simp)]
  have h26 : (fld (encR 0x12 d a t (k ++ c ++ z) 3) 26 6).toNat = 18 := by simp
  have h0 : (fld (encR 0x12 d a t (k ++ c ++ z) 3) 0 6).toNat = 3 := by simp
  dsimp only [decodeMemory]; rw [h26, h0]
  show build _ _ _ = _
  simp [hb]
theorem aor (d a t : R5) (k c : BitVec 2) (z : BitVec 1) : Statement (.aor d a t k c z) := by
  intro hw next
  show decodeStream (encR 0x12 d a t (k ++ c ++ z) 4) next = .ok (.aor d a t k c z)
  have hb := build_wf hw rfl
  rw [stream_memory _ (by simp)]
  have h26 : (fld (encR 0x12 d a t (k ++ c ++ z) 4) 26 6).toNat = 18 := by simp
  have h0 : (fld (encR 0x12 d a t (k ++ c ++ z) 4) 0 6).toNat = 4 := by simp
  dsimp only [decodeMemory]; rw [h26, h0]
  show build _ _ _ = _
  simp [hb]
theorem axor (d a t : R5) (k c : BitVec 2) (z : BitVec 1) : Statement (.axor d a t k c z) := by
  intro hw next
  show decodeStream (encR 0x12 d a t (k ++ c ++ z) 5) next = .ok (.axor d a t k c z)
  have hb := build_wf hw rfl
  rw [stream_memory _ (by simp)]
  have h26 : (fld (encR 0x12 d a t (k ++ c ++ z) 5) 26 6).toNat = 18 := by simp
  have h0 : (fld (encR 0x12 d a t (k ++ c ++ z) 5) 0 6).toNat = 5 := by simp
  dsimp only [decodeMemory]; rw [h26, h0]
  show build _ _ _ = _
  simp [hb]
theorem amin (d a t : R5) (k c : BitVec 2) (z : BitVec 1) : Statement (.amin d a t k c z) := by
  intro hw next
  show decodeStream (encR 0x12 d a t (k ++ c ++ z) 6) next = .ok (.amin d a t k c z)
  have hb := build_wf hw rfl
  rw [stream_memory _ (by simp)]
  have h26 : (fld (encR 0x12 d a t (k ++ c ++ z) 6) 26 6).toNat = 18 := by simp
  have h0 : (fld (encR 0x12 d a t (k ++ c ++ z) 6) 0 6).toNat = 6 := by simp
  dsimp only [decodeMemory]; rw [h26, h0]
  show build _ _ _ = _
  simp [hb]
theorem amax (d a t : R5) (k c : BitVec 2) (z : BitVec 1) : Statement (.amax d a t k c z) := by
  intro hw next
  show decodeStream (encR 0x12 d a t (k ++ c ++ z) 7) next = .ok (.amax d a t k c z)
  have hb := build_wf hw rfl
  rw [stream_memory _ (by simp)]
  have h26 : (fld (encR 0x12 d a t (k ++ c ++ z) 7) 26 6).toNat = 18 := by simp
  have h0 : (fld (encR 0x12 d a t (k ++ c ++ z) 7) 0 6).toNat = 7 := by simp
  dsimp only [decodeMemory]; rw [h26, h0]
  show build _ _ _ = _
  simp [hb]
theorem aminu (d a t : R5) (k c : BitVec 2) (z : BitVec 1) : Statement (.aminu d a t k c z) := by
  intro hw next
  show decodeStream (encR 0x12 d a t (k ++ c ++ z) 8) next = .ok (.aminu d a t k c z)
  have hb := build_wf hw rfl
  rw [stream_memory _ (by simp)]
  have h26 : (fld (encR 0x12 d a t (k ++ c ++ z) 8) 26 6).toNat = 18 := by simp
  have h0 : (fld (encR 0x12 d a t (k ++ c ++ z) 8) 0 6).toNat = 8 := by simp
  dsimp only [decodeMemory]; rw [h26, h0]
  show build _ _ _ = _
  simp [hb]
theorem amaxu (d a t : R5) (k c : BitVec 2) (z : BitVec 1) : Statement (.amaxu d a t k c z) := by
  intro hw next
  show decodeStream (encR 0x12 d a t (k ++ c ++ z) 9) next = .ok (.amaxu d a t k c z)
  have hb := build_wf hw rfl
  rw [stream_memory _ (by simp)]
  have h26 : (fld (encR 0x12 d a t (k ++ c ++ z) 9) 26 6).toNat = 18 := by simp
  have h0 : (fld (encR 0x12 d a t (k ++ c ++ z) 9) 0 6).toNat = 9 := by simp
  dsimp only [decodeMemory]; rw [h26, h0]
  show build _ _ _ = _
  simp [hb]
theorem qfill (b : R5) (q : BitVec 4) (p : BitVec 2) (o : BitVec 11) : Statement (.qfill b q p o) := by
  intro hw next
  show decodeStream (encQ 0x13 (r6 b) q p 0 o) next = .ok (.qfill b q p o)
  have hb := build_wf hw rfl
  rw [stream_memory _ (by simp)]
  have h26 : (fld (encQ 0x13 (r6 b) q p 0 o) 26 6).toNat = 19 := by simp
  have h11 : (fld (encQ 0x13 (r6 b) q p 0 o) 11 3).toNat = 0 := by simp
  dsimp only [decodeMemory]; rw [h26, h11]
  show build _ _ _ = _
  simp [hb]
theorem qstore (b : R5) (q : BitVec 4) (p : BitVec 2) (o : BitVec 11) : Statement (.qstore b q p o) := by
  intro hw next
  show decodeStream (encQ 0x13 (r6 b) q p 1 o) next = .ok (.qstore b q p o)
  have hb := build_wf hw rfl
  rw [stream_memory _ (by simp)]
  have h26 : (fld (encQ 0x13 (r6 b) q p 1 o) 26 6).toNat = 19 := by simp
  have h11 : (fld (encQ 0x13 (r6 b) q p 1 o) 11 3).toNat = 1 := by simp
  dsimp only [decodeMemory]; rw [h26, h11]
  show build _ _ _ = _
  simp [hb]
theorem qpopa (d : R5) (q : BitVec 4) : Statement (.qpopa d q) := by
  intro hw next
  show decodeStream (encQ 0x13 (r6 d) q 0 2 0) next = .ok (.qpopa d q)
  have hb := build_wf hw rfl
  rw [stream_memory _ (by simp)]
  have h26 : (fld (encQ 0x13 (r6 d) q 0 2 0) 26 6).toNat = 19 := by simp
  have h11 : (fld (encQ 0x13 (r6 d) q 0 2 0) 11 3).toNat = 2 := by simp
  dsimp only [decodeMemory]; rw [h26, h11]
  show build _ _ _ = _
  simp [hb]
theorem qbpush (f : F3) : Statement (.qbpush f) := by
  intro hw next
  show decodeStream (encQ 0x13 (z6 f) 8 0 3 0) next = .ok (.qbpush f)
  have hb := build_wf hw rfl
  rw [stream_memory _ (by simp)]
  have h26 : (fld (encQ 0x13 (z6 f) 8 0 3 0) 26 6).toNat = 19 := by simp
  have h11 : (fld (encQ 0x13 (z6 f) 8 0 3 0) 11 3).toNat = 3 := by simp
  dsimp only [decodeMemory]; rw [h26, h11]
  show build _ _ _ = _
  simp [hb]
theorem fence (k c : BitVec 2) : Statement (.fence k c) := by
  intro hw next
  show decodeStream (encR 0x14 0 0 0 (k ++ c ++ (0 : BitVec 1)) 0) next = .ok (.fence k c)
  have hb := build_wf hw rfl
  rw [stream_memory _ (by simp)]
  have h26 : (fld (encR 0x14 0 0 0 (k ++ c ++ (0 : BitVec 1)) 0) 26 6).toNat = 20 := by simp
  dsimp only [decodeMemory]; rw [h26]
  simp [hb]
theorem sqpush (f : F3) : Statement (.sqpush f) := by
  intro hw next
  show decodeStream (encR 0x15 (f5 f) 0 0 0 0) next = .ok (.sqpush f)
  have hb := build_wf hw rfl
  rw [stream_memory _ (by simp)]
  have h26 : (fld (encR 0x15 (f5 f) 0 0 0 0) 26 6).toNat = 21 := by simp
  have h0 : (fld (encR 0x15 (f5 f) 0 0 0 0) 0 6).toNat = 0 := by simp
  dsimp only [decodeMemory]; rw [h26, h0]
  show build _ _ _ = _
  simp [hb]
theorem enq (f : F3) (s : R5) : Statement (.enq f s) := by
  intro hw next
  show decodeStream (encR 0x15 (f5 f) s 0 0 1) next = .ok (.enq f s)
  have hb := build_wf hw rfl
  rw [stream_memory _ (by simp)]
  have h26 : (fld (encR 0x15 (f5 f) s 0 0 1) 26 6).toNat = 21 := by simp
  have h0 : (fld (encR 0x15 (f5 f) s 0 0 1) 0 6).toNat = 1 := by simp
  dsimp only [decodeMemory]; rw [h26, h0]
  show build _ _ _ = _
  simp [hb]
theorem bar : Statement .bar := by
  intro hw next
  show decodeStream (encR 0x15 0 0 0 0 2) next = .ok .bar
  have hb := build_wf hw rfl
  rw [stream_memory _ (by simp)]
  have h26 : (fld (encR 0x15 0 0 0 0 2) 26 6).toNat = 21 := by simp
  have h0 : (fld (encR 0x15 0 0 0 0 2) 0 6).toNat = 2 := by simp
  dsimp only [decodeMemory]; rw [h26, h0]
  show build _ _ _ = _
  simp [hb]
theorem vadd (y : Ty) (d a b : V6) (m : K4) : Statement (.vadd y d a b m) := by
  intro hw next
  show decodeStream (encV y.major d a b m 0) next = .ok (.vadd y d a b m)
  have hb := build_wf hw rfl
  rw [stream_varith _ (by cases y <;> first | exact Bool.noConfusion (show false = true from hw) | simp [Ty.major])]
  have h0 : (fld (encV y.major d a b m 0) 0 4).toNat = 0 := by simp
  dsimp only [decodeVArith]; rw [h0]
  cases y <;>
    first
    | exact Bool.noConfusion (show false = true from hw)
    | simp [hb, Ty.major, tyOfMajor, Ty.isInt]
theorem vsub (y : Ty) (d a b : V6) (m : K4) : Statement (.vsub y d a b m) := by
  intro hw next
  show decodeStream (encV y.major d a b m 1) next = .ok (.vsub y d a b m)
  have hb := build_wf hw rfl
  rw [stream_varith _ (by cases y <;> first | exact Bool.noConfusion (show false = true from hw) | simp [Ty.major])]
  have h0 : (fld (encV y.major d a b m 1) 0 4).toNat = 1 := by simp
  dsimp only [decodeVArith]; rw [h0]
  cases y <;>
    first
    | exact Bool.noConfusion (show false = true from hw)
    | simp [hb, Ty.major, tyOfMajor, Ty.isInt]
theorem vmul (y : Ty) (d a b : V6) (m : K4) : Statement (.vmul y d a b m) := by
  intro hw next
  show decodeStream (encV y.major d a b m 2) next = .ok (.vmul y d a b m)
  have hb := build_wf hw rfl
  rw [stream_varith _ (by cases y <;> first | exact Bool.noConfusion (show false = true from hw) | simp [Ty.major])]
  have h0 : (fld (encV y.major d a b m 2) 0 4).toNat = 2 := by simp
  dsimp only [decodeVArith]; rw [h0]
  cases y <;>
    first
    | exact Bool.noConfusion (show false = true from hw)
    | simp [hb, Ty.major, tyOfMajor, Ty.isInt]
theorem vmin (y : Ty) (d a b : V6) (m : K4) : Statement (.vmin y d a b m) := by
  intro hw next
  show decodeStream (encV y.major d a b m 3) next = .ok (.vmin y d a b m)
  have hb := build_wf hw rfl
  rw [stream_varith _ (by cases y <;> first | exact Bool.noConfusion (show false = true from hw) | simp [Ty.major])]
  have h0 : (fld (encV y.major d a b m 3) 0 4).toNat = 3 := by simp
  dsimp only [decodeVArith]; rw [h0]
  cases y <;>
    first
    | exact Bool.noConfusion (show false = true from hw)
    | simp [hb, Ty.major, tyOfMajor, Ty.isInt]
theorem vmax (y : Ty) (d a b : V6) (m : K4) : Statement (.vmax y d a b m) := by
  intro hw next
  show decodeStream (encV y.major d a b m 4) next = .ok (.vmax y d a b m)
  have hb := build_wf hw rfl
  rw [stream_varith _ (by cases y <;> first | exact Bool.noConfusion (show false = true from hw) | simp [Ty.major])]
  have h0 : (fld (encV y.major d a b m 4) 0 4).toNat = 4 := by simp
  dsimp only [decodeVArith]; rw [h0]
  cases y <;>
    first
    | exact Bool.noConfusion (show false = true from hw)
    | simp [hb, Ty.major, tyOfMajor, Ty.isInt]
theorem vand (y : Ty) (d a b : V6) (m : K4) : Statement (.vand y d a b m) := by
  intro hw next
  show decodeStream (encV y.major d a b m 5) next = .ok (.vand y d a b m)
  have hb := build_wf hw rfl
  rw [stream_varith _ (by cases y <;> first | exact Bool.noConfusion (show false = true from hw) | simp [Ty.major])]
  have h0 : (fld (encV y.major d a b m 5) 0 4).toNat = 5 := by simp
  dsimp only [decodeVArith]; rw [h0]
  cases y <;>
    first
    | exact Bool.noConfusion (show false = true from hw)
    | simp [hb, Ty.major, tyOfMajor, Ty.isInt]
theorem vor (y : Ty) (d a b : V6) (m : K4) : Statement (.vor y d a b m) := by
  intro hw next
  show decodeStream (encV y.major d a b m 6) next = .ok (.vor y d a b m)
  have hb := build_wf hw rfl
  rw [stream_varith _ (by cases y <;> first | exact Bool.noConfusion (show false = true from hw) | simp [Ty.major])]
  have h0 : (fld (encV y.major d a b m 6) 0 4).toNat = 6 := by simp
  dsimp only [decodeVArith]; rw [h0]
  cases y <;>
    first
    | exact Bool.noConfusion (show false = true from hw)
    | simp [hb, Ty.major, tyOfMajor, Ty.isInt]
theorem vxor (y : Ty) (d a b : V6) (m : K4) : Statement (.vxor y d a b m) := by
  intro hw next
  show decodeStream (encV y.major d a b m 7) next = .ok (.vxor y d a b m)
  have hb := build_wf hw rfl
  rw [stream_varith _ (by cases y <;> first | exact Bool.noConfusion (show false = true from hw) | simp [Ty.major])]
  have h0 : (fld (encV y.major d a b m 7) 0 4).toNat = 7 := by simp
  dsimp only [decodeVArith]; rw [h0]
  cases y <;>
    first
    | exact Bool.noConfusion (show false = true from hw)
    | simp [hb, Ty.major, tyOfMajor, Ty.isInt]
theorem vdiv (y : Ty) (d a b : V6) (m : K4) : Statement (.vdiv y d a b m) := by
  intro hw next
  show decodeStream (encV y.major d a b m 5) next = .ok (.vdiv y d a b m)
  have hb := build_wf hw rfl
  rw [stream_varith _ (by cases y <;> first | exact Bool.noConfusion (show false = true from hw) | simp [Ty.major])]
  have h0 : (fld (encV y.major d a b m 5) 0 4).toNat = 5 := by simp
  dsimp only [decodeVArith]; rw [h0]
  cases y <;>
    first
    | exact Bool.noConfusion (show false = true from hw)
    | simp [hb, Ty.major, tyOfMajor, Ty.isInt]
theorem vsqrt (y : Ty) (d a : V6) (m : K4) : Statement (.vsqrt y d a m) := by
  intro hw next
  show decodeStream (encV y.major d a 0 m 6) next = .ok (.vsqrt y d a m)
  have hb := build_wf hw rfl
  rw [stream_varith _ (by cases y <;> first | exact Bool.noConfusion (show false = true from hw) | simp [Ty.major])]
  have h0 : (fld (encV y.major d a 0 m 6) 0 4).toNat = 6 := by simp
  dsimp only [decodeVArith]; rw [h0]
  cases y <;>
    first
    | exact Bool.noConfusion (show false = true from hw)
    | simp [hb, Ty.major, tyOfMajor, Ty.isInt]
theorem vmac (y : Ty) (d a b : V6) (m : K4) : Statement (.vmac y d a b m) := by
  intro hw next
  show decodeStream (encV y.major d a b m 7) next = .ok (.vmac y d a b m)
  have hb := build_wf hw rfl
  rw [stream_varith _ (by cases y <;> first | exact Bool.noConfusion (show false = true from hw) | simp [Ty.major])]
  have h0 : (fld (encV y.major d a b m 7) 0 4).toNat = 7 := by simp
  dsimp only [decodeVArith]; rw [h0]
  cases y <;>
    first
    | exact Bool.noConfusion (show false = true from hw)
    | simp [hb, Ty.major, tyOfMajor, Ty.isInt]
theorem vshl (y : Ty) (d a b : V6) (m : K4) : Statement (.vshl y d a b m) := by
  intro hw next
  show decodeStream (encV y.major d a b m 8) next = .ok (.vshl y d a b m)
  have hb := build_wf hw rfl
  rw [stream_varith _ (by cases y <;> first | exact Bool.noConfusion (show false = true from hw) | simp [Ty.major])]
  have h0 : (fld (encV y.major d a b m 8) 0 4).toNat = 8 := by simp
  dsimp only [decodeVArith]; rw [h0]
  cases y <;>
    first
    | exact Bool.noConfusion (show false = true from hw)
    | simp [hb, Ty.major, tyOfMajor, Ty.isInt]
theorem vshr (y : Ty) (d a b : V6) (m : K4) : Statement (.vshr y d a b m) := by
  intro hw next
  show decodeStream (encV y.major d a b m 9) next = .ok (.vshr y d a b m)
  have hb := build_wf hw rfl
  rw [stream_varith _ (by cases y <;> first | exact Bool.noConfusion (show false = true from hw) | simp [Ty.major])]
  have h0 : (fld (encV y.major d a b m 9) 0 4).toNat = 9 := by simp
  dsimp only [decodeVArith]; rw [h0]
  cases y <;>
    first
    | exact Bool.noConfusion (show false = true from hw)
    | simp [hb, Ty.major, tyOfMajor, Ty.isInt]
theorem vadds (y : Ty) (d a b : V6) (m : K4) : Statement (.vadds y d a b m) := by
  intro hw next
  show decodeStream (encV y.major d a b m 10) next = .ok (.vadds y d a b m)
  have hb := build_wf hw rfl
  rw [stream_varith _ (by cases y <;> first | exact Bool.noConfusion (show false = true from hw) | simp [Ty.major])]
  have h0 : (fld (encV y.major d a b m 10) 0 4).toNat = 10 := by simp
  dsimp only [decodeVArith]; rw [h0]
  cases y <;>
    first
    | exact Bool.noConfusion (show false = true from hw)
    | simp [hb, Ty.major, tyOfMajor, Ty.isInt]
theorem vsubs (y : Ty) (d a b : V6) (m : K4) : Statement (.vsubs y d a b m) := by
  intro hw next
  show decodeStream (encV y.major d a b m 11) next = .ok (.vsubs y d a b m)
  have hb := build_wf hw rfl
  rw [stream_varith _ (by cases y <;> first | exact Bool.noConfusion (show false = true from hw) | simp [Ty.major])]
  have h0 : (fld (encV y.major d a b m 11) 0 4).toNat = 11 := by simp
  dsimp only [decodeVArith]; rw [h0]
  cases y <;>
    first
    | exact Bool.noConfusion (show false = true from hw)
    | simp [hb, Ty.major, tyOfMajor, Ty.isInt]
theorem vcmpeq (y : Ty) (k : K4) (a b : V6) (m : K4) : Statement (.vcmpeq y k a b m) := by
  intro hw next
  show decodeStream (encV y.major (k6 k) a b m 12) next = .ok (.vcmpeq y k a b m)
  have hb := build_wf hw rfl
  rw [stream_varith _ (by cases y <;> first | exact Bool.noConfusion (show false = true from hw) | simp [Ty.major])]
  have h0 : (fld (encV y.major (k6 k) a b m 12) 0 4).toNat = 12 := by simp
  dsimp only [decodeVArith]; rw [h0]
  cases y <;>
    first
    | exact Bool.noConfusion (show false = true from hw)
    | simp [hb, Ty.major, tyOfMajor, Ty.isInt]
theorem vcmplt (y : Ty) (k : K4) (a b : V6) (m : K4) : Statement (.vcmplt y k a b m) := by
  intro hw next
  show decodeStream (encV y.major (k6 k) a b m 13) next = .ok (.vcmplt y k a b m)
  have hb := build_wf hw rfl
  rw [stream_varith _ (by cases y <;> first | exact Bool.noConfusion (show false = true from hw) | simp [Ty.major])]
  have h0 : (fld (encV y.major (k6 k) a b m 13) 0 4).toNat = 13 := by simp
  dsimp only [decodeVArith]; rw [h0]
  cases y <;>
    first
    | exact Bool.noConfusion (show false = true from hw)
    | simp [hb, Ty.major, tyOfMajor, Ty.isInt]
theorem vcmple (y : Ty) (k : K4) (a b : V6) (m : K4) : Statement (.vcmple y k a b m) := by
  intro hw next
  show decodeStream (encV y.major (k6 k) a b m 14) next = .ok (.vcmple y k a b m)
  have hb := build_wf hw rfl
  rw [stream_varith _ (by cases y <;> first | exact Bool.noConfusion (show false = true from hw) | simp [Ty.major])]
  have h0 : (fld (encV y.major (k6 k) a b m 14) 0 4).toNat = 14 := by simp
  dsimp only [decodeVArith]; rw [h0]
  cases y <;>
    first
    | exact Bool.noConfusion (show false = true from hw)
    | simp [hb, Ty.major, tyOfMajor, Ty.isInt]
theorem vrsum (y : Ty) (d a : V6) (m : K4) : Statement (.vrsum y d a m) := by
  intro hw next
  show decodeStream (encV y.major d a 0 m 15) next = .ok (.vrsum y d a m)
  have hb := build_wf hw rfl
  rw [stream_varith _ (by cases y <;> first | exact Bool.noConfusion (show false = true from hw) | simp [Ty.major])]
  have h0 : (fld (encV y.major d a 0 m 15) 0 4).toNat = 15 := by simp
  dsimp only [decodeVArith]; rw [h0]
  cases y <;>
    first
    | exact Bool.noConfusion (show false = true from hw)
    | simp [hb, Ty.major, tyOfMajor, Ty.isInt]
theorem vrmin (y : Ty) (d a : V6) (m : K4) : Statement (.vrmin y d a m) := by
  intro hw next
  show decodeStream (encV y.major d a 1 m 15) next = .ok (.vrmin y d a m)
  have hb := build_wf hw rfl
  rw [stream_varith _ (by cases y <;> first | exact Bool.noConfusion (show false = true from hw) | simp [Ty.major])]
  have h0 : (fld (encV y.major d a 1 m 15) 0 4).toNat = 15 := by simp
  dsimp only [decodeVArith]; rw [h0]
  cases y <;>
    first
    | exact Bool.noConfusion (show false = true from hw)
    | simp [hb, Ty.major, tyOfMajor, Ty.isInt]
theorem vrmax (y : Ty) (d a : V6) (m : K4) : Statement (.vrmax y d a m) := by
  intro hw next
  show decodeStream (encV y.major d a 2 m 15) next = .ok (.vrmax y d a m)
  have hb := build_wf hw rfl
  rw [stream_varith _ (by cases y <;> first | exact Bool.noConfusion (show false = true from hw) | simp [Ty.major])]
  have h0 : (fld (encV y.major d a 2 m 15) 0 4).toNat = 15 := by simp
  dsimp only [decodeVArith]; rw [h0]
  cases y <;>
    first
    | exact Bool.noConfusion (show false = true from hw)
    | simp [hb, Ty.major, tyOfMajor, Ty.isInt]
theorem vrsumc (y : Ty) (d a : V6) (m : K4) : Statement (.vrsumc y d a m) := by
  intro hw next
  show decodeStream (encV y.major d a 3 m 15) next = .ok (.vrsumc y d a m)
  have hb := build_wf hw rfl
  rw [stream_varith _ (by cases y <;> first | exact Bool.noConfusion (show false = true from hw) | simp [Ty.major])]
  have h0 : (fld (encV y.major d a 3 m 15) 0 4).toNat = 15 := by simp
  dsimp only [decodeVArith]; rw [h0]
  cases y <;>
    first
    | exact Bool.noConfusion (show false = true from hw)
    | simp [hb, Ty.major, tyOfMajor, Ty.isInt]
theorem vfma (d a b c : V6) (f : BitVec 2) : Statement (.vfma d a b c f) := by
  intro hw next
  show decodeStream (encVF d a b c f) next = .ok (.vfma d a b c f)
  rw [stream_vector _ (by simp)]
  have h26 : (fld (encVF d a b c f) 26 6).toNat = 35 := by simp
  dsimp only [decodeVector]; rw [h26]
  show Except.ok _ = _
  simp
theorem vcvt (t s : Ty) (d a b : V6) : Statement (.vcvt t s d a b) := by
  intro hw next
  show decodeStream (encV 0x24 d a b s.code t.code.toNat) next = .ok (.vcvt t s d a b)
  have hb := build_wf hw rfl
  rw [stream_vector _ (by simp)]
  have h26 : (fld (encV 0x24 d a b s.code t.code.toNat) 26 6).toNat = 36 := by simp
  dsimp only [decodeVector]; rw [h26]
  show build _ _ _ = _
  simp [hb]
theorem vperm (y : Ty) (d a b : V6) : Statement (.vperm y d a b) := by
  intro hw next
  show decodeStream (encV 0x25 d a b y.code 0) next = .ok (.vperm y d a b)
  have hb := build_wf hw rfl
  rw [stream_vector _ (by simp)]
  have h26 : (fld (encV 0x25 d a b y.code 0) 26 6).toNat = 37 := by simp
  have h0 : (fld (encV 0x25 d a b y.code 0) 0 4).toNat = 0 := by simp
  dsimp only [decodeVector]; rw [h26, h0]
  show build _ _ _ = _
  simp [hb]
theorem vbcstx (y : Ty) (d : V6) (x : R5) : Statement (.vbcstx y d x) := by
  intro hw next
  show decodeStream (encV 0x25 d (r6 x) 0 y.code 1) next = .ok (.vbcstx y d x)
  have hb := build_wf hw rfl
  rw [stream_vector _ (by simp)]
  have h26 : (fld (encV 0x25 d (r6 x) 0 y.code 1) 26 6).toNat = 37 := by simp
  have h0 : (fld (encV 0x25 d (r6 x) 0 y.code 1) 0 4).toNat = 1 := by simp
  dsimp only [decodeVector]; rw [h26, h0]
  show build _ _ _ = _
  simp [hb]
theorem vbcste (y : Ty) (d a : V6) (x : R5) : Statement (.vbcste y d a x) := by
  intro hw next
  show decodeStream (encV 0x25 d a (r6 x) y.code 2) next = .ok (.vbcste y d a x)
  have hb := build_wf hw rfl
  rw [stream_vector _ (by simp)]
  have h26 : (fld (encV 0x25 d a (r6 x) y.code 2) 26 6).toNat = 37 := by simp
  have h0 : (fld (encV 0x25 d a (r6 x) y.code 2) 0 4).toNat = 2 := by simp
  dsimp only [decodeVector]; rw [h26, h0]
  show build _ _ _ = _
  simp [hb]
theorem vcompress (y : Ty) (d a : V6) (k : K4) : Statement (.vcompress y d a k) := by
  intro hw next
  show decodeStream (encV 0x25 d a (k6 k) y.code 3) next = .ok (.vcompress y d a k)
  have hb := build_wf hw rfl
  rw [stream_vector _ (by simp)]
  have h26 : (fld (encV 0x25 d a (k6 k) y.code 3) 26 6).toNat = 37 := by simp
  have h0 : (fld (encV 0x25 d a (k6 k) y.code 3) 0 4).toNat = 3 := by simp
  dsimp only [decodeVector]; rw [h26, h0]
  show build _ _ _ = _
  simp [hb]
theorem vexpand (y : Ty) (d a : V6) (k : K4) : Statement (.vexpand y d a k) := by
  intro hw next
  show decodeStream (encV 0x25 d a (k6 k) y.code 4) next = .ok (.vexpand y d a k)
  have hb := build_wf hw rfl
  rw [stream_vector _ (by simp)]
  have h26 : (fld (encV 0x25 d a (k6 k) y.code 4) 26 6).toNat = 37 := by simp
  have h0 : (fld (encV 0x25 d a (k6 k) y.code 4) 0 4).toNat = 4 := by simp
  dsimp only [decodeVector]; rw [h26, h0]
  show build _ _ _ = _
  simp [hb]
theorem kand (d a b : K4) : Statement (.kand d a b) := by
  intro hw next
  show decodeStream (encV 0x25 (k6 d) (k6 a) (k6 b) 0 5) next = .ok (.kand d a b)
  have hb := build_wf hw rfl
  rw [stream_vector _ (by simp)]
  have h26 : (fld (encV 0x25 (k6 d) (k6 a) (k6 b) 0 5) 26 6).toNat = 37 := by simp
  have h0 : (fld (encV 0x25 (k6 d) (k6 a) (k6 b) 0 5) 0 4).toNat = 5 := by simp
  dsimp only [decodeVector]; rw [h26, h0]
  show build _ _ _ = _
  simp [hb]
theorem kor (d a b : K4) : Statement (.kor d a b) := by
  intro hw next
  show decodeStream (encV 0x25 (k6 d) (k6 a) (k6 b) 0 6) next = .ok (.kor d a b)
  have hb := build_wf hw rfl
  rw [stream_vector _ (by simp)]
  have h26 : (fld (encV 0x25 (k6 d) (k6 a) (k6 b) 0 6) 26 6).toNat = 37 := by simp
  have h0 : (fld (encV 0x25 (k6 d) (k6 a) (k6 b) 0 6) 0 4).toNat = 6 := by simp
  dsimp only [decodeVector]; rw [h26, h0]
  show build _ _ _ = _
  simp [hb]
theorem kxor (d a b : K4) : Statement (.kxor d a b) := by
  intro hw next
  show decodeStream (encV 0x25 (k6 d) (k6 a) (k6 b) 0 7) next = .ok (.kxor d a b)
  have hb := build_wf hw rfl
  rw [stream_vector _ (by simp)]
  have h26 : (fld (encV 0x25 (k6 d) (k6 a) (k6 b) 0 7) 26 6).toNat = 37 := by simp
  have h0 : (fld (encV 0x25 (k6 d) (k6 a) (k6 b) 0 7) 0 4).toNat = 7 := by simp
  dsimp only [decodeVector]; rw [h26, h0]
  show build _ _ _ = _
  simp [hb]
theorem kandn (d a b : K4) : Statement (.kandn d a b) := by
  intro hw next
  show decodeStream (encV 0x25 (k6 d) (k6 a) (k6 b) 0 8) next = .ok (.kandn d a b)
  have hb := build_wf hw rfl
  rw [stream_vector _ (by simp)]
  have h26 : (fld (encV 0x25 (k6 d) (k6 a) (k6 b) 0 8) 26 6).toNat = 37 := by simp
  have h0 : (fld (encV 0x25 (k6 d) (k6 a) (k6 b) 0 8) 0 4).toNat = 8 := by simp
  dsimp only [decodeVector]; rw [h26, h0]
  show build _ _ _ = _
  simp [hb]
theorem knot (d a : K4) : Statement (.knot d a) := by
  intro hw next
  show decodeStream (encV 0x25 (k6 d) (k6 a) 0 0 9) next = .ok (.knot d a)
  have hb := build_wf hw rfl
  rw [stream_vector _ (by simp)]
  have h26 : (fld (encV 0x25 (k6 d) (k6 a) 0 0 9) 26 6).toNat = 37 := by simp
  have h0 : (fld (encV 0x25 (k6 d) (k6 a) 0 0 9) 0 4).toNat = 9 := by simp
  dsimp only [decodeVector]; rw [h26, h0]
  show build _ _ _ = _
  simp [hb]
theorem kmovx (d : K4) (x : R5) : Statement (.kmovx d x) := by
  intro hw next
  show decodeStream (encV 0x25 (k6 d) (r6 x) 0 0 10) next = .ok (.kmovx d x)
  have hb := build_wf hw rfl
  rw [stream_vector _ (by simp)]
  have h26 : (fld (encV 0x25 (k6 d) (r6 x) 0 0 10) 26 6).toNat = 37 := by simp
  have h0 : (fld (encV 0x25 (k6 d) (r6 x) 0 0 10) 0 4).toNat = 10 := by simp
  dsimp only [decodeVector]; rw [h26, h0]
  show build _ _ _ = _
  simp [hb]
theorem xmovk (d : R5) (a : K4) : Statement (.xmovk d a) := by
  intro hw next
  show decodeStream (encV 0x25 (r6 d) (k6 a) 0 0 11) next = .ok (.xmovk d a)
  have hb := build_wf hw rfl
  rw [stream_vector _ (by simp)]
  have h26 : (fld (encV 0x25 (r6 d) (k6 a) 0 0 11) 26 6).toNat = 37 := by simp
  have h0 : (fld (encV 0x25 (r6 d) (k6 a) 0 0 11) 0 4).toNat = 11 := by simp
  dsimp only [decodeVector]; rw [h26, h0]
  show build _ _ _ = _
  simp [hb]
theorem vmov (d a : V6) (m : K4) : Statement (.vmov d a m) := by
  intro hw next
  show decodeStream (encV 0x25 d a 0 m 12) next = .ok (.vmov d a m)
  have hb := build_wf hw rfl
  rw [stream_vector _ (by simp)]
  have h26 : (fld (encV 0x25 d a 0 m 12) 26 6).toNat = 37 := by simp
  have h0 : (fld (encV 0x25 d a 0 m 12) 0 4).toNat = 12 := by simp
  dsimp only [decodeVector]; rw [h26, h0]
  show build _ _ _ = _
  simp [hb]
theorem vld (d : V6) (x : R5) (n : BitVec 3) (m : K4) (o : BitVec 6) : Statement (.vld d x n m o) := by
  intro hw next
  show decodeStream (encVM d x n 0 m o) next = .ok (.vld d x n m o)
  have hb := build_wf hw rfl
  rw [stream_vector _ (by simp)]
  have h26 : (fld (encVM d x n 0 m o) 26 6).toNat = 38 := by simp
  have h10 : (fld (encVM d x n 0 m o) 10 2).toNat = 0 := by simp
  dsimp only [decodeVector]; rw [h26, h10]
  show build _ _ _ = _
  simp [hb]
theorem vst (d : V6) (x : R5) (n : BitVec 3) (m : K4) (o : BitVec 6) : Statement (.vst d x n m o) := by
  intro hw next
  show decodeStream (encVM d x n 1 m o) next = .ok (.vst d x n m o)
  have hb := build_wf hw rfl
  rw [stream_vector _ (by simp)]
  have h26 : (fld (encVM d x n 1 m o) 26 6).toNat = 38 := by simp
  have h10 : (fld (encVM d x n 1 m o) 10 2).toNat = 1 := by simp
  dsimp only [decodeVector]; rw [h26, h10]
  show build _ _ _ = _
  simp [hb]
theorem vldc (d : V6) (x : R5) (n : BitVec 3) (m : K4) (o : BitVec 6) : Statement (.vldc d x n m o) := by
  intro hw next
  show decodeStream (encVM d x n 2 m o) next = .ok (.vldc d x n m o)
  have hb := build_wf hw rfl
  rw [stream_vector _ (by simp)]
  have h26 : (fld (encVM d x n 2 m o) 26 6).toNat = 38 := by simp
  have h10 : (fld (encVM d x n 2 m o) 10 2).toNat = 2 := by simp
  dsimp only [decodeVector]; rw [h26, h10]
  show build _ _ _ = _
  simp [hb]
theorem vstc (d : V6) (x : R5) (n : BitVec 3) (m : K4) (o : BitVec 6) : Statement (.vstc d x n m o) := by
  intro hw next
  show decodeStream (encVM d x n 3 m o) next = .ok (.vstc d x n m o)
  have hb := build_wf hw rfl
  rw [stream_vector _ (by simp)]
  have h26 : (fld (encVM d x n 3 m o) 26 6).toNat = 38 := by simp
  have h10 : (fld (encVM d x n 3 m o) 10 2).toNat = 3 := by simp
  dsimp only [decodeVector]; rw [h26, h10]
  show build _ _ _ = _
  simp [hb]
theorem qpopv (v : V6) (q : BitVec 4) : Statement (.qpopv v q) := by
  intro hw next
  show decodeStream (encQ 0x27 v q 0 0 0) next = .ok (.qpopv v q)
  have hb := build_wf hw rfl
  rw [stream_vector _ (by simp)]
  have h26 : (fld (encQ 0x27 v q 0 0 0) 26 6).toNat = 39 := by simp
  have h11 : (fld (encQ 0x27 v q 0 0 0) 11 3).toNat = 0 := by simp
  dsimp only [decodeVector]; rw [h26, h11]
  show build _ _ _ = _
  simp [hb]
theorem qpopx (x : R5) (q : BitVec 4) : Statement (.qpopx x q) := by
  intro hw next
  show decodeStream (encQ 0x27 (r6 x) q 0 1 0) next = .ok (.qpopx x q)
  have hb := build_wf hw rfl
  rw [stream_vector _ (by simp)]
  have h26 : (fld (encQ 0x27 (r6 x) q 0 1 0) 26 6).toNat = 39 := by simp
  have h11 : (fld (encQ 0x27 (r6 x) q 0 1 0) 11 3).toNat = 1 := by simp
  dsimp only [decodeVector]; rw [h26, h11]
  show build _ _ _ = _
  simp [hb]
theorem qpushv (v : V6) (q : BitVec 4) : Statement (.qpushv v q) := by
  intro hw next
  show decodeStream (encQ 0x27 v q 0 2 0) next = .ok (.qpushv v q)
  have hb := build_wf hw rfl
  rw [stream_vector _ (by simp)]
  have h26 : (fld (encQ 0x27 v q 0 2 0) 26 6).toNat = 39 := by simp
  have h11 : (fld (encQ 0x27 v q 0 2 0) 11 3).toNat = 2 := by simp
  dsimp only [decodeVector]; rw [h26, h11]
  show build _ _ _ = _
  simp [hb]
theorem qpushx (x : R5) (q : BitVec 4) : Statement (.qpushx x q) := by
  intro hw next
  show decodeStream (encQ 0x27 (r6 x) q 0 3 0) next = .ok (.qpushx x q)
  have hb := build_wf hw rfl
  rw [stream_vector _ (by simp)]
  have h26 : (fld (encQ 0x27 (r6 x) q 0 3 0) 26 6).toNat = 39 := by simp
  have h11 : (fld (encQ 0x27 (r6 x) q 0 3 0) 11 3).toNat = 3 := by simp
  dsimp only [decodeVector]; rw [h26, h11]
  show build _ _ _ = _
  simp [hb]
theorem zclr (z : BitVec 3) (t : BitVec 4) : Statement (.zclr z t) := by
  intro hw next
  show decodeStream (encV 0x28 0 (z6 z) 0 t 0) next = .ok (.zclr z t)
  have hb := build_wf hw rfl
  rw [stream_vector _ (by simp)]
  have h26 : (fld (encV 0x28 0 (z6 z) 0 t 0) 26 6).toNat = 40 := by simp
  have h0 : (fld (encV 0x28 0 (z6 z) 0 t 0) 0 4).toNat = 0 := by simp
  dsimp only [decodeVector]; rw [h26, h0]
  show build _ _ _ = _
  simp [hb]
theorem zrd (d : V6) (z : BitVec 3) (r : R5) : Statement (.zrd d z r) := by
  intro hw next
  show decodeStream (encV 0x28 d (z6 z) (r6 r) 0 1) next = .ok (.zrd d z r)
  rw [stream_vector _ (by simp)]
  have h26 : (fld (encV 0x28 d (z6 z) (r6 r) 0 1) 26 6).toNat = 40 := by simp
  have h0 : (fld (encV 0x28 d (z6 z) (r6 r) 0 1) 0 4).toNat = 1 := by simp
  dsimp only [decodeVector]; rw [h26, h0]
  simp
theorem zwr (d : V6) (z : BitVec 3) (r : R5) (t : BitVec 4) : Statement (.zwr d z r t) := by
  intro hw next
  show decodeStream (encV 0x28 d (z6 z) (r6 r) t 2) next = .ok (.zwr d z r t)
  rw [stream_vector _ (by simp)]
  have h26 : (fld (encV 0x28 d (z6 z) (r6 r) t 2) 26 6).toNat = 40 := by simp
  have h0 : (fld (encV 0x28 d (z6 z) (r6 r) t 2) 0 4).toNat = 2 := by simp
  have hw2 : (operandCause (.zwr d z r t) == none) = true := hw
  simp [operandCause, firstCause] at hw2
  dsimp only [decodeVector]; rw [h26, h0]
  simp [hw2]
theorem zcvt (z : BitVec 3) (t : BitVec 4) : Statement (.zcvt z t) := by
  intro hw next
  show decodeStream (encV 0x28 0 (z6 z) 0 t 3) next = .ok (.zcvt z t)
  have hb := build_wf hw rfl
  rw [stream_vector _ (by simp)]
  have h26 : (fld (encV 0x28 0 (z6 z) 0 t 3) 26 6).toNat = 40 := by simp
  have h0 : (fld (encV 0x28 0 (z6 z) 0 t 3) 0 4).toNat = 3 := by simp
  dsimp only [decodeVector]; rw [h26, h0]
  show build _ _ _ = _
  simp [hb]
theorem mcfgwr (s : R5) : Statement (.mcfgwr s) := by
  intro hw next
  show decodeStream (encR 0x29 0 s 0 0 0) next = .ok (.mcfgwr s)
  have hb := build_wf hw rfl
  rw [stream_vector _ (by simp)]
  have h26 : (fld (encR 0x29 0 s 0 0 0) 26 6).toNat = 41 := by simp
  have h0 : (fld (encR 0x29 0 s 0 0 0) 0 6).toNat = 0 := by simp
  dsimp only [decodeVector]; rw [h26, h0]
  show build _ _ _ = _
  simp [hb]
theorem mcfgrd (d : R5) : Statement (.mcfgrd d) := by
  intro hw next
  show decodeStream (encR 0x29 d 0 0 0 1) next = .ok (.mcfgrd d)
  have hb := build_wf hw rfl
  rw [stream_vector _ (by simp)]
  have h26 : (fld (encR 0x29 d 0 0 0 1) 26 6).toNat = 41 := by simp
  have h0 : (fld (encR 0x29 d 0 0 0 1) 0 6).toNat = 1 := by simp
  dsimp only [decodeVector]; rw [h26, h0]
  show build _ _ _ = _
  simp [hb]
theorem csrrd (d : R5) (c : BitVec 10) : Statement (.csrrd d c) := by
  intro hw next
  show decodeStream (encS 0x2C (r6 d) 0 c 0) next = .ok (.csrrd d c)
  have hb := build_wf hw rfl
  rw [stream_system _ (by simp)]
  have h26 : (fld (encS 0x2C (r6 d) 0 c 0) 26 6).toNat = 44 := by simp
  have h0 : (fld (encS 0x2C (r6 d) 0 c 0) 0 4).toNat = 0 := by simp
  dsimp only [decodeSystem]; rw [h26, h0]
  show build _ _ _ = _
  simp [hb]
theorem csrwr (s : R5) (c : BitVec 10) : Statement (.csrwr s c) := by
  intro hw next
  show decodeStream (encS 0x2C 0 (r6 s) c 1) next = .ok (.csrwr s c)
  have hb := build_wf hw rfl
  rw [stream_system _ (by simp)]
  have h26 : (fld (encS 0x2C 0 (r6 s) c 1) 26 6).toNat = 44 := by simp
  have h0 : (fld (encS 0x2C 0 (r6 s) c 1) 0 4).toNat = 1 := by simp
  dsimp only [decodeSystem]; rw [h26, h0]
  show build _ _ _ = _
  simp [hb]
theorem csrset (s : R5) (c : BitVec 10) : Statement (.csrset s c) := by
  intro hw next
  show decodeStream (encS 0x2C 0 (r6 s) c 2) next = .ok (.csrset s c)
  have hb := build_wf hw rfl
  rw [stream_system _ (by simp)]
  have h26 : (fld (encS 0x2C 0 (r6 s) c 2) 26 6).toNat = 44 := by simp
  have h0 : (fld (encS 0x2C 0 (r6 s) c 2) 0 4).toNat = 2 := by simp
  dsimp only [decodeSystem]; rw [h26, h0]
  show build _ _ _ = _
  simp [hb]
theorem csrclr (s : R5) (c : BitVec 10) : Statement (.csrclr s c) := by
  intro hw next
  show decodeStream (encS 0x2C 0 (r6 s) c 3) next = .ok (.csrclr s c)
  have hb := build_wf hw rfl
  rw [stream_system _ (by simp)]
  have h26 : (fld (encS 0x2C 0 (r6 s) c 3) 26 6).toNat = 44 := by simp
  have h0 : (fld (encS 0x2C 0 (r6 s) c 3) 0 4).toNat = 3 := by simp
  dsimp only [decodeSystem]; rw [h26, h0]
  show build _ _ _ = _
  simp [hb]
theorem trap (c : BitVec 10) : Statement (.trap c) := by
  intro hw next
  show decodeStream (encS 0x2D 0 0 c 0) next = .ok (.trap c)
  have hb := build_wf hw rfl
  rw [stream_system _ (by simp)]
  have h26 : (fld (encS 0x2D 0 0 c 0) 26 6).toNat = 45 := by simp
  have h0 : (fld (encS 0x2D 0 0 c 0) 0 4).toNat = 0 := by simp
  dsimp only [decodeSystem]; rw [h26, h0]
  show build _ _ _ = _
  simp [hb]
theorem tret : Statement .tret := by
  intro hw next
  show decodeStream (encS 0x2D 0 0 0 1) next = .ok .tret
  have hb := build_wf hw rfl
  rw [stream_system _ (by simp)]
  have h26 : (fld (encS 0x2D 0 0 0 1) 26 6).toNat = 45 := by simp
  have h0 : (fld (encS 0x2D 0 0 0 1) 0 4).toNat = 1 := by simp
  dsimp only [decodeSystem]; rw [h26, h0]
  show build _ _ _ = _
  simp [hb]
theorem step : Statement .step := by
  intro hw next
  show decodeStream (encS 0x2D 0 0 0 2) next = .ok .step
  have hb := build_wf hw rfl
  rw [stream_system _ (by simp)]
  have h26 : (fld (encS 0x2D 0 0 0 2) 26 6).toNat = 45 := by simp
  have h0 : (fld (encS 0x2D 0 0 0 2) 0 4).toNat = 2 := by simp
  dsimp only [decodeSystem]; rw [h26, h0]
  show build _ _ _ = _
  simp [hb]
theorem brk (c : BitVec 10) : Statement (.brk c) := by
  intro hw next
  show decodeStream (encS 0x2D 0 0 c 3) next = .ok (.brk c)
  have hb := build_wf hw rfl
  rw [stream_system _ (by simp)]
  have h26 : (fld (encS 0x2D 0 0 c 3) 26 6).toNat = 45 := by simp
  have h0 : (fld (encS 0x2D 0 0 c 3) 0 4).toNat = 3 := by simp
  dsimp only [decodeSystem]; rw [h26, h0]
  show build _ _ _ = _
  simp [hb]
theorem pchks (s : R5) : Statement (.pchks s) := by
  intro hw next
  show decodeStream (encS 0x2D 0 (r6 s) 0 4) next = .ok (.pchks s)
  have hb := build_wf hw rfl
  rw [stream_system _ (by simp)]
  have h26 : (fld (encS 0x2D 0 (r6 s) 0 4) 26 6).toNat = 45 := by simp
  have h0 : (fld (encS 0x2D 0 (r6 s) 0 4) 0 4).toNat = 4 := by simp
  dsimp only [decodeSystem]; rw [h26, h0]
  show build _ _ _ = _
  simp [hb]
theorem pchkv (v : V6) : Statement (.pchkv v) := by
  intro hw next
  show decodeStream (encS 0x2D 0 v 0 5) next = .ok (.pchkv v)
  have hb := build_wf hw rfl
  rw [stream_system _ (by simp)]
  have h26 : (fld (encS 0x2D 0 v 0 5) 26 6).toNat = 45 := by simp
  have h0 : (fld (encS 0x2D 0 v 0 5) 0 4).toNat = 5 := by simp
  dsimp only [decodeSystem]; rw [h26, h0]
  show build _ _ _ = _
  simp [hb]
theorem pchkz (z : BitVec 3) : Statement (.pchkz z) := by
  intro hw next
  show decodeStream (encS 0x2D 0 (z6 z) 0 6) next = .ok (.pchkz z)
  have hb := build_wf hw rfl
  rw [stream_system _ (by simp)]
  have h26 : (fld (encS 0x2D 0 (z6 z) 0 6) 26 6).toNat = 45 := by simp
  have h0 : (fld (encS 0x2D 0 (z6 z) 0 6) 0 4).toNat = 6 := by simp
  dsimp only [decodeSystem]; rw [h26, h0]
  show build _ _ _ = _
  simp [hb]
theorem rcpdef (n : BitVec 2) (s : R5) : Statement (.rcpdef n s) := by
  intro hw next
  show decodeStream (encS 0x2E 0 0 ((0 : BitVec 3) ++ n ++ s) 0) next = .ok (.rcpdef n s)
  have hb := build_wf hw rfl
  rw [stream_system _ (by simp)]
  have h26 : (fld (encS 0x2E 0 0 ((0 : BitVec 3) ++ n ++ s) 0) 26 6).toNat = 46 := by simp
  have h0 : (fld (encS 0x2E 0 0 ((0 : BitVec 3) ++ n ++ s) 0) 0 4).toNat = 0 := by simp
  dsimp only [decodeSystem]; rw [h26, h0]
  show build _ _ _ = _
  simp [hb]
theorem rcpset (d : V6) (s : R5) : Statement (.rcpset d s) := by
  intro hw next
  show decodeStream (encS 0x2E d 0 ((0 : BitVec 5) ++ s) 1) next = .ok (.rcpset d s)
  have hb := build_wf hw rfl
  rw [stream_system _ (by simp)]
  have h26 : (fld (encS 0x2E d 0 ((0 : BitVec 5) ++ s) 1) 26 6).toNat = 46 := by simp
  have h0 : (fld (encS 0x2E d 0 ((0 : BitVec 5) ++ s) 1) 0 4).toNat = 1 := by simp
  dsimp only [decodeSystem]; rw [h26, h0]
  show build _ _ _ = _
  simp [hb]
theorem rcpdrop (d : V6) : Statement (.rcpdrop d) := by
  intro hw next
  show decodeStream (encS 0x2E d 0 0 2) next = .ok (.rcpdrop d)
  have hb := build_wf hw rfl
  rw [stream_system _ (by simp)]
  have h26 : (fld (encS 0x2E d 0 0 2) 26 6).toNat = 46 := by simp
  have h0 : (fld (encS 0x2E d 0 0 2) 0 4).toNat = 2 := by simp
  dsimp only [decodeSystem]; rw [h26, h0]
  show build _ _ _ = _
  simp [hb]
theorem rcpclr (s : R5) : Statement (.rcpclr s) := by
  intro hw next
  show decodeStream (encS 0x2E 0 0 ((0 : BitVec 5) ++ s) 3) next = .ok (.rcpclr s)
  have hb := build_wf hw rfl
  rw [stream_system _ (by simp)]
  have h26 : (fld (encS 0x2E 0 0 ((0 : BitVec 5) ++ s) 3) 26 6).toNat = 46 := by simp
  have h0 : (fld (encS 0x2E 0 0 ((0 : BitVec 5) ++ s) 3) 0 4).toNat = 3 := by simp
  dsimp only [decodeSystem]; rw [h26, h0]
  show build _ _ _ = _
  simp [hb]
theorem rcpanch (d : V6) (c : BitVec 2) : Statement (.rcpanch d c) := by
  intro hw next
  show decodeStream (encS 0x2E d 0 ((0 : BitVec 8) ++ c) 4) next = .ok (.rcpanch d c)
  have hb := build_wf hw rfl
  rw [stream_system _ (by simp)]
  have h26 : (fld (encS 0x2E d 0 ((0 : BitVec 8) ++ c) 4) 26 6).toNat = 46 := by simp
  have h0 : (fld (encS 0x2E d 0 ((0 : BitVec 8) ++ c) 4) 0 4).toNat = 4 := by simp
  dsimp only [decodeSystem]; rw [h26, h0]
  show build _ _ _ = _
  simp [hb]
theorem rcpunanch (d : V6) (c : BitVec 2) : Statement (.rcpunanch d c) := by
  intro hw next
  show decodeStream (encS 0x2E d 0 ((0 : BitVec 8) ++ c) 5) next = .ok (.rcpunanch d c)
  have hb := build_wf hw rfl
  rw [stream_system _ (by simp)]
  have h26 : (fld (encS 0x2E d 0 ((0 : BitVec 8) ++ c) 5) 26 6).toNat = 46 := by simp
  have h0 : (fld (encS 0x2E d 0 ((0 : BitVec 8) ++ c) 5) 0 4).toNat = 5 := by simp
  dsimp only [decodeSystem]; rw [h26, h0]
  show build _ _ _ = _
  simp [hb]
theorem capture (s : R5) : Statement (.capture s) := by
  intro hw next
  show decodeStream (encS 0x2F 0 (r6 s) 0 0) next = .ok (.capture s)
  have hb := build_wf hw rfl
  rw [stream_system _ (by simp)]
  have h26 : (fld (encS 0x2F 0 (r6 s) 0 0) 26 6).toNat = 47 := by simp
  have h0 : (fld (encS 0x2F 0 (r6 s) 0 0) 0 4).toNat = 0 := by simp
  dsimp only [decodeSystem]; rw [h26, h0]
  show build _ _ _ = _
  simp [hb]
theorem restore (d s : R5) : Statement (.restore d s) := by
  intro hw next
  show decodeStream (encS 0x2F (r6 d) (r6 s) 0 1) next = .ok (.restore d s)
  have hb := build_wf hw rfl
  rw [stream_system _ (by simp)]
  have h26 : (fld (encS 0x2F (r6 d) (r6 s) 0 1) 26 6).toNat = 47 := by simp
  have h0 : (fld (encS 0x2F (r6 d) (r6 s) 0 1) 0 4).toNat = 1 := by simp
  dsimp only [decodeSystem]; rw [h26, h0]
  show build _ _ _ = _
  simp [hb]
theorem brkx (s : R5) : Statement (.brkx s) := by
  intro hw next
  show decodeStream (encS 0x2F 0 (r6 s) 0 2) next = .ok (.brkx s)
  have hb := build_wf hw rfl
  rw [stream_system _ (by simp)]
  have h26 : (fld (encS 0x2F 0 (r6 s) 0 2) 26 6).toNat = 47 := by simp
  have h0 : (fld (encS 0x2F 0 (r6 s) 0 2) 0 4).toNat = 2 := by simp
  dsimp only [decodeSystem]; rw [h26, h0]
  show build _ _ _ = _
  simp [hb]
theorem copy (e : ETok) (sa sb sc : R5) (fill : Bool) (ssp dsp : BitVec 3) : Statement (.copy e sa sb sc fill ssp dsp) := by
  intro hw next
  show decodeStream (encE0 0x30 e 0) (encE1 sa sb sc ((0 : BitVec 10) ++ bit1 fill ++ ssp ++ dsp)) = .ok (.copy e sa sb sc fill ssp dsp)
  have hb := build_wf hw rfl
  rw [stream_engine _ (by simp)]
  have h26 : (fld (encE0 0x30 e 0) 26 6).toNat = 48 := by simp
  have h0 : (fld (encE0 0x30 e 0) 0 6).toNat = 0 := by simp
  dsimp only [decodeEngine]; rw [h26, h0]
  show build _ _ _ = _
  simp [hb]
theorem copyl (e : ETok) (sa sb : R5) (tier : BitVec 2) : Statement (.copyl e sa sb tier) := by
  intro hw next
  show decodeStream (encE0 0x30 e 1) (encE1 sa sb 0 ((0 : BitVec 15) ++ tier)) = .ok (.copyl e sa sb tier)
  have hb := build_wf hw rfl
  rw [stream_engine _ (by simp)]
  have h26 : (fld (encE0 0x30 e 1) 26 6).toNat = 48 := by simp
  have h0 : (fld (encE0 0x30 e 1) 0 6).toNat = 1 := by simp
  dsimp only [decodeEngine]; rw [h26, h0]
  show build _ _ _ = _
  simp [hb]
theorem copyn (e : ETok) (sa sb sc : R5) (nl : BitVec 7) (nt : BitVec 6) (dir : Bool) (sp : BitVec 3) : Statement (.copyn e sa sb sc nl nt dir sp) := by
  intro hw next
  show decodeStream (encE0 0x30 e 2) (encE1 sa sb sc (nl ++ nt ++ bit1 dir ++ sp)) = .ok (.copyn e sa sb sc nl nt dir sp)
  have hb := build_wf hw rfl
  rw [stream_engine _ (by simp)]
  have h26 : (fld (encE0 0x30 e 2) 26 6).toNat = 48 := by simp
  have h0 : (fld (encE0 0x30 e 2) 0 6).toNat = 2 := by simp
  dsimp only [decodeEngine]; rw [h26, h0]
  show build _ _ _ = _
  simp [hb]
theorem ovla (e : ETok) (sa sb sc : R5) : Statement (.ovla e sa sb sc) := by
  intro hw next
  show decodeStream (encE0 0x30 e 3) (encE1 sa sb sc 0) = .ok (.ovla e sa sb sc)
  have hb := build_wf hw rfl
  rw [stream_engine _ (by simp)]
  have h26 : (fld (encE0 0x30 e 3) 26 6).toNat = 48 := by simp
  have h0 : (fld (encE0 0x30 e 3) 0 6).toNat = 3 := by simp
  dsimp only [decodeEngine]; rw [h26, h0]
  show build _ _ _ = _
  simp [hb]
theorem ovlx (e : ETok) (sa sb sc : R5) : Statement (.ovlx e sa sb sc) := by
  intro hw next
  show decodeStream (encE0 0x30 e 4) (encE1 sa sb sc 0) = .ok (.ovlx e sa sb sc)
  have hb := build_wf hw rfl
  rw [stream_engine _ (by simp)]
  have h26 : (fld (encE0 0x30 e 4) 26 6).toNat = 48 := by simp
  have h0 : (fld (encE0 0x30 e 4) 0 6).toNat = 4 := by simp
  dsimp only [decodeEngine]; rw [h26, h0]
  show build _ _ _ = _
  simp [hb]
theorem tgather (e : ETok) (sa sb sc : R5) (lsp : Bool) (sp : BitVec 3) : Statement (.tgather e sa sb sc lsp sp) := by
  intro hw next
  show decodeStream (encE0 0x31 e 0) (encE1 sa sb sc ((0 : BitVec 13) ++ bit1 lsp ++ sp)) = .ok (.tgather e sa sb sc lsp sp)
  have hb := build_wf hw rfl
  rw [stream_engine _ (by simp)]
  have h26 : (fld (encE0 0x31 e 0) 26 6).toNat = 49 := by simp
  have h0 : (fld (encE0 0x31 e 0) 0 6).toNat = 0 := by simp
  dsimp only [decodeEngine]; rw [h26, h0]
  show build _ _ _ = _
  simp [hb]
theorem kvgather (e : ETok) (sa sb sc : R5) (lsp : Bool) (sp : BitVec 3) : Statement (.kvgather e sa sb sc lsp sp) := by
  intro hw next
  show decodeStream (encE0 0x31 e 1) (encE1 sa sb sc ((0 : BitVec 13) ++ bit1 lsp ++ sp)) = .ok (.kvgather e sa sb sc lsp sp)
  have hb := build_wf hw rfl
  rw [stream_engine _ (by simp)]
  have h26 : (fld (encE0 0x31 e 1) 26 6).toNat = 49 := by simp
  have h0 : (fld (encE0 0x31 e 1) 0 6).toNat = 1 := by simp
  dsimp only [decodeEngine]; rw [h26, h0]
  show build _ _ _ = _
  simp [hb]
theorem tscatter (e : ETok) (sa sb sc : R5) (lsp : Bool) (sp : BitVec 3) : Statement (.tscatter e sa sb sc lsp sp) := by
  intro hw next
  show decodeStream (encE0 0x31 e 2) (encE1 sa sb sc ((0 : BitVec 13) ++ bit1 lsp ++ sp)) = .ok (.tscatter e sa sb sc lsp sp)
  have hb := build_wf hw rfl
  rw [stream_engine _ (by simp)]
  have h26 : (fld (encE0 0x31 e 2) 26 6).toNat = 49 := by simp
  have h0 : (fld (encE0 0x31 e 2) 0 6).toNat = 2 := by simp
  dsimp only [decodeEngine]; rw [h26, h0]
  show build _ _ _ = _
  simp [hb]
theorem mwld (e : ETok) (sa : R5) : Statement (.mwld e sa) := by
  intro hw next
  show decodeStream (encE0 0x32 e 0) (encE1 sa 0 0 0) = .ok (.mwld e sa)
  have hb := build_wf hw rfl
  rw [stream_engine _ (by simp)]
  have h26 : (fld (encE0 0x32 e 0) 26 6).toNat = 50 := by simp
  have h0 : (fld (encE0 0x32 e 0) 0 6).toNat = 0 := by simp
  dsimp only [decodeEngine]; rw [h26, h0]
  show build _ _ _ = _
  simp [hb]
theorem mswap (e : ETok) : Statement (.mswap e) := by
  intro hw next
  show decodeStream (encE0 0x32 e 1) (encE1 0 0 0 0) = .ok (.mswap e)
  have hb := build_wf hw rfl
  rw [stream_engine _ (by simp)]
  have h26 : (fld (encE0 0x32 e 1) 26 6).toNat = 50 := by simp
  have h0 : (fld (encE0 0x32 e 1) 0 6).toNat = 1 := by simp
  dsimp only [decodeEngine]; rw [h26, h0]
  show build _ _ _ = _
  simp [hb, encE1]
theorem mma (y : Ty) (e : ETok) (sa sb : R5) (nrb : BitVec 9) (epi zero : Bool) (nz z : BitVec 3) : Statement (.mma y e sa sb nrb epi zero nz z) := by
  intro hw next
  show decodeStream (encE0 0x33 e ((0 : BitVec 2) ++ y.code)) (encE1 sa sb 0 (nrb ++ bit1 epi ++ bit1 zero ++ nz ++ z)) = .ok (.mma y e sa sb nrb epi zero nz z)
  have hb := build_wf hw rfl
  rw [stream_engine _ (by simp)]
  have h26 : (fld (encE0 0x33 e ((0 : BitVec 2) ++ y.code)) 26 6).toNat = 51 := by simp
  have h4 : (fld (encE0 0x33 e ((0 : BitVec 2) ++ y.code)) 4 2).toNat = 0 := by simp
  dsimp only [decodeEngine]; rw [h26, h4]
  show build _ _ _ = _
  simp [hb]
theorem mmas (y : Ty) (e : ETok) (sa sb sc : R5) (nrb : BitVec 9) (epi zero : Bool) (nz z : BitVec 3) : Statement (.mmas y e sa sb sc nrb epi zero nz z) := by
  intro hw next
  show decodeStream (encE0 0x33 e ((1 : BitVec 2) ++ y.code)) (encE1 sa sb sc (nrb ++ bit1 epi ++ bit1 zero ++ nz ++ z)) = .ok (.mmas y e sa sb sc nrb epi zero nz z)
  have hb := build_wf hw rfl
  rw [stream_engine _ (by simp)]
  have h26 : (fld (encE0 0x33 e ((1 : BitVec 2) ++ y.code)) 26 6).toNat = 51 := by simp
  have h4 : (fld (encE0 0x33 e ((1 : BitVec 2) ++ y.code)) 4 2).toNat = 1 := by simp
  dsimp only [decodeEngine]; rw [h26, h4]
  show build _ _ _ = _
  simp [hb]
theorem mepi (y : Ty) (e : ETok) (sa : R5) (nz z : BitVec 3) : Statement (.mepi y e sa nz z) := by
  intro hw next
  show decodeStream (encE0 0x33 e ((2 : BitVec 2) ++ y.code)) (encE1 sa 0 0 ((0 : BitVec 11) ++ nz ++ z)) = .ok (.mepi y e sa nz z)
  have hb := build_wf hw rfl
  rw [stream_engine _ (by simp)]
  have h26 : (fld (encE0 0x33 e ((2 : BitVec 2) ++ y.code)) 26 6).toNat = 51 := by simp
  have h4 : (fld (encE0 0x33 e ((2 : BitVec 2) ++ y.code)) 4 2).toNat = 2 := by simp
  dsimp only [decodeEngine]; rw [h26, h4]
  show build _ _ _ = _
  simp [hb]
theorem collred (e : ETok) (sa sb sc : R5) : Statement (.collred e sa sb sc) := by
  intro hw next
  show decodeStream (encE0 0x34 e 0) (encE1 sa sb sc 0) = .ok (.collred e sa sb sc)
  have hb := build_wf hw rfl
  rw [stream_engine _ (by simp)]
  have h26 : (fld (encE0 0x34 e 0) 26 6).toNat = 52 := by simp
  have h0 : (fld (encE0 0x34 e 0) 0 6).toNat = 0 := by simp
  dsimp only [decodeEngine]; rw [h26, h0]
  show build _ _ _ = _
  simp [hb]
theorem collgath (e : ETok) (sa sb sc : R5) : Statement (.collgath e sa sb sc) := by
  intro hw next
  show decodeStream (encE0 0x34 e 1) (encE1 sa sb sc 0) = .ok (.collgath e sa sb sc)
  have hb := build_wf hw rfl
  rw [stream_engine _ (by simp)]
  have h26 : (fld (encE0 0x34 e 1) 26 6).toNat = 52 := by simp
  have h0 : (fld (encE0 0x34 e 1) 0 6).toNat = 1 := by simp
  dsimp only [decodeEngine]; rw [h26, h0]
  show build _ _ _ = _
  simp [hb]
theorem collbcast (e : ETok) (sa sb sc : R5) : Statement (.collbcast e sa sb sc) := by
  intro hw next
  show decodeStream (encE0 0x34 e 2) (encE1 sa sb sc 0) = .ok (.collbcast e sa sb sc)
  have hb := build_wf hw rfl
  rw [stream_engine _ (by simp)]
  have h26 : (fld (encE0 0x34 e 2) 26 6).toNat = 52 := by simp
  have h0 : (fld (encE0 0x34 e 2) 0 6).toNat = 2 := by simp
  dsimp only [decodeEngine]; rw [h26, h0]
  show build _ _ _ = _
  simp [hb]
theorem colla2a (e : ETok) (sa sb sc : R5) : Statement (.colla2a e sa sb sc) := by
  intro hw next
  show decodeStream (encE0 0x34 e 3) (encE1 sa sb sc 0) = .ok (.colla2a e sa sb sc)
  have hb := build_wf hw rfl
  rw [stream_engine _ (by simp)]
  have h26 : (fld (encE0 0x34 e 3) 26 6).toNat = 52 := by simp
  have h0 : (fld (encE0 0x34 e 3) 0 6).toNat = 3 := by simp
  dsimp only [decodeEngine]; rw [h26, h0]
  show build _ _ _ = _
  simp [hb]
theorem collsend (e : ETok) (sb sc : R5) : Statement (.collsend e sb sc) := by
  intro hw next
  show decodeStream (encE0 0x34 e 4) (encE1 0 sb sc 0) = .ok (.collsend e sb sc)
  have hb := build_wf hw rfl
  rw [stream_engine _ (by simp)]
  have h26 : (fld (encE0 0x34 e 4) 26 6).toNat = 52 := by simp
  have h0 : (fld (encE0 0x34 e 4) 0 6).toNat = 4 := by simp
  dsimp only [decodeEngine]; rw [h26, h0]
  show build _ _ _ = _
  simp [hb]
theorem collrecv (e : ETok) (sa sc : R5) : Statement (.collrecv e sa sc) := by
  intro hw next
  show decodeStream (encE0 0x34 e 5) (encE1 sa 0 sc 0) = .ok (.collrecv e sa sc)
  have hb := build_wf hw rfl
  rw [stream_engine _ (by simp)]
  have h26 : (fld (encE0 0x34 e 5) 26 6).toNat = 52 := by simp
  have h0 : (fld (encE0 0x34 e 5) 0 6).toNat = 5 := by simp
  dsimp only [decodeEngine]; rw [h26, h0]
  show build _ _ _ = _
  simp [hb]
theorem pxhash (e : ETok) (sa sb sc : R5) (frm : Bool) : Statement (.pxhash e sa sb sc frm) := by
  intro hw next
  show decodeStream (encE0 0x35 e 0) (encE1 sa sb sc ((0 : BitVec 16) ++ bit1 frm)) = .ok (.pxhash e sa sb sc frm)
  have hb := build_wf hw rfl
  rw [stream_engine _ (by simp)]
  have h26 : (fld (encE0 0x35 e 0) 26 6).toNat = 53 := by simp
  have h0 : (fld (encE0 0x35 e 0) 0 6).toNat = 0 := by simp
  dsimp only [decodeEngine]; rw [h26, h0]
  show build _ _ _ = _
  simp [hb]
theorem pxmatch (e : ETok) (sa sb sc : R5) (lim : BitVec 5) : Statement (.pxmatch e sa sb sc lim) := by
  intro hw next
  show decodeStream (encE0 0x35 e 1) (encE1 sa sb sc ((0 : BitVec 12) ++ lim)) = .ok (.pxmatch e sa sb sc lim)
  have hb := build_wf hw rfl
  rw [stream_engine _ (by simp)]
  have h26 : (fld (encE0 0x35 e 1) 26 6).toNat = 53 := by simp
  have h0 : (fld (encE0 0x35 e 1) 0 6).toNat = 1 := by simp
  dsimp only [decodeEngine]; rw [h26, h0]
  show build _ _ _ = _
  simp [hb]
theorem pxpath (e : ETok) (sa sb sc : R5) : Statement (.pxpath e sa sb sc) := by
  intro hw next
  show decodeStream (encE0 0x35 e 2) (encE1 sa sb sc 0) = .ok (.pxpath e sa sb sc)
  have hb := build_wf hw rfl
  rw [stream_engine _ (by simp)]
  have h26 : (fld (encE0 0x35 e 2) 26 6).toNat = 53 := by simp
  have h0 : (fld (encE0 0x35 e 2) 0 6).toNat = 2 := by simp
  dsimp only [decodeEngine]; rw [h26, h0]
  show build _ _ _ = _
  simp [hb]
theorem kvopen (e : ETok) (sa sb sc : R5) (tier : BitVec 2) : Statement (.kvopen e sa sb sc tier) := by
  intro hw next
  show decodeStream (encE0 0x36 e 0) (encE1 sa sb sc ((0 : BitVec 15) ++ tier)) = .ok (.kvopen e sa sb sc tier)
  have hb := build_wf hw rfl
  rw [stream_engine _ (by simp)]
  have h26 : (fld (encE0 0x36 e 0) 26 6).toNat = 54 := by simp
  have h0 : (fld (encE0 0x36 e 0) 0 6).toNat = 0 := by simp
  dsimp only [decodeEngine]; rw [h26, h0]
  show build _ _ _ = _
  simp [hb]
theorem kvseal (e : ETok) (sa sb sc : R5) : Statement (.kvseal e sa sb sc) := by
  intro hw next
  show decodeStream (encE0 0x36 e 1) (encE1 sa sb sc 0) = .ok (.kvseal e sa sb sc)
  have hb := build_wf hw rfl
  rw [stream_engine _ (by simp)]
  have h26 : (fld (encE0 0x36 e 1) 26 6).toNat = 54 := by simp
  have h0 : (fld (encE0 0x36 e 1) 0 6).toNat = 1 := by simp
  dsimp only [decodeEngine]; rw [h26, h0]
  show build _ _ _ = _
  simp [hb]
theorem kvfork (e : ETok) (sa sb sc : R5) : Statement (.kvfork e sa sb sc) := by
  intro hw next
  show decodeStream (encE0 0x36 e 2) (encE1 sa sb sc 0) = .ok (.kvfork e sa sb sc)
  have hb := build_wf hw rfl
  rw [stream_engine _ (by simp)]
  have h26 : (fld (encE0 0x36 e 2) 26 6).toNat = 54 := by simp
  have h0 : (fld (encE0 0x36 e 2) 0 6).toNat = 2 := by simp
  dsimp only [decodeEngine]; rw [h26, h0]
  show build _ _ _ = _
  simp [hb]
theorem kvlease (e : ETok) (sa sb sc : R5) (prio : BitVec 3) : Statement (.kvlease e sa sb sc prio) := by
  intro hw next
  show decodeStream (encE0 0x36 e 3) (encE1 sa sb sc ((0 : BitVec 14) ++ prio)) = .ok (.kvlease e sa sb sc prio)
  have hb := build_wf hw rfl
  rw [stream_engine _ (by simp)]
  have h26 : (fld (encE0 0x36 e 3) 26 6).toNat = 54 := by simp
  have h0 : (fld (encE0 0x36 e 3) 0 6).toNat = 3 := by simp
  dsimp only [decodeEngine]; rw [h26, h0]
  show build _ _ _ = _
  simp [hb]
theorem kvrelease (e : ETok) (sa sb : R5) : Statement (.kvrelease e sa sb) := by
  intro hw next
  show decodeStream (encE0 0x36 e 4) (encE1 sa sb 0 0) = .ok (.kvrelease e sa sb)
  have hb := build_wf hw rfl
  rw [stream_engine _ (by simp)]
  have h26 : (fld (encE0 0x36 e 4) 26 6).toNat = 54 := by simp
  have h0 : (fld (encE0 0x36 e 4) 0 6).toNat = 4 := by simp
  dsimp only [decodeEngine]; rw [h26, h0]
  show build _ _ _ = _
  simp [hb]
theorem rseal (e : ETok) (sa sb : R5) (sp : Bool) : Statement (.rseal e sa sb sp) := by
  intro hw next
  show decodeStream (encE0 0x37 e 0) (encE1 sa sb 0 ((0 : BitVec 16) ++ bit1 sp)) = .ok (.rseal e sa sb sp)
  have hb := build_wf hw rfl
  rw [stream_engine _ (by simp)]
  have h26 : (fld (encE0 0x37 e 0) 26 6).toNat = 55 := by simp
  have h0 : (fld (encE0 0x37 e 0) 0 6).toNat = 0 := by simp
  dsimp only [decodeEngine]; rw [h26, h0]
  show build _ _ _ = _
  simp [hb]
theorem runseal (e : ETok) (sa sb : R5) (sp : Bool) : Statement (.runseal e sa sb sp) := by
  intro hw next
  show decodeStream (encE0 0x37 e 1) (encE1 sa sb 0 ((0 : BitVec 16) ++ bit1 sp)) = .ok (.runseal e sa sb sp)
  have hb := build_wf hw rfl
  rw [stream_engine _ (by simp)]
  have h26 : (fld (encE0 0x37 e 1) 26 6).toNat = 55 := by simp
  have h0 : (fld (encE0 0x37 e 1) 0 6).toNat = 1 := by simp
  dsimp only [decodeEngine]; rw [h26, h0]
  show build _ _ _ = _
  simp [hb]
theorem xfnc (e : ETok) (level : BitVec 2) : Statement (.xfnc e level) := by
  intro hw next
  show decodeStream (encE0 0x38 e 0) (encE1 0 0 0 ((0 : BitVec 15) ++ level)) = .ok (.xfnc e level)
  have hb := build_wf hw rfl
  rw [stream_engine _ (by simp)]
  have h26 : (fld (encE0 0x38 e 0) 26 6).toNat = 56 := by simp
  have h0 : (fld (encE0 0x38 e 0) 0 6).toNat = 0 := by simp
  dsimp only [decodeEngine]; rw [h26, h0]
  show build _ _ _ = _
  simp [hb]
theorem drain (e : ETok) (mask : BitVec 5) : Statement (.drain e mask) := by
  intro hw next
  show decodeStream (encE0 0x38 e 1) (encE1 0 0 0 ((0 : BitVec 12) ++ mask)) = .ok (.drain e mask)
  have hb := build_wf hw rfl
  rw [stream_engine _ (by simp)]
  have h26 : (fld (encE0 0x38 e 1) 26 6).toNat = 56 := by simp
  have h0 : (fld (encE0 0x38 e 1) 0 6).toNat = 1 := by simp
  dsimp only [decodeEngine]; rw [h26, h0]
  show build _ _ _ = _
  simp [hb]
theorem qadd (d s t : K4) : Statement (.qadd d s t) := by
  intro hw next
  show decodeQ (encQA 0x01 d s t) = .ok (.qadd d s t)
  have h26 : (fld (encQA 0x01 d s t) 26 6).toNat = 1 := by simp
  dsimp only [decodeQ]; rw [h26]
  simp
theorem qsub (d s t : K4) : Statement (.qsub d s t) := by
  intro hw next
  show decodeQ (encQA 0x02 d s t) = .ok (.qsub d s t)
  have h26 : (fld (encQA 0x02 d s t) 26 6).toNat = 2 := by simp
  dsimp only [decodeQ]; rw [h26]
  simp
theorem qand (d s t : K4) : Statement (.qand d s t) := by
  intro hw next
  show decodeQ (encQA 0x03 d s t) = .ok (.qand d s t)
  have h26 : (fld (encQA 0x03 d s t) 26 6).toNat = 3 := by simp
  dsimp only [decodeQ]; rw [h26]
  simp
theorem qor (d s t : K4) : Statement (.qor d s t) := by
  intro hw next
  show decodeQ (encQA 0x04 d s t) = .ok (.qor d s t)
  have h26 : (fld (encQA 0x04 d s t) 26 6).toNat = 4 := by simp
  dsimp only [decodeQ]; rw [h26]
  simp
theorem qxor (d s t : K4) : Statement (.qxor d s t) := by
  intro hw next
  show decodeQ (encQA 0x05 d s t) = .ok (.qxor d s t)
  have h26 : (fld (encQA 0x05 d s t) 26 6).toNat = 5 := by simp
  dsimp only [decodeQ]; rw [h26]
  simp
theorem qshl (d s t : K4) : Statement (.qshl d s t) := by
  intro hw next
  show decodeQ (encQA 0x06 d s t) = .ok (.qshl d s t)
  have h26 : (fld (encQA 0x06 d s t) 26 6).toNat = 6 := by simp
  dsimp only [decodeQ]; rw [h26]
  simp
theorem qshr (d s t : K4) : Statement (.qshr d s t) := by
  intro hw next
  show decodeQ (encQA 0x07 d s t) = .ok (.qshr d s t)
  have h26 : (fld (encQA 0x07 d s t) 26 6).toNat = 7 := by simp
  dsimp only [decodeQ]; rw [h26]
  simp
theorem qaddi (d s : K4) (i : BitVec 18) : Statement (.qaddi d s i) := by
  intro hw next
  show decodeQ (encQB 0x08 d s i) = .ok (.qaddi d s i)
  have h26 : (fld (encQB 0x08 d s i) 26 6).toNat = 8 := by simp
  dsimp only [decodeQ]; rw [h26]
  show Except.ok _ = _
  simp
theorem qandi (d s : K4) (i : BitVec 18) : Statement (.qandi d s i) := by
  intro hw next
  show decodeQ (encQB 0x09 d s i) = .ok (.qandi d s i)
  have h26 : (fld (encQB 0x09 d s i) 26 6).toNat = 9 := by simp
  dsimp only [decodeQ]; rw [h26]
  show Except.ok _ = _
  simp
theorem qori (d s : K4) (i : BitVec 18) : Statement (.qori d s i) := by
  intro hw next
  show decodeQ (encQB 0x0A d s i) = .ok (.qori d s i)
  have h26 : (fld (encQB 0x0A d s i) 26 6).toNat = 10 := by simp
  dsimp only [decodeQ]; rw [h26]
  show Except.ok _ = _
  simp
theorem qshli (d s : K4) (n : BitVec 6) : Statement (.qshli d s n) := by
  intro hw next
  show decodeQ (encQB 0x0B d s ((0 : BitVec 12) ++ n)) = .ok (.qshli d s n)
  have h26 : (fld (encQB 0x0B d s ((0 : BitVec 12) ++ n)) 26 6).toNat = 11 := by simp
  dsimp only [decodeQ]; rw [h26]
  simp
theorem qshri (d s : K4) (n : BitVec 6) : Statement (.qshri d s n) := by
  intro hw next
  show decodeQ (encQB 0x0C d s ((0 : BitVec 12) ++ n)) = .ok (.qshri d s n)
  have h26 : (fld (encQB 0x0C d s ((0 : BitVec 12) ++ n)) 26 6).toNat = 12 := by simp
  dsimp only [decodeQ]; rw [h26]
  simp
theorem qmovi (d : K4) (i : BitVec 18) : Statement (.qmovi d i) := by
  intro hw next
  show decodeQ (encQB 0x0D d 0 i) = .ok (.qmovi d i)
  have h26 : (fld (encQB 0x0D d 0 i) 26 6).toNat = 13 := by simp
  dsimp only [decodeQ]; rw [h26]
  simp
theorem qld (d s : K4) (w : BitVec 3) (z : BitVec 2) (o : BitVec 13) : Statement (.qld d s w z o) := by
  intro hw next
  show decodeQ (encQW 0x10 d s w z o) = .ok (.qld d s w z o)
  have h26 : (fld (encQW 0x10 d s w z o) 26 6).toNat = 16 := by simp
  dsimp only [decodeQ]; rw [h26]
  show Except.ok _ = _
  simp
theorem qst (d s : K4) (w : BitVec 3) (z : BitVec 2) (o : BitVec 13) : Statement (.qst d s w z o) := by
  intro hw next
  show decodeQ (encQW 0x11 d s w z o) = .ok (.qst d s w z o)
  have h26 : (fld (encQW 0x11 d s w z o) 26 6).toNat = 17 := by simp
  dsimp only [decodeQ]; rw [h26]
  show Except.ok _ = _
  simp
theorem qbeq (s t : K4) (disp : BitVec 18) : Statement (.qbeq s t disp) := by
  intro hw next
  show decodeQ (encQB 0x18 s t disp) = .ok (.qbeq s t disp)
  have h26 : (fld (encQB 0x18 s t disp) 26 6).toNat = 24 := by simp
  dsimp only [decodeQ]; rw [h26]
  have hw2 : operandCause (.qbeq s t disp) = none := by simpa using (show (operandCause (.qbeq s t disp) == none) = true from hw)
  have hd : ¬ 512 ≤ disp.toNat := fun h => by
    simp [operandCause, firstCause, show 511 < disp.toNat from h] at hw2
  simp [hw2, hd]
theorem qbne (s t : K4) (disp : BitVec 18) : Statement (.qbne s t disp) := by
  intro hw next
  show decodeQ (encQB 0x19 s t disp) = .ok (.qbne s t disp)
  have h26 : (fld (encQB 0x19 s t disp) 26 6).toNat = 25 := by simp
  dsimp only [decodeQ]; rw [h26]
  have hw2 : operandCause (.qbne s t disp) = none := by simpa using (show (operandCause (.qbne s t disp) == none) = true from hw)
  have hd : ¬ 512 ≤ disp.toNat := fun h => by
    simp [operandCause, firstCause, show 511 < disp.toNat from h] at hw2
  simp [hw2, hd]
theorem qbltu (s t : K4) (disp : BitVec 18) : Statement (.qbltu s t disp) := by
  intro hw next
  show decodeQ (encQB 0x1A s t disp) = .ok (.qbltu s t disp)
  have h26 : (fld (encQB 0x1A s t disp) 26 6).toNat = 26 := by simp
  dsimp only [decodeQ]; rw [h26]
  have hw2 : operandCause (.qbltu s t disp) = none := by simpa using (show (operandCause (.qbltu s t disp) == none) = true from hw)
  have hd : ¬ 512 ≤ disp.toNat := fun h => by
    simp [operandCause, firstCause, show 511 < disp.toNat from h] at hw2
  simp [hw2, hd]
theorem qloop (c : BitVec 6) (b : BitVec 9) : Statement (.qloop c b) := by
  intro hw next
  show decodeQ (encQL c b) = .ok (.qloop c b)
  have h26 : (fld (encQL c b) 26 6).toNat = 28 := by simp
  dsimp only [decodeQ]; rw [h26]
  have hw2 : operandCause (.qloop c b) = none := by simpa using (show (operandCause (.qloop c b) == none) = true from hw)
  simp [hw2]
theorem qdisp : Statement .qdisp := by
  intro hw next
  show decodeQ (encQB 0x20 0 0 0) = .ok .qdisp
  have h26 : (fld (encQB 0x20 0 0 0) 26 6).toNat = 32 := by simp
  dsimp only [decodeQ]; rw [h26]
  simp
theorem qdrop (c : BitVec 16) : Statement (.qdrop c) := by
  intro hw next
  show decodeQ (encQB 0x21 0 0 ((0 : BitVec 2) ++ c)) = .ok (.qdrop c)
  have h26 : (fld (encQB 0x21 0 0 ((0 : BitVec 2) ++ c)) 26 6).toNat = 33 := by simp
  dsimp only [decodeQ]; rw [h26]
  simp
theorem illegalInstruction (w0 w1 : W32) : Statement (.illegalInstruction w0 w1) := fun _ _ => trivial
theorem debugHaltRequest (tile : BitVec 8) (stream : Stream) : Statement (.debugHaltRequest tile stream) := fun _ _ => trivial
theorem debugPortEnable : Statement .debugPortEnable := fun _ _ => trivial
theorem contextInstall (tile : BitVec 8) (c : ContextDesc) : Statement (.contextInstall tile c) := fun _ _ => trivial
theorem powerReturn : Statement .powerReturn := fun _ _ => trivial
theorem packageReset : Statement .packageReset := fun _ _ => trivial
theorem dieRomImageCheck (die : BitVec 2) (img : BootImage) : Statement (.dieRomImageCheck die img) := fun _ _ => trivial
theorem registerWrite (fn : BitVec 8) (off : BitVec 26) (size : Nat) (val : W64) : Statement (.registerWrite fn off size val) := fun _ _ => trivial
theorem hbmLineRead (pa : BitVec 48) (dataErr : BitVec 512) (checkErr : BitVec 128) : Statement (.hbmLineRead pa dataErr checkErr) := fun _ _ => trivial
theorem partialLineMerge (pa : BitVec 48) (mask : BitVec 64) (data : BitVec 512) (pois : Bool) (dataErr : BitVec 512) (checkErr : BitVec 128) : Statement (.partialLineMerge pa mask data pois dataErr checkErr) := fun _ _ => trivial
theorem cxlReadComplete (pa : BitVec 48) (pois err : Bool) : Statement (.cxlReadComplete pa pois err) := fun _ _ => trivial
theorem patrolScrub (stack : BitVec 3) (dataErr : BitVec 512) (checkErr : BitVec 128) : Statement (.patrolScrub stack dataErr checkErr) := fun _ _ => trivial
theorem cxlPortTrain (port : BitVec 2) (dev : CxlDevice) (width rate : Nat) : Statement (.cxlPortTrain port dev width rate) := fun _ _ => trivial
theorem cxlExtentAdded (port : BitVec 2) (base size : Nat) : Statement (.cxlExtentAdded port base size) := fun _ _ => trivial
theorem bar2WindowRead (fn : BitVec 8) (off : BitVec 30) (n : Nat) : Statement (.bar2WindowRead fn off n) := fun _ _ => trivial
theorem bar2WindowWrite (fn : BitVec 8) (off : BitVec 30) (data : List Byte) : Statement (.bar2WindowWrite fn off data) := fun _ _ => trivial
theorem msixVectorUnmask (fn : BitVec 8) (vec : BitVec 11) : Statement (.msixVectorUnmask fn vec) := fun _ _ => trivial
theorem peerPortTrained (port : BitVec 4) : Statement (.peerPortTrained port) := fun _ _ => trivial
theorem flitReceive (port : BitVec 4) (flit : BitVec 2048) : Statement (.flitReceive port flit) := fun _ _ => trivial
theorem replayTimeout (port : BitVec 4) : Statement (.replayTimeout port) := fun _ _ => trivial
theorem creditReturnTimeout (port : BitVec 4) : Statement (.creditReturnTimeout port) := fun _ _ => trivial
theorem lookup (src : BitVec 12) (m : DirMsg) : Statement (.lookup src m) := fun _ _ => trivial
theorem lookupR (m : DirMsg) : Statement (.lookupR m) := fun _ _ => trivial
theorem announce (src : BitVec 12) (m : DirMsg) : Statement (.announce src m) := fun _ _ => trivial
theorem withdraw (src : BitVec 12) (m : DirMsg) : Statement (.withdraw src m) := fun _ _ => trivial
theorem fetch (src : BitVec 12) (m : DirMsg) : Statement (.fetch src m) := fun _ _ => trivial
theorem fetchR (m : DirMsg) (data : List Byte) : Statement (.fetchR m data) := fun _ _ => trivial
theorem replicate (src : BitVec 12) (m : DirMsg) (parent : BitVec 128) (tokens : List (BitVec 32)) (data : List Byte) : Statement (.replicate src m parent tokens data) := fun _ _ => trivial
theorem replicateR (m : DirMsg) : Statement (.replicateR m) := fun _ _ => trivial
theorem directoryRequestTimeout (tag : BitVec 16) : Statement (.directoryRequestTimeout tag) := fun _ _ => trivial
theorem replicationRun : Statement .replicationRun := fun _ _ => trivial
theorem ptpMessage (time : W64) (domain : Byte) : Statement (.ptpMessage time domain) := fun _ _ => trivial
theorem tick : Statement .tick := fun _ _ => trivial
theorem holdoverEntry : Statement .holdoverEntry := fun _ _ => trivial
theorem timeRelock (time : W64) : Statement (.timeRelock time) := fun _ _ => trivial
theorem timeFirstLock (time : W64) : Statement (.timeFirstLock time) := fun _ _ => trivial
theorem gangArm : Statement .gangArm := fun _ _ => trivial
theorem gangSwitch : Statement .gangSwitch := fun _ _ => trivial
theorem sluiceWindow : Statement .sluiceWindow := fun _ _ => trivial
theorem sluiceRequestHeld : Statement .sluiceRequestHeld := fun _ _ => trivial
theorem sluiceBudgetWrite (val : W64) : Statement (.sluiceBudgetWrite val) := fun _ _ => trivial
theorem heldRequestPreempt : Statement .heldRequestPreempt := fun _ _ => trivial
theorem temperatureSample (t0 t1 t2 t3 : Nat) : Statement (.temperatureSample t0 t1 t2 t3) := fun _ _ => trivial
theorem managementRequest (i3c : Bool) (obj : MgmtObject) : Statement (.managementRequest i3c obj) := fun _ _ => trivial
theorem qCtlWrite (fn : BitVec 8) (q : BitVec 10) (val : W64) : Statement (.qCtlWrite fn q val) := fun _ _ => trivial
theorem doorbellWrite (fn : BitVec 8) (q : BitVec 10) (tail : BitVec 32) : Statement (.doorbellWrite fn q tail) := fun _ _ => trivial
theorem queueResume (fn : BitVec 8) (q : BitVec 10) : Statement (.queueResume fn q) := fun _ _ => trivial
theorem qHeadWrite (fn : BitVec 8) (q : BitVec 10) (head : BitVec 32) : Statement (.qHeadWrite fn q head) := fun _ _ => trivial
theorem crCtlWrite (fn : BitVec 8) (c : BitVec 10) (val : W64) : Statement (.crCtlWrite fn c val) := fun _ _ => trivial
theorem crHeadWrite (fn : BitVec 8) (c : BitVec 10) (head : BitVec 32) : Statement (.crHeadWrite fn c head) := fun _ _ => trivial
theorem packetTake (unit : BitVec 4) : Statement (.packetTake unit) := fun _ _ => trivial
theorem queueProgramRun (unit : BitVec 4) : Statement (.queueProgramRun unit) := fun _ _ => trivial
theorem padPacket (unit : BitVec 4) : Statement (.padPacket unit) := fun _ _ => trivial
theorem launchPacket (unit : BitVec 4) : Statement (.launchPacket unit) := fun _ _ => trivial
theorem copyPacket (unit : BitVec 4) (hostErr : Option Nat) : Statement (.copyPacket unit hostErr) := fun _ _ => trivial
theorem confidentialCopy (unit : BitVec 4) (ide : Bool) (hostErr : Bool) : Statement (.confidentialCopy unit ide hostErr) := fun _ _ => trivial
theorem signalWrite (unit : BitVec 4) (hostErr : Bool) : Statement (.signalWrite unit hostErr) := fun _ _ => trivial
theorem signalAdd (unit : BitVec 4) (atomicOk hostErr : Bool) : Statement (.signalAdd unit atomicOk hostErr) := fun _ _ => trivial
theorem signalWaitge (unit : BitVec 4) (hostErr : Bool) : Statement (.signalWaitge unit hostErr) := fun _ _ => trivial
theorem signalWaitgeTick (q : BitVec 10) (hostErr : Bool) : Statement (.signalWaitgeTick q hostErr) := fun _ _ => trivial
theorem fencePacket (q : BitVec 10) : Statement (.fencePacket q) := fun _ _ => trivial
theorem completionRecordWrite (c : BitVec 10) : Statement (.completionRecordWrite c) := fun _ _ => trivial
theorem holdTimerExpiry (c : BitVec 11) : Statement (.holdTimerExpiry c) := fun _ _ => trivial
theorem progLoad : Statement .progLoad := fun _ _ => trivial
theorem enqArrival (tile : BitVec 8) : Statement (.enqArrival tile) := fun _ _ => trivial
theorem mextGo : Statement .mextGo := fun _ _ => trivial
theorem getMeasurements (fn : BitVec 8) (nonce : BitVec 256) (sign : Bool) : Statement (.getMeasurements fn nonce sign) := fun _ _ => trivial
theorem spdmRequest (fn : BitVec 8) (kind : SpdmKind) : Statement (.spdmRequest fn kind) := fun _ _ => trivial
theorem chanSet (fn : BitVec 8) (secured : Bool) (payload : List Byte) : Statement (.chanSet fn secured payload) := fun _ _ => trivial
theorem chanClear (fn : BitVec 8) (secured : Bool) (payload : List Byte) : Statement (.chanClear fn secured payload) := fun _ _ => trivial
theorem lockInterface (fn : BitVec 8) : Statement (.lockInterface fn) := fun _ _ => trivial
theorem startInterface (fn : BitVec 8) : Statement (.startInterface fn) := fun _ _ => trivial
theorem stopInterface (fn : BitVec 8) : Statement (.stopInterface fn) := fun _ _ => trivial
theorem ideIntegrityFailure (fn : BitVec 8) : Statement (.ideIntegrityFailure fn) := fun _ _ => trivial
theorem stageChoice (tile : BitVec 8) : Statement (.stageChoice tile) := fun _ _ => trivial
theorem itemStart (tile : BitVec 8) : Statement (.itemStart tile) := fun _ _ => trivial
theorem stageEntryAvailable (launch : Nat) (die : BitVec 2) (stage : BitVec 3) : Statement (.stageEntryAvailable launch die stage) := fun _ _ => trivial
theorem itemRetire (tile : BitVec 8) : Statement (.itemRetire tile) := fun _ _ => trivial
theorem cohortBarrierComplete (launch : Nat) (group : Nat) : Statement (.cohortBarrierComplete launch group) := fun _ _ => trivial
theorem launchRetire (launch : Nat) : Statement (.launchRetire launch) := fun _ _ => trivial
theorem starvationCapture (launch : Nat) (die : BitVec 2) : Statement (.starvationCapture launch die) := fun _ _ => trivial
theorem dieLeave (launch : Nat) (die : BitVec 2) : Statement (.dieLeave launch die) := fun _ _ => trivial
theorem termEnd (tile : BitVec 8) : Statement (.termEnd tile) := fun _ _ => trivial
theorem waitOffer (tile : BitVec 8) : Statement (.waitOffer tile) := fun _ _ => trivial
theorem unheldTileOffer (tile : BitVec 8) : Statement (.unheldTileOffer tile) := fun _ _ => trivial
theorem priorityPreemption (die : BitVec 2) : Statement (.priorityPreemption die) := fun _ _ => trivial
theorem residencyScan (cls : BitVec 6) : Statement (.residencyScan cls) := fun _ _ => trivial
theorem residencyMoveComplete (h : BitVec 14) (frames : List (BitVec 32)) : Statement (.residencyMoveComplete h frames) := fun _ _ => trivial
theorem validate : Statement .validate := fun _ _ => trivial
theorem promote : Statement .promote := fun _ _ => trivial
theorem demote : Statement .demote := fun _ _ => trivial
theorem evict : Statement .evict := fun _ _ => trivial
theorem invalidate : Statement .invalidate := fun _ _ => trivial
theorem shootdownPage : Statement .shootdownPage := fun _ _ => trivial
theorem shootdownContext : Statement .shootdownContext := fun _ _ => trivial
theorem shootdownAll : Statement .shootdownAll := fun _ _ => trivial
theorem shootdownAck (party : SdParty) : Statement (.shootdownAck party) := fun _ _ => trivial
theorem translationWalkComplete (tile : BitVec 8) : Statement (.translationWalkComplete tile) := fun _ _ => trivial
theorem thaw (tile : BitVec 8) (entries : List (BitVec 48 × BitVec 128)) (ok : Bool) : Statement (.thaw tile entries ok) := fun _ _ => trivial
theorem caStoreClaimAnswer (tile : BitVec 8) : Statement (.caStoreClaimAnswer tile) := fun _ _ => trivial
theorem closeApplied (die : BitVec 2) (home : BitVec 3) : Statement (.closeApplied die home) := fun _ _ => trivial
theorem engineCommandAccept (tile : BitVec 8) (eng : Eng) : Statement (.engineCommandAccept tile eng) := fun _ _ => trivial
theorem tokenComplete (tile : BitVec 8) (eng : Option Eng) (seq : BitVec 32) : Statement (.tokenComplete tile eng seq) := fun _ _ => trivial
theorem queueDeadlock (tile : BitVec 8) : Statement (.queueDeadlock tile) := fun _ _ => trivial
theorem checkerMismatchReplay (tile : BitVec 8) (stream : Option Stream) (again : Bool) : Statement (.checkerMismatchReplay tile stream again) := fun _ _ => trivial
theorem registerRegeneration (tile : BitVec 8) (reg : RegName) (again : Bool) : Statement (.registerRegeneration tile reg again) := fun _ _ => trivial
theorem captureComplete (tile : BitVec 8) : Statement (.captureComplete tile) := fun _ _ => trivial
theorem tileRestore (img : BitVec 32) (tile : BitVec 8) : Statement (.tileRestore img tile) := fun _ _ => trivial
theorem loggedArrivalDelivery (tile : BitVec 8) : Statement (.loggedArrivalDelivery tile) := fun _ _ => trivial
theorem contextEnd (ctx : BitVec 16) (fn : BitVec 8) : Statement (.contextEnd ctx fn) := fun _ _ => trivial
theorem errorRecordWrite : Statement .errorRecordWrite := fun _ _ => trivial
theorem errLostClear : Statement .errLostClear := fun _ _ => trivial
theorem ckptCfgGo : Statement .ckptCfgGo := fun _ _ => trivial
theorem checkpoint (ctx : BitVec 16) : Statement (.checkpoint ctx) := fun _ _ => trivial
theorem rollback (ctx : BitVec 16) : Statement (.rollback ctx) := fun _ _ => trivial
theorem performanceCounterWrap (tile : BitVec 8) (j : BitVec 3) : Statement (.performanceCounterWrap tile j) := fun _ _ => trivial
theorem register : Statement .register := fun _ _ => trivial
theorem unregister : Statement .unregister := fun _ _ => trivial
theorem namespaceClosed (nsid : BitVec 32) : Statement (.namespaceClosed nsid) := fun _ _ => trivial
theorem harvestSelect (pool : BitVec 4) : Statement (.harvestSelect pool) := fun _ _ => trivial
theorem harvestDemotionDone (h : BitVec 32) : Statement (.harvestDemotionDone h) := fun _ _ => trivial
theorem harvestRemovalDone (h : BitVec 32) : Statement (.harvestRemovalDone h) := fun _ _ => trivial
theorem rakeSearch (die : BitVec 2) : Statement (.rakeSearch die) := fun _ _ => trivial
theorem collectiveReady (src : BitVec 12) (group seq tag : BitVec 16) : Statement (.collectiveReady src group seq tag) := fun _ _ => trivial
theorem collectiveData (src : BitVec 12) (group seq : BitVec 16) (tag : BitVec 16) (matching : Bool) (data : List Byte) : Statement (.collectiveData src group seq tag matching data) := fun _ _ => trivial
theorem collectiveTimeout (tile : BitVec 8) (seq : BitVec 32) : Statement (.collectiveTimeout tile seq) := fun _ _ => trivial
theorem brkxSet (tile : BitVec 8) : Statement (.brkxSet tile) := fun _ _ => trivial
theorem brkxClear (tile : BitVec 8) : Statement (.brkxClear tile) := fun _ _ => trivial
theorem brkxResume (tile : BitVec 8) : Statement (.brkxResume tile) := fun _ _ => trivial
theorem brkxQuery (tile : BitVec 8) : Statement (.brkxQuery tile) := fun _ _ => trivial

end Laws.RoundTrip

end Sys2Proof
end

