-- ==== Sys2Proof/Machine/RegReads.lean ====
section
/-! DEFINITION. Reads of the registers of BAR0 (R4, R5, R22): the word each register reads as, by chapter; a read changes no
state. A WO field, a `rsvd` field and an offset that no register has read as 0. -/

namespace Sys2Proof.Machine

/-! ## A word from the fields it holds -/

/-- A field of a word: its lowest bit and its value. -/
def fieldAt {w : Nat} (lo : Nat) (v : BitVec w) : W64 := v.setWidth 64 <<< lo
def flagAt (i : Nat) (b : Bool) : W64 := fieldAt i (BitVec.ofBool b)

/-- A word of a table whose entries have `n` bits. -/
def entriesAt (n : Nat) (f : Nat → Nat) : W64 :=
  (List.range (64 / n)).foldl (fun x i => x ||| (BitVec.ofNat 64 (f i) <<< (n * i))) 0

/-! ## The I/O die, the directory, programs -/

/-- SLU_BUDGET and SLU_STATUS (R43). -/
def State.readSluice (s : State) (a : Nat) : W64 :=
  if a = 0x100000 then s.sluBudget else if a = 0x100008 then s.sluStatus else 0

/-- HOMEMAP (R48). -/
def State.readHomemap (s : State) (a : Nat) : W64 :=
  entriesAt 16 fun i => (Tab.get 0 s.homemap ((a - 0x110000) / 2 + i)).toNat

/-- DIR_CFG (R55). -/
def State.readDirCfg (s : State) : W64 := fieldAt 59 s.dirSets ||| fieldAt 9 s.dirBase ||| flagAt 0 s.dirEn

/-- PROG_ADDR, PROG_CMD and PROG_STAT (R79): GO of PROG_CMD reads 0 (log entry 29). -/
def State.readProg (s : State) (a : Nat) : W64 :=
  if a = 0x120000 then s.progAddr
  else if a = 0x120008 then fieldAt 8 s.progSlot
  else if a = 0x120010 then fieldAt 16 s.progWord ||| flagAt 15 s.progBusy ||| fieldAt 0 s.progCode
  else 0

/-- QFUNC (R66). -/
def State.readQfunc (s : State) (a : Nat) : W64 :=
  entriesAt 8 fun i => (s.queueFn (BitVec.ofNat 10 (a - 0x121000 + i))).toNat

/-- MEXT_CMD, BOOT_STATUS and MREG0 to MREG15 (R93 to R95); MEXT_DATA is WO. -/
def State.readTrust (s : State) (a : Nat) : W64 :=
  if a = 0x130020 then fieldAt 24 s.mextCode ||| flagAt 8 s.mextGo ||| fieldAt 0 s.mextIdx
  else if a = 0x130040 then fieldAt 0 s.bootStatus
  else if 0x130100 ≤ a && a < 0x130300 then
    ((vget s.mreg 0 (BitVec.ofNat 4 ((a - 0x130100) / 32))).extractLsb' (8 * (a % 32)) 64 : BitVec 64)
  else 0

/-! ## Tenants, gangs, residency -/

/-- TEN_CFG, TEN_HELD, TEN_DEF01 and TEN_DEF23 (R138). -/
def State.readTenant (s : State) (a : Nat) : W64 :=
  let c : BitVec 6 := BitVec.ofNat 6 ((a - 0x140000) / 32)
  match (a - 0x140000) % 32 with
  | 0 => (s.tenant c).cfg
  | 8 => entriesAt 8 fun i => if i < 4 then s.heldTiles c (BitVec.ofNat 2 i) else 0
  | 16 => entriesAt 32 fun i => s.deficit c (BitVec.ofNat 2 i)
  | 24 => entriesAt 32 fun i => s.deficit c (BitVec.ofNat 2 (2 + i))
  | _ => 0

/-- GANG_TIME, GANG_SET and GANG_CTL (R146). -/
def State.readGang (s : State) (a : Nat) : W64 :=
  if a = 0x140800 then s.gangTime
  else if a = 0x140808 then s.gangSet
  else if a = 0x140810 then flagAt 1 s.gangDone ||| flagAt 0 s.gangArmed
  else 0

/-- RES_BASE, RES_CMD, RES_POOL and RES_CXLPOOL (R148, R149). -/
def State.readRes (s : State) (a : Nat) : W64 :=
  if a = 0x141000 then s.resBase
  else if a = 0x141008 then fieldAt 48 s.resHandle ||| flagAt 31 s.resGo ||| fieldAt 16 s.resCode ||| fieldAt 11 s.resOp
  else if a < 0x141030 then fieldAt 0 (vget s.resPool 0 (BitVec.ofNat 2 ((a - 0x141010) / 8)))
  else if a = 0x141030 then s.resCxl
  else 0

/-! ## Shootdowns, replication, the Saltern -/

/-- SD_ADDR and SD_CMD (R204). -/
def State.readSd (s : State) (a : Nat) : W64 :=
  if a = 0x150000 then s.sdAddr
  else if a = 0x150008 then fieldAt 48 s.sdCtx ||| flagAt 31 s.sdGo ||| fieldAt 16 s.sdCode ||| fieldAt 2 s.sdScope
  else 0

/-- NS_ADDR and NS_CMD (R213). -/
def State.readNs (s : State) (a : Nat) : W64 :=
  if a = 0x160000 then s.nsAddr
  else if a = 0x160008 then fieldAt 32 s.nsNsid ||| flagAt 31 s.nsGo ||| fieldAt 16 s.nsCode ||| fieldAt 0 s.nsOp
  else 0

/-- REPL_DESC and REPL_CMD (R59). -/
def State.readRepl (s : State) (a : Nat) : W64 :=
  let r := s.repl
  if a = 0x160020 then r.desc
  else if a = 0x160028 then fieldAt 32 r.count ||| flagAt 31 r.go ||| fieldAt 16 r.code ||| fieldAt 8 r.last
  else 0

/-- SALT_IDX (R228). -/
def State.readIdx (s : State) (a : Nat) : W64 :=
  let d : BitVec 2 := BitVec.ofNat 2 ((a - 0x160100) / 8)
  fieldAt 59 (vget s.idxLog 0 d) ||| fieldAt 8 (vget s.idxBase 0 d)

/-- BASE, SIZE, WM and FREE of a pool (R232). -/
def State.readPool (s : State) (a : Nat) : W64 :=
  let j : BitVec 4 := BitVec.ofNat 4 ((a - 0x161000) / 32)
  let p := s.pool j
  match (a - 0x161000) % 32 with
  | 0 => p.base
  | 8 => fieldAt 0 p.size
  | 16 => fieldAt 32 p.high ||| fieldAt 0 p.low
  | 24 => BitVec.ofNat 64 (poolFree j p)
  | _ => 0

/-! ## Errors, checkpoints, time, HBM, peer ports -/

/-- ERR_LOST and CKPT_CFG (R317, R319). -/
def State.readErr (s : State) (a : Nat) : W64 :=
  let k := s.ckCfg
  if a = 0x170040 then flagAt 32 s.errOvf ||| fieldAt 0 s.errLost
  else if a = 0x170100 then
    fieldAt 48 k.ctx ||| fieldAt 38 k.interval ||| fieldAt 31 k.undo ||| fieldAt 16 k.code ||| flagAt 0 k.go
  else 0

/-- TIME_STATUS, DEVTIME, TICKCNT, TIME_OFFSET, TIME_CTL and SCRUB_STATUS (R18, R34). -/
def State.readTime (s : State) (a : Nat) : W64 :=
  if a = 0x181000 then s.timeStatus
  else if a = 0x181008 then s.devtime
  else if a = 0x181010 then s.tickcnt
  else if a = 0x181018 then s.tOffset
  else if a = 0x181020 then fieldAt 8 s.tDomain ||| flagAt 1 s.tDelay ||| flagAt 0 s.tEn
  else if 0x182000 ≤ a && a < 0x182040 then
    let k : BitVec 3 := BitVec.ofNat 3 ((a - 0x182000) / 8)
    fieldAt 32 (vget s.scrubPass 0 k) ||| fieldAt 0 (vget s.scrubPos 0 k)
  else 0

/-- PKGID, ROUTE and PL_CTL (R30). -/
def State.readPeer (s : State) (a : Nat) : W64 :=
  if a = 0x180000 then fieldAt 0 s.pkgid
  else if 0x184000 ≤ a && a < 0x188000 then entriesAt 32 fun i => (Tab.get 0 s.route ((a - 0x184000) / 4 + i)).toNat
  else if 0x188000 ≤ a && a < 0x188080 then
    let p := s.port (BitVec.ofNat 4 ((a - 0x188000) / 8))
    flagAt 2 p.down ||| flagAt 1 p.up ||| flagAt 0 p.en
  else 0

/-! ## Queues, rings, the window, MSI-X (R23, R24, R66 to R68, R86) -/

/-- A word of a queue's block (R66 to R68). -/
def State.readQueue (s : State) (n : BitVec 10) (o : Nat) : W64 :=
  let q := s.queue n
  match o with
  | 0x00 => q.base
  | 0x08 => q.ctl
  | 0x10 => fieldAt 0 q.head
  | 0x18 => fieldAt 0 q.tail
  | 0x20 => fieldAt 24 q.err ||| flagAt 2 q.inflight.isEmpty ||| flagAt 1 q.halted ||| flagAt 0 q.dbign
  | 0x28 => fieldAt 0 q.ctx
  | _ => 0

/-- A word of a completion ring's block, or of the error ring's (R86, R316). -/
def State.readRing (s : State) (c : Nat) (o : Nat) : W64 :=
  let r := s.ring c
  match o with
  | 0x00 => r.base
  | 0x08 => r.ctl
  | 0x10 => fieldAt 0 r.head
  | 0x18 => fieldAt 0 r.tail
  | 0x20 => flagAt 1 r.cfgerr ||| flagAt 0 r.full
  | 0x28 => fieldAt 0 r.ctx
  | _ => 0

/-- W2_VA and W2_CTX of a function (R23). -/
def State.readWindow (s : State) (fn : BitVec 8) (a : Nat) : W64 :=
  let f := s.fn fn
  if a = 0x190000 then fieldAt 30 f.w2va else flagAt 16 f.w2en ||| fieldAt 0 f.w2ctx

/-- A word of a function's MSI-X table, then of its pending-bit array (R24): the mask bit of a vector is bit 0 of the entry's
last four bytes. -/
def State.readMsix (s : State) (fn : BitVec 8) (o : Nat) : W64 :=
  let f := s.fn fn
  if 0x8000 ≤ o then
    (List.range 64).foldl (fun x i => x ||| flagAt i (f.pba.contains (8 * (o - 0x8000) + i))) 0
  else
    let x := BitVec.ofNat 64 (leNat (Mem.gets f.msixTab o 8))
    if o % 16 = 0 then x else (x &&& ~~~ flagAt 32 true) ||| flagAt 32 (!f.unmasked.contains (o / 16))

/-! ## Every word -/

/-- A word of the registers that only the physical function's BAR0 has. -/
def State.readPf (s : State) (a : Nat) : W64 :=
  if a < 0x110000 then s.readSluice a
  else if a < 0x112000 then s.readHomemap a
  else if a = 0x112000 then s.readDirCfg
  else if a < 0x120000 then 0
  else if a < 0x121000 then s.readProg a
  else if a < 0x121400 then s.readQfunc a
  else if a < 0x130000 then 0
  else if a < 0x131000 then s.readTrust a
  else if a < 0x140000 then 0
  else if a < 0x140800 then s.readTenant a
  else if a < 0x141000 then s.readGang a
  else if a < 0x150000 then s.readRes a
  else if a < 0x160000 then s.readSd a
  else if a < 0x160010 then s.readNs a
  else if a < 0x160100 then s.readRepl a
  else if a < 0x160120 then s.readIdx a
  else if a < 0x161000 then 0
  else if a < 0x161200 then s.readPool a
  else if a < 0x170000 then 0
  else if a < 0x180000 then s.readErr a
  else if a = 0x180000 || 0x184000 ≤ a then s.readPeer a
  else s.readTime a

/-- An aligned word of a function's BAR0 as it reads (R22, R66): a virtual function sees its own queues, window and table, and
in recovery only the registers of R93 answer. -/
def State.readWord (s : State) (fn : BitVec 8) (a : Nat) : W64 :=
  if s.recovery && !(0x130000 ≤ a && a < 0x131000) then 0
  else if a = 0x190000 || a = 0x190008 then s.readWindow fn a
  else if 0x1000000 ≤ a && a < 0x1010000 then
    let n : BitVec 10 := BitVec.ofNat 10 ((a - 0x1000000) / 64)
    if s.reaches fn n then s.readQueue n (a % 64) else 0
  else if 0x1800000 ≤ a && a < 0x1810000 then
    let c : BitVec 10 := BitVec.ofNat 10 ((a - 0x1800000) / 64)
    if s.reaches fn c then s.readRing c.toNat (a % 64) else 0
  else if 0x3000000 ≤ a && a < 0x3008100 then s.readMsix fn (a - 0x3000000)
  else if fn ≠ 0 || 0x1000000 ≤ a then 0
  else if 0x170000 ≤ a && a < 0x170040 then s.readRing errRing (a - 0x170000)
  else s.readPf a

/-- A read of `n` bytes of a function's BAR0 at `off` (R22). -/
def State.readRegister (s : State) (fn : BitVec 8) (off n : Nat) : List Byte :=
  (List.range n).map fun i => (s.readWord fn ((off + i) / 8 * 8)).extractLsb' (8 * ((off + i) % 8)) 8

end Sys2Proof.Machine
end

