-- ==== Sys2Proof/Tests/Slice0.lean ====
section
/-! SUPPORT. Tests: small states; for each statement with hypotheses a witness, clause by clause at the ends of its ranges
(`wit_<name of the statement>`); well-formedness; words decoded; single steps. Expected results are the spec's, or worked out
from its rules. -/

set_option maxRecDepth 100000
set_option Elab.async false

namespace Sys2Proof.Tests

open Sys2Proof.Machine Sys2Proof.Says

/-! ## Small states -/

/-- A tile that runs an item of context `c` in class 7, with values in `a1`, `a2`, `x1`, `x2` and `v1`. -/
def tl (c : BitVec 16) : Tile :=
  { Tile.reset with
    ctx := some c, ist := .running, sclass := 7
    areg := vset (vset Tile.reset.areg (1 : R5) 7) (2 : R5) (-3), xreg := vset (vset Tile.reset.xreg (1 : R5) 7) (2 : R5) (-3)
    v := vset Tile.reset.v (1 : V6) { VName.reset with st := .live, val := 0x01020304 }, xpc := 16383 }

/-- The package with one tile, 3, whose A-stream or X-stream issues. -/
def sa (t : Tile) : State := { State.reset with tiles := [(3, t)], cur := .stream 3 .a }
def sx (t : Tile) : State := { State.reset with tiles := [(3, t)], cur := .stream 3 .x }

/-- Tile 3 of a next state. -/
def tile3 (o : Host.Outcome State Fault Refusal) : Tile := match o with | .next s => s.tile 3 | _ => Tile.reset

/-! ## Witnesses: for each statement with hypotheses, a state and operands that meet them, clause by clause -/

theorem wit_ThreeRegisterOperationsWriteD :
    Ready (sa (tl 1)) 3 .a [.x 0, .x 31, .x 1] (.x 0) ∧ Ready (sx (tl 1)) 3 .x [.x 0, .x 31, .x 1] (.x 31) ∧
    ((opened (sx (tl 1)) 3 .x).tile 3).units.div ≤ ((opened (sx (tl 1)) 3 .x).tile 3).xcyc := by
  unfold Ready; and_intros <;> decide

theorem wit_ImmediateOperationsWriteD :
    Ready (sa (tl 1)) 3 .a [.x 1, .x 31] (.x 31) ∧ Ready (sx (tl 1)) 3 .x [.x 0, .x 0] (.x 0) ∧
    (fld 0x1C040000 26 6 = 0x07 ∧ fld 0x1C040000 18 3 ≠ 0) ∧ (fld 0x1FFFFFFF 26 6 = 0x07 ∧ fld 0x1FFFFFFF 18 3 ≠ 0) ∧
    (fld 0x18003000 26 6 = 0x06 ∧ 3 ≤ (fld 0x18003000 12 4).toNat) ∧
    (fld 0x18002FC0 26 6 = 0x06 ∧ (fld 0x18002FC0 12 4).toNat < 3 ∧ fld 0x18002FC0 6 6 ≠ 0) := by
  unfold Ready; and_intros <;> decide

/-- A tile with poisoned `a3` and `x3`, and with flag 7 not known yet. -/
def poisoned : Tile := { tl 1 with apois := 8, xpois := 8, fpend := 0x80, flags := 1 }

theorem wit_FlagOperations :
    (sa poisoned).cur = .stream 3 .a ∧ (scalar poisoned .a 1).2 = false ∧ (scalar poisoned .a 0).2 = false ∧ (scalar poisoned .a 3).2 = true ∧
    known poisoned 0 ∧ known poisoned 6 ∧ ¬ known poisoned 7 ∧
    (fld 0x21000000 26 6 = 0x08 ∧ (fld 0x21000000 0 6).toNat ≤ 8 ∧ fld 0x21000000 24 2 ≠ 0) ∧
    (fld 0x2308000A 26 6 = 0x08 ∧ (fld 0x2308000A 0 6).toNat = 10 ∧ fld 0x2308000A 24 2 ≠ 0) ∧
    (fld 0x20080006 26 6 = 0x08 ∧ 6 ≤ (fld 0x20080006 0 6).toNat ∧ (fld 0x20080006 0 6).toNat ≤ 9 ∧ fld 0x20080006 19 2 ≠ 0) ∧
    (fld 0x20004008 26 6 = 0x08 ∧ 6 ≤ (fld 0x20004008 0 6).toNat ∧ (fld 0x20004008 0 6).toNat ≤ 8 ∧ fld 0x20004008 14 2 ≠ 0) ∧
    (fld 0x2000000B 26 6 = 0x08 ∧ 11 ≤ (fld 0x2000000B 0 6).toNat) := by
  unfold known; and_intros <;> decide

theorem wit_BranchesGoWhereTheirConditionSays :
    Ready (sa poisoned) 3 .a [.x 1, .x 0] (.x 0) ∧ (scalar poisoned .a 1).2 = false ∧ (scalar poisoned .a 0).2 = false ∧
    Ready (sx poisoned) 3 .x [.x 1, .x 3] (.x 0) ∧ (scalar ((opened (sx poisoned) 3 .x).tile 3) .x 3).2 = true ∧
    ((sa poisoned).cur = .stream 3 .a ∧ known ((sa poisoned).tile 3) 0) ∧
    ((sx { tl 1 with qb := [true, false] }).cur = .stream 3 .x ∧ ((sx { tl 1 with qb := [true, false] }).tile 3).qb = [true, false]) := by
  unfold Ready known; and_intros <;> decide

theorem wit_JumpsAndLinks :
    Ready (sa poisoned) 3 .a [.x 1] (.x 0) ∧ Ready (sx poisoned) 3 .x [.x 3] (.x 31) ∧ (1 : R5) ≠ 0 ∧ (scalar poisoned .a 1).2 = false ∧
    (scalar ((opened (sx poisoned) 3 .x).tile 3) .x 3).2 = true := by
  unfold Ready; and_intros <;> decide

/-- A tile with entries in its queues and token 31 pending. -/
def queued : Tile :=
  { tl 1 with q := vset (vset Tile.reset.q (6 : BitVec 4) [{ data := 5, pois := 0 }]) (0 : BitVec 4) [{ data := 6, pois := 3 }]
              tk := vset Tile.reset.tk (31 : R5) { pending := true, count := 2 } }

theorem wit_TokenInstructions :
    Ready (sa queued) 3 .a [] (.x 0) ∧ Ready (sx queued) 3 .x [] (.x 31) ∧
    ¬ ((0 : R5) ≠ 0 ∧ (vget queued.tk { pending := false, count := 0 } (0 : R5)).pending = true) ∧
    ((31 : R5) ≠ 0 ∧ (vget queued.tk { pending := false, count := 0 } (31 : R5)).pending = true) := by
  unfold Ready; and_intros <;> decide

theorem wit_QueueTransfersBetweenTheStreams :
    (6 : BitVec 4) < 8 ∧ vget ((sa queued).tile 3).q [] (6 : BitVec 4) = { data := 5, pois := 0 } :: [] ∧
    known ((sa queued).tile 3) 7 ∧ ((sa queued).tile 3).qb.length < 64 ∧
    (0 : BitVec 4) < 8 ∧ vget ((sx queued).tile 3).q [] (0 : BitVec 4) = { data := 6, pois := 3 } :: [] ∧
    Ready (sx queued) 3 .x [] (.x 1) ∧ Ready (sx queued) 3 .x [.x 1] (.x 0) ∧ (vget ((sx queued).tile 3).q [] (7 : BitVec 4)).length < 16 ∧
    VReady (sx queued) 3 [] [1] [] ∧ VReady (sx queued) 3 [1] [] [] := by
  unfold known Ready VReady NamesReady; and_intros <;> decide

theorem wit_VectorArithmeticWritesItsDestination :
    ((Instr.vadd .i8 63 1 1 0).Wf ∧ UReady (sx (tl 1)) 3 [1, 1] [63] (unitOf .add .i8)) ∧
    ((Instr.vdiv .f64 1 1 1 15).Wf ∧ UReady (sx (tl 1)) 3 [1, 1] [1] (unitOf .div .f64)) ∧
    ((Instr.vmac .bf16 1 1 1 15).Wf ∧ UReady (sx (tl 1)) 3 [1, 1] [1] (unitOf .mac .bf16)) ∧
    ((Instr.vsqrt .f16 1 1 0).Wf ∧ UReady (sx (tl 1)) 3 [1] [1] [.vdiv]) ∧ UReady (sx (tl 1)) 3 [1, 1, 1] [1] [] := by
  unfold UReady VReady NamesReady; and_intros <;> decide

theorem wit_IntegerElementsAreComputedElementByElement :
    Ty.i8.isInt = true ∧ 255 < 2048 / Ty.i8.bits ∧ intElem .adds .i8 127 1 = some 127 := by decide

theorem wit_VectorComparesAndReductions :
    ((Instr.vcmple .f64 15 1 2 0).Wf ∧ UReady (sx (tl 1)) 3 [1, 2] [] [.valu] ∧ ((15 : K4) ≠ 0 ∧ ((opened (sx (tl 1)) 3 .x).tile 3).dependants (.k 15) = []) ∧
      (((opened (sx (tl 1)) 3 .x).tile 3).vname 1).pois = 0 ∧ (((opened (sx (tl 1)) 3 .x).tile 3).vname 2).pois = 0) ∧
    evCmp .eq .i32 false (0, 2 ^ 63) (0, 0) (BitVec.allOnes 512) = none ∧
    ((Instr.vcmpeq .n8 0 1 1 1).Wf ∧ UReady (sx (tl 1)) 3 [1, 1] [] [.valu]) ∧
    ((Instr.vrsumc .f64 63 1 0).Wf ∧ UReady (sx (tl 1)) 3 [1] [63] [.vred]) ∧ ((Instr.vrmin .i8 1 1 15).Wf ∧ UReady (sx (tl 1)) 3 [1] [1] [.vred]) := by
  unfold UReady VReady NamesReady; and_intros <;> decide

theorem wit_VectorMovementsWriteTheirDestination :
    UReady (sx (tl 1)) 3 [1, 0] [63] [.vperm] ∧ UReady (sx (tl 1)) 3 [] [0] [.vperm] ∧ UReady (sx (tl 1)) 3 [1] [1] [.vperm] ∧
    UReady (sx (tl 1)) 3 [1] [2] [.valu] ∧
    ((sx { tl 1 with sclass := 1 }).cur = .stream 3 .x ∧ ((opened (sx { tl 1 with sclass := 1 }) 3 .x).tile 3).sclass < 2 ∧
      vectorUnit (.vadd .i32 1 2 3 0) = true ∧ vectorUnit (.vstc 0 0 0 0 0) = true) := by
  unfold UReady VReady NamesReady; and_intros <;> decide

theorem wit_MaskOperations :
    UReady (sx poisoned) 3 [] [] [.valu] ∧ ((15 : K4) ≠ 0 ∧ ((opened (sx poisoned) 3 .x).tile 3).dependants (.k 15) = []) ∧
    ((∀ p ∈ ((opened (sx poisoned) 3 .x).tile 3).pend, p.dst ≠ .x 1) ∧ (scalar ((opened (sx poisoned) 3 .x).tile 3) .x 1).2 = false) ∧
    ((∀ p ∈ ((opened (sx poisoned) 3 .x).tile 3).pend, p.dst ≠ .x 3) ∧ (scalar ((opened (sx poisoned) 3 .x).tile 3) .x 3).2 = true) ∧
    ((opened (sx poisoned) 3 .x).tile 3).dependants (.x 31) = [] := by
  unfold UReady VReady NamesReady; and_intros <;> decide

theorem wit_ConversionsWriteTheirGroup :
    ((Instr.vcvt .f32 .e2m1 56 1 2).Wf ∧ UReady (sx (tl 1)) 3 ([1] ++ [2]) [56, 57, 58, 59, 60, 61, 62, 63] [.valu]) ∧
    ((Instr.vcvt .i8 .i16 0 62 1).Wf ∧ UReady (sx (tl 1)) 3 [62, 63] [0] [.valu]) := by
  unfold UReady VReady NamesReady; and_intros <;> decide

/-- A tile whose `x5` and `x6` name the last bytes of levels 1 and 2. -/
def atTop : Tile := { tl 1 with xreg := vset (vset Tile.reset.xreg (5 : R5) (2097152 - 256 * 8)) (6 : R5) (8388608 - 256 + 256) }

theorem wit_VectorLoadsReadTheirLevel :
    ((sx atTop).cur = .stream 3 .x ∧ 2 ≤ ((held (sx atTop) 3 false).tile 3).sclass ∧ NamesReady (held (sx atTop) 3 false) 3 [] (names 56 8) [.ls1] ∧
      (∀ p ∈ ((held (sx atTop) 3 false).tile 3).pend, p.dst ≠ .x 5) ∧
      XAddress level1 (scalar ((held (sx atTop) 3 false).tile 3) .x 5) 0 8 (2097152 - 2048)) ∧
    (NamesReady (held (sx atTop) 3 false) 3 [] (names 0 1) [.ls2] ∧ (∀ p ∈ ((held (sx atTop) 3 false).tile 3).pend, p.dst ≠ .x 6) ∧
      XAddress level2 (scalar ((held (sx atTop) 3 false).tile 3) .x 6) (-1) 1 (8388608 - 256)) := by
  unfold NamesReady XAddress; and_intros <;> decide

theorem wit_VectorStoresWriteTheirLevel :
    ((sx atTop).cur = .stream 3 .x ∧ 2 ≤ ((held (sx atTop) 3 true).tile 3).sclass ∧ NamesReady (held (sx atTop) 3 true) 3 (names 56 8) [] [.ls1] ∧
      (∀ p ∈ ((held (sx atTop) 3 true).tile 3).pend, p.dst ≠ .x 5) ∧
      XAddress level1 (scalar ((held (sx atTop) 3 true).tile 3) .x 5) 0 8 (2097152 - 2048) ∧
      (∀ i < 256 * 8, ((held (sx atTop) 3 true).tile 3).sealb.getLsbD ((2097152 - 2048 + i) / 4096) = false)) ∧
    (NamesReady (held (sx atTop) 3 true) 3 (names 0 1) [] [.ls2] ∧ (∀ p ∈ ((held (sx atTop) 3 true).tile 3).pend, p.dst ≠ .x 6) ∧
      XAddress level2 (scalar ((held (sx atTop) 3 true).tile 3) .x 6) (-1) 1 (8388608 - 256)) := by
  unfold NamesReady XAddress; and_intros <;> decide +kernel

/-- A leaf entry (R198): valid, readable, writable, a page of 64 KiB, the home die 0. -/
def leaf0 : BitVec 128 := 0x20008D

/-- A tile of context 0 whose translation cache maps the page at VA 0x40000000 to physical address 0x200000. -/
def mapped : Tile :=
  { tl 0 with
    tlb := [{ ctx := 0, va := 0x40000000, log2 := 16, leaf := leaf0 }]
    areg := vset (vset Tile.reset.areg (9 : R5) 0x40000038) (8 : R5) 0x40000000
    q := vset Tile.reset.q (6 : BitVec 4) [{ data := 5, pois := 0 }] }

/-- A line of the L1D that holds the line at 0x200000 + 64 i whole. -/
def line0 (i : Nat) : L1Line :=
  { line := 0x8000 + i, data := 0x1234, pois := false, vmask := BitVec.allOnes 64, cmask := 0, dmask := 0, key := 0, coh := 0, lru := i + 1 }

/-- The same tile with the first four lines of the page in its L1D. -/
def cached : Tile := { mapped with l1 := [line0 0, line0 1, line0 2, line0 3], l1use := 9 }

theorem wit_LoadsThatHitTheL1D :
    (sa cached).cur = .stream 3 .a ∧ Address ((sa cached).tile 3) 9 0 8 0x40000038 ∧ Reaches (sa cached) 3 0x40000038 .read 0x200038 leaf0 ∧
    leafPeer leaf0 = false ∧ (3 : BitVec 2) ≠ 2 ∧ ((sa cached).tile 3).l1Get (0x200038 / 64) = some (line0 0) ∧
    (line0 0).vmask &&& bytesAt (0x200038 % 64) 8 = bytesAt (0x200038 % 64) 8 := by
  unfold Address Reaches; and_intros <;> decide

theorem wit_LoadsThatReadTheHome :
    (let u := (sa mapped).modTile 3 (served 0x40000038)
     let s1 := u.arrive 3 (0x200038 / 64)
     (sa mapped).cur = .stream 3 .a ∧ Address ((sa mapped).tile 3) 9 0 8 0x40000038 ∧ Reaches (sa mapped) 3 0x40000038 .read 0x200038 leaf0 ∧
     leafPeer leaf0 = false ∧ ((sa mapped).tile 3).claims = [] ∧ ((sa mapped).tile 3).l1Get (0x200038 / 64) = none ∧
     ((sa mapped).tile 3).l1Victim (0x200038 / 64) = none ∧ u.reqFull 3 = false ∧
     s1.served (homeOf 0x200038) (((sa mapped).tile 3).rdV.getD (s1.die (dieOf 3)).vclk) = true) ∧
    (let u := (sa cached).modTile 3 (served 0x40000038)
     let s1 := (u.l1Drop 3 (line0 0)).arrive 3 (0x200038 / 64)
     Reaches (sa cached) 3 0x40000038 .read 0x200038 leaf0 ∧ ((sa cached).tile 3).l1Get (0x200038 / 64) = some (line0 0) ∧ ((sa cached).tile 3).claims = [] ∧
     u.reqFull 3 = false ∧ s1.served (homeOf 0x200038) (((sa cached).tile 3).rdV.getD (s1.die (dieOf 3)).vclk) = true ∧ leafCoh leaf0 ≠ 2) := by
  unfold Address Reaches; and_intros <;> decide

theorem wit_StoresGoWhereTheirPolicySays :
    ((sa cached).cur = .stream 3 .a ∧ Address ((sa cached).tile 3) 9 0 8 0x40000038 ∧ Reaches (sa cached) 3 0x40000038 .write 0x200038 leaf0 ∧
      ((sa cached).tile 3).relPend = [] ∧ ((sa cached).tile 3).l1Get (lineNo leaf0 0x200038) = some (line0 0) ∧
      (∀ c ∈ ((sa cached).tile 3).claims, c.line ≠ lineNo leaf0 0x200038) ∧ ((sa cached).modTile 3 (served 0x40000038)).reqFull 3 = false) ∧
    (Reaches (sa mapped) 3 0x40000038 .write 0x200038 leaf0 ∧ ((sa mapped).tile 3).l1Get (lineNo leaf0 0x200038) = none ∧
      ((sa mapped).tile 3).l1Victim (lineNo leaf0 0x200038) = none ∧ ((sa mapped).modTile 3 (served 0x40000038)).reqFull 3 = false) := by
  unfold Address Reaches; and_intros <;> decide

/-- A write of byte 5 of line 0x8000 on its way from die 0 to home 0. -/
def write0 : HomeWrite :=
  { line := 0x8000, mask := 0x20, data := 0xAB0000000000, pois := false, key := 0, coh := 0, ctx := 0, tile := 3, kind := .wt, vclk := Vector.replicate 4 0 }

theorem wit_PostedWritesLandAtTheirHome :
    let s := { (sa mapped).setChan 0 0 [.write write0] with agenda := [.deliver 0 0, .stream 3 .a] }
    s.agenda = .deliver 0 0 :: [.stream 3 .a] ∧ s.chan 0 0 = .write write0 :: [] ∧ Unheld s write0.line ∧ Tab.get? s.lineKey write0.line = none ∧
    0 = homeOf (64 * write0.line) := by
  unfold Unheld; and_intros <;> decide

theorem wit_AtomicsReadAndWriteAtTheHome :
    let s := sa cached
    let h (e : R5) := atHome s 3 0x40000038 leaf0 0x200038 3 3 (bytesAt 56 (if e = 0 then 4 else 8))
    s.cur = .stream 3 .a ∧ Address (s.tile 3) 9 0 4 0x40000038 ∧ Address (s.tile 3) 9 0 8 0x40000038 ∧ Reaches s 3 0x40000038 .atomic 0x200038 leaf0 ∧
    leafPeer leaf0 = false ∧ (s.tile 3).relPend = [] ∧ (s.tile 3).claims = [] ∧ (s.tile 3).rdV = none ∧ (s.modTile 3 (served 0x40000038)).reqFull 3 = false ∧
    (h 1).served (homeOf 0x200038) ((h 1).die (dieOf 3)).vclk = true ∧ ((h 0).rdLine (leafKey leaf0) (lineNo leaf0 0x200038)).2 = false ∧
    (scalar (s.tile 3) .a 0).2 = false ∧ (scalar { cached with apois := 8 } .a 3).2 = true := by
  unfold Address Reaches; and_intros <;> decide +kernel

theorem wit_QueueFillsAndStores :
    (let s := sa cached
     s.cur = .stream 3 .a ∧ Address (s.tile 3) 8 0 64 0x40000000 ∧ (7 : BitVec 4) < 8 ∧ (0x200000 : Nat) % 64 = 0 ∧ leafPeer leaf0 = false ∧
     (0x40000000 : W64).toNat / 65536 = ((0x40000000 : W64) + 255).toNat / 65536 ∧ (vget (s.tile 3).q [] (7 : BitVec 4)).length < 16 ∧ (0 : BitVec 2) ≠ 2 ∧ (0 : BitVec 2) ≠ 1 ∧
     (∀ i < 4, Reaches s 3 (0x40000000 + BitVec.ofNat 64 (64 * i)) .read (0x200000 + 64 * i) leaf0 ∧
       (s.tile 3).l1Get (0x200000 / 64 + i) = some (line0 i) ∧ (line0 i).vmask = BitVec.allOnes 64)) ∧
    (let s := sa mapped
     vget (s.tile 3).q [] (6 : BitVec 4) = { data := 5, pois := 0 } :: [] ∧ (s.tile 3).relPend = [] ∧ (3 : BitVec 2) ≠ 0 ∧ s.reqWanted 3 + 4 ≤ 512 ∧
     (∀ c ∈ (s.tile 3).claims, c.line < 0x200000 / 64 ∨ 0x200000 / 64 + 4 ≤ c.line) ∧
     (∀ i < 4, Reaches s 3 (0x40000000 + BitVec.ofNat 64 (64 * i)) .write (0x200000 + 64 * i) leaf0 ∧ (s.tile 3).l1Get (0x200000 / 64 + i) = none)) := by
  unfold Address Reaches; and_intros <;> decide

theorem wit_Fences :
    ((sa cached).cur = .stream 3 .a ∧ ((sa cached).tile 3).relPend = [] ∧ ((sa cached).tile 3).claims = [] ∧ ((sa cached).tile 3).rdV = none ∧ ((3 : BitVec 2) = 3 → (3 : BitVec 2) = 3)) ∧
    (sx cached).cur = .stream 3 .x := by and_intros <;> decide

/-! ### Launches and stages -/

/-- A stage whose code is at VA 0, with entries at word 0, in class 1. -/
def stage0 : StageDesc := { acode := 0, xcode := 0, asize := 1, xsize := 1, aentry := 0, xentry := 0, cls := 1, log2depth := 0, qslice := 0, qoff := 0 }

def packet0 : Packet := { id := 9, queue := 5, count := 9, len := 1, words := [0x0102, 0, 0, 0, 0, 0, 0, 0] }

/-- A launch of two stages in context 1. -/
def launch0 : Launch :=
  { id := 1, ctx := 1, tclass := 0, nstage := 2, nfield := 1, dielev := 1, clulev := 1, cohort := false, mindie := 1, maxdie := 4, widths := [4]
    counts := [4], stages := [stage0, stage0], args := [11], dies := Vector.replicate 4 LaunchDie.empty, nextGroup := 0, started := false, retired := 0
    gens := [], gretired := [], packet := packet0, header := [], interval := 0, handles := [], counted := false }

def item0 (stage : BitVec 3) (grp : Option Nat) : Item :=
  { launch := 1, stage := stage, num := 0, wid := 3, entry := [], group := grp, rank := 0, start := 0 }

/-- Tile 3 runs an item of a stage of `launch0`. -/
def inLaunch (t : Tile) (stage : BitVec 3) (grp : Option Nat) : State :=
  { sa { t with item := some (item0 stage grp), launch := some 1 } with launches := [(1, launch0)] }

/-- Queue 5 takes packets of context 1 from tiles. -/
def withQueue (s : State) : State := s.modQueue 5 fun q => { q with en := true, src := true, ctx := 1 }

theorem cleanAll {l : List (W64 × Bool)} (h : (l.all fun w => !w.2) = true) : ∀ w ∈ l, w.2 = false := by simpa using h
theorem uncleanAll {l : List (W64 × Bool)} (h : (l.any fun w => w.2) = true) : ¬ ∀ w ∈ l, w.2 = false := by simpa using h

theorem wit_StagePushesEnqueuesAndBarriers :
    (let s := withQueue (inLaunch { tl 1 with areg := vset (tl 1).areg (4 : R5) 5 } 0 none)
     let t := s.tile 3
     s.cur = .stream 3 .a ∧ (∀ w ∈ eight t, w.2 = false) ∧ t.item = some (item0 0 none) ∧ s.launch? (item0 0 none).launch = some launch0 ∧
     (item0 0 none).stage.toNat + 1 < launch0.nstage ∧ launch0.stages[(item0 0 none).stage.toNat]? = some stage0 ∧
     ((scalar t .a 4).2 = false ∧ (scalar t .a 4).1.toNat < 1024 ∧ (s.queue ((scalar t .a 4).1.setWidth 10)).en = true ∧
       (s.queue ((scalar t .a 4).1.setWidth 10)).src = true ∧ (s.queue ((scalar t .a 4).1.setWidth 10)).ctx = t.ctx.getD 0) ∧
     ((scalar t .a 1).2 = false ∧ (s.queue ((scalar t .a 1).1.setWidth 10)).en = false)) ∧
    (let s := inLaunch (tl 1) 1 none
     (∀ w ∈ eight (s.tile 3), w.2 = false) ∧ (s.tile 3).item = some (item0 1 none) ∧ ¬ (item0 1 none).stage.toNat + 1 < launch0.nstage) ∧
    (¬ (∀ w ∈ eight { tl 1 with apois := 0x8000 }, w.2 = false) ∧ (scalar { tl 1 with apois := 2 } .a 1).2 = true) ∧
    (let t := (inLaunch (tl 1) 0 (some 2)).tile 3
     t.item = some (item0 0 (some 2)) ∧ (item0 0 (some 2)).group = some 2 ∧ t.relPend = [] ∧ t.claims = [] ∧ t.inBar = false) ∧
    (let s := inLaunch { tl 1 with inBar := true } 0 (some 2)
     (s.tile 3).inBar = true ∧ (s.tile 3).bars ≤ launch0.gen 2) ∧ (tl 1).item = none := by
  and_intros <;> first | exact cleanAll (by decide) | exact uncleanAll (by decide) | decide

/-! ### Accumulators, status registers, recipes -/

theorem wit_AccumulatorInstructions :
    (let s := sx { tl 1 with z := vset Tile.reset.z (7 : BitVec 3) { ZTile.reset with valid := true } }
     let t := (opened s 3 .x).tile 3
     s.cur = .stream 3 .x ∧ 2 ≤ t.sclass ∧ ZQuiet t 7 ∧ ZQuiet t 0 ∧ t.units.acc ≤ t.xcyc ∧ (vget t.z ZTile.reset (7 : BitVec 3)).valid = true ∧
     (vget t.z ZTile.reset (0 : BitVec 3)).valid = false ∧ NamesReady (opened s 3 .x) 3 [] [63] [.acc] ∧ NamesReady (opened s 3 .x) 3 [1] [] [.acc] ∧
     (∀ p ∈ t.pend, p.dst ≠ .x 2) ∧ (scalar t .x 2).2 = false ∧ t.dependants (.x 31) = []) ∧
    ((opened (sx { tl 1 with sclass := 1 }) 3 .x).tile 3).sclass < 2 := by
  unfold ZQuiet NamesReady; and_intros <;> decide

theorem wit_StatusRegisterReads :
    Ready (sa (tl 1)) 3 .a [] (.x 31) ∧ (csrValue (sa (tl 1)) 3 .a 0x017).isSome = true ∧ (csrValue (sa (tl 1)) 3 .a 0x000).isNone = true ∧
    Ready (sx (tl 1)) 3 .x [] (.x 0) ∧ (csrValue (sx (tl 1)) 3 .x 0x001).isSome = true ∧ (csrValue (sx (tl 1)) 3 .x 0x041).isNone = true := by
  unfold Ready; and_intros <;> decide

theorem wit_StatusRegisterWrites :
    (let s := sx { poisoned with pmovf := 3, fstat := 5 }
     let t := (opened s 3 .x).tile 3
     Ready s 3 .x [.x 1] (.x 0) ∧ Ready s 3 .x [.x 3] (.x 0) ∧ (scalar t .x 1).2 = false ∧ (scalar t .x 3).2 = true ∧
     csrValue (opened s 3 .x) 3 .x 0x000 = some 0 ∧ (rwCsr .x 0x000 0 t).isSome = true ∧ csrValue (opened s 3 .x) 3 .x 0x001 = some 5 ∧
     csrValue (opened s 3 .x) 3 .x 0x040 = some 3 ∧ csrValue (opened s 3 .x) 3 .x 0x00A = some 0 ∧
     csrValue (opened s 3 .x) 3 .x 0x010 = some 0 ∧ csrValue (opened s 3 .x) 3 .x 0x022 = some 0) ∧
    (Ready (sa (tl 1)) 3 .a [.x 0] (.x 0) ∧ (rwCsr .a 0x03F 0 (tl 1)).isSome = true ∧ csrValue (sa (tl 1)) 3 .a 0x03F = some 0) := by
  unfold Ready; and_intros <;> decide

theorem wit_TrapsReturnsStepsAndPoisonChecks :
    Ready (sa (tl 1)) 3 .a [.x 1] (.x 0) ∧ Ready (sx (tl 1)) 3 .x [.x 31] (.x 0) ∧ NamesReady (opened (sx (tl 1)) 3 .x) 3 [1] [] [] ∧
    (∀ p ∈ ((opened (sx (tl 1)) 3 .x).tile 3).pend, p.dst ≠ .z 7) := by
  unfold Ready NamesReady; and_intros <;> decide

/-- A tile with a micro-op after its word (`VADD.i32` into v3 from v2 and v1 under k0), a recipe of one word in slot 2, and v3 tagged. -/
def withRecipe : Tile :=
  { tl 1 with rcp := vset Tile.reset.rcp (2 : R5) { words := [0x68308100], rm := 0, ftz := false }, av := 6, xpc := 0
              v := vset (vset (tl 1).v (2 : V6) { VName.reset with st := .live }) (3 : V6) { VName.reset with st := .live, tag := some 1 } }

theorem wit_RecipeInstructions :
    (let s := (sx withRecipe).setImemWord 3 .x 1 0x68308100
     let u := opened s 3 .x
     let t := u.tile 3
     s.cur = .stream 3 .x ∧ (∀ k ≤ 0, t.locked .x (t.xpc + BitVec.ofNat 14 (k + 1)) = false) ∧
     (micro (bodyWord u 3 1)).isSome = true ∧ (decodeIssue (bodyWord u 3 1) 0 .x true).isOk = true ∧
     ((micro (bodyWord u 3 1)).any writesVector) = true ∧ (∀ v : V6, (t.vname v).tag ≠ some 31)) ∧
    (let u := opened (sx withRecipe) 3 .x
     let t := u.tile 3
     let rc := vget t.rcp Recipe.reset (2 : R5)
     rc.words ≠ [] ∧ (∀ v : V6, (t.vname v).tag ≠ some 2) ∧ t.av.getLsbD 5 = false ∧ t.dependants (.v 5) = [] ∧
     (∀ x ∈ rc.srcs, ∃ a, x = .v a ∧ t.av.getLsbD a.toNat = true) ∧ (∀ m ∈ rc.micros, microSealed u 3 m.1 = true) ∧
     (t.vname 3).tag.isSome = true ∧ (t.vname 1).tag = none ∧
     ((t.vname 3).tag = some 1 ∧ (∀ w : V6, (t.vname w).tag = some 1 → w = 3) ∧ (t.vname 3).st = .live ∧ t.dependants (.v 3) = []) ∧
     t.dependants (.x 0) = [] ∧ t.dependants (.k 15) = []) := by
  and_intros <;> decide

/-! ### Engine commands and requests of the firmware -/

/-- Token fields: `tp`, and the tokens that are consumed. -/
def tok (p a : R5) : ETok := { tp := p, ta := a, tb := 0, tc := 0 }

/-- Token 31 is pending, the copy queue is halted, the gather queue is full, `a3` and `x3` are poisoned. -/
def engined : Tile :=
  { queued with
    apois := 8, xpois := 8, ecopy := { EngQ.reset with halted := true }
    egath := { EngQ.reset with waiting := List.replicate 16 (mkCmd (tl 1) .tgather .a (tok 0 0) 0 0 0 0) } }

theorem wit_EngineCommandsIssue :
    let s := sa engined
    let t := s.tile 3
    s.cur = .stream 3 .a ∧ engineForm (.kvseal (tok 1 31) 1 2 0) = some (.salt, .kvseal, tok 1 31, (1, 2, 0), 0) ∧
    engineForm (.copy (tok 0 0) 1 2 3 false 0 0) = some (.copy, .copy, tok 0 0, (1, 2, 3), 0) ∧
    engineForm (.tgather (tok 1 0) 1 2 0 true 3) = some (.gather, .tgather, tok 1 0, (1, 2, 0), 11) ∧
    (waits t 1 = false ∧ (t.eng .salt).halted = false ∧ HasRoom t .salt ∧ (scalar t .a 1).2 = false ∧ (scalar t .a 2).2 = false ∧ (scalar t .a 0).2 = false) ∧
    (waits t 0 = false ∧ (t.eng .copy).halted = true ∧ (scalar t .a 3).2 = true) ∧ waits t 31 = true ∧
    ((t.eng .gather).halted = false ∧ ¬ HasRoom t .gather) := by
  unfold HasRoom; and_intros <;> first | rfl | decide

theorem wit_MatrixCommandsIssue :
    let s := sx { engined with xreg := vset engined.xreg (4 : R5) (0x1FFFC0 : W64) }
    let u := opened s 3 .x
    let t := u.tile 3
    s.cur = .stream 3 .x ∧ (∀ p ∈ t.pend, p.dst ≠ .x 4 ∧ p.dst ≠ .x 1 ∧ p.dst ≠ .x 0) ∧
    matrixForm (.mma .i8 (tok 1 0) 4 4 0 true false 0 7) = some (.mma, .i8, tok 1 0, (4, 4, 0), 135) ∧
    matrixForm (.mwld (tok 0 0) 1) = some (.mwld, .i8, tok 0 0, (1, 0, 0), 0) ∧ matrixForm (.mswap (tok 0 0)) = some (.mswap, .i8, tok 0 0, (0, 0, 0), 0) ∧
    waits t 1 = false ∧ t.emat.halted = false ∧ HasRoom t .matrix ∧ (scalar t .x 4).2 = false ∧ (scalar t .x 3).2 = true ∧
    (namedBlocks u 3 .mwld 7 0 0 0).find? (fun x => decide (x.1.toNat % x.2.1 ≠ 0)) = some (7, 64, 64) ∧
    BlocksGood u 3 (namedBlocks u 3 .mma 0x1FFFC0 0x1FFFC0 0 135) ∧ namedBlocks u 3 .mma 0x1FFFC0 0x1FFFC0 0 135 ≠ [] ∧
    BlocksGood u 3 (namedBlocks u 3 .mswap 0 0 0 0) ∧ ViewAllows t .mma .i8 ∧ ViewAllows t .mswap .i8 ∧ t.units.ls1 ≤ t.xcyc ∧
    ({ t with units := { t.units with ls1 := t.xcyc + 1 } } : Tile).xcyc < t.xcyc + 1 := by
  unfold HasRoom BlocksGood ViewAllows; and_intros <;> first | rfl | decide

theorem wit_FenceAndDrainCommandsIssue :
    (sa engined).cur = .stream 3 .a ∧ (sx engined).cur = .stream 3 .x ∧
    ¬ ((Stream.a = .a ∧ (1 : BitVec 2) = 3) ∨ (Stream.a = .x ∧ ((1 : BitVec 2) = 1 ∨ (1 : BitVec 2) = 2))) ∧
    ((Stream.x = .a ∧ (2 : BitVec 2) = 3) ∨ (Stream.x = .x ∧ ((2 : BitVec 2) = 1 ∨ (2 : BitVec 2) = 2))) ∧
    waits ((opened (sx engined) 3 .x).tile 3) 31 = true ∧ waits ((opened (sa engined) 3 .a).tile 3) 0 = false := by decide

/-- A package whose context 0 maps VA 0x40000000 to 0x200000, with a descriptor `d` of 64 bytes there; tile 3 names it in `a8`; tile 5 runs
an item of context 1. -/
def withDesc (d : BitVec 512) : State :=
  let s : State := { sa mapped with tiles := [(3, mapped), (5, tl 1)] }
  (((s.wrBytes 0 (leBytes 16 0x100001) false).wrBytes 0x100020 (leBytes 16 0x120001) false).wrBytes 0x120000 (leBytes 16 leaf0.toNat) false).wrBytes
    0x200000 (leBytes 64 d.toNat) false

/-- The state in which the descriptor is read. -/
def settled (d : BitVec 512) : State := ((withDesc d).dirtyBack 3).drainDie (dieOf 3)

theorem wit_CaptureDecidesOrAnswers :
    Descriptor (withDesc 5) 3 8 64 (settled 5) 0x40000000 0x200000 leaf0 (5 : BitVec 512).toNat ∧
    (let x := (settled 5).tile 5
     x.ctx ≠ none ∧ x.ist = .running ∧ x.capturing = none ∧ x.cohort = none ∧ (5 : BitVec 8) ≠ 3 ∧ (settled 5).imageNeed 5 false ≤ (settled 5).imageRoom (dieOf 5) ∧ (settled 5).railsOff = false) ∧
    Writable (settled 3) 0x40000000 0x200000 leaf0 ∧ Descriptor (withDesc 3) 3 8 64 (settled 3) 0x40000000 0x200000 leaf0 (3 : BitVec 512).toNat ∧
    ((settled 7).tile 7).ctx = none ∧ ((2 ^ 383 : BitVec 512)).extractLsb' 9 375 ≠ (0 : BitVec 375) := by
  unfold Descriptor Writable Reaches; and_intros <;> first | rfl | decide

theorem wit_CaptureCompletes :
    let x : Capturing := { handle := 0x80000001, drop := false, firmware := true }
    let s := (withDesc 5).modTile 5 fun t => { t with capturing := some x }
    let s := s.modTile 3 fun t => { t with dcReq := some (.capture 0x40000000) }
    let s := s.setCtx (Ctx.fresh { ctx := 1, key := 0, trootDie := 0, trootNext := 0, tnsBase := 0, tnsCount := 0 })
    (s.tile 5).capturing = some x ∧ (s.tile 5).cohort = none ∧ (s.ctx? ((s.tile 5).ctx.getD 0)).isSome = true ∧
    (3 : BitVec 8) ≠ 5 ∧ s.requests = [((3 : BitVec 8).toNat, .capture 0x40000000)] ∧ (s.tile 5).claims = [] ∧ (s.tile 5).relPend = [] ∧ s.railsOff = false ∧
    (∀ h, s.chan (dieOf 5) h = []) ∧ BitVec.ofNat 8 (s.descNow 0x40000000 64) = 5 := by
  and_intros <;> first | rfl | decide

/-- An image of tile 5 under the key of context 0. -/
def image0 (k : Nat) : Image :=
  { handle := 0x80000001, grans := [], hbm := none, kind := 0, tilerev := Config.tileRev 7, scanmap := Config.scanMap 7, ctx := 0, key := 0, keyId := k, seq := 0, devtime := 0, srctile := 5, clu := false
    dropped := false, frozen := false, gen := 0, vclk := Vector.replicate 4 0, tile := tl 0, cells := [], poison := [], clus := none, members := []
    firmware := true, tagOk := true }

theorem wit_RestoreResumesAnImage :
    let d : BitVec 512 := 7 + 0x80000001 * 2 ^ 480
    let u : State := settled d
    Descriptor (withDesc d) 3 8 64 u 0x40000000 0x200000 leaf0 d.toNat ∧
    (d.extractLsb' 384 24 = (0 : BitVec 24) ∧ d.extractLsb' 9 375 = (0 : BitVec 375)) ∧ Tab.get? u.images (d.extractLsb' 480 32 : BitVec 32).toNat = none ∧
    (let i := image0 ((u.keyId 0).getD 0)
     i.members = [] ∧ i.hbm = none ∧ (7 : BitVec 8) ≠ 3 ∧ (u.tile 7).ist = .none ∧ (u.tile 7).stop = none ∧ (u.tile 7).capturing = none ∧
     i.tilerev = Config.tileRev 7 ∧ i.scanmap = Config.scanMap 7 ∧ i.tagOk = true ∧ u.keyId i.key = some i.keyId ∧
     (u.ctx? i.ctx).map (·.key) = some i.key ∧ i.clu = false) := by
  unfold Descriptor Reaches; and_intros <;> first | rfl | decide

theorem wit_BreakpointOperations :
    let d : BitVec 256 := 5 * 2 ^ 41 + 16 * 2 ^ 50
    let u : State := settled (d.setWidth 512)
    (5 : BitVec 8) ≠ 3 ∧ (u.tile 5).ctx.isSome = true ∧ d.extractLsb' 160 64 = (0 : BitVec 64) ∧ d.extractLsb' 64 88 = (0 : BitVec 88) ∧
    d.extractLsb' 0 35 = (0 : BitVec 35) ∧ Writable u 0x40000000 0x200000 leaf0 ∧ (u.tile 5).locked .a 16 = false ∧ spadBase 0 > 0x200000 + 32 ∧
    Descriptor (withDesc (d.setWidth 512)) 3 8 32 u 0x40000000 0x200000 leaf0 d.toNat ∧ u.requests = [] ∧
    (let w := u.modTile 3 fun t => { t with dcReq := some (.brkx 0x40000000) }
     (w.tile 3).dcReq = some (.brkx 0x40000000) ∧ w.descNow 0x40000000 32 = d.toNat) := by
  unfold Descriptor Writable Reaches; and_intros <;> first | rfl | decide

/-! ### Queue programs -/

/-- Unit 4 runs a packet of queue 5, whose program 7 has a window of each kind. -/
def unit0 (steps : Nat) (head : W64) : State :=
  let wins : List Window := [{ base := 0, log2size := 13, kind := 0, wr := true, rd := true }, { base := 0, log2size := 8, kind := 1, wr := true, rd := true },
    { base := 0x40000000, log2size := 8, kind := 2, wr := true, rd := true }, { base := 0x5000, log2size := 12, kind := 3, wr := true, rd := true }]
  let s : State := { withDesc 5 with cur := .interp 4, agenda := [] }
  let s := s.modQueue 5 fun q => { q with en := true, prog := 7, log2n := 6 }
  s.setUnit 4 { Interp.reset with prog := some { words := List.replicate 20 0, windows := wins }, ringN := 64, packet := some { packet0 with words := head :: packet0.words.tail }, buf := Mem.puts [] 0 (leBytes 64 head.toNat), running := true, steps := steps }

theorem wit_QueueProgramWordsCompute :
    (let s := unit0 255 0x0102
     s.cur = .interp 4 ∧ (s.unit 4).running = true ∧ (s.unit 4).steps < 256) ∧
    (let s := unit0 256 0x0102
     (s.unit 4).packet = some packet0 ∧ 256 ≤ (s.unit 4).steps) := by and_intros <;> decide

theorem wit_QueueProgramWindows :
    let s := unit0 255 0x0102
    let q := s.queue packet0.queue
    s.cur = .interp 4 ∧ (s.unit 4).running = true ∧ (s.unit 4).steps < 256 ∧ (s.unit 4).packet = some packet0 ∧
    ((s.unit 4).prog.map fun p => p.windows.map (·.kind)) = some [0, 1, 2, 3] ∧ s.hostFails = false ∧ ({ s with hostFails := true } : State).hostFails = true ∧
    (s.devRead q.ctx 0x40000000 8).isSome = true ∧ ((s.devRead q.ctx 0x40000000 8).getD []).all (fun b => !b.2) = true ∧ s.devRead q.ctx 0x50000000 8 = none ∧
    s.devWritable q.ctx 0x40000000 8 = true ∧ s.devWritable q.ctx 0x50000000 8 = false ∧
    ((({ s with poison := [0x8000] } : State).devRead q.ctx 0x40000000 8).getD []).any (fun b => b.2) = true := by and_intros <;> decide +kernel

theorem wit_QueueProgramsEnd :
    let head (s : State) : W64 := BitVec.ofNat 64 (leNat (Mem.gets (s.unit 4).buf 0 8))
    let check (s : State) := headerCheck (s.unit 4).prog.isSome (s.queue 5).src (s.unit 4).ringN packet0.count (BitVec.ofNat 512 (leNat (Mem.gets (s.unit 4).buf 0 64)))
    check (unit0 0 0x0000) ≠ 0 ∧ (check (unit0 0 0x0180) = 0 ∧ 0x80 ≤ (hdrType (head (unit0 0 0x0180))).toNat) ∧
    (check (unit0 0 0x0104) = 0 ∧ ¬ (0x80 ≤ (hdrType (head (unit0 0 0x0104))).toNat ∨ hdrType (head (unit0 0 0x0104)) = 1) ∧
      ({ packet0 with words := toWords (Mem.gets ((unit0 0 0x0104).unit 4).buf 0 (64 * hdrLen (head (unit0 0 0x0104)))) } : Packet).header = head (unit0 0 0x0104) ∧
      hdrType (head (unit0 0 0x0104)) ≠ 5) := by and_intros <;> decide

/-! ### Causes -/

/-- A tile with handlers at word 100 of both streams. -/
def handled : Tile := { tl 1 with acsr := { StreamCsr.reset with tvec := 100 }, xcsr := { StreamCsr.reset with tvec := 100 } }

theorem wit_RefusedWordsRaiseTheirCause :
    (sa (tl 1)).cur = .stream 3 .a ∧ (decodeIssue 0xBC000000 0 .a (((sa (tl 1)).tile 3).ctx == some 0)).isOk = false ∧ (sx (tl 1)).cur = .stream 3 .x ∧
    (engineForm (.pxhash (tok 1 0) 1 2 3 true)).isSome = true ∧ (matrixForm (.mswap (tok 1 0))).isSome = true := by decide

theorem wit_TakingACauseEntersTheHandler :
    dispOf 0x09 = .d ∧ consumesPoison 0x09 = false ∧ (((sx handled).tile 3).csr .x).tvec ≠ 0 ∧ (((sx handled).tile 3).csr .x).tin = false ∧
    (((sa handled).tile 3).csr .a).tvec ≠ 0 := by decide

theorem wit_CausesThatEndTheContext :
    let s := sa (tl 1)
    (0x09 : Cause) ≠ 0x53 ∧ ((s.tile 3).csr .a).tvec = 0 ∧ dispOf 0x09 ≠ .e ∧ (dispOf 0x40 ≠ .d ∧ s.rollsBack 1 = false) ∧ (s.tile 3).ctx.isSome = true ∧
    (s.ring errRing).waiting.length < 64 := by and_intros <;> decide

/-- A tile with a matrix command running, a counter that has wrapped, and an operand log. -/
def busy : Tile :=
  { tl 1 with emat := { EngQ.reset with running := [mkCmd (tl 1) .mswap .x (tok 0 0) 0 0 0 0] }, pmwrap := [7]
              alogOps := [{ reads := [.a 1], writes := [.a 3] }] }

/-- `QPOPX` of queue 0 in the X-stream and `QPOPA` of queue 6 in the A-stream: both queues are empty. -/
def bothStall : State :=
  ((sa { tl 1 with xpc := 0 }).setImemWord 3 .x 0 ((encode (.qpopx 1 0)).headD 0)).setImemWord 3 .a 0 ((encode (.qpopa 1 6)).headD 0)

theorem wit_ErrorAndDebugEvents :
    let s : State := { sa busy with debug := true }
    s.debug = true ∧ (s.tile 3).live = true ∧ State.reset.debug = false ∧ (s.tile 3).emat.running ≠ [] ∧
    (s.tile 3).alogOps = { reads := [.a 1], writes := [.a 3] } :: [] ∧
    ((bothStall.tile 3).live = true ∧ bothStall.queueStalled 3 .x = true ∧ bothStall.queueStalled 3 .a = true) ∧
    (let u := bothStall.modTile 3 fun t => { t with xstep := true }
     u.queueStalled 3 .x = false ∧ u.queueStalled 3 .a = true ∧ (u.tile 3).xstep = true) ∧
    ((s.tile 3).pmwrap.find? (fun k => (s.tile 3).wrapStream k == .a) = some 7 ∧ (vget (s.tile 3).pmsel 0 (7 : BitVec 3)).getLsbD 9 = false ∧
      ((s.tile 3).csr .a).tin = false) ∧ (s.ctx? 0).isSome = true ∧ s.railsOff = false ∧
    ({ s with railsOff := true } : State).railsOff = true := by and_intros <;> decide

/-! ### The package's own units -/

theorem wit_DeviceMemoryAndBoardEvents :
    let s : State := sa (tl 1)
    let w : State := (withDesc 5).setFn 0 { State.reset.fn 0 with w2en := true, w2va := 1 }
    let f := w.fn 0
    ((0x7FFFFFFFFF : BitVec 48).toNat < 2 ^ 39 ∧ (rsErrors ((0 : BitVec 128) ++ (1 : BitVec 512))).length = 1 ∧ (rsErrors ((0 : BitVec 128) ++ (0xFF01FF01 : BitVec 512))).length = 4 ∧
      (rsErrors ((2 ^ 120 : BitVec 128) ++ (0xFF01FF01 : BitVec 512))).length = 5 ∧
      (rsErrors ((0 : BitVec 128) ++ (0x010101010101010101010101 : BitVec 512))).length = 12) ∧ ((1 : BitVec 64) ≠ 0 ∧ (1 : BitVec 64) ≠ BitVec.allOnes 64) ∧
    (vget s.scrubLine 0 (7 : BitVec 3)).toNat < 1023 ∧
    (let t : State := { s with scrubLine := vset s.scrubLine (7 : BitVec 3) 1023, scrubPos := vset s.scrubPos (7 : BitVec 3) (BitVec.allOnes 20) }
     (vget t.scrubLine 0 (7 : BitVec 3)).toNat = 1023 ∧ vget t.scrubPos 0 (7 : BitVec 3) = BitVec.allOnes 20) ∧
    (2 ^ 47 ≤ (0x800000000000 : BitVec 48).toNat ∧ paMapped (0x800000000000 : BitVec 48).toNat = true) ∧
    (let t : State := { s with cxl := vset s.cxl (3 : BitVec 2) { Cxl.reset with trained := true } }
     (vget t.cxl Cxl.reset (3 : BitVec 2)).trained = true ∧ 0 + 2 ^ 42 ≤ 2 ^ 42 ∧ (vget t.cxl Cxl.reset (3 : BitVec 2)).capacity + 2 ^ 42 ≤ 2 ^ 42 ∧
       t.cxlCapacity + 2 ^ 42 ≤ 2 ^ 43) ∧
    ((s.fn 0).w2en = false) ∧
    (f.w2en = true ∧ ((f.w2va ++ (0 : BitVec 30)) : W64).extractLsb' 55 9 = (0 : BitVec 9) ∧ f.w2ctx = 0 ∧ w.recovery = false ∧ ((w.ncRead f.w2ctx 0x40000000 8).any fun x => x.1.all fun b => !b.2) = true ∧
      (w.ncWrite f.w2ctx 0x40000000 [1, 2]).isSome = true ∧ (w.ncRead f.w2ctx 0x50000000 8).isNone = true ∧ (w.ncWrite f.w2ctx 0x50000000 [1]).isNone = true ∧ ((f.w2va ++ (0 : BitVec 30)) : W64) = 0x40000000) ∧
    s.frozen 3 = false ∧ s.recovery = false ∧ (∀ q ∈ s.ports.toList, q.en = false) ∧ (3 : BitVec 8) ≠ 0 := by and_intros <;> decide +kernel

theorem wit_TimeAndPowerEvents :
    let s : State := sa { tl 1 with sreq := some 7, sclass := 0, srefused := 64 }
    let e : State := { s with tEn := true, tLocked := true }
    let ticked (s : State) : State :=
      let n := s.devtime.toNat / 1000 + 1
      { s with devtime := BitVec.ofNat 64 (1000 * n), tickcnt := BitVec.ofNat 64 n
               rings := s.rings.map fun e => (e.1, { e.2 with timer := e.2.timer.map (· - 1) }) }
    let quiet (s : State) : Bool := (s.devtime.toNat / 1000 + 1) % 1000 != 0 && s.queues.all (fun e => e.2.waitge == none) && s.ctxs.all fun e => !(ticked s).ckDue e.2
    (quiet s = true ∧ (s.devtime.toNat / 1000 + 1) % 50 ≠ 0 ∧ s.gangArmed = false) ∧
    (let u : State := { s with devtime := 49999, gangTime := 51000, gangArmed := true }
     quiet u = true ∧ (u.devtime.toNat / 1000 + 1) % 50 = 0 ∧ ¬ u.gangTime.toNat ≤ (ticked u).devtime.toNat) ∧
    (e.tEn = true ∧ (0 : Byte) = e.tDomain ∧ e.tLocked = true) ∧ s.tEn = false ∧
    (({ e with tValid := true } : State).tValid = true) ∧ (({ e with tValid := true, tLocked := false } : State).tLocked = false) ∧ e.tValid = false ∧
    (let u : State := { State.reset with gangArmed := true, gangTime := 1000 }
     quiet u = true ∧ u.gangArmed = true ∧ u.gangTime.toNat ≤ (ticked u).devtime.toNat ∧ (u.devtime.toNat / 1000 + 1) % 50 ≠ 0 ∧ u.tiles = []) ∧
    s.tilesWith (fun t => t.sreq.isSome) = [3] ∧ (s.tile 3).sreq = some 7 ∧ s.held = none ∧
    ((s.tile 3).sclass < 7 ∧ s.hot = false ∧ s.reserved + (6 * 7 + 2) ≤ s.budget.toNat + (6 * (s.tile 3).sclass + 2)) ∧
    ({ s with hot := true } : State).hot = true ∧ s.tilesWith (fun t => t.sreq.isSome && decide (64 ≤ t.srefused)) = [3] ∧
    (let u : State := { s with tiles := [(3, { tl 1 with sreq := some 7, sclass := 0 }), (5, tl 1)], held := some 3, heldAt := 7, cy := 4103, budget := 512 }
     u.held = some 3 ∧ u.railsOff = false ∧ u.heldAt + 4096 ≤ u.cy ∧ ({ u with cy := 4102 } : State).cy < u.heldAt + 4096 ∧ (u.tile 3).sreq = some 7 ∧ u.budget.toNat + (6 * (u.tile 3).sclass + 2) < u.reserved + (6 * 7 + 2) ∧
     u.tilesWith (fun t => t.capturable && decide (0 < t.sclass)) = [5] ∧ (u.tile 5).cohort = none ∧ (5 : BitVec 8) ≠ 3) ∧ s.recovery = false := by
  and_intros <;> decide

/-! ### Peers and the directory -/

/-- A message as it arrives in one flit from package 9, and the package with that flit in the buffer of port 2. -/
def flit0 (m : DirMsg) : BitVec 2048 := mkFlit 0 9 (dirVc m.op) 0x04 0 (dirPayload m)
def came (m : DirMsg) : DirMsg := dirMsgOf (flit0 m)
def arrivedS (m : DirMsg) : State :=
  { State.reset with
    ports := vset State.reset.ports (2 : BitVec 4) { Port.reset with en := true, up := true, rxbuf := [flit0 m], cred := Vector.replicate 4 8, occ := vset (Vector.replicate 4 0) (dirVc m.op) 1 }
    route := [(9, 4)], dirEn := true, dirSets := 3 }

/-- A request of the message code `op` with tag 0 and status `st`, and with one holder. -/
def msg0 (op st : Byte) : DirMsg :=
  { mkDir op 7 0x1234 with status := st, holders := [{ valid := true, tier := 1, pkg := 9 }], depth := 1 }

/-- A request that waits for an answer. -/
def req0 (op : Byte) : DirReq :=
  { tag := 0, op := op, nsid := 7, name := 0x1234, msg := mkDir op 7 0x1234, holder := none, retried := false, tile := 3, eng := .salt, seq := 0, port := none, sentAt := 0, space := 0 }

def linkUp : Port := { Port.reset with en := true, up := true }
/-- A data flit with SEQ 0 and its CRC. -/
def dataFlit : BitVec 2048 := Flit.sealFor (mkFlit 0 9 0 0x04 0 [1, 2, 3]) 0 5 0 0

theorem noneIn {α : Type} {l : List α} (h : l = []) (p : α → Prop) : ∀ x ∈ l, p x := by subst h; simp

theorem wit_PeerPortEvents :
    let s (p : Port) : State := { State.reset with ports := vset State.reset.ports (2 : BitVec 4) p }
    ((s { Port.reset with en := true }).port 2).en = true ∧ ((s { Port.reset with en := true }).port 2).up = false ∧ ((s Port.reset).port 2).en = false ∧
    (((s linkUp).port 2).up = true ∧ Flit.crc dataFlit = crc64 (Flit.body dataFlit) ∧ Flit.kindOk dataFlit = true ∧ Flit.seqNo dataFlit = ((s linkUp).port 2).rxSeq ∧
      Flit.isControl dataFlit = false ∧ (∀ x ∈ ((s linkUp).port 2).replay, Flit.seqNo x ≠ Flit.ackSeq dataFlit) ∧ ((s linkUp).port 2).txq = [] ∧
      vget ((s linkUp).port 2).occ 0 (Flit.vc dataFlit) + vget ((s linkUp).port 2).owed 0 (Flit.vc dataFlit) < vget initCredits 0 (Flit.vc dataFlit)) ∧
    Flit.seqNo (Flit.sealFor (mkFlit 0 9 0 0x04 0 []) 1 0 0 0) ≠ ((s linkUp).port 2).rxSeq ∧
    (let p := (s { linkUp with replay := [dataFlit], nreplay := 6 }).port 2
     p.up = true ∧ p.replay ≠ [] ∧ p.nreplay < 7) ∧
    (let p := (s { linkUp with replay := [dataFlit], nreplay := 7 }).port 2
     p.up = true ∧ p.replay ≠ [] ∧ 7 ≤ p.nreplay ∧ (s linkUp).dirReqs = [] ∧ p.holds = []) ∧
    (let u := { linkUp with owed := vset linkUp.owed (3 : BitVec 2) 1 }
     ((s u).port 2).canSend (mkFlit 0 (s u).pkgid 0 0x3F 0 []) = true ∧ ∃ x ∈ ((s u).port 2).owed.toList, x ≠ 0) ∧
    ((s Port.reset).port 2).canSend (mkFlit 0 (s Port.reset).pkgid 0 0x3F 0 []) = false ∧
    (∀ x ∈ ((s linkUp).port 2).owed.toList, x = 0) := by
  and_intros <;> first | exact noneIn (by decide) _ | decide +kernel

/-- Namespace 7, and a node of it at a handle of record 9, GEN 5. -/
def ns0 : Namespace := namespaceOf (BitVec.ofNat 512 (7 * 2 ^ 160 + 3 * 2 ^ 138 + 13 * 2 ^ 133))
def node0 : Node := { Node.reset with gen := 5, st := .sealed, nsid := 7, groups := [{ pkg := 0, tier := 0, layer0 := 0, nlay := 3, addr := 0x10000 }] }
def nodes0 (n : Node) : State := { (State.reset.setNode 0x05000009 n) with nss := [(7, ns0)] }

/-- What `Arrived` asks, for a message of `n` flits on channel `v` of port 2, from package 9. -/
theorem arrives (s : State) (op : Byte) (v : BitVec 2) (src : Option (BitVec 12)) (m : DirMsg) (body : List Byte) (n : Nat)
    (h : (decide (m.op = op) && decide (0 < op.toNat) && decide (op.toNat ≤ 8) && decide (m.status.toNat ≤ 9) && !m.rsvdBad &&
      decide (s.findMsg src m body = some (2, 9, v, n, false))) = true) :
    Arrived s (if op = 1 ∨ op = 5 then s.takeMsg 2 v n else s.consume 2 v n) op src m body 2 9 := by
  simp only [Bool.and_eq_true, decide_eq_true_eq, Bool.not_eq_true'] at h
  obtain ⟨⟨⟨⟨⟨h1, h2⟩, h3⟩, h4⟩, h5⟩, h6⟩ := h
  exact ⟨h1, h2, h3, h4, h5, v, n, h6, rfl⟩

/-- The state in which the unit has taken the message: a request that is answered keeps its buffer entry. -/
def taken (op st : Byte) (v : BitVec 2) : State :=
  if op = 1 ∨ op = 5 then (arrivedS (msg0 op st)).takeMsg 2 v 1 else (arrivedS (msg0 op st)).consume 2 v 1

theorem wit_DirectoryEvents_arrive :
    Arrived (arrivedS (msg0 3 0)) (taken 3 0 0) 3 (some 9) (came (msg0 3 0)) [] 2 9 ∧
    Arrived (arrivedS (msg0 4 0)) (taken 4 0 0) 4 (some 9) (came (msg0 4 0)) [] 2 9 ∧
    Arrived (arrivedS (msg0 1 0)) (taken 1 0 0) 1 (some 9) (came (msg0 1 0)) [] 2 9 ∧
    Arrived (arrivedS (msg0 5 0)) (taken 5 0 0) 5 (some 9) (came (msg0 5 0)) [] 2 9 ∧
    Arrived (arrivedS (msg0 6 0)) (taken 6 0 2) 6 none (came (msg0 6 0)) [] 2 9 ∧
    Arrived (arrivedS (msg0 2 1)) (taken 2 1 1) 2 none (came (msg0 2 1)) [] 2 9 ∧
    Arrived (arrivedS (msg0 8 0)) (taken 8 0 1) 8 none (came (msg0 8 0)) [] 2 9 :=
  ⟨arrives _ 3 0 _ _ _ 1 (by decide +kernel), arrives _ 4 0 _ _ _ 1 (by decide +kernel), arrives _ 1 0 _ _ _ 1 (by decide +kernel),
   arrives _ 5 0 _ _ _ 1 (by decide +kernel), arrives _ 6 2 _ _ _ 1 (by decide +kernel), arrives _ 2 1 _ _ _ 1 (by decide +kernel),
   arrives _ 8 1 _ _ _ 1 (by decide +kernel)⟩

/-- The two flits of a REPLICATE of a block with parent name 0x55, no token and no data. -/
def flits7 : List (BitVec 2048) := [mkFlit 0 9 2 0x01 0 (dirPayload (msg0 7 0)), mkFlit 0 9 2 0x03 0 (nameBytes 0x55)]
def came7 : DirMsg := dirMsgOf (mkFlit 0 9 2 0x01 0 (dirPayload (msg0 7 0)))
def arrived7 (known : Bool) : State :=
  { arrivedS (msg0 5 0) with
    ports := vset State.reset.ports (2 : BitVec 4) { Port.reset with en := true, up := true, rxbuf := flits7, cred := Vector.replicate 4 8 }
    nss := if known then [(7, ns0)] else [] }

theorem wrongName (s : State) (m : DirMsg) (p : BitVec 128) (ns : Namespace) (hn : s.ns? m.nsid = some ns) (hd : m.depth = 1)
    (hc : chainNext p [] ≠ m.name) : s.takeBlock m p [] [] = some (4, s) := by
  simp [State.takeBlock, hn, hd, hc]

theorem wit_DirectoryEvents_replicate :
    (∀ k, Arrived (arrived7 k) ((arrived7 k).consume 2 2 2) 7 (some 9) came7 (nameBytes 0x55 ++ (([] : List (BitVec 32)).flatMap fun t => leBytes 4 t.toNat) ++ []) 2 9) ∧
    (let u := (arrived7 false).consume 2 2 2
     u.ns? came7.nsid = none ∧ (u.answerTo 9 (reply 8 3 came7) [] none none).isSome = true) ∧
    (let u := (arrived7 true).consume 2 2 2
     u.takeBlock came7 0x55 [] [] = some (4, u) ∧ (u.answerTo 9 (reply 8 4 came7) [] none none).isSome = true) :=
  ⟨fun k => by cases k <;> exact arrives _ 7 2 _ _ _ 2 (by decide +kernel), by decide +kernel,
   wrongName _ _ _ ns0 (by decide +kernel) (by decide +kernel) (by decide +kernel), by decide +kernel⟩

/-- A FETCH of 64 bytes of layer 0, at the package that holds the crystal. -/
def msg5 : DirMsg := { msg0 5 0 with nlayer := 1, length := 64 }
def arrived5 : State := { ((arrivedS msg5).setNode 0x05000009 node0) with nss := [(7, ns0)], index := [(0, 0x1234, 7, 0x05000009)] }

theorem wit_DirectoryEvents_fetch :
    Arrived arrived5 (arrived5.takeMsg 2 0 1) 5 (some 9) (came msg5) [] 2 9 ∧
    (let u := arrived5.takeMsg 2 0 1
     let b := (u.answerFetch (came msg5)).2.1
     u.answerFetch (came msg5) = (0, b, some 0x05000009) ∧
       ((u.incRef 0x05000009).answerTo 9 { reply 6 0 (came msg5) with offset := (came msg5).offset, length := (came msg5).length } b (some 0x05000009) (some 2)).isSome =
         true) :=
  ⟨arrives _ 5 0 _ _ _ 1 (by decide +kernel), by decide +kernel⟩

theorem wit_DirectoryEvents :
    ((came (msg0 3 0)).holders.head?.map (·.valid)) = some true ∧ (taken 3 0 0).dirEn = true ∧
    ({ arrivedS (msg0 4 0) with dirEn := false } : State).dirEn = false ∧
    (DirRegion (taken 3 0 0) ∧ (came (msg0 3 0)).nsid ≠ 0 ∧ ∀ e ∈ (taken 3 0 0).dirSetOf (came (msg0 3 0)).name, e.2.nsid = 0) ∧
    (let u := (taken 4 0 0).dirAnnounce 7 0x1234 1 { valid := true, tier := 1, pkg := 9 }
     DirRegion u ∧ (came (msg0 4 0)).depth ≠ 0 ∧
       (match u.dirFind (came (msg0 4 0)).nsid (came (msg0 4 0)).name with | some e => !e.2.holders.isEmpty && e.2.holders.all fun x => x.2.pkg == 9 | none => false) = true) ∧
    ((taken 1 0 0).routeTo 9 (dirFlow (reply 2 1 (came (msg0 1 0)))) = some 2 ∧ 0 < vget ((taken 1 0 0).port 2).cred 0 (dirVc 2) ∧
      ((taken 1 0 0).port 2).txq = [] ∧ (taken 1 0 0).dirLookup 7 0x1234 (came (msg0 1 0)).excl = none ∧
      ((taken 1 0 0).answerTo 9 (reply 2 1 (came (msg0 1 0))) [] none (some 2)).isSome = true) ∧
    ((taken 5 0 0).probe (came (msg0 5 0)).nsid (came (msg0 5 0)).name = none ∧
      ((taken 5 0 0).answerTo 9 (reply 6 1 (came (msg0 5 0))) [] none (some 2)).isSome = true) ∧ (taken 6 0 2).dirReqs = [] ∧
    ((req0 5).tag = (came (msg0 6 0)).tag ∧ (came (msg0 6 0)).length = (req0 5).msg.length ∧ ([] : List Byte).length = (came (msg0 6 0)).length.toNat) ∧
    ((req0 1).tag = (came (msg0 2 1)).tag ∧ (req0 1).msg.op = 1 ∧ (came (msg0 2 1)).status = 1) ∧
    ((req0 7).tag = (came (msg0 8 0)).tag ∧ (req0 7).op = 7 ∧ (came (msg0 8 0)).status = 0) ∧
    ({ Repl.reset with go := true, inflight := some 5 } : Repl).inflight = some 5 ∧ ({ Repl.reset with go := true, inflight := some 5 } : Repl).todo = [] := by
  and_intros <;> decide +kernel

/-- A run that is asked for, whose descriptor names the sealed node, package 9 and tier 1. -/
def replicating : State :=
  { ((withDesc (BitVec.ofNat 512 (0x05000009 * 2 ^ 224 + 7 * 2 ^ 192 + 9 * 2 ^ 180 + 2 ^ 178))).setPool 12 { Pool.reset with base := 256, size := 10 }).setNode 0x05000009 node0 with
    nss := [(7, { ns0 with shared := true })], repl := { Repl.reset with go := true, desc := 0x40000000 } }

theorem wit_DirectoryEvents_runs :
    State.reset.dirReqs = [] ∧ ((req0 1).tag = 0 ∧ (req0 1).op = 1 ∧ (req0 1).msg.op = 1 ∧ 1299999 < (req0 1).sentAt + 1300000 ∧ (req0 1).sentAt + 1300000 ≤ 1300000) ∧
    State.reset.repl.go = false ∧
    (let z : State := { replicating with repl := { replicating.repl with count := 0 } }
     replicating.repl.go = true ∧ replicating.repl.inflight = none ∧
     ((z.devRead 0 replicating.repl.desc 32).map fun bs =>
       let d : BitVec 256 := BitVec.ofNat 256 (pNat bs).1
       let g : BitVec 32 := d.extractLsb' 224 32
       decide ((pNat bs).2 = false ∧ d.extractLsb' 0 177 = 0 ∧ d.getLsbD 177 = false ∧ d.extractLsb' 178 2 ≠ 3 ∧ d.extractLsb' 180 12 ≠ replicating.pkgid ∧
         z.hRange g = false ∧ z.hStale g = false ∧ (z.node g).st = .sealed ∧ (z.node g).nsid = d.extractLsb' 192 32 ∧
         (z.ns? (d.extractLsb' 192 32)).map (·.shared) = some true)) = some true) := by
  decide +kernel

/-! ### Trust, queues, packets -/

/-- The prime 2^3072 − 1103717 as a modulus, an image of one byte for the compute dies, and its signature under 65,537, both computed
outside the model from R93's layout. -/
def modulus0 : List Byte := beBytes 384 (2 ^ 3072 - 1103717)
def signature0 : Nat :=
  0x8abc3df525470a84d25eaa9010fc7ec570e169b67ae12fb04d0f27c7dbcbad4fcb3661015bb2bc5bc04245978f75a84d0afb64fd469d5a61f61788c41b68014ddb9259fe4f408c85ce1572d850bffa18405e9abc689dc6ee5dd2776bb1839a5dd9637e23e6a80eaf7ba6fee725ffa155a938e4933e74c79128be6c02c9f4018db7d80de1a51b9035ddd10703001a458d292401461c0b38fe392725257cd9cfef3ea6cbfefb421136a8a4794bb03061f0507da0dd5778be187765511c9da870b5f62406563391fca07d446ca5214c09e8832bbdf60aeadbed2452d40b7349aceb48ad5f724b7cb430124cc27019f977257f386b55cf30efe953276422d784d9cd74a4c04344eeb88ffd229de91c57dbf0f4adc1c8f75c78055a6a28fd626ef990fab608f678b09599bb02a091043bd621b3d501127ddb8d98777db14a8d863d8742d600ebd7c84313e6d86e66e9e5a483d1f90be10f810b2f04c677295961f3374988ea7748ee7a642f8df3ac15ba50d531ab0d7b2c5fce1557aeae75f30cbd0
def signed0 : List Byte :=
  leBytes 4 0x4B465648 ++ leBytes 2 2 ++ leBytes 2 1 ++ leBytes 4 1 ++ leBytes 4 0 ++ sha256 [0x2A] ++ List.replicate 80 0
def bootImage0 : BootImage := { header := signed0 ++ beBytes 384 signature0, body := [0x2A], modulus := modulus0 }
def fused : State := { State.reset with keyHash0 := BitVec.ofNat 256 (leNat (sha256 modulus0)), flashB := some bootImage0 }

/-- Function 2 names context 0x33 with queue 4, and has channel 77. -/
def tdi0 (x : Tdi) : State :=
  let s : State := { State.reset with qfunc := [(4, 2)], chans := [{ chan := 77, key := 0, fn := 2, ctx := 0x33, lastCtr := 0 }] }
  (s.setFn 2 { s.fn 2 with tdi := x, session := true }).modQueue 4 fun q => { q with ctx := 0x33 }
def chanSet0 (chan : Nat) : List Byte := [1, 0] ++ leBytes 2 52 ++ leBytes 4 chan ++ leBytes 2 0x33 ++ leBytes 6 0 ++ List.replicate 40 0
def chanClear0 : List Byte := [2, 0] ++ leBytes 2 4 ++ leBytes 4 77

theorem wit_TrustEvents_boot :
    (let s : State := { fused with flashDcA := some bootImage0, dies := (fused.dies.map fun x => { x with fw := true }).set 3 (fused.die 3) }
     s.recovery = false ∧ s.dcImage = some bootImage0 ∧ (∀ k : BitVec 2, k.toNat < (3 : BitVec 2).toNat → (s.die k).fw = true) ∧ (s.die 3).fw = false) ∧
    fused.bootCheck 2 bootImage0 = 0 ∧ fused.bootCheck 2 { bootImage0 with body := [0x2B] } ≠ 0 ∧
    fused.copyCode fused.flashA ≠ 0 ∧ fused.copyCode fused.flashB ≠ 0 := by
  and_intros <;> decide +kernel

theorem wit_TrustEvents :
    (let s : State := { State.reset with mextGo := true, mextIdx := 8 }
     s.mextGo = true ∧ 8 ≤ s.mextIdx.toNat ∧ ({ s with mextIdx := 7 } : State).mextIdx.toNat < 8) ∧
    ((tdi0 .locked).recovery = false ∧ ((tdi0 .locked).fn 2).session = true ∧ ((tdi0 .locked).fn 3).session = false ∧ (chanSet0 5).length = 56 ∧ ((chanSet0 5).drop 10).take 6 = List.replicate 6 0 ∧ ((tdi0 .locked).fn 2).tdi = .locked ∧ (tdi0 .locked).fnNames 2 0x33 = true ∧
      ((tdi0 .locked).chans.all fun c => c.chan.toNat != 5) = true ∧ (tdi0 .locked).chans.length < 256) ∧
    (chanClear0.length = 8 ∧ ((tdi0 .run).chans.any fun c => c.fn == 2 && c.chan.toNat == 77) = true) ∧
    ((2 : BitVec 8) ≠ 0 ∧ ((tdi0 .unlocked).fn 2).tdi = .unlocked ∧ ((tdi0 .unlocked).fn 2).tdi ≠ .locked ∧ ((tdi0 .run).fn 2).tdi = .run) := by
  and_intros <;> decide +kernel

/-- Queue 5 of function 1, enabled or not, with two packets between head and tail. -/
def queue0 (en src halted : Bool) : State :=
  ({ State.reset with qfunc := [(5, 1), (6, 1)] } : State).modQueue 5 fun q =>
    { q with en := en, src := src, halted := halted, log2n := 6, head := 10, tail := 12, base := 0x20000, cring := 6 }

/-- Q_CTL: EN, 64 units, ring 6. -/
def ctl0 : W64 := 0x8000000000000000 + 6 * 0x100000000000000 + 6 * 0x4000000000
def ring0 : State := (queue0 false false false).modRing 6 fun r => { r with en := true, log2n := 6, base := 0x9000, waiting := [{ bits := 0, irq := false, urgent := false }], timer := some 0 }

theorem wit_QueueAndRingEvents :
    let s := queue0 false false false
    let q := s.queue 5
    let fields : Queue := { q with
      src := ctl0.getLsbD 62, loc := ctl0.getLsbD 61, log2n := ctl0.extractLsb' 56 5, prog := ctl0.extractLsb' 48 8
      cring := ctl0.extractLsb' 38 10, tclass := ctl0.extractLsb' 32 6 }
    (s.recovery = false ∧ s.queueFn 5 = 1 ∧ (s.fn (s.queueFn 5)).tdi = .unlocked ∧ q.en = false ∧ ctl0.getLsbD 63 = true ∧ s.queueOk 5 fields = true) ∧
    s.queueOk 5 { fields with log2n := 5 } = false ∧ ((queue0 true false false).queue 5).en = true ∧ ¬ ((2 : BitVec 8) = 0 ∨ s.queueFn 5 = 2) ∧
    (let q := (queue0 true false false).queue 5
     q.src = false ∧ ((q.tail - q.head).toNat ≤ ((74 : BitVec 32) - q.head).toNat ∧ ((74 : BitVec 32) - q.head).toNat ≤ 2 ^ q.log2n.toNat) ∧
     2 ^ q.log2n.toNat < ((75 : BitVec 32) - q.head).toNat ∧
     (((11 : BitVec 32) - q.head).toNat ≤ 2 ^ q.log2n.toNat ∧ ((11 : BitVec 32) - q.head).toNat < (q.tail - q.head).toNat)) ∧ q.src = false ∧ q.halted = false ∧
    (((queue0 true false true).queue 5).halted = true ∧ (((12 : BitVec 32) - ((queue0 true false true).queue 5).tail).toNat = 0)) ∧
    ((ring0.ring 6).en = true ∧ (s.ring 6).en = false ∧ ctl0.getLsbD 62 = false ∧ (s.fn (s.ringFn 6)).tdi = .unlocked) ∧
    ((ring0.ring 6).waiting = [{ bits := 0, irq := false, urgent := false }] ∧ (ring0.ring 6).full = false ∧ (ring0.ring 6).loc = false) ∧
    (ring0.ring 6).timer = some 0 ∧ (s.ring 6).timer ≠ some 0 := by
  and_intros <;> decide

/-- The same queue with a PAD packet of one unit in host memory, and a program image of one word. -/
def hostedAs (head : Nat) : State :=
  ({ queue0 true false false with progBusy := true, progAddr := 0x30000, progSlot := 3 }.hostWrite 1 0x20280 (leBytes 8 head)).hostWrite 0 0x30000
    (leBytes 64 (1 + 0x10000) ++ leBytes 128 (2 ^ 54 + 13 * 2 ^ 58) ++ leBytes 4 0x84000001)
def hosted : State := hostedAs 0x0101

/-- What PACKET_TAKE finds in the queue whose turn it is: its number, its PROG, clean units, no failed check, the first word. -/
def taken5 (s : State) : Option (BitVec 10 × BitVec 8 × Bool × Byte × Nat) :=
  s.nextQueue.bind fun e =>
    let x := e.2.queue e.1
    (e.2.ringRead e.1 x.head 1).map fun one =>
      (e.1, x.prog, one.all (fun y => !y.2), headerCheck (x.prog != 0) x.src x.size x.head (BitVec.ofNat 512 (pNat one).1), (pNat one).1)

theorem wit_QueueAndRingEvents_take :
    ((hosted.unit 2).packet = none ∧ (hosted.unit 2).running = false ∧ taken5 hosted = some (5, 0, true, 0, 0x0101) ∧
     taken5 ((hostedAs 0x0104).modQueue 5 fun q => { q with prog := 7 }) = some (5, 7, true, 0, 0x0104)) ∧
    ((unit0 255 0x0102).unit 4).packet.isSome = true ∧
    (let s := (unit0 255 0x0102).setUnit 4 { (unit0 255 0x0102).unit 4 with prog := some { words := [0x84000001], windows := [] } }
     (s.unit 4).running = true ∧ (s.unit 4).steps < 256 ∧ (s.unit 4).packet = some packet0 ∧ (s.unit 4).word = some 0x84000001) ∧
    (let s := hosted
     let head := s.hostRead 0 s.progAddr 192
     s.progBusy = true ∧ (∀ e ∈ s.queues, e.2.en = true → e.2.prog ≠ s.progSlot) ∧ head.take 2 = [1, 0] ∧
     (checkImage head ((pieces 4 1 (s.hostRead 0 (s.progAddr + 192) 4)).map fun b => BitVec.ofNat 32 (leNat b))).isOk = true) ∧
    (let s : State := { hosted with progSlot := 0, queues := [(5, hosted.queue 5)] }
     s.queues = [(5, hosted.queue 5)] ∧ (hosted.queue 5).en = true ∧ (hosted.queue 5).prog = s.progSlot) := by
  and_intros <;> first | rfl | decide

/-- A packet of words in unit 2 that has passed to dispatch; queue 5 waits for it, and context 0 maps VA 0x40000000. -/
def passed (ws : List W64) (tdi : Tdi) : State × Packet :=
  let p : Packet := { id := 9, queue := 5, count := 9, len := 1, words := ws }
  let s : State := { withDesc 5 with qfunc := [(5, 1)], chans := [{ chan := 77, key := 0, fn := 1, ctx := 0, lastCtr := 6 }] }
  let s := (s.setFn 1 { s.fn 1 with tdi := tdi, ide := true }).modQueue 5 fun q => { q with en := true, inflight := [9], fence := some p, waitge := some (p, 2, true) }
  ((s.hostWrite 1 0x50000 [0x80]).setUnit 2 { Interp.reset with packet := some p, ready := true }, p)

/-- A confidential COPY of one byte, encrypted outside the model's statements under key 0 with CHAN 77 and CTR 7. -/
def confidential : List W64 := [0x0103, 0x50000, 0x40000000, 1, 6 + 77 * 0x100000000, 7, 0x33E3DD659E29F768, 0xB35D71145B42B140]

theorem wit_PacketEvents :
    Dispatched (passed [0x0101, 0, 0, 0, 0, 0, 0, 0] .unlocked).1 2 1 (passed [0x0101, 0, 0, 0, 0, 0, 0, 0] .unlocked).2 ∧
    (let x := passed [0x0103, 0x50000, 0x60000, 4, 0, 0, 0, 0] .unlocked
     Dispatched x.1 2 3 x.2 ∧ (x.2.unit 0).getLsbD 258 = false ∧ (x.2.unit 0).getLsbD 256 = false ∧ (x.2.unit 0).getLsbD 257 = false ∧
     3 < ((x.2.unit 0).extractLsb' 192 64 : W64).toNat) ∧
    (let x := passed confidential .locked
     Dispatched x.1 2 3 x.2 ∧ (x.2.unit 0).getLsbD 258 = true ∧ (x.1.unit 2).conf = none ∧ x.1.confBusy 2 x.2 = false ∧ (x.1.fn (x.1.queueFn x.2.queue)).tdi ≠ .run) ∧
    (let x := passed [0x0104, 0x50000, 0, 0, 0, 0, 0, 0] .unlocked
     Dispatched x.1 2 4 x.2 ∧ ((x.2.unit 0).extractLsb' 192 8 : BitVec 8) = 0 ∧ (x.2.unit 0).getLsbD 200 = false) ∧
    (let x := passed [0x0104, 0x40000000, 0, 0x100, 0, 0, 0, 0] .unlocked
     let f := x.1.setUnit 2 Interp.reset
     Dispatched x.1 2 4 x.2 ∧ (x.2.unit 0).getLsbD 200 = true ∧ f.devWritable (f.queue x.2.queue).ctx ((x.2.unit 0).extractLsb' 64 64) 8 = true) ∧
    (let x := passed [0x0104, 0x50000, 0, 1, 0, 0, 0, 0] .unlocked
     Dispatched x.1 2 4 x.2 ∧ ((x.2.unit 0).extractLsb' 192 8 : BitVec 8) = 1) ∧
    (let x := passed [0x0104, 0x50000, 0x80, 2, 0, 0, 0, 0] .unlocked
     let y := passed [0x0104, 0x50000, 0x81, 0x20002, 0, 0, 0, 0] .unlocked
     Dispatched x.1 2 4 x.2 ∧ ((x.2.unit 0).extractLsb' 192 8 : BitVec 8) = 2 ∧ (x.2.unit 0).getLsbD 200 = false ∧ leNat (x.1.hostRead 1 0x50000 8) = 0x80 ∧
     x.1.queueFn 5 = 1 ∧ (x.1.queue 5).waitge = some (x.2, 2, true) ∧ ((x.2.unit 0).extractLsb' 208 16 : BitVec 16).toNat = 0 ∧
     (y.1.queue 5).waitge = some (y.2, 2, true) ∧ ((y.2.unit 0).extractLsb' 208 16 : BitVec 16).toNat = 2 ∧
     ((y.1.modQueue 5 fun q => { q with waitge := some (y.2, 1, false) }).queue 5).waitge = some (y.2, 1, false)) ∧
    (let x := passed [0x0005, 0, 0, 0, 0, 0, 0, 0] .unlocked
     (x.1.queue 5).fence = some x.2 ∧ (x.1.queue 5).inflight = [x.2.id] ∧ x.2.queue = 5 ∧ ((x.1.modQueue 5 fun q => { q with inflight := [8, 9] }).queue 5).inflight ≠ [9]) := by
  unfold Dispatched; and_intros <;> decide +kernel

theorem wit_PacketEvents_confidential :
    let x := passed confidential .run
    let f := x.1.setUnit 2 Interp.reset
    let v := x.2.unit 0
    Dispatched x.1 2 3 x.2 ∧ v.getLsbD 258 = true ∧ (x.1.fn (x.1.queueFn x.2.queue)).tdi = .run ∧
    x.1.chans = [{ chan := 77, key := 0, fn := 1, ctx := 0, lastCtr := 6 }] ∧ (v.extractLsb' 288 32 : BitVec 32) = 77 ∧ (f.queue x.2.queue).ctx = 0 ∧
    (6 : W64).toNat < (v.extractLsb' 320 64 : W64).toNat ∧
    gcmDecrypt (leBytes 32 0) (beBytes 4 77 ++ beBytes 8 7) (beBytes 8 0x40000000 ++ beBytes 8 1) (f.hostRead 1 0x50000 1)
      (leBytes 16 (v.extractLsb' 384 128 : BitVec 128).toNat) = some [0x2A] ∧
    (x.1.unit 2).conf = none ∧ x.1.confBusy 2 x.2 = false ∧ (x.1.fn 1).ide = true ∧ x.1.queueFn 5 = 1 ∧
    (x.1.confPieces 0 0x40000000 1).map (·.map fun d => leafKey d.leaf) = some [0] ∧ (x.1.ctx? 0).map (·.key) = some 0 := by
  unfold Dispatched; and_intros <;> decide +kernel

/-- Tile 3 has sent a packet to queue 5, which has room, or none. -/
def sent (tail : BitVec 32) : State :=
  ((withDesc 5).modTile 3 fun t => { t with enqs := [{ flag := 7, queue := 5, words := List.replicate 8 1 }], fpend := 0x80 }).modQueue 5 fun q =>
    { q with en := true, src := true, base := 0x40000000, log2n := 6, head := 0, tail := tail }

theorem wit_PacketEvents_enq :
    let s := sent 63
    let d := (s.dirtyBack 3).drainDie (dieOf 3)
    let q := d.queue 5
    s.railsOff = false ∧ (s.tile 3).enqs = { flag := 7, queue := 5, words := List.replicate 8 1 } :: [] ∧ (s.tile 3).claims = [] ∧ (s.tile 3).stop = none ∧ (s.tile 3).capturing = none ∧
    (s.tile 3).fpend.getLsbD 7 = true ∧ (q.tail - q.head).toNat ≠ 2 ^ q.log2n.toNat ∧ q.en = true ∧ q.src = true ∧ d.devWritable q.ctx (q.unitAt q.tail) 64 = true ∧
    (let q := (((sent 64).dirtyBack 3).drainDie (dieOf 3)).queue 5
     (q.tail - q.head).toNat = 2 ^ q.log2n.toNat) := by
  and_intros <;> decide +kernel

/-! ### Launches, scheduling, residency -/

/-- A launch header of one stage in the page at VA 0x40000000, with version `ver` (R114, R115), and its packet in unit 2. -/
def hdr0 (ver : Nat) : Nat :=
  ver * 2 ^ 496 + 2 ^ 492 + 2 ^ 489 + 2 ^ 486 + 2 ^ 483 + 2 ^ 479 + 2 ^ 476 + 4 * 2 ^ 469 + 4 * 2 ^ 352 +
    2 ^ 512 * (0x40000000 * 2 ^ 320 + 0x40000000 * 2 ^ 256 + 2 ^ 247 + 2 ^ 238 + 2 ^ 207)
def launched (ver : Nat) (pinned : Bool) : State × Packet :=
  let x := passed ([0x0902, 0, 0, 0, 0, 0, 0, 0] ++ toWords (leBytes 512 (hdr0 ver))) .unlocked
  (if pinned then x.1.wrBytes 0x120000 (leBytes 16 (leaf0.toNat + 2 ^ 70)) false else x.1, x.2)

/-- The launch that the packet of unit 2 makes. -/
def madeOf (x : State × Packet) : State × Nat × Launch :=
  let f := x.1.setUnit 2 Interp.reset
  let hd := leNat (wordBytes (x.2.words.drop 8))
  let q := f.queue x.2.queue
  let l := launchOf hd f.nextId q.ctx q.tclass x.2 (((f.ctx? q.ctx).map (·.interval)).getD 0)
  (f, hd, { l with handles := f.handlesOf l })

theorem wit_LaunchEvents_packet :
    (let x := launched 2 false
     Dispatched x.1 2 2 x.2 ∧ hdrLen x.2.header = 9 ∧ bitsOf (madeOf x).2.1 511 496 ≠ 1) ∧
    (let x := launched 1 false
     Dispatched x.1 2 2 x.2 ∧ hdrLen x.2.header = 9 ∧ headerBad (madeOf x).2.1 = false ∧ (madeOf x).1.overlaysPinned (madeOf x).2.2 = false) ∧
    (let x := launched 1 true
     Dispatched x.1 2 2 x.2 ∧ hdrLen x.2.header = 9 ∧ headerBad (madeOf x).2.1 = false ∧ (madeOf x).1.overlaysPinned (madeOf x).2.2 = true) := by
  unfold Dispatched; and_intros <;> decide +kernel

def ctx0 : ContextDesc := { ctx := 0, key := 0, trootDie := 0, trootNext := 0, tnsBase := 0, tnsCount := 0 }

/-- Tile 3 has been given an item of stage 0 of `launch0` and holds both overlays; or runs it and its streams have ended. -/
def given : State :=
  { sa { tl 1 with ist := .given, sclass := 1, item := some (item0 0 none), launch := some 1, resA := some (1, 0), resX := some (1, 0) } with launches := [(1, launch0)] }
def ended : State :=
  { sa { tl 1 with astep := true, xstep := true, item := some (item0 0 none), launch := some 1 } with launches := [(1, launch0)] }

/-- `launch0` with an entry of stage 0's queue on die 0, and at its end. -/
def entry0 : SqEntry := { slot := 0, avail := false, pusher := some 3 }
def launchE : Launch := launch0.setDie 0 (LaunchDie.empty.setInst 0 { (LaunchDie.empty.inst 0) with entries := [entry0] })
def launchD : Launch := { launch0 with started := true, nextGroup := launch0.dieGroups }
def only (l : Launch) : State := { State.reset with launches := [(1, l)] }

theorem wit_LaunchEvents :
    ((sa (tl 1)).railsOff = false ∧ ((sa (tl 1)).tile 5).ist = .none ∧ ((sa (tl 1)).tile 5).stop = none ∧ ((sa (tl 1)).tile 5).capturing = none ∧ ((sa (tl 1)).ctx? ctx0.ctx).isSome = true ∧
      ((sa (tl 1)).keyId ctx0.key).isSome = true) ∧
    (let t := given.tile 3
     given.railsOff = false ∧ t.ist = .given ∧ t.item = some (item0 0 none) ∧ t.resume = none ∧ t.sreq = none ∧ t.capturing = none ∧ (item0 0 none).group = none ∧
     given.launch? (item0 0 none).launch = some launch0 ∧ launch0.stages[(item0 0 none).stage.toNat]? = some stage0 ∧ t.sclass = stage0.cls ∧
     t.ctx = some launch0.ctx ∧ t.resA = some (launch0.id, (item0 0 none).stage) ∧ t.resX = some (launch0.id, (item0 0 none).stage)) ∧
    ((only launchE).launch? 1 = some launchE ∧ launchE.id = 1 ∧ ((launchE.die 0).inst (0 : BitVec 3).toNat).entries = entry0 :: [] ∧ entry0.avail = false ∧
      entry0.pusher = some (3 : BitVec 8).toNat ∧ ((only launchE).tile 3).claims = []) ∧
    ((given.tile 3).done = false ∧ (ended.tile 3).done = true ∧ ended.railsOff = false ∧ (ended.tile 3).item = some (item0 0 none) ∧
      ended.launch? (item0 0 none).launch = some launch0 ∧ launch0.id = (item0 0 none).launch) ∧
    ((only launch0).launch? 1 = some launch0 ∧ launch0.started = false) ∧
    ((only launchD).launch? 1 = some launchD ∧ launchD.started = true ∧ launchD.nextGroup = launchD.dieGroups ∧ (only launchD).hasItems 1 = false ∧
      (launchD.dies.toList.all fun x => x.isEmpty) = true ∧ (only launchD).tiles = [] ∧ launchD.counted = false) := by
  and_intros <;> decide

/-- A cohort of two tiles, both at their first barrier; and one of them not. -/
def cohort0 (n : Nat) : State :=
  let l := { launch0 with cohort := true, widths := [1], counts := [2], clulev := 0, dielev := 0 }
  let t := { tl 1 with launch := some 1, item := some (item0 0 (some 0)) }
  { State.reset with tiles := [(3, { t with bars := 1 }), (4, { t with bars := n })], launches := [(1, l)] }

theorem wit_LaunchEvents_barrier :
    (let s := cohort0 1
     let all := s.tilesWith fun t => t.cohort == some (1, 0) && t.ist == .running
     let came := all.filter fun h => ((s.launch? 1).getD launch0).gen 0 < (s.tile h).bars && (s.tile h).relPend.isEmpty
     came ≠ [] ∧ came.length + ((s.launch? 1).getD launch0).retiredOf 0 = ((s.launch? 1).getD launch0).groupSize) ∧
    (let s := cohort0 0
     let all := s.tilesWith fun t => t.cohort == some (1, 0) && t.ist == .running
     let came := all.filter fun h => ((s.launch? 1).getD launch0).gen 0 < (s.tile h).bars && (s.tile h).relPend.isEmpty
     came.length + ((s.launch? 1).getD launch0).retiredOf 0 ≠ ((s.launch? 1).getD launch0).groupSize) := by and_intros <;> decide

/-- Die 0's pointer is at class 5, which is eligible for `launch1`, with credit for one tile. -/
def launch1 : Launch := { launch0 with tclass := 5, maxdie := 1 }
def turned (t : Tile) : State :=
  let s : State := { State.reset with tiles := [(3, t)], launches := [(1, launch1)] }
  let s : State := { s with tenants := vset s.tenants (5 : BitVec 6) { Tenant.reset with en := true, prio := 3, weight := 4 } }
  s.setDie 0 { s.die 0 with ptr := 5, def_ := vset (s.die 0).def_ (5 : BitVec 6) 65536 }

/-- `launch0` on dies 0 and 1, with an entry of its stage 1 on die 0. -/
def launchA (x : LaunchDie) : Launch :=
  (launchE.setDie 0 x).setDie 1 { LaunchDie.empty with admitted := true }

theorem wit_SchedulingEvents :
    (let s := only (launchA { launchE.die 0 with admitted := true })
     let s : State := { s with tiles := [(3, { Tile.reset with holder := some 0, launch := some 1 })] }
     let l := launchA { launchE.die 0 with admitted := true }
     s.railsOff = false ∧ (s.tile 3).ist = .none ∧ (s.tile 3).stop = none ∧ (s.tile 3).capturing = none ∧ (s.tile 3).holder = some 0 ∧
     (s.tile 3).launch = some 1 ∧ s.launch? 1 = some l ∧ (s.chooseStage l 3 (s.tile 3).cur (s.tile 3).switched).isSome = true ∧ (s.seekStage 3).isSome = true) ∧
    (let l := launchA { launchE.die 0 with admitted := true, since := [{ stage := 0, since := 0, from_ := 0 }] }
     let s : State := { only l with cy := 4095 }
     s.launch? 1 = some l ∧ (∀ e ∈ (l.die 0).since, s.cy < e.from_ + 4096)) ∧
    (let l := launchA { launchE.die 0 with admitted := true, since := [{ stage := 0, since := 0, from_ := 0 }] }
     let s := { only l with cy := 4096, tiles := [(3, { tl 1 with launch := some 1, cur := some 0, item := some (item0 0 none) })] }
     s.railsOff = false ∧ s.launch? 1 = some l ∧ (l.die 0).since = [{ stage := 0, since := 0, from_ := 0 }] ∧ 0 + 4096 ≤ s.cy ∧ s.runningOn 1 0 = [3] ∧
     (∀ x ∈ s.tiles, x.1 / 64 = (0 : BitVec 2).toNat → x.2.launch = some 1 → x.2.capturing = none)) ∧
    (let l := launchA { LaunchDie.empty with admitted := true }
     (only l).launch? 1 = some l ∧ (l.die 0).admitted = true ∧ (l.die 0).withdrawn = false ∧ l.mindie < (l.dies.toList.filter fun y => y.admitted && !y.withdrawn).length) ∧
    (let l := launchA { LaunchDie.empty with admitted := true, withdrawn := true }
     (l.die 0).admitted = true ∧ (l.die 0).withdrawn = true ∧ (l.die 0).isEmpty = true ∧ (only l).tiles = [] ∧ (only l).images = []) := by
  and_intros <;> decide

theorem wit_SchedulingEvents_offers :
    (let s := turned { tl 1 with term := true, holder := some 0 }
     let t := s.tile 3
     t.term = true ∧ t.holder = some 0 ∧ t.ist = .running ∧ t.capturing = none ∧ (s.die (dieOf 3)).ptr = 5 ∧ s.eligible 5 (dieOf 3) = true ∧ qg ≤ s.deficit 5 (dieOf 3) ∧
     (5 : BitVec 6) ≠ 0 ∧ (s.tenant 0).prio.toNat < (s.tenant 5).prio.toNat ∧ s.victims 0 5 = [3]) ∧
    (let s := turned { tl 1 with term := true, holder := some 5 }
     (s.tile 3).holder = some 5 ∧ s.eligible 5 (dieOf 3) = true ∧ (s.tiles.all fun e => e.2.holder.all fun h => decide ((s.tenant 5).prio.toNat ≤ (s.tenant h).prio.toNat)) = true) ∧
    (let s := turned { Tile.reset with holder := some 0 }
     (s.tile 3).ist = .none ∧ (s.tile 3).stop = none ∧ (s.seekStage 3).isNone = true ∧ s.eligible 5 (dieOf 3) = true ∧ (s.tile 3).capturable = false ∧ s.victims 0 5 = [3]) ∧
    (let s := turned Tile.reset
     (s.tile 3).holder = none ∧ (s.tile 3).launch = none ∧ (s.tile 3).ist ≠ .stopped ∧ s.eligible 5 (dieOf 3) = true ∧ qg ≤ s.deficit 5 (dieOf 3)) ∧
    (let s : State := State.reset.setDeficit 5 (dieOf 3) (State.reset.deficit 5 (dieOf 3) - qg)
     (State.reset.tile 3).ist = .none ∧ (State.reset.tile 3).stop = none ∧ (State.reset.tile 3).capturing = none ∧ (State.reset.tile 3).holder = none ∧
       (State.reset.tile 3).launch = none ∧ s.wanting 5 (dieOf 3) = []) ∧
    ((List.range 64).all fun k => !State.reset.eligible (BitVec.ofNat 6 k) 0) = true := by
  and_intros <;> decide

theorem restoreGood (s : State) (i : Image) (g : BitVec 8) (hr : i.tilerev = Config.tileRev g) (hm : i.scanmap = Config.scanMap g) (ht : i.tagOk = true)
    (hk : s.keyId i.key = some i.keyId) (hc : (s.ctx? i.ctx).map (·.key) = some i.key) (hl : i.clu = false) : s.restoreBad i g = none := by
  simp [State.restoreBad, hr, hm, ht, hk, hc, hl]

theorem restoreRefused (s : State) (i : Image) (g : BitVec 8) (ht : i.tagOk = false) : s.restoreBad i g ≠ none := by
  unfold State.restoreBad; split <;> simp [ht]

theorem wit_SchedulingEvents_restore :
    let s (i : Image) : State := { settled 5 with images := [(0x80000001, i)], tiles := [(7, { Tile.reset with ist := .given, resume := some 0x80000001, sclass := 1 })] }
    let i := image0 (((settled 5).keyId 0).getD 0)
    let j : Image := { i with tagOk := false }
    (s i).railsOff = false ∧ Tab.get? (s i).images (0x80000001 : BitVec 32).toNat = some i ∧ Tab.get? (s j).images (0x80000001 : BitVec 32).toNat = some j ∧
    i.members = [] ∧ i.hbm = none ∧ ((s i).tile 7).ist = .given ∧ ((s i).tile 7).resume = some 0x80000001 ∧ ((s i).tile 7).sreq = none ∧
    ((s i).tile 7).sclass ≠ 0 ∧ ((s i).tile 7).capturing = none ∧ ((s i).tilesWith fun x => x.resume == some 0x80000001) = [7] ∧
    (s i).restoreBad i 7 = none ∧ (s j).restoreBad j 7 ≠ none := by
  and_intros <;> first | rfl | decide | exact restoreRefused _ _ _ rfl | exact restoreGood _ _ _ rfl rfl rfl (by decide) (by decide) rfl

/-! ### Residency -/

/-- A residency entry (R148): one page at VA 0x40000000 of context 0 at a tier, valid or not, with users. -/
def res0 (valid : Bool) (tier users : Nat) : BitVec 512 :=
  BitVec.ofNat 512 (0x40000000 * 2 ^ 384 + 2 ^ 352 + (if valid then 2 ^ 326 else 0) + tier * 2 ^ 324 + users * 2 ^ 288)

/-- The residency table of firmware at VA 0x40000000, with that entry of handle 1; a command on the handle; context 0 seals its page. -/
def resS (op : BitVec 3) (h : BitVec 16) (e : BitVec 512) : State :=
  let s : State := { (withDesc 0).wrBytes 0x200040 (leBytes 64 e.toNat) false with
    resBase := 0x40000000, resGo := true, resRunOp := op, resRunHandle := h, resPool := Vector.replicate 4 100, resCxl := 0x0001000100010001 }
  match s.ctx? 0 with
  | some c => s.setCtx { c with seals := [{ base := 0x40000000, size := 0x10000, spad := none }] }
  | none => s

theorem wit_ResidencyEvents :
    (let s := resS 1 0 (res0 false 1 0)
     s.resGo = true ∧ s.resRunOp = 1 ∧ s.resRunHandle.toNat = 0 ∧ 16384 ≤ (0x4000 : BitVec 16).toNat) ∧
    (let e := res0 false 1 0
     let s := resS 1 1 e
     s.resRunHandle.toNat = (1 : BitVec 14).toNat ∧ (1 : BitVec 14) ≠ 0 ∧ s.resEntry 1 = some e ∧ s.moveOf 1 = none ∧ resPages e ≠ 0 ∧ (resVaBase e).toNat % 65536 = 0 ∧
     e.extractLsb' 0 288 = 0 ∧ (s.resSlots e).isSome = true ∧
     ((s.ctx? (resCtx e)).map fun c => c.seals.map fun r => (r.base.toNat, r.size.toNat, r.spad)) = some [(0x40000000, 0x10000, none)] ∧
     (resVaBase e).toNat + 65536 * resPages e = 0x40000000 + 0x10000 ∧ ((s.resSlots e).bind (tierFound e)) = some 1 ∧ resValid e = false ∧
     (((withDesc 0).ctx? (resCtx e)).map fun c => c.seals.length) = some 0 ∧ ((res0 false 1 0) ||| 1).extractLsb' 0 288 ≠ 0) ∧
    (let e := res0 true 2 0
     (resS 3 1 (res0 true 1 0)).resEntry 1 = some (res0 true 1 0) ∧ resValid e = true ∧ resTier e ≠ 1 ∧ resTier (res0 true 1 0) = 1 ∧ resTier (res0 true 1 0) ≠ 2 ∧ resUsers e = 0 ∧
     resUsers (res0 true 1 3) ≠ 0 ∧ resTier (res0 true 1 0) ≠ 0) ∧
    (let m : ResMove := { h := 1, fromTier := 0, toTier := 0, die := 0, port := 0, cmd := true }
     let s : State := { resS 4 1 (res0 true 3 0) with resMoves := [m] }
     let k : Shootdown := { scope := 1, ctx := 0, va := 0, wait := sdParties, host := false, cmd := some (moveTag 1, 0) }
     s.moveOf (1 : BitVec 14).toNat = some m ∧ (s.resEntry 1).isSome = true ∧ s.sds = [] ∧ (∃ d ∈ [k], d.cmd = some (moveTag (1 : BitVec 14).toNat, 0)) ∧ m.toTier = 0 ∧
     s.launches = []) ∧
    ((State.reset.tenant 5).en = false ∧ ((turned Tile.reset).tenant 5).en = true ∧ ((turned Tile.reset).tenant 5).active = true ∧ ((turned Tile.reset).tenant 5).resref = false ∧
      (let s : State := { turned Tile.reset with launches := [] }
       (s.tenant 5).en = true ∧ s.launches = [])) := by
  and_intros <;> decide +kernel

/-! ### Translation, engines, the store, steps -/

/-- Tile 3 waits for a walk of a page that context 0 maps, or of one that it does not map. -/
def walker (va : W64) : State :=
  (withDesc 0).modTile 3 fun t => { t with walks := [{ ctx := 0, va := va, acc := .read, waiter := .stream, half := false }] }

/-- A collective command in progress that takes a block of 4 bytes from package 9. -/
def coll0 : Cmd := { mkCmd (tl 1) .collrecv .a (tok 1 0) 0 0 0 0 with prog := 1 }

/-- A frozen tile with one access, whose page is that of handle 1; the handle moves, or not. -/
def frozen (moves : Bool) : State :=
  { (resS 2 1 (res0 true 2 0)).modTile 3 fun t =>
      { t with stop := some .notPresent, faults := [{ ctx := 0, va := 0x40000000, acc := .read, waiter := .stream, half := false }] } with
    resMoves := if moves then [{ h := 1, fromTier := 2, toTier := 0, die := 0, port := 0, cmd := true }] else [] }

/-- A claim under a vector. -/
def claiming (v : W64) : State := sa { tl 1 with claims := [{ line := 5, bytes := 1, vclk := Vector.replicate 4 v }] }

/-- A fence's token in flight: a drain, and a level 1 fence whose window closes at cycle `n`. -/
def fencing (o : CmdOp) (n : W64) : State :=
  sa { tl 1 with xcyc := 100, loose := [{ mkCmd (tl 1) o .a (tok 1 0) n 0 0 1 with prog := 1 }], alog := [.token 31, .flag 7 true] }

theorem wit_TranslationAndEngineEvents :
    (let s : State := { State.reset with sdGo := true, sdScope := 2 }
     s.sdGo = true ∧ s.sdScope = 2 ∧ s.sds = []) ∧
    (let k : Shootdown := { scope := 2, ctx := 0, va := 0, wait := [.copyUnit], host := true, cmd := none }
     let s : State := { (withDesc 0) with sds := [k] }
     let copying : ConfCopy := { ended := false, fn := 3, chan := 5, ctx := 0, ctr := 0, plain := [1], dst := [{ va := 0x40000000, n := 1, pa := 0x200000, leaf := leaf0 }] }
     let u : State := { s with interps := vset s.interps (0 : BitVec 4) { Interp.reset with conf := some copying } }
     s.sds = [k] ∧ k.wait = [.copyUnit] ∧ s.confHolds { k with wait := [] } = false ∧ s.confHolds { k with wait := [.residencyUnit] } = false ∧
     u.confHolds { k with wait := [] } = true ∧ ({ k with wait := [.rim 3] } : Shootdown).wait = .rim 3 :: [] ∧ (s.tile 3).l1 = []) ∧
    (let s := walker 0x40000000
     s.railsOff = false ∧ (s.tile 3).capturing = none ∧ (s.tile 3).stop = none ∧ (s.tile 3).walks.length = 1 ∧
     (s.doWalk 3 { ctx := 0, va := 0x40000000, acc := .read, waiter := .stream, half := false }).1 = .ok ∧
     (match ((s.wrBytes 0 [3] false).doWalk 3 { ctx := 0, va := 0x40000000, acc := .read, waiter := .stream, half := false }).1 with | .bad _ => true | _ => false) = true ∧
     (s.doWalk 3 { ctx := 0, va := 0x50000000, acc := .read, waiter := .stream, half := false }).1 = .absent) ∧
    (((frozen false).tile 3).stop = some .notPresent ∧ ((frozen false).tile 3).capturing = none ∧
      (((frozen false).tile 3).faults.all fun w => !(frozen false).pageMoves w) = true ∧ (((frozen true).tile 3).faults.any (frozen true).pageMoves) = true) ∧
    (((claiming 1).tile 3).claims.length = 1 ∧ (claiming 1).claimServed 3 { line := 5, bytes := 1, vclk := Vector.replicate 4 1 } = true ∧
      (claiming 2).claimServed 3 { line := 5, bytes := 1, vclk := Vector.replicate 4 2 } = false) ∧
    ((sa (tl 1)).setChan 0 7 [.close 2]).chan 0 7 = .close 2 :: [] ∧
    (((fencing .drain 0).tile 3).loose.length = 1 ∧ (((fencing .drain 0).tile 3).loose.all fun c => c.prog != 0 && c.op == .drain && c.waits == []) = true ∧
      (((fencing .xfnc 100).tile 3).loose.all fun c => c.prog != 0 && c.op != .drain && c.imm != 3 && decide (c.a.toNat ≤ ((fencing .xfnc 100).tile 3).xcyc)) = true ∧
      ((fencing .drain 0).tile 3).alog = .token 31 :: [.flag 7 true] ∧ ((fencing .drain 0).tile 3).stop = none ∧ ((fencing .drain 0).tile 3).capturing = none) ∧
    (let s := sa { tl 1 with ecoll := { EngQ.reset with running := [coll0] } }
     (s.tile 3).ecoll.running = [coll0] ∧ coll0.takes 0 0 0 0 = some 0 ∧ s.cmdOf 3 .coll coll0.seq = some coll0 ∧ coll0.prog = 1 ∧
       ({ s with cy := 12999999 } : State).cy < coll0.since + 13000000 ∧ coll0.since + 13000000 ≤ ({ s with cy := 13000000 } : State).cy) ∧
    (State.reset.die 0).rake = [] := by
  and_intros <;> decide +kernel

/-- A command of the copy engine that fills 64 bytes of the scratchpad, and one that is misaligned. -/
def filling (c : W64) : State :=
  sa { tl 0 with ecopy := { EngQ.reset with running := [{ mkCmd (tl 0) .copy .a (tok 1 0) 0 0 c (64 + 8 + 1) with prog := 0 }] } }

/-- A command of another engine than the copy engine: a swap of the two views, or a seal of a range above the virtual space. -/
def swapping : State := sa { tl 0 with emat := { EngQ.reset with running := [{ mkCmd (tl 0) .mswap .x (tok 1 0) 0 0 0 0 with prog := 0 }] } }
def sealing : State := sa { tl 0 with esalt := { EngQ.reset with running := [{ mkCmd (tl 0) .rseal .a (tok 1 0) (2 ^ 60) 0x1000 0 0 with prog := 0 }] } }

theorem wit_TranslationAndEngineEvents_work :
    (swapping.railsOff = false ∧ swapping.engineRuns 3 .matrix = true ∧
     ((swapping.cmdOf 3 .matrix 0).map fun c => match swapping.workCmd 3 .matrix c with
       | .ok x => x.2 && ((x.1.cmdOf 3 .matrix c.seq).getD c).op != .copy
       | .error _ => false) = some true) ∧
    (sealing.engineRuns 3 .salt = true ∧
     ((sealing.cmdOf 3 .salt 0).map fun c => match sealing.workCmd 3 .salt c with | .error (.cause _ r) => r.code == 0x69 | _ => false) = some true) ∧
    (let s := filling 63
     s.engineRuns 3 .copy = true ∧ ((s.cmdOf 3 .copy 0).map fun c => match s.workCmd 3 .copy c with | .error (.ill _ n) => n == 0x02 | _ => false) = some true) := by
  and_intros <;> decide +kernel

/-- Two searches of one name each in the rake of die 0: name 0, whose node is being harvested, and name 1, which no node bears. -/
def search0 (seq : BitVec 32) (a : W64) : Cmd := { mkCmd (tl 0) .pxmatch .a (tok 1 0) a 0 (7 * 2 ^ 32 + 1) 0 with prog := 1, seq := seq, blk0 := Search.bits { d := 0, h := 0, probes := 0, remote := 0, hi := 1, wait := 0 } }
def raking (l : List RakeReq) : State :=
  let s := ((withDesc 0).wrBytes 0x200040 [1] false).modTile 3 fun t => { t with esalt := { EngQ.reset with running := [search0 1 0x40000000, search0 2 0x40000040] } }
  let s : State := { s.setNode 0x05000009 { node0 with st := .harvesting } with nss := [(7, ns0)], index := [(0, 0, 7, 0x05000009)] }
  s.setDie 0 { s.die 0 with rake := l }

theorem wit_TranslationAndEngineEvents_rake :
    (let s := raking [{ tile := 3, seq := 2 }]
     (s.die 0).rake = { tile := 3, seq := 2 } :: [] ∧ s.rakeAway 0 < 16 ∧ s.cmdOf 3 .salt 2 = some (search0 2 0x40000040) ∧
       (match s.rakeRun 3 (search0 2 0x40000040) with | .ok _ => true | _ => false) = true) ∧
    (let s := raking [{ tile := 3, seq := 1 }]
     (s.die 0).rake = [{ tile := 3, seq := 1 }] ∧ s.cmdOf 3 .salt 1 = some (search0 1 0x40000000) ∧
       (match s.rakeRun 3 (search0 1 0x40000000) with | .error (.wait _) => true | _ => false) = true) ∧
    (let s := raking [{ tile := 3, seq := 1 }, { tile := 3, seq := 2 }]
     (s.die 0).rake = { tile := 3, seq := 1 } :: { tile := 3, seq := 2 } :: [] ∧ s.rakeAway 0 < 15 ∧ s.cmdOf 3 .salt 1 = some (search0 1 0x40000000) ∧
       (match s.rakeRun 3 (search0 1 0x40000000) with
        | .error (.wait u) => u.cmdOf 3 .salt 2 == some (search0 2 0x40000040) && (match u.rakeRun 3 (search0 2 0x40000040) with | .ok _ => true | _ => false)
        | _ => false) = true) := by
  and_intros <;> decide +kernel

/-- Context 9 with a checkpoint interval, and the driver's registers set for a command on it. -/
def ck0 (iv : BitVec 10) (go : Bool) : State :=
  let c := Ctx.fresh { ctx := 9, key := 0, trootDie := 0, trootNext := 0, tnsBase := 0, tnsCount := 0 }
  { State.reset.setCtx { c with ckInterval := iv } with tickcnt := 10000, ckCfg := { State.reset.ckCfg with go := go, ctx := 9 } }

/-- REGISTER of the namespace that a descriptor describes; and UNREGISTER. -/
def registering (d : Nat) : State :=
  { withDesc (BitVec.ofNat 512 d) with nsGo := true, nsRunOp := 1, nsAddr := 0x40000000, idxLog := Vector.replicate 4 20 }
def nsDesc : Nat := 7 * 2 ^ 160 + 3 * 2 ^ 138 + 13 * 2 ^ 133

theorem wit_StoreAndCheckpointEvents_namespaces :
    (let s : State := { State.reset with nsGo := true, nsRunOp := 1 }
     s.nsGo = true ∧ s.nsRunOp = 1 ∧ s.indexReady = false) ∧
    (let s := registering nsDesc
     s.nsGo = true ∧ s.nsRunOp = 1 ∧ s.indexReady = true ∧ ((s.devRead 0 s.nsAddr 64).map fun l => (pNat l).2 || namespaceBad (BitVec.ofNat 512 (pNat l).1)) = some false ∧
     s.ns? ns0.nsid = none ∧ s.nss.length < 4096 ∧ ((nodes0 node0).ns? ns0.nsid).isSome = true) ∧
    ((registering (nsDesc + 1)).devRead 0 0x40000000 64).map (fun l => decide ((BitVec.ofNat 512 (pNat l).1).extractLsb' 0 122 ≠ 0)) = some true ∧
    ((registering 0).devRead 0 0x40000000 64).map (fun l => (namespaceOf (BitVec.ofNat 512 (pNat l).1)).nsid == 0) = some true ∧
    (let s : State := { registering nsDesc with nss := (List.range 4096).map fun i => (100 + i, ns0) }
     s.ns? ns0.nsid = none ∧ 4096 ≤ s.nss.length) ∧
    (let s : State := { State.reset with nsGo := true, nsRunOp := 2, nsRunNsid := 7 }
     let u : State := { s with nss := [(7, ns0)] }
     s.nsRunOp = 2 ∧ s.ns? s.nsRunNsid = none ∧ u.ns? u.nsRunNsid = some ns0 ∧ ns0.closing = false ∧ u.nodes = []) ∧
    (let s : State := { State.reset with nss := [(7, { ns0 with closing := true })] }
     Tab.get? s.nss (7 : BitVec 32).toNat = some { ns0 with closing := true } ∧ ns0.shared = false ∧ s.nodes = []) ∧
    (∃ e ∈ (nodes0 node0).nodes, e.2.st ≠ .free ∧ e.2.nsid = 7) := by
  and_intros <;> decide +kernel

/-- A pool of records on die 0 below LOW, and one sealed node that can be harvested. -/
def harvestable : State :=
  (({ State.reset with nss := [(7, ns0)] } : State).setNode 0x05000009 { Node.reset with gen := 5, st := .sealed, nsid := 7 }).setPool 12
    { Pool.reset with size := 100, low := 120, high := 130 }

theorem wit_StoreAndCheckpointEvents_harvest :
    (let p : Pool := { Pool.reset with size := 100, low := 100, high := 110 }
     poolFree 12 p < p.low.toNat ∧ ({ p with low := 99, high := 99 } : Pool).low.toNat ≤ poolFree 12 { p with low := 99, high := 99 } ∧
       ({ p with low := 99, high := 99 } : Pool).high.toNat ≤ poolFree 12 { p with low := 99, high := 99 } ∧
       ({ p with low := 99, high := 100 } : Pool).low.toNat ≤ poolFree 12 { p with low := 99, high := 100 } ∧
       poolFree 12 { p with low := 99, high := 100 } < ({ p with low := 99, high := 100 } : Pool).high.toNat) ∧
    ((State.reset.pool 12).harvesting = false ∧ (State.reset.pool 12).picks = 0 ∧ 4 ≤ ({ Pool.reset with moves := [1, 2, 3, 4] } : Pool).moves.length) ∧
    ((harvestable.pool 12).harvesting = true ∧ (harvestable.pool 12).picks ≠ 0 ∧ 8 ≤ (12 : BitVec 4).toNat ∧ (harvestable.pool 12).moves = [] ∧
      harvestable.nodes.map (·.1) = [9] ∧ (harvestable.nodes.all fun e => e.2.candidate 9 12) = true ∧ harvestable.ns? 7 = some ns0) ∧
    (let s := nodes0 { node0 with st := .harvesting }
     (s.node 0x05000009).gen = hGen 0x05000009 ∧ (s.node 0x05000009).st = .harvesting ∧ (s.node 0x05000009).moving = false) ∧
    (let s := nodes0 { node0 with st := .harvesting, groups := node0.groups ++ [{ pkg := 0, tier := 1, layer0 := 0, nlay := 3, addr := 0x30000 }] }
     (s.node 0x05000009).gen = hGen 0x05000009 ∧ (s.node 0x05000009).st = .harvesting ∧ (s.node 0x05000009).moving = true ∧
       (s.ns? (s.node 0x05000009).nsid).map (·.closing) = some false) := by
  and_intros <;> decide +kernel

theorem wit_StoreAndCheckpointEvents :
    ((ck0 0 true).ckCfg.go = true ∧ (ck0 0 true).ctx? 8 = none ∧ ((ck0 0 true).ctx? (ck0 0 true).ckCfg.ctx).map (·.ckInterval) = some 0 ∧
      ((ck0 5 true).ctx? 9).map (·.ckInterval) = some 5) ∧
    ((ck0 0 false).ctx? 9).map (fun x => x.ckInterval == 0 && !x.hold) = some true ∧
    (((ck0 5 false).ctx? 9).map (fun x => x.rolling || x.pendE.isSome || !x.refs.isEmpty || x.ckNext.isSome || x.id != 9 || x.ckLast != 0)) = some false ∧
    1000 * (5 : BitVec 10).toNat ≤ (ck0 5 false).tickcnt.toNat - 0 ∧ (ck0 5 false).ioPackets 9 = [] ∧ (ck0 5 false).tiles = [] ∧
    (let s : State := { ck0 5 false with queues := [(4, { Queue.reset with ctx := 9 })]
                                         interps := vset State.reset.interps (0 : BitVec 4) { Interp.reset with packet := some { id := 3, queue := 4, count := 7, len := 9, words := [0] } } }
     s.ioPackets 9 ≠ []) ∧
    (((ck0 5 false).setCtx { Ctx.fresh { ctx := 9, key := 0, trootDie := 0, trootNext := 0, tnsBase := 0, tnsCount := 0 } with pendE := some (1, 0) }).ctx? 9).map
      (fun x => (x.id == 9, x.pendE)) = some (true, some (1, 0)) := by
  and_intros <;> decide +kernel

theorem wit_StepRunsTheDecodedInstruction :
    (let s : State := { (sa { tl 1 with apc := 16383 }).setImemWord 3 .a 16383 0x0461_1001 with agenda := [.stream 3 .a, .event .tick] }
     let u : State := { s.elapse with agenda := [.event .tick] }
     let x := u.tile 3
     s.agenda = .stream 3 .a :: [.event .tick] ∧ x.live = true ∧ x.stepped .a = false ∧ u.railsOff = false ∧ x.locked .a (x.pc .a) = false ∧
     x.locked .a (x.pc .a + 1) = false ∧ (∀ j : BitVec 3, (vget x.brk BrkSlot.reset j).valid = false) ∧
     (decodeIssue (u.imemWord 3 .a (x.pc .a)) (u.imemWord 3 .a (x.pc .a + 1)) .a (x.ctx == some 0)).isOk = true) ∧
    (let s : State := { (sa (tl 1)).setImemWord 3 .a 0 0 with agenda := [.stream 3 .a] }
     let u : State := { s.elapse with agenda := [] }
     let x := u.tile 3
     x.live = true ∧ (decodeIssue (u.imemWord 3 .a 0) (u.imemWord 3 .a 1) .a (x.ctx == some 0)).isOk = false) ∧
    (let s : State := { State.reset with agenda := [], focus := .event .tick }
     s.agenda = [] ∧ s.focus = .event .tick) ∧
    (let s : State := { State.reset with interps := vset State.reset.interps (4 : BitVec 4) { Interp.reset with running := true, prog := some { words := [0x04488000], windows := [] } }
                                         agenda := [.interp 4] }
     let u : State := { s.elapse with agenda := [] }
     (vget u.interps Interp.reset (4 : BitVec 4)).running = true ∧ (vget u.interps Interp.reset (4 : BitVec 4)).word = some 0x04488000 ∧ (decodeQ 0x04488000).isOk = true) := by
  and_intros <;> decide

theorem wit_EncodedInstructionsDecodeToThemselves :
    (Instr.qadd 15 15 15).Wf ∧ isQueueInstr (.qadd 15 15 15) = true ∧ (encode (.qadd 15 15 15)).length = 1 ∧ (Instr.vld 56 31 7 15 (-1)).Wf ∧
    (encode (.vld 56 31 7 15 (-1))).length = 1 ∧ (Instr.pxmatch (tok 31 31) 1 2 3 16).Wf ∧ (encode (.pxmatch (tok 31 31) 1 2 3 16)).length = 2 := by decide

theorem wit_EveryStepKeepsStorageCanonical : State.reset.MemWf ∧ (∃ t, step State.reset = .next t) := ⟨by decide, _, rfl⟩

theorem wit_RegisterAndFlagFormsChangeNothingElse :
    (sa (tl 1)).cur = .stream 3 .a ∧ (match exec (.add 3 1 2) (sa (tl 1)) with | .next _ => true | _ => false) = true ∧ writesD (.add 3 1 2) = some 3 ∧
    writesF (.cmpEq 7 1 2) = some 7 := by decide

/-- The table placed so that handle 1 is its last entry below the top of the virtual space: every other handle is unreadable. VA 0x40000000 is mapped. -/
def resTop (e : BitVec 512) : State :=
  let s := (((withDesc 0).wrBytes 0x1FFF0 (leBytes 16 0x100001) false).wrBytes 0x11FFF0 (leBytes 16 0x120001) false).wrBytes 0x13FFF0 (leBytes 16 leaf0.toNat) false
  { s.wrBytes 0x20FFC0 (leBytes 64 e.toNat) false with
    resBase := 0x7FFFFFFFFFFF80, resGo := true, resRunOp := 2, resRunHandle := 1, resPool := Vector.replicate 4 100, resCxl := 0x0001000100010001 }

theorem wit_ResidencyEvents_room :
    let e := res0 true 2 0
    let s := resTop e
    s.resEntry 1 = some e ∧ s.pagesThen 1 (resDie e) + resPages e ≤ s.resCap 1 (resDie e) := by
  and_intros <;> decide +kernel

theorem wit_ResidencyEvents_room2 :
    let e := res0 true 1 0
    let s := resTop e
    s.resEntry 1 = some e ∧ s.pagesThen 2 (resPort e) + resPages e ≤ s.resCap 2 (resPort e) := by
  and_intros <;> decide +kernel

/-- A move to tier 1 of handle 1's page. -/
def resMove0 : ResMove := { h := 1, fromTier := 0, toTier := 1, die := 0, port := 0, cmd := true }
def resPlaced : State := { resTop (res0 true 0 0) with resMoves := [resMove0] }

theorem wit_ResidencyEvents_place :
    resPlaced.moveOf (1 : BitVec 14).toNat = some resMove0 ∧ resPlaced.resEntry 1 = some (res0 true 0 0) ∧ resPlaced.sds = [] ∧ resPlaced.launches = [] ∧
    ((resPlaced.resSlots (res0 true 0 0)).map fun l => framesOk resMove0 l [0x20]) = some true ∧
    resPlaced.pagesNow 1 resMove0.die + resPages (res0 true 0 0) ≤ resPlaced.resCap 1 resMove0.die := by
  and_intros <;> decide +kernel

/-! ## Well-formedness: for each check of `operandCause` and `Instr.wf`, terms that it refuses -/

theorem test_wf_element_types :
    [Instr.vadd .oi4 0 0 0 0, .vsub .e2m1 0 0 0 0, .vmul .e4m3 0 0 0 0, .vmin .e5m2 0 0 0 0, .vmax .a40 0 0 0 0,
      .vand .f16 0 0 0 0, .vor .bf16 0 0 0 0, .vxor .f32 0 0 0 0, .vshl .f64 0 0 0 0, .vshr .oi4 0 0 0 0, .vadds .f32 0 0 0 0,
      .vsubs .f32 0 0 0 0, .vdiv .i8 0 0 0 0, .vsqrt .n8 0 0 0, .vmac .i64 0 0 0 0, .vcmpeq .a40 0 0 0 0, .vcmplt .oi4 0 0 0 0,
      .vcmple .e4m3 0 0 0 0, .vrsum .e2m1 0 0 0, .vrmin .a40 0 0 0, .vrmax .oi4 0 0 0, .vrsumc .a40 0 0 0, .vperm .oi4 0 0 0,
      .vperm .a40 0 0 0, .vbcstx .a40 0 0, .vbcste .a40 0 0 0, .vcompress .a40 0 0 0, .vexpand .a40 0 0 0, .zclr 0 0,
      .zcvt 0 1, .zwr 0 0 0 2].all (fun i => operandCause i == some 0x05 && !i.wf) = true := by decide +kernel

/-- The checks of a conversion: unused bits of VB, group ends on either side, the type pair, and SAT on a pair that has none. -/
theorem test_wf_conversions :
    operandCause (.vcvt .f32 .i32 0 0 2) = some 0x01 ∧ operandCause (.vcvt .f64 .f16 61 0 0) = some 0x04 ∧
    operandCause (.vcvt .f16 .f64 0 61 0) = some 0x04 ∧ operandCause (.vcvt .a40 .f32 0 0 0) = some 0x05 ∧
    operandCause (.vcvt .f32 .f32 0 0 0) = some 0x05 ∧ operandCause (.vcvt .oi4 .e4m3 0 0 0) = some 0x05 ∧
    operandCause (.vcvt .oi4 .f64 0 0 0) = some 0x05 ∧ operandCause (.vcvt .f32 .f16 0 0 1) = some 0x05 ∧
    (Instr.vcvt .i8 .i32 0 0 1).Wf := by decide +kernel

theorem test_wf_groups_and_queues :
    [Instr.vld 63 0 1 0 0, .vst 63 0 1 0 0, .vldc 60 0 4 0 0, .vstc 57 0 7 0 0, .qfill 0 6 0 0, .qpopv 0 6, .qpopx 0 15,
      .qstore 0 5 0 0, .qpopa 0 8, .qpushv 0 0, .qpushx 0 5, .rcpanch 32 0, .rcpunanch 16 2, .mma .i8 (tok 0 0) 0 0 0 true false 7 1,
      .mmas .i8 (tok 0 0) 0 0 0 0 true false 1 7, .mepi .f32 (tok 0 0) 0 4 4].all
        (fun i => operandCause i == some 0x04 && !i.wf) = true := by decide +kernel

theorem test_wf_zero_fields :
    [Instr.aswap 0 0 0 0 1 0, .acas 0 0 0 0 1 0, .aadd 0 0 0 0 2 0, .aand 0 0 0 0 3 0, .aor 0 0 0 0 1 1, .axor 0 0 0 0 1 0,
      .amin 0 0 0 0 1 0, .amax 0 0 0 0 1 0, .aminu 0 0 0 0 1 0, .amaxu 0 0 0 0 1 0, .copy (tok 0 0) 0 0 0 true 1 0,
      .mma .i8 (tok 0 0) 0 1 0 false false 0 0, .mmas .i8 (tok 0 0) 0 1 0 0 false false 0 0, .qbeq 0 0 0, .qbne 0 0 512,
      .qbltu 0 0 0, .qloop 0 0].all (fun i => operandCause i == some 0x01 && !i.wf) = true := by decide +kernel

theorem test_wf_limits :
    [Instr.mma .i8 (tok 0 0) 0 0 1 false false 0 0, .mmas .i8 (tok 0 0) 0 0 0 2 false false 1 0, .pxmatch (tok 0 0) 0 0 0 17,
      .drain (tok 0 0) 0].all (fun i => operandCause i == some 0x06 && !i.wf) = true ∧
    ¬ (Instr.mma .i32 (tok 0 0) 0 0 0 true false 0 0).Wf ∧ ¬ (Instr.mmas .n8 (tok 0 0) 0 0 0 0 true false 0 0).Wf ∧
    ¬ (Instr.mepi .a40 (tok 0 0) 0 0 0).Wf := by decide +kernel

theorem test_wf_codes :
    [Instr.fence 3 0, .rcpanch 0 3, .rcpunanch 0 3, .copy (tok 0 0) 0 0 0 false 4 0, .copy (tok 0 0) 0 0 0 true 0 4,
      .copyl (tok 0 0) 0 0 3, .kvopen (tok 0 0) 0 0 0 3, .copyn (tok 0 0) 0 0 0 0 0 false 4, .tgather (tok 0 0) 0 0 0 false 5,
      .kvgather (tok 0 0) 0 0 0 false 6, .tscatter (tok 0 0) 0 0 0 false 7, .xfnc (tok 0 0) 0].all
        (fun i => operandCause i == some 0x0B && !i.wf) = true := by decide +kernel

theorem test_wf_jumps_and_events :
    ¬ (Instr.call 0 4).Wf ∧ ¬ (Instr.jmpr 0 4).Wf ∧ ¬ (Instr.callr 0 3 4).Wf ∧ ¬ (Instr.callr 3 0 4).Wf ∧
    ¬ (Instr.registerWrite 0 0 3 0).Wf ∧ ¬ (Instr.registerWrite 0 4 8 0).Wf ∧ ¬ (Instr.bar2WindowRead 0 0 3).Wf ∧
    (Instr.registerWrite 0 8 8 0).Wf ∧ (Instr.call 1 4).Wf := by decide +kernel

/-! ## Decoding: words from the spec's worked examples, and words laid out field by field from R81, R82 and R328 to R341 -/

/-- Every listed word is read as its instruction. -/
def reads (l : List (W32 × Instr)) : Bool :=
  l.all fun p => match decodeStream p.1 0 with
    | .ok i => i == p.2
    | .error _ => false

/-- Every listed pair of words is read as its command. -/
def reads2 (l : List (W32 × W32 × Instr)) : Bool :=
  l.all fun p => match decodeStream p.1 p.2.1 with
    | .ok i => i == p.2.2
    | .error _ => false

/-- Every listed word of a queue program is read as its instruction. -/
def readsQ (l : List (W32 × Instr)) : Bool :=
  l.all fun p => match decodeQ p.1 with
    | .ok i => i == p.2
    | .error _ => false

/-- Every listed pair of words is refused with its cause. -/
def refuses (l : List (W32 × W32 × BitVec 7)) : Bool :=
  l.all fun p => match decodeStream p.1 p.2.1 with
    | .ok _ => false
    | .error c => c == p.2.2

/-- Words printed in chapters 13 to 20. -/
theorem test_words_scalar_printed : reads [
    (0x40E5B040, .ldd 7 5 2 64), (0x28221FFD, .beq 1 2 0x1FFD), (0x8C50420E, .vfma 5 1 2 3 2),
    (0x04611000, .add 3 1 2), (0x06B55000, .add 21 21 10), (0x20442804, .cmpLtu 2 4 5), (0x44E53008, .std 7 5 0 8),
    (0x48642DC2, .aadd 3 4 5 2 3 1), (0x4C660800, .qstore 6 6 0 0), (0x4C181800, .qbpush 1), (0x50000100, .fence 0 2),
    (0x54600000, .sqpush 3), (0x54000002, .bar), (0x08E00205, .addi 7 0 517), (0x54270001, .enq 1 7),
    (0x2C201FFF, .bfs 1 0x1FFF), (0xB4000002, .step), (0x18621008, .shri 3 2 8), (0x0C630007, .andi 3 3 7),
    (0x2860200D, .bne 3 0 13), (0x40ADB000, .ldd 5 13 2 0), (0x50000300, .fence 1 2), (0x3C020000, .tkwait 2),
    (0x40C42000, .ldw 6 4 0 0), (0x4CA68900, .qstore 10 6 2 256), (0x08E7FFFF, .addi 7 7 0xFFFF)] = true := by decide +kernel

theorem test_words_vector_printed : reads [
    (0x9C100000, .qpopv 1 0), (0x84204100, .vadd .f32 2 1 1 0), (0x98200400, .vst 2 0 0 0 0),
    (0x8431050D, .vcmplt .f32 3 4 5 0), (0x8492002F, .vrsum .f32 9 8 2), (0x88310016, .vsqrt .f64 3 4 1),
    (0x90808C9D, .vcvt .f32 .e4m3 8 2 12), (0x94108320, .vperm .i32 1 2 3), (0x9491C0D1, .vbcstx .f32 9 7),
    (0x9461C513, .vcompress .i16 6 7 5), (0x94404208, .kandn 4 1 2), (0x9901B802, .vldc 16 3 3 0 2),
    (0x98A215FF, .vst 10 4 1 7 0x3F), (0x9C561000, .qpushv 5 6), (0x68205402, .vmul .i32 2 1 20 0),
    (0x6830C200, .vadd .i32 3 3 2 0)] = true := by decide +kernel

theorem test_words_system_printed : reads [
    (0xB0700210, .csrrd 7 0x21), (0xB000C001, .csrwr 3 0), (0xB4000050, .trap 5), (0xB4000001, .tret),
    (0xB4003F93, .brk 0x3F9), (0xB4030005, .pchkv 12), (0xBC024000, .capture 9), (0xBC324001, .restore 3 9),
    (0xBC024002, .brkx 9), (0xB8500004, .rcpanch 5 0), (0xB8100014, .rcpanch 1 1), (0xB8000230, .rcpdef 1 3),
    (0xB9400031, .rcpset 20 3)] = true := by decide +kernel

theorem test_words_engine_printed : reads2 [
    (0xC8400000, 0x50000000, .mwld (tok 2 0) 10), (0xC8600001, 0, .mswap (tok 3 0)),
    (0xCC800009, 0x5B0003C8, .mma .e4m3 (tok 4 0) 11 12 3 true true 1 0),
    (0xD4200000, 0x214C0000, .pxhash (tok 1 0) 4 5 6 false), (0xD4410001, 0x21CC0000, .pxmatch (tok 2 1) 4 7 6 0),
    (0xD8600000, 0x5A4C0001, .kvopen (tok 3 0) 11 9 6 1), (0xE0200000, 3, .xfnc (tok 1 0) 3),
    (0xC0400000, 0x5A0C0000, .copy (tok 2 0) 11 8 6 false 0 0)] = true := by decide +kernel

/-- R84's example program. -/
theorem test_words_queue_program_printed : readsQ [
    (0x40C0E000, .qld 3 0 1 3 0), (0x41006008, .qld 4 0 0 3 8), (0x60D00002, .qbeq 3 4 2), (0x84000001, .qdrop 1),
    (0x45406008, .qst 5 0 0 3 8), (0x259B0000, .qandi 6 6 0x30000), (0x21980102, .qaddi 6 6 258)] = true := by decide +kernel

/-- Major 0x01 (R328, R335). -/
theorem test_words_major_01 : reads [
    (0b000001_00011_00001_00010_00000_000001#32, .sub 3 1 2), (0b000001_00011_00001_00010_00000_000010#32, .and 3 1 2),
    (0b000001_00011_00001_00010_00000_000011#32, .or 3 1 2), (0b000001_00011_00001_00010_00000_000100#32, .xor 3 1 2),
    (0b000001_00011_00001_00010_00000_000101#32, .shl 3 1 2), (0b000001_00011_00001_00010_00000_000110#32, .shr 3 1 2),
    (0b000001_00011_00001_00010_00000_000111#32, .sra 3 1 2), (0b000001_00011_00001_00010_00000_001000#32, .mul 3 1 2),
    (0b000001_00011_00001_00010_00000_001001#32, .mulh 3 1 2), (0b000001_00011_00001_00010_00000_001010#32, .mulhu 3 1 2),
    (0b000001_00011_00001_00010_00000_001011#32, .div 3 1 2), (0b000001_00011_00001_00010_00000_001100#32, .divu 3 1 2),
    (0b000001_00011_00001_00010_00000_001101#32, .rem 3 1 2), (0b000001_00011_00001_00010_00000_001110#32, .remu 3 1 2),
    (0b000001_00011_00001_00010_00000_001111#32, .min 3 1 2), (0b000001_00011_00001_00010_00000_010000#32, .max 3 1 2),
    (0b000001_00011_00001_00010_00000_010001#32, .minu 3 1 2), (0b000001_00011_00001_00010_00000_010010#32, .maxu 3 1 2),
    (0b000001_00011_00001_00010_00000_010011#32, .seq 3 1 2), (0b000001_00011_00001_00010_00000_010100#32, .slt 3 1 2),
    (0b000001_00011_00001_00010_00000_010101#32, .sltu 3 1 2), (0b000001_00011_00001_00000_00000_010110#32, .clz 3 1),
    (0b000001_00011_00001_00000_00000_010111#32, .ctz 3 1), (0b000001_00011_00001_00000_00000_011000#32, .popc 3 1),
    (0b000001_00011_00001_00010_00100_011001#32, .sel 3 1 2 4)] = true := by decide +kernel

/-- Majors 0x04 to 0x0F (R335, R336). -/
theorem test_words_majors_04_to_0F : reads [
    (0b000100_00011_00001_1000000000000001#32, .ori 3 1 0x8001), (0b000101_00011_00001_1000000000000001#32, .xori 3 1 0x8001),
    (0b000110_00011_00001_0000_000000_111111#32, .shli 3 1 63), (0b000110_00011_00001_0010_000000_000101#32, .srai 3 1 5),
    (0b000111_00011_00010_1000000000000001#32, .movk 3 0x8001 2), (0b001000_00111_00001_00010_00000_000000#32, .cmpEq 7 1 2),
    (0b001000_00111_00001_00010_00000_000001#32, .cmpNe 7 1 2), (0b001000_00111_00001_00010_00000_000010#32, .cmpLt 7 1 2),
    (0b001000_00111_00001_00010_00000_000011#32, .cmpGe 7 1 2), (0b001000_00111_00001_00010_00000_000101#32, .cmpGeu 7 1 2),
    (0b001000_00111_00001_00010_00000_000110#32, .fand 7 1 2), (0b001000_00111_00001_00010_00000_000111#32, .for_ 7 1 2),
    (0b001000_00111_00001_00010_00000_001000#32, .fxor 7 1 2), (0b001000_11111_00001_00000_00000_001001#32, .fget 31 1),
    (0b001000_00111_11111_00000_00000_001010#32, .fput 7 31), (0b001010_00001_00010_010_1111111111101#32, .blt 1 2 0x1FFD),
    (0b001010_00001_00010_011_0000000000101#32, .bge 1 2 5), (0b001010_00001_00010_100_0000000000101#32, .bltu 1 2 5),
    (0b001010_00001_00010_101_0000000000101#32, .bgeu 1 2 5), (0b001011_00011_00000_001_0000000000101#32, .bfc 3 5),
    (0b001100_00000_00000_000_0000000000101#32, .bqs 5), (0b001100_00000_00000_001_0000000000101#32, .bqc 5),
    (0b001101_00000_00000_1111111111111110#32, .jmp 0xFFFE), (0b001101_00011_00000_0000000000000111#32, .call 3 7),
    (0b001101_00000_00100_0000000000000111#32, .jmpr 4 7), (0b001101_00011_00100_0000000000000111#32, .callr 3 4 7),
    (0b001111_00011_00101_00000_00000_000001#32, .tktest 3 5), (0b001111_00011_00101_00000_00000_000010#32, .tkcnt 3 5)]
    = true := by decide +kernel

/-- Majors 0x10 to 0x13 (R329, R335, R337). -/
theorem test_words_majors_10_to_13 : reads [
    (0b010000_00011_00100_01_00_0_11111111111#32, .ldb 3 4 1 0x7FF), (0b010000_00011_00100_01_01_0_00000000010#32, .ldh 3 4 1 2),
    (0b010000_00011_00100_10_00_1_00000000011#32, .ldbs 3 4 2 3), (0b010000_00011_00100_10_01_1_00000000011#32, .ldhs 3 4 2 3),
    (0b010000_00011_00100_11_10_1_00000000011#32, .ldws 3 4 3 3), (0b010001_00011_00100_01_00_0_00000000011#32, .stb 3 4 1 3),
    (0b010001_00011_00100_01_01_0_00000000011#32, .sth 3 4 1 3), (0b010001_00011_00100_01_10_0_00000000011#32, .stw 3 4 1 3),
    (0b010010_00011_00100_00101_00_00_0_000000#32, .aswap 3 4 5 0 0 0), (0b010010_00011_00100_00101_01_10_1_000001#32, .acas 3 4 5 1 2 1),
    (0b010010_00011_00100_00101_10_01_0_000011#32, .aand 3 4 5 2 1 0), (0b010010_00011_00100_00101_11_11_1_000100#32, .aor 3 4 5 3 3 1),
    (0b010010_00011_00100_00101_01_01_0_000101#32, .axor 3 4 5 1 1 0), (0b010010_00011_00100_00101_01_01_0_000110#32, .amin 3 4 5 1 1 0),
    (0b010010_00011_00100_00101_01_01_0_000111#32, .amax 3 4 5 1 1 0), (0b010010_00011_00100_00101_01_01_0_001000#32, .aminu 3 4 5 1 1 0),
    (0b010010_00011_00100_00101_01_01_0_001001#32, .amaxu 3 4 5 1 1 0), (0b010011_000110_0101_10_000_00000000011#32, .qfill 6 5 2 3),
    (0b010011_000110_0111_00_010_00000000000#32, .qpopa 6 7)] = true := by decide +kernel

/-- Majors 0x18 to 0x22 and 0x26, 0x27 (R330, R337 to R339). -/
theorem test_words_majors_18_to_27 : reads [
    (0b011000_000011_000001_000010_0100_0001#32, .vsub .i8 3 1 2 4), (0b011001_000011_000001_000010_0100_0010#32, .vmul .i16 3 1 2 4),
    (0b011011_000011_000001_000010_0100_0011#32, .vmin .i64 3 1 2 4), (0b011100_000011_000001_000010_0100_0100#32, .vmax .n8 3 1 2 4),
    (0b011101_000011_000001_000010_0100_0101#32, .vand .n16 3 1 2 4), (0b011110_000011_000001_000010_0100_0110#32, .vor .n32 3 1 2 4),
    (0b011010_000011_000001_000010_0100_0111#32, .vxor .i32 3 1 2 4), (0b011111_000011_000001_000010_0100_0101#32, .vdiv .f16 3 1 2 4),
    (0b100000_000011_000001_000010_0100_0111#32, .vmac .bf16 3 1 2 4), (0b011010_000011_000001_000010_0100_1000#32, .vshl .i32 3 1 2 4),
    (0b011010_000011_000001_000010_0100_1001#32, .vshr .i32 3 1 2 4), (0b011010_000011_000001_000010_0100_1010#32, .vadds .i32 3 1 2 4),
    (0b011010_000011_000001_000010_0100_1011#32, .vsubs .i32 3 1 2 4), (0b100010_001111_000001_000010_0100_1100#32, .vcmpeq .f64 15 1 2 4),
    (0b011010_001111_000001_000010_0100_1110#32, .vcmple .i32 15 1 2 4), (0b011010_000011_000001_000001_0100_1111#32, .vrmin .i32 3 1 4),
    (0b011010_000011_000001_000010_0100_1111#32, .vrmax .i32 3 1 4), (0b100001_000011_000001_000011_0100_1111#32, .vrsumc .f32 3 1 4),
    (0b100110_000011_00100_010_0_0_0101_111111#32, .vld 3 4 2 5 0x3F), (0b100110_000011_00100_010_1_1_0101_000001#32, .vstc 3 4 2 5 1),
    (0b100111_000011_0101_00_001_00000000000#32, .qpopx 3 5), (0b100111_000011_0111_00_011_00000000000#32, .qpushx 3 7)]
    = true := by decide +kernel

/-- Majors 0x25, 0x28 and 0x29 (R339). -/
theorem test_words_majors_25_28_29 : reads [
    (0b100101_000011_000001_000100_1100_0010#32, .vbcste .bf16 3 1 4), (0b100101_000011_000001_000100_1110_0100#32, .vexpand .f64 3 1 4),
    (0b100101_000011_000001_000100_0000_0101#32, .kand 3 1 4), (0b100101_000011_000001_000100_0000_0110#32, .kor 3 1 4),
    (0b100101_000011_000001_000100_0000_0111#32, .kxor 3 1 4), (0b100101_000011_000001_000000_0000_1001#32, .knot 3 1),
    (0b100101_000011_000001_000000_0000_1010#32, .kmovx 3 1), (0b100101_000011_000001_000000_0000_1011#32, .xmovk 3 1),
    (0b100101_111111_100001_000000_0110_1100#32, .vmov 63 33 6), (0b101000_000000_000111_000000_1111_0000#32, .zclr 7 0xF),
    (0b101000_000011_000111_011111_0000_0001#32, .zrd 3 7 31), (0b101000_000011_000111_011111_1110_0010#32, .zwr 3 7 31 0xE),
    (0b101000_000000_000111_000000_0011_0011#32, .zcvt 7 3), (0b101001_00000_00101_00000_00000_000000#32, .mcfgwr 5),
    (0b101001_00101_00000_00000_00000_000001#32, .mcfgrd 5)] = true := by decide +kernel

/-- Majors 0x2C to 0x2E (R331, R340). -/
theorem test_words_majors_2C_to_2E : reads [
    (0b101100_000000_000011_0000000101_0010#32, .csrset 3 5), (0b101100_000000_000011_0000000101_0011#32, .csrclr 3 5),
    (0b101101_000000_000011_0000000000_0100#32, .pchks 3), (0b101101_000000_000011_0000000000_0110#32, .pchkz 3),
    (0b101110_000111_000000_0000000000_0010#32, .rcpdrop 7), (0b101110_000000_000000_0000000011_0011#32, .rcpclr 3),
    (0b101110_000111_000000_0000000010_0101#32, .rcpunanch 7 2)] = true := by decide +kernel

/-- Majors 0x30 to 0x38 (R331, R341, R412, R434 to R447). -/
theorem test_words_majors_30_to_34 : reads2 [
    (0b110000_00011_00001_00000_00000_000000#32, 0b00100_00101_00110_0000000000_1_000_010#32, .copy (tok 3 1) 4 5 6 true 0 2),
    (0b110000_00011_00001_00000_00000_000001#32, 0b00100_00101_00000_000000000000000_10#32, .copyl (tok 3 1) 4 5 2),
    (0b110000_00011_00001_00000_00000_000010#32, 0b00100_00101_00110_1000000_100000_1_001#32, .copyn (tok 3 1) 4 5 6 64 32 true 1),
    (0b110000_00011_00001_00000_00000_000011#32, 0b00100_00101_00110_00000000000000000#32, .ovla (tok 3 1) 4 5 6),
    (0b110000_00011_00001_00000_00000_000100#32, 0b00100_00101_00110_00000000000000000#32, .ovlx (tok 3 1) 4 5 6),
    (0b110001_00011_00001_00000_00000_000000#32, 0b00100_00101_00110_0000000000000_1_010#32, .tgather (tok 3 1) 4 5 6 true 2),
    (0b110001_00011_00001_00000_00000_000001#32, 0b00100_00101_00110_0000000000000_0_011#32, .kvgather (tok 3 1) 4 5 6 false 3),
    (0b110001_00011_00001_00000_00000_000010#32, 0b00100_00101_00110_0000000000000_1_001#32, .tscatter (tok 3 1) 4 5 6 true 1),
    (0b110011_00011_00001_00000_00000_01_1101#32, 0b00100_00101_00110_000000011_1_0_011_001#32,
      .mmas .f32 (tok 3 1) 4 5 6 3 true false 3 1),
    (0b110011_00011_00001_00000_00000_10_1100#32, 0b00100_00000_00000_00000000000_011_001#32, .mepi .bf16 (tok 3 1) 4 3 1),
    (0b110100_00011_00001_00000_00000_000000#32, 0b00100_00101_00110_00000000000000000#32, .collred (tok 3 1) 4 5 6),
    (0b110100_00011_00001_00000_00000_000001#32, 0b00100_00101_00110_00000000000000000#32, .collgath (tok 3 1) 4 5 6),
    (0b110100_00011_00001_00000_00000_000010#32, 0b00100_00101_00110_00000000000000000#32, .collbcast (tok 3 1) 4 5 6),
    (0b110100_00011_00001_00000_00000_000011#32, 0b00100_00101_00110_00000000000000000#32, .colla2a (tok 3 1) 4 5 6),
    (0b110100_00011_00001_00000_00000_000100#32, 0b00000_00101_00110_00000000000000000#32, .collsend (tok 3 1) 5 6),
    (0b110100_00011_00001_00000_00000_000101#32, 0b00100_00000_00110_00000000000000000#32, .collrecv (tok 3 1) 4 6)]
    = true := by decide +kernel

theorem test_words_majors_35_to_38 : reads2 [
    (0b110101_00011_00001_00000_00000_000010#32, 0b00100_00101_00110_00000000000000000#32, .pxpath (tok 3 1) 4 5 6),
    (0b110110_00011_00001_00000_00000_000001#32, 0b00100_00101_00110_00000000000000000#32, .kvseal (tok 3 1) 4 5 6),
    (0b110110_00011_00001_00000_00000_000010#32, 0b00100_00101_00110_00000000000000000#32, .kvfork (tok 3 1) 4 5 6),
    (0b110110_00011_00001_00000_00000_000011#32, 0b00100_00101_00110_00000000000000_101#32, .kvlease (tok 3 1) 4 5 6 5),
    (0b110110_00011_00001_00000_00000_000100#32, 0b00100_00101_00000_00000000000000000#32, .kvrelease (tok 3 1) 4 5),
    (0b110111_00011_00001_00000_00000_000000#32, 0b00100_00101_00000_0000000000000000_1#32, .rseal (tok 3 1) 4 5 true),
    (0b110111_00011_00001_00000_00000_000001#32, 0b00100_00101_00000_0000000000000000_0#32, .runseal (tok 3 1) 4 5 false),
    (0b111000_00011_00001_00000_00000_000001#32, 0b00000_00000_00000_000000000000_10001#32, .drain (tok 3 1) 17)]
    = true := by decide +kernel

/-- Queue programs (R81, R82). -/
theorem test_words_queue_programs : readsQ [
    (0b000001_0001_0010_0011_00000000000000#32, .qadd 1 2 3), (0b000010_0001_0010_0011_00000000000000#32, .qsub 1 2 3),
    (0b000011_0001_0010_0011_00000000000000#32, .qand 1 2 3), (0b000100_0001_0010_0011_00000000000000#32, .qor 1 2 3),
    (0b000101_0001_0010_0011_00000000000000#32, .qxor 1 2 3), (0b000110_0001_0010_0011_00000000000000#32, .qshl 1 2 3),
    (0b000111_0001_0010_0011_00000000000000#32, .qshr 1 2 3), (0b001010_0001_0010_000000000000000101#32, .qori 1 2 5),
    (0b001011_0001_0010_000000000000_100101#32, .qshli 1 2 37), (0b001100_0001_0010_000000000000_100101#32, .qshri 1 2 37),
    (0b001101_0001_0000_111111111111111111#32, .qmovi 1 0x3FFFF), (0b011001_0001_0010_000000000000000101#32, .qbne 1 2 5),
    (0b011010_0001_0010_000000000000000101#32, .qbltu 1 2 5), (0b011100_111111_00000000000_000000011#32, .qloop 63 3),
    (0b100000_0000_0000_000000000000000000#32, .qdisp)] = true := by decide +kernel

/-- Words that no map defines, or whose fields fail a check, each with the cause of R332. -/
theorem test_words_refused : refuses [
    (0, 0, 0x00), (0xFC000000, 0, 0x00), (0xE4000000, 0, 0x00), (0b000001_00011_00001_00010_00000_011010#32, 0, 0x00),
    (0b000001_00011_00001_00010_00001_000000#32, 0, 0x01), (0b001010_00001_00010_110_0000000000101#32, 0, 0x00),
    (0b010000_00011_00100_01_11_1_00000000000#32, 0, 0x00), (0b010011_000110_0110_00_000_00000000000#32, 0, 0x04),
    (0b100100_000011_000001_000000_1101_1101#32, 0, 0x05), (0b101000_000000_000111_000000_0001_0000#32, 0, 0x05),
    (0b111000_00000_00000_00000_00000_000001#32, 0, 0x06), (0b010100_00000_00000_00000_11_00_0_000000#32, 0, 0x0B)]
    = true := by decide +kernel

/-! ## One step each, with results worked out from the spec -/

/-- Tile 3 when every write of the step has landed. -/
def landed (o : Host.Outcome State Fault Refusal) : Tile := { tile3 o with xcyc := (tile3 o).xcyc + 64 }.commit
/-- 32-bit lane `l` of vector register `r`. -/
def lane (t : Tile) (r : V6) (l : Nat) : Nat := ((vget t.v VName.reset r).val.toNat >>> (32 * l)) % 2 ^ 32
/-- A tile whose vector names are LIVE and whose `v2`, `v12` and FCTL hold given values. -/
def vecs (a b : Vec) (fctl : BitVec 3) : Tile :=
  { tl 1 with v := vset (vset (Vector.replicate 64 { VName.reset with st := .live }) (2 : V6) { VName.reset with st := .live, val := a }) (12 : V6) { VName.reset with st := .live, val := b }
              fctl := fctl }

/-- R353: 7 + (2^64 - 3) wraps to 4, unpoisoned. -/
theorem test_add_wraps : scalar (tile3 (exec (.add 3 1 2) (sa (tl 1)))) .a 3 = (4, false) := by decide
/-- R353: the high half of 7 × (-3), signed and unsigned. -/
theorem test_mulh_signs : (scalar (tile3 (exec (.mulh 3 1 2) (sa (tl 1)))) .a 3).1 = 0xFFFFFFFFFFFFFFFF ∧
    (scalar (tile3 (exec (.mulhu 3 1 2) (sa (tl 1)))) .a 3).1 = 6 := by decide
/-- R353, R354: `DIV` truncates toward zero: -3 / 7 is 0 and -3 rem 7 is -3; a divisor of 0 gives all ones and the dividend. -/
theorem test_div_and_rem : (scalar (tile3 (exec (.div 3 2 1) (sa (tl 1)))) .a 3).1 = 0 ∧
    (scalar (tile3 (exec (.rem 3 2 1) (sa (tl 1)))) .a 3).1 = 0xFFFFFFFFFFFFFFFD ∧
    (scalar (tile3 (exec (.div 3 1 0) (sa (tl 1)))) .a 3).1 = 0xFFFFFFFFFFFFFFFF ∧
    (scalar (tile3 (exec (.rem 3 1 0) (sa (tl 1)))) .a 3).1 = 7 := by decide
/-- R355: a source that is also the destination, and a shift of 63. -/
theorem test_shift_in_place : (scalar (tile3 (exec (.srai 2 2 63) (sa (tl 1)))) .a 2).1 = 0xFFFFFFFFFFFFFFFF ∧
    (scalar (tile3 (exec (.shli 1 1 63) (sa (tl 1)))) .a 1).1 = 0x8000000000000000 := by decide
/-- R356, R156: `MOVK` writes one part and keeps the others; register 0 keeps 0. -/
theorem test_movk_keeps_the_rest : (scalar (tile3 (exec (.movk 2 0x1234 1) (sa (tl 1)))) .a 2).1 = 0xFFFFFFFF1234FFFD ∧
    (scalar (tile3 (exec (.movk 0 0x1234 0) (sa (tl 1)))) .a 0).1 = 0 := by decide
/-- R341: a `BEQ` issued at index 1 with displacement -3 goes to word 16,382. -/
theorem test_beq_wraps_the_pc : (tile3 (exec (.beq 0 0 0x1FFD) (sa { tl 1 with apc := 1 }))).apc = 16382 := by decide
/-- R336, R325: a call links the index after it, and the X-stream's link wraps from word 16,383. -/
theorem test_call_links : (scalar (landed (exec (.call 5 4) (sx (tl 1)))) .x 5).1 = 0 ∧
    (tile3 (exec (.call 5 4) (sx (tl 1)))).xpc = 3 := by decide
/-- The worked example after R393: 4 × 2^-1, a quiet NaN, a flushed 2^-136 with UF and NX, and -3.5 × 2^2. -/
def dequantised : Tile :=
  landed (exec (.vcvt .f32 .e4m3 8 2 12) (sx (vecs (0x48 + 0x7F * 2 ^ 8 + 0x01 * 2 ^ 320 + 0xC6 * 2 ^ 1600) (0x7E + 0x81 * 2 ^ 48) 4)))
theorem test_vcvt_worked_example : lane dequantised 8 0 = 0x40000000 ∧ lane dequantised 8 1 = 0x7FC00000 ∧
    lane dequantised 9 8 = 0 ∧ lane dequantised 11 8 = 0xC1600000 ∧
    dequantised.fstat = 0b000011 := by decide +kernel
/-- The sum of the recipe example (chapter 18): 2.5 + 2.5 is 5.0; and 2^24 + 1 rounds to even (R275). -/
theorem test_vadd_rounds : lane (landed (exec (.vadd .f32 21 2 12 0) (sx (vecs (0x40200000 + 0x4B800000 * 2 ^ 32) (0x40200000 + 0x3F800000 * 2 ^ 32) 0)))) 21 0 = 0x40A00000 ∧
    lane (landed (exec (.vadd .f32 21 2 12 0) (sx (vecs (0x40200000 + 0x4B800000 * 2 ^ 32) (0x40200000 + 0x3F800000 * 2 ^ 32) 0)))) 21 1 = 0x4B800000 := by
  decide +kernel
/-- R385: saturating and wrapping sums of 2^31 - 1 and 1. -/
theorem test_vadds_saturates : lane (landed (exec (.vadds .i32 21 2 12 0) (sx (vecs 0x7FFFFFFF 1 0)))) 21 0 = 0x7FFFFFFF ∧
    lane (landed (exec (.vadd .i32 21 2 12 0) (sx (vecs 0x7FFFFFFF 1 0)))) 21 0 = 0x80000000 := by decide +kernel
/-- R292, R459: `TRAP 5` at word 9 with a handler at word 100 saves its own index and its code, and enters the handler. -/
theorem test_trap_enters_the_handler :
    (tile3 (exec (.trap 5) (sa { tl 1 with apc := 9, acsr := { StreamCsr.reset with tvec := 100 } }))).apc = 100 ∧
    (tile3 (exec (.trap 5) (sa { tl 1 with apc := 9, acsr := { StreamCsr.reset with tvec := 100 } }))).acsr.tin = true ∧
    (tile3 (exec (.trap 5) (sa { tl 1 with apc := 9, acsr := { StreamCsr.reset with tvec := 100 } }))).acsr.tepc = 9 ∧
    (tile3 (exec (.trap 5) (sa { tl 1 with apc := 9, acsr := { StreamCsr.reset with tvec := 100 } }))).acsr.code = 5 := by decide
/-- R332: `CAPTURE` in context 1 is not executed; its trap enters the handler at word 100. -/
theorem test_privilege : (tile3 (exec (.capture 1) (sa { tl 1 with apc := 9, acsr := { StreamCsr.reset with tvec := 100 } }))).apc = 100 := by
  decide
/-- R37, R38: in class 1 a vector add enters the handler and keeps its destination; a scalar add runs. -/
theorem test_vadd_needs_class_two :
    (tile3 (exec (.vadd .i32 1 1 1 0) (sx { tl 1 with sclass := 1, xpc := 9, xcsr := { StreamCsr.reset with tvec := 100 } }))).xpc = 100 ∧
    (tile3 (exec (.addi 1 1 1) (sx { tl 1 with sclass := 1, xpc := 9, xcsr := { StreamCsr.reset with tvec := 100 } }))).xpc = 10 := by decide
/-- R162: `QPOPA` takes the oldest entry. -/
theorem test_queue_order : (vget (tile3 (exec (.qpopa 4 6) (sa queued))).q [] (6 : BitVec 4)).length = 0 ∧
    (scalar (tile3 (exec (.qpopa 4 6) (sa queued))) .a 4).1 = 5 := by decide

end Sys2Proof.Tests
end

section
/-! PROOFS. Package, links and power (chapter 01): reset, device memory and the board's registers, the peer ports, and the captures
that make room for a held Sluice request. -/

namespace Sys2Proof.Machine

/-! ## Vectors by a bit-vector index -/

theorem vget_replicate {α : Type} {n w : Nat} (x d : α) (i : BitVec w) (h : i.toNat < n) : vget (Vector.replicate n x) d i = x := by
  simp only [vget, List.getD, Vector.toList_replicate, List.getElem?_replicate, if_pos h, Option.getD_some]

/-! ## Reset -/

/-- Settles O59: the tables of reset are empty, and its classes and index registers are copies of one value. -/
theorem resetLeavesTheStatedValues : Obligations.ResetLeavesTheStatedValues := by
  unfold Obligations.ResetLeavesTheStatedValues
  have tenants (c : BitVec 6) : (State.reset.tenant c).active = true :=
    congrArg Tenant.active (vget_replicate Tenant.reset Tenant.reset c c.isLt)
  have logs (d : BitVec 2) : vget State.reset.idxLog 0 d = 0 := vget_replicate 0 0 d d.isLt
  exact ⟨rfl, rfl, rfl, fun _ => rfl, fun _ => ⟨rfl, rfl, rfl, rfl, rfl, rfl, rfl⟩, tenants, logs, rfl, rfl, rfl⟩

/-! ## HBM -/

theorem rsErrors_zero : rsErrors ((0 : BitVec 128) ++ (0 : BitVec 512)) = [] := by
  simp [rsErrors]

/-- A line that is read without a symbol error. -/
theorem decodeLine_clean (s : State) (pa : Nat) : s.decodeLine pa ((0 : BitVec 128) ++ (0 : BitVec 512)) = s := by
  unfold State.decodeLine
  simp only [rsErrors_zero, List.length_nil, if_true]

theorem decodeLine_corrected (s : State) (pa : Nat) {err : BitVec 640} (h1 : 1 ≤ (rsErrors err).length)
    (h4 : (rsErrors err).length ≤ 4) :
    s.decodeLine pa err = (let c := vget s.corrected (0, 0) (stackOf pa)
      { s with corrected := vset s.corrected (stackOf pa) (c.1 + 1, c.2 + 1) }) := by
  unfold State.decodeLine
  simp only [Nat.ne_of_gt h1, h4, if_true, if_false]

theorem decodeLine_uncorrectable (s : State) (pa : Nat) {err : BitVec 640} (h5 : 5 ≤ (rsErrors err).length)
    (h12 : (rsErrors err).length ≤ 12) :
    s.decodeLine pa err = (s.poisonLine (pa / 64)).raiseErr (deferredRec pa (rsErrors err).length (rsGroups err)) := by
  have h0 : (rsErrors err).length ≠ 0 := by omega
  have h4 : ¬ (rsErrors err).length ≤ 4 := by omega
  unfold State.decodeLine
  simp only [h0, h4, h12, if_true, if_false]

/-- INFO of an uncorrectable line (R480): the count of symbols above the 20 pin groups. -/
theorem deferredInfo_eq {n : Nat} (h : n ≤ 12) (g : BitVec 20) :
    ((BitVec.ofNat 7 (if 12 < n then 127 else n)) ++ g).setWidth 64 = BitVec.ofNat 64 (n * 2 ^ 20 + g.toNat) := by
  apply BitVec.eq_of_toNat_eq
  have hn : n % 2 ^ 7 = n := Nat.mod_eq_of_lt (by omega)
  rw [if_neg (Nat.not_lt.mpr h), BitVec.toNat_setWidth, BitVec.toNat_append, BitVec.toNat_ofNat, BitVec.toNat_ofNat, hn,
    ← Nat.shiftLeft_add_eq_or_of_lt g.isLt, Nat.shiftLeft_eq]

/-- HBM_LINE_READ of a line of HBM is the decoder's outcome on that line (R16). -/
theorem hbmLineRead_decodes (s : State) {pa : BitVec 48} (de : BitVec 512) (ce : BitVec 128) (h : pa.toNat < 2 ^ 39) :
    exec (.hbmLineRead pa de ce) s = .next (s.decodeLine (64 * (pa.toNat / 64)) (ce ++ de)) := by
  show Host.Outcome.next (if pa.toNat < 2 ^ 39 then s.decodeLine (pa.toNat / 64 * 64) (ce ++ de) else s) = _
  rw [if_pos h, Nat.mul_comm]

theorem hbmLineRead_clean (s : State) (pa : BitVec 48) : exec (.hbmLineRead pa 0 0) s = .next s := by
  show Host.Outcome.next (if pa.toNat < 2 ^ 39 then s.decodeLine (pa.toNat / 64 * 64) ((0 : BitVec 128) ++ (0 : BitVec 512)) else s) = _
  rw [decodeLine_clean, ite_self]

theorem hbmLineRead_uncorrectable (s : State) {pa : BitVec 48} {de : BitVec 512} {ce : BitVec 128} (h : pa.toNat < 2 ^ 39)
    (h5 : 5 ≤ (rsErrors (ce ++ de)).length) (h12 : (rsErrors (ce ++ de)).length ≤ 12) :
    exec (.hbmLineRead pa de ce) s = .next ((s.poisonLine (pa.toNat / 64)).raiseErr
      { addr := BitVec.ofNat 64 (64 * (pa.toNat / 64))
        info := BitVec.ofNat 64 ((rsErrors (ce ++ de)).length * 2 ^ 20 + (rsGroups (ce ++ de)).toNat)
        srcId := (stackOf (64 * (pa.toNat / 64))).setWidth 16, srcKind := 5, sev := 1, aKind := 1 }) := by
  rw [hbmLineRead_decodes s de ce h, decodeLine_uncorrectable s _ h5 h12, Nat.mul_div_cancel_left _ (by decide),
    deferredRec, deferredInfo_eq h12]

/-- PARTIAL_LINE_MERGE of part of a line of HBM that is read without error (R314). -/
theorem partialLineMerge_clean (s : State) {pa : BitVec 48} {m : BitVec 64} (v : BitVec 512) (h : pa.toNat < 2 ^ 39) (h0 : m ≠ 0)
    (h1 : m ≠ BitVec.allOnes 64) :
    exec (.partialLineMerge pa m v false 0 0) s = .next (let line := pa.toNat / 64
      { s with mem := Mem.puts s.mem (64 * line) (lineBytes (mergeLine m v (lineVal (s.rdBytes (64 * line) 64)))) }) := by
  have hm : paMapped pa.toNat = true := by simp only [paMapped, h, decide_true, Bool.true_or]
  show execPartialLineMerge pa m v false 0 0 s = _
  simp only [execPartialLineMerge, event, hm, h0, h1, h, Bool.not_true, Bool.or_false, decide_false, if_true,
    Bool.false_eq_true, if_false]
  rw [decodeLine_clean]

/-! ## Patrol scrub -/

theorem patrolScrub_advances (s : State) (k : BitVec 3) (h : (vget s.scrubLine 0 k).toNat < 1023) :
    exec (.patrolScrub k 0 0) s = .next { s with scrubLine := vset s.scrubLine k (vget s.scrubLine 0 k + 1) } := by
  show execPatrolScrub k 0 0 s = _
  have hl : (vget s.scrubLine 0 k).toNat + 1 < 1024 := by omega
  simp only [execPatrolScrub, event]
  rw [decodeLine_clean, if_pos hl]

theorem patrolScrub_wraps (s : State) (k : BitVec 3) (h : (vget s.scrubLine 0 k).toNat = 1023)
    (hp : vget s.scrubPos 0 k = BitVec.allOnes 20) :
    exec (.patrolScrub k 0 0) s = .next { s with
      scrubLine := vset s.scrubLine k 0, scrubPos := vset s.scrubPos k 0, scrubPass := vset s.scrubPass k (vget s.scrubPass 0 k + 1) } := by
  show execPatrolScrub k 0 0 s = _
  have hl : ¬ (vget s.scrubLine 0 k).toNat + 1 < 1024 := by omega
  simp only [execPatrolScrub, event]
  rw [decodeLine_clean, if_neg hl, if_pos hp, hp]
  rfl

/-! ## CXL -/

theorem cxlReadComplete_fails (s : State) {pa : BitVec 48} {a b : Bool} (hab : a = true ∨ b = true) (hlo : 2 ^ 47 ≤ pa.toNat)
    (hm : paMapped pa.toNat = true) :
    exec (.cxlReadComplete pa a b) s = .next ((s.poisonLine (pa.toNat / 64)).raiseErr
      { addr := BitVec.ofNat 64 (64 * (pa.toNat / 64)), srcId := BitVec.ofNat 16 ((pa.toNat - 2 ^ 47) / 2 ^ 44), srcKind := 6, sev := 1, aKind := 1 }) := by
  have hor : (a || b) = true := by simpa using hab
  show execCxlReadComplete pa a b s = _
  simp only [execCxlReadComplete, event, hm, hor, Nat.not_lt.mpr hlo, decide_false, Bool.not_true, Bool.or_false, Bool.false_eq_true, if_false]
  rw [Nat.mul_comm]

theorem cxlReadComplete_good (s : State) (pa : BitVec 48) : exec (.cxlReadComplete pa false false) s = .next s := by
  show execCxlReadComplete pa false false s = _
  simp only [execCxlReadComplete, event, Bool.or_false, Bool.not_false, Bool.or_true, if_true]

theorem cxlPortTrain_direct (s : State) (p : BitVec 2) {w r : Nat} (hw : w ∈ [16, 8, 4]) (hr : r ∈ [64, 32]) :
    exec (.cxlPortTrain p .type3Direct w r) s = .next { s with
      cxl := vset s.cxl p { vget s.cxl Cxl.reset p with trained := true, switched := false, width := w, rate := r } } := by
  have hc : ([16, 8, 4].contains w && [64, 32].contains r) = true := by simp [hw, hr]
  show execCxlPortTrain p .type3Direct w r s = _
  simp only [execCxlPortTrain, event, hc, Bool.not_true, Bool.false_eq_true, if_false]
  rfl

theorem cxlExtentAdded_fits (s : State) {p : BitVec 2} {b z : Nat} (ht : (vget s.cxl Cxl.reset p).trained = true) (h1 : b + z ≤ 2 ^ 42)
    (h2 : (vget s.cxl Cxl.reset p).capacity + z ≤ 2 ^ 42) (h3 : s.cxlCapacity + z ≤ 2 ^ 43) :
    exec (.cxlExtentAdded p b z) s = .next (let x := vget s.cxl Cxl.reset p
      { s with cxl := vset s.cxl p { x with extents := x.extents ++ [(b, z)] }, out := .extent p b z :: s.out }) := by
  show execCxlExtentAdded p b z s = _
  simp only [execCxlExtentAdded, State.cxlPort, event, ht, Nat.not_lt.mpr h1, Nat.not_lt.mpr h2, Nat.not_lt.mpr h3, decide_false,
    Bool.not_true, Bool.or_false, Bool.false_eq_true, if_false]
  rfl

/-! ## BAR2 -/

/-- A function's window is open, its address is canonical, and its context is one that it may name (R23). -/
def State.WindowOpen (s : State) (fn : BitVec 8) (off : BitVec 30) : Prop :=
  s.recovery = false ∧ (s.fn fn).w2en = true ∧ ((s.fn fn).w2va ++ off : W64).extractLsb' 55 9 = 0 ∧
    (if fn = 0 then (s.fn fn).w2ctx = 0 else s.fnNames fn (s.fn fn).w2ctx = true)

theorem windowAt_open {s : State} {fn : BitVec 8} {off : BitVec 30} (h : s.WindowOpen fn off) :
    s.windowAt fn off = some ((s.fn fn).w2ctx, (s.fn fn).w2va ++ off) := by
  obtain ⟨hr, he, hv, hc⟩ := h
  have hc' : (if fn = 0 then (s.fn fn).w2ctx == 0 else s.fnNames fn (s.fn fn).w2ctx) = true := by
    split at hc <;> simp_all
  simp only [State.windowAt, hr, he, hv, hc', Bool.not_true, Bool.or_false, bne_self_eq_false, Bool.false_eq_true, if_false, if_true]

theorem windowAt_shut {s : State} {fn : BitVec 8} {off : BitVec 30} (h : ¬ s.WindowOpen fn off) : s.windowAt fn off = none := by
  unfold State.windowAt
  dsimp only
  split
  · rfl
  · rename_i hf
    refine if_neg fun hc => h ?_
    simp only [Bool.or_eq_true, Bool.not_eq_true', bne_iff_ne, not_or, not_not, Bool.not_eq_false, Bool.not_eq_true] at hf
    obtain ⟨⟨he, hr⟩, hv⟩ := hf
    refine ⟨hr, he, hv, ?_⟩
    split at hc <;> simp_all

/-- An access through the window that reaches nothing, or fails a check, reads all ones and leaves a record (R23). -/
theorem bar2WindowRead_fails {s : State} {fn : BitVec 8} {off : BitVec 30} (z : Nat)
    (h : ¬ s.WindowOpen fn off ∨ s.ncRead (s.fn fn).w2ctx ((s.fn fn).w2va ++ off) z = none) :
    exec (.bar2WindowRead fn off z) s = .next ((s.windowFail fn off 3).emit (.bar2 fn (List.replicate z 0xFF))) := by
  have hn : ((s.windowAt fn off).bind fun x => s.ncRead x.1 x.2 z) = none := by
    by_cases ho : s.WindowOpen fn off
    · rw [windowAt_open ho]
      exact h.resolve_left (not_not_intro ho)
    · rw [windowAt_shut ho, Option.bind_none]
  show execBar2WindowRead fn off z s = _
  simp only [execBar2WindowRead, event, hn]

theorem bar2WindowRead_clean {s u : State} {fn : BitVec 8} {off : BitVec 30} {z : Nat} {l : List PByte} (ho : s.WindowOpen fn off)
    (h : s.ncRead (s.fn fn).w2ctx ((s.fn fn).w2va ++ off) z = some (l, u)) (hl : ∀ b ∈ l, b.2 = false) :
    exec (.bar2WindowRead fn off z) s = .next (u.emit (.bar2 fn (l.map (·.1)))) := by
  have hp : l.any (·.2) = false := by simpa using hl
  show execBar2WindowRead fn off z s = _
  simp only [execBar2WindowRead, event, windowAt_open ho, Option.bind_some, h, hp, Bool.false_eq_true, if_false]

theorem bar2WindowWrite_fails {s : State} {fn : BitVec 8} {off : BitVec 30} (d : List Byte)
    (h : ¬ s.WindowOpen fn off ∨ s.ncWrite (s.fn fn).w2ctx ((s.fn fn).w2va ++ off) d = none) :
    exec (.bar2WindowWrite fn off d) s = .next (s.windowFail fn off 3) := by
  show execBar2WindowWrite fn off d s = _
  by_cases ho : s.WindowOpen fn off
  · simp only [execBar2WindowWrite, event, windowAt_open ho, h.resolve_left (not_not_intro ho), Option.getD_none]
  · simp only [execBar2WindowWrite, event, windowAt_shut ho]

theorem bar2WindowWrite_lands {s u : State} {fn : BitVec 8} {off : BitVec 30} {d : List Byte} (ho : s.WindowOpen fn off)
    (h : s.ncWrite (s.fn fn).w2ctx ((s.fn fn).w2va ++ off) d = some u) : exec (.bar2WindowWrite fn off d) s = .next u := by
  show execBar2WindowWrite fn off d s = _
  simp only [execBar2WindowWrite, event, windowAt_open ho, h, Option.getD_some]

/-! ## MSI-X -/

theorem msixVectorUnmask_sends (s : State) (fn : BitVec 8) (vec : BitVec 11) (hr : s.recovery = false) (hf : s.frozen fn = false) :
    exec (.msixVectorUnmask fn vec) s = .next (let f := s.fn fn
      let t := s.setFn fn { f with unmasked := insNat f.unmasked vec.toNat, pba := delNat f.pba vec.toNat }
      if vec.toNat ∈ f.pba then { t with out := .msix fn vec :: t.out } else t) := by
  show execMsixVectorUnmask fn vec s = _
  simp only [execMsixVectorUnmask, event, hr, hf, Bool.or_false, Bool.false_eq_true, if_false, State.unmask, List.contains_iff_mem]
  rfl

/-! ## PKGID -/

theorem wordPart_whole (a : Nat) (v : W64) : wordPart a 8 v a = { m := BitVec.allOnes 64, v := v } := by
  have hv : v.toNat &&& (2 ^ (8 * 8) - 1) = v.toNat := by
    rw [Nat.and_two_pow_sub_one_eq_mod, Nat.mod_eq_of_lt v.isLt]
  simp only [wordPart, Nat.le_refl, if_true, Nat.sub_self, Nat.mul_zero, Nat.pow_zero, Nat.mul_one, hv, BitVec.ofNat_toNat, BitVec.setWidth_eq]
  rfl

/-- A write of all of an aligned word of BAR0 reaches that word only (R4). -/
theorem registerWrite_aligned (s : State) (fn : BitVec 8) {off : BitVec 26} (h : off.toNat / 8 * 8 = off.toNat) (val : W64) :
    exec (.registerWrite fn off 8 val) s = .next (s.regWord fn off.toNat { m := BitVec.allOnes 64, v := val }) := by
  show execRegisterWrite fn off 8 val s = _
  simp only [execRegisterWrite, event, h, wordPart_whole, Nat.lt_irrefl, decide_false, Bool.or_false, if_false, OfNat.ofNat_ne_zero,
    Bool.false_eq_true]

/-- PKGID is the physical function's: from another function its word is not there (R22, R30). -/
theorem regWord_pkgid_other (s : State) {fn : BitVec 8} (h : fn ≠ 0) (w : RegW) : s.regWord fn 0x180000 w = s := by
  have h' : ¬ fn = 0#8 := h
  simp [State.regWord, h']

theorem regWord_pkgid (s : State) (hr : s.recovery = false) (hp : ∀ q ∈ s.ports.toList, q.en = false) (w : RegW) :
    s.regWord 0 0x180000 w = { s with pkgid := (w.upon (s.pkgid.setWidth 64)).extractLsb' 0 12 } := by
  have hq : s.ports.toList.any (·.en) = false := List.any_eq_false.mpr fun q hm => by rw [hp q hm]; exact Bool.false_ne_true
  have hpeer : s.regPeer 0x180000 w = { s with pkgid := (w.upon (s.pkgid.setWidth 64)).extractLsb' 0 12 } := by
    simp only [State.regPeer, hq, if_true, Bool.false_eq_true, if_false]
  rw [← hpeer, State.regWord, hr]
  rfl

/-- A write of a whole word leaves the bits written. -/
theorem RegW.upon_whole (v old : W64) : RegW.upon { m := BitVec.allOnes 64, v := v } old = v := by
  simp [RegW.upon]

/-- Settles O43, event by event: what the decoder, the scrub, the CXL ports, the BAR2 window, MSI-X and PKGID do. -/
theorem deviceMemoryAndBoardEvents : Obligations.DeviceMemoryAndBoardEvents := by
  unfold Obligations.DeviceMemoryAndBoardEvents
  intro s pa de ce m v k p fn off vec val
  dsimp only
  refine ⟨hbmLineRead_clean s pa, fun h h1 h4 => ?_, fun h h5 h12 => hbmLineRead_uncorrectable s h h5 h12,
    fun h h0 h1 => partialLineMerge_clean s v h h0 h1, patrolScrub_advances s k, patrolScrub_wraps s k, cxlReadComplete_good s pa,
    fun a b hab hlo hm => cxlReadComplete_fails s hab hlo hm, fun w hw r hr => cxlPortTrain_direct s p hw hr,
    fun ht b z => cxlExtentAdded_fits s ht, fun z => bar2WindowRead_fails z, fun z l u => bar2WindowRead_clean,
    fun d => bar2WindowWrite_fails d, fun d u => bar2WindowWrite_lands, msixVectorUnmask_sends s fn vec, fun hr hp => ?_, fun hf => ?_⟩
  · rw [hbmLineRead_decodes s de ce h, decodeLine_corrected s _ h1 h4]
  · refine (registerWrite_aligned s 0 rfl val).trans (congrArg _ ((regWord_pkgid s hr hp _).trans ?_))
    rw [RegW.upon_whole]
    rfl
  · exact (registerWrite_aligned s fn rfl val).trans (congrArg _ (regWord_pkgid_other s hf _))

/-! ## Peer ports -/

@[simp] theorem State.port_setPort (s : State) (pn : BitVec 4) (x : Port) : (s.setPort pn x).port pn = x :=
  vget_vset_self s.ports Port.reset x pn pn.isLt

/-- With nothing queued, no flit leaves. -/
theorem pump_idle {s : State} {pn : BitVec 4} (h : (s.port pn).txq = []) : s.pump pn = s := by
  rw [State.pump, h]
  rfl

/-! ## Training -/

theorem peerPortTrained_restarts {s : State} {pn : BitVec 4} (he : (s.port pn).en = true) (hu : (s.port pn).up = false) :
    exec (.peerPortTrained pn) s = .next ((s.setPort pn { Port.reset with
      en := true, up := true, down := (s.port pn).down, txq := (s.port pn).txq }).pump pn) := by
  show execPeerPortTrained pn s = _
  simp only [execPeerPortTrained, event, he, hu, Bool.not_true, Bool.or_false, Bool.false_eq_true, if_false]

theorem peerPortTrained_idle {s : State} {pn : BitVec 4} (h : (s.port pn).en = false ∨ (s.port pn).up = true) :
    exec (.peerPortTrained pn) s = .next s := by
  have hor : (!(s.port pn).en || (s.port pn).up) = true := by simpa using h
  show execPeerPortTrained pn s = _
  simp only [execPeerPortTrained, event, hor, if_true]

/-! ## Flits that arrive -/

/-- An ACKSEQ that no flit of the replay buffer carries covers nothing (R28). -/
theorem ackFlits_none {ack : BitVec 16} {l : List Flit} (h : ∀ x ∈ l, Flit.seqNo x ≠ ack) : ackFlits ack l = l := by
  have ha : l.any (fun f => Flit.seqNo f == ack) = false := List.any_eq_false.mpr fun f hf => by simpa using h f hf
  rw [ackFlits, ha]
  rfl

/-- A flit is good: its CRC and KIND hold, and it is the next of its link (R26, R28). -/
def Port.Takes (p : Port) (f : Flit) : Prop :=
  p.up = true ∧ Flit.crc f = crc64 (Flit.body f) ∧ Flit.kindOk f = true ∧ Flit.seqNo f = p.rxSeq

/-- A flit that carries no acknowledgement of a flit held is taken: numbers and credits go on, and data that is not of VC 3 is
buffered (R26 to R28, R63). -/
def Port.taken (p : Port) (f : Flit) : Port :=
  let q := { p with rxSeq := p.rxSeq + 1, ackSeq := Flit.seqNo f
                    cred := vset p.cred (Flit.cvc f) (vget p.cred 0 (Flit.cvc f) + (Flit.cred f).toNat) }
  let v := Flit.vc f
  if Flit.isControl f then q
  else if v = 3 then { q with owed := vset q.owed v (vget q.owed 0 v + 1) }
  else if Flit.kind f = 0x04 then { q with rxbuf := q.rxbuf ++ [f], occ := vset q.occ v (vget q.occ 0 v + 1) }
  else { q with rxbuf := q.rxbuf ++ [f], owed := vset q.owed v (vget q.owed 0 v + 1) }

/-- Taking a flit leaves everything of a port but its numbers, credits and receive buffer. -/
theorem Port.taken_frame (p : Port) (f : Flit) : (p.taken f).rxSeq = p.rxSeq + 1 ∧ (p.taken f).ackSeq = Flit.seqNo f ∧
    (p.taken f).replay = p.replay ∧ (p.taken f).txq = p.txq ∧
    (p.taken f).cred = vset p.cred (Flit.cvc f) (vget p.cred 0 (Flit.cvc f) + (Flit.cred f).toNat) := by
  unfold Port.taken
  dsimp only
  split_ifs <;> exact ⟨rfl, rfl, rfl, rfl, rfl⟩

theorem Port.taken_rxbuf (p : Port) (f : Flit) :
    (p.taken f).rxbuf = if Flit.isControl f = true ∨ Flit.vc f = 3 then p.rxbuf else p.rxbuf ++ [f] := by
  unfold Port.taken
  dsimp only
  split_ifs <;> simp_all

theorem flitReceive_takes {s : State} {pn : BitVec 4} {f : BitVec 2048} (h : (s.port pn).Takes f)
    (hroom : Flit.isControl f = true ∨
      vget (s.port pn).occ 0 (Flit.vc f) + vget (s.port pn).owed 0 (Flit.vc f) < vget initCredits 0 (Flit.vc f))
    (hack : ∀ x ∈ (s.port pn).replay, Flit.seqNo x ≠ Flit.ackSeq f) :
    exec (.flitReceive pn f) s = .next ((s.setPort pn ((s.port pn).taken f)).pump pn) := by
  obtain ⟨hu, hc, hk, hs⟩ := h
  have hfull : (!Flit.isControl f && decide (vget initCredits 0 (Flit.vc f) ≤
      vget (s.port pn).occ 0 (Flit.vc f) + vget (s.port pn).owed 0 (Flit.vc f))) = false := by
    rcases hroom with hr | hr
    · simp [hr]
    · simp [Nat.not_le.mpr hr]
  show execFlitReceive pn f s = _
  simp only [execFlitReceive, event, hu, hc, hk, hs, hfull, ackFlits_none hack, Port.taken, bne_self_eq_false, Bool.not_true, Bool.or_false,
    Bool.false_eq_true, Nat.lt_irrefl, if_false]

theorem flitReceive_drops {s : State} {pn : BitVec 4} {f : BitVec 2048}
    (h : Flit.crc f ≠ crc64 (Flit.body f) ∨ Flit.seqNo f ≠ (s.port pn).rxSeq ∨ (s.port pn).up = false) :
    exec (.flitReceive pn f) s = .next s := by
  show execFlitReceive pn f s = _
  unfold execFlitReceive event
  dsimp only
  rw [if_pos]
  rcases h with h | h | h <;> simp [h]

/-! ## Replay and credits -/

/-- Putting things out, one after another, changes what has been put out and nothing else. -/
theorem foldl_emit {α : Type} (o : α → Output) (l : List α) (s : State) :
    l.foldl (fun s x => s.emit (o x)) s = { s with out := (l.map o).reverse ++ s.out } := by
  induction l generalizing s with
  | nil => rfl
  | cons x r ih => rw [List.foldl_cons, ih, List.map_cons, List.reverse_cons, List.append_assoc]; rfl

/-- A replay (R28): every flit not covered leaves again, and the count of replays goes up. -/
def State.replayed (s : State) (pn : BitVec 4) : State :=
  { s.setPort pn { s.port pn with nreplay := (s.port pn).nreplay + 1 } with
    out := ((s.port pn).replay.map fun f => Output.flit pn f).reverse ++ s.out }

theorem replayTimeout_eq {s : State} {pn : BitVec 4} (hu : (s.port pn).up = true) (hr : (s.port pn).replay ≠ []) :
    exec (.replayTimeout pn) s = .next (if (s.port pn).nreplay + 1 < 8 then s.replayed pn
      else ((s.replayed pn).requestsDown pn).portDown pn) := by
  have hg : ¬ (!(s.port pn).up || (s.port pn).replay.isEmpty) = true := by simp [hu, hr]
  show execReplayTimeout pn s = _
  unfold execReplayTimeout event
  dsimp only
  rw [if_neg hg, foldl_emit]
  rfl

@[simp] theorem State.port_raiseErr (s : State) (pn : BitVec 4) (e : ErrRec) : (s.raiseErr e).port pn = s.port pn := by
  obtain ⟨_, _, _, h⟩ := raiseErr_eq s e
  rw [h]
  rfl

/-- A port whose answers keep nothing goes down: it is as after reset, but for EN and DOWN. -/
theorem portDown_port {s : State} {pn : BitVec 4} (h : (s.port pn).holds = []) :
    (s.portDown pn).port pn = { Port.reset with en := (s.port pn).en, down := true } := by
  have hp : (s.collLinkDown pn).port pn = s.port pn := rfl
  rw [State.portDown, State.port_raiseErr, State.portOff]
  simp only [hp, h, List.map_nil, List.foldl_nil]
  rw [foldl_emit (fun f => Output.failed (Flit.dst f) 0x07)]
  exact State.port_setPort ..

theorem requestsDown_none {s : State} (h : s.dirReqs = []) (pn : BitVec 4) : s.requestsDown pn = s := by
  simp only [State.requestsDown, h, List.filter_nil, List.foldl_nil]
  rw [← h]

theorem creditReturn_sends {s : State} {pn : BitVec 4} (hs : (s.port pn).canSend (mkFlit 0 s.pkgid 0 0x3F 0 []) = true)
    (ho : ∃ x ∈ (s.port pn).owed.toList, x ≠ 0) :
    exec (.creditReturnTimeout pn) s = .next (s.sendFlit pn (mkFlit 0 s.pkgid 0 0x3F 0 [])) := by
  have ha : (s.port pn).owed.toList.all (· == 0) = false := by
    obtain ⟨x, hx, h0⟩ := ho
    exact List.all_eq_false.mpr ⟨x, hx, by simpa using h0⟩
  show execCreditReturnTimeout pn s = _
  simp only [execCreditReturnTimeout, event, ha, hs, Bool.not_true, Bool.or_false, Bool.false_eq_true, if_false]

theorem creditReturn_idle {s : State} {pn : BitVec 4}
    (h : (s.port pn).canSend (mkFlit 0 s.pkgid 0 0x3F 0 []) = false ∨ ∀ x ∈ (s.port pn).owed.toList, x = 0) :
    exec (.creditReturnTimeout pn) s = .next s := by
  have hor : ((s.port pn).owed.toList.all (· == 0) || !(s.port pn).canSend (mkFlit 0 s.pkgid 0 0x3F 0 [])) = true := by
    rcases h with h | h
    · simp only [h, Bool.not_false, Bool.or_true]
    · rw [List.all_eq_true.mpr fun x hx => beq_iff_eq.mpr (h x hx), Bool.true_or]
  show execCreditReturnTimeout pn s = _
  simp only [execCreditReturnTimeout, event, hor, if_true]

/-- Settles O45, event by event: training, a flit that is taken or dropped, a replay and its end, and the return of credits. -/
theorem peerPortEvents : Obligations.PeerPortEvents := by
  unfold Obligations.PeerPortEvents
  intro s pn f
  dsimp only
  refine ⟨peerPortTrained_restarts, peerPortTrained_idle, fun hu hc hk hs hroom hack htx => ?_, flitReceive_drops, fun hu hr hn => ?_,
    fun hu hr hn hd hh => ?_, creditReturn_sends, creditReturn_idle⟩
  · obtain ⟨hrx, hak, hrep, htq, hcr⟩ := (s.port pn).taken_frame f
    refine ⟨s.setPort pn ((s.port pn).taken f), ?_, ?_⟩
    · rw [flitReceive_takes ⟨hu, hc, hk, hs⟩ hroom hack, pump_idle]
      rw [State.port_setPort, htq, htx]
    · rw [State.port_setPort, hcr]
      exact ⟨Port.taken_rxbuf .., hrx, hak, hrep, rfl, rfl, vget_vset_self _ _ _ _ (Flit.cvc f).isLt⟩
  · rw [replayTimeout_eq hu hr, if_pos (by omega)]
    rfl
  · have hp : (s.replayed pn).port pn = { s.port pn with nreplay := (s.port pn).nreplay + 1 } := State.port_setPort ..
    refine ⟨(s.replayed pn).portDown pn, ?_, ?_⟩
    · rw [replayTimeout_eq hu hr, if_neg (by omega), requestsDown_none]
      exact hd
    · rw [portDown_port (by rw [hp]; exact hh), hp]
      exact ⟨rfl, rfl, rfl, rfl⟩

/-! ## Captures that make room for a held request (R134) -/

/-- A tile has been captured and stands in class 0 (R39, R296), with the scalar registers `r`. -/
def Tile.CapturedWith (r : Vector W64 32) (t : Tile) : Prop := t.sclass = 0 ∧ t.capturing.isSome = true ∧ t.areg = r

theorem beginCapture_idle {s : State} {g : BitVec 8} (h : (s.tile g).capturable = false) (d f : Bool) :
    s.beginCapture g d f = s := by
  rw [State.beginCapture, h, Bool.not_false, Bool.or_true, if_pos rfl]

/-- A decision of captures leaves captured every tile that is so, whichever tiles it takes. -/
theorem beginCapture_keeps_captured {s : State} {v : BitVec 8} {r : Vector W64 32} (h : (s.tile v).CapturedWith r)
    (g : BitVec 8) (d f : Bool) :
    ((s.beginCapture g d f).tile v).CapturedWith r := by
  unfold State.beginCapture
  split
  · exact h
  · refine List.foldlRecOn (motive := fun u : State => (u.tile v).CapturedWith r) _ _ h fun u hu w _ => ?_
    by_cases hw : v = w
    · subst hw
      rw [State.tile_modTile]
      obtain ⟨-, -, hareg⟩ := hu
      exact ⟨rfl, rfl, hareg⟩
    · rw [State.tile_modTile_of_ne _ _ hw]
      exact hu

theorem beginCapture_captures {s : State} {v : BitVec 8} (hr : s.railsOff = false) (hv : (s.tile v).capturable = true)
    (hn : (s.tile v).cohort = none) (d f : Bool) : ((s.beginCapture v d f).tile v).CapturedWith (s.tile v).areg := by
  have hset : s.captureSet v = [v] := by rw [State.captureSet, hn]; rfl
  rw [State.beginCapture, hr, hv, hset, Bool.not_true, Bool.or_false, if_neg Bool.false_ne_true,
    List.foldl_cons, List.foldl_nil, State.tile_modTile]
  exact ⟨rfl, rfl, rfl⟩

theorem makeRoom_keeps_captured {s : State} {v : BitVec 8} {r : Vector W64 32} (h : (s.tile v).CapturedWith r)
    (g : BitVec 8) (n : Nat) :
    ((State.makeRoom g n s).tile v).CapturedWith r := by
  induction n generalizing s with
  | zero => exact h
  | succ n ih =>
    rw [State.makeRoom]
    split
    · exact h
    · dsimp only
      split
      · exact h
      · exact ih (beginCapture_keeps_captured h _ true false)

/-- A request that has been held for 4,096 cycles: HELD_REQUEST_PREEMPT makes room for it (R134). -/
theorem heldRequestPreempt_makesRoom {s : State} {g : BitVec 8} (hh : s.held = some g) (hc : s.heldAt + 4096 ≤ s.cy) :
    exec .heldRequestPreempt s = .next (State.makeRoom g 256 s) := by
  show execHeldRequestPreempt s = _
  simp only [execHeldRequestPreempt, event, hh, Nat.not_lt.mpr hc, if_false]

/-- Where the tile table names the one tile with current to give, and that tile runs an item of no cohort, HELD_REQUEST_PREEMPT
captures it, and its registers stay. -/
theorem heldRequestPreempt_captures {s : State} {g v : BitVec 8} {b : Nat} (hr : s.railsOff = false) (hh : s.held = some g)
    (hc : s.heldAt + 4096 ≤ s.cy) (hq : (s.tile g).sreq = some b)
    (hf : s.budget.toNat + classUnits (s.tile g).sclass < s.reserved + classUnits b)
    (hw : s.tilesWith (fun t => t.capturable && decide (0 < t.sclass)) = [v]) (hv : (s.tile v).capturable = true)
    (hn : (s.tile v).cohort = none) :
    ∃ u, exec .heldRequestPreempt s = .next u ∧ (u.tile v).CapturedWith (s.tile v).areg := by
  have hfit : s.heldFits g = false := by
    simp only [State.heldFits, hq, decide_eq_false_iff_not, Nat.not_le, hf]
  have hroom : State.makeRoom g 256 s = State.makeRoom g 255 (s.beginCapture v true false) := by
    rw [State.makeRoom, hfit]
    simp [hw, State.firstRanked]
  refine ⟨State.makeRoom g 256 s, heldRequestPreempt_makesRoom hh hc, ?_⟩
  rw [hroom]
  exact makeRoom_keeps_captured (beginCapture_captures hr hv hn true false) g 255

/-- A state of no run: tile 3's request is held, and the table's one running tile stands under the number 261, which no tile has. As a
tile number 261 is 5, and tile 5 has no entry: it runs nothing. -/
def runningBeyondTable : State :=
  { State.reset with
    tiles := [(3, { Tile.reset with sreq := some 7 }), (261, { Tile.reset with ist := .running, sclass := 7 })]
    held := some 3, cy := 4096, budget := 512 }

/-- There the order of R134 finds tile 5 each time, and tile 5 runs nothing that could be captured. -/
theorem makeRoom_runningBeyondTable (n : Nat) : State.makeRoom 3 n runningBeyondTable = runningBeyondTable := by
  induction n with
  | zero => rfl
  | succ n ih =>
    have hidle : runningBeyondTable.beginCapture 5 true false = runningBeyondTable := beginCapture_idle rfl true false
    calc State.makeRoom 3 (n + 1) runningBeyondTable
        = State.makeRoom 3 n (runningBeyondTable.beginCapture 5 true false) := rfl
      _ = runningBeyondTable := by rw [hidle, ih]

/-- Refutes O44 in its clause of HELD_REQUEST_PREEMPT: the statement speaks of every state, also of those whose tile table holds an entry
that is no tile's. In `runningBeyondTable` the clause names tile 5 as the victim, and nothing is captured. Where the tile that it names
can be captured the clause holds (`heldRequestPreempt_captures`). -/
theorem not_timeAndPowerEvents : ¬ Obligations.TimeAndPowerEvents := by
  unfold Obligations.TimeAndPowerEvents
  intro h
  obtain ⟨-, -, -, -, -, -, -, -, -, -, -, -, -, -, hclause, -⟩ := h runningBeyondTable 0 0 0 3 7 0 0 0 0 0
  obtain ⟨u, hu, -, hcap, -⟩ := hclause 5 rfl rfl (by decide) rfl (by decide) (by decide) rfl (by decide)
  rw [heldRequestPreempt_makesRoom rfl (Nat.le_refl 4096), makeRoom_runningBeyondTable] at hu
  cases hu
  exact absurd hcap (by decide)

end Sys2Proof.Machine
end

section
/-! PROOFS. Storage: the bytes of a number, and a line of device memory that reads as it was written under a key (R3, R108, R110). -/

namespace Sys2Proof.Machine

/-! ## Bytes of a number -/

theorem leNat_leBytes (n v : Nat) : leNat (leBytes n v) = v % 256 ^ n := by
  induction n generalizing v with
  | zero => rw [Nat.pow_zero, Nat.mod_one]; rfl
  | succ n ih =>
    rw [leBytes, leNat, ih, Nat.pow_succ, Nat.mul_comm, Nat.mul_comm (256 ^ n), Nat.mod_mul, BitVec.toNat_ofNat, Nat.mul_comm]

@[simp] theorem length_leBytes (n v : Nat) : (leBytes n v).length = n := by
  induction n generalizing v with
  | zero => rfl
  | succ n ih => rw [leBytes, List.length_cons, ih]

theorem ofNat_leNat_leBytes (v : BitVec 512) : BitVec.ofNat 512 (leNat (leBytes 64 v.toNat)) = v := by
  apply BitVec.eq_of_toNat_eq
  rw [leNat_leBytes, BitVec.toNat_ofNat, show (256 : Nat) = 2 ^ 8 from rfl, ← Nat.pow_mul, Nat.mod_mod, Nat.mod_eq_of_lt v.isLt]

theorem lineVal_lineBytes (v : BitVec 512) : lineVal (lineBytes v) = v := ofNat_leNat_leBytes v

/-! ## A line of device memory under a key (R108) -/

theorem Mem.gets_puts (m : Mem) (a : Nat) (bs : List Byte) : Mem.gets (Mem.puts m a bs) a bs.length = bs := by
  apply List.ext_getElem
  · simp [Mem.gets]
  · intro i h _
    have hi : i < bs.length := by simpa [Mem.gets] using h
    simp [Mem.gets, Mem.get_puts_inside bs m a i hi]

theorem spread_allOnes : spread (BitVec.allOnes 64) = BitVec.allOnes 512 := by decide +kernel

theorem mergeLine_whole (v old : BitVec 512) : mergeLine (BitVec.allOnes 64) v old = v := by
  rw [mergeLine, spread_allOnes, BitVec.and_allOnes, BitVec.not_allOnes, BitVec.and_zero, BitVec.or_zero]

theorem linesOf_line (l : Nat) : linesOf (64 * l) 64 = [l] := by
  have hn : (64 * l + 64 - 1) / 64 + 1 - 64 * l / 64 = 1 := by omega
  have h0 : 64 * l / 64 = l := by omega
  rw [linesOf, if_neg (by decide), hn, h0]
  rfl

/-- The homes of HBM always answer (R193). -/
theorem answers_hbm {s : State} {l : Nat} (h : 64 * l < 2 ^ 39) : s.answers l = true := by
  have hd : (BitVec.ofNat 3 (64 * l / 2 ^ 37)).toNat < 4 := by
    rw [BitVec.toNat_ofNat]
    omega
  rw [State.answers, homeOf, if_pos h, decide_eq_true hd, Bool.true_or]

/-- A note in the undo log is in a context's record (R320). -/
theorem noteUndo_eq (s : State) (ctx : BitVec 16) (l : Nat) : ∃ c, s.noteUndo ctx l = { s with ctxs := c } := by
  unfold State.noteUndo
  split
  · exact ⟨s.ctxs, rfl⟩
  · exact ⟨_, rfl⟩

/-- The states differ at most in device memory, in its lines' poison and keys, and in the contexts' undo logs. -/
def State.StorageOnly (s t : State) : Prop :=
  ∃ (c : Tab Ctx) (b : Mem) (q : List Nat) (k : Tab Nat), t = { s with ctxs := c, mem := b, poison := q, lineKey := k }

theorem State.StorageOnly.trans {s t u : State} (h1 : s.StorageOnly t) (h2 : t.StorageOnly u) : s.StorageOnly u := by
  obtain ⟨_, _, _, _, rfl⟩ := h1
  obtain ⟨_, _, _, _, rfl⟩ := h2
  exact ⟨_, _, _, _, rfl⟩

theorem wrLine_storage (s : State) (ctx : BitVec 16) (key : BitVec 12) (l : Nat) (m : BitVec 64) (v : BitVec 512) (p : Bool) :
    s.StorageOnly (s.wrLine ctx key l m v p) := by
  unfold State.wrLine
  split
  · exact ⟨_, _, _, _, rfl⟩
  · obtain ⟨c, h⟩ := noteUndo_eq s ctx l
    rw [h]
    exact ⟨c, _, _, _, rfl⟩

theorem wrDev_storage (s : State) (ctx : BitVec 16) (key : BitVec 12) (pa : Nat) (bs : List Byte) (p : Bool) :
    s.StorageOnly (s.wrDev ctx key pa bs p) :=
  List.foldlRecOn _ _ ⟨_, _, _, _, rfl⟩ fun t ht l _ => ht.trans (wrLine_storage t ctx key l _ _ p)

theorem wrDev_line (s : State) (ctx : BitVec 16) (key : BitVec 12) (l : Nat) {bs : List Byte} (h : bs.length = 64) (p : Bool) :
    s.wrDev ctx key (64 * l) bs p = s.wrLine ctx key l (BitVec.allOnes 64) (lineVal bs) p := by
  have hm : byteMask 0 64 = BitVec.allOnes 64 := by decide
  have ht : bs.take 64 = bs := List.take_of_length_le (Nat.le_of_eq h)
  simp [State.wrDev, h, linesOf_line, hm, lineVal, ht]

theorem rdDev_line (s : State) (key : BitVec 12) (l : Nat) : (s.rdDev key (64 * l) 64).1 = lineBytes (s.rdLine key l).1 := by
  simp [State.rdDev, linesOf_line, lineBytes]

/-- A line that is read under the key of its last write is what storage holds (R108). -/
theorem rdLine_ownKey {s : State} {key : BitVec 12} {l k : Nat} (hl : Tab.get? s.lineKey l = some k) (hk : s.keyId key = some k) :
    (s.rdLine key l).1 = lineVal (s.rdBytes (64 * l) 64) := by
  unfold State.rdLine
  simp only [hl, hk, if_true]

/-- A whole line written at a home that answers: its bytes and the key of the write. -/
theorem wrLine_whole {s : State} {key : BitVec 12} {l k : Nat} (ha : s.answers l = true) (hk : s.keyId key = some k) (ctx : BitVec 16)
    (v : BitVec 512) (p : Bool) :
    let t := s.wrLine ctx key l (BitVec.allOnes 64) v p
    t.mem = Mem.puts s.mem (64 * l) (lineBytes v) ∧ t.lineKey = Tab.set s.lineKey l k ∧ t.keyId key = some k := by
  obtain ⟨c, hc⟩ := noteUndo_eq s ctx l
  have hn : State.keyId { s with ctxs := c } key = some k := hk
  have hg : ¬ (BitVec.allOnes 64 = 0 || !s.answers l) = true := by rw [ha]; decide
  unfold State.wrLine
  rw [if_neg hg, hc]
  simp only [mergeLine_whole, hn, true_and]
  exact hk

/-- A whole line of a home that answers reads as it was written, under the key it was written under (R108, R110). -/
theorem rdLine_wrLine {s : State} {key : BitVec 12} {l : Nat} (ha : s.answers l = true) (hk : (s.keyId key).isSome = true)
    (ctx : BitVec 16) (v : BitVec 512) (p : Bool) : ((s.wrLine ctx key l (BitVec.allOnes 64) v p).rdLine key l).1 = v := by
  obtain ⟨k, hk⟩ := Option.isSome_iff_exists.mp hk
  obtain ⟨hm, hl, hk⟩ := wrLine_whole ha hk ctx v p
  have hb : Mem.gets (Mem.puts s.mem (64 * l) (lineBytes v)) (64 * l) 64 = lineBytes v := by
    simpa [lineBytes] using Mem.gets_puts s.mem (64 * l) (lineBytes v)
  rw [rdLine_ownKey (hl ▸ Tab.get?_set_self ..) hk, State.rdBytes, hm, hb, lineVal_lineBytes]

end Sys2Proof.Machine
end

section
/-! PROOFS. What leaves the registers of the replication unit (R59) as they are: writes of records and of the index, messages that leave, the
directory at its home, and nodes that are freed. -/

namespace Sys2Proof.Machine

/-! ## The replication unit's registers (R59) stay -/

/-- An update that keeps the replication unit keeps it over a list. -/
theorem foldl_repl {β : Type} {f : State → β → State} (h : ∀ s x, (f s x).repl = s.repl) (l : List β) (s : State) :
    (l.foldl f s).repl = s.repl :=
  List.foldlRecOn (motive := fun t => t.repl = s.repl) l f rfl fun t ht x _ => (h t x).trans ht

@[simp] theorem wrDev_repl (s : State) (ctx : BitVec 16) (key : BitVec 12) (pa : Nat) (bs : List Byte) (p : Bool) :
    (s.wrDev ctx key pa bs p).repl = s.repl := by
  obtain ⟨_, _, _, _, h⟩ := wrDev_storage s ctx key pa bs p
  rw [h]

@[simp] theorem setPort_repl (s : State) (pn : BitVec 4) (x : Port) : (s.setPort pn x).repl = s.repl := rfl
@[simp] theorem modPool_repl (s : State) (j : BitVec 4) (f : Pool → Pool) : (s.modPool j f).repl = s.repl := rfl

/-! ### Nodes, the index and counts -/

@[simp] theorem setNode_repl (s : State) (h : BitVec 32) (n : Node) : (s.setNode h n).repl = s.repl := by
  unfold State.setNode
  dsimp only
  split
  · exact wrDev_repl ..
  · rw [wrDev_repl, wrDev_repl]

@[simp] theorem modNode_repl (s : State) (h : BitVec 32) (f : Node → Node) : (s.modNode h f).repl = s.repl := setNode_repl ..

@[simp] theorem putIndex_repl (s : State) (place : Nat) (b : BitVec 256) : (s.putIndex place b).repl = s.repl :=
  foldl_repl (fun _ _ => wrDev_repl ..) _ s

@[simp] theorem indexDel_repl (s : State) (h : BitVec 32) : (s.indexDel h).repl = s.repl :=
  foldl_repl (fun _ _ => putIndex_repl ..) _ { s with index := _ }

@[simp] theorem closingRemoval_repl (s : State) (h : BitVec 32) : (s.closingRemoval h).repl = s.repl := by
  unfold State.closingRemoval
  simp only [apply_ite State.repl, setNode_repl, indexDel_repl, ite_self]

@[simp] theorem unref_repl (s : State) (h : BitVec 32) : (s.unref h).repl = s.repl := by
  unfold State.unref
  split
  · rfl
  · rw [closingRemoval_repl, modNode_repl]

/-! ### Messages that leave -/

@[simp] theorem letGo_repl (s : State) (h : AnswerHold) : (s.letGo h).repl = s.repl := by
  unfold State.letGo
  cases h.node <;> cases h.src <;> simp

@[simp] theorem sendFlit_repl (s : State) (pn : BitVec 4) (f : Flit) : (s.sendFlit pn f).repl = s.repl :=
  foldl_repl letGo_repl _ (State.emit (s.setPort pn _) _)

theorem pumpGo_repl (pn : BitVec 4) (n : Nat) (s : State) : (State.pumpGo pn n s).repl = s.repl := by
  induction n generalizing s with
  | zero => rfl
  | succ n ih =>
    unfold State.pumpGo
    dsimp only
    split
    · rfl
    · rw [ih, sendFlit_repl, setPort_repl]

@[simp] theorem pump_repl (s : State) (pn : BitVec 4) : (s.pump pn).repl = s.repl := pumpGo_repl ..

theorem sendMsg_repl {s t : State} {dst : BitVec 12} {vc : BitVec 2} {flow : BitVec 24} {l : List (List Byte)}
    (h : s.sendMsg dst vc flow l = some t) : t.repl = s.repl := by
  unfold State.sendMsg at h
  split at h
  · cases h
  · cases h
    rw [pump_repl, setPort_repl]

/-- A message that is sent, or that fails for want of a route. -/
theorem sendDir_getD_repl (s t : State) (dst : BitVec 12) (m : DirMsg) (extra : List (List Byte)) (data : List Byte) (ht : t.repl = s.repl) :
    ((s.sendDir dst m extra data).getD t).repl = s.repl := by
  cases h : s.sendDir dst m extra data with
  | none => exact ht
  | some u => exact sendMsg_repl h

/-! ### The directory at its home -/

@[simp] theorem dirPut_repl (s : State) (a : Nat) (e : DirEntry) : (s.dirPut a e).repl = s.repl := wrDev_repl ..

@[simp] theorem dirAnnounce_repl (s : State) (nsid : BitVec 32) (name : BitVec 128) (depth : BitVec 16) (h : Holder) :
    (s.dirAnnounce nsid name depth h).repl = s.repl := by
  unfold State.dirAnnounce
  by_cases hn : nsid = 0
  · rw [if_pos hn]
  rw [if_neg hn]
  split
  · exact dirPut_repl ..
  · dsimp only
    split
    · exact dirPut_repl ..
    · rfl

@[simp] theorem dirDrop_repl (s : State) (pkg : BitVec 12) (x : Nat × DirEntry) : (s.dirDrop pkg x).repl = s.repl := by
  unfold State.dirDrop
  split
  · exact dirPut_repl ..
  · rfl

@[simp] theorem dirWithdraw_repl (s : State) (nsid : BitVec 32) (name : BitVec 128) (depth : BitVec 16) (pkg : BitVec 12) :
    (s.dirWithdraw nsid name depth pkg).repl = s.repl := by
  unfold State.dirWithdraw
  split
  · exact foldl_repl (fun t x => dirDrop_repl t pkg x) _ s
  · split
    · exact dirDrop_repl ..
    · rfl

@[simp] theorem tellHome_repl (s : State) (op : Byte) (nsid : BitVec 32) (name : BitVec 128) (depth : BitVec 16) (tier : BitVec 2) :
    (s.tellHome op nsid name depth tier).repl = s.repl := by
  unfold State.tellHome
  by_cases he : (!s.dirEn) = true
  · rw [if_pos he]
  rw [if_neg he]
  split
  · rfl
  · simp only [apply_ite State.repl, dirAnnounce_repl, dirWithdraw_repl, sendDir_getD_repl _ _ _ _ _ _ (State.emit_repl ..), ite_self]

/-! ### Nodes that are freed -/

@[simp] theorem nsGone_repl (s : State) (nsid : BitVec 32) : (s.nsGone nsid).repl = s.repl := by
  unfold State.nsGone
  cases Tab.get? s.nss nsid.toNat with
  | none => rfl
  | some ns =>
    dsimp only
    split_ifs
    · exact tellHome_repl ..
    · rfl
    · rfl

@[simp] theorem freeGroups_repl (s : State) (gs : List Group) : (s.freeGroups gs).repl = s.repl :=
  foldl_repl (fun t g => by dsimp only; split <;> rfl) gs s

@[simp] theorem freeNode_repl (k : Nat) (s : State) (h : BitVec 32) : (State.freeNode k s h).repl = s.repl := by
  induction k generalizing s h with
  | zero => rfl
  | succ k ih =>
    unfold State.freeNode
    dsimp only
    rw [nsGone_repl, setNode_repl, State.giveRecord, modPool_repl, freeGroups_repl]
    split_ifs <;> simp only [ih, closingRemoval_repl, setNode_repl, tellHome_repl, indexDel_repl]

@[simp] theorem decRef_repl (s : State) (h : BitVec 32) : (s.decRef h).repl = s.repl := by
  unfold State.decRef
  dsimp only
  split_ifs <;> simp only [freeNode_repl, closingRemoval_repl, setNode_repl]

end Sys2Proof.Machine
end

section
/-! PROOFS. The crystal directory (chapter 02): entries of its region, messages that have arrived, and what each does. -/

namespace Sys2Proof.Machine
open Sys2Proof.Says

/-! ## A first announce as 512 bits (R49, R55) -/

/-- The first announce of a name in an empty entry (R54, R55): its holder stands in slot 0. -/
def DirEntry.first (nsid : BitVec 32) (name : BitVec 128) (depth : BitVec 16) (h : Holder) (t : W64) : DirEntry :=
  { name := name, nsid := nsid, depth := depth, holders := [(0, h)], atime := t }

section
variable (nsid : BitVec 32) (name : BitVec 128) (depth : BitVec 16) (h : Holder) (t : W64)

theorem bits_first : (DirEntry.first nsid name depth h t).bits = name ++ nsid ++ depth ++ (0 : BitVec 16) ++ (0 : BitVec 16) ++
    (0 : BitVec 16) ++ holderBits h ++ t ++ (0 : BitVec 2) ++ (0 : BitVec 2) ++ (0 : BitVec 2) ++ (0 : BitVec 2) ++ (0 : BitVec 200) := rfl

theorem bits_first_name : (DirEntry.first nsid name depth h t).bits.extractLsb' 384 128 = name := by
  rw [bits_first]
  iterate 12 rw [BitVec.extractLsb'_append_eq_of_le (by decide)]
  exact BitVec.extractLsb'_eq_self

theorem bits_first_nsid : (DirEntry.first nsid name depth h t).bits.extractLsb' 352 32 = nsid := by
  rw [bits_first]
  iterate 11 rw [BitVec.extractLsb'_append_eq_of_le (by decide)]
  exact BitVec.extractLsb'_append_eq_right

theorem bits_first_depth : (DirEntry.first nsid name depth h t).bits.extractLsb' 336 16 = depth := by
  rw [bits_first]
  iterate 10 rw [BitVec.extractLsb'_append_eq_of_le (by decide)]
  exact BitVec.extractLsb'_append_eq_right

theorem bits_first_slot {i : Nat} (hi : i < 4) :
    (DirEntry.first nsid name depth h t).bits.extractLsb' (272 + 16 * i) 16 = if i = 0 then holderBits h else 0 := by
  rw [bits_first]
  iterate 6 rw [BitVec.extractLsb'_append_eq_of_le (by omega)]
  interval_cases i
  · exact BitVec.extractLsb'_append_eq_right
  · rw [BitVec.extractLsb'_append_eq_of_le (by decide)]
    exact BitVec.extractLsb'_append_eq_right
  · iterate 2 rw [BitVec.extractLsb'_append_eq_of_le (by decide)]
    exact BitVec.extractLsb'_append_eq_right
  · iterate 3 rw [BitVec.extractLsb'_append_eq_of_le (by decide)]
    exact BitVec.extractLsb'_append_eq_right

theorem bits_first_atime : (DirEntry.first nsid name depth h t).bits.extractLsb' 208 64 = t := by
  rw [bits_first]
  iterate 5 rw [BitVec.extractLsb'_append_eq_of_le (by decide)]
  exact BitVec.extractLsb'_append_eq_right

theorem holderOf_holderBits : holderOf (holderBits h) = h := by
  obtain ⟨v, tier, pkg⟩ := h
  unfold holderOf holderBits
  congr 1
  · iterate 3 rw [BitVec.getLsbD_append, if_neg (by decide)]
    exact BitVec.getLsbD_ofBool ..
  · iterate 2 rw [BitVec.extractLsb'_append_eq_of_le (by decide)]
    exact BitVec.extractLsb'_append_eq_right
  · exact BitVec.extractLsb'_append_eq_right

/-- The holder slots of a first announce: the holder, and three that are empty (R49, R55). -/
theorem bits_first_slots : ((List.range 4).map fun i => (i, holderOf ((DirEntry.first nsid name depth h t).bits.extractLsb' (272 + 16 * i) 16))) =
    [(0, h), (1, noHolder), (2, noHolder), (3, noHolder)] := by
  have hmap : ∀ i ∈ List.range 4, (i, holderOf ((DirEntry.first nsid name depth h t).bits.extractLsb' (272 + 16 * i) 16)) =
      (i, if i = 0 then h else noHolder) := fun i hi => by
    rw [bits_first_slot nsid name depth h t (List.mem_range.mp hi), apply_ite holderOf, holderOf_holderBits]
    rfl
  exact List.map_congr_left hmap

/-- A first announce reads back from its 512 bits. -/
theorem ofBits_bits_first (hv : h.valid = true) :
    DirEntry.ofBits (DirEntry.first nsid name depth h t).bits = DirEntry.first nsid name depth h t := by
  unfold DirEntry.ofBits
  simp only [bits_first_slots, bits_first_name, bits_first_nsid, bits_first_depth, bits_first_atime]
  simp [hv, noHolder, DirEntry.first]

end

/-! ## Entries of the directory region (R55) -/

/-- The line of entry `i` of a name's set. -/
def State.dirLine (s : State) (name : BitVec 128) (i : Nat) : Nat := 8 * s.dirBase.toNat + 8 * dirSet s name + i

theorem dirAddr_eq (s : State) (name : BitVec 128) (i : Nat) : s.dirAddr (dirSet s name) i = 64 * s.dirLine name i := by
  unfold State.dirAddr State.dirLine
  omega

theorem dirLine_hbm {s : State} (hd : DirRegion s) (name : BitVec 128) {i : Nat} (hi : i < 8) : 64 * s.dirLine name i < 2 ^ 39 := by
  have hs : dirSet s name < 2 ^ s.dirSets.toNat := Nat.mod_lt _ (Nat.two_pow_pos _)
  have hr := hd.1
  unfold State.dirLine
  omega

/-- An entry reads back as its 512 bits give it. -/
theorem dirGet_dirPut {s : State} {l : Nat} (hl : 64 * l < 2 ^ 39) (hk : (s.keyId 0).isSome = true) (e : DirEntry) :
    (s.dirPut (64 * l) e).dirGet (64 * l) = DirEntry.ofBits e.bits := by
  rw [State.dirGet, State.dirPut, wrDev_line _ _ _ _ (length_leBytes ..), rdDev_line, rdLine_wrLine (answers_hbm hl) hk]
  rw [lineBytes, ofNat_leNat_leBytes, lineVal, ofNat_leNat_leBytes]

theorem dirGet_dirPut_of_mem {s : State} (hd : DirRegion s) {name : BitVec 128} {x : Nat × DirEntry} (hx : x ∈ s.dirSetOf name)
    (e : DirEntry) : (s.dirPut x.1 e).dirGet x.1 = DirEntry.ofBits e.bits := by
  obtain ⟨i, hi, rfl⟩ := List.mem_map.mp hx
  dsimp only
  rw [dirAddr_eq]
  exact dirGet_dirPut (dirLine_hbm hd name (List.mem_range.mp hi)) hd.2 e

theorem dirPut_storage (s : State) (a : Nat) (e : DirEntry) : s.StorageOnly (s.dirPut a e) := wrDev_storage ..

/-- The first entry of a name's set. -/
def State.dirHead (s : State) (name : BitVec 128) : Nat × DirEntry :=
  (s.dirAddr (dirSet s name) 0, s.dirGet (s.dirAddr (dirSet s name) 0))

theorem State.StorageOnly.dirEn {s t : State} (h : s.StorageOnly t) : t.dirEn = s.dirEn := by
  obtain ⟨_, _, _, _, rfl⟩ := h
  rfl

theorem State.StorageOnly.dirHead_addr {s t : State} (h : s.StorageOnly t) (name : BitVec 128) : (t.dirHead name).1 = (s.dirHead name).1 := by
  obtain ⟨_, _, _, _, rfl⟩ := h
  rfl

theorem dirSetOf_cons (s : State) (name : BitVec 128) : ∃ r, s.dirSetOf name = s.dirHead name :: r := ⟨_, rfl⟩

theorem dirFind_head {s : State} {nsid : BitVec 32} {name : BitVec 128} (hn : nsid ≠ 0) (h1 : (s.dirHead name).2.nsid = nsid)
    (h2 : (s.dirHead name).2.name = name) : s.dirFind nsid name = some (s.dirHead name) := by
  obtain ⟨r, hr⟩ := dirSetOf_cons s name
  rw [State.dirFind, hr, List.find?_cons_of_pos]
  rw [h1, h2, bne_iff_ne.mpr hn, beq_self_eq_true, beq_self_eq_true]
  rfl

theorem dirFind_empty {s : State} {nsid : BitVec 32} {name : BitVec 128} (h : ∀ e ∈ s.dirSetOf name, e.2.nsid = 0) :
    s.dirFind nsid name = none :=
  List.find?_eq_none.mpr fun e he => by rw [h e he]; exact Bool.false_ne_true

/-! ## ANNOUNCE, WITHDRAW and LOOKUP at the home (R54 to R56) -/

/-- In an empty set a name takes the first entry. -/
theorem dirAnnounce_empty {s : State} {nsid : BitVec 32} {name : BitVec 128} (hn : nsid ≠ 0) (he : ∀ e ∈ s.dirSetOf name, e.2.nsid = 0)
    (depth : BitVec 16) (h : Holder) :
    s.dirAnnounce nsid name depth h = s.dirPut (s.dirHead name).1 (DirEntry.first nsid name depth h s.devtime) := by
  obtain ⟨r, hr⟩ := dirSetOf_cons s name
  have h0 : ((s.dirHead name).2.nsid == 0) = true := beq_iff_eq.mpr (he _ (hr ▸ List.mem_cons_self))
  have hfree : ((s.dirSetOf name).filter fun e => e.2.nsid == 0).head? = some (s.dirHead name) := by
    rw [hr, List.filter_cons_of_pos (p := fun e : Nat × DirEntry => e.2.nsid == 0) h0, List.head?_cons]
  rw [State.dirAnnounce, if_neg hn, dirFind_empty he]
  simp only [hfree, Option.some_or]
  rfl

/-- Where an entry has one holder, a LOOKUP that excludes nobody is answered with it. -/
theorem dirLookup_single {s : State} {nsid : BitVec 32} {name : BitVec 128} {x : Nat × DirEntry} {h : Holder} (hen : s.dirEn = true)
    (hf : s.dirFind nsid name = some x) (hx : x.2.holders = [(0, h)]) (hv : h.valid = true) :
    s.dirLookup nsid name none = some (x.2.depth, [h]) := by
  have hlisted : ([h].filter fun y => y.valid && some y.pkg != none) = [h] := List.filter_cons_of_pos (by rw [hv]; rfl)
  simp only [State.dirLookup, hen, hf, hx, List.map_cons, List.map_nil, hlisted]
  rfl

/-- A first announce is found by a LOOKUP. -/
theorem dirLookup_dirAnnounce {s : State} {nsid : BitVec 32} {name : BitVec 128} {h : Holder} (hd : DirRegion s) (hn : nsid ≠ 0)
    (hv : h.valid = true) (hen : s.dirEn = true) (he : ∀ e ∈ s.dirSetOf name, e.2.nsid = 0) (depth : BitVec 16) :
    (s.dirAnnounce nsid name depth h).dirLookup nsid name none = some (depth, [h]) := by
  have hmem : s.dirHead name ∈ s.dirSetOf name := (dirSetOf_cons s name).choose_spec ▸ List.mem_cons_self
  have hget := dirGet_dirPut_of_mem hd hmem (DirEntry.first nsid name depth h s.devtime)
  rw [ofBits_bits_first _ _ _ _ _ hv] at hget
  have hput := dirPut_storage s (s.dirHead name).1 (DirEntry.first nsid name depth h s.devtime)
  rw [dirAnnounce_empty hn he]
  generalize s.dirPut (s.dirHead name).1 (DirEntry.first nsid name depth h s.devtime) = t at hget hput ⊢
  have hhead : (t.dirHead name).2 = DirEntry.first nsid name depth h s.devtime := by rw [← hget, ← hput.dirHead_addr]; rfl
  have hfind := dirFind_head (s := t) (name := name) hn (by rw [hhead]; rfl) (by rw [hhead]; rfl)
  rw [dirLookup_single (hput.dirEn.trans hen) hfind (by rw [hhead]; rfl) hv, hhead]
  rfl

theorem ofBits_nsid (b : BitVec 512) : (DirEntry.ofBits b).nsid = b.extractLsb' 352 32 := rfl

/-- An entry without holders is empty (R55). -/
theorem bits_noHolder {e : DirEntry} (h : e.holders = []) : e.bits = 0#512 := by
  rw [DirEntry.bits, h]
  rfl

/-- An entry whose only holder withdraws is empty. -/
theorem dirWithdraw_last {s : State} {nsid : BitVec 32} {name : BitVec 128} {depth : BitVec 16} {pkg : BitVec 12} {x : Nat × DirEntry}
    (hd : DirRegion s) (h0 : depth ≠ 0) (hf : s.dirFind nsid name = some x) (hp : ∀ y ∈ x.2.holders, y.2.pkg = pkg)
    (hne : x.2.holders ≠ []) : ((s.dirWithdraw nsid name depth pkg).dirGet x.1).nsid = 0#32 := by
  have hany : x.2.holders.any (fun h => h.2.pkg == pkg) = true := by
    obtain ⟨y, hy⟩ := List.exists_mem_of_ne_nil _ hne
    exact List.any_eq_true.mpr ⟨y, hy, beq_iff_eq.mpr (hp y hy)⟩
  have hnone : x.2.holders.filter (fun h => h.2.pkg != pkg) = [] :=
    List.filter_eq_nil_iff.mpr fun y hy => by rw [hp y hy, bne_self_eq_false]; exact Bool.false_ne_true
  rw [State.dirWithdraw, if_neg h0]
  simp only [hf]
  rw [State.dirDrop, if_pos hany, hnone, dirGet_dirPut_of_mem hd (List.mem_of_find?_eq_some hf), bits_noHolder rfl, ofBits_nsid,
    BitVec.extractLsb'_zero]

theorem mem_insHolder {y h : Holder} {l : List Holder} (hy : y ∈ insHolder l h) : y = h ∨ y ∈ l := by
  induction l with
  | nil => exact .inl (List.mem_singleton.mp hy)
  | cons x r ih =>
    unfold insHolder at hy
    split at hy
    · exact List.mem_cons.mp hy
    · rcases List.mem_cons.mp hy with rfl | hy
      · exact .inr List.mem_cons_self
      · exact (ih hy).imp_right (List.mem_cons_of_mem x)

/-- A LOOKUP is answered with valid holders, none of them the excluded one (R56). -/
theorem dirLookup_holders {s : State} {nsid : BitVec 32} {name : BitVec 128} {excl : Option (BitVec 12)} {x : BitVec 16 × List Holder}
    (hx : s.dirLookup nsid name excl = some x) : ∀ y ∈ x.2, y.valid = true ∧ some y.pkg ≠ excl := by
  have hsorted (hs : List Holder) : ∀ y ∈ (hs.filter fun h => h.valid && some h.pkg != excl).foldl insHolder [],
      y.valid = true ∧ some y.pkg ≠ excl :=
    List.foldlRecOn (motive := fun l => ∀ y ∈ l, y.valid = true ∧ some y.pkg ≠ excl) _ insHolder (fun y hy => absurd hy List.not_mem_nil)
      fun l hl h hh y hy => by
        rcases mem_insHolder hy with rfl | hy
        · simpa using (List.mem_filter.mp hh).2
        · exact hl y hy
  unfold State.dirLookup at hx
  split at hx
  · cases hx
  split at hx
  · cases hx
  dsimp only at hx
  split at hx
  · cases hx
  · cases hx
    exact hsorted _

/-! ## A message that has arrived (R49, R50, R52, R62) -/

/-- A message that R52 does not discard is handled by its unit; with nothing to send it with, it stays. -/
theorem onMessage_arrived {s u : State} {op : Byte} {src : Option (BitVec 12)} {m : DirMsg} {body : List Byte} {pn : BitVec 4}
    {who : BitVec 12} (h : Arrived s u op src m body pn who) (f : BitVec 12 → Option (BitVec 4) → State → Option State) :
    s.onMessage op src m body f = ((f who (if op = 1 ∨ op = 5 then some pn else none) u).map fun s => s.pump pn).getD s := by
  obtain ⟨rfl, h0, h8, h9, hr, v, n, hf, rfl⟩ := h
  have hop : (m.op == 0) = false := beq_eq_false_iff_ne.mpr fun e => by rw [e] at h0; exact absurd h0 (by decide)
  have hbad : (DirMsg.bad m || false) = false := by
    simp only [DirMsg.bad, hop, hr, Nat.not_lt.mpr h8, Nat.not_lt.mpr h9, decide_false, Bool.or_false]
  have hkeep : (m.op == 0x01 || m.op == 0x05) = decide (m.op = 1 ∨ m.op = 5) := by
    rw [Bool.eq_iff_iff, Bool.or_eq_true, beq_iff_eq, beq_iff_eq, decide_eq_true_eq]
  unfold State.onMessage
  simp only [hf, hbad, hkeep, bne_self_eq_false, Bool.false_eq_true, if_false, decide_eq_true_eq]

theorem event_onMessage {s u w : State} {op : Byte} {src : Option (BitVec 12)} {m : DirMsg} {body : List Byte} {pn : BitVec 4}
    {who : BitVec 12} (h : Arrived s u op src m body pn who) {f : BitVec 12 → Option (BitVec 4) → State → Option State}
    (hw : f who (if op = 1 ∨ op = 5 then some pn else none) u = some w) :
    event (fun s => s.onMessage op src m body f) s = .next (w.pump pn) := by
  rw [event, onMessage_arrived h, hw, Option.map_some, Option.getD_some]

/-! ## An answer that leaves (R29, R62) -/

theorem sendDir_isSome {s : State} {dst : BitVec 12} {m : DirMsg} {po : BitVec 4} (h : s.routeTo dst (dirFlow m) = some po)
    (extra : List (List Byte)) (data : List Byte) : (s.sendDir dst m extra data).isSome = true := by
  rw [State.sendDir, State.sendMsg, h]
  rfl

theorem answerTo_isSome {u : State} {who : BitVec 12} {a : DirMsg} (h : CanAnswer u who a) (data : List Byte) (node : Option (BitVec 32))
    (src : Option (BitVec 4)) : (u.answerTo who a data node src).isSome = true := by
  obtain ⟨po, hr, hc, hq⟩ := h
  have hany : (u.port po).txq.any (fun (f : Flit) => Flit.vc f == dirVc a.op) = false :=
    List.any_eq_false.mpr fun f hf => by simpa using hq f hf
  unfold State.answerTo
  simp only [hr, hany, Nat.ne_of_gt hc, decide_false, Bool.or_false, Bool.false_eq_true, if_false]
  exact sendDir_isSome (s := u.setPort po _) hr [] data

/-! ## Outstanding requests (R60, R61) -/

theorem takeReq_released {s : State} {tag : BitVec 16} (h : ∀ x ∈ s.dirReqs, x.tag ≠ tag) (op : Byte) : s.takeReq tag op = none := by
  have hf : s.dirReqs.find? (fun r => r.tag == tag && r.op == op) = none :=
    List.find?_eq_none.mpr fun x hx => by simp [h x hx]
  rw [State.takeReq, hf, Option.map_none]

theorem takeReq_only {s : State} {r : DirReq} {tag : BitVec 16} {op : Byte} (h : s.dirReqs = [r]) (ht : r.tag = tag) (ho : r.op = op) :
    s.takeReq tag op = some (r, { s with dirReqs := [] }) := by
  subst ht ho
  simp [State.takeReq, h]

/-- A search whose LOOKUP finds no holder is over (R230). -/
theorem lookupAnswered_miss (s : State) {r : DirReq} (h : r.msg.op = 1) (depth : BitVec 16) :
    s.lookupAnswered r depth [] = s.modCmd r.tile .salt r.seq fun c => { c with prog := 3 } := by
  rw [State.lookupAnswered, h]
  rfl

/-- The last REPLICATE of a run is answered OK: the run is done with CODE 0 (R59). -/
theorem replAnswered_last {s : State} {c : BitVec 32} (hi : s.repl.inflight = some c) (ht : s.repl.todo = []) :
    (s.replAnswered 0).repl = { s.repl with
      go := false, code := 0, last := 0, count := s.repl.count + 1, todo := [], inflight := none } := by
  have hd := decRef_repl s c
  simp only [State.replAnswered, hi, if_true, State.replNext, hd, ht, State.replDone]

/-! ## The messages and events -/

section
variable {s u w : State} {src who : BitVec 12} {m : DirMsg} {pn : BitVec 4} {h : Holder} {l : List Holder} {r : DirReq} {data : List Byte}

theorem announce_lists (ha : Arrived s u 3 (some src) m [] pn who) (hm : m.holders = h :: l) (hv : h.valid = true) (he : u.dirEn = true) :
    exec (.announce src m) s = .next ((u.dirAnnounce m.nsid m.name m.depth h).pump pn) := by
  refine (event_onMessage ha ?_ : execAnnounce src m s = _)
  simp only [hm, List.head?_cons, he, hv, Bool.and_self, if_true]

theorem withdraw_removes (ha : Arrived s u 4 (some src) m [] pn who) (hm : m.holders = h :: l) (hv : h.valid = true) (he : u.dirEn = true) :
    exec (.withdraw src m) s = .next ((u.dirWithdraw m.nsid m.name m.depth h.pkg).pump pn) := by
  refine (event_onMessage ha ?_ : execWithdraw src m s = _)
  simp only [hm, List.head?_cons, he, hv, Bool.and_self, if_true]

/-- A home whose directory traffic is disabled ignores a WITHDRAW (R54, R55). -/
theorem withdraw_ignored (ha : Arrived s u 4 (some src) m [] pn who) (he : u.dirEn = false) : exec (.withdraw src m) s = .next (u.pump pn) := by
  refine (event_onMessage ha ?_ : execWithdraw src m s = _)
  cases m.holders.head? with
  | none => rfl
  | some h => simp only [he, Bool.false_and, Bool.false_eq_true, if_false]

/-- What the home answers to a LOOKUP (R56). -/
def State.lookupAnswer (s : State) (m : DirMsg) : DirMsg :=
  match s.dirLookup m.nsid m.name m.excl with
  | some x => { reply 2 0 m with depth := x.1, holders := x.2 }
  | none => reply 2 1 m

theorem lookup_answers (ha : Arrived s u 1 (some src) m [] pn who) (hw : u.answerTo who (u.lookupAnswer m) [] none (some pn) = some w) :
    exec (.lookup src m) s = .next (w.pump pn) := by
  refine (event_onMessage ha (Eq.trans ?_ hw) : execLookup src m s = _)
  unfold State.lookupAnswer
  cases u.dirLookup m.nsid m.name m.excl <;> rfl

theorem answerFetch_unknown (h : u.probe m.nsid m.name = none) : u.answerFetch m = (1, [], none) := by
  rw [State.answerFetch, h]

theorem fetch_misses (ha : Arrived s u 5 (some src) m [] pn who) (hp : u.probe m.nsid m.name = none)
    (hw : u.answerTo who (reply 6 1 m) [] none (some pn) = some w) : exec (.fetch src m) s = .next (w.pump pn) := by
  refine (event_onMessage ha (Eq.trans ?_ hw) : execFetch src m s = _)
  simp only [answerFetch_unknown hp]
  rfl

theorem fetch_answers {n : BitVec 32} (ha : Arrived s u 5 (some src) m [] pn who) (hf : u.answerFetch m = (0, data, some n))
    (hw : (u.incRef n).answerTo who { reply 6 0 m with offset := m.offset, length := m.length } data (some n) (some pn) = some w) :
    exec (.fetch src m) s = .next (w.pump pn) := by
  refine (event_onMessage ha (Eq.trans ?_ hw) : execFetch src m s = _)
  simp only [hf]
  rfl

/-- An answer whose tag was released is discarded (R61). -/
theorem fetchR_discarded (ha : Arrived s u 6 none m data pn who) (hr : ∀ x ∈ u.dirReqs, x.tag ≠ m.tag) :
    exec (.fetchR m data) s = .next (u.pump pn) := by
  refine (event_onMessage ha ?_ : execFetchR m data s = _)
  simp only [takeReq_released hr]

theorem fetchR_ends (ha : Arrived s u 6 none m data pn who) (hq : u.dirReqs = [r]) (ht : r.tag = m.tag) (ho : r.op = 5) (h0 : m.status = 0)
    (hl : m.length = r.msg.length) (hd : data.length = m.length.toNat) :
    exec (.fetchR m data) s = .next ((State.fetchEnd { u with dirReqs := [] } r (some data)).pump pn) := by
  refine (event_onMessage ha ?_ : execFetchR m data s = _)
  simp only [takeReq_only hq ht ho, h0, ← hl, hd, beq_self_eq_true, decide_true, Bool.and_self, if_true]

theorem lookupR_misses (ha : Arrived s u 2 none m [] pn who) (hq : u.dirReqs = [r]) (ht : r.tag = m.tag) (ho : r.op = 1)
    (hm : r.msg.op = 1) (h1 : m.status = 1) : exec (.lookupR m) s =
      .next ((State.modCmd { u with dirReqs := [] } r.tile .salt r.seq fun c => { c with prog := 3 }).pump pn) := by
  refine (event_onMessage ha ?_ : execLookupR m s = _)
  have hs : ¬ m.status = 0 := by rw [h1]; decide
  simp only [takeReq_only hq ht ho, if_neg hs, lookupAnswered_miss _ hm]

theorem replicate_answers {parent : BitVec 128} {toks : List (BitVec 32)} {a : Byte × State}
    (ha : Arrived s u 7 (some src) m (nameBytes parent ++ (toks.flatMap fun t => leBytes 4 t.toNat) ++ data) pn who)
    (ht : u.takeBlock m parent toks data = some a) (hw : a.2.answerTo who (reply 8 a.1 m) [] none none = some w) :
    exec (.replicate src m parent toks data) s = .next (w.pump pn) := by
  refine (event_onMessage ha (Eq.trans ?_ hw) : execReplicate src m parent toks data s = _)
  rw [ht]
  rfl

/-- A block of a namespace that the target has not registered is not taken (R58). -/
theorem takeBlock_unregistered (h : u.ns? m.nsid = none) (parent : BitVec 128) (toks : List (BitVec 32)) (data : List Byte) :
    u.takeBlock m parent toks data = some (3, u) := by
  rw [State.takeBlock, h]

theorem replicateR_last {c : BitVec 32} (ha : Arrived s u 8 none m [] pn who) (hq : u.dirReqs = [r]) (ht : r.tag = m.tag) (ho : r.op = 7)
    (h0 : m.status = 0) (hi : u.repl.inflight = some c) (hd : u.repl.todo = []) : ∃ t, exec (.replicateR m) s = .next t ∧
      t.repl = { u.repl with go := false, code := 0, last := 0, count := u.repl.count + 1, todo := [], inflight := none } := by
  refine ⟨(State.replAnswered { u with dirReqs := [] } 0).pump pn, ?_, ?_⟩
  · refine (event_onMessage ha ?_ : execReplicateR m s = _)
    simp only [takeReq_only hq ht ho, h0]
  · rw [pump_repl]
    exact replAnswered_last hi hd
end

section
variable {s : State} {r : DirReq} {tag : BitVec 16}

theorem directoryRequestTimeout_released (h : ∀ x ∈ s.dirReqs, x.tag ≠ tag) : exec (.directoryRequestTimeout tag) s = .next s := by
  have hf : s.dirReqs.find? (fun r => r.tag == tag) = none := List.find?_eq_none.mpr fun x hx => by simpa using h x hx
  show execDirectoryRequestTimeout tag s = _
  simp only [execDirectoryRequestTimeout, event, hf]

theorem directoryRequestTimeout_only (hq : s.dirReqs = [r]) (ht : r.tag = tag) : exec (.directoryRequestTimeout tag) s =
    .next (if s.cy < r.sentAt + 1300000 then s else State.askFailed { s with dirReqs := [] } r 0x09) := by
  subst ht
  show execDirectoryRequestTimeout r.tag s = _
  simp [execDirectoryRequestTimeout, event, hq]

theorem askFailed_search (ho : r.op = 1) (hm : r.msg.op = 1) (st : Byte) :
    s.askFailed r st = s.modCmd r.tile .salt r.seq fun c => { c with prog := 3 } := by
  rw [State.askFailed, ho]
  exact lookupAnswered_miss s hm 0

theorem replicationRun_idle (h : s.repl.go = false) : exec .replicationRun s = .next s := by
  show execReplicationRun s = _
  simp only [execReplicationRun, event, h, Bool.not_false, Bool.true_or, if_true]
end

/-- A descriptor of the replication unit asks for one node, and the unit may send that node (R59). -/
structure State.SendsOne (s : State) (d : BitVec 256) : Prop where
  reserved : d.extractLsb' 0 177 = 0
  single : d.getLsbD 177 = false
  tier : d.extractLsb' 178 2 ≠ 3
  target : d.extractLsb' 180 12 ≠ s.pkgid
  inRange : s.hRange (d.extractLsb' 224 32) = false
  fresh : s.hStale (d.extractLsb' 224 32) = false
  sealed : (s.node (d.extractLsb' 224 32)).st = .sealed
  owned : (s.node (d.extractLsb' 224 32)).nsid = d.extractLsb' 192 32
  shared : (s.ns? (d.extractLsb' 192 32)).map (·.shared) = some true

/-- A run that is asked for counts from 0. -/
def State.replZeroed (s : State) : State := { s with repl := { s.repl with count := 0 } }

/-- The unit reads a good descriptor of one node and sends that node (R59). -/
theorem replicationRun_sends {s : State} {bs : List PByte} {d : BitVec 256} (hg : s.repl.go = true) (hi : s.repl.inflight = none)
    (hb : s.replZeroed.devRead 0 s.repl.desc 32 = some bs) (hp : (pNat bs).2 = false) (hd : BitVec.ofNat 256 (pNat bs).1 = d)
    (ho : s.replZeroed.SendsOne d) :
    exec .replicationRun s = .next (State.replNext { s.replZeroed with repl := { s.replZeroed.repl with
      todo := [d.extractLsb' 224 32], target := d.extractLsb' 180 12, tier := d.extractLsb' 178 2 } }) := by
  have hdesc : s.replZeroed.repl.desc = s.repl.desc := rfl
  have hrun : ¬ (!s.repl.go || s.repl.inflight.isSome) = true := by rw [hg, hi]; decide
  show execReplicationRun s = _
  unfold execReplicationRun event
  beta_reduce
  rw [if_neg hrun]
  generalize hz : s.replZeroed = z at *
  rw [show ({ s with repl := { s.repl with count := 0 } } : State) = z from hz]
  obtain ⟨hr, hs, ht, hk, hin, hst, hse, hn, hsh⟩ := ho
  have hbad : ((pNat bs).2 || d.extractLsb' 0 177 != 0 || d.extractLsb' 178 2 == 3 || d.extractLsb' 180 12 == z.pkgid) = false := by
    rw [hp, hr, beq_false_of_ne ht, beq_false_of_ne hk]
    rfl
  simp only [hdesc, hb, hd, hbad, hin, hst, hse, hn, hsh, hs, bne_self_eq_false, Option.getD_some, Bool.or_self, Bool.not_true,
    Bool.false_eq_true, if_false]

/-- Settles O46, message by message: what a home, a holder, a requester and the replication unit do. Beside R54 to R62 the clauses rest on
choices of the assumption log: an answer that is not OK carries OFFSET and LENGTH 0 (52), answers begin when a credit is free (32), and the
timeout of a request is counted in steps (9). -/
theorem directoryEvents : Obligations.DirectoryEvents := by
  unfold Obligations.DirectoryEvents
  intro s u src m pn who h l r data tag parent toks c
  refine ⟨announce_lists, fun hd hn hv he hs => dirLookup_dirAnnounce hd hn hv he hs m.depth, withdraw_removes,
    fun a e hd h0 hf hp hne => dirWithdraw_last (x := (a, e)) hd h0 hf hp hne, withdraw_ignored, fun w ha => ?_, fun w => fetch_misses,
    fun b n w => fetch_answers, fetchR_discarded, fetchR_ends, lookupR_misses,
    fun w ha hn => replicate_answers (a := (3, u)) ha (takeBlock_unregistered hn parent toks data), fun a w => replicate_answers,
    fun ha hq ht ho h0 hi hd => ?_, directoryRequestTimeout_released, fun hq ht hc => ?_, fun hq ht hc ho hm => ?_,
    replicationRun_idle, ?_⟩
  · exact ⟨fun x => dirLookup_holders, fun hc => answerTo_isSome hc [] none (some pn), lookup_answers ha⟩
  · obtain ⟨t, ht, hr⟩ := replicateR_last ha hq ht ho h0 hi hd
    refine ⟨t, ht, ?_⟩
    rw [hr]
    exact ⟨rfl, rfl, rfl, rfl⟩
  · rw [directoryRequestTimeout_only hq ht, if_pos hc]
  · rw [directoryRequestTimeout_only hq ht, if_neg (Nat.not_lt.mpr hc), askFailed_search ho hm]
  · intro bs z hg hi hb d g hp hres hone htier hpkg hin hst hse hns hsh
    exact replicationRun_sends hg hi hb hp rfl ⟨hres, hone, htier, hpkg, hin, hst, hse, hns, hsh⟩

end Sys2Proof.Machine
end

section
/-! PROOFS. Queue programs (chapter 03, R79 to R84): what each word of a program does to its unit, its queue and memory. -/

namespace Sys2Proof.Machine
open Sys2Proof.Says

/-! ## Units -/

@[simp] theorem State.unit_setUnit (s : State) (k : BitVec 4) (x : Interp) : (s.setUnit k x).unit k = x :=
  vget_vset_self _ _ _ _ k.isLt
@[simp] theorem State.queue_setUnit (s : State) (k : BitVec 4) (x : Interp) (n : BitVec 10) : (s.setUnit k x).queue n = s.queue n := rfl

/-! ## One step of a run (R84) -/

/-- The unit as a word of its program finds it: the step that it executes is counted. -/
def Interp.counted (x : Interp) : Interp := { x with steps := x.steps + 1 }

/-- Unit `k` has the turn, runs a program, and may still execute a word. -/
structure State.Runs (s : State) (k : BitVec 4) : Prop where
  turn : s.cur = .interp k
  running : (s.unit k).running = true
  steps : (s.unit k).steps < 256

section
variable {s t : State} {k : BitVec 4} {i : Instr} {y : Interp} {p : Packet}

theorem qInstr_interp (hc : s.cur = .interp k) (f : Interp → State → QEff) : qInstr f s = .next (s.qStep k f) := by
  rw [qInstr, hc]

theorem qHalt_packet (hp : (s.unit k).packet = some p) (st : Byte) (pois : Bool) :
    s.qHalt k st pois = (s.setUnit k Interp.reset).haltPacket p st (s.unit k).header pois := by
  rw [State.qHalt, hp]

/-- The 257th step halts the queue. -/
theorem qStep_exhausted (hr : (s.unit k).running = true) (hs : 256 ≤ (s.unit k).steps) (f : Interp → State → QEff) :
    s.qStep k f = s.qHalt k 0x16 false := by
  rw [State.qStep, hr, if_neg (by decide), if_pos hs]

/-- What the effect of a word leaves, when the unit stood as `x` (R84). -/
def State.afterQEff (s : State) (k : BitVec 4) (x : Interp) : QEff → State
  | .next t y => t.setUnit k (y.goto (y.pc + 1))
  | .jump y d => s.setUnit k (y.goto (y.pc + d))
  | .halt st pois => State.qHalt { s with hostFails := false } k st pois
  | .disp => s.qDispatch k x
  | .drop c => s.qDrop k x c

theorem qStep_effect (hr : (s.unit k).running = true) (hs : (s.unit k).steps < 256) (f : Interp → State → QEff) :
    s.qStep k f = s.afterQEff k (s.unit k).counted (f (s.unit k).counted s) := by
  rw [State.qStep, if_neg (by rw [hr]; decide), if_neg (Nat.not_le.mpr hs)]
  rfl

/-- A word that goes on with the next one. `y` is the unit but for the count of its steps. -/
theorem exec_ran (he : exec i s = qInstr (qEff i) s) (hr : s.Runs k) (hf : qEff i (s.unit k).counted s = .next t y.counted) :
    exec i s = .next (ran t k y 1) := by
  rw [he, qInstr_interp hr.turn, qStep_effect hr.running hr.steps, hf]
  rfl

theorem exec_jumped {d : Nat} (he : exec i s = qInstr (qEff i) s) (hr : s.Runs k)
    (hf : qEff i (s.unit k).counted s = .jump y.counted d) : exec i s = .next (ran s k y d) := by
  rw [he, qInstr_interp hr.turn, qStep_effect hr.running hr.steps, hf]
  rfl

/-- A word that halts the queue; a failure of the host's memory is over with it. -/
theorem exec_halted {st : Byte} {pois : Bool} (he : exec i s = qInstr (qEff i) s) (hr : s.Runs k) (hp : (s.unit k).packet = some p)
    (hf : qEff i (s.unit k).counted s = .halt st pois) :
    exec i s = .next ((State.setUnit { s with hostFails := false } k Interp.reset).haltPacket p st (s.unit k).header pois) := by
  rw [he, qInstr_interp hr.turn, qStep_effect hr.running hr.steps, hf, State.afterQEff, qHalt_packet (by exact hp)]
  rfl

theorem exec_exhausted (he : exec i s = qInstr (qEff i) s) (hc : s.cur = .interp k) (hr : (s.unit k).running = true)
    (hs : 256 ≤ (s.unit k).steps) (hp : (s.unit k).packet = some p) :
    exec i s = .next ((s.setUnit k Interp.reset).haltPacket p 0x16 (s.unit k).header false) := by
  rw [he, qInstr_interp hc, qStep_exhausted hr hs, qHalt_packet hp]

/-! ## Arithmetic, branches and the loop (R82) -/

/-- A register's new value stands beside the count of the step. -/
theorem wr_counted (x : Interp) (r : K4) (v : W64) : x.counted.wr r v = (gput x r v).counted := by
  unfold Interp.wr gput
  split <;> rfl

/-- A word whose one effect is a register's new value. -/
theorem exec_writes {d : K4} {v : W64} (he : exec i s = qInstr (qEff i) s) (hr : s.Runs k)
    (hf : qEff i (s.unit k).counted s = .next s ((s.unit k).counted.wr d v)) :
    exec i s = .next (ran s k (gput (s.unit k) d v) 1) :=
  exec_ran he hr (by rw [hf, wr_counted])

/-- A branch goes on by its distance, or with the next word. -/
theorem exec_branches {c : Bool} {v : BitVec 18} (he : exec i s = qInstr (qEff i) s) (hr : s.Runs k)
    (hf : qEff i (s.unit k).counted s = if c then .jump (s.unit k).counted v.toNat else .next s (s.unit k).counted) :
    exec i s = .next (ran s k (s.unit k) (if c = true then v.toNat else 1)) := by
  cases c with
  | true => exact exec_jumped he hr hf
  | false => exact exec_ran he hr hf

theorem shl_ofNat (a : W64) (n : Nat) : a <<< n = BitVec.ofNat 64 (a.toNat * 2 ^ n) := by
  apply BitVec.eq_of_toNat_eq
  rw [BitVec.toNat_shiftLeft, Nat.shiftLeft_eq, BitVec.toNat_ofNat]

theorem shr_ofNat (a : W64) (n : Nat) : a >>> n = BitVec.ofNat 64 (a.toNat / 2 ^ n) := by
  rw [← Nat.shiftRight_eq_div_pow, ← BitVec.toNat_ushiftRight, BitVec.ofNat_toNat, BitVec.setWidth_eq]

theorem low6_toNat (b : W64) : (b.extractLsb' 0 6).toNat = b.toNat % 64 := by
  rw [BitVec.extractLsb'_toNat, Nat.shiftRight_zero]

end

/-- Settles O36: each word's effect is read off `qEff`, and `exec_writes`, `exec_branches` and `exec_exhausted` say what becomes of it. -/
theorem queueProgramWordsCompute : Obligations.QueueProgramWordsCompute := by
  unfold Obligations.QueueProgramWordsCompute
  intro s k d a b v n c body x hc hr
  refine ⟨fun hs => ?_, fun p hp hs => ?_⟩
  · have hrun : s.Runs k := ⟨hc, hr, hs⟩
    refine ⟨?_, ?_, ?_, ?_, exec_writes rfl hrun rfl, ?_, exec_ran rfl hrun rfl⟩
    · simp only [queueOps, List.forall_mem_cons]
      refine ⟨exec_writes rfl hrun rfl, exec_writes rfl hrun rfl, exec_writes rfl hrun rfl, exec_writes rfl hrun rfl,
        exec_writes rfl hrun rfl, ?_, ?_, by simp⟩
      · rw [← low6_toNat, ← shl_ofNat]
        exact exec_writes rfl hrun rfl
      · rw [← low6_toNat, ← shr_ofNat]
        exact exec_writes rfl hrun rfl
    · simp only [queueImms, List.forall_mem_cons]
      exact ⟨exec_writes rfl hrun rfl, exec_writes rfl hrun rfl, exec_writes rfl hrun rfl, by simp⟩
    · rw [← shl_ofNat]
      exact exec_writes rfl hrun rfl
    · rw [← shr_ofNat]
      exact exec_writes rfl hrun rfl
    · simp only [queueBranches, List.forall_mem_cons]
      exact ⟨exec_branches rfl hrun rfl, exec_branches rfl hrun rfl, exec_branches rfl hrun rfl, by simp⟩
  · simp only [List.forall_mem_cons]
    exact ⟨exec_exhausted rfl hc hr hs hp, exec_exhausted rfl hc hr hs hp, exec_exhausted rfl hc hr hs hp, exec_exhausted rfl hc hr hs hp,
      exec_exhausted rfl hc hr hs hp, exec_exhausted rfl hc hr hs hp, by simp⟩

/-! ## The end of a program (R82, R84) -/

section
variable {s : State} {k : BitVec 4} {x : Interp} {p : Packet}

/-- A queue that halts while its unit stands as `x`. -/
theorem qHalt_setUnit (hp : x.packet = some p) (st : Byte) (pois : Bool) :
    (s.setUnit k x).qHalt k st pois = ((s.setUnit k x).setUnit k Interp.reset).haltPacket p st x.header pois := by
  rw [qHalt_packet (p := p) (by rw [State.unit_setUnit, hp]), State.unit_setUnit]

/-- The check that QDISP makes of the header in the buffer (R72, R84). -/
def State.dispCheck (s : State) (x : Interp) (p : Packet) : Byte :=
  headerCheck x.prog.isSome (s.queue p.queue).src x.ringN p.count (BitVec.ofNat 512 (leNat (Mem.gets x.buf 0 64)))

/-- The packet that QDISP dispatches: the buffer's words, to the LEN of the header there. -/
def Interp.sent (x : Interp) (p : Packet) : Packet := { p with words := toWords (Mem.gets x.buf 0 (64 * hdrLen x.header)) }

theorem qDispatch_refused (hp : x.packet = some p) (hc : s.dispCheck x p ≠ 0) :
    s.qDispatch k x = ((s.setUnit k x).setUnit k Interp.reset).haltPacket p (s.dispCheck x p) x.header false := by
  rw [← qHalt_setUnit hp, State.qDispatch, hp]
  exact if_pos hc

theorem qDispatch_odd (hp : x.packet = some p) (hc : s.dispCheck x p = 0) (ho : 0x80 ≤ (hdrType x.header).toNat ∨ hdrType x.header = 1) :
    s.qDispatch k x = ((s.setUnit k x).setUnit k Interp.reset).haltPacket p 0x19 x.header false := by
  rw [← qHalt_setUnit hp, State.qDispatch, hp]
  exact (if_neg (not_not_intro hc)).trans (if_pos (by simpa using ho))

theorem passPacket_ready (s : State) (k : BitVec 4) {p : Packet} (h : hdrType p.header ≠ 5) :
    s.passPacket k p = s.setUnit k { Interp.reset with packet := some p, ready := true } := by
  rw [State.passPacket, if_neg h]

theorem qDispatch_passes (hp : x.packet = some p) (hc : s.dispCheck x p = 0)
    (ho : ¬ (0x80 ≤ (hdrType x.header).toNat ∨ hdrType x.header = 1)) (hf : hdrType (x.sent p).header ≠ 5) :
    s.qDispatch k x = (s.setUnit k x).setUnit k { Interp.reset with packet := some (x.sent p), ready := true } := by
  rw [← passPacket_ready _ _ hf, State.qDispatch, hp]
  exact (if_neg (not_not_intro hc)).trans (if_neg (by simpa using ho))

end

/-- Settles O38: QDISP by the header that stands in the buffer, and QDROP. -/
theorem queueProgramsEnd : Obligations.QueueProgramsEnd := by
  unfold Obligations.QueueProgramsEnd
  intro s k c p x q head check odd sent s1 hcur hr hs hp
  have hpc : x.counted.packet = some p := hp
  have hdisp : exec .qdisp s = .next (s.qDispatch k x.counted) := by
    show qInstr (qEff .qdisp) s = _
    rw [qInstr_interp hcur, qStep_effect hr hs]
    rfl
  refine ⟨fun hc => ?_, fun hc ho => ?_, fun hc ho hh hf => ?_, ?_⟩
  · rw [hdisp, qDispatch_refused hpc hc]
    rfl
  · rw [hdisp, qDispatch_odd hpc hc ho]
    rfl
  · rw [← hh] at hf
    rw [hdisp, qDispatch_passes hpc hc ho hf]
    rfl
  · show qInstr (qEff (.qdrop c)) s = _
    rw [qInstr_interp hcur, qStep_effect hr hs]
    show Host.Outcome.next (s.qDrop k x.counted c) = _
    rw [State.qDrop, hpc]
    rfl

/-! ## Windows (R80, R82) -/

/-- A load from device memory that cannot be read halts the queue (R84); a failure of the host's memory is over with it. -/
theorem qld_absent_halts {s : State} {k : BitVec 4} {d a : K4} {wn : BitVec 3} {z : BitVec 2} {o : BitVec 13} {p : Packet} {prog : Program}
    {w : Window} (hr : s.Runs k) (hp : (s.unit k).packet = some p) (hg : (s.unit k).prog = some prog)
    (hw : prog.windows[wn.toNat]? = some w) (hk : w.kind = 2)
    (hd : s.devRead (s.queue p.queue).ctx (w.base + BitVec.ofNat 64 (winOff w.log2size ((s.unit k).rd a) o (2 ^ z.toNat))) (2 ^ z.toNat) = none) :
    exec (.qld d a wn z o) s =
      .next ((State.setUnit { s with hostFails := false } k Interp.reset).haltPacket p 0x18 (s.unit k).header false) := by
  refine exec_halted rfl hr hp ?_
  have hat : (s.unit k).counted.winAt ((s.unit k).rd a) wn z o =
      some (w, winOff w.log2size ((s.unit k).rd a) o (2 ^ z.toNat), 2 ^ z.toNat) := by
    show (s.unit k).prog.bind _ = _
    rw [hg, Option.bind_some, hw, Option.map_some]
  have hq : (s.unit k).counted.qn = p.queue := by
    show ((s.unit k).packet.map _).getD 0 = _
    rw [hp]
    rfl
  show qLoad (s.unit k).counted s d ((s.unit k).rd a) wn z o = _
  rw [qLoad, hat]
  simp only [hk, hq, hd]
  rfl

@[simp] theorem State.raiseErr_hostFails (s : State) (e : ErrRec) : (s.raiseErr e).hostFails = s.hostFails := by
  unfold State.raiseErr
  dsimp only
  split_ifs <;> rfl

/-- A packet that halts its queue leaves a failure of the host's memory pending (R88). -/
theorem haltPacket_hostFails (s : State) (p : Packet) (st : Byte) (h : W64) (pois : Bool) :
    (s.haltPacket p st h pois).hostFails = s.hostFails := by
  unfold State.haltPacket State.haltQueue
  exact State.raiseErr_hostFails ..

/-- Unit 0 runs a program whose one window lies beyond the virtual addresses (R197), and the next access of a unit to the host's memory
is to fail. -/
def beyondAddresses : State :=
  let w : Window := { base := 2 ^ 63, log2size := 6, kind := 2, wr := true, rd := true }
  State.setUnit { State.reset with cur := .interp 0, hostFails := true } 0 { Interp.reset with
    packet := some { id := 0, queue := 0, count := 0, len := 1, words := [] }, prog := some { words := [], windows := [w] }, running := true }

/-- Refutes O37 in its clause of a QLD from device memory that cannot be read: the statement speaks of every state, also of one in which a
failure of the host's memory is pending. A word that halts its queue ends that failure (`qld_absent_halts`), and the statement's next state
still has it. -/
theorem not_queueProgramWindows : ¬ Obligations.QueueProgramWindows := by
  unfold Obligations.QueueProgramWindows
  intro h
  obtain ⟨-, -, hdev, -⟩ := h beyondAddresses 0 0 0 0 0 0 _ _ _ rfl rfl (by decide) rfl rfl rfl
  obtain ⟨-, habsent, -⟩ := hdev rfl
  have hsays := habsent (by decide +kernel)
  rw [qld_absent_halts ⟨rfl, rfl, by decide⟩ rfl rfl rfl rfl (by decide +kernel)] at hsays
  have hfails := congrArg State.hostFails (Host.Outcome.next.inj hsays)
  rw [haltPacket_hostFails, haltPacket_hostFails] at hfails
  exact Bool.false_ne_true hfails

end Sys2Proof.Machine
end

section
/-! PROOFS. What the homes, the channels to them and the recalls of copies (R245 to R256) leave as it is: host queues, launches, and of a
tile everything but the copies in its L1D, of which none becomes dirty. -/

namespace Sys2Proof.Machine

/-! ## The relation -/

/-- No copy holds bytes that its tile has stored and not written back. -/
def L1Clean (l : List L1Line) : Prop := ∀ x ∈ l, x.dmask = 0

/-- The tiles differ at most in the copies of the L1D, and a clean L1D stays clean. -/
def Tile.L1Only (t u : Tile) : Prop := ∃ l, u = { t with l1 := l } ∧ (L1Clean t.l1 → L1Clean l)

theorem Tile.L1Only.refl (t : Tile) : t.L1Only t := ⟨t.l1, rfl, id⟩

theorem Tile.L1Only.trans {t u v : Tile} (h1 : t.L1Only u) (h2 : u.L1Only v) : t.L1Only v := by
  obtain ⟨l, rfl, hl⟩ := h1
  obtain ⟨m, rfl, hm⟩ := h2
  exact ⟨m, rfl, fun h => hm (hl h)⟩

theorem Tile.l1Only_del (t : Tile) (n : Nat) : t.L1Only (t.l1Del n) :=
  ⟨_, rfl, fun h x hx => h x (List.mem_of_mem_filter hx)⟩

theorem Tile.l1Only_set {t : Tile} {x : L1Line} (hx : L1Clean t.l1 → x.dmask = 0) : t.L1Only (t.l1Set x) := by
  refine ⟨_, rfl, fun h y hy => ?_⟩
  split at hy
  · obtain ⟨z, hz, rfl⟩ := List.mem_map.mp hy
    split
    · exact hx h
    · exact h z hz
  · rcases List.mem_append.mp hy with hy | hy
    · exact h y hy
    · rw [List.mem_singleton.mp hy]
      exact hx h

/-- What homes, channels and recalls leave of a state. -/
structure State.HomeSide (s t : State) : Prop where
  queues : t.queues = s.queues
  launches : t.launches = s.launches
  tile : ∀ g, (s.tile g).L1Only (t.tile g)

theorem State.HomeSide.refl (s : State) : s.HomeSide s := ⟨rfl, rfl, fun _ => .refl _⟩

theorem State.HomeSide.trans {s t u : State} (h1 : s.HomeSide t) (h2 : t.HomeSide u) : s.HomeSide u :=
  ⟨h2.queues.trans h1.queues, h2.launches.trans h1.launches, fun g => (h1.tile g).trans (h2.tile g)⟩

/-- An update that touches none of these tables. -/
theorem State.HomeSide.of_tables {s t : State} (hq : t.queues = s.queues) (hl : t.launches = s.launches) (ht : t.tiles = s.tiles) :
    s.HomeSide t := by
  refine ⟨hq, hl, fun g => ?_⟩
  rw [show t.tile g = s.tile g from congrArg (fun x => Tab.get Tile.reset x g.toNat) ht]
  exact .refl _

theorem State.HomeSide.foldl {α : Type} {f : State → α → State} (h : ∀ (s : State) x, s.HomeSide (f s x)) (l : List α) (s : State) :
    s.HomeSide (l.foldl f s) :=
  List.foldlRecOn l f (.refl s) fun t ht x _ => ht.trans (h t x)

theorem State.HomeSide.queue {s t : State} (h : s.HomeSide t) (n : BitVec 10) : t.queue n = s.queue n :=
  congrArg (fun x => Tab.get Queue.reset x n.toNat) h.queues

theorem State.HomeSide.launch? {s t : State} (h : s.HomeSide t) (n : Nat) : t.launch? n = s.launch? n :=
  congrArg (fun x => Tab.get? x n) h.launches

theorem State.StorageOnly.homeSide {s t : State} (h : s.StorageOnly t) : s.HomeSide t := by
  obtain ⟨_, _, _, _, rfl⟩ := h
  exact .of_tables rfl rfl rfl

theorem modTile_homeSide {s : State} {g : BitVec 8} {f : Tile → Tile} (h : (s.tile g).L1Only (f (s.tile g))) : s.HomeSide (s.modTile g f) := by
  refine ⟨rfl, rfl, fun k => ?_⟩
  by_cases hk : k = g
  · rw [hk, State.tile_modTile]
    exact h
  · rw [State.tile_modTile_of_ne _ _ hk]
    exact .refl _

/-! ## Homes, channels, holders -/

theorem setDie_homeSide (s : State) (d : BitVec 2) (x : Die) : s.HomeSide (s.setDie d x) := .of_tables rfl rfl rfl
theorem setHome_homeSide (s : State) (h : BitVec 3) (x : Home) : s.HomeSide (s.setHome h x) := .of_tables rfl rfl rfl
theorem setChan_homeSide (s : State) (d : BitVec 2) (h : BitVec 3) (l : List ChanEnt) : s.HomeSide (s.setChan d h l) := setDie_homeSide ..
theorem setHolders_homeSide (s : State) (line : Nat) (r : HomeLine) : s.HomeSide (s.setHolders line r) := .of_tables rfl rfl rfl

theorem unhold_homeSide (s : State) (line u : Nat) : s.HomeSide (s.unhold line u) := by
  unfold State.unhold
  dsimp only
  split
  · exact .of_tables rfl rfl rfl
  · exact setHolders_homeSide ..

theorem landWrite_homeSide (s : State) (ctx : BitVec 16) (key : BitVec 12) (line : Nat) (m : BitVec 64) (v : BitVec 512) (p : Bool)
    (vc : Vector W64 4) : s.HomeSide (s.landWrite ctx key line m v p vc) :=
  (wrLine_storage s ctx key line m v p).homeSide.trans (setHome_homeSide ..)

theorem land_homeSide (w : HomeWrite) (s : State) : s.HomeSide (w.land s) := landWrite_homeSide ..
theorem mergeBack_homeSide (s : State) (u : Nat) (l : L1Line) : s.HomeSide (s.mergeBack u l) := landWrite_homeSide ..

/-- A holder's L1D changes: a tile's, or the one in an image. -/
theorem modHolder_homeSide {s : State} {u : Nat} {f : Tile → Tile} (h : (s.holder u).L1Only (f (s.holder u))) :
    s.HomeSide (s.modHolder u f) := by
  unfold State.modHolder
  unfold State.holder at h
  by_cases hu : u < 256
  · rw [if_pos hu] at h ⊢
    exact modTile_homeSide h
  · rw [if_neg hu]
    split
    · exact .of_tables rfl rfl rfl
    · exact .refl _

theorem l1Get_mem {t : Tile} {n : Nat} {l : L1Line} (h : t.l1Get n = some l) : l ∈ t.l1 := List.mem_of_find?_eq_some h

/-! ## Copies that are given up, recalled or written back (R249, R250) -/

theorem invalidate_homeSide (s : State) (line u : Nat) (m : BitVec 64) : s.HomeSide (s.invalidate line u m) := by
  unfold State.invalidate
  split
  · exact unhold_homeSide ..
  · next l hl =>
    split
    · exact unhold_homeSide ..
    · exact modHolder_homeSide (Tile.l1Only_set fun hc => hc l (l1Get_mem hl))

theorem clearValid_homeSide (s : State) (line : Nat) (g : Option (BitVec 8)) (m : BitVec 64) : s.HomeSide (s.clearValid line g m) :=
  .foldl (fun t h => by
    split
    · exact .refl _
    · exact invalidate_homeSide ..) _ s

theorem pullOwn_homeSide (s : State) (line u : Nat) : s.HomeSide (s.pullOwn line u) := by
  unfold State.pullOwn
  dsimp only
  split
  · exact .refl _
  · refine (setChan_homeSide ..).trans ((setDie_homeSide ..).trans (.foldl (fun t w => ?_) _ _))
    split
    · exact land_homeSide ..
    · exact (land_homeSide w t).trans (unhold_homeSide ..)
    · exact (land_homeSide w t).trans (clearValid_homeSide ..)

theorem reclassify_homeSide (s : State) (line : Nat) : s.HomeSide (s.reclassify line) := by
  refine State.HomeSide.trans (.foldl (fun t h => ?_) _ s) (setHolders_homeSide ..)
  dsimp only
  split
  · exact pullOwn_homeSide ..
  · split
    · exact pullOwn_homeSide ..
    · exact (pullOwn_homeSide ..).trans ((mergeBack_homeSide ..).trans (modHolder_homeSide (Tile.l1Only_del ..)))

theorem holder_mergeBack (s : State) (u : Nat) (l : L1Line) (v : Nat) : (s.mergeBack u l).holder v = s.holder v := by
  obtain ⟨_, _, _, _, h⟩ := wrLine_storage s ((s.holder u).ctx.getD 0) l.key l.line (l.dmask &&& l.cmask) l.data l.pois
  unfold State.mergeBack State.landWrite
  rw [h]
  rfl

theorem recallOne_homeSide (s : State) (line u : Nat) : s.HomeSide (s.recallOne line u) := by
  unfold State.recallOne
  split
  · exact unhold_homeSide ..
  · next l hl =>
    dsimp only
    have hback : s.HomeSide (if l.dmask &&& l.cmask = 0 then s else s.mergeBack u l) := by
      split
      · exact .refl _
      · exact mergeBack_homeSide ..
    have hholder : (if l.dmask &&& l.cmask = 0 then s else s.mergeBack u l).holder u = s.holder u := by
      rw [apply_ite (fun t : State => t.holder u), holder_mergeBack, ite_self]
    generalize (if l.dmask &&& l.cmask = 0 then s else s.mergeBack u l) = t at hback hholder ⊢
    have hmod : s.HomeSide (t.modHolder u fun t => t.l1Set { l with cmask := 0, dmask := l.dmask &&& ~~~ l.cmask }) := by
      refine hback.trans (modHolder_homeSide (Tile.l1Only_set fun hc => ?_))
      rw [hholder] at hc
      show l.dmask &&& ~~~ l.cmask = 0
      rw [hc l (l1Get_mem hl)]
      exact BitVec.zero_and
    split_ifs
    · exact hmod.trans (unhold_homeSide ..)
    · exact hmod.trans (setHolders_homeSide ..)
    · exact hmod

theorem recall_homeSide (s : State) (line : Nat) (g : Option (BitVec 8)) (m : BitVec 64) : s.HomeSide (s.recall line g m) :=
  .foldl (fun t h => by
    split
    · exact .refl _
    · exact (pullOwn_homeSide ..).trans (recallOne_homeSide ..)) _ s

theorem homeConflict_homeSide (s : State) (coh : BitVec 2) (line : Nat) (g : BitVec 8) : s.HomeSide (s.homeConflict coh line g) := by
  unfold State.homeConflict
  dsimp only
  split
  · exact reclassify_homeSide ..
  · exact .refl _

theorem recallSelf_homeSide (s : State) (w : HomeWrite) : s.HomeSide (s.recallSelf w) := by
  unfold State.recallSelf
  dsimp only
  split
  · exact (pullOwn_homeSide ..).trans (recallOne_homeSide ..)
  · exact .refl _

/-! ## Writes that arrive (R250, R255) -/

theorem applyWrite_homeSide (s : State) (w : HomeWrite) : s.HomeSide (s.applyWrite w) := by
  unfold State.applyWrite
  split
  · exact land_homeSide ..
  · exact (land_homeSide w s).trans (unhold_homeSide ..)
  · split
    · exact land_homeSide ..
    · dsimp only
      split
      · exact (homeConflict_homeSide ..).trans ((recall_homeSide ..).trans ((land_homeSide ..).trans
          ((recallSelf_homeSide ..).trans (clearValid_homeSide ..))))
      · exact (homeConflict_homeSide ..).trans (land_homeSide ..)

theorem applyEnt_homeSide (s : State) (d : BitVec 2) (h : BitVec 3) (e : ChanEnt) : s.HomeSide (s.applyEnt d h e) := by
  cases e with
  | write w => exact applyWrite_homeSide s w
  | close v => exact setHome_homeSide ..

theorem deliverN_homeSide (d : BitVec 2) (h : BitVec 3) (n : Nat) (s : State) : s.HomeSide (State.deliverN d h n s) := by
  induction n generalizing s with
  | zero => exact .refl s
  | succ n ih =>
    unfold State.deliverN
    split
    · exact .refl s
    · exact (setChan_homeSide ..).trans ((applyEnt_homeSide ..).trans (ih _))

theorem drainChan_homeSide (s : State) (d : BitVec 2) (h : BitVec 3) : s.HomeSide (s.drainChan d h) := deliverN_homeSide ..
theorem drainSent_homeSide (s : State) (d : BitVec 2) : s.HomeSide (s.drainSent d) := .foldl (fun _ _ => drainChan_homeSide ..) _ s

theorem send_homeSide (s : State) (d : BitVec 2) (w : HomeWrite) : s.HomeSide (s.send d w) := by
  unfold State.send
  dsimp only
  split
  · exact (drainSent_homeSide s d).trans (setChan_homeSide ..)
  · exact setChan_homeSide ..

theorem leaveN_homeSide (d : BitVec 2) (p : HomeWrite → Bool) (n : Nat) (s : State) : s.HomeSide (State.leaveN d p n s) := by
  induction n generalizing s with
  | zero => exact .refl s
  | succ n ih =>
    unfold State.leaveN
    split
    · exact .refl s
    · exact (setDie_homeSide ..).trans ((send_homeSide ..).trans (ih _))

theorem leave_homeSide (s : State) (g : BitVec 8) : s.HomeSide (s.leave g) := leaveN_homeSide ..

theorem drainDie_homeSide (s : State) (d : BitVec 2) : s.HomeSide (s.drainDie d) :=
  (leaveN_homeSide ..).trans (drainSent_homeSide ..)

/-! ## Writes of units outside the tiles (R23, R77) -/

theorem writeHome_homeSide (s : State) (ctx : BitVec 16) (leaf : BitVec 128) (pa : Nat) (bs : List Byte) (p : Bool) :
    s.HomeSide (s.writeHome ctx leaf pa bs p) := by
  unfold State.writeHome
  dsimp only
  split
  · exact (State.HomeSide.foldl (fun t l => (recall_homeSide ..).trans (clearValid_homeSide ..)) _ s).trans (wrDev_storage ..).homeSide
  · exact (wrDev_storage ..).homeSide

theorem devWrite_homeSide (s : State) (ctx : BitVec 16) (va : W64) (bs : List PByte) : s.HomeSide (s.devWrite ctx va bs) :=
  .foldl (fun t p => by
    dsimp only
    split
    · exact writeHome_homeSide ..
    · exact .refl _) _ s

/-! ## Releases of a tile (R252, R256) -/

theorem post_homeSide (s : State) (d : BitVec 2) (w : HomeWrite) : s.HomeSide (s.post d w) := setDie_homeSide ..

theorem foldl_post_homeSide (g : BitVec 8) (ls : List L1Line) (s : State) :
    s.HomeSide (ls.foldl (fun s l => s.post (dieOf g) (wbOf s g l .wb)) s) := .foldl (fun _ _ => post_homeSide ..) ls s

theorem dirtyBack_homeSide (s : State) (g : BitVec 8) : s.HomeSide (s.dirtyBack g) := by
  unfold State.dirtyBack
  refine (foldl_post_homeSide g _ s).trans (modTile_homeSide (f := fun t => { t with l1 := t.l1.map fun l => { l with dmask := 0 } })
    ⟨_, rfl, fun _ x hx => ?_⟩)
  obtain ⟨y, -, rfl⟩ := List.mem_map.mp hx
  rfl

/-- A tile's own L1D is clean after it (R252, R262). -/
theorem dirtyBack_clean (s : State) (g : BitVec 8) : L1Clean ((s.dirtyBack g).tile g).l1 := by
  intro x hx
  unfold State.dirtyBack at hx
  dsimp only at hx
  rw [State.tile_modTile] at hx
  obtain ⟨y, -, rfl⟩ := List.mem_map.mp hx
  rfl

theorem epochStep_homeSide (s : State) (d : BitVec 2) : s.HomeSide (s.epochStep d) := setDie_homeSide ..

theorem releaseNow_homeSide (s : State) (g : BitVec 8) (sc : BitVec 2) : s.HomeSide (s.releaseNow g sc) := by
  have h : s.HomeSide (((s.dirtyBack g).leave g).drainChan (dieOf g) (BitVec.ofNat 3 (dieOf g).toNat)) :=
    (dirtyBack_homeSide s g).trans ((leave_homeSide ..).trans (drainChan_homeSide ..))
  unfold State.releaseNow
  dsimp only
  split
  · exact h.trans (epochStep_homeSide ..)
  · exact h

/-- What is settled of a tile's stores at its die's homes before an event that needs them performed. -/
theorem settle_homeSide (s : State) (g : BitVec 8) : s.HomeSide ((s.dirtyBack g).drainDie (dieOf g)) :=
  (dirtyBack_homeSide s g).trans (drainDie_homeSide ..)

theorem settle_clean (s : State) (g : BitVec 8) : L1Clean (((s.dirtyBack g).drainDie (dieOf g)).tile g).l1 := by
  obtain ⟨l, hl, hclean⟩ := (drainDie_homeSide (s.dirtyBack g) (dieOf g)).tile g
  rw [hl]
  exact hclean (dirtyBack_clean s g)

end Sys2Proof.Machine
end

section
/-! PROOFS. Launches (chapter 05): the LAUNCH packet, a context on a tile, the start and the retirement of an item, stage queue entries,
cohort barriers, and the end of a launch. -/

namespace Sys2Proof.Machine
open Sys2Proof.Says

/-! ## The LAUNCH packet (R76, R114 to R117) -/

section
variable {s : State} {u : BitVec 4} {p : Packet} {h : Nat}

theorem launchPacket_dispatches (hd : Dispatched s u 2 p) (hl : hdrLen p.header = 9) :
    exec (.launchPacket u) s = .next ((s.setUnit u Interp.reset).dispatchLaunch p (leNat (wordBytes (p.words.drop 8)))) := by
  obtain ⟨hp, ht⟩ := hd
  show execLaunchPacket u s = _
  simp only [execLaunchPacket, event, hp, ht, hl, ne_eq, not_true_eq_false, if_false, if_true, State.clearUnit]

/-- Four of the checks of R116: VERSION, the reserved bits, and a number of stages from 1 to 8. -/
theorem headerBad_of_fields (hb : bitsOf h 511 496 ≠ 1 ∨ bitsOf h 191 0 ≠ 0 ∨ bitsOf h 495 492 = 0 ∨ 8 < bitsOf h 495 492) :
    headerBad h = true := by
  unfold headerBad
  rcases hb with hb | hb | hb | hb
  · simp [hb]
  · simp [hb]
  · simp [launchOf, hb]
  · simp [launchOf, hb]

theorem dispatchLaunch_bad (hb : headerBad h = true) : s.dispatchLaunch p h = s.haltPacket p 0x15 p.header false := by
  rw [State.dispatchLaunch, if_pos hb]

/-- The launch that a good header makes, but for the residency handles it references. -/
def State.launchMade (s : State) (p : Packet) (h : Nat) : Launch :=
  let q := s.queue p.queue
  launchOf h s.nextId q.ctx q.tclass p (((s.ctx? q.ctx).map (·.interval)).getD 0)

theorem dispatchLaunch_unpinned (hb : headerBad h = false) (hp : s.overlaysPinned (s.launchMade p h) = false) :
    s.dispatchLaunch p h = s.complete p 0x05 0 := by
  rw [State.dispatchLaunch, if_neg (by rw [hb]; decide)]
  unfold State.launchMade at hp
  exact if_pos (by rw [hp]; rfl)

theorem dispatchLaunch_made (hb : headerBad h = false) (hp : s.overlaysPinned (s.launchMade p h) = true) :
    s.dispatchLaunch p h = State.setLaunch { s with nextId := s.nextId + 1 }
      { s.launchMade p h with handles := s.handlesOf (s.launchMade p h) } := by
  rw [State.dispatchLaunch, if_neg (by rw [hb]; decide)]
  unfold State.launchMade at hp
  exact if_neg (by rw [hp]; decide)

end

/-! ## A context on a tile (R160) -/

theorem Tab.get?_filter_key {α : Type} (p : Nat → Bool) (t : Tab α) (n : Nat) :
    Tab.get? (t.filter fun e => p e.1) n = if p n then Tab.get? t n else none := by
  induction t with
  | nil => rw [List.filter_nil, Tab.get?, ite_self]
  | cons e r ih =>
    obtain ⟨k, v⟩ := e
    by_cases hk : k = n
    · subst hk
      by_cases hp : p k = true
      · rw [List.filter_cons, if_pos hp, Tab.get?, if_pos rfl, if_pos hp, Tab.get?, if_pos rfl]
      · rw [List.filter_cons, if_neg hp, ih, if_neg hp, if_neg hp]
    · by_cases hp : p k = true
      · rw [List.filter_cons, if_pos hp, Tab.get?, if_neg hk, ih, Tab.get?, if_neg hk]
      · rw [List.filter_cons, if_neg hp, ih, Tab.get?, if_neg hk]

/-- A byte of a range that is zeroed reads as zero; any other byte stands. -/
theorem zero_rdByte (s : State) (a n x : Nat) : (s.zero a n).rdByte x = if a ≤ x ∧ x < a + n then 0 else s.rdByte x := by
  show Tab.get 0 (List.filter (fun c => decide (c.1 < a) || decide (a + n ≤ c.1)) s.mem) x = _
  rw [Tab.get, Tab.get?_filter_key (fun k => decide (k < a) || decide (a + n ≤ k))]
  by_cases hx : a ≤ x ∧ x < a + n
  · rw [if_pos hx, if_neg (by simp; omega)]
    rfl
  · rw [if_neg hx, if_pos (by simp; omega)]
    rfl

/-- A tile's cells: its scratchpad, and both its instruction memories. -/
theorem zeroTile_spad (s : State) (g : BitVec 8) {a : Nat} (ha : a < 2 ^ 21) : (s.zeroTile g).rdByte (spadBase g.toNat + a) = 0 := by
  unfold State.zeroTile
  rw [zero_rdByte, zero_rdByte, zero_rdByte, if_pos (c := spadBase g.toNat ≤ _ ∧ _) (by omega), ite_self, ite_self]

theorem zeroTile_imem (s : State) (g : BitVec 8) (st : Stream) {a : Nat} (ha : a < 2 ^ 16) :
    (s.zeroTile g).rdByte (imemBase g.toNat st + a) = 0 := by
  unfold State.zeroTile
  rw [zero_rdByte, zero_rdByte]
  cases st with
  | a => rw [if_pos (c := imemBase g.toNat .a ≤ _ ∧ _) (by omega), ite_self]
  | x => rw [if_pos (by omega)]

theorem zeroTile_imemWord (s : State) (g : BitVec 8) (st : Stream) (w : Pc) : (s.zeroTile g).imemWord g st w = 0 := by
  have hw := w.isLt
  have hbyte (i : Nat) (hi : i < 4) : Mem.get (s.zeroTile g).mem (imemBase g.toNat st + 4 * w.toNat + i) = 0 := by
    rw [Nat.add_assoc]
    exact zeroTile_imem s g st (by omega)
  have hbytes : (s.zeroTile g).rdBytes (imemBase g.toNat st + 4 * w.toNat) 4 = List.replicate 4 0 :=
    List.eq_replicate_iff.mpr ⟨by rw [State.rdBytes, Mem.gets, List.length_map, List.length_range], fun b hb => by
      obtain ⟨i, hi, rfl⟩ := List.mem_map.mp hb
      exact hbyte i (List.mem_range.mp hi)⟩
  rw [State.imemWord, State.rdNat, hbytes]
  rfl

theorem contextInstall_installs {s : State} {g : BitVec 8} {cd : ContextDesc} (hr : s.railsOff = false) (hi : (s.tile g).ist = .none)
    (hs : (s.tile g).stop = none) (hc : (s.tile g).capturing = none) :
    exec (.contextInstall g cd) s = .next ((s.knowCtx cd).installCtx g cd.ctx) := by
  have hfree : (s.tile g).isFree = true := by rw [Tile.isFree, hi, hs, hc]; rfl
  show execContextInstall g cd s = _
  rw [execContextInstall, powered_on _ hr, if_pos hfree]

@[simp] theorem State.zeroTile_tile (s : State) (g k : BitVec 8) : (s.zeroTile g).tile k = s.tile k := rfl

theorem flushL1_l1 (s : State) (g : BitVec 8) : ((s.flushL1 g).tile g).l1 = [] := by
  unfold State.flushL1
  rw [State.tile_modTile]

/-- A tile on which a context has been installed. -/
theorem installCtx_tile (s : State) (g : BitVec 8) (c : BitVec 16) : (s.installCtx g c).tile g = { (s.flushL1 g).tile g with
    ctx := some c, wgran := 0, sealb := 0, wroteClu := false, tlb := [], past := []
    brk := Vector.replicate 8 BrkSlot.reset, pmc := Vector.replicate 8 0, pmsel := Vector.replicate 8 0, pmovf := 0, pmwrap := []
    resA := none, resX := none } := by
  unfold State.installCtx
  rw [State.tile_modTile, State.zeroTile_tile]

theorem installCtx_l1 (s : State) (g : BitVec 8) (c : BitVec 16) : ((s.installCtx g c).tile g).l1 = [] := by
  rw [installCtx_tile]
  dsimp only
  rw [flushL1_l1]

theorem State.modTile_rdByte (s : State) (g : BitVec 8) (f : Tile → Tile) (a : Nat) : (s.modTile g f).rdByte a = s.rdByte a := rfl
theorem State.modTile_imemWord (s : State) (g : BitVec 8) (f : Tile → Tile) (k : BitVec 8) (st : Stream) (w : Pc) :
    (s.modTile g f).imemWord k st w = s.imemWord k st w := rfl

/-- Its cells read as zero, its instruction memories too. -/
theorem installCtx_spad (s : State) (g : BitVec 8) (c : BitVec 16) {a : Nat} (ha : a < 2 ^ 21) :
    (s.installCtx g c).rdByte (spadBase g.toNat + a) = 0 := by
  unfold State.installCtx
  rw [State.modTile_rdByte, zeroTile_spad _ _ ha]

theorem installCtx_imemWord (s : State) (g : BitVec 8) (c : BitVec 16) (st : Stream) (w : Pc) : (s.installCtx g c).imemWord g st w = 0 := by
  unfold State.installCtx
  rw [State.modTile_imemWord, zeroTile_imemWord]

/-! ## The start of an item (R125, R127) -/

/-- The words that an item's start puts in `a8` to `a15`, from register 8 + `k` on. -/
theorem vget_foldl_words (m : Nat) : ∀ (k : Nat) (ws : List W64) (a : Vector W64 32), k + m ≤ 8 → ∀ r : R5,
    vget ((ws.zip (List.range' k m)).foldl (fun a e => vset a (BitVec.ofNat 5 (8 + e.2)) e.1) a) 0 r =
      if 8 + k ≤ r.toNat ∧ r.toNat < 8 + k + m then (ws[r.toNat - (8 + k)]?).getD (vget a 0 r) else vget a 0 r := by
  induction m with
  | zero =>
    intro k ws a _ r
    rw [List.range'_zero, List.zip_nil_right, List.foldl_nil, if_neg (by omega)]
  | succ m ih =>
    intro k ws a hk r
    cases ws with
    | nil => rw [List.zip_nil_left, List.foldl_nil, List.getElem?_nil, Option.getD_none, ite_self]
    | cons w ws =>
      have hn : (BitVec.ofNat 5 (8 + k)).toNat = 8 + k := by
        rw [BitVec.toNat_ofNat]
        omega
      rw [List.range'_succ, List.zip_cons_cons, List.foldl_cons, ih _ _ _ (by omega)]
      by_cases hr : r.toNat = 8 + k
      · have hrk : r = BitVec.ofNat 5 (8 + k) := BitVec.eq_of_toNat_eq (hr.trans hn.symm)
        rw [if_neg (by omega), if_pos (by omega), hr, Nat.sub_self, List.getElem?_cons_zero, Option.getD_some, hrk]
        exact vget_vset_self _ _ _ _ (BitVec.isLt _)
      · have hne : r ≠ BitVec.ofNat 5 (8 + k) := fun h => hr (by rw [h, hn])
        rw [vget_vset_of_ne _ _ _ hne]
        by_cases hin : 8 + k ≤ r.toNat ∧ r.toNat < 8 + k + (m + 1)
        · have hidx : r.toNat - (8 + k) = (r.toNat - (8 + (k + 1))) + 1 := by omega
          rw [if_pos (by omega), if_pos hin, hidx, List.getElem?_cons_succ]
        · rw [if_neg (by omega), if_neg hin]

section
variable (t : Tile) (i : Item) (l : Launch) (d : StageDesc) (fa fx fk fz fc : BitVec 524288) (now : Nat)

theorem begin_areg_words (r : R5) (hr : r ≠ 0) : vget (t.begin_ i l d fa fx fk fz fc now).areg 0 r =
    if 8 ≤ r.toNat ∧ r.toNat < 16 then
      ((i.words8 l)[r.toNat - 8]?).getD (vget (vset (vset (freeRegs (fa.setWidth 2048)) (1 : R5) i.word1) (2 : R5) i.word2) 0 r)
    else vget (vset (vset (freeRegs (fa.setWidth 2048)) (1 : R5) i.word1) (2 : R5) i.word2) 0 r := by
  show vget (vset (((i.words8 l).zip (List.range 8)).foldl _ _) (0 : R5) 0) 0 r = _
  rw [vget_vset_of_ne _ _ _ hr, List.range_eq_range', vget_foldl_words 8 0 _ _ (by omega)]

theorem begin_areg1 : vget (t.begin_ i l d fa fx fk fz fc now).areg 0 (1 : R5) = i.word1 := by
  rw [begin_areg_words _ _ _ _ _ _ _ _ _ _ _ (by decide), if_neg (by decide), vget_vset_of_ne _ _ _ (by decide)]
  exact vget_vset_self _ _ _ _ (BitVec.isLt _)

theorem begin_areg2 : vget (t.begin_ i l d fa fx fk fz fc now).areg 0 (2 : R5) = i.word2 := by
  rw [begin_areg_words _ _ _ _ _ _ _ _ _ _ _ (by decide), if_neg (by decide)]
  exact vget_vset_self _ _ _ _ (BitVec.isLt _)

theorem begin_areg8 {j : Nat} (hj : j < 8) {w : W64} (hw : (i.words8 l)[j]? = some w) :
    vget (t.begin_ i l d fa fx fk fz fc now).areg 0 (BitVec.ofNat 5 (8 + j)) = w := by
  have hn : (BitVec.ofNat 5 (8 + j)).toNat = 8 + j := by
    rw [BitVec.toNat_ofNat]
    omega
  have h0 : BitVec.ofNat 5 (8 + j) ≠ 0 := fun h => by
    rw [h] at hn
    change 0 = 8 + j at hn
    omega
  rw [begin_areg_words _ _ _ _ _ _ _ _ _ _ _ h0, hn, if_pos (by omega), Nat.add_sub_cancel_left, hw, Option.getD_some]

theorem begin_xreg1 : vget (t.begin_ i l d fa fx fk fz fc now).xreg 0 (1 : R5) = i.word1 := by
  show vget (vset (vset (vset _ (1 : R5) _) (2 : R5) _) (0 : R5) 0) 0 (1 : R5) = _
  rw [vget_vset_of_ne _ _ _ (by decide), vget_vset_of_ne _ _ _ (by decide)]
  exact vget_vset_self _ _ _ _ (BitVec.isLt _)

theorem begin_xreg2 : vget (t.begin_ i l d fa fx fk fz fc now).xreg 0 (2 : R5) = i.word2 := by
  show vget (vset (vset (vset _ (1 : R5) _) (2 : R5) _) (0 : R5) 0) 0 (2 : R5) = _
  rw [vget_vset_of_ne _ _ _ (by decide)]
  exact vget_vset_self _ _ _ _ (BitVec.isLt _)

end

/-- What R125 says of a tile at the start of an item: its streams' words, the item's words in their registers, no poison, and empty queues. -/
structure Tile.AtStart (t : Tile) (i : Item) (l : Launch) (d : StageDesc) : Prop where
  ist : t.ist = .running
  apc : t.apc = d.aentry
  xpc : t.xpc = d.xentry
  areg1 : vget t.areg 0 (1 : R5) = i.word1
  areg2 : vget t.areg 0 (2 : R5) = i.word2
  xreg1 : vget t.xreg 0 (1 : R5) = i.word1
  xreg2 : vget t.xreg 0 (2 : R5) = i.word2
  words : ∀ j : Fin 8, ∀ w, (i.words8 l)[j.val]? = some w → vget t.areg 0 (BitVec.ofNat 5 (8 + j.val)) = w
  apois : t.apois = 0
  xpois : t.xpois = 0
  q : t.q = Vector.replicate 8 []
  cmds : t.cmds = []

theorem begin_atStart (t : Tile) (i : Item) (l : Launch) (d : StageDesc) (fa fx fk fz fc : BitVec 524288) (now : Nat) :
    (t.begin_ i l d fa fx fk fz fc now).AtStart i l d :=
  ⟨rfl, rfl, rfl, begin_areg1 .., begin_areg2 .., begin_xreg1 .., begin_xreg2 .., fun j _ hw => begin_areg8 _ _ _ _ _ _ _ _ _ _ j.isLt hw,
    rfl, rfl, rfl, rfl⟩

theorem Tile.AtStart.l1 {t : Tile} {i : Item} {l : Launch} {d : StageDesc} (h : t.AtStart i l d) (c : List L1Line) :
    Tile.AtStart { t with l1 := c } i l d :=
  ⟨h.ist, h.apc, h.xpc, h.areg1, h.areg2, h.xreg1, h.xreg2, h.words, h.apois, h.xpois, h.q, h.cmds⟩

/-- A tile has been given an item of no cohort, in the class of the item's stage and in its launch's context, and holds both overlays. -/
structure State.Given (s : State) (g : BitVec 8) (i : Item) (l : Launch) (d : StageDesc) : Prop where
  ist : (s.tile g).ist = .given
  item : (s.tile g).item = some i
  resume : (s.tile g).resume = none
  sreq : (s.tile g).sreq = none
  capturing : (s.tile g).capturing = none
  alone : i.group = none
  launch : s.launch? i.launch = some l
  stage : l.stages[i.stage.toNat]? = some d
  cls : (s.tile g).sclass = d.cls
  ctx : (s.tile g).ctx = some l.ctx
  resA : (s.tile g).resA = some (l.id, i.stage)
  resX : (s.tile g).resX = some (l.id, i.stage)

section
variable {s : State} {g : BitVec 8} {i : Item} {l : Launch} {d : StageDesc} (h : s.Given g i l d)
include h

theorem State.Given.overlay (st : Stream) : s.overlay g l i.stage st = .resident := by
  unfold State.overlay
  cases st with
  | a => exact if_pos (by simp [h.resA, h.ctx])
  | x => exact if_pos (by simp [h.resX, h.ctx])

theorem State.Given.canBegin : s.canBegin g = some (i, l, d) := by
  unfold State.canBegin
  simp only [h.item, h.launch, h.stage]
  exact if_pos (by rw [h.ist, h.resume, h.sreq, h.cls, h.capturing, h.overlay, h.overlay, beq_self_eq_true, beq_self_eq_true]; rfl)

theorem State.Given.startSet : s.startSet g = [g] := by
  have hc : (s.tile g).cohort = none := by rw [Tile.cohort, h.item, Option.bind_some, h.alone, Option.map_none]
  rw [State.startSet, hc]

theorem itemStart_begins (hr : s.railsOff = false) : exec (.itemStart g) s = .next (s.beginItem g i l d) := by
  show execItemStart g s = _
  rw [execItemStart, powered_on _ hr]
  simp [h.startSet, h.canBegin]

omit h in
/-- An acquire touches a tile's L1D only, and no more than the die's vector beside it. -/
theorem acquire_tile (s : State) (g : BitVec 8) (sc : BitVec 2) : ∃ c, ((s.acquire g sc).tile g) = { s.tile g with l1 := c } := by
  unfold State.acquire
  dsimp only
  split
  · exact ⟨_, rfl⟩
  · rw [State.tile_modTile]
    exact ⟨_, rfl⟩
  · rw [State.tile_modTile]
    exact ⟨_, rfl⟩

/-- A tile that holds its overlays is in the item-start state; the acquire of a later stage's item concerns its L1D only. -/
theorem State.Given.beginItem : ((s.beginItem g i l d).tile g).AtStart i l d := by
  unfold State.beginItem
  simp only [h.overlay, h.ctx, beq_self_eq_true, if_true, List.any_nil, Bool.false_eq_true, if_false]
  split
  · rw [State.tile_modTile]
    exact begin_atStart ..
  · obtain ⟨c, hc⟩ := acquire_tile (State.modTile _ g _) g 2
    rw [hc, State.tile_modTile]
    exact (begin_atStart ..).l1 c

end

/-! ## Stage queue entries (R124) -/

theorem stageEntryAvailable_first {s : State} {id : Nat} {d : BitVec 2} {st : BitVec 3} {h : BitVec 8} {l : Launch} {e : SqEntry}
    {r : List SqEntry} (hl : s.launch? id = some l) (he : ((l.die d).inst st.toNat).entries = e :: r) (ha : e.avail = false)
    (hp : e.pusher = some h.toNat) (hc : (s.tile h).claims = []) :
    exec (.stageEntryAvailable id d st) s = .next ((s.pushPerformed (some h.toNat)).setLaunch
      (l.setDie d ((l.die d).setInst st.toNat { (l.die d).inst st.toNat with entries := { e with avail := true } :: r }))) := by
  have hh : s.holder h.toNat = s.tile h := by
    rw [State.holder, if_pos h.isLt, BitVec.ofNat_toNat, BitVec.setWidth_eq]
  show execStageEntryAvailable id d st s = _
  simp [execStageEntryAvailable, event, hl, he, ha, hp, hh, hc, List.findIdx_cons]

/-! ## Retirement of an item (R126, R128) -/

theorem itemRetire_busy {s : State} {g : BitVec 8} (h : (s.tile g).done = false) : exec (.itemRetire g) s = .next s := by
  show execItemRetire g s = _
  simp only [execItemRetire, powered, event, h, Bool.not_false, if_true, ite_self]

theorem Tab.get?_map {α β : Type} (f : α → β) (t : Tab α) (n : Nat) :
    Tab.get? (t.map fun e => (e.1, f e.2)) n = (Tab.get? t n).map f := by
  induction t with
  | nil => rfl
  | cons e r ih =>
    by_cases hk : e.1 = n
    · rw [List.map_cons, Tab.get?, if_pos hk, Tab.get?, if_pos hk, Option.map_some]
    · rw [List.map_cons, Tab.get?, if_neg hk, ih, Tab.get?, if_neg hk]

theorem pusherGone_tile (s : State) (g k : BitVec 8) : (s.pusherGone g).tile k = s.tile k := rfl

/-- A tile's stores wait no more: of its entries only the pusher's name changes. -/
theorem pusherGone_launch {s : State} {n : Nat} {l : Launch} (g : BitVec 8) (h : s.launch? n = some l) :
    ∃ k, (s.pusherGone g).launch? n = some k ∧ k.id = l.id ∧ k.retired = l.retired := by
  refine ⟨l.mapPushers fun p => if p == some g.toNat then none else p, ?_, rfl, rfl⟩
  refine (Tab.get?_map (fun x : Launch => x.mapPushers fun p => if p == some g.toNat then none else p) s.launches n).trans ?_
  rw [show Tab.get? s.launches n = some l from h, Option.map_some]

theorem setLaunch_launch? (s : State) {l : Launch} {n : Nat} (h : l.id = n) : (s.setLaunch l).launch? n = some l := by
  rw [← h, State.launch?_setLaunch]

theorem performReleases_launch? (s : State) (g : BitVec 8) (n : Nat) : (s.performReleases g).launch? n = s.launch? n := by
  unfold State.performReleases
  rw [State.modTile_launchq]
  exact (State.HomeSide.foldl (fun t sc => releaseNow_homeSide t g sc) _ s).launch? n

/-- The releases that a tile still owes leave its context and its stage. -/
theorem performReleases_tile (s : State) (g : BitVec 8) :
    ((s.performReleases g).tile g).cur = (s.tile g).cur ∧ ((s.performReleases g).tile g).ctx = (s.tile g).ctx := by
  obtain ⟨c, hc, -⟩ := (State.HomeSide.foldl (fun t sc => releaseNow_homeSide t g sc) (s.tile g).relPend s).tile g
  unfold State.performReleases
  rw [State.tile_modTile, hc]
  exact ⟨rfl, rfl⟩

/-- The state in which a retiring item's stores are performed. -/
def State.retiring (s : State) (g : BitVec 8) : State := (((s.performReleases g).dirtyBack g).drainDie (dieOf g)).pusherGone g

theorem retiring_tile (s : State) (g : BitVec 8) : ((s.retiring g).tile g).cur = (s.tile g).cur ∧
    ((s.retiring g).tile g).ctx = (s.tile g).ctx ∧ L1Clean ((s.retiring g).tile g).l1 := by
  have hclean := settle_clean (s.performReleases g) g
  obtain ⟨c, hc, -⟩ := (settle_homeSide (s.performReleases g) g).tile g
  obtain ⟨hcur, hctx⟩ := performReleases_tile s g
  rw [State.retiring, pusherGone_tile]
  refine ⟨?_, ?_, hclean⟩
  · rw [hc]
    exact hcur
  · rw [hc]
    exact hctx

theorem retiring_launch {s : State} {n : Nat} {l : Launch} (g : BitVec 8) (h : s.launch? n = some l) :
    ∃ k, (s.retiring g).launch? n = some k ∧ k.id = l.id ∧ k.retired = l.retired := by
  refine pusherGone_launch g ?_
  rw [(settle_homeSide (s.performReleases g) g).launch?, performReleases_launch?, h]

/-- A tile whose item has retired is free, in its stage and its context, and its copies stay (R126). -/
theorem retireItem_tile (t : Tile) : t.retireItem.ist = .none ∧ t.retireItem.item = none ∧ t.retireItem.cur = t.cur ∧
    t.retireItem.ctx = t.ctx ∧ t.retireItem.l1 = t.l1 := ⟨rfl, rfl, rfl, rfl, rfl⟩

/-- A launch with one more item retired. -/
def Launch.countRetired (l : Launch) (i : Item) : Launch :=
  { l with
    retired := l.retired + 1
    gretired := match i.group with
      | some n => setPair l.gretired n (l.retiredOf n + 1)
      | none => l.gretired }

theorem itemRetire_retires {s : State} {g : BitVec 8} {i : Item} {l : Launch} (hr : s.railsOff = false) (hd : (s.tile g).done = true)
    (hi : (s.tile g).item = some i) (hl : (s.retiring g).launch? i.launch = some l) :
    exec (.itemRetire g) s = .next (((s.retiring g).setLaunch (l.countRetired i)).modTile g Tile.retireItem) := by
  show execItemRetire g s = _
  unfold State.retiring at hl
  rw [execItemRetire, powered_on _ hr, if_neg (by rw [hd]; decide)]
  dsimp only
  rw [hi, Option.bind_some, hl]
  rfl

/-! ## Cohort barriers (R128, R377) -/

/-- The tiles that run an item of a cohort group, and those of them that have come to its next barrier with their stores performed. -/
def State.cohortRuns (s : State) (id n : Nat) : List (BitVec 8) := s.tilesWith fun t => t.cohort == some (id, n) && t.ist == .running
def State.cohortCame (s : State) (l : Launch) (id n : Nat) : List (BitVec 8) :=
  (s.cohortRuns id n).filter fun h => l.gen n < (s.tile h).bars && (s.tile h).relPend.isEmpty

section
variable {s : State} {id n : Nat} {l : Launch} (hl : s.launch? id = some l)
include hl

theorem cohortBarrier_waits (h : (s.cohortCame l id n).length + l.retiredOf n ≠ l.groupSize) :
    exec (.cohortBarrierComplete id n) s = .next s := by
  show execCohortBarrierComplete id n s = _
  simp only [execCohortBarrierComplete, event, hl]
  exact congrArg _ (if_pos (Bool.or_eq_true_iff.mpr (.inr (bne_iff_ne.mpr h))))

theorem cohortBarrier_completes (h0 : s.cohortCame l id n ≠ []) (h : (s.cohortCame l id n).length + l.retiredOf n = l.groupSize) :
    exec (.cohortBarrierComplete id n) s = .next (s.setLaunch { l with gens := setPair l.gens n (l.gen n + 1) }) := by
  show execCohortBarrierComplete id n s = _
  simp only [execCohortBarrierComplete, event, hl]
  refine congrArg _ (if_neg ?_)
  rw [Bool.or_eq_true, bne_iff_ne, List.isEmpty_iff]
  exact not_or.mpr ⟨h0, not_not_intro h⟩

omit hl in
theorem gen_setPair (l : Launch) (n v : Nat) : Launch.gen { l with gens := setPair l.gens n v } n = v := by
  simp [Launch.gen, setPair]

/-! ## The end of a launch (R137) -/

theorem launchRetire_waits (h : l.started = false ∨ l.nextGroup ≠ l.dieGroups) : exec (.launchRetire id) s = .next s := by
  show execLaunchRetire id s = _
  simp only [execLaunchRetire, event, hl]
  refine congrArg _ (if_pos ?_)
  rcases h with h | h
  · rw [h]
    rfl
  · rw [bne_iff_ne.mpr h, Bool.or_true, Bool.true_or, Bool.true_or]

omit hl in
theorem tilesWith_none {p : Tile → Bool} (h : ∀ e ∈ s.tiles, p e.2 = false) : s.tilesWith p = [] := by
  rw [State.tilesWith, List.filter_eq_nil_iff.mpr fun e he => by rw [h e he]; decide]
  rfl

omit hl in
/-- A launch that has no tile and whose handles are not counted leaves with its packet's completion. -/
theorem finishLaunch_tileless (ht : ∀ e ∈ s.tiles, e.2.launch ≠ some l.id) (hc : l.counted = false) :
    s.finishLaunch l 0x00 = (let t := s.settleHeld.complete l.packet 0 (BitVec.ofNat 64 l.retired) true
      { t with launches := Tab.erase t.launches l.id }) := by
  have hts : s.tilesWith (fun t => t.launch == some l.id) = [] := tilesWith_none fun e he => beq_false_of_ne (ht e he)
  rw [State.finishLaunch, hc, if_neg Bool.false_ne_true, hts]
  rfl

theorem launchRetire_retires (hid : l.id = id) (hs : l.started = true) (hg : l.nextGroup = l.dieGroups) (hi : s.hasItems id = false)
    (he : ∀ x ∈ l.dies.toList, x.isEmpty = true) (ht : ∀ e ∈ s.tiles, e.2.launch ≠ some id) (hc : l.counted = false) :
    exec (.launchRetire id) s = .next (let t := s.settleHeld.complete l.packet 0 (BitVec.ofNat 64 l.retired) true
      { t with launches := Tab.erase t.launches id }) := by
  subst hid
  have hts : s.tilesWith (fun t => t.launch == some l.id) = [] := tilesWith_none fun e he => beq_false_of_ne (ht e he)
  have hgo : (!l.started || l.nextGroup != l.dieGroups || s.hasItems l.id || !(l.dies.toList.all LaunchDie.isEmpty)) = false := by
    rw [hs, hg, hi, List.all_eq_true.mpr he, bne_self_eq_false]
    rfl
  show execLaunchRetire l.id s = _
  simp only [execLaunchRetire, event, hl, hgo, Bool.false_eq_true, if_false, hts, List.foldl_nil, finishLaunch_tileless ht hc]

end

/-- Settles O50, event by event. Beside the rules the clauses rest on choices of the assumption log: RESULT 0 where R117 fails (21), an item's
start as one event (19), and what a retired tile keeps (20). -/
theorem launchEvents : Obligations.LaunchEvents := by
  unfold Obligations.LaunchEvents
  intro s u p g cd id n l hd f q made
  refine ⟨fun hp hl hb => ?_, fun hp hl hb hpin => ?_, fun hp hl hb hpin => ?_, ?_, ?_, ?_, itemRetire_busy, ?_, ?_,
    fun hl _ => launchRetire_waits hl, fun hl hid hs hg hi he ht hc => launchRetire_retires hl hid hs hg hi he ht hc⟩
  · rw [launchPacket_dispatches hp hl]
    exact congrArg _ (dispatchLaunch_bad (headerBad_of_fields hb))
  · rw [launchPacket_dispatches hp hl]
    exact congrArg _ (dispatchLaunch_unpinned hb hpin)
  · rw [launchPacket_dispatches hp hl]
    exact congrArg _ (dispatchLaunch_made hb hpin)
  · intro hr hi hs hc _ _
    refine ⟨_, contextInstall_installs hr hi hs hc, ?_, installCtx_l1 .., ?_, ?_, ?_, fun a ha => installCtx_spad _ g _ ha,
      installCtx_imemWord _ g _⟩
    · rw [installCtx_tile]
    · rw [installCtx_tile]
    · rw [installCtx_tile]
    · rw [installCtx_tile]
  · intro i d hr hist hitem hres hreq hcap hgrp hl hst hcls hctx hA hX
    have hgiven : s.Given g i l d := ⟨hist, hitem, hres, hreq, hcap, hgrp, hl, hst, hcls, hctx, hA, hX⟩
    obtain ⟨hrun, hapc, hxpc, ha1, ha2, hx1, hx2, hwords, hap, hxp, hq, hcmds⟩ := hgiven.beginItem
    exact ⟨_, itemStart_begins hgiven hr, hrun, hapc, hxpc, ha1, ha2, hx1.trans ha1.symm, hx2, hwords, hap, hxp, hq, hcmds⟩
  · intro d st h e r hl _ he ha hp hc
    exact stageEntryAvailable_first hl he ha hp hc
  · intro i hr hd hi hl hid
    obtain ⟨k, hk, hkid, hret⟩ := retiring_launch g hl
    obtain ⟨hcur, hctx, hclean⟩ := retiring_tile s g
    refine ⟨_, k.countRetired i, itemRetire_retires hr hd hi hk, ?_, congrArg (· + 1) hret, ?_⟩
    · rw [State.modTile_launchq]
      exact setLaunch_launch? _ (hkid.trans hid)
    · rw [State.tile_modTile, State.setLaunch_tile]
      obtain ⟨hist, hitem, hrcur, hrctx, hl1⟩ := retireItem_tile ((s.retiring g).tile g)
      rw [hist, hitem, hrcur, hrctx, hl1]
      exact ⟨rfl, rfl, hcur, hctx, hclean⟩
  · intro hl hid all came
    refine ⟨cohortBarrier_waits hl, fun h0 h => ⟨_, _, cohortBarrier_completes hl h0 h, ?_, gen_setPair l n _, rfl⟩⟩
    exact setLaunch_launch? _ hid

end Sys2Proof.Machine
end

section
/-! PROOFS. Host queues and completion rings (chapter 03): their registers, the packets that the units take, the loading of a queue program,
and completion records with their interrupts. -/

namespace Sys2Proof.Machine

/-! ## Registers of queues and rings (R66 to R69, R86, R91, R100) -/

theorem reaches_iff {s : State} {fn : BitVec 8} {n : BitVec 10} :
    s.reaches fn n = true ↔ s.recovery = false ∧ (fn = 0 ∨ s.queueFn n = fn) := by
  simp [State.reaches]

/-- Fields of a function whose TDI is CONFIG_UNLOCKED are not frozen. -/
theorem frozenWrite_unlocked {s : State} {owner : BitVec 8} (h : (s.fn owner).tdi = .unlocked) (fn : BitVec 8) (r : Bool) (f : State → State) :
    s.frozenWrite fn owner r f = f s := by
  rw [State.frozenWrite, State.frozen, h]
  rfl

section
variable {s : State} {fn : BitVec 8} {n : BitVec 10} {val : W64} {v : BitVec 32}

theorem qCtl_unreached (h : s.reaches fn n = false) : s.qCtl fn n val = s := by
  rw [State.qCtl, h]
  rfl

theorem doorbell_unreached (h : s.reaches fn n = false) : s.doorbell fn n v = s := by
  rw [State.doorbell, h]
  rfl

section
variable (hr : s.reaches fn n = true)
include hr

section
variable (ho : (s.fn (s.queueFn n)).tdi = .unlocked)
include ho

/-- Enabling a queue whose fields are in range empties it and its scratch (R67, R80). -/
theorem qCtl_enables (he : (s.queue n).en = false) (hv : val.getLsbD 63 = true) (hq : s.queueOk n ((s.queue n).withCtl val) = true) :
    s.qCtl fn n val = s.setQueue n
      { (s.queue n).withCtl val with en := true, head := 0, tail := 0, scratch := [], published := [] } := by
  unfold State.qCtl
  rw [if_neg (by rw [hr]; decide), frozenWrite_unlocked ho]
  simp only [he, hv, hq, Bool.not_true, Bool.false_eq_true, if_false, if_true]

theorem qCtl_refuses (he : (s.queue n).en = false) (hv : val.getLsbD 63 = true) (hq : s.queueOk n ((s.queue n).withCtl val) = false) :
    s.qCtl fn n val = s.setQueue n { (s.queue n).withCtl val with err := 0x1F } := by
  unfold State.qCtl
  rw [if_neg (by rw [hr]; decide), frozenWrite_unlocked ho]
  simp only [he, hv, hq, Bool.not_true, Bool.false_eq_true, if_false]

/-- Of an enabled queue a write changes EN only. -/
theorem qCtl_enabled (he : (s.queue n).en = true) : s.qCtl fn n val = s.setQueue n { s.queue n with en := val.getLsbD 63 } := by
  unfold State.qCtl
  rw [if_neg (by rw [hr]; decide), frozenWrite_unlocked ho]
  exact if_pos he

end

theorem doorbell_ignored (h : (s.queue n).en = false ∨ (s.queue n).src = true) :
    s.doorbell fn n v = s.setQueue n { s.queue n with dbign := true } := by
  unfold State.doorbell
  rw [if_neg (by rw [hr]; decide)]
  exact if_pos (by rcases h with h | h <;> rw [h]; rfl; exact Bool.or_true _)

section
variable (he : (s.queue n).en = true) (hs : (s.queue n).src = false)
include he hs

/-- A doorbell of an enabled host-fed queue, by the counts of units from its head to the new tail and to the old one (R69). -/
theorem doorbell_judged : s.doorbell fn n v =
    if 2 ^ (s.queue n).log2n.toNat < (v - (s.queue n).head).toNat then s.haltQueue n 0x14 (s.queue n).head none false
    else if (v - (s.queue n).head).toNat < ((s.queue n).tail - (s.queue n).head).toNat then s.setQueue n { s.queue n with dbign := true }
    else (s.setQueue n { s.queue n with tail := v }).publish n (s.queue n).tail (v - (s.queue n).tail).toNat := by
  unfold State.doorbell
  rw [if_neg (by rw [hr]; decide)]
  exact if_neg (by rw [he, hs]; decide)

end

theorem qResume_resumes (hh : (s.queue n).halted = true) : s.qResume fn n =
    (s.setQueue n { s.queue n with halted := false }).publish n (s.queue n).head ((s.queue n).tail - (s.queue n).head).toNat := by
  unfold State.qResume
  dsimp only
  rw [if_neg (by rw [hr]; decide), if_neg (by rw [hh]; decide)]

theorem qHead_writes (hh : (s.queue n).halted = true) (hv : (v - (s.queue n).tail).toNat = 0 ∨ 2 ^ 31 ≤ (v - (s.queue n).tail).toNat) :
    s.qHead fn n v = s.setQueue n { s.queue n with head := v } := by
  have hgo : (!s.reaches fn n || !(s.queue n).halted ||
      decide (0 < (v - (s.queue n).tail).toNat) && decide ((v - (s.queue n).tail).toNat < 2 ^ 31)) = false := by
    rw [hr, hh]
    rcases hv with h | h
    · rw [h]
      rfl
    · rw [decide_eq_false (Nat.not_lt.mpr h), Bool.and_false]
      rfl
  unfold State.qHead
  dsimp only
  rw [hgo]
  exact if_neg Bool.false_ne_true

omit hr in
/-- A ring in host memory is enabled, and starts empty (R86). -/
theorem ringCtl_enables {c : Nat} (ho : (s.fn (s.ringFn c)).tdi = .unlocked) (he : (s.ring c).en = false) (hv : val.getLsbD 63 = true)
    (hl : val.getLsbD 62 = false) :
    s.ringCtl fn c val = s.setRing c { (s.ring c).withCtl val with en := true, head := 0, tail := 0, cfgerr := false } := by
  have hloc : ((s.ring c).withCtl val).loc = false := hl
  unfold State.ringCtl
  dsimp only
  rw [frozenWrite_unlocked ho]
  simp only [he, hv, hloc, Bool.not_true, Bool.false_and, Bool.false_eq_true, if_false]

end

theorem qResume_running (h : (s.queue n).halted = false) : s.qResume fn n = s := by
  unfold State.qResume
  dsimp only
  rw [h, Bool.not_false, if_pos rfl, ite_self]

theorem qHead_running (h : (s.queue n).halted = false) : s.qHead fn n v = s := by
  unfold State.qHead
  dsimp only
  rw [h, Bool.not_false, Bool.or_true, Bool.true_or, if_pos rfl]

end

/-! ## A packet is taken (R70, R72, R81, R139) -/

theorem header_of_unit (v : Nat) : BitVec.ofNat 64 v = (BitVec.ofNat 512 v).extractLsb' 0 64 := by
  rw [← BitVec.setWidth_eq_extractLsb' (by decide), BitVec.setWidth_ofNat_of_le (by decide)]

theorem hdrLen_unit (b : BitVec 512) : hdrLen (b.extractLsb' 0 64) = (b.extractLsb' 8 8).toNat := by
  rw [hdrLen, BitVec.extractLsb'_extractLsb'_of_le (by decide)]

theorem hdrType_unit (b : BitVec 512) : hdrType (b.extractLsb' 0 64) = b.extractLsb' 0 8 := by
  rw [hdrType, BitVec.extractLsb'_extractLsb'_of_le (by decide)]

/-- Clean bytes carry no poison. -/
theorem pNat_clean {l : List PByte} (h : ∀ y ∈ l, y.2 = false) : (pNat l).2 = false :=
  List.any_eq_false.mpr fun y hy => by rw [h y hy]; decide

/-- Unit 0 of the packet at the head of queue `n`, whose bytes are `one`, and the packet that `all` its units make. -/
def unitOf (one : List PByte) : BitVec 512 := BitVec.ofNat 512 (pNat one).1
def State.packetAt (s : State) (n : BitVec 10) (one all : List PByte) : Packet :=
  { id := s.nextId, queue := n, count := (s.queue n).head, len := ((unitOf one).extractLsb' 8 8).toNat, words := toWords (all.map fun y => y.1) }

/-- The queue has given its packet to a unit: its head is past it, and the packet is in flight. -/
def State.gave (s : State) (n : BitVec 10) (one : List PByte) : State :=
  State.setQueue { s with hostFails := s.hostFails && (s.queue n).loc, fresh := s.fresh + 1, nextId := s.nextId + 1 } n
    { s.queue n with
      head := (s.queue n).head + BitVec.ofNat 32 ((unitOf one).extractLsb' 8 8).toNat, inflight := (s.queue n).inflight ++ [s.nextId] }

section
variable {s : State} {k : BitVec 4} {n : BitVec 10} {one all : List PByte}

/-- The units of a packet have been read clean, and its header passes (R72). -/
structure State.Readable (s : State) (n : BitVec 10) (one all : List PByte) : Prop where
  first : s.ringRead n (s.queue n).head 1 = some one
  units : s.ringRead n (s.queue n).head ((unitOf one).extractLsb' 8 8).toNat = some all
  clean : ∀ y : PByte, y ∈ one ++ all → y.2 = false
  header : headerCheck ((s.queue n).prog != 0) (s.queue n).src (s.queue n).size (s.queue n).head (unitOf one) = 0

theorem takeFrom_takes (h : s.Readable n one all) : s.takeFrom k n =
    if (s.queue n).prog = 0 ∨ (unitOf one).extractLsb' 0 8 = 1 then (s.gave n one).passPacket k (s.packetAt n one all)
    else (s.gave n one).setUnit k { Interp.reset with
      packet := some (s.packetAt n one all), prog := Tab.get? s.progs (s.queue n).prog.toNat, ringN := (s.queue n).size
      buf := Mem.puts [] 0 (all.map (·.1)), running := true
      g := vset (vset Interp.reset.g (1 : BitVec 4) (n.setWidth 64)) (2 : BitVec 4) ((s.queue n).head.setWidth 64) } := by
  have hone : (pNat one).2 = false := pNat_clean fun y hy => h.clean y (List.mem_append_left _ hy)
  have hall : (pNat all).2 = false := pNat_clean fun y hy => h.clean y (List.mem_append_right _ hy)
  have hh : BitVec.ofNat 64 (pNat one).1 = (unitOf one).extractLsb' 0 64 := header_of_unit _
  have hc := h.header
  unfold unitOf at hc
  unfold State.takeFrom
  simp only [h.first, Option.map_some, Option.getD_some, hh, hdrLen_unit, hdrType_unit, h.units, hone, hall, hc, Bool.false_eq_true, if_false,
    ne_eq, not_true_eq_false, Bool.or_eq_true, decide_eq_true_eq]
  rfl

/-- A PAD, and any packet of a queue without a program, passes to dispatch (R73, R81). -/
theorem takeFrom_passes (h : s.Readable n one all) (hp : (s.queue n).prog = 0 ∨ (unitOf one).extractLsb' 0 8 = 1)
    (h5 : hdrType (s.packetAt n one all).header ≠ 5) :
    s.takeFrom k n = (s.gave n one).setUnit k { Interp.reset with packet := some (s.packetAt n one all), ready := true } := by
  rw [takeFrom_takes h, if_pos hp, passPacket_ready _ _ h5]

/-- Any other packet begins a run of its queue's program, with its queue in `g1` and its count in `g2` (R81). -/
theorem takeFrom_runs (h : s.Readable n one all) (hp : (s.queue n).prog ≠ 0) (ht : (unitOf one).extractLsb' 0 8 ≠ 1) :
    ∃ i, s.takeFrom k n = (s.gave n one).setUnit k i ∧ i.packet = some (s.packetAt n one all) ∧ i.running = true ∧
      i.prog = Tab.get? s.progs (s.queue n).prog.toNat ∧ i.pc = 0 ∧ i.steps = 0 ∧ i.buf = Mem.puts [] 0 (all.map (·.1)) ∧
      vget i.g 0 (1 : BitVec 4) = n.setWidth 64 ∧ vget i.g 0 (2 : BitVec 4) = (s.queue n).head.setWidth 64 := by
  rw [takeFrom_takes h, if_neg (not_or.mpr ⟨hp, ht⟩)]
  refine ⟨_, rfl, rfl, rfl, rfl, rfl, rfl, rfl, ?_, ?_⟩
  · rw [vget_vset_of_ne _ _ _ (by decide)]
    exact vget_vset_self _ _ _ _ (BitVec.isLt _)
  · exact vget_vset_self _ _ _ _ (BitVec.isLt _)

theorem packetTake_takes {u : State} (hp : (s.unit k).packet = none) (hq : s.nextQueue = some (n, u)) :
    exec (.packetTake k) s = .next (u.takeFrom k n) := by
  show execPacketTake k s = _
  simp only [execPacketTake, event, hp, Option.isSome_none, Bool.false_eq_true, if_false, hq]

theorem packetTake_busy (hp : (s.unit k).packet.isSome = true) : exec (.packetTake k) s = .next s := by
  show execPacketTake k s = _
  rw [execPacketTake, event, if_pos hp]

end

/-! ## A program's run, and its loading (R79, R80, R83, R84) -/

section
variable {s : State} {k : BitVec 4}

theorem runProgram_stopped (n : Nat) (h : (s.unit k).running = false) : runProgram k n s = s := by
  cases n with
  | zero => rfl
  | succ n => rw [runProgram, h, Bool.not_false, if_pos rfl]

theorem runProgram_step (n : Nat) {w : W32} {i : Instr} (hr : (s.unit k).running = true) (hw : (s.unit k).word = some w)
    (hd : decodeQ w = .ok i) : runProgram k (n + 1) s = runProgram k n (s.qStep k (qEff i)) := by
  rw [runProgram, if_neg (by rw [hr]; decide), hw]
  dsimp only
  rw [hd]

theorem complete_unit (s : State) (p : Packet) (st : Byte) (r : W64) (w : Bool) (k : BitVec 4) : (s.complete p st r w).unit k = s.unit k := by
  unfold State.complete State.pushCompl State.unit
  dsimp only
  split_ifs <;> simp

/-- A program whose next word is `QDROP 1`: the packet completes, and the run is over. -/
theorem queueProgramRun_drops {p : Packet} (hr : (s.unit k).running = true) (hs : (s.unit k).steps < 256) (hp : (s.unit k).packet = some p)
    (hw : (s.unit k).word = some 0x84000001) :
    exec (.queueProgramRun k) s =
      .next ((s.setUnit k Interp.reset).complete { p with words := toWords (Mem.gets (s.unit k).buf 0 (64 * p.len)) } 1 1) := by
  have hd : decodeQ 0x84000001 = .ok (.qdrop 1) := by decide
  have hdrop : s.qStep k (qEff (.qdrop 1)) =
      (s.setUnit k Interp.reset).complete { p with words := toWords (Mem.gets (s.unit k).buf 0 (64 * p.len)) } 1 1 := by
    rw [qStep_effect hr hs]
    show s.qDrop k (s.unit k).counted 1 = _
    rw [State.qDrop, show (s.unit k).counted.packet = some p from hp]
    rfl
  show Host.Outcome.next (runProgram k (256 + 1) s) = _
  rw [runProgram_step 256 hr hw hd, hdrop, runProgram_stopped]
  rw [complete_unit, State.unit_setUnit]
  rfl

theorem queueProgramRun_stopped (h : (s.unit k).running = false) : exec (.queueProgramRun k) s = .next s := by
  show Host.Outcome.next (runProgram k 257 s) = _
  rw [runProgram_stopped 257 h]

/-- A load of a slot that an enabled queue uses is refused (R79). -/
theorem progLoad_inUse (hb : s.progBusy = true) (hu : s.queues.any (fun e => e.2.en && e.2.prog == s.progSlot) = true) :
    exec .progLoad s = .next { s with progBusy := false, progWord := 0, progCode := 7 } := by
  show execProgLoad s = _
  rw [execProgLoad, event, if_neg (by rw [hb]; decide)]
  exact congrArg _ (if_pos hu)

theorem progLoad_loads {p : Program} (hb : s.progBusy = true) (hu : s.queues.any (fun e => e.2.en && e.2.prog == s.progSlot) = false) :
    let head := s.hostRead 0 s.progAddr 192
    let body := s.hostRead 0 (s.progAddr + 192) (4 * min 512 (leNat (head.take 2)))
    checkImage head ((pieces 4 (min 512 (leNat (head.take 2))) body).map fun b => BitVec.ofNat 32 (leNat b)) = .ok p →
    exec .progLoad s = .next (State.extendMreg { s with progBusy := false, progWord := 0, progs := Tab.set s.progs s.progSlot.toNat p, progCode := 0 }
      2 (sha256 (head ++ body))) := by
  intro head body hc
  show execProgLoad s = _
  rw [execProgLoad, event, if_neg (by rw [hb]; decide)]
  refine congrArg _ ((if_neg (by exact hu ▸ Bool.false_ne_true)).trans ?_)
  have hread (fn : BitVec 8) (a : W64) (n : Nat) : State.hostRead { s with progBusy := false, progWord := 0 } fn a n = s.hostRead fn a n := rfl
  simp only [hread]
  rw [show checkImage (s.hostRead 0 s.progAddr 192) _ = .ok p from hc]

end

/-! ## Completion records (R87, R89, R90) -/

section
variable {s : State} {c : BitVec 10}

/-- A waiting record of a ring in host memory that asks for no interrupt is written at the tail, with the ring's phase. -/
theorem completionRecordWrite_writes {w : PendRec} (hw : (s.ring c.toNat).waiting = [w]) (he : (s.ring c.toNat).en = true)
    (hf : (s.ring c.toNat).full = false) (hl : (s.ring c.toNat).loc = false) (hi : w.irq = false) (hu : w.urgent = false) :
    let r := s.ring c.toNat
    let bits : BitVec 512 := if r.tail.getLsbD r.log2n.toNat = true then w.bits else w.bits ||| 1
    exec (.completionRecordWrite c) s = .next ((s.hostWrite (s.ringFn c.toNat) (r.base + BitVec.ofNat 64 (32 * (r.tail.toNat % 2 ^ r.log2n.toNat)))
      (leBytes 32 bits.toNat)).setRing c.toNat { r with waiting := r.behind.take 1, behind := r.behind.drop 1, tail := r.tail + 1 }) := by
  have hrec : recBytes c.toNat = 32 := if_neg (by have := c.isLt; unfold errRing; omega)
  show Host.Outcome.next (s.writeRecord c.toNat) = _
  unfold State.writeRecord
  generalize s.ring c.toNat = r at *
  obtain ⟨base, en, loc, log2n, vec, thresh, hold, head, tail, cfgerr, ctx, waiting, behind, pendingIrq, timer⟩ := r
  dsimp only at hw he hl ⊢
  subst hw he hl
  simp only [hf, Bool.not_true, Bool.or_self, hi, hu, hrec, Bool.false_and, Bool.false_eq_true, if_false, List.nil_append, Ring.size]
  cases tail.getLsbD log2n.toNat <;> rfl

theorem holdTimer_expires (h : (s.ring c.toNat).timer = some 0) :
    exec (.holdTimerExpiry (c.setWidth 11)) s = .next (s.ringInterrupt c.toNat) := by
  have hc : (c.setWidth 11).toNat = c.toNat := BitVec.toNat_setWidth_of_le (by decide)
  show execHoldTimerExpiry _ s = _
  rw [execHoldTimerExpiry, event, hc, if_pos h]

theorem holdTimer_runs (h : (s.ring c.toNat).timer ≠ some 0) : exec (.holdTimerExpiry (c.setWidth 11)) s = .next s := by
  have hc : (c.setWidth 11).toNat = c.toNat := BitVec.toNat_setWidth_of_le (by decide)
  show execHoldTimerExpiry _ s = _
  rw [execHoldTimerExpiry, event, hc, if_neg h]

end

/-- Settles O48, register by register and event by event. Beside the rules two clauses rest on choices of the assumption log: a resumed queue
publishes its units anew (57), and the head of a halted queue is that of the packet that halted it (29). -/
theorem queueAndRingEvents : Obligations.QueueAndRingEvents := by
  unfold Obligations.QueueAndRingEvents
  intro s fn n c val v k u p q r mine mineC open_ fields
  refine ⟨fun hm ho he hv hq => ?_, fun hm ho he hv hq => ?_, fun hm ho he => ?_, fun hm => ?_, fun hm he hs h1 h2 => ?_,
    fun hm he hs h1 h2 => ?_, fun hm he hs h1 => ?_, fun hm h => ?_, fun hm hh => ?_, fun hh => ?_, fun hm hh hv => ?_, fun hh => ?_,
    fun hm ho he hv hl => ?_, fun hm => ?_, fun one all hp hq => ?_, packetTake_busy, queueProgramRun_stopped,
    fun pk hr hs hp hw => queueProgramRun_drops hr hs hp hw, fun w hw he hf hl hi hu => completionRecordWrite_writes hw he hf hl hi hu,
    holdTimer_expires, holdTimer_runs, fun hb hu => ?_, fun hb hq he hp => ?_⟩
  · exact congrArg _ (qCtl_enables (reaches_iff.mpr hm) ho he hv hq)
  · exact congrArg _ (qCtl_refuses (reaches_iff.mpr hm) ho he hv hq)
  · exact congrArg _ (qCtl_enabled (reaches_iff.mpr hm) ho he)
  · have hno : s.reaches fn n = false := Bool.eq_false_iff.mpr (mt reaches_iff.mp hm)
    exact ⟨congrArg _ (qCtl_unreached hno), congrArg _ (doorbell_unreached hno)⟩
  · refine congrArg _ ((doorbell_judged (reaches_iff.mpr hm) he hs).trans ?_)
    rw [if_neg (Nat.not_lt.mpr h2), if_neg (Nat.not_lt.mpr h1)]
  · refine congrArg _ ((doorbell_judged (reaches_iff.mpr hm) he hs).trans ?_)
    rw [if_neg (Nat.not_lt.mpr h1), if_pos h2]
  · exact congrArg _ ((doorbell_judged (reaches_iff.mpr hm) he hs).trans (if_pos h1))
  · exact congrArg _ (doorbell_ignored (reaches_iff.mpr hm) h)
  · exact congrArg _ (qResume_resumes (reaches_iff.mpr hm) hh)
  · exact congrArg _ (qResume_running hh)
  · exact congrArg _ (qHead_writes (reaches_iff.mpr hm) hh hv)
  · exact congrArg _ (qHead_running hh)
  · exact congrArg _ ((if_pos (reaches_iff.mpr hm)).trans (ringCtl_enables ho he hv hl))
  · exact congrArg _ (if_pos (reaches_iff.mpr hm))
  · intro x b len pk t h1 h2 hclean hc
    have hready : u.Readable n one all := ⟨h1, h2, hclean, hc⟩
    rw [packetTake_takes hp hq]
    refine ⟨fun hprog h5 hh => congrArg _ (takeFrom_passes hready hprog ?_), fun hprog ht => ?_⟩
    · rw [show (u.packetAt n one all).header = b.extractLsb' 0 64 from hh, hdrType_unit]
      exact h5
    · obtain ⟨i, hi, hrest⟩ := takeFrom_runs (k := k) hready hprog ht
      exact ⟨i, congrArg _ hi, hrest⟩
  · refine progLoad_loads hb (Bool.eq_false_iff.mpr fun h => ?_)
    obtain ⟨e, he, hep⟩ := List.any_eq_true.mp h
    rw [Bool.and_eq_true, beq_iff_eq] at hep
    exact hu e he hep.1 hep.2
  · refine progLoad_inUse hb ?_
    rw [hq]
    simp [he, hp]

end Sys2Proof.Machine
end

section
/-! PROOFS. The packets that the I/O die itself performs (chapter 03), confidential copies (chapter 04), and an ENQ that has arrived. -/

namespace Sys2Proof.Machine
open Sys2Proof.Says

section
variable {s : State} {u : BitVec 4} {p : Packet}

/-! ## A packet that has passed to dispatch (R73, R74) -/

theorem onPacket_dispatched {type : Byte} (h : Dispatched s u type p) (f : Packet → State → State) :
    onPacket u type f s = f p (s.setUnit u Interp.reset) := by
  obtain ⟨hp, ht⟩ := h
  rw [onPacket, hp]
  exact if_pos ht

theorem onSignal_dispatched {op : Byte} (h : Dispatched s u 4 p) (ho : p.sigOp = op) (f : Packet → State → State) :
    onSignal u op f s = f p (s.setUnit u Interp.reset) := by
  rw [onSignal, onPacket_dispatched h, if_pos ho]

theorem padPacket_leaves (h : Dispatched s u 1 p) : exec (.padPacket u) s = .next ((s.setUnit u Interp.reset).modQueue p.queue fun q =>
    { q with inflight := q.inflight.filter (· != p.id) }) :=
  congrArg _ (onPacket_dispatched h _)

/-! ## COPY within the host's memory (R77) -/

theorem hostRead_length (s : State) (fn : BitVec 8) (a : W64) (n : Nat) : (s.hostRead fn a n).length = n := by
  have h : Nat.min n (2 ^ 64 - a.toNat) ≤ n := Nat.min_le_left ..
  rw [State.hostRead, List.length_append, State.rdBytes, State.rdBytes, Mem.gets, Mem.gets, List.length_map, List.length_map,
    List.length_range, List.length_range]
  omega

theorem clean_bytes (l : List Byte) : (clean l).map (·.1) = l := by
  rw [clean, List.map_map]
  exact List.map_id l

/-- Nothing stops a copy within the host's memory but an error of the host (R77). -/
theorem firstStop_host (n h : Nat) : firstStop n [(n, 0x05), (n, 0x04), (h, 0x06), (n, 0x05), (h, 0x06)] = if h < n then (h, 0x06) else (n, 0) := by
  unfold firstStop
  simp only [List.foldl_cons, List.foldl_nil, Nat.lt_irrefl, if_false]
  by_cases hn : h < n
  · simp only [hn, Nat.not_lt.mpr (Nat.le_of_lt hn), if_true, if_false, Nat.lt_irrefl]
  · simp only [hn, if_false, Nat.lt_irrefl]

/-- A COPY that is not confidential and whose source and destination are host memory (R77). -/
structure Packet.HostCopy (p : Packet) : Prop where
  plain : (p.unit 0).getLsbD 258 = false
  src : (p.unit 0).getLsbD 256 = false
  dst : (p.unit 0).getLsbD 257 = false

def Packet.copySrc (p : Packet) : W64 := (p.unit 0).extractLsb' 64 64
def Packet.copyDst (p : Packet) : W64 := (p.unit 0).extractLsb' 128 64
def Packet.copyLen (p : Packet) : Nat := ((p.unit 0).extractLsb' 192 64 : W64).toNat

section
variable (hd : Dispatched s u 3 p) (hc : p.HostCopy)
include hd hc

theorem copyPacket_copies : exec (.copyPacket u none) s = .next (
    let f := s.setUnit u Interp.reset
    (f.hostWrite (s.queueFn p.queue) p.copyDst (f.hostRead (s.queueFn p.queue) p.copySrc p.copyLen)).completeFree p 0) := by
  refine congrArg _ ((onPacket_dispatched hd _).trans ?_)
  simp only [hc.plain, hc.src, hc.dst, Bool.false_eq_true, if_false, Bool.false_and]
  have hf := firstStop_host p.copyLen p.copyLen
  rw [if_neg (Nat.lt_irrefl _)] at hf
  unfold Packet.copyLen at hf ⊢
  simp only [Option.getD_none]
  rw [hf]
  simp only [List.map_take, clean_bytes, if_true]
  rw [List.take_of_length_le (hostRead_length ..).le]
  rfl

/-- An error of the host's memory ends the copy there (R77). -/
theorem copyPacket_stops {h : Nat} (hh : h < p.copyLen) : exec (.copyPacket u (some h)) s = .next (
    let f := s.setUnit u Interp.reset
    (f.hostWrite (s.queueFn p.queue) p.copyDst ((f.hostRead (s.queueFn p.queue) p.copySrc p.copyLen).take h)).complete p 0x06 (BitVec.ofNat 64 h)) := by
  refine congrArg _ ((onPacket_dispatched hd _).trans ?_)
  simp only [hc.plain, hc.src, hc.dst, Bool.false_eq_true, if_false, Bool.false_and]
  have hf := firstStop_host p.copyLen h
  rw [if_pos hh] at hf
  unfold Packet.copyLen at hf ⊢
  simp only [Option.getD_some]
  rw [hf]
  have h6 : ¬ (6 : Byte) = 0 := by decide
  have h4 : ¬ (6 : Byte) = 4 := by decide
  simp only [List.map_take, clean_bytes, if_neg h6, if_neg h4]
  rfl

end

/-! ## Confidential COPY (R104 to R107) -/

section
variable {ide err : Bool} (hd : Dispatched s u 3 p) (hc : (p.unit 0).getLsbD 258 = true)
include hd hc

theorem conf_of_dispatched : p.conf = true := by
  rw [Packet.conf, hd.2, hc]
  rfl

theorem confidentialCopy_begun {c : ConfCopy} (h : (s.unit u).conf = some c) : exec (.confidentialCopy u ide err) s = .next
    (if c.ended = true then (s.setUnit u Interp.reset).complete p 0x03 3 else (s.setUnit u Interp.reset).confWrite p c) := by
  refine congrArg Host.Outcome.next ?_
  simp only [hd.1, conf_of_dispatched hd hc, h, Bool.not_true, Bool.false_eq_true, if_false]

variable (hn : (s.unit u).conf = none) (hb : s.confBusy u p = false)
include hn hb

theorem confidentialCopy_fails {e : Byte × W64} (h : s.confCheck p ide err = .error e) :
    exec (.confidentialCopy u ide err) s = .next ((s.setUnit u Interp.reset).complete p e.1 e.2) := by
  refine congrArg Host.Outcome.next ?_
  simp only [hd.1, conf_of_dispatched hd hc, hn, hb, h, Bool.not_true, Bool.false_eq_true, if_false]

theorem confidentialCopy_writes {c : ConfCopy} (h : s.confCheck p ide err = .ok c) :
    exec (.confidentialCopy u ide err) s = .next ((s.setUnit u Interp.reset).confWrite p c) := by
  refine congrArg Host.Outcome.next ?_
  simp only [hd.1, conf_of_dispatched hd hc, hn, hb, h, Bool.not_true, Bool.false_eq_true, if_false]

end

theorem confCheck_notRunning {ide err : Bool} (h : (s.fn (s.queueFn p.queue)).tdi ≠ .run) : s.confCheck p ide err = .error (0x03, 3) := by
  unfold State.confCheck
  refine if_pos ?_
  rw [bne_iff_ne.mpr h]
  rfl

/-- What a packet whose channel is in slot `sl` must meet to be written (R105 steps 1 to 8): its counter is new, its text decrypts to
`plain`, and the pages of its destination are writable and have the context's key. -/
structure State.ConfGood (s : State) (p : Packet) (sl : Chan) (plain : List Byte) (ds : List ConfPiece) (c : Ctx) : Prop where
  run : (s.fn (s.queueFn p.queue)).tdi = .run
  ide : (s.fn (s.queueFn p.queue)).ide = true
  fn : sl.fn = s.queueFn p.queue
  chan : sl.chan = p.chan
  ctx : sl.ctx = (s.queue p.queue).ctx
  ctr : sl.lastCtr.toNat < ((p.unit 0).extractLsb' 320 64 : W64).toNat
  text : gcmDecrypt (leBytes 32 sl.key.toNat) (beBytes 4 p.chan.toNat ++ be8 ((p.unit 0).extractLsb' 320 64)) (be8 p.copyDst ++ be8 ((p.unit 0).extractLsb' 192 64))
    (s.hostRead (s.queueFn p.queue) p.copySrc p.copyLen) (leBytes 16 ((p.unit 0).extractLsb' 384 128 : BitVec 128).toNat) = some plain
  pieces : s.confPieces (s.queue p.queue).ctx p.copyDst p.copyLen = some ds
  live : s.ctx? (s.queue p.queue).ctx = some c
  keys : ∀ x ∈ ds, leafKey x.leaf = c.key

theorem confCheck_good {sl : Chan} {plain : List Byte} {ds : List ConfPiece} {c : Ctx} (hs : s.chans = [sl]) (h : s.ConfGood p sl plain ds c) :
    s.confCheck p true false = .ok {
      ended := false, fn := s.queueFn p.queue, chan := p.chan, ctx := (s.queue p.queue).ctx
      ctr := (p.unit 0).extractLsb' 320 64, plain := plain, dst := ds } := by
  have hslot : s.chans.find? (fun c => c.fn == s.queueFn p.queue && c.chan == p.chan) = some sl := by
    rw [hs, List.find?_cons_of_pos]
    rw [h.fn, h.chan, beq_self_eq_true, beq_self_eq_true]
    rfl
  have hkeys : (ds.any fun d => leafKey d.leaf != c.key) = false :=
    List.any_eq_false.mpr fun d hd => by rw [h.keys d hd, bne_self_eq_false]; decide
  have ht := h.text
  have hp := h.pieces
  unfold Packet.copyDst Packet.copySrc Packet.copyLen at ht
  unfold Packet.copyDst Packet.copyLen at hp
  unfold State.confCheck
  simp only [h.run, h.ide, hslot, h.ctx, Nat.not_le.mpr h.ctr, ht, hp, h.live, hkeys, bne_self_eq_false, Bool.not_true, Bool.or_false, Bool.false_eq_true,
    if_false, ne_eq, not_true_eq_false]

/-- Step 9 with one channel slot, the copy's own. -/
theorem confWrite_slot {f : State} {c : ConfCopy} {sl : Chan} (hs : f.chans = [sl]) (hn : sl.fn = c.fn) (hc : sl.chan = c.chan) : f.confWrite p c =
    (c.dst.foldl (fun (t : State) x => t.writeHome c.ctx x.leaf x.pa ((c.plain.drop (x.va - p.copyDst.toNat)).take x.n) false)
      { f with chans := [{ sl with lastCtr := c.ctr }] }).complete p 0 (BitVec.ofNat 64 c.plain.length) true := by
  have hown : updIf f.chans (fun x => x.fn == c.fn && x.chan == c.chan) (fun x => { x with lastCtr := c.ctr }) = [{ sl with lastCtr := c.ctr }] := by
    rw [hs, updIf, List.map_singleton, hn, hc, beq_self_eq_true, beq_self_eq_true]
    rfl
  unfold State.confWrite
  rw [hown]
  rfl

/-! ## SIGNAL (R78) -/

/-- The word of the host's memory that a SIGNAL names, as queue `n`'s function reads it. -/
def State.sigWord (s : State) (n : BitVec 10) (p : Packet) : W64 := BitVec.ofNat 64 (leNat (s.hostRead (s.queueFn n) p.sigAddr 8))

theorem signalWrite_host (hd : Dispatched s u 4 p) (ho : p.sigOp = 0) (hv : p.sigDev = false) : exec (.signalWrite u false) s = .next
    (((s.setUnit u Interp.reset).hostWrite (s.queueFn p.queue) p.sigAddr (leBytes 8 p.sigVal.toNat)).complete p 0 p.sigVal) := by
  refine congrArg _ ((onSignal_dispatched hd ho _).trans ?_)
  simp only [hv, Bool.false_eq_true, if_false]
  rfl

theorem signalWrite_dev (hd : Dispatched s u 4 p) (ho : p.sigOp = 0) (hv : p.sigDev = true) {f : State} (hf : s.setUnit u Interp.reset = f)
    (hw : f.devWritable (f.queue p.queue).ctx p.sigAddr 8 = true) : exec (.signalWrite u false) s = .next
    ((f.devWrite (f.queue p.queue).ctx p.sigAddr (clean (leBytes 8 p.sigVal.toNat))).complete p 0 p.sigVal true) := by
  refine congrArg _ ((onSignal_dispatched hd ho _).trans ?_)
  rw [hf]
  simp only [hv, hw, if_true]

theorem signalAdd_host (hd : Dispatched s u 4 p) (ho : p.sigOp = 1) (hv : p.sigDev = false) : exec (.signalAdd u true false) s = .next
    (let f := s.setUnit u Interp.reset
     (f.hostWrite (s.queueFn p.queue) p.sigAddr (leBytes 8 (f.sigWord p.queue p + p.sigVal).toNat)).complete p 0 (f.sigWord p.queue p)) := by
  refine congrArg _ ((onSignal_dispatched hd ho _).trans ?_)
  simp only [hv, Bool.not_true, Bool.false_eq_true, if_false]
  rfl

section
variable {n : Nat} (hv : p.sigDev = false)
include hv

theorem waitWord_host : s.waitWord p false = .ok (s.sigWord p.queue p) := by
  rw [State.waitWord, hv]
  rfl

theorem waitgeLook_reached (h : p.sigVal.toNat ≤ (s.sigWord p.queue p).toNat) :
    s.waitgeLook p n false = (s.modQueue p.queue fun q => { q with waitge := none }).complete p 0 (s.sigWord p.queue p) := by
  unfold State.waitgeLook
  rw [waitWord_host hv]
  exact if_pos h

theorem waitgeLook_times_out (h : (s.sigWord p.queue p).toNat < p.sigVal.toNat) (hl : p.sigLimit ≠ 0) (hn : n = p.sigLimit) :
    s.waitgeLook p n false = (s.modQueue p.queue fun q => { q with waitge := none }).complete p 0x02 (s.sigWord p.queue p) := by
  have hlast : (decide (p.sigLimit ≠ 0) && decide (n = p.sigLimit)) = true := by rw [decide_eq_true hl, decide_eq_true hn]; rfl
  unfold State.waitgeLook
  rw [waitWord_host hv]
  exact (if_neg (Nat.not_le.mpr h)).trans (if_pos hlast)

theorem waitgeLook_waits (h : (s.sigWord p.queue p).toNat < p.sigVal.toNat) (hl : p.sigLimit = 0 ∨ n ≠ p.sigLimit) :
    s.waitgeLook p n false = s.modQueue p.queue fun q => { q with waitge := some (p, n, false) } := by
  have hmore : ¬ (decide (p.sigLimit ≠ 0) && decide (n = p.sigLimit)) = true := by
    rw [Bool.and_eq_true, decide_eq_true_eq, decide_eq_true_eq]
    omega
  unfold State.waitgeLook
  rw [waitWord_host hv]
  exact (if_neg (Nat.not_le.mpr h)).trans (if_neg hmore)

end

theorem signalWaitge_looks (hd : Dispatched s u 4 p) (ho : p.sigOp = 2) :
    exec (.signalWaitge u false) s = .next ((s.setUnit u Interp.reset).waitgeLook p 0 false) :=
  congrArg _ (onSignal_dispatched hd ho _)

theorem signalWaitgeTick_due {n : BitVec 10} {k : Nat} (h : (s.queue n).waitge = some (p, k, true)) :
    exec (.signalWaitgeTick n false) s = .next (s.waitgeLook p k false) := by
  refine congrArg Host.Outcome.next ?_
  dsimp only
  unfold State.waitgeDue
  rw [h]

theorem signalWaitgeTick_notDue {n : BitVec 10} {k : Nat} (h : (s.queue n).waitge = some (p, k, false)) :
    exec (.signalWaitgeTick n false) s = .next s := by
  refine congrArg Host.Outcome.next ?_
  dsimp only
  unfold State.waitgeDue
  rw [h]

/-! ## FENCE (R75) -/

theorem pushCompl_queue (s : State) (n m : BitVec 10) (b : BitVec 512) (i w : Bool) : (s.pushCompl n b i w).queue m = s.queue m := rfl
theorem pushCompl_tiles (s : State) (n : BitVec 10) (b : BitVec 512) (i w : Bool) : (s.pushCompl n b i w).tiles = s.tiles := rfl
theorem pushCompl_mem (s : State) (n : BitVec 10) (b : BitVec 512) (i w : Bool) : (s.pushCompl n b i w).mem = s.mem := rfl

section
variable (s) (p : Packet) (st : Byte) (r : W64)

theorem complete_queue : (s.complete p st r).queue p.queue =
    { s.queue p.queue with inflight := (s.queue p.queue).inflight.filter (· != p.id) } := by
  unfold State.complete
  by_cases h : hdrCmpl p.header = true
  · simp only [h, if_true, Bool.false_eq_true, if_false, pushCompl_queue, State.queue_setQueue]
  · simp only [h, Bool.false_eq_true, if_false, State.queue_setQueue]

theorem complete_tiles : (s.complete p st r).tiles = s.tiles := by
  unfold State.complete
  by_cases h : hdrCmpl p.header = true
  · simp only [h, if_true, Bool.false_eq_true, if_false, pushCompl_tiles]
    rfl
  · simp only [h, Bool.false_eq_true, if_false]
    rfl

theorem complete_mem : (s.complete p st r).mem = s.mem := by
  unfold State.complete
  by_cases h : hdrCmpl p.header = true
  · simp only [h, if_true, Bool.false_eq_true, if_false, pushCompl_mem]
    rfl
  · simp only [h, Bool.false_eq_true, if_false]
    rfl

end

/-- Every die drained, as a FENCE has it before it completes. -/
def State.drained (s : State) : State := [(0 : BitVec 2), 1, 2, 3].foldl State.drainDie s

theorem drained_homeSide (s : State) : s.HomeSide s.drained := .foldl (fun _ _ => drainDie_homeSide ..) _ s

theorem fencePacket_waits {n : BitVec 10} (hf : (s.queue n).fence = some p) (hi : (s.queue n).inflight ≠ [p.id]) :
    exec (.fencePacket n) s = .next s := by
  refine congrArg Host.Outcome.next ?_
  dsimp only
  rw [hf]
  exact if_pos (bne_iff_ne.mpr hi)

theorem fencePacket_drains {n : BitVec 10} (hf : (s.queue n).fence = some p) (hi : (s.queue n).inflight = [p.id]) :
    exec (.fencePacket n) s = .next ((s.drained.modQueue n fun q => { q with fence := none }).completeFree p 0) := by
  refine congrArg Host.Outcome.next ?_
  dsimp only
  rw [hf]
  exact if_neg (by rw [hi, bne_self_eq_false]; decide)

/-- A drained FENCE is gone from its queue, and nothing but its record follows it. -/
theorem completeFree_fence (s : State) {p : Packet} {n : BitVec 10} (hp : p.queue = n) (hi : (s.queue n).inflight = [p.id]) :
    let t := (s.modQueue n fun q => { q with fence := none }).completeFree p 0
    (t.queue n).fence = none ∧ (t.queue n).inflight = [] ∧ t.tiles = s.tiles ∧ t.mem = s.mem := by
  subst hp
  have hq : (({ s.modQueue p.queue fun q => { q with fence := none } with fresh := s.fresh + 1 } : State)).queue p.queue =
      { s.queue p.queue with fence := none } := State.queue_setQueue ..
  dsimp only [State.completeFree, State.free]
  rw [complete_tiles, complete_mem]
  refine ⟨?_, ?_, rfl, rfl⟩
  · rw [complete_queue]
    exact congrArg Queue.fence hq
  · rw [complete_queue]
    refine (congrArg (fun q : Queue => q.inflight.filter (· != p.id)) hq).trans ?_
    dsimp only
    rw [hi, List.filter_cons_of_neg (by rw [bne_self_eq_false]; decide), List.filter_nil]

/-! ## An ENQ that has arrived (R85, R376) -/

/-- What becomes of tile `t` when its oldest ENQ, which set flag `f`, is answered; `r` are the later ones (R376, R378). -/
def Tile.enqAnswered (r : List EnqReq) (f : F3) (full : Bool) (t : Tile) : Tile :=
  let t := { t with enqs := r }
  if !t.fpend.getLsbD f.toNat || r.any (fun x => x.flag == f) then t
  else if t.stop.isSome || t.capturing.isSome then { t with alog := t.alog ++ [.flag f full] }
  else t.wrF f full

/-- At a tile that runs on and still waits for that answer, it is the flag. -/
theorem Tile.enqAnswered_waiting {t : Tile} {r : List EnqReq} {f : F3} {full : Bool} (hf : t.fpend.getLsbD f.toNat = true) (hr : ∀ x ∈ r, x.flag ≠ f)
    (hs : t.stop = none) (hc : t.capturing = none) : t.enqAnswered r f full = Tile.wrF { t with enqs := r } f full := by
  have hany : (r.any fun x => x.flag == f) = false := List.any_eq_false.mpr fun x hx => by rw [beq_eq_false_iff_ne.mpr (hr x hx)]; decide
  unfold Tile.enqAnswered
  dsimp only
  rw [hf, hany, hs, hc]
  rfl

/-- The state in which an ENQ of tile `g` is judged: the tile's earlier stores are at their homes (R376). -/
def State.settled (s : State) (g : BitVec 8) : State := (s.dirtyBack g).drainDie (dieOf g)

/-- Queue `n` of `d` with a packet of the ENQ written at its tail, and its publication (R85, R70). -/
def State.enqWritten (d : State) (e : EnqReq) : State :=
  let q := d.queue e.queue
  ((d.devWrite q.ctx (q.unitAt q.tail) (clean (wordBytes e.words))).setQueue e.queue { q with tail := q.tail + 1 }).publish e.queue q.tail 1

theorem publish_tile (s : State) (n : BitVec 10) (c : BitVec 32) (k : Nat) (g : BitVec 8) : (s.publish n c k).tile g = s.tile g := rfl

theorem enqWritten_tile (d : State) (e : EnqReq) (g : BitVec 8) : (d.tile g).L1Only ((d.enqWritten e).tile g) := by
  rw [State.enqWritten, publish_tile]
  exact (devWrite_homeSide ..).tile g

section
variable {g : BitVec 8} {e : EnqReq} {l : List EnqReq} (hr : s.railsOff = false) (he : (s.tile g).enqs = e :: l) (hcl : (s.tile g).claims = [])
include hr he hcl

theorem enqArrival_full (hfull : (((s.settled g).queue e.queue).tail - ((s.settled g).queue e.queue).head).toNat = 2 ^ ((s.settled g).queue e.queue).log2n.toNat) :
    exec (.enqArrival g) s = .next ((s.settled g).modTile g (Tile.enqAnswered l e.flag true)) := by
  show execEnqArrival g s = _
  rw [execEnqArrival, powered_on _ hr]
  refine congrArg Host.Outcome.next ?_
  have hf : (((s.settled g).queue e.queue).tail - ((s.settled g).queue e.queue).head).toNat == ((s.settled g).queue e.queue).size := beq_iff_eq.mpr hfull
  unfold State.settled at hf ⊢
  dsimp only
  rw [he]
  simp only [hcl, hf, List.isEmpty_nil, Bool.not_true, Bool.false_and, Bool.false_eq_true, if_false, Bool.not_false]
  rfl

theorem enqArrival_writes (hroom : (((s.settled g).queue e.queue).tail - ((s.settled g).queue e.queue).head).toNat ≠ 2 ^ ((s.settled g).queue e.queue).log2n.toNat)
    (hen : ((s.settled g).queue e.queue).en = true) (hsrc : ((s.settled g).queue e.queue).src = true)
    (hw : (s.settled g).devWritable ((s.settled g).queue e.queue).ctx (((s.settled g).queue e.queue).unitAt ((s.settled g).queue e.queue).tail) 64 = true) :
    exec (.enqArrival g) s = .next (((s.settled g).enqWritten e).modTile g (Tile.enqAnswered l e.flag false)) := by
  show execEnqArrival g s = _
  rw [execEnqArrival, powered_on _ hr]
  refine congrArg Host.Outcome.next ?_
  have hf : ((((s.settled g).queue e.queue).tail - ((s.settled g).queue e.queue).head).toNat == ((s.settled g).queue e.queue).size) = false := beq_eq_false_iff_ne.mpr hroom
  unfold State.enqWritten
  unfold State.settled at hf hen hsrc hw ⊢
  dsimp only
  rw [he]
  simp only [hcl, hf, hen, hsrc, hw, List.isEmpty_nil, Bool.not_true, Bool.false_eq_true, if_false, Bool.not_false, Bool.and_true, if_true]
  rfl

end

section
variable {g : BitVec 8} {f : F3} (hs : (s.tile g).stop = none) (hc : (s.tile g).capturing = none) (hf : (s.tile g).fpend.getLsbD f.toNat = true)
include hs hc hf

/-- A tile that differs from one that waits in its L1D only is answered by its flag. -/
theorem modTile_enqAnswered {d : State} (hd : (s.tile g).L1Only (d.tile g)) {r : List EnqReq} (hr : ∀ x ∈ r, x.flag ≠ f) (full : Bool) :
    d.modTile g (Tile.enqAnswered r f full) = d.modTile g fun t => Tile.wrF { t with enqs := r } f full := by
  obtain ⟨l1, ht, -⟩ := hd
  refine congrArg (d.setTile g) (Tile.enqAnswered_waiting ?_ hr ?_ ?_)
  · rw [ht]
    exact hf
  · rw [ht]
    exact hs
  · rw [ht]
    exact hc

end

end

/-- Settles O49. The RESULT of a copy is free (log 2); an error of the host ends a copy where the event's operand says (log 41); and an ENQ
arrives in a step of its own (log 36), whose drained stores leave the tile's flags as they are. -/
theorem packetEvents : Obligations.PacketEvents := by
  unfold Obligations.PacketEvents
  intro s u p n g k v src dst len addr value op dev limit f q fn word
  refine ⟨fun h => padPacket_leaves h, fun h hp hs hd => ⟨_, copyPacket_copies h ⟨hp, hs, hd⟩⟩, fun _ h hp hs hd hh => copyPacket_stops h ⟨hp, hs, hd⟩ hh,
    fun h hp hn hb ht => confidentialCopy_fails (e := (0x03, 3)) h hp hn hb (confCheck_notRunning ht), ?confidential, fun c ide err h hp hc => confidentialCopy_begun h hp hc,
    fun h ho hv => signalWrite_host h ho hv, fun h ho hv hw => signalWrite_dev h ho hv rfl hw, fun h ho hv => signalAdd_host h ho hv,
    fun h ho hv => ⟨fun hw => ?_, fun hw => ?_⟩, fun j h => signalWaitgeTick_notDue h, ?tick, fun hf hi => fencePacket_waits hf hi, ?fence, ?enq⟩
  case confidential =>
    intro sl plain ds c chan ctr h hp hn hb ht hi hs hfn hch hctx hctr htext hpieces hlive hkeys
    have hgood : s.ConfGood p sl plain ds c := ⟨ht, hi, hfn, hch, hctx, hctr, htext, hpieces, hlive, hkeys⟩
    rw [confidentialCopy_writes h hp hn hb (confCheck_good hs hgood)]
    exact congrArg Host.Outcome.next (confWrite_slot hs hfn hch)
  · rw [signalWaitge_looks h ho]
    exact congrArg Host.Outcome.next (waitgeLook_reached hv hw)
  · rw [signalWaitge_looks h ho]
    refine congrArg Host.Outcome.next (waitgeLook_waits hv hw ?_)
    exact (eq_or_ne p.sigLimit 0).imp id Ne.symm
  case tick =>
    rintro h rfl hv w
    rw [signalWaitgeTick_due h]
    exact ⟨fun hw => congrArg Host.Outcome.next (waitgeLook_reached hv hw), fun hw hl hk => congrArg Host.Outcome.next (waitgeLook_times_out hv hw hl hk),
      fun hw hl => congrArg Host.Outcome.next (waitgeLook_waits hv hw hl)⟩
  case fence =>
    intro hf hi hp
    have hq : (s.drained.queue n).inflight = [p.id] := by rw [(drained_homeSide s).queue, hi]
    exact ⟨_, fencePacket_drains hf hi, completeFree_fence s.drained hp hq⟩
  case enq =>
    intro e l hr he hcl hs hc hf hl d q
    have hd : (s.tile g).L1Only (d.tile g) := (settle_homeSide s g).tile g
    refine ⟨fun hfull => ?_, fun hroom hen hsrc hw => ?_⟩
    · rw [enqArrival_full hr he hcl hfull]
      exact congrArg Host.Outcome.next (modTile_enqAnswered hs hc hf hd hl true)
    · rw [enqArrival_writes hr he hcl hroom hen hsrc hw]
      exact congrArg Host.Outcome.next (modTile_enqAnswered hs hc hf (hd.trans (enqWritten_tile d e g)) hl false)

end Sys2Proof.Machine
end

section
/-! PROOFS. What the end of a context (R295) leaves of the package: the fields that nodes, messages to a home, homes, tiles, launches and
completions write are set aside, and every other field stays. -/

namespace Sys2Proof.Machine

/-! ## The state beside a context's end -/

/-- The state with the fields set aside that the end of a context may write; of the others each is read off an equation of such states. -/
def State.beside (s : State) : State :=
  { s with
    mem := [], poison := [], lineKey := [], gran := [], homeDir := [], tiles := [], dies := State.reset.dies, homes := State.reset.homes
    ctxs := [], images := [], held := none, queues := [], rings := [], out := [], ports := State.reset.ports, dirReqs := [], launches := []
    nss := [], nsGo := false, nsCode := 0, pools := State.reset.pools, nodes := [], index := [], errOvf := false, errLost := 0 }

theorem foldl_beside {β : Type} {f : State → β → State} (h : ∀ s x, (f s x).beside = s.beside) (l : List β) (s : State) :
    (l.foldl f s).beside = s.beside :=
  List.foldlRecOn (motive := fun t => t.beside = s.beside) l f rfl fun t ht x _ => (h t x).trans ht

theorem State.StorageOnly.beside {s t : State} (h : s.StorageOnly t) : t.beside = s.beside := by
  obtain ⟨_, _, _, _, rfl⟩ := h
  rfl

@[simp] theorem wrDev_beside (s : State) (ctx : BitVec 16) (key : BitVec 12) (pa : Nat) (bs : List Byte) (p : Bool) :
    (s.wrDev ctx key pa bs p).beside = s.beside := (wrDev_storage ..).beside

@[simp] theorem modCtx_beside (s : State) (c : BitVec 16) (f : Ctx → Ctx) : (s.modCtx c f).beside = s.beside := by
  unfold State.modCtx
  split <;> rfl

@[simp] theorem raiseErr_beside (s : State) (e : ErrRec) : (s.raiseErr e).beside = s.beside := by
  obtain ⟨_, _, _, h⟩ := raiseErr_eq s e
  rw [h]
  rfl

@[simp] theorem setTile_beside (s : State) (g : BitVec 8) (t : Tile) : (s.setTile g t).beside = s.beside := rfl
@[simp] theorem modTile_beside (s : State) (g : BitVec 8) (f : Tile → Tile) : (s.modTile g f).beside = s.beside := rfl
@[simp] theorem setDie_beside (s : State) (d : BitVec 2) (x : Die) : (s.setDie d x).beside = s.beside := rfl
@[simp] theorem setQueue_beside (s : State) (q : BitVec 10) (x : Queue) : (s.setQueue q x).beside = s.beside := rfl
@[simp] theorem emit_beside (s : State) (o : Output) : (s.emit o).beside = s.beside := rfl
@[simp] theorem setPort_beside (s : State) (pn : BitVec 4) (x : Port) : (s.setPort pn x).beside = s.beside := rfl
@[simp] theorem modPool_beside (s : State) (j : BitVec 4) (f : Pool → Pool) : (s.modPool j f).beside = s.beside := rfl

/-! ## Nodes, the index and counts (R217, R220, R228) -/

@[simp] theorem setNode_beside (s : State) (h : BitVec 32) (n : Node) : (s.setNode h n).beside = s.beside := by
  simp only [State.setNode, apply_ite State.beside, wrDev_beside, ite_self]
  rfl

@[simp] theorem modNode_beside (s : State) (h : BitVec 32) (f : Node → Node) : (s.modNode h f).beside = s.beside := setNode_beside ..

@[simp] theorem indexDel_beside (s : State) (h : BitVec 32) : (s.indexDel h).beside = s.beside :=
  foldl_beside (fun t _ => foldl_beside (fun _ _ => wrDev_beside ..) _ t) _ { s with index := _ }

@[simp] theorem closingRemoval_beside (s : State) (h : BitVec 32) : (s.closingRemoval h).beside = s.beside := by
  simp only [State.closingRemoval, apply_ite State.beside, setNode_beside, indexDel_beside, ite_self]

@[simp] theorem unref_beside (s : State) (h : BitVec 32) : (s.unref h).beside = s.beside := by
  simp only [State.unref, apply_ite State.beside, closingRemoval_beside, modNode_beside, ite_self]

/-! ## Messages to a name's home (R29, R53, R54) -/

theorem letGo_beside (s : State) (h : AnswerHold) : (s.letGo h).beside = s.beside := by
  unfold State.letGo
  cases h.node <;> cases h.src <;> simp only [setPort_beside, unref_beside]

theorem sendFlit_beside (s : State) (pn : BitVec 4) (f : Flit) : (s.sendFlit pn f).beside = s.beside :=
  foldl_beside letGo_beside _ (State.emit (s.setPort pn _) _)

theorem pumpGo_beside (pn : BitVec 4) (n : Nat) (s : State) : (State.pumpGo pn n s).beside = s.beside := by
  induction n generalizing s with
  | zero => rfl
  | succ n ih =>
    unfold State.pumpGo
    dsimp only
    split
    · rfl
    · rw [ih, sendFlit_beside, setPort_beside]

/-- A message that is sent, or that fails for want of a route. -/
theorem sendDir_getD_beside (s t : State) (dst : BitVec 12) (m : DirMsg) (extra : List (List Byte)) (data : List Byte) (ht : t.beside = s.beside) :
    ((s.sendDir dst m extra data).getD t).beside = s.beside := by
  unfold State.sendDir State.sendMsg
  split
  · exact ht
  · exact pumpGo_beside ..

theorem dirAnnounce_beside (s : State) (nsid : BitVec 32) (name : BitVec 128) (depth : BitVec 16) (h : Holder) :
    (s.dirAnnounce nsid name depth h).beside = s.beside := by
  unfold State.dirAnnounce
  dsimp only
  split_ifs
  · rfl
  · split
    · exact (dirPut_storage ..).beside
    · split
      · exact (dirPut_storage ..).beside
      · rfl

theorem dirDrop_beside (s : State) (pkg : BitVec 12) (x : Nat × DirEntry) : (s.dirDrop pkg x).beside = s.beside := by
  unfold State.dirDrop
  split
  · exact (dirPut_storage ..).beside
  · rfl

theorem dirWithdraw_beside (s : State) (nsid : BitVec 32) (name : BitVec 128) (depth : BitVec 16) (pkg : BitVec 12) :
    (s.dirWithdraw nsid name depth pkg).beside = s.beside := by
  unfold State.dirWithdraw
  split
  · exact foldl_beside (fun t x => dirDrop_beside t pkg x) _ s
  · split
    · exact dirDrop_beside ..
    · rfl

@[simp] theorem tellHome_beside (s : State) (op : Byte) (nsid : BitVec 32) (name : BitVec 128) (depth : BitVec 16) (tier : BitVec 2) :
    (s.tellHome op nsid name depth tier).beside = s.beside := by
  unfold State.tellHome
  by_cases he : (!s.dirEn) = true
  · rw [if_pos he]
  rw [if_neg he]
  split
  · rfl
  · simp only [apply_ite State.beside, dirAnnounce_beside, dirWithdraw_beside, sendDir_getD_beside _ _ _ _ _ _ (emit_beside ..), ite_self]

/-! ## Nodes that are freed, references that are dropped (R219, R222) -/

@[simp] theorem nsGone_beside (s : State) (nsid : BitVec 32) : (s.nsGone nsid).beside = s.beside := by
  unfold State.nsGone
  split
  · rfl
  · dsimp only
    split_ifs
    · exact tellHome_beside ..
    · rfl
    · rfl

@[simp] theorem freeGroups_beside (s : State) (gs : List Group) : (s.freeGroups gs).beside = s.beside :=
  foldl_beside (fun t g => by dsimp only; split <;> rfl) gs s

@[simp] theorem freeNode_beside (k : Nat) (s : State) (h : BitVec 32) : (State.freeNode k s h).beside = s.beside := by
  induction k generalizing s h with
  | zero => rfl
  | succ k ih =>
    simp only [State.freeNode, State.giveRecord, apply_ite State.beside, nsGone_beside, setNode_beside, modPool_beside, freeGroups_beside, ih,
      closingRemoval_beside, tellHome_beside, indexDel_beside, ite_self]

@[simp] theorem decRef_beside (s : State) (h : BitVec 32) : (s.decRef h).beside = s.beside := by
  simp only [State.decRef, apply_ite State.beside, freeNode_beside, closingRemoval_beside, setNode_beside, ite_self]

theorem dropAllRefs_beside (s : State) (c : BitVec 16) : (s.dropAllRefs c).beside = s.beside := by
  unfold State.dropAllRefs
  split
  · rfl
  · rw [foldl_beside fun t _ => decRef_beside .., modCtx_beside]

/-! ## Writes at the homes (R192, R249, R250) -/

@[simp] theorem unhold_beside (s : State) (line u : Nat) : (s.unhold line u).beside = s.beside := by
  unfold State.unhold
  dsimp only
  split <;> rfl

@[simp] theorem setHolders_beside (s : State) (line : Nat) (r : HomeLine) : (s.setHolders line r).beside = s.beside := rfl

@[simp] theorem landWrite_beside (s : State) (ctx : BitVec 16) (key : BitVec 12) (line : Nat) (m : BitVec 64) (v : BitVec 512) (p : Bool)
    (vc : Vector W64 4) : (s.landWrite ctx key line m v p vc).beside = s.beside := (wrLine_storage s ctx key line m v p).beside

@[simp] theorem mergeBack_beside (s : State) (u : Nat) (l : L1Line) : (s.mergeBack u l).beside = s.beside := landWrite_beside ..

@[simp] theorem modHolder_beside (s : State) (u : Nat) (f : Tile → Tile) : (s.modHolder u f).beside = s.beside := by
  unfold State.modHolder
  split
  · rfl
  · split <;> rfl

theorem invalidate_beside (s : State) (line u : Nat) (m : BitVec 64) : (s.invalidate line u m).beside = s.beside := by
  unfold State.invalidate
  split
  · exact unhold_beside ..
  · split
    · exact unhold_beside ..
    · exact modHolder_beside ..

@[simp] theorem clearValid_beside (s : State) (line : Nat) (g : Option (BitVec 8)) (m : BitVec 64) : (s.clearValid line g m).beside = s.beside :=
  foldl_beside (fun t h => by rw [apply_ite State.beside, invalidate_beside, ite_self]) _ s

theorem pullOwn_beside (s : State) (line u : Nat) : (s.pullOwn line u).beside = s.beside := by
  unfold State.pullOwn
  dsimp only
  split
  · rfl
  · refine (foldl_beside (fun t w => ?_) _ _).trans rfl
    split
    · exact landWrite_beside ..
    · rw [unhold_beside, HomeWrite.land, landWrite_beside]
    · rw [clearValid_beside, HomeWrite.land, landWrite_beside]

theorem recallOne_beside (s : State) (line u : Nat) : (s.recallOne line u).beside = s.beside := by
  unfold State.recallOne
  split
  · exact unhold_beside ..
  · dsimp only
    split_ifs <;> simp only [unhold_beside, setHolders_beside, modHolder_beside, mergeBack_beside]

theorem recall_beside (s : State) (line : Nat) (g : Option (BitVec 8)) (m : BitVec 64) : (s.recall line g m).beside = s.beside :=
  foldl_beside (fun t h => by rw [apply_ite State.beside, recallOne_beside, pullOwn_beside, ite_self]) _ s

theorem writeHome_beside (s : State) (ctx : BitVec 16) (leaf : BitVec 128) (pa : Nat) (bs : List Byte) (p : Bool) :
    (s.writeHome ctx leaf pa bs p).beside = s.beside := by
  rw [State.writeHome, wrDev_beside]
  split
  · exact foldl_beside (fun t l => by rw [clearValid_beside, recall_beside]) _ s
  · rfl

theorem devWrite_beside (s : State) (ctx : BitVec 16) (va : W64) (bs : List PByte) : (s.devWrite ctx va bs).beside = s.beside :=
  foldl_beside (fun t p => by
    dsimp only
    split
    · exact writeHome_beside ..
    · rfl) _ s

/-! ## Launches that leave, tiles and images that are discarded (R137, R295) -/

theorem countUsers_beside (s : State) (hs : List (BitVec 14)) (up : Bool) : (s.countUsers hs up).beside = s.beside :=
  foldl_beside (fun t h => by
    unfold State.modRes
    split
    · rfl
    · exact devWrite_beside ..) hs s

@[simp] theorem complete_beside (s : State) (p : Packet) (st : Byte) (r : W64) (w : Bool) : (s.complete p st r w).beside = s.beside := by
  have hpush (t : State) (q : BitVec 10) (b : BitVec 512) (i u : Bool) : (t.pushCompl q b i u).beside = t.beside := rfl
  simp only [State.complete, apply_ite State.beside, hpush, modCtx_beside, setQueue_beside, ite_self]

theorem finishLaunch_beside (s : State) (l : Launch) (st : Byte) : (s.finishLaunch l st).beside = s.beside := by
  unfold State.finishLaunch
  dsimp only
  generalize hc : (if l.counted then s.countUsers l.handles false else s) = c
  have hcount : c.beside = s.beside := by rw [← hc, apply_ite State.beside, countUsers_beside, ite_self]
  refine (complete_beside (State.settleHeld _) l.packet st _ _).trans ?_
  exact (foldl_beside (fun t g => modTile_beside t g _) _ c).trans hcount

theorem dropHolds_beside (s : State) (c : Cmd) : (s.dropHolds c).beside = s.beside := by
  rw [State.dropHolds, foldl_beside decRef_beside, freeGroups_beside]

theorem discardTile_beside (s : State) (g : BitVec 8) : (s.discardTile g).beside = s.beside := by
  unfold State.discardTile
  exact (foldl_beside dropHolds_beside _ (s.forgetAsks g)).trans rfl

theorem dropImage_beside (s : State) (h : Nat) : (s.dropImage h).beside = s.beside := by
  unfold State.dropImage
  split
  · rfl
  · exact foldl_beside dropHolds_beside _ s

/-! ## The end of a context (R295) -/

theorem endContext_beside (s : State) (c : BitVec 16) (cause : Cause) : (s.endContext c cause).beside = s.beside := by
  have hends (l : List (Nat × Launch)) (t : State) : (l.foldl (fun s e => s.finishLaunch e.2 (endStatus cause)) t).beside = t.beside :=
    foldl_beside (fun _ _ => finishLaunch_beside ..) l t
  unfold State.endContext
  extract_lets tilesGone refsGone queuesShut launchesGone imagesGone granulesFree
  have hfree : granulesFree.beside = s.beside :=
    calc granulesFree.beside
      _ = imagesGone.beside := rfl
      _ = launchesGone.beside := foldl_beside dropImage_beside _ launchesGone
      _ = queuesShut.beside := hends _ queuesShut
      _ = refsGone.beside := rfl
      _ = tilesGone.beside := dropAllRefs_beside ..
      _ = s.beside := foldl_beside discardTile_beside _ s
  clear_value granulesFree
  split
  · rw [modCtx_beside, hfree]
  · exact hfree

theorem driverEnd_beside (s : State) (c : BitVec 16) (fn : BitVec 8) : (s.driverEnd c fn).beside = s.beside := by
  simp only [State.driverEnd, apply_ite State.beside, endContext_beside, raiseErr_beside, ite_self]

end Sys2Proof.Machine
end

section
/-! PROOFS. The root of trust and the confidential channels (chapter 04): boot, measurements, the SPDM responder, channel slots, and the
states of a function's interface. -/

namespace Sys2Proof.Machine

/-! ## Package reset and boot (R93, R94) -/

theorem bootRun_runs {s : State} {c : Option BootImage} (h : s.copyCode c = 0) (b : Bool) :
    (s.bootRun c b).bootB = b ∧ (s.bootRun c b).recovery = false ∧ (s.bootRun c b).bootCode = 0 := by
  cases c with
  | none => exact absurd h (by decide : (0x01 : Byte) ≠ 0)
  | some i => exact ⟨rfl, rfl, rfl⟩

/-- What the boot ROM decides is held in the fields of R93's status, of the firmware's version and of the measurements. -/
def State.BootOnly (s t : State) : Prop := ∃ (c : Byte) (b r : Bool) (v : BitVec 16) (m : Vector (BitVec 256) 16),
  t = { s with bootCode := c, bootB := b, recovery := r, svnIo := v, mreg := m }

theorem bootRun_only (s : State) (c : Option BootImage) (b : Bool) : s.BootOnly (s.bootRun c b) := by
  cases c with
  | none => exact ⟨_, _, _, _, _, rfl⟩
  | some i => exact ⟨_, _, _, _, _, rfl⟩

section
variable {s : State}

theorem boot_runsA (h : s.copyCode s.flashA = 0) : s.boot = s.bootRun s.flashA false := if_pos h

theorem boot_runsB (hA : s.copyCode s.flashA ≠ 0) (hB : s.copyCode s.flashB = 0) : s.boot = s.bootRun s.flashB true :=
  (if_neg hA).trans (if_pos hB)

theorem boot_recovers (hA : s.copyCode s.flashA ≠ 0) (hB : s.copyCode s.flashB ≠ 0) :
    s.boot = { s with bootCode := s.copyCode s.flashB, bootB := false, recovery := true } := (if_neg hA).trans (if_neg hB)

end

theorem boot_only (s : State) : s.BootOnly s.boot := by
  by_cases hA : s.copyCode s.flashA = 0
  · rw [boot_runsA hA]
    exact bootRun_only ..
  · by_cases hB : s.copyCode s.flashB = 0
    · rw [boot_runsB hA hB]
      exact bootRun_only ..
    · rw [boot_recovers hA hB]
      exact ⟨_, _, _, _, _, rfl⟩

/-- No other table, and nothing in flash or fuses, changes. -/
theorem State.BootOnly.keeps {s t : State} (h : s.BootOnly t) : t.tiles = s.tiles ∧ t.queues = s.queues ∧ t.chans = s.chans ∧
    t.flashA = s.flashA ∧ t.flashB = s.flashB ∧ t.keyHash0 = s.keyHash0 ∧ t.keyHash1 = s.keyHash1 ∧ t.floorIo = s.floorIo ∧ t.floorDc = s.floorDc ∧
    t.debug = s.debug := by
  obtain ⟨_, _, _, _, _, rfl⟩ := h
  exact ⟨rfl, rfl, rfl, rfl, rfl, rfl, rfl, rfl, rfl, rfl⟩

/-- Flash and fuses are kept, so a copy is judged as before the reset. -/
theorem afterReset_copyCode (s : State) (c : Option BootImage) : s.afterReset.copyCode c = s.copyCode c := by
  cases c <;> rfl

theorem packageReset_boots (s : State) : exec .packageReset s = .next s.afterReset.boot := rfl

/-! ## A die controller's image (R93, R94) -/

section
variable {s : State} {d : BitVec 2} {img : BootImage}

theorem dieRomImageCheck_fails (h : s.bootCheck 2 img ≠ 0) : exec (.dieRomImageCheck d img) s = .next s := by
  refine congrArg Host.Outcome.next (if_pos ?_)
  rw [bne_iff_ne.mpr h, Bool.or_true]

theorem dieRomImageCheck_runs (hr : s.recovery = false) (hi : s.dcImage = some img) (hb : ∀ k : BitVec 2, k.toNat < d.toNat → (s.die k).fw = true)
    (hd : (s.die d).fw = false) (hc : s.bootCheck 2 img = 0) :
    exec (.dieRomImageCheck d img) s = .next ((s.setDie d { s.die d with fw := true }).extendMreg 1 (sha256 (img.header.take 128))) := by
  have hbefore : ((List.range d.toNat).all fun k => (s.die (BitVec.ofNat 2 k)).fw) = true := by
    refine List.all_eq_true.mpr fun k hk => hb _ (Nat.lt_of_le_of_lt ?_ (List.mem_range.mp hk))
    exact (BitVec.toNat_ofNat ..).trans_le (Nat.mod_le ..)
  refine congrArg Host.Outcome.next (if_neg ?_)
  rw [hr, hi, hbefore, hd, hc, bne_self_eq_false, bne_self_eq_false]
  decide

end

/-! ## Measurement registers (R95) -/

section
variable {s : State} (hg : s.mextGo = true)
include hg

theorem mextGo_extends (h : 8 ≤ s.mextIdx.toNat) : exec .mextGo s =
    .next (({ s with mextGo := false, mextCode := 0 } : State).extendMreg s.mextIdx (leBytes 32 s.mextData.toNat)) :=
  congrArg Host.Outcome.next ((if_neg (by rw [hg]; decide)).trans (if_neg (Nat.not_lt.mpr h)))

theorem mextGo_refuses (h : s.mextIdx.toNat < 8) : exec .mextGo s = .next { s with mextGo := false, mextCode := 1 } :=
  congrArg Host.Outcome.next ((if_neg (by rw [hg]; decide)).trans (if_pos h))

end

/-! ## The measurement blocks and the report (R97, R98) -/

theorem measBlocks_register (s : State) (fn : BitVec 8) (nonce : BitVec 256) (j : BitVec 4) :
    (s.measBlocks fn nonce)[j.toNat]? = some { index := j.toNat + 1, vendorDefined := false, value := leBytes 32 (vget s.mreg 0 j).toNat } := by
  have hj : j.toNat < 16 := j.isLt
  unfold State.measBlocks
  rw [List.getElem?_append_left (by rw [List.length_map, List.length_range]; exact hj), List.getElem?_map, List.getElem?_range hj,
    Option.map_some, BitVec.ofNat_toNat, BitVec.setWidth_eq]

theorem measBlocks_report (s : State) (fn : BitVec 8) (nonce : BitVec 256) :
    (s.measBlocks fn nonce)[16]? = some { index := 17, vendorDefined := true, value := s.report fn nonce } := rfl

/-- The nonce stands at byte 32 of a report (R97). -/
theorem report_nonce (s : State) (fn : BitVec 8) (nonce : BitVec 256) : ((s.report fn nonce).drop 32).take 32 = leBytes 32 nonce.toNat := by
  obtain ⟨head, rest, h, hlen⟩ : ∃ head rest, s.report fn nonce = head ++ (leBytes 32 nonce.toNat ++ rest) ∧ head.length = 32 := by
    unfold State.report State.reportBody
    dsimp only
    rw [List.append_assoc, List.append_assoc, List.append_assoc, List.append_assoc]
    refine ⟨_, _, rfl, ?_⟩
    simp only [List.length_append, length_leBytes, List.length_cons, List.length_nil]
  rw [h, List.drop_left' hlen, List.take_left' (length_leBytes ..)]

/-! ## The SPDM responder (R96, R99) -/

theorem present_of {s : State} {fn : BitVec 8} (h : fn = 0 ∨ s.recovery = false) : s.present fn = true := by
  unfold State.present
  rcases h with h | h
  · rw [h]
    rfl
  · rw [h, Bool.not_false, Bool.or_true]

section
variable (s : State) (fn : BitVec 8) (b : List Byte)

@[simp] theorem noteSpdm_fn : (s.noteSpdm fn b).fn fn = { s.fn fn with transcript := (s.fn fn).transcript ++ b } := State.fn_setFn ..
@[simp] theorem emit_fn (o : Output) : (s.emit o).fn fn = s.fn fn := rfl
@[simp] theorem protocolBytes_fn : s.protocolBytes.2.fn fn = s.fn fn := rfl

end

theorem spdmAct_tdi (k : SpdmKind) (f : Fn) : (spdmAct k f).tdi = f.tdi := by cases k <;> rfl

section
variable {s : State} {fn : BitVec 8} (h : s.present fn = true)
include h

theorem getMeasurements_answers (nonce : BitVec 256) (sign : Bool) : ∃ t sig, exec (.getMeasurements fn nonce sign) s = .next t ∧
    t.out = .measurements fn (s.measBlocks fn nonce) sig :: s.out ∧ t.mreg = s.mreg ∧ (sign = false → sig = []) := by
  refine ⟨_, _, congrArg Host.Outcome.next (if_neg (by rw [h]; decide)), rfl, rfl, fun hs => ?_⟩
  rw [hs]
  rfl

theorem spdmRequest_answers (kind : SpdmKind) : ∃ t b, exec (.spdmRequest fn kind) s = .next t ∧ t.out = .spdm fn b :: s.out ∧
    (t.fn fn).session = (spdmAct kind (s.fn fn)).session ∧ (t.fn fn).tdi = (s.fn fn).tdi ∧
    (kind = .getCertificate → ∃ pre, b = pre ++ s.certChain) := by
  refine ⟨_, _, congrArg Host.Outcome.next (if_neg (by rw [h]; decide)), rfl, ?_, ?_, ?_⟩
  · simp only [emit_fn, noteSpdm_fn, protocolBytes_fn, State.fn_setFn]
  · simp only [emit_fn, noteSpdm_fn, protocolBytes_fn, State.fn_setFn, spdmAct_tdi]
  · rintro rfl
    exact ⟨_, List.append_nil _⟩

end

/-! ## Channel slots (R102, R103) -/

theorem leNat_byte (p : List Byte) (o : Nat) : leNat ((p.drop o).take 1) = (p.getD o 0).toNat := by
  rw [List.take_one, List.head?_drop, List.getD_eq_getElem?_getD]
  cases p[o]? <;> rfl

theorem leNat_lt (l : List Byte) : leNat l < 256 ^ l.length := by
  induction l with
  | nil => decide
  | cons b r ih =>
    have hb : b.toNat < 256 := b.isLt
    rw [leNat, List.length_cons, Nat.pow_succ]
    omega

/-- The channel number of a request is the number of its four bytes. -/
theorem reqChan_toNat (p : List Byte) : (reqChan p).toNat = leNat ((p.drop 4).take 4) := by
  refine (BitVec.toNat_ofNat ..).trans (Nat.mod_eq_of_lt ((leNat_lt _).trans_le ?_))
  exact Nat.pow_le_pow_right (by decide) (List.length_take_le ..)

theorem eq_reqChan_iff (p : List Byte) (c : BitVec 32) : c = reqChan p ↔ c.toNat = leNat ((p.drop 4).take 4) := by
  rw [← reqChan_toNat, BitVec.toNat_inj]

/-- The function has the slot that a request names. -/
def State.HasSlot (s : State) (fn : BitVec 8) (p : List Byte) : Prop := ∃ c ∈ s.chans, c.fn = fn ∧ c.chan.toNat = leNat ((p.drop 4).take 4)

theorem hasSlot_iff {s : State} {fn : BitVec 8} {p : List Byte} :
    (s.chans.any fun c => c.fn == fn && c.chan == reqChan p) = true ↔ s.HasSlot fn p := by
  simp only [State.HasSlot, List.any_eq_true, Bool.and_eq_true, beq_iff_eq, eq_reqChan_iff]

/-- The head of a channel request: OP, a clear byte and the length of what follows (R103). -/
structure ChanHead (p : List Byte) (op n : Nat) : Prop where
  op : leNat ((p.drop 0).take 1) = op
  rsvd : leNat ((p.drop 1).take 1) = 0
  plen : leNat ((p.drop 2).take 2) = n
  length : p.length = n + 4

section
variable {s : State} {fn : BitVec 8} {p : List Byte}

theorem ChanHead.getD_zero {op n : Nat} (h : ChanHead p op n) : p.getD 0 0 = BitVec.ofNat 8 op := by
  rw [← h.op, leNat_byte, BitVec.ofNat_toNat, BitVec.setWidth_eq]

theorem ChanHead.getD_one {op n : Nat} (h : ChanHead p op n) : p.getD 1 0 = 0 :=
  BitVec.eq_of_toNat_eq ((leNat_byte ..).symm.trans h.rsvd)

theorem chanMalformed_set (h : ChanHead p 1 52) (hz : ∀ b ∈ (p.drop 10).take 6, b = 0) : chanMalformed p = false := by
  have hany : ((p.drop 10).take 6).any (· != 0) = false := List.any_eq_false.mpr fun b hb => by rw [hz b hb]; decide
  simp only [chanMalformed, h.getD_zero, h.getD_one, h.plen, h.length, hany]
  rfl

theorem chanMalformed_clear (h : ChanHead p 2 4) : chanMalformed p = false := by
  simp only [chanMalformed, h.getD_zero, h.getD_one, h.plen, h.length]
  rfl

theorem chanResult_unsecured {secured : Bool} (h : secured = false ∨ (s.fn fn).session = false) : s.chanResult fn secured p = 0x07 := by
  refine if_pos ?_
  rcases h with h | h
  · rw [h]
    rfl
  · rw [h, Bool.not_false, Bool.or_true]

/-- A well-formed request on the secured session of an interface that is locked or runs is judged by its operation. -/
theorem chanResult_judged (hs : (s.fn fn).session = true) (hm : chanMalformed p = false) (ht : (s.fn fn).tdi = .locked ∨ (s.fn fn).tdi = .run) :
    s.chanResult fn true p =
      let has := s.chans.any fun c => c.fn == fn && c.chan == reqChan p
      if p.getD 0 0 = 1 then (if !s.fnNames fn (reqCtx p) then 0x04 else if has then 0x01 else if 256 ≤ s.chans.length then 0x02 else 0x00)
      else if has then 0x00 else 0x05 := by
  have htdi : ¬ ((s.fn fn).tdi != .locked && (s.fn fn).tdi != .run) = true := by
    rcases ht with ht | ht <;> rw [ht] <;> decide
  refine (if_neg (by rw [hs]; decide)).trans ((if_neg (by rw [hm]; decide)).trans (if_neg htdi))

theorem chanResult_set (hs : (s.fn fn).session = true) (h : ChanHead p 1 52) (hz : ∀ b ∈ (p.drop 10).take 6, b = 0)
    (ht : (s.fn fn).tdi = .locked ∨ (s.fn fn).tdi = .run) (hn : s.fnNames fn (reqCtx p) = true) (hf : ¬ s.HasSlot fn p) (hl : s.chans.length < 256) :
    s.chanResult fn true p = 0 := by
  rw [chanResult_judged hs (chanMalformed_set h hz) ht]
  refine (if_pos h.getD_zero).trans ((if_neg (by rw [hn]; decide)).trans ((if_neg ?_).trans (if_neg (Nat.not_le.mpr hl))))
  rwa [hasSlot_iff]

theorem chanResult_clear (hs : (s.fn fn).session = true) (h : ChanHead p 2 4) (ht : (s.fn fn).tdi = .locked ∨ (s.fn fn).tdi = .run)
    (hf : s.HasSlot fn p) : s.chanResult fn true p = 0 := by
  rw [chanResult_judged hs (chanMalformed_clear h) ht]
  exact (if_neg (by rw [h.getD_zero]; decide)).trans (if_pos (hasSlot_iff.mpr hf))

/-- The slot that a CHAN_SET fills (R103). -/
def reqSlot (fn : BitVec 8) (p : List Byte) : Chan :=
  { chan := reqChan p, key := BitVec.ofNat 256 (leNat ((p.drop 24).take 32)), fn := fn, ctx := reqCtx p
    lastCtr := BitVec.ofNat 64 (leNat ((p.drop 16).take 8)) }

theorem chanRequest_refuses {secured : Bool} {r : Byte} (h : s.chanResult fn secured p = r) (hr : r ≠ 0) :
    s.chanRequest fn secured p = s.emit (.vendor fn 3 Config.vendorId [p.getD 0 0, r, 0, 0]) := by
  unfold State.chanRequest
  dsimp only
  rw [h, if_pos hr]

theorem chanRequest_sets (h : s.chanResult fn true p = 0) (hop : p.getD 0 0 = 1) : s.chanRequest fn true p =
    ({ s with chans := s.chans ++ [reqSlot fn p] } : State).emit (.vendor fn 3 Config.vendorId [1, 0, 0, 0]) := by
  unfold State.chanRequest
  dsimp only
  rw [h, if_neg (not_not_intro rfl), if_pos hop, hop]
  rfl

theorem chanRequest_clears (h : s.chanResult fn true p = 0) (hop : p.getD 0 0 = 2) : s.chanRequest fn true p =
    ((s.endCopies fun f c => f == fn && c == reqChan p).dropChan fn (reqChan p)).emit (.vendor fn 3 Config.vendorId [2, 0, 0, 0]) := by
  unfold State.chanRequest
  dsimp only
  rw [h, if_neg (not_not_intro rfl), if_neg (by rw [hop]; decide), hop]

variable (hp : s.present fn = true) (secured : Bool)
include hp

theorem chanSet_requests : exec (.chanSet fn secured p) s = .next (s.chanRequest fn secured p) := congrArg Host.Outcome.next (if_pos hp)
theorem chanClear_requests : exec (.chanClear fn secured p) s = .next (s.chanRequest fn secured p) := congrArg Host.Outcome.next (if_pos hp)

end

/-! ## The states of an interface (R99 to R101) -/

section
variable {s : State} {fn : BitVec 8}

/-- A state whose responder has answered a function, in bytes of DMTF's protocol. -/
def State.spdmAnswered (s : State) (fn : BitVec 8) : State := s.protocolBytes.2.emit (.spdm fn s.protocolBytes.1)

@[simp] theorem spdmAnswered_fn (s : State) (fn : BitVec 8) : (s.spdmAnswered fn).fn fn = s.fn fn := rfl
@[simp] theorem spdmAnswered_chans (s : State) (fn : BitVec 8) : (s.spdmAnswered fn).chans = s.chans := rfl

theorem tdisp_answers (h0 : fn ≠ 0) (hp : s.present fn = true) (f : State → State) : s.tdisp fn f = (f s).spdmAnswered fn :=
  if_neg (by rw [decide_eq_false h0, hp]; decide)

theorem lockInterface_locks (h0 : fn ≠ 0) (hp : s.present fn = true) (ht : (s.fn fn).tdi = .unlocked) :
    exec (.lockInterface fn) s = .next ((s.setTdi fn .locked).spdmAnswered fn) := by
  refine congrArg Host.Outcome.next ((tdisp_answers h0 hp _).trans ?_)
  rw [if_pos ht]

theorem startInterface_starts (h0 : fn ≠ 0) (hp : s.present fn = true) (ht : (s.fn fn).tdi = .locked) :
    exec (.startInterface fn) s = .next ((s.setTdi fn .run).spdmAnswered fn) := by
  refine congrArg Host.Outcome.next ((tdisp_answers h0 hp _).trans ?_)
  rw [if_pos ht]

theorem startInterface_leaves (h0 : fn ≠ 0) (hp : s.present fn = true) (ht : (s.fn fn).tdi ≠ .locked) :
    exec (.startInterface fn) s = .next (s.spdmAnswered fn) := by
  refine congrArg Host.Outcome.next ((tdisp_answers h0 hp _).trans ?_)
  rw [if_neg ht]

theorem stopInterface_stops (h0 : fn ≠ 0) (hp : s.present fn = true) (ht : (s.fn fn).tdi = .locked ∨ (s.fn fn).tdi = .run) :
    exec (.stopInterface fn) s = .next (((s.leaveTdi fn).setTdi fn .unlocked).spdmAnswered fn) := by
  have hleaves : (decide ((s.fn fn).tdi = .locked) || decide ((s.fn fn).tdi = .run)) = true := by
    rw [Bool.or_eq_true, decide_eq_true_eq, decide_eq_true_eq]
    exact ht
  refine congrArg Host.Outcome.next ((tdisp_answers h0 hp _).trans ?_)
  dsimp only
  rw [if_pos hleaves]

@[simp] theorem setTdi_fn (s : State) (fn : BitVec 8) (t : Tdi) : (s.setTdi fn t).fn fn = { s.fn fn with tdi := t } := State.fn_setFn ..
@[simp] theorem setTdi_chans (s : State) (fn : BitVec 8) (t : Tdi) : (s.setTdi fn t).chans = s.chans := rfl

theorem driverEnd_chans (s : State) (c : BitVec 16) (fn : BitVec 8) : (s.driverEnd c fn).chans = s.chans := by
  have hchans : (s.driverEnd c fn).beside.chans = s.beside.chans := congrArg State.chans (driverEnd_beside s c fn)
  exact hchans

/-- Leaving RUN zeroes the function's slots (R101), and the contexts that end with it touch no slot. -/
theorem leaveTdi_chans (s : State) (fn : BitVec 8) : (s.leaveTdi fn).chans = s.chans.filter fun c => c.fn != fn := by
  unfold State.leaveTdi
  extract_lets ctxs ended dropped
  refine List.foldlRecOn (motive := fun (t : State) => t.chans = s.chans.filter fun c => c.fn != fn) _ _ rfl fun t ht c _ => ?_
  split
  · exact ht
  · dsimp only
    split
    · exact (driverEnd_chans ..).trans ht
    · exact (driverEnd_chans ..).trans ht

theorem ideIntegrityFailure_fails (h0 : fn ≠ 0) :
    exec (.ideIntegrityFailure fn) s = .next ((s.setFn fn { s.fn fn with ide := false }).tdiError fn) :=
  congrArg Host.Outcome.next (if_neg h0)

theorem tdiError_tdi (s : State) (fn : BitVec 8) : ((s.tdiError fn).fn fn).tdi = .error :=
  congrArg Fn.tdi (State.fn_setFn (s.endCopies fun f _ => f == fn) fn _)

end

/-- Settles O47. Beside the rules the clauses rest on choices of the assumption log: DMTF's session and signatures as SPDM 1.2 has them (60),
requests as events by kind with the protocol's own bytes free (40), CONFIG_UNLOCKED at reset (5), and what package reset keeps (28). -/
theorem trustEvents : Obligations.TrustEvents := by
  unfold Obligations.TrustEvents
  intro s d img fn nonce kind p num extended told vendor here noise slot
  have heard (h : here) : s.present fn = true := present_of h
  refine ⟨?reset, fun hr hi hb hd hc => dieRomImageCheck_runs hr hi hb hd hc, fun h => dieRomImageCheck_fails h, fun hg h => mextGo_extends hg h,
    fun hg h => mextGo_refuses hg h, fun sign h => getMeasurements_answers (heard h) nonce sign, fun j => measBlocks_register s fn nonce j,
    ⟨_, measBlocks_report s fn nonce, report_nonce s fn nonce⟩, fun h => spdmRequest_answers (heard h) kind, ?chanSet, ?chanClear, ?unsecured,
    fun h0 h ht => ⟨_, lockInterface_locks h0 (heard h) ht⟩, fun h0 h ht => ⟨_, startInterface_starts h0 (heard h) ht⟩,
    fun h0 h ht => ⟨_, startInterface_leaves h0 (heard h) ht⟩, ?stop, ?failure⟩
  case reset =>
    have hcodeA : s.afterReset.copyCode s.afterReset.flashA = s.copyCode s.flashA := afterReset_copyCode s s.flashA
    have hcodeB : s.afterReset.copyCode s.afterReset.flashB = s.copyCode s.flashB := afterReset_copyCode s s.flashB
    rw [← hcodeA, ← hcodeB]
    obtain ⟨htiles, hqueues, hchans, hflashA, hflashB, hkey0, hkey1, hfloorIo, hfloorDc, hdebug⟩ := (boot_only s.afterReset).keeps
    refine ⟨_, packageReset_boots s, htiles, hqueues, hchans, hflashA, hflashB, hkey0, hkey1, hfloorIo, hfloorDc, hdebug, fun hA => ?_,
      fun hA hB => ?_, fun hA hB => ?_⟩
    · rw [boot_runsA hA]
      exact bootRun_runs hA false
    · rw [boot_runsB hA hB]
      exact bootRun_runs hB true
    · rw [boot_recovers hA hB]
      exact ⟨rfl, rfl⟩
  case chanSet =>
    intro h hs hl hop hrsvd hplen hz ht hn hfree hroom
    have hhead : ChanHead p 1 52 := ⟨hop, hrsvd, hplen, hl⟩
    rw [chanSet_requests (heard h), chanRequest_sets (chanResult_set hs hhead hz ht hn ?_ hroom) hhead.getD_zero]
    · rfl
    · rintro ⟨c, hc, hcf, hcn⟩
      exact hfree c hc hcf hcn
  case chanClear =>
    intro h hs hl hop hrsvd hplen ht hslot
    have hhead : ChanHead p 2 4 := ⟨hop, hrsvd, hplen, hl⟩
    rw [chanClear_requests (heard h), chanRequest_clears (chanResult_clear hs hhead ht hslot) hhead.getD_zero]
    rfl
  case unsecured =>
    intro secured h hs
    rw [chanSet_requests (heard h), chanRequest_refuses (chanResult_unsecured hs) (by decide)]
    rfl
  case stop =>
    intro h0 h ht
    refine ⟨_, stopInterface_stops h0 (heard h) (.inr ht), ?_, fun c hc => ?_⟩
    · rw [spdmAnswered_fn, setTdi_fn]
    · rw [spdmAnswered_chans, setTdi_chans, leaveTdi_chans, List.mem_filter] at hc
      exact bne_iff_ne.mp hc.2
  case failure =>
    intro h0 _
    exact ⟨_, ideIntegrityFailure_fails h0, tdiError_tdi ..⟩

end Sys2Proof.Machine
end

section
/-! PROOFS. Captures for a stage that starves (chapter 05, R133): which item STARVATION_CAPTURE takes, when the capture is decided, and what
a tile table that names no tile does to it. -/

namespace Sys2Proof.Machine

/-! ## Entries of the tile table -/

/-- The keys of a rising table lie above its bound. -/
theorem Tab.lt_of_rising {α : Type} {t : Tab α} {k : Nat} (h : Tab.rising (some k) t = true) {e : Nat × α} (he : e ∈ t) : k < e.1 := by
  induction t generalizing k with
  | nil => exact absurd he List.not_mem_nil
  | cons x r ih =>
    obtain ⟨hk, hr⟩ := Tab.rising_cons.mp h
    have hx : k < x.1 := hk k rfl
    rcases List.mem_cons.mp he with rfl | he
    · exact hx
    · exact hx.trans (ih hr he)

/-- An entry of a canonical table is what its key reads as. -/
theorem Tab.get?_of_mem {α : Type} {t : Tab α} {lo : Option Nat} (h : Tab.rising lo t = true) {e : Nat × α} (he : e ∈ t) :
    Tab.get? t e.1 = some e.2 := by
  induction t generalizing lo with
  | nil => exact absurd he List.not_mem_nil
  | cons x r ih =>
    obtain ⟨-, hr⟩ := Tab.rising_cons.mp h
    rcases List.mem_cons.mp he with rfl | he
    · rw [Tab.get?, if_pos rfl]
    · rw [Tab.get?, if_neg (Tab.lt_of_rising hr he).ne, ih hr he]

/-- The tile table is canonical, and every entry of it is one of the 256 tiles. -/
def State.TilesWf (s : State) : Prop := Tab.wf s.tiles = true ∧ ∀ e ∈ s.tiles, e.1 < 256

theorem State.TilesWf.tile {s : State} (hw : s.TilesWf) {e : Nat × Tile} (he : e ∈ s.tiles) : s.tile (BitVec.ofNat 8 e.1) = e.2 := by
  obtain ⟨hrise, hlt⟩ := hw
  have hkey : (BitVec.ofNat 8 e.1).toNat = e.1 := by rw [BitVec.toNat_ofNat, Nat.mod_eq_of_lt (hlt e he)]
  rw [State.tile, hkey, Tab.get, Tab.get?_of_mem hrise he, Option.getD_some]

theorem mem_tilesWith {s : State} {p : Tile → Bool} {g : BitVec 8} (h : g ∈ s.tilesWith p) :
    ∃ e ∈ s.tiles, p e.2 = true ∧ BitVec.ofNat 8 e.1 = g := by
  obtain ⟨e, he, hg⟩ := List.mem_map.mp h
  obtain ⟨hmem, hp⟩ := List.mem_filter.mp he
  exact ⟨e, hmem, hp, hg⟩

/-! ## A capture takes the tile it is decided for (R296, R302) -/

/-- What the decision of a capture does at one tile. -/
def State.captureOne (s : State) (u : BitVec 8) (drop firmware : Bool) : State :=
  State.modTile { s with nextId := s.nextId + 1, held := if s.held = some u then none else s.held } u fun t =>
    { t with
      capturing := some { handle := dieOf u ++ BitVec.ofNat 30 s.nextId, drop := drop, firmware := firmware }
      sclass := 0, sreq := none, reqCred := 0 }

theorem beginCapture_eq {s : State} {g : BitVec 8} (hr : s.railsOff = false) (hg : (s.tile g).capturable = true) (d f : Bool) :
    s.beginCapture g d f = (s.captureSet g).foldl (fun s u => s.captureOne u d f) s := by
  rw [State.beginCapture, hr, hg, Bool.not_true, Bool.or_false, if_neg Bool.false_ne_true]
  rfl

theorem captureOne_areg (s : State) (u v : BitVec 8) (d f : Bool) : ((s.captureOne u d f).tile v).areg = (s.tile v).areg := by
  unfold State.captureOne
  by_cases hv : v = u
  · subst hv
    rw [State.tile_modTile]
    rfl
  · rw [State.tile_modTile_of_ne _ _ hv]
    rfl

theorem captureOne_captures (s : State) (v : BitVec 8) (d f : Bool) : ((s.captureOne v d f).tile v).CapturedWith (s.tile v).areg := by
  unfold State.captureOne
  rw [State.tile_modTile]
  exact ⟨rfl, rfl, rfl⟩

theorem captureOne_keeps_captured {s : State} {v : BitVec 8} {r : Vector W64 32} (h : (s.tile v).CapturedWith r) (u : BitVec 8) (d f : Bool) :
    ((s.captureOne u d f).tile v).CapturedWith r := by
  by_cases hv : v = u
  · subst hv
    obtain ⟨-, -, hareg⟩ := h
    rw [← hareg]
    exact captureOne_captures s v d f
  · unfold State.captureOne
    rw [State.tile_modTile_of_ne _ _ hv]
    exact h

/-- Whatever else a decision captures, each tile of its set is captured, and keeps its registers. -/
theorem foldl_captureOne_captures {v : BitVec 8} {us : List (BitVec 8)} (hv : v ∈ us) (s : State) (d f : Bool) :
    ((us.foldl (fun s u => s.captureOne u d f) s).tile v).CapturedWith (s.tile v).areg := by
  induction us generalizing s with
  | nil => exact absurd hv List.not_mem_nil
  | cons u us ih =>
    rw [List.foldl_cons]
    by_cases hu : v = u
    · subst hu
      exact List.foldlRecOn (motive := fun x : State => (x.tile v).CapturedWith (s.tile v).areg) _ _ (captureOne_captures s v d f)
        fun x hx w _ => captureOne_keeps_captured hx w d f
    · rw [← captureOne_areg s u v d f]
      exact ih ((List.mem_cons.mp hv).resolve_left hu) _

/-- A tile that the table lists with an item that can be captured is in the set of its own capture, with a cohort group or without. -/
theorem mem_captureSet_self {s : State} {e : Nat × Tile} (he : e ∈ s.tiles) (htile : s.tile (BitVec.ofNat 8 e.1) = e.2)
    (hcap : e.2.capturable = true) : BitVec.ofNat 8 e.1 ∈ s.captureSet (BitVec.ofNat 8 e.1) := by
  unfold State.captureSet
  dsimp only
  split
  · exact List.mem_singleton.mpr rfl
  · next hcoh =>
    have hsome : e.2.cohort.isSome = true := by
      rw [htile] at hcoh
      exact Option.isSome_iff_ne_none.mpr fun h => hcoh (Option.isNone_iff_eq_none.mpr h)
    have hself : sameGroup e.2 e.2 = true := by rw [sameGroup, hsome, beq_self_eq_true]; rfl
    refine List.mem_map_of_mem (f := fun x : Nat × Tile => BitVec.ofNat 8 x.1) (List.mem_filter.mpr ⟨he, ?_⟩)
    rw [htile, hcap, hself]
    rfl

/-! ## STARVATION_CAPTURE (R133) -/

/-- Of one tile the latest start is its own. -/
theorem latest_singleton (s : State) (h : BitVec 8) : s.latest [h] = some h := by
  rw [State.latest, List.map_cons, List.map_nil, bestBy, bestBy, Option.map_some, BitVec.ofNat_toNat, BitVec.setWidth_eq]

section
variable {s : State} {id : Nat} {d : BitVec 2} {l : Launch} {e : Since} {h : BitVec 8} (hl : s.launch? id = some l)
  (he : e ∈ (l.die d).since) (hdue : e.from_ + 4096 ≤ s.cy) (hrun : s.runningOn id d = [h])
  (hfree : ∀ x ∈ s.tiles, x.1 / 64 = d.toNat → x.2.launch = some id → x.2.capturing = none)
include hl he hdue hrun hfree

/-- A stage is due and no capture of the launch is under way on the die: the capture is decided for the one tile that runs an item of it, and
the launch notes the cycle. -/
theorem starvationCapture_takes :
    ∃ k, exec (.starvationCapture id d) s = .next ((s.setLaunch k).beginCapture h true false) := by
  have hbusy : (s.tiles.any fun x => x.1 / 64 == d.toNat && x.2.launch == some id && x.2.capturing.isSome) = false := by
    refine List.any_eq_false.mpr fun x hx hb => ?_
    simp only [Bool.and_eq_true, beq_iff_eq] at hb
    obtain ⟨⟨hdie, hlaunch⟩, hcap⟩ := hb
    rw [hfree x hx hdie hlaunch] at hcap
    exact Bool.false_ne_true hcap
  have hany : ((l.die d).since.any fun x => decide (x.from_ + 4096 ≤ s.cy)) = true :=
    List.any_eq_true.mpr ⟨e, he, decide_eq_true hdue⟩
  have hlone : (if ([h].filter fun g => (s.tile g).cohort.isNone).isEmpty then [h] else [h].filter fun g => (s.tile g).cohort.isNone) = [h] := by
    cases hc : (s.tile h).cohort.isNone <;> simp [hc]
  show ∃ k, execStarvationCapture id d s = _
  simp only [execStarvationCapture, event, hl, hbusy, hany, hrun, hlone, latest_singleton]
  exact ⟨_, rfl⟩

/-- Where the table's entries are the tiles', that item is captured: its tile stands in class 0 and keeps its registers. -/
theorem starvationCapture_captures (hr : s.railsOff = false) (hw : s.TilesWf) :
    ∃ u, exec (.starvationCapture id d) s = .next u ∧ (u.tile h).CapturedWith (s.tile h).areg := by
  obtain ⟨k, hk⟩ := starvationCapture_takes hl he hdue hrun hfree
  refine ⟨_, hk, ?_⟩
  have hmem : h ∈ s.runningOn id d := hrun ▸ List.mem_singleton.mpr rfl
  obtain ⟨x, hx, hp, rfl⟩ := mem_tilesWith (List.mem_filter.mp hmem).1
  have htile : s.tile (BitVec.ofNat 8 x.1) = x.2 := hw.tile hx
  have hcap : x.2.capturable = true := (Bool.and_eq_true_iff.mp hp).1
  rw [beginCapture_eq (by exact hr) (by rw [State.setLaunch_tile, htile, hcap]), ← State.setLaunch_tile s k]
  exact foldl_captureOne_captures (mem_captureSet_self (s := s.setLaunch k) hx htile hcap) _ true false

end

/-- A launch on four dies, on each of which stage 1 has starved since cycle 0. -/
def starvingLaunch : Launch :=
  { launchOf 0 1 0 0 { id := 0, queue := 0, count := 0, len := 0, words := [] } 0 with
    dies := Vector.replicate 4 { LaunchDie.empty with admitted := true, since := [{ stage := 1, since := 0, from_ := 0 }] } }

/-- 4,096 cycles on, the table's one entry, a tile that runs an item of that launch, stands under the number `n`. -/
def starvingAt (n : Nat) : State :=
  { State.reset with
    tiles := [(n, { Tile.reset with
      ist := .running, launch := some 1
      item := some { launch := 1, stage := 0, num := 0, wid := 0, entry := [], group := none, rank := 0, start := 0 } })]
    launches := [(1, starvingLaunch)], cy := 4096 }

theorem starvingAt_since (n : Nat) : (starvingAt n).launch? 1 = some starvingLaunch ∧
    (⟨1, 0, 0⟩ : Since) ∈ (starvingLaunch.die 0).since ∧ 0 + 4096 ≤ (starvingAt n).cy :=
  ⟨rfl, List.mem_singleton.mpr rfl, Nat.le_refl 4096⟩

theorem starvingAt_free (n : Nat) :
    ∀ x ∈ (starvingAt n).tiles, x.1 / 64 = (0 : BitVec 2).toNat → x.2.launch = some 1 → x.2.capturing = none := by
  intro x hx _ _
  rw [List.mem_singleton.mp hx]
  rfl

/-- Under number 5 the tile is captured. -/
theorem starvingAt_tile_captured : ∃ u, exec (.starvationCapture 1 0) (starvingAt 5) = .next u ∧
    (u.tile 5).CapturedWith ((starvingAt 5).tile 5).areg := by
  obtain ⟨hl, hsince, hdue⟩ := starvingAt_since 5
  refine starvationCapture_captures hl hsince hdue (by decide) (starvingAt_free 5) rfl ⟨rfl, fun x hx => ?_⟩
  rw [List.mem_singleton.mp hx]
  decide

/-- Refutes O51 in its clause of STARVATION_CAPTURE: the statement speaks of every state, also of those whose tile table holds an entry that
is no tile's. In `starvingAt 261`, a state of no run, the clause names tile 5, which is 261 as a tile number, as the one that runs an item of
the launch; but tile 5 has no entry, runs nothing, and nothing is captured. Where the entries are the tiles' the clause holds
(`starvationCapture_captures`, and `starvingAt_tile_captured` for the same item on tile 5). That a launch has no second capture under way on
the die is log 55's choice. -/
theorem not_schedulingEvents : ¬ Obligations.SchedulingEvents := by
  unfold Obligations.SchedulingEvents
  intro h
  obtain ⟨-, -, -, -, -, hclause, -⟩ := h (starvingAt 261) 0 0 1 starvingLaunch 0
  obtain ⟨hl, hsince, hdue⟩ := starvingAt_since 261
  have hrun : (starvingAt 261).runningOn 1 0 = [5] := by decide
  have hidle (k : Launch) : (((starvingAt 261).setLaunch k).tile 5).capturable = false := rfl
  obtain ⟨k, hk⟩ := starvationCapture_takes hl hsince hdue hrun (starvingAt_free 261)
  obtain ⟨u, hu, hcap, -⟩ := hclause ⟨1, 0, 0⟩ 5 rfl hl hsince hdue hrun (starvingAt_free 261)
  rw [beginCapture_idle (hidle k)] at hk
  cases hk.symm.trans hu
  exact Bool.false_ne_true hcap

end Sys2Proof.Machine
end

section
/-! PROOFS. Residency (chapter 06, R148 to R155): the commands of RES_CMD, the start and the end of a move between tiers, and the scan. -/

namespace Sys2Proof.Machine

/-! ## What the device's writes of entries leave as it is (R148) -/

theorem modRes_beside (s : State) (h : Nat) (f : BitVec 512 → BitVec 512) : (s.modRes h f).beside = s.beside := by
  unfold State.modRes
  split
  · rfl
  · exact devWrite_beside ..

theorem modRes_homeSide (s : State) (h : Nat) (f : BitVec 512 → BitVec 512) : s.HomeSide (s.modRes h f) := by
  unfold State.modRes
  split
  · exact .refl s
  · exact devWrite_homeSide ..

theorem putEntry_beside (s : State) (pa : Nat) (e : BitVec 128) : (s.putEntry pa e).beside = s.beside := wrDev_beside ..
theorem putEntry_homeSide (s : State) (pa : Nat) (e : BitVec 128) : s.HomeSide (s.putEntry pa e) := (wrDev_storage ..).homeSide

/-- The promotions that launches wait for (R150, R154) are none where no launch stands. -/
theorem serveWaiting_idle {s : State} (h : s.launches = []) : s.serveWaiting = s := by
  unfold State.serveWaiting
  rw [h]
  rfl

/-! ## Room and the start of a move (R151, R153) -/

/-- No victim is needed where nothing is missing. -/
theorem enough_zero (l : List (Nat × BitVec 512)) : enough 0 l = some [] := by cases l <;> rfl

section
variable {s : State} {h : Nat} {e : BitVec 512} (limit : Option Nat)

theorem promoteTo_room (cmd : Bool) (hroom : s.pagesThen 1 (resDie e) + resPages e ≤ s.resCap 1 (resDie e)) :
    s.promoteTo h e limit cmd = some (s.startMove h e 1 cmd) := by
  unfold State.promoteTo
  dsimp only
  rw [Nat.sub_eq_zero_of_le hroom, enough_zero]
  rfl

theorem portRoom_room {p : BitVec 2} {pages : Nat} (hroom : s.pagesThen 2 p + pages ≤ s.resCap 2 p) : s.portRoom p pages h limit = some s := by
  unfold State.portRoom
  rw [Nat.sub_eq_zero_of_le hroom, enough_zero]
  rfl

end

/-- A move joins the moves in progress, its shootdown the shootdowns, and RES_CMD stays as it is. -/
theorem startMove_starts (s : State) (h : Nat) (e : BitVec 512) (tier : BitVec 2) (cmd : Bool) :
    (s.startMove h e tier cmd).resGo = s.resGo ∧
    (s.startMove h e tier cmd).resMoves =
      s.resMoves ++ [{ h := BitVec.ofNat 14 h, fromTier := resTier e, toTier := tier, die := resDie e, port := resPort e, cmd := cmd }] ∧
    (s.startMove h e tier cmd).sds =
      s.sds ++ [{ scope := 1, ctx := resCtx e, va := resVaBase e, wait := sdParties, host := false, cmd := some (moveTag h, 0) }] := by
  unfold State.startMove
  extract_lets slots lat noted marked cleared
  have hcleared : cleared.beside = marked.beside :=
    foldl_beside (fun t (x : Nat × Nat × BitVec 128) => putEntry_beside t x.1 (unmapped x.2.2)) slots marked
  have hbeside : cleared.beside = noted.beside := hcleared.trans (modRes_beside ..)
  have hnoted : noted.resGo = s.resGo ∧ noted.resMoves = s.resMoves ∧ noted.sds = s.sds := by
    unfold noted
    split
    · exact ⟨rfl, rfl, rfl⟩
    · exact ⟨rfl, rfl, rfl⟩
  obtain ⟨hgo, hmoves, hsds⟩ := hnoted
  clear_value cleared noted
  have hmoves' : cleared.resMoves = s.resMoves := (congrArg State.resMoves hbeside).trans hmoves
  have hsds' : cleared.sds = s.sds := (congrArg State.sds hbeside).trans hsds
  exact ⟨(congrArg State.resGo hbeside).trans hgo, congrArg (· ++ _) hmoves', congrArg (· ++ _) hsds'⟩

/-! ## Commands on a handle (R149, R155) -/

section
variable {s : State} {op : BitVec 3} (hgo : s.resGo = true) (hop : s.resRunOp = op) (f : Nat → BitVec 512 → State → State)
include hgo hop

theorem resCommand_runs : s.resCommand op f =
    if s.resRunHandle.toNat = 0 || 16384 ≤ s.resRunHandle.toNat then s.resDone 4
    else match s.resEntry s.resRunHandle.toNat with
      | none => s.resDone 4
      | some e => if (s.moveOf s.resRunHandle.toNat).isSome then s else f s.resRunHandle.toNat e s := by
  refine (if_neg ?_).trans rfl
  rw [hgo, hop, bne_self_eq_false]
  decide

theorem resCommand_outOfRange (h : s.resRunHandle.toNat = 0 ∨ 16384 ≤ s.resRunHandle.toNat) : s.resCommand op f = s.resDone 4 := by
  rw [resCommand_runs hgo hop, if_pos]
  simpa only [Bool.or_eq_true, decide_eq_true_eq] using h

end

/-- RES_CMD has a command to do on a handle that has an entry and is not moving. -/
structure State.ResAsked (s : State) (op : BitVec 3) (h : BitVec 14) (e : BitVec 512) : Prop where
  go : s.resGo = true
  op : s.resRunOp = op
  handle : s.resRunHandle.toNat = h.toNat
  ne : h ≠ 0
  entry : s.resEntry h.toNat = some e
  still : s.moveOf h.toNat = none

theorem resCommand_asked {s : State} {op : BitVec 3} {h : BitVec 14} {e : BitVec 512} (ha : s.ResAsked op h e) (f : Nat → BitVec 512 → State → State) :
    s.resCommand op f = f h.toNat e s := by
  have hpos : h.toNat ≠ 0 := fun h0 => ha.ne (BitVec.eq_of_toNat_eq h0)
  have hlt : h.toNat < 16384 := h.isLt
  rw [resCommand_runs ha.go ha.op, ha.handle, if_neg, ha.entry, ha.still]
  · rfl
  · simp only [Bool.or_eq_true, decide_eq_true_eq]
    omega

/-! ## VALIDATE -/

section
variable {s : State} {h : BitVec 14} {e : BitVec 512} {c : Ctx} (ha : s.ResAsked 1 h e)
include ha

theorem validate_malformed (hbad : resPages e = 0 ∨ (resVaBase e).toNat % 65536 ≠ 0 ∨ e.extractLsb' 0 288 ≠ 0) :
    exec .validate s = .next (s.resDone 4) := by
  show execValidate s = _
  rw [execValidate, event, resCommand_asked ha]
  dsimp only
  rw [if_pos]
  simpa only [Bool.or_eq_true, decide_eq_true_eq, or_assoc] using hbad

variable (hpages : resPages e ≠ 0) (hva : (resVaBase e).toNat % 65536 = 0) (hrsvd : e.extractLsb' 0 288 = 0) (hc : s.ctx? (resCtx e) = some c)
include hpages hva hrsvd hc

theorem validate_unsealed (hseals : c.seals = []) : exec .validate s = .next (s.resDone 3) := by
  show execValidate s = _
  rw [execValidate, event, resCommand_asked ha]
  dsimp only
  rw [if_neg (by simp [hpages, hva, hrsvd])]
  simp only [hc, hseals, List.any_nil, Bool.not_false, if_true]
  split
  · rfl
  · rfl

/-- An entry that is not VALID becomes so, at the tier where the device finds its range, with no use in sight and no users. -/
theorem validate_marks {slots : List (Nat × Nat × BitVec 128)} {tier : Nat} {r : SealRec} (hslots : s.resSlots e = some slots) (hr : r ∈ c.seals)
    (hspad : r.spad = none) (hlo : r.base.toNat ≤ (resVaBase e).toNat)
    (hhi : (resVaBase e).toNat + 65536 * resPages e ≤ r.base.toNat + r.size.toNat) (htier : tierFound e slots = some tier) (hvalid : resValid e = false) :
    exec .validate s = .next ((s.modRes h.toNat fun x =>
      withField (withField (withField (withField x 326 1 1) 324 2 tier) 304 16 0xFFFF) 288 16 0).resDone 0) := by
  have hseal : (c.seals.any fun r => r.spad.isNone && decide (r.base.toNat ≤ (resVaBase e).toNat)
      && decide ((resVaBase e).toNat + 65536 * resPages e ≤ r.base.toNat + r.size.toNat)) = true :=
    List.any_eq_true.mpr ⟨r, hr, by simp [hspad, hlo, hhi]⟩
  show execValidate s = _
  rw [execValidate, event, resCommand_asked ha]
  dsimp only
  rw [if_neg (by simp [hpages, hva, hrsvd])]
  simp only [hc, hslots, hseal, htier, hvalid, Bool.not_true, Bool.false_eq_true, if_false]

end

/-! ## PROMOTE, DEMOTE, EVICT, INVALIDATE -/

section
variable {s : State} {h : BitVec 14} {e : BitVec 512}

theorem promote_asked (ha : s.ResAsked 2 h e) : exec .promote s = .next (
    if !resValid e then s.resDone 4
    else if resTier e = 1 then s.resDone 0
    else match s.promoteTo h.toNat e none true with
      | none => s.resDone 5
      | some s => s) :=
  (congrArg Host.Outcome.next (resCommand_asked ha _)).trans rfl

theorem demote_asked (ha : s.ResAsked 3 h e) : exec .demote s = .next (
    if !resValid e then s.resDone 4
    else if resUsers e ≠ 0 then s.resDone 2
    else if resTier e = 2 then s.resDone 0
    else match s.portRoom (resPort e) (resPages e) h.toNat none with
      | none => s.resDone 5
      | some s => s.startMove h.toNat e 2 true) :=
  (congrArg Host.Outcome.next (resCommand_asked ha _)).trans rfl

theorem evict_asked (ha : s.ResAsked 4 h e) : exec .evict s = .next (
    if !resValid e then s.resDone 4
    else if resUsers e ≠ 0 then s.resDone 2
    else if resTier e = 0 then s.resDone 0
    else s.startMove h.toNat e 0 true) :=
  congrArg Host.Outcome.next (resCommand_asked ha _)

theorem invalidate_asked (ha : s.ResAsked 5 h e) : exec .invalidate s = .next (
    if resUsers e ≠ 0 then s.resDone 2
    else { (s.modRes h.toNat fun e => withField e 326 1 0) with resLat := Tab.erase s.resLat h.toNat }.resDone 0) :=
  congrArg Host.Outcome.next (resCommand_asked ha _)

theorem promote_starts (ha : s.ResAsked 2 h e) (hv : resValid e = true) (ht : resTier e ≠ 1)
    (hroom : s.pagesThen 1 (resDie e) + resPages e ≤ s.resCap 1 (resDie e)) : exec .promote s = .next (s.startMove h.toNat e 1 true) := by
  rw [promote_asked ha, hv, promoteTo_room none true hroom]
  exact congrArg Host.Outcome.next (if_neg ht)

theorem demote_starts (ha : s.ResAsked 3 h e) (hv : resValid e = true) (hu : resUsers e = 0) (ht : resTier e ≠ 2)
    (hroom : s.pagesThen 2 (resPort e) + resPages e ≤ s.resCap 2 (resPort e)) : exec .demote s = .next (s.startMove h.toNat e 2 true) := by
  rw [demote_asked ha, hv, hu, portRoom_room none hroom]
  exact congrArg Host.Outcome.next (if_neg ht)

theorem evict_starts (ha : s.ResAsked 4 h e) (hv : resValid e = true) (hu : resUsers e = 0) (ht : resTier e ≠ 0) :
    exec .evict s = .next (s.startMove h.toNat e 0 true) := by
  rw [evict_asked ha, hv, hu]
  exact congrArg Host.Outcome.next (if_neg ht)

end

/-! ## The end of a move (R151) -/

/-- A handle's move is over: its entry holds the new TIER, and RES_CMD is done where it began the move. -/
def State.endMove (s : State) (h : BitVec 14) (m : ResMove) : State :=
  let t := State.modRes { s with resMoves := s.resMoves.filter fun x => x.h != h } h.toNat fun x => withField x 324 2 m.toTier.toNat
  if m.cmd = true then t.resDone 0 else t

theorem endMove_launches (s : State) (h : BitVec 14) (m : ResMove) : (s.endMove h m).launches = s.launches := by
  unfold State.endMove
  dsimp only
  split
  · exact (modRes_homeSide ..).launches
  · exact (modRes_homeSide ..).launches

theorem copyPage_homeSide (s : State) (src : Option W64) (leaf : BitVec 128) (old new n : Nat) : s.HomeSide (s.copyPage src leaf old new n) := by
  refine .foldl (fun t i => ?_) _ s
  split
  · exact (wrDev_storage ..).homeSide
  · exact (wrDev_storage ..).homeSide

theorem placePages_homeSide (m : ResMove) (host : Option W64) (base : Nat) (slots : List (Nat × Nat × BitVec 128)) (lats : List (BitVec 2))
    (fs : List (BitVec 32)) (s : State) : s.HomeSide (State.placePages m host base slots lats fs s) := by
  induction slots generalizing base lats fs s with
  | nil => exact .refl s
  | cons x r ih => exact (copyPage_homeSide ..).trans ((putEntry_homeSide ..).trans (ih ..))

section
variable (s : State) (h : BitVec 14) (e : BitVec 512) (m : ResMove) (frames : List (BitVec 32))

/-- The unit has frames for every page of the range, within the pages open to the tier; a move to tier 0 needs none. -/
def State.moveFits : Bool :=
  m.toTier == 0 || (framesOk m ((s.resSlots e).getD []) frames
    && decide (s.pagesNow m.toTier (if m.toTier = 1 then m.die else m.port) + resPages e ≤ s.resCap m.toTier (if m.toTier = 1 then m.die else m.port)))

/-- The pages of the range in their frames; at tier 0 they have none. -/
def State.movePlaced : State :=
  if m.toTier = 0 then s
  else State.placePages m (if m.fromTier = 0 then some (resHost e) else none) 0 ((s.resSlots e).getD []) ((Tab.get? s.resLat h.toNat).getD []) frames s

theorem movePlaced_homeSide : s.HomeSide (s.movePlaced h e m frames) := by
  unfold State.movePlaced
  split
  · exact .refl s
  · exact placePages_homeSide ..

end

section
variable {s : State} {h : BitVec 14} {e : BitVec 512} {m : ResMove} {frames : List (BitVec 32)} (hm : s.moveOf h.toNat = some m)
  (he : s.resEntry h.toNat = some e)
include hm he

theorem residencyMoveComplete_runs : exec (.residencyMoveComplete h frames) s = .next (
    if (s.sds.any fun d => d.cmd == some (moveTag h.toNat, 0)) = true then s
    else if (!s.moveFits e m frames) = true then s
    else ((s.movePlaced h e m frames).endMove h m).serveWaiting) := by
  show execResidencyMoveComplete h frames s = _
  rw [execResidencyMoveComplete, event, hm, he]
  rfl

theorem residencyMoveComplete_waits (hd : ∃ d ∈ s.sds, d.cmd = some (moveTag h.toNat, 0)) : exec (.residencyMoveComplete h frames) s = .next s := by
  obtain ⟨d, hd, hcmd⟩ := hd
  have hwaits : (s.sds.any fun d => d.cmd == some (moveTag h.toNat, 0)) = true := List.any_eq_true.mpr ⟨d, hd, beq_iff_eq.mpr hcmd⟩
  rw [residencyMoveComplete_runs hm he, if_pos hwaits]

variable (hsd : ∀ d ∈ s.sds, d.cmd ≠ some (moveTag h.toNat, 0)) (hl : s.launches = [])
include hsd hl

theorem residencyMoveComplete_ends (hf : s.moveFits e m frames = true) :
    exec (.residencyMoveComplete h frames) s = .next ((s.movePlaced h e m frames).endMove h m) := by
  have hacked : ¬ (s.sds.any fun d => d.cmd == some (moveTag h.toNat, 0)) = true := by
    rw [List.any_eq_true]
    exact fun ⟨d, hd, hcmd⟩ => hsd d hd (beq_iff_eq.mp hcmd)
  have hidle : ((s.movePlaced h e m frames).endMove h m).launches = [] :=
    (endMove_launches ..).trans ((movePlaced_homeSide ..).launches.trans hl)
  rw [residencyMoveComplete_runs hm he, if_neg hacked, hf, serveWaiting_idle hidle]
  rfl

theorem residencyMoveComplete_unmapped (ht : m.toTier = 0) : exec (.residencyMoveComplete h frames) s = .next (s.endMove h m) := by
  have hf : s.moveFits e m frames = true := by
    rw [State.moveFits, ht]
    rfl
  rw [residencyMoveComplete_ends hm he hsd hl hf, State.movePlaced, if_pos ht]

theorem residencyMoveComplete_places {slots : List (Nat × Nat × BitVec 128)} (ht : m.toTier = 1) (hfrom : m.fromTier = 0)
    (hslots : s.resSlots e = some slots) (hf : framesOk m slots frames = true) (hroom : s.pagesNow 1 m.die + resPages e ≤ s.resCap 1 m.die) :
    exec (.residencyMoveComplete h frames) s =
      .next ((State.placePages m (some (resHost e)) 0 slots ((Tab.get? s.resLat h.toNat).getD []) frames s).endMove h m) := by
  have hfits : s.moveFits e m frames = true := by
    rw [State.moveFits, hslots, Option.getD_some, hf, ht, if_pos rfl, decide_eq_true hroom]
    rfl
  have hne : m.toTier ≠ 0 := by
    rw [ht]
    decide
  rw [residencyMoveComplete_ends hm he hsd hl hfits, State.movePlaced, if_neg hne, if_pos hfrom, hslots, Option.getD_some]

end

/-! ## The scan (R152) -/

theorem residencyScan_off {s : State} {c : BitVec 6} (h : (s.tenant c).en = false ∨ (s.tenant c).active = false) :
    exec (.residencyScan c) s = .next s := by
  have hoff : (!((s.tenant c).en && (s.tenant c).active)) = true := by
    rcases h with h | h
    · rw [h, Bool.false_and, Bool.not_false]
    · rw [h, Bool.and_false, Bool.not_false]
  show execResidencyScan c s = _
  rw [execResidencyScan, event]
  dsimp only
  rw [if_pos hoff]

/-- A class without residency references: NEXTUSE of its handles is 0xFFFF, and nothing is promoted or prefetched. -/
theorem residencyScan_unreferenced {s : State} {c : BitVec 6} (hen : (s.tenant c).en = true) (hact : (s.tenant c).active = true)
    (href : (s.tenant c).resref = false) (hl : s.launches = []) : exec (.residencyScan c) s =
      .next ((s.resAll.filter fun x => resClass x.2 == c).foldl (fun u x => u.modRes x.1 fun y => withField y 304 16 0xFFFF) s) := by
  have hwritten (l : List (Nat × BitVec 512)) : (l.foldl (fun u x => u.modRes x.1 fun y => withField y 304 16 0xFFFF) s).launches = [] :=
    (State.HomeSide.foldl (fun u (x : Nat × BitVec 512) => modRes_homeSide u x.1 fun y => withField y 304 16 0xFFFF) l s).launches.trans hl
  show execResidencyScan c s = _
  simp only [execResidencyScan, event, hen, hact, href, Bool.and_self, Bool.not_true, Bool.false_eq_true, if_false, List.find?_nil, Option.map_none,
    Option.getD_none, serveWaiting_idle (hwritten _), bne_self_eq_false, Bool.and_false, List.filter_false, List.mergeSort_nil, List.foldl_nil]

/-! ## The statement -/

/-- What a command that begins a move leaves (R151): the move and its shootdown, and RES_CMD not yet done. -/
theorem startMove_begun {s : State} (hgo : s.resGo = true) (h : BitVec 14) (e : BitVec 512) (tier : BitVec 2) :
    (s.startMove h.toNat e tier true).resGo = true ∧
    (s.startMove h.toNat e tier true).resMoves =
      s.resMoves ++ [{ h := h, fromTier := resTier e, toTier := tier, die := resDie e, port := resPort e, cmd := true }] ∧
    ∃ d, (s.startMove h.toNat e tier true).sds = s.sds ++ [d] ∧ d.scope = 1 ∧ d.ctx = resCtx e ∧ d.wait = sdParties := by
  obtain ⟨hres, hmoves, hsds⟩ := startMove_starts s h.toNat e tier true
  rw [BitVec.ofNat_toNat, BitVec.setWidth_eq] at hmoves
  exact ⟨hres.trans hgo, hmoves, _, hsds, rfl, rfl, rfl⟩

/-- Settles O52. That a nonzero reserved bit of the entry answers CODE 4, that the frames of a move are the event's operand, and that the driver's
latency classes are kept aside during a move are the model's choices (log 26). -/
theorem residencyEvents : Obligations.ResidencyEvents := by
  unfold Obligations.ResidencyEvents
  intro s h e frames go bad code begun
  have asked {op : BitVec 3} (hg : go op) : s.ResAsked op h e := by
    obtain ⟨hgo, hop, hhandle, hne, hentry, hstill⟩ := hg
    exact ⟨hgo, hop, hhandle, hne, hentry, hstill⟩
  have refused {op : BitVec 3} (hb : bad op) (f : Nat → BitVec 512 → State → State) :
      (Host.Outcome.next (s.resCommand op f) : Host.Outcome State Fault Refusal) = .next (code s 4) := by
    obtain ⟨hgo, hop, hrange⟩ := hb
    exact congrArg Host.Outcome.next (resCommand_outOfRange hgo hop f hrange)
  have begins (tier : BitVec 2) {op : BitVec 3} (hg : go op) : begun tier (s.startMove h.toNat e tier true) := startMove_begun hg.1 h e tier
  refine ⟨(refused · _), (refused · _), (refused · _), (refused · _), (refused · _), ?marks, ?unsealed, fun hg => validate_malformed (asked hg),
    ?promoteInvalid, ?promoteThere, ?promote, ?demoteUsed, ?demote, ?evictUsed, ?evict, ?invalidateUsed, ?invalidate,
    fun m hm he => residencyMoveComplete_waits hm he, ?evicted, ?placed, fun c => residencyScan_off, fun c => residencyScan_unreferenced⟩
  case marks =>
    intro c slots tier r hg hpages hva hrsvd hslots hc hr hspad hlo hhi htier hvalid
    exact validate_marks (asked hg) hpages hva hrsvd hc hslots hr hspad hlo hhi htier hvalid
  case unsealed =>
    intro c hg hpages hva hrsvd hc hseals
    exact validate_unsealed (asked hg) hpages hva hrsvd hc hseals
  case promoteInvalid =>
    intro hg hv
    rw [promote_asked (asked hg), hv]
    rfl
  case promoteThere =>
    intro hg hv ht
    rw [promote_asked (asked hg), hv, if_pos ht]
    rfl
  case promote => exact fun hg hv ht hroom => ⟨_, promote_starts (asked hg) hv ht hroom, begins 1 hg⟩
  case demoteUsed =>
    intro hg hv hu
    rw [demote_asked (asked hg), hv, if_pos hu]
    rfl
  case demote => exact fun hg hv hu ht hroom => ⟨_, demote_starts (asked hg) hv hu ht hroom, begins 2 hg⟩
  case evictUsed =>
    intro hg hv hu
    rw [evict_asked (asked hg), hv, if_pos hu]
    rfl
  case evict => exact fun hg hv hu ht => ⟨_, evict_starts (asked hg) hv hu ht, begins 0 hg⟩
  case invalidateUsed =>
    intro hg hu
    rw [invalidate_asked (asked hg), if_pos hu]
    rfl
  case invalidate =>
    intro hg hu
    rw [invalidate_asked (asked hg), if_neg (not_not.mpr hu)]
    have hmoves := congrArg State.resMoves (modRes_beside s h.toNat fun x => withField x 326 1 0)
    exact ⟨_, rfl, rfl, rfl, hmoves, rfl, rfl⟩
  case evicted =>
    intro m hm he hsd ht hl
    rw [residencyMoveComplete_unmapped hm he hsd hl ht, State.endMove, ht]
    rfl
  case placed =>
    intro m slots hm he hsd ht hfrom hl hslots hf hroom
    rw [residencyMoveComplete_places hm he hsd hl ht hfrom hslots hf hroom, State.endMove, ht]
    rfl

end Sys2Proof.Machine
end

section
/-! PROOFS. Streams and engines (chapter 07, R156 to R176): how an instruction of a stream ends in the words of the statements, the issue of the
engine commands by the A-stream, and the issue of the matrix commands, with their snapshot, by the X-stream. -/

namespace Sys2Proof.Machine

open Sys2Proof.Says

/-! ## How an attempt to issue ends -/

/-- A body that is done and is no jump leaves the stream past its words. -/
theorem settle_done (g : BitVec 8) (st : Stream) (n : Nat) (s : State) : settle g st n (.ok (s, none)) = finished s g st n := by
  simp only [settle, State.issued, State.modTile_modTile, finished, Tile.advance]

/-- A cause is taken after two X-cycles. -/
theorem settle_trap (g : BitVec 8) (st : Stream) (n : Nat) (s : State) (r : Raise) : settle g st n (.error (.trap s r)) = trapped s g st r := rfl

theorem Tile.SameButPmc.count {t u : Tile} (h : t.SameButPmc u) (ev : Nat) (st : Option Stream) : t.SameButPmc (u.count ev st) := by
  obtain ⟨a, b, c, rfl⟩ := h
  obtain ⟨a', b', c', hc⟩ := Tile.count_eq { t with pmc := a, pmovf := b, pmwrap := c } ev st
  rw [hc]
  exact ⟨a', b', c', rfl⟩

/-- What a stalled stream waits for is counted in the performance counters, which alone change. -/
theorem stalled_sameButPmc (s : State) (g : BitVec 8) (st : Stream) (why : WaitWhy) :
    ∃ b, s.stalled g st why = s.setTile g b ∧ (s.tile g).SameButPmc b := by
  have counted : (s.tile g).SameButPmc ((s.tile g).count 0x03 (some st)) := Tile.count_eq ..
  cases why with
  | other => exact ⟨_, rfl, counted⟩
  | queue => exact ⟨_, rfl, counted.count 0x04 (some st)⟩
  | token => exact ⟨_, rfl, counted.count 0x05 (some st)⟩

/-- A body that waits leaves the stream where it is. -/
theorem settle_wait (g : BitVec 8) (st : Stream) (n : Nat) (s : State) (why : WaitWhy) : Stalled s (settle g st n (.error (.wait s why))) g := by
  obtain ⟨b, hb, _, _, _, rfl⟩ := stalled_sameButPmc s g st why
  exact ⟨_, hb, rfl⟩

/-- An update of a tile is what it makes of that tile. -/
theorem modTile_congr {s : State} {g : BitVec 8} {f h : Tile → Tile} (e : f (s.tile g) = h (s.tile g)) : s.modTile g f = s.modTile g h :=
  congrArg (s.setTile g) e

/-! ## Tokens, queues and scalar registers in the words of the statements -/

theorem tkPending_eq_waits (t : Tile) (k : R5) : t.tkPending k = waits t k := rfl
theorem tkProduce_eq_produced (t : Tile) (k : R5) : t.tkProduce k = produced k t := rfl
theorem rdA_eq_scalar (t : Tile) (r : R5) : t.rdA r = scalar t .a r := rfl

theorem engDepth_eq (e : Eng) : engDepth e = if e = .matrix then 8 else 16 := by cases e <;> rfl

theorem full_eq_false_iff (t : Tile) (e : Eng) : (t.eng e).full e = false ↔ HasRoom t e := by
  simp only [EngQ.full, HasRoom, engDepth_eq, decide_eq_false_iff_not, Nat.not_le]

/-- No write in flight is bound for a register: no window of it is open (R171). -/
theorem openBits_closed {t : Tile} {d : XDst} (h : ∀ p ∈ t.pend, p.dst ≠ d) : t.openBits d = (0, 0) := by
  unfold Tile.openBits
  generalize t.pend = l at h
  induction l with
  | nil => rfl
  | cons p l ih =>
    rw [List.foldl_cons, if_neg (h p List.mem_cons_self)]
    exact ih fun q hq => h q (List.mem_cons_of_mem _ hq)

/-- A stream reads a scalar register under no open window: its value and poison, and nothing changes. -/
theorem rdS_eq_scalar {s : State} {g : BitVec 8} {st : Stream} {r : R5} (h : st = .x → ∀ p ∈ (s.tile g).pend, p.dst ≠ .x r) :
    s.rdS g st r = (scalar (s.tile g) st r, s) := by
  cases st with
  | a => rfl
  | x => exact rdS_x_closed (congrArg Prod.fst (openBits_closed (h rfl)))

/-- The three registers of a command are clean. -/
def RegsClean (t : Tile) (st : Stream) (r : R5 × R5 × R5) : Prop :=
  (scalar t st r.1).2 = false ∧ (scalar t st r.2.1).2 = false ∧ (scalar t st r.2.2).2 = false

section Reads
variable {s : State} {g : BitVec 8} {st : Stream} {r : R5 × R5 × R5}
  (h : st = .x → ∀ p ∈ (s.tile g).pend, p.dst ≠ .x r.1 ∧ p.dst ≠ .x r.2.1 ∧ p.dst ≠ .x r.2.2)
include h

theorem rd3_eq : s.rd3 g st r.1 r.2.1 r.2.2 =
    if (scalar (s.tile g) st r.1).2 || (scalar (s.tile g) st r.2.1).2 || (scalar (s.tile g) st r.2.2).2 then trapIn s { code := 0x2B }
    else .ok ((scalar (s.tile g) st r.1).1, (scalar (s.tile g) st r.2.1).1, (scalar (s.tile g) st r.2.2).1, s) := by
  have ha : s.rdS g st r.1 = _ := rdS_eq_scalar fun e p hp => (h e p hp).1
  have hb : s.rdS g st r.2.1 = _ := rdS_eq_scalar fun e p hp => (h e p hp).2.1
  have hc : s.rdS g st r.2.2 = _ := rdS_eq_scalar fun e p hp => (h e p hp).2.2
  simp only [State.rd3, ha, hb, hc]

/-- The registers of a command, all clean (R429). -/
theorem rd3_clean (hr : RegsClean (s.tile g) st r) : s.rd3 g st r.1 r.2.1 r.2.2 =
    .ok ((scalar (s.tile g) st r.1).1, (scalar (s.tile g) st r.2.1).1, (scalar (s.tile g) st r.2.2).1, s) := by
  obtain ⟨ha, hb, hc⟩ := hr
  rw [rd3_eq h, ha, hb, hc]
  rfl

/-- One of the registers of a command is poisoned (R429). -/
theorem rd3_poisoned (hp : ¬ RegsClean (s.tile g) st r) : s.rd3 g st r.1 r.2.1 r.2.2 = trapIn s { code := 0x2B } := by
  refine (rd3_eq h).trans (if_pos ?_)
  by_contra hclean
  simp only [Bool.or_eq_true, not_or, Bool.not_eq_true] at hclean
  obtain ⟨⟨ha, hb⟩, hc⟩ := hclean
  exact hp ⟨ha, hb, hc⟩

end Reads

/-! ## The issue of a command (R165, R166, R429) -/

/-- A queue that discards commands, or has room, holds none back. -/
theorem queue_takes {t : Tile} {e : Eng} (hq : (t.eng e).halted = true ∨ HasRoom t e) : (!(t.eng e).halted && (t.eng e).full e) = false := by
  rcases hq with hh | hr
  · simp only [hh, Bool.not_true, Bool.false_and]
  · simp only [(full_eq_false_iff _ _).mpr hr, Bool.and_false]

/-- A command may issue: its token is free, and its engine's queue discards it or has room. -/
theorem waitCmd_ready {s : State} {g : BitVec 8} {e : Eng} {k : ETok} (hk : waits (s.tile g) k.tp = false)
    (hq : ((s.tile g).eng e).halted = true ∨ HasRoom (s.tile g) e) : s.waitCmd g (some e) k = .ok () := by
  simp only [State.waitCmd, tkPending_eq_waits, hk, queue_takes hq, waitIf, Bool.false_eq_true, if_false]

/-- A command waits for its token or for room in its engine's queue. -/
theorem waitCmd_waits {s : State} {g : BitVec 8} {e : Eng} {k : ETok}
    (h : waits (s.tile g) k.tp = true ∨ (((s.tile g).eng e).halted = false ∧ ¬ HasRoom (s.tile g) e)) :
    ∃ why, s.waitCmd g (some e) k = .error (.wait s why) := by
  by_cases hk : waits (s.tile g) k.tp = true
  · exact ⟨.token, if_pos hk⟩
  · obtain ⟨hh, hr⟩ := h.resolve_left hk
    have hfull : ((s.tile g).eng e).full e = true := Bool.not_eq_false _ ▸ mt (full_eq_false_iff _ _).mp hr
    refine ⟨.other, (if_neg hk).trans ?_⟩
    simp only [hh, hfull, waitIf, Bool.not_false, Bool.and_self, if_true]
    rfl

theorem mkCmd_fresh (t : Tile) (op : CmdOp) (st : Stream) (k : ETok) (a b c : W64) (imm : BitVec 17) :
    Fresh (mkCmd t op st k a b c imm) t st op k a b c imm.toNat := ⟨rfl, rfl, rfl, rfl, rfl, rfl, rfl, rfl, rfl, rfl, rfl⟩

/-- A command joins the queue of its engine, and its token becomes pending. -/
theorem pushCmd_queued {s : State} {g : BitVec 8} {e : Eng} (c : Cmd) (h : ((s.tile g).eng e).halted = false) :
    s.pushCmd g e c = s.modTile g fun t => produced c.tp (t.setEng e { t.eng e with waiting := (t.eng e).waiting ++ [c] }) := by
  refine modTile_congr ?_
  simp only [h, Bool.false_eq_true, if_false, tkProduce_eq_produced]

/-- A halted queue discards a command, and its token completes (R423, R431). -/
theorem pushCmd_halted {s : State} {g : BitVec 8} {e : Eng} (c : Cmd) (h : ((s.tile g).eng e).halted = true) :
    s.pushCmd g e c = s.modTile g fun t => (produced c.tp (t.discard c)).tkComplete c.tp := by
  refine modTile_congr ?_
  simp only [h, if_true, tkProduce_eq_produced]

/-! ## The engine commands of the A-stream -/

section EngineIssue
variable {s : State} {g : BitVec 8} {e : Eng} {op : CmdOp} {k : ETok} {r : R5 × R5 × R5} {imm : BitVec 17} (hcur : s.cur = .stream g .a)
include hcur

/-- The command that an engine command of the A-stream brings to its queue. -/
theorem engIssue_pushes (hk : waits (s.tile g) k.tp = false) (hq : ((s.tile g).eng e).halted = true ∨ HasRoom (s.tile g) e)
    (hr : RegsClean (s.tile g) .a r) :
    engIssue e op k r.1 r.2.1 r.2.2 imm s = .next (finished (s.pushCmd g e (mkCmd (s.tile g) op .a k (scalar (s.tile g) .a r.1).1
      (scalar (s.tile g) .a r.2.1).1 (scalar (s.tile g) .a r.2.2).1 imm)) g .a 2) := by
  obtain ⟨ha, hb, hc⟩ := hr
  rw [engIssue_ready hcur hk (queue_takes hq) ha hb hc, settle_done]
  rfl

/-- An engine command with a poisoned register: cause 0x2B (R429). -/
theorem engIssue_poisoned (hk : waits (s.tile g) k.tp = false) (hq : ((s.tile g).eng e).halted = true ∨ HasRoom (s.tile g) e)
    (hp : ¬ RegsClean (s.tile g) .a r) : engIssue e op k r.1 r.2.1 r.2.2 imm s = .next (trapped s g .a { code := 0x2B }) := by
  rw [engIssue, issue_a hcur, waitCmd_ready hk hq, rd3_poisoned (st := .a) nofun hp]
  rfl

/-- An engine command whose token is pending, or whose queue is full, waits (R165, R166). -/
theorem engIssue_waits (h : waits (s.tile g) k.tp = true ∨ (((s.tile g).eng e).halted = false ∧ ¬ HasRoom (s.tile g) e)) :
    ∃ u, engIssue e op k r.1 r.2.1 r.2.2 imm s = .next u ∧ Stalled s u g := by
  obtain ⟨why, hw⟩ := waitCmd_waits (k := k) h
  refine ⟨_, ?_, settle_wait g .a 2 s why⟩
  rw [engIssue, issue_a hcur, hw]
  rfl

end EngineIssue

/-- The commands of the matrix engine (R409 to R420). -/
def matrixOps : List CmdOp := [.mwld, .mswap, .mma, .mmas, .mepi]

/-- A command of another engine is discarded without a trace (R431). -/
theorem discard_eq_self {c : Cmd} (h : c.op ∉ matrixOps) (t : Tile) : t.discard c = t := by
  simp only [matrixOps, List.mem_cons, List.not_mem_nil, or_false, not_or] at h
  obtain ⟨hwld, -, hmma, hmmas, hepi⟩ := h
  have hz : c.zTargets = [] := by
    unfold Cmd.zTargets
    split
    · exact absurd ‹_› hmma
    · exact absurd ‹_› hmmas
    · exact absurd ‹_› hepi
    · rfl
  rw [Tile.discard, hz, if_neg hwld]
  rfl

theorem discard_mkCmd {op : CmdOp} (h : op ∉ matrixOps) (t u : Tile) (st : Stream) (k : ETok) (a b c : W64) (imm : BitVec 17) :
    u.discard (mkCmd t op st k a b c imm) = u := discard_eq_self h u

/-! ### Words of IMM17 -/

theorem toNat_append_add {n m : Nat} (x : BitVec n) (y : BitVec m) : (x ++ y).toNat = 2 ^ m * x.toNat + y.toNat := by
  rw [BitVec.toNat_append, ← Nat.shiftLeft_add_eq_or_of_lt y.isLt, Nat.shiftLeft_eq, Nat.mul_comm]

theorem toNat_ofBool_ite (b : Bool) : (BitVec.ofBool b).toNat = if b then 1 else 0 := by cases b <;> rfl

theorem toNat_setWidth17 {n : Nat} (x : BitVec n) (h : n ≤ 17) : (x.setWidth 17).toNat = x.toNat := by
  rw [BitVec.toNat_setWidth, Nat.mod_eq_of_lt (Nat.lt_of_lt_of_le x.isLt (Nat.pow_le_pow_right (by decide) h))]

theorem toNat_copyImm (fill : Bool) (ssp dsp : BitVec 3) :
    (((0 : BitVec 10) ++ BitVec.ofBool fill ++ ssp ++ dsp).setWidth 17).toNat = (if fill then 64 else 0) + 8 * ssp.toNat + dsp.toNat := by
  rw [toNat_setWidth17 _ (by decide)]
  simp only [toNat_append_add, toNat_ofBool_ite, show (0 : BitVec 10).toNat = 0 from rfl]
  split <;> omega

theorem toNat_copynImm (nl : BitVec 7) (nt : BitVec 6) (dir : Bool) (sp : BitVec 3) :
    ((nl ++ nt ++ BitVec.ofBool dir ++ sp).setWidth 17).toNat =
      1024 * nl.toNat + 16 * nt.toNat + (if dir then 8 else 0) + sp.toNat := by
  rw [toNat_setWidth17 _ (by decide)]
  simp only [toNat_append_add, toNat_ofBool_ite]
  split <;> omega

theorem toNat_gatherImm (lsp : Bool) (sp : BitVec 3) : (gatherImm lsp sp).toNat = (if lsp then 8 else 0) + sp.toNat := by
  rw [gatherImm, toNat_setWidth17 _ (by decide)]
  simp only [toNat_append_add, toNat_ofBool_ite]
  split <;> omega

theorem toNat_bitImm (b : Bool) : ((BitVec.ofBool b).setWidth 17).toNat = if b then 1 else 0 :=
  (toNat_setWidth17 _ (by decide)).trans (toNat_ofBool_ite b)

/-! ### The form of an engine command -/

/-- An instruction of the form is the engine command `op` of engine `e`, with IMM17 `n`. -/
theorem engineForm_issues {i : Instr} {e : Eng} {op : CmdOp} {k : ETok} {r : R5 × R5 × R5} {n : Nat}
    (h : engineForm i = some (e, op, k, r, n)) :
    op ∉ matrixOps ∧ ∃ imm : BitVec 17, imm.toNat = n ∧ ∀ s, exec i s = engIssue e op k r.1 r.2.1 r.2.2 imm s := by
  unfold engineForm at h
  split at h
  case h_25 => exact nomatch h
  all_goals
    obtain ⟨rfl, rfl, rfl, rfl, rfl⟩ := h
    refine ⟨by decide, ?_⟩
  case h_1 => exact ⟨_, toNat_copyImm .., fun _ => rfl⟩
  case h_3 => exact ⟨_, toNat_copynImm .., fun _ => rfl⟩
  case h_6 | h_7 | h_8 => exact ⟨_, toNat_gatherImm .., fun _ => rfl⟩
  case h_15 | h_23 | h_24 => exact ⟨_, toNat_bitImm _, fun _ => rfl⟩
  case h_2 | h_16 | h_18 | h_21 => exact ⟨_, toNat_setWidth17 _ (by decide), fun _ => rfl⟩
  case h_4 | h_5 | h_9 | h_10 | h_11 | h_12 | h_13 | h_14 | h_17 | h_19 | h_20 | h_22 => exact ⟨_, rfl, fun _ => rfl⟩

/-- Settles O29, by what a command that may issue brings to its queue: the queue takes it or, halted, discards it. -/
theorem engineCommandsIssue : Obligations.EngineCommandsIssue := by
  unfold Obligations.EngineCommandsIssue
  intro s g i e op k r n t good hcur hi
  obtain ⟨hop, imm, rfl, hexec⟩ := engineForm_issues hi
  simp only [hexec]
  refine ⟨?queued, ?discarded, ?poisoned, ?waits⟩
  case queued =>
    intro hk hh hroom hr
    refine ⟨_, mkCmd_fresh .., ?_⟩
    rw [engIssue_pushes hcur hk (.inr hroom) hr, pushCmd_queued _ hh]
    rfl
  case discarded =>
    intro hk hh hr
    rw [engIssue_pushes hcur hk (.inl hh) hr, pushCmd_halted _ hh]
    simp only [discard_mkCmd hop]
    rfl
  case poisoned => exact fun hk hq hp => engIssue_poisoned hcur hk hq hp
  case waits => exact fun h => engIssue_waits hcur h

/-! ## The blocks of a matrix command (R403) -/

/-- A block in the words of the statements: address, alignment, size. -/
def Blk.named (b : Blk) : W64 × Nat × Nat := (b.addr, b.align, b.size)

theorem blks_named {c : Cmd} (hop : c.op ∈ matrixOps) (s : State) (g : BitVec 8) :
    (c.blks s g).map Blk.named = namedBlocks s g c.op c.a c.b c.c c.imm.toNat := by
  have epilogue (he : c.op ≠ .mepi) : c.epi = c.imm.toNat.testBit 7 := by
    rw [Cmd.epi, beq_false_of_ne he]
    rfl
  simp only [matrixOps, List.mem_cons, List.not_mem_nil, or_false] at hop
  rcases hop with h | h | h | h | h
  case inr.inr.inl | inr.inr.inr.inl =>
    simp only [Cmd.blks, namedBlocks, h, epilogue (h ▸ nofun)]
    split <;> rfl
  all_goals
    simp only [Cmd.blks, namedBlocks, h]
    rfl

theorem find_misaligned {bs : List Blk} {x : W64 × Nat × Nat}
    (h : (bs.map Blk.named).find? (fun x => decide (x.1.toNat % x.2.1 ≠ 0)) = some x) :
    ∃ b, bs.find? (fun b => b.addr.toNat % b.align != 0) = some b ∧ b.addr = x.1 := by
  rw [List.find?_map, Option.map_eq_some_iff] at h
  obtain ⟨b, hb, rfl⟩ := h
  refine ⟨b, ?_, rfl⟩
  rw [← hb]
  congr 1
  funext b
  exact (decide_not (p := b.addr.toNat % b.align = 0)).symm

section Good
variable {s : State} {g : BitVec 8} {bs : List Blk} (h : BlocksGood s g (bs.map Blk.named))
include h

theorem blocksGood_aligned : bs.find? (fun b => b.addr.toNat % b.align != 0) = none := by
  rw [List.find?_eq_none]
  intro b hb
  obtain ⟨halign, -, -⟩ := h _ (List.mem_map_of_mem hb)
  simpa [Blk.named] using halign

theorem blocksGood_inside : bs.find? blkOut = none := by
  rw [List.find?_eq_none]
  intro b hb
  obtain ⟨-, hin, -⟩ := h _ (List.mem_map_of_mem hb)
  simpa [Blk.named, blkOut] using hin

theorem blocksGood_clean : bs.any (fun b => s.poisoned (spadBase g.toNat + b.addr.toNat) b.size) = false := by
  rw [List.any_eq_false]
  intro b hb
  obtain ⟨-, -, hclean⟩ := h _ (List.mem_map_of_mem hb)
  simpa [Blk.named] using hclean

end Good

/-! ## The checks of a matrix command (R404) -/

theorem needClass_ok {s : State} {g : BitVec 8} {n : Nat} (h : n ≤ (s.tile g).sclass) : needClass s g n = .ok () := by
  simp only [needClass, raiseIf, decide_eq_false (Nat.not_lt.mpr h), Bool.false_eq_true, if_false]

/-- A compute command passes its checks against the active view and the class (R404). -/
theorem matrixCheck_compute {s : State} {g : BitVec 8} {c : Cmd} (hop : c.op = .mma ∨ c.op = .mmas)
    (hv : ViewAllows (s.tile g) c.op c.ty) : matrixCheck s g c = .ok () := by
  obtain ⟨-, hempty, hpair⟩ := hv
  by_cases hl : (s.tile g).viewA.st = .loaded
  · obtain ⟨m, hm, hsparse, hmode, hclass⟩ := hpair hop hl
    have hdense : ((s.tile g).viewA.sparse && decide (16 < c.ty.bits)) = false := by simpa using hsparse
    have hmodes : (c.op == .mmas && (m == .f64 || m == .int)) = false := by simpa using hmode
    have hpermits : needClass s g (pairClass (Nat.max c.ty.bits (s.tile g).viewA.ty.bits) (s.tile g).viewA.sparse) = .ok () := needClass_ok hclass
    rcases hop with h | h
    all_goals
      rw [h] at hmodes
      simp only [matrixCheck, h, hl, hm, hdense, hmodes, hpermits, raiseIf]
      rfl
  · have hpermits : needClass s g 3 = .ok () := needClass_ok (hempty hop hl)
    rcases hop with h | h
    all_goals simp only [matrixCheck, h, hpermits, bne_iff_ne.mpr hl, if_true]

/-- A matrix command that the view and the class allow passes its checks (R404). -/
theorem matrixCheck_ok {s : State} {g : BitVec 8} {c : Cmd} (hop : c.op ∈ matrixOps) (hv : ViewAllows (s.tile g) c.op c.ty) :
    matrixCheck s g c = .ok () := by
  have plane (h : c.op = .mwld ∨ c.op = .mswap ∨ c.op = .mepi) : needClass s g 3 = .ok () := needClass_ok (hv.1 h)
  simp only [matrixOps, List.mem_cons, List.not_mem_nil, or_false] at hop
  rcases hop with h | h | h | h | h
  · simp only [matrixCheck, h, plane (.inl h)]
  · simp only [matrixCheck, h, plane (.inr (.inl h))]
  · exact matrixCheck_compute (.inl h) hv
  · exact matrixCheck_compute (.inr h) hv
  · simp only [matrixCheck, h, plane (.inr (.inr h))]

/-! ## The snapshot (R403) -/

theorem rdNat_toNat (s : State) (a : Nat) {n w : Nat} (h : 8 * n ≤ w) : (BitVec.ofNat w (s.rdNat a n)).toNat = s.rdNat a n := by
  refine (BitVec.toNat_ofNat ..).trans (Nat.mod_eq_of_lt ((leNat_lt _).trans_le ?_))
  rw [State.rdBytes, Mem.gets, List.length_map, List.length_range, show (256 : Nat) = 2 ^ 8 from rfl, ← Nat.pow_mul]
  exact Nat.pow_le_pow_right (by decide) h

/-- A snapshot sets the blocks, FCTL and MCFG of a command, and leaves the rest of it. -/
theorem snapped_eq (c : Cmd) (s : State) (g : BitVec 8) : ∃ b0 b1 b2, c.snapped s g =
    { c with rm := roundingMode (s.tile g), ftz := ftz (s.tile g), leak := (s.tile g).leak, adty := (s.tile g).adty,
             blk0 := b0, blk1 := b1, blk2 := b2 } := by
  unfold Cmd.snapped
  dsimp only
  split <;> exact ⟨_, _, _, rfl⟩

theorem snapped_fields (c : Cmd) (s : State) (g : BitVec 8) :
    (c.snapped s g).ty = c.ty ∧ (c.snapped s g).rm = roundingMode (s.tile g) ∧ (c.snapped s g).ftz = ftz (s.tile g) ∧
      (c.snapped s g).leak = (s.tile g).leak ∧ (c.snapped s g).adty = (s.tile g).adty := by
  obtain ⟨_, _, _, h⟩ := snapped_eq c s g
  rw [h]
  exact ⟨rfl, rfl, rfl, rfl, rfl⟩

theorem snapped_mwld {c : Cmd} (h : c.op = .mwld) (s : State) (g : BitVec 8) :
    (c.snapped s g).blk0.toNat = s.rdNat (spadBase g.toNat + c.a.toNat) 64 := by
  simp only [Cmd.snapped, h]
  exact rdNat_toNat s _ (by decide)

theorem snapped_mepi {c : Cmd} (h : c.op = .mepi) (s : State) (g : BitVec 8) :
    (c.snapped s g).blk1.toNat = s.rdNat (spadBase g.toNat + c.a.toNat) 64 := by
  simp only [Cmd.snapped, h]
  exact rdNat_toNat s _ (by decide)

theorem snapped_activations {c : Cmd} (h : c.op = .mma ∨ c.op = .mmas) (s : State) (g : BitVec 8) :
    (c.snapped s g).blk0.toNat = s.rdNat (spadBase g.toNat + c.a.toNat) 32 := by
  rcases h with h | h
  all_goals
    simp only [Cmd.snapped, h]
    exact rdNat_toNat s _ (by decide)

theorem snapped_epilogue {c : Cmd} (h : c.op = .mma ∨ c.op = .mmas) (he : c.imm.toNat.testBit 7 = true) (s : State) (g : BitVec 8) :
    (c.snapped s g).blk1.toNat = s.rdNat (spadBase g.toNat + c.b.toNat) 64 := by
  have hbit : c.imm.getLsbD 7 = true := he
  rcases h with h | h
  all_goals
    simp only [Cmd.snapped, Cmd.epi, h, hbit, Bool.or_true, if_true]
    exact rdNat_toNat s _ (by decide)

/-! ## The unit and the views (R173, R404) -/

/-- A tile whose command has taken LS1 for one X-cycle (R173). -/
def Tile.takeLs1 (t : Tile) : Tile := { t with units := { t.units with ls1 := t.xcyc + 1 } }

theorem useUnit_ls1_busy {s : State} {g : BitVec 8} (h : (s.tile g).xcyc < (s.tile g).units.ls1) :
    s.useUnit g .x .ls1 1 = trapIn s { code := 0x1B } := (useUnit_x s g .ls1 1).trans (if_pos h)

theorem useUnit_ls1_free {s : State} {g : BitVec 8} (h : (s.tile g).units.ls1 ≤ (s.tile g).xcyc) :
    s.useUnit g .x .ls1 1 = .ok (s.modTile g Tile.takeLs1) := (useUnit_x s g .ls1 1).trans (if_neg (Nat.not_lt.mpr h))

/-- The snapshot does not see the unit that the command has taken. -/
theorem snapped_takeLs1 (c : Cmd) (s : State) (g : BitVec 8) : c.snapped (s.modTile g Tile.takeLs1) g = c.snapped s g := by
  simp only [Cmd.snapped, State.rdFctl, State.tile_modTile]
  rfl

theorem viewAfter_eq {t : Tile} {c : Cmd} (h : t.emat.halted = false) : t.viewAfter c = viewsAfter c.op c.blk0 t := by
  unfold Tile.viewAfter viewsAfter
  rw [h]
  rfl

theorem viewsAfter_emat (op : CmdOp) (b : BitVec 512) (t : Tile) : (viewsAfter op b t).emat = t.emat := by
  unfold viewsAfter
  split <;> rfl

/-- A matrix command joins its queue, which is not halted, and the X-stream's views follow (R404). -/
theorem pushCmd_matrix {s : State} {g : BitVec 8} (c : Cmd) (h : (s.tile g).emat.halted = false) :
    (s.modTile g fun t => t.viewAfter c).pushCmd g .matrix c = s.modTile g fun t =>
      let t := viewsAfter c.op c.blk0 t
      produced c.tp { t with emat := { t.emat with waiting := t.emat.waiting ++ [c] } } := by
  have hview : (s.modTile g fun t => t.viewAfter c) = s.modTile g (viewsAfter c.op c.blk0) := modTile_congr (viewAfter_eq h)
  rw [hview, pushCmd_queued, State.modTile_modTile]
  · rfl
  · rw [State.tile_modTile, Tile.eng, viewsAfter_emat, h]

/-! ## The issue of a matrix command -/

/-- A matrix command as its words and the X-stream's registers give it, before its snapshot. -/
def matrixCmd (t : Tile) (op : CmdOp) (y : Ty) (k : ETok) (r : R5 × R5 × R5) (imm : BitVec 17) : Cmd :=
  { mkCmd t op .x k (scalar t .x r.1).1 (scalar t .x r.2.1).1 (scalar t .x r.2.2).1 imm with ty := y }

/-- A snapshot keeps what its words and registers give a command. -/
theorem snapped_matrixCmd_fresh (t : Tile) (op : CmdOp) (y : Ty) (k : ETok) (r : R5 × R5 × R5) (imm : BitVec 17) (s : State) (g : BitVec 8) :
    Fresh ((matrixCmd t op y k r imm).snapped s g) t .x op k (scalar t .x r.1).1 (scalar t .x r.2.1).1 (scalar t .x r.2.2).1 imm.toNat := by
  obtain ⟨_, _, _, h⟩ := snapped_eq (matrixCmd t op y k r imm) s g
  rw [h]
  exact mkCmd_fresh ..

/-- A matrix command may issue from the X-stream of tile `g` in `s`, which is `u` once writes have landed: no window covers its registers, its
token is free and its queue has room. -/
structure MatrixReady (s u : State) (g : BitVec 8) (k : ETok) (r : R5 × R5 × R5) : Prop where
  cur : s.cur = .stream g .x
  opens : opened s g .x = u
  closed : ∀ p ∈ (u.tile g).pend, p.dst ≠ .x r.1 ∧ p.dst ≠ .x r.2.1 ∧ p.dst ≠ .x r.2.2
  token : waits (u.tile g) k.tp = false
  room : HasRoom (u.tile g) .matrix

theorem issue_opened {s u : State} {g : BitVec 8} {k : ETok} {r : R5 × R5 × R5} (h : MatrixReady s u g k r) (n : Nat)
    (body : BitVec 8 → Stream → State → Res State) : issue .x n body s = .next (settle g .x n ((body g .x u).map fun s => (s, none))) :=
  h.opens ▸ issue_x h.cur rfl n body

section MatrixIssue
variable {s u : State} {g : BitVec 8} {op : CmdOp} {y : Ty} {k : ETok} {r : R5 × R5 × R5} {imm : BitVec 17}
  (h : MatrixReady s u g k r)
include h

/-- A matrix command with a poisoned register: cause 0x2B (R429). -/
theorem matrixIssue_poisoned (hp : ¬ RegsClean (u.tile g) .x r) :
    matrixIssue op y k r.1 r.2.1 r.2.2 imm s = .next (trapped u g .x { code := 0x2B }) := by
  rw [matrixIssue, issue_opened h, waitCmd_ready h.token (.inr h.room), rd3_poisoned (fun _ => h.closed) hp]
  rfl

section Clean
variable (hr : RegsClean (u.tile g) .x r)
include hr

/-- A matrix command one of whose blocks is not aligned: cause 0x07 (R403). -/
theorem matrixIssue_misaligned {b : Blk}
    (hfind : ((matrixCmd (u.tile g) op y k r imm).blks u g).find? (fun b => b.addr.toNat % b.align != 0) = some b) :
    matrixIssue op y k r.1 r.2.1 r.2.2 imm s = .next (trapped u g .x { code := 0x07, tval := b.addr, aKind := 3 }) := by
  unfold matrixCmd at hfind
  rw [matrixIssue, issue_opened h, waitCmd_ready h.token (.inr h.room), rd3_clean (fun _ => h.closed) hr]
  simp only [bind, Except.bind, hfind]
  rfl

section Checked
variable {bs : List Blk} (hbs : (matrixCmd (u.tile g) op y k r imm).blks u g = bs) (hop : op ∈ matrixOps)
  (hgood : BlocksGood u g (bs.map Blk.named)) (hview : ViewAllows (u.tile g) op y)
include hbs hop hgood hview

/-- A matrix command that passes its checks takes LS1 if it names blocks, and joins its queue with its snapshot (R403, R404). -/
theorem matrixIssue_checked : matrixIssue op y k r.1 r.2.1 r.2.2 imm s = .next (settle g .x 2
      (((if bs.isEmpty then .ok u else u.useUnit g .x .ls1 1).map fun v =>
        let q := (matrixCmd (u.tile g) op y k r imm).snapped v g
        (v.modTile g fun t => t.viewAfter q).pushCmd g .matrix q).map fun s => (s, none))) := by
  have hcheck := matrixCheck_ok (c := matrixCmd (u.tile g) op y k r imm) hop hview
  unfold matrixCmd at hbs hcheck
  rw [matrixIssue, issue_opened h, waitCmd_ready h.token (.inr h.room), rd3_clean (fun _ => h.closed) hr]
  simp only [bind, Except.bind, hbs, blocksGood_aligned hgood, blocksGood_inside hgood, blocksGood_clean hgood, raiseIf,
    Bool.false_eq_true, if_false, hcheck]
  cases bs with
  | nil => rfl
  | cons b bs =>
    simp only [List.isEmpty_cons, Bool.false_eq_true, if_false]
    cases u.useUnit g .x .ls1 1 <;> rfl

/-- A matrix command that names blocks while LS1 is taken: cause 0x1B (R173). -/
theorem matrixIssue_busy (hne : bs ≠ []) (hbusy : (u.tile g).xcyc < (u.tile g).units.ls1) :
    matrixIssue op y k r.1 r.2.1 r.2.2 imm s = .next (trapped u g .x { code := 0x1B }) := by
  rw [matrixIssue_checked h hr hbs hop hgood hview, if_neg (mt List.isEmpty_iff.mp hne), useUnit_ls1_busy hbusy]
  rfl

/-- A matrix command that passes its checks joins its queue with its snapshot; where it names blocks, which `p` denies, it takes LS1 (R173, R403,
R404). -/
theorem matrixIssue_queued {p : Prop} [Decidable p] (hp : bs = [] ↔ p) (hh : (u.tile g).emat.halted = false)
    (hfree : ¬p → (u.tile g).units.ls1 ≤ (u.tile g).xcyc) :
    matrixIssue op y k r.1 r.2.1 r.2.2 imm s =
      let q := (matrixCmd (u.tile g) op y k r imm).snapped u g
      .next (finished (u.modTile g fun t =>
        let t := viewsAfter op q.blk0 (if p then t else t.takeLs1)
        produced k.tp { t with emat := { t.emat with waiting := t.emat.waiting ++ [q] } }) g .x 2) := by
  obtain ⟨hqop, -, hqtp, -⟩ := snapped_matrixCmd_fresh (u.tile g) op y k r imm u g
  rw [matrixIssue_checked h hr hbs hop hgood hview]
  by_cases hnone : p
  · rw [if_pos (List.isEmpty_iff.mpr (hp.mpr hnone))]
    simp only [Except.map, settle_done, pushCmd_matrix _ hh, if_pos hnone, hqop, hqtp]
  · have hh' : ((u.modTile g Tile.takeLs1).tile g).emat.halted = false := by rwa [State.tile_modTile]
    rw [if_neg (mt List.isEmpty_iff.mp (mt hp.mp hnone)), useUnit_ls1_free (hfree hnone)]
    simp only [Except.map, settle_done, snapped_takeLs1, pushCmd_matrix _ hh', if_neg hnone]
    rw [State.modTile_modTile, hqop, hqtp]

end Checked

end Clean

end MatrixIssue

/-! ## The form of a matrix command -/

theorem toNat_computeImm (nrb : BitVec 9) (epi zero : Bool) (nz z : BitVec 3) :
    (nrb ++ BitVec.ofBool epi ++ BitVec.ofBool zero ++ nz ++ z).toNat =
      256 * nrb.toNat + (if epi then 128 else 0) + (if zero then 64 else 0) + 8 * nz.toNat + z.toNat := by
  simp only [toNat_append_add, toNat_ofBool_ite]
  cases epi <;> cases zero <;> simp only [Bool.false_eq_true, if_true, if_false] <;> omega

/-- An instruction of the form is the matrix command `op` of type `y`, with IMM17 `n`. -/
theorem matrixForm_issues {i : Instr} {op : CmdOp} {y : Ty} {k : ETok} {r : R5 × R5 × R5} {n : Nat}
    (h : matrixForm i = some (op, y, k, r, n)) :
    op ∈ matrixOps ∧ ∃ imm : BitVec 17, imm.toNat = n ∧ ∀ s, exec i s = matrixIssue op y k r.1 r.2.1 r.2.2 imm s := by
  unfold matrixForm at h
  split at h
  case h_6 => exact nomatch h
  all_goals
    obtain ⟨rfl, rfl, rfl, rfl, rfl⟩ := h
    refine ⟨by decide, ?_⟩
  case h_1 | h_2 => exact ⟨_, rfl, fun _ => rfl⟩
  case h_3 | h_4 => exact ⟨_, toNat_computeImm .., fun _ => rfl⟩
  case h_5 nz z => exact ⟨(0 : BitVec 9) ++ BitVec.ofBool false ++ BitVec.ofBool false ++ nz ++ z, toNat_computeImm .., fun _ => rfl⟩

/-- Settles O30, by what a matrix command that passes its checks brings to its queue. -/
theorem matrixCommandsIssue : Obligations.MatrixCommandsIssue := by
  unfold Obligations.MatrixCommandsIssue
  intro s g i op y k r n u t a b c blocks bytes hc hpend hi hk hh hroom
  obtain ⟨hop, imm, rfl, hexec⟩ := matrixForm_issues hi
  simp only [hexec]
  have hblocks : ((matrixCmd t op y k r imm).blks u g).map Blk.named = blocks := blks_named hop u g
  have hempty : (matrixCmd t op y k r imm).blks u g = [] ↔ blocks = [] := by rw [← hblocks, List.map_eq_nil_iff]
  have hnamed (h : BlocksGood u g blocks) : BlocksGood u g (((matrixCmd t op y k r imm).blks u g).map Blk.named) := by rwa [hblocks]
  have ready : MatrixReady s u g k r := ⟨hc, rfl, hpend, hk, hroom⟩
  refine ⟨?poisoned, fun ha hb hd => ⟨?misaligned, ?busy, ?queued⟩⟩
  case poisoned =>
    intro hp
    refine matrixIssue_poisoned ready fun ⟨ha, hb, hd⟩ => ?_
    rw [ha, hb, hd] at hp
    exact absurd hp (by decide)
  case misaligned =>
    intro x hx
    obtain ⟨b, hfind, haddr⟩ := find_misaligned (hblocks ▸ hx)
    rw [← haddr]
    exact matrixIssue_misaligned ready ⟨ha, hb, hd⟩ hfind
  case busy =>
    intro hgood hview hbusy hne
    exact matrixIssue_busy ready ⟨ha, hb, hd⟩ rfl hop (hnamed hgood) hview (mt hempty.mp hne) (hbusy hne)
  case queued =>
    intro hgood hview hfree
    obtain ⟨hty, hrm, hftz, hleak, hadty⟩ := snapped_fields (matrixCmd t op y k r imm) u g
    refine ⟨(matrixCmd t op y k r imm).snapped u g, snapped_matrixCmd_fresh t op y k r imm u g, hty, hrm, hftz, hleak, hadty,
      fun h => snapped_mwld (c := matrixCmd t op y k r imm) h u g, fun h => snapped_activations (c := matrixCmd t op y k r imm) h u g,
      fun h => snapped_mepi (c := matrixCmd t op y k r imm) h u g, fun h he => snapped_epilogue (c := matrixCmd t op y k r imm) h he u g, ?_⟩
    exact matrixIssue_queued ready ⟨ha, hb, hd⟩ rfl hop (hnamed hgood) hview hempty hh hfree

end Sys2Proof.Machine
end

section
/-! PROOFS. Scalar loads (chapter 14, R363, R364) that hit the L1D (chapter 08, R191): what reaches the copy, and what a register holds of its
bytes. -/

namespace Sys2Proof.Machine
open Sys2Proof.Says

/-! ## Bytes of a line (R364) -/

theorem byteMask_eq_bytesAt (off n : Nat) : byteMask off n = bytesAt off n := by
  rw [byteMask, bytesAt, Nat.sub_one_mul, Nat.pow_add, Nat.mul_comm (2 ^ n)]

theorem lineSlice_lt (v : BitVec 512) (off n : Nat) : lineSlice v off n < 2 ^ (8 * n) := Nat.mod_lt _ (Nat.two_pow_pos _)

/-- A number of `w` bits extends by its sign to what two's complement has it mean. -/
theorem signExtend_ofNat {w v : Nat} (h : v < 2 ^ w) (hw : 0 < w) :
    (BitVec.ofNat w v).signExtend 64 = if 2 ^ (w - 1) ≤ v then BitVec.ofInt 64 (v - 2 ^ w) else BitVec.ofNat 64 v := by
  have hp : 2 ^ w = 2 * 2 ^ (w - 1) := by rw [← Nat.pow_succ', Nat.succ_eq_add_one, Nat.sub_add_cancel hw]
  rw [BitVec.signExtend, BitVec.toInt_eq_toNat_cond, BitVec.toNat_ofNat, Nat.mod_eq_of_lt h]
  by_cases hv : 2 ^ (w - 1) ≤ v
  · rw [if_pos hv, if_neg (by omega), Nat.cast_pow, Nat.cast_ofNat]
  · rw [if_neg hv, if_pos (by omega), BitVec.ofInt_natCast]

/-- A register holds the bytes that a load takes from a line, extended as its form says. -/
theorem extLoad_lineSlice {n : Nat} (hn : 0 < n) (sgn : Bool) (v : BitVec 512) (off : Nat) :
    extLoad n sgn (lineSlice v off n) = loaded n sgn v off := by
  unfold loaded
  cases sgn with
  | false => rfl
  | true =>
    simp only [extLoad, if_true, true_and]
    exact signExtend_ofNat (lineSlice_lt v off n) (by omega)

/-! ## A load that hits the L1D (R191, R364) -/

theorem Tile.l1_tlbTouch (t : Tile) (ctx : BitVec 16) (va : W64) : (t.tlbTouch ctx va).l1 = t.l1 := by
  unfold Tile.tlbTouch
  split <;> rfl

theorem Tile.l1Get_tlbTouch (t : Tile) (ctx : BitVec 16) (va : W64) (line : Nat) : (t.tlbTouch ctx va).l1Get line = t.l1Get line := by
  rw [Tile.l1Get, Tile.l1_tlbTouch, Tile.l1Get]

/-- A copy serves a load of the bytes `m` under a POL: it holds them valid, and the POL does not have them taken at the home. -/
def L1Line.Serves (l : L1Line) (m : BitVec 64) (p coh : BitVec 2) : Prop := l.vmask &&& m = m ∧ p ≠ 2 ∧ (p = 1 → coh = 2)

/-- A load whose copy serves it takes its bytes and its poison from the copy (R191). -/
theorem loadAt_hit {s : State} {g : BitVec 8} {pa : Nat} {leaf : BitVec 128} {n : Nat} {p : BitVec 2} {l : L1Line}
    (hpeer : leafPeer leaf = false) (hl : (s.tile g).l1Get (pa / 64) = some l) (hs : l.Serves (byteMask (pa % 64) n) p (leafCoh leaf)) :
    s.loadAt g pa leaf n p = .ok (lineSlice l.data (pa % 64) n, l.pois, s.modTile g fun t => if p = 3 then t else t.l1Touch (pa / 64)) := by
  obtain ⟨hv, hp, hcoh⟩ := hs
  have hwt : (p == 1 && leafCoh leaf != 2) = false := by
    rw [Bool.and_eq_false_imp, beq_iff_eq]
    intro h1
    rw [hcoh h1]
    rfl
  have hline : lineNo leaf pa = pa / 64 := by rw [lineNo, hpeer]; exact if_neg Bool.false_ne_true
  simp only [State.loadAt, hline, hpeer, hp, hl, hv, hwt, Bool.not_false, Bool.and_true, decide_true, Bool.false_eq_true, if_false,
    if_true]

/-- An address of a load whose base is clean, and that is aligned, goes to translation. -/
theorem eaOf_clean {s : State} {g : BitVec 8} {b : R5} {o : BitVec 11} {n : Nat} {ea : W64} (h : Address (s.tile g) b o n ea) :
    s.eaOf g b o = .ok ea ∧ alignTo s ea n = .ok () := by
  obtain ⟨hclean, rfl, halign⟩ := h
  rw [← rdA_eq_scalar] at hclean halign ⊢
  simp only [State.eaOf, hclean, alignTo, halign, Bool.false_eq_true, if_false, if_true, and_self]

theorem xlA_reaches {s : State} {g : BitVec 8} {va : W64} {a : Acc} {pa : Nat} {leaf : BitVec 128} (h : Reaches s g va a pa leaf) :
    s.xlA g va a = .ok (pa, leaf) := by
  unfold Reaches at h
  simp only [State.xlA, h]

/-- A scalar load that passes translation and hits the L1D. -/
theorem scalarLoad_hit {n : Nat} {sgn : Bool} {s : State} {g : BitVec 8} {d b : R5} {p : BitVec 2} {o : BitVec 11} {ea : W64} {pa : Nat}
    {leaf : BitVec 128} {l : L1Line} (hn : 0 < n) (hcur : s.cur = .stream g .a) (hea : Address (s.tile g) b o n ea)
    (hx : Reaches s g ea .read pa leaf) (hpeer : leafPeer leaf = false) (hl : (s.tile g).l1Get (pa / 64) = some l)
    (hs : l.Serves (bytesAt (pa % 64) n) p (leafCoh leaf)) :
    scalarLoad n sgn d b p o s = .next (finished (s.modTile g fun t =>
      let t := served ea t
      wrote .a 1 d (loaded n sgn l.data (pa % 64)) l.pois (if p = 3 then t else t.l1Touch (pa / 64))) g .a 1) := by
  obtain ⟨heaOf, halign⟩ := eaOf_clean hea
  have hget : ((s.touchTlb g ea).tile g).l1Get (pa / 64) = some l := by
    rw [State.touchTlb, State.tile_modTile, Tile.l1Get_tlbTouch, hl]
  have hload := loadAt_hit hpeer hget (byteMask_eq_bytesAt _ _ ▸ hs)
  rw [scalarLoad, issue_a hcur]
  simp only [heaOf, halign, xlA_reaches hx, hload, Bind.bind, Except.bind, Except.map]
  rw [settle_done, wrS_a, State.modTile_modTile, State.touchTlb, State.modTile_modTile, extLoad_lineSlice hn]
  rfl

/-- Each load of R363 is the scalar load of its bytes and its extension. -/
theorem exec_loads {e : (R5 → R5 → BitVec 2 → BitVec 11 → Instr) × Nat × Bool} (he : e ∈ loads) :
    0 < e.2.1 ∧ ∀ d b p o s, exec (e.1 d b p o) s = scalarLoad e.2.1 e.2.2 d b p o s := by
  simp only [loads, List.mem_cons, List.not_mem_nil, or_false] at he
  rcases he with rfl | rfl | rfl | rfl | rfl | rfl | rfl <;> exact ⟨by decide, fun _ _ _ _ _ => rfl⟩

/-- Settles O16: every load of R363 is one scalar load, and one that hits takes its bytes from the copy. -/
theorem loadsThatHitTheL1D : Obligations.LoadsThatHitTheL1D := by
  unfold Obligations.LoadsThatHitTheL1D
  intro e he s g d b p o ea pa leaf l hcur hea hx hpeer hp hcoh hl hv
  obtain ⟨hn, hexec⟩ := exec_loads he
  rw [hexec]
  exact scalarLoad_hit hn hcur hea hx hpeer hl ⟨hv, hp, hcoh⟩

end Sys2Proof.Machine
end

section
/-! PROOFS. Translation, the homes and the engines at work: shootdowns, walks and thaws (chapter 08, R197 to R206), claims and CLOSE markers
(chapter 10, R256, R487), commands and tokens (chapter 07, R166), collective messages (chapter 17, R443 to R445), the rake (chapter 09, R229). -/

namespace Sys2Proof.Machine
open Sys2Proof.Says

/-! ## Shootdowns (R204 to R206) -/

/-- SD_CMD asks for a shootdown of a scope, and none of its own is in progress (R204). -/
def State.SdAsked (s : State) (k : BitVec 2) : Prop := s.sdGo = true ∧ s.sdScope = k ∧ ∀ x ∈ s.sds, x.host = false

theorem sdStart_asked {s : State} {k : BitVec 2} (h : s.SdAsked k) : s.sdStart k = s.startShootdown k s.sdCtx s.sdAddr true none := by
  obtain ⟨hgo, hscope, hhost⟩ := h
  have hfree : s.sds.any (·.host) = false := List.any_eq_false.mpr fun x hx => Bool.not_eq_true _ ▸ hhost x hx
  simp only [State.sdStart, hgo, hscope, hfree, Bool.not_true, bne_self_eq_false, Bool.or_self, Bool.false_eq_true, if_false]

/-- A shootdown that one party has acknowledged. -/
def Shootdown.acked (k : Shootdown) (p : SdParty) : Shootdown := { k with wait := k.wait.filter (· != p) }

section
variable {s u : State} {k : Shootdown} {p : SdParty} (hs : s.sds = [k]) (hp : p ∈ k.wait)
include hs hp

theorem sdAckGo_one : sdAckGo p s.sds = some (k.acked p, if (k.acked p).wait.isEmpty then [] else [k.acked p]) := by
  rw [hs, sdAckGo, if_pos (List.contains_iff_mem.mpr hp)]
  rfl

/-- A party that cannot act yet does not acknowledge (R205). -/
theorem shootdownAck_held (h : s.sdAct (k.acked p) p = none) : exec (.shootdownAck p) s = .next s := by
  show execShootdownAck p s = _
  simp only [execShootdownAck, event, sdAckGo_one hs hp, h]

/-- The acknowledgement of the last party ends the shootdown (R204). -/
theorem shootdownAck_last (h : s.sdAct (k.acked p) p = some u) (hw : (k.acked p).wait = []) :
    exec (.shootdownAck p) s = .next (State.sdEnds { u with sds := [] } k) := by
  show execShootdownAck p s = _
  simp only [execShootdownAck, event, sdAckGo_one hs hp, h, hw, List.isEmpty_nil, if_true]
  rfl

theorem shootdownAck_others (h : s.sdAct (k.acked p) p = some u) (hw : (k.acked p).wait ≠ []) :
    exec (.shootdownAck p) s = .next { u with sds := [k.acked p] } := by
  have he : (k.acked p).wait.isEmpty = false := Bool.not_eq_true _ ▸ mt List.isEmpty_iff.mp hw
  show execShootdownAck p s = _
  simp only [execShootdownAck, event, sdAckGo_one hs hp, h, he, Bool.false_eq_true, if_false]

/-- Of the tiles an acknowledgement changes what its party's act changes. -/
theorem shootdownAck_tiles (h : s.sdAct (k.acked p) p = some u) : ∃ v, exec (.shootdownAck p) s = .next v ∧ v.tiles = u.tiles := by
  by_cases hw : (k.acked p).wait = []
  · refine ⟨_, shootdownAck_last hs hp h hw, ?_⟩
    rw [State.sdEnds, apply_ite State.tiles, ite_self]
  · exact ⟨_, shootdownAck_others hs hp h hw, rfl⟩

end

/-- The copy unit acknowledges at once unless a confidential copy uses a translation that the shootdown covers (R107). -/
theorem sdAct_copyUnit_free {s : State} {k : Shootdown} (h : s.confHolds k = false) : s.sdAct k .copyUnit = some s :=
  if_neg (Bool.eq_false_iff.mp h)
theorem sdAct_copyUnit_held {s : State} {k : Shootdown} (h : s.confHolds k = true) : s.sdAct k .copyUnit = none := if_pos h

/-- The rim of a tile whose L1D is empty acts at once: the stores of its die arrive, and the tile's translation cache loses what is covered. -/
theorem sdAct_rim {s : State} {g : BitVec 8} (h : (s.tile g).l1 = []) (k : Shootdown) :
    s.sdAct k (.rim g) = some ((s.drainDie (dieOf g)).modTile g fun t => t.uncache k) := by
  simp only [State.sdAct, Tile.covered, h, List.filter_nil, List.any_nil, List.foldl_nil, Bool.false_eq_true, if_false]

theorem mem_tlb_uncache {t : Tile} {k : Shootdown} {x : TlbEntry} :
    x ∈ (t.uncache k).tlb ↔ x ∈ t.tlb ∧ k.covers x.ctx x.va x.log2 = false := by
  simp only [Tile.uncache, List.mem_filter, TlbEntry.under, Bool.not_eq_true']

theorem shootdownAck_rim {s : State} {k : Shootdown} {g : BitVec 8} (hs : s.sds = [k]) (hp : .rim g ∈ k.wait) (hl : (s.tile g).l1 = []) :
    ∃ u, exec (.shootdownAck (.rim g)) s = .next u ∧ (∀ x ∈ (u.tile g).tlb, k.covers x.ctx x.va x.log2 = false) ∧
      (∀ x ∈ (s.tile g).tlb, k.covers x.ctx x.va x.log2 = false → x ∈ (u.tile g).tlb) := by
  obtain ⟨u, hu, htiles⟩ := shootdownAck_tiles hs hp (sdAct_rim hl _)
  obtain ⟨_, hdrain, -⟩ := (drainDie_homeSide s (dieOf g)).tile g
  have htile : u.tile g = ((s.drainDie (dieOf g)).tile g).uncache k :=
    (congrArg (fun x => Tab.get Tile.reset x g.toNat) htiles).trans (State.tile_modTile ..)
  have htlb : ((s.drainDie (dieOf g)).tile g).tlb = (s.tile g).tlb := by rw [hdrain]
  have hmem (x : TlbEntry) : x ∈ (u.tile g).tlb ↔ x ∈ (s.tile g).tlb ∧ k.covers x.ctx x.va x.log2 = false := by
    rw [htile, mem_tlb_uncache, htlb]
  exact ⟨u, hu, fun x hx => ((hmem x).mp hx).2, fun x hx hk => (hmem x).mpr ⟨hx, hk⟩⟩

/-! ## Walks and thaws (R198 to R202) -/

section
variable {s u : State} {g : BitVec 8} {w : Walk} {m : Met}

/-- The return of the one walk that a running tile has asked for. -/
theorem translationWalkComplete_one (hup : s.railsOff = false) (hcap : (s.tile g).capturing = none) (hstop : (s.tile g).stop = none)
    (hw : (s.tile g).walks = [w]) : exec (.translationWalkComplete g) s = .next (s.walksReturn g w.waiter) := by
  show execTranslationWalkComplete g s = _
  simp only [execTranslationWalkComplete, powered_on _ hup, hcap, hstop, hw, Option.isSome_none, Option.isNone_none,
    Bool.false_eq_true, if_false, if_true]

section
variable (hw : (s.tile g).walks = [w]) (hd : s.doWalk g w = (m, u))
include hw hd

theorem doWalks_one : State.doWalks g ((s.tile g).walks.filter fun x => x.waiter == w.waiter) s = ([(w, m)], u) := by
  have hmine : [w].filter (fun x => x.waiter == w.waiter) = [w] := List.filter_cons_of_pos (beq_self_eq_true _)
  rw [hw, hmine, State.doWalks, hd]
  rfl

/-- A walk that passes, or whose leaf lacks the permission, only leaves the tile's list: the access is presented again (R198). -/
theorem walksReturn_again (hm : m = .ok ∨ ∃ c, m = .hit c) :
    s.walksReturn g w.waiter = u.modTile g fun t => { t with walks := t.walks.filter fun x => x.waiter != w.waiter } := by
  rw [State.walksReturn, doWalks_one hw hd]
  rcases hm with rfl | ⟨c, rfl⟩ <;> rfl

theorem walksReturn_bad {c : Cause} (hm : m = .bad c) : s.walksReturn g w.waiter =
    (u.modTile g fun t => { t with walks := t.walks.filter fun x => x.waiter != w.waiter }).walkCause g w c := by
  subst hm
  rw [State.walksReturn, doWalks_one hw hd]
  rfl

theorem walksReturn_absent (hm : m = .absent) : s.walksReturn g w.waiter =
    (u.modTile g fun t => { t with walks := t.walks.filter fun x => x.waiter != w.waiter }).freeze g [w] := by
  subst hm
  rw [State.walksReturn, doWalks_one hw hd]
  rfl

end

end

/-- The state in which the table entries that service wrote stand (R200). -/
def State.withEntries (s : State) (es : List (BitVec 48 × BitVec 128)) : State :=
  es.foldl (fun z e => z.putEntry (e.1.toNat / 16 * 16) e.2) s

section
variable {s : State} {g : BitVec 8} (hup : s.railsOff = false) (hstop : (s.tile g).stop = some .notPresent)
include hup hstop

/-- A frozen tile whose pages have been made present runs again. -/
theorem thaw_present (hcap : (s.tile g).capturing = none) (hm : ∀ w ∈ (s.tile g).faults, s.pageMoves w = false)
    (es : List (BitVec 48 × BitVec 128)) : exec (.thaw g es true) s =
      .next ((s.withEntries es).modTile g fun t => { t with stop := none, faults := [], reqCred := 32 }) := by
  have hstill : (s.tile g).faults.any s.pageMoves = false := List.any_eq_false.mpr fun w hw => Bool.not_eq_true _ ▸ hm w hw
  show execThaw g es true s = _
  simp only [execThaw, powered_on _ hup, hstop, hcap, hstill, bne_self_eq_false, Option.isSome_none, Bool.or_self,
    Bool.false_eq_true, if_false, if_true]
  rfl

/-- A page of a residency handle that moves is serviced when the move completes (R151). -/
theorem thaw_moving (hcap : (s.tile g).capturing = none) (hm : ∃ w ∈ (s.tile g).faults, s.pageMoves w = true)
    (es : List (BitVec 48 × BitVec 128)) (ok : Bool) : exec (.thaw g es ok) s = .next s := by
  have hmoves : (s.tile g).faults.any s.pageMoves = true := List.any_eq_true.mpr hm
  show execThaw g es ok s = _
  simp only [execThaw, powered_on _ hup, hstop, hcap, hmoves, bne_self_eq_false, Option.isSome_none, Bool.or_self,
    Bool.false_eq_true, if_false, if_true]

/-- Service goes on for a tile that is being captured: the entries are written, and the tile stays frozen (R201). -/
theorem thaw_capturing (hcap : (s.tile g).capturing ≠ none) (es : List (BitVec 48 × BitVec 128)) (ok : Bool) :
    exec (.thaw g es ok) s = .next (s.withEntries es) := by
  have hc : (s.tile g).capturing.isSome = true := Option.isSome_iff_ne_none.mpr hcap
  have hserviced : s.serviced g = true := by rw [State.serviced, hc, hstop]; rfl
  show execThaw g es ok s = _
  simp only [execThaw, powered_on _ hup, hc, hserviced, Bool.or_true, if_true]
  rfl

end

/-! ## At the homes (R256, R487) -/

section
variable {s : State} {g : BitVec 8} {c : Claim} {r : List Claim} (hup : s.railsOff = false) (hc : (s.tile g).claims = c :: r)
include hup hc

theorem caStoreClaimAnswer_held (h : s.claimServed g c = false) : exec (.caStoreClaimAnswer g) s = .next s := by
  show execCaStoreClaimAnswer g s = _
  simp only [execCaStoreClaimAnswer, powered_on _ hup, hc, h, Bool.false_eq_true, if_false]

theorem caStoreClaimAnswer_answers (h : s.claimServed g c = true) :
    exec (.caStoreClaimAnswer g) s = .next ((s.answerClaim g c).modTile g fun t => { t with claims := r }) := by
  show execCaStoreClaimAnswer g s = _
  simp only [execCaStoreClaimAnswer, powered_on _ hup, hc, h, if_true]

end

@[simp] theorem State.chan_setChan (s : State) (d : BitVec 2) (h : BitVec 3) (l : List ChanEnt) : (s.setChan d h l).chan d h = l := by
  rw [State.setChan, State.chan, State.die_setDie]
  exact vget_vset_self _ _ _ _ h.isLt

/-- A CLOSE marker that is the oldest of its channel closes its epoch at the home (R256). -/
theorem closeApplied_closes {s : State} {d : BitVec 2} {h : BitVec 3} {v : W64} {r : List ChanEnt} (hc : s.chan d h = .close v :: r) :
    ∃ u, exec (.closeApplied d h) s = .next u ∧ vget (u.home h).closed 0 d = v ∧ u.chan d h = r ∧ u.mem = s.mem := by
  refine ⟨(s.setChan d h r).applyEnt d h (.close v), ?_, ?_, State.chan_setChan .., rfl⟩
  · show execCloseApplied d h s = _
    simp only [execCloseApplied, event, hc]
  · simp only [State.applyEnt, State.home_setHome]
    exact vget_vset_self _ _ _ _ d.isLt

/-! ## Engine commands and tokens (R166, R430, R431) -/

theorem engineCommandAccept_accepts {s : State} {g : BitVec 8} {e : Eng} (hup : s.railsOff = false) (he : e ≠ .coll) :
    exec (.engineCommandAccept g e) s = .next (s.acceptCmd g e) := by
  show execEngineCommandAccept g e s = _
  simp only [execEngineCommandAccept, powered_on _ hup, he, decide_false, Bool.false_and, Bool.false_eq_true, if_false]

section
variable {s u : State} {g : BitVec 8} {e : Eng} {seq : BitVec 32} {c : Cmd}
  (hup : s.railsOff = false) (hc : s.cmdOf g e seq = some c) (hr : s.engineRuns g e = true)
include hup hc hr

/-- TOKEN_COMPLETE of a command in progress ends as the command's work does (R430). -/
theorem tokenComplete_works {w : BRes (State × Bool)} (hw : s.workCmd g e c = w) :
    exec (.tokenComplete g (some e) seq) s = .next (State.endWork g e c true w) := by
  show execTokenComplete g (some e) seq s = _
  simp only [execTokenComplete, powered_on _ hup, State.runCmd, hc, hr, hw, if_true]

theorem tokenComplete_done (hw : s.workCmd g e c = .ok (u, true)) (hop : ((u.cmdOf g e c.seq).getD c).op ≠ .copy) :
    exec (.tokenComplete g (some e) seq) s = .next (u.finishCmd g e ((u.cmdOf g e c.seq).getD c)) := by
  rw [tokenComplete_works hup hc hr hw]
  simp only [State.endWork, hop, if_true, if_false]

end

/-- A fence's token completes: for a drain when the commands that it waits for have, for an XFNC of LEVEL 1 or 2 when its window has closed. -/
theorem tokenComplete_loose {s : State} {g : BitVec 8} {c : Cmd} (hup : s.railsOff = false) (hl : (s.tile g).loose = [c])
    (hprog : c.prog ≠ 0) (hstop : (s.tile g).stop = none) (hcap : (s.tile g).capturing = none)
    (h : c.op = .drain ∧ c.waits = [] ∨ c.op ≠ .drain ∧ c.imm ≠ 3 ∧ c.a.toNat ≤ (s.tile g).xcyc) :
    exec (.tokenComplete g none 0) s = .next (s.modTile g fun t => Tile.tkDone { t with loose := t.loose.eraseIdx 0 } c.tp) := by
  have hfirst : (s.tile g).loose[0]? = some c := by rw [hl]; rfl
  have hrun : exec (.tokenComplete g none 0) s = .next (s.runLoose g 0) := powered_on (fun s => s.runLoose g 0) hup
  rw [hrun]
  rcases h with ⟨hop, hwaits⟩ | ⟨hop, himm, hclosed⟩
  · simp only [State.runLoose, hfirst, hprog, hstop, hcap, hop, hwaits, List.any_nil, Option.isSome_none, decide_false, Bool.or_self,
      Bool.false_eq_true, if_false, if_true]
  · have himm' : (c.imm != 3) = true := bne_iff_ne.mpr himm
    simp only [State.runLoose, hfirst, hprog, hstop, hcap, hop, himm', hclosed, Option.isSome_none, decide_false, decide_true, Bool.or_self,
      Bool.true_or, Bool.false_eq_true, if_false, if_true]

section
variable {s : State} {g : BitVec 8} {r : List Arrival} (hup : s.railsOff = false) (hstop : (s.tile g).stop = none)
  (hcap : (s.tile g).capturing = none)
include hup hstop hcap

theorem loggedArrivalDelivery_token {k : R5} (h : (s.tile g).alog = .token k :: r) :
    exec (.loggedArrivalDelivery g) s = .next (s.setTile g (Tile.tkComplete { s.tile g with alog := r } k)) := by
  show execLoggedArrivalDelivery g s = _
  simp only [execLoggedArrivalDelivery, powered_on _ hup, hstop, hcap, h, Option.isSome_none, Bool.or_self, Bool.false_eq_true, if_false]

theorem loggedArrivalDelivery_flag {f : F3} {v : Bool} (h : (s.tile g).alog = .flag f v :: r) :
    exec (.loggedArrivalDelivery g) s = .next (s.setTile g (Tile.wrF { s.tile g with alog := r } f v)) := by
  show execLoggedArrivalDelivery g s = _
  simp only [execLoggedArrivalDelivery, powered_on _ hup, hstop, hcap, h, Option.isSome_none, Bool.or_self, Bool.false_eq_true, if_false]

end

/-! ## Collective messages (R443 to R445) -/

/-- A tile each of whose collective commands in progress has changed. -/
def Tile.mapColl (t : Tile) (f : Cmd → Cmd) : Tile := { t with ecoll := { t.ecoll with running := t.ecoll.running.map f } }

theorem mapColl_tile (s : State) (f : Cmd → Cmd) (g : BitVec 8) : (s.mapColl fun _ => f).tile g = (s.tile g).mapColl f := by
  have hget : Tab.get? (s.mapColl fun _ => f).tiles g.toNat = (Tab.get? s.tiles g.toNat).map fun t => t.mapColl f :=
    Tab.get?_map (fun t : Tile => t.mapColl f) s.tiles g.toNat
  rw [State.tile, Tab.get, hget, State.tile, Tab.get]
  cases Tab.get? s.tiles g.toNat with
  | none => rfl
  | some t => rfl

/-- A block's bytes come from another package clean (R444). -/
theorem any_poisoned_clean (l : List Byte) : (clean l).any (·.2) = false := by simp [clean]
theorem map_fst_clean (l : List Byte) : (clean l).map (·.1) = l := List.map_map.trans (List.map_id _)
theorem length_clean (l : List Byte) : (clean l).length = l.length := List.length_map ..

/-- A block that a command takes joins its blocks when the header and the length are right, and is a MISMATCH else (R443, R445). -/
theorem collectiveData_taken {s : State} {g : BitVec 8} {src : BitVec 12} {group seq tag : BitVec 16} {data : List Byte} {c : Cmd} {r : Nat}
    {ok : Bool} (hc : (s.tile g).ecoll.running = [c]) (ht : c.takes src group seq tag = some r) :
    ∃ u, exec (.collectiveData src group seq tag ok data) s = .next u ∧ (u.tile g).ecoll.running =
      [if ok = true ∧ data.length = collBlock c.blk0 then { c with blocks := c.blocks ++ [(r, data)] } else { c with mismatch := true }] := by
  refine ⟨s.collData src group seq tag ok (clean data), rfl, ?_⟩
  rw [State.collData, mapColl_tile]
  simp only [Tile.mapColl, hc, List.map_cons, List.map_nil, ht, any_poisoned_clean, map_fst_clean, length_clean, Bool.and_eq_true, beq_iff_eq,
    Bool.false_eq_true, if_false, List.append_nil]

section
variable {s : State} {g : BitVec 8} {seq : BitVec 32} {c : Cmd} (hup : s.railsOff = false) (hc : s.cmdOf g .coll seq = some c)
  (hprog : c.prog = 1)
include hup hc hprog

theorem collectiveTimeout_early (h : s.cy < c.since + 13000000) : exec (.collectiveTimeout g seq) s = .next s := by
  show execCollectiveTimeout g seq s = _
  simp only [execCollectiveTimeout, powered_on _ hup, hc, hprog, Nat.not_le.mpr h, decide_true, decide_false, Bool.and_false,
    Bool.false_eq_true, if_false]

theorem collectiveTimeout_late (h : c.since + 13000000 ≤ s.cy) :
    exec (.collectiveTimeout g seq) s = .next (s.putCmd g .coll { c with prog := 18 }) := by
  show execCollectiveTimeout g seq s = _
  simp only [execCollectiveTimeout, powered_on _ hup, hc, hprog, h, decide_true, Bool.and_self, if_true]
  rfl

end

/-! ## The rake (R229) -/

/-- A die's rake without one search. -/
def State.rakeDrop (s : State) (d : BitVec 2) (r : RakeReq) : State :=
  s.setDie d { s.die d with rake := (s.die d).rake.filter (· != r) }

section
variable {s u : State} {d : BitVec 2} {r : RakeReq} {rest : List RakeReq} {c : Cmd} (hc : s.cmdOf r.tile .salt r.seq = some c)
include hc

theorem rakeTurn_over (h : s.rakeRun r.tile c = .ok u) : State.rakeTurn d (r :: rest) s = u.rakeDrop d r := by
  simp only [State.rakeTurn, hc, h]
  rfl

/-- A search that waits holds back no other (log 37). -/
theorem rakeTurn_waits (h : s.rakeRun r.tile c = .error (.wait u)) : State.rakeTurn d (r :: rest) s = State.rakeTurn d rest u := by
  simp only [State.rakeTurn, hc, h]

end

/-- The searches that run: those at the head of the rake, as many as those that are away leave room for. -/
theorem rakeSearch_turns (d : BitVec 2) (s : State) :
    exec (.rakeSearch d) s = .next (State.rakeTurn d ((s.die d).rake.take (16 - s.rakeAway d)) s) := rfl

theorem rakeSearch_head {s : State} {d : BitVec 2} {r : RakeReq} {rest : List RakeReq} (hr : (s.die d).rake = r :: rest)
    (h : s.rakeAway d < 16) : exec (.rakeSearch d) s = .next (State.rakeTurn d (r :: rest.take (15 - s.rakeAway d)) s) := by
  have hn : 16 - s.rakeAway d = (15 - s.rakeAway d) + 1 := by omega
  rw [rakeSearch_turns, hr, hn, List.take_succ_cons]

/-- The first search waits, and the next is over. -/
theorem rakeSearch_second {s u v : State} {d : BitVec 2} {r q : RakeReq} {rest : List RakeReq} {c x : Cmd}
    (hr : (s.die d).rake = r :: q :: rest) (h : s.rakeAway d < 15) (hc : s.cmdOf r.tile .salt r.seq = some c)
    (hw : s.rakeRun r.tile c = .error (.wait u)) (hx : u.cmdOf q.tile .salt q.seq = some x) (ho : u.rakeRun q.tile x = .ok v) :
    exec (.rakeSearch d) s = .next (v.rakeDrop d q) := by
  have hn : 15 - s.rakeAway d = (14 - s.rakeAway d) + 1 := by omega
  rw [rakeSearch_head hr (by omega), rakeTurn_waits hc hw, hn, List.take_succ_cons, rakeTurn_over hx ho]

/-! ## The statement -/

/-- Settles O53, event by event. Beside the rules the clauses rest on choices of the assumption log: a walk's return is an event (14), what
service writes is the operand of THAW (15), a command's work is done in one event (18), the rake's order (37), and cycles are counted in
steps (9). -/
theorem translationAndEngineEvents : Obligations.TranslationAndEngineEvents := by
  unfold Obligations.TranslationAndEngineEvents
  intro s g d h e seq src group sq tag data
  dsimp only
  refine ⟨fun hk => congrArg _ (sdStart_asked hk), fun hk => congrArg _ (sdStart_asked hk), fun hk => congrArg _ (sdStart_asked hk),
    ?lastAck, ?otherAck, ?heldAck, ?rimAck, ?walk, fun es hup hs hc hm => thaw_present hup hs hc hm es,
    fun es ok hup hs hc hm => thaw_moving hup hs hc hm es ok, fun es ok hup hs hc => thaw_capturing hup hs hc es ok,
    fun c r => caStoreClaimAnswer_held, fun c r => caStoreClaimAnswer_answers, fun v r => closeApplied_closes, engineCommandAccept_accepts,
    fun c u => tokenComplete_done, fun c u r hup hc hr => tokenComplete_works hup hc hr, fun c u n hup hc hr => tokenComplete_works hup hc hr,
    fun c hup hl hp hs hc => tokenComplete_loose hup hl hp hs hc, fun k r hup hs hc => loggedArrivalDelivery_token hup hs hc,
    fun f v r hup hs hc => loggedArrivalDelivery_flag hup hs hc, rfl, fun c r ok => collectiveData_taken,
    fun c => collectiveTimeout_early, fun c => collectiveTimeout_late, ?rakeEmpty, ?rakeOver, ?rakeWaits, ?rakeSecond⟩
  case lastAck =>
    intro k hs hw hf
    have hacked : k.acked .copyUnit = { k with wait := [] } := by rw [Shootdown.acked, hw]; rfl
    have hact : s.sdAct (k.acked .copyUnit) .copyUnit = some s := hacked ▸ sdAct_copyUnit_free hf
    rw [shootdownAck_last hs (hw ▸ List.mem_cons_self) hact (congrArg Shootdown.wait hacked)]
    rfl
  case otherAck =>
    intro k hs hw hf
    have hacked : k.acked .copyUnit = { k with wait := [.residencyUnit] } := by rw [Shootdown.acked, hw]; rfl
    have hact : s.sdAct (k.acked .copyUnit) .copyUnit = some s := hacked ▸ sdAct_copyUnit_free hf
    rw [shootdownAck_others hs (hw ▸ List.mem_cons_self) hact (hacked ▸ List.cons_ne_nil _ _), hacked]
  case heldAck =>
    intro k hs hw hf
    have hacked : k.acked .copyUnit = { k with wait := [] } := by rw [Shootdown.acked, hw]; rfl
    exact shootdownAck_held hs (hw ▸ List.mem_cons_self) (hacked ▸ sdAct_copyUnit_held hf)
  case rimAck =>
    intro k r hs hw _ hl
    exact shootdownAck_rim hs (hw ▸ List.mem_cons_self) hl
  case walk =>
    intro w u m hup hcap hstop hw hd
    rw [translationWalkComplete_one hup hcap hstop hw]
    exact ⟨fun hm => congrArg _ (walksReturn_again hw hd hm), fun c hm => congrArg _ (walksReturn_bad hw hd hm),
      fun hm => congrArg _ (walksReturn_absent hw hd hm)⟩
  case rakeEmpty =>
    intro hr
    rw [rakeSearch_turns, hr, List.take_nil]
    rfl
  case rakeOver =>
    intro r rest c u hr ha hc ho
    rw [rakeSearch_head hr ha, rakeTurn_over hc ho]
    rfl
  case rakeWaits =>
    intro r c u hr ha hc hw
    rw [rakeSearch_head hr ha, rakeTurn_waits hc hw, List.take_nil]
    rfl
  case rakeSecond =>
    intro r q rest c x u v hr ha hc hw hx ho
    exact rakeSearch_second hr ha hc hw hx ho

end Sys2Proof.Machine
end

section
/-! PROOFS. What a rollback and the Saltern's operations never do: no context is added or removed (R295 alone ends one), whatever nodes are freed,
references dropped, lines written at their homes and images placed. -/

namespace Sys2Proof.Machine

/-! ## The contexts that there are -/

/-- Whether there is a context of a number. -/
def State.hasCtx (s : State) (c : BitVec 16) : Bool := (s.ctx? c).isSome

theorem foldl_hasCtx {β : Type} {f : State → β → State} (h : ∀ s x, (f s x).hasCtx = s.hasCtx) (l : List β) (s : State) :
    (l.foldl f s).hasCtx = s.hasCtx :=
  List.foldlRecOn (motive := fun t => t.hasCtx = s.hasCtx) l f rfl fun t ht x _ => (h t x).trans ht

/-- A new record of a context that there is. -/
theorem hasCtx_set {s : State} {c : BitVec 16} {x : Ctx} (h : s.ctx? c = some x) (y : Ctx) :
    State.hasCtx { s with ctxs := Tab.set s.ctxs c.toNat y } = s.hasCtx := by
  funext d
  by_cases hd : d.toNat = c.toNat
  · rw [BitVec.eq_of_toNat_eq hd, State.hasCtx, State.hasCtx, h, State.ctx?, Tab.get?_set_self]
    rfl
  · exact congrArg Option.isSome (Tab.get?_set_of_ne s.ctxs y hd)

@[simp] theorem modCtx_hasCtx (s : State) (c : BitVec 16) (f : Ctx → Ctx) : (s.modCtx c f).hasCtx = s.hasCtx := by
  unfold State.modCtx
  split
  · next h => exact hasCtx_set h _
  · rfl

/-- New values at the keys of a table. -/
theorem isSome_get?_map {α β : Type} (f : Nat × α → β) (t : Tab α) (n : Nat) :
    (Tab.get? (t.map fun e => (e.1, f e)) n).isSome = (Tab.get? t n).isSome := by
  induction t with
  | nil => rfl
  | cons e r ih =>
    simp only [List.map_cons, Tab.get?, apply_ite Option.isSome, ih]
    rfl

theorem hasCtx_map (s : State) (f : Nat × Ctx → Ctx) : State.hasCtx { s with ctxs := s.ctxs.map fun e => (e.1, f e) } = s.hasCtx :=
  funext fun d => isSome_get?_map f s.ctxs d.toNat

/-! ## Device memory (R108, R320) -/

@[simp] theorem noteUndo_hasCtx (s : State) (c : BitVec 16) (l : Nat) : (s.noteUndo c l).hasCtx = s.hasCtx := by
  unfold State.noteUndo
  split
  · rfl
  · next h => exact hasCtx_set h _

@[simp] theorem wrLine_hasCtx (s : State) (c : BitVec 16) (key : BitVec 12) (l : Nat) (m : BitVec 64) (v : BitVec 512) (p : Bool) :
    (s.wrLine c key l m v p).hasCtx = s.hasCtx := by
  unfold State.wrLine
  split
  · rfl
  · exact noteUndo_hasCtx s c l

@[simp] theorem wrDev_hasCtx (s : State) (c : BitVec 16) (key : BitVec 12) (pa : Nat) (bs : List Byte) (p : Bool) :
    (s.wrDev c key pa bs p).hasCtx = s.hasCtx := foldl_hasCtx (fun _ _ => wrLine_hasCtx ..) _ s

/-! ## Writes at the homes (R192, R249, R250) -/

@[simp] theorem unhold_hasCtx (s : State) (line u : Nat) : (s.unhold line u).hasCtx = s.hasCtx := by
  unfold State.unhold
  dsimp only
  split <;> rfl

@[simp] theorem setHolders_hasCtx (s : State) (line : Nat) (r : HomeLine) : (s.setHolders line r).hasCtx = s.hasCtx := rfl

@[simp] theorem landWrite_hasCtx (s : State) (c : BitVec 16) (key : BitVec 12) (line : Nat) (m : BitVec 64) (v : BitVec 512) (p : Bool)
    (vc : Vector W64 4) : (s.landWrite c key line m v p vc).hasCtx = s.hasCtx := wrLine_hasCtx ..

@[simp] theorem modHolder_hasCtx (s : State) (u : Nat) (f : Tile → Tile) : (s.modHolder u f).hasCtx = s.hasCtx := by
  unfold State.modHolder
  split
  · rfl
  · split <;> rfl

@[simp] theorem invalidate_hasCtx (s : State) (line u : Nat) (m : BitVec 64) : (s.invalidate line u m).hasCtx = s.hasCtx := by
  unfold State.invalidate
  split
  · exact unhold_hasCtx ..
  · rw [apply_ite State.hasCtx, unhold_hasCtx, modHolder_hasCtx, ite_self]

@[simp] theorem clearValid_hasCtx (s : State) (line : Nat) (g : Option (BitVec 8)) (m : BitVec 64) : (s.clearValid line g m).hasCtx = s.hasCtx :=
  foldl_hasCtx (fun t h => by rw [apply_ite State.hasCtx, invalidate_hasCtx, ite_self]) _ s

@[simp] theorem pullOwn_hasCtx (s : State) (line u : Nat) : (s.pullOwn line u).hasCtx = s.hasCtx := by
  unfold State.pullOwn
  dsimp only
  split
  · rfl
  · refine (foldl_hasCtx (fun t w => ?_) _ _).trans rfl
    split <;> simp only [unhold_hasCtx, clearValid_hasCtx, HomeWrite.land, landWrite_hasCtx]

@[simp] theorem recallOne_hasCtx (s : State) (line u : Nat) : (s.recallOne line u).hasCtx = s.hasCtx := by
  unfold State.recallOne
  split
  · exact unhold_hasCtx ..
  · dsimp only
    split_ifs <;> simp only [unhold_hasCtx, setHolders_hasCtx, modHolder_hasCtx, State.mergeBack, landWrite_hasCtx]

@[simp] theorem recall_hasCtx (s : State) (line : Nat) (g : Option (BitVec 8)) (m : BitVec 64) : (s.recall line g m).hasCtx = s.hasCtx :=
  foldl_hasCtx (fun t h => by rw [apply_ite State.hasCtx, recallOne_hasCtx, pullOwn_hasCtx, ite_self]) _ s

@[simp] theorem writeHome_hasCtx (s : State) (c : BitVec 16) (leaf : BitVec 128) (pa : Nat) (bs : List Byte) (p : Bool) :
    (s.writeHome c leaf pa bs p).hasCtx = s.hasCtx := by
  rw [State.writeHome, wrDev_hasCtx]
  split
  · exact foldl_hasCtx (fun t l => by rw [clearValid_hasCtx, recall_hasCtx]) _ s
  · rfl

@[simp] theorem devWrite_hasCtx (s : State) (c : BitVec 16) (va : W64) (bs : List PByte) : (s.devWrite c va bs).hasCtx = s.hasCtx :=
  foldl_hasCtx (fun t p => by
    dsimp only
    split
    · exact writeHome_hasCtx ..
    · rfl) _ s

@[simp] theorem countUsers_hasCtx (s : State) (hs : List (BitVec 14)) (up : Bool) : (s.countUsers hs up).hasCtx = s.hasCtx :=
  foldl_hasCtx (fun t h => by
    unfold State.modRes
    split
    · rfl
    · exact devWrite_hasCtx ..) hs s

/-! ## Nodes and the index (R217, R228) -/

@[simp] theorem setNode_hasCtx (s : State) (h : BitVec 32) (n : Node) : (s.setNode h n).hasCtx = s.hasCtx := by
  simp only [State.setNode, apply_ite State.hasCtx, wrDev_hasCtx, ite_self]
  rfl

@[simp] theorem putIndex_hasCtx (s : State) (place : Nat) (b : BitVec 256) : (s.putIndex place b).hasCtx = s.hasCtx :=
  foldl_hasCtx (fun _ _ => wrDev_hasCtx ..) _ s

@[simp] theorem indexDel_hasCtx (s : State) (h : BitVec 32) : (s.indexDel h).hasCtx = s.hasCtx :=
  foldl_hasCtx (fun _ _ => putIndex_hasCtx ..) _ { s with index := _ }

@[simp] theorem modPool_hasCtx (s : State) (j : BitVec 4) (f : Pool → Pool) : (s.modPool j f).hasCtx = s.hasCtx := rfl

@[simp] theorem freeGroups_hasCtx (s : State) (gs : List Group) : (s.freeGroups gs).hasCtx = s.hasCtx :=
  foldl_hasCtx (fun t g => by
    dsimp only
    split
    · rfl
    · rw [modPool_hasCtx]
      exact hasCtx_map t _) gs s

end Sys2Proof.Machine
end

section
/-! PROOFS. Nodes that are freed (chapter 09, R213, R219, R220): messages to a name's home and the counts of other nodes leave a FREE record as it
is and add nothing to the index, so a node whose removal ends is FREE, its GEN one higher, and in no entry. -/

namespace Sys2Proof.Machine

/-! ## Records, the index and the namespaces after an update -/

theorem State.StorageOnly.nodes {s t : State} (h : s.StorageOnly t) : t.nodes = s.nodes := by
  obtain ⟨_, _, _, _, rfl⟩ := h
  rfl

theorem State.StorageOnly.index {s t : State} (h : s.StorageOnly t) : t.index = s.index := by
  obtain ⟨_, _, _, _, rfl⟩ := h
  rfl

theorem State.StorageOnly.nss {s t : State} (h : s.StorageOnly t) : t.nss = s.nss := by
  obtain ⟨_, _, _, _, rfl⟩ := h
  rfl

theorem setNode_storage (s : State) (h : BitVec 32) (n : Node) :
    State.StorageOnly { s with nodes := Tab.set s.nodes (hKey h) n } (s.setNode h n) := by
  unfold State.setNode
  dsimp only
  split
  · exact wrDev_storage ..
  · exact (wrDev_storage ..).trans (wrDev_storage ..)

@[simp] theorem setNode_index (s : State) (h : BitVec 32) (n : Node) : (s.setNode h n).index = s.index := (setNode_storage s h n).index
@[simp] theorem setNode_nss (s : State) (h : BitVec 32) (n : Node) : (s.setNode h n).nss = s.nss := (setNode_storage s h n).nss

@[simp] theorem node_setNode_self (s : State) (h : BitVec 32) (n : Node) : (s.setNode h n).node h = n := by
  rw [State.node, (setNode_storage s h n).nodes]
  exact Tab.get_set_self ..

theorem node_setNode_of_ne (s : State) {h k : BitVec 32} (n : Node) (hk : hKey k ≠ hKey h) : (s.setNode h n).node k = s.node k := by
  rw [State.node, (setNode_storage s h n).nodes]
  exact Tab.get_set_of_ne _ _ _ hk

/-- Two handles of one record. -/
theorem node_congr (s : State) {h k : BitVec 32} (hk : hKey k = hKey h) : s.node k = s.node h := by
  rw [State.node, State.node, hk]

theorem putIndex_storage (s : State) (place : Nat) (b : BitVec 256) : s.StorageOnly (s.putIndex place b) :=
  List.foldlRecOn _ _ ⟨_, _, _, _, rfl⟩ fun _ ht _ _ => ht.trans (wrDev_storage ..)

theorem indexDel_storage (s : State) (h : BitVec 32) :
    State.StorageOnly { s with index := s.index.filter fun e => e.2.2.2 != h } (s.indexDel h) :=
  List.foldlRecOn _ _ ⟨_, _, _, _, rfl⟩ fun _ ht _ _ => ht.trans (putIndex_storage ..)

theorem indexDel_index (s : State) (h : BitVec 32) : (s.indexDel h).index = s.index.filter fun e => e.2.2.2 != h :=
  (indexDel_storage s h).index

theorem node_indexDel (s : State) (h k : BitVec 32) : (s.indexDel h).node k = s.node k := by
  rw [State.node, (indexDel_storage s h).nodes]
  rfl

/-! ## What names and contexts a removal leaves -/

/-- The contexts are the same, and the index names no node that it did not name. -/
structure State.Fewer (s t : State) : Prop where
  hasCtx : t.hasCtx = s.hasCtx
  index : ∀ e ∈ t.index, e ∈ s.index

/-- Besides, what is FREE stays as it is. -/
structure State.FreeStays (s t : State) : Prop extends State.Fewer s t where
  free : ∀ h, (s.node h).st = .free → t.node h = s.node h

theorem State.Fewer.refl (s : State) : s.Fewer s := ⟨rfl, fun _ => id⟩

/-- The index does not change. -/
theorem State.Fewer.of_index {s t : State} (hc : t.hasCtx = s.hasCtx) (hi : t.index = s.index) : s.Fewer t := ⟨hc, fun _ he => hi ▸ he⟩

theorem State.Fewer.trans {s t u : State} (h1 : s.Fewer t) (h2 : t.Fewer u) : s.Fewer u :=
  ⟨h2.hasCtx.trans h1.hasCtx, fun e he => h1.index e (h2.index e he)⟩

theorem State.FreeStays.refl (s : State) : s.FreeStays s := ⟨.refl s, fun _ _ => rfl⟩

theorem State.FreeStays.trans {s t u : State} (h1 : s.FreeStays t) (h2 : t.FreeStays u) : s.FreeStays u :=
  ⟨h1.toFewer.trans h2.toFewer, fun h hf => (h2.free h (h1.free h hf ▸ hf)).trans (h1.free h hf)⟩

theorem State.FreeStays.foldl {α : Type} {f : State → α → State} (h : ∀ (s : State) x, s.FreeStays (f s x)) (l : List α) (s : State) :
    s.FreeStays (l.foldl f s) :=
  List.foldlRecOn l f (.refl s) fun t ht x _ => ht.trans (h t x)

/-- An update that touches none of these tables. -/
theorem State.FreeStays.of_tables {s t : State} (hc : t.ctxs = s.ctxs) (hi : t.index = s.index) (hn : t.nodes = s.nodes) : s.FreeStays t := by
  refine ⟨.of_index ?_ hi, fun h _ => congrArg (fun x => Tab.get Node.reset x (hKey h)) hn⟩
  exact funext fun c => congrArg (fun x => (Tab.get? x c.toNat).isSome) hc

theorem wrDev_freeStays (s : State) (ctx : BitVec 16) (key : BitVec 12) (pa : Nat) (bs : List Byte) (p : Bool) :
    s.FreeStays (s.wrDev ctx key pa bs p) :=
  have h := wrDev_storage s ctx key pa bs p
  ⟨.of_index (wrDev_hasCtx ..) h.index, fun k _ => congrArg (fun x => Tab.get Node.reset x (hKey k)) h.nodes⟩

theorem setNode_fewer (s : State) (h : BitVec 32) (n : Node) : s.Fewer (s.setNode h n) :=
  .of_index (setNode_hasCtx ..) (setNode_index ..)

/-- A record that is not FREE is written. -/
theorem setNode_freeStays {s : State} {h : BitVec 32} (hs : (s.node h).st ≠ .free) (n : Node) : s.FreeStays (s.setNode h n) :=
  ⟨setNode_fewer .., fun _ hf => node_setNode_of_ne s n fun e => hs (node_congr s e ▸ hf)⟩

theorem indexDel_freeStays (s : State) (h : BitVec 32) : s.FreeStays (s.indexDel h) :=
  ⟨⟨indexDel_hasCtx .., fun _ he => List.mem_of_mem_filter (indexDel_index s h ▸ he)⟩, fun k _ => node_indexDel s h k⟩

theorem closingRemoval_freeStays (s : State) (h : BitVec 32) : s.FreeStays (s.closingRemoval h) := by
  unfold State.closingRemoval
  extract_lets n closing
  split
  · next hc =>
    have hsealed : (s.node h).st = .sealed := by
      obtain ⟨⟨-, hn⟩, -⟩ := by simpa only [Bool.and_eq_true, decide_eq_true_eq] using hc
      exact hn
    refine (indexDel_freeStays s h).trans (setNode_freeStays ?_ _)
    rw [node_indexDel, hsealed]
    decide
  · exact .refl s

theorem unref_freeStays (s : State) (h : BitVec 32) : s.FreeStays (s.unref h) := by
  unfold State.unref
  split
  · exact .refl s
  · next hs =>
    refine State.FreeStays.trans (setNode_freeStays (fun hf => hs ?_) _) (closingRemoval_freeStays ..)
    rw [State.hStale, hf]
    exact Bool.or_true _

/-! ## Messages to a name's home (R29, R53, R54) -/

theorem setPort_freeStays (s : State) (pn : BitVec 4) (x : Port) : s.FreeStays (s.setPort pn x) := .of_tables rfl rfl rfl
theorem emit_freeStays (s : State) (o : Output) : s.FreeStays (s.emit o) := .of_tables rfl rfl rfl

theorem letGo_freeStays (s : State) (h : AnswerHold) : s.FreeStays (s.letGo h) := by
  unfold State.letGo
  cases h.node <;> cases h.src
  · exact .refl s
  · exact setPort_freeStays ..
  · exact unref_freeStays ..
  · exact (unref_freeStays ..).trans (setPort_freeStays ..)

theorem sendFlit_freeStays (s : State) (pn : BitVec 4) (f : Flit) : s.FreeStays (s.sendFlit pn f) :=
  (setPort_freeStays ..).trans ((emit_freeStays ..).trans (.foldl letGo_freeStays _ _))

theorem pumpGo_freeStays (pn : BitVec 4) (n : Nat) (s : State) : s.FreeStays (State.pumpGo pn n s) := by
  induction n generalizing s with
  | zero => exact .refl s
  | succ n ih =>
    unfold State.pumpGo
    dsimp only
    split
    · exact .refl s
    · exact (setPort_freeStays ..).trans ((sendFlit_freeStays ..).trans (ih _))

/-- A message that is sent, or that fails for want of a route. -/
theorem sendDir_getD_freeStays (s : State) (dst : BitVec 12) (m : DirMsg) (extra : List (List Byte)) (data : List Byte) (o : Output) :
    s.FreeStays ((s.sendDir dst m extra data).getD (s.emit o)) := by
  unfold State.sendDir State.sendMsg
  split
  · exact emit_freeStays ..
  · exact (setPort_freeStays ..).trans (pumpGo_freeStays ..)

theorem dirPut_freeStays (s : State) (a : Nat) (e : DirEntry) : s.FreeStays (s.dirPut a e) := wrDev_freeStays ..

theorem dirAnnounce_freeStays (s : State) (nsid : BitVec 32) (name : BitVec 128) (depth : BitVec 16) (h : Holder) :
    s.FreeStays (s.dirAnnounce nsid name depth h) := by
  unfold State.dirAnnounce
  dsimp only
  split_ifs
  · exact .refl s
  · split
    · exact dirPut_freeStays ..
    · split
      · exact dirPut_freeStays ..
      · exact .refl s

theorem dirDrop_freeStays (s : State) (pkg : BitVec 12) (x : Nat × DirEntry) : s.FreeStays (s.dirDrop pkg x) := by
  unfold State.dirDrop
  split
  · exact dirPut_freeStays ..
  · exact .refl s

theorem dirWithdraw_freeStays (s : State) (nsid : BitVec 32) (name : BitVec 128) (depth : BitVec 16) (pkg : BitVec 12) :
    s.FreeStays (s.dirWithdraw nsid name depth pkg) := by
  unfold State.dirWithdraw
  split
  · exact .foldl (fun t x => dirDrop_freeStays t pkg x) _ s
  · split
    · exact dirDrop_freeStays ..
    · exact .refl s

theorem tellHome_freeStays (s : State) (op : Byte) (nsid : BitVec 32) (name : BitVec 128) (depth : BitVec 16) (tier : BitVec 2) :
    s.FreeStays (s.tellHome op nsid name depth tier) := by
  unfold State.tellHome
  by_cases he : (!s.dirEn) = true
  · rw [if_pos he]
    exact .refl s
  rw [if_neg he]
  split
  · exact .refl s
  · dsimp only
    split_ifs
    · exact dirAnnounce_freeStays ..
    · exact dirWithdraw_freeStays ..
    · exact sendDir_getD_freeStays ..

/-- The last message of a namespace and its end (R213, R53). -/
theorem nsGone_freeStays (s : State) (nsid : BitVec 32) : s.FreeStays (s.nsGone nsid) := by
  unfold State.nsGone
  split
  · exact .refl s
  · dsimp only
    split_ifs
    · exact (tellHome_freeStays s 4 nsid 0 0 0).trans (.of_tables rfl rfl rfl)
    · exact .of_tables rfl rfl rfl
    · exact .refl s

/-! ## Nodes that are freed (R219) -/

theorem freeGroups_index (s : State) (gs : List Group) : (s.freeGroups gs).index = s.index :=
  List.foldlRecOn (motive := fun t : State => t.index = s.index) gs _ rfl fun t ht g _ => by
    rw [← ht]
    dsimp only
    split <;> rfl

theorem freeGroups_fewer (s : State) (gs : List Group) : s.Fewer (s.freeGroups gs) :=
  .of_index (freeGroups_hasCtx ..) (freeGroups_index ..)

/-- Freeing a node: its entries leave the index and its parent's count falls; its record, FREE with the next GEN, is written after them all, and
before what its namespace's end does. -/
theorem freeNode_ends {k : Nat} (hk : ∀ s h, State.Fewer s (State.freeNode k s h)) (s : State) (h : BitVec 32) :
    ∃ u : State, (if (s.node h).st = .open_ then s else s.indexDel h).Fewer u ∧
      State.freeNode (k + 1) s h = (u.setNode h { Node.reset with gen := (s.node h).gen + 1 }).nsGone (s.node h).nsid := by
  unfold State.freeNode
  extract_lets n unnamed told p counted left given
  refine ⟨given.giveRecord h, ?_, rfl⟩
  have htold : unnamed.Fewer told := by
    unfold told
    split
    · exact (tellHome_freeStays ..).toFewer
    · exact .refl _
  have hleft : told.Fewer left := by
    unfold left
    split_ifs
    · exact .refl _
    · exact (setNode_fewer ..).trans (hk ..)
    · exact (setNode_fewer ..).trans (closingRemoval_freeStays ..).toFewer
  have hgiven : left.Fewer given := freeGroups_fewer ..
  exact htold.trans (hleft.trans (hgiven.trans (.of_index rfl rfl)))

theorem freeNode_fewer (k : Nat) (s : State) (h : BitVec 32) : s.Fewer (State.freeNode k s h) := by
  induction k generalizing s h with
  | zero => exact .refl s
  | succ k ih =>
    obtain ⟨u, hu, he⟩ := freeNode_ends ih s h
    have hdel : s.Fewer (if (s.node h).st = .open_ then s else s.indexDel h) := by
      split
      · exact .refl s
      · exact (indexDel_freeStays s h).toFewer
    rw [he]
    exact hdel.trans (hu.trans ((setNode_fewer ..).trans (nsGone_freeStays ..).toFewer))

/-- A node that is not OPEN is freed: its record is FREE, with the next GEN, and no entry of the index is its (R216, R219, R228). -/
theorem freeNode_frees {s : State} {h : BitVec 32} (hs : (s.node h).st ≠ .open_) (k : Nat) :
    (State.freeNode (k + 1) s h).node h = { Node.reset with gen := (s.node h).gen + 1 } ∧
      ∀ e ∈ (State.freeNode (k + 1) s h).index, e.2.2.2 ≠ h := by
  obtain ⟨u, hu, he⟩ := freeNode_ends (freeNode_fewer k) s h
  rw [if_neg hs] at hu
  have hend := nsGone_freeStays (u.setNode h { Node.reset with gen := (s.node h).gen + 1 }) (s.node h).nsid
  rw [he]
  constructor
  · rw [hend.free h (by rw [node_setNode_self]; rfl), node_setNode_self]
  · intro e hm
    have hdel : e ∈ (s.indexDel h).index := hu.index e (setNode_index u h _ ▸ hend.index e hm)
    rw [indexDel_index] at hdel
    simpa using (List.mem_filter.mp hdel).2

/-- One reference less (R219, R220). -/
theorem decRef_fewer (s : State) (h : BitVec 32) : s.Fewer (s.decRef h) := by
  unfold State.decRef
  dsimp only
  split_ifs
  · exact .refl s
  · exact (setNode_fewer ..).trans (freeNode_fewer ..)
  · exact (setNode_fewer ..).trans (closingRemoval_freeStays ..).toFewer

end Sys2Proof.Machine
end

section
/-! PROOFS. CKPT_CFG, checkpoints and rollbacks (chapter 12, R319 to R322; R222, R240). -/

namespace Sys2Proof.Machine

/-! ## A context's record -/

theorem modCtx_some {s : State} {c : BitVec 16} {x : Ctx} (h : s.ctx? c = some x) (f : Ctx → Ctx) :
    s.modCtx c f = { s with ctxs := Tab.set s.ctxs c.toNat (f x) } := by
  unfold State.modCtx
  rw [h]

theorem ctx?_modCtx {s : State} {c : BitVec 16} {x : Ctx} (h : s.ctx? c = some x) (f : Ctx → Ctx) : (s.modCtx c f).ctx? c = some (f x) := by
  rw [modCtx_some h]
  exact Tab.get?_set_self ..

/-! ## CKPT_CFG (R319) -/

section
variable {s : State} (hg : s.ckCfg.go = true)
include hg

theorem ckptCfgGo_noContext (h : s.ctx? s.ckCfg.ctx = none) :
    exec .ckptCfgGo s = .next { s with ckCfg := { s.ckCfg with go := false, code := 2 } } := by
  refine congrArg Host.Outcome.next ?_
  simp only [hg, h, Bool.not_true, Bool.false_eq_true, if_false]

/-- A context without checkpoints takes the fields at once. -/
theorem ckptCfgGo_atOnce {x : Ctx} (h : s.ctx? s.ckCfg.ctx = some x) (hi : x.ckInterval = 0) :
    exec .ckptCfgGo s = .next
      { s.setCtx { x with ckInterval := s.ckCfg.interval, ckUndo := s.ckCfg.undo, ckLast := s.tickcnt } with
        ckCfg := { s.ckCfg with go := false, code := 0 } } := by
  refine congrArg Host.Outcome.next ?_
  simp only [hg, h, hi, Bool.not_true, Bool.false_eq_true, if_false, if_true]

/-- A context with checkpoints takes them at its next checkpoint. -/
theorem ckptCfgGo_next {x : Ctx} (h : s.ctx? s.ckCfg.ctx = some x) (hi : x.ckInterval ≠ 0) :
    exec .ckptCfgGo s = .next
      { s.setCtx { x with ckNext := some (s.ckCfg.interval, s.ckCfg.undo) } with ckCfg := { s.ckCfg with go := false, code := 0 } } := by
  refine congrArg Host.Outcome.next ?_
  simp only [hg, h, hi, Bool.not_true, Bool.false_eq_true, if_false]

end

/-! ## When a checkpoint is taken (R320 to R322) -/

theorem checkpoint_idle {s : State} {c : BitVec 16} {x : Ctx} (h : s.ctx? c = some x)
    (hi : x.ckInterval = 0 ∧ x.hold = false ∨ x.rolling = true ∨ x.pendE ≠ none) : s.checkpoint c = s := by
  unfold State.checkpoint
  rw [h]
  refine if_pos ?_
  obtain ⟨h0, hh⟩ | hr | hp := hi
  · simp [State.ckDue, h0, hh]
  · simp [hr]
  · simp [Option.isSome_iff_ne_none.mpr hp]

/-- The packets in progress on the I/O die are none that a checkpoint's first step touches. -/
theorem ckBegin_ioPackets (s : State) (c : BitVec 16) : (s.ckBegin c).ioPackets c = s.ioPackets c := by
  obtain ⟨hi, hq⟩ : (s.ckBegin c).interps = s.interps ∧ (s.ckBegin c).queues = s.queues :=
    List.foldlRecOn (motive := fun t : State => t.interps = s.interps ∧ t.queues = s.queues) _ _
      ⟨State.modCtx_interps .., State.modCtx_queues ..⟩ fun _ ht _ _ => ht
  unfold State.ioPackets State.queue
  rw [hi, hq]

section
variable {s : State} {c : BitVec 16} {x : Ctx} (h : s.ctx? c = some x) (hi : x.ckInterval ≠ 0) (hr : x.rolling = false) (hp : x.pendE = none)
  (ht : 1000 * x.ckInterval.toNat ≤ s.tickcnt.toNat - x.ckLast.toNat)

include hi hr hp ht in
theorem ckDue_interval : s.ckDue x = true := by
  unfold State.ckDue
  rw [bne_iff_ne.mpr hi, hr, hp, decide_eq_true ht]
  rfl

include h hi hr hp ht

/-- It does not end while a packet of the context is in progress. -/
theorem checkpoint_begins (hio : s.ioPackets c ≠ []) : s.checkpoint c = s.ckBegin c := by
  unfold State.checkpoint
  simp [h, ckDue_interval hi hr hp ht, hr, hp, ckBegin_ioPackets, hio]

end

/-! ## A checkpoint of a context that runs on no tile (R320) -/

/-- No tile has the context installed. -/
def State.offTiles (s : State) (c : BitVec 16) : Prop := ∀ e ∈ s.tiles, e.2.ctx ≠ some c

/-- A context that starts no packet; and one that owes no drop any more (R222). -/
def Ctx.held (x : Ctx) : Ctx := { x with hold := true }
def Ctx.undeferred (x : Ctx) : Ctx := { x with refs := x.refs.filter fun r => !r.defer }

theorem modCtx_ctxs (s : State) (c : BitVec 16) (f : Ctx → Ctx) : ∃ l, s.modCtx c f = { s with ctxs := l } := by
  unfold State.modCtx
  split <;> exact ⟨_, rfl⟩

theorem ctxTiles_off {s : State} {c : BitVec 16} (ht : s.offTiles c) : s.ctxTiles c = [] :=
  tilesWith_none fun e he => by simp [ht e he]

theorem modCtx_offTiles {s : State} {c : BitVec 16} (ht : s.offTiles c) (f : Ctx → Ctx) : (s.modCtx c f).offTiles c :=
  fun e he => ht e (State.modCtx_tiles s c f ▸ he)

theorem ckBegin_off {s : State} {c : BitVec 16} (ht : s.offTiles c) : s.ckBegin c = s.modCtx c Ctx.held := by
  have hnone := ctxTiles_off (modCtx_offTiles ht Ctx.held)
  unfold Ctx.held at hnone
  unfold State.ckBegin
  dsimp only
  rw [hnone, List.foldl_nil]
  rfl

theorem quiesce_off {s : State} {c : BitVec 16} (ht : s.offTiles c) : s.quiesce c = s := by
  rw [State.quiesce, ctxTiles_off ht, List.foldl_nil]

theorem ckResume_off {s : State} {c : BitVec 16} (ht : s.offTiles c) : s.ckResume c = s := by
  have hnone : (s.tilesWith fun t => t.ctx == some c && t.stop == some .checkpoint) = [] := tilesWith_none fun e he => by simp [ht e he]
  rw [State.ckResume, hnone, List.foldl_nil]

/-- A context that holds no reference owes no drop. -/
theorem performDefers_noRefs {s : State} {c : BitVec 16} {x : Ctx} (h : s.ctx? c = some x) (hr : x.refs = []) :
    s.performDefers c = s.modCtx c Ctx.undeferred := by
  unfold State.performDefers
  rw [h]
  dsimp only
  rw [hr]
  rfl

section
variable {s : State} {c : BitVec 16} {x : Ctx} (h : s.ctx? c = some x) (ht : s.offTiles c) (hrefs : x.refs = [])

include ht in
theorem ckBegin_offTiles : (s.ckBegin c).offTiles c := by
  rw [ckBegin_off ht]
  exact modCtx_offTiles ht _

include h ht

theorem ckBegin_ctx? : (s.ckBegin c).ctx? c = some x.held := by
  rw [ckBegin_off ht]
  exact ctx?_modCtx h _

include hrefs

theorem ckDefers_eq : (s.ckBegin c).performDefers c = (s.ckBegin c).modCtx c Ctx.undeferred :=
  performDefers_noRefs (ckBegin_ctx? h ht) hrefs

theorem ckDefers_ctx? : ((s.ckBegin c).performDefers c).ctx? c = some x.held.undeferred := by
  rw [ckDefers_eq h ht hrefs]
  exact ctx?_modCtx (ckBegin_ctx? h ht) _

/-- Until its record is written, such a checkpoint has changed the contexts alone. -/
theorem ckDefers_ctxs : (∃ l, s.ckBegin c = { s with ctxs := l }) ∧ ∃ l, (s.ckBegin c).performDefers c = { s with ctxs := l } := by
  obtain ⟨l, hl⟩ := modCtx_ctxs s c Ctx.held
  obtain ⟨m, hm⟩ := modCtx_ctxs (s.ckBegin c) c Ctx.undeferred
  rw [← ckBegin_off ht] at hl
  rw [← ckDefers_eq h ht hrefs, hl] at hm
  exact ⟨⟨l, hl⟩, m, hl ▸ hm⟩

variable (hd : s.ckDue x = true) (hr : x.rolling = false) (hp : x.pendE = none) (hio : s.ioPackets c = []) (hn : x.ckNext = none)
include hd hr hp hio hn

/-- A checkpoint that has nothing to wait for ends with the record of its context: a new interval begins, with what the checkpoint keeps. -/
theorem checkpoint_record :
    ∃ n f, s.checkpoint c = State.modCtx { (s.ckBegin c).performDefers c with nextId := n } c f ∧ ∀ y : Ctx, (f y).interval = y.interval + 1 ∧
      (f y).ckLast = ((s.ckBegin c).performDefers c).tickcnt ∧ (f y).undo = [] ∧ (f y).hasCk = (x.ckInterval != 0) ∧ (f y).hold = false ∧
      (f y).ckRanges = if x.ckInterval = 0 then [] else
        (((s.ckBegin c).gran.filter fun e => e.2 == c && ((s.ckBegin c).imageAt e.1).isNone).map fun e => (4096 * e.1, 4096)) ++
          (s.ckBegin c).brineRanges c := by
  have hidle : ¬ ((!s.ckDue x && !x.hold) || x.rolling || x.pendE.isSome) = true := by simp [hd, hr, hp]
  have hwait : ¬ (!((s.ckBegin c).ioPackets c).isEmpty || (s.ckBegin c).tiles.any fun e => e.2.ctx == some c && e.2.capturing.isSome) = true := by
    have hcap : ((s.ckBegin c).tiles.any fun e => e.2.ctx == some c && e.2.capturing.isSome) = false :=
      List.any_eq_false.mpr fun e he => by simp [ckBegin_offTiles ht e he]
    rw [ckBegin_ioPackets, hio, hcap]
    decide
  have hres (n : Nat) : State.offTiles { (s.ckBegin c).performDefers c with nextId := n } c := by
    obtain ⟨-, l, hl⟩ := ckDefers_ctxs h ht hrefs
    rw [hl]
    exact ht
  rw [State.checkpoint, h]
  dsimp only
  rw [if_neg hidle, if_neg hwait, quiesce_off (ckBegin_offTiles ht), ckResume_off (hres _), hn]
  exact ⟨_, _, rfl, fun y => ⟨rfl, rfl, rfl, rfl, rfl, rfl⟩⟩

theorem checkpoint_ends (hi : x.ckInterval ≠ 0) :
    ∃ y, (s.checkpoint c).ctx? c = some y ∧ y.interval = x.interval + 1 ∧ y.ckLast = s.tickcnt ∧ y.undo = [] ∧ y.hasCk = true ∧
      y.hold = false ∧
      y.ckRanges = ((s.gran.filter fun e => e.2 == c && (s.imageAt e.1).isNone).map fun e => (4096 * e.1, 4096)) ++ s.brineRanges c ∧
      (s.checkpoint c).mem = s.mem := by
  obtain ⟨n, f, hck, hf⟩ := checkpoint_record h ht hrefs hd hr hp hio hn
  obtain ⟨hiv, hlast, hundo, hhas, hhold, hranges⟩ := hf x.held.undeferred
  obtain ⟨⟨l, hl⟩, m, hm⟩ := ckDefers_ctxs h ht hrefs
  have hctx : State.ctx? { (s.ckBegin c).performDefers c with nextId := n } c = some x.held.undeferred := ckDefers_ctx? h ht hrefs
  rw [hm] at hlast
  rw [if_neg hi, hl] at hranges
  rw [hck]
  refine ⟨_, ctx?_modCtx hctx f, hiv, hlast, hundo, hhas.trans (bne_iff_ne.mpr hi), hhold, hranges, ?_⟩
  rw [State.modCtx_mem, hm]

end

/-! ## What a rollback leaves (R240, R321): the context -/

theorem dropHolds_hasCtx (s : State) (k : Cmd) : (s.dropHolds k).hasCtx = s.hasCtx :=
  (foldl_hasCtx (fun t h => (decRef_fewer t h).hasCtx) _ _).trans (freeGroups_hasCtx ..)

theorem discardTile_hasCtx (s : State) (g : BitVec 8) : (s.discardTile g).hasCtx = s.hasCtx :=
  (foldl_hasCtx dropHolds_hasCtx _ (s.forgetAsks g)).trans rfl

theorem dropImage_hasCtx (s : State) (n : Nat) : (s.dropImage n).hasCtx = s.hasCtx := by
  unfold State.dropImage
  split
  · rfl
  · exact foldl_hasCtx dropHolds_hasCtx _ s

theorem stopContext_hasCtx (s : State) (c : BitVec 16) : (s.stopContext c).hasCtx = s.hasCtx :=
  (foldl_hasCtx dropImage_hasCtx _ _).trans (foldl_hasCtx discardTile_hasCtx _ s)

theorem writeUndo_hasCtx (s : State) (x : Ctx) : (s.writeUndo x).hasCtx = s.hasCtx :=
  foldl_hasCtx (fun t u => by
    split
    · rfl
    · rfl) _ s

theorem restoreCells_hasCtx (s : State) (x : Ctx) : (s.restoreCells x).hasCtx = s.hasCtx := by
  unfold State.restoreCells
  extract_lets mine other keep rs untagged restored
  refine Eq.trans (b := restored.hasCtx) rfl (foldl_hasCtx (fun t r => ?_) rs untagged)
  dsimp only
  split <;> rfl

theorem saltBack_hasCtx (s : State) (x : Ctx) : (s.saltBack x).hasCtx = s.hasCtx :=
  (foldl_hasCtx (fun t h => (freeNode_fewer chainFuel t h).hasCtx) _ _).trans
    ((foldl_hasCtx (fun t h => (decRef_fewer t h).hasCtx) _ _).trans (modCtx_hasCtx ..))

theorem setLaunch_hasCtx (s : State) (l : Launch) : (s.setLaunch l).hasCtx = s.hasCtx := rfl

theorem launchesBack_hasCtx (s : State) (x : Ctx) : (s.launchesBack x).hasCtx = s.hasCtx :=
  foldl_hasCtx (fun t e => by
    dsimp only
    split <;> simp only [setLaunch_hasCtx, apply_ite State.hasCtx, countUsers_hasCtx, ite_self]) _ s

theorem breakImage_hasCtx (s : State) (n : Nat) : (s.breakImage n).hasCtx = s.hasCtx := by
  unfold State.breakImage
  split <;> rfl

theorem claimGran_hasCtx (s : State) (c : BitVec 16) (n : Nat) : (s.claimGran c n).hasCtx = s.hasCtx := by
  unfold State.claimGran
  dsimp only
  split
  · exact breakImage_hasCtx ..
  · exact breakImage_hasCtx s n

theorem placeImage_hasCtx (s : State) (i : Image) : (s.placeImage i).hasCtx = s.hasCtx :=
  foldl_hasCtx (fun t n => claimGran_hasCtx t i.ctx n) _ s

theorem noteCaptured_hasCtx (s : State) (d : BitVec 2) (h : BitVec 32) (i : Item) : (s.noteCaptured d h i).hasCtx = s.hasCtx := by
  unfold State.noteCaptured
  split <;> rfl

theorem imagesBack_hasCtx (s : State) (x : Ctx) : (s.imagesBack x).hasCtx = s.hasCtx :=
  foldl_hasCtx (fun t e => by
    have hrefs (l : List (BitVec 32)) : (l.foldl (fun t h => if t.hStale h then t else t.incRef h) t).hasCtx = t.hasCtx :=
      foldl_hasCtx (fun u h => by rw [apply_ite State.hasCtx, State.incRef, State.modNode, setNode_hasCtx, ite_self]) l t
    dsimp only
    split_ifs
    · rfl
    · split <;> simp only [placeImage_hasCtx, hrefs]
    · split <;> simp only [noteCaptured_hasCtx, placeImage_hasCtx, hrefs]) _ s

theorem rolledRecord_hasCtx (s : State) (p : Packet) : (s.rolledRecord p).hasCtx = s.hasCtx := rfl

theorem raiseErr_hasCtx (s : State) (e : ErrRec) : (s.raiseErr e).hasCtx = s.hasCtx :=
  funext fun c => congrArg (fun l => (Tab.get? l c.toNat).isSome) (raiseErr_ctxs s e)

/-- A context's tiles, images and packets stopped, its undo log written back, its granules and tier 0 frames as the checkpoint found them, its
references and brines, launches and images of the interval undone, and a record for each packet (R321, steps 1 to 6). -/
def State.rolledBack (s : State) (c : BitVec 16) (x : Ctx) : State :=
  let t := s.stopContext c
  let y := (t.ctx? c).getD x
  (s.ioPackets c ++ y.ivPackets.map (·.1)).foldl State.rolledRecord
    (((((t.writeUndo y).restoreCells y).saltBack y).launchesBack y).imagesBack y)

theorem rolledBack_hasCtx (s : State) (c : BitVec 16) (x : Ctx) : (s.rolledBack c x).hasCtx = s.hasCtx := by
  unfold State.rolledBack
  dsimp only
  rw [foldl_hasCtx rolledRecord_hasCtx, imagesBack_hasCtx, launchesBack_hasCtx, saltBack_hasCtx, restoreCells_hasCtx, writeUndo_hasCtx,
    stopContext_hasCtx]

/-- What a rollback leaves in its context's record: nothing owed, nothing logged, no packet of the interval (R321). -/
def Ctx.afterRollback (x : Ctx) : Ctx := { x with pendE := none, rolling := false, hold := false, undo := [], ckFreed := [], ivPackets := [] }

theorem rollback_owed {s : State} {c : BitVec 16} {x : Ctx} {e : Cause × BitVec 512} (h : s.ctx? c = some x) (he : x.pendE = some e) :
    ∃ r, exec (.rollback c) s = .next (((s.rolledBack c x).raiseErr r).modCtx c Ctx.afterRollback) := by
  have hrun : exec (.rollback c) s = execRollback c s := rfl
  obtain ⟨cause, tr⟩ := e
  rw [hrun]
  unfold execRollback event
  simp only [h, he]
  exact ⟨_, rfl⟩

theorem rollback_notOwed {s : State} {c : BitVec 16} {x : Ctx} (h : s.ctx? c = some x) (he : x.pendE = none) : exec (.rollback c) s = .next s := by
  refine congrArg Host.Outcome.next ?_
  simp only [h, he]

/-- The context is still there after it. -/
theorem rollback_context {s : State} {c : BitVec 16} {x : Ctx} {e : Cause × BitVec 512} (h : s.ctx? c = some x) (he : x.pendE = some e) :
    ∃ t y, exec (.rollback c) s = .next t ∧ t.ctx? c = some (Ctx.afterRollback y) := by
  obtain ⟨r, hr⟩ := rollback_owed h he
  have hthere : ((s.rolledBack c x).raiseErr r).hasCtx c = true := by
    rw [raiseErr_hasCtx, rolledBack_hasCtx, State.hasCtx, h]
    rfl
  obtain ⟨y, hy⟩ := Option.isSome_iff_exists.mp hthere
  exact ⟨_, y, hr, ctx?_modCtx hy _⟩

end Sys2Proof.Machine
end

section
/-! PROOFS. Namespaces (chapter 09, R212, R213) and harvest (R219, R234, R235): the driver's commands, a pool's thresholds, the selection of a
node, and the end of a demotion or a removal. -/

namespace Sys2Proof.Machine

/-! ## REGISTER (R212, R213) -/

/-- A field of the record that R212 refuses. -/
theorem namespaceBad_of {d : BitVec 512} (h : (namespaceOf d).nsid = 0 ∨ (namespaceOf d).nlayer = 0 ∨ 512 < (namespaceOf d).nlayer ∨
    (namespaceOf d).log2lb < 12 ∨ 20 < (namespaceOf d).log2lb ∨ d.extractLsb' 0 122 ≠ 0) : namespaceBad d = true := by
  simp only [namespaceBad, Bool.or_eq_true, beq_iff_eq, bne_iff_ne, decide_eq_true_eq]
  rcases h with h | h | h | h | h | h <;> simp only [h, true_or, or_true, ne_eq, not_false_eq_true]

section
variable {s : State} (hgo : s.nsGo = true) (hop : s.nsRunOp = 1)
include hgo hop

theorem register_noIndex (hi : s.indexReady = false) : exec .register s = .next (s.nsDone 6) := by
  refine congrArg Host.Outcome.next ?_
  simp only [hgo, hop, hi, Bool.not_true, Bool.not_false, bne_self_eq_false, Bool.or_false, Bool.false_eq_true, if_false, if_true]

/-- The checks of a record that is read without poison, in the model's order (log 35). -/
theorem register_read {bs : List PByte} (hi : s.indexReady = true) (hread : s.devRead 0 s.nsAddr 64 = some bs) (hclean : (pNat bs).2 = false) :
    exec .register s = .next
      (if namespaceBad (BitVec.ofNat 512 (pNat bs).1) = true then s.nsDone 3
      else if (s.ns? (namespaceOf (BitVec.ofNat 512 (pNat bs).1)).nsid).isSome then s.nsDone 2
      else if 4096 ≤ s.nss.length then s.nsDone 4
      else { s.nsDone 0 with
        nss := Tab.set s.nss (namespaceOf (BitVec.ofNat 512 (pNat bs).1)).nsid.toNat (namespaceOf (BitVec.ofNat 512 (pNat bs).1)) }) := by
  refine congrArg Host.Outcome.next ?_
  simp only [hgo, hop, hi, hread, hclean, Bool.not_true, bne_self_eq_false, Bool.or_false, Bool.false_or, Bool.false_eq_true, if_false]

end

/-! ## UNREGISTER and the end of a namespace (R213) -/

section
variable {s : State} (hgo : s.nsGo = true) (hop : s.nsRunOp = 2)
include hgo hop

theorem unregister_unknown (hn : s.ns? s.nsRunNsid = none) : exec .unregister s = .next (s.nsDone 5) := by
  refine congrArg Host.Outcome.next ?_
  simp only [hgo, hop, hn, Bool.not_true, bne_self_eq_false, Bool.or_false, Bool.false_eq_true, if_false]

/-- A namespace without nodes closes, and no node is removed. -/
theorem unregister_noNodes {m : Namespace} (hn : s.ns? s.nsRunNsid = some m) (hc : m.closing = false) (hnone : ∀ e ∈ s.nodes, e.2.nsid ≠ m.nsid) :
    exec .unregister s = .next { s with nss := Tab.set s.nss m.nsid.toNat { m with closing := true } } := by
  have hkeys : (s.nodes.filter fun (e : Nat × Node) => e.2.nsid == m.nsid && e.2.st == .sealed && e.2.refcnt == 0) = [] :=
    List.filter_eq_nil_iff.mpr fun e he => by simp [hnone e he]
  refine congrArg Host.Outcome.next ?_
  simp only [hgo, hop, hn, hc, hkeys, Bool.not_true, bne_self_eq_false, Bool.or_false, Bool.false_eq_true, if_false, List.map_nil, List.foldl_nil]

end

theorem nsGone_last {s : State} {nsid : BitVec 32} {m : Namespace} (hn : Tab.get? s.nss nsid.toNat = some m) (hc : m.closing = true)
    (hs : m.shared = false) (hnone : ∀ e ∈ s.nodes, e.2.st = .free ∨ e.2.nsid ≠ nsid) :
    s.nsGone nsid = { s with nss := Tab.erase s.nss nsid.toNat, nsGo := false, nsCode := 0 } := by
  have hany : s.nodes.any (fun x => x.2.st != .free && x.2.nsid == nsid) = false :=
    List.any_eq_false.mpr fun e he => by
      rcases hnone e he with h | h <;> simp [h]
  simp only [State.nsGone, hn, hc, hs, hany, Bool.not_false, Bool.and_self, Bool.false_eq_true, if_true, if_false]

/-- A namespace whose nodes have not all gone does not end. -/
theorem nsGone_early {s : State} {nsid : BitVec 32} {e : Nat × Node} (he : e ∈ s.nodes) (hst : e.2.st ≠ .free) (hn : e.2.nsid = nsid) :
    s.nsGone nsid = s := by
  have hany : s.nodes.any (fun x => x.2.st != .free && x.2.nsid == nsid) = true :=
    List.any_eq_true.mpr ⟨e, he, by simp [hst, hn]⟩
  unfold State.nsGone
  split
  · rfl
  · rw [hany, Bool.not_true, Bool.and_false]
    rfl

/-! ## A pool's thresholds (R234) -/

theorem pool_setPool (s : State) (j : BitVec 4) (p : Pool) : (s.setPool j p).pool j = p.settle j := vget_vset_self _ _ _ _ j.isLt

theorem settle_low {j : BitVec 4} {p : Pool} (h : poolFree j p < p.low.toNat) :
    (p.settle j).harvesting = true ∧ (p.settle j).picks = if p.harvesting = true then p.picks else 1 := by
  have hrun : poolRuns j p = true := if_pos h
  rw [Pool.settle, hrun]
  exact ⟨rfl, rfl⟩

theorem settle_high {j : BitVec 4} {p : Pool} (hl : p.low.toNat ≤ poolFree j p) (hh : p.high.toNat ≤ poolFree j p) :
    (p.settle j).harvesting = false ∧ (p.settle j).picks = 0 := by
  have hrun : poolRuns j p = false := (if_neg (Nat.not_lt.mpr hl)).trans (if_pos hh)
  rw [Pool.settle, hrun]
  exact ⟨rfl, rfl⟩

theorem settle_between {j : BitVec 4} {p : Pool} (hl : p.low.toNat ≤ poolFree j p) (hh : poolFree j p < p.high.toNat) :
    (p.settle j).harvesting = p.harvesting := (if_neg (Nat.not_lt.mpr hl)).trans (if_neg (Nat.not_le.mpr hh))

/-! ## HARVEST_SELECT (R234, R235) -/

theorem harvestSelect_idle {s : State} {j : BitVec 4} (h : (s.pool j).harvesting = false ∨ (s.pool j).picks = 0 ∨ 4 ≤ (s.pool j).moves.length) :
    exec (.harvestSelect j) s = .next s := by
  refine congrArg Host.Outcome.next (if_pos ?_)
  rcases h with h | h | h <;> simp [h]

/-- In the pools of tier 2 and of records a node is removed, not demoted (R235). -/
theorem harvestOne_removes {s : State} {j : BitVec 4} {key : Nat} {n : Node} {m : Namespace} (hj : 8 ≤ j.toNat) (hn : s.ns? n.nsid = some m) :
    s.harvestOne j key n =
      some ((s.startRemoval (s.handleOf key)).modPool j fun p => { p with moves := p.moves ++ [s.handleOf key] }) := by
  have h4 : ¬ j.toNat < 4 := by omega
  have h8 : ¬ j.toNat < 8 := by omega
  simp only [State.harvestOne, hn, h4, h8, decide_false, Bool.false_and, Bool.false_eq_true, if_false]

/-- The only node of the package is selected. -/
theorem harvestSelect_only {s : State} {j : BitVec 4} {key : Nat} {n : Node} {m : Namespace} (hh : (s.pool j).harvesting = true)
    (hp : (s.pool j).picks ≠ 0) (hj : 8 ≤ j.toNat) (hm : (s.pool j).moves = []) (hs : s.nodes = [(key, n)]) (hc : n.candidate key j = true)
    (hn : s.ns? n.nsid = some m) :
    exec (.harvestSelect j) s = .next (((s.startRemoval (n.gen ++ BitVec.ofNat 24 key)).modPool j fun p =>
      { p with moves := p.moves ++ [n.gen ++ BitVec.ofNat 24 key] }).modPool j fun p => { p with picks := p.picks - 1 }) := by
  have hhandle : s.handleOf key = n.gen ++ BitVec.ofNat 24 key := by
    rw [State.handleOf, hs]
    simp [Tab.get, Tab.get?]
  have hgo : ¬ (!(s.pool j).harvesting || decide ((s.pool j).picks = 0) || decide (4 ≤ (s.pool j).moves.length)) = true := by simp [hh, hp, hm]
  have honly : (s.nodes.filter fun (e : Nat × Node) => e.2.candidate e.1 j) = [(key, n)] := by
    rw [hs, List.filter_singleton, hc, cond_true]
  refine congrArg Host.Outcome.next ((if_neg hgo).trans ?_)
  rw [honly, List.mergeSort_singleton]
  dsimp only
  rw [List.findSome?_singleton, harvestOne_removes hj hn, hhandle]
  rfl

/-! ## The end of a move or a removal (R219, R235) -/

/-- No pool waits for the node any more. -/
theorem moveEnds_moves (s : State) (h : BitVec 32) (i : BitVec 4) : h ∉ ((s.moveEnds h).pool i).moves := by
  have hi : i.toNat < 16 := i.isLt
  have hpool : (s.moveEnds h).pool i = if (s.pool i).moves.contains h then
      { s.pool i with moves := (s.pool i).moves.filter (· != h), picks := if (s.pool i).harvesting then (s.pool i).picks + 1 else 0 } else s.pool i := by
    simp [State.pool, State.moveEnds, vget, hi]
  rw [hpool]
  split
  · exact fun hm => by simpa using (List.mem_filter.mp hm).2
  · next hno => simpa using hno

theorem harvestRemovalDone_frees {s : State} {h : BitVec 32} (hg : (s.node h).gen = hGen h) (hst : (s.node h).st = .harvesting)
    (hm : (s.node h).moving = false) : exec (.harvestRemovalDone h) s = .next ((State.freeNode chainFuel s h).moveEnds h) :=
  congrArg Host.Outcome.next (if_neg (by simp [hg, hst, hm]))

/-- A removal that ends leaves its record FREE, under the next GEN, in no entry of the index and in no pool's moves. -/
theorem harvestRemovalDone_record {s : State} {h : BitVec 32} (hg : (s.node h).gen = hGen h) (hst : (s.node h).st = .harvesting)
    (hm : (s.node h).moving = false) :
    ∃ t, exec (.harvestRemovalDone h) s = .next t ∧ (t.node h).st = .free ∧ (t.node h).gen = (s.node h).gen + 1 ∧
      (∀ e ∈ t.index, e.2.2.2 ≠ h) ∧ ∀ i, h ∉ (t.pool i).moves := by
  have hfuel : chainFuel = 65535 + 1 := rfl
  obtain ⟨hnode, hindex⟩ := freeNode_frees (h := h) (by rw [hst]; decide) 65535
  rw [← hfuel] at hnode hindex
  have hrec : ((State.freeNode chainFuel s h).moveEnds h).node h = { Node.reset with gen := (s.node h).gen + 1 } := hnode
  exact ⟨_, harvestRemovalDone_frees hg hst hm, by rw [hrec]; rfl, by rw [hrec], hindex, moveEnds_moves _ h⟩

/-! ## A demotion that ends (R219) -/

theorem foldl_nss {β : Type} {f : State → β → State} (h : ∀ s x, (f s x).nss = s.nss) (l : List β) (s : State) : (l.foldl f s).nss = s.nss :=
  List.foldlRecOn (motive := fun t => t.nss = s.nss) l f rfl fun t ht x _ => (h t x).trans ht

theorem claimGran_nss (s : State) (c : BitVec 16) (n : Nat) : (s.claimGran c n).nss = s.nss := by
  have hbreak : (s.breakImage n).nss = s.nss := by
    unfold State.breakImage
    split <;> rfl
  unfold State.claimGran
  dsimp only
  split <;> exact hbreak

theorem wrGran_nss (s : State) (c : BitVec 16) (a : Nat) (bs : List Byte) (p : Bool) : (s.wrGran c a bs p).nss = s.nss := by
  unfold State.wrGran
  split
  · rfl
  · exact foldl_nss (fun _ _ => claimGran_nss ..) _ s

/-- Frames that are copied leave the namespaces. -/
theorem frameWrite_nss (s : State) (ctx : BitVec 16) (ns : Namespace) (tier : BitVec 2) (addr : Nat) (bs : List PByte) :
    (s.frameWrite ctx ns tier addr bs).nss = s.nss :=
  foldl_nss (fun t p => by
    dsimp only
    split
    · exact wrGran_nss ..
    · exact (wrDev_storage ..).nss) _ s

theorem freeGroups_nss (s : State) (gs : List Group) : (s.freeGroups gs).nss = s.nss :=
  foldl_nss (fun t g => by
    dsimp only
    split <;> rfl) gs s

/-- Groups of one tier, and peers' frames: no move. -/
theorem moving_oneTier {n : Node} {top : Nat} (h : ∀ g ∈ n.groups, g.tier = 3 ∨ g.tier.toNat = top) : n.moving = false := by
  refine List.any_eq_false.mpr fun a ha => ?_
  rw [Bool.not_eq_true]
  refine List.any_eq_false.mpr fun b hb => ?_
  rcases h a ha with h1 | h1 <;> rcases h b hb with h2 | h2 <;> simp [h1, h2]

/-- A node of a namespace that does not close is not removed when its move ends (R213). -/
theorem closingRemoval_open {s : State} {h : BitVec 32} {m : Namespace} (hn : s.ns? (s.node h).nsid = some m) (hc : m.closing = false) :
    s.closingRemoval h = s := by
  unfold State.ns? at hn
  simp only [State.closingRemoval, hn, hc, Bool.false_and, Bool.false_eq_true, if_false]

/-- The groups of a node that stand where its move went. -/
def Node.arrived (n : Node) (top : Nat) : Node :=
  { n with st := .sealed, groups := sortGroups (n.groups.filter fun g => g.tier == 3 || g.tier.toNat == top) }

theorem arrived_moving (n : Node) (top : Nat) : (n.arrived top).moving = false := by
  refine moving_oneTier (top := top) fun g hg => ?_
  have hf := (List.mem_filter.mp (List.mem_mergeSort.mp hg)).2
  simpa using hf

theorem harvestDemotionDone_arrives {s : State} {h : BitVec 32} {m : Namespace} (hg : (s.node h).gen = hGen h)
    (hst : (s.node h).st = .harvesting) (hm : (s.node h).moving = true) (hn : s.ns? (s.node h).nsid = some m) :
    ∃ (u : State) (top : Nat), u.nss = s.nss ∧
      exec (.harvestDemotionDone h) s = .next (((u.setNode h ((s.node h).arrived top)).moveEnds h).closingRemoval h) := by
  have hgo : ¬ ((s.node h).gen != hGen h || (s.node h).st != .harvesting || !(s.node h).moving) = true := by simp [hg, hst, hm]
  have hrun : exec (.harvestDemotionDone h) s = execHarvestDemotionDone h s := rfl
  rw [hrun]
  unfold execHarvestDemotionDone event
  dsimp only
  rw [if_neg hgo, hn]
  refine ⟨_, _, (freeGroups_nss ..).trans (foldl_nss (fun t g => foldl_nss (fun u i => ?_) _ t) _ s), rfl⟩
  split
  · exact frameWrite_nss ..
  · rfl

/-- A demotion that ends leaves its node SEALED with the references that it had, in one tier. -/
theorem harvestDemotionDone_record {s : State} {h : BitVec 32} {m : Namespace} (hg : (s.node h).gen = hGen h)
    (hst : (s.node h).st = .harvesting) (hm : (s.node h).moving = true) (hn : s.ns? (s.node h).nsid = some m) (hc : m.closing = false) :
    ∃ t, exec (.harvestDemotionDone h) s = .next t ∧ (t.node h).st = .sealed ∧ (t.node h).refcnt = (s.node h).refcnt ∧
      (t.node h).moving = false ∧ ∀ i, h ∉ (t.pool i).moves := by
  obtain ⟨u, top, hu, hrun⟩ := harvestDemotionDone_arrives hg hst hm hn
  have hrec : ((u.setNode h ((s.node h).arrived top)).moveEnds h).node h = (s.node h).arrived top := node_setNode_self ..
  have hns : State.ns? ((u.setNode h ((s.node h).arrived top)).moveEnds h)
      (((u.setNode h ((s.node h).arrived top)).moveEnds h).node h).nsid = some m := by
    rw [hrec, ← hn]
    exact congrArg (fun l => Tab.get? l (s.node h).nsid.toNat) ((setNode_nss ..).trans hu)
  rw [closingRemoval_open hns hc] at hrun
  exact ⟨_, hrun, by rw [hrec]; rfl, by rw [hrec]; rfl, by rw [hrec]; exact arrived_moving .., moveEnds_moves _ h⟩

/-! ## The statement -/

/-- Settles O54, event by event. Beside the rules the clauses rest on choices of the assumption log: the order 6, 3, 2, 4 of REGISTER's codes
(35), a selection of harvest that finds no node stays open (54), and what a checkpoint copies and a rollback lays back (27). -/
theorem storeAndCheckpointEvents : Obligations.StoreAndCheckpointEvents := by
  unfold Obligations.StoreAndCheckpointEvents
  intro s j nd c x bs
  dsimp only
  refine ⟨fun ⟨hgo, hop⟩ => register_noIndex hgo hop, ?illFormed, ?known, ?full, ?registers, unregister_unknown,
    fun m hgo hop => unregister_noNodes hgo hop, fun m hn hc hs hnone => congrArg _ (nsGone_last hn hc hs hnone),
    fun e he hst hn => congrArg _ (nsGone_early he hst hn), ?pool, harvestSelect_idle,
    fun key n m hh hp hj hm hs hc hn => harvestSelect_only hh hp hj hm hs hc hn, harvestRemovalDone_record,
    fun m => harvestDemotionDone_record, ckptCfgGo_noContext,
    fun hg h hi => ckptCfgGo_atOnce hg h hi, fun hg h hi => ckptCfgGo_next hg h hi,
    fun h hi => congrArg _ (checkpoint_idle h hi), ?begins, ?ends, rollback_notOwed, ?rollback⟩
  case illFormed =>
    rintro ⟨⟨hgo, hop⟩, hi, hread, hclean⟩ hbad
    rw [register_read hgo hop hi hread hclean, if_pos (namespaceBad_of hbad)]
    rfl
  case known =>
    rintro ⟨⟨hgo, hop⟩, hi, hread, hclean⟩ hok ⟨m, hm⟩
    rw [register_read hgo hop hi hread hclean, hok, hm]
    rfl
  case full =>
    rintro ⟨⟨hgo, hop⟩, hi, hread, hclean⟩ hok hnew hfull
    rw [register_read hgo hop hi hread hclean, hok, hnew, if_pos hfull]
    rfl
  case registers =>
    rintro ⟨⟨hgo, hop⟩, hi, hread, hclean⟩ hok hnew hroom
    rw [register_read hgo hop hi hread hclean, hok, hnew, if_neg (Nat.not_le.mpr hroom)]
    rfl
  case pool =>
    intro p
    rw [pool_setPool]
    exact ⟨settle_low, settle_high, settle_between⟩
  case begins =>
    intro h _ hi hr hp ht hio
    exact congrArg _ (checkpoint_begins h hi hr hp ht hio)
  case ends =>
    intro h _ hi hr hp ht hio hoff hrefs hn
    obtain ⟨y, hy⟩ := checkpoint_ends h hoff hrefs (ckDue_interval hi hr hp ht) hr hp hio hn hi
    exact ⟨_, y, rfl, hy⟩
  case rollback =>
    intro e h _ he
    obtain ⟨t, y, hrun, hy⟩ := rollback_context h he
    exact ⟨t, _, hrun, hy, rfl, rfl, rfl, rfl, rfl⟩

end Sys2Proof.Machine
end

section
/-! PROOFS. The memory model (chapter 10): the fences of the streams (R252, R372), `XFNC` and `DRAIN` (R262, R263, R434, R435), and a posted
write at a home that does not answer (R255, R19, R20). -/

namespace Sys2Proof.Machine
open Sys2Proof.Says

/-- An instruction of both streams is its body in the state in which its stream issues. -/
theorem issue_both {s : State} {g : BitVec 8} {st : Stream} (h : s.cur = .stream g st) (n : Nat)
    (body : BitVec 8 → Stream → State → Res State) :
    issue .both n body s = .next (settle g st n ((body g st (opened s g st)).map fun s => (s, none))) := by
  cases st with
  | a => exact issue_both_a h n body
  | x => exact issue_x h rfl n body

/-! ## XFNC and DRAIN (R434, R435) -/

theorem levelReached_iff (st : Stream) (level : BitVec 2) :
    levelReached st level = true ↔ (st = .a ∧ level = 3) ∨ (st = .x ∧ (level = 1 ∨ level = 2)) := by
  cases st <;> simp [levelReached]

section
variable {s : State} {g : BitVec 8} {k : ETok}

/-- A command that waits in no engine queue issues when its token is free. -/
theorem waitCmd_loose_ready (h : waits (s.tile g) k.tp = false) : s.waitCmd g none k = .ok () :=
  if_neg ((tkPending_eq_waits ..).trans h ▸ Bool.false_ne_true)

theorem waitCmd_loose_waits (h : waits (s.tile g) k.tp = true) : s.waitCmd g none k = .error (.wait s .token) := if_pos h

end

theorem pushLoose_eq (s : State) (g : BitVec 8) (c : Cmd) :
    s.pushLoose g c = s.modTile g fun t => Tile.acceptLoose { produced c.tp t with loose := t.loose ++ [c] } := rfl

section
variable {s : State} {g : BitVec 8} {st : Stream} (hcur : s.cur = .stream g st) (k : ETok)
include hcur

theorem xfnc_unreached {level : BitVec 2} (h : levelReached st level = false) :
    exec (.xfnc k level) s = .next (trapped (opened s g st) g st { code := 0x0B }) := by
  show execXfnc k level s = _
  rw [execXfnc, issue_both hcur, h]
  rfl

variable {k}

theorem xfnc_joins {level : BitVec 2} (h : levelReached st level = true) (hk : waits ((opened s g st).tile g) k.tp = false) :
    exec (.xfnc k level) s = .next (finished ((opened s g st).pushLoose g (mkCmd ((opened s g st).tile g) .xfnc st k
      (xfncCloses ((opened s g st).tile g) level) 0 0 (level.setWidth 17))) g st 2) := by
  show execXfnc k level s = _
  rw [execXfnc, issue_both hcur, h, waitCmd_loose_ready hk]
  exact congrArg Host.Outcome.next (settle_done ..)

theorem drain_joins (mask : BitVec 5) (hk : waits ((opened s g st).tile g) k.tp = false) :
    exec (.drain k mask) s = .next (finished ((opened s g st).pushLoose g (mkCmd ((opened s g st).tile g) .drain st k 0 0 0
      (mask.setWidth 17))) g st 2) := by
  show execDrain k mask s = _
  rw [execDrain, issue_both hcur, waitCmd_loose_ready hk]
  exact congrArg Host.Outcome.next (settle_done ..)

theorem drain_waits (mask : BitVec 5) (hk : waits ((opened s g st).tile g) k.tp = true) :
    ∃ v, exec (.drain k mask) s = .next v ∧ Stalled (opened s g st) v g := by
  refine ⟨_, ?_, settle_wait g st 2 (opened s g st) .token⟩
  show execDrain k mask s = _
  rw [execDrain, issue_both hcur, waitCmd_loose_waits hk]
  rfl

end

/-- Settles O31: the level is checked before the token; either command joins the loose commands of its tile with what its stream gives it.
That an `XFNC` of LEVEL 1 or 2 takes the X-cycle at which every open store window closes is log 50's reading of R263. -/
theorem fenceAndDrainCommandsIssue : Obligations.FenceAndDrainCommandsIssue := by
  unfold Obligations.FenceAndDrainCommandsIssue
  intro s g st k level mask u t reaches hcur
  refine ⟨fun h => ?unreached, drain_waits hcur mask, fun hk => ⟨fun h => ?joins, ?drain⟩⟩
  case unreached => exact xfnc_unreached hcur k (Bool.eq_false_iff.mpr (mt (levelReached_iff st level).mp h))
  case joins =>
    have himm := mkCmd_fresh t .xfnc st k (xfncCloses t level) 0 0 (level.setWidth 17)
    rw [toNat_setWidth17 _ (by decide)] at himm
    exact ⟨_, himm, xfnc_joins hcur ((levelReached_iff st level).mpr h) hk⟩
  case drain =>
    have himm := mkCmd_fresh t .drain st k 0 0 0 (mask.setWidth 17)
    rw [toNat_setWidth17 _ (by decide)] at himm
    exact ⟨_, himm, drain_joins hcur mask hk⟩

/-! ## Releases and acquires of the A-stream (R252) -/

/-- The write-backs of some copies of a tile wait in its rim. -/
def State.postBack (s : State) (g : BitVec 8) (ls : List L1Line) : State := ls.foldl (fun s l => s.post (dieOf g) (wbOf s g l .wb)) s

/-- Every copy of the L1D is clean. -/
def Tile.cleaned (t : Tile) : Tile := { t with l1 := t.l1.map fun l => { l with dmask := 0 } }

theorem dirtyBack_eq (s : State) (g : BitVec 8) :
    s.dirtyBack g = (s.postBack g ((s.tile g).l1.filter fun l => l.dmask != 0)).modTile g Tile.cleaned := rfl

theorem postBack_tile (s : State) (g : BitVec 8) (ls : List L1Line) : (s.postBack g ls).tile g = s.tile g := by
  induction ls generalizing s with
  | nil => rfl
  | cons l ls ih => exact ih (s.post (dieOf g) (wbOf s g l .wb))

/-- The write-backs do not depend on whether the table of tiles lists the tile. -/
theorem postBack_setTile_self (s : State) (g : BitVec 8) (ls : List L1Line) :
    (s.setTile g (s.tile g)).postBack g ls = (s.postBack g ls).setTile g (s.tile g) := by
  induction ls generalizing s with
  | nil => rfl
  | cons l ls ih =>
    have hwb : wbOf (s.setTile g (s.tile g)) g l .wb = wbOf s g l .wb := by
      rw [wbOf, State.tile_setTile]
      rfl
    rw [State.postBack, List.foldl_cons, hwb]
    exact ih (s.post (dieOf g) (wbOf s g l .wb))

theorem dirtyBack_setTile_self (s : State) (g : BitVec 8) : (s.setTile g (s.tile g)).dirtyBack g = s.dirtyBack g := by
  rw [dirtyBack_eq, dirtyBack_eq, State.tile_setTile, postBack_setTile_self, State.setTile_modTile, State.modTile, postBack_tile]

theorem performReleases_none {s : State} {g : BitVec 8} (h : (s.tile g).relPend = []) : s.performReleases g = s.setTile g (s.tile g) := by
  have hsame : { s.tile g with relPend := [] } = s.tile g := by rw [← h]
  rw [State.performReleases, h, List.foldl_nil, State.modTile, hsame]

/-- A release of cluster scope and wider with nothing outstanding is performed at once. -/
theorem release_wide {s : State} {g : BitVec 8} {c : BitVec 2} (hc : c ≠ 0) (hp : (s.tile g).relPend = []) (hcl : (s.tile g).claims = []) :
    s.release g c = s.releaseNow g c := by
  rw [State.release, if_neg hc, hcl, performReleases_none hp]
  simp only [State.releaseNow, dirtyBack_setTile_self, List.isEmpty_nil, if_true]

theorem twoBits_cases (k : BitVec 2) : k = 0 ∨ k = 1 ∨ k = 2 ∨ k = 3 := by decide +revert

theorem acquire_narrow {c : BitVec 2} (h0 : c ≠ 0) (h3 : c ≠ 3) (s : State) (g : BitVec 8) :
    s.acquire g c = s.modTile g fun t =>
      { t with l1 := t.l1.map fun l => if ownDie (dieOf g) l.line then l else { l with vmask := l.vmask &&& l.dmask } } := by
  obtain rfl | rfl : c = 1 ∨ c = 2 := by simpa only [h0, h3, false_or, or_false] using twoBits_cases c
  · rfl
  · rfl

/-! ## Fences (R372) -/

section
variable {s : State} {g : BitVec 8} {k : BitVec 2}

theorem fence_a (hcur : s.cur = .stream g .a) (c : BitVec 2) {t : State} (h : s.fenceA g k c = .ok t) :
    exec (.fence k c) s = .next (finished t g .a 1) := by
  show execFence k c s = _
  rw [execFence, issue_both hcur]
  exact congrArg Host.Outcome.next ((congrArg (fun r => settle g .a 1 (r.map fun s => (s, none))) h).trans (settle_done ..))

theorem fence_x (hcur : s.cur = .stream g .x) (c : BitVec 2) :
    exec (.fence k c) s = .next (finished ((opened s g .x).modTile g fun t => t.fenceX k) g .x 1) := by
  show execFence k c s = _
  rw [execFence, issue_both hcur]
  exact congrArg Host.Outcome.next (settle_done ..)

/-- The release part of a `SEQ` that has not released before and has no claim outstanding. -/
theorem releaseFirst_ready (hv : (s.tile g).rdV = none) (hcl : (s.tile g).claims = []) (c : BitVec 2) :
    s.releaseFirst g c = .ok (s.release g c) := by
  simp only [State.releaseFirst, hv, hcl, Option.isSome_none, List.isEmpty_nil, Bool.not_true, Bool.and_false, Bool.false_eq_true, if_false]

end

/-- A `SEQ` with nothing outstanding releases, acquires and waits for all of the die's writes (R252). -/
theorem fenceA_seq {s : State} {g : BitVec 8} (hv : (s.tile g).rdV = none) (hcl : (s.tile g).claims = []) (c : BitVec 2) :
    s.fenceA g 3 c = .ok (((s.release g 3).acquire g 3).drainDie (dieOf g)) := by
  have hfirst := releaseFirst_ready hv hcl 3
  show (s.releaseFirst g 3 >>= fun s => _) = _
  rw [hfirst]
  rfl

theorem fenceX_eq (t : Tile) (k : BitVec 2) : t.fenceX k =
    { t with holdSt := if k = 1 then t.holdSt else Nat.max t.holdSt (Nat.max t.stClose t.stCloseC)
             holdLd := if k = 0 then t.holdLd else Nat.max t.holdLd t.ldClose } := by
  rcases twoBits_cases k with rfl | rfl | rfl | rfl <;> rfl

/-- Settles O22, kind by kind. That a release and `SEQ` drain the rim and the die's channels within the fence's own step is the choice of
log 13. -/
theorem fences : Obligations.Fences := by
  unfold Obligations.Fences
  intro s g k c rel acq
  refine ⟨fun hcur hp hcl hv hseq => ?a, fun hcur => ?x⟩
  case x => rw [fence_x hcur, funext fun t => fenceX_eq t k]
  case a =>
    have hrel : s.release g c = rel s := by
      by_cases hc : c = 0
      · rw [State.release, if_pos hc]
        exact (if_pos hc).symm
      · rw [release_wide hc hp hcl]
        exact (if_neg hc).symm
    have hacq (u : State) : u.acquire g c = acq u := by
      by_cases h0 : c = 0
      · subst h0; rfl
      by_cases h3 : c = 3
      · subst h3; rfl
      · rw [acquire_narrow h0 h3]
        exact ((if_neg h0).trans (if_neg h3)).symm
    refine fence_a hcur c ?_
    rcases twoBits_cases k with rfl | rfl | rfl | rfl
    · exact congrArg Except.ok hrel
    · exact congrArg Except.ok (hacq s)
    · exact congrArg Except.ok ((hacq _).trans (congrArg acq hrel))
    · obtain rfl := hseq rfl
      rw [fenceA_seq hv hcl, hrel, hacq]
      rfl

/-! ## A posted write at a home that does not answer (R19, R20, R255) -/

theorem wrLine_unanswered {s : State} {l : Nat} (h : s.answers l = false) (ctx : BitVec 16) (key : BitVec 12) (m : BitVec 64)
    (v : BitVec 512) (p : Bool) : s.wrLine ctx key l m v p = s := by
  rw [State.wrLine, h, Bool.not_false, Bool.or_true, if_pos rfl]

/-- A write that reaches a home that does not answer is lost: only RV of the home rises. -/
theorem land_unanswered_mem {s : State} {w : HomeWrite} (h : s.answers w.line = false) : (w.land s).mem = s.mem := by
  show (s.wrLine ..).mem = s.mem
  rw [wrLine_unanswered h]

/-- A write of byte 0 of the first line of CXL port 0, and its package after reset, whose port is not trained. -/
def lostWrite : HomeWrite :=
  { line := 2 ^ 41, mask := 1, data := 1, pois := false, key := 0, coh := 0, ctx := 0, tile := 0, kind := .wt, vclk := Vector.replicate 4 0 }

def losesWrite : State := { State.reset.setChan 0 4 [.write lostWrite] with agenda := [.deliver 0 4] }

theorem step_losesWrite : ∃ t, step losesWrite = .next t ∧ t.mem = [] := by
  refine ⟨_, rfl, ?_⟩
  exact land_unanswered_mem (s := State.setChan { losesWrite.elapse with agenda := [] } 0 4 []) (w := lostWrite) (by decide)

/-- Refutes O19: the statement asks for the bytes of every write that is delivered, but at a home that does not answer, an untrained CXL port
(R19, R20, log 62), a write is lost; in the package after reset the first byte of port 0 stays 0. -/
theorem not_postedWritesLandAtTheirHome : ¬ Obligations.PostedWritesLandAtTheirHome := by
  unfold Obligations.PostedWritesLandAtTheirHome
  intro h
  obtain ⟨t, hstep, hmem⟩ := step_losesWrite
  have hchan : losesWrite.chan 0 4 = [.write lostWrite] := State.chan_setChan State.reset 0 4 _
  obtain ⟨u, hu, -, -, hbytes, -, -⟩ := h losesWrite 0 4 lostWrite [] [] rfl hchan rfl (.inl rfl) (by decide)
  obtain rfl : t = u := Host.Outcome.next.inj (hstep.symm.trans hu)
  have hbyte := hbytes (2 ^ 47)
  rw [State.rdByte, hmem] at hbyte
  exact absurd hbyte (by decide +kernel)

end Sys2Proof.Machine
end

section
/-! PROOFS. Scalar loads that read their line at its home (chapter 08, R191; chapter 10, R249 to R256; chapter 14, R364): what the L1D holds after
a fill, how the request reaches the home, and what the load delivers. -/

namespace Sys2Proof.Machine
open Sys2Proof.Says

/-! ## Copies in the L1D -/

/-- The first element that meets a condition, after an update of those that do which keeps them meeting it. -/
theorem find?_updIf {α : Type} {p : α → Bool} {f : α → α} (hf : ∀ x, p x = true → p (f x) = true) (l : List α) :
    (updIf l p f).find? p = (l.find? p).map f := by
  have hp : p ∘ (fun x => if p x then f x else x) = p := by
    funext x
    cases hx : p x with
    | true => simp only [Function.comp, hx, if_true, hf x hx]
    | false => simp only [Function.comp, hx, Bool.false_eq_true, if_false]
  rw [updIf, List.find?_map, hp]
  cases h : l.find? p with
  | none => rfl
  | some y => simp only [Option.map_some, List.find?_some h, if_true]

/-- The copy of a line that has been set is the one that was set. -/
theorem Tile.l1Get_l1Set (t : Tile) (l : L1Line) : (t.l1Set l).l1Get l.line = some l := by
  have hl : (fun x : L1Line => x.line == l.line) l = true := beq_self_eq_true l.line
  have hset : (t.l1Set l).l1 =
      if t.l1.any (fun x => x.line == l.line) then updIf t.l1 (fun x => x.line == l.line) (fun _ => l) else t.l1 ++ [l] := rfl
  rw [Tile.l1Get, hset]
  by_cases h : (t.l1.any fun x => x.line == l.line) = true
  · obtain ⟨y, hy⟩ := Option.isSome_iff_exists.mp (List.find?_isSome.mpr (List.any_eq_true.mp h))
    rw [if_pos h, find?_updIf (f := fun _ : L1Line => l) (fun _ _ => hl), hy, Option.map_some]
  · have hnone : (t.l1.find? fun x => x.line == l.line) = none :=
      List.find?_eq_none.mpr fun x hx hline => h (List.any_eq_true.mpr ⟨x, hx, hline⟩)
    rw [if_neg h, List.find?_append, hnone, Option.none_or]
    exact List.find?_cons_of_pos hl

theorem Tile.l1Get_count (t : Tile) (ev : Nat) (st : Option Stream) (line : Nat) : (t.count ev st).l1Get line = t.l1Get line := by
  rw [Tile.l1Get, Tile.count_l1, Tile.l1Get]

theorem Tile.l1Victim_tlbTouch (t : Tile) (ctx : BitVec 16) (va : W64) (n : Nat) : (t.tlbTouch ctx va).l1Victim n = t.l1Victim n := by
  unfold Tile.l1Victim
  rw [Tile.l1_tlbTouch]

theorem Tile.tlbTouch_keeps (t : Tile) (ctx : BitVec 16) (va : W64) :
    (t.tlbTouch ctx va).claims = t.claims ∧ (t.tlbTouch ctx va).rdV = t.rdV := by
  unfold Tile.tlbTouch
  split <;> exact ⟨rfl, rfl⟩

/-- An update of a tile that changes its copies' order of use and the performance counters, and not what its copy of a line holds. -/
def KeepsCopy (line : Nat) (f : Tile → Tile) : Prop :=
  ∀ t, (∃ l n, ({ t with l1 := l, l1use := n } : Tile).SameButPmc (f t)) ∧
    ∀ l, t.l1Get line = some l → ∃ i, (f t).l1Get line = some { l with lru := i }

theorem Tile.SameButPmc.refl (t : Tile) : t.SameButPmc t := ⟨t.pmc, t.pmovf, t.pmwrap, rfl⟩

theorem keepsCopy_id (line : Nat) : KeepsCopy line id := fun t => ⟨⟨t.l1, t.l1use, .refl t⟩, fun l hl => ⟨l.lru, hl⟩⟩

theorem keepsCopy_l1Touch (line : Nat) : KeepsCopy line fun t => t.l1Touch line := by
  refine fun t => ⟨⟨_, _, .refl _⟩, fun l hl => ⟨t.l1use + 1, ?_⟩⟩
  have hfind := find?_updIf (p := fun l : L1Line => l.line == line) (f := fun l => { l with lru := t.l1use + 1 }) (fun _ h => h) t.l1
  rw [Tile.l1Get] at hl
  rw [hl] at hfind
  exact hfind

theorem keepsCopy_l1use (line : Nat) : KeepsCopy line fun t => { t with l1use := t.l1use + 1 } :=
  fun t => ⟨⟨t.l1, _, .refl _⟩, fun l hl => ⟨l.lru, hl⟩⟩

theorem KeepsCopy.count {line : Nat} {f : Tile → Tile} (h : KeepsCopy line f) (ev : Nat) : KeepsCopy line fun t => (f t).count ev none := by
  intro t
  obtain ⟨⟨l, n, hf⟩, hget⟩ := h t
  exact ⟨⟨l, n, hf.count ev none⟩, fun x hx => (Tile.l1Get_count (f t) ev none line).symm ▸ hget x hx⟩

theorem KeepsCopy.ite {line : Nat} {f k : Tile → Tile} (hf : KeepsCopy line f) (hk : KeepsCopy line k) (c : Prop) [Decidable c] :
    KeepsCopy line fun t => if c then f t else k t := by
  by_cases hc : c
  · simpa only [if_pos hc] using hf
  · simpa only [if_neg hc] using hk

/-! ## What a fill leaves as it is -/

/-- The states differ at most in the tile's L1D and its order of use, in OV and in the performance counters. -/
def State.FillOnly (g : BitVec 8) (s t : State) : Prop :=
  ∃ l n o a b c, t = s.modTile g fun x => { x with l1 := l, l1use := n, ov := o, pmc := a, pmovf := b, pmwrap := c }

theorem State.FillOnly.trans {g : BitVec 8} {s t u : State} (h1 : s.FillOnly g t) (h2 : t.FillOnly g u) : s.FillOnly g u := by
  obtain ⟨_, _, _, _, _, _, rfl⟩ := h1
  obtain ⟨l, n, o, a, b, c, rfl⟩ := h2
  exact ⟨l, n, o, a, b, c, State.modTile_modTile ..⟩

theorem State.FillOnly.keeps {g : BitVec 8} {s t : State} (h : s.FillOnly g t) :
    t.mem = s.mem ∧ (t.tile g).apc = (s.tile g).apc ∧ ∀ r, (t.tile g).rdA r = (s.tile g).rdA r := by
  obtain ⟨_, _, _, _, _, _, rfl⟩ := h
  rw [State.tile_modTile]
  exact ⟨rfl, rfl, fun _ => rfl⟩

theorem noteOv_fillOnly (s : State) (g : BitVec 8) (line : Nat) : s.FillOnly g (s.noteOv g line) := ⟨_, _, _, _, _, _, rfl⟩

theorem l1Refresh_fillOnly (s : State) (g : BitVec 8) (key : BitVec 12) (coh : BitVec 2) (line : Nat) (v cm : BitVec 64) (n : Option Nat) :
    s.FillOnly g (s.l1Refresh g key coh line v cm n) := ⟨_, _, _, _, _, _, rfl⟩

theorem KeepsCopy.fillOnly {line : Nat} {f : Tile → Tile} (h : KeepsCopy line f) (s : State) (g : BitVec 8) : s.FillOnly g (s.modTile g f) := by
  obtain ⟨⟨l, n, a, b, c, hf⟩, -⟩ := h (s.tile g)
  exact ⟨l, n, _, a, b, c, modTile_congr hf⟩

/-! ## The line as a fill brings it (R250) -/

theorem spread_zero : spread 0#64 = 0#512 := by decide +kernel

theorem mergeLine_none (v old : BitVec 512) : mergeLine 0#64 v old = old := by
  rw [mergeLine, spread_zero, BitVec.and_zero, BitVec.zero_or, BitVec.not_zero, BitVec.and_allOnes]

/-- A line as the tile sees it once its home's bytes have come: the bytes that its own copy holds dirty stay. -/
def State.seenLine (s : State) (g : BitVec 8) (key : BitVec 12) (line : Nat) : BitVec 512 × Bool :=
  match (s.tile g).l1Get line with
  | some l => (mergeLine l.dmask l.data (s.rdLine key line).1, (s.rdLine key line).2 || l.pois)
  | none => s.rdLine key line

theorem l1Refresh_copy (s : State) (g : BitVec 8) (key : BitVec 12) (coh : BitVec 2) (line : Nat) (v cm : BitVec 64) (n : Option Nat) :
    ∃ l, ((s.l1Refresh g key coh line v cm n).tile g).l1Get line = some l ∧ (l.data, l.pois) = s.seenLine g key line := by
  unfold State.l1Refresh
  dsimp only
  rw [State.tile_modTile]
  refine ⟨_, Tile.l1Get_l1Set .., ?_⟩
  unfold State.seenLine
  cases (s.tile g).l1Get line with
  | some l => rfl
  | none => exact Prod.ext (mergeLine_none ..) (Bool.or_false _)

/-! ## The request on its way to the home (R181, R255, R256) -/

/-- A physical address has the home of its line. -/
theorem homeOf_line (pa : Nat) : homeOf (64 * (pa / 64)) = homeOf pa := by
  have h39 : 64 * (pa / 64) < 2 ^ 39 ↔ pa < 2 ^ 39 := by omega
  have h37 : 64 * (pa / 64) / 2 ^ 37 = pa / 2 ^ 37 := by omega
  have h44 : (64 * (pa / 64) - 2 ^ 47) / 2 ^ 44 = (pa - 2 ^ 47) / 2 ^ 44 := by omega
  simp only [homeOf, h39, h37, h44]

theorem l1Drop_homeSide (s : State) (g : BitVec 8) (l : L1Line) : s.HomeSide (s.l1Drop g l) := by
  unfold State.l1Drop
  dsimp only
  split
  · exact modTile_homeSide (Tile.l1Only_del ..)
  · exact (post_homeSide ..).trans (modTile_homeSide (Tile.l1Only_del ..))

theorem arrive_homeSide (s : State) (g : BitVec 8) (line : Nat) : s.HomeSide (s.arrive g line) :=
  (leave_homeSide s g).trans (drainChan_homeSide ..)

theorem State.HomeSide.rdV {s t : State} (h : s.HomeSide t) (g : BitVec 8) : (t.tile g).rdV = (s.tile g).rdV := by
  obtain ⟨l, hl, -⟩ := h.tile g
  rw [hl]

theorem needEntry_free {s : State} {g : BitVec 8} (h : s.reqFull g = false) : s.needEntry g = .ok () := if_neg (h ▸ Bool.false_ne_true)

/-- A read whose epochs are closed is served where it arrives (R256). -/
theorem reachHome_served {s : State} {g : BitVec 8} {pa : Nat} {v : Option (Vector W64 4)} (hv : (s.tile g).rdV = v)
    (h : (s.arrive g (pa / 64)).served (homeOf pa) (v.getD ((s.arrive g (pa / 64)).die (dieOf g)).vclk) = true) :
    s.reachHome g (pa / 64) = .ok (s.arrive g (pa / 64)) := by
  rw [← hv, ← (arrive_homeSide s g (pa / 64)).rdV, ← homeOf_line] at h
  exact if_pos h

theorem l1Room_free {s : State} {g : BitVec 8} {line : Nat} (hn : (s.tile g).l1Get line = none) (hv : (s.tile g).l1Victim line = none) :
    s.l1Room g line = .ok s := by
  simp only [State.l1Room, hn, hv, Option.isSome_none, Bool.false_eq_true, if_false]

/-! ## The load (R191, R364) -/

theorem lineNo_device {leaf : BitVec 128} (h : leafPeer leaf = false) (pa : Nat) : lineNo leaf pa = pa / 64 := if_neg (h ▸ Bool.false_ne_true)

/-- An NC load has had the tile's copy leave the L1D. -/
def State.ncLeaves (s : State) (g : BitVec 8) (line : Nat) : State :=
  match (s.tile g).l1Get line with
  | some l => s.l1Drop g l
  | none => s

theorem ncLeaves_copy {s : State} {g : BitVec 8} {line : Nat} {l : L1Line} (h : (s.tile g).l1Get line = some l) :
    s.ncLeaves g line = s.l1Drop g l := by
  rw [State.ncLeaves, h]

theorem ncLeaves_none {s : State} {g : BitVec 8} {line : Nat} (h : (s.tile g).l1Get line = none) : s.ncLeaves g line = s := by
  rw [State.ncLeaves, h]

theorem ncLeaves_homeSide (s : State) (g : BitVec 8) (line : Nat) : s.HomeSide (s.ncLeaves g line) := by
  unfold State.ncLeaves
  split
  · exact l1Drop_homeSide ..
  · exact .refl s

/-- A load delivers `n` bytes of a line and its poison, and leaves the state `h` but for the fill. -/
def Delivers (r : Res (Nat × Bool × State)) (g : BitVec 8) (off n : Nat) (line : BitVec 512 × Bool) (h : State) : Prop :=
  ∃ u, r = .ok (lineSlice line.1 off n, line.2, u) ∧ h.FillOnly g u

/-- What a load answers once its copy has been filled in `h`, and what it does to the order of use is done. -/
theorem delivers_fill {h : State} {g : BitVec 8} {key : BitVec 12} {line : Nat} {f : Tile → Tile} (hf : KeepsCopy line f) (off n : Nat)
    (coh : BitVec 2) (v cm : BitVec 64) (lru : Option Nat) :
    let u := (h.l1Refresh g key coh line v cm lru).modTile g f
    let l := (u.tile g).l1Get line
    Delivers (.ok (lineSlice ((l.map (·.data)).getD 0) off n, (l.map (·.pois)).getD false, u.noteOv g line)) g off n
      (h.seenLine g key line) h := by
  obtain ⟨l, hl, hseen⟩ := l1Refresh_copy h g key coh line v cm lru
  obtain ⟨-, hget⟩ := hf ((h.l1Refresh g key coh line v cm lru).tile g)
  obtain ⟨i, hi⟩ := hget l hl
  intro u copy
  have hcopy : copy = some { l with lru := i } := by
    show (u.tile g).l1Get line = _
    rw [State.tile_modTile, hi]
  rw [hcopy, ← hseen]
  exact ⟨_, rfl, (l1Refresh_fillOnly ..).trans ((hf.fillOnly ..).trans (noteOv_fillOnly ..))⟩

section
variable {s v : State} {g : BitVec 8} {pa : Nat} {leaf : BitVec 128} {n : Nat} {p : BitVec 2} (hpeer : leafPeer leaf = false)
  (hfull : s.reqFull g = false)
include hpeer hfull

/-- An NC load reads the line at its home. -/
theorem loadAt_nc (hcl : (s.tile g).claims = []) (hv : (s.ncLeaves g (pa / 64)).reachHome g (pa / 64) = .ok v) :
    let h := if leafCoh leaf = 1 then v else v.homeConflict (leafCoh leaf) (pa / 64) g
    Delivers (s.loadAt g pa leaf n 2) g (pa % 64) n (h.rdLine (leafKey leaf) (pa / 64)) h := by
  intro h
  refine ⟨h.noteOv g (pa / 64), ?_, noteOv_fillOnly ..⟩
  unfold State.loadAt
  simp only [lineNo_device hpeer, hpeer, hcl, needEntry_free hfull, waitIf, List.any_nil, Bool.false_eq_true, if_false, if_true, Bind.bind,
    Except.bind]
  cases hl : (s.tile g).l1Get (pa / 64) with
  | some l =>
    rw [ncLeaves_copy hl] at hv
    simp only [hv]
    rfl
  | none =>
    rw [ncLeaves_none hl] at hv
    simp only [hv]
    rfl

/-- A load under another POL whose copy does not serve it fills the copy from the home. -/
theorem loadAt_refills {l : L1Line} (hcl : (s.tile g).claims = []) (hl : (s.tile g).l1Get (pa / 64) = some l) (hp : p ≠ 2)
    (hs : ¬ l.Serves (byteMask (pa % 64) n) p (leafCoh leaf)) (hv : s.reachHome g (pa / 64) = .ok v) :
    let h := (v.homeFill (leafCoh leaf) (pa / 64) g (byteMask (pa % 64) n)).1
    Delivers (s.loadAt g pa leaf n p) g (pa % 64) n (h.seenLine g (leafKey leaf) (pa / 64)) h := by
  have hmiss : ¬ (decide (l.vmask &&& byteMask (pa % 64) n = byteMask (pa % 64) n) && !(p == 1 && leafCoh leaf != 2)) = true := by
    intro h
    simp only [Bool.and_eq_true, decide_eq_true_eq, Bool.not_eq_true', Bool.and_eq_false_imp, beq_iff_eq, bne_eq_false_iff_eq] at h
    obtain ⟨hvalid, hwt⟩ := h
    exact hs ⟨hvalid, hp, hwt⟩
  unfold State.loadAt
  simp only [lineNo_device hpeer, hpeer, hp, hl, hmiss, hcl, needEntry_free hfull, hv, waitIf, List.any_nil, Bool.false_eq_true, if_false,
    Bind.bind, Except.bind]
  exact delivers_fill (((keepsCopy_id _).count 9).ite ((keepsCopy_l1Touch _).count 9) (p = 3)) ..

/-- A load under another POL of a line of which the L1D has no copy fills one from the home. -/
theorem loadAt_fills (hl : (s.tile g).l1Get (pa / 64) = none) (hvic : (s.tile g).l1Victim (pa / 64) = none) (hp : p ≠ 2)
    (hv : s.reachHome g (pa / 64) = .ok v) :
    let h := (v.homeFill (leafCoh leaf) (pa / 64) g (byteMask (pa % 64) n)).1
    Delivers (s.loadAt g pa leaf n p) g (pa % 64) n (h.seenLine g (leafKey leaf) (pa / 64)) h := by
  unfold State.loadAt
  simp only [lineNo_device hpeer, hpeer, hp, hl, needEntry_free hfull, l1Room_free hl hvic, hv, Bool.false_eq_true, if_false, Bind.bind,
    Except.bind]
  exact delivers_fill ((keepsCopy_l1use _).count 9) ..

end

theorem finished_tile (s : State) (g : BitVec 8) (st : Stream) (n : Nat) : (finished s g st n).tile g =
    (((s.tile g).setPc st ((s.tile g).pc st + BitVec.ofNat 14 n)).passX st 1).count 0x02 (some st) := by
  have hcur : (finished s g st n).tile g =
      (s.modTile g fun t => ((t.setPc st (t.pc st + BitVec.ofNat 14 n)).passX st 1).count 0x02 (some st)).tile g := rfl
  rw [hcur, State.tile_modTile]

/-- An instruction of the A-stream that has written a register: what is left. -/
theorem finished_wrA (u : State) (g : BitVec 8) (d : R5) (v : W64) (p : Bool) :
    let t := finished (u.modTile g fun x => x.wrA d v p) g .a 1
    (t.tile g).apc = (u.tile g).apc + 1 ∧ (t.tile g).rdA d = (if d = 0 then (0, false) else (v, p)) ∧
      ∀ r, r ≠ d → (t.tile g).rdA r = (u.tile g).rdA r := by
  intro t
  have htile := finished_tile (u.modTile g fun x => x.wrA d v p) g .a 1
  rw [State.tile_modTile] at htile
  have hread (r : R5) : (t.tile g).rdA r = ((u.tile g).wrA d v p).rdA r := by
    rw [htile, Tile.rdA_count]
    exact Tile.rdA_setPc ..
  refine ⟨?_, ?_, fun r hr => (hread r).trans (Tile.rdA_wrA_of_ne _ v p hr)⟩
  · rw [htile, Tile.count_apc]
    exact congrArg (· + 1) (Tile.wrA_apc (u.tile g) d v p)
  · rw [hread]
    by_cases hd : d = 0
    · rw [if_pos hd, hd, Tile.rdA_zero]
    · rw [if_neg hd, Tile.rdA_wrA_self _ v p hd]

/-- A scalar load whose access delivers a line: its destination, and what it leaves. -/
theorem scalarLoad_delivers {n : Nat} {sgn : Bool} {s h : State} {g : BitVec 8} {d b : R5} {p : BitVec 2} {o : BitVec 11} {ea : W64}
    {pa off : Nat} {leaf : BitVec 128} {r : BitVec 512 × Bool} (hn : 0 < n) (hcur : s.cur = .stream g .a)
    (hea : Address (s.tile g) b o n ea) (hx : Reaches s g ea .read pa leaf)
    (hload : Delivers ((s.touchTlb g ea).loadAt g pa leaf n p) g off n r h) :
    ∃ t, scalarLoad n sgn d b p o s = .next t ∧ t.mem = h.mem ∧ t.cur = .none ∧ (t.tile g).apc = (h.tile g).apc + 1 ∧
      (t.tile g).rdA d = (if d = 0 then (0, false) else (loaded n sgn r.1 off, r.2)) ∧
      ∀ k, k ≠ d → (t.tile g).rdA k = (h.tile g).rdA k := by
  obtain ⟨heaOf, halign⟩ := eaOf_clean hea
  obtain ⟨u, hu, hfill⟩ := hload
  obtain ⟨hmem, hapc, hregs⟩ := hfill.keeps
  obtain ⟨hpc, hdst, hothers⟩ := finished_wrA u g d (loaded n sgn r.1 off) r.2
  refine ⟨finished (u.modTile g fun x => x.wrA d (loaded n sgn r.1 off) r.2) g .a 1, ?_, hmem, rfl, hpc.trans (congrArg (· + 1) hapc), hdst,
    fun k hk => (hothers k hk).trans (hregs k)⟩
  rw [scalarLoad, issue_a hcur]
  simp only [heaOf, halign, xlA_reaches hx, hu, Bind.bind, Except.bind, Except.map]
  rw [settle_done, wrS_a, extLoad_lineSlice hn]

/-! ## The statement -/

theorem served_keeps (va : W64) (t : Tile) : (served va t).claims = t.claims ∧ (served va t).rdV = t.rdV := Tile.tlbTouch_keeps ..

/-- Settles O17, POL by POL. That a WT load on a page that is not shared reads the home though the tile has a copy, and refreshes the copy,
is the choice of log 17; that what the die sent before arrives within the load's own step is log 13's. -/
theorem loadsThatReadTheHome : Obligations.LoadsThatReadTheHome := by
  unfold Obligations.LoadsThatReadTheHome
  intro e he s g d b p o ea pa leaf line m u copy s1 h home r hcur hea hx hpeer hcl hvic hmiss hfull hserved
  obtain ⟨hn, hexec⟩ := exec_loads he
  rw [hexec]
  refine scalarLoad_delivers hn hcur hea hx ?_
  have hm : byteMask (pa % 64) e.2.1 = m := byteMask_eq_bytesAt ..
  have htile : u.tile g = served ea (s.tile g) := State.tile_modTile ..
  obtain ⟨hclaims, hrdV⟩ := served_keeps ea (s.tile g)
  have hucl : (u.tile g).claims = [] := by rw [htile, hclaims, hcl]
  have hurdV : (u.tile g).rdV = (s.tile g).rdV := by rw [htile, hrdV]
  have hcopy : (u.tile g).l1Get line = copy := by rw [htile]; exact Tile.l1Get_tlbTouch ..
  by_cases hp : p = 2
  · have hs1 : s1 = (u.ncLeaves g line).arrive g line := by
      cases hc : copy with
      | some l => simp only [s1, hc, if_pos hp, ncLeaves_copy (hcopy.trans hc)]
      | none => simp only [s1, hc, ncLeaves_none (hcopy.trans hc)]
    have hv : (u.ncLeaves g line).reachHome g line = .ok s1 :=
      hs1 ▸ reachHome_served ((ncLeaves_homeSide ..).rdV g |>.trans hurdV) (hs1 ▸ hserved)
    have hr : r = home := by
      simp only [r, if_pos hp]
      split <;> rfl
    have hh : h = if leafCoh leaf = 1 then s1 else s1.homeConflict (leafCoh leaf) line g := if_pos hp
    show Delivers _ g _ _ r h
    rw [hr, hp]
    show Delivers _ g _ _ (h.rdLine (leafKey leaf) line) h
    rw [hh]
    exact loadAt_nc hpeer hfull hucl hv
  · have hs1 : s1 = u.arrive g line := by
      cases hc : copy with
      | some l => simp only [s1, hc, if_neg hp]
      | none => simp only [s1, hc]
    have hv : u.reachHome g line = .ok s1 := hs1 ▸ reachHome_served hurdV (hs1 ▸ hserved)
    have hr : r = h.seenLine g (leafKey leaf) line := by
      unfold State.seenLine
      simp only [r, if_neg hp] <;> rfl
    have hh : h = (s1.homeFill (leafCoh leaf) line g m).1 := if_neg hp
    rw [hr, hh, ← hm]
    cases hc : copy with
    | some l =>
      refine loadAt_refills hpeer hfull hucl (hcopy.trans hc) hp (fun hs => ?_) hv
      obtain ⟨hvalid, -, hwt⟩ := hs
      rcases hmiss l hc with h2 | hbytes | ⟨h1, hcoh⟩
      · exact hp h2
      · exact hbytes (hm ▸ hvalid)
      · exact hcoh (hwt h1)
    | none =>
      have hroom : (u.tile g).l1Victim line = none := by
        rw [htile]
        exact (Tile.l1Victim_tlbTouch ..).trans (hvic hp hc)
      exact loadAt_fills hpeer hfull (hcopy.trans hc) hroom hp hv

end Sys2Proof.Machine
end

section
/-! PROOFS. Causes (chapter 12, R289 to R295): the entry to a handler with its trap record, and the end of a context by a cause that no handler
takes. -/

namespace Sys2Proof.Machine
open Sys2Proof.Says

/-! ## The trap record (R291) -/

theorem trapRecord_fields (s : State) (g : BitVec 8) (st : Stream) (r : Raise) :
    let t := s.tile g
    let b := trapRecord s g st r
    b.extractLsb' 0 7 = r.code ∧ b.extractLsb' 7 59 = (0 : BitVec 59) ∧ b.extractLsb' 67 1 = BitVec.ofBool (st == .x) ∧
    b.extractLsb' 68 3 = (r.engine.map Eng.code).getD 0 ∧ b.extractLsb' 71 16 = t.ctx.getD 0 ∧ b.extractLsb' 87 8 = g ∧
    b.extractLsb' 100 14 = t.xpc ∧ b.extractLsb' 114 14 = t.apc ∧ b.extractLsb' 128 64 = r.tvalBits ∧
    b.extractLsb' 192 32 = t.tkMask ∧ b.extractLsb' 224 32 = t.esalt.seq ∧ b.extractLsb' 256 32 = t.ecoll.seq ∧
    b.extractLsb' 288 32 = t.emat.seq ∧ b.extractLsb' 320 32 = t.egath.seq ∧ b.extractLsb' 352 32 = t.ecopy.seq ∧
    b.extractLsb' 384 64 = t.cyc ∧ b.extractLsb' 448 64 = s.devtime := by
  dsimp only [trapRecord]
  and_intros <;>
    simp (disch := decide) only [BitVec.extractLsb'_append_eq_of_le, BitVec.extractLsb'_append_eq_right, BitVec.extractLsb'_eq_self,
      Nat.reduceSub]

/-! ## Causes without an address -/

/-- The inner cause that a bare 0x53 takes its disposition from is 0, of disposition D like its own row. -/
theorem Raise.disp_bare (c : Cause) : ({ code := c } : Raise).disp = dispOf c := by
  by_cases hc : c = 0x53
  · subst hc
    rfl
  · simp only [Raise.disp, if_neg hc, Option.isSome_none, Bool.and_false, Bool.false_and, Bool.false_eq_true, if_false]

theorem Raise.tvalBits_bare (c : Cause) : ({ code := c } : Raise).tvalBits = 0 := by
  unfold Raise.tvalBits
  split_ifs
  · dsimp only
    decide
  · rfl
  · rfl

/-! ## The handler takes a cause (R292) -/

theorem passX_csr (t : Tile) (st k : Stream) (n : Nat) : (t.passX st n).csr k = t.csr k := by cases st <;> rfl
theorem passX_tkMask (t : Tile) (st : Stream) (n : Nat) : (t.passX st n).tkMask = t.tkMask := by cases st <;> rfl

theorem handles_bare {t : Tile} {st : Stream} {c : Cause} (hd : dispOf c = .d) (hv : (t.csr st).tvec ≠ 0) (hi : (t.csr st).tin = false) :
    t.handles st { code := c } = true := by
  simp only [Tile.handles, Raise.disp_bare, hd, hi, bne_iff_ne.mpr hv, beq_self_eq_true, Bool.not_false, Bool.and_self]

/-- A cause that consumes no poison and that the handler takes changes the tile, and nothing else. -/
theorem trapped_handled {s : State} {g : BitVec 8} {st : Stream} {c : Cause} (hd : dispOf c = .d) (hp : consumesPoison c = false)
    (hv : ((s.tile g).csr st).tvec ≠ 0) (hi : ((s.tile g).csr st).tin = false) :
    trapped s g st { code := c } = s.setTile g (let u := s.modTile g fun t => t.passX st 2
      (((s.tile g).passX st 2).deliver st (trapRecord u g st { code := c }) { code := c }).count 0x0D (some st)) := by
  have hh : ((s.modTile g fun t => t.passX st 2).tile g).handles st { code := c } = true := by
    rw [State.tile_modTile]
    exact handles_bare hd (by rwa [passX_csr]) (by rwa [passX_csr])
  rw [trapped, takeCause_handled hh, if_neg (hp ▸ Bool.false_ne_true), State.tile_modTile]
  exact State.setTile_setTile ..

/-- Settles O40: the handler's entry is a delivery to the charged stream, and the record's fields are those of the tile as the word found it. -/
theorem takingACauseEntersTheHandler : Obligations.TakingACauseEntersTheHandler := by
  unfold Obligations.TakingACauseEntersTheHandler
  intro s g st c
  dsimp only
  intro hd hp hv hi
  rw [trapped_handled hd hp hv hi]
  dsimp only
  obtain ⟨hcode, hzero, hst, heng, hctx, hg, hxpc, hapc, htval, htk, hsalt, hcoll, hmat, hgath, hcopy, hcyc, htime⟩ :=
    trapRecord_fields (s.modTile g fun t => t.passX st 2) g st { code := c }
  rw [State.tile_modTile] at hctx hxpc hapc htk hsalt hcoll hmat hgath hcopy hcyc
  rw [Raise.tvalBits_bare] at htval
  generalize trapRecord (s.modTile g fun t => t.passX st 2) g st { code := c } = tr at *
  obtain ⟨pmc, ovf, wrap, hcount⟩ := Tile.count_eq (((s.tile g).passX st 2).deliver st tr { code := c }) 0x0D (some st)
  rw [hcount, State.tile_setTile]
  have others (b : Tile) : ∀ h, h ≠ g → (s.setTile g b).tile h = s.tile h := fun h hne => State.tile_setTile_of_ne s b hne
  generalize s.tile g = a at *
  cases st with
  | a =>
    rw [Tile.deliver_a]
    exact ⟨rfl, rfl, rfl, rfl, hcode, hst, heng, hctx, hg, hxpc, hapc, htval, (passX_tkMask ..) ▸ htk, hsalt, hcoll, hmat, hgath,
      hcopy, hcyc, htime, hzero, rfl, others _, rfl, rfl, rfl, rfl, rfl, rfl, rfl, rfl, rfl, rfl, rfl, rfl, rfl, rfl, rfl, rfl, rfl⟩
  | x =>
    rw [Tile.deliver_x]
    exact ⟨rfl, rfl, rfl, rfl, hcode, hst, heng, hctx, hg, hxpc, hapc, htval, (passX_tkMask ..) ▸ htk, hsalt, hcoll, hmat, hgath,
      hcopy, hcyc, htime, hzero, rfl, others _, rfl, rfl, rfl, rfl, rfl, rfl, rfl, rfl, rfl, rfl, rfl, rfl, rfl, rfl, rfl, rfl, rfl⟩

end Sys2Proof.Machine
end

section
/-! PROOFS. What nodes, their index and the messages about them (chapters 02 and 09), and what the homes of lines (chapter 10), leave as it is: the
fields that they write are set aside, and every other field stays. -/

namespace Sys2Proof.Machine

/-! ## Nodes and messages -/

/-- The state with the fields set aside that node records, the index and messages to a name's home may write. -/
def State.offNodes (s : State) : State :=
  { s with
    mem := [], poison := [], lineKey := [], ctxs := [], out := [], ports := State.reset.ports, dirReqs := [], nss := [], nsGo := false, nsCode := 0
    pools := State.reset.pools, nodes := [], index := [] }

theorem foldl_offNodes {β : Type} {f : State → β → State} (h : ∀ s x, (f s x).offNodes = s.offNodes) (l : List β) (s : State) :
    (l.foldl f s).offNodes = s.offNodes :=
  List.foldlRecOn (motive := fun t => t.offNodes = s.offNodes) l f rfl fun t ht x _ => (h t x).trans ht

theorem State.StorageOnly.offNodes {s t : State} (h : s.StorageOnly t) : t.offNodes = s.offNodes := by
  obtain ⟨_, _, _, _, rfl⟩ := h
  rfl

@[simp] theorem wrDev_offNodes (s : State) (ctx : BitVec 16) (key : BitVec 12) (pa : Nat) (bs : List Byte) (p : Bool) :
    (s.wrDev ctx key pa bs p).offNodes = s.offNodes := (wrDev_storage ..).offNodes

@[simp] theorem modCtx_offNodes (s : State) (c : BitVec 16) (f : Ctx → Ctx) : (s.modCtx c f).offNodes = s.offNodes := by
  unfold State.modCtx
  split <;> rfl

@[simp] theorem setNode_offNodes (s : State) (h : BitVec 32) (n : Node) : (s.setNode h n).offNodes = s.offNodes := by
  simp only [State.setNode, apply_ite State.offNodes, wrDev_offNodes, ite_self]
  rfl

@[simp] theorem modNode_offNodes (s : State) (h : BitVec 32) (f : Node → Node) : (s.modNode h f).offNodes = s.offNodes := setNode_offNodes ..

@[simp] theorem indexDel_offNodes (s : State) (h : BitVec 32) : (s.indexDel h).offNodes = s.offNodes :=
  foldl_offNodes (fun t _ => foldl_offNodes (fun _ _ => wrDev_offNodes ..) _ t) _ { s with index := _ }

@[simp] theorem closingRemoval_offNodes (s : State) (h : BitVec 32) : (s.closingRemoval h).offNodes = s.offNodes := by
  simp only [State.closingRemoval, apply_ite State.offNodes, setNode_offNodes, indexDel_offNodes, ite_self]

@[simp] theorem unref_offNodes (s : State) (h : BitVec 32) : (s.unref h).offNodes = s.offNodes := by
  simp only [State.unref, apply_ite State.offNodes, closingRemoval_offNodes, modNode_offNodes, ite_self]

theorem setPort_offNodes (s : State) (pn : BitVec 4) (x : Port) : (s.setPort pn x).offNodes = s.offNodes := rfl
theorem modPool_offNodes (s : State) (j : BitVec 4) (f : Pool → Pool) : (s.modPool j f).offNodes = s.offNodes := rfl

theorem sendFlit_offNodes (s : State) (pn : BitVec 4) (f : Flit) : (s.sendFlit pn f).offNodes = s.offNodes :=
  foldl_offNodes (fun t h => by
    unfold State.letGo
    cases h.node <;> cases h.src <;> simp only [setPort_offNodes, unref_offNodes]) _ (State.emit (s.setPort pn _) _)

theorem pumpGo_offNodes (pn : BitVec 4) (n : Nat) (s : State) : (State.pumpGo pn n s).offNodes = s.offNodes := by
  induction n generalizing s with
  | zero => rfl
  | succ n ih =>
    unfold State.pumpGo
    dsimp only
    split
    · rfl
    · rw [ih, sendFlit_offNodes, setPort_offNodes]

/-- A message that is sent, or that fails for want of a route. -/
theorem sendDir_getD_offNodes (s t : State) (dst : BitVec 12) (m : DirMsg) (extra : List (List Byte)) (data : List Byte)
    (ht : t.offNodes = s.offNodes) : ((s.sendDir dst m extra data).getD t).offNodes = s.offNodes := by
  unfold State.sendDir State.sendMsg
  split
  · exact ht
  · exact pumpGo_offNodes ..

theorem dirAnnounce_offNodes (s : State) (nsid : BitVec 32) (name : BitVec 128) (depth : BitVec 16) (h : Holder) :
    (s.dirAnnounce nsid name depth h).offNodes = s.offNodes := by
  unfold State.dirAnnounce
  dsimp only
  split_ifs
  · rfl
  · split
    · exact (dirPut_storage ..).offNodes
    · split
      · exact (dirPut_storage ..).offNodes
      · rfl

theorem dirDrop_offNodes (s : State) (pkg : BitVec 12) (x : Nat × DirEntry) : (s.dirDrop pkg x).offNodes = s.offNodes := by
  unfold State.dirDrop
  split
  · exact (dirPut_storage ..).offNodes
  · rfl

theorem dirWithdraw_offNodes (s : State) (nsid : BitVec 32) (name : BitVec 128) (depth : BitVec 16) (pkg : BitVec 12) :
    (s.dirWithdraw nsid name depth pkg).offNodes = s.offNodes := by
  unfold State.dirWithdraw
  split
  · exact foldl_offNodes (fun t x => dirDrop_offNodes t pkg x) _ s
  · split
    · exact dirDrop_offNodes ..
    · rfl

theorem tellHome_offNodes (s : State) (op : Byte) (nsid : BitVec 32) (name : BitVec 128) (depth : BitVec 16) (tier : BitVec 2) :
    (s.tellHome op nsid name depth tier).offNodes = s.offNodes := by
  unfold State.tellHome
  by_cases he : (!s.dirEn) = true
  · rw [if_pos he]
  rw [if_neg he]
  split
  · rfl
  · simp only [apply_ite State.offNodes, dirAnnounce_offNodes, dirWithdraw_offNodes, sendDir_getD_offNodes s (s.emit _) _ _ _ _ rfl, ite_self]

theorem nsGone_offNodes (s : State) (nsid : BitVec 32) : (s.nsGone nsid).offNodes = s.offNodes := by
  unfold State.nsGone
  split
  · rfl
  · dsimp only
    split_ifs
    · exact tellHome_offNodes ..
    · rfl
    · rfl

@[simp] theorem freeGroups_offNodes (s : State) (gs : List Group) : (s.freeGroups gs).offNodes = s.offNodes :=
  foldl_offNodes (fun t g => by dsimp only; split <;> rfl) gs s

theorem freeNode_offNodes (k : Nat) (s : State) (h : BitVec 32) : (State.freeNode k s h).offNodes = s.offNodes := by
  induction k generalizing s h with
  | zero => rfl
  | succ k ih =>
    simp only [State.freeNode, State.giveRecord, apply_ite State.offNodes, nsGone_offNodes, setNode_offNodes, modPool_offNodes, freeGroups_offNodes,
      ih, closingRemoval_offNodes, tellHome_offNodes, indexDel_offNodes, ite_self]

@[simp] theorem decRef_offNodes (s : State) (h : BitVec 32) : (s.decRef h).offNodes = s.offNodes := by
  simp only [State.decRef, apply_ite State.offNodes, freeNode_offNodes, closingRemoval_offNodes, setNode_offNodes, ite_self]

/-- A context's references are dropped. -/
theorem dropAllRefs_offNodes (s : State) (c : BitVec 16) : (s.dropAllRefs c).offNodes = s.offNodes := by
  unfold State.dropAllRefs
  split
  · rfl
  · rw [foldl_offNodes fun t _ => decRef_offNodes .., modCtx_offNodes]

/-- A command's in-flight references are dropped. -/
theorem dropHolds_offNodes (s : State) (c : Cmd) : (s.dropHolds c).offNodes = s.offNodes := by
  rw [State.dropHolds, foldl_offNodes decRef_offNodes, freeGroups_offNodes]

/-! ## Homes of lines (R245 to R256) -/

/-- The state with the fields set aside that writes at the homes and recalls of copies may write, and which images there are. -/
def State.offHomes (s : State) : State × (Nat → Bool) :=
  ({ s with
     mem := [], poison := [], lineKey := [], ctxs := [], homeDir := [], tiles := [], dies := State.reset.dies, homes := State.reset.homes
     images := [] },
   fun n => (Tab.get? s.images n).isSome)

theorem foldl_offHomes {β : Type} {f : State → β → State} (h : ∀ s x, (f s x).offHomes = s.offHomes) (l : List β) (s : State) :
    (l.foldl f s).offHomes = s.offHomes :=
  List.foldlRecOn (motive := fun t => t.offHomes = s.offHomes) l f rfl fun t ht x _ => (h t x).trans ht

theorem State.StorageOnly.offHomes {s t : State} (h : s.StorageOnly t) : t.offHomes = s.offHomes := by
  obtain ⟨_, _, _, _, rfl⟩ := h
  rfl

theorem unhold_offHomes (s : State) (line u : Nat) : (s.unhold line u).offHomes = s.offHomes := by
  unfold State.unhold
  dsimp only
  split <;> rfl

theorem setHolders_offHomes (s : State) (line : Nat) (r : HomeLine) : (s.setHolders line r).offHomes = s.offHomes := rfl

theorem landWrite_offHomes (s : State) (ctx : BitVec 16) (key : BitVec 12) (line : Nat) (m : BitVec 64) (v : BitVec 512) (p : Bool)
    (vc : Vector W64 4) : (s.landWrite ctx key line m v p vc).offHomes = s.offHomes := (wrLine_storage s ctx key line m v p).offHomes

/-- A new value of an image that there is. -/
theorem isSome_get?_set {α : Type} {t : Tab α} {n : Nat} {x : α} (h : Tab.get? t n = some x) (y : α) (m : Nat) :
    (Tab.get? (Tab.set t n y) m).isSome = (Tab.get? t m).isSome := by
  by_cases hm : m = n
  · rw [hm, Tab.get?_set_self, h]
    rfl
  · rw [Tab.get?_set_of_ne t y hm]

theorem modHolder_offHomes (s : State) (u : Nat) (f : Tile → Tile) : (s.modHolder u f).offHomes = s.offHomes := by
  unfold State.modHolder
  split
  · rfl
  · split
    · next h => exact congrArg (Prod.mk _) (funext (isSome_get?_set h _))
    · rfl

theorem invalidate_offHomes (s : State) (line u : Nat) (m : BitVec 64) : (s.invalidate line u m).offHomes = s.offHomes := by
  unfold State.invalidate
  split
  · exact unhold_offHomes ..
  · rw [apply_ite State.offHomes, unhold_offHomes, modHolder_offHomes, ite_self]

theorem clearValid_offHomes (s : State) (line : Nat) (g : Option (BitVec 8)) (m : BitVec 64) : (s.clearValid line g m).offHomes = s.offHomes :=
  foldl_offHomes (fun t h => by rw [apply_ite State.offHomes, invalidate_offHomes, ite_self]) _ s

theorem pullOwn_offHomes (s : State) (line u : Nat) : (s.pullOwn line u).offHomes = s.offHomes := by
  unfold State.pullOwn
  dsimp only
  split
  · rfl
  · refine (foldl_offHomes (fun t w => ?_) _ _).trans rfl
    split <;> simp only [unhold_offHomes, clearValid_offHomes, HomeWrite.land, landWrite_offHomes]

theorem recallOne_offHomes (s : State) (line u : Nat) : (s.recallOne line u).offHomes = s.offHomes := by
  unfold State.recallOne
  split
  · exact unhold_offHomes ..
  · dsimp only
    split_ifs <;> simp only [unhold_offHomes, setHolders_offHomes, modHolder_offHomes, State.mergeBack, landWrite_offHomes]

theorem recall_offHomes (s : State) (line : Nat) (g : Option (BitVec 8)) (m : BitVec 64) : (s.recall line g m).offHomes = s.offHomes :=
  foldl_offHomes (fun t h => by rw [apply_ite State.offHomes, recallOne_offHomes, pullOwn_offHomes, ite_self]) _ s

theorem writeHome_offHomes (s : State) (ctx : BitVec 16) (leaf : BitVec 128) (pa : Nat) (bs : List Byte) (p : Bool) :
    (s.writeHome ctx leaf pa bs p).offHomes = s.offHomes := by
  rw [State.writeHome, (wrDev_storage ..).offHomes]
  split
  · exact foldl_offHomes (fun t l => by rw [clearValid_offHomes, recall_offHomes]) _ s
  · rfl

/-- A write of a unit outside the tiles. -/
theorem devWrite_offHomes (s : State) (ctx : BitVec 16) (va : W64) (bs : List PByte) : (s.devWrite ctx va bs).offHomes = s.offHomes :=
  foldl_offHomes (fun t p => by
    dsimp only
    split
    · exact writeHome_offHomes ..
    · rfl) _ s

/-- The uses of a launch's handles are counted (R150). -/
theorem countUsers_offHomes (s : State) (hs : List (BitVec 14)) (up : Bool) : (s.countUsers hs up).offHomes = s.offHomes :=
  foldl_offHomes (fun t h => by
    unfold State.modRes
    split
    · rfl
    · exact devWrite_offHomes ..) hs s

end Sys2Proof.Machine
end

section
/-! PROOFS. The end of a context (R295): what it does to the tiles, the queues and the contexts, and that no record that waits is lost. -/

namespace Sys2Proof.Machine
open Sys2Proof.Says

/-! ## What no stage of a context's end undoes -/

/-- A tile that is captured and discarded: free, without a context, in class 0. -/
def Tile.Discarded (t : Tile) : Prop := t.ctx = none ∧ t.ist = .none ∧ t.sclass = 0

theorem Tile.Discarded.l1Only {t u : Tile} (h : t.Discarded) (hu : t.L1Only u) : u.Discarded := by
  obtain ⟨_, rfl, -⟩ := hu
  exact h

/-- Discarded tiles, disabled queues and waiting records stay so. -/
structure State.Keeps (s t : State) : Prop where
  discarded : ∀ h, (s.tile h).Discarded → (t.tile h).Discarded
  shut : ∀ q, (s.queue q).en = false → (t.queue q).en = false
  waiting : ∀ c w, w ∈ (s.ring c).waiting → w ∈ (t.ring c).waiting

theorem State.Keeps.refl (s : State) : s.Keeps s := ⟨fun _ => id, fun _ => id, fun _ _ => id⟩

theorem State.Keeps.trans {s t u : State} (h1 : s.Keeps t) (h2 : t.Keeps u) : s.Keeps u :=
  ⟨fun h hd => h2.discarded h (h1.discarded h hd), fun q hq => h2.shut q (h1.shut q hq), fun c w hw => h2.waiting c w (h1.waiting c w hw)⟩

theorem State.Keeps.foldl {α : Type} {f : State → α → State} (h : ∀ (s : State) x, s.Keeps (f s x)) (l : List α) (s : State) :
    s.Keeps (l.foldl f s) :=
  List.foldlRecOn l f (.refl s) fun t ht x _ => ht.trans (h t x)

/-- An update that touches none of these tables. -/
theorem State.Keeps.of_tables {s t : State} (ht : t.tiles = s.tiles) (hq : t.queues = s.queues) (hr : t.rings = s.rings) : s.Keeps t := by
  constructor
  · intro h hd
    rwa [State.tile, ht]
  · intro q hen
    rwa [State.queue, hq]
  · intro c w hw
    rwa [State.ring, hr]

/-- Node records, the index and messages lie in none of these tables. -/
theorem offNodes_tables {s t : State} (h : t.offNodes = s.offNodes) : t.tiles = s.tiles ∧ t.queues = s.queues ∧ t.rings = s.rings := by
  have ht := congrArg State.tiles h
  have hq := congrArg State.queues h
  have hr := congrArg State.rings h
  exact ⟨ht, hq, hr⟩

theorem keeps_of_offNodes {s t : State} (h : t.offNodes = s.offNodes) : s.Keeps t := by
  obtain ⟨ht, hq, hr⟩ := offNodes_tables h
  exact .of_tables ht hq hr

theorem modTile_keeps {s : State} {g : BitVec 8} {f : Tile → Tile} (h : (s.tile g).Discarded → (f (s.tile g)).Discarded) :
    s.Keeps (s.modTile g f) := by
  refine ⟨fun k hk => ?_, fun _ => id, fun _ _ => id⟩
  by_cases hkg : k = g
  · rw [hkg, State.tile_modTile]
    exact h (hkg ▸ hk)
  · rwa [State.tile_modTile_of_ne _ _ hkg]

theorem setQueue_keeps {s : State} {n : BitVec 10} {x : Queue} (h : x.en = (s.queue n).en) : s.Keeps (s.setQueue n x) := by
  refine ⟨fun _ => id, fun q hq => ?_, fun _ _ => id⟩
  by_cases hqn : q = n
  · rw [hqn, State.queue_setQueue, h, ← hqn, hq]
  · rwa [State.queue_setQueue_of_ne _ _ hqn]

/-- A completion record waits behind those that wait already (R89). -/
theorem pushCompl_keeps (s : State) (n : BitVec 10) (b : BitVec 512) (i w : Bool) : s.Keeps (s.pushCompl n b i w) := by
  refine ⟨fun _ => id, fun _ => id, fun c x hx => ?_⟩
  unfold State.pushCompl
  by_cases hc : c = (s.queue n).cring.toNat
  · rw [← hc, State.ring_modRing]
    split
    · exact List.mem_append_left _ hx
    · exact hx
  · rwa [State.modRing, State.ring_setRing_of_ne _ _ hc]

theorem modCtx_keeps (s : State) (c : BitVec 16) (f : Ctx → Ctx) : s.Keeps (s.modCtx c f) :=
  keeps_of_offNodes (modCtx_offNodes s c f)

theorem complete_keeps (s : State) (p : Packet) (st : Byte) (r : W64) (w : Bool) : s.Keeps (s.complete p st r w) := by
  unfold State.complete
  extract_lets h q s1 s2
  have h1 : s.Keeps s1 := setQueue_keeps rfl
  have h2 : s.Keeps s2 := by
    refine h1.trans ?_
    unfold s2
    split
    · exact modCtx_keeps ..
    · exact .refl _
  split
  · exact h2.trans (pushCompl_keeps ..)
  · exact h2

theorem countUsers_keeps (s : State) (hs : List (BitVec 14)) (up : Bool) : s.Keeps (s.countUsers hs up) := by
  have hside : s.HomeSide (s.countUsers hs up) := .foldl (fun _ _ => modRes_homeSide ..) hs s
  have hrings : (s.countUsers hs up).rings = s.rings := congrArg (fun x => State.rings x.1) (countUsers_offHomes s hs up)
  refine ⟨fun h hd => hd.l1Only (hside.tile h), fun q hq => ?_, fun c w hw => ?_⟩
  · rwa [hside.queue]
  · rwa [State.ring, hrings]

/-- A launch that leaves the package: the tiles that it held stay as they are or become free (R137). -/
theorem finishLaunch_keeps (s : State) (l : Launch) (st : Byte) : s.Keeps (s.finishLaunch l st) := by
  unfold State.finishLaunch
  extract_lets s1 s2 s3 s4
  have h1 : s.Keeps s1 := by
    unfold s1
    split
    · exact countUsers_keeps ..
    · exact .refl _
  have h2 : s1.Keeps s2 := .foldl (fun t g => modTile_keeps fun hd => ⟨hd.1, rfl, rfl⟩) _ s1
  have h3 : s2.Keeps s3 := .of_tables rfl rfl rfl
  exact h1.trans (h2.trans (h3.trans ((complete_keeps ..).trans (.of_tables rfl rfl rfl))))

theorem foldl_dropHolds_offNodes (l : List Cmd) (s : State) : (l.foldl State.dropHolds s).offNodes = s.offNodes :=
  foldl_offNodes dropHolds_offNodes l s

theorem dropImage_keeps (s : State) (n : Nat) : s.Keeps (s.dropImage n) := by
  unfold State.dropImage
  split
  · exact .refl _
  · exact (keeps_of_offNodes (foldl_dropHolds_offNodes ..)).trans (.of_tables rfl rfl rfl)

theorem discardTile_eq (s : State) (g : BitVec 8) : ∃ u : State, s.discardTile g = u.setTile g Tile.reset ∧
    u.tiles = s.tiles ∧ u.queues = s.queues ∧ u.rings = s.rings := by
  obtain ⟨ht, hq, hr⟩ := offNodes_tables (foldl_dropHolds_offNodes (s.tile g).cmds (s.forgetAsks g))
  exact ⟨_, rfl, ht, hq, hr⟩

theorem reset_discarded : Tile.reset.Discarded := ⟨rfl, rfl, rfl⟩

theorem discardTile_keeps (s : State) (g : BitVec 8) : s.Keeps (s.discardTile g) := by
  obtain ⟨u, hu, ht, hq, hr⟩ := discardTile_eq s g
  rw [hu]
  exact (State.Keeps.of_tables ht hq hr).trans (modTile_keeps (f := fun _ => Tile.reset) fun _ => reset_discarded)

theorem discardTile_self (s : State) (g : BitVec 8) : ((s.discardTile g).tile g).Discarded := by
  obtain ⟨u, hu, -⟩ := discardTile_eq s g
  rw [hu, State.tile_setTile]
  exact reset_discarded

theorem foldl_discardTile_discards {h : BitVec 8} {l : List (BitVec 8)} (hl : h ∈ l) (s : State) :
    ((l.foldl State.discardTile s).tile h).Discarded := by
  induction l generalizing s with
  | nil => cases hl
  | cons g r ih =>
    rcases List.mem_cons.mp hl with rfl | hr
    · exact (State.Keeps.foldl discardTile_keeps r _).discarded h (discardTile_self s h)
    · exact ih hr _

/-! ## The stages (R295) -/

/-- The context's tiles are discarded and its references dropped. -/
def State.tilesGone (s : State) (c : BitVec 16) : State :=
  ((s.tilesWith fun t => t.ctx == some c).foldl State.discardTile s).dropAllRefs c

/-- The context's queues are disabled too. -/
def State.queuesShut (s : State) (c : BitVec 16) : State :=
  { s.tilesGone c with
    queues := (s.tilesGone c).queues.map fun (e : Nat × Queue) => (e.1, if e.2.ctx == c then { e.2 with en := false } else e.2) }

/-- What is left of a context's end once its launches have left and its images are discarded. -/
theorem endContext_keeps (s : State) (c : BitVec 16) (cause : Cause) : (s.queuesShut c).Keeps (s.endContext c cause) := by
  have hlaunches (l : List (Nat × Launch)) (t : State) : t.Keeps (l.foldl (fun s e => s.finishLaunch e.2 (endStatus cause)) t) :=
    .foldl (fun _ _ => finishLaunch_keeps ..) l t
  unfold State.endContext
  extract_lets gone refs shut launches images grans
  have himages : (s.queuesShut c).Keeps images := (hlaunches _ shut).trans (.foldl dropImage_keeps _ launches)
  have hgrans : images.Keeps grans := .of_tables rfl rfl rfl
  split
  · exact himages.trans (hgrans.trans (modCtx_keeps ..))
  · exact himages.trans (hgrans.trans (.of_tables rfl rfl rfl))

theorem Tab.mem_of_get? {α : Type} {t : Tab α} {n : Nat} {x : α} (h : Tab.get? t n = some x) : (n, x) ∈ t := by
  induction t with
  | nil => cases h
  | cons e r ih =>
    obtain ⟨k, y⟩ := e
    by_cases hk : k = n
    · rw [Tab.get?, if_pos hk] at h
      cases h
      exact hk ▸ List.mem_cons_self
    · rw [Tab.get?, if_neg hk] at h
      exact List.mem_cons_of_mem _ (ih h)

/-- A tile that meets a condition which a tile after reset does not is in the table. -/
theorem mem_tilesWith_of {s : State} {p : Tile → Bool} {g : BitVec 8} (h : p (s.tile g) = true) (hr : p Tile.reset = false) :
    g ∈ s.tilesWith p := by
  unfold State.tile Tab.get at h
  cases ht : Tab.get? s.tiles g.toNat with
  | none => rw [ht, Option.getD_none, hr] at h; cases h
  | some t =>
    rw [ht, Option.getD_some] at h
    exact List.mem_map.mpr ⟨(g.toNat, t), List.mem_filter.mpr ⟨Tab.mem_of_get? ht, h⟩, (BitVec.ofNat_toNat ..).trans (BitVec.setWidth_eq ..)⟩

theorem tilesGone_keeps (s : State) (c : BitVec 16) : s.Keeps (s.tilesGone c) :=
  (State.Keeps.foldl discardTile_keeps _ s).trans (keeps_of_offNodes (dropAllRefs_offNodes ..))

theorem tilesGone_discarded {s : State} {c : BitVec 16} {h : BitVec 8} (hc : (s.tile h).ctx = some c) : ((s.tilesGone c).tile h).Discarded := by
  have hmem : h ∈ s.tilesWith fun t => t.ctx == some c := mem_tilesWith_of (by rw [hc]; exact beq_self_eq_true _) rfl
  exact (keeps_of_offNodes (dropAllRefs_offNodes ..)).discarded h (foldl_discardTile_discards hmem s)

theorem tilesGone_queues (s : State) (c : BitVec 16) : (s.tilesGone c).queues = s.queues :=
  (offNodes_tables (dropAllRefs_offNodes ..)).2.1.trans
    (List.foldlRecOn (motive := fun t : State => t.queues = s.queues) _ State.discardTile rfl fun t ht g _ => by
      obtain ⟨u, hu, -, hq, -⟩ := discardTile_eq t g
      rw [hu]
      exact hq.trans ht)

theorem queuesShut_queue (s : State) (c : BitVec 16) (q : BitVec 10) (h : (s.queue q).ctx = c) : ((s.queuesShut c).queue q).en = false := by
  have hmap : Tab.get? (s.queuesShut c).queues q.toNat =
      (Tab.get? s.queues q.toNat).map fun x => if x.ctx == c then { x with en := false } else x := by
    rw [← tilesGone_queues s c]
    exact Tab.get?_map (fun x : Queue => if x.ctx == c then { x with en := false } else x) ..
  unfold State.queue Tab.get at h ⊢
  rw [hmap]
  cases hq : Tab.get? s.queues q.toNat with
  | none => rfl
  | some x =>
    rw [hq, Option.getD_some] at h
    rw [Option.map_some, Option.getD_some, h, beq_self_eq_true, if_pos rfl]

/-! ## A context's end -/

theorem endContext_discards {s : State} {c : BitVec 16} {h : BitVec 8} (hc : (s.tile h).ctx = some c) (cause : Cause) :
    ((s.endContext c cause).tile h).Discarded :=
  (endContext_keeps s c cause).discarded h (tilesGone_discarded hc)

theorem endContext_shuts {s : State} {c : BitVec 16} {q : BitVec 10} (h : (s.queue q).ctx = c) (cause : Cause) :
    ((s.endContext c cause).queue q).en = false :=
  (endContext_keeps s c cause).shut q (queuesShut_queue s c q h)

theorem endContext_waiting {s : State} {n : Nat} {w : PendRec} (h : w ∈ (s.ring n).waiting) (c : BitVec 16) (cause : Cause) :
    w ∈ ((s.endContext c cause).ring n).waiting :=
  (endContext_keeps s c cause).waiting n w ((tilesGone_keeps s c).waiting n w h)

theorem dropAllRefs_hasCtx (s : State) (c : BitVec 16) : (s.dropAllRefs c).hasCtx = s.hasCtx := by
  unfold State.dropAllRefs
  split
  · rfl
  · rw [foldl_hasCtx fun t _ => (decRef_fewer t _).hasCtx, modCtx_hasCtx]

theorem complete_hasCtx (s : State) (p : Packet) (st : Byte) (r : W64) (w : Bool) : (s.complete p st r w).hasCtx = s.hasCtx := by
  have hpush (t : State) (q : BitVec 10) (b : BitVec 512) (i u : Bool) : (t.pushCompl q b i u).hasCtx = t.hasCtx := rfl
  have hset (t : State) (q : BitVec 10) (x : Queue) : (t.setQueue q x).hasCtx = t.hasCtx := rfl
  simp only [State.complete, apply_ite State.hasCtx, hpush, modCtx_hasCtx, hset, ite_self]

theorem finishLaunch_hasCtx (s : State) (l : Launch) (st : Byte) : (s.finishLaunch l st).hasCtx = s.hasCtx := by
  unfold State.finishLaunch
  extract_lets s1 s2 s3 s4
  have h1 : s1.hasCtx = s.hasCtx := by rw [show s1 = _ from rfl, apply_ite State.hasCtx, countUsers_hasCtx, ite_self]
  have h2 : s2.hasCtx = s1.hasCtx := foldl_hasCtx (by intros; rfl) _ s1
  exact (complete_hasCtx s3 ..).trans (h2.trans h1)

/-- The context of the end leaves the package, firmware's excepted; no other leaves, and none comes (R295, log entry 8). -/
theorem endContext_hasCtx (s : State) (c : BitVec 16) (cause : Cause) (d : BitVec 16) :
    (s.endContext c cause).hasCtx d = (s.hasCtx d && (c == 0 || d != c)) := by
  have hlaunches (l : List (Nat × Launch)) (t : State) : (l.foldl (fun s e => s.finishLaunch e.2 (endStatus cause)) t).hasCtx = t.hasCtx :=
    foldl_hasCtx (fun _ _ => finishLaunch_hasCtx ..) l t
  unfold State.endContext
  extract_lets gone refs shut launches images grans
  have hgrans : grans.hasCtx = s.hasCtx :=
    calc grans.hasCtx
      _ = launches.hasCtx := foldl_hasCtx dropImage_hasCtx _ launches
      _ = shut.hasCtx := hlaunches _ shut
      _ = gone.hasCtx := dropAllRefs_hasCtx gone c
      _ = s.hasCtx := foldl_hasCtx discardTile_hasCtx _ s
  split
  · next hc =>
    rw [modCtx_hasCtx, hgrans, hc]
    exact (Bool.and_true _).symm
  · next hc =>
    rw [← hgrans, beq_false_of_ne hc, Bool.false_or]
    by_cases hd : d = c
    · rw [hd, bne_self_eq_false, Bool.and_false]
      exact congrArg Option.isSome (Tab.get?_erase_self ..)
    · rw [bne_iff_ne.mpr hd, Bool.and_true]
      exact congrArg Option.isSome (Tab.get?_erase_of_ne _ fun e => hd (BitVec.eq_of_toNat_eq e))

theorem ctx?_of_hasCtx {s : State} {c : BitVec 16} (h : s.hasCtx c = false) : s.ctx? c = none :=
  Option.isNone_iff_eq_none.mp (Option.isSome_eq_false_iff.mp h)

/-! ## A cause that ends its context -/

/-- A cause that the handler does not take (R289, R293). -/
theorem handles_bare_false {t : Tile} {st : Stream} {c : Cause} (h : dispOf c ≠ .d ∨ (t.csr st).tvec = 0 ∨ (t.csr st).tin = true) :
    t.handles st { code := c } = false := by
  rw [Tile.handles, Raise.disp_bare]
  rcases h with h | h | h
  · rw [beq_false_of_ne h, Bool.false_and, Bool.false_and]
  · rw [h, bne_self_eq_false, Bool.and_false, Bool.false_and]
  · rw [h, Bool.not_true, Bool.and_false]

/-- Tiles stop. -/
theorem stopGroup_tiles (s : State) (g : BitVec 8) : ∃ l, s.stopGroup g = { s with tiles := l } := by
  unfold State.stopGroup
  dsimp only
  refine List.foldlRecOn (motive := fun t => ∃ l, t = { s with tiles := l }) _ _ ?_ ?_
  · exact ⟨_, rfl⟩
  · rintro t ⟨l, rfl⟩ h -
    exact ⟨_, rfl⟩

theorem modTile_ctx {s : State} {f : Tile → Tile} (hf : ∀ t, (f t).ctx = t.ctx) (g h : BitVec 8) :
    ((s.modTile g f).tile h).ctx = (s.tile h).ctx := by
  by_cases hg : h = g
  · rw [hg, State.tile_modTile, hf]
  · rw [State.tile_modTile_of_ne _ _ hg]

/-- A tile that stops keeps its context. -/
theorem stopGroup_ctx (s : State) (g h : BitVec 8) : ((s.stopGroup g).tile h).ctx = (s.tile h).ctx := by
  unfold State.stopGroup
  dsimp only
  refine List.foldlRecOn (motive := fun t : State => (t.tile h).ctx = (s.tile h).ctx) _ _ (modTile_ctx (by intro; rfl) g h) fun t ht k _ => ?_
  exact (modTile_ctx (by intro; rfl) k h).trans ht

/-- With room in the error ring's block a record waits there (R316). -/
theorem raiseErr_waits {s : State} {e : ErrRec} (h : (s.ring errRing).waiting.length < 64) :
    ∃ w ∈ ((s.raiseErr e).ring errRing).waiting, w.bits = e.bits s.devtime := by
  unfold State.raiseErr
  dsimp only
  rw [if_pos h, State.ring_setRing]
  exact ⟨_, List.mem_append_right _ List.mem_cons_self, rfl⟩

/-- The state in which a cause's context ends: the record waits, the trap record is written, and the tile and its group have stopped. -/
def State.fallen (s : State) (g : BitVec 8) (st : Stream) (r : Raise) : State :=
  ((s.raiseErr (causeRec s g st r true)).setTile g
    ((s.tile g).setCsr st { (s.tile g).csr st with trec := trapRecord s g st r })).stopGroup g

theorem fallen_eq (s : State) (g : BitVec 8) (st : Stream) (r : Raise) :
    ∃ l, s.fallen g st r = { s.raiseErr (causeRec s g st r true) with tiles := l } := by
  obtain ⟨l, hl⟩ := stopGroup_tiles ((s.raiseErr (causeRec s g st r true)).setTile g
    ((s.tile g).setCsr st { (s.tile g).csr st with trec := trapRecord s g st r })) g
  exact ⟨l, hl⟩

theorem fallen_ctx (s : State) (g : BitVec 8) (st : Stream) (r : Raise) (h : BitVec 8) : ((s.fallen g st r).tile h).ctx = (s.tile h).ctx := by
  have hset := modTile_ctx (s := s.raiseErr (causeRec s g st r true)) (f := fun t => t.setCsr st { t.csr st with trec := trapRecord s g st r })
    (fun t => Tile.setCsr_ctx ..) g h
  rw [State.modTile, raiseErr_tile, raiseErr_tile] at hset
  exact (stopGroup_ctx ..).trans hset

theorem fallen_queue (s : State) (g : BitVec 8) (st : Stream) (r : Raise) (q : BitVec 10) : (s.fallen g st r).queue q = s.queue q := by
  obtain ⟨l, hl⟩ := fallen_eq s g st r
  obtain ⟨_, _, _, hr⟩ := raiseErr_eq s (causeRec s g st r true)
  rw [hl, hr]
  rfl

theorem fallen_ring (s : State) (g : BitVec 8) (st : Stream) (r : Raise) (n : Nat) :
    (s.fallen g st r).ring n = (s.raiseErr (causeRec s g st r true)).ring n := by
  obtain ⟨l, hl⟩ := fallen_eq s g st r
  rw [hl]
  rfl

/-- Settles O41, for the cause as its statement has it: one that no handler takes and no checkpoint answers, other than 0x53. -/
theorem causesThatEndTheContext : Obligations.CausesThatEndTheContext := by
  unfold Obligations.CausesThatEndTheContext
  intro s g st c
  dsimp only
  intro _ hh hb _ hroom
  let u := s.modTile g fun t => t.passX st 2
  have hu : u.tile g = (s.tile g).passX st 2 := State.tile_modTile ..
  have huctx (h : BitVec 8) : (u.tile h).ctx = (s.tile h).ctx := modTile_ctx (fun t => Tile.passX_ctx ..) g h
  have hhandles : (u.tile g).handles st { code := c } = false := hu ▸ handles_bare_false (by rwa [passX_csr])
  have hback : ((({ code := c } : Raise).disp == .e) && u.rollsBack ((u.tile g).ctx.getD 0)) = false := by
    rw [Raise.disp_bare, huctx]
    by_cases he : dispOf c = .e
    · exact (congrArg _ (hb he)).trans (Bool.and_false _)
    · rw [beq_false_of_ne he, Bool.false_and]
  have hend : trapped s g st { code := c } = (u.fallen g st { code := c }).endContext ((s.tile g).ctx.getD 0) c := by
    rw [← huctx g]
    exact takeCause_ends hhandles hback
  rw [hend]
  obtain ⟨w, hw, hbits⟩ := raiseErr_waits (s := u) (e := causeRec u g st { code := c } true) hroom
  refine ⟨fun h hc => endContext_discards ?_ c, fun q hq => endContext_shuts ?_ c, fun hx => ?_, w, ?_,
    causeRec u g st { code := c } true, rfl, rfl, ?_, ?_, ?_, hbits⟩
  · rw [fallen_ctx, huctx, hc]
  · rw [fallen_queue]
    exact hq
  · refine ctx?_of_hasCtx ?_
    rw [endContext_hasCtx, bne_self_eq_false, Bool.or_false, beq_false_of_ne hx, Bool.and_false]
  · exact endContext_waiting (by rwa [fallen_ring]) ..
  · exact congrArg (·.getD 0) (huctx g)
  · exact (congrArg Tile.apc hu).trans (Tile.passX_apc ..)
  · exact (congrArg Tile.xpc hu).trans (Tile.passX_xpc ..)

/-! ## Events of errors, checkers, counters and debug -/

/-- The contexts that had a tile when the rails fell (R44). -/
def State.tileCtxs (s : State) : List (BitVec 16) := (s.tiles.filterMap fun e => e.2.ctx).eraseDups

/-- Cause 0x75 is recorded for a context, and the context ends (R290). -/
def State.powerEnd (s : State) (c : BitVec 16) : State :=
  (s.raiseErr { ctx := c, srcKind := 8, sev := 3, cause := some 0x75, ended := true }).endContext c 0x75

theorem powerEnd_hasCtx (s : State) (c d : BitVec 16) : (s.powerEnd c).hasCtx d = (s.hasCtx d && (c == 0 || d != c)) := by
  rw [State.powerEnd, endContext_hasCtx, raiseErr_hasCtx]

theorem foldl_powerEnd_ends {d : BitVec 16} (h0 : d ≠ 0) (l : List (BitVec 16)) (s : State) (h : d ∈ l ∨ s.hasCtx d = false) :
    (l.foldl State.powerEnd s).hasCtx d = false := by
  induction l generalizing s with
  | nil => exact h.resolve_left List.not_mem_nil
  | cons c r ih =>
    refine ih _ ?_
    rw [powerEnd_hasCtx]
    rcases h with h | h
    · rcases List.mem_cons.mp h with rfl | hr
      · exact .inr (by rw [bne_self_eq_false, Bool.or_false, beq_false_of_ne h0, Bool.and_false])
      · exact .inl hr
    · exact .inr (by rw [h, Bool.false_and])

theorem foldl_powerEnd_railsOff (l : List (BitVec 16)) (s : State) : (l.foldl State.powerEnd s).railsOff = s.railsOff := by
  have h := congrArg State.railsOff (foldl_beside (f := State.powerEnd) (fun t c => (endContext_beside ..).trans (raiseErr_beside ..)) l s)
  exact h

theorem tileCtxs_mem {s : State} {h : BitVec 8} {d : BitVec 16} (hd : (s.tile h).ctx = some d) : d ∈ s.tileCtxs := by
  obtain ⟨e, he, hp, -⟩ := mem_tilesWith (mem_tilesWith_of (p := fun t => t.ctx == some d) (by rw [hd]; exact beq_self_eq_true _) rfl)
  exact List.mem_eraseDups.mpr (List.mem_filterMap.mpr ⟨e, he, eq_of_beq hp⟩)

/-- An address that the return of power keeps lies in no tile (R44). -/
def survivesPower (a : Nat) : Bool := decide (a < 2 ^ 50) || (decide (2 ^ 51 ≤ a) && decide (a < 2 ^ 53)) || decide (hostBase ≤ a)

theorem survivesPower_spad {a : Nat} (h1 : 2 ^ 50 ≤ a) (h2 : a < 2 ^ 51) : survivesPower a = false := by
  have hh : hostBase = 2 ^ 64 := rfl
  simp only [survivesPower, Bool.or_eq_false_iff, Bool.and_eq_false_iff, decide_eq_false_iff_not]
  omega

theorem powerReturn_returns {s : State} (h : s.railsOff = true) :
    exec .powerReturn s = .next (let u := s.tileCtxs.foldl State.powerEnd { s with railsOff := false }
      { u with
        tiles := [], mem := u.mem.filter fun c => survivesPower c.1, poison := u.poison.filter fun l => survivesPower (64 * l)
        homeDir := u.homeDir.map fun (e : Nat × HomeLine) => (e.1, { e.2 with holders := e.2.holders.filter fun h => 256 ≤ h.1 }) }) := by
  show execPowerReturn s = _
  unfold execPowerReturn event
  dsimp only
  rw [h]
  rfl

section
variable {s : State} {g : BitVec 8} (hup : s.railsOff = false) (hlive : (s.tile g).live = true)
include hup hlive

theorem debugHaltRequest_halts (hd : s.debug = true) (st : Stream) :
    exec (.debugHaltRequest g st) s = .next (s.takeCause g st { code := 0x70 }) := by
  show execDebugHaltRequest g st s = _
  rw [execDebugHaltRequest, powered_on _ hup, hd, hlive]
  rfl

theorem checkerMismatchReplay_again (st : Option Stream) : exec (.checkerMismatchReplay g st true) s = .next (match st with
    | some st => s.takeCause g st { code := 0x40 }
    | none => match (s.tile g).emat.running with
      | [] => s
      | c :: _ => s.takeCause g .x { code := 0x42, engine := some .matrix, seq := c.seq }) := by
  show execCheckerMismatchReplay g st true s = _
  rw [execCheckerMismatchReplay, powered_on _ hup]
  dsimp only
  rw [hlive]
  rfl

theorem registerRegeneration_fails (r : RegName) :
    exec (.registerRegeneration g r true) s = .next (s.takeCause g (RegName.stream r) { code := 0x41 }) := by
  show execRegisterRegeneration g r true s = _
  rw [execRegisterRegeneration, powered_on _ hup]
  dsimp only
  rw [hlive]
  rfl

theorem queueDeadlock_x (hx : s.queueStalled g .x = true) (ha : s.queueStalled g .a = true ∨ (s.tile g).astep = true) :
    exec (.queueDeadlock g) s = .next (s.takeCause g .x { code := 0x5E }) := by
  have hor : (s.queueStalled g .a || (s.tile g).astep) = true := Bool.or_eq_true_iff.mpr ha
  show execQueueDeadlock g s = _
  rw [execQueueDeadlock, powered_on _ hup]
  simp only [hlive, hx, hor, Bool.not_true, Bool.false_eq_true, if_false, Bool.and_self, if_true]

theorem queueDeadlock_a (hx : s.queueStalled g .x = false) (ha : s.queueStalled g .a = true) (hs : (s.tile g).xstep = true) :
    exec (.queueDeadlock g) s = .next (s.takeCause g .a { code := 0x5E }) := by
  show execQueueDeadlock g s = _
  rw [execQueueDeadlock, powered_on _ hup]
  simp only [hlive, hx, ha, hs, Bool.not_true, Bool.false_eq_true, if_false, Bool.false_and, Bool.and_self, if_true]

/-- The oldest wrap that its stream is charged with raises its cause (R456). -/
theorem performanceCounterWrap_delivers {j : BitVec 3} {st : Stream} (hst : (s.tile g).wrapStream j = st)
    (hj : ((s.tile g).pmwrap.find? fun k => (s.tile g).wrapStream k == st) = some j) (hin : ((s.tile g).csr st).tin = false) :
    exec (.performanceCounterWrap g j) s =
      .next ((s.setTile g { s.tile g with pmwrap := (s.tile g).pmwrap.erase j }).takeCause g st { code := 0x71 }) := by
  have hmem : (s.tile g).pmwrap.contains j = true := List.contains_iff_mem.mpr (List.mem_of_find?_eq_some hj)
  show execPerformanceCounterWrap g j s = _
  rw [execPerformanceCounterWrap, powered_on _ hup]
  simp only [hmem, if_true, hst, State.deliverWrap, hlive, hin, hj, Bool.not_true, Bool.or_self, Bool.false_eq_true, if_false]

end

theorem debugHaltRequest_disabled {s : State} (h : s.debug = false) (g : BitVec 8) (st : Stream) : exec (.debugHaltRequest g st) s = .next s := by
  show execDebugHaltRequest g st s = _
  simp only [execDebugHaltRequest, powered, event, h, Bool.false_and, Bool.false_eq_true, if_false, ite_self]

theorem checkerMismatchReplay_replays (s : State) (g : BitVec 8) (st : Option Stream) : exec (.checkerMismatchReplay g st false) s = .next s := by
  show execCheckerMismatchReplay g st false s = _
  simp only [execCheckerMismatchReplay, powered, event, Bool.not_false, Bool.or_true, if_true, ite_self]

/-- A register whose last copy was read by the newest logged instruction is regenerated (R313). -/
theorem registerRegeneration_regenerates {s : State} {g : BitVec 8} {b : R5} {e : LogEntry} {l : List LogEntry}
    (hl : (s.tile g).alogOps = e :: l) (he : RegName.a b ∈ e.reads) : exec (.registerRegeneration g (.a b) false) s = .next s := by
  have hreg : regenerable (.a b) ((s.tile g).opLog (RegName.stream (.a b))) = true := by
    show regenerable (.a b) (s.tile g).alogOps = true
    rw [hl, regenerable, List.contains_iff_mem.mpr he, Bool.or_true, Bool.true_or]
  show execRegisterRegeneration g (.a b) false s = _
  simp only [execRegisterRegeneration, powered, event, hreg, Bool.not_false, Bool.and_self, Bool.or_true, if_true, ite_self]

theorem contextEnd_ends {s : State} {d : BitVec 16} {c : Ctx} (h : s.ctx? d = some c) (fn : BitVec 8) :
    exec (.contextEnd d fn) s = .next ((s.raiseErr
      { ctx := d, srcId := fn.setWidth 16, srcKind := 9, sev := 3, cause := some 0x73, ended := true }).endContext d 0x73) := by
  show execContextEnd d fn s = _
  rw [execContextEnd, event, State.driverEnd, h]
  rfl

/-- Settles O42, event by event. That the return of power ends each context that had a tile, and that cluster and staging memory outlast it, is the
choice of log 23. -/
theorem errorAndDebugEvents : Obligations.ErrorAndDebugEvents := by
  unfold Obligations.ErrorAndDebugEvents
  intro s g st j r c fn
  dsimp only
  refine ⟨rfl, fun hd hup => debugHaltRequest_halts hup.1 hup.2 hd st, fun hd => debugHaltRequest_disabled hd g st,
    checkerMismatchReplay_replays s g (some st), fun hup => checkerMismatchReplay_again hup.1 hup.2 (some st), fun m l hup hm => ?_, ?_,
    fun hup => ?_, fun hup hx ha => queueDeadlock_x hup.1 hup.2 hx ha, fun hup hx ha hs => queueDeadlock_a hup.1 hup.2 hx ha hs,
    fun hup hj hin => performanceCounterWrap_delivers hup.1 hup.2 rfl hj hin, rfl, rfl, fun d hd => contextEnd_ends hd fn, fun hoff => ?_⟩
  · rw [checkerMismatchReplay_again hup.1 hup.2 none, hm]
  · rintro b ⟨e, l, hl, he⟩
    exact registerRegeneration_regenerates hl he
  · rw [registerRegeneration_fails hup.1 hup.2]
    cases r <;> rfl
  · refine ⟨_, powerReturn_returns hoff, foldl_powerEnd_railsOff _ _, rfl, fun a h1 h2 x hx => ?_, fun h d hd h0 => ?_⟩
    · have hkept := (List.mem_filter.mp hx).2
      rw [survivesPower_spad h1 h2] at hkept
      cases hkept
    · exact ctx?_of_hasCtx (foldl_powerEnd_ends h0 _ _ (.inl (tileCtxs_mem hd)))

end Sys2Proof.Machine
end

section
/-! PROOFS. RESTORE (R300, R301, R470): its descriptor, its answer, and what the tile and the image area hold after it. -/

namespace Sys2Proof.Machine
open Sys2Proof.Says

/-! ## The descriptor and the answer of a request (R470) -/

/-- Step 1 of a request reads its descriptor, when its register, its address and the tile's claims allow it. -/
theorem dcDesc_reads {s u : State} {g : BitVec 8} {r : R5} {n : Nat} {va : W64} {pa : Nat} {leaf : BitVec 128} {d : Nat}
    (h : Descriptor s g r n u va pa leaf d) : s.dcDesc g r n = .ok (va, d, u) := by
  obtain ⟨-, hreg, halign, -, hclaims, hu, hread, hwrite, hd⟩ := h
  rw [← rdA_eq_scalar] at hreg
  unfold State.dcDesc
  simp only [hreg, alignTo, halign, if_true, raiseIf, Bool.false_eq_true, if_false, hclaims, List.isEmpty_nil, Bool.not_true, waitIf, Bind.bind,
    Except.bind, ← hu, xlA_reaches hread, xlA_reaches hwrite, hd]

/-- A die controller's write changes no tile but for its L1D copies, and which images there are not at all. -/
structure State.Answers (s t : State) : Prop where
  side : s.HomeSide t
  images : ∀ n, (Tab.get? t.images n).isSome = (Tab.get? s.images n).isSome

theorem putDesc_answers (s : State) (va : W64) (n v : Nat) : s.Answers (s.putDesc va n v) :=
  ⟨devWrite_homeSide .., fun k => congrFun (congrArg Prod.snd (devWrite_offHomes ..)) k⟩

theorem putRefused_answers (s : State) (va : W64) (d : BitVec 512) (status : Byte) (img : Option Nat) :
    s.Answers (s.putRefused va d status img) := by
  unfold State.putRefused
  extract_lets a b c
  obtain ⟨hside, himages⟩ := putDesc_answers c.2 va 64 (capResult d (img.getD a.1.toNat) b.1.toNat c.1.toNat status).toNat
  have hfree : s.HomeSide c.2 := .of_tables rfl rfl rfl
  exact ⟨hfree.trans hside, himages⟩

/-- A RESTORE whose images stand in the image area writes its answer and its status, and the A-stream goes on. -/
theorem restore_answers {s u v : State} {g : BitVec 8} {dst r : R5} {va : W64} {pa : Nat} {leaf : BitVec 128} {d : BitVec 512} {st : Byte}
    {bytes cyc : Nat} (h : Descriptor s g r 64 u va pa leaf d.toNat) (hback : u.takeBack (d.extractLsb' 480 32) = u)
    (hin : u.stillOut (d.extractLsb' 480 32) = false) (hby : u.restoreBy g d = (st, bytes, cyc, v)) :
    ∃ w, v.Answers w ∧
      exec (.restore dst r) s = .next (finished ((w.acquire g 2).modTile g fun t => t.wrA dst (st.setWidth 64) false) g .a 1) := by
  have hdc := dcDesc_reads h
  obtain ⟨hcur, -, -, hreq, -⟩ := h
  refine ⟨if st = 0 then v.putDesc va 64 (capResult d (d.extractLsb' 480 32).toNat bytes cyc 0).toNat
    else v.putRefused va d st (some (d.extractLsb' 480 32).toNat), ?_, ?_⟩
  · split
    · exact putDesc_answers ..
    · exact putRefused_answers ..
  · show execRestore dst r s = _
    rw [execRestore, issue_a hcur]
    simp only [hreq, Option.isSome_none, waitIf, Bool.false_eq_true, if_false, Bind.bind, Except.bind, hdc, BitVec.ofNat_toNat, BitVec.setWidth_eq,
      hback, hin, hby, Except.map, settle_done]

/-- What the issuing tile holds once its request is answered. -/
theorem answered_issuer {u v w : State} {g : BitVec 8} (hv : (u.tile g).L1Only (v.tile g)) (hw : v.Answers w) (dst : R5) (x : W64) :
    let t := finished ((w.acquire g 2).modTile g fun t => t.wrA dst x false) g .a 1
    (t.tile g).rdA dst = (if dst = 0 then 0 else x, false) ∧ (t.tile g).apc = (u.tile g).apc + 1 := by
  obtain ⟨hapc, hdst, -⟩ := finished_wrA (w.acquire g 2) g dst x false
  obtain ⟨c, hc⟩ := acquire_tile w g 2
  obtain ⟨l, hl, -⟩ := hv.trans (hw.side.tile g)
  refine ⟨?_, ?_⟩
  · rw [hdst, apply_ite (·, false)]
  · rw [hapc, hc, hl]

theorem finished_tile_of_ne (s : State) {g k : BitVec 8} (hk : k ≠ g) (st : Stream) (n : Nat) : (finished s g st n).tile k = s.tile k := by
  have hcur : (finished s g st n).tile k =
      (s.modTile g fun t => ((t.setPc st (t.pc st + BitVec.ofNat 14 n)).passX st 1).count 0x02 (some st)).tile k := rfl
  rw [hcur, State.tile_modTile_of_ne _ _ hk]

/-- What another tile and the image area hold then. -/
theorem answered_others {v w : State} {g k : BitVec 8} (hk : k ≠ g) (hw : v.Answers w) (f : Tile → Tile) :
    let t := finished ((w.acquire g 2).modTile g f) g .a 1
    (v.tile k).L1Only (t.tile k) ∧ ∀ n, (Tab.get? t.images n).isSome = (Tab.get? v.images n).isSome := by
  rw [acquire_narrow (by decide) (by decide)]
  refine ⟨?_, hw.images⟩
  rw [finished_tile_of_ne _ hk, State.tile_modTile_of_ne _ _ hk, State.tile_modTile_of_ne _ _ hk]
  exact hw.side.tile k

/-! ## The image on its tile (R301) -/

/-- A tile goes on as an image's: its context, registers and instruction streams are the image's. -/
def Tile.GoesOnAs (t i : Tile) : Prop :=
  t.ctx = i.ctx ∧ t.areg = i.areg ∧ t.xreg = i.xreg ∧ t.v = i.v ∧ t.apc = i.apc ∧ t.xpc = i.xpc ∧ t.ist = i.ist

theorem Tile.GoesOnAs.l1Only {t u i : Tile} (h : t.GoesOnAs i) (hu : t.L1Only u) : u.GoesOnAs i := by
  obtain ⟨_, rfl, -⟩ := hu
  exact h

theorem pasteTile_tiles (s : State) (g : BitVec 8) (i : Image) : (s.pasteTile g i).tiles = s.tiles := rfl

theorem pasteClu_tiles (s : State) (clu : Nat) (c : BitVec 16) (l : List (Nat × Mem × List Nat)) : (s.pasteClu clu c l).tiles = s.tiles :=
  List.foldlRecOn (motive := fun t : State => t.tiles = s.tiles) _ _ rfl fun _ ht _ _ => ht

theorem reenterRake_tiles_images (s : State) (g : BitVec 8) : (s.reenterRake g).tiles = s.tiles ∧ (s.reenterRake g).images = s.images :=
  List.foldlRecOn (motive := fun t : State => t.tiles = s.tiles ∧ t.images = s.images) _ _ ⟨rfl, rfl⟩ fun _ ht _ _ => ht

theorem keepCopy_tiles (s : State) (h : BitVec 32) (i : Image) : (s.keepCopy h i).tiles = s.tiles :=
  (offNodes_tables (foldl_offNodes (fun _ _ => foldl_offNodes (fun _ _ => modNode_offNodes ..) ..) ..)).1

theorem flushL1_tile_of_ne (s : State) {g k : BitVec 8} (hk : k ≠ g) : (s.tile k).L1Only ((s.flushL1 g).tile k) := by
  rw [State.flushL1, State.tile_modTile_of_ne _ _ hk]
  exact (settle_homeSide s g).tile k

/-- An image `i` has gone onto tile `g`: other tiles are as they were but for their L1D copies, and the image is erased unless it is kept. -/
structure State.Resumed (s : State) (h : BitVec 32) (i : Image) (g : BitVec 8) (keep : Bool) (t : State) : Prop where
  others : ∀ k, k ≠ g → (s.tile k).L1Only (t.tile k)
  tile : (t.tile g).GoesOnAs i.tile
  erased : keep = false → Tab.get? t.images h.toNat = none

theorem restoreOne_resumed {s : State} {h : BitVec 32} {i : Image} (hi : Tab.get? s.images h.toNat = some i) (g : BitVec 8) (keep : Bool) :
    s.Resumed h i g keep (s.restoreOne h g keep) := by
  unfold State.restoreOne
  rw [hi]
  dsimp -zeta only
  extract_lets pasted clu die clock timed old new placed held run kept
  have hpasted : pasted.tiles = (s.flushL1 g).tiles := pasteTile_tiles ..
  have hheld : held.tiles = placed.tiles := rfl
  have hclu : clu.tiles = (s.flushL1 g).tiles := by
    unfold clu
    split
    · exact (pasteClu_tiles ..).trans hpasted
    · exact hpasted
  have hkept : kept.tiles = placed.tiles := by
    unfold kept
    split
    · exact (keepCopy_tiles ..).trans hheld
    · exact hheld
  obtain ⟨htiles, himages⟩ := reenterRake_tiles_images (kept.rehold (imgHolder h) g.toNat) g
  have hend (k : BitVec 8) : ((kept.rehold (imgHolder h) g.toNat).reenterRake g).tile k = placed.tile k :=
    congrArg (fun x => Tab.get Tile.reset x k.toNat) (htiles.trans hkept)
  refine ⟨fun k hk => ?_, ?_, fun hkeep => ?_⟩
  · have hsame : placed.tile k = (s.flushL1 g).tile k :=
      (State.tile_setTile_of_ne _ _ hk).trans (congrArg (fun x => Tab.get Tile.reset x k.toNat) hclu)
    rw [hend, hsame]
    exact flushL1_tile_of_ne s hk
  · rw [hend, State.tile_setTile]
    exact ⟨rfl, rfl, rfl, rfl, rfl, rfl, rfl⟩
  · rw [himages]
    unfold kept
    rw [if_neg (hkeep ▸ Bool.false_ne_true)]
    exact Tab.get?_erase_self ..

/-! ## The state of a RESTORE's answer (R471) -/

theorem takeBack_absent {s : State} {h : BitVec 32} (hi : Tab.get? s.images h.toNat = none) : s.takeBack h = s := by
  rw [State.takeBack, hi]
  rfl

theorem stillOut_absent {s : State} {h : BitVec 32} (hi : Tab.get? s.images h.toNat = none) : s.stillOut h = false := by
  rw [State.stillOut, hi]
  rfl

theorem takeBack_alone {s : State} {h : BitVec 32} {i : Image} (hi : Tab.get? s.images h.toNat = some i) (hm : i.members = [])
    (hb : i.hbm = none) : s.takeBack h = s := by
  have hin : s.imageIn h = s := by
    rw [State.imageIn, hi]
    dsimp only
    rw [hb]
  rw [State.takeBack, hi, Option.map_some, hm]
  exact hin

theorem stillOut_alone {s : State} {h : BitVec 32} {i : Image} (hi : Tab.get? s.images h.toNat = some i) (hm : i.members = [])
    (hb : i.hbm = none) : s.stillOut h = false := by
  simp only [State.stillOut, hi, Option.map_some, hm, List.isEmpty_nil, if_true, Option.getD_some, List.any_cons, hb, Option.isSome_none,
    List.any_nil, Bool.or_self]

/-- With bits 9 to 383 of a descriptor 0, HAND is 0 and so are the reserved bits past it (R470). -/
theorem handAndReserved_clear {d : BitVec 512} (h : d.extractLsb' 9 375 = 0) : d.getLsbD 9 = false ∧ d.extractLsb' 10 374 = 0 := by
  have hbit (k : Nat) (hk : k < 375) : d.getLsbD (9 + k) = false := by
    have hk' := (congrArg (·.getLsbD k) h).trans BitVec.getLsbD_zero
    simpa only [BitVec.getLsbD_extractLsb', hk, decide_true, Bool.true_and] using hk'
  refine ⟨hbit 0 (by decide), BitVec.eq_of_getLsbD_eq fun k hk => ?_⟩
  refine Eq.trans ?_ BitVec.getLsbD_zero.symm
  rw [BitVec.getLsbD_extractLsb', show 10 + k = 9 + (k + 1) by omega, hbit (k + 1) (by omega), Bool.and_false]

/-- An unknown handle answers the status 4. -/
theorem restoreBy_absent {s : State} {d : BitVec 512} (g : BitVec 8) (hi : Tab.get? s.images (d.extractLsb' 480 32).toNat = none)
    (hstatus : d.extractLsb' 384 24 = 0) (hres : d.extractLsb' 10 374 = 0) : s.restoreBy g d = (0x04, 0, 0, s) := by
  simp only [State.restoreBy, takeBack_absent hi, State.restoreSet, hi, hstatus, hres, bne_self_eq_false, Bool.or_self, Bool.false_eq_true, if_false,
    List.isEmpty_nil, Bool.true_or, if_true]

/-- The checks of R300 pass. -/
theorem restoreBad_none {s : State} {i : Image} {g : BitVec 8} (hrev : i.tilerev = Config.tileRev g) (hscan : i.scanmap = Config.scanMap g)
    (htag : i.tagOk = true) (hkey : s.keyId i.key = some i.keyId) (hctx : (s.ctx? i.ctx).map (·.key) = some i.key) (hclu : i.clu = false) :
    s.restoreBad i g = none := by
  simp only [State.restoreBad, hrev, hscan, htag, hkey, hctx, hclu, ne_eq, not_true_eq_false, decide_false, Bool.not_true, bne_self_eq_false,
    Bool.or_self, Bool.false_and, Bool.false_eq_true, if_false]

/-- An image without a group that passes them goes onto the free tile that the descriptor names. -/
theorem restoreBy_alone {s : State} {d : BitVec 512} {g : BitVec 8} {i : Image} (hi : Tab.get? s.images (d.extractLsb' 480 32).toNat = some i)
    (hm : i.members = []) (hb : i.hbm = none) (hstatus : d.extractLsb' 384 24 = 0) (hres : d.extractLsb' 10 374 = 0) (hpass : d.getLsbD 9 = false)
    (hg : d.extractLsb' 0 8 ≠ g) (hfree : (s.tile (d.extractLsb' 0 8)).isFree = true) (hbad : s.restoreBad i (d.extractLsb' 0 8) = none) :
    s.restoreBy g d = (0, sumBytes [i], pRst [i],
      (s.giveTile (d.extractLsb' 0 8) i.tile.item).restoreOne (d.extractLsb' 480 32) (d.extractLsb' 0 8) (d.getLsbD 8)) := by
  simp only [State.restoreBy, takeBack_alone hi hm hb, State.restoreSet, hi, hm, hstatus, hres, hpass, hfree, hbad, beq_false_of_ne hg,
    bne_self_eq_false, Bool.or_self, Bool.false_eq_true, if_false, List.isEmpty_nil, if_true, List.filterMap_cons, List.filterMap_nil,
    List.isEmpty_cons, List.length_cons, List.length_nil, Nat.lt_irrefl, decide_false, List.any_cons, List.any_nil, Bool.not_true,
    List.zip_cons_cons, List.zip_nil_left, List.findSome?_cons, List.findSome?_nil, List.foldl_cons, List.foldl_nil, Option.bind_some]

theorem giveTile_images (s : State) (g : BitVec 8) (it : Option Item) : (s.giveTile g it).images = s.images := by
  unfold State.giveTile
  split <;> rfl

theorem giveTile_tile_of_ne (s : State) {g k : BitVec 8} (hk : k ≠ g) (it : Option Item) : (s.giveTile g it).tile k = s.tile k := by
  unfold State.giveTile
  split
  · rfl
  · exact State.tile_modTile_of_ne _ _ hk

theorem Tile.isFree_of {t : Tile} (hist : t.ist = .none) (hstop : t.stop = none) (hcap : t.capturing = none) : t.isFree = true := by
  rw [Tile.isFree, hist, hstop, hcap]
  rfl

/-- Settles O34: the answer's own write, which goes to the descriptor's home, leaves the restored tile and the image area as the restore made them. -/
theorem restoreResumesAnImage : Obligations.RestoreResumesAnImage := by
  unfold Obligations.RestoreResumesAnImage
  intro s u g dst r va pa leaf d
  dsimp only
  rintro h ⟨hstatus, hres9⟩
  obtain ⟨hpass, hres⟩ := handAndReserved_clear hres9
  refine ⟨fun i hi hm hb hg hist hstop hcap hrev hscan htag hkey hctx hclu => ?_, fun hi => ?_⟩
  · have hby := restoreBy_alone hi hm hb hstatus hres hpass hg (Tile.isFree_of hist hstop hcap) (restoreBad_none hrev hscan htag hkey hctx hclu)
    obtain ⟨w, hw, hexec⟩ := restore_answers h (takeBack_alone hi hm hb) (stillOut_alone hi hm hb) hby
    obtain ⟨hothers, htile, herased⟩ := restoreOne_resumed (giveTile_images u _ i.tile.item ▸ hi) (d.extractLsb' 0 8) (d.getLsbD 8)
    have hissuer := hothers g hg.symm
    rw [giveTile_tile_of_ne _ hg.symm] at hissuer
    obtain ⟨hdst, hapc⟩ := answered_issuer hissuer hw dst 0
    obtain ⟨hl1, himages⟩ := answered_others hg hw fun t => t.wrA dst 0 false
    obtain ⟨hc, ha, hx, hv, hapc', hxpc, hist'⟩ := htile.l1Only hl1
    refine ⟨_, hexec, hdst.trans (by rw [ite_self]), hapc, rfl, hc, ha, hx, hv, hapc', hxpc, hist', fun hdrop => ?_⟩
    exact Option.isNone_iff_eq_none.mp (Option.isSome_eq_false_iff.mp ((himages _).trans (by rw [herased hdrop]; rfl)))
  · obtain ⟨w, hw, hexec⟩ := restore_answers h (takeBack_absent hi) (stillOut_absent hi) (restoreBy_absent g hi hstatus hres)
    obtain ⟨hdst, hapc⟩ := answered_issuer (.refl _) hw dst 4
    exact ⟨_, hexec, hdst, hapc⟩

end Sys2Proof.Machine
end

section
/-! PROOFS. Refutation of the answer of CAPTURE at a home that takes no writes: a request's descriptor may lie behind a CXL port that is not trained. -/

namespace Sys2Proof.Machine
open Sys2Proof.Says

/-! ## A tile of the firmware whose descriptor's page is mapped -/

/-- A tile that runs an item of context 0, with the address of a descriptor in `a8` and a leaf entry for its page in the translation cache. -/
def askingTile (leaf : BitVec 128) : Tile :=
  { Tile.reset with
    ctx := some 0, ist := .running, sclass := 7, areg := vset Tile.reset.areg (8 : R5) 0x40000000
    tlb := [{ ctx := 0, va := 0x40000000, log2 := 16, leaf := leaf }] }

/-- Tile 3 is such a tile and issues from its A-stream; context 0 maps VA 0x40000000 by that leaf entry. -/
def asking (leaf : BitVec 128) : State :=
  let s : State := { State.reset with tiles := [(3, askingTile leaf)], cur := .stream 3 .a }
  ((s.wrBytes 0 (leBytes 16 0x100001) false).wrBytes 0x100020 (leBytes 16 0x120001) false).wrBytes 0x120000 (leBytes 16 leaf.toNat) false

/-! ## A descriptor behind an untrained CXL port -/

/-- A leaf entry whose page is the first of CXL port 0: home 4, frame 2⁴⁷, not shared, key 0. -/
def portLeaf : BitVec 128 := 0x8D + 2 ^ 47 + 4 * 2 ^ 64

/-- The descriptor lies on that page, whose memory reads 0: it asks to capture tile 0. The port is untrained, as it is after reset. -/
def portRequest : State := asking portLeaf

/-- The state in which the descriptor is read. -/
def portRead : State := (portRequest.dirtyBack 3).drainDie (dieOf 3)

theorem portRequest_descriptor : Descriptor portRequest 3 8 64 portRead 0x40000000 0x800000000000 portLeaf (0 : BitVec 512).toNat := by
  refine ⟨rfl, ?_, by decide, rfl, rfl, rfl, ?_, ?_, ?_⟩
  · decide +kernel
  · unfold Reaches
    decide +kernel
  · unfold Reaches
    decide +kernel
  · decide +kernel

theorem portRead_writable : Writable portRead 0x40000000 0x800000000000 portLeaf := by
  unfold Writable
  decide +kernel

/-- STATUS of the descriptor behind the port, in the state that an instruction leaves. -/
def portStatus : Host.Outcome State Fault Refusal → Nat
  | .next t => leNat (t.readHome portLeaf 0x800000000000 64).1 / 2 ^ 408 % 2 ^ 8
  | _ => 0

/-- The port's home drops the answer: STATUS stays 0. -/
theorem portStatus_lost : portStatus (exec (.capture 8) portRequest) = 0 := by decide +kernel

/-- Refutes O32: tile 0 has no context, so STATUS 1 has to stand in the descriptor (log entry 67), yet nothing says that the descriptor's home takes
the write. Behind a CXL port that is not trained the page passes translation, reads 0 and drops what is written, and STATUS stays 0. -/
theorem not_captureDecidesOrAnswers : ¬ Obligations.CaptureDecidesOrAnswers := by
  unfold Obligations.CaptureDecidesOrAnswers
  intro hall
  have hclean : ¬ ((0 : BitVec 512).extractLsb' 384 24 ≠ 0 ∨ (0 : BitVec 512).extractLsb' 9 375 ≠ 0) := by decide +kernel
  have hfree : (portRead.tile ((0 : BitVec 512).extractLsb' 0 8)).ctx = none := by decide +kernel
  obtain ⟨-, hanswer⟩ := hall portRequest portRead 3 8 0x40000000 0x800000000000 portLeaf 0 portRequest_descriptor
  obtain ⟨t, ht, hstatus, -⟩ := hanswer portRead_writable 1 (by rw [if_neg hclean, if_pos (.inl hfree)])
  have hlost := portStatus_lost
  rw [ht] at hlost
  exact absurd (hstatus.symm.trans hlost) (by decide)

end Sys2Proof.Machine
end

section
/-! PROOFS. Refutation of the end of a capture for the tile that waits: a posted store may change the descriptor after the state in which it is read
and before the answer (R470). -/

namespace Sys2Proof.Machine
open Sys2Proof.Says

/-! ## A store to the descriptor on its way -/

/-- The capture of tile 5 that firmware has asked for. -/
def lateCapture : Capturing := { handle := 0x80000001, drop := false, firmware := true }

/-- A leaf entry of the page at 0x200000 of die 0's HBM: not shared, key 0. -/
def hbmLeaf : BitVec 128 := 0x20008D

/-- A store of tile 6 that makes 7 of TILE in the descriptor at 0x200000; it has not left its tile's rim. -/
def lateStore : HomeWrite :=
  { line := 0x8000, mask := 1, data := 7, pois := false, key := 0, coh := leafCoh hbmLeaf, ctx := 0, tile := 6, kind := .wt
    vclk := Vector.replicate 4 1 }

/-- Tile 3 waits for the capture of tile 5, which its descriptor at VA 0x40000000 names and which runs an item of context 1, while the store is on its
way. -/
def lateState : State :=
  let s := (asking hbmLeaf).wrBytes 0x200000 (leBytes 64 5) false
  let s := s.modTile 3 fun t => { t with dcReq := some (.capture 0x40000000) }
  let s := s.setTile 5 { Tile.reset with ctx := some 1, ist := .running, sclass := 7, capturing := some lateCapture }
  let s := s.setCtx (Ctx.fresh { ctx := 1, key := 0, trootDie := 0, trootNext := 0, tnsBase := 0, tnsCount := 0 })
  s.setDie 0 { s.die 0 with rim := [lateStore] }

theorem lateState_waits : lateState.requests = [((3 : BitVec 8).toNat, .capture 0x40000000)] := by decide +kernel

theorem lateState_descriptor : BitVec.ofNat 8 (lateState.descNow 0x40000000 64) = 5 := by decide +kernel

theorem lateState_channels : ∀ h, lateState.chan (dieOf 5) h = [] := by decide +kernel

/-- The request of tile 3 in the state that an instruction leaves. -/
def request3 : Host.Outcome State Fault Refusal → Option DcReq
  | .next t => (t.tile 3).dcReq
  | _ => none

/-- The capture's drain lands the store, so the descriptor names tile 7 and the request goes on waiting. -/
theorem lateState_unanswered : request3 (exec (.captureComplete 5) lateState) = some (.capture 0x40000000) := by decide +kernel

/-- Refutes O33: that the descriptor names the captured tile and that the channels are empty says nothing of the stores in the tiles' rims. The
drain that ends the capture (R296) lands them before the descriptor is read again, and one may have changed TILE: the waiter is not answered. -/
theorem not_captureCompletes : ¬ Obligations.CaptureCompletes := by
  unfold Obligations.CaptureCompletes
  intro hall
  obtain ⟨t, i, ht, -, -, -, -, -, -, -, -, -, -, -, -, -, -, -, -, -, hwaiter⟩ :=
    hall lateState 5 lateCapture rfl (by decide +kernel) (by decide +kernel) (by decide +kernel)
  obtain ⟨hdone, -⟩ := hwaiter 3 0x40000000 (by decide) lateState_waits (by decide +kernel) (by decide +kernel) lateState_channels
    lateState_descriptor
  have hwaits := lateState_unanswered
  rw [ht] at hwaits
  exact absurd (hdone.symm.trans hwaits) (by decide)

end Sys2Proof.Machine
end

section
set_option Elab.async false
/-! PROOFS. Instruction formats and the opcode map (chapter 13): decoding gives a well-formed instruction back, words that the checks refuse, and
how a step of a stream, a unit or an event runs the instruction it decodes (R323 to R341, R81, R82, log entry 1). -/

namespace Sys2Proof

/-! ## Words and instructions -/

/-- Every instruction that has words decodes from them to itself: its own lemma of the round trip; an event has no words. -/
theorem Laws.RoundTrip.every (i : Instr) : Laws.RoundTrip.Statement i := by
  cases i with
  | add => apply add | sub => apply sub | and => apply and | or => apply or | xor => apply xor | shl => apply shl
  | shr => apply shr | sra => apply sra | mul => apply mul | mulh => apply mulh | mulhu => apply mulhu | div => apply div
  | divu => apply divu | rem => apply rem | remu => apply remu | min => apply min | max => apply max | minu => apply minu
  | maxu => apply maxu | seq => apply seq | slt => apply slt | sltu => apply sltu | clz => apply clz | ctz => apply ctz
  | popc => apply popc | sel => apply sel | addi => apply addi | andi => apply andi | ori => apply ori | xori => apply xori
  | shli => apply shli | shri => apply shri | srai => apply srai | movk => apply movk | cmpEq => apply cmpEq
  | cmpNe => apply cmpNe | cmpLt => apply cmpLt | cmpGe => apply cmpGe | cmpLtu => apply cmpLtu | cmpGeu => apply cmpGeu
  | fand => apply fand | for_ => apply for_ | fxor => apply fxor | fget => apply fget | fput => apply fput | beq => apply beq
  | bne => apply bne | blt => apply blt | bge => apply bge | bltu => apply bltu | bgeu => apply bgeu | bfs => apply bfs
  | bfc => apply bfc | bqs => apply bqs | bqc => apply bqc | jmp => apply jmp | call => apply call | jmpr => apply jmpr
  | callr => apply callr | tkwait => apply tkwait | tktest => apply tktest | tkcnt => apply tkcnt | ldb => apply ldb
  | ldh => apply ldh | ldw => apply ldw | ldd => apply ldd | ldbs => apply ldbs | ldhs => apply ldhs | ldws => apply ldws
  | stb => apply stb | sth => apply sth | stw => apply stw | std => apply std | aswap => apply aswap | acas => apply acas
  | aadd => apply aadd | aand => apply aand | aor => apply aor | axor => apply axor | amin => apply amin | amax => apply amax
  | aminu => apply aminu | amaxu => apply amaxu | qfill => apply qfill | qstore => apply qstore | qpopa => apply qpopa
  | qbpush => apply qbpush | fence => apply fence | sqpush => apply sqpush | enq => apply enq | bar => apply bar
  | vadd => apply vadd | vsub => apply vsub | vmul => apply vmul | vmin => apply vmin | vmax => apply vmax | vand => apply vand
  | vor => apply vor | vxor => apply vxor | vdiv => apply vdiv | vsqrt => apply vsqrt | vmac => apply vmac | vshl => apply vshl
  | vshr => apply vshr | vadds => apply vadds | vsubs => apply vsubs | vcmpeq => apply vcmpeq | vcmplt => apply vcmplt
  | vcmple => apply vcmple | vrsum => apply vrsum | vrmin => apply vrmin | vrmax => apply vrmax | vrsumc => apply vrsumc
  | vfma => apply vfma | vcvt => apply vcvt | vperm => apply vperm | vbcstx => apply vbcstx | vbcste => apply vbcste
  | vcompress => apply vcompress | vexpand => apply vexpand | kand => apply kand | kor => apply kor | kxor => apply kxor
  | kandn => apply kandn | knot => apply knot | kmovx => apply kmovx | xmovk => apply xmovk | vmov => apply vmov
  | vld => apply vld | vst => apply vst | vldc => apply vldc | vstc => apply vstc | qpopv => apply qpopv | qpopx => apply qpopx
  | qpushv => apply qpushv | qpushx => apply qpushx | zclr => apply zclr | zrd => apply zrd | zwr => apply zwr
  | zcvt => apply zcvt | mcfgwr => apply mcfgwr | mcfgrd => apply mcfgrd | csrrd => apply csrrd | csrwr => apply csrwr
  | csrset => apply csrset | csrclr => apply csrclr | trap => apply trap | tret => apply tret | step => apply step
  | brk => apply brk | pchks => apply pchks | pchkv => apply pchkv | pchkz => apply pchkz | rcpdef => apply rcpdef
  | rcpset => apply rcpset | rcpdrop => apply rcpdrop | rcpclr => apply rcpclr | rcpanch => apply rcpanch
  | rcpunanch => apply rcpunanch | capture => apply capture | restore => apply restore | brkx => apply brkx | copy => apply copy
  | copyl => apply copyl | copyn => apply copyn | ovla => apply ovla | ovlx => apply ovlx | tgather => apply tgather
  | kvgather => apply kvgather | tscatter => apply tscatter | mwld => apply mwld | mswap => apply mswap | mma => apply mma
  | mmas => apply mmas | mepi => apply mepi | collred => apply collred | collgath => apply collgath | collbcast => apply collbcast
  | colla2a => apply colla2a | collsend => apply collsend | collrecv => apply collrecv | pxhash => apply pxhash
  | pxmatch => apply pxmatch | pxpath => apply pxpath | kvopen => apply kvopen | kvseal => apply kvseal | kvfork => apply kvfork
  | kvlease => apply kvlease | kvrelease => apply kvrelease | rseal => apply rseal | runseal => apply runseal | xfnc => apply xfnc
  | drain => apply drain | qadd => apply qadd | qsub => apply qsub | qand => apply qand | qor => apply qor | qxor => apply qxor
  | qshl => apply qshl | qshr => apply qshr | qaddi => apply qaddi | qandi => apply qandi | qori => apply qori
  | qshli => apply qshli | qshri => apply qshri | qmovi => apply qmovi | qld => apply qld | qst => apply qst | qbeq => apply qbeq
  | qbne => apply qbne | qbltu => apply qbltu | qloop => apply qloop | qdisp => apply qdisp | qdrop => apply qdrop
  | _ => exact fun _ _ => trivial

/-- No form has more than two words (R324). -/
theorem length_encode_le (i : Instr) : (encode i).length ≤ 2 := by
  cases i <;> exact Nat.le_of_ble_eq_true rfl

/-- Settles O57, by the round trip of each constructor. -/
theorem encodedInstructionsDecodeToThemselves : Obligations.EncodedInstructionsDecodeToThemselves := by
  unfold Obligations.EncodedInstructionsDecodeToThemselves
  intro i next hwf
  have hrt := Laws.RoundTrip.every i hwf next
  refine ⟨fun w hw hq => ?queue, fun w hw hq => ?stream, fun w0 w1 hw => ?two, length_encode_le i⟩
  case queue =>
    simp only [hw, hq, if_true] at hrt
    exact hrt
  case stream =>
    simp only [hw, hq, Bool.false_eq_true, if_false] at hrt
    exact hrt
  case two =>
    simp only [hw] at hrt
    exact hrt

end Sys2Proof

namespace Sys2Proof.Machine

open Sys2Proof.Says

/-! ## Refused words -/

/-- The issue of a form in a stream outside its set is cause 0x02 (R334). -/
theorem issue_refused {s : State} {g : BitVec 8} {st : Stream} (h : s.cur = .stream g st) {w : Issuer} (hw : w.allows st = false) (n : Nat)
    (body : BitVec 8 → Stream → State → Res State) :
    issue w n body s = .next (trapped (opened s g st) g st { code := 0x02 }) := by
  unfold issue issueJ
  simp only [h, hw]
  rfl

/-- The check of a refused word in a stream raises its cause. -/
theorem illegalInstruction_raises {s : State} {g : BitVec 8} {st : Stream} (h : s.cur = .stream g st) {w0 w1 : W32} {c : Cause}
    (hd : decodeIssue w0 w1 st ((s.tile g).ctx == some 0) = .error c) :
    exec (.illegalInstruction w0 w1) s = .next (trapped (opened s g st) g st { code := c }) := by
  show execIllegalInstruction w0 w1 s = _
  unfold execIllegalInstruction
  simp only [h, hd]
  rfl

/-- The all-zero word is illegal, whatever word follows it, for every stream. -/
theorem decodeIssue_zero (w1 : W32) (st : Stream) (fw : Bool) : decodeIssue 0 w1 st fw = .error 0x00 := by
  have hd : decodeStream 0 w1 = .error 0x00 := rfl
  rw [decodeIssue, hd]
  rfl

/-- Settles O39, by the first check that fails of a word, and by the streams of the engine commands. -/
theorem refusedWordsRaiseTheirCause : Obligations.RefusedWordsRaiseTheirCause := by
  unfold Obligations.RefusedWordsRaiseTheirCause
  intro s g st w0 w1 c i hc
  refine ⟨illegalInstruction_raises hc, illegalInstruction_raises hc (decodeIssue_zero ..), ?engine, ?matrix⟩
  case engine =>
    rintro rfl hi
    obtain ⟨⟨e, op, k, r, n⟩, hform⟩ := Option.isSome_iff_exists.mp hi
    obtain ⟨-, imm, -, hexec⟩ := engineForm_issues hform
    rw [hexec]
    exact issue_refused hc rfl ..
  case matrix =>
    rintro rfl hi
    obtain ⟨⟨op, y, k, r, n⟩, hform⟩ := Option.isSome_iff_exists.mp hi
    obtain ⟨-, imm, -, hexec⟩ := matrixForm_issues hform
    rw [hexec]
    exact issue_refused hc rfl ..

/-! ## A step -/

/-- Settles O56, by evaluating the decoder on each word. -/
theorem wordsOfTheSpecDecode : Obligations.WordsOfTheSpecDecode := by
  unfold Obligations.WordsOfTheSpecDecode
  decide +kernel

/-- No slot is VALID: no word at the PC stands for another. -/
theorem Tile.brkAt_none {t : Tile} (h : ∀ j : BitVec 3, (vget t.brk BrkSlot.reset j).valid = false) (st : Stream) (w : W32) :
    t.brkAt st w = none := by
  unfold Tile.brkAt
  refine List.findSome?_eq_none_iff.mpr fun j _ => ?_
  simp [h]

/-- A stream of a tile whose block at the PC is not locked and that has no VALID slot fetches the words at its PC (R169, R477). -/
theorem fetch_word {s : State} {g : BitVec 8} {st : Stream} (hl : (s.tile g).locked st ((s.tile g).pc st) = false)
    (hb : ∀ j : BitVec 3, (vget (s.tile g).brk BrkSlot.reset j).valid = false)
    (hw : (s.tile g).waitsWord1 st (s.imemWord g st ((s.tile g).pc st)) = false) :
    s.fetch g st = .word (s.imemWord g st ((s.tile g).pc st)) (s.imemWord g st ((s.tile g).pc st + 1)) false := by
  unfold State.fetch
  simp only [hl, Tile.brkAt_none hb, hw, Bool.false_eq_true, if_false]

/-- A word whose successor is not locked where the form has one does not wait. -/
theorem Tile.waitsWord1_false {t : Tile} {st : Stream} {w : W32}
    (h : 0x30 ≤ (w.extractLsb' 26 6).toNat → (w.extractLsb' 26 6).toNat ≤ 0x3E → t.locked st (t.pc st + 1) = false) :
    t.waitsWord1 st w = false := by
  unfold Tile.waitsWord1
  dsimp only
  rw [Bool.and_eq_false_imp]
  intro hop
  obtain ⟨h1, h2⟩ := (Bool.and_eq_true_iff.mp hop)
  exact h (of_decide_eq_true h1) (of_decide_eq_true h2)

/-- A tile as its cycle leaves it: its cycle and its counters apart, as it was. -/
theorem tileCycle_tile (s : State) (g : BitVec 8) :
    ∃ a b c, (s.tileCycle g).tile g = { s.tile g with cyc := (s.tile g).cyc + 1, pmc := a, pmovf := b, pmwrap := c } := by
  unfold State.tileCycle
  rw [State.tile_modTile]
  exact Tile.count_eq ..

/-- A cycle of a tile changes no word that it fetches. -/
theorem fetch_tileCycle {s : State} {g : BitVec 8} {st : Stream} (hl : (s.tile g).locked st ((s.tile g).pc st) = false)
    (hb : ∀ j : BitVec 3, (vget (s.tile g).brk BrkSlot.reset j).valid = false)
    (hw : (s.tile g).waitsWord1 st (s.imemWord g st ((s.tile g).pc st)) = false) :
    (s.tileCycle g).fetch g st = .word (s.imemWord g st ((s.tile g).pc st)) (s.imemWord g st ((s.tile g).pc st + 1)) false := by
  obtain ⟨a, b, c, ht⟩ := tileCycle_tile s g
  have hpc : ((s.tileCycle g).tile g).pc st = (s.tile g).pc st := by rw [ht]; cases st <;> rfl
  have hmem (w : Pc) : (s.tileCycle g).imemWord g st w = s.imemWord g st w := rfl
  rw [fetch_word, hpc, hmem, hmem]
  · rw [hpc, ht]; exact hl
  · rw [ht]; exact hb
  · rw [hpc, hmem, ht, Tile.waitsWord1]
    cases st <;> exact hw

/-- A stream that may issue and whose word is at its PC issues it (R169, R332). -/
theorem issueWord_word {s : State} {g : BitVec 8} {st : Stream} {w0 w1 : W32} (hlive : (s.tile g).live = true)
    (hstep : (s.tile g).stepped st = false) (hr : s.railsOff = false) (hf : (s.tileCycle g).fetch g st = .word w0 w1 false) :
    issueWord s g st = match decodeIssue w0 w1 st ((s.tile g).ctx == some 0) with
      | .ok i => Outcome.after (exec i { s.tileCycle g with cur := .stream g st }) fun t =>
          t.afterWord g st i false ((s.tile g).csr st).tin
      | .error _ => Outcome.after (exec (.illegalInstruction w0 w1) { s.tileCycle g with cur := .stream g st }) fun t =>
          { t with cur := .none } := by
  unfold issueWord
  simp only [hlive, hstep, hr, hf, Bool.not_true, Bool.or_self, Bool.false_eq_true, if_false]
    <;> rfl

theorem Outcome.after_after (o : Host.Outcome State Fault Refusal) (f h : State → State) :
    Outcome.after (Outcome.after o f) h = Outcome.after o fun t => h (f t) := by
  cases o <;> rfl

/-- What the schedule names acts in a step. -/
theorem step_acts {s : State} {a : Agent} {r : List Agent} (h : s.agenda = a :: r ∨ s.agenda = [] ∧ s.focus = a ∧ r = []) :
    step s = act { s.elapse with agenda := r } a := by
  have hagenda : s.elapse.agenda = s.agenda := rfl
  have hfocus : s.elapse.focus = s.focus := rfl
  unfold step
  obtain ha | ⟨ha, rfl, rfl⟩ := h
  · simp only [hagenda, ha]
  · simp only [hagenda, ha, hfocus]
    rw [← ha]
    rfl

/-- Settles O55, by the words that the stream fetches. -/
theorem stepRunsTheDecodedInstruction : Obligations.StepRunsTheDecodedInstruction := by
  unfold Obligations.StepRunsTheDecodedInstruction
  intro s a r hagenda u
  have hstep : step s = act u a := step_acts hagenda
  refine ⟨?stream, ?unit, fun i ha => ?event⟩
  case stream =>
    intro g st x w0 w1 on ha hlive hnot hr hlock hword hbrk
    have hissue := issueWord_word hlive hnot hr (fetch_tileCycle hlock hbrk (Tile.waitsWord1_false hword))
    have hact : step s = Outcome.after (issueWord u g st) fun t => t.deliverWrap g st := by
      rw [hstep, ha]
      show stepStream u g st = _
      have hx : (u.tile g).stepped st = false := hnot
      simp only [stepStream, hr, hx, Bool.or_self, Bool.false_eq_true, if_false]
    refine ⟨fun i hi => ?_, fun c hc => ?_⟩
    · rw [hact, hissue, hi, Outcome.after_after]
    · rw [hact, hissue, hc, Outcome.after_after]
  case unit =>
    intro k w i ha hrun hw hd
    rw [hstep, ha]
    show stepInterp u k = _
    simp only [stepInterp, hrun, hw, hd, Bool.not_true, Bool.false_eq_true, if_false]
  case event => rw [hstep, ha]; rfl

end Sys2Proof.Machine
end

section
set_option Elab.async false
/-! PROOFS. Scalar and control instructions (chapter 14, R351 to R362): how an instruction of either stream reads its registers and writes its
destination, and the values that the operations compute. -/

namespace Sys2Proof.Machine

open Sys2Proof.Says

/-! ## Reads and writes of a stream that is ready -/

/-- A tile with no name that depends on a register gives it up at once (R308). -/
theorem freeReg_none {s : State} {g : BitVec 8} {x : Src} (h : (s.tile g).dependants x = []) : s.freeReg g x = .ok s := by
  rw [State.freeReg, h]
  rfl

section Ready
variable {s : State} {g : BitVec 8} {st : Stream} {srcs : List XDst} {d : R5}

/-- A stream that is ready issues an instruction of both streams: its body runs on the opened state. -/
theorem ready_issue (h : Ready s g st srcs (.x d)) (n : Nat) (body : BitVec 8 → Stream → State → Res State) :
    issue .both n body s = .next (settle g st n ((body g st (opened s g st)).map fun s => (s, none))) := issue_both h.1 n body

theorem ready_issueJ (h : Ready s g st srcs (.x d)) (n : Nat) (body : BitVec 8 → Stream → State → Res (State × Option Pc)) :
    issueJ .both n body s = .next (settle g st n (body g st (opened s g st))) := by
  unfold issueJ
  rw [h.1]
  rfl

/-- No recipe's name depends on its destination. -/
theorem ready_free (h : Ready s g st srcs (.x d)) : (opened s g st).freeS g st d = .ok (opened s g st) := by
  cases st with
  | a => rfl
  | x =>
    unfold State.freeS
    dsimp only
    split
    · rfl
    · exact freeReg_none (h.2 rfl).2

/-- Its sources are read under no open window. -/
theorem ready_reads (h : Ready s g st srcs (.x d)) {r : R5} (hr : XDst.x r ∈ srcs) :
    (opened s g st).rdS g st r = (scalar ((opened s g st).tile g) st r, opened s g st) := by
  refine rdS_eq_scalar fun e p hp => ?_
  subst e
  exact (h.2 rfl).1 p hp _ hr

end Ready

/-- The write of a register, as far as the state after the instruction shows it. -/
theorem wrS_modTile (s : State) (g : BitVec 8) (st : Stream) (d : R5) (v : W64) (p : Bool) (L : Nat) (f : Tile → Tile) :
    (s.wrS g st d v p L).modTile g f = (s.modTile g (wrote st L d v p)).modTile g f := by
  cases st with
  | a => rfl
  | x =>
    by_cases h : d = 0
    · have hid : wrote .x L d v p = id := funext fun t => if_pos h
      rw [h, wrS_x0, State.modTile_modTile, ← h, hid]
      rfl
    · rw [wrS_x h]
      exact congrArg (State.modTile · g f) (modTile_congr (if_neg h).symm)

theorem finished_wrS (s : State) (g : BitVec 8) (st : Stream) (d : R5) (v : W64) (p : Bool) (L n : Nat) :
    finished (s.wrS g st d v p L) g st n = finished (s.modTile g (wrote st L d v p)) g st n := by
  unfold finished
  rw [wrS_modTile]

theorem jumped_wrS (s : State) (g : BitVec 8) (st : Stream) (d : R5) (v : W64) (p : Bool) (L : Nat) (pc : Pc) :
    jumped (s.wrS g st d v p L) g st pc = jumped (s.modTile g (wrote st L d v p)) g st pc := by
  unfold jumped
  rw [wrS_modTile]

/-- A body that goes to `p`. -/
theorem settle_jumped (g : BitVec 8) (st : Stream) (n : Nat) (s : State) (p : Pc) : settle g st n (.ok (s, some p)) = jumped s g st p := by
  simp only [settle, State.issued, State.modTile_modTile, jumped]

/-! ## Values -/

theorem ushiftRight_eq_ofNat (x : W64) (n : Nat) : x >>> n = BitVec.ofNat 64 (x.toNat / 2 ^ n) := by
  rw [← Nat.shiftRight_eq_div_pow]
  exact BitVec.eq_of_toNat_eq (by rw [BitVec.toNat_ushiftRight, BitVec.toNat_ofNat, Nat.mod_eq_of_lt (lt_of_le_of_lt (Nat.shiftRight_le ..) x.isLt)])

theorem sshiftRight_eq_ofInt (x : W64) (n : Nat) : x.sshiftRight n = BitVec.ofInt 64 (x.toInt / 2 ^ n) := by
  rw [BitVec.sshiftRight, Int.shiftRight_eq_div_pow, Nat.cast_pow, Nat.cast_ofNat]

theorem mul_eq_ofNat (x y : W64) : x * y = BitVec.ofNat 64 (x.toNat * y.toNat) := rfl

/-- The high half of a 128-bit number, as the model divides it and as its upper bits. -/
theorem highHalf_ofInt (p : Int) : BitVec.ofInt 64 (p.fdiv (2 ^ 64)) = ((BitVec.ofInt 128 p) >>> 64).setWidth 64 := by
  apply BitVec.eq_of_toNat_eq
  rw [Int.fdiv_eq_ediv_of_nonneg _ (by decide), BitVec.toNat_setWidth, BitVec.toNat_ushiftRight, Nat.shiftRight_eq_div_pow, BitVec.toNat_ofInt,
    BitVec.toNat_ofInt]
  omega

theorem mulh_eq (x y : W64) :
    BitVec.ofInt 64 ((x.toInt * y.toInt).fdiv (2 ^ 64)) = ((x.signExtend 128 * y.signExtend 128) >>> 64).setWidth 64 := by
  rw [highHalf_ofInt, BitVec.ofInt_mul]
  rfl

theorem mulhu_eq (x y : W64) :
    BitVec.ofNat 64 (x.toNat * y.toNat / 2 ^ 64) = ((x.setWidth 128 * y.setWidth 128) >>> 64).setWidth 64 := by
  have hlt : x.toNat * y.toNat < 2 ^ 128 := calc
    _ < 2 ^ 64 * 2 ^ 64 := Nat.mul_lt_mul'' x.isLt y.isLt
    _ = 2 ^ 128 := by norm_num
  apply BitVec.eq_of_toNat_eq
  rw [BitVec.toNat_ofNat, BitVec.toNat_setWidth, BitVec.toNat_ushiftRight, Nat.shiftRight_eq_div_pow, BitVec.toNat_mul, BitVec.toNat_setWidth,
    BitVec.toNat_setWidth, Nat.mod_eq_of_lt (Nat.lt_of_lt_of_le x.isLt (by norm_num)), Nat.mod_eq_of_lt (Nat.lt_of_lt_of_le y.isLt (by norm_num)),
    Nat.mod_eq_of_lt hlt]

/-- A choice by ≤ is the choice by < when equal keys mean equal values. -/
theorem ite_le_eq_ite_lt {α β : Type} [LinearOrder α] {m n : α} {c : Prop} [Decidable c] (hc : c ↔ m < n) {a b : β} (h : m = n → a = b) :
    (if m ≤ n then a else b) = if c then a else b := by
  obtain hlt | heq | hgt := lt_trichotomy m n
  · rw [if_pos hlt.le, if_pos (hc.mpr hlt)]
  · rw [if_pos heq.le, h heq, ite_self]
  · rw [if_neg hgt.not_ge, if_neg fun h => hgt.asymm (hc.mp h)]

theorem minS_eq (x y : W64) : (if x.toInt ≤ y.toInt then x else y) = if x.slt y then x else y :=
  ite_le_eq_ite_lt BitVec.slt_iff_toInt_lt BitVec.eq_of_toInt_eq
theorem maxS_eq (x y : W64) : (if x.toInt ≤ y.toInt then y else x) = if x.slt y then y else x :=
  ite_le_eq_ite_lt BitVec.slt_iff_toInt_lt fun h => (BitVec.eq_of_toInt_eq h).symm
theorem minU_eq (x y : W64) : (if x.toNat ≤ y.toNat then x else y) = if x < y then x else y :=
  ite_le_eq_ite_lt BitVec.lt_def BitVec.eq_of_toNat_eq
theorem maxU_eq (x y : W64) : (if x.toNat ≤ y.toNat then y else x) = if x < y then y else x :=
  ite_le_eq_ite_lt BitVec.lt_def fun h => (BitVec.eq_of_toNat_eq h).symm

theorem bool64_eq (x y : W64) : bool64 (Rel.eq.holds x y) = if x = y then 1 else 0 := if_congr beq_iff_eq rfl rfl
theorem bool64_lt (x y : W64) : bool64 (Rel.lt.holds x y) = if x.slt y then 1 else 0 := rfl
theorem bool64_ltu (x y : W64) : bool64 (Rel.ltu.holds x y) = if x < y then 1 else 0 := if_congr (by rw [BitVec.lt_def]; exact decide_eq_true_iff) rfl rfl

theorem divU_eq (x y : W64) : divU x y = if y = 0 then BitVec.allOnes 64 else x / y := by
  unfold divU
  split
  · rfl
  · exact BitVec.eq_of_toNat_eq (by
      rw [BitVec.toNat_ofNat, BitVec.toNat_udiv, Nat.mod_eq_of_lt (lt_of_le_of_lt (Nat.div_le_self ..) x.isLt)])

theorem remS_eq (x y : W64) : remS x y = if y = 0 then x else BitVec.ofInt 64 (x.toInt - y.toInt * x.toInt.tdiv y.toInt) := by
  rw [← Int.tmod_def]
  rfl

theorem remU_eq (x y : W64) : remU x y = if y = 0 then x else x - y * (x / y) := by
  unfold remU
  split
  · rfl
  · have hle : y.toNat * (x.toNat / y.toNat) ≤ x.toNat := Nat.mul_div_le ..
    have hx := x.isLt
    refine BitVec.eq_of_toNat_eq ?_
    rw [BitVec.toNat_ofNat, Nat.mod_eq_of_lt (lt_of_le_of_lt (Nat.mod_le ..) hx), Nat.mod_eq_sub_mul_div, BitVec.toNat_sub_of_le, BitVec.toNat_mul,
      BitVec.toNat_udiv]
    · rw [Nat.mod_eq_of_lt (lt_of_le_of_lt hle hx)]
    · rw [BitVec.le_def, BitVec.toNat_mul, BitVec.toNat_udiv, Nat.mod_eq_of_lt (lt_of_le_of_lt hle hx)]
      exact hle

/-- The length of a run of elements with a property at the head of the first `n` numbers. -/
theorem length_takeWhile_range' (p : Nat → Bool) : ∀ k n : Nat,
    let l := ((List.range' k n).takeWhile p).length
    l ≤ n ∧ (∀ i < l, p (k + i) = true) ∧ (l < n → p (k + l) = false) := by
  intro k n
  induction n generalizing k with
  | zero => simp
  | succ n ih =>
    obtain ⟨hle, hall, hnext⟩ := ih (k + 1)
    rw [List.range'_succ, List.takeWhile_cons]
    cases hp : p k with
    | false => simp [hp]
    | true =>
      simp only [if_true, List.length_cons]
      refine ⟨by omega, fun i hi => ?_, fun hlt => ?_⟩
      · cases i with
        | zero => exact hp
        | succ i => rw [Nat.add_comm i 1, ← Nat.add_assoc]; exact hall i (by omega)
      · rw [Nat.add_comm _ 1, ← Nat.add_assoc]; exact hnext (by omega)

theorem length_takeWhile_range (p : Nat → Bool) (n : Nat) :
    let l := ((List.range n).takeWhile p).length
    l ≤ n ∧ (∀ i < l, p i = true) ∧ (l < n → p l = false) := by
  have h := length_takeWhile_range' p 0 n
  simpa only [List.range_eq_range', Nat.zero_add] using h

/-! ## Operations that write `d` -/

section Writes
variable {s : State} {g : BitVec 8} {st : Stream} {srcs : List XDst} {d : R5} (h : Ready s g st srcs (.x d))
include h

theorem scalar3_ready {a b : R5} (ha : .x a ∈ srcs) (hb : .x b ∈ srcs) (L : Nat) (f : W64 → W64 → W64) :
    let u := opened s g st
    let x := scalar (u.tile g) st a
    let y := scalar (u.tile g) st b
    scalar3 L f d a b s = .next (finished (u.modTile g (wrote st L d (f x.1 y.1) (x.2 || y.2))) g st 1) := by
  intro u x y
  rw [scalar3, ready_issue h]
  simp only [ready_free h, State.rdS2, ready_reads h ha, ready_reads h hb, Bind.bind, Except.bind, Except.map]
  rw [settle_done, finished_wrS]

theorem scalar2_ready {a : R5} (ha : .x a ∈ srcs) (f : W64 → W64) :
    let u := opened s g st
    let x := scalar (u.tile g) st a
    scalar2 f d a s = .next (finished (u.modTile g (wrote st 1 d (f x.1) x.2)) g st 1) := by
  intro u x
  rw [scalar2, ready_issue h]
  simp only [ready_free h, ready_reads h ha, Bind.bind, Except.bind, Except.map]
  rw [settle_done, finished_wrS]

theorem sel_ready {a b c : R5} (ha : .x a ∈ srcs) (hb : .x b ∈ srcs) (hc : .x c ∈ srcs) :
    let u := opened s g st
    let x := scalar (u.tile g) st a
    let y := scalar (u.tile g) st b
    let k := scalar (u.tile g) st c
    execSel d a b c s = .next (finished
      (u.modTile g (wrote st 1 d (if k.1 ≠ 0 then x.1 else y.1) (k.2 || (if k.1 ≠ 0 then x.2 else y.2)))) g st 1) := by
  intro u x y k
  rw [execSel, ready_issue h]
  have hread : (opened s g st).rdS g st (if k.1 = 0 then b else a) = (if k.1 = 0 then y else x, opened s g st) := by
    split
    · exact ready_reads h hb
    · exact ready_reads h ha
  simp only [ready_free h, ready_reads h hc, show (opened s g st).rdS g st (if (scalar ((opened s g st).tile g) st c).1 = 0 then b else a) = _
    from hread, Bind.bind, Except.bind, Except.map, settle_done, finished_wrS]
  by_cases hk : k.1 = 0 <;> simp only [hk, ne_eq, not_true_eq_false, not_false_eq_true, if_true, if_false] <;> rfl

theorem scalarDiv_ready_a (hst : st = .a) {a b : R5} (f : W64 → W64 → W64) :
    let x := scalar (s.tile g) .a a
    let y := scalar (s.tile g) .a b
    scalarDiv f d a b s = .next (finished (s.modTile g (wrote .a 36 d (f x.1 y.1) (x.2 || y.2))) g .a 1) := by
  subst hst
  intro x y
  rw [scalarDiv, ready_issue h]
  exact congrArg Host.Outcome.next (settle_done ..)

/-- The DIV unit kept for the 36 X-cycles of a division (R354). -/
def keepDiv (t : Tile) : Tile := { t with units := { t.units with div := t.xcyc + 36 } }

omit h in
theorem useUnit_div {u : State} {g : BitVec 8} (hu : (u.tile g).units.div ≤ (u.tile g).xcyc) :
    u.useUnit g .x .div 36 = .ok (u.modTile g keepDiv) := by
  rw [useUnit_x]
  exact if_neg (Nat.not_lt.mpr hu)

theorem scalarDiv_ready_x (hst : st = .x) {a b : R5} (ha : .x a ∈ srcs) (hb : .x b ∈ srcs) (f : W64 → W64 → W64)
    (hu : ((opened s g st).tile g).units.div ≤ ((opened s g st).tile g).xcyc) :
    let u := opened s g st
    let x := scalar (u.tile g) .x a
    let y := scalar (u.tile g) .x b
    scalarDiv f d a b s = .next (finished (u.modTile g fun t =>
      let t := wrote .x 36 d (f x.1 y.1) (x.2 || y.2) (keepDiv t)
      if y.1 = 0 ∧ x.2 = false ∧ y.2 = false then t.pendAt .fstat 0 8 0 0 37 else t) g .x 1) := by
  subst hst
  intro u x y
  let v := u.modTile g keepDiv
  have hv : v.tile g = keepDiv (u.tile g) := State.tile_modTile ..
  have hfree : v.freeS g .x d = .ok v := by
    unfold State.freeS
    dsimp only
    split
    · rfl
    · exact freeReg_none (by rw [hv]; exact (h.2 rfl).2)
  have hread {r : R5} (hr : .x r ∈ srcs) : v.rdS g .x r = (scalar (u.tile g) .x r, v) := by
    refine (rdS_eq_scalar fun _ p hp => (h.2 rfl).1 p ?_ _ hr).trans ?_
    · rw [hv] at hp; exact hp
    · rw [hv]; rfl
  have hdz (w : State) : (if y.1 = 0 ∧ x.2 = false ∧ y.2 = false then w.modTile g fun t => t.pendFlags fDZ 36 else w) =
      if (decide True && decide (y.1 = 0) && !(x.2 || y.2)) = true then w.modTile g fun t => t.pendFlags fDZ 36 else w :=
    if_congr (by simp) rfl rfl
  rw [scalarDiv, ready_issue h]
  simp only [useUnit_div hu, Bind.bind, Except.bind]
  simp only [show (opened s g Stream.x).modTile g keepDiv = v from rfl, hfree, State.rdS2, hread ha, hread hb, Except.map, keepUnits_ok,
    settle_done]
  refine congrArg Host.Outcome.next ((congrArg (finished · g .x 1) (hdz _).symm).trans ?_)
  split
  · unfold finished
    rw [wrS_modTile, State.modTile_modTile, State.modTile_modTile, State.modTile_modTile]
    simp only [State.modTile_modTile]
    rfl
  · rw [finished_wrS]
    simp only [v, State.modTile_modTile]
    rfl

end Writes

/-- The operations of R353 as the model computes them. -/
theorem exec_twoSource : ∀ e ∈ twoSource, ∀ (d a b : R5) (s : State), exec (e.1 d a b) s = scalar3 e.2.2 e.2.1 d a b s := by
  simp only [twoSource, List.forall_mem_cons, List.not_mem_nil, false_imp_iff, implies_true, and_true]
  refine ⟨fun _ _ _ _ => rfl, fun _ _ _ _ => rfl, fun _ _ _ _ => rfl, fun _ _ _ _ => rfl, fun _ _ _ _ => rfl, fun _ _ _ _ => rfl,
    fun d a b s => ?shr, fun d a b s => ?sra, fun d a b s => ?mul, fun d a b s => ?mulh, fun d a b s => ?mulhu, fun d a b s => ?min,
    fun d a b s => ?max, fun d a b s => ?minu, fun d a b s => ?maxu, fun d a b s => ?seq, fun d a b s => rfl, fun d a b s => ?sltu⟩
  case shr => exact (show execShr d a b s = _ by simp only [execShr, ushiftRight_eq_ofNat, sh])
  case sra => exact (show execSra d a b s = _ by simp only [execSra, sshiftRight_eq_ofInt, sh])
  case mul => exact (show execMul d a b s = _ by simp only [execMul, mul_eq_ofNat])
  case mulh => exact (show execMulh d a b s = _ by simp only [execMulh, mulh_eq])
  case mulhu => exact (show execMulhu d a b s = _ by simp only [execMulhu, mulhu_eq])
  case min => exact (show execMin d a b s = _ by simp only [execMin, minS_eq])
  case max => exact (show execMax d a b s = _ by simp only [execMax, maxS_eq])
  case minu => exact (show execMinu d a b s = _ by simp only [execMinu, minU_eq])
  case maxu => exact (show execMaxu d a b s = _ by simp only [execMaxu, maxU_eq])
  case seq => exact (show execSeq d a b s = _ by simp only [execSeq, bool64_eq])
  case sltu => exact (show execSltu d a b s = _ by simp only [execSltu, bool64_ltu])

/-- The divisions of R353 and R280 as the model computes them. -/
theorem exec_divisions : ∀ e ∈ divisions, ∀ (d a b : R5) (s : State), exec (e.1 d a b) s = scalarDiv e.2 d a b s := by
  simp only [divisions, List.forall_mem_cons, List.not_mem_nil, false_imp_iff, implies_true, and_true]
  refine ⟨fun _ _ _ _ => rfl, fun d a b s => ?divu, fun d a b s => ?rem, fun d a b s => ?remu⟩
  case divu => exact (show execDivu d a b s = _ by rw [execDivu, funext₂ divU_eq])
  case rem => exact (show execRem d a b s = _ by rw [execRem, funext₂ remS_eq])
  case remu => exact (show execRemu d a b s = _ by rw [execRemu, funext₂ remU_eq])

/-- The operations of one source as the model computes them, and their results. -/
theorem exec_oneSource : ∀ e ∈ oneSource, ∃ n : W64 → Nat, (∀ x, e.2 x (n x)) ∧
    ∀ (d a : R5) (s : State), exec (e.1 d a) s = scalar2 (fun x => BitVec.ofNat 64 (n x)) d a s := by
  simp only [oneSource, List.forall_mem_cons, List.not_mem_nil, false_imp_iff, implies_true, and_true]
  refine ⟨⟨fun x => ((List.range 64).takeWhile fun i => !x.getLsbD (63 - i)).length, fun x => ?_, fun _ _ _ => rfl⟩,
    ⟨fun x => ((List.range 64).takeWhile fun i => !x.getLsbD i).length, fun x => ?_, fun _ _ _ => rfl⟩,
    ⟨fun x => ((List.range 64).filter fun i => x.getLsbD i).length, fun x => rfl, fun _ _ _ => rfl⟩⟩
  · simpa only [Bool.not_eq_true', Bool.not_eq_false'] using length_takeWhile_range (fun i => !x.getLsbD (63 - i)) 64
  · simpa only [Bool.not_eq_true', Bool.not_eq_false'] using length_takeWhile_range (fun i => !x.getLsbD i) 64

/-- Settles O1: the model's operations are those of R353 and R280, and a ready stream reads, computes and writes. -/
theorem threeRegisterOperationsWriteD : Obligations.ThreeRegisterOperationsWriteD := by
  unfold Obligations.ThreeRegisterOperationsWriteD
  intro s g st d a b c h u x y k
  have ha : XDst.x a ∈ [XDst.x a, .x b, .x c] := by simp
  have hb : XDst.x b ∈ [XDst.x a, .x b, .x c] := by simp
  have hc : XDst.x c ∈ [XDst.x a, .x b, .x c] := by simp
  refine ⟨fun e he => ?two, fun e he hst => ?divA, fun e he hst hu => ?divX, fun e he => ?one, sel_ready h ha hb hc⟩
  case two => rw [exec_twoSource e he]; exact scalar3_ready h ha hb ..
  case divA =>
    subst hst
    rw [exec_divisions e he]
    exact scalarDiv_ready_a h rfl _
  case divX =>
    subst hst
    rw [exec_divisions e he]
    exact scalarDiv_ready_x h rfl ha hb _ hu
  case one =>
    obtain ⟨n, hn, hexec⟩ := exec_oneSource e he
    exact ⟨n x.1, hn x.1, by rw [hexec]; exact scalar2_ready h ha _⟩

end Sys2Proof.Machine
end

section
set_option Elab.async false
namespace Sys2Proof.Machine
open Sys2Proof.Says

/-! ## Immediates (R355, R356) -/

theorem addSignExtend_eq (x : W64) (i : BitVec 16) : x + i.signExtend 64 = BitVec.ofInt 64 (x.toInt + i.toInt) := by
  rw [BitVec.ofInt_add, BitVec.ofInt_toInt]
  rfl

theorem setWidth_eq_ofNat (i : BitVec 16) : i.setWidth 64 = BitVec.ofNat 64 i.toNat :=
  BitVec.eq_of_toNat_eq (by rw [BitVec.toNat_setWidth, BitVec.toNat_ofNat])

theorem exec_immediates : ∀ e ∈ immediates, ∀ (d a : R5) (i : BitVec 16) (s : State), exec (e.1 d a i) s = scalar2 (e.2 · i) d a s := by
  simp only [immediates, List.forall_mem_cons, List.not_mem_nil, false_imp_iff, implies_true, and_true]
  refine ⟨fun d a i s => ?addi, fun d a i s => rfl, fun d a i s => ?ori, fun d a i s => ?xori⟩
  case addi => exact (show execAddi d a i s = _ by simp only [execAddi, addSignExtend_eq])
  case ori => exact (show execOri d a i s = _ by simp only [execOri, setWidth_eq_ofNat])
  case xori => exact (show execXori d a i s = _ by simp only [execXori, setWidth_eq_ofNat])

theorem exec_shifts : ∀ e ∈ shifts, ∀ (d a : R5) (n : BitVec 6) (s : State), exec (e.1 d a n) s = scalar2 (e.2 · n.toNat) d a s := by
  simp only [shifts, List.forall_mem_cons, List.not_mem_nil, false_imp_iff, implies_true, and_true]
  refine ⟨fun d a n s => rfl, fun d a n s => ?shri, fun d a n s => ?srai⟩
  case shri => exact (show execShri d a n s = _ by simp only [execShri, ushiftRight_eq_ofNat])
  case srai => exact (show execSrai d a n s = _ by simp only [execSrai, sshiftRight_eq_ofInt])

/-- Part `hw` of a register replaced by 16 bits. -/
theorem getLsbD_insert16 (v : W64) (i : BitVec 16) (hw : BitVec 2) {k : Nat} (hk : k < 64) :
    (insert16 v i hw).getLsbD k = if k / 16 = hw.toNat then i.getLsbD (k % 16) else v.getLsbD k := by
  have hones (j : Nat) : (0xFFFF : W64).getLsbD j = decide (j < 16) := by
    have h : (0xFFFF : W64) = BitVec.setWidth 64 (BitVec.allOnes 16) := rfl
    rw [h, BitVec.getLsbD_setWidth, BitVec.getLsbD_allOnes]
    by_cases hj : j < 16
    · simp [hj, show j < 64 by omega]
    · simp [hj]
  simp only [insert16, BitVec.getLsbD_or, BitVec.getLsbD_and, BitVec.getLsbD_not, BitVec.getLsbD_shiftLeft, hones, BitVec.getLsbD_setWidth]
  have hwlt := hw.isLt
  by_cases hlow : k < 16 * hw.toNat
  · rw [if_neg (by omega)]
    simp [hk, hlow]
  · by_cases hhigh : k - 16 * hw.toNat < 16
    · rw [if_pos (by omega), show k % 16 = k - 16 * hw.toNat by omega]
      simp [hk, hlow, hhigh, show k - 16 * hw.toNat < 64 by omega]
    · rw [if_neg (by omega), BitVec.getLsbD_of_ge i _ (by omega)]
      simp [hk, hlow, hhigh]

/-! ## Words that the maps of majors 0x06 to 0x08 refuse (R333, R335) -/

/-- A nonzero field that is fixed at zero. -/
theorem build_nonzero (wide : Bool) (i : Instr) : build true wide i = .error 0x01 := rfl

theorem bne_true {n : Nat} {x : BitVec n} (h : x ≠ 0) : (x != 0) = true := bne_iff_ne.mpr h

theorem decodeStream_movk_nonzero {w : W32} (next : W32) (h : fld w 26 6 = 0x07) (hz : fld w 18 3 ≠ 0) : decodeStream w next = .error 0x01 := by
  rw [stream_scalar next (by rw [h]; decide), decodeScalar, h, bne_true hz]
  rfl

theorem decodeStream_shift_undefined {w : W32} (next : W32) (h : fld w 26 6 = 0x06) (hn : 3 ≤ (fld w 12 4).toNat) :
    decodeStream w next = .error 0x00 := by
  rw [stream_scalar next (by rw [h]; decide), decodeScalar, h]
  have hlt := (fld w 12 4).isLt
  generalize (fld w 12 4).toNat = n at hn hlt
  interval_cases n <;> rfl

theorem decodeStream_shift_nonzero {w : W32} (next : W32) (h : fld w 26 6 = 0x06) (hn : (fld w 12 4).toNat < 3) (hz : fld w 6 6 ≠ 0) :
    decodeStream w next = .error 0x01 := by
  rw [stream_scalar next (by rw [h]; decide), decodeScalar, h, bne_true hz]
  generalize (fld w 12 4).toNat = n at hn
  interval_cases n <;> rfl

/-- Settles O2. -/
theorem immediateOperationsWriteD : Obligations.ImmediateOperationsWriteD := by
  unfold Obligations.ImmediateOperationsWriteD
  intro s g st d a i n hw h u x old
  have ha : XDst.x a ∈ [XDst.x a, .x d] := by simp
  have hd : XDst.x d ∈ [XDst.x a, .x d] := by simp
  refine ⟨fun e he => ?imm, fun e he => ?shift, ⟨insert16 old.1 i hw, fun k hk => getLsbD_insert16 _ _ _ hk, ?movk⟩,
    fun w next => decodeStream_movk_nonzero next, fun w next => decodeStream_shift_undefined next,
    fun w next => decodeStream_shift_nonzero next⟩
  case imm => rw [exec_immediates e he]; exact scalar2_ready h ha _
  case shift => rw [exec_shifts e he]; exact scalar2_ready h ha _
  case movk =>
    show scalar2 (fun v => insert16 v i hw) d d s = _
    exact scalar2_ready h hd _

/-! ## Flags (R357, R358) -/

/-- A relation of a compare or a branch as the model tests it. -/
theorem exec_compares : ∀ e ∈ compares, ∃ r : Rel, (∀ x y, r.holds x y = e.2 x y) ∧
    ∀ (f : F3) (a b : R5) (s : State), exec (e.1 f a b) s = flagCmp r f a b s := by
  simp only [compares, List.forall_mem_cons, List.not_mem_nil, false_imp_iff, implies_true, and_true]
  exact ⟨⟨.eq, fun _ _ => rfl, fun _ _ _ _ => rfl⟩, ⟨.ne, fun _ _ => rfl, fun _ _ _ _ => rfl⟩, ⟨.lt, fun _ _ => rfl, fun _ _ _ _ => rfl⟩,
    ⟨.ge, fun _ _ => rfl, fun _ _ _ _ => rfl⟩, ⟨.ltu, fun _ _ => rfl, fun _ _ _ _ => rfl⟩, ⟨.geu, fun _ _ => rfl, fun _ _ _ _ => rfl⟩⟩

theorem exec_flagLogic : ∀ e ∈ flagLogic, ∀ (f p q : F3) (s : State), exec (e.1 f p q) s = flagOp e.2 f p q s := by
  simp only [flagLogic, List.forall_mem_cons, List.not_mem_nil, false_imp_iff, implies_true, and_true]
  exact ⟨fun _ _ _ _ => rfl, fun _ _ _ _ => rfl, fun f p q s =>
    congrArg (flagOp · f p q s) (funext₂ fun x y => by cases x <;> cases y <;> rfl)⟩

section Flags
variable {s : State} {g : BitVec 8}

theorem rdF_known {f : F3} (h : known (s.tile g) f) : s.rdF g f = .ok (flag (s.tile g) f) := if_neg (Bool.eq_false_iff.mp h)
theorem rdF_unknown {f : F3} (h : ¬ known (s.tile g) f) : s.rdF g f = waitIn s := if_pos (Bool.not_eq_false _ ▸ h)

variable (hc : s.cur = .stream g .a)
include hc

theorem flagCmp_clean {r : Rel} {f : F3} {a b : R5} (ha : (scalar (s.tile g) .a a).2 = false) (hb : (scalar (s.tile g) .a b).2 = false) :
    flagCmp r f a b s =
      .next (finished (s.modTile g (wroteFlag f (r.holds (scalar (s.tile g) .a a).1 (scalar (s.tile g) .a b).1))) g .a 1) := by
  rw [flagCmp, issue_a hc, ← settle_done]
  simp only [State.rdS2, rdS_a, rdA_eq_scalar, ha, hb]
  rfl

theorem flagCmp_poisoned {r : Rel} {f : F3} {a b : R5} (h : (scalar (s.tile g) .a a).2 = true ∨ (scalar (s.tile g) .a b).2 = true) :
    flagCmp r f a b s = .next (trapped s g .a { code := 0x2D }) := by
  rw [flagCmp, issue_a hc, ← settle_trap _ _ 1]
  simp only [State.rdS2, rdS_a, rdA_eq_scalar, Bool.or_eq_true_iff.mpr h]
  rfl

theorem flagOp_known {op : Bool → Bool → Bool} {f p q : F3} (hp : known (s.tile g) p) (hq : known (s.tile g) q) :
    flagOp op f p q s = .next (finished (s.modTile g (wroteFlag f (op (flag (s.tile g) p) (flag (s.tile g) q)))) g .a 1) := by
  rw [flagOp, issue_a hc, ← settle_done]
  simp only [rdF_known hp, rdF_known hq]
  rfl

/-- A flag without a result yet stalls its reader, the second one too. -/
theorem flagOp_unknown {op : Bool → Bool → Bool} {f p q : F3} (h : ¬ known (s.tile g) p ∨ ¬ known (s.tile g) q) :
    flagOp op f p q s = .next (s.stalled g .a .other) := by
  rw [flagOp, issue_a hc]
  by_cases hp : known (s.tile g) p
  · simp only [rdF_known hp, rdF_unknown (h.resolve_left (not_not_intro hp))]
    rfl
  · simp only [rdF_unknown hp]
    rfl

theorem fget_known {d : R5} {p : F3} (hp : known (s.tile g) p) :
    execFget d p s = .next (finished (s.modTile g (wrote .a 1 d (if flag (s.tile g) p then 1 else 0) false)) g .a 1) := by
  rw [execFget, issue_a hc, ← settle_done]
  simp only [rdF_known hp]
  rfl

theorem fget_unknown {d : R5} {p : F3} (hp : ¬ known (s.tile g) p) : execFget d p s = .next (s.stalled g .a .other) := by
  rw [execFget, issue_a hc]
  simp only [rdF_unknown hp]
  rfl

theorem fput_clean {f : F3} {a : R5} (ha : (scalar (s.tile g) .a a).2 = false) :
    execFput f a s = .next (finished (s.modTile g (wroteFlag f ((scalar (s.tile g) .a a).1 != 0))) g .a 1) := by
  rw [execFput, issue_a hc, ← settle_done]
  simp only [rdS_a, rdA_eq_scalar, ha]
  rfl

theorem fput_poisoned {f : F3} {a : R5} (ha : (scalar (s.tile g) .a a).2 = true) :
    execFput f a s = .next (trapped s g .a { code := 0x2D }) := by
  rw [execFput, issue_a hc, ← settle_trap _ _ 1]
  simp only [rdS_a, rdA_eq_scalar, ha]
  rfl

/-- A stalled A-stream stays where it is, with its flags and registers. -/
theorem stalled_keeps (why : WaitWhy) : let v := s.stalled g .a why
    v.cur = .stream g .a ∧ (v.tile g).apc = (s.tile g).apc ∧ (v.tile g).flags = (s.tile g).flags ∧ (v.tile g).areg = (s.tile g).areg := by
  obtain ⟨b, hb, _, _, _, rfl⟩ := stalled_sameButPmc s g .a why
  simp only [hb, State.tile_setTile, and_true]
  exact hc

end Flags

/-! ### Words of major 0x08 -/

section FlagWords
variable {w : W32} (next : W32) (h : fld w 26 6 = 0x08)
include h

theorem decodeStream_flag : decodeStream w next = decodeFlag w := stream_flag next (by rw [h]; rfl)

theorem decodeStream_flag_dest (hf : (fld w 0 6).toNat ≤ 8 ∨ fld w 0 6 = 10) (hz : fld w 24 2 ≠ 0) : decodeStream w next = .error 0x01 := by
  have hfn : (fld w 0 6).toNat ≤ 8 ∨ (fld w 0 6).toNat = 10 := hf.imp_right fun e => congrArg BitVec.toNat e
  rw [decodeStream_flag next h, decodeFlag, bne_true hz]
  generalize (fld w 0 6).toNat = n at hfn
  obtain hn | rfl := hfn
  · interval_cases n <;> rfl
  · rfl

theorem decodeStream_flag_first (h6 : 6 ≤ (fld w 0 6).toNat) (h9 : (fld w 0 6).toNat ≤ 9) (hz : fld w 19 2 ≠ 0) :
    decodeStream w next = .error 0x01 := by
  rw [decodeStream_flag next h, decodeFlag, bne_true hz]
  generalize (fld w 0 6).toNat = n at h6 h9
  interval_cases n <;> simp only [Bool.or_true, Bool.true_or] <;> rfl

theorem decodeStream_flag_second (h6 : 6 ≤ (fld w 0 6).toNat) (h8 : (fld w 0 6).toNat ≤ 8) (hz : fld w 14 2 ≠ 0) :
    decodeStream w next = .error 0x01 := by
  rw [decodeStream_flag next h, decodeFlag, bne_true hz]
  generalize (fld w 0 6).toNat = n at h6 h8
  interval_cases n <;> simp only [Bool.or_true] <;> rfl

theorem decodeStream_flag_undefined (h11 : 11 ≤ (fld w 0 6).toNat) : decodeStream w next = .error 0x00 := by
  rw [decodeStream_flag next h, decodeFlag]
  have hlt := (fld w 0 6).isLt
  generalize (fld w 0 6).toNat = n at h11 hlt
  interval_cases n <;> rfl

end FlagWords

/-- Settles O3. -/
theorem flagOperations : Obligations.FlagOperations := by
  unfold Obligations.FlagOperations
  intro s g d a b f p q hc t x y
  refine ⟨fun e he hx hy => ?clean, fun e he hxy => ?poisoned, fun e he hp hq => ?logic, fget_known hc, fput_clean hc, fput_poisoned hc,
    fun i hi hp => ?stallP, fun i hi hq => ?stallQ, fun w next h => decodeStream_flag_dest next h,
    fun w next h => decodeStream_flag_first next h, fun w next h => decodeStream_flag_second next h,
    fun w next h => decodeStream_flag_undefined next h⟩
  case clean =>
    obtain ⟨r, hr, hexec⟩ := exec_compares e he
    rw [hexec, ← hr]
    exact flagCmp_clean hc hx hy
  case poisoned =>
    obtain ⟨r, -, hexec⟩ := exec_compares e he
    rw [hexec]
    exact flagCmp_poisoned hc hxy
  case logic =>
    rw [exec_flagLogic e he]
    exact flagOp_known hc hp hq
  case stallP =>
    refine ⟨s.stalled g .a .other, ?_, stalled_keeps hc _⟩
    simp only [List.mem_cons, List.not_mem_nil, or_false] at hi
    obtain rfl | rfl | rfl | rfl := hi
    · exact fget_unknown hc hp
    · exact flagOp_unknown hc (.inl hp)
    · exact flagOp_unknown hc (.inl hp)
    · exact flagOp_unknown hc (.inl hp)
  case stallQ =>
    obtain ⟨hcur, hpc, hflags, -⟩ := stalled_keeps hc .other
    refine ⟨s.stalled g .a .other, ?_, hcur, hpc, hflags⟩
    simp only [List.mem_cons, List.not_mem_nil, or_false] at hi
    obtain rfl | rfl | rfl := hi
    · exact flagOp_unknown hc (.inr hq)
    · exact flagOp_unknown hc (.inr hq)
    · exact flagOp_unknown hc (.inr hq)

end Sys2Proof.Machine
end

section
set_option Elab.async false
namespace Sys2Proof.Machine
open Sys2Proof.Says

/-! ## Branches and jumps (R359 to R362) -/

theorem relTarget_eq_target {w : Nat} (pc : Pc) (disp : BitVec w) : relTarget pc disp = target pc disp := by
  rw [relTarget, target, BitVec.ofInt_add, BitVec.ofInt_natCast, BitVec.ofNat_toNat, BitVec.setWidth_eq]
  rfl

/-- A displacement of 16 bits, cut to the 14 of a PC. -/
theorem setWidth_eq_ofInt (disp : BitVec 16) : disp.setWidth 14 = BitVec.ofInt 14 disp.toInt :=
  (BitVec.signExtend_eq_setWidth_of_le disp (by decide)).symm

theorem addDisp_eq_target (pc : Pc) (disp : BitVec 16) : pc + disp.setWidth 14 = target pc disp := by
  rw [setWidth_eq_ofInt, ← relTarget_eq_target]
  rfl

theorem registerTarget_eq (x : W64) (disp : BitVec 16) : target (x.setWidth 14) disp = BitVec.ofInt 14 (x.toNat + disp.toInt) := by
  rw [← addDisp_eq_target, setWidth_eq_ofInt, BitVec.ofInt_add, BitVec.ofInt_natCast, BitVec.ofNat_toNat]

/-- The link: the PC of the next word, zero-extended. -/
theorem link_eq (pc : Pc) : (pc + 1).setWidth 64 = BitVec.ofNat 64 ((pc.toNat + 1) % 16384) := by
  apply BitVec.eq_of_toNat_eq
  rw [BitVec.toNat_setWidth, BitVec.toNat_add, BitVec.toNat_ofNat]
  rfl

/-- The relation of a branch as the model tests it. -/
theorem exec_compareBranches : ∀ e ∈ branches, ∃ r : Rel, (∀ x y, r.holds x y = e.2 x y) ∧
    ∀ (a b : R5) (disp : BitVec 13) (s : State), exec (e.1 a b disp) s = branchCmp r a b disp s := by
  simp only [branches, List.forall_mem_cons, List.not_mem_nil, false_imp_iff, implies_true, and_true]
  exact ⟨⟨.eq, fun _ _ => rfl, fun _ _ _ _ => rfl⟩, ⟨.ne, fun _ _ => rfl, fun _ _ _ _ => rfl⟩, ⟨.lt, fun _ _ => rfl, fun _ _ _ _ => rfl⟩,
    ⟨.ge, fun _ _ => rfl, fun _ _ _ _ => rfl⟩, ⟨.ltu, fun _ _ => rfl, fun _ _ _ _ => rfl⟩, ⟨.geu, fun _ _ => rfl, fun _ _ _ _ => rfl⟩⟩

/-- A body that branches or goes on. -/
theorem settle_branched (g : BitVec 8) (st : Stream) (s : State) (taken : Bool) (disp : BitVec 13) :
    settle g st 1 (.ok (s, if taken then some (relTarget ((s.tile g).pc st) disp) else none)) = branched s g st taken disp := by
  cases taken with
  | false => exact settle_done ..
  | true =>
    rw [if_pos rfl, relTarget_eq_target]
    exact settle_jumped ..

/-- Nothing to link: register 0 takes no write. -/
theorem jumped_link_zero (u : State) (g : BitVec 8) (st : Stream) (v : W64) (p : Pc) :
    jumped (u.modTile g (wrote st 1 0 v false)) g st p = jumped u g st p := by
  unfold jumped
  rw [State.modTile_modTile]
  rfl

section Branches
variable {s : State} {g : BitVec 8} {st : Stream} {srcs : List XDst} {d : R5} (h : Ready s g st srcs (.x d))
include h

theorem branchCmp_clean {r : Rel} {a b : R5} {disp : BitVec 13} (ha : .x a ∈ srcs) (hb : .x b ∈ srcs) :
    let u := opened s g st
    let x := scalar (u.tile g) st a
    let y := scalar (u.tile g) st b
    x.2 = false → y.2 = false → branchCmp r a b disp s = .next (branched u g st (r.holds x.1 y.1) disp) := by
  intro u x y hx hy
  rw [branchCmp, ready_issueJ h, ← settle_branched]
  simp only [State.rdS2, ready_reads h ha, ready_reads h hb, show (scalar ((opened s g st).tile g) st a).2 = false from hx,
    show (scalar ((opened s g st).tile g) st b).2 = false from hy]
  rfl

theorem branchCmp_poisoned {r : Rel} {a b : R5} {disp : BitVec 13} (ha : .x a ∈ srcs) (hb : .x b ∈ srcs) :
    let u := opened s g st
    (scalar (u.tile g) st a).2 = true ∨ (scalar (u.tile g) st b).2 = true → branchCmp r a b disp s = .next (trapped u g st { code := 0x2D }) := by
  intro u hxy
  rw [branchCmp, ready_issueJ h, ← settle_trap _ _ 1]
  have hor : ((scalar ((opened s g st).tile g) st a).2 || (scalar ((opened s g st).tile g) st b).2) = true := Bool.or_eq_true_iff.mpr hxy
  simp only [State.rdS2, ready_reads h ha, ready_reads h hb, hor]
  rfl

omit h in
theorem rdS_zero (u : State) (g : BitVec 8) (st : Stream) : u.rdS g st 0 = ((0, false), u) := by cases st <;> rfl

/-- The target of a jump: relative to the PC without a register, relative to the register otherwise (R362). -/
def jumpTarget (pc : Pc) (b : R5) (x : W64) (disp : BitVec 16) : Pc :=
  if b = 0 then target pc disp else BitVec.ofInt 14 (x.toNat + disp.toInt)

section Jumps
variable {b : R5} {x : W64 × Bool} (disp : BitVec 16) (hread : (opened s g st).rdS g st b = (x, opened s g st))
include hread

/-- A jump whose register, if it has one, is clean. -/
theorem jump_reads (c : R5) (hclean : b = 0 ∨ x.2 = false) :
    let u := opened s g st
    let pc := (u.tile g).pc st
    jump c b disp s = .next (settle g st 1 ((if c = 0 then (.ok u : Res State) else do
      let s ← u.freeS g st c
      .ok (s.wrS g st c (BitVec.ofNat 64 ((pc.toNat + 1) % 16384)) false 1)).bind fun s => .ok (s, some (jumpTarget pc b x.1 disp)))) := by
  intro u pc
  have hnot : (b != 0 && x.2) = false := by
    obtain rfl | hx := hclean
    · rfl
    · rw [hx, Bool.and_false]
  rw [jump, ready_issueJ h]
  simp only [hread, hnot, raiseIf, Bool.false_eq_true, if_false, addDisp_eq_target, registerTarget_eq, link_eq]
  by_cases hc : c = 0
  · simp only [hc, if_true]
    rfl
  · simp only [hc, if_false]
    cases u.freeS g st c <;> rfl

theorem jump_without_link (hclean : b = 0 ∨ x.2 = false) : let u := opened s g st
    jump 0 b disp s = .next (jumped u g st (jumpTarget ((u.tile g).pc st) b x.1 disp)) := by
  intro u
  rw [jump_reads h disp hread 0 hclean, ← settle_jumped _ _ 1]
  rfl

theorem jump_with_link (hclean : b = 0 ∨ x.2 = false) :
    let u := opened s g st
    let pc := (u.tile g).pc st
    jump d b disp s = .next (jumped (u.modTile g (wrote st 1 d (BitVec.ofNat 64 ((pc.toNat + 1) % 16384)) false)) g st
      (jumpTarget pc b x.1 disp)) := by
  intro u pc
  by_cases hd : d = 0
  · subst hd
    rw [jump_without_link h disp hread hclean, jumped_link_zero]
  · rw [jump_reads h disp hread d hclean, if_neg hd, ready_free h, ← jumped_wrS, ← settle_jumped _ _ 1]
    rfl

theorem jump_poisoned (c : R5) (h0 : b ≠ 0) (hp : x.2 = true) : jump c b disp s = .next (trapped (opened s g st) g st { code := 0x2D }) := by
  rw [jump, ready_issueJ h, ← settle_trap _ _ 1]
  simp only [hread, hp, bne_true h0]
  rfl

end Jumps

end Branches

/-! ### What lands when the X-stream issues -/

/-- Landed writes change the X-stream's registers, FSTAT and the matrix configuration, and nothing else. -/
def Tile.LandedFrom (t u : Tile) : Prop :=
  ∃ xr xp v k z fs l ad p, t = { u with xreg := xr, xpois := xp, v := v, k := k, z := z, fstat := fs, leak := l, adty := ad, pend := p }

theorem Tile.land_landedFrom {t u : Tile} (h : t.LandedFrom u) (p : XPend) : (t.land p).LandedFrom u := by
  obtain ⟨_, _, _, _, _, _, _, _, _, rfl⟩ := h
  unfold Tile.land
  cases p.dst <;> exact ⟨_, _, _, _, _, _, _, _, _, rfl⟩

theorem landAll_landedFrom : ∀ (l : List XPend) {t u : Tile}, t.LandedFrom u → (landAll l t).LandedFrom u
  | [], _, _, h => h
  | p :: r, t, u, h => by
    rw [landAll]
    split
    · exact landAll_landedFrom r (Tile.land_landedFrom h p)
    · obtain ⟨_, _, _, _, _, _, _, _, _, rfl⟩ := h
      exact ⟨_, _, _, _, _, _, _, _, _, rfl⟩

theorem Tile.commit_landedFrom (t : Tile) : t.commit.LandedFrom t := landAll_landedFrom _ ⟨_, _, _, _, _, _, _, _, _, rfl⟩

@[simp] theorem Tile.commit_qb (t : Tile) : t.commit.qb = t.qb := by obtain ⟨_, _, _, _, _, _, _, _, _, h⟩ := t.commit_landedFrom; rw [h]
@[simp] theorem Tile.commit_q (t : Tile) : t.commit.q = t.q := by obtain ⟨_, _, _, _, _, _, _, _, _, h⟩ := t.commit_landedFrom; rw [h]
@[simp] theorem Tile.commit_tk (t : Tile) : t.commit.tk = t.tk := by obtain ⟨_, _, _, _, _, _, _, _, _, h⟩ := t.commit_landedFrom; rw [h]
@[simp] theorem Tile.commit_xpc (t : Tile) : t.commit.xpc = t.xpc := by obtain ⟨_, _, _, _, _, _, _, _, _, h⟩ := t.commit_landedFrom; rw [h]
@[simp] theorem Tile.commit_xcyc (t : Tile) : t.commit.xcyc = t.xcyc := by obtain ⟨_, _, _, _, _, _, _, _, _, h⟩ := t.commit_landedFrom; rw [h]

theorem opened_x_tile (s : State) (g : BitVec 8) : (opened s g .x).tile g = (s.tile g).commit := State.tile_modTile ..

/-- Settles O5. -/
theorem jumpsAndLinks : Obligations.JumpsAndLinks := by
  unfold Obligations.JumpsAndLinks
  intro s g st d b disp h u pc x link
  have hzero : u.rdS g st 0 = ((0, false), u) := rdS_zero ..
  have hread : u.rdS g st b = (x, u) := ready_reads h (List.mem_singleton.mpr rfl)
  refine ⟨jump_without_link h disp hzero (.inl rfl), jump_with_link h disp hzero (.inl rfl), fun h0 hx => ?clean,
    fun h0 hx => ⟨jump_poisoned h disp hread 0 h0 hx, jump_poisoned h disp hread d h0 hx⟩⟩
  case clean =>
    have htarget : jumpTarget pc b x.1 disp = BitVec.ofInt 14 (x.1.toNat + disp.toInt) := if_neg h0
    rw [← htarget]
    exact ⟨jump_without_link h disp hread (.inr hx), jump_with_link h disp hread (.inr hx)⟩

theorem branchFlag_known {s : State} {g : BitVec 8} (hc : s.cur = .stream g .a) {f : F3} (hf : known (s.tile g) f) (v : Bool) (disp : BitVec 13) :
    branchFlag v f disp s = .next (branched s g .a (flag (s.tile g) f == v) disp) := by
  unfold branchFlag issueJ
  simp only [hc, ← settle_branched, beq_iff_eq]
  simp only [Issuer.allows, State.openIssue, rdF_known hf]
  rfl

theorem branchQ_cons {s : State} {g : BitVec 8} (hc : s.cur = .stream g .x) {b : Bool} {r : List Bool} (hq : (s.tile g).qb = b :: r)
    (v : Bool) (disp : BitVec 13) :
    branchQ v disp s = .next (branched ((opened s g .x).modTile g fun t => { t with qb := r }) g .x (b == v) disp) := by
  have hqb : ((opened s g .x).tile g).qb = b :: r := by rw [opened_x_tile, Tile.commit_qb, hq]
  have hpc : (((opened s g .x).modTile g fun t => { t with qb := r }).tile g).pc .x = ((opened s g .x).tile g).pc .x := by
    rw [State.tile_modTile]
    rfl
  unfold branchQ issueJ
  rw [hc, ← settle_branched, hpc]
  show Host.Outcome.next (settle g .x 1 (match ((opened s g .x).tile g).qb with
    | [] => waitIn (opened s g .x) .queue
    | b :: r => .ok ((opened s g .x).modTile g (fun t => { t with qb := r }),
        if b = v then some (relTarget (((opened s g .x).tile g).pc .x) disp) else none))) = _
  simp only [hqb, beq_iff_eq]

/-- Settles O4. -/
theorem branchesGoWhereTheirConditionSays : Obligations.BranchesGoWhereTheirConditionSays := by
  unfold Obligations.BranchesGoWhereTheirConditionSays
  intro s g st a b f disp u x y
  have ha : XDst.x a ∈ [XDst.x a, .x b] := by simp
  have hb : XDst.x b ∈ [XDst.x a, .x b] := by simp
  refine ⟨fun e he h hx hy => ?clean, fun e he h hxy => ?poisoned, fun hc hf => ?flag, fun v r hc hq => ?queue⟩
  case clean =>
    obtain ⟨r, hr, hexec⟩ := exec_compareBranches e he
    rw [hexec, ← hr]
    exact branchCmp_clean h ha hb hx hy
  case poisoned =>
    obtain ⟨r, -, hexec⟩ := exec_compareBranches e he
    rw [hexec]
    exact branchCmp_poisoned h ha hb hxy
  case flag =>
    have hset := branchFlag_known hc hf true disp
    have hclear := branchFlag_known hc hf false disp
    rw [beq_true] at hset
    rw [beq_false] at hclear
    exact ⟨hset, hclear⟩
  case queue =>
    have hset := branchQ_cons hc hq true disp
    have hclear := branchQ_cons hc hq false disp
    rw [beq_true] at hset
    rw [beq_false] at hclear
    exact ⟨hset, hclear⟩

end Sys2Proof.Machine
end

section
set_option Elab.async false
/-! PROOFS. Tokens (chapter 17, R433). -/
namespace Sys2Proof.Machine
open Sys2Proof.Says

/-- A stalled stream stays where it is. -/
theorem stalled_stays (s : State) (g : BitVec 8) (st : Stream) (why : WaitWhy) :
    (s.stalled g st why).cur = s.cur ∧ ((s.stalled g st why).tile g).pc st = (s.tile g).pc st := by
  obtain ⟨b, hb, _, _, _, rfl⟩ := stalled_sameButPmc s g st why
  rw [hb, State.tile_setTile]
  exact ⟨rfl, by cases st <;> rfl⟩

@[simp] theorem opened_cur (s : State) (g : BitVec 8) (st : Stream) : (opened s g st).cur = s.cur := by cases st <;> rfl

section Tokens
variable {s : State} {g : BitVec 8} {st : Stream} {srcs : List XDst} {d : R5} (h : Ready s g st srcs (.x d)) (k : R5)
include h

theorem tkwait_ready : let u := opened s g st
    exec (.tkwait k) s = .next (if (u.tile g).tkPending k = true then u.stalled g st .token else finished u g st 1) := by
  intro u
  show execTkwait k s = _
  rw [execTkwait, ready_issue h]
  show Host.Outcome.next (settle g st 1 (Except.map _ (if (u.tile g).tkPending k = true then waitIn u .token else .ok u))) = _
  split
  · rfl
  · exact congrArg Host.Outcome.next (settle_done ..)

theorem tktest_ready : let u := opened s g st
    exec (.tktest d k) s = .next (finished (u.modTile g (wrote st 1 d (if (u.tile g).tkPending k then 0 else 1) false)) g st 1) := by
  intro u
  show execTktest d k s = _
  rw [execTktest, ready_issue h, ← finished_wrS, ← settle_done]
  simp only [ready_free h]
  rfl

theorem tkcnt_ready : let u := opened s g st
    exec (.tkcnt d k) s = .next (finished (u.modTile g (wrote st 1 d (((u.tile g).tkCount k).setWidth 64) false)) g st 1) := by
  intro u
  show execTkcnt d k s = _
  rw [execTkcnt, ready_issue h, ← finished_wrS, ← settle_done]
  simp only [ready_free h]
  rfl

end Tokens

/-- Settles O6. -/
theorem tokenInstructions : Obligations.TokenInstructions := by
  unfold Obligations.TokenInstructions
  intro s g st d k h u t pending count
  have hpend : t.tkPending k = true ↔ pending := by
    rw [Tile.tkPending, Bool.and_eq_true, bne_iff_ne]
    exact Iff.rfl
  refine ⟨fun hp => ?done, fun hp => ?complete, fun hp => ?unfinished, ?count, fun hp => ⟨u.stalled g st .token, ?stall, ?_, ?_⟩⟩
  case done => rw [tkwait_ready h, if_neg (hpend.not.mpr hp)]
  case complete => rw [tktest_ready h, if_neg (hpend.not.mpr hp)]
  case unfinished => rw [tktest_ready h, if_pos (hpend.mpr hp)]
  case count =>
    rw [tkcnt_ready h, setWidth_eq_ofNat]
    rfl
  case stall => rw [tkwait_ready h, if_pos (hpend.mpr hp)]
  · exact (stalled_stays ..).1.trans ((opened_cur ..).trans h.1)
  · exact (stalled_stays ..).2

end Sys2Proof.Machine
end

section
set_option Elab.async false
/-! PROOFS. Vector instructions (chapter 15, R378 to R401): how an instruction of the X-stream reads names, masks and registers, takes slots and
writes names. -/

namespace Sys2Proof.Machine

open Sys2Proof.Says

/-! ## The progress of an instruction of the X-stream

From the state `u` in which it issues, an instruction reads, takes slots and writes; `Progress` says how far it is. -/

/-- The writes `w` of names, one after another, on their way in a tile. -/
def landing (w : List (V6 × VW × Nat)) (a : Tile) : Tile :=
  w.foldl (fun (x : Tile) e => x.pendAt (.v e.1) e.2.1.mask e.2.1.val e.2.1.pmask e.2.1.pval e.2.2) a

/-- The tile `b` is `a` but for its names and units, with the writes `w` on their way. -/
def Stepped (w : List (V6 × VW × Nat)) (a b : Tile) : Prop := ∃ v un, b = { a with v := v, units := un, pend := (landing w a).pend }

theorem Stepped.with {w : List (V6 × VW × Nat)} {a b : Tile} (h : Stepped w a b) (v : Vector VName 64) (un : XUnits) :
    Stepped w a { b with v := v, units := un } := by
  obtain ⟨_, _, rfl⟩ := h
  exact ⟨v, un, rfl⟩

/-- In `s` an instruction of tile `g` that issues in `u` has taken slots for the names `ds` and written `w`; it has changed
nothing else but the last reads of names, the units' next X-cycles and the counter of free values. -/
structure Progress (u s : State) (g : BitVec 8) (ds : List V6) (w : List (V6 × VW × Nat)) : Prop where
  state : s = { u with tiles := s.tiles, fresh := s.fresh }
  others : ∀ h, h ≠ g → s.tile h = u.tile h
  tile : Stepped w (u.tile g) (s.tile g)
  taken : ∀ r ∈ ds, ((s.tile g).vname r).st = .live ∧ (((u.tile g).vname r).st = .live →
    ((s.tile g).vname r).val = ((u.tile g).vname r).val ∧ ((s.tile g).vname r).pois = ((u.tile g).vname r).pois)
  untagged : ∀ r ∈ w.map (·.1), ((s.tile g).vname r).tag = none
  kept : ∀ r, r ∉ ds → (s.tile g).vname r = { (u.tile g).vname r with lastRead := ((s.tile g).vname r).lastRead }

/-- An instruction that has taken no slot yet and written nothing. -/
abbrev Reading (u s : State) (g : BitVec 8) : Prop := Progress u s g [] []

theorem Progress.refl (u : State) (g : BitVec 8) : Reading u u g :=
  ⟨rfl, fun _ _ => rfl, ⟨_, _, rfl⟩, fun _ h => absurd h List.not_mem_nil, fun _ h => absurd h List.not_mem_nil, fun _ _ => rfl⟩

theorem landing_xcyc (w : List (V6 × VW × Nat)) (a : Tile) : (landing w a).xcyc = a.xcyc := by
  induction w generalizing a with
  | nil => rfl
  | cons e w ih => exact ih _

theorem landing_snoc (w : List (V6 × VW × Nat)) (e : V6 × VW × Nat) (a : Tile) :
    landing (w ++ [e]) a = (landing w a).pendAt (.v e.1) e.2.1.mask e.2.1.val e.2.1.pmask e.2.1.pval e.2.2 := List.foldl_append ..

/-- A write of a name goes on its way. -/
theorem Stepped.write {w : List (V6 × VW × Nat)} {a b : Tile} (h : Stepped w a b) (r : V6) (n : VName) (x : VW) (L : Nat) :
    Stepped (w ++ [(r, x, L)]) a ((b.setVname r n).pendAt (.v r) x.mask x.val x.pmask x.pval L) := by
  obtain ⟨v, un, rfl⟩ := h
  refine ⟨vset v r n, un, ?_⟩
  rw [landing_snoc]
  unfold Tile.pendAt Tile.setVname
  rw [landing_xcyc]

section Steps
variable {u s : State} {g : BitVec 8} {ds : List V6} {w : List (V6 × VW × Nat)} (h : Progress u s g ds w)
include h

/-- A change of the tile's names and units and of the counter of free values. -/
theorem Progress.setTile {b : Tile} (n : Nat) {ds' : List V6} {w' : List (V6 × VW × Nat)}
    (tile : Stepped w' (u.tile g) b)
    (taken : ∀ r ∈ ds', (b.vname r).st = .live ∧ (((u.tile g).vname r).st = .live →
      (b.vname r).val = ((u.tile g).vname r).val ∧ (b.vname r).pois = ((u.tile g).vname r).pois))
    (untagged : ∀ r ∈ w'.map (·.1), (b.vname r).tag = none)
    (kept : ∀ r, r ∉ ds' → b.vname r = { (u.tile g).vname r with lastRead := (b.vname r).lastRead }) :
    Progress u { s.setTile g b with fresh := n } g ds' w' := by
  have hb : ({ s.setTile g b with fresh := n } : State).tile g = b := State.tile_setTile ..
  refine ⟨?_, fun k hk => ?_, by rw [hb]; exact tile, by rw [hb]; exact taken, by rw [hb]; exact untagged, by rw [hb]; exact kept⟩
  · have hs := h.state
    calc ({ s.setTile g b with fresh := n } : State)
      _ = { s with tiles := (s.setTile g b).tiles, fresh := n } := rfl
      _ = _ := by rw [hs]
  · exact (State.tile_setTile_of_ne s b hk).trans (h.others k hk)

theorem Progress.xcyc : (s.tile g).xcyc = (u.tile g).xcyc := by obtain ⟨_, _, e⟩ := h.tile; rw [e]
theorem Progress.rcp : (s.tile g).rcp = (u.tile g).rcp := by obtain ⟨_, _, e⟩ := h.tile; rw [e]
theorem Progress.pend : (s.tile g).pend = (landing w (u.tile g)).pend := by obtain ⟨_, _, e⟩ := h.tile; rw [e]

end Steps

section Reads
variable {u s : State} {g : BitVec 8} (h : Reading u s g)
include h

/-- While it reads, every name is as it was but for its last read. -/
theorem Reading.vname (r : V6) : (s.tile g).vname r = { (u.tile g).vname r with lastRead := ((s.tile g).vname r).lastRead } :=
  h.kept r List.not_mem_nil

theorem Reading.openBits (d : XDst) : (s.tile g).openBits d = (u.tile g).openBits d := by
  unfold Tile.openBits
  rw [h.pend]
  rfl

theorem Reading.nameSrcs (r : V6) : (s.tile g).nameSrcs r = (u.tile g).nameSrcs r := by
  unfold Tile.nameSrcs Tile.slot
  rw [Reading.vname h r, h.rcp]

theorem Reading.taggedSrcs (r : V6) : (s.tile g).taggedSrcs r = (u.tile g).taggedSrcs r := by
  unfold Tile.taggedSrcs
  rw [Reading.nameSrcs h]
  congr 1
  funext x
  cases x with
  | v a =>
    dsimp only
    rw [show ((s.tile g).vname a).tag = ((u.tile g).vname a).tag by rw [Reading.vname h a]]
  | k a => rfl
  | x a => rfl

/-- What depends on a register does not change while an instruction reads. -/
theorem Reading.dependants (x : Src) : (s.tile g).dependants x = (u.tile g).dependants x := by
  have htag (r : V6) : ((s.tile g).vname r).tag = ((u.tile g).vname r).tag := by rw [Reading.vname h r]
  unfold Tile.dependants
  simp only [Reading.nameSrcs h, Reading.taggedSrcs h, htag]

/-- A register on which nothing depends is given up at once. -/
theorem Reading.freeReg {x : Src} (hx : (u.tile g).dependants x = []) : s.freeReg g x = .ok s :=
  freeReg_none ((Reading.dependants h x).trans hx)

theorem Reading.freeK {d : K4} (hd : d ≠ 0 → (u.tile g).dependants (.k d) = []) : s.freeK g d = .ok s := by
  unfold State.freeK
  split
  · rfl
  · next h0 => exact Reading.freeReg h (hd h0)

theorem Reading.freeS {d : R5} (hd : (u.tile g).dependants (.x d) = []) : s.freeS g .x d = .ok s := by
  unfold State.freeS
  dsimp only
  split
  · rfl
  · exact Reading.freeReg h hd

/-- A unit that is free takes the instruction. -/
theorem Reading.useUnit {k : XUnit} (n : Nat) (hs : (s.tile g).units = (u.tile g).units) (hk : (u.tile g).units.at k ≤ (u.tile g).xcyc) :
    ∃ s', s.useUnit g .x k n = .ok s' ∧ Reading u s' g := by
  refine ⟨_, (useUnit_x ..).trans (if_neg (by rw [hs, h.xcyc]; exact Nat.not_lt.mpr hk)), ?_⟩
  exact h.setTile s.fresh (h.tile.with ..) (fun _ h => absurd h List.not_mem_nil) (fun _ h => absurd h List.not_mem_nil)
    fun r _ => Reading.vname h r

omit h in
/-- A name that is not DROPPED is not replayed. -/
theorem replay_kept {ex : List Nat} {n : Nat} {r : V6} {s : State} (hr : ((s.tile g).vname r).st ≠ .dropped) : replay g ex n r s = .ok s := by
  cases n with
  | zero => rfl
  | succ n =>
    unfold replay
    cases hst : ((s.tile g).vname r).st with
    | dropped => exact absurd hst hr
    | empty => simp only [hst]
    | live => simp only [hst]

theorem Reading.needV {rs : List V6} (hr : ∀ r ∈ rs, ((u.tile g).vname r).st ≠ .dropped) : s.needV g rs = .ok s := by
  unfold State.needV
  generalize rs.map (·.toNat) = ex
  induction rs with
  | nil => rfl
  | cons r rs ih =>
    have hst : ((s.tile g).vname r).st ≠ .dropped := by rw [Reading.vname h r]; exact hr r List.mem_cons_self
    rw [List.foldl_cons, Except.bind, replay_kept hst]
    exact ih fun q hq => hr q (List.mem_cons_of_mem _ hq)

theorem Reading.openDst {ds : List V6} (keeps : Bool) (hd : ∀ r ∈ ds, (u.tile g).dependants (.v r) = [])
    (hst : ∀ r ∈ ds, ((u.tile g).vname r).st ≠ .dropped) : s.openDst g ds keeps = .ok s := by
  have hfree : ds.foldl (fun (a : Res State) r => a.bind fun s => s.freeReg g (.v r)) (.ok s) = .ok s := by
    induction ds with
    | nil => rfl
    | cons r ds ih =>
      rw [List.foldl_cons, Except.bind, Reading.freeReg h (hd r List.mem_cons_self)]
      exact ih (fun q hq => hd q (List.mem_cons_of_mem _ hq)) fun q hq => hst q (List.mem_cons_of_mem _ hq)
  unfold State.openDst
  rw [hfree]
  cases keeps with
  | false => rfl
  | true => exact Reading.needV h hst

theorem Reading.fresh (n : Nat) : Reading u { s with fresh := n } g :=
  ⟨by rw [h.state], h.others, h.tile, h.taken, h.untagged, h.kept⟩

theorem Reading.rdK (m : K4) : Reading u (s.rdK g m).2 g ∧ ReadsK (u.tile g) m (s.rdK g m).1 := by
  refine ⟨?_, fun h0 => by rw [h0, rdK_zero], fun h0 hp => ?_⟩
  · obtain ⟨n, hn⟩ := rdK_state s g m
    rw [hn]
    exact Reading.fresh h n
  · have hopen : ((s.tile g).openBits (.k m)).1 = 0 := by rw [Reading.openBits h, openBits_closed hp]
    unfold State.rdK
    simp only [h0, if_false, hopen, State.readOpen, if_true]
    obtain ⟨_, _, e⟩ := h.tile
    rw [e]

theorem Reading.rdS (r : R5) : Reading u (s.rdS g .x r).2 g ∧ ReadsX (u.tile g) r (s.rdS g .x r).1 := by
  refine ⟨?_, fun h0 => by rw [h0, rdS_x0], fun hp => ?_⟩
  · obtain ⟨n, hn⟩ := rdS_state s g .x r
    rw [hn]
    exact Reading.fresh h n
  · rw [rdS_eq_scalar fun _ p hq => hp p (by rw [h.pend] at hq; exact hq)]
    obtain ⟨_, _, e⟩ := h.tile
    rw [e]
    rfl

theorem Reading.rdFctl : s.rdFctl g = (roundingMode (u.tile g), ftz (u.tile g)) := by
  obtain ⟨_, _, e⟩ := h.tile
  unfold State.rdFctl
  rw [e]
  rfl

/-- A name's last read is noted. -/
theorem Reading.noted (r : V6) (n : Nat) :
    Reading u { s.setTile g ((s.tile g).setVname r { (s.tile g).vname r with lastRead := (s.tile g).xcyc }) with fresh := n } g := by
  refine h.setTile n (h.tile.with ..) (fun _ h => absurd h List.not_mem_nil) (fun _ h => absurd h List.not_mem_nil) fun q _ => ?_
  by_cases hq : q = r
  · subst hq
    rw [Tile.vname_setVname, Reading.vname h q]
  · rw [Tile.vname_setVname_of_ne _ _ hq]
    exact Reading.vname h q

theorem Reading.rdV (r : V6) : Reading u (s.rdV g r).2 g ∧ ReadsV (u.tile g) r (s.rdV g r).1 := by
  refine ⟨?_, fun hlive hp => ?_⟩
  · obtain ⟨n, hn⟩ := rdV_state s g r
    rw [hn]
    exact Reading.noted h r n
  · have hst : ((s.tile g).vname r).st = .live := by rw [Reading.vname h r]; exact hlive
    have hopen : (s.tile g).openBits (.v r) = (0, 0) := by rw [Reading.openBits h, openBits_closed hp]
    unfold State.rdV
    simp only [hst, hopen, State.readOpen, if_true]
    rw [Reading.vname h r]
    exact Prod.ext rfl BitVec.and_allOnes

end Reads

/-! ## Slots and writes -/

theorem length_filter_set_le {α : Type} (p : α → Bool) (x : α) : ∀ (l : List α) (i : Nat),
    ((l.set i x).filter p).length ≤ (l.filter p).length + 1
  | [], _ => by simp
  | y :: l, 0 => by
    rw [List.set_cons_zero, List.filter_cons, List.filter_cons]
    cases p x <;> cases p y <;> simp <;> omega
  | y :: l, i + 1 => by
    have ih := length_filter_set_le p x l i
    rw [List.set_cons_succ, List.filter_cons, List.filter_cons]
    split
    · simpa using ih
    · exact ih

/-- A name of `t` that becomes LIVE adds at most one to the names that hold slots. -/
theorem liveCount_setVname_le (t : Tile) (r : V6) (n : VName) : (t.setVname r n).liveCount ≤ t.liveCount + 1 := by
  unfold Tile.liveCount Tile.setVname vset
  rw [Vector.toList_setIfInBounds]
  exact length_filter_set_le ..

theorem setVname_setVname (t : Tile) (r : V6) (n m : VName) : (t.setVname r n).setVname r m = t.setVname r m := by
  unfold Tile.setVname vset
  rw [Vector.setIfInBounds_setIfInBounds]

/-- A name that has a slot, or for which one is free, takes it: it is LIVE; a LIVE name is as it was. -/
theorem takeSlot_free {t : Tile} {r : V6} (ex : List Nat) (h : (t.vname r).st = .live ∨ t.liveCount < 48) :
    t.takeSlot r ex = some (if (t.vname r).st = .live then t else t.setVname r { t.vname r with st := .live }) := by
  unfold Tile.takeSlot
  by_cases hl : (t.vname r).st = .live
  · simp only [hl, if_true]
  · simp only [hl, if_false, h.resolve_left hl, if_true]

theorem noteDrop_free {t : Tile} {r : V6} (t' : Tile) (h : (t.vname r).st = .live ∨ t.liveCount < 48) : t.noteDrop r t' = t' := by
  refine if_neg fun hd => ?_
  obtain ⟨hl, hn⟩ := Bool.and_eq_true_iff.mp hd
  obtain h | h := h
  · exact absurd h (bne_iff_ne.mp hl)
  · exact absurd (of_decide_eq_true hn) (Nat.not_le.mpr h)

/-- The tile with name `r` LIVE: its value stays, or is `f` and clean when the name was EMPTY. -/
def Tile.taking (t : Tile) (r : V6) (f : Vec) : Tile :=
  match (t.vname r).st with
  | .live => t
  | .empty => t.setVname r { t.vname r with st := .live, val := f, pois := 0 }
  | .dropped => t.setVname r { t.vname r with st := .live }

theorem takeV_free {s : State} {g : BitVec 8} {r : V6} (ex : List Nat) (h : ((s.tile g).vname r).st = .live ∨ (s.tile g).liveCount < 48) :
    ∃ f n, s.takeV g ex r = .ok { s.setTile g ((s.tile g).taking r f) with fresh := n } := by
  unfold State.takeV Tile.taking
  simp only [takeSlot_free ex h, noteDrop_free _ h]
  cases hst : ((s.tile g).vname r).st with
  | live => exact ⟨0, s.fresh, rfl⟩
  | dropped => exact ⟨0, s.fresh, rfl⟩
  | empty =>
    refine ⟨(s.free 2048).1, (s.free 2048).2.fresh, ?_⟩
    simp only [reduceCtorEq, if_false, if_true, Tile.vname_setVname, setVname_setVname]
    rfl

theorem taking_taken (t : Tile) (r : V6) (f : Vec) :
    ((t.taking r f).vname r).st = .live ∧ ((t.vname r).st = .live → (t.taking r f).vname r = t.vname r) := by
  unfold Tile.taking
  cases hst : (t.vname r).st with
  | live => exact ⟨hst, fun _ => rfl⟩
  | empty => exact ⟨by rw [Tile.vname_setVname], nofun⟩
  | dropped => exact ⟨by rw [Tile.vname_setVname], nofun⟩

theorem taking_of_ne (t : Tile) {r k : V6} (f : Vec) (h : k ≠ r) : (t.taking r f).vname k = t.vname k := by
  unfold Tile.taking
  cases (t.vname r).st with
  | live => rfl
  | empty => exact Tile.vname_setVname_of_ne _ _ h
  | dropped => exact Tile.vname_setVname_of_ne _ _ h

theorem taking_liveCount_le (t : Tile) (r : V6) (f : Vec) : (t.taking r f).liveCount ≤ t.liveCount + 1 := by
  unfold Tile.taking
  cases (t.vname r).st with
  | live => exact Nat.le_succ _
  | empty => exact liveCount_setVname_le ..
  | dropped => exact liveCount_setVname_le ..

theorem taking_stepped {w : List (V6 × VW × Nat)} {a t : Tile} (h : Stepped w a t) (r : V6) (f : Vec) : Stepped w a (t.taking r f) := by
  unfold Tile.taking
  cases (t.vname r).st with
  | live => exact h
  | empty => exact h.with ..
  | dropped => exact h.with ..

/-- There are slots for the names `rs` (R161): all hold one, or enough are free. -/
def SlotsFor (t : Tile) (rs : List V6) : Prop := (∀ r ∈ rs, (t.vname r).st = .live) ∨ t.liveCount + rs.length ≤ 48

theorem SlotsFor.head {t : Tile} {r : V6} {rs : List V6} (h : SlotsFor t (r :: rs)) : (t.vname r).st = .live ∨ t.liveCount < 48 := by
  obtain h | h := h
  · exact .inl (h r List.mem_cons_self)
  · rw [List.length_cons] at h
    exact .inr (by omega)

theorem SlotsFor.tail {t : Tile} {r : V6} {rs : List V6} (h : SlotsFor t (r :: rs)) (f : Vec) : SlotsFor (t.taking r f) rs := by
  obtain h | h := h
  · refine .inl fun q hq => ?_
    by_cases e : q = r
    · rw [e]; exact (taking_taken t r f).1
    · rw [taking_of_ne t f e]; exact h q (List.mem_cons_of_mem _ hq)
  · have := taking_liveCount_le t r f
    rw [List.length_cons] at h
    exact .inr (by omega)

section Taking
variable {u s : State} {g : BitVec 8} {ds : List V6}

/-- Before its writes, an instruction takes the slots of a list of names. -/
theorem Progress.takeV_foldl {rs : List V6} (ex : List Nat) (h : Progress u s g ds []) (hs : SlotsFor (s.tile g) rs) :
    ∃ s', rs.foldl (fun (a : Res State) r => a.bind fun s => s.takeV g ex r) (.ok s) = .ok s' ∧ Progress u s' g (ds ++ rs) [] := by
  induction rs generalizing s ds with
  | nil => exact ⟨s, rfl, by rw [List.append_nil]; exact h⟩
  | cons r rs ih =>
    obtain ⟨f, n, he⟩ := takeV_free (s := s) ex hs.head
    obtain ⟨hlive, hkeep⟩ := taking_taken (s.tile g) r f
    have hp : Progress u { s.setTile g ((s.tile g).taking r f) with fresh := n } g (ds ++ [r]) [] := by
      refine h.setTile n (taking_stepped h.tile r f) (fun q hq => ?_) (fun _ h => absurd h List.not_mem_nil) fun q hq => ?_
      · by_cases e : q = r
        · subst e
          refine ⟨hlive, fun hu => ?_⟩
          by_cases hd : q ∈ ds
          · obtain ⟨hql, hqv⟩ := h.taken q hd
            rw [hkeep hql]
            exact hqv hu
          · have hk := h.kept q hd
            rw [hkeep (by rw [hk]; exact hu), hk]
            exact ⟨rfl, rfl⟩
        · rw [taking_of_ne _ _ e]
          exact h.taken q ((List.mem_append.mp hq).resolve_right fun hr => e (List.mem_singleton.mp hr))
      · rw [List.mem_append, List.mem_singleton, not_or] at hq
        rw [taking_of_ne _ _ hq.2]
        exact h.kept q hq.1
    have htile : ({ s.setTile g ((s.tile g).taking r f) with fresh := n } : State).tile g = (s.tile g).taking r f := State.tile_setTile ..
    obtain ⟨s', hs', hp'⟩ := ih hp (by rw [htile]; exact hs.tail f)
    refine ⟨s', ?_, by rw [← List.append_cons] at hp'; exact hp'⟩
    rw [List.foldl_cons, Except.bind, he]
    exact hs'

/-- The names of a tile that are LIVE, counted by their numbers. -/
theorem liveCount_eq (t : Tile) :
    t.liveCount = ((List.range 64).filter fun i => (t.vname (BitVec.ofNat 6 i)).st == .live).length := by
  have hlist : t.v.toList = (List.range 64).map fun i => t.vname (BitVec.ofNat 6 i) := by
    refine List.ext_getElem (by simp) fun i hi _ => ?_
    have hlt : i < 64 := by simpa using hi
    rw [List.getElem_map, List.getElem_range]
    unfold Tile.vname vget
    rw [BitVec.toNat_ofNat, Nat.mod_eq_of_lt (by omega), List.getD_eq_getElem _ _ hi]
  unfold Tile.liveCount
  rw [hlist, List.filter_map, List.length_map]
  rfl

theorem Reading.liveCount (h : Reading u s g) : (s.tile g).liveCount = (u.tile g).liveCount := by
  have hst (r : V6) : ((s.tile g).vname r).st = ((u.tile g).vname r).st := by rw [Reading.vname h r]
  simp only [liveCount_eq, hst]

theorem Reading.slotsFor (h : Reading u s g) {rs : List V6} (hs : SlotsFor (u.tile g) rs) : SlotsFor (s.tile g) rs := by
  unfold SlotsFor
  rw [Reading.liveCount h]
  exact hs.imp_left fun hl r hr => by rw [Reading.vname h r]; exact hl r hr

theorem Reading.takeSlots (h : Reading u s g) {rs : List V6} (hs : SlotsFor (u.tile g) rs) :
    ∃ s', s.takeSlots g rs = .ok s' ∧ Progress u s' g rs [] := by
  obtain ⟨s', he, hp⟩ := h.takeV_foldl (rs.map (·.toNat)) (Reading.slotsFor h hs)
  exact ⟨s', by rw [State.takeSlots, he], hp⟩

/-- A name with a slot is written. -/
theorem Progress.wrV {w : List (V6 × VW × Nat)} (h : Progress u s g ds w) {r : V6} (hr : r ∈ ds) (x : VW) (L : Nat) :
    Progress u (s.wrV g r x.mask x.val x.pmask x.pval L) g ds (w ++ [(r, x, L)]) := by
  have hname (q : V6) : (((s.tile g).setVname r { (s.tile g).vname r with tag := none, lastRead := (s.tile g).xcyc }).pendAt (.v r)
      x.mask x.val x.pmask x.pval L).vname q =
      if q = r then { (s.tile g).vname r with tag := none, lastRead := (s.tile g).xcyc } else (s.tile g).vname q := by
    show ((s.tile g).setVname r _).vname q = _
    split
    · next e => rw [e, Tile.vname_setVname]
    · next e => rw [Tile.vname_setVname_of_ne _ _ e]
  refine h.setTile s.fresh ?_ (fun q hq => ?_) (fun q hq => ?_) fun q hq => ?_
  · exact h.tile.write ..
  · rw [hname]
    split
    · next e => subst e; exact h.taken q hq
    · exact h.taken q hq
  · rw [hname]
    split
    · rfl
    · next e =>
      rw [List.map_append, List.mem_append] at hq
      exact h.untagged q (hq.resolve_right fun hm => e (by simpa using hm))
  · rw [hname, if_neg fun e : q = r => hq (e ▸ hr)]
    exact h.kept q hq

end Taking

/-- The writes of a group: name k closes `step`·k X-cycles after the first (R390, R398). -/
def groupWrites (step L : Nat) (l : List (V6 × VW)) : List (V6 × VW × Nat) := l.mapIdx fun k e => (e.1, e.2, L + step * k)

theorem groupWrites_cons (step L : Nat) (e : V6 × VW) (l : List (V6 × VW)) :
    groupWrites step L (e :: l) = (e.1, e.2, L) :: groupWrites step (L + step) l := by
  unfold groupWrites
  rw [List.mapIdx_cons]
  refine congrArg₂ List.cons rfl (congrArg (List.mapIdx · l) (funext₂ fun k e => ?_))
  rw [Nat.mul_add, Nat.mul_one, Nat.add_assoc, Nat.add_comm step]

theorem map_fst_groupWrites (step L : Nat) (l : List (V6 × VW)) : (groupWrites step L l).map (·.1) = l.map (·.1) := by
  induction l generalizing L with
  | nil => rfl
  | cons e l ih => rw [groupWrites_cons, List.map_cons, List.map_cons, ih]

section Writing
variable {u s : State} {g : BitVec 8} {ds : List V6} {w : List (V6 × VW × Nat)}

theorem Progress.wrGroup (h : Progress u s g ds w) (step L : Nat) {l : List (V6 × VW)} (hl : ∀ e ∈ l, e.1 ∈ ds) :
    Progress u (State.wrGroup g step L l s) g ds (w ++ groupWrites step L l) := by
  induction l generalizing s w L with
  | nil => rw [show groupWrites step L [] = [] from rfl, List.append_nil]; exact h
  | cons e l ih =>
    rw [groupWrites_cons, List.append_cons]
    exact ih (h.wrV (hl e List.mem_cons_self) e.2 L) (L + step) fun e he => hl e (List.mem_cons_of_mem _ he)

/-- The flags that an instruction sets are on their way, or there are none. -/
theorem pendFlags_eq (t : Tile) (fl : BitVec 6) (L : Nat) : t.pendFlags fl L = { t with pend := (t.pendFlags fl L).pend } := by
  unfold Tile.pendFlags
  split <;> rfl

theorem pendFlags_pend {t a : Tile} (hp : t.pend = a.pend) (hx : t.xcyc = a.xcyc) (fl : BitVec 6) (L : Nat) :
    (t.pendFlags fl L).pend = (a.pendFlags fl L).pend := by
  unfold Tile.pendFlags Tile.pendAt
  split
  · exact hp
  · simp only [hp, hx]

/-- What is left of its tile when an instruction of one word of the X-stream has issued. -/
theorem finished_x_tile (s : State) (g : BitVec 8) : ∃ c1 c2 c3, (finished s g .x 1).tile g =
    { s.tile g with xpc := (s.tile g).xpc + 1, xcyc := (s.tile g).xcyc + 1, pmc := c1, pmovf := c2, pmwrap := c3 } := by
  obtain ⟨c1, c2, c3, h⟩ := Tile.count_eq (((s.tile g).setPc .x ((s.tile g).pc .x + BitVec.ofNat 14 1)).passX .x 1) 0x02 (some .x)
  have hcur : (finished s g .x 1).tile g =
      (s.modTile g fun t => ((t.setPc .x (t.pc .x + BitVec.ofNat 14 1)).passX .x 1).count 0x02 (some .x)).tile g := rfl
  refine ⟨c1, c2, c3, ?_⟩
  rw [hcur, State.tile_modTile, h]
  unfold Tile.passX Tile.setPc Tile.pc
  rfl

/-- An instruction that has written all the names it took slots for, and sets its flags, is finished. -/
theorem Progress.finish (h : Progress u s g (w.map (·.1)) w) (fl : BitVec 6) (L : Nat) :
    VEffect u (finished (s.modTile g fun t => t.pendFlags fl L) g .x 1) g w fl L := by
  obtain ⟨v, un, ht⟩ := h.tile
  obtain ⟨c1, c2, c3, hb⟩ := finished_x_tile (s.modTile g fun t => t.pendFlags fl L) g
  rw [State.tile_modTile, pendFlags_eq] at hb
  have hv (r : V6) : ((finished (s.modTile g fun t => t.pendFlags fl L) g .x 1).tile g).vname r = (s.tile g).vname r := by
    rw [hb]
    rfl
  refine ⟨?_, fun k hk => ?_, ?_, ?_, fun r hr => ?_, fun r hr => ?_⟩
  · have hs := h.state
    calc finished (s.modTile g fun t => t.pendFlags fl L) g .x 1
      _ = { s with tiles := (finished (s.modTile g fun t => t.pendFlags fl L) g .x 1).tiles, cur := .none } := rfl
      _ = _ := by rw [hs]; rfl
  · rw [finished_tile_of_ne _ hk, State.tile_modTile_of_ne _ _ hk]
    exact h.others k hk
  · rw [hb, ht]
  · rw [hb]
    exact pendFlags_pend h.pend (by rw [h.xcyc]; exact (landing_xcyc ..).symm) fl L
  · rw [hv]
    obtain ⟨hlive, hold⟩ := h.taken r hr
    exact ⟨hlive, h.untagged r hr, hold⟩
  · rw [hv]
    exact h.kept r hr

/-- One name is written with its latency, and flags are set. -/
theorem Reading.putV (h : Reading u s g) {d : V6} (hs : SlotsFor (u.tile g) [d]) (x : VW) (fl : BitVec 6) (L : Nat) :
    ∃ s', s.putV g d x fl L = .ok s' ∧ VEffect u (finished s' g .x 1) g [(d, x, L)] fl L := by
  obtain ⟨s', he, hp⟩ := Reading.takeSlots h hs
  refine ⟨_, ?_, Progress.finish (hp.wrV List.mem_cons_self x L) fl L⟩
  rw [State.putV, he]
  rfl

end Writing

end Sys2Proof.Machine
end

section
set_option Elab.async false
namespace Sys2Proof.Machine
open Sys2Proof.Says

/-! ## Element arithmetic (R385, R389) -/

theorem opened_eq_openIssue (s : State) (g : BitVec 8) (st : Stream) : opened s g st = s.openIssue g st := by cases st <;> rfl

section Issue
variable {s : State} {g : BitVec 8} (hc : s.cur = .stream g .x)
include hc

/-- An instruction of the X-stream whose body is done. -/
theorem issueX_ok {b : BitVec 8 → Stream → State → Res State} {s' : State} (hb : b g .x (opened s g .x) = .ok s') :
    issue .x 1 b s = .next (finished s' g .x 1) := by
  rw [issue_x hc rfl, ← settle_done]
  exact congrArg (fun r : Res State => Host.Outcome.next (settle g .x 1 (r.map fun s => (s, none)))) hb

variable (hcl : 2 ≤ ((opened s g .x).tile g).sclass)
include hcl

/-- An instruction of the vector unit whose body is done. -/
theorem issueV_ok {b : BitVec 8 → Stream → State → Res State} {s' : State} (hb : b g .x (opened s g .x) = .ok s') :
    issueV b s = .next (finished s' g .x 1) := by
  rw [issueV_high s g b hc hcl, ← settle_done]
  exact congrArg (fun r : Res State => Host.Outcome.next (settle g .x 1 ((keepNames (s.openIssue g .x) g
    (keepUnits g ((s.openIssue g .x).tile g).units r)).map fun s => (s, none)))) hb

end Issue

/-- The element functions that take no third operand give the same result whatever it is. -/
theorem elemOp_third {op : VOp} (h : op ≠ .mac) (y : Ty) (rm : BitVec 2) (z : Bool) (a b d d' : Nat) :
    elemOp op y rm z a b d = elemOp op y rm z a b d' := by
  unfold elemOp
  cases fmtOf y with
  | none => rfl
  | some f =>
    cases op with
    | mac => exact absurd rfl h
    | _ => rfl

theorem evArith_third {op : VOp} (h : op ≠ .mac) (y : Ty) (rm : BitVec 2) (z : Bool) (a b d d' : VVal) (m : KMask) :
    evArith op y rm z a b d m = evArith op y rm z a b d' m := by
  have hmac : (op == .mac) = false := beq_eq_false_iff_ne.mpr h
  have hel (j : Nat) : elemOp op y rm z (elem y.bits a.1 j) (elem y.bits b.1 j) (elem y.bits d.1 j) =
      elemOp op y rm z (elem y.bits a.1 j) (elem y.bits b.1 j) (elem y.bits d'.1 j) := elemOp_third h ..
  simp only [evArith, hmac, Bool.false_and, hel]


/-- What an instruction of the vector unit needs, of a tile that reads the names `srcs`, writes `dsts` and uses `units`. -/
structure Prepared (u : State) (g : BitVec 8) (srcs dsts : List V6) (units : List XUnit) : Prop where
  kept : ∀ r ∈ srcs ++ dsts, ((u.tile g).vname r).st ≠ .dropped
  slots : SlotsFor (u.tile g) dsts
  free : ∀ r ∈ dsts, (u.tile g).dependants (.v r) = []
  idle : ∀ k ∈ units, (u.tile g).units.at k ≤ (u.tile g).xcyc

theorem prepared_of_namesReady {u : State} {g : BitVec 8} {srcs dsts : List V6} {units : List XUnit} (h : NamesReady u g srcs dsts units) :
    Prepared u g srcs dsts units := ⟨h.1, h.2.1, h.2.2.1, h.2.2.2⟩

section Prepared
variable {u : State} {g : BitVec 8} {srcs dsts : List V6} {units : List XUnit} (h : Prepared u g srcs dsts units)
include h

/-- The unit that the operation keeps to an interval, if one, takes it. -/
theorem Prepared.useUnit? {o : Option (XUnit × Nat)} (ho : ∀ k n, o = some (k, n) → k ∈ units) :
    ∃ s, u.useUnit? g o = .ok s ∧ Reading u s g := by
  cases o with
  | none => exact ⟨u, rfl, Progress.refl u g⟩
  | some e => exact Reading.useUnit (Progress.refl u g) e.2 rfl (h.idle e.1 (ho e.1 e.2 rfl))

theorem Prepared.openDst {s : State} (hs : Reading u s g) (keeps : Bool) : s.openDst g dsts keeps = .ok s :=
  Reading.openDst hs keeps h.free fun r hr => h.kept r (List.mem_append_right _ hr)

theorem Prepared.needV {s : State} (hs : Reading u s g) {rs : List V6} (hr : ∀ r ∈ rs, r ∈ srcs ++ dsts) : s.needV g rs = .ok s :=
  Reading.needV hs fun r h' => h.kept r (hr r h')

end Prepared

section Arith
variable {s : State} {g : BitVec 8} (hc : s.cur = .stream g .x) (hcl : 2 ≤ ((opened s g .x).tile g).sclass) (op : VOp) (y : Ty) {d a b : V6}
  (m : K4) {units : List XUnit} (ho : ∀ k n, (arithTime op y).1 = some (k, n) → k ∈ units)
include hc hcl ho

/-- An operation of two sources (R385). -/
theorem vArith_two (hsq : op ≠ .sqrt) (hmac : op ≠ .mac) (h : Prepared (opened s g .x) g [a, b] [d] units) :
    let u := opened s g .x
    let t0 := u.tile g
    ∃ t xa xb xd xm, vArith op y d a b m s = .next t ∧ ReadsV t0 a xa ∧ ReadsV t0 b xb ∧ ReadsV t0 d xd ∧ ReadsK t0 m xm ∧
      let r := evArith op y (roundingMode t0) (ftz t0) xa xb xd xm
      VEffect u t g [(d, r.1, (arithTime op y).2)] r.2 (arithTime op y).2 := by
  intro u t0
  obtain ⟨s1, hu, h1⟩ := h.useUnit? ho
  obtain ⟨ha, ea⟩ := Reading.rdV h1 a
  obtain ⟨hb, eb⟩ := Reading.rdV ha b
  obtain ⟨hk, ek⟩ := Reading.rdK hb m
  let xd : VVal := ((t0.vname d).val, (t0.vname d).pois)
  obtain ⟨s', he, hv⟩ := Reading.putV hk h.slots
    (evArith op y (roundingMode t0) (ftz t0) (s1.rdV g a).1 ((s1.rdV g a).2.rdV g b).1 xd (((s1.rdV g a).2.rdV g b).2.rdK g m).1).1
    (evArith op y (roundingMode t0) (ftz t0) (s1.rdV g a).1 ((s1.rdV g a).2.rdV g b).1 xd (((s1.rdV g a).2.rdV g b).2.rdK g m).1).2
    (arithTime op y).2
  refine ⟨_, _, _, xd, _, issueV_ok hc hcl ?_, ea, eb, fun _ _ => rfl, ek, hv⟩
  rw [evArith_third hmac y _ _ _ _ xd ((s1.rdV g a).2.rdV g b).1] at he
  simp only [hu, h.openDst h1, h.needV h1 (rs := [a, b]) (by simp), Reading.rdFctl h1, hsq, hmac, if_false, Bind.bind, Except.bind]
  exact he

omit ho in
/-- `VMAC` (R385): the destination is a source too. -/
theorem vArith_mac (ho : ∀ k n, (arithTime .mac y).1 = some (k, n) → k ∈ units) (h : Prepared (opened s g .x) g [a, b] [d] units) :
    let u := opened s g .x
    let t0 := u.tile g
    ∃ t xa xb xd xm, vArith .mac y d a b m s = .next t ∧ ReadsV t0 a xa ∧ ReadsV t0 b xb ∧ ReadsV t0 d xd ∧ ReadsK t0 m xm ∧
      let r := evArith .mac y (roundingMode t0) (ftz t0) xa xb xd xm
      VEffect u t g [(d, r.1, (arithTime .mac y).2)] r.2 (arithTime .mac y).2 := by
  intro u t0
  obtain ⟨s1, hu, h1⟩ := h.useUnit? ho
  obtain ⟨ha, ea⟩ := Reading.rdV h1 a
  obtain ⟨hb, eb⟩ := Reading.rdV ha b
  obtain ⟨hd, ed⟩ := Reading.rdV hb d
  obtain ⟨hk, ek⟩ := Reading.rdK hd m
  obtain ⟨s', he, hv⟩ := Reading.putV hk h.slots _ _ _
  refine ⟨_, _, _, _, _, issueV_ok hc hcl ?_, ea, eb, ed, ek, hv⟩
  simp only [hu, h.openDst h1, h.needV h1 (rs := [a, b, d]) (by simp), Reading.rdFctl h1, reduceCtorEq, if_true, if_false, Bind.bind, Except.bind]
  exact he

omit ho in
/-- `VSQRT` (R385) reads one source. -/
theorem vArith_sqrt (ho : ∀ k n, (arithTime .sqrt y).1 = some (k, n) → k ∈ units) (h : Prepared (opened s g .x) g [a] [d] units) :
    let u := opened s g .x
    let t0 := u.tile g
    ∃ t xa xm, vArith .sqrt y d a a m s = .next t ∧ ReadsV t0 a xa ∧ ReadsK t0 m xm ∧
      let r := evArith .sqrt y (roundingMode t0) (ftz t0) xa xa xa xm
      VEffect u t g [(d, r.1, (arithTime .sqrt y).2)] r.2 (arithTime .sqrt y).2 := by
  intro u t0
  obtain ⟨s1, hu, h1⟩ := h.useUnit? ho
  obtain ⟨ha, ea⟩ := Reading.rdV h1 a
  obtain ⟨hk, ek⟩ := Reading.rdK ha m
  obtain ⟨s', he, hv⟩ := Reading.putV hk h.slots _ _ _
  refine ⟨_, _, _, issueV_ok hc hcl ?_, ea, ek, hv⟩
  simp only [hu, h.openDst h1, h.needV h1 (rs := [a]) (by simp), Reading.rdFctl h1, reduceCtorEq, if_true, if_false, Bind.bind, Except.bind]
  exact he

end Arith

/-- The unit and the latency of an operation of integers or of the floating types of the arithmetic majors (R176, R385). -/
theorem arithTime_eq (op : VOp) {y : Ty} (hy : y.isInt = true ∨ y.isVFloat = true) :
    (∀ k n, (arithTime op y).1 = some (k, n) → k ∈ Says.unitOf op y) ∧ (arithTime op y).2 = latOf op y := by
  obtain hi | hf := hy
  · have hfmt : fmtOf y = none := by revert hi; cases y <;> decide
    simp only [arithTime, Says.unitOf, latOf, hfmt, hi, if_true, Option.some.injEq, Prod.mk.injEq, List.mem_singleton, and_true]
    exact fun k n h => h.1.symm
  · obtain ⟨fm, hfmt⟩ : ∃ fm, fmtOf y = some fm := by revert hf; cases y <;> first | exact fun _ => ⟨_, rfl⟩ | exact nofun
    have hi : y.isInt = false := by revert hf; cases y <;> decide
    by_cases hop : op = .div ∨ op = .sqrt
    · simp only [arithTime, Says.unitOf, latOf, hfmt, hi, hop, Bool.or_eq_true, decide_eq_true_eq, if_true, Bool.false_eq_true, if_false,
        Option.some.injEq, Prod.mk.injEq, List.mem_singleton, and_true]
      exact fun k n h => h.1.symm
    · simp only [arithTime, Says.unitOf, latOf, hfmt, hi, hop, Bool.or_eq_true, decide_eq_true_eq, Bool.false_eq_true, if_false, reduceCtorEq,
        false_imp_iff, implies_true, and_true]

/-- A single operand check that an instruction passes. -/
theorem check_passes {b : Bool} {c : Cause} (h : (firstCause [(b, c)] == none) = true) : b = false := by
  cases b with
  | false => rfl
  | true => exact absurd h Bool.false_ne_true

theorem anyTy_of_check {y : Ty} (h : (firstCause [(!(y.isInt || y.isVFloat), 0x05)] == none) = true) : y.isInt = true ∨ y.isVFloat = true :=
  Bool.or_eq_true_iff.mp (Bool.not_eq_eq_eq_not.mp (check_passes h))
theorem intTy_of_check {y : Ty} (h : (firstCause [(!y.isInt, 0x05)] == none) = true) : y.isInt = true ∨ y.isVFloat = true :=
  .inl (Bool.not_eq_eq_eq_not.mp (check_passes h))
theorem floatTy_of_check {y : Ty} (h : (firstCause [(!y.isVFloat, 0x05)] == none) = true) : y.isInt = true ∨ y.isVFloat = true :=
  .inr (Bool.not_eq_eq_eq_not.mp (check_passes h))

/-- The forms of R385 as the model computes them, of types that their checks let pass. -/
theorem exec_arithForms : ∀ e ∈ arithForms, e.2 ≠ .sqrt ∧ ∀ (y : Ty) (d a b : V6) (m : K4),
    ((e.1 y d a b m).Wf → y.isInt = true ∨ y.isVFloat = true) ∧ ∀ s, exec (e.1 y d a b m) s = vArith e.2 y d a b m s := by
  simp only [arithForms, List.forall_mem_cons, List.not_mem_nil, false_imp_iff, implies_true, and_true]
  refine ⟨⟨by decide, fun _ _ _ _ _ => ⟨anyTy_of_check, fun _ => rfl⟩⟩, ⟨by decide, fun _ _ _ _ _ => ⟨anyTy_of_check, fun _ => rfl⟩⟩,
    ⟨by decide, fun _ _ _ _ _ => ⟨anyTy_of_check, fun _ => rfl⟩⟩, ⟨by decide, fun _ _ _ _ _ => ⟨anyTy_of_check, fun _ => rfl⟩⟩,
    ⟨by decide, fun _ _ _ _ _ => ⟨anyTy_of_check, fun _ => rfl⟩⟩, ⟨by decide, fun _ _ _ _ _ => ⟨intTy_of_check, fun _ => rfl⟩⟩,
    ⟨by decide, fun _ _ _ _ _ => ⟨intTy_of_check, fun _ => rfl⟩⟩, ⟨by decide, fun _ _ _ _ _ => ⟨intTy_of_check, fun _ => rfl⟩⟩,
    ⟨by decide, fun _ _ _ _ _ => ⟨floatTy_of_check, fun _ => rfl⟩⟩, ⟨by decide, fun _ _ _ _ _ => ⟨floatTy_of_check, fun _ => rfl⟩⟩,
    ⟨by decide, fun _ _ _ _ _ => ⟨intTy_of_check, fun _ => rfl⟩⟩, ⟨by decide, fun _ _ _ _ _ => ⟨intTy_of_check, fun _ => rfl⟩⟩,
    ⟨by decide, fun _ _ _ _ _ => ⟨intTy_of_check, fun _ => rfl⟩⟩, ⟨by decide, fun _ _ _ _ _ => ⟨intTy_of_check, fun _ => rfl⟩⟩⟩

/-- `VFMA` (R389) reads its three sources and rounds once. -/
theorem vfma_ready {s : State} {g : BitVec 8} (hc : s.cur = .stream g .x) (hcl : 2 ≤ ((opened s g .x).tile g).sclass) {d a b c : V6} (f : BitVec 2)
    (h : Prepared (opened s g .x) g [a, b, c] [d] []) :
    let u := opened s g .x
    let t0 := u.tile g
    ∃ t xa xb xc, execVfma d a b c f s = .next t ∧ ReadsV t0 a xa ∧ ReadsV t0 b xb ∧ ReadsV t0 c xc ∧
      let r := evArith .mac (fmaTy f) (roundingMode t0) (ftz t0) xa xb xc (BitVec.allOnes 512)
      VEffect u t g [(d, r.1, if f = 3 then 6 else 4)] r.2 (if f = 3 then 6 else 4) := by
  intro u t0
  have hu : Reading (opened s g .x) (opened s g .x) g := Progress.refl ..
  obtain ⟨ha, ea⟩ := Reading.rdV hu a
  obtain ⟨hb, eb⟩ := Reading.rdV ha b
  obtain ⟨hd, ed⟩ := Reading.rdV hb c
  obtain ⟨s', he, hv⟩ := Reading.putV hd h.slots _ _ _
  refine ⟨_, _, _, _, issueV_ok hc hcl ?_, ea, eb, ed, hv⟩
  simp only [h.openDst hu, h.needV hu (rs := [a, b, c]) (by simp), Reading.rdFctl hu, Bind.bind, Except.bind]
  exact he

theorem latOf_fmaTy (f : BitVec 2) : latOf .mac (fmaTy f) = if f = 3 then 6 else 4 := by
  revert f
  decide

/-- Settles O8. -/
theorem vectorArithmeticWritesItsDestination : Obligations.VectorArithmeticWritesItsDestination := by
  unfold Obligations.VectorArithmeticWritesItsDestination
  intro s g y d a b c m f u t0
  refine ⟨fun e he hwf hr => ?arith, fun hwf hr => ?sqrt, fun hr => ?fma⟩
  case arith =>
    obtain ⟨⟨hc, hn⟩, hcl⟩ := hr
    obtain ⟨hsq, hform⟩ := exec_arithForms e he
    obtain ⟨hty, hexec⟩ := hform y d a b m
    obtain ⟨ho, hL⟩ := arithTime_eq e.2 (hty hwf)
    rw [hexec, ← hL]
    by_cases hmac : e.2 = .mac
    · rw [hmac] at ho hn ⊢
      exact vArith_mac hc hcl y m ho (prepared_of_namesReady hn)
    · exact vArith_two hc hcl e.2 y m ho hsq hmac (prepared_of_namesReady hn)
  case sqrt =>
    obtain ⟨⟨hc, hn⟩, hcl⟩ := hr
    have hf : y.isVFloat = true := Bool.not_eq_eq_eq_not.mp (check_passes hwf)
    obtain ⟨ho, hL⟩ := arithTime_eq .sqrt (.inr hf)
    have hunit : Says.unitOf .sqrt y = [.vdiv] := by revert hf; cases y <;> decide
    rw [hunit] at ho
    rw [← hL]
    exact vArith_sqrt hc hcl y m ho (prepared_of_namesReady hn)
  case fma =>
    obtain ⟨⟨hc, hn⟩, hcl⟩ := hr
    have h := vfma_ready hc hcl f (prepared_of_namesReady hn)
    rw [← latOf_fmaTy] at h
    exact h

end Sys2Proof.Machine
end

section
set_option Elab.async false
namespace Sys2Proof.Machine
open Sys2Proof.Says

/-! ## Changes beside names: masks, registers, queues -/

section Changes
variable {u s : State} {g : BitVec 8} {ds : List V6}

/-- A change of the tile that its names and units do not meet may be made before the instruction as well as during it. -/
theorem Progress.modTile (h : Progress u s g ds []) {f : Tile → Tile}
    (hf : ∀ t v un, f { t with v := v, units := un } = { f t with v := v, units := un }) (hv : ∀ t, (f t).v = t.v) :
    Progress (u.modTile g f) (s.modTile g f) g ds [] := by
  have hname (t : Tile) (r : V6) : (f t).vname r = t.vname r := by unfold Tile.vname; rw [hv]
  refine ⟨?_, fun k hk => ?_, ?_, fun r hr => ?_, fun _ h => absurd h List.not_mem_nil, fun r hr => ?_⟩
  · have hs := h.state
    calc s.modTile g f
      _ = { s with tiles := (s.modTile g f).tiles } := rfl
      _ = { u with tiles := (s.modTile g f).tiles, fresh := s.fresh } := by rw [hs]
      _ = _ := rfl
  · rw [State.tile_modTile_of_ne _ _ hk, State.tile_modTile_of_ne _ _ hk]
    exact h.others k hk
  · obtain ⟨v, un, e⟩ := h.tile
    refine ⟨v, un, ?_⟩
    have hpend : { u.tile g with v := v, units := un, pend := (landing [] (u.tile g)).pend } = { u.tile g with v := v, units := un } := rfl
    rw [State.tile_modTile, State.tile_modTile, e, hpend, hf]
    rfl
  · rw [State.tile_modTile, State.tile_modTile, hname, hname]
    exact h.taken r hr
  · rw [State.tile_modTile, State.tile_modTile, hname, hname]
    exact h.kept r hr

/-- An instruction that sets no flag is finished. -/
theorem Progress.finish_quiet {w : List (V6 × VW × Nat)} (h : Progress u s g (w.map (·.1)) w) : VEffect u (finished s g .x 1) g w 0 0 := by
  have hid : finished (s.modTile g fun t => t.pendFlags 0 0) g .x 1 = finished s g .x 1 := by
    unfold finished
    rw [State.modTile_modTile]
    rfl
  rw [← hid]
  exact h.finish 0 0

/-- The write of a mask, as far as the state after the instruction shows it. -/
theorem finished_wrK (s : State) (g : BitVec 8) (d : K4) (v : KMask) :
    finished (s.wrK g d (2 ^ 512 - 1) v.toNat 1) g .x 1 = finished (s.modTile g (wroteK d v)) g .x 1 := by
  unfold State.wrK
  split
  · next h =>
    have hid : wroteK d v = id := funext fun t => if_pos h
    unfold finished
    rw [hid, State.modTile_modTile]
    rfl
  · next h =>
    have hw : wroteK d v = fun t => t.pendAt (.k d) (2 ^ 512 - 1) v.toNat 0 0 1 := funext fun t => if_neg h
    rw [hw]

theorem Reading.wroteK (h : Reading u s g) (d : K4) (v : KMask) : Reading (u.modTile g (wroteK d v)) (s.modTile g (wroteK d v)) g := by
  refine Progress.modTile h (fun t v un => ?_) fun t => ?_
  · unfold Says.wroteK
    split <;> rfl
  · unfold Says.wroteK
    split <;> rfl

theorem Reading.wrote_x (h : Reading u s g) (L : Nat) (d : R5) (v : W64) (p : Bool) :
    Reading (u.modTile g (wrote .x L d v p)) (s.modTile g (wrote .x L d v p)) g := by
  refine Progress.modTile h (fun t v un => ?_) fun t => ?_
  · unfold wrote
    split <;> rfl
  · unfold wrote
    split <;> rfl

end Changes

/-! ## Causes of an instruction of the vector unit -/

section Causes
variable {s : State} {g : BitVec 8} (hc : s.cur = .stream g .x) (hcl : 2 ≤ ((opened s g .x).tile g).sclass)
include hc hcl

/-- A cause other than 0x5C that an instruction raises while it reads: the names, the units and the writes on their way are as it found them. -/
theorem issueV_trap {b : BitVec 8 → Stream → State → Res State} {s1 : State} {c : Raise} (hb : b g .x (opened s g .x) = .error (.trap s1 c))
    (h : Reading (opened s g .x) s1 g) (h5C : c.code ≠ 0x5C) :
    ∃ w : State, issueV b s = .next (trapped w g .x c) ∧ w = { opened s g .x with tiles := w.tiles, fresh := w.fresh } ∧
      w.tile g = (opened s g .x).tile g := by
  let u := opened s g .x
  let s2 := if (s1.tile g).units = (u.tile g).units then s1 else s1.modTile g fun t => { t with units := (u.tile g).units }
  have hs2 : s2 = { s1 with tiles := s2.tiles } := by
    unfold s2
    split <;> rfl
  have ht2 : s2.tile g = { s1.tile g with units := (u.tile g).units } := by
    unfold s2
    split
    · next e => rw [← e]
    · exact State.tile_modTile ..
  refine ⟨s2.modTile g fun t => { t with v := (u.tile g).v, pend := (u.tile g).pend }, ?_, ?_, ?_⟩
  · rw [issueV_high s g b hc hcl]
    show Host.Outcome.next (settle g .x 1 ((keepNames u g (keepUnits g (u.tile g).units (b g .x u))).map fun s => (s, none))) = _
    rw [show b g .x u = .error (.trap s1 c) from hb]
    show Host.Outcome.next (settle g .x 1 ((keepNames u g (.error (.trap s2 c))).map fun s => (s, none))) = _
    rw [keepNames_trap _ _ _ h5C]
    rfl
  · have hs := h.state
    calc s2.modTile g (fun t => { t with v := (u.tile g).v, pend := (u.tile g).pend })
      _ = { s2 with tiles := (s2.modTile g fun t => { t with v := (u.tile g).v, pend := (u.tile g).pend }).tiles } := rfl
      _ = _ := by rw [hs2, hs]; rfl
  · obtain ⟨v, un, e⟩ := h.tile
    rw [State.tile_modTile, ht2, e]

/-- A cause that an instruction raises before it changes anything. -/
theorem issueV_trap_at_once {b : BitVec 8 → Stream → State → Res State} {c : Raise} (hb : b g .x (opened s g .x) = trapIn (opened s g .x) c)
    (h5C : c.code ≠ 0x5C) : issueV b s = .next (trapped (opened s g .x) g .x c) := by
  let u := opened s g .x
  rw [issueV_high s g b hc hcl]
  show Host.Outcome.next (settle g .x 1 ((keepNames u g (keepUnits g (u.tile g).units (b g .x u))).map fun s => (s, none))) = _
  rw [show b g .x u = .error (.trap u c) from hb, keepUnits_same rfl, keepNames_trap _ _ _ h5C]
  show Host.Outcome.next (trapped (u.modTile g fun t => { t with v := (u.tile g).v, pend := (u.tile g).pend }) g .x c) = _
  unfold trapped
  rw [State.modTile_modTile]
  exact congrArg (fun w : State => Host.Outcome.next (w.takeCause g .x c)) (modTile_congr rfl)

end Causes

/-! ## Masks (R395) -/

section Masks
variable {s : State} {g : BitVec 8} (hc : s.cur = .stream g .x) (hcl : 2 ≤ ((opened s g .x).tile g).sclass) {d : K4}
  (h : Prepared (opened s g .x) g [] [] [.valu])
include hc hcl h

omit hc hcl in
theorem Prepared.valu : ∃ s1, (opened s g .x).useUnit? g (some (.valu, 1)) = .ok s1 ∧ Reading (opened s g .x) s1 g :=
  h.useUnit? (by rintro k n ⟨⟩; exact List.mem_singleton.mpr rfl)

variable (hd : d ≠ 0 → ((opened s g .x).tile g).dependants (.k d) = [])
include hd

theorem maskOp_ready (f : KMask → KMask → KMask) (a b : K4) :
    let u := opened s g .x
    ∃ t xa xb, maskOp f d a b s = .next t ∧ ReadsK (u.tile g) a xa ∧ ReadsK (u.tile g) b xb ∧ VEffect (u.modTile g (wroteK d (f xa xb))) t g [] 0 0 := by
  intro u
  obtain ⟨s1, hu, h1⟩ := Prepared.valu h
  obtain ⟨ha, ea⟩ := Reading.rdK h1 a
  obtain ⟨hb, eb⟩ := Reading.rdK ha b
  have hw := Progress.finish_quiet (w := []) (Reading.wroteK hb d (f (s1.rdK g a).1 ((s1.rdK g a).2.rdK g b).1))
  rw [← finished_wrK] at hw
  refine ⟨_, _, _, issueV_ok hc hcl ?_, ea, eb, hw⟩
  simp only [hu, Reading.freeK h1 hd, Bind.bind, Except.bind]

theorem kmovx_clean {x : R5} (hp : ∀ p ∈ ((opened s g .x).tile g).pend, p.dst ≠ .x x) (hx : (scalar ((opened s g .x).tile g) .x x).2 = false) :
    let u := opened s g .x
    ∃ t, execKmovx d x s = .next t ∧ VEffect (u.modTile g (wroteK d ((scalar (u.tile g) .x x).1.setWidth 512))) t g [] 0 0 := by
  intro u
  obtain ⟨s1, hu, h1⟩ := Prepared.valu h
  have hread : (opened s g .x).rdS g .x x = (scalar ((opened s g .x).tile g) .x x, opened s g .x) := rdS_eq_scalar fun _ => hp
  have hw := Progress.finish_quiet (w := []) (Reading.wroteK h1 d ((scalar ((opened s g .x).tile g) .x x).1.setWidth 512))
  rw [← finished_wrK] at hw
  refine ⟨_, issueV_ok hc hcl ?_, hw⟩
  have hval : (BitVec.setWidth 512 (scalar ((opened s g .x).tile g) .x x).1).toNat = (scalar ((opened s g .x).tile g) .x x).1.toNat :=
    BitVec.toNat_setWidth_of_le (by decide)
  simp only [hread, hx, raiseIf, Bool.false_eq_true, if_false, hu, Reading.freeK h1 hd, Bind.bind, Except.bind, hval]

omit h hd in
theorem kmovx_poisoned {x : R5} (hp : ∀ p ∈ ((opened s g .x).tile g).pend, p.dst ≠ .x x) (hx : (scalar ((opened s g .x).tile g) .x x).2 = true) :
    execKmovx d x s = .next (trapped (opened s g .x) g .x { code := 0x2D }) := by
  have hread : (opened s g .x).rdS g .x x = (scalar ((opened s g .x).tile g) .x x, opened s g .x) := rdS_eq_scalar fun _ => hp
  refine issueV_trap_at_once hc hcl ?_ (by decide)
  simp only [hread, hx, raiseIf, if_true, Bind.bind, Except.bind]
  rfl

omit hd in
theorem xmovk_ready {x : R5} (a : K4) (hx : ((opened s g .x).tile g).dependants (.x x) = []) :
    let u := opened s g .x
    ∃ t xa, execXmovk x a s = .next t ∧ ReadsK (u.tile g) a xa ∧ VEffect (u.modTile g (wrote .x 1 x (xa.setWidth 64) false)) t g [] 0 0 := by
  intro u
  obtain ⟨s1, hu, h1⟩ := Prepared.valu h
  obtain ⟨ha, ea⟩ := Reading.rdK h1 a
  have hw := Progress.finish_quiet (w := []) (Reading.wrote_x ha 1 x ((s1.rdK g a).1.setWidth 64) false)
  rw [← finished_wrS] at hw
  refine ⟨_, _, issueV_ok hc hcl ?_, ea, hw⟩
  simp only [hu, Reading.freeS h1 hx, Bind.bind, Except.bind]

end Masks

/-- Settles O12. -/
theorem maskOperations : Obligations.MaskOperations := by
  unfold Obligations.MaskOperations
  intro s g d a b x u t0 hr hd
  obtain ⟨⟨hc, hn⟩, hcl⟩ := hr
  have h := prepared_of_namesReady hn
  refine ⟨?forms, ?not, kmovx_clean hc hcl h hd, kmovx_poisoned hc hcl, xmovk_ready hc hcl h a⟩
  case forms =>
    simp only [maskForms, List.forall_mem_cons, List.not_mem_nil, false_imp_iff, implies_true, and_true]
    exact ⟨maskOp_ready hc hcl h hd (fun x y => x &&& y) a b, maskOp_ready hc hcl h hd (fun x y => x ||| y) a b,
      maskOp_ready hc hcl h hd (fun x y => x ^^^ y) a b, maskOp_ready hc hcl h hd (fun x y => x &&& ~~~ y) a b⟩
  case not =>
    obtain ⟨t, xa, -, ht, ea, -, hv⟩ := maskOp_ready hc hcl h hd (fun x _ => ~~~ x) a a
    exact ⟨t, xa, ht, ea, hv⟩

end Sys2Proof.Machine
end

section
set_option Elab.async false
namespace Sys2Proof.Machine
open Sys2Proof.Says

/-! ## Compares and reductions (R386, R387) -/

/-- A name of no poison is read clean, LIVE or EMPTY. -/
theorem Reading.rdV_clean {u s : State} {g : BitVec 8} (h : Reading u s g) {r : V6} (hp : ((u.tile g).vname r).pois = 0) :
    (s.rdV g r).1.2 = 0 := by
  have hs : ((s.tile g).vname r).pois = 0 := by rw [Reading.vname h r]; exact hp
  unfold State.rdV
  dsimp only
  split
  · rfl
  · dsimp only
    rw [hs]
    exact BitVec.zero_and

theorem elemPois_zero (w j : Nat) : elemPois w 0 j = false := by
  unfold elemPois
  simp

/-- A compare of two clean operands completes. -/
theorem evCmp_clean (c : VCmp) (y : Ty) (z : Bool) {a b : VVal} (ha : a.2 = 0) (hb : b.2 = 0) (m : KMask) : ∃ r, evCmp c y z a b m = some r := by
  unfold evCmp
  refine ⟨_, if_neg ?_⟩
  simp only [ha, hb, elemPois_zero, Bool.or_self, List.any_eq_true, Bool.false_eq_true, and_false, exists_false, not_false_eq_true]

section Compares
variable {s : State} {g : BitVec 8} (hc : s.cur = .stream g .x) (hcl : 2 ≤ ((opened s g .x).tile g).sclass) (c : VCmp) (y : Ty) {k : K4} {a b : V6}
  (m : K4) (h : Prepared (opened s g .x) g [a, b] [] [.valu])
include hc hcl h

/-- A compare reads its sources; a result goes to the mask, and a poisoned active element is cause 0x2D. -/
theorem vCompare_reads :
    let u := opened s g .x
    let t0 := u.tile g
    ∃ s1 xa xb xm, Reading u s1 g ∧ ReadsV t0 a xa ∧ ReadsV t0 b xb ∧ ReadsK t0 m xm ∧
      ((t0.vname a).pois = 0 → xa.2 = 0) ∧ ((t0.vname b).pois = 0 → xb.2 = 0) ∧
      (evCmp c y (ftz t0) xa xb xm = none → ∃ w : State, vCompare c y k a b m s = .next (trapped w g .x { code := 0x2D }) ∧
        w = { u with tiles := w.tiles, fresh := w.fresh } ∧ w.tile g = t0) ∧
      ∀ r, evCmp c y (ftz t0) xa xb xm = some r → (k ≠ 0 → t0.dependants (.k k) = []) →
        vCompare c y k a b m s = .next (finished ((s1.wrK g k (2 ^ 512 - 1) r.1.toNat 2).modTile g fun t => t.pendFlags r.2 2) g .x 1) := by
  intro u t0
  obtain ⟨s1, hu, h1⟩ := h.useUnit? (o := some (.valu, 1)) (by rintro k n ⟨⟩; exact List.mem_singleton.mpr rfl)
  obtain ⟨ha, ea⟩ := Reading.rdV h1 a
  obtain ⟨hb, eb⟩ := Reading.rdV ha b
  obtain ⟨hk, ek⟩ := Reading.rdK hb m
  have hneed : s1.needV g [a, b] = .ok s1 := h.needV h1 (by simp)
  refine ⟨_, _, _, _, hk, ea, eb, ek, Reading.rdV_clean h1, Reading.rdV_clean ha, fun hn => ?none, fun r hr hd => issueV_ok hc hcl ?some⟩
  case none =>
    refine issueV_trap hc hcl (s1 := s1) ?_ h1 (by decide)
    simp only [hu, hneed, Reading.rdFctl h1, Bind.bind, Except.bind]
    rw [hn]
    rfl
  case some =>
    simp only [hu, hneed, Reading.rdFctl h1, Bind.bind, Except.bind]
    rw [hr]
    simp only [Reading.freeK hk hd]

end Compares

/-- Whatever becomes of a compare, there is a next state. -/
theorem vCompare_next {s : State} {g : BitVec 8} (hc : s.cur = .stream g .x) (c : VCmp) (y : Ty) (k : K4) (a b : V6) (m : K4) :
    ∃ t, vCompare c y k a b m s = .next t := by
  unfold vCompare issueV
  exact ⟨_, issue_x hc rfl ..⟩

/-- The forms of R386 as the model computes them. -/
theorem exec_compareForms : ∀ e ∈ compareForms, ∀ (y : Ty) (k : K4) (a b : V6) (m : K4) (s : State),
    exec (e.1 y k a b m) s = vCompare e.2 y k a b m s := by
  simp only [compareForms, List.forall_mem_cons, List.not_mem_nil, false_imp_iff, implies_true, and_true]
  exact ⟨fun _ _ _ _ _ _ => rfl, fun _ _ _ _ _ _ => rfl, fun _ _ _ _ _ _ => rfl⟩

/-- The forms of R387 as the model computes them. -/
theorem exec_reduceForms : ∀ e ∈ reduceForms, ∀ (y : Ty) (d a : V6) (m : K4) (s : State),
    exec (e.1 y d a m) s = vReduce e.2.1 e.2.2 y d a m s := by
  simp only [reduceForms, List.forall_mem_cons, List.not_mem_nil, false_imp_iff, implies_true, and_true]
  exact ⟨fun _ _ _ _ _ => rfl, fun _ _ _ _ _ => rfl, fun _ _ _ _ _ => rfl, fun _ _ _ _ _ => rfl⟩

/-- A reduction reads its source, and its destination in the form that takes an initial operand. -/
theorem vReduce_ready {s : State} {g : BitVec 8} (hc : s.cur = .stream g .x) (hcl : 2 ≤ ((opened s g .x).tile g).sclass) (o : VRed) (withC : Bool)
    (y : Ty) {d a : V6} (m : K4) (h : Prepared (opened s g .x) g [a] [d] [.vred]) :
    let u := opened s g .x
    let t0 := u.tile g
    ∃ t xa xd xm, vReduce o withC y d a m s = .next t ∧ ReadsV t0 a xa ∧ ReadsV t0 d xd ∧ ReadsK t0 m xm ∧
      let r := evReduce o y xa xm (if withC then some xd else none)
      VEffect u t g [(d, r.1, redTime y)] r.2 (redTime y) := by
  intro u t0
  obtain ⟨s1, hu, h1⟩ := h.useUnit? (o := some (.vred, 2)) (by rintro k n ⟨⟩; exact List.mem_singleton.mpr rfl)
  obtain ⟨ha, ea⟩ := Reading.rdV h1 a
  cases withC with
  | false =>
    obtain ⟨hk, ek⟩ := Reading.rdK ha m
    obtain ⟨s', he, hv⟩ := Reading.putV hk h.slots _ _ _
    refine ⟨_, _, ((t0.vname d).val, (t0.vname d).pois), _, issueV_ok hc hcl ?_, ea, fun _ _ => rfl, ek, hv⟩
    simp only [hu, h.openDst h1, h.needV h1 (rs := [a]) (by simp), Bool.false_eq_true, if_false, Bind.bind, Except.bind]
    exact he
  | true =>
    obtain ⟨hd, ed⟩ := Reading.rdV ha d
    obtain ⟨hk, ek⟩ := Reading.rdK hd m
    obtain ⟨s', he, hv⟩ := Reading.putV hk h.slots _ _ _
    refine ⟨_, _, _, _, issueV_ok hc hcl ?_, ea, ed, ek, hv⟩
    simp only [hu, h.openDst h1, h.needV h1 (rs := [a, d]) (by simp), if_true, Bind.bind, Except.bind]
    exact he

/-- Settles O10. -/
theorem vectorComparesAndReductions : Obligations.VectorComparesAndReductions := by
  unfold Obligations.VectorComparesAndReductions
  intro s g y k m d a b u t0
  refine ⟨fun e he hwf hr hd hpa hpb => ?clean, fun e he hwf hr => ?reduce, fun e he hwf hr => ?poisoned⟩
  case clean =>
    obtain ⟨⟨hc, hn⟩, hcl⟩ := hr
    obtain ⟨s1, xa, xb, xm, h1, ea, eb, ek, ha, hb, -, hsome⟩ := vCompare_reads hc hcl e.2 y (k := k) m (prepared_of_namesReady hn)
    obtain ⟨r, hr⟩ := evCmp_clean e.2 y (ftz t0) (ha hpa) (hb hpb) xm
    refine ⟨_, xa, xb, xm, r, (exec_compareForms e he ..).trans (hsome r hr hd), ea, eb, ek, hr, ?_⟩
    by_cases hk : k = 0
    · rw [if_pos hk, hk, wrK_zero]
      exact Progress.finish (w := []) h1 r.2 2
    · rw [if_neg hk, State.wrK, if_neg hk]
      exact Progress.finish (w := []) (Progress.modTile h1 (f := fun t => t.pendAt (.k k) (2 ^ 512 - 1) r.1.toNat 0 0 2)
        (fun _ _ _ => rfl) fun _ => rfl) r.2 2
  case reduce =>
    obtain ⟨⟨hc, hn⟩, hcl⟩ := hr
    simp only [exec_reduceForms e he]
    exact vReduce_ready hc hcl e.2.1 e.2.2 y m (prepared_of_namesReady hn)
  case poisoned =>
    obtain ⟨⟨hc, hn⟩, hcl⟩ := hr
    obtain ⟨s1, xa, xb, xm, h1, ea, eb, ek, -, -, hnone, hsome⟩ := vCompare_reads hc hcl e.2 y (k := k) m (prepared_of_namesReady hn)
    simp only [exec_compareForms e he]
    cases hcmp : evCmp e.2 y (ftz t0) xa xb xm with
    | none =>
      obtain ⟨w, hw, hstate, htile⟩ := hnone hcmp
      refine ⟨_, xa, xb, xm, hw, ea, eb, ek, fun _ => ⟨w, rfl, ?_, by rw [htile], by rw [htile]⟩⟩
      rw [hstate]
      rfl
    | some r =>
      obtain ⟨t, ht⟩ := vCompare_next hc e.2 y k a b m
      refine ⟨t, xa, xb, xm, ht, ea, eb, ek, fun hnot => ?_⟩
      rw [hcmp] at hnot
      exact nomatch hnot

end Sys2Proof.Machine
end

section
set_option Elab.async false
namespace Sys2Proof.Machine
open Sys2Proof.Says

/-! ## Data movements (R394, R396) -/

/-- The unit of an instruction that uses one takes it. -/
theorem Prepared.oneUnit {u : State} {g : BitVec 8} {srcs dsts : List V6} {k : XUnit} (h : Prepared u g srcs dsts [k]) (n : Nat) :
    ∃ s1, u.useUnit? g (some (k, n)) = .ok s1 ∧ Reading u s1 g :=
  h.useUnit? (by rintro _ _ ⟨⟩; exact List.mem_singleton.mpr rfl)

section Movements
variable {s : State} {g : BitVec 8} (hc : s.cur = .stream g .x) (hcl : 2 ≤ ((opened s g .x).tile g).sclass) (y : Ty) {d a b : V6}
include hc hcl

theorem vperm_ready (h : Prepared (opened s g .x) g [a, b] [d] [.vperm]) : let u := opened s g .x
    ∃ t xa xb, execVperm y d a b s = .next t ∧ ReadsV (u.tile g) a xa ∧ ReadsV (u.tile g) b xb ∧ VEffect u t g [(d, evPerm y xa xb, 3)] 0 0 := by
  intro u
  obtain ⟨s1, hu, h1⟩ := h.oneUnit 1
  obtain ⟨ha, ea⟩ := Reading.rdV h1 a
  obtain ⟨hb, eb⟩ := Reading.rdV ha b
  obtain ⟨s', he, hv⟩ := Reading.putV hb h.slots (evPerm y (s1.rdV g a).1 ((s1.rdV g a).2.rdV g b).1) 0 3
  refine ⟨_, _, _, issueV_ok hc hcl ?_, ea, eb, hv⟩
  simp only [hu, h.openDst h1, h.needV h1 (rs := [a, b]) (by simp), Bind.bind, Except.bind]
  exact he

theorem vbcstx_ready (x : R5) (h : Prepared (opened s g .x) g [] [d] [.vperm]) : let u := opened s g .x
    ∃ t v, execVbcstx y d x s = .next t ∧ ReadsX (u.tile g) x v ∧ VEffect u t g [(d, evBcst y v.1.toNat v.2, 3)] 0 0 := by
  intro u
  obtain ⟨s1, hu, h1⟩ := h.oneUnit 1
  obtain ⟨hx, ex⟩ := Reading.rdS h1 x
  obtain ⟨s', he, hv⟩ := Reading.putV hx h.slots (evBcst y (s1.rdS g .x x).1.1.toNat (s1.rdS g .x x).1.2) 0 3
  refine ⟨_, _, issueV_ok hc hcl ?_, ex, hv⟩
  simp only [hu, h.openDst h1, Bind.bind, Except.bind]
  exact he

theorem vbcste_ready (x : R5) (h : Prepared (opened s g .x) g [a] [d] [.vperm]) : let u := opened s g .x
    ∃ t xa v, execVbcste y d a x s = .next t ∧ ReadsV (u.tile g) a xa ∧ ReadsX (u.tile g) x v ∧ VEffect u t g [(d, evBcste y xa v, 3)] 0 0 := by
  intro u
  obtain ⟨s1, hu, h1⟩ := h.oneUnit 1
  obtain ⟨ha, ea⟩ := Reading.rdV h1 a
  obtain ⟨hx, ex⟩ := Reading.rdS ha x
  obtain ⟨s', he, hv⟩ := Reading.putV hx h.slots (evBcste y (s1.rdV g a).1 ((s1.rdV g a).2.rdS g .x x).1) 0 3
  refine ⟨_, _, _, issueV_ok hc hcl ?_, ea, ex, hv⟩
  simp only [hu, h.openDst h1, h.needV h1 (rs := [a]) (by simp), Bind.bind, Except.bind]
  exact he

omit y in
/-- `VCOMPRESS` and `VEXPAND`, by the function `f` of the source and the mask. -/
theorem vPack_ready (f : VVal → KMask → VW) (k : K4) (h : Prepared (opened s g .x) g [a] [d] [.vperm]) : let u := opened s g .x
    ∃ t xa m, vPack f d a k s = .next t ∧ ReadsV (u.tile g) a xa ∧ ReadsK (u.tile g) k m ∧ VEffect u t g [(d, f xa m, 5)] 0 0 := by
  intro u
  obtain ⟨s1, hu, h1⟩ := h.oneUnit 2
  obtain ⟨ha, ea⟩ := Reading.rdV h1 a
  obtain ⟨hk, ek⟩ := Reading.rdK ha k
  obtain ⟨s', he, hv⟩ := Reading.putV hk h.slots (f (s1.rdV g a).1 ((s1.rdV g a).2.rdK g k).1) 0 5
  refine ⟨_, _, _, issueV_ok hc hcl ?_, ea, ek, hv⟩
  simp only [hu, h.openDst h1, h.needV h1 (rs := [a]) (by simp), Bind.bind, Except.bind]
  exact he

omit y in
theorem vmov_ready (k : K4) (h : Prepared (opened s g .x) g [a] [d] [.valu]) : let u := opened s g .x
    ∃ t xa m, execVmov d a k s = .next t ∧ ReadsV (u.tile g) a xa ∧ ReadsK (u.tile g) k m ∧ VEffect u t g [(d, evMov xa m, 2)] 0 0 := by
  intro u
  obtain ⟨s1, hu, h1⟩ := h.oneUnit 1
  obtain ⟨ha, ea⟩ := Reading.rdV h1 a
  obtain ⟨hk, ek⟩ := Reading.rdK ha k
  obtain ⟨s', he, hv⟩ := Reading.putV hk h.slots (evMov (s1.rdV g a).1 ((s1.rdV g a).2.rdK g k).1) 0 2
  refine ⟨_, _, _, issueV_ok hc hcl ?_, ea, ek, hv⟩
  simp only [hu, h.openDst h1, h.needV h1 (rs := [a]) (by simp), Bind.bind, Except.bind]
  exact he

end Movements

/-! ### Below class 2

Every instruction of the vector unit asks for its class first. -/

section Low
variable {s : State} {g : BitVec 8} (hc : s.cur = .stream g .x) (hcl : ((opened s g .x).tile g).sclass < 2)
include hc hcl

theorem issueV_refused (b : BitVec 8 → Stream → State → Res State) : issueV b s = .next (trapped (opened s g .x) g .x { code := 0x74 }) :=
  issueV_low s g b hc hcl
theorem vArith_refused (op : VOp) (y : Ty) (d a b : V6) (m : K4) : vArith op y d a b m s = .next (trapped (opened s g .x) g .x { code := 0x74 }) :=
  issueV_refused hc hcl _
theorem vCompare_refused (c : VCmp) (y : Ty) (k : K4) (a b : V6) (m : K4) : vCompare c y k a b m s = .next (trapped (opened s g .x) g .x { code := 0x74 }) :=
  issueV_refused hc hcl _
theorem vReduce_refused (o : VRed) (w : Bool) (y : Ty) (d a : V6) (m : K4) : vReduce o w y d a m s = .next (trapped (opened s g .x) g .x { code := 0x74 }) :=
  issueV_refused hc hcl _
theorem vfma_refused (d a b c : V6) (f : BitVec 2) : execVfma d a b c f s = .next (trapped (opened s g .x) g .x { code := 0x74 }) :=
  issueV_refused hc hcl _
theorem vcvt_refused (t y : Ty) (d a b : V6) : execVcvt t y d a b s = .next (trapped (opened s g .x) g .x { code := 0x74 }) :=
  issueV_refused hc hcl _
theorem vperm_refused (y : Ty) (d a b : V6) : execVperm y d a b s = .next (trapped (opened s g .x) g .x { code := 0x74 }) :=
  issueV_refused hc hcl _
theorem vbcstx_refused (y : Ty) (d : V6) (x : R5) : execVbcstx y d x s = .next (trapped (opened s g .x) g .x { code := 0x74 }) :=
  issueV_refused hc hcl _
theorem vbcste_refused (y : Ty) (d a : V6) (x : R5) : execVbcste y d a x s = .next (trapped (opened s g .x) g .x { code := 0x74 }) :=
  issueV_refused hc hcl _
theorem vPack_refused (f : VVal → KMask → VW) (d a : V6) (k : K4) : vPack f d a k s = .next (trapped (opened s g .x) g .x { code := 0x74 }) :=
  issueV_refused hc hcl _
theorem maskOp_refused (f : KMask → KMask → KMask) (d a b : K4) : maskOp f d a b s = .next (trapped (opened s g .x) g .x { code := 0x74 }) :=
  issueV_refused hc hcl _
theorem kmovx_refused (d : K4) (x : R5) : execKmovx d x s = .next (trapped (opened s g .x) g .x { code := 0x74 }) :=
  issueV_refused hc hcl _
theorem xmovk_refused (d : R5) (a : K4) : execXmovk d a s = .next (trapped (opened s g .x) g .x { code := 0x74 }) :=
  issueV_refused hc hcl _
theorem vmov_refused (d a : V6) (m : K4) : execVmov d a m s = .next (trapped (opened s g .x) g .x { code := 0x74 }) :=
  issueV_refused hc hcl _
theorem vLoad_refused (l : XLevel) (d : V6) (x : R5) (n : BitVec 3) (m : K4) (o : BitVec 6) : vLoad l d x n m o s = .next (trapped (opened s g .x) g .x { code := 0x74 }) :=
  issueV_refused hc hcl _
theorem vStore_refused (l : XLevel) (d : V6) (x : R5) (n : BitVec 3) (m : K4) (o : BitVec 6) : vStore l d x n m o s = .next (trapped (opened s g .x) g .x { code := 0x74 }) :=
  issueV_refused hc hcl _

theorem vectorUnit_refused {i : Instr} (hi : vectorUnit i = true) : exec i s = .next (trapped (opened s g .x) g .x { code := 0x74 }) := by
  unfold vectorUnit at hi
  split at hi
  case h_42 => exact nomatch hi
  case h_1 | h_2 | h_3 | h_4 | h_5 | h_6 | h_7 | h_8 | h_9 | h_10 | h_11 | h_12 | h_13 | h_14 | h_15 => exact vArith_refused hc hcl ..
  case h_16 | h_17 | h_18 => exact vCompare_refused hc hcl ..
  case h_19 | h_20 | h_21 | h_22 => exact vReduce_refused hc hcl ..
  case h_23 => exact vfma_refused hc hcl ..
  case h_24 => exact vcvt_refused hc hcl ..
  case h_25 => exact vperm_refused hc hcl ..
  case h_26 => exact vbcstx_refused hc hcl ..
  case h_27 => exact vbcste_refused hc hcl ..
  case h_28 | h_29 => exact vPack_refused hc hcl ..
  case h_30 => exact maskOp_refused hc hcl (fun x z => x &&& z) ..
  case h_31 => exact maskOp_refused hc hcl (fun x z => x ||| z) ..
  case h_32 => exact maskOp_refused hc hcl (fun x z => x ^^^ z) ..
  case h_33 => exact maskOp_refused hc hcl (fun x z => x &&& ~~~ z) ..
  case h_34 => exact maskOp_refused hc hcl (fun x _ => ~~~ x) ..
  case h_35 => exact kmovx_refused hc hcl ..
  case h_36 => exact xmovk_refused hc hcl ..
  case h_37 => exact vmov_refused hc hcl ..
  case h_38 | h_40 => exact vLoad_refused hc hcl ..
  case h_39 | h_41 => exact vStore_refused hc hcl ..

end Low

/-- Settles O11. Which instructions below class 2 receive cause 0x74 is the model's reading (log entry 49). -/
theorem vectorMovementsWriteTheirDestination : Obligations.VectorMovementsWriteTheirDestination := by
  unfold Obligations.VectorMovementsWriteTheirDestination
  intro s g y d a b x k u t0
  refine ⟨fun hr => ?perm, fun hr => ?bcstx, fun hr => ?bcste, fun hr => ?compress, fun hr => ?expand, fun hr => ?mov, fun hc hcl i hi => ?low⟩
  case low => exact vectorUnit_refused hc hcl hi
  all_goals obtain ⟨⟨hc, hn⟩, hcl⟩ := hr
  case perm => exact vperm_ready hc hcl y (prepared_of_namesReady hn)
  case bcstx => exact vbcstx_ready hc hcl y x (prepared_of_namesReady hn)
  case bcste => exact vbcste_ready hc hcl y x (prepared_of_namesReady hn)
  case compress => exact vPack_ready hc hcl (evCompress y) k (prepared_of_namesReady hn)
  case expand => exact vPack_ready hc hcl (evExpand y) k (prepared_of_namesReady hn)
  case mov => exact vmov_ready hc hcl k (prepared_of_namesReady hn)

/-! ## Conversions (R390 to R393) -/

/-- The names of a group read one after another. -/
theorem Reading.rdGroup {u : State} {g : BitVec 8} : ∀ (rs : List V6) {s : State}, Reading u s g →
    Reading u (State.rdGroup g rs s).2 g ∧ (State.rdGroup g rs s).1.length = rs.length ∧
      ∀ k < rs.length, ReadsV (u.tile g) (rs.getD k 0) ((State.rdGroup g rs s).1.getD k (0, 0))
  | [], s, h => ⟨h, rfl, nofun⟩
  | r :: rs, s, h => by
    obtain ⟨hr, er⟩ := Reading.rdV h r
    obtain ⟨hg, hlen, eg⟩ := Reading.rdGroup rs hr
    refine ⟨hg, congrArg (· + 1) hlen, fun k hk => ?_⟩
    cases k with
    | zero => exact er
    | succ k => exact eg k (Nat.lt_of_succ_lt_succ hk)

theorem length_packNames (w : Nat) : ∀ (n : Nat) (l : List (Nat × Bool)), (packNames w n l).length = n
  | 0, _ => rfl
  | n + 1, _ => congrArg (· + 1) (length_packNames w n _)

/-- A conversion writes as many names as its destination has (R379, R390). -/
theorem length_evCvt (dt st : Ty) (rm : BitVec 2) (z sat : Bool) (a : List VVal) (x : Option VVal) :
    (evCvt dt st rm z sat a x).1.length = if st.bits < dt.bits then cvtGroup dt st else 1 := by
  have hsize : 2048 / Nat.min st.bits dt.bits * dt.bits / 2048 = if st.bits < dt.bits then cvtGroup dt st else 1 := by
    cases dt <;> cases st <;> rfl
  rw [← hsize]
  exact length_packNames ..

/-- The names of a conversion's source and destination, and whether it reads a register of block scales (R379, R390). -/
def cvtSrc (dt st : Ty) (a : V6) : List V6 := groupOf a (if decide (st.bits < dt.bits) then 1 else cvtGroup dt st)
def cvtDst (dt st : Ty) (d : V6) : List V6 := groupOf d (if decide (st.bits < dt.bits) then cvtGroup dt st else 1)
def cvtReadsScales (dt st : Ty) (b : V6) : Bool := cvtScaled dt st && b != 0

/-- X-cycles to the first write of a conversion. -/
def cvtFirst (dt st : Ty) : Nat := if decide (st.bits < dt.bits) then cvtTime dt st else cvtTime dt st + cvtGroup dt st - 1

theorem length_cvtDst (dt st : Ty) (d : V6) : (cvtDst dt st d).length = if st.bits < dt.bits then cvtGroup dt st else 1 := by
  simp [cvtDst, groupOf]

theorem groupWrites_cvt (dt st : Ty) (d : V6) (l : List VW) : groupWrites 1 (cvtFirst dt st) ((cvtDst dt st d).zip l) =
    ((cvtDst dt st d).zip l).mapIdx fun k e =>
      (e.1, e.2, if decide (st.bits < dt.bits) then cvtTime dt st + k else cvtTime dt st + cvtGroup dt st - 1) := by
  unfold groupWrites cvtFirst
  by_cases hw : st.bits < dt.bits
  · simp only [hw, decide_true, if_true, Nat.one_mul]
  · refine List.ext_getElem (by simp) fun k hk _ => ?_
    have hlen := length_cvtDst dt st d
    rw [if_neg hw] at hlen
    rw [List.length_mapIdx, List.length_zip, hlen] at hk
    obtain rfl : k = 0 := by omega
    simp only [hw, decide_false, Bool.false_eq_true, if_false, List.getElem_mapIdx, Nat.mul_zero, Nat.add_zero]

/-- A conversion reads its source and the register of scales, takes all the slots of its destination, and writes them (R390 to R393). -/
theorem vcvt_ready {s : State} {g : BitVec 8} (hc : s.cur = .stream g .x) (hcl : 2 ≤ ((opened s g .x).tile g).sclass) (dt st : Ty) {d a b : V6}
    (h : Prepared (opened s g .x) g (if cvtReadsScales dt st b then cvtSrc dt st a ++ [b] else cvtSrc dt st a) (cvtDst dt st d) [.valu]) :
    let u := opened s g .x
    let t0 := u.tile g
    ∃ t xs xb, execVcvt dt st d a b s = .next t ∧ xs.length = (cvtSrc dt st a).length ∧
      (∀ k < (cvtSrc dt st a).length, ReadsV t0 ((cvtSrc dt st a).getD k 0) (xs.getD k (0, 0))) ∧ ReadsV t0 b xb ∧
      let r := evCvt dt st (roundingMode t0) (ftz t0) (cvtSat dt st b) xs (if cvtReadsScales dt st b then some xb else none)
      VEffect u t g (((cvtDst dt st d).zip r.1).mapIdx fun k e =>
        (e.1, e.2, if decide (st.bits < dt.bits) then cvtTime dt st + k else cvtTime dt st + cvtGroup dt st - 1)) r.2
        (cvtTime dt st + cvtGroup dt st - 1) := by
  intro u t0
  obtain ⟨s1, hu, h1⟩ := h.oneUnit (cvtGroup dt st)
  have hneed : s1.needV g (if cvtReadsScales dt st b then cvtSrc dt st a ++ [b] else cvtSrc dt st a) = .ok s1 :=
    h.needV h1 fun r hr => List.mem_append_left _ hr
  obtain ⟨hx, hlen, ex⟩ := Reading.rdGroup (cvtSrc dt st a) h1
  let x := State.rdGroup g (cvtSrc dt st a) s1
  obtain ⟨vs, s2, xb, hvs, h2, hhead, eb⟩ : ∃ vs s2 xb, (if cvtReadsScales dt st b then State.rdGroup g [b] x.2 else ([], x.2)) = (vs, s2) ∧
      Reading u s2 g ∧ vs.head? = (if cvtReadsScales dt st b then some xb else none) ∧ ReadsV t0 b xb := by
    cases cvtReadsScales dt st b with
    | false => exact ⟨[], x.2, ((t0.vname b).val, (t0.vname b).pois), rfl, hx, rfl, fun _ _ => rfl⟩
    | true =>
      obtain ⟨hb, eb⟩ := Reading.rdV hx b
      exact ⟨_, _, _, rfl, hb, rfl, eb⟩
  let r := evCvt dt st (roundingMode t0) (ftz t0) (cvtSat dt st b) x.1 (if cvtReadsScales dt st b then some xb else none)
  obtain ⟨s3, htake, hp⟩ := Reading.takeSlots h2 h.slots
  have hnames : (groupWrites 1 (cvtFirst dt st) ((cvtDst dt st d).zip r.1)).map (·.1) = cvtDst dt st d := by
    rw [map_fst_groupWrites, List.map_fst_zip]
    rw [length_cvtDst, length_evCvt]
  have hw := hp.wrGroup 1 (cvtFirst dt st) (l := (cvtDst dt st d).zip r.1) fun e he => (List.of_mem_zip he).1
  rw [List.nil_append] at hw
  have hv := Progress.finish (w := groupWrites 1 (cvtFirst dt st) ((cvtDst dt st d).zip r.1)) (by rw [hnames]; exact hw) r.2
    (cvtTime dt st + cvtGroup dt st - 1)
  rw [groupWrites_cvt] at hv
  refine ⟨_, x.1, xb, issueV_ok hc hcl ?_, hlen, ex, eb, hv⟩
  have hopen : s1.openDst g (cvtDst dt st d) false = .ok s1 := h.openDst h1 false
  have hr : evCvt dt st (roundingMode t0) (ftz t0) (cvtSat dt st b) x.1 vs.head? = r := by rw [hhead]
  unfold cvtDst at hopen htake
  unfold cvtReadsScales at hneed hvs
  unfold cvtSrc at hneed
  dsimp only [x] at hvs
  unfold cvtSrc at hvs
  simp only [hu, hopen, hneed, hvs, Reading.rdFctl h1, htake, Bind.bind, Except.bind]
  rw [← hr]
  rfl

/-- Settles O13. -/
theorem conversionsWriteTheirGroup : Obligations.ConversionsWriteTheirGroup := by
  unfold Obligations.ConversionsWriteTheirGroup
  intro s g dt st d a b
  rw [show (st.isScaled || dt.isScaled) = cvtScaled dt st from Bool.or_comm ..]
  intro u t0 n widen names src dst scaled L hwf hr
  obtain ⟨⟨hc, hn⟩, hcl⟩ := hr
  have hgroup : n = cvtGroup dt st := by
    show max st.bits dt.bits / min st.bits dt.bits = Nat.max dt.bits st.bits / Nat.min dt.bits st.bits
    rw [max_comm, min_comm]
  clear_value n
  subst hgroup
  exact vcvt_ready hc hcl dt st (d := d) (a := a) (b := b) (prepared_of_namesReady hn)

end Sys2Proof.Machine
end

section
set_option Elab.async false
namespace Sys2Proof.Machine
open Sys2Proof.Says

/-! ## Transfers between queues and registers (R371, R401) -/

/-- The poison of lanes 0 and 1, as a field and by lane. -/
theorem lowLanes_ne_zero (p : LaneBits) : (p.extractLsb' 0 2 != 0) = (p.getLsbD 0 || p.getLsbD 1) := by
  have h : p.extractLsb' 0 2 = BitVec.ofBool (p.getLsbD 1) ++ BitVec.ofBool (p.getLsbD 0) := by
    refine BitVec.eq_of_getLsbD_eq fun i hi => ?_
    rw [BitVec.getLsbD_append, BitVec.getLsbD_extractLsb']
    interval_cases i
    · simp
    · simp
  rw [h]
  cases p.getLsbD 0 <;> cases p.getLsbD 1 <;> rfl

section Queues
variable {s : State} {g : BitVec 8} {q : BitVec 4} {e : QEntry} {r : List QEntry}

/-- The tile without the head of queue `q`. -/
def dropHead (q : BitVec 4) (r : List QEntry) (t : Tile) : Tile := { t with q := vset t.q q r }

/-- The tile with an entry at the tail of queue `q`. -/
def pushTail (q : BitVec 4) (e : QEntry) (t : Tile) : Tile := { t with q := vset t.q q (vget t.q [] q ++ [e]) }

theorem popQ_head (h : (s.tile g).queue q = e :: r) : s.popQ g q = .ok (e, s.modTile g (dropHead q r)) := popQ_cons h

theorem pushQ_tail (h : ((s.tile g).queue q).length < 16) : s.pushQ g q e = .ok (s.modTile g (pushTail q e)) := by
  rw [pushQ_room h]
  exact congrArg Except.ok (modTile_congr rfl)

theorem qpopa_ready (hc : s.cur = .stream g .a) (h : (s.tile g).queue q = e :: r) (d : R5) : execQpopa d q s =
    .next (finished (s.modTile g fun t => wrote .a 1 d (e.data.setWidth 64) (e.pois.getLsbD 0 || e.pois.getLsbD 1) (dropHead q r t)) g .a 1) := by
  rw [execQpopa, issue_a hc, ← lowLanes_ne_zero, ← settle_done]
  simp only [popQ_head h, Bind.bind, Except.bind]
  rw [wrS_a, State.modTile_modTile]
  rfl

theorem qbpush_ready (hc : s.cur = .stream g .a) {f : F3} (hf : known (s.tile g) f) (hroom : (s.tile g).qb.length < 64) :
    execQbpush f s = .next (finished (s.modTile g fun t => { t with qb := t.qb ++ [flag t f] }) g .a 1) := by
  rw [execQbpush, issue_a hc, ← settle_done]
  simp only [rdF_known hf, Bind.bind, Except.bind, if_neg (Nat.not_le.mpr hroom)]
  exact congrArg (fun u : State => Host.Outcome.next (settle g .a 1 (.ok (u, none)))) (modTile_congr rfl)

theorem opened_queue (h : (s.tile g).queue q = e :: r) : ((opened s g .x).tile g).queue q = e :: r := by
  rw [opened_x_tile]
  unfold Tile.queue
  rw [Tile.commit_q]
  exact h

theorem opened_queue_room (h : ((s.tile g).queue q).length < 16) : (((opened s g .x).tile g).queue q).length < 16 := by
  rw [opened_x_tile]
  unfold Tile.queue
  rw [Tile.commit_q]
  exact h

theorem qpopx_ready {d : R5} (hr : Ready s g .x [] (.x d)) (h : (s.tile g).queue q = e :: r) : execQpopx d q s =
    .next (finished ((opened s g .x).modTile g fun t =>
      wrote .x 2 d (e.data.setWidth 64) (e.pois.getLsbD 0 || e.pois.getLsbD 1) (dropHead q r t)) g .x 1) := by
  have hq := opened_queue h
  rw [execQpopx, issue_x hr.1 rfl]
  show Host.Outcome.next (settle g .x 1 (Except.map _ (do
    let _ ← (opened s g .x).popQ g q
    let s ← (opened s g .x).freeS g .x d
    let r ← s.popQ g q
    .ok (r.2.wrS g .x d (r.1.data.setWidth 64) (r.1.pois.extractLsb' 0 2 != 0) 2)))) = _
  simp only [popQ_head hq, ready_free hr, Bind.bind, Except.bind, Except.map, lowLanes_ne_zero]
  rw [settle_done, finished_wrS, State.modTile_modTile]

theorem qpushx_ready {x : R5} (hr : Ready s g .x [.x x] (.x 0)) (h : ((s.tile g).queue q).length < 16) :
    let y := scalar ((opened s g .x).tile g) .x x
    execQpushx x q s = .next (finished ((opened s g .x).modTile g
      (pushTail q { data := y.1.setWidth 2048, pois := if y.2 then 3 else 0 })) g .x 1) := by
  intro y
  have hq := opened_queue_room h
  rw [execQpushx, issue_x hr.1 rfl, ← settle_done]
  show Host.Outcome.next (settle g .x 1 (Except.map _ (if 16 ≤ (((opened s g .x).tile g).queue q).length then waitIn (opened s g .x) .queue
    else
      let r := (opened s g .x).rdS g .x x
      r.2.pushQ g q { data := r.1.1.setWidth 2048, pois := if r.1.2 then 3 else 0 }))) = _
  simp only [if_neg (Nat.not_le.mpr hq), ready_reads hr (List.mem_singleton.mpr rfl), pushQ_tail hq]
  rfl

theorem qpopv_ready (hc : s.cur = .stream g .x) {v : V6} (hn : Prepared (opened s g .x) g [] [v] []) (h : (s.tile g).queue q = e :: r) :
    ∃ t, execQpopv v q s = .next t ∧ VEffect ((opened s g .x).modTile g (dropHead q r)) t g [(v, VW.whole e.data e.pois, 2)] 0 0 := by
  have hq := opened_queue h
  have h1 : Reading (opened s g .x) (opened s g .x) g := Progress.refl ..
  obtain ⟨s3, htake, hp⟩ := Reading.takeSlots h1 hn.slots
  have hdrop : s3.modTile g (fun t => t.setQueue q (t.queue q).tail) = s3.modTile g (dropHead q r) := by
    refine modTile_congr ?_
    obtain ⟨_, _, he⟩ := hp.tile
    have hq3 : (s3.tile g).queue q = e :: r := by rw [he]; exact hq
    rw [hq3]
    rfl
  have hw := (Progress.modTile hp (f := dropHead q r) (fun _ _ _ => rfl) fun _ => rfl).wrV (r := v) List.mem_cons_self (VW.whole e.data e.pois) 2
  refine ⟨_, issueX_ok hc ?_, Progress.finish_quiet hw⟩
  simp only [popQ_head hq, hn.openDst h1, htake, hdrop, Bind.bind, Except.bind]

theorem qpushv_ready (hc : s.cur = .stream g .x) {v : V6} (hn : Prepared (opened s g .x) g [v] [] []) (h : ((s.tile g).queue q).length < 16) :
    ∃ t y, execQpushv v q s = .next t ∧ ReadsV ((opened s g .x).tile g) v y ∧
      VEffect ((opened s g .x).modTile g (pushTail q { data := y.1, pois := y.2 })) t g [] 0 0 := by
  have hq := opened_queue_room h
  have h1 : Reading (opened s g .x) (opened s g .x) g := Progress.refl ..
  obtain ⟨hv, ev⟩ := Reading.rdV h1 v
  let y := ((opened s g .x).rdV g v).1
  have hroom : ((((opened s g .x).rdV g v).2.tile g).queue q).length < 16 := by
    obtain ⟨_, _, he⟩ := hv.tile
    rw [he]
    exact hq
  have hw := Progress.modTile hv (f := pushTail q { data := y.1, pois := y.2 }) (fun _ _ _ => rfl) fun _ => rfl
  refine ⟨_, y, issueX_ok hc ?_, ev, Progress.finish_quiet (w := []) hw⟩
  simp only [if_neg (Nat.not_le.mpr hq), hn.needV h1 (rs := [v]) (by simp), Bind.bind, Except.bind]
  exact pushQ_tail hroom

end Queues

/-- Settles O7. -/
theorem queueTransfersBetweenTheStreams : Obligations.QueueTransfersBetweenTheStreams := by
  unfold Obligations.QueueTransfersBetweenTheStreams
  intro s g q d x v f e r hq lanes01 u take
  refine ⟨fun hc h => qpopa_ready hc h d, fun hc hf hroom => qbpush_ready hc hf hroom, fun hr h => qpopx_ready hr h,
    fun hr h => qpushx_ready hr h, fun hr h => qpopv_ready hr.1 (prepared_of_namesReady hr.2) h,
    fun hr h => qpushv_ready hr.1 (prepared_of_namesReady hr.2) h⟩

end Sys2Proof.Machine
end

section
set_option Elab.async false
namespace Sys2Proof.Machine
open Sys2Proof.Says

/-! ## Elements of a write (R379, R380) -/

/-- A digit of a number given by its digits. -/
theorem digit_ofDigits (B : Nat) (hB : 0 < B) : ∀ (l : List Nat), (∀ d ∈ l, d < B) → ∀ j, Nat.ofDigits B l / B ^ j % B = l.getD j 0
  | [], _, j => by simp
  | d :: l, hl, 0 => by
    rw [Nat.pow_zero, Nat.div_one, Nat.ofDigits_cons, Nat.add_mul_mod_self_left, Nat.mod_eq_of_lt (hl d List.mem_cons_self)]
    rfl
  | d :: l, hl, j + 1 => by
    have ih := digit_ofDigits B hB l (fun e he => hl e (List.mem_cons_of_mem _ he)) j
    rw [Nat.ofDigits_cons, Nat.pow_succ', ← Nat.div_div_eq_div_mul, Nat.add_mul_div_left _ _ hB,
      Nat.div_eq_of_lt (hl d List.mem_cons_self), Nat.zero_add, ih]
    rfl

/-- The bits that an element's write covers, and their values. -/
def maskDigit (w : Nat) (e : EOut) : Nat := if e.on then 2 ^ w - 1 else 0
def valDigit (w : Nat) (e : EOut) : Nat := if e.on then e.val % 2 ^ w else 0

/-- A write of elements has the elements as digits. -/
theorem packVal_eq (w : Nat) (es : List EOut) (j : Nat) : packVal w j es =
    (2 ^ (w * j) * Nat.ofDigits (2 ^ w) (es.map (maskDigit w)), 2 ^ (w * j) * Nat.ofDigits (2 ^ w) (es.map (valDigit w))) := by
  induction es generalizing j with
  | nil => rfl
  | cons e es ih =>
    have hpow : 2 ^ (w * (j + 1)) = 2 ^ (w * j) * 2 ^ w := by rw [Nat.mul_add, Nat.mul_one, Nat.pow_add]
    rw [packVal, ih (j + 1), hpow]
    simp only [List.map_cons, Nat.ofDigits_cons, maskDigit, valDigit, Nat.mul_add, Nat.mul_assoc]
    cases e.on with
    | false => simp
    | true => simp [Nat.add_comm, Nat.mul_comm]

theorem maskDigit_lt (w : Nat) (e : EOut) : maskDigit w e < 2 ^ w := by
  have := Nat.two_pow_pos w
  unfold maskDigit
  split <;> omega
theorem valDigit_lt (w : Nat) (e : EOut) : valDigit w e < 2 ^ w := by
  unfold valDigit
  split
  · exact Nat.mod_lt _ (Nat.two_pow_pos w)
  · exact Nat.two_pow_pos w

/-- Element j of a write of elements. -/
theorem packElems_digits (w : Nat) (es : List EOut) (j : Nat) :
    (packElems w es).mask / 2 ^ (w * j) % 2 ^ w = (es.map (maskDigit w)).getD j 0 ∧
    (packElems w es).val / 2 ^ (w * j) % 2 ^ w = (es.map (valDigit w)).getD j 0 := by
  have hv := packVal_eq w es 0
  rw [Nat.mul_zero, Nat.pow_zero, Nat.one_mul, Nat.one_mul] at hv
  have digit (l : List Nat) (hl : ∀ d ∈ l, d < 2 ^ w) : Nat.ofDigits (2 ^ w) l / 2 ^ (w * j) % 2 ^ w = l.getD j 0 := by
    rw [Nat.pow_mul]
    exact digit_ofDigits _ (Nat.two_pow_pos w) l hl j
  refine ⟨(congrArg (· / 2 ^ (w * j) % 2 ^ w) (congrArg Prod.fst hv)).trans (digit _ fun d hd => ?_),
    (congrArg (· / 2 ^ (w * j) % 2 ^ w) (congrArg Prod.snd hv)).trans (digit _ fun d hd => ?_)⟩
  · obtain ⟨e, -, rfl⟩ := List.mem_map.mp hd
    exact maskDigit_lt w e
  · obtain ⟨e, -, rfl⟩ := List.mem_map.mp hd
    exact valDigit_lt w e

/-- An element as a field of its register. -/
theorem elem_eq_extract (w : Nat) (v : Vec) (j : Nat) : elem w v j = (v.extractLsb' (w * j) w).toNat := by
  rw [BitVec.extractLsb'_toNat, Nat.shiftRight_eq_div_pow]
  rfl

theorem extract_ofNat {n k l : Nat} (h : k + l ≤ n) (m : Nat) : ((BitVec.ofNat n m).extractLsb' k l).toNat = m / 2 ^ k % 2 ^ l := by
  rw [BitVec.extractLsb'_toNat, BitVec.toNat_ofNat]
  refine Nat.eq_of_testBit_eq fun i => ?_
  simp only [Nat.testBit_mod_two_pow, Nat.testBit_shiftRight, Nat.testBit_div_two_pow]
  by_cases hi : i < l
  · simp [hi, show k + i < n by omega, Nat.add_comm]
  · simp [hi]

/-- Within a field, a write whose mask covers it replaces the field, and one whose mask leaves it out keeps it. -/
theorem extract_landBits {n k l : Nat} (h : k + l ≤ n) (old : BitVec n) (mask val : Nat) :
    (landBits old mask val).extractLsb' k l = landBits (old.extractLsb' k l) (mask / 2 ^ k % 2 ^ l) (val / 2 ^ k % 2 ^ l) := by
  have field (m : Nat) : (BitVec.ofNat n m).extractLsb' k l = BitVec.ofNat l (m / 2 ^ k % 2 ^ l) :=
    BitVec.eq_of_toNat_eq <| by rw [extract_ofNat h, BitVec.toNat_ofNat, Nat.mod_mod]
  unfold landBits
  dsimp only
  have hnot (x : BitVec n) : (~~~x).extractLsb' k l = ~~~x.extractLsb' k l := by
    ext i hi
    simp [show k + i < n by omega]
  rw [BitVec.extractLsb'_or, BitVec.extractLsb'_and, BitVec.extractLsb'_and, hnot, field, field]

/-- A write of elements lands: those that are on take their value, the others keep their bits. -/
theorem elem_landBits {w j : Nat} (old : Vec) (es : List EOut) (hj : w * j + w ≤ 2048) (hlen : j < es.length) :
    elem w (landBits old (packElems w es).mask (packElems w es).val) j = if es[j].on then es[j].val % 2 ^ w else elem w old j := by
  obtain ⟨hm, hv⟩ := packElems_digits w es j
  rw [List.getD_eq_getElem _ _ (by simpa using hlen), List.getElem_map] at hm hv
  rw [elem_eq_extract, elem_eq_extract, extract_landBits hj, hm, hv]
  unfold landBits maskDigit valDigit
  cases es[j].on with
  | false => simp
  | true => simp

/-! ## One integer element (R280, R385) -/

/-- A code is the code of the integer it stands for. -/
theorem ofInt_intOf (y : Ty) (c : Nat) : BitVec.ofInt y.bits (intOf y c) = BitVec.ofNat y.bits c := by
  unfold intOf
  split
  · exact BitVec.ofInt_toInt
  · rw [BitVec.ofInt_natCast]
    exact BitVec.eq_of_toNat_eq (by simp)

theorem wrapInt_intOf {y : Ty} {c : Nat} (h : c < 2 ^ y.bits) : wrapInt y.bits (intOf y c) = c := by
  unfold wrapInt
  rw [ofInt_intOf, BitVec.toNat_ofNat, Nat.mod_eq_of_lt h]

theorem wrapInt_lt (w : Nat) (x : Int) : wrapInt w x < 2 ^ w := (BitVec.ofInt w x).isLt

/-- R280: the clamped integer's code. -/
theorem satInt_fst (signed : Bool) (w : Nat) (x : Int) : (satInt signed w x).1 =
    wrapInt w (if signed then max (-(2 ^ (w - 1))) (min (2 ^ (w - 1) - 1) x) else max 0 (min (2 ^ w - 1) x)) := by
  have hw : (0 : Int) < 2 ^ w := by positivity
  have hw' : (0 : Int) < 2 ^ (w - 1) := by positivity
  have clamp (lo hi : Int) (hle : lo ≤ hi) : (if x < lo then (wrapInt w lo, fSAT) else if hi < x then (wrapInt w hi, fSAT)
      else (wrapInt w x, 0)).1 = wrapInt w (max lo (min hi x)) := by
    by_cases hlo : x < lo
    · rw [if_pos hlo, max_eq_left (by omega)]
    · by_cases hhi : hi < x
      · rw [if_neg hlo, if_pos hhi, min_eq_left (by omega), max_eq_right hle]
      · rw [if_neg hlo, if_neg hhi, min_eq_right (by omega), max_eq_right (by omega)]
  cases signed with
  | false => exact clamp 0 (2 ^ w - 1) (by omega)
  | true => exact clamp (-(2 ^ (w - 1))) (2 ^ (w - 1) - 1) (by omega)

/-- A left shift of the integer is the left shift of its code. -/
theorem wrapInt_shl (y : Ty) (c k : Nat) : wrapInt y.bits (intOf y c * 2 ^ k) = c * 2 ^ k % 2 ^ y.bits := by
  have hk : BitVec.ofInt y.bits ((2 : Int) ^ k) = BitVec.ofNat y.bits (2 ^ k) := by
    rw [← BitVec.ofInt_natCast]
    push_cast
    rfl
  unfold wrapInt
  rw [BitVec.ofInt_mul, ofInt_intOf, hk, BitVec.toNat_mul, BitVec.toNat_ofNat, BitVec.toNat_ofNat, ← Nat.mul_mod]

/-- The model's element operation is the element of R385. -/
theorem intOp_eq_intElem {op : VOp} {y : Ty} {a b v : Nat} (ha : a < 2 ^ y.bits) (hb : b < 2 ^ y.bits) (h : intElem op y a b = some v) :
    (intOp op y a b).1 % 2 ^ y.bits = v := by
  have hn {c : Nat} (hc : c < 2 ^ y.bits) : (if y.isSigned then (BitVec.ofNat y.bits c).toInt else (c : Int)) = intOf y c := by
    rw [intOf, Nat.mod_eq_of_lt hc]
  have wrapped (x : Int) : wrapInt y.bits x % 2 ^ y.bits = wrapInt y.bits x := Nat.mod_eq_of_lt (wrapInt_lt _ _)
  have bitwise {c : Nat} (hc : c < 2 ^ y.bits) (x : BitVec y.bits) (hx : x.toNat = c) :
      c % 2 ^ y.bits = (BitVec.ofInt y.bits (x.toNat : Int)).toNat := by
    rw [BitVec.ofInt_natCast, hx, BitVec.toNat_ofNat]
  unfold intElem at h
  dsimp only at h
  rw [hn ha, hn hb] at h
  cases op with
  | add | sub | mul => exact (wrapped _).trans (Option.some.inj h)
  | min =>
    refine Eq.trans ?_ (Option.some.inj h)
    show (if intOf y a ≤ intOf y b then a else b) % _ = wrapInt y.bits (min (intOf y a) (intOf y b))
    split
    · rw [min_eq_left ‹_›, wrapInt_intOf ha, Nat.mod_eq_of_lt ha]
    · rw [min_eq_right (by omega), wrapInt_intOf hb, Nat.mod_eq_of_lt hb]
  | max =>
    refine Eq.trans ?_ (Option.some.inj h)
    show (if intOf y a ≤ intOf y b then b else a) % _ = wrapInt y.bits (max (intOf y a) (intOf y b))
    split
    · rw [max_eq_right ‹_›, wrapInt_intOf hb, Nat.mod_eq_of_lt hb]
    · rw [max_eq_left (by omega), wrapInt_intOf ha, Nat.mod_eq_of_lt ha]
  | and =>
    refine Eq.trans ?_ (Option.some.inj h)
    exact bitwise (Nat.and_lt_two_pow _ hb) _ (by simp [Nat.mod_eq_of_lt ha, Nat.mod_eq_of_lt hb])
  | or =>
    refine Eq.trans ?_ (Option.some.inj h)
    exact bitwise (Nat.or_lt_two_pow ha hb) _ (by simp [Nat.mod_eq_of_lt ha, Nat.mod_eq_of_lt hb])
  | xor =>
    refine Eq.trans ?_ (Option.some.inj h)
    exact bitwise (Nat.xor_lt_two_pow ha hb) _ (by simp [Nat.mod_eq_of_lt ha, Nat.mod_eq_of_lt hb])
  | shl => exact (Nat.mod_mod _ _).trans ((wrapInt_shl y a _).symm.trans (Option.some.inj h))
  | shr =>
    refine Eq.trans ?_ (Option.some.inj h)
    show wrapInt y.bits (Int.fdiv _ _) % _ = wrapInt y.bits _
    rw [wrapped, Int.fdiv_eq_ediv_of_nonneg _ (by positivity)]
  | adds | subs => exact (congrArg (· % 2 ^ y.bits) (satInt_fst _ _ _)).trans ((wrapped _).trans (Option.some.inj h))
  | div | sqrt | mac => simp at h

theorem fmtOf_of_isInt {y : Ty} (h : y.isInt) : fmtOf y = none := by
  cases y <;> simp_all [Ty.isInt, fmtOf]

theorem elem_lt (w : Nat) (v : Vec) (j : Nat) : elem w v j < 2 ^ w := Nat.mod_lt _ (Nat.two_pow_pos w)

/-- Settles O9: an integer operation writes each active element with its result, and no other. -/
theorem integerElementsAreComputedElementByElement : Obligations.IntegerElementsAreComputedElementByElement := by
  intro op y rm z a b d m old j hy hj v hv w
  have hbits : 2048 / y.bits * y.bits ≤ 2048 := Nat.div_mul_le_self _ _
  have hin : y.bits * j + y.bits ≤ 2048 := by
    calc y.bits * j + y.bits = (j + 1) * y.bits := by ring
      _ ≤ 2048 / y.bits * y.bits := Nat.mul_le_mul_right _ hj
      _ ≤ 2048 := hbits
  have hop (p q r : Nat) : elemOp op y rm z p q r = intOp op y p q := by rw [elemOp, fmtOf_of_isInt hy]
  refine (elem_landBits old _ hin (by simpa using hj)).trans ?_
  simp only [List.getElem_map, List.getElem_range, hop]
  rw [intOp_eq_intElem (elem_lt _ _ _) (elem_lt _ _ _) hv]

end Sys2Proof.Machine
end

section
set_option Elab.async false
/-! PROOFS. Refutation of the poison check of a tile: a tile that an incomplete matrix command uses has no poison to check (R6, R175). -/
namespace Sys2Proof.Machine
open Sys2Proof.Says

/-- A tile whose accumulator tile 0 is valid and poisoned, while a matrix command that writes it has not begun. -/
def accumulating : Tile :=
  let t := { Tile.reset with ctx := some 0, ist := .running, sclass := 7 }
  let t := t.setZtile 0 { t.ztile 0 with valid := true, pois := 1 }
  { t with emat := { EngQ.reset with waiting := [mkCmd t .mma .x { tp := 0, ta := 0, tb := 0, tc := 0 } 0 0 0 0] } }

/-- It issues from its X-stream. -/
def accumulatingState : State := { State.reset with tiles := [(3, accumulating)], cur := .stream 3 .x }

/-- The PC of the X-stream of tile 3 in the state that an instruction leaves. -/
def xpc3 : Host.Outcome State Fault Refusal → Pc
  | .next t => (t.tile 3).xpc
  | _ => 0

theorem accumulating_passes : xpc3 (exec (.pchkz 0) accumulatingState) = 1 := by decide +kernel

theorem accumulating_not_trapped : xpc3 (.next (trapped (opened accumulatingState 3 .x) 3 .x { code := 0x2F })) ≠ 1 := by decide +kernel

/-- Refutes O27: its last clause asks only that no write of the X-stream to the tile is in flight. Tile 0 holds poison and is a target of a matrix
command that waits; its elements are then undefined and carry no poison (R6, R175), so `PCHKZ` completes where the statement has cause 0x2F. -/
theorem not_trapsReturnsStepsAndPoisonChecks : ¬ Obligations.TrapsReturnsStepsAndPoisonChecks := by
  unfold Obligations.TrapsReturnsStepsAndPoisonChecks
  intro hall
  have hready : Ready accumulatingState 3 .x [.x 0] (.x 0) := ⟨rfl, fun _ => by decide +kernel⟩
  obtain ⟨-, -, -, -, -, -, hcheck⟩ := hall accumulatingState 3 .x 0 0 0 0 hready
  have hpoison := hcheck rfl (by decide +kernel)
  dsimp only at hpoison
  rw [if_neg (by decide +kernel), if_pos (by decide +kernel)] at hpoison
  have hpasses := accumulating_passes
  rw [hpoison] at hpasses
  exact accumulating_not_trapped hpasses

end Sys2Proof.Machine
end

section
set_option Elab.async false
/-! PROOFS. Refutation of the frame of the flag forms: a tile table with a second entry for the tile. -/
namespace Sys2Proof.Machine
open Sys2Proof.Says

/-- Tile 3 has no context, 7 in `a1` and poison in `a2`. A second entry of the table, whose number is 3 modulo 256, is of context 0. -/
def aliasedState : State :=
  { State.reset with
    cur := .stream 3 .a
    tiles := [(3, { Tile.reset with areg := vset Tile.reset.areg (1 : R5) 7, apois := 4 }), (259, { Tile.reset with ctx := some 0 })] }

/-- What a compare with the poisoned register leaves. -/
def aliasedTrapped : State := trapped aliasedState 3 .a { code := 0x2D }

theorem aliased_traps : exec (.cmpEq 0 2 1) aliasedState = .next aliasedTrapped := by
  show flagCmp .eq 0 2 1 aliasedState = _
  exact flagCmp_poisoned rfl (.inl (by decide +kernel))

/-- Ending context 0 discards tile 3, all of whose state but `a1` and the poison of `a2` is as after reset already. -/
theorem aliased_keepsRest : keepsRest aliasedState aliasedTrapped 3 := by
  have hmem : aliasedTrapped.mem = aliasedState.mem := by decide +kernel
  refine ⟨fun a => by rw [State.rdByte, hmem]; rfl, ?_, ?_, ?_, ?_, ?_, ?_, ?_, ?_⟩
  all_goals decide +kernel

theorem aliased_loses_a1 : (aliasedTrapped.tile 3).areg ≠ (aliasedState.tile 3).areg := by decide +kernel

/-- Refutes O60: nothing says that the table lists a tile once. A poisoned compare of a tile without a context ends context 0, and the second entry of
tile 3, which stands for a tile of context 0, has tile 3 itself discarded: `a1` is lost and all that the frame's premise names is kept. -/
theorem not_registerAndFlagFormsChangeNothingElse : ¬ Obligations.RegisterAndFlagFormsChangeNothingElse := by
  unfold Obligations.RegisterAndFlagFormsChangeNothingElse
  intro hall
  obtain ⟨-, -, hflags⟩ := hall aliasedState aliasedTrapped 3 (.cmpEq 0 2 1) rfl aliased_traps
  obtain ⟨hareg, -⟩ := hflags 0 rfl aliased_keepsRest
  exact aliased_loses_a1 hareg

end Sys2Proof.Machine
end

section
set_option Elab.async false
/-! PROOFS. Refutation of QFILL: a translation cache of more entries than it holds drops one while it serves the four lines (R198). -/
namespace Sys2Proof.Machine
open Sys2Proof.Says

/-- A line of the L1D that holds the line at 0x200000 + 64 i whole. -/
def wholeLine (i : Nat) : L1Line :=
  { line := 0x8000 + i, data := 0, pois := false, vmask := BitVec.allOnes 64, cmask := 0, dmask := 0, key := 0, coh := 0, lru := i + 1 }

/-- A tile whose translation cache lists 129 entries: the first serves the line at VA 0x40000000, the last the page that it lies on. -/
def overfullTile : Tile :=
  { Tile.reset with
    ctx := some 0, ist := .running, sclass := 7, areg := vset Tile.reset.areg (8 : R5) 0x40000000
    l1 := [wholeLine 0, wholeLine 1, wholeLine 2, wholeLine 3], l1use := 9
    tlb := { ctx := 0, va := 0x40000000, log2 := 6, leaf := hbmLeaf } ::
      (List.replicate 127 { ctx := 1, va := 0, log2 := 16, leaf := hbmLeaf } ++ [{ ctx := 0, va := 0x40000000, log2 := 16, leaf := hbmLeaf }]) }

/-- Tile 3 is such a tile and issues from its A-stream. -/
def overfullState : State := { State.reset with tiles := [(3, overfullTile)], cur := .stream 3 .a }

/-- The PC of the A-stream of tile 3 in the state that an instruction leaves. -/
def apc3 : Host.Outcome State Fault Refusal → Pc
  | .next t => (t.tile 3).apc
  | _ => 0

/-- The second line's translation misses, so the instruction waits. -/
theorem overfull_waits : apc3 (exec (.qfill 8 7 0 0) overfullState) = 0 := by decide +kernel

theorem overfull_lines : ∀ i < 4, Reaches overfullState 3 (0x40000000 + BitVec.ofNat 64 (64 * i)) .read (0x200000 + 64 * i) hbmLeaf ∧
    (overfullState.tile 3).l1Get (0x200000 / 64 + i) = some (wholeLine i) ∧ (wholeLine i).vmask = BitVec.allOnes 64 := by
  unfold Reaches
  decide +kernel

/-- Refutes O21: each of the four lines passes translation in the state before the fill, yet nothing bounds the translation cache to its 128 entries.
Serving the first line makes its entry the most recent one and drops the last, which served the other three: the second line misses. -/
theorem not_queueFillsAndStores : ¬ Obligations.QueueFillsAndStores := by
  unfold Obligations.QueueFillsAndStores
  intro hall
  have haddress : Address (overfullState.tile 3) 8 0 64 0x40000000 := by
    unfold Address
    decide +kernel
  obtain ⟨hfill, -⟩ := hall overfullState 3 8 7 0 0 0x40000000 0x200000 hbmLeaf wholeLine { data := 0, pois := 0 } [] rfl haddress
    (by decide) (by decide) (by decide) (by decide)
  obtain ⟨t, ht, -, hapc, -⟩ := hfill (by decide +kernel) (by decide) (by decide) overfull_lines
  have hwaits := overfull_waits
  rw [ht] at hwaits
  have hbefore : (overfullState.tile 3).apc = 0 := by decide +kernel
  rw [hbefore] at hapc
  exact absurd (hapc.symm.trans hwaits) (by decide)

end Sys2Proof.Machine
end

section
set_option Elab.async false
/-! PROOFS. Refutations of the loads and stores of cluster memory: an image may stand in a granule there (R298). -/
namespace Sys2Proof.Machine
open Sys2Proof.Says

/-! ## A granule of cluster 0 that holds the bytes of an image -/

/-- An image of tile 5 that stands in the first granule of cluster 0. -/
def clusterImage : Image :=
  { handle := 0x80000001, grans := [cluBase 0 / 4096], hbm := none, kind := 0, tilerev := 0, scanmap := 0, ctx := 0, key := 0, keyId := 0, seq := 0
    devtime := 0, srctile := 5, clu := false, dropped := false, frozen := false, gen := 0, vclk := Vector.replicate 4 0, tile := Tile.reset
    cells := [], poison := [], clus := none, members := [], firmware := true, tagOk := true }

/-- The granule is of context 0, and tile 3 runs an item of that context and issues from its X-stream. -/
def imageState : State :=
  { State.reset with
    tiles := [(3, { Tile.reset with ctx := some 0, ist := .running, sclass := 7, xreg := vset Tile.reset.xreg (1 : R5) 256 })], cur := .stream 3 .x
    gran := [(cluBase 0 / 4096, 0)], images := [(clusterImage.handle.toNat, clusterImage)] }

/-- Whether the image's bytes stand as they were, in the state that an instruction leaves. -/
def imageWhole : Host.Outcome State Fault Refusal → Bool
  | .next t => ((Tab.get? t.images clusterImage.handle.toNat).map (·.tagOk)).getD false
  | _ => false

theorem stored_breaks_image : imageWhole (exec (.vstc 0 1 0 0 0) imageState) = false := by decide +kernel

theorem imageState_prepared (store : Bool) :
    NamesReady (held imageState 3 store) 3 [] (names 0 1) [.ls2] ∧ NamesReady (held imageState 3 store) 3 (names 0 1) [] [.ls2] ∧
    (∀ p ∈ ((held imageState 3 store).tile 3).pend, p.dst ≠ .x 1) ∧ XAddress level2 (scalar ((held imageState 3 store).tile 3) .x 1) 0 1 256 ∧
    2 ≤ ((held imageState 3 store).tile 3).sclass := by
  unfold NamesReady XAddress
  revert store
  decide +kernel

/-- Refutes O15: a store of cluster memory into a granule in which an image stands breaks the image: its tag no longer agrees (R300). The statement
has all but the listed parts of the state unchanged, the images among them. -/
theorem not_vectorStoresWriteTheirLevel : ¬ Obligations.VectorStoresWriteTheirLevel := by
  unfold Obligations.VectorStoresWriteTheirLevel
  intro hall
  obtain ⟨-, hnames, hreg, haddress, hclass⟩ := imageState_prepared true
  obtain ⟨t, _, _, ht, -, -, -, hrest, -⟩ := hall (.vstc, level2) (by simp [xStores]) imageState 3 0 1 0 0 0 256 rfl hclass hnames hreg haddress nofun
  have himages : t.images = imageState.images := by rw [hrest]; rfl
  have hbroken := stored_breaks_image
  rw [ht] at hbroken
  have hwhole : imageWhole (.next t) = true := by
    rw [imageWhole, himages]
    decide +kernel
  rw [hwhole] at hbroken
  exact absurd hbroken (by decide)

/-! ## What a load of the X-stream reads (R397, R398) -/

theorem landing_pend_congr {a b : Tile} (hp : a.pend = b.pend) (hx : a.xcyc = b.xcyc) (w : List (V6 × VW × Nat)) :
    (landing w a).pend = (landing w b).pend := by
  induction w generalizing a b with
  | nil => exact hp
  | cons e w ih =>
    exact ih (congrArg₂ (fun p c => insPend p { dst := .v e.1, mask := e.2.1.mask, val := e.2.1.val, pmask := e.2.1.pmask, pval := e.2.1.pval,
                                                close := c + e.2.2 }) hp hx) hx

section Load
variable {u s : State} {g : BitVec 8} {ds : List V6} {w : List (V6 × VW × Nat)}

/-- The window that a load of the X-stream holds open may be noted before the load's writes as well as after them. -/
theorem Progress.ldClose (h : Progress u s g ds w) (L n : Nat) :
    Progress (u.modTile g fun t => { t with ldClose := Nat.max t.ldClose (t.xcyc + L + n - 1) })
      (s.modTile g fun t => { t with ldClose := Nat.max t.ldClose (t.xcyc + L + n - 1) }) g ds w := by
  refine ⟨?_, fun k hk => ?_, ?_, fun r hr => ?_, fun r hr => ?_, fun r hr => ?_⟩
  · have hs := h.state
    calc s.modTile g _
      _ = { s with tiles := (s.modTile g fun t => { t with ldClose := Nat.max t.ldClose (t.xcyc + L + n - 1) }).tiles } := rfl
      _ = _ := by rw [hs]; rfl
  · rw [State.tile_modTile_of_ne _ _ hk, State.tile_modTile_of_ne _ _ hk]
    exact h.others k hk
  · obtain ⟨v, un, e⟩ := h.tile
    refine ⟨v, un, ?_⟩
    have hl : (landing w { u.tile g with ldClose := Nat.max (u.tile g).ldClose ((u.tile g).xcyc + L + n - 1) }).pend = (landing w (u.tile g)).pend :=
      landing_pend_congr (a := { u.tile g with ldClose := Nat.max (u.tile g).ldClose ((u.tile g).xcyc + L + n - 1) }) (b := u.tile g) rfl rfl w
    rw [State.tile_modTile, State.tile_modTile, e, hl]
  · rw [State.tile_modTile, State.tile_modTile]
    exact h.taken r hr
  · rw [State.tile_modTile]
    exact h.untagged r hr
  · rw [State.tile_modTile, State.tile_modTile]
    exact h.kept r hr

/-- The bytes of a level do not change while an instruction takes slots. -/
theorem Progress.xEntry (h : Progress u s g ds w) (l : XLevel) (ea : Nat) : xEntry l s g ea = xEntry l u g ea := by
  have hctx : (s.tile g).ctx = (u.tile g).ctx := by obtain ⟨_, _, e⟩ := h.tile; rw [e]
  have hread : s.mem = u.mem ∧ s.gran = u.gran ∧ s.poison = u.poison ∧ s.images = u.images := by rw [h.state]; exact ⟨rfl, rfl, rfl, rfl⟩
  obtain ⟨hmem, hgran, hpoison, himages⟩ := hread
  unfold Machine.xEntry State.rdGran State.spadEntry State.granByte State.imageAt State.rdBytes State.rdByte
  rw [hctx, hmem, hgran, hpoison, himages]

end Load

/-- The writes of a load: name k with the lanes of the mask that are its own. -/
def loadWrites (l : XLevel) (u : State) (g : BitVec 8) (d : V6) (n ea : Nat) (m : KMask) : List (V6 × VW) :=
  (groupOf d n).mapIdx fun i q => (q, evMov (xEntry l u g (ea + 256 * i)) (laneMask m i))

/-- A load whose operands are ready reads its level as the level stands when the load issues. -/
theorem vLoad_ready {l : XLevel} {s : State} {g : BitVec 8} {d : V6} {x : R5} {nm : BitVec 3} (m : K4) {o : BitVec 6} {ea : Nat}
    (hc : s.cur = .stream g .x) (hcl : 2 ≤ ((opened s g .x).tile g).sclass)
    (h : Prepared (held s g false) g [] (groupOf d (nm.toNat + 1)) [l.unit]) (hreg : ∀ p ∈ ((held s g false).tile g).pend, p.dst ≠ .x x)
    (hea : ∀ u, xAddr l (scalar ((held s g false).tile g) .x x) o (nm.toNat + 1) u = .ok ea) :
    let u := held s g false
    ∃ t xm, vLoad l d x nm m o s = .next t ∧ ReadsK (u.tile g) m xm ∧
      VEffect (u.modTile g fun t => { t with ldClose := Nat.max t.ldClose (t.xcyc + l.lat + (nm.toNat + 1) - 1) }) t g
        (groupWrites 1 l.lat (loadWrites l u g d (nm.toNat + 1) ea xm)) 0 0 := by
  intro u
  obtain ⟨hs, -, hval⟩ := Reading.rdS (Progress.refl u g) x
  have hval := hval hreg
  obtain ⟨s1, hu, h1⟩ := Reading.useUnit hs (k := l.unit) (nm.toNat + 1) (by obtain ⟨n, hn⟩ := rdS_state u g .x x; rw [hn]; rfl) (h.idle _ (by simp))
  obtain ⟨hk, ek⟩ := Reading.rdK h1 m
  obtain ⟨s2, htake, hp⟩ := Reading.takeSlots hk h.slots
  have hnames (L : Nat) (xm : KMask) : (groupWrites 1 L (loadWrites l u g d (nm.toNat + 1) ea xm)).map (·.1) = groupOf d (nm.toNat + 1) := by
    rw [map_fst_groupWrites]
    refine List.ext_getElem (by simp [loadWrites]) fun k _ _ => ?_
    simp only [loadWrites, List.getElem_map, List.getElem_mapIdx]
  have hw := hp.wrGroup 1 l.lat (l := loadWrites l u g d (nm.toNat + 1) ea (s1.rdK g m).1) fun e he => by
    rw [← hnames l.lat (s1.rdK g m).1, map_fst_groupWrites]
    exact List.mem_map_of_mem he
  rw [List.nil_append] at hw
  refine ⟨_, _, issueV_ok hc hcl ?_, ek, Progress.finish_quiet (by rw [hnames]; exact hw.ldClose _ _)⟩
  have hentry (ea : Nat) : xEntry l s2 g ea = xEntry l u g ea := hp.xEntry l ea
  have hopen : s1.openDst g (groupOf d (nm.toNat + 1)) (m != 0) = .ok s1 := h.openDst h1 _
  show (do
      let ea ← xAddr l (u.rdS g .x x).1 o (nm.toNat + 1) u
      let s ← (u.rdS g .x x).2.useUnit g .x l.unit (nm.toNat + 1)
      let s ← s.openDst g (groupOf d (nm.toNat + 1)) (m != 0)
      let k := s.rdK g m
      let s ← k.2.takeSlots g (groupOf d (nm.toNat + 1))
      let ws := (groupOf d (nm.toNat + 1)).mapIdx fun i q => (q, evMov (xEntry l s g (ea + 256 * i)) (laneMask k.1 i))
      let s := State.wrGroup g 1 l.lat ws s
      (.ok (s.modTile g fun t => { t with ldClose := Nat.max t.ldClose (t.xcyc + l.lat + (nm.toNat + 1) - 1) }) : Res State)) = _
  have hea : ∀ v, xAddr l (scalar (u.tile g) .x x) o (nm.toNat + 1) v = .ok ea := hea
  rw [hval]
  simp only [hea, hu, hopen, htake, hentry, Bind.bind, Except.bind]
  rfl

end Sys2Proof.Machine
end

section
set_option Elab.async false
namespace Sys2Proof.Machine
open Sys2Proof.Says

/-! ## The image's bytes where a load of cluster memory reads them -/

/-- The last byte of an image's header is the top one of its magic number (R299). -/
theorem header_top (i : Image) (tag : BitVec 128) : (i.header tag).extractLsb' 4088 8 = 0x45 := by
  unfold Image.header Image.headerOf
  refine BitVec.eq_of_getLsbD_eq fun k hk => ?_
  simp only [BitVec.getLsbD_extractLsb', BitVec.getLsbD_append]
  interval_cases k <;> simp

theorem getD_leBytes (v : Nat) : ∀ {n k : Nat}, k < n → (leBytes n v).getD k 0 = BitVec.ofNat 8 (v / 256 ^ k)
  | n + 1, 0, _ => by rw [Nat.pow_zero, Nat.div_one]; rfl
  | n + 1, k + 1, h => by
    rw [Nat.pow_succ', ← Nat.div_div_eq_div_mul]
    exact getD_leBytes (v / 256) (Nat.lt_of_succ_lt_succ h)

theorem getD_headerBytes (h : BitVec 4096) : (headerBytes h).getD 511 0 = h.extractLsb' 4088 8 := by
  rw [headerBytes, getD_leBytes _ (by decide)]
  refine BitVec.eq_of_toNat_eq ?_
  have hpow : 256 ^ 511 = 2 ^ 4088 := (Nat.pow_mul 2 8 511).symm
  rw [BitVec.toNat_ofNat, BitVec.extractLsb'_toNat, Nat.shiftRight_eq_div_pow, hpow]

/-- Byte 511 of an image as it is stored, whatever its sections, its key and its tag. -/
theorem getD_stored (i : Image) : i.stored.getD 511 0 = 0x45 := by
  have hlen (h : BitVec 4096) : 511 < (headerBytes h).length := by rw [headerBytes, length_leBytes]; decide
  unfold Image.stored Image.wrap
  rw [List.append_assoc, List.getD_append _ _ _ _ (hlen _), getD_headerBytes, header_top]

/-- A byte of a little-endian number. -/
theorem leNat_digit (l : List Byte) (k : Nat) : leNat l / 256 ^ k % 256 = (l.getD k 0).toNat := by
  induction l generalizing k with
  | nil => simp [leNat]
  | cons b l ih =>
    have hb : b.toNat < 256 := b.isLt
    cases k with
    | zero => rw [leNat, Nat.pow_zero, Nat.div_one, Nat.add_mul_mod_self_left, Nat.mod_eq_of_lt hb]; rfl
    | succ k =>
      rw [leNat, Nat.pow_succ', ← Nat.div_div_eq_div_mul, Nat.add_mul_div_left _ _ (by decide), Nat.div_eq_of_lt hb, Nat.zero_add, ih]
      rfl

/-- A lane of a masked move. -/
theorem evMov_lane (a : VVal) (m : KMask) {l : Nat} (hl : l < 64) (hm : m.getLsbD l = true) :
    (evMov a m).val / 2 ^ (32 * l) % 2 ^ 32 = elem 32 a.1 l := by
  unfold evMov
  rw [(packElems_digits 32 _ l).2, List.getD_eq_getElem _ _ (by simpa using hl)]
  simp only [List.getElem_map, List.getElem_range, valDigit, hm, if_true]
  exact Nat.mod_eq_of_lt (elem_lt 32 a.1 l)

/-- The last byte that tile 3 reads of the image is byte 511. -/
theorem imageState_lastByte : (((held imageState 3 false).rdGran 0 (cluBase 0 + 256) 256).1).getD 255 0 = 0x45 := by
  have hown : Tab.get? (held imageState 3 false).gran ((cluBase 0 + 256 + 255) / 4096) = some 0 := by decide +kernel
  have hat : (held imageState 3 false).imageAt ((cluBase 0 + 256 + 255) / 4096) = some (clusterImage, 0) := by decide +kernel
  have hbyte : (held imageState 3 false).granByte (cluBase 0 + 256 + 255) = 0x45 := by
    unfold State.granByte
    rw [hat]
    exact getD_stored clusterImage
  unfold State.rdGran
  rw [List.getD_eq_getElem _ _ (by simp), List.getElem_map, List.getElem_range]
  exact (if_pos (beq_iff_eq.mpr hown)).trans hbyte

theorem lane_of_top_byte {x : Nat} (h : x / 256 ^ 255 % 256 = 69) : x / 2 ^ (32 * 63) % 2 ^ 32 ≠ 0 := by
  have hplace : 256 ^ 255 = 2 ^ (32 * 63) * 2 ^ 24 := by
    rw [← Nat.pow_add]
    exact (Nat.pow_mul 2 8 255).symm
  rw [hplace, ← Nat.div_div_eq_div_mul] at h
  generalize x / 2 ^ (32 * 63) = y at h ⊢
  omega

theorem toNat_ofNat_leNat {l : List Byte} (h : l.length = 256) : (BitVec.ofNat 2048 (leNat l)).toNat = leNat l := by
  have hsize : 2 ^ 2048 = 256 ^ 256 := Nat.pow_mul 2 8 256
  have hlt := leNat_lt l
  rw [h] at hlt
  rw [BitVec.toNat_ofNat]
  exact Nat.mod_eq_of_lt (hlt.trans_eq hsize.symm)

/-- The last lane that the load reads is not 0, though memory is. -/
theorem imageState_lastLane : elem 32 (xEntry xClu (held imageState 3 false) 3 256).1 63 ≠ 0 := by
  have hctx : ((held imageState 3 false).tile 3).ctx.getD 0 = 0 := by decide +kernel
  have hentry : (xEntry xClu (held imageState 3 false) 3 256).1 =
      BitVec.ofNat 2048 (leNat ((held imageState 3 false).rdGran (((held imageState 3 false).tile 3).ctx.getD 0) (cluBase 0 + 256) 256).1) := rfl
  rw [hentry, hctx, elem, toNat_ofNat_leNat (by simp [State.rdGran])]
  exact lane_of_top_byte ((leNat_digit _ 255).trans (by rw [imageState_lastByte]; rfl))

theorem leNat_zeros (l : List Nat) : leNat (l.map fun _ => (0 : Byte)) = 0 := by
  induction l with
  | nil => rfl
  | cons _ l ih => rw [List.map_cons, leNat, ih]; rfl

theorem imageState_clearLane : elem 32 (entryAt level2 (held imageState 3 false) 3 256).1 63 = 0 := by
  have hmem (a : Nat) : (held imageState 3 false).rdByte a = 0 := rfl
  unfold entryAt
  simp only [hmem, ite_self, leNat_zeros]
  rw [elem, BitVec.toNat_ofNat, Nat.zero_mod, Nat.zero_div, Nat.zero_mod]

/-- The one write on its way of a load of one name. -/
theorem pend_one (a : Tile) (h : a.pend = []) (d : V6) (x : VW) (L : Nat) :
    ((landing [(d, x, L)] a).pendFlags 0 0).pend =
      [{ dst := .v d, mask := x.mask, val := x.val, pmask := x.pmask, pval := x.pval, close := a.xcyc + L }] := by
  show insPend a.pend _ = _
  rw [h]
  rfl

/-- The lanes of the first name under `k0`, as the statement writes them. -/
def firstLanes : KMask := (BitVec.allOnes 512 >>> (64 * 0)) &&& BitVec.ofNat 512 (2 ^ 64 - 1)

/-- Refutes O14: a load of cluster memory reads an image's bytes from the granule in which it stands, where the statement reads the bytes of the level
itself. The image's header ends in its magic number (R299) whatever its key and its tag, and memory there holds zeros. -/
theorem not_vectorLoadsReadTheirLevel : ¬ Obligations.VectorLoadsReadTheirLevel := by
  unfold Obligations.VectorLoadsReadTheirLevel
  intro hall
  obtain ⟨hnames, -, hreg, haddress, hclass⟩ := imageState_prepared false
  obtain ⟨t, xm, ht, hxm, -, -, -, hpend, -⟩ := hall (.vldc, level2) (by simp [xLoads]) imageState 3 0 1 0 0 0 256 rfl hclass hnames hreg haddress
  have hx : scalar ((held imageState 3 false).tile 3) .x 1 = (256, false) := by decide +kernel
  obtain ⟨t', xm', ht', hxm', -, -, -, hpend', -⟩ := vLoad_ready (l := xClu) (nm := 0) 0 (o := 0) (ea := 256) (d := 0) rfl (by decide +kernel)
    (prepared_of_namesReady hnames) hreg fun v => by rw [hx]; simp [xAddr, vAddr, levelOut, xClu]
  obtain rfl : t = t' := Host.Outcome.next.inj (ht.symm.trans ht')
  obtain rfl := hxm.1 rfl
  obtain rfl := hxm'.1 rfl
  have hidle : ((held imageState 3 false).tile 3).pend = [] := by decide +kernel
  have hlanes := hpend.symm.trans hpend'
  rw [State.tile_modTile, State.tile_modTile] at hlanes
  have hwrites := (pend_one _ hidle 0 (evMov (entryAt level2 (held imageState 3 false) 3 256) firstLanes) 14).symm.trans
    (hlanes.trans (pend_one _ hidle 0 (evMov (xEntry xClu (held imageState 3 false) 3 256) (laneMask (BitVec.allOnes 512) 0)) 14))
  injection hwrites with hwrite
  injection hwrite with _ _ hval
  have hsays := evMov_lane (entryAt level2 (held imageState 3 false) 3 256) firstLanes (l := 63) (by decide) (by decide +kernel)
  have hread := evMov_lane (xEntry xClu (held imageState 3 false) 3 256) (laneMask (BitVec.allOnes 512) 0) (l := 63) (by decide)
    (by decide +kernel)
  rw [hval] at hsays
  exact imageState_lastLane (hread.symm.trans (hsays.trans imageState_clearLane))

end Sys2Proof.Machine
end

section
set_option Elab.async false
/-! PROOFS. Refutation of the answer of BRKX at a home that takes no writes: as for CAPTURE, the descriptor may lie behind a CXL port that is not
trained. -/
namespace Sys2Proof.Machine
open Sys2Proof.Says

/-- The descriptor lies behind the port and reads 0: it asks to set slot 0 of tile 0, which runs context 0 and whose slot 0 is in use. -/
def portBreakpoint : State :=
  portRequest.setTile 0 { Tile.reset with ctx := some 0, brk := vset Tile.reset.brk (0 : BitVec 3) { BrkSlot.reset with valid := true } }

/-- The state in which the descriptor is read. -/
def portBreakpointRead : State := (portBreakpoint.dirtyBack 3).drainDie (dieOf 3)

theorem portBreakpoint_descriptor :
    Descriptor portBreakpoint 3 8 32 portBreakpointRead 0x40000000 0x800000000000 portLeaf (0 : BitVec 256).toNat := by
  refine ⟨rfl, ?_, by decide, rfl, rfl, rfl, ?_, ?_, ?_⟩
  · decide +kernel
  · unfold Reaches
    decide +kernel
  · unfold Reaches
    decide +kernel
  · decide +kernel

theorem portBreakpointRead_writable : Writable portBreakpointRead 0x40000000 0x800000000000 portLeaf := by
  unfold Writable
  decide +kernel

/-- STATUS of the descriptor behind the port, in the state that an instruction leaves. -/
def portBreakpointStatus : Host.Outcome State Fault Refusal → Nat
  | .next t => leNat (t.readHome portLeaf 0x800000000000 32).1 / 2 ^ 152 % 2 ^ 8
  | _ => 0

/-- The port's home drops the answer: STATUS stays 0. -/
theorem portBreakpointStatus_lost : portBreakpointStatus (exec (.brkx 8) portBreakpoint) = 0 := by decide +kernel

/-- Refutes O35: slot 0 is in use, so STATUS 2 has to stand in the descriptor, yet nothing says that the descriptor's home takes the write. Behind a
CXL port that is not trained the page passes translation, reads 0 and drops what is written, and STATUS stays 0. -/
theorem not_breakpointOperations : ¬ Obligations.BreakpointOperations := by
  unfold Obligations.BreakpointOperations
  intro hall
  obtain ⟨hanswer, -⟩ := hall portBreakpoint portBreakpointRead 3 8 0x40000000 0x800000000000 portLeaf 0 (by decide) (by decide +kernel) (by decide)
    (by decide) (by decide) portBreakpointRead_writable ⟨fun _ => by decide +kernel, fun h => absurd h (by decide)⟩ (by decide)
  obtain ⟨t, status, old, ht, hdoes, hstatus, -⟩ := hanswer portBreakpoint_descriptor (by decide +kernel)
  obtain ⟨-, hused, -⟩ := hdoes
  obtain ⟨-, -, h2⟩ := hused (by decide) (by decide +kernel)
  have hlost := portBreakpointStatus_lost
  rw [ht] at hlost
  exact absurd (h2.symm.trans (hstatus.symm.trans hlost)) (by decide)

end Sys2Proof.Machine
end

section
set_option Elab.async false
/-! PROOFS. Stage pushes, enqueues and cohort barriers (chapter 14, R374 to R377). -/
namespace Sys2Proof.Machine
open Sys2Proof.Says

/-! ## How an instruction of the A-stream ends -/

section IssueA
variable {s : State} {g : BitVec 8} (hc : s.cur = .stream g .a) {n : Nat} {b : BitVec 8 → Stream → State → Res State}
include hc

theorem issueA_ok {s' : State} (hb : b g .a s = .ok s') : issue .a n b s = .next (finished s' g .a n) := by
  rw [issue_a hc, hb, ← settle_done]
  rfl

theorem issueA_trap {s' : State} {c : Raise} (hb : b g .a s = .error (.trap s' c)) : issue .a n b s = .next (trapped s' g .a c) := by
  rw [issue_a hc, hb]
  rfl

theorem issueA_wait {s' : State} {why : WaitWhy} (hb : b g .a s = .error (.wait s' why)) :
    issue .a n b s = .next (s'.stalled g .a why) := by
  rw [issue_a hc, hb]
  rfl

end IssueA

/-! ## The packet of `a8` to `a15` -/

theorem words8_fst (t : Tile) : t.words8.1 = (eight t).map (·.1) := rfl

theorem words8_clean {t : Tile} (h : ∀ w ∈ eight t, w.2 = false) : t.words8.2 = false := List.any_eq_false.mpr fun w hw => by
  rw [h w hw]
  exact Bool.false_ne_true

theorem words8_poisoned {t : Tile} (h : ¬ ∀ w ∈ eight t, w.2 = false) : t.words8.2 = true := by
  push Not at h
  obtain ⟨w, hw, hp⟩ := h
  exact List.any_eq_true.mpr ⟨w, hw, Bool.not_eq_false _ ▸ hp⟩

/-! ## SQPUSH (R123, R374) -/

section Push
variable {s : State} {g : BitVec 8} (hc : s.cur = .stream g .a) (f : F3) {i : Item} {l : Launch} (hi : (s.tile g).item = some i)
  (hl : s.launch? i.launch = some l)

include hi hl in
theorem pushTo_stage {d : StageDesc} (hn : i.stage.toNat + 1 < l.nstage) (hd : l.stages[i.stage.toNat]? = some d) :
    s.pushTo g = some (l, i.stage.toNat, d) := by
  rw [State.pushTo, hi]
  dsimp only
  rw [hl]
  dsimp only
  rw [if_pos hn, Launch.stage?, hd]
  rfl

include hi hl in
theorem pushTo_last (hn : ¬ i.stage.toNat + 1 < l.nstage) : s.pushTo g = none := by
  rw [State.pushTo, hi]
  dsimp only
  rw [hl]
  exact if_neg hn

include hc

theorem sqpush_poisoned (h : ¬ ∀ w ∈ eight (s.tile g), w.2 = false) : exec (.sqpush f) s = .next (trapped s g .a { code := 0x2E }) := by
  show execSqpush f s = _
  refine issueA_trap hc ?_
  dsimp only
  rw [words8_poisoned h]
  rfl

variable (hclean : ∀ w ∈ eight (s.tile g), w.2 = false)
include hclean

theorem sqpush_last (h : s.pushTo g = none) : exec (.sqpush f) s = .next (trapped s g .a { code := 0x5A }) := by
  show execSqpush f s = _
  refine issueA_trap hc ?_
  dsimp only
  rw [words8_clean hclean, h]
  rfl

theorem sqpush_stage {n : Nat} {d : StageDesc} (h : s.pushTo g = some (l, n, d)) : exec (.sqpush f) s = .next (finished
    (if ((l.die (dieOf g)).inst n).entries.length < 2 ^ d.log2depth then
      (s.pushEntry g l n d ((eight (s.tile g)).map (·.1))).modTile g (wroteFlag f false)
    else s.modTile g (wroteFlag f true)) g .a 1) := by
  show execSqpush f s = _
  refine issueA_ok hc ?_
  dsimp only
  rw [words8_clean hclean, h]
  by_cases hroom : ((l.die (dieOf g)).inst n).entries.length < 2 ^ d.log2depth
  · rw [if_pos hroom]
    exact if_neg (Nat.not_le.mpr hroom)
  · rw [if_neg hroom]
    exact if_pos (Nat.not_lt.mp hroom)

end Push

/-! ## ENQ (R375, R376) -/

/-- The queue that `q` names takes packets from tiles of a context. -/
theorem enqTaker_iff (s : State) (c : BitVec 16) (q : W64) : s.enqTaker c q = true ↔
    q.toNat < 1024 ∧ (s.queue (q.setWidth 10)).en = true ∧ (s.queue (q.setWidth 10)).src = true ∧ (s.queue (q.setWidth 10)).ctx = c := by
  simp only [State.enqTaker, Bool.and_eq_true, decide_eq_true_eq, beq_iff_eq, and_assoc]

section Enq
variable {s : State} {g : BitVec 8} (hc : s.cur = .stream g .a) (f : F3) {r : R5}
include hc

theorem enq_poisoned (h : (scalar (s.tile g) .a r).2 = true) : exec (.enq f r) s = .next (trapped s g .a { code := 0x2B }) := by
  show execEnq f r s = _
  refine issueA_trap hc ?_
  simp only [rdA_eq_scalar, h]
  rfl

variable (hr : (scalar (s.tile g) .a r).2 = false)
include hr

theorem enq_refused (h : ¬ s.enqTaker ((s.tile g).ctx.getD 0) (scalar (s.tile g) .a r).1 = true) :
    exec (.enq f r) s = .next (trapped s g .a { code := 0x06 }) := by
  show execEnq f r s = _
  refine issueA_trap hc ?_
  simp only [rdA_eq_scalar, hr, Bool.eq_false_iff.mpr h]
  rfl

theorem enq_taken (h : s.enqTaker ((s.tile g).ctx.getD 0) (scalar (s.tile g) .a r).1 = true)
    (hclean : ∀ w ∈ eight (s.tile g), w.2 = false) :
    exec (.enq f r) s = .next (finished (s.modTile g fun t => { t with
      fpend := setBit t.fpend f.toNat true
      enqs := t.enqs ++ [{ flag := f, queue := (scalar (s.tile g) .a r).1.setWidth 10, words := (eight (s.tile g)).map (·.1) }] }) g .a 1) := by
  show execEnq f r s = _
  refine issueA_ok hc ?_
  simp only [rdA_eq_scalar, hr, h, words8_clean hclean]
  rfl

end Enq

/-! ## BAR (R128, R377) -/

section Bar
variable {s : State} {g : BitVec 8} (hc : s.cur = .stream g .a)
include hc

theorem bar_outside (h : (s.tile g).cohort = none) : exec .bar s = .next (trapped s g .a { code := 0x59 }) := by
  show execBar s = _
  refine issueA_trap hc ?_
  rw [h]
  rfl

variable {l n : Nat} (hg : (s.tile g).cohort = some (l, n)) (hp : (s.tile g).relPend = [])
include hg hp

theorem bar_arrives (h : (s.tile g).inBar = false) :
    exec .bar s = .next (State.stalled ((s.release g 1).modTile g fun t => { t with inBar := true, bars := t.bars + 1 }) g .a .other) := by
  show execBar s = _
  refine issueA_wait hc ?_
  rw [hg]
  simp only [State.settleRelease, hp, List.isEmpty_nil, if_true, Bind.bind, Except.bind, h]
  rfl

theorem bar_completes (h : (s.tile g).inBar = true) (hgen : (s.tile g).bars ≤ ((s.launch? l).map fun x => x.gen n).getD 0) :
    exec .bar s = .next (finished ((s.acquire g 1).modTile g fun t => { t with inBar := false }) g .a 1) := by
  show execBar s = _
  refine issueA_ok hc ?_
  rw [hg]
  simp only [State.settleRelease, hp, List.isEmpty_nil, if_true, Bind.bind, Except.bind, h]
  exact if_neg (Nat.not_lt.mpr hgen)

end Bar

/-! ## What a release leaves alone (R252, R255) -/

theorem cur_of_offHomes {s t : State} (h : t.offHomes = s.offHomes) : t.cur = s.cur := congrArg (fun x => State.cur x.1) h

theorem setDie_offHomes (s : State) (d : BitVec 2) (x : Die) : (s.setDie d x).offHomes = s.offHomes := rfl
theorem setChan_offHomes (s : State) (d : BitVec 2) (h : BitVec 3) (l : List ChanEnt) : (s.setChan d h l).offHomes = s.offHomes := rfl

theorem reclassify_offHomes (s : State) (line : Nat) : (s.reclassify line).offHomes = s.offHomes := by
  unfold State.reclassify
  refine (setHolders_offHomes ..).trans (foldl_offHomes (fun t h => ?_) _ s)
  dsimp only
  split
  · exact pullOwn_offHomes ..
  · split
    · exact pullOwn_offHomes ..
    · exact (modHolder_offHomes ..).trans ((landWrite_offHomes ..).trans (pullOwn_offHomes ..))

theorem homeConflict_offHomes (s : State) (coh : BitVec 2) (line : Nat) (g : BitVec 8) : (s.homeConflict coh line g).offHomes = s.offHomes := by
  unfold State.homeConflict
  dsimp only
  split
  · exact reclassify_offHomes ..
  · rfl

theorem recallSelf_offHomes (s : State) (w : HomeWrite) : (s.recallSelf w).offHomes = s.offHomes := by
  unfold State.recallSelf
  dsimp only
  split
  · exact (recallOne_offHomes ..).trans (pullOwn_offHomes ..)
  · rfl

theorem land_offHomes (w : HomeWrite) (s : State) : (w.land s).offHomes = s.offHomes := landWrite_offHomes ..

theorem applyWrite_offHomes (s : State) (w : HomeWrite) : (s.applyWrite w).offHomes = s.offHomes := by
  unfold State.applyWrite
  split
  · exact land_offHomes ..
  · exact (unhold_offHomes ..).trans (land_offHomes w s)
  · split
    · exact land_offHomes ..
    · dsimp only
      split
      · rw [clearValid_offHomes, recallSelf_offHomes, land_offHomes, recall_offHomes, homeConflict_offHomes]
      · rw [land_offHomes, homeConflict_offHomes]

theorem applyEnt_offHomes (s : State) (d : BitVec 2) (h : BitVec 3) (e : ChanEnt) : (s.applyEnt d h e).offHomes = s.offHomes := by
  cases e with
  | write w => exact applyWrite_offHomes s w
  | close v => rfl

theorem deliverN_offHomes (d : BitVec 2) (h : BitVec 3) (n : Nat) (s : State) : (State.deliverN d h n s).offHomes = s.offHomes := by
  induction n generalizing s with
  | zero => rfl
  | succ n ih =>
    unfold State.deliverN
    split
    · rfl
    · rw [ih, applyEnt_offHomes, setChan_offHomes]

theorem drainChan_offHomes (s : State) (d : BitVec 2) (h : BitVec 3) : (s.drainChan d h).offHomes = s.offHomes := deliverN_offHomes ..

theorem drainSent_offHomes (s : State) (d : BitVec 2) : (s.drainSent d).offHomes = s.offHomes := foldl_offHomes (fun _ _ => drainChan_offHomes ..) _ s

theorem send_offHomes (s : State) (d : BitVec 2) (w : HomeWrite) : (s.send d w).offHomes = s.offHomes := by
  unfold State.send
  dsimp only
  rw [setChan_offHomes]
  split
  · exact drainSent_offHomes ..
  · rfl

theorem leaveN_offHomes (d : BitVec 2) (p : HomeWrite → Bool) (n : Nat) (s : State) : (State.leaveN d p n s).offHomes = s.offHomes := by
  induction n generalizing s with
  | zero => rfl
  | succ n ih =>
    unfold State.leaveN
    split
    · rfl
    · rw [ih, send_offHomes, setDie_offHomes]

theorem dirtyBack_offHomes (s : State) (g : BitVec 8) : (s.dirtyBack g).offHomes = s.offHomes :=
  foldl_offHomes (f := fun s l => s.post (dieOf g) (wbOf s g l .wb)) (fun _ _ => rfl) _ s

theorem releaseNow_offHomes (s : State) (g : BitVec 8) (c : BitVec 2) : (s.releaseNow g c).offHomes = s.offHomes := by
  have h : (((s.dirtyBack g).leave g).drainChan (dieOf g) (BitVec.ofNat 3 (dieOf g).toNat)).offHomes = s.offHomes := by
    rw [drainChan_offHomes, State.leave, leaveN_offHomes, dirtyBack_offHomes]
  unfold State.releaseNow
  dsimp only
  split
  · rw [State.epochStep, setDie_offHomes, h]
  · exact h

/-- A release with no claim outstanding leaves the A-stream where it is, and its barrier. -/
theorem release_stays {s : State} {g : BitVec 8} (hp : (s.tile g).relPend = []) (hcl : (s.tile g).claims = []) :
    ((s.release g 1).tile g).bars = (s.tile g).bars ∧ ((s.release g 1).tile g).apc = (s.tile g).apc ∧ (s.release g 1).cur = s.cur := by
  have hcur := cur_of_offHomes (releaseNow_offHomes s g 1)
  obtain ⟨_, ht, -⟩ := (releaseNow_homeSide s g 1).tile g
  have hbars : ((s.releaseNow g 1).tile g).bars = (s.tile g).bars := by rw [ht]
  have hapc : ((s.releaseNow g 1).tile g).apc = (s.tile g).apc := by rw [ht]
  rw [release_wide (by decide) hp hcl]
  exact ⟨hbars, hapc, hcur⟩

/-- Settles O23: fullness is judged, and the flag written, at once (the model's choice, log entry 36). -/
theorem stagePushesEnqueuesAndBarriers : Obligations.StagePushesEnqueuesAndBarriers := by
  unfold Obligations.StagePushesEnqueuesAndBarriers
  intro s g f r l i d n t ws clean hc
  refine ⟨fun h hi hl hn hd => sqpush_stage hc f h (pushTo_stage hi hl hn hd), fun h hi hl hn => sqpush_last hc f h (pushTo_last hi hl hn),
    sqpush_poisoned hc f, ⟨fun hq ht h => enq_taken hc f hq ((enqTaker_iff ..).mpr ht) h, enq_poisoned hc f,
    fun hq ht => enq_refused hc f hq (mt (enqTaker_iff ..).mp ht)⟩, fun hi hgroup hp hcl => ⟨fun hb => ?arrives, fun hb hl hgen => ?completes⟩,
    fun hi => ?outside⟩
  case arrives =>
    have hcohort : (s.tile g).cohort = some (i.launch, n) := by rw [Tile.cohort, hi]; exact congrArg (Option.map _) hgroup
    obtain ⟨hbars, hapc, hcur⟩ := release_stays hp hcl
    obtain ⟨hcur', hpc⟩ := stalled_stays ((s.release g 1).modTile g fun t => { t with inBar := true, bars := t.bars + 1 }) g .a .other
    obtain ⟨b, hb', _, _, _, rfl⟩ := stalled_sameButPmc ((s.release g 1).modTile g fun t => { t with inBar := true, bars := t.bars + 1 }) g .a .other
    refine ⟨_, bar_arrives hc hcohort hp hb, ?_, ?_, ?_, ?_⟩
    · exact hcur'.trans (hcur.trans hc)
    · rw [hb', State.tile_setTile, State.tile_modTile]
    · rw [hb', State.tile_setTile, State.tile_modTile]
      exact congrArg (· + 1) hbars
    · rw [hb', State.tile_setTile, State.tile_modTile]
      exact hapc
  case completes =>
    have hcohort : (s.tile g).cohort = some (i.launch, n) := by rw [Tile.cohort, hi]; exact congrArg (Option.map _) hgroup
    exact bar_completes hc hcohort hp hb (by rw [hl]; exact hgen)
  case outside => exact bar_outside hc (by rw [Tile.cohort, show (s.tile g).item = none from hi]; rfl)

end Sys2Proof.Machine
end

section
set_option Elab.async false
/-! PROOFS. Accumulator instructions and the matrix configuration (chapter 16, R424 to R426). -/
namespace Sys2Proof.Machine
open Sys2Proof.Says

/-! ## Numbers by their digits -/

/-- Digits added up from the lowest and from the highest. -/
theorem foldr_digits (w : Nat) (f : Nat → Nat) (n : Nat) :
    (List.range n).foldr (fun i m => f i + 2 ^ w * m) 0 = (List.range n).foldl (fun a i => a + f i * 2 ^ (w * i)) 0 := by
  have hdigits (l : List Nat) : l.foldr (fun i m => f i + 2 ^ w * m) 0 = Nat.ofDigits (2 ^ w) (l.map f) := by
    induction l with
    | nil => rfl
    | cons i l ih => rw [List.foldr_cons, ih, List.map_cons, Nat.ofDigits_cons]
  rw [hdigits]
  induction n with
  | zero => rfl
  | succ n ih =>
    rw [List.range_succ, List.map_append, Nat.ofDigits_append, ih, List.foldl_append, List.length_map, List.length_range, ← Nat.pow_mul]
    simp [Nat.mul_comm]

theorem foldr_bits (p : Nat → Bool) (n : Nat) : (List.range n).foldr (fun i m => (if p i then 1 else 0) + 2 * m) 0 =
    (List.range n).foldl (fun a j => if p j then a + 2 ^ j else a) 0 := by
  refine (foldr_digits 1 (fun i => if p i then 1 else 0) n).trans (List.foldl_ext _ _ _ fun a j _ => ?_)
  rw [Nat.one_mul]
  split
  · rw [Nat.one_mul]
  · rw [Nat.zero_mul, Nat.add_zero]

theorem bitOf_eq_testBit (p j : Nat) : bitOf p j = p.testBit j := by
  rw [bitOf, Nat.testBit_eq_decide_div_mod_eq]
  rfl

/-- The lanes of a row's poison, two for an element (R424). -/
theorem rowPoison_eq (p : Nat) : BitVec.ofNat 64 ((List.range 32).foldl (fun n j => if bitOf (p % 2 ^ 32) j then n + 3 * 2 ^ (2 * j) else n) 0) =
    rowPoison p := by
  have hpairs (n : Nat) : (List.range n).foldl (fun v j => if p.testBit j then v + 3 * 2 ^ (2 * j) else v) 0 =
      (List.range (2 * n)).foldl (fun v l => if p.testBit (l / 2) then v + 2 ^ l else v) 0 := by
    induction n with
    | zero => rfl
    | succ n ih =>
      rw [show 2 * (n + 1) = 2 * n + 1 + 1 by omega, List.range_succ, List.range_succ, List.range_succ, List.foldl_append, ih]
      simp only [List.foldl_append, List.foldl_cons, List.foldl_nil, Nat.mul_div_cancel_left n (by decide : 0 < 2),
        show (2 * n + 1) / 2 = n by omega]
      split
      · rw [Nat.pow_succ]; omega
      · rfl
  unfold rowPoison
  rw [← hpairs 32]
  refine congrArg _ (List.foldl_ext _ _ _ fun v j hj => ?_)
  rw [bitOf_eq_testBit, Nat.testBit_mod_two_pow, decide_eq_true (List.mem_range.mp hj), Bool.true_and]

/-- A container of a tag, from an element (R270). -/
theorem contain_eq (tag : ZTag) (v : W64) : contain tag v = match tag with
    | .f64 => v
    | .a40 => (v.setWidth 40).setWidth 64
    | .i40 => (v.setWidth 40).signExtend 64 := by
  cases tag with
  | f64 => rfl
  | a40 =>
    refine BitVec.eq_of_toNat_eq ?_
    have hlt : v.toNat % 2 ^ 40 < 2 ^ 64 := (Nat.mod_lt _ (by decide)).trans (by decide)
    simp only [contain, BitVec.toNat_and, BitVec.toNat_setWidth, Nat.mod_eq_of_lt hlt]
    exact Nat.and_two_pow_sub_one_eq_mod v.toNat 40
  | i40 =>
    refine congrArg (BitVec.signExtend 64) ?_
    exact BitVec.eq_of_toNat_eq (by simp)

theorem ofNat_elem (v : Vec) (j : Nat) : BitVec.ofNat 64 (elem 64 v j) = v.extractLsb' (64 * j) 64 :=
  BitVec.eq_of_toNat_eq <| by rw [elem_eq_extract, BitVec.ofNat_toNat, BitVec.setWidth_eq]

theorem mcfg_value (l : BitVec 16) (b : Bool) : (l.setWidth 64 <<< 32) ||| (BitVec.ofBool b).setWidth 64 =
    BitVec.ofNat 64 (l.toNat * 2 ^ 32 + if b then 1 else 0) := by
  have hl : l.toNat < 2 ^ 16 := l.isLt
  have hb : (if b then 1 else 0) < 2 ^ 32 := by split <;> decide
  refine BitVec.eq_of_toNat_eq ?_
  have hlow : ((BitVec.ofBool b).setWidth 64).toNat = if b then 1 else 0 := by cases b <;> rfl
  have hhigh : (l.setWidth 64 <<< 32).toNat = l.toNat <<< 32 := by
    rw [BitVec.toNat_shiftLeft, BitVec.toNat_setWidth, Nat.mod_eq_of_lt (a := l.toNat) (by omega),
      Nat.mod_eq_of_lt (by rw [Nat.shiftLeft_eq]; omega)]
  rw [BitVec.toNat_or, hlow, hhigh, ← Nat.shiftLeft_add_eq_or_of_lt hb, BitVec.toNat_ofNat, Nat.mod_eq_of_lt (by omega)]
  rw [Nat.shiftLeft_eq]

theorem mcfg_fields (v : W64) : (v.extractLsb' 32 16).toNat + (if v.getLsbD 0 then 2 ^ 16 else 0) =
    v.toNat / 2 ^ 32 % 2 ^ 16 + 2 ^ 16 * (v.toNat % 2) := by
  have hbit : v.getLsbD 0 = decide (v.toNat % 2 = 1) := by rw [BitVec.getLsbD, Nat.testBit_zero]
  rw [BitVec.extractLsb'_toNat, Nat.shiftRight_eq_div_pow, hbit]
  obtain h | h := Nat.mod_two_eq_zero_or_one v.toNat
  · simp [h]
  · simp [h]

/-! ## Instructions of the accumulators -/

theorem spoilZ_quiet {t : Tile} {z : BitVec 3} (h : t.zBusy z = false) : t.spoilZ z = t := by rw [Tile.spoilZ, h]; rfl

theorem raiseIf_not {s : State} {b : Bool} {c : Cause} (h : b = true) : raiseIf (!b) s c = .ok () := by rw [h]; rfl

section Acc
variable {s : State} {g : BitVec 8} (hc : s.cur = .stream g .x) {z : BitVec 3}
include hc

/-- A cause that an instruction of the X-stream takes. -/
theorem issueX_trap {b : BitVec 8 → Stream → State → Res State} {s' : State} {c : Raise} (hb : b g .x (opened s g .x) = .error (.trap s' c)) :
    issue .x 1 b s = .next (trapped s' g .x c) := by
  rw [issue_x hc rfl]
  exact congrArg (fun r : Res State => Host.Outcome.next (settle g .x 1 (r.map fun s => (s, none)))) hb

omit hc in
/-- The accumulators' unit, when it is free, takes the instruction. -/
theorem useAcc {u : State} (n : Nat) (h : (u.tile g).units.acc ≤ (u.tile g).xcyc) : u.useUnit g .x .acc n =
    .ok (u.setTile g { u.tile g with units := { (u.tile g).units with acc := (u.tile g).xcyc + n } }) :=
  (useUnit_x ..).trans (if_neg (Nat.not_lt.mpr h))

theorem accumulator_lowClass (row : R5) (k : BitVec 4) (d : V6) (hcl : ((opened s g .x).tile g).sclass < 2) :
    ∀ i ∈ [Instr.zclr z k, .zrd d z row, .zwr d z row k, .zcvt z k], exec i s = .next (trapped (opened s g .x) g .x { code := 0x74 }) := by
  have hlow : needClass (opened s g .x) g 2 = .error (.trap (opened s g .x) { code := 0x74 }) := by
    simp only [needClass, raiseIf, decide_eq_true hcl, if_true]
    rfl
  simp only [List.forall_mem_cons, List.not_mem_nil, false_imp_iff, implies_true, and_true]
  refine ⟨?zclr, ?zrd, ?zwr, ?zcvt⟩
  case zclr => show execZclr z k s = _; exact issueX_trap hc (by rw [hlow]; rfl)
  case zrd => show execZrd d z row s = _; exact issueX_trap hc (by rw [hlow]; rfl)
  case zwr => show execZwr d z row k s = _; exact issueX_trap hc (by rw [hlow]; rfl)
  case zcvt => show execZcvt z k s = _; exact issueX_trap hc (by rw [hlow]; rfl)

theorem mcfgwr_ready {r : R5} (hp : ∀ p ∈ ((opened s g .x).tile g).pend, p.dst ≠ .x r) (hr : (scalar ((opened s g .x).tile g) .x r).2 = false) :
    let u := opened s g .x
    let v := (scalar (u.tile g) .x r).1.toNat
    exec (.mcfgwr r) s = .next (finished (u.modTile g fun t => t.pendAt .mcfg 0 (v / 2 ^ 32 % 2 ^ 16 + 2 ^ 16 * (v % 2)) 0 0 1) g .x 1) := by
  intro u v
  show execMcfgwr r s = _
  refine issueX_ok hc ?_
  have hread : (opened s g .x).rdS g .x r = (scalar ((opened s g .x).tile g) .x r, opened s g .x) := rdS_eq_scalar fun _ => hp
  simp only [hread, hr, mcfg_fields]
  rfl

theorem mcfgrd_ready {r : R5} (h : ((opened s g .x).tile g).dependants (.x r) = []) :
    let u := opened s g .x
    let t0 := u.tile g
    exec (.mcfgrd r) s = .next (finished (u.modTile g
      (wrote .x 1 r (BitVec.ofNat 64 (t0.leak.toNat * 2 ^ 32 + if t0.adty then 1 else 0)) false)) g .x 1) := by
  intro u t0
  show execMcfgrd r s = _
  rw [← finished_wrS]
  refine issueX_ok hc ?_
  simp only [Reading.freeS (Progress.refl (opened s g .x) g) h, mcfg_value, Bind.bind, Except.bind]
  rfl

variable (hcl : 2 ≤ ((opened s g .x).tile g).sclass)
include hcl

theorem zclr_ready (k : BitVec 4) (hb : ((opened s g .x).tile g).zBusy z = false)
    (h : ((opened s g .x).tile g).units.acc ≤ ((opened s g .x).tile g).xcyc) :
    let u := opened s g .x
    let x := vget (u.tile g).z ZTile.reset z
    exec (.zclr z k) s = .next (finished (u.modTile g fun t =>
      ({ t with units := { t.units with acc := t.xcyc + 1 }, z := vset t.z z { x with tag := tagOf k, valid := true } }).pendAt
        (.z z) (2 ^ 65536 - 1) 0 (2 ^ 1024 - 1) 0 4) g .x 1) := by
  intro u x
  show execZclr z k s = _
  refine issueX_ok hc ?_
  simp only [needClass_ok hcl, useAcc 1 h, Bind.bind, Except.bind, State.setTile_modTile]
  rw [spoilZ_quiet]
  · rfl
  · exact hb

omit hc hcl in
/-- A row of an accumulator tile on which nothing works, as it reads while an instruction reads. -/
theorem Reading.rdZRow {u s : State} {g : BitVec 8} (h : Reading u s g) {z : BitVec 3} (hq : ZQuiet (u.tile g) z) (row : R5) :
    let x := vget (u.tile g).z ZTile.reset z
    s.rdZRow g z row = ((x.data.extractLsb' (2048 * row.toNat) 2048, rowPoison (x.pois.toNat / 2 ^ (32 * row.toNat))), s) := by
  obtain ⟨hb, hp⟩ := hq
  have hz : (s.tile g).ztile z = vget (u.tile g).z ZTile.reset z := by obtain ⟨_, _, e⟩ := h.tile; rw [e]; rfl
  have hb' : (s.tile g).zBusy z = false := by obtain ⟨_, _, e⟩ := h.tile; rw [e]; exact hb
  intro x
  unfold State.rdZRow
  simp only [Reading.openBits h, openBits_closed hp, hz, hb', Bool.false_eq_true, if_false, Nat.zero_div, Nat.zero_mod, State.readOpen, if_true,
    Nat.and_zero, Nat.sub_zero, rowPoison_eq]
  rfl

theorem zrd_ready {d : V6} (row : R5) (hq : ZQuiet ((opened s g .x).tile g) z)
    (hv : (vget ((opened s g .x).tile g).z ZTile.reset z).valid = true) (h : Prepared (opened s g .x) g [] [d] [.acc]) :
    let u := opened s g .x
    let x := vget (u.tile g).z ZTile.reset z
    ∃ t, exec (.zrd d z row) s = .next t ∧ VEffect u t g
      [(d, { mask := 2 ^ 2048 - 1, val := x.data.toNat / 2 ^ (2048 * row.toNat) % 2 ^ 2048, pmask := 2 ^ 64 - 1
             pval := (rowPoison (x.pois.toNat / 2 ^ (32 * row.toNat))).toNat }, 4)] 0 0 := by
  intro u x
  obtain ⟨s1, hu, h1⟩ := h.oneUnit 1
  obtain ⟨s', he, hv'⟩ := Reading.putV h1 h.slots
    (VW.whole (x.data.extractLsb' (2048 * row.toNat) 2048) (rowPoison (x.pois.toNat / 2 ^ (32 * row.toNat)))) 0 4
  have hval : (x.data.extractLsb' (2048 * row.toNat) 2048).toNat = x.data.toNat / 2 ^ (2048 * row.toNat) % 2 ^ 2048 := by
    rw [BitVec.extractLsb'_toNat, Nat.shiftRight_eq_div_pow]
  rw [VW.whole, hval] at hv'
  refine ⟨_, ?_, hv'⟩
  show execZrd d z row s = _
  refine issueX_ok hc ?_
  have hvalid : raiseIf (!((opened s g .x).tile g |>.ztile z).valid) (opened s g .x) 0x5D = .ok () := raiseIf_not hv
  have huse : (opened s g .x).useUnit g .x .acc 1 = .ok s1 := hu
  simp only [needClass_ok hcl, hvalid, huse, h.openDst h1 false, Reading.rdZRow h1 hq row, Bind.bind, Except.bind]
  exact he

theorem zwr_ready {d : V6} (row : R5) (k : BitVec 4) (hq : ZQuiet ((opened s g .x).tile g) z) (h : Prepared (opened s g .x) g [d] [] [.acc]) :
    let u := opened s g .x
    let x := vget (u.tile g).z ZTile.reset z
    ∃ t v, exec (.zwr d z row k) s = .next t ∧ ReadsV (u.tile g) d v ∧
      let c (j : Nat) : W64 := contain (tagOf k) (v.1.extractLsb' (64 * j) 64)
      let val := (List.range 32).foldl (fun n j => n + (c j).toNat * 2 ^ (64 * j)) 0
      let pv := (List.range 32).foldl (fun n j => if v.2.getLsbD (2 * j) || v.2.getLsbD (2 * j + 1) then n + 2 ^ j else n) 0
      VEffect (u.modTile g fun t => ({ t with z := vset t.z z { x with tag := tagOf k } }).pendAt (.z z)
        ((2 ^ 2048 - 1) * 2 ^ (2048 * row.toNat)) (val * 2 ^ (2048 * row.toNat))
        ((2 ^ 32 - 1) * 2 ^ (32 * row.toNat)) (pv * 2 ^ (32 * row.toNat)) 4) t g [] 0 0 := by
  intro u x
  obtain ⟨s1, hu, h1⟩ := h.oneUnit 1
  obtain ⟨hd, ed⟩ := Reading.rdV h1 d
  obtain ⟨v, s2, hrd⟩ : ∃ v s2, s1.rdV g d = (v, s2) := ⟨_, _, rfl⟩
  rw [hrd] at hd ed
  have hval : ((List.range 32).map fun j => ((contain (zTagOf k) (BitVec.ofNat 64 (elem 64 v.1 j))).toNat, elemPois 64 v.2 j)).foldr
      (fun e n => e.1 + 2 ^ 64 * n) 0 =
      (List.range 32).foldl (fun n j => n + (contain (tagOf k) (v.1.extractLsb' (64 * j) 64)).toNat * 2 ^ (64 * j)) 0 := by
    simp only [List.foldr_map, ofNat_elem]
    exact foldr_digits 64 _ 32
  have hpv : ((List.range 32).map fun j => ((contain (zTagOf k) (BitVec.ofNat 64 (elem 64 v.1 j))).toNat, elemPois 64 v.2 j)).foldr
      (fun e n => (if e.2 then 1 else 0) + 2 * n) 0 =
      (List.range 32).foldl (fun n j => if v.2.getLsbD (2 * j) || v.2.getLsbD (2 * j + 1) then n + 2 ^ j else n) 0 := by
    rw [List.foldr_map]
    exact foldr_bits (elemPois 64 v.2) 32
  have hz : (s2.tile g).ztile z = x := by obtain ⟨_, _, e⟩ := hd.tile; rw [e]; rfl
  have hb : (s2.tile g).zBusy z = false := by obtain ⟨_, _, e⟩ := hd.tile; rw [e]; exact hq.1
  refine ⟨_, v, ?_, ed, Progress.finish_quiet (hd.modTile (fun _ _ _ => rfl) fun _ => rfl)⟩
  show execZwr d z row k s = _
  refine issueX_ok hc ?_
  have huse : (opened s g .x).useUnit g .x .acc 1 = .ok s1 := hu
  simp only [needClass_ok hcl, huse, h.needV h1 (rs := [d]) (by simp), hrd, hval, hpv, Bind.bind, Except.bind]
  refine congrArg Except.ok (modTile_congr ?_)
  rw [spoilZ_quiet (t := (s2.tile g).setZtile z _) hb, hz]
  rfl

/-- An element of a tile converted to another tag, its code and flags (R425). -/
def zcvtElem (x : ZTile) (k : ZTag) (rm : BitVec 2) (z : Bool) (i : Nat) : Nat × BitVec 6 :=
  let c := (x.data.extractLsb' (64 * i) 64).toNat
  if k = x.tag then (c, 0) else zConvert x.tag k rm z c

omit hc hcl in
/-- The elements that the model computes: those of `zcvtElem`, without the flags of poisoned ones. -/
theorem zcvtElem_model (x : ZTile) (k : ZTag) (rm : BitVec 2) (z : Bool) (i : Nat) :
    (if k = x.tag then (x.data.toNat / 2 ^ (64 * i) % 2 ^ 64, (0 : BitVec 6))
      else ((zConvert x.tag k rm z (x.data.toNat / 2 ^ (64 * i) % 2 ^ 64)).1,
        if bitOf x.pois.toNat i then 0 else (zConvert x.tag k rm z (x.data.toNat / 2 ^ (64 * i) % 2 ^ 64)).2)) =
    ((zcvtElem x k rm z i).1, if x.pois.getLsbD i then 0 else (zcvtElem x k rm z i).2) := by
  have hc : (x.data.extractLsb' (64 * i) 64).toNat = x.data.toNat / 2 ^ (64 * i) % 2 ^ 64 := by
    rw [BitVec.extractLsb'_toNat, Nat.shiftRight_eq_div_pow]
  unfold zcvtElem
  rw [hc, bitOf_eq_testBit]
  by_cases hk : k = x.tag
  · simp only [hk, if_true, ite_self]
  · simp only [hk, if_false]
    rfl

theorem zcvt_ready (k : BitVec 4) (hq : ZQuiet ((opened s g .x).tile g) z) (hv : (vget ((opened s g .x).tile g).z ZTile.reset z).valid = true)
    (h : ((opened s g .x).tile g).units.acc ≤ ((opened s g .x).tile g).xcyc) :
    let u := opened s g .x
    let t0 := u.tile g
    let x := vget t0.z ZTile.reset z
    let r := zcvtElem x (tagOf k) (roundingMode t0) (ftz t0)
    let val := (List.range 1024).foldl (fun n i => n + (r i).1 * 2 ^ (64 * i)) 0
    let fl := (List.range 1024).foldl (fun f i => if x.pois.getLsbD i then f else f ||| (r i).2) 0
    exec (.zcvt z k) s = .next (finished (u.modTile g fun t =>
      (({ t with units := { t.units with acc := t.xcyc + 32 }, z := vset t.z z { x with tag := tagOf k } }).pendAt
        (.z z) (2 ^ 65536 - 1) val (2 ^ 1024 - 1) x.pois.toNat 35).pendFlags fl 35) g .x 1) := by
  obtain ⟨hb, hp⟩ := hq
  intro u t0 x r val fl
  show execZcvt z k s = _
  refine issueX_ok hc ?_
  have hvalid : raiseIf (!(((opened s g .x).tile g).ztile z).valid) (opened s g .x) 0x5D = .ok () := raiseIf_not hv
  obtain ⟨w, hw⟩ : ∃ w, w = (opened s g .x).setTile g { t0 with units := { t0.units with acc := t0.xcyc + 32 } } := ⟨_, rfl⟩
  have huse : (opened s g .x).useUnit g .x .acc 32 = .ok w := hw ▸ useAcc 32 h
  have htile : w.tile g = { t0 with units := { t0.units with acc := t0.xcyc + 32 } } := by rw [hw, State.tile_setTile]
  have hbusy : (w.tile g).zBusy z = false := by rw [htile]; exact hb
  have hopen : (w.tile g).openBits (.z z) = (0, 0) := by rw [htile]; exact openBits_closed hp
  have hctl : w.rdFctl g = (roundingMode t0, ftz t0) := by rw [State.rdFctl, htile]; rfl
  let e (i : Nat) : Nat × BitVec 6 := zcvtElem (((opened s g .x).tile g).ztile z) (zTagOf k) (roundingMode t0) (ftz t0) i
  have hval : ((List.range 1024).map fun i => ((e i).1, if (((opened s g .x).tile g).ztile z).pois.getLsbD i then (0 : BitVec 6)
      else (e i).2)).foldr (fun e n => e.1 + 2 ^ 64 * n) 0 = val := by
    rw [List.foldr_map]
    exact foldr_digits 64 (fun i => (e i).1) 1024
  have hfl : ((List.range 1024).map fun i => ((e i).1, if (((opened s g .x).tile g).ztile z).pois.getLsbD i then (0 : BitVec 6)
      else (e i).2)).foldl (fun a e => a ||| e.2) 0 = fl := by
    rw [List.foldl_map]
    refine List.foldl_ext _ _ _ fun f i _ => ?_
    split
    · next h => exact BitVec.or_zero.trans (if_pos h).symm
    · next h => exact (if_neg h).symm
  simp only [needClass_ok hcl, hvalid, huse, hbusy, hopen, hctl, Bool.false_eq_true, if_false, State.readOpen, if_true, Nat.and_zero, Nat.sub_zero,
    zcvtElem_model, Bind.bind, Except.bind]
  dsimp only [e] at hval hfl
  rw [hval, hfl, hw, State.setTile_modTile, spoilZ_quiet]
  · rfl
  · exact hb

theorem accumulator_invalid (row : R5) (k : BitVec 4) (d : V6) (hv : (vget ((opened s g .x).tile g).z ZTile.reset z).valid = false) :
    ∀ i ∈ [Instr.zrd d z row, .zcvt z k], exec i s = .next (trapped (opened s g .x) g .x { code := 0x5D }) := by
  have hinvalid : raiseIf (!(((opened s g .x).tile g).ztile z).valid) (opened s g .x) 0x5D = .error (.trap (opened s g .x) { code := 0x5D }) := by
    rw [Tile.ztile, hv]
    rfl
  simp only [List.forall_mem_cons, List.not_mem_nil, false_imp_iff, implies_true, and_true]
  refine ⟨?zrd, ?zcvt⟩
  case zrd => show execZrd d z row s = _; exact issueX_trap hc (by rw [needClass_ok hcl, hinvalid]; rfl)
  case zcvt => show execZcvt z k s = _; exact issueX_trap hc (by rw [needClass_ok hcl]; dsimp only; rw [hinvalid]; rfl)

end Acc

/-- Settles O24: an accumulator instruction needs class 2 (R404). -/
theorem accumulatorInstructions : Obligations.AccumulatorInstructions := by
  unfold Obligations.AccumulatorInstructions
  intro s g z k row r d u t0 x hc
  refine ⟨fun hcl hq => ⟨fun ha => ?zclr, fun hv hn => ?zrd, fun hn => ?zwr, fun hv ha => ?zcvt⟩, fun hcl => accumulator_lowClass hc row k d hcl,
    fun hcl hv => accumulator_invalid hc hcl row k d hv, mcfgwr_ready hc, mcfgrd_ready hc⟩
  case zclr => exact zclr_ready hc hcl k hq.1 ha
  case zrd => exact zrd_ready hc hcl row hq hv (prepared_of_namesReady hn)
  case zcvt => exact zcvt_ready hc hcl k hq hv ha
  case zwr =>
    obtain ⟨t, v, ht, hr, hv⟩ := zwr_ready hc hcl (z := z) row k hq (prepared_of_namesReady hn)
    refine ⟨t, v, ht, hr, ?_⟩
    intro e c val pv
    have hcontain (j : Nat) : contain (tagOf k) (v.1.extractLsb' (64 * j) 64) = c j := contain_eq ..
    simp only [hcontain] at hv
    exact hv

end Sys2Proof.Machine
end

section
set_option Elab.async false
/-! PROOFS. Recipe instructions (chapter 18, R463 to R466). -/
namespace Sys2Proof.Machine
open Sys2Proof.Says

/-! ## Words of a recipe's body (R463, R464) -/

/-- A decoding that gives no micro-op. -/
def NotMicro (r : Dec) : Prop := ∀ i, r = .ok i → microOf i = none

theorem notMicro_error (c : BitVec 7) : NotMicro (.error c) := fun _ h => by simp only [reduceCtorEq] at h
theorem notMicro_undef : NotMicro undef := notMicro_error _

theorem notMicro_build {i : Instr} (z w : Bool) (h : microOf i = none) : NotMicro (build z w i) := by
  unfold build
  split_ifs
  · exact notMicro_error _
  · exact notMicro_error _
  · split
    · exact notMicro_error _
    · intro j hj
      rw [← Except.ok.inj hj]
      exact h

theorem decodeEngine_notMicro (w w1 : W32) : NotMicro (decodeEngine w w1) := by
  unfold decodeEngine
  dsimp only
  repeat' split
  all_goals try exact notMicro_undef
  all_goals exact notMicro_build _ _ rfl

/-- The privileged major holds no micro-op. -/
theorem decodeStream_privileged (w w1 : W32) (h : fld w 26 6 = 0x2F) : NotMicro (decodeStream w w1) := by
  have hd : decodeStream w w1 = decodeSystem w := by
    unfold decodeStream
    rw [h]
    rfl
  rw [hd, decodeSystem, h]
  dsimp only
  repeat' split
  all_goals try exact notMicro_undef
  all_goals exact notMicro_build _ _ rfl

/-- The word after a micro-op takes no part in its decoding. -/
theorem decodeStream_next {w w1 : W32} {i : Instr} (h : decodeStream w w1 = .ok i) (hm : (microOf i).isSome = true) (w2 : W32) :
    decodeStream w w2 = .ok i := by
  have step {p : Prop} [Decidable p] {a x y z : Dec} (h : x = y ∨ x = z) :
      (if p then a else x) = (if p then a else y) ∨ (if p then a else x) = z := by
    split_ifs
    · exact .inl rfl
    · exact h
  have hcases : decodeStream w w1 = decodeStream w w2 ∨ decodeStream w w1 = decodeEngine w w1 := by
    unfold decodeStream
    dsimp only
    iterate 10 refine step ?_
    exact .inr rfl
  obtain hsame | hengine := hcases
  · exact hsame.symm.trans h
  · rw [decodeEngine_notMicro w w1 i (hengine.symm.trans h)] at hm
    exact absurd hm Bool.false_ne_true

/-- A micro-op issues in the X-stream, whatever word follows it and whoever runs (R332). -/
theorem decodeIssue_micro {w : W32} (hm : (micro w).isSome = true) (hok : (decodeIssue w 0 .x true).isOk = true) (next : W32) (fw : Bool) :
    ∃ i, micro w = some i ∧ microInstr w = some i ∧ (microOf i).isSome = true ∧ decodeIssue w next .x fw = .ok i := by
  obtain ⟨i, hi, himicro⟩ : ∃ i, decodeStream w 0 = .ok i ∧ (microOf i).isSome = true := by
    unfold micro at hm
    split at hm
    · next i hi =>
      split at hm
      · next h => exact ⟨i, hi, h⟩
      · exact absurd hm Bool.false_ne_true
    · exact absurd hm Bool.false_ne_true
  have hpriv : fld w 26 6 ≠ 0x2F := fun h => by
    rw [decodeStream_privileged w 0 h i hi] at himicro
    exact absurd himicro Bool.false_ne_true
  have hcause : streamCause w .x fw = streamCause w .x true := by
    simp only [streamCause, beq_false_of_ne hpriv, Bool.false_and]
  have hnone : streamCause w .x true = none := by
    rw [decodeIssue, hi] at hok
    dsimp only at hok
    split at hok
    · exact absurd hok Bool.false_ne_true
    · next h => exact h
  refine ⟨i, by rw [micro, hi]; exact if_pos himicro, by rw [microInstr, hi], himicro, ?_⟩
  rw [decodeIssue, decodeStream_next hi himicro next]
  dsimp only
  rw [hcause, hnone]

/-- A body of micro-ops raises no cause. -/
theorem bodyCause_none (fw : Bool) (after : W32) {ws : List W32}
    (h : ∀ w ∈ ws, (micro w).isSome = true ∧ (decodeIssue w 0 .x true).isOk = true) : bodyCause fw after ws = none := by
  induction ws with
  | nil => rfl
  | cons w r ih =>
    obtain ⟨hm, hok⟩ := h w List.mem_cons_self
    obtain ⟨i, -, -, himicro, hi⟩ := decodeIssue_micro hm hok (r.headD after) fw
    rw [bodyCause, hi]
    dsimp only
    rw [Option.isNone_eq_false_iff.mpr himicro]
    exact ih fun v hv => h v (List.mem_cons_of_mem _ hv)

/-- A body whose last micro-op writes a vector. -/
theorem lastIsMask_false {ws : List W32} {w : W32} (hw : ws.getLast? = some w)
    (h : (micro w).isSome = true ∧ (decodeIssue w 0 .x true).isOk = true) (hv : ∀ i, micro w = some i → writesVector i = true) :
    lastIsMask ws = false := by
  obtain ⟨i, hi, hinstr, himicro, -⟩ := decodeIssue_micro h.1 h.2 0 true
  have hvec := hv i hi
  rw [lastIsMask, hw, Option.bind_some, hinstr]
  unfold writesVector at hvec
  dsimp only
  cases hmicro : microOf i with
  | none => rfl
  | some p =>
    obtain ⟨l, ss⟩ := p
    rw [hmicro] at hvec
    cases l with
    | v r => rfl
    | k r => exact absurd hvec Bool.false_ne_true

/-! ## Slots (R463, R465) -/

theorem slotUser_unused {t : Tile} {r : R5} (h : ∀ v : V6, (t.vname v).tag ≠ some r) : t.slotUser r = none :=
  List.find?_eq_none.mpr fun v _ => by simpa using h v

theorem slotUser_only {t : Tile} {r : R5} {v : V6} (hv : (t.vname v).tag = some r) (h : ∀ w : V6, (t.vname w).tag = some r → w = v) :
    t.slotUser r = some v := by
  cases hu : t.slotUser r with
  | none =>
    have hmem : v ∈ (List.range 64).map (BitVec.ofNat 6) := List.mem_map.mpr ⟨v.toNat, List.mem_range.mpr v.isLt, BitVec.ofNat_toNat ..⟩
    have hno := List.find?_eq_none.mp hu v hmem
    rw [hv] at hno
    simp at hno
  | some w =>
    have hw := List.find?_some hu
    rw [h w (by simpa using hw)]

/-! ## The instructions -/

section Recipes
variable {s : State} {g : BitVec 8} (hc : s.cur = .stream g .x)
include hc

/-- An instruction of some words of the X-stream whose body is done. -/
theorem issueX_words_ok {n : Nat} {b : BitVec 8 → Stream → State → Res State} {s' : State} (hb : b g .x (opened s g .x) = .ok s') :
    issue .x n b s = .next (finished s' g .x n) := by
  rw [issue_x hc rfl, ← settle_done]
  exact congrArg (fun r : Res State => Host.Outcome.next (settle g .x n (r.map fun s => (s, none)))) hb

theorem rcpdef_ready {n : BitVec 2} {r : R5} :
    let u := opened s g .x
    let t := u.tile g
    let ws := (List.range (n.toNat + 1)).map fun k => bodyWord u g (k + 1)
    (∀ k ≤ n.toNat, t.locked .x (t.xpc + BitVec.ofNat 14 (k + 1)) = false) →
    (∀ w ∈ ws, (micro w).isSome = true ∧ (decodeIssue w 0 .x true).isOk = true) →
    (∀ i, micro (bodyWord u g (n.toNat + 1)) = some i → writesVector i = true) → (∀ v : V6, (t.vname v).tag ≠ some r) →
    exec (.rcpdef n r) s = .next (finished (u.modTile g fun t => { t with rcp := vset t.rcp r { words := ws, rm := 0, ftz := false } }) g .x
      (n.toNat + 2)) := by
  intro u t ws hlock hmicro hlast hunused
  show execRcpdef n r s = _
  refine issueX_words_ok hc ?_
  have hwords : u.bodyWords g (n.toNat + 1) = ws := rfl
  have hfree : ((List.range (n.toNat + 1)).any fun i => t.locked .x (t.xpc + BitVec.ofNat 14 (i + 1))) = false :=
    List.any_eq_false.mpr fun k hk => by
      rw [hlock k (Nat.le_of_lt_succ (List.mem_range.mp hk))]
      exact Bool.false_ne_true
  have hend : ws.getLast? = some (bodyWord u g (n.toNat + 1)) := by
    rw [List.getLast?_map, List.getLast?_range, if_neg (Nat.succ_ne_zero _)]
    rfl
  have hmask : lastIsMask ws = false :=
    lastIsMask_false hend (hmicro _ (List.mem_map.mpr ⟨n.toNat, List.mem_range.mpr (Nat.lt_succ_self _), rfl⟩)) hlast
  have hcause := bodyCause_none (t.ctx == some 0) ((u.bodyWords g (n.toNat + 1 + 1)).getD (n.toNat + 1) 0) hmicro
  have hslot : ((t.slotUser r).isSome) = false := by rw [slotUser_unused hunused]; rfl
  refine (if_neg (Bool.eq_false_iff.mp hfree)).trans ?_
  dsimp only
  rw [hwords, hcause]
  dsimp only
  rw [hmask, hslot]
  rfl

theorem rcpset_ready {d : V6} {r : R5} :
    let u := opened s g .x
    let t := u.tile g
    let rc := vget t.rcp Recipe.reset r
    rc.words ≠ [] → (∀ v : V6, (t.vname v).tag ≠ some r) → t.av.getLsbD d.toNat = false → t.dependants (.v d) = [] →
    (∀ x ∈ rc.srcs, t.srcLegal d x = true) → (∀ m ∈ rc.micros, microSealed u g m.1 = true) →
    exec (.rcpset d r) s = .next (finished (u.modTile g fun t =>
      let v := t.vname d
      { t with rcp := vset t.rcp r { rc with rm := roundingMode t, ftz := ftz t }
               v := vset t.v d { v with tag := some r, st := if v.st = .live then .live else .dropped } }) g .x 1) := by
  intro u t rc hwords hunused hanchor hdep hlegal hsealed
  show execRcpset d r s = _
  refine issueX_ok hc ?_
  have hall : ((t.slot r).srcs.all (t.srcLegal d) && (t.slot r).micros.all fun m => microSealed u g m.1) = true :=
    Bool.and_eq_true_iff.mpr ⟨List.all_eq_true.mpr hlegal, List.all_eq_true.mpr hsealed⟩
  have hfree : ((t.slot r).words.isEmpty || (t.slotUser r).isSome || t.av.getLsbD d.toNat) = false := by
    rw [slotUser_unused hunused, hanchor]
    exact Bool.or_eq_false_iff.mpr ⟨Bool.or_eq_false_iff.mpr ⟨Bool.eq_false_iff.mpr fun h => hwords (List.isEmpty_iff.mp h), rfl⟩, rfl⟩
  dsimp only
  rw [hall, hfree, freeReg_none hdep]
  rfl

theorem rcpdrop_tagged {d : V6} (h : (((opened s g .x).tile g).vname d).tag.isSome = true) :
    let u := opened s g .x
    let t := u.tile g
    exec (.rcpdrop d) s = .next (finished
      (if (t.vname d).st = .live then u.modTile g fun t => { t with v := vset t.v d { t.vname d with st := .dropped } } else u) g .x 1) := by
  intro u t
  show execRcpdrop d s = _
  refine issueX_ok hc ?_
  have htag : raiseIf ((((opened s g .x).tile g).vname d).tag.isNone) (opened s g .x) 0x52 = .ok () := by
    rw [Option.isNone_eq_false_iff.mpr h]
    rfl
  simp only [htag, Bind.bind, Except.bind]
  rfl

theorem rcpdrop_untagged {d : V6} (h : (((opened s g .x).tile g).vname d).tag = none) :
    exec (.rcpdrop d) s = .next (trapped (opened s g .x) g .x { code := 0x52 }) := by
  show execRcpdrop d s = _
  refine issueX_trap hc ?_
  dsimp only
  rw [h]
  rfl

theorem rcpclr_unused {r : R5} (h : ∀ v : V6, (((opened s g .x).tile g).vname v).tag ≠ some r) :
    exec (.rcpclr r) s = .next (finished ((opened s g .x).modTile g fun t =>
      { t with rcp := vset t.rcp r { words := [], rm := 0, ftz := false } }) g .x 1) := by
  show execRcpclr r s = _
  refine issueX_ok hc ?_
  rw [slotUser_unused h]
  rfl

theorem rcpclr_live {r : R5} {v : V6} (hv : (((opened s g .x).tile g).vname v).tag = some r)
    (honly : ∀ w : V6, (((opened s g .x).tile g).vname w).tag = some r → w = v) (hlive : (((opened s g .x).tile g).vname v).st = .live)
    (hdep : ((opened s g .x).tile g).dependants (.v v) = []) :
    let u := opened s g .x
    let t := u.tile g
    exec (.rcpclr r) s = .next (finished (u.modTile g fun t =>
      { t with v := vset t.v v { t.vname v with tag := none }, rcp := vset t.rcp r { words := [], rm := 0, ftz := false } }) g .x 1) := by
  intro u t
  show execRcpclr r s = _
  refine issueX_ok hc ?_
  have hkept : ((opened s g .x).tile g |>.vname v).st ≠ .dropped := by
    rw [hlive]
    decide
  rw [slotUser_only hv honly]
  simp only [freeReg_none hdep, materialise, replay_kept hkept, Bind.bind, Except.bind]
  rw [State.modTile_modTile]
  rfl

theorem rcpanch_marked {d : V6} {c : BitVec 2} (h : (c == 1 && (((opened s g .x).tile g).vname d).tag.isSome) = false) :
    exec (.rcpanch d c) s = .next (finished ((opened s g .x).modTile g fun t => t.anchor d c true) g .x 1) := by
  show execRcpanch d c s = _
  refine issueX_ok hc ?_
  rw [h]
  rfl

theorem rcpanch_tagged {d : V6} (h : (((opened s g .x).tile g).vname d).tag.isSome = true) :
    exec (.rcpanch d 1) s = .next (trapped (opened s g .x) g .x { code := 0x52 }) := by
  show execRcpanch d 1 s = _
  refine issueX_trap hc ?_
  rw [h]
  rfl

theorem rcpunanch_free {d : V6} {c : BitVec 2} (h : ((opened s g .x).tile g).dependants (anchorSrc d c) = []) :
    exec (.rcpunanch d c) s = .next (finished ((opened s g .x).modTile g fun t => t.anchor d c false) g .x 1) := by
  show execRcpunanch d c s = _
  refine issueX_ok hc ?_
  rw [freeReg_none h]
  rfl

end Recipes

/-- A source that R305 allows. -/
theorem srcLegal_of_allowed {t : Tile} {d : V6} {x : Src} (h : match x with
    | .x a => t.ax.getLsbD a.toNat = true
    | .k a => t.ak.getLsbD a.toNat = true
    | .v a => t.av.getLsbD a.toNat = true ∨ (a ≠ d ∧ (t.vname a).tag.isSome = true ∧ t.taggedSrcs a = [])) : t.srcLegal d x = true := by
  cases x with
  | x a => exact h
  | k a => exact h
  | v a =>
    refine Bool.or_eq_true_iff.mpr (h.imp_right fun ⟨hne, htag, hsrcs⟩ => ?_)
    simp only [bne_iff_ne, Bool.and_eq_true, htag, hsrcs, List.isEmpty_nil, and_true]
    exact hne

/-- The register that an anchor form names, and the tile with its mark. -/
theorem anchorSrc_eq (d : V6) (c : BitVec 2) : anchorSrc d c = if c = 0 then .x (d.setWidth 5) else if c = 1 then .v d else .k (d.setWidth 4) := by
  obtain rfl | rfl | rfl | rfl := twoBits_cases c
  all_goals rfl

theorem anchor_eq (t : Tile) (d : V6) (c : BitVec 2) (b : Bool) : t.anchor d c b =
    if c = 0 then { t with ax := setBit t.ax d.toNat b }
    else if c = 1 then { t with av := setBit t.av d.toNat b }
    else { t with ak := setBit t.ak d.toNat b } := by
  obtain rfl | rfl | rfl | rfl := twoBits_cases c
  all_goals rfl

/-- Settles O28. -/
theorem recipeInstructions : Obligations.RecipeInstructions := by
  unfold Obligations.RecipeInstructions
  intro s g n c r d u t unused hc
  refine ⟨rcpdef_ready hc, fun hw hu ha hd hx hm => ?set, rcpdrop_tagged hc, rcpdrop_untagged hc, rcpclr_unused hc,
    fun v hv hone hl hd => rcpclr_live hc hv hone hl hd, rcpanch_marked hc rfl, rcpanch_marked hc rfl, fun h => rcpanch_marked hc ?untagged,
    rcpanch_tagged hc, fun hd => ?unanchored⟩
  case set => exact rcpset_ready hc hw hu ha hd (fun x hmem => srcLegal_of_allowed (hx x hmem)) hm
  case untagged =>
    show (true && (t.vname d).tag.isSome) = false
    rw [h]
    rfl
  case unanchored =>
    rw [← anchorSrc_eq] at hd
    simp only [← anchor_eq]
    exact rcpunanch_free hc hd

end Sys2Proof.Machine
end

section
set_option Elab.async false
/-! PROOFS. Status registers (chapter 18, R453 to R458). -/
namespace Sys2Proof.Machine
open Sys2Proof.Says

/-! ## Registers and their numbers (R453) -/

/-- The register of a number, in the order of the statement's table. -/
theorem csrOf_eq (st : Stream) (c : BitVec 10) : csrOf st c =
    (let n := c.toNat
     if n = 0x000 then (if st = .x then some .fctl else none)
     else if n = 0x001 then (if st = .x then some .fstat else none)
     else if n = 0x008 then some .tvec
     else if n = 0x009 then some .tepc
     else if n = 0x00A then some .tstat
     else if 0x010 ≤ n ∧ n ≤ 0x017 then some (.trec (n - 0x010))
     else if n = 0x020 then some .cycle
     else if n = 0x021 then some .devtime
     else if n = 0x022 then some .tickcnt
     else if n = 0x023 then some .tileinfo
     else if 0x030 ≤ n ∧ n ≤ 0x037 then some (.pmc (BitVec.ofNat 3 (n - 0x030)))
     else if 0x038 ≤ n ∧ n ≤ 0x03F then some (.pmsel (BitVec.ofNat 3 (n - 0x038)))
     else if n = 0x040 then some .pmovf
     else none) := by
  unfold csrOf
  dsimp only
  generalize c.toNat = n
  split
  all_goals simp_all

theorem ofBool_toNat_eq (b : Bool) : (BitVec.ofBool b).toNat = if b then 1 else 0 := by cases b <;> rfl

theorem tstat_value (k : StreamCsr) : (k.code ++ BitVec.ofBool k.skip ++ BitVec.ofBool k.tin).setWidth 64 =
    BitVec.ofNat 64 ((if k.tin then 1 else 0) + (if k.skip then 2 else 0) + 4 * k.code.toNat) := by
  refine BitVec.eq_of_toNat_eq ?_
  rw [BitVec.toNat_setWidth, BitVec.toNat_append, BitVec.toNat_append, ofBool_toNat_eq, ofBool_toNat_eq, BitVec.toNat_ofNat,
    ← Nat.shiftLeft_add_eq_or_of_lt (by split <;> decide), ← Nat.shiftLeft_add_eq_or_of_lt (by split <;> decide), Nat.shiftLeft_eq,
    Nat.shiftLeft_eq]
  congr 1
  cases k.skip with
  | false => simp only [Bool.false_eq_true, if_false]; omega
  | true => simp only [if_true]; omega

theorem tileinfo_value (rev : BitVec 32) (h : BitVec 6) (c : BitVec 16) (g : BitVec 8) : rev ++ (0 : BitVec 2) ++ h ++ c ++ g =
    BitVec.ofNat 64 (g.toNat + 2 ^ 8 * c.toNat + 2 ^ 24 * h.toNat + 2 ^ 32 * rev.toNat) := by
  have hg := g.isLt
  have hc := c.isLt
  have hh := h.isLt
  have hrev := rev.isLt
  refine BitVec.eq_of_toNat_eq ?_
  rw [BitVec.toNat_append, BitVec.toNat_append, BitVec.toNat_append, BitVec.toNat_append, BitVec.toNat_ofNat,
    ← Nat.shiftLeft_add_eq_or_of_lt g.isLt, ← Nat.shiftLeft_add_eq_or_of_lt c.isLt, ← Nat.shiftLeft_add_eq_or_of_lt h.isLt,
    ← Nat.shiftLeft_add_eq_or_of_lt (by decide)]
  have hzero : (0 : BitVec 2).toNat = 0 := rfl
  rw [hzero, Nat.mod_eq_of_lt (by omega)]
  simp only [Nat.shiftLeft_eq]
  omega

theorem ite_eq_map {α β : Type} {p : Prop} [Decidable p] {f : α → β} {a x : Option β} {b y : Option α} (h : p → a = b.map f) (h' : x = y.map f) :
    (if p then a else x) = (if p then b else y).map f := by
  split_ifs with hp
  · exact h hp
  · exact h'

/-- The model reads the registers that the manual numbers, with their values. -/
theorem csrValue_eq (s : State) (g : BitVec 8) (st : Stream) (c : BitVec 10) :
    csrValue s g st c.toNat = (csrOf st c).map (s.csrGet g st) := by
  rw [csrOf_eq]
  unfold csrValue
  dsimp only
  generalize c.toNat = n
  refine ite_eq_map (fun _ => ite_eq_map (fun _ => ?fctl) rfl) <| ite_eq_map (fun _ => ite_eq_map (fun _ => ?fstat) rfl) <|
    ite_eq_map (fun _ => ?tvec) <| ite_eq_map (fun _ => ?tepc) <| ite_eq_map (fun _ => ?tstat) <| ite_eq_map (fun h => ?trec) <|
    ite_eq_map (fun _ => rfl) <| ite_eq_map (fun _ => rfl) <| ite_eq_map (fun _ => rfl) <| ite_eq_map (fun _ => ?tileinfo) <|
    ite_eq_map (fun h => ?pmc) <| ite_eq_map (fun h => ?pmsel) <| ite_eq_map (fun _ => ?pmovf) rfl
  case fctl => exact congrArg some (BitVec.ofNat_toNat ..)
  case fstat => exact congrArg some (BitVec.ofNat_toNat ..)
  case tvec => cases st <;> exact congrArg some (BitVec.ofNat_toNat ..)
  case tepc => cases st <;> exact congrArg some (BitVec.ofNat_toNat ..)
  case tstat => cases st <;> exact congrArg some (tstat_value _).symm
  case trec =>
    suffices hcut : ∀ k : StreamCsr, some (BitVec.ofNat 64 (k.trec.toNat / 2 ^ (64 * (n - 0x010)))) = some (k.trec.extractLsb' (64 * (n - 0x010)) 64) by
      cases st <;> exact hcut _
    intro k
    refine congrArg some (BitVec.eq_of_toNat_eq ?_)
    rw [BitVec.toNat_ofNat]
    exact (BitVec.extractLsb'_toNat ..).trans (by rw [Nat.shiftRight_eq_div_pow]) |>.symm
  case tileinfo => exact congrArg some (tileinfo_value ..).symm
  case pmc =>
    refine congrArg some ?_
    show _ = (s.tile g).pmc.toList.getD ((n - 0x030) % 2 ^ 3) 0
    rw [Nat.mod_eq_of_lt (by omega)]
  case pmsel =>
    refine congrArg some ((BitVec.ofNat_toNat ..).trans ?_)
    show _ = ((s.tile g).pmsel.toList.getD ((n - 0x038) % 2 ^ 3) 0).setWidth 64
    rw [Nat.mod_eq_of_lt (by omega)]
  case pmovf => exact congrArg some (BitVec.ofNat_toNat ..)

/-- The number of a register (R453 to R455). -/
def Csr.number : Csr → Nat
  | .fctl => 0x000 | .fstat => 0x001 | .tvec => 0x008 | .tepc => 0x009 | .tstat => 0x00A
  | .trec n => 0x010 + n
  | .cycle => 0x020 | .devtime => 0x021 | .tickcnt => 0x022 | .tileinfo => 0x023
  | .pmc j => 0x030 + j.toNat
  | .pmsel j => 0x038 + j.toNat
  | .pmovf => 0x040

/-- A register of a number is the one that has it; the floating-point registers are the X-stream's, and a trap record has eight words. -/
def Csr.Numbered (st : Stream) (n : Nat) (q : Csr) : Prop :=
  n = q.number ∧ (q = .fctl ∨ q = .fstat → st = .x) ∧ (∀ j, q = .trec j → j ≤ 7)

theorem of_ite_some {α : Type} {p P : Prop} [Decidable p] {a b : Option α} {q : α} (h : p → a = some q → P) (h' : b = some q → P) :
    (if p then a else b) = some q → P := by
  split_ifs with hp
  · exact h hp
  · exact h'

theorem csrOf_numbered {st : Stream} {c : BitVec 10} {q : Csr} : csrOf st c = some q → q.Numbered st c.toNat := by
  rw [csrOf_eq]
  dsimp only
  generalize c.toNat = n
  have one {r : Csr} (hn : n = r.number) (hst : r = .fctl ∨ r = .fstat → st = .x) (hj : ∀ j, r = .trec j → j ≤ 7) :
      some r = some q → q.Numbered st n := fun e => Option.some.inj e ▸ ⟨hn, hst, hj⟩
  have plain {r : Csr} (hn : n = r.number) (hst : r ≠ .fctl ∧ r ≠ .fstat) (hj : ∀ j, r ≠ .trec j) : some r = some q → q.Numbered st n :=
    one hn (fun e => absurd e (not_or.mpr hst)) (fun j e => absurd e (hj j))
  have index {k : Nat} (hk : k ≤ 7) : (BitVec.ofNat 3 k).toNat = k := Nat.mod_eq_of_lt (by omega)
  refine of_ite_some (fun hn => of_ite_some (fun hst => one hn (fun _ => hst) nofun) nofun) <|
    of_ite_some (fun hn => of_ite_some (fun hst => one hn (fun _ => hst) nofun) nofun) <|
    of_ite_some (plain · (by simp) (by simp)) <| of_ite_some (plain · (by simp) (by simp)) <| of_ite_some (plain · (by simp) (by simp)) <|
    of_ite_some (fun hn => ?record) <| of_ite_some (plain · (by simp) (by simp)) <| of_ite_some (plain · (by simp) (by simp)) <|
    of_ite_some (plain · (by simp) (by simp)) <| of_ite_some (plain · (by simp) (by simp)) <|
    of_ite_some (fun hn => plain ?count (by simp) (by simp)) <| of_ite_some (fun hn => plain ?select (by simp) (by simp)) <|
    of_ite_some (plain · (by simp) (by simp)) nofun
  case record =>
    refine one ?_ nofun fun j e => ?_
    · simp only [Csr.number]; omega
    · cases e; omega
  case count => simp only [Csr.number]; rw [index (by omega)]; omega
  case select => simp only [Csr.number]; rw [index (by omega)]; omega

/-! ## Reads -/

theorem exec_csrwr (r : R5) (c : BitVec 10) (s : State) : exec (.csrwr r c) s = csrWrite true (fun _ v => v) r c s := rfl
theorem exec_csrset (r : R5) (c : BitVec 10) (s : State) : exec (.csrset r c) s = csrWrite false (fun o v => o ||| v) r c s := rfl
theorem exec_csrclr (r : R5) (c : BitVec 10) (s : State) : exec (.csrclr r c) s = csrWrite false (fun o v => o &&& ~~~ v) r c s := rfl

section Ready
variable {s : State} {g : BitVec 8} {st : Stream} {srcs : List XDst} {d r : R5} {c : BitVec 10} {q : Csr} (h : Ready s g st srcs (.x d))
include h

theorem csrrd_assigned (hq : csrOf st c = some q) : let u := opened s g st
    exec (.csrrd d c) s = .next (finished (u.modTile g (wrote st 3 d (u.csrGet g st q) false)) g st 1) := by
  intro u
  show execCsrrd d c s = _
  rw [execCsrrd, ready_issue h, ← finished_wrS, ← settle_done]
  simp only [hq, ready_free h]
  rfl

theorem csrrd_unassigned (hq : csrOf st c = none) : exec (.csrrd d c) s = .next (trapped (opened s g st) g st { code := 0x0A }) := by
  show execCsrrd d c s = _
  rw [execCsrrd, ready_issue h, ← settle_trap _ _ 1]
  simp only [hq]
  rfl

theorem csrWrite_unassigned {w : Bool} {f : W64 → W64 → W64} (hq : csrOf st c = none) :
    csrWrite w f r c s = .next (trapped (opened s g st) g st { code := 0x0A }) := by
  rw [csrWrite, ready_issue h, ← settle_trap _ _ 1]
  simp only [hq]
  rfl

end Ready

/-- Settles O25: the model's table of registers is the manual's. -/
theorem statusRegisterReads : Obligations.StatusRegisterReads := by
  unfold Obligations.StatusRegisterReads
  intro s g st d c h u
  rw [csrValue_eq]
  cases hq : csrOf st c with
  | some q => exact csrrd_assigned h hq
  | none =>
    simp only [Option.map_none, List.forall_mem_cons, List.not_mem_nil, false_implies, implies_true, and_true, exec_csrwr, exec_csrset, exec_csrclr]
    exact ⟨csrrd_unassigned h hq, csrWrite_unassigned h hq, csrWrite_unassigned h hq, csrWrite_unassigned h hq⟩

/-! ## Writes -/

section Ready
variable {s : State} {g : BitVec 8} {st : Stream} {d r : R5} {c : BitVec 10} {q : Csr} (h : Ready s g st [.x r] (.x d))
  (hq : csrOf st c = some q) {w : Bool} {f : W64 → W64 → W64}
include h hq

theorem csrWrite_readOnly (ha : q.acc = .ro) : csrWrite w f r c s = .next (trapped (opened s g st) g st { code := 0x0A }) := by
  rw [csrWrite, ready_issue h, ← settle_trap _ _ 1]
  simp only [hq, ha]
  rfl

theorem csrWrite_clearBits_refused (ha : q.acc = .w1c) : csrWrite false f r c s = .next (trapped (opened s g st) g st { code := 0x0A }) := by
  rw [csrWrite, ready_issue h, ← settle_trap _ _ 1]
  simp only [hq, ha]
  rfl

theorem csrWrite_clearBits (ha : q.acc = .w1c) : let u := opened s g st
    (scalar (u.tile g) st r).2 = false →
    csrWrite true f r c s = .next (finished (u.modTile g fun t => t.csrPut st q (scalar (u.tile g) st r).1) g st 1) := by
  intro u hclean
  rw [csrWrite, ready_issue h, ← settle_done]
  simp only [hq, ha, ready_reads h List.mem_cons_self]
  rw [if_neg (by decide), if_neg (by rw [hclean]; decide)]
  rfl

theorem csrWrite_fields {m : W64} (ha : q.acc = .rw m) : let u := opened s g st
    (scalar (u.tile g) st r).2 = false →
    csrWrite w f r c s = .next (finished (u.modTile g fun t =>
      t.csrPut st q (f (u.csrGet g st q) (scalar (u.tile g) st r).1 &&& m)) g st 1) := by
  intro u hclean
  rw [csrWrite, ready_issue h, ← settle_done]
  simp only [hq, ha, ready_reads h List.mem_cons_self]
  rw [if_neg (by rw [hclean]; decide)]
  rfl

theorem csrWrite_poisoned {m : W64} (ha : q.acc = .rw m) : let u := opened s g st
    (scalar (u.tile g) st r).2 = true → csrWrite w f r c s = .next (trapped u g st { code := 0x2B }) := by
  intro u hpois
  rw [csrWrite, ready_issue h, ← settle_trap _ _ 1]
  simp only [hq, ha, ready_reads h List.mem_cons_self]
  rw [if_pos hpois]
  rfl

end Ready

/-- The fields that a write only stores: those of every writable register but TSTAT. -/
def Csr.plainMask (q : Csr) : Option W64 :=
  match q with
  | .fctl => some 0x7
  | .tvec | .tepc => some 0x3FFF
  | .pmc _ => some (BitVec.allOnes 64)
  | .pmsel _ => some 0x3FF
  | _ => none

theorem acc_of_plainMask {q : Csr} {m : W64} (h : q.plainMask = some m) : q.acc = .rw m := by
  cases q <;> simp_all [Csr.plainMask, Csr.acc]

/-- The statement's writable registers are the model's. -/
theorem rwCsr_eq {st : Stream} {n : Nat} {q : Csr} (h : q.Numbered st n) (v : W64) (t : Tile) :
    rwCsr st n v t = q.plainMask.map fun m => (m, t.csrPut st q v) := by
  obtain ⟨hn, hx, htrec⟩ := h
  unfold rwCsr
  cases q with
  | fctl => rw [hx (.inl rfl), hn]; rfl
  | tvec => rw [hn]; cases st <;> rfl
  | tepc => rw [hn]; cases st <;> rfl
  | pmc j =>
    have hj := j.isLt
    simp only [Csr.number] at hn
    rw [if_neg (by omega), if_neg (by omega), if_neg (by omega), if_pos (by omega), hn, Nat.add_sub_cancel_left]
    rfl
  | pmsel j =>
    have hj := j.isLt
    simp only [Csr.number] at hn
    rw [if_neg (by omega), if_neg (by omega), if_neg (by omega), if_neg (by omega), if_pos (by omega), hn, Nat.add_sub_cancel_left]
    rfl
  | trec j =>
    have hj := htrec j rfl
    simp only [Csr.number] at hn
    rw [if_neg (by omega), if_neg (by omega), if_neg (by omega), if_neg (by omega), if_neg (by omega)]
    rfl
  | fstat | tstat | cycle | devtime | tickcnt | tileinfo | pmovf => rw [hn]; rfl

theorem acc_of_readOnly {st : Stream} {n : Nat} {q : Csr} (h : q.Numbered st n) (hn : 0x010 ≤ n ∧ n ≤ 0x023) : q.acc = .ro := by
  obtain ⟨rfl, -, -⟩ := h
  cases q with
  | trec | cycle | devtime | tickcnt | tileinfo => rfl
  | fctl | fstat | tvec | tepc | tstat | pmc | pmsel | pmovf => simp only [Csr.number] at hn; omega

theorem acc_of_clearBits {st : Stream} {n : Nat} {q : Csr} (h : q.Numbered st n) (hn : n = 0x001 ∨ n = 0x040) : q.acc = .w1c := by
  obtain ⟨rfl, -, hrec⟩ := h
  cases q with
  | fstat | pmovf => rfl
  | trec j => have := hrec j rfl; simp only [Csr.number] at hn; omega
  | pmc j | pmsel j => have := j.isLt; simp only [Csr.number] at hn; omega
  | fctl | tvec | tepc | tstat | cycle | devtime | tickcnt | tileinfo => simp [Csr.number] at hn

theorem eq_of_number {st : Stream} {n : Nat} {q r : Csr} (h : q.Numbered st n) (hn : n = r.number)
    (hr : r = .fstat ∨ r = .tstat ∨ r = .pmovf) : q = r := by
  obtain ⟨rfl, -, hrec⟩ := h
  have hsmall : r.number = 0x001 ∨ r.number = 0x00A ∨ r.number = 0x040 := hr.imp (congrArg _) (.imp (congrArg _) (congrArg _))
  cases q with
  | trec j => have := hrec j rfl; simp only [Csr.number] at hn hsmall; omega
  | pmc j | pmsel j => have := j.isLt; simp only [Csr.number] at hn hsmall; omega
  | fctl | tvec | tepc | cycle | devtime | tickcnt | tileinfo => simp [Csr.number] at hn hsmall; omega
  | fstat | tstat | pmovf => rcases hr with rfl | rfl | rfl <;> simp_all [Csr.number]

/-- The resumption of the engine queues leaves the streams' status registers. -/
theorem csr_resumeEngines (t : Tile) (st : Stream) : (t.resumeEngines st).acsr = t.acsr ∧ (t.resumeEngines st).xcsr = t.xcsr := by
  unfold Tile.resumeEngines
  induction allEngs generalizing t with
  | nil => exact ⟨rfl, rfl⟩
  | cons e es ih =>
    rw [List.foldl_cons]
    obtain ⟨ha, hx⟩ := ih (if Eng.stream e = st then t.setEng e { t.eng e with halted := false } else t)
    rw [ha, hx]
    split <;> simp

theorem getLsbD_and_one (v : W64) : (v &&& 1).getLsbD 0 = v.getLsbD 0 := by
  rw [BitVec.getLsbD_and]
  exact Bool.and_true _

/-- A tile after a write of TSTAT: IN is the written bit, and its fall resumes the stream's engine queues. -/
def wroteTstat (st : Stream) (b : Bool) (t : Tile) : Tile :=
  let t := if (t.csr st).tin = true ∧ b = false then t.resumeEngines st else t
  match st with
  | .a => { t with acsr := { t.acsr with tin := b } }
  | .x => { t with xcsr := { t.xcsr with tin := b } }

theorem csrPut_tstat (t : Tile) (st : Stream) (v : W64) : t.csrPut st .tstat (v &&& 1) = wroteTstat st (v.getLsbD 0) t := by
  have hc := csr_resumeEngines t st
  unfold Tile.csrPut wroteTstat
  dsimp only
  rw [getLsbD_and_one]
  have hif : ((t.csr st).tin && !v.getLsbD 0) = true ↔ (t.csr st).tin = true ∧ v.getLsbD 0 = false := by
    rw [Bool.and_eq_true, Bool.not_eq_true']
  simp only [hif]
  split
  · cases st <;> simp only [Tile.setCsr, Tile.csr, hc]
  · cases st <;> rfl

/-- Settles O26. -/
theorem statusRegisterWrites : Obligations.StatusRegisterWrites := by
  unfold Obligations.StatusRegisterWrites
  intro s g st r c old h u t x n hold
  rw [csrValue_eq] at hold
  obtain ⟨q, hq, rfl⟩ := Option.map_eq_some_iff.mp hold
  have hnum := csrOf_numbered hq
  have hplain (v : W64) (t : Tile) : rwCsr st n v t = q.plainMask.map fun m => (m, t.csrPut st q v) := rwCsr_eq hnum v t
  have tstat (hn : n = 0x00A) : q = .tstat := eq_of_number hnum hn (.inr (.inl rfl))
  have form (w : Bool) (f : W64 → W64 → W64) (hx : x.2 = false) :
      ((rwCsr st n 0 t).isSome = true → ∃ m t', rwCsr st n (f (u.csrGet g st q) x.1 &&& m) t = some (m, t') ∧
        csrWrite w f r c s = .next (finished (u.modTile g fun _ => t') g st 1)) ∧
      (n = 0x00A → csrWrite w f r c s =
        .next (finished (u.modTile g (wroteTstat st ((f (u.csrGet g st q) x.1).getLsbD 0))) g st 1)) := by
    refine ⟨fun hsome => ?_, fun hn => ?_⟩
    · rw [hplain, Option.isSome_map] at hsome
      obtain ⟨m, hm⟩ := Option.isSome_iff_exists.mp hsome
      refine ⟨m, _, by rw [hplain, hm]; rfl, (csrWrite_fields h hq (acc_of_plainMask hm) hx).trans ?_⟩
      exact congrArg (fun v => Host.Outcome.next (finished v g st 1)) (modTile_congr rfl)
    · rw [csrWrite_fields h hq (m := 1) (by rw [tstat hn]; rfl) hx, tstat hn]
      simp only [csrPut_tstat]
      rfl
  have poisoned (w : Bool) (f : W64 → W64 → W64) (hx : x.2 = true) (hrw : (rwCsr st n 0 t).isSome = true ∨ n = 0x00A) :
      csrWrite w f r c s = .next (trapped u g st { code := 0x2B }) := by
    obtain hsome | hn := hrw
    · rw [hplain, Option.isSome_map] at hsome
      obtain ⟨m, hm⟩ := Option.isSome_iff_exists.mp hsome
      exact csrWrite_poisoned h hq (acc_of_plainMask hm) hx
    · exact csrWrite_poisoned h hq (m := 1) (by rw [tstat hn]; rfl) hx
  simp only [List.forall_mem_cons, List.not_mem_nil, false_implies, implies_true, and_true, exec_csrwr, exec_csrset, exec_csrclr]
  refine ⟨fun hx => ?forms, fun hx hn => ?fstat, fun hx hn => ?pmovf, fun hn => ?clearBits, fun hn => ?readOnly,
    fun hx hrw => ⟨poisoned _ _ hx hrw, poisoned _ _ hx hrw, poisoned _ _ hx hrw⟩⟩
  case forms =>
    exact ⟨⟨(form true (fun _ v => v) hx).1, (form true (fun _ v => v) hx).2⟩,
      ⟨(form false (fun o v => o ||| v) hx).1, (form false (fun o v => o ||| v) hx).2⟩,
      ⟨(form false (fun o v => o &&& ~~~ v) hx).1, (form false (fun o v => o &&& ~~~ v) hx).2⟩⟩
  case fstat =>
    have hfstat : q = .fstat := eq_of_number hnum hn (.inl rfl)
    rw [csrWrite_clearBits h hq (by rw [hfstat]; rfl) hx, hfstat]
    rfl
  case pmovf =>
    have hpmovf : q = .pmovf := eq_of_number hnum hn (.inr (.inr rfl))
    rw [csrWrite_clearBits h hq (by rw [hpmovf]; rfl) hx, hpmovf]
    rfl
  case clearBits =>
    have ha := acc_of_clearBits hnum hn
    exact ⟨csrWrite_clearBits_refused h hq ha, csrWrite_clearBits_refused h hq ha⟩
  case readOnly =>
    have ha := acc_of_readOnly hnum hn
    exact ⟨csrWrite_readOnly h hq ha, csrWrite_readOnly h hq ha, csrWrite_readOnly h hq ha⟩

end Sys2Proof.Machine
end

section
set_option Elab.async false
/-! PROOFS. Scalar stores (chapter 14, R363, R364) by policy (chapter 08, R191): what stays in the L1D, and what leaves for the home. -/
namespace Sys2Proof.Machine
open Sys2Proof.Says

theorem placeIn_eq_placed (pa n : Nat) (v : W64) : placeIn pa n v = placed (pa % 64) n v := by
  refine BitVec.eq_of_toNat_eq ?_
  rw [placeIn, placed, BitVec.toNat_shiftLeft, BitVec.toNat_ofNat, BitVec.toNat_ofNat, Nat.shiftLeft_eq, Nat.mod_mul_mod]

theorem store_eq_storedIn (l : L1Line) (m : BitVec 64) (v : BitVec 512) (p dirty : Bool) : l.store m v p dirty = storedIn l m v p dirty := by
  have hpois : (if p then true else if m = BitVec.allOnes 64 then false else l.pois) = (p || (l.pois && m != BitVec.allOnes 64)) := by
    cases p with
    | true => rfl
    | false =>
      by_cases h : m = BitVec.allOnes 64
      · rw [h, bne_self_eq_false, Bool.and_false, if_pos rfl]; rfl
      · rw [if_neg h, bne_iff_ne.mpr h, Bool.and_true]; rfl
  rw [L1Line.store, storedIn, hpois]

/-- A store that nothing holds back is performed at the place that translation gives, with the bytes of its register in their place. -/
theorem scalarStore_at {n : Nat} {s : State} {g : BitVec 8} {d b : R5} {p : BitVec 2} {o : BitVec 11} {ea : W64} {pa : Nat}
    {leaf : BitVec 128} (hcur : s.cur = .stream g .a) (hea : Address (s.tile g) b o n ea) (hx : Reaches s g ea .write pa leaf)
    (hrel : (s.tile g).relPend = []) {u : State} : let v := scalar (s.tile g) .a d
    (s.modTile g (served ea)).storeAt g pa leaf (bytesAt (pa % 64) n) (placed (pa % 64) n v.1) v.2 p = .ok u →
      scalarStore n d b p o s = .next (finished u g .a 1) := by
  intro v hstore
  obtain ⟨heaOf, halign⟩ := eaOf_clean hea
  have hsettle : s.settleRelease g = .ok s := by rw [State.settleRelease, hrel]; rfl
  have hv : (s.tile g).rdA d = v := rdA_eq_scalar ..
  have hat : (s.touchTlb g ea).storeAt g pa leaf (byteMask (pa % 64) n) (placeIn pa n v.1) v.2 p = .ok u := by
    rw [byteMask_eq_bytesAt, placeIn_eq_placed, ← hstore]
    rfl
  rw [scalarStore, issue_a hcur]
  simp only [heaOf, halign, hsettle, xlA_reaches hx, hv, hat, Bind.bind, Except.bind, Except.map]
  rw [settle_done]

section Policies
variable {s : State} {g : BitVec 8} {pa : Nat} {leaf : BitVec 128} {m : BitVec 64} {v : BitVec 512} {p : Bool}

/-- WT: a copy is updated, and the write goes to the home. -/
theorem storeAt_wt (h : s.reqFull g = false) : s.storeAt g pa leaf m v p 1 =
    .ok ((s.modTile g fun t => match t.l1Get (lineNo leaf pa) with
      | some l => (t.l1Set (storedIn l m v p false)).l1Touch (lineNo leaf pa)
      | none => t).post (dieOf g) (writeOf s g leaf (lineNo leaf pa) m v p .wt)) := by
  simp only [← store_eq_storedIn]
  unfold State.storeAt
  rw [needEntry_free h]
  rfl

/-- CA with a copy: the bytes become dirty in it, and those that its CMASK lacks are claimed. -/
theorem storeAt_ca_hit {l : L1Line} (hl : (s.tile g).l1Get (lineNo leaf pa) = some l) (h : m &&& ~~~ l.cmask = 0 ∨ s.reqFull g = false) :
    s.storeAt g pa leaf m v p 0 = .ok (s.modTile g fun t =>
      let t := (t.l1Set (storedIn l m v p true)).l1Touch (lineNo leaf pa)
      if m &&& ~~~ l.cmask = 0 then t
      else { t with claims := t.claims ++ [{ line := lineNo leaf pa, bytes := m, vclk := (s.die (dieOf g)).vclk }] }) := by
  simp only [← store_eq_storedIn]
  unfold State.storeAt
  simp only [hl]
  by_cases hown : m &&& ~~~ l.cmask = 0
  · simp only [hown, if_true]
    rfl
  · rw [if_neg hown, needEntry_free (h.resolve_left hown)]
    simp only [hown, if_false]
    exact congrArg Except.ok (State.modTile_modTile ..)

/-- CA without a copy: a copy with the stored bytes alone valid, and a claim. -/
theorem storeAt_ca_miss (hl : (s.tile g).l1Get (lineNo leaf pa) = none) (hroom : (s.tile g).l1Victim (lineNo leaf pa) = none)
    (h : s.reqFull g = false) :
    s.storeAt g pa leaf m v p 0 = .ok (s.modTile g fun t =>
      let l : L1Line := { line := lineNo leaf pa, data := 0, pois := false, vmask := 0, cmask := 0, dmask := 0, key := leafKey leaf
                          coh := leafCoh leaf, lru := t.l1use + 1 }
      { t.l1Set (storedIn l m v p true) with
        l1use := t.l1use + 1
        claims := t.claims ++ [{ line := lineNo leaf pa, bytes := m, vclk := (s.die (dieOf g)).vclk }] }) := by
  have hr : s.l1Room g (lineNo leaf pa) = .ok s := by rw [State.l1Room, hl, hroom]; rfl
  simp only [← store_eq_storedIn]
  unfold State.storeAt
  simp only [hl, needEntry_free h, hr]
  exact congrArg Except.ok (modTile_congr rfl)

/-- NC and ST: a copy leaves, and the write goes to the home. -/
theorem storeAt_through {pol : BitVec 2} (hpol : 2 ≤ pol) (hclaims : ∀ c ∈ (s.tile g).claims, c.line ≠ lineNo leaf pa) (h : s.reqFull g = false) :
    s.storeAt g pa leaf m v p pol = .ok ((match (s.tile g).l1Get (lineNo leaf pa) with
      | some l => s.l1Drop g l
      | none => s).post (dieOf g) (writeOf s g leaf (lineNo leaf pa) m v p .store)) := by
  have hany : (s.tile g).claims.any (fun c => c.line == lineNo leaf pa) = false :=
    List.any_eq_false.mpr fun c hc => by rw [beq_iff_eq]; exact hclaims c hc
  have hcases : pol = 2 ∨ pol = 3 := by revert hpol; decide +revert
  unfold State.storeAt
  rcases hcases with rfl | rfl <;>
  · dsimp only [BitVec.reduceToNat]
    rw [hany, needEntry_free h]
    rfl

end Policies

/-- Each store of R363 is the scalar store of its bytes. -/
theorem exec_stores {e : (R5 → R5 → BitVec 2 → BitVec 11 → Instr) × Nat} (he : e ∈ stores) :
    ∀ d b p o s, exec (e.1 d b p o) s = scalarStore e.2 d b p o s := by
  simp only [stores, List.mem_cons, List.not_mem_nil, or_false] at he
  rcases he with rfl | rfl | rfl | rfl <;> exact fun _ _ _ _ _ => rfl

/-- Settles O18: every store of R363 is one scalar store, which its policy sends into the L1D or to the home. -/
theorem storesGoWhereTheirPolicySays : Obligations.StoresGoWhereTheirPolicySays := by
  unfold Obligations.StoresGoWhereTheirPolicySays
  intro e he s g d b p o ea pa leaf line v m w u out now hcur hea hx hrel
  rw [exec_stores he]
  have htile : u.tile g = served ea (s.tile g) := State.tile_modTile ..
  have hget : (u.tile g).l1Get line = (s.tile g).l1Get line := by rw [htile]; exact Tile.l1Get_tlbTouch ..
  have hvictim : (u.tile g).l1Victim line = (s.tile g).l1Victim line := by
    rw [htile, Tile.l1Victim, Tile.l1Victim, served, Tile.l1_tlbTouch]
  have hctx : (served ea (s.tile g)).ctx = (s.tile g).ctx := by unfold served Tile.tlbTouch; split <;> rfl
  have hclaims : (served ea (s.tile g)).claims = (s.tile g).claims := by unfold served Tile.tlbTouch; split <;> rfl
  have hout (k : WriteKind) : out k = writeOf u g leaf line m w v.2 k := by
    show writeOf .. = _
    unfold writeOf
    rw [htile, hctx]
    rfl
  refine ⟨?wt, fun l => ?hit, ?miss, ?through⟩
  case wt =>
    rintro rfl hfull
    rw [hout]
    exact scalarStore_at hcur hea hx hrel (storeAt_wt hfull)
  case hit =>
    rintro rfl hl hfull
    exact scalarStore_at hcur hea hx hrel (storeAt_ca_hit (hget.trans hl) hfull)
  case miss =>
    rintro rfl hl hroom hfull
    exact scalarStore_at hcur hea hx hrel (storeAt_ca_miss (hget.trans hl) (hvictim.trans hroom) hfull)
  case through =>
    intro hp hfree hfull
    rw [hout]
    exact scalarStore_at hcur hea hx hrel (storeAt_through hp (by rw [htile, hclaims]; exact hfree) hfull)

end Sys2Proof.Machine
end

section
set_option Elab.async false
/-! PROOFS. Atomics (chapter 14, R366, R367) at their line's home (chapter 10, R249 to R256). -/
namespace Sys2Proof.Machine
open Sys2Proof.Says

/-! ## The clocks of dies and homes (R256) -/

/-- The vectors that the dies carry and the epochs that the homes have closed. -/
def State.clocks (s : State) : (BitVec 2 → Vector W64 4) × (BitVec 3 → Vector W64 4) := (fun d => (s.die d).vclk, fun h => (s.home h).closed)

theorem foldl_clocks {β : Type} {f : State → β → State} (h : ∀ s x, (f s x).clocks = s.clocks) (l : List β) (s : State) :
    (l.foldl f s).clocks = s.clocks :=
  List.foldlRecOn (motive := fun t => t.clocks = s.clocks) l f rfl fun t ht x _ => (h t x).trans ht

theorem setDie_clocks {s : State} {d : BitVec 2} {x : Die} (hx : x.vclk = (s.die d).vclk) : (s.setDie d x).clocks = s.clocks := by
  refine Prod.ext (funext fun e => ?_) rfl
  by_cases he : e = d
  · rw [he]; exact (congrArg Die.vclk (State.die_setDie ..)).trans hx
  · exact congrArg Die.vclk (State.die_setDie_of_ne _ _ he)

theorem setChan_clocks (s : State) (d : BitVec 2) (h : BitVec 3) (l : List ChanEnt) : (s.setChan d h l).clocks = s.clocks := setDie_clocks rfl

theorem setRim_clocks (s : State) (d : BitVec 2) (l : List HomeWrite) : (s.setDie d { s.die d with rim := l }).clocks = s.clocks :=
  setDie_clocks rfl

theorem setHome_clocks {s : State} {h : BitVec 3} {x : Home} (hx : x.closed = (s.home h).closed) : (s.setHome h x).clocks = s.clocks := by
  refine Prod.ext rfl (funext fun e => ?_)
  by_cases he : e = h
  · rw [he]; exact (congrArg Home.closed (State.home_setHome ..)).trans hx
  · exact congrArg Home.closed (vget_vset_of_ne _ _ _ he)

theorem setRv_clocks (s : State) (h : BitVec 3) (v : Vector W64 4) : (s.setHome h { s.home h with rv := v }).clocks = s.clocks := setHome_clocks rfl

theorem landWrite_clocks (s : State) (ctx : BitVec 16) (key : BitVec 12) (line : Nat) (m : BitVec 64) (v : BitVec 512) (p : Bool)
    (vc : Vector W64 4) : (s.landWrite ctx key line m v p vc).clocks = s.clocks := by
  obtain ⟨_, _, _, _, h⟩ := wrLine_storage s ctx key line m v p
  have hline : (s.wrLine ctx key line m v p).clocks = s.clocks := by rw [h]; rfl
  exact (setRv_clocks ..).trans hline

theorem unhold_clocks (s : State) (line u : Nat) : (s.unhold line u).clocks = s.clocks := by
  unfold State.unhold
  dsimp only
  split <;> rfl

theorem modHolder_clocks (s : State) (u : Nat) (f : Tile → Tile) : (s.modHolder u f).clocks = s.clocks := by
  unfold State.modHolder
  split
  · rfl
  · split <;> rfl

theorem invalidate_clocks (s : State) (line u : Nat) (m : BitVec 64) : (s.invalidate line u m).clocks = s.clocks := by
  unfold State.invalidate
  split
  · exact unhold_clocks ..
  · rw [apply_ite State.clocks, unhold_clocks, modHolder_clocks, ite_self]

theorem clearValid_clocks (s : State) (line : Nat) (g : Option (BitVec 8)) (m : BitVec 64) : (s.clearValid line g m).clocks = s.clocks :=
  foldl_clocks (fun t h => by rw [apply_ite State.clocks, invalidate_clocks, ite_self]) _ s

theorem pullOwn_clocks (s : State) (line u : Nat) : (s.pullOwn line u).clocks = s.clocks := by
  unfold State.pullOwn
  dsimp only
  split
  · rfl
  · refine (foldl_clocks (fun t w => ?_) _ _).trans ((setRim_clocks ..).trans (setChan_clocks ..))
    split <;> simp only [unhold_clocks, clearValid_clocks, HomeWrite.land, landWrite_clocks]

theorem recallOne_clocks (s : State) (line u : Nat) : (s.recallOne line u).clocks = s.clocks := by
  have hset (s : State) (r : HomeLine) : (s.setHolders line r).clocks = s.clocks := rfl
  unfold State.recallOne
  split
  · exact unhold_clocks ..
  · dsimp only
    split_ifs <;> simp only [unhold_clocks, hset, modHolder_clocks, State.mergeBack, landWrite_clocks]

theorem recall_clocks (s : State) (line : Nat) (g : Option (BitVec 8)) (m : BitVec 64) : (s.recall line g m).clocks = s.clocks :=
  foldl_clocks (fun t h => by rw [apply_ite State.clocks, recallOne_clocks, pullOwn_clocks, ite_self]) _ s

theorem homeConflict_clocks (s : State) (coh : BitVec 2) (line : Nat) (g : BitVec 8) : (s.homeConflict coh line g).clocks = s.clocks := by
  unfold State.homeConflict
  dsimp only
  split
  · unfold State.reclassify
    refine foldl_clocks (fun t h => ?_) _ s
    dsimp only
    split
    · exact pullOwn_clocks ..
    · split
      · exact pullOwn_clocks ..
      · exact (modHolder_clocks ..).trans ((landWrite_clocks ..).trans (pullOwn_clocks ..))
  · rfl

/-- Whether a home serves a vector is the clocks' matter. -/
theorem served_of_clocks {s t : State} (h : t.clocks = s.clocks) (k : BitVec 3) (v : Vector W64 4) : t.served k v = s.served k v := by
  have hclosed : (t.home k).closed = (s.home k).closed := congrFun (congrArg Prod.snd h) k
  rw [State.served, hclosed, State.served]

/-! ## What stands in storage -/

/-- The parts of a state that decide what a line reads as. -/
def State.stored (s : State) : Mem × List Nat × Tab Nat × Tab Nat × Vector Cxl 4 := (s.mem, s.poison, s.lineKey, s.keys, s.cxl)

theorem rdLine_of_stored {s t : State} (h : t.stored = s.stored) (key : BitVec 12) (line : Nat) : t.rdLine key line = s.rdLine key line := by
  obtain ⟨hmem, h⟩ := Prod.ext_iff.mp h
  obtain ⟨hpois, h⟩ := Prod.ext_iff.mp h
  obtain ⟨hline, h⟩ := Prod.ext_iff.mp h
  obtain ⟨hkeys, hcxl⟩ := Prod.ext_iff.mp h
  simp only [State.stored] at hmem hpois hline hkeys hcxl
  simp only [State.rdLine, State.rdBytes, State.answers, State.keyId, hmem, hpois, hline, hkeys, hcxl]

theorem rdByte_of_stored {s t : State} (h : t.stored = s.stored) (p : Nat) : t.rdByte p = s.rdByte p :=
  congrArg (Mem.get · p) (congrArg Prod.fst h)

theorem unhold_stored (s : State) (line u : Nat) : (s.unhold line u).stored = s.stored := by
  unfold State.unhold
  dsimp only
  split <;> rfl

theorem clearValid_stored (s : State) (line : Nat) (g : Option (BitVec 8)) (m : BitVec 64) : (s.clearValid line g m).stored = s.stored := by
  have hinv (t : State) (u : Nat) : (t.invalidate line u m).stored = t.stored := by
    unfold State.invalidate
    split
    · exact unhold_stored ..
    · split
      · exact unhold_stored ..
      · unfold State.modHolder
        split
        · rfl
        · split <;> rfl
  refine List.foldlRecOn (motive := fun t : State => t.stored = s.stored) _ _ rfl fun t ht x _ => ?_
  rw [apply_ite State.stored, hinv, ite_self, ht]

theorem acquire_stored (s : State) (g : BitVec 8) (c : BitVec 2) : (s.acquire g c).stored = s.stored := by
  unfold State.acquire
  dsimp only
  split <;> rfl

theorem acquire_homeSide (s : State) (g : BitVec 8) (c : BitVec 2) : s.HomeSide (s.acquire g c) := by
  have clean (f : L1Line → L1Line) (hf : ∀ l, (f l).dmask = l.dmask) (t : Tile) : t.L1Only { t with l1 := t.l1.map f } := by
    refine ⟨_, rfl, fun h x hx => ?_⟩
    obtain ⟨l, hl, rfl⟩ := List.mem_map.mp hx
    rw [hf]
    exact h l hl
  unfold State.acquire
  dsimp only
  split
  · exact .refl s
  · exact (setDie_homeSide ..).trans (modTile_homeSide (clean (fun l => { l with vmask := l.vmask &&& l.dmask }) (fun _ => rfl) _))
  · exact modTile_homeSide (clean (fun l => if ownDie (dieOf g) l.line then l else { l with vmask := l.vmask &&& l.dmask })
      (fun l => by split <;> rfl) _)

/-- A write of some bytes of a line at a home that answers, under a key that there is: the line reads as it did but for them, and every other
byte is unchanged. -/
theorem wrLine_part {s : State} {key : BitVec 12} {l : Nat} {m : BitVec 64} (ha : s.answers l = true) (hk : (s.keyId key).isSome = true)
    (hm : m ≠ 0) (ctx : BitVec 16) (v : BitVec 512) (p : Bool) :
    let t := s.wrLine ctx key l m v p
    (t.rdLine key l).1 = mergeLine m v (s.rdLine key l).1 ∧ ∀ a, a / 64 ≠ l → t.rdByte a = s.rdByte a := by
  intro t
  obtain ⟨k, hk⟩ := Option.isSome_iff_exists.mp hk
  obtain ⟨c, hc⟩ := noteUndo_eq s ctx l
  have hnew : (State.rdLine { s with ctxs := c } key l).1 = (s.rdLine key l).1 := rfl
  have hkc : State.keyId { s with ctxs := c } key = some k := hk
  have hg : ¬ (m = 0 || !s.answers l) = true := by rw [ha]; simpa using hm
  have ht : t = { s with
      ctxs := c
      mem := Mem.puts s.mem (64 * l) (lineBytes (mergeLine m v (s.rdLine key l).1))
      poison := t.poison
      lineKey := Tab.set s.lineKey l k } := by
    simp only [t]
    unfold State.wrLine
    rw [if_neg hg, hc]
    simp only [hkc, hnew]
  have hlen : (lineBytes (mergeLine m v (s.rdLine key l).1)).length = 64 := length_leBytes ..
  have hmem : t.mem = Mem.puts s.mem (64 * l) (lineBytes (mergeLine m v (s.rdLine key l).1)) := by rw [ht]
  refine ⟨?_, fun a hal => ?_⟩
  · have hline : Tab.get? t.lineKey l = some k := by rw [ht]; exact Tab.get?_set_self ..
    have hkt : t.keyId key = some k := by rw [ht]; exact hk
    have hbytes : t.rdBytes (64 * l) 64 = lineBytes (mergeLine m v (s.rdLine key l).1) := by
      rw [State.rdBytes, hmem, ← hlen]
      exact Mem.gets_puts ..
    rw [rdLine_ownKey hline hkt, hbytes, lineVal_lineBytes]
  · rw [State.rdByte, hmem]
    exact Mem.get_puts_outside _ _ (by rw [hlen]; omega)

/-! ## An atomic at the home (R366, R367) -/

theorem bytesAt_ne_zero {off n : Nat} (hoff : off < 64) (hn : n = 4 ∨ n = 8) : bytesAt off n ≠ 0 := by
  have hall : ∀ off < 64, bytesAt off 4 ≠ 0 ∧ bytesAt off 8 ≠ 0 := by decide
  rcases hn with rfl | rfl
  · exact (hall off hoff).1
  · exact (hall off hoff).2

/-- The line as an atomic of a tile finds it, once its die's earlier traffic has arrived and the holders of its bytes have been recalled. -/
def State.recalled (s : State) (g : BitVec 8) (line : Nat) (coh : BitVec 2) (m : BitVec 64) : State :=
  (((s.ncLeaves g line).arrive g line).homeConflict coh line g).recall line none m

theorem recalled_homeSide (s : State) (g : BitVec 8) (line : Nat) (coh : BitVec 2) (m : BitVec 64) : s.HomeSide (s.recalled g line coh m) :=
  (ncLeaves_homeSide ..).trans ((arrive_homeSide ..).trans ((homeConflict_homeSide ..).trans (recall_homeSide ..)))

theorem ncLeaves_offHomes (s : State) (g : BitVec 8) (line : Nat) : (s.ncLeaves g line).offHomes = s.offHomes := by
  unfold State.ncLeaves
  split
  · unfold State.l1Drop
    dsimp only
    split <;> rfl
  · rfl

theorem recalled_offHomes (s : State) (g : BitVec 8) (line : Nat) (coh : BitVec 2) (m : BitVec 64) :
    (s.recalled g line coh m).offHomes = s.offHomes := by
  rw [State.recalled, recall_offHomes, homeConflict_offHomes, State.arrive, drainChan_offHomes, State.leave, leaveN_offHomes, ncLeaves_offHomes]

/-- An atomic with no claim outstanding, whose epochs are closed, reads its line at the home. -/
theorem atomicLine_served {s : State} {g : BitVec 8} {pa : Nat} {leaf : BitVec 128} {m : BitVec 64} (hpeer : leafPeer leaf = false)
    (hcl : (s.tile g).claims = []) (hv : (s.tile g).rdV = none) :
    let h := s.recalled g (pa / 64) (leafCoh leaf) m
    h.served (homeOf pa) (h.die (dieOf g)).vclk = true →
    s.atomicLine g pa leaf m = .ok ((h.rdLine (leafKey leaf) (pa / 64)).1, (h.rdLine (leafKey leaf) (pa / 64)).2, h) := by
  intro h hserved
  have hclocks : h.clocks = ((s.ncLeaves g (pa / 64)).arrive g (pa / 64)).clocks := (recall_clocks ..).trans (homeConflict_clocks ..)
  have hvclk : (h.die (dieOf g)).vclk = (((s.ncLeaves g (pa / 64)).arrive g (pa / 64)).die (dieOf g)).vclk :=
    congrFun (congrArg Prod.fst hclocks) (dieOf g)
  rw [hvclk, served_of_clocks hclocks] at hserved
  have hreach := reachHome_served (v := none) (((ncLeaves_homeSide s g (pa / 64)).rdV g).trans hv) hserved
  unfold State.atomicLine
  simp only [lineNo_device hpeer, hcl, waitIf, List.any_nil, Bool.false_eq_true, if_false, Bind.bind, Except.bind]
  cases hl : (s.tile g).l1Get (pa / 64) with
  | some l =>
    rw [ncLeaves_copy hl] at hreach
    simp only [h, State.recalled, ncLeaves_copy hl, hreach]
  | none =>
    rw [ncLeaves_none hl] at hreach
    simp only [h, State.recalled, ncLeaves_none hl, hreach]

/-- An atomic's write at its home, by `f` (R366): only an atomic other than `ACAS`, or one that finds what it compares, writes. -/
def State.atomicWrite (s : State) (f : AOp) (ctx : BitVec 16) (key : BitVec 12) (line : Nat) (m : BitVec 64) (v : BitVec 512) (same : Bool)
    (vc : Vector W64 4) : State :=
  if f != .cas || same then (s.landWrite ctx key line m v false vc).clearValid line none m else s

section Issue
variable {f : AOp} {s h : State} {g : BitVec 8} {d a b : R5} {k c : BitVec 2} {z : BitVec 1} {ea : W64} {pa : Nat} {leaf : BitVec 128}
  {n : Nat} {v : BitVec 512 × Bool} (hn : (if z = 0 then 4 else 8) = n) (hcur : s.cur = .stream g .a) (hea : Address (s.tile g) a 0 n ea)
  (hx : Reaches s g ea .atomic pa leaf) (hrel : (s.tile g).relPend = [])
  (hcl : ((s.modTile g (served ea)).tile g).claims = []) (hv : ((s.modTile g (served ea)).tile g).rdV = none)
  (hfull : (s.modTile g (served ea)).reqFull g = false)
  (hline : (if k.getLsbD 1 then (s.modTile g (served ea)).release g c else s.modTile g (served ea)).atomicLine g pa leaf (bytesAt (pa % 64) n) =
    .ok (v.1, v.2, h))
include hn hcur hea hx hrel hcl hv hfull hline

/-- An atomic that nothing holds back: what it does once its line has been read. -/
theorem atomic_reads : let x := scalar (s.tile g) .a b
    let y := scalar (s.tile g) .a d
    let old := lineSlice v.1 (pa % 64) n
    atomic f d a b k c z s = .next (settle g .a 1 ((if v.2 || x.2 || (f = .cas && y.2) then
        trapIn (h.modTile g fun u => u.wrA d 0 true) { code := 0x2C }
      else
        let w := ((h.atomicWrite f ((s.tile g).ctx.getD 0) (leafKey leaf) (lineNo leaf pa) (bytesAt (pa % 64) n)
          (placed (pa % 64) n (BitVec.ofNat 64 (f.new (8 * n) old x.1.toNat))) (decide (old = y.1.toNat % 2 ^ (8 * n)))
          (h.die (dieOf g)).vclk).noteOv g (lineNo leaf pa)).modTile g fun u => u.wrA d (BitVec.ofNat 64 old) false
        .ok (if k.getLsbD 0 then w.acquire g c else w)).map fun s => (s, none))) := by
  intro x y old
  obtain ⟨heaOf, halign⟩ := eaOf_clean hea
  have hsettle : s.settleRelease g = .ok s := by rw [State.settleRelease, hrel]; rfl
  have hneed : (s.touchTlb g ea).needEntry g = .ok () := needEntry_free hfull
  have hxr : (s.tile g).rdA b = x := rdA_eq_scalar ..
  have hyr : (s.tile g).rdA d = y := rdA_eq_scalar ..
  have hfirst : (s.touchTlb g ea).releaseFirst g c = .ok ((s.touchTlb g ea).release g c) := releaseFirst_ready hv hcl c
  rw [atomic, issue_a hcur]
  cases hk : k.getLsbD 1 with
  | true =>
    have hread : ((s.touchTlb g ea).release g c).atomicLine g pa leaf (bytesAt (pa % 64) n) = .ok (v.1, v.2, h) := by
      rwa [hk, if_pos rfl] at hline
    simp only [hn, heaOf, halign, hsettle, xlA_reaches hx, hneed, hfirst, hread, hxr, hyr, if_true, Bind.bind, Except.bind,
      byteMask_eq_bytesAt, placeIn_eq_placed]
    rfl
  | false =>
    have hread : (s.touchTlb g ea).atomicLine g pa leaf (bytesAt (pa % 64) n) = .ok (v.1, v.2, h) := by
      rwa [hk, if_neg Bool.false_ne_true] at hline
    simp only [hn, heaOf, halign, hsettle, xlA_reaches hx, hneed, hread, hxr, hyr, Bool.false_eq_true, if_false, Bind.bind, Except.bind,
      byteMask_eq_bytesAt, placeIn_eq_placed]
    rfl

end Issue

/-- What an atomic's write leaves at the line's home. -/
theorem atomicWrite_line {h : State} {key : BitVec 12} {line : Nat} {m : BitVec 64} (ha : h.answers line = true)
    (hk : (h.keyId key).isSome = true) (hm : m ≠ 0) (f : AOp) (ctx : BitVec 16) (v : BitVec 512) (same : Bool) (vc : Vector W64 4) :
    let w := h.atomicWrite f ctx key line m v same vc
    (w.rdLine key line).1 = (if f = .cas ∧ same = false then (h.rdLine key line).1 else mergeLine m v (h.rdLine key line).1) ∧
      (∀ p, p / 64 ≠ line → w.rdByte p = h.rdByte p) ∧ h.HomeSide w := by
  intro w
  have hwrites : (f != .cas || same) = true ↔ ¬ (f = .cas ∧ same = false) := by
    rw [Bool.or_eq_true, bne_iff_ne, not_and_or, Bool.not_eq_false]
  by_cases hskip : f = .cas ∧ same = false
  · have hw : w = h := if_neg (hwrites.not_left.mpr hskip)
    rw [hw, if_pos hskip]
    exact ⟨rfl, fun _ _ => rfl, .refl h⟩
  · have hw : w = (h.landWrite ctx key line m v false vc).clearValid line none m := if_pos (hwrites.mpr hskip)
    have hstored : w.stored = (h.wrLine ctx key line m v false).stored := by rw [hw, clearValid_stored]; rfl
    obtain ⟨hread, hothers⟩ := wrLine_part ha hk hm ctx v false
    rw [rdLine_of_stored hstored, if_neg hskip, hread]
    refine ⟨rfl, fun p hp => (rdByte_of_stored hstored p).trans (hothers p hp), ?_⟩
    rw [hw]
    exact (landWrite_homeSide ..).trans (clearValid_homeSide ..)

/-- An instruction of the A-stream that has left its registers and memory as `u` holds them. -/
theorem finished_keeps (u : State) (g : BitVec 8) : let t := finished u g .a 1
    (t.tile g).apc = (u.tile g).apc + 1 ∧ (∀ r, (t.tile g).rdA r = (u.tile g).rdA r) ∧ t.stored = u.stored := by
  intro t
  have htile := finished_tile u g .a 1
  refine ⟨?_, fun r => ?_, rfl⟩
  · rw [htile, Tile.count_apc]
    rfl
  · rw [htile, Tile.rdA_count]
    exact Tile.rdA_setPc ..

theorem State.HomeSide.apc {s t : State} (h : s.HomeSide t) (g : BitVec 8) : (t.tile g).apc = (s.tile g).apc := by
  obtain ⟨l, hl, -⟩ := h.tile g
  rw [hl]

theorem State.HomeSide.rdA {s t : State} (h : s.HomeSide t) (g : BitVec 8) (r : R5) : (t.tile g).rdA r = (s.tile g).rdA r := by
  obtain ⟨l, hl, -⟩ := h.tile g
  rw [hl]
  rfl

/-- A completed atomic after its write `w`: OV rises, the old value goes to `d`, and the acquire part drops copies. -/
theorem atomic_finishes {h w : State} (hw : h.HomeSide w) (g : BitVec 8) (line : Nat) (d : R5) (v : W64) (acquires : Bool) (c : BitVec 2) :
    let u := (w.noteOv g line).modTile g fun t => t.wrA d v false
    let t := finished (if acquires then u.acquire g c else u) g .a 1
    t.cur = .none ∧ (t.tile g).apc = (h.tile g).apc + 1 ∧ (t.tile g).rdA d = (if d = 0 then (0, false) else (v, false)) ∧
      (∀ r, r ≠ d → (t.tile g).rdA r = (h.tile g).rdA r) ∧ t.stored = w.stored := by
  intro u t
  obtain ⟨hpc, hregs, hstored⟩ := finished_keeps (if acquires then u.acquire g c else u) g
  have hside : u.HomeSide (if acquires then u.acquire g c else u) := by
    split
    · exact acquire_homeSide ..
    · exact .refl u
  have hu : (u.tile g).apc = (h.tile g).apc ∧ ∀ r, (u.tile g).rdA r = if r = d then (if d = 0 then (0, false) else (v, false)) else (h.tile g).rdA r := by
    obtain ⟨-, hovpc, hovregs⟩ := (noteOv_fillOnly w g line).keeps
    rw [State.tile_modTile]
    refine ⟨(Tile.wrA_apc ..).trans (hovpc.trans (hw.apc g)), fun r => ?_⟩
    by_cases hr : r = d
    · rw [if_pos hr, hr]
      by_cases hd : d = 0
      · rw [if_pos hd, hd, Tile.rdA_zero]
      · rw [if_neg hd, Tile.rdA_wrA_self _ v false hd]
    · rw [if_neg hr, Tile.rdA_wrA_of_ne _ v false hr, hovregs, hw.rdA g]
  obtain ⟨hupc, huregs⟩ := hu
  refine ⟨rfl, ?_, ?_, fun r hr => ?_, hstored.trans ?_⟩
  · rw [hpc, hside.apc g, hupc]
  · rw [hregs, hside.rdA g, huregs, if_pos rfl]
  · rw [hregs, hside.rdA g, huregs, if_neg hr]
  · split
    · exact acquire_stored ..
    · rfl

/-! ## The functions of R367 -/

theorem ite_le_eq_ite_gt {α β : Type} [LinearOrder α] {m n : α} {c : Prop} [Decidable c] (hc : c ↔ n < m) (a b : β) :
    (if m ≤ n then a else b) = if c then b else a := by
  rw [← ite_not]
  exact if_congr (by rw [hc, not_le]) rfl rfl

/-- Each atomic of R367 is the model's, with its function; only `ACAS` compares. -/
theorem exec_atomics {e : (R5 → R5 → R5 → BitVec 2 → BitVec 2 → BitVec 1 → Instr) × ((w : Nat) → BitVec w → BitVec w → BitVec w)}
    (he : e ∈ atomics) : ∃ f : AOp, (∀ d a b k c z s, exec (e.1 d a b k c z) s = atomic f d a b k c z s) ∧
      ((e.1 0 0 0 0 0 0 == .acas 0 0 0 0 0 0) = true ↔ f = .cas) ∧
      ∀ w old t, f.new w old t = (e.2 w (BitVec.ofNat w old) (BitVec.ofNat w t)).toNat := by
  simp only [atomics, List.mem_cons, List.not_mem_nil, or_false] at he
  rcases he with rfl | rfl | rfl | rfl | rfl | rfl | rfl | rfl | rfl | rfl
  · exact ⟨.swap, fun _ _ _ _ _ _ _ => rfl, by decide, fun _ _ _ => rfl⟩
  · exact ⟨.cas, fun _ _ _ _ _ _ _ => rfl, by decide, fun _ _ _ => rfl⟩
  · exact ⟨.add, fun _ _ _ _ _ _ _ => rfl, by decide, fun _ _ _ => rfl⟩
  · exact ⟨.and, fun _ _ _ _ _ _ _ => rfl, by decide, fun _ _ _ => rfl⟩
  · exact ⟨.or, fun _ _ _ _ _ _ _ => rfl, by decide, fun _ _ _ => rfl⟩
  · exact ⟨.xor, fun _ _ _ _ _ _ _ => rfl, by decide, fun _ _ _ => rfl⟩
  · exact ⟨.min, fun _ _ _ _ _ _ _ => rfl, by decide, fun w o t =>
      (ite_le_eq_ite_gt BitVec.slt_iff_toInt_lt _ _).trans (apply_ite BitVec.toNat ..).symm⟩
  · exact ⟨.max, fun _ _ _ _ _ _ _ => rfl, by decide, fun w o t =>
      (ite_le_eq_ite_lt BitVec.slt_iff_toInt_lt fun h => congrArg _ (BitVec.eq_of_toInt_eq h).symm).trans (apply_ite BitVec.toNat ..).symm⟩
  · exact ⟨.minu, fun _ _ _ _ _ _ _ => rfl, by decide, fun w o t =>
      (ite_le_eq_ite_gt BitVec.lt_def _ _).trans (apply_ite BitVec.toNat ..).symm⟩
  · exact ⟨.maxu, fun _ _ _ _ _ _ _ => rfl, by decide, fun w o t =>
      (ite_le_eq_ite_lt BitVec.lt_def fun h => h.symm).trans (apply_ite BitVec.toNat ..).symm⟩

/-! ## The state at the home -/

/-- The release part of an atomic with nothing outstanding changes no more of a tile than its copies. -/
theorem release_homeSide {s : State} {g : BitVec 8} (hp : (s.tile g).relPend = []) (hcl : (s.tile g).claims = []) (c : BitVec 2) :
    s.HomeSide (s.release g c) ∧ (s.release g c).offHomes = s.offHomes := by
  by_cases hc : c = 0
  · rw [State.release, if_pos hc]
    exact ⟨leave_homeSide .., leaveN_offHomes ..⟩
  · rw [release_wide hc hp hcl]
    exact ⟨releaseNow_homeSide .., releaseNow_offHomes ..⟩

theorem keyId_of_checkLeaf {s : State} {l : BitVec 128} {a : Acc} (h : checkLeaf s l a = .ok) : (s.keyId (leafKey l)).isSome = true := by
  cases hkey : s.keyId (leafKey l) with
  | some k => rfl
  | none => simp [checkLeaf, hkey] at h

/-- A leaf entry that passes names a key slot that holds a key (R197). -/
theorem keyId_of_reaches {s : State} {g : BitVec 8} {va : W64} {a : Acc} {pa : Nat} {leaf : BitVec 128} (h : Reaches s g va a pa leaf) :
    (s.keyId (leafKey leaf)).isSome = true := by
  unfold Reaches State.xlate at h
  split at h
  · cases h
  · split at h
    · cases h
    · split at h
      · next hck =>
        cases h
        exact keyId_of_checkLeaf hck
      · cases h
      · cases h

/-- A line that reads clean has a home that answers. -/
theorem answers_of_clean {s : State} {key : BitVec 12} {line : Nat} (h : (s.rdLine key line).2 = false) : s.answers line = true := by
  have hp : (s.poison.contains line || !s.answers line) = false := by
    unfold State.rdLine at h
    dsimp only at h
    split at h
    · split at h <;> exact h
    · exact h
    · exact h
  simpa using (Bool.or_eq_false_iff.mp hp).2

/-- Settles O20: an atomic finds its line at the home, and its own write is the only one after that. -/
theorem atomicsReadAndWriteAtTheHome : Obligations.AtomicsReadAndWriteAtTheHome := by
  unfold Obligations.AtomicsReadAndWriteAtTheHome
  intro e he s g d a b k c z ea pa leaf n off line m h at_ old x y cas new hcur hea hx hpeer hrel hcl hv hfull hserved
  obtain ⟨f, hexec, hcas, hnew⟩ := exec_atomics he
  let u := s.modTile g (served ea)
  let r := if k.getLsbD 1 then u.release g c else u
  have hline : line = pa / 64 := lineNo_device hpeer pa
  have htile : u.tile g = served ea (s.tile g) := State.tile_modTile ..
  obtain ⟨hclaims, hrdV⟩ := served_keeps ea (s.tile g)
  have hucl : (u.tile g).claims = [] := by rw [htile, hclaims, hcl]
  have hurdV : (u.tile g).rdV = none := by rw [htile, hrdV, hv]
  have hurel : (u.tile g).relPend = [] := by rw [htile, ← hrel]; unfold served Tile.tlbTouch; split <;> rfl
  have hr : u.HomeSide r ∧ r.offHomes = u.offHomes := by
    simp only [r]
    split
    · exact release_homeSide hurel hucl c
    · exact ⟨.refl u, rfl⟩
  obtain ⟨hside, hoff⟩ := hr
  have hh : h = r.recalled g (pa / 64) (leafCoh leaf) m := by
    simp only [h, atHome, hline.symm]
    rfl
  have hrcl : (r.tile g).claims = [] := by
    obtain ⟨l, hl, -⟩ := hside.tile g
    rw [hl]
    exact hucl
  have hread : r.atomicLine g pa leaf m = .ok (at_.1, at_.2, h) := by
    have hserves := hh ▸ hserved
    simp only [at_, hline, hh]
    exact atomicLine_served hpeer hrcl ((hside.rdV g).trans hurdV) hserves
  have hkeys : h.keys = s.keys := congrArg (fun x => State.keys x.1) (hh ▸ (recalled_offHomes ..).trans hoff)
  have hkey : (h.keyId (leafKey leaf)).isSome = true := by
    rw [State.keyId, hkeys]
    exact keyId_of_reaches hx
  have hn : n = 4 ∨ n = 8 := by simp only [n]; split <;> simp
  have hruns := atomic_reads (f := f) (d := d) (b := b) (k := k) (c := c) rfl hcur hea hx hrel hucl hurdV hfull hread
  have hpois : (at_.2 || x.2 || (f = .cas && y.2)) = true ↔ at_.2 = true ∨ x.2 = true ∨ (cas = true ∧ y.2 = true) := by
    simp only [Bool.or_eq_true, Bool.and_eq_true, decide_eq_true_eq, or_assoc]
    rw [show (cas = true ↔ f = .cas) from hcas]
  refine ⟨fun hclean hxc hyc => ?clean, fun hpoisoned => ?poisoned⟩
  case poisoned =>
    rw [hexec, hruns, if_pos (hpois.mpr hpoisoned)]
    rfl
  case clean =>
    have hans : h.answers line = true := answers_of_clean hclean
    have hm : m ≠ 0 := bytesAt_ne_zero (Nat.mod_lt _ (by decide)) hn
    have hnp : ¬ (at_.2 || x.2 || (f = .cas && y.2)) = true := by
      rw [hpois, not_or, not_or, not_and]
      exact ⟨by rw [hclean]; decide, by rw [hxc]; decide, fun hc => by rw [hyc hc]; decide⟩
    have hold : lineSlice at_.1 (pa % 64) n = old.toNat := (BitVec.toNat_ofNat ..).symm
    have hwritten : f.new (8 * n) (lineSlice at_.1 (pa % 64) n) x.1.toNat = new.toNat := by
      rw [hnew, hold, BitVec.ofNat_toNat, BitVec.ofNat_toNat, BitVec.setWidth_eq]
    have hsame : decide (lineSlice at_.1 (pa % 64) n = y.1.toNat % 2 ^ (8 * n)) = decide (old = y.1.setWidth (8 * n)) := by
      rw [decide_eq_decide, hold, BitVec.toNat_eq, BitVec.toNat_setWidth]
    obtain ⟨hread', hothers, hwside⟩ := atomicWrite_line hans hkey hm f ((s.tile g).ctx.getD 0)
      (placed off n (BitVec.ofNat 64 new.toNat)) (decide (old = y.1.setWidth (8 * n))) (h.die (dieOf g)).vclk
    obtain ⟨hcurs, hpc, hd, hregs, hstored⟩ := atomic_finishes hwside g line d (BitVec.ofNat 64 old.toNat) (k.getLsbD 0) c
    refine ⟨_, ?_, hcurs, hpc, hd, hregs, ?_, fun p hp => ?_⟩
    · rw [hexec, hruns, if_neg hnp, hwritten, hsame, hold]
      exact congrArg Host.Outcome.next (settle_done ..)
    · rw [rdLine_of_stored hstored, hread']
      refine if_congr ?_ rfl rfl
      rw [← hcas, decide_eq_false_iff_not]
    · rw [rdByte_of_stored hstored]
      exact hothers p hp

end Sys2Proof.Machine
end

section
set_option Elab.async false
/-! PROOFS. Storage stays canonical: what the functions of the model make of it, from the tables up to a step. -/
namespace Sys2Proof.Machine

/-- An instruction that stops before its end leaves storage canonical. -/
def Stop.MemWf : Stop → Prop
  | .wait s _ => s.MemWf
  | .trap s _ => s.MemWf

/-- A computation's value meets `P`, and where it stops instead it leaves storage canonical. -/
def Leads {α : Type} (P : α → Prop) : Res α → Prop
  | .ok a => P a
  | .error e => e.MemWf

def BStop.MemWf : BStop → Prop
  | .wait s => s.MemWf
  | .cause s _ => s.MemWf
  | .ill s _ => s.MemWf

/-- The same for a beat of an engine's command. -/
def BLeads {α : Type} (P : α → Prop) : BRes α → Prop
  | .ok a => P a
  | .error e => e.MemWf

/-- A value, where there is one, meets `P`. -/
def Yields {α : Type} (P : α → Prop) : Option α → Prop
  | none => True
  | some a => P a

/-- A next state, where there is one, has canonical storage. -/
def NextWf : Host.Outcome State Fault Refusal → Prop
  | .next t => t.MemWf
  | .fault _ => True
  | .refused _ => True

section Rules
variable {α β : Type} {P : α → Prop} {Q : β → Prop}

@[simp] theorem leads_ok {a : α} : Leads P (.ok a) ↔ P a := Iff.rfl
@[simp] theorem leads_pure {a : α} : Leads P (pure a) ↔ P a := Iff.rfl
@[simp] theorem leads_error {e : Stop} : Leads P (.error e) ↔ e.MemWf := Iff.rfl
@[simp] theorem leads_waitIn {s : State} {w : WaitWhy} : Leads P (waitIn s w) ↔ s.MemWf := Iff.rfl
@[simp] theorem leads_trapIn {s : State} {r : Raise} : Leads P (trapIn s r) ↔ s.MemWf := Iff.rfl
@[simp] theorem leads_bind {x : Res β} {f : β → Res α} : Leads P (x >>= f) ↔ Leads (fun b => Leads P (f b)) x := by cases x <;> rfl
@[simp] theorem leads_map {x : Res β} {f : β → α} : Leads P (x.map f) ↔ Leads (fun b => P (f b)) x := by cases x <;> rfl
theorem Leads.bind {x : Res β} {f : β → Res α} (h : Leads (fun b => Leads P (f b)) x) : Leads P (x >>= f) := leads_bind.mpr h
theorem Leads.map {x : Res β} {f : β → α} (h : Leads (fun b => P (f b)) x) : Leads P (x.map f) := leads_map.mpr h
@[simp] theorem leads_ite {c : Prop} [Decidable c] {x y : Res α} (hx : Leads P x) (hy : Leads P y) : Leads P (if c then x else y) := by
  split <;> assumption
theorem Leads.mono {P' : α → Prop} {x : Res α} (h : Leads P x) (hP : ∀ a, P a → P' a) : Leads P' x := by
  cases x with
  | ok a => exact hP a h
  | error e => exact h

@[simp] theorem bleads_ok {a : α} : BLeads P (.ok a) ↔ P a := Iff.rfl
@[simp] theorem bleads_pure {a : α} : BLeads P (pure a) ↔ P a := Iff.rfl
@[simp] theorem bleads_bWait {s : State} : BLeads P (bWait s) ↔ s.MemWf := Iff.rfl
@[simp] theorem bleads_bCause {s : State} {r : Raise} : BLeads P (bCause s r) ↔ s.MemWf := Iff.rfl
@[simp] theorem bleads_bIll {s : State} {n : Byte} : BLeads P (bIll s n) ↔ s.MemWf := Iff.rfl
@[simp] theorem bleads_bind {x : BRes β} {f : β → BRes α} : BLeads P (x >>= f) ↔ BLeads (fun b => BLeads P (f b)) x := by cases x <;> rfl
@[simp] theorem bleads_map {x : BRes β} {f : β → α} : BLeads P (x.map f) ↔ BLeads (fun b => P (f b)) x := by cases x <;> rfl
theorem BLeads.bind {x : BRes β} {f : β → BRes α} (h : BLeads (fun b => BLeads P (f b)) x) : BLeads P (x >>= f) := bleads_bind.mpr h
theorem BLeads.map {x : BRes β} {f : β → α} (h : BLeads (fun b => P (f b)) x) : BLeads P (x.map f) := bleads_map.mpr h
@[simp] theorem bleads_ite {c : Prop} [Decidable c] {x y : BRes α} (hx : BLeads P x) (hy : BLeads P y) : BLeads P (if c then x else y) := by
  split <;> assumption
theorem BLeads.mono {P' : α → Prop} {x : BRes α} (h : BLeads P x) (hP : ∀ a, P a → P' a) : BLeads P' x := by
  cases x with
  | ok a => exact hP a h
  | error e => exact h

@[simp] theorem nextWf_next {s : State} : NextWf (.next s) ↔ s.MemWf := Iff.rfl
@[simp] theorem nextWf_fault {f : Fault} : NextWf (.fault f) := trivial
@[simp] theorem nextWf_refused {r : Refusal} : NextWf (.refused r) := trivial

@[simp] theorem memWf_ite {c : Prop} [Decidable c] {s t : State} (hs : s.MemWf) (ht : t.MemWf) : (if c then s else t).MemWf := by
  split <;> assumption

@[simp] theorem nextWf_ite {c : Prop} [Decidable c] {x y : Host.Outcome State Fault Refusal} (hx : NextWf x) (hy : NextWf y) :
    NextWf (if c then x else y) := by
  split <;> assumption

@[simp] theorem memWf_ite_snd {c : Prop} [Decidable c] {x y : α × State} (hx : x.2.MemWf) (hy : y.2.MemWf) : (if c then x else y).2.MemWf := by
  split <;> assumption
@[simp] theorem memWf_ite_fst {c : Prop} [Decidable c] {x y : State × α} (hx : x.1.MemWf) (hy : y.1.MemWf) : (if c then x else y).1.MemWf := by
  split <;> assumption

/-- What leaves storage as it is keeps it canonical. -/
theorem memWf_of_mem_eq {s t : State} (h : s.MemWf) (e : t.mem = s.mem) : t.MemWf := by
  rw [State.MemWf, e]
  exact h

theorem memWf_of_wf {s : State} (h : Mem.wf s.mem = true) : s.MemWf := h

theorem memWf_of_eq_mk {x : α × State} (h : x.2.MemWf) {a t} (e : x = (a, t)) : t.MemWf := by
  rw [e] at h
  exact h

theorem Leads.of_eq_ok {x : Res α} (h : Leads P x) {a} (e : x = .ok a) : P a := leads_ok.mp (e ▸ h)
theorem Leads.of_eq_error {x : Res α} (h : Leads P x) {e} (he : x = .error e) : e.MemWf := leads_error.mp (he ▸ h)

@[simp] theorem yields_none : Yields P none := trivial
@[simp] theorem yields_some {a : α} : Yields P (some a) ↔ P a := Iff.rfl
theorem Yields.of {o : Option α} (h : ∀ a, o = some a → P a) : Yields P o := by
  cases o with
  | none => trivial
  | some a => exact h a rfl
theorem Yields.of_eq_some {o : Option α} (h : Yields P o) {a} (e : o = some a) : P a := yields_some.mp (e ▸ h)
theorem Yields.bind {o : Option β} {f : β → Option α} (h : Yields (fun b => Yields P (f b)) o) : Yields P (o >>= f) := by
  cases o with
  | none => trivial
  | some b => exact h
theorem yields_optionBind {o : Option β} {f : β → Option α} (h : Yields (fun b => Yields P (f b)) o) : Yields P (o.bind f) := .bind h
theorem leads_exceptBind {x : Res β} {f : β → Res α} (h : Leads (fun b => Leads P (f b)) x) : Leads P (x.bind f) := .bind h
theorem bleads_exceptBind {x : BRes β} {f : β → BRes α} (h : BLeads (fun b => BLeads P (f b)) x) : BLeads P (x.bind f) := .bind h
theorem Yields.map {o : Option β} {f : β → α} (h : Yields (fun b => P (f b)) o) : Yields P (o.map f) := by
  cases o with
  | none => trivial
  | some b => exact h
theorem Yields.of_forall {o : Option α} (h : ∀ a, P a) : Yields P o := .of fun a _ => h a
theorem yields_ite {c : Prop} [Decidable c] {x y : Option α} (hx : Yields P x) (hy : Yields P y) : Yields P (if c then x else y) := by
  split <;> assumption
theorem yields_findSome {l : List β} {f : β → Option α} (h : ∀ b, Yields P (f b)) : Yields P (l.findSome? f) :=
  .of fun _ e => let ⟨b, _, hb⟩ := List.exists_of_findSome?_eq_some e; (h b).of_eq_some hb
theorem yields_getD {o : Option α} {d : α} (ho : Yields P o) (hd : P d) : P (o.getD d) := by
  cases o with
  | none => exact hd
  | some a => exact ho
theorem getD_memWf {o : Option State} {d : State} (ho : Yields State.MemWf o) (hd : d.MemWf) : (o.getD d).MemWf := yields_getD ho hd
theorem BLeads.of_eq_ok {x : BRes α} (h : BLeads P x) {a} (e : x = .ok a) : P a := bleads_ok.mp (e ▸ h)
theorem BLeads.of_eq_error {x : BRes α} (h : BLeads P x) {e} (he : x = .error e) : e.MemWf := (he ▸ h : BLeads P (.error e))

theorem Leads.of_eq_wait {x : Res α} (h : Leads P x) {s w} (e : x = .error (.wait s w)) : s.MemWf := h.of_eq_error e
theorem Leads.of_eq_trap {x : Res α} (h : Leads P x) {s r} (e : x = .error (.trap s r)) : s.MemWf := h.of_eq_error e
theorem BLeads.of_eq_wait {x : BRes α} (h : BLeads P x) {s} (e : x = .error (.wait s)) : s.MemWf := h.of_eq_error e
theorem BLeads.of_eq_cause {x : BRes α} (h : BLeads P x) {s r} (e : x = .error (.cause s r)) : s.MemWf := h.of_eq_error e
theorem BLeads.of_eq_ill {x : BRes α} (h : BLeads P x) {s n} (e : x = .error (.ill s n)) : s.MemWf := h.of_eq_error e

/-- An update that keeps storage canonical keeps it over a list. -/
@[simp] theorem foldl_memWf {f : State → β → State} (hf : ∀ s x, s.MemWf → (f s x).MemWf) {l : List β} {s : State} (h : s.MemWf) :
    (l.foldl f s).MemWf :=
  List.foldlRecOn l f h fun t ht x _ => hf t x ht

@[simp] theorem foldl_fst_memWf {f : State × α → β → State × α} (hf : ∀ x b, x.1.MemWf → (f x b).1.MemWf) {l : List β} {x : State × α} (h : x.1.MemWf) :
    (l.foldl f x).1.MemWf :=
  List.foldlRecOn (motive := fun x => x.1.MemWf) l f h fun t ht x _ => hf t x ht
@[simp] theorem foldl_snd_memWf {f : α × State → β → α × State} (hf : ∀ x b, x.2.MemWf → (f x b).2.MemWf) {l : List β} {x : α × State} (h : x.2.MemWf) :
    (l.foldl f x).2.MemWf :=
  List.foldlRecOn (motive := fun x => x.2.MemWf) l f h fun t ht x _ => hf t x ht

/-- A computation over a list, its state handed on: where each step leads from canonical storage to canonical storage, so does the whole. -/
theorem foldl_leads {f : β → State → Res State} (hf : ∀ x s, s.MemWf → Leads State.MemWf (f x s)) {l : List β} {s : State}
    (h : s.MemWf) {P : State → Prop} (hP : ∀ t : State, t.MemWf → P t) : Leads P (l.foldl (fun a x => a.bind (f x)) (.ok s)) :=
  (List.foldlRecOn (motive := Leads State.MemWf) l _ (leads_ok.mpr h) fun _ ha x _ => leads_bind.mpr (ha.mono (hf x))).mono hP

end Rules

/-! ### Tables beside storage -/

section Tables
variable {s : State} (h : s.MemWf)
include h

theorem memWf_with_cur (x) : State.MemWf { s with cur := x } := h
theorem memWf_with_agenda (x) : State.MemWf { s with agenda := x } := h
theorem memWf_with_launches (x) : State.MemWf { s with launches := x } := h
theorem memWf_with_queues (x) : State.MemWf { s with queues := x } := h
theorem memWf_with_images (x) : State.MemWf { s with images := x } := h
theorem memWf_with_ctxs (x) : State.MemWf { s with ctxs := x } := h
theorem memWf_with_gran (x) : State.MemWf { s with gran := x } := h
theorem memWf_with_fresh (x) : State.MemWf { s with fresh := x } := h
theorem memWf_with_held (x) : State.MemWf { s with held := x } := h

end Tables

end Sys2Proof.Machine
end

section
set_option Elab.async false
/-! PROOFS. Storage stays canonical: the tables, the nodes and the links. -/
namespace Sys2Proof.Machine

/-! ### Storage -/

theorem free_memWf {s : State} (wf : s.MemWf) (w) : (s.free w).2.MemWf := memWf_of_mem_eq wf (by exact rfl)

theorem wrBytes_memWf {s : State} (h : s.MemWf) (a bs p) : (s.wrBytes a bs p).MemWf := Mem.wf_puts a bs h

theorem zero_memWf {s : State} (h : s.MemWf) (a n) : (s.zero a n).MemWf := Mem.wf_clear a n h

theorem noteUndo_memWf {s : State} (wf : s.MemWf) (ctx line) : (s.noteUndo ctx line).MemWf := by
  unfold State.noteUndo
  dsimp only
  split
  · with_reducible exact wf
  · with_reducible exact memWf_of_mem_eq wf (by exact rfl)

theorem wrLine_memWf {s : State} (h : s.MemWf) (ctx key line m v p) : (s.wrLine ctx key line m v p).MemWf := by
  unfold State.wrLine
  split
  · exact h
  · exact Mem.wf_puts _ _ (noteUndo_memWf h ..)

theorem wrDev_memWf {s : State} (h : s.MemWf) (ctx key pa bs p) : (s.wrDev ctx key pa bs p).MemWf :=
  foldl_memWf (fun _ _ h => wrLine_memWf h ..) h

/-! ### Records -/

theorem setTile_memWf {s : State} (wf : s.MemWf) (g t) : (s.setTile g t).MemWf := wf

theorem modTile_memWf {s : State} (wf : s.MemWf) (g f) : (s.modTile g f).MemWf := wf

theorem setQueue_memWf {s : State} (wf : s.MemWf) (q x) : (s.setQueue q x).MemWf := wf

theorem modQueue_memWf {s : State} (wf : s.MemWf) (q f) : (s.modQueue q f).MemWf := wf

theorem setRing_memWf {s : State} (wf : s.MemWf) (c x) : (s.setRing c x).MemWf := wf

theorem modRing_memWf {s : State} (wf : s.MemWf) (c f) : (s.modRing c f).MemWf := wf

theorem setFn_memWf {s : State} (wf : s.MemWf) (f x) : (s.setFn f x).MemWf := wf

theorem setDie_memWf {s : State} (wf : s.MemWf) (d x) : (s.setDie d x).MemWf := wf

theorem setHome_memWf {s : State} (wf : s.MemWf) (h x) : (s.setHome h x).MemWf := wf

theorem setCtx_memWf {s : State} (wf : s.MemWf) (x) : (s.setCtx x).MemWf := wf

theorem modCtx_memWf {s : State} (wf : s.MemWf) (c f) : (s.modCtx c f).MemWf := by
  unfold State.modCtx
  split
  · with_reducible exact memWf_of_mem_eq wf (by exact rfl)
  · with_reducible exact wf

theorem setLaunch_memWf {s : State} (wf : s.MemWf) (l) : (s.setLaunch l).MemWf := wf

theorem emit_memWf {s : State} (wf : s.MemWf) (o) : (s.emit o).MemWf := wf

theorem loseErr_memWf {s : State} (wf : s.MemWf) : (s.loseErr).MemWf := wf

theorem raiseErr_memWf {s : State} (wf : s.MemWf) (e) : (s.raiseErr e).MemWf :=
  memWf_ite (setRing_memWf wf ..) (memWf_ite (setRing_memWf wf ..) (loseErr_memWf wf))

theorem pushCompl_memWf {s : State} (wf : s.MemWf) (q bits irq urgent) : (s.pushCompl q bits irq urgent).MemWf := wf

theorem complete_memWf {s : State} (wf : s.MemWf) (p status result wroteDev) : (s.complete p status result wroteDev).MemWf :=
  memWf_ite (pushCompl_memWf (memWf_ite (modCtx_memWf (setQueue_memWf wf ..) ..) (setQueue_memWf wf ..)) ..) (memWf_ite
    (modCtx_memWf (setQueue_memWf wf ..) ..) (setQueue_memWf wf ..))

theorem haltQueue_memWf {s : State} (wf : s.MemWf) (q status count hdr pois) : (s.haltQueue q status count hdr pois).MemWf :=
  raiseErr_memWf (pushCompl_memWf (modQueue_memWf wf ..) ..) ..

theorem sendMsix_memWf {s : State} (wf : s.MemWf) (fn vec) : (s.sendMsix fn vec).MemWf := memWf_ite (emit_memWf wf ..) (setFn_memWf wf ..)

theorem ringInterrupt_memWf {s : State} (wf : s.MemWf) (c) : (s.ringInterrupt c).MemWf := modRing_memWf (sendMsix_memWf wf ..) ..

/-! ### Nodes -/

theorem setPool_memWf {s : State} (wf : s.MemWf) (j p) : (s.setPool j p).MemWf := wf

theorem modPool_memWf {s : State} (wf : s.MemWf) (j f) : (s.modPool j f).MemWf := wf

theorem setNode_memWf {s : State} (h : s.MemWf) (k n) : (s.setNode k n).MemWf := by
  have hrec : (({ s with nodes := Tab.set s.nodes (hKey k) n } : State).wrDev 0 0 (s.recAddr k) n.bytes false).MemWf :=
    wrDev_memWf (by exact h) ..
  exact memWf_ite hrec (wrDev_memWf hrec ..)

theorem modNode_memWf {s : State} (wf : s.MemWf) (h f) : (s.modNode h f).MemWf := setNode_memWf wf ..

theorem putIndex_memWf {s : State} (h : s.MemWf) (place b) : (s.putIndex place b).MemWf := foldl_memWf (fun _ _ h => wrDev_memWf h ..) h

theorem indexAdd_memWf {s : State} (wf : s.MemWf) (nsid name h) : (s.indexAdd nsid name h).MemWf :=
  putIndex_memWf (memWf_of_mem_eq wf (by exact rfl)) ..

theorem indexDel_memWf {s : State} (wf : s.MemWf) (h) : (s.indexDel h).MemWf :=
  foldl_memWf (fun u _ hu => putIndex_memWf hu ..) (memWf_of_mem_eq wf (by exact rfl))

theorem incRef_memWf {s : State} (wf : s.MemWf) (h) : (s.incRef h).MemWf := modNode_memWf wf ..

theorem closingRemoval_memWf {s : State} (h : s.MemWf) (k) : (s.closingRemoval k).MemWf := by
  unfold State.closingRemoval
  exact memWf_ite (setNode_memWf (indexDel_memWf h _) ..) h

theorem unref_memWf {s : State} (wf : s.MemWf) (h) : (s.unref h).MemWf := memWf_ite wf (closingRemoval_memWf (modNode_memWf wf ..) ..)

/-! ### Links -/

theorem setPort_memWf {s : State} (wf : s.MemWf) (p x) : (s.setPort p x).MemWf := wf

theorem letGo_memWf {s : State} (wf : s.MemWf) (h) : (s.letGo h).MemWf := by
  unfold State.letGo
  dsimp only
  split
  · split
    · with_reducible exact unref_memWf wf ..
    · with_reducible exact wf
  · with_reducible refine setPort_memWf ?_ ..
    split
    · with_reducible exact unref_memWf wf ..
    · with_reducible exact wf

theorem sendFlit_memWf {s : State} (wf : s.MemWf) (pn f) : (s.sendFlit pn f).MemWf :=
  foldl_memWf (fun _ _ hu => letGo_memWf hu ..) (emit_memWf (setPort_memWf wf ..) ..)

theorem pumpGo_memWf (pn n) {s : State} (h : s.MemWf) : (State.pumpGo pn n s).MemWf := by
  induction n generalizing s with
  | zero => exact h
  | succ n ih =>
    unfold State.pumpGo
    dsimp only
    split
    · exact h
    · exact ih (sendFlit_memWf (setPort_memWf h ..) ..)

theorem pump_memWf {s : State} (h : s.MemWf) (pn) : (s.pump pn).MemWf := pumpGo_memWf _ _ h

theorem sendMsg_memWf {s t : State} (h : s.MemWf) {dst vc flow payloads} (e : s.sendMsg dst vc flow payloads = some t) : t.MemWf := by
  unfold State.sendMsg at e
  split at e
  · cases e
  · cases e
    exact pump_memWf (setPort_memWf h ..) _
theorem sendMsg_yields {s : State} (h : s.MemWf) {dst vc flow payloads} {P : State → Prop} (hP : ∀ t : State, t.MemWf → P t) :
    Yields P (s.sendMsg dst vc flow payloads) := .of fun _ e => hP _ (sendMsg_memWf h e)

theorem sendDir_memWf {s t : State} (h : s.MemWf) {dst m extra data} (e : s.sendDir dst m extra data = some t) :
    t.MemWf := sendMsg_memWf h e
theorem sendDir_yields {s : State} (h : s.MemWf) {dst m extra data} {P : State → Prop} (hP : ∀ t : State, t.MemWf → P t) :
    Yields P (s.sendDir dst m extra data) := .of fun _ e => hP _ (sendDir_memWf h e)

end Sys2Proof.Machine
end

section
set_option Elab.async false
/-! PROOFS. Storage stays canonical: the homes of lines and the operations of a tile. -/
namespace Sys2Proof.Machine

/-! ### Links -/

theorem dirPut_memWf {s : State} (wf : s.MemWf) (a e) : (s.dirPut a e).MemWf := wrDev_memWf wf ..

theorem dirAnnounce_memWf {s : State} (h : s.MemWf) (nsid name depth x) : (s.dirAnnounce nsid name depth x).MemWf := by
  unfold State.dirAnnounce
  split
  · exact h
  · split
    · exact dirPut_memWf h ..
    · dsimp only
      split
      · exact dirPut_memWf h ..
      · exact h

theorem dirDrop_memWf {s : State} (wf : s.MemWf) (pkg x) : (s.dirDrop pkg x).MemWf := memWf_ite (dirPut_memWf wf ..) wf

theorem dirWithdraw_memWf {s : State} (h : s.MemWf) (nsid name depth pkg) : (s.dirWithdraw nsid name depth pkg).MemWf := by
  unfold State.dirWithdraw
  split
  · exact foldl_memWf (fun _ _ h => dirDrop_memWf h ..) h
  · split
    · exact dirDrop_memWf h ..
    · exact h

theorem tellHome_memWf {s : State} (h : s.MemWf) (op nsid name depth tier) : (s.tellHome op nsid name depth tier).MemWf := by
  have hsent (dst m) : ((s.sendDir dst m [] []).getD (s.emit (.failed dst 0x08))).MemWf := by
    cases e : s.sendDir dst m [] [] with
    | some t => exact sendDir_memWf h e
    | none => exact h
  unfold State.tellHome
  split
  · exact h
  · split
    · exact h
    · exact memWf_ite (memWf_ite (dirAnnounce_memWf h ..) (dirWithdraw_memWf h ..)) (hsent ..)

theorem withdrawAll_memWf {s : State} (wf : s.MemWf) (nsid) : (s.withdrawAll nsid).MemWf := tellHome_memWf wf ..

/-! ### SaltOps -/

theorem allocGroups_memWf {s : State} (h : s.MemWf) {tier j nl lb a} (e : s.allocGroups tier j nl lb = some a) : a.2.MemWf := by
  obtain ⟨l, -, rfl⟩ := Option.map_eq_some_iff.mp e
  exact h
theorem allocGroups_yields {s : State} (h : s.MemWf) {tier j nl lb} {P} (hP : ∀ a (t : State), t.MemWf → P (a, t)) :
    Yields P (s.allocGroups tier j nl lb) := .of fun _ e => hP _ _ (allocGroups_memWf h e)

theorem freeGroups_memWf {s : State} (h : s.MemWf) (gs) : (s.freeGroups gs).MemWf := foldl_memWf (fun _ _ h => memWf_ite h (by exact h)) h

theorem takeRecord_memWf {s : State} (wf : s.MemWf) (h) : (s.takeRecord h).MemWf := wf

theorem giveRecord_memWf {s : State} (wf : s.MemWf) (h) : (s.giveRecord h).MemWf := wf

theorem nsGone_memWf {s : State} (wf : s.MemWf) (nsid) : (s.nsGone nsid).MemWf := by
  unfold State.nsGone
  dsimp only
  split
  · with_reducible exact wf
  · with_reducible exact memWf_ite (memWf_of_mem_eq (memWf_ite (withdrawAll_memWf wf ..) wf) (by exact rfl)) wf

theorem freeNode_memWf (k) {s : State} (h : s.MemWf) (x) : (State.freeNode k s x).MemWf := by
  induction k generalizing s x with
  | zero => exact h
  | succ k ih =>
    unfold State.freeNode
    dsimp only
    refine nsGone_memWf (setNode_memWf (giveRecord_memWf (freeGroups_memWf (memWf_ite ?told ?parent) _) _) ..) _
    case told => exact memWf_ite (tellHome_memWf (memWf_ite h (indexDel_memWf h _)) ..) (memWf_ite h (indexDel_memWf h _))
    case parent =>
      have hset (p) (n) : State.MemWf (State.setNode (if (s.node x).ann = true then
          State.tellHome (if (s.node x).st = .open_ then s else s.indexDel x) 4 (s.node x).nsid (s.node x).name (s.node x).depth 0
        else if (s.node x).st = .open_ then s else s.indexDel x) p n) :=
        setNode_memWf (memWf_ite (tellHome_memWf (memWf_ite h (indexDel_memWf h _)) ..) (memWf_ite h (indexDel_memWf h _))) ..
      exact memWf_ite (ih (hset ..) _) (closingRemoval_memWf (hset ..) _)

theorem decRef_memWf {s : State} (h : s.MemWf) (x) : (s.decRef x).MemWf := by
  have hset (n) : (s.setNode x n).MemWf := setNode_memWf h ..
  exact memWf_ite h (memWf_ite (freeNode_memWf _ (hset _) _) (closingRemoval_memWf (hset _) _))

theorem dropAllRefs_memWf {s : State} (wf : s.MemWf) (c) : (s.dropAllRefs c).MemWf := by
  unfold State.dropAllRefs
  split
  · with_reducible exact wf
  · with_reducible exact foldl_memWf (fun u _ hu => decRef_memWf hu ..) (modCtx_memWf wf ..)

/-! ### Homes -/

theorem wrSpad_memWf {s : State} (h : s.MemWf) (g off bs p) : (s.wrSpad g off bs p).MemWf := wrBytes_memWf (p := p) h ..

theorem breakImage_memWf {s : State} (h : s.MemWf) (n) : (s.breakImage n).MemWf := by
  unfold State.breakImage
  split
  · exact h
  · exact Mem.wf_puts _ _ h

theorem claimGran_memWf {s : State} (h : s.MemWf) (ctx n) : (s.claimGran ctx n).MemWf :=
  memWf_ite (breakImage_memWf h n) (zero_memWf (breakImage_memWf h n) ..)

theorem wrGran_memWf {s : State} (h : s.MemWf) (ctx a bs p) : (s.wrGran ctx a bs p).MemWf :=
  memWf_ite h (wrBytes_memWf (foldl_memWf (fun _ _ h => claimGran_memWf h ..) h) ..)

theorem tagRun_memWf {s : State} (wf : s.MemWf) (c l) : (s.tagRun c l).MemWf := foldl_memWf (fun _ _ hu => claimGran_memWf hu ..) wf

theorem freeRun_memWf {s : State} (wf : s.MemWf) (l) : (s.freeRun l).MemWf := wf

theorem landWrite_memWf {s : State} (wf : s.MemWf) (ctx key line m v p vc) : (s.landWrite ctx key line m v p vc).MemWf :=
  setHome_memWf (wrLine_memWf wf ..) ..

theorem modHolder_memWf {s : State} (h : s.MemWf) (u f) : (s.modHolder u f).MemWf := by
  unfold State.modHolder
  split
  · exact h
  · split <;> exact h

theorem mergeBack_memWf {s : State} (wf : s.MemWf) (u l) : (s.mergeBack u l).MemWf := landWrite_memWf wf ..

theorem setHolders_memWf {s : State} (wf : s.MemWf) (line r) : (s.setHolders line r).MemWf := wf

theorem unhold_memWf {s : State} (wf : s.MemWf) (line u) : (s.unhold line u).MemWf :=
  memWf_ite (memWf_of_mem_eq wf (by exact rfl)) (setHolders_memWf wf ..)

theorem setChan_memWf {s : State} (wf : s.MemWf) (d h l) : (s.setChan d h l).MemWf := wf

theorem land_memWf {s : State} (wf : s.MemWf) (w) : (HomeWrite.land w s).MemWf := landWrite_memWf wf ..

theorem invalidate_memWf {s : State} (wf : s.MemWf) (line u m) : (s.invalidate line u m).MemWf := by
  unfold State.invalidate
  split
  · with_reducible exact unhold_memWf wf ..
  · with_reducible exact memWf_ite (unhold_memWf wf ..) (modHolder_memWf wf ..)

theorem clearValid_memWf {s : State} (h : s.MemWf) (line g m) : (s.clearValid line g m).MemWf :=
  foldl_memWf (fun _ _ h => memWf_ite h (invalidate_memWf h ..)) h

theorem pullOwn_memWf {s : State} (h : s.MemWf) (line u) : (s.pullOwn line u).MemWf := by
  have hland (t : State) (w : HomeWrite) (ht : t.MemWf) : State.MemWf (match w.kind with
      | .wb => w.land t
      | .evict => (w.land t).unhold line u
      | _ => (w.land t).clearValid line (some (BitVec.ofNat 8 u)) w.mask) := by
    split
    · exact land_memWf ht _
    · exact unhold_memWf (land_memWf ht _) ..
    · exact clearValid_memWf (land_memWf ht _) ..
  exact memWf_ite h (foldl_memWf hland h)

theorem reclassify_memWf {s : State} (h : s.MemWf) (line) : (s.reclassify line).MemWf := by
  refine foldl_memWf (s := s) (fun t x ht => ?_) h
  dsimp only
  split
  · exact pullOwn_memWf ht ..
  · exact memWf_ite (pullOwn_memWf ht ..) (modHolder_memWf (mergeBack_memWf (pullOwn_memWf ht ..) ..) ..)

theorem recallOne_memWf {s : State} (h : s.MemWf) (line u) : (s.recallOne line u).MemWf := by
  unfold State.recallOne
  split
  · exact unhold_memWf h ..
  · next l _ =>
    have hback : State.MemWf (if l.dmask &&& l.cmask = 0 then s else s.mergeBack u l) := memWf_ite h (mergeBack_memWf h ..)
    exact memWf_ite (unhold_memWf (modHolder_memWf hback ..) ..) (memWf_ite (modHolder_memWf hback ..) (modHolder_memWf hback ..))

theorem recall_memWf {s : State} (h : s.MemWf) (line g m) : (s.recall line g m).MemWf :=
  foldl_memWf (fun _ _ h => memWf_ite h (recallOne_memWf (pullOwn_memWf h ..) ..)) h

theorem homeConflict_memWf {s : State} (wf : s.MemWf) (coh line g) : (s.homeConflict coh line g).MemWf :=
  memWf_ite (reclassify_memWf wf ..) wf

theorem ioConflict_memWf {s : State} (wf : s.MemWf) (coh line) : (s.ioConflict coh line).MemWf := memWf_ite (reclassify_memWf wf ..) wf

theorem recallSelf_memWf {s : State} (wf : s.MemWf) (w) : (s.recallSelf w).MemWf := memWf_ite (recallOne_memWf (pullOwn_memWf wf ..) ..) wf

theorem applyWrite_memWf {s : State} (h : s.MemWf) (w) : (s.applyWrite w).MemWf := by
  have hown := homeConflict_memWf h w.coh w.line w.tile
  unfold State.applyWrite
  split
  · exact land_memWf h _
  · exact unhold_memWf (land_memWf h _) ..
  · exact memWf_ite (land_memWf h _)
      (memWf_ite (clearValid_memWf (recallSelf_memWf (land_memWf (recall_memWf hown ..) _) _) ..) (land_memWf hown _))

theorem applyEnt_memWf {s : State} (wf : s.MemWf) (d h e) : (s.applyEnt d h e).MemWf := by
  unfold State.applyEnt
  dsimp only
  split
  · with_reducible exact applyWrite_memWf wf ..
  · with_reducible exact setHome_memWf wf ..

theorem deliverN_memWf (d k n) {s : State} (h : s.MemWf) : (State.deliverN d k n s).MemWf := by
  induction n generalizing s with
  | zero => exact h
  | succ n ih =>
    unfold State.deliverN
    split
    · exact h
    · exact ih (applyEnt_memWf (setChan_memWf h ..) ..)

theorem drainChan_memWf {s : State} (h : s.MemWf) (d k) : (s.drainChan d k).MemWf := deliverN_memWf _ _ _ h

theorem drainSent_memWf {s : State} (wf : s.MemWf) (d) : (s.drainSent d).MemWf := foldl_memWf (fun _ _ hu => drainChan_memWf hu ..) wf

theorem post_memWf {s : State} (wf : s.MemWf) (d w) : (s.post d w).MemWf := wf

theorem send_memWf {s : State} (wf : s.MemWf) (d w) : (s.send d w).MemWf := setChan_memWf (memWf_ite (drainSent_memWf wf ..) wf) ..

theorem leaveN_memWf (d p n) {s : State} (h : s.MemWf) : (State.leaveN d p n s).MemWf := by
  induction n generalizing s with
  | zero => exact h
  | succ n ih =>
    unfold State.leaveN
    split
    · exact h
    · exact ih (send_memWf (setDie_memWf h ..) ..)

theorem leave_memWf {s : State} (h : s.MemWf) (g) : (s.leave g).MemWf := leaveN_memWf _ _ _ h

theorem drainDie_memWf {s : State} (h : s.MemWf) (d) : (s.drainDie d).MemWf := drainSent_memWf (leaveN_memWf _ _ _ h) _

theorem arrive_memWf {s : State} (wf : s.MemWf) (g line) : (s.arrive g line).MemWf := drainChan_memWf (leave_memWf wf ..) ..

theorem noteOv_memWf {s : State} (wf : s.MemWf) (g line) : (s.noteOv g line).MemWf := wf

theorem writeHome_memWf {s : State} (h : s.MemWf) (ctx leaf pa bs p) : (s.writeHome ctx leaf pa bs p).MemWf :=
  wrDev_memWf (memWf_ite (foldl_memWf (fun _ _ h => clearValid_memWf (recall_memWf h ..) ..) h) h) ..

theorem devWrite_memWf {s : State} (h : s.MemWf) (ctx va bs) : (s.devWrite ctx va bs).MemWf := by
  refine foldl_memWf (fun t p ht => ?_) h
  split
  · exact writeHome_memWf ht ..
  · exact ht

theorem ncRead_memWf {s : State} (h : s.MemWf) {ctx va n a} (e : s.ncRead ctx va n = some a) : a.2.MemWf := by
  unfold State.ncRead at e
  split at e
  · cases e
  · cases e
    refine List.foldlRecOn (motive := fun x : List PByte × State => x.2.MemWf) _ _ h fun x hx p _ => ?_
    dsimp only
    split
    · exact memWf_ite hx (ioConflict_memWf hx ..)
    · exact hx
theorem ncRead_yields {s : State} (h : s.MemWf) {ctx va n} {P} (hP : ∀ a (t : State), t.MemWf → P (a, t)) : Yields P (s.ncRead ctx va n) :=
  .of fun _ e => hP _ _ (ncRead_memWf h e)

theorem ncWrite_memWf {s t : State} (h : s.MemWf) {ctx va bs} (e : s.ncWrite ctx va bs = some t) : t.MemWf := by
  unfold State.ncWrite at e
  split at e
  · cases e
  · cases e
    refine foldl_memWf (fun x p hx => ?_) h
    split
    · next pa leaf _ =>
      have hio := ioConflict_memWf hx (leafCoh leaf) (pa / 64)
      have hrec (c : Bool) (m) : State.MemWf (if c then (x.ioConflict (leafCoh leaf) (pa / 64)).recall (pa / 64) none m else x.ioConflict (leafCoh leaf) (pa / 64)) :=
        memWf_ite (recall_memWf hio ..) hio
      exact memWf_ite (clearValid_memWf (wrDev_memWf (hrec ..) ..) ..) (wrDev_memWf (hrec ..) ..)
    · exact hx
theorem ncWrite_yields {s : State} (h : s.MemWf) {ctx va bs} {P : State → Prop} (hP : ∀ t : State, t.MemWf → P t) :
    Yields P (s.ncWrite ctx va bs) := .of fun _ e => hP _ (ncWrite_memWf h e)

theorem modRes_memWf {s : State} (wf : s.MemWf) (h f) : (s.modRes h f).MemWf := by
  unfold State.modRes
  split
  · with_reducible exact wf
  · with_reducible exact devWrite_memWf wf ..

theorem countUsers_memWf {s : State} (wf : s.MemWf) (hs up) : (s.countUsers hs up).MemWf :=
  foldl_memWf (fun _ _ hu => modRes_memWf hu ..) wf

/-! ### Ops -/

theorem dropHolds_memWf {s : State} (wf : s.MemWf) (c) : (s.dropHolds c).MemWf :=
  foldl_memWf (fun _ _ hu => decRef_memWf hu ..) (freeGroups_memWf wf ..)

theorem forgetAsks_memWf {s : State} (wf : s.MemWf) (g) : (s.forgetAsks g).MemWf := wf

theorem discardTile_memWf {s : State} (wf : s.MemWf) (g) : (s.discardTile g).MemWf :=
  setTile_memWf (memWf_of_mem_eq (foldl_memWf (fun u _ hu => dropHolds_memWf hu ..) (forgetAsks_memWf wf ..)) (by exact rfl)) ..

theorem dropImage_memWf {s : State} (h : s.MemWf) (n) : (s.dropImage n).MemWf := by
  unfold State.dropImage
  split
  · exact h
  · exact foldl_memWf (f := State.dropHolds) (fun _ _ h => dropHolds_memWf h _) h

theorem placeImage_memWf {s : State} (wf : s.MemWf) (i) : (s.placeImage i).MemWf := memWf_of_mem_eq (tagRun_memWf wf ..) (by exact rfl)

theorem imageOut_memWf {s : State} (h : s.MemWf) (k pa) : (s.imageOut k pa).MemWf := by
  have hput (u : State) (hu : u.MemWf) (i : Image) :
      State.MemWf { u with images := Tab.set u.images k.toNat { i with grans := [], hbm := some pa } } := hu
  unfold State.imageOut
  split
  · exact h
  · exact memWf_ite h (hput _ (freeRun_memWf (wrDev_memWf h ..) _) _)

theorem imageIn_memWf {s : State} (h : s.MemWf) (k) : (s.imageIn k).MemWf := by
  unfold State.imageIn
  split
  · exact h
  · split
    · exact h
    · exact memWf_ite h (placeImage_memWf h _)

theorem settleHeld_memWf {s : State} (wf : s.MemWf) : (s.settleHeld).MemWf := wf

theorem finishLaunch_memWf {s : State} (h : s.MemWf) (l st) : (s.finishLaunch l st).MemWf :=
  memWf_with_launches (complete_memWf (settleHeld_memWf (foldl_memWf (fun _ _ h => modTile_memWf h ..) (memWf_ite (countUsers_memWf h ..) h))) ..) _

theorem endContext_memWf {s : State} (h : s.MemWf) (c r) : (s.endContext c r).MemWf := by
  have hend (u : State) (hu : u.MemWf) (c : BitVec 16) (f : Ctx → Ctx) (x) : State.MemWf (if c = 0 then u.modCtx 0 f else { u with ctxs := x }) :=
    memWf_ite (modCtx_memWf hu ..) hu
  have hdrop (u : State) (hu : u.MemWf) (l : List Nat) : (l.foldl State.dropImage u).MemWf := foldl_memWf (fun _ _ h => dropImage_memWf h _) hu
  have htiles (u : State) (hu : u.MemWf) (l : List (BitVec 8)) : (l.foldl State.discardTile u).MemWf := foldl_memWf (fun _ _ h => discardTile_memWf h _) hu
  exact hend _ (memWf_with_gran (hdrop _ (foldl_memWf (fun _ _ h => finishLaunch_memWf h ..)
    (memWf_with_queues (dropAllRefs_memWf (htiles _ h _) _) _)) _) _) ..

theorem stopGroup_memWf {s : State} (wf : s.MemWf) (g) : (s.stopGroup g).MemWf :=
  foldl_memWf (fun _ _ hu => modTile_memWf hu ..) (modTile_memWf wf ..)

theorem takeCause_memWf {s : State} (wf : s.MemWf) (g st r) : (s.takeCause g st r).MemWf :=
  memWf_ite (setTile_memWf (memWf_ite (raiseErr_memWf wf ..) wf) ..) (memWf_ite (modCtx_memWf (stopGroup_memWf (setTile_memWf
    (raiseErr_memWf wf ..) ..) ..) ..) (endContext_memWf (stopGroup_memWf (setTile_memWf (raiseErr_memWf wf ..) ..) ..) ..))

theorem raiseIf_leads {s : State} (wf : s.MemWf) {b c} {P : Unit → Prop} (hP : P ()) : Leads P (raiseIf b s c) :=
  leads_ite (leads_trapIn.mpr wf) (leads_ok.mpr hP)

theorem waitIf_leads {s : State} (wf : s.MemWf) {b} {P : Unit → Prop} (hP : P ()) : Leads P (waitIf b s) :=
  leads_ite (leads_waitIn.mpr wf) (leads_ok.mpr hP)

theorem needClass_leads {s : State} (wf : s.MemWf) {g n} {P : Unit → Prop} (hP : P ()) : Leads P (needClass s g n) := raiseIf_leads wf hP

end Sys2Proof.Machine
end

section
set_option Elab.async false
/-! PROOFS. Storage stays canonical: memory, operands, issue and the scalar accesses to memory. -/
namespace Sys2Proof.Machine

/-! ### Memory -/

theorem l1Drop_memWf {s : State} (wf : s.MemWf) (g l) : (s.l1Drop g l).MemWf := by
  unfold State.l1Drop
  dsimp only
  with_reducible exact modTile_memWf (memWf_ite wf (post_memWf wf ..)) ..

theorem l1Room_leads {s : State} (wf : s.MemWf) {g line} {P : State → Prop} (hP : ∀ t : State, t.MemWf → P t) :
    Leads P (s.l1Room g line) := by
  unfold State.l1Room
  dsimp only
  with_reducible refine leads_ite (leads_ok.mpr (hP _ wf)) ?_
  split
  · with_reducible exact leads_ok.mpr (hP _ wf)
  · with_reducible exact leads_ite (leads_waitIn.mpr wf) (leads_ok.mpr (hP _ (l1Drop_memWf wf ..)))

theorem homeFill_memWf {s : State} (h : s.MemWf) (coh line g m) : (s.homeFill coh line g m).1.MemWf := by
  have hown := homeConflict_memWf h coh line g
  unfold State.homeFill
  split
  · exact h
  · dsimp only
    split
    · exact setHolders_memWf hown ..
    · exact setHolders_memWf (recall_memWf hown ..) ..

theorem homeClaim_memWf {s : State} (h : s.MemWf) (coh line g m) : (s.homeClaim coh line g m).1.MemWf := by
  have hown := homeConflict_memWf h coh line g
  unfold State.homeClaim
  dsimp only
  split_ifs
  · exact setHolders_memWf hown ..
  · exact setHolders_memWf (clearValid_memWf (recall_memWf hown ..) ..) ..

theorem l1Refresh_memWf {s : State} (wf : s.MemWf) (g key coh line valid cm lruNew) :
    (s.l1Refresh g key coh line valid cm lruNew).MemWf := wf

theorem needEntry_leads {s : State} (wf : s.MemWf) {g} {P : Unit → Prop} (hP : P ()) : Leads P (s.needEntry g) := by
  unfold State.needEntry
  with_reducible exact leads_ite (leads_waitIn.mpr (modTile_memWf wf ..)) (leads_ok.mpr hP)

theorem freeze_memWf {s : State} (wf : s.MemWf) (g ws) : (s.freeze g ws).MemWf := wf

theorem xlA_leads {s : State} (h : s.MemWf) {g va a} {P} (hP : ∀ x, P x) : Leads P (s.xlA g va a) := by
  unfold State.xlA
  dsimp only
  split
  · exact hP _
  · exact h
  · exact freeze_memWf h ..
  · exact modTile_memWf h ..

theorem xlA2_leads {s : State} (wf : s.MemWf) {g va n a} {P : Unit → Prop} (hP : P ()) : Leads P (s.xlA2 g va n a) := by
  unfold State.xlA2
  dsimp only
  with_reducible refine leads_ite (.map <| xlA_leads wf fun _ => hP) ?_
  split
  · with_reducible exact leads_trapIn.mpr wf
  · with_reducible exact leads_waitIn.mpr (freeze_memWf wf ..)
  · with_reducible exact leads_waitIn.mpr (freeze_memWf wf ..)
  · with_reducible exact leads_waitIn.mpr (modTile_memWf wf ..)
  · with_reducible exact leads_waitIn.mpr (modTile_memWf wf ..)
  · with_reducible exact leads_trapIn.mpr wf
  · with_reducible exact leads_waitIn.mpr (freeze_memWf wf ..)
  · with_reducible exact leads_waitIn.mpr (modTile_memWf wf ..)
  · with_reducible exact leads_ok.mpr hP

theorem dirtyBack_memWf {s : State} (wf : s.MemWf) (g) : (s.dirtyBack g).MemWf := by
  unfold State.dirtyBack
  dsimp only
  with_reducible exact modTile_memWf (foldl_memWf (fun u _ hu => post_memWf hu ..) wf) ..

theorem epochStep_memWf {s : State} (wf : s.MemWf) (d) : (s.epochStep d).MemWf := wf

theorem releaseNow_memWf {s : State} (h : s.MemWf) (g c) : (s.releaseNow g c).MemWf := by
  have hsent := drainChan_memWf (leave_memWf (dirtyBack_memWf h g) g)
  exact memWf_ite (epochStep_memWf (hsent ..) _) (hsent ..)

theorem performReleases_memWf {s : State} (wf : s.MemWf) (g) : (s.performReleases g).MemWf := by
  unfold State.performReleases
  with_reducible exact modTile_memWf (foldl_memWf (fun u _ hu => releaseNow_memWf hu ..) wf) ..

theorem settleRelease_leads {s : State} (wf : s.MemWf) {g} {P : State → Prop} (hP : ∀ t : State, t.MemWf → P t) :
    Leads P (s.settleRelease g) := by
  unfold State.settleRelease
  dsimp only
  with_reducible
    exact leads_ite (leads_ok.mpr (hP _ wf)) (leads_ite (leads_ok.mpr (hP _ (performReleases_memWf wf ..))) (leads_waitIn.mpr wf))

theorem release_memWf {s : State} (h : s.MemWf) (g c) : (s.release g c).MemWf :=
  memWf_ite (leave_memWf h g) (memWf_ite (releaseNow_memWf (performReleases_memWf h g) ..) (modTile_memWf h ..))

theorem acquire_memWf {s : State} (wf : s.MemWf) (g scope) : (s.acquire g scope).MemWf := by
  unfold State.acquire
  dsimp only
  split
  · with_reducible exact wf
  · with_reducible exact modTile_memWf (setDie_memWf wf ..) ..
  · with_reducible exact modTile_memWf wf ..

theorem reachHome_leads {s : State} (wf : s.MemWf) {g line} {P : State → Prop} (hP : ∀ t : State, t.MemWf → P t) :
    Leads P (s.reachHome g line) := by
  unfold State.reachHome
  dsimp only
  with_reducible exact leads_ite (leads_ok.mpr (hP _ (arrive_memWf wf ..))) (leads_waitIn.mpr (modTile_memWf (arrive_memWf wf ..) ..))

theorem loadAt_leads {s : State} (h : s.MemWf) {g pa leaf n pol} {P} (hP : ∀ a b (t : State), t.MemWf → P (a, b, t)) :
    Leads P (s.loadAt g pa leaf n pol) := by
  have hfill (u : State) (hu : u.MemWf) (coh line m) := homeFill_memWf hu coh line g m
  unfold State.loadAt
  dsimp only
  split
  · split
    · exact leads_ite (hP _ _ _ (memWf_with_fresh (modTile_memWf h ..) _)) (hP _ _ _ (modTile_memWf h ..))
    · exact leads_ite (hP _ _ _ h) (.bind <| l1Room_leads (memWf_with_fresh h _) fun u hu => hP _ _ _ (modTile_memWf hu ..))
  · split
    · with_reducible refine Leads.bind (waitIf_leads h (Leads.bind (needEntry_leads h (Leads.bind (reachHome_leads ?_ ?_)))))
      · split
        · exact l1Drop_memWf h ..
        · exact h
      · exact fun u hu => leads_ok.mpr (hP _ _ _ (noteOv_memWf (memWf_ite hu (homeConflict_memWf hu ..)) ..))
    · split
      · with_reducible apply leads_ite
        · exact hP _ _ _ (modTile_memWf h ..)
        · with_reducible refine Leads.bind (waitIf_leads h (Leads.bind (needEntry_leads h (Leads.bind (reachHome_leads h fun u hu => ?_)))))
          exact leads_ok.mpr (hP _ _ _ (noteOv_memWf (modTile_memWf (l1Refresh_memWf (hfill u hu _ _ _) ..) ..) ..))
      · with_reducible refine Leads.bind (needEntry_leads h (Leads.bind (l1Room_leads h fun u hu => Leads.bind (reachHome_leads hu fun v hv => ?_))))
        exact leads_ok.mpr (hP _ _ _ (noteOv_memWf (modTile_memWf (l1Refresh_memWf (hfill v hv _ _ _) ..) ..) ..))

theorem storeAt_leads {s : State} (h : s.MemWf) {g pa leaf m v p pol} {P : State → Prop} (hP : ∀ t : State, t.MemWf → P t) :
    Leads P (s.storeAt g pa leaf m v p pol) := by
  unfold State.storeAt
  dsimp only
  split
  · exact .map <| needEntry_leads h (hP _ (post_memWf (modTile_memWf h ..) ..))
  · split
    · refine .map ?_
      split
      · exact hP _ (modTile_memWf h ..)
      · exact needEntry_leads h (hP _ (modTile_memWf (modTile_memWf h ..) ..))
    · exact .bind <| needEntry_leads h <| .bind <| l1Room_leads h fun u hu => hP _ (modTile_memWf hu ..)
  · refine .bind <| waitIf_leads h <| .bind <| needEntry_leads h ?_
    split
    · exact hP _ (post_memWf (l1Drop_memWf h ..) ..)
    · exact hP _ (post_memWf h ..)

theorem answerClaim_memWf {s : State} (h : s.MemWf) (g c) : (s.answerClaim g c).MemWf := by
  unfold State.answerClaim
  split
  · exact h
  · exact noteOv_memWf (l1Refresh_memWf (homeClaim_memWf (arrive_memWf h ..) ..) ..) ..

theorem answerAll_memWf {s : State} (h : s.MemWf) (g) : (s.answerAll g).MemWf :=
  modTile_memWf (foldl_memWf (fun _ _ h => answerClaim_memWf (foldl_memWf (fun _ _ h => drainChan_memWf h ..) h) ..) h) ..

/-! ### Operands -/

theorem readOpen_memWf {s : State} (h : s.MemWf) {w} (m) (v : BitVec w) : (s.readOpen m v).2.MemWf := by
  unfold State.readOpen
  split <;> exact h

theorem rdS_memWf {s : State} (h : s.MemWf) (g st r) : (s.rdS g st r).2.MemWf := by
  unfold State.rdS
  split
  · exact h
  · split
    · exact h
    · exact readOpen_memWf h ..

theorem wrS_memWf {s : State} (wf : s.MemWf) (g st r v p L) : (s.wrS g st r v p L).MemWf := by
  unfold State.wrS
  split
  · with_reducible exact modTile_memWf wf ..
  · with_reducible exact memWf_ite wf (modTile_memWf wf ..)

theorem rdK_memWf {s : State} (h : s.MemWf) (g r) : (s.rdK g r).2.MemWf := by
  unfold State.rdK
  split
  · exact h
  · exact readOpen_memWf h ..

theorem wrK_memWf {s : State} (wf : s.MemWf) (g r mask val L) : (s.wrK g r mask val L).MemWf := by
  unfold State.wrK
  with_reducible exact memWf_ite wf (modTile_memWf wf ..)

theorem rdV_memWf {s : State} (h : s.MemWf) (g r) : (s.rdV g r).2.MemWf := by
  unfold State.rdV
  dsimp only
  split
  · exact free_memWf (setTile_memWf h ..) 2048
  · exact readOpen_memWf (setTile_memWf h ..) ..

theorem wrV_memWf {s : State} (wf : s.MemWf) (g r mask val pmask pval L) : (s.wrV g r mask val pmask pval L).MemWf := wf

theorem useUnit_leads {s : State} (wf : s.MemWf) {g st u interval} {P : State → Prop} (hP : ∀ t : State, t.MemWf → P t) :
    Leads P (s.useUnit g st u interval) := by
  unfold State.useUnit
  dsimp only
  split
  · with_reducible exact leads_ok.mpr (hP _ wf)
  · with_reducible exact leads_ite (leads_trapIn.mpr wf) (leads_ok.mpr (hP _ (setTile_memWf wf ..)))

theorem popQ_leads {s : State} (wf : s.MemWf) {g q P} (hP : ∀ a (t : State), t.MemWf → P (a, t)) : Leads P (s.popQ g q) := by
  unfold State.popQ
  split
  · with_reducible exact leads_waitIn.mpr wf
  · with_reducible exact leads_ok.mpr (hP _ _ (modTile_memWf wf ..))

theorem pushQ_leads {s : State} (wf : s.MemWf) {g q e} {P : State → Prop} (hP : ∀ t : State, t.MemWf → P t) : Leads P (s.pushQ g q e) := by
  unfold State.pushQ
  dsimp only
  with_reducible exact leads_ite (leads_waitIn.mpr wf) (leads_ok.mpr (hP _ (modTile_memWf wf ..)))

/-! ### Issue -/

theorem issued_memWf {s : State} (wf : s.MemWf) (g st) : (s.issued g st).MemWf := wf

theorem stalled_memWf {s : State} (wf : s.MemWf) (g st why) : (s.stalled g st why).MemWf := wf

theorem settle_memWf {r : Res (State × Option Pc)} (h : Leads (fun x => x.1.MemWf) r) (g st n) : (settle g st n r).MemWf := by
  unfold settle
  split
  · exact issued_memWf (modTile_memWf h ..) ..
  · exact issued_memWf (modTile_memWf h ..) ..
  · exact stalled_memWf h ..
  · exact takeCause_memWf (modTile_memWf h ..) ..

theorem openIssue_memWf {s : State} (wf : s.MemWf) (g st) : (s.openIssue g st).MemWf := by
  unfold State.openIssue
  split
  · with_reducible exact wf
  · with_reducible exact modTile_memWf wf ..

theorem issueJ_nextWf {s : State} (h : s.MemWf) {w n body} (hbody : ∀ g st (u : State), u.MemWf → Leads (fun x => x.1.MemWf) (body g st u)) :
    NextWf (issueJ w n body s) := by
  unfold issueJ
  split
  · have hopen := openIssue_memWf h
    dsimp only
    split
    · exact settle_memWf (hbody _ _ _ (hopen ..)) ..
    · exact settle_memWf (r := trapIn _ _) (hopen ..) ..
  · trivial

theorem issue_nextWf {s : State} (h : s.MemWf) {w n body} (hbody : ∀ g st (u : State), u.MemWf → Leads State.MemWf (body g st u)) :
    NextWf (issue w n body s) :=
  issueJ_nextWf h fun g st u hu => leads_map.mpr (hbody g st u hu)

theorem keepUnits_leads {α : Type} {P : α → Prop} {r : Res α} (h : Leads P r) (g u) : Leads P (keepUnits g u r) := by
  unfold keepUnits
  split
  · exact memWf_ite (by exact h) (modTile_memWf h ..)
  · exact h

theorem event_nextWf {s : State} {f : State → State} (h : (f s).MemWf) : NextWf (event f s) := h

theorem powered_nextWf {s : State} (h : s.MemWf) {f : State → State} (hf : (f s).MemWf) : NextWf (powered f s) :=
  event_nextWf (memWf_ite h hf)

/-! ### Flags -/

theorem rdF_leads {s : State} (wf : s.MemWf) {g f P} (hP : ∀ a, P a) : Leads P (s.rdF g f) := by
  unfold State.rdF
  dsimp only
  with_reducible exact leads_ite (leads_waitIn.mpr wf) (leads_ok.mpr (hP ..))

/-! ### MemOps -/

theorem alignTo_leads {s : State} (wf : s.MemWf) {ea n} {P : Unit → Prop} (hP : P ()) : Leads P (alignTo s ea n) := by
  unfold alignTo
  with_reducible exact leads_ite (leads_ok.mpr hP) (leads_trapIn.mpr wf)

theorem eaOf_leads {s : State} (wf : s.MemWf) {g b o P} (hP : ∀ a, P a) : Leads P (s.eaOf g b o) := by
  unfold State.eaOf
  dsimp only
  with_reducible exact leads_ite (leads_trapIn.mpr wf) (leads_ok.mpr (hP ..))

theorem touchTlb_memWf {s : State} (wf : s.MemWf) (g va) : (s.touchTlb g va).MemWf := wf

theorem scalarLoad_nextWf {s : State} (h : s.MemWf) (n sgn d b p o) : NextWf (scalarLoad n sgn d b p o s) :=
  issue_nextWf h fun _ _ _ hu => .bind <| eaOf_leads hu fun _ => .bind <| alignTo_leads hu <| .bind <| xlA_leads hu fun _ => .bind <|
    loadAt_leads (touchTlb_memWf hu ..) fun _ _ _ ht => wrS_memWf ht ..

theorem scalarStore_nextWf {s : State} (h : s.MemWf) (n d b p o) : NextWf (scalarStore n d b p o s) :=
  issue_nextWf h fun _ _ _ hu => .bind <| eaOf_leads hu fun _ => .bind <| alignTo_leads hu <| .bind <| settleRelease_leads hu fun _ ht =>
    .bind <| xlA_leads ht fun _ => storeAt_leads (touchTlb_memWf ht ..) fun _ h => h

theorem rdLine_leads {s : State} (h : s.MemWf) {line key} {P} (hP : ∀ a b (t : State), t.MemWf → P (a, b, t)) :
    Leads P (let d := s.rdLine key line; .ok (d.1, d.2, s)) :=
  hP _ _ _ h
theorem atomicLine_leads {s : State} (h : s.MemWf) {g pa leaf m} {P} (hP : ∀ a b (t : State), t.MemWf → P (a, b, t)) :
    Leads P (s.atomicLine g pa leaf m) := by
  unfold State.atomicLine
  dsimp only
  with_reducible refine Leads.bind (waitIf_leads h (Leads.bind (reachHome_leads ?_ fun v hv => rdLine_leads (recall_memWf (homeConflict_memWf hv _ _ _) _ _ _) hP)))
  split
  · exact l1Drop_memWf h ..
  · exact h

theorem releaseFirst_leads {s : State} (h : s.MemWf) {g c} {P : State → Prop} (hP : ∀ t : State, t.MemWf → P t) :
    Leads P (s.releaseFirst g c) :=
  leads_ite (hP _ h) (leads_ite h (hP _ (release_memWf h ..)))

theorem atomicWrite_memWf {s : State} (h : s.MemWf) {b : Bool} {ctx key line m v vc g d old} : State.MemWf (((if b then
    (s.landWrite ctx key line m v false vc).clearValid line none m else s).noteOv g line).modTile g fun u => u.wrA d old false) :=
  modTile_memWf (noteOv_memWf (memWf_ite (clearValid_memWf (landWrite_memWf h ..) ..) h) ..) ..
theorem atomic_nextWf {s : State} (h : s.MemWf) (f d a t k c z) : NextWf (atomic f d a t k c z s) := by
  refine issue_nextWf h fun g _ u hu => .bind <| eaOf_leads hu fun _ => .bind <| alignTo_leads hu <| .bind <| settleRelease_leads hu fun v hv =>
    .bind <| xlA_leads hv fun _ => .bind <| needEntry_leads (touchTlb_memWf hv ..) ?_
  dsimp only
  with_reducible apply leads_ite
  · with_reducible refine Leads.bind (releaseFirst_leads (touchTlb_memWf hv _ _) fun w hw => Leads.bind (atomicLine_leads hw fun _ _ x hx => ?_))
    exact leads_ite (leads_trapIn.mpr (modTile_memWf hx ..)) (memWf_ite (acquire_memWf (atomicWrite_memWf hx) ..) (atomicWrite_memWf hx))
  · with_reducible refine Leads.bind (leads_ok.mpr (Leads.bind (atomicLine_leads (touchTlb_memWf hv _ _) fun _ _ x hx => ?_)))
    exact leads_ite (leads_trapIn.mpr (modTile_memWf hx ..)) (memWf_ite (acquire_memWf (atomicWrite_memWf hx) ..) (atomicWrite_memWf hx))

theorem fillLines_leads (g ea p n) {i : Nat} {s : State} (h : s.MemWf) {P} (hP : ∀ a b (t : State), t.MemWf → P (a, b, t)) :
    Leads P (fillLines g ea p n i s) := by
  induction n generalizing i s P with
  | zero => exact hP _ _ _ h
  | succ n ih =>
    unfold fillLines
    refine .bind <| xlA_leads h fun _ => .bind <| loadAt_leads (touchTlb_memWf h ..) fun _ _ t ht => .bind <| ih ht fun _ _ _ hu => hP _ _ _ hu

theorem execQfill_nextWf {s : State} (h : s.MemWf) (b q p o) : NextWf (execQfill b q p o s) :=
  issue_nextWf h fun _ _ _ hu => leads_ite hu <| .bind <| eaOf_leads hu fun _ => .bind <| alignTo_leads hu <| .bind <| xlA2_leads hu <| .bind <|
    fillLines_leads _ _ _ _ hu fun _ _ _ ht => pushQ_leads ht fun _ h => h

theorem storeLines_leads (g ea p e n) {i : Nat} {s : State} (h : s.MemWf) {P : State → Prop} (hP : ∀ t : State, t.MemWf → P t) :
    Leads P (storeLines g ea p e n i s) := by
  induction n generalizing i s with
  | zero => exact hP _ h
  | succ n ih =>
    unfold storeLines
    refine .bind <| xlA_leads h fun _ => .bind <| storeAt_leads (touchTlb_memWf h ..) fun _ ht => ih ht

theorem execQstore_nextWf {s : State} (h : s.MemWf) (b q p o) : NextWf (execQstore b q p o s) :=
  issue_nextWf h fun _ _ _ hu => .bind <| popQ_leads hu fun _ _ _ => .bind <| eaOf_leads hu fun _ => .bind <| alignTo_leads hu <| .bind <|
    settleRelease_leads hu fun _ hv => .bind <| xlA2_leads hv <| .bind <| waitIf_leads hv <| .bind <|
    storeLines_leads _ _ _ _ _ hv fun _ ht => modTile_memWf ht ..

theorem execQpopa_nextWf {s : State} (h : s.MemWf) (d q) : NextWf (execQpopa d q s) :=
  issue_nextWf h fun _ _ _ hu => .bind <| popQ_leads hu fun _ _ ht => wrS_memWf ht ..

theorem execQbpush_nextWf {s : State} (h : s.MemWf) (f) : NextWf (execQbpush f s) :=
  issue_nextWf h fun _ _ _ hu => .bind <| rdF_leads hu fun _ => leads_ite hu (modTile_memWf hu ..)

theorem fenceA_leads {s : State} (h : s.MemWf) {g k c} {P : State → Prop} (hP : ∀ t : State, t.MemWf → P t) :
    Leads P (s.fenceA g k c) := by
  unfold State.fenceA
  split
  · exact hP _ (release_memWf h ..)
  · exact hP _ (acquire_memWf h ..)
  · exact hP _ (acquire_memWf (release_memWf h ..) ..)
  · exact .bind <| releaseFirst_leads h fun _ ht => hP _ (drainDie_memWf (acquire_memWf ht ..) _)

theorem execFence_nextWf {s : State} (h : s.MemWf) (k c) : NextWf (execFence k c s) :=
  issue_nextWf h fun _ st _ hu => match st with
    | .a => fenceA_leads hu fun _ h => h
    | .x => modTile_memWf hu ..

end Sys2Proof.Machine
end

section
set_option Elab.async false
/-! PROOFS. Storage stays canonical: recipes and the vector unit. -/
namespace Sys2Proof.Machine

/-! ### Recipes -/

theorem microV_memWf {s : State} (wf : s.MemWf) (g e r) : (microV s g e r).2.MemWf := by
  unfold microV
  split
  · with_reducible exact wf
  · with_reducible exact rdV_memWf wf ..

theorem microK_memWf {s : State} (wf : s.MemWf) (g e r) : (microK s g e r).2.MemWf := by
  unfold microK
  split
  · with_reducible exact wf
  · with_reducible exact rdK_memWf wf ..

theorem microEval_leads {s : State} (wf : s.MemWf) {g} {rm} {ftz} {e} {i} {P} (hP : ∀ a (t : State), t.MemWf → P (a, t)) :
    Leads P (microEval s g rm ftz e i) := by
  have hV (r) := microV_memWf wf g e r
  have hVV (a b) := microV_memWf (hV a) g e b
  have hVVV (a b c) := microV_memWf (hVV a b) g e c
  have hVK (a m) := microK_memWf (hV a) g e m
  have hVVK (a b m) := microK_memWf (hVV a b) g e m
  have hX (x) := rdS_memWf wf g .x x
  have hVX (a x) := rdS_memWf (hV a) g .x x
  have hXK (x m) := microK_memWf (hX x) g e m
  unfold microEval
  dsimp only
  split <;> simp [State.MemWf, hP, wf, hVV, hVVV, hVK, hVVK, hX, hVX]
  iterate 3 split <;> simp [State.MemWf, hP, wf, hVVK]
  · split
    · exact hP _ _ (memWf_ite (hVV ..) (hV ..))
    · exact hP _ _ wf
  · split_ifs <;> simp [State.MemWf, hP, wf, hXK]

theorem microRun_leads {g rm ftz is e} {s : State} (wf : s.MemWf) {P} (hP : ∀ a (t : State), t.MemWf → P (a, t)) :
    Leads P (microRun g rm ftz is e s) := by
  induction is generalizing e s with
  | nil => exact hP _ _ wf
  | cons i r ih => exact leads_bind.mpr (microEval_leads wf fun _ _ ht => ih ht)

theorem replay_leads {g ex n r} {s : State} (wf : s.MemWf) {P : State → Prop} (hP : ∀ t : State, t.MemWf → P t) :
    Leads P (replay g ex n r s) := by
  refine Leads.mono ?_ hP
  induction n generalizing ex r s with
  | zero => exact wf
  | succ n ih =>
    unfold replay
    dsimp only
    split
    · refine leads_bind.mpr (foldl_leads (fun _ _ hu => ih hu) wf fun u hu => ?_)
      split
      · exact hu
      · next t' _ =>
        have hrun (is rm ftz f) := microRun_leads (g := g) (rm := rm) (ftz := ftz) (is := is) (e := { v := [], k := [] })
          (P := fun x => x.2.MemWf) (setTile_memWf hu g f) fun _ _ ht => ht
        split
        · exact modTile_memWf hu ..
        · next e => exact (hrun ..).of_eq_error e
        · next e => exact modTile_memWf ((hrun ..).of_eq_ok e) ..
    · exact wf

theorem needV_leads {s : State} (wf : s.MemWf) {g} {rs} {P : State → Prop} (hP : ∀ t : State, t.MemWf → P t) : Leads P (s.needV g rs) :=
  foldl_leads (fun _ _ hu => replay_leads hu fun _ ht => ht) wf hP

theorem materialise_leads {s : State} (wf : s.MemWf) {g r} {P : State → Prop} (hP : ∀ t : State, t.MemWf → P t) :
    Leads P (materialise g r s) :=
  leads_bind.mpr (replay_leads wf fun _ ht => hP _ (modTile_memWf ht ..))

theorem keepNames_leads {α : Type} {P : α → Prop} {s : State} {g r} (h : Leads P r) : Leads P (keepNames s g r) := by
  unfold keepNames
  split
  · exact leads_ite h (modTile_memWf h ..)
  · exact h

theorem freeReg_leads {s : State} (wf : s.MemWf) {g} {x} {P : State → Prop} (hP : ∀ t : State, t.MemWf → P t) : Leads P (s.freeReg g x) :=
  keepNames_leads (foldl_leads (fun _ _ hu => materialise_leads hu fun _ ht => ht) wf hP)

theorem freeS_leads {s : State} (wf : s.MemWf) {g st r} {P : State → Prop} (hP : ∀ t : State, t.MemWf → P t) : Leads P (s.freeS g st r) :=
  match st with
  | .a => hP _ wf
  | .x => leads_ite (hP _ wf) (freeReg_leads wf hP)

theorem freeK_leads {s : State} (wf : s.MemWf) {g r} {P : State → Prop} (hP : ∀ t : State, t.MemWf → P t) : Leads P (s.freeK g r) :=
  leads_ite (leads_ok.mpr (hP _ wf)) (freeReg_leads wf fun _ hu => hP _ hu)

theorem takeV_leads {s : State} (wf : s.MemWf) {g ex r} {P : State → Prop} (hP : ∀ t : State, t.MemWf → P t) :
    Leads P (s.takeV g ex r) := by
  unfold State.takeV
  dsimp only
  split
  · with_reducible exact leads_trapIn.mpr wf
  · with_reducible exact leads_ite (leads_ok.mpr (hP _ (setTile_memWf (free_memWf wf ..) ..))) (leads_ok.mpr (hP _ (setTile_memWf wf ..)))

theorem takeSlots_leads {s : State} (wf : s.MemWf) {g rs} {P : State → Prop} (hP : ∀ t : State, t.MemWf → P t) :
    Leads P (s.takeSlots g rs) := by
  unfold State.takeSlots
  split
  · next e => exact hP _ ((foldl_leads (fun _ _ hu => takeV_leads hu fun _ ht => ht) wf fun _ ht => ht).of_eq_ok e)
  · exact wf

theorem openDst_leads {s : State} (wf : s.MemWf) {g} {ds} {keeps} {P : State → Prop} (hP : ∀ t : State, t.MemWf → P t) :
    Leads P (s.openDst g ds keeps) :=
  leads_bind.mpr (foldl_leads (fun _ _ hu => freeReg_leads hu fun _ ht => ht) wf fun _ ht => leads_ite (needV_leads ht hP) (hP _ ht))

/-! ### Vector -/

theorem useUnit?_leads {s : State} (wf : s.MemWf) {g u} {P : State → Prop} (hP : ∀ t : State, t.MemWf → P t) :
    Leads P (s.useUnit? g u) := by
  unfold State.useUnit?
  split
  · with_reducible exact leads_ok.mpr (hP _ wf)
  · with_reducible exact useUnit_leads wf fun u hu => hP _ hu

theorem issueV_nextWf {s : State} (wf : s.MemWf) {body} (hbody : ∀ g st (u : State), u.MemWf → Leads State.MemWf (body g st u)) :
    NextWf (issueV body s) :=
  issue_nextWf wf fun _ _ _ hu => leads_bind.mpr (needClass_leads hu (keepNames_leads (keepUnits_leads (hbody _ _ _ hu) ..)))

theorem putV_leads {s : State} (wf : s.MemWf) {g} {d} {w} {fl} {L} {P : State → Prop} (hP : ∀ t : State, t.MemWf → P t) :
    Leads P (s.putV g d w fl L) :=
  leads_bind.mpr (takeSlots_leads wf fun _ ht => hP _ (modTile_memWf (wrV_memWf ht ..) ..))

theorem vArith_nextWf {s : State} (wf : s.MemWf) (op y d a b m) : NextWf (vArith op y d a b m s) :=
  issueV_nextWf wf fun _ _ _ hu => .bind <| useUnit?_leads hu fun _ hv => .bind <| openDst_leads hv fun _ hw => .bind <|
    needV_leads hw fun _ hx => putV_leads (rdK_memWf (memWf_ite_snd (rdV_memWf (memWf_ite_snd (rdV_memWf hx ..) (rdV_memWf (rdV_memWf
    hx ..) ..)) ..) (memWf_ite_snd (rdV_memWf hx ..) (rdV_memWf (rdV_memWf hx ..) ..))) ..) fun _ hz => hz

theorem vCompare_nextWf {s : State} (wf : s.MemWf) (c y d a b m) : NextWf (vCompare c y d a b m s) := by
  unfold vCompare
  dsimp only
  with_reducible refine issueV_nextWf wf fun _ _ u hu => .bind <| useUnit?_leads hu fun v hv => .bind <| needV_leads hv fun w hw => ?_
  split
  · with_reducible exact leads_trapIn.mpr hw
  · with_reducible
      exact .bind <| freeK_leads (rdK_memWf (rdV_memWf (rdV_memWf hw ..) ..) ..) fun x hx => leads_ok.mpr (modTile_memWf (wrK_memWf hx ..)
        ..)

theorem vReduce_nextWf {s : State} (wf : s.MemWf) (o withC y d a m) : NextWf (vReduce o withC y d a m s) :=
  issueV_nextWf wf fun _ _ _ hu => .bind <| useUnit?_leads hu fun _ hv => .bind <| openDst_leads hv fun _ hw => .bind <|
    needV_leads hw fun _ hx => putV_leads (rdK_memWf (memWf_ite_snd (rdV_memWf (rdV_memWf hx ..) ..) (rdV_memWf hx ..)) ..) fun _ hz
    => hz

theorem execVfma_nextWf {s : State} (wf : s.MemWf) (d a b c f) : NextWf (execVfma d a b c f s) := by
  unfold execVfma
  dsimp only
  with_reducible
    exact issueV_nextWf wf fun _ _ u hu => .bind <| openDst_leads hu fun v hv => .bind <| needV_leads hv fun w hw => putV_leads
      (rdV_memWf (rdV_memWf (rdV_memWf hw ..) ..) ..) fun x hx => hx

theorem rdGroup_memWf {g rs} {s : State} (wf : s.MemWf) : (State.rdGroup g rs s).2.MemWf := by
  induction rs generalizing s with
  | nil => exact wf
  | cons r rs ih => exact ih (rdV_memWf wf ..)

theorem wrGroup_memWf {g step L rs} {s : State} (wf : s.MemWf) : (State.wrGroup g step L rs s).MemWf := by
  induction rs generalizing L s with
  | nil => exact wf
  | cons x rs ih => exact ih (wrV_memWf wf ..)

theorem execVcvt_nextWf {s : State} (wf : s.MemWf) (t y d a b) : NextWf (execVcvt t y d a b s) := by
  unfold execVcvt
  dsimp only
  with_reducible
    refine issueV_nextWf wf fun _ _ u hu => .bind <| useUnit?_leads hu fun v hv => .bind <| openDst_leads hv fun w hw => .bind <|
      needV_leads hw fun x hx => .bind <| takeSlots_leads ?_ fun z hz => leads_ok.mpr (modTile_memWf (wrGroup_memWf hz) ..)
  split
  · with_reducible exact rdGroup_memWf (rdGroup_memWf hx)
  · with_reducible exact rdGroup_memWf hx

theorem execVperm_nextWf {s : State} (wf : s.MemWf) (y d a b) : NextWf (execVperm y d a b s) :=
  issueV_nextWf wf fun _ _ _ hu => .bind <| useUnit?_leads hu fun _ hv => .bind <| openDst_leads hv fun _ hw => .bind <|
    needV_leads hw fun _ hx => putV_leads (rdV_memWf (rdV_memWf hx ..) ..) fun _ hz => hz

theorem execVbcstx_nextWf {s : State} (wf : s.MemWf) (y d x) : NextWf (execVbcstx y d x s) :=
  issueV_nextWf wf fun _ _ _ hu => .bind <| useUnit?_leads hu fun _ hv => .bind <| openDst_leads hv fun _ hw => putV_leads
    (rdS_memWf hw ..) fun _ hz => hz

theorem execVbcste_nextWf {s : State} (wf : s.MemWf) (y d a x) : NextWf (execVbcste y d a x s) :=
  issueV_nextWf wf fun _ _ _ hu => .bind <| useUnit?_leads hu fun _ hv => .bind <| openDst_leads hv fun _ hw => .bind <|
    needV_leads hw fun _ hz => putV_leads (rdS_memWf (rdV_memWf hz ..) ..) fun _ hu1 => hu1

theorem vPack_nextWf {s : State} (wf : s.MemWf) (f d a k) : NextWf (vPack f d a k s) :=
  issueV_nextWf wf fun _ _ _ hu => .bind <| useUnit?_leads hu fun _ hv => .bind <| openDst_leads hv fun _ hw => .bind <|
    needV_leads hw fun _ hx => putV_leads (rdK_memWf (rdV_memWf hx ..) ..) fun _ hy => hy

theorem maskOp_nextWf {s : State} (wf : s.MemWf) (f d a b) : NextWf (maskOp f d a b s) :=
  issueV_nextWf wf fun _ _ _ hu => .bind <| useUnit?_leads hu fun _ hv => .bind <| freeK_leads hv fun _ hw => leads_ok.mpr
    (wrK_memWf (rdK_memWf (rdK_memWf hw ..) ..) ..)

theorem execKmovx_nextWf {s : State} (wf : s.MemWf) (d x) : NextWf (execKmovx d x s) :=
  issueV_nextWf wf fun _ _ _ hu => .bind <| raiseIf_leads hu (.bind <| useUnit?_leads (rdS_memWf hu ..) fun _ hv => .bind <|
    freeK_leads hv fun _ hw => leads_ok.mpr (wrK_memWf hw ..))

theorem execXmovk_nextWf {s : State} (wf : s.MemWf) (d a) : NextWf (execXmovk d a s) :=
  issueV_nextWf wf fun _ _ _ hu => .bind <| useUnit?_leads hu fun _ hv => .bind <| freeS_leads hv fun _ hw => leads_ok.mpr
    (wrS_memWf (rdK_memWf hw ..) ..)

theorem execVmov_nextWf {s : State} (wf : s.MemWf) (d a m) : NextWf (execVmov d a m s) :=
  issueV_nextWf wf fun _ _ _ hu => .bind <| useUnit?_leads hu fun _ hv => .bind <| openDst_leads hv fun _ hw => .bind <|
    needV_leads hw fun _ hx => putV_leads (rdK_memWf (rdV_memWf hx ..) ..) fun _ hy => hy

theorem xAddr_leads {s : State} (wf : s.MemWf) {l x o n P} (hP : ∀ a, P a) : Leads P (xAddr l x o n s) :=
  leads_ite (leads_trapIn.mpr wf) (leads_ite (leads_trapIn.mpr wf) (leads_ite (leads_trapIn.mpr wf) (leads_ok.mpr (hP ..))))

end Sys2Proof.Machine
end

section
set_option Elab.async false
/-! PROOFS. Storage stays canonical: the engines, the directory's requests and the Saltern. -/
namespace Sys2Proof.Machine

/-! ### Vector -/

theorem vLoad_nextWf {s : State} (wf : s.MemWf) (l d x n3 m o) : NextWf (vLoad l d x n3 m o s) :=
  issueV_nextWf wf fun _ _ _ hu => .bind <| xAddr_leads (modTile_memWf hu ..) fun _ => .bind <| useUnit_leads (rdS_memWf
    (modTile_memWf hu ..) ..) fun _ hv => .bind <| openDst_leads hv fun _ hw => .bind <| takeSlots_leads (rdK_memWf hw ..) fun _ hy =>
    leads_ok.mpr (modTile_memWf (wrGroup_memWf hy) ..)

theorem xStoreLane_memWf {s : State} (wf : s.MemWf) (l g ea v k i) : (xStoreLane l g ea v k s i).MemWf :=
  memWf_ite wf (memWf_ite (memWf_ite (modTile_memWf (wrGran_memWf wf ..) ..) (wrSpad_memWf wf ..)) (foldl_memWf (fun _ _ hu =>
    memWf_ite (modTile_memWf (wrGran_memWf hu ..) ..) (wrSpad_memWf hu ..)) wf))

theorem vStore_nextWf {s : State} (wf : s.MemWf) (l d x n3 m o) : NextWf (vStore l d x n3 m o s) :=
  issueV_nextWf wf fun _ _ _ hu => .bind <| xAddr_leads (modTile_memWf hu ..) fun _ => leads_ite (leads_trapIn.mpr
    (modTile_memWf hu ..)) (.bind <| useUnit_leads (rdS_memWf (modTile_memWf hu ..) ..) fun _ hv => .bind <| needV_leads hv fun _ hw
    => leads_ok.mpr (modTile_memWf (foldl_memWf (fun _ _ hy => foldl_memWf (fun _ _ hz => xStoreLane_memWf hz ..) hy) (rdK_memWf
    (rdGroup_memWf hw) ..)) ..))

theorem execQpopv_nextWf {s : State} (wf : s.MemWf) (v q) : NextWf (execQpopv v q s) :=
  issue_nextWf wf fun _ _ _ hu => .bind <| popQ_leads hu fun _ _ _ => .bind <| openDst_leads hu fun _ hx => .bind <| popQ_leads
    hx fun _ _ _ => .bind <| takeSlots_leads hx fun _ hz => leads_ok.mpr (wrV_memWf (modTile_memWf hz ..) ..)

theorem execQpopx_nextWf {s : State} (wf : s.MemWf) (x q) : NextWf (execQpopx x q s) :=
  issue_nextWf wf fun _ _ _ hu => .bind <| popQ_leads hu fun _ _ _ => .bind <| freeS_leads hu fun _ hw => .bind <| popQ_leads
    hw fun _ _ hy => leads_ok.mpr (wrS_memWf hy ..)

theorem execQpushv_nextWf {s : State} (wf : s.MemWf) (v q) : NextWf (execQpushv v q s) :=
  issue_nextWf wf fun _ _ _ hu => leads_ite (leads_waitIn.mpr hu) (.bind <| needV_leads hu fun _ hw => pushQ_leads (rdV_memWf hw
    ..) fun _ hx => hx)

theorem execQpushx_nextWf {s : State} (wf : s.MemWf) (x q) : NextWf (execQpushx x q s) :=
  issue_nextWf wf fun _ _ _ hu => leads_ite (leads_waitIn.mpr hu) (pushQ_leads (rdS_memWf hu ..) fun _ hv => hv)

/-! ### Engines -/

theorem pushCmd_memWf {s : State} (wf : s.MemWf) (g e c) : (s.pushCmd g e c).MemWf := wf

theorem waitCmd_leads {s : State} (wf : s.MemWf) {g e k} {P : Unit → Prop} (hP : P ()) : Leads P (s.waitCmd g e k) := by
  unfold State.waitCmd
  dsimp only
  with_reducible refine leads_ite (leads_waitIn.mpr wf) ?_
  split
  · with_reducible exact waitIf_leads wf hP
  · with_reducible exact leads_ok.mpr hP

theorem rd3_leads {s : State} (wf : s.MemWf) {g st sa sb sc P} (hP : ∀ a b c (t : State), t.MemWf → P (a, b, c, t)) :
    Leads P (s.rd3 g st sa sb sc) :=
  leads_ite (leads_trapIn.mpr wf) (leads_ok.mpr (hP _ _ _ _ (rdS_memWf (rdS_memWf (rdS_memWf wf ..) ..) ..)))

theorem engIssue_nextWf {s : State} (wf : s.MemWf) (e op k sa sb sc imm) : NextWf (engIssue e op k sa sb sc imm s) :=
  issue_nextWf wf fun _ _ _ hu => .bind <| waitCmd_leads hu (.bind <| rd3_leads hu fun _ _ _ _ hv => leads_ok.mpr (pushCmd_memWf
    hv ..))

theorem acceptCmd_memWf {s : State} (wf : s.MemWf) (g e) : (s.acceptCmd g e).MemWf := by
  unfold State.acceptCmd
  dsimp only
  split
  · with_reducible exact wf
  · with_reducible exact memWf_ite wf (setTile_memWf wf ..)

theorem putCmd_memWf {s : State} (wf : s.MemWf) (g e c) : (s.putCmd g e c).MemWf := wf

theorem settleSpoil_memWf {s : State} (wf : s.MemWf) (g c) : (s.settleSpoil g c).MemWf :=
  foldl_memWf (fun _ _ hu => memWf_ite (modTile_memWf (free_memWf hu ..) ..) hu) wf

theorem finishCmd_memWf {s : State} (wf : s.MemWf) (g e c) : (s.finishCmd g e c).MemWf :=
  settleSpoil_memWf (modTile_memWf (dropHolds_memWf wf ..) ..) ..

theorem haltEngine_memWf {s : State} (wf : s.MemWf) (g e c reason) : (s.haltEngine g e c reason).MemWf :=
  takeCause_memWf (raiseErr_memWf (foldl_memWf (fun _ _ hu => settleSpoil_memWf hu ..) (modTile_memWf (foldl_memWf (fun _ _ hu
    => dropHolds_memWf hu ..) wf) ..)) ..) ..

theorem engineCause_memWf {s : State} (wf : s.MemWf) (g e c r) : (s.engineCause g e c r).MemWf := takeCause_memWf (finishCmd_memWf wf ..) ..

theorem illIf_bleads {s : State} (wf : s.MemWf) {b n} {P : Unit → Prop} (hP : P ()) : BLeads P (illIf b s n) :=
  bleads_ite (bleads_bIll.mpr wf) (bleads_ok.mpr hP)

theorem causeIf_bleads {s : State} (wf : s.MemWf) {b c} {P : Unit → Prop} (hP : P ()) : BLeads P (causeIf b s c) :=
  bleads_ite (bleads_bCause.mpr wf) (bleads_ok.mpr hP)

theorem beatXl_bleads {s : State} (wf : s.MemWf) {g e seq l P} (hP : ∀ a (t : State), t.MemWf → P (a, t)) :
    BLeads P (s.beatXl g e seq l) := by
  unfold State.beatXl
  dsimp only
  split
  · with_reducible exact bleads_ok.mpr (hP _ _ (memWf_ite (foldl_memWf (fun u _ hu => modTile_memWf hu ..) wf) wf))
  · split
    · with_reducible exact bleads_bCause.mpr wf
    · with_reducible exact bleads_bWait.mpr (modTile_memWf wf ..)
    · with_reducible exact bleads_bWait.mpr (freeze_memWf wf ..)

theorem engArrive_memWf {s : State} (wf : s.MemWf) (g pl) : (s.engArrive g pl).MemWf :=
  foldl_memWf (fun _ _ hu => memWf_ite hu (drainChan_memWf hu ..)) wf

theorem engRead_memWf {s : State} (wf : s.MemWf) (g sp addr n pl) : (s.engRead g sp addr n pl).2.MemWf := by
  unfold State.engRead
  dsimp only
  split
  · with_reducible exact memWf_ite (memWf_of_mem_eq wf rfl) wf
  · with_reducible exact wf
  · with_reducible exact wf

theorem engWrite_memWf {s : State} (wf : s.MemWf) (g sp addr bs pl) : (s.engWrite g sp addr bs pl).MemWf := by
  unfold State.engWrite
  dsimp only
  split
  · with_reducible exact foldl_memWf (fun u _ hu => writeHome_memWf (engArrive_memWf hu ..) ..) wf
  · with_reducible exact foldl_memWf (fun u _ hu => wrSpad_memWf hu ..) wf
  · with_reducible
      exact memWf_ite (modTile_memWf (foldl_memWf (fun u _ hu => wrGran_memWf hu ..) wf) ..) (foldl_memWf (fun u _ hu => wrGran_memWf hu
        ..) wf)

theorem engSealed_bleads {s : State} (wf : s.MemWf) {g sp addr n} {P : Unit → Prop} (hP : P ()) : BLeads P (s.engSealed g sp addr n) :=
  bleads_ite (bleads_bCause.mpr wf) (bleads_ok.mpr hP)

theorem beatGo_bleads {s : State} (wf : s.MemWf) {g c entries reads} {P : State → Prop} (hP : ∀ t : State, t.MemWf → P t) :
    BLeads P (s.beatGo g c entries reads) :=
  bleads_ite (bleads_bWait.mpr (engArrive_memWf wf ..)) (bleads_ok.mpr (hP _ (engArrive_memWf wf ..)))

theorem beatRead_bleads {s : State} (wf : s.MemWf) {g e c sp addr n P} (hP : ∀ a (t : State), t.MemWf → P (a, t)) :
    BLeads P (s.beatRead g e c sp addr n) :=
  .bind <| beatXl_bleads wf fun _ _ hu => .bind <| beatGo_bleads hu fun _ hv => bleads_ok.mpr (hP _ _ (engRead_memWf hv ..))

theorem beatWrite_bleads {s : State} (wf : s.MemWf) {g e c sp addr bs} {P : State → Prop} (hP : ∀ t : State, t.MemWf → P t) :
    BLeads P (s.beatWrite g e c sp addr bs) :=
  .bind <| beatXl_bleads wf fun _ _ hu => .bind <| engSealed_bleads hu (.bind <| beatGo_bleads hu fun _ hv => bleads_ok.mpr (hP
    _ (engWrite_memWf hv ..)))

theorem beatMove_bleads {s : State} (wf : s.MemWf) {g e c sp src dp dst n f} {P : State → Prop} (hP : ∀ t : State, t.MemWf → P t) :
    BLeads P (s.beatMove g e c sp src dp dst n f) :=
  .bind <| beatXl_bleads wf fun _ _ hu => .bind <| engSealed_bleads hu (.bind <| beatGo_bleads hu fun _ hv => bleads_ok.mpr (hP
    _ (engWrite_memWf (engRead_memWf hv ..) ..)))

/-! ### DirReqs -/

theorem frameWrite_memWf {s : State} (wf : s.MemWf) (ctx ns tier addr bs) : (s.frameWrite ctx ns tier addr bs).MemWf :=
  foldl_memWf (fun _ _ hu => memWf_ite (wrGran_memWf hu ..) (wrDev_memWf hu ..)) wf

theorem newTag_memWf {s : State} (wf : s.MemWf) : (s.newTag).2.MemWf := memWf_of_mem_eq wf rfl

theorem ask_yields {s : State} (wf : s.MemWf) {pkg m r extra data} {P : State → Prop} (hP : ∀ t : State, t.MemWf → P t) :
    Yields P (s.ask pkg m r extra data) :=
  .map <| sendDir_yields wf fun _ hu => hP _ (memWf_of_mem_eq hu rfl)

theorem modCmd_memWf {s : State} (wf : s.MemWf) (g e seq f) : (s.modCmd g e seq f).MemWf := wf

theorem fetchEnd_memWf {s : State} (wf : s.MemWf) (r data) : (s.fetchEnd r data).MemWf := wf

theorem repoint_memWf {s : State} (wf : s.MemWf) (nsid name frm dst) : (s.repoint nsid name frm dst).MemWf := by
  unfold State.repoint
  split
  · with_reducible exact modNode_memWf wf ..
  · with_reducible exact wf

theorem sendFetchAgain_memWf {s : State} (wf : s.MemWf) (r pkg) : (s.sendFetchAgain r pkg).MemWf := by
  unfold State.sendFetchAgain
  dsimp only
  with_reducible refine memWf_ite (fetchEnd_memWf ?_ ..) (getD_memWf (ask_yields (newTag_memWf ?_) fun u hu => hu) (fetchEnd_memWf ?_ ..))
  · split
    · with_reducible refine unref_memWf (incRef_memWf ?_ ..) ..
      split
      · with_reducible exact repoint_memWf wf ..
      · with_reducible exact wf
    · split
      · with_reducible exact repoint_memWf wf ..
      · with_reducible exact wf
  · split
    · with_reducible exact repoint_memWf wf ..
    · with_reducible exact wf
  · split
    · with_reducible exact repoint_memWf wf ..
    · with_reducible exact wf

theorem fetchFailed_memWf {s : State} (wf : s.MemWf) (r) : (s.fetchFailed r).MemWf := by
  unfold State.fetchFailed
  dsimp only
  with_reducible refine memWf_ite (fetchEnd_memWf wf ..) ?_
  split
  · with_reducible exact fetchEnd_memWf wf ..
  · with_reducible refine memWf_ite ?_ (getD_memWf (ask_yields (newTag_memWf wf) fun u hu => hu) (fetchEnd_memWf wf ..))
    split
    · with_reducible exact sendFetchAgain_memWf wf ..
    · with_reducible exact fetchEnd_memWf wf ..

theorem startFetch_memWf {s : State} (wf : s.MemWf) (g e seq nd pkg layer nlay off len) :
    (s.startFetch g e seq nd pkg layer nlay off len).MemWf :=
  getD_memWf (ask_yields (newTag_memWf wf) fun _ hu => hu) (fetchFailed_memWf wf ..)

theorem peerBytes_bleads {s : State} (wf : s.MemWf) {g e c nd gr layer nlay off len P} (hP : ∀ a, P a) :
    BLeads P (s.peerBytes g e c nd gr layer nlay off len) := by
  unfold State.peerBytes
  split
  · with_reducible exact bleads_ok.mpr (hP ..)
  · with_reducible exact bleads_ite (bleads_bCause.mpr wf) (bleads_ite (bleads_bWait.mpr wf) (bleads_bWait.mpr (startFetch_memWf wf ..)))

/-! ### Salt -/

theorem needNs_bleads {s : State} (wf : s.MemWf) {g nsid P} (hP : ∀ a, P a) : BLeads P (s.needNs g nsid) := by
  unfold State.needNs
  split
  · with_reducible exact bleads_ite (bleads_ok.mpr (hP ..)) (bleads_bCause.mpr wf)
  · with_reducible exact bleads_bCause.mpr wf

theorem needNode_bleads {s : State} (wf : s.MemWf) {h P} (hP : ∀ a, P a) : BLeads P (s.needNode h) :=
  bleads_ite (bleads_bCause.mpr wf) (bleads_ite (bleads_bCause.mpr wf) (bleads_ite (bleads_ok.mpr (hP ..)) (bleads_ite
    (bleads_bWait.mpr wf) (bleads_ok.mpr (hP ..)))))

theorem needRoom_bleads {s : State} (wf : s.MemWf) {ctx counts} {P : Unit → Prop} (hP : P ()) : BLeads P (s.needRoom ctx counts) :=
  causeIf_bleads wf hP

theorem addEntry_memWf {s : State} (wf : s.MemWf) (ctx h interval k) : (s.addEntry ctx h interval k).MemWf := modCtx_memWf wf ..

theorem resultAt_bleads {s : State} (wf : s.MemWf) {g e c va reason P} (hP : ∀ a (t : State), t.MemWf → P (a, t)) :
    BLeads P (s.resultAt g e c va reason) :=
  .bind <| illIf_bleads wf (.bind <| beatXl_bleads wf fun _ _ hu => bleads_ok.mpr (hP _ _ hu))

theorem putResult_memWf {s : State} (wf : s.MemWf) (g r b) : (s.putResult g r b).MemWf := engWrite_memWf wf ..

theorem putStatus_memWf {s : State} (wf : s.MemWf) (g r status) : (s.putStatus g r status).MemWf := putResult_memWf wf ..

theorem holdNode_bleads {s : State} (wf : s.MemWf) {g e c h P} (hP : ∀ a (t : State), t.MemWf → P (a, t)) : BLeads P (s.holdNode g e c h) :=
  bleads_ite (bleads_ok.mpr (hP _ _ wf)) (bleads_ite (bleads_bCause.mpr wf) (bleads_ok.mpr (hP _ _ (putCmd_memWf (incRef_memWf
    wf ..) ..))))

theorem resolve_bleads {s : State} (wf : s.MemWf) {g e c nsid pt p layer write P} (hP : ∀ a b (t : State), t.MemWf → P (a, b, t)) :
    BLeads P (s.resolve g e c nsid pt p layer write) := by
  unfold State.resolve
  dsimp only
  with_reducible refine .bind <| beatRead_bleads wf fun _ u hu => .bind <| causeIf_bleads hu (.bind <| needNode_bleads hu fun _ => ?_)
  split
  · with_reducible exact bleads_bCause.mpr hu
  · with_reducible
      refine .bind <| causeIf_bleads hu (.bind <| needNs_bleads hu fun _ => .bind <| causeIf_bleads hu (.bind <| causeIf_bleads hu (.bind
        <| causeIf_bleads hu ?_)))
    split
    · with_reducible exact bleads_bCause.mpr hu
    · with_reducible exact .bind <| holdNode_bleads hu fun _ v hv => bleads_ok.mpr (hP _ _ _ hv)

theorem readNode_bleads {s : State} (wf : s.MemWf) {g e c p d n P} (hP : ∀ a, P a) : BLeads P (s.readNode g e c p d n) :=
  bleads_ite (peerBytes_bleads wf fun _ => hP ..) (bleads_ok.mpr (hP ..))

theorem writeNode_memWf {s : State} (wf : s.MemWf) (g p d bs) : (s.writeNode g p d bs).MemWf := memWf_ite wf (frameWrite_memWf wf ..)

theorem zeroFrames_memWf {s : State} (wf : s.MemWf) (ctx ns gs) : (s.zeroFrames ctx ns gs).MemWf :=
  foldl_memWf (fun _ _ hu => foldl_memWf (fun _ _ hv => frameWrite_memWf hv ..) hu) wf

theorem allocTier_yields {s : State} (wf : s.MemWf) {ns die tier P} (hP : ∀ a (t : State), t.MemWf → P (a, t)) :
    Yields P (s.allocTier ns die tier) :=
  yields_ite yields_none (allocGroups_yields wf fun _ _ hu => hP _ _ hu)

theorem allocUp_yields {s : State} (wf : s.MemWf) {ns die tier P} (hP : ∀ a (t : State), t.MemWf → P (a, t)) :
    Yields P (s.allocUp ns die tier) :=
  yields_findSome fun _ => allocTier_yields wf fun _ _ hu => hP _ _ hu

theorem openNode_memWf {s : State} (wf : s.MemWf) (g ns parent depth gs h iv k) : (s.openNode g ns parent depth gs h iv k).MemWf :=
  addEntry_memWf (zeroFrames_memWf (memWf_ite (setNode_memWf (takeRecord_memWf wf ..) ..) (modNode_memWf (setNode_memWf
    (takeRecord_memWf wf ..) ..) ..)) ..) ..

theorem kvOpen_bleads {s : State} (wf : s.MemWf) {g c} {P : State → Prop} (hP : ∀ t : State, t.MemWf → P t) : BLeads P (s.kvOpen g c) := by
  unfold State.kvOpen
  dsimp only
  with_reducible
    refine .bind <| resultAt_bleads wf fun _ u hu => .bind <| needNs_bleads hu fun _ => bleads_ite (bleads_ok.mpr (hP _ (putStatus_memWf
      hu ..))) (bleads_ite (.bind <| bleads_ok.mpr (.bind <| causeIf_bleads hu (.bind <| causeIf_bleads hu (.bind <| needRoom_bleads hu
      ?_)))) (.bind <| needNode_bleads hu fun _ => ?_))
  · split
    · next e _ =>
        with_reducible
          exact bleads_ok.mpr (hP _ (putResult_memWf (openNode_memWf (Yields.of_eq_some (P := fun x => x.2.MemWf) (allocUp_yields hu fun _ v
            hv => hv) e) ..) ..))
    · with_reducible exact bleads_ok.mpr (hP _ (putStatus_memWf hu ..))
  · split
    · with_reducible exact bleads_ok.mpr (hP _ (putStatus_memWf hu ..))
    · with_reducible refine .bind <| causeIf_bleads hu (.bind <| causeIf_bleads hu (.bind <| needRoom_bleads hu ?_))
      split
      · next e _ =>
          with_reducible
            exact bleads_ok.mpr (hP _ (putResult_memWf (openNode_memWf (Yields.of_eq_some (P := fun x => x.2.MemWf) (allocUp_yields hu fun _ v
              hv => hv) e) ..) ..))
      · with_reducible exact bleads_ok.mpr (hP _ (putStatus_memWf hu ..))

theorem copyPositions_memWf {s : State} (wf : s.MemWf) (ctx ns src dst n) : (s.copyPositions ctx ns src dst n).MemWf := by
  unfold State.copyPositions
  dsimp only
  with_reducible refine foldl_memWf (fun u _ hu => ?_) wf
  split
  · with_reducible exact foldl_memWf (fun v _ hv => frameWrite_memWf hv ..) hu
  · with_reducible exact hu

theorem kvFork_bleads {s : State} (wf : s.MemWf) {g c} {P : State → Prop} (hP : ∀ t : State, t.MemWf → P t) : BLeads P (s.kvFork g c) := by
  unfold State.kvFork
  dsimp only
  with_reducible refine .bind <| resultAt_bleads wf fun _ u hu => .bind <| illIf_bleads hu (.bind <| needNode_bleads hu fun _ => ?_)
  split
  · with_reducible exact bleads_ok.mpr (hP _ (putStatus_memWf hu ..))
  · with_reducible
      refine .bind <| needNs_bleads hu fun _ => bleads_ite (.bind <| needRoom_bleads hu (bleads_ok.mpr (hP _ (putResult_memWf
        (addEntry_memWf (incRef_memWf hu ..) ..) ..)))) (.bind <| causeIf_bleads hu (.bind <| needRoom_bleads hu ?_))
    split
    · next e _ =>
        with_reducible
          exact bleads_ok.mpr (hP _ (putResult_memWf (copyPositions_memWf (openNode_memWf (Yields.of_eq_some (P := fun x => x.2.MemWf)
            (allocTier_yields hu fun _ v hv => hv) e) ..) ..) ..))
    · with_reducible exact bleads_ok.mpr (hP _ (putStatus_memWf hu ..))

theorem sealDuplicate_memWf {s : State} (wf : s.MemWf) (ctx h k) : (s.sealDuplicate ctx h k).MemWf :=
  freeNode_memWf _ (modCtx_memWf (incRef_memWf wf ..) ..) ..

theorem kvSeal_bleads {s : State} (wf : s.MemWf) {g c} {P : State → Prop} (hP : ∀ t : State, t.MemWf → P t) : BLeads P (s.kvSeal g c) := by
  unfold State.kvSeal
  dsimp only
  with_reducible refine .bind <| resultAt_bleads wf fun _ u hu => .bind <| illIf_bleads hu (.bind <| needNode_bleads hu fun _ => ?_)
  split
  · with_reducible exact bleads_ok.mpr (hP _ (putStatus_memWf hu ..))
  · with_reducible
      refine .bind <| needNs_bleads hu fun _ => bleads_ite (bleads_ok.mpr (hP _ (putResult_memWf hu ..))) (.bind <| causeIf_bleads hu
        (.bind <| beatRead_bleads hu fun _ v hv => .bind <| causeIf_bleads hv (.bind <| causeIf_bleads hv (.bind <| causeIf_bleads hv
        ?_))))
    split
    · with_reducible refine .bind <| needNode_bleads hv fun _ => ?_
      split
      · with_reducible exact bleads_bWait.mpr hv
      · with_reducible exact .bind <| causeIf_bleads hv (bleads_ok.mpr (hP _ (putResult_memWf (sealDuplicate_memWf hv ..) ..)))
    · with_reducible
        exact bleads_ite (bleads_ok.mpr (hP _ (putStatus_memWf hv ..))) (bleads_ok.mpr (hP _ (putResult_memWf (memWf_ite (tellHome_memWf
          (indexAdd_memWf (setNode_memWf hv ..) ..) ..) (indexAdd_memWf (setNode_memWf hv ..) ..)) ..)))

theorem kvLease_bleads {s : State} (wf : s.MemWf) {g c} {P : State → Prop} (hP : ∀ t : State, t.MemWf → P t) :
    BLeads P (s.kvLease g c) := by
  unfold State.kvLease
  dsimp only
  with_reducible refine .bind <| resultAt_bleads wf fun _ u hu => .bind <| illIf_bleads hu (.bind <| needNode_bleads hu fun _ => ?_)
  split
  · with_reducible exact bleads_ok.mpr (hP _ (putStatus_memWf hu ..))
  · with_reducible
      exact .bind <| needNs_bleads hu fun _ => .bind <| needRoom_bleads hu (bleads_ok.mpr (hP _ (putResult_memWf (addEntry_memWf
        (modNode_memWf (incRef_memWf hu ..) ..) ..) ..)))

theorem kvRelease_bleads {s : State} (wf : s.MemWf) {g c} {P : State → Prop} (hP : ∀ t : State, t.MemWf → P t) :
    BLeads P (s.kvRelease g c) := by
  unfold State.kvRelease
  dsimp only
  with_reducible refine .bind <| resultAt_bleads wf fun _ u hu => .bind <| needNode_bleads hu fun _ => ?_
  split
  · with_reducible exact bleads_ite (bleads_ok.mpr (hP _ (putStatus_memWf hu ..))) (bleads_bCause.mpr hu)
  · with_reducible
      exact .bind <| needNs_bleads hu fun _ => .bind <| causeIf_bleads hu (bleads_ok.mpr (hP _ (putResult_memWf (memWf_ite (modCtx_memWf
        hu ..) (decRef_memWf (modCtx_memWf hu ..) ..)) ..)))

theorem pxPath_bleads {s : State} (wf : s.MemWf) {g c} {P : State → Prop} (hP : ∀ t : State, t.MemWf → P t) : BLeads P (s.pxPath g c) := by
  unfold State.pxPath
  dsimp only
  with_reducible refine .bind <| resultAt_bleads wf fun _ u hu => .bind <| needNode_bleads hu fun _ => ?_
  split
  · with_reducible exact bleads_ok.mpr (hP _ (putStatus_memWf hu ..))
  · with_reducible
      exact .bind <| needNs_bleads hu fun _ => .bind <| causeIf_bleads hu (.bind <| beatWrite_bleads hu fun v hv => bleads_ok.mpr (hP _
        (putResult_memWf hv ..)))

end Sys2Proof.Machine
end

section
set_option Elab.async false
/-! PROOFS. Storage stays canonical: the directory and the copies. -/
namespace Sys2Proof.Machine

/-! ### Salt -/

theorem pxHash_bleads {s : State} (wf : s.MemWf) {g c} {P : State → Prop} (hP : ∀ t : State, t.MemWf → P t) : BLeads P (s.pxHash g c) :=
  .bind <| illIf_bleads wf (.bind <| needNs_bleads wf fun _ => .bind <| beatRead_bleads wf fun _ _ hu => .bind <| causeIf_bleads
    hu (bleads_ite (.bind <| beatRead_bleads hu fun _ _ hv => .bind <| causeIf_bleads hv (beatWrite_bleads hv fun _ hw => hP _ hw))
    (beatWrite_bleads hu fun _ hv => hP _ hv)))

theorem pxMatch_bleads {s : State} (wf : s.MemWf) {g c P} (hP : ∀ (t : State) a, t.MemWf → P (t, a)) : BLeads P (s.pxMatch g c) := by
  unfold State.pxMatch
  dsimp only
  with_reducible refine .bind <| illIf_bleads wf (.bind <| resultAt_bleads wf fun _ u hu => .bind <| needNs_bleads hu fun _ => ?_)
  split
  · with_reducible
      exact bleads_ite (bleads_ok.mpr (hP _ _ (putStatus_memWf hu ..))) (bleads_ok.mpr (hP _ _ (putCmd_memWf (setDie_memWf hu ..) ..)))
  · with_reducible exact bleads_bWait.mpr hu
  · with_reducible exact bleads_bWait.mpr hu
  · with_reducible exact bleads_ok.mpr (hP _ _ (putStatus_memWf hu ..))
  · with_reducible exact bleads_ok.mpr (hP _ _ (putResult_memWf hu ..))

theorem rakeRef_memWf {s : State} (wf : s.MemWf) (g c old new) : (s.rakeRef g c old new).MemWf :=
  memWf_ite (addEntry_memWf (incRef_memWf wf ..) ..) (decRef_memWf (modCtx_memWf (incRef_memWf wf ..) ..) ..)

theorem adopt_yields {s : State} (wf : s.MemWf) {die ns name j parent pkg iv P} (hP : ∀ a (t : State), t.MemWf → P (a, t)) :
    Yields P (s.adopt die ns name j parent pkg iv) := by
  unfold State.adopt
  dsimp only
  with_reducible refine yields_ite yields_none ?_
  split
  · with_reducible exact yields_none
  · with_reducible
      exact yields_some.mpr (hP _ _ (indexAdd_memWf (memWf_ite (setNode_memWf (takeRecord_memWf wf ..) ..) (modNode_memWf (setNode_memWf
        (takeRecord_memWf wf ..) ..) ..)) ..))

theorem rakeRemote_memWf {s : State} (wf : s.MemWf) {g} {c} {ns} {names} {l} {c1} : (State.rakeRemote g c ns names l c1 s).MemWf := by
  induction l generalizing c1 s with
  | zero =>
    unfold State.rakeRemote
    with_reducible exact putCmd_memWf wf ..
  | succ i ih =>
    unfold State.rakeRemote
    dsimp only
    split
    · with_reducible exact putCmd_memWf wf ..
    · with_reducible refine memWf_ite (putCmd_memWf wf ..) ?_
      split
      · with_reducible exact putCmd_memWf wf ..
      · with_reducible refine memWf_ite ?_ ?_
        · split
          · with_reducible refine memWf_ite ?_ (putCmd_memWf wf ..)
            split
            · next e3 =>
                with_reducible exact ih (rakeRef_memWf (Yields.of_eq_some (P := fun x => x.2.MemWf) (adopt_yields wf fun _ u hu => hu) e3) ..)
            · with_reducible exact putCmd_memWf wf ..
          · with_reducible exact putCmd_memWf wf ..
        · split
          · with_reducible exact putCmd_memWf wf ..
          · next e2 =>
              with_reducible exact putCmd_memWf (Yields.of_eq_some (P := State.MemWf) (ask_yields (newTag_memWf wf) fun u hu => hu) e2) ..

theorem rakeRun_bleads {s : State} (wf : s.MemWf) {g c} {P : State → Prop} (hP : ∀ t : State, t.MemWf → P t) :
    BLeads P (s.rakeRun g c) := by
  unfold State.rakeRun
  dsimp only
  with_reducible
    refine .bind <| needNs_bleads wf fun _ => bleads_ite (bleads_ok.mpr (hP _ (putCmd_memWf wf ..))) (.bind <| beatRead_bleads wf fun _
      u hu => .bind <| causeIf_bleads hu (bleads_ite (bleads_ok.mpr (hP _ (rakeRemote_memWf hu))) ?_))
  split
  · with_reducible exact bleads_bCause.mpr hu
  · with_reducible refine bleads_ite (bleads_ok.mpr (hP _ (rakeRemote_memWf hu))) ?_
    split
    · with_reducible exact bleads_bWait.mpr hu
    · with_reducible
        exact bleads_ite (bleads_bWait.mpr (putCmd_memWf hu ..)) (.bind <| causeIf_bleads hu (.bind <| needRoom_bleads hu (bleads_ok.mpr (hP
          _ (rakeRemote_memWf (rakeRef_memWf hu ..))))))

/-! ### Directory -/

theorem freeEntry_memWf {s : State} (wf : s.MemWf) (pn v n) : (s.freeEntry pn v n).MemWf := memWf_ite (setPort_memWf wf ..) wf

theorem takeMsg_memWf {s : State} (wf : s.MemWf) (pn v n) : (s.takeMsg pn v n).MemWf := wf

theorem consume_memWf {s : State} (wf : s.MemWf) (pn v n) : (s.consume pn v n).MemWf := freeEntry_memWf (takeMsg_memWf wf ..) ..

theorem Yields.mono {α : Type} {P Q : α → Prop} {o : Option α} (h : Yields P o) (hQ : ∀ a, P a → Q a) : Yields Q o :=
  .of fun _ e => hQ _ (h.of_eq_some e)
theorem onMessage_memWf {s : State} (wf : s.MemWf) {op src m body f} (hf : ∀ a b t, t.MemWf → Yields State.MemWf (f a b t)) :
    (s.onMessage op src m body f).MemWf := by
  unfold State.onMessage
  split
  · exact wf
  · have hrest (c : Bool) (a b u v) (hu : State.MemWf u) (hv : State.MemWf v) :=
      hf a b (if c then u else v) (memWf_ite hu hv)
    exact memWf_ite (raiseErr_memWf (consume_memWf wf ..) ..) (memWf_ite wf (getD_memWf (.map <| (hrest _ _ _ _ _ (takeMsg_memWf wf ..)
      (consume_memWf wf ..)).mono fun u hu => pump_memWf hu _) wf))

theorem answerTo_yields {s : State} (wf : s.MemWf) {dst m data node src} {P : State → Prop} (hP : ∀ t : State, t.MemWf → P t) :
    Yields P (s.answerTo dst m data node src) := by
  unfold State.answerTo
  dsimp only
  split
  · with_reducible exact yields_some.mpr (hP _ (emit_memWf (letGo_memWf wf ..) ..))
  · with_reducible exact yields_ite yields_none (sendDir_yields (setPort_memWf wf ..) fun u hu => hP _ hu)

theorem execLookup_nextWf {s : State} (wf : s.MemWf) (src m) : NextWf (execLookup src m s) :=
  event_nextWf (onMessage_memWf wf fun _ _ _ hu => answerTo_yields hu fun _ hv => hv)

theorem execAnnounce_nextWf {s : State} (wf : s.MemWf) (src m) : NextWf (execAnnounce src m s) := by
  unfold execAnnounce
  with_reducible refine event_nextWf (onMessage_memWf wf fun _ _ u hu => ?_)
  split
  · with_reducible exact yields_some.mpr (memWf_ite (dirAnnounce_memWf hu ..) hu)
  · with_reducible exact yields_some.mpr hu

theorem execWithdraw_nextWf {s : State} (wf : s.MemWf) (src m) : NextWf (execWithdraw src m s) := by
  unfold execWithdraw
  with_reducible refine event_nextWf (onMessage_memWf wf fun _ _ u hu => ?_)
  split
  · with_reducible exact yields_some.mpr (memWf_ite (dirWithdraw_memWf hu ..) hu)
  · with_reducible exact yields_some.mpr hu

theorem execFetch_nextWf {s : State} (wf : s.MemWf) (src m) : NextWf (execFetch src m s) := by
  unfold execFetch
  dsimp only
  with_reducible refine event_nextWf (onMessage_memWf wf fun _ _ u hu => answerTo_yields ?_ fun v hv => hv)
  split
  · with_reducible exact incRef_memWf hu ..
  · with_reducible exact hu

theorem placeBlock_memWf {s : State} (wf : s.MemWf) (ns m parent h gs toks data) : (s.placeBlock ns m parent h gs toks data).MemWf :=
  closingRemoval_memWf (memWf_ite (tellHome_memWf (indexAdd_memWf (foldl_memWf (fun _ _ hu => frameWrite_memWf hu ..) (memWf_ite
    (setNode_memWf (takeRecord_memWf wf ..) ..) (modNode_memWf (setNode_memWf (takeRecord_memWf wf ..) ..) ..))) ..) ..)
    (indexAdd_memWf (foldl_memWf (fun _ _ hu => frameWrite_memWf hu ..) (memWf_ite (setNode_memWf (takeRecord_memWf wf ..) ..)
    (modNode_memWf (setNode_memWf (takeRecord_memWf wf ..) ..) ..))) ..)) ..

theorem takeBlock_yields {s : State} (wf : s.MemWf) {m parent toks data P} (hP : ∀ a (t : State), t.MemWf → P (a, t)) :
    Yields P (s.takeBlock m parent toks data) := by
  unfold State.takeBlock
  dsimp only
  split
  · with_reducible exact yields_some.mpr (hP _ _ wf)
  · with_reducible
      refine yields_ite (yields_some.mpr (hP _ _ wf)) (yields_ite yields_none (yields_ite (yields_some.mpr (hP _ _ wf)) (yields_ite
        yields_none (yields_ite (yields_some.mpr (hP _ _ wf)) (yields_ite (yields_some.mpr (hP _ _ wf)) (yields_ite (yields_some.mpr (hP _
        _ wf)) ?_))))))
    split
    · next e1 _ =>
        with_reducible
          exact yields_some.mpr (hP _ _ (placeBlock_memWf (Yields.of_eq_some (P := fun x => x.2.MemWf) (allocTier_yields wf fun _ u hu => hu)
            e1) ..))
    · with_reducible exact yields_some.mpr (hP _ _ wf)

theorem execReplicate_nextWf {s : State} (wf : s.MemWf) (src m parent toks data) : NextWf (execReplicate src m parent toks data s) :=
  event_nextWf (onMessage_memWf wf fun _ _ _ hu => yields_optionBind (takeBlock_yields hu fun _ _ hv => answerTo_yields hv fun _
    hw => hw))

theorem takeReq_yields {s : State} (wf : s.MemWf) {tag op P} (hP : ∀ a (t : State), t.MemWf → P (a, t)) : Yields P (s.takeReq tag op) :=
  .map <| Yields.of_forall fun _ => hP _ _ (memWf_of_mem_eq wf (by rfl))

theorem searchStops_memWf {s : State} (wf : s.MemWf) (r) : (s.searchStops r).MemWf := wf

theorem searchGoesOn_memWf {s : State} (wf : s.MemWf) (r c ns pkg) : (s.searchGoesOn r c ns pkg).MemWf := by
  unfold State.searchGoesOn
  dsimp only
  split
  · with_reducible exact searchStops_memWf wf ..
  · next e =>
      with_reducible
        exact setDie_memWf (modCmd_memWf (rakeRef_memWf (Yields.of_eq_some (P := fun x => x.2.MemWf) (adopt_yields wf fun _ u hu => hu) e)
          ..) ..) ..

theorem lookupAnswered_memWf {s : State} (wf : s.MemWf) (r depth hs) : (s.lookupAnswered r depth hs).MemWf := by
  unfold State.lookupAnswered
  with_reducible refine memWf_ite ?_ ?_
  · split
    · with_reducible exact sendFetchAgain_memWf wf ..
    · with_reducible exact fetchEnd_memWf wf ..
  · split
    · with_reducible exact memWf_ite (searchGoesOn_memWf wf ..) (searchStops_memWf wf ..)
    · with_reducible exact searchStops_memWf wf ..

theorem execLookupR_nextWf {s : State} (wf : s.MemWf) (m) : NextWf (execLookupR m s) := by
  unfold execLookupR
  with_reducible refine event_nextWf (onMessage_memWf wf fun _ _ u hu => yields_some.mpr ?_)
  split
  · with_reducible exact hu
  · next e =>
      with_reducible exact lookupAnswered_memWf (Yields.of_eq_some (P := fun x => x.2.MemWf) (takeReq_yields hu fun _ v hv => hv) e) ..

theorem execFetchR_nextWf {s : State} (wf : s.MemWf) (m data) : NextWf (execFetchR m data s) := by
  unfold execFetchR
  with_reducible refine event_nextWf (onMessage_memWf wf fun _ _ u hu => yields_some.mpr ?_)
  split
  · with_reducible exact hu
  · next e =>
      with_reducible
        exact memWf_ite (fetchEnd_memWf (Yields.of_eq_some (P := fun x => x.2.MemWf) (takeReq_yields hu fun _ v hv => hv) e) ..) (memWf_ite
          (fetchFailed_memWf (Yields.of_eq_some (P := fun x => x.2.MemWf) (takeReq_yields hu fun _ v hv => hv) e) ..) (fetchEnd_memWf
          (Yields.of_eq_some (P := fun x => x.2.MemWf) (takeReq_yields hu fun _ v hv => hv) e) ..))

theorem replDone_memWf {s : State} (wf : s.MemWf) (code) : (s.replDone code).MemWf := wf

theorem replNext_memWf {s : State} (wf : s.MemWf) : (s.replNext).MemWf := by
  unfold State.replNext
  dsimp only
  split
  · with_reducible exact replDone_memWf wf ..
  · split
    · with_reducible exact replDone_memWf wf ..
    · with_reducible refine memWf_ite (replDone_memWf wf ..) ?_
      split
      · with_reducible exact replDone_memWf wf ..
      · split
        · with_reducible exact memWf_of_mem_eq (replDone_memWf wf ..) (by rfl)
        · next e2 =>
            with_reducible
              exact memWf_of_mem_eq (Yields.of_eq_some (P := State.MemWf) (ask_yields (incRef_memWf (newTag_memWf wf) ..) fun u hu => hu) e2) (by
                rfl)

theorem replAnswered_memWf {s : State} (wf : s.MemWf) (status) : (s.replAnswered status).MemWf := by
  unfold State.replAnswered
  dsimp only
  split
  · with_reducible exact wf
  · with_reducible
      exact memWf_ite (replNext_memWf (memWf_of_mem_eq (decRef_memWf wf ..) (by rfl))) (replDone_memWf (memWf_of_mem_eq (decRef_memWf wf
        ..) (by rfl)) ..)

theorem execReplicationRun_nextWf {s : State} (wf : s.MemWf) : NextWf (execReplicationRun s) := by
  unfold execReplicationRun
  dsimp only
  with_reducible refine event_nextWf (memWf_ite wf ?_)
  split
  · with_reducible exact replDone_memWf (memWf_of_mem_eq wf (by rfl)) ..
  · with_reducible
      exact memWf_ite (replDone_memWf (memWf_of_mem_eq wf (by rfl)) ..) (memWf_ite (replDone_memWf (memWf_of_mem_eq wf (by rfl)) ..)
        (memWf_ite (replDone_memWf (memWf_of_mem_eq wf (by rfl)) ..) (memWf_ite (replDone_memWf (memWf_of_mem_eq wf (by rfl)) ..)
        (replNext_memWf (memWf_of_mem_eq wf (by rfl))))))

theorem execReplicateR_nextWf {s : State} (wf : s.MemWf) (m) : NextWf (execReplicateR m s) := by
  unfold execReplicateR
  with_reducible refine event_nextWf (onMessage_memWf wf fun _ _ u hu => yields_some.mpr ?_)
  split
  · with_reducible exact hu
  · next e =>
      with_reducible exact replAnswered_memWf (Yields.of_eq_some (P := fun x => x.2.MemWf) (takeReq_yields hu fun _ v hv => hv) e) ..

theorem askFailed_memWf {s : State} (wf : s.MemWf) (r status) : (s.askFailed r status).MemWf :=
  memWf_ite (replAnswered_memWf wf ..) (memWf_ite (fetchFailed_memWf wf ..) (lookupAnswered_memWf wf ..))

theorem execDirectoryRequestTimeout_nextWf {s : State} (wf : s.MemWf) (tag) : NextWf (execDirectoryRequestTimeout tag s) := by
  unfold execDirectoryRequestTimeout
  with_reducible refine event_nextWf ?_
  split
  · with_reducible exact wf
  · with_reducible exact memWf_ite wf (askFailed_memWf (memWf_of_mem_eq wf (by rfl)) ..)

/-! ### Fetch -/

theorem setImemWord_memWf {s : State} (wf : s.MemWf) (g st pc w) : (s.setImemWord g st pc w).MemWf := wrBytes_memWf wf ..

theorem deliverWrap_memWf {s : State} (wf : s.MemWf) (g st) : (s.deliverWrap g st).MemWf := by
  unfold State.deliverWrap
  dsimp only
  with_reducible refine memWf_ite wf ?_
  split
  · with_reducible exact wf
  · with_reducible exact takeCause_memWf (setTile_memWf wf ..) ..

theorem placeStream_memWf {s : State} (wf : s.MemWf) (st w0 w1) : (s.placeStream st w0 w1).MemWf :=
  memWf_of_mem_eq (memWf_ite (setImemWord_memWf (setImemWord_memWf (setTile_memWf wf ..) ..) ..) (setImemWord_memWf
    (setTile_memWf wf ..) ..)) (by rfl)

theorem placeProgram_memWf {s : State} (wf : s.MemWf) (w) : (s.placeProgram w).MemWf := wf

theorem place_memWf {s : State} (wf : s.MemWf) (w0 w1) : (s.place w0 w1).MemWf := by
  unfold State.place
  split
  · with_reducible exact placeStream_memWf wf ..
  · split
    · with_reducible exact placeProgram_memWf wf ..
    · with_reducible exact placeStream_memWf wf ..

/-! ### Copy -/

theorem levelIll_bleads {s : State} (wf : s.MemWf) {sp addr n} {P : Unit → Prop} (hP : P ()) : BLeads P (levelIll s sp addr n) :=
  illIf_bleads wf hP

theorem copyCheck_bleads {s : State} (wf : s.MemWf) {c} {P : Unit → Prop} (hP : P ()) : BLeads P (copyCheck s c) :=
  .bind <| illIf_bleads wf (.bind <| illIf_bleads wf (.bind <| levelIll_bleads wf (bleads_ite (bleads_ok.mpr hP)
    (levelIll_bleads wf hP))))

theorem copyBeat_bleads {s : State} (wf : s.MemWf) {g c k} {P : State → Prop} (hP : ∀ t : State, t.MemWf → P t) :
    BLeads P (s.copyBeat g c k) := by
  unfold State.copyBeat
  dsimp only
  with_reducible
    refine .bind <| beatXl_bleads wf fun _ u hu => .bind <| engSealed_bleads hu (.bind <| beatGo_bleads hu fun v hv => bleads_ok.mpr (hP
      _ (foldl_memWf (fun w _ hw => memWf_ite hw (engWrite_memWf hw ..)) ?_)))
  split
  · with_reducible exact hv
  · with_reducible exact engRead_memWf hv ..

theorem copyUndefined_memWf {s : State} (wf : s.MemWf) (g c) : (s.copyUndefined g c).MemWf := by
  unfold State.copyUndefined
  dsimp only
  with_reducible refine foldl_memWf (fun u _ hu => ?_) wf
  split
  · split
    · with_reducible exact engWrite_memWf (free_memWf hu ..) ..
    · with_reducible exact free_memWf hu ..
  · with_reducible exact engWrite_memWf (free_memWf hu ..) ..

theorem noteLoad_memWf {s : State} (wf : s.MemWf) (g st lo n) : (s.noteLoad g st lo n).MemWf := wf

theorem ovlBeat_bleads {s : State} (wf : s.MemWf) {g c k} {P : State → Prop} (hP : ∀ t : State, t.MemWf → P t) :
    BLeads P (s.ovlBeat g c k) :=
  .bind <| beatRead_bleads wf fun _ _ hu => bleads_ite (bleads_bCause.mpr hu) (bleads_ok.mpr (hP _ (noteLoad_memWf
    (wrBytes_memWf hu ..) ..)))

theorem copynPlaces_bleads {s : State} (wf : s.MemWf) {g tb l c P} (hP : ∀ a b (t : State), t.MemWf → P (a, b, t)) :
    BLeads P (State.copynPlaces g tb l c s) := by
  induction l generalizing c s P with
  | nil =>
    unfold State.copynPlaces
    with_reducible exact bleads_ok.mpr (hP _ _ _ wf)
  | cons i is ih =>
    unfold State.copynPlaces
    dsimp only
    with_reducible exact .bind <| resolve_bleads wf fun _ _ u hu => .bind <| ih hu fun _ _ v hv => bleads_ok.mpr (hP _ _ _ hv)

theorem copynRead_bleads {s : State} (wf : s.MemWf) {g c l} {P} (hP : ∀ bs, P bs) : BLeads P (s.copynRead g c l) := by
  induction l generalizing P with
  | nil =>
    unfold State.copynRead
    with_reducible exact bleads_ok.mpr (hP ..)
  | cons i is ih =>
    unfold State.copynRead
    with_reducible exact .bind <| readNode_bleads wf fun _ => .bind <| ih fun _ => bleads_ok.mpr (hP ..)

theorem copynWrite_memWf {s : State} (wf : s.MemWf) {g} {l} {c} : (State.copynWrite g l c s).MemWf := by
  induction l generalizing c s with
  | nil =>
    unfold State.copynWrite
    with_reducible exact wf
  | cons i is ih =>
    unfold State.copynWrite
    with_reducible exact ih (writeNode_memWf wf ..)

theorem copynGo_bleads {s : State} (wf : s.MemWf) {g ns k c P} (hP : ∀ a (t : State), t.MemWf → P (a, t)) : BLeads P (s.copynGo g ns k c) :=
  bleads_ite (.bind <| beatXl_bleads wf fun _ _ hu => .bind <| copynPlaces_bleads hu fun _ _ _ hv => .bind <| beatGo_bleads hv
    fun _ hw => bleads_ok.mpr (hP _ _ (copynWrite_memWf (engRead_memWf hw ..)))) (.bind <| copynPlaces_bleads wf fun _ _ _ hu => .bind
    <| copynRead_bleads hu fun _ => .bind <| beatWrite_bleads hu fun _ hv => bleads_ok.mpr (hP _ _ hv))

theorem fetchAll_bleads {s : State} (wf : s.MemWf) {g c nd l} {P} (hP : ∀ bs, P bs) : BLeads P (s.fetchAll g c nd l) := by
  induction l generalizing P with
  | nil =>
    unfold State.fetchAll
    with_reducible exact bleads_ok.mpr (hP ..)
  | cons i is ih =>
    unfold State.fetchAll
    with_reducible exact .bind <| peerBytes_bleads wf fun _ => .bind <| ih fun _ => bleads_ok.mpr (hP ..)

theorem allocAll_yields {s : State} (wf : s.MemWf) {ns die tier l P} (hP : ∀ a (t : State), t.MemWf → P (a, t)) :
    Yields P (State.allocAll ns die tier l s) := by
  induction l generalizing s P with
  | nil =>
    unfold State.allocAll
    with_reducible exact yields_some.mpr (hP _ _ wf)
  | cons i is ih =>
    unfold State.allocAll
    split
    · with_reducible exact yields_none
    · next e =>
        with_reducible
          exact .map <| ih (Yields.of_eq_some (P := fun x => x.2.MemWf) (allocTier_yields wf fun _ u hu => hu) e) fun _ u hu => hP _ _ hu

theorem copyL_bleads {s : State} (wf : s.MemWf) {g c P} (hP : ∀ (t : State) a, t.MemWf → P (t, a)) : BLeads P (s.copyL g c) := by
  unfold State.copyL
  dsimp only
  with_reducible refine .bind <| resultAt_bleads wf fun _ u hu => .bind <| needNode_bleads hu fun _ => ?_
  split
  · with_reducible exact bleads_ok.mpr (hP _ _ (putStatus_memWf hu ..))
  · with_reducible
      refine .bind <| needNs_bleads hu fun _ => bleads_ite (bleads_ok.mpr (hP _ _ (putResult_memWf hu ..))) (bleads_ite (.bind <|
        causeIf_bleads hu ?_) (.bind <| fetchAll_bleads hu fun _ => bleads_ok.mpr (hP _ _ (putResult_memWf (putCmd_memWf (modNode_memWf
        (foldl_fst_memWf (fun _ _ hp => frameWrite_memWf hp ..) hu) ..) ..) ..))))
    split
    · with_reducible exact bleads_ok.mpr (hP _ _ (putResult_memWf hu ..))
    · next e =>
        with_reducible
          exact bleads_ite (bleads_ok.mpr (hP _ _ (putResult_memWf hu ..))) (.bind <| holdNode_bleads (Yields.of_eq_some (P := fun x =>
            x.2.MemWf) (allocAll_yields hu fun _ v hv => hv) e) fun _ v hv => bleads_ok.mpr (hP _ _ (putCmd_memWf hv ..)))

theorem tensor_bleads {s : State} (wf : s.MemWf) {g e c h P} (hP : ∀ a b (t : State), t.MemWf → P (a, b, t)) :
    BLeads P (s.tensor g e c h) := by
  unfold State.tensor
  dsimp only
  split
  · with_reducible exact bleads_ok.mpr (hP _ _ _ wf)
  · split
    · with_reducible exact bleads_bCause.mpr wf
    · with_reducible
        exact bleads_ite (bleads_bCause.mpr wf) (.bind <| beatRead_bleads wf fun _ u hu => .bind <| causeIf_bleads hu (.bind <|
          causeIf_bleads hu (bleads_ok.mpr (hP _ _ _ (putCmd_memWf hu ..)))))

theorem tileRead_bleads {s : State} (wf : s.MemWf) {g e c h t tile} {P} (hP : ∀ a b (t : State), t.MemWf → P (a, b, t)) :
    BLeads P (State.tileAt.tileRead s g e c h t tile) := by
  unfold State.tileAt.tileRead
  dsimp only
  with_reducible
    exact .bind <| beatRead_bleads wf fun _ u hu => .bind <| causeIf_bleads hu (.bind <| causeIf_bleads hu (bleads_ok.mpr (hP _ _ _
      (putCmd_memWf hu ..))))
theorem tileAt_bleads {s : State} (wf : s.MemWf) {g e c h t tile} {P} (hP : ∀ a b (t : State), t.MemWf → P (a, b, t)) :
    BLeads P (s.tileAt g e c h t tile) := by
  unfold State.tileAt
  split
  · with_reducible exact bleads_ite (bleads_ok.mpr (hP _ _ _ wf)) (tileRead_bleads wf fun _ _ u hu => hP _ _ _ hu)
  · with_reducible exact tileRead_bleads wf fun _ _ u hu => hP _ _ _ hu

theorem gatherStart_bleads {s : State} (wf : s.MemWf) {g c P} (hP : ∀ a (t : State), t.MemWf → P (a, t)) :
    BLeads P (s.gatherStart g c) := by
  unfold State.gatherStart
  dsimp only
  with_reducible
    refine .bind <| illIf_bleads wf (.bind <| illIf_bleads wf (.bind <| illIf_bleads wf (.bind <| levelIll_bleads wf (.bind <|
      levelIll_bleads wf (.bind <| beatRead_bleads wf fun _ u hu => bleads_ite (.bind <| needNs_bleads hu fun _ => ?_) (.bind <|
      tensor_bleads hu fun _ _ v hv => .bind <| illIf_bleads hv (bleads_ok.mpr (hP _ _ hv))))))))
  split
  · with_reducible exact bleads_bIll.mpr hu
  · with_reducible exact bleads_ok.mpr (hP _ _ hu)

theorem tnsUnit_bleads {s : State} (wf : s.MemWf) {g c j t P} (hP : ∀ a b c1 (t1 : State), t1.MemWf → P (a, b, c1, t1)) :
    BLeads P (s.tnsUnit g c j t) :=
  bleads_ite (bleads_bCause.mpr wf) (bleads_ite (bleads_ok.mpr (hP _ _ _ _ wf)) (.bind <| tileAt_bleads wf fun _ _ _ hu =>
    bleads_ok.mpr (hP _ _ _ _ hu)))

theorem unitAt_bleads {s : State} (wf : s.MemWf) {g c j P} (hP : ∀ a b (t : State), t.MemWf → P (a, b, t)) : BLeads P (s.unitAt g c j) :=
  .bind <| causeIf_bleads wf (bleads_ite (.bind <| resolve_bleads wf fun _ _ _ hu => bleads_ok.mpr (hP _ _ _ hu)) (.bind <|
    tensor_bleads wf fun _ _ _ hu => .bind <| tnsUnit_bleads hu fun _ _ _ _ hv => bleads_ok.mpr (hP _ _ _ hv)))

theorem gatherBeat_bleads {s : State} (wf : s.MemWf) {g c j P} (hP : ∀ a (t : State), t.MemWf → P (a, t)) :
    BLeads P (s.gatherBeat g c j) := by
  unfold State.gatherBeat
  dsimp only
  with_reducible refine .bind <| unitAt_bleads wf fun _ _ u hu => ?_
  split
  · with_reducible exact bleads_ite (bleads_ok.mpr (hP _ _ hu)) (.bind <| beatWrite_bleads hu fun v hv => bleads_ok.mpr (hP _ _ hv))
  · with_reducible exact .bind <| readNode_bleads hu fun _ => .bind <| beatWrite_bleads hu fun v hv => bleads_ok.mpr (hP _ _ hv)
  · with_reducible
      exact bleads_ite (.bind <| beatXl_bleads hu fun _ v hv => .bind <| beatGo_bleads hv fun w hw => bleads_ok.mpr (hP _ _
        (engWrite_memWf (engRead_memWf (engRead_memWf hw ..) ..) ..))) (.bind <| beatMove_bleads hu fun v hv => bleads_ok.mpr (hP _ _ hv))

theorem copyStart_bleads {s : State} (wf : s.MemWf) {g c P} (hP : ∀ a (t : State), t.MemWf → P (a, t)) : BLeads P (s.copyStart g c) := by
  unfold State.copyStart
  split
  · with_reducible exact .bind <| copyCheck_bleads wf (bleads_ok.mpr (hP _ _ wf))
  · with_reducible exact .bind <| illIf_bleads wf (bleads_ok.mpr (hP _ _ wf))
  · with_reducible exact .bind <| illIf_bleads wf (bleads_ok.mpr (hP _ _ wf))
  · with_reducible
      exact .bind <| illIf_bleads wf (.bind <| needNs_bleads wf fun _ => .bind <| levelIll_bleads wf (bleads_ok.mpr (hP _ _ wf)))
  · with_reducible exact gatherStart_bleads wf fun _ u hu => hP _ _ hu

theorem moveBeat_bleads {s : State} (wf : s.MemWf) {g c k P} (hP : ∀ a (t : State), t.MemWf → P (a, t)) : BLeads P (s.moveBeat g c k) := by
  unfold State.moveBeat
  dsimp only
  split
  · with_reducible exact .bind <| copyBeat_bleads wf fun u hu => bleads_ok.mpr (hP _ _ hu)
  · with_reducible exact .bind <| ovlBeat_bleads wf fun u hu => bleads_ok.mpr (hP _ _ hu)
  · with_reducible exact .bind <| ovlBeat_bleads wf fun u hu => bleads_ok.mpr (hP _ _ hu)
  · with_reducible exact .bind <| needNs_bleads wf fun _ => .bind <| copynGo_bleads wf fun _ u hu => bleads_ok.mpr (hP _ _ hu)
  · with_reducible exact gatherBeat_bleads wf fun _ u hu => hP _ _ hu

theorem moveGo_bleads {s : State} (wf : s.MemWf) {g e l c P} (hP : ∀ (t : State) a, t.MemWf → P (t, a)) :
    BLeads P (State.moveGo g e l c s) := by
  induction l generalizing c s P with
  | zero =>
    unfold State.moveGo
    with_reducible exact bleads_ok.mpr (hP _ _ wf)
  | succ i ih =>
    unfold State.moveGo
    dsimp only
    with_reducible
      exact bleads_ite (.bind <| copyStart_bleads wf fun _ u hu => ih (putCmd_memWf hu ..) fun v _ hv => hP _ _ hv) (bleads_ite
        (bleads_ok.mpr (hP _ _ wf)) (.bind <| moveBeat_bleads wf fun _ u hu => ih (putCmd_memWf hu ..) fun v _ hv => hP _ _ hv))

/-! ### Seals -/

theorem putEntry_memWf {s : State} (wf : s.MemWf) (pa e) : (s.putEntry pa e).MemWf := wrDev_memWf wf ..

theorem startShootdown_memWf {s : State} (wf : s.MemWf) (scope ctx va host cmd) : (s.startShootdown scope ctx va host cmd).MemWf := wf

theorem settleStores_yields {s : State} (wf : s.MemWf) {ctx} {P : State → Prop} (hP : ∀ t : State, t.MemWf → P t) :
    Yields P (s.settleStores ctx) :=
  yields_ite yields_none (yields_some.mpr (hP _ (foldl_memWf (fun _ _ hu => drainDie_memWf (dirtyBack_memWf hu ..) ..) wf)))

theorem rseal_bleads {s : State} (wf : s.MemWf) {g c P} (hP : ∀ (t : State) a, t.MemWf → P (t, a)) : BLeads P (s.rseal g c) := by
  unfold State.rseal
  dsimp only
  with_reducible refine bleads_ite (bleads_ite (bleads_bWait.mpr wf) (bleads_ok.mpr (hP _ _ wf))) ?_
  split
  · with_reducible exact bleads_bCause.mpr wf
  · with_reducible
      refine bleads_ite (bleads_bCause.mpr wf) (bleads_ite (bleads_ite (bleads_bCause.mpr wf) (bleads_ok.mpr (hP _ _ (modCtx_memWf
        (modTile_memWf wf ..) ..)))) (bleads_ite (bleads_bCause.mpr wf) ?_))
    split
    · with_reducible exact bleads_bCause.mpr wf
    · with_reducible refine bleads_ite (bleads_bCause.mpr wf) ?_
      split
      · with_reducible exact bleads_bWait.mpr wf
      · next e2 =>
          with_reducible
            exact bleads_ok.mpr (hP _ _ (putCmd_memWf (startShootdown_memWf (modCtx_memWf (foldl_memWf (fun u _ hu => putEntry_memWf hu ..)
              (Yields.of_eq_some (P := State.MemWf) (settleStores_yields wf fun u hu => hu) e2)) ..) ..) ..))

end Sys2Proof.Machine
end

section
set_option Elab.async false
/-! PROOFS. Storage stays canonical: reads, seals, tokens and collectives. -/
namespace Sys2Proof.Machine

/-! ### Seals -/

theorem runseal_bleads {s : State} (wf : s.MemWf) {g c P} (hP : ∀ (t : State) a, t.MemWf → P (t, a)) : BLeads P (s.runseal g c) := by
  unfold State.runseal
  dsimp only
  with_reducible refine bleads_ite (bleads_ite (bleads_bWait.mpr wf) (bleads_ok.mpr (hP _ _ wf))) ?_
  split
  · with_reducible exact bleads_bCause.mpr wf
  · with_reducible
      refine bleads_ite (bleads_bCause.mpr wf) (bleads_ite (bleads_bCause.mpr wf) (bleads_ite (bleads_ok.mpr (hP _ _ (modTile_memWf
        (modCtx_memWf wf ..) ..))) ?_))
    split
    · with_reducible exact bleads_bCause.mpr wf
    · with_reducible
        exact bleads_ok.mpr (hP _ _ (putCmd_memWf (startShootdown_memWf (foldl_memWf (fun u _ hu => putEntry_memWf hu ..) (modCtx_memWf wf
          ..)) ..) ..))

/-! ### Tokens -/

theorem execTkwait_nextWf {s : State} (wf : s.MemWf) (k) : NextWf (execTkwait k s) :=
  issue_nextWf wf fun _ _ _ hu => leads_ite (leads_waitIn.mpr hu) (leads_ok.mpr hu)

theorem execTktest_nextWf {s : State} (wf : s.MemWf) (d k) : NextWf (execTktest d k s) :=
  issue_nextWf wf fun _ _ _ hu => .bind <| freeS_leads hu fun _ hv => leads_ok.mpr (wrS_memWf hv ..)

theorem execTkcnt_nextWf {s : State} (wf : s.MemWf) (d k) : NextWf (execTkcnt d k s) :=
  issue_nextWf wf fun _ _ _ hu => .bind <| freeS_leads hu fun _ hv => leads_ok.mpr (wrS_memWf hv ..)

theorem pushLoose_memWf {s : State} (wf : s.MemWf) (g c) : (s.pushLoose g c).MemWf := wf

theorem execXfnc_nextWf {s : State} (wf : s.MemWf) (k level) : NextWf (execXfnc k level s) :=
  issue_nextWf wf fun _ _ _ hu => .bind <| raiseIf_leads hu (.bind <| waitCmd_leads hu (leads_ok.mpr (pushLoose_memWf hu ..)))

theorem execDrain_nextWf {s : State} (wf : s.MemWf) (k mask) : NextWf (execDrain k mask s) :=
  issue_nextWf wf fun _ _ _ hu => .bind <| waitCmd_leads hu (leads_ok.mpr (pushLoose_memWf hu ..))

theorem pushEntry_memWf {s : State} (wf : s.MemWf) (g l n d words) : (s.pushEntry g l n d words).MemWf :=
  setLaunch_memWf (wrGran_memWf wf ..) ..

theorem execSqpush_nextWf {s : State} (wf : s.MemWf) (f) : NextWf (execSqpush f s) := by
  unfold execSqpush
  dsimp only
  with_reducible refine issue_nextWf wf fun _ _ u hu => .bind <| raiseIf_leads hu ?_
  split
  · with_reducible exact leads_trapIn.mpr hu
  · with_reducible exact leads_ite (leads_ok.mpr (modTile_memWf hu ..)) (leads_ok.mpr (modTile_memWf (pushEntry_memWf hu ..) ..))

theorem imageBack_memWf {s : State} (wf : s.MemWf) (u) : (s.imageBack u).MemWf :=
  modHolder_memWf (foldl_memWf (fun _ _ hv => mergeBack_memWf hv ..) wf) ..

theorem pushPerformed_memWf {s : State} (wf : s.MemWf) {l} : (s.pushPerformed l).MemWf := by
  unfold State.pushPerformed
  split
  · with_reducible exact wf
  · with_reducible exact memWf_ite (releaseNow_memWf wf ..) (imageBack_memWf wf ..)

theorem execStageEntryAvailable_nextWf {s : State} (wf : s.MemWf) (id die stage) : NextWf (execStageEntryAvailable id die stage s) := by
  unfold execStageEntryAvailable
  dsimp only
  with_reducible refine event_nextWf ?_
  split
  · with_reducible exact wf
  · split
    · with_reducible exact wf
    · with_reducible exact memWf_ite wf (setLaunch_memWf (pushPerformed_memWf wf) ..)

theorem execEnq_nextWf {s : State} (wf : s.MemWf) (f r) : NextWf (execEnq f r s) :=
  issue_nextWf wf fun _ _ _ hu => .bind <| raiseIf_leads hu (.bind <| raiseIf_leads hu (.bind <| raiseIf_leads hu (leads_ok.mpr
    (setTile_memWf hu ..))))

theorem execBar_nextWf {s : State} (wf : s.MemWf) : NextWf (execBar s) := by
  unfold execBar
  dsimp only
  with_reducible refine issue_nextWf wf fun _ _ u hu => ?_
  split
  · with_reducible exact leads_trapIn.mpr hu
  · with_reducible
      exact .bind <| settleRelease_leads hu fun v hv => leads_ite (leads_waitIn.mpr (modTile_memWf (release_memWf hv ..) ..)) (leads_ite
        (leads_waitIn.mpr hv) (leads_ok.mpr (modTile_memWf (acquire_memWf hv ..) ..)))

theorem execCohortBarrierComplete_nextWf {s : State} (wf : s.MemWf) (id group) : NextWf (execCohortBarrierComplete id group s) := by
  unfold execCohortBarrierComplete
  dsimp only
  with_reducible refine event_nextWf ?_
  split
  · with_reducible exact wf
  · with_reducible exact memWf_ite wf (setLaunch_memWf wf ..)

/-! ### Collective -/

theorem mapColl_memWf {s : State} (wf : s.MemWf) (f) : (s.mapColl f).MemWf := wf

theorem collData_memWf {s : State} (wf : s.MemWf) (src group seq tag matching data) :
    (s.collData src group seq tag matching data).MemWf := wf

theorem collSendReady_memWf {s : State} (wf : s.MemWf) (dst group seq tag) : (s.collSendReady dst group seq tag).MemWf :=
  memWf_ite (memWf_of_mem_eq wf (by rfl)) (emit_memWf wf ..)

theorem collSendData_memWf {s : State} (wf : s.MemWf) (dst group seq tag data) : (s.collSendData dst group seq tag data).MemWf :=
  memWf_ite (collData_memWf wf ..) (emit_memWf wf ..)

theorem execCollectiveReady_nextWf {s : State} (wf : s.MemWf) (src group seq tag) : NextWf (execCollectiveReady src group seq tag s) :=
  event_nextWf (memWf_of_mem_eq wf (by rfl))

theorem execCollectiveData_nextWf {s : State} (wf : s.MemWf) (src group seq tag matching data) :
    NextWf (execCollectiveData src group seq tag matching data s) :=
  event_nextWf (collData_memWf wf ..)

theorem collStart_bleads {s : State} (wf : s.MemWf) {g c} {P : State → Prop} (hP : ∀ t : State, t.MemWf → P t) :
    BLeads P (s.collStart g c) := by
  unfold State.collStart
  dsimp only
  with_reducible refine .bind <| illIf_bleads wf (.bind <| beatRead_bleads wf fun _ u hu => .bind <| causeIf_bleads hu ?_)
  split
  · with_reducible exact bleads_bIll.mpr hu
  · with_reducible
      exact .bind <| beatRead_bleads hu fun _ v hv => .bind <| causeIf_bleads hv (.bind <| illIf_bleads hv (.bind <| illIf_bleads hv
        (bleads_ite (bleads_ok.mpr (hP _ (putCmd_memWf hv ..))) (bleads_ok.mpr (hP _ (putCmd_memWf (foldl_memWf (fun w _ hw =>
        collSendReady_memWf hw ..) hv) ..))))))

theorem collSend_bleads {s : State} (wf : s.MemWf) {g c src l P} (hP : ∀ a (t : State), t.MemWf → P (a, t)) :
    BLeads P (s.collSend g c src l) := by
  induction l generalizing s g c src P with
  | nil =>
    unfold State.collSend
    with_reducible exact bleads_ok.mpr (hP _ _ wf)
  | cons i is ih =>
    unfold State.collSend
    dsimp only
    with_reducible refine bleads_ite (ih wf fun _ u hu => hP _ _ hu) ?_
    split
    · with_reducible exact ih wf fun _ u hu => hP _ _ hu
    · with_reducible
        exact bleads_ite (bleads_bCause.mpr wf) (ih (collSendData_memWf (putCmd_memWf (memWf_of_mem_eq wf (by rfl)) ..) ..) fun _ u hu => hP
          _ _ hu)

theorem collFinish_bleads {s : State} (wf : s.MemWf) {g c out n status} {P : State → Prop} (hP : ∀ t : State, t.MemWf → P t) :
    BLeads P (s.collFinish g c out n status) :=
  bleads_ite (.bind <| bleads_ok.mpr (beatWrite_bleads wf fun _ hu => hP _ hu)) (.bind <| beatWrite_bleads wf fun _ hu =>
    beatWrite_bleads hu fun _ hv => hP _ hv)

theorem collGo_bleads {s : State} (wf : s.MemWf) {g c P} (hP : ∀ (t : State) a, t.MemWf → P (t, a)) : BLeads P (s.collGo g c) :=
  bleads_ite (.bind <| collStart_bleads wf fun _ hu => bleads_ok.mpr (hP _ _ hu)) (bleads_ite (.bind <| collFinish_bleads
    (free_memWf (free_memWf wf ..) ..) fun _ hu => bleads_ok.mpr (hP _ _ hu)) (bleads_ite (.bind <| bleads_ok.mpr (.bind <|
    collSend_bleads wf fun _ _ hu => bleads_ite (.bind <| collFinish_bleads hu fun _ hv => bleads_ok.mpr (hP _ _ hv)) (bleads_ok.mpr
    (hP _ _ hu)))) (.bind <| beatRead_bleads wf fun _ _ hu => .bind <| collSend_bleads hu fun _ _ hv => bleads_ite (.bind <|
    collFinish_bleads hv fun _ hw => bleads_ok.mpr (hP _ _ hw)) (bleads_ok.mpr (hP _ _ hv)))))

theorem execCollectiveTimeout_nextWf {s : State} (wf : s.MemWf) (g seq) : NextWf (execCollectiveTimeout g seq s) := by
  unfold execCollectiveTimeout
  with_reducible refine powered_nextWf wf ?_
  split
  · with_reducible exact wf
  · with_reducible exact memWf_ite (putCmd_memWf wf ..) wf

theorem collLinkDown_memWf {s : State} (wf : s.MemWf) (p) : (s.collLinkDown p).MemWf := wf

/-! ### MatrixCore -/

theorem matRead_bleads {s : State} (wf : s.MemWf) {g c sp addr n must P} (hP : ∀ a (t : State), t.MemWf → P (a, t)) :
    BLeads P (s.matRead g c sp addr n must) :=
  .bind <| levelIll_bleads wf (.bind <| beatXl_bleads wf fun _ _ hu => .bind <| illIf_bleads hu (.bind <| beatGo_bleads hu fun _
    hv => bleads_ok.mpr (hP _ _ (engRead_memWf hv ..))))

theorem scaleRow_bleads {s : State} (wf : s.MemWf) {g c d q n must P} (hP : ∀ a (t : State), t.MemWf → P (a, t)) :
    BLeads P (s.scaleRow g c d q n must) :=
  bleads_ite (bleads_ok.mpr (hP _ _ wf)) (.bind <| matRead_bleads wf fun _ _ hu => bleads_ok.mpr (hP _ _ hu))

theorem matTensor_bleads {s : State} (wf : s.MemWf) {g c d P} (hP : ∀ a b (t : State), t.MemWf → P (a, b, t)) :
    BLeads P (s.matTensor g c d) :=
  .bind <| tensor_bleads wf fun _ _ _ hu => .bind <| illIf_bleads hu (bleads_ok.mpr (hP _ _ _ hu))

theorem tnsElem_bleads {s : State} (wf : s.MemWf) {g c h t co P} (hP : ∀ a b (t1 : State), t1.MemWf → P (a, b, t1)) :
    BLeads P (s.tnsElem g c h t co) :=
  bleads_ite (bleads_ite (bleads_bCause.mpr wf) (bleads_ok.mpr (hP _ _ _ wf))) (.bind <| tileAt_bleads wf fun _ _ _ hu =>
    bleads_ok.mpr (hP _ _ _ hu))

theorem tnsRow_bleads {s : State} (wf : s.MemWf) {g d t q must l c m P} (hP : ∀ a b (t1 : State), t1.MemWf → P (a, b, t1)) :
    BLeads P (State.tnsRow g d t q must l c m s) := by
  induction l generalizing c m s P with
  | zero =>
    unfold State.tnsRow
    with_reducible exact bleads_ok.mpr (hP _ _ _ wf)
  | succ i ih =>
    unfold State.tnsRow
    dsimp only
    with_reducible refine .bind <| tnsElem_bleads wf fun _ _ u hu => ?_
    split
    · with_reducible exact .bind <| ih hu fun _ _ v hv => bleads_ok.mpr (hP _ _ _ hv)
    · with_reducible exact .bind <| matRead_bleads hu fun _ v hv => .bind <| ih hv fun _ _ w hw => bleads_ok.mpr (hP _ _ _ hw)

theorem matRow_bleads {s : State} (wf : s.MemWf) {g c d q n must P} (hP : ∀ a b (t : State), t.MemWf → P (a, b, t)) :
    BLeads P (s.matRow g c d q n must) :=
  bleads_ite (.bind <| matRead_bleads wf fun _ _ hu => bleads_ok.mpr (hP _ _ _ hu)) (bleads_ite (.bind <| matTensor_bleads wf
    fun _ _ _ hu => tnsRow_bleads hu fun _ _ _ hv => hP _ _ _ hv) (.bind <| resolve_bleads wf fun _ _ _ hu => .bind <| illIf_bleads hu
    (.bind <| readNode_bleads hu fun _ => bleads_ok.mpr (hP _ _ _ hu))))

theorem matVals_bleads {s : State} (wf : s.MemWf) {g c d q n P} (hP : ∀ a b (t : State), t.MemWf → P (a, b, t)) :
    BLeads P (s.matVals g c d q n) :=
  .bind <| matRow_bleads wf fun _ _ _ hu => .bind <| scaleRow_bleads hu fun _ _ hv => bleads_ok.mpr (hP _ _ _ hv)

theorem matRows_bleads {s : State} (wf : s.MemWf) {g d n l c m P} (hP : ∀ a b (t : State), t.MemWf → P (a, b, t)) :
    BLeads P (State.matRows g d n l c m s) := by
  induction l generalizing c m s P with
  | zero =>
    unfold State.matRows
    with_reducible exact bleads_ok.mpr (hP _ _ _ wf)
  | succ i ih =>
    unfold State.matRows
    with_reducible exact .bind <| matVals_bleads wf fun _ _ u hu => .bind <| ih hu fun _ _ v hv => bleads_ok.mpr (hP _ _ _ hv)

theorem weightRow_bleads {s : State} (wf : s.MemWf) {g c b n P} (hP : ∀ a b1 (t : State), t.MemWf → P (a, b1, t)) :
    BLeads P (s.weightRow g c b n) :=
  .bind <| matRow_bleads wf fun _ _ _ hu => .bind <| scaleRow_bleads hu fun _ _ hv => bleads_ite (.bind <| matRead_bleads hv fun
    _ _ hw => .bind <| illIf_bleads hw (bleads_ok.mpr (hP _ _ _ hw))) (bleads_ok.mpr (hP _ _ _ hv))

theorem weightRows_bleads {s : State} (wf : s.MemWf) {g b l c m P} (hP : ∀ a b1 (t : State), t.MemWf → P (a, b1, t)) :
    BLeads P (State.weightRows g b l c m s) := by
  induction l generalizing c m s P with
  | zero =>
    unfold State.weightRows
    with_reducible exact bleads_ok.mpr (hP _ _ _ wf)
  | succ i ih =>
    unfold State.weightRows
    with_reducible exact .bind <| weightRow_bleads wf fun _ _ u hu => .bind <| ih hu fun _ _ v hv => bleads_ok.mpr (hP _ _ _ hv)

end Sys2Proof.Machine
end

section
set_option Elab.async false
/-! PROOFS. Storage stays canonical: the matrix engine and captures. -/
namespace Sys2Proof.Machine

/-! ### MatrixCore -/

theorem adapterRows_bleads {s : State} (wf : s.MemWf) {g ty base stride first n l c m P} (hP : ∀ a (t : State), t.MemWf → P (a, t)) :
    BLeads P (State.adapterRows g ty base stride first n l c m s) := by
  induction l generalizing c m s P with
  | zero =>
    unfold State.adapterRows
    with_reducible exact bleads_ok.mpr (hP _ _ wf)
  | succ i ih =>
    unfold State.adapterRows
    dsimp only
    with_reducible exact .bind <| matRead_bleads wf fun _ u hu => .bind <| ih hu fun _ v hv => bleads_ok.mpr (hP _ _ hv)

theorem adapter_bleads {s : State} (wf : s.MemWf) {g c h k P} (hP : ∀ a (t : State), t.MemWf → P (a, t)) :
    BLeads P (s.adapter g c h k) := by
  unfold State.adapter
  dsimp only
  split
  · with_reducible exact bleads_bIll.mpr wf
  · with_reducible
      exact .bind <| matRead_bleads wf fun _ u hu => .bind <| causeIf_bleads hu (.bind <| illIf_bleads hu (.bind <| adapterRows_bleads hu
        fun _ v hv => .bind <| adapterRows_bleads hv fun _ w hw => bleads_ok.mpr (hP _ _ hw)))

/-! ### Matrix -/

theorem matrixCheck_leads {s : State} (wf : s.MemWf) {g c} {P : Unit → Prop} (hP : P ()) : Leads P (matrixCheck s g c) := by
  unfold matrixCheck
  dsimp only
  split
  · with_reducible refine leads_ite (needClass_leads wf hP) ?_
    split
    · with_reducible exact leads_trapIn.mpr wf
    · with_reducible exact .bind <| raiseIf_leads wf (.bind <| raiseIf_leads wf (needClass_leads wf hP))
  · with_reducible refine leads_ite (needClass_leads wf hP) ?_
    split
    · with_reducible exact leads_trapIn.mpr wf
    · with_reducible exact .bind <| raiseIf_leads wf (.bind <| raiseIf_leads wf (needClass_leads wf hP))
  · with_reducible exact needClass_leads wf hP

theorem matrixIssue_nextWf {s : State} (wf : s.MemWf) (op y k sa sb sc imm) : NextWf (matrixIssue op y k sa sb sc imm s) := by
  unfold matrixIssue
  dsimp only
  with_reducible refine issue_nextWf wf fun _ _ u hu => .bind <| waitCmd_leads hu (.bind <| rd3_leads hu fun _ _ _ v hv => ?_)
  split
  · with_reducible exact leads_trapIn.mpr hv
  · with_reducible exact leads_trapIn.mpr hv
  · with_reducible
      exact .bind <| raiseIf_leads hv (.bind <| matrixCheck_leads hv (leads_ite (.bind <| leads_ok.mpr (leads_ok.mpr (pushCmd_memWf
        (modTile_memWf hv ..) ..))) (.bind <| useUnit_leads hv fun w hw => leads_ok.mpr (pushCmd_memWf (modTile_memWf hw ..) ..))))

theorem computeStart_bleads {s : State} (wf : s.MemWf) {g c P} (hP : ∀ a (t : State), t.MemWf → P (a, t)) :
    BLeads P (s.computeStart g c) := by
  unfold State.computeStart
  dsimp only
  with_reducible refine .bind <| illIf_bleads wf (bleads_ite (bleads_ok.mpr (hP _ _ wf)) (.bind <| illIf_bleads wf ?_))
  split
  · with_reducible exact bleads_bIll.mpr wf
  · with_reducible exact .bind <| illIf_bleads wf (.bind <| illIf_bleads wf (bleads_ok.mpr (hP _ _ wf)))

theorem adapters_bleads {s : State} (wf : s.MemWf) {g c k lo l P} (hP : ∀ a (t : State), t.MemWf → P (a, t)) :
    BLeads P (State.adapters g c k lo l s) := by
  induction l generalizing s P with
  | nil =>
    unfold State.adapters
    with_reducible exact bleads_ok.mpr (hP _ _ wf)
  | cons i is ih =>
    unfold State.adapters
    with_reducible
      exact bleads_ite (.bind <| adapter_bleads wf fun _ u hu => .bind <| ih hu fun _ v hv => bleads_ok.mpr (hP _ _ hv)) (ih wf fun _ u hu
        => hP _ _ hu)

theorem rowBlock_bleads {s : State} (wf : s.MemWf) {g c b P} (hP : ∀ a (t : State), t.MemWf → P (a, t)) : BLeads P (s.rowBlock g c b) := by
  unfold State.rowBlock
  dsimp only
  split
  · with_reducible exact bleads_bIll.mpr wf
  · with_reducible
      exact bleads_ite (.bind <| bleads_bWait.mpr wf) (.bind <| bleads_ok.mpr (bleads_ite (bleads_bCause.mpr wf) (.bind <| illIf_bleads wf
        (.bind <| matRows_bleads wf fun _ _ u hu => .bind <| adapters_bleads hu fun _ v hv => bleads_ok.mpr (hP _ _ (modTile_memWf hv
        ..))))))

theorem lineBeats_bleads {s : State} (wf : s.MemWf) {g c l c1} {P : State → Prop} (hP : ∀ t : State, t.MemWf → P t) :
    BLeads P (State.lineBeats g c l c1 s) := by
  induction l generalizing c1 s P with
  | nil =>
    unfold State.lineBeats
    with_reducible exact bleads_ok.mpr (hP _ wf)
  | cons i is ih =>
    unfold State.lineBeats
    with_reducible exact .bind <| beatWrite_bleads wf fun u hu => ih hu fun v hv => hP _ hv

theorem matWrite_bleads {s : State} (wf : s.MemWf) {g c sp addr bs} {P : State → Prop} (hP : ∀ t : State, t.MemWf → P t) :
    BLeads P (s.matWrite g c sp addr bs) :=
  .bind <| levelIll_bleads wf (bleads_ite (lineBeats_bleads wf fun _ hu => hP _ hu) (beatWrite_bleads wf fun _ hu => hP _ hu))

theorem tnsPlaces_bleads {s : State} (wf : s.MemWf) {g h t l c P} (hP : ∀ a b (t1 : State), t1.MemWf → P (a, b, t1)) :
    BLeads P (State.tnsPlaces g h t l c s) := by
  induction l generalizing c s P with
  | nil =>
    unfold State.tnsPlaces
    with_reducible exact bleads_ok.mpr (hP _ _ _ wf)
  | cons i is ih =>
    unfold State.tnsPlaces
    with_reducible exact .bind <| tnsElem_bleads wf fun _ _ u hu => .bind <| ih hu fun _ _ v hv => bleads_ok.mpr (hP _ _ _ hv)

theorem tnsPut_memWf {s : State} (wf : s.MemWf) (g bits p pl) : (s.tnsPut g bits p pl).MemWf :=
  memWf_ite (engWrite_memWf (engRead_memWf wf ..) ..) (engWrite_memWf wf ..)

theorem tnsStore_bleads {s : State} (wf : s.MemWf) {g h t l c P} (hP : ∀ a (t1 : State), t1.MemWf → P (a, t1)) :
    BLeads P (State.tnsStore g h t l c s) := by
  induction l generalizing c s P with
  | nil =>
    unfold State.tnsStore
    with_reducible exact bleads_ok.mpr (hP _ _ wf)
  | cons i is ih =>
    unfold State.tnsStore
    with_reducible
      exact .bind <| tnsPlaces_bleads wf fun _ _ u hu => .bind <| beatXl_bleads hu fun _ v hv => .bind <| beatGo_bleads hv fun w hw => ih
        (foldl_memWf (fun x _ hx => tnsPut_memWf hx ..) hw) fun _ x hx => hP _ _ hx

theorem storeRow_bleads {s : State} (wf : s.MemWf) {g c d q row P} (hP : ∀ a (t : State), t.MemWf → P (a, t)) :
    BLeads P (s.storeRow g c d q row) :=
  bleads_ite (.bind <| matWrite_bleads wf fun _ hu => bleads_ok.mpr (hP _ _ hu)) (bleads_ite (.bind <| matTensor_bleads wf fun _
    _ _ hu => tnsStore_bleads hu fun _ _ hv => hP _ _ hv) (.bind <| resolve_bleads wf fun _ _ _ hu => .bind <| illIf_bleads hu
    (bleads_ite (bleads_bCause.mpr hu) (bleads_ok.mpr (hP _ _ (writeNode_memWf hu ..))))))

theorem epiRows_bleads {s : State} (wf : s.MemWf) {g b tag bias l c m P} (hP : ∀ a (t : State), t.MemWf → P (a, t)) :
    BLeads P (State.epiRows g b tag bias l c m s) := by
  induction l generalizing c m s P with
  | nil =>
    unfold State.epiRows
    with_reducible exact bleads_ok.mpr (hP _ _ wf)
  | cons i is ih =>
    unfold State.epiRows
    dsimp only
    with_reducible
      exact .bind <| storeRow_bleads wf fun _ u hu => bleads_ite (.bind <| matWrite_bleads hu fun v hv => ih hv fun _ w hw => hP _ _ hw)
        (.bind <| bleads_ok.mpr (ih hu fun _ v hv => hP _ _ hv))

theorem epilogue_bleads {s : State} (wf : s.MemWf) {g c b P} (hP : ∀ a (t : State), t.MemWf → P (a, t)) : BLeads P (s.epilogue g c b) :=
  .bind <| causeIf_bleads wf (bleads_ite (.bind <| matRead_bleads wf fun _ _ hu => .bind <| epiRows_bleads hu fun _ _ hv =>
    bleads_ok.mpr (hP _ _ hv)) (.bind <| bleads_ok.mpr (.bind <| epiRows_bleads wf fun _ _ hu => bleads_ok.mpr (hP _ _ hu))))

theorem loadPlane_bleads {s : State} (wf : s.MemWf) {g c P} (hP : ∀ a (t : State), t.MemWf → P (a, t)) : BLeads P (s.loadPlane g c) :=
  .bind <| illIf_bleads wf (.bind <| weightRows_bleads (modTile_memWf wf ..) fun _ _ _ hu => bleads_ok.mpr (hP _ _
    (modTile_memWf hu ..)))

theorem computeGo_bleads {s : State} (wf : s.MemWf) {g ahead l c P} (hP : ∀ a (t : State) b, t.MemWf → P (a, t, b)) :
    BLeads P (State.computeGo g ahead l c s) := by
  induction l generalizing c s P with
  | zero =>
    unfold State.computeGo
    with_reducible exact bleads_ok.mpr (hP _ _ _ wf)
  | succ i ih =>
    unfold State.computeGo
    dsimp only
    with_reducible
      exact bleads_ite (bleads_ok.mpr (hP _ _ _ wf)) (bleads_ite (.bind <| computeStart_bleads wf fun _ u hu => ih (putCmd_memWf hu ..)
        fun _ v _ hv => hP _ _ _ hv) (bleads_ite (.bind <| epilogue_bleads wf fun _ u hu => ih (putCmd_memWf hu ..) fun _ v _ hv => hP _ _
        _ hv) (.bind <| rowBlock_bleads wf fun _ u hu => ih (putCmd_memWf hu ..) fun _ v _ hv => hP _ _ _ hv)))

theorem matrixGo_bleads {s : State} (wf : s.MemWf) {g c P} (hP : ∀ a (t : State) b, t.MemWf → P (a, t, b)) : BLeads P (s.matrixGo g c) := by
  unfold State.matrixGo
  dsimp only
  split
  · with_reducible exact .bind <| loadPlane_bleads (putCmd_memWf wf ..) fun _ u hu => bleads_ok.mpr (hP _ _ _ hu)
  · with_reducible exact bleads_ok.mpr (hP _ _ _ (modTile_memWf wf ..))
  · with_reducible exact .bind <| computeGo_bleads wf fun _ u _ hu => bleads_ok.mpr (hP _ _ _ (memWf_ite (modTile_memWf hu ..) hu))

theorem execZclr_nextWf {s : State} (wf : s.MemWf) (z k) : NextWf (execZclr z k s) :=
  issue_nextWf wf fun _ _ _ hu => .bind <| needClass_leads hu (.bind <| useUnit_leads hu fun _ hv => leads_ok.mpr (modTile_memWf
    hv ..))

theorem rdZRow_memWf {s : State} (wf : s.MemWf) (g z row) : (s.rdZRow g z row).2.MemWf := readOpen_memWf wf ..

theorem execZrd_nextWf {s : State} (wf : s.MemWf) (d z row) : NextWf (execZrd d z row s) :=
  issue_nextWf wf fun _ _ _ hu => .bind <| needClass_leads hu (.bind <| raiseIf_leads hu (.bind <| useUnit_leads hu fun _ hv =>
    .bind <| openDst_leads hv fun _ hw => putV_leads (rdZRow_memWf hw ..) fun _ hx => hx))

theorem execZwr_nextWf {s : State} (wf : s.MemWf) (d z row k) : NextWf (execZwr d z row k s) :=
  issue_nextWf wf fun _ _ _ hu => .bind <| needClass_leads hu (.bind <| useUnit_leads hu fun _ hv => .bind <| needV_leads hv fun
    _ hw => leads_ok.mpr (modTile_memWf (rdV_memWf hw ..) ..))

theorem execZcvt_nextWf {s : State} (wf : s.MemWf) (z k) : NextWf (execZcvt z k s) :=
  issue_nextWf wf fun _ _ _ hu => .bind <| needClass_leads hu (.bind <| raiseIf_leads hu (.bind <| useUnit_leads hu fun _ hv =>
    leads_ok.mpr (modTile_memWf (readOpen_memWf hv ..) ..)))

theorem execMcfgwr_nextWf {s : State} (wf : s.MemWf) (r) : NextWf (execMcfgwr r s) :=
  issue_nextWf wf fun _ _ _ hu => .bind <| raiseIf_leads hu (leads_ok.mpr (modTile_memWf (rdS_memWf hu ..) ..))

theorem execMcfgrd_nextWf {s : State} (wf : s.MemWf) (d) : NextWf (execMcfgrd d s) :=
  issue_nextWf wf fun _ _ _ hu => .bind <| freeS_leads hu fun _ hv => leads_ok.mpr (wrS_memWf hv ..)

/-! ### EngRun -/

theorem saltGo_bleads {s : State} (wf : s.MemWf) {g c P} (hP : ∀ (t : State) a, t.MemWf → P (t, a)) : BLeads P (s.saltGo g c) := by
  unfold State.saltGo
  dsimp only
  split
  · with_reducible exact .map <| pxHash_bleads wf fun u hu => hP _ _ hu
  · with_reducible exact pxMatch_bleads wf fun u _ hu => hP _ _ hu
  · with_reducible exact .map <| pxPath_bleads wf fun u hu => hP _ _ hu
  · with_reducible exact .map <| kvOpen_bleads wf fun u hu => hP _ _ hu
  · with_reducible exact .map <| kvSeal_bleads wf fun u hu => hP _ _ hu
  · with_reducible exact .map <| kvFork_bleads wf fun u hu => hP _ _ hu
  · with_reducible exact .map <| kvLease_bleads wf fun u hu => hP _ _ hu
  · with_reducible exact .map <| kvRelease_bleads wf fun u hu => hP _ _ hu
  · with_reducible exact rseal_bleads wf fun u _ hu => hP _ _ hu
  · with_reducible exact runseal_bleads wf fun u _ hu => hP _ _ hu
  · with_reducible exact bleads_bWait.mpr wf

theorem workCmd_bleads {s : State} (wf : s.MemWf) {g e c P} (hP : ∀ (t : State) a, t.MemWf → P (t, a)) : BLeads P (s.workCmd g e c) := by
  unfold State.workCmd
  split
  · with_reducible exact bleads_ite (copyL_bleads wf fun u _ hu => hP _ _ hu) (moveGo_bleads wf fun u _ hu => hP _ _ hu)
  · with_reducible exact moveGo_bleads wf fun u _ hu => hP _ _ hu
  · with_reducible exact .map <| matrixGo_bleads wf fun _ u _ hu => hP _ _ (putCmd_memWf hu ..)
  · with_reducible exact collGo_bleads wf fun u _ hu => hP _ _ hu
  · with_reducible exact saltGo_bleads wf fun u _ hu => hP _ _ hu

theorem endWork_memWf {g e c fin r} (hr : BLeads (fun x => x.1.MemWf) r) : (State.endWork g e c fin r).MemWf := by
  unfold State.endWork
  split
  · exact memWf_ite (finishCmd_memWf (memWf_ite (copyUndefined_memWf hr ..) hr) ..) hr
  · exact hr
  · exact hr
  · exact engineCause_memWf hr ..
  · exact haltEngine_memWf hr ..

theorem runCmd_memWf {s : State} (wf : s.MemWf) (g e seq) : (s.runCmd g e seq).MemWf := by
  unfold State.runCmd
  split
  · with_reducible exact wf
  · with_reducible exact memWf_ite (endWork_memWf (workCmd_bleads wf fun u _ hu => hu)) wf

theorem runBeats_memWf {s : State} (wf : s.MemWf) (g e seq n ahead) : (s.runBeats g e seq n ahead).MemWf := by
  unfold State.runBeats
  dsimp only
  split
  · with_reducible exact wf
  · with_reducible refine memWf_ite wf (endWork_memWf ?_)
    split
    · with_reducible exact bleads_ok.mpr wf
    · with_reducible exact moveGo_bleads wf fun u _ hu => hu
    · with_reducible exact moveGo_bleads wf fun u _ hu => hu
    · with_reducible exact bleads_ok.mpr wf
    · with_reducible exact bleads_ok.mpr wf
    · with_reducible exact .map <| computeGo_bleads wf fun _ u _ hu => putCmd_memWf hu ..
    · with_reducible exact bleads_ok.mpr wf

theorem runLoose_memWf {s : State} (wf : s.MemWf) (g i) : (s.runLoose g i).MemWf := by
  unfold State.runLoose
  dsimp only
  split
  · with_reducible exact wf
  · with_reducible
      exact memWf_ite wf (memWf_ite (memWf_ite wf (modTile_memWf wf ..)) (memWf_ite (memWf_ite (modTile_memWf wf ..) wf) (memWf_ite wf
        (modTile_memWf (drainDie_memWf (dirtyBack_memWf wf ..) ..) ..))))

theorem execEngineCommandAccept_nextWf {s : State} (wf : s.MemWf) (g e) : NextWf (execEngineCommandAccept g e s) := by
  unfold execEngineCommandAccept
  dsimp only
  with_reducible refine powered_nextWf wf (memWf_ite ?_ (acceptCmd_memWf wf ..))
  split
  · with_reducible exact endWork_memWf (collGo_bleads (acceptCmd_memWf wf ..) fun u _ hu => hu)
  · with_reducible exact acceptCmd_memWf wf ..

theorem execTokenComplete_nextWf {s : State} (wf : s.MemWf) (g e seq) : NextWf (execTokenComplete g e seq s) := by
  unfold execTokenComplete
  with_reducible refine powered_nextWf wf ?_
  split
  · with_reducible exact runCmd_memWf wf ..
  · with_reducible exact runLoose_memWf wf ..

theorem rakeTurn_memWf {s : State} (wf : s.MemWf) {d} {l} : (State.rakeTurn d l s).MemWf := by
  induction l generalizing s with
  | nil =>
    unfold State.rakeTurn
    with_reducible exact wf
  | cons i is ih =>
    unfold State.rakeTurn
    dsimp only
    split
    · with_reducible exact setDie_memWf wf ..
    · split
      · next e1 =>
          with_reducible exact setDie_memWf (BLeads.of_eq_ok (P := State.MemWf) (rakeRun_bleads wf fun u hu => hu) e1) ..
      · next e1 =>
          with_reducible exact ih (BLeads.of_eq_wait (rakeRun_bleads wf fun u hu => trivial) e1)
      · next e1 =>
          with_reducible exact engineCause_memWf (setDie_memWf (BLeads.of_eq_cause (rakeRun_bleads wf fun u hu => trivial) e1) ..) ..
      · next e1 =>
          with_reducible exact haltEngine_memWf (setDie_memWf (BLeads.of_eq_ill (rakeRun_bleads wf fun u hu => trivial) e1) ..) ..

theorem execRakeSearch_nextWf {s : State} (wf : s.MemWf) (d) : NextWf (execRakeSearch d s) := event_nextWf (rakeTurn_memWf wf)

/-! ### Capture -/

theorem zeroTile_memWf {s : State} (wf : s.MemWf) (g) : (s.zeroTile g).MemWf := zero_memWf (zero_memWf (zero_memWf wf ..) ..) ..

theorem flushL1_memWf {s : State} (wf : s.MemWf) (g) : (s.flushL1 g).MemWf := by
  unfold State.flushL1
  dsimp only
  with_reducible exact modTile_memWf (drainDie_memWf (dirtyBack_memWf wf ..) ..) ..

theorem installCtx_memWf {s : State} (wf : s.MemWf) (g c) : (s.installCtx g c).MemWf := by
  unfold State.installCtx
  dsimp only
  with_reducible exact modTile_memWf (zeroTile_memWf (flushL1_memWf wf ..) ..) ..

theorem drawKey_memWf {s : State} (wf : s.MemWf) (k) : (s.drawKey k).MemWf := wf

theorem knowCtx_memWf {s : State} (wf : s.MemWf) (d) : (s.knowCtx d).MemWf :=
  memWf_ite (memWf_ite wf (drawKey_memWf wf ..)) (setCtx_memWf (memWf_ite wf (drawKey_memWf wf ..)) ..)

theorem execContextInstall_nextWf {s : State} (wf : s.MemWf) (g d) : NextWf (execContextInstall g d s) :=
  powered_nextWf wf (memWf_ite (installCtx_memWf (knowCtx_memWf wf ..) ..) wf)

theorem beginCapture_memWf {s : State} (wf : s.MemWf) (g drop firmware) : (s.beginCapture g drop firmware).MemWf :=
  memWf_ite wf (foldl_memWf (fun u _ hu => modTile_memWf (memWf_of_mem_eq hu (by rfl)) ..) wf)

theorem rehold_memWf {s : State} (wf : s.MemWf) (a b) : (s.rehold a b).MemWf := wf

theorem drainTile_memWf {s : State} (wf : s.MemWf) (g) : (s.drainTile g).MemWf :=
  forgetAsks_memWf (drainDie_memWf (performReleases_memWf (answerAll_memWf wf ..) ..) ..) ..

theorem noteCaptured_memWf {s : State} (wf : s.MemWf) (d h i) : (s.noteCaptured d h i).MemWf := by
  unfold State.noteCaptured
  dsimp only
  split
  · with_reducible exact wf
  · with_reducible exact setLaunch_memWf wf ..

theorem endCapture_memWf {s : State} (wf : s.MemWf) (g members sect) : (s.endCapture g members sect).MemWf := by
  unfold State.endCapture
  dsimp only
  split
  · with_reducible exact wf
  · split
    · with_reducible
        exact memWf_ite (modTile_memWf (rehold_memWf (placeImage_memWf (modCtx_memWf (drainTile_memWf wf ..) ..) ..) ..) ..)
          (noteCaptured_memWf (modTile_memWf (rehold_memWf (placeImage_memWf (modCtx_memWf (drainTile_memWf wf ..) ..) ..) ..) ..) ..)
    · with_reducible exact modTile_memWf (rehold_memWf (placeImage_memWf (modCtx_memWf (drainTile_memWf wf ..) ..) ..) ..) ..

theorem endCaptures_memWf {s : State} (wf : s.MemWf) (g) : (s.endCaptures g).MemWf := by
  unfold State.endCaptures
  dsimp only
  split
  · with_reducible exact wf
  · with_reducible exact foldl_memWf (fun u _ hu => endCapture_memWf hu ..) wf

theorem zeroFree_memWf {s : State} (wf : s.MemWf) (g) : (s.zeroFree g).MemWf := modTile_memWf (zeroTile_memWf (flushL1_memWf wf ..) ..) ..

theorem pasteClu_memWf {s : State} (wf : s.MemWf) (clu ctx l) : (s.pasteClu clu ctx l).MemWf :=
  foldl_memWf (fun _ _ hu => Mem.wf_foldl_put _ _ _ (zero_memWf hu ..)) wf

theorem pasteTile_memWf {s : State} (wf : s.MemWf) (g i) : (s.pasteTile g i).MemWf :=
  Mem.wf_foldl_put _ _ _ (zeroTile_memWf wf g)

theorem reenterRake_memWf {s : State} (wf : s.MemWf) (g) : (s.reenterRake g).MemWf := foldl_memWf (fun _ _ hu => setDie_memWf hu ..) wf

theorem keepCopy_memWf {s : State} (wf : s.MemWf) (h i) : (s.keepCopy h i).MemWf :=
  memWf_of_mem_eq (foldl_memWf (fun u _ hu => foldl_memWf (fun v _ hv => incRef_memWf hv ..) hu) wf) (by rfl)

theorem restoreOne_memWf {s : State} (wf : s.MemWf) (h g keep) : (s.restoreOne h g keep).MemWf := by
  unfold State.restoreOne
  dsimp only
  split
  · with_reducible exact wf
  · with_reducible
      refine reenterRake_memWf (rehold_memWf (memWf_ite (keepCopy_memWf (settleHeld_memWf (setTile_memWf (setDie_memWf ?_ ..) ..)) ..)
        (memWf_of_mem_eq (freeRun_memWf (settleHeld_memWf (setTile_memWf (setDie_memWf ?_ ..) ..)) ..) (by rfl))) ..) ..
    · split
      · with_reducible exact pasteClu_memWf (pasteTile_memWf (flushL1_memWf wf ..) ..) ..
      · with_reducible exact pasteTile_memWf (flushL1_memWf wf ..) ..
    · split
      · with_reducible exact pasteClu_memWf (pasteTile_memWf (flushL1_memWf wf ..) ..) ..
      · with_reducible exact pasteTile_memWf (flushL1_memWf wf ..) ..

end Sys2Proof.Machine
end

section
set_option Elab.async false
/-! PROOFS. Storage stays canonical: rings, packets and launches. -/
namespace Sys2Proof.Machine

/-! ### Capture -/

theorem dcDesc_leads {s : State} (wf : s.MemWf) {g r n P} (hP : ∀ a b (t : State), t.MemWf → P (a, b, t)) : Leads P (s.dcDesc g r n) :=
  .bind <| alignTo_leads wf (.bind <| raiseIf_leads wf (.bind <| waitIf_leads wf (.bind <| xlA_leads (drainDie_memWf
    (dirtyBack_memWf wf ..) ..) fun _ => .bind <| xlA_leads (drainDie_memWf (dirtyBack_memWf wf ..) ..) fun _ => leads_ok.mpr (hP _ _
    _ (drainDie_memWf (dirtyBack_memWf wf ..) ..)))))

theorem putDesc_memWf {s : State} (wf : s.MemWf) (va n v) : (s.putDesc va n v).MemWf := devWrite_memWf wf ..

theorem putRefused_memWf {s : State} (wf : s.MemWf) (va d status img) : (s.putRefused va d status img).MemWf :=
  putDesc_memWf (free_memWf (free_memWf (free_memWf wf ..) ..) ..) ..

theorem dcDone_memWf {s : State} (wf : s.MemWf) (u) : (s.dcDone u).MemWf :=
  memWf_ite (acquire_memWf (modHolder_memWf wf ..) ..) (modHolder_memWf wf ..)

theorem execCapture_nextWf {s : State} (wf : s.MemWf) (r) : NextWf (execCapture r s) :=
  issue_nextWf wf fun _ _ _ hu => .bind <| waitIf_leads hu (.bind <| dcDesc_leads hu fun _ _ _ hv => leads_ite (leads_ok.mpr
    (acquire_memWf (putRefused_memWf hv ..) ..)) (leads_ite (leads_ok.mpr (acquire_memWf (putRefused_memWf hv ..) ..)) (leads_ite
    (leads_ok.mpr (acquire_memWf (putRefused_memWf hv ..) ..)) (leads_ite (leads_ok.mpr (acquire_memWf (putRefused_memWf hv ..) ..))
    (leads_waitIn.mpr (modTile_memWf (beginCapture_memWf hv ..) ..))))))

theorem captureResults_memWf {s : State} (wf : s.MemWf) (set hs) : (s.captureResults set hs).MemWf := by
  unfold State.captureResults
  dsimp only
  with_reducible refine foldl_memWf (fun u _ hu => ?_) wf
  split
  · with_reducible exact hu
  · with_reducible exact memWf_ite hu (dcDone_memWf (putDesc_memWf (free_memWf hu ..) ..) ..)

theorem execCaptureComplete_nextWf {s : State} (wf : s.MemWf) (g) : NextWf (execCaptureComplete g s) :=
  powered_nextWf wf (memWf_ite wf (captureResults_memWf (endCaptures_memWf wf ..) ..))

theorem handOver_memWf {s : State} (wf : s.MemWf) (hs) : (s.handOver hs).MemWf := by
  unfold State.handOver
  dsimp only
  with_reducible refine foldl_memWf (fun u _ hu => ?_) wf
  split
  · with_reducible exact hu
  · split
    · with_reducible exact memWf_ite (noteCaptured_memWf (memWf_of_mem_eq hu (by rfl)) ..) (memWf_of_mem_eq hu (by rfl))
    · with_reducible exact memWf_of_mem_eq hu (by rfl)

theorem giveTile_memWf {s : State} (wf : s.MemWf) (g it) : (s.giveTile g it).MemWf := by
  unfold State.giveTile
  split
  · with_reducible exact wf
  · with_reducible exact modTile_memWf wf ..

theorem takeBack_memWf {s : State} (wf : s.MemWf) (h) : (s.takeBack h).MemWf := foldl_memWf (fun _ _ hu => imageIn_memWf hu ..) wf

theorem restoreBy_memWf {s : State} (wf : s.MemWf) (g d) : (s.restoreBy g d).2.2.2.MemWf := by
  unfold State.restoreBy
  dsimp only
  split
  · with_reducible exact takeBack_memWf wf ..
  · split
    · with_reducible exact takeBack_memWf wf ..
    · split
      · with_reducible exact handOver_memWf (takeBack_memWf wf ..) ..
      · split
        · with_reducible exact takeBack_memWf wf ..
        · split
          · with_reducible exact foldl_memWf (fun u _ hu => zeroFree_memWf hu ..) (takeBack_memWf wf ..)
          · with_reducible exact foldl_memWf (fun u _ hu => restoreOne_memWf (giveTile_memWf hu ..) ..) (takeBack_memWf wf ..)

theorem execRestore_nextWf {s : State} (wf : s.MemWf) (dst r) : NextWf (execRestore dst r s) :=
  issue_nextWf wf fun _ _ _ hu => .bind <| waitIf_leads hu (.bind <| dcDesc_leads hu fun _ _ _ hv => .bind <| waitIf_leads hu
    (leads_ok.mpr (modTile_memWf (acquire_memWf (memWf_ite (putDesc_memWf (restoreBy_memWf hv ..) ..) (putRefused_memWf
    (restoreBy_memWf hv ..) ..)) ..) ..)))

theorem restoreFail_memWf {s : State} (wf : s.MemWf) (g ctx) : (s.restoreFail g ctx).MemWf :=
  takeCause_memWf (modTile_memWf (zeroFree_memWf wf ..) ..) ..

theorem execTileRestore_nextWf {s : State} (wf : s.MemWf) (h g) : NextWf (execTileRestore h g s) := by
  unfold execTileRestore
  dsimp only
  with_reducible refine powered_nextWf wf ?_
  split
  · with_reducible exact takeBack_memWf wf ..
  · with_reducible
      exact memWf_ite (takeBack_memWf wf ..) (memWf_ite (restoreFail_memWf (takeBack_memWf wf ..) ..) (foldl_memWf (fun u _ hu =>
        restoreOne_memWf hu ..) (takeBack_memWf wf ..)))

theorem execLoggedArrivalDelivery_nextWf {s : State} (wf : s.MemWf) (g) : NextWf (execLoggedArrivalDelivery g s) := by
  unfold execLoggedArrivalDelivery
  dsimp only
  with_reducible refine powered_nextWf wf (memWf_ite wf ?_)
  split
  · with_reducible exact wf
  · with_reducible exact setTile_memWf wf ..
  · with_reducible exact setTile_memWf wf ..

theorem brkDo_memWf {s : State} (wf : s.MemWf) (d) : (s.brkDo d).2.2.MemWf := by
  unfold State.brkDo
  dsimp only
  split
  · with_reducible exact wf
  · split
    · with_reducible exact wf
    · split
      · split
        · with_reducible exact wf
        · with_reducible exact setImemWord_memWf (modTile_memWf wf ..) ..
      · split
        · with_reducible exact wf
        · with_reducible exact modTile_memWf (memWf_ite (setImemWord_memWf wf ..) wf) ..
      · split
        · with_reducible exact wf
        · with_reducible exact modTile_memWf wf ..
      · with_reducible exact wf

theorem brkPut_memWf {s : State} (wf : s.MemWf) (va d) : (s.brkPut va d).MemWf := putDesc_memWf (brkDo_memWf wf ..) ..

theorem execBrkx_nextWf {s : State} (wf : s.MemWf) (r) : NextWf (execBrkx r s) :=
  issue_nextWf wf fun _ _ _ hu => .bind <| waitIf_leads hu (.bind <| dcDesc_leads hu fun _ _ _ hv => leads_ite (leads_waitIn.mpr
    (modTile_memWf hv ..)) (leads_ok.mpr (acquire_memWf (brkPut_memWf hv ..) ..)))

theorem brkEvent_memWf {s : State} (wf : s.MemWf) (g op) : (s.brkEvent g op).MemWf := by
  unfold State.brkEvent
  dsimp only
  split
  · with_reducible exact memWf_ite wf (dcDone_memWf (brkPut_memWf wf ..) ..)
  · with_reducible exact wf

theorem execBrkxSet_nextWf {s : State} (wf : s.MemWf) (g) : NextWf (execBrkxSet g s) := event_nextWf (brkEvent_memWf wf ..)

theorem execBrkxClear_nextWf {s : State} (wf : s.MemWf) (g) : NextWf (execBrkxClear g s) := event_nextWf (brkEvent_memWf wf ..)

theorem execBrkxResume_nextWf {s : State} (wf : s.MemWf) (g) : NextWf (execBrkxResume g s) := event_nextWf (brkEvent_memWf wf ..)

theorem execBrkxQuery_nextWf {s : State} (wf : s.MemWf) (g) : NextWf (execBrkxQuery g s) := event_nextWf (brkEvent_memWf wf ..)

theorem driverEnd_memWf {s : State} (wf : s.MemWf) (c fn) : (s.driverEnd c fn).MemWf :=
  memWf_ite wf (endContext_memWf (raiseErr_memWf wf ..) ..)

theorem execContextEnd_nextWf {s : State} (wf : s.MemWf) (c fn) : NextWf (execContextEnd c fn s) := event_nextWf (driverEnd_memWf wf ..)

/-! ### Rings -/

theorem hostWrite_memWf {s : State} (wf : s.MemWf) (fn a bs) : (s.hostWrite fn a bs).MemWf := wrBytes_memWf (wrBytes_memWf wf ..) ..

theorem publish_memWf {s : State} (wf : s.MemWf) (n first units) : (s.publish n first units).MemWf := wf

theorem haltPacket_memWf {s : State} (wf : s.MemWf) (p status hdr pois) : (s.haltPacket p status hdr pois).MemWf :=
  haltQueue_memWf (modQueue_memWf wf ..) ..

theorem setUnit_memWf {s : State} (wf : s.MemWf) (u x) : (s.setUnit u x).MemWf := wf

theorem passPacket_memWf {s : State} (wf : s.MemWf) (u p) : (s.passPacket u p).MemWf :=
  memWf_ite (setUnit_memWf (modQueue_memWf wf ..) ..) (setUnit_memWf wf ..)

theorem nextQueue_yields {s : State} (wf : s.MemWf) {P} (hP : ∀ a (t : State), t.MemWf → P (a, t)) : Yields P (s.nextQueue) := by
  unfold State.nextQueue
  dsimp only
  split
  · with_reducible exact yields_none
  · split
    · with_reducible exact yields_none
    · with_reducible exact yields_some.mpr (hP _ _ (memWf_of_mem_eq wf (by rfl)))

theorem takeFrom_memWf {s : State} (wf : s.MemWf) (u n) : (s.takeFrom u n).MemWf := by
  unfold State.takeFrom
  dsimp only
  split
  · with_reducible exact haltQueue_memWf (memWf_of_mem_eq wf (by rfl)) ..
  · with_reducible
      refine memWf_ite (haltQueue_memWf (memWf_of_mem_eq wf (by rfl)) ..) (memWf_ite (haltQueue_memWf (memWf_of_mem_eq wf (by rfl)) ..)
        ?_)
    split
    · with_reducible exact haltQueue_memWf (memWf_of_mem_eq wf (by rfl)) ..
    · with_reducible
        exact memWf_ite (haltQueue_memWf (memWf_of_mem_eq wf (by rfl)) ..) (memWf_ite (passPacket_memWf (setQueue_memWf (memWf_of_mem_eq wf
          (by rfl)) ..) ..) (setUnit_memWf (setQueue_memWf (memWf_of_mem_eq wf (by rfl)) ..) ..))

theorem execPacketTake_nextWf {s : State} (wf : s.MemWf) (u) : NextWf (execPacketTake u s) := by
  unfold execPacketTake
  with_reducible refine event_nextWf (memWf_ite wf ?_)
  split
  · with_reducible exact wf
  · next e =>
      with_reducible exact takeFrom_memWf (Yields.of_eq_some (P := fun x => x.2.MemWf) (nextQueue_yields wf fun _ v hv => hv) e) ..

theorem endCopies_memWf {s : State} (wf : s.MemWf) (hit) : (s.endCopies hit).MemWf := wf

theorem tdiError_memWf {s : State} (wf : s.MemWf) (fn) : (s.tdiError fn).MemWf := wf

theorem frozenWrite_memWf {s : State} (wf : s.MemWf) {fn owner r f} (hf : (f s).MemWf) : (s.frozenWrite fn owner r f).MemWf := by
  unfold State.frozenWrite
  with_reducible exact memWf_ite (memWf_ite (tdiError_memWf wf ..) wf) hf

/-! ### Packets -/

theorem qCtl_memWf {s : State} (wf : s.MemWf) (fn n val) : (s.qCtl fn n val).MemWf :=
  memWf_ite wf (frozenWrite_memWf wf (memWf_ite (setQueue_memWf wf ..) (memWf_ite (setQueue_memWf wf ..) (memWf_ite
    (setQueue_memWf wf ..) (setQueue_memWf wf ..)))))

theorem execQCtlWrite_nextWf {s : State} (wf : s.MemWf) (fn n val) : NextWf (execQCtlWrite fn n val s) := event_nextWf (qCtl_memWf wf ..)

theorem doorbell_memWf {s : State} (wf : s.MemWf) (fn n tail) : (s.doorbell fn n tail).MemWf :=
  memWf_ite wf (memWf_ite (setQueue_memWf wf ..) (memWf_ite (haltQueue_memWf wf ..) (memWf_ite (setQueue_memWf wf ..)
    (publish_memWf (setQueue_memWf wf ..) ..))))

theorem execDoorbellWrite_nextWf {s : State} (wf : s.MemWf) (fn n tail) : NextWf (execDoorbellWrite fn n tail s) :=
  event_nextWf (doorbell_memWf wf ..)

theorem qResume_memWf {s : State} (wf : s.MemWf) (fn n) : (s.qResume fn n).MemWf :=
  memWf_ite wf (memWf_ite wf (publish_memWf (setQueue_memWf wf ..) ..))

theorem execQueueResume_nextWf {s : State} (wf : s.MemWf) (fn n) : NextWf (execQueueResume fn n s) := event_nextWf (qResume_memWf wf ..)

theorem qHead_memWf {s : State} (wf : s.MemWf) (fn n head) : (s.qHead fn n head).MemWf := memWf_ite wf (setQueue_memWf wf ..)

theorem execQHeadWrite_nextWf {s : State} (wf : s.MemWf) (fn n head) : NextWf (execQHeadWrite fn n head s) :=
  event_nextWf (qHead_memWf wf ..)

theorem ringCtl_memWf {s : State} (wf : s.MemWf) (fn c val) : (s.ringCtl fn c val).MemWf :=
  frozenWrite_memWf wf (memWf_ite (setRing_memWf wf ..) (memWf_ite (setRing_memWf wf ..) (memWf_ite (setRing_memWf wf ..)
    (setRing_memWf wf ..))))

theorem execCrCtlWrite_nextWf {s : State} (wf : s.MemWf) (fn c val) : NextWf (execCrCtlWrite fn c val s) :=
  event_nextWf (memWf_ite (ringCtl_memWf wf ..) wf)

theorem execCrHeadWrite_nextWf {s : State} (wf : s.MemWf) (fn c head) : NextWf (execCrHeadWrite fn c head s) :=
  event_nextWf (memWf_ite (modRing_memWf wf ..) wf)

theorem writeRecord_memWf {s : State} (wf : s.MemWf) (c) : (s.writeRecord c).MemWf := by
  unfold State.writeRecord
  dsimp only
  split
  · with_reducible exact wf
  · with_reducible
      exact memWf_ite wf (memWf_ite (ringInterrupt_memWf (setRing_memWf (memWf_ite (devWrite_memWf wf ..) (hostWrite_memWf wf ..)) ..) ..)
        (setRing_memWf (memWf_ite (devWrite_memWf wf ..) (hostWrite_memWf wf ..)) ..))

theorem execCompletionRecordWrite_nextWf {s : State} (wf : s.MemWf) (c) : NextWf (execCompletionRecordWrite c s) :=
  event_nextWf (writeRecord_memWf wf ..)

theorem execHoldTimerExpiry_nextWf {s : State} (wf : s.MemWf) (c) : NextWf (execHoldTimerExpiry c s) :=
  event_nextWf (memWf_ite (ringInterrupt_memWf wf ..) wf)

theorem onPacket_memWf {u type f} (hf : ∀ p s, State.MemWf s → (f p s).MemWf) {s : State} (wf : s.MemWf) : (onPacket u type f s).MemWf := by
  unfold onPacket
  split
  · with_reducible exact memWf_ite (hf _ _ (setUnit_memWf wf ..)) wf
  · with_reducible exact wf

theorem completeFree_memWf {s : State} (wf : s.MemWf) (p status wroteDev) : (s.completeFree p status wroteDev).MemWf :=
  complete_memWf (free_memWf wf ..) ..

theorem execPadPacket_nextWf {s : State} (wf : s.MemWf) (u) : NextWf (execPadPacket u s) :=
  event_nextWf (onPacket_memWf (fun _ _ hv => modQueue_memWf hv ..) wf)

theorem unitPoison_memWf {s : State} (wf : s.MemWf) (q va) : (s.unitPoison q va).MemWf := raiseErr_memWf wf ..

theorem execCopyPacket_nextWf {s : State} (wf : s.MemWf) (u hostErr) : NextWf (execCopyPacket u hostErr s) :=
  event_nextWf (onPacket_memWf (fun _ _ hv => memWf_ite (setUnit_memWf hv ..) (memWf_ite (completeFree_memWf (memWf_ite
    (devWrite_memWf hv ..) (hostWrite_memWf hv ..)) ..) (complete_memWf (memWf_ite (unitPoison_memWf (memWf_ite (devWrite_memWf hv ..)
    (hostWrite_memWf hv ..)) ..) (memWf_ite (devWrite_memWf hv ..) (hostWrite_memWf hv ..))) ..))) wf)

theorem confWrite_memWf {s : State} (wf : s.MemWf) (p c) : (s.confWrite p c).MemWf :=
  complete_memWf (foldl_memWf (fun u _ hu => writeHome_memWf hu ..) (memWf_of_mem_eq wf (by rfl))) ..

theorem confBegin_memWf {s : State} (wf : s.MemWf) (u ide hostErr) : (s.confBegin u ide hostErr).MemWf := by
  unfold State.confBegin
  dsimp only
  split
  · with_reducible exact wf
  · with_reducible refine memWf_ite wf ?_
    split
    · with_reducible exact complete_memWf (setUnit_memWf wf ..) ..
    · with_reducible exact setUnit_memWf wf ..

theorem execConfidentialCopy_nextWf {s : State} (wf : s.MemWf) (u ide hostErr) : NextWf (execConfidentialCopy u ide hostErr s) := by
  unfold execConfidentialCopy
  dsimp only
  with_reducible refine event_nextWf ?_
  split
  · with_reducible exact wf
  · with_reducible refine memWf_ite wf ?_
    split
    · with_reducible exact memWf_ite (complete_memWf (setUnit_memWf wf ..) ..) (confWrite_memWf (setUnit_memWf wf ..) ..)
    · with_reducible refine memWf_ite wf ?_
      split
      · with_reducible exact complete_memWf (setUnit_memWf wf ..) ..
      · with_reducible exact confWrite_memWf (setUnit_memWf wf ..) ..

theorem onSignal_memWf {u op f} (hf : ∀ p s, State.MemWf s → (f p s).MemWf) {s : State} (wf : s.MemWf) : (onSignal u op f s).MemWf := by
  unfold onSignal
  dsimp only
  with_reducible exact onPacket_memWf (fun _ v hv => memWf_ite (hf _ _ hv) (setUnit_memWf hv ..)) wf

theorem execSignalWrite_nextWf {s : State} (wf : s.MemWf) (u hostErr) : NextWf (execSignalWrite u hostErr s) :=
  event_nextWf (onSignal_memWf (fun _ _ hv => memWf_ite (memWf_ite (complete_memWf (devWrite_memWf hv ..) ..)
    (completeFree_memWf hv ..)) (memWf_ite (completeFree_memWf hv ..) (complete_memWf (hostWrite_memWf hv ..) ..))) wf)

theorem devAdd_yields {s : State} (wf : s.MemWf) {ctx pa leaf v P} (hP : ∀ a (t : State), t.MemWf → P (a, t)) :
    Yields P (s.devAdd ctx pa leaf v) :=
  yields_ite yields_none (yields_some.mpr (hP _ _ (writeHome_memWf (memWf_ite (recall_memWf wf ..) wf) ..)))

theorem execSignalAdd_nextWf {s : State} (wf : s.MemWf) (u atomicOk hostErr) : NextWf (execSignalAdd u atomicOk hostErr s) := by
  unfold execSignalAdd
  dsimp only
  with_reducible
    refine event_nextWf (onSignal_memWf (fun _ v hv => memWf_ite ?_ (memWf_ite (completeFree_memWf hv ..) (memWf_ite (completeFree_memWf
      hv ..) (complete_memWf (hostWrite_memWf hv ..) ..)))) wf)
  split
  · split
    · next e =>
        with_reducible exact complete_memWf (Yields.of_eq_some (P := fun x => x.2.MemWf) (devAdd_yields hv fun _ w hw => hw) e) ..
    · with_reducible exact completeFree_memWf (unitPoison_memWf hv ..) ..
  · with_reducible exact completeFree_memWf hv ..

theorem waitgeLook_memWf {s : State} (wf : s.MemWf) (p n hostErr) : (s.waitgeLook p n hostErr).MemWf := by
  unfold State.waitgeLook
  dsimp only
  split
  · with_reducible exact completeFree_memWf (modQueue_memWf wf ..) ..
  · with_reducible
      exact memWf_ite (complete_memWf (modQueue_memWf wf ..) ..) (memWf_ite (complete_memWf (modQueue_memWf wf ..) ..) (modQueue_memWf wf
        ..))

theorem execSignalWaitge_nextWf {s : State} (wf : s.MemWf) (u hostErr) : NextWf (execSignalWaitge u hostErr s) :=
  event_nextWf (onSignal_memWf (fun _ _ hv => waitgeLook_memWf hv ..) wf)

theorem waitgeDue_memWf {s : State} (wf : s.MemWf) (n hostErr) : (s.waitgeDue n hostErr).MemWf := by
  unfold State.waitgeDue
  split
  · with_reducible exact waitgeLook_memWf wf ..
  · with_reducible exact wf

theorem waitgeTicks_memWf {s : State} (wf : s.MemWf) : (s.waitgeTicks).MemWf :=
  memWf_of_mem_eq (foldl_memWf (fun u _ hu => waitgeDue_memWf hu ..) wf) (by rfl)

theorem execSignalWaitgeTick_nextWf {s : State} (wf : s.MemWf) (n hostErr) : NextWf (execSignalWaitgeTick n hostErr s) :=
  event_nextWf (waitgeDue_memWf wf ..)

theorem execFencePacket_nextWf {s : State} (wf : s.MemWf) (n) : NextWf (execFencePacket n s) := by
  unfold execFencePacket
  dsimp only
  with_reducible refine event_nextWf ?_
  split
  · with_reducible exact wf
  · with_reducible exact memWf_ite wf (completeFree_memWf (modQueue_memWf (foldl_memWf (fun u _ hu => drainDie_memWf hu ..) wf) ..) ..)

theorem execEnqArrival_nextWf {s : State} (wf : s.MemWf) (g) : NextWf (execEnqArrival g s) := by
  unfold execEnqArrival
  dsimp only
  with_reducible refine powered_nextWf wf ?_
  split
  · with_reducible exact wf
  · with_reducible
      exact memWf_ite wf (modTile_memWf (memWf_ite (publish_memWf (setQueue_memWf (devWrite_memWf (drainDie_memWf (dirtyBack_memWf wf ..)
        ..) ..) ..) ..) (drainDie_memWf (dirtyBack_memWf wf ..) ..)) ..)

end Sys2Proof.Machine
end

section
set_option Elab.async false
/-! PROOFS. Storage stays canonical: launches and tenancy. -/
namespace Sys2Proof.Machine

/-! ### Launches -/

theorem clearUnit_memWf {s : State} (wf : s.MemWf) (u) : (s.clearUnit u).MemWf := wf

theorem dispatchLaunch_memWf {s : State} (wf : s.MemWf) (p h) : (s.dispatchLaunch p h).MemWf :=
  memWf_ite (haltPacket_memWf wf ..) (memWf_ite (complete_memWf wf ..) (setLaunch_memWf (memWf_of_mem_eq wf (by rfl)) ..))

theorem execLaunchPacket_nextWf {s : State} (wf : s.MemWf) (u) : NextWf (execLaunchPacket u s) := by
  unfold execLaunchPacket
  dsimp only
  with_reducible refine event_nextWf ?_
  split
  · with_reducible exact wf
  · with_reducible refine memWf_ite wf (memWf_ite (dispatchLaunch_memWf (clearUnit_memWf wf ..) ..) ?_)
    split
    · with_reducible exact complete_memWf (clearUnit_memWf wf ..) ..
    · with_reducible
        exact memWf_ite (complete_memWf (unitPoison_memWf (clearUnit_memWf wf ..) ..) ..) (dispatchLaunch_memWf (clearUnit_memWf wf ..) ..)

theorem noteStarving_memWf {s : State} (wf : s.MemWf) : (s.noteStarving).MemWf := wf

theorem elapse_memWf {s : State} (wf : s.MemWf) : (s.elapse).MemWf := wf

theorem giveItem_memWf {s : State} (wf : s.MemWf) (g i resume) : (s.giveItem g i resume).MemWf := wf

theorem giveImages_memWf {s : State} (wf : s.MemWf) (set) : (s.giveImages set).MemWf := by
  unfold State.giveImages
  with_reducible refine foldl_memWf (fun u _ hu => ?_) wf
  split
  · split
    · with_reducible exact giveItem_memWf hu ..
    · with_reducible exact hu
  · with_reducible exact hu

theorem giveReturned_yields {s : State} (wf : s.MemWf) {g l k} {P : State → Prop} (hP : ∀ t : State, t.MemWf → P t) :
    Yields P (s.giveReturned g l k) := by
  unfold State.giveReturned
  dsimp only
  with_reducible refine .map <| Yields.of_forall fun _ => hP _ ?_
  split
  · split
    · with_reducible exact wf
    · with_reducible exact giveImages_memWf (setLaunch_memWf wf ..) ..
  · split
    · with_reducible exact giveItem_memWf (setLaunch_memWf wf ..) ..
    · with_reducible exact memWf_ite wf (foldl_memWf (fun u _ hu => giveItem_memWf hu ..) (setLaunch_memWf wf ..))

theorem giveCaptured_yields {s : State} (wf : s.MemWf) {g l k} {P : State → Prop} (hP : ∀ t : State, t.MemWf → P t) :
    Yields P (s.giveCaptured g l k) := by
  unfold State.giveCaptured
  dsimp only
  with_reducible refine .map <| Yields.of_forall fun _ => hP _ ?_
  split
  · with_reducible exact wf
  · with_reducible exact giveImages_memWf (setLaunch_memWf wf ..) ..

theorem giveNew_memWf {s : State} (wf : s.MemWf) (g l k) : (s.giveNew g l k).MemWf := by
  unfold State.giveNew
  dsimp only
  with_reducible refine memWf_ite (memWf_ite (memWf_ite wf ?_) ?_) ?_
  · split
    · with_reducible exact wf
    · with_reducible exact foldl_memWf (fun u _ hu => giveItem_memWf hu ..) (setLaunch_memWf wf ..)
  · split
    · with_reducible exact wf
    · with_reducible exact giveItem_memWf (setLaunch_memWf wf ..) ..
  · split
    · with_reducible exact memWf_ite wf (giveItem_memWf (setLaunch_memWf wf ..) ..)
    · with_reducible exact wf

theorem giveWork_memWf {s : State} (wf : s.MemWf) (g) : (s.giveWork g).MemWf := by
  unfold State.giveWork
  dsimp only
  split
  · with_reducible refine memWf_ite wf ?_
    split
    · next e2 =>
        with_reducible exact Yields.of_eq_some (P := State.MemWf) (giveReturned_yields wf fun u hu => hu) e2
    · split
      · next e2 =>
          with_reducible exact Yields.of_eq_some (P := State.MemWf) (giveCaptured_yields wf fun u hu => hu) e2
      · with_reducible exact giveNew_memWf wf ..
  · with_reducible exact wf

theorem assignStage_memWf {s : State} (wf : s.MemWf) (g l k) : (s.assignStage g l k).MemWf :=
  setTile_memWf (memWf_ite (memWf_of_mem_eq wf (by rfl)) wf) ..

theorem joinLaunch_memWf {s : State} (wf : s.MemWf) (g id) : (s.joinLaunch g id).MemWf := by
  unfold State.joinLaunch
  dsimp only
  split
  · with_reducible exact wf
  · with_reducible exact setLaunch_memWf (memWf_ite wf (countUsers_memWf wf ..)) ..

theorem seekStage_yields {s : State} (wf : s.MemWf) {g} {P : State → Prop} (hP : ∀ t : State, t.MemWf → P t) :
    Yields P (s.seekStage g) := by
  unfold State.seekStage
  dsimp only
  split
  · with_reducible exact yields_some.mpr (hP _ (assignStage_memWf wf ..))
  · split
    · with_reducible exact yields_none
    · with_reducible exact yields_findSome fun _ => .map <| Yields.of_forall fun _ => hP _ (assignStage_memWf (joinLaunch_memWf wf ..) ..)

theorem execStageChoice_nextWf {s : State} (wf : s.MemWf) (g) : NextWf (execStageChoice g s) := by
  unfold execStageChoice
  dsimp only
  with_reducible refine powered_nextWf wf (memWf_ite wf ?_)
  split
  · next e =>
      with_reducible exact giveWork_memWf (Yields.of_eq_some (P := State.MemWf) (seekStage_yields wf fun u hu => hu) e) ..
  · with_reducible exact wf

theorem loadEntry_memWf {s : State} (wf : s.MemWf) (g st bs) : (s.loadEntry g st bs).MemWf := noteLoad_memWf (wrBytes_memWf wf ..) ..

theorem beginItem_memWf {s : State} (wf : s.MemWf) (g i l d) : (s.beginItem g i l d).MemWf :=
  memWf_ite (takeCause_memWf (memWf_ite (modTile_memWf (free_memWf (free_memWf (free_memWf (free_memWf (free_memWf (memWf_ite
    (memWf_ite (memWf_ite wf (installCtx_memWf wf ..)) (modTile_memWf (loadEntry_memWf (memWf_ite wf (installCtx_memWf wf ..)) ..)
    ..)) (modTile_memWf (loadEntry_memWf (memWf_ite (memWf_ite wf (installCtx_memWf wf ..)) (modTile_memWf (loadEntry_memWf (memWf_ite
    wf (installCtx_memWf wf ..)) ..) ..)) ..) ..)) ..) ..) ..) ..) ..) ..) (acquire_memWf (modTile_memWf (free_memWf (free_memWf
    (free_memWf (free_memWf (free_memWf (memWf_ite (memWf_ite (memWf_ite wf (installCtx_memWf wf ..)) (modTile_memWf (loadEntry_memWf
    (memWf_ite wf (installCtx_memWf wf ..)) ..) ..)) (modTile_memWf (loadEntry_memWf (memWf_ite (memWf_ite wf (installCtx_memWf wf
    ..)) (modTile_memWf (loadEntry_memWf (memWf_ite wf (installCtx_memWf wf ..)) ..) ..)) ..) ..)) ..) ..) ..) ..) ..) ..) ..)) ..)
    (memWf_ite (takeCause_memWf (memWf_ite (modTile_memWf (free_memWf (free_memWf (free_memWf (free_memWf (free_memWf (memWf_ite
    (memWf_ite (memWf_ite wf (installCtx_memWf wf ..)) (modTile_memWf (loadEntry_memWf (memWf_ite wf (installCtx_memWf wf ..)) ..)
    ..)) (modTile_memWf (loadEntry_memWf (memWf_ite (memWf_ite wf (installCtx_memWf wf ..)) (modTile_memWf (loadEntry_memWf (memWf_ite
    wf (installCtx_memWf wf ..)) ..) ..)) ..) ..)) ..) ..) ..) ..) ..) ..) (acquire_memWf (modTile_memWf (free_memWf (free_memWf
    (free_memWf (free_memWf (free_memWf (memWf_ite (memWf_ite (memWf_ite wf (installCtx_memWf wf ..)) (modTile_memWf (loadEntry_memWf
    (memWf_ite wf (installCtx_memWf wf ..)) ..) ..)) (modTile_memWf (loadEntry_memWf (memWf_ite (memWf_ite wf (installCtx_memWf wf
    ..)) (modTile_memWf (loadEntry_memWf (memWf_ite wf (installCtx_memWf wf ..)) ..) ..)) ..) ..)) ..) ..) ..) ..) ..) ..) ..)) ..)
    (memWf_ite (modTile_memWf (free_memWf (free_memWf (free_memWf (free_memWf (free_memWf (memWf_ite (memWf_ite (memWf_ite wf
    (installCtx_memWf wf ..)) (modTile_memWf (loadEntry_memWf (memWf_ite wf (installCtx_memWf wf ..)) ..) ..)) (modTile_memWf
    (loadEntry_memWf (memWf_ite (memWf_ite wf (installCtx_memWf wf ..)) (modTile_memWf (loadEntry_memWf (memWf_ite wf
    (installCtx_memWf wf ..)) ..) ..)) ..) ..)) ..) ..) ..) ..) ..) ..) (acquire_memWf (modTile_memWf (free_memWf (free_memWf
    (free_memWf (free_memWf (free_memWf (memWf_ite (memWf_ite (memWf_ite wf (installCtx_memWf wf ..)) (modTile_memWf (loadEntry_memWf
    (memWf_ite wf (installCtx_memWf wf ..)) ..) ..)) (modTile_memWf (loadEntry_memWf (memWf_ite (memWf_ite wf (installCtx_memWf wf
    ..)) (modTile_memWf (loadEntry_memWf (memWf_ite wf (installCtx_memWf wf ..)) ..) ..)) ..) ..)) ..) ..) ..) ..) ..) ..) ..)))

theorem execItemStart_nextWf {s : State} (wf : s.MemWf) (g) : NextWf (execItemStart g s) :=
  powered_nextWf wf (memWf_ite wf (foldl_memWf (fun _ _ hu => beginItem_memWf hu ..) wf))

theorem pusherGone_memWf {s : State} (wf : s.MemWf) (g) : (s.pusherGone g).MemWf := wf

theorem execItemRetire_nextWf {s : State} (wf : s.MemWf) (g) : NextWf (execItemRetire g s) := by
  unfold execItemRetire
  dsimp only
  with_reducible refine powered_nextWf wf (memWf_ite wf (modTile_memWf ?_ ..))
  split
  · with_reducible exact pusherGone_memWf (drainDie_memWf (dirtyBack_memWf (performReleases_memWf wf ..) ..) ..) ..
  · with_reducible exact setLaunch_memWf (pusherGone_memWf (drainDie_memWf (dirtyBack_memWf (performReleases_memWf wf ..) ..) ..) ..) ..

theorem returnItem_memWf {s : State} (wf : s.MemWf) (g) : (s.returnItem g).MemWf := by
  unfold State.returnItem
  dsimp only
  split
  · with_reducible refine foldl_memWf (fun u _ hu => ?_) wf
    split
    · with_reducible exact modTile_memWf (setLaunch_memWf hu ..) ..
    · with_reducible exact modTile_memWf hu ..
  · with_reducible exact wf

theorem leaveLaunch_memWf {s : State} (wf : s.MemWf) (g c) : (s.leaveLaunch g c).MemWf := wf

theorem passTile_memWf {s : State} (wf : s.MemWf) (g c) : (s.passTile g c).MemWf := by
  unfold State.passTile
  dsimp only
  split
  · with_reducible exact leaveLaunch_memWf (returnItem_memWf (beginCapture_memWf wf ..) ..) ..
  · with_reducible exact modTile_memWf (joinLaunch_memWf (leaveLaunch_memWf (returnItem_memWf (beginCapture_memWf wf ..) ..) ..) ..) ..

theorem setDeficit_memWf {s : State} (wf : s.MemWf) (c d v) : (s.setDeficit c d v).MemWf := wf

theorem grant_memWf {s : State} (wf : s.MemWf) {d} {l} : (State.grant d l s).2.MemWf := by
  induction l generalizing s with
  | zero =>
    unfold State.grant
    dsimp only
    with_reducible exact wf
  | succ i ih =>
    unfold State.grant
    dsimp only
    split
    · with_reducible exact setDeficit_memWf wf ..
    · with_reducible exact ih (setDeficit_memWf (setDie_memWf wf ..) ..)

theorem offer_memWf {s : State} (wf : s.MemWf) (g) : (s.offer g).MemWf := by
  unfold State.offer
  dsimp only
  split
  · with_reducible exact modTile_memWf (grant_memWf wf) ..
  · with_reducible exact memWf_ite (modTile_memWf (grant_memWf wf) ..) (passTile_memWf (grant_memWf wf) ..)

theorem execTermEnd_nextWf {s : State} (wf : s.MemWf) (g) : NextWf (execTermEnd g s) := event_nextWf (memWf_ite (offer_memWf wf ..) wf)

theorem execWaitOffer_nextWf {s : State} (wf : s.MemWf) (g) : NextWf (execWaitOffer g s) := event_nextWf (memWf_ite (offer_memWf wf ..) wf)

theorem execUnheldTileOffer_nextWf {s : State} (wf : s.MemWf) (g) : NextWf (execUnheldTileOffer g s) :=
  event_nextWf (memWf_ite (offer_memWf wf ..) wf)

theorem releaseTile_memWf {s : State} (wf : s.MemWf) (g) : (s.releaseTile g).MemWf := by
  unfold State.releaseTile
  split
  · next e =>
      with_reducible exact giveWork_memWf (Yields.of_eq_some (P := State.MemWf) (seekStage_yields wf fun u hu => hu) e) ..
  · with_reducible exact offer_memWf (leaveLaunch_memWf wf ..) ..

theorem execLaunchRetire_nextWf {s : State} (wf : s.MemWf) (id) : NextWf (execLaunchRetire id s) := by
  unfold execLaunchRetire
  dsimp only
  with_reducible refine event_nextWf ?_
  split
  · with_reducible exact wf
  · with_reducible exact memWf_ite wf (foldl_memWf (fun u _ hu => releaseTile_memWf hu ..) (finishLaunch_memWf wf ..))

theorem execStarvationCapture_nextWf {s : State} (wf : s.MemWf) (id d) : NextWf (execStarvationCapture id d s) := by
  unfold execStarvationCapture
  dsimp only
  with_reducible refine event_nextWf ?_
  split
  · with_reducible exact wf
  · with_reducible refine memWf_ite wf ?_
    split
    · with_reducible exact wf
    · with_reducible exact beginCapture_memWf (setLaunch_memWf wf ..) ..

theorem execDieLeave_nextWf {s : State} (wf : s.MemWf) (id d) : NextWf (execDieLeave id d s) := by
  unfold execDieLeave
  dsimp only
  with_reducible refine event_nextWf ?_
  split
  · with_reducible exact wf
  · with_reducible
      exact memWf_ite wf (memWf_ite (memWf_ite (setLaunch_memWf wf ..) wf) (memWf_ite wf (settleHeld_memWf (foldl_memWf (fun u _ hu =>
        modTile_memWf hu ..) (setLaunch_memWf wf ..)))))

/-! ### Tenancy -/

theorem preempt_memWf {s : State} (wf : s.MemWf) {d} {l} : (State.preempt d l s).MemWf := by
  induction l generalizing s with
  | zero =>
    unfold State.preempt
    with_reducible exact wf
  | succ i ih =>
    unfold State.preempt
    dsimp only
    with_reducible refine memWf_ite wf ?_
    split
    · with_reducible exact wf
    · with_reducible exact ih (foldl_memWf (fun u _ hu => offer_memWf hu ..) (passTile_memWf (setDeficit_memWf wf ..) ..))

theorem restPtr_yields {s : State} (wf : s.MemWf) {d l} {P : State → Prop} (hP : ∀ t : State, t.MemWf → P t) :
    Yields P (State.restPtr d l s) := by
  induction l generalizing s P with
  | zero =>
    unfold State.restPtr
    with_reducible exact yields_none
  | succ i ih =>
    unfold State.restPtr
    dsimp only
    with_reducible exact yields_ite (yields_some.mpr (hP _ wf)) (ih (setDeficit_memWf (setDie_memWf wf ..) ..) fun u hu => hP _ hu)

theorem execPriorityPreemption_nextWf {s : State} (wf : s.MemWf) (d) : NextWf (execPriorityPreemption d s) := by
  unfold execPriorityPreemption
  with_reducible refine event_nextWf ?_
  split
  · with_reducible exact wf
  · next e =>
      with_reducible exact memWf_ite wf (preempt_memWf (Yields.of_eq_some (P := State.MemWf) (restPtr_yields wf fun u hu => hu) e))

theorem execGangArm_nextWf {s : State} (wf : s.MemWf) : NextWf (execGangArm s) := event_nextWf (memWf_of_mem_eq wf (by rfl))

theorem switchActive_memWf {s : State} (wf : s.MemWf) : (s.switchActive).MemWf := wf

theorem gangSwitch_memWf {s : State} (wf : s.MemWf) : (s.gangSwitch).MemWf :=
  foldl_memWf (fun u _ hu => offer_memWf hu ..) (foldl_memWf (fun u _ hu => leaveLaunch_memWf (returnItem_memWf
    (beginCapture_memWf hu ..) ..) ..) (memWf_of_mem_eq (switchActive_memWf wf) (by rfl)))

theorem judge_memWf {s : State} (wf : s.MemWf) (g) : (s.judge g).MemWf := by
  unfold State.judge
  dsimp only
  split
  · with_reducible exact wf
  · with_reducible exact memWf_ite (memWf_of_mem_eq (setTile_memWf wf ..) (by rfl)) (setTile_memWf wf ..)

theorem execSluiceWindow_nextWf {s : State} (wf : s.MemWf) : NextWf (execSluiceWindow s) :=
  event_nextWf (foldl_memWf (fun _ _ hu => judge_memWf hu ..) wf)

theorem execSluiceRequestHeld_nextWf {s : State} (wf : s.MemWf) : NextWf (execSluiceRequestHeld s) :=
  event_nextWf (memWf_ite wf (memWf_of_mem_eq wf (by rfl)))

theorem putBudget_memWf {s : State} (wf : s.MemWf) (val) : (s.putBudget val).MemWf := wf

theorem execSluiceBudgetWrite_nextWf {s : State} (wf : s.MemWf) (val) : NextWf (execSluiceBudgetWrite val s) :=
  event_nextWf (putBudget_memWf wf ..)

theorem makeRoom_memWf {s : State} (wf : s.MemWf) {h} {l} : (State.makeRoom h l s).MemWf := by
  induction l generalizing s with
  | zero =>
    unfold State.makeRoom
    with_reducible exact wf
  | succ i ih =>
    unfold State.makeRoom
    dsimp only
    with_reducible refine memWf_ite wf ?_
    split
    · with_reducible exact wf
    · with_reducible exact ih (beginCapture_memWf wf ..)

theorem execHeldRequestPreempt_nextWf {s : State} (wf : s.MemWf) : NextWf (execHeldRequestPreempt s) := by
  unfold execHeldRequestPreempt
  with_reducible refine event_nextWf ?_
  split
  · with_reducible exact wf
  · with_reducible exact memWf_ite wf (makeRoom_memWf wf)

theorem coolDown_memWf {s : State} (wf : s.MemWf) : (s.coolDown).MemWf := by
  unfold State.coolDown
  split
  · with_reducible exact wf
  · with_reducible exact beginCapture_memWf wf ..

theorem execTemperatureSample_nextWf {s : State} (wf : s.MemWf) (t0 t1 t2 t3) : NextWf (execTemperatureSample t0 t1 t2 t3 s) :=
  event_nextWf (memWf_ite (emit_memWf (memWf_of_mem_eq wf (by rfl)) ..) (memWf_ite (coolDown_memWf (memWf_of_mem_eq wf (by
    rfl))) (memWf_of_mem_eq wf (by rfl))))

end Sys2Proof.Machine
end

section
set_option Elab.async false
/-! PROOFS. Storage stays canonical: residency, errors, checkpoints and queue programs. -/
namespace Sys2Proof.Machine

/-! ### Residency -/

theorem startMove_memWf {s : State} (wf : s.MemWf) (h e tier cmd) : (s.startMove h e tier cmd).MemWf := by
  have hmoves (u : State) (hu : u.MemWf) (x) : State.MemWf { u with resMoves := x } := hu
  unfold State.startMove
  dsimp only
  refine hmoves _ (startShootdown_memWf (foldl_memWf (fun u x hu => putEntry_memWf hu ..) (modRes_memWf ?_ ..)) ..) _
  split
  · exact memWf_of_mem_eq wf (by exact rfl)
  · exact wf

theorem resDone_memWf {s : State} (wf : s.MemWf) (code) : (s.resDone code).MemWf := wf

theorem portRoom_yields {s : State} (wf : s.MemWf) {p pages h limit} {P : State → Prop} (hP : ∀ t : State, t.MemWf → P t) :
    Yields P (s.portRoom p pages h limit) := by
  unfold State.portRoom
  split
  · with_reducible exact yields_none
  · with_reducible exact yields_some.mpr (hP _ (foldl_memWf (fun u _ hu => startMove_memWf hu ..) wf))

theorem displace_memWf {s : State} (wf : s.MemWf) (h limit v) : (s.displace h limit v).MemWf := by
  unfold State.displace
  split
  · next e =>
      with_reducible exact startMove_memWf (Yields.of_eq_some (P := State.MemWf) (portRoom_yields wf fun u hu => hu) e) ..
  · with_reducible exact startMove_memWf wf ..

theorem promoteTo_yields {s : State} (wf : s.MemWf) {h e limit cmd} {P : State → Prop} (hP : ∀ t : State, t.MemWf → P t) :
    Yields P (s.promoteTo h e limit cmd) := by
  unfold State.promoteTo
  dsimp only
  split
  · with_reducible exact yields_none
  · with_reducible exact yields_some.mpr (hP _ (startMove_memWf (foldl_memWf (fun u _ hu => displace_memWf hu ..) wf) ..))

theorem serveWaiting_memWf {s : State} (wf : s.MemWf) : (s.serveWaiting).MemWf := by
  unfold State.serveWaiting
  dsimp only
  with_reducible refine foldl_memWf (fun u _ hu => ?_) wf
  split
  · with_reducible exact hu
  · with_reducible exact memWf_ite hu (getD_memWf (promoteTo_yields hu fun v hv => hv) hu)

theorem copyPage_memWf {s : State} (wf : s.MemWf) (src leaf old new n) : (s.copyPage src leaf old new n).MemWf := by
  unfold State.copyPage
  dsimp only
  with_reducible refine foldl_memWf (fun u _ hu => ?_) wf
  split
  · with_reducible exact wrDev_memWf hu ..
  · with_reducible exact wrDev_memWf hu ..

theorem placePages_memWf {s : State} (wf : s.MemWf) {m} {host} {base} {l} {c} {m1} : (State.placePages m host base l c m1 s).MemWf := by
  induction l generalizing m host base c m1 s with
  | nil =>
    unfold State.placePages
    with_reducible exact wf
  | cons i is ih =>
    unfold State.placePages
    dsimp only
    with_reducible exact ih (putEntry_memWf (copyPage_memWf wf ..) ..)

theorem execResidencyMoveComplete_nextWf {s : State} (wf : s.MemWf) (h frames) : NextWf (execResidencyMoveComplete h frames s) := by
  unfold execResidencyMoveComplete
  dsimp only
  with_reducible refine event_nextWf ?_
  split
  · with_reducible
      exact memWf_ite wf (memWf_ite wf (serveWaiting_memWf (memWf_ite (resDone_memWf (modRes_memWf (memWf_of_mem_eq (memWf_ite wf
        (placePages_memWf wf)) (by exact rfl)) ..) ..) (modRes_memWf (memWf_of_mem_eq (memWf_ite wf (placePages_memWf wf)) (by exact rfl))
        ..))))
  · with_reducible exact wf

theorem prefetch_memWf {s : State} (wf : s.MemWf) (h) : (s.prefetch h).MemWf := by
  unfold State.prefetch
  split
  · with_reducible exact wf
  · with_reducible refine memWf_ite wf ?_
    split
    · with_reducible exact wf
    · next e1 =>
        with_reducible exact memWf_ite (Yields.of_eq_some (P := State.MemWf) (promoteTo_yields wf fun u hu => hu) e1) wf

theorem execResidencyScan_nextWf {s : State} (wf : s.MemWf) (c) : NextWf (execResidencyScan c s) :=
  event_nextWf (memWf_ite wf (foldl_memWf (fun _ _ hu => prefetch_memWf hu ..) (serveWaiting_memWf (foldl_memWf (fun _ _ hu =>
    modRes_memWf hu ..) wf))))

theorem resCommand_memWf {s : State} (wf : s.MemWf) {op f} (hf : ∀ h e, (f h e s).MemWf) : (s.resCommand op f).MemWf := by
  unfold State.resCommand
  dsimp only
  with_reducible refine memWf_ite wf (memWf_ite (resDone_memWf wf ..) ?_)
  split
  · with_reducible exact resDone_memWf wf ..
  · with_reducible exact memWf_ite wf (hf ..)

theorem execValidate_nextWf {s : State} (wf : s.MemWf) : NextWf (execValidate s) := by
  unfold execValidate
  dsimp only
  with_reducible refine event_nextWf (resCommand_memWf wf fun _ _ => memWf_ite (resDone_memWf wf ..) ?_)
  split
  · with_reducible exact resDone_memWf wf ..
  · with_reducible refine memWf_ite (resDone_memWf wf ..) ?_
    split
    · with_reducible exact resDone_memWf wf ..
    · with_reducible exact memWf_ite (resDone_memWf wf ..) (resDone_memWf (modRes_memWf wf ..) ..)

theorem execPromote_nextWf {s : State} (wf : s.MemWf) : NextWf (execPromote s) := by
  unfold execPromote
  with_reducible refine event_nextWf (resCommand_memWf wf fun _ _ => memWf_ite (resDone_memWf wf ..) (memWf_ite (resDone_memWf wf ..) ?_))
  split
  · with_reducible exact resDone_memWf wf ..
  · next e =>
      with_reducible exact Yields.of_eq_some (P := State.MemWf) (promoteTo_yields wf fun u hu => hu) e

theorem execDemote_nextWf {s : State} (wf : s.MemWf) : NextWf (execDemote s) := by
  unfold execDemote
  with_reducible
    refine event_nextWf (resCommand_memWf wf fun _ _ => memWf_ite (resDone_memWf wf ..) (memWf_ite (resDone_memWf wf ..) (memWf_ite
      (resDone_memWf wf ..) ?_)))
  split
  · with_reducible exact resDone_memWf wf ..
  · next e =>
      with_reducible exact startMove_memWf (Yields.of_eq_some (P := State.MemWf) (portRoom_yields wf fun u hu => hu) e) ..

theorem execEvict_nextWf {s : State} (wf : s.MemWf) : NextWf (execEvict s) :=
  event_nextWf (resCommand_memWf wf fun _ _ => memWf_ite (resDone_memWf wf ..) (memWf_ite (resDone_memWf wf ..) (memWf_ite
    (resDone_memWf wf ..) (startMove_memWf wf ..))))

theorem execInvalidate_nextWf {s : State} (wf : s.MemWf) : NextWf (execInvalidate s) :=
  event_nextWf (resCommand_memWf wf fun _ _ => memWf_ite (resDone_memWf wf ..) (resDone_memWf (memWf_of_mem_eq (modRes_memWf wf
    ..) (by exact rfl)) ..))

/-! ### Errors -/

theorem execCheckerMismatchReplay_nextWf {s : State} (wf : s.MemWf) (g st again) : NextWf (execCheckerMismatchReplay g st again s) := by
  unfold execCheckerMismatchReplay
  dsimp only
  with_reducible refine powered_nextWf wf (memWf_ite wf ?_)
  split
  · with_reducible exact takeCause_memWf wf ..
  · split
    · with_reducible exact wf
    · with_reducible exact takeCause_memWf wf ..

theorem execRegisterRegeneration_nextWf {s : State} (wf : s.MemWf) (g r again) : NextWf (execRegisterRegeneration g r again s) :=
  powered_nextWf wf (memWf_ite wf (takeCause_memWf wf ..))

theorem execQueueDeadlock_nextWf {s : State} (wf : s.MemWf) (g) : NextWf (execQueueDeadlock g s) :=
  powered_nextWf wf (memWf_ite wf (memWf_ite (takeCause_memWf wf ..) (memWf_ite (takeCause_memWf wf ..) wf)))

theorem execPerformanceCounterWrap_nextWf {s : State} (wf : s.MemWf) (g j) : NextWf (execPerformanceCounterWrap g j s) :=
  powered_nextWf wf (memWf_ite (deliverWrap_memWf wf ..) wf)

theorem execErrorRecordWrite_nextWf {s : State} (wf : s.MemWf) : NextWf (execErrorRecordWrite s) := event_nextWf (writeRecord_memWf wf ..)

theorem execErrLostClear_nextWf {s : State} (wf : s.MemWf) : NextWf (execErrLostClear s) := event_nextWf (memWf_of_mem_eq wf (by exact rfl))

theorem execDebugPortEnable_nextWf {s : State} (wf : s.MemWf) : NextWf (execDebugPortEnable s) :=
  event_nextWf (memWf_of_mem_eq wf (by exact rfl))

theorem execDebugHaltRequest_nextWf {s : State} (wf : s.MemWf) (g st) : NextWf (execDebugHaltRequest g st s) :=
  powered_nextWf wf (memWf_ite (takeCause_memWf wf ..) wf)

theorem execPowerReturn_nextWf {s : State} (wf : s.MemWf) : NextWf (execPowerReturn s) :=
  event_nextWf (memWf_ite wf (memWf_of_wf (Mem.wf_filter _ (foldl_memWf (fun u _ hu => endContext_memWf (raiseErr_memWf hu ..)
    ..) (memWf_of_mem_eq wf (by exact rfl))))))

/-! ### Checkpoint -/

theorem execCkptCfgGo_nextWf {s : State} (wf : s.MemWf) : NextWf (execCkptCfgGo s) := by
  unfold execCkptCfgGo
  dsimp only
  with_reducible refine event_nextWf (memWf_ite wf ?_)
  split
  · with_reducible exact memWf_of_mem_eq wf (by exact rfl)
  · with_reducible exact memWf_of_mem_eq (setCtx_memWf wf ..) (by exact rfl)

theorem quiesce_memWf {s : State} (wf : s.MemWf) (c) : (s.quiesce c).MemWf :=
  foldl_memWf (fun _ _ hu => reenterRake_memWf (modTile_memWf (drainDie_memWf (dirtyBack_memWf (drainTile_memWf hu ..) ..) ..)
    ..) ..) wf

theorem performDefers_memWf {s : State} (wf : s.MemWf) (c) : (s.performDefers c).MemWf := by
  unfold State.performDefers
  dsimp only
  split
  · with_reducible exact wf
  · with_reducible exact foldl_memWf (fun u _ hu => decRef_memWf hu ..) (modCtx_memWf wf ..)

theorem ckBegin_memWf {s : State} (wf : s.MemWf) (c) : (s.ckBegin c).MemWf :=
  foldl_memWf (fun _ _ hu => modTile_memWf hu ..) (modCtx_memWf wf ..)

theorem ckResume_memWf {s : State} (wf : s.MemWf) (c) : (s.ckResume c).MemWf := foldl_memWf (fun _ _ hu => modTile_memWf hu ..) wf

theorem checkpoint_memWf {s : State} (wf : s.MemWf) (c) : (s.checkpoint c).MemWf := by
  unfold State.checkpoint
  dsimp only
  split
  · with_reducible exact wf
  · with_reducible
      exact memWf_ite wf (memWf_ite (ckBegin_memWf wf ..) (modCtx_memWf (ckResume_memWf (memWf_of_mem_eq (performDefers_memWf
        (quiesce_memWf (ckBegin_memWf wf ..) ..) ..) (by exact rfl)) ..) ..))

theorem ckTick_memWf {s : State} (wf : s.MemWf) : (s.ckTick).MemWf := foldl_memWf (fun _ _ hu => memWf_ite (checkpoint_memWf hu ..) hu) wf

theorem execCheckpoint_nextWf {s : State} (wf : s.MemWf) (c) : NextWf (execCheckpoint c s) := event_nextWf (checkpoint_memWf wf ..)

theorem writeUndo_memWf {s : State} (wf : s.MemWf) (c) : (s.writeUndo c).MemWf :=
  foldl_memWf (fun _ _ hu => memWf_ite hu (memWf_of_wf (Mem.wf_puts _ _ hu))) wf

theorem restoreCells_memWf {s : State} (wf : s.MemWf) (c) : (s.restoreCells c).MemWf :=
  memWf_of_wf (Mem.wf_foldl_put _ _ _ (foldl_memWf (fun u _ hu => memWf_ite (memWf_of_mem_eq (zero_memWf hu ..) (by exact rfl))
    (zero_memWf hu ..)) (memWf_of_mem_eq wf (by exact rfl))))

theorem saltBack_memWf {s : State} (wf : s.MemWf) (c) : (s.saltBack c).MemWf :=
  foldl_memWf (fun _ _ hu => freeNode_memWf _ hu ..) (foldl_memWf (fun _ _ hu => decRef_memWf hu ..) (modCtx_memWf wf ..))

theorem launchesBack_memWf {s : State} (wf : s.MemWf) (c) : (s.launchesBack c).MemWf := by
  unfold State.launchesBack
  dsimp only
  with_reducible refine foldl_memWf (fun u _ hu => ?_) wf
  split
  · with_reducible
      exact setLaunch_memWf (memWf_ite (countUsers_memWf (memWf_ite (countUsers_memWf hu ..) hu) ..) (memWf_ite (countUsers_memWf hu ..)
        hu)) ..
  · with_reducible exact setLaunch_memWf (memWf_ite (countUsers_memWf hu ..) hu) ..

theorem imagesBack_memWf {s : State} (wf : s.MemWf) (c) : (s.imagesBack c).MemWf := by
  unfold State.imagesBack
  dsimp only
  with_reducible refine foldl_memWf (fun u _ hu => memWf_ite hu ?_) wf
  split
  · with_reducible
      exact memWf_ite (placeImage_memWf (foldl_memWf (fun v _ hv => memWf_ite hv (incRef_memWf hv ..)) hu) ..) (noteCaptured_memWf
        (placeImage_memWf (foldl_memWf (fun v _ hv => memWf_ite hv (incRef_memWf hv ..)) hu) ..) ..)
  · with_reducible exact placeImage_memWf (foldl_memWf (fun v _ hv => memWf_ite hv (incRef_memWf hv ..)) hu) ..

theorem rolledRecord_memWf {s : State} (wf : s.MemWf) (p) : (s.rolledRecord p).MemWf := wf

theorem stopContext_memWf {s : State} (wf : s.MemWf) (c) : (s.stopContext c).MemWf :=
  memWf_of_mem_eq (foldl_memWf (fun u _ hu => dropImage_memWf hu ..) (foldl_memWf (fun u _ hu => discardTile_memWf hu ..) wf))
    (by exact rfl)

theorem execRollback_nextWf {s : State} (wf : s.MemWf) (c) : NextWf (execRollback c s) := by
  unfold execRollback
  dsimp only
  with_reducible refine event_nextWf ?_
  split
  · with_reducible exact wf
  · split
    · with_reducible exact wf
    · with_reducible
        exact modCtx_memWf (raiseErr_memWf (foldl_memWf (fun u _ hu => rolledRecord_memWf hu ..) (imagesBack_memWf (launchesBack_memWf
          (saltBack_memWf (restoreCells_memWf (writeUndo_memWf (stopContext_memWf wf ..) ..) ..) ..) ..) ..)) ..) ..

/-! ### QueueProgs -/

theorem qHalt_memWf {s : State} (wf : s.MemWf) (u status pois) : (s.qHalt u status pois).MemWf := by
  unfold State.qHalt
  dsimp only
  split
  · with_reducible exact wf
  · with_reducible exact haltPacket_memWf (setUnit_memWf wf ..) ..

theorem qDispatch_memWf {s : State} (wf : s.MemWf) (u x) : (s.qDispatch u x).MemWf := by
  unfold State.qDispatch
  dsimp only
  split
  · with_reducible exact wf
  · with_reducible
      exact memWf_ite (qHalt_memWf (setUnit_memWf wf ..) ..) (memWf_ite (qHalt_memWf (setUnit_memWf wf ..) ..) (passPacket_memWf
        (setUnit_memWf wf ..) ..))

theorem qDrop_memWf {s : State} (wf : s.MemWf) (u x c) : (s.qDrop u x c).MemWf := by
  unfold State.qDrop
  split
  · with_reducible exact wf
  · with_reducible exact complete_memWf (setUnit_memWf wf ..) ..

/-- An effect that hands on a state hands on one with canonical storage. -/
def QEff.MemWf : QEff → Prop
  | .next s _ => s.MemWf
  | _ => True
theorem qEff_memWf_ite {c : Prop} [Decidable c] {a b : QEff} (ha : a.MemWf) (hb : b.MemWf) : (if c then a else b).MemWf := by
  split <;> assumption
theorem qLoad_memWf {s : State} (wf : s.MemWf) (x d gs w z off) : (qLoad x s d gs w z off).MemWf := by
  unfold qLoad
  dsimp only
  split
  · trivial
  · split
    · exact wf
    · exact wf
    · split
      · trivial
      · exact qEff_memWf_ite trivial wf
    · exact qEff_memWf_ite trivial wf
theorem qStore_memWf {s : State} (wf : s.MemWf) (x v gs w z off) : (qStore x s v gs w z off).MemWf := by
  unfold qStore
  dsimp only
  split
  · trivial
  · split
    · exact wf
    · exact modQueue_memWf wf ..
    · exact qEff_memWf_ite (devWrite_memWf wf ..) trivial
    · exact qEff_memWf_ite trivial (hostWrite_memWf wf ..)
/-- The words of a queue's program that load, store and branch; the others keep the state, or end the run. -/
theorem qEff_memWf (i x) {s : State} (wf : s.MemWf) : (qEff i x s).MemWf := by
  cases i
  case qld => exact qLoad_memWf wf ..
  case qst => exact qStore_memWf wf ..
  case qbeq | qbne | qbltu => exact qEff_memWf_ite trivial wf
  case qadd | qsub | qand | qor | qxor | qshl | qshr | qaddi | qandi | qori | qshli | qshri | qmovi | qloop => exact wf
  all_goals trivial
theorem qStep_memWf {s : State} (wf : s.MemWf) {u f} (hf : ∀ x, (f x s).MemWf) : (s.qStep u f).MemWf := by
  unfold State.qStep
  dsimp only
  with_reducible refine memWf_ite wf (memWf_ite (qHalt_memWf wf ..) ?_)
  have hx := hf { s.unit u with steps := (s.unit u).steps + 1 }
  split
  · next e =>
    rw [e] at hx
    exact setUnit_memWf hx ..
  · with_reducible exact setUnit_memWf wf ..
  · with_reducible exact qHalt_memWf (memWf_of_mem_eq wf (by exact rfl)) ..
  · with_reducible exact qDispatch_memWf wf ..
  · with_reducible exact qDrop_memWf wf ..

theorem qInstr_nextWf {s : State} (wf : s.MemWf) (i) : NextWf (qInstr (qEff i) s) := by
  unfold qInstr
  split
  · exact qStep_memWf wf fun _ => qEff_memWf _ _ wf
  · trivial

theorem runProgram_memWf {s : State} (wf : s.MemWf) {u} {l} : (runProgram u l s).MemWf := by
  induction l generalizing u s with
  | zero =>
    unfold runProgram
    with_reducible exact wf
  | succ i ih =>
    unfold runProgram
    with_reducible refine memWf_ite wf ?_
    split
    · with_reducible exact wf
    · split
      · with_reducible exact ih (qStep_memWf wf fun _ => qEff_memWf _ _ wf)
      · with_reducible exact wf

theorem execQueueProgramRun_nextWf {s : State} (wf : s.MemWf) (u) : NextWf (execQueueProgramRun u s) := event_nextWf (runProgram_memWf wf)

theorem extendMreg_memWf {s : State} (wf : s.MemWf) (j digest) : (s.extendMreg j digest).MemWf := wf

theorem execProgLoad_nextWf {s : State} (wf : s.MemWf) : NextWf (execProgLoad s) := by
  unfold execProgLoad
  dsimp only
  with_reducible refine event_nextWf (memWf_ite wf (memWf_ite (memWf_of_mem_eq wf (by exact rfl)) ?_))
  split
  · with_reducible exact extendMreg_memWf (memWf_of_mem_eq wf (by exact rfl)) ..
  · with_reducible exact memWf_of_mem_eq wf (by exact rfl)

/-! ### Trust -/

theorem bootRun_memWf {s : State} (wf : s.MemWf) (c b) : (s.bootRun c b).MemWf := by
  unfold State.bootRun
  split
  · with_reducible exact extendMreg_memWf (memWf_of_mem_eq wf (by exact rfl)) ..
  · with_reducible exact wf

theorem boot_memWf {s : State} (wf : s.MemWf) : (s.boot).MemWf :=
  memWf_ite (bootRun_memWf wf ..) (memWf_ite (bootRun_memWf wf ..) (memWf_of_mem_eq wf (by exact rfl)))

theorem afterReset_memWf {s : State} (wf : s.MemWf) : (s.afterReset).MemWf := memWf_of_wf (Mem.wf_filter _ wf)

theorem execPackageReset_nextWf {s : State} (wf : s.MemWf) : NextWf (execPackageReset s) := event_nextWf (boot_memWf (afterReset_memWf wf))

theorem execDieRomImageCheck_nextWf {s : State} (wf : s.MemWf) (d img) : NextWf (execDieRomImageCheck d img s) :=
  event_nextWf (memWf_ite wf (extendMreg_memWf (setDie_memWf wf ..) ..))

end Sys2Proof.Machine
end

section
set_option Elab.async false
/-! PROOFS. Storage stays canonical: trust and the board. -/
namespace Sys2Proof.Machine

/-! ### Trust -/

theorem execMextGo_nextWf {s : State} (wf : s.MemWf) : NextWf (execMextGo s) :=
  event_nextWf (memWf_ite wf (memWf_ite (memWf_of_mem_eq wf (by exact rfl)) (extendMreg_memWf (memWf_of_mem_eq wf (by exact
    rfl)) ..)))

theorem protocolBytes_memWf {s : State} (wf : s.MemWf) : (s.protocolBytes).2.MemWf := memWf_of_mem_eq wf (by exact rfl)

theorem noteSpdm_memWf {s : State} (wf : s.MemWf) (fn b) : (s.noteSpdm fn b).MemWf := wf

theorem execGetMeasurements_nextWf {s : State} (wf : s.MemWf) (fn nonce sign) : NextWf (execGetMeasurements fn nonce sign s) :=
  event_nextWf (memWf_ite wf (emit_memWf (noteSpdm_memWf (noteSpdm_memWf (protocolBytes_memWf wf) ..) ..) ..))

theorem execSpdmRequest_nextWf {s : State} (wf : s.MemWf) (fn kind) : NextWf (execSpdmRequest fn kind s) :=
  event_nextWf (memWf_ite wf (emit_memWf (noteSpdm_memWf (noteSpdm_memWf (noteSpdm_memWf (protocolBytes_memWf
    (protocolBytes_memWf (setFn_memWf wf ..))) ..) ..) ..) ..))

theorem dropChan_memWf {s : State} (wf : s.MemWf) (fn chan) : (s.dropChan fn chan).MemWf := wf

theorem chanRequest_memWf {s : State} (wf : s.MemWf) (fn secured p) : (s.chanRequest fn secured p).MemWf :=
  emit_memWf (memWf_ite wf (memWf_ite (memWf_of_mem_eq wf (by exact rfl)) (dropChan_memWf (endCopies_memWf wf ..) ..))) ..

theorem execChanSet_nextWf {s : State} (wf : s.MemWf) (fn secured payload) : NextWf (execChanSet fn secured payload s) :=
  event_nextWf (memWf_ite (chanRequest_memWf wf ..) wf)

theorem execChanClear_nextWf {s : State} (wf : s.MemWf) (fn secured payload) : NextWf (execChanClear fn secured payload s) :=
  event_nextWf (memWf_ite (chanRequest_memWf wf ..) wf)

theorem tdisp_memWf {s : State} (wf : s.MemWf) {fn f} (hf : (f s).MemWf) : (s.tdisp fn f).MemWf := by
  unfold State.tdisp
  dsimp only
  with_reducible exact memWf_ite wf (emit_memWf (protocolBytes_memWf hf) ..)

theorem setTdi_memWf {s : State} (wf : s.MemWf) (fn t) : (s.setTdi fn t).MemWf := wf

theorem execLockInterface_nextWf {s : State} (wf : s.MemWf) (fn) : NextWf (execLockInterface fn s) :=
  event_nextWf (tdisp_memWf wf (memWf_ite (setTdi_memWf wf ..) wf))

theorem execStartInterface_nextWf {s : State} (wf : s.MemWf) (fn) : NextWf (execStartInterface fn s) :=
  event_nextWf (tdisp_memWf wf (memWf_ite (setTdi_memWf wf ..) wf))

theorem leaveTdi_memWf {s : State} (wf : s.MemWf) (fn) : (s.leaveTdi fn).MemWf := by
  unfold State.leaveTdi
  dsimp only
  with_reducible refine foldl_memWf (fun u _ hu => ?_) (memWf_of_mem_eq (endCopies_memWf wf ..) (by exact rfl))
  split
  · with_reducible exact hu
  · with_reducible exact memWf_ite (driverEnd_memWf hu ..) (drawKey_memWf (driverEnd_memWf hu ..) ..)

theorem execStopInterface_nextWf {s : State} (wf : s.MemWf) (fn) : NextWf (execStopInterface fn s) :=
  event_nextWf (tdisp_memWf wf (setTdi_memWf (memWf_ite (leaveTdi_memWf wf ..) wf) ..))

theorem execIdeIntegrityFailure_nextWf {s : State} (wf : s.MemWf) (fn) : NextWf (execIdeIntegrityFailure fn s) :=
  event_nextWf (memWf_ite wf (tdiError_memWf (setFn_memWf wf ..) ..))

theorem execManagementRequest_nextWf {s : State} (wf : s.MemWf) (i3c obj) : NextWf (execManagementRequest i3c obj s) := by
  refine event_nextWf (memWf_ite wf (emit_memWf ?_ _))
  cases obj
  case raiseFloor => exact memWf_ite wf (memWf_ite wf (memWf_ite wf wf))
  all_goals exact wf

/-! ### Board -/

theorem reportCorrected_memWf {s : State} (wf : s.MemWf) : (s.reportCorrected).MemWf :=
  foldl_memWf (fun u _ hu => memWf_ite hu (raiseErr_memWf (memWf_of_mem_eq hu (by exact rfl)) ..)) wf

theorem reportTiles_memWf {s : State} (wf : s.MemWf) : (s.reportTiles).MemWf :=
  foldl_memWf (fun u _ hu => raiseErr_memWf hu ..) (memWf_of_mem_eq wf (by exact rfl))

theorem slew_memWf {s : State} (wf : s.MemWf) : (s.slew).MemWf :=
  memWf_ite wf (memWf_ite (memWf_of_mem_eq wf (by exact rfl)) (memWf_ite (memWf_of_mem_eq wf (by exact rfl)) wf))

theorem nanoseconds_memWf {s : State} (wf : s.MemWf) (n) : (s.nanoseconds n).MemWf := wf

theorem tick_memWf {s : State} (wf : s.MemWf) : (s.tick).MemWf :=
  memWf_ite (reportTiles_memWf (reportCorrected_memWf (ckTick_memWf (memWf_ite (gangSwitch_memWf (waitgeTicks_memWf (slew_memWf
    (memWf_of_mem_eq wf (by exact rfl))))) (waitgeTicks_memWf (slew_memWf (memWf_of_mem_eq wf (by exact rfl)))))))) (ckTick_memWf
    (memWf_ite (gangSwitch_memWf (waitgeTicks_memWf (slew_memWf (memWf_of_mem_eq wf (by exact rfl))))) (waitgeTicks_memWf (slew_memWf
    (memWf_of_mem_eq wf (by exact rfl))))))

theorem execTick_nextWf {s : State} (wf : s.MemWf) : NextWf (execTick s) := event_nextWf (tick_memWf wf)

theorem execGangSwitch_nextWf {s : State} (wf : s.MemWf) : NextWf (execGangSwitch s) := event_nextWf (memWf_ite (tick_memWf wf) wf)

theorem execPtpMessage_nextWf {s : State} (wf : s.MemWf) (time domain) : NextWf (execPtpMessage time domain s) :=
  event_nextWf (memWf_ite wf (memWf_of_mem_eq wf (by exact rfl)))

theorem execHoldoverEntry_nextWf {s : State} (wf : s.MemWf) : NextWf (execHoldoverEntry s) :=
  event_nextWf (memWf_ite (memWf_of_mem_eq wf (by exact rfl)) wf)

theorem stepTime_memWf {s : State} (wf : s.MemWf) (time) : (s.stepTime time).MemWf := memWf_of_mem_eq (tick_memWf wf) (by exact rfl)

theorem execTimeRelock_nextWf {s : State} (wf : s.MemWf) (time) : NextWf (execTimeRelock time s) :=
  event_nextWf (memWf_ite wf (memWf_ite (memWf_of_mem_eq wf (by exact rfl)) (stepTime_memWf (memWf_of_mem_eq wf (by exact rfl))
    ..)))

theorem execTimeFirstLock_nextWf {s : State} (wf : s.MemWf) (time) : NextWf (execTimeFirstLock time s) :=
  event_nextWf (memWf_ite wf (stepTime_memWf (memWf_of_mem_eq wf (by exact rfl)) ..))

theorem poisonLine_memWf {s : State} (wf : s.MemWf) (line) : (s.poisonLine line).MemWf := wf

theorem decodeLine_memWf {s : State} (wf : s.MemWf) (pa err) : (s.decodeLine pa err).MemWf :=
  memWf_ite wf (memWf_ite (memWf_of_mem_eq wf (by exact rfl)) (memWf_ite (raiseErr_memWf (poisonLine_memWf wf ..) ..) (memWf_ite
    (raiseErr_memWf (poisonLine_memWf (memWf_of_wf (Mem.wf_puts _ _ wf)) ..) ..) (memWf_of_wf (Mem.wf_puts _ _ wf)))))

theorem execHbmLineRead_nextWf {s : State} (wf : s.MemWf) (pa dataErr checkErr) : NextWf (execHbmLineRead pa dataErr checkErr s) :=
  event_nextWf (memWf_ite (decodeLine_memWf wf ..) wf)

theorem execPartialLineMerge_nextWf {s : State} (wf : s.MemWf) (pa mask data pois dataErr checkErr) :
    NextWf (execPartialLineMerge pa mask data pois dataErr checkErr s) :=
  event_nextWf (memWf_ite wf (memWf_ite (poisonLine_memWf (memWf_of_wf (Mem.wf_puts _ _ (memWf_ite (decodeLine_memWf wf ..)
    (memWf_ite wf (raiseErr_memWf (poisonLine_memWf wf ..) ..))))) ..) (memWf_of_wf (Mem.wf_puts _ _ (memWf_ite (decodeLine_memWf wf
    ..) (memWf_ite wf (raiseErr_memWf (poisonLine_memWf wf ..) ..)))))))

theorem execPatrolScrub_nextWf {s : State} (wf : s.MemWf) (k dataErr checkErr) : NextWf (execPatrolScrub k dataErr checkErr s) :=
  event_nextWf (memWf_ite (memWf_of_mem_eq (decodeLine_memWf wf ..) (by exact rfl)) (memWf_ite (memWf_of_mem_eq
    (decodeLine_memWf wf ..) (by exact rfl)) (memWf_of_mem_eq (decodeLine_memWf wf ..) (by exact rfl))))

theorem arrayError_memWf {s : State} (wf : s.MemWf) (e) : (s.arrayError e).MemWf := by
  unfold State.arrayError
  dsimp only
  split
  · with_reducible exact memWf_of_mem_eq wf (by exact rfl)
  · with_reducible exact memWf_ite (takeCause_memWf wf ..) wf
  · split
    · with_reducible exact wf
    · with_reducible exact memWf_ite (l1Drop_memWf wf ..) (takeCause_memWf wf ..)
  · with_reducible exact memWf_ite wf (raiseErr_memWf (modTile_memWf wf ..) ..)
  · with_reducible exact raiseErr_memWf (modTile_memWf wf ..) ..
  · with_reducible exact memWf_ite wf (raiseErr_memWf (poisonLine_memWf wf ..) ..)

theorem execCxlReadComplete_nextWf {s : State} (wf : s.MemWf) (pa pois err) : NextWf (execCxlReadComplete pa pois err s) :=
  event_nextWf (memWf_ite wf (raiseErr_memWf (poisonLine_memWf wf ..) ..))

theorem execCxlPortTrain_nextWf {s : State} (wf : s.MemWf) (p dev width rate) : NextWf (execCxlPortTrain p dev width rate s) := by
  unfold execCxlPortTrain
  dsimp only
  with_reducible refine event_nextWf ?_
  split
  · with_reducible exact raiseErr_memWf (memWf_of_mem_eq wf (by exact rfl)) ..
  · with_reducible exact memWf_ite wf (memWf_of_mem_eq wf (by exact rfl))

theorem execCxlExtentAdded_nextWf {s : State} (wf : s.MemWf) (p base size) : NextWf (execCxlExtentAdded p base size s) :=
  event_nextWf (memWf_ite wf (emit_memWf (memWf_of_mem_eq wf (by exact rfl)) ..))

theorem releaseExtent_memWf {s : State} (wf : s.MemWf) (p base size) : (s.releaseExtent p base size).MemWf :=
  memWf_ite wf (memWf_of_mem_eq wf (by exact rfl))

theorem windowFail_memWf {s : State} (wf : s.MemWf) (fn off sev) : (s.windowFail fn off sev).MemWf := raiseErr_memWf wf ..

theorem execBar2WindowRead_nextWf {s : State} (wf : s.MemWf) (fn off n) : NextWf (execBar2WindowRead fn off n s) := by
  unfold execBar2WindowRead
  dsimp only
  with_reducible refine event_nextWf ?_
  split
  · with_reducible exact emit_memWf (windowFail_memWf wf ..) ..
  · next e =>
      with_reducible
        exact memWf_ite (emit_memWf (windowFail_memWf (Yields.of_eq_some (P := fun x => x.2.MemWf) (yields_optionBind (Yields.of_forall fun
          _ => ncRead_yields wf fun _ u hu => hu)) e) ..) ..) (emit_memWf (Yields.of_eq_some (P := fun x => x.2.MemWf) (yields_optionBind
          (Yields.of_forall fun _ => ncRead_yields wf fun _ u hu => hu)) e) ..)

theorem execBar2WindowWrite_nextWf {s : State} (wf : s.MemWf) (fn off data) : NextWf (execBar2WindowWrite fn off data s) := by
  unfold execBar2WindowWrite
  with_reducible refine event_nextWf ?_
  split
  · with_reducible exact windowFail_memWf wf ..
  · with_reducible exact getD_memWf (ncWrite_yields wf fun u hu => hu) (windowFail_memWf wf ..)

theorem unmask_memWf {s : State} (wf : s.MemWf) (fn vec) : (s.unmask fn vec).MemWf :=
  memWf_ite (emit_memWf (setFn_memWf wf ..) ..) (setFn_memWf wf ..)

theorem execMsixVectorUnmask_nextWf {s : State} (wf : s.MemWf) (fn vec) : NextWf (execMsixVectorUnmask fn vec s) :=
  event_nextWf (memWf_ite wf (unmask_memWf wf ..))

theorem execPeerPortTrained_nextWf {s : State} (wf : s.MemWf) (pn) : NextWf (execPeerPortTrained pn s) :=
  event_nextWf (memWf_ite wf (pump_memWf (setPort_memWf wf ..) ..))

end Sys2Proof.Machine
end

section
set_option Elab.async false
/-! PROOFS. Storage stays canonical: the scalar forms, control and namespaces. -/
namespace Sys2Proof.Machine

/-! ### Board -/

theorem execFlitReceive_nextWf {s : State} (wf : s.MemWf) (pn f) : NextWf (execFlitReceive pn f s) :=
  event_nextWf (memWf_ite wf (pump_memWf (setPort_memWf wf ..) ..))

theorem portOff_memWf {s : State} (wf : s.MemWf) (pn en down) : (s.portOff pn en down).MemWf :=
  foldl_memWf (fun _ _ hu => emit_memWf hu ..) (foldl_memWf (fun _ _ hu => letGo_memWf hu ..) (setPort_memWf (collLinkDown_memWf
    wf ..) ..))

theorem portDown_memWf {s : State} (wf : s.MemWf) (pn) : (s.portDown pn).MemWf := raiseErr_memWf (portOff_memWf wf ..) ..

theorem requestsDown_memWf {s : State} (wf : s.MemWf) (pn) : (s.requestsDown pn).MemWf :=
  foldl_memWf (fun u _ hu => askFailed_memWf hu ..) (memWf_of_mem_eq wf (by exact rfl))

theorem execReplayTimeout_nextWf {s : State} (wf : s.MemWf) (pn) : NextWf (execReplayTimeout pn s) :=
  event_nextWf (memWf_ite wf (memWf_ite (foldl_memWf (fun _ _ hu => emit_memWf hu ..) (setPort_memWf wf ..)) (portDown_memWf
    (requestsDown_memWf (foldl_memWf (fun _ _ hu => emit_memWf hu ..) (setPort_memWf wf ..)) ..) ..)))

theorem execCreditReturnTimeout_nextWf {s : State} (wf : s.MemWf) (pn) : NextWf (execCreditReturnTimeout pn s) :=
  event_nextWf (memWf_ite wf (sendFlit_memWf wf ..))

/-! ### Scalar -/

theorem rdS2_memWf {s : State} (wf : s.MemWf) (g st a b) : (s.rdS2 g st a b).2.2.MemWf := rdS_memWf (rdS_memWf wf ..) ..

theorem scalar3_nextWf {s : State} (wf : s.MemWf) (L f d a b) : NextWf (scalar3 L f d a b s) :=
  issue_nextWf wf fun _ _ _ hu => .bind <| freeS_leads hu fun _ hv => leads_ok.mpr (wrS_memWf (rdS2_memWf hv ..) ..)

theorem scalar2_nextWf {s : State} (wf : s.MemWf) (f d a) : NextWf (scalar2 f d a s) :=
  issue_nextWf wf fun _ _ _ hu => .bind <| freeS_leads hu fun _ hv => leads_ok.mpr (wrS_memWf (rdS_memWf hv ..) ..)

theorem scalarDiv_nextWf {s : State} (wf : s.MemWf) (f d a b) : NextWf (scalarDiv f d a b s) :=
  issue_nextWf wf fun _ _ _ hu => keepUnits_leads (.bind <| useUnit_leads hu fun _ hv => .bind <| freeS_leads hv fun _ hw =>
    leads_ok.mpr (memWf_ite (modTile_memWf (wrS_memWf (rdS2_memWf hw ..) ..) ..) (wrS_memWf (rdS2_memWf hw ..) ..))) ..

theorem execSel_nextWf {s : State} (wf : s.MemWf) (d a b c) : NextWf (execSel d a b c s) :=
  issue_nextWf wf fun _ _ _ hu => .bind <| freeS_leads hu fun _ hv => leads_ok.mpr (wrS_memWf (rdS_memWf (rdS_memWf hv ..) ..)
    ..)

theorem flagCmp_nextWf {s : State} (wf : s.MemWf) (r f a b) : NextWf (flagCmp r f a b s) :=
  issue_nextWf wf fun _ _ _ hu => .bind <| raiseIf_leads hu (leads_ok.mpr (modTile_memWf (rdS2_memWf hu ..) ..))

theorem flagOp_nextWf {s : State} (wf : s.MemWf) (op f a b) : NextWf (flagOp op f a b s) :=
  issue_nextWf wf fun _ _ _ hu => .bind <| rdF_leads hu fun _ => .bind <| rdF_leads hu fun _ => leads_ok.mpr (modTile_memWf hu
    ..)

theorem execFget_nextWf {s : State} (wf : s.MemWf) (d a) : NextWf (execFget d a s) :=
  issue_nextWf wf fun _ _ _ hu => .bind <| rdF_leads hu fun _ => leads_ok.mpr (wrS_memWf hu ..)

theorem execFput_nextWf {s : State} (wf : s.MemWf) (f a) : NextWf (execFput f a s) :=
  issue_nextWf wf fun _ _ _ hu => .bind <| raiseIf_leads hu (leads_ok.mpr (modTile_memWf (rdS_memWf hu ..) ..))

/-! ### Control -/

theorem branchCmp_nextWf {s : State} (wf : s.MemWf) (r a b disp) : NextWf (branchCmp r a b disp s) :=
  issueJ_nextWf wf fun _ _ _ hu => .bind <| raiseIf_leads hu (leads_ok.mpr (rdS2_memWf hu ..))

theorem branchFlag_nextWf {s : State} (wf : s.MemWf) (v f disp) : NextWf (branchFlag v f disp s) :=
  issueJ_nextWf wf fun _ _ _ hu => .bind <| rdF_leads hu fun _ => leads_ok.mpr hu

theorem branchQ_nextWf {s : State} (wf : s.MemWf) (v disp) : NextWf (branchQ v disp s) := by
  unfold branchQ
  with_reducible refine issueJ_nextWf wf fun _ _ u hu => ?_
  split
  · with_reducible exact leads_waitIn.mpr hu
  · with_reducible exact leads_ok.mpr (modTile_memWf hu ..)

theorem jump_nextWf {s : State} (wf : s.MemWf) (d b disp) : NextWf (jump d b disp s) :=
  issueJ_nextWf wf fun _ _ _ hu => .bind <| raiseIf_leads hu (leads_ite (.bind <| leads_ok.mpr (leads_ok.mpr (rdS_memWf hu ..)))
    (.bind <| freeS_leads (rdS_memWf hu ..) fun _ hv => .bind <| leads_ok.mpr (leads_ok.mpr (wrS_memWf hv ..))))

theorem execIllegalInstruction_nextWf {s : State} (wf : s.MemWf) (w0 w1) : NextWf (execIllegalInstruction w0 w1 s) := by
  unfold execIllegalInstruction
  split
  · split
    · with_reducible exact nextWf_next.mpr (settle_memWf (leads_trapIn.mpr (openIssue_memWf wf ..)) ..)
    · with_reducible exact nextWf_next.mpr wf
  · with_reducible exact nextWf_fault

/-! ### Namespaces -/

theorem nsDone_memWf {s : State} (wf : s.MemWf) (code) : (s.nsDone code).MemWf := wf

theorem execRegister_nextWf {s : State} (wf : s.MemWf) : NextWf (execRegister s) := by
  unfold execRegister
  dsimp only
  with_reducible refine event_nextWf (memWf_ite wf (memWf_ite (nsDone_memWf wf ..) ?_))
  split
  · with_reducible exact nsDone_memWf wf ..
  · with_reducible
      exact memWf_ite (nsDone_memWf wf ..) (memWf_ite (nsDone_memWf wf ..) (memWf_ite (nsDone_memWf wf ..) (memWf_of_mem_eq (nsDone_memWf
        wf ..) (by exact rfl))))

theorem startRemoval_memWf {s : State} (wf : s.MemWf) (h) : (s.startRemoval h).MemWf := modNode_memWf (indexDel_memWf wf ..) ..

theorem execUnregister_nextWf {s : State} (wf : s.MemWf) : NextWf (execUnregister s) := by
  unfold execUnregister
  dsimp only
  with_reducible refine event_nextWf (memWf_ite wf ?_)
  split
  · with_reducible exact nsDone_memWf wf ..
  · with_reducible exact memWf_ite wf (foldl_memWf (fun u _ hu => startRemoval_memWf hu ..) (memWf_of_mem_eq wf (by exact rfl)))

theorem execNamespaceClosed_nextWf {s : State} (wf : s.MemWf) (nsid) : NextWf (execNamespaceClosed nsid s) :=
  event_nextWf (nsGone_memWf wf ..)

theorem groupsIn_yields {s : State} (wf : s.MemWf) {ns tier j l P} (hP : ∀ a (t : State), t.MemWf → P (a, t)) :
    Yields P (State.groupsIn ns tier j l s) := by
  induction l generalizing ns tier j s P with
  | nil =>
    unfold State.groupsIn
    with_reducible exact yields_some.mpr (hP _ _ wf)
  | cons i is ih =>
    unfold State.groupsIn
    with_reducible refine yields_ite (ih wf fun _ u hu => hP _ _ hu) ?_
    split
    · with_reducible exact yields_none
    · next e =>
        with_reducible
          exact .map <| ih (Yields.of_eq_some (P := fun x => x.2.MemWf) (allocGroups_yields wf fun _ u hu => hu) e) fun _ u hu => hP _ _ hu

theorem harvestOne_yields {s : State} (wf : s.MemWf) {j key n} {P : State → Prop} (hP : ∀ t : State, t.MemWf → P t) :
    Yields P (s.harvestOne j key n) := by
  unfold State.harvestOne
  dsimp only
  split
  · with_reducible exact yields_none
  · with_reducible refine yields_ite ?_ (yields_ite ?_ (yields_some.mpr (hP _ (modPool_memWf (startRemoval_memWf wf ..) ..))))
    · split
      · with_reducible exact yields_none
      · next e1 =>
          with_reducible
            exact yields_ite yields_none (yields_some.mpr (hP _ (modPool_memWf (setNode_memWf (Yields.of_eq_some (P := fun x => x.2.MemWf)
              (groupsIn_yields wf fun _ u hu => hu) e1) ..) ..)))
    · split
      · with_reducible exact yields_none
      · next e1 =>
          with_reducible
            exact yields_ite yields_none (yields_some.mpr (hP _ (modPool_memWf (setNode_memWf (Yields.of_eq_some (P := fun x => x.2.MemWf)
              (groupsIn_yields wf fun _ u hu => hu) e1) ..) ..)))

theorem execHarvestSelect_nextWf {s : State} (wf : s.MemWf) (j) : NextWf (execHarvestSelect j s) :=
  event_nextWf (memWf_ite wf (getD_memWf (.map <| yields_findSome fun _ => harvestOne_yields wf fun _ hu => modPool_memWf hu ..)
    wf))

theorem moveEnds_memWf {s : State} (wf : s.MemWf) (h) : (s.moveEnds h).MemWf := wf

end Sys2Proof.Machine
end

section
set_option Elab.async false
/-! PROOFS. Storage stays canonical: translation, the registers and the system forms. -/
namespace Sys2Proof.Machine

/-! ### Namespaces -/

theorem execHarvestDemotionDone_nextWf {s : State} (wf : s.MemWf) (h) : NextWf (execHarvestDemotionDone h s) := by
  unfold execHarvestDemotionDone
  dsimp only
  with_reducible refine event_nextWf (memWf_ite wf ?_)
  split
  · with_reducible exact wf
  · with_reducible
      refine closingRemoval_memWf (moveEnds_memWf (setNode_memWf (freeGroups_memWf (foldl_memWf (fun u _ hu => foldl_memWf (fun v _ hv =>
        ?_) hu) wf) ..) ..) ..) ..
    split
    · with_reducible exact frameWrite_memWf hv ..
    · with_reducible exact hv

theorem execHarvestRemovalDone_nextWf {s : State} (wf : s.MemWf) (h) : NextWf (execHarvestRemovalDone h s) :=
  event_nextWf (memWf_ite wf (moveEnds_memWf (freeNode_memWf _ wf ..) ..))

/-! ### Translation -/

theorem walkEntry_memWf {s : State} (wf : s.MemWf) (d ctx va level pa) : (s.walkEntry d ctx va level pa).2.2.MemWf := by
  unfold State.walkEntry
  dsimp only
  split
  · with_reducible exact setDie_memWf wf ..
  · split
    · with_reducible exact wf
    · with_reducible exact setDie_memWf wf ..

theorem walkVia_memWf {s : State} (wf : s.MemWf) {d} {ctx} {va} {l} {c} : (State.walkVia d ctx va l c s).2.MemWf := by
  induction l generalizing d ctx va c s with
  | zero =>
    unfold State.walkVia
    dsimp only
    with_reducible exact wf
  | succ i ih =>
    unfold State.walkVia
    dsimp only
    split
    · split
      · with_reducible exact wf
      · split
        · with_reducible exact wf
        · with_reducible refine memWf_ite_snd ?_ ?_
          · split
            · with_reducible exact wf
            · with_reducible exact wf
          · split
            · with_reducible exact wf
            · with_reducible exact ih wf
    · split
      · with_reducible exact walkEntry_memWf wf ..
      · split
        · with_reducible exact walkEntry_memWf wf ..
        · with_reducible refine memWf_ite_snd ?_ ?_
          · split
            · with_reducible exact walkEntry_memWf wf ..
            · with_reducible exact walkEntry_memWf wf ..
          · split
            · with_reducible exact walkEntry_memWf wf ..
            · with_reducible exact ih (walkEntry_memWf wf ..)

theorem doWalk_memWf {s : State} (wf : s.MemWf) (g w) : (s.doWalk g w).2.MemWf := by
  unfold State.doWalk
  split
  · with_reducible exact wf
  · split
    · next e1 =>
        with_reducible exact memWf_of_eq_mk (walkVia_memWf wf) e1
    · next e1 =>
        with_reducible exact memWf_of_eq_mk (walkVia_memWf wf) e1
    · next e1 =>
        split
        · with_reducible exact memWf_of_eq_mk (walkVia_memWf wf) e1
        · with_reducible exact modTile_memWf (memWf_of_eq_mk (walkVia_memWf wf) e1) ..
        · with_reducible exact modTile_memWf (memWf_of_eq_mk (walkVia_memWf wf) e1) ..

theorem doWalks_memWf {s : State} (wf : s.MemWf) {g} {l} : (State.doWalks g l s).2.MemWf := by
  induction l generalizing g s with
  | nil =>
    unfold State.doWalks
    dsimp only
    with_reducible exact wf
  | cons i is ih =>
    unfold State.doWalks
    dsimp only
    with_reducible exact ih (doWalk_memWf wf ..)

theorem walkCause_memWf {s : State} (wf : s.MemWf) (g w c) : (s.walkCause g w c).MemWf := by
  unfold State.walkCause
  dsimp only
  split
  · with_reducible exact takeCause_memWf wf ..
  · split
    · with_reducible exact engineCause_memWf wf ..
    · with_reducible exact wf

theorem walksReturn_memWf {s : State} (wf : s.MemWf) (g who) : (s.walksReturn g who).MemWf := by
  unfold State.walksReturn
  dsimp only
  split
  · with_reducible exact walkCause_memWf (modTile_memWf (doWalks_memWf wf) ..) ..
  · with_reducible exact freeze_memWf (modTile_memWf (doWalks_memWf wf) ..) ..
  · with_reducible exact modTile_memWf (doWalks_memWf wf) ..

theorem execTranslationWalkComplete_nextWf {s : State} (wf : s.MemWf) (g) : NextWf (execTranslationWalkComplete g s) := by
  unfold execTranslationWalkComplete
  dsimp only
  with_reducible refine powered_nextWf wf (memWf_ite wf (memWf_ite ?_ (memWf_ite wf ?_)))
  · split
    · with_reducible exact wf
    · with_reducible exact walksReturn_memWf wf ..
  · split
    · with_reducible exact wf
    · with_reducible exact walksReturn_memWf wf ..

theorem execThaw_nextWf {s : State} (wf : s.MemWf) (g entries ok) : NextWf (execThaw g entries ok s) :=
  powered_nextWf wf (memWf_ite (memWf_ite (foldl_memWf (fun _ _ hu => putEntry_memWf hu ..) wf) wf) (memWf_ite wf (memWf_ite
    (modTile_memWf (foldl_memWf (fun _ _ hu => putEntry_memWf hu ..) wf) ..) (foldl_memWf (fun _ _ hu => walkCause_memWf hu ..)
    (modTile_memWf (foldl_memWf (fun _ _ hu => putEntry_memWf hu ..) wf) ..)))))

theorem sdStart_memWf {s : State} (wf : s.MemWf) (scope) : (s.sdStart scope).MemWf := memWf_ite wf (startShootdown_memWf wf ..)

theorem execShootdownPage_nextWf {s : State} (wf : s.MemWf) : NextWf (execShootdownPage s) := event_nextWf (sdStart_memWf wf ..)

theorem execShootdownContext_nextWf {s : State} (wf : s.MemWf) : NextWf (execShootdownContext s) := event_nextWf (sdStart_memWf wf ..)

theorem execShootdownAll_nextWf {s : State} (wf : s.MemWf) : NextWf (execShootdownAll s) := event_nextWf (sdStart_memWf wf ..)

theorem imageShoot_memWf {s : State} (wf : s.MemWf) (d h) : (s.imageShoot d h).MemWf :=
  modHolder_memWf (foldl_memWf (fun _ _ hu => modHolder_memWf (memWf_ite hu (unhold_memWf (mergeBack_memWf hu ..) ..)) ..) wf)
    ..

theorem sdAct_yields {s : State} (wf : s.MemWf) {d p} {P : State → Prop} (hP : ∀ t : State, t.MemWf → P t) : Yields P (s.sdAct d p) := by
  unfold State.sdAct
  dsimp only
  split
  · with_reducible
      exact yields_ite yields_none (yields_some.mpr (hP _ (modTile_memWf (drainDie_memWf (foldl_memWf (fun u _ hu => l1Drop_memWf hu ..)
        wf) ..) ..)))
  · with_reducible exact yields_some.mpr (hP _ (setDie_memWf wf ..))
  · with_reducible exact yields_some.mpr (hP _ (foldl_memWf (fun u _ hu => imageShoot_memWf hu ..) wf))
  · with_reducible exact yields_ite yields_none (yields_some.mpr (hP _ wf))
  · with_reducible exact yields_some.mpr (hP _ wf)
  · with_reducible exact yields_some.mpr (hP _ wf)

theorem sdEnds_memWf {s : State} (wf : s.MemWf) (d) : (s.sdEnds d).MemWf := memWf_ite (memWf_of_mem_eq wf (by exact rfl)) wf

theorem execShootdownAck_nextWf {s : State} (wf : s.MemWf) (p) : NextWf (execShootdownAck p s) := by
  unfold execShootdownAck
  dsimp only
  with_reducible refine event_nextWf ?_
  split
  · with_reducible exact wf
  · split
    · with_reducible exact wf
    · next e1 =>
        with_reducible
          exact memWf_ite (sdEnds_memWf (memWf_of_mem_eq (Yields.of_eq_some (P := State.MemWf) (sdAct_yields wf fun u hu => hu) e1) (by exact
            rfl)) ..) (memWf_of_mem_eq (Yields.of_eq_some (P := State.MemWf) (sdAct_yields wf fun u hu => hu) e1) (by exact rfl))

theorem execCaStoreClaimAnswer_nextWf {s : State} (wf : s.MemWf) (g) : NextWf (execCaStoreClaimAnswer g s) := by
  unfold execCaStoreClaimAnswer
  with_reducible refine powered_nextWf wf ?_
  split
  · with_reducible exact wf
  · with_reducible exact memWf_ite (modTile_memWf (answerClaim_memWf wf ..) ..) wf

theorem execCloseApplied_nextWf {s : State} (wf : s.MemWf) (d h) : NextWf (execCloseApplied d h s) := by
  unfold execCloseApplied
  with_reducible refine event_nextWf ?_
  split
  · with_reducible exact applyEnt_memWf (setChan_memWf wf ..) ..
  · with_reducible exact wf

/-! ### Registers -/

theorem regSluice_memWf {s : State} (wf : s.MemWf) (a w) : (s.regSluice a w).MemWf := memWf_ite (putBudget_memWf wf ..) wf

theorem regHomemap_memWf {s : State} (wf : s.MemWf) (a w) : (s.regHomemap a w).MemWf :=
  foldl_memWf (fun u _ hu => memWf_of_mem_eq hu (by exact rfl)) wf

theorem regDirCfg_memWf {s : State} (wf : s.MemWf) (w) : (s.regDirCfg w).MemWf := wf

theorem regProg_memWf {s : State} (wf : s.MemWf) (a w) : (s.regProg a w).MemWf :=
  memWf_ite (memWf_of_mem_eq wf (by exact rfl)) (memWf_ite (memWf_ite (memWf_of_mem_eq wf (by exact rfl)) (memWf_ite wf
    (memWf_of_mem_eq wf (by exact rfl)))) wf)

theorem regQfunc_memWf {s : State} (wf : s.MemWf) (a w) : (s.regQfunc a w).MemWf := by
  have hqfunc (u : State) (hu : u.MemWf) (x) : State.MemWf { u with qfunc := x } := hu
  refine foldl_memWf (fun u e hu => ?_) wf
  dsimp only
  with_reducible apply frozenWrite_memWf hu
  with_reducible apply frozenWrite_memWf hu
  exact memWf_ite hu (hqfunc _ hu _)

theorem regMext_memWf {s : State} (wf : s.MemWf) (a w) : (s.regMext a w).MemWf :=
  memWf_ite (memWf_of_mem_eq wf (by exact rfl)) (memWf_ite (memWf_ite (memWf_of_mem_eq wf (by exact rfl)) (memWf_of_mem_eq wf
    (by exact rfl))) wf)

theorem regTenant_memWf {s : State} (wf : s.MemWf) (a w) : (s.regTenant a w).MemWf := memWf_ite wf (memWf_of_mem_eq wf (by exact rfl))

theorem regGang_memWf {s : State} (wf : s.MemWf) (a w) : (s.regGang a w).MemWf :=
  memWf_ite (memWf_ite wf (memWf_of_mem_eq wf (by exact rfl))) (memWf_ite (memWf_ite wf (memWf_of_mem_eq wf (by exact rfl)))
    (memWf_ite (memWf_of_mem_eq wf (by exact rfl)) wf))

theorem regRes_memWf {s : State} (wf : s.MemWf) (a w) : (s.regRes a w).MemWf :=
  memWf_ite (memWf_of_mem_eq wf (by exact rfl)) (memWf_ite (memWf_ite (memWf_of_mem_eq wf (by exact rfl)) (memWf_ite
    (memWf_of_mem_eq wf (by exact rfl)) (memWf_ite (memWf_of_mem_eq wf (by exact rfl)) (memWf_of_mem_eq wf (by exact rfl)))))
    (memWf_ite (memWf_of_mem_eq wf (by exact rfl)) (memWf_ite (memWf_of_mem_eq wf (by exact rfl)) wf)))

theorem regSd_memWf {s : State} (wf : s.MemWf) (a w) : (s.regSd a w).MemWf :=
  memWf_ite (memWf_of_mem_eq wf (by exact rfl)) (memWf_ite (memWf_ite (memWf_of_mem_eq wf (by exact rfl)) (memWf_ite
    (memWf_of_mem_eq wf (by exact rfl)) (memWf_ite (memWf_of_mem_eq wf (by exact rfl)) (memWf_of_mem_eq wf (by exact rfl))))) wf)

theorem regNs_memWf {s : State} (wf : s.MemWf) (a w) : (s.regNs a w).MemWf :=
  memWf_ite (memWf_of_mem_eq wf (by exact rfl)) (memWf_ite (memWf_ite (memWf_of_mem_eq wf (by exact rfl)) (memWf_ite
    (memWf_of_mem_eq wf (by exact rfl)) (memWf_ite (memWf_of_mem_eq wf (by exact rfl)) (memWf_of_mem_eq wf (by exact rfl))))) wf)

theorem regRepl_memWf {s : State} (wf : s.MemWf) (a w) : (s.regRepl a w).MemWf :=
  memWf_ite (memWf_of_mem_eq wf (by exact rfl)) (memWf_ite (memWf_of_mem_eq wf (by exact rfl)) wf)

theorem regIdx_memWf {s : State} (wf : s.MemWf) (a w) : (s.regIdx a w).MemWf := memWf_ite wf (memWf_of_mem_eq wf (by exact rfl))

theorem regPool_memWf {s : State} (wf : s.MemWf) (a w) : (s.regPool a w).MemWf := by
  unfold State.regPool
  obtain ⟨b, hb⟩ : ∃ b, a - 0x161000 = b := ⟨_, rfl⟩
  simp only [hb]
  split
  · exact memWf_ite (modPool_memWf wf ..) wf
  · exact memWf_ite (modPool_memWf wf ..) wf
  · exact modPool_memWf wf ..
  · exact wf

theorem regErr_memWf {s : State} (wf : s.MemWf) (a w) : (s.regErr a w).MemWf :=
  memWf_ite (memWf_ite (memWf_of_mem_eq wf (by exact rfl)) wf) (memWf_ite (memWf_ite (memWf_of_mem_eq wf (by exact rfl))
    (memWf_of_mem_eq wf (by exact rfl))) wf)

theorem regTime_memWf {s : State} (wf : s.MemWf) (a w) : (s.regTime a w).MemWf :=
  memWf_ite (memWf_of_mem_eq wf (by exact rfl)) (memWf_ite (memWf_of_mem_eq wf (by exact rfl)) wf)

theorem regPort_memWf {s : State} (wf : s.MemWf) (a w) : (s.regPort a w).MemWf :=
  memWf_ite (portOff_memWf (requestsDown_memWf wf ..) ..) (setPort_memWf wf ..)

theorem regPeer_memWf {s : State} (wf : s.MemWf) (a w) : (s.regPeer a w).MemWf :=
  memWf_ite (memWf_ite wf (memWf_of_mem_eq wf (by exact rfl))) (memWf_ite (foldl_memWf (fun u _ hu => memWf_of_mem_eq hu (by
    exact rfl)) wf) (memWf_ite (regPort_memWf wf ..) wf))

theorem regPf_memWf {s : State} (wf : s.MemWf) (a w) : (s.regPf a w).MemWf :=
  memWf_ite (regSluice_memWf wf ..) (memWf_ite (regHomemap_memWf wf ..) (memWf_ite (regDirCfg_memWf wf ..) (memWf_ite wf
    (memWf_ite (regProg_memWf wf ..) (memWf_ite wf (memWf_ite (regQfunc_memWf wf ..) (memWf_ite wf (memWf_ite (regMext_memWf wf ..)
    (memWf_ite wf (memWf_ite (regTenant_memWf wf ..) (memWf_ite (regGang_memWf wf ..) (memWf_ite (regRes_memWf wf ..) (memWf_ite
    (regSd_memWf wf ..) (memWf_ite (regNs_memWf wf ..) (memWf_ite (regRepl_memWf wf ..) (memWf_ite (regIdx_memWf wf ..) (memWf_ite wf
    (memWf_ite (regPool_memWf wf ..) (memWf_ite wf (memWf_ite (regErr_memWf wf ..) (memWf_ite (regTime_memWf wf ..) (regPeer_memWf wf
    ..))))))))))))))))))))))

theorem regQueue_memWf {s : State} (wf : s.MemWf) (fn n o w) : (s.regQueue fn n o w).MemWf := by
  unfold State.regQueue
  dsimp only
  with_reducible refine memWf_ite wf ?_
  split
  · with_reducible exact frozenWrite_memWf wf (modQueue_memWf wf ..)
  · with_reducible exact qCtl_memWf wf ..
  · with_reducible exact memWf_ite (qHead_memWf wf ..) wf
  · with_reducible exact memWf_ite (modQueue_memWf (memWf_ite (qResume_memWf wf ..) wf) ..) (memWf_ite (qResume_memWf wf ..) wf)
  · with_reducible exact frozenWrite_memWf wf (modQueue_memWf wf ..)
  · with_reducible exact wf

theorem regRing_memWf {s : State} (wf : s.MemWf) (fn c o w) : (s.regRing fn c o w).MemWf := by
  unfold State.regRing
  dsimp only
  split
  · with_reducible exact frozenWrite_memWf wf (modRing_memWf wf ..)
  · with_reducible exact ringCtl_memWf wf ..
  · with_reducible exact modRing_memWf wf ..
  · with_reducible exact frozenWrite_memWf wf (modRing_memWf wf ..)
  · with_reducible exact wf

theorem regWindow_memWf {s : State} (wf : s.MemWf) (fn a w) : (s.regWindow fn a w).MemWf :=
  memWf_ite (setFn_memWf wf ..) (setFn_memWf wf ..)

theorem regMsix_memWf {s : State} (wf : s.MemWf) (fn o w) : (s.regMsix fn o w).MemWf :=
  frozenWrite_memWf wf (memWf_ite (foldl_memWf (fun _ _ hu => memWf_ite (setFn_memWf hu ..) hu) wf) (memWf_ite (setFn_memWf
    (foldl_memWf (fun _ _ hu => memWf_ite (setFn_memWf hu ..) hu) wf) ..) (unmask_memWf (foldl_memWf (fun _ _ hu => memWf_ite
    (setFn_memWf hu ..) hu) wf) ..)))

theorem regWord_memWf {s : State} (wf : s.MemWf) (fn a w) : (s.regWord fn a w).MemWf :=
  memWf_ite wf (memWf_ite (regWindow_memWf wf ..) (memWf_ite (regQueue_memWf wf ..) (memWf_ite (memWf_ite (regRing_memWf wf ..)
    wf) (memWf_ite (memWf_ite (doorbell_memWf wf ..) wf) (memWf_ite (regMsix_memWf wf ..) (memWf_ite wf (memWf_ite (regRing_memWf wf
    ..) (regPf_memWf wf ..))))))))

theorem execRegisterWrite_nextWf {s : State} (wf : s.MemWf) (fn off size val) : NextWf (execRegisterWrite fn off size val s) :=
  event_nextWf (memWf_ite wf (memWf_ite (regWord_memWf (regWord_memWf wf ..) ..) (regWord_memWf wf ..)))

/-! ### System -/

theorem execCsrrd_nextWf {s : State} (wf : s.MemWf) (d c) : NextWf (execCsrrd d c s) := by
  unfold execCsrrd
  with_reducible refine issue_nextWf wf fun _ _ u hu => ?_
  split
  · with_reducible exact leads_trapIn.mpr hu
  · with_reducible exact .bind <| freeS_leads hu fun v hv => leads_ok.mpr (wrS_memWf hv ..)

theorem csrWrite_nextWf {s : State} (wf : s.MemWf) (w1c f a c) : NextWf (csrWrite w1c f a c s) := by
  unfold csrWrite
  dsimp only
  with_reducible refine issue_nextWf wf fun _ _ u hu => ?_
  split
  · with_reducible exact leads_trapIn.mpr hu
  · split
    · with_reducible exact leads_trapIn.mpr hu
    · with_reducible
        exact leads_ite (leads_trapIn.mpr hu) (leads_ite (leads_trapIn.mpr hu) (leads_ok.mpr (modTile_memWf (rdS_memWf hu ..) ..)))
    · with_reducible exact leads_ite (leads_trapIn.mpr hu) (leads_ok.mpr (modTile_memWf (rdS_memWf hu ..) ..))

theorem execTrap_nextWf {s : State} (wf : s.MemWf) (c) : NextWf (execTrap c s) := issue_nextWf wf fun _ _ _ hu => leads_trapIn.mpr hu

theorem execBrk_nextWf {s : State} (wf : s.MemWf) (c) : NextWf (execBrk c s) := issue_nextWf wf fun _ _ _ hu => leads_trapIn.mpr hu

theorem execTret_nextWf {s : State} (wf : s.MemWf) : NextWf (execTret s) :=
  issueJ_nextWf wf fun _ _ _ hu => leads_ok.mpr (modTile_memWf hu ..)

theorem execStep_nextWf {s : State} (wf : s.MemWf) : NextWf (execStep s) :=
  issue_nextWf wf fun _ _ _ hu => leads_ok.mpr (modTile_memWf hu ..)

theorem execPchks_nextWf {s : State} (wf : s.MemWf) (a) : NextWf (execPchks a s) :=
  issue_nextWf wf fun _ _ _ hu => .bind <| raiseIf_leads hu (leads_ok.mpr hu)

theorem execPchkv_nextWf {s : State} (wf : s.MemWf) (v) : NextWf (execPchkv v s) :=
  issue_nextWf wf fun _ _ _ hu => .bind <| needV_leads hu fun _ hw => .bind <| raiseIf_leads hw (leads_ok.mpr (rdV_memWf hw ..))

theorem execPchkz_nextWf {s : State} (wf : s.MemWf) (z) : NextWf (execPchkz z s) :=
  issue_nextWf wf fun _ _ _ hu => .bind <| raiseIf_leads hu (.bind <| raiseIf_leads hu (leads_ok.mpr hu))

theorem execRcpdef_nextWf {s : State} (wf : s.MemWf) (n r) : NextWf (execRcpdef n r s) := by
  unfold execRcpdef
  dsimp only
  with_reducible refine issue_nextWf wf fun _ _ u hu => leads_ite (leads_waitIn.mpr hu) ?_
  split
  · with_reducible exact leads_trapIn.mpr hu
  · with_reducible exact leads_ite (leads_trapIn.mpr hu) (leads_ok.mpr (setTile_memWf hu ..))

theorem execRcpset_nextWf {s : State} (wf : s.MemWf) (d r) : NextWf (execRcpset d r s) :=
  issue_nextWf wf fun _ _ _ hu => .bind <| raiseIf_leads hu (.bind <| raiseIf_leads hu (.bind <| freeReg_leads hu fun _ hv =>
    leads_ok.mpr (modTile_memWf hv ..)))

theorem execRcpdrop_nextWf {s : State} (wf : s.MemWf) (d) : NextWf (execRcpdrop d s) :=
  issue_nextWf wf fun _ _ _ hu => .bind <| raiseIf_leads hu (leads_ok.mpr (memWf_ite (modTile_memWf hu ..) hu))

theorem execRcpclr_nextWf {s : State} (wf : s.MemWf) (r) : NextWf (execRcpclr r s) := by
  unfold execRcpclr
  dsimp only
  with_reducible refine issue_nextWf wf fun _ _ u hu => ?_
  split
  · with_reducible exact .bind <| leads_ok.mpr (leads_ok.mpr (modTile_memWf hu ..))
  · with_reducible exact .bind <| freeReg_leads hu fun v hv => .bind <| materialise_leads hv fun w hw => leads_ok.mpr (modTile_memWf hw ..)

theorem execRcpanch_nextWf {s : State} (wf : s.MemWf) (d c) : NextWf (execRcpanch d c s) :=
  issue_nextWf wf fun _ _ _ hu => .bind <| raiseIf_leads hu (leads_ok.mpr (modTile_memWf hu ..))

theorem execRcpunanch_nextWf {s : State} (wf : s.MemWf) (d c) : NextWf (execRcpunanch d c s) :=
  issue_nextWf wf fun _ _ _ hu => .bind <| freeReg_leads hu fun _ hv => leads_ok.mpr (modTile_memWf hv ..)

end Sys2Proof.Machine
end

section
set_option Elab.async false
/-! PROOFS. Storage stays canonical: every instruction, every agent, a step. -/
namespace Sys2Proof.Machine

theorem execShl_nextWf {s : State} (wf : s.MemWf) (d a b) : NextWf (execShl d a b s) := scalar3_nextWf wf ..
theorem execShr_nextWf {s : State} (wf : s.MemWf) (d a b) : NextWf (execShr d a b s) := scalar3_nextWf wf ..
theorem execSra_nextWf {s : State} (wf : s.MemWf) (d a b) : NextWf (execSra d a b s) := scalar3_nextWf wf ..
theorem execMulh_nextWf {s : State} (wf : s.MemWf) (d a b) : NextWf (execMulh d a b s) := scalar3_nextWf wf ..
theorem execMulhu_nextWf {s : State} (wf : s.MemWf) (d a b) : NextWf (execMulhu d a b s) := scalar3_nextWf wf ..
theorem execMin_nextWf {s : State} (wf : s.MemWf) (d a b) : NextWf (execMin d a b s) := scalar3_nextWf wf ..
theorem execMax_nextWf {s : State} (wf : s.MemWf) (d a b) : NextWf (execMax d a b s) := scalar3_nextWf wf ..
theorem execMinu_nextWf {s : State} (wf : s.MemWf) (d a b) : NextWf (execMinu d a b s) := scalar3_nextWf wf ..
theorem execMaxu_nextWf {s : State} (wf : s.MemWf) (d a b) : NextWf (execMaxu d a b s) := scalar3_nextWf wf ..
theorem execSeq_nextWf {s : State} (wf : s.MemWf) (d a b) : NextWf (execSeq d a b s) := scalar3_nextWf wf ..
theorem execSlt_nextWf {s : State} (wf : s.MemWf) (d a b) : NextWf (execSlt d a b s) := scalar3_nextWf wf ..
theorem execSltu_nextWf {s : State} (wf : s.MemWf) (d a b) : NextWf (execSltu d a b s) := scalar3_nextWf wf ..
theorem execAddi_nextWf {s : State} (wf : s.MemWf) (d a i) : NextWf (execAddi d a i s) := scalar2_nextWf wf ..
theorem execAndi_nextWf {s : State} (wf : s.MemWf) (d a i) : NextWf (execAndi d a i s) := scalar2_nextWf wf ..
theorem execOri_nextWf {s : State} (wf : s.MemWf) (d a i) : NextWf (execOri d a i s) := scalar2_nextWf wf ..
theorem execXori_nextWf {s : State} (wf : s.MemWf) (d a i) : NextWf (execXori d a i s) := scalar2_nextWf wf ..
theorem execShli_nextWf {s : State} (wf : s.MemWf) (d a n) : NextWf (execShli d a n s) := scalar2_nextWf wf ..
theorem execShri_nextWf {s : State} (wf : s.MemWf) (d a n) : NextWf (execShri d a n s) := scalar2_nextWf wf ..
theorem execSrai_nextWf {s : State} (wf : s.MemWf) (d a n) : NextWf (execSrai d a n s) := scalar2_nextWf wf ..
theorem execMovk_nextWf {s : State} (wf : s.MemWf) (d i h) : NextWf (execMovk d i h s) := scalar2_nextWf wf ..
theorem execKandn_nextWf {s : State} (wf : s.MemWf) (d a b) : NextWf (execKandn d a b s) := maskOp_nextWf wf ..
theorem execKnot_nextWf {s : State} (wf : s.MemWf) (d a) : NextWf (execKnot d a s) := maskOp_nextWf wf ..
theorem execCsrwr_nextWf {s : State} (wf : s.MemWf) (a c) : NextWf (execCsrwr a c s) := csrWrite_nextWf wf ..
theorem execCsrclr_nextWf {s : State} (wf : s.MemWf) (a c) : NextWf (execCsrclr a c s) := csrWrite_nextWf wf ..
theorem execMswap_nextWf {s : State} (wf : s.MemWf) (e) : NextWf (execMswap e s) := matrixIssue_nextWf wf ..

/-- Every instruction, and every event, leaves storage canonical. -/
theorem exec_nextWf (i : Instr) {s : State} (wf : s.MemWf) : NextWf (exec i s) := by
  cases i
  case add | sub | and | or | xor | mul => exact scalar3_nextWf wf ..
  case shl => exact execShl_nextWf wf ..
  case shr => exact execShr_nextWf wf ..
  case sra => exact execSra_nextWf wf ..
  case mulh => exact execMulh_nextWf wf ..
  case mulhu => exact execMulhu_nextWf wf ..
  case div | divu | rem | remu => exact scalarDiv_nextWf wf ..
  case min => exact execMin_nextWf wf ..
  case max => exact execMax_nextWf wf ..
  case minu => exact execMinu_nextWf wf ..
  case maxu => exact execMaxu_nextWf wf ..
  case seq => exact execSeq_nextWf wf ..
  case slt => exact execSlt_nextWf wf ..
  case sltu => exact execSltu_nextWf wf ..
  case clz | ctz | popc => exact scalar2_nextWf wf ..
  case sel => exact execSel_nextWf wf ..
  case addi => exact execAddi_nextWf wf ..
  case andi => exact execAndi_nextWf wf ..
  case ori => exact execOri_nextWf wf ..
  case xori => exact execXori_nextWf wf ..
  case shli => exact execShli_nextWf wf ..
  case shri => exact execShri_nextWf wf ..
  case srai => exact execSrai_nextWf wf ..
  case movk => exact execMovk_nextWf wf ..
  case cmpEq | cmpNe | cmpLt | cmpGe | cmpLtu | cmpGeu => exact flagCmp_nextWf wf ..
  case fand | for_ | fxor => exact flagOp_nextWf wf ..
  case fget => exact execFget_nextWf wf ..
  case fput => exact execFput_nextWf wf ..
  case beq | bne | blt | bge | bltu | bgeu => exact branchCmp_nextWf wf ..
  case bfs | bfc => exact branchFlag_nextWf wf ..
  case bqs | bqc => exact branchQ_nextWf wf ..
  case jmp | call | jmpr | callr => exact jump_nextWf wf ..
  case tkwait => exact execTkwait_nextWf wf ..
  case tktest => exact execTktest_nextWf wf ..
  case tkcnt => exact execTkcnt_nextWf wf ..
  case ldb | ldh | ldw | ldd | ldbs | ldhs | ldws => exact scalarLoad_nextWf wf ..
  case stb | sth | stw | std => exact scalarStore_nextWf wf ..
  case aswap | acas | aadd | aand | aor | axor | amin | amax | aminu | amaxu => exact atomic_nextWf wf ..
  case qfill => exact execQfill_nextWf wf ..
  case qstore => exact execQstore_nextWf wf ..
  case qpopa => exact execQpopa_nextWf wf ..
  case qbpush => exact execQbpush_nextWf wf ..
  case fence => exact execFence_nextWf wf ..
  case sqpush => exact execSqpush_nextWf wf ..
  case enq => exact execEnq_nextWf wf ..
  case bar => exact execBar_nextWf wf ..
  case vadd | vsub | vmul | vmin | vmax | vand | vor | vxor | vdiv | vsqrt | vmac | vshl | vshr | vadds | vsubs =>
    exact vArith_nextWf wf ..
  case vcmpeq | vcmplt | vcmple => exact vCompare_nextWf wf ..
  case vrsum | vrmin | vrmax | vrsumc => exact vReduce_nextWf wf ..
  case vfma => exact execVfma_nextWf wf ..
  case vcvt => exact execVcvt_nextWf wf ..
  case vperm => exact execVperm_nextWf wf ..
  case vbcstx => exact execVbcstx_nextWf wf ..
  case vbcste => exact execVbcste_nextWf wf ..
  case vcompress | vexpand => exact vPack_nextWf wf ..
  case kand | kor | kxor => exact maskOp_nextWf wf ..
  case kandn => exact execKandn_nextWf wf ..
  case knot => exact execKnot_nextWf wf ..
  case kmovx => exact execKmovx_nextWf wf ..
  case xmovk => exact execXmovk_nextWf wf ..
  case vmov => exact execVmov_nextWf wf ..
  case vld | vldc => exact vLoad_nextWf wf ..
  case vst | vstc => exact vStore_nextWf wf ..
  case qpopv => exact execQpopv_nextWf wf ..
  case qpopx => exact execQpopx_nextWf wf ..
  case qpushv => exact execQpushv_nextWf wf ..
  case qpushx => exact execQpushx_nextWf wf ..
  case zclr => exact execZclr_nextWf wf ..
  case zrd => exact execZrd_nextWf wf ..
  case zwr => exact execZwr_nextWf wf ..
  case zcvt => exact execZcvt_nextWf wf ..
  case mcfgwr => exact execMcfgwr_nextWf wf ..
  case mcfgrd => exact execMcfgrd_nextWf wf ..
  case csrrd => exact execCsrrd_nextWf wf ..
  case csrwr => exact execCsrwr_nextWf wf ..
  case csrset => exact csrWrite_nextWf wf ..
  case csrclr => exact execCsrclr_nextWf wf ..
  case trap => exact execTrap_nextWf wf ..
  case tret => exact execTret_nextWf wf ..
  case step => exact execStep_nextWf wf ..
  case brk => exact execBrk_nextWf wf ..
  case pchks => exact execPchks_nextWf wf ..
  case pchkv => exact execPchkv_nextWf wf ..
  case pchkz => exact execPchkz_nextWf wf ..
  case rcpdef => exact execRcpdef_nextWf wf ..
  case rcpset => exact execRcpset_nextWf wf ..
  case rcpdrop => exact execRcpdrop_nextWf wf ..
  case rcpclr => exact execRcpclr_nextWf wf ..
  case rcpanch => exact execRcpanch_nextWf wf ..
  case rcpunanch => exact execRcpunanch_nextWf wf ..
  case capture => exact execCapture_nextWf wf ..
  case restore => exact execRestore_nextWf wf ..
  case brkx => exact execBrkx_nextWf wf ..
  case copy | copyl | copyn | ovla | ovlx | tgather | kvgather | tscatter | collred | collgath | collbcast | colla2a | collsend | collrecv |
      pxhash | pxmatch | pxpath | kvopen | kvseal | kvfork | kvlease | kvrelease | rseal | runseal =>
    exact engIssue_nextWf wf ..
  case mwld | mma | mmas | mepi => exact matrixIssue_nextWf wf ..
  case mswap => exact execMswap_nextWf wf ..
  case xfnc => exact execXfnc_nextWf wf ..
  case drain => exact execDrain_nextWf wf ..
  case qadd | qsub | qand | qor | qxor | qshl | qshr | qaddi | qandi | qori | qshli | qshri | qmovi | qld | qst | qbeq | qbne | qbltu |
      qloop | qdisp | qdrop =>
    exact qInstr_nextWf wf ..
  case illegalInstruction => exact execIllegalInstruction_nextWf wf ..
  case debugHaltRequest => exact execDebugHaltRequest_nextWf wf ..
  case debugPortEnable => exact execDebugPortEnable_nextWf wf ..
  case contextInstall => exact execContextInstall_nextWf wf ..
  case powerReturn => exact execPowerReturn_nextWf wf ..
  case packageReset => exact execPackageReset_nextWf wf ..
  case dieRomImageCheck => exact execDieRomImageCheck_nextWf wf ..
  case registerWrite => exact execRegisterWrite_nextWf wf ..
  case hbmLineRead => exact execHbmLineRead_nextWf wf ..
  case partialLineMerge => exact execPartialLineMerge_nextWf wf ..
  case cxlReadComplete => exact execCxlReadComplete_nextWf wf ..
  case patrolScrub => exact execPatrolScrub_nextWf wf ..
  case cxlPortTrain => exact execCxlPortTrain_nextWf wf ..
  case cxlExtentAdded => exact execCxlExtentAdded_nextWf wf ..
  case bar2WindowRead => exact execBar2WindowRead_nextWf wf ..
  case bar2WindowWrite => exact execBar2WindowWrite_nextWf wf ..
  case msixVectorUnmask => exact execMsixVectorUnmask_nextWf wf ..
  case peerPortTrained => exact execPeerPortTrained_nextWf wf ..
  case flitReceive => exact execFlitReceive_nextWf wf ..
  case replayTimeout => exact execReplayTimeout_nextWf wf ..
  case creditReturnTimeout => exact execCreditReturnTimeout_nextWf wf ..
  case lookup => exact execLookup_nextWf wf ..
  case lookupR => exact execLookupR_nextWf wf ..
  case announce => exact execAnnounce_nextWf wf ..
  case withdraw => exact execWithdraw_nextWf wf ..
  case fetch => exact execFetch_nextWf wf ..
  case fetchR => exact execFetchR_nextWf wf ..
  case replicate => exact execReplicate_nextWf wf ..
  case replicateR => exact execReplicateR_nextWf wf ..
  case directoryRequestTimeout => exact execDirectoryRequestTimeout_nextWf wf ..
  case replicationRun => exact execReplicationRun_nextWf wf ..
  case ptpMessage => exact execPtpMessage_nextWf wf ..
  case tick => exact execTick_nextWf wf ..
  case holdoverEntry => exact execHoldoverEntry_nextWf wf ..
  case timeRelock => exact execTimeRelock_nextWf wf ..
  case timeFirstLock => exact execTimeFirstLock_nextWf wf ..
  case gangArm => exact execGangArm_nextWf wf ..
  case gangSwitch => exact execGangSwitch_nextWf wf ..
  case sluiceWindow => exact execSluiceWindow_nextWf wf ..
  case sluiceRequestHeld => exact execSluiceRequestHeld_nextWf wf ..
  case sluiceBudgetWrite => exact execSluiceBudgetWrite_nextWf wf ..
  case heldRequestPreempt => exact execHeldRequestPreempt_nextWf wf ..
  case temperatureSample => exact execTemperatureSample_nextWf wf ..
  case managementRequest => exact execManagementRequest_nextWf wf ..
  case qCtlWrite => exact execQCtlWrite_nextWf wf ..
  case doorbellWrite => exact execDoorbellWrite_nextWf wf ..
  case queueResume => exact execQueueResume_nextWf wf ..
  case qHeadWrite => exact execQHeadWrite_nextWf wf ..
  case crCtlWrite => exact execCrCtlWrite_nextWf wf ..
  case crHeadWrite => exact execCrHeadWrite_nextWf wf ..
  case packetTake => exact execPacketTake_nextWf wf ..
  case queueProgramRun => exact execQueueProgramRun_nextWf wf ..
  case padPacket => exact execPadPacket_nextWf wf ..
  case launchPacket => exact execLaunchPacket_nextWf wf ..
  case copyPacket => exact execCopyPacket_nextWf wf ..
  case confidentialCopy => exact execConfidentialCopy_nextWf wf ..
  case signalWrite => exact execSignalWrite_nextWf wf ..
  case signalAdd => exact execSignalAdd_nextWf wf ..
  case signalWaitge => exact execSignalWaitge_nextWf wf ..
  case signalWaitgeTick => exact execSignalWaitgeTick_nextWf wf ..
  case fencePacket => exact execFencePacket_nextWf wf ..
  case completionRecordWrite => exact execCompletionRecordWrite_nextWf wf ..
  case holdTimerExpiry => exact execHoldTimerExpiry_nextWf wf ..
  case progLoad => exact execProgLoad_nextWf wf ..
  case enqArrival => exact execEnqArrival_nextWf wf ..
  case mextGo => exact execMextGo_nextWf wf ..
  case getMeasurements => exact execGetMeasurements_nextWf wf ..
  case spdmRequest => exact execSpdmRequest_nextWf wf ..
  case chanSet => exact execChanSet_nextWf wf ..
  case chanClear => exact execChanClear_nextWf wf ..
  case lockInterface => exact execLockInterface_nextWf wf ..
  case startInterface => exact execStartInterface_nextWf wf ..
  case stopInterface => exact execStopInterface_nextWf wf ..
  case ideIntegrityFailure => exact execIdeIntegrityFailure_nextWf wf ..
  case stageChoice => exact execStageChoice_nextWf wf ..
  case itemStart => exact execItemStart_nextWf wf ..
  case stageEntryAvailable => exact execStageEntryAvailable_nextWf wf ..
  case itemRetire => exact execItemRetire_nextWf wf ..
  case cohortBarrierComplete => exact execCohortBarrierComplete_nextWf wf ..
  case launchRetire => exact execLaunchRetire_nextWf wf ..
  case starvationCapture => exact execStarvationCapture_nextWf wf ..
  case dieLeave => exact execDieLeave_nextWf wf ..
  case termEnd => exact execTermEnd_nextWf wf ..
  case waitOffer => exact execWaitOffer_nextWf wf ..
  case unheldTileOffer => exact execUnheldTileOffer_nextWf wf ..
  case priorityPreemption => exact execPriorityPreemption_nextWf wf ..
  case residencyScan => exact execResidencyScan_nextWf wf ..
  case residencyMoveComplete => exact execResidencyMoveComplete_nextWf wf ..
  case validate => exact execValidate_nextWf wf ..
  case promote => exact execPromote_nextWf wf ..
  case demote => exact execDemote_nextWf wf ..
  case evict => exact execEvict_nextWf wf ..
  case invalidate => exact execInvalidate_nextWf wf ..
  case shootdownPage => exact execShootdownPage_nextWf wf ..
  case shootdownContext => exact execShootdownContext_nextWf wf ..
  case shootdownAll => exact execShootdownAll_nextWf wf ..
  case shootdownAck => exact execShootdownAck_nextWf wf ..
  case translationWalkComplete => exact execTranslationWalkComplete_nextWf wf ..
  case thaw => exact execThaw_nextWf wf ..
  case caStoreClaimAnswer => exact execCaStoreClaimAnswer_nextWf wf ..
  case closeApplied => exact execCloseApplied_nextWf wf ..
  case engineCommandAccept => exact execEngineCommandAccept_nextWf wf ..
  case tokenComplete => exact execTokenComplete_nextWf wf ..
  case queueDeadlock => exact execQueueDeadlock_nextWf wf ..
  case checkerMismatchReplay => exact execCheckerMismatchReplay_nextWf wf ..
  case registerRegeneration => exact execRegisterRegeneration_nextWf wf ..
  case captureComplete => exact execCaptureComplete_nextWf wf ..
  case tileRestore => exact execTileRestore_nextWf wf ..
  case loggedArrivalDelivery => exact execLoggedArrivalDelivery_nextWf wf ..
  case contextEnd => exact execContextEnd_nextWf wf ..
  case errorRecordWrite => exact execErrorRecordWrite_nextWf wf ..
  case errLostClear => exact execErrLostClear_nextWf wf ..
  case ckptCfgGo => exact execCkptCfgGo_nextWf wf ..
  case checkpoint => exact execCheckpoint_nextWf wf ..
  case rollback => exact execRollback_nextWf wf ..
  case performanceCounterWrap => exact execPerformanceCounterWrap_nextWf wf ..
  case register => exact execRegister_nextWf wf ..
  case unregister => exact execUnregister_nextWf wf ..
  case namespaceClosed => exact execNamespaceClosed_nextWf wf ..
  case harvestSelect => exact execHarvestSelect_nextWf wf ..
  case harvestDemotionDone => exact execHarvestDemotionDone_nextWf wf ..
  case harvestRemovalDone => exact execHarvestRemovalDone_nextWf wf ..
  case rakeSearch => exact execRakeSearch_nextWf wf ..
  case collectiveReady => exact execCollectiveReady_nextWf wf ..
  case collectiveData => exact execCollectiveData_nextWf wf ..
  case collectiveTimeout => exact execCollectiveTimeout_nextWf wf ..
  case brkxSet => exact execBrkxSet_nextWf wf ..
  case brkxClear => exact execBrkxClear_nextWf wf ..
  case brkxResume => exact execBrkxResume_nextWf wf ..
  case brkxQuery => exact execBrkxQuery_nextWf wf ..

theorem after_nextWf {o : Host.Outcome State Fault Refusal} (h : NextWf o) {f} (hf : ∀ s, State.MemWf s → (f s).MemWf) :
    NextWf (Outcome.after o f) := by
  cases o with
  | next s => exact hf s h
  | fault r => trivial
  | refused r => trivial

theorem tileCycle_memWf {s : State} (wf : s.MemWf) (g) : (s.tileCycle g).MemWf := modTile_memWf wf ..

theorem afterWord_memWf {s : State} (wf : s.MemWf) (g st i d h) : (s.afterWord g st i d h).MemWf := by
  unfold State.afterWord
  split
  · exact modTile_memWf wf ..
  · exact memWf_with_cur wf _

theorem issueWord_nextWf {s : State} (wf : s.MemWf) (g st) : NextWf (issueWord s g st) := by
  have hcycle := tileCycle_memWf wf g
  unfold issueWord
  dsimp only
  with_reducible apply nextWf_ite (nextWf_next.mpr wf)
  split
  · exact stalled_memWf hcycle ..
  · exact modTile_memWf hcycle ..
  · exact takeCause_memWf hcycle ..
  · split
    · exact after_nextWf (exec_nextWf _ (memWf_with_cur hcycle _)) fun _ hu => afterWord_memWf hu ..
    · exact after_nextWf (exec_nextWf _ (memWf_with_cur hcycle _)) fun _ hu => memWf_with_cur hu _

theorem stepStream_nextWf {s : State} (wf : s.MemWf) (g st) : NextWf (stepStream s g st) :=
  after_nextWf (issueWord_nextWf wf g st) fun _ hu => memWf_ite hu (deliverWrap_memWf hu ..)

theorem stepInterp_nextWf {s : State} (wf : s.MemWf) (u) : NextWf (stepInterp s u) := by
  unfold stepInterp
  with_reducible apply nextWf_ite (nextWf_next.mpr wf)
  split
  · exact wf
  · split
    · exact after_nextWf (exec_nextWf _ (memWf_with_cur wf _)) fun _ hu => memWf_with_cur hu _
    · exact wf

/-- Whoever acts, storage stays canonical. -/
theorem act_nextWf {s : State} (wf : s.MemWf) (a) : NextWf (act s a) := by
  cases a with
  | stream g st => exact stepStream_nextWf wf g st
  | interp u => exact stepInterp_nextWf wf u
  | event i => exact exec_nextWf i wf
  | deliver d h =>
    unfold act
    dsimp only
    split
    · exact applyWrite_memWf (setChan_memWf wf ..) ..
    · exact wf
  | leave g => exact leaveN_memWf _ _ _ wf
  | imageOut h pa => exact imageOut_memWf wf ..
  | imageIn h => exact imageIn_memWf wf ..
  | nanoseconds n => exact nanoseconds_memWf wf ..
  | releaseExtent p base size => exact releaseExtent_memWf wf ..
  | confBegin u ide err => exact confBegin_memWf wf ..
  | fwExtend j d => exact memWf_ite wf (extendMreg_memWf wf ..)
  | giveSlot k => exact memWf_ite wf (drawKey_memWf wf ..)
  | barWrite fn two a => exact frozenWrite_memWf wf (setFn_memWf wf ..)
  | hostError => exact wf
  | hostStore fn a bs => exact hostWrite_memWf wf ..
  | arrayError e => exact memWf_ite wf (arrayError_memWf wf ..)
  | beats g e seq n ahead => exact memWf_ite wf (runBeats_memWf wf ..)

theorem step_nextWf {s : State} (wf : s.MemWf) : NextWf (step s) := by
  have helapse := elapse_memWf wf
  unfold step
  dsimp only
  split
  · exact act_nextWf helapse _
  · exact act_nextWf (memWf_with_agenda helapse _) _

/-- Settles O58: `step_nextWf`, which rests on `exec_nextWf` and on what each function of the model makes of storage. -/
theorem everyStepKeepsStorageCanonical : Obligations.EveryStepKeepsStorageCanonical := by
  unfold Obligations.EveryStepKeepsStorageCanonical
  intro s t wf e
  have h := step_nextWf wf
  rw [e] at h
  exact h

end Sys2Proof.Machine
end
